-- ==== Sys2Proof/Word.lean ====
section
/-!
DEFINITION. The words of the part: bytes, 32-bit and 64-bit registers, and the lists of bytes that memory,
packets and records are made of.
-/

namespace Sys2Proof

/-- One byte of memory, of a packet or of a record. -/
abbrev Byte := BitVec 8

/-- A 32-bit word. -/
abbrev W32 := BitVec 32

/-- A 64-bit word: a register, a sync object. -/
abbrev W64 := BitVec 64

end Sys2Proof
end

