-- ==== Sys2Proof/Syntax.lean ====
section
/-!
DEFINITION. The commands the block takes: one constructor for each row of the table of operations and
events, in the table's order. Each docstring gives the rule of the row and the table's own summary.
-/

namespace Sys2Proof

/-- A fragment as a command spells it: its pixel, its sample, its primitive's key, its place in the primitive, and the
texture samples it takes (R262, R271, R275). -/
structure FragWord where
  pixel : Nat
  sample : Nat
  prim : List Nat
  place : Nat
  texs : List (List Nat)
  deriving DecidableEq, Repr

/-- A pass at work: its packet and its fragments, in the order in which their shading ends. -/
structure PassWork where
  packet : Nat
  frags : List FragWord
  deriving DecidableEq, Repr

/-- A command from outside, or a happening of one of the block's own agents, as the table lists them. -/
inductive Instr where
  /-- MESH_REQUEST (R15): A master issues a read or write on the mesh; it is routed to its target, checked and served. -/
  | meshRequest (master : Nat) (serves : Nat) (cls : Nat) (addr : Nat) (world : Bool) (parity : Bool) (len : Nat) (write : Bool) (data : List Byte)
  /-- PREWAKE (R25): A group scheduler asks Sluice for wake and job-start budget and starts the wake ahead of a known release. -/
  | prewake (packet : Nat)
  /-- SLICE_CREATE (R32): SLICE_CREATE allocates a slice with its resources all or nothing. -/
  | sliceCreate (packet : Nat)
  /-- SLICE_DESTROY (R56): SLICE_DESTROY drains the slice's functions, stops its rings, frees models, pages and resources. -/
  | sliceDestroy (packet : Nat)
  /-- SLICETAG_WRITE (R35): A write of the SLICETAG CSR changes the slice tag of the core's later requests. -/
  | slicetagWrite (hart : Nat) (mode : Nat) (value : W64)
  /-- PREDCLR_WRITE (R349): A write of the PREDCLR CSR clears the core's predictor entries of the given tag and its return-address stack. -/
  | predclrWrite (hart : Nat) (mode : Nat) (value : W64)
  /-- ACC_PASID_MAP_WRITE (R36): A control core with tag 0 binds or clears a PASID for a slice, ignoring duplicate PASIDs. -/
  | accPasidMapWrite (master : Nat) (tag : Nat) (slice : Nat) (value : W32)
  /-- ACC_TABLE_WRITE (R39): A write to an access-table register is taken, ignored or denied by its writer and target. -/
  | accTableWrite (master : Nat) (tag : Nat) (target : Nat) (off : Nat) (value : W64)
  /-- REGISTER_WRITE (R12): A write to a register without behaviour of its own updates its fields by their access types. -/
  | registerWrite (master : Nat) (tag : Nat) (addr : Nat) (data : List Byte)
  /-- RC_REGISTER_READ (R12): A read of a read-clear register returns its value and clears it. -/
  | rcRegisterRead (master : Nat) (tag : Nat) (addr : Nat) (len : Nat)
  /-- MEM_INVALIDATE (R48): MEM_INVALIDATE checks a range and waits for accepted requests to it before clearing its valid bits. -/
  | memInvalidate (packet : Nat)
  /-- MEM_INVALIDATE_CLEAR (R48): Once earlier requests to the range have completed, its valid bits are cleared and the command completes. -/
  | memInvalidateClear (packet : Nat)
  /-- DIRTY_LOG_DISABLE (R49): SLICE_DIRTY_LOG DISABLE stops logging and leaves the bitmap. -/
  | dirtyLogDisable (packet : Nat)
  /-- DIRTY_LOG_ENABLE (R49): SLICE_DIRTY_LOG ENABLE clears the bitmap and starts logging device writes of the slice. -/
  | dirtyLogEnable (packet : Nat)
  /-- DIRTY_LOG_READ_CLEAR (R50): SLICE_DIRTY_LOG READ_CLEAR copies the bitmap word by word to SNAPSHOT and clears it. -/
  | dirtyLogReadClear (packet : Nat)
  /-- FUNCTION_DISABLE (R53): FUNCTION_DISABLE refuses new and queued packets of the masked functions and starts their drain. -/
  | functionDisable (packet : Nat)
  /-- FUNCTION_ENABLE (R54): FUNCTION_DISABLE with ENABLE re-enables the masked functions, waiting for any drain in progress. -/
  | functionEnable (packet : Nat)
  /-- FUNCTION_DISABLE_TIMEOUT (R53): At the drain timeout, work still in flight is aborted with ABORTED_BY_DISABLE and its resources freed. -/
  | functionDisableTimeout (packet : Nat)
  /-- FUNCTION_DISABLE_DRAINED (R53): When nothing of the functions is in flight, the command completes and a FUNCTION_DISABLED event is written. -/
  | functionDisableDrained (packet : Nat)
  /-- DOORBELL_LOWER_HALF_WRITE (R59): A 32-bit write of the lower half of a 64-bit doorbell register is held in the staging register. -/
  | doorbellLowerHalfWrite (slice : Nat) (off : Nat) (value : W32)
  /-- DOORBELL_BAD_ACCESS (R59): A doorbell access of wrong size or alignment is not acted on and is recorded with source 15. -/
  | doorbellBadAccess (master : Nat) (slice : Nat) (off : Nat) (write : Bool)
  /-- RING_ENABLE (R63): Setting SQ_CTRL.ENABLE checks size and placement and resets the indices, or stops the ring. -/
  | ringEnable (slice : Nat) (ring : Nat) (log2 : Nat)
  /-- RING_DISABLE (R63): Clearing SQ_CTRL.ENABLE stops fetching, discards an unstarted fetched packet and drains the ring. -/
  | ringDisable (slice : Nat) (ring : Nat)
  /-- RING_DRAINED (R63): When every started packet of a draining ring has completed, the ring enters DISABLED. -/
  | ringDrained (slice : Nat) (ring : Nat)
  /-- EVENT_RING_ENABLE (R63): Setting EQ_CTRL.ENABLE checks the event ring and resets its indices, writing any pending overflow record first. -/
  | eventRingEnable (slice : Nat) (log2 : Nat)
  /-- SQ_TAIL_WRITE (R65): A write to SQ_TAIL is ignored, stops the ring, or takes a new tail that covers packets. -/
  | sqTailWrite (slice : Nat) (ring : Nat) (tail : W32)
  /-- PACKET_FETCH (R64): The part fetches a covered packet from the ring's head and checks its header. -/
  | packetFetch (slice : Nat) (ring : Nat)
  /-- PACKET_START (R67): A ready ring head is chosen by class and age and handed to its engine or the firmware queue. -/
  | packetStart
  /-- PACKET_COMPLETE (R68): A started packet makes its writes visible, signals, writes its reply, write-back and interrupt. -/
  | packetComplete (packet : Nat)
  /-- CQ_HEAD_WRITE (R69): A write to CQ_HEAD frees completion entries, or stops the ring when invalid. -/
  | cqHeadWrite (slice : Nat) (ring : Nat) (head : W32)
  /-- EQ_HEAD_WRITE (R61): A write to EQ_HEAD frees event entries, or is ignored when backwards or past the tail. -/
  | eqHeadWrite (slice : Nat) (head : W32)
  /-- NOP (R76): NOP does nothing beyond its header wait and signal. -/
  | nopPacket (packet : Nat)
  /-- FENCE (R77): FENCE starts and waits for the completion of its set of earlier packets. -/
  | fencePacket (packet : Nat)
  /-- FENCE_RELEASE (R77): When every packet of its set has completed and its writes are visible, FENCE completes. -/
  | fenceRelease (packet : Nat)
  /-- SYNC_SIGNAL (R78): SYNC_SIGNAL applies its entries to sync objects in order, then its header signal. -/
  | syncSignal (packet : Nat)
  /-- SYNC_WAIT (R79): SYNC_WAIT checks its entries and waits on its ALL and ANY conditions. -/
  | syncWait (packet : Nat)
  /-- SYNC_WAIT_RELEASE (R79): A sync update meets the SYNC_WAIT conditions and the packet completes with the met-entry mask. -/
  | syncWaitRelease (packet : Nat)
  /-- MEM_COPY (R80): The copy engines copy LENGTH bytes from SRC to DST under the access checks. -/
  | memCopy (packet : Nat)
  /-- MEM_FILL (R81): The copy engines fill LENGTH bytes from DST with the 8-byte pattern. -/
  | memFill (packet : Nat)
  /-- SYNC_WINDOW_WRITE (R85): An aligned 64-bit write to the sync window performs SET_MAX on the object. -/
  | syncWindowWrite (slice : Nat) (index : Nat) (value : W64)
  /-- SYNC_WINDOW_BAD_ACCESS (R85): A sync-window access of wrong size or alignment is ignored and a write is recorded with source 15. -/
  | syncWindowBadAccess (master : Nat) (slice : Nat) (off : Nat) (write : Bool)
  /-- GRP_OPP_CAP_WRITE (R95): A tag 0 write sets the group's fastest operating point for its next transition to Running. -/
  | grpOppCapWrite (tag : Nat) (group : Nat) (value : W32)
  /-- TILE_LFSR_WRITE (R96): A write of TILE_LFSR loads the stochastic-rounding state, a zero loading 1. -/
  | tileLfsrWrite (master : Nat) (tag : Nat) (tile : Nat) (value : W32)
  /-- TILE_COUNTER_CLEAR (R98): A write of TILE_CNT_CTRL.CLR clears every counter of the tile. -/
  | tileCounterClear (master : Nat) (tag : Nat) (tile : Nat) (value : W32)
  /-- TILE_NOP (R119): Tile instruction NOP. -/
  | tileNop (tile : Nat)
  /-- LOOP (R119): Tile instruction LOOP opens a loop level with a count and address increments. -/
  | tileLoop (tile : Nat)
  /-- ENDLOOP (R119): Tile instruction ENDLOOP closes the innermost loop. -/
  | endLoop (tile : Nat)
  /-- BRANCH (R119): Tile instruction BRANCH moves decode to a target index. -/
  | tileBranch (tile : Nat)
  /-- END (R119): Tile instruction END ends the tile's program once every queue has drained. -/
  | tileEnd (tile : Nat)
  /-- BARRIER (R119): Tile instruction BARRIER holds decode until every unit queue is empty and idle. -/
  | tileBarrier (tile : Nat)
  /-- MMA (R101): MMA merges one 32-step chunk into the accumulators of the named arrays, skipping zero steps. -/
  | mma (tile : Nat)
  /-- ACC_ZERO (R119): ACC_ZERO sets the named arrays' accumulators to zero. -/
  | accZero (tile : Nat)
  /-- ACC_READ (R119): ACC_READ writes the named arrays' accumulators to DST. -/
  | accRead (tile : Nat)
  /-- ACC_LOAD (R119): ACC_LOAD loads the named arrays' accumulators from SRC_A. -/
  | accLoad (tile : Nat)
  /-- VADD (R114): Vector add. -/
  | vadd (tile : Nat)
  /-- VMUL (R114): Vector multiply. -/
  | vmul (tile : Nat)
  /-- VFMA (R114): Vector fused multiply-add. -/
  | vfma (tile : Nat)
  /-- VMIN (R114): Vector minimum. -/
  | vmin (tile : Nat)
  /-- VMAX (R114): Vector maximum. -/
  | vmax (tile : Nat)
  /-- VCMP (R114): Vector compare. -/
  | vcmp (tile : Nat)
  /-- VSEL (R114): Vector select. -/
  | vsel (tile : Nat)
  /-- VEXP (R115): Vector exponential. -/
  | vexp (tile : Nat)
  /-- VRCP (R115): Vector reciprocal. -/
  | vrcp (tile : Nat)
  /-- VRSQ (R115): Vector reciprocal square root. -/
  | vrsq (tile : Nat)
  /-- VTANH (R115): Vector hyperbolic tangent. -/
  | vtanh (tile : Nat)
  /-- VREQ (R111): VREQ requantises accumulator values with scale, bias and zero point. -/
  | vreq (tile : Nat)
  /-- VCVT (R119): VCVT converts formats without scale. -/
  | vcvt (tile : Nat)
  /-- VRED (R119): VRED reduces across lanes by sum, maximum or minimum. -/
  | vred (tile : Nat)
  /-- MOVE (R119): MOVE copies bytes within tile memory or to and from vector registers. -/
  | moveTile (tile : Nat)
  /-- SEND (R119): SEND writes bytes to another tile's memory through the mesh. -/
  | sendTile (tile : Nat)
  /-- TILE_SYNC_ADD (R119): SYNC_ADD adds to a sync object once every earlier SEND of the tile is visible. -/
  | tileSyncAdd (tile : Nat)
  /-- TILE_SYNC_WAIT (R119): Tile SYNC_WAIT begins waiting for a sync object to reach a count. -/
  | tileSyncWait (tile : Nat)
  /-- TILE_SYNC_WAIT_MET (R119): The awaited object reaches its count and the SET_TAG entry becomes ready, or faults on the error bit. -/
  | tileSyncWaitMet (tile : Nat)
  /-- INSTRUCTION_COMPLETE (R120): An instruction's results become visible and its scoreboard entry becomes READY. -/
  | instructionComplete (tile : Nat) (unit : Nat)
  /-- IBUF_FILL_DONE (R116): An instruction-buffer block fill completes and waiting decode continues. -/
  | ibufFillDone (tile : Nat) (block : Nat)
  /-- TILE_HANG (R123): A running tile without progress for TILE_HANG_LIMIT clocks faults with HANG. -/
  | tileHang (tile : Nat)
  /-- RILL_STRIDED (R137): A STRIDED descriptor starts a tensor walk read or write. -/
  | rillStrided (tile : Nat) (rill : Nat)
  /-- RILL_GATHER (R138): A GATHER descriptor starts an indexed read of rows. -/
  | rillGather (tile : Nat) (rill : Nat)
  /-- RILL_SCATTER (R139): A SCATTER descriptor starts an indexed store or add of rows. -/
  | rillScatter (tile : Nat) (rill : Nat)
  /-- RILL_CSR (R140): A CSR descriptor starts a sparse row walk. -/
  | rillCsr (tile : Nat) (rill : Nat)
  /-- RILL_CSC (R140): A CSC descriptor starts a sparse column walk. -/
  | rillCsc (tile : Nat) (rill : Nat)
  /-- RILL_HASH_PROBE (R141): A HASH_PROBE descriptor starts open-addressed lookups. -/
  | rillHashProbe (tile : Nat) (rill : Nat)
  /-- RILL_SET_INTERSECT (R142): A SET_INTERSECT descriptor starts a sorted-list merge. -/
  | rillSetIntersect (tile : Nat) (rill : Nat)
  /-- RILL_NEIGHBOUR (R143): A NEIGHBOUR descriptor starts an adjacency walk. -/
  | rillNeighbour (tile : Nat) (rill : Nat)
  /-- RILL_BUCKET_NN (R144): A BUCKET_NN descriptor starts bucketed nearest-neighbour search. -/
  | rillBucketNn (tile : Nat) (rill : Nat)
  /-- RILL_RESPONSE (R135): A Rill read response lands in its reserved pool line, possibly completing a delivery. -/
  | rillResponse (tile : Nat) (rill : Nat) (which : Nat)
  /-- TILE_QUEUE_RELEASE (R145): A DRAM channel slot frees and the tile queue releases its oldest request for that channel. -/
  | tileQueueRelease (tile : Nat) (channel : Nat)
  /-- RILL_DESCRIPTOR_DONE (R130): A descriptor's requests have landed or become visible; the result count is written and DONE_TAG becomes READY. -/
  | rillDescriptorDone (tile : Nat) (rill : Nat)
  /-- DCE_LFSR_WRITE (R176): A write of DCE_LFSR or NGT_LFSR loads the engine's rounding state, a zero loading 1. -/
  | dceLfsrWrite (master : Nat) (tag : Nat) (group : Nat) (engine : Nat) (value : W32)
  /-- CONV (R166): The direct engine starts a convolution descriptor. -/
  | convDesc (group : Nat)
  /-- MAXPOOL (R167): The direct engine starts a max-pooling descriptor. -/
  | maxpool (group : Nat)
  /-- AVGPOOL (R167): The direct engine starts an average-pooling descriptor. -/
  | avgpool (group : Nat)
  /-- NOUGAT_IN (R169): Nougat starts pixel conversion, normalisation and a first-layer convolution. -/
  | nougatIn (group : Nat)
  /-- NOUGAT_OUT (R168): Nougat starts a last-layer convolution to 1 to 8 channels. -/
  | nougatOut (group : Nat)
  /-- CROP_RESIZE (R172): The crop-and-resize unit starts sampling boxes from a feature map. -/
  | cropResize (group : Nat)
  /-- ENGINE_DESCRIPTOR_DONE (R163): An engine descriptor's writes are visible; its signal is applied and the next descriptor is taken. -/
  | engineDescriptorDone (group : Nat) (engine : Nat)
  /-- JOB_RUN (R182): JOB_RUN is handed to the lead scheduler, checked and queued. -/
  | jobRun (packet : Nat)
  /-- PENDING_RELEASE (R201): A fetched JOB_RUN waiting on its header wait passes its release to the lead scheduler. -/
  | pendingRelease (packet : Nat)
  /-- JOB_DISPATCH (R200): A ready job whose tiles, engines and budget are available is dispatched and its tiles loaded. -/
  | jobDispatch (job : Nat)
  /-- JOB_END (R183): A job ends, frees its tiles, engines and grant, and completes its JOB_RUN with its result word. -/
  | jobEnd (job : Nat)
  /-- PREEMPT_SIGNAL (R205): The scheduler signals pre-emption of a job, whose tiles stop and settle before the save. -/
  | preemptSignal (job : Nat)
  /-- SAVE_COMPLETE (R208): The save finishes, MAGIC is written, the grant and tiles are freed and JOB_PREEMPTED is written. -/
  | saveComplete (job : Nat)
  /-- RESTORE_COMPLETE (R209): A resumed job's restore finishes, JOB_RESUMED is written and decode continues. -/
  | restoreComplete (job : Nat)
  /-- JOB_PREEMPT (R210): JOB_PREEMPT pre-empts or holds the named job of the slice. -/
  | jobPreempt (packet : Nat)
  /-- PREEMPT_HOLD_EXPIRY (R210): HOLD_US after a JOB_PREEMPT completes, the target may dispatch or resume again. -/
  | preemptHoldExpiry (job : Nat)
  /-- JOB_ABORT (R211): JOB_ABORT ends the named job with ABORTED in whatever state it is. -/
  | jobAbort (packet : Nat)
  /-- MODEL_REGISTER (R189): MODEL_REGISTER reads and hashes an image, checks it and makes a registry entry. -/
  | modelRegister (packet : Nat)
  /-- MODEL_PIN (R195): MODEL_PIN pins or unpins a model, loading it when needed. -/
  | modelPin (packet : Nat)
  /-- MODEL_EVICT (R196): MODEL_EVICT frees a model's segments and optionally unregisters it, deferred while jobs hold it. -/
  | modelEvict (packet : Nat)
  /-- MODEL_VERIFY (R197): MODEL_VERIFY hashes the DRAM image and resident copy and reloads a bad resident copy. -/
  | modelVerify (packet : Nat)
  /-- MODEL_LOAD_DONE (R192): A model's hot region finishes loading into the model cache. -/
  | modelLoadDone (model : Nat)
  /-- TRIGGER_ENABLE (R216): Setting a trigger's EN arms its first edge or refuses with ARM_ERR. -/
  | triggerEnable (tag : Nat) (trigger : Nat) (value : W32)
  /-- TRIGGER_EDGE (R216): A trigger edge fires at its device time on its ball and for its bound streams. -/
  | triggerEdge (trigger : Nat)
  /-- FUSE_STREAM_OPEN (R220): FUSE_STREAM_OPEN checks and opens a Confluence stream. -/
  | fuseStreamOpen (packet : Nat)
  /-- FUSE_STREAM_CLOSE (R222): FUSE_STREAM_CLOSE stops a stream at its next frame boundary. -/
  | fuseStreamClose (packet : Nat)
  /-- FUSE_POLICY_CONTEXT (R223): FUSE_POLICY 0 sets an alignment context. -/
  | fusePolicyContext (packet : Nat)
  /-- FUSE_POLICY_GRID (R226): FUSE_POLICY 1 sets an L1 grid. -/
  | fusePolicyGrid (packet : Nat)
  /-- FUSE_POLICY_TRACKER (R227): FUSE_POLICY 2 sets the L2 tracker. -/
  | fusePolicyTracker (packet : Nat)
  /-- FUSE_POLICY_STREAM (R223): FUSE_POLICY 3 sets REVISABLE and LATE_LIMIT of a stream. -/
  | fusePolicyStream (packet : Nat)
  /-- FUSE_POLICY_RELEASE (R223): FUSE_POLICY with RELEASE unbinds an index from its slice. -/
  | fusePolicyRelease (packet : Nat)
  /-- CAMERA_ROW (R225): A CSI-2 row arrives and is undistorted and written to the stream buffer. -/
  | cameraRow (stream : Nat) (row : Nat) (verdict : Nat) (data : List (BitVec 8))
  /-- CAMERA_FRAME_END (R225): A camera frame ends and its L0 record is published once its lidar projections are in or its cut-off passed. -/
  | cameraFrameEnd (stream : Nat)
  /-- LIDAR_PACKET (R225): A lidar packet arrives and its points are timed and reprojected into camera depth planes. -/
  | lidarPacket (stream : Nat) (data : List (BitVec 8))
  /-- IMU_SAMPLE (R217): READ_DELAY after its trigger edge, the IMU sample is read over SPI and recorded. -/
  | imuSample (stream : Nat) (data : List (BitVec 8))
  /-- INJECT_CONTRIBUTION (R221): An INJECT stream reads its next contribution descriptor once IN_OBJ covers it. -/
  | injectContribution (stream : Nat)
  /-- ALIGN_WAIT_EXPIRY (R224): ALIGN_WAIT passes without a newer pose and the contribution is aligned by extrapolation or DEGRADED. -/
  | alignWaitExpiry (context : Nat)
  /-- LATE_CUTOFF (R232): At a stream's cut-off, its record is published INVALID with DROPPED_INPUT. -/
  | lateCutoff (stream : Nat)
  /-- L1_CYCLE (R228): An anchor contribution arrives and the grid cycle scatter-accumulates pending contributions and publishes. -/
  | l1Cycle (grid : Nat)
  /-- L2_CYCLE (R227): An anchor contribution arrives and the tracker predicts, associates, updates and publishes. -/
  | l2Cycle
  /-- LATE_REVISION (R234): A late contribution of a revisable stream revises its product and a new revision record is published. -/
  | lateRevision (producer : Nat)
  /-- ALE_STEP (R242): At a 48 kHz frame edge the engine runs one loop, adaptation and beamformer step. -/
  | aleStep (even : List (Nat × W32)) (odd : List (Nat × W32))
  /-- DIVERGENCE (R248): An error power above DIV_THRESH for DIV_HOLD samples triggers DIV_ACTION at the next frame edge. -/
  | divergence
  /-- ALE_LOAD (R250): ALE_LOAD GO reads and checks a loop parameter block into the load bank. -/
  | aleLoad (tag : Nat) (value : W64)
  /-- ALE_LOAD_TAKE_EFFECT (R250): An accepted load takes effect at the first frame edge after its check. -/
  | aleLoadTakeEffect
  /-- ALE_ENABLE (R260): A write of ALE_CTRL.EN starts or stops the loop and ports at the next frame edge. -/
  | aleEnable (tag : Nat) (en : Bool)
  /-- ALE_ADAPT (R247): A write of ALE_CTRL.ADAPT holds or resumes adaptation at the next frame edge. -/
  | aleAdapt (tag : Nat) (adapt : Bool)
  /-- ALE_PORT_CFG_WRITE (R252): A write of ALE_PORT_CFG is taken only while ALE_CTRL.EN is clear. -/
  | alePortCfgWrite (tag : Nat) (port : Nat) (value : W32)
  /-- AUDIO_RING_ENABLE (R253): Setting a ring's EN reads and checks its descriptor. -/
  | audioRingEnable (tag : Nat) (ring : Nat) (value : W64)
  /-- CAPTURE_BLOCK (R254): A capture block completes and its record is written and SIGNAL_OBJ incremented. -/
  | captureBlock (ring : Nat)
  /-- PLAYBACK_FETCH (R255): A playback ring fetches block k once SIGNAL_OBJ covers it and the previous block plays. -/
  | playbackFetch (ring : Nat)
  /-- PLAYBACK_BLOCK_START (R255): A playback block begins at its frame edge, playing zeros and counting an underrun if not fetched. -/
  | playbackBlockStart (ring : Nat)
  /-- STATUS_RECORD (R256): At the end of each STAT_BLOCK the loop writes a status record. -/
  | statusRecord
  /-- AVTP_FRAME (R257): An IEEE 1722 AAF frame for a listener is taken and its samples scheduled for presentation. -/
  | avtpFrame (stream : W64) (bits : Nat) (rate : Nat) (channels : Nat) (time : Nat) (samples : List (List W32))
  /-- GFX_PASS (R265): GFX_PASS is checked and asks Sluice for its budget. -/
  | gfxPass (packet : Nat)
  /-- PASS_GEOMETRY (R266): A granted pass runs its vertex stage and bins its primitives. -/
  | passGeometry (packet : Nat) (prims : List (List Nat × Nat × List Nat))
  /-- PARTIAL_FLUSH (R273): A primitive does not fit the bin memory and Fondant renders and stores every tile, then frees the bins. -/
  | partialFlush (packet : PassWork)
  /-- PASS_COMPLETE (R266): Every screen tile is stored and the pass completes with its result word. -/
  | passComplete (packet : PassWork) (cause : Nat) (list : Nat) (off : Nat) (tiles : List Nat)
  /-- PASS_TAKEOVER (R269): A higher-class pass becomes ready and cores switch to its tiles at tile boundaries. -/
  | passTakeover (packet : Nat)
  /-- GFX_HANG (R268): A core renders one tile beyond GFX_HANG_LIMIT and the pass fails with HANG. -/
  | gfxHang (packet : PassWork) (list : Nat) (off : Nat) (tiles : List Nat)
  /-- DSP_PIPE_ENABLE (R277): A write of DSP_PIPE_CTRL.EN starts scanning or stops it at frame end. -/
  | dspPipeEnable (tag : Nat) (pipe : Nat) (value : W32)
  /-- DSP_COMMIT (R277): DSP_COMMIT.GO loads the pending registers at once or at the next vertical blank. -/
  | dspCommit (tag : Nat) (pipe : Nat) (value : W32)
  /-- COMMIT_LOAD (R277): At the vertical blank the pending plane and background registers load, or the commit is refused. -/
  | commitLoad (pipe : Nat)
  /-- DISPLAY_LINK_TRAINING (R278): Setting DSP_OUT_CFG.EN trains the DisplayPort link over AUX and reports the result. -/
  | displayLinkTraining (tag : Nat) (pipe : Nat) (value : W32) (trained : Bool) (lanes : Nat) (rate : Nat)
  /-- DISPLAY_LINK_LOSS (R278): Loss of hot-plug or link lock writes DISPLAY_LINK while scanning continues. -/
  | displayLinkLoss (pipe : Nat) (hotplug : Bool)
  /-- FRAME_END_CRC (R281): At the end of the last active line the pipe hands its region CRCs to the island, which compares them. -/
  | frameEndCrc (pipe : Nat) (missed : List (Nat × Nat))
  /-- PIPE_STALL (R281): A pipe completes no frame within 2 frame periods and all enabled regions mismatch. -/
  | pipeStall (pipe : Nat)
  /-- OUTPUT_SET (R286): SAFE_PROFILE_SET OUTPUT_SET configures a safety output and its watch. -/
  | outputSet (packet : Nat)
  /-- OUTPUT_DISARM (R287): SAFE_PROFILE_SET OUTPUT_DISARM clears an output's watch. -/
  | outputDisarm (packet : Nat)
  /-- GROUP_RELEASE (R304): SAFE_PROFILE_SET GROUP_RELEASE releases a function group from safe state. -/
  | groupRelease (packet : Nat)
  /-- GROUP_FORCE (R301): SAFE_PROFILE_SET GROUP_FORCE puts a function group into safe state. -/
  | groupForce (packet : Nat)
  /-- MESSAGE_SET (R286): SAFE_PROFILE_SET MESSAGE_SET configures the safe-state message transports. -/
  | messageSet (packet : Nat)
  /-- TELLTALE_SET (R307): SAFE_PROFILE_SET TELLTALE_SET binds a pipe's CRC mismatches to a function group. -/
  | telltaleSet (packet : Nat)
  /-- JOB_RUN_DIVERSE (R289): JOB_RUN_DIVERSE checks and queues two channels of a Safety job. -/
  | jobRunDiverse (packet : Nat)
  /-- WEIR_DECISION (R295): Weir compares both channels' tensors under the output's profile and decides. -/
  | weirDecision
  /-- DEADLINE_MISS (R299): A watched deadline closes without a VALID record; a miss record is written and safe state entered. -/
  | deadlineMiss (output : Nat)
  /-- SAFE_MESSAGE_REPEAT (R303): Every REPEAT_MS while a group is in safe state, a kind 1 message is sent. -/
  | safeMessageRepeat
  /-- GOLDEN_SCHEDULE_SET (R309): GOLDEN_SCHEDULE OP 0 sets a schedule entry and copies its descriptor. -/
  | goldenScheduleSet (packet : Nat)
  /-- GOLDEN_SCHEDULE_CLEAR (R309): GOLDEN_SCHEDULE OP 1 clears a schedule entry. -/
  | goldenScheduleClear (packet : Nat)
  /-- GOLDEN_SCHEDULE_RUN_NOW (R309): GOLDEN_SCHEDULE OP 2 runs the entry's golden frame on each of its groups now. -/
  | goldenScheduleRunNow (packet : Nat)
  /-- GOLDEN_RUN_DUE (R312): A group's golden run falls due and starts, or is deferred by DEFER_MS. -/
  | goldenRunDue (group : Nat)
  /-- GOLDEN_RUN_END (R314): A golden run ends and its output hash is compared, passing or marking the group FAILED. -/
  | goldenRunEnd (group : Nat)
  /-- GOLDEN_OVERDUE (R313): DIAG_MS passes without a pass; the group is UNTESTED and carried groups enter safe state. -/
  | goldenOverdue (group : Nat)
  /-- LOCKSTEP_MISMATCH (R318): The lockstep comparator finds a mismatch; SAFE_N assert, the pair resets and self-tests. -/
  | lockstepMismatch (selftest : Bool)
  /-- SELFTEST_SLICE_START (R325): A rotating or explicit tile test slice is admitted and starts. -/
  | selftestSliceStart (tile : Nat)
  /-- SELFTEST_STEP (R324): A tile test step completes at its abort point. -/
  | selftestStep (tile : Nat) (pass : Bool)
  /-- SELFTEST_ABORT (R326): A running slice is aborted at its next abort point for a job or moved release. -/
  | selftestAbort (tile : Nat)
  /-- SELFTEST_SLICE_END (R329): A tile test slice ends with pass or failure, fencing a failed tile. -/
  | selftestSliceEnd (tile : Nat)
  /-- CHECKER_TEST (R329): A checker test runs and passes or marks the checker FAILED. -/
  | checkerTest (checker : Nat) (pass : Bool) (step : Nat) (us : Nat)
  /-- SELFTEST_OVERDUE (R330): A tile without a pass for DIAG_MS becomes OVERDUE, or a checker for 3 periods is failed. -/
  | selftestOverdue (index : Nat)
  /-- SELFTEST_TILE (R327): SELFTEST_RUN TILE tests one tile, URGENT pre-empting jobs. -/
  | selftestTile (packet : Nat)
  /-- SELFTEST_GROUP (R327): SELFTEST_RUN GROUP tests every tile of a group in turn. -/
  | selftestGroup (packet : Nat)
  /-- SELFTEST_CHECKER (R327): SELFTEST_RUN CHECKER tests one checker. -/
  | selftestChecker (packet : Nat)
  /-- SELFTEST_SCHEDULE (R328): SELFTEST_RUN SCHEDULE sets the rotation periods from the next period boundary. -/
  | selftestSchedule (packet : Nat)
  /-- ERROR_RECORD (R333): A unit reports an error; the collector writes, holds or loses it by severity and free slots. -/
  | errorRecord (severity : Nat) (cause : Nat) (source : Nat) (unit : Nat) (master : Nat) (slice : Nat) (world : Nat) (target : Nat) (addr : Nat) (detail : Nat)
  /-- ERR_RING_ENABLE (R336): Setting ERR_RING_CTRL.ENABLE checks the ring and writes held records first. -/
  | errRingEnable (tag : Nat) (value : W32)
  /-- ERR_RING_HEAD_WRITE (R336): A write of ERR_RING_HEAD frees slots, letting held and overflow records be written. -/
  | errRingHeadWrite (tag : Nat) (value : W32)
  /-- GATE_FAULT (R339): A GATE of an unmarked entry or disallowed mode raises an exception and a notice record. -/
  | gateFault (hart : Nat) (mode : Nat) (word : W32)
  /-- PAGE_OWNER_SET (R45): GATE PAGE_OWNER_SET checks a page range and waits for in-flight requests before changing owners. -/
  | pageOwnerSet (hart : Nat) (mode : Nat) (rd : Nat) (block : Nat) (len : Nat)
  /-- PAGE_OWNER_SET_APPLY (R46): Once old-owner requests have completed, valid bits are cleared if asked and the new owners written. -/
  | pageOwnerSetApply
  /-- PAGE_OWNER_QUERY (R344): GATE PAGE_OWNER_QUERY returns the owner of a page. -/
  | pageOwnerQuery (hart : Nat) (mode : Nat) (rd : Nat) (block : Nat) (len : Nat)
  /-- ROLLBACK_COMMIT (R344): GATE ROLLBACK_COMMIT raises an image type's anti-rollback counter. -/
  | rollbackCommit (hart : Nat) (mode : Nat) (rd : Nat) (block : Nat) (len : Nat)
  /-- ATTEST (R353): GATE ATTEST builds and signs an attestation report. -/
  | gateAttest (hart : Nat) (mode : Nat) (rd : Nat) (block : Nat) (len : Nat)
  /-- RANDOM (R344): GATE RANDOM returns random bytes. -/
  | gateRandom (hart : Nat) (mode : Nat) (rd : Nat) (block : Nat) (len : Nat)
  /-- DEBUG_CHALLENGE (R355): GATE DEBUG_CHALLENGE issues a new 32-byte challenge. -/
  | debugChallenge (hart : Nat) (mode : Nat) (rd : Nat) (block : Nat) (len : Nat)
  /-- DEBUG_OPEN (R355): GATE DEBUG_OPEN checks a debug certificate and opens the enables of its scope. -/
  | debugOpen (hart : Nat) (mode : Nat) (rd : Nat) (block : Nat) (len : Nat)
  /-- DEBUG_CLOSE (R356): GATE DEBUG_CLOSE clears the named debug enables. -/
  | debugClose (hart : Nat) (mode : Nat) (rd : Nat) (block : Nat) (len : Nat)
  /-- CHALLENGE_LAPSE (R355): A debug challenge lapses 60 s after issue. -/
  | challengeLapse
  /-- NETKEY_LOAD (R344): GATE NETKEY_LOAD installs a vehicle-network key into MACsec or CAN authentication. -/
  | netkeyLoad (hart : Nat) (mode : Nat) (rd : Nat) (block : Nat) (len : Nat)
  /-- CONTENT_UNWRAP (R344): GATE CONTENT_UNWRAP unwraps a media content key. -/
  | contentUnwrap (hart : Nat) (mode : Nat) (rd : Nat) (block : Nat) (len : Nat)
  /-- VAULT_READ (R344): GATE VAULT_READ reads a user-profile vault record. -/
  | vaultRead (hart : Nat) (mode : Nat) (rd : Nat) (block : Nat) (len : Nat)
  /-- VAULT_WRITE (R344): GATE VAULT_WRITE writes a vault record. -/
  | vaultWrite (hart : Nat) (mode : Nat) (rd : Nat) (block : Nat) (len : Nat)
  /-- CLAIM_RELEASE (R345): The security core releases a claim and the deferred gating requests take effect. -/
  | claimRelease (block : Nat)
  /-- CLAIM_EXPIRY (R346): A claim reaches 50 ms and is released by the claim hardware. -/
  | claimExpiry (block : Nat)
  /-- WDT_VEHICLE_EXPIRY (R357): The vehicle-class watchdog expires and the part resets into a cold start. -/
  | wdtVehicleExpiry
  /-- WDT_COCKPIT_EXPIRY (R357): The cockpit-class watchdog expires and the cockpit keys are withdrawn. -/
  | wdtCockpitExpiry
  /-- OWNER_ENTRY_REPAIR (R375): The security core rewrites page-owner entries found uncorrectable. -/
  | ownerEntryRepair (page : Nat)
  /-- DRAM_READ (R367): A DRAM read is served, returning zeros for an invalid block or checked and corrected data. -/
  | dramRead (id : Nat)
  /-- DRAM_WRITE (R368): A DRAM write is applied whole or as a read-modify-write, or starts a zero-fill. -/
  | dramWrite (id : Nat)
  /-- ZERO_FILL_DONE (R372): The last zero-fill run ends, the valid bit is set and the triggering write applied. -/
  | zeroFillDone (block : Nat)
  /-- MILLRACE_WINDOW (R380): A new window of 1,024 slots starts and tokens are handed out. -/
  | millraceWindow (channel : Nat)
  /-- DRAM_CALIBRATION (R381): Periodic calibration runs in maintenance slots, failing to the last trained values. -/
  | dramCalibration (channel : Nat) (ok : Bool)
  /-- ARBITER_GRANT (R385): An arbiter decides its next grant among waiting requesters. -/
  | arbiterGrant (arbiter : Nat) (asks : List (Nat × Nat × Nat × Nat)) (ended : Bool)
  /-- LEAK_TICK (R377): Every LEAK_MS a leaky-bucket count falls by one. -/
  | leakTick (inst : Nat)
  /-- ECC_REGION_WRITE (R365): A write changing a block's code waits for accepted requests, clears valid bits and applies the code. -/
  | eccRegionWrite (tag : Nat) (region : Nat) (limit : Bool) (value : W64)
  /-- TILE_CODE_MAP_WRITE (R366): A write of TILE_CODE_MAP changes a range's code and clears its valid bits. -/
  | tileCodeMapWrite (tag : Nat) (tile : Nat) (value : W32)
  /-- BLOCK_OFF (R410): POWER_HINT BLOCK_OFF gates the named blocks, deferring claimed ones. -/
  | blockOff (packet : Nat)
  /-- BLOCK_ON (R410): POWER_HINT BLOCK_ON restores the named blocks. -/
  | blockOn (packet : Nat)
  /-- STANDBY (R394): POWER_HINT STANDBY drains every slice and prepares the part for Standby-Warm. -/
  | standby (packet : Nat)
  /-- PARK (R394): POWER_HINT PARK drains every slice and prepares the part for Parked. -/
  | park (packet : Nat)
  /-- RESTART (R395): POWER_HINT RESTART drains and then makes a warm start. -/
  | restart (packet : Nat)
  /-- IDLE_UNTIL (R398): POWER_HINT IDLE_UNTIL sets the groups' hint of no release before a time. -/
  | idleUntil (packet : Nat)
  /-- STATE_ENTRY_HALT (R394): 100 µs after the reply, cores halt, groups power off and, after claims, memory and domains go down. -/
  | stateEntryHalt
  /-- WARM_REQ (R419): A write of AON_START_CTRL.WARM_REQ runs a restart with unlimited drain, unless a start is in progress. -/
  | warmReq (tag : Nat)
  /-- PROFILE_SELECT (R414): PROFILE_SELECT verifies a profile slot and sets it for the next warm start. -/
  | profileSelect (packet : Nat)
  /-- WAKE_EVENT (R393): An enabled wake event in Parked or Standby-Warm starts a cold or warm start. -/
  | wakeEvent (source : Nat)
  /-- AON_POWER_UP (R506): The always-on supplies come into range and the domain raises the rail enables. -/
  | aonPowerUp
  /-- PGOOD_RISE (R506): PGOOD rises and the next enable or reset release follows. -/
  | pgoodRise
  /-- PGOOD_TIMEOUT (R507): PGOOD is not high within 20 ms of an enable rising and the start fails. -/
  | pgoodTimeout
  /-- PGOOD_FALL (R507): PGOOD falls with an enable high; domains reset and a cold start follows. -/
  | pgoodFall
  /-- RESET_ASSERT (R418): RESET_N is asserted, abandoning any start and resetting all but the always-on registers. -/
  | resetAssert
  /-- RESET_RELEASE (R415): Reset is released with supplies in range and a cold start begins. -/
  | resetRelease
  /-- COLD_START (R415): The part runs the cold-start steps from reset to START_COMPLETE. -/
  | coldStart (failAt : Nat)
  /-- WARM_START (R416): The part runs the warm-start steps, checking and re-attaching retained state. -/
  | warmStart (failAt : Nat)
  /-- START_TIMEOUT (R418): Step 16 is not reached within 5,000 ms and the start fails. -/
  | startTimeout (step : Nat)
  /-- RECOVERY_BUNDLE (R420): A recovery bundle arrives and is verified, written to flash and a cold start made, or rejected. -/
  | recoveryBundle
  /-- REC_CTRL_GO (R456): A write of REC_CTRL.GO verifies the bundle staged through the recovery function. -/
  | recCtrlGo
  /-- GROUP_WAKE (R397): A group's power switch closes or rail rises in stagger order and the group wakes. -/
  | groupWake (group : Nat)
  /-- GROUP_RUNNING (R397): A waking group reaches Running. -/
  | groupRunning (group : Nat)
  /-- GROUP_SLEEP (R398): A group without a job goes to Retention or Off by its next known release. -/
  | groupSleep (group : Nat)
  /-- SLUICE_REQUEST (R402): An operation asks Sluice for units and is admitted or waits by class. -/
  | sluiceRequest (kind : Nat) (n : Nat) (units : Nat) (cls : Nat) (slice : Nat) (timeoutUs : Nat)
  /-- SLUICE_RETURN (R403): A grant is returned and waiting requests that now fit are granted. -/
  | sluiceReturn (kind : Nat) (n : Nat)
  /-- SLUICE_TIMEOUT (R403): A Sluice request still waiting at its timeout completes with BUDGET_DENIED. -/
  | sluiceTimeout
  /-- SLUICE_TICK (R401): Every 1 µs the bucket E grows by T minus SUST_EFF. -/
  | sluiceTick
  /-- THERMAL_SAMPLE (R404): Every 100 µs the 24 sensors are read and zone temperatures formed. -/
  | thermalSample (temps : List Nat)
  /-- THROTTLE_LIFT (R406): After 10 ms with every sensor at or below 115 °C the throttle lifts. -/
  | throttleLift
  /-- SHUTDOWN_RESTART (R407): 5 s after a thermal shutdown the part makes a cold start. -/
  | shutdownRestart
  /-- THERMAL_PI_STEP (R405): Every 1 ms the PI loops set SUST_EFF. -/
  | thermalPiStep
  /-- THERMAL_EMERGENCY (R408): A zone at EMERG_C for 10 ms declares an emergency: pre-emption, refusal and shedding. -/
  | thermalEmergency (zone : Nat)
  /-- KERNEL_WATCHDOG_EXPIRY (R428): A control core's kernel watchdog expires and the core is stopped as failed. -/
  | kernelWatchdogExpiry (core : Nat)
  /-- CORE_FAULT (R428): A fatal M-mode exception or SRAM error stops a control core as failed. -/
  | coreFault (core : Nat) (sram : Bool) (info : W64)
  /-- SERVICE_RESTART (R88): A moved service runs again, reads the journal and completes its taken packets. -/
  | serviceRestart (service : Nat)
  /-- CORE_REJOIN (R429): The failed core passes its SRAM check and rejoins idle. -/
  | coreRejoin (core : Nat)
  /-- LOG_CONFIG (R432): LOG_CONFIG places, enables or disables the log ring. -/
  | logConfig (packet : Nat)
  /-- LOG_APPEND (R431): A service appends a log record with the next SEQUENCE. -/
  | logAppend (core : Nat) (service : Nat) (level : Nat) (code : Nat) (arg0 : W32) (arg1 : W64)
  /-- TRACE_RING (R434): TRACE_ENABLE OP 0 places the trace ring. -/
  | traceRing (packet : Nat)
  /-- TRACE_MASK (R434): TRACE_ENABLE OP 1 writes a trace group's mask. -/
  | traceMask (packet : Nat)
  /-- TRACE_OFF (R434): TRACE_ENABLE OP 2 clears every trace mask. -/
  | traceOff (packet : Nat)
  /-- TRACE_APPEND (R433): An enabled trace point appends a trace record. -/
  | traceAppend (core : Nat) (point : Nat) (arg : W32)
  /-- MBX_SUBMIT_JOB (R436): Forerunner SUBMIT_JOB forms and runs a JOB_RUN. -/
  | mbxSubmitJob (tag : Nat)
  /-- MBX_PREEMPT (R436): Forerunner PREEMPT forms and runs a JOB_PREEMPT. -/
  | mbxPreempt (tag : Nat)
  /-- MBX_ABORT (R436): Forerunner ABORT forms and runs a JOB_ABORT. -/
  | mbxAbort (tag : Nat)
  /-- MBX_HINT (R436): Forerunner HINT forms and runs a POWER_HINT. -/
  | mbxHint (tag : Nat)
  /-- MBX_ATTEST (R436): Forerunner ATTEST runs GATE 0x0020. -/
  | mbxAttest (tag : Nat)
  /-- MBX_RANDOM (R436): Forerunner RANDOM runs GATE 0x0021. -/
  | mbxRandom (tag : Nat)
  /-- MBX_LOAD_MODEL (R436): Forerunner LOAD_MODEL forms and runs a MODEL_REGISTER. -/
  | mbxLoadModel (tag : Nat)
  /-- MBX_UNLOAD_MODEL (R436): Forerunner UNLOAD_MODEL runs MODEL_EVICT with UNREGISTER. -/
  | mbxUnloadModel (tag : Nat)
  /-- MBX_UNKNOWN_COMMAND (R436): An unlisted forerunner CMD completes with BAD_OPCODE. -/
  | mbxUnknownCommand (tag : Nat) (mailbox : Nat)
  /-- HOST_REQUEST (R443): A PCIe request through BAR0 or BAR2 enters the mesh as master 0x58 or 0x59. -/
  | hostRequest (port : Nat) (bar : Nat) (pasid : Option Nat) (off : Nat) (len : Nat) (write : Bool) (data : List Byte)
  /-- MSI_WINDOW_WRITE (R444): A write to the MSI window raises or pends an MSI-X vector. -/
  | msiWindowWrite (master : Nat) (tag : Nat) (port : Nat) (vector : Nat)
  /-- TWIN_LINK_UP (R446): Port 0 comes up in TWIN mode and the part sends HELLO. -/
  | twinLinkUp (gbps : Nat)
  /-- HELLO (R446): A received HELLO is answered with an attestation REPORT over its nonce. -/
  | twinHello (twinId : Nat) (role : Nat) (nonce : List Byte)
  /-- REPORT (R446): A received partner REPORT is checked and PAIRED or PAIR_FAULT sent. -/
  | twinReport (report : List Byte)
  /-- PAIRED (R446): A received PAIRED completes pairing. -/
  | twinPaired
  /-- PAIR_FAULT (R446): A received PAIR_FAULT records the fault and schedules a retry. -/
  | pairFault (cause : Nat)
  /-- PAIR_RETRY (R446): 1 s after a pair fault, pairing begins again. -/
  | pairRetry
  /-- HEARTBEAT_TICK (R448): At each whole millisecond the part toggles TWIN_ALIVE_OUT and sends HEARTBEAT. -/
  | heartbeatTick
  /-- HEARTBEAT (R449): A received HEARTBEAT on a path fills its window. -/
  | heartbeatRx (pin : Bool)
  /-- HEARTBEAT_WINDOW (R449): A heartbeat window closes and is judged missed or delivered per path. -/
  | heartbeatWindow
  /-- CHECKPOINT_TRIGGER (R453): A channel's trigger object reaches N and the channel sends CKPT_START and its data. -/
  | checkpointTrigger (channel : Nat)
  /-- CKPT_START (R453): A received checkpoint is written at DST and REMOTE_OBJ set, then acknowledged. -/
  | ckptStart (channel : Nat) (value : W64) (dst : W64) (data : List Byte)
  /-- CKPT_ACK (R454): A received CKPT_ACK completes the checkpoint or counts its failure. -/
  | ckptAck (channel : Nat) (status : Nat) (value : W64)
  /-- DETACH (R455): A write of LNK_TWIN_CTRL.DETACH sends DETACH_REQ, or is refused when unpaired. -/
  | detach (tag : Nat)
  /-- DETACH_REQ (R455): A received DETACH_REQ declares partner loss and answers DETACH_ACK. -/
  | detachReq
  /-- DETACH_ACK (R455): A received DETACH_ACK puts the part in DETACHED. -/
  | detachAck
  /-- CARRY_END (R451): A write of LNK_TWIN_CTRL.CARRY_END clears CARRYING. -/
  | carryEnd (tag : Nat)
  /-- REC_REQ (R457): A received REC_REQ is answered with REC_DATA from the bundle region. -/
  | recReq (offset : Nat) (len : Nat)
  /-- REC_DATA (R456): Received REC_DATA is staged in the model cache. -/
  | recData (offset : Nat) (data : List Byte)
  /-- REC_END (R456): A received REC_END ends the transfer and staged bundle verification follows. -/
  | recEnd (len : Nat)
  /-- BRIDGE_WRITE (R460): A non-posted write crosses the always-on bridge and completes after the far side performs it. -/
  | bridgeWrite (master : Nat) (tag : Nat) (addr : Nat) (ns : Nat) (data : List Byte)
  /-- BRIDGE_READ (R461): A fast-to-slow read is answered RETRY or with its fetched value. -/
  | bridgeRead (master : Nat) (tag : Nat) (addr : Nat) (len : Nat)
  /-- BRIDGE_READ_FETCHED (R461): The bridge fetches a read's value into its entry. -/
  | bridgeReadFetched
  /-- BRIDGE_READ_DISCARD (R461): A fetched value uncollected for 1 ms is discarded. -/
  | bridgeReadDiscard
  /-- ANNOUNCE_TICK (R465): At its slot every 100 ms the DOMAIN service sends an authenticated announcement. -/
  | announceTick
  /-- ANNOUNCEMENT (R469): A received announcement is authenticated and, from the reference, compared for divergence. -/
  | announcement (frame : List Byte)
  /-- REF_SILENT (R469): No accepted reference announcement for 350 ms writes DOMAIN_REF_LOST. -/
  | refSilent
  /-- DOMAIN_STAGE (R466): DOMAIN_STAGE checks and stages a configuration epoch. -/
  | domainStage (packet : Nat)
  /-- DOMAIN_SWITCH (R467): DOMAIN_SWITCH makes a staged epoch pending for a time. -/
  | domainSwitch (packet : Nat)
  /-- DOMAIN_SWITCH_CANCEL (R467): DOMAIN_SWITCH with TIME 0 cancels the pending switch. -/
  | domainSwitchCancel (packet : Nat)
  /-- DOMAIN_SWITCH_TIME (R468): Device time reaches TIME and the part switches to the staged epoch or fails. -/
  | domainSwitchTime
  /-- ETH_FRAME_RX (R474): A received Ethernet frame is tagged, looked up and queued for egress. -/
  | ethFrameRx (port : Nat) (data : List Byte)
  /-- ETH_FRAME_TX (R474): An egress port sends from its highest open, credited queue. -/
  | ethFrameTx (port : Nat)
  /-- GATE_INTERVAL (R476): A gate control list entry's interval ends and the next gate states apply. -/
  | gateInterval (port : Nat)
  /-- NET_DMA_TAIL (R482): A write of NET_DMA_TAIL posts host-port descriptors for transmit or receive. -/
  | netDmaTail (tag : Nat) (ring : Nat) (tail : W32)
  /-- CAN_FRAME_RX (R484): A CAN frame is received, time-stamped, written to the ring and routed. -/
  | canFrameRx (controller : Nat) (sof : W64) (idw : W32) (flags : Nat) (sdt : Nat) (vcid : Nat) (af : W32) (data : List Byte)
  /-- CAN_TX_TAIL (R485): A write of CAN_TX_TAIL offers new transmit records. -/
  | canTxTail (tag : Nat) (controller : Nat) (offset : W32)
  /-- CAN_ARBITRATION (R485): At each arbitration the controller offers its lower-identifier head frame. -/
  | canArbitration (controller : Nat) (won : Bool)
  /-- PTP_SYNC_RX (R491): A Sync on the slave port updates rate and offset and steps or slews device time. -/
  | ptpSyncRx (port : Nat) (rx : Nat) (seconds : Nat) (nanos : Nat) (corr : Nat)
  /-- PTP_SYNC_TX (R493): The part sends a one-step Sync with its originTimestamp. -/
  | ptpSyncTx (port : Nat)
  /-- PDELAY_REQ (R493): A Pdelay_Req is answered two-step with Pdelay_Resp and its follow-up. -/
  | pdelayReq (port : Nat) (rx : Nat) (seq : Nat) (peer : List Byte)
  /-- GM_LOSS (R492): No Sync for 3 intervals puts device time in HOLDOVER. -/
  | gmLoss
  /-- HOLDOVER_EXPIRY (R492): HOLDOVER_MS in holdover makes the quality HOLDOVER_EXPIRED. -/
  | holdoverExpiry
  /-- NET_TIME_READ (R489): A read of NET_TIME_NS returns device time and latches its fraction. -/
  | netTimeRead (master : Nat) (tag : Nat)
  /-- AON_POWER_LOSS (R418): The always-on supply is lost, abandoning any start uncounted, setting FAIL_COUNT to 0 and losing the always-on registers. -/
  | aonPowerLoss
  /-- LINK_DOWN (R471): A USB4 port's link goes down, clearing its UP status and writing a LINK_DOWN record of severity 2 for port 0 while paired. -/
  | linkDown (port : Nat)
  /-- ETH_LINK_DOWN (R495): An Ethernet port's link goes down, clearing NET_PORT_STATUS.UP and writing a LINK_DOWN record. -/
  | ethLinkDown (port : Nat)
  /-- CAN_BUS_OFF (R495): A controller's error counts cross a limit, moving it to error passive or bus-off and writing CAN_ERROR_PASSIVE or CAN_BUS_OFF. -/
  | canBusOff (controller : Nat) (tec : Nat) (rec : Nat)
  /-- GPTP_ANNOUNCE (R490): A gPTP Announce message is received and BMCA re-chooses port roles and the grandmaster, possibly leaving no slave port. -/
  | gptpAnnounce (port : Nat) (present : Bool) (p1 : Nat) (cls : Nat) (acc : Nat) (var : Nat) (p2 : Nat) (gm : W64) (steps : Nat)
  /-- PDELAY_RESP (R494): A Pdelay_Resp and its follow-up are received and the port's mean link delay in NET_PDELAY is updated. -/
  | pdelayResp (port : Nat) (t1 : Nat) (t2 : Nat) (t3 : Nat) (t4 : Nat)
  /-- FRER_RESET (R477): A REC stream receives no frame for RESET_MS and its recovery history resets. -/
  | frerReset (stream : Nat)
  deriving DecidableEq, Repr

end Sys2Proof
end

