-- ==== Sys2Proof/Decode.lean ====
section
/-!
DEFINITION. The command a table word spells.  No row of the table of operations and events gives bits (every row's
fields are empty), so no word spells a command.
-/

namespace Sys2Proof

/-- The command that the word `w` of `nbits` bits spells by the table's bits: none, since no row has bits. -/
def decodeTableWord (_nbits _w : Nat) : Option Instr := none

end Sys2Proof
end

