-- ==== Sys2Proof/Machine/Regs.lean ====
section
/-!
DEFINITION. The registers of the part, each under its own name with the address, the width and the reset value
of the spec's register tables, the fields of each, and the table by which an access at an address finds its
register.  The registers of the recovery function lie in a host's BAR0 and have no address on the mesh: they
stand here above the 48-bit map.
-/

namespace Sys2Proof.Machine

/-- A register: its address, its size in bytes and its value at reset. -/
structure Reg where
  addr : Nat
  bytes : Nat
  reset : Nat
  deriving DecidableEq, Repr

/-- A field of a register: its highest and its lowest bit. -/
structure Fld where
  hi : Nat
  lo : Nat
  deriving DecidableEq, Repr

/-- The access types of R12. -/
inductive Access where
  | ro
  | rw
  | w1c
  | w1s
  | wo
  | rc
  deriving DecidableEq, Repr

/-- A field as a register table gives it. -/
structure FieldSpec where
  fld : Fld
  acc : Access
  deriving DecidableEq, Repr

/-- A row of a register table: the address of its first instance, the count and stride of each of its indices
(widest stride first), its size in bytes, its reset value and its fields. -/
structure RegSpec where
  name : String
  base : Nat
  dims : List (Nat × Nat)
  bytes : Nat
  reset : Nat
  fields : List FieldSpec
  deriving DecidableEq, Repr

/-- ACC_MST_CTX (02 R36). -/
def ACC_MST_CTX (m : Nat) : Reg := ⟨0x5014040000 + 0x4 * m, 4, 0x0⟩
def ACC_MST_CTX.SLICE_TAG : Fld := ⟨5, 0⟩
/-- ACC_MST_CLASS (02 R36). -/
def ACC_MST_CLASS (m k : Nat) : Reg := ⟨0x5014041000 + 0x10 * m + 0x4 * k, 4, 0xffffffff⟩
def ACC_MST_CLASS.CLASS : Fld := ⟨31, 0⟩
/-- ACC_PASID_MAP (02 R36). -/
def ACC_PASID_MAP (s : Nat) : Reg := ⟨0x5014042000 + 0x4 * s, 4, 0x0⟩
def ACC_PASID_MAP.VALID : Fld := ⟨31, 31⟩
def ACC_PASID_MAP.PASID : Fld := ⟨19, 0⟩
/-- ACC_WIN_BASE (02 R38). -/
def ACC_WIN_BASE (t w : Nat) : Reg := ⟨0x5014000000 + 0x1000 * t + 0x10 * w, 8, 0x0⟩
def ACC_WIN_BASE.BASE : Fld := ⟨47, 12⟩
def ACC_WIN_BASE.EN : Fld := ⟨0, 0⟩
/-- ACC_WIN_LIMIT (02 R38). -/
def ACC_WIN_LIMIT (t w : Nat) : Reg := ⟨0x5014000008 + 0x1000 * t + 0x10 * w, 8, 0x0⟩
def ACC_WIN_LIMIT.LIMIT : Fld := ⟨47, 12⟩
/-- ACC_ENTRY (02 R38). -/
def ACC_ENTRY (t j : Nat) : Reg := ⟨0x5014000200 + 0x1000 * t + 0x4 * j, 4, 0x0⟩
def ACC_ENTRY.ENTRY_HI : Fld := ⟨31, 16⟩
def ACC_ENTRY.ENTRY_LO : Fld := ⟨15, 0⟩
/-- SQ_BASE (03 R60). -/
def SQ_BASE (s r : Nat) : Reg := ⟨0x6000000000 + 0x10000 * s + 0x400 * r, 8, 0x0⟩
def SQ_BASE.BASE : Fld := ⟨47, 12⟩
/-- SQ_CTRL (03 R60). -/
def SQ_CTRL (s r : Nat) : Reg := ⟨0x6000000008 + 0x10000 * s + 0x400 * r, 4, 0x4⟩
def SQ_CTRL.ENABLE : Fld := ⟨31, 31⟩
def SQ_CTRL.LOG2_SLOTS : Fld := ⟨4, 0⟩
/-- SQ_TAIL (03 R60). -/
def SQ_TAIL (s r : Nat) : Reg := ⟨0x600000000c + 0x10000 * s + 0x400 * r, 4, 0x0⟩
def SQ_TAIL.TAIL : Fld := ⟨31, 0⟩
/-- SQ_HEAD (03 R60). -/
def SQ_HEAD (s r : Nat) : Reg := ⟨0x6000000010 + 0x10000 * s + 0x400 * r, 4, 0x0⟩
def SQ_HEAD.HEAD : Fld := ⟨31, 0⟩
/-- RING_STATUS (03 R60). -/
def RING_STATUS (s r : Nat) : Reg := ⟨0x6000000014 + 0x10000 * s + 0x400 * r, 4, 0x0⟩
def RING_STATUS.ERR_CAUSE : Fld := ⟨31, 24⟩
def RING_STATUS.WAIT_CAUSE : Fld := ⟨7, 6⟩
def RING_STATUS.STATE : Fld := ⟨2, 0⟩
/-- CQ_BASE (03 R60). -/
def CQ_BASE (s r : Nat) : Reg := ⟨0x6000000018 + 0x10000 * s + 0x400 * r, 8, 0x0⟩
def CQ_BASE.BASE : Fld := ⟨47, 12⟩
/-- CQ_CTRL (03 R60). -/
def CQ_CTRL (s r : Nat) : Reg := ⟨0x6000000020 + 0x10000 * s + 0x400 * r, 4, 0x4⟩
def CQ_CTRL.LOG2_SLOTS : Fld := ⟨4, 0⟩
/-- CQ_TAIL (03 R60). -/
def CQ_TAIL (s r : Nat) : Reg := ⟨0x6000000024 + 0x10000 * s + 0x400 * r, 4, 0x0⟩
def CQ_TAIL.TAIL : Fld := ⟨31, 0⟩
/-- CQ_HEAD (03 R60). -/
def CQ_HEAD (s r : Nat) : Reg := ⟨0x6000000028 + 0x10000 * s + 0x400 * r, 4, 0x0⟩
def CQ_HEAD.HEAD : Fld := ⟨31, 0⟩
/-- CQ_WB (03 R60). -/
def CQ_WB (s r : Nat) : Reg := ⟨0x6000000030 + 0x10000 * s + 0x400 * r, 8, 0x0⟩
def CQ_WB.ADDR : Fld := ⟨47, 2⟩
def CQ_WB.EN : Fld := ⟨0, 0⟩
/-- MSI_ADDR (03 R60). -/
def MSI_ADDR (s r : Nat) : Reg := ⟨0x6000000038 + 0x10000 * s + 0x400 * r, 8, 0x0⟩
def MSI_ADDR.ADDR : Fld := ⟨47, 2⟩
def MSI_ADDR.EN : Fld := ⟨0, 0⟩
/-- MSI_DATA (03 R60). -/
def MSI_DATA (s r : Nat) : Reg := ⟨0x6000000040 + 0x10000 * s + 0x400 * r, 4, 0x0⟩
def MSI_DATA.DATA : Fld := ⟨31, 0⟩
/-- EQ_BASE (03 R61). -/
def EQ_BASE (s : Nat) : Reg := ⟨0x6000004000 + 0x10000 * s, 8, 0x0⟩
def EQ_BASE.BASE : Fld := ⟨47, 12⟩
/-- EQ_CTRL (03 R61). -/
def EQ_CTRL (s : Nat) : Reg := ⟨0x6000004008 + 0x10000 * s, 4, 0x4⟩
def EQ_CTRL.ENABLE : Fld := ⟨31, 31⟩
def EQ_CTRL.LOG2_SLOTS : Fld := ⟨4, 0⟩
/-- EQ_TAIL (03 R61). -/
def EQ_TAIL (s : Nat) : Reg := ⟨0x600000400c + 0x10000 * s, 4, 0x0⟩
def EQ_TAIL.TAIL : Fld := ⟨31, 0⟩
/-- EQ_HEAD (03 R61). -/
def EQ_HEAD (s : Nat) : Reg := ⟨0x6000004010 + 0x10000 * s, 4, 0x0⟩
def EQ_HEAD.HEAD : Fld := ⟨31, 0⟩
/-- EQ_LOST (03 R61). -/
def EQ_LOST (s : Nat) : Reg := ⟨0x6000004014 + 0x10000 * s, 4, 0x0⟩
def EQ_LOST.COUNT : Fld := ⟨31, 0⟩
/-- EQ_LOST_FIRST (03 R61). -/
def EQ_LOST_FIRST (s : Nat) : Reg := ⟨0x6000004018 + 0x10000 * s, 8, 0x0⟩
def EQ_LOST_FIRST.TIME : Fld := ⟨63, 0⟩
/-- EQ_LOST_LAST (03 R61). -/
def EQ_LOST_LAST (s : Nat) : Reg := ⟨0x6000004020 + 0x10000 * s, 8, 0x0⟩
def EQ_LOST_LAST.TIME : Fld := ⟨63, 0⟩
/-- EQ_MSI_ADDR (03 R61). -/
def EQ_MSI_ADDR (s : Nat) : Reg := ⟨0x6000004028 + 0x10000 * s, 8, 0x0⟩
def EQ_MSI_ADDR.ADDR : Fld := ⟨47, 2⟩
def EQ_MSI_ADDR.EN : Fld := ⟨0, 0⟩
/-- EQ_MSI_DATA (03 R61). -/
def EQ_MSI_DATA (s : Nat) : Reg := ⟨0x6000004030 + 0x10000 * s, 4, 0x0⟩
def EQ_MSI_DATA.DATA : Fld := ⟨31, 0⟩
/-- SLICE_INFO (03 R61). -/
def SLICE_INFO (s : Nat) : Reg := ⟨0x6000004800 + 0x10000 * s, 4, 0x0⟩
def SLICE_INFO.RINGS : Fld := ⟨20, 16⟩
def SLICE_INFO.CEILING : Fld := ⟨9, 8⟩
def SLICE_INFO.SLICE : Fld := ⟨5, 0⟩
/-- SLICE_SYNC (03 R61). -/
def SLICE_SYNC (s : Nat) : Reg := ⟨0x6000004804 + 0x10000 * s, 4, 0x0⟩
def SLICE_SYNC.SYNC_COUNT : Fld := ⟨31, 16⟩
def SLICE_SYNC.SYNC_BASE : Fld := ⟨15, 0⟩
/-- SLICE_PASID (03 R61). -/
def SLICE_PASID (s : Nat) : Reg := ⟨0x6000004808 + 0x10000 * s, 4, 0x0⟩
def SLICE_PASID.PASID : Fld := ⟨19, 0⟩
/-- GRP_INFO (04 R94). -/
def GRP_INFO (g : Nat) : Reg := ⟨0x5002000000 + 0x10000 * g, 4, 0x0⟩
def GRP_INFO.FIRST_TILE : Fld := ⟨11, 4⟩
def GRP_INFO.GROUP : Fld := ⟨3, 0⟩
/-- GRP_STATE (04 R94). -/
def GRP_STATE (g : Nat) : Reg := ⟨0x5002000008 + 0x10000 * g, 4, 0x0⟩
def GRP_STATE.TILE_BUSY : Fld := ⟨31, 16⟩
def GRP_STATE.OPP : Fld := ⟨5, 4⟩
def GRP_STATE.PSTATE : Fld := ⟨2, 0⟩
/-- GRP_OPP_CAP (04 R94). -/
def GRP_OPP_CAP (g : Nat) : Reg := ⟨0x5002000010 + 0x10000 * g, 4, 0x0⟩
def GRP_OPP_CAP.CAP : Fld := ⟨1, 0⟩
/-- GRP_TILE_SLICE_0 (04 R94). -/
def GRP_TILE_SLICE_0 (g : Nat) : Reg := ⟨0x5002000018 + 0x10000 * g, 8, 0x0⟩
def GRP_TILE_SLICE_0.SLICE : Fld := ⟨63, 0⟩
/-- GRP_TILE_SLICE_1 (04 R94). -/
def GRP_TILE_SLICE_1 (g : Nat) : Reg := ⟨0x5002000020 + 0x10000 * g, 8, 0x0⟩
def GRP_TILE_SLICE_1.SLICE : Fld := ⟨63, 0⟩
/-- GRP_RUN_CYCLES (04 R94). -/
def GRP_RUN_CYCLES (g : Nat) : Reg := ⟨0x5002000028 + 0x10000 * g, 8, 0x0⟩
def GRP_RUN_CYCLES.COUNT : Fld := ⟨63, 0⟩
/-- GRP_WAKES (04 R94). -/
def GRP_WAKES (g : Nat) : Reg := ⟨0x5002000030 + 0x10000 * g, 8, 0x0⟩
def GRP_WAKES.COUNT : Fld := ⟨63, 0⟩
/-- GRP_CNT_CTRL (04 R94). -/
def GRP_CNT_CTRL (g : Nat) : Reg := ⟨0x5002000038 + 0x10000 * g, 4, 0x0⟩
def GRP_CNT_CTRL.CLR : Fld := ⟨0, 0⟩
/-- TILE_INFO (04 R96). -/
def TILE_INFO (n : Nat) : Reg := ⟨0x5003000000 + 0x10000 * n, 4, 0x0⟩
def TILE_INFO.GROUP : Fld := ⟨15, 12⟩
def TILE_INFO.LOCAL : Fld := ⟨11, 8⟩
def TILE_INFO.TILE : Fld := ⟨7, 0⟩
/-- TILE_STATUS (04 R96). -/
def TILE_STATUS (n : Nat) : Reg := ⟨0x5003000008 + 0x10000 * n, 4, 0x7⟩
def TILE_STATUS.HELD : Fld := ⟨22, 22⟩
def TILE_STATUS.SLICE : Fld := ⟨21, 16⟩
def TILE_STATUS.FAULT : Fld := ⟨15, 8⟩
def TILE_STATUS.NAN_SEEN : Fld := ⟨4, 4⟩
def TILE_STATUS.SAT : Fld := ⟨3, 3⟩
def TILE_STATUS.STATE : Fld := ⟨2, 0⟩
/-- TILE_FAULT_PC (04 R96). -/
def TILE_FAULT_PC (n : Nat) : Reg := ⟨0x500300000c + 0x10000 * n, 4, 0x0⟩
def TILE_FAULT_PC.INDEX : Fld := ⟨9, 0⟩
/-- TILE_LFSR (04 R96). -/
def TILE_LFSR (n : Nat) : Reg := ⟨0x5003000010 + 0x10000 * n, 4, 0x1⟩
def TILE_LFSR.STATE : Fld := ⟨31, 0⟩
/-- TILE_HANG_LIMIT (04 R96). -/
def TILE_HANG_LIMIT (n : Nat) : Reg := ⟨0x5003000014 + 0x10000 * n, 4, 0x1000000⟩
def TILE_HANG_LIMIT.CLOCKS : Fld := ⟨31, 0⟩
/-- TILE_CNT_CTRL (04 R96). -/
def TILE_CNT_CTRL (n : Nat) : Reg := ⟨0x5003000018 + 0x10000 * n, 4, 0x0⟩
def TILE_CNT_CTRL.FREEZE : Fld := ⟨1, 1⟩
def TILE_CNT_CTRL.CLR : Fld := ⟨0, 0⟩
/-- TILE_CYCLES (04 R96). -/
def TILE_CYCLES (n : Nat) : Reg := ⟨0x5003000020 + 0x10000 * n, 8, 0x0⟩
def TILE_CYCLES.COUNT : Fld := ⟨63, 0⟩
/-- TILE_ARRAY_BUSY (04 R96). -/
def TILE_ARRAY_BUSY (n : Nat) : Reg := ⟨0x5003000028 + 0x10000 * n, 8, 0x0⟩
def TILE_ARRAY_BUSY.COUNT : Fld := ⟨63, 0⟩
/-- TILE_MAC_STEPS (04 R96). -/
def TILE_MAC_STEPS (n : Nat) : Reg := ⟨0x5003000030 + 0x10000 * n, 8, 0x0⟩
def TILE_MAC_STEPS.COUNT : Fld := ⟨63, 0⟩
/-- TILE_SKIP_A (04 R96). -/
def TILE_SKIP_A (n : Nat) : Reg := ⟨0x5003000038 + 0x10000 * n, 8, 0x0⟩
def TILE_SKIP_A.COUNT : Fld := ⟨63, 0⟩
/-- TILE_SKIP_B (04 R96). -/
def TILE_SKIP_B (n : Nat) : Reg := ⟨0x5003000040 + 0x10000 * n, 8, 0x0⟩
def TILE_SKIP_B.COUNT : Fld := ⟨63, 0⟩
/-- TILE_VEC_ISSUE (04 R96). -/
def TILE_VEC_ISSUE (n : Nat) : Reg := ⟨0x5003000048 + 0x10000 * n, 8, 0x0⟩
def TILE_VEC_ISSUE.COUNT : Fld := ⟨63, 0⟩
/-- TILE_SB_STALL (04 R96). -/
def TILE_SB_STALL (n : Nat) : Reg := ⟨0x5003000050 + 0x10000 * n, 8, 0x0⟩
def TILE_SB_STALL.COUNT : Fld := ⟨63, 0⟩
/-- TILE_IBUF_STALL (04 R96). -/
def TILE_IBUF_STALL (n : Nat) : Reg := ⟨0x5003000058 + 0x10000 * n, 8, 0x0⟩
def TILE_IBUF_STALL.COUNT : Fld := ⟨63, 0⟩
/-- TILE_BANK_CONFLICT (04 R96). -/
def TILE_BANK_CONFLICT (n : Nat) : Reg := ⟨0x5003000060 + 0x10000 * n, 8, 0x0⟩
def TILE_BANK_CONFLICT.COUNT : Fld := ⟨63, 0⟩
/-- TILE_SAT_COUNT (04 R96). -/
def TILE_SAT_COUNT (n : Nat) : Reg := ⟨0x5003000068 + 0x10000 * n, 8, 0x0⟩
def TILE_SAT_COUNT.COUNT : Fld := ⟨63, 0⟩
/-- RILL_LIST (05 R150). -/
def RILL_LIST (n r : Nat) : Reg := ⟨0x5004000000 + 0x10000 * n + 0x400 * r, 4, 0x0⟩
def RILL_LIST.BASE : Fld := ⟨19, 0⟩
/-- RILL_STATUS (05 R150). -/
def RILL_STATUS (n r : Nat) : Reg := ⟨0x5004000008 + 0x10000 * n + 0x400 * r, 4, 0x0⟩
def RILL_STATUS.CAUSE : Fld := ⟨31, 24⟩
def RILL_STATUS.POOL_LINES : Fld := ⟨23, 16⟩
def RILL_STATUS.DESC : Fld := ⟨15, 4⟩
def RILL_STATUS.STATE : Fld := ⟨2, 0⟩
/-- RILL_OUTST (05 R150). -/
def RILL_OUTST (n r : Nat) : Reg := ⟨0x500400000c + 0x10000 * n + 0x400 * r, 4, 0x0⟩
def RILL_OUTST.COUNT : Fld := ⟨5, 0⟩
/-- RILL_LINES (05 R150). -/
def RILL_LINES (n r : Nat) : Reg := ⟨0x5004000020 + 0x10000 * n + 0x400 * r, 8, 0x0⟩
def RILL_LINES.COUNT : Fld := ⟨63, 0⟩
/-- RILL_COALESCED (05 R150). -/
def RILL_COALESCED (n r : Nat) : Reg := ⟨0x5004000028 + 0x10000 * n + 0x400 * r, 8, 0x0⟩
def RILL_COALESCED.COUNT : Fld := ⟨63, 0⟩
/-- RILL_DELIVERIES (05 R150). -/
def RILL_DELIVERIES (n r : Nat) : Reg := ⟨0x5004000030 + 0x10000 * n + 0x400 * r, 8, 0x0⟩
def RILL_DELIVERIES.COUNT : Fld := ⟨63, 0⟩
/-- RILL_STALL_CREDIT (05 R150). -/
def RILL_STALL_CREDIT (n r : Nat) : Reg := ⟨0x5004000038 + 0x10000 * n + 0x400 * r, 8, 0x0⟩
def RILL_STALL_CREDIT.COUNT : Fld := ⟨63, 0⟩
/-- RILL_STALL_OUTST (05 R150). -/
def RILL_STALL_OUTST (n r : Nat) : Reg := ⟨0x5004000040 + 0x10000 * n + 0x400 * r, 8, 0x0⟩
def RILL_STALL_OUTST.COUNT : Fld := ⟨63, 0⟩
/-- RILL_STALL_MEM (05 R150). -/
def RILL_STALL_MEM (n r : Nat) : Reg := ⟨0x5004000048 + 0x10000 * n + 0x400 * r, 8, 0x0⟩
def RILL_STALL_MEM.COUNT : Fld := ⟨63, 0⟩
/-- RILL_STALL_IDX (05 R150). -/
def RILL_STALL_IDX (n r : Nat) : Reg := ⟨0x5004000050 + 0x10000 * n + 0x400 * r, 8, 0x0⟩
def RILL_STALL_IDX.COUNT : Fld := ⟨63, 0⟩
/-- RILL_STALL_START (05 R150). -/
def RILL_STALL_START (n r : Nat) : Reg := ⟨0x5004000058 + 0x10000 * n + 0x400 * r, 8, 0x0⟩
def RILL_STALL_START.COUNT : Fld := ⟨63, 0⟩
/-- RILL_OOB (05 R150). -/
def RILL_OOB (n r : Nat) : Reg := ⟨0x5004000060 + 0x10000 * n + 0x400 * r, 8, 0x0⟩
def RILL_OOB.COUNT : Fld := ⟨63, 0⟩
/-- RILL_TRUNC (05 R150). -/
def RILL_TRUNC (n r : Nat) : Reg := ⟨0x5004000068 + 0x10000 * n + 0x400 * r, 8, 0x0⟩
def RILL_TRUNC.COUNT : Fld := ⟨63, 0⟩
/-- RILL_PROBES (05 R150). -/
def RILL_PROBES (n r : Nat) : Reg := ⟨0x5004000070 + 0x10000 * n + 0x400 * r, 8, 0x0⟩
def RILL_PROBES.COUNT : Fld := ⟨63, 0⟩
/-- RILL_MISS (05 R150). -/
def RILL_MISS (n r : Nat) : Reg := ⟨0x5004000078 + 0x10000 * n + 0x400 * r, 8, 0x0⟩
def RILL_MISS.COUNT : Fld := ⟨63, 0⟩
/-- RILL_TQ_DEPTH (05 R150). -/
def RILL_TQ_DEPTH (n : Nat) : Reg := ⟨0x5004001000 + 0x10000 * n, 4, 0x0⟩
def RILL_TQ_DEPTH.COUNT : Fld := ⟨7, 0⟩
/-- RILL_TQ_MAX (05 R150). -/
def RILL_TQ_MAX (n : Nat) : Reg := ⟨0x5004001004 + 0x10000 * n, 4, 0x0⟩
def RILL_TQ_MAX.COUNT : Fld := ⟨7, 0⟩
/-- DCE_STATUS (06 R176). -/
def DCE_STATUS (g : Nat) : Reg := ⟨0x5006000000 + 0x10000 * g, 4, 0x0⟩
def DCE_STATUS.CAUSE : Fld := ⟨31, 24⟩
def DCE_STATUS.DESC : Fld := ⟨15, 4⟩
def DCE_STATUS.STATE : Fld := ⟨2, 0⟩
/-- NGT_STATUS (06 R176). -/
def NGT_STATUS (g : Nat) : Reg := ⟨0x5005000000 + 0x10000 * g, 4, 0x0⟩
def NGT_STATUS.CAUSE : Fld := ⟨31, 24⟩
def NGT_STATUS.DESC : Fld := ⟨15, 4⟩
def NGT_STATUS.STATE : Fld := ⟨2, 0⟩
/-- DCE_LIST (06 R176). -/
def DCE_LIST (g : Nat) : Reg := ⟨0x5006000008 + 0x10000 * g, 8, 0x0⟩
def DCE_LIST.BASE : Fld := ⟨47, 7⟩
/-- NGT_LIST (06 R176). -/
def NGT_LIST (g : Nat) : Reg := ⟨0x5005000008 + 0x10000 * g, 8, 0x0⟩
def NGT_LIST.BASE : Fld := ⟨47, 7⟩
/-- DCE_LFSR (06 R176). -/
def DCE_LFSR (g : Nat) : Reg := ⟨0x5006000010 + 0x10000 * g, 4, 0x1⟩
def DCE_LFSR.STATE : Fld := ⟨31, 0⟩
/-- NGT_LFSR (06 R176). -/
def NGT_LFSR (g : Nat) : Reg := ⟨0x5005000010 + 0x10000 * g, 4, 0x1⟩
def NGT_LFSR.STATE : Fld := ⟨31, 0⟩
/-- DCE_CNT_CTRL (06 R176). -/
def DCE_CNT_CTRL (g : Nat) : Reg := ⟨0x5006000018 + 0x10000 * g, 4, 0x0⟩
def DCE_CNT_CTRL.FREEZE : Fld := ⟨1, 1⟩
def DCE_CNT_CTRL.CLR : Fld := ⟨0, 0⟩
/-- NGT_CNT_CTRL (06 R176). -/
def NGT_CNT_CTRL (g : Nat) : Reg := ⟨0x5005000018 + 0x10000 * g, 4, 0x0⟩
def NGT_CNT_CTRL.FREEZE : Fld := ⟨1, 1⟩
def NGT_CNT_CTRL.CLR : Fld := ⟨0, 0⟩
/-- DCE_BUSY (06 R176). -/
def DCE_BUSY (g : Nat) : Reg := ⟨0x5006000020 + 0x10000 * g, 8, 0x0⟩
def DCE_BUSY.COUNT : Fld := ⟨63, 0⟩
/-- NGT_BUSY (06 R176). -/
def NGT_BUSY (g : Nat) : Reg := ⟨0x5005000020 + 0x10000 * g, 8, 0x0⟩
def NGT_BUSY.COUNT : Fld := ⟨63, 0⟩
/-- DCE_MACS (06 R176). -/
def DCE_MACS (g : Nat) : Reg := ⟨0x5006000028 + 0x10000 * g, 8, 0x0⟩
def DCE_MACS.COUNT : Fld := ⟨63, 0⟩
/-- NGT_MACS (06 R176). -/
def NGT_MACS (g : Nat) : Reg := ⟨0x5005000028 + 0x10000 * g, 8, 0x0⟩
def NGT_MACS.COUNT : Fld := ⟨63, 0⟩
/-- DCE_DESC_DONE (06 R176). -/
def DCE_DESC_DONE (g : Nat) : Reg := ⟨0x5006000030 + 0x10000 * g, 8, 0x0⟩
def DCE_DESC_DONE.COUNT : Fld := ⟨63, 0⟩
/-- NGT_DESC_DONE (06 R176). -/
def NGT_DESC_DONE (g : Nat) : Reg := ⟨0x5005000030 + 0x10000 * g, 8, 0x0⟩
def NGT_DESC_DONE.COUNT : Fld := ⟨63, 0⟩
/-- DCE_ROWS_SKIPPED (06 R176). -/
def DCE_ROWS_SKIPPED (g : Nat) : Reg := ⟨0x5006000038 + 0x10000 * g, 8, 0x0⟩
def DCE_ROWS_SKIPPED.COUNT : Fld := ⟨63, 0⟩
/-- NGT_ROWS_SKIPPED (06 R176). -/
def NGT_ROWS_SKIPPED (g : Nat) : Reg := ⟨0x5005000038 + 0x10000 * g, 8, 0x0⟩
def NGT_ROWS_SKIPPED.COUNT : Fld := ⟨63, 0⟩
/-- DCE_PAD_SAMPLES (06 R176). -/
def DCE_PAD_SAMPLES (g : Nat) : Reg := ⟨0x5006000040 + 0x10000 * g, 8, 0x0⟩
def DCE_PAD_SAMPLES.COUNT : Fld := ⟨63, 0⟩
/-- NGT_PAD_SAMPLES (06 R176). -/
def NGT_PAD_SAMPLES (g : Nat) : Reg := ⟨0x5005000040 + 0x10000 * g, 8, 0x0⟩
def NGT_PAD_SAMPLES.COUNT : Fld := ⟨63, 0⟩
/-- DCE_SEGMENTS (06 R176). -/
def DCE_SEGMENTS (g : Nat) : Reg := ⟨0x5006000048 + 0x10000 * g, 8, 0x0⟩
def DCE_SEGMENTS.COUNT : Fld := ⟨63, 0⟩
/-- NGT_SEGMENTS (06 R176). -/
def NGT_SEGMENTS (g : Nat) : Reg := ⟨0x5005000048 + 0x10000 * g, 8, 0x0⟩
def NGT_SEGMENTS.COUNT : Fld := ⟨63, 0⟩
/-- DCE_CURSOR (06 R176). -/
def DCE_CURSOR (g : Nat) : Reg := ⟨0x5006000050 + 0x10000 * g, 8, 0x0⟩
def DCE_CURSOR.ROW : Fld := ⟨63, 32⟩
def DCE_CURSOR.SEG : Fld := ⟨31, 16⟩
def DCE_CURSOR.DESC : Fld := ⟨15, 0⟩
/-- NGT_CURSOR (06 R176). -/
def NGT_CURSOR (g : Nat) : Reg := ⟨0x5005000050 + 0x10000 * g, 8, 0x0⟩
def NGT_CURSOR.ROW : Fld := ⟨63, 32⟩
def NGT_CURSOR.SEG : Fld := ⟨31, 16⟩
def NGT_CURSOR.DESC : Fld := ⟨15, 0⟩
/-- NGT_SAT (06 R176). -/
def NGT_SAT (g : Nat) : Reg := ⟨0x5005000058 + 0x10000 * g, 8, 0x0⟩
def NGT_SAT.COUNT : Fld := ⟨63, 0⟩
/-- GRP_CRU_STATUS (06 R177). -/
def GRP_CRU_STATUS (g : Nat) : Reg := ⟨0x5002000100 + 0x10000 * g, 4, 0x0⟩
def GRP_CRU_STATUS.CAUSE : Fld := ⟨31, 24⟩
def GRP_CRU_STATUS.DESC : Fld := ⟨15, 4⟩
def GRP_CRU_STATUS.STATE : Fld := ⟨2, 0⟩
/-- GRP_CRU_LIST (06 R177). -/
def GRP_CRU_LIST (g : Nat) : Reg := ⟨0x5002000108 + 0x10000 * g, 8, 0x0⟩
def GRP_CRU_LIST.BASE : Fld := ⟨47, 7⟩
/-- GRP_CRU_LFSR (06 R177). -/
def GRP_CRU_LFSR (g : Nat) : Reg := ⟨0x5002000110 + 0x10000 * g, 4, 0x1⟩
def GRP_CRU_LFSR.STATE : Fld := ⟨31, 0⟩
/-- GRP_CRU_CNT_CTRL (06 R177). -/
def GRP_CRU_CNT_CTRL (g : Nat) : Reg := ⟨0x5002000118 + 0x10000 * g, 4, 0x0⟩
def GRP_CRU_CNT_CTRL.FREEZE : Fld := ⟨1, 1⟩
def GRP_CRU_CNT_CTRL.CLR : Fld := ⟨0, 0⟩
/-- GRP_CRU_BUSY (06 R177). -/
def GRP_CRU_BUSY (g : Nat) : Reg := ⟨0x5002000120 + 0x10000 * g, 8, 0x0⟩
def GRP_CRU_BUSY.COUNT : Fld := ⟨63, 0⟩
/-- GRP_CRU_BOXES (06 R177). -/
def GRP_CRU_BOXES (g : Nat) : Reg := ⟨0x5002000128 + 0x10000 * g, 8, 0x0⟩
def GRP_CRU_BOXES.COUNT : Fld := ⟨63, 0⟩
/-- GRP_CRU_OUTSIDE (06 R177). -/
def GRP_CRU_OUTSIDE (g : Nat) : Reg := ⟨0x5002000130 + 0x10000 * g, 8, 0x0⟩
def GRP_CRU_OUTSIDE.COUNT : Fld := ⟨63, 0⟩
/-- GRP_CRU_NAN (06 R177). -/
def GRP_CRU_NAN (g : Nat) : Reg := ⟨0x5002000138 + 0x10000 * g, 8, 0x0⟩
def GRP_CRU_NAN.COUNT : Fld := ⟨63, 0⟩
/-- GRP_CRU_TRUNC (06 R177). -/
def GRP_CRU_TRUNC (g : Nat) : Reg := ⟨0x5002000140 + 0x10000 * g, 8, 0x0⟩
def GRP_CRU_TRUNC.COUNT : Fld := ⟨63, 0⟩
/-- GRP_CRU_CURSOR (06 R177). -/
def GRP_CRU_CURSOR (g : Nat) : Reg := ⟨0x5002000148 + 0x10000 * g, 8, 0x0⟩
def GRP_CRU_CURSOR.BOX : Fld := ⟨63, 32⟩
def GRP_CRU_CURSOR.DESC : Fld := ⟨15, 0⟩
/-- GRP_SCHED_CTRL (07 R213). -/
def GRP_SCHED_CTRL (g : Nat) : Reg := ⟨0x5002000200 + 0x10000 * g, 4, 0x640000⟩
def GRP_SCHED_CTRL.PREEMPT_LEAD : Fld := ⟨31, 16⟩
def GRP_SCHED_CTRL.CLR : Fld := ⟨0, 0⟩
/-- GRP_QUEUE (07 R213). -/
def GRP_QUEUE (g : Nat) : Reg := ⟨0x5002000204 + 0x10000 * g, 4, 0x0⟩
def GRP_QUEUE.MAX : Fld := ⟨24, 16⟩
def GRP_QUEUE.DEPTH : Fld := ⟨8, 0⟩
/-- GRP_DISPATCHES (07 R213). -/
def GRP_DISPATCHES (g : Nat) : Reg := ⟨0x5002000210 + 0x10000 * g, 8, 0x0⟩
def GRP_DISPATCHES.COUNT : Fld := ⟨63, 0⟩
/-- GRP_PREEMPTS (07 R213). -/
def GRP_PREEMPTS (g : Nat) : Reg := ⟨0x5002000218 + 0x10000 * g, 8, 0x0⟩
def GRP_PREEMPTS.COUNT : Fld := ⟨63, 0⟩
/-- GRP_SAVE_BYTES (07 R213). -/
def GRP_SAVE_BYTES (g : Nat) : Reg := ⟨0x5002000220 + 0x10000 * g, 8, 0x0⟩
def GRP_SAVE_BYTES.COUNT : Fld := ⟨63, 0⟩
/-- GRP_RESTORE_BYTES (07 R213). -/
def GRP_RESTORE_BYTES (g : Nat) : Reg := ⟨0x5002000228 + 0x10000 * g, 8, 0x0⟩
def GRP_RESTORE_BYTES.COUNT : Fld := ⟨63, 0⟩
/-- GRP_LATE (07 R213). -/
def GRP_LATE (g : Nat) : Reg := ⟨0x5002000230 + 0x10000 * g, 8, 0x0⟩
def GRP_LATE.COUNT : Fld := ⟨63, 0⟩
/-- GRP_BUDGET_DENIED (07 R213). -/
def GRP_BUDGET_DENIED (g : Nat) : Reg := ⟨0x5002000238 + 0x10000 * g, 8, 0x0⟩
def GRP_BUDGET_DENIED.COUNT : Fld := ⟨63, 0⟩
/-- MC_SLICE_SEG (07 R214). -/
def MC_SLICE_SEG (s : Nat) : Reg := ⟨0x5007001000 + 0x8 * s, 8, 0x0⟩
def MC_SLICE_SEG.PINNED : Fld := ⟨47, 36⟩
def MC_SLICE_SEG.USED : Fld := ⟨35, 24⟩
def MC_SLICE_SEG.SHARE : Fld := ⟨11, 0⟩
/-- MC_LOADS (07 R214). -/
def MC_LOADS : Reg := ⟨0x5007002000, 8, 0x0⟩
def MC_LOADS.COUNT : Fld := ⟨63, 0⟩
/-- MC_EVICTIONS (07 R214). -/
def MC_EVICTIONS : Reg := ⟨0x5007002008, 8, 0x0⟩
def MC_EVICTIONS.COUNT : Fld := ⟨63, 0⟩
/-- MC_STREAMED_JOBS (07 R214). -/
def MC_STREAMED_JOBS : Reg := ⟨0x5007002010, 8, 0x0⟩
def MC_STREAMED_JOBS.COUNT : Fld := ⟨63, 0⟩
/-- CFL_TRIG_CTRL (08 R239). -/
def CFL_TRIG_CTRL (n : Nat) : Reg := ⟨0x500a001000 + 0x40 * n, 4, 0x0⟩
def CFL_TRIG_CTRL.ARM_ERR : Fld := ⟨3, 3⟩
def CFL_TRIG_CTRL.POL : Fld := ⟨2, 2⟩
def CFL_TRIG_CTRL.OUT_EN : Fld := ⟨1, 1⟩
def CFL_TRIG_CTRL.EN : Fld := ⟨0, 0⟩
/-- CFL_TRIG_PERIOD (08 R239). -/
def CFL_TRIG_PERIOD (n : Nat) : Reg := ⟨0x500a001004 + 0x40 * n, 4, 0x0⟩
def CFL_TRIG_PERIOD.PERIOD : Fld := ⟨31, 0⟩
/-- CFL_TRIG_START (08 R239). -/
def CFL_TRIG_START (n : Nat) : Reg := ⟨0x500a001008 + 0x40 * n, 8, 0x0⟩
def CFL_TRIG_START.START : Fld := ⟨63, 0⟩
/-- CFL_TRIG_WIDTH (08 R239). -/
def CFL_TRIG_WIDTH (n : Nat) : Reg := ⟨0x500a001010 + 0x40 * n, 4, 0x0⟩
def CFL_TRIG_WIDTH.WIDTH : Fld := ⟨31, 0⟩
/-- CFL_TRIG_NEXT (08 R239). -/
def CFL_TRIG_NEXT (n : Nat) : Reg := ⟨0x500a001018 + 0x40 * n, 8, 0x0⟩
def CFL_TRIG_NEXT.TIME : Fld := ⟨63, 0⟩
/-- CFL_TRIG_COUNT (08 R239). -/
def CFL_TRIG_COUNT (n : Nat) : Reg := ⟨0x500a001020 + 0x40 * n, 8, 0x0⟩
def CFL_TRIG_COUNT.COUNT : Fld := ⟨63, 0⟩
/-- CFL_STREAM_STATUS (08 R239). -/
def CFL_STREAM_STATUS (s : Nat) : Reg := ⟨0x500a002000 + 0x40 * s, 4, 0x0⟩
def CFL_STREAM_STATUS.SLICE : Fld := ⟨7, 2⟩
def CFL_STREAM_STATUS.STATE : Fld := ⟨1, 0⟩
/-- CFL_CONTRIBS (08 R239). -/
def CFL_CONTRIBS (s : Nat) : Reg := ⟨0x500a002008 + 0x40 * s, 8, 0x0⟩
def CFL_CONTRIBS.COUNT : Fld := ⟨63, 0⟩
/-- CFL_LATE_DROPS (08 R239). -/
def CFL_LATE_DROPS (s : Nat) : Reg := ⟨0x500a002010 + 0x40 * s, 8, 0x0⟩
def CFL_LATE_DROPS.COUNT : Fld := ⟨63, 0⟩
/-- CFL_REVISIONS (08 R239). -/
def CFL_REVISIONS (s : Nat) : Reg := ⟨0x500a002018 + 0x40 * s, 8, 0x0⟩
def CFL_REVISIONS.COUNT : Fld := ⟨63, 0⟩
/-- CFL_STREAM_BAD (08 R239). -/
def CFL_STREAM_BAD (s : Nat) : Reg := ⟨0x500a002020 + 0x40 * s, 8, 0x0⟩
def CFL_STREAM_BAD.COUNT : Fld := ⟨63, 0⟩
/-- CFL_L1_OUTSIDE (08 R239). -/
def CFL_L1_OUTSIDE (g : Nat) : Reg := ⟨0x500a003000 + 0x10 * g, 8, 0x0⟩
def CFL_L1_OUTSIDE.COUNT : Fld := ⟨63, 0⟩
/-- CFL_L2_TRACKS (08 R239). -/
def CFL_L2_TRACKS : Reg := ⟨0x500a003040, 4, 0x0⟩
def CFL_L2_TRACKS.COUNT : Fld := ⟨12, 0⟩
/-- CFL_L2_CONFLICTS (08 R239). -/
def CFL_L2_CONFLICTS : Reg := ⟨0x500a003048, 8, 0x0⟩
def CFL_L2_CONFLICTS.COUNT : Fld := ⟨63, 0⟩
/-- ALE_CTRL (09 R260). -/
def ALE_CTRL : Reg := ⟨0x5016000000, 4, 0x2⟩
def ALE_CTRL.ADAPT : Fld := ⟨1, 1⟩
def ALE_CTRL.EN : Fld := ⟨0, 0⟩
/-- ALE_STATUS (09 R260). -/
def ALE_STATUS : Reg := ⟨0x5016000004, 4, 0x0⟩
def ALE_STATUS.LOAD_ERR : Fld := ⟨31, 24⟩
def ALE_STATUS.FROZEN : Fld := ⟨4, 4⟩
def ALE_STATUS.MUTED : Fld := ⟨3, 3⟩
def ALE_STATUS.LOAD_BUSY : Fld := ⟨2, 2⟩
def ALE_STATUS.STATE : Fld := ⟨1, 0⟩
/-- ALE_LOAD (09 R260). -/
def ALE_LOAD : Reg := ⟨0x5016000008, 8, 0x0⟩
def ALE_LOAD.ADDR : Fld := ⟨47, 6⟩
def ALE_LOAD.GO : Fld := ⟨0, 0⟩
/-- ALE_CYCLES (09 R260). -/
def ALE_CYCLES : Reg := ⟨0x5016000010, 4, 0x0⟩
def ALE_CYCLES.CYCLES : Fld := ⟨13, 0⟩
/-- ALE_RING_DESC (09 R260). -/
def ALE_RING_DESC (n : Nat) : Reg := ⟨0x5016000040 + 0x8 * n, 8, 0x0⟩
def ALE_RING_DESC.ADDR : Fld := ⟨47, 6⟩
def ALE_RING_DESC.EN : Fld := ⟨0, 0⟩
/-- ALE_1722_SID (09 R260). -/
def ALE_1722_SID (i : Nat) : Reg := ⟨0x5016000080 + 0x8 * i, 8, 0x0⟩
def ALE_1722_SID.SID : Fld := ⟨63, 0⟩
/-- ALE_1722_CTRL (09 R260). -/
def ALE_1722_CTRL : Reg := ⟨0x50160000c0, 4, 0x0⟩
def ALE_1722_CTRL.EN : Fld := ⟨7, 0⟩
/-- ALE_PORT_CFG (09 R260). -/
def ALE_PORT_CFG (p : Nat) : Reg := ⟨0x5016000100 + 0x4 * p, 4, 0x8⟩
def ALE_PORT_CFG.EN : Fld := ⟨7, 7⟩
def ALE_PORT_CFG.RATE : Fld := ⟨6, 6⟩
def ALE_PORT_CFG.WORD : Fld := ⟨5, 5⟩
def ALE_PORT_CFG.FS_POL : Fld := ⟨4, 4⟩
def ALE_PORT_CFG.FS_DELAY : Fld := ⟨3, 3⟩
/-- ALE_ERRPWR (09 R260). -/
def ALE_ERRPWR (m : Nat) : Reg := ⟨0x5016000140 + 0x4 * m, 4, 0x0⟩
def ALE_ERRPWR.POWER : Fld := ⟨31, 0⟩
/-- ALE_SAMPLES (09 R260). -/
def ALE_SAMPLES : Reg := ⟨0x5016000200, 8, 0x0⟩
def ALE_SAMPLES.COUNT : Fld := ⟨63, 0⟩
/-- ALE_SAT (09 R260). -/
def ALE_SAT : Reg := ⟨0x5016000208, 8, 0x0⟩
def ALE_SAT.COUNT : Fld := ⟨63, 0⟩
/-- ALE_CLIP (09 R260). -/
def ALE_CLIP : Reg := ⟨0x5016000210, 8, 0x0⟩
def ALE_CLIP.COUNT : Fld := ⟨63, 0⟩
/-- ALE_UNDERRUN (09 R260). -/
def ALE_UNDERRUN : Reg := ⟨0x5016000218, 8, 0x0⟩
def ALE_UNDERRUN.COUNT : Fld := ⟨63, 0⟩
/-- ALE_LATE_1722 (09 R260). -/
def ALE_LATE_1722 : Reg := ⟨0x5016000220, 8, 0x0⟩
def ALE_LATE_1722.COUNT : Fld := ⟨63, 0⟩
/-- ALE_DIVERGE (09 R260). -/
def ALE_DIVERGE : Reg := ⟨0x5016000228, 8, 0x0⟩
def ALE_DIVERGE.COUNT : Fld := ⟨63, 0⟩
/-- ALE_CNT_CTRL (09 R260). -/
def ALE_CNT_CTRL : Reg := ⟨0x5016000230, 4, 0x0⟩
def ALE_CNT_CTRL.CLR : Fld := ⟨0, 0⟩
/-- GFX_STATUS (10 R283). -/
def GFX_STATUS : Reg := ⟨0x500b000000, 4, 0x0⟩
def GFX_STATUS.CORE_BUSY : Fld := ⟨15, 8⟩
def GFX_STATUS.STATE : Fld := ⟨2, 0⟩
/-- GFX_HANG_LIMIT (10 R283). -/
def GFX_HANG_LIMIT : Reg := ⟨0x500b000008, 4, 0x1000000⟩
def GFX_HANG_LIMIT.CLOCKS : Fld := ⟨31, 0⟩
/-- GFX_CNT_CTRL (10 R283). -/
def GFX_CNT_CTRL : Reg := ⟨0x500b000010, 4, 0x0⟩
def GFX_CNT_CTRL.CLR : Fld := ⟨0, 0⟩
/-- GFX_PASSES (10 R283). -/
def GFX_PASSES : Reg := ⟨0x500b000020, 8, 0x0⟩
def GFX_PASSES.COUNT : Fld := ⟨63, 0⟩
/-- GFX_TILES (10 R283). -/
def GFX_TILES : Reg := ⟨0x500b000028, 8, 0x0⟩
def GFX_TILES.COUNT : Fld := ⟨63, 0⟩
/-- GFX_FLUSHES (10 R283). -/
def GFX_FLUSHES : Reg := ⟨0x500b000030, 8, 0x0⟩
def GFX_FLUSHES.COUNT : Fld := ⟨63, 0⟩
/-- GFX_BIN_PEAK (10 R283). -/
def GFX_BIN_PEAK : Reg := ⟨0x500b000038, 8, 0x0⟩
def GFX_BIN_PEAK.BYTES : Fld := ⟨63, 0⟩
/-- GFX_TAKEOVERS (10 R283). -/
def GFX_TAKEOVERS : Reg := ⟨0x500b000040, 8, 0x0⟩
def GFX_TAKEOVERS.COUNT : Fld := ⟨63, 0⟩
/-- GFX_SB_STALL (10 R283). -/
def GFX_SB_STALL : Reg := ⟨0x500b000048, 8, 0x0⟩
def GFX_SB_STALL.COUNT : Fld := ⟨63, 0⟩
/-- GFX_CORE_BUSY (10 R283). -/
def GFX_CORE_BUSY (c : Nat) : Reg := ⟨0x500b000100 + 0x8 * c, 8, 0x0⟩
def GFX_CORE_BUSY.COUNT : Fld := ⟨63, 0⟩
/-- DSP_PIPE_CTRL (10 R284). -/
def DSP_PIPE_CTRL (p : Nat) : Reg := ⟨0x5017000000 + 0x10000 * p, 4, 0x0⟩
def DSP_PIPE_CTRL.BPC10 : Fld := ⟨1, 1⟩
def DSP_PIPE_CTRL.EN : Fld := ⟨0, 0⟩
/-- DSP_PCLK (10 R284). -/
def DSP_PCLK (p : Nat) : Reg := ⟨0x5017000004 + 0x10000 * p, 4, 0x0⟩
def DSP_PCLK.KHZ : Fld := ⟨19, 0⟩
/-- DSP_H_TIMING (10 R284). -/
def DSP_H_TIMING (p : Nat) : Reg := ⟨0x5017000008 + 0x10000 * p, 4, 0x0⟩
def DSP_H_TIMING.TOTAL : Fld := ⟨31, 16⟩
def DSP_H_TIMING.ACTIVE : Fld := ⟨15, 0⟩
/-- DSP_H_SYNC (10 R284). -/
def DSP_H_SYNC (p : Nat) : Reg := ⟨0x501700000c + 0x10000 * p, 4, 0x0⟩
def DSP_H_SYNC.START : Fld := ⟨31, 16⟩
def DSP_H_SYNC.WIDTH : Fld := ⟨15, 0⟩
/-- DSP_V_TIMING (10 R284). -/
def DSP_V_TIMING (p : Nat) : Reg := ⟨0x5017000010 + 0x10000 * p, 4, 0x0⟩
def DSP_V_TIMING.TOTAL : Fld := ⟨31, 16⟩
def DSP_V_TIMING.ACTIVE : Fld := ⟨15, 0⟩
/-- DSP_V_SYNC (10 R284). -/
def DSP_V_SYNC (p : Nat) : Reg := ⟨0x5017000014 + 0x10000 * p, 4, 0x0⟩
def DSP_V_SYNC.START : Fld := ⟨31, 16⟩
def DSP_V_SYNC.WIDTH : Fld := ⟨15, 0⟩
/-- DSP_OUT_CFG (10 R284). -/
def DSP_OUT_CFG (p : Nat) : Reg := ⟨0x5017000018 + 0x10000 * p, 4, 0x0⟩
def DSP_OUT_CFG.RATE : Fld := ⟨10, 8⟩
def DSP_OUT_CFG.LANES : Fld := ⟨7, 6⟩
def DSP_OUT_CFG.TRAINED : Fld := ⟨5, 5⟩
def DSP_OUT_CFG.EDP : Fld := ⟨4, 4⟩
def DSP_OUT_CFG.EN : Fld := ⟨0, 0⟩
/-- DSP_COMMIT (10 R284). -/
def DSP_COMMIT (p : Nat) : Reg := ⟨0x501700001c + 0x10000 * p, 4, 0x0⟩
def DSP_COMMIT.REFUSED : Fld := ⟨1, 1⟩
def DSP_COMMIT.GO : Fld := ⟨0, 0⟩
/-- DSP_BG_COLOUR (10 R284). -/
def DSP_BG_COLOUR (p : Nat) : Reg := ⟨0x5017000020 + 0x10000 * p, 4, 0x0⟩
def DSP_BG_COLOUR.RGB : Fld := ⟨29, 0⟩
/-- DSP_UNDERRUN_COLOUR (10 R284). -/
def DSP_UNDERRUN_COLOUR (p : Nat) : Reg := ⟨0x5017000024 + 0x10000 * p, 4, 0x3ff003ff⟩
def DSP_UNDERRUN_COLOUR.RGB : Fld := ⟨29, 0⟩
/-- DSP_FRAME_COUNT (10 R284). -/
def DSP_FRAME_COUNT (p : Nat) : Reg := ⟨0x5017000028 + 0x10000 * p, 8, 0x0⟩
def DSP_FRAME_COUNT.COUNT : Fld := ⟨63, 0⟩
/-- DSP_UNDERRUNS (10 R284). -/
def DSP_UNDERRUNS (p : Nat) : Reg := ⟨0x5017000030 + 0x10000 * p, 8, 0x0⟩
def DSP_UNDERRUNS.COUNT : Fld := ⟨63, 0⟩
/-- DSP_PLANE_ADDR (10 R284). -/
def DSP_PLANE_ADDR (p k : Nat) : Reg := ⟨0x5017000100 + 0x10000 * p + 0x20 * k, 8, 0x0⟩
def DSP_PLANE_ADDR.ADDR : Fld := ⟨47, 6⟩
/-- DSP_PLANE_PITCH (10 R284). -/
def DSP_PLANE_PITCH (p k : Nat) : Reg := ⟨0x5017000108 + 0x10000 * p + 0x20 * k, 4, 0x0⟩
def DSP_PLANE_PITCH.PITCH : Fld := ⟨31, 0⟩
/-- DSP_PLANE_FMT (10 R284). -/
def DSP_PLANE_FMT (p k : Nat) : Reg := ⟨0x501700010c + 0x10000 * p + 0x20 * k, 4, 0xff00⟩
def DSP_PLANE_FMT.ALPHA : Fld := ⟨15, 8⟩
def DSP_PLANE_FMT.FMT : Fld := ⟨3, 1⟩
def DSP_PLANE_FMT.EN : Fld := ⟨0, 0⟩
/-- DSP_PLANE_POS (10 R284). -/
def DSP_PLANE_POS (p k : Nat) : Reg := ⟨0x5017000110 + 0x10000 * p + 0x20 * k, 4, 0x0⟩
def DSP_PLANE_POS.Y : Fld := ⟨31, 16⟩
def DSP_PLANE_POS.X : Fld := ⟨15, 0⟩
/-- DSP_PLANE_SIZE (10 R284). -/
def DSP_PLANE_SIZE (p k : Nat) : Reg := ⟨0x5017000114 + 0x10000 * p + 0x20 * k, 4, 0x0⟩
def DSP_PLANE_SIZE.H : Fld := ⟨31, 16⟩
def DSP_PLANE_SIZE.W : Fld := ⟨15, 0⟩
/-- DSP_CRC_CTRL (10 R284). -/
def DSP_CRC_CTRL (p : Nat) : Reg := ⟨0x5017000200 + 0x10000 * p, 4, 0x0⟩
def DSP_CRC_CTRL.EN : Fld := ⟨15, 0⟩
/-- DSP_CRC_RECT (10 R284). -/
def DSP_CRC_RECT (p r : Nat) : Reg := ⟨0x5017000240 + 0x10000 * p + 0x8 * r, 8, 0x0⟩
def DSP_CRC_RECT.Y1 : Fld := ⟨63, 48⟩
def DSP_CRC_RECT.X1 : Fld := ⟨47, 32⟩
def DSP_CRC_RECT.Y0 : Fld := ⟨31, 16⟩
def DSP_CRC_RECT.X0 : Fld := ⟨15, 0⟩
/-- DSP_CRC_VAL (10 R284). -/
def DSP_CRC_VAL (p r : Nat) : Reg := ⟨0x50170002c0 + 0x10000 * p + 0x4 * r, 4, 0x0⟩
def DSP_CRC_VAL.CRC : Fld := ⟨31, 0⟩
/-- DSP_CRC_FRAME (10 R284). -/
def DSP_CRC_FRAME (p : Nat) : Reg := ⟨0x5017000300 + 0x10000 * p, 8, 0x0⟩
def DSP_CRC_FRAME.COUNT : Fld := ⟨63, 0⟩
/-- DSP_CRC_EXP (10 R284). -/
def DSP_CRC_EXP (p r k : Nat) : Reg := ⟨0x5017000400 + 0x10000 * p + 0x10 * r + 0x4 * k, 4, 0x0⟩
def DSP_CRC_EXP.CRC : Fld := ⟨31, 0⟩
/-- DSP_CRC_EXP_VALID (10 R284). -/
def DSP_CRC_EXP_VALID (p : Nat) : Reg := ⟨0x5017000500 + 0x10000 * p, 8, 0x0⟩
def DSP_CRC_EXP_VALID.MASK : Fld := ⟨63, 0⟩
/-- DSP_CRC_MISMATCH (10 R284). -/
def DSP_CRC_MISMATCH (p : Nat) : Reg := ⟨0x5017000508 + 0x10000 * p, 4, 0x0⟩
def DSP_CRC_MISMATCH.REGION : Fld := ⟨15, 0⟩
/-- DSP_CRC_MISMATCHES (10 R284). -/
def DSP_CRC_MISMATCHES (p : Nat) : Reg := ⟨0x5017000510 + 0x10000 * p, 8, 0x0⟩
def DSP_CRC_MISMATCHES.COUNT : Fld := ⟨63, 0⟩
/-- SAF_GROUP_STATE (11 R316). -/
def SAF_GROUP_STATE : Reg := ⟨0x500c020000, 4, 0xf⟩
def SAF_GROUP_STATE.SAFE_N : Fld := ⟨7, 4⟩
def SAF_GROUP_STATE.SAFE : Fld := ⟨3, 0⟩
/-- SAF_GROUP_CAUSE (11 R316). -/
def SAF_GROUP_CAUSE (f : Nat) : Reg := ⟨0x500c020010 + 0x8 * f, 8, 0xff00⟩
def SAF_GROUP_CAUSE.SOURCE : Fld := ⟨15, 8⟩
def SAF_GROUP_CAUSE.CAUSE : Fld := ⟨7, 0⟩
/-- SAF_GROUP_TIME (11 R316). -/
def SAF_GROUP_TIME (f : Nat) : Reg := ⟨0x500c020030 + 0x8 * f, 8, 0x0⟩
def SAF_GROUP_TIME.TIME : Fld := ⟨63, 0⟩
/-- SAF_HEALTH (11 R316). -/
def SAF_HEALTH (g : Nat) : Reg := ⟨0x500c020100 + 0x8 * g, 8, 0x0⟩
def SAF_HEALTH.DEFERRALS : Fld := ⟨15, 8⟩
def SAF_HEALTH.CARRIES : Fld := ⟨7, 4⟩
def SAF_HEALTH.FAILED : Fld := ⟨2, 2⟩
def SAF_HEALTH.DEGRADED : Fld := ⟨1, 1⟩
def SAF_HEALTH.UNTESTED : Fld := ⟨0, 0⟩
/-- SAF_GOLDEN_PASS (11 R316). -/
def SAF_GOLDEN_PASS (g : Nat) : Reg := ⟨0x500c020180 + 0x8 * g, 8, 0x0⟩
def SAF_GOLDEN_PASS.TIME : Fld := ⟨63, 0⟩
/-- SAF_WEIR_STATUS (11 R316). -/
def SAF_WEIR_STATUS : Reg := ⟨0x500c020200, 4, 0x0⟩
def SAF_WEIR_STATUS.BUSY : Fld := ⟨8, 8⟩
def SAF_WEIR_STATUS.QUEUE : Fld := ⟨4, 0⟩
/-- SAF_WEIR_COMPARES (11 R316). -/
def SAF_WEIR_COMPARES : Reg := ⟨0x500c020208, 8, 0x0⟩
def SAF_WEIR_COMPARES.COUNT : Fld := ⟨63, 0⟩
/-- SAF_WEIR_BYTES (11 R316). -/
def SAF_WEIR_BYTES : Reg := ⟨0x500c020210, 8, 0x0⟩
def SAF_WEIR_BYTES.COUNT : Fld := ⟨63, 0⟩
/-- SAF_MSG_COUNTER (11 R316). -/
def SAF_MSG_COUNTER : Reg := ⟨0x500c020300, 8, 0x0⟩
def SAF_MSG_COUNTER.COUNTER : Fld := ⟨63, 0⟩
/-- SAF_OUT_STATUS (11 R316). -/
def SAF_OUT_STATUS (i : Nat) : Reg := ⟨0x500c021000 + 0x20 * i, 4, 0x0⟩
def SAF_OUT_STATUS.SLICE : Fld := ⟨13, 8⟩
def SAF_OUT_STATUS.GROUP : Fld := ⟨5, 4⟩
def SAF_OUT_STATUS.MET : Fld := ⟨3, 3⟩
def SAF_OUT_STATUS.ROLE : Fld := ⟨2, 2⟩
def SAF_OUT_STATUS.ARMED : Fld := ⟨1, 1⟩
def SAF_OUT_STATUS.CONFIGURED : Fld := ⟨0, 0⟩
/-- SAF_OUT_DEADLINE (11 R316). -/
def SAF_OUT_DEADLINE (i : Nat) : Reg := ⟨0x500c021008 + 0x20 * i, 8, 0x0⟩
def SAF_OUT_DEADLINE.TIME : Fld := ⟨63, 0⟩
/-- SAF_OUT_MISSES (11 R316). -/
def SAF_OUT_MISSES (i : Nat) : Reg := ⟨0x500c021010 + 0x20 * i, 8, 0x0⟩
def SAF_OUT_MISSES.COUNT : Fld := ⟨63, 0⟩
/-- SAF_OUT_DISAGREE (11 R316). -/
def SAF_OUT_DISAGREE (i : Nat) : Reg := ⟨0x500c021018 + 0x20 * i, 8, 0x0⟩
def SAF_OUT_DISAGREE.COUNT : Fld := ⟨63, 0⟩
/-- SAF_ISLAND_STATUS (12 R335). -/
def SAF_ISLAND_STATUS : Reg := ⟨0x500c000000, 4, 0x0⟩
def SAF_ISLAND_STATUS.SPLIT : Fld := ⟨7, 7⟩
def SAF_ISLAND_STATUS.LOCKSTEP_BROKEN : Fld := ⟨6, 6⟩
def SAF_ISLAND_STATUS.LOCKSTEP_ERR : Fld := ⟨5, 5⟩
def SAF_ISLAND_STATUS.HELD : Fld := ⟨4, 4⟩
def SAF_ISLAND_STATUS.STATE : Fld := ⟨2, 0⟩
/-- SAF_LOCKSTEP_MISMATCHES (12 R335). -/
def SAF_LOCKSTEP_MISMATCHES : Reg := ⟨0x500c000008, 8, 0x0⟩
def SAF_LOCKSTEP_MISMATCHES.COUNT : Fld := ⟨63, 0⟩
/-- SAF_LOCKSTEP_TIME (12 R335). -/
def SAF_LOCKSTEP_TIME : Reg := ⟨0x500c000010, 8, 0x0⟩
def SAF_LOCKSTEP_TIME.TIME : Fld := ⟨63, 0⟩
/-- SAF_ST_PERIOD (12 R335). -/
def SAF_ST_PERIOD : Reg := ⟨0x500c010000, 4, 0x7d0⟩
def SAF_ST_PERIOD.TILE_MS : Fld := ⟨31, 0⟩
/-- SAF_ST_CHK_PERIOD (12 R335). -/
def SAF_ST_CHK_PERIOD : Reg := ⟨0x500c010004, 4, 0x3e8⟩
def SAF_ST_CHK_PERIOD.CHK_MS : Fld := ⟨31, 0⟩
/-- SAF_ST_DIAG (12 R335). -/
def SAF_ST_DIAG : Reg := ⟨0x500c010008, 4, 0x1770⟩
def SAF_ST_DIAG.DIAG_MS : Fld := ⟨31, 0⟩
/-- SAF_ST_PASS (12 R335). -/
def SAF_ST_PASS (n : Nat) : Reg := ⟨0x500c011000 + 0x10 * n, 8, 0x0⟩
def SAF_ST_PASS.TIME : Fld := ⟨63, 0⟩
/-- SAF_ST_TILE (12 R335). -/
def SAF_ST_TILE (n : Nat) : Reg := ⟨0x500c011008 + 0x10 * n, 4, 0x0⟩
def SAF_ST_TILE.STEP : Fld := ⟨15, 8⟩
def SAF_ST_TILE.OVERDUE : Fld := ⟨3, 3⟩
def SAF_ST_TILE.FENCED : Fld := ⟨2, 2⟩
def SAF_ST_TILE.QUEUED : Fld := ⟨1, 1⟩
def SAF_ST_TILE.RUNNING : Fld := ⟨0, 0⟩
/-- SAF_ST_CHK_PASS (12 R335). -/
def SAF_ST_CHK_PASS (c : Nat) : Reg := ⟨0x500c012000 + 0x10 * c, 8, 0x0⟩
def SAF_ST_CHK_PASS.TIME : Fld := ⟨63, 0⟩
/-- SAF_ST_CHK (12 R335). -/
def SAF_ST_CHK (c : Nat) : Reg := ⟨0x500c012008 + 0x10 * c, 4, 0x0⟩
def SAF_ST_CHK.FAILED : Fld := ⟨2, 2⟩
def SAF_ST_CHK.OVERDUE : Fld := ⟨1, 1⟩
def SAF_ST_CHK.RUNNING : Fld := ⟨0, 0⟩
/-- SAF_ST_PASSES (12 R335). -/
def SAF_ST_PASSES : Reg := ⟨0x500c013000, 8, 0x0⟩
def SAF_ST_PASSES.COUNT : Fld := ⟨63, 0⟩
/-- SAF_ST_FAILS (12 R335). -/
def SAF_ST_FAILS : Reg := ⟨0x500c013008, 8, 0x0⟩
def SAF_ST_FAILS.COUNT : Fld := ⟨63, 0⟩
/-- SAF_ST_ABORTS (12 R335). -/
def SAF_ST_ABORTS : Reg := ⟨0x500c013010, 8, 0x0⟩
def SAF_ST_ABORTS.COUNT : Fld := ⟨63, 0⟩
/-- ERR_RING_BASE (12 R336). -/
def ERR_RING_BASE : Reg := ⟨0x5015000000, 8, 0x0⟩
def ERR_RING_BASE.BASE : Fld := ⟨47, 12⟩
/-- ERR_RING_CTRL (12 R336). -/
def ERR_RING_CTRL : Reg := ⟨0x5015000008, 4, 0x6⟩
def ERR_RING_CTRL.ENABLE : Fld := ⟨31, 31⟩
def ERR_RING_CTRL.LOG2_SLOTS : Fld := ⟨4, 0⟩
/-- ERR_RING_TAIL (12 R336). -/
def ERR_RING_TAIL : Reg := ⟨0x501500000c, 4, 0x0⟩
def ERR_RING_TAIL.TAIL : Fld := ⟨31, 0⟩
/-- ERR_RING_HEAD (12 R336). -/
def ERR_RING_HEAD : Reg := ⟨0x5015000010, 4, 0x0⟩
def ERR_RING_HEAD.HEAD : Fld := ⟨31, 0⟩
/-- ERR_STATUS (12 R336). -/
def ERR_STATUS : Reg := ⟨0x5015000014, 4, 0x0⟩
def ERR_STATUS.HELD : Fld := ⟨15, 8⟩
def ERR_STATUS.SAFETY_LOST : Fld := ⟨2, 2⟩
def ERR_STATUS.HOLDING : Fld := ⟨1, 1⟩
def ERR_STATUS.COALESCING : Fld := ⟨0, 0⟩
/-- ERR_MSI_ADDR (12 R336). -/
def ERR_MSI_ADDR : Reg := ⟨0x5015000018, 8, 0x0⟩
def ERR_MSI_ADDR.ADDR : Fld := ⟨47, 2⟩
def ERR_MSI_ADDR.EN : Fld := ⟨0, 0⟩
/-- ERR_MSI_DATA (12 R336). -/
def ERR_MSI_DATA : Reg := ⟨0x5015000020, 4, 0x0⟩
def ERR_MSI_DATA.DATA : Fld := ⟨31, 0⟩
/-- ERR_RECORDS (12 R336). -/
def ERR_RECORDS : Reg := ⟨0x5015000028, 8, 0x0⟩
def ERR_RECORDS.COUNT : Fld := ⟨63, 0⟩
/-- ERR_LOST_SAFETY (12 R336). -/
def ERR_LOST_SAFETY : Reg := ⟨0x5015000030, 8, 0x0⟩
def ERR_LOST_SAFETY.COUNT : Fld := ⟨63, 0⟩
/-- ERR_LOST_CNT (12 R336). -/
def ERR_LOST_CNT (s : Nat) : Reg := ⟨0x5015000100 + 0x18 * s, 4, 0x0⟩
def ERR_LOST_CNT.COUNT : Fld := ⟨31, 0⟩
/-- ERR_LOST_FIRST (12 R336). -/
def ERR_LOST_FIRST (s : Nat) : Reg := ⟨0x5015000108 + 0x18 * s, 8, 0x0⟩
def ERR_LOST_FIRST.TIME : Fld := ⟨63, 0⟩
/-- ERR_LOST_LAST (12 R336). -/
def ERR_LOST_LAST (s : Nat) : Reg := ⟨0x5015000110 + 0x18 * s, 8, 0x0⟩
def ERR_LOST_LAST.TIME : Fld := ⟨63, 0⟩
/-- SEC_STATUS (13 R360). -/
def SEC_STATUS : Reg := ⟨0x500d000000, 4, 0x0⟩
def SEC_STATUS.KEY_HELD : Fld := ⟨6, 6⟩
def SEC_STATUS.COCKPIT_WITHDRAWN : Fld := ⟨5, 5⟩
def SEC_STATUS.WARM : Fld := ⟨4, 4⟩
def SEC_STATUS.STATE : Fld := ⟨2, 0⟩
/-- SEC_DEBUG (13 R360). -/
def SEC_DEBUG : Reg := ⟨0x500d000008, 4, 0x0⟩
def SEC_DEBUG.SCOPE : Fld := ⟨13, 8⟩
def SEC_DEBUG.EVER : Fld := ⟨7, 4⟩
def SEC_DEBUG.ENABLES : Fld := ⟨3, 0⟩
/-- SEC_CLAIM (13 R360). -/
def SEC_CLAIM : Reg := ⟨0x500d000010, 4, 0x0⟩
def SEC_CLAIM.PENDING : Fld := ⟨31, 16⟩
def SEC_CLAIM.CLAIM : Fld := ⟨15, 0⟩
/-- SEC_WDT_CFG (13 R360). -/
def SEC_WDT_CFG : Reg := ⟨0x500d000018, 4, 0xc80014⟩
def SEC_WDT_CFG.CKP_MS : Fld := ⟨31, 16⟩
def SEC_WDT_CFG.VEH_MS : Fld := ⟨15, 0⟩
/-- SEC_MBOX_BUSY (13 R360). -/
def SEC_MBOX_BUSY : Reg := ⟨0x500d000020, 4, 0x0⟩
def SEC_MBOX_BUSY.SLOT : Fld := ⟨19, 0⟩
/-- SEC_DEVICE_ID (13 R360). -/
def SEC_DEVICE_ID (k : Nat) : Reg := ⟨0x500d000040 + 0x8 * k, 8, 0x0⟩
def SEC_DEVICE_ID.ID : Fld := ⟨63, 0⟩
/-- SEC_GATE_CALLS (13 R360). -/
def SEC_GATE_CALLS : Reg := ⟨0x500d000080, 8, 0x0⟩
def SEC_GATE_CALLS.COUNT : Fld := ⟨63, 0⟩
/-- SEC_GATE_FAULTS (13 R360). -/
def SEC_GATE_FAULTS : Reg := ⟨0x500d000088, 8, 0x0⟩
def SEC_GATE_FAULTS.COUNT : Fld := ⟨63, 0⟩
/-- MEM_ECC_BASE (14 R390). -/
def MEM_ECC_BASE (r : Nat) : Reg := ⟨0x5008000000 + 0x10 * r, 8, 0x0⟩
def MEM_ECC_BASE.BASE : Fld := ⟨47, 16⟩
def MEM_ECC_BASE.CODE : Fld := ⟨1, 1⟩
def MEM_ECC_BASE.EN : Fld := ⟨0, 0⟩
/-- MEM_ECC_LIMIT (14 R390). -/
def MEM_ECC_LIMIT (r : Nat) : Reg := ⟨0x5008000008 + 0x10 * r, 8, 0x0⟩
def MEM_ECC_LIMIT.LIMIT : Fld := ⟨47, 16⟩
/-- MEM_VALID_STATUS (14 R390). -/
def MEM_VALID_STATUS : Reg := ⟨0x5008000200, 4, 0x1⟩
def MEM_VALID_STATUS.CLEARING : Fld := ⟨0, 0⟩
/-- MEM_ZERO_READS (14 R390). -/
def MEM_ZERO_READS : Reg := ⟨0x5008000208, 8, 0x0⟩
def MEM_ZERO_READS.COUNT : Fld := ⟨63, 0⟩
/-- MEM_ZERO_FILLS (14 R390). -/
def MEM_ZERO_FILLS : Reg := ⟨0x5008000210, 8, 0x0⟩
def MEM_ZERO_FILLS.COUNT : Fld := ⟨63, 0⟩
/-- MEM_LB_CFG (14 R390). -/
def MEM_LB_CFG (k : Nat) : Reg := ⟨0x5008000300 + 0x8 * k, 4, 0x3e8000a⟩
def MEM_LB_CFG.LEAK_MS : Fld := ⟨31, 16⟩
def MEM_LB_CFG.THRESHOLD : Fld := ⟨7, 0⟩
/-- MEM_ARB_CTRL (14 R390). -/
def MEM_ARB_CTRL : Reg := ⟨0x5008000400, 4, 0x101010⟩
def MEM_ARB_CTRL.N_MESH : Fld := ⟨23, 16⟩
def MEM_ARB_CTRL.N_MC : Fld := ⟨15, 8⟩
def MEM_ARB_CTRL.N_DRAM : Fld := ⟨7, 0⟩
/-- MEM_ARB_WAIT_LIMIT (14 R390). -/
def MEM_ARB_WAIT_LIMIT : Reg := ⟨0x5008000404, 4, 0x4000⟩
def MEM_ARB_WAIT_LIMIT.CLOCKS : Fld := ⟨31, 0⟩
/-- MEM_ARB_SEL (14 R390). -/
def MEM_ARB_SEL : Reg := ⟨0x5008000408, 4, 0x0⟩
def MEM_ARB_SEL.ARBITER : Fld := ⟨24, 16⟩
def MEM_ARB_SEL.REQUESTER : Fld := ⟨2, 0⟩
/-- MEM_ARB_GRANTS (14 R390). -/
def MEM_ARB_GRANTS : Reg := ⟨0x5008000410, 8, 0x0⟩
def MEM_ARB_GRANTS.COUNT : Fld := ⟨63, 0⟩
/-- MEM_ARB_WAIT (14 R390). -/
def MEM_ARB_WAIT : Reg := ⟨0x5008000418, 8, 0x0⟩
def MEM_ARB_WAIT.COUNT : Fld := ⟨63, 0⟩
/-- MEM_ARB_LONGEST (14 R390). -/
def MEM_ARB_LONGEST : Reg := ⟨0x5008000420, 4, 0x0⟩
def MEM_ARB_LONGEST.CLOCKS : Fld := ⟨31, 0⟩
/-- MEM_LB (14 R390). -/
def MEM_LB (n : Nat) : Reg := ⟨0x5008001000 + 0x10 * n, 8, 0x0⟩
def MEM_LB.UNCORRECTED : Fld := ⟨63, 48⟩
def MEM_LB.OVERFLOWS : Fld := ⟨47, 32⟩
def MEM_LB.COUNT : Fld := ⟨7, 0⟩
/-- MEM_LB_CORR (14 R390). -/
def MEM_LB_CORR (n : Nat) : Reg := ⟨0x5008001008 + 0x10 * n, 8, 0x0⟩
def MEM_LB_CORR.CORRECTED : Fld := ⟨63, 0⟩
/-- MRC_CTRL (14 R390). -/
def MRC_CTRL : Reg := ⟨0x5009000000, 4, 0x7d00010⟩
def MRC_CTRL.AGE_NS : Fld := ⟨31, 16⟩
def MRC_CTRL.HIT_CAP : Fld := ⟨7, 0⟩
/-- MRC_RESERVE (14 R390). -/
def MRC_RESERVE : Reg := ⟨0x5009000008, 4, 0x814⟩
def MRC_RESERVE.MAINT : Fld := ⟨15, 8⟩
def MRC_RESERVE.SAFETY : Fld := ⟨7, 0⟩
/-- MRC_CNT_CTRL (14 R390). -/
def MRC_CNT_CTRL : Reg := ⟨0x5009000010, 4, 0x0⟩
def MRC_CNT_CTRL.CLR : Fld := ⟨0, 0⟩
/-- MRC_SHARE (14 R390). -/
def MRC_SHARE (s : Nat) : Reg := ⟨0x5009000100 + 0x4 * s, 4, 0x0⟩
def MRC_SHARE.PCT : Fld := ⟨6, 0⟩
/-- MRC_CH_QUEUE (14 R390). -/
def MRC_CH_QUEUE (c : Nat) : Reg := ⟨0x5009001000 + 0x100 * c, 4, 0x0⟩
def MRC_CH_QUEUE.MAX : Fld := ⟨24, 16⟩
def MRC_CH_QUEUE.DEPTH : Fld := ⟨8, 0⟩
/-- MRC_CH_SECTORS (14 R390). -/
def MRC_CH_SECTORS (c : Nat) : Reg := ⟨0x5009001008 + 0x100 * c, 8, 0x0⟩
def MRC_CH_SECTORS.COUNT : Fld := ⟨63, 0⟩
/-- MRC_CH_ACTIVATES (14 R390). -/
def MRC_CH_ACTIVATES (c : Nat) : Reg := ⟨0x5009001010 + 0x100 * c, 8, 0x0⟩
def MRC_CH_ACTIVATES.COUNT : Fld := ⟨63, 0⟩
/-- MRC_CH_ROW_HITS (14 R390). -/
def MRC_CH_ROW_HITS (c : Nat) : Reg := ⟨0x5009001018 + 0x100 * c, 8, 0x0⟩
def MRC_CH_ROW_HITS.COUNT : Fld := ⟨63, 0⟩
/-- MRC_CH_COALESCED (14 R390). -/
def MRC_CH_COALESCED (c : Nat) : Reg := ⟨0x5009001020 + 0x100 * c, 8, 0x0⟩
def MRC_CH_COALESCED.COUNT : Fld := ⟨63, 0⟩
/-- MRC_CH_SAFETY (14 R390). -/
def MRC_CH_SAFETY (c : Nat) : Reg := ⟨0x5009001028 + 0x100 * c, 8, 0x0⟩
def MRC_CH_SAFETY.COUNT : Fld := ⟨63, 0⟩
/-- MRC_CH_LEFTOVER (14 R390). -/
def MRC_CH_LEFTOVER (c : Nat) : Reg := ⟨0x5009001030 + 0x100 * c, 8, 0x0⟩
def MRC_CH_LEFTOVER.COUNT : Fld := ⟨63, 0⟩
/-- MRC_CH_FILL (14 R390). -/
def MRC_CH_FILL (c : Nat) : Reg := ⟨0x5009001038 + 0x100 * c, 8, 0x0⟩
def MRC_CH_FILL.COUNT : Fld := ⟨63, 0⟩
/-- PWR_CAPS (15 R424). -/
def PWR_CAPS : Reg := ⟨0x5010000000, 4, 0x21c01b8⟩
def PWR_CAPS.PEAK : Fld := ⟨31, 16⟩
def PWR_CAPS.SUST : Fld := ⟨15, 0⟩
/-- PWR_EFF (15 R424). -/
def PWR_EFF : Reg := ⟨0x5010000004, 4, 0x1b8⟩
def PWR_EFF.SUST_EFF : Fld := ⟨15, 0⟩
/-- PWR_BASE_RES (15 R424). -/
def PWR_BASE_RES : Reg := ⟨0x5010000008, 4, 0x280024⟩
def PWR_BASE_RES.RESERVE : Fld := ⟨31, 16⟩
def PWR_BASE_RES.BASE : Fld := ⟨15, 0⟩
/-- PWR_TOTAL (15 R424). -/
def PWR_TOTAL : Reg := ⟨0x501000000c, 4, 0x0⟩
def PWR_TOTAL.RES_USED : Fld := ⟨31, 16⟩
def PWR_TOTAL.TOTAL : Fld := ⟨15, 0⟩
/-- PWR_BUCKET (15 R424). -/
def PWR_BUCKET : Reg := ⟨0x5010000010, 4, 0x0⟩
def PWR_BUCKET.E : Fld := ⟨31, 0⟩
/-- PWR_QUEUE (15 R424). -/
def PWR_QUEUE : Reg := ⟨0x5010000014, 4, 0x0⟩
def PWR_QUEUE.CLASS3 : Fld := ⟨31, 24⟩
def PWR_QUEUE.CLASS2 : Fld := ⟨23, 16⟩
def PWR_QUEUE.CLASS1 : Fld := ⟨15, 8⟩
def PWR_QUEUE.CLASS0 : Fld := ⟨7, 0⟩
/-- PWR_GRANTS (15 R424). -/
def PWR_GRANTS : Reg := ⟨0x5010000020, 8, 0x0⟩
def PWR_GRANTS.COUNT : Fld := ⟨63, 0⟩
/-- PWR_DENIED (15 R424). -/
def PWR_DENIED : Reg := ⟨0x5010000028, 8, 0x0⟩
def PWR_DENIED.COUNT : Fld := ⟨63, 0⟩
/-- PWR_WAIT_MAX (15 R424). -/
def PWR_WAIT_MAX : Reg := ⟨0x5010000030, 4, 0x0⟩
def PWR_WAIT_MAX.US : Fld := ⟨31, 0⟩
/-- PWR_SLICE (15 R424). -/
def PWR_SLICE (s : Nat) : Reg := ⟨0x5010000100 + 0x8 * s, 8, 0x0⟩
def PWR_SLICE.PEAK : Fld := ⟨47, 32⟩
def PWR_SLICE.SUST : Fld := ⟨31, 16⟩
def PWR_SLICE.HELD : Fld := ⟨15, 0⟩
/-- PWR_TEMP (15 R424). -/
def PWR_TEMP (n : Nat) : Reg := ⟨0x5010000400 + 0x4 * n, 4, 0x7fff⟩
def PWR_TEMP.TEMP : Fld := ⟨15, 0⟩
/-- PWR_ZONE (15 R424). -/
def PWR_ZONE (z : Nat) : Reg := ⟨0x5010000500 + 0x8 * z, 8, 0x7fff⟩
def PWR_ZONE.REDUCTION : Fld := ⟨47, 32⟩
def PWR_ZONE.TEMP : Fld := ⟨15, 0⟩
/-- PWR_THERM_STATUS (15 R424). -/
def PWR_THERM_STATUS : Reg := ⟨0x5010000600, 4, 0x0⟩
def PWR_THERM_STATUS.SENSOR_FAULT : Fld := ⟨2, 2⟩
def PWR_THERM_STATUS.THROTTLE : Fld := ⟨1, 1⟩
def PWR_THERM_STATUS.EMERGENCY : Fld := ⟨0, 0⟩
/-- PWR_THROTTLES (15 R424). -/
def PWR_THROTTLES : Reg := ⟨0x5010000608, 8, 0x0⟩
def PWR_THROTTLES.COUNT : Fld := ⟨63, 0⟩
/-- AON_START_COUNT (15 R425). -/
def AON_START_COUNT : Reg := ⟨0x50f0000000, 4, 0x0⟩
def AON_START_COUNT.CYCLE : Fld := ⟨31, 16⟩
def AON_START_COUNT.STARTS : Fld := ⟨15, 0⟩
/-- AON_START_STATUS (15 R425). -/
def AON_START_STATUS : Reg := ⟨0x50f0000004, 4, 0x0⟩
def AON_START_STATUS.FAIL_STEP : Fld := ⟨31, 24⟩
def AON_START_STATUS.LAST_CAUSE : Fld := ⟨23, 16⟩
def AON_START_STATUS.CAUSE : Fld := ⟨15, 8⟩
def AON_START_STATUS.FAIL_COUNT : Fld := ⟨7, 6⟩
def AON_START_STATUS.STARTING : Fld := ⟨5, 5⟩
def AON_START_STATUS.WARM : Fld := ⟨4, 4⟩
def AON_START_STATUS.BOOT_SRC : Fld := ⟨3, 2⟩
/-- AON_START_IGNORED (15 R425). -/
def AON_START_IGNORED : Reg := ⟨0x50f0000008, 4, 0x0⟩
def AON_START_IGNORED.COUNT : Fld := ⟨31, 0⟩
/-- AON_PROFILE (15 R425). -/
def AON_PROFILE : Reg := ⟨0x50f000000c, 4, 0x0⟩
def AON_PROFILE.STRAP : Fld := ⟨5, 4⟩
def AON_PROFILE.NEXT : Fld := ⟨3, 2⟩
def AON_PROFILE.CURRENT : Fld := ⟨1, 0⟩
/-- AON_WAKE_EN (15 R425). -/
def AON_WAKE_EN : Reg := ⟨0x50f0000010, 4, 0x0⟩
def AON_WAKE_EN.EN : Fld := ⟨4, 0⟩
/-- AON_WAKE_TICKS (15 R425). -/
def AON_WAKE_TICKS : Reg := ⟨0x50f0000014, 4, 0x0⟩
def AON_WAKE_TICKS.TICKS : Fld := ⟨31, 0⟩
/-- AON_WAKE_SRC (15 R425). -/
def AON_WAKE_SRC : Reg := ⟨0x50f0000018, 4, 0x0⟩
def AON_WAKE_SRC.SRC : Fld := ⟨4, 0⟩
/-- AON_WARM_ENTRY_LO (15 R425). -/
def AON_WARM_ENTRY_LO : Reg := ⟨0x50f000001c, 4, 0x0⟩
def AON_WARM_ENTRY_LO.ADDR : Fld := ⟨31, 0⟩
/-- AON_WARM_ENTRY_HI (15 R425). -/
def AON_WARM_ENTRY_HI : Reg := ⟨0x50f0000020, 4, 0x0⟩
def AON_WARM_ENTRY_HI.ADDR : Fld := ⟨15, 0⟩
/-- AON_START_CTRL (15 R425). -/
def AON_START_CTRL : Reg := ⟨0x50f0000024, 4, 0x0⟩
def AON_START_CTRL.WARM_REQ : Fld := ⟨0, 0⟩
/-- MBX_CMD (16 R435). -/
def MBX_CMD (m : Nat) : Reg := ⟨0x500e800000 + 0x10000 * m, 4, 0x1⟩
def MBX_CMD.CMD : Fld := ⟨31, 16⟩
def MBX_CMD.TAG : Fld := ⟨15, 2⟩
def MBX_CMD.CLASS : Fld := ⟨1, 0⟩
/-- MBX_ARG (16 R435). -/
def MBX_ARG (m i : Nat) : Reg := ⟨0x500e800004 + 0x10000 * m + 0x4 * i, 4, 0x0⟩
def MBX_ARG.ARG : Fld := ⟨31, 0⟩
/-- MBX_DOORBELL (16 R435). -/
def MBX_DOORBELL (m : Nat) : Reg := ⟨0x500e80001c + 0x10000 * m, 4, 0x0⟩
def MBX_DOORBELL.GO : Fld := ⟨0, 0⟩
/-- MBX_STATUS (16 R435). -/
def MBX_STATUS (m : Nat) : Reg := ⟨0x500e800020 + 0x10000 * m, 4, 0x0⟩
def MBX_STATUS.STATUS : Fld := ⟨31, 16⟩
def MBX_STATUS.TAG : Fld := ⟨15, 2⟩
def MBX_STATUS.DONE : Fld := ⟨1, 1⟩
def MBX_STATUS.BUSY : Fld := ⟨0, 0⟩
/-- MBX_RESULT_LO (16 R435). -/
def MBX_RESULT_LO (m : Nat) : Reg := ⟨0x500e800024 + 0x10000 * m, 4, 0x0⟩
def MBX_RESULT_LO.RESULT : Fld := ⟨31, 0⟩
/-- MBX_RESULT_HI (16 R435). -/
def MBX_RESULT_HI (m : Nat) : Reg := ⟨0x500e800028 + 0x10000 * m, 4, 0x0⟩
def MBX_RESULT_HI.RESULT : Fld := ⟨31, 0⟩
/-- MBX_IGNORED (16 R435). -/
def MBX_IGNORED (m : Nat) : Reg := ⟨0x500e80002c + 0x10000 * m, 4, 0x0⟩
def MBX_IGNORED.COUNT : Fld := ⟨31, 0⟩
/-- CTL_CORE_STATUS (16 R438). -/
def CTL_CORE_STATUS (c : Nat) : Reg := ⟨0x500e000000 + 0x8 * c, 4, 0x0⟩
def CTL_CORE_STATUS.SERVICES : Fld := ⟨31, 16⟩
def CTL_CORE_STATUS.STATE : Fld := ⟨1, 0⟩
/-- CTL_RESTARTS (16 R438). -/
def CTL_RESTARTS : Reg := ⟨0x500e000020, 8, 0x0⟩
def CTL_RESTARTS.COUNT : Fld := ⟨63, 0⟩
/-- CTL_LOG_SEQ (16 R438). -/
def CTL_LOG_SEQ : Reg := ⟨0x500e000028, 4, 0x0⟩
def CTL_LOG_SEQ.SEQ : Fld := ⟨31, 0⟩
/-- CTL_TRACE_SEQ (16 R438). -/
def CTL_TRACE_SEQ : Reg := ⟨0x500e00002c, 4, 0x0⟩
def CTL_TRACE_SEQ.SEQ : Fld := ⟨31, 0⟩
/-- CTL_TRACE_MASK (16 R438). -/
def CTL_TRACE_MASK (g : Nat) : Reg := ⟨0x500e000100 + 0x8 * g, 8, 0x0⟩
def CTL_TRACE_MASK.MASK : Fld := ⟨63, 0⟩
/-- REC_STATUS (17 R456). -/
def REC_STATUS : Reg := ⟨0x1000000000000, 4, 0x1⟩
def REC_STATUS.CAUSE : Fld := ⟨15, 8⟩
def REC_STATUS.STATE : Fld := ⟨2, 0⟩
/-- REC_LENGTH (17 R456). -/
def REC_LENGTH : Reg := ⟨0x1000000000004, 4, 0x0⟩
def REC_LENGTH.BYTES : Fld := ⟨31, 0⟩
/-- REC_CTRL (17 R456). -/
def REC_CTRL : Reg := ⟨0x1000000000008, 4, 0x0⟩
def REC_CTRL.GO : Fld := ⟨0, 0⟩
/-- AON_BR_STATUS (17 R462). -/
def AON_BR_STATUS : Reg := ⟨0x500f000000, 4, 0x0⟩
def AON_BR_STATUS.S2F : Fld := ⟨31, 16⟩
def AON_BR_STATUS.F2S : Fld := ⟨15, 0⟩
/-- AON_BR_READS (17 R462). -/
def AON_BR_READS : Reg := ⟨0x500f000008, 8, 0x0⟩
def AON_BR_READS.COUNT : Fld := ⟨63, 0⟩
/-- AON_BR_RETRY_FULL (17 R462). -/
def AON_BR_RETRY_FULL : Reg := ⟨0x500f000010, 8, 0x0⟩
def AON_BR_RETRY_FULL.COUNT : Fld := ⟨63, 0⟩
/-- AON_BR_DISCARDS (17 R462). -/
def AON_BR_DISCARDS : Reg := ⟨0x500f000018, 8, 0x0⟩
def AON_BR_DISCARDS.COUNT : Fld := ⟨63, 0⟩
/-- AON_BR_BUS_ERR (17 R462). -/
def AON_BR_BUS_ERR : Reg := ⟨0x500f000020, 8, 0x0⟩
def AON_BR_BUS_ERR.COUNT : Fld := ⟨63, 0⟩
/-- AON_BR_WR_MAX (17 R462). -/
def AON_BR_WR_MAX : Reg := ⟨0x500f000028, 4, 0x0⟩
def AON_BR_WR_MAX.NS : Fld := ⟨31, 0⟩
/-- LNK_PORT_STATUS (17 R472). -/
def LNK_PORT_STATUS (p : Nat) : Reg := ⟨0x5011000000 + 0x100 * p, 4, 0x0⟩
def LNK_PORT_STATUS.GBPS : Fld := ⟨31, 16⟩
def LNK_PORT_STATUS.MODE : Fld := ⟨2, 1⟩
def LNK_PORT_STATUS.UP : Fld := ⟨0, 0⟩
/-- LNK_PCI_ID (17 R472). -/
def LNK_PCI_ID : Reg := ⟨0x5011000300, 4, 0x96400000⟩
def LNK_PCI_ID.DEVICE : Fld := ⟨31, 16⟩
def LNK_PCI_ID.VENDOR : Fld := ⟨15, 0⟩
/-- LNK_POSTED_FAILS (17 R472). -/
def LNK_POSTED_FAILS : Reg := ⟨0x5011000308, 8, 0x0⟩
def LNK_POSTED_FAILS.COUNT : Fld := ⟨63, 0⟩
/-- LNK_TWIN_STATUS (17 R472). -/
def LNK_TWIN_STATUS : Reg := ⟨0x5011000400, 4, 0x0⟩
def LNK_TWIN_STATUS.MISSES : Fld := ⟨11, 8⟩
def LNK_TWIN_STATUS.DETACH_REFUSED : Fld := ⟨7, 7⟩
def LNK_TWIN_STATUS.CARRYING : Fld := ⟨6, 6⟩
def LNK_TWIN_STATUS.PIN_OK : Fld := ⟨5, 5⟩
def LNK_TWIN_STATUS.PATH_OK : Fld := ⟨4, 4⟩
def LNK_TWIN_STATUS.STATE : Fld := ⟨2, 0⟩
/-- LNK_TWIN_CTRL (17 R472). -/
def LNK_TWIN_CTRL : Reg := ⟨0x5011000404, 4, 0x0⟩
def LNK_TWIN_CTRL.CARRY_END : Fld := ⟨1, 1⟩
def LNK_TWIN_CTRL.DETACH : Fld := ⟨0, 0⟩
/-- LNK_TAKEOVERS (17 R472). -/
def LNK_TAKEOVERS : Reg := ⟨0x5011000408, 8, 0x0⟩
def LNK_TAKEOVERS.COUNT : Fld := ⟨63, 0⟩
/-- LNK_HB_MISSED (17 R472). -/
def LNK_HB_MISSED : Reg := ⟨0x5011000410, 8, 0x0⟩
def LNK_HB_MISSED.COUNT : Fld := ⟨63, 0⟩
/-- LNK_CKPT_SRC (17 R472). -/
def LNK_CKPT_SRC (n : Nat) : Reg := ⟨0x5011001000 + 0x40 * n, 8, 0x0⟩
def LNK_CKPT_SRC.ADDR : Fld := ⟨47, 6⟩
def LNK_CKPT_SRC.EN : Fld := ⟨0, 0⟩
/-- LNK_CKPT_DST (17 R472). -/
def LNK_CKPT_DST (n : Nat) : Reg := ⟨0x5011001008 + 0x40 * n, 8, 0x0⟩
def LNK_CKPT_DST.ADDR : Fld := ⟨47, 6⟩
/-- LNK_CKPT_LEN (17 R472). -/
def LNK_CKPT_LEN (n : Nat) : Reg := ⟨0x5011001010 + 0x40 * n, 4, 0x0⟩
def LNK_CKPT_LEN.BYTES : Fld := ⟨31, 0⟩
/-- LNK_CKPT_OBJ (17 R472). -/
def LNK_CKPT_OBJ (n : Nat) : Reg := ⟨0x5011001014 + 0x40 * n, 4, 0x0⟩
def LNK_CKPT_OBJ.REMOTE_OBJ : Fld := ⟨31, 16⟩
def LNK_CKPT_OBJ.TRIG_OBJ : Fld := ⟨15, 0⟩
/-- LNK_CKPT_DONE (17 R472). -/
def LNK_CKPT_DONE (n : Nat) : Reg := ⟨0x5011001018 + 0x40 * n, 8, 0x0⟩
def LNK_CKPT_DONE.COUNT : Fld := ⟨63, 0⟩
/-- LNK_CKPT_FAIL (17 R472). -/
def LNK_CKPT_FAIL (n : Nat) : Reg := ⟨0x5011001020 + 0x40 * n, 8, 0x0⟩
def LNK_CKPT_FAIL.COUNT : Fld := ⟨63, 0⟩
/-- LNK_CKPT_SKIPPED (17 R472). -/
def LNK_CKPT_SKIPPED (n : Nat) : Reg := ⟨0x5011001028 + 0x40 * n, 8, 0x0⟩
def LNK_CKPT_SKIPPED.COUNT : Fld := ⟨63, 0⟩
/-- LNK_DOMAIN_STATUS (17 R472). -/
def LNK_DOMAIN_STATUS : Reg := ⟨0x5011002000, 4, 0xfe⟩
def LNK_DOMAIN_STATUS.MEMBER : Fld := ⟨7, 1⟩
def LNK_DOMAIN_STATUS.DIVERGENT : Fld := ⟨0, 0⟩
/-- LNK_DOMAIN_EPOCH (17 R472). -/
def LNK_DOMAIN_EPOCH : Reg := ⟨0x5011002008, 8, 0x0⟩
def LNK_DOMAIN_EPOCH.EPOCH : Fld := ⟨63, 0⟩
/-- LNK_DOMAIN_DIGEST (17 R472). -/
def LNK_DOMAIN_DIGEST (k : Nat) : Reg := ⟨0x5011002010 + 0x8 * k, 8, 0x0⟩
def LNK_DOMAIN_DIGEST.DIGEST : Fld := ⟨63, 0⟩
/-- LNK_DOMAIN_SWITCH (17 R472). -/
def LNK_DOMAIN_SWITCH : Reg := ⟨0x5011002040, 8, 0x0⟩
def LNK_DOMAIN_SWITCH.TIME : Fld := ⟨63, 0⟩
/-- LNK_ANNOUNCE_RX (17 R472). -/
def LNK_ANNOUNCE_RX : Reg := ⟨0x5011002048, 8, 0x0⟩
def LNK_ANNOUNCE_RX.COUNT : Fld := ⟨63, 0⟩
/-- NET_TIME_NS (18 R496). -/
def NET_TIME_NS : Reg := ⟨0x5012000000, 8, 0x0⟩
def NET_TIME_NS.NS : Fld := ⟨63, 0⟩
/-- NET_TIME_FRAC (18 R496). -/
def NET_TIME_FRAC : Reg := ⟨0x5012000008, 4, 0x0⟩
def NET_TIME_FRAC.FRAC : Fld := ⟨31, 0⟩
/-- NET_TIME_STATUS (18 R496). -/
def NET_TIME_STATUS : Reg := ⟨0x5012000010, 4, 0xff0003⟩
def NET_TIME_STATUS.SLAVE_PORT : Fld := ⟨23, 16⟩
def NET_TIME_STATUS.GRANDMASTER : Fld := ⟨8, 8⟩
def NET_TIME_STATUS.QUALITY : Fld := ⟨7, 0⟩
/-- NET_RATE (18 R496). -/
def NET_RATE : Reg := ⟨0x5012000014, 4, 0x0⟩
def NET_RATE.PPB : Fld := ⟨31, 0⟩
/-- NET_OFFSET (18 R496). -/
def NET_OFFSET : Reg := ⟨0x5012000018, 4, 0x0⟩
def NET_OFFSET.NS : Fld := ⟨31, 0⟩
/-- NET_HOLDOVER (18 R496). -/
def NET_HOLDOVER : Reg := ⟨0x501200001c, 4, 0x0⟩
def NET_HOLDOVER.MS : Fld := ⟨31, 0⟩
/-- NET_GM_ID (18 R496). -/
def NET_GM_ID : Reg := ⟨0x5012000020, 8, 0x0⟩
def NET_GM_ID.ID : Fld := ⟨63, 0⟩
/-- NET_PORT_STATUS (18 R496). -/
def NET_PORT_STATUS (p : Nat) : Reg := ⟨0x5012001000 + 0x100 * p, 4, 0x0⟩
def NET_PORT_STATUS.MBPS : Fld := ⟨31, 16⟩
def NET_PORT_STATUS.PTP_STATE : Fld := ⟨15, 8⟩
def NET_PORT_STATUS.MACSEC : Fld := ⟨1, 1⟩
def NET_PORT_STATUS.UP : Fld := ⟨0, 0⟩
/-- NET_ASYM_IN (18 R496). -/
def NET_ASYM_IN (p : Nat) : Reg := ⟨0x5012001004 + 0x100 * p, 4, 0x0⟩
def NET_ASYM_IN.PS : Fld := ⟨31, 0⟩
/-- NET_ASYM_OUT (18 R496). -/
def NET_ASYM_OUT (p : Nat) : Reg := ⟨0x5012001008 + 0x100 * p, 4, 0x0⟩
def NET_ASYM_OUT.PS : Fld := ⟨31, 0⟩
/-- NET_PDELAY (18 R496). -/
def NET_PDELAY (p : Nat) : Reg := ⟨0x501200100c + 0x100 * p, 4, 0x0⟩
def NET_PDELAY.NS : Fld := ⟨31, 0⟩
/-- NET_RX_FRAMES (18 R496). -/
def NET_RX_FRAMES (p : Nat) : Reg := ⟨0x5012001010 + 0x100 * p, 8, 0x0⟩
def NET_RX_FRAMES.COUNT : Fld := ⟨63, 0⟩
/-- NET_TX_FRAMES (18 R496). -/
def NET_TX_FRAMES (p : Nat) : Reg := ⟨0x5012001018 + 0x100 * p, 8, 0x0⟩
def NET_TX_FRAMES.COUNT : Fld := ⟨63, 0⟩
/-- NET_DROPS (18 R496). -/
def NET_DROPS (p : Nat) : Reg := ⟨0x5012001020 + 0x100 * p, 8, 0x0⟩
def NET_DROPS.COUNT : Fld := ⟨63, 0⟩
/-- NET_MACSEC_ERR (18 R496). -/
def NET_MACSEC_ERR (p : Nat) : Reg := ⟨0x5012001028 + 0x100 * p, 8, 0x0⟩
def NET_MACSEC_ERR.COUNT : Fld := ⟨63, 0⟩
/-- NET_FRER_DISCARDS (18 R496). -/
def NET_FRER_DISCARDS : Reg := ⟨0x5012001800, 8, 0x0⟩
def NET_FRER_DISCARDS.COUNT : Fld := ⟨63, 0⟩
/-- NET_FRER_ROGUE (18 R496). -/
def NET_FRER_ROGUE : Reg := ⟨0x5012001808, 8, 0x0⟩
def NET_FRER_ROGUE.COUNT : Fld := ⟨63, 0⟩
/-- NET_DMA_RING (18 R496). -/
def NET_DMA_RING (r : Nat) : Reg := ⟨0x5012002000 + 0x20 * r, 8, 0x4⟩
def NET_DMA_RING.BASE : Fld := ⟨47, 12⟩
def NET_DMA_RING.EN : Fld := ⟨8, 8⟩
def NET_DMA_RING.LOG2 : Fld := ⟨3, 0⟩
/-- NET_DMA_TAIL (18 R496). -/
def NET_DMA_TAIL (r : Nat) : Reg := ⟨0x5012002008 + 0x20 * r, 4, 0x0⟩
def NET_DMA_TAIL.TAIL : Fld := ⟨31, 0⟩
/-- NET_DMA_HEAD (18 R496). -/
def NET_DMA_HEAD (r : Nat) : Reg := ⟨0x501200200c + 0x20 * r, 4, 0x0⟩
def NET_DMA_HEAD.HEAD : Fld := ⟨31, 0⟩
/-- NET_DMA_OBJ (18 R496). -/
def NET_DMA_OBJ (r : Nat) : Reg := ⟨0x5012002010 + 0x20 * r, 4, 0x0⟩
def NET_DMA_OBJ.SIGNAL_OBJ : Fld := ⟨15, 0⟩
/-- CAN_CTRL (18 R497). -/
def CAN_CTRL (c : Nat) : Reg := ⟨0x5013000000 + 0x100 * c, 4, 0x8⟩
def CAN_CTRL.RX_UNMATCHED : Fld := ⟨3, 3⟩
def CAN_CTRL.MODE : Fld := ⟨2, 1⟩
def CAN_CTRL.EN : Fld := ⟨0, 0⟩
/-- CAN_NBT (18 R497). -/
def CAN_NBT (c : Nat) : Reg := ⟨0x5013000004 + 0x100 * c, 4, 0x0⟩
def CAN_NBT.BRP : Fld := ⟨31, 23⟩
def CAN_NBT.TSEG1 : Fld := ⟨22, 15⟩
def CAN_NBT.TSEG2 : Fld := ⟨14, 8⟩
def CAN_NBT.SJW : Fld := ⟨7, 0⟩
/-- CAN_DBT (18 R497). -/
def CAN_DBT (c : Nat) : Reg := ⟨0x5013000008 + 0x100 * c, 4, 0x0⟩
def CAN_DBT.BRP : Fld := ⟨31, 23⟩
def CAN_DBT.TSEG1 : Fld := ⟨22, 15⟩
def CAN_DBT.TSEG2 : Fld := ⟨14, 8⟩
def CAN_DBT.SJW : Fld := ⟨7, 0⟩
/-- CAN_STATUS (18 R497). -/
def CAN_STATUS (c : Nat) : Reg := ⟨0x501300000c + 0x100 * c, 4, 0x0⟩
def CAN_STATUS.TEC : Fld := ⟨31, 24⟩
def CAN_STATUS.REC : Fld := ⟨23, 16⟩
def CAN_STATUS.STATE : Fld := ⟨1, 0⟩
/-- CAN_RX_BASE_LO (18 R497). -/
def CAN_RX_BASE_LO (c : Nat) : Reg := ⟨0x5013000010 + 0x100 * c, 4, 0x0⟩
def CAN_RX_BASE_LO.ADDR : Fld := ⟨31, 0⟩
/-- CAN_RX_BASE_HI (18 R497). -/
def CAN_RX_BASE_HI (c : Nat) : Reg := ⟨0x5013000014 + 0x100 * c, 4, 0x40000⟩
def CAN_RX_BASE_HI.LOG2 : Fld := ⟨19, 16⟩
def CAN_RX_BASE_HI.ADDR : Fld := ⟨15, 0⟩
/-- CAN_RX_PROD (18 R497). -/
def CAN_RX_PROD (c : Nat) : Reg := ⟨0x5013000018 + 0x100 * c, 4, 0x0⟩
def CAN_RX_PROD.INDEX : Fld := ⟨31, 0⟩
/-- CAN_RX_HEAD (18 R497). -/
def CAN_RX_HEAD (c : Nat) : Reg := ⟨0x501300001c + 0x100 * c, 4, 0x0⟩
def CAN_RX_HEAD.INDEX : Fld := ⟨31, 0⟩
/-- CAN_TX_TAIL (18 R497). -/
def CAN_TX_TAIL (c : Nat) : Reg := ⟨0x5013000020 + 0x100 * c, 4, 0x0⟩
def CAN_TX_TAIL.OFFSET : Fld := ⟨31, 0⟩
/-- CAN_TX_HEAD (18 R497). -/
def CAN_TX_HEAD (c : Nat) : Reg := ⟨0x5013000024 + 0x100 * c, 4, 0x0⟩
def CAN_TX_HEAD.OFFSET : Fld := ⟨31, 0⟩
/-- CAN_WAKE_ID (18 R497). -/
def CAN_WAKE_ID (c : Nat) : Reg := ⟨0x5013000028 + 0x100 * c, 4, 0x0⟩
def CAN_WAKE_ID.ID : Fld := ⟨31, 0⟩
/-- CAN_WAKE_MASK (18 R497). -/
def CAN_WAKE_MASK (c : Nat) : Reg := ⟨0x501300002c + 0x100 * c, 4, 0x0⟩
def CAN_WAKE_MASK.MASK : Fld := ⟨31, 0⟩
/-- CAN_RX_DROPS (18 R497). -/
def CAN_RX_DROPS (c : Nat) : Reg := ⟨0x5013000030 + 0x100 * c, 4, 0x0⟩
def CAN_RX_DROPS.COUNT : Fld := ⟨31, 0⟩
/-- CAN_ROUTE_SKIPS (18 R497). -/
def CAN_ROUTE_SKIPS (c : Nat) : Reg := ⟨0x5013000034 + 0x100 * c, 4, 0x0⟩
def CAN_ROUTE_SKIPS.COUNT : Fld := ⟨31, 0⟩
/-- CAN_GW_DROPS (18 R497). -/
def CAN_GW_DROPS (c : Nat) : Reg := ⟨0x5013000038 + 0x100 * c, 4, 0x0⟩
def CAN_GW_DROPS.COUNT : Fld := ⟨31, 0⟩
/-- GPIO_DIR_LO (19 R509). -/
def GPIO_DIR_LO : Reg := ⟨0x50f0010000, 4, 0x0⟩
def GPIO_DIR_LO.DIR : Fld := ⟨31, 0⟩
/-- GPIO_DIR_HI (19 R509). -/
def GPIO_DIR_HI : Reg := ⟨0x50f0010004, 4, 0x0⟩
def GPIO_DIR_HI.DIR : Fld := ⟨15, 0⟩
/-- GPIO_OUT_LO (19 R509). -/
def GPIO_OUT_LO : Reg := ⟨0x50f0010008, 4, 0x0⟩
def GPIO_OUT_LO.OUT : Fld := ⟨31, 0⟩
/-- GPIO_OUT_HI (19 R509). -/
def GPIO_OUT_HI : Reg := ⟨0x50f001000c, 4, 0x0⟩
def GPIO_OUT_HI.OUT : Fld := ⟨15, 0⟩
/-- GPIO_IN_LO (19 R509). -/
def GPIO_IN_LO : Reg := ⟨0x50f0010010, 4, 0x0⟩
def GPIO_IN_LO.IN : Fld := ⟨31, 0⟩
/-- GPIO_IN_HI (19 R509). -/
def GPIO_IN_HI : Reg := ⟨0x50f0010014, 4, 0x0⟩
def GPIO_IN_HI.IN : Fld := ⟨15, 0⟩
/-- ACC_DENY_COUNT (02 R40). -/
def ACC_DENY_COUNT : Reg := ⟨0x5014043000, 4, 0⟩
def ACC_DENY_COUNT.COUNT : Fld := ⟨31, 0⟩
/-- TILE_CODE_MAP (14 R366). -/
def TILE_CODE_MAP (n : Nat) : Reg := ⟨0x5003000070 + 0x10000 * n, 4, 0⟩
def TILE_CODE_MAP.MAP : Fld := ⟨11, 0⟩

/-- ACC context registers. -/
def regTable0_0 : List RegSpec := [
  ⟨"ACC_MST_CTX", 0x5014040000, [(256, 0x4)], 4, 0x0,
    [⟨ACC_MST_CTX.SLICE_TAG, .rw⟩]⟩,
  ⟨"ACC_MST_CLASS", 0x5014041000, [(256, 0x10), (4, 0x4)], 4, 0xffffffff,
    [⟨ACC_MST_CLASS.CLASS, .rw⟩]⟩,
  ⟨"ACC_PASID_MAP", 0x5014042000, [(64, 0x4)], 4, 0x0,
    [⟨ACC_PASID_MAP.VALID, .rw⟩, ⟨ACC_PASID_MAP.PASID, .rw⟩]⟩]

/-- ACC target table registers, target t at ACC block offset t × 0x1000. -/
def regTable1_0 : List RegSpec := [
  ⟨"ACC_WIN_BASE", 0x5014000000, [(64, 0x1000), (8, 0x10)], 8, 0x0,
    [⟨ACC_WIN_BASE.BASE, .rw⟩, ⟨ACC_WIN_BASE.EN, .rw⟩]⟩,
  ⟨"ACC_WIN_LIMIT", 0x5014000008, [(64, 0x1000), (8, 0x10)], 8, 0x0,
    [⟨ACC_WIN_LIMIT.LIMIT, .rw⟩]⟩,
  ⟨"ACC_ENTRY", 0x5014000200, [(64, 0x1000), (128, 0x4)], 4, 0x0,
    [⟨ACC_ENTRY.ENTRY_HI, .rw⟩, ⟨ACC_ENTRY.ENTRY_LO, .rw⟩]⟩]

/-- Ring registers, ring r at doorbell page offset 0x400 × r. -/
def regTable2_0 : List RegSpec := [
  ⟨"SQ_BASE", 0x6000000000, [(64, 0x10000), (16, 0x400)], 8, 0x0,
    [⟨SQ_BASE.BASE, .rw⟩]⟩,
  ⟨"SQ_CTRL", 0x6000000008, [(64, 0x10000), (16, 0x400)], 4, 0x4,
    [⟨SQ_CTRL.ENABLE, .rw⟩, ⟨SQ_CTRL.LOG2_SLOTS, .rw⟩]⟩,
  ⟨"SQ_TAIL", 0x600000000c, [(64, 0x10000), (16, 0x400)], 4, 0x0,
    [⟨SQ_TAIL.TAIL, .wo⟩]⟩,
  ⟨"SQ_HEAD", 0x6000000010, [(64, 0x10000), (16, 0x400)], 4, 0x0,
    [⟨SQ_HEAD.HEAD, .ro⟩]⟩,
  ⟨"RING_STATUS", 0x6000000014, [(64, 0x10000), (16, 0x400)], 4, 0x0,
    [⟨RING_STATUS.ERR_CAUSE, .ro⟩, ⟨RING_STATUS.WAIT_CAUSE, .ro⟩, ⟨RING_STATUS.STATE, .ro⟩]⟩,
  ⟨"CQ_BASE", 0x6000000018, [(64, 0x10000), (16, 0x400)], 8, 0x0,
    [⟨CQ_BASE.BASE, .rw⟩]⟩,
  ⟨"CQ_CTRL", 0x6000000020, [(64, 0x10000), (16, 0x400)], 4, 0x4,
    [⟨CQ_CTRL.LOG2_SLOTS, .rw⟩]⟩,
  ⟨"CQ_TAIL", 0x6000000024, [(64, 0x10000), (16, 0x400)], 4, 0x0,
    [⟨CQ_TAIL.TAIL, .ro⟩]⟩,
  ⟨"CQ_HEAD", 0x6000000028, [(64, 0x10000), (16, 0x400)], 4, 0x0,
    [⟨CQ_HEAD.HEAD, .rw⟩]⟩,
  ⟨"CQ_WB", 0x6000000030, [(64, 0x10000), (16, 0x400)], 8, 0x0,
    [⟨CQ_WB.ADDR, .rw⟩, ⟨CQ_WB.EN, .rw⟩]⟩,
  ⟨"MSI_ADDR", 0x6000000038, [(64, 0x10000), (16, 0x400)], 8, 0x0,
    [⟨MSI_ADDR.ADDR, .rw⟩, ⟨MSI_ADDR.EN, .rw⟩]⟩,
  ⟨"MSI_DATA", 0x6000000040, [(64, 0x10000), (16, 0x400)], 4, 0x0,
    [⟨MSI_DATA.DATA, .rw⟩]⟩]

/-- Event ring and slice registers. -/
def regTable3_0 : List RegSpec := [
  ⟨"EQ_BASE", 0x6000004000, [(64, 0x10000)], 8, 0x0,
    [⟨EQ_BASE.BASE, .rw⟩]⟩,
  ⟨"EQ_CTRL", 0x6000004008, [(64, 0x10000)], 4, 0x4,
    [⟨EQ_CTRL.ENABLE, .rw⟩, ⟨EQ_CTRL.LOG2_SLOTS, .rw⟩]⟩,
  ⟨"EQ_TAIL", 0x600000400c, [(64, 0x10000)], 4, 0x0,
    [⟨EQ_TAIL.TAIL, .ro⟩]⟩,
  ⟨"EQ_HEAD", 0x6000004010, [(64, 0x10000)], 4, 0x0,
    [⟨EQ_HEAD.HEAD, .rw⟩]⟩,
  ⟨"EQ_LOST", 0x6000004014, [(64, 0x10000)], 4, 0x0,
    [⟨EQ_LOST.COUNT, .ro⟩]⟩,
  ⟨"EQ_LOST_FIRST", 0x6000004018, [(64, 0x10000)], 8, 0x0,
    [⟨EQ_LOST_FIRST.TIME, .ro⟩]⟩,
  ⟨"EQ_LOST_LAST", 0x6000004020, [(64, 0x10000)], 8, 0x0,
    [⟨EQ_LOST_LAST.TIME, .ro⟩]⟩,
  ⟨"EQ_MSI_ADDR", 0x6000004028, [(64, 0x10000)], 8, 0x0,
    [⟨EQ_MSI_ADDR.ADDR, .rw⟩, ⟨EQ_MSI_ADDR.EN, .rw⟩]⟩,
  ⟨"EQ_MSI_DATA", 0x6000004030, [(64, 0x10000)], 4, 0x0,
    [⟨EQ_MSI_DATA.DATA, .rw⟩]⟩,
  ⟨"SLICE_INFO", 0x6000004800, [(64, 0x10000)], 4, 0x0,
    [⟨SLICE_INFO.RINGS, .ro⟩, ⟨SLICE_INFO.CEILING, .ro⟩, ⟨SLICE_INFO.SLICE, .ro⟩]⟩,
  ⟨"SLICE_SYNC", 0x6000004804, [(64, 0x10000)], 4, 0x0,
    [⟨SLICE_SYNC.SYNC_COUNT, .ro⟩, ⟨SLICE_SYNC.SYNC_BASE, .ro⟩]⟩,
  ⟨"SLICE_PASID", 0x6000004808, [(64, 0x10000)], 4, 0x0,
    [⟨SLICE_PASID.PASID, .ro⟩]⟩]

/-- Tile group registers, group g at GRP block offset g × 0x0001_0000. -/
def regTable4_0 : List RegSpec := [
  ⟨"GRP_INFO", 0x5002000000, [(12, 0x10000)], 4, 0x0,
    [⟨GRP_INFO.FIRST_TILE, .ro⟩, ⟨GRP_INFO.GROUP, .ro⟩]⟩,
  ⟨"GRP_STATE", 0x5002000008, [(12, 0x10000)], 4, 0x0,
    [⟨GRP_STATE.TILE_BUSY, .ro⟩, ⟨GRP_STATE.OPP, .ro⟩, ⟨GRP_STATE.PSTATE, .ro⟩]⟩,
  ⟨"GRP_OPP_CAP", 0x5002000010, [(12, 0x10000)], 4, 0x0,
    [⟨GRP_OPP_CAP.CAP, .rw⟩]⟩,
  ⟨"GRP_TILE_SLICE_0", 0x5002000018, [(12, 0x10000)], 8, 0x0,
    [⟨GRP_TILE_SLICE_0.SLICE, .ro⟩]⟩,
  ⟨"GRP_TILE_SLICE_1", 0x5002000020, [(12, 0x10000)], 8, 0x0,
    [⟨GRP_TILE_SLICE_1.SLICE, .ro⟩]⟩,
  ⟨"GRP_RUN_CYCLES", 0x5002000028, [(12, 0x10000)], 8, 0x0,
    [⟨GRP_RUN_CYCLES.COUNT, .ro⟩]⟩,
  ⟨"GRP_WAKES", 0x5002000030, [(12, 0x10000)], 8, 0x0,
    [⟨GRP_WAKES.COUNT, .ro⟩]⟩,
  ⟨"GRP_CNT_CTRL", 0x5002000038, [(12, 0x10000)], 4, 0x0,
    [⟨GRP_CNT_CTRL.CLR, .w1s⟩]⟩]

/-- Tile registers, tile n at TILE block offset n × 0x0001_0000. -/
def regTable5_0 : List RegSpec := [
  ⟨"TILE_INFO", 0x5003000000, [(192, 0x10000)], 4, 0x0,
    [⟨TILE_INFO.GROUP, .ro⟩, ⟨TILE_INFO.LOCAL, .ro⟩, ⟨TILE_INFO.TILE, .ro⟩]⟩,
  ⟨"TILE_STATUS", 0x5003000008, [(192, 0x10000)], 4, 0x7,
    [⟨TILE_STATUS.HELD, .ro⟩, ⟨TILE_STATUS.SLICE, .ro⟩, ⟨TILE_STATUS.FAULT, .ro⟩, ⟨TILE_STATUS.NAN_SEEN, .w1c⟩, ⟨TILE_STATUS.SAT, .w1c⟩, ⟨TILE_STATUS.STATE, .ro⟩]⟩,
  ⟨"TILE_FAULT_PC", 0x500300000c, [(192, 0x10000)], 4, 0x0,
    [⟨TILE_FAULT_PC.INDEX, .ro⟩]⟩,
  ⟨"TILE_LFSR", 0x5003000010, [(192, 0x10000)], 4, 0x1,
    [⟨TILE_LFSR.STATE, .rw⟩]⟩,
  ⟨"TILE_HANG_LIMIT", 0x5003000014, [(192, 0x10000)], 4, 0x1000000,
    [⟨TILE_HANG_LIMIT.CLOCKS, .rw⟩]⟩,
  ⟨"TILE_CNT_CTRL", 0x5003000018, [(192, 0x10000)], 4, 0x0,
    [⟨TILE_CNT_CTRL.FREEZE, .rw⟩, ⟨TILE_CNT_CTRL.CLR, .w1s⟩]⟩,
  ⟨"TILE_CYCLES", 0x5003000020, [(192, 0x10000)], 8, 0x0,
    [⟨TILE_CYCLES.COUNT, .ro⟩]⟩,
  ⟨"TILE_ARRAY_BUSY", 0x5003000028, [(192, 0x10000)], 8, 0x0,
    [⟨TILE_ARRAY_BUSY.COUNT, .ro⟩]⟩,
  ⟨"TILE_MAC_STEPS", 0x5003000030, [(192, 0x10000)], 8, 0x0,
    [⟨TILE_MAC_STEPS.COUNT, .ro⟩]⟩,
  ⟨"TILE_SKIP_A", 0x5003000038, [(192, 0x10000)], 8, 0x0,
    [⟨TILE_SKIP_A.COUNT, .ro⟩]⟩,
  ⟨"TILE_SKIP_B", 0x5003000040, [(192, 0x10000)], 8, 0x0,
    [⟨TILE_SKIP_B.COUNT, .ro⟩]⟩,
  ⟨"TILE_VEC_ISSUE", 0x5003000048, [(192, 0x10000)], 8, 0x0,
    [⟨TILE_VEC_ISSUE.COUNT, .ro⟩]⟩,
  ⟨"TILE_SB_STALL", 0x5003000050, [(192, 0x10000)], 8, 0x0,
    [⟨TILE_SB_STALL.COUNT, .ro⟩]⟩,
  ⟨"TILE_IBUF_STALL", 0x5003000058, [(192, 0x10000)], 8, 0x0,
    [⟨TILE_IBUF_STALL.COUNT, .ro⟩]⟩,
  ⟨"TILE_BANK_CONFLICT", 0x5003000060, [(192, 0x10000)], 8, 0x0,
    [⟨TILE_BANK_CONFLICT.COUNT, .ro⟩]⟩,
  ⟨"TILE_SAT_COUNT", 0x5003000068, [(192, 0x10000)], 8, 0x0,
    [⟨TILE_SAT_COUNT.COUNT, .ro⟩]⟩]

/-- Rill registers, Rill r of tile n at RILL block offset n × 0x0001_0000 + r × 0x0400. -/
def regTable6_0 : List RegSpec := [
  ⟨"RILL_LIST", 0x5004000000, [(192, 0x10000), (4, 0x400)], 4, 0x0,
    [⟨RILL_LIST.BASE, .ro⟩]⟩,
  ⟨"RILL_STATUS", 0x5004000008, [(192, 0x10000), (4, 0x400)], 4, 0x0,
    [⟨RILL_STATUS.CAUSE, .ro⟩, ⟨RILL_STATUS.POOL_LINES, .ro⟩, ⟨RILL_STATUS.DESC, .ro⟩, ⟨RILL_STATUS.STATE, .ro⟩]⟩,
  ⟨"RILL_OUTST", 0x500400000c, [(192, 0x10000), (4, 0x400)], 4, 0x0,
    [⟨RILL_OUTST.COUNT, .ro⟩]⟩,
  ⟨"RILL_LINES", 0x5004000020, [(192, 0x10000), (4, 0x400)], 8, 0x0,
    [⟨RILL_LINES.COUNT, .ro⟩]⟩,
  ⟨"RILL_COALESCED", 0x5004000028, [(192, 0x10000), (4, 0x400)], 8, 0x0,
    [⟨RILL_COALESCED.COUNT, .ro⟩]⟩,
  ⟨"RILL_DELIVERIES", 0x5004000030, [(192, 0x10000), (4, 0x400)], 8, 0x0,
    [⟨RILL_DELIVERIES.COUNT, .ro⟩]⟩,
  ⟨"RILL_STALL_CREDIT", 0x5004000038, [(192, 0x10000), (4, 0x400)], 8, 0x0,
    [⟨RILL_STALL_CREDIT.COUNT, .ro⟩]⟩,
  ⟨"RILL_STALL_OUTST", 0x5004000040, [(192, 0x10000), (4, 0x400)], 8, 0x0,
    [⟨RILL_STALL_OUTST.COUNT, .ro⟩]⟩,
  ⟨"RILL_STALL_MEM", 0x5004000048, [(192, 0x10000), (4, 0x400)], 8, 0x0,
    [⟨RILL_STALL_MEM.COUNT, .ro⟩]⟩,
  ⟨"RILL_STALL_IDX", 0x5004000050, [(192, 0x10000), (4, 0x400)], 8, 0x0,
    [⟨RILL_STALL_IDX.COUNT, .ro⟩]⟩,
  ⟨"RILL_STALL_START", 0x5004000058, [(192, 0x10000), (4, 0x400)], 8, 0x0,
    [⟨RILL_STALL_START.COUNT, .ro⟩]⟩,
  ⟨"RILL_OOB", 0x5004000060, [(192, 0x10000), (4, 0x400)], 8, 0x0,
    [⟨RILL_OOB.COUNT, .ro⟩]⟩,
  ⟨"RILL_TRUNC", 0x5004000068, [(192, 0x10000), (4, 0x400)], 8, 0x0,
    [⟨RILL_TRUNC.COUNT, .ro⟩]⟩,
  ⟨"RILL_PROBES", 0x5004000070, [(192, 0x10000), (4, 0x400)], 8, 0x0,
    [⟨RILL_PROBES.COUNT, .ro⟩]⟩,
  ⟨"RILL_MISS", 0x5004000078, [(192, 0x10000), (4, 0x400)], 8, 0x0,
    [⟨RILL_MISS.COUNT, .ro⟩]⟩,
  ⟨"RILL_TQ_DEPTH", 0x5004001000, [(192, 0x10000)], 4, 0x0,
    [⟨RILL_TQ_DEPTH.COUNT, .ro⟩]⟩,
  ⟨"RILL_TQ_MAX", 0x5004001004, [(192, 0x10000)], 4, 0x0,
    [⟨RILL_TQ_MAX.COUNT, .rc⟩]⟩]

/-- Direct engine and Nougat registers, group g at DCE or NGT block offset g × 0x0001_0000. -/
def regTable7_0 : List RegSpec := [
  ⟨"DCE_STATUS", 0x5006000000, [(12, 0x10000)], 4, 0x0,
    [⟨DCE_STATUS.CAUSE, .ro⟩, ⟨DCE_STATUS.DESC, .ro⟩, ⟨DCE_STATUS.STATE, .ro⟩]⟩,
  ⟨"DCE_LIST", 0x5006000008, [(12, 0x10000)], 8, 0x0,
    [⟨DCE_LIST.BASE, .ro⟩]⟩,
  ⟨"DCE_LFSR", 0x5006000010, [(12, 0x10000)], 4, 0x1,
    [⟨DCE_LFSR.STATE, .rw⟩]⟩,
  ⟨"DCE_CNT_CTRL", 0x5006000018, [(12, 0x10000)], 4, 0x0,
    [⟨DCE_CNT_CTRL.FREEZE, .rw⟩, ⟨DCE_CNT_CTRL.CLR, .w1s⟩]⟩,
  ⟨"DCE_BUSY", 0x5006000020, [(12, 0x10000)], 8, 0x0,
    [⟨DCE_BUSY.COUNT, .ro⟩]⟩,
  ⟨"DCE_MACS", 0x5006000028, [(12, 0x10000)], 8, 0x0,
    [⟨DCE_MACS.COUNT, .ro⟩]⟩,
  ⟨"DCE_DESC_DONE", 0x5006000030, [(12, 0x10000)], 8, 0x0,
    [⟨DCE_DESC_DONE.COUNT, .ro⟩]⟩,
  ⟨"DCE_ROWS_SKIPPED", 0x5006000038, [(12, 0x10000)], 8, 0x0,
    [⟨DCE_ROWS_SKIPPED.COUNT, .ro⟩]⟩,
  ⟨"DCE_PAD_SAMPLES", 0x5006000040, [(12, 0x10000)], 8, 0x0,
    [⟨DCE_PAD_SAMPLES.COUNT, .ro⟩]⟩,
  ⟨"DCE_SEGMENTS", 0x5006000048, [(12, 0x10000)], 8, 0x0,
    [⟨DCE_SEGMENTS.COUNT, .ro⟩]⟩,
  ⟨"DCE_CURSOR", 0x5006000050, [(12, 0x10000)], 8, 0x0,
    [⟨DCE_CURSOR.ROW, .ro⟩, ⟨DCE_CURSOR.SEG, .ro⟩, ⟨DCE_CURSOR.DESC, .ro⟩]⟩]

/-- Direct engine and Nougat registers, group g at DCE or NGT block offset g × 0x0001_0000 (Nougat copy). -/
def regTable8_0 : List RegSpec := [
  ⟨"NGT_STATUS", 0x5005000000, [(12, 0x10000)], 4, 0x0,
    [⟨NGT_STATUS.CAUSE, .ro⟩, ⟨NGT_STATUS.DESC, .ro⟩, ⟨NGT_STATUS.STATE, .ro⟩]⟩,
  ⟨"NGT_LIST", 0x5005000008, [(12, 0x10000)], 8, 0x0,
    [⟨NGT_LIST.BASE, .ro⟩]⟩,
  ⟨"NGT_LFSR", 0x5005000010, [(12, 0x10000)], 4, 0x1,
    [⟨NGT_LFSR.STATE, .rw⟩]⟩,
  ⟨"NGT_CNT_CTRL", 0x5005000018, [(12, 0x10000)], 4, 0x0,
    [⟨NGT_CNT_CTRL.FREEZE, .rw⟩, ⟨NGT_CNT_CTRL.CLR, .w1s⟩]⟩,
  ⟨"NGT_BUSY", 0x5005000020, [(12, 0x10000)], 8, 0x0,
    [⟨NGT_BUSY.COUNT, .ro⟩]⟩,
  ⟨"NGT_MACS", 0x5005000028, [(12, 0x10000)], 8, 0x0,
    [⟨NGT_MACS.COUNT, .ro⟩]⟩,
  ⟨"NGT_DESC_DONE", 0x5005000030, [(12, 0x10000)], 8, 0x0,
    [⟨NGT_DESC_DONE.COUNT, .ro⟩]⟩,
  ⟨"NGT_ROWS_SKIPPED", 0x5005000038, [(12, 0x10000)], 8, 0x0,
    [⟨NGT_ROWS_SKIPPED.COUNT, .ro⟩]⟩,
  ⟨"NGT_PAD_SAMPLES", 0x5005000040, [(12, 0x10000)], 8, 0x0,
    [⟨NGT_PAD_SAMPLES.COUNT, .ro⟩]⟩,
  ⟨"NGT_SEGMENTS", 0x5005000048, [(12, 0x10000)], 8, 0x0,
    [⟨NGT_SEGMENTS.COUNT, .ro⟩]⟩,
  ⟨"NGT_CURSOR", 0x5005000050, [(12, 0x10000)], 8, 0x0,
    [⟨NGT_CURSOR.ROW, .ro⟩, ⟨NGT_CURSOR.SEG, .ro⟩, ⟨NGT_CURSOR.DESC, .ro⟩]⟩,
  ⟨"NGT_SAT", 0x5005000058, [(12, 0x10000)], 8, 0x0,
    [⟨NGT_SAT.COUNT, .ro⟩]⟩]

/-- Crop-and-resize registers, group g at GRP block offset g × 0x0001_0000. -/
def regTable9_0 : List RegSpec := [
  ⟨"GRP_CRU_STATUS", 0x5002000100, [(12, 0x10000)], 4, 0x0,
    [⟨GRP_CRU_STATUS.CAUSE, .ro⟩, ⟨GRP_CRU_STATUS.DESC, .ro⟩, ⟨GRP_CRU_STATUS.STATE, .ro⟩]⟩,
  ⟨"GRP_CRU_LIST", 0x5002000108, [(12, 0x10000)], 8, 0x0,
    [⟨GRP_CRU_LIST.BASE, .ro⟩]⟩,
  ⟨"GRP_CRU_LFSR", 0x5002000110, [(12, 0x10000)], 4, 0x1,
    [⟨GRP_CRU_LFSR.STATE, .ro⟩]⟩,
  ⟨"GRP_CRU_CNT_CTRL", 0x5002000118, [(12, 0x10000)], 4, 0x0,
    [⟨GRP_CRU_CNT_CTRL.FREEZE, .rw⟩, ⟨GRP_CRU_CNT_CTRL.CLR, .w1s⟩]⟩,
  ⟨"GRP_CRU_BUSY", 0x5002000120, [(12, 0x10000)], 8, 0x0,
    [⟨GRP_CRU_BUSY.COUNT, .ro⟩]⟩,
  ⟨"GRP_CRU_BOXES", 0x5002000128, [(12, 0x10000)], 8, 0x0,
    [⟨GRP_CRU_BOXES.COUNT, .ro⟩]⟩,
  ⟨"GRP_CRU_OUTSIDE", 0x5002000130, [(12, 0x10000)], 8, 0x0,
    [⟨GRP_CRU_OUTSIDE.COUNT, .ro⟩]⟩,
  ⟨"GRP_CRU_NAN", 0x5002000138, [(12, 0x10000)], 8, 0x0,
    [⟨GRP_CRU_NAN.COUNT, .ro⟩]⟩,
  ⟨"GRP_CRU_TRUNC", 0x5002000140, [(12, 0x10000)], 8, 0x0,
    [⟨GRP_CRU_TRUNC.COUNT, .ro⟩]⟩,
  ⟨"GRP_CRU_CURSOR", 0x5002000148, [(12, 0x10000)], 8, 0x0,
    [⟨GRP_CRU_CURSOR.BOX, .ro⟩, ⟨GRP_CRU_CURSOR.DESC, .ro⟩]⟩]

/-- Group scheduler registers, group g at GRP block offset g × 0x0001_0000. -/
def regTable10_0 : List RegSpec := [
  ⟨"GRP_SCHED_CTRL", 0x5002000200, [(12, 0x10000)], 4, 0x640000,
    [⟨GRP_SCHED_CTRL.PREEMPT_LEAD, .rw⟩, ⟨GRP_SCHED_CTRL.CLR, .w1s⟩]⟩,
  ⟨"GRP_QUEUE", 0x5002000204, [(12, 0x10000)], 4, 0x0,
    [⟨GRP_QUEUE.MAX, .rc⟩, ⟨GRP_QUEUE.DEPTH, .ro⟩]⟩,
  ⟨"GRP_DISPATCHES", 0x5002000210, [(12, 0x10000)], 8, 0x0,
    [⟨GRP_DISPATCHES.COUNT, .ro⟩]⟩,
  ⟨"GRP_PREEMPTS", 0x5002000218, [(12, 0x10000)], 8, 0x0,
    [⟨GRP_PREEMPTS.COUNT, .ro⟩]⟩,
  ⟨"GRP_SAVE_BYTES", 0x5002000220, [(12, 0x10000)], 8, 0x0,
    [⟨GRP_SAVE_BYTES.COUNT, .ro⟩]⟩,
  ⟨"GRP_RESTORE_BYTES", 0x5002000228, [(12, 0x10000)], 8, 0x0,
    [⟨GRP_RESTORE_BYTES.COUNT, .ro⟩]⟩,
  ⟨"GRP_LATE", 0x5002000230, [(12, 0x10000)], 8, 0x0,
    [⟨GRP_LATE.COUNT, .ro⟩]⟩,
  ⟨"GRP_BUDGET_DENIED", 0x5002000238, [(12, 0x10000)], 8, 0x0,
    [⟨GRP_BUDGET_DENIED.COUNT, .ro⟩]⟩]

/-- Model cache registers. -/
def regTable11_0 : List RegSpec := [
  ⟨"MC_SLICE_SEG", 0x5007001000, [(64, 0x8)], 8, 0x0,
    [⟨MC_SLICE_SEG.PINNED, .ro⟩, ⟨MC_SLICE_SEG.USED, .ro⟩, ⟨MC_SLICE_SEG.SHARE, .ro⟩]⟩,
  ⟨"MC_LOADS", 0x5007002000, [], 8, 0x0,
    [⟨MC_LOADS.COUNT, .ro⟩]⟩,
  ⟨"MC_EVICTIONS", 0x5007002008, [], 8, 0x0,
    [⟨MC_EVICTIONS.COUNT, .ro⟩]⟩,
  ⟨"MC_STREAMED_JOBS", 0x5007002010, [], 8, 0x0,
    [⟨MC_STREAMED_JOBS.COUNT, .ro⟩]⟩]

/-- Confluence registers. -/
def regTable12_0 : List RegSpec := [
  ⟨"CFL_TRIG_CTRL", 0x500a001000, [(16, 0x40)], 4, 0x0,
    [⟨CFL_TRIG_CTRL.ARM_ERR, .w1c⟩, ⟨CFL_TRIG_CTRL.POL, .rw⟩, ⟨CFL_TRIG_CTRL.OUT_EN, .rw⟩, ⟨CFL_TRIG_CTRL.EN, .rw⟩]⟩,
  ⟨"CFL_TRIG_PERIOD", 0x500a001004, [(16, 0x40)], 4, 0x0,
    [⟨CFL_TRIG_PERIOD.PERIOD, .rw⟩]⟩,
  ⟨"CFL_TRIG_START", 0x500a001008, [(16, 0x40)], 8, 0x0,
    [⟨CFL_TRIG_START.START, .rw⟩]⟩,
  ⟨"CFL_TRIG_WIDTH", 0x500a001010, [(16, 0x40)], 4, 0x0,
    [⟨CFL_TRIG_WIDTH.WIDTH, .rw⟩]⟩,
  ⟨"CFL_TRIG_NEXT", 0x500a001018, [(16, 0x40)], 8, 0x0,
    [⟨CFL_TRIG_NEXT.TIME, .ro⟩]⟩,
  ⟨"CFL_TRIG_COUNT", 0x500a001020, [(16, 0x40)], 8, 0x0,
    [⟨CFL_TRIG_COUNT.COUNT, .ro⟩]⟩,
  ⟨"CFL_STREAM_STATUS", 0x500a002000, [(64, 0x40)], 4, 0x0,
    [⟨CFL_STREAM_STATUS.SLICE, .ro⟩, ⟨CFL_STREAM_STATUS.STATE, .ro⟩]⟩,
  ⟨"CFL_CONTRIBS", 0x500a002008, [(64, 0x40)], 8, 0x0,
    [⟨CFL_CONTRIBS.COUNT, .ro⟩]⟩,
  ⟨"CFL_LATE_DROPS", 0x500a002010, [(64, 0x40)], 8, 0x0,
    [⟨CFL_LATE_DROPS.COUNT, .ro⟩]⟩,
  ⟨"CFL_REVISIONS", 0x500a002018, [(64, 0x40)], 8, 0x0,
    [⟨CFL_REVISIONS.COUNT, .ro⟩]⟩,
  ⟨"CFL_STREAM_BAD", 0x500a002020, [(64, 0x40)], 8, 0x0,
    [⟨CFL_STREAM_BAD.COUNT, .ro⟩]⟩,
  ⟨"CFL_L1_OUTSIDE", 0x500a003000, [(4, 0x10)], 8, 0x0,
    [⟨CFL_L1_OUTSIDE.COUNT, .ro⟩]⟩,
  ⟨"CFL_L2_TRACKS", 0x500a003040, [], 4, 0x0,
    [⟨CFL_L2_TRACKS.COUNT, .ro⟩]⟩,
  ⟨"CFL_L2_CONFLICTS", 0x500a003048, [], 8, 0x0,
    [⟨CFL_L2_CONFLICTS.COUNT, .ro⟩]⟩]

/-- Acoustic loop engine registers, ALE block. -/
def regTable13_0 : List RegSpec := [
  ⟨"ALE_CTRL", 0x5016000000, [], 4, 0x2,
    [⟨ALE_CTRL.ADAPT, .rw⟩, ⟨ALE_CTRL.EN, .rw⟩]⟩,
  ⟨"ALE_STATUS", 0x5016000004, [], 4, 0x0,
    [⟨ALE_STATUS.LOAD_ERR, .ro⟩, ⟨ALE_STATUS.FROZEN, .ro⟩, ⟨ALE_STATUS.MUTED, .ro⟩, ⟨ALE_STATUS.LOAD_BUSY, .ro⟩, ⟨ALE_STATUS.STATE, .ro⟩]⟩,
  ⟨"ALE_LOAD", 0x5016000008, [], 8, 0x0,
    [⟨ALE_LOAD.ADDR, .rw⟩, ⟨ALE_LOAD.GO, .w1s⟩]⟩,
  ⟨"ALE_CYCLES", 0x5016000010, [], 4, 0x0,
    [⟨ALE_CYCLES.CYCLES, .ro⟩]⟩,
  ⟨"ALE_RING_DESC", 0x5016000040, [(8, 0x8)], 8, 0x0,
    [⟨ALE_RING_DESC.ADDR, .rw⟩, ⟨ALE_RING_DESC.EN, .rw⟩]⟩,
  ⟨"ALE_1722_SID", 0x5016000080, [(8, 0x8)], 8, 0x0,
    [⟨ALE_1722_SID.SID, .rw⟩]⟩,
  ⟨"ALE_1722_CTRL", 0x50160000c0, [], 4, 0x0,
    [⟨ALE_1722_CTRL.EN, .rw⟩]⟩,
  ⟨"ALE_PORT_CFG", 0x5016000100, [(4, 0x4)], 4, 0x8,
    [⟨ALE_PORT_CFG.EN, .rw⟩, ⟨ALE_PORT_CFG.RATE, .rw⟩, ⟨ALE_PORT_CFG.WORD, .rw⟩, ⟨ALE_PORT_CFG.FS_POL, .rw⟩, ⟨ALE_PORT_CFG.FS_DELAY, .rw⟩]⟩,
  ⟨"ALE_ERRPWR", 0x5016000140, [(8, 0x4)], 4, 0x0,
    [⟨ALE_ERRPWR.POWER, .ro⟩]⟩,
  ⟨"ALE_SAMPLES", 0x5016000200, [], 8, 0x0,
    [⟨ALE_SAMPLES.COUNT, .ro⟩]⟩,
  ⟨"ALE_SAT", 0x5016000208, [], 8, 0x0,
    [⟨ALE_SAT.COUNT, .ro⟩]⟩,
  ⟨"ALE_CLIP", 0x5016000210, [], 8, 0x0,
    [⟨ALE_CLIP.COUNT, .ro⟩]⟩,
  ⟨"ALE_UNDERRUN", 0x5016000218, [], 8, 0x0,
    [⟨ALE_UNDERRUN.COUNT, .ro⟩]⟩,
  ⟨"ALE_LATE_1722", 0x5016000220, [], 8, 0x0,
    [⟨ALE_LATE_1722.COUNT, .ro⟩]⟩,
  ⟨"ALE_DIVERGE", 0x5016000228, [], 8, 0x0,
    [⟨ALE_DIVERGE.COUNT, .ro⟩]⟩,
  ⟨"ALE_CNT_CTRL", 0x5016000230, [], 4, 0x0,
    [⟨ALE_CNT_CTRL.CLR, .w1s⟩]⟩]

/-- Fondant registers. -/
def regTable14_0 : List RegSpec := [
  ⟨"GFX_STATUS", 0x500b000000, [], 4, 0x0,
    [⟨GFX_STATUS.CORE_BUSY, .ro⟩, ⟨GFX_STATUS.STATE, .ro⟩]⟩,
  ⟨"GFX_HANG_LIMIT", 0x500b000008, [], 4, 0x1000000,
    [⟨GFX_HANG_LIMIT.CLOCKS, .rw⟩]⟩,
  ⟨"GFX_CNT_CTRL", 0x500b000010, [], 4, 0x0,
    [⟨GFX_CNT_CTRL.CLR, .w1s⟩]⟩,
  ⟨"GFX_PASSES", 0x500b000020, [], 8, 0x0,
    [⟨GFX_PASSES.COUNT, .ro⟩]⟩,
  ⟨"GFX_TILES", 0x500b000028, [], 8, 0x0,
    [⟨GFX_TILES.COUNT, .ro⟩]⟩,
  ⟨"GFX_FLUSHES", 0x500b000030, [], 8, 0x0,
    [⟨GFX_FLUSHES.COUNT, .ro⟩]⟩,
  ⟨"GFX_BIN_PEAK", 0x500b000038, [], 8, 0x0,
    [⟨GFX_BIN_PEAK.BYTES, .rc⟩]⟩,
  ⟨"GFX_TAKEOVERS", 0x500b000040, [], 8, 0x0,
    [⟨GFX_TAKEOVERS.COUNT, .ro⟩]⟩,
  ⟨"GFX_SB_STALL", 0x500b000048, [], 8, 0x0,
    [⟨GFX_SB_STALL.COUNT, .ro⟩]⟩,
  ⟨"GFX_CORE_BUSY", 0x500b000100, [(8, 0x8)], 8, 0x0,
    [⟨GFX_CORE_BUSY.COUNT, .ro⟩]⟩]

/-- Display pipe registers, pipe p at DSP block offset p × 0x0001_0000. -/
def regTable15_0 : List RegSpec := [
  ⟨"DSP_PIPE_CTRL", 0x5017000000, [(4, 0x10000)], 4, 0x0,
    [⟨DSP_PIPE_CTRL.BPC10, .rw⟩, ⟨DSP_PIPE_CTRL.EN, .rw⟩]⟩,
  ⟨"DSP_PCLK", 0x5017000004, [(4, 0x10000)], 4, 0x0,
    [⟨DSP_PCLK.KHZ, .rw⟩]⟩,
  ⟨"DSP_H_TIMING", 0x5017000008, [(4, 0x10000)], 4, 0x0,
    [⟨DSP_H_TIMING.TOTAL, .rw⟩, ⟨DSP_H_TIMING.ACTIVE, .rw⟩]⟩,
  ⟨"DSP_H_SYNC", 0x501700000c, [(4, 0x10000)], 4, 0x0,
    [⟨DSP_H_SYNC.START, .rw⟩, ⟨DSP_H_SYNC.WIDTH, .rw⟩]⟩,
  ⟨"DSP_V_TIMING", 0x5017000010, [(4, 0x10000)], 4, 0x0,
    [⟨DSP_V_TIMING.TOTAL, .rw⟩, ⟨DSP_V_TIMING.ACTIVE, .rw⟩]⟩,
  ⟨"DSP_V_SYNC", 0x5017000014, [(4, 0x10000)], 4, 0x0,
    [⟨DSP_V_SYNC.START, .rw⟩, ⟨DSP_V_SYNC.WIDTH, .rw⟩]⟩,
  ⟨"DSP_OUT_CFG", 0x5017000018, [(4, 0x10000)], 4, 0x0,
    [⟨DSP_OUT_CFG.RATE, .rw⟩, ⟨DSP_OUT_CFG.LANES, .rw⟩, ⟨DSP_OUT_CFG.TRAINED, .ro⟩, ⟨DSP_OUT_CFG.EDP, .rw⟩, ⟨DSP_OUT_CFG.EN, .rw⟩]⟩,
  ⟨"DSP_COMMIT", 0x501700001c, [(4, 0x10000)], 4, 0x0,
    [⟨DSP_COMMIT.REFUSED, .w1c⟩, ⟨DSP_COMMIT.GO, .w1s⟩]⟩,
  ⟨"DSP_BG_COLOUR", 0x5017000020, [(4, 0x10000)], 4, 0x0,
    [⟨DSP_BG_COLOUR.RGB, .rw⟩]⟩,
  ⟨"DSP_UNDERRUN_COLOUR", 0x5017000024, [(4, 0x10000)], 4, 0x3ff003ff,
    [⟨DSP_UNDERRUN_COLOUR.RGB, .rw⟩]⟩,
  ⟨"DSP_FRAME_COUNT", 0x5017000028, [(4, 0x10000)], 8, 0x0,
    [⟨DSP_FRAME_COUNT.COUNT, .ro⟩]⟩,
  ⟨"DSP_UNDERRUNS", 0x5017000030, [(4, 0x10000)], 8, 0x0,
    [⟨DSP_UNDERRUNS.COUNT, .ro⟩]⟩,
  ⟨"DSP_PLANE_ADDR", 0x5017000100, [(4, 0x10000), (4, 0x20)], 8, 0x0,
    [⟨DSP_PLANE_ADDR.ADDR, .rw⟩]⟩,
  ⟨"DSP_PLANE_PITCH", 0x5017000108, [(4, 0x10000), (4, 0x20)], 4, 0x0,
    [⟨DSP_PLANE_PITCH.PITCH, .rw⟩]⟩,
  ⟨"DSP_PLANE_FMT", 0x501700010c, [(4, 0x10000), (4, 0x20)], 4, 0xff00,
    [⟨DSP_PLANE_FMT.ALPHA, .rw⟩, ⟨DSP_PLANE_FMT.FMT, .rw⟩, ⟨DSP_PLANE_FMT.EN, .rw⟩]⟩,
  ⟨"DSP_PLANE_POS", 0x5017000110, [(4, 0x10000), (4, 0x20)], 4, 0x0,
    [⟨DSP_PLANE_POS.Y, .rw⟩, ⟨DSP_PLANE_POS.X, .rw⟩]⟩,
  ⟨"DSP_PLANE_SIZE", 0x5017000114, [(4, 0x10000), (4, 0x20)], 4, 0x0,
    [⟨DSP_PLANE_SIZE.H, .rw⟩, ⟨DSP_PLANE_SIZE.W, .rw⟩]⟩,
  ⟨"DSP_CRC_CTRL", 0x5017000200, [(4, 0x10000)], 4, 0x0,
    [⟨DSP_CRC_CTRL.EN, .rw⟩]⟩,
  ⟨"DSP_CRC_RECT", 0x5017000240, [(4, 0x10000), (16, 0x8)], 8, 0x0,
    [⟨DSP_CRC_RECT.Y1, .rw⟩, ⟨DSP_CRC_RECT.X1, .rw⟩, ⟨DSP_CRC_RECT.Y0, .rw⟩, ⟨DSP_CRC_RECT.X0, .rw⟩]⟩,
  ⟨"DSP_CRC_VAL", 0x50170002c0, [(4, 0x10000), (16, 0x4)], 4, 0x0,
    [⟨DSP_CRC_VAL.CRC, .ro⟩]⟩]

/-- Display pipe registers, pipe p at DSP block offset p × 0x0001_0000. -/
def regTable15_1 : List RegSpec := [
  ⟨"DSP_CRC_FRAME", 0x5017000300, [(4, 0x10000)], 8, 0x0,
    [⟨DSP_CRC_FRAME.COUNT, .ro⟩]⟩,
  ⟨"DSP_CRC_EXP", 0x5017000400, [(4, 0x10000), (16, 0x10), (4, 0x4)], 4, 0x0,
    [⟨DSP_CRC_EXP.CRC, .rw⟩]⟩,
  ⟨"DSP_CRC_EXP_VALID", 0x5017000500, [(4, 0x10000)], 8, 0x0,
    [⟨DSP_CRC_EXP_VALID.MASK, .rw⟩]⟩,
  ⟨"DSP_CRC_MISMATCH", 0x5017000508, [(4, 0x10000)], 4, 0x0,
    [⟨DSP_CRC_MISMATCH.REGION, .w1c⟩]⟩,
  ⟨"DSP_CRC_MISMATCHES", 0x5017000510, [(4, 0x10000)], 8, 0x0,
    [⟨DSP_CRC_MISMATCHES.COUNT, .ro⟩]⟩]

/-- Safe-state registers. -/
def regTable16_0 : List RegSpec := [
  ⟨"SAF_GROUP_STATE", 0x500c020000, [], 4, 0xf,
    [⟨SAF_GROUP_STATE.SAFE_N, .ro⟩, ⟨SAF_GROUP_STATE.SAFE, .ro⟩]⟩,
  ⟨"SAF_GROUP_CAUSE", 0x500c020010, [(4, 0x8)], 8, 0xff00,
    [⟨SAF_GROUP_CAUSE.SOURCE, .ro⟩, ⟨SAF_GROUP_CAUSE.CAUSE, .ro⟩]⟩,
  ⟨"SAF_GROUP_TIME", 0x500c020030, [(4, 0x8)], 8, 0x0,
    [⟨SAF_GROUP_TIME.TIME, .ro⟩]⟩,
  ⟨"SAF_HEALTH", 0x500c020100, [(12, 0x8)], 8, 0x0,
    [⟨SAF_HEALTH.DEFERRALS, .ro⟩, ⟨SAF_HEALTH.CARRIES, .ro⟩, ⟨SAF_HEALTH.FAILED, .ro⟩, ⟨SAF_HEALTH.DEGRADED, .ro⟩, ⟨SAF_HEALTH.UNTESTED, .ro⟩]⟩,
  ⟨"SAF_GOLDEN_PASS", 0x500c020180, [(12, 0x8)], 8, 0x0,
    [⟨SAF_GOLDEN_PASS.TIME, .ro⟩]⟩,
  ⟨"SAF_WEIR_STATUS", 0x500c020200, [], 4, 0x0,
    [⟨SAF_WEIR_STATUS.BUSY, .ro⟩, ⟨SAF_WEIR_STATUS.QUEUE, .ro⟩]⟩,
  ⟨"SAF_WEIR_COMPARES", 0x500c020208, [], 8, 0x0,
    [⟨SAF_WEIR_COMPARES.COUNT, .ro⟩]⟩,
  ⟨"SAF_WEIR_BYTES", 0x500c020210, [], 8, 0x0,
    [⟨SAF_WEIR_BYTES.COUNT, .ro⟩]⟩,
  ⟨"SAF_MSG_COUNTER", 0x500c020300, [], 8, 0x0,
    [⟨SAF_MSG_COUNTER.COUNTER, .ro⟩]⟩,
  ⟨"SAF_OUT_STATUS", 0x500c021000, [(32, 0x20)], 4, 0x0,
    [⟨SAF_OUT_STATUS.SLICE, .ro⟩, ⟨SAF_OUT_STATUS.GROUP, .ro⟩, ⟨SAF_OUT_STATUS.MET, .ro⟩, ⟨SAF_OUT_STATUS.ROLE, .ro⟩, ⟨SAF_OUT_STATUS.ARMED, .ro⟩, ⟨SAF_OUT_STATUS.CONFIGURED, .ro⟩]⟩,
  ⟨"SAF_OUT_DEADLINE", 0x500c021008, [(32, 0x20)], 8, 0x0,
    [⟨SAF_OUT_DEADLINE.TIME, .ro⟩]⟩,
  ⟨"SAF_OUT_MISSES", 0x500c021010, [(32, 0x20)], 8, 0x0,
    [⟨SAF_OUT_MISSES.COUNT, .ro⟩]⟩,
  ⟨"SAF_OUT_DISAGREE", 0x500c021018, [(32, 0x20)], 8, 0x0,
    [⟨SAF_OUT_DISAGREE.COUNT, .ro⟩]⟩]

/-- Island and self-test registers. -/
def regTable17_0 : List RegSpec := [
  ⟨"SAF_ISLAND_STATUS", 0x500c000000, [], 4, 0x0,
    [⟨SAF_ISLAND_STATUS.SPLIT, .ro⟩, ⟨SAF_ISLAND_STATUS.LOCKSTEP_BROKEN, .ro⟩, ⟨SAF_ISLAND_STATUS.LOCKSTEP_ERR, .ro⟩, ⟨SAF_ISLAND_STATUS.HELD, .ro⟩, ⟨SAF_ISLAND_STATUS.STATE, .ro⟩]⟩,
  ⟨"SAF_LOCKSTEP_MISMATCHES", 0x500c000008, [], 8, 0x0,
    [⟨SAF_LOCKSTEP_MISMATCHES.COUNT, .ro⟩]⟩,
  ⟨"SAF_LOCKSTEP_TIME", 0x500c000010, [], 8, 0x0,
    [⟨SAF_LOCKSTEP_TIME.TIME, .ro⟩]⟩,
  ⟨"SAF_ST_PERIOD", 0x500c010000, [], 4, 0x7d0,
    [⟨SAF_ST_PERIOD.TILE_MS, .ro⟩]⟩,
  ⟨"SAF_ST_CHK_PERIOD", 0x500c010004, [], 4, 0x3e8,
    [⟨SAF_ST_CHK_PERIOD.CHK_MS, .ro⟩]⟩,
  ⟨"SAF_ST_DIAG", 0x500c010008, [], 4, 0x1770,
    [⟨SAF_ST_DIAG.DIAG_MS, .ro⟩]⟩,
  ⟨"SAF_ST_PASS", 0x500c011000, [(192, 0x10)], 8, 0x0,
    [⟨SAF_ST_PASS.TIME, .ro⟩]⟩,
  ⟨"SAF_ST_TILE", 0x500c011008, [(192, 0x10)], 4, 0x0,
    [⟨SAF_ST_TILE.STEP, .ro⟩, ⟨SAF_ST_TILE.OVERDUE, .ro⟩, ⟨SAF_ST_TILE.FENCED, .ro⟩, ⟨SAF_ST_TILE.QUEUED, .ro⟩, ⟨SAF_ST_TILE.RUNNING, .ro⟩]⟩,
  ⟨"SAF_ST_CHK_PASS", 0x500c012000, [(8, 0x10)], 8, 0x0,
    [⟨SAF_ST_CHK_PASS.TIME, .ro⟩]⟩,
  ⟨"SAF_ST_CHK", 0x500c012008, [(8, 0x10)], 4, 0x0,
    [⟨SAF_ST_CHK.FAILED, .ro⟩, ⟨SAF_ST_CHK.OVERDUE, .ro⟩, ⟨SAF_ST_CHK.RUNNING, .ro⟩]⟩,
  ⟨"SAF_ST_PASSES", 0x500c013000, [], 8, 0x0,
    [⟨SAF_ST_PASSES.COUNT, .ro⟩]⟩,
  ⟨"SAF_ST_FAILS", 0x500c013008, [], 8, 0x0,
    [⟨SAF_ST_FAILS.COUNT, .ro⟩]⟩,
  ⟨"SAF_ST_ABORTS", 0x500c013010, [], 8, 0x0,
    [⟨SAF_ST_ABORTS.COUNT, .ro⟩]⟩]

/-- Error collector registers. -/
def regTable18_0 : List RegSpec := [
  ⟨"ERR_RING_BASE", 0x5015000000, [], 8, 0x0,
    [⟨ERR_RING_BASE.BASE, .rw⟩]⟩,
  ⟨"ERR_RING_CTRL", 0x5015000008, [], 4, 0x6,
    [⟨ERR_RING_CTRL.ENABLE, .rw⟩, ⟨ERR_RING_CTRL.LOG2_SLOTS, .rw⟩]⟩,
  ⟨"ERR_RING_TAIL", 0x501500000c, [], 4, 0x0,
    [⟨ERR_RING_TAIL.TAIL, .ro⟩]⟩,
  ⟨"ERR_RING_HEAD", 0x5015000010, [], 4, 0x0,
    [⟨ERR_RING_HEAD.HEAD, .rw⟩]⟩,
  ⟨"ERR_STATUS", 0x5015000014, [], 4, 0x0,
    [⟨ERR_STATUS.HELD, .ro⟩, ⟨ERR_STATUS.SAFETY_LOST, .ro⟩, ⟨ERR_STATUS.HOLDING, .ro⟩, ⟨ERR_STATUS.COALESCING, .ro⟩]⟩,
  ⟨"ERR_MSI_ADDR", 0x5015000018, [], 8, 0x0,
    [⟨ERR_MSI_ADDR.ADDR, .rw⟩, ⟨ERR_MSI_ADDR.EN, .rw⟩]⟩,
  ⟨"ERR_MSI_DATA", 0x5015000020, [], 4, 0x0,
    [⟨ERR_MSI_DATA.DATA, .rw⟩]⟩,
  ⟨"ERR_RECORDS", 0x5015000028, [], 8, 0x0,
    [⟨ERR_RECORDS.COUNT, .ro⟩]⟩,
  ⟨"ERR_LOST_SAFETY", 0x5015000030, [], 8, 0x0,
    [⟨ERR_LOST_SAFETY.COUNT, .ro⟩]⟩,
  ⟨"ERR_LOST_CNT", 0x5015000100, [(16, 0x18)], 4, 0x0,
    [⟨ERR_LOST_CNT.COUNT, .ro⟩]⟩,
  ⟨"ERR_LOST_FIRST", 0x5015000108, [(16, 0x18)], 8, 0x0,
    [⟨ERR_LOST_FIRST.TIME, .ro⟩]⟩,
  ⟨"ERR_LOST_LAST", 0x5015000110, [(16, 0x18)], 8, 0x0,
    [⟨ERR_LOST_LAST.TIME, .ro⟩]⟩]

/-- Security core registers. -/
def regTable19_0 : List RegSpec := [
  ⟨"SEC_STATUS", 0x500d000000, [], 4, 0x0,
    [⟨SEC_STATUS.KEY_HELD, .ro⟩, ⟨SEC_STATUS.COCKPIT_WITHDRAWN, .ro⟩, ⟨SEC_STATUS.WARM, .ro⟩, ⟨SEC_STATUS.STATE, .ro⟩]⟩,
  ⟨"SEC_DEBUG", 0x500d000008, [], 4, 0x0,
    [⟨SEC_DEBUG.SCOPE, .ro⟩, ⟨SEC_DEBUG.EVER, .ro⟩, ⟨SEC_DEBUG.ENABLES, .ro⟩]⟩,
  ⟨"SEC_CLAIM", 0x500d000010, [], 4, 0x0,
    [⟨SEC_CLAIM.PENDING, .ro⟩, ⟨SEC_CLAIM.CLAIM, .ro⟩]⟩,
  ⟨"SEC_WDT_CFG", 0x500d000018, [], 4, 0xc80014,
    [⟨SEC_WDT_CFG.CKP_MS, .ro⟩, ⟨SEC_WDT_CFG.VEH_MS, .ro⟩]⟩,
  ⟨"SEC_MBOX_BUSY", 0x500d000020, [], 4, 0x0,
    [⟨SEC_MBOX_BUSY.SLOT, .ro⟩]⟩,
  ⟨"SEC_DEVICE_ID", 0x500d000040, [(6, 0x8)], 8, 0x0,
    [⟨SEC_DEVICE_ID.ID, .ro⟩]⟩,
  ⟨"SEC_GATE_CALLS", 0x500d000080, [], 8, 0x0,
    [⟨SEC_GATE_CALLS.COUNT, .ro⟩]⟩,
  ⟨"SEC_GATE_FAULTS", 0x500d000088, [], 8, 0x0,
    [⟨SEC_GATE_FAULTS.COUNT, .ro⟩]⟩]

/-- Memory system registers. -/
def regTable20_0 : List RegSpec := [
  ⟨"MEM_ECC_BASE", 0x5008000000, [(16, 0x10)], 8, 0x0,
    [⟨MEM_ECC_BASE.BASE, .rw⟩, ⟨MEM_ECC_BASE.CODE, .rw⟩, ⟨MEM_ECC_BASE.EN, .rw⟩]⟩,
  ⟨"MEM_ECC_LIMIT", 0x5008000008, [(16, 0x10)], 8, 0x0,
    [⟨MEM_ECC_LIMIT.LIMIT, .rw⟩]⟩,
  ⟨"MEM_VALID_STATUS", 0x5008000200, [], 4, 0x1,
    [⟨MEM_VALID_STATUS.CLEARING, .ro⟩]⟩,
  ⟨"MEM_ZERO_READS", 0x5008000208, [], 8, 0x0,
    [⟨MEM_ZERO_READS.COUNT, .ro⟩]⟩,
  ⟨"MEM_ZERO_FILLS", 0x5008000210, [], 8, 0x0,
    [⟨MEM_ZERO_FILLS.COUNT, .ro⟩]⟩,
  ⟨"MEM_LB_CFG", 0x5008000300, [(4, 0x8)], 4, 0x3e8000a,
    [⟨MEM_LB_CFG.LEAK_MS, .rw⟩, ⟨MEM_LB_CFG.THRESHOLD, .rw⟩]⟩,
  ⟨"MEM_ARB_CTRL", 0x5008000400, [], 4, 0x101010,
    [⟨MEM_ARB_CTRL.N_MESH, .rw⟩, ⟨MEM_ARB_CTRL.N_MC, .rw⟩, ⟨MEM_ARB_CTRL.N_DRAM, .rw⟩]⟩,
  ⟨"MEM_ARB_WAIT_LIMIT", 0x5008000404, [], 4, 0x4000,
    [⟨MEM_ARB_WAIT_LIMIT.CLOCKS, .rw⟩]⟩,
  ⟨"MEM_ARB_SEL", 0x5008000408, [], 4, 0x0,
    [⟨MEM_ARB_SEL.ARBITER, .rw⟩, ⟨MEM_ARB_SEL.REQUESTER, .rw⟩]⟩,
  ⟨"MEM_ARB_GRANTS", 0x5008000410, [], 8, 0x0,
    [⟨MEM_ARB_GRANTS.COUNT, .ro⟩]⟩,
  ⟨"MEM_ARB_WAIT", 0x5008000418, [], 8, 0x0,
    [⟨MEM_ARB_WAIT.COUNT, .ro⟩]⟩,
  ⟨"MEM_ARB_LONGEST", 0x5008000420, [], 4, 0x0,
    [⟨MEM_ARB_LONGEST.CLOCKS, .rc⟩]⟩,
  ⟨"MEM_LB", 0x5008001000, [(256, 0x10)], 8, 0x0,
    [⟨MEM_LB.UNCORRECTED, .ro⟩, ⟨MEM_LB.OVERFLOWS, .ro⟩, ⟨MEM_LB.COUNT, .ro⟩]⟩,
  ⟨"MEM_LB_CORR", 0x5008001008, [(256, 0x10)], 8, 0x0,
    [⟨MEM_LB_CORR.CORRECTED, .ro⟩]⟩]

/-- Millrace registers. -/
def regTable21_0 : List RegSpec := [
  ⟨"MRC_CTRL", 0x5009000000, [], 4, 0x7d00010,
    [⟨MRC_CTRL.AGE_NS, .rw⟩, ⟨MRC_CTRL.HIT_CAP, .rw⟩]⟩,
  ⟨"MRC_RESERVE", 0x5009000008, [], 4, 0x814,
    [⟨MRC_RESERVE.MAINT, .ro⟩, ⟨MRC_RESERVE.SAFETY, .ro⟩]⟩,
  ⟨"MRC_CNT_CTRL", 0x5009000010, [], 4, 0x0,
    [⟨MRC_CNT_CTRL.CLR, .w1s⟩]⟩,
  ⟨"MRC_SHARE", 0x5009000100, [(64, 0x4)], 4, 0x0,
    [⟨MRC_SHARE.PCT, .ro⟩]⟩,
  ⟨"MRC_CH_QUEUE", 0x5009001000, [(16, 0x100)], 4, 0x0,
    [⟨MRC_CH_QUEUE.MAX, .rc⟩, ⟨MRC_CH_QUEUE.DEPTH, .ro⟩]⟩,
  ⟨"MRC_CH_SECTORS", 0x5009001008, [(16, 0x100)], 8, 0x0,
    [⟨MRC_CH_SECTORS.COUNT, .ro⟩]⟩,
  ⟨"MRC_CH_ACTIVATES", 0x5009001010, [(16, 0x100)], 8, 0x0,
    [⟨MRC_CH_ACTIVATES.COUNT, .ro⟩]⟩,
  ⟨"MRC_CH_ROW_HITS", 0x5009001018, [(16, 0x100)], 8, 0x0,
    [⟨MRC_CH_ROW_HITS.COUNT, .ro⟩]⟩,
  ⟨"MRC_CH_COALESCED", 0x5009001020, [(16, 0x100)], 8, 0x0,
    [⟨MRC_CH_COALESCED.COUNT, .ro⟩]⟩,
  ⟨"MRC_CH_SAFETY", 0x5009001028, [(16, 0x100)], 8, 0x0,
    [⟨MRC_CH_SAFETY.COUNT, .ro⟩]⟩,
  ⟨"MRC_CH_LEFTOVER", 0x5009001030, [(16, 0x100)], 8, 0x0,
    [⟨MRC_CH_LEFTOVER.COUNT, .ro⟩]⟩,
  ⟨"MRC_CH_FILL", 0x5009001038, [(16, 0x100)], 8, 0x0,
    [⟨MRC_CH_FILL.COUNT, .ro⟩]⟩]

/-- Sluice and thermal registers. -/
def regTable22_0 : List RegSpec := [
  ⟨"PWR_CAPS", 0x5010000000, [], 4, 0x21c01b8,
    [⟨PWR_CAPS.PEAK, .ro⟩, ⟨PWR_CAPS.SUST, .ro⟩]⟩,
  ⟨"PWR_EFF", 0x5010000004, [], 4, 0x1b8,
    [⟨PWR_EFF.SUST_EFF, .ro⟩]⟩,
  ⟨"PWR_BASE_RES", 0x5010000008, [], 4, 0x280024,
    [⟨PWR_BASE_RES.RESERVE, .ro⟩, ⟨PWR_BASE_RES.BASE, .ro⟩]⟩,
  ⟨"PWR_TOTAL", 0x501000000c, [], 4, 0x0,
    [⟨PWR_TOTAL.RES_USED, .ro⟩, ⟨PWR_TOTAL.TOTAL, .ro⟩]⟩,
  ⟨"PWR_BUCKET", 0x5010000010, [], 4, 0x0,
    [⟨PWR_BUCKET.E, .ro⟩]⟩,
  ⟨"PWR_QUEUE", 0x5010000014, [], 4, 0x0,
    [⟨PWR_QUEUE.CLASS3, .ro⟩, ⟨PWR_QUEUE.CLASS2, .ro⟩, ⟨PWR_QUEUE.CLASS1, .ro⟩, ⟨PWR_QUEUE.CLASS0, .ro⟩]⟩,
  ⟨"PWR_GRANTS", 0x5010000020, [], 8, 0x0,
    [⟨PWR_GRANTS.COUNT, .ro⟩]⟩,
  ⟨"PWR_DENIED", 0x5010000028, [], 8, 0x0,
    [⟨PWR_DENIED.COUNT, .ro⟩]⟩,
  ⟨"PWR_WAIT_MAX", 0x5010000030, [], 4, 0x0,
    [⟨PWR_WAIT_MAX.US, .rc⟩]⟩,
  ⟨"PWR_SLICE", 0x5010000100, [(64, 0x8)], 8, 0x0,
    [⟨PWR_SLICE.PEAK, .ro⟩, ⟨PWR_SLICE.SUST, .ro⟩, ⟨PWR_SLICE.HELD, .ro⟩]⟩,
  ⟨"PWR_TEMP", 0x5010000400, [(24, 0x4)], 4, 0x7fff,
    [⟨PWR_TEMP.TEMP, .ro⟩]⟩,
  ⟨"PWR_ZONE", 0x5010000500, [(8, 0x8)], 8, 0x7fff,
    [⟨PWR_ZONE.REDUCTION, .ro⟩, ⟨PWR_ZONE.TEMP, .ro⟩]⟩,
  ⟨"PWR_THERM_STATUS", 0x5010000600, [], 4, 0x0,
    [⟨PWR_THERM_STATUS.SENSOR_FAULT, .ro⟩, ⟨PWR_THERM_STATUS.THROTTLE, .ro⟩, ⟨PWR_THERM_STATUS.EMERGENCY, .ro⟩]⟩,
  ⟨"PWR_THROTTLES", 0x5010000608, [], 8, 0x0,
    [⟨PWR_THROTTLES.COUNT, .ro⟩]⟩]

/-- Always-on start registers. -/
def regTable23_0 : List RegSpec := [
  ⟨"AON_START_COUNT", 0x50f0000000, [], 4, 0x0,
    [⟨AON_START_COUNT.CYCLE, .ro⟩, ⟨AON_START_COUNT.STARTS, .ro⟩]⟩,
  ⟨"AON_START_STATUS", 0x50f0000004, [], 4, 0x0,
    [⟨AON_START_STATUS.FAIL_STEP, .ro⟩, ⟨AON_START_STATUS.LAST_CAUSE, .ro⟩, ⟨AON_START_STATUS.CAUSE, .ro⟩, ⟨AON_START_STATUS.FAIL_COUNT, .ro⟩, ⟨AON_START_STATUS.STARTING, .ro⟩, ⟨AON_START_STATUS.WARM, .ro⟩, ⟨AON_START_STATUS.BOOT_SRC, .ro⟩]⟩,
  ⟨"AON_START_IGNORED", 0x50f0000008, [], 4, 0x0,
    [⟨AON_START_IGNORED.COUNT, .ro⟩]⟩,
  ⟨"AON_PROFILE", 0x50f000000c, [], 4, 0x0,
    [⟨AON_PROFILE.STRAP, .ro⟩, ⟨AON_PROFILE.NEXT, .ro⟩, ⟨AON_PROFILE.CURRENT, .ro⟩]⟩,
  ⟨"AON_WAKE_EN", 0x50f0000010, [], 4, 0x0,
    [⟨AON_WAKE_EN.EN, .rw⟩]⟩,
  ⟨"AON_WAKE_TICKS", 0x50f0000014, [], 4, 0x0,
    [⟨AON_WAKE_TICKS.TICKS, .rw⟩]⟩,
  ⟨"AON_WAKE_SRC", 0x50f0000018, [], 4, 0x0,
    [⟨AON_WAKE_SRC.SRC, .ro⟩]⟩,
  ⟨"AON_WARM_ENTRY_LO", 0x50f000001c, [], 4, 0x0,
    [⟨AON_WARM_ENTRY_LO.ADDR, .rw⟩]⟩,
  ⟨"AON_WARM_ENTRY_HI", 0x50f0000020, [], 4, 0x0,
    [⟨AON_WARM_ENTRY_HI.ADDR, .rw⟩]⟩,
  ⟨"AON_START_CTRL", 0x50f0000024, [], 4, 0x0,
    [⟨AON_START_CTRL.WARM_REQ, .w1s⟩]⟩]

/-- Forerunner mailbox registers, mailbox at its base. -/
def regTable24_0 : List RegSpec := [
  ⟨"MBX_CMD", 0x500e800000, [(4, 0x10000)], 4, 0x1,
    [⟨MBX_CMD.CMD, .rw⟩, ⟨MBX_CMD.TAG, .rw⟩, ⟨MBX_CMD.CLASS, .rw⟩]⟩,
  ⟨"MBX_ARG", 0x500e800004, [(4, 0x10000), (6, 0x4)], 4, 0x0,
    [⟨MBX_ARG.ARG, .rw⟩]⟩,
  ⟨"MBX_DOORBELL", 0x500e80001c, [(4, 0x10000)], 4, 0x0,
    [⟨MBX_DOORBELL.GO, .w1s⟩]⟩,
  ⟨"MBX_STATUS", 0x500e800020, [(4, 0x10000)], 4, 0x0,
    [⟨MBX_STATUS.STATUS, .ro⟩, ⟨MBX_STATUS.TAG, .ro⟩, ⟨MBX_STATUS.DONE, .w1c⟩, ⟨MBX_STATUS.BUSY, .ro⟩]⟩,
  ⟨"MBX_RESULT_LO", 0x500e800024, [(4, 0x10000)], 4, 0x0,
    [⟨MBX_RESULT_LO.RESULT, .ro⟩]⟩,
  ⟨"MBX_RESULT_HI", 0x500e800028, [(4, 0x10000)], 4, 0x0,
    [⟨MBX_RESULT_HI.RESULT, .ro⟩]⟩,
  ⟨"MBX_IGNORED", 0x500e80002c, [(4, 0x10000)], 4, 0x0,
    [⟨MBX_IGNORED.COUNT, .ro⟩]⟩]

/-- Control complex registers. -/
def regTable25_0 : List RegSpec := [
  ⟨"CTL_CORE_STATUS", 0x500e000000, [(4, 0x8)], 4, 0x0,
    [⟨CTL_CORE_STATUS.SERVICES, .ro⟩, ⟨CTL_CORE_STATUS.STATE, .ro⟩]⟩,
  ⟨"CTL_RESTARTS", 0x500e000020, [], 8, 0x0,
    [⟨CTL_RESTARTS.COUNT, .ro⟩]⟩,
  ⟨"CTL_LOG_SEQ", 0x500e000028, [], 4, 0x0,
    [⟨CTL_LOG_SEQ.SEQ, .ro⟩]⟩,
  ⟨"CTL_TRACE_SEQ", 0x500e00002c, [], 4, 0x0,
    [⟨CTL_TRACE_SEQ.SEQ, .ro⟩]⟩,
  ⟨"CTL_TRACE_MASK", 0x500e000100, [(16, 0x8)], 8, 0x0,
    [⟨CTL_TRACE_MASK.MASK, .ro⟩]⟩]

/-- Recovery function registers, BAR0. -/
def regTable26_0 : List RegSpec := [
  ⟨"REC_STATUS", 0x1000000000000, [], 4, 0x1,
    [⟨REC_STATUS.CAUSE, .ro⟩, ⟨REC_STATUS.STATE, .ro⟩]⟩,
  ⟨"REC_LENGTH", 0x1000000000004, [], 4, 0x0,
    [⟨REC_LENGTH.BYTES, .rw⟩]⟩,
  ⟨"REC_CTRL", 0x1000000000008, [], 4, 0x0,
    [⟨REC_CTRL.GO, .w1s⟩]⟩]

/-- Always-on bridge registers, AON block. -/
def regTable27_0 : List RegSpec := [
  ⟨"AON_BR_STATUS", 0x500f000000, [], 4, 0x0,
    [⟨AON_BR_STATUS.S2F, .ro⟩, ⟨AON_BR_STATUS.F2S, .ro⟩]⟩,
  ⟨"AON_BR_READS", 0x500f000008, [], 8, 0x0,
    [⟨AON_BR_READS.COUNT, .ro⟩]⟩,
  ⟨"AON_BR_RETRY_FULL", 0x500f000010, [], 8, 0x0,
    [⟨AON_BR_RETRY_FULL.COUNT, .ro⟩]⟩,
  ⟨"AON_BR_DISCARDS", 0x500f000018, [], 8, 0x0,
    [⟨AON_BR_DISCARDS.COUNT, .ro⟩]⟩,
  ⟨"AON_BR_BUS_ERR", 0x500f000020, [], 8, 0x0,
    [⟨AON_BR_BUS_ERR.COUNT, .ro⟩]⟩,
  ⟨"AON_BR_WR_MAX", 0x500f000028, [], 4, 0x0,
    [⟨AON_BR_WR_MAX.NS, .rc⟩]⟩]

/-- Link registers. -/
def regTable28_0 : List RegSpec := [
  ⟨"LNK_PORT_STATUS", 0x5011000000, [(2, 0x100)], 4, 0x0,
    [⟨LNK_PORT_STATUS.GBPS, .ro⟩, ⟨LNK_PORT_STATUS.MODE, .ro⟩, ⟨LNK_PORT_STATUS.UP, .ro⟩]⟩,
  ⟨"LNK_PCI_ID", 0x5011000300, [], 4, 0x96400000,
    [⟨LNK_PCI_ID.DEVICE, .ro⟩, ⟨LNK_PCI_ID.VENDOR, .ro⟩]⟩,
  ⟨"LNK_POSTED_FAILS", 0x5011000308, [], 8, 0x0,
    [⟨LNK_POSTED_FAILS.COUNT, .ro⟩]⟩,
  ⟨"LNK_TWIN_STATUS", 0x5011000400, [], 4, 0x0,
    [⟨LNK_TWIN_STATUS.MISSES, .ro⟩, ⟨LNK_TWIN_STATUS.DETACH_REFUSED, .w1c⟩, ⟨LNK_TWIN_STATUS.CARRYING, .ro⟩, ⟨LNK_TWIN_STATUS.PIN_OK, .ro⟩, ⟨LNK_TWIN_STATUS.PATH_OK, .ro⟩, ⟨LNK_TWIN_STATUS.STATE, .ro⟩]⟩,
  ⟨"LNK_TWIN_CTRL", 0x5011000404, [], 4, 0x0,
    [⟨LNK_TWIN_CTRL.CARRY_END, .w1s⟩, ⟨LNK_TWIN_CTRL.DETACH, .w1s⟩]⟩,
  ⟨"LNK_TAKEOVERS", 0x5011000408, [], 8, 0x0,
    [⟨LNK_TAKEOVERS.COUNT, .ro⟩]⟩,
  ⟨"LNK_HB_MISSED", 0x5011000410, [], 8, 0x0,
    [⟨LNK_HB_MISSED.COUNT, .ro⟩]⟩,
  ⟨"LNK_CKPT_SRC", 0x5011001000, [(16, 0x40)], 8, 0x0,
    [⟨LNK_CKPT_SRC.ADDR, .rw⟩, ⟨LNK_CKPT_SRC.EN, .rw⟩]⟩,
  ⟨"LNK_CKPT_DST", 0x5011001008, [(16, 0x40)], 8, 0x0,
    [⟨LNK_CKPT_DST.ADDR, .rw⟩]⟩,
  ⟨"LNK_CKPT_LEN", 0x5011001010, [(16, 0x40)], 4, 0x0,
    [⟨LNK_CKPT_LEN.BYTES, .rw⟩]⟩,
  ⟨"LNK_CKPT_OBJ", 0x5011001014, [(16, 0x40)], 4, 0x0,
    [⟨LNK_CKPT_OBJ.REMOTE_OBJ, .rw⟩, ⟨LNK_CKPT_OBJ.TRIG_OBJ, .rw⟩]⟩,
  ⟨"LNK_CKPT_DONE", 0x5011001018, [(16, 0x40)], 8, 0x0,
    [⟨LNK_CKPT_DONE.COUNT, .ro⟩]⟩,
  ⟨"LNK_CKPT_FAIL", 0x5011001020, [(16, 0x40)], 8, 0x0,
    [⟨LNK_CKPT_FAIL.COUNT, .ro⟩]⟩,
  ⟨"LNK_CKPT_SKIPPED", 0x5011001028, [(16, 0x40)], 8, 0x0,
    [⟨LNK_CKPT_SKIPPED.COUNT, .ro⟩]⟩,
  ⟨"LNK_DOMAIN_STATUS", 0x5011002000, [], 4, 0xfe,
    [⟨LNK_DOMAIN_STATUS.MEMBER, .ro⟩, ⟨LNK_DOMAIN_STATUS.DIVERGENT, .ro⟩]⟩,
  ⟨"LNK_DOMAIN_EPOCH", 0x5011002008, [], 8, 0x0,
    [⟨LNK_DOMAIN_EPOCH.EPOCH, .ro⟩]⟩,
  ⟨"LNK_DOMAIN_DIGEST", 0x5011002010, [(6, 0x8)], 8, 0x0,
    [⟨LNK_DOMAIN_DIGEST.DIGEST, .ro⟩]⟩,
  ⟨"LNK_DOMAIN_SWITCH", 0x5011002040, [], 8, 0x0,
    [⟨LNK_DOMAIN_SWITCH.TIME, .ro⟩]⟩,
  ⟨"LNK_ANNOUNCE_RX", 0x5011002048, [], 8, 0x0,
    [⟨LNK_ANNOUNCE_RX.COUNT, .ro⟩]⟩]

/-- Network registers. -/
def regTable29_0 : List RegSpec := [
  ⟨"NET_TIME_NS", 0x5012000000, [], 8, 0x0,
    [⟨NET_TIME_NS.NS, .ro⟩]⟩,
  ⟨"NET_TIME_FRAC", 0x5012000008, [], 4, 0x0,
    [⟨NET_TIME_FRAC.FRAC, .ro⟩]⟩,
  ⟨"NET_TIME_STATUS", 0x5012000010, [], 4, 0xff0003,
    [⟨NET_TIME_STATUS.SLAVE_PORT, .ro⟩, ⟨NET_TIME_STATUS.GRANDMASTER, .ro⟩, ⟨NET_TIME_STATUS.QUALITY, .ro⟩]⟩,
  ⟨"NET_RATE", 0x5012000014, [], 4, 0x0,
    [⟨NET_RATE.PPB, .ro⟩]⟩,
  ⟨"NET_OFFSET", 0x5012000018, [], 4, 0x0,
    [⟨NET_OFFSET.NS, .ro⟩]⟩,
  ⟨"NET_HOLDOVER", 0x501200001c, [], 4, 0x0,
    [⟨NET_HOLDOVER.MS, .ro⟩]⟩,
  ⟨"NET_GM_ID", 0x5012000020, [], 8, 0x0,
    [⟨NET_GM_ID.ID, .ro⟩]⟩,
  ⟨"NET_PORT_STATUS", 0x5012001000, [(8, 0x100)], 4, 0x0,
    [⟨NET_PORT_STATUS.MBPS, .ro⟩, ⟨NET_PORT_STATUS.PTP_STATE, .ro⟩, ⟨NET_PORT_STATUS.MACSEC, .ro⟩, ⟨NET_PORT_STATUS.UP, .ro⟩]⟩,
  ⟨"NET_ASYM_IN", 0x5012001004, [(8, 0x100)], 4, 0x0,
    [⟨NET_ASYM_IN.PS, .rw⟩]⟩,
  ⟨"NET_ASYM_OUT", 0x5012001008, [(8, 0x100)], 4, 0x0,
    [⟨NET_ASYM_OUT.PS, .rw⟩]⟩,
  ⟨"NET_PDELAY", 0x501200100c, [(8, 0x100)], 4, 0x0,
    [⟨NET_PDELAY.NS, .ro⟩]⟩,
  ⟨"NET_RX_FRAMES", 0x5012001010, [(8, 0x100)], 8, 0x0,
    [⟨NET_RX_FRAMES.COUNT, .ro⟩]⟩,
  ⟨"NET_TX_FRAMES", 0x5012001018, [(8, 0x100)], 8, 0x0,
    [⟨NET_TX_FRAMES.COUNT, .ro⟩]⟩,
  ⟨"NET_DROPS", 0x5012001020, [(8, 0x100)], 8, 0x0,
    [⟨NET_DROPS.COUNT, .ro⟩]⟩,
  ⟨"NET_MACSEC_ERR", 0x5012001028, [(8, 0x100)], 8, 0x0,
    [⟨NET_MACSEC_ERR.COUNT, .ro⟩]⟩,
  ⟨"NET_FRER_DISCARDS", 0x5012001800, [], 8, 0x0,
    [⟨NET_FRER_DISCARDS.COUNT, .ro⟩]⟩,
  ⟨"NET_FRER_ROGUE", 0x5012001808, [], 8, 0x0,
    [⟨NET_FRER_ROGUE.COUNT, .ro⟩]⟩,
  ⟨"NET_DMA_RING", 0x5012002000, [(16, 0x20)], 8, 0x4,
    [⟨NET_DMA_RING.BASE, .rw⟩, ⟨NET_DMA_RING.EN, .rw⟩, ⟨NET_DMA_RING.LOG2, .rw⟩]⟩,
  ⟨"NET_DMA_TAIL", 0x5012002008, [(16, 0x20)], 4, 0x0,
    [⟨NET_DMA_TAIL.TAIL, .rw⟩]⟩,
  ⟨"NET_DMA_HEAD", 0x501200200c, [(16, 0x20)], 4, 0x0,
    [⟨NET_DMA_HEAD.HEAD, .ro⟩]⟩]

/-- Network registers. -/
def regTable29_1 : List RegSpec := [
  ⟨"NET_DMA_OBJ", 0x5012002010, [(16, 0x20)], 4, 0x0,
    [⟨NET_DMA_OBJ.SIGNAL_OBJ, .rw⟩]⟩]

/-- CAN controller registers, controller c at CAN block offset c × 0x0100. -/
def regTable30_0 : List RegSpec := [
  ⟨"CAN_CTRL", 0x5013000000, [(16, 0x100)], 4, 0x8,
    [⟨CAN_CTRL.RX_UNMATCHED, .rw⟩, ⟨CAN_CTRL.MODE, .rw⟩, ⟨CAN_CTRL.EN, .rw⟩]⟩,
  ⟨"CAN_NBT", 0x5013000004, [(16, 0x100)], 4, 0x0,
    [⟨CAN_NBT.BRP, .rw⟩, ⟨CAN_NBT.TSEG1, .rw⟩, ⟨CAN_NBT.TSEG2, .rw⟩, ⟨CAN_NBT.SJW, .rw⟩]⟩,
  ⟨"CAN_DBT", 0x5013000008, [(16, 0x100)], 4, 0x0,
    [⟨CAN_DBT.BRP, .rw⟩, ⟨CAN_DBT.TSEG1, .rw⟩, ⟨CAN_DBT.TSEG2, .rw⟩, ⟨CAN_DBT.SJW, .rw⟩]⟩,
  ⟨"CAN_STATUS", 0x501300000c, [(16, 0x100)], 4, 0x0,
    [⟨CAN_STATUS.TEC, .ro⟩, ⟨CAN_STATUS.REC, .ro⟩, ⟨CAN_STATUS.STATE, .ro⟩]⟩,
  ⟨"CAN_RX_BASE_LO", 0x5013000010, [(16, 0x100)], 4, 0x0,
    [⟨CAN_RX_BASE_LO.ADDR, .rw⟩]⟩,
  ⟨"CAN_RX_BASE_HI", 0x5013000014, [(16, 0x100)], 4, 0x40000,
    [⟨CAN_RX_BASE_HI.LOG2, .rw⟩, ⟨CAN_RX_BASE_HI.ADDR, .rw⟩]⟩,
  ⟨"CAN_RX_PROD", 0x5013000018, [(16, 0x100)], 4, 0x0,
    [⟨CAN_RX_PROD.INDEX, .ro⟩]⟩,
  ⟨"CAN_RX_HEAD", 0x501300001c, [(16, 0x100)], 4, 0x0,
    [⟨CAN_RX_HEAD.INDEX, .rw⟩]⟩,
  ⟨"CAN_TX_TAIL", 0x5013000020, [(16, 0x100)], 4, 0x0,
    [⟨CAN_TX_TAIL.OFFSET, .rw⟩]⟩,
  ⟨"CAN_TX_HEAD", 0x5013000024, [(16, 0x100)], 4, 0x0,
    [⟨CAN_TX_HEAD.OFFSET, .ro⟩]⟩,
  ⟨"CAN_WAKE_ID", 0x5013000028, [(16, 0x100)], 4, 0x0,
    [⟨CAN_WAKE_ID.ID, .rw⟩]⟩,
  ⟨"CAN_WAKE_MASK", 0x501300002c, [(16, 0x100)], 4, 0x0,
    [⟨CAN_WAKE_MASK.MASK, .rw⟩]⟩,
  ⟨"CAN_RX_DROPS", 0x5013000030, [(16, 0x100)], 4, 0x0,
    [⟨CAN_RX_DROPS.COUNT, .ro⟩]⟩,
  ⟨"CAN_ROUTE_SKIPS", 0x5013000034, [(16, 0x100)], 4, 0x0,
    [⟨CAN_ROUTE_SKIPS.COUNT, .ro⟩]⟩,
  ⟨"CAN_GW_DROPS", 0x5013000038, [(16, 0x100)], 4, 0x0,
    [⟨CAN_GW_DROPS.COUNT, .ro⟩]⟩]

/-- GPIO registers. -/
def regTable31_0 : List RegSpec := [
  ⟨"GPIO_DIR_LO", 0x50f0010000, [], 4, 0x0,
    [⟨GPIO_DIR_LO.DIR, .rw⟩]⟩,
  ⟨"GPIO_DIR_HI", 0x50f0010004, [], 4, 0x0,
    [⟨GPIO_DIR_HI.DIR, .rw⟩]⟩,
  ⟨"GPIO_OUT_LO", 0x50f0010008, [], 4, 0x0,
    [⟨GPIO_OUT_LO.OUT, .rw⟩]⟩,
  ⟨"GPIO_OUT_HI", 0x50f001000c, [], 4, 0x0,
    [⟨GPIO_OUT_HI.OUT, .rw⟩]⟩,
  ⟨"GPIO_IN_LO", 0x50f0010010, [], 4, 0x0,
    [⟨GPIO_IN_LO.IN, .ro⟩]⟩,
  ⟨"GPIO_IN_HI", 0x50f0010014, [], 4, 0x0,
    [⟨GPIO_IN_HI.IN, .ro⟩]⟩]

/-- Registers outside the tables. -/
def regTable32_0 : List RegSpec := [
  ⟨"ACC_DENY_COUNT", 0x5014043000, [], 4, 0,
    [⟨ACC_DENY_COUNT.COUNT, .rc⟩]⟩,
  ⟨"TILE_CODE_MAP", 0x5003000070, [(192, 0x10000)], 4, 0,
    [⟨TILE_CODE_MAP.MAP, .rw⟩]⟩]

/-- Every register of the part. -/
def regTable : List RegSpec :=
  regTable0_0 ++
  regTable1_0 ++
  regTable2_0 ++
  regTable3_0 ++
  regTable4_0 ++
  regTable5_0 ++
  regTable6_0 ++
  regTable7_0 ++
  regTable8_0 ++
  regTable9_0 ++
  regTable10_0 ++
  regTable11_0 ++
  regTable12_0 ++
  regTable13_0 ++
  regTable14_0 ++
  regTable15_0 ++
  regTable15_1 ++
  regTable16_0 ++
  regTable17_0 ++
  regTable18_0 ++
  regTable19_0 ++
  regTable20_0 ++
  regTable21_0 ++
  regTable22_0 ++
  regTable23_0 ++
  regTable24_0 ++
  regTable25_0 ++
  regTable26_0 ++
  regTable27_0 ++
  regTable28_0 ++
  regTable29_0 ++
  regTable29_1 ++
  regTable30_0 ++
  regTable31_0 ++
  regTable32_0

end Sys2Proof.Machine
end

