-- ==== Sys2Proof/Machine/State.lean ====
section
/-!
DEFINITION. The state of the part: its registers, its memories, and what its units hold between two commands;
the queue of waiting commands; the reset state; the reasons a command can stop.
Every structure gives its reset value field by field.  Where the spec gives none the value is empty or zero
(DESIGN CHOICE, log 1).
-/

namespace Sys2Proof.Machine

/-- A table by number: entries in rising order of their key, an absent key standing for the table's default. -/
abbrev AMap (α : Type) := List (Nat × α)

/-- The registers that differ from their reset value, by address. -/
abbrev RegFile := AMap W64

/-- The memories of the part: the bytes that are not zero, by physical address, in rising order. -/
abbrev Memory := List Host.Cell

/-! ### Slices (02) -/

/-- The resources of a slice, fixed when it is created (R28, R31). -/
structure Slice where
  ceiling : Nat
  pasid : Nat
  tiles : List Nat
  segments : List Nat
  syncBase : Nat
  syncCount : Nat
  rings : Nat
  bwShare : Nat
  sust : Nat
  peak : Nat
  extents : List (Nat × Nat)
  /-- Functions refused with DISABLED (R53). -/
  disabled : Nat := 0
  /-- Bytes 32 to 191 of the SLICE_CREATE payload or template it was created from (R391). -/
  payload : List Byte := []
  /-- SLICE_DESTROY has stopped its rings and retired its event ring (R56). -/
  retired : Bool := false
  deriving DecidableEq, Repr

/-- A drain of functions in progress (R53, R54). -/
structure Drain where
  slice : Nat
  mask : Nat
  /-- The functions it drains itself; an earlier drain covers the others. -/
  own : Nat
  /-- Device time at which the work still in flight is aborted. -/
  deadline : Nat
  aborted : Nat := 0
  timedOut : Bool := false
  /-- The packet that started the drain, and the packets that joined it. -/
  packet : Nat
  joined : List Nat := []
  /-- ENABLE packets that take effect when the drain ends: each with the functions it named of this drain. -/
  enables : List (Nat × Nat) := []
  deriving DecidableEq, Repr

/-- A SLICE_DESTROY in progress (R56). -/
structure Destroy where
  slice : Nat
  packet : Nat
  joined : List Nat := []
  invalidate : Bool
  /-- Nothing of the slice is in flight any more: its pages are being returned. -/
  drained : Bool := false
  deriving DecidableEq, Repr

/-- The dirty-page log of a slice (R49). -/
structure DirtyLog where
  bitmap : Nat
  length : Nat
  deriving DecidableEq, Repr

/-! ### Packets and rings (03) -/

/-- Where a packet stands between its fetch and its reply. -/
inductive Phase where
  /-- Fetched, at the head of its ring, not started. -/
  | fetched
  /-- Handed to its engine, or placed on the firmware queue. -/
  | started
  /-- Its effect is running: a fence, a wait, a job, a drain. -/
  | running
  /-- Its outcome stands: status, result word, detail word. -/
  | done (status : Nat) (result : W64) (detail : W64)
  deriving DecidableEq, Repr

/-- A packet that the part holds a copy of (R64). -/
structure Packet where
  id : Nat
  slice : Nat
  ring : Nat
  bytes : List Byte
  phase : Phase := .fetched
  /-- The status of the first header check that failed (R72). -/
  verdict : Option Nat := none
  /-- The header wait has been met by some value of the object (R83). -/
  waitMet : Bool := false
  /-- Its completion ring entry is reserved. -/
  reserved : Bool := false
  /-- Its place among the packets its ring has fetched. -/
  nth : Nat := 0
  /-- Device time since which the head is ready (R67). -/
  readySince : Option Nat := none
  /-- For a FENCE, the packets it still waits for (R77); for a SYNC_WAIT, unused. -/
  waitsFor : List Nat := []
  /-- Bits of the entries met at the update that released a SYNC_WAIT (R79). -/
  released : Option W64 := none
  /-- An object of the packet's wait carries the error bit (R84). -/
  dependency : Bool := false
  /-- The firmware has taken it (R70), and its commit entry stands in the journal (R88). -/
  taken : Bool := false
  committed : Bool := false
  /-- Completed with FW_RESTARTED (R90). -/
  restarted : Bool := false
  deriving DecidableEq, Repr

/-- What a ring holds beside its registers. -/
structure Ring where
  /-- The tail of R65: the last tail index taken. -/
  tail : Nat := 0
  /-- Packets fetched. -/
  fetched : Nat := 0
  deriving DecidableEq, Repr

/-! ### Error collector (12) -/

/-- An error record before it is written (R332). -/
structure ErrRec where
  severity : Nat
  cause : Nat
  source : Nat
  unit : Nat := 0
  master : Nat := 0xFF
  slice : Nat := 0
  world : Nat := 0
  target : Nat := 0x3F
  time : Nat := 0
  addr : Nat := 0
  /-- DETAIL; none where the spec gives the record none: the word is then a free value (log 35). -/
  detail : Option Nat := none
  deriving DecidableEq, Repr

/-- A codeword some of whose stored bits differ from what was written: which, as 14 numbers them; and whether its check bits
agree with its data all the same, having been formed over them (R368). -/
structure BadWord where
  err : Nat
  agrees : Bool := false
  deriving DecidableEq, Repr

/-- A write of MEM_ECC_BASE_r or MEM_ECC_LIMIT_r that waits: the requests accepted before it are those below `mark`
(R365). -/
structure EccWrite where
  region : Nat
  limit : Bool
  value : Nat
  mark : Nat
  deriving DecidableEq, Repr

/-- The live lost count of a source (R333). -/
structure Lost where
  count : Nat := 0
  first : Nat := 0
  last : Nat := 0
  deriving DecidableEq, Repr

/-- What the error collector holds beside its registers. -/
structure Collector where
  held : List ErrRec := []
  lost : AMap Lost := []
  episode : Nat := 0
  /-- A severity 2 or 3 record was lost in this command and the safe-state entry it calls for is due (R333). -/
  safetyDue : Bool := false
  /-- Device time of the first severity 2 or 3 record lost. -/
  safetyFirst : Nat := 0
  deriving DecidableEq, Repr

/-! ### Memory system (14) -/

/-- A request on its way to a channel. -/
structure DramReq where
  id : Nat
  master : Nat
  tag : Nat
  world : Nat
  cls : Nat
  addr : Nat
  len : Nat
  write : Bool
  data : List Byte := []
  since : Nat := 0
  /-- Its number among the requests that Millrace has accepted: its age (R373, R378, R380). -/
  seq : Nat := 0
  deriving DecidableEq, Repr

/-- A zero-fill in progress (R372): its block, the slice and class it is charged to, and the requests that wait. -/
structure Fill where
  block : Nat
  slice : Nat
  cls : Nat
  waiting : List DramReq := []
  deriving DecidableEq, Repr

/-- What a Millrace scheduler keeps of its window and its banks (R380, R382): Safety tokens, each slice's tokens, the
open row of each bank of each sub-channel, the row hits taken in a row on a bank while another request to it waits, and
the row run in progress: its bank, its row and its sectors. -/
structure Millrace where
  reserve : Nat := 0
  tokens : AMap Nat := []
  rows : AMap Nat := []
  hits : AMap Nat := []
  run : Option (Nat × Nat × Nat) := none
  deriving DecidableEq, Repr

/-- An arbiter (R383 to R388): its grants so far, its last winner, the transfer in progress with its class and whether it
is protected, requesters whose transfer was taken from them, those in a LONG_WAIT episode, and each requester's counts. -/
structure Arbiter where
  decided : Nat := 0
  last : Nat := 0
  running : Option (Nat × Nat × Bool) := none
  stopped : List Nat := []
  long : List Nat := []
  grants : AMap Nat := []
  waits : AMap Nat := []
  longest : AMap Nat := []
  deriving DecidableEq, Repr

/-- How a request to the part's mesh was answered. -/
inductive ReplyStatus where
  | value
  /-- The data as read, marked uncorrectable (R367). -/
  | marked
  | busError
  | retry
  /-- Completer Abort and Unsupported Request, to a host (R442, R445). -/
  | aborted
  | unsupported
  deriving DecidableEq, Repr

/-- The last answer a master has had. -/
structure Reply where
  id : Nat
  status : ReplyStatus
  data : List Byte
  deriving DecidableEq, Repr

/-- A write the part has posted on the mesh to a target that is not a memory: its master, tag, address, bytes. -/
structure Posted where
  master : Nat
  tag : Nat
  addr : Nat
  data : List Byte
  deriving DecidableEq, Repr

/-- Who waits for a sync object beside the rings. -/
inductive Waiter where
  | tile (n : Nat)
  | engine (unit group : Nat)
  | checkpoint (channel : Nat)
  | pose (ctx : Nat)
  deriving DecidableEq, Repr

/-- A wait of a unit, released by any value the object holds (R83). -/
structure UnitWait where
  who : Waiter
  obj : Nat
  threshold : Nat
  met : Bool := false
  err : Bool := false
  deriving DecidableEq, Repr

/-! ### Sluice (15) -/

/-- The profile's budgets (R413), with the default profile's values. -/
structure Budget where
  sust : Nat := 440
  peak : Nat := 540
  base : Nat := 36
  reserve : Nat := 40
  aleReserve : Nat := 6
  wakeUnits : Nat := 8
  staggerUs : Nat := 4
  copyUnits : Nat := 8
  eMax : Nat := 44000
  defaultTimeoutUs : Nat := 10000
  offGapUs : Nat := 20000
  sustMin : Nat := 240
  targetC : Nat := 105
  emergC : Nat := 118
  kp : Nat := 0x41000000
  ki : Nat := 0x3D4CCCCD
  shed : Nat := 0
  /-- Standing grants: units and kind. -/
  standing : List (Nat × Nat) := []
  deriving DecidableEq, Repr

/-- Who asks Sluice (R400). -/
inductive Asker where
  | wake (group : Nat)
  | job (id : Nat)
  | pass (id : Nat)
  | test (tile : Nat)
  | golden (group : Nat)
  | copy (packet : Nat)
  deriving DecidableEq, Repr

/-- One part of a request or one grant: who, how many units, charged to which slice. -/
structure Units where
  who : Asker
  units : Nat
  slice : Option Nat
  /-- Units drawn from the Safety reserve; only a grant of class 0 has any. -/
  reserve : Nat := 0
  cls : Nat
  /-- The number of the request that it was granted with (R402). -/
  req : Nat := 0
  deriving DecidableEq, Repr

/-- A request that waits: its parts are granted together or not at all. -/
structure SluiceReq where
  id : Nat
  cls : Nat
  parts : List Units
  since : Nat
  deadline : Nat
  deriving DecidableEq, Repr

/-- What Sluice keeps (R401). -/
structure Sluice where
  grants : List Units := []
  waiting : List SluiceReq := []
  nextId : Nat := 0
  /-- The bucket E in unit·µs. -/
  bucket : Nat := 0
  /-- Standing grants are counted (from step 11 of the start). -/
  standing : Bool := false
  deriving DecidableEq, Repr

/-! ### Safety outputs and the safe state (11) -/

/-- A safety output (R285, R286). -/
structure Output where
  slice : Nat
  group : Nat
  shadow : Bool
  /-- ARM of its OUTPUT_SET, and whether its watch is armed now (R298, R308). -/
  arm : Bool
  armed : Bool
  period : Nat
  first : Nat
  /-- The number of the current deadline D_k, and whether its window is met. -/
  k : Nat := 0
  met : Bool := false
  /-- The island's own copy of the Weir profile (R286). -/
  profile : List Byte
  recBase : Nat
  recLog2 : Nat
  signalObj : Nat
  sequence : Nat := 0
  /-- A deadline was missed and the group has not been released since (R296). -/
  missed : Bool := false
  takenOver : Bool := false
  deriving DecidableEq, Repr

/-- The configuration of the safe-state message (R286, MESSAGE_SET). -/
structure MessageCfg where
  can : Nat
  canEn : Bool
  ethEn : Bool
  canId : Nat
  destMac : Nat
  vlan : Nat
  ports : Nat
  repeatMs : Nat
  key : Nat
  deriving DecidableEq, Repr

/-- TELLTALE_SET of a pipe (R307). -/
structure Telltale where
  group : Nat
  enabled : Bool
  limit : Nat
  count : Nat := 0
  deriving DecidableEq, Repr

/-- Where the part sends something that leaves it. -/
inductive Wire where
  | can (controller id : Nat) (ide : Bool)
  | eth (port : Nat)
  | usb (port : Nat)
  | twin
  | host (port vector : Nat)
  /-- ERR_NONFATAL to the host of a port (R445). -/
  | aer (port : Nat)
  | gpio (pin : Nat)
  | trigger (n : Nat)
  | spi (controller select : Nat)
  deriving DecidableEq, Repr

/-- Something the part has sent. -/
structure Sent where
  wire : Wire
  data : List Byte
  deriving DecidableEq, Repr

/-- The safe-state side of the island. -/
structure SafeUnit where
  outputs : AMap Output := []
  message : Option MessageCfg := none
  messages : Nat := 0
  nextRepeat : Nat := 0
  telltales : AMap Telltale := []
  /-- SAFE_N[3:0] as levels: bit f set while the pin is asserted, low (R300). -/
  pins : Nat := 0xF
  deriving DecidableEq, Repr

/-! ### Tiles (04) and Rills (05) -/

/-- A loop level of a tile's program: where its body starts, its count, the iteration it is in, and the signed
increments of DST, SRC_A and SRC_B in units of 64 bytes. -/
structure LoopLevel where
  start : Nat
  count : Nat
  index : Nat := 0
  incDst : Int
  incA : Int
  incB : Int
  deriving DecidableEq, Repr

/-- An operand of a queued instruction: its kind and its value, loop increments applied (R118). -/
structure Operand where
  kind : Nat
  val : Int
  deriving DecidableEq, Repr

/-- A decoded instruction in a unit queue: its bytes, its index, and its resolved operands. -/
structure TileIns where
  bytes : List Byte
  pc : Nat
  dst : Operand
  a : Operand
  b : Operand
  c : Operand
  deriving DecidableEq, Repr

/-- A part of a Rill's output stream: bytes it knows, or a range of memory it will fetch. -/
inductive Seg where
  | lit (b : List Byte)
  | mem (addr len : Nat)
  deriving DecidableEq, Repr

/-- Where a fetched line's bytes go: a delivery, an offset in it, and the bytes' address and number. -/
structure Target where
  deliv : Nat
  off : Nat
  addr : Nat
  len : Nat
  deriving DecidableEq, Repr

/-- A line request of a Rill: outstanding, or waiting in the tile queue (R145), or not yet issued because the
Rill has 32 outstanding. -/
inductive ReqPlace where
  | held
  | queued
  | issued
  deriving DecidableEq, Repr

structure LineReq where
  line : Nat
  targets : List Target
  place : ReqPlace
  desc : Nat
  /-- Its turn in the tile queue. -/
  stamp : Nat := 0
  /-- The item at work asked for the line: pointers, keys, points. -/
  steer : Bool := false
  deriving DecidableEq, Repr

/-- A write of a Rill on its way: bytes stored, or 4-byte elements added (R139); its delivery, and its place in it. -/
structure RillWrite where
  addr : Nat
  data : List Byte
  op : Nat
  deliv : Nat
  off : Nat := 0
  place : ReqPlace
  desc : Nat
  /-- Its turn in the tile queue. -/
  stamp : Nat := 0
  deriving DecidableEq, Repr

/-- A delivery in a pool (R131): its number, its descriptor, who consumes or produces it, its bound entry, its bytes,
and how many of them the stream has reached, or in the write direction drained. -/
structure Deliv where
  no : Nat
  desc : Nat
  write : Bool
  consumer : Nat
  tag : Option Nat
  data : List Byte
  assigned : Nat
  /-- The first of its lines in the pool's ring of 128 (R131). -/
  line : Nat := 0
  /-- Counted in RILL_DELIVERIES. -/
  counted : Bool := false
  deriving DecidableEq, Repr

/-- The descriptor a Rill works on. -/
structure RillCur where
  bytes : List Byte
  desc : Nat
  /-- The number of its first delivery, and how many it has reserved or received. -/
  first : Nat
  made : Nat := 0
  /-- Items processed, and the second position of SET_INTERSECT. -/
  item : Nat := 0
  item2 : Nat := 0
  /-- The item at work, once taken, and the lines read for it. -/
  work : Option Nat := none
  lines : List (Nat × List Byte) := []
  /-- Stream bytes generated, and stream bytes assigned to deliveries (or drained from them). -/
  gen : Nat := 0
  fill : Nat := 0
  segs : List Seg := []
  /-- Write direction: memory ranges the stream goes to, in order; a part with no address is dropped. -/
  dest : List (Option Nat × Nat) := []
  count : Nat := 0
  deriving DecidableEq, Repr

/-- A descriptor whose requests have not all completed. -/
structure RillDesc where
  desc : Nat
  write : Bool
  doneTag : Option Nat
  countDst : Option Nat
  count : Nat := 0
  /-- Every request has been issued. -/
  issued : Bool := false
  deriving DecidableEq, Repr

/-- A Rill stream engine (R124 to R149). -/
structure Rill where
  en : Bool := false
  base : Nat := 0
  desc : Nat := 0
  ended : Bool := false
  cur : Option RillCur := none
  delivs : List Deliv := []
  nextDeliv : Nat := 0
  /-- The line of the ring that the next delivery begins at (R131). -/
  nextLine : Nat := 0
  reqs : List LineReq := []
  writes : List RillWrite := []
  undone : List RillDesc := []
  /-- The 8 lines most recently returned (R146). -/
  recent : List (Nat × List Byte) := []
  /-- Bytes of the head delivery that a consuming Rill has taken (R136). -/
  taken : Nat := 0
  deriving DecidableEq, Repr

/-- A tile's wait for a sync object (R119). -/
structure TileWait where
  obj : Nat
  threshold : Nat
  tag : Option Nat
  pc : Nat
  deriving DecidableEq, Repr

/-- What a tile holds beside its memory and registers (R91, R116 to R123). -/
structure Tile where
  job : Option Nat := none
  jobTile : Nat := 0
  slice : Nat := 0
  cls : Nat := 3
  model : Nat := 0
  codeOfs : Nat := 0
  codeCount : Nat := 0
  pc : Nat := 0
  ended : Bool := false
  loops : List LoopLevel := []
  /-- Filled blocks of the instruction buffer, and blocks asked for. -/
  ibuf : AMap (List Byte) := []
  wanted : List Nat := []
  /-- Scoreboard entries that are not FREE: 1 PENDING, 2 READY. -/
  board : AMap Nat := []
  arrayQ : List TileIns := []
  vectorQ : List TileIns := []
  moveQ : List TileIns := []
  /-- Issued instructions whose results are not yet visible: unit and SET_TAG. -/
  executing : List (Nat × Option Nat) := []
  waits : List TileWait := []
  lastDecoded : Nat := 0
  /-- Device time of the last progress (R123). -/
  progress : Nat := 0
  /-- A fault found and not yet recorded: its code and index. -/
  faulting : Option (Nat × Nat) := none
  /-- Accumulators that are not zero, at 64 × array + 8r + c. -/
  accs : AMap W32 := []
  /-- Bytes of the vector registers that are not zero, at 128 × register. -/
  vregs : Memory := []
  rills : AMap Rill := []
  deriving DecidableEq, Repr, Inhabited

/-! ### Group engines (06) -/

/-- A direct engine, a Nougat engine or a crop-and-resize unit at work for a job (R160 to R178). -/
structure Engine where
  job : Option Nat := none
  slice : Nat := 0
  cls : Nat := 3
  model : Nat := 0
  /-- Image offset of the list, and the index of the current descriptor. -/
  list : Nat := 0
  desc : Nat := 0
  /-- The list has a descriptor that is not done. -/
  active : Bool := false
  /-- The current descriptor has started. -/
  busy : Bool := false
  /-- Its bytes, relocations applied, while it runs; the shape judged at its start (height and width, or boxes kept and
  boxes asked for); whether it is empty (R155). -/
  bytes : List Byte := []
  shape : Nat × Nat := (0, 0)
  void : Bool := false
  /-- The restart point: output row, or box, and row segment (R173). -/
  row : Nat := 0
  seg : Nat := 0
  /-- Relocations of kind 1: image offset of a field and the address added to it. -/
  relocs : List (Nat × Nat) := []
  /-- The first empty descriptor, and the bases of the empty tensors it and later ones made (R155). -/
  firstEmpty : Option Nat := none
  empties : List Nat := []
  deriving DecidableEq, Repr

/-! ### Models (07) -/

/-- A variant of a model (R185), with the list offsets of its engines, group by group of the placement. -/
structure Variant where
  tiles : Nat
  first : Nat
  units : Nat
  wcetUs : Nat
  program : Nat
  reloc : Nat
  relocs : Nat
  empty : Nat
  engines : List (Nat × Nat × Nat)
  deriving DecidableEq, Repr

/-- An entry of the model registry (R190), with the segments its hot region holds while resident, and what the part
keeps of the image's header. -/
structure Model where
  slice : Nat
  pinned : Bool := false
  resident : Bool := false
  streaming : Bool := false
  safety : Bool := false
  unregistering : Bool := false
  /-- Its hot region is on its way into its segments. -/
  loading : Bool := false
  /-- MODEL_EVICT waits for the jobs that hold tiles (R196). -/
  evicting : Bool := false
  /-- Ring and SEQUENCE of the packets answered DEFERRED. -/
  deferred : List (Nat × Nat) := []
  /-- Packets that complete when the load does. -/
  loadFor : List Nat := []
  /-- Segments the hot region needs, and those that hold it, in image order. -/
  need : Nat
  segs : List Nat := []
  image : Nat
  imageBytes : Nat
  hotBytes : Nat
  lastInvoked : Nat := 0
  invocations : Nat := 0
  verified : Nat := 0
  hash : List Byte
  variants : List Variant := []
  /-- MIN_LEN of each binding. -/
  minLen : List Nat := []
  deriving DecidableEq, Repr

/-! ### Jobs (07, 11) -/

/-- Where a job stands. -/
inductive JobPhase where
  /-- In the scheduler's queue, never dispatched. -/
  | queued
  /-- Holding tiles while its models load. -/
  | loading
  | running
  /-- Stopped by a pre-emption, its save under way. -/
  | saving
  | saved
  /-- Holding tiles while its save area is read back. -/
  | restoring
  /-- Both channels have ended; Weir has not decided. -/
  | weir
  deriving DecidableEq, Repr

/-- One placement of a job: the only one of a JOB_RUN, or a channel of a JOB_RUN_DIVERSE. -/
structure Chan where
  model : Nat
  variant : Nat
  /-- First tile and tile count of the placement. -/
  first : Nat
  tiles : Nat
  units : Nat
  ioTable : Nat
  /-- BASE and LENGTH of each binding. -/
  bindings : List (Nat × Nat) := []
  /-- Status and detail word, once the channel has ended. -/
  ended : Option (Nat × Nat) := none
  sat : Bool := false
  nan : Bool := false
  streamed : Bool := false
  /-- It holds its tiles, since this device time. -/
  holding : Bool := false
  since : Nat := 0
  runNs : Nat := 0
  deriving DecidableEq, Repr

/-- What a job is for: a JOB_RUN packet, a JOB_RUN_DIVERSE packet with its output and times, a golden run of an entry. -/
inductive JobKind where
  | run
  | diverse (output validity oldest : Nat)
  | golden (entry group : Nat)
  deriving DecidableEq, Repr

/-- A job (R179, R198).  Its number is its packet's. -/
structure Job where
  id : Nat
  kind : JobKind
  slice : Nat
  ring : Nat
  seq : Nat
  cls : Nat
  seed : Nat
  ioCount : Nat
  release : Option Nat
  /-- Its place of arrival at the scheduler. -/
  arrival : Nat
  chans : List Chan
  saveBase : Nat := 0
  timeoutUs : Nat := 0
  phase : JobPhase := .queued
  /-- A pre-emption was asked for, with its cause (R210, R203). -/
  wanted : Option Nat := none
  /-- The cause of the pre-emption under way. -/
  cause : Nat := 0
  /-- JOB_PREEMPT packets that wait for the save, each with its HOLD_US. -/
  waiters : List (Nat × Nat) := []
  /-- It may not dispatch before this device time (R210). -/
  hold : Option Nat := none
  preempts : Nat := 0
  /-- What kept it from starting last (R215: 0 tiles, 1 Sluice, 2 wake, 3 load). -/
  delay : Nat := 0
  late : Bool := false
  quality : Nat := 0
  deriving DecidableEq, Repr

/-- A pending release (R201): a fetched packet that waits at its ring's head. -/
structure PendingRel where
  packet : Nat
  slice : Nat
  cls : Nat
  release : Nat
  tiles : List Nat
  engines : List Nat
  units : Nat
  timeoutUs : Nat
  /-- Release mode 3: its ring, its predecessor and its offset; and whether the release has moved earlier (R204). -/
  ring : Nat := 0
  pred : Option Nat := none
  offset : Nat := 0
  moved : Bool := false
  deriving DecidableEq, Repr

/-- A JOB_RUN that has completed, or is in flight, for release mode 3: the packet's number on its ring, and its predicted
or actual end. -/
structure JobPast where
  slice : Nat
  ring : Nat
  seq : Nat
  nth : Nat
  finish : Nat
  deriving DecidableEq, Repr

/-- What the SEQUENCER and RILL_STATE bytes of a tile's save block stand for, whose layout R207 does not give: the tile's
state, its LFSR, SAT and NAN_SEEN as in TILE_STATUS, and, of the engines its job claims in its group, what the cursors do not
say, with their LFSR. -/
structure SaveTile where
  tile : Tile
  lfsr : Nat
  status : Nat
  engines : List (Nat × Engine × Nat)
  deriving DecidableEq, Repr, Inhabited

/-! ### Confluence (08) -/

/-- A frame or sweep of a stream from its edge until nothing more of it can come (R218, R225, R232). -/
structure FuseFrame where
  edge : Nat
  validity : Nat
  /-- The number of its data buffer. -/
  buf : Nat
  /-- CAMERA: the rows received. -/
  rows : AMap (List Byte) := []
  /-- LIDAR: points stored. -/
  points : Nat := 0
  /-- The earliest validity among its data. -/
  oldest : Option Nat := none
  /-- Its data is complete. -/
  ended : Bool := false
  /-- Its record is published. -/
  published : Bool := false
  /-- Its record was published at the cut-off, before its data was complete. -/
  cut : Bool := false
  /-- The stream whose late data calls for a revision of a published record. -/
  lateBy : Option Nat := none
  quality : Nat := 0
  /-- SEQUENCE of its latest record. -/
  seq : Nat := 0
  /-- IMU: the bytes of a sample that came after the cut-off. -/
  raw : List Byte := []
  deriving DecidableEq, Repr

/-- What is kept of a published frame that no revision can reach any more: its validity and its record's SEQUENCE
(R225, R233, R238). -/
structure PastFrame where
  validity : Nat
  seq : Nat
  deriving DecidableEq, Repr

/-- Lidar points with one time: their validity, the time quality at their arrival, and their x, y, z as FP32 patterns. -/
structure PointSet where
  validity : Nat
  arrived : Nat
  quality : Nat
  points : List (Nat × Nat × Nat)
  deriving DecidableEq, Repr

/-- An open stream (R219). -/
structure FuseStream where
  slice : Nat
  /-- The 256 bytes of its packet; POLICY 3 changes REVISABLE and LATE_LIMIT in them. -/
  desc : List Byte
  opened : Nat
  /-- Packets that wait for the stream to close. -/
  closing : List Nat := []
  frames : List FuseFrame := []
  past : List PastFrame := []
  /-- Frames begun, for the choice of buffer. -/
  begun : Nat := 0
  sequence : Nat := 0
  dropped : Nat := 0
  /-- Validity and revision of the latest record. -/
  last : Option (Nat × Nat) := none
  /-- INJECT: descriptors taken. -/
  taken : Nat := 0
  /-- LIDAR: points kept for the depth planes. -/
  kept : List PointSet := []
  deriving DecidableEq, Repr

/-- A pose of the vehicle frame: x, y, z, roll, pitch, yaw as FP32 patterns, and the flags it brings. -/
structure Pose where
  v : List Nat
  degraded : Bool := false
  extrapolated : Bool := false
  deriving DecidableEq, Repr

/-- A contribution on its way into L1 or L2 (R221, R228). -/
structure Contrib where
  stream : Nat
  validity : Nat
  oldest : Nat
  seq : Nat
  data : Nat
  items : Nat
  /-- Detections for the tracker; else items for the stream's grid. -/
  l2 : Bool
  arrived : Nat
  quality : Nat
  /-- The pose it was aligned with when ALIGN_WAIT ran out. -/
  pose : Option Pose := none
  deriving DecidableEq, Repr

/-- An alignment context (R223). -/
structure AlignCtx where
  slice : Nat
  base : Nat
  log2 : Nat
  obj : Nat
  extrap : Nat
  wait : Nat
  deriving DecidableEq, Repr

/-- The largest confidence of one kind in a cell: its value, stream, sequence and validity. -/
structure CellConf where
  value : Nat
  stream : Nat
  seq : Nat
  validity : Nat
  deriving DecidableEq, Repr

/-- A grid cell during and after its cycle: items, accumulated channels, and the two confidences of OCCUPANCY. -/
structure GridCell where
  count : Nat := 0
  vals : List Nat := []
  occ : Option CellConf := none
  free : Option CellConf := none
  deriving DecidableEq, Repr

/-- What a level keeps of its cycles (R228, R234). -/
structure Cycle where
  sequence : Nat := 0
  /-- V of the latest cycle, of the one before it, and the buffer and revision of the latest. -/
  v : Option Nat := none
  before : Option Nat := none
  buf : Nat := 0
  revision : Nat := 0
  inputs : List Contrib := []
  dropped : Nat := 0
  /-- Validity times of contributions dropped as late, at or after V. -/
  missed : List Nat := []
  deriving DecidableEq, Repr

/-- An L1 grid (R226). -/
structure Grid where
  slice : Nat
  /-- Bytes 32 to 127 of its FUSE_POLICY. -/
  policy : List Byte
  cycle : Cycle := {}
  cells : AMap GridCell := []
  degraded : Bool := false
  extrapolated : Bool := false
  deriving DecidableEq, Repr

/-- A track of L2 (R227, R231): state and covariance as FP32 patterns. -/
structure Track where
  x : List Nat
  p : List Nat
  /-- Validity that the state stands at, and that of the last update. -/
  stands : Nat
  updated : Nat
  seq : Nat
  lastStream : Nat
  lastOldest : Nat
  hits : Nat
  misses : Nat := 0
  confirmed : Bool := false
  partner : Option Nat := none
  cls : Nat
  conf : Nat
  /-- The highest time quality at the arrival of a contribution applied to it. -/
  quality : Nat := 0
  deriving DecidableEq, Repr

/-- The tracker (R227). -/
structure Tracker where
  slice : Nat
  /-- Bytes 32 to 127 of its FUSE_POLICY. -/
  policy : List Byte
  cycle : Cycle := {}
  tracks : AMap Track := []
  /-- Its tracks before its latest cycle. -/
  snapshot : AMap Track := []
  /-- The slots given (true) and freed (false) so far, newest first, and those before its latest cycle. -/
  slots : List (Bool × Nat) := []
  slotsBefore : List (Bool × Nat) := []
  deriving DecidableEq, Repr

/-- What Confluence holds beside its registers. -/
structure Confluence where
  streams : AMap FuseStream := []
  contexts : AMap AlignCtx := []
  grids : AMap Grid := []
  tracker : Option Tracker := none
  /-- Contributions that wait for their cycle, and those that are late for one and may revise it. -/
  waiting : List Contrib := []
  late : List Contrib := []
  deriving DecidableEq, Repr

/-! ### Acoustic loop engine (09) -/

/-- A checked loop parameter block that waits in the load bank: its 256 bytes of fields, its arrays, and the frame it was
checked in (R250). -/
structure AleLoad where
  params : List Byte
  w : List (List Int)
  shat : List (List Int)
  h : List (List Int)
  frame : Nat
  deriving DecidableEq, Repr

/-- A captured sample: the frame it was taken in, whether a 1722 sample is missing or a divergence fell in it, and the time
quality. -/
structure SampleMark where
  frame : Nat
  missing : Bool
  diverged : Bool
  quality : Nat
  deriving DecidableEq, Repr

/-- A running audio ring (R253). -/
structure AleRing where
  desc : List Byte
  /-- The frame in which block 0 begins. -/
  first : Nat
  /-- Capture: the block being filled.  Playback: the next block to start. -/
  block : Nat := 0
  /-- Capture: bytes of the samples taken and not yet written.  Playback: bytes still to play. -/
  data : List Byte := []
  marks : List SampleMark := []
  /-- Playback: the next block, once fetched. -/
  fetched : Option (List Byte) := none
  deriving DecidableEq, Repr

/-- What the acoustic loop engine holds beside its registers: samples and coefficients are Q1.31 integers, newest sample
first. -/
structure Ale where
  /-- The first 256 bytes of the running parameter block; empty before the first load. -/
  params : List Byte := []
  /-- Control filters at r·S + s, and those of the last load. -/
  w : List (List Int) := []
  w0 : List (List Int) := []
  /-- Secondary paths at s·M + m. -/
  shat : List (List Int) := []
  /-- Beam filters at 16·b + i. -/
  h : List (List Int) := []
  xHist : List (List Int) := []
  /-- Filtered references at (r·S + s)·M + m. -/
  xfHist : List (List Int) := []
  micHist : List (List Int) := []
  bank : Option AleLoad := none
  /-- The frame of the latest edge seen. -/
  frame : Option Nat := none
  /-- Output words by slot code: those of the latest step, and those on the wires. -/
  held : AMap W32 := []
  driven : AMap W32 := []
  /-- Beams of the latest step. -/
  beams : List Int := []
  /-- Consecutive samples above DIV_THRESH, by microphone. -/
  above : List Nat := []
  /-- A divergence found in this frame and not yet acted on. -/
  diverged : Option Nat := none
  /-- The STAT_BLOCK under way: steps, first edge, divergence, quality; and its number. -/
  statSteps : Nat := 0
  statFirst : Nat := 0
  statDiv : Bool := false
  statQuality : Nat := 0
  statSeq : Nat := 0
  rings : AMap AleRing := []
  /-- 1722 samples to come: listener, frame, one word for each channel. -/
  heard : List (Nat × Nat × List W32) := []
  deriving DecidableEq, Repr

/-! ### Fondant and the display pipes (10) -/

/-- Where a pass stands (R266). -/
inductive PassPhase where
  /-- Waiting for its budget or for its turn at the binner. -/
  | ready
  | geometry
  /-- Every primitive binned: ready to render, or rendering. -/
  | render
  deriving DecidableEq, Repr

/-- A GFX_PASS handed to Fondant; its number is its packet's. -/
structure Pass where
  id : Nat
  slice : Nat
  ring : Nat
  seq : Nat
  cls : Nat
  /-- The 256 bytes of its packet. -/
  desc : List Byte
  /-- Its place among the passes started. -/
  order : Nat
  phase : PassPhase := .ready
  began : Nat := 0
  flushes : Nat := 0
  takenOver : Bool := false
  /-- After a flush every attachment loads (R273). -/
  reload : Bool := false
  /-- Bin bytes in use, and entries by screen tile. -/
  bin : Nat := 0
  entries : AMap Nat := []
  /-- Primitives not yet binned, the first of which does not fit: order key, varying vectors, screen tiles touched. -/
  rest : List (List Nat × Nat × List Nat) := []
  /-- Primitives in the bin memory: order key and screen tiles. -/
  held : List (List Nat × List Nat) := []
  deriving DecidableEq, Repr

structure Fondant where
  passes : List Pass := []
  started : Nat := 0
  /-- The pass that renders. -/
  rendering : Option Nat := none
  deriving DecidableEq, Repr

/-- A plane's registers as loaded (R277). -/
structure PlaneCfg where
  addr : Nat := 0
  pitch : Nat := 0
  fmt : Nat := 0xFF00
  pos : Nat := 0
  size : Nat := 0
  deriving DecidableEq, Repr

/-- A pipe: the copy its registers were loaded to, and the region set that the current frame uses (R280). -/
structure Pipe where
  pclk : Nat := 0
  hTiming : Nat := 0
  hSync : Nat := 0
  vTiming : Nat := 0
  vSync : Nat := 0
  bg : Nat := 0
  planes : List PlaneCfg := []
  scanning : Bool := false
  crcEn : Nat := 0
  rects : List Nat := []
  /-- Device time of the last frame's end, or of the last finding that none ended (R281). -/
  lastEnd : Nat := 0
  deriving DecidableEq, Repr

/-! ### Golden frames and self-tests (11, 12) -/

/-- An entry of the golden schedule (R309, R310): times in ms, and the island's copy of the descriptor. -/
structure Golden where
  groups : Nat
  interval : Nat
  diag : Nat
  defer : Nat
  desc : List Byte
  deriving DecidableEq, Repr

/-- What the schedule keeps of a group: when its next run falls due, and from when its diagnostic interval counts. -/
structure GoldenGroup where
  due : Nat
  since : Nat
  deriving DecidableEq, Repr

/-- A tile test slice that has begun and is not over (R324). -/
structure TileTest where
  /-- The next step. -/
  step : Nat := 0
  running : Bool := false
  urgent : Bool := false
  began : Nat := 0
  firstFail : Option Nat := none
  deriving DecidableEq, Repr

/-- A SELFTEST_RUN of OP 0 or 1 that waits for its tiles (R327). -/
structure TileRun where
  packet : Nat
  /-- Tiles still to test, ascending. -/
  tiles : List Nat
  group : Bool
  urgent : Bool
  began : Option Nat := none
  firstFail : Option Nat := none
  failed : Nat := 0
  deriving DecidableEq, Repr

structure SelfTest where
  tests : AMap TileTest := []
  runs : List TileRun := []
  /-- Packets that wait for a checker. -/
  checks : List (Nat × Nat) := []
  /-- Start of the tile period under way, and the tiles tested in it. -/
  period : Nat := 0
  tested : List Nat := []
  /-- When each checker's next test is due. -/
  checkDue : AMap Nat := []
  units : Nat := 2
  /-- Periods and units that take effect at the next boundary: tile, checker, diagnostic, units. -/
  next : Option (Nat × Nat × Nat × Nat) := none
  /-- Device time from which passes are counted. -/
  since : Nat := 0
  golden : AMap Golden := []
  goldenGroups : AMap GoldenGroup := []
  deriving DecidableEq, Repr

/-! ### Boot flash, security core, power and start (13, 15) -/

/-- A key of the owner key list (R350): x then y, and its role mask. -/
structure OwnerKey where
  pub : List Byte
  role : Nat
  deriving DecidableEq, Repr

/-- The boot flash (R411) but for the counter area: images with their headers, whole. -/
structure Flash where
  keys : List OwnerKey := []
  /-- The key that signs the list, and its signature. -/
  listKey : List Byte := []
  listSig : List Byte := []
  /-- PUF helper data (R352). -/
  helper : List Byte := []
  profiles : AMap (List Byte) := []
  /-- Images of types 0 to 4 of the firmware bundle. -/
  bundle : AMap (List Byte) := []
  deriving DecidableEq, Repr

/-- A gateway entry (R343) that carries its marker; PARAM_IN and PARAM_OUT in bytes. -/
structure GateEntry where
  entry : Nat
  cls : Nat
  modes : Nat
  callers : Nat
  pin : Nat
  pout : Nat
  deriving DecidableEq, Repr

/-- A request in a mailbox slot (R340), once taken with its copy of the parameter block. -/
structure GateReq where
  hart : Nat
  entry : Nat
  rd : Nat
  /-- x10 and x11. -/
  block : Nat
  len : Nat
  tag : Nat
  cls : Nat
  copy : List Byte := []
  /-- The hart was reset: the reply goes nowhere (R341). -/
  dropped : Bool := false
  deriving DecidableEq, Repr

/-- What only the security core reaches: debug enables, the outstanding challenge, the counter area of the flash,
measurements, keys, and the mailbox. -/
structure Sec where
  /-- SEC_DEBUG: enables, those opened since the cold start, units open (R354, R356). -/
  enables : BitVec 4 := 0
  ever : BitVec 4 := 0
  scope : BitVec 6 := 0
  /-- The outstanding challenge and its time of issue (R355). -/
  challenge : Option (List Byte × Nat) := none
  /-- Anti-rollback counters by image TYPE, and CYCLE (R350, R417). -/
  rollback : AMap Nat := []
  cycle : Nat := 0
  /-- VERSION of the running image, and measurement slots, by TYPE (R351). -/
  versions : AMap Nat := []
  meas : AMap (List Byte) := []
  /-- The identity key stands in the security core's SRAM (R352). -/
  keyHeld : Bool := false
  /-- Entries of the gateway table in force (R343). -/
  entries : List GateEntry := []
  /-- Requests that wait, in order of arrival, and the one that runs. -/
  waiting : List GateReq := []
  running : Option GateReq := none
  /-- Network keys by slot, content keys by slot, vault records by number (R344). -/
  netKeys : AMap (List Byte) := []
  contentKeys : AMap (List Byte) := []
  vault : AMap (List Byte) := []
  deriving DecidableEq, Repr

/-- Where the part as a whole stands (R391, R420). -/
inductive PartMode where
  /-- Held in reset, or waiting in it for a start. -/
  | reset
  | starting
  | active
  | standby
  | parked
  /-- 5 s of a thermal shutdown (R407). -/
  | shutdown
  | recovery
  deriving DecidableEq, Repr

/-- A POWER_HINT of STANDBY, PARK or RESTART, or a WARM_REQ, under way (R394, R395). -/
structure Leaving where
  /-- 2 STANDBY, 3 PARK, 4 RESTART. -/
  op : Nat
  /-- The packet; none for WARM_REQ. -/
  packet : Option Nat
  slice : Nat
  ring : Nat
  /-- Device time at which work in flight is aborted; none for an unlimited drain. -/
  deadline : Option Nat
  aborted : Nat := 0
  /-- Device time of the reply. -/
  replied : Option Nat := none
  deriving DecidableEq, Repr

/-- A request to stop a claimed block (R345): its block bit and the packet that made it. -/
structure GateStop where
  block : Nat
  slice : Nat
  ring : Nat
  seq : Nat
  deriving DecidableEq, Repr

/-- A tile group's rail (R397). -/
structure GroupWake where
  /-- Device time of t0, once the switch has closed or the rail risen. -/
  begun : Option Nat := none
  fromOff : Bool
  /-- The known release the wake is for (R25). -/
  release : Option Nat := none
  deriving DecidableEq, Repr

/-- What power, clocks and start keep beside their registers. -/
structure Power where
  mode : PartMode := .reset
  /-- Device time of t0 of the start under way or last made. -/
  t0 : Nat := 0
  /-- Blocks gated by BLOCK_OFF or by SHED, as Table — Gateable blocks. -/
  gated : Nat := 0
  leaving : Option Leaving := none
  /-- Wake sources latched while the part enters a state (R394). -/
  latched : Nat := 0
  /-- Device time of entry to Standby-Warm or Parked. -/
  entered : Nat := 0
  stops : List GateStop := []
  /-- Since when each claim is held, by bit. -/
  claims : AMap Nat := []
  wakes : AMap GroupWake := []
  /-- Device time at which a power switch closed last (R397). -/
  lastSwitch : Option Nat := none
  /-- IDLE_UNTIL by group (R398). -/
  idleUntil : AMap Nat := []
  /-- Groups woken for a known release and held Running for it. -/
  heldFor : AMap Nat := []
  /-- Sensors excluded; zones with none left (R404). -/
  faulty : List Nat := []
  /-- Integral of each zone's controller, in units of 2^-160. -/
  integral : AMap Int := []
  /-- Since when every sensor reads 115.0 °C or less; since when a zone stands at EMERG_C. -/
  coolSince : Option Nat := none
  hotSince : AMap Nat := []
  /-- The SUST_EFF of the last THERMAL_LIMIT. -/
  announced : Nat := 440
  /-- Device time of the shutdown, and the error records that the next start writes. -/
  shutAt : Nat := 0
  owed : List ErrRec := []
  /-- Rails (19): RAIL_EN_RET and RAIL_EN_MAIN, PGOOD, and when an enable rose and fell last. -/
  enRet : Bool := true
  enMain : Bool := true
  pgood : Bool := true
  rose : Nat := 0
  fell : Option Nat := none
  /-- The cause the next start records (R423). -/
  cause : Nat := 0
  /-- RESET_N is held. -/
  resetN : Bool := false
  /-- Straps PROF_SEL and BOOT_SRC (19). -/
  profSel : Nat := 0
  bootSrc : Nat := 0
  /-- All 16 LPDDR6 channels carry identical devices (R8). -/
  populated : Bool := true
  /-- Payload of the profile in force. -/
  profile : List Byte := []
  /-- The slice table: the slices that existed at the last exit from Active, each with its payload. -/
  sliceTable : AMap Slice := []
  /-- The island came out of the last cold start split (R319, R414). -/
  split : Bool := false
  /-- The always-on domain has powered up since the last cold start's CYCLE step (R417). -/
  freshAon : Bool := true
  deriving DecidableEq, Repr

/-! ### Firmware complex (16) -/

/-- The log ring as LOG_CONFIG left it (R432). -/
structure LogRing where
  base : Nat
  log2 : Nat
  level : Nat
  services : Nat
  deriving DecidableEq, Repr

/-- What the control complex keeps beside its registers. -/
structure Firmware where
  /-- The core of each placed service, by number (R427). -/
  place : AMap Nat := []
  /-- Services that do not run, each with the core whose failure stopped it (R429). -/
  down : AMap Nat := []
  /-- Device times of the failures of each core and of each service (R430). -/
  coreFails : AMap (List Nat) := []
  serviceFails : AMap (List Nat) := []
  log : Option LogRing := none
  /-- The trace ring: its base and size (R434). -/
  trace : Option (Nat × Nat) := none
  /-- TAG of the forerunner command in progress, by mailbox (R435). -/
  tags : AMap Nat := []
  deriving DecidableEq, Repr

/-! ### Links, the twin and the Dorat domain (17) -/

/-- A HELLO of the partner (R446). -/
structure PeerHello where
  twinId : Nat
  role : Nat
  nonce : List Byte
  deriving DecidableEq, Repr

/-- A read that the always-on bridge fetches or holds (R461); `since` is the device time of its fetch. -/
structure BridgeRead where
  master : Nat
  tag : Nat
  addr : Nat
  len : Nat
  cls : Nat
  value : Option (List Byte) := none
  since : Nat := 0
  deriving DecidableEq, Repr

/-- A configuration staged by DOMAIN_STAGE (R466). -/
structure Staged where
  epoch : Nat
  models : List Nat
  /-- Bytes 32 to 127 of SAFE_PROFILE_SET packets, in list order. -/
  payloads : List (List Byte)
  /-- The switch image; none keeps the one in force. -/
  image : Option (List Byte)
  digest : List Byte
  deriving DecidableEq, Repr

/-- A switch that is pending: its time, and the packets answered DEFERRED, by slice, ring and SEQUENCE. -/
structure Switch where
  time : Nat
  packets : List (Nat × Nat × Nat)
  deriving DecidableEq, Repr

/-- The part as a member of its Dorat domain (R463 to R469). -/
structure Domain where
  epoch : Nat := 0
  digest : List Byte := []
  models : List Nat := []
  staged : Option Staged := none
  pending : Option Switch := none
  /-- Its own (epoch, digest) over the last second, newest first, each with the device time from which it stood. -/
  history : List (Nat × Nat × List Byte) := []
  /-- Announcements sent since the start, and when the last was. -/
  announced : Nat := 0
  sentAt : Option Nat := none
  /-- An announcement fell due while the DOMAIN service did not run (R429). -/
  owed : Bool := false
  /-- The last COUNTER accepted of each member. -/
  counters : AMap Nat := []
  /-- When the last reference announcement was accepted, and its SENT. -/
  refAt : Nat := 0
  refSent : Nat := 0
  /-- Reference announcements in a row that mismatch. -/
  mismatches : Nat := 0
  /-- DOMAIN_REF_LOST has been written for the present silence. -/
  silent : Bool := false
  deriving DecidableEq, Repr

/-- The USB4 ports, the twin link and the always-on bridge. -/
structure Links where
  /-- The nonce of the HELLO sent in this pairing, and the partner's HELLO. -/
  nonce : Option (List Byte) := none
  peer : Option PeerHello := none
  sentPaired : Bool := false
  gotPaired : Bool := false
  /-- PUBKEY's SHA-384 in the accepted report. -/
  peerId : List Byte := []
  faultAt : Option Nat := none
  /-- SEQ of the next twin message. -/
  seq : Nat := 0
  /-- TWIN_ALIVE_OUT, and the millisecond of its last toggle. -/
  alive : Bool := false
  beat : Option Nat := none
  /-- The heartbeat window that is open, heartbeats seen by window on the twin path and on the pin, and the windows that
  each path has missed in a row. -/
  window : Nat := 0
  seenPath : List Nat := []
  seenPin : List Nat := []
  missPath : Nat := 0
  missPin : Nat := 0
  /-- TWIN_PATH_LOST stands for the twin path, for the pin. -/
  lostPath : Bool := false
  lostPin : Bool := false
  /-- The link was PAIRED when the open window opened, and when the first window of the present run of misses did. -/
  windowPaired : Bool := false
  runPaired : Bool := false
  /-- DETACH_REQ is sent and not yet answered. -/
  detaching : Bool := false
  /-- N of each enabled checkpoint channel, and the checkpoints sent and not acknowledged, as channel and value. -/
  ckptNext : AMap Nat := []
  ckptSent : List (Nat × Nat) := []
  /-- Bundle bytes served to the partner. -/
  served : Nat := 0
  /-- MSI-X table words that differ from reset, by 8192 × port + word; vectors that pend, as 2048 × port + vector. -/
  msix : AMap W32 := []
  pba : List Nat := []
  /-- AER header log of each port: the first failing write's address, length and cause (R445). -/
  headerLog : AMap (Nat × Nat × Nat) := []
  bridge : List BridgeRead := []
  deriving DecidableEq, Repr

/-! ### Vehicle network and device time (18) -/

/-- A frame in the switch: its addresses, its VLAN and priority, an R-tag, the bytes from its EtherType on, where it came
in and when, whether it was protected there, and the host port descriptor it was sent from. -/
structure EthFrame where
  head : List Byte
  vid : Nat
  pcp : Nat
  rtag : Option Nat := none
  body : List Byte
  port : Nat := 8
  time : Nat := 0
  secured : Bool := false
  desc : Option (Nat × Nat) := none
  tagged : Bool := true
  slope : Option Nat := none
  deriving DecidableEq, Repr

/-- A port's gate control list as it runs: gate bits and interval of each entry, the entry in force and since when. -/
structure GateRun where
  entries : List (Nat × Nat)
  index : Nat
  since : Nat
  deriving DecidableEq, Repr

/-- Vector recovery of a REC stream (R477): the highest sequence number, which of the numbers before it were seen, and
the device time of the last frame. -/
structure Recovery where
  seq : Nat
  seen : List Bool
  last : Nat
  deriving DecidableEq, Repr

/-- A CAN frame (R484): the word of its identifier, IDE and RTR; its flags FDF, BRS, ESI, XLF from bit 0; XL fields. -/
structure CanFrame where
  idw : Nat
  flags : Nat
  sdt : Nat := 0
  vcid : Nat := 0
  af : Nat := 0
  data : List Byte
  deriving DecidableEq, Repr

/-- The announced master of a port (R490): its priority vector from priority1 to stepsRemoved, highest field first, and
the identity of its grandmaster. -/
structure PtpMaster where
  vector : List Nat
  gm : Nat
  deriving DecidableEq, Repr

/-- The switch, the CAN controllers and the clock servo. -/
structure Net where
  /-- The switch configuration image in force (R479). -/
  image : List Byte := []
  /-- Frames queued by 8 × port + queue, oldest first. -/
  queues : AMap (List EthFrame) := []
  /-- Device time at which each port's transmission ends. -/
  busy : AMap Nat := []
  gates : AMap GateRun := []
  /-- Gate lists that wait for their first cycle (R481). -/
  nextGates : AMap GateRun := []
  /-- Credit of a shaped queue in millionths of a bit, and when it was reckoned, by 8 × port + queue. -/
  credit : AMap (Int × Nat) := []
  genSeq : AMap Nat := []
  recovery : AMap Recovery := []
  /-- Transmit descriptors taken of each host ring. -/
  dmaTaken : AMap Nat := []
  /-- Gateway queues and safe-state messages by CAN controller; transmit message RAM by offset in the CAN block. -/
  gateway : AMap (List CanFrame) := []
  canSafe : AMap (List CanFrame) := []
  canRam : Memory := []
  acfSeq : AMap Nat := []
  /-- The fraction of device time, in units of 2^-32 ns (R488). -/
  frac : Nat := 0
  /-- Device time of the last Sync, Syncs in a row within SYNC_NS, and since when the part is in holdover. -/
  lastSync : Nat := 0
  good : Nat := 0
  heldSince : Option Nat := none
  masters : AMap PtpMaster := []
  /-- The Sync to relay: its origin time-stamp, correction in 2^-16 ns, and reception time (R493). -/
  relay : Option (List Byte × Nat × Nat) := none
  syncSeq : AMap Nat := []
  deriving DecidableEq, Repr

/-- Everything of the part but the security core's own secrets and the queue of commands. -/
structure Chip where
  regs : RegFile := []
  mem : Memory := []
  /-- Device time in ns (R488). -/
  now : Nat := 0
  /-- Draws of free values so far: the model's own counter (log 4). -/
  free : Nat := 0
  /-- Fitted LPDDR6 in bytes (R8). -/
  capacity : Nat := 64 * 2 ^ 30
  owners : AMap Nat := []
  /-- Pages whose owner entry is uncorrectable (R375); first page and pages of the security core's carve-out. -/
  badOwners : List Nat := []
  carveOut : Nat × Nat := (0, 0)
  validBlocks : List Nat := []
  validLines : List Nat := []
  /-- Codewords with wrong bits, by address (R362, R367). -/
  badWords : AMap BadWord := []
  /-- Words of the DRAM valid table that are uncorrectable, each of 64 blocks; and the blocks taken as valid for such a word
  though nothing was written to them, with the codewords written since (R375). -/
  badValid : List Nat := []
  rawBlocks : AMap (List Nat) := []
  /-- Writes of MEM_ECC registers that wait for requests, oldest first (R365). -/
  eccHeld : List EccWrite := []
  /-- Lines of tile memory last written by a preload and not since (R206). -/
  cleanLines : List Nat := []
  tiles : AMap Tile := []
  models : AMap Model := []
  /-- Engines by 3 × group + (0 direct, 1 Nougat, 2 crop-and-resize). -/
  engines : AMap Engine := []
  jobs : List Job := []
  pendingRels : List PendingRel := []
  jobsPast : List JobPast := []
  /-- What the opaque parts of tile save blocks written by this part stand for, by their bytes, the latest first. -/
  saves : List (List Byte × SaveTile) := []
  /-- Tiles, and engines as 192 + their key, in the order their faults were recorded. -/
  faulted : List Nat := []
  /-- Jobs that wait for Weir, oldest first (R295). -/
  weir : List Nat := []
  cfl : Confluence := {}
  ale : Ale := {}
  gfx : Fondant := {}
  pipes : AMap Pipe := []
  fills : List Fill := []
  slices : AMap Slice := []
  drains : List Drain := []
  destroys : List Destroy := []
  dirtyLogs : AMap DirtyLog := []
  sliceTags : AMap W64 := []
  rings : AMap Ring := []
  packets : List Packet := []
  nextPacket : Nat := 0
  starts : Nat := 0
  lastRing : AMap Nat := []
  staged : AMap W32 := []
  syncs : AMap W64 := []
  unitWaits : List UnitWait := []
  /-- DRAM requests that passed their lookup and have not been served (R46, R378), oldest first. -/
  dramQueue : List DramReq := []
  /-- Requests held in the link buffers before a channel, by 4 × channel + class, oldest first (R16). -/
  linkQ : AMap (List DramReq) := []
  /-- Requests that Millrace has accepted so far. -/
  accepted : Nat := 0
  nextReq : Nat := 0
  millrace : AMap Millrace := []
  arbiters : AMap Arbiter := []
  /-- Predictor and prefetcher entries: the core, or 0x100 + the tile whose sequencer holds one, and its tag (R347). -/
  predictors : List (Nat × Nat) := []
  /-- Harts whose return-address stack holds entries (R347). -/
  returnStacks : List Nat := []
  /-- The last exception of each hart: 1 illegal instruction, 2 virtual instruction. -/
  hartTraps : AMap Nat := []
  replies : AMap Reply := []
  posted : List Posted := []
  err : Collector := {}
  safe : SafeUnit := {}
  selfTest : SelfTest := {}
  budget : Budget := {}
  sluice : Sluice := {}
  /-- What has left the part, oldest first. -/
  sent : List Sent := []
  /-- The TWIN_ID strap (19). -/
  twinId : Nat := 0
  flash : Flash := {}
  power : Power := {}
  fw : Firmware := {}
  link : Links := {}
  domain : Domain := {}
  net : Net := {}
  /-- Status last written by a GATE: hart, its register and the value (R338). -/
  hartRd : AMap (Nat × Nat) := []
  /-- xtval of each hart's last exception (R339). -/
  hartTval : AMap Nat := []
  /-- The security core's vehicle-class services run (R303, R357). -/
  vehicleUp : Bool := true
  deriving DecidableEq, Repr

/-- The state of the block: the part, the security core's own state, and the commands that wait, first in, first out. -/
structure State where
  pending : List Instr := []
  chip : Chip := {}
  sec : Sec := {}
  deriving DecidableEq, Repr

/-- The part right after reset, with no command waiting. -/
def State.reset : State := {}

/-- A command never stops the part with a fault: the spec gives every command an effect. -/
inductive Fault where
  deriving DecidableEq, Repr

/-- Why a command has no meaning. -/
inductive Refusal where
  /-- Raised by the arms of `exec` that have no meaning yet; safe: nothing can be proved of such a command. -/
  | notModelled (mnemonic : String)
  deriving DecidableEq, Repr

end Sys2Proof.Machine
end

