-- ==== Sys2Proof/Config.lean ====
section
/-!
DEFINITION. What the spec leaves open: free values, which no proof can see, and the published functions the
spec names without defining (hashes, signatures, ciphers).  None of these constants has a body.
-/

namespace Sys2Proof

/-- DESIGN CHOICE (log 4): the value drawn at each place where the spec gives an effect but not its value.
The argument is the model's own counter, so that two draws need not agree. -/
opaque Config.freeValue : Nat → BitVec 64

/-- DESIGN CHOICE (log 119): what the light code, in a Hsiao arrangement that the spec does not give, makes of three wrong bits
or more: nothing seen, one bit flipped, or an uncorrectable error; and the check byte it writes for a word (R362, R363). -/
opaque Config.lightCode : BitVec 72 → Option (Option Nat)
opaque Config.lightCheck : BitVec 64 → BitVec 8

/-- DESIGN CHOICE (log 120): what DRAM holds where nothing was written: a free value of the address (R375). -/
opaque Config.dramHolds : Nat → BitVec 8

/-- DESIGN CHOICE (log 35): DETAIL of an error record whose source gives it none: a free value of the record's source, cause and time. -/
opaque Config.errorDetail : Nat → Nat → Nat → BitVec 64
/-- DESIGN CHOICE (log 4): the bytes of a free value longer than a word. -/
opaque Config.freeByte : Nat → Nat → BitVec 8

/-- PRESUMED published function (log 8): the 16-byte AES-256-GCM tag under the key of a slot, for an IV and
additional data (R302).  The keys are not in the spec. -/
opaque Config.gcmTag : Nat → List (BitVec 8) → List (BitVec 8) → BitVec 128

/-- PRESUMED published function (log 8): SHA-384 of bytes, as a 384-bit number whose low byte is the first. -/
opaque Config.sha384 : List (BitVec 8) → BitVec 384

/-- DESIGN CHOICE (log 26): the FP32 sine and cosine that Confluence turns angles with; the spec states no accuracy. -/
opaque Config.sine : BitVec 32 → BitVec 32
opaque Config.cosine : BitVec 32 → BitVec 32

/-- DESIGN CHOICE (log 28): the slot that a new track takes, as a place in the list of free slots (its remainder counts), from
the slots given (true) and freed so far, newest first. -/
opaque Config.newTrackSlot : List (Bool × Nat) → List Nat → Nat

/-- DESIGN CHOICE (log 115): whether an acceptance filter of a CAN controller takes a frame: controller, filter, and the
word with the frame's identifier, IDE and RTR (R219, R484). -/
opaque Config.acceptanceFilter : Nat → Nat → Nat → Bool

/-- DESIGN CHOICE (log 116): the slot code (its remainder modulo 0x400) that a listener channel of a playback ring is mixed
into, by the ring's descriptor and the channel (R257). -/
opaque Config.listenerSlot : List (BitVec 8) → Nat → Nat

/-- PRESUMED published functions (log 118): the sRGB decoding of an 8-bit component to FP32, and the texel of a block of
ETC2, EAC or ASTC by its place in the block: four FP32 components, red lowest (R275). -/
opaque Config.srgbToLinear : BitVec 8 → BitVec 32
opaque Config.texelBlock : Nat → List (BitVec 8) → Nat → Nat → BitVec 128

/-- DESIGN CHOICE (log 118): the weighted mean of texels whose format is not an 8-bit one, by weights and components; the
spec states no accuracy (R275). -/
opaque Config.texFilter : List (Nat × List Nat) → BitVec 128

/-- DESIGN CHOICE (log 31): what a fragment's depth test, stencil test, blend and write make of a sample, since the body of a
command list is not in the spec: the pass's payload, the fragment's order key, the texture samples it took, and the values
the sample holds in each plane (R271). -/
opaque Config.fragment : List (BitVec 8) → List Nat → List (List Nat) → List Nat → List Nat

/-- DESIGN CHOICE (log 32): an FP32 clear depth in a UNORM format of so many bits (R264). -/
opaque Config.clearDepth : Nat → Nat → Nat

/-- DESIGN CHOICE (log 30): a display plane's pixel blended over the pixel under it, where R276 gives no exact value:
plane format, plane alpha, 10-bit output, the plane's source bits, the 30-bit pixel under it. -/
opaque Config.blend : Nat → Nat → Bool → Nat → Nat → BitVec 30

/-- PRESUMED published functions (log 8): an ECDSA P-384 signature by the device identity key, r then s, which a draw
also decides (R353); whether a signature by a public key over a message verifies; whether the owner key list and its
signature verify under a key (R350), the list given as keys with their role masks. -/
opaque Config.sign : Nat → List (BitVec 8) → BitVec 768
opaque Config.verify : List (BitVec 8) → List (BitVec 8) → List (BitVec 8) → Bool
opaque Config.verifyKeys : List (List (BitVec 8) × Nat) → List (BitVec 8) → List (BitVec 8) → Bool

/-- DESIGN CHOICE (log 37): what the part holds and the spec gives no value of: the four root-key hashes of the ROM
(R337), the device identity public key, x then y with the first byte lowest, and whether helper data reconstruct it
(R352). -/
opaque Config.rootHash : Nat → BitVec 384
opaque Config.identityKey : BitVec 768
opaque Config.pufOk : List (BitVec 8) → Bool

/-- DESIGN CHOICE (log 38): PARAM_IN and PARAM_OUT, in units of 8 bytes, of the gateway entries for which R344 gives
none; and what those entries read in their parameter block and key store: the slot a network key goes to (none for a
MACsec association, else the CAN controller), the unwrapped keys with their slot (none where unwrapping fails), the
vault record a block names, the block that a read of a record gives, and the record that a block to write holds. -/
opaque Config.gateIn : Nat → Nat
opaque Config.gateOut : Nat → Nat
opaque Config.netKeyCan : List (BitVec 8) → Option Nat
opaque Config.netKeyUnwrap : List (BitVec 8) → Option (Nat × List (BitVec 8))
opaque Config.contentUnwrap : List (BitVec 8) → Option (Nat × List (BitVec 8))
opaque Config.vaultRecord : List (BitVec 8) → Nat
opaque Config.vaultOut : List (BitVec 8) → List (BitVec 8) → List (BitVec 8)
opaque Config.vaultIn : List (BitVec 8) → List (BitVec 8)

/-- PRESUMED published functions (log 8): MACsec (IEEE 802.1AE) on a port under the installed keys, by slot: the clear
frame that a protected one opens to, if its ICV holds, and the protected frame that a clear one becomes, which a draw
also decides; and the port whose transmit association a NETKEY_LOAD block installs, if it does. -/
opaque Config.macsecOpen : Nat → List (Nat × List (BitVec 8)) → List (BitVec 8) → Option (List (BitVec 8))
opaque Config.macsecSeal : Nat → Nat → List (Nat × List (BitVec 8)) → List (BitVec 8) → List (BitVec 8)
opaque Config.macsecPort : List (BitVec 8) → Option Nat

/-- DESIGN CHOICE (log 37): the part's own clockIdentity (R490), which the spec does not give. -/
opaque Config.clockIdentity : BitVec 64

/-- DESIGN CHOICE (log 37): the vendor ID that LNK_PCI_ID shows (R442), which the spec does not give. -/
opaque Config.vendorId : BitVec 16

/-- DESIGN CHOICE (log 37): how two sections are laid out that the spec names without a layout: the writes that the access
section makes to the table of a target, as offset and value (R39); the gateway entry table's bytes in the payload of the
security firmware image (R343). -/
opaque Config.accessTable : List (BitVec 8) → Nat → List (Nat × BitVec 64)
opaque Config.gateTable : List (BitVec 8) → List (BitVec 8)

/-- DESIGN CHOICE (log 90): what the SEQUENCER and RILL_STATE bytes of a save block stand for that this part has not
written: R207 gives what they hold, and not how. -/
opaque Config.savedTile : List (BitVec 8) → Machine.SaveTile

end Sys2Proof
end

