-- ==== Sys2Proof/Machine/Codes.lean ====
section
/-!
DEFINITION. The check codes of the memories: the check bits of a burst, and what a code makes of the bits of a codeword
that are wrong (14 R362, R363, R366, R369).

The codes are linear: what a code sees of a codeword depends on its wrong bits alone.  Those are numbered: the data bits
from bit 0; then, of a strong codeword, its check symbols (256 to 279) and ADDR_CHK (280 to 287); of a light one its check
byte (64 to 71); of a line of the model cache its row bits (512 to 519) and its column word (520 to 583).
-/

namespace Sys2Proof.Machine

/-- The check code of a codeword; the strong code has an address check in DRAM only (R366). -/
inductive Code where
  | strong (address : Bool)
  | light
  | parity
  deriving DecidableEq, Repr

/-! ### GF(2^8) (R362) -/

/-- A symbol times α, under x^8 + x^4 + x^3 + x^2 + 1. -/
def gfDouble (a : Nat) : Nat := if a < 128 then 2 * a else (2 * a) ^^^ 0x11D

/-- The product of two symbols. -/
def gfMul (a b : Nat) : Nat := (List.range 8).reverse.foldl (fun r i => gfDouble r ^^^ (if b.testBit i then a else 0)) 0

/-- α to a power. -/
def gfPow (n : Nat) : Nat := (List.range n).foldl (fun a _ => gfDouble a) 1

/-! ### The strong code (R362, R363) -/

/-- The first bit of the symbol that is the coefficient of x^k: data byte 0 is that of x^34, and the check symbols of
metadata bits 23:0 are those of x^0 to x^2, lowest first (PRESUMED, log 119: the spec gives the symbols no order). -/
def symbolBit (k : Nat) : Nat := if k < 3 then 256 + 8 * k else 8 * (34 - k)

/-- The part of a syndrome that one symbol makes. -/
def syndromeTerm (e j k : Nat) : Nat := gfMul (e / 2 ^ symbolBit k % 256) (gfPow (j * k))

/-- The syndrome of a generator root α^j. -/
def syndrome (e j : Nat) : Nat := (List.range 35).foldl (fun s k => s ^^^ syndromeTerm e j k) 0

/-- R363: one bad symbol is found and corrected; what looks like more is uncorrectable. -/
def strongJudge (e : Nat) : Except Nat Nat :=
  let s := syndrome e
  if s 0 = 0 ∧ s 1 = 0 ∧ s 2 = 0 then .ok 0
  else match (List.range 35).find? (fun k => s 0 != 0 && gfMul (s 0) (gfPow k) == s 1 && gfMul (s 0) (gfPow (2 * k)) == s 2) with
    | some k => .ok (s 0 * 2 ^ symbolBit k)
    | none => .error 2

/-- The three check symbols of 32 data bytes: the remainder by (x + 1)(x + α)(x + α²), the symbol of x^2 first. -/
def rsStep (r : Nat × Nat × Nat) (d : Byte) : Nat × Nat × Nat :=
  let f := d.toNat ^^^ r.1
  (r.2.1 ^^^ gfMul f 7, r.2.2 ^^^ gfMul f 14, gfMul f 8)

def rsCheck (data : List Byte) : Nat :=
  let r := data.foldl rsStep (0, 0, 0)
  r.2.2 + r.2.1 * 2 ^ 8 + r.1 * 2 ^ 16

/-- One bit into a CRC-8 with the polynomial 0x07. -/
def crc8Bit (r : Nat) (b : Bool) : Nat :=
  let s := 2 * r % 256
  if r.testBit 7 != b then s ^^^ 7 else s

/-- The highest first of `w` bits. -/
def bitsDown (w n : Nat) : List Bool := (List.range w).reverse.map n.testBit

/-- ADDR_CHK of a burst (R361, R362): CRC-8 over CHANNEL, SUB, BANK, ROW and the sector's column, highest bits first from
zero (PRESUMED, log 119). -/
def addrChk (a : Nat) : Nat :=
  (bitsDown 4 ((a / 2 ^ 16 % 16) ^^^ (a / 2 ^ 20 % 16)) ++ bitsDown 1 (a / 2 ^ 6) ++ bitsDown 4 (a / 2 ^ 11) ++ bitsDown 17 (a / 2 ^ 20) ++
    bitsDown 1 (a / 2 ^ 15) ++ bitsDown 4 (a / 2 ^ 7)).foldl crc8Bit 0

/-! ### The light code (R363) and the parity of the model cache (R369) -/

/-- The wrong bits of a pattern, of its first `n`. -/
def wrongBits (n e : Nat) : List Nat := (List.range n).filter e.testBit

/-- R363: one bad bit is corrected, two are detected; of more the spec says nothing (log 119). -/
def lightJudge (e : Nat) : Except Nat Nat :=
  match wrongBits 72 e with
  | [] => .ok 0
  | [i] => .ok (2 ^ i)
  | [_, _] => .error 2
  | _ => match Config.lightCode (BitVec.ofNat 72 e) with
    | none => .error 2
    | some none => .ok 0
    | some (some i) => .ok (2 ^ (i % 72))

/-- The rows and the columns of a line whose parity is odd. -/
def oddRows (e : Nat) : List Nat := (List.range 8).filter (fun i => ((wrongBits 64 (e / 2 ^ (64 * i))).length + (e / 2 ^ (512 + i)) % 2) % 2 == 1)
def oddColumns (e : Nat) : List Nat :=
  (List.range 64).filter (fun j => (((List.range 8).filter (fun i => e.testBit (64 * i + j))).length + (e / 2 ^ (520 + j)) % 2) % 2 == 1)

/-- R369: what a line's odd rows and columns say. -/
def parityJudge (e : Nat) : Except Nat Nat :=
  match oddRows e, oddColumns e with
  | [], [] => .ok 0
  | [i], [j] => .ok (2 ^ (64 * i + j))
  | [i], [] => .ok (2 ^ (512 + i))
  | [], [j] => .ok (2 ^ (520 + j))
  | _, _ => .error 2

/-- What a code makes of the wrong bits of a codeword: the bits it flips (none: it sees nothing wrong), or the cause of the
record of an uncorrectable error: 2 UNCORRECTABLE, 3 ADDRESS (R363, R369, R389). -/
def Code.judge (k : Code) (e : Nat) : Except Nat Nat :=
  match k with
  | .strong address =>
    match strongJudge e with
    | .ok m => if address && e / 2 ^ 280 % 256 != 0 then .error 3 else .ok m
    | r => r
  | .light => lightJudge e
  | .parity => parityJudge e

end Sys2Proof.Machine
end

