-- ==== Sys2Proof/Machine/Ops.lean ====
section
/-!
DEFINITION. The operations every unit shares: tables, bytes and memory, registers, the access checks of the mesh,
error records, events, interrupt writes and sync objects.
-/

namespace Sys2Proof.Machine

/-- The sum of a list of numbers. -/
def sumOf (l : List Nat) : Nat := l.foldl (· + ·) 0

/-! ### Device time (R489) -/

/-- The time from `a` on to `b`, modulo 2^64. -/
def timeDiff (b a : Nat) : Nat := (b % 2 ^ 64 + 2 ^ 64 - a % 2 ^ 64) % 2 ^ 64

/-- R489: two device times are compared by the signed 64-bit difference: `a` lies before `b`. -/
def timeBefore (a b : Nat) : Bool := decide (0 < timeDiff b a) && decide (timeDiff b a < 2 ^ 63)

/-- The earlier of two device times. -/
def earlier (a b : Nat) : Nat := if timeBefore b a then b else a

/-- How long ago `t` was at device time `now`: 0 for a time that lies ahead (DESIGN CHOICE, log 114). -/
def timeSince (now t : Nat) : Nat := if timeBefore now t then 0 else timeDiff now t

/-! ### Tables -/

/-- The value at key `k`, if the table lists it. -/
def AMap.get? {α : Type} : AMap α → Nat → Option α
  | [], _ => none
  | (k', v) :: m, k => if k' = k then some v else AMap.get? m k

/-- The table with `v` at key `k`, the keys kept in rising order. -/
def AMap.set {α : Type} : AMap α → Nat → α → AMap α
  | [], k, v => [(k, v)]
  | (k', w) :: m, k, v =>
    if k < k' then (k, v) :: (k', w) :: m
    else if k = k' then (k, v) :: m
    else (k', w) :: AMap.set m k v

/-- The table without key `k`. -/
def AMap.del {α : Type} (m : AMap α) (k : Nat) : AMap α :=
  m.filter (fun p => p.1 != k)

/-- The value at key `k`, or the table's default. -/
def AMap.getD {α : Type} (m : AMap α) (k : Nat) (d : α) : α :=
  (AMap.get? m k).getD d

/-- The table with the value at `k` changed by `f` (the default where it is absent). -/
def AMap.upd {α : Type} (m : AMap α) (k : Nat) (d : α) (f : α → α) : AMap α :=
  AMap.set m k (f (AMap.getD m k d))

/-- A set of numbers, in rising order. -/
def nsInsert : List Nat → Nat → List Nat
  | [], k => [k]
  | x :: l, k => if k < x then k :: x :: l else if k = x then x :: l else x :: nsInsert l k

/-- Bit `i` of `n`. -/
def bitOf (n i : Nat) : Bool := n.testBit i

/-- Bits `hi` to `lo` of `n`, as a number. -/
def bitsOf (n hi lo : Nat) : Nat := n / 2 ^ lo % 2 ^ (hi + 1 - lo)

/-- `n` with bits `hi` to `lo` replaced by `v`. -/
def putBits (n hi lo v : Nat) : Nat :=
  n - bitsOf n hi lo * 2 ^ lo + v % 2 ^ (hi + 1 - lo) * 2 ^ lo

/-- 1 for true, 0 for false. -/
def b2n (b : Bool) : Nat := if b then 1 else 0

/-- The smaller bit count's saturating sum: counters stop at their largest value. -/
def satAdd (w a b : Nat) : Nat := min (a + b) (2 ^ w - 1)

/-- The difference of two free-running 32-bit indices (R64). -/
def idxSub (a b : Nat) : Nat := (a + 2 ^ 32 - b % 2 ^ 32) % 2 ^ 32

/-- The next free-running 32-bit index after `n` further entries (R64). -/
def idxAdd (a n : Nat) : Nat := (a + n) % 2 ^ 32

/-- The signed value of the low `w` bits of `n`. -/
def sx (w n : Nat) : Int :=
  let m := n % 2 ^ w
  if m < 2 ^ (w - 1) then (m : Int) else (m : Int) - (2 ^ w : Nat)

/-- The `w`-bit pattern of an integer. -/
def ux (w : Nat) (i : Int) : Nat := (i % (2 ^ w : Nat)).toNat

/-- Number of bits set in the low `w` bits. -/
def popCount (w n : Nat) : Nat := ((List.range w).filter (fun i => n.testBit i)).length

/-! ### Bytes -/

/-- The number that little-endian bytes spell (R10). -/
def leNat : List Byte → Nat
  | [] => 0
  | b :: l => b.toNat + 256 * leNat l

/-- The `k` little-endian bytes of a number (R10). -/
def leBytes : Nat → Nat → List Byte
  | 0, _ => []
  | k + 1, n => BitVec.ofNat 8 n :: leBytes k (n / 256)

/-- The `k` big-endian bytes of a number: network fields. -/
def bigBytes (k n : Nat) : List Byte := (leBytes k n).reverse

/-- The number that `k` big-endian bytes at offset `off` spell. -/
def bytesBig (l : List Byte) (off k : Nat) : Nat := leNat ((l.drop off).take k).reverse

/-- The number at byte offset `off`, `k` bytes wide, little-endian; bytes past the end read zero. -/
def bytesU (l : List Byte) (off k : Nat) : Nat := leNat ((l.drop off).take k)

/-- `l` with the bytes `b` at offset `off`. -/
def putAt (l : List Byte) (off : Nat) (b : List Byte) : List Byte :=
  l.take off ++ b ++ l.drop (off + b.length)

/-- All bytes from `off` to before `stop` are zero. -/
def zeroIn (l : List Byte) (off stop : Nat) : Bool :=
  ((l.drop off).take (stop - off)).all (fun b => b == 0)

/-! ### Memory -/

/-- What an address reads as: zero where nothing is listed (R371, R374). -/
def memGet (m : Memory) (a : Nat) : Byte := AMap.getD m a 0

/-- One byte written; a zero removes the entry. -/
def memPut (m : Memory) (a : Nat) (b : Byte) : Memory :=
  if b = 0 then AMap.del m a else AMap.set m a b

/-- `n` bytes from address `a`. -/
def memRead (m : Memory) (a n : Nat) : List Byte :=
  (List.range n).map (fun i => memGet m (a + i))

/-- Bytes written from address `a` up. -/
def memWrite : Memory → Nat → List Byte → Memory
  | m, _, [] => m
  | m, a, b :: l => memWrite (memPut m a b) (a + 1) l

/-- Every byte from `a` to before `b` reads zero afterwards. -/
def memClear (m : Memory) (a b : Nat) : Memory :=
  m.filter (fun p => p.1 < a || b ≤ p.1)

/-- Rising addresses. -/
def sortedFrom : Nat → Memory → Bool
  | _, [] => true
  | lo, (a, b) :: m => lo ≤ a && b != 0 && sortedFrom (a + 1) m

/-- The canonical form: strictly rising addresses and no byte that an unlisted address would read as. -/
def Memory.wf (m : Memory) : Bool := sortedFrom 0 m

/-! ### The address map (R18, R19) -/

def mcBase : Nat := 0x004000000000
def tileBase : Nat := 0x004100000000
def regBase : Nat := 0x005000000000
def aonBase : Nat := 0x0050F0000000
def dbBase : Nat := 0x006000000000
def mcSize : Nat := 192 * 2 ^ 20
def pageSize : Nat := 2 ^ 16
/-- The populated low part of a tile window. -/
def tileMemSize : Nat := 0xC0000
/-- The first byte of tile `n`'s window. -/
def tileAddr (n : Nat) : Nat := tileBase + n * 2 ^ 20
/-- The first byte of register block `i`. -/
def blockAddr (i : Nat) : Nat := regBase + i * 2 ^ 24
/-- The doorbell page of slice `s` (R59). -/
def dbPage (s : Nat) : Nat := dbBase + s * 2 ^ 16

/-! ### Registers -/

/-- A register's value. -/
def Chip.reg (c : Chip) (r : Reg) : Nat :=
  ((AMap.get? c.regs r.addr).map BitVec.toNat).getD r.reset

/-- A register given a value; its reset value removes the entry, so that equal register files are equal lists. -/
def Chip.setReg (c : Chip) (r : Reg) (v : Nat) : Chip :=
  let v := v % 2 ^ (8 * r.bytes)
  { c with regs := if v = r.reset then AMap.del c.regs r.addr else AMap.set c.regs r.addr (BitVec.ofNat 64 v) }

/-- A field of a register. -/
def Chip.fld (c : Chip) (r : Reg) (f : Fld) : Nat := bitsOf (c.reg r) f.hi f.lo

/-- A one-bit field of a register. -/
def Chip.flag (c : Chip) (r : Reg) (f : Fld) : Bool := c.fld r f == 1

/-- A field of a register given a value. -/
def Chip.setFld (c : Chip) (r : Reg) (f : Fld) (v : Nat) : Chip :=
  c.setReg r (putBits (c.reg r) f.hi f.lo v)

/-- A counter field raised by `n`; it stops at its largest value. -/
def Chip.count (c : Chip) (r : Reg) (f : Fld) (n : Nat) : Chip :=
  c.setFld r f (satAdd (f.hi + 1 - f.lo) (c.fld r f) n)

/-- A free-running index field raised by one. -/
def Chip.next (c : Chip) (r : Reg) (f : Fld) : Chip :=
  c.setFld r f (c.fld r f + 1)

/-- A free value, and the chip with the draw counted (log 4). -/
def Chip.draw (c : Chip) : W64 × Chip :=
  (Config.freeValue c.free, { c with free := c.free + 1 })

/-- `n` free bytes (log 4). -/
def Chip.drawBytes (c : Chip) (n : Nat) : List Byte × Chip :=
  ((List.range n).map (Config.freeByte c.free), { c with free := c.free + 1 })

/-! ### Slices -/

def Chip.slice? (c : Chip) (s : Nat) : Option Slice := AMap.get? c.slices s

/-- The slice a tile belongs to (R29). -/
def Chip.tileSlice (c : Chip) (n : Nat) : Option Nat :=
  (c.slices.find? (fun p => p.2.tiles.contains n)).map (·.1)

/-- The slice a model-cache segment belongs to (R29). -/
def Chip.segSlice (c : Chip) (g : Nat) : Option Nat :=
  (c.slices.find? (fun p => p.2.segments.contains g)).map (·.1)

/-- The owner value of a DRAM page; 0xFF above the fitted capacity (R43). -/
def Chip.owner (c : Chip) (page : Nat) : Nat :=
  if page * pageSize < c.capacity then AMap.getD c.owners page 0xFF else 0xFF

/-- The units of `z` bytes that a range touches, by number. -/
def unitsOf (addr len z : Nat) : List Nat :=
  if len = 0 then [] else (List.range ((addr + len - 1) / z - addr / z + 1)).map (· + addr / z)

/-- The pages that a range of bytes touches. -/
def pagesOf (addr len : Nat) : List Nat :=
  if len = 0 then []
  else (List.range ((addr + len - 1) / pageSize - addr / pageSize + 1)).map (· + addr / pageSize)

/-- Every page of the range belongs to slice `s`. -/
def Chip.ownsPages (c : Chip) (s addr len : Nat) : Bool :=
  addr + len ≤ c.capacity && (pagesOf addr len).all (fun p => c.owner p == s + 1)

/-! ### Access checks (R17, R20, R38 to R42) -/

/-- Master IDs that are assigned (R17): no master issues another. -/
def listedMaster (m : Nat) : Bool :=
  m < 0x10 || (0x10 ≤ m && m ≤ 0x1B) || m == 0x30 || m == 0x34 || (0x38 ≤ m && m ≤ 0x40) || m == 0x48 || m == 0x4C ||
  (0x50 ≤ m && m ≤ 0x53) || m == 0x58 || m == 0x59 || m == 0x5C || m == 0x5D || m == 0x60 || m == 0x61

/-- Causes of a refused access, as error records number them (R332). -/
inductive Deny where
  | noWindow
  | permission
  | owner
  | sliceTag
  | range
  deriving DecidableEq, Repr

def Deny.code : Deny → Nat
  | .noWindow => 1
  | .permission => 2
  | .owner => 3
  | .sliceTag => 4
  | .range => 5

/-- A request on the mesh (R33). -/
structure Req where
  master : Nat
  tag : Nat
  world : Nat := 0
  addr : Nat
  len : Nat
  write : Bool
  /-- The class of the job that the master serves, where it serves one (R24). -/
  serves : Nat := 3
  deriving DecidableEq, Repr

/-- Where an address leads (R18, R20, R37): its target, or the target of the RANGE record it earns. -/
def Chip.target (c : Chip) (a : Nat) : Except Nat Nat :=
  if a < 0x002000000000 then if a < c.capacity then .ok 0 else .error 0
  else if mcBase ≤ a ∧ a < mcBase + mcSize then .ok (1 + (a - mcBase) / 2 ^ 24)
  else if tileBase ≤ a ∧ a < tileBase + 192 * 2 ^ 20 then
    let n := (a - tileBase) / 2 ^ 20
    if (a - tileBase) % 2 ^ 20 < tileMemSize then .ok (13 + n / 16) else .error (13 + n / 16)
  else if regBase ≤ a ∧ a < regBase + 24 * 2 ^ 24 then .ok (25 + (a - regBase) / 2 ^ 24)
  else if aonBase ≤ a ∧ a < aonBase + 2 ^ 24 then .ok 49
  else if dbBase ≤ a ∧ a < dbBase + 64 * 2 ^ 16 then .ok 50
  else .error 0x3F

/-- Window `w` of target `t` is enabled and holds the request's first and last byte (R38). -/
def Chip.windowHolds (c : Chip) (t w : Nat) (q : Req) : Bool :=
  c.flag (ACC_WIN_BASE t w) ACC_WIN_BASE.EN &&
  c.fld (ACC_WIN_BASE t w) ACC_WIN_BASE.BASE * 4096 ≤ q.addr &&
  q.addr + q.len ≤ (c.fld (ACC_WIN_LIMIT t w) ACC_WIN_LIMIT.LIMIT + 1) * 4096

/-- The 16-bit entry of master `m` in the table of target `t` (R37). -/
def Chip.accEntry (c : Chip) (t m : Nat) : Nat :=
  if m % 2 = 1 then c.fld (ACC_ENTRY t (m / 2)) ACC_ENTRY.ENTRY_HI
  else c.fld (ACC_ENTRY t (m / 2)) ACC_ENTRY.ENTRY_LO

/-- R38: the lowest-numbered enabled window that contains the request decides. -/
def Chip.checkWindow (c : Chip) (t : Nat) (q : Req) : Option Deny :=
  match (List.range 8).find? (fun w => c.windowHolds t w q) with
  | none => some .noWindow
  | some w => if bitOf (c.accEntry t q.master) (2 * w + b2n q.write) then none else some .permission

/-- R42: a page owner value admits the request. -/
def ownerAdmits (v : Nat) (q : Req) : Bool :=
  q.world == 1 || (1 ≤ v && v ≤ 0x40 && q.tag == v - 1) || (v == 0xFE && !q.write)

/-- The MSI window (R444): the vector of an address in it, and its port. -/
def msiVector (a : Nat) : Option (Nat × Nat) :=
  let o := a - blockAddr 17
  if a < blockAddr 17 then none
  else if 0x800000 ≤ o ∧ o < 0x802000 then some (1, (o - 0x800000) / 4)
  else if 0x810000 ≤ o ∧ o < 0x812000 then some (0, (o - 0x810000) / 4)
  else none

/-- Tile group `g` holds a tile of the tag's slice (R176). -/
def Chip.groupAdmits (c : Chip) (g tag : Nat) : Bool := (List.range 16).any (fun i => c.tileSlice (16 * g + i) == some tag)

/-- The slice tags that reach an address of register block `b` (R97, R150, R176, R177, R190, R213, R214, R239, R240, R283,
R284, R316, R335, R336, R390, R424, R425, R435, R438, R444, R462, R472, R496, R497).  A block without a rule admits all. -/
def Chip.regAdmits (c : Chip) (b : Nat) (q : Req) : Bool :=
  let o := q.addr % 2 ^ 24
  let i := o / 2 ^ 16
  let ctx := fun (m : Nat) => q.tag == c.fld (ACC_MST_CTX m) ACC_MST_CTX.SLICE_TAG
  q.tag == 0 ||
  (match b with
  | 2 => decide (12 ≤ i) || decide (o % 2 ^ 16 < 0x100) || (q.write && decide (0x200 ≤ o % 2 ^ 16)) || c.groupAdmits i q.tag
  | 3 | 4 => decide (192 ≤ i) || c.tileSlice i == some q.tag
  | 5 | 6 => decide (12 ≤ i) || c.groupAdmits i q.tag
  | 7 =>
    if 0x100000 ≤ o ∧ o < 0x120000 then (AMap.get? c.models ((o - 0x100000) / 0x80)).any (fun m => m.slice == q.tag)
    else decide (o < 0x1000) || decide (0x1200 ≤ o) || q.tag == (o - 0x1000) / 8
  | 10 => decide (o < 0x2000) || decide (0x3000 ≤ o) || (AMap.get? c.cfl.streams ((o - 0x2000) / 0x40)).any (fun s => s.slice == q.tag)
  | 12 => decide (0x21000 ≤ o) && decide (o < 0x21400) && (AMap.get? c.safe.outputs ((o - 0x21000) / 0x20)).any (fun x => x.slice == q.tag)
  | 16 => decide (0x100 ≤ o) && decide (o < 0x300) && q.tag == (o - 0x100) / 8
  | 18 => decide (0x2000 ≤ o) && decide (o < 0x2200) && ctx 0x5C
  | 19 => ctx 0x5D
  | 22 => ctx 0x34
  | 23 => ctx 0x40
  | 8 | 9 | 11 | 14 | 15 | 17 | 21 => false
  | _ => true)

/-- R41, R42 and R56, and the rules of the register blocks: the check a target makes after its windows. -/
def Chip.checkTarget (c : Chip) (t : Nat) (q : Req) : Option Deny :=
  if t = 0 then
    if (pagesOf q.addr q.len).all (fun p => ownerAdmits (c.owner p) q) then none else some .owner
  else if t ≤ 12 then
    if (unitsOf (q.addr - mcBase) q.len pageSize).all (fun g => c.segSlice g == some q.tag) then none else some .sliceTag
  else if t ≤ 24 then
    if (unitsOf (q.addr - tileBase) q.len (2 ^ 20)).all (fun n => c.tileSlice n == some q.tag) then none else some .sliceTag
  else if t = 50 then
    let s := (q.addr - dbBase) / 2 ^ 16
    let inSync := (q.addr - dbBase) % 2 ^ 16 ≥ 0x8000
    if (c.slice? s).isNone then some .sliceTag
    else if (q.write || inSync) && q.tag != s then some .sliceTag
    else if q.write && (c.slice? s).any (·.retired) then some .sliceTag
    else none
  else if t = 49 then if q.tag = 0 then none else some .sliceTag
  else match msiVector q.addr with
    | some (_, v) => if q.tag = v / 32 then none else some .sliceTag
    | none => if (unitsOf q.addr q.len 4).all (fun w => c.regAdmits (t - 25) { q with addr := max q.addr (4 * w) }) then none else some .sliceTag

/-- The whole check of a request: none where it passes, else the cause and the TARGET of its record.  R20 does not say
how an access that straddles the end of a range is judged: by its first and its last byte, and the first of the two that
leads nowhere names the TARGET (DESIGN CHOICE, log 98). -/
def Chip.check (c : Chip) (q : Req) : Option (Deny × Nat) :=
  match c.target q.addr, c.target (q.addr + q.len - 1) with
  | .error t, _ => some (.range, t)
  | _, .error t => some (.range, t)
  | .ok t, .ok _ =>
    match c.checkWindow t q with
    | some d => some (if (msiVector q.addr).isSome then .sliceTag else d, t)
    | none => (c.checkTarget t q).map (fun d => (d, t))

/-! ### Error records (R332 to R336) -/

/-- The 32 bytes of an error record (R332). -/
def ErrRec.bytes (e : ErrRec) : List Byte :=
  leBytes 1 e.severity ++ leBytes 1 e.cause ++ leBytes 2 (e.source % 16 + e.unit * 16) ++
  leBytes 1 e.master ++ leBytes 1 (e.slice % 64 + e.world % 2 * 64) ++ leBytes 2 (e.target % 64) ++
  leBytes 8 e.time ++ leBytes 8 e.addr ++
  leBytes 8 (e.detail.getD (Config.errorDetail e.source e.cause e.time).toNat)

/-- Free slots of the device error ring. -/
def Chip.errFree (c : Chip) : Nat :=
  2 ^ c.fld ERR_RING_CTRL ERR_RING_CTRL.LOG2_SLOTS -
    idxSub (c.reg ERR_RING_TAIL) (c.reg ERR_RING_HEAD)

/-- ERR_STATUS shows the holding queue and the live counts (R336). -/
def Chip.errStatus (c : Chip) : Chip :=
  let c := c.setFld ERR_STATUS ERR_STATUS.HELD c.err.held.length
  let c := c.setFld ERR_STATUS ERR_STATUS.HOLDING (b2n (!c.err.held.isEmpty))
  c.setFld ERR_STATUS ERR_STATUS.COALESCING (b2n (c.err.lost.any (fun p => p.2.count != 0)))

/-! ### Valid bits, check codes and stores (R361 to R375) -/

/-- The DRAM channel of an address (R361). -/
def channelOf (a : Nat) : Nat := bitsOf a 19 16 ^^^ bitsOf a 23 20

/-- The 64-byte lines of tile memory and model cache, or the 64 KiB blocks of DRAM, that a range touches:
the granules of the valid bits (R370, R374). -/
def Chip.markValid (c : Chip) (a n : Nat) : Chip :=
  if n = 0 then c
  else if a < mcBase then
    { c with validBlocks := (pagesOf a n).foldl nsInsert c.validBlocks }
  else
    { c with validLines := ((List.range ((a + n - 1) / 64 - a / 64 + 1)).map (· + a / 64)).foldl nsInsert c.validLines }

/-- The DRAM block uses the light code (R364). -/
def Chip.lightBlock (c : Chip) (block : Nat) : Bool :=
  match (List.range 16).find? (fun r => c.flag (MEM_ECC_BASE r) MEM_ECC_BASE.EN &&
      c.fld (MEM_ECC_BASE r) MEM_ECC_BASE.BASE ≤ block && block ≤ c.fld (MEM_ECC_LIMIT r) MEM_ECC_LIMIT.LIMIT) with
  | some r => c.flag (MEM_ECC_BASE r) MEM_ECC_BASE.CODE
  | none => false

/-- Bytes of the codeword that covers an address: R362, R366, R369. -/
def Chip.codewordSize (c : Chip) (a : Nat) : Nat :=
  if a < mcBase then if c.lightBlock (a / pageSize) then 8 else 32
  else if a < tileBase then 64
  else
    let off := (a - tileBase) % 2 ^ 20
    if bitOf (c.fld (TILE_CODE_MAP ((a - tileBase) / 2 ^ 20)) TILE_CODE_MAP.MAP) (off / 2 ^ 16) then 32 else 8

/-- The codewords a range touches, each with whether the range covers it whole. -/
def Chip.codewords (c : Chip) (a n : Nat) : List (Nat × Bool) :=
  if n = 0 then []
  else
    let z := c.codewordSize a
    (List.range ((a + n - 1) / z - a / z + 1)).map (fun i =>
      let w := (a / z + i) * z
      (w, decide (a ≤ w) && decide (w + z ≤ a + n)))

/-- A location is valid (R370, R374). -/
def Chip.isValid (c : Chip) (a : Nat) : Bool :=
  if a < mcBase then c.validBlocks.contains (a / pageSize) else c.validLines.contains (a / 64)

/-- The code of a codeword (R364, R366, R369). -/
def Chip.codeAt (c : Chip) (w : Nat) : Code :=
  if mcBase ≤ w ∧ w < tileBase then .parity else if c.codewordSize w = 32 then .strong (decide (w < mcBase)) else .light

/-- A codeword of a block that is taken as valid though nothing was written to it (R375). -/
def Chip.rawWord (c : Chip) (w : Nat) : Bool :=
  decide (w < mcBase) && (AMap.get? c.rawBlocks (w / pageSize)).any (fun l => !l.contains w)

/-- What a read of a codeword finds: the bits that are corrected, or the cause of an uncorrectable error (R367). -/
def Chip.judge (c : Chip) (w : Nat) : Except Nat Nat :=
  if !c.isValid w then .ok 0
  else if c.rawWord w then .error 2
  else match AMap.get? c.badWords w with
    | none => .ok 0
    | some b => if b.agrees then .ok 0 else (c.codeAt w).judge b.err

/-- A read of the codeword is uncorrectable. -/
def Chip.wordBad (c : Chip) (w : Nat) : Bool := match c.judge w with
  | .ok _ => false
  | .error _ => true

/-- The wrong bits that a read of a codeword returns: those that its correction leaves, or all of them. -/
def Chip.seenErr (c : Chip) (w : Nat) : Nat :=
  if !c.isValid w then 0
  else if c.rawWord w then leNat ((List.range (c.codewordSize w)).map (fun i => Config.dramHolds (w + i)))
  else match AMap.get? c.badWords w with
    | none => 0
    | some b => match c.judge w with
      | .ok m => b.err ^^^ m
      | .error _ => b.err

/-- The wrong bits of one byte, as a read returns it. -/
def Chip.byteErr (c : Chip) (a : Nat) : Byte :=
  let z := c.codewordSize a
  BitVec.ofNat 8 (c.seenErr (a / z * z) / 2 ^ (8 * (a % z)))

/-- R367: `n` bytes as a read returns them: what was written, with the wrong bits that no correction meets. -/
def Chip.readBack (c : Chip) (a n : Nat) : List Byte :=
  if c.badWords.isEmpty && c.rawBlocks.isEmpty then memRead c.mem a n
  else (List.range n).map (fun i => memGet c.mem (a + i) ^^^ c.byteErr (a + i))

/-- The wrong data bits that a write of `n` bytes at `a` leaves in a codeword that it covers in part. -/
def Chip.errLeft (c : Chip) (w a n : Nat) : Nat :=
  leNat ((List.range (c.codewordSize w)).map (fun i => if a ≤ w + i ∧ w + i < a + n then 0 else c.byteErr (w + i)))

/-- R368: the wrong bits after a write of codewords: a whole one has none; one written in part keeps those of its other bytes,
under check bits formed over them. -/
def Chip.badAfter (c : Chip) (a n : Nat) : AMap BadWord :=
  c.badWords.filterMap (fun p =>
    match (c.codewords a n).find? (fun q => q.1 == p.1) with
    | none => some p
    | some (w, whole) => if whole || c.errLeft w a n == 0 then none else some (w, { err := c.errLeft w a n, agrees := true }))

/-- The metadata of a burst of DRAM (Table — Burst metadata): the check bits of what was written, with those that are
wrong. -/
def Chip.metadata (c : Chip) (a : Nat) : Nat :=
  let a := a / 32 * 32
  if c.codewordSize a = 32 then
    (rsCheck (memRead c.mem a 32) + addrChk a * 2 ^ 24) ^^^ (((AMap.get? c.badWords a).map BadWord.err).getD 0 / 2 ^ 256)
  else leNat ((List.range 4).map (fun i =>
    Config.lightCheck (BitVec.ofNat 64 (leNat (memRead c.mem (a + 8 * i) 8))) ^^^ BitVec.ofNat 8 (((AMap.get? c.badWords (a + 8 * i)).map BadWord.err).getD 0 / 2 ^ 64)))

/-- Bytes written with fresh check bits; their blocks or lines become valid. -/
def Chip.store (c : Chip) (a : Nat) (b : List Byte) : Chip :=
  let cw := c.codewords a b.length
  let c := { c with mem := memWrite c.mem a b, badWords := c.badAfter a b.length, rawBlocks := c.rawBlocks.map (fun (p : Nat × List Nat) => (p.1, (cw.filter (fun (q : Nat × Bool) => q.1 / pageSize == p.1)).foldl (fun l (q : Nat × Bool) => nsInsert l q.1) p.2)) }
  let c := if tileBase ≤ a ∧ a < regBase then { c with cleanLines := c.cleanLines.filter (fun l => l < a / 64 || (a + b.length - 1) / 64 < l) } else c
  c.markValid a b.length

/-! ### The device error ring -/

/-- The valid bits of a range of lines cleared (R48, R374). -/
def Chip.clearLines (c : Chip) (a n : Nat) : Chip :=
  { c with
    mem := memClear c.mem a (a + n)
    validLines := c.validLines.filter (fun l => l < a / 64 || (a + n) / 64 ≤ l)
    badWords := c.badWords.filter (fun p => p.1 < a || a + n ≤ p.1) }

/-- A record goes to the next slot of the device error ring, and its interrupt follows (R333, R336).
A denied interrupt write counts in ACC_DENY_COUNT and goes no further. -/
def Chip.errWrite (c : Chip) (e : ErrRec) : Chip :=
  let tail := c.reg ERR_RING_TAIL
  let slot := tail % 2 ^ c.fld ERR_RING_CTRL ERR_RING_CTRL.LOG2_SLOTS
  let c := c.store (c.fld ERR_RING_BASE ERR_RING_BASE.BASE * 4096 + 32 * slot) e.bytes
  let c := c.setReg ERR_RING_TAIL (tail + 1)
  let c := c.count ERR_RECORDS ERR_RECORDS.COUNT 1
  if c.flag ERR_MSI_ADDR ERR_MSI_ADDR.EN then
    let a := c.fld ERR_MSI_ADDR ERR_MSI_ADDR.ADDR * 4
    match c.check { master := 0x61, tag := 0, addr := a, len := 4, write := true } with
    | some _ => c.count ACC_DENY_COUNT ACC_DENY_COUNT.COUNT 1
    | none => { c with posted := c.posted ++ [⟨0x61, 0, a, leBytes 4 (c.reg ERR_MSI_DATA)⟩] }
  else c

/-- The overflow record of R334, when more than 16 slots are free and a live lost count stands. -/
def Chip.errOverflow (c : Chip) : Chip :=
  let live := c.err.lost.filter (fun p => p.2.count != 0)
  if c.errFree ≤ 16 || live.isEmpty || !c.flag ERR_RING_CTRL ERR_RING_CTRL.ENABLE then c
  else
    let ep := c.err.episode + 1
    let total := (live.map (·.2.count)).foldl (· + ·) 0
    let firsts := live.map (·.2.first)
    let lasts := live.map (·.2.last)
    let mask := (live.map (fun p => 2 ^ p.1)).foldl (· + ·) 0
    let c := (List.range 16).foldl (fun c s =>
      let l := AMap.getD c.err.lost s {}
      ((c.setReg (ERR_LOST_CNT s) l.count).setReg (ERR_LOST_FIRST s) l.first).setReg (ERR_LOST_LAST s) l.last) c
    let c := { c with err := { c.err with lost := [], episode := ep } }
    c.errWrite { severity := 0, cause := 0xFF, source := 0, time := firsts.foldl min (firsts.headD 0), addr := lasts.foldl max 0, detail := some (total % 2 ^ 32 + mask * 2 ^ 32 + ep % 2 ^ 16 * 2 ^ 48) }

/-- Held records are written in arrival order as slots free (R333). -/
def Chip.errDrain : List ErrRec → Chip → Chip
  | [], c => c
  | e :: l, c =>
    if c.errFree = 0 then c
    else Chip.errDrain l ({ c with err := { c.err with held := l } }.errWrite e)

/-- What follows when slots of the ring are free: the held records, then the overflow record (R333, R334). -/
def Chip.errService (c : Chip) : Chip :=
  if c.flag ERR_RING_CTRL ERR_RING_CTRL.ENABLE then
    ((Chip.errDrain c.err.held c).errOverflow).errStatus
  else c.errStatus

/-- A record reaches the collector (R332 to R334). -/
def Chip.error (c : Chip) (e : ErrRec) : Chip :=
  let e := { e with time := c.now }
  let c := c.errService
  let on := c.flag ERR_RING_CTRL ERR_RING_CTRL.ENABLE
  if e.severity < 2 then
    if on && c.errFree > 16 then (c.errWrite e).errStatus
    else
      let l := AMap.getD c.err.lost e.source {}
      let l := { count := l.count + 1, first := if l.count = 0 then c.now else l.first, last := c.now : Lost }
      { c with err := { c.err with lost := AMap.set c.err.lost e.source l } }.errStatus
  else if on && c.errFree > 0 && c.err.held.isEmpty then (c.errWrite e).errStatus
  else if c.err.held.length < 32 then
    { c with err := { c.err with held := c.err.held ++ [e] } }.errStatus
  else
    let c := c.setFld ERR_STATUS ERR_STATUS.SAFETY_LOST 1
    let c := c.count ERR_LOST_SAFETY ERR_LOST_SAFETY.COUNT 1
    { c with err := { c.err with safetyDue := true, safetyFirst := if c.reg ERR_LOST_SAFETY = 1 then c.now else c.err.safetyFirst } }.errStatus

/-- The record of a refused request, and its count (R20, R40). -/
def Chip.denied (c : Chip) (q : Req) (d : Deny) (target : Nat) : Chip :=
  let c := c.error { severity := 0, cause := d.code, source := 0, master := q.master, slice := q.tag, world := q.world, target := target, addr := q.addr }
  if d = .range then c else c.count ACC_DENY_COUNT ACC_DENY_COUNT.COUNT 1

/-! ### Reads and writes of memory by the part's own masters -/

/-- How an access ended. -/
inductive Served where
  | ok
  | denied
  | uncorrectable
  deriving DecidableEq, Repr

/-- The memory instance of an address, its kind and its error source (R377). -/
def memInstance (a : Nat) : Nat × Nat × Nat :=
  if a < mcBase then (channelOf a, 0, 1)
  else if a < tileBase then (16 + (a - mcBase) / 2 ^ 24, 1, 2)
  else (32 + (a - tileBase) / 2 ^ 20, 2, 3)

/-- A severity 2 record of the memory system (R389). -/
def Chip.memRecord (c : Chip) (a cause : Nat) (q : Req) : Chip :=
  let (inst, _, src) := memInstance a
  let unit := if src = 1 then inst else if src = 2 then inst - 16 else inst - 32
  c.error { severity := 2, cause := cause, source := src, unit := unit, master := q.master, slice := q.tag, world := q.world, target := if src = 1 then 0 else if src = 2 then 1 + unit else 13 + unit / 16, addr := a }

/-- R377: a corrected error fills its bucket; above THRESHOLD the CE_BURST record is written. -/
def Chip.bucketFill (c : Chip) (inst kind src : Nat) : Chip :=
  let c := c.count (MEM_LB_CORR inst) MEM_LB_CORR.CORRECTED 1
  let c := c.count (MEM_LB inst) MEM_LB.COUNT 1
  if c.fld (MEM_LB inst) MEM_LB.COUNT > c.fld (MEM_LB_CFG kind) MEM_LB_CFG.THRESHOLD then
    let c := c.error { severity := 1, cause := 1, source := src, unit := if src = 1 then inst else if src = 2 then inst - 16 else inst - 32, detail := some (c.fld (MEM_LB_CORR inst) MEM_LB_CORR.CORRECTED) }
    let c := c.setFld (MEM_LB inst) MEM_LB.COUNT 0
    c.count (MEM_LB inst) MEM_LB.OVERFLOWS 1
  else c

/-- R375: an uncorrectable word of the valid table: from then on its 64 blocks are treated as valid, with a record. -/
def Chip.validLost (c : Chip) (k : Nat) : Chip :=
  let bs := (List.range 64).map (· + 64 * k)
  let raw := bs.filter (fun b => !c.validBlocks.contains b)
  let c := { c with badValid := c.badValid.filter (· != k), rawBlocks := raw.foldl (fun m b => AMap.set m b []) c.rawBlocks, validBlocks := bs.foldl nsInsert c.validBlocks }
  (c.count (MEM_LB 225) MEM_LB.UNCORRECTED 1).error { severity := 2, cause := 5, source := 1, unit := 225, addr := 64 * k * pageSize }

/-- The valid table is looked up for a range of DRAM (R370, R375). -/
def Chip.lookValid (c : Chip) (a n : Nat) : Chip :=
  if a < mcBase then (c.badValid.filter (fun k => (pagesOf a n).any (fun p => p / 64 == k))).foldl Chip.validLost c else c

/-- R367: corrected data goes back, where no write to the same burst is queued. -/
def Chip.writeBack (c : Chip) (w m : Nat) : Chip :=
  if c.dramQueue.any (fun r => r.write && decide (r.addr < w / 32 * 32 + 32) && decide (w / 32 * 32 < r.addr + r.len)) then c
  else match AMap.get? c.badWords w with
    | none => c
    | some b => { c with badWords := if b.err ^^^ m = 0 then AMap.del c.badWords w else AMap.set c.badWords w { b with err := b.err ^^^ m } }

/-- R367: the check of one codeword read: a correctable error is corrected, written back and counted; an
uncorrectable one is recorded, and stands until a write replaces the whole codeword. -/
def Chip.checkWord (c : Chip) (q : Req) (w : Nat) : Served × Chip :=
  let (inst, kind, src) := memInstance w
  match c.judge w with
  | .ok m => (.ok, if m = 0 then c else (c.writeBack w m).bucketFill inst kind src)
  | .error cause => (.uncorrectable, (c.count (MEM_LB inst) MEM_LB.UNCORRECTED 1).memRecord w cause q)

/-- The codewords of a read, in order; the whole is uncorrectable when one is. -/
def Chip.checkWords (c : Chip) (q : Req) : List (Nat × Bool) → Served × Chip
  | [] => (.ok, c)
  | (w, _) :: l =>
    let (r, c) := c.checkWord q w
    let (r', c) := Chip.checkWords c q l
    (if r = .ok then r' else r, c)

/-- An address lies in one of the three memories. -/
def inMemory (a : Nat) : Bool := decide (a < regBase)

/-- The number of the 4 KiB unit of an address among a slice's extents (R50). -/
def unitIndex : List (Nat × Nat) → Nat → Nat → Option Nat
  | [], _, _ => none
  | (b, n) :: l, a, k =>
    if b * pageSize ≤ a ∧ a < (b + n) * pageSize then some (k + (a - b * pageSize) / 4096)
    else unitIndex l a (k + n * 16)

/-- R50: the bits of the 4 KiB units a range touches are set in the slice's dirty bitmap. -/
def Chip.logRange (c : Chip) (s a n : Nat) : Chip :=
  match AMap.get? c.dirtyLogs s, c.slice? s with
  | some d, some sl =>
    if n = 0 then c
    else (List.range ((a + n - 1) / 4096 - a / 4096 + 1)).foldl (fun c i =>
      match unitIndex sl.extents ((a / 4096 + i) * 4096) 0 with
      | some k =>
        let w := d.bitmap + k / 8
        c.store w [BitVec.ofNat 8 ((memGet c.mem w).toNat ||| 2 ^ (k % 8))]
      | none => c) c
  | _, _ => c

/-- The masters whose writes the dirty log leaves to the hypervisor (R50). -/
def cpuMaster (m : Nat) : Bool := m < 0x10 || (0x50 ≤ m && m ≤ 0x53) || m == 0x4C || m == 0x48

/-! ### Sync objects (R82 to R85) -/

/-- The value of a sync object. -/
def Chip.sync (c : Chip) (o : Nat) : W64 := AMap.getD c.syncs o 0

/-- The count, bits 62:0. -/
def syncCount (v : W64) : Nat := v.toNat % 2 ^ 63

/-- The error bit, bit 63. -/
def syncErr (v : W64) : Bool := decide (2 ^ 63 ≤ v.toNat)

/-- A sync object from its count and its error bit. -/
def mkSync (n : Nat) (e : Bool) : W64 := BitVec.ofNat 64 (n % 2 ^ 63 + if e then 2 ^ 63 else 0)

/-- What a signal does to an object. -/
inductive Signal where
  | setMax (v : Nat)
  | add (v : Nat)
  | reset (v : Nat)
  | setError
  deriving DecidableEq, Repr

/-- R78, R82: the new value of an object. -/
def Signal.apply (g : Signal) (x : W64) : W64 :=
  match g with
  | .setMax v => mkSync (max (syncCount x) v) (syncErr x)
  | .add v =>
    if syncCount x + v ≥ 2 ^ 63 then mkSync (2 ^ 63 - 1) true else mkSync (syncCount x + v) (syncErr x)
  | .reset v => mkSync v false
  | .setError => mkSync (syncCount x) true

/-- The object is in the slice's range (R82). -/
def Slice.hasSync (s : Slice) (o : Nat) : Bool := s.syncBase ≤ o && o < s.syncBase + s.syncCount

/-! ### Fields of a packet (R71) -/

def Packet.u (p : Packet) (off k : Nat) : Nat := bytesU p.bytes off k
def Packet.op (p : Packet) : Nat := p.u 0 2 % 2 ^ 12
def Packet.slots (p : Packet) : Nat := bitsOf (p.u 0 2) 13 12 + 1
def Packet.cls (p : Packet) : Nat := bitsOf (p.u 0 2) 15 14
def Packet.flags (p : Packet) : Nat := p.u 2 2
def Packet.waitEn (p : Packet) : Bool := bitOf p.flags 0
def Packet.signalEn (p : Packet) : Bool := bitOf p.flags 1
def Packet.signalAdd (p : Packet) : Bool := bitOf p.flags 2
def Packet.urgent (p : Packet) : Bool := bitOf p.flags 3
def Packet.idempotentOk (p : Packet) : Bool := bitOf p.flags 4
def Packet.quiet (p : Packet) : Bool := bitOf p.flags 5
def Packet.irq (p : Packet) : Bool := bitOf p.flags 6
def Packet.seq (p : Packet) : Nat := p.u 4 4
def Packet.waitObj (p : Packet) : Nat := p.u 8 2
def Packet.signalObj (p : Packet) : Nat := p.u 10 2
def Packet.waitThreshold (p : Packet) : Nat := p.u 16 8
def Packet.signalValue (p : Packet) : Nat := p.u 24 8

/-- The used entries of a SYNC_WAIT (R79), each with its index; the header wait is one more ALL entry. -/
def Packet.waitEntries (p : Packet) : List (Nat × Nat × Nat × Nat) :=
  (List.range (if p.slots = 1 then 2 else 6)).filterMap (fun i =>
    let o := 32 + 16 * i
    let m := p.u (o + 2) 1
    if m = 0 then none else some (i, p.u o 2, m, p.u (o + 8) 8 % 2 ^ 63))

/-- The objects, thresholds and modes a waiting SYNC_WAIT packet is released by. -/
def Packet.waitTerms (p : Packet) : List (Nat × Nat × Nat × Nat) :=
  p.waitEntries ++ (if p.waitEn then [(64, p.waitObj, 1, p.waitThreshold)] else [])

/-- R79: the wait is met at these values of the objects. -/
def Chip.waitHolds (c : Chip) (p : Packet) : Bool :=
  let met := fun (e : Nat × Nat × Nat × Nat) => decide (e.2.2.2 ≤ syncCount (c.sync e.2.1))
  let t := p.waitTerms
  (t.filter (fun e => e.2.2.1 == 1)).all met &&
    ((t.filter (fun e => e.2.2.1 == 2)).isEmpty || (t.filter (fun e => e.2.2.1 == 2)).any met)

/-- R79: bit i set where entry i is met. -/
def Chip.waitMask (c : Chip) (p : Packet) : Nat :=
  (p.waitEntries.map (fun e => if e.2.2.2 ≤ syncCount (c.sync e.2.1) then 2 ^ e.1 else 0)).foldl (· + ·) 0

/-- R83, R84: what an object's new value does to one packet that waits. -/
def Chip.wakePacket (c : Chip) (o : Nat) (p : Packet) : Packet :=
  match p.phase with
  | .fetched =>
    if p.waitEn && p.waitObj == o && p.verdict.isNone && !p.waitMet && !p.dependency then
      if syncErr (c.sync o) then { p with dependency := true }
      else if p.waitThreshold ≤ syncCount (c.sync o) then { p with waitMet := true } else p
    else p
  | .running =>
    if p.op = 0x013 && p.released.isNone && !p.dependency && p.waitTerms.any (fun e => e.2.1 == o) then
      if syncErr (c.sync o) then { p with dependency := true }
      else if c.waitHolds p then { p with released := some (BitVec.ofNat 64 (c.waitMask p)) } else p
    else p
  | _ => p

/-- A wait of a unit other than a ring (a tile's SYNC_WAIT, a checkpoint trigger, a pose) sees the new value. -/
def Chip.wakeUnit (c : Chip) (o : Nat) (w : UnitWait) : UnitWait :=
  if w.obj = o && !w.met && (w.threshold ≤ syncCount (c.sync o) || syncErr (c.sync o)) then
    { w with met := true, err := syncErr (c.sync o) }
  else w

/-- Every waiter on an object sees its new value; the units whose waits are over stand first, in the order in which they came to
be (R453). -/
def Chip.wake (c : Chip) (o : Nat) : Chip :=
  let l := c.unitWaits.map (c.wakeUnit o)
  { c with packets := c.packets.map (c.wakePacket o), unitWaits := l.filter (·.met) ++ l.filter (fun w => !w.met) }

/-- R83: one signal applied atomically, and every waiter on the object checked against the new value. -/
def Chip.signal (c : Chip) (o : Nat) (g : Signal) : Chip :=
  let v := g.apply (c.sync o)
  Chip.wake { c with syncs := if v = 0 then AMap.del c.syncs o else AMap.set c.syncs o v } o

/-- R84: the failure signal: the error bit and the signal in one update. -/
def Chip.signalFail (c : Chip) (o : Nat) (g : Signal) : Chip :=
  let v := Signal.setError.apply (g.apply (c.sync o))
  Chip.wake { c with syncs := AMap.set c.syncs o v } o

end Sys2Proof.Machine
end

