-- ==== Sys2Proof/Machine/Num.lean ====
section
/-!
DEFINITION. The number formats of the tiles and engines and their arithmetic: exact values, rounding, the merge of a
chunk, conversions, and the bounded functions (04 R99 to R115).
-/

namespace Sys2Proof.Machine

/-! ### Exact values -/

/-- A number m·2^e. -/
structure Dy where
  m : Int
  e : Int
  deriving DecidableEq, Repr

/-- `m·2^k` for a shift that is not negative. -/
def shl (m : Int) (k : Int) : Int := m * (2 ^ k.toNat : Nat)

def Dy.add (a b : Dy) : Dy :=
  let e := min a.e b.e
  ⟨shl a.m (a.e - e) + shl b.m (b.e - e), e⟩

def Dy.mul (a b : Dy) : Dy := ⟨a.m * b.m, a.e + b.e⟩
def Dy.neg (a : Dy) : Dy := ⟨-a.m, a.e⟩
def Dy.ofInt (i : Int) : Dy := ⟨i, 0⟩

/-- a ≤ b. -/
def Dy.le (a b : Dy) : Bool := decide ((a.add b.neg).m ≤ 0)
def Dy.lt (a b : Dy) : Bool := decide ((a.add b.neg).m < 0)
def Dy.abs (a : Dy) : Dy := ⟨(a.m.natAbs : Int), a.e⟩

/-- ⌊log2 |a|⌋ of a value that is not zero. -/
def Dy.log2 (a : Dy) : Int := (Nat.log2 a.m.natAbs : Int) + a.e

/-- A value of a format: not a number, an infinity, or a finite value with its sign (which a zero has too). -/
inductive FVal where
  | nan
  | inf (neg : Bool)
  | fin (neg : Bool) (m : Nat) (e : Int)
  deriving DecidableEq, Repr

def FVal.zero : FVal := .fin false 0 0
def FVal.isNan : FVal → Bool
  | .nan => true
  | _ => false
def FVal.isFin : FVal → Bool
  | .fin _ _ _ => true
  | _ => false
def FVal.isZero : FVal → Bool
  | .fin _ m _ => m == 0
  | _ => false
def FVal.neg : FVal → Bool
  | .nan => false
  | .inf n => n
  | .fin n _ _ => n
/-- The exact value of a finite number. -/
def FVal.dy : FVal → Dy
  | .fin n m e => ⟨if n then -(m : Int) else m, e⟩
  | _ => ⟨0, 0⟩
/-- An exact value as a number; a zero has the sign given. -/
def Dy.val (a : Dy) (zeroNeg : Bool) : FVal :=
  .fin (if a.m = 0 then zeroNeg else decide (a.m < 0)) a.m.natAbs a.e

/-! ### Formats (R99) -/

/-- A floating format: exponent and fraction bits, bias, and whether its top exponent is infinity and NaN (2), has one
NaN (1), or is all numbers (0). -/
structure Fmt where
  eb : Nat
  mb : Nat
  bias : Nat
  kind : Nat
  deriving DecidableEq, Repr

def e4m3 : Fmt := ⟨4, 3, 7, 1⟩
def e5m2 : Fmt := ⟨5, 2, 15, 2⟩
def e2m1 : Fmt := ⟨2, 1, 1, 0⟩
def bf16 : Fmt := ⟨8, 7, 127, 2⟩
def fp16 : Fmt := ⟨5, 10, 15, 2⟩
def fp32 : Fmt := ⟨8, 23, 127, 2⟩

/-- The largest exponent field of a finite value. -/
def Fmt.topField (F : Fmt) : Nat := 2 ^ F.eb - 1 - (if F.kind = 2 then 1 else 0)
/-- The largest fraction at that exponent. -/
def Fmt.topMan (F : Fmt) : Nat := 2 ^ F.mb - 1 - (if F.kind = 1 then 1 else 0)
/-- The bits of a value's magnitude: the largest finite, infinity, and NaN. -/
def Fmt.maxBits (F : Fmt) : Nat := F.topField * 2 ^ F.mb + F.topMan
def Fmt.infBits (F : Fmt) : Nat := (2 ^ F.eb - 1) * 2 ^ F.mb
/-- The canonical NaN: 0x7FC0_0000 in FP32, 0x7FC0 in BF16 (R114), S.1111.111 in E4M3; the quiet bit alone in the other
formats (DEDUCED, log 13). -/
def Fmt.nanBits (F : Fmt) : Nat :=
  if F.kind = 2 then F.infBits + 2 ^ (F.mb - 1) else if F.kind = 1 then 2 ^ (F.eb + F.mb) - 1 else 0
def Fmt.width (F : Fmt) : Nat := 1 + F.eb + F.mb

/-- The value of a bit pattern. -/
def Fmt.decode (F : Fmt) (b : Nat) : FVal :=
  let s := bitOf b (F.eb + F.mb)
  let x := bitsOf b (F.eb + F.mb - 1) F.mb
  let m := b % 2 ^ F.mb
  if F.kind = 2 ∧ x = 2 ^ F.eb - 1 then if m = 0 then .inf s else .nan
  else if F.kind = 1 ∧ x = 2 ^ F.eb - 1 ∧ m = 2 ^ F.mb - 1 then .nan
  else if x = 0 then .fin s m (1 - (F.bias : Int) - F.mb)
  else .fin s (m + 2 ^ F.mb) ((x : Int) - F.bias - F.mb)

/-- How a conversion rounds: to nearest even, or up in magnitude when the fraction and 16 random bits carry (R112). -/
inductive Rnd where
  | rne
  | stoch (u : Nat)
  deriving DecidableEq, Repr

/-- The magnitude m·2^e in units of 2^q, rounded. -/
def roundQ (r : Rnd) (m : Nat) (e q : Int) : Nat :=
  if q ≤ e then m * 2 ^ (e - q).toNat
  else
    let d := (q - e).toNat
    let k := m / 2 ^ d
    let rem := m % 2 ^ d
    match r with
    | .rne => if 2 * rem > 2 ^ d ∨ (2 * rem = 2 ^ d ∧ k % 2 = 1) then k + 1 else k
    | .stoch u => if rem * 2 ^ 16 / 2 ^ d + u ≥ 2 ^ 16 then k + 1 else k

/-- The magnitude bits of a finite magnitude m·2^e in a format, or none where it is above the largest finite value. -/
def Fmt.encodeMag (F : Fmt) (r : Rnd) (m : Nat) (e : Int) : Option Nat :=
  if m = 0 then some 0
  else
    let x := max ((Nat.log2 m : Int) + e) (1 - (F.bias : Int))
    let k := roundQ r m e (x - F.mb)
    -- a carry out of the fraction raises the exponent by itself
    let bits := if k < 2 ^ F.mb then k else ((x + F.bias).toNat - 1) * 2 ^ F.mb + k
    if bits ≤ F.maxBits then some bits else none

/-- The bit pattern with a sign. -/
def Fmt.signed (F : Fmt) (neg : Bool) (mag : Nat) : Nat := (if neg then 2 ^ (F.eb + F.mb) else 0) + mag

/-- R113: a conversion to a floating format: saturating formats and SATFINITE take the largest finite value. -/
def Fmt.encode (F : Fmt) (r : Rnd) (satFinite : Bool) (v : FVal) : Nat :=
  let big := if F.kind = 2 && !satFinite then F.infBits else F.maxBits
  match v with
  | .nan => F.nanBits
  | .inf n => F.signed n big
  | .fin n m e => F.signed n ((F.encodeMag r m e).getD big)

/-- A value rounded once to FP32, to nearest even, overflowing to infinity. -/
def f32 (v : FVal) : FVal := fp32.decode (fp32.encode .rne false v)

/-- Element formats by code, as floats. -/
def floatFmt : Nat → Option Fmt
  | 3 => some e4m3
  | 4 => some e5m2
  | 5 => some e2m1
  | 6 => some e4m3
  | 7 => some e5m2
  | 8 => some e2m1
  | 0xA => some bf16
  | 0xB => some fp16
  | 0xC => some fp32
  | _ => none

/-- The integer formats: width, signed. -/
def intFmt : Nat → Option (Nat × Bool)
  | 0 => some (8, true)
  | 1 => some (8, false)
  | 2 => some (4, true)
  | 0xD => some (32, true)
  | _ => none

/-- Bits of an element of a format code. -/
def elemBits : Nat → Nat
  | 2 => 4
  | 5 => 4
  | 8 => 4
  | 0xA => 16
  | 0xB => 16
  | 0xC => 32
  | 0xD => 32
  | _ => 8

/-- The microscaled formats. -/
def isMx (f : Nat) : Bool := 6 ≤ f && f ≤ 9

/-- A format code that is not reserved. -/
def fmtOk (f : Nat) : Bool := decide (f < 0xE)

/-- The bits of element `i` of packed elements (R99). -/
def elemAt (f : Nat) (l : List Byte) (i : Nat) : Nat :=
  if elemBits f = 4 then bytesU l (i / 2) 1 / 16 ^ (i % 2) % 16
  else bytesU l (i * (elemBits f / 8)) (elemBits f / 8)

/-- The value of an element: an integer's, or a float's, without a scale.  An MXINT8 element is an integer here. -/
def elemVal (f b : Nat) : FVal :=
  match floatFmt f with
  | some F => F.decode b
  | none =>
    match intFmt f with
    | some (w, true) => (Dy.ofInt (sx w b)).val false
    | some (_, false) => (Dy.ofInt b).val false
    | none => (Dy.ofInt (sx 8 b)).val false

/-- The values of `n` packed elements. -/
def elems (f : Nat) (l : List Byte) (n : Nat) : List FVal := (List.range n).map (fun i => elemVal f (elemAt f l i))

/-- Elements packed to bytes (R99). -/
def packElems (f : Nat) : List Nat → List Byte
  | [] => []
  | [x] => if elemBits f = 4 then [BitVec.ofNat 8 (x % 16)] else leBytes (elemBits f / 8) x
  | x :: y :: l =>
    if elemBits f = 4 then BitVec.ofNat 8 (x % 16 + y % 16 * 16) :: packElems f l
    else leBytes (elemBits f / 8) x ++ packElems f (y :: l)

/-- Bytes of `n` packed elements. -/
def packedLen (f n : Nat) : Nat := (n * elemBits f + 7) / 8

/-! ### Operand pairs (R100) -/

/-- Operand pairs: 4-bit pairs run 8 clocks a chunk, 16-bit pairs 128, the rest 32; and whether they sum in INT32. -/
def pairInfo (a b : Nat) : Option (Nat × Bool) :=
  let int8 := fun f => f == 0 || f == 1
  let fp8 := fun f => f == 3 || f == 4
  let mx8 := fun f => f == 6 || f == 7
  if int8 a && int8 b then some (32, true)
  else if a == 2 && b == 2 then some (8, true)
  else if (a == 2 && int8 b) || (int8 a && b == 2) then some (32, true)
  else if fp8 a && fp8 b then some (32, false)
  else if a == 5 && b == 5 then some (8, false)
  else if (a == 5 && fp8 b) || (fp8 a && b == 5) then some (32, false)
  else if mx8 a && mx8 b then some (32, false)
  else if a == 8 && b == 8 then some (8, false)
  else if (a == 8 && mx8 b) || (mx8 a && b == 8) then some (32, false)
  else if a == 9 && b == 9 then some (32, false)
  else if a == 0xA && b == 0xA then some (128, false)
  else if a == 0xB && b == 0xB then some (128, false)
  else none

/-! ### The merge of a chunk (R101 to R105) -/

/-- What the products of a chunk come to, before the merge: NaN, infinities of either sign, and the exact finite
sum. -/
structure ChunkSum where
  nan : Bool := false
  pinf : Bool := false
  ninf : Bool := false
  sum : Dy := ⟨0, 0⟩
  deriving DecidableEq, Repr

def ChunkSum.addVal (s : ChunkSum) : FVal → ChunkSum
  | .nan => { s with nan := true }
  | .inf true => { s with ninf := true }
  | .inf false => { s with pinf := true }
  | v => { s with sum := s.sum.add v.dy }

/-- The exact product of two values. -/
def fmul (a b : FVal) : FVal :=
  match a, b with
  | .nan, _ => .nan
  | _, .nan => .nan
  | .inf s, y => if y.isZero then .nan else .inf (s != y.neg)
  | x, .inf s => if x.isZero then .nan else .inf (x.neg != s)
  | .fin s m e, .fin s' m' e' => .fin (s != s') (m * m') (e + e')

/-- The sum of the products of two vectors. -/
def chunkSum (a b : List FVal) : ChunkSum :=
  (a.zip b).foldl (fun s p => s.addVal (fmul p.1 p.2)) {}

/-- The scale 2^(v − 127) of an E8M0 byte; none for NaN. -/
def e8m0 (v : Nat) : Option Int := if v = 255 then none else some ((v : Int) - 127)

/-- R103: the block sum times both scales; MXINT8 products carry 2^−12. -/
def ChunkSum.scale (s : ChunkSum) (sa sb : Nat) (mxint : Bool) : ChunkSum :=
  match e8m0 sa, e8m0 sb with
  | some x, some y => { s with sum := ⟨s.sum.m, s.sum.e + x + y - (if mxint then 12 else 0)⟩ }
  | _, _ => { s with nan := true }

/-- R104: a chunk merged into an FP32 accumulator; the flag says that a NaN reached it. -/
def mergeF (acc : Nat) (s : ChunkSum) : Nat × Bool :=
  let t := s.addVal (fp32.decode acc)
  if t.nan || (t.pinf && t.ninf) then (0x7FC00000, true)
  else if t.pinf then (0x7F800000, false)
  else if t.ninf then (0xFF800000, false)
  else (fp32.encode .rne false (t.sum.val false), false)

/-- R105: a chunk merged into an INT32 accumulator; the flag says that it saturated. -/
def mergeI (acc : Nat) (s : ChunkSum) : Nat × Bool :=
  let t := sx 32 acc + s.sum.m * (2 ^ s.sum.e.toNat : Nat)
  if t > 2147483647 then (ux 32 2147483647, true)
  else if t < -2147483648 then (ux 32 (-2147483648), true)
  else (ux 32 t, false)

/-! ### Vector arithmetic (R114) -/

/-- The exact sum of two values, with the sign IEEE 754 gives a zero under round to nearest. -/
def fadd (a b : FVal) : FVal :=
  match a, b with
  | .nan, _ => .nan
  | _, .nan => .nan
  | .inf s, .inf s' => if s = s' then .inf s else .nan
  | .inf s, _ => .inf s
  | _, .inf s => .inf s
  | x, y => (x.dy.add y.dy).val (x.neg && y.neg)

/-- minimumNumber and maximumNumber of IEEE 754-2019: −0 is below +0. -/
def fminmax (big : Bool) (a b : FVal) : FVal :=
  match a, b with
  | .nan, y => y
  | x, .nan => x
  | x, y =>
    let le := match x, y with
      | .inf true, _ => true
      | _, .inf false => true
      | .inf false, _ => false
      | _, .inf true => false
      | _, _ => if x.isZero && y.isZero then x.neg || !y.neg else Dy.le x.dy y.dy
    if le then (if big then y else x) else if big then x else y

/-- A result in a vector format: FP32, or rounded once more to BF16. -/
def vecBits (f : Nat) (v : FVal) : Nat :=
  if f = 0xA then bf16.encode .rne false (f32 v) else fp32.encode .rne false v

/-! ### The bounded functions (R115) -/

/-- Binary places kept of the exact value of a function: enough that only its bound decides. -/
def fxBits : Nat := 320

/-- A magnitude as a fixed-point number. -/
def fx (m : Nat) (e : Int) : Nat :=
  if 0 ≤ e + fxBits then m * 2 ^ (e + fxBits).toNat else m / 2 ^ (-(e + fxBits)).toNat

/-- Taylor sum of e^x for fixed-point x below 1/2. -/
def expTaylor (x : Nat) : Nat → Nat → Nat → Nat
  | 0, _, _ => 0
  | n + 1, k, t => t + expTaylor x n (k + 1) (t * x / 2 ^ fxBits / (k + 1))

/-- A fixed-point number squared `n` times. -/
def squareN : Nat → Nat → Nat
  | 0, y => y
  | n + 1, y => squareN n (y * y / 2 ^ fxBits)

/-- e^x for a fixed-point x below 256. -/
def expFx (x : Nat) : Nat := squareN 10 (expTaylor (x / 2 ^ 10) 60 0 (2 ^ fxBits))

/-- The exact value of a function, as the dyadic number nearest below it. -/
def expExact (neg : Bool) (m : Nat) (e : Int) : Dy :=
  let y := expFx (fx m e)
  if neg then ⟨(2 ^ (4 * fxBits) / y : Nat), -(3 * fxBits : Int)⟩ else ⟨y, -(fxBits : Int)⟩

def tanhExact (m : Nat) (e : Int) : Dy :=
  let y := expFx (2 * fx m e)
  ⟨((y - 2 ^ fxBits) * 2 ^ fxBits / (y + 2 ^ fxBits) : Nat), -(fxBits : Int)⟩

def rcpExact (m : Nat) (e : Int) : Dy := ⟨(2 ^ fxBits / m : Nat), -e - fxBits⟩

/-- Integer square root by Newton's steps from above. -/
def isqrt (n : Nat) : Nat → Nat → Nat
  | 0, x => x
  | k + 1, x =>
    let y := (x + n / x) / 2
    if y < x then isqrt n k y else x

def rsqExact (m : Nat) (e : Int) : Dy :=
  -- m·2^e with an even exponent; 1/√ of it is √(2^(2k) / m)·2^(−e/2 − k)
  let (m, e) := if e % 2 = 0 then (m, e) else (2 * m, e - 1)
  let n := 2 ^ (2 * fxBits) / m
  ⟨(isqrt n 700 (2 ^ fxBits) : Nat), -(e / 2) - fxBits⟩

/-- The exponent of an FP32 ulp at a value, never below the subnormal's. -/
def ulpExp (x : Dy) : Int := max (x.log2 - 23) (-149)

/-- The magnitude bits of an FP32 value `k − 4` places from `bits`. -/
def nearBits (bits k : Nat) : Nat := bits + k - 4

/-- A result within its bound: the candidate a free value picks near the exact value when it is within `n` times
2^q of it, else the value correctly rounded (R115; log 4). -/
def bounded (exact : Dy) (n : Nat) (q : Int) (free : Nat) : Nat :=
  let base := (fp32.encodeMag .rne exact.m.natAbs exact.e).getD fp32.infBits
  let cand := nearBits base (free % 9)
  let diff := ((fp32.decode cand).dy.add exact.neg).abs
  if 4 ≤ base + free % 9 ∧ cand ≤ fp32.maxBits ∧ Dy.le diff ⟨n, q⟩ then cand else base

/-- The bound of a function at its exact value: `n` ulps, or below 2^−126 the absolute bound 2^q. -/
def boundAt (exact : Dy) (n : Nat) (q : Int) (free : Nat) : Nat :=
  if exact.m ≠ 0 ∧ -126 ≤ exact.log2 then bounded exact n (ulpExp exact) free else bounded exact 1 q free

/-- a·10^k compared with decimal numbers: |x|·10000 against `t`. -/
def absOver (m : Nat) (e : Int) (t : Nat) : Bool := Dy.lt ⟨t, 0⟩ ⟨(m * 10000 : Nat), e⟩

/-- exp of an FP32 value; `free` where the table states no bound. -/
def expF (v : FVal) (free : Nat) : Nat :=
  match v with
  | .nan => fp32.nanBits
  | .inf true => 0
  | .inf false => fp32.infBits
  | .fin neg m e =>
    if m = 0 then fp32.encode .rne false (.fin false 1 0)
    else if !neg && absOver m e 887228 then fp32.infBits
    else if neg && absOver m e 1039800 then 0
    else if !neg && absOver m e 887200 then free % 2 ^ 32
    else if neg && absOver m e 873300 && -126 ≤ (expExact neg m e).log2 then free % 2 ^ 32
    else boundAt (expExact neg m e) 2 (-148) free

def rcpF (v : FVal) (free : Nat) : Nat :=
  match v with
  | .nan => fp32.nanBits
  | .inf s => fp32.signed s 0
  | .fin s m e => if m = 0 then fp32.signed s fp32.infBits else fp32.signed s (boundAt (rcpExact m e) 1 (-149) free)

def rsqF (v : FVal) (free : Nat) : Nat :=
  match v with
  | .nan => fp32.nanBits
  | .inf true => fp32.nanBits
  | .inf false => 0
  | .fin s m e =>
    if m = 0 then fp32.signed s fp32.infBits
    else if s then fp32.nanBits
    else let x := rsqExact m e; bounded x 2 (ulpExp x) free

def tanhF (v : FVal) (free : Nat) : Nat :=
  match v with
  | .nan => fp32.nanBits
  | .inf s => fp32.signed s 0x3F800000
  | .fin s m e =>
    if Dy.lt ⟨m, e⟩ ⟨1, -12⟩ then fp32.encode .rne false (.fin s m e)
    else if !Dy.lt ⟨(m * 100 : Nat), e⟩ ⟨901, 0⟩ then fp32.signed s 0x3F800000
    else let x := tanhExact m e; fp32.signed s (bounded x 4 (ulpExp x) free)

/-! ### Rounding bits and conversions (R111 to R113) -/

/-- One step of the 32-bit Galois LFSR of R112; the bit shifted out is its output (DEDUCED, log 14). -/
def lfsrStep (s : Nat) : Nat := if s % 2 = 1 then (s / 2) ^^^ 0x80200003 else s / 2

/-- `n` steps: the output bits in order, the first highest, and the state after. -/
def lfsrRun : Nat → Nat → Nat → Nat × Nat
  | 0, s, acc => (acc, s)
  | n + 1, s, acc => lfsrRun n (lfsrStep s) (2 * acc + s % 2)

/-- The rounding bits of the 32 lanes of a conversion, and the state after its 512 steps. -/
def lfsrLanes : Nat → Nat → List Nat × Nat
  | 0, s => ([], s)
  | n + 1, s =>
    let (u, s) := lfsrRun 16 s 0
    let (l, s) := lfsrLanes n s
    (u :: l, s)

/-- What a conversion gives: the element's bits, whether it saturated, whether it saw a NaN. -/
structure Conv where
  bits : Nat
  sat : Bool := false
  nan : Bool := false
  deriving DecidableEq, Repr

/-- The signed integer a value rounds to. -/
def roundInt (r : Rnd) (d : Dy) : Int :=
  let k := roundQ r d.m.natAbs d.e 0
  if d.m < 0 then -(k : Int) else k

/-- The range of an integer format. -/
def intRange (f : Nat) : Int × Int :=
  match intFmt f with
  | some (w, true) => (-(2 ^ (w - 1) : Nat), (2 ^ (w - 1) : Nat) - 1)
  | some (w, false) => (0, (2 ^ w : Nat) - 1)
  | none => (-128, 127)

/-- R111 step 2: to an integer format. -/
def convInt (f : Nat) (r : Rnd) (clamp : Option (Int × Int)) (z : Int) (t : FVal) : Conv :=
  let (lo, hi) := clamp.getD (intRange f)
  let w := elemBits f
  match t with
  | .nan => { bits := ux w z, nan := true }
  | .inf n => { bits := ux w (if n then lo else hi), sat := true }
  | v =>
    let q := roundInt r v.dy + z
    let c := if q > hi then hi else if q < lo then lo else q
    { bits := ux w c, sat := decide (c ≠ q) }

/-- R111 step 3, R113: to a floating format. -/
def convFloat (F : Fmt) (r : Rnd) (satFinite : Bool) (t : FVal) : Conv :=
  if t.isNan then { bits := F.nanBits, nan := true }
  else { bits := F.encode r satFinite t }

/-- One element, to any format that is not microscaled. -/
def convElem (f : Nat) (r : Rnd) (satFinite : Bool) (clamp : Option (Int × Int)) (z : Int) (t : FVal) : Conv :=
  match floatFmt f with
  | some F => convFloat F r satFinite t
  | none => convInt f r clamp z t

/-- emax of the microscaled formats (R111). -/
def mxEmax : Nat → Int
  | 6 => 8
  | 7 => 15
  | 8 => 2
  | _ => 0

/-- The scale byte of a block: E8M0 of ⌊log2 amax⌋ − emax, 0 for a block of zeros.  Values that are not finite are not
counted, and the byte is kept in 0 to 254 (DEDUCED, log 15). -/
def mxScale (f : Nat) (ts : List FVal) : Nat :=
  let l := (ts.filter (fun t => t.isFin && !t.isZero)).map (fun t => t.dy.log2)
  match l with
  | [] => 0
  | x :: l => (min (max (l.foldl max x - mxEmax f + 127) 0) 254).toNat

/-- An element of a block under its scale. -/
def mxElem (f : Nat) (r : Rnd) (scale : Nat) (t : FVal) : Conv :=
  let v := match t with
    | .fin n m e => FVal.fin n m (e - ((scale : Int) - 127) + (if f = 9 then 6 else 0))
    | v => v
  if f = 9 then convInt 0 r none 0 v
  else match floatFmt f with
    | some F => convFloat F r true v
    | none => { bits := 0 }

end Sys2Proof.Machine
end

