-- ==== Sys2Proof/Machine/Heads.lean ====
section
/-!
DEFINITION. Packets between their fetch and their outcome: status codes, opcodes, the header check, the heads of rings,
what makes a head ready, and the state a ring shows (03 R57 to R75).
-/

namespace Sys2Proof.Machine

/-! ### Status codes (R75) -/

def stDone : Nat := 0x0000
def stBadOpcode : Nat := 0x0101
def stBadParam : Nat := 0x0102
def stBadSize : Nat := 0x0103
def stAccessDenied : Nat := 0x0201
def stNotOwner : Nat := 0x0202
def stNoResource : Nat := 0x0301
def stBudgetDenied : Nat := 0x0302
def stDeferred : Nat := 0x0401
def stPreempted : Nat := 0x0402
def stAbortedByDisable : Nat := 0x0403
def stFwRestarted : Nat := 0x0404
def stDeadlineMissed : Nat := 0x0405
def stDisabled : Nat := 0x0406
def stDependencyFailed : Nat := 0x0407
def stAborted : Nat := 0x0408
def stChannelDisagree : Nat := 0x0501
def stOutputInvalid : Nat := 0x0502
def stShapeEmpty : Nat := 0x0601
def stServiceUnavailable : Nat := 0x0602
def stUncorrectable : Nat := 0x0701

/-- The statuses of kind Success; every other status of a reply is a Failure (R75). -/
def isSuccess (st : Nat) : Bool := st == stDone || st == stDeferred || st == stShapeEmpty

/-! ### Opcodes (R73) -/

/-- A row of the opcode table: opcode, least and most slots, fast path, idempotent, slice 0 only. -/
structure OpRow where
  op : Nat
  lo : Nat
  hi : Nat
  fast : Bool
  idem : Bool
  slice0 : Bool
  deriving DecidableEq, Repr

/-- Table — Abmor opcodes (R73). -/
def opTable : List OpRow := [
  ⟨0x010, 1, 4, true, true, false⟩, ⟨0x011, 1, 1, true, true, false⟩, ⟨0x012, 1, 2, true, true, false⟩,
  ⟨0x013, 1, 2, true, true, false⟩, ⟨0x100, 1, 1, true, true, false⟩, ⟨0x101, 1, 1, true, true, false⟩,
  ⟨0x102, 1, 1, false, true, false⟩, ⟨0x103, 1, 1, false, true, false⟩, ⟨0x200, 2, 2, false, false, false⟩,
  ⟨0x201, 1, 1, false, true, false⟩, ⟨0x202, 1, 1, false, true, false⟩, ⟨0x210, 2, 2, true, true, false⟩,
  ⟨0x211, 2, 2, true, true, false⟩, ⟨0x212, 1, 1, true, true, false⟩, ⟨0x213, 1, 1, true, true, false⟩,
  ⟨0x300, 4, 4, false, false, false⟩, ⟨0x301, 2, 2, false, true, false⟩, ⟨0x302, 1, 1, false, true, false⟩,
  ⟨0x400, 4, 4, false, false, false⟩, ⟨0x500, 2, 2, false, true, true⟩, ⟨0x501, 1, 1, false, true, true⟩,
  ⟨0x502, 1, 1, false, true, true⟩, ⟨0x600, 1, 1, false, true, false⟩, ⟨0x601, 1, 1, false, true, true⟩] ++ [
  ⟨0x700, 1, 1, false, true, true⟩, ⟨0x701, 1, 1, false, true, true⟩, ⟨0x800, 3, 3, false, false, true⟩,
  ⟨0x801, 1, 1, false, true, true⟩, ⟨0x802, 2, 2, false, false, true⟩, ⟨0x803, 1, 1, false, true, true⟩,
  ⟨0x900, 2, 2, false, true, true⟩, ⟨0x901, 1, 1, false, true, true⟩]

def opRow? (op : Nat) : Option OpRow := opTable.find? (fun r => r.op == op)

/-- The firmware interprets the packet (R73). -/
def Packet.firmware (p : Packet) : Bool :=
  match opRow? p.op with
  | some r => !r.fast
  | none => false

/-- The checks of R72 in their order: the status of the first that fails. -/
def headerCheck (sl : Slice) (p : Packet) : Option Nat :=
  match opRow? p.op with
  | none => if bitsOf p.flags 15 7 ≠ 0 ∨ p.u 12 4 ≠ 0 then some stBadParam else some stBadOpcode
  | some r =>
    if bitsOf p.flags 15 7 ≠ 0 ∨ p.u 12 4 ≠ 0 then some stBadParam
    else if p.slots < r.lo ∨ r.hi < p.slots then some stBadSize
    else if p.cls < sl.ceiling ∨ (r.slice0 ∧ p.slice ≠ 0) then some stAccessDenied
    else if (p.waitEn && !sl.hasSync p.waitObj) || (p.signalEn && !sl.hasSync p.signalObj) then some stAccessDenied
    else if (p.signalAdd && !p.signalEn) || (p.urgent && p.op != 0x501) || (p.idempotentOk && !r.idem) ||
        bitOf p.waitThreshold 63 || bitOf p.signalValue 63 then some stBadParam
    else none

/-- The function of R52 an opcode belongs to: the mask bits that refuse it. -/
def functionBits (p : Packet) : Nat :=
  (if [0x210, 0x211, 0x200, 0x201, 0x202, 0x103].contains p.op then 1 else 0) +
  (if [0x300, 0x301, 0x302].contains p.op then 2 else 0) +
  (if p.op = 0x400 then 4 else 0) +
  (if p.op = 0x100 ∨ p.op = 0x101 then 16 else 0) +
  (if p.slice = 0 ∧ p.op = 0x803 then 0 else 32)

/-! ### The table of packets -/

def Chip.packet? (c : Chip) (id : Nat) : Option Packet := c.packets.find? (fun p => p.id == id)

/-- One packet changed. -/
def Chip.updPacket (c : Chip) (id : Nat) (f : Packet → Packet) : Chip :=
  { c with packets := c.packets.map (fun p => if p.id = id then f p else p) }

/-- The outcome of a packet: its status, result word and detail word.  The first outcome stands. -/
def Chip.finish (c : Chip) (id status : Nat) (result : Nat := 0) (detail : Nat := 0) : Chip :=
  c.updPacket id (fun p => match p.phase with
    | .done _ _ _ => p
    | _ => { p with phase := .done status (BitVec.ofNat 64 result) (BitVec.ofNat 64 detail), taken := true, committed := true })

/-- The opcode is marked idempotent (R73). -/
def idempotent (op : Nat) : Bool := match opRow? op with
  | some r => r.idem
  | none => true

/-- The packet goes on: its effect is running.  One that may not be repeated has its commit entry by then (R88, R89). -/
def Chip.keepRunning (c : Chip) (id : Nat) : Chip :=
  c.updPacket id (fun p => { p with phase := .running, taken := true, committed := p.committed || !idempotent p.op })

/-- The firmware has taken the packet, and its effect is not final yet (R70, R88). -/
def Chip.take (c : Chip) (id : Nat) : Chip := c.updPacket id (fun p => { p with taken := true })

/-- The firmware service that interprets an opcode (R427). -/
def serviceOf (op : Nat) : Nat :=
  if op = 0x600 ∨ op = 0x601 then 2
  else if op = 0x500 ∨ op = 0x501 ∨ op = 0x502 then 3
  else if op = 0x900 ∨ op = 0x901 then 4
  else if op = 0x700 ∨ op = 0x701 then 6
  else 1

/-- A service does not run: its core has failed and it has not restarted (R429). -/
def Chip.serviceDown (c : Chip) (s : Nat) : Bool := c.fw.down.any (fun d => d.1 == s)

/-- R67, R429: the firmware takes the packets of one ring in ring order, while the packet's service runs. -/
def Chip.firmwareTurn (c : Chip) (p : Packet) : Bool :=
  !p.firmware || (!c.serviceDown (serviceOf p.op) && !c.packets.any (fun q => q.slice == p.slice && q.ring == p.ring && q.id < p.id &&
    q.firmware && q.phase == .started))

/-- A started packet of the opcode, whose turn it is, is given its meaning; anything else changes nothing (log 6). -/
def Chip.onPacket (c : Chip) (id op : Nat) (f : Packet → Chip → Chip) : Chip :=
  match c.packet? id with
  | none => c
  | some p => if p.op = op ∧ p.phase = .started ∧ c.firmwareTurn p then f p c else c

/-! ### Rings -/

/-- The key of a ring in the tables. -/
def ringKey (s r : Nat) : Nat := s * 16 + r

def Chip.ringTail (c : Chip) (s r : Nat) : Nat := (AMap.getD c.rings (ringKey s r) {}).tail

/-- Ring states (R63): in RING_STATUS.STATE the part keeps DISABLED, IDLE, DRAINING and STOPPED; the other two
are IDLE with packets, and `ringState` tells them apart. -/
def rsDisabled : Nat := 0
def rsIdle : Nat := 1
def rsDraining : Nat := 4
def rsStopped : Nat := 5

def Chip.ringKept (c : Chip) (s r : Nat) : Nat := c.fld (RING_STATUS s r) RING_STATUS.STATE

/-- The ring is enabled and not stopped. -/
def Chip.ringLive (c : Chip) (s r : Nat) : Bool := c.ringKept s r == rsIdle

def Chip.ringPackets (c : Chip) (s r : Nat) : List Packet :=
  c.packets.filter (fun p => p.slice == s && p.ring == r)

/-- The fetched packet at the ring's head. -/
def Chip.headOf (c : Chip) (s r : Nat) : Option Packet :=
  (c.ringPackets s r).find? (fun p => p.phase == .fetched)

/-- A SYNC_WAIT or a FENCE that still waits holds the ring's head (R77, R79). -/
def Chip.headHeld (c : Chip) (s r : Nat) : Option Nat :=
  ((c.ringPackets s r).find? (fun p => (p.op == 0x013 || p.op == 0x011) && (p.phase == .running || p.phase == .started))).map
    (fun p => if p.op = 0x013 then 0 else 1)

/-- Entries of the completion ring reserved and not yet used (R67). -/
def Chip.cqReserved (c : Chip) (s r : Nat) : Nat :=
  ((c.ringPackets s r).filter (·.reserved)).length

/-- A completion ring entry can be reserved (R68). -/
def Chip.cqFree (c : Chip) (s r : Nat) : Bool :=
  idxSub (c.reg (CQ_TAIL s r)) (c.reg (CQ_HEAD s r)) + c.cqReserved s r < 2 ^ c.fld (CQ_CTRL s r) CQ_CTRL.LOG2_SLOTS

/-- R394, R410: the part is leaving Active, or the packet's engine is gated. -/
def Chip.powerRefuses (c : Chip) (p : Packet) : Bool :=
  (p.op == 0x400 && bitOf c.power.gated 9) ||
  (match c.power.leaving with
    | some l => l.replied.isSome || l.packet.isNone || p.slice != l.slice || p.ring != l.ring
    | none => false)

/-- A refusal that stands before the header wait: a failed header check or a disabled function (R53, R72). -/
def Chip.refusal (c : Chip) (p : Packet) : Option Nat :=
  match p.verdict with
  | some v => some v
  | none =>
    match c.slice? p.slice with
    | none => some stDisabled
    | some sl => if functionBits p &&& sl.disabled ≠ 0 ∨ c.powerRefuses p = true then some stDisabled else none

/-- The head packet's header wait no longer holds it (R67, R72, R79, R84). -/
def Chip.waitOver (c : Chip) (p : Packet) : Bool :=
  (c.refusal p).isSome || !p.waitEn || p.waitMet || p.dependency || p.op == 0x013

/-- The packet stands fetched at the head of a ring that runs. -/
def Chip.atHead (c : Chip) (p : Packet) : Bool :=
  p.phase == .fetched && c.ringLive p.slice p.ring && (c.headHeld p.slice p.ring).isNone

/-- The status of a head that ends without starting: a refusal, or an object it waits on with its error bit (R72, R84). -/
def Chip.headStatus (c : Chip) (p : Packet) : Option Nat :=
  match c.refusal p with
  | some st => some st
  | none => if p.dependency then some stDependencyFailed else none

/-- R72, R84: such a head ends as soon as a completion entry is reserved for it. -/
def Chip.endsAtHead (c : Chip) (p : Packet) : Bool :=
  c.atHead p && (c.headStatus p).isSome && c.cqFree p.slice p.ring

/-- R67: a head is ready to start once its header wait is met and a completion entry can be reserved for it. -/
def Chip.ready (c : Chip) (p : Packet) : Bool :=
  c.atHead p && (c.headStatus p).isNone && c.waitOver p && c.cqFree p.slice p.ring

/-- What a head becomes: its outcome where it ends without starting (R72, R84), the moment it became ready where it will
start (R67). -/
def Chip.headNow (c : Chip) (p : Packet) : Packet :=
  if c.endsAtHead p then { p with reserved := true, readySince := none, taken := true, phase := .done ((c.headStatus p).getD 0) 0 0 }
  else if p.readySince = none ∧ c.ready p then { p with readySince := some c.now } else p

/-- The heads of all rings looked at again, after a change that they may have waited for. -/
def Chip.stampReady (c : Chip) : Chip := { c with packets := c.packets.map c.headNow }

/-- The state a read of RING_STATUS shows (Table — Ring states). -/
def Chip.ringState (c : Chip) (s r : Nat) : Nat :=
  let k := c.ringKept s r
  if k ≠ rsIdle then k
  else if (c.headHeld s r).isSome then 3
  else match c.headOf s r with
    | some p => if c.ready p || c.endsAtHead p then 2 else 3
    | none => if (c.ringPackets s r).isEmpty && c.ringTail s r == c.reg (SQ_HEAD s r) then 1 else 2

/-- The wait cause a read of RING_STATUS shows: 0 sync object, 1 fence, 2 completion ring full. -/
def Chip.ringWaitCause (c : Chip) (s r : Nat) : Nat :=
  if c.ringState s r ≠ 3 then 0
  else match c.headHeld s r with
    | some w => w
    | none => match c.headOf s r with
      | some p => if c.waitOver p then 2 else 0
      | none => 0

end Sys2Proof.Machine
end

