-- ==== Sys2Proof/Machine/Access.lean ====
section
/-!
DEFINITION. What the part's own masters reach: the registers as a reader sees them, the sectors and fills of DRAM, checked
reads and writes of every target, interrupt writes and events (01 R20 to R24, 02 R38 to R50, 03 R62, R86, R87, 14 R367 to
R380).
-/

namespace Sys2Proof.Machine

/-! ### Registers as they read (R11, R12) -/

/-- The slice has the ring (R57), and SLICE_DESTROY has not stopped it (R56). -/
def Chip.hasRing (c : Chip) (s r : Nat) : Bool :=
  match c.slice? s with
  | none => false
  | some sl => decide (r < sl.rings) && !sl.retired

/-- The profile enables the forerunner personality (R412). -/
def Chip.forerunner (c : Chip) : Bool := bitOf (bytesU c.power.profile 7 1) 1

/-- Bytes of a controller's transmit message RAM. -/
def canRamSize (n : Nat) : Nat := if n < 4 then 8192 else 2048

/-- The distance into a register of `bytes` bytes, for a distance from the first instance. -/
def regOffset (bytes : Nat) : List (Nat × Nat) → Nat → Option Nat
  | [], d => if d < bytes then some d else none
  | (n, st) :: l, d => if d / st < n then regOffset bytes l (d % st) else none

/-- The register that holds the byte at an address, and the address of its first byte. -/
def findReg (a : Nat) : Option (RegSpec × Nat) :=
  regTable.findSome? (fun s => if a < s.base then none else (regOffset s.bytes s.dims (a - s.base)).map (fun d => (s, a - d)))

def RegSpec.reg (s : RegSpec) (a : Nat) : Reg := ⟨a, s.bytes, s.reset⟩

/-- FUNC[n] of the pin section (R508). -/
def Chip.pinFunc (c : Chip) (n : Nat) : Nat := bytesU (c.power.profile.drop (bytesU c.power.profile 20 4)) (8 + 4 * n) 4 % 8

/-- DIR and OUT of all pins. -/
def Chip.pinDir (c : Chip) : Nat := c.reg GPIO_DIR_LO + c.reg GPIO_DIR_HI * 2 ^ 32
def Chip.pinOut (c : Chip) : Nat := c.reg GPIO_OUT_LO + c.reg GPIO_OUT_HI * 2 ^ 32

/-- R509: the ball levels: an output's own value, a free value of an input, 0 of a pin with another function. -/
def Chip.pinLevels (c : Chip) : Nat :=
  let x := (Config.freeValue c.free).toNat
  (List.range 48).foldl (fun m n =>
    if c.pinFunc n ≠ 0 then m
    else if bitOf c.pinDir n then m + b2n (bitOf c.pinOut n) * 2 ^ n
    else m + b2n (bitOf x n) * 2 ^ n) 0

/-- R509: bits of pins in the MAIN domain, FP[39:0], read 0 outside Active. -/
def Chip.pinMask (c : Chip) (v : Nat) : Nat := if c.power.mode = .active then v else v / 2 ^ 40 * 2 ^ 40

/-- What a read of a register shows where that is more than what is kept in it: a ring's state (R57, R63), identities
(R94, R96, R442), device time (R489), holdover (R492), pins (R509), a mailbox without FORERUNNER (R435). -/
def Chip.viewReg (c : Chip) (s : RegSpec) (a : Nat) : Nat :=
  let raw := c.reg (s.reg a)
  let o := a % 2 ^ 24
  let i := o / 2 ^ 16
  if dbBase ≤ a ∧ a < 2 ^ 48 then
    let s := (a - dbBase) / 2 ^ 16
    let k := a % 2 ^ 16
    if k < 0x4000 then
      if !c.hasRing s (k / 0x400) || k % 0x400 == 0x0C then 0
      else if k % 0x400 = 0x14 then putBits (putBits raw 2 0 (c.ringState s (k / 0x400))) 7 6 (c.ringWaitCause s (k / 0x400))
      else raw
    else raw
  else if a < regBase then raw
  else if a < regBase + 24 * 2 ^ 24 then
    match (a - regBase) / 2 ^ 24 with
    | 2 => if o % 2 ^ 16 = 0 then i + 16 * i * 16 else raw
    | 3 => if o % 2 ^ 16 = 0 then i + i % 16 * 2 ^ 8 + i / 16 * 2 ^ 12 else raw
    | 14 => if 0x800000 ≤ o ∧ c.forerunner = false then 0 else raw
    | 17 => if o = 0x300 then putBits raw 15 0 Config.vendorId.toNat else raw
    | 18 =>
      if o = 0 then c.now
      else if o = 0x1C then match c.net.heldSince with
        | some t => min ((c.now - t) / 1000000) (2 ^ 32 - 1)
        | none => 0
      else raw
    | _ => raw
  else if aonBase + 0x10000 ≤ a ∧ a < aonBase + 0x10018 then
    match a - (aonBase + 0x10000) with
    | 0x00 => c.pinMask c.pinDir % 2 ^ 32
    | 0x04 => c.pinMask c.pinDir / 2 ^ 32
    | 0x08 => c.pinMask c.pinOut % 2 ^ 32
    | 0x0C => c.pinMask c.pinOut / 2 ^ 32
    | 0x10 => c.pinMask c.pinLevels % 2 ^ 32
    | _ => c.pinMask c.pinLevels / 2 ^ 32
  else raw

def Chip.arb (c : Chip) (n : Nat) : Arbiter := AMap.getD c.arbiters n {}
def Chip.setArb (c : Chip) (n : Nat) (a : Arbiter) : Chip := { c with arbiters := AMap.set c.arbiters n a }

/-- What a read leaves: RC fields cleared (R12), the fraction of device time latched (R489), the longest wait of an
arbiter's requester forgotten (R388), a draw of the ball levels. -/
def Chip.readEffect (c : Chip) (s : RegSpec) (a : Nat) : Chip :=
  let c := (s.fields.filter (fun f => f.acc == .rc)).foldl (fun (c : Chip) f => c.setFld (s.reg a) f.fld 0) c
  if a = NET_TIME_NS.addr then c.setReg NET_TIME_FRAC c.net.frac
  else if a = MEM_ARB_LONGEST.addr then
    let n := c.fld MEM_ARB_SEL MEM_ARB_SEL.ARBITER
    let x := c.arb n
    c.setArb n { x with longest := AMap.del x.longest (c.fld MEM_ARB_SEL MEM_ARB_SEL.REQUESTER) }
  else if a = GPIO_IN_LO.addr ∨ a = GPIO_IN_HI.addr then { c with free := c.free + 1 }
  else c

/-- Where an address lies in the CAN message RAM: its controller's 8 KiB or 2 KiB (R485). -/
def canRamAt (a : Nat) : Option Nat :=
  let o := a - (blockAddr 19 + 0x100000)
  if a < blockAddr 19 + 0x100000 ∨ 16 ≤ o / 0x2000 ∨ canRamSize (o / 0x2000) ≤ o % 0x2000 then none else some o

/-- The model that an entry of the registry holds, as its 128 bytes (R190); a free entry reads zero. -/
def Chip.registryEntry (c : Chip) (m : Nat) : List Byte :=
  match AMap.get? c.models m with
  | none => []
  | some x =>
    let flags := 1 + b2n x.resident * 2 + b2n x.pinned * 4 + b2n x.streaming * 8 + b2n x.safety * 16 + b2n x.unregistering * 32
    let mask := (List.range 12).foldl (fun k i => k + b2n (x.segs.any (fun g => g / 256 == i)) * 2 ^ i) 0
    leBytes 2 (x.slice * 1024 + m) ++ leBytes 2 flags ++ leBytes 2 (x.need % 4096) ++ leBytes 2 mask ++ leBytes 8 x.image ++ leBytes 4 x.imageBytes ++ leBytes 4 x.hotBytes ++
    leBytes 8 x.lastInvoked ++ leBytes 8 x.invocations ++ leBytes 8 x.verified ++ leBytes 16 0 ++ x.hash

/-- A byte of the register blocks that belongs to no register: of the registry, of the CAN message RAM, or zero (R11). -/
def Chip.plainByte (c : Chip) (a : Nat) : Byte :=
  if blockAddr 7 + 0x100000 ≤ a ∧ a < blockAddr 7 + 0x120000 then
    ((c.registryEntry ((a - blockAddr 7 - 0x100000) / 0x80))[(a % 0x80)]?).getD 0
  else match canRamAt a with
    | some k => memGet c.net.canRam k
    | none => 0

/-- `n` bytes read from `a`, register by register. -/
def Chip.readRegs : Nat → Chip → Nat → Nat → List Byte × Chip
  | 0, c, _, _ => ([], c)
  | k + 1, c, a, n =>
    if n = 0 then ([], c)
    else match findReg a with
      | none =>
        let (l, d) := Chip.readRegs k c (a + 1) (n - 1)
        (c.plainByte a :: l, d)
      | some (s, b) =>
        let m := min n (b + s.bytes - a)
        let v := leBytes s.bytes (c.viewReg s b)
        let (l, d) := Chip.readRegs k (c.readEffect s b) (a + m) (n - m)
        ((v.drop (a - b)).take m ++ l, d)

/-- R59, R85: a read of a doorbell page; one of a bad size or alignment reads zero. -/
def Chip.doorbellRead (c : Chip) (q : Req) : List Byte × Chip :=
  let s := (q.addr - dbBase) / 2 ^ 16
  let k := q.addr % 2 ^ 16
  let zeros := List.replicate q.len (0 : Byte)
  if 0x8000 ≤ k then
    match c.slice? s with
    | some sl =>
      if k % 8 = 0 ∧ q.len = 8 ∧ (k - 0x8000) / 8 < sl.syncCount then (leBytes 8 (c.sync (sl.syncBase + (k - 0x8000) / 8)).toNat, c)
      else (zeros, c)
    | none => (zeros, c)
  else match findReg q.addr with
    | none => (zeros, c)
    | some (sp, a) =>
      if (q.addr = a ∧ q.len = sp.bytes) ∨ (sp.bytes = 8 ∧ q.len = 4 ∧ q.addr % 4 = 0) then c.readRegs q.len q.addr q.len
      else (zeros, c)

/-! ### Classes, gates and the bridge (R21, R24, R34, R410, R459) -/

/-- R24, R34: the class of a request: the job's, 1 for the acoustic loop engine, else ACC_MST_CLASS under the ceiling. -/
def Chip.sourceClass (c : Chip) (m tag serves : Nat) : Nat :=
  if (0x10 ≤ m ∧ m ≤ 0x1B) ∨ m = 0x60 then serves % 4
  else if m = 0x34 then 1
  else
    let k := bitsOf (c.reg (ACC_MST_CLASS m (tag / 16))) (2 * (tag % 16) + 1) (2 * (tag % 16))
    match c.slice? tag with
    | some s => max k s.ceiling
    | none => k

/-- The block of Table — Gateable blocks that stands behind a target, where it is gated. -/
def Chip.gatedTarget (c : Chip) (t : Nat) : Bool :=
  let g := c.power.gated
  match t with
  | 36 => bitOf g 9
  | 44 => bitOf g 5 || bitOf g 8
  | 47 => bitOf g 12
  | 48 => bitOf g 10
  | 49 => bitOf g 8
  | _ => false

/-- R459: a single 8-bit, 16-bit or 32-bit access, naturally aligned. -/
def Req.crosses (q : Req) : Bool := (q.len == 1 || q.len == 2 || q.len == 4) && q.addr % q.len == 0

/-! ### DRAM: sectors and zero-fills (R361, R368, R372, R373, R378 to R382) -/

/-- The 64-byte sectors a range touches. -/
def sectorsOf (a n : Nat) : List Nat := if n = 0 then [] else (List.range ((a + n - 1) / 64 - a / 64 + 1)).map (· + a / 64)

/-- Table — DRAM address map: the bank of an address, with its sub-channel, and its row. -/
def bankOf (a : Nat) : Nat := bitsOf a 14 11 * 2 + bitsOf a 6 6
def dramRow (a : Nat) : Nat := a / 2 ^ 20

def Chip.mrc (c : Chip) (ch : Nat) : Millrace := AMap.getD c.millrace ch {}
def Chip.setMrc (c : Chip) (ch : Nat) (m : Millrace) : Chip := { c with millrace := AMap.set c.millrace ch m }

/-- R380: the tiers that `n` sectors are served from: reserve tokens for class 0, then tokens of the slice, then what is
left. -/
def Chip.takeTokens (c : Chip) (ch cls tag n : Nat) : Chip :=
  let m := c.mrc ch
  let own := AMap.getD m.tokens tag 0
  let r := if cls = 0 then min n m.reserve else 0
  let t := min (n - r) own
  let c := if r = 0 then c else (c.setMrc ch { m with reserve := m.reserve - r }).count (MRC_CH_SAFETY ch) MRC_CH_SAFETY.COUNT r
  let c := if t = 0 then c else c.setMrc ch { c.mrc ch with tokens := AMap.set m.tokens tag (own - t) }
  if n = r + t then c else c.count (MRC_CH_LEFTOVER ch) MRC_CH_LEFTOVER.COUNT (n - r - t)

/-- A request of the queue waits for a bank of a channel. -/
def Chip.bankWanted (c : Chip) (ch bank : Nat) : Bool := c.dramQueue.any (fun q => channelOf q.addr == ch && bankOf q.addr == bank)

/-- What a sector leaves of its bank and its row run (R382): the open row, the hits taken in a row while another request to
the bank waits, and the run, which a sector of the same row goes on with up to HIT_CAP sectors. -/
def Millrace.access (m : Millrace) (bank row cap : Nat) (hit wanted : Bool) : Millrace :=
  { m with
    rows := AMap.set m.rows bank row
    hits := AMap.set m.hits bank (if hit && wanted then AMap.getD m.hits bank 0 + 1 else 0)
    run := some (match m.run with
      | some (b, r, n) => if b = bank ∧ r = row ∧ n < cap then (b, r, n + 1) else (bank, row, 1)
      | none => (bank, row, 1)) }

/-- One sector transferred: its tier, its row, its counts (R380, R382, R390). -/
def Chip.sector (c : Chip) (cls tag s : Nat) : Chip :=
  let a := s * 64
  let ch := channelOf a
  let c := (c.takeTokens ch cls tag 1).count (MRC_CH_SECTORS ch) MRC_CH_SECTORS.COUNT 1
  let hit := AMap.get? (c.mrc ch).rows (bankOf a) == some (dramRow a)
  let c := c.setMrc ch ((c.mrc ch).access (bankOf a) (dramRow a) (c.fld MRC_CTRL MRC_CTRL.HIT_CAP) hit (c.bankWanted ch (bankOf a)))
  if hit then c.count (MRC_CH_ROW_HITS ch) MRC_CH_ROW_HITS.COUNT 1
  else c.count (MRC_CH_ACTIVATES ch) MRC_CH_ACTIVATES.COUNT 1

/-- The sectors of a range transferred. -/
def Chip.sectors (c : Chip) (cls tag a n : Nat) : Chip := (sectorsOf a n).foldl (fun (c : Chip) s => c.sector cls tag s) c

/-- R372, R373: a zero-fill ends: the block becomes valid and the requests that waited for it are applied. -/
def Chip.endFill (c : Chip) (block : Nat) : Chip :=
  match c.fills.find? (fun f => f.block == block) with
  | none => c
  | some f =>
    let c := { c with fills := c.fills.filter (fun g => g.block != block), validBlocks := nsInsert c.validBlocks block }
    let c := c.count MEM_ZERO_FILLS MEM_ZERO_FILLS.COUNT 1
    let c := c.count (MRC_CH_FILL (channelOf (block * pageSize))) MRC_CH_FILL.COUNT 1024
    -- a request that still waits for another fill stays with that one
    f.waiting.foldl (fun c q =>
      match c.fills.find? (fun g => (pagesOf q.addr q.len).contains g.block) with
      | some g => { c with fills := c.fills.map (fun h => if h.block = g.block then { h with waiting := h.waiting ++ [q] } else h) }
      | none =>
        if q.write then
          let c := if cpuMaster q.master then c else c.logRange q.tag q.addr q.len
          { c.store q.addr q.data with replies := AMap.set c.replies q.master { id := q.id, status := .value, data := [] } }
        else
          { c with replies := AMap.set c.replies q.master { id := q.id, status := .value, data := c.readBack q.addr q.len } }) c

/-- The runs of a zero-fill take their tokens as write sectors of the writer, and the block is filled (R372). -/
def Chip.fillRuns (c : Chip) (f : Fill) : Chip :=
  let ch := channelOf (f.block * pageSize)
  ((c.takeTokens ch f.cls f.slice 1024).count (MRC_CH_SECTORS ch) MRC_CH_SECTORS.COUNT 1024).endFill f.block

/-- A request of one piece waits for the fills of its blocks (R373). -/
def Chip.awaitFills (c : Chip) (a n : Nat) : Chip :=
  if a < mcBase then (c.fills.filter (fun f => (pagesOf a n).contains f.block)).foldl Chip.fillRuns c else c

/-- The blocks of a write that are not valid are zero-filled first, charged to the writer (R372). -/
def Chip.fillFor (c : Chip) (cls tag a n : Nat) : Chip :=
  if a < mcBase then
    (pagesOf a n).foldl (fun c p =>
      if c.validBlocks.contains p then c
      else
        let f : Fill := { block := p, slice := tag, cls := cls }
        { c with fills := c.fills ++ [f] }.fillRuns f) c
  else c

/-- R368: a write that covers a bad codeword only in part is refused. -/
def Chip.rmwBad (c : Chip) (a n : Nat) : Option Nat :=
  ((c.codewords a n).find? (fun p => !p.2 && c.wordBad p.1)).map (·.1)

/-- A write covers a codeword only in part: it is a read-modify-write (R368). -/
def Chip.writesPart (c : Chip) (a n : Nat) : Bool := (c.codewords a n).any (fun w => !w.2)

/-! ### Channels and the link buffers before them (R16, R145, R370, R378, R390) -/

/-- Requests of a Rill that its channel holds (R145). -/
def Rill.atChannel (x : Rill) (ch : Nat) : Nat :=
  (x.reqs.filter (fun q => q.place == ReqPlace.issued && decide (q.line * 64 < mcBase) && channelOf (q.line * 64) == ch)).length +
  (x.writes.filter (fun q => q.place == ReqPlace.issued && decide (q.addr < mcBase) && channelOf q.addr == ch)).length

/-- Requests that a channel holds: those of the Rills, and those of other masters. -/
def Chip.channelLoad (c : Chip) (ch : Nat) : Nat :=
  (c.dramQueue.filter (fun q => channelOf q.addr == ch)).length + sumOf (c.tiles.map (fun t => sumOf (t.2.rills.map (fun x => x.2.atChannel ch))))

/-- The registers of a channel show its queue (R390). -/
def Chip.showMrcQueue (c : Chip) (ch : Nat) : Chip :=
  let n := c.channelLoad ch
  let c := c.setFld (MRC_CH_QUEUE ch) MRC_CH_QUEUE.DEPTH n
  c.setFld (MRC_CH_QUEUE ch) MRC_CH_QUEUE.MAX (max n (c.fld (MRC_CH_QUEUE ch) MRC_CH_QUEUE.MAX))

/-- A channel accepts no request: its queue holds 256, or the valid table is being cleared (R370, R378). -/
def Chip.channelFull (c : Chip) (ch : Nat) : Bool :=
  c.flag MEM_VALID_STATUS MEM_VALID_STATUS.CLEARING || decide (256 ≤ c.channelLoad ch)

/-- A channel accepts a request, which takes the next number in its age. -/
def Chip.acceptDram (c : Chip) (q : DramReq) : Chip :=
  Chip.showMrcQueue { c with dramQueue := c.dramQueue ++ [{ q with seq := c.accepted }], accepted := c.accepted + 1 } (channelOf q.addr)

/-- The class whose link buffer before a channel is served next: the highest class that holds a request (R16). -/
def Chip.linkNext (c : Chip) (ch : Nat) : Option (Nat × DramReq × List DramReq) :=
  (List.range 4).findSome? (fun k => match AMap.getD c.linkQ (4 * ch + k) [] with
    | q :: l => some (4 * ch + k, q, l)
    | [] => none)

/-- Requests go on from the link buffers of a channel while it accepts them. -/
def Chip.drainLink : Nat → Chip → Nat → Chip
  | 0, c, _ => c
  | n + 1, c, ch =>
    if c.channelFull ch then c
    else match c.linkNext ch with
      | none => c
      | some (k, q, l) => Chip.drainLink n ({ c with linkQ := if l.isEmpty then AMap.del c.linkQ k else AMap.set c.linkQ k l }.acceptDram q) ch

/-- The link buffers of a channel looked at again. -/
def Chip.drainLinks (c : Chip) (ch : Nat) : Chip := Chip.drainLink (sumOf ((List.range 4).map (fun k => (AMap.getD c.linkQ (4 * ch + k) []).length))) c ch

/-- A change of what a channel holds: its registers follow, and requests before it go on. -/
def Chip.channelChanged (c : Chip) (a : Nat) : Chip :=
  if a < mcBase then (c.showMrcQueue (channelOf a)).drainLinks (channelOf a) else c

/-! ### What a target answers (R20 to R24, R367 to R373, R410, R459) -/

/-- The class that a request carries (R24, R34). -/
def Chip.classOf (c : Chip) (q : Req) : Nat := c.sourceClass q.master q.tag q.serves

/-- R371, R378: the sectors of a read of DRAM; zeros of blocks never written use none. -/
def Chip.readSectors (c : Chip) (q : Req) : Chip :=
  if mcBase ≤ q.addr then c
  else if (pagesOf q.addr q.len).all (fun p => !c.validBlocks.contains p) then c.count MEM_ZERO_READS MEM_ZERO_READS.COUNT 1
  else c.sectors (c.classOf q) q.tag q.addr q.len

/-- The sectors of a write of DRAM: twice those of its range for a read-modify-write (R368). -/
def Chip.writeSectors (c : Chip) (q : Req) : Chip :=
  if mcBase ≤ q.addr then c
  else
    let c := if c.writesPart q.addr q.len then c.sectors (c.classOf q) q.tag q.addr q.len else c
    c.sectors (c.classOf q) q.tag q.addr q.len

/-- R410: an access to a block that is gated. -/
def Chip.gatedError (c : Chip) (q : Req) (t : Nat) : Chip :=
  c.error { severity := 0, cause := 6, source := 14, master := q.master, slice := q.tag, world := q.world, target := t, addr := q.addr }

/-- R459: an access that may not cross the always-on bridge. -/
def Chip.bridgeError (c : Chip) (q : Req) (t : Nat) : Chip :=
  (c.count AON_BR_BUS_ERR AON_BR_BUS_ERR.COUNT 1).error { severity := 0, cause := 6, source := 12, master := q.master, slice := q.tag, world := q.world, target := t, addr := q.addr }

/-- A target in the slow domain, behind the always-on bridge (R21). -/
def slowTarget (t : Nat) : Bool := t == 49 || t == 44

/-- A checked read by one of the part's own masters of a target that is no memory: the registers as they read.  A read over
the bridge is repeated until it has its value (R461).  A bus error ends it as a denial does (DESIGN CHOICE, log 89). -/
def Chip.loadRegs (c : Chip) (q : Req) (t : Nat) : Served × List Byte × Chip :=
  if c.gatedTarget t then (.denied, List.replicate q.len 0, c.gatedError q t)
  else if slowTarget t && !q.crosses then (.denied, List.replicate q.len 0, c.bridgeError q t)
  else
    let (b, c) := if t = 50 then c.doorbellRead q else c.readRegs q.len q.addr q.len
    (.ok, b, if slowTarget t then c.count AON_BR_READS AON_BR_READS.COUNT 1 else c)

/-- A checked write by one of the part's own masters to a target that is no memory is posted on the mesh (log 89). -/
def Chip.saveRegs (c : Chip) (q : Req) (t : Nat) (b : List Byte) : Served × Chip :=
  if c.gatedTarget t then (.denied, c.gatedError q t)
  else if slowTarget t && !q.crosses then (.denied, c.bridgeError q t)
  else (.ok, { c with posted := c.posted ++ [⟨q.master, q.tag, q.addr, b⟩] })

/-- The target of a checked request. -/
def Chip.targetOf (c : Chip) (a : Nat) : Nat :=
  match c.target a with
  | .ok t => t
  | .error t => t

/-- R367, R371: what a checked read returns. -/
def Chip.loadServed (c : Chip) (q : Req) : Served × List Byte × Chip :=
  if !inMemory q.addr then c.loadRegs q (c.targetOf q.addr)
  else
    let c := ((c.lookValid q.addr q.len).awaitFills q.addr q.len).readSectors q
    let (r, c) := c.checkWords q (c.codewords q.addr q.len)
    (r, c.readBack q.addr q.len, c)

/-- One read request of a master of the part, checked and served. -/
def Chip.load (c : Chip) (q : Req) : Served × List Byte × Chip :=
  match c.check q with
  | some (d, t) => (.denied, List.replicate q.len 0, c.denied q d t)
  | none => c.loadServed q

/-- A checked write reaches its target, or is refused under R368. -/
def Chip.saveServed (c : Chip) (q : Req) (b : List Byte) : Served × Chip :=
  if !inMemory q.addr then c.saveRegs q (c.targetOf q.addr) b
  else
    let c := (((c.lookValid q.addr q.len).awaitFills q.addr q.len).fillFor (c.classOf q) q.tag q.addr q.len).writeSectors q
    match c.rmwBad q.addr q.len with
    | some w => (.uncorrectable, c.memRecord w 4 q)
    | none =>
      let c := if q.addr < mcBase && !cpuMaster q.master then c.logRange q.tag q.addr q.len else c
      (.ok, c.store q.addr b)

/-- One write request of a master of the part, checked and served. -/
def Chip.save (c : Chip) (q : Req) (b : List Byte) : Served × Chip :=
  match c.check q with
  | some (d, t) => (.denied, c.denied q d t)
  | none => c.saveServed q b

/-- A range cut at 64-byte boundaries: the requests it is made of. -/
def pieces (a n : Nat) : List (Nat × Nat) :=
  if n = 0 then []
  else (List.range ((a + n - 1) / 64 - a / 64 + 1)).map (fun i =>
    let lo := max a ((a / 64 + i) * 64)
    let hi := min (a + n) ((a / 64 + i + 1) * 64)
    (lo, hi - lo))

/-- Reads of a range, piece by piece, up to the first that fails. -/
def Chip.loadPieces (c : Chip) (master tag serves : Nat) : List (Nat × Nat) → Served × List Byte × Chip
  | [] => (.ok, [], c)
  | (a, n) :: l =>
    match c.load { master := master, tag := tag, addr := a, len := n, write := false, serves := serves } with
    | (.ok, b, c) =>
      let (r, b', c) := Chip.loadPieces c master tag serves l
      (r, b ++ b', c)
    | (r, b, c) => (r, b, c)

/-- Reads of `n` bytes from `a` by a master of the part, for a job of class `serves` where it serves one. -/
def Chip.loadRange (c : Chip) (master tag a n : Nat) (serves : Nat := 3) : Served × List Byte × Chip :=
  c.loadPieces master tag serves (pieces a n)

/-- Writes of a range, piece by piece, up to the first that fails; the count of bytes written. -/
def Chip.savePieces (c : Chip) (master tag serves : Nat) : List (Nat × Nat) → List Byte → Served × Nat × Chip
  | [], _ => (.ok, 0, c)
  | (a, n) :: l, b =>
    match c.save { master := master, tag := tag, addr := a, len := n, write := true, serves := serves } (b.take n) with
    | (.ok, c) =>
      let (r, k, c) := Chip.savePieces c master tag serves l (b.drop n)
      (r, n + k, c)
    | (r, c) => (r, 0, c)

/-- Writes of bytes from `a` by a master of the part, for a job of class `serves` where it serves one. -/
def Chip.saveRange (c : Chip) (master tag a : Nat) (b : List Byte) (serves : Nat := 3) : Served × Nat × Chip :=
  c.savePieces master tag serves (pieces a b.length) b

/-- The master that carries a ring's own accesses (R58). -/
def cpMaster : Nat := 0x61

/-! ### Interrupt writes and events (R62, R86, R87) -/

/-- A 32-bit interrupt write with the ring's tag. -/
def Chip.msi (c : Chip) (tag addr data : Nat) : Chip :=
  (c.save { master := cpMaster, tag := tag, addr := addr, len := 4, write := true } (leBytes 4 data)).2

/-- A record counted as lost (R87). -/
def Chip.eventLost (c : Chip) (s : Nat) : Chip :=
  let c := if c.reg (EQ_LOST s) = 0 then c.setReg (EQ_LOST_FIRST s) c.now else c
  let c := c.count (EQ_LOST s) EQ_LOST.COUNT 1
  c.setReg (EQ_LOST_LAST s) c.now

/-- The event ring has a free entry. -/
def Chip.eventFree (c : Chip) (s : Nat) : Bool :=
  c.flag (EQ_CTRL s) EQ_CTRL.ENABLE &&
  idxSub (c.reg (EQ_TAIL s)) (c.reg (EQ_HEAD s)) < 2 ^ c.fld (EQ_CTRL s) EQ_CTRL.LOG2_SLOTS

/-- The 32 bytes of an event record (R86). -/
def eventBytes (code source seq time d0 d1 : Nat) : List Byte :=
  leBytes 2 code ++ leBytes 2 source ++ leBytes 4 seq ++ leBytes 8 time ++ leBytes 8 d0 ++ leBytes 8 d1

/-- A record written at EQ_TAIL, which then advances, and the ring's interrupt.  A record whose write fails is
counted as lost (DESIGN CHOICE, log 5). -/
def Chip.eventPut (c : Chip) (s code source seq d0 d1 : Nat) : Chip :=
  let tail := c.reg (EQ_TAIL s)
  let slot := tail % 2 ^ c.fld (EQ_CTRL s) EQ_CTRL.LOG2_SLOTS
  let a := c.fld (EQ_BASE s) EQ_BASE.BASE * 4096 + 32 * slot
  match c.save { master := cpMaster, tag := s, addr := a, len := 32, write := true }
      (eventBytes code source seq c.now d0 d1) with
  | (.ok, c) =>
    let c := c.setReg (EQ_TAIL s) (tail + 1)
    if c.flag (EQ_MSI_ADDR s) EQ_MSI_ADDR.EN then
      c.msi s (c.fld (EQ_MSI_ADDR s) EQ_MSI_ADDR.ADDR * 4) (c.reg (EQ_MSI_DATA s))
    else c
  | (_, c) => c.eventLost s

/-- R87: the EVENT_OVERFLOW record of what was lost, once an entry is free.  Where the write of that record is itself
refused, the registers stand cleared and count it as the one record lost (DESIGN CHOICE, log 5). -/
def Chip.eventFlush (c : Chip) (s : Nat) : Chip :=
  let n := c.reg (EQ_LOST s)
  if n = 0 || !c.eventFree s then c
  else
    let f := c.reg (EQ_LOST_FIRST s)
    let l := c.reg (EQ_LOST_LAST s)
    let c := ((c.setReg (EQ_LOST s) 0).setReg (EQ_LOST_FIRST s) 0).setReg (EQ_LOST_LAST s) 0
    c.eventPut s 0x0002 0xFFFF n f l

/-- The slice has an event ring: it exists, and its ring is not retired (R56). -/
def Chip.hasEvents (c : Chip) (s : Nat) : Bool := (c.slice? s).any (fun x => !x.retired)

/-- An event of slice `s` (R86, R87). -/
def Chip.event (c : Chip) (s code source seq d0 d1 : Nat) : Chip :=
  if !c.hasEvents s then c
  else if c.eventFree s then c.eventPut s code source seq d0 d1
  else c.eventLost s

end Sys2Proof.Machine
end

