-- ==== Sys2Proof/Machine/Packets.lean ====
section
/-!
DEFINITION. Packets between their outcome and their reply: the entries of a completion ring, ring errors, and the
signals and mailboxes that a reply goes to (03 R57 to R75).
-/

namespace Sys2Proof.Machine

/-- R62: the ring's interrupt. -/
def Chip.ringInterrupt (c : Chip) (s r : Nat) : Chip :=
  if c.flag (MSI_ADDR s r) MSI_ADDR.EN then
    c.msi s (c.fld (MSI_ADDR s r) MSI_ADDR.ADDR * 4) (c.reg (MSI_DATA s r))
  else c

/-- R69: a ring enters STOPPED, writes one RING_ERROR event and raises its interrupt.  `seq` is the SEQUENCE of the packet
that the error concerns, where there is one (R86). -/
def Chip.stopRing (c : Chip) (s r cause data1 : Nat) (seq : Nat := 0) : Chip :=
  let c := c.setFld (RING_STATUS s r) RING_STATUS.STATE rsStopped
  let c := c.setFld (RING_STATUS s r) RING_STATUS.ERR_CAUSE cause
  let c := c.event s 0x0001 r seq cause data1
  c.ringInterrupt s r

/-- A ring error, whatever the ring's state; only a ring that is STOPPED already keeps its cause (R69). -/
def Chip.ringError (c : Chip) (s r cause data1 : Nat) (seq : Nat := 0) : Chip :=
  if c.ringKept s r = rsStopped then c else c.stopRing s r cause data1 seq

/-! ### Completion (R68, R74, R84) -/

/-- The header signal of a completed packet: normal on Success, the failure rule on Failure, none on FW_RESTARTED
with IDEMPOTENT_OK (R84, R90).  A packet that fails because bit 63 of SIGNAL_VALUE is set still signals; the spec does
not say with what value: bits 62:0 (DESIGN CHOICE, log 99). -/
def Chip.headerSignal (c : Chip) (p : Packet) (status : Nat) : Chip :=
  match c.slice? p.slice with
  | none => c
  | some sl =>
    if !p.signalEn || !sl.hasSync p.signalObj then c
    else if status = stFwRestarted && p.idempotentOk then c
    else
      let v := p.signalValue % 2 ^ 63
      let g := if p.signalAdd then Signal.add v else Signal.setMax v
      if isSuccess status then c.signal p.signalObj g else c.signalFail p.signalObj g

/-- The 32 bytes of a status reply (R74). -/
def replyBytes (p : Packet) (status now : Nat) (result detail : W64) : List Byte :=
  leBytes 4 p.seq ++ leBytes 2 status ++ leBytes 2 p.op ++ leBytes 8 now ++ leBytes 8 result.toNat ++ leBytes 8 detail.toNat

/-- Steps 3 and 4 of R68: the reply, CQ_TAIL and its write-back.  A write that is refused under R368 takes the cause of a
denied one: the table of causes names no other (DESIGN CHOICE, log 100). -/
def Chip.writeReply (c : Chip) (p : Packet) (status : Nat) (result detail : W64) : Chip :=
  let s := p.slice
  let r := p.ring
  let tail := c.reg (CQ_TAIL s r)
  let a := c.fld (CQ_BASE s r) CQ_BASE.BASE * 4096 + 32 * (tail % 2 ^ c.fld (CQ_CTRL s r) CQ_CTRL.LOG2_SLOTS)
  match c.save { master := cpMaster, tag := s, addr := a, len := 32, write := true } (replyBytes p status c.now result detail) with
  | (.ok, c) =>
    let c := c.setReg (CQ_TAIL s r) (tail + 1)
    if c.flag (CQ_WB s r) CQ_WB.EN then
      let wb := c.fld (CQ_WB s r) CQ_WB.ADDR * 4
      match c.save { master := cpMaster, tag := s, addr := wb, len := 4, write := true } (leBytes 4 (c.reg (CQ_TAIL s r))) with
      | (.ok, c) => c
      | (_, c) => c.ringError s r 0x07 wb p.seq
    else c
  | (_, c) => c.ringError s r 0x07 a p.seq

/-- A release that follows a JOB_RUN which has now completed: it moves to that moment, earlier or later (R180, R204). -/
def PendingRel.follow (x : PendingRel) (s r q now : Nat) : PendingRel :=
  if x.slice = s ∧ x.ring = r ∧ x.pred = some q then
    { x with release := now + x.offset, moved := x.moved || timeBefore (now + x.offset) x.release }
  else x

/-- A JOB_RUN has completed: the moment is remembered for release mode 3, and pending releases that name it move (R180, R182
step 7). -/
def Chip.jobEnded (c : Chip) (s r q nth : Nat) : Chip :=
  { c with
    jobsPast := c.jobsPast.filter (fun e => e.slice != s || e.ring != r || (e.seq != q && decide (nth ≤ e.nth + 2 ^ 16))) ++
      [({ slice := s, ring := r, seq := q, nth := nth, finish := c.now } : JobPast)]
    pendingRels := c.pendingRels.map (fun x => x.follow s r q c.now) }

/-- The packet leaves the part; fences that waited for it no longer do (R77). -/
def Chip.dropPacket (c : Chip) (id : Nat) : Chip :=
  { c with packets := (c.packets.filter (fun p => p.id != id)).map (fun p => { p with waitsFor := p.waitsFor.filter (· != id) }) }

/-- R435: the reply of a forerunner mailbox. -/
def Chip.mailboxReply (c : Chip) (m status : Nat) (result : W64) : Chip :=
  let c := c.setReg (MBX_STATUS m) (status * 2 ^ 16 + AMap.getD c.fw.tags m 0 * 4 + 2)
  (c.setReg (MBX_RESULT_LO m) (result.toNat % 2 ^ 32)).setReg (MBX_RESULT_HI m) (result.toNat / 2 ^ 32)

/-- R68: a packet whose outcome stands completes; a packet that mailbox m formed stands under ring 16 + m. -/
def Chip.complete (c : Chip) (p : Packet) (status : Nat) (result detail : W64) : Chip :=
  if 16 ≤ p.ring then (c.mailboxReply (p.ring - 16) status result).dropPacket p.id else
  let c := c.headerSignal p status
  let c := if p.quiet && status == stDone then c else c.writeReply p status result detail
  let c := if p.irq || !isSuccess status then c.ringInterrupt p.slice p.ring else c
  let c := if p.op = 0x210 then c.jobEnded p.slice p.ring p.seq p.nth else c
  (c.dropPacket p.id).stampReady

/-- The sync object named by a unit is signalled, with the error bit where the unit failed (R84). -/
def Chip.unitSignal (c : Chip) (o : Nat) (g : Signal) (ok : Bool) : Chip :=
  (if ok then c.signal o g else c.signalFail o g).stampReady

end Sys2Proof.Machine
end

