-- ==== Sys2Proof/Machine/Settle.lean ====
section
/-!
DEFINITION. Entering the safe state (R300 to R303), the part's answer to a lost safety record (R333), and the one form
every command's meaning has: a change of the part, settled.
-/

namespace Sys2Proof.Machine

/-- The safe-state causes (R301). -/
def ssDisagree : Nat := 1
def ssChannelFailed : Nat := 2
def ssDeadline : Nat := 3
def ssTelltale : Nat := 4
def ssGoldenFail : Nat := 5
def ssGoldenOverdue : Nat := 6
def ssForced : Nat := 7
def ssIsland : Nat := 8
def ssTakeover : Nat := 9

/-- Something leaves the part. -/
def Chip.send (c : Chip) (w : Wire) (b : List Byte) : Chip := { c with sent := c.sent ++ [⟨w, b⟩] }

/-- Function group `f` is in safe state. -/
def Chip.inSafe (c : Chip) (f : Nat) : Bool := bitOf (c.fld SAF_GROUP_STATE SAF_GROUP_STATE.SAFE) f

/-- The first 32 bytes of the safe-state message (R302). -/
def messageHead (kind groups cause source twin time counter seq key : Nat) : List Byte :=
  leBytes 2 0x5346 ++ leBytes 1 1 ++ leBytes 1 kind ++ leBytes 1 groups ++ leBytes 1 cause ++ leBytes 1 source ++
  leBytes 1 twin ++ leBytes 8 time ++ leBytes 8 counter ++ leBytes 4 seq ++ leBytes 2 key ++ leBytes 2 0

/-- The Ethernet frame that carries a safe-state message: EtherType 0x88B6, tagged with VLAN (R303).  The source
address is a free value: the spec gives the part none. -/
def Chip.safeFrame (c : Chip) (m : MessageCfg) (b : List Byte) : EthFrame :=
  { head := leBytes 6 m.destMac ++ (List.range 6).map (Config.freeByte c.free), vid := bitsOf m.vlan 11 0, pcp := bitsOf m.vlan 14 12, body := [0x88, 0xB6] ++ b }

/-- R478: a frame that enters queue 7 of a port ahead of every frame already there. -/
def Chip.pushFirst (c : Chip) (p : Nat) (f : EthFrame) : Chip :=
  { c with net := { c.net with queues := AMap.upd c.net.queues (8 * p + 7) [] (fun l => f :: l) } }

/-- R485: a safe-state message waits at its CAN controller ahead of every other frame. -/
def Chip.pushCan (c : Chip) (n : Nat) (f : CanFrame) : Chip :=
  { c with net := { c.net with canSafe := AMap.upd c.net.canSafe n [] (fun l => l ++ [f]) } }

/-- R302, R303: one safe-state message on every enabled transport. -/
def Chip.safeMessage (c : Chip) (kind cause source seq time : Nat) : Chip :=
  match c.safe.message with
  | none => c
  | some m =>
    if !c.vehicleUp then c
    else
      let n := c.safe.messages + 1
      let counter := c.fld AON_START_COUNT AON_START_COUNT.STARTS * 2 ^ 32 + n % 2 ^ 32
      let groups := c.fld SAF_GROUP_STATE SAF_GROUP_STATE.SAFE
      let h := messageHead kind groups cause source (c.twinId % 2) time counter seq m.key
      let iv := leBytes 1 (c.twinId % 2) ++ leBytes 3 0 ++ leBytes 8 counter
      let b := h ++ leBytes 16 (Config.gcmTag m.key iv h).toNat
      let c := { c with safe := { c.safe with messages := n } }.setReg SAF_MSG_COUNTER counter
      let c := if m.canEn then c.pushCan m.can { idw := bitsOf m.canId 28 0 + b2n (bitOf m.canId 31) * 2 ^ 29, flags := 1, data := b } else c
      if m.ethEn then
        let f := c.safeFrame m b
        let c := { c with free := c.free + 1 }
        (List.range 8).foldl (fun c p => if bitOf m.ports p then c.pushFirst p f else c) c
      else c

/-- The slices that hear of a function group's state: slice 0 and the slices of its outputs (R301). -/
def Chip.groupSlices (c : Chip) (f : Nat) : List Nat :=
  (((c.safe.outputs.filter (fun p => p.2.group == f)).map (·.2.slice)).foldl nsInsert [0])

/-- SAFE_N of a group asserted or released, with its bit in SAF_GROUP_STATE. -/
def Chip.setSafeN (c : Chip) (f : Nat) (on : Bool) : Chip :=
  let pins := putBits c.safe.pins f f (b2n on)
  { c with safe := { c.safe with pins := pins } }.setFld SAF_GROUP_STATE SAF_GROUP_STATE.SAFE_N pins

/-- R301: function group `f` enters its safe state.  A group already in it keeps its first cause. -/
def Chip.enterSafe (c : Chip) (f cause source seq : Nat) : Chip :=
  if c.inSafe f then c
  else
    let c := c.setFld SAF_GROUP_STATE SAF_GROUP_STATE.SAFE (putBits (c.fld SAF_GROUP_STATE SAF_GROUP_STATE.SAFE) f f 1)
    let c := c.setSafeN f true
    let c := c.setFld (SAF_GROUP_CAUSE f) SAF_GROUP_CAUSE.CAUSE cause
    let c := c.setFld (SAF_GROUP_CAUSE f) SAF_GROUP_CAUSE.SOURCE source
    let c := c.setReg (SAF_GROUP_TIME f) c.now
    let c := c.safeMessage 0 cause source seq c.now
    let c := match c.safe.message with
      | some m => { c with safe := { c.safe with nextRepeat := c.now + m.repeatMs * 1000000 } }
      | none => c
    (c.groupSlices f).foldl (fun c s => c.event s 0x0404 f 0 cause c.now) c

/-- R333: a lost record of severity 2 or 3 puts every function group into its safe state with cause ISLAND. -/
def Chip.settle (c : Chip) : Chip :=
  if c.err.safetyDue then
    let c := { c with err := { c.err with safetyDue := false } }
    let c := (List.range 4).foldl (fun c f => c.enterSafe f ssIsland 0xFF 0) c
    c.event 0 0x0415 0xFFFF 0 (c.reg ERR_LOST_SAFETY) c.err.safetyFirst
  else c

/-- A command that changes the part: the change, settled, and the queue as it stood. -/
def State.on (s : State) (f : Chip → Chip) : Host.Outcome State Fault Refusal :=
  .next { s with chip := (f s.chip).settle }

/-- The part and the security core's own state: what the commands of the secure world and the starts change. -/
structure Part where
  chip : Chip
  sec : Sec
  deriving DecidableEq, Repr

/-- The part with its security core. -/
def State.part (s : State) : Part := ⟨s.chip, s.sec⟩

/-- The state with another part, settled. -/
def State.withPart (s : State) (p : Part) : State := { s with chip := p.chip.settle, sec := p.sec }

/-- A command that changes the part and the security core: the change, settled, and the queue as it stood. -/
def State.onPart (s : State) (f : Part → Part) : Host.Outcome State Fault Refusal := .next (s.withPart (f s.part))

end Sys2Proof.Machine
end

