-- ==== Sys2Proof/Machine/Tiles.lean ====
section
/-!
DEFINITION. What the units of a tile share: its memory, its state registers and counters, the scoreboard, its faults,
and the model image its program comes from (04 R91 to R98, R116 to R123).
-/

namespace Sys2Proof.Machine

def Chip.tile (c : Chip) (n : Nat) : Tile := AMap.getD c.tiles n {}
def Chip.setTile (c : Chip) (n : Nat) (t : Tile) : Chip := { c with tiles := AMap.set c.tiles n t }
def Chip.updTile (c : Chip) (n : Nat) (f : Tile → Tile) : Chip := c.setTile n (f (c.tile n))

/-- Tile states (Table — Tile registers). -/
def tsIdle : Nat := 0
def tsRunning : Nat := 1
def tsSaving : Nat := 2
def tsRestoring : Nat := 3
def tsFaulted : Nat := 4
def tsSelfTest : Nat := 5
def tsOff : Nat := 7

def Chip.tileState (c : Chip) (n : Nat) : Nat := c.fld (TILE_STATUS n) TILE_STATUS.STATE
def Chip.setTileState (c : Chip) (n s : Nat) : Chip := c.setFld (TILE_STATUS n) TILE_STATUS.STATE s

/-- GRP_STATE.TILE_BUSY of a tile. -/
def Chip.setBusy (c : Chip) (n : Nat) (b : Bool) : Chip :=
  let g := n / 16
  c.setFld (GRP_STATE g) GRP_STATE.TILE_BUSY (putBits (c.fld (GRP_STATE g) GRP_STATE.TILE_BUSY) (n % 16) (n % 16) (b2n b))

/-- Power states of a tile group (R93). -/
def gsOff : Nat := 0
def gsRetention : Nat := 1
def gsWaking : Nat := 2
def gsRunning : Nat := 3
def Chip.groupState (c : Chip) (g : Nat) : Nat := c.fld (GRP_STATE g) GRP_STATE.PSTATE

/-- The group clock in MHz (R95). -/
def Chip.groupMhz (c : Chip) (g : Nat) : Nat :=
  match c.fld (GRP_STATE g) GRP_STATE.OPP with
  | 0 => 900
  | 1 => 600
  | _ => 300

/-- The master of a tile's and its group's engines' requests (R17). -/
def groupMaster (g : Nat) : Nat := 0x10 + g

/-- R96: a counter of a tile counts unless FREEZE holds it. -/
def Chip.tileCount (c : Chip) (n : Nat) (r : Reg) (f : Fld) (k : Nat) : Chip :=
  if k = 0 || c.flag (TILE_CNT_CTRL n) TILE_CNT_CTRL.FREEZE then c else c.count r f k

/-- Something moved in the tile (R123). -/
def Chip.progressed (c : Chip) (n : Nat) : Chip := c.updTile n (fun t => { t with progress := c.now })

/-! ### Faults (R122) -/

def tfIllegalOp : Nat := 1
def tfFormatPair : Nat := 2
def tfAddrRange : Nat := 3
def tfTagUnset : Nat := 4
def tfHang : Nat := 5
def tfLoopDepth : Nat := 6
def tfIbufRange : Nat := 7
def tfUncorrectable : Nat := 8
def tfAccess : Nat := 9
def tfSyncRange : Nat := 0xA
def tfDependency : Nat := 0xB

/-- The status a job ends with at a tile fault (Table — Tile faults). -/
def faultStatus (f : Nat) : Nat :=
  if f = 8 then stUncorrectable
  else if f = 9 ∨ f = 0xA then stAccessDenied
  else if f = 0xB then stDependencyFailed
  else stBadParam

/-- The last two steps of R122: with nothing issued outstanding and the Rill reads drained, the fault is recorded and
the tile enters state 4. -/
def Chip.recordFault (c : Chip) (n : Nat) : Chip :=
  let t := c.tile n
  match t.faulting with
  | none => c
  | some (code, pc) =>
    let reads := t.rills.any (fun p => p.2.reqs.any (fun q => q.place == .issued))
    if t.executing.isEmpty && !reads then
      let c := c.setTile n { t with faulting := none }
      let c := c.setFld (TILE_STATUS n) TILE_STATUS.FAULT code
      let c := c.setReg (TILE_FAULT_PC n) (pc % 1024)
      { c with faulted := c.faulted ++ [n] }.setTileState n tsFaulted
    else c

/-- The first steps of R122: decode stops and what has not issued does not issue; the first fault stands. -/
def Chip.tileFault (c : Chip) (n code pc : Nat) : Chip :=
  let t := c.tile n
  if c.tileState n ≠ tsRunning || t.faulting.isSome then c
  else
    let c := c.setTile n { t with faulting := some (code, pc), arrayQ := [], vectorQ := [], moveQ := [], waits := [] }
    let c := { c with unitWaits := c.unitWaits.filter (fun w => w.who != Waiter.tile n) }
    c.recordFault n

/-- The tile runs its program: state 1 and no fault found. -/
def Chip.tileRuns (c : Chip) (n : Nat) : Bool :=
  decide (n < 192) && c.tileState n == tsRunning && (c.tile n).faulting.isNone

/-! ### The scoreboard (R120) -/

def sbFree : Nat := 0
def sbPending : Nat := 1
def sbReady : Nat := 2
def Tile.entry (t : Tile) (k : Nat) : Nat := AMap.getD t.board k sbFree
def Tile.setEntry (t : Tile) (k v : Nat) : Tile :=
  { t with board := if v = sbFree then AMap.del t.board k else AMap.set t.board k v }

/-! ### Units of a tile: computations that can fault -/

/-- A computation of a tile's unit: it changes the part, and may end with a fault code.  What it changed before the
fault stays. -/
abbrev TileM (α : Type) := ExceptT Nat (StateM Chip) α

/-- The chip seen, and changed. -/
def TileM.chip : TileM Chip := fun c => (.ok c, c)
def TileM.change (f : Chip → Chip) : TileM Unit := fun c => (.ok (), f c)
def TileM.fault {α : Type} (code : Nat) : TileM α := fun c => (.error code, c)

/-- A request of the tile's own units on its own memory: not through the mesh (R92, R125). -/
def tileReq (c : Chip) (n a len : Nat) (write : Bool) : Req :=
  { master := groupMaster (n / 16), tag := (c.tile n).slice, addr := tileAddr n + a, len := len, write := write, serves := (c.tile n).cls }

/-- A local read. -/
def tileRead (n a len : Nat) : TileM (List Byte) := fun c =>
  if len = 0 then (.ok [], c)
  else
    match c.loadServed (tileReq c n a len false) with
    | (.ok, b, c) => (.ok b, c)
    | (_, _, c) => (.error tfUncorrectable, c)

/-- A local write. -/
def tileWrite (n a : Nat) (b : List Byte) : TileM Unit := fun c =>
  if b.isEmpty then (.ok (), c)
  else
    match c.saveServed (tileReq c n a b.length true) b with
    | (.ok, c) => (.ok (), c)
    | (_, c) => (.error tfUncorrectable, c)

/-! ### The model image (R184, R192) -/

/-- Where a byte of the model's image is read: its resident copy, or DRAM. -/
def Model.addr (m : Model) (off : Nat) : Nat :=
  if m.resident ∧ off < m.hotBytes then mcBase + (m.segs.getD (off / pageSize) 0) * pageSize + off % pageSize
  else m.image + off

/-- Reads of the image, line by line, as a master with a slice tag. -/
def Chip.imageLines (c : Chip) (m : Model) (master tag serves : Nat) : List (Nat × Nat) → Served × List Byte × Chip
  | [] => (.ok, [], c)
  | (off, n) :: l =>
    match c.load { master := master, tag := tag, addr := m.addr off, len := n, write := false, serves := serves } with
    | (.ok, b, c) =>
      let (r, b', c) := Chip.imageLines c m master tag serves l
      (r, b ++ b', c)
    | (r, b, c) => (r, b, c)

/-- `n` bytes of a model's image from offset `off`, for a job of class `serves` (R24). -/
def Chip.imageRead (c : Chip) (m : Model) (master tag off n serves : Nat) : Served × List Byte × Chip :=
  c.imageLines m master tag serves (pieces off n)

end Sys2Proof.Machine
end

