-- ==== Sys2Proof/Machine/Rill.lean ====
section
/-!
DEFINITION. A Rill stream engine: its pool and the entry bound to it, the items and the stream of each mode, the
requests it issues, and the writes it drains (05 R124 to R149).
-/

namespace Sys2Proof.Machine

def Tile.rill (t : Tile) (r : Nat) : Rill := AMap.getD t.rills r {}
def Chip.rill (c : Chip) (n r : Nat) : Rill := (c.tile n).rill r
def Chip.setRill (c : Chip) (n r : Nat) (x : Rill) : Chip := c.updTile n (fun t => { t with rills := AMap.set t.rills r x })
def Chip.updRill (c : Chip) (n r : Nat) (f : Rill → Rill) : Chip := c.setRill n r (f (c.rill n r))

/-- Rill states (Table — Rill registers). -/
def rsRillIdle : Nat := 0
def rsRillRunning : Nat := 1
def rsRillWaitStart : Nat := 2
def rsRillWaitCredit : Nat := 3
def rsRillWaitItem : Nat := 4
def rsRillDraining : Nat := 5
def rsRillFaulted : Nat := 6
def rsRillSaved : Nat := 7

/-- Line `i` of a delivery in the write direction is free: drained, and every write that carries its bytes accepted
(R134). -/
def Rill.lineFree (x : Rill) (d : Deliv) (i : Nat) : Bool :=
  decide (64 * (i + 1) ≤ d.assigned) && !x.writes.any (fun w => w.deliv == d.no && decide (w.off < 64 * (i + 1)) && decide (64 * i < w.off + w.data.length))

/-- Lines of the pool that a delivery holds (R131, R134, R135). -/
def Rill.linesHeld (x : Rill) (d : Deliv) : Nat :=
  if d.write then ((List.range (d.data.length / 64)).filter (fun i => !x.lineFree d i)).length else d.data.length / 64

/-- Lines of the pool in use (R131). -/
def Rill.used (x : Rill) : Nat := (x.delivs.map x.linesHeld).foldl (· + ·) 0
/-- The pool's free lines: the Rill's credits (R135). -/
def Rill.credits (x : Rill) : Nat := 128 - x.used
/-- Requests outstanding (R145). -/
def Rill.outstanding (x : Rill) : Nat :=
  (x.reqs.filter (fun q => q.place != .held)).length + (x.writes.filter (fun q => q.place != .held)).length

/-- The tile-wide queue registers (R150). -/
def Chip.showQueue (c : Chip) (n : Nat) : Chip :=
  let d := ((c.tile n).rills.map (fun p => (p.2.reqs.filter (fun q => q.place == .queued)).length +
    (p.2.writes.filter (fun q => q.place == .queued)).length)).foldl (· + ·) 0
  let c := c.setReg (RILL_TQ_DEPTH n) d
  c.setReg (RILL_TQ_MAX n) (max (c.reg (RILL_TQ_MAX n)) d)

/-! ### Faults (R148) -/

def rfBadMode : Nat := 1
def rfBadField : Nat := 2
def rfBadChain : Nat := 3
def rfPoolMisuse : Nat := 4
def rfListRange : Nat := 5
def rfLocalRange : Nat := 6
def rfAccess : Nat := 7
def rfUncorrectable : Nat := 8

/-- The tile FAULT of a Rill cause. -/
def rillTileFault (cause : Nat) : Nat :=
  if cause = 6 then tfAddrRange else if cause = 7 then tfAccess else if cause = 8 then tfUncorrectable else tfIllegalOp

/-- R148: the cause in RILL_STATUS, and the tile's fault at the index last decoded. -/
def Chip.rillFault (c : Chip) (n r cause : Nat) : Chip :=
  let c := c.setFld (RILL_STATUS n r) RILL_STATUS.CAUSE cause
  let c := c.setFld (RILL_STATUS n r) RILL_STATUS.STATE rsRillFaulted
  -- requests that have not issued do not issue
  let c := c.updRill n r (fun x => { x with cur := none, reqs := x.reqs.filter (fun q => q.place == .issued), writes := x.writes.filter (fun q => q.place == .issued) })
  c.tileFault n (rillTileFault cause) (c.tile n).lastDecoded

/-! ### The pool and its bound entry (R131 to R134) -/

/-- Every byte of a delivery is in the pool: the stream has reached its end and no request for it is out. -/
def Rill.filled (x : Rill) (d : Deliv) : Bool :=
  decide (d.assigned = d.data.length) && !x.reqs.any (fun q => q.targets.any (fun t => t.deliv == d.no))

/-- The head delivery that consumers see. -/
def Rill.head? (x : Rill) : Option Deliv := x.delivs.head?

/-- The entries that descriptors of this Rill have bound: those of deliveries in the pool and of the descriptor at
work. -/
def Rill.boundTags (x : Rill) : List Nat :=
  (x.delivs.filterMap (·.tag)) ++
  (match x.cur with
   | some u => if !bitOf (bytesU u.bytes 0 1) 4 && bytesU u.bytes 2 1 % 8 ≤ 2 then [bytesU u.bytes 1 1 % 64] else []
   | none => [])

/-- R132: a bound entry is READY while the head delivery is its own and whole, else PENDING. -/
def Rill.tagValue (x : Rill) (k : Nat) : Nat :=
  match x.head? with
  | some d => if d.tag = some k ∧ !d.write ∧ x.filled d then sbReady else sbPending
  | none => sbPending

/-- The bound entries of a Rill brought up to date; an entry bound before and no longer returns to FREE. -/
def Tile.bind (t : Tile) (before : List Nat) (r : Nat) : Tile :=
  let x := t.rill r
  let now := x.boundTags
  let t := (before.filter (fun k => !now.contains k)).foldl (fun t k => t.setEntry k sbFree) t
  now.foldl (fun t k => t.setEntry k (x.tagValue k)) t

/-- A change of a Rill, its bound entries following. -/
def Chip.changeRill (c : Chip) (n r : Nat) (f : Rill → Rill) : Chip :=
  let before := (c.rill n r).boundTags
  let c := c.updRill n r f
  c.updTile n (fun t => t.bind before r)

/-- POOL_LINES shows the lines in use (R150). -/
def Chip.showPool (c : Chip) (n r : Nat) : Chip := c.setFld (RILL_STATUS n r) RILL_STATUS.POOL_LINES (c.rill n r).used

/-- The head delivery leaves the pool. -/
def Chip.consume (c : Chip) (n r : Nat) : Chip :=
  (c.changeRill n r (fun x => { x with delivs := x.delivs.drop 1, taken := 0 })).showPool n r

/-! ### Descriptor fields (R127) -/

def rdMode (b : List Byte) : Nat := bytesU b 0 1 % 16
def rdWrite (b : List Byte) : Bool := bitOf (bytesU b 0 1) 4
def rdLast (b : List Byte) : Bool := bitOf (bytesU b 0 1) 5
def rdTag (b : List Byte) : Nat := bytesU b 1 1 % 64
def rdConsumer (b : List Byte) : Nat := bytesU b 2 1 % 8
def rdLines (b : List Byte) : Nat := bytesU b 3 1 % 128
def rdIdx (b : List Byte) : Nat := bytesU b 6 1 % 8
def rdCount (b : List Byte) : Nat := bytesU b 8 4
def rdItems (b : List Byte) : Nat := bytesU b 20 4
def rdStart (b : List Byte) : Option Nat := if bitOf (bytesU b 4 1) 6 then some (bytesU b 4 1 % 64) else none
def rdDone (b : List Byte) : Option Nat := if bitOf (bytesU b 5 1) 6 then some (bytesU b 5 1 % 64) else none
def rdCountDst (b : List Byte) : Option Nat :=
  if bitOf (bytesU b 12 4) 31 then some (bytesU b 12 4 % 2 ^ 20) else none
/-- Bytes of a delivery. -/
def rdSize (b : List Byte) : Nat := rdLines b * 64
/-- The entry the descriptor binds (R132). -/
def rdBound (b : List Byte) : Option Nat := if !rdWrite b && rdConsumer b ≤ 2 then some (rdTag b) else none

/-- The width of an item (R136). -/
def rdItemWidth (b : List Byte) : Nat :=
  match rdMode b with
  | 1 => 2 * 2 ^ (bytesU b 38 1 % 4)
  | 2 => 2 * 2 ^ (bytesU b 38 1 % 4)
  | 5 => if bitOf (bytesU b 33 1) 2 then 8 else 4
  | 8 => 16
  | _ => 4

/-- A bit range of a little-endian field is zero. -/
def zeroBits (b : List Byte) (off k hi lo : Nat) : Bool := bitsOf (bytesU b off k) hi lo == 0

/-- R128: reserved bits and ranges of the header, whatever the mode. -/
def rdHeaderOk (b : List Byte) : Bool :=
  zeroBits b 0 1 7 6 && zeroBits b 1 1 7 6 && zeroBits b 2 1 7 3 && zeroBits b 3 1 7 7 && zeroBits b 4 1 7 7 &&
  zeroBits b 5 1 7 7 && zeroBits b 6 1 7 3 && zeroBits b 7 1 7 0 && zeroBits b 12 4 30 20 && zeroBits b 16 4 31 20 &&
  decide (1 ≤ rdLines b) && decide (rdLines b ≤ 64) && rdConsumer b != 3 && !(rdWrite b && rdConsumer b > 2)

/-- A 48-bit address field with its reserved top. -/
def addrOk (b : List Byte) (off : Nat) : Bool := decide (bytesU b off 8 < 2 ^ 48)

/-- R137 to R144: the fields of each mode. -/
def rdFieldsOk (b : List Byte) : Bool :=
  let idx := rdIdx b
  let chained := 4 ≤ idx
  match rdMode b with
  | 0 =>
    idx == 0 && rdItems b == 0 && addrOk b 24 && zeroBits b 32 4 31 17 && decide (1 ≤ bytesU b 32 4) &&
    decide (bytesU b 32 4 ≤ 65536) && (List.range 4).all (fun d => bytesU b (36 + 2 * d) 2 != 0) && zeroBits b 60 4 31 1
  | 1 =>
    (idx == 1 || chained) && addrOk b 24 && decide (1 ≤ bytesU b 36 2) && decide (bytesU b 36 2 ≤ 4096) &&
    bytesU b 38 1 % 4 != 3 && zeroBits b 38 2 3 3 && zeroBits b 38 2 15 4 && zeroIn b 44 64
  | 2 =>
    (idx == 1 || chained) && addrOk b 24 && decide (1 ≤ bytesU b 36 2) && decide (bytesU b 36 2 ≤ 4096) &&
    bytesU b 38 1 % 4 != 3 && zeroBits b 38 2 3 3 && zeroBits b 38 2 15 6 && bitsOf (bytesU b 38 2) 5 4 != 3 &&
    zeroIn b 44 64
  | 5 =>
    (idx == 1 || chained) && addrOk b 24 && bytesU b 24 8 % 64 == 0 && decide (4 ≤ bytesU b 32 1) &&
    decide (bytesU b 32 1 ≤ 30) && zeroBits b 33 1 7 3 && decide (1 ≤ bytesU b 34 1) &&
    decide (bytesU b 35 1 + (if bitOf (bytesU b 33 1) 2 then 8 else 4) ≤ 8 * 2 ^ (bytesU b 33 1 % 4)) &&
    zeroBits b 35 1 7 6 && zeroIn b 44 64
  | 6 =>
    idx == 0 && rdItems b == 0 && addrOk b 24 && addrOk b 32 && zeroBits b 48 4 31 1 && zeroIn b 52 64
  | 7 =>
    (idx == 0 || idx == 1 || chained) && addrOk b 24 && addrOk b 32 && addrOk b 40 && decide (bytesU b 48 2 ≤ 256) &&
    decide (1 ≤ bytesU b 50 2) && decide (bytesU b 50 2 ≤ 4096) && zeroBits b 52 1 7 2 && zeroIn b 53 56
  | 8 =>
    (idx == 1 || chained) && addrOk b 24 && addrOk b 32 && decide (1 ≤ bytesU b 56 2) && decide (1 ≤ bytesU b 58 2) &&
    decide (1 ≤ bytesU b 60 1) && decide (1 ≤ bytesU b 61 1) && decide (bytesU b 61 1 ≤ 32) && zeroIn b 62 64 &&
    (match fp32.decode (bytesU b 52 4) with | .fin false m _ => m != 0 | _ => false)
  | _ =>
    -- CSR and CSC
    (idx == 0 || idx == 1 || chained) && addrOk b 24 && addrOk b 32 && addrOk b 40 && decide (1 ≤ bytesU b 48 1) &&
    decide (bytesU b 48 1 ≤ 64) && bytesU b 49 1 != 0 && zeroBits b 49 1 7 2 && decide (1 ≤ bytesU b 50 2) &&
    decide (bytesU b 50 2 ≤ 4096) && zeroIn b 60 64

/-- R128: the fault of a descriptor, if any; local ranges last. -/
def rdFault (b : List Byte) : Option Nat :=
  if 9 ≤ rdMode b then some rfBadMode
  else if (rdMode b = 2 && !rdWrite b) || (rdMode b ≠ 0 && rdMode b ≠ 2 && rdWrite b) then some rfBadMode
  else if !rdHeaderOk b || !rdFieldsOk b then some rfBadField
  else if (rdCountDst b).any (fun a => a + 4 > tileMemSize) then some rfLocalRange
  else if rdIdx b = 1 ∧ bytesU b 16 4 + rdItems b * rdItemWidth b > tileMemSize then some rfLocalRange
  else none

/-! ### Reads (R125, R145, R146) -/

/-- An address in the tile's own window is served locally. -/
def ownWindow (n a : Nat) : Bool := decide (tileAddr n ≤ a) && decide (a - tileAddr n < tileMemSize)

/-- A request of a Rill: the master of its group, the job's slice tag and class (R24, R34, R125). -/
def Chip.rillReq (c : Chip) (n a len : Nat) (write : Bool) : Req :=
  { master := groupMaster (n / 16), tag := (c.tile n).slice, addr := a, len := len, write := write, serves := (c.tile n).cls }

/-- R38 to R43: what refuses a request before it enters its target; the own window needs no check. -/
def Chip.rillDenied (c : Chip) (n : Nat) (q : Req) : Option (Deny × Nat) := if ownWindow n q.addr then none else c.check q

/-- The cause of a failed access. -/
def servedCause : Served → Nat
  | .uncorrectable => rfUncorrectable
  | _ => rfAccess

/-- A computation of a Rill: it changes the part and may end with a fault cause. -/
abbrev RillM (α : Type) := ExceptT Nat (StateM Chip) α

def Rill.keepLine (x : Rill) (line : Nat) (b : List Byte) : Rill :=
  { x with recent := ((line, b) :: x.recent.filter (fun p => p.1 != line)).take 8 }

/-- Lines at hand, by number, with their 64 bytes. -/
abbrev RillLines := List (Nat × List Byte)

/-- The numbers of the lines that a range touches. -/
def linesAt (a n : Nat) : List Nat := (pieces (a % 2 ^ 48) n).map (fun p => p.1 / 64)

/-- Bytes from the lines at hand, or the number of the first line that is missing. -/
def readPieces (h : RillLines) : List (Nat × Nat) → Except Nat (List Byte)
  | [] => .ok []
  | (a, len) :: l =>
    match h.find? (fun p => p.1 == a / 64) with
    | none => .error (a / 64)
    | some (_, b) => (readPieces h l).map (fun b' => (b.drop (a % 64)).take len ++ b')

/-- A read that steers the walk: pointers, keys, points. -/
def rillRead (h : RillLines) (a len : Nat) : Except Nat (List Byte) := readPieces h (pieces (a % 2 ^ 48) len)
def rillU (h : RillLines) (a len : Nat) : Except Nat Nat := (rillRead h a len).map leNat

def RillM.change (f : Chip → Chip) : RillM Unit := fun c => (.ok (), f c)
def RillM.count (n : Nat) (r : Reg) (f : Fld) (k : Nat) : RillM Unit := RillM.change (fun c => c.tileCount n r f k)

/-! ### Items of each mode -/

/-- What one item gives: its part of the stream, and what it adds to the result count and to RILL_OOB, RILL_TRUNC,
RILL_PROBES and RILL_MISS.  An item that needs a line that is not at hand gives the line's number instead. -/
structure Item where
  segs : List Seg
  count : Nat := 0
  oob : Nat := 0
  trunc : Nat := 0
  probes : Nat := 0
  miss : Nat := 0
  deriving DecidableEq, Repr

def Seg.len : Seg → Nat
  | .lit b => b.length
  | .mem _ n => n

def segsLen (l : List Seg) : Nat := (l.map Seg.len).foldl (· + ·) 0
def zeros (n : Nat) : Seg := .lit (List.replicate n 0)

/-- R137: run `i` of a walk, and the address it starts at, modulo 2^48. -/
def stridedAddr (b : List Byte) (i : Nat) : Nat :=
  let n := fun d => bytesU b (36 + 2 * d) 2
  let s := fun d => sx 32 (bytesU b (44 + 4 * d) 4)
  let i1 := i % n 0
  let i2 := i / n 0 % n 1
  let i3 := i / n 0 / n 1 % n 2
  let i4 := i / n 0 / n 1 / n 2
  ux 48 ((bytesU b 24 8 : Int) + i1 * s 0 + i2 * s 1 + i3 * s 2 + i4 * s 3)

def stridedRuns (b : List Byte) : Nat :=
  bytesU b 36 2 * bytesU b 38 2 * bytesU b 40 2 * bytesU b 42 2

/-- Bytes up to the next 64-byte boundary of the stream. -/
def gapTo64 (n : Nat) : Nat := (64 - n % 64) % 64

/-- R138: an index: null, out of range, or a row. -/
inductive RowIndex where
  | null
  | out
  | row (x : Int)
  deriving DecidableEq, Repr

def rowIndex (w : Nat) (signed : Bool) (limit x : Nat) : RowIndex :=
  if x = 2 ^ (8 * w) - 1 then .null
  else if signed && bitOf x (8 * w - 1) then .out
  else if limit ≠ 0 ∧ limit ≤ x then .out
  else .row x

def rdRow (b : List Byte) (x : Nat) : RowIndex :=
  rowIndex (rdItemWidth b) (bitOf (bytesU b 38 1) 2) (bytesU b 40 4) x

/-- The stream bytes of a row, padded to 4 (R138). -/
def rowBytes (b : List Byte) : Nat := (bytesU b 36 2 + 3) / 4 * 4

def rowAddr (b : List Byte) (x : Int) : Nat := ux 48 ((bytesU b 24 8 : Int) + x * bytesU b 32 4)

/-- R138: the row of one index. -/
def gatherItem (b : List Byte) (x : Nat) : Item :=
  match rdRow b x with
  | .null => { segs := [zeros (rowBytes b)] }
  | .out => { segs := [zeros (rowBytes b)], count := 1, oob := 1 }
  | .row x => { segs := [.mem (rowAddr b x) (bytesU b 36 2), zeros (rowBytes b - bytesU b 36 2)] }

/-- R140: the elements of one row: the index block, then the value block. -/
def csrItem (h : RillLines) (b : List Byte) (x : Nat) : Except Nat Item := do
  let cap := bytesU b 50 2
  let vb := bytesU b 48 1
  let block := fun (first k : Nat) =>
    (if bitOf (bytesU b 49 1) 0 then
      [Seg.mem (ux 48 ((bytesU b 32 8 : Int) + 4 * first)) (4 * k), .lit (List.replicate (4 * (cap - k)) 0xFF)] else []) ++
    (if bitOf (bytesU b 49 1) 1 then
      [Seg.mem (ux 48 ((bytesU b 40 8 : Int) + vb * first)) (vb * k), zeros (vb * (cap - k))] else [])
  match rowIndex 4 false (bytesU b 56 4) x with
  | .null => pure { segs := block 0 0 }
  | .out => pure { segs := block 0 0, oob := 1 }
  | .row _ => do
    let lo ← rillU h (bytesU b 24 8 + 4 * x) 4
    let hi ← rillU h (bytesU b 24 8 + 4 * x + 4) 4
    pure { segs := block lo (min (hi - lo) cap), count := hi - lo - cap, trunc := hi - lo - cap }

/-- R141: the slot a key starts at. -/
def hashSlot (log2 k32 : Nat) : Nat := k32 * 0x9E3779B1 % 2 ^ 32 / 2 ^ (32 - log2)

/-- R141: the probes of a key, up to MAX_PROBE: the slot it hits, or none; the lines read after the first; whether the
probes ran out. -/
def hashProbe (h : RillLines) (b : List Byte) (k s0 : Nat) : Nat → Nat → Nat → Nat → Except Nat (Option Nat × Nat × Bool)
  | 0, _, _, probes => pure (none, probes, true)
  | left + 1, i, line, probes => do
    let w := if bitOf (bytesU b 33 1) 2 then 8 else 4
    let s := (s0 + i) % 2 ^ bytesU b 32 1
    let a := bytesU b 24 8 + s * (8 * 2 ^ (bytesU b 33 1 % 4))
    let probes := probes + b2n (decide (i ≠ 0) && decide (a / 64 ≠ line))
    let key ← rillU h a w
    if key = k then pure (some s, probes, false)
    else if key = bytesU b 36 w then pure (none, probes, false)
    else hashProbe h b k s0 left (i + 1) (a / 64) probes

/-- R141: the record of one key. -/
def hashItem (h : RillLines) (b : List Byte) (k : Nat) : Except Nat Item := do
  let w := if bitOf (bytesU b 33 1) 2 then 8 else 4
  let pb := bytesU b 35 1
  let pad := (4 - pb % 4) % 4
  let k32 := if w = 8 then (k % 2 ^ 32) ^^^ (k / 2 ^ 32) else k
  let (hit, probes, out) ← if k = bytesU b 36 w then pure (none, 0, false)
    else hashProbe h b k (hashSlot (bytesU b 32 1) k32) (bytesU b 34 1) 0 0 0
  match hit with
  | some s => do
    let pay ← rillRead h (bytesU b 24 8 + s * (8 * 2 ^ (bytesU b 33 1 % 4)) + w) pb
    pure { segs := [.lit (leBytes 4 (2 ^ 31 + s) ++ pay ++ List.replicate pad 0)], count := 1, probes := probes }
  | none => pure { segs := [.lit (leBytes 4 0x7FFFFFFF ++ List.replicate (pb + pad) 0)], probes := probes, miss := b2n out }

/-- R142: one step of the merge of two lists: the positions after it, and what it emits. -/
def mergeItem (h : RillLines) (b : List Byte) (i j : Nat) : Except Nat (Nat × Nat × Item) := do
  let x ← rillU h (bytesU b 24 8 + 4 * i) 4
  let y ← rillU h (bytesU b 32 8 + 4 * j) 4
  if x < y then pure (i + 1, j, { segs := [] })
  else if y < x then pure (i, j + 1, { segs := [] })
  else pure (i + 1, j + 1, { segs := [.lit (if bitOf (bytesU b 48 1) 0 then leBytes 4 i ++ leBytes 4 j else leBytes 4 x)], count := 1 })

/-- R143: which edges of a node of degree `g` fill `room` slots. -/
def keptEdges (sample : Bool) (g room : Nat) : List Nat :=
  let step := if sample && g != 0 && room != 0 then (g + room - 1) / room else 1
  ((List.range g).filter (fun e => e % step == 0)).take room

/-- R143: the slots of one node. -/
def neighbourItem (h : RillLines) (b : List Byte) (v : Nat) : Except Nat Item := do
  let cap := bytesU b 50 2
  let eb := bytesU b 48 2
  let self := bitOf (bytesU b 52 1) 0
  let unusedPair := Seg.lit (leBytes 4 v ++ leBytes 4 0xFFFFFFFF)
  let unused : Item := { segs := List.replicate cap unusedPair ++ [zeros (cap * eb)] }
  match rowIndex 4 false (bytesU b 60 4) v with
  | .null => pure unused
  | .out => pure { unused with oob := 1 }
  | .row _ => do
    let lo ← rillU h (bytesU b 24 8 + 4 * v) 4
    let hi ← rillU h (bytesU b 24 8 + 4 * v + 4) 4
    let g := hi - lo
    let room := cap - b2n self
    let kept := (keptEdges (bitOf (bytesU b 52 1) 1) g room).map (· + lo)
    let cut := g - kept.length
    let free := room - kept.length
    let pairs := (if self then [Seg.lit (leBytes 4 v ++ leBytes 4 v)] else []) ++
      kept.flatMap (fun (e : Nat) => [Seg.lit (leBytes 4 v), .mem (ux 48 ((bytesU b 32 8 : Int) + 4 * (e : Int))) 4]) ++ List.replicate free unusedPair
    let edges := if eb = 0 then [] else
      (if self then [zeros eb] else []) ++ kept.map (fun (e : Nat) => Seg.mem (ux 48 ((bytesU b 40 8 : Int) + eb * (e : Int))) eb) ++ [zeros (free * eb)]
    pure { segs := pairs ++ edges, count := cut, trunc := cut }

/-- The quotient of two FP32 values, rounded once (R144). -/
def fdiv (a b : FVal) : FVal :=
  match a, b with
  | .nan, _ => .nan
  | _, .nan => .nan
  | .inf _, .inf _ => .nan
  | .inf s, y => .inf (s != y.neg)
  | x, .inf s => .fin (x.neg != s) 0 0
  | .fin s m e, .fin s' m' e' =>
    if m' = 0 then (if m = 0 then .nan else .inf (s != s'))
    else
      -- a quotient of enough places, its last place sticky, rounds as the exact one
      let k := 80 + Nat.log2 (m' + 1)
      let q := m * 2 ^ k / m'
      let q := if m * 2 ^ k % m' = 0 then 2 * q else 2 * q + 1
      f32 (.fin (s != s') q (e - e' - k - 1))

/-- ⌊v⌋ of a finite value. -/
def ffloor (v : FVal) : Int :=
  let d := v.dy
  if 0 ≤ d.e then shl d.m d.e else Int.fdiv d.m (2 ^ (-d.e).toNat : Nat)

/-- R144: d² of a point from a query; none where a coordinate is NaN. -/
def dist2 (flat : Bool) (q p : Nat → FVal) : Option FVal :=
  let d := fun i => f32 (fadd (p i) (match q i with | .nan => .nan | .inf s => .inf (!s) | .fin s m e => .fin (!s) m e))
  if (List.range 3).any (fun i => (p i).isNan || (q i).isNan) then none
  else
    let sq := fun i => f32 (fmul (d i) (d i))
    let xy := f32 (fadd (sq 0) (sq 1))
    some (if flat then xy else f32 (fadd xy (sq 2)))

/-- A value sorted into a list by d², later points after equal ones. -/
def insertNear (d : FVal) (id : Nat) : List (FVal × Nat) → List (FVal × Nat)
  | [] => [(d, id)]
  | (e, j) :: l =>
    let lt := match d, e with
      | _, .nan => true
      | .nan, _ => false
      | .inf _, _ => false
      | _, .inf _ => true
      | x, y => Dy.lt x.dy y.dy
    if lt then (d, id) :: (e, j) :: l else (e, j) :: insertNear d id l

/-- The cells a query visits, in order (R144). -/
def nearCells (gx gy gz : Nat) (c : Nat → Int) : List Nat :=
  let zs : List Int := if gz = 1 then [0] else ([-1, 0, 1] : List Int).map (fun d => c 2 + d)
  zs.flatMap (fun (z : Int) => (([-1, 0, 1] : List Int).map (fun d => c 1 + d)).flatMap (fun (y : Int) => (([-1, 0, 1] : List Int).map (fun d => c 0 + d)).filterMap (fun (x : Int) =>
    if 0 ≤ x ∧ x < gx ∧ 0 ≤ y ∧ y < gy ∧ 0 ≤ z ∧ z < gz then some (x.toNat + gx * (y.toNat + gy * z.toNat)) else none)))

/-- The points of a cell that lie within the radius, sorted into what is kept. -/
def nearPoints (h : RillLines) (b : List Byte) (q : Nat → FVal) (r2 : FVal) : Nat → Nat → List (FVal × Nat) → Except Nat (List (FVal × Nat))
  | 0, _, acc => pure acc
  | k + 1, p, acc => do
    let w ← rillRead h (bytesU b 32 8 + 16 * p) 16
    let pt := fun i => fp32.decode (bytesU w (4 * i) 4)
    let acc := match dist2 (bytesU b 60 1 == 1) q pt with
      | some d => if (match d, r2 with | .nan, _ => false | _, .inf _ => true | .inf _, _ => false | x, y => Dy.le x.dy y.dy) then insertNear d (bytesU w 12 4) acc else acc
      | none => acc
    nearPoints h b q r2 k (p + 1) acc

def nearSearch (h : RillLines) (b : List Byte) (q : Nat → FVal) (r2 : FVal) : List Nat → List (FVal × Nat) → Except Nat (List (FVal × Nat))
  | [], acc => pure acc
  | cell :: l, acc => do
    let lo ← rillU h (bytesU b 24 8 + 4 * cell) 4
    let hi ← rillU h (bytesU b 24 8 + 4 * cell + 4) 4
    let acc ← nearPoints h b q r2 (hi - lo) lo acc
    nearSearch h b q r2 l acc

/-- R144: the K nearest of one query. -/
def nearItem (h : RillLines) (b : List Byte) (key : Nat) : Except Nat Item := do
  let q := fun i => fp32.decode (key / 2 ^ (32 * i) % 2 ^ 32)
  let k := bytesU b 61 1
  let cell := fp32.decode (bytesU b 52 4)
  let origin := fun i => match fp32.decode (bytesU b (40 + 4 * i) 4) with
    | .nan => FVal.nan
    | .inf s => .inf (!s)
    | .fin s m e => .fin (!s) m e
  let home := fun i => fdiv (f32 (fadd (q i) (origin i))) cell
  let gz := bytesU b 60 1
  let dims := if gz = 1 then [0, 1] else [0, 1, 2]
  -- a coordinate that is not finite lies in no cell
  let cells := if dims.all (fun i => (home i).isFin) && (List.range 3).all (fun i => !(q i).isNan) then
      nearCells (bytesU b 56 2) (bytesU b 58 2) gz (fun i => ffloor (home i)) else []
  let l ← nearSearch h b q (f32 (fmul cell cell)) cells []
  let l := l.take k
  let free := k - l.length
  pure { segs := [.lit (l.flatMap (fun p => leBytes 4 p.2) ++ List.replicate (4 * free) 0xFF ++
      l.flatMap (fun p => leBytes 4 (fp32.encode .rne false p.1)) ++ (List.replicate free (leBytes 4 0x7F800000)).flatten)], count := if l.length < k then 1 else 0 }

/-! ### Taking items (R136) -/

/-- Every item of the descriptor has been taken. -/
def RillCur.spent (u : RillCur) : Bool :=
  match rdMode u.bytes with
  | 0 => decide (stridedRuns u.bytes ≤ u.item)
  | 6 => decide (bytesU u.bytes 40 4 ≤ u.item) || decide (bytesU u.bytes 44 4 ≤ u.item2)
  | _ => decide (rdItems u.bytes ≤ u.item)

/-- RILL_STATUS and RILL_OUTST (requests issued and not complete, R145) show the pool, the descriptor and the requests. -/
def Chip.showRill (c : Chip) (n r : Nat) : Chip :=
  let x := c.rill n r
  let st := c.fld (RILL_STATUS n r) RILL_STATUS.STATE
  let st' :=
    if st = rsRillFaulted ∨ st = rsRillSaved then st
    else match x.cur with
      | some u =>
        if bitOf (bytesU u.bytes 0 1) 4 then rsRillRunning
        else if !u.spent && x.credits < bytesU u.bytes 3 1 % 128 then rsRillWaitCredit
        else if !u.spent && 4 ≤ bytesU u.bytes 6 1 % 8 then rsRillWaitItem
        else rsRillRunning
      | none =>
        if x.undone.any (·.write) then rsRillDraining
        else if x.en && !x.ended then rsRillWaitStart
        else if x.undone.isEmpty then rsRillIdle else rsRillRunning
  let c := c.setFld (RILL_STATUS n r) RILL_STATUS.STATE st'
  let c := (c.showPool n r).setFld (RILL_STATUS n r) RILL_STATUS.DESC x.desc
  c.setReg (RILL_OUTST n r) x.outstanding

/-- A Rill of a tile that leaves its job stands idle, its pool empty; a fault stays shown until the next job starts (R150). -/
def Chip.rillIdle (c : Chip) (n r : Nat) : Chip :=
  let c := if c.fld (RILL_STATUS n r) RILL_STATUS.STATE = rsRillFaulted then c else c.setFld (RILL_STATUS n r) RILL_STATUS.STATE rsRillIdle
  (c.setFld (RILL_STATUS n r) RILL_STATUS.POOL_LINES 0).setReg (RILL_OUTST n r) 0

/-- At job start RILL_STATUS is clear, CAUSE with it (R150). -/
def Chip.rillClear (c : Chip) (n r : Nat) : Chip := (c.setReg (RILL_STATUS n r) 0).setReg (RILL_OUTST n r) 0

/-- The number of the row or node that a walk without an item source comes to (R140, R143). -/
def RillCur.walkNode (u : RillCur) : Nat := (if rdMode u.bytes = 7 then bytesU u.bytes 56 4 else bytesU u.bytes 52 4) + u.item

/-- The next item, when one is there: from the walk itself, the local list, or the source Rill's head delivery, where that
is for this Rill (R136). -/
def rillNext (n r : Nat) (u : RillCur) : RillM (Option Nat) := fun c =>
  let b := u.bytes
  let w := rdItemWidth b
  if rdIdx b = 0 then (.ok (some u.walkNode), c)
  else if rdIdx b = 1 then
    let y := c.loadServed (tileReq c n (bytesU b 16 4 + u.item * w) w false)
    (if y.1 = .ok then .ok (some (leNat y.2.1)) else .error rfUncorrectable, y.2.2)
  else
    let src := rdIdx b - 4
    let x := c.rill n src
    match x.head? with
    | none => (.ok none, c)
    | some d =>
      if d.consumer ≠ 4 + r ∨ !x.filled d then (.ok none, c)
      else
        let v := bytesU d.data x.taken w
        let c := if x.taken + w ≥ d.data.length then c.consume n src
          else c.updRill n src (fun x => { x with taken := x.taken + w })
        (.ok (some v), c)

/-- The part of the stream that an item of a mode gives, from the lines at hand. -/
def modeItem (h : RillLines) (b : List Byte) (x : Nat) : Except Nat Item :=
  match rdMode b with
  | 1 => .ok (gatherItem b x)
  | 5 => hashItem h b x
  | 7 => neighbourItem h b x
  | 8 => nearItem h b x
  | _ => csrItem h b x

/-- The lines that a walk goes on with: both lists of a merge, and the pointers of the next row or node of a walk without an
item source (R140, R142, R143).  They count as one access each, as in the spec's example of a row walk (DEDUCED, log 110). -/
def RillCur.carried (u : RillCur) : List Nat :=
  match rdMode u.bytes with
  | 6 => linesAt (bytesU u.bytes 24 8 + 4 * u.item) 4 ++ linesAt (bytesU u.bytes 32 8 + 4 * u.item2) 4
  | 3 | 4 | 7 => if rdIdx u.bytes = 0 then linesAt (bytesU u.bytes 24 8 + 4 * u.walkNode) 8 else []
  | _ => []

/-- The lines that the walk does not go on with are forgotten, and the next item is still to be taken. -/
def RillCur.after (u : RillCur) : RillCur := { u with work := none, lines := u.lines.filter (fun p => u.carried.contains p.1) }

/-- The cursor past an item. -/
def RillCur.pass (u : RillCur) (it : Item) : RillCur :=
  ({ u with item := u.item + 1, gen := u.gen + segsLen it.segs, segs := u.segs ++ it.segs, count := u.count + it.count } : RillCur).after

/-- The cursor past a step of a merge. -/
def RillCur.passMerge (u : RillCur) (x : Nat × Nat × Item) : RillCur :=
  ({ u with item := x.1, item2 := x.2.1, gen := u.gen + segsLen x.2.2.segs, segs := u.segs ++ x.2.2.segs, count := u.count + x.2.2.count } : RillCur).after

/-- The counters that an item moves. -/
def Chip.countItem (c : Chip) (n r : Nat) (it : Item) : Chip :=
  (((c.tileCount n (RILL_OOB n r) RILL_OOB.COUNT it.oob).tileCount n (RILL_TRUNC n r) RILL_TRUNC.COUNT it.trunc).tileCount n (RILL_PROBES n r) RILL_PROBES.COUNT it.probes).tileCount n
    (RILL_MISS n r) RILL_MISS.COUNT it.miss

/-- The cursor past a run of STRIDED (R137). -/
def RillCur.passRun (u : RillCur) : RillCur :=
  let gap := if bitOf (bytesU u.bytes 60 1) 0 then gapTo64 u.gen else 0
  let len := bytesU u.bytes 32 4
  { u with item := u.item + 1, gen := u.gen + gap + len, segs := u.segs ++ [zeros gap, .mem (stridedAddr u.bytes u.item) len], count := u.count + gap + len }

end Sys2Proof.Machine
end

