-- ==== Sys2Proof/Machine/RillRun.lean ====
section
/-!
DEFINITION. A Rill at work: starting descriptors, reserving deliveries, issuing requests, and what a response and the
end of a descriptor do (05 R124 to R149); the rows of the Rill modes.
-/

namespace Sys2Proof.Machine

/-! ### Issue (R145) -/

/-- A request of the tile waits in its queue for a channel. -/
def Chip.queuedAt (c : Chip) (n ch : Nat) : Bool :=
  (c.tile n).rills.any (fun p => p.2.reqs.any (fun q => q.place == ReqPlace.queued && channelOf (q.line * 64) == ch) ||
    p.2.writes.any (fun q => q.place == ReqPlace.queued && channelOf q.addr == ch))

/-- Where a new request goes: held at 32 outstanding; the tile queue when its channel is full, or an older request waits there
for the channel; else to its target. -/
def Chip.placeReq (c : Chip) (n r addr : Nat) : ReqPlace :=
  if 32 ≤ (c.rill n r).outstanding then .held
  else if addr < mcBase ∧ (256 ≤ c.channelLoad (channelOf addr) ∨ c.queuedAt n (channelOf addr) = true) then
    if c.reg (RILL_TQ_DEPTH n) < 128 then .queued else .held
  else .issued

/-- A read, and a write, given its place: a turn of its own, and counted. -/
def Chip.placeRead (c : Chip) (n r i : Nat) (q : LineReq) (p : ReqPlace) : Chip :=
  let c := c.updRill n r (fun x => { x with reqs := x.reqs.set i { q with place := p, stamp := c.nextReq } })
  (Chip.tileCount { c with nextReq := c.nextReq + 1 } n (RILL_LINES n r) RILL_LINES.COUNT 1).channelChanged (q.line * 64)

def Chip.placeWrite (c : Chip) (n r i : Nat) (w : RillWrite) (p : ReqPlace) : Chip :=
  let c := c.updRill n r (fun x => { x with writes := x.writes.set i { w with place := p, stamp := c.nextReq } })
  (Chip.tileCount { c with nextReq := c.nextReq + 1 } n (RILL_LINES n r) RILL_LINES.COUNT 1).channelChanged w.addr

/-- The request that a read makes of its line, and that a write makes. -/
def Chip.lineReq (c : Chip) (n : Nat) (q : LineReq) : Req := c.rillReq n (q.line * 64) 64 false
def Chip.writeReq (c : Chip) (n : Nat) (w : RillWrite) : Req := c.rillReq n w.addr w.data.length true

/-- R40, R43, R148: a request refused before it enters its target: its record, and the Rill's fault. -/
def Chip.rillRefused (c : Chip) (n r : Nat) (q : Req) (d : Deny × Nat) : Chip := (c.denied q d.1 d.2).rillFault n r rfAccess

/-- A held request stays, goes to its place, or is refused on its way to its target. -/
def Chip.issueAs (c : Chip) (n r : Nat) (p : ReqPlace) (d : Option (Deny × Nat)) (q : Req) (placed : Chip) : Option Chip :=
  match p, d with
  | .held, _ => none
  | .issued, some d => some (c.rillRefused n r q d)
  | _, _ => some placed

/-- The held read with index `i` issues, where it may. -/
def Chip.issueRead (c : Chip) (n r i : Nat) : Option Chip :=
  match (c.rill n r).reqs[i]? with
  | none => none
  | some q => c.issueAs n r (c.placeReq n r (q.line * 64)) (c.rillDenied n (c.lineReq n q)) (c.lineReq n q) (c.placeRead n r i q (c.placeReq n r (q.line * 64)))

/-- The held write with index `i` issues, where it may. -/
def Chip.issueWrite (c : Chip) (n r i : Nat) : Option Chip :=
  match (c.rill n r).writes[i]? with
  | none => none
  | some w => c.issueAs n r (c.placeReq n r w.addr) (c.rillDenied n (c.writeReq n w)) (c.writeReq n w) (c.placeWrite n r i w (c.placeReq n r w.addr))

/-- The next held request issues, where it may: none where it stays.  Writes issue in stream order (R139). -/
def Chip.issueNext (c : Chip) (n r : Nat) : Option Chip :=
  match (c.rill n r).reqs.findIdx? (fun q => q.place == ReqPlace.held) with
  | some i => c.issueRead n r i
  | none =>
    if (c.rill n r).writes.any (fun w => w.place == ReqPlace.queued) then none
    else match (c.rill n r).writes.findIdx? (fun w => w.place == ReqPlace.held) with
      | none => none
      | some i => c.issueWrite n r i

/-- Held requests issue while there is room. -/
def Chip.issueAll : Nat → Chip → Nat → Nat → Chip
  | 0, c, _, _ => c
  | k + 1, c, n, r =>
    match c.issueNext n r with
    | none => c
    | some c => Chip.issueAll k c n r

def Chip.issueHeld (c : Chip) (n r : Nat) : Chip := (Chip.issueAll ((c.rill n r).reqs.length + (c.rill n r).writes.length) c n r).showQueue n

/-- Bytes put into a delivery of the pool. -/
def Rill.fillDeliv (x : Rill) (no off : Nat) (b : List Byte) : Rill :=
  { x with delivs := x.delivs.map (fun d => if d.no = no then { d with data := putAt d.data off b } else d) }

/-- One access of the stream: from a line lately returned to the descriptor, with a request of it already out, or by a new
request (R146). -/
def Chip.accessLine (c : Chip) (n r desc : Nat) (t : Target) : Chip :=
  let line := t.addr / 64
  let x := c.rill n r
  match x.recent.find? (fun p => p.1 == line) with
  | some (_, b) =>
    let c := c.tileCount n (RILL_COALESCED n r) RILL_COALESCED.COUNT 1
    c.updRill n r (fun x => x.fillDeliv t.deliv t.off ((b.drop (t.addr % 64)).take t.len))
  | none =>
    if x.reqs.any (fun q => q.line == line && q.desc == desc) then
      let c := c.tileCount n (RILL_COALESCED n r) RILL_COALESCED.COUNT 1
      c.updRill n r (fun x => { x with reqs := x.reqs.map (fun q => if q.line = line ∧ q.desc = desc then { q with targets := q.targets ++ [t] } else q) })
    else
      (c.updRill n r (fun x => { x with reqs := x.reqs ++ [{ line := line, targets := [t], place := ReqPlace.held, desc := desc }] })).issueHeld n r

/-- The item at work needs a line: from those lately returned to the descriptor, by a request of it already out, or by a new
request (R145, R146); whether anything moved. -/
def Chip.wantLine (c : Chip) (n r line : Nat) (u : RillCur) : Bool × Chip :=
  let x := c.rill n r
  match x.recent.find? (fun p => p.1 == line) with
  | some p => (true, (c.tileCount n (RILL_COALESCED n r) RILL_COALESCED.COUNT 1).updRill n r (fun x => { x with cur := some { u with lines := p :: u.lines } }))
  | none =>
    if x.reqs.any (fun q => q.line == line && q.desc == u.desc) then (false, c)
    else (true, (c.updRill n r (fun x => { x with reqs := x.reqs ++ [{ line := line, targets := [], place := ReqPlace.held, desc := u.desc, steer := true }] })).issueHeld n r)

/-! ### Reading (R129, R135) -/

/-- A part of the stream assigned to the delivery the stream has reached. -/
def Chip.assign (c : Chip) (n r : Nat) (u : RillCur) : Seg → List Seg → Chip
  | .lit b, rest =>
    let d := rdSize u.bytes
    let k := min b.length (u.made * d - u.fill)
    let no := u.first + u.fill / d
    let c := c.updRill n r (fun x => x.fillDeliv no (u.fill % d) (b.take k))
    c.updRill n r (fun x => { x with
      cur := some { u with fill := u.fill + k, segs := if k < b.length then .lit (b.drop k) :: rest else rest }
      delivs := x.delivs.map (fun e => if e.no = no then { e with assigned := u.fill % d + k } else e) })
  | .mem a len, rest =>
    let d := rdSize u.bytes
    let a := a % 2 ^ 48
    let k := min (min len (64 - a % 64)) (u.made * d - u.fill)
    let no := u.first + u.fill / d
    let c := c.updRill n r (fun x => { x with
      cur := some { u with fill := u.fill + k, segs := if k < len then .mem (a + k) (len - k) :: rest else rest }
      delivs := x.delivs.map (fun e => if e.no = no then { e with assigned := u.fill % d + k } else e) })
    c.accessLine n r u.desc { deliv := no, off := u.fill % d, addr := a, len := k }

/-- The stream of a STRIDED descriptor, whole (R128). -/
def stridedLen (b : List Byte) : Nat :=
  let len := bytesU b 32 4
  let runs := stridedRuns b
  if bitOf (bytesU b 60 1) 0 then (runs - 1) * (len + gapTo64 len) + len else runs * len

/-- Every request of the descriptor has been issued: what the cut leaves out is counted, a source's delivery begun is
dropped, and the Rill goes on to the next descriptor (R124, R129, R136). -/
def rillIssued (n r : Nat) (u : RillCur) : RillM Unit := do
  let b := u.bytes
  let total := rdCount b * rdSize b
  if !rdWrite b && rdCount b != 0 then RillM.count n (RILL_TRUNC n r) RILL_TRUNC.COUNT (b2n (decide (u.gen > total)))
  let left := if rdMode b = 0 then stridedRuns b - u.item else if rdMode b = 6 then 0 else rdItems b - u.item
  if !rdWrite b then RillM.count n (RILL_TRUNC n r) RILL_TRUNC.COUNT left
  let cnt := if rdMode b = 0 then stridedLen b else u.count
  RillM.change (fun c =>
    let src := rdIdx b - 4
    let c := if 4 ≤ rdIdx b ∧ (c.rill n src).taken ≠ 0 then c.consume n src else c
    c.changeRill n r (fun x => { x with
      cur := none
      desc := x.desc + 1
      ended := rdLast b
      undone := x.undone.map (fun d => if d.desc = u.desc then { d with issued := true, count := cnt } else d) }))

/-- A request of the descriptor has not been issued (R124). -/
def Rill.holds (x : Rill) (desc : Nat) : Bool :=
  x.reqs.any (fun q => q.desc == desc && q.place == ReqPlace.held) || x.writes.any (fun w => w.desc == desc && w.place == ReqPlace.held)

/-- What an evaluation of the item at work leads to: the line it lacks is sought, or the cursor goes on, with its counts. -/
def rillResolve {α : Type} (n r : Nat) (u : RillCur) (e : Except Nat α) (f : α → RillCur) (g : α → Chip → Chip) : RillM Bool := fun c =>
  match e with
  | .error line => (.ok (c.wantLine n r line u).1, (c.wantLine n r line u).2)
  | .ok x => (.ok true, g x (c.updRill n r (fun y => { y with cur := some (f x) })))

/-- One item of the descriptor: taken, then turned into its part of the stream; whether anything moved. -/
def rillItem (n r : Nat) (u : RillCur) : RillM Bool := do
  let b := u.bytes
  if rdMode b = 0 then
    RillM.change (fun c => c.updRill n r (fun x => { x with cur := some u.passRun }))
    pure true
  else if rdMode b = 6 then rillResolve n r u (mergeItem u.lines b u.item u.item2) u.passMerge (fun _ c => c)
  else match u.work with
    | some x => rillResolve n r u (modeItem u.lines b x) u.pass (fun it c => c.countItem n r it)
    | none =>
      match (← rillNext n r u) with
      | none => pure false
      | some x =>
        RillM.change (fun c => c.updRill n r (fun y => { y with cur := some { u with work := some x } }))
        pure true

/-- R142, R129: a step of a merge past what is delivered: its matches are counted and cut off. -/
def rillMergeRest (n r : Nat) (u : RillCur) : RillM Bool :=
  rillResolve n r u (mergeItem u.lines u.bytes u.item u.item2)
    (fun x => ({ u with item := x.1, item2 := x.2.1, count := u.count + x.2.2.count } : RillCur).after)
    (fun x c => c.tileCount n (RILL_TRUNC n r) RILL_TRUNC.COUNT x.2.2.count)

/-- One step of a read-direction descriptor; whether anything moved. -/
def rillReadStep (n r : Nat) (u : RillCur) : RillM Bool := do
  let b := u.bytes
  let d := rdSize b
  let c ← TileM.chip
  let x := c.rill n r
  if rdCount b * d ≤ u.fill then
    if rdMode b = 6 && rdCount b != 0 && !u.spent then rillMergeRest n r u
    else if x.holds u.desc then pure false
    else
      rillIssued n r u
      pure true
  else if u.fill = u.made * d then
    if x.credits < rdLines b then pure false
    else
      RillM.change (fun c => c.updRill n r (fun x => { x with
        cur := some { u with made := u.made + 1 }
        nextDeliv := x.nextDeliv + 1
        nextLine := (x.nextLine + rdLines b) % 128
        delivs := x.delivs ++ [{ no := x.nextDeliv, desc := u.desc, write := false, consumer := rdConsumer b, tag := rdBound b, data := List.replicate d 0, assigned := 0, line := x.nextLine }] }))
      pure true
  else
    match u.segs with
    | s :: rest =>
      RillM.change (fun c => if s.len = 0 then c.updRill n r (fun x => { x with cur := some { u with segs := rest } }) else c.assign n r u s rest)
      pure true
    | [] =>
      if u.spent then
        let pad : Byte := if rdMode b = 6 then 0xFF else 0
        RillM.change (fun c => c.assign n r u (.lit (List.replicate (u.made * d - u.fill) pad)) [])
        pure true
      else rillItem n r u

/-! ### Writing (R134, R137, R139) -/

/-- Where one item's bytes go. -/
def destOf (n : Nat) (u : RillCur) (x : Nat) : RillM (List (Option Nat × Nat)) :=
  let b := u.bytes
  if rdMode b = 0 then
    let gap := if bitOf (bytesU b 60 1) 0 then gapTo64 u.gen else 0
    pure [(none, gap), (some (stridedAddr b u.item), bytesU b 32 4)]
  else
    match rdRow b x with
    | .row i =>
      let a := rowAddr b i
      if bitsOf (bytesU b 38 2) 5 4 ≠ 0 ∧ !(ownWindow n a && ownWindow n (a + bytesU b 36 2 - 1)) then TileM.fault rfBadField
      else pure [(some a, bytesU b 36 2), (none, rowBytes b - bytesU b 36 2)]
    | _ => pure [(none, rowBytes b)]

/-- One item of a write-direction descriptor. -/
def rillWriteItem (n r : Nat) (u : RillCur) : RillM (Option RillCur) := do
  match (← rillNext n r u) with
  | none => pure none
  | some x =>
    let out := match rdMode u.bytes, rdRow u.bytes x with
      | 2, .out => true
      | _, _ => false
    if out then RillM.count n (RILL_OOB n r) RILL_OOB.COUNT 1
    let l ← destOf n u x
    pure (some { u with item := u.item + 1, gen := u.gen + (l.map (·.2)).foldl (· + ·) 0, dest := u.dest ++ l, count := u.count + b2n out })

/-- Deliveries of the write direction all of whose lines are free leave the pool, whatever their descriptor (R134). -/
def Chip.drainDelivs (c : Chip) (n r : Nat) : Chip :=
  let x := c.rill n r
  let gone := x.delivs.filter (fun e => e.write && x.linesHeld e == 0)
  let c := c.tileCount n (RILL_DELIVERIES n r) RILL_DELIVERIES.COUNT gone.length
  (c.updRill n r (fun x => { x with delivs := x.delivs.filter (fun e => !gone.any (fun g => g.no == e.no)) })).showPool n r

/-- How much of a row goes into one write: up to the end of its line; of an accumulating write whole elements, one of which
may cross into the next line (R139). -/
def chunkLen (op a room : Nat) : Nat :=
  let j := 64 - a % 64
  min room (if op = 0 then j else if j < 4 then 4 else j / 4 * 4)

/-- One step of a write-direction descriptor; whether anything moved. -/
def rillWriteStep (n r : Nat) (u : RillCur) : RillM Bool := do
  let b := u.bytes
  let d := rdSize b
  let c ← TileM.chip
  let x := c.rill n r
  if rdCount b * d ≤ u.fill then
    if x.holds u.desc then pure false
    else
      rillIssued n r u
      pure true
  else
    match u.dest with
    | (a, len) :: rest =>
      let avail := u.made * d - u.fill
      if len = 0 then
        RillM.change (fun c => c.updRill n r (fun x => { x with cur := some { u with dest := rest } }))
        pure true
      else if avail = 0 || x.writes.any (fun w => w.place == ReqPlace.held) then pure false
      else
        let no := u.first + u.fill / d
        let room := min (min len avail) (d - u.fill % d)
        let op := if rdMode b = 2 then bitsOf (bytesU b 38 2) 5 4 else 0
        let k := match a with
          | some a => chunkLen op a room
          | none => room
        let bytes := match x.delivs.find? (fun e => e.no == no) with
          | some e => (e.data.drop (u.fill % d)).take k
          | none => []
        let rest' := if k < len then (a.map (· + k), len - k) :: rest else rest
        RillM.change (fun c =>
          let u' := { u with fill := u.fill + k, dest := rest' }
          let c := c.updRill n r (fun x => { x with
            cur := some u'
            delivs := x.delivs.map (fun e => if e.no = no then { e with assigned := u.fill % d + k } else e)
            writes := match a with
              | some a => x.writes ++ [{ addr := a % 2 ^ 48, data := bytes, op := op, deliv := no, off := u.fill % d, place := ReqPlace.held, desc := u.desc }]
              | none => x.writes })
          (c.issueHeld n r).drainDelivs n r)
        pure true
    | [] =>
      if u.spent then
        -- the deliveries that are left are taken and nothing of them is written
        if u.fill = u.made * d then pure false
        else
          RillM.change (fun c =>
            (c.updRill n r (fun x => { x with
              cur := some { u with fill := u.made * d }
              delivs := x.delivs.map (fun e => if e.write ∧ e.desc = u.desc then { e with assigned := d } else e) })).drainDelivs n r)
          pure true
      else
        match (← rillWriteItem n r u) with
        | none => pure false
        | some u' =>
          RillM.change (fun c => c.updRill n r (fun x => { x with cur := some u' }))
          pure true

/-! ### Running on -/

/-- Steps of one Rill until nothing more moves; whether anything moved. -/
def Chip.rillSteps (n r : Nat) : Nat → Bool → Chip → Bool × Chip
  | 0, moved, c => (moved, c)
  | k + 1, moved, c =>
    match (c.rill n r).cur with
    | none => (moved, c)
    | some u =>
      match (if rdWrite u.bytes then rillWriteStep n r u else rillReadStep n r u).run c with
      | (.ok true, c) => Chip.rillSteps n r k true c
      | (.ok false, c) => (moved, c)
      | (.error cause, c) => (moved, c.rillFault n r cause)

/-- Read deliveries that have become whole are counted, once each. -/
def Chip.countDelivs (c : Chip) (n r : Nat) : Chip :=
  let x := c.rill n r
  let now := x.delivs.filter (fun d => !d.write && !d.counted && x.filled d)
  let c := c.tileCount n (RILL_DELIVERIES n r) RILL_DELIVERIES.COUNT now.length
  c.changeRill n r (fun x => { x with delivs := x.delivs.map (fun d => if now.any (fun e => e.no == d.no) then { d with counted := true } else d) })

/-- Steps one pass over the four Rills may take: far more than a pool, its requests and a descriptor's items allow
between two commands. -/
def rillFuel : Nat := 2 ^ 34

/-- One pass over the four Rills, lower numbers first, so that items flow up the chain (R136). -/
def Chip.rillPass (n : Nat) : List Nat → Bool → Chip → Bool × Chip
  | [], moved, c => (moved, c)
  | r :: l, moved, c =>
    let c := c.issueHeld n r
    let (m, c) := Chip.rillSteps n r rillFuel false c
    Chip.rillPass n l (moved || m) ((c.countDelivs n r).showRill n r)

/-- Passes until nothing more moves. -/
def Chip.rillPasses (n : Nat) : Nat → Chip → Chip
  | 0, c => c
  | k + 1, c =>
    if !c.tileRuns n then c
    else
      let (m, c) := Chip.rillPass n [0, 1, 2, 3] false c
      if m then Chip.rillPasses n k c else c

/-- The Rills of a tile go as far as they can without a response. -/
def Chip.runRills (c : Chip) (n : Nat) : Chip :=
  if (c.tile n).rills.any (fun p => p.2.en) then (Chip.rillPasses n rillFuel c).showQueue n else c

/-! ### Start (R124, R130, R136) -/

/-- The consumer that a source Rill's current read descriptor names (R136). -/
def Chip.sourceConsumer (c : Chip) (n src : Nat) : Option Nat :=
  let x := c.rill n src
  match x.cur with
  | some u => if rdWrite u.bytes then none else some (rdConsumer u.bytes)
  | none =>
    match x.delivs.getLast? with
    | some d => if d.write then none else some d.consumer
    | none =>
      if x.en && !x.ended then
        let b := c.readBack (tileAddr n + x.base + 64 * x.desc) 64
        if rdWrite b then none else some (rdConsumer b)
      else none

/-- R130: everything a descriptor waits for before it starts. -/
def Chip.rillMayStart (c : Chip) (n r : Nat) (b : List Byte) : Bool :=
  let t := c.tile n
  let x := c.rill n r
  (match rdStart b with | some k => t.entry k == sbReady | none => true) &&
  (match rdBound b with | some k => t.entry k == sbFree || x.boundTags.contains k | none => true) &&
  (match rdDone b with | some k => t.entry k == sbFree | none => true) &&
  !x.delivs.any (fun d => d.write != rdWrite b)

/-- The descriptor starts. -/
def Chip.startDesc (c : Chip) (n r : Nat) (b : List Byte) : Chip :=
  let c := c.changeRill n r (fun x => { x with
    recent := []
    cur := some { bytes := b, desc := x.desc, first := x.nextDeliv }
    undone := x.undone ++ [{ desc := x.desc, write := rdWrite b, doneTag := rdDone b, countDst := rdCountDst b }] })
  match rdDone b with
  | some k => c.updTile n (fun t => t.setEntry k sbPending)
  | none => c

/-- A Rill starts its next descriptor when the row's mode is the descriptor's and R130 holds; a bad descriptor faults
when it would start. -/
def rillStart (mode n r : Nat) (c : Chip) : Chip :=
  let x := c.rill n r
  if !c.tileRuns n || 4 ≤ r || !x.en || x.ended || x.cur.isSome then c
  else if x.base % 64 ≠ 0 ∨ tileMemSize < x.base + 64 * (x.desc + 1) then c.rillFault n r rfListRange
  else
    match (tileRead n (x.base + 64 * x.desc) 64).run c with
    | (.error _, c) => c.rillFault n r rfUncorrectable
    | (.ok b, c) =>
      match rdFault b with
      | some f => c.rillFault n r f
      | none =>
        if rdMode b ≠ mode ∨ !c.rillMayStart n r b then c
        else if 4 ≤ rdIdx b ∧ (r ≤ rdIdx b - 4 ∨ c.sourceConsumer n (rdIdx b - 4) ≠ some (4 + r)) then c.rillFault n r rfBadChain
        else (((c.startDesc n r b).runRills n).showRill n r)

/-! ### Responses and ends -/

/-- The data of a line lands in the lines reserved for it, and is at hand for the item that asked for it (R135). -/
def Rill.land (x : Rill) (q : LineReq) (b : List Byte) : Rill :=
  let x := q.targets.foldl (fun x t => x.fillDeliv t.deliv t.off ((b.drop (t.addr % 64)).take t.len)) x
  match x.cur with
  | some u =>
    if u.desc = q.desc then { x.keepLine q.line b with cur := some (if q.steer then { u with lines := (q.line, b) :: u.lines } else u) } else x
  | none => x

/-- A response: checked when it was issued, the line is read at its target (R135, R367). -/
def rillReturn (n r i : Nat) (q : LineReq) (c : Chip) : Chip :=
  let y := c.loadServed (c.lineReq n q)
  let d := (y.2.2.changeRill n r (fun x => { x with reqs := x.reqs.eraseIdx i })).channelChanged (q.line * 64)
  if y.1 = .ok then (d.changeRill n r (fun x => x.land q y.2.1)).progressed n else d.rillFault n r (servedCause y.1)

/-- R139: one element added: saturating INT32, or FP32 to nearest even with the canonical NaN. -/
def addElement (op old new : Nat) : Nat :=
  if op = 1 then
    let t := sx 32 old + sx 32 new
    ux 32 (if t > 2147483647 then 2147483647 else if t < -2147483648 then -2147483648 else t)
  else fp32.encode .rne false (fadd (fp32.decode old) (fp32.decode new))

/-- The bytes a write leaves: its own, or the sums with what stands there. -/
def writtenBytes (op : Nat) (old new : List Byte) : List Byte :=
  if op = 0 then new
  else ((List.range (new.length / 4)).map (fun i => leBytes 4 (addElement op (bytesU old (4 * i) 4) (bytesU new (4 * i) 4)))).flatten ++
    old.drop (new.length / 4 * 4)

/-- What stands where an accumulating write goes. -/
def Chip.rillOld (c : Chip) (n : Nat) (w : RillWrite) : Served × List Byte × Chip :=
  if w.op = 0 then (.ok, [], c) else c.loadServed (c.rillReq n w.addr w.data.length false)

/-- A write is accepted by its target, checked when it was issued. -/
def rillAccept (n r : Nat) (w : RillWrite) (c : Chip) : Chip :=
  let y := ((c.updRill n r (fun x => { x with writes := x.writes.drop 1 })).channelChanged w.addr).rillOld n w
  if y.1 ≠ .ok then y.2.2.rillFault n r (servedCause y.1)
  else
    let z := y.2.2.saveServed (y.2.2.writeReq n w) (writtenBytes w.op y.2.1 w.data)
    if z.1 = .ok then z.2.drainDelivs n r else z.2.rillFault n r (servedCause z.1)

/-- The places of the reads that have been issued. -/
def Rill.issuedReads (x : Rill) : List Nat :=
  (List.range x.reqs.length).filter (fun i => match x.reqs[i]? with | some q => q.place == ReqPlace.issued | none => false)

/-- R135: a response lands for the `which`-th issued read, or, past the reads, the oldest write is accepted.  A fault
of the tile that waited for its Rill reads is then recorded (R122). -/
def rillResponse (n r which : Nat) (c : Chip) : Chip :=
  let x := c.rill n r
  let c := match x.issuedReads[which]? with
    | some i =>
      match x.reqs[i]? with
      | some q => rillReturn n r i q c
      | none => c
    | none =>
      match x.writes with
      | w :: _ => if w.place = ReqPlace.issued then rillAccept n r w c else c
      | [] => c
  ((c.runRills n).showRill n r).recordFault n

/-- The turns, in the tile queue, of a Rill's requests for a channel. -/
def Rill.queuedFor (x : Rill) (ch : Nat) : List Nat :=
  (x.reqs.filterMap (fun q => if q.place = ReqPlace.queued ∧ q.line * 64 < mcBase ∧ channelOf (q.line * 64) = ch then some q.stamp else none)) ++
  (x.writes.filterMap (fun q => if q.place = ReqPlace.queued ∧ q.addr < mcBase ∧ channelOf q.addr = ch then some q.stamp else none))

/-- The request of a Rill that has turn `k` in the tile queue, as its target sees it. -/
def Chip.turnReq (c : Chip) (n r k : Nat) : Option Req :=
  let x := c.rill n r
  match x.reqs.find? (fun q => q.place == ReqPlace.queued && q.stamp == k) with
  | some q => some (c.lineReq n q)
  | none => (x.writes.find? (fun w => w.place == ReqPlace.queued && w.stamp == k)).map (c.writeReq n)

/-- The queued request with turn `k` is issued. -/
def Rill.issueTurn (x : Rill) (k : Nat) : Rill :=
  { x with
    reqs := x.reqs.map (fun q => if q.place = ReqPlace.queued ∧ q.stamp = k then { q with place := ReqPlace.issued } else q)
    writes := x.writes.map (fun q => if q.place = ReqPlace.queued ∧ q.stamp = k then { q with place := ReqPlace.issued } else q) }

/-- The turns of the requests of a tile's Rills that wait for a channel. -/
def Chip.queuedFor (c : Chip) (n ch : Nat) : List Nat := (List.range 4).flatMap (fun r => (c.rill n r).queuedFor ch)

/-- A Rill's request with turn `k` goes to its target, or is refused there (R43). -/
def Chip.issueReq (c : Chip) (n r k : Nat) (q : Req) (refused : Option (Deny × Nat)) : Chip :=
  match refused with
  | some d => c.rillRefused n r q d
  | none => ((c.updRill n r (fun x => x.issueTurn k)).channelChanged q.addr).showRill n r

/-- The request of a Rill that has turn `k`, if there is one, is issued. -/
def Chip.issueRill (c : Chip) (n r k : Nat) : Chip :=
  match c.turnReq n r k with
  | none => c
  | some q => c.issueReq n r k q (c.rillDenied n q)

/-- The Rill whose request has turn `k` issues it. -/
def Chip.issueTurn (c : Chip) (n ch k : Nat) : Chip :=
  (List.range 4).foldl (fun c r => if ((c.rill n r).queuedFor ch).contains k then c.issueRill n r k else c) c

/-- R145: the tile queue releases the oldest waiting request for a channel that has a free slot. -/
def tileQueueRelease (n ch : Nat) (c : Chip) : Chip :=
  if 256 ≤ c.channelLoad ch then c
  else match c.queuedFor n ch with
    | [] => c
    | k :: l => ((c.issueTurn n ch (l.foldl min k)).showQueue n).runRills n

/-- The descriptors of a Rill all of whose requests have been issued and have completed. -/
def Rill.finished (x : Rill) : Option RillDesc :=
  x.undone.find? (fun d => d.issued && !x.reqs.any (fun q => q.desc == d.desc) && !x.writes.any (fun w => w.desc == d.desc))

/-- The result count of a descriptor, written where it asks for it (R129). -/
def RillDesc.writeCount (d : RillDesc) (n : Nat) (c : Chip) : Except Nat Unit × Chip :=
  match d.countDst with
  | some a => (tileWrite n a (leBytes 4 d.count)).run c
  | none => (.ok (), c)

/-- The done tag of a descriptor becomes READY. -/
def RillDesc.markDone (d : RillDesc) (n : Nat) (c : Chip) : Chip :=
  match d.doneTag with
  | some k => c.updTile n (fun t => t.setEntry k sbReady)
  | none => c

/-- A descriptor leaves the list of those that are not done. -/
def Chip.endDesc (c : Chip) (n r desc : Nat) : Chip :=
  c.updRill n r (fun x => { x with undone := x.undone.filter (fun e => e.desc != desc) })

/-- R130: a descriptor all of whose requests have completed is done: the result count is written, and DONE_TAG becomes
READY. -/
def rillDescriptorDone (n r : Nat) (c : Chip) : Chip :=
  match (c.rill n r).finished with
  | none => c
  | some d =>
    if !c.tileRuns n then c
    else
      match d.writeCount n (c.endDesc n r d.desc) with
      | (.error _, c) => c.rillFault n r rfUncorrectable
      | (.ok _, c) => ((d.markDone n c).runRills n).showRill n r

end Sys2Proof.Machine
end

