-- ==== Sys2Proof/Machine/Sequencer.lean ====
section
/-!
DEFINITION. The tile sequencer: the instruction buffer, decode, the unit queues, operands, issue and completion
(04 R116 to R123).
-/

namespace Sys2Proof.Machine

/-! ### Instructions (R117 to R119) -/

def tiOp (b : List Byte) : Nat := bytesU b 0 1
def tiUnit (b : List Byte) : Nat := bytesU b 1 1 % 4
def tiSetTag (b : List Byte) : Option Nat := if bitOf (bytesU b 5 1) 0 then some (bytesU b 1 1 / 4) else none
def tiMode (b : List Byte) : Nat := bytesU b 6 2
def tiFmtA (b : List Byte) : Nat := tiMode b % 16
def tiFmtB (b : List Byte) : Nat := bitsOf (tiMode b) 7 4
def tiStochastic (b : List Byte) : Bool := bitOf (tiMode b) 8
def tiSatFinite (b : List Byte) : Bool := bitOf (tiMode b) 9
def tiClamp (b : List Byte) : Bool := bitOf (tiMode b) 10
def tiRed (b : List Byte) : Nat := bitsOf (tiMode b) 12 11
def tiImm (b : List Byte) : Nat := bytesU b 20 4
def tiExt (b : List Byte) : Nat := bytesU b 24 8

/-- The enabled waits, each with whether it is released. -/
def tiWaits (b : List Byte) : List (Nat × Bool) :=
  (List.range 3).filterMap (fun w => let x := bytesU b (2 + w) 1; if bitOf x 6 then some (x % 64, bitOf x 7) else none)

/-- The unit an opcode belongs to (Table — Tile opcodes). -/
def opUnit (op : Nat) : Option Nat :=
  if op ≤ 5 then some 0
  else if 0x10 ≤ op ∧ op ≤ 0x13 then some 1
  else if (0x20 ≤ op ∧ op ≤ 0x26) ∨ (0x28 ≤ op ∧ op ≤ 0x2B) ∨ (0x30 ≤ op ∧ op ≤ 0x32) then some 2
  else if 0x40 ≤ op ∧ op ≤ 0x43 then some 3
  else none

/-- A reserved bit of an operand descriptor is set (R118). -/
def opndReserved (v : Nat) : Bool :=
  match v / 2 ^ 22 with
  | 0 => bitsOf v 21 20 != 0
  | 1 => bitsOf v 21 2 != 0
  | 2 => bitsOf v 21 8 != 0
  | _ => bitsOf v 21 5 != 0

/-- R119: an unknown opcode, a unit that does not match, or a reserved bit set (DEDUCED, log 17). -/
def tiIllegal (b : List Byte) : Bool :=
  opUnit (tiOp b) != some (tiUnit b) || bitsOf (bytesU b 5 1) 7 4 != 0 || bitsOf (tiMode b) 15 13 != 0 ||
  (tiOp b != 0x32 && tiRed b != 0) || (tiOp b == 0x32 && tiRed b == 3) ||
  ([8, 11, 14, 17].any (fun o => opndReserved (bytesU b o 3))) || (tiOp b == 1 && bitsOf (tiExt b) 63 48 != 0)

/-- R118: an operand, the increments of the active loop levels applied where its INC bit is set. -/
def tiOperand (t : Tile) (v : Nat) (inc : Bool) (f : LoopLevel → Int) : Operand :=
  match v / 2 ^ 22 with
  | 0 =>
    let add := if inc then (t.loops.map (fun l => 64 * f l * l.index)).foldl (· + ·) 0 else 0
    ⟨0, ((v % 2 ^ 20 : Nat) : Int) + add⟩
  | k => ⟨k, ((v % 2 ^ 20 : Nat) : Int)⟩

/-- An instruction with its operands, as it enters its queue. -/
def tiQueued (t : Tile) (b : List Byte) : TileIns :=
  let x := bytesU b 5 1
  { bytes := b, pc := t.pc, dst := tiOperand t (bytesU b 8 3) (bitOf x 1) (·.incDst), a := tiOperand t (bytesU b 11 3) (bitOf x 2) (·.incA), b := tiOperand t (bytesU b 14 3) (bitOf x 3) (·.incB), c := tiOperand t (bytesU b 17 3) false (fun _ => 0) }

/-! ### Instruction buffer (R116) -/

/-- Blocks of the program. -/
def Tile.blocks (t : Tile) : Nat := (t.codeCount + 127) / 128

/-- Block `k` is asked for, where the program has it and the buffer does not. -/
def Tile.want (t : Tile) (k : Nat) : Tile :=
  if t.blocks ≤ k || (AMap.get? t.ibuf k).isSome || t.wanted.contains k then t else { t with wanted := t.wanted ++ [k] }

/-- The instruction at the decode index, when its block is present. -/
def Tile.fetched (t : Tile) : Option (List Byte) :=
  (AMap.get? t.ibuf (t.pc / 128)).map (fun b => (b.drop (t.pc % 128 * 32)).take 32)

/-! ### Decode (R119, R120) -/

/-- The queues are empty and the units idle (R119). -/
def Tile.idle (t : Tile) : Bool :=
  t.arrayQ.isEmpty && t.vectorQ.isEmpty && t.moveQ.isEmpty && t.executing.isEmpty && t.waits.isEmpty

/-- The queue of a unit: 1 array, 2 vector, 3 move. -/
def Tile.queue (t : Tile) : Nat → List TileIns
  | 1 => t.arrayQ
  | 2 => t.vectorQ
  | _ => t.moveQ

def Tile.setQueue (t : Tile) (u : Nat) (l : List TileIns) : Tile :=
  match u with
  | 1 => { t with arrayQ := l }
  | 2 => { t with vectorQ := l }
  | _ => { t with moveQ := l }

/-- What stands at decode: it waits for its block; it faults; it may go on; or it waits for a tag. -/
inductive Decoded where
  | miss
  | fault (code : Nat)
  | ready (b : List Byte)
  | hold
  deriving DecidableEq, Repr

/-- The instruction at decode (R120).  Decode past the program faults with IBUF_RANGE (DEDUCED, log 17). -/
def Tile.atDecode (t : Tile) : Decoded :=
  if t.codeCount ≤ t.pc then .fault tfIbufRange
  else match t.fetched with
    | none => .miss
    | some b =>
      if tiIllegal b then .fault tfIllegalOp
      else if (tiWaits b).any (fun w => t.entry w.1 == sbFree) then .fault tfTagUnset
      else match tiSetTag b with
        | some k => if t.entry k = sbFree then .ready b else .hold
        | none => .ready b

/-- Decode goes on through instructions of the units until it meets a control instruction, a wait or a fault. -/
def Chip.decodeAhead (n : Nat) : Nat → Chip → Chip
  | 0, c => c
  | k + 1, c =>
    let t := c.tile n
    if !c.tileRuns n || t.ended then c
    else match t.atDecode with
      | .miss => c.setTile n ((t.want (t.pc / 128)).want (t.pc / 128 + 1))
      | .fault f => c.tileFault n f t.pc
      | .hold => c
      | .ready b =>
        if tiUnit b = 0 then c.setTile n (t.want (t.pc / 128 + 1))
        else
          let t' := match tiSetTag b with
            | some k => t.setEntry k sbPending
            | none => t
          let t' := t'.setQueue (tiUnit b) (t.queue (tiUnit b) ++ [tiQueued t b])
          Chip.decodeAhead n k (c.setTile n ({ t' with lastDecoded := t.pc, pc := t.pc + 1, progress := c.now }.want (t.pc / 128 + 1)))

/-- After anything happened in a tile, its Rills and its decode go as far as they can. -/
def Chip.advance (c : Chip) (n : Nat) : Chip := Chip.decodeAhead n 1024 (c.runRills n)

/-! ### Operands (R118, R131) -/

/-- The deliveries an instruction reads, by Rill. -/
abbrev Delivered := List (Nat × List Byte)

/-- Bytes of an accumulator file: array j at 256 j, row-major (R102). -/
def Tile.accBytes (t : Tile) (a n : Nat) : List Byte :=
  (List.range n).map (fun i => BitVec.ofNat 8 ((AMap.getD t.accs ((a + i) / 4) 0).toNat / 256 ^ ((a + i) % 4)))

def Tile.setAcc (t : Tile) (k v : Nat) : Tile :=
  { t with accs := if v % 2 ^ 32 = 0 then AMap.del t.accs k else AMap.set t.accs k (BitVec.ofNat 32 v) }

/-- Bytes stored into the accumulator file, one at a time. -/
def Tile.putAccBytes (t : Tile) : Nat → List Byte → Tile
  | _, [] => t
  | a, b :: l =>
    let old := (AMap.getD t.accs (a / 4) 0).toNat
    let i := a % 4
    Tile.putAccBytes (t.setAcc (a / 4) (putBits old (8 * i + 7) (8 * i) b.toNat)) (a + 1) l

/-- The limit of an operand's space: tile memory, the vector registers, the accumulators. -/
def spaceEnd : Nat → Nat
  | 0 => tileMemSize
  | 2 => 256 * 128
  | _ => 32 * 256

/-- The first address of an access to an operand at an offset; a run past the end faults with ADDR_RANGE.  R118 names that
fault past tile address 0xB_FFFF; past the vector registers or the accumulators the model takes it too (DESIGN CHOICE, log
109). -/
def operandAddr (o : Operand) (off : Int) (len : Nat) : TileM Nat :=
  let a := (match o.kind with | 0 => o.val | 2 => 128 * o.val | _ => 256 * o.val) + off
  if a < 0 ∨ (spaceEnd o.kind : Int) < a + len then TileM.fault tfAddrRange else pure a.toNat

/-- Bytes read from an operand. -/
def operandRead (n : Nat) (del : Delivered) (o : Operand) (off len : Nat) : TileM (List Byte) := do
  if o.kind = 1 then
    match del.find? (fun p => decide ((p.1 : Int) = o.val)) with
    | some (_, b) => if off + len > b.length then TileM.fault tfAddrRange else pure ((b.drop off).take len)
    | none => TileM.fault tfAddrRange
  else
    let a ← operandAddr o off len
    if o.kind = 0 then tileRead n a len
    else
      let c ← TileM.chip
      if o.kind = 2 then pure (memRead (c.tile n).vregs a len) else pure ((c.tile n).accBytes a len)

/-- Bytes of a delivery that the instruction does not write are undefined (R134). -/
def freshDelivery (c : Chip) (size : Nat) (l : List (Nat × List Byte)) : List Byte × Chip :=
  let (b, c) := c.drawBytes size
  (l.foldl (fun b p => putAt b p.1 p.2) b, c)

/-- R134: a delivery appended to a write-direction pool. -/
def poolWrite (n r : Nat) (l : List (Nat × List Byte)) : TileM Unit := fun c =>
  match (c.rill n r).cur with
  | none => (.error tfAddrRange, c)
  | some u =>
    let d := rdSize u.bytes
    if l.any (fun p => decide (d < p.1 + p.2.length)) then (.error tfAddrRange, c)
    else
      let (b, c) := freshDelivery c d l
      (.ok (), (c.updRill n r (fun x => { x with
        cur := some { u with made := u.made + 1 }
        nextDeliv := x.nextDeliv + 1
        nextLine := (x.nextLine + rdLines u.bytes) % 128
        delivs := x.delivs ++ [{ no := x.nextDeliv, desc := u.desc, write := true, consumer := rdConsumer u.bytes, tag := none, data := b, assigned := 0, line := x.nextLine }] })).showPool n r)

/-- Bytes stored at an operand, in parts at offsets. -/
def operandWrite (n : Nat) (o : Operand) (l : List (Nat × List Byte)) : TileM Unit := do
  if o.kind = 1 then poolWrite n o.val.toNat l
  else
    for p in l do
      let a ← operandAddr o p.1 p.2.length
      if o.kind = 0 then tileWrite n a p.2
      else if o.kind = 2 then TileM.change (fun c => c.updTile n (fun t => { t with vregs := memWrite t.vregs a p.2 }))
      else TileM.change (fun c => c.updTile n (fun t => t.putAccBytes a p.2))

/-! ### Issue (R120, R133, R134) -/

/-- The Rills whose pools an instruction reads. -/
def TileIns.pools (q : TileIns) : List Nat :=
  ([q.a, q.b, q.c].filter (fun o => o.kind == 1)).foldl (fun l o => nsInsert l o.val.toNat) []

/-- What holds or stops an instruction at the head of its queue. -/
inductive Issue where
  | hold
  | fault (code : Nat)
  | misuse (rill : Nat)
  | go
  deriving DecidableEq, Repr

/-- R133: a source pool at issue: its head delivery is whole, for this unit. -/
def Chip.poolReady (c : Chip) (n unit r : Nat) : Issue :=
  let x := c.rill n r
  match x.head? with
  | some d =>
    if d.write ∨ d.consumer ≠ unit - 1 then .misuse r
    else if x.filled d then .go else .hold
  | none =>
    match x.cur with
    | some u => if rdWrite u.bytes ∨ rdConsumer u.bytes ≠ unit - 1 then .misuse r else .hold
    | none => .hold

/-- R134: a destination pool at issue. -/
def Chip.poolRoom (c : Chip) (n unit r : Nat) : Issue :=
  let x := c.rill n r
  match x.cur with
  | some u =>
    if !rdWrite u.bytes ∨ rdConsumer u.bytes ≠ unit - 1 then .misuse r
    else if u.made < rdCount u.bytes ∧ rdLines u.bytes ≤ x.credits then .go else .hold
  | none => .hold

/-- The first thing in a list of conditions that does not let an instruction go. -/
def firstIssue : List Issue → Issue
  | [] => .go
  | .go :: l => firstIssue l
  | i :: _ => i

/-- R120: may the head of a queue issue. -/
def Chip.mayIssue (c : Chip) (n : Nat) (q : TileIns) : Issue :=
  let t := c.tile n
  let unit := tiUnit q.bytes
  firstIssue (
    (tiWaits q.bytes).map (fun w => if t.entry w.1 = sbFree then .fault tfTagUnset else if t.entry w.1 = sbReady then .go else .hold) ++
    q.pools.map (c.poolReady n unit) ++
    (if q.dst.kind = 1 then [c.poolRoom n unit q.dst.val.toNat] else []))

/-- R120, R133: a release: a bound entry consumes its head delivery, another returns to FREE. -/
def Chip.releaseTag (c : Chip) (n k : Nat) (read : List Nat) : Chip :=
  match (List.range 4).find? (fun r => (c.rill n r).boundTags.contains k) with
  | some r => if read.contains r then c else c.consume n r
  | none => c.updTile n (fun t => t.setEntry k sbFree)

/-- The end of an issue: operands released, and the instruction executing.  A SYNC_WAIT executes nothing: its tag waits
for the object. -/
def Chip.issued (c : Chip) (n : Nat) (q : TileIns) : Chip :=
  let read := q.pools
  let c := read.foldl (fun c r => c.consume n r) c
  let c := (tiWaits q.bytes).foldl (fun c w => if w.2 then c.releaseTag n w.1 read else c) c
  let unit := tiUnit q.bytes
  let c := c.updTile n (fun t => { t with executing := if tiOp q.bytes = 0x43 then t.executing else t.executing ++ [(unit, tiSetTag q.bytes)], progress := c.now })
  if unit = 2 then c.tileCount n (TILE_VEC_ISSUE n) TILE_VEC_ISSUE.COUNT 1 else c

/-- The queue of a unit without its head. -/
def Chip.pop (c : Chip) (n unit : Nat) (l : List TileIns) : Chip := c.setTile n ((c.tile n).setQueue unit l)

/-- The head deliveries an instruction reads, by Rill. -/
def Chip.poolData (c : Chip) (n : Nat) (q : TileIns) : Delivered :=
  q.pools.filterMap (fun r => (c.rill n r).head?.map (fun d => (r, d.data)))

/-- The head of a unit's queue issues when it is an instruction of the row's opcode and R120 lets it: it reads its
operands, writes its results, releases what it read.  A fault in it stops the tile. -/
def Chip.issueHead (c : Chip) (n unit op : Nat) (f : TileIns → Delivered → TileM Unit) : Chip :=
  if !c.tileRuns n then c
  else match (c.tile n).queue unit with
    | [] => c
    | q :: l =>
      if tiOp q.bytes ≠ op then c
      else match c.mayIssue n q with
        | .hold => c
        | .fault code => c.tileFault n code q.pc
        | .misuse r => c.rillFault n r rfPoolMisuse
        | .go =>
          let c := c.pop n unit l
          match (f q (c.poolData n q)).run c with
          | (.ok _, c) => (c.issued n q).advance n
          | (.error code, c) => c.tileFault n code q.pc

/-- R120: the oldest executing instruction of a unit completes: its results are visible and its entry is READY.  A
fault that waited for it is recorded (R122). -/
def instructionComplete (n unit : Nat) (c : Chip) : Chip :=
  let t := c.tile n
  match t.executing.findIdx? (fun e => e.1 == unit) with
  | none => c
  | some i =>
    let tag := match t.executing[i]? with
      | some e => e.2
      | none => none
    let t := { t with executing := t.executing.eraseIdx i, progress := c.now }
    let t := match tag with
      | some k => if t.entry k = sbPending then t.setEntry k sbReady else t
      | none => t
    ((c.setTile n t).recordFault n).advance n

/-! ### The instruction buffer's fills and the control instructions -/

/-- R347: the block prefetch of tile `n`'s sequencer leaves an entry with world 0, HOST 0 and the slice of its job.  Sequencer
`n` is holder 0x100 + n among the predictors. -/
def Chip.tagPrefetch (c : Chip) (n slice : Nat) : Chip :=
  if c.predictors.contains (0x100 + n, slice) then c else { c with predictors := c.predictors ++ [(0x100 + n, slice)] }

/-- R116: a block that was asked for arrives. -/
def ibufFillDone (n k : Nat) (c : Chip) : Chip :=
  let t := c.tile n
  if !c.tileRuns n || !t.wanted.contains k then c
  else match AMap.get? c.models t.model with
    | none => c
    | some m =>
      match c.imageRead m (groupMaster (n / 16)) t.slice (t.codeOfs + 4096 * k) (min 4096 ((t.codeCount - 128 * k) * 32)) t.cls with
      | (.ok, b, c) =>
        ((c.tagPrefetch n t.slice).updTile n (fun t => { t with ibuf := AMap.set t.ibuf k b, wanted := t.wanted.filter (· != k) })).advance n
      | (.uncorrectable, _, c) => c.tileFault n tfUncorrectable t.pc
      | (.denied, _, c) => c.tileFault n tfAccess t.pc

/-- The tile once a control instruction has executed: its releases and its SET_TAG apply, and decode goes on. -/
def Chip.controlled (c : Chip) (n : Nat) (b : List Byte) (t : Tile) : Chip :=
  let c := c.setTile n { t with progress := c.now }
  let c := (tiWaits b).foldl (fun c w => if w.2 then c.releaseTag n w.1 [] else c) c
  let c := match tiSetTag b with
    | some k => c.updTile n (fun t => t.setEntry k sbReady)
    | none => c
  c.advance n

/-- A control instruction of the row's opcode at decode executes: its waits hold it, its releases and its SET_TAG apply
as a unit's do (DEDUCED, log 18). -/
def Chip.control (c : Chip) (n op : Nat) (hold : Tile → Bool) (f : List Byte → Tile → Except Nat Tile) : Chip :=
  let t := c.tile n
  if !c.tileRuns n || t.ended then c
  else match t.atDecode with
    | .ready b =>
      if tiOp b ≠ op ∨ (tiWaits b).any (fun w => t.entry w.1 != sbReady) ∨ hold t then c
      else match f b { t with pc := t.pc + 1, lastDecoded := t.pc } with
        | .error code => c.tileFault n code t.pc
        | .ok t' => c.controlled n b t'
    | _ => c

/-- NOP. -/
def tileNop (n : Nat) (c : Chip) : Chip := c.control n 0 (fun _ => false) (fun _ t => .ok t)

/-- LOOP: at most four levels; a count outside 1 to 1,048,576 is ILLEGAL_OP (DEDUCED, log 17). -/
def tileLoop (n : Nat) (c : Chip) : Chip :=
  c.control n 1 (fun _ => false) (fun b t =>
    if 4 ≤ t.loops.length then .error tfLoopDepth
    else if tiImm b = 0 ∨ 1048576 < tiImm b then .error tfIllegalOp
    else .ok { t with loops := t.loops ++ [{ start := t.pc, count := tiImm b, incDst := sx 16 (tiExt b), incA := sx 16 (tiExt b / 2 ^ 16), incB := sx 16 (tiExt b / 2 ^ 32) }] })

/-- ENDLOOP: the innermost level's next iteration, or its end.  With no open level it is ILLEGAL_OP (DEDUCED,
log 17). -/
def endLoop (n : Nat) (c : Chip) : Chip :=
  c.control n 2 (fun _ => false) (fun _ t =>
    match t.loops.getLast? with
    | none => .error tfIllegalOp
    | some l =>
      if l.index + 1 < l.count then .ok { t with pc := l.start, loops := t.loops.dropLast ++ [{ l with index := l.index + 1 }] }
      else .ok { t with loops := t.loops.dropLast })

/-- BRANCH: a target beyond the program faults. -/
def tileBranch (n : Nat) (c : Chip) : Chip :=
  c.control n 3 (fun _ => false) (fun b t =>
    if t.codeCount ≤ tiImm b % 1024 then .error tfIbufRange else .ok { t with pc := tiImm b % 1024 })

/-- END: the tile's program ends once every queue has drained, and the tile is idle. -/
def tileEnd (n : Nat) (c : Chip) : Chip :=
  let e := (c.tile n).ended
  let c := c.control n 4 (fun t => !t.idle) (fun _ t => .ok { t with ended := true })
  if !e && (c.tile n).ended then c.setTileState n tsIdle else c

/-- BARRIER: decode waits until every unit queue is empty and idle. -/
def tileBarrier (n : Nat) (c : Chip) : Chip := c.control n 5 (fun t => !t.idle) (fun _ t => .ok t)

/-! ### Hang (R123) -/

/-- R123: a running tile without progress for its limit faults. -/
def tileHang (n : Nat) (c : Chip) : Chip :=
  let limit := c.reg (TILE_HANG_LIMIT n)
  if c.tileRuns n && limit ≠ 0 && limit * 1000 ≤ (c.now - (c.tile n).progress) * c.groupMhz (n / 16) then
    c.tileFault n tfHang (c.tile n).lastDecoded
  else c

/-! ### Rows -/

def execIbufFillDone (tile block : Nat) (s : State) : Host.Outcome State Fault Refusal := s.on (ibufFillDone tile block)
def execInstructionComplete (tile unit : Nat) (s : State) : Host.Outcome State Fault Refusal := s.on (instructionComplete tile unit)
def execTileNop (tile : Nat) (s : State) : Host.Outcome State Fault Refusal := s.on (tileNop tile)
def execTileLoop (tile : Nat) (s : State) : Host.Outcome State Fault Refusal := s.on (tileLoop tile)
def execEndLoop (tile : Nat) (s : State) : Host.Outcome State Fault Refusal := s.on (endLoop tile)
def execTileBranch (tile : Nat) (s : State) : Host.Outcome State Fault Refusal := s.on (tileBranch tile)
def execTileEnd (tile : Nat) (s : State) : Host.Outcome State Fault Refusal := s.on (tileEnd tile)
def execTileBarrier (tile : Nat) (s : State) : Host.Outcome State Fault Refusal := s.on (tileBarrier tile)
def execTileHang (tile : Nat) (s : State) : Host.Outcome State Fault Refusal := s.on (tileHang tile)

/-- A row of a Rill mode, with decode going on after it. -/
def rillRow (mode tile rill : Nat) (c : Chip) : Chip := (rillStart mode tile rill c).advance tile

def execRillStrided (tile rill : Nat) (s : State) : Host.Outcome State Fault Refusal := s.on (rillRow 0 tile rill)
def execRillGather (tile rill : Nat) (s : State) : Host.Outcome State Fault Refusal := s.on (rillRow 1 tile rill)
def execRillScatter (tile rill : Nat) (s : State) : Host.Outcome State Fault Refusal := s.on (rillRow 2 tile rill)
def execRillCsr (tile rill : Nat) (s : State) : Host.Outcome State Fault Refusal := s.on (rillRow 3 tile rill)
def execRillCsc (tile rill : Nat) (s : State) : Host.Outcome State Fault Refusal := s.on (rillRow 4 tile rill)
def execRillHashProbe (tile rill : Nat) (s : State) : Host.Outcome State Fault Refusal := s.on (rillRow 5 tile rill)
def execRillSetIntersect (tile rill : Nat) (s : State) : Host.Outcome State Fault Refusal := s.on (rillRow 6 tile rill)
def execRillNeighbour (tile rill : Nat) (s : State) : Host.Outcome State Fault Refusal := s.on (rillRow 7 tile rill)
def execRillBucketNn (tile rill : Nat) (s : State) : Host.Outcome State Fault Refusal := s.on (rillRow 8 tile rill)
def execRillResponse (tile rill which : Nat) (s : State) : Host.Outcome State Fault Refusal :=
  s.on (fun c => (rillResponse tile rill which c).advance tile)
def execTileQueueRelease (tile channel : Nat) (s : State) : Host.Outcome State Fault Refusal := s.on (tileQueueRelease tile channel)
def execRillDescriptorDone (tile rill : Nat) (s : State) : Host.Outcome State Fault Refusal :=
  s.on (fun c => (rillDescriptorDone tile rill c).advance tile)

end Sys2Proof.Machine
end

