-- ==== Sys2Proof/Machine/TileUnits.lean ====
section
/-!
DEFINITION. The array, vector and move units of a tile: one meaning per instruction (04 R100 to R119), and the tile
registers that commands write (R95, R96, R98).
-/

namespace Sys2Proof.Machine

/-! ### Array unit -/

/-- The arrays an instruction drives, in ascending order. -/
def tiArrays (b : List Byte) : List Nat := (List.range 32).filter (fun j => bitOf (tiExt b) j)

/-- A vector's elements are all zero, of either sign (R109). -/
def allZero (l : List FVal) : Bool := l.all FVal.isZero
/-- No infinity and no NaN. -/
def allFinite (l : List FVal) : Bool := l.all FVal.isFin

/-- R109: what a group of k-steps does: 0 executes, 1 skipped with a zero A edge, 2 skipped with only its B edge
zero. -/
def stepKind (a b : List FVal) : Nat :=
  if allZero a && allFinite b then 1
  else if allZero b && allFinite a then 2
  else 0

/-- The steps of a chunk, `g` k-steps each. -/
def chunkSteps (g : Nat) (a b : List FVal) : List Nat :=
  (List.range (32 / g)).map (fun i => stepKind ((a.drop (8 * g * i)).take (8 * g)) ((b.drop (8 * g * i)).take (8 * g)))

/-- Every eighth element from `r`: a row of A or a column of B. -/
def lane (l : List FVal) (r : Nat) : List FVal := (List.range 32).map (fun s => l.getD (8 * s + r) .zero)

/-- TILE_STATUS.SAT and its count; TILE_STATUS.NAN_SEEN. -/
def Chip.tileSat (c : Chip) (n k : Nat) : Chip :=
  if k = 0 then c else (c.setFld (TILE_STATUS n) TILE_STATUS.SAT 1).tileCount n (TILE_SAT_COUNT n) TILE_SAT_COUNT.COUNT k
def Chip.tileNan (c : Chip) (n : Nat) (b : Bool) : Chip :=
  if b then c.setFld (TILE_STATUS n) TILE_STATUS.NAN_SEEN 1 else c

/-- R101, R103 to R105: one chunk merged into one cell. -/
def cellMerge (int : Bool) (mxint : Bool) (sa sb : Nat) (a b : List FVal) (acc : Nat) : Nat × Bool :=
  let s := chunkSum a b
  if int then mergeI acc s else mergeF acc (s.scale sa sb mxint)

/-- The 64 cells of an array merged, one after another: the tile, the number of saturations, whether a NaN was seen. -/
def mergeCells (int mx : Bool) (j : Nat) (sa sb : List Nat) (a b : List FVal) : List Nat → Tile → Nat → Bool → Tile × Nat × Bool
  | [], t, sat, nan => (t, sat, nan)
  | k :: l, t, sat, nan =>
    let r := k / 8
    let col := k % 8
    let (v, f) := cellMerge int mx (sa.getD r 127) (sb.getD col 127) (lane a r) (lane b col) (AMap.getD t.accs (64 * j + k) 0).toNat
    mergeCells int mx j sa sb a b l (t.setAcc (64 * j + k) v) (if int && f then sat + 1 else sat) (nan || (!int && f))

/-- An operand chunk: its elements, and its scales, which follow it by SCALE_OFS (R102, R103). -/
def chunkRead (n : Nat) (del : Delivered) (o : Operand) (fmt off scale : Nat) : TileM (List FVal × List Nat) := do
  if o.kind = 0 ∧ (o.val + off) % 64 ≠ 0 then TileM.fault tfAddrRange
  else
    let b ← operandRead n del o off (32 * elemBits fmt)
    if isMx fmt then
      let s ← operandRead n del o (off + 64 * scale) 8
      pure (elems fmt b 256, s.map BitVec.toNat)
    else pure (elems fmt b 256, [])

/-- R100 to R105, R109: an array's chunks merged into its cells, with the counters of the steps. -/
def mmaMerge (n fa clocks : Nat) (int : Bool) (j : Nat) (a b : List FVal) (sa sb : List Nat) (c : Chip) : Chip :=
  let g := if clocks = 8 then 4 else 1
  let steps := chunkSteps g a b
  let exe := (steps.filter (· == 0)).length
  let (t, sat, nan) := mergeCells int (fa == 9) j (if isMx fa then sa else []) (if isMx fa then sb else []) a b (List.range 64) (c.tile n) 0 false
  let c := ((c.setTile n t).tileSat n sat).tileNan n nan
  let c := c.tileCount n (TILE_ARRAY_BUSY n) TILE_ARRAY_BUSY.COUNT (exe * (if clocks = 128 then 4 else 1))
  let c := c.tileCount n (TILE_MAC_STEPS n) TILE_MAC_STEPS.COUNT (exe * g)
  let c := c.tileCount n (TILE_SKIP_A n) TILE_SKIP_A.COUNT ((steps.filter (· == 1)).length * g)
  c.tileCount n (TILE_SKIP_B n) TILE_SKIP_B.COUNT ((steps.filter (· == 2)).length * g)

/-- R100 to R105, R109, R110: the chunk of one array. -/
def mmaArray (n : Nat) (q : TileIns) (del : Delivered) (clocks : Nat) (int : Bool) (j : Nat) : TileM Unit := do
  let fa := tiFmtA q.bytes
  let fb := tiFmtB q.bytes
  let x := tiExt q.bytes
  let (a, sa) ← chunkRead n del q.a fa (64 * j * bitsOf x 41 32) (bitsOf x 63 52)
  let (b, sb) ← chunkRead n del q.b fb (64 * j * bitsOf x 51 42) (bitsOf x 63 52)
  TileM.change (mmaMerge n fa clocks int j a b sa sb)

def mmaArrays (n : Nat) (q : TileIns) (del : Delivered) (clocks : Nat) (int : Bool) : List Nat → TileM Unit
  | [] => pure ()
  | j :: l => do
    mmaArray n q del clocks int j
    mmaArrays n q del clocks int l

/-- MMA. -/
def mma (n : Nat) (c : Chip) : Chip :=
  c.issueHead n 1 0x10 (fun q del =>
    match pairInfo (tiFmtA q.bytes) (tiFmtB q.bytes) with
    | none => TileM.fault tfFormatPair
    | some (clocks, int) => mmaArrays n q del clocks int (tiArrays q.bytes))

/-- ACC_ZERO. -/
def accZero (n : Nat) (c : Chip) : Chip :=
  c.issueHead n 1 0x11 (fun q _ =>
    TileM.change (fun c => c.updTile n (fun t =>
      { t with accs := t.accs.filter (fun p => !(tiArrays q.bytes).contains (p.1 / 64)) })))

/-- ACC_READ: 256 bytes per array, in ascending array order, packed (R102, R119). -/
def accRead (n : Nat) (c : Chip) : Chip :=
  c.issueHead n 1 0x12 (fun q _ => do
    let c ← TileM.chip
    let b := (tiArrays q.bytes).flatMap (fun j => (c.tile n).accBytes (256 * j) 256)
    operandWrite n q.dst [(0, b)])

def accLoadArrays (n : Nat) (q : TileIns) (del : Delivered) : List Nat → Nat → TileM Unit
  | [], _ => pure ()
  | j :: l, off => do
    let b ← operandRead n del q.a off 256
    TileM.change (fun c => c.updTile n (fun t => t.putAccBytes (256 * j) b))
    accLoadArrays n q del l (off + 256)

/-- ACC_LOAD. -/
def accLoad (n : Nat) (c : Chip) : Chip :=
  c.issueHead n 1 0x13 (fun q del => accLoadArrays n q del (tiArrays q.bytes) 0)

/-! ### Vector unit (R114, R115) -/

/-- A free value (log 4). -/
def TileM.draw : TileM Nat := fun c => let (v, c) := c.draw; (.ok v.toNat, c)

/-- R114: an INT32 result; one that does not fit is not stated (log 21). -/
def int32Result (i : Int) : TileM Nat :=
  if -2147483648 ≤ i ∧ i ≤ 2147483647 then pure (ux 32 i) else do
    let v ← TileM.draw
    pure (v % 2 ^ 32)

/-- An operation of the vector unit on one element of each source, as bits. -/
abbrev VecOp := Nat → Nat → Nat → Nat → TileM Nat

/-- An operation from its INT32 and its floating form. -/
def vecOp (int : Int → Int → Int → Int) (flt : FVal → FVal → FVal → FVal) : VecOp := fun fmt x y z =>
  if fmt = 0xD then int32Result (int (sx 32 x) (sx 32 y) (sx 32 z))
  else pure (vecBits fmt (flt (elemVal fmt x) (elemVal fmt y) (elemVal fmt z)))

/-- A function of R115 on one element: the FP32 result, rounded once more for BF16. -/
def vecFun (f : FVal → Nat → Nat) : VecOp := fun fmt x _ _ => do
  let v ← TileM.draw
  let r := f (elemVal fmt x) v
  pure (if fmt = 0xA then bf16.encode .rne false (fp32.decode r) else r)

/-- The elements of a list of sources, one result each. -/
def vecMap (f : VecOp) (fmt : Nat) (a b c : List Byte) : List Nat → TileM (List Nat)
  | [] => pure []
  | i :: l => do
    let r ← f fmt (elemAt fmt a i) (elemAt fmt b i) (elemAt fmt c i)
    let rs ← vecMap f fmt a b c l
    pure (r :: rs)

/-- The element count of a vector instruction, 1 to 4,096 (R119; a count outside is ILLEGAL_OP, DEDUCED, log 17). -/
def vecCount (q : TileIns) : TileM Nat :=
  if tiImm q.bytes = 0 ∨ 4096 < tiImm q.bytes then TileM.fault tfIllegalOp else pure (tiImm q.bytes)

/-- The bytes of the `k` sources of a vector instruction. -/
def vecRead (n k : Nat) (q : TileIns) (del : Delivered) (len : Nat) : TileM (List Byte × List Byte × List Byte) := do
  let a ← operandRead n del q.a 0 len
  let b ← if 2 ≤ k then operandRead n del q.b 0 len else pure []
  let z ← if 3 ≤ k then operandRead n del q.c 0 len else pure []
  pure (a, b, z)

/-- An element-wise instruction over `k` sources in the formats `ok` (another format is BAD_FORMAT_PAIR, DEDUCED,
log 17). -/
def vecEach (n op k : Nat) (ok : List Nat) (f : VecOp) (c : Chip) : Chip :=
  c.issueHead n 2 op (fun q del => do
    let fmt := tiFmtA q.bytes
    if !ok.contains fmt then TileM.fault tfFormatPair
    else
      let cnt ← vecCount q
      let (a, b, z) ← vecRead n k q del (packedLen fmt cnt)
      let r ← vecMap f fmt a b z (List.range cnt)
      operandWrite n q.dst [(0, packElems fmt r)])

def vecFmts : List Nat := [0xA, 0xC, 0xD]
def floatVecFmts : List Nat := [0xA, 0xC]

/-- VADD. -/
def vadd (n : Nat) (c : Chip) : Chip := vecEach n 0x20 2 vecFmts (vecOp (fun x y _ => x + y) (fun x y _ => fadd x y)) c
/-- VMUL. -/
def vmul (n : Nat) (c : Chip) : Chip := vecEach n 0x21 2 vecFmts (vecOp (fun x y _ => x * y) (fun x y _ => fmul x y)) c
/-- VFMA: one rounding. -/
def vfma (n : Nat) (c : Chip) : Chip :=
  vecEach n 0x22 3 vecFmts (vecOp (fun x y z => x * y + z) (fun x y z => fadd (fmul x y) z)) c
/-- VMIN. -/
def vmin (n : Nat) (c : Chip) : Chip := vecEach n 0x23 2 vecFmts (vecOp (fun x y _ => min x y) (fun x y _ => fminmax false x y)) c
/-- VMAX. -/
def vmax (n : Nat) (c : Chip) : Chip := vecEach n 0x24 2 vecFmts (vecOp (fun x y _ => max x y) (fun x y _ => fminmax true x y)) c

/-- VCMP: the spec gives neither its predicate nor its result's form; each element is a free value (log 21). -/
def vcmp (n : Nat) (c : Chip) : Chip :=
  vecEach n 0x25 2 vecFmts (fun fmt _ _ _ => do let v ← TileM.draw; pure (v % 2 ^ elemBits fmt)) c

/-- VSEL: each element is the first or the second source's; the spec does not give what selects (log 21). -/
def vsel (n : Nat) (c : Chip) : Chip :=
  vecEach n 0x26 3 vecFmts (fun _ x y _ => do let v ← TileM.draw; pure (if v % 2 = 1 then x else y)) c

/-- VEXP, VRCP, VRSQ, VTANH (R115). -/
def vexp (n : Nat) (c : Chip) : Chip := vecEach n 0x28 1 floatVecFmts (vecFun expF) c
def vrcp (n : Nat) (c : Chip) : Chip := vecEach n 0x29 1 floatVecFmts (vecFun rcpF) c
def vrsq (n : Nat) (c : Chip) : Chip := vecEach n 0x2A 1 floatVecFmts (vecFun rsqF) c
def vtanh (n : Nat) (c : Chip) : Chip := vecEach n 0x2B 1 floatVecFmts (vecFun tanhF) c

/-! ### Conversions (R111 to R113) -/

/-- How element `i` rounds. -/
def laneRnd (lanes : Option (List Nat)) (i : Nat) : Rnd :=
  match lanes with
  | none => .rne
  | some l => .stoch (l.getD (i % 32) 0)

/-- The rounding bits of a conversion instruction, of which only the stochastic mode makes use; each advances the LFSR by 512
steps (R112). -/
def convLanes (n : Nat) (q : TileIns) : TileM (Option (List Nat)) := fun c =>
  let r := lfsrLanes 32 (c.reg (TILE_LFSR n))
  (.ok (if tiStochastic q.bytes then some r.1 else none), c.setReg (TILE_LFSR n) r.2)

/-- The blocks of 32 of a list. -/
def blocks32 (l : List FVal) : List (List FVal) := (List.range ((l.length + 31) / 32)).map (fun k => (l.drop (32 * k)).take 32)

/-- R111 step 4: the elements of every block, and the scale bytes. -/
def mxConvert (fmt : Nat) (lanes : Option (List Nat)) (ts : List FVal) : List Conv × List Nat :=
  let bs := blocks32 ts
  let scales := bs.map (mxScale fmt)
  ((bs.zip scales).flatMap (fun p => (p.1.zip (List.range 32)).map (fun e => mxElem fmt (laneRnd lanes e.2) p.2 e.1)), scales)

/-- The end of a conversion: elements and scales written, saturations and NaNs shown. -/
def convWrite (n : Nat) (q : TileIns) (cs : List Conv) (scales : List Nat) : TileM Unit := do
  let fmt := tiFmtB q.bytes
  let parts := [(0, packElems fmt (cs.map (·.bits)))] ++
    (if scales.isEmpty then [] else [(64 * bitsOf (tiExt q.bytes) 63 52, scales.map (BitVec.ofNat 8))])
  operandWrite n q.dst parts
  TileM.change (fun c => (c.tileSat n (cs.filter (·.sat)).length).tileNan n (cs.any (·.nan)))

/-- The values t converted and written (R111 steps 2 to 4). -/
def convertAll (n : Nat) (q : TileIns) (clamp : Option (Int × Int)) (z : Nat → Int) (ts : List FVal) : TileM Unit := do
  let fmt := tiFmtB q.bytes
  let lanes ← convLanes n q
  if isMx fmt then
    let (cs, scales) := mxConvert fmt lanes ts
    convWrite n q cs scales
  else
    convWrite n q ((ts.zip (List.range ts.length)).map (fun p => convElem fmt (laneRnd lanes p.2) (tiSatFinite q.bytes) clamp (z p.2) p.1)) []

/-- VREQ (R111): scale, bias and zero point per channel from SRC_C. -/
def vreq (n : Nat) (c : Chip) : Chip :=
  c.issueHead n 2 0x30 (fun q del => do
    let fi := tiFmtA q.bytes
    let fo := tiFmtB q.bytes
    let cnt := tiImm q.bytes % 2 ^ 16
    if (fi ≠ 0xC ∧ fi ≠ 0xD) ∨ !fmtOk fo then TileM.fault tfFormatPair
    else
      let x ← operandRead n del q.a 0 (4 * cnt)
      let sb ← operandRead n del q.c 0 (8 * cnt)
      let zt ← if (floatFmt fo).isNone && !isMx fo then operandRead n del q.c (8 * cnt) (4 * cnt) else pure []
      let t := (List.range cnt).map (fun i =>
        let s := fp32.decode (bytesU sb (4 * i) 4)
        let b := fp32.decode (bytesU sb (4 * cnt + 4 * i) 4)
        f32 (fadd (fmul (f32 (elemVal fi (elemAt fi x i))) s) b))
      let clamp := if tiClamp q.bytes then some (sx 32 (tiExt q.bytes), sx 32 (tiExt q.bytes / 2 ^ 32)) else none
      convertAll n q clamp (fun i => sx 32 (bytesU zt (4 * i) 4)) t)

/-- VCVT: conversion without scale and bias; a microscaled input's block scales are read from SRC_A + 64 × SCALE_OFS
(DEDUCED, log 20). -/
def vcvt (n : Nat) (c : Chip) : Chip :=
  c.issueHead n 2 0x31 (fun q del => do
    let fi := tiFmtA q.bytes
    let fo := tiFmtB q.bytes
    if !fmtOk fi ∨ !fmtOk fo then TileM.fault tfFormatPair
    else
      let cnt ← vecCount q
      let x ← operandRead n del q.a 0 (packedLen fi cnt)
      let sc ← if isMx fi then operandRead n del q.a (64 * bitsOf (tiExt q.bytes) 63 52) ((cnt + 31) / 32) else pure []
      let t := (List.range cnt).map (fun i =>
        let v := elemVal fi (elemAt fi x i)
        if isMx fi then
          match e8m0 (bytesU sc (i / 32) 1), v with
          | some k, .fin s m e => f32 (.fin s m (e + k - (if fi = 9 then 6 else 0)))
          | some _, v => v
          | none, _ => .nan
        else f32 v)
      convertAll n q none (fun _ => 0) t)

/-! ### Reduction (R114, R119) -/

/-- The sum of floating values when every order of adding gives the same FP32 value; else none: the spec does not give
the order (log 21). -/
def sumAnyOrder (l : List FVal) : Option FVal :=
  if l.any FVal.isNan then some .nan
  else
    let infs := l.filter (fun v => !v.isFin)
    let fins := l.filter FVal.isFin
    let mag := fins.foldl (fun s v => s.add v.dy.abs) (⟨0, 0⟩ : Dy)
    if infs.any FVal.neg && infs.any (fun v => !v.neg) then some .nan
    else match infs with
      | v :: _ => if Dy.lt mag ⟨1, 127⟩ then some v else none
      | [] =>
        let q := fins.foldl (fun s v => if v.isZero then s else min s v.dy.e) 200
        if Dy.lt mag ⟨1, 127⟩ && Dy.le mag ⟨2 ^ 24, q⟩ then
          some ((fins.foldl (fun s v => s.add v.dy) (⟨0, 0⟩ : Dy)).val (!fins.isEmpty && fins.all (fun v => v.isZero && v.neg)))
        else none

/-- The one element that a reduction gives, as bits; a sum whose value depends on the order is a free value (log 21). -/
def vredValue (red fmt : Nat) (es : List Nat) : TileM Nat :=
  if fmt = 0xD then
    let is := es.map (sx 32)
    match red with
    | 0 => int32Result (is.foldl (· + ·) 0)
    | 1 => pure (ux 32 (is.foldl max (is.headD 0)))
    | _ => pure (ux 32 (is.foldl min (is.headD 0)))
  else
    let vs := es.map (elemVal fmt)
    match red with
    | 0 => match sumAnyOrder vs with
      | some v => pure (vecBits fmt v)
      | none => do let v ← TileM.draw; pure (v % 2 ^ elemBits fmt)
    | 1 => pure (vecBits fmt (vs.foldl (fminmax true) .nan))
    | _ => pure (vecBits fmt (vs.foldl (fminmax false) .nan))

/-- VRED: the sum, maximum or minimum of IMM elements, one value (DEDUCED, log 17). -/
def vred (n : Nat) (c : Chip) : Chip :=
  c.issueHead n 2 0x32 (fun q del => do
    let fmt := tiFmtA q.bytes
    if !vecFmts.contains fmt then TileM.fault tfFormatPair
    else
      let cnt ← vecCount q
      let b ← operandRead n del q.a 0 (packedLen fmt cnt)
      let r ← vredValue (tiRed q.bytes) fmt ((List.range cnt).map (elemAt fmt b))
      operandWrite n q.dst [(0, packElems fmt [r])])

/-! ### Move unit -/

/-- MOVE: IMM bytes. -/
def moveTile (n : Nat) (c : Chip) : Chip :=
  c.issueHead n 3 0x40 (fun q del => do
    let b ← operandRead n del q.a 0 (tiImm q.bytes)
    operandWrite n q.dst [(0, b)])

/-- A write of the tile's move unit to the part's memory, as the tile's group. -/
def tileSave (n a : Nat) (b : List Byte) : TileM Unit := fun c =>
  match c.saveRange (groupMaster (n / 16)) (c.tile n).slice a b (c.tile n).cls with
  | (.ok, _, c) => (.ok (), c)
  | (.denied, _, c) => (.error tfAccess, c)
  | (.uncorrectable, _, c) => (.error tfUncorrectable, c)

/-- SEND: IMM bytes written through the mesh with the group's master and the job's tag (R125). -/
def sendTile (n : Nat) (c : Chip) : Chip :=
  c.issueHead n 3 0x41 (fun q del => do
    let b ← operandRead n del q.a 0 (tiImm q.bytes)
    tileSave n (tiExt q.bytes % 2 ^ 48) b)

/-- The object of a SYNC instruction is in the slice's range. -/
def Chip.tileSync (c : Chip) (n o : Nat) : Bool :=
  match c.slice? (c.tile n).slice with
  | some sl => sl.hasSync o
  | none => false

/-- SYNC_ADD: earlier SENDs of the tile are visible, as the move queue issues in order. -/
def tileSyncAdd (n : Nat) (c : Chip) : Chip :=
  c.issueHead n 3 0x42 (fun q _ => do
    let c ← TileM.chip
    let o := tiExt q.bytes % 2 ^ 16
    if !c.tileSync n o then TileM.fault tfSyncRange
    else TileM.change (fun c => c.unitSignal o (.add (tiImm q.bytes)) true))

/-- SYNC_WAIT: the wait is made; its tag becomes READY when the object reaches the threshold. -/
def tileSyncWait (n : Nat) (c : Chip) : Chip :=
  c.issueHead n 3 0x43 (fun q _ => do
    let c ← TileM.chip
    let o := tiExt q.bytes % 2 ^ 16
    let thr := tiExt q.bytes / 2 ^ 16
    if !c.tileSync n o then TileM.fault tfSyncRange
    else if syncErr (c.sync o) then TileM.fault tfDependency
    else TileM.change (fun c =>
      let c := c.updTile n (fun t => { t with waits := t.waits ++ [{ obj := o, threshold := thr, tag := tiSetTag q.bytes, pc := q.pc }] })
      { c with unitWaits := c.unitWaits ++ [{ who := .tile n, obj := o, threshold := thr, met := decide (thr ≤ syncCount (c.sync o)) }] }))

/-- R83, R119: a tile's wait met: its tag becomes READY, or the tile faults on the error bit. -/
def tileSyncWaitMet (n : Nat) (c : Chip) : Chip :=
  if !c.tileRuns n then c
  else match c.unitWaits.findIdx? (fun w => w.who == Waiter.tile n && w.met) with
    | none => c
    | some i =>
      match c.unitWaits[i]? with
      | none => c
      | some w =>
        let c := { c with unitWaits := c.unitWaits.eraseIdx i }
        let t := c.tile n
        match t.waits.findIdx? (fun x => x.obj == w.obj && x.threshold == w.threshold) with
        | none => c
        | some k =>
          match t.waits[k]? with
          | none => c
          | some x =>
            if w.err then c.tileFault n tfDependency x.pc
            else
              let t := { t with waits := t.waits.eraseIdx k, progress := c.now }
              let t := match x.tag with
                | some g => t.setEntry g sbReady
                | none => t
              (c.setTile n t).advance n

/-! ### Registers -/

/-- R95: only slice tag 0 writes GRP_OPP_CAP; a running group keeps its point. -/
def grpOppCapWrite (tag g v : Nat) (c : Chip) : Chip :=
  if tag = 0 then c.setFld (GRP_OPP_CAP g) GRP_OPP_CAP.CAP (v % 4) else c

/-- R97: a request reaches a tile's registers with slice tag 0 or its slice's. -/
def Chip.mayReachTile (c : Chip) (tag n : Nat) : Bool := tag == 0 || c.tileSlice n == some tag

/-- R40, R97: a refused access to a tile's registers. -/
def Chip.deniedTile (c : Chip) (master tag a : Nat) : Chip :=
  c.denied { master := master, tag := tag, addr := a, len := 4, write := true } .sliceTag 28

/-- R96: a write of TILE_LFSR; 0 loads 1. -/
def tileLfsrWrite (master tag n v : Nat) (c : Chip) : Chip :=
  if c.mayReachTile tag n then c.setReg (TILE_LFSR n) (if v % 2 ^ 32 = 0 then 1 else v % 2 ^ 32)
  else c.deniedTile master tag (TILE_LFSR n).addr

/-- R96, R98, R150: CLR clears every counter of the tile, its Rills' among them; FREEZE holds them. -/
def Chip.clearTileCounters (c : Chip) (n : Nat) : Chip :=
  let c := [TILE_CYCLES n, TILE_ARRAY_BUSY n, TILE_MAC_STEPS n, TILE_SKIP_A n, TILE_SKIP_B n, TILE_VEC_ISSUE n, TILE_SB_STALL n, TILE_IBUF_STALL n, TILE_BANK_CONFLICT n, TILE_SAT_COUNT n].foldl (fun c r => c.setReg r 0) c
  (List.range 4).foldl (fun c r =>
    [RILL_LINES n r, RILL_COALESCED n r, RILL_DELIVERIES n r, RILL_STALL_CREDIT n r, RILL_STALL_OUTST n r, RILL_STALL_MEM n r, RILL_STALL_IDX n r, RILL_STALL_START n r, RILL_OOB n r, RILL_TRUNC n r, RILL_PROBES n r, RILL_MISS n r].foldl (fun c r => c.setReg r 0) c) c

/-- A write of TILE_CNT_CTRL. -/
def tileCounterClear (master tag n v : Nat) (c : Chip) : Chip :=
  if c.mayReachTile tag n then
    let c := c.setFld (TILE_CNT_CTRL n) TILE_CNT_CTRL.FREEZE (bitsOf v 1 1)
    if bitOf v 0 then c.clearTileCounters n else c
  else c.deniedTile master tag (TILE_CNT_CTRL n).addr

/-! ### Rows -/

def execMma (tile : Nat) (s : State) : Host.Outcome State Fault Refusal := s.on (mma tile)
def execAccZero (tile : Nat) (s : State) : Host.Outcome State Fault Refusal := s.on (accZero tile)
def execAccRead (tile : Nat) (s : State) : Host.Outcome State Fault Refusal := s.on (accRead tile)
def execAccLoad (tile : Nat) (s : State) : Host.Outcome State Fault Refusal := s.on (accLoad tile)
def execVadd (tile : Nat) (s : State) : Host.Outcome State Fault Refusal := s.on (vadd tile)
def execVmul (tile : Nat) (s : State) : Host.Outcome State Fault Refusal := s.on (vmul tile)
def execVfma (tile : Nat) (s : State) : Host.Outcome State Fault Refusal := s.on (vfma tile)
def execVmin (tile : Nat) (s : State) : Host.Outcome State Fault Refusal := s.on (vmin tile)
def execVmax (tile : Nat) (s : State) : Host.Outcome State Fault Refusal := s.on (vmax tile)
def execVcmp (tile : Nat) (s : State) : Host.Outcome State Fault Refusal := s.on (vcmp tile)
def execVsel (tile : Nat) (s : State) : Host.Outcome State Fault Refusal := s.on (vsel tile)
def execVexp (tile : Nat) (s : State) : Host.Outcome State Fault Refusal := s.on (vexp tile)
def execVrcp (tile : Nat) (s : State) : Host.Outcome State Fault Refusal := s.on (vrcp tile)
def execVrsq (tile : Nat) (s : State) : Host.Outcome State Fault Refusal := s.on (vrsq tile)
def execVtanh (tile : Nat) (s : State) : Host.Outcome State Fault Refusal := s.on (vtanh tile)
def execVreq (tile : Nat) (s : State) : Host.Outcome State Fault Refusal := s.on (vreq tile)
def execVcvt (tile : Nat) (s : State) : Host.Outcome State Fault Refusal := s.on (vcvt tile)
def execVred (tile : Nat) (s : State) : Host.Outcome State Fault Refusal := s.on (vred tile)
def execMoveTile (tile : Nat) (s : State) : Host.Outcome State Fault Refusal := s.on (moveTile tile)
def execSendTile (tile : Nat) (s : State) : Host.Outcome State Fault Refusal := s.on (sendTile tile)
def execTileSyncAdd (tile : Nat) (s : State) : Host.Outcome State Fault Refusal := s.on (tileSyncAdd tile)
def execTileSyncWait (tile : Nat) (s : State) : Host.Outcome State Fault Refusal := s.on (tileSyncWait tile)
def execTileSyncWaitMet (tile : Nat) (s : State) : Host.Outcome State Fault Refusal := s.on (tileSyncWaitMet tile)
def execGrpOppCapWrite (tag group : Nat) (value : W32) (s : State) : Host.Outcome State Fault Refusal :=
  s.on (grpOppCapWrite tag group value.toNat)
end Sys2Proof.Machine
end

