-- ==== Sys2Proof/Machine/Engines.lean ====
section
/-!
DEFINITION. The direct convolution engine, the Nougat engine and the crop-and-resize unit: tensors, windows, the
meaning of each descriptor, and how lists run (06 R152 to R178).
-/

namespace Sys2Proof.Machine

/-! ### Engines and their registers (R176 to R178) -/

def engineKey (g e : Nat) : Nat := 3 * g + e
def Chip.engine (c : Chip) (g e : Nat) : Engine := AMap.getD c.engines (engineKey g e) {}
def Chip.setEngine (c : Chip) (g e : Nat) (x : Engine) : Chip := { c with engines := AMap.set c.engines (engineKey g e) x }
def Chip.updEngine (c : Chip) (g e : Nat) (f : Engine → Engine) : Chip := c.setEngine g e (f (c.engine g e))

def engStatus (g : Nat) : Nat → Reg
  | 0 => DCE_STATUS g
  | 1 => NGT_STATUS g
  | _ => GRP_CRU_STATUS g
def engCtrl (g : Nat) : Nat → Reg
  | 0 => DCE_CNT_CTRL g
  | 1 => NGT_CNT_CTRL g
  | _ => GRP_CRU_CNT_CTRL g
def engList (g : Nat) : Nat → Reg
  | 0 => DCE_LIST g
  | 1 => NGT_LIST g
  | _ => GRP_CRU_LIST g
def engCursor (g : Nat) : Nat → Reg
  | 0 => DCE_CURSOR g
  | 1 => NGT_CURSOR g
  | _ => GRP_CRU_CURSOR g

/-- Engine states (Table — Direct engine and Nougat registers). -/
def esIdle : Nat := 0
def esRunning : Nat := 1
def esWaiting : Nat := 2
def esFaulted : Nat := 3
def esStopped : Nat := 4
def Chip.engState (c : Chip) (g e : Nat) : Nat := c.fld (engStatus g e) DCE_STATUS.STATE
def Chip.setEngState (c : Chip) (g e s : Nat) : Chip := c.setFld (engStatus g e) DCE_STATUS.STATE s

/-- A counter of an engine counts unless FREEZE holds it. -/
def Chip.engCount (c : Chip) (g e : Nat) (r : Reg) (k : Nat) : Chip :=
  if k = 0 || c.flag (engCtrl g e) DCE_CNT_CTRL.FREEZE then c else c.count r ⟨63, 0⟩ k

/-- Engine fault causes (R178). -/
def efBadOp : Nat := 1
def efBadField : Nat := 2
def efFormatPair : Nat := 3
def efLayout : Nat := 4
def efListRange : Nat := 5
def efAccess : Nat := 6
def efUncorrectable : Nat := 7
def efSyncRange : Nat := 8
def efDependency : Nat := 9

/-- The status a job ends with at an engine fault. -/
def engineStatus (f : Nat) : Nat :=
  if f = 7 then stUncorrectable else if f = 6 ∨ f = 8 then stAccessDenied else if f = 9 then stDependencyFailed else stBadParam

/-- R178: the cause, state 3, and the index of the descriptor. -/
def Chip.engineFault (c : Chip) (g e cause : Nat) : Chip :=
  let c := c.setFld (engStatus g e) DCE_STATUS.CAUSE cause
  let c := c.setFld (engStatus g e) DCE_STATUS.DESC (c.engine g e).desc
  ({ c with faulted := c.faulted ++ [192 + engineKey g e] }.setEngState g e esFaulted).updEngine g e (fun x => { x with active := false, busy := false })

/-- A computation of an engine: it changes the part and may end with a fault cause. -/
abbrev EngM (α : Type) := ExceptT Nat (StateM Chip) α
def EngM.fault {α : Type} (cause : Nat) : EngM α := TileM.fault cause
def EngM.need (ok : Bool) (cause : Nat) : EngM Unit := if ok then pure () else EngM.fault cause

/-- One read request of an engine (R160). -/
def engLoad (g e a n : Nat) : EngM (List Byte) := fun c =>
  match c.loadRange (groupMaster g) (c.engine g e).slice a n (c.engine g e).cls with
  | (.ok, b, c) => (.ok b, c)
  | (.denied, _, c) => (.error efAccess, c)
  | (.uncorrectable, _, c) => (.error efUncorrectable, c)

/-- One write of an engine. -/
def engSave (g e a : Nat) (b : List Byte) : EngM Unit := fun c =>
  match c.saveRange (groupMaster g) (c.engine g e).slice a b (c.engine g e).cls with
  | (.ok, _, c) => (.ok (), c)
  | (.denied, _, c) => (.error efAccess, c)
  | (.uncorrectable, _, c) => (.error efUncorrectable, c)

/-- Lines that an engine has read, by line number. -/
abbrev Lines := AMap (List Byte)

/-- The lines of some ranges that are not held yet, each read once, in order. -/
def engLines (g e : Nat) (m : Lines) : List Nat → EngM Lines
  | [] => pure m
  | l :: rest => do
    if (AMap.get? m l).isSome then engLines g e m rest
    else
      let b ← engLoad g e (l * 64) 64
      engLines g e (AMap.set m l b) rest

/-- The line numbers that ranges touch, each once. -/
def linesOf (rs : List (Nat × Nat)) : List Nat :=
  rs.foldl (fun acc r => if r.2 = 0 then acc else (List.range ((r.1 + r.2 - 1) / 64 - r.1 / 64 + 1)).foldl (fun acc i => nsInsert acc (r.1 / 64 + i)) acc) []

/-- `n` bytes at `a`, out of lines read. -/
def Lines.get (m : Lines) (a n : Nat) : List Byte :=
  (List.range n).map (fun i => ((AMap.getD m ((a + i) / 64) []).getD ((a + i) % 64) 0))

/-! ### Tensors (R152, R153) -/

/-- A tensor in memory. -/
structure Tensor where
  layout : Nat
  fmt : Nat
  base : Nat
  row : Nat
  plane : Nat
  ch : Nat
  h : Nat
  w : Nat
  deriving DecidableEq, Repr

/-- Channels of a block: 16 or 32, or all of them in the packed and planar layouts. -/
def Tensor.block (t : Tensor) : Nat := if t.layout = 0 then 16 else if t.layout = 1 then 32 else t.ch

/-- Blocks of the tensor. -/
def Tensor.blocks (t : Tensor) : Nat := if t.layout ≤ 1 then (t.ch + t.block - 1) / t.block else 1

/-- Elements of a row of one block, in element numbers; the address in bits, so that 4-bit elements share a byte. -/
def Tensor.bitAddr (t : Tensor) (c y x : Nat) : Nat :=
  let e := elemBits t.fmt
  match t.layout with
  | 2 => (t.base + y * t.row) * 8 + (t.ch * x + c) * e
  | 3 => (t.base + c * t.plane + y * t.row) * 8 + x * e
  | _ => (t.base + c / t.block * t.plane + y * t.row) * 8 + (t.block * x + c % t.block) * e

/-- The scale byte of a block of 32 channels at a pixel (R153). -/
def Tensor.scaleAddr (t : Tensor) (c y x : Nat) : Nat :=
  t.base + (t.ch + 31) / 32 * t.plane + (c / 32 * t.h + y) * t.w + x

/-- The bytes of an element, as a range. -/
def Tensor.range (t : Tensor) (c y x : Nat) : Nat × Nat := (t.bitAddr c y x / 8, (elemBits t.fmt + 7) / 8)

/-- The bits of an element. -/
def Tensor.bits (t : Tensor) (m : Lines) (c y x : Nat) : Nat :=
  let a := t.bitAddr c y x
  let v := leNat (Lines.get m (a / 8) ((elemBits t.fmt + 7) / 8))
  v / 2 ^ (a % 8) % 2 ^ elemBits t.fmt

/-- The value of an element, its block's scale applied. -/
def Tensor.val (t : Tensor) (m : Lines) (c y x : Nat) : FVal :=
  let v := elemVal t.fmt (t.bits m c y x)
  if isMx t.fmt then
    match e8m0 (leNat (Lines.get m (t.scaleAddr c y x) 1)), v with
    | some k, .fin s f e => .fin s f (e + k - (if t.fmt = 9 then 6 else 0))
    | some _, v => v
    | none, _ => .nan
  else v

/-- Bytes of a row of `n` elements. -/
def rowLen (fmt n : Nat) : Nat := (n * elemBits fmt + 7) / 8

/-- R153: the pitches of a tensor. -/
def Tensor.pitchOk (t : Tensor) : Bool :=
  if t.layout ≤ 1 then
    t.row % 64 == 0 && decide (rowLen t.fmt (t.w * t.block) ≤ t.row) && t.plane % 64 == 0 && decide (t.h * t.row ≤ t.plane)
  else
    t.row % 4 == 0 && t.plane % 4 == 0 && decide (rowLen t.fmt (if t.layout = 2 then t.w * t.ch else t.w) ≤ t.row) &&
    decide (t.h * t.row ≤ t.plane)

/-- The bytes a tensor spans, its scales with it. -/
def Tensor.extent (t : Tensor) : Nat :=
  let n := if t.layout ≤ 1 then t.blocks * t.plane else if t.layout = 2 then t.h * t.row else t.ch * t.plane
  n + (if isMx t.fmt then (t.ch + 31) / 32 * t.h * t.w else 0)

/-- Two ranges meet. -/
def rangesMeet (a b : Nat × Nat) : Bool := a.2 != 0 && b.2 != 0 && decide (a.1 < b.1 + b.2) && decide (b.1 < a.1 + a.2)

/-! ### Window geometry (R154, R156) -/

/-- One dimension of a window. -/
structure Dim where
  n : Nat
  k : Nat
  s : Nat
  d : Nat
  p0 : Nat
  p1 : Nat
  deriving DecidableEq, Repr

/-- R154: the output size; 0 for an empty one. -/
def Dim.out (w : Dim) : Nat :=
  if w.n = 0 then 0
  else
    let i : Int := (w.n : Int) + w.p0 + w.p1 - w.d * ((w.k : Int) - 1) - 1
    (Int.fdiv i w.s + 1).toNat

/-- The input offset of tap `t` of output `o`. -/
def Dim.off (w : Dim) (o t : Nat) : Int := (o * w.s + t * w.d : Nat) - (w.p0 : Int)

def Dim.inside (w : Dim) (i : Int) : Bool := decide (0 ≤ i) && decide (i < w.n)

/-- R156: an offset folded into the input. -/
def foldOffset (i : Int) (n mode : Nat) : Nat :=
  if 0 ≤ i ∧ i < n then i.toNat
  else if mode = 3 then (if i < 0 then 0 else n - 1)
  else if n = 1 then 0
  else
    let p : Int := 2 * n - 2
    let j := i % p
    (if j < n then j else p - j).toNat

/-- Where a sample comes from: a pixel of the input, or the pad value. -/
inductive Sample where
  | pixel (y x : Nat)
  | pad
  deriving DecidableEq, Repr

/-- A sample of a window, and whether it is at a padding offset. -/
def sampleAt (mode : Nat) (dy dx : Dim) (oy ox ky kx : Nat) : Sample × Bool :=
  let i := dy.off oy ky
  let j := dx.off ox kx
  if dy.inside i && dx.inside j then (.pixel i.toNat j.toNat, false)
  else if mode ≤ 1 then (.pad, true)
  else (.pixel (foldOffset i dy.n mode) (foldOffset j dx.n mode), true)

/-! ### The window-operator descriptor (R161) -/

def wdOp (b : List Byte) : Nat := bytesU b 0 1
def wdFlag (b : List Byte) (i : Nat) : Bool := bitOf (bytesU b 1 1) i
def wdIn (b : List Byte) : Nat := bytesU b 2 1 % 16
def wdW (b : List Byte) : Nat := bytesU b 2 1 / 16
def wdOut (b : List Byte) : Nat := bytesU b 3 1 % 16
def wdPix (b : List Byte) : Nat := bytesU b 3 1 / 16
def wdPad (b : List Byte) : Nat := bitsOf (bytesU b 4 1) 5 4
def wdKh (b : List Byte) : Nat := bytesU b 5 1 % 16
def wdKw (b : List Byte) : Nat := bytesU b 5 1 / 16
def wdCin (b : List Byte) : Nat := bytesU b 16 2
def wdCout (b : List Byte) : Nat := bytesU b 18 2
/-- Channel groups of a convolution. -/
def wdGroups (b : List Byte) : Nat := if wdOp b = 0 then bytesU b 20 2 else 1

/-- The size of the input after pixel conversion. -/
def wdSize (b : List Byte) (h w : Nat) : Nat × Nat := if 8 ≤ wdPix b then (h / 2, w / 2) else (h, w)

def wdDimY (b : List Byte) (h : Nat) : Dim := ⟨h, wdKh b, bytesU b 6 1, bytesU b 8 1, bytesU b 22 2, bytesU b 24 2⟩
def wdDimX (b : List Byte) (w : Nat) : Dim := ⟨w, wdKw b, bytesU b 7 1, bytesU b 9 1, bytesU b 26 2, bytesU b 28 2⟩

def wdInput (b : List Byte) (h w : Nat) : Tensor :=
  ⟨bytesU b 4 1 % 4, wdIn b, bytesU b 32 8, bytesU b 40 4, bytesU b 44 4, wdCin b, h, w⟩
def wdOutput (b : List Byte) (h w : Nat) : Tensor :=
  ⟨bitsOf (bytesU b 4 1) 3 2, wdOut b, bytesU b 48 8, bytesU b 56 4, bytesU b 60 4, wdCout b, h, w⟩

/-- Channels that a pixel format gives (R168). -/
def pixChannels (p cin : Nat) : Nat := if p = 0 then cin else if p < 8 then 3 else 4

/-- R161, R162: reserved bits and ranges. -/
def wdFieldsOk (e : Nat) (b : List Byte) : Bool :=
  let top := if e = 1 then 11 else 15
  let one64 := fun v => decide (1 ≤ v) && decide (v ≤ 64)
  zeroBits b 1 1 7 7 && zeroBits b 4 1 7 6 && decide (1 ≤ wdKh b) && decide (wdKh b ≤ top) && decide (1 ≤ wdKw b) && decide (wdKw b ≤ top) &&
  one64 (bytesU b 6 1) && one64 (bytesU b 7 1) && one64 (bytesU b 8 1) && one64 (bytesU b 9 1) && bytesU b 10 2 == 0 &&
  decide (1 ≤ wdCin b) && decide (wdCin b ≤ 4096) && decide (1 ≤ wdCout b) && decide (wdCout b ≤ 4096) &&
  [22, 24, 26, 28].all (fun o => decide (bytesU b o 2 < 4096)) && zeroBits b 30 1 7 4 && bytesU b 31 1 == 0 &&
  [32, 48, 64, 72, 96].all (fun o => addrOk b o) && bytesU b 92 4 == 0 && zeroBits b 112 8 63 63 && zeroBits b 120 8 63 2 &&
  (if wdOp b = 0 then
      decide (1 ≤ bytesU b 20 2) && decide (bytesU b 20 2 ≤ wdCin b) && wdCin b % bytesU b 20 2 == 0 && wdCout b % bytesU b 20 2 == 0
    else bytesU b 20 2 == 0) &&
  (wdOp b == 3 || (wdPix b == 0 && !wdFlag b 6 && zeroBits b 30 1 3 0)) &&
  ((wdOp b == 1 || wdOp b == 2) || !wdFlag b 2) &&
  (!(wdOp b == 1 || wdOp b == 2) || wdCin b == wdCout b) &&
  (wdOp b != 3 || (decide (wdPix b < 12) && decide (wdCin b ≤ 8) && decide (wdCout b ≤ 256) && pixChannels (wdPix b) (wdCin b) == wdCin b)) &&
  (wdOp b != 4 || (decide (wdCin b ≤ 1024) && decide (wdCout b ≤ 8))) &&
  (!wdFlag b 6 || (wdKh b == 1 && wdKw b == 1 && [6, 7, 8, 9].all (fun o => bytesU b o 1 == 1) && wdCout b == wdCin b))

/-- Formats that an operation takes (R162, R167 to R169): the accumulator's type with them. -/
def wdFormats (b : List Byte) : Option Bool :=
  let fi := wdIn b
  let fo := wdOut b
  if wdOp b = 1 then (if fo = fi ∧ fmtOk fi ∧ fi < 0xC then some (floatFmt fi).isNone else none)
  else if wdOp b = 2 then (if fmtOk fi && decide (fi < 0xC) && fmtOk fo && fo != 0xC then some ((intFmt fi).isSome) else none)
  else if wdOp b = 3 && !([0, 3, 4, 0xA, 0xB].contains fi) then none
  else if wdFlag b 6 then (if fmtOk fo then some false else none)
  else match pairInfo fi (wdW b) with
    | some (_, int) => if fmtOk fo && (fo != 0xC || wdOp b == 4) then some int else none
    | none => none

/-- Layouts that the engine takes (R152, R164, R168). -/
def wdLayoutsOk (e : Nat) (b : List Byte) : Bool :=
  let li := bytesU b 4 1 % 4
  let lo := bitsOf (bytesU b 4 1) 3 2
  (e == 1 || (decide (li ≤ 1) && decide (lo ≤ 1))) && (wdOp b != 4 || decide (li ≤ 1))

/-- R153: microscaled tensors are NHWC32. -/
def wdMxOk (b : List Byte) : Bool :=
  (!isMx (wdIn b) || bytesU b 4 1 % 4 == 1) && (!isMx (wdOut b) || bitsOf (bytesU b 4 1) 3 2 == 1)

/-- The range of the input: a tensor, or the planes of a pixel format. -/
def wdInRange (b : List Byte) (h w : Nat) : Nat × Nat :=
  let row := bytesU b 40 4
  if wdPix b = 0 then ((wdInput b h w).base, (wdInput b h w).extent)
  else if wdPix b ≤ 2 then (bytesU b 32 8, bytesU b 44 4 + (h + 1) / 2 * row)
  else (bytesU b 32 8, h * row)

/-! ### Weights and tables (R162) -/

def wdGroupIn (b : List Byte) : Nat := wdCin b / wdGroups b
/-- The number of a weight element. -/
def weightIndex (b : List Byte) (oc ky kx ic : Nat) : Nat := ((oc * wdKh b + ky) * wdKw b + kx) * wdGroupIn b + ic
def weightCount (b : List Byte) : Nat := wdCout b * wdKh b * wdKw b * wdGroupIn b
def weightBytes (b : List Byte) : Nat :=
  rowLen (wdW b) (weightCount b) + (if isMx (wdW b) then wdCout b * wdKh b * wdKw b * ((wdGroupIn b + 31) / 32) else 0)

/-- The value of a weight, its block's scale applied. -/
def weightVal (b : List Byte) (w : List Byte) (oc ky kx ic : Nat) : FVal :=
  let v := elemVal (wdW b) (elemAt (wdW b) w (weightIndex b oc ky kx ic))
  if isMx (wdW b) then
    let k := rowLen (wdW b) (weightCount b) + ((oc * wdKh b + ky) * wdKw b + kx) * ((wdGroupIn b + 31) / 32) + ic / 32
    match e8m0 (bytesU w k 1), v with
    | some k, .fin s m e => .fin s m (e + k - (if wdW b = 9 then 6 else 0))
    | some _, v => v
    | none, _ => .nan
  else v

/-- The operation reads weights. -/
def wdHasWeights (b : List Byte) : Bool := (wdOp b == 0 || wdOp b == 3 || wdOp b == 4) && !wdFlag b 6
/-- The operation reads the s, b and z tables. -/
def wdHasTables (b : List Byte) : Bool :=
  wdOp b != 1 && !wdFlag b 6 && wdOut b != 0xD && !(wdOp b == 4 && wdOut b == 0xC)
/-- Bytes read at REQ_BASE. -/
def wdTableBytes (b : List Byte) : Nat := (if wdOp b = 3 then 64 else 0) + (if wdHasTables b then 12 * wdCout b else 0)

/-! ### Pixel conversion (R168, R169) -/

/-- The place of a pixel format's sample and its width: colour planes of YUV are 0 Y, 1 U, 2 V; raw samples are 0. -/
def pixRange (b : List Byte) (plane y x : Nat) : Nat × Nat :=
  let base := bytesU b 32 8
  let row := bytesU b 40 4
  let uv := base + bytesU b 44 4
  match wdPix b with
  | 1 => if plane = 0 then (base + y * row + x, 1) else (uv + y / 2 * row + x / 2 * 2 + (plane - 1), 1)
  | 2 => if plane = 0 then (base + y * row + 2 * x, 2) else (uv + y / 2 * row + (x / 2 * 2 + (plane - 1)) * 2, 2)
  | 3 => if plane = 0 then (base + y * row + 2 * x, 1) else (base + y * row + x / 2 * 4 + (if plane = 1 then 1 else 3), 1)
  | p => if p % 4 = 0 then (base + y * row + x, 1) else (base + y * row + 2 * x, 2)

/-- The value of a sample. -/
def pixSample (b : List Byte) (m : Lines) (plane y x : Nat) : Nat :=
  let (a, n) := pixRange b plane y x
  let v := leNat (Lines.get m a n)
  match wdPix b with
  | 2 => v / 64
  | 5 => v % 2 ^ 10
  | 6 => v % 2 ^ 12
  | 9 => v % 2 ^ 10
  | 10 => v % 2 ^ 12
  | _ => v

/-- The quotient of two integers in FP32, rounded once. -/
def ratio (num den : Int) : FVal := fdiv ((Dy.ofInt num).val false) ((Dy.ofInt den).val false)

/-- R169: R, G and B of a YUV sample, by the published coefficients, each computed exactly and rounded once to FP32
(DEDUCED, log 23).  `d` is the depth, `k` the coding. -/
def yuvToRgb (d k y u v ch : Nat) : FVal :=
  let full := k % 2 == 1
  let top : Int := (2 ^ d : Nat) - 1
  let unit : Int := (2 ^ (d - 8) : Nat)
  -- luma and chroma over a common denominator
  let yn : Int := if full then (y : Int) else ((y : Int) - 16 * unit) * top
  let yd : Int := if full then 1 else 219 * unit
  let cn := fun (c : Nat) => if full then (c : Int) - 128 * unit else ((c : Int) - 128 * unit) * top
  let cd : Int := if full then 1 else 224 * unit
  -- Kr and Kb in ten-thousandths
  let kr : Int := if k ≤ 1 then 2990 else 2126
  let kb : Int := if k ≤ 1 then 1140 else 722
  let kg : Int := 10000 - kr - kb
  match ch with
  | 0 => ratio (yn * cd * 10000 + 2 * (10000 - kr) * cn v * yd) (yd * cd * 10000)
  | 2 => ratio (yn * cd * 10000 + 2 * (10000 - kb) * cn u * yd) (yd * cd * 10000)
  | _ => ratio (yn * cd * 10000 * kg - (2 * kb * (10000 - kb) * cn u + 2 * kr * (10000 - kr) * cn v) * yd) (yd * cd * 10000 * kg)

/-- The colour of a raw sample: 0 R, 1 green of a red row, 2 green of a blue row, 3 B. -/
def bayerColour (pattern y x : Nat) : Nat :=
  let (ry, rx) := match pattern with
    | 0 => (0, 0)
    | 1 => (0, 1)
    | 2 => (1, 0)
    | _ => (1, 1)
  let redRow := y % 2 == ry
  let redCol := x % 2 == rx
  if redRow then (if redCol then 0 else 1) else (if redCol then 2 else 3)

/-- The neighbours whose mean fills a colour at a raw sample (R169): offsets; the sample itself where it has it. -/
def demosaicTaps (colour ch : Nat) : List (Int × Int) :=
  let row := [((0 : Int), (-1 : Int)), (0, 1)]
  let col := [((-1 : Int), (0 : Int)), (1, 0)]
  let diag := [((-1 : Int), (-1 : Int)), (-1, 1), (1, -1), (1, 1)]
  match ch, colour with
  | 0, 0 => [(0, 0)]
  | 0, 1 => row
  | 0, 2 => col
  | 0, _ => diag
  | 2, 3 => [(0, 0)]
  | 2, 2 => row
  | 2, 1 => col
  | 2, _ => diag
  | _, 1 => [(0, 0)]
  | _, 2 => [(0, 0)]
  | _, _ => row ++ col

/-- Channel `ch` of a converted pixel. -/
def pixValue (b : List Byte) (m : Lines) (h w ch y x : Nat) : FVal :=
  let p := wdPix b
  if p = 0 then (wdInput b h w).val m ch y x
  else if p ≤ 3 then
    yuvToRgb (if p = 2 then 10 else 8) (bitsOf (bytesU b 30 1) 3 2) (pixSample b m 0 y x) (pixSample b m 1 y x) (pixSample b m 2 y x) ch
  else if p < 8 then
    let taps := demosaicTaps (bayerColour (bytesU b 30 1 % 4) y x) ch
    let vs := taps.map (fun t => pixSample b m 0 (foldOffset ((y : Int) + t.1) h 3) (foldOffset ((x : Int) + t.2) w 3))
    ratio ((vs.foldl (· + ·) 0 : Nat) : Int) taps.length
  else
    let places := [(0, 0), (0, 1), (1, 0), (1, 1)].filter (fun q => bayerColour (bytesU b 30 1 % 4) q.1 q.2 == ch)
    match places with
    | q :: _ => ((Dy.ofInt (pixSample b m 0 (2 * y + q.1) (2 * x + q.2))).val false)
    | [] => .zero

/-- The ranges a converted pixel is read from. -/
def pixRanges (b : List Byte) (h w y x : Nat) : List (Nat × Nat) :=
  let p := wdPix b
  if p = 0 then
    let t := wdInput b h w
    (List.range t.ch).map (fun ch => t.range ch y x) ++
      (if isMx t.fmt then (List.range ((t.ch + 31) / 32)).map (fun k => (t.scaleAddr (32 * k) y x, 1)) else [])
  else if p ≤ 3 then [pixRange b 0 y x, pixRange b 1 y x, pixRange b 2 y x]
  else if p < 8 then
    (List.range 3).flatMap (fun ch => (demosaicTaps (bayerColour (bytesU b 30 1 % 4) y x) ch).map (fun t =>
      pixRange b 0 (foldOffset ((y : Int) + t.1) h 3) (foldOffset ((x : Int) + t.2) w 3)))
  else [(0, 0), (0, 1), (1, 0), (1, 1)].map (fun q => pixRange b 0 (2 * y + q.1) (2 * x + q.2))

/-- R169 steps 3 and 4: a channel value normalised and rounded to IN_FMT. -/
def normalise (b : List Byte) (tab : List Byte) (ch : Nat) (x : FVal) : Conv :=
  let mean := fp32.decode (bytesU tab (4 * ch) 4)
  let inv := fp32.decode (bytesU tab (32 + 4 * ch) 4)
  let neg := match mean with
    | .nan => FVal.nan
    | .inf s => .inf (!s)
    | .fin s m e => .fin (!s) m e
  let v := f32 (fmul (f32 (fadd (f32 x) neg)) inv)
  convElem (wdIn b) .rne false none 0 v

/-! ### Results -/

/-- The pad value in the input format (R156). -/
def padValue (b : List Byte) : FVal :=
  if wdPad b = 0 then .zero
  else
    let f := wdIn b
    let k := bytesU b 80 4
    let v := if (intFmt f).isSome then (Dy.ofInt (sx 32 k)).val false else fp32.decode k
    elemVal f (if f = 9 then (convInt 0 .rne none 0 v).bits else (convElem f .rne false none 0 v).bits)

/-- The channel value of a window's sample, and whether it is at a padding offset. -/
abbrev Sampler := Nat → Nat → Nat → Nat → Nat → FVal

/-- R166: the accumulator of one output: partial sums of a tap over a channel block, merged in order. -/
def convAcc (b : List Byte) (int : Bool) (blk : Nat) (sample : Nat → Nat → Nat → FVal) (w : List Byte) (oc : Nat) : Nat :=
  let g := wdGroupIn b
  let first := oc / (wdCout b / wdGroups b) * g
  let parts := (List.range ((g + blk - 1) / blk)).flatMap (fun k =>
    (List.range (wdKh b)).flatMap (fun ky => (List.range (wdKw b)).map (fun kx => (k, ky, kx))))
  parts.foldl (fun acc p =>
    let chs := (List.range (min blk (g - p.1 * blk))).map (· + p.1 * blk)
    let s := chunkSum (chs.map (fun i => sample (first + i) p.2.1 p.2.2)) (chs.map (fun i => weightVal b w oc p.2.1 p.2.2 i))
    if int then (mergeI acc s).1 else (mergeF acc s).1) 0

/-- The value that is requantised, from an accumulator or a pooled value (R111). -/
def requantT (tabs : List Byte) (off cout oc : Nat) (x : FVal) : FVal :=
  let s := fp32.decode (bytesU tabs (off + 4 * oc) 4)
  let bias := fp32.decode (bytesU tabs (off + 4 * cout + 4 * oc) 4)
  f32 (fadd (fmul (f32 x) s) bias)

/-- R167: the largest value taking part; zero when none does. -/
def poolMax (vs : List FVal) : FVal :=
  match vs with
  | [] => .zero
  | v :: l => l.foldl (fminmax true) v

/-- R167: the exact sum of the values taking part: the accumulator, INT32 or FP32. -/
def poolSum (int : Bool) (vs : List FVal) : Nat :=
  let s := vs.foldl (fun s v => s.addVal v) ({} : ChunkSum)
  if int then (mergeI 0 s).1 else (mergeF 0 s).1

/-- An accumulator's value. -/
def accVal (int : Bool) (a : Nat) : FVal := if int then (Dy.ofInt (sx 32 a)).val false else fp32.decode a

/-- R167: the sum times the reciprocal of the count. -/
def poolAvg (int : Bool) (vs : List FVal) : FVal := f32 (fmul (f32 (accVal int (poolSum int vs))) (ratio 1 vs.length))

/-- What one output pixel comes to: for each channel its value, still to be converted (none where it is zero as it stands,
R167), or its bits as they are. -/
inductive PixelOut where
  | vals (l : List (Option FVal))
  | raw (l : List Nat)
  deriving DecidableEq, Repr

/-- The bits of a pixel's channels in the output format, its scale bytes, and the LFSR after it.  Each block of 32
channels is one conversion of 32 lanes (DEDUCED, log 23). -/
def pixelBits (b tabs : List Byte) (off : Nat) (stoch : Bool) (p : PixelOut) (lfsr : Nat) : List Nat × List Nat × Nat :=
  match p with
  | .raw l => (l, [], lfsr)
  | .vals l =>
    let fo := wdOut b
    let clamp := if wdFlag b 5 then some (sx 32 (bytesU b 84 4), sx 32 (bytesU b 88 4)) else none
    let z := fun oc => if wdHasTables b then sx 32 (bytesU tabs (off + 8 * wdCout b + 4 * oc) 4) else 0
    (List.range ((l.length + 31) / 32)).foldl (fun acc k =>
      let blk := (l.drop (32 * k)).take 32
      let r := lfsrLanes 32 acc.2.2
      let lanes := if stoch then some r.1 else none
      if isMx fo then
        let (cs, sc) := mxConvert fo lanes (blk.map (·.getD .zero))
        (acc.1 ++ cs.map (·.bits), acc.2.1 ++ sc, r.2)
      else
        let cs := (blk.zip (List.range 32)).map (fun q => match q.1 with
          | some v => (convElem fo (laneRnd lanes q.2) (wdFlag b 4) clamp (z (32 * k + q.2)) v).bits
          | none => 0)
        (acc.1 ++ cs, acc.2.1, r.2)) ([], [], lfsr)

/-- The bytes of a part of an output row, from column `x0` on, from the bits of its pixels: each write's address and bytes;
padding channels are zero. -/
def rowWrites (t : Tensor) (y x0 : Nat) (px : List (List Nat × List Nat)) : List (Nat × List Byte) :=
  let elemsOf := fun (f : List Nat → List Nat) => px.flatMap (fun p => f p.1)
  (match t.layout with
   | 2 => [(t.bitAddr 0 y x0 / 8, packElems t.fmt (elemsOf id))]
   | 3 => (List.range t.ch).map (fun c => (t.bitAddr c y x0 / 8, packElems t.fmt (elemsOf (fun l => [l.getD c 0]))))
   | _ => (List.range t.blocks).map (fun k =>
      (t.bitAddr (k * t.block) y x0 / 8, packElems t.fmt (elemsOf (fun l => (List.range t.block).map (fun i => l.getD (k * t.block + i) 0)))))) ++
  (if isMx t.fmt then (List.range ((t.ch + 31) / 32)).map (fun k =>
      (t.scaleAddr (32 * k) y x0, px.map (fun p => BitVec.ofNat 8 (p.2.getD k 0)))) else [])

/-- The writes of a list, in order. -/
def engSaves (g e : Nat) : List (Nat × List Byte) → EngM Unit
  | [] => pure ()
  | (a, b) :: l => do
    engSave g e a b
    engSaves g e l

def engLfsr (g : Nat) : Nat → Reg
  | 0 => DCE_LFSR g
  | _ => NGT_LFSR g

/-- R165: output columns of a segment on the direct engine: its input, overlap columns with it, fits a line buffer. -/
def segCols (b : List Byte) (t : Tensor) : Nat :=
  max 1 ((8192 * 8 / (t.block * elemBits t.fmt) - bytesU b 9 1 * (wdKw b - 1) - 1) / bytesU b 7 1 + 1)

/-- Input offsets of one dimension that an output index looks at: those inside, and those the padding folds to, unless the
padding takes no part (R156, R157). -/
def usedOf (b : List Byte) (d : Dim) (o : Nat) : List Nat :=
  (List.range d.k).foldl (fun acc k =>
    let i := d.off o k
    if d.inside i then nsInsert acc i.toNat
    else if 2 ≤ wdPad b ∧ !wdFlag b 2 then nsInsert acc (foldOffset i d.n (wdPad b)) else acc) []

/-- Those of several output indices. -/
def usedAll (b : List Byte) (d : Dim) (os : List Nat) : List Nat := os.foldl (fun acc o => (usedOf b d o).foldl nsInsert acc) []

/-- What the windows at some output rows and columns are read from (R157). -/
def windowRanges (b : List Byte) (h w : Nat) (dy dx : Dim) (oys oxs : List Nat) : List (Nat × Nat) :=
  (usedAll b dy oys).flatMap (fun y => (usedAll b dx oxs).flatMap (fun x => pixRanges b h w y x))

/-- Rows of the input that no window uses, for each channel block. -/
def rowsSkipped (b : List Byte) (dy : Dim) (blocks : Nat) : Nat := (dy.n - (usedAll b dy (List.range dy.out)).length) * blocks

/-- The checks of a window descriptor that do not need the shape. -/
def wdCheck (e : Nat) (b : List Byte) : EngM Bool := do
  EngM.need (wdFieldsOk e b) efBadField
  EngM.need (wdLayoutsOk e b) efLayout
  EngM.need (wdMxOk b) efBadField
  match wdFormats b with
  | some int => pure int
  | none => EngM.fault efFormatPair

/-- The height and the width of a window's input: the descriptor's, or read where it says so. -/
def wdShape (g e : Nat) (b : List Byte) : EngM (Nat × Nat) := do
  if wdFlag b 1 then
    let s ← engLoad g e (bytesU b 96 8) 8
    pure (bytesU s 0 2, bytesU s 2 2)
  else pure (bytesU b 12 2, bytesU b 14 2)

/-- The shape of a window operator's run: its input as the descriptor names it and cropped, its two dimensions and tensors. -/
structure WindowRun where
  int : Bool
  h0 : Nat
  w0 : Nat
  h : Nat
  w : Nat
  dy : Dim
  dx : Dim
  tin : Tensor
  tout : Tensor
  deriving DecidableEq, Repr

def windowRun (b : List Byte) (int : Bool) (h0 w0 : Nat) : WindowRun :=
  let (h, w) := wdSize b h0 w0
  let dy := wdDimY b h
  let dx := wdDimX b w
  { int := int, h0 := h0, w0 := w0, h := h, w := w, dy := dy, dx := dx, tin := wdInput b h0 w0, tout := wdOutput b dy.out dx.out }

/-- What a window operator has read: its weights, tables and lines. -/
structure WindowIn where
  wts : List Byte
  tabs : List Byte
  m : Lines

/-- R169: a value of the input; every value of NOUGAT_IN is normalised and rounded to IN_FMT. -/
def windowValue (b : List Byte) (r : WindowRun) (i : WindowIn) (ch y x : Nat) : FVal :=
  if wdOp b = 3 then elemVal (wdIn b) (normalise b i.tabs ch (pixValue b i.m r.h0 r.w0 ch y x)).bits else r.tin.val i.m ch y x

/-- What a tap sees, and whether it lies in the padding. -/
def windowTap (b : List Byte) (r : WindowRun) (i : WindowIn) (oy ox ch ky kx : Nat) : FVal × Bool :=
  match sampleAt (wdPad b) r.dy r.dx oy ox ky kx with
  | (.pixel y x, p) => (windowValue b r i ch y x, p)
  | (.pad, p) => (padValue b, p)

def windowTaps (b : List Byte) : List (Nat × Nat) := (List.range (wdKh b)).flatMap (fun ky => (List.range (wdKw b)).map (fun kx => (ky, kx)))

/-- The offset of the requantisation tables. -/
def windowOff (b : List Byte) : Nat := if wdOp b = 3 then 64 else 0

/-- The values of one output position, all channels.  OUT_FMT INT32, and FP32 on NOUGAT_OUT, take the accumulators as they
are (R162): of AVGPOOL the sums (DEDUCED, log 113). -/
def windowPixel (e : Nat) (b : List Byte) (r : WindowRun) (i : WindowIn) (oy ox : Nat) : PixelOut :=
  let requant := fun oc x => some (requantT i.tabs (windowOff b) (wdCout b) oc x)
  if wdOp b = 1 ∨ wdOp b = 2 then
    let window := fun ch => ((windowTaps b).map (fun t => windowTap b r i oy ox ch t.1 t.2)).filterMap (fun v => if wdFlag b 2 && v.2 then none else some v.1)
    let chans := List.range (wdCout b)
    if wdOp b = 1 then PixelOut.vals (chans.map (fun ch => if (window ch).isEmpty then none else some (poolMax (window ch))))
    else if wdHasTables b then PixelOut.vals (chans.map (fun ch => if (window ch).isEmpty then none else requant ch (poolAvg r.int (window ch))))
    else PixelOut.raw (chans.map (fun ch => poolSum r.int (window ch)))
  else if wdFlag b 6 then PixelOut.vals ((List.range (wdCout b)).map (fun ch => some (windowTap b r i oy ox ch 0 0).1))
  else
    let blk := if e = 1 ∧ wdCin b ≤ 8 then wdCin b else r.tin.block
    let acc := (List.range (wdCout b)).map (fun oc => convAcc b r.int blk (fun ch ky kx => (windowTap b r i oy ox ch ky kx).1) i.wts oc)
    if wdHasTables b then PixelOut.vals ((List.range (wdCout b)).map (fun oc => requant oc (accVal r.int (acc.getD oc 0))))
    else PixelOut.raw acc

/-- Samples of the padding that some output positions take. -/
def windowPads (b : List Byte) (r : WindowRun) (oy : Nat) (oxs : List Nat) : Nat :=
  (oxs.flatMap (fun ox => (windowTaps b).filter (fun t => (sampleAt (wdPad b) r.dy r.dx oy ox t.1 t.2).2))).length

/-- Values that the normalisation clamps in the pixels an output row is the first to use (R169). -/
def windowClamps (b : List Byte) (r : WindowRun) (i : WindowIn) (oy : Nat) (oxs : List Nat) : Nat :=
  if wdOp b = 3 then
    let earlier := usedAll b r.dy (List.range oy)
    (((usedOf b r.dy oy).filter (fun y => !earlier.contains y)).flatMap (fun y => (usedAll b r.dx oxs).flatMap (fun x =>
      (List.range (wdCin b)).filter (fun ch => (normalise b i.tabs ch (pixValue b i.m r.h0 r.w0 ch y x)).sat)))).length
  else 0

/-- The output is empty, or the input is one that an operator of the same job left empty. -/
def Chip.windowEmpty (c : Chip) (g e : Nat) (r : WindowRun) : Bool :=
  decide (r.dy.out = 0) || decide (r.dx.out = 0) || c.engines.any (fun p => p.2.job == (c.engine g e).job && p.2.empties.contains r.tin.base)

/-- The weights and the tables that a window operator reads. -/
def windowWts (b : List Byte) : Nat × Nat := (bytesU b 64 8, if wdHasWeights b then weightBytes b else 0)
def windowTabs (b : List Byte) : Nat × Nat := (bytesU b 72 8, wdTableBytes b)

/-- No range that the operator reads meets its output. -/
def windowApart (b : List Byte) (r : WindowRun) : Bool :=
  let o := (r.tout.base, r.tout.extent)
  !rangesMeet o (wdInRange b r.h0 r.w0) && !rangesMeet o (windowWts b) && !rangesMeet o (windowTabs b)

/-- Output columns of a segment: Nougat takes a row whole. -/
def WindowRun.cols (r : WindowRun) (e : Nat) (b : List Byte) : Nat := if e = 0 then segCols b r.tin else r.dx.out

/-- Segments of a row. -/
def WindowRun.segs (r : WindowRun) (e : Nat) (b : List Byte) : Nat := (r.dx.out + r.cols e b - 1) / r.cols e b

/-- Output columns of segment `k`. -/
def WindowRun.segOf (r : WindowRun) (e : Nat) (b : List Byte) (k : Nat) : List Nat :=
  ((List.range (r.cols e b)).map (· + k * r.cols e b)).filter (· < r.dx.out)

/-- What one row segment counts, and the LFSR `s` after it. -/
def Chip.windowCounts (c : Chip) (g e : Nat) (b : List Byte) (s cols pads clamps seg : Nat) : Chip :=
  let c := c.setReg (engLfsr g e) s
  let c := c.engCount g e (if e = 0 then DCE_MACS g else NGT_MACS g) (if wdHasWeights b then cols * wdCout b * wdKh b * wdKw b * wdGroupIn b else 0)
  let c := c.engCount g e (if e = 0 then DCE_PAD_SAMPLES g else NGT_PAD_SAMPLES g) pads
  let c := c.engCount g e (if e = 0 then DCE_SEGMENTS g else NGT_SEGMENTS g) (b2n (seg ≠ 0))
  if e = 1 then c.engCount g e (NGT_SAT g) clamps else c

/-- The bits of a run of output pixels, and the LFSR after them. -/
def windowBits (e : Nat) (b : List Byte) (r : WindowRun) (i : WindowIn) (oy : Nat) : List Nat → Nat → List (List Nat × List Nat) × Nat
  | [], s => ([], s)
  | ox :: l, s =>
    let p := pixelBits b i.tabs (windowOff b) (wdFlag b 3) (windowPixel e b r i oy ox) s
    let q := windowBits e b r i oy l p.2.2
    ((p.1, p.2.1) :: q.1, q.2)

/-- One output row segment: the lines it still lacks are read, and its pixels written (R157, R165, R166). -/
def windowUnit (g e : Nat) (b : List Byte) (r : WindowRun) (wts tabs : List Byte) (m : Lines) (oy seg : Nat) : EngM Lines := do
  let oxs := r.segOf e b seg
  let m ← engLines g e m (linesOf (windowRanges b r.h0 r.w0 r.dy r.dx [oy] oxs))
  let c ← TileM.chip
  let q := windowBits e b r ⟨wts, tabs, m⟩ oy oxs (c.reg (engLfsr g e))
  engSaves g e (rowWrites r.tout oy (seg * r.cols e b) q.1)
  TileM.change (fun c => c.windowCounts g e b q.2 oxs.length (windowPads b r oy oxs) (windowClamps b r ⟨wts, tabs, m⟩ oy oxs) seg)
  pure m

/-- Row segments one after another, `k` of them from output row `oy` of segment `seg` on; the restart point goes with them
(R173).  A segment begins with its line buffers empty. -/
def windowUnits (g e : Nat) (b : List Byte) (r : WindowRun) (wts tabs : List Byte) : Nat → Lines → Nat → Nat → EngM Unit
  | 0, _, _, _ => pure ()
  | k + 1, m, oy, seg => do
    let m ← windowUnit g e b r wts tabs m oy seg
    let last := oy + 1 = r.dy.out
    let oy' := if last then 0 else oy + 1
    let seg' := if last then seg + 1 else seg
    TileM.change (fun c => c.updEngine g e (fun x => { x with row := oy', seg := seg' }))
    windowUnits g e b r wts tabs k (if last then [] else m) oy' seg'

/-- The shape of a window operator that has started, as it was judged then. -/
def startedRun (b : List Byte) (x : Engine) : WindowRun := windowRun b ((wdFormats b).getD false) x.shape.1 x.shape.2

/-- A window operator starts: its checks, and its shape judged; true where it is empty (R155). -/
def windowOp (g e : Nat) (b : List Byte) : EngM Bool := do
  let int ← wdCheck e b
  let s ← wdShape g e b
  let r := windowRun b int s.1 s.2
  TileM.change (fun c => c.updEngine g e (fun x => { x with shape := s }))
  let c ← TileM.chip
  if c.windowEmpty g e r then pure true
  else
    EngM.need ((wdPix b != 0 || r.tin.pitchOk) && r.tout.pitchOk) efBadField
    EngM.need (windowApart b r) efBadField
    pure false

/-- `k` row segments of a window operator from its restart point on: weights, tables and lines are read, results written. -/
def windowGo (g e : Nat) (b : List Byte) (k : Nat) : EngM Unit := do
  let c ← TileM.chip
  let x := c.engine g e
  let wts ← engLoad g e (windowWts b).1 (windowWts b).2
  let tabs ← engLoad g e (windowTabs b).1 (windowTabs b).2
  windowUnits g e b (startedRun b x) wts tabs k [] x.row x.seg

/-! ### Crop-and-resize (R170 to R172) -/

def crFieldsOk (b : List Byte) : Bool :=
  let one64 := fun v => decide (1 ≤ v) && decide (v ≤ 64)
  zeroBits b 1 1 7 5 && zeroBits b 2 1 7 4 && zeroBits b 3 1 7 2 && decide (1 ≤ bytesU b 4 2) && decide (bytesU b 4 2 ≤ 4096) &&
  decide (1 ≤ bytesU b 6 2) && decide (1 ≤ bytesU b 8 2) && one64 (bytesU b 10 1) && one64 (bytesU b 11 1) &&
  decide (bytesU b 12 4 < 2 ^ 13) && (bitOf (bytesU b 1 1) 2 || decide (bytesU b 12 4 ≤ 4096)) && [16, 32, 40, 64].all (fun o => addrOk b o) && bytesU b 48 4 % 64 == 0 &&
  zeroBits b 80 8 63 63 && zeroIn b 88 128

def crImage (b : List Byte) : Tensor :=
  ⟨bytesU b 3 1 % 4, bytesU b 2 1 % 16, bytesU b 16 8, bytesU b 24 4, bytesU b 28 4, bytesU b 4 2, bytesU b 6 2, bytesU b 8 2⟩
def crOutput (b : List Byte) (box : Nat) : Tensor :=
  ⟨bytesU b 3 1 % 4, bytesU b 2 1 % 16, bytesU b 40 8 + box * bytesU b 48 4, bytesU b 52 4, bytesU b 56 4, bytesU b 4 2, bytesU b 10 1, bytesU b 11 1⟩

def fneg : FVal → FVal
  | .nan => .nan
  | .inf s => .inf (!s)
  | .fin s m e => .fin (!s) m e
def fsub (a b : FVal) : FVal := f32 (fadd a (fneg b))
def fnat (n : Nat) : FVal := (Dy.ofInt n).val false
/-- a < b, false with a NaN. -/
def flt (a b : FVal) : Bool :=
  match a, b with
  | .nan, _ => false
  | _, .nan => false
  | .inf s, .inf s' => s && !s'
  | .inf s, _ => s
  | _, .inf s => !s
  | x, y => Dy.lt x.dy y.dy

/-- R172 steps 1 and 2: the place that sample `i` of `k` looks at, between two coordinates of an axis of `n`. -/
def crPlace (norm : Bool) (n k : Nat) (lo hi : FVal) (i : Nat) : FVal :=
  let scale := fun v => if norm then f32 (fmul v (fnat (n - 1))) else v
  let a := scale lo
  let z := scale hi
  if k = 1 then f32 (fmul (f32 (fadd a z)) (.fin false 1 (-1)))
  else
    let step := fdiv (fsub z a) (fnat (k - 1))
    f32 (fadd a (f32 (fmul (fnat i) step)))

/-- R172 step 3: a place outside the axis. -/
def crOutside (n : Nat) (v : FVal) : Bool := v.isNan || flt v .zero || flt (fnat (n - 1)) v

/-- R172 step 4: one axis' two samples and the fraction between them. -/
def crAxis (n : Nat) (v : FVal) : Nat × Nat × FVal :=
  let i := (ffloor v).toNat
  (i, min (i + 1) (n - 1), fsub v (fnat i))

/-- The interpolation between two values. -/
def flerp (a b f : FVal) : FVal := f32 (fadd a (f32 (fmul (fsub b a) f)))

/-- The four coordinates of a box. -/
def boxCoord (l : List Byte) (box i : Nat) : FVal := fp32.decode (bytesU l (16 * box + 4 * i) 4)

/-- Ranges of the image that a box's samples read. -/
def boxRanges (b l : List Byte) (box : Nat) : List (Nat × Nat) :=
  let t := crImage b
  let norm := bitOf (bytesU b 1 1) 1
  (List.range (bytesU b 10 1)).flatMap (fun i => (List.range (bytesU b 11 1)).flatMap (fun j =>
    let y := crPlace norm t.h (bytesU b 10 1) (boxCoord l box 0) (boxCoord l box 2) i
    let x := crPlace norm t.w (bytesU b 11 1) (boxCoord l box 1) (boxCoord l box 3) j
    if crOutside t.h y || crOutside t.w x then []
    else
      let (y0, ya, _) := crAxis t.h y
      let (x0, xa, _) := crAxis t.w x
      (List.range t.ch).flatMap (fun c => [t.range c y0 x0, t.range c y0 xa, t.range c ya x0, t.range c ya xa])))

/-- One output sample of a box, all channels: the bits, and whether it lies outside. -/
def boxSample (b l : List Byte) (m : Lines) (box i j : Nat) : List Nat × Bool :=
  let t := crImage b
  let norm := bitOf (bytesU b 1 1) 1
  let y := crPlace norm t.h (bytesU b 10 1) (boxCoord l box 0) (boxCoord l box 2) i
  let x := crPlace norm t.w (bytesU b 11 1) (boxCoord l box 1) (boxCoord l box 3) j
  let conv := fun v => (convElem t.fmt .rne false none 0 v).bits
  if (List.range 4).any (fun k => (boxCoord l box k).isNan) || crOutside t.h y || crOutside t.w x then
    (List.replicate t.ch (conv (fp32.decode (bytesU b 60 4))), true)
  else
    let (y0, ya, fy) := crAxis t.h y
    let (x0, xa, fx) := crAxis t.w x
    ((List.range t.ch).map (fun c =>
      let top := flerp (f32 (t.val m c y0 x0)) (f32 (t.val m c y0 xa)) fx
      let bot := flerp (f32 (t.val m c ya x0)) (f32 (t.val m c ya xa)) fx
      conv (flerp top bot fy)), false)

/-- Boxes one after another, `k` of them from box `box` on (R170 to R173). -/
def cropBoxes (g : Nat) (b l : List Byte) : Nat → Nat → EngM Unit
  | 0, _ => pure ()
  | k + 1, box => do
    let nan := (List.range 4).any (fun i => (boxCoord l box i).isNan)
    let m ← engLines g 2 [] (linesOf (if nan then [] else boxRanges b l box))
    let t := crOutput b box
    let px := fun i => (List.range t.w).map (fun j => boxSample b l m box i j)
    engSaves g 2 ((List.range t.h).flatMap (fun i => rowWrites t i 0 ((px i).map (fun p => (p.1, [])))))
    TileM.change (fun c =>
      let c := c.engCount g 2 (GRP_CRU_OUTSIDE g) ((List.range t.h).flatMap (fun i => (px i).filter (·.2))).length
      let c := c.engCount g 2 (GRP_CRU_NAN g) (b2n nan)
      (c.engCount g 2 (GRP_CRU_BOXES g) 1).updEngine g 2 (fun x => { x with row := box + 1 }))
    cropBoxes g b l k (box + 1)

/-- The box count of a descriptor, its own or read where it says so (R171). -/
def crCount (g : Nat) (b : List Byte) : EngM Nat := do
  if bitOf (bytesU b 1 1) 2 then
    let s ← engLoad g 2 (bytesU b 64 8) 4
    pure (leNat s)
  else pure (bytesU b 12 4)

/-- The checks of a crop-and-resize descriptor that do not need the count. -/
def crCheck (b : List Byte) : EngM Unit := do
  EngM.need (crFieldsOk b) efBadField
  EngM.need ((crImage b).layout != 3) efLayout
  EngM.need ([0, 1, 3, 4, 0xA, 0xB, 0xC].contains (crImage b).fmt) efFormatPair

/-- CROP_RESIZE starts: its count and its ranges judged; true where its output is empty (R155). -/
def cropOp (g : Nat) (b : List Byte) : EngM Bool := do
  crCheck b
  let t := crImage b
  let n0 ← crCount g b
  let n := min n0 4096
  TileM.change (fun c => c.updEngine g 2 (fun x => { x with shape := (n, n0) }))
  let c ← TileM.chip
  if n = 0 ∨ c.engines.any (fun p => p.2.job == (c.engine g 2).job && p.2.empties.contains t.base) then pure true
  else
    EngM.need (t.pitchOk && (crOutput b 0).pitchOk) efBadField
    let outs := (bytesU b 40 8, (n - 1) * bytesU b 48 4 + (crOutput b 0).extent)
    EngM.need (!rangesMeet outs (t.base, t.extent) && !rangesMeet outs (bytesU b 32 8, 16 * n)) efBadField
    pure false

/-- `k` boxes of a descriptor from its restart point on. -/
def cropGo (g : Nat) (b : List Byte) (k : Nat) : EngM Unit := do
  let c ← TileM.chip
  let l ← engLoad g 2 (bytesU b 32 8) (16 * (c.engine g 2).shape.1)
  cropBoxes g b l k (c.engine g 2).row

/-! ### Lists (R160, R163) -/

/-- The wait and signal of a descriptor: enables, objects, threshold, value added. -/
structure EngSync where
  waitEn : Bool
  signalEn : Bool
  waitObj : Nat
  signalObj : Nat
  add : Nat
  threshold : Nat
  deriving DecidableEq, Repr

def engSync (e : Nat) (b : List Byte) : EngSync :=
  if e = 2 then ⟨bitOf (bytesU b 1 1) 3, bitOf (bytesU b 1 1) 4, bytesU b 72 2, bytesU b 74 2, bytesU b 76 4, bytesU b 80 8⟩
  else ⟨bitOf (bytesU b 120 8) 0, bitOf (bytesU b 120 8) 1, bytesU b 104 2, bytesU b 106 2, bytesU b 108 4, bytesU b 112 8⟩

/-- R187: the relocations of kind 1 applied to a descriptor's bytes. -/
def relocate (relocs : List (Nat × Nat)) (ofs : Nat) (b : List Byte) : List Byte :=
  relocs.foldl (fun b r =>
    if ofs ≤ r.1 ∧ r.1 + 6 ≤ ofs + b.length then putAt b (r.1 - ofs) (leBytes 6 ((bytesU b (r.1 - ofs) 6 + r.2) % 2 ^ 48)) else b) b

/-- The current descriptor, read from the model image. -/
def engDescriptor (g e : Nat) : EngM (List Byte) := fun c =>
  let x := c.engine g e
  match AMap.get? c.models x.model with
  | none => (.error efListRange, c)
  | some m =>
    let ofs := x.list + 128 * x.desc
    if (m.image + x.list) % 128 ≠ 0 ∨ m.imageBytes < ofs + 128 then (.error efListRange, c)
    else match c.imageRead m (groupMaster g) x.slice ofs 128 x.cls with
      | (.ok, b, c) => (.ok (relocate x.relocs ofs b), c)
      | (.denied, _, c) => (.error efAccess, c)
      | (.uncorrectable, _, c) => (.error efUncorrectable, c)

/-- The operations an engine runs. -/
def engineRuns (e op : Nat) : Bool :=
  match e with
  | 0 => decide (op ≤ 2)
  | 1 => op == 3 || op == 4
  | _ => op == 5

/-- R163: what the descriptor's wait lets it do: start, wait, or fault. -/
def engWait (g e : Nat) (y : EngSync) : EngM Bool := do
  let c ← TileM.chip
  let ok := fun o => match c.slice? (c.engine g e).slice with
    | some sl => sl.hasSync o
    | none => false
  EngM.need ((!y.waitEn || ok y.waitObj) && (!y.signalEn || ok y.signalObj)) efSyncRange
  if !y.waitEn then pure true
  else
    match c.unitWaits.find? (fun w => w.who == Waiter.engine e g) with
    | some w =>
      if !w.met then pure false
      else
        TileM.change (fun c => { c with unitWaits := c.unitWaits.filter (fun w => w.who != Waiter.engine e g) })
        EngM.need (!w.err) efDependency
        pure true
    | none =>
      if syncErr (c.sync y.waitObj) then EngM.fault efDependency
      else if y.threshold ≤ syncCount (c.sync y.waitObj) then pure true
      else
        TileM.change (fun c => ({ c with unitWaits := c.unitWaits ++ [{ who := .engine e g, obj := y.waitObj, threshold := y.threshold }] } : Chip).setEngState g e esWaiting)
        pure false

/-- An engine stands RUNNING. -/
def Chip.engRunning (c : Chip) (g e : Nat) : Chip := c.setEngState g e esRunning

/-- DESC shows the engine's current descriptor (R176). -/
def Chip.showDesc (c : Chip) (g e : Nat) : Chip := c.setFld (engStatus g e) DCE_STATUS.DESC (c.engine g e).desc

/-- Where a descriptor's output lies. -/
def outBase (e : Nat) (b : List Byte) : Nat := if e = 2 then bytesU b 40 8 else bytesU b 48 8

/-- Its output is no longer one that an operator of the job left empty. -/
def Chip.refill (c : Chip) (g e a : Nat) : Chip :=
  { c with engines := c.engines.map (fun p => if p.2.job = (c.engine g e).job then (p.1, { p.2 with empties := p.2.empties.filter (· != a) }) else p) }

/-- An engine is busy with its descriptor; an empty result is remembered, until the tensor is written again (R155). -/
def Chip.engBusy (c : Chip) (g e : Nat) (b : List Byte) (empty : Bool) : Chip :=
  (c.refill g e (outBase e b)).updEngine g e (fun x => { x with
    busy := true
    bytes := b
    void := empty
    firstEmpty := if empty ∧ x.firstEmpty = none then some x.desc else x.firstEmpty
    empties := if empty then outBase e b :: x.empties else x.empties })

/-- The operation of a descriptor starts: true where its output is empty. -/
def engOp (g e : Nat) (b : List Byte) : EngM Bool := if e = 2 then cropOp g b else windowOp g e b

/-- The checks of a descriptor that need nothing but its bytes. -/
def engCheck (e : Nat) (b : List Byte) : EngM Unit := do
  EngM.need (engineRuns e (wdOp b)) efBadOp
  if e = 2 then crCheck b
  else
    let _ ← wdCheck e b
    pure ()

/-- The current descriptor of an engine, when its OP is the row's. -/
def engStart (g e op : Nat) : EngM Unit := do
  let b ← engDescriptor g e
  engCheck e b
  if wdOp b ≠ op then pure ()
  else if ← engWait g e (engSync e b) then
    TileM.change (fun c => c.engRunning g e)
    let empty ← engOp g e b
    TileM.change (fun c => c.engBusy g e b empty)

/-- R160, R163: an engine starts its current descriptor. -/
def engineRow (g e op : Nat) (c : Chip) : Chip :=
  let x := c.engine g e
  if 12 ≤ g ∨ !x.active ∨ x.busy ∨ c.engState g e = esStopped then c
  else match (engStart g e op).run c with
    | (.ok _, c) => c
    | (.error cause, c) => c.engineFault g e cause

/-- Row segments, or boxes, that a started descriptor has left to do (R165, R173). -/
def Engine.left (x : Engine) (e : Nat) : Nat :=
  if x.void then 0
  else if e = 2 then x.shape.1 - x.row
  else (startedRun x.bytes x).segs e x.bytes * (startedRun x.bytes x).dy.out - (x.seg * (startedRun x.bytes x).dy.out + x.row)

/-- An engine carries out `k` row segments or boxes of its descriptor. -/
def engGo (g e k : Nat) : EngM Unit := do
  let c ← TileM.chip
  if k = 0 then pure ()
  else if e = 2 then cropGo g (c.engine g 2).bytes k
  else windowGo g e (c.engine g e).bytes k

/-- What a descriptor counts once, at its end: itself, and the rows it never read, or the boxes it dropped. -/
def Chip.engDone (c : Chip) (g e : Nat) (x : Engine) : Chip :=
  let r := startedRun x.bytes x
  if e = 2 then c.engCount g e (GRP_CRU_TRUNC g) (x.shape.2 - 4096)
  else
    let c := c.engCount g e (if e = 0 then DCE_DESC_DONE g else NGT_DESC_DONE g) 1
    if x.void then c
    else c.engCount g e (if e = 0 then DCE_ROWS_SKIPPED g else NGT_ROWS_SKIPPED g) (rowsSkipped x.bytes r.dy (if wdPix x.bytes = 0 then r.tin.blocks else 1))

/-- An engine goes on to the next descriptor of its list, or the list ends (R160). -/
def Chip.engNext (c : Chip) (g e : Nat) : Chip :=
  let x := c.engine g e
  let last := bitOf (bytesU x.bytes 1 1) 0
  let c := c.setEngine g e { x with busy := false, bytes := [], void := false, row := 0, seg := 0, desc := x.desc + 1, active := !last }
  if last then c.setEngState g e esIdle else c.showDesc g e

/-- R160, R163: what is left of the descriptor is carried out, every output write is visible: the signal is added, and the
list goes on or ends. -/
def engineDescriptorDone (g e : Nat) (c : Chip) : Chip :=
  let x := c.engine g e
  if !x.busy || c.engState g e == esStopped then c
  else match (engGo g e (x.left e)).run c with
    | (.error cause, c) => c.engineFault g e cause
    | (.ok _, c) =>
      let y := engSync e x.bytes
      let c := (c.engDone g e x).engNext g e
      if y.signalEn then c.unitSignal y.signalObj (.add y.add) true else c

/-- R173: an engine stops and records its restart point: of the row segments or boxes that were left, as many as had been
done by then are done, and one that is in progress is discarded (how many: a free value, log 25). -/
def Chip.stopEngine (c : Chip) (e : Nat × Nat × Nat) : Chip :=
  let c := { c with unitWaits := c.unitWaits.filter (fun w => w.who != Waiter.engine e.2.1 e.1) }
  let x := c.engine e.1 e.2.1
  let d := c.draw
  let c := if x.busy ∧ c.engState e.1 e.2.1 ≠ esStopped then
      match (engGo e.1 e.2.1 (d.1.toNat % max 1 (x.left e.2.1))).run d.2 with
      | (.ok _, c) => c
      | (.error cause, c) => c.engineFault e.1 e.2.1 cause
    else c
  let x := c.engine e.1 e.2.1
  let c := c.setReg (engCursor e.1 e.2.1) (x.desc % 2 ^ 16 + (if e.2.1 = 2 then 0 else x.seg % 2 ^ 16 * 2 ^ 16) + x.row % 2 ^ 32 * 2 ^ 32)
  if c.engState e.1 e.2.1 = esFaulted then c else c.setEngState e.1 e.2.1 esStopped

/-- R176: a write of DCE_LFSR or NGT_LFSR; 0 loads 1. -/
def dceLfsrWrite (master tag g e v : Nat) (c : Chip) : Chip :=
  if tag = 0 ∨ (List.range 16).any (fun i => c.tileSlice (16 * g + i) == some tag) then
    c.setReg (engLfsr g e) (if v % 2 ^ 32 = 0 then 1 else v % 2 ^ 32)
  else c.denied { master := master, tag := tag, addr := (engLfsr g e).addr, len := 4, write := true } .sliceTag (if e = 0 then 31 else 30)

/-! ### Rows -/

def execConvDesc (group : Nat) (s : State) : Host.Outcome State Fault Refusal := s.on (engineRow group 0 0)
def execMaxpool (group : Nat) (s : State) : Host.Outcome State Fault Refusal := s.on (engineRow group 0 1)
def execAvgpool (group : Nat) (s : State) : Host.Outcome State Fault Refusal := s.on (engineRow group 0 2)
def execNougatIn (group : Nat) (s : State) : Host.Outcome State Fault Refusal := s.on (engineRow group 1 3)
def execNougatOut (group : Nat) (s : State) : Host.Outcome State Fault Refusal := s.on (engineRow group 1 4)
def execCropResize (group : Nat) (s : State) : Host.Outcome State Fault Refusal := s.on (engineRow group 2 5)
def execEngineDescriptorDone (group engine : Nat) (s : State) : Host.Outcome State Fault Refusal :=
  s.on (engineDescriptorDone group engine)
end Sys2Proof.Machine
end

