-- ==== Sys2Proof/Machine/Sluice.lean ====
section
/-!
DEFINITION. Sluice: what it keeps, what it admits, and how requests wait, are granted and are returned
(15 R400 to R403).
-/

namespace Sys2Proof.Machine

/-- The units of the standing grants. -/
def Budget.standingUnits (b : Budget) : Nat := sumOf (b.standing.map (·.1))

/-- T: BASE, every standing grant and every held grant (R401). -/
def Chip.total (c : Chip) : Nat :=
  c.budget.base + (if c.sluice.standing then c.budget.standingUnits else 0) + sumOf (c.sluice.grants.map (·.units))

/-- The part of class 0 grants drawn from RESERVE (R401). -/
def Chip.resUsed (c : Chip) : Nat := sumOf (c.sluice.grants.map (·.reserve))

/-- The units a slice holds (R401). -/
def Chip.held (c : Chip) (s : Nat) : Nat :=
  sumOf ((c.sluice.grants.filter (fun g => g.slice == some s)).map (·.units))

/-- The admission rule of R402, word for word, with `t` the total to judge against. -/
def Chip.admits (c : Chip) (t u k : Nat) (s : Option Nat) : Bool :=
  if t + u > c.budget.peak then false
  else if k = 0 then true
  else if c.flag PWR_THERM_STATUS PWR_THERM_STATUS.EMERGENCY then false
  else if t + u > c.budget.peak - (c.budget.reserve - c.resUsed) then false
  else
    let overPeak := match s with
      | some s => match c.slice? s with
        | some sl => decide (c.held s + u > sl.peak)
        | none => false
      | none => false
    let overSust := match s with
      | some s => match c.slice? s with
        | some sl => decide (c.held s + u > sl.sust)
        | none => false
      | none => false
    if overPeak then false
    else if t + u > c.fld PWR_EFF PWR_EFF.SUST_EFF && (decide (c.sluice.bucket ≥ c.budget.eMax * 1000) || overSust) then false
    else true

/-- Every part of a request is admitted, each with the others counted in T as though granted (R400). -/
def Chip.admitAll (c : Chip) (parts : List Units) : Bool :=
  parts.all (fun p => c.admits (c.total + (sumOf (parts.map (·.units)) - p.units)) p.units p.cls p.slice)

/-- The registers that show what Sluice keeps (R424). -/
def Chip.sluiceRegs (c : Chip) : Chip :=
  let c := c.setFld PWR_TOTAL PWR_TOTAL.TOTAL c.total
  let c := c.setFld PWR_TOTAL PWR_TOTAL.RES_USED c.resUsed
  let c := c.setReg PWR_BUCKET (c.sluice.bucket / 1000)
  let n := fun k => min 255 (c.sluice.waiting.filter (fun q => q.cls == k)).length
  let c := c.setReg PWR_QUEUE (n 3 * 2 ^ 24 + n 2 * 2 ^ 16 + n 1 * 2 ^ 8 + n 0)
  (List.range 64).foldl (fun c s => c.setFld (PWR_SLICE s) PWR_SLICE.HELD (c.held s)) c

/-- A grant: a class 0 grant takes what it can from the reserve (R402). -/
def Chip.grantPart (c : Chip) (p : Units) : Chip :=
  let r := if p.cls = 0 then min p.units (c.budget.reserve - c.resUsed) else 0
  { c with sluice := { c.sluice with grants := c.sluice.grants ++ [{ p with reserve := r }] } }

/-- The parts of a request granted, and the wait counted. -/
def Chip.grantReq (c : Chip) (q : SluiceReq) : Chip :=
  let c := (q.parts.map (fun p => { p with req := q.id })).foldl Chip.grantPart c
  let c := c.count PWR_GRANTS PWR_GRANTS.COUNT 1
  c.setReg PWR_WAIT_MAX (max (c.reg PWR_WAIT_MAX) ((c.now - q.since) / 1000))

/-- R403: a request is taken only when no request of its own class, or of a lower class value, waits ahead of it;
class 0 never waits behind another. -/
def Chip.blockedBy (ahead : List SluiceReq) (q : SluiceReq) : Bool :=
  q.cls != 0 && ahead.any (fun a => a.cls ≤ q.cls)

/-- The waiting requests in order of class, then arrival. -/
def classOrder (l : List SluiceReq) : List SluiceReq :=
  (List.range 4).flatMap (fun k => l.filter (fun q => q.cls == k))

/-- One pass over the waiting requests in their order: each that can be admitted, and that none waits ahead of, is
granted. -/
def Chip.takeWaiting : List SluiceReq → List SluiceReq → Chip → List SluiceReq × Chip
  | [], ahead, c => (ahead, c)
  | q :: l, ahead, c =>
    if !Chip.blockedBy ahead q && c.admitAll q.parts then Chip.takeWaiting l ahead (c.grantReq q)
    else Chip.takeWaiting l (ahead ++ [q]) c

/-- What room there is goes to the requests that wait (R403). -/
def Chip.sluiceServe (c : Chip) : Chip :=
  let (w, c) := Chip.takeWaiting (classOrder c.sluice.waiting) [] c
  ({ c with sluice := { c.sluice with waiting := w } }).sluiceRegs

/-- A request arrives: granted at once, or waiting until its timeout (R403). -/
def Chip.ask (c : Chip) (cls : Nat) (parts : List Units) (timeoutUs : Nat) : Chip :=
  let us := if timeoutUs = 0 then c.budget.defaultTimeoutUs else timeoutUs
  let q : SluiceReq := { id := c.sluice.nextId, cls := cls, parts := parts, since := c.now, deadline := c.now + us * 1000 }
  ({ c with sluice := { c.sluice with nextId := c.sluice.nextId + 1, waiting := c.sluice.waiting ++ [q] } }).sluiceServe

/-- The requester holds a grant. -/
def Chip.granted (c : Chip) (w : Asker) : Bool := c.sluice.grants.any (fun g => g.who == w)

/-- The requester waits. -/
def Chip.asking (c : Chip) (w : Asker) : Bool := c.sluice.waiting.any (fun q => q.parts.any (fun p => p.who == w))

/-- A group's wake: with the other groups of its request it is one grant (R400, R402). -/
def Units.isWake (g : Units) : Bool := match g.who with
  | .wake _ => true
  | _ => false

/-- The parts of one multi-group wake give up `n` units of their reserve part, the first of them first. -/
def reserveBack (req : Nat) : Nat → List Units → List Units
  | _, [] => []
  | n, g :: l =>
    if g.isWake && g.req == req then { g with reserve := g.reserve - n } :: reserveBack req (n - g.reserve) l
    else g :: reserveBack req n l

/-- R402: what is left of the grants when one returns: the units of a wake come back first from the reserve part of its whole
grant. -/
def grantsLeft (w : Asker) (l : List Units) : List Units :=
  let rest := l.filter (fun g => g.who != w)
  match l.find? (fun g => g.who == w && g.isWake) with
  | some g => reserveBack g.req (g.units - g.reserve) rest
  | none => rest

/-- A requester's grants return to Sluice, and what waits is looked at again (R402, R403). -/
def Chip.giveBack (c : Chip) (w : Asker) : Chip :=
  if c.granted w then ({ c with sluice := { c.sluice with grants := grantsLeft w c.sluice.grants } }).sluiceServe
  else c

/-- A requester withdraws what it asked for. -/
def Chip.withdraw (c : Chip) (w : Asker) : Chip :=
  if c.asking w then
    ({ c with sluice := { c.sluice with waiting := c.sluice.waiting.filter (fun q => !q.parts.any (fun p => p.who == w)) } }).sluiceServe
  else c

end Sys2Proof.Machine
end

