-- ==== Sys2Proof/Machine/Rings.lean ====
section
/-!
DEFINITION. The doorbell pages and command rings: enabling, tails, fetching, starting and completing packets, the
event ring's head, and the generic packets NOP, FENCE, SYNC_SIGNAL, SYNC_WAIT, MEM_COPY and MEM_FILL (03 R57 to R85).
-/

namespace Sys2Proof.Machine

/-! ### Doorbell pages -/

/-- R59: a write of the lower half of a 64-bit register is held and changes nothing. -/
def holdLowerHalf (slice off : Nat) (v : W32) (c : Chip) : Chip :=
  { c with staged := AMap.set c.staged (dbPage slice + off) v }

def execDoorbellLowerHalfWrite (slice off : Nat) (v : W32) (s : State) : Host.Outcome State Fault Refusal :=
  s.on (holdLowerHalf slice off v)

/-- R59, R85: an access of a bad size or alignment changes nothing; a write of that kind is recorded. -/
def doorbellMisuse (cause master slice off : Nat) (write : Bool) (c : Chip) : Chip :=
  if write then
    c.error { severity := 0, cause := cause, source := 15, master := master, slice := slice, target := 50, addr := dbPage slice + off }
  else c

def execDoorbellBadAccess (master slice off : Nat) (write : Bool) (s : State) : Host.Outcome State Fault Refusal :=
  s.on (doorbellMisuse 2 master slice off write)

def execSyncWindowBadAccess (master slice off : Nat) (write : Bool) (s : State) : Host.Outcome State Fault Refusal :=
  s.on (doorbellMisuse 1 master slice off write)

/-- R85: a write of the sync window performs SET_MAX with bits 62:0; offsets past SYNC_COUNT ignore it. -/
def syncWindowWrite (slice i : Nat) (v : W64) (c : Chip) : Chip :=
  match c.slice? slice with
  | none => c
  | some sl => if i < 4096 ∧ i < sl.syncCount ∧ sl.retired = false then (c.signal (sl.syncBase + i) (.setMax (v.toNat % 2 ^ 63))).stampReady else c

def execSyncWindowWrite (slice i : Nat) (v : W64) (s : State) : Host.Outcome State Fault Refusal :=
  s.on (syncWindowWrite slice i v)

/-- R202: the pending release of a packet that fails, is discarded or completes is withdrawn; a grant held for it
returns. -/
def Chip.dropPending (c : Chip) (id : Nat) : Chip :=
  let c := { c with pendingRels := c.pendingRels.filter (fun r => r.packet != id) }
  (c.withdraw (.job id)).giveBack (.job id)

/-! ### Enabling and disabling (R63) -/

/-- A ring of 2^log2 entries of the given size lies in the slice's pages (R58). -/
def Chip.ringPlaced (c : Chip) (s base log2 entry : Nat) : Bool := c.ownsPages s (base * 4096) (2 ^ log2 * entry)

/-- Both sizes of a ring and its completion ring lie in 4 to 16, and both rings in the slice's pages; else the cause and
DATA1 of the error: for BASE_NOT_OWNED the base, for BAD_SIZE_CONFIG, of which R69 names neither index nor address, the
bad LOG2_SLOTS (DESIGN CHOICE, log 101). -/
def Chip.ringConfig (c : Chip) (s r : Nat) : Option (Nat × Nat) :=
  let sq := c.fld (SQ_CTRL s r) SQ_CTRL.LOG2_SLOTS
  let cq := c.fld (CQ_CTRL s r) CQ_CTRL.LOG2_SLOTS
  let sb := c.fld (SQ_BASE s r) SQ_BASE.BASE
  let cb := c.fld (CQ_BASE s r) CQ_BASE.BASE
  if sq < 4 ∨ 16 < sq then some (0x08, sq)
  else if cq < 4 ∨ 16 < cq then some (0x08, cq)
  else if !c.ringPlaced s sb sq 64 then some (0x03, sb * 4096)
  else if !c.ringPlaced s cb cq 32 then some (0x03, cb * 4096)
  else none

/-- R63: the indices of a ring at 0, its tail at 0, and the ring IDLE. -/
def Chip.startRing (c : Chip) (s r : Nat) : Chip :=
  let c := (((c.setReg (SQ_HEAD s r) 0).setReg (CQ_TAIL s r) 0).setReg (CQ_HEAD s r) 0).setReg (RING_STATUS s r) rsIdle
  { c with rings := AMap.set c.rings (ringKey s r) { tail := 0 } }

/-- R63: ENABLE set on a DISABLED ring: the checks, then the indices at 0 and the ring IDLE. -/
def ringEnable (s r log2 : Nat) (c : Chip) : Chip :=
  if !c.hasRing s r || c.ringKept s r ≠ rsDisabled then c
  else
    let c := c.setReg (SQ_CTRL s r) (log2 % 32 + 2 ^ 31)
    match c.ringConfig s r with
    | some (cause, d) => c.stopRing s r cause d
    | none => c.startRing s r

def execRingEnable (slice ring log2 : Nat) (s : State) : Host.Outcome State Fault Refusal :=
  s.on (ringEnable slice ring log2)

/-- A packet that clearing ENABLE discards: fetched and not started, or a SYNC_WAIT that still waits (R63, R79). -/
def discarded (s r : Nat) (p : Packet) : Bool :=
  p.slice == s && p.ring == r && (p.phase == .fetched || (p.op == 0x013 && (p.phase == .started || p.phase == .running)))

/-- R63, R79: the packets of a ring that have not started leave it, with their pending releases. -/
def Chip.discardUnstarted (c : Chip) (s r : Nat) : Chip :=
  let gone := (c.packets.filter (discarded s r)).map (·.id)
  gone.foldl Chip.dropPending { c with packets := (c.packets.filter (fun p => !gone.contains p.id)).map (fun p => { p with waitsFor := p.waitsFor.filter (fun i => !gone.contains i) }) }

/-- R63: ENABLE cleared: fetching stops, packets not started are discarded, and the ring drains. -/
def ringDisable (s r : Nat) (c : Chip) : Chip :=
  if !c.hasRing s r || c.ringKept s r = rsDisabled then c
  else ((c.setFld (SQ_CTRL s r) SQ_CTRL.ENABLE 0).setFld (RING_STATUS s r) RING_STATUS.STATE rsDraining).discardUnstarted s r

def execRingDisable (slice ring : Nat) (s : State) : Host.Outcome State Fault Refusal :=
  s.on (ringDisable slice ring)

/-- R63: with every started packet complete, a DRAINING ring enters DISABLED. -/
def ringDrained (s r : Nat) (c : Chip) : Chip :=
  if c.ringKept s r = rsDraining ∧ (c.ringPackets s r).isEmpty then
    c.setFld (RING_STATUS s r) RING_STATUS.STATE rsDisabled
  else c

def execRingDrained (slice ring : Nat) (s : State) : Host.Outcome State Fault Refusal :=
  s.on (ringDrained slice ring)

/-- R63, R86: the event ring enabled; its first record is the overflow record of what was lost.  A failed check
leaves ENABLE clear and writes a record with source 15 and cause 3. -/
def eventRingEnable (s log2 : Nat) (c : Chip) : Chip :=
  if !c.hasEvents s || c.flag (EQ_CTRL s) EQ_CTRL.ENABLE then c
  else
    let c := c.setReg (EQ_CTRL s) (log2 % 32)
    let base := c.fld (EQ_BASE s) EQ_BASE.BASE
    if log2 % 32 < 4 ∨ 16 < log2 % 32 ∨ !c.ringPlaced s base (log2 % 32) 32 then
      c.error { severity := 0, cause := 3, source := 15, slice := s, target := 50, addr := base * 4096 }
    else
      let c := ((c.setFld (EQ_CTRL s) EQ_CTRL.ENABLE 1).setReg (EQ_TAIL s) 0).setReg (EQ_HEAD s) 0
      c.eventFlush s

def execEventRingEnable (slice log2 : Nat) (s : State) : Host.Outcome State Fault Refusal :=
  s.on (eventRingEnable slice log2)

/-! ### Tails and heads (R61, R64, R65, R69) -/

/-- R65: a write of SQ_TAIL is ignored, stops the ring, or is taken. -/
def sqTailWrite (s r v : Nat) (c : Chip) : Chip :=
  let v := v % 2 ^ 32
  if !c.hasRing s r || !c.ringLive s r then c
  else
    let d := idxSub v (c.ringTail s r)
    if d = 0 then c
    else if d ≥ 2 ^ 31 then c.stopRing s r 0x01 v
    else if idxSub v (c.reg (SQ_HEAD s r)) > 2 ^ c.fld (SQ_CTRL s r) SQ_CTRL.LOG2_SLOTS then c.stopRing s r 0x02 v
    else { c with rings := AMap.upd c.rings (ringKey s r) {} (fun g => { g with tail := v }) }

def execSqTailWrite (slice ring : Nat) (tail : W32) (s : State) : Host.Outcome State Fault Refusal :=
  s.on (sqTailWrite slice ring tail.toNat)

/-- A head index moved to `v` would pass the tail or go backwards. -/
def headBad (head tail v : Nat) : Bool := decide (idxSub v head > idxSub tail head)

/-- R69: a write of CQ_HEAD past CQ_TAIL or backwards is a ring error; a valid one frees entries. -/
def cqHeadWrite (s r v : Nat) (c : Chip) : Chip :=
  let v := v % 2 ^ 32
  if !c.hasRing s r then c
  else if headBad (c.reg (CQ_HEAD s r)) (c.reg (CQ_TAIL s r)) v then c.ringError s r 0x06 v
  else (c.setReg (CQ_HEAD s r) v).stampReady

def execCqHeadWrite (slice ring : Nat) (head : W32) (s : State) : Host.Outcome State Fault Refusal :=
  s.on (cqHeadWrite slice ring head.toNat)

/-- R61, R87: a write of EQ_HEAD backwards or past EQ_TAIL is ignored; a valid one frees entries, and what was lost
is reported. -/
def eqHeadWrite (s v : Nat) (c : Chip) : Chip :=
  let v := v % 2 ^ 32
  if !c.hasEvents s || headBad (c.reg (EQ_HEAD s)) (c.reg (EQ_TAIL s)) v then c
  else (c.setReg (EQ_HEAD s) v).eventFlush s

def execEqHeadWrite (slice : Nat) (head : W32) (s : State) : Host.Outcome State Fault Refusal :=
  s.on (eqHeadWrite slice head.toNat)

/-! ### Fetch (R64, R72) -/

/-- The bytes of `n` slots from free-running index `i`, slot by slot, wrapping over the ring's end; or the address
of the first slot read that failed. -/
def Chip.readSlots (c : Chip) (s r : Nat) : Nat → Nat → Served × List Byte × Nat × Chip
  | 0, _ => (.ok, [], 0, c)
  | n + 1, i =>
    let a := c.fld (SQ_BASE s r) SQ_BASE.BASE * 4096 + 64 * (i % 2 ^ c.fld (SQ_CTRL s r) SQ_CTRL.LOG2_SLOTS)
    match c.load { master := cpMaster, tag := s, addr := a, len := 64, write := false } with
    | (.ok, b, c) =>
      let (o, b', a', c) := Chip.readSlots c s r n (i + 1)
      (o, b ++ b', a', c)
    | (o, _, c) => (o, [], a, c)

/-- A slot read that failed stops the ring (R69). -/
def Chip.fetchFailed (c : Chip) (s r a : Nat) (o : Served) : Chip :=
  if o = .denied then c.ringError s r 0x04 a else c.ringError s r 0x05 a

/-- A fetched packet takes its place at its ring's head, its header checked and its wait judged once (R72, R84). -/
def Chip.holdPacket (c : Chip) (sl : Slice) (s r : Nat) (b : List Byte) : Chip :=
  let g := AMap.getD c.rings (ringKey s r) {}
  let p : Packet := { id := c.nextPacket, slice := s, ring := r, bytes := b, nth := g.fetched }
  let p := { p with verdict := headerCheck sl p }
  let c := { c with rings := AMap.set c.rings (ringKey s r) { g with fetched := g.fetched + 1 } }
  let c := { c with nextPacket := c.nextPacket + 1, packets := c.packets ++ [if p.waitEn then c.wakePacket p.waitObj p else p] }
  c.stampReady

/-- R64: the part fetches the packet at the ring's head when the tail covers all its slots. -/
def packetFetch (s r : Nat) (c : Chip) : Chip :=
  match c.slice? s with
  | none => c
  | some sl =>
    let head := c.reg (SQ_HEAD s r)
    let fill := idxSub (c.ringTail s r) head
    if !c.hasRing s r || !c.ringLive s r || (c.headOf s r).isSome || (c.headHeld s r).isSome || fill = 0 then c
    else
      match c.readSlots s r 1 head with
      | (.ok, b, _, c) =>
        let n := bitsOf (bytesU b 0 2) 13 12 + 1
        if fill < n then c
        else
          match c.readSlots s r (n - 1) (head + 1) with
          | (.ok, b', _, c) => (c.setReg (SQ_HEAD s r) (idxAdd head n)).holdPacket sl s r (b ++ b')
          | (o, _, a, c) => c.fetchFailed s r a o
      | (o, _, a, c) => c.fetchFailed s r a o

def execPacketFetch (slice ring : Nat) (s : State) : Host.Outcome State Fault Refusal :=
  s.on (packetFetch slice ring)

/-! ### Start (R67) -/

/-- The head that has waited longest since it became ready. -/
def longestReady : List Packet → Option Packet
  | [] => none
  | p :: l =>
    match longestReady l with
    | none => some p
    | some q => if q.readySince.getD 0 < p.readySince.getD 0 then some q else some p

/-- The distance of a ring behind the last ring started in its class, for round-robin. -/
def Chip.turn (c : Chip) (p : Packet) : Nat :=
  (ringKey p.slice p.ring + 1024 - (AMap.getD c.lastRing p.cls 1023 + 1)) % 1024

/-- The lowest class value first, and round-robin within a class. -/
def Chip.bestReady (c : Chip) : List Packet → Option Packet
  | [] => none
  | p :: l =>
    match Chip.bestReady c l with
    | none => some p
    | some q => if q.cls < p.cls || (q.cls == p.cls && c.turn q < c.turn p) then some q else some p

/-- The packets a FENCE covers, of those that have started (R77). -/
def Chip.fenceSet (c : Chip) (p : Packet) : List Nat :=
  ((c.packets.filter (fun q => q.id != p.id && q.phase != .fetched && q.slice == p.slice &&
    (bitOf (p.u 32 1) 0 || q.ring == p.ring))).map (·.id))

/-- A head starts: its completion entry is reserved, and it goes to its engine or the firmware queue. -/
def Chip.startPacket (c : Chip) (p : Packet) : Chip :=
  let p' := { p with reserved := true, readySince := none, phase := .started, waitsFor := if p.op = 0x011 then c.fenceSet p else [] }
  { c with packets := c.packets.map (fun q => if q.id = p.id then p' else q), lastRing := AMap.set c.lastRing p.cls (ringKey p.slice p.ring), starts := c.starts + 1 }

/-- R67: the command processor starts one ready head: by class and round-robin, every 16th the longest waiting. -/
def packetStart (c : Chip) : Chip :=
  let c := c.stampReady
  let heads := c.packets.filter c.ready
  match if c.starts % 16 = 15 then longestReady heads else c.bestReady heads with
  | none => c
  | some p => (c.startPacket p).stampReady

def execPacketStart (s : State) : Host.Outcome State Fault Refusal := s.on packetStart

/-- R68: a packet whose outcome stands completes. -/
def packetComplete (id : Nat) (c : Chip) : Chip :=
  match c.packet? id with
  | none => c
  | some p =>
    match p.phase with
    | .done st res det => ((c.complete p st res det).giveBack (.copy id)).dropPending id
    | _ => c

def execPacketComplete (id : Nat) (s : State) : Host.Outcome State Fault Refusal := s.on (packetComplete id)

/-! ### Generic packets (R76 to R81) -/

/-- R76: NOP does nothing beyond its header wait and signal. -/
def nopPacket (id : Nat) (c : Chip) : Chip := c.onPacket id 0x010 (fun p c => c.finish p.id stDone)

def execNopPacket (id : Nat) (s : State) : Host.Outcome State Fault Refusal := s.on (nopPacket id)

/-- R77: a FENCE completes at once when nothing of its set is in flight, else it holds its ring. -/
def fencePacket (id : Nat) (c : Chip) : Chip :=
  c.onPacket id 0x011 (fun p c =>
    if bitsOf (p.u 32 1) 7 1 ≠ 0 ∨ !zeroIn p.bytes 33 64 then c.finish p.id stBadParam
    else if p.waitsFor.isEmpty then c.finish p.id stDone
    else c.keepRunning p.id)

def execFencePacket (id : Nat) (s : State) : Host.Outcome State Fault Refusal := s.on (fencePacket id)

/-- R77: every packet of the fence's set has completed. -/
def fenceRelease (id : Nat) (c : Chip) : Chip :=
  match c.packet? id with
  | none => c
  | some p => if p.op = 0x011 ∧ p.phase = .running ∧ p.waitsFor = [] then (c.finish id stDone).stampReady else c

def execFenceRelease (id : Nat) (s : State) : Host.Outcome State Fault Refusal := s.on (fenceRelease id)

/-- The used entries of a SYNC_SIGNAL: object, mode, value, and the bytes that must be zero. -/
def signalEntries (p : Packet) : List (Nat × Nat × Nat × Nat) :=
  (List.range (if p.slots = 1 then 2 else 6)).filterMap (fun i =>
    let o := 32 + 16 * i
    if p.u (o + 2) 1 = 0 then none else some (p.u o 2, p.u (o + 2) 1, p.u (o + 8) 8, p.u (o + 3) 5))

/-- R78, R79: what fails an entry: an object outside the range, a reserved mode, a reserved byte, bit 63.  Of several
faults the first entry's counts, and in an entry the object comes first: the spec gives no order (DESIGN CHOICE, log 102). -/
def entryFault (sl : Slice) (top : Nat) (e : Nat × Nat × Nat × Nat) : Option Nat :=
  if !sl.hasSync e.1 then some stAccessDenied
  else if e.2.1 > top ∨ e.2.2.2 ≠ 0 ∨ bitOf e.2.2.1 63 then some stBadParam
  else none

/-- The signal of an entry (Table — Signal modes). -/
def entrySignal (e : Nat × Nat × Nat × Nat) : Signal :=
  match e.2.1 with
  | 1 => .setMax e.2.2.1
  | 2 => .add e.2.2.1
  | 3 => .reset e.2.2.1
  | _ => .setError

/-- R78: the entries in index order, each atomically; nothing is applied when one is bad. -/
def syncSignal (id : Nat) (c : Chip) : Chip :=
  c.onPacket id 0x012 (fun p c =>
    match c.slice? p.slice with
    | none => c.finish p.id stAccessDenied
    | some sl =>
      match (signalEntries p).findSome? (entryFault sl 4) with
      | some st => c.finish p.id st
      | none =>
        let c := (signalEntries p).foldl (fun c e => c.signal e.1 (entrySignal e)) c
        (c.finish p.id stDone).stampReady)

def execSyncSignal (id : Nat) (s : State) : Host.Outcome State Fault Refusal := s.on (syncSignal id)

/-- R79: the checks, the failed dependency, the wait already met, or the wait. -/
def syncWait (id : Nat) (c : Chip) : Chip :=
  c.onPacket id 0x013 (fun p c =>
    match c.slice? p.slice with
    | none => c.finish p.id stAccessDenied
    | some sl =>
      match (signalEntries p).findSome? (entryFault sl 2) with
      | some st => (c.finish p.id st).stampReady
      | none =>
        if p.waitTerms.any (fun e => syncErr (c.sync e.2.1)) then (c.finish p.id stDependencyFailed).stampReady
        else if c.waitHolds p then (c.finish p.id stDone (c.waitMask p)).stampReady
        else c.keepRunning p.id)

def execSyncWait (id : Nat) (s : State) : Host.Outcome State Fault Refusal := s.on (syncWait id)

/-- R79, R84: an update has released the wait, or set the error bit of an object it names. -/
def syncWaitRelease (id : Nat) (c : Chip) : Chip :=
  match c.packet? id with
  | none => c
  | some p =>
    if p.op = 0x013 ∧ p.phase = .running then
      if p.dependency then (c.finish id stDependencyFailed).stampReady
      else match p.released with
        | some m => (c.finish id stDone m.toNat).stampReady
        | none => c
    else c

def execSyncWaitRelease (id : Nat) (s : State) : Host.Outcome State Fault Refusal := s.on (syncWaitRelease id)

/-- The status of a copy or fill that ended at a failed access (R80). -/
def servedStatus : Served → Nat
  | .ok => stDone
  | .denied => stAccessDenied
  | .uncorrectable => stUncorrectable

/-- After a failed access, each later piece of a write may or may not have been written: a free value says which
(R80, R81; log 84). -/
def Chip.loosePieces (c : Chip) (tag : Nat) : List (Nat × Nat) → List Byte → Chip
  | [], _ => c
  | (a, n) :: l, b =>
    let (v, c) := c.draw
    let q : Req := { master := cpMaster, tag := tag, addr := a, len := n, write := true }
    let c := if v.toNat % 2 = 1 ∧ (c.check q).isNone then (c.saveServed q (b.take n)).2 else c
    Chip.loosePieces c tag l (b.drop n)

/-- After a failed access, each later piece of a copy may or may not have been copied: a free value says which, of those
whose accesses pass (R80; log 84). -/
def Chip.looseCopy (c : Chip) (tag dst : Nat) : List (Nat × Nat) → Chip
  | [] => c
  | (a, n) :: l =>
    let (v, c) := c.draw
    let r : Req := { master := cpMaster, tag := tag, addr := a, len := n, write := false }
    let w : Req := { master := cpMaster, tag := tag, addr := dst, len := n, write := true }
    let c := if v.toNat % 2 = 1 ∧ inMemory a = true ∧ (c.check r).isNone ∧ (c.check w).isNone then (c.saveServed w (c.readBack a n)).2 else c
    Chip.looseCopy c tag (dst + n) l

/-- R80: the copy engines move a range piece by piece; the count of leading bytes written. -/
def Chip.copyPieces (c : Chip) (tag : Nat) (dst : Nat) : List (Nat × Nat) → Served × Nat × Chip
  | [] => (.ok, 0, c)
  | (a, n) :: l =>
    match c.load { master := cpMaster, tag := tag, addr := a, len := n, write := false } with
    | (.ok, b, c) =>
      match c.saveRange cpMaster tag dst b with
      | (.ok, _, c) =>
        let (o, k, c) := Chip.copyPieces c tag (dst + n) l
        (o, n + k, c)
      | (o, k, c) => (o, k, (c.loosePieces tag (pieces (dst + k) (n - k)) (b.drop k)).looseCopy tag (dst + n) l)
    | (o, _, c) => (o, 0, c.looseCopy tag (dst + n) l)

/-- R400: a copy or fill of 1 MiB or more waits for COPY_UNITS, held until its packet completes. -/
def Chip.withCopyUnits (c : Chip) (p : Packet) (n : Nat) (f : Chip → Chip) : Chip :=
  if n < 2 ^ 20 then f c
  else
    let c := if c.granted (.copy p.id) || c.asking (.copy p.id) then c
      else c.ask p.cls [{ who := .copy p.id, units := c.budget.copyUnits, slice := some p.slice, cls := p.cls }] 0
    if c.granted (.copy p.id) then f c else c

/-- Two ranges of the same length overlap. -/
def overlap (a b n : Nat) : Bool := decide (a < b + n) && decide (b < a + n)

/-- R80: MEM_COPY. -/
def memCopy (id : Nat) (c : Chip) : Chip :=
  c.onPacket id 0x100 (fun p c =>
    let src := p.u 32 8
    let dst := p.u 40 8
    let n := p.u 48 8
    if src ≥ 2 ^ 48 ∨ dst ≥ 2 ^ 48 ∨ n ≥ 2 ^ 40 ∨ !zeroIn p.bytes 56 64 ∨ n = 0 ∨ overlap src dst n then c.finish p.id stBadParam
    else c.withCopyUnits p n (fun c =>
      let (o, k, c) := c.copyPieces p.slice dst (pieces src n)
      c.finish p.id (servedStatus o) k))

/-- R81: the byte at address a takes byte (a mod 8) of PATTERN. -/
def fillBytes (pattern a n : Nat) : List Byte :=
  (List.range n).map (fun i => BitVec.ofNat 8 (pattern / 256 ^ ((a + i) % 8)))

/-- R81: MEM_FILL. -/
def memFill (id : Nat) (c : Chip) : Chip :=
  c.onPacket id 0x101 (fun p c =>
    let dst := p.u 32 8
    let n := p.u 40 8
    if dst ≥ 2 ^ 48 ∨ n ≥ 2 ^ 48 ∨ n = 0 ∨ !zeroIn p.bytes 56 64 then c.finish p.id stBadParam
    else c.withCopyUnits p n (fun c =>
      let b := fillBytes (p.u 48 8) dst n
      let (o, k, c) := c.saveRange cpMaster p.slice dst b
      let c := if o = .ok then c else c.loosePieces p.slice (pieces (dst + k) (n - k)) (b.drop k)
      c.finish p.id (servedStatus o) k))

end Sys2Proof.Machine
end

