-- ==== Sys2Proof/Machine/Slices.lean ====
section
/-!
DEFINITION. Slices: creation, the tag and access registers, page owners, clearing memory and the dirty-page log
(02 R28 to R51).
-/

namespace Sys2Proof.Machine

/-! ### CSRs of the cores (R35, R347, R349) -/

/-- Privilege modes of a hart. -/
inductive Mode where
  | m
  | hs
  | vs
  | u
  | vu
  deriving DecidableEq, Repr

/-- A hart takes an exception: 1 illegal instruction, 2 virtual instruction. -/
def Chip.trap (c : Chip) (hart kind : Nat) : Chip := { c with hartTraps := AMap.set c.hartTraps hart kind }

/-- R35: who may touch the SLICETAG CSR, and the exception of a mode that may not.  Harts 16 to 19 are the control
cores, where every mode but M is refused with an illegal-instruction exception (DEDUCED, log 9). -/
def csrTrap (hart : Nat) (mode : Mode) : Option Nat :=
  match mode with
  | .m => none
  | .hs => if hart < 16 then none else some 1
  | .vs => if hart < 16 then some 2 else some 1
  | .u => some 1
  | .vu => some 1

/-- The slice tag a hart's requests carry. -/
def Chip.hartTag (c : Chip) (hart : Nat) : Nat := (AMap.getD c.sliceTags hart 0).toNat % 64

/-- R35, R347: a write of SLICETAG; a change of tag clears the hart's return-address stack. -/
def slicetagWrite (hart : Nat) (mode : Mode) (v : W64) (c : Chip) : Chip :=
  match csrTrap hart mode with
  | some k => c.trap hart k
  | none =>
    let t := v.toNat % 64
    let c := if t = c.hartTag hart then c else { c with returnStacks := c.returnStacks.filter (· != hart) }
    { c with sliceTags := if t = 0 then AMap.del c.sliceTags hart else AMap.set c.sliceTags hart (BitVec.ofNat 64 t) }

def execSlicetagWrite (hart : Nat) (mode : Nat) (value : W64) (s : State) : Host.Outcome State Fault Refusal :=
  s.on (slicetagWrite hart (match mode with | 0 => .m | 1 => .hs | 2 => .vs | 3 => .u | _ => .vu) value)

/-- R349: a write of PREDCLR clears the core's entries of that tag and its return-address stack.  Only application
cores have the register. -/
def predclrWrite (hart : Nat) (mode : Mode) (v : W64) (c : Chip) : Chip :=
  if 16 ≤ hart then c.trap hart 1
  else match csrTrap hart mode with
    | some k => c.trap hart k
    | none =>
      { c with predictors := c.predictors.filter (fun p => !(p.1 == hart && p.2 == v.toNat % 256)), returnStacks := c.returnStacks.filter (· != hart) }

def execPredclrWrite (hart : Nat) (mode : Nat) (value : W64) (s : State) : Host.Outcome State Fault Refusal :=
  s.on (predclrWrite hart (match mode with | 0 => .m | 1 => .hs | 2 => .vs | 3 => .u | _ => .vu) value)

/-- R348: every entry of slice `s` is cleared, in every core and sequencer, with both HOST values. -/
def Chip.clearPredictors (c : Chip) (s : Nat) : Chip :=
  { c with predictors := c.predictors.filter (fun p => p.2 % 64 != s) }

/-! ### Access registers (R36, R39) -/

/-- R36: ACC_PASID_MAP accepts writes of control cores with slice tag 0, and no PASID twice. -/
def pasidMapWrite (master tag s : Nat) (v : W32) (c : Chip) : Chip :=
  let valid := bitOf v.toNat 31
  let pasid := bitsOf v.toNat 19 0
  let held := (List.range 64).any (fun i => i != s && c.flag (ACC_PASID_MAP i) ACC_PASID_MAP.VALID &&
    c.fld (ACC_PASID_MAP i) ACC_PASID_MAP.PASID == pasid)
  if master < 0x50 ∨ 0x53 < master ∨ tag ≠ 0 ∨ 64 ≤ s then c
  else if valid && held then c
  else c.setReg (ACC_PASID_MAP s) (b2n valid * 2 ^ 31 + pasid)

/-- R39: a write of a target's table, at an offset within it, is ignored from a master that may not make it; from one
that may, the windows and entries take it. -/
def accTableWrite (master tag target off : Nat) (v : W64) (c : Chip) : Chip :=
  let locked := target = 38 ∨ target = 45
  if 64 ≤ target then c
  else if master = 0x4C ∨ (tag = 0 ∧ ¬ locked) then
    if off < 0x80 then
      let w := off / 0x10
      if off % 0x10 = 0 then
        c.setReg (ACC_WIN_BASE target w) (bitsOf v.toNat 47 12 * 4096 + v.toNat % 2)
      else if off % 0x10 = 8 then c.setReg (ACC_WIN_LIMIT target w) (bitsOf v.toNat 47 12 * 4096)
      else c
    else if 0x200 ≤ off ∧ off < 0x400 ∧ off % 4 = 0 then c.setReg (ACC_ENTRY target ((off - 0x200) / 4)) (v.toNat % 2 ^ 32)
    else c
  else c

/-! ### Page owners (R42 to R46) -/

/-- A request of a Rill that has been issued touches a range. -/
def Chip.rillBusy (c : Chip) (lo hi : Nat) : Bool :=
  c.tiles.any (fun t => t.2.rills.any (fun x =>
    x.2.reqs.any (fun q => q.place == .issued && decide (q.line * 64 < hi) && decide (lo < q.line * 64 + 64)) ||
    x.2.writes.any (fun w => w.place == .issued && decide (w.addr < hi) && decide (lo < w.addr + w.data.length))))

/-- A DRAM request that passed its lookup touches one of the pages (R43, R46). -/
def Chip.dramBusy (c : Chip) (first count : Nat) : Bool :=
  let touches := fun (q : DramReq) => (pagesOf q.addr q.len).any (fun p => first ≤ p && p < first + count)
  c.dramQueue.any touches || c.linkQ.any (fun l => l.2.any touches) ||
  c.fills.any (fun f => first ≤ f.block && f.block < first + count) || c.rillBusy (first * pageSize) ((first + count) * pageSize)

/-- One page given to an owner. -/
def Chip.setOwner (c : Chip) (v page : Nat) : Chip :=
  { c with owners := if v = 0xFF then AMap.del c.owners page else AMap.set c.owners page v }

/-- The valid bits of blocks cleared: they read zero from then on (R48, R371). -/
def Chip.clearBlocks (c : Chip) (first count : Nat) : Chip :=
  { c with
    mem := memClear c.mem (first * pageSize) ((first + count) * pageSize)
    validBlocks := c.validBlocks.filter (fun b => b < first || first + count ≤ b)
    badWords := c.badWords.filter (fun p => p.1 < first * pageSize || (first + count) * pageSize ≤ p.1)
    rawBlocks := c.rawBlocks.filter (fun p => p.1 < first || first + count ≤ p.1) }

/-- The pages of a range given to an owner, their valid bits cleared first where asked (R46). -/
def Chip.giveOwners (c : Chip) (first count v : Nat) (invalidate : Bool) : Chip :=
  let c := if invalidate then c.clearBlocks first count else c
  (List.range count).foldl (fun c i => c.setOwner v (first + i)) c

/-- R45: the status of PAGE_OWNER_SET before anything waits or changes. -/
def Chip.ownerSetStatus (c : Chip) (first count expect new : Nat) : Nat :=
  let legal := fun v => (1 ≤ v && v ≤ 0x40) || v == 0xFE || v == 0xFF
  if !legal new || !legal expect || count = 0 || count > 65536 || (first + count) * pageSize > c.capacity then stBadParam
  else if (List.range count).all (fun i => c.owner (first + i) == expect) then stDone
  else stNotOwner

/-! ### Creation (R30 to R32) -/

/-- The fields of a SLICE_CREATE payload; `b` begins at payload offset 32. -/
structure CreateArgs where
  number : Nat
  ceiling : Nat
  pasid : Nat
  tiles : List Nat
  segs : List Nat
  syncBase : Nat
  syncCount : Nat
  rings : Nat
  bw : Nat
  sust : Nat
  peak : Nat
  extents : List (Nat × Nat)
  reservedOk : Bool
  deriving DecidableEq, Repr

/-- Table — SLICE_CREATE payload. -/
def parseCreate (b : List Byte) : CreateArgs :=
  let u := fun off k => bytesU b (off - 32) k
  { number := u 32 1
    ceiling := u 33 1
    pasid := u 36 4
    tiles := (List.range 192).filter (fun n => bitOf (u (40 + n / 64 * 8) 8) (n % 64))
    segs := (List.range 12).map (fun n => u (64 + 2 * n) 2)
    syncBase := u 88 2
    syncCount := u 90 2
    rings := u 92 1
    bw := u 93 1
    sust := u 96 2
    peak := u 98 2
    extents := ((List.range 4).map (fun e => (u (104 + 8 * e) 4, u (108 + 8 * e) 4))).filter (fun p => p.2 != 0)
    reservedOk := u 34 2 == 0 && u 94 2 == 0 && u 100 4 == 0 && zeroIn b (136 - 32) (192 - 32) }

/-- Two extents overlap. -/
def extentsOverlap : List (Nat × Nat) → Bool
  | [] => false
  | (b, n) :: l => l.any (fun q => decide (b < q.1 + q.2) && decide (q.1 < b + n)) || extentsOverlap l

/-- A PASID is bound: to a slice, or by a valid entry of ACC_PASID_MAP (R32, R36). -/
def Chip.pasidBound (c : Chip) (pasid : Nat) : Bool :=
  c.slices.any (fun p => p.2.pasid == pasid) ||
    (List.range 64).any (fun i => c.flag (ACC_PASID_MAP i) ACC_PASID_MAP.VALID && c.fld (ACC_PASID_MAP i) ACC_PASID_MAP.PASID == pasid)

/-- R32: the causes of BAD_PARAM; a template may name slice 0 (R30). -/
def Chip.createBad (c : Chip) (template : Bool) (a : CreateArgs) : Bool :=
  !a.reservedOk || (a.number == 0 && !template) || (64 ≤ a.number && a.number != 0xFF) || (c.slice? a.number).isSome ||
  a.ceiling > 3 || a.pasid == 0 || a.pasid ≥ 2 ^ 20 || c.pasidBound a.pasid ||
  a.tiles.isEmpty || a.segs.any (fun n => n > 256) || a.syncCount == 0 || a.syncBase + a.syncCount > 65536 ||
  a.rings == 0 || a.rings > 16 || a.bw > 80 || a.peak < a.sust ||
  a.extents.any (fun e => (e.1 + e.2) * pageSize > c.capacity) || extentsOverlap a.extents

/-- The free segments of model-cache slice `n`. -/
def Chip.freeSegs (c : Chip) (n : Nat) : List Nat :=
  ((List.range 256).map (· + n * 256)).filter (fun g => (c.segSlice g).isNone)

/-- R413: what Sluice has for the slices. -/
def Budget.forSlices (b : Budget) (top : Nat) : Nat := top - b.base - b.standingUnits - b.reserve

/-- R32: the causes of NO_RESOURCE; a slice that comes back holds its pages and segments still (R416). -/
def Chip.createShort (c : Chip) (back : Bool) (a : CreateArgs) : Bool :=
  a.tiles.any (fun t => (c.tileSlice t).isSome) ||
  (!back && (List.range 12).any (fun n => a.segs.getD n 0 > (c.freeSegs n).length)) ||
  c.slices.any (fun p => decide (a.syncBase < p.2.syncBase + p.2.syncCount) && decide (p.2.syncBase < a.syncBase + a.syncCount)) ||
  (!back && a.extents.any (fun e => !(List.range e.2).all (fun i => c.owner (e.1 + i) == 0xFF))) ||
  (a.number == 0xFF && (((List.range 64).filter (fun s => s != 0 && (c.slice? s).isNone)).isEmpty)) ||
  decide (sumOf (c.slices.map (·.2.sust)) + a.sust > c.budget.forSlices c.budget.sust) ||
  decide (a.peak > c.budget.forSlices c.budget.peak) ||
  decide (sumOf (c.slices.map (·.2.bwShare)) + a.bw + c.fld MRC_RESERVE MRC_RESERVE.SAFETY > 100)

/-- The registers of a doorbell page and the rest of a slice's own registers at reset. -/
def Chip.resetPage (c : Chip) (s : Nat) : Chip :=
  { c with regs := c.regs.filter (fun p => p.1 < dbPage s || dbPage (s + 1) ≤ p.1), staged := c.staged.filter (fun p => p.1 < dbPage s || dbPage (s + 1) ≤ p.1) }

/-- GRP_TILE_SLICE and TILE_STATUS show who holds each tile (R94, R96). -/
def Chip.showTiles (c : Chip) (tiles : List Nat) : Chip :=
  tiles.foldl (fun c n =>
    let own := c.tileSlice n
    let b := match own with | some s => s + 128 | none => 0
    let r := if n % 16 < 8 then GRP_TILE_SLICE_0 (n / 16) else GRP_TILE_SLICE_1 (n / 16)
    let c := c.setReg r (putBits (c.reg r) (n % 8 * 8 + 7) (n % 8 * 8) b)
    let c := c.setFld (TILE_STATUS n) TILE_STATUS.SLICE (own.getD 0)
    c.setFld (TILE_STATUS n) TILE_STATUS.HELD (b2n own.isSome)) c

/-- A slice comes into being with its resources (R31, R32, R61, R82); one that comes back has the segments it had. -/
def Chip.makeSlice (c : Chip) (s : Nat) (payload : List Byte) (back : Option Slice) (a : CreateArgs) : Chip :=
  let segs := match back with
    | some old => old.segments
    | none => (List.range 12).flatMap (fun n => (c.freeSegs n).take (a.segs.getD n 0))
  let sl : Slice := { ceiling := a.ceiling, pasid := a.pasid, tiles := a.tiles, segments := segs, syncBase := a.syncBase, syncCount := a.syncCount, rings := a.rings, bwShare := a.bw, sust := a.sust, peak := a.peak, extents := a.extents, payload := payload }
  let c := a.extents.foldl (fun c e => c.giveOwners e.1 e.2 (s + 1) false) c
  let c := (c.resetPage s).clearPredictors s
  let c := { c with slices := AMap.set c.slices s sl, syncs := c.syncs.filter (fun p => p.1 < a.syncBase || a.syncBase + a.syncCount ≤ p.1) }
  let c := c.setReg (SLICE_INFO s) (a.rings * 2 ^ 16 + a.ceiling * 2 ^ 8 + s)
  let c := c.setReg (SLICE_SYNC s) (a.syncCount * 2 ^ 16 + a.syncBase)
  let c := c.setReg (SLICE_PASID s) a.pasid
  let c := pasidMapWrite 0x50 0 s (BitVec.ofNat 32 (2 ^ 31 + a.pasid)) c
  let c := c.setReg (MRC_SHARE s) a.bw
  let c := c.setReg (PWR_SLICE s) (a.peak * 2 ^ 32 + a.sust * 2 ^ 16)
  let c := c.setReg (MC_SLICE_SEG s) (segs.length)
  c.showTiles a.tiles

/-- R32: the outcome of a creation from bytes 32 to 191 of a payload or a template. -/
def Chip.createSlice (c : Chip) (template : Bool) (back : Option Slice) (payload : List Byte) : Nat × Nat × Chip :=
  let a := parseCreate payload
  if c.createBad template a then (stBadParam, 0, c)
  else if c.createShort back.isSome a then (stNoResource, 0, c)
  else
    let s := if a.number = 0xFF then ((List.range 64).find? (fun s => s != 0 && (c.slice? s).isNone)).getD 0 else a.number
    (stDone, s, c.makeSlice s payload back a)

/-! ### Clearing memory (R48) -/

/-- The place of a MEM_INVALIDATE range: 0 DRAM, 1 model cache, 2 tile windows. -/
def Chip.invalidatePlace (c : Chip) (a n : Nat) : Option Nat :=
  if n = 0 then none
  else if a + n ≤ c.capacity then (if a % pageSize = 0 ∧ n % pageSize = 0 then some 0 else none)
  else if mcBase ≤ a ∧ a + n ≤ mcBase + mcSize then (if a % 64 = 0 ∧ n % 64 = 0 then some 1 else none)
  else
    match c.target a, c.target (a + n - 1) with
    | .ok t, .ok t' => if 13 ≤ t ∧ t ≤ 24 ∧ 13 ≤ t' ∧ t' ≤ 24 ∧ a % 64 = 0 ∧ n % 64 = 0 then some 2 else none
    | _, _ => none

/-- Every page, segment or tile of the range belongs to the slice. -/
def Chip.ownsRange (c : Chip) (s place a n : Nat) : Bool :=
  if place = 0 then c.ownsPages s a n
  else if place = 1 then
    (List.range ((a + n - 1 - mcBase) / pageSize - (a - mcBase) / pageSize + 1)).all
      (fun i => c.segSlice ((a - mcBase) / pageSize + i) == some s)
  else
    (List.range ((a + n - 1 - tileBase) / 2 ^ 20 - (a - tileBase) / 2 ^ 20 + 1)).all
      (fun i => c.tileSlice ((a - tileBase) / 2 ^ 20 + i) == some s)

/-- R48: the checks; a good command then waits for the requests already accepted to its range. -/
def memInvalidate (id : Nat) (c : Chip) : Chip :=
  c.onPacket id 0x102 (fun p c =>
    let a := p.u 32 8
    let n := p.u 40 8
    if a ≥ 2 ^ 48 ∨ n ≥ 2 ^ 48 ∨ !zeroIn p.bytes 48 64 then c.finish p.id stBadParam
    else match c.invalidatePlace a n with
      | none => c.finish p.id stBadParam
      | some pl => if c.ownsRange p.slice pl a n then c.keepRunning p.id else c.finish p.id stNotOwner)

def execMemInvalidate (packet : Nat) (s : State) : Host.Outcome State Fault Refusal := s.on (memInvalidate packet)

/-- R48, R50: with no accepted request to the range outstanding, its valid bits are cleared, and the dirty log marks
the whole range. -/
def memInvalidateClear (id : Nat) (c : Chip) : Chip :=
  match c.packet? id with
  | none => c
  | some p =>
    let a := p.u 32 8
    let n := p.u 40 8
    if p.op = 0x102 ∧ p.phase = .running then
      if a < mcBase then
        if c.dramBusy (a / pageSize) (n / pageSize) then c
        else ((c.clearBlocks (a / pageSize) (n / pageSize)).logRange p.slice a n).finish id stDone
      else if c.rillBusy a (a + n) then c
      else (c.clearLines a n).finish id stDone
    else c

def execMemInvalidateClear (packet : Nat) (s : State) : Host.Outcome State Fault Refusal := s.on (memInvalidateClear packet)

/-! ### The dirty-page log (R49, R50) -/

/-- The checks of SLICE_DIRTY_LOG; `snap` where SNAPSHOT is used too.  R49 gives no status for a SLICE that does not exist:
BAD_PARAM; and bits 63:48 of LENGTH and SNAPSHOT, which its table leaves out, count as reserved (DESIGN CHOICE, log 104). -/
def Chip.dirtyLogBad (c : Chip) (p : Packet) (snap : Bool) : Bool :=
  let s := p.u 32 1
  let bm := p.u 40 8
  let n := p.u 48 8
  let sn := p.u 56 8
  match c.slice? s with
  | none => true
  | some sl =>
    decide (s ≥ 64) || p.u 34 2 != 0 || p.u 36 4 != 0 || decide (bm ≥ 2 ^ 48) || decide (n ≥ 2 ^ 48) || decide (sn ≥ 2 ^ 48) ||
    !zeroIn p.bytes 64 128 || decide (n < sumOf (sl.extents.map (·.2)) * 16 / 8) ||
    !c.ownsPages 0 bm n || (snap && !c.ownsPages 0 sn n)

/-- One SLICE_DIRTY_LOG operation: its own OP, else BAD_PARAM for a reserved OP, else nothing. -/
def Chip.dirtyLogOp (c : Chip) (id op : Nat) (f : Packet → Chip → Chip) : Chip :=
  c.onPacket id 0x802 (fun p c =>
    if p.u 33 1 > 2 then c.finish p.id stBadParam
    else if p.u 33 1 ≠ op then c
    else if c.dirtyLogBad p (op = 2) then c.finish p.id stBadParam
    else f p c)

/-- DISABLE: logging stops and the bitmap is left as it is. -/
def dirtyLogDisable (id : Nat) (c : Chip) : Chip :=
  c.dirtyLogOp id 0 (fun p c => { c with dirtyLogs := AMap.del c.dirtyLogs (p.u 32 1) }.finish p.id stDone)

def execDirtyLogDisable (packet : Nat) (s : State) : Host.Outcome State Fault Refusal := s.on (dirtyLogDisable packet)

/-- ENABLE: the bitmap is cleared, then every device write is logged. -/
def dirtyLogEnable (id : Nat) (c : Chip) : Chip :=
  c.dirtyLogOp id 1 (fun p c =>
    let bm := p.u 40 8
    let n := p.u 48 8
    let c := c.store bm (List.replicate n 0)
    { c with dirtyLogs := AMap.set c.dirtyLogs (p.u 32 1) { bitmap := bm, length := n } }.finish p.id stDone)

def execDirtyLogEnable (packet : Nat) (s : State) : Host.Outcome State Fault Refusal := s.on (dirtyLogEnable packet)

/-- READ_CLEAR: the bitmap is copied to SNAPSHOT and cleared; the result word counts the set bits copied. -/
def dirtyLogReadClear (id : Nat) (c : Chip) : Chip :=
  c.dirtyLogOp id 2 (fun p c =>
    let n := p.u 48 8
    let b := c.readBack (p.u 40 8) n
    let c := (c.store (p.u 56 8) b).store (p.u 40 8) (List.replicate n 0)
    c.finish p.id stDone (sumOf (b.map (fun x => popCount 8 x.toNat))))

def execDirtyLogReadClear (packet : Nat) (s : State) : Host.Outcome State Fault Refusal := s.on (dirtyLogReadClear packet)

end Sys2Proof.Machine
end

