-- ==== Sys2Proof/Machine/Streams.lean ====
section
/-!
DEFINITION. Confluence: triggers, streams, alignment contexts, L0 and its records (08 R216 to R225, R229 to R234, R239).
-/

namespace Sys2Proof.Machine

/-- Confluence's master (R17). -/
def cflMaster : Nat := 0x30

/-! ### FP32 arithmetic of Confluence -/

def fdec (n : Nat) : FVal := fp32.decode n
def fenc (v : FVal) : Nat := fp32.encode .rne false v
/-- Sum, product and square root rounded once. -/
def fa (a b : FVal) : FVal := f32 (fadd a b)
def fm (a b : FVal) : FVal := f32 (fmul a b)
def fsqrt : FVal → FVal
  | .nan => .nan
  | .inf s => if s then .nan else .inf false
  | .fin s m e =>
    if m = 0 then .fin s 0 0
    else if s then .nan
    else
      let (m, e) := if e % 2 = 0 then (m, e) else (2 * m, e - 1)
      let n := m * 2 ^ 120
      let r := isqrt n 400 (2 ^ (Nat.log2 n / 2 + 1))
      f32 (.fin false (2 * r + if r * r = n then 0 else 1) (e / 2 - 61))
def fint (i : Int) : FVal := f32 ((Dy.ofInt i).val false)
/-- Nanoseconds as seconds. -/
def fseconds (ns : Int) : FVal := fdiv (fint ns) (fdec 0x4E6E6B28)
def fsin (v : FVal) : FVal := fdec (Config.sine (BitVec.ofNat 32 (fenc v))).toNat
def fcos (v : FVal) : FVal := fdec (Config.cosine (BitVec.ofNat 32 (fenc v))).toNat
/-- a ≤ b, false with a NaN. -/
def fle (a b : FVal) : Bool := !a.isNan && !b.isNan && !flt b a

/-- An angle brought into (−π, π]. -/
def wrapAngle : Nat → FVal → FVal
  | 0, v => v
  | n + 1, v =>
    if flt (fdec 0x40490FDB) v then wrapAngle n (fsub v (fdec 0x40C90FDB))
    else if fle v (fdec 0xC0490FDB) then wrapAngle n (fa v (fdec 0x40C90FDB))
    else v

/-! ### Records (R27, R229, R230) -/

/-- Flags that every record takes from the part as it stands: DEBUG_ACTIVE and CONFIG_DIVERGENT. -/
def Chip.partFlags (c : Chip) : Nat :=
  (if bitOf (c.fld SEC_DEBUG SEC_DEBUG.EVER) 1 || bitOf (c.fld SEC_DEBUG SEC_DEBUG.EVER) 3 || c.flag SAF_ISLAND_STATUS SAF_ISLAND_STATUS.LOCKSTEP_BROKEN then 2 ^ 5 else 0) +
  (if c.flag LNK_DOMAIN_STATUS LNK_DOMAIN_STATUS.DIVERGENT then 2 ^ 7 else 0)

/-- The time quality of device time. -/
def Chip.quality (c : Chip) : Nat := c.fld NET_TIME_STATUS NET_TIME_STATUS.QUALITY

def flValid : Nat := 1
def flInvalid : Nat := 2
def flHoldover (q : Nat) : Nat := if q = 1 ∨ q = 2 then 4 else 0
def flConflict : Nat := 8
def flLateRevision : Nat := 16
def flDegraded : Nat := 64
def flExtrapolated : Nat := 2 ^ 16
def flDroppedInput : Nat := 2 ^ 17

/-- The header of a record. -/
def recordHead (validity age producer revision quality sequence flags len : Nat) : List Byte :=
  leBytes 8 validity ++ leBytes 8 age ++ leBytes 2 producer ++ leBytes 1 revision ++ leBytes 1 quality ++
  leBytes 4 sequence ++ leBytes 4 flags ++ leBytes 4 len

/-- Table of R231: the payload of a Confluence record. -/
def recordBody (buf items dropped conflicts contribs conflictAddr : Nat) : List Byte :=
  leBytes 8 buf ++ leBytes 4 items ++ leBytes 4 dropped ++ leBytes 4 (min conflicts 0xFFFF) ++ leBytes 4 (min contribs 0xFFFF) ++
  leBytes 8 conflictAddr

/-- R229: a record in its ring, in one transfer, and then its signal. -/
def Chip.putRecord (c : Chip) (master slice base log2 sequence obj : Nat) (b : List Byte) : Chip :=
  let (_, c) := c.save { master := master, tag := slice, addr := base + 64 * (sequence % 2 ^ log2), len := 64, write := true } b
  c.unitSignal obj (.add 1) true

/-- Bytes Confluence reads for a slice; a read that fails gives free bytes (log 27). -/
def Chip.cflRead (c : Chip) (slice a n : Nat) : List Byte × Chip :=
  match c.loadRange cflMaster slice a n with
  | (.ok, b, c) => (b, c)
  | (_, _, c) => c.drawBytes n

def Chip.cflWrite (c : Chip) (slice a : Nat) (b : List Byte) : Chip := (c.saveRange cflMaster slice a b).2.2

/-! ### Triggers (R216) -/

/-- R216: the first edge at least 1 µs ahead of now. -/
def Chip.firstEdge (c : Chip) (n : Nat) : Nat :=
  let s := c.reg (CFL_TRIG_START n)
  let p := c.reg (CFL_TRIG_PERIOD n)
  let t := c.now + 1000
  if timeBefore s t then s + (timeDiff t s + p - 1) / p * p else s

/-- A write of CFL_TRIG_CTRL: EN arms the first edge, or is refused with ARM_ERR; ARM_ERR is cleared by writing 1; POL
holds while EN is set. -/
def triggerEnable (tag n v : Nat) (c : Chip) : Chip :=
  if tag ≠ 0 ∨ 16 ≤ n then c
  else
    let on := c.flag (CFL_TRIG_CTRL n) CFL_TRIG_CTRL.EN
    let c := if on then c else c.setFld (CFL_TRIG_CTRL n) CFL_TRIG_CTRL.POL (bitsOf v 2 2)
    let c := c.setFld (CFL_TRIG_CTRL n) CFL_TRIG_CTRL.OUT_EN (bitsOf v 1 1)
    let c := if bitOf v 3 then c.setFld (CFL_TRIG_CTRL n) CFL_TRIG_CTRL.ARM_ERR 0 else c
    if !bitOf v 0 then c.setFld (CFL_TRIG_CTRL n) CFL_TRIG_CTRL.EN 0
    else if on then c
    else
      let p := c.reg (CFL_TRIG_PERIOD n)
      let w := c.reg (CFL_TRIG_WIDTH n)
      let e := c.firstEdge n
      if p < 1000 ∨ 2000000000 < p ∨ w < 100 ∨ p < w + 100 ∨ timeBefore (c.now + 2147000000) e then
        c.setFld (CFL_TRIG_CTRL n) CFL_TRIG_CTRL.ARM_ERR 1
      else (c.setFld (CFL_TRIG_CTRL n) CFL_TRIG_CTRL.EN 1).setReg (CFL_TRIG_NEXT n) e

def execTriggerEnable (tag trigger : Nat) (value : W32) (s : State) : Host.Outcome State Fault Refusal :=
  s.on (triggerEnable tag trigger value.toNat)

/-! ### Fields of a stream (R219) -/

def FuseStream.u (s : FuseStream) (off k : Nat) : Nat := bytesU s.desc off k
def FuseStream.kind (s : FuseStream) : Nat := s.u 33 1
def FuseStream.trigger (s : FuseStream) : Nat := s.u 36 2 % 16
def FuseStream.trigEn (s : FuseStream) : Bool := bitOf (s.u 36 2) 4
def FuseStream.revisable (s : FuseStream) : Bool := bitOf (s.u 36 2) 5
def FuseStream.l0 (s : FuseStream) : Bool := bitOf (s.u 36 2) 6
def FuseStream.l1 (s : FuseStream) : Bool := bitOf (s.u 36 2) 7
def FuseStream.l2 (s : FuseStream) : Bool := bitOf (s.u 36 2) 8
def FuseStream.grid (s : FuseStream) : Nat := bitsOf (s.u 36 2) 10 9
def FuseStream.context (s : FuseStream) : Nat := s.u 38 1
def FuseStream.validOffset (s : FuseStream) : Int := sx 32 (s.u 44 4)
def FuseStream.ingestEnd (s : FuseStream) : Nat := s.u 52 4
def FuseStream.lateLimit (s : FuseStream) : Nat := s.u 56 4
def FuseStream.width (s : FuseStream) : Nat := s.u 64 2
def FuseStream.height (s : FuseStream) : Nat := s.u 66 2
def FuseStream.bufAddr (s : FuseStream) (k : Nat) : Nat := s.u 72 8 + k * s.u 80 4
def FuseStream.projMask (s : FuseStream) : Nat := if s.kind = 1 ∧ s.l0 then s.u 184 8 else 0

def Chip.stream? (c : Chip) (n : Nat) : Option FuseStream := AMap.get? c.cfl.streams n
def Chip.updStream (c : Chip) (n : Nat) (f : FuseStream → FuseStream) : Chip :=
  match c.stream? n with
  | none => c
  | some x => { c with cfl := { c.cfl with streams := AMap.set c.cfl.streams n (f x) } }

/-- The frame period: the trigger's PERIOD with TRIG_EN. -/
def Chip.framePeriod (c : Chip) (s : FuseStream) : Nat := if s.trigEn then c.reg (CFL_TRIG_PERIOD s.trigger) else s.u 40 4

/-- The programmed frame end (R219). -/
def Chip.frameEnd (c : Chip) (s : FuseStream) (edge : Nat) : Nat :=
  edge + (if s.kind = 1 then c.framePeriod s else 0) + s.ingestEnd

/-- The cut-off of a frame; none where LATE_LIMIT disables it. -/
def Chip.cutOff (c : Chip) (s : FuseStream) (edge : Nat) : Option Nat :=
  if s.lateLimit = 0xFFFFFFFF then none else some (c.frameEnd s edge + s.lateLimit)

/-- An event of the slice of a stream (R238). -/
def Chip.streamEvent (c : Chip) (n code seq d0 d1 : Nat) : Chip :=
  match c.stream? n with
  | none => c
  | some s => c.event s.slice code n seq d0 d1

/-- R239: a counter of a stream. -/
def Chip.streamBad (c : Chip) (n cause : Nat) : Chip :=
  let c := c.count (CFL_STREAM_BAD n) CFL_STREAM_BAD.COUNT 1
  c.streamEvent n 0x0204 0 cause (c.reg (CFL_STREAM_BAD n))

/-- R233: a late contribution dropped. -/
def Chip.lateDrop (c : Chip) (n seq validity lateness cause : Nat) : Chip :=
  let c := c.count (CFL_LATE_DROPS n) CFL_LATE_DROPS.COUNT 1
  let c := c.updStream n (fun s => { s with dropped := s.dropped + 1 })
  c.streamEvent n 0x0201 seq validity (lateness % 2 ^ 48 + cause * 2 ^ 48)

/-! ### Closing (R222) -/

/-- The stream is closed: its bindings end and its CLOSE packets complete. -/
def Chip.closeStream (c : Chip) (n : Nat) : Chip :=
  match c.stream? n with
  | none => c
  | some s =>
    let keep := fun (l : List Contrib) => l.filter (fun k => k.stream != n)
    let strip := fun (x : FuseStream) => if x.kind = 1 ∧ x.l0 then { x with desc := putAt x.desc 184 (leBytes 8 (putBits (x.u 184 8) n n 0)) } else x
    let f := { c.cfl with streams := (AMap.del c.cfl.streams n).map (fun p => (p.1, strip p.2)), waiting := keep c.cfl.waiting, late := keep c.cfl.late }
    let c := { c with cfl := f }
    let c := c.setReg (CFL_STREAM_STATUS n) 0
    s.closing.foldl (fun c id => c.finish id stDone) c

/-- A frame boundary of a closing stream. -/
def Chip.boundary (c : Chip) (n : Nat) : Chip :=
  match c.stream? n with
  | none => c
  | some s => if s.closing.isEmpty then c else c.closeStream n

/-! ### Poses (R223, R224) -/

def poseTime (b : List Byte) : Nat := bytesU b 0 8
def poseField (b : List Byte) (i : Nat) : FVal := fdec (bytesU b (8 + 4 * i) 4)

/-- The newest sample at or before `t`, and the one after it, of the retained samples from number `i` down. -/
def Chip.poseFind (c : Chip) (x : AlignCtx) (t : Nat) : Nat → Nat → Option (List Byte) → Option (List Byte) × Option (List Byte) × Chip
  | 0, _, above => (none, above, c)
  | n + 1, i, above =>
    let (b, c) := c.cflRead x.slice (x.base + 64 * (i % 2 ^ x.log2)) 64
    if poseTime b ≤ t then (some b, above, c) else Chip.poseFind c x t n (i - 1) (some b)

/-- A pose held from one sample. -/
def posePatterns (f : Nat → FVal) : List Nat := (List.range 6).map (fun i => fenc (f i))

/-- R224 case 1: between two samples. -/
def poseBetween (a b : List Byte) (t : Nat) : List Nat :=
  let f := fdiv (fint ((t : Int) - poseTime a)) (fint ((poseTime b : Int) - poseTime a))
  posePatterns (fun i =>
    let d := fsub (poseField b i) (poseField a i)
    fa (poseField a i) (fm f (if i < 3 then d else wrapAngle 64 d)))

/-- R224 case 2: `ns` beyond a sample. -/
def poseBeyond (n : List Byte) (ns : Nat) : List Nat :=
  let dt := fseconds ns
  posePatterns (fun i =>
    if i < 3 then fa (poseField n i) (fm (poseField n (i + 6)) dt)
    else if i = 5 then fa (poseField n 5) (fm (poseField n 9) dt)
    else poseField n i)

/-- R224: the pose at `t`, or none while a newer sample is waited for; and the cause of a DEGRADED alignment.  With no
sample at all once the wait is over, the pose is free (log 27). -/
def Chip.poseAt (c : Chip) (x : AlignCtx) (t : Nat) (expired : Bool) : Option Pose × Option Nat × Chip :=
  let n := syncCount (c.sync x.obj)
  match c.poseFind x t (min n (2 ^ x.log2)) (n - 1) none with
  | (some a, some b, c) => (some { v := poseBetween a b t }, none, c)
  | (some a, none, c) =>
    let d := t - poseTime a
    if d = 0 then (some { v := posePatterns (poseField a) }, none, c)
    else if !expired then (none, none, c)
    else if d ≤ x.extrap then (some { v := poseBeyond a d, extrapolated := true }, none, c)
    else (some { v := poseBeyond a x.extrap, degraded := true }, some 0, c)
  | (none, some b, c) => (some { v := posePatterns (poseField b), degraded := true }, some 1, c)
  | (none, none, c) =>
    if !expired then (none, none, c)
    else
      let (b, c) := c.drawBytes 24
      (some { v := (List.range 6).map (fun i => bytesU b (4 * i) 4), degraded := true }, some 0, c)

/-- The pose of a context, and its ALIGN_DEGRADED event. -/
def Chip.alignAt (c : Chip) (ctx t : Nat) (expired : Bool) : Option Pose × Chip :=
  match AMap.get? c.cfl.contexts ctx with
  | none => (none, c)
  | some x =>
    let (p, cause, c) := c.poseAt x t expired
    (p, match cause with
      | some k => c.event x.slice 0x0205 ctx 0 t k
      | none => c)

/-- A wait that began at `since` is over (R224). -/
def Chip.waitedOut (c : Chip) (ctx since : Nat) : Bool :=
  match AMap.get? c.cfl.contexts ctx with
  | none => true
  | some x => decide (since + x.wait ≤ c.now)

/-! ### Turning points (R224 to R227) -/

/-- A point or vector. -/
abbrev V3 := FVal × FVal × FVal

def Pose.f (p : Pose) (i : Nat) : FVal := fdec (p.v.getD i 0)

/-- The rotation of a pose, row by row: yaw about z, then pitch about y, then roll about x (log 27). -/
def Pose.rot (p : Pose) : List FVal :=
  let cr := fcos (p.f 3)
  let sr := fsin (p.f 3)
  let cp := fcos (p.f 4)
  let sp := fsin (p.f 4)
  let cy := fcos (p.f 5)
  let sy := fsin (p.f 5)
  [fm cy cp, fsub (fm (fm cy sp) sr) (fm sy cr), fa (fm (fm cy sp) cr) (fm sy sr),
   fm sy cp, fa (fm (fm sy sp) sr) (fm cy cr), fsub (fm (fm sy sp) cr) (fm cy sr),
   fneg sp, fm cp sr, fm cp cr]

def dot3 (a b c : FVal) (v : V3) : FVal := fa (fa (fm a v.1) (fm b v.2.1)) (fm c v.2.2)
def rotate (m : List FVal) (v : V3) : V3 :=
  let e := fun i => m.getD i FVal.zero
  (dot3 (e 0) (e 1) (e 2) v, dot3 (e 3) (e 4) (e 5) v, dot3 (e 6) (e 7) (e 8) v)
def unrotate (m : List FVal) (v : V3) : V3 :=
  let e := fun i => m.getD i FVal.zero
  (dot3 (e 0) (e 3) (e 6) v, dot3 (e 1) (e 4) (e 7) v, dot3 (e 2) (e 5) (e 8) v)
def vadd3 (a b : V3) : V3 := (fa a.1 b.1, fa a.2.1 b.2.1, fa a.2.2 b.2.2)
def vsub3 (a b : V3) : V3 := (fsub a.1 b.1, fsub a.2.1 b.2.1, fsub a.2.2 b.2.2)
def Pose.at (p : Pose) : V3 := (p.f 0, p.f 1, p.f 2)
def Pose.toOdom (p : Pose) (v : V3) : V3 := vadd3 (rotate p.rot v) p.at
def Pose.fromOdom (p : Pose) (v : V3) : V3 := unrotate p.rot (vsub3 v p.at)

/-- R226: a point carried from one pose of the vehicle to another. -/
def carryPoint (a b : Pose) (v : V3) : V3 := b.fromOdom (a.toOdom v)

/-- The sensor-to-vehicle transform of a stream. -/
def FuseStream.ext (s : FuseStream) (i : Nat) : FVal := fdec (s.u (112 + 4 * i) 4)
def FuseStream.toVehicle (s : FuseStream) (v : V3) : V3 :=
  vadd3 (rotate [s.ext 0, s.ext 1, s.ext 2, s.ext 4, s.ext 5, s.ext 6, s.ext 8, s.ext 9, s.ext 10] v) (s.ext 3, s.ext 7, s.ext 11)
def FuseStream.fromVehicle (s : FuseStream) (v : V3) : V3 :=
  unrotate [s.ext 0, s.ext 1, s.ext 2, s.ext 4, s.ext 5, s.ext 6, s.ext 8, s.ext 9, s.ext 10] (vsub3 v (s.ext 3, s.ext 7, s.ext 11))
def FuseStream.intr (s : FuseStream) (i : Nat) : FVal := fdec (s.u (160 + 4 * i) 4)

/-! ### Publishing at L0 (R225, R229 to R232) -/

/-- The record of a stream: it takes the stream's DROPPED, its sequence and its ring.  AGE is 0 where the oldest time lies
after the publish time, as an injected validity in the future may: the spec does not say (DESIGN CHOICE, log 114). -/
def Chip.publishL0 (c : Chip) (n validity oldest quality flags revision : Nat) (items : Option (Nat × Nat)) (raw : List Byte) : Chip :=
  match c.stream? n with
  | none => c
  | some s =>
    let q := max quality c.quality
    let fl := flags + flHoldover q + c.partFlags
    let body := match items with
      | some (buf, k) => recordBody buf k s.dropped 0 1 0
      | none => (raw ++ List.replicate 32 0).take 32
    let len := match items with
      | some _ => 32
      | none => min 32 raw.length
    let b := recordHead validity (timeSince c.now oldest) (0x1000 + n) revision q s.sequence fl len ++ body
    let c := c.updStream n (fun s => { s with sequence := s.sequence + 1, dropped := 0, last := some (validity, revision) })
    c.putRecord cflMaster s.slice (s.u 88 8) (s.u 96 1) s.sequence (s.u 100 2) b

/-- A contribution dropped as late: the next record of its level counts it, and the record of its validity shows it. -/
def Cycle.miss (y : Cycle) (v : Nat) : Cycle := { y with dropped := y.dropped + 1, missed := y.missed ++ [v] }

/-- The cycle of the level that a contribution goes to. -/
def Chip.levelCycle (c : Chip) (k : Contrib) : Option Cycle :=
  if k.l2 then c.cfl.tracker.map (·.cycle)
  else (c.stream? k.stream).bind (fun s => (AMap.get? c.cfl.grids s.grid).map (·.cycle))

/-- The level that a contribution would have entered misses it (R231, R233). -/
def Chip.levelMiss (c : Chip) (k : Contrib) : Chip :=
  if k.l2 then { c with cfl := { c.cfl with tracker := c.cfl.tracker.map (fun t => { t with cycle := t.cycle.miss k.validity }) } }
  else match c.stream? k.stream with
    | none => c
    | some s => match AMap.get? c.cfl.grids s.grid with
      | none => c
      | some g => { c with cfl := { c.cfl with grids := AMap.set c.cfl.grids s.grid { g with cycle := g.cycle.miss k.validity } } }

/-- A contribution late for its level and dropped: its stream counts it and so does its level; how late it was is a free
value (log 27). -/
def Chip.dropLevel (c : Chip) (k : Contrib) (cause : Nat) : Chip :=
  let (x, c) := c.draw
  (c.lateDrop k.stream k.seq k.validity (x.toNat % 2 ^ 48) cause).levelMiss k

/-- A contribution arrives at its level: it waits for a cycle, or is late for one that has started (R228, R232). -/
def Chip.enterLevel (c : Chip) (s : FuseStream) (k : Contrib) : Chip :=
  let started := match (c.levelCycle k).bind (·.v) with
    | some v => !timeBefore v k.validity
    | none => false
  if !started then { c with cfl := { c.cfl with waiting := c.cfl.waiting ++ [k] } }
  else if s.revisable then { c with cfl := { c.cfl with late := c.cfl.late ++ [k] } }
  else c.dropLevel k 0

/-- A contribution taken: it is counted once, and goes to the levels its stream feeds (R219, R221, R228). -/
def Chip.contribute (c : Chip) (k : Contrib) : Chip :=
  let c := c.count (CFL_CONTRIBS k.stream) CFL_CONTRIBS.COUNT 1
  match c.stream? k.stream with
  | none => c
  | some s =>
    let c := if s.l1 then c.enterLevel s { k with l2 := false } else c
    if s.l2 then c.enterLevel s { k with l2 := true } else c

/-- An injected contribution taken, for the one level its descriptor names (R221). -/
def Chip.contributeTo (c : Chip) (k : Contrib) : Chip :=
  let c := c.count (CFL_CONTRIBS k.stream) CFL_CONTRIBS.COUNT 1
  match c.stream? k.stream with
  | none => c
  | some s => c.enterLevel s k

/-- Items of a frame: rows or points. -/
def FuseFrame.items (f : FuseFrame) : Nat := f.rows.length + f.points

/-- One frame of a stream changed. -/
def Chip.updFrame (c : Chip) (n edge : Nat) (g : FuseFrame → FuseFrame) : Chip :=
  c.updStream n (fun s => { s with frames := s.frames.map (fun f => if f.edge = edge then g f else f) })

/-- The VALID record of a frame, and its contribution to the levels above (R225; the buffer is the item array, log 27). -/
def Chip.publishFrame (c : Chip) (n : Nat) (f : FuseFrame) (flags : Nat) : Chip :=
  match c.stream? n with
  | none => c
  | some s =>
    let seq := s.sequence
    let old := f.oldest.getD f.validity
    let c := c.publishL0 n f.validity old f.quality (flValid + flags) 0 (some (s.bufAddr f.buf, f.items)) []
    let c := c.updFrame n f.edge (fun f => { f with published := true, seq := seq })
    c.contribute { stream := n, validity := f.validity, oldest := old, seq := seq, data := s.bufAddr f.buf, items := f.items, l2 := false, arrived := c.now, quality := f.quality }

/-- The frame is published and complete, and a later record stands: no revision reaches it. -/
def FuseStream.over (s : FuseStream) (f : FuseFrame) : Bool :=
  f.published && f.ended && !f.cut && (s.frames.getLast?.map (·.edge)) != some f.edge && (match s.last with
    | some (v, _) => timeBefore f.validity v
    | none => false)

/-- Of frames that are over, the validity and the record's SEQUENCE are kept. -/
def Chip.forgetFrames (c : Chip) (n : Nat) : Chip :=
  c.updStream n (fun s => { s with
    past := s.past ++ (s.frames.filter s.over).map (fun f => { validity := f.validity, seq := f.seq })
    frames := s.frames.filter (fun f => !s.over f) })

/-! ### Depth planes (R225) -/

/-- Half the lidar's frame period. -/
def Chip.halfPeriod (c : Chip) (l : FuseStream) : Nat := c.framePeriod l / 2

/-- The lidars that project into a camera stream. -/
def Chip.projectors (c : Chip) (n : Nat) : List (Nat × FuseStream) := c.cfl.streams.filter (fun p => bitOf p.2.projMask n)

/-- The lidar has delivered a point later than V + W. -/
def Chip.delivered (c : Chip) (l : FuseStream) (v : Nat) : Bool := l.kept.any (fun p => timeBefore (v + c.halfPeriod l) p.validity)

/-- The cells of a depth plane, each its smallest depth. -/
abbrev Depths := AMap FVal

/-- A point projected through the camera: its cell and depth. -/
def FuseStream.project (s : FuseStream) (v : V3) : Option (Nat × FVal) :=
  let z := v.2.2
  if !flt FVal.zero z || !z.isFin then none
  else
    let u := fa (fm (s.intr 0) (fdiv v.1 z)) (s.intr 2)
    let w := fa (fm (s.intr 1) (fdiv v.2.1 z)) (s.intr 3)
    if !u.isFin || !w.isFin then none
    else
      let i := ffloor u
      let j := ffloor w
      if i < 0 ∨ j < 0 ∨ (s.width : Int) ≤ i ∨ (s.height : Int) ≤ j then none
      else some (j.toNat / 4 * ((s.width + 3) / 4) + i.toNat / 4, z)

/-- The points of one time carried into a camera frame. -/
def Chip.projectSet (c : Chip) (s l : FuseStream) (pv : Pose) (k : PointSet) (d : Depths) : Option (Depths × Bool × Bool) × Chip :=
  match c.alignAt l.context k.validity (c.waitedOut l.context k.arrived) with
  | (none, c) => (none, c)
  | (some p, c) =>
    let d := k.points.foldl (fun d q =>
      let v := carryPoint p pv (l.toVehicle (fdec q.1, fdec q.2.1, fdec q.2.2))
      match s.project (s.fromVehicle v) with
      | none => d
      | some (cell, z) =>
        match AMap.get? d cell with
        | some z' => if flt z z' then AMap.set d cell z else d
        | none => AMap.set d cell z) d
    (some (d, p.degraded, p.extrapolated), c)

/-- All the points of the lidars that fall in the window of V; none while a pose is waited for. -/
def Chip.projectAll (c : Chip) (s : FuseStream) (pv : Pose) : List (FuseStream × PointSet) → Depths → Bool → Bool → Option (Depths × Bool × Bool) × Chip
  | [], d, g, e => (some (d, g, e), c)
  | (l, k) :: rest, d, g, e =>
    match c.projectSet s l pv k d with
    | (none, c) => (none, c)
    | (some (d, g', e'), c) => Chip.projectAll c s pv rest d (g || g') (e || e')

/-- The depth plane written: FP16 metres, 0 for an empty cell. -/
def Chip.writeDepths (c : Chip) (s : FuseStream) (buf : Nat) (d : Depths) : Chip :=
  let cols := (s.width + 3) / 4
  let rows := (s.height + 3) / 4
  let pitch := s.u 184 4
  (List.range rows).foldl (fun c j =>
    let b := (List.range cols).flatMap (fun i =>
      leBytes 2 (match AMap.get? d (j * cols + i) with
        | some z => fp16.encode .rne false z
        | none => 0))
    c.cflWrite s.slice (s.u 176 8 + (buf * rows + j) * pitch) b) c

/-- R225, R230: the depth plane of a camera frame made from the points delivered; none while a pose is waited for.  It
answers the flags DEGRADED and EXTRAPOLATED, and the highest time quality of the points. -/
def Chip.depthPlane (c : Chip) (n : Nat) (s : FuseStream) (f : FuseFrame) : Option (Nat × Nat) × Chip :=
  let ls := c.projectors n
  if ls.isEmpty ∨ s.u 176 8 = 0 then (some (0, 0), c)
  else
    let sets := ls.flatMap (fun p => (p.2.kept.filter (fun k =>
      timeBefore f.validity (k.validity + c.halfPeriod p.2) && !timeBefore (f.validity + c.halfPeriod p.2) k.validity)).map (fun k => (p.2, k)))
    let since := sets.foldl (fun m k => max m k.2.arrived) f.edge
    match c.alignAt s.context f.validity (c.waitedOut s.context since) with
    | (none, c) => (none, c)
    | (some pv, c) =>
      match c.projectAll s pv sets [] pv.degraded pv.extrapolated with
      | (none, c) => (none, c)
      | (some (d, g, e), c) => (some ((if g then flDegraded else 0) + (if e then flExtrapolated else 0), (sets.map (·.2.quality)).foldl max 0), c.writeDepths s f.buf d)

/-- A frame that must still be published before this one: records of a producer ascend (R229), and a frame with a
cut-off has its record by then. -/
def Chip.precedes (c : Chip) (s : FuseStream) (edge : Nat) (g : FuseFrame) : Bool :=
  decide (g.edge < edge) && !g.published && (c.cutOff s g.edge).isSome

/-- R225: an ended frame is published: a sweep at once, a camera's frame once its lidars are in, or its cut-off has
passed. -/
def Chip.tryPublish (c : Chip) (n edge : Nat) : Chip :=
  match c.stream? n with
  | none => c
  | some s =>
    match s.frames.find? (fun f => f.edge == edge) with
    | none => c
    | some f =>
      let past := match c.cutOff s edge with
        | some t => decide (t ≤ c.now)
        | none => false
      if !f.ended || f.published || s.frames.any (c.precedes s edge) then c
      else if s.kind = 1 then (c.publishFrame n f 0).forgetFrames n
      else if !(past || (c.projectors n).all (fun p => c.delivered p.2 f.validity)) then c
      else match c.depthPlane n s f with
        | (none, c) => c
        | (some (fl, q), c) => (c.publishFrame n { f with quality := max f.quality q } fl).forgetFrames n

/-- Every ended frame of a stream that can be published is, in the order of their edges. -/
def Chip.publishEnded (c : Chip) (n : Nat) : Chip :=
  match c.stream? n with
  | none => c
  | some s => s.frames.foldl (fun c f => c.tryPublish n f.edge) c

/-- The late data of a frame is over, complete or not: a stream that is not REVISABLE drops it; of a REVISABLE one a
complete frame waits for its revision, and of any other nothing comes (R233, R234). -/
def Chip.lateOver (c : Chip) (n : Nat) (f : FuseFrame) (complete : Bool) : Chip :=
  match c.stream? n with
  | none => c
  | some s =>
    let c := c.updFrame n f.edge (fun f => { f with ended := true, cut := complete && s.revisable })
    if s.revisable then c.forgetFrames n
    else (c.lateDrop n f.seq f.validity (c.now - (c.cutOff s f.edge).getD c.now) 0).forgetFrames n

/-! ### Trigger edges and frames -/

/-- The validity of a frame (R218). -/
def Chip.frameValidity (c : Chip) (s : FuseStream) (edge : Nat) : Nat :=
  if s.kind = 1 then edge + c.framePeriod s / 2 else ((edge : Int) + s.validOffset).toNat

/-- R53: the slice's Confluence streams stop at their next frame boundary, as every slice's do while the part drains to
leave Active (R394; DEDUCED, log 117). -/
def Chip.fuseOff (c : Chip) (s : Nat) : Bool := c.power.leaving.isSome || match c.slice? s with
  | some sl => bitOf sl.disabled 1
  | none => false

/-- At a frame boundary late data that has not completed never does (R233); a sweep's is complete with what has come. -/
def Chip.boundaryDrops (c : Chip) (n edge : Nat) : Chip :=
  match c.stream? n with
  | none => c
  | some s => (s.frames.filter (fun f => decide (f.edge < edge) && f.cut && !f.ended)).foldl (fun c f => c.lateOver n f (s.kind == 1 && decide (0 < f.points))) c

/-- A frame begins with its edge, which is a boundary of the stream. -/
def Chip.beginFrame (c : Chip) (n edge : Nat) : Chip :=
  let c := c.boundaryDrops n edge
  match c.stream? n with
  | none => c
  | some s =>
    let k := s.u 84 1
    let f : FuseFrame := { edge := edge, validity := c.frameValidity s edge, buf := if k = 0 then 0 else s.begun % k }
    if c.fuseOff s.slice then c
    else c.updStream n (fun s => { s with frames := s.frames ++ [f], begun := s.begun + 1 })

/-- Edges of a stream without a trigger that passed without data, begun up to an edge: their cut-off finds them. -/
def Chip.fillEdges (c : Chip) (n p edge : Nat) : Nat → Chip
  | 0 => c
  | k + 1 => (Chip.fillEdges c n p edge k).beginFrame n (edge + p * k)

/-- The frame of an edge begins, and before it those of the edges that passed since the last one, or since the stream
opened, where the stream has a cut-off (R232: a frame that never started has its record too). -/
def Chip.beginFrom (c : Chip) (n edge : Nat) : Chip :=
  match c.stream? n with
  | none => c
  | some s =>
    let p := c.framePeriod s
    let from' := match s.frames.getLast? with
      | some f => f.edge + p
      | none => edge - (edge - s.opened) / p * p
    if p = 0 ∨ s.lateLimit = 0xFFFFFFFF then c.beginFrame n edge else c.fillEdges n p from' ((edge + p - from') / p)

/-- The edge of a trigger at `t`: it counts, the next is armed, and it shows on the ball with OUT_EN. -/
def Chip.countEdge (c : Chip) (n t : Nat) : Chip :=
  let c := c.count (CFL_TRIG_COUNT n) CFL_TRIG_COUNT.COUNT 1
  let c := c.setReg (CFL_TRIG_NEXT n) (t + c.reg (CFL_TRIG_PERIOD n))
  if c.flag (CFL_TRIG_CTRL n) CFL_TRIG_CTRL.OUT_EN then
    c.send (.trigger n) (leBytes 4 (c.reg (CFL_TRIG_WIDTH n)) ++ leBytes 1 (c.fld (CFL_TRIG_CTRL n) CFL_TRIG_CTRL.POL))
  else c

/-- Each stream bound to a trigger begins the frame of its edge at `t`, once. -/
def Chip.edgeFrames (c : Chip) (n t : Nat) : Chip :=
  (c.cfl.streams.filter (fun p => p.2.trigEn && p.2.trigger == n)).foldl (fun c p =>
    let c := c.boundary p.1
    if p.2.frames.any (fun f => f.edge == t) then c else c.beginFrame p.1 t) c

/-- R216: device time has reached an edge: the low 32 bits of both, as a signed difference. -/
def edgeReached (now edge : Nat) : Bool := decide ((now % 2 ^ 32 + 2 ^ 32 - edge % 2 ^ 32) % 2 ^ 32 < 2 ^ 31)

/-- R216: a trigger's edge is due: it counts, shows on the ball with OUT_EN, and begins a frame of each bound stream. -/
def triggerEdge (n : Nat) (c : Chip) : Chip :=
  let t := c.reg (CFL_TRIG_NEXT n)
  if 16 ≤ n ∨ !c.flag (CFL_TRIG_CTRL n) CFL_TRIG_CTRL.EN ∨ !edgeReached c.now t then c else (c.countEdge n t).edgeFrames n t

def execTriggerEdge (trigger : Nat) (s : State) : Host.Outcome State Fault Refusal := s.on (triggerEdge trigger)

/-! ### Opening and closing (R219 to R222) -/

/-- The L0 table: entries for every 16th column and row and the last of each (R225). -/
def gridMarks (n : Nat) : Nat := if n ≤ 1 then n else (n + 14) / 16 + 1

/-- R220 step 1: reserved bits, ranges, and fields of another kind. -/
def openFieldsOk (p : Packet) : Bool :=
  let u := p.u
  let k := u 33 1
  let only := fun (kinds : List Nat) (off n : Nat) => kinds.contains k || zeroIn p.bytes off (off + n)
  let l0 := bitOf (u 36 2) 6
  let port := u 34 1
  decide (u 32 1 < 64) && decide (k < 5) && decide (u 36 2 < 2 ^ 11) && decide (u 38 1 < 32) && u 39 1 == 0 && u 60 4 == 0 && u 69 3 == 0 &&
  decide (u 72 8 < 2 ^ 48) && u 80 4 % 64 == 0 && decide (2 ≤ u 84 1) && decide (u 84 1 ≤ 64) && zeroIn p.bytes 85 88 &&
  decide (u 88 8 < 2 ^ 48) && u 88 8 % 4096 == 0 && decide (4 ≤ u 96 1) && decide (u 96 1 ≤ 16) && zeroIn p.bytes 97 100 && u 102 2 == 0 &&
  only [0] 48 4 && only [0, 1, 2] 52 4 && only [0, 1] 64 4 && only [0] 68 1 && decide (u 104 8 < 2 ^ 48) && (l0 || u 104 8 == 0) && only [0] 104 8 && only [0] 160 16 &&
  (match k with
   | 0 => decide (port < 12) && decide (u 35 1 < 16) && [0x1E, 0x2A, 0x2B, 0x2C].contains (u 68 1) && decide (u 176 8 < 2 ^ 48) && u 184 4 % 64 == 0 && zeroIn p.bytes 188 256
   | 1 => decide (port < 8) && decide (1 ≤ u 64 2) && decide (u 64 2 ≤ 512) && decide (u 180 1 < 4) && zeroIn p.bytes 181 184 && zeroIn p.bytes 192 256 && (l0 || u 184 8 == 0)
   | 2 => decide (u 180 1 ≤ 4) && decide (1 ≤ u 181 1) && decide (u 181 1 ≤ 32) && u 182 2 == 0 && zeroIn p.bytes 188 256
   | 3 => decide (port < 16) && zeroIn p.bytes 176 256
   | _ => port == 0 && u 35 1 == 0 && decide (u 176 8 < 2 ^ 48) && u 176 8 % 4096 == 0 && decide (4 ≤ u 184 1) && decide (u 184 1 ≤ 12) && u 185 1 == 0 && zeroIn p.bytes 188 256)

/-- R220 step 5: every buffer, ring, table and sync object lies in the slice. -/
def Chip.openOwned (c : Chip) (sl : Slice) (p : Packet) : Bool :=
  let u := p.u
  let k := u 33 1
  let own := fun a n => n == 0 || c.ownsPages p.slice a n
  own (u 72 8) (u 80 4 * u 84 1) && own (u 88 8) (64 * 2 ^ u 96 1) && sl.hasSync (u 100 2) &&
  (k != 0 || ((!bitOf (u 36 2) 6 || own (u 104 8) (8 * gridMarks (u 64 2) * gridMarks (u 66 2))) &&
    (u 176 8 == 0 || own (u 176 8) (u 84 1 * ((u 66 2 + 3) / 4) * u 184 4)))) &&
  (k != 4 || (own (u 176 8) (64 * 2 ^ u 184 1) && sl.hasSync (u 186 2)))

/-- R220 step 6: the objects the stream names. -/
def Chip.openBound (c : Chip) (p : Packet) : Option Nat :=
  let f := p.u 36 2
  let ctx := (AMap.get? c.cfl.contexts (p.u 38 1)).map (·.slice)
  let grid := (AMap.get? c.cfl.grids (bitsOf f 10 9)).map (·.slice)
  let trk := c.cfl.tracker.map (·.slice)
  let proj := if p.u 33 1 = 1 then (List.range 64).filter (fun i => bitOf (p.u 184 8) i) else []
  let owners := [ctx] ++ (if bitOf f 7 then [grid] else []) ++ (if bitOf f 8 then [trk] else []) ++ proj.map (fun i => (c.stream? i).map (·.slice))
  if owners.any Option.isNone then some stBadParam
  else if owners.any (· != some p.slice) then some stNotOwner
  else none

/-- R220: the checks in their order. -/
def Chip.openStatus (c : Chip) (sl : Slice) (p : Packet) : Option Nat :=
  let f := p.u 36 2
  let k := p.u 33 1
  if !openFieldsOk p then some stBadParam
  else if bitOf f 4 && !c.flag (CFL_TRIG_CTRL (f % 16)) CFL_TRIG_CTRL.EN then some stBadParam
  else if bitOf f 6 && ((k == 0 && p.u 68 1 != 0x1E) || k == 2 || k == 3 || (k == 1 && p.u 184 8 == 0)) then some stBadParam
  else if (c.stream? (p.u 32 1)).isSome || (k != 4 && c.cfl.streams.any (fun s => s.2.kind == k && s.2.u 34 1 == p.u 34 1 && s.2.u 35 1 == p.u 35 1)) then some stNoResource
  else if !c.openOwned sl p then some stNotOwner
  else c.openBound p

/-- The stream a packet opens, its status and its counters (R219, R239). -/
def Chip.openStream (c : Chip) (p : Packet) : Chip :=
  let n := p.u 32 1
  let c := { c with cfl := { c.cfl with streams := AMap.set c.cfl.streams n { slice := p.slice, desc := p.bytes, opened := c.now } } }
  let c := c.setReg (CFL_STREAM_STATUS n) (p.slice * 4 + 1)
  (((c.setReg (CFL_CONTRIBS n) 0).setReg (CFL_LATE_DROPS n) 0).setReg (CFL_REVISIONS n) 0).setReg (CFL_STREAM_BAD n) 0

/-- R219, R220, R239: a stream opens with its counters cleared. -/
def fuseStreamOpen (id : Nat) (c : Chip) : Chip :=
  c.onPacket id 0x300 (fun p c =>
    match c.slice? p.slice with
    | none => c.finish p.id stAccessDenied
    | some sl =>
      match c.openStatus sl p with
      | some st => c.finish p.id st
      | none => (c.openStream p).finish p.id stDone)

def execFuseStreamOpen (packet : Nat) (s : State) : Host.Outcome State Fault Refusal := s.on (fuseStreamOpen packet)

/-- A stream begins to close, with one more CLOSE packet waiting (R222). -/
def Chip.askClose (c : Chip) (n id : Nat) : Chip :=
  ((c.keepRunning id).updStream n (fun s => { s with closing := s.closing ++ [id] })).setFld (CFL_STREAM_STATUS n) CFL_STREAM_STATUS.STATE 2

/-- R222: the stream closes at its next frame boundary; a stream with no frame in progress stands at one. -/
def fuseStreamClose (id : Nat) (c : Chip) : Chip :=
  c.onPacket id 0x302 (fun p c =>
    let n := p.u 32 1
    if 64 ≤ n ∨ !zeroIn p.bytes 33 64 then c.finish p.id stBadParam
    else match c.stream? n with
      | none => c.finish p.id stBadParam
      | some s =>
        if s.slice ≠ p.slice then c.finish p.id stNotOwner
        else if s.frames.all (·.ended) then (c.askClose n p.id).closeStream n else c.askClose n p.id)

def execFuseStreamClose (packet : Nat) (s : State) : Host.Outcome State Fault Refusal := s.on (fuseStreamClose packet)

/-! ### Policies (R223) -/

/-- One FUSE_POLICY: the row of its POLICY, or of RELEASE, gives it its meaning; other values are BAD_PARAM. -/
def Chip.onPolicy (c : Chip) (id policy : Nat) (release : Bool) (f : Packet → Chip → Chip) : Chip :=
  c.onPacket id 0x301 (fun p c =>
    if 3 < p.u 32 1 ∨ 1 < p.u 34 1 then c.finish p.id stBadParam
    else if p.u 34 1 = b2n release ∧ (release ∨ p.u 32 1 = policy) then f p c else c)

/-- An index bound to another slice, or open to this one. -/
def boundElsewhere (owner : Option Nat) (s : Nat) : Bool := owner.isSome && owner != some s

/-- The alignment context a packet describes. -/
def Packet.alignCtx (p : Packet) : AlignCtx := { slice := p.slice, base := p.u 40 8, log2 := p.u 48 1, obj := p.u 50 2, extrap := p.u 52 4, wait := p.u 56 4 }

/-- A sync object of the slice. -/
def Chip.syncOf (c : Chip) (slice obj : Nat) : Bool := match c.slice? slice with
  | some sl => sl.hasSync obj
  | none => false

/-- POLICY 0: an alignment context. -/
def fusePolicyContext (id : Nat) (c : Chip) : Chip :=
  c.onPolicy id 0 false (fun p c =>
    let i := p.u 33 1
    let x := p.alignCtx
    if 32 ≤ i ∨ !zeroIn p.bytes 35 40 ∨ 2 ^ 48 ≤ x.base ∨ x.log2 < 4 ∨ 12 < x.log2 ∨ p.u 49 1 ≠ 0 ∨ !zeroIn p.bytes 60 128 then c.finish p.id stBadParam
    else if boundElsewhere ((AMap.get? c.cfl.contexts i).map (·.slice)) p.slice ∨ !c.syncOf p.slice x.obj ∨ !c.ownsPages p.slice x.base (64 * 2 ^ x.log2) then c.finish p.id stNotOwner
    else { c with cfl := { c.cfl with contexts := AMap.set c.cfl.contexts i x } }.finish p.id stDone)

def execFusePolicyContext (packet : Nat) (s : State) : Host.Outcome State Fault Refusal := s.on (fusePolicyContext packet)

/-- Fields of a grid's policy, by packet offset. -/
def Grid.u (g : Grid) (off k : Nat) : Nat := bytesU g.policy (off - 32) k
/-- Bytes of one feature. -/
def Grid.esize (g : Grid) : Nat := if g.u 51 1 = 0xB then 2 else 4
/-- Bytes of a grid's cells, and of a whole buffer with its conflict list (32 bytes an entry). -/
def Grid.cellBytes (g : Grid) : Nat := g.u 52 2 * g.u 54 2 * g.u 50 1 * g.esize
def Grid.bufBytes (g : Grid) : Nat := (g.cellBytes + 256 * 32 + 63) / 64 * 64

/-- R226: the ranges of a grid's policy. -/
def Grid.fieldsOk (g : Grid) : Bool :=
  let u := g.u
  let cell := fdec (u 56 4)
  let conf := fdec (u 72 4)
  decide (u 40 8 < 2 ^ 48) && decide (2 ≤ u 48 1) && decide (u 48 1 ≤ 8) && decide (u 49 1 < 4) && decide (1 ≤ u 50 1) && decide (u 50 1 ≤ 64) &&
  (u 49 1 != 3 || u 50 1 == 1) && (u 51 1 == 0xB || u 51 1 == 0xC) && decide (1 ≤ u 52 2) && decide (u 52 2 ≤ 1024) && decide (1 ≤ u 54 2) && decide (u 54 2 ≤ 1024) &&
  flt FVal.zero cell && cell.isFin && decide (u 68 1 < 32) && decide (u 69 1 < 64) && u 70 2 == 0 &&
  fle FVal.zero conf && fle conf (fdec 0x3F800000) && u 78 2 == 0 && decide (u 80 8 < 2 ^ 48) && decide (4 ≤ u 88 1) && decide (u 88 1 ≤ 16) &&
  zeroIn g.policy 57 96 && zeroIn g.policy 3 8

/-- The status of a policy that binds an index: its fields, its owner, what it points at, its context. -/
def Chip.policyStatus (c : Chip) (p : Packet) (ok : Bool) (owner : Option Nat) (obj ctx : Nat) (ranges : List (Nat × Nat)) : Option Nat :=
  if !ok then some stBadParam
  else if boundElsewhere owner p.slice || !c.syncOf p.slice obj || ranges.any (fun r => !c.ownsPages p.slice r.1 r.2) then some stNotOwner
  else match AMap.get? c.cfl.contexts ctx with
    | none => some stBadParam
    | some x => if x.slice = p.slice then none else some stNotOwner

/-- The grid a packet describes. -/
def Packet.grid (p : Packet) : Grid := { slice := p.slice, policy := p.bytes.drop 32 }

/-- What R223 says of a grid's packet. -/
def Chip.gridStatus (c : Chip) (p : Packet) : Option Nat :=
  let g := p.grid
  c.policyStatus p (decide (p.u 33 1 < 4) && g.fieldsOk) ((AMap.get? c.cfl.grids (p.u 33 1)).map (·.slice)) (g.u 76 2) (g.u 68 1)
    [(g.u 40 8, g.bufBytes * g.u 48 1), (g.u 80 8, 64 * 2 ^ g.u 88 1)]

/-- A grid bound to an index; one bound already takes the new policy and keeps what it holds. -/
def Chip.bindGrid (c : Chip) (i : Nat) (g : Grid) : Chip :=
  let g := match AMap.get? c.cfl.grids i with
    | some o => { o with policy := g.policy }
    | none => g
  { c with cfl := { c.cfl with grids := AMap.set c.cfl.grids i g } }

/-- POLICY 1: an L1 grid. -/
def fusePolicyGrid (id : Nat) (c : Chip) : Chip :=
  c.onPolicy id 1 false (fun p c =>
    match c.gridStatus p with
    | some st => c.finish p.id st
    | none => (c.bindGrid (p.u 33 1) p.grid).finish p.id stDone)

def execFusePolicyGrid (packet : Nat) (s : State) : Host.Outcome State Fault Refusal := s.on (fusePolicyGrid packet)

def Tracker.u (t : Tracker) (off k : Nat) : Nat := bytesU t.policy (off - 32) k
/-- Bytes of a tracker's buffer: its track entries and its conflict list. -/
def Tracker.bufBytes (t : Tracker) : Nat := 64 * t.u 68 2 + 256 * 32

/-- R227: the ranges of the tracker's policy. -/
def Tracker.fieldsOk (t : Tracker) : Bool :=
  let u := t.u
  decide (u 40 8 < 2 ^ 48) && decide (2 ≤ u 48 1) && decide (u 48 1 ≤ 8) && decide (u 49 1 < 32) && decide (u 50 1 < 64) && decide (1 ≤ u 51 1) &&
  fle (fdec (u 52 4)) (fdec (u 56 4)) && decide (1 ≤ u 68 2) && decide (u 68 2 ≤ 4096) && decide (u 72 8 < 2 ^ 48) && decide (4 ≤ u 80 1) && decide (u 80 1 ≤ 16) &&
  decide (1 ≤ u 81 1) && u 82 2 == 0 && zeroIn t.policy 56 96 && zeroIn t.policy 3 8

/-- The tracker a packet describes. -/
def Packet.tracker (p : Packet) : Tracker := { slice := p.slice, policy := p.bytes.drop 32 }

/-- What R223 says of the tracker's packet. -/
def Chip.trackerStatus (c : Chip) (p : Packet) : Option Nat :=
  let t := p.tracker
  c.policyStatus p (p.u 33 1 == 0 && t.fieldsOk) (c.cfl.tracker.map (·.slice)) (t.u 70 2) (t.u 49 1)
    [(t.u 40 8, t.bufBytes * t.u 48 1), (t.u 72 8, 64 * 2 ^ t.u 80 1)]

/-- The tracker bound; one bound already takes the new policy, and its tracks beyond a smaller MAX_TRACKS are dropped
with a TRACK_TABLE_FULL event (DEDUCED, log 27). -/
def Chip.bindTracker (c : Chip) (t : Tracker) : Chip :=
  let t' := match c.cfl.tracker with
    | some o => { o with policy := t.policy }
    | none => t
  let lost : Nat := (t'.tracks.filter (fun q => decide (t'.u 68 2 ≤ q.1))).length
  let gone := (t'.tracks.filter (fun q => decide (t'.u 68 2 ≤ q.1))).map (fun q => (false, q.1))
  let t' := { t' with
    tracks := t'.tracks.filter (fun q => decide (q.1 < t'.u 68 2))
    snapshot := t'.snapshot.filter (fun q => decide (q.1 < t'.u 68 2))
    slots := gone ++ t'.slots
    slotsBefore := gone ++ t'.slotsBefore }
  let c := { c with cfl := { c.cfl with tracker := some t' } }.setReg CFL_L2_TRACKS t'.tracks.length
  if lost = 0 then c else c.event t.slice 0x0206 0x1200 0 lost 0

/-- POLICY 2: the tracker. -/
def fusePolicyTracker (id : Nat) (c : Chip) : Chip :=
  c.onPolicy id 2 false (fun p c =>
    match c.trackerStatus p with
    | some st => c.finish p.id st
    | none => (c.bindTracker p.tracker).finish p.id stDone)

def execFusePolicyTracker (packet : Nat) (s : State) : Host.Outcome State Fault Refusal := s.on (fusePolicyTracker packet)

/-- A stream's REVISABLE and LATE_LIMIT set. -/
def FuseStream.setPolicy (s : FuseStream) (revisable limit : Nat) : FuseStream :=
  { s with desc := putAt (putAt s.desc 36 (leBytes 2 (putBits (s.u 36 2) 5 5 revisable))) 56 (leBytes 4 limit) }

/-- POLICY 3: REVISABLE and LATE_LIMIT of a stream. -/
def fusePolicyStream (id : Nat) (c : Chip) : Chip :=
  c.onPolicy id 3 false (fun p c =>
    let n := p.u 33 1
    if 64 ≤ n ∨ !zeroIn p.bytes 35 40 ∨ 1 < p.u 40 1 ∨ !zeroIn p.bytes 41 44 ∨ !zeroIn p.bytes 48 128 then c.finish p.id stBadParam
    else match c.stream? n with
      | none => c.finish p.id stBadParam
      | some s =>
        if s.slice ≠ p.slice then c.finish p.id stNotOwner
        else (c.updStream n (fun s => s.setPolicy (p.u 40 1) (p.u 44 4))).finish p.id stDone)

def execFusePolicyStream (packet : Nat) (s : State) : Host.Outcome State Fault Refusal := s.on (fusePolicyStream packet)

/-- The slice that an index of a policy is bound to. -/
def Chip.policyOwner (c : Chip) (policy i : Nat) : Option Nat :=
  match policy with
  | 0 => (AMap.get? c.cfl.contexts i).map (·.slice)
  | 1 => (AMap.get? c.cfl.grids i).map (·.slice)
  | 2 => if i = 0 then c.cfl.tracker.map (·.slice) else none
  | _ => none

/-- An open stream names the index. -/
def Chip.policyNamed (c : Chip) (policy i : Nat) : Bool :=
  c.cfl.streams.any (fun s => match policy with
    | 0 => s.2.context == i
    | 1 => s.2.l1 && s.2.grid == i
    | _ => s.2.l2)

/-- The index of a policy is free again; a tracker's tracks go with it. -/
def Chip.unbindPolicy (c : Chip) (policy i : Nat) : Chip :=
  match policy with
  | 0 => { c with cfl := { c.cfl with contexts := AMap.del c.cfl.contexts i } }
  | 1 => { c with cfl := { c.cfl with grids := AMap.del c.cfl.grids i } }
  | _ => { c with cfl := { c.cfl with tracker := none } }.setReg CFL_L2_TRACKS 0

/-- The bits of a FUSE_POLICY that its POLICY's table reserves (R11, R223, R226, R227). -/
def Packet.policyReserved (p : Packet) : List (Nat × Nat) :=
  [(35, 40)] ++ (match p.u 32 1 with
    | 0 => [(46, 48), (49, 50), (60, 128)]
    | 1 => [(46, 48), (70, 72), (78, 80), (86, 88), (89, 128)]
    | 2 => [(46, 48), (78, 80), (82, 84), (88, 128)]
    | _ => [(41, 44), (48, 128)])

/-- RELEASE: the index is unbound unless an open stream names it. -/
def fusePolicyRelease (id : Nat) (c : Chip) : Chip :=
  c.onPolicy id 0 true (fun p c =>
    if p.policyReserved.any (fun r => !zeroIn p.bytes r.1 r.2) then c.finish p.id stBadParam
    else match c.policyOwner (p.u 32 1) (p.u 33 1) with
    | none => c.finish p.id stBadParam
    | some o =>
      if o ≠ p.slice then c.finish p.id stNotOwner
      else if c.policyNamed (p.u 32 1) (p.u 33 1) then c.finish p.id stBadParam
      else (c.unbindPolicy (p.u 32 1) (p.u 33 1)).finish p.id stDone)

def execFusePolicyRelease (packet : Nat) (s : State) : Host.Outcome State Fault Refusal := s.on (fusePolicyRelease packet)

/-! ### Cameras (R225) -/

/-- Bytes of a row as the sensor sends it. -/
def FuseStream.rowBytes (s : FuseStream) : Nat :=
  match s.u 68 1 with
  | 0x1E => 2 * s.width
  | 0x2A => s.width
  | 0x2B => (s.width * 10 + 7) / 8
  | _ => (s.width * 12 + 7) / 8

/-- The mark before a column and the one after, and the fraction between them. -/
def markAt (n x : Nat) : Nat × Nat × FVal :=
  let lo := x / 16 * 16
  let hi := min (lo + 16) (n - 1)
  if hi = lo then (x / 16, x / 16, FVal.zero) else (x / 16, x / 16 + 1, fdiv (fnat (x - lo)) (fnat (hi - lo)))

/-- The source coordinate of an output pixel. -/
def sourceAt (w h : Nat) (tab : List Byte) (x y : Nat) : FVal × FVal :=
  let (i0, i1, fx) := markAt w x
  let (j0, j1, fy) := markAt h y
  let cols := gridMarks w
  let e := fun (j i k : Nat) => fdec (bytesU tab (8 * (j * cols + i) + 4 * k) 4)
  let at1 := fun k => flerp (flerp (e j0 i0 k) (e j0 i1 k) fx) (flerp (e j1 i0 k) (e j1 i1 k) fx) fy
  (at1 0, at1 1)

/-- A component of a received UYVY row: 0 Y of a pixel, 1 U and 2 V of its pair (DEDUCED, log 27). -/
def uyvyAt (row : List Byte) (k x : Nat) : Nat :=
  if k = 0 then bytesU row (2 * x + 1) 1 else bytesU row (4 * (x / 2) + 2 * (k - 1)) 1

/-- An output component, sampled bilinearly; none while one of its rows has not come, zero outside the image. -/
def undistorted (s : FuseStream) (tab : List Byte) (rows : AMap (List Byte)) (k x y : Nat) : Option Nat :=
  let (u, v) := sourceAt s.width s.height tab x y
  if crOutside s.width u || crOutside s.height v then some 0
  else
    let (x0, x1, fx) := crAxis s.width u
    let (y0, y1, fy) := crAxis s.height v
    match AMap.get? rows y0, AMap.get? rows y1 with
    | some a, some b =>
      let px := fun row i => fnat (uyvyAt row k i)
      let v := flerp (flerp (px a x0) (px a x1) fx) (flerp (px b x0) (px b x1) fx) fy
      some (convInt 1 .rne none 0 v).bits
    | _, _ => none

/-- One component byte of an output row of YUYV: its number gives the component and the pixel whose place it samples. -/
def yuyvByte (s : FuseStream) (tab : List Byte) (rows : AMap (List Byte)) (y i : Nat) : Option Nat :=
  if i % 2 = 0 then undistorted s tab rows 0 (i / 2) y else undistorted s tab rows (if i % 4 = 1 then 1 else 2) (i / 4 * 2) y

/-- R225: the output pixels that the rows received so far give, written to the buffer. -/
def Chip.undistort (c : Chip) (s : FuseStream) (f : FuseFrame) : Chip :=
  let (tab, c) := c.cflRead s.slice (s.u 104 8) (8 * gridMarks s.width * gridMarks s.height)
  (List.range s.height).foldl (fun c y =>
    (List.range (2 * s.width)).foldl (fun c i =>
      match yuyvByte s tab f.rows y i with
      | some v => c.cflWrite s.slice (s.bufAddr f.buf + y * 2 * s.width + i) [BitVec.ofNat 8 v]
      | none => c) c) c

/-- The latest frame of a stream whose edge has come. -/
def FuseStream.current (s : FuseStream) (now : Nat) : Option FuseFrame := (s.frames.filter (fun f => decide (f.edge ≤ now))).getLast?

/-- Without a trigger a frame's edge is the whole multiple of FRAME_PERIOD before its first data (DEDUCED, log 27); the
stream takes none before its first boundary after it opened, and stops at one when it closes (R220, R222). -/
def Chip.freeFrame (c : Chip) (n : Nat) : Chip :=
  match c.stream? n with
  | none => c
  | some s =>
    let p := s.u 40 4
    let e := if p = 0 then c.now else c.now / p * p
    if s.trigEn ∨ e < s.opened ∨ (s.current c.now).any (fun f => f.edge == e) then c
    else if s.closing ≠ [] then c.boundary n
    else if (s.current c.now).any (fun f => !f.ended && !f.cut && (f.items != 0 || (c.cutOff s f.edge).isNone)) then c
    else c.beginFrom n e

/-- A good row of a frame: its time is taken, and it goes to the buffer, or through undistortion at L0. -/
def Chip.takeRow (c : Chip) (n : Nat) (s : FuseStream) (f : FuseFrame) (row : Nat) (b : List Byte) : Chip :=
  let v := ((f.validity : Int) + ((row : Int) - (s.height / 2 : Nat)) * sx 32 (s.u 48 4)).toNat
  let f := { f with rows := AMap.set f.rows row b, oldest := some (earlier v (f.oldest.getD v)), quality := max f.quality c.quality }
  let c := c.updFrame n f.edge (fun _ => f)
  if s.l0 then c.undistort s f else c.cflWrite s.slice (s.bufAddr f.buf + row * s.rowBytes) b

/-- R225, R233: a row arrives with its CSI-2 verdict: 0 good, 1 header ECC, 2 CRC.  After its frame's cut-off it is late:
kept for a revision of a REVISABLE stream, else dropped with the frame's late data. -/
def cameraRow (n row verdict : Nat) (b : List Byte) (c : Chip) : Chip :=
  let c := c.freeFrame n
  match c.stream? n with
  | none => c
  | some s =>
    if s.kind ≠ 0 then c
    else if verdict = 1 then c.streamBad n 0
    else if verdict = 2 then c.streamBad n 1
    else if s.height ≤ row ∨ b.length ≠ s.rowBytes then c.streamBad n 3
    else match s.current c.now with
      | none => c
      | some f =>
        if f.ended ∨ (f.cut ∧ !s.revisable) then c else c.takeRow n s f row b

def execCameraRow (stream row verdict : Nat) (data : List Byte) (s : State) : Host.Outcome State Fault Refusal :=
  s.on (cameraRow stream row verdict data)

/-- R225: a camera frame ends.  A camera frame's oldest time is its own validity (R218). -/
def cameraFrameEnd (n : Nat) (c : Chip) : Chip :=
  match c.stream? n with
  | none => c
  | some s =>
    match s.current c.now with
    | none => c
    | some f =>
      if s.kind ≠ 0 ∨ f.ended then c
      else
        let c := if f.cut then c.lateOver n f true
          else (c.updFrame n f.edge (fun f => { f with ended := true, oldest := none })).publishEnded n
        c.boundary n

def execCameraFrameEnd (stream : Nat) (s : State) : Host.Outcome State Fault Refusal := s.on (cameraFrameEnd stream)

/-! ### Lidars (R218, R225) -/

/-- The number that big-endian bytes spell. -/
def beNat (l : List Byte) : Nat := l.foldl (fun a b => a * 256 + b.toNat) 0

def FuseStream.pointBytes (s : FuseStream) : Nat := if bitOf (s.u 180 1) 0 then 8 else 16

/-- The packet's time stamp (Table — Kind fields). -/
def FuseStream.packetTime (s : FuseStream) (b : List Byte) : Nat :=
  let t := (b.drop (s.u 176 2)).take 8
  if bitOf (s.u 180 1) 1 then beNat t else leNat t

/-- A point of a packet as FP32 patterns, in metres. -/
def FuseStream.pointAt (s : FuseStream) (b : List Byte) (i : Nat) : Nat × Nat × Nat :=
  let o := s.u 178 2 + i * s.pointBytes
  if bitOf (s.u 180 1) 0 then
    let m := fun k => fenc (fdiv (fint (sx 16 (bytesU b (o + 2 * k) 2))) (fnat 1000))
    (m 0, m 1, m 2)
  else (bytesU b o 4, bytesU b (o + 4) 4, bytesU b (o + 8) 4)

/-- The edge of the sweep that a time falls in. -/
def Chip.sweepEdge (c : Chip) (s : FuseStream) (t : Nat) : Nat :=
  let p := c.framePeriod s
  let e0 := if s.trigEn then c.reg (CFL_TRIG_START s.trigger) else 0
  if p = 0 then t else if t < e0 then e0 - (e0 - t + p - 1) / p * p else e0 + (t - e0) / p * p

/-- A sweep with points whose successor has begun is complete: it is published, or, after its cut-off, its late data is
complete. -/
def Chip.endSweeps (c : Chip) (n edge : Nat) : Chip :=
  match c.stream? n with
  | none => c
  | some s =>
    ((s.frames.filter (fun f => decide (f.edge < edge) && !f.ended && decide (0 < f.points))).foldl (fun c f =>
      if f.cut then c.lateOver n f true else c.updFrame n f.edge (fun f => { f with ended := true })) c).publishEnded n

/-- The window of a camera frame's points holds this time (R225). -/
def Chip.inWindow (c : Chip) (l : FuseStream) (frame v : Nat) : Bool :=
  timeBefore frame (v + c.halfPeriod l) && !timeBefore (frame + c.halfPeriod l) v

/-- Camera frames that a lidar's points project into, published already though the window holds this time (R225). -/
def Chip.lateForCameras (c : Chip) (l : FuseStream) (v : Nat) : List (Nat × FuseFrame) :=
  c.cfl.streams.flatMap (fun p =>
    if !bitOf l.projMask p.1 then [] else (p.2.frames.filter (fun f => f.published && c.inWindow l f.validity v)).map (fun f => (p.1, f)))

/-- The records of such frames that no revision reaches any more, each with its camera. -/
def Chip.pastForCameras (c : Chip) (l : FuseStream) (v : Nat) : List (Nat × PastFrame) :=
  c.cfl.streams.flatMap (fun p =>
    if !bitOf l.projMask p.1 then [] else (p.2.past.filter (fun f => c.inWindow l f.validity v)).map (fun f => (p.1, f)))

/-- The sweep of edge `e` is open, where points may still begin it; the sweeps before it are over. -/
def Chip.openSweep (c : Chip) (n : Nat) (s : FuseStream) (e : Nat) : Chip :=
  let c := c.endSweeps n e
  if s.closing ≠ [] ∧ !s.frames.any (fun f => f.edge == e) then c.boundary n
  else if s.frames.any (fun f => f.edge == e) ∨ e < s.opened ∨ s.frames.any (fun f => decide (e < f.edge)) then c
  else if s.trigEn then c.beginFrame n e
  else c.beginFrom n e

/-- Points late for a camera's record and dropped: the lidar and the camera both count them (R225, R233). -/
def Chip.dropPoints (c : Chip) (n : Nat) (s : FuseStream) (e camera seq v cause : Nat) : Chip :=
  (c.lateDrop n seq v (c.now - (c.cutOff s e).getD c.now) cause).updStream camera (fun x => { x with dropped := x.dropped + 1 })

/-- The points of a packet kept for the depth planes of cameras, and what that makes of frames published already. -/
def Chip.keepPoints (c : Chip) (n : Nat) (s : FuseStream) (e v : Nat) (b : List Byte) : Chip :=
  let pts := (List.range s.width).map (s.pointAt b)
  let set : PointSet := { validity := v, arrived := c.now, quality := c.quality, points := pts }
  let keepFrom := v - 4 * c.framePeriod s
  let c := c.updStream n (fun s => { s with kept := (s.kept.filter (fun k => !timeBefore k.validity keepFrom)) ++ [set] })
  let c := (c.pastForCameras s v).foldl (fun c p => c.dropPoints n s e p.1 p.2.seq v (if s.revisable then 1 else 0)) c
  let c := (c.lateForCameras s v).foldl (fun c p =>
    if s.revisable then c.updFrame p.1 p.2.edge (fun f => { f with cut := true, lateBy := some n })
    else c.dropPoints n s e p.1 p.2.seq v 0) c
  c.cfl.streams.foldl (fun c p => if bitOf s.projMask p.1 then c.publishEnded p.1 else c) c

/-- The points of a packet taken into their sweep, as many as there is room for. -/
def Chip.takePoints (c : Chip) (n : Nat) (s : FuseStream) (f : FuseFrame) (v : Nat) (b : List Byte) : Chip :=
  let k := min (min s.width (64 * s.height - f.points)) ((s.u 80 4 - f.points * s.pointBytes) / s.pointBytes)
  let c := c.cflWrite s.slice (s.bufAddr f.buf + f.points * s.pointBytes) ((b.drop (s.u 178 2)).take (k * s.pointBytes))
  let c := c.updFrame n f.edge (fun f => { f with points := f.points + k, oldest := some (earlier v (f.oldest.getD v)), quality := max f.quality c.quality })
  if s.l0 then c.keepPoints n s f.edge v b else c

/-- The validity time of a packet's points (R218). -/
def FuseStream.packetValidity (s : FuseStream) (b : List Byte) : Nat := ((s.packetTime b : Int) + s.validOffset).toNat

/-- The sweep's cut-off has passed (R232). -/
def Chip.sweepLate (c : Chip) (s : FuseStream) (e : Nat) : Bool := match c.cutOff s e with
  | some t => decide (t < c.now)
  | none => false

/-- Points of a sweep that is no longer held: late ones are dropped, as SUPERSEDED where the stream is REVISABLE, with the
SEQUENCE of the sweep's record. -/
def Chip.gonePoints (c : Chip) (n : Nat) (s : FuseStream) (e v : Nat) : Chip :=
  if e < s.opened ∨ !c.sweepLate s e then c
  else c.lateDrop n (((s.past.find? (fun f => f.validity == c.frameValidity s e)).map (·.seq)).getD 0) v (c.now - (c.cutOff s e).getD c.now) (if s.revisable then 1 else 0)

/-- Points of a sweep whose record is published: before the cut-off they are stored (DEDUCED, log 27); after it they are
late, and revise the record of a REVISABLE stream (R232 to R234). -/
def Chip.endedPoints (c : Chip) (n : Nat) (s : FuseStream) (f : FuseFrame) (v : Nat) (b : List Byte) : Chip :=
  if !c.sweepLate s f.edge then c.takePoints n s f v b
  else if s.revisable then (c.takePoints n s f v b).updFrame n f.edge (fun f => { f with cut := true })
  else c.lateDrop n f.seq v (c.now - (c.cutOff s f.edge).getD c.now) 0

/-- R225, R232: a lidar packet: its points are timed, stored in the sweep they belong to, and kept for the depth planes of
the cameras; camera frames that waited for it may now be complete. -/
def lidarPacket (n : Nat) (b : List Byte) (c : Chip) : Chip :=
  match c.stream? n with
  | none => c
  | some s =>
    let len := s.width * s.pointBytes
    if s.kind ≠ 1 then c
    else if b.length < s.u 178 2 + len ∨ b.length < s.u 176 2 + 8 then c.streamBad n 3
    else
      let v := s.packetValidity b
      let e := c.sweepEdge s v
      let c := c.openSweep n s e
      match c.stream? n with
      | none => c
      | some s =>
        match s.frames.find? (fun f => f.edge == e) with
        | none => c.gonePoints n s e v
        | some f =>
          if f.ended then c.endedPoints n s f v b
          else if f.cut ∧ !s.revisable then c
          else c.takePoints n s f v b

def execLidarPacket (stream : Nat) (data : List Byte) (s : State) : Host.Outcome State Fault Refusal := s.on (lidarPacket stream data)

/-! ### IMU and wheel speed (R217, R218, R231) -/

/-- The frame of an IMU stream whose sample is due. -/
def Chip.dueSample (c : Chip) (s : FuseStream) : Option FuseFrame := s.frames.find? (fun f => !f.ended && decide (f.edge + s.u 184 4 ≤ c.now))

/-- The read of the sample on its port. -/
def Chip.spiRead (c : Chip) (s : FuseStream) : Chip := c.send (.spi (s.u 34 1) (s.u 35 1)) ((leBytes 4 (s.u 176 4)).take (s.u 180 1))

/-- The record of a sample and its contribution. -/
def Chip.publishSample (c : Chip) (n : Nat) (s : FuseStream) (f : FuseFrame) (raw : List Byte) : Chip :=
  let seq := s.sequence
  let c := c.publishL0 n f.validity f.validity c.quality flValid 0 none raw
  let c := c.updFrame n f.edge (fun f => { f with ended := true, published := true, seq := seq })
  let c := c.contribute { stream := n, validity := f.validity, oldest := f.validity, seq := seq, data := 0, items := 0, l2 := false, arrived := c.now, quality := c.quality }
  (c.forgetFrames n).boundary n

/-- R217: READ_DELAY after its edge, the IMU sample is read over SPI and recorded. -/
def imuSample (n : Nat) (b : List Byte) (c : Chip) : Chip :=
  let c := c.freeFrame n
  match c.stream? n with
  | none => c
  | some s =>
    match c.dueSample s with
    | none => c
    | some f =>
      if s.kind ≠ 2 then c
      else if f.cut then (((c.spiRead s).updFrame n f.edge (fun f => { f with raw := b.take (s.u 181 1) })).lateOver n f true).boundary n
      else (c.spiRead s).publishSample n s f (b.take (s.u 181 1))

def execImuSample (stream : Nat) (data : List Byte) (s : State) : Host.Outcome State Fault Refusal := s.on (imuSample stream data)

/-- R217, R218: a CAN frame of a WHEEL stream is recorded with its start-of-frame time. -/
def Chip.wheelFrame (c : Chip) (n time : Nat) (b : List Byte) : Chip :=
  match c.stream? n with
  | none => c
  | some s =>
    if c.fuseOff s.slice then c else
    let v := ((time : Int) + s.validOffset).toNat
    let seq := s.sequence
    let c := c.publishL0 n v v c.quality flValid 0 none (b.take 32)
    c.contribute { stream := n, validity := v, oldest := v, seq := seq, data := 0, items := 0, l2 := false, arrived := c.now, quality := c.quality }

/-- R219: the frame goes to the WHEEL streams of its controller whose acceptance filter takes it; what a filter takes the
spec does not say, and is a free value of the filter and the identifier (log 115). -/
def Chip.wheelFrames (c : Chip) (controller idw time : Nat) (b : List Byte) : Chip :=
  (c.cfl.streams.filter (fun p => p.2.kind == 3 && p.2.u 34 1 == controller && Config.acceptanceFilter controller (p.2.u 35 1) idw)).foldl (fun c p => c.wheelFrame p.1 time b) c

/-! ### Injected contributions (R221, R232) -/

/-- R221: a contribution descriptor breaks its table, or its kind does not match the stream. -/
def injectBad (s : FuseStream) (b : List Byte) : Bool :=
  let u := bytesU b
  let kind := u 28 4
  decide (u 0 8 < u 8 8) || decide (2 ^ 48 ≤ u 16 8) || decide (2 < kind) || !zeroIn b 36 64 ||
  (kind == 0 && (!s.l1 || decide (1048576 < u 24 4))) || (kind == 1 && (!s.l2 || decide (4096 < u 24 4))) || (kind == 2 && (s.l1 || s.l2))

/-- R232: the device time from which a contribution of this validity is late at L0. -/
def FuseStream.injectCut (s : FuseStream) (v : Nat) : Option Nat := if s.lateLimit = 0xFFFFFFFF then none else some (v + s.lateLimit)

/-- A stream may read its next descriptor: IN_OBJ covers it, and it is neither closing nor stopped. -/
def Chip.injectReady (c : Chip) (s : FuseStream) : Bool :=
  s.kind == 4 && s.closing.isEmpty && !c.fuseOff s.slice && decide (s.taken + 1 ≤ syncCount (c.sync (s.u 186 2)))

/-- The next descriptor read. -/
def Chip.injectHead (c : Chip) (n : Nat) (s : FuseStream) : List Byte × Chip :=
  let (b, c) := c.cflRead s.slice (s.u 176 8 + 64 * (s.taken % 2 ^ s.u 184 1)) 64
  (b, c.updStream n (fun s => { s with taken := s.taken + 1 }))

/-- A contribution of this validity comes after its cut-off. -/
def Chip.injectLate (c : Chip) (s : FuseStream) (v : Nat) : Bool := match s.injectCut v with
  | some t => timeBefore t c.now
  | none => false

/-- Why a republication is dropped: it is older than the last record, for records ascend, or its revisions are used up
(R229, R234; log 114 for one that is not late). -/
def FuseStream.staleRevision (s : FuseStream) (v : Nat) : Option Nat :=
  match s.last with
  | some (lv, r) => if timeBefore v lv then some 1 else if v = lv ∧ 255 ≤ r then some 2 else none
  | none => none

/-- A descriptor of kind 2 published at L0: REVISION is 0 for the first record of its validity and else one higher, and a
late one is a revision. -/
def Chip.injectPublish (c : Chip) (n : Nat) (s : FuseStream) (b : List Byte) (late : Bool) : Chip :=
  let u := bytesU b
  let v := u 0 8
  let rev := match s.last with
    | some (lv, r) => if lv = v then r + 1 else 0
    | none => 0
  let c := c.count (CFL_CONTRIBS n) CFL_CONTRIBS.COUNT 1
  let c := c.publishL0 n v (u 8 8) c.quality (flValid + (if late then flLateRevision else 0)) rev (some (u 16 8, u 24 4)) []
  if late then (c.count (CFL_REVISIONS n) CFL_REVISIONS.COUNT 1).event s.slice 0x0202 (0x1000 + n) s.sequence v rev else c

/-- The contribution a descriptor of kind 0 or 1 describes. -/
def Chip.injected (c : Chip) (n : Nat) (b : List Byte) : Contrib :=
  let u := bytesU b
  { stream := n, validity := u 0 8, oldest := u 8 8, seq := u 32 4, data := u 16 8, items := u 24 4, l2 := u 28 1 == 1, arrived := c.now, quality := c.quality }

/-- R221: the next descriptor is read once IN_OBJ covers it: bad, late, republished, or on its way to L1 or L2. -/
def injectContribution (n : Nat) (c : Chip) : Chip :=
  match c.stream? n with
  | none => c
  | some s =>
    if !c.injectReady s then c
    else
      let (b, c) := c.injectHead n s
      let v := bytesU b 0 8
      let late := c.injectLate s v
      let drop := fun cause => c.lateDrop n (bytesU b 32 4) v (c.now - (s.injectCut v).getD c.now) cause
      if injectBad s b then c.streamBad n 2
      else if bytesU b 28 1 = 2 then
        if late && !s.revisable then drop 0
        else match s.staleRevision v with
          | some k => drop k
          | none => c.injectPublish n s b late
      else if late && !s.revisable then (drop 0).levelMiss (c.injected n b)
      else c.contributeTo (c.injected n b)

def execInjectContribution (stream : Nat) (s : State) : Host.Outcome State Fault Refusal := s.on (injectContribution stream)

/-! ### The L0 cut-off (R232, R233) -/

/-- The first edge of a stream without a trigger that never started and whose cut-off has passed. -/
def Chip.missedFrame (c : Chip) (s : FuseStream) : Option Nat :=
  let p := c.framePeriod s
  if 2 < s.kind ∨ s.trigEn ∨ p = 0 ∨ s.closing ≠ [] then none
  else
    let next := match s.frames.getLast? with
      | some f => f.edge + p
      | none => (s.opened + p - 1) / p * p
    match c.cutOff s next with
    | some t => if t ≤ c.now then some next else none
    | none => none

/-- A frame that never started stands as one from its cut-off on. -/
def Chip.beginMissed (c : Chip) (n : Nat) (s : FuseStream) : Chip := match c.missedFrame s with
  | some e => c.beginFrame n e
  | none => c

/-- The first frame of a stream that its cut-off finds unpublished. -/
def Chip.cutFrame (c : Chip) (s : FuseStream) : Option FuseFrame :=
  s.frames.find? (fun f => !f.published && (match c.cutOff s f.edge with
    | some t => decide (t ≤ c.now)
    | none => false))

/-- The INVALID record of a frame with what has come of it: its rows or points, or the bytes of a sample (none). -/
def Chip.publishCut (c : Chip) (n : Nat) (s : FuseStream) (f : FuseFrame) : Chip :=
  let old := if s.kind = 1 then f.oldest.getD f.validity else f.validity
  let q := max f.quality c.quality
  let items := if s.kind = 2 then none else some (s.bufAddr f.buf, f.items)
  let c := c.publishL0 n f.validity old q (flInvalid + flDroppedInput) 0 items []
  (c.updFrame n f.edge (fun f => { f with published := true, cut := true, seq := s.sequence })).publishEnded n

/-- The edge after a stream's last frame has passed, where no trigger brings it: a closing stream stands at a boundary. -/
def Chip.boundaryPast (c : Chip) (s : FuseStream) : Bool :=
  (!s.trigEn || !c.flag (CFL_TRIG_CTRL s.trigger) CFL_TRIG_CTRL.EN) && s.frames.all (fun f => decide (f.edge + c.framePeriod s ≤ c.now))

/-- R232: at its cut-off a frame is published INVALID with what has come of it; an ended camera frame that waits only for
lidar points is published as it is.  A closing stream whose next boundary has passed is closed (R222). -/
def lateCutoff (n : Nat) (c : Chip) : Chip :=
  match c.stream? n with
  | none => c
  | some s0 =>
    let c := c.beginMissed n s0
    let c := match c.stream? n with
      | none => c
      | some s =>
        match c.cutFrame s with
        | none => c
        | some f => if f.ended then c.publishEnded n else c.publishCut n s f
    if c.boundaryPast s0 then c.boundary n else c

def execLateCutoff (stream : Nat) (s : State) : Host.Outcome State Fault Refusal := s.on (lateCutoff stream)

end Sys2Proof.Machine
end

