-- ==== Sys2Proof/Machine/Fusion.lean ====
section
/-!
DEFINITION. Confluence's levels L1 and L2: cycles, grids, the tracker, conflicts and late revisions
(08 R224, R226 to R228, R231, R234 to R237).
-/

namespace Sys2Proof.Machine

/-! ### Inputs of a cycle (R228) -/

/-- The contribution feeds grid `i`. -/
def Chip.feedsGrid (c : Chip) (i : Nat) (k : Contrib) : Bool :=
  !k.l2 && (match c.stream? k.stream with
    | some s => s.l1 && s.grid == i
    | none => false)

/-- Into the list in order of validity, then stream. -/
def insertContrib (k : Contrib) : List Contrib → List Contrib
  | [] => [k]
  | q :: l => if timeBefore k.validity q.validity = true ∨ (k.validity = q.validity ∧ k.stream < q.stream) then k :: q :: l else q :: insertContrib k l

/-- R228: the contributions a cycle takes: those at or before V in validity order, ties to the lower stream, and the
anchor's last. -/
def cycleInputs (anchor : Contrib) (l : List Contrib) : List Contrib :=
  ((l.filter (fun k => !timeBefore anchor.validity k.validity && k != anchor)).foldr insertContrib []) ++ [anchor]

/-- The pose of a contribution in a context; none while a newer sample is waited for. -/
def Chip.contribPose (c : Chip) (ctx : Nat) (k : Contrib) : Option Pose × Chip :=
  match k.pose with
  | some p => (some p, c)
  | none => c.alignAt ctx k.validity (c.waitedOut ctx k.arrived)

/-- Every input with its pose, or none while one waits. -/
def Chip.alignInputs (c : Chip) (ctx : Nat) : List Contrib → Option (List (Contrib × Pose)) × Chip
  | [] => (some [], c)
  | k :: l =>
    match c.contribPose ctx k with
    | (none, c) => (none, c)
    | (some p, c) =>
      match Chip.alignInputs c ctx l with
      | (none, c) => (none, c)
      | (some r, c) => (some ((k, p) :: r), c)

/-- A contribution that waits to be aligned in a context. -/
def Chip.alignsIn (c : Chip) (ctx : Nat) (k : Contrib) : Bool :=
  if k.l2 then (match c.cfl.tracker with
    | some t => t.u 49 1 == ctx
    | none => false)
  else (match c.stream? k.stream with
    | some s => match AMap.get? c.cfl.grids s.grid with
      | some g => g.u 68 1 == ctx
      | none => false
    | none => false)

/-- The waiting contributions of a context whose ALIGN_WAIT is over, aligned with what poses there are. -/
def Chip.alignExpired (c : Chip) (ctx : Nat) : Chip :=
  let (l, c) := c.cfl.waiting.foldl (fun (acc : List Contrib × Chip) k =>
    let (l, c) := acc
    if c.alignsIn ctx k && k.pose.isNone && c.waitedOut ctx k.arrived then
      let (p, c) := c.alignAt ctx k.validity true
      (l ++ [{ k with pose := p }], c)
    else (l ++ [k], c)) ([], c)
  { c with cfl := { c.cfl with waiting := l } }

/-- The camera frames of a context that waited for a pose are published where they can be. -/
def Chip.publishWaiting (c : Chip) (ctx : Nat) : Chip :=
  c.cfl.streams.foldl (fun c p => if p.2.kind = 0 ∧ p.2.context = ctx then c.publishEnded p.1 else c) c

/-- R224: ALIGN_WAIT has passed for contributions of a context: they are aligned with what poses there are. -/
def alignWaitExpiry (ctx : Nat) (c : Chip) : Chip := (c.alignExpired ctx).publishWaiting ctx

/-- The cycle after this one, anchored at `v`, of a level with `bufs` buffers (R228). -/
def Cycle.after (y : Cycle) (v bufs : Nat) (ins : List Contrib) : Cycle :=
  { y with v := some v, before := y.v, buf := if y.v.isNone then 0 else (y.buf + 1) % max 1 bufs, revision := 0, inputs := ins, missed := y.missed.filter (fun m => !timeBefore m v) }

/-- Contributions that a cycle takes wait no more. -/
def Chip.takeInputs (c : Chip) (ins : List Contrib) : Chip :=
  { c with cfl := { c.cfl with waiting := c.cfl.waiting.filter (fun k => !ins.contains k) } }

def execAlignWaitExpiry (context : Nat) (s : State) : Host.Outcome State Fault Refusal := s.on (alignWaitExpiry context)

/-- The flags that poses bring. -/
def poseFlags (l : List Pose) : Nat :=
  (if l.any (·.degraded) then flDegraded else 0) + (if l.any (·.extrapolated) then flExtrapolated else 0)

/-- A conflict entry (R237). -/
def conflictEntry (kind a b index partner distance seqA seqB validityB : Nat) : List Byte :=
  leBytes 1 kind ++ leBytes 1 a ++ leBytes 1 b ++ leBytes 1 0 ++ leBytes 4 index ++ leBytes 4 partner ++ leBytes 4 distance ++
  leBytes 4 seqA ++ leBytes 4 seqB ++ leBytes 8 validityB

/-- R229 to R231, R237: the record of a level, and its CONFLICT event. -/
def Chip.publishLevel (c : Chip) (slice producer base log2 obj : Nat) (cy : Cycle) (v oldest quality flags buf items conflicts conflictAddr : Nat) (anyConflict : Bool) : Chip :=
  let q := max quality c.quality
  let fl := flags + flValid + flHoldover q + c.partFlags + (if anyConflict then flConflict else 0) + (if cy.missed.contains v then flDroppedInput else 0)
  let b := recordHead v (timeSince c.now oldest) producer cy.revision q cy.sequence fl 32 ++
    recordBody buf items cy.dropped conflicts cy.inputs.length (if conflicts = 0 then 0 else conflictAddr)
  let c := c.putRecord cflMaster slice base log2 cy.sequence obj b
  if anyConflict then c.event slice 0x0203 producer cy.sequence conflicts v else c

/-! ### L1 (R226, R236) -/

/-- One item added to its cell. -/
def Grid.addItem (g : Grid) (k : Contrib) (cell : GridCell) (fs : List Nat) : GridCell :=
  let f := fs.map (fun b => if g.u 51 1 = 0xB then fp16.decode b else fdec b)
  let old := fun i => fdec (cell.vals.getD i 0)
  match g.u 49 1 with
  | 1 => { cell with count := cell.count + 1, vals := f.mapIdx (fun i x => fenc (fminmax true (old i) x)) }
  | 3 =>
    let x := f.getD 0 FVal.zero
    let new : CellConf := { value := fenc (if flt x FVal.zero then fneg x else x), stream := k.stream, seq := k.seq, validity := k.validity }
    let keep := fun (o : Option CellConf) => match o with
      | some w => if flt (fdec w.value) (fdec new.value) then some new else some w
      | none => some new
    let cell := { cell with count := cell.count + 1 }
    if flt FVal.zero x then { cell with occ := keep cell.occ }
    else if flt x FVal.zero then { cell with free := keep cell.free }
    else cell
  | _ => { cell with count := cell.count + 1, vals := f.mapIdx (fun i x => fenc (fa (old i) x)) }

/-- Bytes of one item. -/
def Grid.stride (g : Grid) : Nat := (16 + g.u 50 1 * g.esize + 15) / 16 * 16

/-- The cell of a point; none outside the grid. -/
def Grid.cellOf (g : Grid) (v : V3) : Option Nat :=
  let cell := fdec (g.u 56 4)
  let x := fdiv (fsub v.1 (fdec (g.u 60 4))) cell
  let y := fdiv (fsub v.2.1 (fdec (g.u 64 4))) cell
  if !x.isFin || !y.isFin then none
  else
    let i := ffloor x
    let j := ffloor y
    if i < 0 ∨ j < 0 ∨ (g.u 52 2 : Int) ≤ i ∨ (g.u 54 2 : Int) ≤ j then none else some (j.toNat * g.u 52 2 + i.toNat)

/-- The items of a contribution scattered into the cells; the count of those outside. -/
def Grid.scatter (g : Grid) (pv p : Pose) (k : Contrib) (b : List Byte) : List Nat → Grid × Nat
  | [] => (g, 0)
  | i :: l =>
    let o := i * g.stride
    let v := carryPoint p pv (fdec (bytesU b o 4), fdec (bytesU b (o + 4) 4), fdec (bytesU b (o + 8) 4))
    match g.cellOf v with
    | none => let (g, n) := Grid.scatter g pv p k b l; (g, n + 1)
    | some cell =>
      let fs := (List.range (g.u 50 1)).map (fun j => bytesU b (o + 16 + j * g.esize) g.esize)
      Grid.scatter { g with cells := AMap.upd g.cells cell {} (fun x => g.addItem k x fs) } pv p k b l

/-- Every input scattered in order. -/
def Chip.scatterAll (c : Chip) (i : Nat) (pv : Pose) : List (Contrib × Pose) → Grid → Grid × Chip
  | [], g => (g, c)
  | (k, p) :: l, g =>
    let (b, c) := c.cflRead g.slice k.data (k.items * g.stride)
    let (g, n) := g.scatter pv p k b (List.range k.items)
    Chip.scatterAll (c.count (CFL_L1_OUTSIDE i) CFL_L1_OUTSIDE.COUNT n) i pv l g

/-- R236: both confidences of a cell, when they are in conflict. -/
def Grid.conflict (g : Grid) (x : GridCell) : Option (CellConf × CellConf) :=
  match x.occ, x.free with
  | some a, some b =>
    let lim := fdec (g.u 72 4)
    if a.stream ≠ b.stream ∧ flt lim (fdec a.value) ∧ flt lim (fdec b.value) then some (a, b) else none
  | _, _ => none

/-- The bytes of a cell as it is published. -/
def Grid.cellBytesOf (g : Grid) (x : GridCell) : List Byte :=
  let put := fun (v : FVal) => leBytes g.esize (if g.u 51 1 = 0xB then fp16.encode .rne false v else fenc v)
  match g.u 49 1 with
  | 3 =>
    let val := fun (o : Option CellConf) => match o with
      | some w => fdec w.value
      | none => FVal.zero
    put (if (g.conflict x).isSome then .nan else fsub (val x.occ) (val x.free))
  | 2 => (List.range (g.u 50 1)).flatMap (fun i => put (if x.count = 0 then FVal.zero else fdiv (fdec (x.vals.getD i 0)) (fnat x.count)))
  | _ => (List.range (g.u 50 1)).flatMap (fun i => put (fdec (x.vals.getD i 0)))

/-- The conflict list of a grid, in cell order. -/
def Grid.conflicts (g : Grid) : List (List Byte) :=
  if g.u 49 1 ≠ 3 then []
  else g.cells.filterMap (fun p => (g.conflict p.2).map (fun (a, b) =>
    conflictEntry 1 a.stream b.stream p.1 0xFFFFFFFF (if flt (fdec a.value) (fdec b.value) then a.value else b.value) a.seq b.seq b.validity))

/-- The grid's buffer and record published. -/
def Chip.publishGrid (c : Chip) (i : Nat) (g : Grid) (v flags : Nat) : Chip :=
  let buf := g.u 40 8 + g.cycle.buf * g.bufBytes
  let cells := (List.range (g.u 52 2 * g.u 54 2)).flatMap (fun k => g.cellBytesOf (AMap.getD g.cells k {}))
  let con := g.conflicts
  let c := c.cflWrite g.slice buf (cells ++ (con.take 256).flatten ++ List.replicate (g.bufBytes - g.cellBytes - 32 * (min con.length 256)) 0)
  let oldest := (g.cycle.inputs.map (·.oldest)).foldl earlier v
  let q := (g.cycle.inputs.map (·.quality)).foldl max 0
  let fl := flags + (if g.degraded then flDegraded else 0) + (if g.extrapolated then flExtrapolated else 0)
  let c := c.publishLevel g.slice (0x1100 + i) (g.u 80 8) (g.u 88 1) (g.u 76 2) g.cycle v oldest q fl buf (g.u 52 2 * g.u 54 2) con.length (buf + g.cellBytes) (!con.isEmpty)
  let g := { g with cycle := { g.cycle with sequence := g.cycle.sequence + 1, dropped := 0 } }
  { c with cfl := { c.cfl with grids := AMap.set c.cfl.grids i g } }

/-- The contributions that wait for a grid, and the anchor's among them. -/
def Chip.gridWaiting (c : Chip) (i : Nat) : List Contrib := c.cfl.waiting.filter (c.feedsGrid i)
def Chip.gridAnchor (c : Chip) (i : Nat) (g : Grid) : Option Contrib := (c.gridWaiting i).find? (fun k => k.stream == g.u 69 1)

/-- A cycle of a grid over aligned inputs: the cells cleared and scattered into, and the record. -/
def Chip.gridCycle (c : Chip) (i : Nat) (g : Grid) (v : Nat) (ins : List Contrib) (ps : List (Contrib × Pose)) (pv : Pose) : Chip :=
  let g := { g with cells := [], degraded := ps.any (·.2.degraded), extrapolated := ps.any (·.2.extrapolated) }
  let (g, c) := (c.takeInputs ins).scatterAll i pv ps g
  c.publishGrid i { g with cycle := g.cycle.after v (g.u 48 1) ins } v 0

/-- R226, R228: the anchor's contribution has arrived: the grid takes what is pending, scatters it, and publishes. -/
def l1Cycle (i : Nat) (c : Chip) : Chip :=
  match AMap.get? c.cfl.grids i with
  | none => c
  | some g =>
    match c.gridAnchor i g with
    | none => c
    | some a =>
      match c.alignInputs (g.u 68 1) (cycleInputs a (c.gridWaiting i)) with
      | (none, _) => c
      | (some ps, c') =>
        match ps.getLast? with
        | none => c'
        | some (_, pv) => c'.gridCycle i g a.validity (cycleInputs a (c.gridWaiting i)) ps pv

def execL1Cycle (grid : Nat) (s : State) : Host.Outcome State Fault Refusal := s.on (l1Cycle grid)

/-! ### L2 (R227, R235) -/

/-- The sum of products of two rows, left to right. -/
def dotRow : List FVal → List FVal → FVal
  | a :: l, b :: m => l.zip m |>.foldl (fun s p => fa s (fm p.1 p.2)) (fm a b)
  | _, _ => FVal.zero

def Track.xs (t : Track) (i : Nat) : FVal := fdec (t.x.getD i 0)
def Track.ps (t : Track) (i j : Nat) : FVal := fdec (t.p.getD (4 * i + j) 0)

/-- Step 1: a track carried to a time by the constant-velocity model. -/
def Track.predict (t : Track) (q : FVal) (v : Nat) : Track :=
  if v = t.stands then t
  else
    let dt := fseconds ((v : Int) - t.stands)
    let x := fun i => if i < 2 then fa (t.xs i) (fm dt (t.xs (i + 2))) else t.xs i
    -- F P, then (F P) Fᵀ
    let fp := fun i j => if i < 2 then fa (t.ps i j) (fm dt (t.ps (i + 2) j)) else t.ps i j
    let fpf := fun i j => if j < 2 then fa (fp i j) (fm (fp i (j + 2)) dt) else fp i j
    let d2 := fm dt dt
    let noise := fun (i j : Nat) =>
      if i % 2 ≠ j % 2 then FVal.zero
      else if i < 2 ∧ j < 2 then fm q (fdiv (fm d2 dt) (fnat 3))
      else if i < 2 ∨ j < 2 then fm q (fdiv d2 (fnat 2))
      else fm q dt
    { t with stands := v, x := (List.range 4).map (fun i => fenc (x i)), p := (List.range 16).map (fun k => fenc (fa (fpf (k / 4) (k % 4)) (noise (k / 4) (k % 4)))) }

/-- A detection in the odometry frame: position, covariance, class, confidence. -/
structure Detection where
  x : FVal
  y : FVal
  vx : FVal
  vy : FVal
  cov : FVal
  cls : Nat
  conf : Nat
  deriving DecidableEq, Repr

/-- A covariance turned by an angle's cosine and sine. -/
def turnCov (co si vx vy cv : FVal) : FVal × FVal × FVal :=
  let cc := fm co co
  let ss := fm si si
  let cs := fm co si
  let two := fnat 2
  (fa (fsub (fm cc vx) (fm (fm two cs) cv)) (fm ss vy),
   fa (fa (fm ss vx) (fm (fm two cs) cv)) (fm cc vy),
   fa (fm cs (fsub vx vy)) (fm (fsub cc ss) cv))

/-- Step 2: a detection turned by yaw and offset. -/
def detectionAt (p : Pose) (b : List Byte) (i : Nat) : Detection :=
  let f := fun k => fdec (bytesU b (32 * i + 4 * k) 4)
  let co := fcos (p.f 5)
  let si := fsin (p.f 5)
  let (vx, vy, cv) := turnCov co si (f 2) (f 3) (f 4)
  { x := fa (p.f 0) (fsub (fm co (f 0)) (fm si (f 1))), y := fa (p.f 1) (fa (fm si (f 0)) (fm co (f 1))), vx := vx, vy := vy, cov := cv, cls := bytesU b (32 * i + 20) 2, conf := bytesU b (32 * i + 24) 4 }

/-- S⁻¹ of a pair: its three entries. -/
def pairInverse (t : Track) (d : Detection) : FVal × FVal × FVal :=
  let a := fa (t.ps 0 0) d.vx
  let b := fa (t.ps 0 1) d.cov
  let e := fa (t.ps 1 1) d.vy
  let det := fsub (fm a e) (fm b b)
  (fdiv e det, fneg (fdiv b det), fdiv a det)

/-- Step 3: the distance of a pair. -/
def pairDistance (t : Track) (d : Detection) : FVal :=
  let (ia, ib, ie) := pairInverse t d
  let y0 := fsub d.x (t.xs 0)
  let y1 := fsub d.y (t.xs 1)
  fsqrt (fa (fm y0 (fa (fm ia y0) (fm ib y1))) (fm y1 (fa (fm ib y0) (fm ie y1))))

/-- The Kalman update of a track with a detection. -/
def Track.update (t : Track) (k : Contrib) (d : Detection) (confirm : Nat) : Track :=
  let (ia, ib, ie) := pairInverse t d
  let y0 := fsub d.x (t.xs 0)
  let y1 := fsub d.y (t.xs 1)
  let g0 := fun i => fa (fm (t.ps i 0) ia) (fm (t.ps i 1) ib)
  let g1 := fun i => fa (fm (t.ps i 0) ib) (fm (t.ps i 1) ie)
  let hits := min 255 (t.hits + 1)
  { t with
    x := (List.range 4).map (fun i => fenc (fa (t.xs i) (fa (fm (g0 i) y0) (fm (g1 i) y1))))
    p := (List.range 16).map (fun n => fenc (fsub (t.ps (n / 4) (n % 4)) (fa (fm (g0 (n / 4)) (t.ps 0 (n % 4))) (fm (g1 (n / 4)) (t.ps 1 (n % 4))))))
    updated := k.validity
    seq := k.seq
    lastStream := k.stream
    lastOldest := k.oldest
    hits := hits
    misses := 0
    quality := max t.quality k.quality
    confirmed := t.confirmed || decide (confirm ≤ hits)
    cls := d.cls
    conf := d.conf }

/-- A tentative track started from a detection. -/
def newTrack (k : Contrib) (d : Detection) (velVar : Nat) : Track :=
  let z := 0
  { x := [fenc d.x, fenc d.y, z, z], p := [fenc d.vx, fenc d.cov, z, z, fenc d.cov, fenc d.vy, z, z, z, z, velVar, z, z, z, z, velVar], stands := k.validity, updated := k.validity, seq := k.seq, lastStream := k.stream, lastOldest := k.oldest, hits := 0, cls := d.cls, conf := d.conf, quality := k.quality }

/-- A pair with its distance: detection, track, d. -/
abbrev Pair := Nat × Nat × FVal

/-- The nearer pair; ties go to the lower detection, then the lower track. -/
def nearer (p q : Pair) : Pair :=
  if flt q.2.2 p.2.2 then q
  else if flt p.2.2 q.2.2 then p
  else if q.1 < p.1 ∨ (q.1 = p.1 ∧ q.2.1 < p.2.1) then q else p

/-- Step 4: pairs assigned greedily, at most `n` of them. -/
def assignPairs : Nat → List Pair → List Pair
  | 0, _ => []
  | n + 1, l =>
    match l with
    | [] => []
    | p :: rest =>
      let b := rest.foldl nearer p
      b :: assignPairs n (l.filter (fun q => q.1 != b.1 && q.2.1 != b.2.1))

/-- What a contribution's run through the tracker gathers: the tracks touched, conflict entries, dropped detections. -/
structure L2Run where
  tracks : AMap Track
  touched : List Nat := []
  conflicts : List (List Byte) := []
  dropped : Nat := 0
  /-- The tracker's slots given and freed. -/
  slots : List (Bool × Nat)
  deriving DecidableEq, Repr

/-- Step 5 and R235: an unassigned detection conflicts with the nearest track of step 3, or starts a track in a free slot.
Which slot is a free value of the slots given and freed before, so the same contributions in the same order give the same
tracks (log 28). -/
def Tracker.unassigned (t : Tracker) (k : Contrib) (d : Detection) (near : List Pair) (r : L2Run) : L2Run :=
  let free := (List.range (t.u 68 2)).filter (fun i => (AMap.get? r.tracks i).isNone)
  match free with
  | [] => { r with dropped := r.dropped + 1 }
  | s0 :: _ =>
    let slot := free.getD (Config.newTrackSlot r.slots free % free.length) s0
    let new := newTrack k d (t.u 84 4)
    let add := fun (n : Track) => { r with tracks := AMap.set r.tracks slot n, touched := slot :: r.touched, slots := (true, slot) :: r.slots }
    match near with
    | [] => add new
    | p :: rest =>
      let b := rest.foldl nearer p
      match AMap.get? r.tracks b.2.1 with
      | none => add new
      | some o =>
        if flt (fdec (t.u 52 4)) b.2.2 && fle b.2.2 (fdec (t.u 56 4)) && o.lastStream != k.stream && !timeBefore (o.updated + t.u 60 4) k.validity then
          let r := add { new with partner := some b.2.1 }
          { r with
            tracks := AMap.set r.tracks b.2.1 { o with partner := some slot }
            conflicts := r.conflicts ++ [conflictEntry 0 k.stream o.lastStream slot b.2.1 (fenc b.2.2) k.seq o.seq o.updated] }
        else add new

/-- R227: one contribution through the tracker. -/
def Chip.trackContrib (c : Chip) (t : Tracker) (k : Contrib) (p : Pose) (r : L2Run) : L2Run × Chip :=
  let (b, c) := c.cflRead t.slice k.data (32 * k.items)
  let tracks := r.tracks.map (fun q => (q.1, q.2.predict (fdec (t.u 64 4)) k.validity))
  let dets := (List.range k.items).map (fun i => (i, detectionAt p b i))
  let gate := fdec (t.u 52 4)
  let pairs := dets.flatMap (fun d => tracks.map (fun q => ((d.1, q.1, pairDistance q.2 d.2) : Pair)))
  let asg := assignPairs k.items (pairs.filter (fun x => fle x.2.2 gate))
  let tracks := asg.foldl (fun m a =>
    match AMap.get? m a.2.1, dets[a.1]? with
    | some q, some d => AMap.set m a.2.1 (q.update k d.2 (t.u 81 1))
    | _, _ => m) tracks
  let r := { r with tracks := tracks, touched := asg.map (·.2.1) ++ r.touched }
  (dets.foldl (fun r d => if asg.any (fun a => a.1 == d.1) then r else t.unassigned k d.2 (pairs.filter (fun x => x.1 == d.1)) r) r, c)

/-- The end of a cycle: misses, deletions, and the partnerships that end with them. -/
def Tracker.endCycle (t : Tracker) (r : L2Run) : AMap Track :=
  let m := r.tracks.map (fun p => (p.1, if r.touched.contains p.1 then p.2 else { p.2 with misses := min 256 (p.2.misses + 1) }))
  let live := m.filter (fun p => decide (p.2.misses ≤ t.u 51 1))
  live.map (fun p => (p.1, { p.2 with partner := p.2.partner.filter (fun q => live.any (fun x => x.1 == q)) }))

/-- R231: a track's entry in the vehicle frame at V. -/
def trackEntry (p : Pose) (n : Nat) (t : Track) : List Byte :=
  let co := fcos (p.f 5)
  let si := fneg (fsin (p.f 5))
  let turn := fun x y => (fsub (fm co x) (fm si y), fa (fm si x) (fm co y))
  let (x, y) := turn (fsub (t.xs 0) (p.f 0)) (fsub (t.xs 1) (p.f 1))
  let (vx, vy) := turn (t.xs 2) (t.xs 3)
  let (cx, cy, cc) := turnCov co si (t.ps 0 0) (t.ps 1 1) (t.ps 0 1)
  let f := fun v => leBytes 4 (fenc v)
  leBytes 2 n ++ leBytes 1 (b2n t.confirmed) ++ leBytes 1 (b2n t.partner.isSome) ++ f x ++ f y ++ f vx ++ f vy ++ f cx ++ f cy ++ f cc ++
  leBytes 8 t.lastOldest ++ leBytes 1 t.lastStream ++ leBytes 1 t.hits ++ leBytes 1 t.misses ++ leBytes 1 0 ++
  leBytes 2 (t.partner.getD 0xFFFF) ++ leBytes 2 t.cls ++ leBytes 4 t.conf ++ List.replicate 12 0

/-- A cycle of the tracker over aligned inputs, from given tracks, and its record. -/
def Chip.runTracker (c : Chip) (t : Tracker) (ps : List (Contrib × Pose)) (v flags : Nat) (pv : Pose) : Chip :=
  let (r, c) := ps.foldl (fun (acc : L2Run × Chip) k => acc.2.trackContrib t k.1 k.2 acc.1) ({ tracks := t.tracks, slots := t.slots }, c)
  let tracks := t.endCycle r
  let freed := (r.tracks.filter (fun p => (AMap.get? tracks p.1).isNone)).map (fun p => (false, p.1))
  let buf := t.u 40 8 + t.cycle.buf * t.bufBytes
  let c := c.cflWrite t.slice buf (tracks.flatMap (fun p => trackEntry pv p.1 p.2))
  let con := t.u 68 2 * 64 + buf
  let c := c.cflWrite t.slice con (r.conflicts.take 256).flatten
  let c := c.setReg CFL_L2_TRACKS tracks.length
  let c := c.count CFL_L2_CONFLICTS CFL_L2_CONFLICTS.COUNT r.conflicts.length
  let c := if r.dropped = 0 then c else c.event t.slice 0x0206 0x1200 0 r.dropped 0
  let olds := tracks.map (·.2.lastOldest)
  let oldest := olds.foldl earlier (olds.headD ((t.cycle.inputs.map (·.oldest)).foldl earlier v))
  let q := (t.cycle.inputs.map (·.quality) ++ tracks.map (·.2.quality)).foldl max 0
  let fl := flags + poseFlags (ps.map (·.2))
  let any := !r.conflicts.isEmpty || tracks.any (fun p => p.2.partner.isSome)
  let c := c.publishLevel t.slice 0x1200 (t.u 72 8) (t.u 80 1) (t.u 70 2) t.cycle v oldest q fl buf tracks.length r.conflicts.length con any
  let t := { t with tracks := tracks, slots := freed ++ r.slots, cycle := { t.cycle with sequence := t.cycle.sequence + 1, dropped := 0 } }
  { c with cfl := { c.cfl with tracker := some t } }

/-- The contributions that wait for the tracker, and the anchor's among them. -/
def Chip.trackWaiting (c : Chip) : List Contrib := c.cfl.waiting.filter (·.l2)
def Chip.trackAnchor (c : Chip) (t : Tracker) : Option Contrib := c.trackWaiting.find? (fun k => k.stream == t.u 50 1)

/-- A cycle of the tracker over aligned inputs, its tracks kept as they stood before it. -/
def Chip.trackCycle (c : Chip) (t : Tracker) (v : Nat) (ins : List Contrib) (ps : List (Contrib × Pose)) (pv : Pose) : Chip :=
  (c.takeInputs ins).runTracker { t with snapshot := t.tracks, slotsBefore := t.slots, cycle := t.cycle.after v (t.u 48 1) ins } ps v 0 pv

/-- R227, R228: the anchor's contribution has arrived: the tracker keeps a snapshot, takes what is pending, and
publishes. -/
def l2Cycle (c : Chip) : Chip :=
  match c.cfl.tracker with
  | none => c
  | some t =>
    match c.trackAnchor t with
    | none => c
    | some a =>
      match c.alignInputs (t.u 49 1) (cycleInputs a c.trackWaiting) with
      | (none, _) => c
      | (some ps, c') =>
        match ps.getLast? with
        | none => c'
        | some (_, pv) => c'.trackCycle t a.validity (cycleInputs a c.trackWaiting) ps pv

def execL2Cycle (s : State) : Host.Outcome State Fault Refusal := s.on l2Cycle

/-! ### Late revisions (R234) -/

/-- What stops a revision: 1 SUPERSEDED, 2 REVISION_LIMIT. -/
def Cycle.stops (y : Cycle) (k : Contrib) : Option Nat :=
  if (match y.before with
    | some b => !timeBefore b k.validity
    | none => false) then some 1
  else if 255 ≤ y.revision then some 2 else none

/-- A late contribution waits no more. -/
def Chip.lateTaken (c : Chip) (k : Contrib) : Chip := { c with cfl := { c.cfl with late := c.cfl.late.erase k } }

/-- The revision is counted and told (R234). -/
def Chip.revised (c : Chip) (stream slice producer seq v rev : Nat) : Chip :=
  (c.count (CFL_REVISIONS stream) CFL_REVISIONS.COUNT 1).event slice 0x0202 producer seq v rev

/-- A frame whose late data has had its effect. -/
def Chip.doneRevising (c : Chip) (n : Nat) (f : FuseFrame) : Chip :=
  (c.updFrame n f.edge (fun f => { f with cut := false, lateBy := none })).forgetFrames n

/-- The late data of a frame dropped. -/
def Chip.dropLateFrame (c : Chip) (n : Nat) (s : FuseStream) (f : FuseFrame) (cause : Nat) : Chip :=
  c.lateDrop (f.lateBy.getD n) f.seq f.validity (c.now - (c.cutOff s f.edge).getD c.now) cause

/-- A frame's record again, with a higher revision. -/
def Chip.republish (c : Chip) (n : Nat) (s : FuseStream) (f : FuseFrame) (fl quality rev : Nat) : Chip :=
  let old := if s.kind = 1 then f.oldest.getD f.validity else f.validity
  let items := if s.kind = 2 then none else some (s.bufAddr f.buf, f.items)
  let c := c.publishL0 n f.validity old (max f.quality quality) (flValid + flLateRevision + fl) rev items f.raw
  (c.updFrame n f.edge (fun f => { f with seq := s.sequence })).revised (f.lateBy.getD n) s.slice (0x1000 + n) s.sequence f.validity rev

/-- L0: the frame is complete now: its record again. -/
def Chip.reviseStream (c : Chip) (n : Nat) : Chip :=
  match c.stream? n with
  | none => c
  | some s =>
    match s.frames.find? (fun f => f.cut && f.ended) with
    | none => c
    | some f =>
      match s.last with
      | none => c.doneRevising n f
      | some (v, r) =>
        if timeBefore f.validity v then (c.dropLateFrame n s f 1).doneRevising n f
        else if 255 ≤ r then (c.dropLateFrame n s f 2).doneRevising n f
        else match c.depthPlane n s f with
          | (none, c) => c
          | (some (fl, q), c) => (c.republish n s f fl q (r + 1)).doneRevising n f

/-- A grid's buffer of V with one more contribution, published again. -/
def Chip.gridAgain (c : Chip) (i : Nat) (g : Grid) (k : Contrib) (p pv : Pose) (v : Nat) : Chip :=
  let g := { g with degraded := g.degraded || p.degraded, extrapolated := g.extrapolated || p.extrapolated }
  let (g, c) := c.scatterAll i pv [(k, p)] g
  let g := { g with cycle := { g.cycle with revision := g.cycle.revision + 1, inputs := g.cycle.inputs ++ [k] } }
  let c := c.publishGrid i g v flLateRevision
  c.revised k.stream g.slice (0x1100 + i) g.cycle.sequence v g.cycle.revision

/-- L1: the late contribution is scattered into the buffer of V. -/
def Chip.reviseGrid (c : Chip) (i : Nat) : Chip :=
  match AMap.get? c.cfl.grids i, c.cfl.late.find? (c.feedsGrid i) with
  | some g, some k =>
    let gone := c.lateTaken k
    match g.cycle.stops k, g.cycle.v with
    | some cause, _ => gone.dropLevel k cause
    | none, none => gone
    | none, some v =>
      match gone.contribPose (g.u 68 1) k with
      | (none, _) => c
      | (some p, c') =>
        match c'.alignAt (g.u 68 1) v true with
        | (none, _) => c
        | (some pv, c) => c.gridAgain i g k p pv v
  | _, _ => c

/-- The tracker's cycle of V again, from the tracks before it. -/
def Chip.trackAgain (c : Chip) (t : Tracker) (k : Contrib) (ins : List Contrib) (ps : List (Contrib × Pose)) (pv : Pose) (v : Nat) : Chip :=
  let t := { t with tracks := t.snapshot, slots := t.slotsBefore, cycle := { t.cycle with revision := t.cycle.revision + 1, inputs := ins } }
  let c := c.runTracker t ps v flLateRevision pv
  c.revised k.stream t.slice 0x1200 t.cycle.sequence v t.cycle.revision

/-- The last cycle is taken again with a late contribution among its inputs; where a pose still has to come, the part stays as
`old` is. -/
def Chip.trackLate (c old : Chip) (t : Tracker) (k : Contrib) (ins : List Contrib) (v : Nat) : Chip :=
  match c.alignInputs (t.u 49 1) ins with
  | (none, _) => old
  | (some ps, c) =>
    match ps.getLast? with
    | none => c
    | some (_, pv) => c.trackAgain t k ins ps pv v

/-- L2: the snapshot is restored and the cycle of V runs again with the late contribution among its inputs. -/
def Chip.reviseTracker (c : Chip) : Chip :=
  match c.cfl.tracker, c.cfl.late.find? (·.l2) with
  | some t, some k =>
    let gone := c.lateTaken k
    match t.cycle.stops k, t.cycle.v, t.cycle.inputs.getLast? with
    | some cause, _, _ => gone.dropLevel k cause
    | none, some v, some a => gone.trackLate c t k (cycleInputs a (k :: t.cycle.inputs.dropLast)) v
    | _, _, _ => gone
  | _, _ => c

/-- R234: the first late contribution of a producer revises its product. -/
def lateRevision (producer : Nat) (c : Chip) : Chip :=
  if 0x1000 ≤ producer ∧ producer < 0x1040 then c.reviseStream (producer - 0x1000)
  else if 0x1100 ≤ producer ∧ producer < 0x1104 then c.reviseGrid (producer - 0x1100)
  else if producer = 0x1200 then c.reviseTracker
  else c

def execLateRevision (producer : Nat) (s : State) : Host.Outcome State Fault Refusal := s.on (lateRevision producer)

end Sys2Proof.Machine
end

