-- ==== Sys2Proof/Machine/SafeOut.lean ====
section
/-!
DEFINITION. The safety outputs: their profiles, records and watches, release and force of a function group, the
safe-state message, telltales and takeover (11 R285 to R308).
-/

namespace Sys2Proof.Machine

/-- The island's master (R17). -/
def islandMaster : Nat := 0x48

def Chip.output? (c : Chip) (i : Nat) : Option Output := AMap.get? c.safe.outputs i

/-- The registers of an output show what the island keeps of it (R316). -/
def Chip.showOutput (c : Chip) (i : Nat) : Chip :=
  match c.output? i with
  | none => c
  | some o =>
    let c := c.setReg (SAF_OUT_STATUS i) (o.slice * 2 ^ 8 + o.group * 16 + b2n o.met * 8 + b2n o.shadow * 4 + b2n o.armed * 2 + 1)
    c.setReg (SAF_OUT_DEADLINE i) (o.first + o.k * o.period)

def Chip.setOutput (c : Chip) (i : Nat) (o : Output) : Chip :=
  Chip.showOutput { c with safe := { c.safe with outputs := AMap.set c.safe.outputs i o } } i

/-- An event to slice 0 and to the slice of an output (R315). -/
def Chip.safeEvent (c : Chip) (s code source seq d0 d1 : Nat) : Chip :=
  let c := c.event 0 code source seq d0 d1
  if s = 0 then c else c.event s code source seq d0 d1

/-! ### Profiles (R292) -/

/-- The bytes of tensor entry `t` of a profile. -/
def tensorEntry (prof : List Byte) (t : Nat) : List Byte := (prof.drop (32 + 32 * t)).take 32
def profTensors (prof : List Byte) : Nat := bytesU prof 4 1
def tMode (e : List Byte) : Nat := bytesU e 0 1
def tBinding (e : List Byte) : Nat := bytesU e 1 1
def tFmt (e : List Byte) : Nat := bytesU e 2 1 % 16
def tNanEqual (e : List Byte) : Bool := bitOf (bytesU e 2 1) 4
def tOrdered (e : List Byte) : Bool := bitOf (bytesU e 2 1) 5
def tOffset (e : List Byte) : Nat := bytesU e 4 4
def tCount (e : List Byte) : Nat := bytesU e 8 4
def tMaxViol (e : List Byte) : Nat := bytesU e 20 4
def tClasses (e : List Byte) : Nat := bytesU e 24 2
def tK (e : List Byte) : Nat := bytesU e 26 1
/-- Bytes of the tensor in each channel, rounded up for INT4. -/
def tBytes (e : List Byte) : Nat := packedLen (tFmt e) (tCount e)

/-- A tolerance: finite and not negative. -/
def tolOk (b : Nat) : Bool := (fdec b).isFin && !(fdec b).neg

def tensorOk (e : List Byte) : Bool :=
  decide (tMode e < 4) && decide (tBinding e < 16) && [0, 1, 2, 3, 4, 0xA, 0xB, 0xC, 0xD].contains (tFmt e) && decide (bytesU e 2 1 < 64) &&
  bytesU e 3 1 == 0 && decide (1 ≤ tCount e) && decide (tCount e ≤ 2 ^ 28) && tolOk (bytesU e 12 4) && tolOk (bytesU e 16 4) && zeroIn e 27 32 &&
  (tMode e != 2 || (decide (2 ≤ tClasses e) && tCount e % tClasses e == 0 && decide (1 ≤ tK e) && decide (tK e ≤ 16) && decide (tK e < tClasses e)))

def profileOk (prof : List Byte) : Bool :=
  bytesU prof 0 4 == 0x57454952 && decide (1 ≤ profTensors prof) && decide (profTensors prof ≤ 16) && zeroIn prof 5 32 &&
  (List.range (profTensors prof)).all (fun t => tensorOk (tensorEntry prof t))

/-! ### SAFE_PROFILE_SET (R286, R287) -/

/-- One operation of SAFE_PROFILE_SET: its row when OP is its own; a reserved OP is BAD_PARAM. -/
def Chip.onSafeOp (c : Chip) (id op : Nat) (f : Packet → Chip → Chip) : Chip :=
  c.onPacket id 0x500 (fun p c =>
    if 5 < p.u 32 1 then c.finish p.id stBadParam
    else if p.u 32 1 = op then f p c else c)

/-- The fields of OP 0 are legal (R286). -/
def Packet.outputFields (p : Packet) : Bool :=
  decide (p.u 33 1 < 32) && decide (p.u 34 1 < 64) && decide (p.u 35 1 < 16) && decide (1000000 ≤ p.u 36 4) && decide (p.u 36 4 ≤ 2000000000) &&
    decide (p.u 48 8 < 2 ^ 48) && decide (p.u 56 8 < 2 ^ 48) && p.u 56 8 % 4096 == 0 && decide (4 ≤ p.u 64 1) && decide (p.u 64 1 ≤ 16) && p.u 65 1 == 0 && zeroIn p.bytes 68 128

/-- The output that OP 0 configures, with its profile; a shadow one is not armed before a takeover. -/
def Packet.output (p : Packet) (b : List Byte) : Output :=
  let g := p.u 35 1
  { slice := p.u 34 1, group := g % 4, shadow := bitOf g 2, arm := bitOf g 3, armed := bitOf g 3 && !bitOf g 2, period := p.u 36 4, first := p.u 40 8, profile := b, recBase := p.u 56 8, recLog2 := p.u 64 1, signalObj := p.u 66 2 }

/-- An armed output that takes a new profile, record ring, slice and signal object (R468). -/
def Packet.swapped (p : Packet) (o : Output) (b : List Byte) : Output :=
  { o with slice := p.u 34 1, profile := b, recBase := p.u 56 8, recLog2 := p.u 64 1, signalObj := p.u 66 2 }

/-- An output whose watch is armed. -/
def Chip.armed? (c : Chip) (i : Nat) : Option Output := match c.output? i with
  | some o => if o.armed then some o else none
  | none => none

/-- OP 0 may go on to its profile: its fields, an output that is not armed (or is swapped), a first deadline ahead. -/
def Chip.outputMay (c : Chip) (swap : Bool) (p : Packet) : Bool :=
  p.outputFields && ((c.armed? (p.u 33 1)).isNone || swap) &&
  ((c.armed? (p.u 33 1)).isSome || !bitOf (p.u 35 1) 3 || !timeBefore (p.u 40 8) (c.now + 1000000)) && c.ownsPages 0 (p.u 48 8) 32

/-- The island reads a Weir profile: its header, then the entries that the header counts (R286, R292). -/
def Chip.loadProfile (c : Chip) (a : Nat) : Served × List Byte × Chip :=
  match c.loadRange islandMaster 0 a 32 with
  | (.ok, h, c) =>
    let r := c.loadRange islandMaster 0 (a + 32) (32 * min 16 (profTensors h))
    (r.1, h ++ r.2.1, r.2.2)
  | r => r

/-- OP 0, judged and carried out: an output configured, its profile copied.  With `swap` (R468) an armed output takes the
profile, record ring, slice and signal object alone; without it, it is refused. -/
def Chip.outputSet (c : Chip) (swap : Bool) (p : Packet) : Nat × Chip :=
  let i := p.u 33 1
  if !c.outputMay swap p then (stBadParam, c)
  else match c.slice? (p.u 34 1) with
    | none => (stBadParam, c)
    | some sl =>
      let old := c.armed? i
      match c.loadProfile (p.u 48 8) with
      | (.denied, _, c) => (stBadParam, c)
      | (.uncorrectable, _, c) => (stUncorrectable, c)
      | (.ok, b, c) =>
        if !profileOk b then (stBadParam, c)
        else if !sl.hasSync (p.u 66 2) || !c.ownsPages (p.u 34 1) (p.u 56 8) (64 * 2 ^ p.u 64 1) then (stNotOwner, c)
        else (stDone, c.setOutput i (match old with
          | some o => p.swapped o b
          | none => p.output b))

def outputSet (id : Nat) (c : Chip) : Chip :=
  c.onSafeOp id 0 (fun p c =>
    let (st, c) := c.outputSet false p
    c.finish p.id st)

def execOutputSet (packet : Nat) (s : State) : Host.Outcome State Fault Refusal := s.on (outputSet packet)

/-- OP 1: the output's watch is cleared. -/
def Chip.outputDisarm (c : Chip) (p : Packet) : Nat × Chip :=
  let i := p.u 33 1
  if 32 ≤ i ∨ !zeroIn p.bytes 34 128 then (stBadParam, c)
  else match c.output? i with
    | none => (stDone, c)
    | some o => (stDone, if o.armed then c.setOutput i { o with arm := false, armed := false, met := false } else c)

def outputDisarm (id : Nat) (c : Chip) : Chip :=
  c.onSafeOp id 1 (fun p c =>
    let (st, c) := c.outputDisarm p
    c.finish p.id st)

def execOutputDisarm (packet : Nat) (s : State) : Host.Outcome State Fault Refusal := s.on (outputDisarm packet)

/-- The first k whose deadline lies at or after `t`. -/
def Output.firstAfter (o : Output) (t : Nat) : Nat :=
  if timeBefore o.first t then (timeDiff t o.first + o.period - 1) / o.period else 0

/-- R304: release of a function group; with the island held in reset, or the part detached, SAFE_N stay asserted (R318,
R455). -/
def Chip.releaseGroup (c : Chip) (f : Nat) : Chip :=
  if !c.inSafe f || c.flag SAF_ISLAND_STATUS SAF_ISLAND_STATUS.HELD || c.fld LNK_TWIN_STATUS LNK_TWIN_STATUS.STATE == 4 then c
  else
    let cause := c.fld (SAF_GROUP_CAUSE f) SAF_GROUP_CAUSE.CAUSE
    let source := c.fld (SAF_GROUP_CAUSE f) SAF_GROUP_CAUSE.SOURCE
    let c := c.setFld SAF_GROUP_STATE SAF_GROUP_STATE.SAFE (putBits (c.fld SAF_GROUP_STATE SAF_GROUP_STATE.SAFE) f f 0)
    let c := c.setSafeN f false
    let c := c.safeMessage 2 cause source 0 c.now
    let c := (c.safe.outputs.filter (fun p => p.2.group == f)).foldl (fun c p =>
      let o := { p.2 with missed := false }
      c.setOutput p.1 (if o.armed then { o with k := o.firstAfter (c.now + o.period), met := false } else o)) c
    (c.groupSlices f).foldl (fun c s => c.event s 0x0405 f 0 0 0) c

/-- OP 2. -/
def groupRelease (id : Nat) (c : Chip) : Chip :=
  c.onSafeOp id 2 (fun p c =>
    if 4 ≤ p.u 33 1 ∨ !zeroIn p.bytes 34 128 then c.finish p.id stBadParam
    else (c.releaseGroup (p.u 33 1)).finish p.id stDone)

def execGroupRelease (packet : Nat) (s : State) : Host.Outcome State Fault Refusal := s.on (groupRelease packet)

/-- OP 3. -/
def groupForce (id : Nat) (c : Chip) : Chip :=
  c.onSafeOp id 3 (fun p c =>
    if 4 ≤ p.u 33 1 ∨ !zeroIn p.bytes 34 128 then c.finish p.id stBadParam
    else (c.enterSafe (p.u 33 1) ssForced 0xFF 0).finish p.id stDone)

def execGroupForce (packet : Nat) (s : State) : Host.Outcome State Fault Refusal := s.on (groupForce packet)

/-- The fields of OP 4 are legal (R303). -/
def Packet.messageFields (p : Packet) : Bool :=
  p.u 33 1 == 0 && bitsOf (p.u 34 1) 6 4 == 0 && decide (p.u 35 1 ≤ 1) && bitsOf (p.u 36 4) 30 29 == 0 && (bitOf (p.u 36 4) 31 || decide (bitsOf (p.u 36 4) 28 0 < 2 ^ 11)) &&
    decide (p.u 40 8 < 2 ^ 48) && decide (p.u 48 2 < 2 ^ 15) && p.u 51 1 == 0 && (p.u 52 4 == 0 || (decide (100 ≤ p.u 52 4) && decide (p.u 52 4 ≤ 10000))) && zeroIn p.bytes 58 128

/-- The safe-state message that OP 4 configures. -/
def Packet.message (p : Packet) : MessageCfg :=
  { can := p.u 34 1 % 16, canEn := bitOf (p.u 34 1) 7, ethEn := p.u 35 1 == 1, canId := p.u 36 4, destMac := p.u 40 8, vlan := p.u 48 2, ports := p.u 50 1, repeatMs := if p.u 52 4 = 0 then 1000 else p.u 52 4, key := p.u 56 2 }

/-- OP 4: the safe-state message. -/
def Chip.messageSet (c : Chip) (p : Packet) : Nat × Chip :=
  if p.messageFields then (stDone, { c with safe := { c.safe with message := some p.message, nextRepeat := c.now + p.message.repeatMs * 1000000 } })
  else (stBadParam, c)

def messageSet (id : Nat) (c : Chip) : Chip :=
  c.onSafeOp id 4 (fun p c =>
    let (st, c) := c.messageSet p
    c.finish p.id st)

def execMessageSet (packet : Nat) (s : State) : Host.Outcome State Fault Refusal := s.on (messageSet packet)

/-- The telltale watch that OP 5 configures. -/
def Packet.telltale (p : Packet) : Telltale :=
  { group := p.u 34 1 % 4, enabled := bitOf (p.u 34 1) 7, limit := if p.u 35 1 = 0 then 2 else p.u 35 1 }

/-- OP 5: the telltale watch of a pipe. -/
def Chip.telltaleSet (c : Chip) (p : Packet) : Nat × Chip :=
  if 4 ≤ p.u 33 1 ∨ bitsOf (p.u 34 1) 6 2 ≠ 0 ∨ 8 < p.u 35 1 ∨ !zeroIn p.bytes 36 128 then (stBadParam, c)
  else (stDone, { c with safe := { c.safe with telltales := AMap.set c.safe.telltales (p.u 33 1) p.telltale } })

def telltaleSet (id : Nat) (c : Chip) : Chip :=
  c.onSafeOp id 5 (fun p c =>
    let (st, c) := c.telltaleSet p
    c.finish p.id st)

def execTelltaleSet (packet : Nat) (s : State) : Host.Outcome State Fault Refusal := s.on (telltaleSet packet)

/-- A stored payload of SAFE_PROFILE_SET, bytes 32 to 127, as the packet it stands for. -/
def safetyPacket (b : List Byte) : Packet := { id := 0, slice := 0, ring := 0, bytes := List.replicate 32 0 ++ b }

/-- A stored payload applied: those of OP 0, 1, 4 and 5 (R466); a release or force is no stored payload. -/
def Chip.applySafety (c : Chip) (swap : Bool) (b : List Byte) : Nat × Chip :=
  let p := safetyPacket b
  match p.u 32 1 with
  | 0 => c.outputSet swap p
  | 1 => c.outputDisarm p
  | 4 => c.messageSet p
  | 5 => c.telltaleSet p
  | _ => (stBadParam, c)

/-- R307: a pipe's frame with or without a mismatch in an enabled region. -/
def Chip.telltaleFrame (c : Chip) (pipe : Nat) (mismatch : Bool) : Chip :=
  match AMap.get? c.safe.telltales pipe with
  | none => c
  | some t =>
    if !t.enabled then c
    else
      let n := if mismatch then t.count + 1 else 0
      let c := { c with safe := { c.safe with telltales := AMap.set c.safe.telltales pipe { t with count := min n t.limit } } }
      if t.limit ≤ n then c.enterSafe t.group ssTelltale (0x80 + pipe) 0 else c

/-! ### Records and the watch (R296, R298, R299) -/

def flDisagree : Nat := 2 ^ 16
def flChannelFailed : Nat := 2 ^ 17
def flDeadlineMissed : Nat := 2 ^ 18
def flSatFallback : Nat := 2 ^ 19
def flTakenOver : Nat := 2 ^ 20
def flSafeState : Nat := 2 ^ 21

/-- The device time of an output's current deadline. -/
def Output.deadline (o : Output) : Nat := o.first + o.k * o.period

/-- A window that a record has met gives way to the next one once its deadline has passed (R298). -/
def Output.rolled (o : Output) (now : Nat) : Output :=
  if o.armed && o.met && timeBefore o.deadline now then { o with k := o.k + 1, met := false } else o

/-- A VALID record of the output, published at `now`, meets its current deadline: it lies in the window (D_k − PERIOD, D_k]
(R298, R305). -/
def Output.meets (o : Output) (now : Nat) : Bool :=
  o.armed && timeBefore (o.deadline + 2 ^ 64 - o.period) now && !timeBefore o.deadline now

/-- A record of a safety output: VALID only where `ok` and its group is not in safe state; DEGRADED while the part carries
its partner's functions with none paired (R451); a VALID one in the window of the current deadline meets it. -/
def Chip.publishOutput (c : Chip) (i validity age quality flags : Nat) (ok : Bool) (payload : List Byte) : Chip :=
  match c.output? i with
  | none => c
  | some o =>
    let safe := c.inSafe o.group
    let valid := ok && !safe
    let fl := (if c.flag LNK_TWIN_STATUS LNK_TWIN_STATUS.CARRYING && c.fld LNK_TWIN_STATUS LNK_TWIN_STATUS.STATE != 2 then flags ||| flDegraded else flags) + (if valid then flValid else flInvalid) + flHoldover quality + c.partFlags +
      (if o.takenOver then flTakenOver else 0) + (if safe then flSafeState else 0) +
      (if o.missed && !bitOf flags 18 then flDeadlineMissed else 0)
    let b := recordHead validity age (0x1400 + i) 0 quality o.sequence fl 32 ++ payload
    let w := o.rolled c.now
    let c := c.setOutput i { w with sequence := o.sequence + 1, met := w.met || (valid && w.meets c.now) }
    c.putRecord islandMaster o.slice o.recBase o.recLog2 o.sequence o.signalObj b

/-- The watch of an output judges: it is armed and active, its group is not in safe state, and the part is not detached
(R298, R455). -/
def Chip.watching (c : Chip) (o : Output) : Bool :=
  o.armed && !o.shadow && !c.inSafe o.group && c.fld LNK_TWIN_STATUS LNK_TWIN_STATUS.STATE != 4

/-- A missed deadline: the miss record, its count and event, the next window, and the safe state of the group (R299). -/
def Chip.missed (c : Chip) (i : Nat) (o : Output) : Chip :=
  let c := c.publishOutput i o.deadline 0 c.quality flDeadlineMissed false (List.replicate 32 0)
  let c := c.count (SAF_OUT_MISSES i) SAF_OUT_MISSES.COUNT 1
  let c := match c.output? i with
    | some o => c.setOutput i { o with k := o.k + 1, met := false, missed := true }
    | none => c
  let c := c.safeEvent o.slice 0x0403 i 0 o.deadline 0
  c.enterSafe o.group ssDeadline i 0

/-- R298, R299: the window of an output's current deadline has closed: met, the next one opens; missed, what R299 says
happens.  A suspended watch judges nothing. -/
def deadlineMiss (i : Nat) (c : Chip) : Chip :=
  match c.output? i with
  | none => c
  | some o =>
    if !c.watching o || !timeBefore o.deadline c.now then c
    else if o.met then c.setOutput i { o with k := o.k + 1, met := false }
    else c.missed i o

def execDeadlineMiss (output : Nat) (s : State) : Host.Outcome State Fault Refusal := s.on (deadlineMiss output)

/-- The message of kind 1 for the lowest group in safe state, and the time of the next. -/
def Chip.repeatMessage (c : Chip) (f : Nat) (m : MessageCfg) : Chip :=
  let c := c.safeMessage 1 (c.fld (SAF_GROUP_CAUSE f) SAF_GROUP_CAUSE.CAUSE) (c.fld (SAF_GROUP_CAUSE f) SAF_GROUP_CAUSE.SOURCE) 0 (c.reg (SAF_GROUP_TIME f))
  { c with safe := { c.safe with nextRepeat := c.now + m.repeatMs * 1000000 } }

/-- R303: while a group is in safe state the message of kind 1 repeats. -/
def safeMessageRepeat (c : Chip) : Chip :=
  match (List.range 4).find? c.inSafe, c.safe.message with
  | some f, some m => if c.now < c.safe.nextRepeat then c else c.repeatMessage f m
  | _, _ => c

def execSafeMessageRepeat (s : State) : Host.Outcome State Fault Refusal := s.on safeMessageRepeat

/-- R308: partner loss: every shadow output becomes active, its watch starts, the message of kind 3 and the event. -/
def Chip.takeover (c : Chip) : Chip :=
  let l := c.safe.outputs.filter (fun p => p.2.shadow)
  let c := l.foldl (fun c p =>
    let o := { p.2 with shadow := false, takenOver := true, armed := p.2.arm, met := false }
    c.setOutput p.1 (if o.armed then { o with k := o.firstAfter (c.now + 10000000) } else o)) c
  let c := c.safeMessage 3 ssTakeover 0xFF 0 c.now
  ((l.map (·.2.slice)).foldl nsInsert [0]).foldl (fun c s => c.event s 0x0406 0xFFFF 0 (sumOf (l.map (fun p => 2 ^ p.1))) 0) c

/-- A disagreement or channel failure of an output: its event, its count, and, unless it is shadow, the safe state
(R291, R308). -/
def Chip.outputFault (c : Chip) (i code cause seq detail : Nat) : Chip :=
  match c.output? i with
  | none => c
  | some o =>
    let c := c.count (SAF_OUT_DISAGREE i) SAF_OUT_DISAGREE.COUNT 1
    let c := c.safeEvent o.slice code i seq detail 0
    if o.shadow then c else c.enterSafe o.group cause i seq

end Sys2Proof.Machine
end

