-- ==== Sys2Proof/Machine/Models.lean ====
section
/-!
DEFINITION. Model images, the model registry, and residency in the model cache (07 R184 to R197, R214).
-/

namespace Sys2Proof.Machine

/-! ### Images (R184 to R187) -/

/-- Groups of a placement, ascending. -/
def groupsOf (first tiles : Nat) : List Nat := if tiles = 0 then [] else (List.range ((first + tiles - 1) / 16 - first / 16 + 1)).map (· + first / 16)

/-- Variant `v` of an image. -/
def parseVariant (img : List Byte) (v : Nat) : Variant :=
  let u := fun off k => bytesU img (128 + 64 * v + off) k
  let eo := u 20 4
  let n := (groupsOf (u 1 1) (u 0 1)).length
  { tiles := u 0 1, first := u 1 1, units := u 2 2, wcetUs := u 4 4, program := u 8 4, reloc := u 12 4, relocs := u 16 2, empty := u 18 2, engines := if eo = 0 then [] else (List.range n).map (fun j => (bytesU img (eo + 16 * j) 4, bytesU img (eo + 16 * j + 4) 4, bytesU img (eo + 16 * j + 8) 4)) }

/-- A range lies in the hot region. -/
def inHot (hot a n : Nat) : Bool := decide (a + n ≤ hot)

/-- A preload entry keeps its table. -/
def preloadOk (img : List Byte) (hot a : Nat) : Bool :=
  let loc := bytesU img a 4 % 2 ^ 20
  let src := bytesU img (a + 4) 4
  let len := bytesU img (a + 8) 4 % 2 ^ 20
  loc % 64 == 0 && decide (loc < 0xBC000) && src % 64 == 0 && len % 64 == 0 && decide (loc + len ≤ 0xBC000) && inHot hot src len && zeroIn img (a + 12) (a + 16)

/-- A tile program entry keeps its table. -/
def programOk (img : List Byte) (hot a : Nat) : Bool :=
  let u := fun off k => bytesU img (a + off) k
  u 0 4 % 32 == 0 && decide (1 ≤ u 4 2) && decide (u 4 2 ≤ 1024) && inHot hot (u 0 4) (32 * u 4 2) && decide (u 6 2 ≤ 256) && inHot hot (u 8 4) (16 * u 6 2) &&
  (List.range 4).all (fun r => bitsOf (u (12 + 4 * r) 4) 30 20 == 0) && u 28 4 == 0 && (List.range (u 6 2)).all (fun i => preloadOk img hot (u 8 4 + 16 * i))

/-- A relocation entry keeps its table. -/
def relocOk (img : List Byte) (hot bindings tiles a : Nat) : Bool :=
  let x := bytesU img a 4
  let y := bytesU img (a + 4) 4
  decide (y % 16 < bindings) && decide (y < 2 ^ 14) &&
  (match bitsOf y 5 4 with
   | 0 => decide (x + 6 ≤ tileMemSize) && decide (bitsOf y 13 6 < tiles)
   | 1 => inHot hot x 6
   | _ => false)

/-- The list of an engine from an offset lies in the hot region up to its LAST descriptor (R160, R184). -/
def listOk (img : List Byte) (hot : Nat) : Nat → Nat → Bool
  | 0, _ => false
  | k + 1, a => inHot hot a 128 && (bitOf (bytesU img (a + 1) 1) 0 || listOk img hot k (a + 128))

/-- An entry of the engine table keeps its layout (R185). -/
def engineEntryOk (img : List Byte) (hot a : Nat) : Bool :=
  [0, 4, 8].all (fun o => bytesU img (a + o) 4 == 0 || listOk img hot (hot / 128) (bytesU img (a + o) 4)) && zeroIn img (a + 12) (a + 16)

/-- A variant keeps R184 to R187. -/
def variantOk (img : List Byte) (hot bindings v : Nat) : Bool :=
  let x := parseVariant img v
  let eo := bytesU img (128 + 64 * v + 20) 4
  decide (1 ≤ x.tiles) && decide (x.tiles ≤ 192) && decide (x.first < 192) && decide (x.first + x.tiles ≤ 192) && zeroIn img (128 + 64 * v + 24) (128 + 64 * v + 64) &&
  inHot hot x.program (32 * x.tiles) && decide (x.relocs ≤ 4096) && inHot hot x.reloc (8 * x.relocs) && (eo == 0 || (inHot hot eo (16 * (groupsOf x.first x.tiles).length) && (List.range (groupsOf x.first x.tiles).length).all (fun j => engineEntryOk img hot (eo + 16 * j)))) &&
  (List.range x.tiles).all (fun i => programOk img hot (x.program + 32 * i)) && (List.range x.relocs).all (fun i => relocOk img hot bindings x.tiles (x.reloc + 8 * i))

/-- R189 check 3. -/
def imageOk (img : List Byte) : Bool :=
  let u := bytesU img
  let n := u 6 1
  let hot := u 12 4
  let counts := (List.range n).map (fun v => (parseVariant img v).tiles)
  u 0 4 == 0x4D544C54 && u 4 2 == 1 && decide (1 ≤ n) && decide (n ≤ 4) && decide (u 7 1 ≤ 16) && u 8 4 % 64 == 0 && hot % 64 == 0 && decide (hot ≤ u 8 4) &&
  decide (u 16 4 < 2) && zeroIn img 20 64 && zeroIn img 384 512 && (List.range n).all (fun v => variantOk img hot (u 7 1) v) &&
  counts.all (fun k => decide ((counts.filter (· == k)).length ≤ 1))

/-! ### The registry (R190) -/

def Chip.model? (c : Chip) (m : Nat) : Option Model := AMap.get? c.models m
def Chip.updModel (c : Chip) (m : Nat) (f : Model → Model) : Chip :=
  match c.model? m with
  | none => c
  | some x => { c with models := AMap.set c.models m (f x) }

/-- Tiles of a channel's placement. -/
def Chan.placement (k : Chan) : List Nat := (List.range k.tiles).map (· + k.first)

/-- A job holds tiles. -/
def Job.holds (j : Job) : Bool := j.chans.any (·.holding)
def Job.uses (j : Job) (m : Nat) : Bool := j.chans.any (fun k => k.model == m)

/-- A job of the model holds tiles. -/
def Chip.modelHeld (c : Chip) (m : Nat) : Bool := c.jobs.any (fun j => j.uses m && j.holds)

/-- Registry entries of a slice, with their indices. -/
def Chip.modelsOf (c : Chip) (s : Nat) : List (Nat × Model) := c.models.filter (fun p => p.2.slice == s)

/-- The model ID (R180). -/
def modelId (s m : Nat) : Nat := s * 1024 + m

/-- R214: the segment counts of a slice. -/
def Chip.mcRegs (c : Chip) (s : Nat) : Chip :=
  let share := match c.slice? s with
    | some sl => sl.segments.length
    | none => 0
  let l := c.modelsOf s
  let used := sumOf ((l.filter (·.2.resident)).map (fun p => p.2.segs.length))
  let pinned := sumOf ((l.filter (·.2.pinned)).map (fun p => p.2.need))
  c.setReg (MC_SLICE_SEG s) (pinned % 4096 * 2 ^ 36 + used % 4096 * 2 ^ 24 + share % 4096)

/-! ### Room (R192, R193) -/

/-- Free segments of a slice: those beside the groups first, then the others, ascending. -/
def Chip.freeShare (c : Chip) (s : Nat) (groups : List Nat) : List Nat :=
  match c.slice? s with
  | none => []
  | some sl =>
    let used := (c.modelsOf s).flatMap (·.2.segs)
    let free := sl.segments.filter (fun g => !used.contains g)
    free.filter (fun g => groups.contains (g / 256)) ++ free.filter (fun g => !groups.contains (g / 256))

/-- A model leaves the model cache (R193, R215). -/
def Chip.evict (c : Chip) (m cause : Nat) : Chip :=
  match c.model? m with
  | none => c
  | some x =>
    let c := c.updModel m (fun x => { x with resident := false, segs := [] })
    let c := c.count MC_EVICTIONS MC_EVICTIONS.COUNT 1
    (c.event x.slice 0x0103 0xFFFF (modelId x.slice m) x.segs.length cause).mcRegs x.slice

/-- The resident models eviction may take, least recently dispatched first. -/
def insertByInvoked (p : Nat × Model) : List (Nat × Model) → List (Nat × Model)
  | [] => [p]
  | q :: l => if p.2.lastInvoked < q.2.lastInvoked then p :: q :: l else q :: insertByInvoked p l
def Chip.evictable (c : Chip) (s : Nat) : List (Nat × Model) :=
  ((c.modelsOf s).filter (fun p => p.2.resident && !p.2.pinned && !c.modelHeld p.1)).foldr insertByInvoked []

/-- Models of the list evicted until `n` segments of the slice are free. -/
def Chip.evictFor (c : Chip) (s n : Nat) : List (Nat × Model) → Chip
  | [] => c
  | p :: l => if n ≤ (c.freeShare s []).length then c else Chip.evictFor (c.evict p.1 0) s n l

/-- R192, R193: segments for a model's load, evicting where that suffices; none where it does not, and then nothing is
evicted. -/
def Chip.takeRoom (c : Chip) (m : Nat) (groups : List Nat) : Bool × Chip :=
  match c.model? m with
  | none => (false, c)
  | some x =>
    let l := c.evictable x.slice
    if (c.freeShare x.slice []).length + sumOf (l.map (fun p => p.2.segs.length)) < x.need then (false, c)
    else
      let c := c.evictFor x.slice x.need l
      let segs := (c.freeShare x.slice groups).take x.need
      (true, (c.updModel m (fun x => { x with segs := segs, loading := true })).mcRegs x.slice)

/-- The hot region stored into its segments. -/
def Chip.fillSegments (c : Chip) : List Nat → List Byte → Chip
  | [], _ => c
  | g :: l, b =>
    let part := b.take pageSize
    Chip.fillSegments (if part.isEmpty then c else c.store (mcBase + g * pageSize) part) l (b.drop pageSize)

/-- Groups of a model's variant 0. -/
def Model.home (x : Model) : List Nat :=
  match x.variants with
  | v :: _ => groupsOf v.first v.tiles
  | [] => []

/-- The result word of MODEL_REGISTER. -/
def Model.registered (x : Model) (m : Nat) : Nat := modelId x.slice m + b2n x.streaming * 2 ^ 16 + b2n x.resident * 2 ^ 17 + x.need % 4096 * 2 ^ 20

/-- A packet that waited for a load completes (R189, R195): with `o` the way the load ended. -/
def Chip.loadedPacket (c : Chip) (m : Nat) (o : Served) (id : Nat) : Chip :=
  match c.packet? id, c.model? m with
  | some p, some x =>
    if p.op = 0x200 then
      if o = .ok then c.finish id stDone (x.registered m)
      else { c with models := AMap.del c.models m }.finish id (servedStatus o)
    else if o = .ok then (c.updModel m (fun x => { x with pinned := true })).finish id stDone
    else c.finish id (servedStatus o)
  | _, _ => c

/-- The class a load is made in: the highest of the jobs and packets that wait for it (R24). -/
def Chip.loadClass (c : Chip) (m : Nat) (x : Model) : Nat :=
  (((c.jobs.filter (fun j => j.phase == .loading && j.uses m)).map (·.cls)) ++ (x.loadFor.filterMap c.packet?).map (·.cls)).foldl min 3

/-- The hot region has arrived in its segments, or could not be read. -/
def Chip.endLoad (c : Chip) (m : Nat) : Served × Chip :=
  match c.model? m with
  | none => (.ok, c)
  | some x =>
    let g := match x.home with
      | g :: _ => g
      | [] => 0
    let (o, b, c) := c.loadRange (groupMaster g) x.slice x.image x.hotBytes (c.loadClass m x)
    let c := if o = .ok then
        ((c.fillSegments x.segs b).updModel m (fun x => { x with loading := false, resident := true })).count MC_LOADS MC_LOADS.COUNT 1
      else c.updModel m (fun x => { x with loading := false, segs := [] })
    let c := x.loadFor.foldl (fun c id => c.loadedPacket m o id) c
    (o, (c.updModel m (fun x => { x with loadFor := [] })).mcRegs x.slice)

/-! ### MODEL_REGISTER (R189) -/

/-- Pages of a range owned by the slice or shared read-only. -/
def Chip.imageOwned (c : Chip) (s a n : Nat) : Bool :=
  decide (a + n ≤ c.capacity) && (pagesOf a n).all (fun p => c.owner p == s + 1 || c.owner p == 0xFE)

/-- R189 check 5; R311 lets a slice 0 model stand within one tile group each. -/
def placementOk (s : Nat) (sl : Slice) (vs : List Variant) : Bool :=
  vs.all (fun v => (List.range v.tiles).all (fun i => sl.tiles.contains (v.first + i)) ||
    (s == 0 && decide (v.first % 16 + v.tiles ≤ 16)))

/-- Segments of the slice's pinned models. -/
def Chip.pinnedSegs (c : Chip) (s : Nat) : Nat := sumOf (((c.modelsOf s).filter (·.2.pinned)).map (fun p => p.2.need))

/-- The registry entry of an image that passed its checks, for a slice with `share` segments (R189, R192). -/
def newModel (s share a len : Nat) (img : List Byte) : Model :=
  let u := bytesU img
  let need := (u 12 4 + pageSize - 1) / pageSize
  { slice := s, streaming := decide (share < need), safety := bitOf (u 16 4) 0, need := need, image := a, imageBytes := len, hotBytes := u 12 4, hash := leBytes 48 (Config.sha384 img).toNat, variants := (List.range (u 6 1)).map (parseVariant img), minLen := (List.range (u 7 1)).map (fun b => u (64 + 4 * b) 4) }

/-- A model entered in the registry; one that will be streamed is announced (R194). -/
def Chip.enterModel (c : Chip) (m share : Nat) (x : Model) : Chip :=
  let c := { c with models := AMap.set c.models m x }
  if x.streaming then c.event x.slice 0x0104 0xFFFF (modelId x.slice m) x.need share else c

/-- The index a MODEL_REGISTER asks for, or the lowest free one for 0x3FF. -/
def Chip.freeModel (c : Chip) (want : Nat) : Option Nat :=
  if want = 0x3FF then (List.range 1024).find? (fun m => (c.model? m).isNone) else if (c.model? want).isNone then some want else none

/-- R189: the checks in order, then the entry, and the load where WARM or PIN asks for one. -/
def modelRegister (id : Nat) (c : Chip) : Chip :=
  c.onPacket id 0x200 (fun p c =>
    match c.slice? p.slice with
    | none => c.finish p.id stAccessDenied
    | some sl =>
      let a := p.u 32 8
      let len := p.u 40 4
      let warm := bitOf (p.u 44 4) 0
      let pin := bitOf (p.u 44 4) 1
      let want := p.u 48 2
      if 2 ^ 48 ≤ a ∨ a % 64 ≠ 0 ∨ len = 0 ∨ 4 ≤ p.u 44 4 ∨ 1024 ≤ want ∨ !zeroIn p.bytes 50 128 then c.finish p.id stBadParam
      else if !c.imageOwned p.slice a len then c.finish p.id stNotOwner
      else if sumOf (sl.extents.map (·.2)) * pageSize < len then c.finish p.id stNoResource
      else
        match c.loadRange cpMaster p.slice a len p.cls with
        | (.ok, img, c) =>
          let share := sl.segments.length
          let x := newModel p.slice share a len img
          if !imageOk img then c.finish p.id stBadParam
          else if bytesU img 8 4 ≠ len then c.finish p.id stBadSize
          else if !placementOk p.slice sl x.variants then c.finish p.id stNotOwner
          else match c.freeModel want with
            | none => c.finish p.id stNoResource
            | some m =>
              if pin && !x.safety then c.finish p.id stAccessDenied
              else if pin && decide (share < x.need + c.pinnedSegs p.slice) then c.finish p.id stNoResource
              else
                let c0 := c
                let c := c.enterModel m share x
                if (!warm && !pin) || x.streaming then c.finish p.id stDone (x.registered m)
                else match c.takeRoom m x.home with
                  | (true, c) => (c.updModel m (fun x => { x with pinned := pin, loadFor := [p.id] })).mcRegs p.slice |>.keepRunning p.id
                  | (false, c) => if pin then c0.finish p.id stNoResource else c.finish p.id stDone (x.registered m)
        | (o, _, c) => c.finish p.id (servedStatus o))

def execModelRegister (packet : Nat) (s : State) : Host.Outcome State Fault Refusal := s.on (modelRegister packet)

/-! ### MODEL_PIN, MODEL_EVICT, MODEL_VERIFY (R195 to R197) -/

/-- The model a packet names: NOT_OWNER for another slice's number, BAD_PARAM where the index holds no model of the
slice. -/
def Chip.namedModel (c : Chip) (p : Packet) : Except Nat (Nat × Model) :=
  let id := p.u 32 2
  if id / 1024 ≠ p.slice then .error stNotOwner
  else match c.model? (id % 1024) with
    | none => .error stBadParam
    | some x => if x.slice = p.slice then .ok (id % 1024, x) else .error stBadParam

/-- R195. -/
def modelPin (id : Nat) (c : Chip) : Chip :=
  c.onPacket id 0x201 (fun p c =>
    if 1 < p.u 34 1 ∨ !zeroIn p.bytes 35 64 then c.finish p.id stBadParam
    else match c.namedModel p with
      | .error st => c.finish p.id st
      | .ok (m, x) =>
        if p.u 34 1 = 0 then ((c.updModel m (fun x => { x with pinned := false })).mcRegs x.slice).finish p.id stDone
        else if !x.safety then c.finish p.id stAccessDenied
        else if x.pinned && x.resident then c.finish p.id stDone
        else
          let share := match c.slice? p.slice with
            | some sl => sl.segments.length
            | none => 0
          let others := c.pinnedSegs p.slice - (if x.pinned then x.need else 0)
          if x.streaming || decide (share < others + x.need) then c.finish p.id stNoResource
          else if x.resident then ((c.updModel m (fun x => { x with pinned := true })).mcRegs x.slice).finish p.id stDone
          else if x.loading then (c.updModel m (fun x => { x with loadFor := x.loadFor ++ [p.id] })).keepRunning p.id
          else match c.takeRoom m x.home with
            | (false, _) => c.finish p.id stNoResource
            | (true, c) => (c.updModel m (fun x => { x with loadFor := [p.id] })).keepRunning p.id)

def execModelPin (packet : Nat) (s : State) : Host.Outcome State Fault Refusal := s.on (modelPin packet)

/-- Packets answered DEFERRED have taken effect. -/
def Chip.deferredDone (c : Chip) (s : Nat) (l : List (Nat × Nat)) : Chip := l.foldl (fun c d => c.event s 0x0007 d.1 d.2 0 0) c

/-- R196: what waits for a model's jobs, once one of them has let go. -/
def Chip.jobLeft (c : Chip) (m : Nat) : Chip :=
  match c.model? m with
  | none => c
  | some x =>
    if x.unregistering && !c.jobs.any (fun j => j.uses m) then
      let c := if x.resident then c.evict m 1 else c
      (({ c with models := AMap.del c.models m }).mcRegs x.slice).deferredDone x.slice x.deferred
    else if x.evicting && !c.modelHeld m then
      let c := if x.resident then c.evict m 1 else c
      (c.updModel m (fun x => { x with evicting := false, deferred := if x.unregistering then x.deferred else [] })).deferredDone x.slice (if x.unregistering then [] else x.deferred)
    else c

/-- R196. -/
def modelEvict (id : Nat) (c : Chip) : Chip :=
  c.onPacket id 0x202 (fun p c =>
    if 1 < p.u 34 1 ∨ !zeroIn p.bytes 35 64 then c.finish p.id stBadParam
    else match c.namedModel p with
      | .error st => c.finish p.id st
      | .ok (m, x) =>
        let wait := fun (c : Chip) => c.updModel m (fun x => { x with deferred := x.deferred ++ [(p.ring, p.seq)] })
        if x.pinned then c.finish p.id stBadParam
        else if p.u 34 1 = 0 then
          if c.modelHeld m || x.loading then (wait (c.updModel m (fun x => { x with evicting := true }))).finish p.id stDeferred
          else (if x.resident then c.evict m 1 else c).finish p.id stDone
        else
          let c := c.updModel m (fun x => { x with unregistering := true })
          if c.jobs.any (fun j => j.uses m) || x.loading then (wait c).finish p.id stDeferred
          else (c.jobLeft m).finish p.id stDone)

def execModelEvict (packet : Nat) (s : State) : Host.Outcome State Fault Refusal := s.on (modelEvict packet)

/-- A read whose uncorrectable errors are told beside its bytes. -/
def Chip.readThrough (c : Chip) (master tag : Nat) : List (Nat × Nat) → Bool × List Byte × Chip
  | [] => (false, [], c)
  | (a, n) :: l =>
    let (o, b, c) := c.load { master := master, tag := tag, addr := a, len := n, write := false }
    let (e, b', c) := Chip.readThrough c master tag l
    (o != Served.ok || e, b ++ b', c)

/-- The bytes and whether they could be read: they are those the hash was taken of (R197). -/
def badImage (err : Bool) (b hash : List Byte) : Bool := err || decide (leBytes 48 (Config.sha384 b).toNat ≠ hash)

/-- The resident copy of a model, read through its errors; nothing where it is not resident. -/
def Chip.readCopy (c : Chip) (x : Model) : Bool × List Byte × Chip :=
  if x.resident then c.readThrough cpMaster x.slice ((pieces 0 x.hotBytes).map (fun q => (x.addr q.1, q.2))) else (false, [], c)

/-- A bad copy is evicted and loaded again from its image (R197). -/
def Chip.reload (c : Chip) (m : Nat) (x : Model) (img : List Byte) : Chip :=
  let c := c.evict m 2
  let c := (c.fillSegments x.segs (img.take x.hotBytes)).updModel m (fun y => { y with resident := true, segs := x.segs })
  (c.count MC_LOADS MC_LOADS.COUNT 1).mcRegs x.slice

/-- R197: the image in DRAM and the resident copy against HASH; a bad copy of a good image is evicted and loaded
again. -/
def modelVerify (id : Nat) (c : Chip) : Chip :=
  c.onPacket id 0x103 (fun p c =>
    if !zeroIn p.bytes 34 64 then c.finish p.id stBadParam
    else match c.namedModel p with
      | .error st => c.finish p.id st
      | .ok (m, x) =>
        let (de, img, c) := c.readThrough cpMaster x.slice (pieces x.image x.imageBytes)
        let dramBad := badImage de img x.hash
        let (re, copy, c) := c.readCopy x
        let copyBad := x.resident && badImage re (copy ++ img.drop x.hotBytes) x.hash
        let c := if copyBad && !dramBad then c.reload m x img else c
        if dramBad || copyBad then c.finish p.id stUncorrectable 0 (b2n dramBad + 2 * b2n copyBad + 4 * b2n (de || re))
        else (c.updModel m (fun x => { x with verified := c.now })).finish p.id stDone)

def execModelVerify (packet : Nat) (s : State) : Host.Outcome State Fault Refusal := s.on (modelVerify packet)

end Sys2Proof.Machine
end

