-- ==== Sys2Proof/Machine/Jobs.lean ====
section
/-!
DEFINITION. Jobs: JOB_RUN, pending releases, dispatch, pre-emption, save and restore, abort and end
(07 R179 to R183, R186 to R188, R198 to R213).
-/

namespace Sys2Proof.Machine

/-! ### The table of jobs -/

def Chip.job? (c : Chip) (id : Nat) : Option Job := c.jobs.find? (fun j => j.id == id)
def Chip.updJob (c : Chip) (id : Nat) (f : Job → Job) : Chip := { c with jobs := c.jobs.map (fun j => if j.id = id then f j else j) }
def Job.tiles (j : Job) : List Nat := j.chans.flatMap Chan.placement
/-- The lead group: the group of the first tile (R182). -/
def Job.lead (j : Job) : Nat := match j.chans with
  | k :: _ => k.first / 16
  | [] => 0
def Job.isGolden (j : Job) : Bool := match j.kind with
  | .golden _ _ => true
  | _ => false
def Job.waits (j : Job) : Bool := j.phase == .queued || j.phase == .saved
def Chan.groups (k : Chan) : List Nat := groupsOf k.first k.tiles

/-- The variant of a channel. -/
def Chip.variantOf (c : Chip) (k : Chan) : Option Variant :=
  match c.model? k.model with
  | some m => m.variants[k.variant]?
  | none => none

/-- The engines a variant claims on a placement: group, engine, list offset (R199). -/
def Variant.claims (v : Variant) (groups : List Nat) : List (Nat × Nat × Nat) :=
  (groups.zip v.engines).flatMap (fun p =>
    (if p.2.1 = 0 then [] else [(p.1, 0, p.2.1)]) ++ (if p.2.2.1 = 0 then [] else [(p.1, 1, p.2.2.1)]) ++ (if p.2.2.2 = 0 then [] else [(p.1, 2, p.2.2.2)]))
def Chip.chanClaims (c : Chip) (k : Chan) : List (Nat × Nat × Nat) :=
  match c.variantOf k with
  | some v => v.claims k.groups
  | none => []
def Chip.jobClaims (c : Chip) (j : Job) : List Nat := j.chans.flatMap (fun k => (c.chanClaims k).map (fun e => engineKey e.1 e.2.1))

/-- Two sets of tiles and engines meet. -/
def meets (a b : List Nat) : Bool := a.any b.contains
def Chip.jobsMeet (c : Chip) (i j : Job) : Bool := meets i.tiles j.tiles || meets (c.jobClaims i) (c.jobClaims j)

/-- R200: dispatch order: class, release, arrival. -/
def Job.before (i j : Job) : Bool :=
  decide (i.cls < j.cls) || (i.cls == j.cls && (timeBefore (i.release.getD 0) (j.release.getD 0) || (i.release.getD 0 == j.release.getD 0 && decide (i.arrival < j.arrival))))

/-- R198: a job is ready. -/
def Chip.jobReady (c : Chip) (j : Job) : Bool := j.waits && j.hold.isNone && j.chans.all (fun k => (c.model? k.model).isSome)

/-- GRP_QUEUE shows the jobs that wait under a lead group (R213). -/
def Chip.showJobs (c : Chip) (g : Nat) : Chip :=
  let n := (c.jobs.filter (fun j => j.waits && j.lead == g)).length
  (c.setFld (GRP_QUEUE g) GRP_QUEUE.DEPTH n).setFld (GRP_QUEUE g) GRP_QUEUE.MAX (max n (c.fld (GRP_QUEUE g) GRP_QUEUE.MAX))

/-- The completed packet of a job. -/
def Chip.jobPacket (c : Chip) (j : Job) (status result detail : Nat) : Chip := if j.isGolden then c else c.finish j.id status result detail

/-- The save engine's master (R17). -/
def saveMaster : Nat := 0x60

/-! ### Checks (R180 to R182) -/

/-- Steps 1 to 5 of R182 for one placement, its binding table read. -/
def Chip.checkChan (c : Chip) (s cls model tiles io n : Nat) : Except Nat Chan × Chip :=
  if model / 1024 ≠ s then (.error stNotOwner, c)
  else match c.model? (model % 1024) with
    | none => (.error stBadParam, c)
    | some m =>
      if m.slice ≠ s ∨ m.unregistering then (.error stBadParam, c)
      else match m.variants.findIdx? (fun v => v.tiles == tiles) with
        | none => (.error stBadParam, c)
        | some i =>
          match m.variants[i]? with
          | none => (.error stBadParam, c)
          | some v =>
            if cls = 0 ∧ !m.safety then (.error stBadParam, c)
            else if n ≠ m.minLen.length then (.error stBadParam, c)
            else
              match c.loadRange (groupMaster (v.first / 16)) s io (32 * n) cls with
              | (.denied, _, c) => (.error stAccessDenied, c)
              | (.uncorrectable, _, c) => (.error stUncorrectable, c)
              | (.ok, b, c) =>
                let bs : List (Nat × Nat) := (List.range n).map (fun i => (bytesU b (32 * i) 6, bytesU b (32 * i + 8) 6))
                if (bs.zip m.minLen).any (fun p => decide (p.1.2 < p.2)) then (.error stBadSize, c)
                else (.ok ({ model := model % 1024, variant := i, first := v.first, tiles := v.tiles, units := v.units, ioTable := io, bindings := bs } : Chan), c)

/-- R180 release mode 2: the programmed frame end of a stream's next frame. -/
def Chip.nextFrameEnd (c : Chip) (s n : Nat) : Option Nat :=
  match c.stream? n with
  | none => none
  | some x =>
    if x.slice ≠ s then none
    else if x.kind = 1 then
      let e := c.sweepEdge x c.now
      some (c.frameEnd x e)
    else if x.kind ≤ 2 && x.trigEn then some (c.reg (CFL_TRIG_NEXT x.trigger) + x.ingestEnd)
    else none

/-- A JOB_RUN of the ring that stands with its outcome, its reply still to be written. -/
def Chip.jobDone (c : Chip) (p : Packet) (seq : Nat) : Bool :=
  c.packets.any (fun q => q.slice == p.slice && q.ring == p.ring && q.seq == seq && q.op == 0x210 && q.id != p.id &&
    match q.phase with
    | .done _ _ _ => true
    | _ => false)

/-- Release mode 3: the end of the JOB_RUN that a sequence names, while it is within the ring's last packets: predicted, or,
of one that has completed, whatever its status, the time of that (R180, R182 step 7). -/
def Chip.predEnd (c : Chip) (p : Packet) (seq : Nat) : Option Nat :=
  if c.jobDone p seq then some c.now else
  ((c.jobsPast.filter (fun e => e.slice == p.slice && e.ring == p.ring && e.seq == seq &&
    (decide (p.nth ≤ e.nth + 2 ^ c.fld (SQ_CTRL p.slice p.ring) SQ_CTRL.LOG2_SLOTS) ||
      c.jobs.any (fun j => j.slice == p.slice && j.ring == p.ring && j.seq == seq)))).getLast?).map (·.finish)

/-- R180: the release of a job, or none where its mode names nothing (R182 step 7). -/
def Chip.releaseTime (c : Chip) (p : Packet) (mode stream pred rel : Nat) : Option Nat :=
  match mode with
  | 0 => some c.now
  | 1 => some rel
  | 2 => (c.nextFrameEnd p.slice stream).map (· + rel)
  | _ => (c.predEnd p pred).map (· + rel)

/-- Bytes of a save area (R207). -/
def saveBytes (tiles : Nat) : Nat := 0x10000 + tiles * 0xD0000

/-- R182 step 8: the job record at SAVE_BASE is valid and of this model. -/
def Chip.recordValid (c : Chip) (s base m cls : Nat) : Bool × Chip :=
  match c.loadRange saveMaster s base 512 cls, c.model? m with
  | (.ok, b, c), some x => (bytesU b 128 4 == 0x4A534156 && (b.drop 448).take 48 == x.hash, c)
  | (_, _, c), _ => (false, c)

/-- The job enters its lead scheduler's queue; it is remembered for release mode 3. -/
def Chip.queueJob (c : Chip) (p : Packet) (j : Job) : Chip :=
  let wcet := match j.chans with
    | k :: _ => match c.variantOf k with
      | some v => v.wcetUs
      | none => 0
    | [] => 0
  let keep := c.jobsPast.filter (fun e => e.slice != p.slice || e.ring != p.ring || decide (p.nth ≤ e.nth + 2 ^ 16))
  let c := { c with jobs := c.jobs ++ [j], jobsPast := keep ++ [({ slice := p.slice, ring := p.ring, seq := p.seq, nth := p.nth, finish := j.release.getD c.now + wcet * 1000 } : JobPast)], pendingRels := c.pendingRels.filter (fun r => r.packet != p.id) }
  (c.showJobs j.lead).keepRunning p.id

/-- Jobs queued under a lead group. -/
def Chip.queueDepth (c : Chip) (g : Nat) : Nat := (c.jobs.filter (fun j => j.waits && j.lead == g)).length

/-- The job a JOB_RUN asks for, with its placement and release (R179 to R182). -/
def Packet.runJob (p : Packet) (k : Chan) (release arrival : Nat) : Job :=
  { id := p.id, kind := .run, slice := p.slice, ring := p.ring, seq := p.seq, cls := p.cls, seed := p.u 36 4, ioCount := p.u 48 1, release := some release, arrival := arrival, chans := [k], saveBase := p.u 64 8, timeoutUs := p.u 72 4, phase := if p.u 35 1 = 1 then .saved else .queued }

/-- The body of a JOB_RUN: its checks in order, and its place in the queue (R182). -/
def jobRunBody (p : Packet) (c : Chip) : Chip :=
  let mode := p.u 49 1
  if 2 ≤ p.u 35 1 ∨ 2 ^ 48 ≤ p.u 40 8 ∨ p.u 40 8 % 32 ≠ 0 ∨ 16 < p.u 48 1 ∨ 4 ≤ mode ∨ 64 ≤ p.u 50 2 ∨ bitOf (p.u 56 8) 63 ∨ 2 ^ 48 ≤ p.u 64 8 ∨ !zeroIn p.bytes 76 128 then c.finish p.id stBadParam
  else match c.checkChan p.slice p.cls (p.u 32 2) (p.u 34 1) (p.u 40 8) (p.u 48 1) with
    | (.error st, c) => c.finish p.id st
    | (.ok k, c) =>
      let base := p.u 64 8
      if p.cls ≠ 0 ∧ (base = 0 ∨ base % pageSize ≠ 0) then c.finish p.id stBadParam
      else if p.cls ≠ 0 ∧ !c.ownsPages p.slice base (saveBytes k.tiles) then c.finish p.id stNotOwner
      else match c.releaseTime p mode (p.u 50 2) (p.u 52 4) (p.u 56 8) with
        | none => c.finish p.id stBadParam
        | some rel =>
          let (valid, c) := if p.u 35 1 = 1 then c.recordValid p.slice base k.model p.cls else (true, c)
          if !valid then c.finish p.id stBadParam
          else if 256 ≤ c.queueDepth (k.first / 16) then c.finish p.id stNoResource
          else c.queueJob p (p.runJob k rel c.starts)

def jobRun (id : Nat) (c : Chip) : Chip := c.onPacket id 0x210 jobRunBody
def execJobRun (packet : Nat) (s : State) : Host.Outcome State Fault Refusal := s.on (jobRun packet)

/-! ### Pending releases (R201) -/

/-- What a fetched job packet says of its placements, without reading its tables: tiles, engines, units, lead group. -/
def Chip.pendingChans (c : Chip) (p : Packet) : List Chan :=
  let one := fun (model tiles : Nat) => match c.model? (model % 1024) with
    | some m => match m.variants.find? (fun v => v.tiles == tiles), m.variants.findIdx? (fun v => v.tiles == tiles) with
      | some v, some i => if model / 1024 = p.slice then [({ model := model % 1024, variant := i, first := v.first, tiles := v.tiles, units := v.units, ioTable := 0 } : Chan)] else []
      | _, _ => []
    | none => []
  if p.op = 0x210 then one (p.u 32 2) (p.u 34 1)
  else one (p.u 32 2) (p.u 34 1) ++ one (p.u 36 2) (p.u 35 1)

/-- The release a waiting job packet names; none in release mode 0 (R201). -/
def Chip.pendingTime (c : Chip) (p : Packet) : Option Nat :=
  let d := p.op == 0x211
  let mode := if d then p.u 39 1 else p.u 49 1
  if mode = 0 then none else c.releaseTime p mode (if d then p.u 44 2 else p.u 50 2) (if d then p.u 64 4 else p.u 52 4) (if d then p.u 72 8 else p.u 56 8)

/-- The pending release of a packet (R201). -/
def Chip.pendingOf (c : Chip) (p : Packet) (t : Nat) : PendingRel :=
  let ks := c.pendingChans p
  let d := p.op == 0x211
  let three := (if d then p.u 39 1 else p.u 49 1) == 3
  { packet := p.id, slice := p.slice, cls := p.cls, release := t, tiles := ks.flatMap Chan.placement, engines := ks.flatMap (fun k => (c.chanClaims k).map (fun e => engineKey e.1 e.2.1)), units := sumOf (ks.map (·.units)), timeoutUs := if d then p.u 68 4 else p.u 72 4, ring := p.ring, pred := if three then some (if d then p.u 64 4 else p.u 52 4) else none, offset := if d then p.u 72 8 else p.u 56 8 }

/-- R201: a job packet that waits at its ring's head on its header wait passes its release to the lead scheduler. -/
def pendingRelease (id : Nat) (c : Chip) : Chip :=
  match c.packet? id with
  | none => c
  | some p =>
    if (p.op ≠ 0x210 ∧ p.op ≠ 0x211) ∨ !c.atHead p ∨ (c.refusal p).isSome ∨ c.waitOver p ∨ c.pendingRels.any (fun r => r.packet == id) then c
    else match c.pendingTime p with
      | none => c
      | some t => if (c.pendingChans p).isEmpty then c else { c with pendingRels := c.pendingRels ++ [c.pendingOf p t] }

def execPendingRelease (packet : Nat) (s : State) : Host.Outcome State Fault Refusal := s.on (pendingRelease packet)

/-! ### Starting tiles and engines (R186 to R188) -/

/-- R188: the job area. -/
def jobArea (j : Job) (k : Chan) (i : Nat) : List Byte :=
  let head := leBytes 1 i ++ leBytes 1 k.tiles ++ leBytes 1 j.slice ++ leBytes 1 j.cls ++ leBytes 4 j.seq ++ leBytes 4 j.seed
  let tab := k.bindings.flatMap (fun b => leBytes 8 b.1 ++ leBytes 8 b.2 ++ List.replicate 16 0)
  let b := head ++ List.replicate (64 - head.length) 0 ++ tab
  b ++ List.replicate (0x4000 - b.length) 0

/-- The loader's reads of the image for a tile: the fault it makes of a failed one. -/
def loaderFault : Served → Nat
  | .denied => tfAccess
  | _ => tfUncorrectable

/-- The preload ranges of a tile program entry: local address, image offset, length. -/
def preloads (tab : List Byte) (n : Nat) : List (Nat × Nat × Nat) :=
  (List.range n).map (fun i => (bytesU tab (16 * i) 4 % 2 ^ 20, bytesU tab (16 * i + 4) 4, bytesU tab (16 * i + 8) 4 % 2 ^ 20))

/-- One line written by a preload is clean from then on (R206). -/
def Chip.preloadLine (c : Chip) (a : Nat) (b : List Byte) : Chip :=
  let c := c.store a b
  { c with cleanLines := nsInsert c.cleanLines (a / 64) }

/-- Preload ranges copied line by line, those of `only` where it is given; a failed read ends it. -/
def Chip.preloadAll (c : Chip) (m : Model) (n tag cls : Nat) (only : Option (List Nat)) : List (Nat × Nat) → Option Nat × Chip
  | [] => (none, c)
  | (loc, src) :: l =>
    let a := tileAddr n + loc
    if (match only with
        | some s => !s.contains (a / 64)
        | none => false) then Chip.preloadAll c m n tag cls only l
    else match c.imageRead m (groupMaster (n / 16)) tag src 64 cls with
      | (.ok, b, c) => Chip.preloadAll (c.preloadLine a b) m n tag cls only l
      | (o, _, c) => (some (loaderFault o), c)

/-- The lines of preload ranges. -/
def preloadLines (ps : List (Nat × Nat × Nat)) : List (Nat × Nat) := ps.flatMap (fun p => (List.range (p.2.2 / 64)).map (fun i => (p.1 + 64 * i, p.2.1 + 64 * i)))

/-- A tile's program entry and preload table, read from the image. -/
def Chip.tileEntry (c : Chip) (m : Model) (v : Variant) (n tag cls i : Nat) : Except Nat (List Byte × List (Nat × Nat × Nat)) × Chip :=
  match c.imageRead m (groupMaster (n / 16)) tag (v.program + 32 * i) 32 cls with
  | (.ok, e, c) =>
    match c.imageRead m (groupMaster (n / 16)) tag (bytesU e 8 4) (16 * bytesU e 6 2) cls with
    | (.ok, t, c) => (.ok (e, preloads t (bytesU e 6 2)), c)
    | (o, _, c) => (.error (loaderFault o), c)
  | (o, _, c) => (.error (loaderFault o), c)

/-- The relocation list of a variant: LOCAL or OFS, and the word at +4. -/
def Chip.relocList (c : Chip) (m : Model) (v : Variant) (g tag cls : Nat) : List (Nat × Nat) × Chip :=
  let (_, b, c) := c.imageRead m (groupMaster g) tag v.reloc (8 * v.relocs) cls
  ((List.range v.relocs).map (fun i => (bytesU b (8 * i) 4, bytesU b (8 * i + 4) 4)), c)

/-- R187 kind 0: a binding's BASE added to a field of tile memory. -/
def Chip.patchTile (c : Chip) (k : Chan) (n i : Nat) (r : Nat × Nat) : Chip :=
  if bitsOf r.2 5 4 ≠ 0 ∨ bitsOf r.2 13 6 ≠ i then c
  else
    let a := tileAddr n + r.1 % 2 ^ 20
    let base := ((k.bindings[r.2 % 16]?).map (·.1)).getD 0
    c.store a (leBytes 6 ((leNat (c.readBack a 6) + base) % 2 ^ 48))

/-- The initial LFSR of a unit (R112). -/
def lfsrSeed (seed k : Nat) : Nat := if (seed ^^^ k) % 2 ^ 32 = 0 then 1 else (seed ^^^ k) % 2 ^ 32

/-- No line of tile `n` holds only what a preload wrote. -/
def Chip.allDirty (c : Chip) (n : Nat) : Chip :=
  { c with cleanLines := c.cleanLines.filter (fun l => l < tileAddr n / 64 || tileAddr (n + 1) / 64 ≤ l) }

/-- A tile given to a job: its state, its generator, and the job area (R182). -/
def Chip.tileBegun (c : Chip) (j : Job) (k : Chan) (n i : Nat) (t : Tile) : Chip :=
  let c := ((c.setTile n t).setTileState n tsRunning).setBusy n true
  let c := c.setReg (TILE_LFSR n) (lfsrSeed j.seed (i + 1))
  (c.store (tileAddr n + 0xBC000) (jobArea j k i)).allDirty n

/-- The entry `e` of a tile taken: its image patched, its Rills and its code set. -/
def Chip.tileArmed (c : Chip) (k : Chan) (relocs : List (Nat × Nat)) (n i : Nat) (t : Tile) (e : List Byte) : Chip :=
  let c := relocs.foldl (fun c r => c.patchTile k n i r) c
  let rill := fun r => let x := bytesU e (12 + 4 * r) 4
    if bitOf x 31 then [(r, ({ en := true, base := x % 2 ^ 20 } : Rill))] else []
  let c := (List.range 4).foldl (fun (c : Chip) r => let x := bytesU e (12 + 4 * r) 4
    let c := c.rillClear n r
    if bitOf x 31 then c.setReg (RILL_LIST n r) (x % 2 ^ 20) else c) c
  c.setTile n { t with codeOfs := bytesU e 0 4, codeCount := bytesU e 4 2, wanted := [0], rills := (List.range 4).flatMap rill }

/-- R186: the loader of one tile, and decode from index 0.  A read that fails faults the tile.  The sequencer starts anew;
accumulators and vector registers hold what they held (R93; DEDUCED, log 111). -/
def Chip.startTile (c : Chip) (j : Job) (k : Chan) (m : Model) (v : Variant) (relocs : List (Nat × Nat)) (i : Nat) : Chip :=
  let n := k.first + i
  let t : Tile := { job := some j.id, jobTile := i, slice := j.slice, cls := j.cls, model := k.model, progress := c.now, accs := (c.tile n).accs, vregs := (c.tile n).vregs }
  match (c.tileBegun j k n i t).tileEntry m v n j.slice j.cls i with
  | (.error f, c) => c.tileFault n f 0
  | (.ok (e, ps), c) =>
    let r := c.preloadAll m n j.slice j.cls none (preloadLines ps)
    match r.1 with
    | some f => r.2.tileFault n f 0
    | none => r.2.tileArmed k relocs n i t e

/-- The engines of a channel start on their lists (R160, R187 kind 1); bits 6:0 of the list's address are not held
(R176). -/
def Chip.startEngines (c : Chip) (j : Job) (k : Chan) (relocs : List (Nat × Nat)) : Chip :=
  let rs := (relocs.filter (fun r => bitsOf r.2 5 4 == 1)).map (fun r => (r.1, ((k.bindings[r.2 % 16]?).map (·.1)).getD 0))
  (c.chanClaims k).foldl (fun c e =>
    let x : Engine := { job := some j.id, slice := j.slice, cls := j.cls, model := k.model, list := e.2.2, active := true, relocs := rs }
    let image := ((c.model? k.model).map (·.image)).getD 0
    let c := ((c.setEngine e.1 e.2.1 x).setReg (engStatus e.1 e.2.1) 0).setReg (engList e.1 e.2.1) ((image + e.2.2) / 128 * 128)
    if e.2.1 < 2 then c.setReg (engLfsr e.1 e.2.1) (lfsrSeed j.seed ((e.2.1 + 1) * 0x100 + e.1)) else c) c

/-- A channel's tiles and engines start. -/
def Chip.startChan (c : Chip) (j : Job) (k : Chan) : Chip :=
  match c.model? k.model, c.variantOf k with
  | some m, some v =>
    let (relocs, c) := c.relocList m v (k.first / 16) j.slice j.cls
    let c := (List.range k.tiles).foldl (fun c i => c.startTile j k m v relocs i) c
    c.startEngines j k relocs
  | _, _ => c

/-! ### Dispatch (R198 to R203) -/

/-- A job holds the tile. -/
def Chip.tileHeld (c : Chip) (n : Nat) : Bool := c.jobs.any (fun j => j.chans.any (fun k => k.holding && k.placement.contains n))
/-- A job holds the engine. -/
def Chip.engineHeld (c : Chip) (e : Nat) : Bool := c.jobs.any (fun j => j.chans.any (fun k => k.holding && (c.chanClaims k).any (fun x => engineKey x.1 x.2.1 == e)))

/-- A tile can take a job: nobody holds it, it is idle and not fenced off (R198, R325). -/
def Chip.tileFree (c : Chip) (n : Nat) : Bool := !c.tileHeld n && c.tileState n == tsIdle && !c.flag (SAF_ST_TILE n) SAF_ST_TILE.FENCED

/-- R314: only golden runs are dispatched onto a FAILED group. -/
def Chip.groupsSound (c : Chip) (j : Job) : Bool :=
  j.isGolden || j.chans.all (fun k => k.groups.all (fun g => !c.flag (SAF_HEALTH g) SAF_HEALTH.FAILED))

/-- An URGENT test waits for a tile of the job, which takes no job of class 1 to 3 before it (R327). -/
def Chip.testKeeps (c : Chip) (j : Job) : Bool :=
  j.cls != 0 && c.selfTest.runs.any (fun r => r.urgent && (r.tiles.take 1).any j.tiles.contains)

/-- Every group of the placements runs. -/
def Chip.groupsRun (c : Chip) (j : Job) : Bool := j.chans.all (fun k => k.groups.all (fun g => c.groupState g == gsRunning))

/-- Everything a dispatch needs but its budget; or what keeps it: 0 tiles or engines, 2 a wake. -/
def Chip.dispatchable (c : Chip) (j : Job) : Except Nat Unit :=
  if !c.groupsRun j then .error 2
  else if !j.tiles.all c.tileFree || (c.jobClaims j).any c.engineHeld || !c.groupsSound j || c.testKeeps j ||
      c.jobs.any (fun i => i.id != j.id && c.jobReady i && i.before j && c.jobsMeet i j) then .error 0
  else .ok ()

/-- R201: a class 0 or 1 job that starts more than 25 µs after its release. -/
def Chip.releaseLate (c : Chip) (j : Job) : Chip :=
  let rel := j.release.getD c.now
  if j.cls ≤ 1 ∧ !j.late ∧ !j.isGolden ∧ timeBefore (rel + 25000) c.now then
    let c := c.updJob j.id (fun j => { j with late := true })
    let c := c.count (GRP_LATE j.lead) GRP_LATE.COUNT 1
    c.event j.slice 0x0105 j.ring j.seq (timeDiff c.now rel) j.delay
  else c

/-- Every model of a job is where its job reads it: the tiles start, or the restore does. -/
def Chip.beginJob (c : Chip) (id : Nat) : Chip :=
  match c.job? id with
  | none => c
  | some j =>
    let restoring := j.preempts ≠ 0 || j.cause = 0xFF
    if restoring then
      -- the time its model took to load counts in RUN_US (R192)
      let c := c.updJob id (fun j => { j with phase := .restoring, chans := j.chans.map (fun k => { k with runNs := k.runNs + (c.now - k.since) }) })
      j.tiles.foldl (fun c n => (c.setTileState n tsRestoring).setBusy n true) c
    else
      let c := (c.releaseLate j).updJob id (fun j => { j with phase := .running })
      j.chans.foldl (fun c k => c.startChan j k) c

/-- R192, R194: a channel's model at its dispatch: resident, streaming, loading, or streamed for want of room. -/
def Chip.placeModel (c : Chip) (id : Nat) (i : Nat) : Chip :=
  match c.job? id with
  | none => c
  | some j =>
    match j.chans[i]? with
    | none => c
    | some k =>
      match c.model? k.model with
      | none => c
      | some m =>
        let stream := fun (c : Chip) => c.updJob id (fun j => { j with chans := j.chans.set i { k with streamed := true } })
        if m.resident || m.loading then c
        else if m.streaming then stream c
        else match c.takeRoom k.model k.groups with
          | (true, c) => c
          | (false, c) => stream c

/-- A job one of whose models is on its way. -/
def Chip.jobLoading (c : Chip) (j : Job) : Bool := j.chans.any (fun k => match c.model? k.model with
  | some m => m.loading
  | none => false)

/-- The dispatch itself: tiles and engines taken, models placed, and, with nothing to load, the start. -/
def Chip.dispatch (c : Chip) (j : Job) : Chip :=
  let fresh := j.phase == .queued
  let c := c.updJob j.id (fun j => { j with phase := .loading, cause := if j.phase == .saved && j.preempts == 0 then 0xFF else j.cause, quality := c.quality, chans := j.chans.map (fun k => { k with holding := true, since := c.now }) })
  let c := j.tiles.foldl (fun (c : Chip) n => ((c.setFld (TILE_STATUS n) TILE_STATUS.SAT 0).setFld (TILE_STATUS n) TILE_STATUS.NAN_SEEN 0).setFld (TILE_STATUS n) TILE_STATUS.FAULT 0) c
  let c := c.count (GRP_DISPATCHES j.lead) GRP_DISPATCHES.COUNT 1
  let c := j.chans.foldl (fun c k => c.updModel k.model (fun m => { m with lastInvoked := c.now, invocations := if fresh then m.invocations + 1 else m.invocations })) c
  let c := match j.kind with
    | .diverse o _ _ => match c.output? o with
      | some x => (j.chans.flatMap Chan.groups).foldl (fun (c : Chip) g =>
          Chip.setFld c (SAF_HEALTH g) SAF_HEALTH.CARRIES (putBits (c.fld (SAF_HEALTH g) SAF_HEALTH.CARRIES) x.group x.group 1)) c
      | none => c
    | _ => c
  let c := (List.range j.chans.length).foldl (fun c i => c.placeModel j.id i) c
  let c := c.showJobs j.lead
  match c.job? j.id with
  | none => c
  | some j => if c.jobLoading j then c.updJob j.id (fun j => { j with delay := 3 }) else c.beginJob j.id

/-- A group that stands and neither holds nor awaits its wake budget. -/
def Chip.needsWake (c : Chip) (g : Nat) : Bool :=
  (c.groupState g == gsOff || c.groupState g == gsRetention) && !c.granted (.wake g) && !c.asking (.wake g)

/-- The requests of the wakes of some groups (R400): charged to no slice. -/
def Chip.wakeParts (c : Chip) (gs : List Nat) (cls : Nat) : List Units :=
  (gs.filter c.needsWake).map (fun g => ({ who := .wake g, units := c.budget.wakeUnits, slice := none, cls := cls } : Units))

/-- The class a job asks Sluice in: 0 for a golden run (R400). -/
def Job.askClass (j : Job) : Nat := if j.isGolden then 0 else j.cls

/-- R202, R400: a job asks for its start, and for the wakes of the groups it finds standing, presented together; what it
holds or has asked for already it does not ask for again. -/
def Chip.askJob (c : Chip) (j : Job) : Chip :=
  let units := if c.granted (.job j.id) || c.asking (.job j.id) then []
    else j.chans.map (fun k => ({ who := .job j.id, units := k.units, slice := some j.slice, cls := j.askClass } : Units))
  let parts := c.wakeParts ((j.chans.flatMap Chan.groups).foldl nsInsert []) j.askClass ++ units
  if parts.isEmpty then c else c.ask j.askClass parts j.timeoutUs

/-- R200, R202: a ready job whose tiles, engines, groups and budget are there is dispatched; lacking only its budget, or
its groups' wake, it asks Sluice (R201). -/
def jobDispatch (id : Nat) (c : Chip) : Chip :=
  match c.job? id with
  | none => c
  | some j =>
    if !c.jobReady j then c
    else match c.dispatchable j with
      | .error d =>
        let c := if d = 2 && c.groupsSound j && !j.tiles.any c.tileHeld then c.askJob j else c
        c.updJob id (fun j => { j with delay := if d = 2 && c.asking (.job id) then 1 else d })
      | .ok _ =>
        let c := c.askJob j
        if c.granted (.job id) then c.dispatch j else c.updJob id (fun j => { j with delay := 1 })

def execJobDispatch (job : Nat) (s : State) : Host.Outcome State Fault Refusal := s.on (jobDispatch job)

/-- Jobs in the making that read a model whose load failed read LPDDR6 for it (R192). -/
def Chip.streamFor (c : Chip) (m : Nat) : Chip :=
  { c with jobs := c.jobs.map (fun j => if j.phase = .loading then { j with chans := j.chans.map (fun k => if k.model = m then { k with streamed := true } else k) } else j) }

/-- The jobs in the making that use a model begin, where no model of theirs is still on its way. -/
def Chip.beginAfterLoad (c : Chip) (m : Nat) : Chip :=
  (c.jobs.filter (fun j => j.phase == .loading && j.uses m)).foldl (fun c j => if c.jobLoading j then c else c.beginJob j.id) c

/-- R192: a load is over: the jobs and packets that waited for it go on; a load that could not be read leaves the model
non-resident and its jobs read LPDDR6. -/
def modelLoadDone (m : Nat) (c : Chip) : Chip :=
  match c.model? m with
  | none => c
  | some x =>
    if !x.loading then c
    else
      let (o, c) := c.endLoad m
      ((if o = .ok then c else c.streamFor m).beginAfterLoad m).jobLeft m

def execModelLoadDone (model : Nat) (s : State) : Host.Outcome State Fault Refusal := s.on (modelLoadDone model)

/-! ### Letting go (R183, R208) -/

/-- A tile leaves its job: its units, its Rills and its waits are idle again; its accumulators and vector registers keep
what they hold (R93). -/
def Chip.freeTile (c : Chip) (n : Nat) : Chip :=
  let t := c.tile n
  let c := { c with
    tiles := if t.accs.isEmpty && t.vregs.isEmpty then AMap.del c.tiles n else AMap.set c.tiles n { accs := t.accs, vregs := t.vregs }
    unitWaits := c.unitWaits.filter (fun w => w.who != Waiter.tile n)
    faulted := c.faulted.filter (· != n) }
  let c := ([0, 1, 2, 3].foldl (fun c r => c.rillIdle n r) c).showQueue n
  (c.setTileState n tsIdle).setBusy n false

def Chip.freeEngine (c : Chip) (e : Nat × Nat × Nat) : Chip :=
  let key := engineKey e.1 e.2.1
  let c := { c with
    engines := AMap.del c.engines key
    unitWaits := c.unitWaits.filter (fun w => w.who != Waiter.engine e.2.1 e.1)
    faulted := c.faulted.filter (· != 192 + key) }
  c.setEngState e.1 e.2.1 esIdle

/-- A channel lets go of its tiles and engines; what its tiles saw and the time it held them are kept. -/
def Chip.freeChan (c : Chip) (id i : Nat) : Chip :=
  match c.job? id with
  | none => c
  | some j =>
    match j.chans[i]? with
    | none => c
    | some k =>
      if !k.holding then c
      else
        let sat := k.placement.any (fun n => c.flag (TILE_STATUS n) TILE_STATUS.SAT)
        let nan := k.placement.any (fun n => c.flag (TILE_STATUS n) TILE_STATUS.NAN_SEEN)
        let c := (c.chanClaims k).foldl Chip.freeEngine c
        let c := k.placement.foldl Chip.freeTile c
        let ran := if j.phase = .running ∨ j.phase = .loading then c.now - k.since else 0
        c.updJob id (fun j => { j with chans := j.chans.set i { k with holding := false, sat := k.sat || sat, nan := k.nan || nan, runNs := k.runNs + ran } })

/-- All channels let go. -/
def Chip.freeJob (c : Chip) (id : Nat) : Chip :=
  match c.job? id with
  | none => c
  | some j => (List.range j.chans.length).foldl (fun c i => c.freeChan id i) c

/-- RUN_US of a channel. -/
def Chan.runUs (k : Chan) : Nat := min (k.runNs / 1000) (2 ^ 32 - 1)

/-- Table — Job result word. -/
def Job.result (j : Job) : Nat :=
  match j.chans with
  | k :: _ => b2n k.sat + 2 * b2n k.nan + 4 * b2n k.streamed + min j.preempts 255 * 2 ^ 8 + k.runUs * 2 ^ 32
  | [] => 0

/-- The job is over: its grant returns, its models may be evicted, and packets that waited for its save complete. -/
def Chip.removeJob (c : Chip) (id : Nat) : Chip :=
  match c.job? id with
  | none => c
  | some j =>
    let c := c.freeJob id
    let c := { c with jobs := c.jobs.filter (fun j => j.id != id), weir := c.weir.filter (· != id) }
    let c := match c.jobsPast.find? (fun e => e.slice == j.slice && e.ring == j.ring && e.seq == j.seq) with
      | some e => if j.isGolden then c else c.jobEnded e.slice e.ring e.seq e.nth
      | none => c
    let c := (c.withdraw (.job id)).giveBack (.job id)
    let c := j.waiters.foldl (fun c w => c.finish w.1 stDone 0) c
    let c := j.chans.foldl (fun c k => c.jobLeft k.model) c
    c.showJobs j.lead

/-- A JOB_RUN ends (R183). -/
def Chip.endJob (c : Chip) (id status detail : Nat) : Chip :=
  match c.job? id with
  | none => c
  | some _ =>
    let c := c.freeJob id
    match c.job? id with
    | none => c
    | some j =>
      let c := if j.chans.any (·.streamed) then c.count MC_STREAMED_JOBS MC_STREAMED_JOBS.COUNT 1 else c
      let c := c.jobPacket j status j.result detail
      c.removeJob id

/-! ### How a channel stands (R122, R155, R178, R183) -/

/-- Table — Job fault detail. -/
def faultDetail (tile cause index group engine : Nat) : Nat := tile + cause * 2 ^ 8 + index % 4096 * 2 ^ 16 + group * 2 ^ 28 + engine * 2 ^ 32

/-- The first of a channel's tiles and engines whose fault was recorded (R183). -/
def Chip.firstFault (c : Chip) (k : Chan) : Option Nat :=
  c.faulted.find? (fun x => k.placement.contains x || (c.chanClaims k).any (fun e => 192 + engineKey e.1 e.2.1 == x))

/-- The status and detail word of a fault: of a tile, or of an engine as 192 + its key. -/
def Chip.faultEnd (c : Chip) (k : Chan) (x : Nat) : Nat × Nat :=
  if x < 192 then
    let f := c.fld (TILE_STATUS x) TILE_STATUS.FAULT
    (faultStatus f, faultDetail (x - k.first) f (c.reg (TILE_FAULT_PC x) % 1024) 0 0)
  else
    let g := (x - 192) / 3
    let e := (x - 192) % 3
    let f := c.fld (engStatus g e) DCE_STATUS.CAUSE
    (engineStatus f, faultDetail 0xFF f (c.fld (engStatus g e) DCE_STATUS.DESC) g e)

/-- The outcome of a channel that has come to its end: status and detail word. -/
def Chip.chanEnd (c : Chip) (k : Chan) : Option (Nat × Nat) :=
  match c.firstFault k with
  | some x => some (c.faultEnd k x)
  | none =>
    let es := c.chanClaims k
    let done := k.placement.all (fun n => (c.tile n).ended) && es.all (fun e => !(c.engine e.1 e.2.1).active && !(c.engine e.1 e.2.1).busy)
    if !done then none
    else match es.findSome? (fun e => (c.engine e.1 e.2.1).firstEmpty.map (fun d => d % 2 ^ 16 + e.2.1 * 2 ^ 16)) with
      | some d => some (stShapeEmpty, d)
      | none => match c.variantOf k with
        | some v => if v.empty = 0xFFFF then some (stDone, 0) else some (stShapeEmpty, v.empty + 3 * 2 ^ 16)
        | none => some (stDone, 0)

/-! ### Pre-emption (R203 to R208, R212) -/

/-- A holder of tiles that `j` may pre-empt: lower class, not class 0, not a golden run. -/
def preemptable (cls : Nat) (h : Job) : Bool := decide (cls < h.cls) && h.cls != 0 && !h.isGolden

/-- R203, R204: someone's ready or pending work pre-empts the job. -/
def Chip.classPreempts (c : Chip) (h : Job) : Bool :=
  let holders := c.jobs.filter (·.holds)
  c.jobs.any (fun j => c.jobReady j && c.jobsMeet j h && (holders.filter (fun x => c.jobsMeet j x)).all (preemptable j.cls)) ||
  c.pendingRels.any (fun r =>
    let hits := fun (x : Job) => meets r.tiles x.tiles || meets r.engines (c.jobClaims x)
    let lead := c.fld (GRP_SCHED_CTRL (r.tiles.headD 0 / 16)) GRP_SCHED_CTRL.PREEMPT_LEAD * 1000
    (r.moved || !timeBefore (c.now + lead) r.release) && hits h && (holders.filter hits).all (preemptable r.cls))

/-- R149: requests already issued complete, those waiting are withdrawn. -/
def Chip.settleRill (c : Chip) (n r : Nat) : Chip :=
  let c := (List.range (c.rill n r).reqs.length).foldl (fun c _ =>
    match (c.rill n r).reqs.findIdx? (fun q => q.place == ReqPlace.issued) with
    | some i => match (c.rill n r).reqs[i]? with
      | some q => rillReturn n r i q c
      | none => c
    | none => c) c
  let c := (List.range (c.rill n r).writes.length).foldl (fun c _ =>
    match (c.rill n r).writes with
    | w :: _ => if w.place = ReqPlace.issued then rillAccept n r w c else c
    | [] => c) c
  c.updRill n r (fun x => { x with reqs := x.reqs.map (fun q => { q with place := .held }), writes := x.writes.map (fun q => { q with place := .held }) })

/-- R205: a tile stops: what has issued completes, and its Rills settle. -/
def Chip.stopTile (c : Chip) (n : Nat) : Chip :=
  let c := c.updTile n (fun t => { (t.executing.foldl (fun t e => match e.2 with
    | some k => if t.entry k = sbPending then t.setEntry k sbReady else t
    | none => t) t) with executing := [] })
  let c := (((c.tile n).rills.map (·.1)).foldl (fun c r => (c.settleRill n r).showRill n r) c).showQueue n
  let c := c.recordFault n
  { c with unitWaits := c.unitWaits.filter (fun w => w.who != Waiter.tile n) }

/-- R205: the pre-emption is signalled: tiles and engines stop, and the save begins.  A job whose model still loads has
nothing to save and goes back to its queue. -/
def Chip.signalPreempt (c : Chip) (j : Job) (cause : Nat) : Chip :=
  if j.phase = .loading then
    let c := (c.freeJob j.id).giveBack (.job j.id)
    let c := j.waiters.foldl (fun c w => c.finish w.1 stDone 1) c
    let hold := (j.waiters.map (·.2)).foldl max 0
    let c := c.updJob j.id (fun j => { j with phase := if j.preempts = 0 ∧ j.cause ≠ 0xFF then .queued else .saved, wanted := none, waiters := [], hold := if hold = 0 then j.hold else some (c.now + hold * 1000) })
    c.showJobs j.lead
  else
    let c := j.tiles.foldl Chip.stopTile c
    let c := (j.chans.flatMap c.chanClaims).foldl Chip.stopEngine c
    let c := c.updJob j.id (fun j => { j with phase := .saving, cause := cause, wanted := none, chans := j.chans.map (fun k => { k with runNs := k.runNs + (c.now - k.since) }) })
    j.tiles.foldl (fun c n => if c.tileState n = tsFaulted then c else c.setTileState n tsSaving) c

/-- R203 to R205, R212: a job is pre-empted where something asks for it; one whose tiles have all ended completes
instead. -/
def preemptSignal (id : Nat) (c : Chip) : Chip :=
  match c.job? id with
  | none => c
  | some j =>
    if j.cls = 0 ∨ j.isGolden ∨ (j.phase ≠ .running ∧ j.phase ≠ .loading) then c
    else if j.phase = .running ∧ j.tiles.all (fun n => (c.tile n).ended) then c
    else match j.wanted with
      | some k => c.signalPreempt j k
      | none => if c.classPreempts j then c.signalPreempt j 0 else c

def execPreemptSignal (job : Nat) (s : State) : Host.Outcome State Fault Refusal := s.on (preemptSignal job)

/-! ### Save (R206 to R208) -/

/-- A write of the save engine; the bytes it has written so far with it. -/
def Chip.saveWrite (c : Chip) (tag cls a : Nat) (b : List Byte) (n : Nat) : Served × Nat × Chip :=
  let (o, k, c) := c.saveRange saveMaster tag a b cls
  (o, n + k, c)

/-- Writes in order up to the first that fails. -/
def Chip.saveWrites (c : Chip) (tag cls : Nat) : List (Nat × List Byte) → Nat → Served × Nat × Chip
  | [], n => (.ok, n, c)
  | (a, b) :: l, n =>
    match c.saveWrite tag cls a b n with
    | (.ok, n, c) => Chip.saveWrites c tag cls l n
    | r => r

/-- Local line numbers of a tile below the job area that are valid and dirty (R206). -/
def Chip.dirtyLines (c : Chip) (n : Nat) : List Nat :=
  let base := tileAddr n / 64
  (c.validLines.filter (fun l => base ≤ l && l < base + 0xBC000 / 64 && !c.cleanLines.contains l)).map (· - base)

/-- The bitmap of dirty lines, 1,504 bytes. -/
def dirtyBitmap (l : List Nat) : List Byte := (List.range 1504).map (fun i => BitVec.ofNat 8 (sumOf ((l.filter (fun k => k / 8 == i)).map (fun k => 2 ^ (k % 8)))))

/-- The lines of a Rill's pool that are reserved, by their place in its ring, with their bytes (R131, R207). -/
def poolLines (x : Rill) : List (Nat × List Byte) :=
  x.delivs.flatMap (fun d => ((List.range (d.data.length / 64)).filter (fun i => !(d.write && x.lineFree d i))).map (fun i =>
    ((d.line + i) % 128, (d.data.drop (64 * i)).take 64)))

/-- The writes of one tile's block (R207).  The layout of SEQUENCER and RILL_STATE is not given: their bytes are free, but
for the dirty bitmap (log 24). -/
def Chip.tileBlock (c : Chip) (n a : Nat) (seq rst : List Byte) : List (Nat × List Byte) :=
  let t := c.tile n
  let d := c.dirtyLines n
  [(a, putAt seq 0x800 (dirtyBitmap d)), (a + 0x1000, t.accBytes 0 0x2000), (a + 0x3000, memRead t.vregs 0 0x8000), (a + 0xB000, rst)] ++
    t.rills.flatMap (fun p => (poolLines p.2).map (fun l => (a + 0xC000 + 0x2000 * p.1 + 64 * l.1, l.2))) ++
    d.map (fun l => (a + 0x14000 + 64 * l, c.readBack (tileAddr n + 64 * l) 64))

/-- What the free bytes of a tile's block stand for: the tile, and the engines that the job claims in its group. -/
def Chip.savedTile (c : Chip) (k : Chan) (n : Nat) : SaveTile :=
  { tile := c.tile n, lfsr := c.reg (TILE_LFSR n), status := c.reg (TILE_STATUS n), engines := ((c.chanClaims k).filter (fun e => e.1 == n / 16)).map (fun e => (engineKey e.1 e.2.1, c.engine e.1 e.2.1, c.reg (engLfsr e.1 e.2.1))) }

/-- What a save keeps of a tile beside its block, found again by the free bytes of the block (R207). -/
def Chip.keepSave (c : Chip) (k : Chan) (tile : Nat) (seq rst : List Byte) : Chip := { c with saves := (seq.take 0x800 ++ rst, c.savedTile k tile) :: c.saves }

/-- A tile's block written, with the free bytes drawn for it, and counted. -/
def Chip.saveBlock (c : Chip) (k : Chan) (tag cls a tile : Nat) (seq rst : List Byte) : Served × Nat × Chip :=
  let r := (c.keepSave k tile seq rst).saveWrites tag cls ((c.keepSave k tile seq rst).tileBlock tile a seq rst) 0
  (r.1, r.2.1, if r.1 = .ok then r.2.2.count (GRP_SAVE_BYTES (tile / 16)) GRP_SAVE_BYTES.COUNT r.2.1 else r.2.2)

/-- One tile's block saved: the bytes it draws stand for the tile's state from then on, wherever they are copied. -/
def Chip.saveTile (c : Chip) (k : Chan) (tag cls a tile : Nat) : Served × Nat × Chip :=
  let x := c.drawBytes 4096
  let y := x.2.drawBytes 4096
  y.2.saveBlock k tag cls a tile x.1 y.1

/-- The blocks of a job's tiles. -/
def Chip.saveTiles (c : Chip) (k : Chan) (tag cls base : Nat) : List (Nat × Nat) → Nat → Served × Nat × Chip
  | [], n => (.ok, n, c)
  | (i, tile) :: l, n =>
    let r := c.saveTile k tag cls (base + 0x10000 + i * 0xD0000) tile
    if r.1 = .ok then Chip.saveTiles r.2.2 k tag cls base l (n + r.2.1) else (r.1, n + r.2.1, r.2.2)

/-- The engines of group `g` in a job record: the three cursors. -/
def Chip.cursors (c : Chip) (g : Nat) : List Byte := (List.range 3).flatMap (fun e => leBytes 8 (c.reg (engCursor g e)))

/-- The writes of a job record, MAGIC last (R207, R208). -/
def Chip.jobRecord (c : Chip) (j : Job) (k : Chan) : List (Nat × List Byte) :=
  let pk := match c.packet? j.id with
    | some p => p.bytes
    | none => []
  let hash := match c.model? k.model with
    | some m => m.hash
    | none => []
  [(j.saveBase, pk.take 128), (j.saveBase + 132, leBytes 1 (min (j.preempts + 1) 255) ++ leBytes 1 k.variant),
    (j.saveBase + 136, leBytes 8 c.now ++ leBytes 8 k.runNs ++ k.groups.flatMap c.cursors), (j.saveBase + 448, hash), (j.saveBase + 128, leBytes 4 0x4A534156)]

/-- A job has been saved, `n` bytes: its counters, tiles, engines and grant free, the packets that waited answered, the
event, and the job waiting to resume (R208). -/
def Chip.saved (c : Chip) (j : Job) (k : Chan) (n : Nat) : Chip :=
  let c := k.groups.foldl (fun c g => c.count (GRP_PREEMPTS g) GRP_PREEMPTS.COUNT 1) c
  let rills := k.placement.flatMap (fun n => (c.tile n).rills.map (fun p => (n, p.1)))
  let c := (c.freeJob j.id).giveBack (.job j.id)
  let c := rills.foldl (fun c r => c.setFld (RILL_STATUS r.1 r.2) RILL_STATUS.STATE rsRillSaved) c
  let hold := (j.waiters.map (·.2)).foldl max 0
  let c := j.waiters.foldl (fun c w => c.finish w.1 stDone 1) c
  let c := c.updJob j.id (fun i => { i with phase := .saved, preempts := j.preempts + 1, waiters := [], hold := if hold = 0 then i.hold else some (c.now + hold * 1000) })
  let c := c.event j.slice 0x0101 j.ring j.seq n j.cause
  let c := j.chans.foldl (fun c k => c.jobLeft k.model) c
  c.showJobs j.lead

/-- R208: the save is complete: MAGIC last, the grant back, the tiles free, the event; the job waits to resume. -/
def saveComplete (id : Nat) (c : Chip) : Chip :=
  match c.job? id with
  | none => c
  | some j =>
    match j.chans with
    | [] => c
    | k :: _ =>
      if j.phase ≠ .saving then c
      else
        match c.saveTiles k j.slice j.cls j.saveBase (k.placement.mapIdx (fun i n => (i, n))) 0 with
        | (.ok, n, c) =>
          match c.saveWrites j.slice j.cls (c.jobRecord j k) 0 with
          | (.ok, _, c) => c.saved j k n
          | (o, _, c) => c.endJob id (servedStatus o) 0
        | (o, _, c) => c.endJob id (servedStatus o) 0

def execSaveComplete (job : Nat) (s : State) : Host.Outcome State Fault Refusal := s.on (saveComplete job)

/-! ### Restore (R209) -/

/-- Bytes of a tile's accumulators and vector registers set. -/
def Tile.loadFiles (t : Tile) (acc vec : List Byte) : Tile := { (t.putAccBytes 0 acc) with vregs := memWrite [] 0 vec }

/-- A read of the save area. -/
def Chip.saveRead (c : Chip) (tag cls a n : Nat) : Served × List Byte × Chip := c.loadRange saveMaster tag a n cls

/-- The dirty lines of a block put back. -/
def Chip.restoreLines (c : Chip) (tag cls n a : Nat) : List Nat → Nat → Served × Nat × Chip
  | [], k => (.ok, k, c)
  | l :: rest, k =>
    match c.saveRead tag cls (a + 0x14000 + 64 * l) 64 with
    | (.ok, b, c) => Chip.restoreLines (c.store (tileAddr n + 64 * l) b) tag cls n a rest (k + 64)
    | (o, _, c) => (o, k, c)

/-- The state that a block's bytes stand for: of those this part wrote, the state they were written for. -/
def Chip.blockState (c : Chip) (b : List Byte) : SaveTile :=
  let key := b.take 0x800 ++ (b.drop 0xB000).take 0x1000
  match c.saves.find? (fun p => p.1 == key) with
  | some p => p.2
  | none => Config.savedTile key

/-- A delivery's bytes with the reserved lines of its pool put in. -/
def Deliv.loadLines (d : Deliv) (l : List (Nat × List Byte)) : Deliv :=
  { d with data := (List.range (d.data.length / 64)).flatMap (fun i => match l.find? (fun p => p.1 == (d.line + i) % 128) with
    | some p => p.2
    | none => (d.data.drop (64 * i)).take 64) }

/-- The reserved lines of one pool, read from its place in the area. -/
def Chip.poolRead (c : Chip) (tag cls a : Nat) : List Nat → Served × List (Nat × List Byte) × Chip
  | [] => (.ok, [], c)
  | i :: rest =>
    let r := c.saveRead tag cls (a + 64 * i) 64
    if r.1 = .ok then
      let y := Chip.poolRead r.2.2 tag cls a rest
      (y.1, (i, r.2.1) :: y.2.1, y.2.2)
    else (r.1, [], r.2.2)

/-- The reserved lines of the pools put back, Rill by Rill. -/
def Chip.restorePools (c : Chip) (tag cls a : Nat) : AMap Rill → Nat → Served × AMap Rill × Nat × Chip
  | [], k => (.ok, [], k, c)
  | (r, x) :: l, k =>
    let p := c.poolRead tag cls (a + 0xC000 + 0x2000 * r) ((poolLines x).map (·.1))
    if p.1 = .ok then
      let y := Chip.restorePools p.2.2 tag cls a l (k + 64 * p.2.1.length)
      (y.1, (r, { x with delivs := x.delivs.map (fun d => d.loadLines p.2.1) }) :: y.2.1, y.2.2.1, y.2.2.2)
    else (p.1, [], k, p.2.2)

/-- The tile that goes on: its sequencer and Rills as the block says, its files read, nothing in its queues that the save
rewound. -/
def restoredTile (j : Job) (k : Chan) (s : SaveTile) (i now : Nat) (b e : List Byte) (rills : AMap Rill) : Tile :=
  { (s.tile.loadFiles ((b.drop 0x1000).take 0x2000) ((b.drop 0x3000).take 0x8000)) with job := some j.id, jobTile := i, slice := j.slice, cls := j.cls, model := k.model, codeOfs := bytesU e 0 4, codeCount := bytesU e 4 2, ibuf := [], wanted := [s.tile.pc / 128], executing := [], faulting := none, progress := now, rills := rills }

/-- The waits of a tile registered again (R119). -/
def Chip.rewait (c : Chip) (n : Nat) (t : Tile) : Chip :=
  { c with unitWaits := c.unitWaits ++ t.waits.map (fun (w : TileWait) => ({ who := .tile n, obj := w.obj, threshold := w.threshold, met := decide (w.threshold ≤ syncCount (c.sync w.obj)) || syncErr (c.sync w.obj), err := syncErr (c.sync w.obj) } : UnitWait)) }

/-- The registers of a tile and of its group's engines as the block says. -/
def Chip.restoreRegs (c : Chip) (n : Nat) (s : SaveTile) : Chip :=
  let c := c.setReg (TILE_LFSR n) s.lfsr
  let c := (c.setFld (TILE_STATUS n) TILE_STATUS.SAT (bitsOf s.status 3 3)).setFld (TILE_STATUS n) TILE_STATUS.NAN_SEEN (bitsOf s.status 4 4)
  s.engines.foldl (fun c e => if e.1 / 3 = n / 16 then (c.setEngine (e.1 / 3) (e.1 % 3) e.2.1).setReg (engLfsr (e.1 / 3) (e.1 % 3)) e.2.2 else c) c

/-- A tile's files and status once its block is read (`b`): the clean lines come from their preloads again (R206, R209). -/
def Chip.restoreFiles (c : Chip) (j : Job) (k : Chan) (m : Model) (s : SaveTile) (n i bytes : Nat) (b : List Byte) (lines : List Nat)
    (e : List Byte) (ps : List (Nat × Nat × Nat)) (rills : AMap Rill) : Served × Nat × Chip :=
  let clean := ((preloadLines ps).map (fun p => (tileAddr n + p.1) / 64)).filter (fun l => !lines.contains (l - tileAddr n / 64))
  let t := restoredTile j k s i c.now b e rills
  let r := c.preloadAll m n j.slice j.cls (some clean) (preloadLines ps)
  let c := (((r.2.setTile n t).restoreRegs n s).rewait n t).setTileState n (if t.ended then tsIdle else tsRunning)
  let c := ([0, 1, 2, 3].foldl (fun c r => (c.rillClear n r).showRill n r) c).showQueue n
  match r.1 with
  | some f => (.ok, bytes, c.tileFault n f t.pc)
  | none => (.ok, bytes, c)

/-- A tile's block read (`b`) and its dirty lines put back: its job area and entry, its pools, then its files. -/
def Chip.restoreLoaded (c : Chip) (j : Job) (k : Chan) (m : Model) (v : Variant) (i bytes : Nat) (b : List Byte) (lines : List Nat) :
    Served × Nat × Chip :=
  let n := k.first + i
  let s := c.blockState b
  match (c.store (tileAddr n + 0xBC000) (jobArea j k i)).tileEntry m v n j.slice j.cls i with
  | (.error f, c) => (if f = tfAccess then .denied else .uncorrectable, bytes, c)
  | (.ok (e, ps), c) =>
    let y := c.restorePools j.slice j.cls (j.saveBase + 0x10000 + i * 0xD0000) s.tile.rills bytes
    if y.1 = .ok then y.2.2.2.restoreFiles j k m s n i y.2.2.1 b lines e ps y.2.1 else (y.1, y.2.2.1, y.2.2.2)

/-- The lines of a tile that its block names dirty. -/
def blockLines (b : List Byte) : List Nat :=
  let bm := (b.drop 0x800).take 1504
  (List.range (1504 * 8)).filter (fun l => bitOf ((bm.getD (l / 8) 0).toNat) (l % 8))

/-- The dirty lines of a tile's block written, on a memory that holds nothing, and the rest of the block loaded. -/
def Chip.restoreHeld (c : Chip) (j : Job) (k : Chan) (m : Model) (v : Variant) (i a : Nat) (head : List Byte) : Served × Nat × Chip :=
  let w := ((c.clearLines (tileAddr (k.first + i)) tileMemSize).allDirty (k.first + i)).restoreLines j.slice j.cls (k.first + i) a (blockLines head) 0xC000
  if w.1 = .ok then w.2.2.restoreLoaded j k m v i w.2.1 head (blockLines head) else w

/-- A tile's block in a save area read and restored. -/
def Chip.restoreBlock (c : Chip) (j : Job) (k : Chan) (m : Model) (v : Variant) (i a : Nat) : Served × Nat × Chip :=
  let r := c.saveRead j.slice j.cls a 0xC000
  if r.1 = .ok then r.2.2.restoreHeld j k m v i a r.2.1 else (r.1, 0, r.2.2)

/-- A job tile restored: its dirty lines and files from the area; what another job left in its memory is gone, so that lines
unwritten at the save read zero again (R206). -/
def Chip.restoreTile (c : Chip) (j : Job) (k : Chan) (m : Model) (v : Variant) (i : Nat) : Served × Nat × Chip :=
  c.restoreBlock j k m v i (j.saveBase + 0x10000 + i * 0xD0000)

/-- Every job tile restored. -/
def Chip.restoreTiles (c : Chip) (j : Job) (k : Chan) (m : Model) (v : Variant) : List Nat → Nat → Served × Nat × Chip
  | [], n => (.ok, n, c)
  | i :: l, n =>
    let r := c.restoreTile j k m v i
    if r.1 = .ok then
      Chip.restoreTiles (r.2.2.count (GRP_RESTORE_BYTES ((k.first + i) / 16)) GRP_RESTORE_BYTES.COUNT r.2.1) j k m v l (n + r.2.1)
    else r

/-- An engine goes on: `old` as its group's blocks say, its restart point as the job record says (R173, R209). -/
def Engine.resume (x old : Engine) (e cursor : Nat) : Engine :=
  { x with desc := cursor % 2 ^ 16, seg := if e = 2 then 0 else bitsOf cursor 31 16, row := cursor / 2 ^ 32, active := old.active, firstEmpty := old.firstEmpty, empties := old.empties }

/-- The engines of a channel go on from where the save area says (R209): each restarts its descriptor at its restart point,
with the LFSR it had there (R166). -/
def Chip.resumeEngines (c : Chip) (j : Job) (k : Chan) (m : Model) (v : Variant) (head : List Byte) : Chip :=
  let old := c
  let (relocs, c) := c.relocList m v (k.first / 16) j.slice j.cls
  (c.chanClaims k).foldl (fun c e =>
    let i := k.groups.findIdx (fun g => g == e.1)
    let c := c.updEngine e.1 e.2.1 (fun x => x.resume (old.engine e.1 e.2.1) e.2.1 (bytesU head (152 + 24 * i + 8 * e.2.1) 8))
    let c := if e.2.1 < 2 then c.setReg (engLfsr e.1 e.2.1) (old.reg (engLfsr e.1 e.2.1)) else c
    c.showDesc e.1 e.2.1) (c.startEngines j k relocs)

/-- A job has been restored, `n` bytes: it runs on, MAGIC is cleared and the event written (R209).  A job of another part
brings the time it ran there. -/
def Chip.restored (c : Chip) (j : Job) (k : Chan) (head : List Byte) (n : Nat) : Chip :=
  let c := (c.saveRange saveMaster j.slice (j.saveBase + 128) (leBytes 4 0) j.cls).2.2
  let c := c.updJob j.id (fun j => { j with phase := .running, cause := 0, preempts := max j.preempts (bytesU head 132 1), chans := j.chans.map (fun k => { k with since := c.now, runNs := k.runNs + (if j.cause = 0xFF then bytesU head 144 8 else 0) }) })
  let c := c.event j.slice 0x0102 j.ring j.seq n (bytesU head 136 8)
  k.placement.foldl (fun c n => c.advance n) c

/-- R209: the restore is complete: Rills and engines go on from their cursors, the event is written and MAGIC cleared. -/
def restoreComplete (id : Nat) (c : Chip) : Chip :=
  match c.job? id with
  | none => c
  | some j =>
    match j.chans with
    | [] => c
    | k :: _ =>
      match c.model? k.model, c.variantOf k with
      | some m, some v =>
        if j.phase ≠ .restoring then c
        else
          match c.saveRead j.slice j.cls j.saveBase 512 with
          | (.ok, head, c) =>
            match c.restoreTiles j k m v (List.range k.tiles) 0 with
            | (.ok, n, c) => (c.resumeEngines j k m v head).restored j k head n
            | (o, _, c) => c.endJob id (servedStatus o) 0
          | (o, _, c) => c.endJob id (servedStatus o) 0
      | _, _ => c

def execRestoreComplete (job : Nat) (s : State) : Host.Outcome State Fault Refusal := s.on (restoreComplete job)

/-! ### JOB_PREEMPT and JOB_ABORT (R210, R211) -/

/-- The job a RING and SEQUENCE name: of those, the one that started most recently. -/
def Chip.targetJob (c : Chip) (s ring seq : Nat) : Option Job := (c.jobs.filter (fun j => j.slice == s && j.ring == ring && j.seq == seq && !j.isGolden)).getLast?

/-- A restore stops: the area still holds the state; tiles, engines and grant are freed, deferred evictions follow, and the
job waits in its queue again (R196, R210). -/
def Chip.stopRestore (c : Chip) (id : Nat) : Chip :=
  match c.job? id with
  | none => c
  | some j =>
    let c := ((c.freeJob id).giveBack (.job id)).updJob id (fun j => { j with phase := .saved })
    (j.chans.foldl (fun c k => c.jobLeft k.model) c).showJobs j.lead

/-- R210: what JOB_PREEMPT does to its target, for a packet or mailbox command that hears of it by `told`: at once, with
a result word, or once the save is complete. -/
def Chip.preemptTarget (c : Chip) (t : Option Job) (hold : Nat) (told : Chip → Nat → Chip) (wait : Chip → Nat → Chip) : Chip :=
  let held := fun (c : Chip) (j : Job) => if hold = 0 then c else c.updJob j.id (fun j => { j with hold := some (c.now + hold * 1000) })
  match t with
  | none => told c 0
  | some j =>
    match j.phase with
    | .queued => told (held c j) 0
    | .saved => told (held c j) 0
    | .weir => told c 0
    | .restoring => told (held (c.stopRestore j.id) j) 1
    | .saving => wait c j.id
    | _ => wait (c.updJob j.id (fun j => { j with wanted := some (j.wanted.getD 1) })) j.id

def jobPreempt (id : Nat) (c : Chip) : Chip :=
  c.onPacket id 0x212 (fun p c =>
    let t := c.targetJob p.slice (p.u 32 1) (p.u 36 4)
    if 16 ≤ p.u 32 1 ∨ !zeroIn p.bytes 33 36 ∨ 1000000 < p.u 40 4 ∨ !zeroIn p.bytes 44 64 ∨ t.any (fun j => j.cls == 0) then c.finish p.id stBadParam
    else c.preemptTarget t (p.u 40 4) (fun c r => c.finish p.id stDone r)
      (fun c j => (c.updJob j (fun j => { j with waiters := j.waiters ++ [(p.id, p.u 40 4)] })).keepRunning p.id))

def execJobPreempt (packet : Nat) (s : State) : Host.Outcome State Fault Refusal := s.on (jobPreempt packet)

/-- R210: a hold is over. -/
def preemptHoldExpiry (id : Nat) (c : Chip) : Chip :=
  c.updJob id (fun j => match j.hold with
    | some t => if t ≤ c.now then { j with hold := none } else j
    | none => j)

def execPreemptHoldExpiry (job : Nat) (s : State) : Host.Outcome State Fault Refusal := s.on (preemptHoldExpiry job)

/-- The save area of a job that is being saved is left undefined: its bytes are written with free ones (R211). -/
def Chip.loseArea (c : Chip) (j : Job) (n : Nat) : Chip :=
  let (b, c) := c.drawBytes n
  (c.saveRange saveMaster j.slice j.saveBase b j.cls).2.2

/-- R211: a job ends without a save, with a status; an area being written is left undefined. -/
def Chip.abortJob (c : Chip) (j : Job) (status : Nat) : Chip :=
  let c := if j.phase = .saving then c.loseArea j (saveBytes (sumOf (j.chans.map (·.tiles)))) else c
  let c := if j.phase = .running then (j.chans.flatMap c.chanClaims).foldl Chip.stopEngine (j.tiles.foldl Chip.stopTile c) else c
  c.endJob j.id status 0

def jobAbort (id : Nat) (c : Chip) : Chip :=
  c.onPacket id 0x213 (fun p c =>
    if 16 ≤ p.u 32 1 ∨ !zeroIn p.bytes 33 36 ∨ !zeroIn p.bytes 40 64 then c.finish p.id stBadParam
    else match c.targetJob p.slice (p.u 32 1) (p.u 36 4) with
      | some j => (c.abortJob j stAborted).finish p.id stDone 1
      | none => c.finish p.id stDone 0)

def execJobAbort (packet : Nat) (s : State) : Host.Outcome State Fault Refusal := s.on (jobAbort packet)

end Sys2Proof.Machine
end

