-- ==== Sys2Proof/Machine/Diverse.lean ====
section
/-!
DEFINITION. The two channels of a Safety job, the end of every job, and Weir (11 R288 to R297).
-/

namespace Sys2Proof.Machine

/-! ### JOB_RUN_DIVERSE (R288, R289) -/

/-- R289 step 5 for one tensor. -/
def tensorFits (ka kb : Chan) (e : List Byte) : Bool :=
  match ka.bindings[tBinding e]?, kb.bindings[tBinding e]? with
  | some a, some b =>
    decide (tOffset e + tBytes e ≤ a.2) && decide (tOffset e + tBytes e ≤ b.2) &&
    (tMode e == 0 || !rangesMeet (a.1 + tOffset e, tBytes e) (b.1 + tOffset e, tBytes e))
  | _, _ => false

/-- The tensor entries of an output's profile. -/
def Output.tensors (o : Output) : List (List Byte) := (List.range (profTensors o.profile)).map (tensorEntry o.profile)

/-- Checks 3 to 5 of R289. -/
def Chip.diverseStatus (c : Chip) (p : Packet) (ka kb : Chan) : Option Nat :=
  match c.output? (p.u 38 1) with
  | none => some stNotOwner
  | some o =>
    if o.slice ≠ p.slice then some stNotOwner
    else if meets ka.groups kb.groups || (p.u 32 2 == p.u 36 2 && p.u 34 1 == p.u 35 1) then some stBadParam
    else if !o.tensors.all (tensorFits ka kb) then some stBadParam
    else none

/-- The fields of a JOB_RUN_DIVERSE break R288. -/
def Packet.diverseBad (p : Packet) : Bool :=
  let mode := p.u 39 1
  decide (p.cls ≠ 0 ∨ 32 ≤ p.u 38 1 ∨ 4 ≤ mode ∨ 64 ≤ p.u 44 2 ∨ 16 < p.u 46 2 ∨ 2 ^ 48 ≤ p.u 48 8 ∨ p.u 48 8 % 32 ≠ 0 ∨ 2 ^ 48 ≤ p.u 56 8 ∨ p.u 56 8 % 32 ≠ 0 ∨ bitOf (p.u 72 8) 63 ∨ !zeroIn p.bytes 96 128)

/-- The Safety job that a JOB_RUN_DIVERSE queues. -/
def Packet.diverseJob (p : Packet) (ka kb : Chan) (rel arrival : Nat) : Job :=
  { id := p.id, kind := .diverse (p.u 38 1) (p.u 80 8) (p.u 88 8), slice := p.slice, ring := p.ring, seq := p.seq, cls := 0, seed := p.u 40 4, ioCount := p.u 46 2, release := some rel, arrival := arrival, chans := [ka, kb], timeoutUs := p.u 68 4 }

def jobDiverseBody (p : Packet) (c : Chip) : Chip :=
  if p.diverseBad then c.finish p.id stBadParam
  else match c.checkChan p.slice p.cls (p.u 32 2) (p.u 34 1) (p.u 48 8) (p.u 46 2) with
    | (.error st, c) => c.finish p.id st
    | (.ok ka, c) =>
      match c.releaseTime p (p.u 39 1) (p.u 44 2) (p.u 64 4) (p.u 72 8) with
      | none => c.finish p.id stBadParam
      | some rel =>
        if 256 ≤ c.queueDepth (ka.first / 16) then c.finish p.id stNoResource
        else match c.checkChan p.slice p.cls (p.u 36 2) (p.u 35 1) (p.u 56 8) (p.u 46 2) with
          | (.error st, c) => c.finish p.id st
          | (.ok kb, c) =>
            if 256 ≤ c.queueDepth (kb.first / 16) then c.finish p.id stNoResource
            else match c.diverseStatus p ka kb with
            | some st => c.finish p.id st
            | none => c.queueJob p (p.diverseJob ka kb rel c.starts)

def jobRunDiverse (id : Nat) (c : Chip) : Chip := c.onPacket id 0x211 jobDiverseBody
def execJobRunDiverse (packet : Nat) (s : State) : Host.Outcome State Fault Refusal := s.on (jobRunDiverse packet)

/-! ### Records of a Safety job (R296) -/

/-- What Weir has found in a job. -/
structure Verdict where
  compared : Nat := 0
  /-- The first disagreeing tensor and its first violating index. -/
  bad : Option (Nat × Option Nat) := none
  violations : Nat := 0
  /-- The first violating index of the first tensor with a violation. -/
  first : Option Nat := none
  deriving DecidableEq, Repr

/-- RUN_US of the channel that ended later. -/
def Job.laterUs (j : Job) : Nat := (j.chans.map Chan.runUs).foldl max 0

def Verdict.index (v : Verdict) : Nat :=
  match v.bad with
  | some (_, i) => i.getD 0xFFFFFFFF
  | none => v.first.getD 0xFFFFFFFF

/-- The payload of a safety record. -/
def Verdict.payload (v : Verdict) (j : Job) : List Byte :=
  let io := match j.chans with
    | k :: _ => k.ioTable
    | [] => 0
  leBytes 8 io ++ leBytes 4 j.seq ++ leBytes 1 v.compared ++ leBytes 1 ((v.bad.map (·.1)).getD 0xFF) ++ leBytes 2 0 ++
    leBytes 4 (min v.violations 0xFFFFFFFF) ++ leBytes 4 j.laterUs ++ leBytes 4 v.index ++ leBytes 4 0

/-- UNTESTED and DEGRADED of the placements' groups. -/
def Chip.healthFlags (c : Chip) (j : Job) : Nat :=
  let gs := j.chans.flatMap Chan.groups
  (if gs.any (fun g => c.flag (SAF_HEALTH g) SAF_HEALTH.UNTESTED) then 2 ^ 8 else 0) +
  (if gs.any (fun g => c.flag (SAF_HEALTH g) SAF_HEALTH.DEGRADED) then flDegraded else 0)

/-- The record of a Safety job. -/
def Chip.publishJob (c : Chip) (j : Job) (v : Verdict) (flags : Nat) (ok : Bool) : Chip :=
  match j.kind with
  | .diverse o validity oldest =>
    c.publishOutput o validity (timeSince c.now oldest) (max j.quality c.quality) (flags + c.healthFlags j) ok (v.payload j)
  | _ => c

/-- A Safety job is over: its packet completes after its record. -/
def Chip.endDiverse (c : Chip) (id status result detail : Nat) : Chip :=
  match c.job? id with
  | none => c
  | some j =>
    let c := if j.chans.any (·.streamed) then c.count MC_STREAMED_JOBS MC_STREAMED_JOBS.COUNT 1 else c
    (c.jobPacket j status result detail).removeJob id

/-- R291: a channel failed: the other stops, the record is INVALID, the group enters its safe state. -/
def Chip.channelFailed (c : Chip) (id chan status detail : Nat) (v : Verdict) : Chip :=
  match c.job? id with
  | none => c
  | some j =>
    let live := j.chans.filter (·.holding)
    let c := if j.phase = .running then (live.flatMap c.chanClaims).foldl Chip.stopEngine ((live.flatMap Chan.placement).foldl Chip.stopTile c) else c
    let c := c.freeJob id
    match c.job? id with
    | none => c
    | some j =>
      let c := c.publishJob j v flChannelFailed false
      let word := status + chan * 2 ^ 16 + detail % 2 ^ 32 * 2 ^ 32
      let c := match j.kind with
        | .diverse o _ _ => c.outputFault o 0x0402 ssChannelFailed j.seq word
        | _ => c
      c.endDiverse id stOutputInvalid 0 word

/-! ### JOB_END (R183, R290, R291, R295) -/

/-- The channels of a Safety job that have come to their end are marked and let go. -/
def Chip.closeChans (c : Chip) (id : Nat) : Chip :=
  match c.job? id with
  | none => c
  | some j => (List.range j.chans.length).foldl (fun (c : Chip) i =>
      match j.chans[i]? with
      | some k =>
        if k.ended.isSome then c
        else match c.chanEnd k with
          | some e =>
            let c := c.freeChan id i
            c.updJob id (fun j => { j with chans := j.chans.modify i (fun k => { k with ended := some e }) })
          | none => c
      | none => c) c

/-- Weir's registers: the job it compares, and those that wait behind it (R295). -/
def Chip.showWeir (c : Chip) : Chip :=
  (c.setFld SAF_WEIR_STATUS SAF_WEIR_STATUS.BUSY (b2n (!c.weir.isEmpty))).setFld SAF_WEIR_STATUS SAF_WEIR_STATUS.QUEUE (min 16 (c.weir.length - 1))

/-- The ends of a Safety job's channels, of those that have come to one. -/
def Chip.chanEnds (c : Chip) (j : Job) : List (Option (Nat × Nat)) :=
  j.chans.map (fun k => match k.ended with
    | some e => some e
    | none => c.chanEnd k)

/-- A channel's end that is a failure. -/
def failedEnd : Option (Nat × Nat) → Bool
  | some (st, _) => !isSuccess st
  | none => false

/-- Both channels complete: the job gives its grant back and waits for Weir (R290, R293). -/
def Chip.toWeir (c : Chip) (id : Nat) : Chip :=
  let c := (c.closeChans id).giveBack (.job id)
  let c := c.updJob id (fun j => { j with phase := .weir })
  Chip.showWeir { c with weir := c.weir ++ [id] }

/-- A Safety job's channels: a failure ends the job; with both complete it goes to Weir, which compares one job and holds
16 more. -/
def Chip.diverseEnd (c : Chip) (j : Job) : Chip :=
  match (c.chanEnds j).findIdx? failedEnd with
  | some i => match ((c.chanEnds j)[i]?).join with
    | some (st, d) => c.channelFailed j.id i st d {}
    | none => c
  | none =>
    if (c.chanEnds j).all Option.isSome then (if 17 ≤ c.weir.length then c else c.toWeir j.id)
    else c.closeChans j.id

def jobEnd (id : Nat) (c : Chip) : Chip :=
  match c.job? id with
  | none => c
  | some j =>
    if j.phase ≠ .running then c
    else match j.kind with
      | .run => match j.chans with
        | k :: _ => match c.chanEnd k with
          | some (st, d) => c.endJob id st d
          | none => c
        | [] => c
      | .diverse _ _ _ => c.diverseEnd j
      | .golden _ _ => c

def execJobEnd (job : Nat) (s : State) : Host.Outcome State Fault Refusal := s.on (jobEnd job)

/-! ### Weir's judgement (R293, R294) -/

def fp64 : Fmt := ⟨11, 52, 1023, 2⟩

/-- An exact value rounded once to binary64. -/
def f64 (v : FVal) : FVal := fp64.decode (fp64.encode .rne false v)

/-- TOLERANCE: the pair violates. -/
def tolViolates (nanEqual : Bool) (absTol relTol a b : FVal) : Bool :=
  match a, b with
  | .nan, .nan => !nanEqual
  | .nan, _ => true
  | _, .nan => true
  | .inf s, .inf s' => s != s'
  | .inf _, _ => true
  | _, .inf _ => true
  | a, b =>
    let m := if Dy.le a.dy.abs b.dy.abs then b.dy.abs else a.dy.abs
    let rhs := f64 ((absTol.dy.add (relTol.dy.mul m)).val false)
    match rhs with
    | .inf _ => false
    | r => Dy.lt r.dy (a.dy.add b.dy.neg).abs

/-- An element ranks before another by value: larger first, NaN below every number. -/
def ranksBefore (a b : FVal) : Bool := if a.isNan then false else b.isNan || flt b a

/-- The K first of a row, ranked; an element goes behind those it does not rank before. -/
def rankInsert (x : FVal × Nat) : List (FVal × Nat) → List (FVal × Nat)
  | [] => [x]
  | y :: l => if ranksBefore x.1 y.1 then x :: y :: l else y :: rankInsert x l
def topK (k : Nat) (row : List FVal) : List Nat := ((row.zipIdx).foldl (fun l x => (rankInsert x l).take k) []).map (·.2)

/-- TOPK: the row violates. -/
def topkViolates (ordered : Bool) (k : Nat) (a b : List FVal) : Bool :=
  let x := topK k a
  let y := topK k b
  if ordered then x != y else !(x.all y.contains && y.all x.contains)

/-- CRC-64 of ECMA-182, reflected: one bit, one byte, and the whole. -/
def crc64Bit (x : Nat) : Nat := if x % 2 = 1 then (x / 2) ^^^ 0xC96C5795D7870F42 else x / 2
def crc64Byte (x : Nat) (b : Byte) : Nat := (List.range 8).foldl (fun x _ => crc64Bit x) (x ^^^ b.toNat)
def crc64 (l : List Byte) : Nat := l.foldl crc64Byte (2 ^ 64 - 1) ^^^ (2 ^ 64 - 1)

/-- Indices of the violations of a tensor. -/
def violationsOf (e : List Byte) (a b : List Byte) (tolerance : Bool) : List Nat :=
  let va := elems (tFmt e) a (tCount e)
  let vb := elems (tFmt e) b (tCount e)
  if tolerance then
    ((va.zip vb).zipIdx.filter (fun p => tolViolates (tNanEqual e) (fdec (bytesU e 12 4)) (fdec (bytesU e 16 4)) p.1.1 p.1.2)).map (·.2)
  else
    (List.range (tCount e / tClasses e)).filter (fun r =>
      topkViolates (tOrdered e) (tK e) ((va.drop (r * tClasses e)).take (tClasses e)) ((vb.drop (r * tClasses e)).take (tClasses e)))

/-- A tensor judged. -/
def Verdict.judge (v : Verdict) (t : Nat) (e a b : List Byte) (sat : Bool) : Verdict :=
  let v := { v with compared := v.compared + 1 }
  if tMode e = 3 ∧ !sat then
    if crc64 a = crc64 b then v else { v with bad := some (v.bad.getD (t, none)) }
  else
    let l := violationsOf e a b (tMode e != 2)
    let v := { v with violations := v.violations + l.length, first := match v.first with
      | some i => some i
      | none => l.head? }
    if tMaxViol e < l.length then { v with bad := some (v.bad.getD (t, l.head?)) } else v

/-- R293: the tensors of a profile, read from both channels and judged in order; a failed read names its channel. -/
def Chip.weirTensors (c : Chip) (slice : Nat) (ka kb : Chan) (sat : Bool) : List (Nat × List Byte) → Verdict → Except (Nat × Nat) Unit × Verdict × Chip
  | [], v => (.ok (), v, c)
  | (t, e) :: l, v =>
    if tMode e = 0 then Chip.weirTensors c slice ka kb sat l v
    else
      let at' := fun (k : Chan) => ((k.bindings[tBinding e]?).map (·.1)).getD 0 + tOffset e
      match c.loadRange islandMaster slice (at' ka) (tBytes e) with
      | (.ok, a, c) =>
        match (c.count SAF_WEIR_BYTES SAF_WEIR_BYTES.COUNT (tBytes e)).loadRange islandMaster slice (at' kb) (tBytes e) with
        | (.ok, b, c) => Chip.weirTensors (c.count SAF_WEIR_BYTES SAF_WEIR_BYTES.COUNT (tBytes e)) slice ka kb sat l (v.judge t e a b sat)
        | (o, _, c) => (.error (1, servedStatus o), v, c)
      | (o, _, c) => (.error (0, servedStatus o), v, c)

/-- R297: the result word. -/
def Job.diverseResult (j : Job) (v : Verdict) : Nat :=
  let bits := j.chans.zipIdx.map (fun p => (b2n p.1.sat + 2 * b2n p.1.nan + 4 * b2n p.1.streamed) * 2 ^ (3 * p.2))
  sumOf bits + v.compared % 256 * 2 ^ 8 + min v.violations 65535 * 2 ^ 16 + j.laterUs * 2 ^ 32

/-- Both channels agree: the record is published, and the job completes, with a result word on DONE (R74, R295, R297). -/
def Chip.weirAgrees (c : Chip) (j : Job) (x : Output) (v : Verdict) (fl : Nat) : Chip :=
  (c.publishJob j v fl true).endDiverse j.id (if x.missed then stDeadlineMissed else stDone) (if x.missed then 0 else j.diverseResult v) 0

/-- They disagree in a tensor: the record is INVALID, the output's fault follows, and the job ends so (R295). -/
def Chip.weirDisagrees (c : Chip) (j : Job) (o : Nat) (v : Verdict) (fl detail : Nat) : Chip :=
  ((c.publishJob j v (fl + flDisagree) false).outputFault o 0x0401 ssDisagree j.seq detail).endDiverse j.id stChannelDisagree 0 detail

/-- The detail word of a disagreement: tensor, mode and first index. -/
def disagreeDetail (ts : List (List Byte)) (t : Nat) (i : Option Nat) : Nat :=
  t + tMode (ts.getD t []) * 2 ^ 8 + i.getD 0xFFFFFFFF * 2 ^ 32

/-- The job that has waited longest leaves Weir's queue. -/
def Chip.weirNext (c : Chip) (rest : List Nat) : Chip := Chip.showWeir { c with weir := rest }

/-- SAT_FALLBACK: a saturated channel had a CRC tensor judged by tolerance (R294). -/
def satFlag (ka kb : Chan) (ts : List (List Byte)) : Nat := if (ka.sat || kb.sat) && ts.any (fun e => tMode e == 3) then flSatFallback else 0

/-- R295 to R297: Weir takes the job that has waited longest, decides, and the record is published. -/
def weirDecision (c : Chip) : Chip :=
  match c.weir with
  | [] => c
  | id :: rest =>
    let c := c.weirNext rest
    match c.job? id with
    | none => c
    | some j =>
      match j.kind, j.chans with
      | .diverse o _ _, ka :: kb :: _ =>
        match c.output? o with
        | none => c
        | some x =>
          let c := c.count SAF_WEIR_COMPARES SAF_WEIR_COMPARES.COUNT 1
          match c.weirTensors j.slice ka kb (ka.sat || kb.sat) (x.tensors.zipIdx.map (fun p => (p.2, p.1))) {} with
          | (.error (ch, st), v, c) => c.channelFailed id ch st 0 v
          | (.ok _, v, c) =>
            match v.bad with
            | none => c.weirAgrees j x v (satFlag ka kb x.tensors)
            | some (t, i) => c.weirDisagrees j o v (satFlag ka kb x.tensors) (disagreeDetail x.tensors t i)
      | _, _ => c

def execWeirDecision (s : State) : Host.Outcome State Fault Refusal := s.on weirDecision

end Sys2Proof.Machine
end

