-- ==== Sys2Proof/Machine/Acoustic.lean ====
section
/-!
DEFINITION. The acoustic loop engine, its TDM ports, its rings and its IEEE 1722 listeners (09 R240 to R260).
-/

namespace Sys2Proof.Machine

/-- The engine's master, and the slice it belongs to (R240). -/
def aleMaster : Nat := 0x34
def Chip.aleSlice (c : Chip) : Nat := c.fld (ACC_MST_CTX aleMaster) ACC_MST_CTX.SLICE_TAG
/-- R240: slice tags the ALE registers accept. -/
def Chip.aleTag (c : Chip) (tag : Nat) : Bool := tag == 0 || tag == c.aleSlice

/-! ### Frames (R241) -/

/-- The number of the frame whose edge is the latest at or before a device time. -/
def frameOf (t : Nat) : Nat := t / 1000000000 * 48000 + ((t % 1000000000 + 1) * 48000 - 1) / 1000000000
/-- The device time of a frame's edge. -/
def frameEdge (f : Nat) : Nat := f / 48000 * 1000000000 + f % 48000 * 1000000000 / 48000
/-- The first frame whose edge lies at or after a device time. -/
def frameFrom (t : Nat) : Nat := if frameEdge (frameOf t) = t then frameOf t else frameOf t + 1

/-! ### Fixed-point arithmetic (R243) -/

/-- x / 2^k rounded to nearest even. -/
def rneShift (x : Int) (k : Nat) : Int :=
  let d : Int := (2 ^ k : Nat)
  let q := x / d
  let r := x % d
  if 2 * r > d ∨ (2 * r = d ∧ q % 2 = 1) then q + 1 else q

/-- A value kept in a signed width, and whether it took the bound. -/
def satTo (w : Nat) (v : Int) : Int × Nat :=
  let b : Int := (2 ^ (w - 1) : Nat)
  if b ≤ v then (b - 1, 1) else if v < -b then (-b, 1) else (v, 0)

/-- One product into a Q9.47 accumulator. -/
def aleMac (s : Int × Nat) (a b : Int) : Int × Nat :=
  let v := satTo 56 (s.1 + rneShift (a * b) 15)
  (v.1, s.2 + v.2)
def aleDot (s : Int × Nat) (a b : List Int) : Int × Nat := (a.zip b).foldl (fun s p => aleMac s p.1 p.2) s
/-- An accumulator rounded to Q1.31. -/
def q31 (s : Int × Nat) : Int × Nat :=
  let v := satTo 32 (rneShift s.1 16)
  (v.1, s.2 + v.2)
def sat31 (v : Int) : Int × Nat := satTo 32 v

/-! ### Fields of the parameter block -/

def apU (p : List Byte) (off k : Nat) : Nat := bytesU p off k
def apR (p : List Byte) : Nat := apU p 4 1
def apM (p : List Byte) : Nat := apU p 5 1
def apS (p : List Byte) : Nat := apU p 6 1
def apDiv (p : List Byte) : Nat := apU p 7 1
def apL (p : List Byte) : Nat := apU p 8 2
def apLS (p : List Byte) : Nat := apU p 10 2
def apInitZero (p : List Byte) : Bool := bitOf (apU p 12 4) 2
def apNB (p : List Byte) : Nat := apU p 104 1
def apLB (p : List Byte) : Nat := apU p 105 1
def apRef (p : List Byte) (r : Nat) : Nat := apU p (40 + 2 * r) 2
def apMic (p : List Byte) (m : Nat) : Nat := apU p (72 + 2 * m) 2
def apSpk (p : List Byte) (s : Nat) : Nat := apU p (88 + 2 * s) 2
def apBm (p : List Byte) (i : Nat) : Nat := apU p (108 + 2 * i) 2

/-- R245: multiply-accumulates and engine clocks per sample. -/
def apCost (p : List Byte) : Nat :=
  apR p * apS p * apL p + apR p * apS p * apM p * apLS p + (apR p * apS p + apDiv p - 1) / apDiv p * apL p * apM p + apNB p * 16 * apLB p
def apClocks (p : List Byte) : Nat := (apCost p + 63) / 64 + 256

def multOf16 (lo hi n : Nat) : Bool := decide (lo ≤ n) && decide (n ≤ hi) && n % 16 == 0
def slotCodeOk (n : Nat) : Bool := bitsOf n 15 10 == 0 && bitsOf n 7 5 == 0
/-- The first `n` of `k` slot codes name slots and the others are unused. -/
def slotsOk (f : Nat → Nat) (n k : Nat) : Bool := (List.range k).all (fun i => if i < n then slotCodeOk (f i) else f i == 0xFFFF)

/-- The block keeps its table. -/
def aleFieldsOk (p : List Byte) : Bool :=
  let u := apU p
  u 0 4 == 0x414C4550 && decide (1 ≤ apR p) && decide (apR p ≤ 16) && decide (1 ≤ apM p) && decide (apM p ≤ 8) && decide (1 ≤ apS p) && decide (apS p ≤ 8) &&
  decide (1 ≤ apDiv p) && decide (apDiv p ≤ 16) && multOf16 16 512 (apL p) && multOf16 16 256 (apLS p) && bitsOf (u 12 4) 31 5 == 0 && bitsOf (u 12 4) 4 3 != 3 &&
  decide (u 20 1 < 32) && decide (u 21 1 < 16) && u 22 2 == 0 && decide (1 ≤ u 28 4) && decide (u 28 4 < 2 ^ 31) && decide (1 ≤ u 36 4) && decide (u 36 4 ≤ 4800000) &&
  slotsOk (apRef p) (apR p) 16 && slotsOk (apMic p) (apM p) 8 && slotsOk (apSpk p) (apS p) 8 && decide (apNB p ≤ 8) && multOf16 16 128 (apLB p) &&
  (List.range 16).all (fun i => slotCodeOk (apBm p i) || (apBm p i == 0xFFFF && !bitOf (u 106 2) i)) &&
  decide (u 140 8 < 2 ^ 48) && u 140 8 % 4096 == 0 && decide (4 ≤ u 148 1) && decide (u 148 1 ≤ 16) && u 149 1 == 0 && decide (480 ≤ u 152 4) && decide (u 152 4 ≤ 48000) && zeroIn p 156 256

/-- Words of the arrays W, SHAT and H. -/
def apWords (p : List Byte) : Nat × Nat × Nat := (if apInitZero p then 0 else apR p * apS p * apL p, apS p * apM p * apLS p, apNB p * 16 * apLB p)
def apBytes (p : List Byte) : Nat := 256 + 4 * ((apWords p).1 + (apWords p).2.1 + (apWords p).2.2)

def codePort (n : Nat) : Nat := bitsOf n 9 8
def codeSlot (n : Nat) : Nat := n % 32

/-- R251: the slot stands in its port's frame: 32 slots at 48 kHz, 16 at 96 kHz. -/
def Chip.slotStands (c : Chip) (n : Nat) : Bool := !c.flag (ALE_PORT_CFG (codePort n)) ALE_PORT_CFG.RATE || decide (codeSlot n < 16)

/-- A loop slot on an enabled 48 kHz port. -/
def Chip.loopSlot (c : Chip) (n : Nat) : Bool := c.flag (ALE_PORT_CFG (codePort n)) ALE_PORT_CFG.EN && !c.flag (ALE_PORT_CFG (codePort n)) ALE_PORT_CFG.RATE
def noRepeats : List Nat → Bool
  | [] => true
  | x :: l => !l.contains x && noRepeats l
def Chip.loopSlotsOk (c : Chip) (p : List Byte) : Bool :=
  let spk := (List.range (apS p)).map (apSpk p)
  ((List.range (apR p)).map (apRef p) ++ (List.range (apM p)).map (apMic p) ++ spk).all c.loopSlot && spk.all (fun n => decide (codeSlot n ≤ 11)) && noRepeats spk

/-! ### Loading (R250) -/

/-- `n` rows of `k` words. -/
def wordRows (b : List Byte) (n k : Nat) : List (List Int) := (List.range n).map (fun i => (List.range k).map (fun j => sx 32 (bytesU b (4 * (i * k + j)) 4)))

def Chip.aleErr (c : Chip) (e : Nat) : Chip := c.setFld ALE_STATUS ALE_STATUS.LOAD_ERR e

/-- The LOAD_ERR code of a block's own checks, in R250's order. -/
def Chip.aleCheck (c : Chip) (p : List Byte) : Option Nat :=
  if !aleFieldsOk p then some 4
  else if (List.range 16).any (fun i => bitOf (apU p 106 2) i && !c.slotStands (apBm p i)) then some 4
  else if 2 ^ 19 < apBytes p then some 7
  else if 9000 < apClocks p then some 5
  else if !c.loopSlotsOk p then some 6
  else none

/-- What a checked block and its words load. -/
def aleBank (p b : List Byte) (frame : Nat) : AleLoad :=
  let nw := apR p * apS p
  let w := if apInitZero p then List.replicate nw (List.replicate (apL p) 0) else wordRows b nw (apL p)
  let b := b.drop (4 * (apWords p).1)
  { params := p, w := w, shat := wordRows b (apS p * apM p) (apLS p), h := wordRows (b.drop (4 * (apWords p).2.1)) (apNB p * 16) (apLB p), frame := frame }

/-- A load accepted: it takes effect at a frame edge to come. -/
def Chip.aleAccept (c : Chip) (k : AleLoad) : Chip :=
  { c with ale := { c.ale with bank := some k } }.setFld ALE_STATUS ALE_STATUS.LOAD_BUSY 1

/-- The LOAD_ERR code of a read that failed. -/
def loadErr (o : Served) : Nat := if o = .denied then 2 else 3

/-- A write of ALE_LOAD. -/
def aleLoad (tag v : Nat) (c : Chip) : Chip :=
  if !c.aleTag tag then c
  else
    let c := c.setFld ALE_LOAD ALE_LOAD.ADDR (bitsOf v 47 6)
    if !bitOf v 0 then c
    else if c.flag ALE_STATUS ALE_STATUS.LOAD_BUSY then c.aleErr 1
    else
      let c := c.aleErr 0
      let a := bitsOf v 47 6 * 64
      match c.loadRange aleMaster c.aleSlice a 256 with
      | (.ok, p, c) =>
        match c.aleCheck p with
        | some e => c.aleErr e
        | none => match c.loadRange aleMaster c.aleSlice (a + 256) (apBytes p - 256) with
          | (.ok, b, c) => c.aleAccept (aleBank p b (frameOf c.now))
          | (o, _, c) => c.aleErr (loadErr o)
      | (o, _, c) => c.aleErr (loadErr o)

def execAleLoad (tag : Nat) (value : W64) (s : State) : Host.Outcome State Fault Refusal := s.on (aleLoad tag value.toNat)

/-- The divergence state clears (R248). -/
def Chip.aleThaw (c : Chip) : Chip :=
  let c := (c.setFld ALE_STATUS ALE_STATUS.FROZEN 0).setFld ALE_STATUS ALE_STATUS.MUTED 0
  { c with ale := { c.ale with above := [], diverged := none } }

/-- Histories start from zero. -/
def Chip.aleClear (c : Chip) : Chip := { c with ale := { c.ale with xHist := [], xfHist := [], micHist := [], beams := [] } }

/-- A load takes effect: with KEEP and the same sizes the histories and the control filters stay. -/
def Chip.aleTake (c : Chip) (k : AleLoad) : Chip :=
  let p := c.ale.params
  let keep := bitOf (apU k.params 12 4) 1 && !p.isEmpty && [apR, apS, apM, apL, apLS].all (fun f => f p == f k.params)
  let c := if keep then c else c.aleClear
  let a := c.ale
  let c := { c with ale := { a with params := k.params, w := if keep then a.w else k.w, w0 := k.w, shat := k.shat, h := k.h, bank := none, statSteps := 0, statDiv := false, statQuality := 0 } }
  ((c.aleThaw).setFld ALE_STATUS ALE_STATUS.LOAD_BUSY 0).setFld ALE_CYCLES ALE_CYCLES.CYCLES (apClocks k.params)

/-- An accepted load takes effect at the first frame edge after its check. -/
def aleLoadTakeEffect (c : Chip) : Chip :=
  match c.ale.bank with
  | none => c
  | some k => if frameOf c.now = k.frame then c else c.aleTake k

def execAleLoadTakeEffect (s : State) : Host.Outcome State Fault Refusal := s.on aleLoadTakeEffect

/-! ### Enables (R247, R252, R260) -/

/-- A write of ALE_CTRL.EN; the loop and ports start or stop at the next frame edge, and setting EN again clears FROZEN and
MUTED (R248). -/
def aleEnable (tag : Nat) (en : Bool) (c : Chip) : Chip :=
  if !c.aleTag tag then c
  else (if en && !c.flag ALE_CTRL ALE_CTRL.EN then c.aleThaw else c).setFld ALE_CTRL ALE_CTRL.EN (b2n en)
def execAleEnable (tag : Nat) (en : Bool) (s : State) : Host.Outcome State Fault Refusal := s.on (aleEnable tag en)

/-- A write of ALE_CTRL.ADAPT, which the next step looks at. -/
def aleAdapt (tag : Nat) (adapt : Bool) (c : Chip) : Chip := if c.aleTag tag then c.setFld ALE_CTRL ALE_CTRL.ADAPT (b2n adapt) else c
def execAleAdapt (tag : Nat) (adapt : Bool) (s : State) : Host.Outcome State Fault Refusal := s.on (aleAdapt tag adapt)

/-- R252: a write of ALE_PORT_CFG is ignored while ALE_CTRL.EN is set. -/
def alePortCfgWrite (tag p v : Nat) (c : Chip) : Chip :=
  if !c.aleTag tag ∨ 4 ≤ p ∨ c.flag ALE_CTRL ALE_CTRL.EN then c else c.setReg (ALE_PORT_CFG p) (bitsOf v 7 3 * 8)
def execAlePortCfgWrite (tag port : Nat) (value : W32) (s : State) : Host.Outcome State Fault Refusal := s.on (alePortCfgWrite tag port value.toNat)

/-- R53, R260: the engine's slice has its function disabled, or the part drains to leave Active (R394; DEDUCED, log 117). -/
def Chip.aleOff (c : Chip) : Bool := c.power.leaving.isSome || match c.slice? c.aleSlice with
  | some s => bitOf s.disabled 3
  | none => false

/-- The engine stops: zero on its outputs, its histories gone, its coefficients kept. -/
def Chip.aleStop (c : Chip) (state : Nat) : Chip :=
  let c := c.aleClear.setFld ALE_STATUS ALE_STATUS.STATE state
  { c with ale := { c.ale with held := [], driven := [] } }

/-! ### One step (R242, R248, R249) -/

/-- The word a slot carries: nothing on a disabled port or beyond its frame; the top 24 bits under WORD. -/
def Chip.slotWord (c : Chip) (n : Nat) (x : W32) : W32 :=
  if !c.flag (ALE_PORT_CFG (codePort n)) ALE_PORT_CFG.EN || !c.slotStands n then 0
  else if c.flag (ALE_PORT_CFG (codePort n)) ALE_PORT_CFG.WORD then x &&& 0xFFFFFF00 else x
/-- A sample latched from a slot. -/
def Chip.slotIn (c : Chip) (l : List (Nat × W32)) (n : Nat) : Int := sx 32 (c.slotWord n (AMap.getD l n 0)).toNat

def rowOf (l : List (List Int)) (i : Nat) : List Int := l.getD i []
/-- New samples pushed on their histories of a length. -/
def pushAll (h : List (List Int)) (n : Nat) (xs : List Int) : List (List Int) := xs.mapIdx (fun i x => (x :: rowOf h i).take n)

/-- The outputs of a step before limiting: one for each speaker, and the saturations. -/
def loopY (p : List Byte) (w x : List (List Int)) : List (Int × Nat) :=
  (List.range (apS p)).map (fun s => q31 ((List.range (apR p)).foldl (fun acc r => aleDot acc (rowOf w (r * apS p + s)) (rowOf x r)) (0, 0)))

/-- The filtered references of a step. -/
def loopXf (p : List Byte) (shat x : List (List Int)) : List (Int × Nat) :=
  (List.range (apR p * apS p * apM p)).map (fun i => q31 (aleDot (0, 0) (rowOf shat (i / apM p % apS p * apM p + i % apM p)) (rowOf x (i / apM p / apS p))))

/-- One tap's update. -/
def tapUpdate (mu sh leak : Int) (w : Int) (g : Int × Nat) : Int × Nat :=
  let v := sat31 (w - rneShift (w * leak) 31 - rneShift (rneShift (mu * g.1) 47) sh.toNat)
  (v.1, g.2 + v.2)

/-- One control filter's update. -/
def filterUpdate (p : List Byte) (e : List Int) (xf : List (List Int)) (pair : Nat) (w : List Int) : List (Int × Nat) :=
  w.mapIdx (fun i wi =>
    let g := (List.range (apM p)).foldl (fun acc m => aleMac acc (e.getD m 0) ((rowOf xf (pair * apM p + m)).getD i 0)) (0, 0)
    tapUpdate (sx 32 (apU p 16 4)) (apU p 20 1) (sx 32 (apU p 24 4)) wi g)

/-- The control filters after a step in frame `n`, and the saturations. -/
def loopUpdate (p : List Byte) (n : Nat) (e : List Int) (w xf : List (List Int)) : List (List Int) × Nat :=
  let r := w.mapIdx (fun k wk => if k % apDiv p = n % apDiv p then filterUpdate p e xf k wk else wk.map (fun v => (v, 0)))
  (r.map (fun l => l.map (·.1)), sumOf (r.map (fun l => sumOf (l.map (·.2)))))

/-- R248: the smoothed error power of one microphone, and whether it took a bound (R243). -/
def powerStep (sh pw e : Int) : Int × Nat := satTo 32 (pw + rneShift (e * e - pw * 2 ^ 31) (31 + sh.toNat))

/-- R249: the beams of a step. -/
def loopBeams (p : List Byte) (h mic : List (List Int)) : List (Int × Nat) :=
  (List.range (apNB p)).map (fun b => q31 ((List.range 16).foldl (fun acc i => if bitOf (apU p 106 2) i then aleDot acc (rowOf h (16 * b + i)) (rowOf mic i) else acc) (0, 0)))

def satsOf (l : List (Int × Nat)) : Nat := sumOf (l.map (·.2))

/-- The adaptive loop's part of a step: the anti-noise of each speaker after the limit. -/
def Chip.loopStep (c : Chip) (f : Nat) (even : List (Nat × W32)) : List Int × Chip :=
  let a := c.ale
  let p := a.params
  if p.isEmpty then ([], c)
  else
    let x := pushAll a.xHist (max (apL p) (apLS p)) ((List.range (apR p)).map (fun r => c.slotIn even (apRef p r)))
    let e := (List.range (apM p)).map (fun m => c.slotIn even (apMic p m))
    let mic := pushAll a.micHist (apLB p) ((List.range 16).map (fun i => if bitOf (apU p 106 2) i then c.slotIn even (apBm p i) else 0))
    let y := loopY p a.w x
    let xfn := loopXf p a.shat x
    let xf := pushAll a.xfHist (apL p) (xfn.map (·.1))
    let adapting := bitOf (apU p 12 4) 0 && c.flag ALE_CTRL ALE_CTRL.ADAPT && !c.flag ALE_STATUS ALE_STATUS.FROZEN
    let (w, ws) := if adapting then loopUpdate p f e a.w xf else (a.w, 0)
    let lim : Int := apU p 28 4
    let muted := c.flag ALE_STATUS ALE_STATUS.MUTED
    let anti := y.map (fun v => if muted then 0 else max (-lim) (min lim v.1))
    let clips := if muted then 0 else (y.filter (fun v => decide (lim < v.1) || decide (v.1 < -lim))).length
    let beams := loopBeams p a.h mic
    let pws := e.mapIdx (fun m em => powerStep (apU p 21 1) (sx 32 (c.reg (ALE_ERRPWR m))) em)
    let pw := pws.map (·.1)
    let above := pw.mapIdx (fun m v => if sx 32 (apU p 32 4) < v then min (a.above.getD m 0 + 1) (apU p 36 4 + 1) else 0)
    let found := above.any (· == apU p 36 4)
    let c := (pw.zipIdx).foldl (fun (c : Chip) q => c.setReg (ALE_ERRPWR q.2) (ux 32 q.1)) c
    let c := (c.count ALE_SAT ALE_SAT.COUNT (satsOf y + satsOf xfn + ws + satsOf beams + satsOf pws)).count ALE_CLIP ALE_CLIP.COUNT clips
    let c := if found then c.count ALE_DIVERGE ALE_DIVERGE.COUNT 1 else c
    (anti, { c with ale := { c.ale with xHist := x, micHist := mic, xfHist := xf, w := w, beams := beams.map (·.1), above := above, diverged := if found then some f else c.ale.diverged, statSteps := a.statSteps + 1, statFirst := if a.statSteps = 0 then frameEdge f else a.statFirst, statDiv := a.statDiv || found, statQuality := max a.statQuality c.quality } })

/-! ### Rings (R253 to R255) -/

def arU (r : AleRing) (off k : Nat) : Nat := bytesU r.desc off k
def arCH (r : AleRing) : Nat := arU r 9 1
def arBlock (r : AleRing) : Nat := arU r 10 2
def arPlay (r : AleRing) : Bool := bitOf (arU r 15 1) 0
def arChan (r : AleRing) (k : Nat) : Nat := arU r (32 + 2 * k) 2
def arBlockBytes (r : AleRing) : Nat := arBlock r * arCH r * 4
def arBuf (r : AleRing) (k : Nat) : Nat := arU r 0 8 + k % arU r 8 1 * arBlockBytes r

def isTdm (n : Nat) : Bool := decide (n < 0x400)
/-- A ring with a channel on a 96 kHz port takes two samples in each frame. -/
def Chip.arFast (c : Chip) (r : AleRing) : Bool :=
  (List.range (arCH r)).any (fun k => isTdm (arChan r k) && c.flag (ALE_PORT_CFG (codePort (arChan r k))) ALE_PORT_CFG.RATE)
/-- The frame in which block `k` begins. -/
def Chip.arFrame (c : Chip) (r : AleRing) (k : Nat) : Nat := r.first + k * arBlock r / (if c.arFast r then 2 else 1)

/-- A channel code that its table lists for the direction, its slot in the port's frame. -/
def Chip.chanOk (c : Chip) (play : Bool) (n : Nat) : Bool :=
  (isTdm n && slotCodeOk n && c.slotStands n) || (decide (0x1000 ≤ n) && decide (n ≤ 0x1007) && !play) || (decide (0x2000 ≤ n) && decide (n ≤ 0x2007) && !play) || (decide (0x3000 ≤ n) && decide (n ≤ 0x303F)) || n == 0xFFFF

/-- R253: the descriptor keeps its table, and its buffers, records and object belong to the slice. -/
def Chip.ringDescOk (c : Chip) (b : List Byte) : Bool :=
  let r : AleRing := { desc := b, first := 0 }
  let u := bytesU b
  let s := c.aleSlice
  decide (u 0 8 < 2 ^ 48) && u 0 8 % 64 == 0 && decide (2 ≤ u 8 1) && decide (u 8 1 ≤ 64) && decide (1 ≤ u 9 1) && decide (u 9 1 ≤ 16) && decide (48 ≤ u 10 2) && decide (u 10 2 ≤ 4800) && decide (u 14 1 < 32) && decide (u 15 1 < 2) && decide (u 16 8 < 2 ^ 48) &&
  (arPlay r || (decide (4 ≤ u 14 1) && decide (u 14 1 ≤ 16) && u 16 8 % 4096 == 0 && c.ownsPages s (u 16 8) (64 * 2 ^ u 14 1))) &&
  (List.range 16).all (fun k => if k < u 9 1 then c.chanOk (arPlay r) (arChan r k) else arChan r k == 0xFFFF) &&
  c.ownsPages s (u 0 8) (u 8 1 * arBlockBytes r) &&
  (match c.slice? s with
   | some sl => sl.hasSync (u 12 2)
   | none => false)

def Chip.updRing (c : Chip) (n : Nat) (f : AleRing → AleRing) : Chip :=
  match AMap.get? c.ale.rings n with
  | none => c
  | some r => { c with ale := { c.ale with rings := AMap.set c.ale.rings n (f r) } }

/-- A ring stopped, and a ring started on its descriptor. -/
def Chip.ringOff (c : Chip) (n : Nat) : Chip :=
  { c.setFld (ALE_RING_DESC n) ALE_RING_DESC.EN 0 with ale := { c.ale with rings := AMap.del c.ale.rings n } }
def Chip.ringOn (c : Chip) (n : Nat) (b : List Byte) : Chip :=
  let r : AleRing := { desc := b, first := frameFrom (if timeBefore c.now (bytesU b 24 8) then bytesU b 24 8 else c.now) }
  { c with ale := { c.ale with rings := AMap.set c.ale.rings n r } }.setFld (ALE_RING_DESC n) ALE_RING_DESC.EN 1

/-- A write of ALE_RING_DESC_n: EN starts the ring on its descriptor, or stays clear. -/
def audioRingEnable (tag n v : Nat) (c : Chip) : Chip :=
  if !c.aleTag tag ∨ 8 ≤ n then c
  else
    let on := c.flag (ALE_RING_DESC n) ALE_RING_DESC.EN
    let c := c.setFld (ALE_RING_DESC n) ALE_RING_DESC.ADDR (bitsOf v 47 6)
    if !bitOf v 0 then c.ringOff n
    else if on then c
    else match c.loadRange aleMaster c.aleSlice (bitsOf v 47 6 * 64) 64 with
      | (.ok, b, c) => if c.ringDescOk b then c.ringOn n b else c.aleErr 4
      | (o, _, c) => c.aleErr (loadErr o)

def execAudioRingEnable (tag ring : Nat) (value : W64) (s : State) : Host.Outcome State Fault Refusal := s.on (audioRingEnable tag ring value.toNat)

/-- What a channel of a capture ring carries, and whether a 1722 sample is missing. -/
def Chip.chanSample (c : Chip) (f : Nat) (slots : List (Nat × W32)) (anti beams : List Int) (n : Nat) : W32 × Bool :=
  if isTdm n then (c.slotWord n (AMap.getD slots n 0), false)
  else if n < 0x2000 then (BitVec.ofInt 32 (beams.getD (n % 8) 0), false)
  else if n < 0x3000 then (BitVec.ofInt 32 (anti.getD (n % 8) 0), false)
  else if n = 0xFFFF then (0, false)
  else match c.ale.heard.find? (fun h => h.1 == n / 8 % 8 && h.2.1 == f) with
    | some h => match h.2.2[n % 8]? with
      | some x => (x, false)
      | none => (0, true)
    | none => (0, true)

/-- One sample of every channel appended to a capture ring. -/
def Chip.ringTake (c : Chip) (f : Nat) (slots : List (Nat × W32)) (anti beams : List Int) (div : Bool) (r : AleRing) : AleRing :=
  let xs := (List.range (arCH r)).map (fun k => c.chanSample f slots anti beams (arChan r k))
  { r with data := r.data ++ xs.flatMap (fun x => leBytes 4 x.1.toNat), marks := r.marks ++ [{ frame := f, missing := xs.any (·.2), diverged := div, quality := c.quality }] }

/-- The capture rings take their samples of a frame. -/
def Chip.capture (c : Chip) (f : Nat) (even odd : List (Nat × W32)) (anti beams : List Int) : Chip :=
  let div := c.ale.diverged == some f
  let take := fun (p : Nat × AleRing) =>
    let r := p.2
    if arPlay r || decide (f < r.first) then p
    else
      let r := c.ringTake f even anti beams div r
      (p.1, if c.arFast r then c.ringTake f (odd ++ even) anti beams div r else r)
  -- 1722 samples that running rings want in this frame and have not got
  let want := ((c.ale.rings.filter (fun p => decide (p.2.first ≤ f))).flatMap (fun p => (List.range (arCH p.2)).map (arChan p.2))).foldl nsInsert []
  let lost := (want.filter (fun n => decide (0x3000 ≤ n) && n != 0xFFFF && (c.chanSample f even anti beams n).2)).length
  { c with ale := { c.ale with rings := c.ale.rings.map take, heard := c.ale.heard.filter (fun h => decide (f < h.2.1)) } }.count ALE_LATE_1722 ALE_LATE_1722.COUNT lost

/-- The samples a playback ring plays next. -/
def arNow (r : AleRing) : List (Nat × Int) := (List.range (arCH r)).map (fun k => (arChan r k, sx 32 (bytesU r.data (4 * k) 4)))

/-- R257: what the listener channels of a playback ring bring into the mix in frame `f`; the slot that such a channel is
mixed into the spec does not give, and is a free value of the ring's descriptor and the channel (log 116). -/
def Chip.mixHeard (c : Chip) (f : Nat) (r : AleRing) : List (Nat × Int) :=
  if f < r.first then []
  else ((List.range (arCH r)).filter (fun k => decide (0x3000 ≤ arChan r k) && arChan r k != 0xFFFF)).map (fun k =>
    (Config.listenerSlot r.desc k % 0x400, sx 32 (c.chanSample f [] [] [] (arChan r k)).1.toNat))

/-- What the playback rings play in a frame, by slot code (0x400 more for the second frame of a 96 kHz port), and the
rings moved on. -/
def Chip.playback (c : Chip) (f : Nat) : List (Nat × Int) × Chip :=
  let on := c.ale.rings.filter (fun p => arPlay p.2 && !p.2.data.isEmpty)
  let tdm := fun (l : List (Nat × Int)) => l.filter (fun x => isTdm x.1)
  let l := on.flatMap (fun p => tdm (arNow p.2) ++
    (if c.arFast p.2 then (tdm (arNow { p.2 with data := p.2.data.drop (4 * arCH p.2) })).map (fun x => (x.1 + 0x400, x.2)) else [])) ++
    (c.ale.rings.filter (fun p => arPlay p.2)).flatMap (fun p => c.mixHeard f p.2)
  let go := fun (p : Nat × AleRing) => if arPlay p.2 then (p.1, { p.2 with data := p.2.data.drop (4 * arCH p.2 * (if c.arFast p.2 then 2 else 1)) }) else p
  (l, { c with ale := { c.ale with rings := c.ale.rings.map go } })

/-- The output words of a step: speakers with what plays on them, and the other playback slots (R242, R255). -/
def Chip.mixOut (c : Chip) (anti : List Int) (play : List (Nat × Int)) : AMap W32 × Nat :=
  let p := c.ale.params
  let spk := if p.isEmpty then [] else (List.range (apS p)).map (apSpk p)
  let on := fun n => (play.filter (fun x => x.1 == n)).foldl (fun a x => a + x.2) (0 : Int)
  let outs := spk.mapIdx (fun i n => (n, sat31 (anti.getD i 0 + on n)))
  let rest := (play.filter (fun x => !spk.contains x.1 && c.slotStands x.1)).map (fun x => (x.1, (x.2, 0)))
  ((outs ++ rest).foldl (fun m x => AMap.set m x.1 (c.slotWord x.1 (BitVec.ofInt 32 x.2.1))) [], sumOf (outs.map (·.2.2)))

/-- The edge of this frame has not had its step. -/
def Chip.stepDue (c : Chip) : Bool := match c.ale.frame with
  | some g => g != frameOf c.now
  | none => true

/-- The step of a frame has begun. -/
def Chip.atFrame (c : Chip) (f : Nat) : Chip := { c with ale := { c.ale with frame := some f } }

/-- The engine goes from stopped or disabled to running: histories from zero, the coefficients those at the stop (R260). -/
def Chip.aleStart (c : Chip) : Chip := c.aleClear.setFld ALE_STATUS ALE_STATUS.STATE 1

/-- A running engine's step of frame `f`: the outputs of the step before reach their slots, the loop runs, playback is
mixed in, and the capture rings take their samples. -/
def Chip.aleRun (c : Chip) (f : Nat) (even odd : List (Nat × W32)) : Chip :=
  let beams := c.ale.beams
  let c := { c with ale := { c.ale with driven := c.ale.held } }
  let (anti, c) := c.loopStep f even
  let (play, c) := c.playback f
  let (held, n) := c.mixOut anti play
  let c := { c with ale := { c.ale with held := held } }
  let c := (c.count ALE_SAT ALE_SAT.COUNT n).count ALE_SAMPLES ALE_SAMPLES.COUNT 1
  c.capture f even odd anti beams

/-- R242: the step at a frame edge, while the part is Active (R241).  The outputs of the step before reach their slots.  An
engine whose function or EN is off stops, and one that is on again starts. -/
def aleStep (even odd : List (Nat × W32)) (c : Chip) : Chip :=
  let f := frameOf c.now
  if c.power.mode ≠ PartMode.active ∨ !c.stepDue then c
  else
    let c := c.atFrame f
    let st := c.fld ALE_STATUS ALE_STATUS.STATE
    if c.aleOff then (if st = 2 then c else c.aleStop 2)
    else if !c.flag ALE_CTRL ALE_CTRL.EN then (if st = 0 then c else c.aleStop 0)
    else (if st = 1 then c else c.aleStart).aleRun f even odd

def execAleStep (even odd : List (Nat × W32)) (s : State) : Host.Outcome State Fault Refusal := s.on (aleStep even odd)

/-- What DIV_ACTION asks of a divergence: the loop freezes, and its filters are restored or its outputs muted. -/
def Chip.aleFreeze (c : Chip) : Chip :=
  let c := { c with ale := { c.ale with diverged := none } }.setFld ALE_STATUS ALE_STATUS.FROZEN 1
  match bitsOf (apU c.ale.params 12 4) 4 3 with
  | 1 => { c with ale := { c.ale with w := c.ale.w0 } }
  | 2 => c.setFld ALE_STATUS ALE_STATUS.MUTED 1
  | _ => c

/-- R248: the action of a divergence at the frame edge after it; a load at that edge is taken instead. -/
def divergence (c : Chip) : Chip :=
  match c.ale.diverged with
  | none => c
  | some f => if frameOf c.now = f ∨ c.ale.bank.isSome then c else c.aleFreeze

def execDivergence (s : State) : Host.Outcome State Fault Refusal := s.on divergence

/-! ### Blocks and records (R254 to R256) -/

/-- Flags of acoustic records. -/
def Chip.aleFlags (c : Chip) (late div : Bool) (q : Nat) : Nat :=
  flValid + flHoldover q + c.partFlags + b2n late * 2 ^ 16 + c.fld ALE_STATUS ALE_STATUS.FROZEN * 2 ^ 17 + c.fld ALE_STATUS ALE_STATUS.MUTED * 2 ^ 18 + b2n div * 2 ^ 19

/-- Every sample of a capture ring's block is in, and the edge after the last has come. -/
def Chip.blockDone (c : Chip) (r : AleRing) : Bool :=
  !arPlay r && (match r.marks[arBlock r - 1]? with
    | some m => m.frame != frameOf c.now
    | none => false)

/-- A capture block written, with its record; the ring goes on to the next. -/
def Chip.endBlock (c : Chip) (n : Nat) (r : AleRing) : Chip :=
  let b := arBlock r
  let k := r.block
  let s := c.aleSlice
  let marks := r.marks.take b
  let q := (marks.map (·.quality)).foldl max c.quality
  let c := (c.saveRange aleMaster s (arBuf r k) (r.data.take (arBlockBytes r))).2.2
  let v := frameEdge ((marks.head?.map (·.frame)).getD 0)
  let fl := c.aleFlags (marks.any (·.missing)) (marks.any (·.diverged)) q
  let body := leBytes 8 (arBuf r k) ++ leBytes 4 b ++ leBytes 1 (arCH r) ++ List.replicate 19 0
  let c := c.putRecord aleMaster s (arU r 16 8) (arU r 14 1) k (arU r 12 2) (recordHead v (timeSince c.now v) (0x1300 + n) 0 q k fl 32 ++ body)
  c.updRing n (fun r => { r with block := k + 1, data := r.data.drop (arBlockBytes r), marks := r.marks.drop b })

/-- R254: a capture block is complete in the frame edge after its last sample. -/
def captureBlock (n : Nat) (c : Chip) : Chip :=
  match AMap.get? c.ale.rings n with
  | none => c
  | some r => if c.blockDone r then c.endBlock n r else c

def execCaptureBlock (ring : Nat) (s : State) : Host.Outcome State Fault Refusal := s.on (captureBlock ring)

/-- R255: the next block is fetched once the producer has written it and the one before has started. -/
def playbackFetch (n : Nat) (c : Chip) : Chip :=
  match AMap.get? c.ale.rings n with
  | none => c
  | some r =>
    if !arPlay r ∨ r.fetched.isSome ∨ syncCount (c.sync (arU r 12 2)) < r.block + 1 then c
    else match c.loadRange aleMaster c.aleSlice (arBuf r r.block) (arBlockBytes r) with
      | (.ok, b, c) => c.updRing n (fun r => { r with fetched := some b })
      | (_, _, c) => c

def execPlaybackFetch (ring : Nat) (s : State) : Host.Outcome State Fault Refusal := s.on (playbackFetch ring)

/-- A block begins to play; without one, zeros play and the underrun is counted. -/
def Chip.startBlock (c : Chip) (n : Nat) (r : AleRing) : Chip :=
  let b := r.fetched.getD (List.replicate (arBlockBytes r) 0)
  let c := if r.fetched.isSome then c else c.count ALE_UNDERRUN ALE_UNDERRUN.COUNT 1
  c.updRing n (fun r => { r with block := r.block + 1, data := b, fetched := none })

/-- R255: a block's first frame edge: it plays, or zeros play in its place. -/
def playbackBlockStart (n : Nat) (c : Chip) : Chip :=
  match AMap.get? c.ale.rings n with
  | none => c
  | some r =>
    if !arPlay r ∨ frameOf c.now < c.arFrame r r.block then c else c.startBlock n r

def execPlaybackBlockStart (ring : Nat) (s : State) : Host.Outcome State Fault Refusal := s.on (playbackBlockStart ring)

/-- The status record, and its counts begun again. -/
def Chip.putStatus (c : Chip) : Chip :=
  let a := c.ale
  let p := a.params
  let q := max a.statQuality c.quality
  let body := (List.range 8).flatMap (fun m => leBytes 4 (c.reg (ALE_ERRPWR m)))
  let b := recordHead a.statFirst (timeSince c.now a.statFirst) 0x1310 0 q a.statSeq (c.aleFlags false a.statDiv q) 32 ++ body
  let c := { c with ale := { a with statSteps := 0, statDiv := false, statQuality := 0, statSeq := a.statSeq + 1 } }
  c.putRecord aleMaster c.aleSlice (apU p 140 8) (apU p 148 1) a.statSeq (apU p 150 2) b

/-- R256: a status record at the end of each STAT_BLOCK. -/
def statusRecord (c : Chip) : Chip :=
  if c.ale.params.isEmpty ∨ c.ale.statSteps < apU c.ale.params 152 4 then c else c.putStatus

def execStatusRecord (s : State) : Host.Outcome State Fault Refusal := s.on statusRecord

/-! ### IEEE 1722 (R257) -/

/-- The listeners of a stream. -/
def Chip.listeners (c : Chip) (stream : Nat) : List Nat :=
  (List.range 8).filter (fun i => bitOf (c.fld ALE_1722_CTRL ALE_1722_CTRL.EN) i && c.reg (ALE_1722_SID i) == stream)

/-- Samples heard from presentation time `time` on, those of frames gone by left out. -/
def Chip.hear (c : Chip) (i channels time : Nat) (samples : List (List W32)) : Chip :=
  let f0 := frameFrom time
  let cur := c.ale.frame.getD (frameOf c.now)
  let l := (samples.zipIdx.map (fun x => (i, f0 + x.2, x.1.take channels))).filter (fun x => decide (cur < x.2.1))
  { c with ale := { c.ale with heard := c.ale.heard ++ l } }

/-- An AVTP frame at one listener: a format it takes, or its samples are dropped and counted. -/
def Chip.avtpAt (c : Chip) (i bits rate channels time : Nat) (samples : List (List W32)) : Chip :=
  if (bits ≠ 24 ∧ bits ≠ 32) ∨ rate ≠ 48000 ∨ channels = 0 ∨ 8 < channels then
    c.count ALE_LATE_1722 ALE_LATE_1722.COUNT (samples.length * channels)
  else c.hear i channels time samples

/-- An AVTP frame goes to every listener of its stream.  `samples` holds one list of channel words for each sample time, from
presentation time `time` on. -/
def avtpFrame (stream bits rate channels time : Nat) (samples : List (List W32)) (c : Chip) : Chip :=
  (c.listeners stream).foldl (fun c i => c.avtpAt i bits rate channels time samples) c

def execAvtpFrame (stream : W64) (bits rate channels time : Nat) (samples : List (List W32)) (s : State) : Host.Outcome State Fault Refusal :=
  s.on (avtpFrame stream.toNat bits rate channels time samples)

end Sys2Proof.Machine
end

