-- ==== Sys2Proof/Machine/Texture.lean ====
section
/-!
DEFINITION. Fondant's texture unit (10 R275): texel formats, sRGB decoding and filtering.  What a shader asks of it stands in
a command list, whose body the spec does not give; a sample's request comes with the fragment that makes it (log 118).
-/

namespace Sys2Proof.Machine

/-- One level of an image: where it lies and its size in texels. -/
structure TexLevel where
  base : Nat
  pitch : Nat
  width : Nat
  height : Nat
  deriving DecidableEq, Repr

/-- A sample asked of the texture unit.  Coordinates are in 1/256 of a texel of their level; `cmp` is 0, or 1 more than a
comparison in the order of Vulkan's. -/
structure Tex where
  fmt : Nat
  /-- 0 nearest, 1 bilinear, 2 trilinear. -/
  filter : Nat
  aniso : Nat
  cmp : Nat
  ref : Nat
  near : TexLevel
  far : TexLevel
  /-- Weight of the second level in 1/256. -/
  frac : Nat
  at1 : Nat × Nat
  at2 : Nat × Nat
  /-- From one anisotropic sample to the next, in each level. -/
  step1 : Nat × Nat
  step2 : Nat × Nat
  deriving DecidableEq, Repr

/-- A request as a command spells it: its fields in their order. -/
def texOf (l : List Nat) : Tex :=
  let u := fun i => l.getD i 0
  { fmt := u 0, filter := u 1, aniso := u 2, cmp := u 3, ref := u 4, near := ⟨u 5, u 6, u 7, u 8⟩, far := ⟨u 9, u 10, u 11, u 12⟩, frac := u 13,
    at1 := (u 14, u 15), at2 := (u 16, u 17), step1 := (u 18, u 19), step2 := (u 20, u 21) }

/-! ### Formats -/

/-- The 2D block sizes of ASTC, 4 × 4 to 12 × 12. -/
def astcSizes : List (Nat × Nat) :=
  [(4, 4), (5, 4), (5, 5), (6, 5), (6, 6), (8, 5), (8, 6), (8, 8), (10, 5), (10, 6), (10, 8), (10, 10), (12, 10), (12, 12)]

/-- How a texel format is stored: a block's width, height and bytes.  0x01 to 0x23 are the codes of Table — Attachment
formats; the spec gives the others no codes, and the model numbers ETC2 RGB8, RGBA8 and punch-through from 0x40, EAC of one
and two channels, unsigned and signed, from 0x43, ASTC UNORM from 0x50 and ASTC sRGB from 0x60 (log 118). -/
def texBlock (f : Nat) : Option (Nat × Nat × Nat) :=
  match f with
  | 0x06 => some (1, 1, 8)
  | 0x07 => some (1, 1, 1)
  | 0x08 => some (1, 1, 2)
  | 0x0A => some (1, 1, 2)
  | 0x20 => some (1, 1, 2)
  | 0x40 => some (4, 4, 8)
  | 0x41 => some (4, 4, 16)
  | 0x42 => some (4, 4, 8)
  | 0x43 => some (4, 4, 8)
  | 0x44 => some (4, 4, 8)
  | 0x45 => some (4, 4, 16)
  | 0x46 => some (4, 4, 16)
  | n =>
    if (1 ≤ n ∧ n ≤ 9) ∨ (0x21 ≤ n ∧ n ≤ 0x23) then some (1, 1, 4)
    else if 0x50 ≤ n ∧ n < 0x70 then (astcSizes[n % 16]?).map (fun s => (s.1, s.2, 16))
    else none

def texIsDepth (f : Nat) : Bool := decide (0x20 ≤ f) && decide (f ≤ 0x23)

/-- Formats whose components are 8-bit UNORM. -/
def texIs8 (f : Nat) : Bool := [0x01, 0x03, 0x07].contains f

/-- The unit takes the request: a format it accepts; a depth format with nearest filtering and a comparison, and no other
format with one; anisotropy up to 16. -/
def Tex.ok (x : Tex) : Bool :=
  (texBlock x.fmt).isSome && decide (x.filter ≤ 2) && decide (1 ≤ x.aniso) && decide (x.aniso ≤ 16) && decide (x.cmp ≤ 8) &&
  (if texIsDepth x.fmt then x.filter == 0 && x.cmp != 0 else x.cmp == 0) &&
  decide (1 ≤ x.near.width) && decide (1 ≤ x.near.height) && (x.filter != 2 || (decide (1 ≤ x.far.width) && decide (1 ≤ x.far.height)))

/-- Slots of the texture unit that a sample takes: a nearest or bilinear one takes one, a trilinear one two, an N×
anisotropic one N of them. -/
def Tex.slots (x : Tex) : Nat := x.aniso * (if x.filter = 2 then 2 else 1)

/-! ### Texels -/

def unorm (n v : Nat) : Nat := fenc (fdiv (fnat v) (fnat (2 ^ n - 1)))
def fpOne : Nat := 0x3F800000

/-- The four components of a texel that stands alone, as FP32 patterns: sRGB decoded; absent ones 0, and alpha 1.  Packed
formats place their components as Vulkan does (PRESUMED, log 118). -/
def texelValue (f : Nat) (b : List Byte) : List Nat :=
  let u8 := fun i => unorm 8 (bytesU b i 1)
  let lin := fun i => (Config.srgbToLinear (BitVec.ofNat 8 (bytesU b i 1))).toNat
  let h := fun i => fenc (fp16.decode (bytesU b (2 * i) 2))
  let w := bytesU b 0 4
  match f with
  | 0x01 => [u8 0, u8 1, u8 2, u8 3]
  | 0x02 => [lin 0, lin 1, lin 2, u8 3]
  | 0x03 => [u8 2, u8 1, u8 0, u8 3]
  | 0x04 => [lin 2, lin 1, lin 0, u8 3]
  | 0x05 => [unorm 10 (bitsOf w 9 0), unorm 10 (bitsOf w 19 10), unorm 10 (bitsOf w 29 20), unorm 2 (bitsOf w 31 30)]
  | 0x06 => [h 0, h 1, h 2, h 3]
  | 0x07 => [u8 0, 0, 0, fpOne]
  | 0x08 => [h 0, 0, 0, fpOne]
  | 0x09 => [w, 0, 0, fpOne]
  | 0x0A => [unorm 5 (bitsOf w 15 11), unorm 6 (bitsOf w 10 5), unorm 5 (bitsOf w 4 0), fpOne]
  | 0x20 => [unorm 16 (bytesU b 0 2), 0, 0, fpOne]
  | 0x21 => [unorm 24 (bitsOf w 23 0), 0, 0, fpOne]
  | _ => [w, 0, 0, fpOne]

/-- The components of 8-bit texels as they are stored, red first. -/
def texel8 (f : Nat) (b : List Byte) : List Nat :=
  let u := fun i => bytesU b i 1
  match f with
  | 0x01 => [u 0, u 1, u 2, u 3]
  | 0x03 => [u 2, u 1, u 0, u 3]
  | _ => [u 0, 0, 0, 255]

/-- A texel of a level, its index kept inside the image: the bytes of its block as read. -/
def Chip.readTexel (c : Chip) (master slice : Nat) (f : Nat) (l : TexLevel) (i j : Int) : Served × List Byte × Nat × Nat × Chip :=
  let (bw, bh, n) := (texBlock f).getD (1, 1, 4)
  let x := min i.toNat (l.width - 1)
  let y := min j.toNat (l.height - 1)
  let (o, b, c) := c.loadRange master slice (l.base + y / bh * l.pitch + x / bw * n) n
  (o, b, x % bw, y % bh, c)

/-- A texel's components: its own bytes decoded, or its block by the published codec (PRESUMED, log 118). -/
def texelOf (f : Nat) (b : List Byte) (x y : Nat) : List Nat :=
  if f < 0x40 then texelValue f b
  else (List.range 4).map (fun i => (Config.texelBlock f b x y).toNat / 2 ^ (32 * i) % 2 ^ 32)

/-! ### Filtering -/

/-- The texels of one level that a sample at a point takes, each with its weight: one, or the four around it weighted in
1/256 of a texel. -/
def tapsAt (linear : Bool) (x y : Nat) : List (Nat × Int × Int) :=
  if !linear then [(65536, (x / 256 : Nat), (y / 256 : Nat))]
  else
    let u : Int := (x : Int) - 128
    let v : Int := (y : Int) - 128
    let fx := (u % 256).toNat
    let fy := (v % 256).toNat
    let i := u / 256
    let j := v / 256
    [((256 - fx) * (256 - fy), i, j), (fx * (256 - fy), i + 1, j), ((256 - fx) * fy, i, j + 1), (fx * fy, i + 1, j + 1)]

/-- Every texel of a request with its level and weight: for each anisotropic sample its taps in one level, or in two. -/
def Tex.taps (x : Tex) : List (TexLevel × Nat × Int × Int) :=
  let linear := x.filter != 0
  let f := x.frac % 256
  ((List.range x.aniso).flatMap (fun k =>
    let one := (tapsAt linear (x.at1.1 + k * x.step1.1) (x.at1.2 + k * x.step1.2)).map (fun t => (x.near, if x.filter = 2 then (256 - f) * t.1 else t.1, t.2.1, t.2.2))
    let two := (tapsAt linear (x.at2.1 + k * x.step2.1) (x.at2.2 + k * x.step2.2)).map (fun t => (x.far, f * t.1, t.2.1, t.2.2))
    if x.filter = 2 then one ++ two else one)).filter (fun t => decide (0 < t.2.1))

/-- The taps read: weight, components, and the stored components of 8-bit texels. -/
def Chip.readTaps (c : Chip) (master slice f : Nat) : List (TexLevel × Nat × Int × Int) → Served × List (Nat × List Nat × List Nat) × Chip
  | [] => (.ok, [], c)
  | (l, w, i, j) :: rest =>
    match c.readTexel master slice f l i j with
    | (.ok, b, x, y, c) =>
      match Chip.readTaps c master slice f rest with
      | (o, r, c) => (o, (w, texelOf f b x y, texel8 f b) :: r, c)
    | (o, _, _, _, c) => (o, [], c)

/-- A comparison of the reference with a depth, in Vulkan's order. -/
def texCompare (op : Nat) (a b : FVal) : Bool :=
  match op with
  | 0 => false
  | 1 => flt a b
  | 2 => fle a b && fle b a
  | 3 => fle a b
  | 4 => flt b a
  | 5 => !(fle a b && fle b a)
  | 6 => fle b a
  | _ => true

/-- The filtered value: one texel as it is; texels of 8-bit formats by their exact weighted mean; of other formats the mean
has a free value, since the spec states no accuracy for it. -/
def texFiltered (f : Nat) (l : List (Nat × List Nat × List Nat)) : List Nat :=
  match l with
  | [t] => t.2.1
  | _ =>
    if texIs8 f then
      let w := sumOf (l.map (·.1))
      (List.range 4).map (fun i => fenc (fdiv (fnat (sumOf (l.map (fun t => t.1 * t.2.2.getD i 0)))) (fnat (255 * w))))
    else (List.range 4).map (fun i => (Config.texFilter (l.map (fun t => (t.1, t.2.1)))).toNat / 2 ^ (32 * i) % 2 ^ 32)

/-- R275: a request sampled for a core. -/
def Chip.sampleTex (c : Chip) (master slice : Nat) (x : Tex) : Served × List Nat × Chip :=
  match c.readTaps master slice x.fmt x.taps with
  | (.ok, l, c) =>
    let v := texFiltered x.fmt l
    (.ok, if texIsDepth x.fmt then [if texCompare (x.cmp - 1) (fdec x.ref) (fdec (v.getD 0 0)) then fpOne else 0, 0, 0, fpOne] else v, c)
  | (o, _, c) => (o, [], c)

end Sys2Proof.Machine
end

