-- ==== Sys2Proof/Machine/Fondant.lean ====
section
/-!
DEFINITION. Fondant's passes and the display pipes with their region CRC units (10 R261 to R284).  What a command list
draws is not in the spec: a list's primitives and fragments are the sender's, and what a fragment makes of a sample is free.
-/

namespace Sys2Proof.Machine

/-- The master of a shader core (R17, R261). -/
def gfxMaster (core : Nat) : Nat := 0x38 + core % 8

/-! ### Fields of a pass (R263, R264) -/

def Pass.u (p : Pass) (off k : Nat) : Nat := bytesU p.desc off k
def Pass.width (p : Pass) : Nat := p.u 44 2
def Pass.height (p : Pass) : Nat := p.u 46 2
def Pass.samples (p : Pass) : Nat := 2 ^ (p.u 41 1 % 4)
def Pass.binBase (p : Pass) : Nat := p.u 48 8
def Pass.binBytes (p : Pass) : Nat := if p.u 56 4 = 0 then 8 * 2 ^ 20 else p.u 56 4
def Pass.units (p : Pass) : Nat := p.u 60 2
/-- The attachments used: 0 to 3 colour, 4 depth. -/
def Pass.used (p : Pass) : List Nat := List.range (p.u 42 1) ++ (if bitOf (p.u 43 1) 0 then [4] else [])
def Pass.att (p : Pass) (a off k : Nat) : Nat := p.u (72 + 24 * a + off) k
def Pass.isDepth8 (p : Pass) (a : Nat) : Bool := p.att a 12 1 == 0x23

/-- Bytes of a pixel's sample in a format; none for a reserved code. -/
def attBpp : Nat → Option Nat
  | 0x06 => some 8
  | 0x07 => some 1
  | 0x08 => some 2
  | 0x0A => some 2
  | 0x20 => some 2
  | n => if (1 ≤ n ∧ n ≤ 9) ∨ (0x21 ≤ n ∧ n ≤ 0x23) then some 4 else none

def Pass.bpp (p : Pass) (a : Nat) : Nat := (attBpp (p.att a 12 1)).getD 0
/-- The range of an attachment's area. -/
def Pass.area (p : Pass) (a : Nat) : Nat × Nat := (p.att a 0 8, p.att a 8 4 * p.height * (if p.isDepth8 a then 2 else 1))

/-- Screen tiles across and in all. -/
def Pass.tilesX (p : Pass) : Nat := (p.width + 31) / 32
def Pass.tileCount (p : Pass) : Nat := p.tilesX * ((p.height + 31) / 32)

/-- A plane of an attachment: its number, whether it is the stencil plane of D32_S8, and its bytes a sample. -/
abbrev Plane := Nat × Bool × Nat

/-- The planes of the attachments used, in order. -/
def Pass.planes (p : Pass) : List Plane := p.used.flatMap (fun a => (a, false, p.bpp a) :: (if p.isDepth8 a then [(a, true, 1)] else []))

/-- The corner and size of a screen tile, clipped to the render area (R270). -/
def Pass.tileX (p : Pass) (t : Nat) : Nat := t % p.tilesX * 32
def Pass.tileY (p : Pass) (t : Nat) : Nat := t / p.tilesX * 32
def Pass.tileW (p : Pass) (t : Nat) : Nat := min 32 (p.width - p.tileX t)
def Pass.tileH (p : Pass) (t : Nat) : Nat := min 32 (p.height - p.tileY t)

/-- Address ranges of one screen tile in a plane, one for each row. -/
def Pass.planeRows (p : Pass) (q : Plane) (t : Nat) : List (Nat × Nat) :=
  let pitch := p.att q.1 8 4
  let base := p.att q.1 0 8 + if q.2.1 then pitch * p.height else 0
  (List.range (p.tileH t)).map (fun j => (base + (p.tileY t + j) * pitch + p.tileX t * q.2.2 * p.samples, p.tileW t * q.2.2 * p.samples))

/-- A part of a plane's sample: its lowest bit and width, its load operation (0 LOAD, 1 CLEAR, 2 DONT_CARE), whether it is
stored, and its clear value (R264). -/
abbrev PlanePart := Nat × Nat × Nat × Bool × Nat

/-- The parts of a plane's sample: colour, depth and stencil each follow their own operations; after a flush all load. -/
def Pass.parts (p : Pass) (q : Plane) : List PlanePart :=
  let a := q.1
  let ops := p.att a 13 1
  let ld := if p.reload then 0 else ops % 4
  let sld := if p.reload then 0 else bitsOf ops 4 3
  let depth := fun w v => ((0, w, ld, !bitOf ops 2, v) : PlanePart)
  let stencil := fun lo => ((lo, 8, sld, !bitOf ops 5, p.att a 20 1) : PlanePart)
  if a < 4 then [(0, 8 * q.2.2, ld, !bitOf ops 2, p.att a 16 8 % 2 ^ (8 * q.2.2))]
  else if q.2.1 then [stencil 0]
  else match p.att a 12 1 with
    | 0x20 => [depth 16 (Config.clearDepth 16 (p.att a 16 4) % 2 ^ 16)]
    | 0x21 => [depth 24 (Config.clearDepth 24 (p.att a 16 4) % 2 ^ 24), stencil 24]
    | _ => [depth 32 (p.att a 16 4)]

def Pass.planeLoads (p : Pass) (q : Plane) : Bool := (p.parts q).any (fun k => k.2.2.1 == 0)
def Pass.planeStores (p : Pass) (q : Plane) : Bool := (p.parts q).any (fun k => k.2.2.2.1)

/-! ### GFX_PASS (R265) -/

/-- Steps 1 to 3. -/
def Pass.fieldsStatus (p : Pass) : Option Nat :=
  let reserved := (List.range 5).all (fun a => decide (p.att a 0 8 < 2 ^ 48) && decide (p.att a 13 1 < 64) && p.att a 14 2 == 0)
  let attOk := fun a => p.att a 13 1 % 4 != 3 && bitsOf (p.att a 13 1) 4 3 != 3
  let ok := decide (p.cls ≠ 0) && decide (p.u 32 8 < 2 ^ 48) && decide (1 ≤ p.u 40 1) && decide (p.u 40 1 ≤ 8) && decide (p.u 41 1 < 3) && decide (p.u 42 1 ≤ 4) && decide (p.u 43 1 < 2) &&
    decide (1 ≤ p.width) && decide (p.width ≤ 4096) && decide (1 ≤ p.height) && decide (p.height ≤ 4096) && decide (p.binBase < 2 ^ 48) && p.binBase % pageSize == 0 && p.u 56 4 % pageSize == 0 &&
    p.u 62 2 == 0 && p.u 68 4 == 0 && zeroIn p.desc 192 256 && reserved && p.used.all attOk
  let suits := fun a => (attBpp (p.att a 12 1)).isSome && decide (a = 4) == decide (0x20 ≤ p.att a 12 1) && p.att a 8 4 % 64 == 0 && decide (p.width * p.bpp a * p.samples ≤ p.att a 8 4)
  if !ok then some stBadParam
  else if p.binBytes < 2 ^ 21 then some stBadSize
  else if !p.used.all suits then some stBadParam
  else none

/-- A command list's header keeps its table. -/
def listHeadOk (b : List Byte) : Bool :=
  bytesU b 0 4 == 0x4C444E46 && (bytesU b 4 2 == 3 || bytesU b 4 2 == 4) && bytesU b 6 2 == 0 && bytesU b 8 4 % 16 == 0 && decide (16 ≤ bytesU b 8 4) && bytesU b 12 4 == 0

/-- Step 4 over the lists whose headers the slice owns; the ranges of the lists read. -/
def Chip.listHeads (c : Chip) (s : Nat) : List Nat → Except Nat (List (Nat × Nat)) × Chip
  | [] => (.ok [], c)
  | a :: l =>
    if !c.ownsPages s a 16 then
      match Chip.listHeads c s l with
      | (.ok r, c) => (.ok ((a, 16) :: r), c)
      | e => e
    else match c.loadRange cpMaster s a 16 with
      | (.ok, b, c) =>
        if !listHeadOk b then (.error stBadParam, c)
        else match Chip.listHeads c s l with
          | (.ok r, c) => (.ok ((a, bytesU b 8 4) :: r), c)
          | e => e
      | (.uncorrectable, _, c) => (.error stUncorrectable, c)
      | (.denied, _, c) => (.error stAccessDenied, c)

/-- Steps 4 and 5. -/
def Chip.passLists (c : Chip) (p : Pass) : Option Nat × Chip :=
  let n := p.u 40 1
  if !c.ownsPages p.slice (p.u 32 8) (16 * n) then (some stNotOwner, c)
  else match c.loadRange cpMaster p.slice (p.u 32 8) (16 * n) with
    | (.denied, _, c) => (some stAccessDenied, c)
    | (.uncorrectable, _, c) => (some stUncorrectable, c)
    | (.ok, b, c) =>
      if (List.range n).any (fun i => decide (2 ^ 48 ≤ bytesU b (16 * i) 8) || !zeroIn b (16 * i + 8) (16 * i + 16)) then (some stBadParam, c)
      else match c.listHeads p.slice ((List.range n).map (fun i => bytesU b (16 * i) 6)) with
        | (.error st, c) => (some st, c)
        | (.ok rs, c) =>
          if (rs ++ [(p.binBase, p.binBytes)] ++ p.used.map p.area).all (fun r => c.ownsPages p.slice r.1 r.2) then (none, c) else (some stNotOwner, c)

def Chip.pass? (c : Chip) (id : Nat) : Option Pass := c.gfx.passes.find? (fun p => p.id == id)
def Chip.updPass (c : Chip) (id : Nat) (f : Pass → Pass) : Chip :=
  { c with gfx := { c.gfx with passes := c.gfx.passes.map (fun p => if p.id = id then f p else p) } }

/-- The pass a packet asks for, the next in order. -/
def Packet.pass (q : Packet) (order : Nat) : Pass :=
  { id := q.id, slice := q.slice, ring := q.ring, seq := q.seq, cls := q.cls, desc := q.bytes, order := order }

/-- A pass handed over: it stands with the others, its packet goes on, and its budget is asked for. -/
def Chip.handPass (c : Chip) (p : Pass) : Chip :=
  let c := { c with gfx := { c.gfx with passes := c.gfx.passes ++ [p], started := c.gfx.started + 1 } }
  let c := (c.keepRunning p.id).updPacket p.id (fun q => { q with committed := true })
  c.ask p.cls [{ who := .pass p.id, units := p.units, slice := some p.slice, cls := p.cls }] (p.u 64 4)

/-- R265, R266 phase 1: the checks, the hand-over and the request for budget. -/
def gfxPass (id : Nat) (c : Chip) : Chip :=
  c.onPacket id 0x400 (fun q c =>
    match (q.pass c.gfx.started).fieldsStatus with
    | some st => c.finish q.id st
    | none => match c.passLists (q.pass c.gfx.started) with
      | (some st, c) => c.finish q.id st
      | (none, c') => c'.handPass (q.pass c.gfx.started))

def execGfxPass (packet : Nat) (s : State) : Host.Outcome State Fault Refusal := s.on (gfxPass packet)

/-! ### Order of passes (R269) -/

/-- Two passes have attachment areas that overlap. -/
def passesOverlap (p q : Pass) : Bool := p.used.any (fun a => q.used.any (fun b => rangesMeet (p.area a) (q.area b)))

/-- No pass that started earlier and overlaps is still incomplete. -/
def Chip.passClear (c : Chip) (p : Pass) : Bool := !c.gfx.passes.any (fun q => decide (q.order < p.order) && passesOverlap p q)

def Pass.before (p q : Pass) : Bool := decide (p.cls < q.cls) || (p.cls == q.cls && decide (p.order < q.order))

/-- Nobody of the list goes before `p`. -/
def firstOf (p : Pass) (l : List Pass) : Bool := !l.any (fun q => q.before p)

/-- Fondant's state in its register; the idle cores are handed the first screen tiles of the pass that renders (R270). -/
def Chip.showGfx (c : Chip) : Chip :=
  let g := c.gfx.passes.any (fun p => p.phase == .geometry)
  let busy := match c.gfx.rendering.bind c.pass? with
    | some p => 2 ^ min 8 p.tileCount - 1
    | none => 0
  (c.setFld GFX_STATUS GFX_STATUS.CORE_BUSY busy).setFld GFX_STATUS GFX_STATUS.STATE (if g && c.gfx.rendering.isSome then 3 else if c.gfx.rendering.isSome then 2 else b2n g)

/-- With nothing rendering, the first of the passes that are ready to render does. -/
def Chip.nextRender (c : Chip) : Chip :=
  let l := c.gfx.passes.filter (fun p => p.phase == .render && c.passClear p)
  let c := if c.gfx.rendering.isSome then c else match l.find? (fun p => firstOf p l) with
    | some p => { c with gfx := { c.gfx with rendering := some p.id } }
    | none => c
  c.showGfx

/-! ### Geometry and flushes (R266, R272, R273) -/

/-- R272: a primitive's record. -/
def recordBytes (v : Nat) : Nat := 32 + 3 * (16 + 16 * v)

/-- Keys compared from their first number on. -/
def keyBefore : List Nat → List Nat → Bool
  | [], [] => false
  | [], _ :: _ => true
  | _ :: _, [] => false
  | a :: l, b :: m => decide (a < b) || (a == b && keyBefore l m)

/-- An item put before the first whose key is larger. -/
def insertByKey {α : Type} (k : α → List Nat) (x : α) : List α → List α
  | [] => [x]
  | y :: l => if keyBefore (k x) (k y) then x :: y :: l else y :: insertByKey k x l
def sortByKey {α : Type} (k : α → List Nat) (l : List α) : List α := l.foldl (fun r x => insertByKey k x r) []

/-- A primitive binned, if it fits. -/
def Pass.binOne (p : Pass) (prim : List Nat × Nat × List Nat) : Option Pass :=
  let ts := (prim.2.2.filter (fun t => decide (t < p.tileCount))).foldl nsInsert []
  let chunks := (ts.filter (fun t => AMap.getD p.entries t 0 % 7 == 0)).length
  let n := p.bin + recordBytes (min prim.2.1 32) + 64 * chunks
  if n ≤ p.binBytes then some { p with bin := n, entries := ts.foldl (fun m t => AMap.upd m t 0 (· + 1)) p.entries, held := p.held ++ [(prim.1, ts)] } else none

/-- Primitives binned up to the first that does not fit. -/
def Pass.binAll (p : Pass) : List (List Nat × Nat × List Nat) → Pass
  | [] => { p with rest := [] }
  | x :: l => match p.binOne x with
    | some p => p.binAll l
    | none => { p with rest := x :: l }

/-- R268: a pass ends with a status and detail word. -/
def Chip.endPass (c : Chip) (p : Pass) (status result detail : Nat) : Chip :=
  let c := { c with gfx := { c.gfx with passes := c.gfx.passes.filter (fun q => q.id != p.id), rendering := if c.gfx.rendering = some p.id then none else c.gfx.rendering } }
  ((c.finish p.id status result detail).giveBack (.pass p.id)).nextRender

/-- Table — Pass failure causes: the status of a cause. -/
def passStatus (cause : Nat) : Nat := if cause = 4 then stAccessDenied else if cause = 5 then stUncorrectable else stBadParam
def gfxCause : Served → Nat
  | .denied => 4
  | _ => 5

/-- A pass fails. -/
def Chip.failPass (c : Chip) (p : Pass) (cause list off : Nat) : Chip :=
  c.endPass p (passStatus cause) 0 (cause + list % 256 * 2 ^ 8 + off % 2 ^ 32 * 2 ^ 16)

/-- A pass fails at a place in its lists that the spec does not name: a free one. -/
def Chip.failSomewhere (c : Chip) (p : Pass) (cause : Nat) : Chip :=
  let (x, c) := c.draw
  let (y, c) := c.draw
  c.failPass p cause (x.toNat % max 1 (p.u 40 1)) (y.toNat % 2 ^ 32)

/-- The bins of a pass in its bin memory, whose contents are free, as is the core that asks; then the pass is ready to render,
or paused. -/
def Chip.afterBin (c : Chip) (p : Pass) : Chip :=
  let c := c.setReg GFX_BIN_PEAK (max (c.reg GFX_BIN_PEAK) p.bin)
  let (x, c) := c.draw
  let (b, c) := c.drawBytes p.bin
  match c.saveRange (gfxMaster x.toNat) p.slice p.binBase b with
  | (.ok, _, c) => (c.updPass p.id (fun _ => if p.rest.isEmpty then { p with phase := .render } else p)).nextRender
  | (o, _, c) => c.failSomewhere p (gfxCause o)

/-- A pass has its budget and its turn, and no vertex stage runs (R266, R269). -/
def Chip.passTurn (c : Chip) (p : Pass) : Bool :=
  p.phase == .ready && c.granted (.pass p.id) && c.passClear p &&
  firstOf p (c.gfx.passes.filter (fun q => q.phase == .ready && c.granted (.pass q.id) && c.passClear q)) &&
  !c.gfx.passes.any (fun q => q.phase == .geometry)

/-- R266 phase 2: a granted pass whose turn it is runs its vertex stage; `prims` are the primitives that survive, each
with its order key (list, draw, instance, primitive), its varying vectors and the screen tiles it touches; they are binned in
submission order. -/
def passGeometry (id : Nat) (prims : List (List Nat × Nat × List Nat)) (c : Chip) : Chip :=
  match c.pass? id with
  | none => c
  | some p =>
    if c.passTurn p then c.afterBin ({ p with phase := .geometry, began := c.now }.binAll (sortByKey (·.1) prims)) else c

def execPassGeometry (packet : Nat) (prims : List (List Nat × Nat × List Nat)) (s : State) : Host.Outcome State Fault Refusal := s.on (passGeometry packet prims)

/-! ### Fragments and the scoreboard (R270, R271) -/

/-- A fragment: its pixel in the render area, its sample, the key of its primitive, its place in the primitive, and the
texture samples it takes. -/
structure Frag where
  x : Nat
  y : Nat
  sample : Nat
  prim : List Nat
  place : Nat
  texs : List Tex
  deriving DecidableEq, Repr

/-- A fragment as a command spells it, its pixel numbered row by row. -/
def Pass.fragOf (p : Pass) (f : FragWord) : Frag :=
  { x := f.pixel % p.width, y := f.pixel / p.width, sample := f.sample, prim := f.prim, place := f.place, texs := f.texs.map texOf }

/-- The order key. -/
def Frag.key (f : Frag) : List Nat := f.prim ++ [f.place]

/-- The screen tile a fragment falls in. -/
def Pass.tileOf (p : Pass) (f : Frag) : Nat := f.y / 32 * p.tilesX + f.x / 32

/-- The fragments of a screen tile: those of primitives that its list holds. -/
def Pass.tileFrags (p : Pass) (t : Nat) (fs : List Frag) : List Frag :=
  fs.filter (fun f => decide (f.y < p.height) && decide (f.sample < p.samples) && p.tileOf f == t && p.held.any (fun h => h.1 == f.prim && h.2.contains t))

/-- Two fragments of one pixel and sample. -/
def Frag.same (f g : Frag) : Bool := f.x == g.x && f.y == g.y && f.sample == g.sample

/-- A shaded fragment waits for an earlier one of its pixel and sample that is shaded after it. -/
def fragsWait : List Frag → Bool
  | [] => false
  | f :: l => l.any (fun g => g.same f && keyBefore g.key f.key) || fragsWait l

/-- The texture samples of a fragment. -/
def Chip.sampleAll (c : Chip) (master slice : Nat) : List Tex → Served × List (List Nat) × Chip
  | [] => (.ok, [], c)
  | x :: l =>
    match c.sampleTex master slice x with
    | (.ok, v, c) =>
      match Chip.sampleAll c master slice l with
      | (o, r, c) => (o, v :: r, c)
    | (o, _, c) => (o, [], c)

/-- The fragments shaded, in any order: each with its texture samples; or the cause that fails the pass. -/
def Chip.shade (c : Chip) (master slice : Nat) : List Frag → Nat × List (Frag × List (List Nat)) × Chip
  | [] => (0, [], c)
  | f :: l =>
    if !f.texs.all Tex.ok then (2, [], c)
    else match c.sampleAll master slice f.texs with
      | (.ok, v, c) =>
        match Chip.shade c master slice l with
        | (k, r, c) => (k, (f, v) :: r, c)
      | (o, _, c) => (gfxCause o, [], c)

/-- A screen tile on chip: for each plane its rows. -/
abbrev TileBuf := List (List (List Byte))

/-- One retirement: what the fragment makes of the sample's values in every plane. -/
def Pass.retire (p : Pass) (t : Nat) (buf : TileBuf) (f : Frag) (texs : List (List Nat)) : TileBuf :=
  let off := fun (q : Plane) => ((f.x - p.tileX t) * p.samples + f.sample) * q.2.2
  let j := f.y - p.tileY t
  let old := (p.planes.zip buf).map (fun (q : Plane × List (List Byte)) => bytesU (q.2.getD j []) (off q.1) q.1.2.2)
  let new := Config.fragment p.desc f.key texs old
  (p.planes.zip buf).mapIdx (fun i (q : Plane × List (List Byte)) => q.2.modify j (fun row => putAt row (off q.1) (leBytes q.1.2.2 (new.getD i 0))))

/-- R271: the fragments of a tile retire, those of one pixel and sample in submission order; the others in any order, which
changes nothing. -/
def Pass.retireAll (p : Pass) (t : Nat) (buf : TileBuf) (fs : List (Frag × List (List Nat))) : TileBuf :=
  (sortByKey (fun (f : Frag × List (List Nat)) => f.1.key) fs).foldl (fun b f => p.retire t b f.1 f.2) buf

/-! ### Screen tiles (R266, R270) -/

/-- A sample as a tile begins with it: each part loaded, cleared, or free. -/
def startSample (parts : List PlanePart) (loaded any : Nat) : Nat :=
  sumOf (parts.map (fun k => (if k.2.2.1 = 0 then loaded / 2 ^ k.1 else if k.2.2.1 = 1 then k.2.2.2.2 else any / 2 ^ k.1) % 2 ^ k.2.1 * 2 ^ k.1))

/-- The rows of a plane as the tile begins with them. -/
def Chip.startRows (c : Chip) (master slice : Nat) (parts : List PlanePart) (loads : Bool) (bpp : Nat) : List (Nat × Nat) → Served × List (List Byte) × Chip
  | [] => (.ok, [], c)
  | (a, n) :: l =>
    let (any, c) := c.drawBytes n
    match (if loads then c.loadRange master slice a n else (.ok, [], c)) with
    | (.ok, b, c) =>
      let row := (List.range (n / bpp)).flatMap (fun i => leBytes bpp (startSample parts (bytesU b (i * bpp) bpp) (bytesU any (i * bpp) bpp)))
      match Chip.startRows c master slice parts loads bpp l with
      | (o, r, c) => (o, row :: r, c)
    | (o, _, c) => (o, [], c)

/-- A screen tile loaded or cleared. -/
def Chip.tileBegin (c : Chip) (master : Nat) (p : Pass) (t : Nat) : List Plane → Served × TileBuf × Chip
  | [] => (.ok, [], c)
  | q :: l =>
    match c.startRows master p.slice (p.parts q) (p.planeLoads q) (max 1 q.2.2) (p.planeRows q t) with
    | (.ok, rows, c) =>
      match Chip.tileBegin c master p t l with
      | (o, r, c) => (o, rows :: r, c)
    | (o, _, c) => (o, [], c)

/-- Rows written in order, up to the first write that fails. -/
def Chip.storeRows (c : Chip) (master slice : Nat) : List ((Nat × Nat) × List Byte) → Served × Chip
  | [] => (.ok, c)
  | (r, b) :: l =>
    match c.saveRange master slice r.1 b with
    | (.ok, _, c) => Chip.storeRows c master slice l
    | (o, _, c) => (o, c)

/-- The core that a screen tile is rendered on, and the clocks it takes, at least those of its texture samples: free. -/
def Chip.tileCore (c : Chip) (fs : List Frag) : Nat × Chip :=
  let (x, c) := c.draw
  let (y, c) := c.draw
  let core := x.toNat % 8
  let slots := sumOf (fs.map (fun f => sumOf (f.texs.map Tex.slots)))
  let c := c.count (GFX_CORE_BUSY core) GFX_CORE_BUSY.COUNT (max (y.toNat % 2 ^ 32) ((slots + 3) / 4))
  let (z, c) := c.draw
  (core, if fragsWait fs then c.count GFX_SB_STALL GFX_SB_STALL.COUNT (1 + z.toNat % 2 ^ 32) else c)

/-- R266 phase 3, R270, R271: one screen tile loaded, its list shaded and retired, and stored, all on one core; `all` for a
flush, which stores every attachment.  The answer is 0 or a failure's cause. -/
def Chip.renderTile (c : Chip) (p : Pass) (all : Bool) (fs : List Frag) (t : Nat) : Nat × Chip :=
  let fs := p.tileFrags t fs
  let (core, c) := c.tileCore fs
  let m := gfxMaster core
  match c.tileBegin m p t p.planes with
  | (.ok, buf, c) =>
    match (c.count GFX_TILES GFX_TILES.COUNT 1).shade m p.slice fs with
    | (0, done, c) =>
      let rows := ((p.planes.zip (p.retireAll t buf done)).filter (fun q => all || p.planeStores q.1)).flatMap (fun q => (p.planeRows q.1 t).zip q.2)
      match c.storeRows m p.slice rows with
      | (.ok, c) => (0, c)
      | (o, c) => (gfxCause o, c)
    | (k, _, c) => (k, c)
  | (o, _, c) => (gfxCause o, c)

def Chip.renderTiles (c : Chip) (p : Pass) (all : Bool) (fs : List Frag) : List Nat → Nat × Chip
  | [] => (0, c)
  | t :: l => match c.renderTile p all fs t with
    | (0, c) => Chip.renderTiles c p all fs l
    | r => r

/-- A flush is done: it is counted and told, and the rest is binned. -/
def Chip.flushed (c : Chip) (p : Pass) : Chip :=
  let n := p.flushes + 1
  let c := c.count GFX_FLUSHES GFX_FLUSHES.COUNT 1
  let c := c.event p.slice 0x0301 p.ring p.seq n p.bin
  c.afterBin ({ p with flushes := n, reload := true, bin := 0, entries := [], held := [] }.binAll p.rest)

/-- R273: the paused pass is flushed and binning resumes. -/
def partialFlush (id : Nat) (frags : List FragWord) (c : Chip) : Chip :=
  match c.pass? id with
  | none => c
  | some p =>
    if p.phase ≠ .geometry ∨ p.rest.isEmpty ∨ c.gfx.rendering.isSome then c
    else match c.renderTiles p true (frags.map p.fragOf) (List.range p.tileCount) with
      | (0, c) => c.flushed p
      | (k, c) => c.failSomewhere p k

def execPartialFlush (packet : PassWork) (s : State) : Host.Outcome State Fault Refusal :=
  s.on (partialFlush packet.packet packet.frags)

/-- R267: the result word. -/
def Pass.result (p : Pass) (now : Nat) : Nat := min p.flushes 255 + b2n p.takenOver * 2 ^ 8 + min ((now - p.began) / 1000) (2 ^ 32 - 1) * 2 ^ 32

/-- R266 phases 3 and 4, R268: the rendering pass stores its screen tiles and completes; `cause` is 0, or the failure
that the list at `list` and `off` brings after the screen tiles `tiles` are stored. -/
def passComplete (id cause list off : Nat) (tiles : List Nat) (frags : List FragWord) (c : Chip) : Chip :=
  match c.pass? id with
  | none => c
  | some p =>
    if cause ∉ [0, 1, 2, 4, 5] ∨ p.phase = .ready then c
    else if p.phase = .geometry then if cause = 0 then c else c.failPass p cause list off
    else if c.gfx.rendering ≠ some id then c
    else match c.renderTiles p false (frags.map p.fragOf) (if cause = 0 then List.range p.tileCount else tiles.filter (fun t => decide (t < p.tileCount))) with
      | (0, c) =>
        if cause = 0 then (c.count GFX_PASSES GFX_PASSES.COUNT 1).endPass p stDone (p.result c.now) 0
        else c.failPass p cause list off
      | (k, c) => c.failPass p k list off

def execPassComplete (packet : PassWork) (cause list off : Nat) (tiles : List Nat) (s : State) : Host.Outcome State Fault Refusal :=
  s.on (passComplete packet.packet cause list off tiles packet.frags)

/-- A pass that is ready to render may take the cores from the one that renders. -/
def Chip.mayTake (c : Chip) (p q : Pass) : Bool :=
  p.phase == .render && c.passClear p && firstOf p (c.gfx.passes.filter (fun x => x.phase == .render && x.id != q.id && c.passClear x)) && decide (p.cls < q.cls)

/-- It takes them. -/
def Chip.takeCores (c : Chip) (p q : Pass) : Chip :=
  let c := c.updPass q.id (fun x => { x with takenOver := true })
  (({ c with gfx := { c.gfx with rendering := some p.id } }).count GFX_TAKEOVERS GFX_TAKEOVERS.COUNT 1).showGfx

/-- R269: a higher-class pass that is ready to render takes the cores from the one that renders. -/
def passTakeover (id : Nat) (c : Chip) : Chip :=
  match c.pass? id, c.gfx.rendering.bind c.pass? with
  | some p, some q => if c.mayTake p q then c.takeCores p q else c
  | _, _ => c

def execPassTakeover (packet : Nat) (s : State) : Host.Outcome State Fault Refusal := s.on (passTakeover packet)

/-- R268: a core has rendered one tile for longer than GFX_HANG_LIMIT; `tiles` are stored already. -/
def gfxHang (id list off : Nat) (tiles : List Nat) (frags : List FragWord) (c : Chip) : Chip :=
  match c.pass? id with
  | none => c
  | some p =>
    if c.gfx.rendering ≠ some id ∨ c.reg GFX_HANG_LIMIT = 0 then c
    else match c.renderTiles p false (frags.map p.fragOf) (tiles.filter (fun t => decide (t < p.tileCount))) with
      | (0, c) => c.failPass p 3 list off
      | (k, c) => c.failPass p k list off

def execGfxHang (packet : PassWork) (list off : Nat) (tiles : List Nat) (s : State) : Host.Outcome State Fault Refusal :=
  s.on (gfxHang packet.packet list off tiles packet.frags)

/-! ### Display pipes (R276 to R279) -/

/-- The pipes' master, and the slice they belong to. -/
def dspMaster : Nat := 0x40
def Chip.dspSlice (c : Chip) : Nat := c.fld (ACC_MST_CTX dspMaster) ACC_MST_CTX.SLICE_TAG
def Chip.dspTag (c : Chip) (tag : Nat) : Bool := tag == 0 || tag == c.dspSlice
def Chip.pipe (c : Chip) (p : Nat) : Pipe := AMap.getD c.pipes p {}
def Chip.setPipe (c : Chip) (p : Nat) (x : Pipe) : Chip := { c with pipes := AMap.set c.pipes p x }

/-- The planes in the pending copy. -/
def Chip.pendingPlanes (c : Chip) (p : Nat) : List PlaneCfg :=
  (List.range 4).map (fun k => { addr := c.reg (DSP_PLANE_ADDR p k), pitch := c.reg (DSP_PLANE_PITCH p k), fmt := c.reg (DSP_PLANE_FMT p k), pos := c.reg (DSP_PLANE_POS p k), size := c.reg (DSP_PLANE_SIZE p k) })

def PlaneCfg.on (k : PlaneCfg) : Bool := bitOf k.fmt 0
def PlaneCfg.x (k : PlaneCfg) : Nat := k.pos % 2 ^ 16
def PlaneCfg.y (k : PlaneCfg) : Nat := k.pos / 2 ^ 16
def PlaneCfg.w (k : PlaneCfg) : Nat := k.size % 2 ^ 16
def PlaneCfg.h (k : PlaneCfg) : Nat := k.size / 2 ^ 16
def PlaneCfg.code (k : PlaneCfg) : Nat := bitsOf k.fmt 3 1
def PlaneCfg.alpha (k : PlaneCfg) : Nat := bitsOf k.fmt 15 8

/-- A shown plane lies wholly inside an active area. -/
def planeInside (wide high : Nat) (k : PlaneCfg) : Bool := !k.on || (decide (k.x + k.w ≤ wide) && decide (k.y + k.h ≤ high))

/-- R277: the pending copy loaded; the timing only while the pipe is stopped. -/
def Chip.loadPipe (c : Chip) (p : Nat) (timing : Bool) : Chip :=
  let x := c.pipe p
  let ht := if timing then c.reg (DSP_H_TIMING p) else x.hTiming
  let vt := if timing then c.reg (DSP_V_TIMING p) else x.vTiming
  let ks := c.pendingPlanes p
  let c := c.setFld (DSP_COMMIT p) DSP_COMMIT.GO 0
  if !ks.all (planeInside (ht % 2 ^ 16) (vt % 2 ^ 16)) then c.setFld (DSP_COMMIT p) DSP_COMMIT.REFUSED 1
  else
    let x := { x with planes := ks, bg := c.reg (DSP_BG_COLOUR p) }
    c.setPipe p (if timing then { x with pclk := c.reg (DSP_PCLK p), hTiming := ht, vTiming := vt, hSync := c.reg (DSP_H_SYNC p), vSync := c.reg (DSP_V_SYNC p) } else x)

/-- The regions that the next frame uses (R280). -/
def Chip.latchRegions (c : Chip) (p : Nat) : Chip :=
  c.setPipe p { c.pipe p with crcEn := c.fld (DSP_CRC_CTRL p) DSP_CRC_CTRL.EN, rects := (List.range 16).map (fun r => c.reg (DSP_CRC_RECT p r)) }

/-- A pipe begins to scan. -/
def Chip.startPipe (c : Chip) (p : Nat) : Chip :=
  let c := c.latchRegions p
  c.setPipe p { c.pipe p with scanning := true, lastEnd := c.now }

/-- A write of DSP_PIPE_CTRL: scanning starts with the loaded values, or stops at the end of the frame. -/
def dspPipeEnable (tag p v : Nat) (c : Chip) : Chip :=
  if !c.dspTag tag ∨ 4 ≤ p then c
  else
    let c := c.setReg (DSP_PIPE_CTRL p) (v % 4)
    if bitOf v 0 && !(c.pipe p).scanning then c.startPipe p else c

def execDspPipeEnable (tag pipe : Nat) (value : W32) (s : State) : Host.Outcome State Fault Refusal := s.on (dspPipeEnable tag pipe value.toNat)

/-- A write of DSP_COMMIT. -/
def dspCommit (tag p v : Nat) (c : Chip) : Chip :=
  if !c.dspTag tag ∨ 4 ≤ p then c
  else
    let c := if bitOf v 1 then c.setFld (DSP_COMMIT p) DSP_COMMIT.REFUSED 0 else c
    if !bitOf v 0 then c
    else if c.flag (DSP_PIPE_CTRL p) DSP_PIPE_CTRL.EN then c.setFld (DSP_COMMIT p) DSP_COMMIT.GO 1
    else c.loadPipe p true

def execDspCommit (tag pipe : Nat) (value : W32) (s : State) : Host.Outcome State Fault Refusal := s.on (dspCommit tag pipe value.toNat)

/-- The vertical blank of a scanning pipe: a commit that waits loads. -/
def commitLoad (p : Nat) (c : Chip) : Chip :=
  if p < 4 ∧ c.flag (DSP_COMMIT p) DSP_COMMIT.GO then c.loadPipe p false else c

def execCommitLoad (pipe : Nat) (s : State) : Host.Outcome State Fault Refusal := s.on (commitLoad pipe)

/-- DATA1 of a DISPLAY_LINK event. -/
def Chip.linkWord (c : Chip) (p : Nat) : Nat := 2 ^ c.fld (DSP_OUT_CFG p) DSP_OUT_CFG.LANES % 8 + c.fld (DSP_OUT_CFG p) DSP_OUT_CFG.RATE * 2 ^ 8

/-- The fields of DSP_OUT_CFG that software writes; TRAINED stays only while EN does. -/
def Chip.writeOut (c : Chip) (p v : Nat) : Chip :=
  let was := c.flag (DSP_OUT_CFG p) DSP_OUT_CFG.EN
  let edp := if p < 2 then bitsOf v 4 4 else 0
  c.setReg (DSP_OUT_CFG p) (bitsOf v 10 6 * 2 ^ 6 + edp * 2 ^ 4 + v % 2 + (if was && bitOf v 0 then c.fld (DSP_OUT_CFG p) DSP_OUT_CFG.TRAINED * 2 ^ 5 else 0))

/-- A link has trained. -/
def Chip.linkTrained (c : Chip) (p lanes rate : Nat) : Chip :=
  let c := ((c.setFld (DSP_OUT_CFG p) DSP_OUT_CFG.TRAINED 1).setFld (DSP_OUT_CFG p) DSP_OUT_CFG.LANES lanes).setFld (DSP_OUT_CFG p) DSP_OUT_CFG.RATE rate
  c.event c.dspSlice 0x0304 p 0 2 (c.linkWord p)

/-- R278: a write of DSP_OUT_CFG; EN newly set trains the link, to `lanes` (0, 1, 2 as LANES) and `rate`, or fails. -/
def displayLinkTraining (tag p v : Nat) (trained : Bool) (lanes rate : Nat) (c : Chip) : Chip :=
  if !c.dspTag tag ∨ 4 ≤ p ∨ c.flag (DSP_PIPE_CTRL p) DSP_PIPE_CTRL.EN then c
  else
    let was := c.flag (DSP_OUT_CFG p) DSP_OUT_CFG.EN
    let c := c.writeOut p v
    if bitOf v 0 && !was && trained then c.linkTrained p lanes rate else c

def execDisplayLinkTraining (tag pipe : Nat) (value : W32) (trained : Bool) (lanes rate : Nat) (s : State) : Host.Outcome State Fault Refusal :=
  s.on (displayLinkTraining tag pipe value.toNat trained lanes rate)

/-- R278: hot-plug detect or link lock is lost; the pipe keeps scanning. -/
def displayLinkLoss (p : Nat) (hotplug : Bool) (c : Chip) : Chip :=
  if 4 ≤ p ∨ !c.flag (DSP_OUT_CFG p) DSP_OUT_CFG.EN then c
  else
    let w := c.linkWord p
    (c.setFld (DSP_OUT_CFG p) DSP_OUT_CFG.TRAINED 0).event c.dspSlice 0x0304 p 0 (b2n hotplug) w

def execDisplayLinkLoss (pipe : Nat) (hotplug : Bool) (s : State) : Host.Outcome State Fault Refusal := s.on (displayLinkLoss pipe hotplug)

/-! ### A frame and its regions (R279 to R281) -/

/-- R280: an 8-bit component widened to 10 bits. -/
def widen (v : Nat) : Nat := v * 4 + v / 64
def rgb30 (r g b : Nat) : Nat := r * 2 ^ 20 + g * 2 ^ 10 + b

/-- Bytes of a source pixel; NV12 takes its luma here and its chroma apart. -/
def planeBpp : Nat → Nat
  | 3 => 2
  | 4 => 1
  | _ => 4

/-- The range of a plane's row that holds display line `y`, and that of its chroma. -/
def PlaneCfg.rowRange (k : PlaneCfg) (y : Nat) : Nat × Nat := (k.addr + (y - k.y) * k.pitch, k.w * planeBpp k.code)
def PlaneCfg.chromaRange (k : PlaneCfg) (y : Nat) : Nat × Nat := (k.addr + (k.h + (y - k.y) / 2) * k.pitch, (k.w + 1) / 2 * 2)

/-- A plane's row as read: its bytes, its chroma bytes; none where a read fails. -/
def Chip.planeRow (c : Chip) (k : PlaneCfg) (y : Nat) : Option (List Byte × List Byte) × Chip :=
  let r := k.rowRange y
  match c.loadRange dspMaster c.dspSlice r.1 r.2 with
  | (.ok, b, c) =>
    if k.code = 4 then
      let q := k.chromaRange y
      match c.loadRange dspMaster c.dspSlice q.1 q.2 with
      | (.ok, u, c) => (some (b, u), c)
      | (_, _, c) => (none, c)
    else (some (b, []), c)
  | (_, _, c) => (none, c)

/-- One plane's pixel over the pixel under it.  An opaque 8-bit pixel on an 8-bit output stands as it is; elsewhere the
spec gives no exact value (log 30). -/
def blendPixel (k : PlaneCfg) (bpc10 : Bool) (row : List Byte × List Byte) (x under : Nat) : Nat :=
  let i := x - k.x
  let src := bytesU row.1 (i * planeBpp k.code) (planeBpp k.code) + (if k.code = 4 then bytesU row.2 (i / 2 * 2) 2 * 2 ^ 8 else 0)
  if !bpc10 ∧ k.alpha = 255 ∧ (k.code = 1 ∨ (k.code = 0 ∧ bitsOf src 31 24 = 255)) then rgb30 (widen (bitsOf src 23 16)) (widen (bitsOf src 15 8)) (widen (bitsOf src 7 0))
  else (Config.blend k.code k.alpha bpc10 src under).toNat

/-- The background as it is output: with 8-bit output the top 8 bits of each component, widened. -/
def bgPixel (bg : Nat) (bpc10 : Bool) : Nat :=
  if bpc10 then bg % 2 ^ 30 else rgb30 (widen (bitsOf bg 29 22)) (widen (bitsOf bg 19 12)) (widen (bitsOf bg 9 2))

/-- The planes shown on a line, each with its row. -/
def Chip.lineRows (c : Chip) (y : Nat) : List PlaneCfg → List (PlaneCfg × Option (List Byte × List Byte)) × Chip
  | [] => ([], c)
  | k :: l =>
    if k.on && decide (k.y ≤ y) && decide (y < k.y + k.h) then
      let (r, c) := c.planeRow k y
      let (rs, c) := Chip.lineRows c y l
      ((k, r) :: rs, c)
    else Chip.lineRows c y l

/-- A line's pixels, and how many of them are substituted; `missed` are those not fetched in time. -/
def Chip.linePixels (c : Chip) (p : Nat) (y : Nat) (missed : List (Nat × Nat)) : List Nat × Nat × Chip :=
  let x := c.pipe p
  let bpc10 := c.flag (DSP_PIPE_CTRL p) DSP_PIPE_CTRL.BPC10
  let sub := bgPixel (c.reg (DSP_UNDERRUN_COLOUR p)) bpc10
  let (rows, c) := c.lineRows y x.planes
  let px := (List.range (x.hTiming % 2 ^ 16)).map (fun i =>
    let here := rows.filter (fun r => decide (r.1.x ≤ i) && decide (i < r.1.x + r.1.w))
    if missed.contains (i, y) || here.any (fun r => r.2.isNone) then (sub, 1)
    else (here.foldl (fun u r => match r.2 with
      | some b => blendPixel r.1 bpc10 b i u
      | none => u) (bgPixel x.bg bpc10), 0))
  (px.map (·.1), sumOf (px.map (·.2)), c)

/-- CRC-32 of IEEE 802.3, reflected. -/
def crc32Bit (x : Nat) : Nat := if x % 2 = 1 then (x / 2) ^^^ 0xEDB88320 else x / 2
def crc32Byte (x : Nat) (b : Byte) : Nat := (List.range 8).foldl (fun x _ => crc32Bit x) (x ^^^ b.toNat)
def crc32 (l : List Byte) : Nat := l.foldl crc32Byte 0xFFFFFFFF ^^^ 0xFFFFFFFF
/-- A running CRC fed with pixels. -/
def crcPixels (x : Nat) (l : List Nat) : Nat := (l.flatMap (leBytes 4)).foldl crc32Byte x

/-- The part of a line inside a region. -/
def regionPart (rect y : Nat) (line : List Nat) : List Nat :=
  if bitsOf rect 31 16 ≤ y ∧ y ≤ bitsOf rect 63 48 then (line.drop (rect % 2 ^ 16)).take (bitsOf rect 47 32 + 1 - rect % 2 ^ 16) else []

/-- The lines of a frame from `y` on: the regions' running CRCs and the pixels substituted. -/
def Chip.frameLines (c : Chip) (p : Nat) (missed : List (Nat × Nat)) : List Nat → List Nat → Nat → List Nat × Nat × Chip
  | [], crcs, n => (crcs, n, c)
  | y :: l, crcs, n =>
    let (line, k, c) := c.linePixels p y missed
    let rects := (c.pipe p).rects
    Chip.frameLines c p missed l (crcs.mapIdx (fun r x => crcPixels x (regionPart (rects.getD r 0) y line))) (n + k)

/-- The regions that mismatch, each given its latched value. -/
def Chip.mismatches (c : Chip) (p en : Nat) : List Nat :=
  (List.range 16).filter (fun r => bitOf en r &&
    !(List.range 4).any (fun k => bitOf (c.reg (DSP_CRC_EXP_VALID p)) (4 * r + k) && c.reg (DSP_CRC_EXP p r k) == c.reg (DSP_CRC_VAL p r)))

/-- R281, R307: the island's finding on a frame of a pipe. -/
def Chip.regionFinding (c : Chip) (p : Nat) (bad : List Nat) : Chip :=
  let mask := sumOf (bad.map (fun r => 2 ^ r))
  let c := if bad.isEmpty then c else
    let c := c.setFld (DSP_CRC_MISMATCH p) DSP_CRC_MISMATCH.REGION (c.fld (DSP_CRC_MISMATCH p) DSP_CRC_MISMATCH.REGION ||| mask)
    let c := c.count (DSP_CRC_MISMATCHES p) DSP_CRC_MISMATCHES.COUNT bad.length
    c.event c.dspSlice 0x0303 p 0 mask (c.reg (DSP_FRAME_COUNT p))
  c.telltaleFrame p (!bad.isEmpty)

/-- A frame's counts, the values of its regions, and the comparison. -/
def Chip.endFrame (c : Chip) (p : Nat) (x : Pipe) (crcs : List Nat) (under : Nat) : Chip :=
  let c := c.count (DSP_FRAME_COUNT p) DSP_FRAME_COUNT.COUNT 1
  let c := c.count (DSP_UNDERRUNS p) DSP_UNDERRUNS.COUNT under
  let c := if under = 0 then c else c.event c.dspSlice 0x0302 p 0 under (c.reg (DSP_FRAME_COUNT p))
  let c := (crcs.zipIdx).foldl (fun (c : Chip) q => if bitOf x.crcEn q.2 then c.setReg (DSP_CRC_VAL p q.2) (q.1 ^^^ 0xFFFFFFFF) else c) c
  let c := c.setReg (DSP_CRC_FRAME p) (c.reg (DSP_FRAME_COUNT p))
  let c := c.regionFinding p (c.mismatches p x.crcEn)
  let c := c.latchRegions p
  c.setPipe p { c.pipe p with lastEnd := c.now, scanning := c.flag (DSP_PIPE_CTRL p) DSP_PIPE_CTRL.EN }

/-- The end of a frame's last active line: the frame is scanned, its regions are latched and compared. -/
def frameEndCrc (p : Nat) (missed : List (Nat × Nat)) (c : Chip) : Chip :=
  let x := c.pipe p
  if 4 ≤ p ∨ !x.scanning then c
  else
    let (crcs, under, c) := c.frameLines p missed (List.range (x.vTiming % 2 ^ 16)) (List.replicate 16 0xFFFFFFFF) 0
    c.endFrame p x crcs under

def execFrameEndCrc (pipe : Nat) (missed : List (Nat × Nat)) (s : State) : Host.Outcome State Fault Refusal := s.on (frameEndCrc pipe missed)

/-- The frame period in ns. -/
def Pipe.period (x : Pipe) : Nat := if x.pclk = 0 then 0 else (x.hTiming / 2 ^ 16) * (x.vTiming / 2 ^ 16) * 1000000 / x.pclk

/-- R281: a pipe that completes no frame within 2 frame periods mismatches on every enabled region. -/
def pipeStall (p : Nat) (c : Chip) : Chip :=
  let x := c.pipe p
  if 4 ≤ p ∨ !x.scanning ∨ c.now < x.lastEnd + 2 * x.period then c
  else
    (c.setPipe p { x with lastEnd := c.now }).regionFinding p ((List.range 16).filter (bitOf x.crcEn))

def execPipeStall (pipe : Nat) (s : State) : Host.Outcome State Fault Refusal := s.on (pipeStall pipe)

end Sys2Proof.Machine
end

