-- ==== Sys2Proof/Machine/Island.lean ====
section
/-!
DEFINITION. Golden frames (11 R309 to R314), the lockstep pair, rotating self-tests and the error ring's registers
(12 R317 to R336).
-/

namespace Sys2Proof.Machine

/-! ### What tests and golden runs keep out of the way of (R312, R325) -/

/-- The earliest known class 0 release on a group. -/
def Chip.nextRelease (c : Chip) (g : Nat) : Option Nat :=
  let js := (c.jobs.filter (fun j => j.cls == 0 && !j.isGolden && j.waits && j.tiles.any (fun n => n / 16 == g))).map (fun j => j.release.getD c.now)
  let ps := (c.pendingRels.filter (fun r => r.cls == 0 && r.tiles.any (fun n => n / 16 == g))).map (·.release)
  match js ++ ps with
  | [] => none
  | t :: l => some (l.foldl earlier t)

/-- `ns` from now end before the next known class 0 release on the group. -/
def Chip.endsBefore (c : Chip) (g ns : Nat) : Bool :=
  match c.nextRelease g with
  | some t => timeBefore (c.now + ns) t
  | none => true

/-- A record whose CAUSE and DETAIL the spec does not give: they are free. -/
def Chip.errorOpen (c : Chip) (severity source unit : Nat) : Chip :=
  let (x, c) := c.draw
  let (y, c) := c.draw
  c.error { severity := severity, cause := x.toNat % 2 ^ 8, source := source, unit := unit, detail := some (y.toNat) }

/-- Every function group of a mask enters its safe state. -/
def Chip.enterSafeMask (c : Chip) (mask cause : Nat) : Chip :=
  (List.range 4).foldl (fun c f => if bitOf mask f then c.enterSafe f cause 0xFF 0 else c) c

/-! ### Golden schedule (R309, R310) -/

def Chip.onGolden (c : Chip) (id op : Nat) (f : Packet → Chip → Chip) : Chip :=
  c.onPacket id 0x502 (fun p c =>
    if 2 < p.u 33 1 ∨ 8 ≤ p.u 32 1 ∨ 2 ^ 12 ≤ p.u 34 2 ∨ !zeroIn p.bytes 54 64 then c.finish p.id stBadParam
    else if p.u 33 1 = op then f p c else c)

/-- The entry that names a group. -/
def Chip.goldenOf (c : Chip) (g : Nat) : Option (Nat × Golden) := c.selfTest.golden.find? (fun e => bitOf e.2.groups g)
def Chip.setGoldenGroup (c : Chip) (g : Nat) (x : GoldenGroup) : Chip := { c with selfTest := { c.selfTest with goldenGroups := AMap.set c.selfTest.goldenGroups g x } }

def maskGroups (mask : Nat) : List Nat := (List.range 12).filter (bitOf mask)

/-- A golden descriptor keeps its table. -/
def goldenOk (b : List Byte) : Bool :=
  let u := bytesU b
  u 0 4 == 0x474C4446 && u 4 2 / 1024 == 0 && decide (1 ≤ u 6 1) && decide (u 6 1 ≤ 16) && decide (u 7 1 < 16) && decide (u 8 8 < 2 ^ 48) && decide (u 16 1 ≤ 16) && zeroIn b 17 20 && zeroIn b 80 128

/-- The entry that a GOLDEN_SCHEDULE packet and its descriptor make; zero fields take their defaults (R309). -/
def Packet.golden (p : Packet) (b : List Byte) : Golden :=
  let iv := if p.u 36 4 = 0 then 1000 else p.u 36 4
  { groups := p.u 34 2, interval := iv, diag := if p.u 48 4 = 0 then 3 * iv else p.u 48 4, defer := if p.u 52 2 = 0 then 100 else p.u 52 2, desc := b }

/-- Its fields are legal: the periods, the descriptor's place in slice 0, and no group in two entries. -/
def Chip.goldenMay (c : Chip) (p : Packet) : Bool :=
  let x := p.golden []
  decide (100 ≤ x.interval) && decide (x.interval ≤ 60000) && decide (x.interval ≤ x.diag) && decide (10 ≤ x.defer) && decide (x.defer ≤ 1000) && decide (p.u 40 8 < 2 ^ 48) && p.u 40 8 % 64 == 0 &&
    c.ownsPages 0 (p.u 40 8) 128 && !c.selfTest.golden.any (fun e => e.1 != p.u 32 1 && e.2.groups &&& p.u 34 2 != 0)

/-- An entry of the schedule, its groups spread over the interval; a group that the entry no longer names leaves it, and
one it named already keeps the time of its last pass. -/
def Chip.setGolden (c : Chip) (k : Nat) (x : Golden) : Chip :=
  let gs := maskGroups x.groups
  let old := match AMap.get? c.selfTest.golden k with
    | some e => maskGroups e.groups
    | none => []
  let c := { c with selfTest := { c.selfTest with golden := AMap.set c.selfTest.golden k x, goldenGroups := c.selfTest.goldenGroups.filter (fun y => !old.contains y.1 || gs.contains y.1) } }
  gs.zipIdx.foldl (fun (c : Chip) q =>
    let since := match AMap.get? c.selfTest.goldenGroups q.1 with
      | some y => y.since
      | none => c.now
    c.setGoldenGroup q.1 { due := c.now + q.2 * (x.interval * 1000000 / gs.length), since := since }) c

/-- OP 0. -/
def goldenScheduleSet (id : Nat) (c : Chip) : Chip :=
  c.onGolden id 0 (fun p c =>
    if !c.goldenMay p then c.finish p.id stBadParam
    else match c.loadRange islandMaster 0 (p.u 40 8) 128 with
      | (.denied, _, c) => c.finish p.id stBadParam
      | (.uncorrectable, _, c) => c.finish p.id stUncorrectable
      | (.ok, b, c) => if goldenOk b then (c.setGolden (p.u 32 1) (p.golden b)).finish p.id stDone else c.finish p.id stBadParam)

def execGoldenScheduleSet (packet : Nat) (s : State) : Host.Outcome State Fault Refusal := s.on (goldenScheduleSet packet)

/-- An entry and its groups leave the schedule. -/
def Chip.clearGolden (c : Chip) (k : Nat) : Chip :=
  let gs := match AMap.get? c.selfTest.golden k with
    | some e => maskGroups e.groups
    | none => []
  { c with selfTest := { c.selfTest with golden := AMap.del c.selfTest.golden k, goldenGroups := c.selfTest.goldenGroups.filter (fun x => !gs.contains x.1) } }

/-- OP 1. -/
def goldenScheduleClear (id : Nat) (c : Chip) : Chip := c.onGolden id 1 (fun p c => (c.clearGolden (p.u 32 1)).finish p.id stDone)

def execGoldenScheduleClear (packet : Nat) (s : State) : Host.Outcome State Fault Refusal := s.on (goldenScheduleClear packet)

/-- The golden frame of an entry falls due on each of its groups. -/
def Chip.goldenNow (c : Chip) (e : Golden) : Chip :=
  (maskGroups e.groups).foldl (fun (c : Chip) g => match AMap.get? c.selfTest.goldenGroups g with
    | some x => c.setGoldenGroup g { x with due := c.now }
    | none => c) c

/-- OP 2: the entry's golden frame falls due on each of its groups now. -/
def goldenScheduleRunNow (id : Nat) (c : Chip) : Chip :=
  c.onGolden id 2 (fun p c =>
    match AMap.get? c.selfTest.golden (p.u 32 1) with
    | none => c.finish p.id stBadParam
    | some e => (c.goldenNow e).finish p.id stDone)

def execGoldenScheduleRunNow (packet : Nat) (s : State) : Host.Outcome State Fault Refusal := s.on (goldenScheduleRunNow packet)

/-! ### Golden runs (R311 to R314) -/

/-- R314: a failed run: FAILED, the event, and the safe state of the function groups in CARRIES. -/
def Chip.goldenFail (c : Chip) (g status : Nat) : Chip :=
  let c := c.setFld (SAF_HEALTH g) SAF_HEALTH.FAILED 1
  let c := c.event 0 0x0409 g 0 status 0
  c.enterSafeMask (c.fld (SAF_HEALTH g) SAF_HEALTH.CARRIES) ssGoldenFail

/-- R312: a pass. -/
def Chip.goldenPass (c : Chip) (g : Nat) : Chip :=
  let c := (c.setReg (SAF_HEALTH g) 0).setReg (SAF_GOLDEN_PASS g) c.now
  match AMap.get? c.selfTest.goldenGroups g with
  | some x => c.setGoldenGroup g { x with since := c.now }
  | none => c

/-- R312: an attempt is put off. -/
def Chip.goldenDefer (c : Chip) (g ms : Nat) (x : GoldenGroup) : Chip :=
  let c := c.count (SAF_HEALTH g) SAF_HEALTH.DEFERRALS 1
  let c := c.setGoldenGroup g { x with due := c.now + ms * 1000000 }
  c.event 0 0x0407 g 0 (c.fld (SAF_HEALTH g) SAF_HEALTH.DEFERRALS) 0

/-- R311: the golden job, in the queue of its group's scheduler. -/
def Chip.goldenStart (c : Chip) (e : Nat) (x : Golden) (g : Nat) (k : Chan) : Chip :=
  let j : Job := { id := c.nextPacket, kind := .golden e g, slice := 0, ring := 0, seq := 0, cls := 1, seed := bytesU x.desc 28 4, ioCount := bytesU x.desc 16 1, release := some c.now, arrival := c.starts, chans := [k] }
  { c with nextPacket := c.nextPacket + 1, jobs := c.jobs ++ [j] }.showJobs g

/-- The golden job of a group, if one is about. -/
def Job.goldenOn (j : Job) (g : Nat) : Bool := match j.kind with
  | .golden _ h => h == g
  | _ => false

/-- A group's next golden frame is one interval on. -/
def Chip.goldenNext (c : Chip) (g : Nat) (x : Golden) (y : GoldenGroup) : Chip :=
  c.setGoldenGroup g { y with due := y.due + x.interval * 1000000 }

/-- A placement moved onto a group. -/
def Chan.onto (k : Chan) (g : Nat) : Chan := { k with first := 16 * g + k.first % 16 }

/-- The run time a channel's variant is allowed, in ns. -/
def Chip.wcetNs (c : Chip) (k : Chan) : Nat := match c.variantOf k with
  | some v => v.wcetUs * 1000
  | none => 0

/-- The jobs of class 2 and 3 that hold a placement. -/
def Chip.lowHolders (c : Chip) (k : Chan) : List Job :=
  c.jobs.filter (fun j => j.chans.any (fun h => h.holding && meets h.placement k.placement) && decide (2 ≤ j.cls))

/-- R312: a golden run must wait: a job of class 0 or 1 holds its tiles, a class 0 release comes too soon, or lower
classes hold them and it has not been put off three times. -/
def Chip.goldenWaits (c : Chip) (g : Nat) (k : Chan) : Bool :=
  c.jobs.any (fun j => j.chans.any (fun h => h.holding && meets h.placement k.placement) && decide (j.cls ≤ 1)) || !c.endsBefore g (c.wcetNs k) ||
    (!decide (3 ≤ c.fld (SAF_HEALTH g) SAF_HEALTH.DEFERRALS) && !(c.lowHolders k).isEmpty)

/-- The jobs that hold a placement at a low class are asked to leave. -/
def Chip.pressLow (c : Chip) (k : Chan) : Chip := (c.lowHolders k).foldl (fun c j => c.updJob j.id (fun j => { j with wanted := some 3 })) c

/-- R312: a group's golden run falls due. -/
def goldenRunDue (g : Nat) (c : Chip) : Chip :=
  match c.goldenOf g, AMap.get? c.selfTest.goldenGroups g with
  | some (e, x), some y =>
    if c.now < y.due ∨ c.jobs.any (fun j => j.goldenOn g) then c
    else
      match c.checkChan 0 1 (bytesU x.desc 4 2) (bytesU x.desc 6 1) (bytesU x.desc 8 6) (bytesU x.desc 16 1) with
      | (.error st, c) => (c.goldenNext g x y).goldenFail g st
      | (.ok k, c) =>
        if 16 < k.first % 16 + k.tiles then (c.goldenNext g x y).goldenFail g stBadParam
        else if c.goldenWaits g (k.onto g) then c.goldenDefer g x.defer y
        else ((c.pressLow (k.onto g)).goldenNext g x y).goldenStart e x g (k.onto g)
  | _, _ => c

def execGoldenRunDue (group : Nat) (s : State) : Host.Outcome State Fault Refusal := s.on (goldenRunDue group)

/-- The golden job that runs on a group. -/
def Chip.goldenJob? (c : Chip) (g : Nat) : Option Job := c.jobs.find? (fun j => j.phase == .running && j.goldenOn g)

/-- Where a golden run leaves the output that is compared. -/
def Golden.outAt (x : Golden) (k : Chan) : Nat := ((k.bindings[bytesU x.desc 7 1 % 16]?).map (·.1)).getD 0 + bytesU x.desc 20 4

/-- R311, R314: a golden run ends; its output's hash is compared. -/
def goldenRunEnd (g : Nat) (c : Chip) : Chip :=
  match c.goldenJob? g, c.goldenOf g with
  | some j, some (_, x) => match j.chans with
    | [] => c
    | k :: _ => match c.chanEnd k with
      | none => c
      | some (st, _) =>
        let c := c.removeJob j.id
        if !isSuccess st then c.goldenFail g st
        else match c.loadRange islandMaster 0 (x.outAt k) (bytesU x.desc 24 4) with
          | (.ok, b, c) => if (Config.sha384 b).toNat = bytesU x.desc 32 48 then c.goldenPass g else c.goldenFail g 0
          | (o, _, c) => c.goldenFail g (servedStatus o)
  | some j, none => match j.chans with
    | k :: _ => if (c.chanEnd k).isSome then c.removeJob j.id else c
    | [] => c
  | none, _ => c

def execGoldenRunEnd (group : Nat) (s : State) : Host.Outcome State Fault Refusal := s.on (goldenRunEnd group)

/-- A group is untested and degraded, and told so; its function groups enter their safe state. -/
def Chip.goldenLate (c : Chip) (g : Nat) (y : GoldenGroup) : Chip :=
  let c := (c.setFld (SAF_HEALTH g) SAF_HEALTH.UNTESTED 1).setFld (SAF_HEALTH g) SAF_HEALTH.DEGRADED 1
  let c := c.setGoldenGroup g { y with since := c.now }
  let c := c.event 0 0x0408 g 0 (c.reg (SAF_GOLDEN_PASS g)) 0
  c.enterSafeMask (c.fld (SAF_HEALTH g) SAF_HEALTH.CARRIES) ssGoldenOverdue

/-- R313: DIAG_MS has passed without a pass. -/
def goldenOverdue (g : Nat) (c : Chip) : Chip :=
  match c.goldenOf g, AMap.get? c.selfTest.goldenGroups g with
  | some (_, x), some y => if c.now < y.since + x.diag * 1000000 then c else c.goldenLate g y
  | _, _ => c

def execGoldenOverdue (group : Nat) (s : State) : Host.Outcome State Fault Refusal := s.on (goldenOverdue group)

/-! ### The lockstep pair (R318, R322) -/

/-- A failed island self-test: the island is held in reset with SAFE_N asserted (R322). -/
def Chip.holdIsland (c : Chip) : Chip :=
  let c := (c.setFld SAF_ISLAND_STATUS SAF_ISLAND_STATUS.HELD 1).setFld SAF_ISLAND_STATUS SAF_ISLAND_STATUS.STATE 0
  (List.range 4).foldl (fun c f => c.setSafeN f true) c

/-- R318: what a mismatch of the lockstep pair does before the self-test. -/
def Chip.lockstepLost (c : Chip) : Chip :=
  let c := (List.range 4).foldl (fun c f => c.setSafeN f true) c
  let c := c.setFld SAF_ISLAND_STATUS SAF_ISLAND_STATUS.LOCKSTEP_ERR 1
  let c := (c.count SAF_LOCKSTEP_MISMATCHES SAF_LOCKSTEP_MISMATCHES.COUNT 1).setReg SAF_LOCKSTEP_TIME c.now
  let c := c.enterSafeMask 0xF ssIsland
  let c := c.errorOpen 3 8 0
  c.event 0 0x0413 0xFFFF 0 c.now (c.reg SAF_LOCKSTEP_MISMATCHES)

/-- The pair compares: it is not split, not broken, and the island not held. -/
def Chip.pairCompares (c : Chip) : Bool :=
  !(c.flag SAF_ISLAND_STATUS SAF_ISLAND_STATUS.SPLIT || c.flag SAF_ISLAND_STATUS SAF_ISLAND_STATUS.LOCKSTEP_BROKEN || c.flag SAF_ISLAND_STATUS SAF_ISLAND_STATUS.HELD)

/-- R318: a mismatch of the lockstep pair; `selftest` is the outcome of the short self-test that follows. -/
def lockstepMismatch (selftest : Bool) (c : Chip) : Chip :=
  if !c.pairCompares then c
  else
    let c := c.lockstepLost
    if 3 ≤ c.reg SAF_LOCKSTEP_MISMATCHES then c.holdIsland
    else if selftest then c.setFld SAF_ISLAND_STATUS SAF_ISLAND_STATUS.STATE 2
    else c.holdIsland.errorOpen 3 8 0

def execLockstepMismatch (selftest : Bool) (s : State) : Host.Outcome State Fault Refusal := s.on (lockstepMismatch selftest)

/-- R320: invasive debug on an island core breaks lockstep until the next cold start. -/
def Chip.breakLockstep (c : Chip) : Chip :=
  if c.flag SAF_ISLAND_STATUS SAF_ISLAND_STATUS.LOCKSTEP_BROKEN then c
  else (c.setFld SAF_ISLAND_STATUS SAF_ISLAND_STATUS.LOCKSTEP_BROKEN 1).event 0 0x0414 0xFFFF 0 c.now 0

/-! ### Tile tests (R323 to R329) -/

def Chip.updTest (c : Chip) (f : SelfTest → SelfTest) : Chip := { c with selfTest := f c.selfTest }
def Chip.tileTest (c : Chip) (n : Nat) : TileTest := AMap.getD c.selfTest.tests n {}
def Chip.setTileTest (c : Chip) (n : Nat) (t : TileTest) : Chip :=
  let c := c.updTest (fun s => { s with tests := AMap.set s.tests n t })
  (c.setFld (SAF_ST_TILE n) SAF_ST_TILE.STEP t.step).setFld (SAF_ST_TILE n) SAF_ST_TILE.RUNNING (b2n t.running)

/-- QUEUED shows explicit tests that wait. -/
def Chip.showQueued (c : Chip) (n : Nat) : Chip :=
  c.setFld (SAF_ST_TILE n) SAF_ST_TILE.QUEUED (b2n (c.selfTest.runs.any (fun r => r.tiles.head? == some n) && !(c.tileTest n).running))

/-- Tile periods that have ended: a schedule that waits takes effect, and slices start again from step 0. -/
def Chip.testPeriod (c : Chip) : Chip :=
  let ns := c.reg SAF_ST_PERIOD * 1000000
  if c.now < c.selfTest.period + ns then c
  else
    let start := c.selfTest.period + (c.now - c.selfTest.period) / ns * ns
    let c := match c.selfTest.next with
      | some (t, k, d, u) => (((c.setReg SAF_ST_PERIOD t).setReg SAF_ST_CHK_PERIOD k).setReg SAF_ST_DIAG d).updTest (fun s => { s with units := u, next := none })
      | none => c
    let c := (c.selfTest.tests.filter (fun p => !p.2.running)).foldl (fun (c : Chip) p => c.setFld (SAF_ST_TILE p.1) SAF_ST_TILE.STEP 0) c
    c.updTest (fun s => { s with period := start, tested := [], tests := s.tests.filter (fun p => p.2.running) })

/-- The explicit run at whose head the tile stands: an URGENT one before the others. -/
def Chip.tileRun? (c : Chip) (n : Nat) : Option TileRun :=
  match c.selfTest.runs.find? (fun r => r.urgent && r.tiles.head? == some n) with
  | some r => some r
  | none => c.selfTest.runs.find? (fun r => r.tiles.head? == some n)

/-- The rotation may test the tile now. -/
def Chip.rotates (c : Chip) (n : Nat) : Bool :=
  !c.selfTest.tested.contains n && decide (c.selfTest.period + n % 16 * (c.reg SAF_ST_PERIOD * 1000000 / 16) ≤ c.now)

/-- An URGENT run at the tile asks the jobs of class 1 to 3 that hold it to leave, and a slice that runs there becomes
URGENT with it (R327). -/
def Chip.pressTile (c : Chip) (n : Nat) : Chip :=
  if (c.tileRun? n).any (·.urgent) then
    let c := { c with jobs := c.jobs.map (fun (j : Job) => if j.cls ≠ 0 ∧ !j.isGolden ∧ j.chans.any (fun k => k.holding && k.placement.contains n) then { j with wanted := some 2 } else j) }
    if (c.tileTest n).running then c.setTileTest n { c.tileTest n with urgent := true } else c
  else c

/-- R325: nothing keeps a slice of the tile from running. -/
def Chip.sliceAdmitted (c : Chip) (n : Nat) : Bool :=
  !(List.range 16).any (fun i => (c.tileTest (n / 16 * 16 + i)).running) && ((c.tileRun? n).isSome || c.rotates n) && !c.tileHeld n &&
    c.endsBefore (n / 16) (20000 * (90 - (c.tileTest n).step))

/-- A group that stands is woken for a test (R400). -/
def Chip.wakeFor (c : Chip) (g : Nat) : Chip :=
  if (c.wakeParts [g] 0).isEmpty then c else c.ask 0 (c.wakeParts [g] 0) 0

/-- A slice asks for its budget, once. -/
def Chip.askTest (c : Chip) (n : Nat) : Chip :=
  if c.granted (.test n) || c.asking (.test n) then c else c.ask 0 [{ who := .test n, units := c.selfTest.units, slice := none, cls := 0 }] 0

/-- A slice of a tile begins, or goes on from its next step. -/
def Chip.beginSlice (c : Chip) (n : Nat) : Chip :=
  let t := c.tileTest n
  let urgent := match c.tileRun? n with
    | some r => r.urgent
    | none => false
  let c := c.setTileTest n { t with running := true, urgent := urgent, began := if t.step = 0 then c.now else t.began }
  let c := c.updTest (fun s => { s with runs := s.runs.map (fun r => if r.tiles.head? = some n ∧ r.began = none then { r with began := some c.now } else r) })
  let c := { c with tiles := AMap.del c.tiles n }.setReg (TILE_LFSR n) (TILE_LFSR n).reset
  ((c.setTileState n 5).setBusy n true).showQueued n

/-- R325: a slice of a tile is admitted and starts, or goes on from its next step; a group that stands is woken for it
(R400). -/
def selftestSliceStart (n : Nat) (c : Chip) : Chip :=
  if 192 ≤ n ∨ c.flag SAF_ISLAND_STATUS SAF_ISLAND_STATUS.HELD then c
  else
    let c := c.testPeriod.pressTile n
    if !c.sliceAdmitted n then c
    else if c.groupState (n / 16) ≠ gsRunning then c.wakeFor (n / 16)
    else if c.tileState n ≠ tsIdle then c
    else
      let c := c.askTest n
      if c.granted (.test n) then c.beginSlice n else c

def execSelftestSliceStart (tile : Nat) (s : State) : Host.Outcome State Fault Refusal := s.on (selftestSliceStart tile)

/-- R324: a step of a running slice is done, at its abort point. -/
def selftestStep (n : Nat) (pass : Bool) (c : Chip) : Chip :=
  let t := c.tileTest n
  if 192 ≤ n ∨ !t.running ∨ 90 ≤ t.step then c
  else c.setTileTest n { t with step := t.step + 1, firstFail := if pass then t.firstFail else some (t.firstFail.getD t.step) }

def execSelftestStep (tile : Nat) (pass : Bool) (s : State) : Host.Outcome State Fault Refusal := s.on (selftestStep tile pass)

/-- The tile leaves its slice. -/
def Chip.leaveSlice (c : Chip) (n : Nat) : Chip := ((c.setTileState n tsIdle).setBusy n false).giveBack (.test n)

/-- R326: what aborts a slice: 0 a class 0 job, 1 a class 1 job, 2 a release that has moved. -/
def Chip.abortCause (c : Chip) (n : Nat) (t : TileTest) : Option Nat :=
  let wants := fun k => c.jobs.any (fun j => j.cls == k && c.jobReady j && j.tiles.contains n)
  if wants 0 then some 0
  else if wants 1 && !t.urgent then some 1
  else if !c.endsBefore (n / 16) (20000 * (90 - t.step)) then some 2
  else none

/-- A slice is aborted: its tile is free again, and the event tells the step it had done. -/
def Chip.abortSlice (c : Chip) (n k : Nat) : Chip :=
  let t := c.tileTest n
  let (x, c) := c.draw
  let c := c.setTileTest n { t with running := false }
  let c := (c.leaveSlice n).count SAF_ST_ABORTS SAF_ST_ABORTS.COUNT 1
  let c := c.event 0 0x0411 n 0 (if t.step = 0 then x.toNat else t.step - 1) k
  c.showQueued n

def selftestAbort (n : Nat) (c : Chip) : Chip :=
  let t := c.tileTest n
  if 192 ≤ n ∨ !t.running ∨ t.step = 90 then c
  else match c.abortCause n t with
    | none => c
    | some k => c.abortSlice n k

def execSelftestAbort (tile : Nat) (s : State) : Host.Outcome State Fault Refusal := s.on (selftestAbort tile)

/-- R328: the result word of a SELFTEST_RUN. -/
def testResult (fail : Bool) (step : Option Nat) (mask us : Nat) : Nat := b2n fail + step.getD 0xFF * 2 ^ 8 + mask % 2 ^ 16 * 2 ^ 16 + min us (2 ^ 32 - 1) * 2 ^ 32

/-- An explicit run moves past its head tile, and completes after its last. -/
def Chip.advanceRun (c : Chip) (n : Nat) (t : TileTest) (r : TileRun) : Chip :=
  let fail := t.firstFail
  let r := { r with tiles := r.tiles.tail, began := some (r.began.getD t.began), firstFail := match r.firstFail with
    | some f => some f
    | none => fail, failed := if fail.isSome then r.failed ||| 2 ^ (n % 16) else r.failed }
  if r.tiles.isEmpty then
    let us := (c.now - r.began.getD c.now) / 1000
    (c.updTest (fun s => { s with runs := s.runs.filter (fun q => q.packet != r.packet) })).finish r.packet stDone (testResult (r.failed != 0) r.firstFail (if r.group then r.failed else 0) us)
  else
    let c := c.updTest (fun s => { s with runs := s.runs.map (fun q => if q.packet = r.packet then r else q) })
    c.pressTile (r.tiles.headD 0)

/-- The tile of a slice that has ended has left it. -/
def Chip.sliceOver (c : Chip) (n : Nat) : Chip :=
  let c := c.updTest (fun s => { s with tests := AMap.del s.tests n, tested := nsInsert s.tested n })
  ((c.setFld (SAF_ST_TILE n) SAF_ST_TILE.STEP 0).setFld (SAF_ST_TILE n) SAF_ST_TILE.RUNNING 0).leaveSlice n

/-- A tile passed; an explicit pass lifts its fence. -/
def Chip.tilePassed (c : Chip) (n : Nat) (explicit : Bool) : Chip :=
  let c := ((c.setReg (SAF_ST_PASS n) c.now).setFld (SAF_ST_TILE n) SAF_ST_TILE.OVERDUE 0).count SAF_ST_PASSES SAF_ST_PASSES.COUNT 1
  if explicit then c.setFld (SAF_ST_TILE n) SAF_ST_TILE.FENCED 0 else c

/-- A tile failed at a step: it is fenced off, told and recorded, and its function groups enter their safe state. -/
def Chip.tileFailed (c : Chip) (n step : Nat) : Chip :=
  let c := (c.setFld (SAF_ST_TILE n) SAF_ST_TILE.FENCED 1).count SAF_ST_FAILS SAF_ST_FAILS.COUNT 1
  let c := c.event 0 0x0410 n 0 step 0
  let c := c.errorOpen 3 9 n
  c.enterSafeMask (c.fld (SAF_HEALTH (n / 16)) SAF_HEALTH.CARRIES) ssIsland

/-- The explicit runs at whose head a tile stands. -/
def Chip.runsAt (c : Chip) (n : Nat) : List TileRun := c.selfTest.runs.filter (fun r => r.tiles.head? == some n)

/-- R329: a slice is over. -/
def selftestSliceEnd (n : Nat) (c : Chip) : Chip :=
  let t := c.tileTest n
  if 192 ≤ n ∨ !t.running ∨ t.step < 90 then c
  else
    let runs := c.runsAt n
    let c := c.sliceOver n
    let c := match t.firstFail with
      | none => c.tilePassed n (!runs.isEmpty)
      | some f => c.tileFailed n f
    (runs.foldl (fun c r => c.advanceRun n t r) c).showQueued n

def execSelftestSliceEnd (tile : Nat) (s : State) : Host.Outcome State Fault Refusal := s.on (selftestSliceEnd tile)

/-! ### Checkers (R326, R329, R330) -/

/-- R329: a checker fails. -/
def Chip.checkerFail (c : Chip) (k step : Nat) : Chip :=
  let c := (c.setFld (SAF_ST_CHK k) SAF_ST_CHK.FAILED 1).count SAF_ST_FAILS SAF_ST_FAILS.COUNT 1
  let c := c.event 0 0x0410 (0x100 + k) 0 step 0
  (c.errorOpen 3 9 (0x100 + k)).enterSafeMask 0xF ssIsland

/-- Checker 0 is admitted only beside Weir's work. -/
def Chip.checkerFree (c : Chip) (k : Nat) : Bool :=
  k != 0 || (c.weir.isEmpty && !c.jobs.any (fun j => j.cls == 0 && j.holds) && (List.range 12).all (fun g => c.endsBefore g 200000))

/-- A checker's test is asked for, or due in the rotation, and admitted. -/
def Chip.checkDue (c : Chip) (k : Nat) : Bool :=
  (c.selfTest.checks.any (fun x => x.2 == k) || decide (AMap.getD c.selfTest.checkDue k 0 ≤ c.now)) && c.checkerFree k

/-- A checker's next test is one period on, and nobody waits for this one. -/
def Chip.checkTaken (c : Chip) (k : Nat) : Chip :=
  c.updTest (fun s => { s with checks := s.checks.filter (fun x => x.2 != k), checkDue := AMap.set s.checkDue k (c.now + c.reg SAF_ST_CHK_PERIOD * 1000000) })

/-- A checker passes. -/
def Chip.checkerPass (c : Chip) (k : Nat) : Chip :=
  (((c.setReg (SAF_ST_CHK_PASS k) c.now).setFld (SAF_ST_CHK k) SAF_ST_CHK.FAILED 0).setFld (SAF_ST_CHK k) SAF_ST_CHK.OVERDUE 0).count SAF_ST_PASSES SAF_ST_PASSES.COUNT 1

/-- A checker's test, due in the rotation or asked for: its outcome, first failing step, and duration. -/
def checkerTest (k : Nat) (pass : Bool) (step us : Nat) (c : Chip) : Chip :=
  if 7 ≤ k ∨ c.flag SAF_ISLAND_STATUS SAF_ISLAND_STATUS.HELD ∨ !c.checkDue k then c
  else
    let asked := c.selfTest.checks.filter (fun x => x.2 == k)
    let c := if pass then (c.checkTaken k).checkerPass k else (c.checkTaken k).checkerFail k step
    asked.foldl (fun c x => c.finish x.1 stDone (testResult (!pass) (if pass then none else some (step % 2 ^ 8)) 0 us)) c

def execCheckerTest (checker : Nat) (pass : Bool) (step us : Nat) (s : State) : Host.Outcome State Fault Refusal := s.on (checkerTest checker pass step us)

/-- A tile has gone without a pass for longer than the diagnostic period. -/
def Chip.tileOverdue (c : Chip) (i : Nat) : Bool :=
  !c.flag (SAF_ST_TILE i) SAF_ST_TILE.OVERDUE && decide (max (c.reg (SAF_ST_PASS i)) c.selfTest.since + c.reg SAF_ST_DIAG * 1000000 ≤ c.now)

/-- A checker has gone without a pass for three of its periods. -/
def Chip.checkOverdue (c : Chip) (k : Nat) : Bool :=
  !c.flag (SAF_ST_CHK k) SAF_ST_CHK.OVERDUE && decide (max (c.reg (SAF_ST_CHK_PASS k)) c.selfTest.since + 3 * c.reg SAF_ST_CHK_PERIOD * 1000000 ≤ c.now)

/-- An overdue checker is told and fails. -/
def Chip.checkLate (c : Chip) (k : Nat) : Chip :=
  let (x, c) := c.draw
  ((c.setFld (SAF_ST_CHK k) SAF_ST_CHK.OVERDUE 1).event 0 0x0412 (0x100 + k) 0 (c.reg (SAF_ST_CHK_PASS k)) 0).checkerFail k x.toNat

/-- R330: a tile (its number) or a checker (0x100 and its number) has gone without a pass. -/
def selftestOverdue (i : Nat) (c : Chip) : Chip :=
  if i < 192 then
    if c.tileOverdue i then (c.setFld (SAF_ST_TILE i) SAF_ST_TILE.OVERDUE 1).event 0 0x0412 i 0 (c.reg (SAF_ST_PASS i)) 0 else c
  else if 0x100 ≤ i ∧ i < 0x107 ∧ c.checkOverdue (i - 0x100) then c.checkLate (i - 0x100)
  else c

def execSelftestOverdue (index : Nat) (s : State) : Host.Outcome State Fault Refusal := s.on (selftestOverdue index)

/-! ### SELFTEST_RUN (R327, R328) -/

/-- A SELFTEST_RUN names no unit of its operation, sets a reserved field, or is URGENT where that is not accepted. -/
def Packet.testBad (p : Packet) : Bool :=
  let i := p.u 33 1
  let bad := match p.u 32 1 with
    | 0 => decide (192 ≤ i)
    | 1 => decide (12 ≤ i)
    | 2 => decide (7 ≤ i) || p.urgent
    | 3 => decide (i ≠ 0) || p.urgent
    | _ => true
  bad || p.u 34 2 != 0 || !zeroIn p.bytes 50 64

/-- One operation of SELFTEST_RUN; a reserved OP, a set reserved field, or URGENT where it is not accepted is BAD_PARAM. -/
def Chip.onSelftest (c : Chip) (id op : Nat) (f : Packet → Chip → Chip) : Chip :=
  c.onPacket id 0x501 (fun p c =>
    if p.testBad then c.finish p.id stBadParam
    else if p.u 32 1 = op then f p c else c)

/-- An explicit test of tiles; an URGENT one asks for the pre-emption of the jobs that hold its first tile. -/
def Chip.queueTiles (c : Chip) (p : Packet) (tiles : List Nat) (group : Bool) : Chip :=
  let c := c.updTest (fun s => { s with runs := s.runs ++ [{ packet := p.id, tiles := tiles, group := group, urgent := p.urgent }] })
  tiles.foldl Chip.showQueued ((c.pressTile (tiles.headD 0)).keepRunning p.id)

def selftestTile (id : Nat) (c : Chip) : Chip := c.onSelftest id 0 (fun p c => c.queueTiles p [p.u 33 1] false)
def execSelftestTile (packet : Nat) (s : State) : Host.Outcome State Fault Refusal := s.on (selftestTile packet)

def selftestGroup (id : Nat) (c : Chip) : Chip := c.onSelftest id 1 (fun p c => c.queueTiles p ((List.range 16).map (· + 16 * p.u 33 1)) true)
def execSelftestGroup (packet : Nat) (s : State) : Host.Outcome State Fault Refusal := s.on (selftestGroup packet)

def selftestChecker (id : Nat) (c : Chip) : Chip :=
  c.onSelftest id 2 (fun p c => (c.updTest (fun s => { s with checks := s.checks ++ [(p.id, p.u 33 1)] })).keepRunning p.id)
def execSelftestChecker (packet : Nat) (s : State) : Host.Outcome State Fault Refusal := s.on (selftestChecker packet)

/-- The periods of a SELFTEST_RUN of OP 3: tile period, checker period, diagnostic period, units; zero takes a default. -/
def Packet.testTimes (p : Packet) : Nat × Nat × Nat × Nat :=
  let t := if p.u 36 4 = 0 then 2000 else p.u 36 4
  (t, if p.u 40 4 = 0 then 1000 else p.u 40 4, if p.u 44 4 = 0 then 3 * t else p.u 44 4, if p.u 48 2 = 0 then 2 else p.u 48 2)

/-- They are legal. -/
def testTimesOk (x : Nat × Nat × Nat × Nat) : Bool :=
  decide (200 ≤ x.1) && decide (x.1 ≤ 60000) && decide (100 ≤ x.2.1) && decide (x.2.1 ≤ 60000) && decide (x.1 ≤ x.2.2.1) && decide (x.2.2.2 ≤ 16)

/-- OP 3: periods that take effect at the next period boundary. -/
def selftestSchedule (id : Nat) (c : Chip) : Chip :=
  c.onSelftest id 3 (fun p c =>
    if testTimesOk p.testTimes then (c.updTest (fun s => { s with next := some p.testTimes })).finish p.id stDone else c.finish p.id stBadParam)
def execSelftestSchedule (packet : Nat) (s : State) : Host.Outcome State Fault Refusal := s.on (selftestSchedule packet)

/-! ### The error ring (R332 to R336) -/

/-- A unit reports an error to the collector. -/
def execErrorRecord (severity cause source unit master slice world target addr detail : Nat) (s : State) : Host.Outcome State Fault Refusal :=
  s.on (fun c => c.error { severity := severity, cause := cause, source := source, unit := unit, master := master, slice := slice, world := world, target := target, addr := addr, detail := some detail })

/-- R336: a write of ERR_RING_CTRL. -/
def errRingEnable (tag v : Nat) (c : Chip) : Chip :=
  if tag ≠ 0 then c
  else if c.flag ERR_RING_CTRL ERR_RING_CTRL.ENABLE then if bitOf v 31 then c else c.setFld ERR_RING_CTRL ERR_RING_CTRL.ENABLE 0
  else
    let lg := v % 32
    let c := c.setFld ERR_RING_CTRL ERR_RING_CTRL.LOG2_SLOTS lg
    if !bitOf v 31 || decide (lg < 6) || decide (16 < lg) || !c.ownsPages 0 (c.fld ERR_RING_BASE ERR_RING_BASE.BASE * 4096) (32 * 2 ^ lg) then c
    else (c.setFld ERR_RING_CTRL ERR_RING_CTRL.ENABLE 1).errService

def execErrRingEnable (tag : Nat) (value : W32) (s : State) : Host.Outcome State Fault Refusal := s.on (errRingEnable tag value.toNat)

/-- R336: a write of ERR_RING_HEAD: backwards, or past the tail, it is ignored. -/
def errRingHeadWrite (tag v : Nat) (c : Chip) : Chip :=
  if tag ≠ 0 ∨ idxSub (c.reg ERR_RING_TAIL) (c.reg ERR_RING_HEAD) < idxSub v (c.reg ERR_RING_HEAD) then c
  else (c.setReg ERR_RING_HEAD v).errService

def execErrRingHeadWrite (tag : Nat) (value : W32) (s : State) : Host.Outcome State Fault Refusal := s.on (errRingHeadWrite tag value.toNat)

end Sys2Proof.Machine
end

