-- ==== Sys2Proof/Machine/Security.lean ====
section
/-!
DEFINITION. The security core: the GATE instruction, the mailbox, the gateway entries, signed images, attestation,
debug, and the cockpit-class watchdog (13 R337 to R360).
-/

namespace Sys2Proof.Machine

/-! ### Keys, images, identity (R350 to R352) -/

/-- SHA-384 as its 48 bytes. -/
def sha384Bytes (b : List Byte) : List Byte := leBytes 48 (Config.sha384 b).toNat

/-- The identity public key, x then y, and DEVICE_ID (R352). -/
def identityPub : List Byte := leBytes 96 Config.identityKey.toNat
def deviceId : List Byte := sha384Bytes identityPub

/-- R350: the owner key list, once its own signature verifies under a root key; else no key. -/
def Flash.trustedKeys (f : Flash) : List OwnerKey :=
  if (List.range 4).any (fun i => Config.sha384 f.listKey == Config.rootHash i) &&
      f.keys.length ≤ 8 && Config.verifyKeys (f.keys.map (fun k => (k.pub, k.role))) f.listKey f.listSig then f.keys
  else []

/-- A listed key with the role bit has this hash. -/
def Flash.hasKey (f : Flash) (hash : List Byte) (role : Nat) : Bool :=
  f.trustedKeys.any (fun k => bitOf k.role role && sha384Bytes k.pub == hash)

/-- The role bit that an image of a TYPE needs (R350). -/
def imageRole (type : Nat) : Nat := if type = 5 then 1 else 0

/-- R350: the first check a signed image fails: 1 key, 2 signature, 3 payload hash, 4 rollback (R359).  A header whose
MAGIC or TYPE is wrong has no key for it (DEDUCED, log 39). -/
def imageCheck (f : Flash) (rollback : AMap Nat) (type role : Nat) (img : List Byte) : Option Nat :=
  let pub := (img.drop 16).take 96
  if bytesU img 0 4 ≠ 0x494D4746 ∨ bytesU img 4 1 ≠ type ∨ f.hasKey (sha384Bytes pub) role = false then some 1
  else if Config.verify pub (img.take 160) ((img.drop 160).take 96) = false then some 2
  else if sha384Bytes ((img.drop 256).take (bytesU img 12 4)) ≠ (img.drop 112).take 48 then some 3
  else if bytesU img 8 4 < AMap.getD rollback type 0 then some 4
  else none

/-- R351: the measurement of an image. -/
def measurement (img : List Byte) : List Byte := sha384Bytes (img.take 160)

/-- R351: a check of a warm start: an image whose measurement stands in its slot needs its payload hash only. -/
def imageCheckWarm (f : Flash) (sec : Sec) (type : Nat) (img : List Byte) : Option Nat :=
  if AMap.get? sec.meas type = some (measurement img) then
    if sha384Bytes ((img.drop 256).take (bytesU img 12 4)) ≠ (img.drop 112).take 48 then some 3 else none
  else imageCheck f sec.rollback type (imageRole type) img

/-! ### The security core's registers and records -/

/-- SEC_DEBUG and SEC_MBOX_BUSY show the security core's state (R360). -/
def Part.showSec (p : Part) : Part :=
  let c := p.chip.setFld SEC_DEBUG SEC_DEBUG.ENABLES p.sec.enables.toNat
  let c := c.setFld SEC_DEBUG SEC_DEBUG.EVER p.sec.ever.toNat
  let c := c.setFld SEC_DEBUG SEC_DEBUG.SCOPE p.sec.scope.toNat
  let busy := (p.sec.waiting ++ p.sec.running.toList).foldl (fun m q => m ||| 2 ^ q.hart) 0
  { p with chip := c.setReg SEC_MBOX_BUSY busy }

/-- An error record of source 10 that names its caller (R359). -/
def Chip.secRecord (c : Chip) (severity cause master tag addr : Nat) (detail : Option Nat) : Chip :=
  c.error { severity := severity, cause := cause, source := 10, master := master, slice := tag, addr := addr, detail := detail }

/-- The master ID of a hart (R33). -/
def hartMaster (hart : Nat) : Nat := if hart < 16 then hart else 0x50 + (hart - 16)

/-! ### GATE (R338, R339) -/

/-- The privilege mode that a command names. -/
def modeOf (m : Nat) : Mode := match m with | 0 => .m | 1 => .hs | 2 => .vs | 3 => .u | _ => .vu

/-- The bit of MODES for a mode (R343). -/
def Mode.gateBit : Mode → Nat
  | .m => 0
  | .hs => 1
  | .vs => 2
  | .u => 3
  | .vu => 3

/-- The exception of a mode outside MODES (R339). -/
def Mode.gateTrap : Mode → Nat
  | .vs => 2
  | .vu => 2
  | _ => 1

/-- Table — Fenyro gateway entries. -/
def fenyroEntries : List GateEntry := [
  { entry := 0x0010, cls := 0, modes := 0b0011, callers := 0b101, pin := 16, pout := 0 },
  { entry := 0x0011, cls := 0, modes := 0b0011, callers := 0b101, pin := 8, pout := 8 },
  { entry := 0x0012, cls := 0, modes := 0b0011, callers := 0b001, pin := 8, pout := 0 },
  { entry := 0x0020, cls := 0, modes := 0b0111, callers := 0b111, pin := 40, pout := 0 },
  { entry := 0x0021, cls := 0, modes := 0b1111, callers := 0b111, pin := 8, pout := 64 },
  { entry := 0x0030, cls := 0, modes := 0b0011, callers := 0b001, pin := 0, pout := 32 },
  { entry := 0x0031, cls := 0, modes := 0b0011, callers := 0b001, pin := 16, pout := 0 },
  { entry := 0x0032, cls := 0, modes := 0b0011, callers := 0b001, pin := 8, pout := 0 },
  { entry := 0x0040, cls := 1, modes := 0b0011, callers := 0b101, pin := 8 * Config.gateIn 0x40, pout := 8 * Config.gateOut 0x40 },
  { entry := 0x0050, cls := 2, modes := 0b0111, callers := 0b011, pin := 8 * Config.gateIn 0x50, pout := 8 * Config.gateOut 0x50 },
  { entry := 0x0051, cls := 2, modes := 0b0111, callers := 0b011, pin := 8 * Config.gateIn 0x51, pout := 8 * Config.gateOut 0x51 },
  { entry := 0x0052, cls := 2, modes := 0b0111, callers := 0b011, pin := 8 * Config.gateIn 0x52, pout := 8 * Config.gateOut 0x52 }]

/-- The entry in force: those of the integrator's firmware first, else Fenyro's. -/
def Sec.entry? (s : Sec) (e : Nat) : Option GateEntry := (s.entries ++ fenyroEntries).find? (fun g => g.entry == e)

/-- The encoding of a GATE (R338). -/
def gateWord (entry rd : Nat) : Nat := entry % 2 ^ 16 * 2 ^ 16 + rd % 32 * 2 ^ 7 + 0x0B

/-- R339: the exception of a GATE that is no call: xtval holds the encoding. -/
def Chip.gateTrap (c : Chip) (hart kind word : Nat) : Chip :=
  { c.trap hart kind with hartTval := AMap.set c.hartTval hart word }

/-- R339: the notice of a GATE fault, with the address of the parameter block. -/
def Chip.gateNotice (c : Chip) (hart word cause block : Nat) : Chip :=
  (c.secRecord 0 cause (hartMaster hart) (c.hartTag hart) (block % 2 ^ 48) (if cause = 1 then some (bitsOf word 31 16) else none)).count SEC_GATE_FAULTS SEC_GATE_FAULTS.COUNT 1

/-- R339: why a GATE faults: the cause of its record and the exception. -/
def Sec.gateFault? (s : Sec) (mode : Mode) (entry : Nat) : Option (Nat × Nat) :=
  match s.entry? entry with
  | none => some (1, 1)
  | some g => if bitOf g.modes mode.gateBit then none else some (2, mode.gateTrap)

/-- R338, R339: a GATE that names no entry the mode may call, x10 left open.  Another FUNCT raises an exception alone. -/
def gateFault (hart mode : Nat) (word : W32) (p : Part) : Part :=
  let w := word.toNat
  if 20 ≤ hart ∨ bitsOf w 6 0 ≠ 0x0B then p
  else if bitsOf w 15 12 ≠ 0 then { p with chip := p.chip.gateTrap hart 1 w }
  else match p.sec.gateFault? (modeOf mode) (bitsOf w 31 16) with
    | none => p
    | some (cause, kind) =>
      let (block, c) := p.chip.draw
      { p with chip := (c.gateTrap hart kind w).gateNotice hart w cause block.toNat }

def execGateFault (hart mode : Nat) (word : W32) (s : State) : Host.Outcome State Fault Refusal := s.onPart (gateFault hart mode word)

/-! ### The mailbox (R340 to R342) -/

/-- The status of a call written to RD (R338); x0 takes nothing.  RD 32 + m stands for the status of mailbox m (R436). -/
def Part.gateStatus (p : Part) (hart rd st : Nat) : Part :=
  if 32 ≤ rd then { p with chip := p.chip.mailboxReply (rd - 32) st 0 }
  else if rd % 32 = 0 then p else { p with chip := { p.chip with hartRd := AMap.set p.chip.hartRd hart (rd % 32, st) } }

/-- R343: the caller is among CALLERS. -/
def callerAdmitted (g : GateEntry) (hart tag : Nat) : Bool :=
  if hart < 16 then (bitOf g.callers 0 && tag == 0) || bitOf g.callers 1 else bitOf g.callers 2

/-- R340 step 3: the first check that fails. -/
def gateCheck (g : GateEntry) (hart tag block len : Nat) : Option Nat :=
  if callerAdmitted g hart tag = false then some stAccessDenied
  else if block % 8 ≠ 0 then some stBadParam
  else if len % 8 ≠ 0 ∨ 256 < len ∨ len < max g.pin g.pout then some stBadSize
  else none

/-- The reply of a request: a record where its parameter access was denied, and RD unless the hart was reset. -/
def Part.gateReply (p : Part) (q : GateReq) (st : Nat) : Part :=
  if q.dropped then p else p.gateStatus q.hart q.rd st

/-- A denied access of a caller's memory (R359 cause PARAM_ACCESS). -/
def Part.paramDenied (p : Part) (q : GateReq) (addr : Nat) : Part :=
  { p with chip := p.chip.secRecord 0 3 (hartMaster q.hart) q.tag addr none }

/-- Status of a failed read or write under the caller's identity (R340). -/
def servedGate (p : Part) (q : GateReq) (addr : Nat) (r : Served) : Nat × Part :=
  match r with
  | .ok => (stDone, p)
  | .denied => (stAccessDenied, p.paramDenied q addr)
  | .uncorrectable => (stUncorrectable, p)

/-- R340 steps 6 and 7: PARAM_OUT bytes written back, then the status. -/
def Part.gateDone (p : Part) (q : GateReq) (copy : List Byte) (st : Nat) : Part :=
  match p.sec.entry? q.entry with
  | none => p.gateReply q st
  | some g =>
    let (r, _, c) := p.chip.saveRange (hartMaster q.hart) q.tag q.block (copy.take g.pout)
    let (fail, p) := servedGate { p with chip := c } q q.block r
    p.gateReply q (if fail = stDone then st else fail)

/-- What an entry does: it ends with a status and its copy of the block, or it goes on. -/
inductive GateEnd where
  | done (status : Nat) (copy : List Byte)
  | runs
  deriving DecidableEq, Repr

/-- A claim taken by the security core (R345). -/
def Chip.claim (c : Chip) (bit : Nat) : Chip :=
  { c with power := { c.power with claims := AMap.set c.power.claims bit c.now } }.setFld SEC_CLAIM SEC_CLAIM.CLAIM (c.fld SEC_CLAIM SEC_CLAIM.CLAIM ||| 2 ^ bit)

/-! ### The entries (R344) -/

/-- Table — PAGE_OWNER_SET parameters: FIRST, COUNT, EXPECT, NEW, INVALIDATE, and whether reserved bits are zero. -/
def ownerArgs (b : List Byte) : Nat × Nat × Nat × Nat × Bool × Bool :=
  (bytesU b 0 4 % 2 ^ 21, bytesU b 4 4 % 2 ^ 17, bytesU b 8 1, bytesU b 9 1, bitOf (bytesU b 10 1) 0,
    bytesU b 0 4 < 2 ^ 21 && bytesU b 4 4 < 2 ^ 17 && bytesU b 10 2 < 2 && zeroIn b 12 16)

/-- R44 to R46: the checks; a range with requests in flight is waited for. -/
def entryOwnerSet (_q : GateReq) (b : List Byte) (p : Part) : GateEnd × Part :=
  let (first, n, expect, new, inv, ok) := ownerArgs b
  let st := if ok then p.chip.ownerSetStatus first n expect new else stBadParam
  if st ≠ stDone then (.done st b, p)
  else if p.chip.dramBusy first n then (.runs, p)
  else (.done stDone b, { p with chip := p.chip.giveOwners first n new inv })

/-- The 8-bit owner in byte 4, the other 7 bytes zero. -/
def entryOwnerQuery (_q : GateReq) (b : List Byte) (p : Part) : GateEnd × Part :=
  if zeroIn b 4 8 then (.done stDone (leBytes 4 0 ++ leBytes 1 (p.chip.owner (bytesU b 0 4)) ++ leBytes 3 0), p)
  else (.done stBadParam b, p)

/-- R344, R345: the counter write runs under the claim of the boot flash controller. -/
def entryRollback (_q : GateReq) (b : List Byte) (p : Part) : GateEnd × Part :=
  if zeroIn b 1 8 && bytesU b 0 1 ≤ 5 then (.runs, { p with chip := p.chip.claim 6 }) else (.done stBadParam b, p)

/-- Bytes 0 to 575 of an attestation report (R353). -/
def Part.report (p : Part) (nonce : List Byte) : List Byte :=
  let c := p.chip
  let flags := b2n (c.flag SEC_STATUS SEC_STATUS.WARM) + p.sec.ever.toNat * 2 +
    b2n (c.flag SAF_ISLAND_STATUS SAF_ISLAND_STATUS.LOCKSTEP_BROKEN) * 2 ^ 5 + b2n (c.flag SAF_ISLAND_STATUS SAF_ISLAND_STATUS.SPLIT) * 2 ^ 6 +
    b2n (bitOf (bytesU c.power.profile 7 1) 1) * 2 ^ 7 + b2n (c.flag LNK_DOMAIN_STATUS LNK_DOMAIN_STATUS.DIVERGENT) * 2 ^ 8 +
    b2n (c.flag SEC_STATUS SEC_STATUS.COCKPIT_WITHDRAWN) * 2 ^ 9
  leBytes 4 0x41545354 ++ leBytes 2 1 ++ leBytes 2 flags ++ leBytes 8 (c.reg AON_START_COUNT) ++ leBytes 8 c.now ++
  leBytes 1 (c.fld NET_TIME_STATUS NET_TIME_STATUS.QUALITY) ++ leBytes 1 (c.twinId % 2) ++
  leBytes 1 (c.fld AON_PROFILE AON_PROFILE.CURRENT) ++ leBytes 5 0 ++ nonce ++ deviceId ++
  (List.range 6).flatMap (fun i => AMap.getD p.sec.meas i (leBytes 48 0)) ++
  (List.range 6).flatMap (fun k => leBytes 8 (c.reg (LNK_DOMAIN_DIGEST k))) ++ leBytes 8 (c.reg LNK_DOMAIN_EPOCH) ++
  leBytes 24 0 ++ identityPub

/-- R353: the report and its signature, a fresh draw deciding the latter. -/
def Part.signedReport (p : Part) (nonce : List Byte) : List Byte × Part :=
  let r := p.report nonce
  (r ++ leBytes 96 (Config.sign p.chip.free r).toNat, { p with chip := { p.chip with free := p.chip.free + 1 } })

/-- R353: the report written to the output buffer with the caller's identity. -/
def entryAttest (q : GateReq) (b : List Byte) (p : Part) : GateEnd × Part :=
  let (r, p) := p.signedReport (b.take 32)
  let (o, _, c) := p.chip.saveRange (hartMaster q.hart) q.tag (bytesU b 32 8) r
  let (st, p) := servedGate { p with chip := c } q (bytesU b 32 8) o
  (.done st b, p)

/-- `count` random bytes, the rest of 64 zero. -/
def entryRandom (_q : GateReq) (b : List Byte) (p : Part) : GateEnd × Part :=
  let n := bytesU b 0 1
  if n = 0 ∨ 64 < n ∨ zeroIn b 1 8 = false then (.done stBadParam b, p)
  else
    let (r, c) := p.chip.drawBytes n
    (.done stDone (r ++ leBytes (64 - n) 0), { p with chip := c })

/-- R355: a new challenge cancels any earlier one. -/
def entryChallenge (_q : GateReq) (_b : List Byte) (p : Part) : GateEnd × Part :=
  let (r, c) := p.chip.drawBytes 32
  (.done stDone r, { p with chip := c, sec := { p.sec with challenge := some (r, c.now) } })

/-- The outstanding challenge: one issued less than 60 s ago (R355). -/
def Sec.openChallenge (s : Sec) (now : Nat) : Option (List Byte × Nat) :=
  match s.challenge with
  | some (b, t) => if t + 60000000000 ≤ now then none else some (b, t)
  | none => none

/-- R355: the first check a debug certificate fails, numbered from 1. -/
def certCheck (f : Flash) (challenge : Option (List Byte × Nat)) (d : List Byte) : Option Nat :=
  let en := bytesU d 6 1 % 16
  let sc := bytesU d 8 4 % 64
  let pub := (d.drop 144).take 96
  let signer := (d.drop 96).take 48
  let w1 := bitOf en 2 || bitOf en 3
  if bytesU d 0 4 ≠ 0x44424743 ∨ bytesU d 4 2 ≠ 1 then some 1
  else if (d.drop 16).take 48 ≠ deviceId then some 2
  else if challenge.map (·.1) ≠ some ((d.drop 64).take 32) then some 3
  else if sha384Bytes pub ≠ signer ∨ f.hasKey signer 2 = false then some 4
  else if Config.verify pub (d.take 240) ((d.drop 240).take 96) = false then some 5
  else if bitOf sc 4 ≠ w1 then some 6
  else none

/-- R355, R356: debug opens. -/
def Part.openDebug (p : Part) (q : GateReq) (addr en sc : Nat) : Part :=
  let s := { p.sec with enables := p.sec.enables ||| BitVec.ofNat 4 en, ever := p.sec.ever ||| BitVec.ofNat 4 en, scope := p.sec.scope ||| BitVec.ofNat 6 sc }
  let c := p.chip.secRecord 0 5 (hartMaster q.hart) q.tag addr (some (en % 16 + sc % 64 * 2 ^ 8))
  let c := if bitOf en 1 && bitOf sc 2 then c.breakLockstep else c
  Part.showSec { p with chip := c, sec := s }

/-- R355: a certificate judged; the challenge is used up whatever the outcome. -/
def entryDebugOpen (q : GateReq) (b : List Byte) (p : Part) : GateEnd × Part :=
  if zeroIn b 12 16 = false then (.done stBadParam b, { p with sec := { p.sec with challenge := none } })
  else
    let a := bytesU b 0 8
    let (o, d, c) := p.chip.loadRange (hartMaster q.hart) q.tag a (min (bytesU b 8 4) 336)
    let challenge := p.sec.openChallenge p.chip.now
    let p : Part := { p with chip := c, sec := { p.sec with challenge := none } }
    if o ≠ .ok then
      let (st, p) := servedGate p q a o
      (.done st b, p)
    else match certCheck c.flash challenge d with
      | some k => (.done stBadParam b, { p with chip := p.chip.secRecord 0 4 (hartMaster q.hart) q.tag a k })
      | none => (.done stDone b, p.openDebug q a (bytesU d 6 1 % 16) (bytesU d 8 4 % 64))

/-- The units that stay open with these enables (DEDUCED, log 40). -/
def scopeLeft (scope : BitVec 6) (en : BitVec 4) : BitVec 6 :=
  scope &&& ((if en &&& 0b0011#4 = 0#4 then 0b010000#6 else 0b111111#6) &&& (if en &&& 0b1100#4 = 0#4 then 0b101111#6 else 0b111111#6))

/-- R356: the named enables are cleared; EVER stands. -/
def entryDebugClose (_q : GateReq) (b : List Byte) (p : Part) : GateEnd × Part :=
  if 16 ≤ bytesU b 0 1 ∨ zeroIn b 1 8 = false then (.done stBadParam b, p)
  else
    let en := p.sec.enables &&& ~~~ BitVec.ofNat 4 (bytesU b 0 1)
    (.done stDone b, Part.showSec { p with sec := { p.sec with enables := en, scope := scopeLeft p.sec.scope en } })

/-- R344, R345: a key for MACsec or CAN, installed under the claim of its block; CANsec is on controllers 0 to 3. -/
def entryNetKey (_q : GateReq) (b : List Byte) (p : Part) : GateEnd × Part :=
  match Config.netKeyCan b with
  | none => (.runs, { p with chip := p.chip.claim 4 })
  | some n => if 4 ≤ n then (.done stBadParam b, p) else (.runs, { p with chip := p.chip.claim 5 })

/-- R344: a media content key, unwrapped to a key slot of the display path. -/
def entryContent (_q : GateReq) (b : List Byte) (p : Part) : GateEnd × Part :=
  match Config.contentUnwrap b with
  | some (slot, key) => (.done stDone b, { p with sec := { p.sec with contentKeys := AMap.set p.sec.contentKeys slot key } })
  | none =>
    let (st, c) := p.chip.draw
    (.done (st.toNat % 2 ^ 16) b, { p with chip := c })

/-- R344: a vault record of up to 192 bytes. -/
def entryVaultRead (_q : GateReq) (b : List Byte) (p : Part) : GateEnd × Part :=
  (.done stDone (Config.vaultOut b (AMap.getD p.sec.vault (Config.vaultRecord b) [])), p)

def entryVaultWrite (_q : GateReq) (b : List Byte) (p : Part) : GateEnd × Part :=
  (.done stDone b, { p with sec := { p.sec with vault := AMap.set p.sec.vault (Config.vaultRecord b) ((Config.vaultIn b).take 192) } })

/-- The entry of a number; the integrator's own do what its firmware does, which leaves the part as it is and gives a
free status (log 38). -/
def gateEntry (q : GateReq) (b : List Byte) (p : Part) : GateEnd × Part :=
  match q.entry with
  | 0x0010 => entryOwnerSet q b p
  | 0x0011 => entryOwnerQuery q b p
  | 0x0012 => entryRollback q b p
  | 0x0020 => entryAttest q b p
  | 0x0021 => entryRandom q b p
  | 0x0030 => entryChallenge q b p
  | 0x0031 => entryDebugOpen q b p
  | 0x0032 => entryDebugClose q b p
  | 0x0040 => entryNetKey q b p
  | 0x0050 => entryContent q b p
  | 0x0051 => entryVaultRead q b p
  | 0x0052 => entryVaultWrite q b p
  | _ =>
    let (st, c) := p.chip.draw
    (.done (st.toNat % 2 ^ 16) b, { p with chip := c })

/-- The copy of a request's block, with room for PARAM_OUT. -/
def GateEntry.copyOf (g : GateEntry) (b : List Byte) : List Byte := b ++ List.replicate (g.pout - g.pin) 0

/-- An entry has ended, or it goes on and the security core with it. -/
def GateReq.ended (q : GateReq) (b : List Byte) (r : GateEnd × Part) : Part :=
  match r with
  | (.done st copy, p) => p.gateDone q copy st
  | (.runs, p) => { p with sec := { p.sec with running := some { q with copy := b } } }

/-- A request taken: its block read, its entry run, its reply written (R340 steps 4 to 7, R344). -/
def Part.gateTake (p : Part) (q : GateReq) : Part :=
  let p : Part := { p with chip := p.chip.count SEC_GATE_CALLS SEC_GATE_CALLS.COUNT 1 }
  match p.sec.entry? q.entry with
  | none => p
  | some g =>
    let (o, b, c) := p.chip.loadRange (hartMaster q.hart) q.tag q.block g.pin
    let p : Part := { p with chip := c }
    if o ≠ .ok then
      let (st, p) := servedGate p q q.block o
      p.gateReply q st
    else if g.cls = 2 ∧ p.chip.flag SEC_STATUS SEC_STATUS.COCKPIT_WITHDRAWN = true then p.gateReply q stServiceUnavailable
    else q.ended (g.copyOf b) (gateEntry q (g.copyOf b) p)

/-- R342: which waiting request is next: vehicle, platform, cockpit, and by arrival within a class. -/
def gateNext (w : List GateReq) : Option GateReq :=
  ((w.find? (fun q => q.cls == 1)).or (w.find? (fun q => q.cls == 0))).or w.head?

/-- R342: the security core takes requests one at a time, as long as none of them goes on. -/
def Part.gateServe : Nat → Part → Part
  | 0, p => p
  | n + 1, p =>
    if p.sec.running.isSome then p
    else match gateNext p.sec.waiting with
      | none => p
      | some q => Part.gateServe n (Part.gateTake { p with sec := { p.sec with waiting := p.sec.waiting.filter (fun r => r.hart != q.hart) } } q)

/-- The mailbox has 20 slots, one for each hart. -/
def Part.gateRun (p : Part) : Part := (Part.gateServe 20 p).showSec

/-- The request that runs ends. -/
def Part.gateFinish (p : Part) (st : Nat) : Part :=
  match p.sec.running with
  | none => p
  | some q => (Part.gateDone { p with sec := { p.sec with running := none } } q q.copy st).gateRun

/-- The request of a call of an entry. -/
def Part.gateReq (p : Part) (g : GateEntry) (entry hart rd block len : Nat) : GateReq :=
  { hart := hart, entry := entry, rd := rd, block := block, len := len, tag := p.chip.hartTag hart, cls := g.cls }

/-- R339, R341: the call of an entry raises no exception and passes the checks of R340, and the hart has no request in
the mailbox. -/
def Part.gateOpens (p : Part) (g : GateEntry) (entry hart mode block len : Nat) : Bool :=
  decide (hart < 20) && (p.sec.gateFault? (modeOf mode) entry).isNone && p.sec.entry? entry == some g &&
    ((p.sec.waiting ++ p.sec.running.toList).find? (fun q => q.hart == hart)).isNone && (gateCheck g hart (p.chip.hartTag hart) block len).isNone

/-- R339 to R342: a GATE of an entry by a hart in a mode, RD, x10 and x11 given. -/
def gateCall (entry hart mode rd block len : Nat) (p : Part) : Part :=
  if 20 ≤ hart then p
  else match p.sec.gateFault? (modeOf mode) entry, p.sec.entry? entry with
    | some (cause, kind), _ =>
      { p with chip := (p.chip.gateTrap hart kind (gateWord entry rd)).gateNotice hart (gateWord entry rd) cause block }
    | none, none => p
    | none, some g =>
      match (p.sec.waiting ++ p.sec.running.toList).find? (fun q => q.hart == hart) with
      | some q => if q.entry = entry ∧ q.block = block then p else p.gateStatus hart rd stNoResource
      | none =>
        match gateCheck g hart (p.chip.hartTag hart) block len with
        | some st => p.gateStatus hart rd st
        | none => Part.gateRun { p with sec := { p.sec with waiting := p.sec.waiting ++ [p.gateReq g entry hart rd block len] } }

def execPageOwnerSet (hart mode rd block len : Nat) (s : State) : Host.Outcome State Fault Refusal := s.onPart (gateCall 0x0010 hart mode rd block len)
def execPageOwnerQuery (hart mode rd block len : Nat) (s : State) : Host.Outcome State Fault Refusal := s.onPart (gateCall 0x0011 hart mode rd block len)
def execRollbackCommit (hart mode rd block len : Nat) (s : State) : Host.Outcome State Fault Refusal := s.onPart (gateCall 0x0012 hart mode rd block len)
def execGateAttest (hart mode rd block len : Nat) (s : State) : Host.Outcome State Fault Refusal := s.onPart (gateCall 0x0020 hart mode rd block len)
def execGateRandom (hart mode rd block len : Nat) (s : State) : Host.Outcome State Fault Refusal := s.onPart (gateCall 0x0021 hart mode rd block len)
def execDebugChallenge (hart mode rd block len : Nat) (s : State) : Host.Outcome State Fault Refusal := s.onPart (gateCall 0x0030 hart mode rd block len)
def execDebugOpen (hart mode rd block len : Nat) (s : State) : Host.Outcome State Fault Refusal := s.onPart (gateCall 0x0031 hart mode rd block len)
def execDebugClose (hart mode rd block len : Nat) (s : State) : Host.Outcome State Fault Refusal := s.onPart (gateCall 0x0032 hart mode rd block len)
def execNetkeyLoad (hart mode rd block len : Nat) (s : State) : Host.Outcome State Fault Refusal := s.onPart (gateCall 0x0040 hart mode rd block len)
def execContentUnwrap (hart mode rd block len : Nat) (s : State) : Host.Outcome State Fault Refusal := s.onPart (gateCall 0x0050 hart mode rd block len)
def execVaultRead (hart mode rd block len : Nat) (s : State) : Host.Outcome State Fault Refusal := s.onPart (gateCall 0x0051 hart mode rd block len)
def execVaultWrite (hart mode rd block len : Nat) (s : State) : Host.Outcome State Fault Refusal := s.onPart (gateCall 0x0052 hart mode rd block len)

/-- R355: a challenge lapses 60 s of device time after issue. -/
def challengeLapse (p : Part) : Part :=
  match p.sec.challenge with
  | some (_, t) => if t + 60000000000 ≤ p.chip.now then { p with sec := { p.sec with challenge := none } } else p
  | none => p

def execChallengeLapse (s : State) : Host.Outcome State Fault Refusal := s.onPart challengeLapse

/-- R357, R358: the cockpit-class services are withdrawn: their keys zeroised, the flag set, a record written. -/
def wdtCockpitExpiry (p : Part) : Part :=
  if p.chip.flag SEC_STATUS SEC_STATUS.COCKPIT_WITHDRAWN then p
  else { chip := (p.chip.setFld SEC_STATUS SEC_STATUS.COCKPIT_WITHDRAWN 1).secRecord 2 8 0xFF 0 0 none, sec := { p.sec with contentKeys := [] } }

def execWdtCockpitExpiry (s : State) : Host.Outcome State Fault Refusal := s.onPart wdtCockpitExpiry

/-! ### The security core repairs the page-owner table (R375) -/

/-- A page whose owner entry is found uncorrectable counts as owner 0x00, with a record. -/
def Chip.ownerLost (c : Chip) (page : Nat) : Chip :=
  if c.badOwners.contains page then c
  else
    let c := { c with badOwners := nsInsert c.badOwners page }.count (MEM_LB 224) MEM_LB.UNCORRECTED 1
    (c.setOwner 0 page).error { severity := 2, cause := 6, source := 1, unit := 224, addr := page * pageSize }

/-- The security core rewrites a lost owner entry: 0x00 inside its carve-out, else 0xFF with the valid bit cleared. -/
def Chip.ownerFixed (c : Chip) (page : Nat) : Chip :=
  let c := { c with badOwners := c.badOwners.filter (· != page) }
  if c.carveOut.1 ≤ page ∧ page < c.carveOut.1 + c.carveOut.2 then c.setOwner 0 page else c.giveOwners page 1 0xFF true

/-- R375: an owner entry is lost; the security core rewrites it once the requests that passed their lookup are over. -/
def ownerEntryRepair (page : Nat) (c : Chip) : Chip :=
  if c.capacity ≤ page * pageSize then c
  else if (c.ownerLost page).dramBusy page 1 then c.ownerLost page
  else (c.ownerLost page).ownerFixed page

def execOwnerEntryRepair (page : Nat) (s : State) : Host.Outcome State Fault Refusal := s.on (ownerEntryRepair page)

end Sys2Proof.Machine
end

