-- ==== Sys2Proof/Machine/Functions.lean ====
section
/-!
DEFINITION. Disabling and enabling functions, their drains, and the destruction of a slice (02 R52 to R56); the page-owner
changes that wait for requests in flight (R46).
-/

namespace Sys2Proof.Machine

/-! ### What is in flight (R53) -/

/-- A started packet that has not been answered. -/
def Packet.inFlight (p : Packet) : Bool := p.phase != .fetched

/-- The packet's outcome does not stand yet. -/
def Packet.open? (p : Packet) : Bool := match p.phase with
  | .done _ _ _ => false
  | _ => true

/-- The packet belongs to a function of the mask; SLICE_DESTROY and FUNCTION_DISABLE packets that drain are not drained. -/
def Chip.drains? (c : Chip) (p : Packet) (s mask : Nat) : Bool :=
  p.slice == s && functionBits p &&& mask != 0 && !c.drains.any (fun d => d.packet == p.id || d.joined.contains p.id) &&
    !c.destroys.any (fun d => d.packet == p.id || d.joined.contains p.id)

/-- A stream of the slice is between two frame boundaries. -/
def FuseStream.busyFrame (x : FuseStream) : Bool := x.frames.any (fun f => !f.ended && !f.cut)

/-- The work of a packet belongs to the mask: the function's own bit, or bit 5 where the packet stands on a ring (R52, R53). -/
def Chip.named (c : Chip) (mask bit id : Nat) : Bool := bitOf mask bit || (bitOf mask 5 && (c.packet? id).isSome)

/-- Jobs and passes of the slice that the mask names. -/
def Chip.maskJobs (c : Chip) (s mask : Nat) : List Job := c.jobs.filter (fun j => j.slice == s && !j.isGolden && c.named mask 0 j.id)
def Chip.maskPasses (c : Chip) (s mask : Nat) : List Pass := c.gfx.passes.filter (fun x => x.slice == s && c.named mask 2 x.id)

/-- The acoustic loop engine runs for the slice, its function named by the mask. -/
def Chip.aleRunning (c : Chip) (s mask : Nat) : Bool :=
  bitOf mask 3 && c.aleSlice == s && c.fld ALE_STATUS ALE_STATUS.STATE == 1

/-- Something of the functions is in flight. -/
def Chip.flying (c : Chip) (s mask : Nat) : Bool :=
  c.aleRunning s mask ||
  c.packets.any (fun p => c.drains? p s mask && p.inFlight) ||
  !(c.maskJobs s mask).isEmpty || !(c.maskPasses s mask).isEmpty ||
  (bitOf mask 1 && c.cfl.streams.any (fun x => x.2.slice == s && x.2.busyFrame))

/-- R189: no registry entry is left of a MODEL_REGISTER that fails while its load runs. -/
def Chip.unregister (c : Chip) (id : Nat) : Chip :=
  if (c.packet? id).any (fun p => p.op == 0x200) then
    (c.models.filter (fun m => m.2.loadFor.contains id)).foldl (fun (c : Chip) m => { c with models := AMap.del c.models m.1 }.mcRegs m.2.slice) c
  else c

/-- One packet in flight aborted. -/
def Chip.abortPacket (c : Chip) (id status : Nat) : Chip :=
  let c := ((c.withdraw (.copy id)).giveBack (.copy id)).unregister id
  { c with models := c.models.map (fun (m : Nat × Model) => (m.1, { m.2 with loadFor := m.2.loadFor.filter (· != id) })), selfTest := { c.selfTest with runs := c.selfTest.runs.filter (fun r => r.packet != id) } }.finish id status

/-- R53 steps 3 and 4: work in flight aborted with a status, its tiles and grants given back, and how many items that
were. -/
def Chip.abortFlying (c : Chip) (s mask status : Nat) : Nat × Chip :=
  let js := c.maskJobs s mask
  let xs := c.maskPasses s mask
  let c := js.foldl (fun c j => c.abortJob j status) c
  let c := xs.foldl (fun c x => c.endPass x status 0 0) c
  let fs := if bitOf mask 1 then c.cfl.streams.filter (fun x => x.2.slice == s && x.2.busyFrame) else []
  let c := fs.foldl (fun c x => c.updStream x.1 (fun y => { y with frames := y.frames.filter (fun f => f.ended || f.cut) })) c
  let ps := c.packets.filter (fun p => c.drains? p s mask && p.inFlight && p.open?)
  let c := ps.foldl (fun c p => c.abortPacket p.id status) c
  let a := c.aleRunning s mask
  (js.length + xs.length + fs.length + ps.length + b2n a, if a then c.aleStop 2 else c)

/-! ### SLICE_CREATE (R30 to R32, R44) -/

/-- The calls of PAGE_OWNER_SET that cover an extent: at most 65,536 pages each, in ascending page order (R56). -/
def ownerCalls (e : Nat × Nat) : List (Nat × Nat) :=
  (List.range ((e.2 + 65535) / 65536)).map (fun i => (e.1 + i * 65536, min 65536 (e.2 - i * 65536)))

/-- R44, R46, R342: the control firmware's calls of gateway entry 0x0010 for the extents can be taken and run through: no
other entry runs, and no request in flight holds their pages. -/
def Part.ownersFree (p : Part) (l : List (Nat × Nat)) : Bool :=
  p.sec.running.isNone && l.all (fun e => !p.chip.dramBusy e.1 e.2)

/-- The calls counted by the mailbox. -/
def Chip.ownerCalled (c : Chip) (n : Nat) : Chip := c.count SEC_GATE_CALLS SEC_GATE_CALLS.COUNT n

/-- R30 to R32, R44: a SLICE_CREATE packet: the checks, then the calls of PAGE_OWNER_SET for its extents, which wait for the
mailbox and for requests in flight, and the slice. -/
def sliceCreate (id : Nat) (p : Part) : Part :=
  match p.chip.packet? id with
  | none => p
  | some k =>
    let (st, s, c) := p.chip.createSlice false none (k.bytes.drop 32)
    let l := (parseCreate (k.bytes.drop 32)).extents
    { p with chip := p.chip.onPacket id 0x800 (fun q d =>
        if st ≠ stDone then d.finish q.id st
        else if p.ownersFree l then (c.ownerCalled (l.flatMap ownerCalls).length).finish q.id st s
        else d.take q.id) }

def execSliceCreate (packet : Nat) (s : State) : Host.Outcome State Fault Refusal := s.onPart (sliceCreate packet)

/-! ### FUNCTION_DISABLE (R52 to R55) -/

def Chip.updSlice (c : Chip) (s : Nat) (f : Slice → Slice) : Chip :=
  match c.slice? s with
  | some x => { c with slices := AMap.set c.slices s (f x) }
  | none => c

/-- Functions of the slice whose drain is under way. -/
def Chip.draining (c : Chip) (s : Nat) : Nat := (c.drains.filter (fun d => d.slice == s)).foldl (fun m d => m ||| d.own) 0

def Chip.updDrains (c : Chip) (f : Drain → Drain) : Chip := { c with drains := c.drains.map f }
def Chip.updDestroy (c : Chip) (s : Nat) (f : Destroy → Destroy) : Chip := { c with destroys := c.destroys.map (fun d => if d.slice = s then f d else d) }

/-- R53 step 1: the functions are refused from now on; the acoustic loop engine stops at its next sample (aleStep). -/
def Chip.refuseFunctions (c : Chip) (s mask : Nat) : Chip := c.updSlice s (fun x => { x with disabled := x.disabled ||| mask })

/-- A drain timeout in µs as its packets give it. -/
def drainUs (t : Nat) : Nat := if t = 0 then 5000 else t

/-- R53, R54: the checks; a packet whose functions all drain already joins every drain that it names; another starts a drain
of its own. -/
def functionDisable (id : Nat) (c : Chip) : Chip :=
  c.onPacket id 0x803 (fun p c =>
    let s := p.u 32 1
    let mask := p.u 34 2
    if bitOf (p.u 33 1) 0 then c
    else if 64 ≤ s ∨ 1 < p.u 33 1 ∨ 64 ≤ mask ∨ !zeroIn p.bytes 40 64 ∨ 1000000 < p.u 36 4 ∨ (c.slice? s).isNone then c.finish p.id stBadParam
    else
      let old := c.draining s
      let own := mask &&& (63 ^^^ (old &&& 63))
      let c := ((c.refuseFunctions s mask).keepRunning p.id).stampReady
      if mask ≠ 0 ∧ own = 0 then c.updDrains (fun d => if d.slice = s ∧ d.own &&& mask ≠ 0 then { d with joined := d.joined ++ [p.id] } else d)
      else { c with drains := c.drains ++ [{ slice := s, mask := mask, own := own, deadline := c.now + drainUs (p.u 36 4) * 1000, packet := p.id }] })

def execFunctionDisable (packet : Nat) (s : State) : Host.Outcome State Fault Refusal := s.on (functionDisable packet)

/-- R54: ENABLE: functions still draining are re-enabled when their drain ends, the others now. -/
def functionEnable (id : Nat) (c : Chip) : Chip :=
  c.onPacket id 0x803 (fun p c =>
    let s := p.u 32 1
    let mask := p.u 34 2
    if bitOf (p.u 33 1) 0 = false then c
    else if 64 ≤ s ∨ 1 < p.u 33 1 ∨ 64 ≤ mask ∨ !zeroIn p.bytes 40 64 ∨ 1000000 < p.u 36 4 ∨ (c.slice? s).isNone then c.finish p.id stBadParam
    else
      let busy := c.draining s &&& mask
      let c := c.updSlice s (fun x => { x with disabled := x.disabled &&& (0xFFFF ^^^ (mask &&& (0xFFFF ^^^ busy))) })
      if busy = 0 then c.finish p.id stDone
      else (c.updDrains (fun d => if d.slice = s ∧ d.own &&& mask ≠ 0 then { d with enables := d.enables ++ [(p.id, d.own &&& mask)] } else d)).keepRunning p.id)

def execFunctionEnable (packet : Nat) (s : State) : Host.Outcome State Fault Refusal := s.on (functionEnable packet)

/-- R53 step 3: the drain that a packet started runs out of time. -/
def functionDisableTimeout (id : Nat) (c : Chip) : Chip :=
  match c.drains.find? (fun d => d.packet == id) with
  | none => c
  | some d =>
    if d.timedOut ∨ c.now < d.deadline then c
    else
      let (n, c) := c.abortFlying d.slice d.own stAbortedByDisable
      c.updDrains (fun e => if e.packet = id then { e with timedOut := true, aborted := e.aborted + n } else e)

def execFunctionDisableTimeout (packet : Nat) (s : State) : Host.Outcome State Fault Refusal := s.on (functionDisableTimeout packet)

/-! ### SLICE_DESTROY (R56) -/

/-- The checks, then a second one joins the first, or every function of the slice is disabled as under R53. -/
def sliceDestroy (id : Nat) (c : Chip) : Chip :=
  c.onPacket id 0x801 (fun p c =>
    let s := p.u 32 1
    if 64 ≤ s ∨ s = 0 ∨ 1 < p.u 33 1 ∨ p.u 34 2 ≠ 0 ∨ !zeroIn p.bytes 40 64 ∨ 1000000 < p.u 36 4 ∨ (c.slice? s).isNone ∨
        c.safe.outputs.any (fun o => o.2.slice == s && o.2.armed) = true then c.finish p.id stBadParam
    else match c.destroys.find? (fun d => d.slice == s) with
      | some _ => (c.updDestroy s (fun e => { e with joined := e.joined ++ [p.id] })).keepRunning p.id
      | none =>
        let own := 63 &&& (63 ^^^ (c.draining s &&& 63))
        let c := ((c.refuseFunctions s 63).keepRunning p.id).stampReady
        { c with drains := c.drains ++ [{ slice := s, mask := 63, own := own, deadline := c.now + drainUs (p.u 36 4) * 1000, packet := p.id }], destroys := c.destroys ++ [{ slice := s, packet := p.id, invalidate := bitOf (p.u 33 1) 0 }] })

def execSliceDestroy (packet : Nat) (s : State) : Host.Outcome State Fault Refusal := s.on (sliceDestroy packet)

/-- SEQUENCE of a packet that the part still holds. -/
def Chip.seqOf (c : Chip) (id : Nat) : Nat := ((c.packet? id).map (·.seq)).getD 0

/-- Step 2: the final event, which names the packet of the command; then every ring of the slice and the packets it still
holds are gone. -/
def Chip.retireRings (c : Chip) (s seq : Nat) : Chip :=
  let c := (c.event s 0x0005 0xFFFF seq 0 0).updSlice s (fun x => { x with retired := true })
  let gone := (c.packets.filter (fun p => p.slice == s)).map (·.id)
  let c := { c with packets := (c.packets.filter (fun p => p.slice != s)).map (fun p => { p with waitsFor := p.waitsFor.filter (fun i => !gone.contains i) }) }
  let c := gone.foldl Chip.dropPending c
  { c with rings := c.rings.filter (fun g => g.1 / 16 != s), drains := c.drains.filter (fun d => d.slice != s) }

/-- Step 3: the slice's models leave the cache and the registry. -/
def Chip.dropModels (c : Chip) (s : Nat) : Chip :=
  let c := (c.modelsOf s).foldl (fun c p => if p.2.resident then c.evict p.1 1 else c) c
  { c with models := c.models.filter (fun p => p.2.slice != s) }.mcRegs s

/-- Steps 5 and 6: predictors, PASID, streams, logs, registers and resources of the slice. -/
def Chip.dissolve (c : Chip) (s : Nat) : Chip :=
  match c.slice? s with
  | none => c
  | some sl =>
    let c := (c.cfl.streams.filter (fun x => x.2.slice == s)).foldl (fun c x => c.closeStream x.1) c
    let c := { c with cfl := { c.cfl with contexts := c.cfl.contexts.filter (fun x => x.2.slice != s), grids := c.cfl.grids.filter (fun x => x.2.slice != s), tracker := if c.cfl.tracker.any (fun (t : Tracker) => t.slice == s) then none else c.cfl.tracker } }
    let c := ((c.clearPredictors s).setReg (ACC_PASID_MAP s) 0).resetPage s
    let c := ((((c.setReg (SLICE_INFO s) 0).setReg (SLICE_SYNC s) 0).setReg (SLICE_PASID s) 0).setReg (MRC_SHARE s) 0).setReg (PWR_SLICE s) 0
    let c := c.setReg (MC_SLICE_SEG s) 0
    { c with slices := AMap.del c.slices s, dirtyLogs := AMap.del c.dirtyLogs s, jobsPast := c.jobsPast.filter (fun e => e.slice != s), syncs := c.syncs.filter (fun o => o.1 < sl.syncBase || sl.syncBase + sl.syncCount ≤ o.1), unitWaits := c.unitWaits.filter (fun w => !sl.hasSync w.obj) }.showTiles sl.tiles

/-- Step 4: one call of PAGE_OWNER_SET for pages of the slice: the calls made, the pages left as they stood, the part.  A
call that answers NOT_OWNER is followed by one for each page that still holds the slice's value. -/
def Chip.returnCall (c : Chip) (s : Nat) (invalidate : Bool) (e : Nat × Nat) : Nat × Nat × Chip :=
  let held := ((List.range e.2).map (· + e.1)).filter (fun i => c.owner i == s + 1)
  if c.ownerSetStatus e.1 e.2 (s + 1) 0xFF = stDone then (1, 0, c.giveOwners e.1 e.2 0xFF invalidate)
  else (1 + held.length, e.2 - held.length, held.foldl (fun c i => c.giveOwners i 1 0xFF invalidate) c)

/-- Step 4: the calls for every extent, in order. -/
def Chip.returnPages (c : Chip) (s : Nat) (invalidate : Bool) (l : List (Nat × Nat)) : Nat × Nat × Chip :=
  l.foldl (fun x e =>
    let (k, n, c) := x.2.2.returnCall s invalidate e
    (x.1 + k, x.2.1 + n, c)) (0, 0, c)

/-- Steps 4 to 6: once the mailbox is free and no request in flight holds the pages, those that still hold the slice's value
go back to the pool, and the slice is gone. -/
def Part.finishDestroy (p : Part) (d : Destroy) : Part :=
  match p.chip.slice? d.slice with
  | none => p
  | some sl =>
    if p.ownersFree sl.extents then
      let (k, left, c) := p.chip.returnPages d.slice d.invalidate (sl.extents.flatMap ownerCalls)
      let c := (c.ownerCalled k).dissolve d.slice
      let c := (d.packet :: d.joined).foldl (fun c id => c.finish id stDone left) c
      { p with chip := { c with destroys := c.destroys.filter (fun e => e.packet != d.packet) } }
    else p

/-- Steps 2 and 3, then what can be done of the others. -/
def Part.drainedDestroy (p : Part) (d : Destroy) : Part :=
  let d' := { d with drained := true }
  Part.finishDestroy { p with chip := ((p.chip.retireRings d.slice (p.chip.seqOf d.packet)).dropModels d.slice).updDestroy d.slice (fun _ => d') } d'

/-- A drain that a packet started has ended: nothing of its functions is in flight, nor of those that earlier drains
cover. -/
def Chip.drainOver (c : Chip) (d : Drain) : Bool :=
  !c.flying d.slice d.mask && !c.drains.any (fun e => e.packet != d.packet && e.slice == d.slice && e.own &&& d.mask != 0)

/-- R53 step 5, R54: a drain ends: its event, the packets that joined it and no other drain that still runs, and the
ENABLE packets that waited for it last.  A packet that joined several drains answers with what the last of them aborted
(DESIGN CHOICE, log 107). -/
def Chip.endDrain (c : Chip) (d : Drain) : Chip :=
  let c := c.event d.slice 0x0004 0xFFFF (c.seqOf d.packet) d.mask d.aborted
  let c := { c with drains := c.drains.filter (fun e => e.packet != d.packet) }
  let on := d.enables.foldl (fun m e => m ||| e.2) 0
  let c := c.updSlice d.slice (fun x => { x with disabled := x.disabled &&& (0xFFFF ^^^ on) })
  let c := (d.joined.filter (fun j => !c.drains.any (fun g => g.joined.contains j))).foldl (fun c j => c.finish j stDone d.aborted) c
  d.enables.foldl (fun c e => if c.drains.any (fun g => g.enables.any (fun x => x.1 == e.1)) then c else c.finish e.1 stDone) c

/-- R53 step 5, R54, R56: the drain of a packet that has ended is answered; one of SLICE_DESTROY goes on with the
destruction. -/
def functionDisableDrained (id : Nat) (p : Part) : Part :=
  match p.chip.drains.find? (fun d => d.packet == id) with
  | none => p
  | some d =>
    if p.chip.drainOver d then
      let c := p.chip.endDrain d
      match c.destroys.find? (fun x => x.packet == id) with
      | some x => Part.drainedDestroy { p with chip := c } x
      | none => { p with chip := c.finish id stDone d.aborted }
    else p

def execFunctionDisableDrained (packet : Nat) (s : State) : Host.Outcome State Fault Refusal := s.onPart (functionDisableDrained packet)

/-! ### Page owners that waited (R46) -/

/-- R46: with no request in flight on its range any more, the PAGE_OWNER_SET that runs takes effect: its entries cannot
have changed, since one entry runs at a time. -/
def ownerSetServe (p : Part) : Part :=
  match p.sec.running with
  | some q =>
    if q.entry = 0x0010 then
      let (first, n, _, new, inv, _) := ownerArgs q.copy
      if p.chip.dramBusy first n then p
      else Part.gateFinish { p with chip := p.chip.giveOwners first n new inv } stDone
    else p
  | none => p

/-- The call that runs, and the calls of a SLICE_DESTROY. -/
def pageOwnerSetApply (p : Part) : Part :=
  (p.chip.destroys.filter (·.drained)).foldl Part.finishDestroy (ownerSetServe p)

def execPageOwnerSetApply (s : State) : Host.Outcome State Fault Refusal := s.onPart pageOwnerSetApply

end Sys2Proof.Machine
end

