-- ==== Sys2Proof/Machine/Power.lean ====
section
/-!
DEFINITION. Power: resets, claims and gating, leaving Active, wake events and rails, tile-group power, Sluice's commands,
the thermal loops, and the choice of a profile (13 R345, R346, R357; 15 R391 to R414; 19 R506, R507).
-/

namespace Sys2Proof.Machine

def Chip.updPower (c : Chip) (f : Power → Power) : Chip := { c with power := f c.power }

/-! ### Resets -/

/-- A register of the always-on window: it survives everything but a loss of always-on power (R425). -/
def aonReg (a : Nat) : Bool := decide (aonBase ≤ a) && decide (a < aonBase + 2 ^ 24)

/-- Every domain but the always-on domain is reset: what is left is the always-on registers, the boot flash, straps and
device time; SAFE_N[3:0] are asserted (R300), and DRAM, whose valid bits are lost, reads zero. -/
def Chip.resetDomains (c : Chip) : Chip :=
  { regs := c.regs.filter (fun p => aonReg p.1), now := c.now, free := c.free, capacity := c.capacity, carveOut := c.carveOut, nextPacket := c.nextPacket, nextReq := c.nextReq, posted := c.posted, sent := c.sent, twinId := c.twinId, flash := c.flash, power := { mode := .reset, t0 := c.power.t0, latched := c.power.latched, owed := c.power.owed, shutAt := c.power.shutAt, enRet := c.power.enRet, enMain := c.power.enMain, pgood := c.power.pgood, rose := c.power.rose, fell := c.power.fell, cause := c.power.cause, resetN := c.power.resetN, profSel := c.power.profSel, bootSrc := c.power.bootSrc, populated := c.power.populated, freshAon := c.power.freshAon, split := c.power.split } }

/-- What the security core keeps over a loss of its SRAM: the counter area and the vault, which lie in the flash. -/
def Sec.lost (s : Sec) : Sec := { rollback := s.rollback, cycle := s.cycle, vault := s.vault }

/-- The supplies are in range and RESET_N is high (R506). -/
def Power.supplied (p : Power) : Bool := p.enRet && p.enMain && p.pgood && !p.resetN

/-- R415 step 1: the cause recorded, the start counted, STARTING set. -/
def Chip.startStep1 (c : Chip) (cause : Nat) (warm : Bool) : Chip :=
  let n := c.fld AON_START_COUNT AON_START_COUNT.STARTS + 1
  let c := c.setFld AON_START_COUNT AON_START_COUNT.STARTS (if n = 2 ^ 16 then 1 else n)
  let c := c.setFld AON_START_STATUS AON_START_STATUS.CAUSE cause
  let c := c.setFld AON_START_STATUS AON_START_STATUS.STARTING 1
  let c := c.setFld AON_START_STATUS AON_START_STATUS.WARM (b2n warm)
  let c := (c.setFld SEC_STATUS SEC_STATUS.STATE 1).setFld SEC_STATUS SEC_STATUS.WARM (b2n warm)
  c.updPower (fun p => { p with mode := .starting, t0 := c.now, freshAon := p.freshAon || n == 2 ^ 16 })

/-- A cold start with a cause: at once with the supplies in range, else as soon as they are. -/
def Part.beginCold (p : Part) (cause : Nat) : Part :=
  let c := p.chip.resetDomains.updPower (fun w => { w with cause := cause })
  { chip := if c.power.supplied then c.startStep1 cause false else c, sec := p.sec.lost }

/-- A USB4 port that BOOT_SRC lets a recovery come from (R420). -/
def recoveryPort (bootSrc p : Nat) : Bool := bootSrc == 0 || (bootSrc == 1 && p == 0) || (decide (2 ≤ bootSrc) && p == 1)

/-- R420, R456: recovery: the part waits in reset for a bundle, port 1 presents the recovery function. -/
def Part.enterRecovery (p : Part) : Part :=
  let c := (p.chip.setFld AON_START_STATUS AON_START_STATUS.STARTING 0).resetDomains
  let c := (List.range 2).foldl (fun (c : Chip) n => c.setFld (LNK_PORT_STATUS n) LNK_PORT_STATUS.MODE (if recoveryPort c.power.bootSrc n then 2 else 3)) c
  let c := (c.setFld LNK_PCI_ID LNK_PCI_ID.DEVICE 0x964F).setFld SEC_STATUS SEC_STATUS.STATE 3
  { chip := c.updPower (fun w => { w with mode := .recovery }), sec := p.sec.lost }

/-- R418: the failing step and the cause of the start are noted, and the next start owes their record. -/
def Chip.noteFailure (c : Chip) (step : Nat) : Chip :=
  let cause := if c.power.mode = .starting then c.fld AON_START_STATUS AON_START_STATUS.CAUSE else c.power.cause
  let c := (c.setFld AON_START_STATUS AON_START_STATUS.FAIL_STEP step).setFld AON_START_STATUS AON_START_STATUS.LAST_CAUSE cause
  let c := c.setFld AON_START_STATUS AON_START_STATUS.STARTING 0
  c.updPower (fun w => { w with owed := w.owed.filter (fun o => o.source != 14 || o.cause != 3) ++ [{ severity := 2, cause := 3, source := 14, detail := some (step % 256 + cause * 256) }] })

/-- FAIL_COUNT after one more failed cold start. -/
def Chip.failures (c : Chip) : Nat := min 3 (c.fld AON_START_STATUS AON_START_STATUS.FAIL_COUNT + 1)

/-- R418: a start fails at a step: a warm start goes on as a cold start, and the third cold start in a row that fails ends in
recovery. -/
def Part.startFailed (p : Part) (step : Nat) : Part :=
  let c := p.chip.noteFailure step
  if p.chip.flag AON_START_STATUS AON_START_STATUS.WARM && p.chip.power.mode == PartMode.starting then Part.beginCold { p with chip := c } 6
  else
    let c := c.setFld AON_START_STATUS AON_START_STATUS.FAIL_COUNT p.chip.failures
    if p.chip.failures < 3 then Part.beginCold { p with chip := c } 7 else Part.enterRecovery { p with chip := c }

/-- R8, R418: a wrong memory population, found at step 8, is a failed cold start that enters recovery at once. -/
def Part.wrongPopulation (p : Part) : Part :=
  Part.enterRecovery { p with chip := (p.chip.noteFailure 8).setFld AON_START_STATUS AON_START_STATUS.FAIL_COUNT p.chip.failures }

/-! ### Claims and gating (R345, R346, R409, R410) -/

/-- The blocks of Table — Claimable blocks that the security core has claimed. -/
def Chip.claimed (c : Chip) : Nat := c.fld SEC_CLAIM SEC_CLAIM.CLAIM

/-- One named block stops, or is put off with a notice record. -/
def Chip.stopBlock (c : Chip) (p : Packet) (b : Nat) : Chip :=
  if bitOf c.claimed b then
    let c := c.setFld SEC_CLAIM SEC_CLAIM.PENDING (putBits (c.fld SEC_CLAIM SEC_CLAIM.PENDING) b b 1)
    let c := c.updPower (fun w => { w with stops := w.stops ++ [{ block := b, slice := p.slice, ring := p.ring, seq := p.seq }] })
    c.error { severity := 0, cause := 6, source := 10, detail := some b }
  else c.updPower (fun w => { w with gated := putBits w.gated b b 1 })

/-- The reserved bytes of a POWER_HINT are zero. -/
def hintReserved (p : Packet) : Bool := p.u 33 1 == 0 && p.u 48 2 < 2 ^ 12 && zeroIn p.bytes 50 64

/-- One POWER_HINT operation: its own OP, else BAD_PARAM for a reserved OP, else nothing; operations 0 to 4 on slice 0
alone (R409). -/
def Chip.onHint (c : Chip) (id op : Nat) (f : Packet → Chip → Chip) : Chip :=
  c.onPacket id 0x600 (fun p c =>
    if 5 < p.u 32 1 then c.finish p.id stBadParam
    else if p.u 32 1 ≠ op then c
    else if op ≤ 4 ∧ p.slice ≠ 0 then c.finish p.id stAccessDenied
    else if hintReserved p = false then c.finish p.id stBadParam
    else f p c)

/-- R409: the blocks may be named. -/
def Chip.blocksOk (c : Chip) (m : Nat) (off : Bool) : Bool :=
  bitsOf m 1 0 == 0 && bitsOf m 15 13 == 0 && !(off && bitOf m 12 && c.flag ALE_CTRL ALE_CTRL.EN)

/-- The named blocks stop, one after the other. -/
def Chip.stopBlocks (c : Chip) (p : Packet) (m : Nat) : Chip := ((List.range 13).filter (fun b => bitOf m b)).foldl (fun c b => c.stopBlock p b) c

/-- R409: the named blocks stop; a claimed one later, and then the hint is deferred. -/
def blockOff (id : Nat) (c : Chip) : Chip :=
  c.onHint id 0 (fun p c =>
    if c.blocksOk (p.u 34 2) true then (c.stopBlocks p (p.u 34 2)).finish p.id (if c.claimed &&& p.u 34 2 ≠ 0 then stDeferred else stDone)
    else c.finish p.id stBadParam)

def execBlockOff (packet : Nat) (s : State) : Host.Outcome State Fault Refusal := s.on (blockOff packet)

/-- SEC_CLAIM.PENDING shows the blocks with deferred requests. -/
def Chip.showPending (c : Chip) : Chip :=
  c.setFld SEC_CLAIM SEC_CLAIM.PENDING (c.power.stops.foldl (fun m q => m ||| 2 ^ q.block) 0)

/-- The named blocks run; the stops put off for them are cancelled. -/
def Chip.startBlocks (c : Chip) (m : Nat) : Chip :=
  (c.updPower (fun w => { w with gated := w.gated &&& (0xFFFF ^^^ m), stops := w.stops.filter (fun q => !bitOf m q.block) })).showPending

/-- R410: the named blocks run again; a BLOCK_OFF still deferred for one is cancelled. -/
def blockOn (id : Nat) (c : Chip) : Chip :=
  c.onHint id 1 (fun p c => if c.blocksOk (p.u 34 2) false then (c.startBlocks (p.u 34 2)).finish p.id stDone else c.finish p.id stBadParam)

def execBlockOn (packet : Nat) (s : State) : Host.Outcome State Fault Refusal := s.on (blockOn packet)

/-- R345: a claim is released: the deferred requests for its block take effect in order of arrival, and each packet that
has no other left is reported by DEFERRED_DONE. -/
def Chip.unclaim (c : Chip) (b : Nat) : Chip :=
  let c := (c.updPower (fun w => { w with claims := AMap.del w.claims b })).setFld SEC_CLAIM SEC_CLAIM.CLAIM (putBits c.claimed b b 0)
  let mine := c.power.stops.filter (fun q => q.block == b)
  if mine.isEmpty then c
  else
    let c := (c.updPower (fun w => { w with gated := putBits w.gated b b 1, stops := w.stops.filter (fun q => q.block != b) })).showPending
    mine.foldl (fun c q =>
      if c.power.stops.any (fun r => r.slice == q.slice && r.ring == q.ring && r.seq == q.seq) then c
      else c.event q.slice 0x0007 q.ring q.seq 0 0) c

/-- The claim a running request works under. -/
def GateReq.claimBit (q : GateReq) : Option Nat :=
  if q.entry = 0x0012 then some 6
  else if q.entry = 0x0040 then some (if (Config.netKeyCan q.copy).isNone then 4 else 5)
  else none

/-- R344: what a request that worked under a claim leaves: the counter raised, or the key installed; a key that does not
unwrap leaves nothing and ends with a free status. -/
def Part.serviceDone (p : Part) (q : GateReq) : Nat × Part :=
  if q.entry = 0x0012 then
    let t := bytesU q.copy 0 1
    let v := max (AMap.getD p.sec.rollback t 0) (AMap.getD p.sec.versions t 0)
    (stDone, { p with sec := { p.sec with rollback := AMap.set p.sec.rollback t v } })
  else match Config.netKeyUnwrap q.copy with
    | some (slot, key) =>
      let c := match Config.macsecPort q.copy with
        | some n => p.chip.setFld (NET_PORT_STATUS n) NET_PORT_STATUS.MACSEC 1
        | none => p.chip
      (stDone, { chip := c, sec := { p.sec with netKeys := AMap.set p.sec.netKeys slot key } })
    | none =>
      let (st, c) := p.chip.draw
      (st.toNat % 2 ^ 16, { p with chip := c })

/-- R345: the security core releases a claim, its work done. -/
def claimRelease (block : Nat) (p : Part) : Part :=
  if bitOf p.chip.claimed block = false then p
  else match p.sec.running with
    | some q =>
      if q.claimBit = some block then
        let (st, p) := p.serviceDone q
        Part.gateFinish { p with chip := p.chip.unclaim block } st
      else { p with chip := p.chip.unclaim block }
    | none => { p with chip := p.chip.unclaim block }

def execClaimRelease (block : Nat) (s : State) : Host.Outcome State Fault Refusal := s.onPart (claimRelease block)

/-- A claim that ran out of time is released, with its record. -/
def Chip.claimLate (c : Chip) (block : Nat) : Chip :=
  let (x, c) := c.draw
  (c.unclaim block).error { severity := 2, cause := 7, source := 10, detail := some (x.toNat) }

/-- R346: a claim reaches 50 ms: the hardware releases it, and the service on its block ends with its own failure. -/
def claimExpiry (block : Nat) (p : Part) : Part :=
  match AMap.get? p.chip.power.claims block with
  | none => p
  | some t =>
    if p.chip.now < t + 50000000 then p
    else
      let c := p.chip.claimLate block
      match p.sec.running with
      | some q => if q.claimBit = some block then Part.gateFinish { p with chip := c.draw.2 } (c.draw.1.toNat % 2 ^ 16) else { p with chip := c }
      | none => { p with chip := c }

def execClaimExpiry (block : Nat) (s : State) : Host.Outcome State Fault Refusal := s.onPart (claimExpiry block)

/-- The record of the vehicle-class timer, where the error ring has room for it. -/
def Chip.wdtRecord (c : Chip) : Chip :=
  if c.flag ERR_RING_CTRL ERR_RING_CTRL.ENABLE && c.errFree != 0 then c.secRecord 3 9 0xFF 0 0 none else c

/-- R357: the vehicle-class timer expires: a severity 3 record if the ring can take it, then a cold start. -/
def wdtVehicleExpiry (p : Part) : Part := Part.beginCold { p with chip := p.chip.wdtRecord } 8

def execWdtVehicleExpiry (s : State) : Host.Outcome State Fault Refusal := s.onPart wdtVehicleExpiry

/-! ### Leaving Active (R394, R395, R419) -/

/-- The slices that exist. -/
def Chip.sliceNos (c : Chip) : List Nat := c.slices.map (·.1)

/-- R394: something is in flight still, in any slice. -/
def Chip.stillFlying (c : Chip) : Bool := c.sliceNos.any (fun s => c.flying s 63) || c.jobs.any (·.holds)

/-- Steps 2 and 3: with nothing in flight, or what was left aborted at the deadline, the hint is answered. -/
def Chip.leaveOn (c : Chip) : Chip :=
  match c.power.leaving with
  | none => c
  | some l =>
    if l.replied.isSome then c
    else
      let late := match l.deadline with
        | some t => decide (t ≤ c.now)
        | none => false
      if c.stillFlying && !late then c
      else
        let (n, c) := if c.stillFlying then
            c.sliceNos.foldl (fun (r : Nat × Chip) s => let (k, c) := r.2.abortFlying s 63 stAbortedByDisable; (r.1 + k, c)) (0, c)
          else (0, c)
        let c := match l.packet with
          | some id => c.finish id stDone n
          | none => c
        c.updPower (fun w => { w with leaving := some { l with aborted := n, replied := some c.now } })

/-- The packet's drain begins. -/
def Chip.leave (c : Chip) (p : Packet) : Chip :=
  let l : Leaving := { op := p.u 32 1, packet := some p.id, slice := p.slice, ring := p.ring, deadline := some (c.now + drainUs (p.u 36 4) * 1000) }
  ((c.keepRunning p.id).updPower (fun w => { w with leaving := some l })).leaveOn

/-- R394 steps 1 to 3: no drain longer than a second, none while a watch is armed, and one at a time. -/
def Chip.tryLeave (c : Chip) (p : Packet) (watch : Bool) : Chip :=
  if 1000000 < p.u 36 4 ∨ (watch && c.safe.outputs.any (fun o => o.2.armed)) = true then c.finish p.id stBadParam
  else if c.power.leaving.isSome then c.finish p.id stDisabled
  else c.leave p

def standby (id : Nat) (c : Chip) : Chip := c.onHint id 2 (fun p c => c.tryLeave p true)
def execStandby (packet : Nat) (s : State) : Host.Outcome State Fault Refusal := s.on (standby packet)

def park (id : Nat) (c : Chip) : Chip := c.onHint id 3 (fun p c => c.tryLeave p true)
def execPark (packet : Nat) (s : State) : Host.Outcome State Fault Refusal := s.on (park packet)

/-- A warm-start request during a start is ignored and counted (R419). -/
def Chip.ignoreStart (c : Chip) : Chip := c.count AON_START_IGNORED AON_START_IGNORED.COUNT 1

def restart (id : Nat) (c : Chip) : Chip :=
  c.onHint id 4 (fun p c =>
    if c.flag AON_START_STATUS AON_START_STATUS.STARTING then c.ignoreStart.finish p.id stNoResource
    else c.tryLeave p false)
def execRestart (packet : Nat) (s : State) : Host.Outcome State Fault Refusal := s.on (restart packet)

/-- R419, R425: a write of WARM_REQ with slice tag 0: R395 with an unlimited drain. -/
def warmReq (tag : Nat) (c : Chip) : Chip :=
  if tag ≠ 0 then c
  else if c.flag AON_START_STATUS AON_START_STATUS.STARTING then c.ignoreStart
  else if c.power.leaving.isSome then c
  else (c.updPower (fun w => { w with leaving := some { op := 4, packet := none, slice := 0, ring := 0, deadline := none } })).leaveOn

def execWarmReq (tag : Nat) (s : State) : Host.Outcome State Fault Refusal := s.on (warmReq tag)

/-- What Standby-Warm retains beside the always-on registers (R391): DRAM with its owners and valid bits, the model cache
with its, the registry, the slice table, and the Dorat epoch, model set and digest (R464). -/
def Chip.retain (c : Chip) : Chip :=
  let r := c.resetDomains
  let mc := fun (a : Nat) => decide (a < tileBase)
  { r with mem := c.mem.filter (fun p => mc p.1), owners := c.owners, badOwners := c.badOwners, validBlocks := c.validBlocks, validLines := c.validLines.filter (fun l => mc (l * 64)), badWords := c.badWords.filter (fun p => mc p.1), badValid := c.badValid, rawBlocks := c.rawBlocks, models := c.models.map (fun p => (p.1, { p.2 with loading := false, loadFor := [], deferred := [], evicting := false, unregistering := false, segs := if p.2.loading then [] else p.2.segs })), power := { r.power with sliceTable := c.slices }, domain := { epoch := c.domain.epoch, digest := c.domain.digest, models := c.domain.models } }

/-- What the security core keeps in Standby-Warm: its SRAM; the mailbox and a challenge are over (R341, R355). -/
def Sec.keptWarm (s : Sec) : Sec := { s with enables := 0, scope := 0, challenge := none, waiting := [], running := none }

/-- R507: an enable rises again 20 ms after its fall at the earliest. -/
def Chip.riseAt (c : Chip) : Nat := match c.power.fell with
  | some t => max c.now (t + 20000000)
  | none => c.now

/-- R415: a warm start begins, the rails rising again where they fell. -/
def Part.beginWarm (p : Part) (cause : Nat) : Part :=
  let c := p.chip
  let c := c.updPower (fun w => { w with enRet := true, enMain := true, pgood := w.pgood && w.enMain, rose := if w.enMain then w.rose else c.riseAt, cause := cause })
  { p with chip := c.startStep1 cause true }

/-- R394 steps 4 to 6: cores halted, groups Off, retention or power-down; a RESTART, or a wake event latched meanwhile,
starts the part at once. -/
def Part.enterState (p : Part) (l : Leaving) : Part :=
  let wake := p.chip.power.latched
  let t := p.chip.now
  if l.op = 3 then
    let c := p.chip.resetDomains.updPower (fun w => { w with mode := .parked, entered := t, latched := 0, enMain := false, enRet := false, pgood := false, fell := some t })
    if wake = 0 then { chip := c, sec := p.sec.lost }
    else { chip := (c.setReg AON_WAKE_SRC wake).updPower (fun w => { w with enRet := true, rose := c.riseAt, mode := .reset, cause := 2 }), sec := p.sec.lost }
  else
    let c := p.chip.retain.updPower (fun w => { w with mode := .standby, entered := t, latched := 0, enMain := false, pgood := false, fell := some t })
    let p : Part := { chip := c, sec := p.sec.keptWarm }
    if l.op = 4 then p.beginWarm (if l.packet.isNone then 5 else 4)
    else if wake = 0 then p
    else Part.beginWarm { p with chip := c.setReg AON_WAKE_SRC wake } 3

/-- R394: 100 µs after the reply, and with every claim released, the part leaves Active. -/
def stateEntryHalt (p : Part) : Part :=
  let p : Part := { p with chip := p.chip.leaveOn }
  match p.chip.power.leaving with
  | none => p
  | some l => match l.replied with
    | none => p
    | some t => if p.chip.now < t + 100000 ∨ p.chip.claimed ≠ 0 then p else p.enterState l

def execStateEntryHalt (s : State) : Host.Outcome State Fault Refusal := s.onPart stateEntryHalt

/-- The groups an IDLE_UNTIL names. -/
def Packet.idleGroups (p : Packet) : List Nat := (List.range 12).filter (fun g => bitOf (p.u 48 2) g)

/-- Each of them has a tile of the slice. -/
def Chip.ownsGroups (c : Chip) (p : Packet) : Bool := p.idleGroups.all (fun g => (List.range 16).any (fun i => c.tileSlice (16 * g + i) == some p.slice))

/-- The hints of the named groups are replaced; a past time clears them. -/
def Chip.setIdle (c : Chip) (gs : List Nat) (t : Nat) : Chip :=
  gs.foldl (fun (c : Chip) g => c.updPower (fun w => { w with idleUntil := if !timeBefore c.now t then AMap.del w.idleUntil g else AMap.set w.idleUntil g t })) c

/-- R398: an IDLE_UNTIL hint replaces each named group's earlier one. -/
def idleUntil (id : Nat) (c : Chip) : Chip :=
  c.onHint id 5 (fun p c => if c.ownsGroups p then (c.setIdle p.idleGroups (p.u 40 8)).finish p.id stDone else c.finish p.id stNotOwner)

def execIdleUntil (packet : Nat) (s : State) : Host.Outcome State Fault Refusal := s.on (idleUntil packet)

/-! ### Wake events, rails and reset (R393, R506, R507, R418) -/

/-- R393: a wake source, as AON_WAKE_EN numbers it: enabled, and for the timer run out. -/
def Chip.wakes (c : Chip) (src : Nat) : Bool :=
  bitOf (c.fld AON_WAKE_EN AON_WAKE_EN.EN) src &&
  (src != 2 || (c.reg AON_WAKE_TICKS != 0 && decide (c.power.entered * 32768 + c.reg AON_WAKE_TICKS * 1000000000 ≤ c.now * 32768)))

/-- The part leaves Standby or its power-down for a wake source. -/
def Part.wakeFrom (p : Part) (src : Nat) : Part :=
  match p.chip.power.mode with
  | .starting => { p with chip := p.chip.ignoreStart }
  | .standby => if p.chip.wakes src then Part.beginWarm { p with chip := p.chip.setReg AON_WAKE_SRC (2 ^ src) } 3 else p
  | .parked =>
    if p.chip.wakes src then { p with chip := (p.chip.setReg AON_WAKE_SRC (2 ^ src)).updPower (fun w => { w with mode := .reset, enRet := true, rose := p.chip.riseAt, cause := 2 }) }
    else p
  | _ => p

/-- R393, R394, R419: a wake event starts the part, is latched while it leaves Active, or is ignored and counted during a
start. -/
def wakeEvent (src : Nat) (p : Part) : Part :=
  if 5 ≤ src ∨ bitOf (p.chip.fld AON_WAKE_EN AON_WAKE_EN.EN) src = false then p
  else if p.chip.power.leaving.isSome then
    if src = 2 then p else { p with chip := p.chip.updPower (fun w => { w with latched := putBits w.latched src src 1 }) }
  else p.wakeFrom src

def execWakeEvent (source : Nat) (s : State) : Host.Outcome State Fault Refusal := s.onPart (wakeEvent source)

/-- The part without always-on power: the straps alone stand. -/
def Chip.noPower (c : Chip) (enRet : Bool) : Chip :=
  let c := c.resetDomains
  { c with regs := [], power := { mode := .reset, enRet := enRet, enMain := false, pgood := false, cause := 0, resetN := c.power.resetN, profSel := c.power.profSel, bootSrc := c.power.bootSrc, populated := c.power.populated } }

/-- R506: the always-on supplies come into range: the domain runs from its reset values, device time counts from here
(R488), and RAIL_EN_RET rises. -/
def aonPowerUp (p : Part) : Part := { chip := { p.chip.noPower true with now := 0 }, sec := p.sec.lost }

def execAonPowerUp (s : State) : Host.Outcome State Fault Refusal := s.onPart aonPowerUp

/-- R418: the always-on supply is lost, and with it the always-on registers. -/
def aonPowerLoss (p : Part) : Part := { chip := p.chip.noPower false, sec := p.sec.lost }

def execAonPowerLoss (s : State) : Host.Outcome State Fault Refusal := s.onPart aonPowerLoss

/-- The start that a release of reset begins (R415). -/
def Part.release (p : Part) : Part :=
  if p.chip.power.mode = .reset ∧ p.chip.power.supplied = true then { p with chip := p.chip.startStep1 p.chip.power.cause false } else p

/-- R507: less than 20 ms have passed since an enable fell. -/
def Chip.justFell (c : Chip) : Bool := match c.power.fell with
  | some t => decide (c.now < t + 20000000)
  | none => false

/-- PGOOD finds RAIL_EN_MAIN low and the rails may rise: it is up, or both fell 20 ms ago or more. -/
def Chip.railsRise (c : Chip) : Bool :=
  let w := c.power
  !((w.enRet && w.mode == PartMode.standby) || w.mode == PartMode.parked) && (w.enRet || (!c.justFell && w.fell.isSome))

/-- R506: PGOOD rises: RAIL_EN_MAIN follows RAIL_EN_RET, and the release of reset follows it.  With both enables dropped,
it stands for the rise after RAIL_EN_RET is raised again, 20 ms after its fall (DEDUCED, log 45). -/
def pgoodRise (p : Part) : Part :=
  if p.chip.power.pgood then p
  else if p.chip.power.enMain then Part.release { p with chip := p.chip.updPower (fun w => { w with pgood := true }) }
  else if p.chip.railsRise then { p with chip := p.chip.updPower (fun w => { w with enRet := true, enMain := true, pgood := false, rose := p.chip.now }) }
  else p

def execPgoodRise (s : State) : Host.Outcome State Fault Refusal := s.onPart pgoodRise

/-- PGOOD has not risen 20 ms after an enable did. -/
def Chip.pgoodLate (c : Chip) : Bool :=
  let w := c.power
  !w.pgood && (w.enRet || w.enMain) && w.mode != PartMode.standby && decide (w.rose + 20000000 ≤ c.now)

/-- R507: PGOOD is not high within 20 ms of an enable rising: a failed start at step 1. -/
def pgoodTimeout (p : Part) : Part :=
  if !p.chip.pgoodLate then p
  else { p.startFailed 1 with chip := (p.startFailed 1).chip.updPower (fun w => { w with rose := p.chip.now }) }

def execPgoodTimeout (s : State) : Host.Outcome State Fault Refusal := s.onPart pgoodTimeout

/-- R507: PGOOD falls with an enable high: a reset, both enables dropped, and a cold start with cause RESET_N. -/
def pgoodFall (p : Part) : Part :=
  let w := p.chip.power
  if !w.pgood ∨ (w.enRet = false ∧ w.enMain = false) then p
  else
    let c := p.chip.setFld AON_START_STATUS AON_START_STATUS.STARTING 0
    { chip := c.resetDomains.updPower (fun w => { w with enRet := false, enMain := false, pgood := false, fell := some p.chip.now, cause := 1 }), sec := p.sec.lost }

def execPgoodFall (s : State) : Host.Outcome State Fault Refusal := s.onPart pgoodFall

/-- R418: RESET_N is asserted: a start in progress is abandoned without being counted. -/
def resetAssert (p : Part) : Part :=
  let c := (p.chip.setFld AON_START_STATUS AON_START_STATUS.STARTING 0).setFld AON_START_STATUS AON_START_STATUS.FAIL_COUNT 0
  { chip := c.resetDomains.updPower (fun w => { w with resetN := true, cause := 1 }), sec := p.sec.lost }

def execResetAssert (s : State) : Host.Outcome State Fault Refusal := s.onPart resetAssert

/-- R415: RESET_N is high: with the supplies in range a cold start begins. -/
def resetRelease (p : Part) : Part := Part.release { p with chip := p.chip.updPower (fun w => { w with resetN := false }) }

def execResetRelease (s : State) : Host.Outcome State Fault Refusal := s.onPart resetRelease

/-- R418: step 16 is not reached within 5,000 ms of t0; the step under way fails. -/
def startTimeout (step : Nat) (p : Part) : Part :=
  if p.chip.power.mode = .starting ∧ p.chip.power.t0 + 5000000000 ≤ p.chip.now then p.startFailed step else p

def execStartTimeout (step : Nat) (s : State) : Host.Outcome State Fault Refusal := s.onPart (startTimeout step)

/-! ### Tile-group power (R25, R397 to R399) -/

/-- Groups of tiles. -/
def tileGroups (l : List Nat) : List Nat := (l.map (· / 16)).foldl nsInsert []

/-- R25: the scheduler asks for the wakes and the job start of a pending release, presented together. -/
def prewake (packet : Nat) (c : Chip) : Chip :=
  match c.pendingRels.find? (fun r => r.packet == packet) with
  | none => c
  | some r =>
    if c.granted (.job packet) ∨ c.asking (.job packet) then c
    else c.ask r.cls (c.wakeParts (tileGroups r.tiles) r.cls ++ [{ who := .job packet, units := r.units, slice := some r.slice, cls := r.cls }]) r.timeoutUs

def execPrewake (packet : Nat) (s : State) : Host.Outcome State Fault Refusal := s.on (prewake packet)

/-- The group whose power switch closes next: the first Off one in the order in which the wakes were granted (R397). -/
def Chip.nextSwitch (c : Chip) : Option Nat :=
  (c.sluice.grants.filterMap (fun a => match a.who with
    | .wake g => if c.groupState g = gsOff then some g else none
    | _ => none)).head?

/-- A wake may begin: the group is Off or in Retention, its budget granted, and from Off the order of the grants and the
stagger kept. -/
def Chip.mayWake (c : Chip) (g : Nat) : Bool :=
  let clear := match c.power.lastSwitch with
    | some t => decide (t + c.budget.staggerUs * 1000 ≤ c.now)
    | none => true
  decide (g < 12) && c.granted (.wake g) && ((c.groupState g == gsOff && clear && c.nextSwitch == some g) || c.groupState g == gsRetention)

/-- The release a wake is for: the earliest pending one whose job start holds its budget (R25). -/
def Chip.wakeRelease (c : Chip) (g : Nat) : Option Nat :=
  match (c.pendingRels.filter (fun r => (tileGroups r.tiles).contains g && c.granted (.job r.packet))).map (·.release) with
  | [] => none
  | t :: l => some (l.foldl earlier t)

/-- The group wakes. -/
def Chip.beginWake (c : Chip) (g : Nat) : Chip :=
  let off := c.groupState g == gsOff
  let rel := c.wakeRelease g
  let c := c.updPower (fun w => { w with lastSwitch := if off then some c.now else w.lastSwitch, wakes := AMap.set w.wakes g { begun := some c.now, fromOff := off, release := rel } })
  c.setFld (GRP_STATE g) GRP_STATE.PSTATE gsWaking

/-- R397: a granted wake begins: from Off its power switch closes, STAGGER_US after the one before it; from Retention its
rail rises. -/
def groupWake (g : Nat) (c : Chip) : Chip := if c.mayWake g then c.beginWake g else c

def execGroupWake (group : Nat) (s : State) : Host.Outcome State Fault Refusal := s.on (groupWake group)

/-- A group runs, at the point CAP names or throttled; its tiles are idle, and it stays up for the release of its wake. -/
def Chip.groupRuns (c : Chip) (g : Nat) : Chip :=
  let cap := min 2 (c.reg (GRP_OPP_CAP g) % 4)
  let c := (c.setFld (GRP_STATE g) GRP_STATE.PSTATE gsRunning).setFld (GRP_STATE g) GRP_STATE.OPP (if c.flag PWR_THERM_STATUS PWR_THERM_STATUS.THROTTLE then 2 else cap)
  let c := c.count (GRP_WAKES g) GRP_WAKES.COUNT 1
  let c := (List.range 16).foldl (fun (c : Chip) i => if c.tileState (16 * g + i) = tsOff then c.setTileState (16 * g + i) tsIdle else c) c
  let rel := (AMap.get? c.power.wakes g).bind (·.release)
  c.updPower (fun w => { w with wakes := AMap.del w.wakes g, heldFor := match rel with
    | some t => AMap.set w.heldFor g t
    | none => AMap.del w.heldFor g })

/-- R95, R397, R399, R406: a waking group runs. -/
def groupRunning (g : Nat) (c : Chip) : Chip := if 12 ≤ g ∨ c.groupState g ≠ gsWaking then c else c.groupRuns g

def execGroupRunning (group : Nat) (s : State) : Host.Outcome State Fault Refusal := s.on (groupRunning group)

/-- When the rotation tests a tile of the group next. -/
def Chip.nextTests (c : Chip) (g : Nat) : List Nat :=
  let per := c.reg SAF_ST_PERIOD * 1000000
  if per = 0 then []
  else (List.range 16).map (fun i =>
    let due := c.selfTest.period + i * (per / 16)
    if c.selfTest.tested.contains (16 * g + i) then due + per else due)

/-- R398: the known releases of a group; a hint whose end has passed is over. -/
def Chip.knownReleases (c : Chip) (g : Nat) : List Nat :=
  let on := fun (l : List Nat) => (tileGroups l).contains g
  (c.pendingRels.filter (fun r => on r.tiles)).map (·.release) ++
  (c.jobs.filter (fun j => j.waits && on j.tiles)).map (fun j => j.release.getD c.now) ++
  ((AMap.get? c.selfTest.goldenGroups g).map (·.due)).toList ++ c.nextTests g ++ (AMap.get? c.power.idleUntil g).toList.filter (fun t => timeBefore c.now t)

/-- R398: a group woken for a release stays Running for it. -/
def Chip.heldAwake (c : Chip) (g : Nat) : Bool :=
  match AMap.get? c.power.heldFor g with
  | none => false
  | some t => timeBefore c.now (t + 100000) && (c.pendingRels.any (fun r => r.release == t && (tileGroups r.tiles).contains g) ||
      c.jobs.any (fun j => j.waits && j.release == some t && (tileGroups j.tiles).contains g))

/-- R93: what a group loses when it goes Off. -/
def Chip.groupLost (c : Chip) (g : Nat) : Chip :=
  let lo := tileAddr (16 * g)
  let hi := tileAddr (16 * g + 16)
  let inside := fun (a : Nat) => decide (lo ≤ a) && decide (a < hi)
  let c := { c with mem := memClear c.mem lo hi, validLines := c.validLines.filter (fun l => !inside (l * 64)), cleanLines := c.cleanLines.filter (fun l => !inside (l * 64)), badWords := c.badWords.filter (fun p => !inside p.1), tiles := c.tiles.filter (fun t => t.1 / 16 != g), engines := c.engines.filter (fun e => e.1 / 3 != g) }
  (List.range 16).foldl (fun (c : Chip) i => (c.setReg (TILE_LFSR (16 * g + i)) (TILE_LFSR (16 * g + i)).reset).setTileState (16 * g + i) tsOff) c

/-- A group may sleep: it runs, no job and no test holds a tile of it, and no release of its wake is near. -/
def Chip.maySleep (c : Chip) (g : Nat) : Bool :=
  decide (g < 12) && c.groupState g == gsRunning && !(List.range 16).any (fun i => c.tileHeld (16 * g + i) || (c.tileTest (16 * g + i)).running) && !c.heldAwake g

/-- Its next known release lies far ahead. -/
def Chip.sleepsOff (c : Chip) (g : Nat) : Bool :=
  match c.knownReleases g with
  | [] => true
  | t :: l => timeBefore (c.now + c.budget.offGapUs * 1000) (l.foldl earlier t)

/-- The group sleeps, Off with everything in it lost, or in Retention. -/
def Chip.sleepGroup (c : Chip) (g : Nat) (off : Bool) : Chip :=
  let c := if off then c.groupLost g else c
  let c := c.setFld (GRP_STATE g) GRP_STATE.PSTATE (if off then gsOff else gsRetention)
  (c.updPower (fun w => { w with heldFor := AMap.del w.heldFor g })).giveBack (.wake g)

/-- R398: a group that holds no job goes to Retention, or Off when its next known release lies far ahead. -/
def groupSleep (g : Nat) (c : Chip) : Chip := if c.maySleep g then c.sleepGroup g (c.sleepsOff g) else c

def execGroupSleep (group : Nat) (s : State) : Host.Outcome State Fault Refusal := s.on (groupSleep group)

/-! ### Sluice (R400 to R403) -/

/-- A requester by kind (0 wake, 1 job, 2 pass, 3 tile test, 4 golden run, 5 copy) and number. -/
def askerOf (kind n : Nat) : Asker :=
  match kind with
  | 0 => .wake n
  | 1 => .job n
  | 2 => .pass n
  | 3 => .test n
  | 4 => .golden n
  | _ => .copy n

/-- An operation asks; one that already asks or holds a grant asks for nothing more.  Slice 64 stands for none. -/
def sluiceRequest (kind n units cls slice timeoutUs : Nat) (c : Chip) : Chip :=
  let w := askerOf kind n
  if c.granted w ∨ c.asking w ∨ 4 ≤ cls then c
  else c.ask cls [{ who := w, units := units, slice := if slice < 64 then some slice else none, cls := cls }] timeoutUs

def execSluiceRequest (kind n units cls slice timeoutUs : Nat) (s : State) : Host.Outcome State Fault Refusal :=
  s.on (sluiceRequest kind n units cls slice timeoutUs)

/-- The operation goes on, so its grant is held (Table — Sluice requesters). -/
def Chip.stillNeeds (c : Chip) : Asker → Bool
  | .wake g => c.groupState g == gsWaking || c.groupState g == gsRunning || c.jobs.any (fun j => j.waits && (tileGroups j.tiles).contains g) || c.pendingRels.any (fun r => (tileGroups r.tiles).contains g)
  | .job id => c.jobs.any (fun j => j.id == id && (j.phase != .saved || j.holds)) || c.pendingRels.any (fun r => r.packet == id)
  | .pass id => c.gfx.passes.any (fun p => p.id == id)
  | .test n => (c.tileTest n).running || (c.tileRun? n).isSome || c.rotates n
  | .golden g => c.jobs.any (fun j => match j.kind with
      | .golden _ h => h == g
      | _ => false)
  | .copy id => c.packets.any (fun p => p.id == id && p.open?)

/-- R403: an operation that is over returns its grant, and requests that now fit are granted. -/
def sluiceReturn (kind n : Nat) (c : Chip) : Chip :=
  let w := askerOf kind n
  if c.stillNeeds w then c else (c.withdraw w).giveBack w

def execSluiceReturn (kind n : Nat) (s : State) : Host.Outcome State Fault Refusal := s.on (sluiceReturn kind n)

/-- R202, R266, R314, R403: one part of a request whose time has run out. -/
def Chip.budgetDenied (c : Chip) (w : Asker) : Chip :=
  match w with
  | .job id => match c.job? id with
    | none => c
    | some j => match j.kind with
      | .golden _ g => (c.removeJob id).goldenFail g stBudgetDenied
      | _ => (c.count (GRP_BUDGET_DENIED j.lead) GRP_BUDGET_DENIED.COUNT 1).endJob id stBudgetDenied 0
  | .pass id => match c.gfx.passes.find? (fun p => p.id == id) with
    | some p => c.endPass p stBudgetDenied 0 0
    | none => c
  | .copy id => c.finish id stBudgetDenied
  | _ => c

/-- The requests whose timeout has passed. -/
def Chip.lateAsks (c : Chip) : List SluiceReq := c.sluice.waiting.filter (fun q => decide (q.deadline ≤ c.now))

/-- They leave Sluice, counted, and each of their operations ends. -/
def Chip.denyLate (c : Chip) : Chip :=
  let late := c.lateAsks
  let c := { c with sluice := { c.sluice with waiting := c.sluice.waiting.filter (fun q => decide (c.now < q.deadline)) } }.count PWR_DENIED PWR_DENIED.COUNT late.length
  ((late.flatMap (fun q => (q.parts.map (·.who)).eraseDups)).foldl Chip.budgetDenied c).sluiceServe

/-- R403: the requests whose timeout has passed complete with BUDGET_DENIED; the parts of one end together (R400). -/
def sluiceTimeout (c : Chip) : Chip := if c.lateAsks.isEmpty then c else c.denyLate

def execSluiceTimeout (s : State) : Host.Outcome State Fault Refusal := s.on sluiceTimeout

/-- R401: 1 µs passes for the bucket, kept in unit·µs. -/
def sluiceTick (c : Chip) : Chip :=
  let e := c.sluice.bucket + c.total - c.fld PWR_EFF PWR_EFF.SUST_EFF
  ({ c with sluice := { c.sluice with bucket := e } }).sluiceServe

def execSluiceTick (s : State) : Host.Outcome State Fault Refusal := s.on sluiceTick

/-! ### Thermal control (R404 to R408) -/

/-- Table — Thermal zones. -/
def zoneSensors (z : Nat) : List Nat :=
  if z < 4 then [z, 4 + z, 8 + z]
  else if z = 4 then [12, 13]
  else if z = 5 then [14]
  else if z = 6 then [15, 16, 17, 18, 19]
  else [20, 21, 22, 23]

/-- No sensor of the zone works: it counts as hot (R404). -/
def Chip.zoneDead (c : Chip) (z : Nat) : Bool := (zoneSensors z).all (fun n => c.power.faulty.contains n)

/-- Temperatures of the working sensors, in 1/16 °C. -/
def Chip.readings (c : Chip) (l : List Nat) : List (Nat × Int) :=
  (l.filter (fun n => !c.power.faulty.contains n && c.reg (PWR_TEMP n) != 0x7FFF)).map (fun n => (n, sx 16 (c.reg (PWR_TEMP n))))

/-- The highest of the working sensors of a zone (R404). -/
def Chip.zoneTemp (c : Chip) (z : Nat) : Option Int :=
  match (c.readings (zoneSensors z)).map (·.2) with
  | [] => none
  | t :: l => some (l.foldl max t)

/-- A sensor's reading taken; one out of range, which reads 0x7FFF, excludes the sensor from then on (log 46). -/
def Chip.takeReading (c : Chip) (n v : Nat) : Chip :=
  let v := v % 2 ^ 16
  if c.power.faulty.contains n then c
  else if v = 0x7FFF then
    let c := (c.updPower (fun w => { w with faulty := nsInsert w.faulty n })).setReg (PWR_TEMP n) 0x7FFF
    (c.setFld PWR_THERM_STATUS PWR_THERM_STATUS.SENSOR_FAULT 1).error { severity := 2, cause := 5, source := 14, detail := some n }
  else c.setReg (PWR_TEMP n) v

/-- R406: the hardware throttle, by the sensor that set it. -/
def Chip.throttle (c : Chip) (n : Nat) : Chip :=
  let c := (List.range 12).foldl (fun (c : Chip) g => if c.groupState g = gsRunning then c.setFld (GRP_STATE g) GRP_STATE.OPP 2 else c) c
  let c := (c.setFld PWR_THERM_STATUS PWR_THERM_STATUS.THROTTLE 1).count PWR_THROTTLES PWR_THROTTLES.COUNT 1
  (c.event 0 0x0502 n 0 1 0).error { severity := 1, cause := 1, source := 14, detail := some n }

/-- R407: every domain but the always-on domain is reset; the restart follows 5 s later. -/
def Part.shutdown (p : Part) : Part :=
  let c := p.chip
  let (x, c) := c.draw
  { chip := c.resetDomains.updPower (fun w => { w with mode := .shutdown, shutAt := c.now, cause := 9, owed := w.owed.filter (fun o => o.source != 14 || o.cause != 2) ++ [{ severity := 3, cause := 2, source := 14, detail := some (x.toNat) }] }), sec := p.sec.lost }

/-- R404: the 24 sensors are read, and the zones show theirs. -/
def Chip.sampled (c : Chip) (temps : List Nat) : Chip :=
  let c := (List.range 24).foldl (fun (c : Chip) n => match temps[n]? with
    | some v => c.takeReading n v
    | none => c) c
  (List.range 8).foldl (fun (c : Chip) z => match c.zoneTemp z with
    | some t => c.setFld (PWR_ZONE z) PWR_ZONE.TEMP (ux 16 t)
    | none => c.setFld (PWR_ZONE z) PWR_ZONE.TEMP 0x7FFF) c

/-- R407: a working sensor reads 130.0 °C or more. -/
def Chip.overheated (c : Chip) : Bool := (c.readings (List.range 24)).any (fun r => decide (2080 ≤ r.2))

/-- R406: the first working sensor at 120.0 °C or more sets the throttle. -/
def Chip.mayThrottle (c : Chip) : Chip :=
  match (c.readings (List.range 24)).find? (fun r => decide (1920 ≤ r.2)) with
  | some r => if c.flag PWR_THERM_STATUS PWR_THERM_STATUS.THROTTLE then c else c.throttle r.1
  | none => c

/-- The zones at or above EMERG_C, or dead. -/
def Chip.hotZones (c : Chip) : List Nat :=
  (List.range 8).filter (fun z => c.zoneDead z || (match c.zoneTemp z with
    | some t => decide ((c.budget.emergC * 16 : Nat) ≤ t)
    | none => false))

/-- R408: every zone is below TARGET_C. -/
def Chip.allCool (c : Chip) : Bool :=
  (List.range 8).all (fun z => match c.zoneTemp z with
    | some t => decide (t < (c.budget.targetC * 16 : Nat))
    | none => !c.zoneDead z)

/-- R408: the emergency ends. -/
def Chip.emergencyOver (c : Chip) : Chip :=
  let (x, c) := c.draw
  ((c.setFld PWR_THERM_STATUS PWR_THERM_STATUS.EMERGENCY 0).event 0 0x0503 (x.toNat % 2 ^ 16) 0 0 0).sluiceServe

/-- R404, R406, R408: what readings below the shutdown limit do. -/
def Chip.thermal (c : Chip) : Chip :=
  let cool := (c.readings (List.range 24)).all (fun r => decide (r.2 ≤ 1840))
  let c := c.mayThrottle
  let hot := c.hotZones
  let c := c.updPower (fun w => { w with coolSince := if cool then some (w.coolSince.getD c.now) else none, hotSince := hot.map (fun z => (z, AMap.getD w.hotSince z c.now)) })
  let c := if (List.range 8).any c.zoneDead then c.setFld PWR_EFF PWR_EFF.SUST_EFF c.budget.sustMin else c
  if c.flag PWR_THERM_STATUS PWR_THERM_STATUS.EMERGENCY && c.allCool then c.emergencyOver else c

/-- R404 to R408: the 24 sensors are read; zones, throttle, shutdown and the emergency's end follow. -/
def thermalSample (temps : List Nat) (p : Part) : Part :=
  let c := p.chip.sampled temps
  if c.overheated then Part.shutdown { p with chip := c } else { p with chip := c.thermal }

def execThermalSample (temps : List Nat) (s : State) : Host.Outcome State Fault Refusal := s.onPart (thermalSample temps)

/-- R406: 10 ms have passed with every sensor at 115.0 °C or less. -/
def Chip.throttleOver (c : Chip) : Bool :=
  c.flag PWR_THERM_STATUS PWR_THERM_STATUS.THROTTLE && (match c.power.coolSince with
    | some t => decide (t + 10000000 ≤ c.now)
    | none => false)

/-- The throttle ends; the event names no sensor the spec gives. -/
def Chip.liftThrottle (c : Chip) : Chip :=
  let (x, c) := c.draw
  (c.setFld PWR_THERM_STATUS PWR_THERM_STATUS.THROTTLE 0).event 0 0x0502 (x.toNat % 2 ^ 16) 0 0 0

/-- R406: the throttle ends after 10 ms of cool sensors; groups return to their point at their next wake. -/
def throttleLift (c : Chip) : Chip := if c.throttleOver then c.liftThrottle else c

def execThrottleLift (s : State) : Host.Outcome State Fault Refusal := s.on throttleLift

/-- R407: 5 s after a shutdown, a cold start that does not count as failed. -/
def shutdownRestart (p : Part) : Part :=
  if p.chip.power.mode = .shutdown ∧ p.chip.power.shutAt + 5000000000 ≤ p.chip.now then p.beginCold 9 else p

def execShutdownRestart (s : State) : Host.Outcome State Fault Refusal := s.onPart shutdownRestart

/-- A finite FP32 constant in units of 2^-160. -/
def fp32Fix (b : Nat) : Int := let d := (fp32.decode b).dy; shl d.m (d.e + 160)

/-- One zone's controller in units of 2^-160: the error times a gain is in units of 2^-164. -/
def Chip.piZone (c : Chip) (z : Nat) : Chip × Int :=
  match c.zoneTemp z with
  | none => (c, 0)
  | some t =>
    let e := t - (c.budget.targetC * 16 : Nat)
    let top : Int := ((c.budget.sust - c.budget.sustMin : Nat) : Int) * 2 ^ 160
    let i := min top (max 0 (AMap.getD c.power.integral z 0 + fp32Fix c.budget.ki * e / 16))
    let r := max 0 (fp32Fix c.budget.kp * e / 16 + i)
    let c := c.updPower (fun w => { w with integral := AMap.set w.integral z i })
    (c.setFld (PWR_ZONE z) PWR_ZONE.REDUCTION (min 0xFFFF (r / 2 ^ 160).toNat), r)

/-- Every zone's controller takes its step; the zone with the largest reduction, and it. -/
def Chip.piZones (c : Chip) : Chip × Nat × Int :=
  let (c, rs) := (List.range 8).foldl (fun (a : Chip × List (Nat × Int)) z => let (c, r) := a.1.piZone z; (c, a.2 ++ [(z, r)])) (c, [])
  (c, rs.foldl (fun (b : Nat × Int) x => if b.2 < x.2 then x else b) (0, 0))

/-- SUST_EFF: the sustained budget less the largest reduction, its minimum where a zone is dead. -/
def Chip.sustEff (c : Chip) (red : Int) : Nat :=
  if (List.range 8).any c.zoneDead then c.budget.sustMin
  else max c.budget.sustMin (((c.budget.sust : Int) * 2 ^ 160 - red) / 2 ^ 160).toNat

/-- The sustained budget is announced with the hottest zone's temperature. -/
def Chip.announceEff (c : Chip) (zone eff : Nat) : Chip :=
  let (x, c) := match c.zoneTemp zone with
    | some t => (ux 16 t, c)
    | none => let (x, c) := c.draw; (x.toNat % 2 ^ 16, c)
  (c.updPower (fun w => { w with announced := eff })).event 0 0x0501 zone 0 eff x

/-- The sustained budget of the loops, announced when it has changed by 4 units or more. -/
def Chip.setEff (c : Chip) (zone eff : Nat) : Chip :=
  let c := c.setFld PWR_EFF PWR_EFF.SUST_EFF eff
  (if 4 ≤ max (eff - c.power.announced) (c.power.announced - eff) then c.announceEff zone eff else c).sluiceServe

/-- R405: one millisecond of the PI loops; a change by 4 units or more since the last announcement writes THERMAL_LIMIT
(log 47). -/
def thermalPiStep (c : Chip) : Chip :=
  if c.serviceDown 2 then c
  else
    let (c, zone, red) := c.piZones
    c.setEff zone (c.sustEff red)

def execThermalPiStep (s : State) : Host.Outcome State Fault Refusal := s.on thermalPiStep

/-- An emergency: the flag, the event, the record. -/
def Chip.emergency (c : Chip) (zone : Nat) : Chip :=
  ((c.setFld PWR_THERM_STATUS PWR_THERM_STATUS.EMERGENCY 1).event 0 0x0503 zone 0 1 0).error { severity := 2, cause := 4, source := 14, detail := some zone }

/-- The blocks of SHED stop, and the jobs of the lower classes are asked to leave. -/
def Chip.shed (c : Chip) : Chip :=
  let (x, c) := c.draw
  let c := { c with jobs := c.jobs.map (fun (j : Job) => if 2 ≤ j.cls ∧ j.holds = true ∧ !j.isGolden then { j with wanted := some (j.wanted.getD x.toNat) } else j) }
  c.updPower (fun w => { w with gated := w.gated ||| (c.budget.shed &&& 0x1FFC) })

/-- A zone has stood at EMERG_C or above for 10 ms, with no emergency yet and power management up. -/
def Chip.emerges (c : Chip) (zone : Nat) : Bool :=
  (match AMap.get? c.power.hotSince zone with
    | some t => decide (t + 10000000 ≤ c.now)
    | none => false) && !c.flag PWR_THERM_STATUS PWR_THERM_STATUS.EMERGENCY && !c.serviceDown 2

/-- R408: a thermal emergency.  A block of SHED that is claimed resets the part instead. -/
def thermalEmergency (zone : Nat) (p : Part) : Part :=
  let c := p.chip
  if !c.emerges zone then p
  else if (c.emergency zone).claimed &&& (c.budget.shed &&& 0x1FC) ≠ 0 then Part.beginCold { p with chip := c.emergency zone } 10
  else { p with chip := (c.emergency zone).shed }

def execThermalEmergency (zone : Nat) (s : State) : Host.Outcome State Fault Refusal := s.onPart (thermalEmergency zone)

end Sys2Proof.Machine
end

