-- ==== Sys2Proof/Machine/Memsys.lean ====
section
/-!
DEFINITION. The memory system's commands: requests served by Millrace, zero-fills, leaky buckets, arbiters, and the
registers that choose check codes (14 R361 to R390).
-/

namespace Sys2Proof.Machine

/-! ### Check codes of DRAM (R364, R365) -/

/-- A region register written, its blocks not looked at yet. -/
def Chip.eccNew (c : Chip) (region : Nat) (limit : Bool) (v : Nat) : Chip :=
  if limit then c.setReg (MEM_ECC_LIMIT region) (bitsOf v 47 16 * 2 ^ 16)
  else c.setReg (MEM_ECC_BASE region) (bitsOf v 47 16 * 2 ^ 16 + v % 4)

/-- The blocks whose code changes lose their valid bits. -/
def Chip.eccApply (c new : Chip) : Chip := (c.validBlocks.filter (fun b => c.lightBlock b != new.lightBlock b)).foldl (fun (d : Chip) b => d.clearBlocks b 1) new

/-- A write that waits may be applied: no request to a block whose code it changes, accepted before it, is left. -/
def Chip.eccFree (c : Chip) (w : EccWrite) : Bool :=
  let new := c.eccNew w.region w.limit w.value
  let changes := fun (b : Nat) => c.lightBlock b != new.lightBlock b
  !(c.dramQueue ++ c.fills.flatMap (·.waiting)).any (fun q => decide (q.seq < w.mark) && (pagesOf q.addr q.len).any changes) &&
  !c.fills.any (fun f => changes f.block && f.waiting.isEmpty) &&
  !c.tiles.any (fun t => t.2.rills.any (fun x => x.2.reqs.any (fun q => q.place == .issued && changes (q.line * 64 / pageSize)) || x.2.writes.any (fun q => q.place == .issued && changes (q.addr / pageSize))))

/-- The writes that wait are applied in their order, each once it may be. -/
def Chip.eccServe : List EccWrite → Chip → Chip
  | [], c => { c with eccHeld := [] }
  | w :: l, c => if c.eccFree w then Chip.eccServe l (c.eccApply (c.eccNew w.region w.limit w.value)) else { c with eccHeld := w :: l }

/-- R365: what waits for requests that have completed meanwhile. -/
def Chip.eccService (c : Chip) : Chip := if c.eccHeld.isEmpty then c else Chip.eccServe c.eccHeld c

/-! ### Millrace (R361, R378 to R382) -/

/-- Two requests share a sector. -/
def DramReq.touches (p q : DramReq) : Bool := (sectorsOf p.addr p.len).any (fun s => (sectorsOf q.addr q.len).contains s)

/-- Two requests touch one block. -/
def DramReq.sameBlock (c : Chip) (p q : DramReq) : Bool := (pagesOf p.addr p.len).any (fun b => (pagesOf q.addr q.len).contains b && !c.validBlocks.contains b)

def Chip.reply (c : Chip) (master id : Nat) (st : ReplyStatus) (b : List Byte) : Chip :=
  { c with replies := AMap.set c.replies master { id := id, status := st, data := b } }

/-- The host port that a master is, in ENDPOINT mode (R440, R443). -/
def Chip.hostPort (c : Chip) (m : Nat) : Option Nat :=
  if (m = 0x58 ∨ m = 0x59) ∧ c.fld (LNK_PORT_STATUS (m - 0x58)) LNK_PORT_STATUS.MODE = 1 then some (m - 0x58) else none

/-- R445: a posted write of a host failed: its record, its events and the message to the host. -/
def Chip.postedFail (c : Chip) (port : Nat) (q : Req) (cause : Nat) : Chip :=
  let c := c.count LNK_POSTED_FAILS LNK_POSTED_FAILS.COUNT 1
  let c := c.error { severity := 0, cause := 1, source := 12, unit := port, master := q.master, slice := q.tag, addr := q.addr, detail := some cause }
  let d1 := q.master % 256 + cause % 256 * 256
  let c := if q.tag = 0 then c else c.event q.tag 0x0006 0xFFFF 0 q.addr d1
  let c := c.event 0 0x0006 0xFFFF 0 q.addr d1
  let c := if (AMap.get? c.link.headerLog port).isSome then c
    else { c with link := { c.link with headerLog := AMap.set c.link.headerLog port (q.addr, q.len, cause) } }
  c.send (.aer port) []

/-- A request ends without its effect: a bus error, or what a host sees of it (R40, R445). -/
def Chip.failed (c : Chip) (q : Req) (id cause : Nat) : Chip :=
  match c.hostPort q.master with
  | some p =>
    if q.write then c.postedFail p q cause
    else (c.error { severity := 0, cause := 2, source := 12, unit := p, master := q.master, slice := q.tag, addr := q.addr }).reply q.master id .aborted []
  | none => c.reply q.master id .busError (if q.write then [] else List.replicate q.len 0)

/-- The answer to a DRAM request; a host sees marked data as a target error. -/
def Chip.answer (c : Chip) (q : DramReq) (st : ReplyStatus) (b : List Byte) : Chip :=
  let r : Req := { master := q.master, tag := q.tag, world := q.world, addr := q.addr, len := q.len, write := q.write }
  if st = .busError ∨ (st = .marked ∧ (c.hostPort q.master).isSome = true) then c.failed r q.id 3
  else c.reply q.master q.id st b

/-- A request leaves the queue, and one that waits before the channel may take its place. -/
def Chip.unqueue (c : Chip) (q : DramReq) : Chip :=
  Chip.channelChanged { c with dramQueue := c.dramQueue.filter (fun r => r.id != q.id) } q.addr

/-- The request as its target's checks see it. -/
def DramReq.req (q : DramReq) : Req := { master := q.master, tag := q.tag, world := q.world, addr := q.addr, len := q.len, write := q.write }

/-- Older requests of the queue. -/
def Chip.olderThan (c : Chip) (q : DramReq) : List DramReq := c.dramQueue.filter (fun r => decide (r.seq < q.seq))

/-- The request covers one whole sector. -/
def DramReq.whole (q : DramReq) : Bool := q.addr % 64 == 0 && q.len == 64

/-- R373: a fill that the request must wait for: one whose triggering write was accepted before it. -/
def Chip.fillOf (c : Chip) (q : DramReq) : Option Fill :=
  c.fills.find? (fun f => (pagesOf q.addr q.len).contains f.block && (match f.waiting with
    | w :: _ => decide (w.seq < q.seq)
    | [] => true))

def Chip.waitFill (c : Chip) (f : Fill) (q : DramReq) : Chip :=
  { c with fills := c.fills.map (fun g => if g.block = f.block then { g with waiting := g.waiting ++ [q] } else g) }

/-- An older request that this one may not pass (R372, R378). -/
def Chip.blocked (c : Chip) (q : DramReq) : Bool := (c.olderThan q).any (fun r => (q.write || r.write) && (r.touches q || r.sameBlock c q))

/-- The request asks for a slot of its channel: nothing blocks it, no fill holds it, and neither the valid table nor an older
write answers it (R371, R372, R379). -/
def Chip.wantsSlot (c : Chip) (ch : Nat) (q : DramReq) : Bool :=
  channelOf q.addr == ch && !c.blocked q && (c.fillOf q).isNone &&
    (if q.write then (pagesOf q.addr q.len).all c.validBlocks.contains else (pagesOf q.addr q.len).any c.validBlocks.contains)

/-- R380: the tier that a request qualifies for. -/
def Chip.tierOf (c : Chip) (ch : Nat) (q : DramReq) : Nat :=
  if q.cls = 0 ∧ 0 < (c.mrc ch).reserve then 2 else if 0 < AMap.getD (c.mrc ch).tokens q.tag 0 then 3 else 4

/-- The request lies in the open row of its bank (R382). -/
def Chip.rowHit (c : Chip) (ch : Nat) (q : DramReq) : Bool := AMap.get? (c.mrc ch).rows (bankOf q.addr) == some (dramRow q.addr)

/-- HIT_CAP row hits have been taken in a row on the request's bank while another request to the bank waits (R382). -/
def Chip.hitCapped (c : Chip) (ch : Nat) (q : DramReq) : Bool :=
  decide (c.fld MRC_CTRL MRC_CTRL.HIT_CAP ≤ AMap.getD (c.mrc ch).hits (bankOf q.addr) 0) &&
    c.dramQueue.any (fun r => r.id != q.id && channelOf r.addr == ch && bankOf r.addr == bankOf q.addr)

/-- The oldest of some requests. -/
def oldestReq : List DramReq → Option DramReq
  | [] => none
  | q :: l => some (l.foldl (fun b x => if x.seq < b.seq then x else b) q)

/-- Those of some requests for which a number is the least. -/
def leastBy (f : DramReq → Nat) (l : List DramReq) : List DramReq := l.filter (fun q => l.all (fun r => decide (f q ≤ f r)))

/-- R385, R386: while a class queue holds the grant of its channel's arbiter and asks for slots, its requests alone are
served. -/
def Chip.chanGrant (c : Chip) (ch : Nat) (w : List DramReq) : List DramReq :=
  match (c.arb ch).running with
  | none => w
  | some (r, _, _) => if w.any (fun q => q.cls == r) then w.filter (fun q => q.cls == r) else w

/-- R385: the grant in progress is that of a longest waiter, whose oldest request goes whatever its tier. -/
def Chip.longGrant (c : Chip) (ch : Nat) (w : List DramReq) : Bool :=
  match (c.arb ch).running with
  | none => false
  | some (r, _, safe) => safe && r != 0 && w.any (fun q => q.cls == r)

/-- R380, R382, R385: the request that a channel serves next: of the highest tier that is asked for and its highest class,
the oldest request to an open row, unless HIT_CAP or AGE_NS gives the turn to the oldest of them all.  R382 has the oldest "of
the tier" wait AGE_NS; within the tier the class stands first, as R380 has it (DEDUCED, log 105). -/
def Chip.pickReq (c : Chip) (ch : Nat) : Option DramReq :=
  let w := c.dramQueue.filter (c.wantsSlot ch)
  if c.longGrant ch w then oldestReq (c.chanGrant ch w)
  else
    let l := leastBy (·.cls) (leastBy (c.tierOf ch) (c.chanGrant ch w))
    match oldestReq l with
    | none => none
    | some o =>
      if o.since + c.fld MRC_CTRL MRC_CTRL.AGE_NS ≤ c.now then some o
      else match oldestReq (l.filter (c.rowHit ch)) with
        | none => some o
        | some h => if c.hitCapped ch h then some o else some h

/-- It is the request's turn at its channel. -/
def Chip.onTurn (c : Chip) (q : DramReq) : Bool := (c.pickReq (channelOf q.addr)).any (fun r => r.id == q.id)

/-- A read that uses no DRAM slot: of blocks never written (R371). -/
def Chip.zeroRead (c : Chip) (q : DramReq) : Bool := (pagesOf q.addr q.len).all (fun p => !c.validBlocks.contains p)

/-- R367, R371: a read served: zeros of blocks that were never written, else the checked data. -/
def Chip.serveRead (c : Chip) (q : DramReq) : Chip :=
  if c.zeroRead q then
    (c.count MEM_ZERO_READS MEM_ZERO_READS.COUNT 1).answer q .value (List.replicate q.len 0)
  else
    let c := c.sectors q.cls q.tag q.addr q.len
    let (o, c) := c.checkWords q.req (c.codewords q.addr q.len)
    c.answer q (if o = .ok then .value else .marked) (c.readBack q.addr q.len)

/-- R379: reads of the same sector that wait with no write between are served by the same access. -/
def Chip.mergeReads (c : Chip) (q : DramReq) : Chip :=
  let same := c.dramQueue.filter (fun r => !r.write && sectorsOf r.addr r.len == sectorsOf q.addr q.len && (sectorsOf q.addr q.len).length == 1 &&
    !(c.olderThan r).any (fun w => w.write && (w.touches r || w.sameBlock c r)))
  same.foldl (fun (c : Chip) (r : DramReq) =>
    let c := (c.unqueue r).count (MRC_CH_COALESCED (channelOf r.addr)) MRC_CH_COALESCED.COUNT 1
    let bad := (c.codewords r.addr r.len).any (fun w => c.wordBad w.1)
    c.answer r (if bad then .marked else .value) (c.readBack r.addr r.len)) c

/-- A DRAM read is served (R367, R371, R373, R378, R379); one that needs a slot of its channel waits for its turn at it
(R380, R382). -/
def dramRead (id : Nat) (c : Chip) : Chip :=
  match c.dramQueue.find? (fun q => q.id == id && !q.write) with
  | none => c
  | some q =>
    let c := c.lookValid q.addr q.len
    match c.fillOf q with
    | some f => (c.unqueue q).waitFill f q
    | none =>
      match ((c.olderThan q).filter (fun w => w.write && w.touches q)).getLast? with
      | some w =>
        if w.whole && w.addr / 64 = q.addr / 64 && (q.addr + q.len - 1) / 64 = q.addr / 64 then
          ((c.unqueue q).count (MRC_CH_COALESCED (channelOf q.addr)) MRC_CH_COALESCED.COUNT 1).answer q .value ((w.data.drop (q.addr % 64)).take q.len)
        else c
      | none =>
        if c.blocked q then c
        else if !c.zeroRead q && !c.onTurn q then c
        else ((c.unqueue q).serveRead q).mergeReads q

def execDramRead (id : Nat) (s : State) : Host.Outcome State Fault Refusal := s.on (fun c => (dramRead id c).eccService)

/-- R368: a write to valid blocks: whole, as a read-modify-write, or refused. -/
def Chip.serveWrite (c : Chip) (q : DramReq) : Chip :=
  let parts := c.writesPart q.addr q.len
  let c := c.sectors q.cls q.tag q.addr q.len
  let c := if parts then c.sectors q.cls q.tag q.addr q.len else c
  match c.rmwBad q.addr q.len with
  | some w => (c.memRecord w 4 q.req).answer q .busError []
  | none =>
    let c := if cpuMaster q.master then c else c.logRange q.tag q.addr q.len
    (c.store q.addr q.data).answer q .value []

/-- R379: whole-sector writes of the same sector that wait, with no read between, are the same DRAM write. -/
def Chip.mergeWrites (c : Chip) (q : DramReq) : Chip :=
  let same := c.dramQueue.filter (fun r => r.write && r.whole && r.addr == q.addr &&
    !(c.olderThan r).any (fun x => x.touches r && !(x.write && x.whole)))
  same.foldl (fun (c : Chip) (r : DramReq) =>
    let c := (c.unqueue r).count (MRC_CH_COALESCED (channelOf r.addr)) MRC_CH_COALESCED.COUNT 1
    let c := if cpuMaster r.master then c else c.logRange r.tag r.addr r.len
    (c.store r.addr r.data).answer r .value []) c

/-- R372: a write that meets blocks never written starts a zero-fill of each, and waits. -/
def Chip.startFills (c : Chip) (q : DramReq) : Chip :=
  match (pagesOf q.addr q.len).filter (fun p => !c.validBlocks.contains p) with
  | [] => c
  | b :: l => { c with fills := c.fills ++ ({ block := b, slice := q.tag, cls := q.cls, waiting := [q] } : Fill) :: l.map (fun p => ({ block := p, slice := q.tag, cls := q.cls } : Fill)) }

/-- A DRAM write is applied in its turn at its channel (R380, R382), or starts a zero-fill (R368, R372, R373, R378). -/
def dramWrite (id : Nat) (c : Chip) : Chip :=
  match c.dramQueue.find? (fun q => q.id == id && q.write) with
  | none => c
  | some q =>
    let c := c.lookValid q.addr q.len
    if c.blocked q then c
    else match c.fillOf q with
      | some f => (c.unqueue q).waitFill f q
      | none =>
        if (pagesOf q.addr q.len).all c.validBlocks.contains then
          if c.onTurn q then
            let c := (c.unqueue q).serveWrite q
            if q.whole then c.mergeWrites q else c
          else c
        else (c.unqueue q).startFills q

def execDramWrite (id : Nat) (s : State) : Host.Outcome State Fault Refusal := s.on (fun c => (dramWrite id c).eccService)

/-- R372: the last run of a fill ends; fills on one channel end in the order they were started. -/
def zeroFillDone (block : Nat) (c : Chip) : Chip :=
  match c.fills.find? (fun f => channelOf (f.block * pageSize) == channelOf (block * pageSize)) with
  | some f => if f.block = block then c.fillRuns f else c
  | none => c

def execZeroFillDone (block : Nat) (s : State) : Host.Outcome State Fault Refusal := s.on (fun c => (zeroFillDone block c).eccService)

/-- The tokens a window hands to the slices. -/
def Chip.windowTokens (c : Chip) : AMap Nat :=
  (List.range 64).filterMap (fun s =>
    let n := c.fld (MRC_SHARE s) MRC_SHARE.PCT * 1024 / 100
    if n = 0 then none else some (s, n))

/-- R380: a channel's window begins: tokens of the last one lapse and new ones are handed out. -/
def millraceWindow (ch : Nat) (c : Chip) : Chip :=
  if 16 ≤ ch then c else c.setMrc ch { c.mrc ch with reserve := c.fld MRC_RESERVE MRC_RESERVE.SAFETY * 1024 / 100, tokens := c.windowTokens }

def execMillraceWindow (channel : Nat) (s : State) : Host.Outcome State Fault Refusal := s.on (millraceWindow channel)

/-- R381: a periodic calibration; one that fails leaves the last trained values and writes a record. -/
def dramCalibration (ch : Nat) (ok : Bool) (c : Chip) : Chip :=
  if 16 ≤ ch ∨ ok then c else c.error { severity := 2, cause := 7, source := 1, unit := ch }

def execDramCalibration (channel : Nat) (ok : Bool) (s : State) : Host.Outcome State Fault Refusal := s.on (dramCalibration channel ok)

/-! ### The mesh: its nodes and its routes (R13, R15, R383) -/

/-- Node numbers of R383: 0 to 11 group nodes; 12 to 15 N0 to N3; 16 to 19 S0 to S3; 20 to 22 W0 to W2; 23 to 25 E0 to E2. -/
def isEdge (n : Nat) : Bool := decide (12 ≤ n) && decide (n ≤ 25)

/-- R13: the column and the row of a group node. -/
def nodeColumn (n : Nat) : Nat := n % 4
def nodeRow (n : Nat) : Nat := n / 4

/-- Table — Edge nodes: the one group node that an edge node links to; a group node stands for itself. -/
def groupOf (n : Nat) : Nat :=
  if n < 12 then n else if n < 16 then n - 12 else if n < 20 then n - 8 else if n < 23 then 4 * (n - 20) else 4 * (n - 23) + 3

/-- The output of a group node that leads to an edge node: 0 north, 1 east, 2 south, 3 west. -/
def edgeSide (n : Nat) : Nat := if n < 16 then 0 else if n < 20 then 2 else if n < 23 then 3 else 1

/-- The node of a DRAM channel (Table — Edge nodes). -/
def channelNode (ch : Nat) : Nat := if ch < 8 then 12 + ch / 2 else 16 + (ch - 8) / 2

/-- The node that a master sits on; the twelve channels of the save engine sit on the group nodes, one each. -/
def masterNode (m : Nat) : Option Nat :=
  if m < 0x08 then some 20
  else if m < 0x10 then some 21
  else if 0x10 ≤ m ∧ m ≤ 0x1B then some (m - 0x10)
  else if m = 0x30 ∨ m = 0x34 then some 23
  else if 0x38 ≤ m ∧ m ≤ 0x40 then some 22
  else if m = 0x58 ∨ m = 0x59 ∨ m = 0x5C ∨ m = 0x5D then some 24
  else if m = 0x48 ∨ m = 0x4C ∨ m = 0x61 ∨ (0x50 ≤ m ∧ m ≤ 0x53) then some 25
  else none

/-- The node that serves an address, where Table — Edge nodes or R13 names it: a channel's, a group's, a unit's. -/
def addressNode (t a : Nat) : Option Nat :=
  if t = 0 then some (channelNode (channelOf a))
  else if t ≤ 12 then some (t - 1)
  else if t ≤ 24 then some (t - 13)
  else match t with
    | 27 | 30 | 31 => if a % 2 ^ 24 / 2 ^ 16 < 12 then some (a % 2 ^ 24 / 2 ^ 16) else none
    | 28 | 29 => if a % 2 ^ 24 / 2 ^ 16 < 192 then some (a % 2 ^ 24 / 2 ^ 20) else none
    | 35 | 47 => some 23
    | 36 | 48 => some 22
    | 37 | 38 | 39 | 46 => some 25
    | 40 | 42 | 43 | 44 | 49 => some 24
    | _ => none

/-- R15: from one group node to another, along its row, then along its column. -/
def groupRoute (g h : Nat) : List Nat :=
  let x := fun (i : Nat) => if nodeColumn g ≤ nodeColumn h then nodeColumn g + i else nodeColumn g - i
  let y := fun (i : Nat) => if nodeRow g ≤ nodeRow h then nodeRow g + i else nodeRow g - i
  (List.range (Nat.max (nodeColumn g) (nodeColumn h) - Nat.min (nodeColumn g) (nodeColumn h))).map (fun i => 4 * nodeRow g + x i) ++
    (List.range (Nat.max (nodeRow g) (nodeRow h) - Nat.min (nodeRow g) (nodeRow h) + 1)).map (fun i => 4 * y i + nodeColumn h)

/-- R15: the nodes that a request passes: its own, its group node, the row, the column, and the target's edge node where
the target sits on one. -/
def requestRoute (src dst : Nat) : List Nat :=
  (if isEdge src then [src] else []) ++ groupRoute (groupOf src) (groupOf dst) ++ (if isEdge dst then [dst] else [])

/-- R15: a response takes the same rule in the reverse direction: from the target's node to the source's. -/
def responseRoute (src dst : Nat) : List Nat := requestRoute dst src

/-- The output of a node that leads to its neighbour. -/
def outputTo (n m : Nat) : Nat :=
  if isEdge n then 5
  else if isEdge m then edgeSide m
  else if nodeColumn m = nodeColumn n then (if nodeRow m < nodeRow n then 0 else 2)
  else if nodeColumn n < nodeColumn m then 1 else 3

/-- The arbiters of the outputs that a route takes; the last leads to the node's own sources and targets. -/
def routeOutputs : List Nat → List Nat
  | [] => []
  | [n] => [64 + 8 * n + 4]
  | n :: m :: l => (64 + 8 * n + outputTo n m) :: routeOutputs (m :: l)

/-! ### Arbiters (R383 to R388) -/

/-- A requester that asks: its number, its tier, its class, and the clocks it has waited. -/
abbrev Asks := Nat × Nat × Nat × Nat

/-- Requesters of an arbiter (Table — Arbiters and requesters); none where no arbiter has the number.  An edge node has its
local sources and its one link, 4 and 5 (R13). -/
def requesters (n : Nat) : Nat :=
  if n < 16 then 5 else if n < 28 then 3
  else if 64 ≤ n ∧ n < 64 + 8 * 26 ∧ (n - 64) % 8 < 6 ∧ (isEdge ((n - 64) / 8) = false ∨ 4 ≤ (n - 64) % 8) then 6 else 0

/-- An arbiter has the requester. -/
def hasRequester (n r : Nat) : Bool := decide (r < requesters n) && (decide (n < 64) || !isEdge ((n - 64) / 8) || decide (4 ≤ r))

/-- N of the arbiter's kind. -/
def Chip.arbN (c : Chip) (n : Nat) : Nat :=
  if n < 16 then c.fld MEM_ARB_CTRL MEM_ARB_CTRL.N_DRAM else if n < 28 then c.fld MEM_ARB_CTRL MEM_ARB_CTRL.N_MC else c.fld MEM_ARB_CTRL MEM_ARB_CTRL.N_MESH

/-- MEM_ARB_GRANTS, MEM_ARB_WAIT and MEM_ARB_LONGEST show the selected requester (R388). -/
def Chip.showArb (c : Chip) : Chip :=
  let a := c.arb (c.fld MEM_ARB_SEL MEM_ARB_SEL.ARBITER)
  let r := c.fld MEM_ARB_SEL MEM_ARB_SEL.REQUESTER
  ((c.setReg MEM_ARB_GRANTS (AMap.getD a.grants r 0)).setReg MEM_ARB_WAIT (AMap.getD a.waits r 0)).setReg MEM_ARB_LONGEST (AMap.getD a.longest r 0)

/-- The requester that has waited longest. -/
def longestAsk : List Asks → Option Asks
  | [] => none
  | a :: l => some (l.foldl (fun b x => if b.2.2.2 < x.2.2.2 then x else b) a)

/-- R385: the highest tier, then the lowest class value, then the next in turn after the last winner. -/
def rankAsk (last n : Nat) (l : List Asks) : Option Asks :=
  let turn := fun (a : Asks) => (a.1 + n - (last + 1) % n) % n
  let less := fun (a b : Asks) => decide (a.2.1 < b.2.1) || (a.2.1 == b.2.1 && (decide (a.2.2.1 < b.2.2.1) || (a.2.2.1 == b.2.2.1 && decide (turn a < turn b))))
  match l with
  | [] => none
  | a :: l => some (l.foldl (fun b x => if less x b then x else b) a)

/-- A requester wins: its grant and its wait counted, unless it resumes what was taken from it (R386). -/
def Arbiter.win (a : Arbiter) (w : Asks) (longWait : Bool) : Arbiter :=
  let again := a.stopped.contains w.1
  { a with
    decided := if again then a.decided else a.decided + 1
    last := w.1
    running := some (w.1, w.2.2.1, longWait || w.2.2.1 == 0)
    stopped := a.stopped.filter (· != w.1)
    long := a.long.filter (· != w.1)
    grants := if again then a.grants else AMap.upd a.grants w.1 0 (fun g => satAdd 64 g 1)
    waits := AMap.upd a.waits w.1 0 (fun g => satAdd 64 g w.2.2.2)
    longest := AMap.upd a.longest w.1 0 (max w.2.2.2) }

/-- R388: a wait that reaches the limit writes one record for each episode. -/
def Chip.longWaits (c : Chip) (n : Nat) (l : List Asks) : Chip :=
  let lim := c.reg MEM_ARB_WAIT_LIMIT
  l.foldl (fun (c : Chip) w =>
    let a := c.arb n
    if lim = 0 ∨ w.2.2.2 < lim ∨ a.long.contains w.1 = true then c
    else (c.setArb n { a with long := w.1 :: a.long }).error { severity := 0, cause := 1, source := 4, unit := n, detail := some (w.2.2.2) }) c

/-- The turn is one of the long waits' (R387). -/
def Chip.longTurn (c : Chip) (n : Nat) : Bool := decide (0 < c.arbN n) && (c.arb n).decided % c.arbN n == c.arbN n - 1

/-- The winner when no transfer is in progress: the longest wait in its turn, else the rank of R385. -/
def Chip.arbWinner (c : Chip) (n : Nat) (asks : List Asks) : Option Asks :=
  if c.longTurn n then longestAsk asks else rankAsk (c.arb n).last (requesters n) asks

/-- The request of a higher class that may take a transfer in progress from an unprotected holder (R386). -/
def Chip.arbTaker (c : Chip) (n cls : Nat) (safe : Bool) (asks : List Asks) : Option Asks :=
  if safe then none else rankAsk (c.arb n).last (requesters n) (asks.filter (fun x => decide (x.2.2.1 < cls)))

/-- What an arbiter decides, its transfer in progress given. -/
def Chip.arbDecide (c : Chip) (n : Nat) (asks : List Asks) (running : Option (Nat × Nat × Bool)) : Arbiter :=
  let a := c.arb n
  match running with
  | none => match c.arbWinner n asks with
    | none => { a with running := none }
    | some w => a.win w (c.longTurn n)
  | some (h, cls, safe) => match c.arbTaker n cls safe asks with
    | none => a
    | some w => ({ a with stopped := h :: a.stopped }).win w false

/-- R384 to R386: an arbiter decides among the requesters that ask: at the end of the transfer in progress, or, in it, for a
request of a higher class than an unprotected holder's. -/
def arbiterGrant (n : Nat) (asks : List (Nat × Nat × Nat × Nat)) (ended : Bool) (c : Chip) : Chip :=
  let asks := asks.filter (fun a => hasRequester n a.1)
  let c := c.longWaits n asks
  (c.setArb n (c.arbDecide n asks (if ended then none else (c.arb n).running))).showArb

def execArbiterGrant (arbiter : Nat) (asks : List (Nat × Nat × Nat × Nat)) (ended : Bool) (s : State) : Host.Outcome State Fault Refusal :=
  s.on (arbiterGrant arbiter asks ended)

/-! ### Leaky buckets and check codes (R364 to R366, R377) -/

/-- The kind of a memory instance (Table — Memory instances). -/
def instanceKind (n : Nat) : Nat := if n < 16 then 0 else if n < 28 then 1 else if n < 224 then 2 else 3

/-- R377: LEAK_MS have passed for an instance: its count falls by one if it is above zero. -/
def leakTick (n : Nat) (c : Chip) : Chip :=
  if 256 ≤ n then c else c.setFld (MEM_LB n) MEM_LB.COUNT (c.fld (MEM_LB n) MEM_LB.COUNT - 1)

def execLeakTick (inst : Nat) (s : State) : Host.Outcome State Fault Refusal := s.on (leakTick inst)

/-- R364, R365: a write of a region register with slice tag 0: it waits for the requests to the blocks whose code it
changes, clears their valid bits, and applies. -/
def eccRegionWrite (tag region : Nat) (limit : Bool) (v : W64) (c : Chip) : Chip :=
  if tag ≠ 0 ∨ 16 ≤ region then c
  else Chip.eccService { c with eccHeld := c.eccHeld ++ [{ region := region, limit := limit, value := v.toNat, mark := c.accepted }] }

def execEccRegionWrite (tag region : Nat) (limit : Bool) (value : W64) (s : State) : Host.Outcome State Fault Refusal :=
  s.on (eccRegionWrite tag region limit value)

/-- The ranges of a tile whose code changes lose their lines, and the map is written. -/
def Chip.codeMap (c : Chip) (tile new : Nat) : Chip :=
  let old := c.fld (TILE_CODE_MAP tile) TILE_CODE_MAP.MAP
  let c := ((List.range 12).filter (fun i => bitOf old i != bitOf new i)).foldl (fun (c : Chip) i => c.clearLines (tileAddr tile + i * 0x10000) 0x10000) c
  c.setFld (TILE_CODE_MAP tile) TILE_CODE_MAP.MAP new

/-- R366: a write of TILE_CODE_MAP with slice tag 0 while the tile holds no job clears the ranges whose code changes. -/
def tileCodeMapWrite (tag tile : Nat) (v : W32) (c : Chip) : Chip :=
  if tag ≠ 0 ∨ 192 ≤ tile ∨ c.tileHeld tile = true then c else c.codeMap tile (v.toNat % 2 ^ 12)

def execTileCodeMapWrite (tag tile : Nat) (value : W32) (s : State) : Host.Outcome State Fault Refusal := s.on (tileCodeMapWrite tag tile value)

end Sys2Proof.Machine
end

