-- ==== Sys2Proof/Machine/Firmware.lean ====
section
/-!
DEFINITION. The firmware complex: failing cores and restarting services, the log and trace rings, and the forerunner
mailboxes (16 R426 to R438, 03 R88 to R90).
-/

namespace Sys2Proof.Machine

/-! ### Failing cores (R427 to R430) -/

def Chip.updFw (c : Chip) (f : Firmware → Firmware) : Chip := { c with fw := f c.fw }

def Chip.coreState (c : Chip) (k : Nat) : Nat := c.fld (CTL_CORE_STATUS k) CTL_CORE_STATUS.STATE

/-- SERVICES of every core: KERNEL where the core runs, and the services placed on it. -/
def Chip.showServices (c : Chip) : Chip :=
  (List.range 4).foldl (fun (c : Chip) k =>
    let m := c.fw.place.foldl (fun m s => if s.2 = k then m ||| 2 ^ s.1 else m) (b2n (c.coreState k == 0))
    c.setFld (CTL_CORE_STATUS k) CTL_CORE_STATUS.SERVICES m) c

def Chip.setCore (c : Chip) (k st : Nat) : Chip := c.setFld (CTL_CORE_STATUS k) CTL_CORE_STATUS.STATE st

/-- The running core that carries the fewest services, ties to the lower number. -/
def Chip.idlestCore (c : Chip) : Option Nat :=
  let n := fun k => (c.fw.place.filter (fun s => s.2 == k)).length
  match (List.range 4).filter (fun k => c.coreState k == 0) with
  | [] => none
  | k :: l => some (l.foldl (fun b x => if n x < n b then x else b) k)

/-- Times of a list not older than a span. -/
def recent (now span : Nat) (l : List Nat) : List Nat := l.filter (fun t => decide (now < t + span))

/-- R430: the part is started warm at once, without a drain; what was in flight is lost. -/
def Part.storm (p : Part) : Part :=
  let (x, c) := p.chip.draw
  let c := c.updPower (fun w => { w with owed := w.owed ++ [{ severity := 3, cause := 5, source := 11, detail := some (x.toNat) }] })
  Part.beginWarm { chip := c.retain, sec := p.sec.keptWarm } 4

/-- R429 step 1: one service of the failed core moves and restarts. -/
def Chip.moveService (c : Chip) (failed s : Nat) : Chip :=
  match c.idlestCore with
  | none => c
  | some k => c.updFw (fun f => { f with place := AMap.set f.place s k, down := AMap.set f.down s failed, serviceFails := AMap.set f.serviceFails s (c.now :: recent c.now 10000000000 (AMap.getD f.serviceFails s [])) })

/-- The packet waits for a service that stands on a core, and it is its ring's turn there. -/
def Chip.mayBeHeld (c : Chip) (k : Nat) (p : Packet) : Bool :=
  p.firmware && p.phase == .started && !p.taken && c.firmwareTurn p && AMap.get? c.fw.place (serviceOf p.op) == some k

/-- R88: when a core fails, its services may have taken a packet whose turn it was and not committed it.  Which of them they
had taken the spec leaves open: a free value for each (log 108). -/
def Chip.heldAtLoss (c : Chip) (k : Nat) : Chip :=
  (c.packets.filter (c.mayBeHeld k)).foldl (fun (c : Chip) p =>
    let (x, c) := c.draw
    if bitOf x.toNat 0 then c.take p.id else c) c

/-- R429: a core that fails is counted, recorded and, at its third failure in a second, held; its services move. -/
def Chip.coreLost (c : Chip) (k : Nat) (e : ErrRec) : Chip :=
  let c := (((c.heldAtLoss k).setCore k 3).count CTL_RESTARTS CTL_RESTARTS.COUNT 1).error e
  let fails := c.now :: recent c.now 1000000000 (AMap.getD c.fw.coreFails k [])
  let c := c.updFw (fun f => { f with coreFails := AMap.set f.coreFails k fails })
  let c := if 3 ≤ fails.length then
      let (x, c) := c.draw
      (c.setCore k 2).error { severity := 2, cause := 4, source := 11, unit := k, detail := some (x.toNat) }
    else c
  (((c.fw.place.filter (fun s => s.2 == k)).map (·.1)).foldl (fun c s => c.moveService k s) c).showServices

/-- R430: no core is left, or a service has failed four times within its span. -/
def Chip.stormy (c : Chip) : Bool := c.idlestCore.isNone || c.fw.serviceFails.any (fun s => decide (4 ≤ s.2.length))

/-- R429, R430: a core fails. -/
def coreFail (k : Nat) (e : ErrRec) (p : Part) : Part :=
  if 4 ≤ k ∨ p.chip.coreState k ≠ 0 then p
  else if (p.chip.coreLost k e).stormy then Part.storm { p with chip := p.chip.coreLost k e }
  else { p with chip := p.chip.coreLost k e }

/-- R428: the kernel watchdog of a core expires. -/
def kernelWatchdogExpiry (core : Nat) (p : Part) : Part :=
  let (x, c) := p.chip.draw
  coreFail core { severity := 2, cause := 1, source := 11, unit := core, detail := some (x.toNat) } { p with chip := c }

def execKernelWatchdogExpiry (core : Nat) (s : State) : Host.Outcome State Fault Refusal := s.onPart (kernelWatchdogExpiry core)

/-- R428: a fatal exception, with its mcause, or an uncorrectable error of the core's SRAM, with its offset. -/
def coreFault (core : Nat) (sram : Bool) (info : W64) (p : Part) : Part :=
  if sram then
    let (x, c) := p.chip.draw
    coreFail core { severity := 2, cause := 3, source := 11, unit := core, addr := info.toNat, detail := some (x.toNat) } { p with chip := c }
  else coreFail core { severity := 2, cause := 2, source := 11, unit := core, detail := some (info.toNat) } p

def execCoreFault (core : Nat) (sram : Bool) (info : W64) (s : State) : Host.Outcome State Fault Refusal := s.onPart (coreFault core sram info)

/-- A packet that a service had taken and not committed (R88). -/
def Packet.caught (p : Packet) (service : Nat) : Bool :=
  p.firmware && serviceOf p.op == service && p.taken && !p.committed && (p.phase == .running || p.phase == .started)

/-- A service runs again after its core failed. -/
def Chip.restartService (c : Chip) (service core : Nat) : Chip :=
  let c := c.updFw (fun f => { f with down := AMap.del f.down service })
  let ps := c.packets.filter (fun p => p.caught service)
  let n := c.reg CTL_RESTARTS % 2 ^ 32
  let c := ps.foldl (fun (c : Chip) p => (c.finish p.id stFwRestarted 0 (core + n * 2 ^ 8)).updPacket p.id (fun q => { q with restarted := true })) c
  ((ps.map (·.slice)).foldl nsInsert [0]).foldl (fun (c : Chip) s => c.event s 0x0003 0xFFFF 0 core (ps.filter (fun p => p.slice == s)).length) c

/-- R341: the reset of a hart drops its request's reply; the entry still completes. -/
def Sec.hartReset (s : Sec) (hart : Nat) : Sec :=
  let drop := fun (q : GateReq) => if q.hart = hart then { q with dropped := true } else q
  { s with waiting := s.waiting.map drop, running := s.running.map drop }

/-- R429 step 3: a failed core is reset, passes its SRAM check and rejoins with no services; a held core does not. -/
def coreRejoin (core : Nat) (p : Part) : Part :=
  if 4 ≤ core ∨ p.chip.coreState core ≠ 3 then p
  else { chip := (p.chip.setCore core 0).showServices, sec := p.sec.hartReset (16 + core) }

def execCoreRejoin (core : Nat) (s : State) : Host.Outcome State Fault Refusal := s.onPart (coreRejoin core)

/-! ### The log ring (R431, R432) -/

/-- The fields of a LOG_CONFIG break R432. -/
def Packet.logBad (p : Packet) : Bool :=
  let log2 := p.u 36 4
  decide (1 < p.u 32 1 ∨ 3 < p.u 33 1 ∨ log2 < 4 ∨ 16 < log2 ∨ 2 ^ 48 ≤ p.u 40 8 ∨ p.u 40 8 % 4096 ≠ 0) || !zeroIn p.bytes 48 64

/-- The log ring that a LOG_CONFIG names: none to disable it. -/
def Chip.setLog (c : Chip) (p : Packet) : Chip :=
  if p.u 32 1 = 0 then c.updFw (fun f => { f with log := none })
  else (c.updFw (fun f => { f with log := some { base := p.u 40 8, log2 := p.u 36 4, level := p.u 33 1, services := p.u 34 2 } })).setReg CTL_LOG_SEQ 0

/-- R432: the ring is placed and enabled with SEQUENCE 0, or disabled. -/
def logConfig (id : Nat) (c : Chip) : Chip :=
  c.onPacket id 0x700 (fun p c =>
    if p.logBad then c.finish p.id stBadParam
    else if !c.ownsPages 0 (p.u 40 8) (2 ^ p.u 36 4 * 32) then c.finish p.id stNotOwner
    else (c.setLog p).finish p.id stDone)

def execLogConfig (packet : Nat) (s : State) : Host.Outcome State Fault Refusal := s.on (logConfig packet)

/-- Table — Log record. -/
def logBytes (time seq level core service code arg0 arg1 : Nat) : List Byte :=
  leBytes 8 time ++ leBytes 4 seq ++ leBytes 1 (level % 8) ++ leBytes 1 (core % 4) ++ leBytes 1 (service % 16) ++ leBytes 1 0 ++
  leBytes 2 code ++ leBytes 2 0 ++ leBytes 4 arg0 ++ leBytes 8 arg1

/-- A write of the log unit for a core, with slice tag 0. -/
def Chip.unitWrite (c : Chip) (core a : Nat) (b : List Byte) : Chip := (c.saveRange (0x50 + core) 0 a b).2.2

/-- R431: the ring takes records of a service at a level, from a core that runs. -/
def Chip.logTakes (c : Chip) (r : LogRing) (core service level : Nat) : Bool :=
  decide (core < 4) && decide (service < 16) && decide (level ≤ r.level) && bitOf r.services service && c.coreState core == 0

/-- A record takes the next SEQUENCE and its slot. -/
def Chip.appendLog (c : Chip) (r : LogRing) (core service level code arg0 arg1 : Nat) : Chip :=
  let k := c.reg CTL_LOG_SEQ
  (c.unitWrite core (r.base + 32 * (k % 2 ^ r.log2)) (logBytes c.now k level core service code arg0 arg1)).setReg CTL_LOG_SEQ (k + 1)

/-- R431: a record at or above LEVEL of a service in the mask takes the next SEQUENCE and its slot. -/
def logAppend (core service level : Nat) (code : Nat) (arg0 : W32) (arg1 : W64) (c : Chip) : Chip :=
  match c.fw.log with
  | none => c
  | some r => if c.logTakes r core service level then c.appendLog r core service level code arg0.toNat arg1.toNat else c

def execLogAppend (core service level code : Nat) (arg0 : W32) (arg1 : W64) (s : State) : Host.Outcome State Fault Refusal :=
  s.on (logAppend core service level code arg0 arg1)

/-! ### Trace points (R433, R434) -/

/-- The reserved fields of a TRACE_ENABLE are zero and the others in range. -/
def Packet.traceFields (p : Packet) : Bool :=
  decide (p.u 33 1 < 16) && zeroIn p.bytes 34 40 && decide (p.u 48 8 < 2 ^ 48) && decide (p.u 56 1 < 32) && zeroIn p.bytes 57 64

/-- One TRACE_ENABLE operation: its own OP, else BAD_PARAM for a reserved OP, else nothing. -/
def Chip.onTrace (c : Chip) (id op : Nat) (f : Packet → Chip → Chip) : Chip :=
  c.onPacket id 0x701 (fun p c =>
    if 2 < p.u 32 1 then c.finish p.id stBadParam
    else if p.u 32 1 ≠ op then c
    else if !p.traceFields then c.finish p.id stBadParam
    else f p c)

/-- The ring of a TRACE_ENABLE is aligned and has a size. -/
def Packet.traceRingOk (p : Packet) : Bool := p.u 48 8 % 4096 == 0 && decide (8 ≤ p.u 56 1) && decide (p.u 56 1 ≤ 20)

/-- R433: the trace ring is placed, its SEQUENCE 0. -/
def Chip.setTrace (c : Chip) (base log2 : Nat) : Chip := (c.updFw (fun f => { f with trace := some (base, log2) })).setReg CTL_TRACE_SEQ 0

def traceRing (id : Nat) (c : Chip) : Chip :=
  c.onTrace id 0 (fun p c =>
    if !p.traceRingOk then c.finish p.id stBadParam
    else if !c.ownsPages 0 (p.u 48 8) (2 ^ p.u 56 1 * 16) then c.finish p.id stNotOwner
    else (c.setTrace (p.u 48 8) (p.u 56 1)).finish p.id stDone)

def execTraceRing (packet : Nat) (s : State) : Host.Outcome State Fault Refusal := s.on (traceRing packet)

def traceMask (id : Nat) (c : Chip) : Chip :=
  c.onTrace id 1 (fun p c =>
    if c.fw.trace.isNone then c.finish p.id stBadParam
    else (c.setReg (CTL_TRACE_MASK (p.u 33 1)) (p.u 40 8)).finish p.id stDone)

def execTraceMask (packet : Nat) (s : State) : Host.Outcome State Fault Refusal := s.on (traceMask packet)

/-- Every mask clear. -/
def Chip.clearTraceMasks (c : Chip) : Chip := (List.range 16).foldl (fun (c : Chip) g => c.setReg (CTL_TRACE_MASK g) 0) c

def traceOff (id : Nat) (c : Chip) : Chip := c.onTrace id 2 (fun p c => c.clearTraceMasks.finish p.id stDone)

def execTraceOff (packet : Nat) (s : State) : Host.Outcome State Fault Refusal := s.on (traceOff packet)

/-- An enabled point of a core that runs. -/
def Chip.tracePoint (c : Chip) (core point : Nat) : Bool :=
  decide (core < 4) && decide (point < 1024) && bitOf (c.reg (CTL_TRACE_MASK (point / 64))) (point % 64) && c.coreState core == 0

/-- A trace record takes the next SEQUENCE and its slot. -/
def Chip.appendTrace (c : Chip) (base log2 core point arg : Nat) : Chip :=
  let k := c.reg CTL_TRACE_SEQ
  (c.unitWrite core (base + 16 * (k % 2 ^ log2)) (leBytes 8 c.now ++ leBytes 2 (point + core * 2 ^ 14) ++ leBytes 2 k ++ leBytes 4 arg)).setReg CTL_TRACE_SEQ (k + 1)

/-- R433: an enabled point appends its record. -/
def traceAppend (core point : Nat) (arg : W32) (c : Chip) : Chip :=
  match c.fw.trace with
  | none => c
  | some (base, log2) => if c.tracePoint core point then c.appendTrace base log2 core point arg.toNat else c

def execTraceAppend (core point : Nat) (arg : W32) (s : State) : Host.Outcome State Fault Refusal := s.on (traceAppend core point arg)

/-! ### The forerunner mailboxes (R435, R436) -/

/-- Mailboxes: 0 security, 1 power management, 2 scheduler, 3 cluster control. -/
def mailboxOf (cmd : Nat) : Option Nat :=
  if cmd = 0x0101 ∨ cmd = 0x0102 ∨ cmd = 0x0103 then some 2
  else if cmd = 0x0201 then some 1
  else if cmd = 0x0301 ∨ cmd = 0x0302 then some 0
  else if cmd = 0x0401 ∨ cmd = 0x0402 then some 3
  else none

def Chip.mbxCmd (c : Chip) (m : Nat) : Nat := c.fld (MBX_CMD m) MBX_CMD.CMD
def Chip.mbxArg (c : Chip) (m i : Nat) : Nat := c.reg (MBX_ARG m i)

/-- The 48-bit address of ARG_0 and ARG_1. -/
def Chip.mbxAddr (c : Chip) (m : Nat) : Nat := (c.mbxArg m 0 + c.mbxArg m 1 * 2 ^ 32) % 2 ^ 48

/-- The core that FORERUNNER runs on. -/
def Chip.foreCore (c : Chip) : Nat := AMap.getD c.fw.place 7 3

/-- The mailbox is BUSY with its command, whose TAG it keeps. -/
def Chip.mbxBusy (c : Chip) (m : Nat) : Chip :=
  (c.setFld (MBX_STATUS m) MBX_STATUS.BUSY 1).updFw (fun w => { w with tags := AMap.set w.tags m (c.fld (MBX_CMD m) MBX_CMD.TAG) })

/-- A write of GO with slice tag 0 to a mailbox that holds a command: counted while BUSY, else the command begins. -/
def Part.mbxGo (p : Part) (tag m : Nat) (f : Part → Part) : Part :=
  let c := p.chip
  if tag ≠ 0 ∨ c.forerunner = false ∨ c.serviceDown 7 = true then p
  else if c.flag (MBX_STATUS m) MBX_STATUS.BUSY then { p with chip := c.count (MBX_IGNORED m) MBX_IGNORED.COUNT 1 }
  else f { p with chip := c.mbxBusy m }

/-- The packet a command forms: slice 0, class CLASS, no flags, a free SEQUENCE, its payload. -/
def Chip.formPacket (c : Chip) (m op slots : Nat) (payload : List Byte) : Packet × Chip :=
  let (x, c) := c.draw
  let head := leBytes 2 (op + (slots - 1) * 2 ^ 12 + c.fld (MBX_CMD m) MBX_CMD.CLASS * 2 ^ 14) ++ leBytes 2 0 ++ leBytes 4 x.toNat ++ List.replicate 24 0
  let body := payload ++ List.replicate (64 * slots - 32 - payload.length) 0
  let p : Packet := { id := c.nextPacket, slice := 0, ring := 16 + m, bytes := head ++ body, phase := .started }
  (p, { c with nextPacket := c.nextPacket + 1, packets := c.packets ++ [p] })

/-- A command judged and carried out as its packet is; what is over at once is answered at once. -/
def Chip.runFormed (c : Chip) (p : Packet) (f : Nat → Chip → Chip) : Chip :=
  let c := match c.slice? 0 with
    | none => c.finish p.id stDisabled
    | some sl => match headerCheck sl p with
      | some st => c.finish p.id st
      | none => match c.refusal p with
        | some st => c.finish p.id st
        | none => f p.id c
  match c.packet? p.id with
  | none => c
  | some q => match q.phase with
    | .done st res det => (c.complete q st res det).dropPending q.id
    | _ => c

/-- A packet of a mailbox is formed and run. -/
def Chip.mbxPacket (c : Chip) (m op slots : Nat) (payload : List Byte) (f : Nat → Chip → Chip) : Chip :=
  let (q, c) := c.formPacket m op slots payload
  c.runFormed q f

/-- A command whose packet is made of its arguments. -/
def mbxArgs (tag m cmd op : Nat) (payload : Chip → List Byte) (f : Nat → Chip → Chip) (p : Part) : Part :=
  if p.chip.mbxCmd m ≠ cmd then p
  else p.mbxGo tag m (fun p => { p with chip := p.chip.mbxPacket m op 1 (payload p.chip) f })

/-- The descriptor of a command, read under the identity of the service's core. -/
def Chip.mbxRead (c : Chip) (m : Nat) : Served × List Byte × Chip := c.loadRange (0x50 + c.foreCore) 0 (c.mbxAddr m) 96

/-- What a descriptor read makes of the command: its packet, or its refusal. -/
def mbxRun (m op : Nat) (f : Nat → Chip → Chip) (r : Served × List Byte × Chip) : Chip :=
  match r.1 with
  | .ok => r.2.2.mbxPacket m op 2 r.2.1 f
  | .denied => r.2.2.mailboxReply m stAccessDenied 0
  | .uncorrectable => r.2.2.mailboxReply m stUncorrectable 0

/-- A command with a descriptor: its 96 bytes, read by the service's core, become payload bytes 32 to 127. -/
def mbxDescriptor (tag m cmd op : Nat) (f : Nat → Chip → Chip) (p : Part) : Part :=
  if p.chip.mbxCmd m ≠ cmd then p
  else p.mbxGo tag m (fun p => { p with chip := mbxRun m op f (p.chip.mbxRead m) })

/-- RING 0 and SEQUENCE ARG_0 of JOB_PREEMPT and JOB_ABORT. -/
def mbxTarget (c : Chip) : List Byte := leBytes 4 0 ++ leBytes 4 (c.mbxArg 2 0)

def mbxSubmitJob (tag : Nat) : Part → Part := mbxDescriptor tag 2 0x0101 0x210 jobRun
def mbxPreempt (tag : Nat) : Part → Part := mbxArgs tag 2 0x0102 0x212 mbxTarget jobPreempt
def mbxAbort (tag : Nat) : Part → Part := mbxArgs tag 2 0x0103 0x213 mbxTarget jobAbort
def execMbxSubmitJob (tag : Nat) (s : State) : Host.Outcome State Fault Refusal := s.onPart (mbxSubmitJob tag)
def execMbxPreempt (tag : Nat) (s : State) : Host.Outcome State Fault Refusal := s.onPart (mbxPreempt tag)
def execMbxAbort (tag : Nat) (s : State) : Host.Outcome State Fault Refusal := s.onPart (mbxAbort tag)

/-- POWER_HINT with OP ARG_0 bits 7:0 and BLOCKS ARG_1 bits 15:0, whichever operation that is. -/
def mbxHintRun (id : Nat) (c : Chip) : Chip :=
  match c.packet? id with
  | none => c
  | some p => match p.u 32 1 with
    | 0 => blockOff id c
    | 1 => blockOn id c
    | 2 => standby id c
    | 3 => park id c
    | 4 => restart id c
    | _ => idleUntil id c

def mbxHint (tag : Nat) : Part → Part :=
  mbxArgs tag 1 0x0201 0x600 (fun c => leBytes 2 (c.mbxArg 1 0 % 256) ++ leBytes 2 (c.mbxArg 1 1)) mbxHintRun
def execMbxHint (tag : Nat) (s : State) : Host.Outcome State Fault Refusal := s.onPart (mbxHint tag)

def mbxLoadModel (tag : Nat) : Part → Part := mbxDescriptor tag 3 0x0401 0x200 modelRegister
def mbxUnloadModel (tag : Nat) : Part → Part :=
  mbxArgs tag 3 0x0402 0x202 (fun c => leBytes 2 (c.mbxArg 3 0) ++ leBytes 1 1) modelEvict
def execMbxLoadModel (tag : Nat) (s : State) : Host.Outcome State Fault Refusal := s.onPart (mbxLoadModel tag)
def execMbxUnloadModel (tag : Nat) (s : State) : Host.Outcome State Fault Refusal := s.onPart (mbxUnloadModel tag)

/-- A security command: a GATE of the service's core in M-mode, with a block of the length its entry needs. -/
def mbxGate (tag cmd entry len : Nat) (p : Part) : Part :=
  if p.chip.mbxCmd 0 ≠ cmd then p
  else p.mbxGo tag 0 (fun p => gateCall entry (16 + p.chip.foreCore) 0 32 (p.chip.mbxAddr 0) len p)

def mbxAttest (tag : Nat) : Part → Part := mbxGate tag 0x0301 0x0020 40
def mbxRandom (tag : Nat) : Part → Part := mbxGate tag 0x0302 0x0021 64
def execMbxAttest (tag : Nat) (s : State) : Host.Outcome State Fault Refusal := s.onPart (mbxAttest tag)
def execMbxRandom (tag : Nat) (s : State) : Host.Outcome State Fault Refusal := s.onPart (mbxRandom tag)

/-- An unlisted CMD, or one of another mailbox, completes with BAD_OPCODE. -/
def mbxUnknown (tag m : Nat) (p : Part) : Part :=
  if 4 ≤ m ∨ mailboxOf (p.chip.mbxCmd m) = some m then p
  else p.mbxGo tag m (fun p => { p with chip := p.chip.mailboxReply m stBadOpcode 0 })

/-- A write of GO: the command that the mailbox holds. -/
def mbxDoorbell (tag m : Nat) (p : Part) : Part :=
  let cmd := p.chip.mbxCmd m
  if mailboxOf cmd ≠ some m then mbxUnknown tag m p
  else match cmd with
    | 0x0101 => mbxSubmitJob tag p
    | 0x0102 => mbxPreempt tag p
    | 0x0103 => mbxAbort tag p
    | 0x0201 => mbxHint tag p
    | 0x0301 => mbxAttest tag p
    | 0x0302 => mbxRandom tag p
    | 0x0401 => mbxLoadModel tag p
    | _ => mbxUnloadModel tag p

def execMbxUnknownCommand (tag mailbox : Nat) (s : State) : Host.Outcome State Fault Refusal := s.onPart (mbxUnknown tag mailbox)

end Sys2Proof.Machine
end

