-- ==== Sys2Proof/Machine/Net.lean ====
section
/-!
DEFINITION. The vehicle network: the switch and its configuration image, the host port rings, the CAN controllers and the
gateway (18 R473 to R487).
-/

namespace Sys2Proof.Machine

def Chip.updNet (c : Chip) (f : Net → Net) : Chip := { c with net := f c.net }

/-! ### The switch configuration image (R479, R480) -/

def swOfs (img : List Byte) (s : Nat) : Nat := bytesU img (8 + 8 * s) 4
def swCount (img : List Byte) (s : Nat) : Nat := bytesU img (12 + 8 * s) 4
/-- Bytes of an entry: ACF and PTP are 32. -/
def swSize (s : Nat) : Nat := if s < 6 then 16 else 32
def swEntry (img : List Byte) (s i : Nat) : List Byte := (img.drop (swOfs img s + i * swSize s)).take (swSize s)
def swEntries (img : List Byte) (s : Nat) : List (List Byte) := (List.range (swCount img s)).map (swEntry img s)

/-- COUNT lies in its table's range. -/
def swCountOk (s n : Nat) : Bool :=
  match s with
  | 0 => n == 8
  | 1 => decide (n ≤ 4096)
  | 2 => decide (n ≤ 2048)
  | 3 => decide (n ≤ 16)
  | 4 => decide (n ≤ 64)
  | 5 => decide (n ≤ 1024)
  | 6 => decide (n ≤ 64)
  | _ => n == 1

/-- Mbit/s of a SPEED. -/
def speedMbps (n : Nat) : Nat := [10, 100, 1000, 2500, 5000, 10000].getD n 0

/-- Rates and fields of an entry of a section, with its index. -/
def swEntryOk (acf s i : Nat) (e : List Byte) : Bool :=
  let u := bytesU e
  match s with
  | 0 => decide (u 0 1 % 16 < if i < 2 then 6 else 4) && decide (u 0 1 < 64) && u 1 1 == 0 && decide (u 2 2 < 4096) && decide (u 4 4 < 2 ^ 27) && decide (u 8 4 < 2 ^ 11)
  | 1 => decide (u 6 2 < 4096) && decide (u 8 2 < 2 ^ 11) && decide (u 10 2 < 2 ^ 11) && decide (u 12 1 < 16) && zeroIn e 13 16
  | 2 => decide (u 0 1 < 8) && u 2 2 == 0 && decide (100 ≤ u 4 4) && decide (u 4 4 ≤ 1000000000)
  | 3 => decide (u 0 1 < 8) && (u 1 1 == 5 || u 1 1 == 6) && u 2 2 == 0 && zeroIn e 8 16
  | 4 => decide (u 6 2 < 4096) && decide (u 8 1 < 2) && decide (u 9 1 < 64) && zeroIn e 12 16 &&
    (u 8 1 == 0 || (decide (2 ≤ u 9 1) && decide (u 9 1 ≤ 32) && decide (1 ≤ u 10 2) && decide (u 10 2 ≤ 10000)))
  | 5 => decide (u 0 4 < 2 ^ 30) && decide (u 4 4 < 2 ^ 29) && decide (u 8 1 < 64) && (decide (u 8 1 % 32 < 16) || u 8 1 % 32 == 31) && (decide (u 9 1 < acf) || u 9 1 == 0xFF) && zeroIn e 12 16
  | 6 => decide (u 14 2 < 2 ^ 15) && decide (u 17 1 < 2) && decide (u 18 1 < 32) && u 19 1 == 0 && zeroIn e 22 32
  | _ => decide (u 0 1 < 2) && (u 4 1 == 0 || decide (251 ≤ u 4 1)) && (decide (u 5 1 < 8) || u 5 1 == 0xFF) && u 7 1 == 0 && decide (100 ≤ u 8 4) && decide (u 8 4 ≤ 60000) &&
    decide (1000 ≤ u 20 4) && decide (u 20 4 ≤ 200000) && zeroIn e 24 32

/-- (MAC, VID) of an FDB or STREAMS entry as one number. -/
def swKey (e : List Byte) : Nat := bytesU e 0 6 * 4096 + bytesU e 6 2 % 4096

def noDup : List Nat → Bool
  | [] => true
  | x :: l => !l.contains x && noDup l

/-- Each port's gate entries stand together and share their BASE_TIME. -/
def gatesTogether : List (List Byte) → Bool
  | [] => true
  | e :: l =>
    let port := bytesU e 0 1
    let rest := l.dropWhile (fun f => bytesU f 0 1 == port)
    !rest.any (fun f => bytesU f 0 1 == port) && (l.all (fun f => bytesU f 0 1 != port || bytesU f 8 8 == bytesU e 8 8)) && gatesTogether l

/-- R476: the slopes of each port take at most 75 % of its rate. -/
def slopesOk (img : List Byte) : Bool :=
  (List.range 8).all (fun p =>
    let s := sumOf (((swEntries img 3).filter (fun e => bytesU e 0 1 == p)).map (fun e => bytesU e 4 4))
    decide (s * 4 ≤ speedMbps (bytesU (swEntry img 0 p) 0 1 % 16) * 1000 * 3))

/-- R480: the image is not rejected. -/
def switchOk (img : List Byte) : Bool :=
  bytesU img 0 4 == 0x53574346 && bytesU img 4 2 == 1 && bytesU img 6 2 == 0 &&
  (List.range 8).all (fun s => swCountOk s (swCount img s) && decide (swOfs img s + swCount img s * swSize s ≤ img.length) &&
    (List.range (swCount img s)).all (fun i => swEntryOk (swCount img 6) s i (swEntry img s i))) &&
  noDup ((swEntries img 1).map swKey) && noDup ((swEntries img 4).map swKey) &&
  (List.range 8).all (fun p => decide (((swEntries img 2).filter (fun e => bytesU e 0 1 == p)).length ≤ 256)) &&
  gatesTogether (swEntries img 2) && slopesOk img

/-- A field of a port's PORTS entry, zero for the ports inside the part. -/
def Chip.portU (c : Chip) (p off k : Nat) : Nat := if p < 8 then bytesU (swEntry c.net.image 0 p) off k else 0
/-- A field of the PTP section (R490). -/
def Chip.ptpU (c : Chip) (off k : Nat) : Nat := bytesU (swEntry c.net.image 7 0) off k

/-- The first start of a gate list's cycle at or after `t`. -/
def cycleFrom (base cycle t : Nat) : Nat := if timeBefore base t = false ∨ cycle = 0 then base else base + (timeDiff t base + cycle - 1) / cycle * cycle

/-- R481, R494: an image takes effect: its gate lists start at their next cycle, its asymmetry values are loaded. -/
def Chip.loadSwitch (c : Chip) (img : List Byte) : Chip :=
  let c := c.updNet (fun n => { n with image := img })
  (List.range 8).foldl (fun (c : Chip) p =>
    let g := (swEntries img 2).filter (fun e => bytesU e 0 1 == p)
    let l : List (Nat × Nat) := g.map (fun e => (bytesU e 1 1, bytesU e 4 4))
    let c := match g with
      | [] => c.updNet (fun n => { n with gates := AMap.del n.gates p, nextGates := AMap.del n.nextGates p })
      | e :: _ => c.updNet (fun n => { n with nextGates := AMap.set n.nextGates p { entries := l, index := 0, since := cycleFrom (bytesU e 8 8) (sumOf (l.map Prod.snd)) c.now } })
    (c.setReg (NET_ASYM_IN p) (ux 32 (sx 16 (c.portU p 12 2) * 16))).setReg (NET_ASYM_OUT p) (ux 32 (sx 16 (c.portU p 14 2) * 16))) c

/-! ### Frames -/

/-- The bytes of a frame without its FCS, from the destination address on. -/
def EthFrame.bytes (f : EthFrame) : List Byte :=
  f.head ++ (if f.tagged then [0x81, 0x00] ++ bigBytes 2 (f.pcp * 2 ^ 13 + f.vid) else []) ++
  (match f.rtag with | some n => [0xF1, 0xC1, 0, 0] ++ bigBytes 2 n | none => []) ++ f.body

/-- The destination address, its first octet lowest (DEDUCED, log 66). -/
def EthFrame.mac (f : EthFrame) : Nat := leNat (f.head.take 6)
def EthFrame.etherType (f : EthFrame) : Nat := bytesBig f.body 0 2

/-- A frame read from its bytes: its addresses, tag, R-tag and the rest, and the tag's VID and PCP if it has one. -/
def parseFrame (b : List Byte) : EthFrame × Option (Nat × Nat) :=
  let tagged := bytesBig b 12 2 == 0x8100
  let tci := bytesBig b 14 2
  let body := b.drop (if tagged then 16 else 12)
  let r := bytesBig body 0 2 == 0xF1C1
  ({ head := b.take 12, vid := tci % 4096, pcp := tci / 2 ^ 13, rtag := if r then some (bytesBig body 4 2) else none, body := if r then body.drop 6 else body },
    if tagged then some (tci % 4096, tci / 2 ^ 13) else none)

/-- An ingress time-stamp at the reference plane (R494): `t` in ps. -/
def Chip.stampIn (c : Chip) (p : Nat) (t : Int) : Int := if p < 8 then t - sx 32 (c.reg (NET_ASYM_IN p)) else t
def Chip.stampOut (c : Chip) (p : Nat) (t : Int) : Int := if p < 8 then t + sx 32 (c.reg (NET_ASYM_OUT p)) else t

/-- A network record (R495). -/
def Chip.netRecord (c : Chip) (severity cause unit : Nat) (detail : Option Nat) : Chip :=
  c.error { severity := severity, cause := cause, source := 13, unit := unit, detail := detail }

/-- A frame dropped at ingress. -/
def Chip.netDrop (c : Chip) (p : Nat) : Chip := if p < 8 then c.count (NET_DROPS p) NET_DROPS.COUNT 1 else c

def Chip.queue (c : Chip) (p q : Nat) : List EthFrame := AMap.getD c.net.queues (8 * p + q) []

/-- IDLE_SLOPE of a shaped queue, in kbit/s. -/
def Chip.slope? (c : Chip) (p q : Nat) : Option Nat :=
  ((swEntries c.net.image 3).find? (fun e => bytesU e 0 1 == p && bytesU e 1 1 == q)).map (fun e => bytesU e 4 4)

/-- The credit of a shaped queue now, in millionths of a bit: it grows at IDLE_SLOPE. -/
def Chip.creditNow (c : Chip) (p q slope : Nat) : Int :=
  let (v, t) := AMap.getD c.net.credit (8 * p + q) (0, c.now)
  v + (slope : Int) * ((c.now - t : Nat) : Int)

/-- A frame at the end of an egress queue, with the slope in force (R481: it is sent under that image); an idle shaped queue
keeps no credit. -/
def Chip.enqueue (c : Chip) (p q : Nat) (f : EthFrame) : Chip :=
  let c := match c.slope? p q with
    | some s => if (c.queue p q).isEmpty ∧ c.creditNow p q s > 0 then c.updNet (fun n => { n with credit := AMap.set n.credit (8 * p + q) (0, c.now) }) else c
    | none => c
  c.updNet (fun n => { n with queues := AMap.upd n.queues (8 * p + q) [] (fun l => l ++ [{ f with slope := c.slope? p q }]) })

/-! ### The host port (R482) -/

def netMaster : Nat := 0x5C
def Chip.netTag (c : Chip) : Nat := c.fld (ACC_MST_CTX netMaster) ACC_MST_CTX.SLICE_TAG
/-- The registers of the host rings admit slice tag 0 and the slice of master 0x5C (R496). -/
def Chip.netTagOk (c : Chip) (tag : Nat) : Bool := tag == 0 || tag == c.netTag

def Chip.descAt (c : Chip) (r i : Nat) : Nat :=
  c.fld (NET_DMA_RING r) NET_DMA_RING.BASE * 4096 + 32 * (i % 2 ^ (c.fld (NET_DMA_RING r) NET_DMA_RING.LOG2 + 4))

/-- A sync object of a master's slice gains 1. -/
def Chip.gainObj (c : Chip) (tag obj : Nat) : Chip :=
  match c.slice? tag with
  | some sl => if sl.hasSync obj then c.signal obj (.add 1) else c
  | none => c

/-- A descriptor is over: its bytes from `off` on, DONE among them; HEAD and the object follow. -/
def Chip.descDone (c : Chip) (r i off : Nat) (b : List Byte) : Chip :=
  let (_, _, c) := c.saveRange netMaster c.netTag (c.descAt r i + off) b
  (c.next (NET_DMA_HEAD r) NET_DMA_HEAD.HEAD).gainObj c.netTag (c.fld (NET_DMA_OBJ r) NET_DMA_OBJ.SIGNAL_OBJ)

/-- A transmit descriptor ends without a time-stamp, or with the one given. -/
def Chip.txDone (c : Chip) (d : Option (Nat × Nat)) (stamp : Option Nat) : Chip :=
  match d with
  | none => c
  | some (r, i) => c.descDone r i 10 (leBytes 1 (1 + b2n stamp.isSome * 2) ++ leBytes 5 0 ++ leBytes 8 (stamp.getD 0))

/-- R482: a frame for the host fills the next posted buffer of its queue's ring. -/
def Chip.hostDeliver (c : Chip) (q : Nat) (f : EthFrame) : Chip :=
  let r := 8 + q
  let i := c.reg (NET_DMA_HEAD r)
  let b := f.bytes
  let none? := fun (c : Chip) => (c.netDrop f.port).netRecord 0 2 f.port none
  if !c.flag (NET_DMA_RING r) NET_DMA_RING.EN || i == c.reg (NET_DMA_TAIL r) then none? c
  else
    let (o, d, c) := c.loadRange netMaster c.netTag (c.descAt r i) 32
    if o ≠ .ok then c
    else if bytesU d 8 2 % 2 ^ 14 < b.length then none? c
    else
      let (o2, _, c) := c.saveRange netMaster c.netTag (bytesU d 0 6) b
      if o2 ≠ .ok then c else c.descDone r i 8 (leBytes 2 b.length ++ leBytes 1 (3 + b2n f.secured * 4) ++ leBytes 1 (f.port % 16) ++ leBytes 4 0 ++ leBytes 8 f.time)

/-! ### Frame replication and elimination (R477) -/

/-- The stream of a frame: its key, FUNCTION, HISTORY and RESET_MS. -/
def Chip.frerOf (c : Chip) (f : EthFrame) : Option (Nat × Nat × Nat) :=
  ((swEntries c.net.image 4).find? (fun e => swKey e == f.mac * 4096 + f.vid)).map (fun e => (bytesU e 8 1, bytesU e 9 1, bytesU e 10 2))

/-- Vector recovery of IEEE 802.1CB (PRESUMED, log 68): whether the frame goes on, and the counters of what does not. -/
def Chip.recover (c : Chip) (f : EthFrame) (history : Nat) : Bool × Chip :=
  let k := f.mac * 4096 + f.vid
  let put := fun (c : Chip) (r : Recovery) => c.updNet (fun n => { n with recovery := AMap.set n.recovery k r })
  match f.rtag with
  | none => (false, c)
  | some s =>
    match AMap.get? c.net.recovery k with
    | none => (true, put c { seq := s, seen := true :: List.replicate (history - 1) false, last := c.now })
    | some r =>
      let d := sx 16 (s + 2 ^ 16 - r.seq)
      if (history : Int) ≤ d ∨ d ≤ -(history : Int) then (false, (c.count NET_FRER_ROGUE NET_FRER_ROGUE.COUNT 1))
      else if 0 < d then (true, put c { seq := s, seen := (true :: List.replicate (d.toNat - 1) false ++ r.seen).take history, last := c.now })
      else
        let i := (-d).toNat
        if r.seen.getD i false then (false, put (c.count NET_FRER_DISCARDS NET_FRER_DISCARDS.COUNT 1) { r with last := c.now })
        else (true, put c { r with seen := r.seen.set i true, last := c.now })

/-! ### The gateway (R486, R487) -/

def canMaster : Nat := 0x5D
def Chip.canTag (c : Chip) : Nat := c.fld (ACC_MST_CTX canMaster) ACC_MST_CTX.SLICE_TAG
def CanFrame.id (f : CanFrame) : Nat := f.idw % 2 ^ 29
def CanFrame.ide (f : CanFrame) : Bool := bitOf f.idw 29
def CanFrame.fdf (f : CanFrame) : Bool := bitOf f.flags 0
def CanFrame.xlf (f : CanFrame) : Bool := bitOf f.flags 3
def Chip.canMode (c : Chip) (n : Nat) : Nat := c.fld (CAN_CTRL n) CAN_CTRL.MODE

/-- The record of a frame (R484). -/
def CanFrame.record (f : CanFrame) (time : Nat) (routed : Bool) : List Byte :=
  leBytes 8 time ++ leBytes 4 (f.idw % 2 ^ 31) ++ leBytes 1 (f.flags % 16 + b2n routed * 16) ++ leBytes 1 f.sdt ++ leBytes 2 f.data.length ++
  leBytes 1 f.vcid ++ leBytes 3 0 ++ leBytes 4 f.af ++ leBytes 8 0 ++ f.data ++ List.replicate ((4 - f.data.length % 4) % 4) 0

/-- A frame enters the gateway queue of a controller, unless its bus cannot carry it or the queue is full. -/
def Chip.gatewayPush (c : Chip) (n : Nat) (f : CanFrame) : Chip :=
  if (f.xlf && c.canMode n != 2) || (f.fdf && c.canMode n == 0) then c.count (CAN_ROUTE_SKIPS n) CAN_ROUTE_SKIPS.COUNT 1
  else
    let l := AMap.getD c.net.gateway n []
    if 64 ≤ l.length then (c.count (CAN_GW_DROPS n) CAN_GW_DROPS.COUNT 1).netRecord 0 4 (0x10 + n) (some f.id)
    else c.updNet (fun w => { w with gateway := AMap.set w.gateway n (l ++ [f]) })

/-- The gateway queues of a mask of controllers. -/
def Chip.gatewayAll (c : Chip) (mask : Nat) (f : CanFrame) : Chip :=
  ((List.range 16).filter (bitOf mask)).foldl (fun (c : Chip) n => c.gatewayPush n f) c

/-- IEEE 1722-2016: an NTSCF frame with one ACF CAN message (PRESUMED layout, log 68). -/
def acfBody (stream bus seq time : Nat) (f : CanFrame) : List Byte :=
  let pad := (4 - f.data.length % 4) % 4
  let words := (16 + f.data.length + pad) / 4
  [0x22, 0xF0, 0x82] ++ bigBytes 2 (0x8000 + 4 * words % 2048) ++ bigBytes 1 seq ++ leBytes 8 stream ++
  bigBytes 2 (1 * 512 + words % 512) ++ bigBytes 1 (pad * 64 + 32 + b2n (bitOf f.idw 30) * 16 + b2n f.ide * 8 + b2n (bitOf f.flags 1) * 4 + b2n f.fdf * 2 + b2n (bitOf f.flags 2)) ++
  bigBytes 1 bus ++ bigBytes 8 time ++ bigBytes 4 f.id ++ f.data ++ List.replicate pad 0

/-- R487: a routed frame goes out over Ethernet, by its ACF entry; an XL frame never does. -/
def Chip.acfSend (c : Chip) (src i time : Nat) (f : CanFrame) : Chip :=
  let e := swEntry c.net.image 6 i
  if swCount c.net.image 6 ≤ i ∨ bytesU e 17 1 ≠ 0 then c
  else if f.xlf then c.count (CAN_ROUTE_SKIPS src) CAN_ROUTE_SKIPS.COUNT 1
  else
    let n := AMap.getD c.net.acfSeq i 0
    let pcp := bitsOf (bytesU e 14 2) 14 12
    let (x, c) := c.drawBytes 6
    let g : EthFrame := { head := e.drop 8 |>.take 6 |>.append x, vid := bytesU e 14 2 % 4096, pcp := pcp, body := acfBody (bytesU e 0 8) (bytesU e 18 1) n time f, time := c.now }
    let c := c.updNet (fun w => { w with acfSeq := AMap.set w.acfSeq i ((n + 1) % 256) })
    ((List.range 8).filter (bitOf (bytesU e 16 1))).foldl (fun (c : Chip) p => c.enqueue p pcp g) c

/-- The DIR 1 entries whose stream a frame carries, with the CAN frame in it; none of a frame of no such stream. -/
def Chip.acfOf (c : Chip) (f : EthFrame) : Option (List (List Byte) × CanFrame) :=
  let b := f.body
  if f.etherType ≠ 0x22F0 ∨ bytesBig b 2 1 ≠ 0x82 ∨ bytesBig b 14 1 / 2 ≠ 1 then none
  else
    let fl := bytesBig b 16 1
    let words := bytesBig b 14 2 % 512
    let data := (b.drop 30).take (4 * words - 16 - fl / 64)
    let g : CanFrame := { idw := bytesBig b 26 4 % 2 ^ 29 + b2n (bitOf fl 3) * 2 ^ 29 + b2n (bitOf fl 4) * 2 ^ 30, flags := b2n (bitOf fl 1) + b2n (bitOf fl 2) * 2 + b2n (bitOf fl 0) * 4, data := data }
    let es := (swEntries c.net.image 6).filter (fun e => bytesU e 17 1 == 1 && bytesU e 0 8 == leNat ((b.drop 6).take 8))
    if es.isEmpty then none else some (es, g)

/-! ### Forwarding (R474) -/

/-- A frame's destinations: the ports, the untagged ones, its queue; or none where it has no route. -/
def Chip.route (c : Chip) (f : EthFrame) : Option (Nat × Nat × Nat) :=
  let map := if f.port < 8 then bitsOf (c.portU f.port 4 4) (3 * f.pcp + 2) (3 * f.pcp) else f.pcp
  match (swEntries c.net.image 1).find? (fun e => swKey e == f.mac * 4096 + f.vid) with
  | some e => some (bytesU e 8 2, bytesU e 10 2, if bytesU e 12 1 < 8 then bytesU e 12 1 else map)
  | none =>
    let m := if bitOf (c.portU f.port 0 1) 5 then c.portU f.port 8 4 % 2 ^ 11 else 0
    if m = 0 then none else some (m, 0, map)

/-- R474 steps 2 and 3, with R477 and R487 before them. -/
def Chip.forward (c : Chip) (f : EthFrame) : Chip :=
  match c.acfOf f with
  | some (es, g) => (es.filter (fun e => bytesBig f.body 17 1 % 32 == bytesU e 18 1)).foldl (fun (c : Chip) e => c.gatewayAll (bytesU e 20 2) g) c
  | none =>
    let k := f.mac * 4096 + f.vid
    let (go, f, c) := match c.frerOf f with
      | none => (true, f, c)
      | some (0, _, _) =>
        let n := AMap.getD c.net.genSeq k 0
        (true, { f with rtag := some n }, c.updNet (fun w => { w with genSeq := AMap.set w.genSeq k ((n + 1) % 2 ^ 16) }))
      | some (_, h, _) =>
        let (go, c) := c.recover f h
        (go, f, c)
    if !go then c.txDone f.desc none
    else match c.route f with
      | none => ((c.netDrop f.port).netRecord 0 1 f.port none).txDone f.desc none
      | some (mask, untag, q) =>
        let ps := (List.range 11).filter (fun p => bitOf mask p && p != f.port)
        if ps.isEmpty then c.txDone f.desc none
        else (ps.foldl (fun (x : Chip × Bool) p =>
          -- the descriptor ends with the first copy that leaves
          (x.1.enqueue p q { f with tagged := !bitOf untag p, rtag := if 8 ≤ p then none else f.rtag, desc := if x.2 then f.desc else none }, false)) (c, true)).1

/-- A frame that comes in is counted, and shows the link up again (log 67). -/
def Chip.frameIn (c : Chip) (port : Nat) : Chip :=
  let c := if c.flag (NET_PORT_STATUS port) NET_PORT_STATUS.UP then c else
    (c.setFld (NET_PORT_STATUS port) NET_PORT_STATUS.UP 1).setFld (NET_PORT_STATUS port) NET_PORT_STATUS.MBPS (speedMbps (c.portU port 0 1 % 16))
  c.count (NET_RX_FRAMES port) NET_RX_FRAMES.COUNT 1

/-- A frame enters the switch with its VLAN and priority, its port's where it has none (R474). -/
def Chip.frameEnters (c : Chip) (port : Nat) (data : List Byte) (secured : Bool) : Chip :=
  let (f, tag) := parseFrame data
  let (vid, pcp) := match tag with
    | some (v, q) => (if v = 0 then c.portU port 2 2 else v, q)
    | none => (c.portU port 2 2, bitsOf (c.portU port 4 4) 26 24)
  c.forward { f with vid := vid, pcp := pcp, port := port, time := (c.stampIn port (c.now * 1000) / 1000).toNat, secured := secured }

/-- R475: a secured frame opened, an open one where the port wants none, and any other. -/
def Chip.frameTaken (c : Chip) (keys : AMap (List Byte)) (port : Nat) (data : List Byte) : Chip :=
  let et := bytesBig data 12 2
  if et = 0x88E5 then
    match Config.macsecOpen port keys data with
    | none => (c.count (NET_MACSEC_ERR port) NET_MACSEC_ERR.COUNT 1).netRecord 0 3 port none
    | some d => c.frameEnters port d true
  else if bitOf (c.portU port 0 1) 4 ∧ et ≠ 0x88F7 ∧ et ≠ 0x888E then c.count (NET_MACSEC_ERR port) NET_MACSEC_ERR.COUNT 1
  else c.frameEnters port data false

/-- The switch takes frames: the part is active and an image loaded. -/
def Chip.switching (c : Chip) : Bool := c.power.mode == PartMode.active && !c.net.image.isEmpty

/-- R473 to R475: a frame comes in at an external port. -/
def ethFrameRx (port : Nat) (data : List Byte) (p : Part) : Part :=
  if 8 ≤ port ∨ p.chip.switching = false then p
  else if data.length < 14 ∨ 9216 < data.length + 4 then { p with chip := (p.chip.frameIn port).netDrop port }
  else { p with chip := (p.chip.frameIn port).frameTaken p.sec.netKeys port data }

def execEthFrameRx (port : Nat) (data : List Byte) (s : State) : Host.Outcome State Fault Refusal := s.onPart (ethFrameRx port data)

/-! ### Egress (R474, R476) -/

/-- Gate bits in force at a port: all open where it has no list. -/
def Chip.gateBits (c : Chip) (p : Nat) : Nat := match AMap.get? c.net.gates p with
  | some g => (g.entries.getD g.index (0xFF, 0)).1
  | none => 0xFF

/-- Time in ns until the gate of a queue closes; none where it never does. -/
def Chip.gateLeft (c : Chip) (p q : Nat) : Option Nat :=
  match AMap.get? c.net.gates p with
  | none => none
  | some g =>
    if g.entries.all (fun e => bitOf e.1 q) then none
    else
      let open? := (g.entries.drop (g.index + 1) ++ g.entries.take (g.index + 1)).takeWhile (fun e => bitOf e.1 q)
      some (g.since + (g.entries.getD g.index (0, 0)).2 + sumOf (open?.map (·.2)) - c.now)

/-- Time on the wire in ns: preamble, frame and FCS at the port's rate. -/
def Chip.frameNs (c : Chip) (p bytes : Nat) : Nat :=
  let r := c.fld (NET_PORT_STATUS p) NET_PORT_STATUS.MBPS
  ((bytes + 12) * 8000 + r - 1) / (max r 1)

/-- The queue whose head an external port sends next. -/
def Chip.egressQueue (c : Chip) (p : Nat) : Option (Nat × EthFrame) :=
  (List.range 8).reverse.findSome? (fun q =>
    match c.queue p q with
    | [] => none
    | f :: _ =>
      if 8 ≤ p then some (q, f)
      else
        let fits := match c.gateLeft p q with
          | some t => decide (c.frameNs p f.bytes.length ≤ t)
          | none => true
        let credit := match f.slope with
          | some s => decide (0 ≤ c.creditNow p q s) && decide ((AMap.getD c.net.credit (8 * p + q) (0, 0)).2 ≤ c.now)
          | none => true
        if bitOf (c.gateBits p) q && fits && credit then some (q, f) else none)

/-- A port may send: the part is active, the port idle, and an external one up. -/
def Chip.maySend (c : Chip) (port : Nat) : Bool :=
  decide (port < 11) && c.power.mode == PartMode.active && decide (AMap.getD c.net.busy port 0 ≤ c.now) && (decide (8 ≤ port) || c.flag (NET_PORT_STATUS port) NET_PORT_STATUS.UP)

/-- The bytes of a frame on the wire: secured where the port is, but for time and key frames. -/
def Chip.wireBytes (c : Chip) (keys : AMap (List Byte)) (port : Nat) (f : EthFrame) : List Byte :=
  if c.flag (NET_PORT_STATUS port) NET_PORT_STATUS.MACSEC && f.etherType != 0x88F7 && f.etherType != 0x888E then Config.macsecSeal port c.free keys f.bytes else f.bytes

/-- R474, R476: a frame leaves an external port: its shaper pays, the port is busy for its time. -/
def Chip.frameOut (c : Chip) (keys : AMap (List Byte)) (port q : Nat) (f : EthFrame) : Chip :=
  let b := c.wireBytes keys port f
  let d := c.frameNs port f.bytes.length
  let r := c.fld (NET_PORT_STATUS port) NET_PORT_STATUS.MBPS
  let c := match f.slope with
    | some s => c.updNet (fun n => { n with credit := AMap.set n.credit (8 * port + q) (c.creditNow port q s - ((r * 1000 : Nat) - (s : Int)) * d, c.now + d) })
    | none => c
  let c := { c with free := c.free + 1 }.updNet (fun n => { n with busy := AMap.set n.busy port (c.now + d) })
  let c := (c.send (.eth port) b).count (NET_TX_FRAMES port) NET_TX_FRAMES.COUNT 1
  c.txDone f.desc (some (c.stampOut port (c.now * 1000) / 1000).toNat)

/-- A frame leaves its queue, for the host, for a unit inside the part, or for the wire. -/
def Chip.sendFrame (c : Chip) (keys : AMap (List Byte)) (port q : Nat) (f : EthFrame) : Chip :=
  let c := c.updNet (fun n => { n with queues := AMap.upd n.queues (8 * port + q) [] List.tail })
  if port = 8 then c.hostDeliver q f
  else if 8 < port then (c.send (.eth port) f.bytes).txDone f.desc (some c.now)
  else c.frameOut keys port q f

/-- R474 step 4: an idle port sends a frame; the ports inside the part take theirs. -/
def ethFrameTx (port : Nat) (p : Part) : Part :=
  if !p.chip.maySend port then p
  else match p.chip.egressQueue port with
    | none => p
    | some (q, f) => { p with chip := p.chip.sendFrame p.sec.netKeys port q f }

def execEthFrameTx (port : Nat) (s : State) : Host.Outcome State Fault Refusal := s.onPart (ethFrameTx port)

/-- The next entry is in force once the interval of the present one is over. -/
def Chip.advanceGate (c : Chip) (port : Nat) (g : GateRun) : Chip :=
  let t := g.since + (g.entries.getD g.index (0, 0)).2
  if c.now < t then c
  else c.updNet (fun n => { n with gates := AMap.set n.gates port { g with index := (g.index + 1) % g.entries.length, since := t } })

/-- The gate list in force goes on. -/
def Chip.gateGoesOn (c : Chip) (port : Nat) : Chip :=
  match AMap.get? c.net.gates port with
  | some h => c.advanceGate port h
  | none => c

/-- R476, R481: an interval of a port's gate list ends, or its new list starts. -/
def gateInterval (port : Nat) (c : Chip) : Chip :=
  match AMap.get? c.net.nextGates port with
  | some g => if g.since ≤ c.now then c.updNet (fun n => { n with gates := AMap.set n.gates port g, nextGates := AMap.del n.nextGates port }) else c.gateGoesOn port
  | none => c.gateGoesOn port

def execGateInterval (port : Nat) (s : State) : Host.Outcome State Fault Refusal := s.on (gateInterval port)

/-- R482: transmit descriptors taken one by one up to TAIL, each frame entering the switch at port 8 with PCP q. -/
def Chip.takeTx (r : Nat) : Nat → Chip → Chip
  | 0, c => c
  | n + 1, c =>
    let i := AMap.getD c.net.dmaTaken r 0
    let c := c.updNet (fun w => { w with dmaTaken := AMap.set w.dmaTaken r ((i + 1) % 2 ^ 32) })
    let (o, d, c) := c.loadRange netMaster c.netTag (c.descAt r i) 32
    let (o', b, c) := if o = .ok then c.loadRange netMaster c.netTag (bytesU d 0 6) (bytesU d 8 2 % 2 ^ 14) else (o, [], c)
    let c := if o' ≠ .ok ∨ b.length < 14 ∨ 9216 < b.length + 4 then c.txDone (some (r, i)) none
      else
        let (f, tag) := parseFrame b
        c.forward { f with vid := match tag with | some (v, _) => v | none => 1, pcp := r, port := 8, time := c.now, desc := some (r, i) }
    Chip.takeTx r n c

/-- The descriptors that a ring has not taken yet. -/
def Chip.postedTx (c : Chip) (ring v : Nat) : Nat := min (idxSub v (AMap.getD c.net.dmaTaken ring 0)) (2 ^ (c.fld (NET_DMA_RING ring) NET_DMA_RING.LOG2 + 4))

/-- A write of NET_DMA_TAIL posts descriptors. -/
def netDmaTail (tag ring v : Nat) (c : Chip) : Chip :=
  if 16 ≤ ring ∨ c.netTagOk tag = false then c
  else
    let c := c.setReg (NET_DMA_TAIL ring) v
    if 8 ≤ ring ∨ c.flag (NET_DMA_RING ring) NET_DMA_RING.EN = false then c else Chip.takeTx ring (c.postedTx ring v) c

def execNetDmaTail (tag ring : Nat) (tail : W32) (s : State) : Host.Outcome State Fault Refusal := s.on (netDmaTail tag ring tail.toNat)

/-- A REC stream whose RESET_MS has passed without a frame. -/
def Chip.recoveryOld (c : Chip) (stream : Nat) : Bool :=
  let e := swEntry c.net.image 4 stream
  decide (stream < swCount c.net.image 4) && bytesU e 8 1 == 1 && (match AMap.get? c.net.recovery (swKey e) with
    | some r => decide (r.last + bytesU e 10 2 * 1000000 ≤ c.now)
    | none => false)

/-- R477: a REC stream without a frame for RESET_MS forgets its history. -/
def frerReset (stream : Nat) (c : Chip) : Chip :=
  if c.recoveryOld stream then c.updNet (fun n => { n with recovery := AMap.del n.recovery (swKey (swEntry c.net.image 4 stream)) }) else c

def execFrerReset (stream : Nat) (s : State) : Host.Outcome State Fault Refusal := s.on (frerReset stream)

/-- R495: a port's link goes down. -/
def ethLinkDown (port : Nat) (c : Chip) : Chip :=
  if 8 ≤ port ∨ c.flag (NET_PORT_STATUS port) NET_PORT_STATUS.UP = false then c
  else ((c.setFld (NET_PORT_STATUS port) NET_PORT_STATUS.UP 0).setFld (NET_PORT_STATUS port) NET_PORT_STATUS.MBPS 0).netRecord 0 0x0A port none

def execEthLinkDown (port : Nat) (s : State) : Host.Outcome State Fault Refusal := s.on (ethLinkDown port)

/-! ### CAN (R483 to R486) -/

/-- The data lengths that a frame's kind allows. -/
def CanFrame.lengthOk (f : CanFrame) : Bool :=
  let n := f.data.length
  if f.xlf then decide (1 ≤ n) && decide (n ≤ 2048) else if f.fdf then decide (n ≤ 8) || [12, 16, 20, 24, 32, 48, 64].contains n else decide (n ≤ 8)

/-- The controller takes frames of this kind: XL on controllers 0 to 3. -/
def Chip.canTakes (c : Chip) (n : Nat) (f : CanFrame) : Bool :=
  f.lengthOk && if f.xlf then decide (n < 4) && c.canMode n == 2 else !f.fdf || c.canMode n != 0

/-- R486: the first route of a frame. -/
def Chip.routeOf (c : Chip) (src : Nat) (f : CanFrame) : Option (List Byte) :=
  (swEntries c.net.image 5).find? (fun e =>
    let s := bytesU e 8 1 % 32
    (s == src || s == 31) && bitOf (bytesU e 0 4) 29 == f.ide && ((bytesU e 0 4 % 2 ^ 29) ^^^ f.id) &&& (bytesU e 4 4 % 2 ^ 29) == 0)

def Chip.canSlot (n : Nat) : Nat := if n < 4 then 2080 else 96

/-- R484: a record into the receive ring, in single 32-bit writes across the bridge. -/
def Chip.canRecord (c : Chip) (n : Nat) (b : List Byte) : Chip :=
  let size := 2 ^ c.fld (CAN_RX_BASE_HI n) CAN_RX_BASE_HI.LOG2
  let prod := c.reg (CAN_RX_PROD n)
  if c.reg (CAN_RX_HEAD n) = idxSub prod size then c.count (CAN_RX_DROPS n) CAN_RX_DROPS.COUNT 1
  else
    let base := c.reg (CAN_RX_BASE_LO n) / 4096 * 4096 + c.fld (CAN_RX_BASE_HI n) CAN_RX_BASE_HI.ADDR * 2 ^ 32
    let words := (List.range (b.length / 4)).map (fun i => (base + Chip.canSlot n * (prod % size) + 4 * i, 4))
    let (o, _, c) := c.savePieces canMaster c.canTag 3 words b
    if o = .ok then c.setReg (CAN_RX_PROD n) (prod + 1) else c

/-- The controller is on the bus: the part active, the controller enabled and not bus-off. -/
def Chip.canOn (c : Chip) (n : Nat) : Bool :=
  decide (n < 16) && c.power.mode == PartMode.active && c.flag (CAN_CTRL n) CAN_CTRL.EN && c.fld (CAN_STATUS n) CAN_STATUS.STATE != 2

/-- R484, R486: a frame follows its route: to the ring, to gateway queues, and over Ethernet. -/
def Chip.canRoute (c : Chip) (n sof : Nat) (e : List Byte) (f : CanFrame) : Chip :=
  let c := if bitOf (bytesU e 8 1) 5 then c.canRecord n (f.record sof true) else c
  let c := c.gatewayAll (bytesU e 10 2) f
  if bytesU e 9 1 = 0xFF then c else c.acfSend n (bytesU e 9 1) sof f

/-- R217, R484, R486: a controller receives a frame: the WHEEL streams of its filters, its route, its ring, the gateway
queues and the ACF entry. -/
def canFrameRx (n : Nat) (sof : Nat) (f : CanFrame) (c : Chip) : Chip :=
  if !c.canOn n || !c.canTakes n f then c
  else
    let c := c.wheelFrames n f.idw sof f.data
    match c.routeOf n f with
    | none => if c.flag (CAN_CTRL n) CAN_CTRL.RX_UNMATCHED then c.canRecord n (f.record sof false) else c
    | some e => c.canRoute n sof e f

def execCanFrameRx (controller : Nat) (sof : W64) (idw : W32) (flags sdt vcid : Nat) (af : W32) (data : List Byte) (s : State) : Host.Outcome State Fault Refusal :=
  s.on (canFrameRx controller sof.toNat { idw := idw.toNat % 2 ^ 31, flags := flags % 16, sdt := sdt % 256, vcid := vcid % 256, af := af.toNat, data := data })

/-- Bytes of the message RAM from an offset, wrapping at its end. -/
def Chip.canRamRead (c : Chip) (n off k : Nat) : List Byte := (List.range k).map (fun i => memGet c.net.canRam (n * 0x2000 + (off + i) % canRamSize n))

/-- The record at the head of the transmit ring, and the offset behind it. -/
def Chip.canTxHead (c : Chip) (n : Nat) : Option (CanFrame × Nat) :=
  let z := canRamSize n
  let h := c.reg (CAN_TX_HEAD n) % z
  let left := (c.reg (CAN_TX_TAIL n) % z + z - h) % z
  let b := c.canRamRead n h 32
  let len := bytesU b 14 2
  let size := 32 + (len + 3) / 4 * 4
  if left < size then none
  else some ({ idw := bytesU b 8 4 % 2 ^ 31, flags := bytesU b 12 1 % 16, sdt := bytesU b 13 1, vcid := bytesU b 16 1, af := bytesU b 20 4, data := c.canRamRead n (h + 32) len }, (h + size) % z)

/-- A write of CAN_TX_TAIL: the records up to it are offered. -/
def canTxTail (tag n v : Nat) (c : Chip) : Chip :=
  if 16 ≤ n ∨ (tag ≠ 0 ∧ tag ≠ c.canTag) then c else c.setReg (CAN_TX_TAIL n) v

def execCanTxTail (tag controller : Nat) (offset : W32) (s : State) : Host.Outcome State Fault Refusal := s.on (canTxTail tag controller offset.toNat)

/-- R485: the frame a controller offers: a safe-state message, else the lower identifier of its gateway and ring heads;
and what its sending removes. -/
def Chip.canOffer (c : Chip) (n : Nat) : Option (CanFrame × Chip) :=
  let gw := c.updNet (fun w => { w with gateway := AMap.upd w.gateway n [] List.tail })
  match AMap.getD c.net.canSafe n [], AMap.getD c.net.gateway n [], c.canTxHead n with
  | f :: _, _, _ => some (f, c.updNet (fun w => { w with canSafe := AMap.upd w.canSafe n [] List.tail }))
  | [], g :: _, some (r, h) => if r.id < g.id then some (r, c.setReg (CAN_TX_HEAD n) h) else some (g, gw)
  | [], g :: _, none => some (g, gw)
  | [], [], some (r, h) => some (r, c.setReg (CAN_TX_HEAD n) h)
  | [], [], none => none

/-- R485: an arbitration: the frame offered is sent, or loses and is offered again at the next. -/
def canArbitration (n : Nat) (won : Bool) (c : Chip) : Chip :=
  if !c.canOn n || !won then c
  else match c.canOffer n with
    | none => c
    | some (f, c) => c.send (.can n f.id f.ide) (f.record 0 false)

def execCanArbitration (controller : Nat) (won : Bool) (s : State) : Host.Outcome State Fault Refusal := s.on (canArbitration controller won)

/-- The state that error counts give a controller; the limits are those of ISO 11898-1 (PRESUMED, log 68). -/
def canStateOf (tec rec : Nat) : Nat := if 256 ≤ tec then 2 else if 128 ≤ tec ∨ 128 ≤ rec then 1 else 0

/-- R495: the error counts of a controller, and the state and record of the limit they cross. -/
def canBusOff (n tec rec : Nat) (c : Chip) : Chip :=
  if 16 ≤ n then c
  else
    let old := c.fld (CAN_STATUS n) CAN_STATUS.STATE
    let new := canStateOf tec rec
    let c := c.setReg (CAN_STATUS n) (min tec 255 * 2 ^ 24 + min rec 255 * 2 ^ 16 + new)
    if new = 2 ∧ old ≠ 2 then c.netRecord 2 6 (0x10 + n) none
    else if new = 1 ∧ old = 0 then c.netRecord 1 5 (0x10 + n) none
    else c

def execCanBusOff (controller tec rec : Nat) (s : State) : Host.Outcome State Fault Refusal := s.on (canBusOff controller tec rec)

end Sys2Proof.Machine
end

