-- ==== Sys2Proof/Machine/Clock.lean ====
section
/-!
DEFINITION. Device time: the gPTP servo, holdover, the choice of a grandmaster and the messages of a time-aware system
(18 R488 to R494).
-/

namespace Sys2Proof.Machine

/-- A port runs gPTP (R490). -/
def Chip.ptpPort (c : Chip) (p : Nat) : Bool := decide (p < 8) && bitOf (c.ptpU 6 1) p
def Chip.slavePort (c : Chip) : Nat := c.fld NET_TIME_STATUS NET_TIME_STATUS.SLAVE_PORT
def Chip.isGrandmaster (c : Chip) : Bool := c.flag NET_TIME_STATUS NET_TIME_STATUS.GRANDMASTER
def Chip.setQuality (c : Chip) (q : Nat) : Chip := c.setFld NET_TIME_STATUS NET_TIME_STATUS.QUALITY q
/-- DOMAIN_ROLE and TWIN_ROLE of the profile (R412). -/
def Chip.domainRole (c : Chip) : Nat := bitsOf (bytesU c.power.profile 7 1) 5 4
def Chip.twinRole (c : Chip) : Nat := bitsOf (bytesU c.power.profile 7 1) 3 2
/-- The sync interval in ns: 2^LOG_SYNC s. -/
def Chip.syncNs (c : Chip) : Nat := 1000000000 / 2 ^ (sx 8 (c.ptpU 4 1)).natAbs

/-- R491: device time is stepped: the triggers that run are armed again, and a watch whose deadline lies ahead once more
judges it once more. -/
def Chip.stepTime (c : Chip) (port : Nat) (offsetPs : Int) : Chip :=
  let ns := offsetPs / 1000
  let ps := (c.now : Int) * 1000 + (c.net.frac * 1000 / 2 ^ 32 : Nat) - offsetPs
  let back := decide (0 < ns)
  let c := { c with now := (ps / 1000).toNat }.updNet (fun n => { n with frac := (ps % 1000).toNat * 2 ^ 32 / 1000 })
  let c := c.netRecord 1 9 port (some (ux 64 (-ns)))
  let c := (List.range 16).foldl (fun (c : Chip) n =>
    if c.flag (CFL_TRIG_CTRL n) CFL_TRIG_CTRL.EN then
      let e := c.firstEdge n
      if timeBefore (c.now + 2147000000) e then (c.setFld (CFL_TRIG_CTRL n) CFL_TRIG_CTRL.EN 0).setFld (CFL_TRIG_CTRL n) CFL_TRIG_CTRL.ARM_ERR 1
      else c.setReg (CFL_TRIG_NEXT n) e
    else c) c
  if back then
    c.safe.outputs.foldl (fun (c : Chip) o => if o.2.armed && decide (o.2.firstAfter c.now < o.2.k) then c.setOutput o.1 { o.2 with k := o.2.firstAfter c.now, met := false } else c) c
  else c

/-- The port takes gPTP messages: the part is active, and the port runs gPTP (R490). -/
def Chip.ptpOn (c : Chip) (port : Nat) : Bool := c.power.mode == PartMode.active && c.ptpPort port

/-- R491: the offset in ps of device time from a Sync's: `rx` is the time-stamp at the MAC in ps, the other operands are what
it carries: its origin time-stamp, and its correction in 2^-16 ns. -/
def Chip.syncOffset (c : Chip) (port rx seconds nanos corr : Nat) : Int :=
  c.stampIn port rx - (((seconds * 1000000000 + nanos) * 1000 + corr * 1000 / 2 ^ 16 + c.reg (NET_PDELAY port) * 1000 : Nat) : Int)

/-- The rate and the offset measured; the Sync is kept for the master ports. -/
def Chip.syncMeasured (c : Chip) (port rx seconds nanos corr : Nat) (ns : Int) : Chip :=
  let (rate, c) := c.draw
  let c := c.setReg NET_RATE (rate.toNat % 2 ^ 32)
  let c := c.setReg NET_OFFSET (ux 32 (max (-(2 ^ 31)) (min (2 ^ 31 - 1) ns)))
  c.updNet (fun n => { n with lastSync := c.now, relay := some (bigBytes 6 seconds ++ bigBytes 4 nanos, corr, (c.stampIn port rx / 1000).toNat) })

/-- Four Syncs in a row within SYNC_NS lock device time. -/
def Chip.syncJudged (c : Chip) (ns : Int) : Chip :=
  let c := c.updNet (fun n => { n with lastSync := c.now, good := if ns.natAbs ≤ c.ptpU 12 4 then n.good + 1 else 0 })
  if 4 ≤ c.net.good then (c.setQuality 0).updNet (fun n => { n with heldSince := none }) else c

/-- R491: a Sync on the slave port: the rate and the offset are measured, device time is stepped or slewed, and four Syncs in
a row within SYNC_NS lock it. -/
def ptpSyncRx (port rx seconds nanos corr : Nat) (c : Chip) : Chip :=
  if !c.ptpOn port || port != c.slavePort then c
  else
    let offsetPs := c.syncOffset port rx seconds nanos corr
    let q := c.fld NET_TIME_STATUS NET_TIME_STATUS.QUALITY
    let c := c.syncMeasured port rx seconds nanos corr (offsetPs / 1000)
    (if 2 ≤ q ∧ c.ptpU 16 4 < (offsetPs / 1000).natAbs then c.stepTime port offsetPs else c).syncJudged (offsetPs / 1000)

def execPtpSyncRx (port rx seconds nanos corr : Nat) (s : State) : Host.Outcome State Fault Refusal := s.on (ptpSyncRx port rx seconds nanos corr)

/-! ### Messages (R493), laid out as IEEE 802.1AS-2020 has them (PRESUMED, log 68) -/

/-- The 34-byte header of a message. -/
def Chip.ptpHead (c : Chip) (type len flags corr port seq log : Nat) : List Byte :=
  bigBytes 1 (16 + type) ++ [0x02] ++ bigBytes 2 len ++ bigBytes 1 (c.ptpU 1 1) ++ [0] ++ bigBytes 2 flags ++ bigBytes 8 corr ++ bigBytes 4 0 ++
  bigBytes 8 Config.clockIdentity.toNat ++ bigBytes 2 (port + 1) ++ bigBytes 2 seq ++ [if type = 0 then 0 else if type = 8 then 2 else 5] ++ bigBytes 1 log

/-- A message leaves in a frame of EtherType 0x88F7 to the link-local group address, its source address free. -/
def Chip.ptpSend (c : Chip) (port : Nat) (b : List Byte) : Chip :=
  let (x, c) := c.drawBytes 6
  (c.send (.eth port) ([0x01, 0x80, 0xC2, 0x00, 0x00, 0x0E] ++ x ++ [0x88, 0xF7] ++ b)).count (NET_TX_FRAMES port) NET_TX_FRAMES.COUNT 1

def Chip.nextSyncSeq (c : Chip) (port : Nat) : Nat × Chip :=
  let n := AMap.getD c.net.syncSeq port 0
  (n, c.updNet (fun w => { w with syncSeq := AMap.set w.syncSeq port ((n + 1) % 2 ^ 16) }))

/-- A master port sends Sync: it is up, and not the slave port. -/
def Chip.syncMaster (c : Chip) (port : Nat) : Bool :=
  c.ptpOn port && port != c.slavePort && c.flag (NET_PORT_STATUS port) NET_PORT_STATUS.UP && c.fld (NET_PORT_STATUS port) NET_PORT_STATUS.PTP_STATE == 1

/-- What a Sync at a master port carries: the origin time-stamp and the correction, of the grandmaster's own time, or of the
slave port's Sync with the link delay and the residence time added, both scaled by a rate ratio that the spec leaves to the
servo. -/
def Chip.syncOut (c : Chip) (port : Nat) : Option (List Byte × Nat) :=
  let tps := c.stampOut port ((c.now : Int) * 1000)
  let t := (tps / 1000).toNat
  if c.isGrandmaster then
    some (bigBytes 6 (t / 1000000000) ++ bigBytes 4 (t % 1000000000), ((tps % 1000).toNat * 2 ^ 16 + c.net.frac * 1000 / 2 ^ 16) / 1000)
  else match c.net.relay with
    | none => none
    | some (stamp, corr, at_) =>
      -- the rate ratio's share of the correction, in 2^-16 ns
      some (stamp, corr + (c.reg (NET_PDELAY c.slavePort) + (t - at_)) * 2 ^ 16 + c.draw.1.toNat % 2 ^ 16)

/-- The draw that a relayed Sync takes. -/
def Chip.syncDrawn (c : Chip) : Chip := if c.isGrandmaster then c else c.draw.2

/-- A one-step Sync; its information TLV is free. -/
def Chip.sendSync (c : Chip) (port : Nat) (stamp : List Byte) (corr : Nat) : Chip :=
  let (n, c) := c.nextSyncSeq port
  let (tlv, c) := c.drawBytes 32
  c.ptpSend port (c.ptpHead 0 76 0x0008 corr port n (c.ptpU 4 1) ++ stamp ++ tlv)

/-- R493: a one-step Sync at a master port. -/
def ptpSyncTx (port : Nat) (c : Chip) : Chip :=
  if !c.syncMaster port then c
  else match c.syncOut port with
    | none => c
    | some (stamp, corr) => c.syncDrawn.sendSync port stamp corr

def execPtpSyncTx (port : Nat) (s : State) : Host.Outcome State Fault Refusal := s.on (ptpSyncTx port)

/-- Seconds and nanoseconds of a time in ns. -/
def ptpStamp (t : Nat) : List Byte := bigBytes 6 (t / 1000000000) ++ bigBytes 4 (t % 1000000000)

/-- The answer to a Pdelay_Req: Pdelay_Resp with its time-stamp, and the follow-up with the answer's own. -/
def Chip.answerDelay (c : Chip) (port rx seq : Nat) (peer : List Byte) : Chip :=
  let t2 := (c.stampIn port rx / 1000).toNat
  let t3 := (c.stampOut port ((c.now : Int) * 1000) / 1000).toNat
  let c := c.ptpSend port (c.ptpHead 3 54 0x0208 0 port seq 0x7F ++ ptpStamp t2 ++ peer)
  c.ptpSend port (c.ptpHead 10 54 0x0008 0 port seq 0x7F ++ ptpStamp t3 ++ peer)

/-- R493, R494: a Pdelay_Req received at `rx` ps is answered.  `peer` is the requester's 10-byte port identity. -/
def pdelayReq (port rx seq : Nat) (peer : List Byte) (c : Chip) : Chip :=
  if !c.ptpOn port || !c.flag (NET_PORT_STATUS port) NET_PORT_STATUS.UP then c else c.answerDelay port rx seq peer

def execPdelayReq (port rx seq : Nat) (peer : List Byte) (s : State) : Host.Outcome State Fault Refusal := s.on (pdelayReq port rx seq peer)

/-- R494: the mean link delay in ps, from the part's own raw stamps t1 and t4 and the partner's t2 and t3, all in ps. -/
def Chip.linkDelay (c : Chip) (port t1 t2 t3 t4 : Nat) : Int := ((c.stampIn port t4 - c.stampOut port t1) - ((t3 : Int) - t2)) / 2

/-- R494: the mean link delay is measured. -/
def pdelayResp (port t1 t2 t3 t4 : Nat) (c : Chip) : Chip :=
  if c.ptpOn port then c.setReg (NET_PDELAY port) (ux 32 (c.linkDelay port t1 t2 t3 t4 / 1000)) else c

def execPdelayResp (port t1 t2 t3 t4 : Nat) (s : State) : Host.Outcome State Fault Refusal := s.on (pdelayResp port t1 t2 t3 t4)

/-! ### Loss and choice of the grandmaster (R490, R492) -/

/-- R492 step 1. -/
def Chip.holdover (c : Chip) : Chip :=
  if c.quality ≠ 0 then c
  else ((c.setQuality 1).updNet (fun n => { n with heldSince := some c.now, good := 0 })).netRecord 1 7 (c.slavePort % 16) none

/-- No Sync has come on the slave port for 3 sync intervals. -/
def Chip.syncMissing (c : Chip) : Bool :=
  c.power.mode == PartMode.active && !c.isGrandmaster && c.slavePort != 0xFF && decide (c.net.lastSync + 3 * c.syncNs ≤ c.now)

/-- R492: no Sync on the slave port for 3 sync intervals. -/
def gmLoss (c : Chip) : Chip := if c.syncMissing then c.holdover else c

def execGmLoss (s : State) : Host.Outcome State Fault Refusal := s.on gmLoss

/-- Holdover has lasted HOLDOVER_MS. -/
def Chip.holdoverOver (c : Chip) : Bool :=
  c.quality == 1 && (match c.net.heldSince with
    | some t => decide (t + c.ptpU 8 4 * 1000000 ≤ c.now)
    | none => false)

/-- R492 step 2. -/
def holdoverExpiry (c : Chip) : Chip := if c.holdoverOver then (c.setQuality 2).netRecord 1 8 (c.slavePort % 16) none else c

def execHoldoverExpiry (s : State) : Host.Outcome State Fault Refusal := s.on holdoverExpiry

/-- Field by field, the first difference decides. -/
def vectorBefore : List Nat → List Nat → Bool
  | [], _ => false
  | _, [] => true
  | x :: l, y :: m => decide (x < y) || (x == y && vectorBefore l m)

/-- The part's own priority vector: its clock's class, accuracy and variance are the defaults of IEEE 802.1AS (PRESUMED,
log 68); only a part with DOMAIN_ROLE 2 announces PRIORITY1. -/
def Chip.ownVector (c : Chip) : List Nat :=
  [if c.domainRole = 2 then c.ptpU 2 1 else 255, 248, 0xFE, 0x436A, c.ptpU 3 1, Config.clockIdentity.toNat, 0]

/-- The port whose announced master is the best. -/
def bestMaster : AMap PtpMaster → Option (Nat × PtpMaster)
  | [] => none
  | x :: l => match bestMaster l with
    | none => some x
    | some y => if vectorBefore y.2.vector x.2.vector then some y else some x

/-- Roles of the ports, and the grandmaster, as the announcements stand. -/
def Chip.chooseMaster (c : Chip) : Chip :=
  let own := c.ownVector
  let best := bestMaster c.net.masters
  let mine := c.domainRole == 2 && (match best with | none => true | some (_, m) => vectorBefore own m.vector)
  let slave := if mine then 0xFF else (best.map (·.1)).getD 0xFF
  let out := if mine then own else (best.map (fun b => b.2.vector.set 6 (b.2.vector.getD 6 0 + 1))).getD own
  let c := (List.range 8).foldl (fun (c : Chip) p =>
    let st := if !c.ptpPort p then 0 else if p = slave then 2 else match AMap.get? c.net.masters p with
      | some m => if vectorBefore m.vector out then 3 else 1
      | none => 1
    c.setFld (NET_PORT_STATUS p) NET_PORT_STATUS.PTP_STATE st) c
  let c := c.setReg NET_GM_ID (if mine then Config.clockIdentity.toNat else (best.map (·.2.gm)).getD 0)
  let c := c.setFld NET_TIME_STATUS NET_TIME_STATUS.SLAVE_PORT slave
  let c := c.setFld NET_TIME_STATUS NET_TIME_STATUS.GRANDMASTER (b2n mine)
  if mine then (c.setQuality 0).updNet (fun n => { n with heldSince := none })
  else if slave = 0xFF then c.holdover
  else c

/-- What a port hears of a master, or no longer. -/
def Chip.heard (c : Chip) (port : Nat) (m : Option PtpMaster) : Chip :=
  c.updNet (fun n => { n with masters := match m with
    | some m => AMap.set n.masters port m
    | none => AMap.del n.masters port })

/-- R490: an Announce at a port, or the end of its validity with `present` clear, and the algorithm's new choice. -/
def gptpAnnounce (port : Nat) (present : Bool) (p1 cls acc var p2 gm steps : Nat) (c : Chip) : Chip :=
  if !c.ptpOn port ∨ c.ptpU 0 1 ≠ 0 ∨ gm = Config.clockIdentity.toNat then c
  else (c.heard port (if present then some { vector := [p1, cls, acc, var, p2, gm, steps], gm := gm } else none)).chooseMaster

def execGptpAnnounce (port : Nat) (present : Bool) (p1 cls acc var p2 : Nat) (gm : W64) (steps : Nat) (s : State) : Host.Outcome State Fault Refusal :=
  s.on (gptpAnnounce port present p1 cls acc var p2 gm.toNat steps)

/-- R490: port roles when an image takes effect: static ones are set, the algorithm starts from no announcement. -/
def Chip.ptpStart (c : Chip) : Chip :=
  if c.ptpU 0 1 = 0 then (c.updNet (fun n => { n with masters := [], lastSync := c.now })).chooseMaster
  else
    let s := c.ptpU 5 1
    let c := (List.range 8).foldl (fun (c : Chip) p => c.setFld (NET_PORT_STATUS p) NET_PORT_STATUS.PTP_STATE (if !c.ptpPort p then 0 else if p = s then 2 else 1)) c
    let c := (c.setFld NET_TIME_STATUS NET_TIME_STATUS.SLAVE_PORT s).setFld NET_TIME_STATUS NET_TIME_STATUS.GRANDMASTER (b2n (s == 0xFF))
    let c := c.updNet (fun n => { n with lastSync := c.now })
    if s = 0xFF then (c.setReg NET_GM_ID Config.clockIdentity.toNat).setQuality 0 else c

/-- A read of NET_TIME_NS. -/
def timeReq (master tag : Nat) : Req := { master := master, tag := tag, addr := NET_TIME_NS.addr, len := 8, write := false }

/-- R489: a read of NET_TIME_NS answers device time and latches that instant's fraction; only slice tag 0 may. -/
def netTimeRead (master tag : Nat) (c : Chip) : Chip :=
  let id := c.nextReq
  let c := { c with nextReq := c.nextReq + 1 }
  if tag ≠ 0 then
    let c := c.denied (timeReq master tag) .sliceTag 43
    { c with replies := AMap.set c.replies master { id := id, status := .busError, data := List.replicate 8 0 } }
  else
    let c := c.setReg NET_TIME_FRAC c.net.frac
    { c with replies := AMap.set c.replies master { id := id, status := .value, data := leBytes 8 c.now } }

def execNetTimeRead (master tag : Nat) (s : State) : Host.Outcome State Fault Refusal := s.on (netTimeRead master tag)

end Sys2Proof.Machine
end

