-- ==== Sys2Proof/Machine/Links.lean ====
section
/-!
DEFINITION. The twin link: pairing, heartbeats and partner loss, checkpoints, detaching and the recovery messages
(17 R446 to R457, R471).
-/

namespace Sys2Proof.Machine

def Chip.updLink (c : Chip) (f : Links → Links) : Chip := { c with link := f c.link }

/-- Port modes (R440). -/
def pmTwin : Nat := 0
def pmEndpoint : Nat := 1
def pmRecovery : Nat := 2
def pmOff : Nat := 3
def Chip.portMode (c : Chip) (p : Nat) : Nat := c.fld (LNK_PORT_STATUS p) LNK_PORT_STATUS.MODE
def Chip.portUp (c : Chip) (p : Nat) : Bool := c.flag (LNK_PORT_STATUS p) LNK_PORT_STATUS.UP

/-- States of the pairing (R472). -/
def twUnpaired : Nat := 0
def twPairing : Nat := 1
def twPaired : Nat := 2
def twLost : Nat := 3
def twDetached : Nat := 4
def twFault : Nat := 5
def Chip.twin (c : Chip) : Nat := c.fld LNK_TWIN_STATUS LNK_TWIN_STATUS.STATE
def Chip.setTwin (c : Chip) (st : Nat) : Chip := c.setFld LNK_TWIN_STATUS LNK_TWIN_STATUS.STATE st

/-- Port 0 carries the twin path of an Active part. -/
def Chip.twinPort (c : Chip) : Bool := c.power.mode == PartMode.active && c.twinRole != 0 && c.portMode 0 == pmTwin
/-- The twin path is there. -/
def Chip.twinOn (c : Chip) : Bool := c.twinPort && c.portUp 0

/-- The domain section of the profile, its fields zero where it does not begin with its MAGIC (R463). -/
def Chip.domU (c : Chip) (off k : Nat) : Nat :=
  let s := c.power.profile.drop (bytesU c.power.profile 32 4)
  if bytesU s 0 4 = 0x444F4D4E then bytesU s off k else 0
def Chip.domBytes (c : Chip) (off k : Nat) : List Byte := leBytes k (c.domU off k)

/-- A record of source 12 (R471). -/
def Chip.linkRecord (c : Chip) (severity cause unit : Nat) (detail : Option Nat) : Chip :=
  c.error { severity := severity, cause := cause, source := 12, unit := unit, detail := detail }

/-- R447: a message on the twin path, with its header, and the bare data that follows it. -/
def Chip.twinSend (c : Chip) (type flags : Nat) (body : List Byte) (bare : List Byte := []) : Chip :=
  let h := leBytes 1 type ++ leBytes 1 flags ++ leBytes 2 body.length ++ leBytes 4 c.link.seq
  (c.updLink (fun l => { l with seq := (l.seq + 1) % 2 ^ 32 })).send .twin (h ++ body ++ bare)

/-! ### Pairing (R446) -/

/-- A pairing begins: a new nonce, and HELLO. -/
def Chip.sayHello (c : Chip) : Chip :=
  let (n, c) := c.drawBytes 32
  let c := (c.updLink (fun l => { l with nonce := some n, peer := none, sentPaired := false, gotPaired := false, faultAt := none })).setTwin twPairing
  c.twinSend 0x01 0 (leBytes 1 (c.twinId % 2) ++ leBytes 1 c.twinRole ++ leBytes 6 0 ++ n)

/-- Bundle bytes asked for at a time in recovery (R456). -/
def recChunk : Nat := 0x100000

/-- Port 0 shows its link up at a rate. -/
def Chip.twinUp (c : Chip) (gbps : Nat) : Chip := (c.setFld (LNK_PORT_STATUS 0) LNK_PORT_STATUS.UP 1).setFld (LNK_PORT_STATUS 0) LNK_PORT_STATUS.GBPS gbps

/-- Port 0 comes up: in TWIN mode pairing begins; in recovery the first of the bundle is asked for. -/
def twinLinkUp (gbps : Nat) (c : Chip) : Chip :=
  if c.power.mode = .recovery ∧ c.portMode 0 = pmRecovery then (c.twinUp gbps).twinSend 0x40 0 (leBytes 4 0 ++ leBytes 4 recChunk)
  else if c.twinPort = false ∨ c.twin = twDetached then c
  else if c.vehicleUp then (c.twinUp gbps).sayHello else c.twinUp gbps

def execTwinLinkUp (gbps : Nat) (s : State) : Host.Outcome State Fault Refusal := s.on (twinLinkUp gbps)

/-- Pairing is a vehicle-class service of the security core (R446). -/
def Chip.canPair (c : Chip) : Bool := c.twinOn && c.vehicleUp && c.twin != twDetached

/-- The partner's HELLO is kept; one that comes outside a pairing begins one. -/
def Chip.heardHello (c : Chip) (twinId role : Nat) (nonce : List Byte) : Chip :=
  (if c.twin = twPairing ∧ c.link.nonce.isSome = true then c else c.sayHello).updLink (fun l => { l with peer := some { twinId := twinId, role := role, nonce := nonce } })

/-- The report over a nonce goes to the partner. -/
def Part.sendReport (p : Part) (nonce : List Byte) : Part :=
  let (r, p) := p.signedReport (nonce.take 32 ++ List.replicate (32 - nonce.length) 0)
  { p with chip := p.chip.twinSend 0x02 0 r }

/-- A HELLO is answered with a report over its nonce. -/
def twinHello (twinId role : Nat) (nonce : List Byte) (p : Part) : Part :=
  if p.chip.canPair = false then p else Part.sendReport { p with chip := p.chip.heardHello twinId role nonce } nonce

def execTwinHello (twinId role : Nat) (nonce : List Byte) (s : State) : Host.Outcome State Fault Refusal := s.onPart (twinHello twinId role nonce)

/-- A heartbeat window's number: the window [k ms − 0.5 ms, k ms + 0.5 ms) of a device time (R449). -/
def windowOf (t : Nat) : Nat := (t + 500000) / 1000000

/-- R446 step 4: both sides have sent PAIRED. -/
def Chip.pairUp (c : Chip) : Chip :=
  if c.link.sentPaired && c.link.gotPaired && c.twin == twPairing then
    let c := (c.setTwin twPaired).setFld LNK_TWIN_STATUS LNK_TWIN_STATUS.MISSES 0
    let c := c.updLink (fun l => { l with window := windowOf c.now, missPath := 0, missPin := 0, windowPaired := true, ckptSent := [], nonce := none })
    let c := c.event 0 0x0601 0xFFFF 0 (bytesU c.link.peerId 0 8) 0
    if c.flag LNK_TWIN_STATUS LNK_TWIN_STATUS.CARRYING then c.event 0 0x0605 0xFFFF 0 c.now 0 else c
  else c

/-- A failed check: PAIR_FAULT, its event and record; pairing begins again 1 s later. -/
def Chip.pairFault (c : Chip) (cause : Nat) : Chip :=
  let c := (c.setTwin twFault).updLink (fun l => { l with faultAt := some c.now, nonce := none })
  (c.event 0 0x0602 0xFFFF 0 cause 0).linkRecord 2 3 0 (some cause)

/-- R446 step 3: the first check that a report fails, as TWIN_PAIR_FAULT numbers it. -/
def Chip.reportFault (c : Chip) (r : List Byte) : Option Nat :=
  let pub := (r.drop 480).take 96
  if Config.verify pub (r.take 576) ((r.drop 576).take 96) = false then some 3
  else if sha384Bytes pub ≠ c.domBytes 32 48 then some 2
  else if c.link.nonce ≠ some ((r.drop 32).take 32) then some 4
  else if bytesU r 25 1 % 2 = c.twinId % 2 then some 1
  else match c.link.peer with
    | some h => if h.role = 1 ∨ h.role = 2 then none else some 5
    | none => some 5

/-- What the judgement of the partner's report leaves: PAIRED sent, or PAIR_FAULT with its cause. -/
def Chip.reportJudged (c : Chip) (r : List Byte) (fault : Option Nat) : Chip :=
  match fault with
  | some k => (c.twinSend 0x04 0 (leBytes 1 k)).pairFault k
  | none => ((c.updLink (fun l => { l with sentPaired := true, peerId := sha384Bytes ((r.drop 480).take 96) })).twinSend 0x03 0 []).pairUp

/-- The partner's report is judged. -/
def twinReport (r : List Byte) (c : Chip) : Chip :=
  if c.canPair = false ∨ c.twin ≠ twPairing ∨ c.link.nonce.isNone = true then c else c.reportJudged r (c.reportFault r)

def execTwinReport (report : List Byte) (s : State) : Host.Outcome State Fault Refusal := s.on (twinReport report)

def twinPaired (c : Chip) : Chip :=
  if c.canPair = false ∨ c.twin ≠ twPairing then c else (c.updLink (fun l => { l with gotPaired := true })).pairUp

def execTwinPaired (s : State) : Host.Outcome State Fault Refusal := s.on twinPaired

/-- The partner refuses the pairing. -/
def pairFault (cause : Nat) (c : Chip) : Chip := if c.canPair = false ∨ c.twin ≠ twPairing then c else c.pairFault cause

def execPairFault (cause : Nat) (s : State) : Host.Outcome State Fault Refusal := s.on (pairFault cause)

/-- Pairing begins again 1 s after a fault. -/
def pairRetry (c : Chip) : Chip :=
  match c.link.faultAt with
  | none => c
  | some t => if c.canPair = false ∨ c.twin ≠ twFault ∨ c.now < t + 1000000000 then c else c.sayHello

def execPairRetry (s : State) : Host.Outcome State Fault Refusal := s.on pairRetry

/-! ### Heartbeats and partner loss (R448 to R450) -/

/-- R448: the part is Active, its island runs, and it is not DETACHED. -/
def Chip.beats (c : Chip) : Bool :=
  c.power.mode == PartMode.active && !c.flag SAF_ISLAND_STATUS SAF_ISLAND_STATUS.HELD && c.twin != twDetached

/-- A whole millisecond that has had no beat yet. -/
def Chip.beatDue (c : Chip) : Bool := c.beats && c.now % 1000000 == 0 && c.link.beat != some (c.now / 1000000)

/-- TWIN_ALIVE_OUT toggles, and HEARTBEAT goes out on a paired link. -/
def Chip.beat (c : Chip) : Chip :=
  let c := c.updLink (fun l => { l with alive := !l.alive, beat := some (c.now / 1000000) })
  if c.twinOn && c.twin == twPaired then
    c.twinSend 0x10 (b2n (c.flag LNK_TWIN_STATUS LNK_TWIN_STATUS.CARRYING) + b2n c.link.detaching * 2)
      (leBytes 8 c.now ++ leBytes 1 (c.fld SAF_GROUP_STATE SAF_GROUP_STATE.SAFE))
  else c

/-- R448: at a whole millisecond TWIN_ALIVE_OUT toggles, and HEARTBEAT goes out on a paired link. -/
def heartbeatTick (c : Chip) : Chip := if c.beatDue then c.beat else c

def execHeartbeatTick (s : State) : Host.Outcome State Fault Refusal := s.on heartbeatTick

/-- R449: a heartbeat on the twin path, or an edge of TWIN_ALIVE_IN, fills the window it falls in. -/
def heartbeatRx (pin : Bool) (c : Chip) : Chip :=
  let k := windowOf c.now
  if pin then c.updLink (fun l => { l with seenPin := nsInsert l.seenPin k })
  else if c.twinOn then c.updLink (fun l => { l with seenPath := nsInsert l.seenPath k })
  else c

def execHeartbeatRx (pin : Bool) (s : State) : Host.Outcome State Fault Refusal := s.on (heartbeatRx pin)

/-- R450: the partner is lost: its functions are carried, and the island takes over. -/
def Chip.partnerLost (c : Chip) (cause : Nat) : Chip :=
  let c := (c.setTwin twLost).setFld LNK_TWIN_STATUS LNK_TWIN_STATUS.CARRYING 1
  let c := c.count LNK_TAKEOVERS LNK_TAKEOVERS.COUNT 1
  let c := (c.updLink (fun l => { l with ckptSent := [], detaching := false })).event 0 0x0604 0xFFFF 0 c.now cause
  c.takeover

/-- One path's judgement of a window: how many it has missed in a row, whether it counts as lost, and the event that
tells a change (R449, R470). -/
def Chip.judgePath (c : Chip) (src miss : Nat) (seen other lost : Bool) : Nat × Bool × Chip :=
  let n := if seen then 0 else miss + 1
  if lost && seen then (n, false, c.event 0 0x0603 src 0 0 0)
  else if !lost && other && 3 ≤ n then (n, true, c.event 0 0x0603 src 0 1 0)
  else (n, lost, c)

/-- The open window has closed. -/
def Chip.windowOver (c : Chip) : Bool := c.twinPort && c.twin != twDetached && decide (c.link.window * 1000000 + 500000 ≤ c.now)

/-- R449: a window is judged on both paths; three missed in a row by a paired part lose the partner. -/
def Chip.judgeWindow (c : Chip) : Chip :=
  let k := c.link.window
  let path := c.link.seenPath.contains k
  let pin := c.link.seenPin.contains k
  let (np, lp, c) := c.judgePath 0 c.link.missPath path pin c.link.lostPath
  let (nn, ln, c) := c.judgePath 1 c.link.missPin pin path c.link.lostPin
  let misses := if path || pin then 0 else min 15 (c.fld LNK_TWIN_STATUS LNK_TWIN_STATUS.MISSES + 1)
  let run := if misses = 1 then c.link.windowPaired else c.link.runPaired
  let c := c.updLink (fun l => { l with window := k + 1, seenPath := l.seenPath.filter (fun w => decide (k < w)), seenPin := l.seenPin.filter (fun w => decide (k < w)), missPath := np, missPin := nn, lostPath := lp, lostPin := ln, runPaired := run, windowPaired := c.twin == twPaired })
  let c := (c.setFld LNK_TWIN_STATUS LNK_TWIN_STATUS.PATH_OK (b2n path)).setFld LNK_TWIN_STATUS LNK_TWIN_STATUS.PIN_OK (b2n pin)
  let c := c.setFld LNK_TWIN_STATUS LNK_TWIN_STATUS.MISSES misses
  let c := if misses = 0 then c else c.count LNK_HB_MISSED LNK_HB_MISSED.COUNT 1
  if misses = 3 ∧ c.twin ≠ twLost ∧ (c.twin = twPaired ∨ run = true) then c.partnerLost 0 else c

/-- R449: the open window closes and is judged on both paths. -/
def heartbeatWindow (c : Chip) : Chip := if c.windowOver then c.judgeWindow else c

def execHeartbeatWindow (s : State) : Host.Outcome State Fault Refusal := s.on heartbeatWindow

/-! ### Checkpoints (R453, R454) -/

def hostMaster0 : Nat := 0x58
def Chip.ckptTag (c : Chip) : Nat := c.fld (ACC_MST_CTX hostMaster0) ACC_MST_CTX.SLICE_TAG

/-- An event to slice 0 and to the slice of master 0x58 (R470). -/
def Chip.ckptFailed (c : Chip) (n v st : Nat) : Chip :=
  let (x, c) := c.draw
  let c := (c.count (LNK_CKPT_FAIL n) LNK_CKPT_FAIL.COUNT 1).event 0 0x0606 n 0 v st
  let c := if c.ckptTag = 0 then c else c.event c.ckptTag 0x0606 n 0 v st
  c.linkRecord 1 5 0 (some x.toNat)

/-- The channel waits for its trigger object to reach N, one above its count as it stands. -/
def Chip.ckptArm (c : Chip) (n : Nat) : Chip :=
  let o := c.fld (LNK_CKPT_OBJ n) LNK_CKPT_OBJ.TRIG_OBJ
  let next := syncCount (c.sync o) + 1
  let c := c.updLink (fun l => { l with ckptNext := AMap.set l.ckptNext n next })
  { c with unitWaits := c.unitWaits.filter (fun w => w.who != .checkpoint n) ++ [{ who := .checkpoint n, obj := o, threshold := next }] }

/-- EN of a channel cleared. -/
def Chip.ckptDisarm (c : Chip) (n : Nat) : Chip :=
  { c.updLink (fun l => { l with ckptNext := AMap.del l.ckptNext n }) with unitWaits := c.unitWaits.filter (fun w => w.who != .checkpoint n) }

/-- The twin path is up and paired. -/
def Chip.paired (c : Chip) : Bool := c.twinOn && c.twin == twPaired

/-- A channel's checkpoint of value `v` read and sent, or failed. -/
def Chip.sendCkpt (c : Chip) (n v : Nat) : Chip :=
  let len := c.reg (LNK_CKPT_LEN n)
  match c.loadRange hostMaster0 c.ckptTag (c.fld (LNK_CKPT_SRC n) LNK_CKPT_SRC.ADDR * 64) len with
  | (.ok, b, c) =>
    let c := c.updLink (fun l => { l with ckptSent := l.ckptSent ++ [(n, v)] })
    c.twinSend 0x20 0 (leBytes 1 n ++ leBytes 7 0 ++ leBytes 8 v ++ leBytes 8 (c.fld (LNK_CKPT_DST n) LNK_CKPT_DST.ADDR * 64) ++ leBytes 4 len) b
  | (o, _, c) => c.ckptFailed n v (if o = .denied then stAccessDenied else stUncorrectable)

/-- The channel whose trigger came first of those still to be served. -/
def Chip.nextCkpt (c : Chip) : Option UnitWait :=
  c.unitWaits.find? (fun w => w.met && (match w.who with
    | .checkpoint _ => true
    | _ => false))

/-- R453: the channel whose trigger came first sends its checkpoint, or skips it for the error bit. -/
def checkpointTrigger (n : Nat) (c : Chip) : Chip :=
  match c.nextCkpt with
  | none => c
  | some w =>
    if w.who ≠ .checkpoint n then c
    else if w.err then (c.count (LNK_CKPT_SKIPPED n) LNK_CKPT_SKIPPED.COUNT 1).ckptArm n
    else if c.paired then (c.ckptArm n).sendCkpt n (syncCount (c.sync w.obj))
    else c

def execCheckpointTrigger (channel : Nat) (s : State) : Host.Outcome State Fault Refusal := s.on (checkpointTrigger channel)

/-- The object a channel's checkpoint signals, where the slice of the host port has it. -/
def Chip.ckptSignal (c : Chip) (n v : Nat) : Chip :=
  let o := c.fld (LNK_CKPT_OBJ n) LNK_CKPT_OBJ.REMOTE_OBJ
  match c.slice? c.ckptTag with
  | some sl => if sl.hasSync o then c.signal o (.setMax (v % 2 ^ 63)) else c
  | none => c

/-- The acknowledgement of a checkpoint. -/
def Chip.sendAck (c : Chip) (n v st : Nat) : Chip := c.twinSend 0x21 0 (leBytes 1 n ++ leBytes 2 st ++ leBytes 8 v)

/-- R453, R454: the partner's checkpoint is written at DST, its object signalled once all of it is there, and the
acknowledgement sent. -/
def ckptStart (n v dst : Nat) (data : List Byte) (c : Chip) : Chip :=
  if c.paired = false ∨ 16 ≤ n then c
  else match c.saveRange hostMaster0 c.ckptTag dst data with
    | (.ok, _, c) => (c.ckptSignal n v).sendAck n v stDone
    | (r, _, c) => c.sendAck n v (if r = .denied then stAccessDenied else stUncorrectable)

def execCkptStart (channel : Nat) (value dst : W64) (data : List Byte) (s : State) : Host.Outcome State Fault Refusal :=
  s.on (ckptStart channel value.toNat (dst.toNat % 2 ^ 48) data)

/-- The acknowledgement of a checkpoint sent. -/
def ckptAck (n st v : Nat) (c : Chip) : Chip :=
  if c.twinOn = false ∨ c.link.ckptSent.contains (n, v) = false then c
  else
    let c := c.updLink (fun l => { l with ckptSent := l.ckptSent.erase (n, v) })
    if isSuccess st then c.count (LNK_CKPT_DONE n) LNK_CKPT_DONE.COUNT 1 else c.ckptFailed n v st

def execCkptAck (channel status : Nat) (value : W64) (s : State) : Host.Outcome State Fault Refusal := s.on (ckptAck channel status value.toNat)

/-! ### Detaching (R455) and the end of carrying (R451) -/

/-- A write of DETACH with slice tag 0. -/
def detach (tag : Nat) (c : Chip) : Chip :=
  if tag ≠ 0 then c
  else if c.paired = false then c.setFld LNK_TWIN_STATUS LNK_TWIN_STATUS.DETACH_REFUSED 1
  else (c.updLink (fun l => { l with detaching := true })).twinSend 0x30 0 []

def execDetach (tag : Nat) (s : State) : Host.Outcome State Fault Refusal := s.on (detach tag)

/-- The partner detaches: partner loss at once, and the answer. -/
def detachReq (c : Chip) : Chip :=
  if c.paired then (c.partnerLost 1).twinSend 0x31 0 [] else c

def execDetachReq (s : State) : Host.Outcome State Fault Refusal := s.on detachReq

/-- The part is DETACHED, its SAFE_N asserted and its watches suspended. -/
def Chip.nowDetached (c : Chip) : Chip :=
  (List.range 4).foldl (fun (c : Chip) f => c.setSafeN f true) ((c.setTwin twDetached).updLink (fun l => { l with detaching := false }))

/-- The partner has taken over. -/
def detachAck (c : Chip) : Chip := if c.link.detaching && c.twinOn then c.nowDetached else c

def execDetachAck (s : State) : Host.Outcome State Fault Refusal := s.on detachAck

/-- A write of CARRY_END with slice tag 0. -/
def carryEnd (tag : Nat) (c : Chip) : Chip := if tag ≠ 0 then c else c.setFld LNK_TWIN_STATUS LNK_TWIN_STATUS.CARRYING 0

def execCarryEnd (tag : Nat) (s : State) : Host.Outcome State Fault Refusal := s.on (carryEnd tag)

/-! ### Recovery over the twin path (R456, R457) -/

/-- The firmware bundle: its images one after the other, by TYPE (DEDUCED, log 72). -/
def Flash.bundleBytes (f : Flash) : List Byte := f.bundle.flatMap (·.2)

/-- R457: the end of the bundle: its length, and the event that tells what was served. -/
def Chip.bundleServed (c : Chip) : Chip :=
  let c := (c.twinSend 0x42 0 (leBytes 4 c.flash.bundleBytes.length)).event 0 0x060C 0xFFFF 0 c.link.served 0
  c.updLink (fun l => { l with served := 0 })

/-- R457: a piece of the bundle, in data packets of 256 bytes, the last one filled with zeros. -/
def Chip.servePiece (c : Chip) (offset len : Nat) : Chip :=
  let d := (c.flash.bundleBytes.drop offset).take len
  let d := d ++ List.replicate ((256 - d.length % 256) % 256) 0
  (c.updLink (fun l => { l with served := l.served + d.length })).twinSend 0x41 0 (leBytes 4 offset ++ leBytes 4 d.length) d

/-- R457: a part with RECOVERY_SERVE serves its bundle; one without it has nothing to serve. -/
def recReq (offset len : Nat) (c : Chip) : Chip :=
  if c.twinOn = false then c
  else if bitOf (c.domU 17 1) 0 = false then c.twinSend 0x42 0 (leBytes 4 0)
  else if c.flash.bundleBytes.length ≤ offset then c.bundleServed
  else c.servePiece offset len

def execRecReq (offset len : Nat) (s : State) : Host.Outcome State Fault Refusal := s.on (recReq offset len)

/-- The staging area in the model cache (R456). -/
def stageBase : Nat := mcBase
def stageSize : Nat := 64 * 2 ^ 20

def Chip.recoveryOn (c : Chip) : Bool := c.power.mode == PartMode.recovery && c.portMode 0 == pmRecovery && c.portUp 0

/-- In recovery the data are staged, and the next piece is asked for. -/
def recData (offset : Nat) (data : List Byte) (c : Chip) : Chip :=
  if c.recoveryOn = false ∨ c.fld REC_STATUS REC_STATUS.STATE = 2 ∨ stageSize < offset + data.length then c
  else (c.store (stageBase + offset) data).twinSend 0x40 0 (leBytes 4 (offset + data.length) ++ leBytes 4 recChunk)

def execRecData (offset : Nat) (data : List Byte) (s : State) : Host.Outcome State Fault Refusal := s.on (recData offset data)

/-- The transfer is over: the staged bundle is to be verified; a length of 0 had nothing to serve. -/
def recEnd (len : Nat) (c : Chip) : Chip :=
  if c.recoveryOn = false ∨ len = 0 ∨ c.fld REC_STATUS REC_STATUS.STATE = 2 then c
  else (c.setReg REC_LENGTH len).setFld REC_STATUS REC_STATUS.STATE 2

def execRecEnd (len : Nat) (s : State) : Host.Outcome State Fault Refusal := s.on (recEnd len)

/-! ### A port's link goes down (R471) -/

/-- A port shows its link down; a pairing under way on it is over. -/
def Chip.portDown (c : Chip) (port : Nat) : Chip :=
  let d := (c.setFld (LNK_PORT_STATUS port) LNK_PORT_STATUS.UP 0).setFld (LNK_PORT_STATUS port) LNK_PORT_STATUS.GBPS 0
  if port = 0 ∧ (c.twin = twPairing ∨ c.twin = twFault) then (d.setTwin twUnpaired).updLink (fun l => { l with nonce := none, peer := none }) else d

def linkDown (port : Nat) (c : Chip) : Chip :=
  if 2 ≤ port ∨ c.portUp port = false then c
  else (c.portDown port).linkRecord (if port = 0 ∧ c.twin = twPaired then 2 else 0) 4 port none

def execLinkDown (port : Nat) (s : State) : Host.Outcome State Fault Refusal := s.on (linkDown port)

end Sys2Proof.Machine
end

