-- ==== Sys2Proof/Machine/Domain.lean ====
section
/-!
DEFINITION. The Dorat domain: its announcements, staging and switching of a configuration, and divergence (17 R463 to R469);
with it the restart of a firmware service, which may owe an announcement (16 R429).
-/

namespace Sys2Proof.Machine

def Chip.updDomain (c : Chip) (f : Domain → Domain) : Chip := { c with domain := f c.domain }

/-! ### Members and configuration (R463, R464) -/

def Chip.memberCount (c : Chip) : Nat := min 96 (c.domU 4 1 % 128)
/-- MEMBER_IDs of the list. -/
def Chip.memberIds (c : Chip) : List Nat := (List.range c.memberCount).map (fun m => c.domU (176 + 64 * m) 1 % 128)
/-- The part's own MEMBER_ID, by its DEVICE_ID. -/
def Chip.ownMember (c : Chip) : Option Nat :=
  ((List.range c.memberCount).find? (fun m => c.domBytes (128 + 64 * m) 48 == deviceId)).map (fun m => c.domU (176 + 64 * m) 1 % 128)
def Chip.refMember (c : Chip) : Nat := c.domU 5 1 % 128

/-- The part takes part in its domain. -/
def Chip.inDomain (c : Chip) : Bool := c.power.mode == PartMode.active && (c.domainRole == 1 || c.domainRole == 2) && c.ownMember.isSome

/-- The registry entry that a model ID of 16 bits names. -/
def Chip.modelOf (c : Chip) (id : Nat) : Option Model := (c.model? (id % 1024)).filter (fun x => x.slice == id / 1024)

/-- R464: the digest of a configuration. -/
def Part.configDigest (p : Part) (models : List Nat) (img : List Byte) (payloads : List (List Byte)) : List Byte :=
  sha384Bytes ([5, 0, 1, 2, 3].flatMap (fun i => AMap.getD p.sec.meas i (leBytes 48 0)) ++
    models.flatMap (fun m => leBytes 2 m ++ ((p.chip.modelOf m).map (·.hash)).getD []) ++ sha384Bytes img ++
    (if payloads.isEmpty then leBytes 48 0 else sha384Bytes payloads.flatten))

/-- LNK_DOMAIN_EPOCH, LNK_DOMAIN_DIGEST and LNK_DOMAIN_SWITCH show the domain's state. -/
def Chip.showDomain (c : Chip) : Chip :=
  let c := c.setReg LNK_DOMAIN_EPOCH c.domain.epoch
  let c := (List.range 6).foldl (fun (c : Chip) k => c.setReg (LNK_DOMAIN_DIGEST k) (bytesU c.domain.digest (8 * k) 8)) c
  c.setReg LNK_DOMAIN_SWITCH ((c.domain.pending.map (·.time)).getD 0)

/-- A configuration is in force from now on; a second of history is kept. -/
def Chip.setConfig (c : Chip) (epoch : Nat) (digest : List Byte) (models : List Nat) : Chip :=
  let old := c.domain.history
  let keep := old.filter (fun h => decide (c.now < h.1 + 1000000000)) ++ (old.filter (fun h => decide (h.1 + 1000000000 ≤ c.now))).take 1
  (c.updDomain (fun d => { d with epoch := epoch, digest := digest, models := models, history := (c.now, epoch, digest) :: keep })).showDomain

/-! ### Announcements (R465, R469) -/

/-- Bytes 0 to 159 of an announcement. -/
def Chip.announcement (c : Chip) (member counter : Nat) : List Byte :=
  let d := c.domain
  let fl := b2n d.staged.isSome + b2n d.pending.isSome * 2 + b2n (c.flag LNK_DOMAIN_STATUS LNK_DOMAIN_STATUS.DIVERGENT) * 4 + b2n (c.domainRole == 2) * 8
  let (se, sd) := match d.staged with
    | some s => (s.epoch, s.digest)
    | none => (0, leBytes 48 0)
  leBytes 2 0x4441 ++ leBytes 1 1 ++ leBytes 1 member ++ leBytes 2 fl ++ leBytes 1 c.quality ++ leBytes 1 0 ++ leBytes 8 c.now ++
  leBytes 8 d.epoch ++ (d.digest ++ leBytes 48 0).take 48 ++ leBytes 8 se ++ (sd ++ leBytes 48 0).take 48 ++ leBytes 8 ((d.pending.map (·.time)).getD 0) ++
  leBytes 8 counter ++ leBytes 2 (c.domU 6 2) ++ leBytes 14 0

/-- The IV of an announcement. -/
def announceIv (member counter : Nat) : List Byte := leBytes 1 member ++ leBytes 3 0 ++ leBytes 8 counter

/-- The slot of the part's announcements: whole multiples of 100 ms plus MEMBER_ID × 1 ms. -/
def announceSlot (member t : Nat) : Bool := decide (t % 100000000 = member * 1000000)

/-- R465, R478: an announcement ahead of every frame on queue 7 of each port of the domain section. -/
def Chip.sendAnnouncement (c : Chip) (m : Nat) : Chip :=
  let n := c.domain.announced + 1
  let counter := c.reg AON_START_COUNT * 2 ^ 32 + n % 2 ^ 32
  let b := c.announcement m counter
  let t := leBytes 16 (Config.gcmTag (c.domU 6 2) (announceIv m counter) b).toNat
  let (x, c) := c.drawBytes 6
  let f : EthFrame := { head := c.domBytes 8 6 ++ x, vid := c.domU 14 2 % 4096, pcp := bitsOf (c.domU 14 2) 14 12, body := [0x88, 0xB5] ++ b ++ t, time := c.now }
  let c := c.updDomain (fun d => { d with announced := n })
  ((List.range 8).filter (bitOf (c.domU 16 1))).foldl (fun (c : Chip) p => c.pushFirst p f) c

/-- The member whose announcement is due now: the part's own, in its slot, with the DOMAIN service up. -/
def Chip.announceDue (c : Chip) : Option Nat :=
  c.ownMember.filter (fun m => c.inDomain && !c.serviceDown 4 && announceSlot m c.now && c.domain.sentAt != some c.now)

/-- An announcement that falls due while the DOMAIN service does not run waits for it (R429). -/
def Chip.announceWaits (c : Chip) : Bool := c.ownMember.any (fun m => c.inDomain && c.serviceDown 4 && announceSlot m c.now)

/-- R465: the DOMAIN service's slot has come. -/
def announceTick (c : Chip) : Chip :=
  match c.announceDue with
  | none => if c.announceWaits then c.updDomain (fun d => { d with owed := true }) else c
  | some m => (c.updDomain (fun d => { d with sentAt := some c.now })).sendAnnouncement m

def execAnnounceTick (s : State) : Host.Outcome State Fault Refusal := s.on announceTick

/-- R429: the announcement that waited for the DOMAIN service goes out once the service runs again. -/
def Chip.announceOwed (c : Chip) : Chip :=
  if c.domain.owed && !c.serviceDown 4 then
    match c.ownMember with
    | some m => (c.updDomain (fun d => { d with owed := false, sentAt := some c.now })).sendAnnouncement m
    | none => c
  else c

/-- R88 to R90, R429: a moved service runs again: packets it had taken and not committed complete with FW_RESTARTED, their
slices and slice 0 hear of it, and DOMAIN sends what fell due meanwhile. -/
def serviceRestart (service : Nat) (c : Chip) : Chip :=
  match AMap.get? c.fw.down service with
  | none => c
  | some core => (c.restartService service core).announceOwed

def execServiceRestart (service : Nat) (s : State) : Host.Outcome State Fault Refusal := s.on (serviceRestart service)

/-- The part's own (epoch, digest) as they stood at a device time. -/
def Chip.configAt (c : Chip) (t : Nat) : Option (Nat × List Byte) := (c.domain.history.find? (fun h => !timeBefore t h.1)).map (·.2)

/-- R469: an accepted reference announcement is compared with the part's own configuration at SENT. -/
def Chip.compareRef (c : Chip) (sent epoch : Nat) (digest : List Byte) : Chip :=
  let c := c.updDomain (fun d => { d with refAt := c.now, refSent := sent, silent := false })
  if c.ownMember = some c.refMember ∨ timeBefore c.now sent ∨ timeBefore (sent + 1000000000) c.now then c
  else match c.configAt sent with
    | none => c
    | some own =>
      let on := c.flag LNK_DOMAIN_STATUS LNK_DOMAIN_STATUS.DIVERGENT
      if own = (epoch, digest) then
        let c := c.updDomain (fun d => { d with mismatches := 0 })
        if on then (c.setFld LNK_DOMAIN_STATUS LNK_DOMAIN_STATUS.DIVERGENT 0).event 0 0x0608 0xFFFF 0 c.domain.epoch 0 else c
      else
        let n := min 2 (c.domain.mismatches + 1)
        let c := c.updDomain (fun d => { d with mismatches := n })
        if n = 2 ∧ on = false then (c.setFld LNK_DOMAIN_STATUS LNK_DOMAIN_STATUS.DIVERGENT 1).event 0 0x0607 0xFFFF 0 c.domain.epoch epoch else c

/-- An announcement is well formed, of a member, authentic, and newer than the last one of it. -/
def Chip.announcementOk (c : Chip) (b : List Byte) : Bool :=
  let m := bytesU b 3 1
  let counter := bytesU b 136 8
  b.length == 176 && bytesU b 0 2 == 0x4441 && bytesU b 2 1 == 1 && c.memberIds.contains m &&
    (b.drop 160).take 16 == leBytes 16 (Config.gcmTag (c.domU 6 2) (announceIv m counter) (b.take 160)).toNat &&
    (match AMap.get? c.domain.counters m with | some n => decide (n < counter) | none => true)

/-- An announcement is accepted; the reference's is compared. -/
def Chip.acceptAnnouncement (c : Chip) (b : List Byte) : Chip :=
  let m := bytesU b 3 1
  let c := (c.updDomain (fun d => { d with counters := AMap.set d.counters m (bytesU b 136 8) })).count LNK_ANNOUNCE_RX LNK_ANNOUNCE_RX.COUNT 1
  if m = c.refMember then c.compareRef (bytesU b 8 8) (bytesU b 16 8) ((b.drop 24).take 48) else c

/-- R465, R469: a received announcement: dropped and counted, or accepted. -/
def announcement (b : List Byte) (c : Chip) : Chip :=
  if c.inDomain = false then c
  else if c.announcementOk b then c.acceptAnnouncement b
  else c.linkRecord 0 7 0 (some (bytesU b 3 1))

def execAnnouncement (frame : List Byte) (s : State) : Host.Outcome State Fault Refusal := s.on (announcement frame)

/-- No reference announcement has come for 350 ms, and this was not told yet. -/
def Chip.refLost (c : Chip) : Bool := c.inDomain && c.ownMember != some c.refMember && !c.domain.silent && decide (c.domain.refAt + 350000000 ≤ c.now)

/-- R469: no reference announcement for 350 ms. -/
def refSilent (c : Chip) : Chip :=
  if c.refLost then (c.updDomain (fun d => { d with silent := true })).event 0 0x060B 0xFFFF 0 c.domain.refSent 0 else c

def execRefSilent (s : State) : Host.Outcome State Fault Refusal := s.on refSilent

/-! ### Staging and switching (R466 to R468) -/

def ascending : List Nat → Bool
  | x :: y :: l => decide (x < y) && ascending (y :: l)
  | _ => true

/-- A staging list: its models, payloads and switch image, or none where it is malformed. -/
def parseStaging (b : List Byte) : Option (List Nat × List (List Byte) × Option (List Byte)) :=
  let m := bytesU b 0 2
  let k := bytesU b 2 1
  let z := bytesU b 4 4
  let mEnd := 8 + (2 * m + 7) / 8 * 8
  let models := (List.range m).map (fun i => bytesU b (8 + 2 * i) 2)
  if 1024 < m ∨ 64 < k ∨ bytesU b 3 1 ≠ 0 ∨ b.length ≠ mEnd + 96 * k + z ∨ ascending models = false ∨ zeroIn b (8 + 2 * m) mEnd = false then none
  else some (models, (List.range k).map (fun j => (b.drop (mEnd + 96 * j)).take 96), if z = 0 then none else some (b.drop (mEnd + 96 * k)))

/-- Every payload would be taken, one after the other (R466 check 3). -/
def payloadsOk (c : Chip) : List (List Byte) → Bool
  | [] => true
  | b :: l =>
    let (st, c) := c.applySafety true b
    st == stDone && payloadsOk c l

/-- R466: the checks of a DOMAIN_STAGE before its list is read. -/
def Chip.stageStatus (c : Chip) (k : Packet) : Option Nat :=
  if k.u 48 4 ≠ 0 ∧ c.ownsPages 0 (k.u 40 6) (k.u 48 4) = false then some stNotOwner
  else if c.domain.pending.isSome = true ∨ k.u 32 8 ≤ c.domain.epoch then some stBadParam
  else if 2 ^ 48 ≤ k.u 40 8 ∨ k.u 40 8 % 64 ≠ 0 ∨ zeroIn k.bytes 52 56 = false ∨ zeroIn k.bytes 104 128 = false then some stBadParam
  else none

/-- The list of a DOMAIN_STAGE, read by the core of the DOMAIN service. -/
def Chip.stageList (c : Chip) (k : Packet) : Served × List Byte × Chip := c.loadRange (0x50 + AMap.getD c.fw.place 4 2) 0 (k.u 40 8) (k.u 48 4)

/-- The list read is judged, and staged where its digest is the packet's. -/
def Part.stageJudged (p : Part) (k : Packet) (b : List Byte) : Chip :=
  let c := p.chip
  match parseStaging b with
  | none => c.finish k.id stBadParam
  | some (models, payloads, img) =>
    if models.any (fun m => (c.modelOf m).isNone) || !payloadsOk c payloads then c.finish k.id stBadParam
    else if (match img with | some i => !switchOk i | none => false) then c.finish k.id stBadParam
    else
      let d := p.configDigest models (img.getD c.net.image) payloads
      if d ≠ (k.bytes.drop 56).take 48 then c.finish k.id stBadParam 0 1
      else (c.updDomain (fun x => { x with staged := some { epoch := k.u 32 8, models := models, payloads := payloads, image := img, digest := d } })).finish k.id stDone

/-- R466: DOMAIN_STAGE. -/
def domainStage (id : Nat) (p : Part) : Part :=
  { p with chip := p.chip.onPacket id 0x900 (fun k c =>
      match c.stageStatus k with
      | some st => c.finish k.id st
      | none => match c.stageList k with
        | (.denied, _, c) => c.finish k.id stAccessDenied
        | (.uncorrectable, _, c) => c.finish k.id stUncorrectable
        | (.ok, b, c) => Part.stageJudged { p with chip := c } k b) }

def execDomainStage (packet : Nat) (s : State) : Host.Outcome State Fault Refusal := s.onPart (domainStage packet)

/-- A DOMAIN_SWITCH packet with TIME 0, or with another; its reserved bytes must be zero. -/
def Chip.onSwitch (c : Chip) (id : Nat) (cancel : Bool) (f : Packet → Chip → Chip) : Chip :=
  c.onPacket id 0x901 (fun k c =>
    if (k.u 40 8 == 0) != cancel then c
    else if !zeroIn k.bytes 48 64 then c.finish id stBadParam
    else f k c)

/-- The staged configuration has the packet's epoch. -/
def Chip.stagedIs (c : Chip) (k : Packet) : Bool := (c.domain.staged.map (·.epoch)) == some (k.u 32 8)

/-- The packet that DEFERRED_DONE will name. -/
def Packet.named (k : Packet) : Nat × Nat × Nat := (k.slice, k.ring, k.seq)

/-- R467: a switch becomes pending, or joins the one that is. -/
def domainSwitch (id : Nat) (c : Chip) : Chip :=
  c.onSwitch id false (fun k c =>
    match c.domain.pending with
    | some w =>
      if c.stagedIs k = true ∧ w.time = k.u 40 8 then (c.updDomain (fun d => { d with pending := some { w with packets := w.packets ++ [k.named] } })).finish k.id stDeferred
      else c.finish k.id stBadParam
    | none =>
      if c.stagedIs k = false ∨ timeBefore (k.u 40 8) (c.now + 200000000) then c.finish k.id stBadParam
      else ((c.updDomain (fun d => { d with pending := some { time := k.u 40 8, packets := [k.named] } })).showDomain).finish k.id stDeferred)

def execDomainSwitch (packet : Nat) (s : State) : Host.Outcome State Fault Refusal := s.on (domainSwitch packet)

/-- The pending switch is cancelled and told. -/
def Chip.cancelSwitch (c : Chip) : Chip :=
  ((c.updDomain (fun d => { d with pending := none })).showDomain).event 0 0x060A 0xFFFF 0 ((c.domain.staged.map (·.epoch)).getD 0) 2

/-- R467: TIME 0 cancels. -/
def domainSwitchCancel (id : Nat) (c : Chip) : Chip :=
  c.onSwitch id true (fun k c => if c.domain.pending.isNone then c.finish k.id stDone else c.cancelSwitch.finish k.id stDone)

def execDomainSwitchCancel (packet : Nat) (s : State) : Host.Outcome State Fault Refusal := s.on (domainSwitchCancel packet)

/-- R468 step 2: the switch image is replaced; gPTP starts anew where its section differs. -/
def Chip.switchImage (c : Chip) (img : Option (List Byte)) : Chip :=
  match img with
  | none => c
  | some i =>
    let old := swEntry c.net.image 7 0
    let c := c.loadSwitch i
    if swEntry i 7 0 = old then c else c.ptpStart

/-- R468: the staged configuration comes into force, or is dropped where a model of it is gone. -/
def Chip.switchNow (c : Chip) (w : Switch) (g : Staged) : Chip :=
  let c := c.updDomain (fun d => { d with pending := none, staged := none })
  if g.models.any (fun m => (c.modelOf m).isNone) then c.showDomain.event 0 0x060A 0xFFFF 0 g.epoch 1
  else
    let c := c.switchImage g.image
    let c := g.payloads.foldl (fun (c : Chip) b => (c.applySafety true b).2) c
    let c := c.setConfig g.epoch g.digest g.models
    let c := w.packets.foldl (fun (c : Chip) d => c.event d.1 0x0007 d.2.1 d.2.2 0 0) c
    (c.slices.map (·.1)).foldl (fun (c : Chip) s => c.event s 0x0609 0xFFFF 0 g.epoch c.now) c

/-- R468: device time reaches TIME. -/
def domainSwitchTime (c : Chip) : Chip :=
  match c.domain.pending, c.domain.staged with
  | some w, some g => if timeBefore c.now w.time ∨ c.power.mode ≠ .active then c else c.switchNow w g
  | _, _ => c

def execDomainSwitchTime (s : State) : Host.Outcome State Fault Refusal := s.on domainSwitchTime

end Sys2Proof.Machine
end

