-- ==== Sys2Proof/Machine/Start.lean ====
section
/-!
DEFINITION. Profiles, the steps of a cold and of a warm start, and recovery (15 R411 to R420; 17 R456; 19 R508).
-/

namespace Sys2Proof.Machine

/-! ### Profiles (R412, R413, R508) -/

/-- The payload of an image, LENGTH bytes behind its header. -/
def imagePayload (img : List Byte) : List Byte := (img.drop 256).take (bytesU img 12 4)

/-- Table — Profile budgets. -/
def parseBudget (b : List Byte) : Budget :=
  let u := bytesU b
  { sust := u 0 2, peak := u 2 2, base := u 4 2, reserve := u 6 2, aleReserve := u 8 2, wakeUnits := u 10 2, staggerUs := u 12 2, copyUnits := u 14 2, eMax := u 16 4, defaultTimeoutUs := u 20 4, offGapUs := u 24 4, sustMin := u 28 2, targetC := u 30 1, emergC := u 31 1, kp := u 32 4, ki := u 36 4, shed := u 40 2, standing := (List.range (min 8 (u 42 1))).map (fun i => (u (48 + 4 * i) 2, u (50 + 4 * i) 1)) }

/-- R413. -/
def budgetOk (b : List Byte) : Bool :=
  let g := parseBudget b
  decide (g.sust ≤ g.peak) && decide (g.peak ≤ 540) && decide (g.sustMin ≤ g.sust) && decide (g.base + g.standingUnits + g.reserve ≤ g.sust) &&
  decide (1 ≤ g.staggerUs) && decide (g.staggerUs ≤ 100) && decide (g.targetC < g.emergC) && decide (g.emergC < 120) && decide (bytesU b 42 1 ≤ 8)

/-- FP[n] has an alternate function. -/
def pinAlternate (n : Nat) : Bool := decide (n < 24) && n != 7 && n != 15

/-- R508: the pin section keeps to its table. -/
def pinsOk (b : List Byte) : Bool :=
  bytesU b 0 4 == 0x50494E53 && bytesU b 4 2 == 1 && bytesU b 6 2 == 0 &&
  (List.range 48).all (fun n =>
    let w := bytesU b (8 + 4 * n) 4
    let f := w % 8
    (f == 0 || (f == 1 && pinAlternate n)) && bitsOf w 4 3 != 3 && bitsOf w 6 5 != 3 && (!bitOf w 7 || decide (40 ≤ n)) && decide (w < 2 ^ 10))

/-- R412: the payload of a profile for a slot. -/
def profileOkAt (slot : Nat) (b : List Byte) : Bool :=
  let u := bytesU b
  let x := u 7 1
  u 0 4 == 0x50524F46 && u 4 2 == 1 && u 6 1 == slot && bitsOf x 3 2 != 3 && bitsOf x 5 4 != 3 && decide (x < 64) && decide (u 12 1 ≤ 63) && zeroIn b 13 16 && zeroIn b 45 64 &&
  budgetOk (b.drop (u 16 4)) && pinsOk (b.drop (u 20 4))

/-- The first check that a profile slot fails; a profile of the wrong slot, or with bad budgets or pins, counts as a failed
signature check (R412, R508). -/
def Part.profileCheck (p : Part) (slot : Nat) (warm : Bool) : Option Nat :=
  let img := AMap.getD p.chip.flash.profiles slot []
  match if warm then imageCheckWarm p.chip.flash p.sec 5 img else imageCheck p.chip.flash p.sec.rollback 5 1 img with
  | some k => some k
  | none => if profileOkAt slot (imagePayload img) then none else some 2

/-- R414: PROFILE_SELECT verifies a slot and names it for the next warm start. -/
def profileSelect (id : Nat) (p : Part) : Part :=
  { p with chip := p.chip.onPacket id 0x601 (fun k c =>
      if 4 ≤ k.u 32 1 ∨ zeroIn k.bytes 33 64 = false then c.finish id stBadParam
      else match Part.profileCheck { p with chip := c } (k.u 32 1) false with
        | some f => c.finish id stBadParam 0 (5 + f * 256)
        | none => (c.setFld AON_PROFILE AON_PROFILE.NEXT (k.u 32 1)).finish id stDone) }

def execProfileSelect (packet : Nat) (s : State) : Host.Outcome State Fault Refusal := s.onPart (profileSelect packet)

/-! ### What the steps check -/

/-- A step that fails, with the image TYPE and check to record where an image is rejected. -/
structure StepFail where
  step : Nat
  image : Option (Nat × Nat) := none
  deriving DecidableEq, Repr

/-- The earliest failure of a list in step order. -/
def firstFail : List (Option StepFail) → Option StepFail
  | [] => none
  | none :: l => firstFail l
  | some f :: l => match firstFail l with
    | some g => if g.step < f.step then some g else some f
    | none => some f

def StepFail.ofCheck (step type : Nat) (k : Option Nat) : Option StepFail := k.map (fun k => { step := step, image := some (type, k) })

def Part.bundleImage (p : Part) (type : Nat) : List Byte := AMap.getD p.chip.flash.bundle type []

/-- R350, R351: an image of the bundle. -/
def Part.bundleCheck (p : Part) (type : Nat) (warm : Bool) : Option Nat :=
  if warm then imageCheckWarm p.chip.flash p.sec type (p.bundleImage type) else imageCheck p.chip.flash p.sec.rollback type 0 (p.bundleImage type)

/-- R343: the entries of the gateway table, and whether two of them share a number. -/
def gateEntries (img : List Byte) : List GateEntry :=
  let t := Config.gateTable (imagePayload img)
  (List.range (min 256 (t.length / 16))).filterMap (fun i =>
    let u := fun (o k : Nat) => bytesU t (16 * i + o) k
    if u 4 4 = 0x4754454D then some { entry := u 0 2, cls := u 2 1 % 4, modes := u 3 1 % 16, callers := u 8 1 % 8, pin := 8 * u 9 1, pout := 8 * u 10 1 } else none)

/-- A section of a profile begins at OFS and ends where the next section, or the payload, does. -/
def profileSection (b : List Byte) (ofs : Nat) : List Byte :=
  let ends := ([8, 16, 20, 24, 28, 32, 36].map (fun o => bytesU b o 4)).filter (fun o => decide (ofs < o))
  (b.drop ofs).take (ends.foldl min b.length - ofs)

/-- The switch image at SWITCH_OFS, as far as its own sections reach. -/
def profileSwitch (b : List Byte) : List Byte :=
  let s := b.drop (bytesU b 28 4)
  s.take (((List.range 8).map (fun i => swOfs s i + swCount s i * swSize i)).foldl max 72)

/-- R416: an uncorrectable error in what was retained: the page-owner table, the valid table or the model cache. -/
def Chip.retainedBad (c : Chip) : Bool :=
  !c.badOwners.isEmpty || !c.badValid.isEmpty || c.badWords.any (fun p => decide (mcBase ≤ p.1) && decide (p.1 < tileBase) && c.wordBad p.1)

/-- R416: the correctable errors of the model cache are corrected. -/
def Chip.retainedFixed (c : Chip) : Chip :=
  (c.badWords.filter (fun p => decide (mcBase ≤ p.1) && decide (p.1 < tileBase))).foldl (fun (c : Chip) p =>
    (c.checkWord { master := 0x4C, tag := 0, world := 1, addr := p.1, len := 64, write := false } p.1).2) c

/-- The first step that fails, the hardware's own failure named by the command (0 for none). -/
def Part.startFault (p : Part) (warm : Bool) (failAt slot : Nat) : Option StepFail :=
  let prof := imagePayload (AMap.getD p.chip.flash.profiles slot [])
  firstFail [
    if failAt = 0 then none else some { step := failAt },
    if (if warm then p.sec.keyHeld else Config.pufOk p.chip.flash.helper) then none else some { step := 3 },
    if warm && p.chip.retainedBad then some { step := 4 } else none,
    StepFail.ofCheck 5 0 (p.bundleCheck 0 warm),
    StepFail.ofCheck 6 5 (p.profileCheck slot warm),
    StepFail.ofCheck 7 1 (p.bundleCheck 1 warm),
    StepFail.ofCheck 7 2 (p.bundleCheck 2 warm),
    StepFail.ofCheck 7 3 (p.bundleCheck 3 warm),
    if noDup ((gateEntries (p.bundleImage 1)).map (·.entry)) then none else some { step := 7 },
    if switchOk (profileSwitch prof) then none else some { step := 11 },
    StepFail.ofCheck 15 4 (p.bundleCheck 4 warm)]

/-- A failed start leaves the records of a rejected image, or of a failed island self-test, to the next one (R359, R322). -/
def Part.stepFailed (p : Part) (f : StepFail) : Part :=
  let owe := fun (c : Chip) (e : ErrRec) => c.updPower (fun w => { w with owed := w.owed ++ [e] })
  let (x, c) := p.chip.draw
  let c := match f.image with
    | some (t, k) => owe c { severity := 2, cause := 0x0A, source := 10, detail := some (t + k * 256) }
    | none => if f.step = 10 then owe c { severity := 3, cause := x.toNat % 256, source := 8 } else c
  Part.startFailed { p with chip := c } f.step

/-! ### Steps 5 to 7 and 15: what a verified image leaves (R351) -/

def Part.measure (p : Part) (slot : Nat) : Part :=
  let imgs := (List.range 5).map (fun t => (t, p.bundleImage t)) ++ [(5, AMap.getD p.chip.flash.profiles slot [])]
  let s := { p.sec with meas := imgs.map (fun i => (i.1, measurement i.2)), versions := imgs.map (fun i => (i.1, bytesU i.2 8 4)), entries := gateEntries (p.bundleImage 1), keyHeld := true }
  let c := (p.chip.setFld SEC_STATUS SEC_STATUS.KEY_HELD 1).setFld AON_PROFILE AON_PROFILE.CURRENT slot
  let c := (List.range 6).foldl (fun (c : Chip) k => c.setReg (SEC_DEVICE_ID k) (bytesU deviceId (8 * k) 8)) c
  { chip := c.updPower (fun w => { w with profile := imagePayload (AMap.getD p.chip.flash.profiles slot []) }), sec := s }

/-! ### Step 11 -/

/-- Sluice's budgets and standing grants, and the registers that show them (R413, R424). -/
def Chip.startSluice (c : Chip) : Chip :=
  let b := parseBudget (c.power.profile.drop (bytesU c.power.profile 16 4))
  let c := { c with budget := b, sluice := { c.sluice with standing := true } }
  let c := (c.setFld PWR_CAPS PWR_CAPS.PEAK b.peak).setFld PWR_CAPS PWR_CAPS.SUST b.sust
  let c := c.setFld PWR_EFF PWR_EFF.SUST_EFF b.sust
  let c := (c.setFld PWR_BASE_RES PWR_BASE_RES.RESERVE b.reserve).setFld PWR_BASE_RES PWR_BASE_RES.BASE b.base
  (c.updPower (fun w => { w with announced := b.sust })).sluiceRegs

/-- R39: every access table, from the profile's access section. -/
def Chip.startTables (c : Chip) : Chip :=
  let s := profileSection c.power.profile (bytesU c.power.profile 36 4)
  (List.range 51).foldl (fun (c : Chip) t => (Config.accessTable s t).foldl (fun (c : Chip) e => accTableWrite 0x4C 0 t e.1 e.2 c) c) c

/-- FUNC, DIR and INIT of the pins (R508, R509). -/
def Chip.startPins (c : Chip) : Chip :=
  let s := c.power.profile.drop (bytesU c.power.profile 20 4)
  let mask := fun (bit : Nat) => ((List.range 48).filter (fun n => bytesU s (8 + 4 * n) 4 % 8 == 0 && bitOf (bytesU s (8 + 4 * n) 4) bit)).foldl (fun m n => m + 2 ^ n) 0
  let c := (c.setReg GPIO_DIR_LO (mask 8 % 2 ^ 32)).setReg GPIO_DIR_HI (mask 8 / 2 ^ 32)
  (c.setReg GPIO_OUT_LO (mask 9 % 2 ^ 32)).setReg GPIO_OUT_HI (mask 9 / 2 ^ 32)

/-- The templates of the profile: 160 bytes each. -/
def Chip.templates (c : Chip) : List (List Byte) :=
  let b := c.power.profile
  (List.range (bytesU b 12 1)).map (fun i => (b.drop (bytesU b 8 4 + 160 * i)).take 160)

/-- The slice that a template equals, byte for byte, in the slice table. -/
def Chip.tableEntry (c : Chip) (t : List Byte) : Option Slice := (c.power.sliceTable.find? (fun e => e.2.payload == t)).map (·.2)

/-- R416: what the table's slices that do not come back leave: their pages return to 0xFF, their models go. -/
def Chip.dropSlices (c : Chip) (back : List Nat) : Chip :=
  let gone := fun (s : Nat) => !back.contains s
  { c with owners := c.owners.filter (fun e => !(decide (1 ≤ e.2) && decide (e.2 ≤ 64) && gone (e.2 - 1))), models := c.models.filter (fun m => !gone m.2.slice) }

/-- R30, R416: the slices of the profile's templates, in order, those of the slice table first and on their own pages. -/
def Chip.startSlices (c : Chip) : Chip × Bool :=
  let old := c.templates.filterMap (fun t => (c.tableEntry t).map (fun o => (t, o)))
  let (c, back) := old.foldl (fun (x : Chip × List Nat) e =>
    let (st, s, c) := x.1.createSlice true (some e.2) e.1
    if st = stDone then (c, x.2 ++ [s]) else x) (c, [])
  let c := c.dropSlices back
  let c := (c.templates.filter (fun t => (c.tableEntry t).isNone)).foldl (fun (c : Chip) t => (c.createSlice true none t).2.2) c
  (back.foldl (fun (c : Chip) s => c.mcRegs s) c, !back.isEmpty)

/-- R286: the profile's safety payloads. -/
def Chip.startSafety (c : Chip) : Chip :=
  let s := profileSection c.power.profile (bytesU c.power.profile 24 4)
  (((List.range (min 64 (s.length / 96))).map (fun i => (s.drop (96 * i)).take 96))).foldl (fun (c : Chip) b => (c.applySafety false b).2) c

/-- R440: the ports' modes. -/
def Chip.startPorts (c : Chip) : Chip :=
  let host := bitOf (c.domU 17 1) 1
  let m := if (c.twinRole = 1 ∨ c.twinRole = 2) ∧ host = false then pmTwin else if c.twinRole = 0 ∧ host = true then pmEndpoint else pmOff
  (c.setFld (LNK_PORT_STATUS 0) LNK_PORT_STATUS.MODE m).setFld (LNK_PORT_STATUS 1) LNK_PORT_STATUS.MODE pmEndpoint

/-- The switch takes its image, its external ports come up at their rate, and gPTP starts (R481, R490). -/
def Chip.startNet (c : Chip) : Chip :=
  let c := c.loadSwitch (profileSwitch c.power.profile)
  let c := (List.range 8).foldl (fun (c : Chip) p => (c.setFld (NET_PORT_STATUS p) NET_PORT_STATUS.UP 1).setFld (NET_PORT_STATUS p) NET_PORT_STATUS.MBPS (speedMbps (c.portU p 0 1 % 16))) c
  c.ptpStart

/-- R427: services on their default cores, FORERUNNER with its profile bit. -/
def Chip.startServices (c : Chip) : Chip :=
  let l := [(1, 0), (2, 1), (3, 2), (4, 2), (5, 3), (6, 1)] ++ if c.forerunner then [(7, 3)] else []
  (c.updFw (fun f => { f with place := l })).showServices

def Chip.startStep11 (c : Chip) : Chip × Bool :=
  let c := ((List.range 16).foldl Chip.drainLinks (c.setFld MEM_VALID_STATUS MEM_VALID_STATUS.CLEARING 0)).startSluice
  let c := c.setReg SEC_WDT_CFG (bytesU c.power.profile 42 2 * 2 ^ 16 + bytesU c.power.profile 40 2)
  let c := c.setFld MRC_RESERVE MRC_RESERVE.SAFETY (bytesU c.power.profile 44 1)
  let (c, back) := c.startTables.startPins.startServices.startSlices
  (c.startNet.startPorts.startSafety, back)

/-- R192, R416: pinned models that are not resident start to load. -/
def Chip.rewarm (c : Chip) : Chip :=
  (c.models.filter (fun m => m.2.pinned && !m.2.resident)).foldl (fun (c : Chip) m => (c.takeRoom m.1 m.2.home).2) c

/-! ### Steps 12 and 16 -/

/-- R463, R464: the part finds its member ID; the configuration of the start is in force. -/
def Part.startDomain (p : Part) (warm : Bool) : Chip :=
  let c := p.chip.updDomain (fun d => { d with refAt := p.chip.now })
  let c := if warm then c.setConfig c.domain.epoch c.domain.digest c.domain.models
    else c.setConfig 0 (Part.configDigest { p with chip := c } [] c.net.image []) []
  let c := c.setFld LNK_DOMAIN_STATUS LNK_DOMAIN_STATUS.MEMBER (c.ownMember.getD 0x7F)
  if c.domainRole ≠ 0 ∧ c.ownMember = none then c.event 0 0x060B 0xFFFF 0 0 1 else c

/-- Step 16: the start is complete; what earlier starts owe the error ring is written, and every slice hears of it. -/
def Chip.startStep16 (c : Chip) (warm back : Bool) : Chip :=
  let c := (c.setFld AON_START_STATUS AON_START_STATUS.STARTING 0).setFld AON_START_STATUS AON_START_STATUS.FAIL_COUNT 0
  let owed := c.power.owed
  let c := (c.setFld SEC_STATUS SEC_STATUS.STATE 2).updPower (fun w => { w with mode := .active, owed := [], sliceTable := [] })
  let c := c.setFld SAF_ISLAND_STATUS SAF_ISLAND_STATUS.STATE 2
  let c := owed.foldl (fun (c : Chip) e => c.error e) c
  let cause := c.fld AON_START_STATUS AON_START_STATUS.CAUSE
  (c.slices.map (·.1)).foldl (fun (c : Chip) s => c.event s 0x0504 0xFFFF (b2n warm + b2n back * 2) cause (c.reg AON_START_COUNT)) c

/-! ### The starts (R415) -/

/-- R417: CYCLE goes up before step 11 of the first cold start after a power-up, and when STARTS has wrapped. -/
def Part.countCycle (p : Part) : Part :=
  if p.chip.power.freshAon = false then p
  else
    let n := p.sec.cycle + 1
    let c := (p.chip.setFld AON_START_COUNT AON_START_COUNT.CYCLE n).setFld AON_START_COUNT AON_START_COUNT.STARTS 1
    { chip := c.updPower (fun w => { w with freshAon := false }), sec := { p.sec with cycle := n } }

/-- The full digest exchange of a cold start sends this part's digest at once (R415). -/
def Chip.announceAtStart (c : Chip) : Chip :=
  match c.ownMember with
  | some m => if c.inDomain then c.sendAnnouncement m else c
  | none => c

/-- Steps 5 to 16 of a cold start whose images verify. -/
def Part.coldSteps (p : Part) (slot : Nat) : Part :=
  let p := (p.measure slot).countCycle
  let c := p.chip.giveOwners p.chip.carveOut.1 p.chip.carveOut.2 0 false
  let split := bitOf (bytesU c.power.profile 7 1) 0
  let c := (c.setFld SAF_ISLAND_STATUS SAF_ISLAND_STATUS.SPLIT (b2n split)).updPower (fun w => { w with split := split })
  let c := Part.startDomain { p with chip := c.startStep11.1 } false
  { p with chip := (c.startStep16 false false).announceAtStart }

/-- Table — Supported memory configurations: identical devices on all 16 channels, 32, 64 or 128 GiB in all (R8). -/
def Chip.supportedMemory (c : Chip) : Bool := c.power.populated && [32 * 2 ^ 30, 64 * 2 ^ 30, 128 * 2 ^ 30].contains c.capacity

/-- Steps 3 to 8 of a cold start: a wrong population, found at step 8, ends in recovery (R8, R418). -/
def Part.coldChecks (p : Part) (failAt slot : Nat) : Part :=
  let fault := p.startFault false failAt slot
  let early := match fault with
    | some f => decide (f.step < 8)
    | none => false
  if p.chip.supportedMemory = false ∧ early = false then p.wrongPopulation
  else match fault with
    | some f => p.stepFailed f
    | none => p.coldSteps slot

/-- Step 2: the straps are read. -/
def Chip.readStraps (c : Chip) : Chip :=
  let slot := c.power.profSel % 4
  let c := (c.setFld AON_PROFILE AON_PROFILE.STRAP slot).setFld AON_PROFILE AON_PROFILE.NEXT slot
  c.setFld AON_START_STATUS AON_START_STATUS.BOOT_SRC (c.power.bootSrc % 4)

/-- R415: the steps of a cold start, from the release of reset on; `failAt` is the step at which the hardware fails (0: none). -/
def coldStart (failAt : Nat) (p : Part) : Part :=
  let p := p.release
  if p.chip.power.mode ≠ .starting ∨ p.chip.flag AON_START_STATUS AON_START_STATUS.WARM = true then p
  else if p.chip.power.bootSrc % 4 = 3 then Part.enterRecovery { p with chip := p.chip.readStraps }
  else Part.coldChecks { p with chip := p.chip.readStraps } failAt (p.chip.power.profSel % 4)

def execColdStart (failAt : Nat) (s : State) : Host.Outcome State Fault Refusal := s.onPart (coldStart failAt)

/-- Steps 5 to 16 of a warm start whose images verify (R416). -/
def Part.warmSteps (p : Part) (slot : Nat) : Part :=
  let p := (p.measure slot).countCycle
  let c := p.chip.retainedFixed.setFld SAF_ISLAND_STATUS SAF_ISLAND_STATUS.SPLIT (b2n p.chip.power.split)
  let (c, back) := c.startStep11
  let c := Part.startDomain { p with chip := c.rewarm } true
  { p with chip := c.startStep16 true back }

/-- A warm start is under way with the supplies in range. -/
def Chip.warmUnderWay (c : Chip) : Bool := c.power.mode == PartMode.starting && c.flag AON_START_STATUS AON_START_STATUS.WARM && c.power.supplied

/-- R415, R416: the steps of a warm start. -/
def warmStart (failAt : Nat) (p : Part) : Part :=
  if !p.chip.warmUnderWay then p
  else match p.startFault true failAt (p.chip.fld AON_PROFILE AON_PROFILE.NEXT) with
    | some f => p.stepFailed f
    | none => p.warmSteps (p.chip.fld AON_PROFILE AON_PROFILE.NEXT)

def execWarmStart (failAt : Nat) (s : State) : Host.Outcome State Fault Refusal := s.onPart (warmStart failAt)

/-! ### Recovery (R420, R456) -/

/-- A write of GO: the bundle staged is verified next. -/
def recCtrlGo (c : Chip) : Chip :=
  if c.power.mode ≠ .recovery ∨ c.portMode 1 ≠ pmRecovery ∨ c.fld REC_STATUS REC_STATUS.STATE = 2 then c
  else c.setFld REC_STATUS REC_STATUS.STATE 2

def execRecCtrlGo (s : State) : Host.Outcome State Fault Refusal := s.on recCtrlGo

/-- The images of a bundle of bytes, by TYPE; none where one is cut off or follows no header (DEDUCED, log 72). -/
def parseBundle : Nat → List Byte → Option (AMap (List Byte))
  | _, [] => some []
  | 0, _ => none
  | n + 1, b =>
    let len := 256 + bytesU b 12 4
    if b.length < len ∨ bytesU b 0 4 ≠ 0x494D4746 ∨ 5 ≤ bytesU b 4 1 then none
    else (parseBundle n (b.drop len)).map (fun m => AMap.set m (bytesU b 4 1) (b.take len))

/-- The first check a bundle fails: 5 for its length, else that of its first image that fails (R350 with role bit 3). -/
def bundleCheck (f : Flash) (rollback : AMap Nat) (b : List Byte) (len : Nat) : Except Nat (AMap (List Byte)) :=
  if len = 0 ∨ stageSize < len then .error 5
  else match parseBundle 5 b with
    | none => .error 5
    | some m =>
      if m.map (·.1) ≠ [0, 1, 2, 3, 4] then .error 5
      else match m.findSome? (fun i => imageCheck f rollback i.1 3 i.2) with
        | some k => .error k
        | none => .ok m

/-- The staged bundle, judged. -/
def Part.staged (p : Part) : Except Nat (AMap (List Byte)) :=
  let len := p.chip.reg REC_LENGTH
  Machine.bundleCheck p.chip.flash p.sec.rollback (memRead p.chip.mem stageBase (min len stageSize)) len

/-- What the judgement of a bundle leaves: the reason it was rejected, or the flash written and a cold start. -/
def Part.bundleJudged (p : Part) (r : Except Nat (AMap (List Byte))) : Part :=
  match r with
  | .error k => { p with chip := (p.chip.setFld REC_STATUS REC_STATUS.STATE 4).setFld REC_STATUS REC_STATUS.CAUSE k }
  | .ok m => Part.beginCold { p with chip := { p.chip with flash := { p.chip.flash with bundle := m } }.setFld AON_START_STATUS AON_START_STATUS.FAIL_COUNT 0 } 0x0B

/-- R420: the staged bundle is verified: written to the flash and a cold start made, or rejected and the wait goes on. -/
def recoveryBundle (p : Part) : Part :=
  if p.chip.power.mode ≠ .recovery ∨ p.chip.fld REC_STATUS REC_STATUS.STATE ≠ 2 then p else p.bundleJudged p.staged

def execRecoveryBundle (s : State) : Host.Outcome State Fault Refusal := s.onPart recoveryBundle

end Sys2Proof.Machine
end

