-- ==== Sys2Proof/Machine/Mesh.lean ====
section
/-!
DEFINITION. The mesh: a request from its source to its target, the registers as a reader sees them and as a write
changes them, the always-on bridge, and the requests of a host (01 R12 to R20, 02 R33 to R42, 15 R410, 17 R442 to
R445, R458 to R462).
-/

namespace Sys2Proof.Machine

/-! ### The source of a request (R17, R33, R34) -/

/-- Table — Source of the slice tag: a core's CSR, ACC_MST_CTX, 0, or the slice that the master serves. -/
def Chip.sourceTag (c : Chip) (m serves : Nat) : Nat :=
  if m < 0x10 then c.hartTag m
  else if 0x50 ≤ m ∧ m ≤ 0x53 then c.hartTag (m - 0x40)
  else if m = 0x48 ∨ m = 0x4C then 0
  else if [0x34, 0x40, 0x58, 0x59, 0x5C, 0x5D].contains m then c.fld (ACC_MST_CTX m) ACC_MST_CTX.SLICE_TAG
  else serves

/-! ### Registers as a write changes them (R12) -/

/-- The fields of a register after a write of `v`, by their access types. -/
def writeFields (fs : List FieldSpec) (raw v : Nat) : Nat :=
  fs.foldl (fun x f =>
    match f.acc with
    | .rw => putBits x f.fld.hi f.fld.lo (bitsOf v f.fld.hi f.fld.lo)
    | .w1c => x &&& (x ^^^ (bitsOf v f.fld.hi f.fld.lo * 2 ^ f.fld.lo))
    | .w1s => x ||| (bitsOf v f.fld.hi f.fld.lo * 2 ^ f.fld.lo)
    | .ro | .wo | .rc => x) raw

def Chip.plainWrite (c : Chip) (s : RegSpec) (a v : Nat) : Chip := c.setReg (s.reg a) (writeFields s.fields (c.reg (s.reg a)) v)

/-- Registers set to zero: what a CLR bit does to counters. -/
def Chip.clearRegs (c : Chip) (l : List Reg) : Chip := l.foldl (fun (c : Chip) r => c.setReg r 0) c

/-- R63: a write of SQ_CTRL or EQ_CTRL; LOG2_SLOTS is taken only while the ring is DISABLED (R60). -/
def Chip.sqCtrlWrite (c : Chip) (s r v : Nat) : Chip :=
  if c.ringKept s r = rsDisabled then
    if bitOf v 31 then ringEnable s r (v % 32) c else c.setReg (SQ_CTRL s r) (v % 32)
  else if bitOf v 31 || c.ringKept s r == rsDraining then c
  else ringDisable s r c

def Chip.eqCtrlWrite (c : Chip) (s v : Nat) : Chip :=
  if c.flag (EQ_CTRL s) EQ_CTRL.ENABLE then if bitOf v 31 then c else c.setFld (EQ_CTRL s) EQ_CTRL.ENABLE 0
  else if bitOf v 31 then eventRingEnable s (v % 32) c
  else c.setReg (EQ_CTRL s) (v % 32)

/-- A whole register of a doorbell page written (R57, R60, R61, R63, R65, R69).  EQ_BASE and the size in EQ_CTRL are taken
only while the event ring is disabled, as R60 has it for the other rings: R61 is silent (DESIGN CHOICE, log 103). -/
def Chip.doorbellSet (c : Chip) (sp : RegSpec) (s a v : Nat) : Chip :=
  let k := a % 2 ^ 16
  let r := k / 0x400
  if k < 0x4000 then
    if !c.hasRing s r then c
    else match k % 0x400 with
      | 0x00 | 0x18 | 0x20 => if c.ringKept s r = rsDisabled then c.plainWrite sp a v else c
      | 0x08 => c.sqCtrlWrite s r v
      | 0x0C => sqTailWrite s r v c
      | 0x28 => cqHeadWrite s r v c
      | _ => c.plainWrite sp a v
  else match k with
    | 0x4000 => if c.flag (EQ_CTRL s) EQ_CTRL.ENABLE then c else c.plainWrite sp a v
    | 0x4008 => c.eqCtrlWrite s v
    | 0x4010 => eqHeadWrite s v c
    | _ => c.plainWrite sp a v

/-- R59, R85: a write to a doorbell page. -/
def Chip.doorbellWrite (c : Chip) (q : Req) (data : List Byte) : Chip :=
  let s := (q.addr - dbBase) / 2 ^ 16
  let k := q.addr % 2 ^ 16
  let v := leNat data
  if 0x8000 ≤ k then
    if k % 8 = 0 ∧ q.len = 8 then syncWindowWrite s ((k - 0x8000) / 8) (BitVec.ofNat 64 v) c
    else doorbellMisuse 1 q.master s k true c
  else match findReg q.addr with
    | none => if (q.len = 4 ∨ q.len = 8) ∧ k % q.len = 0 then c else doorbellMisuse 2 q.master s k true c
    | some (sp, a) =>
      let off := a - dbPage s
      let c' := { c with staged := AMap.del c.staged a }
      if q.addr = a ∧ q.len = sp.bytes then c'.doorbellSet sp s a v
      else if sp.bytes = 8 ∧ q.len = 4 ∧ q.addr = a then holdLowerHalf s off (BitVec.ofNat 32 v) c
      else if sp.bytes = 8 ∧ q.len = 4 ∧ q.addr = a + 4 then
        let lo := ((AMap.get? c.staged a).map BitVec.toNat).getD (c.reg (sp.reg a) % 2 ^ 32)
        c'.doorbellSet sp s a (lo + v * 2 ^ 32)
      else doorbellMisuse 2 q.master s k true c

/-- Levels of the output pins that a write changed leave the part (R509). -/
def Chip.drivePins (c : Chip) (dir out : Nat) : Chip :=
  (List.range 48).foldl (fun (c : Chip) n =>
    if c.pinFunc n = 0 ∧ bitOf c.pinDir n = true ∧ (bitOf dir n = false ∨ bitOf out n ≠ bitOf c.pinOut n) then c.send (.gpio n) [if bitOf c.pinOut n then 1 else 0]
    else c) c

/-- A field of a register given the low bits of `v` where they lie in a range. -/
def Chip.setWithin (c : Chip) (r : Reg) (f : Fld) (v lo hi : Nat) : Chip :=
  let x := bitsOf v f.hi f.lo
  if lo ≤ x ∧ x ≤ hi then c.setFld r f x else c

/-- A write of an engine's or a unit's counter control: FREEZE, and CLR for the counters. -/
def Chip.cntCtrlWrite (c : Chip) (ctrl : Reg) (v : Nat) (l : List Reg) : Chip :=
  let c := c.setFld ctrl DCE_CNT_CTRL.FREEZE (bitsOf v 1 1)
  if bitOf v 0 then c.clearRegs l else c

/-- Counters of the engines of a group (R176, R177). -/
def engCounters (g : Nat) : Nat → List Reg
  | 0 => [DCE_BUSY g, DCE_MACS g, DCE_DESC_DONE g, DCE_ROWS_SKIPPED g, DCE_PAD_SAMPLES g, DCE_SEGMENTS g]
  | 1 => [NGT_BUSY g, NGT_MACS g, NGT_DESC_DONE g, NGT_ROWS_SKIPPED g, NGT_PAD_SAMPLES g, NGT_SEGMENTS g, NGT_SAT g]
  | _ => [GRP_CRU_BUSY g, GRP_CRU_BOXES g, GRP_CRU_OUTSIDE g, GRP_CRU_NAN g, GRP_CRU_TRUNC g]

/-- A write of a register of group `g` in the GRP block (R94, R95, R177, R213). -/
def Chip.grpWrite (c : Chip) (tag g k v : Nat) : Chip :=
  match k with
  | 0x010 => grpOppCapWrite tag g v c
  | 0x038 => if bitOf v 0 then c.clearRegs [GRP_RUN_CYCLES g, GRP_WAKES g] else c
  | 0x118 => c.cntCtrlWrite (GRP_CRU_CNT_CTRL g) v (engCounters g 2)
  | 0x200 =>
    if tag ≠ 0 then c
    else
      let c := c.setFld (GRP_SCHED_CTRL g) GRP_SCHED_CTRL.PREEMPT_LEAD (bitsOf v 31 16)
      if bitOf v 0 then c.clearRegs [GRP_DISPATCHES g, GRP_PREEMPTS g, GRP_SAVE_BYTES g, GRP_RESTORE_BYTES g, GRP_LATE g, GRP_BUDGET_DENIED g] else c
  | _ => c

/-- Channel counters of Millrace (R390). -/
def mrcCounters : List Reg :=
  (List.range 16).flatMap (fun n => [MRC_CH_SECTORS n, MRC_CH_ACTIVATES n, MRC_CH_ROW_HITS n, MRC_CH_COALESCED n, MRC_CH_SAFETY n, MRC_CH_LEFTOVER n, MRC_CH_FILL n])

/-- A write of a register of the MEM or the MRC block (R364, R388, R390). -/
def Chip.memWriteReg (c : Chip) (s : RegSpec) (tag a v : Nat) : Chip :=
  let o := a % 2 ^ 24
  if o < 0x100 then eccRegionWrite tag (o / 0x10) (o % 0x10 == 8) (BitVec.ofNat 64 v) c
  else match o with
    | 0x400 => ((c.setWithin MEM_ARB_CTRL MEM_ARB_CTRL.N_MESH v 4 64).setWithin MEM_ARB_CTRL MEM_ARB_CTRL.N_MC v 4 64).setWithin MEM_ARB_CTRL MEM_ARB_CTRL.N_DRAM v 4 64
    | 0x408 => (c.plainWrite s a v).showArb
    | _ => c.plainWrite s a v

def Chip.mrcWrite (c : Chip) (s : RegSpec) (a v : Nat) : Chip :=
  match a % 2 ^ 24 with
  | 0x000 => (c.setFld MRC_CTRL MRC_CTRL.AGE_NS (bitsOf v 31 16)).setWithin MRC_CTRL MRC_CTRL.HIT_CAP v 1 64
  | 0x010 => if bitOf v 0 then c.clearRegs mrcCounters else c
  | _ => c.plainWrite s a v

/-- R216: a write of a trigger register. -/
def Chip.cflWriteReg (c : Chip) (s : RegSpec) (tag a v : Nat) : Chip :=
  let o := a % 2 ^ 24
  let n := (o - 0x1000) / 0x40
  if tag ≠ 0 ∨ o < 0x1000 ∨ 0x1400 ≤ o then c
  else if o % 0x40 = 0 then triggerEnable tag n v c
  else if c.flag (CFL_TRIG_CTRL n) CFL_TRIG_CTRL.EN then c
  else c.plainWrite s a v

/-- Counters of Fondant (R283). -/
def gfxCounters : List Reg := [GFX_PASSES, GFX_TILES, GFX_FLUSHES, GFX_TAKEOVERS, GFX_SB_STALL] ++ (List.range 8).map GFX_CORE_BUSY

def Chip.gfxWrite (c : Chip) (s : RegSpec) (a v : Nat) : Chip :=
  if a % 2 ^ 24 = 0x10 then if bitOf v 0 then c.clearRegs gfxCounters else c else c.plainWrite s a v

/-- A write of a register of the acoustic loop engine (R252, R253, R260). -/
def Chip.aleWriteReg (c : Chip) (s : RegSpec) (tag a v : Nat) : Chip :=
  let o := a % 2 ^ 24
  if o = 0 then aleAdapt tag (bitOf v 1) (aleEnable tag (bitOf v 0) c)
  else if o = 8 then aleLoad tag v c
  else if 0x40 ≤ o ∧ o < 0x80 then audioRingEnable tag ((o - 0x40) / 8) v c
  else if 0x100 ≤ o ∧ o < 0x110 then alePortCfgWrite tag ((o - 0x100) / 4) v c
  else if o = 0x230 then if bitOf v 0 then c.clearRegs [ALE_SAMPLES, ALE_SAT, ALE_CLIP, ALE_UNDERRUN, ALE_LATE_1722, ALE_DIVERGE] else c
  else c.plainWrite s a v

/-- Registers of a pipe that only the island writes (R284). -/
def islandOnly (k : Nat) : Bool := k == 0x200 || (0x240 ≤ k && k < 0x508)

/-- A write of a register of a display pipe (R277, R278, R284).  How a training that it starts ends is a free value. -/
def Chip.dspWrite (c : Chip) (s : RegSpec) (master tag a v : Nat) : Chip :=
  let p := a % 2 ^ 24 / 2 ^ 16
  let k := a % 2 ^ 16
  if islandOnly k && master != 0x48 then c
  else match k with
    | 0x000 => dspPipeEnable tag p v c
    | 0x004 | 0x008 | 0x00C | 0x010 | 0x014 => if c.flag (DSP_PIPE_CTRL p) DSP_PIPE_CTRL.EN then c else c.plainWrite s a v
    | 0x018 =>
      let (x, c) := c.draw
      displayLinkTraining tag p v (bitOf x.toNat 0) (bitsOf x.toNat 9 8 % 3) (bitsOf x.toNat 19 16 % 5) c
    | 0x01C => dspCommit tag p v c
    | _ => c.plainWrite s a v

/-- R453, R455, R472: a write of a register of the LNK block. -/
def Chip.lnkWrite (c : Chip) (s : RegSpec) (tag a v : Nat) : Chip :=
  let o := a % 2 ^ 24
  if o = 0x404 then
    let c := if bitOf v 1 then carryEnd tag c else c
    if bitOf v 0 then detach tag c else c
  else if 0x1000 ≤ o ∧ o < 0x1400 then
    let n := (o - 0x1000) / 0x40
    let on := c.flag (LNK_CKPT_SRC n) LNK_CKPT_SRC.EN
    if o % 0x40 = 0 then
      if on then if bitOf v 0 then c else (c.setFld (LNK_CKPT_SRC n) LNK_CKPT_SRC.EN 0).ckptDisarm n
      else
        let c := c.plainWrite s a v
        if bitOf v 0 then c.ckptArm n else c
    else if on then c
    else c.plainWrite s a v
  else c.plainWrite s a v

/-- A write of a register of the NET block (R482, R496); a transmit ring that is enabled takes what is posted. -/
def Chip.netWrite (c : Chip) (s : RegSpec) (tag a v : Nat) : Chip :=
  let o := a % 2 ^ 24
  let r := (o - 0x2000) / 0x20
  if 0x2000 ≤ o ∧ o % 0x20 = 0x08 then netDmaTail tag r v c
  else if 0x2000 ≤ o ∧ o % 0x20 = 0 then netDmaTail tag r (c.reg (NET_DMA_TAIL r)) (c.plainWrite s a v)
  else c.plainWrite s a v

/-- A write of a register of the CAN block (R485, R497). -/
def Chip.canWrite (c : Chip) (s : RegSpec) (tag a v : Nat) : Chip :=
  if a % 0x100 = 0x20 then canTxTail tag (a % 2 ^ 24 / 0x100) v c else c.plainWrite s a v

/-- R36, R39: a write of a register of the ACC block. -/
def Chip.accWrite (c : Chip) (s : RegSpec) (master tag a v : Nat) : Chip :=
  let o := a % 2 ^ 24
  if o < 0x40000 then accTableWrite master tag (o / 0x1000) (o % 0x1000) (BitVec.ofNat 64 v) c
  else if 0x42000 ≤ o ∧ o < 0x42100 then pasidMapWrite master tag ((o - 0x42000) / 4) (BitVec.ofNat 32 v) c
  else if tag ≠ 0 then c
  else c.plainWrite s a v

/-- R336: a write of a register of the ERR block. -/
def Chip.errWriteReg (c : Chip) (s : RegSpec) (tag a v : Nat) : Chip :=
  match a % 2 ^ 24 with
  | 0x00 => if c.flag ERR_RING_CTRL ERR_RING_CTRL.ENABLE then c else c.plainWrite s a v
  | 0x08 => errRingEnable tag v c
  | 0x10 => errRingHeadWrite tag v c
  | _ => c.plainWrite s a v

/-- A write of a register of the always-on window (R395, R425, R509). -/
def Chip.aonWrite (c : Chip) (s : RegSpec) (tag a v : Nat) : Chip :=
  if a = AON_START_CTRL.addr then if bitOf v 0 then warmReq tag c else c
  else
    let d := c.pinDir
    let o := c.pinOut
    let c := c.plainWrite s a v
    if GPIO_DIR_LO.addr ≤ a then c.drivePins d o else c

/-- One register written whole, by its block. -/
def Part.writeReg (p : Part) (master tag : Nat) (s : RegSpec) (a v : Nat) : Part :=
  let c := p.chip
  let o := a % 2 ^ 24
  if aonBase ≤ a then { p with chip := c.aonWrite s tag a v }
  else match (a - regBase) / 2 ^ 24 with
    | 2 => { p with chip := c.grpWrite tag (o / 2 ^ 16) (o % 2 ^ 16) v }
    | 3 => { p with chip := match o % 2 ^ 16 with
        | 0x10 => tileLfsrWrite master tag (o / 2 ^ 16) v c
        | 0x18 => tileCounterClear master tag (o / 2 ^ 16) v c
        | 0x70 => tileCodeMapWrite tag (o / 2 ^ 16) (BitVec.ofNat 32 v) c
        | _ => c.plainWrite s a v }
    | 5 => { p with chip := match o % 2 ^ 16 with
        | 0x10 => dceLfsrWrite master tag (o / 2 ^ 16) 1 v c
        | 0x18 => c.cntCtrlWrite (NGT_CNT_CTRL (o / 2 ^ 16)) v (engCounters (o / 2 ^ 16) 1)
        | _ => c }
    | 6 => { p with chip := match o % 2 ^ 16 with
        | 0x10 => dceLfsrWrite master tag (o / 2 ^ 16) 0 v c
        | 0x18 => c.cntCtrlWrite (DCE_CNT_CTRL (o / 2 ^ 16)) v (engCounters (o / 2 ^ 16) 0)
        | _ => c }
    | 8 => { p with chip := c.memWriteReg s tag a v }
    | 9 => { p with chip := c.mrcWrite s a v }
    | 10 => { p with chip := c.cflWriteReg s tag a v }
    | 11 => { p with chip := c.gfxWrite s a v }
    | 14 =>
      if o < 0x800000 ∨ c.forerunner = false then p
      else if o % 2 ^ 16 = 0x1C then if bitOf v 0 then mbxDoorbell tag ((o - 0x800000) / 2 ^ 16) p else p
      else { p with chip := c.plainWrite s a v }
    | 17 => { p with chip := c.lnkWrite s tag a v }
    | 18 => { p with chip := c.netWrite s tag a v }
    | 19 => { p with chip := c.canWrite s tag a v }
    | 20 => { p with chip := c.accWrite s master tag a v }
    | 21 => { p with chip := c.errWriteReg s tag a v }
    | 22 => { p with chip := c.aleWriteReg s tag a v }
    | 23 => { p with chip := c.dspWrite s master tag a v }
    | _ => { p with chip := c.plainWrite s a v }

/-- What the bytes of a register that a write leaves out count as: their value, and 0 for bits that a 1 would act on. -/
def RegSpec.rest (s : RegSpec) (raw : Nat) : Nat :=
  s.fields.foldl (fun x f => if f.acc = .w1c ∨ f.acc = .w1s then putBits x f.fld.hi f.fld.lo 0 else x) raw

/-- Bytes written from `a` up, register by register; a byte of no register goes to the CAN message RAM or nowhere. -/
def Part.writeRegs : Nat → Part → Nat → Nat → Nat → List Byte → Part
  | 0, p, _, _, _, _ => p
  | k + 1, p, master, tag, a, data =>
    match data with
    | [] => p
    | x :: l =>
      match findReg a with
      | none =>
        let c := p.chip
        let c := match canRamAt a with
          | some i => c.updNet (fun n => { n with canRam := memPut n.canRam i x })
          | none => c
        Part.writeRegs k { p with chip := c } master tag (a + 1) l
      | some (s, b) =>
        let m := min data.length (b + s.bytes - a)
        let old := leBytes s.bytes (s.rest (p.chip.reg (s.reg b)))
        let p := p.writeReg master tag s b (leNat (putAt old (a - b) (data.take m)))
        Part.writeRegs k p master tag (a + m) (data.drop m)

/-! ### The MSI window (R444) -/

/-- Word `w` of vector `v` in the MSI-X table of a port; a vector is masked at reset (PRESUMED, log 74). -/
def Chip.msixWord (c : Chip) (port v w : Nat) : Nat :=
  ((AMap.get? c.link.msix (port * 8192 + 4 * v + w)).map BitVec.toNat).getD (if w = 3 then 1 else 0)

/-- The message of a vector leaves for the host. -/
def Chip.msixSend (c : Chip) (port v : Nat) : Chip :=
  c.send (.host port v) (leBytes 4 (c.msixWord port v 0) ++ leBytes 4 (c.msixWord port v 1) ++ leBytes 4 (c.msixWord port v 2))

/-- R444: a vector raised on a port in ENDPOINT mode: its message, or its pending bit where the host masks it. -/
def Chip.msiRaise (c : Chip) (port v : Nat) : Chip :=
  if c.portMode port ≠ pmEndpoint then c
  else if bitOf (c.msixWord port v 3) 0 then c.updLink (fun l => { l with pba := nsInsert l.pba (2048 * port + v) })
  else c.msixSend port v

/-! ### The always-on bridge (R458 to R462) -/

/-- F2S shows the reads that wait to be fetched, by class. -/
def Chip.showBridge (c : Chip) : Chip :=
  let n := fun (k : Nat) => min 4 ((c.link.bridge.filter (fun e => e.cls == k && e.value.isNone)).length)
  c.setFld AON_BR_STATUS AON_BR_STATUS.F2S (n 0 + n 1 * 2 ^ 4 + n 2 * 2 ^ 8 + n 3 * 2 ^ 12)

/-- R459: an access that may not cross. -/
def Chip.bridgeRefused (c : Chip) (q : Req) (id t : Nat) : Chip := (c.bridgeError q t).failed q id 3

/-- R460: the far side performs a write, `ns` after it was sent. -/
def Part.farWrite (p : Part) (master tag addr ns : Nat) (data : List Byte) : Part :=
  let p := p.writeRegs data.length master tag addr data
  { p with chip := p.chip.setReg AON_BR_WR_MAX (max (p.chip.reg AON_BR_WR_MAX) (ns % 2 ^ 32)) }

/-- R460: a checked write crosses: the far side has performed it when its sender hears of it, `ns` after it was sent. -/
def Part.crossWrite (p : Part) (q : Req) (id t ns : Nat) (data : List Byte) : Part :=
  if !q.crosses then { p with chip := p.chip.bridgeRefused q id t }
  else
    let p := p.farWrite q.master q.tag q.addr ns data
    { p with chip := p.chip.reply q.master id .value [] }

/-- The read entry of a request. -/
def BridgeRead.holds (e : BridgeRead) (q : Req) (cls : Nat) : Bool := e.master == q.master && e.tag == q.tag && e.addr == q.addr && e.len == q.len && e.cls == cls

/-- R461: a checked read crosses: RETRY until its entry holds the value, then the value, which frees the entry. -/
def Chip.crossRead (c : Chip) (q : Req) (cls id t : Nat) : Chip :=
  if !q.crosses then c.bridgeRefused q id t
  else match c.link.bridge.find? (fun e => e.holds q cls) with
    | some e =>
      match e.value with
      | some b => (c.updLink (fun l => { l with bridge := l.bridge.filter (fun x => !x.holds q cls) })).reply q.master id .value b
      | none => c.reply q.master id .retry []
    | none =>
      if (c.link.bridge.filter (fun e => e.cls == cls)).length < 8 then
        ((c.updLink (fun l => { l with bridge := l.bridge ++ [{ master := q.master, tag := q.tag, addr := q.addr, len := q.len, cls := cls }] })).showBridge).reply q.master id .retry []
      else (c.count AON_BR_RETRY_FULL AON_BR_RETRY_FULL.COUNT 1).reply q.master id .retry []

/-- The next read to fetch: of the lowest class, the oldest (R458). -/
def nextFetch (l : List BridgeRead) : Option BridgeRead :=
  (List.range 4).findSome? (fun k => l.find? (fun e => e.cls == k && e.value.isNone))

/-- A read's entry takes its value. -/
def Chip.fetchRead (c : Chip) (e : BridgeRead) : Chip :=
  let (b, c) := c.readRegs e.len e.addr e.len
  let same := fun (x : BridgeRead) => x.master == e.master && x.tag == e.tag && x.addr == e.addr && x.len == e.len && x.cls == e.cls
  let c := c.updLink (fun l => { l with bridge := l.bridge.map (fun x => if same x then { x with value := some b, since := c.now } else x) })
  (c.count AON_BR_READS AON_BR_READS.COUNT 1).showBridge

/-- R461: the bridge fetches the value of a read into its entry. -/
def bridgeReadFetched (c : Chip) : Chip :=
  match nextFetch c.link.bridge with
  | none => c
  | some e => c.fetchRead e

/-- An entry's value has waited 1 ms. -/
def Chip.staleRead (c : Chip) (e : BridgeRead) : Bool := e.value.isSome && decide (e.since + 1000000 ≤ c.now)

/-- R461: values that nobody has collected within 1 ms are discarded. -/
def bridgeReadDiscard (c : Chip) : Chip :=
  (c.updLink (fun l => { l with bridge := l.bridge.filter (fun e => !c.staleRead e) })).count AON_BR_DISCARDS AON_BR_DISCARDS.COUNT (c.link.bridge.filter c.staleRead).length

/-! ### A request at its target (R15, R20, R38 to R42, R410) -/

/-- A DRAM request goes to its channel's queue of up to 256.  Where that is full, or the valid table is being cleared, or an
earlier request of its class waits before the channel, it waits in the link buffer of its class, and holds up no other class
(R15, R16, R370, R378). -/
def Chip.queueDram (c : Chip) (q : Req) (cls id : Nat) (data : List Byte) : Chip :=
  let ch := channelOf q.addr
  let k := 4 * ch + cls % 4
  let r : DramReq := { id := id, master := q.master, tag := q.tag, world := q.world, cls := cls, addr := q.addr, len := q.len, write := q.write, data := data, since := c.now }
  if c.channelFull ch || !(AMap.getD c.linkQ k []).isEmpty then { c with linkQ := AMap.set c.linkQ k (AMap.getD c.linkQ k [] ++ [r]) }
  else c.acceptDram r

/-- A checked request to the model cache or a tile's window. -/
def Chip.serveSram (c : Chip) (q : Req) (id : Nat) (data : List Byte) : Chip :=
  if q.write then
    match c.saveServed q data with
    | (.ok, c) => c.reply q.master id .value []
    | (_, c) => c.failed q id 3
  else
    match c.loadServed q with
    | (.ok, b, c) => c.reply q.master id .value b
    | (_, b, c) => if (c.hostPort q.master).isSome then c.failed q id 3 else c.reply q.master id .marked b

/-- A checked request to a register block, a doorbell page or the MSI window. -/
def Part.serveRegs (p : Part) (q : Req) (id t : Nat) (data : List Byte) : Part :=
  let c := p.chip
  if t = 50 then
    if q.write then { p with chip := (c.doorbellWrite q data).reply q.master id .value [] }
    else
      let (b, c) := c.doorbellRead q
      { p with chip := c.reply q.master id .value b }
  else if q.write then
    match msiVector q.addr with
    | some (port, v) => { p with chip := (if q.len = 4 ∧ q.addr % 4 = 0 then c.msiRaise port v else c).reply q.master id .value [] }
    | none =>
      let p := p.writeRegs q.len q.master q.tag q.addr data
      { p with chip := p.chip.reply q.master id .value [] }
  else
    let (b, c) := c.readRegs q.len q.addr q.len
    { p with chip := c.reply q.master id .value b }

/-- R20, R38 to R42, R410: a request is checked, and served by its target.  How long a write takes over the bridge is a
free value within R460. -/
def Part.serve (p : Part) (q : Req) (cls id : Nat) (data : List Byte) : Part :=
  let c := p.chip
  match c.check q, c.target q.addr with
  | some (d, t), _ => { p with chip := (c.denied q d t).failed q id 1 }
  | none, .error _ => p
  | none, .ok t =>
    if c.gatedTarget t then
      { p with chip := (c.gatedError q t).failed q id 3 }
    else if t = 0 then { p with chip := c.queueDram q cls id data }
    else if t < 25 then { p with chip := c.serveSram q id data }
    else if slowTarget t then
      if q.write then
        let (x, c) := c.draw
        { p with chip := c }.crossWrite q id t (x.toNat % 1001) data
      else { p with chip := c.crossRead q cls id t }
    else p.serveRegs q id t data

/-- A request takes the next number. -/
def Part.numbered (p : Part) : Part := { p with chip := { p.chip with nextReq := p.chip.nextReq + 1 } }

/-- The request of a master: the tag it carries, and the secure world where it may have it (R33, R34). -/
def Chip.meshReq (c : Chip) (master serves addr : Nat) (world : Bool) (len : Nat) (write : Bool) (data : List Byte) : Req :=
  { master := master, tag := c.sourceTag master serves, world := b2n (world && master == 0x4C), addr := addr, len := if write then data.length else len, write := write }

/-- The outputs on the route of a request, where the spec places its source and its target. -/
def Chip.meshRoute (c : Chip) (q : Req) : List Nat :=
  match masterNode q.master, c.target q.addr with
  | some s, .ok t => match addressNode t q.addr with
    | some d => routeOutputs (requestRoute s d)
    | none => []
  | _, _ => []

/-- R388, R389: a parity error on a link of its route ends a request.  UNIT of the record is the arbiter of the output that
drives the link: a free one of the route, or any where the spec does not place the source or the target (log 106). -/
def Chip.parityLost (c : Chip) (q : Req) (id : Nat) : Chip :=
  let (x, c) := c.draw
  let l := c.meshRoute q
  let n := (l[x.toNat % max l.length 1]?).getD (64 + 8 * (x.toNat % 26) + x.toNat / 32 % 6)
  (c.error { severity := 2, cause := 2, source := 4, unit := n, master := q.master, slice := q.tag, world := q.world, addr := q.addr }).failed q id 3

/-- R15, R33: a master issues a request.  `serves` and `cls` are the slice and class of the job or ring it serves; a
parity error on a link ends it (R388). -/
def meshRequest (master serves cls addr : Nat) (world parity : Bool) (len : Nat) (write : Bool) (data : List Byte) (p : Part) : Part :=
  let q := p.chip.meshReq master serves addr world len write data
  if q.len = 0 ∨ listedMaster master = false then p.numbered
  else if parity then { p.numbered with chip := p.numbered.chip.parityLost q p.chip.nextReq }
  else p.numbered.serve q (p.chip.sourceClass master q.tag cls) p.chip.nextReq data

def execMeshRequest (master serves cls addr : Nat) (world parity : Bool) (len : Nat) (write : Bool) (data : List Byte) (s : State) : Host.Outcome State Fault Refusal :=
  s.onPart (meshRequest master serves cls addr world parity len write data)

/-- R12: a write to the registers, with the slice tag it carries. -/
def registerWrite (master tag addr : Nat) (data : List Byte) (p : Part) : Part :=
  if addr < regBase ∨ data = [] ∨ listedMaster master = false then p.numbered
  else p.numbered.serve { master := master, tag := tag, addr := addr, len := data.length, write := true } (p.chip.sourceClass master tag 3) p.chip.nextReq data

def execRegisterWrite (master tag addr : Nat) (data : List Byte) (s : State) : Host.Outcome State Fault Refusal :=
  s.onPart (registerWrite master tag addr data)

/-- R12: a read of the registers; read-clear fields are cleared by it. -/
def rcRegisterRead (master tag addr len : Nat) (p : Part) : Part :=
  if addr < regBase ∨ len = 0 ∨ listedMaster master = false then p.numbered
  else p.numbered.serve { master := master, tag := tag, addr := addr, len := len, write := false } (p.chip.sourceClass master tag 3) p.chip.nextReq []

def execRcRegisterRead (master tag addr len : Nat) (s : State) : Host.Outcome State Fault Refusal :=
  s.onPart (rcRegisterRead master tag addr len)

/-- R12, R38 to R41: a write of one register: its number, its check, its effect, its answer. -/
def Chip.checkedWrite (c : Chip) (master tag addr n : Nat) (f : Chip → Chip) : Chip :=
  let q : Req := { master := master, tag := tag, addr := addr, len := n, write := true }
  let d := { c with nextReq := c.nextReq + 1 }
  if listedMaster master = false then d
  else match d.check q with
    | some (x, t) => (d.denied q x t).failed q c.nextReq 1
    | none => (f d).reply master c.nextReq .value []

/-- R36: a write of an entry of ACC_PASID_MAP. -/
def accPasidMapCommand (master tag s : Nat) (v : W32) (c : Chip) : Chip :=
  c.checkedWrite master tag (ACC_PASID_MAP s).addr 4 (pasidMapWrite master tag s v)

def execAccPasidMapWrite (master tag slice : Nat) (value : W32) (s : State) : Host.Outcome State Fault Refusal :=
  s.on (accPasidMapCommand master tag slice value)

/-- R39: a write at an offset of a target's table: windows are registers of 8 bytes, entries of 4. -/
def accTableCommand (master tag target off : Nat) (v : W64) (c : Chip) : Chip :=
  c.checkedWrite master tag (blockAddr 20 + target * 0x1000 + off) (if off < 0x200 then 8 else 4) (accTableWrite master tag target off v)

def execAccTableWrite (master tag target off : Nat) (value : W64) (s : State) : Host.Outcome State Fault Refusal :=
  s.on (accTableCommand master tag target off value)

/-- R97, R112: a write of TILE_LFSR. -/
def tileLfsrCommand (master tag tile : Nat) (v : W32) (c : Chip) : Chip :=
  c.checkedWrite master tag (TILE_LFSR tile).addr 4 (tileLfsrWrite master tag tile v.toNat)

def execTileLfsrWrite (master tag tile : Nat) (value : W32) (s : State) : Host.Outcome State Fault Refusal :=
  s.on (tileLfsrCommand master tag tile value)

/-- R96, R98, R150: a write of TILE_CNT_CTRL. -/
def tileCounterCommand (master tag tile : Nat) (v : W32) (c : Chip) : Chip :=
  c.checkedWrite master tag (TILE_CNT_CTRL tile).addr 4 (tileCounterClear master tag tile v.toNat)

def execTileCounterClear (master tag tile : Nat) (value : W32) (s : State) : Host.Outcome State Fault Refusal :=
  s.on (tileCounterCommand master tag tile value)

/-- R166, R176: a write of DCE_LFSR or NGT_LFSR. -/
def dceLfsrCommand (master tag group engine : Nat) (v : W32) (c : Chip) : Chip :=
  c.checkedWrite master tag (engLfsr group engine).addr 4 (dceLfsrWrite master tag group engine v.toNat)

def execDceLfsrWrite (master tag group engine : Nat) (value : W32) (s : State) : Host.Outcome State Fault Refusal :=
  s.on (dceLfsrCommand master tag group engine value)

/-- The request of a write to a vector of the MSI window. -/
def msiReq (master tag port v : Nat) : Req :=
  { master := master, tag := tag, addr := blockAddr 17 + (if port = 1 then 0x800000 else 0x810000) + 4 * v, len := 4, write := true }

/-- A write that the part had posted is on its way no longer. -/
def Chip.unpost (c : Chip) (q : Req) : Chip := { c with posted := c.posted.eraseP (fun x => x.master == q.master && x.tag == q.tag && x.addr == q.addr) }

/-- R444: a 32-bit write to the MSI window; one that the part had posted is on its way no longer. -/
def msiWindowWrite (master tag port v : Nat) (c : Chip) : Chip :=
  let q := msiReq master tag port v
  let c := c.unpost q
  if 2048 ≤ v ∨ 2 ≤ port ∨ listedMaster master = false then c
  else match c.check q with
    | some (d, t) => c.denied q d t
    | none => c.msiRaise port v

def execMsiWindowWrite (master tag port vector : Nat) (s : State) : Host.Outcome State Fault Refusal :=
  s.on (msiWindowWrite master tag port vector)

/-- The targets behind the bridge (R21). -/
def Chip.bridged (c : Chip) (a : Nat) : Option Nat :=
  match c.target a with
  | .ok t => if slowTarget t then some t else none
  | .error _ => none

/-- R458 to R460: a write to the slow domain, `ns` from its issue to its completion. -/
def bridgeWrite (master tag addr ns : Nat) (data : List Byte) (p : Part) : Part :=
  let q : Req := { master := master, tag := tag, addr := addr, len := data.length, write := true }
  match p.chip.bridged addr with
  | none => p.numbered
  | some t =>
    if data = [] ∨ listedMaster master = false then p.numbered
    else match p.numbered.chip.check q with
      | some (d, t) => { p.numbered with chip := (p.numbered.chip.denied q d t).failed q p.chip.nextReq 1 }
      | none => if p.chip.gatedTarget t then p.numbered.serve q 3 p.chip.nextReq data else p.numbered.crossWrite q p.chip.nextReq t ns data

def execBridgeWrite (master tag addr ns : Nat) (data : List Byte) (s : State) : Host.Outcome State Fault Refusal :=
  s.onPart (bridgeWrite master tag addr ns data)

/-- R458, R459, R461: a read of the slow domain, or a repeat of one. -/
def bridgeRead (master tag addr len : Nat) (p : Part) : Part :=
  if (p.chip.bridged addr).isNone ∨ len = 0 ∨ listedMaster master = false then p.numbered
  else p.numbered.serve { master := master, tag := tag, addr := addr, len := len, write := false } (p.chip.sourceClass master tag 3) p.chip.nextReq []

def execBridgeRead (master tag addr len : Nat) (s : State) : Host.Outcome State Fault Refusal :=
  s.onPart (bridgeRead master tag addr len)
def execBridgeReadFetched (s : State) : Host.Outcome State Fault Refusal := s.on bridgeReadFetched
def execBridgeReadDiscard (s : State) : Host.Outcome State Fault Refusal := s.on bridgeReadDiscard

/-! ### Writes that the part has posted (R21, R59, R80, R81, R460) -/

/-- A posted write, checked when it was sent, reaches its target.  How long it takes over the bridge is a free value within
R460. -/
def Part.arrive (p : Part) (x : Posted) : Part :=
  match p.chip.target x.addr with
  | .error _ => p
  | .ok t =>
    if t = 50 then { p with chip := p.chip.doorbellWrite { master := x.master, tag := x.tag, addr := x.addr, len := x.data.length, write := true } x.data }
    else if slowTarget t then { p with chip := p.chip.draw.2 }.farWrite x.master x.tag x.addr (p.chip.draw.1.toNat % 1001) x.data
    else match msiVector x.addr with
      | some (port, v) => { p with chip := if x.data.length = 4 ∧ x.addr % 4 = 0 then p.chip.msiRaise port v else p.chip }
      | none => p.writeRegs x.data.length x.master x.tag x.addr x.data

/-- The writes on their way arrive in the order they were sent (R15). -/
def Part.deliver (p : Part) : Part := p.chip.posted.foldl Part.arrive { p with chip := { p.chip with posted := [] } }

/-- R80: a MEM_COPY; what it wrote to registers has arrived when it completes (log 89). -/
def Part.copyMem (packet : Nat) (p : Part) : Part := Part.deliver { p with chip := memCopy packet p.chip }
def execMemCopy (packet : Nat) (s : State) : Host.Outcome State Fault Refusal := s.onPart (Part.copyMem packet)

/-- R81: a MEM_FILL; what it wrote to registers has arrived when it completes (log 89). -/
def Part.fillMem (packet : Nat) (p : Part) : Part := Part.deliver { p with chip := memFill packet p.chip }
def execMemFill (packet : Nat) (s : State) : Host.Outcome State Fault Refusal := s.onPart (Part.fillMem packet)

/-- With no command waiting, posted writes arrive, writes that wait for requests are tried (R365), and device time goes on (DESIGN CHOICE, log 2). -/
def idle (s : State) : State :=
  let p := s.part.deliver
  s.withPart { p with chip := { p.chip.eccService with now := p.chip.now + 1 } }

/-! ### Requests of a host (R442, R443, R456) -/

/-- The link of a port is up when a host is heard; its rate is free. -/
def Chip.hostUp (c : Chip) (port : Nat) : Chip :=
  if c.portUp port then c
  else
    let (x, c) := c.draw
    (c.setFld (LNK_PORT_STATUS port) LNK_PORT_STATUS.UP 1).setFld (LNK_PORT_STATUS port) LNK_PORT_STATUS.GBPS x.toNat

/-- The words of the MSI-X table that a write covers; a vector unmasked while it pends is sent. -/
def Chip.msixWrite (c : Chip) (port off : Nat) (data : List Byte) : Chip :=
  if off % 4 ≠ 0 ∨ data.length % 4 ≠ 0 then c
  else (List.range (data.length / 4)).foldl (fun (c : Chip) i =>
    let w := off / 4 + i
    let v := w / 4
    let c := c.updLink (fun l => { l with msix := AMap.set l.msix (port * 8192 + w) (BitVec.ofNat 32 (bytesU data (4 * i) 4)) })
    if w % 4 = 3 ∧ bitOf (c.msixWord port v 3) 0 = false ∧ c.link.pba.contains (2048 * port + v) = true then
      (c.updLink (fun l => { l with pba := l.pba.filter (· != 2048 * port + v) })).msixSend port v
    else c) c

/-- A byte of BAR0 above the doorbell pages: of the MSI-X table, of the pending bits, or zero. -/
def Chip.barByte (c : Chip) (port off : Nat) : Byte :=
  if 0x400000 ≤ off ∧ off < 0x408000 then
    let o := off - 0x400000
    BitVec.ofNat 8 (c.msixWord port (o / 16) (o / 4 % 4) / 2 ^ (8 * (o % 4)))
  else if 0x410000 ≤ off ∧ off < 0x410100 then
    BitVec.ofNat 8 ((List.range 8).foldl (fun m i => m + b2n (c.link.pba.contains (2048 * port + 8 * (off - 0x410000) + i)) * 2 ^ i) 0)
  else 0

/-- The first address of the recovery function's registers in this model. -/
def recBase : Nat := 2 ^ 48

/-- R456: the recovery function: its registers in BAR0, the staging area in BAR2. -/
def Part.recoveryRequest (p : Part) (id bar off n : Nat) (write : Bool) (data : List Byte) : Part :=
  let c := p.chip
  let done := fun (c : Chip) (b : List Byte) => ({ p with chip := if write then c else c.reply 0x59 id .value b } : Part)
  if bar = 0 ∧ off + n ≤ 0x1000 then
    if !write then
      let (b, c) := c.readRegs n (recBase + off) n
      done c b
    else if off = 8 then done (if bitOf (leNat data) 0 then recCtrlGo c else c) []
    else match findReg (recBase + off) with
      | some (s, a) => done (c.plainWrite s a (leNat (putAt (leBytes s.bytes (c.reg (s.reg a))) (recBase + off - a) data))) []
      | none => done c []
  else if bar = 2 ∧ off + n ≤ stageSize then
    if write then done (c.store (stageBase + off) data) [] else done c (memRead c.mem (stageBase + off) n)
  else { p with chip := if write then c else c.reply 0x59 id .unsupported [] }

/-- R443, R36: the slice tag of a host request: its PASID's slice, the port's own without one, none where no slice has the
PASID. -/
def Chip.hostTag (c : Chip) (master : Nat) (pasid : Option Nat) : Option Nat :=
  match pasid with
  | none => some (c.fld (ACC_MST_CTX master) ACC_MST_CTX.SLICE_TAG)
  | some x => (List.range 64).find? (fun s => c.flag (ACC_PASID_MAP s) ACC_PASID_MAP.VALID && c.fld (ACC_PASID_MAP s) ACC_PASID_MAP.PASID == x)

/-- R443: a request of a host enters the mesh. -/
def Part.hostMesh (p : Part) (master id : Nat) (pasid : Option Nat) (addr n : Nat) (write : Bool) (data : List Byte) : Part :=
  let c := p.chip
  match c.hostTag master pasid with
  | some tag => p.serve { master := master, tag := tag, addr := addr, len := n, write := write } (c.sourceClass master tag 3) id data
  | none =>
    let q : Req := { master := master, tag := 0, addr := addr, len := n, write := write }
    let t := match c.target addr with
      | .ok t => t
      | .error t => t
    { p with chip := (c.denied q .sliceTag t).failed q id 2 }

/-- R442 to R444: a host reads or writes through a BAR of a port in ENDPOINT mode: doorbell pages, the MSI-X table and its
pending bits, and DRAM. -/
def Part.hostBar (p : Part) (port bar id : Nat) (pasid : Option Nat) (off n : Nat) (write : Bool) (data : List Byte) : Part :=
  let m := 0x58 + port
  let c := p.chip
  if bar = 0 ∧ off + n ≤ 0x800000 then
    if off + n ≤ 0x400000 then p.hostMesh m id pasid (dbBase + off) n write data
    else if write then
      if 0x400000 ≤ off ∧ off + n ≤ 0x408000 then { p with chip := c.msixWrite port (off - 0x400000) data } else p
    else { p with chip := c.reply m id .value ((List.range n).map (fun i => c.barByte port (off + i))) }
  else if bar = 2 ∧ off + n ≤ c.capacity then p.hostMesh m id pasid off n write data
  else if write then p
  else { p with chip := c.reply m id .unsupported [] }

/-- Port 1 presents the recovery function (R456). -/
def Chip.recovers (c : Chip) (port : Nat) : Bool := c.power.mode == PartMode.recovery && port == 1 && c.portMode 1 == pmRecovery

/-- A host may use the port: the part is active, the port in ENDPOINT mode and not gated. -/
def Chip.hostServed (c : Chip) (port : Nat) : Bool := c.power.mode == PartMode.active && c.portMode port == pmEndpoint && !bitOf c.power.gated (2 + port)

/-- A host's request takes its number, and shows its link up. -/
def Part.hostSeen (p : Part) (port : Nat) : Part := { p.numbered with chip := p.numbered.chip.hostUp port }

/-- R442, R443: a host reads or writes through a BAR of a port. -/
def hostRequest (port bar : Nat) (pasid : Option Nat) (off len : Nat) (write : Bool) (data : List Byte) (p : Part) : Part :=
  let n := if write then data.length else len
  if 2 ≤ port ∨ n = 0 then p
  else if p.chip.recovers port then (p.hostSeen port).recoveryRequest p.chip.nextReq bar off n write data
  else if p.chip.hostServed port then (p.hostSeen port).hostBar port bar p.chip.nextReq pasid off n write data
  else p

def execHostRequest (port bar : Nat) (pasid : Option Nat) (off len : Nat) (write : Bool) (data : List Byte) (s : State) : Host.Outcome State Fault Refusal :=
  s.onPart (hostRequest port bar pasid off len write data)

end Sys2Proof.Machine
end

