-- ==== Sys2Proof/Machine/Dispatch.lean ====
section
/-!
DEFINITION. Which meaning each command has: one arm for each constructor, one direct call in each arm.
-/

namespace Sys2Proof.Machine

def exec (i : Instr) (s : State) : Host.Outcome State Fault Refusal :=
  match i with
  | .meshRequest master serves cls addr world parity len write data => Sys2Proof.Machine.execMeshRequest master serves cls addr world parity len write data s
  | .prewake packet => Sys2Proof.Machine.execPrewake packet s
  | .sliceCreate packet => Sys2Proof.Machine.execSliceCreate packet s
  | .sliceDestroy packet => Sys2Proof.Machine.execSliceDestroy packet s
  | .slicetagWrite hart mode value => Sys2Proof.Machine.execSlicetagWrite hart mode value s
  | .predclrWrite hart mode value => Sys2Proof.Machine.execPredclrWrite hart mode value s
  | .accPasidMapWrite master tag slice value => Sys2Proof.Machine.execAccPasidMapWrite master tag slice value s
  | .accTableWrite master tag target off value => Sys2Proof.Machine.execAccTableWrite master tag target off value s
  | .registerWrite master tag addr data => Sys2Proof.Machine.execRegisterWrite master tag addr data s
  | .rcRegisterRead master tag addr len => Sys2Proof.Machine.execRcRegisterRead master tag addr len s
  | .memInvalidate packet => Sys2Proof.Machine.execMemInvalidate packet s
  | .memInvalidateClear packet => Sys2Proof.Machine.execMemInvalidateClear packet s
  | .dirtyLogDisable packet => Sys2Proof.Machine.execDirtyLogDisable packet s
  | .dirtyLogEnable packet => Sys2Proof.Machine.execDirtyLogEnable packet s
  | .dirtyLogReadClear packet => Sys2Proof.Machine.execDirtyLogReadClear packet s
  | .functionDisable packet => Sys2Proof.Machine.execFunctionDisable packet s
  | .functionEnable packet => Sys2Proof.Machine.execFunctionEnable packet s
  | .functionDisableTimeout packet => Sys2Proof.Machine.execFunctionDisableTimeout packet s
  | .functionDisableDrained packet => Sys2Proof.Machine.execFunctionDisableDrained packet s
  | .doorbellLowerHalfWrite slice off value => Sys2Proof.Machine.execDoorbellLowerHalfWrite slice off value s
  | .doorbellBadAccess master slice off write => Sys2Proof.Machine.execDoorbellBadAccess master slice off write s
  | .ringEnable slice ring log2 => Sys2Proof.Machine.execRingEnable slice ring log2 s
  | .ringDisable slice ring => Sys2Proof.Machine.execRingDisable slice ring s
  | .ringDrained slice ring => Sys2Proof.Machine.execRingDrained slice ring s
  | .eventRingEnable slice log2 => Sys2Proof.Machine.execEventRingEnable slice log2 s
  | .sqTailWrite slice ring tail => Sys2Proof.Machine.execSqTailWrite slice ring tail s
  | .packetFetch slice ring => Sys2Proof.Machine.execPacketFetch slice ring s
  | .packetStart => Sys2Proof.Machine.execPacketStart s
  | .packetComplete packet => Sys2Proof.Machine.execPacketComplete packet s
  | .cqHeadWrite slice ring head => Sys2Proof.Machine.execCqHeadWrite slice ring head s
  | .eqHeadWrite slice head => Sys2Proof.Machine.execEqHeadWrite slice head s
  | .nopPacket packet => Sys2Proof.Machine.execNopPacket packet s
  | .fencePacket packet => Sys2Proof.Machine.execFencePacket packet s
  | .fenceRelease packet => Sys2Proof.Machine.execFenceRelease packet s
  | .syncSignal packet => Sys2Proof.Machine.execSyncSignal packet s
  | .syncWait packet => Sys2Proof.Machine.execSyncWait packet s
  | .syncWaitRelease packet => Sys2Proof.Machine.execSyncWaitRelease packet s
  | .memCopy packet => Sys2Proof.Machine.execMemCopy packet s
  | .memFill packet => Sys2Proof.Machine.execMemFill packet s
  | .syncWindowWrite slice index value => Sys2Proof.Machine.execSyncWindowWrite slice index value s
  | .syncWindowBadAccess master slice off write => Sys2Proof.Machine.execSyncWindowBadAccess master slice off write s
  | .grpOppCapWrite tag group value => Sys2Proof.Machine.execGrpOppCapWrite tag group value s
  | .tileLfsrWrite master tag tile value => Sys2Proof.Machine.execTileLfsrWrite master tag tile value s
  | .tileCounterClear master tag tile value => Sys2Proof.Machine.execTileCounterClear master tag tile value s
  | .tileNop tile => Sys2Proof.Machine.execTileNop tile s
  | .tileLoop tile => Sys2Proof.Machine.execTileLoop tile s
  | .endLoop tile => Sys2Proof.Machine.execEndLoop tile s
  | .tileBranch tile => Sys2Proof.Machine.execTileBranch tile s
  | .tileEnd tile => Sys2Proof.Machine.execTileEnd tile s
  | .tileBarrier tile => Sys2Proof.Machine.execTileBarrier tile s
  | .mma tile => Sys2Proof.Machine.execMma tile s
  | .accZero tile => Sys2Proof.Machine.execAccZero tile s
  | .accRead tile => Sys2Proof.Machine.execAccRead tile s
  | .accLoad tile => Sys2Proof.Machine.execAccLoad tile s
  | .vadd tile => Sys2Proof.Machine.execVadd tile s
  | .vmul tile => Sys2Proof.Machine.execVmul tile s
  | .vfma tile => Sys2Proof.Machine.execVfma tile s
  | .vmin tile => Sys2Proof.Machine.execVmin tile s
  | .vmax tile => Sys2Proof.Machine.execVmax tile s
  | .vcmp tile => Sys2Proof.Machine.execVcmp tile s
  | .vsel tile => Sys2Proof.Machine.execVsel tile s
  | .vexp tile => Sys2Proof.Machine.execVexp tile s
  | .vrcp tile => Sys2Proof.Machine.execVrcp tile s
  | .vrsq tile => Sys2Proof.Machine.execVrsq tile s
  | .vtanh tile => Sys2Proof.Machine.execVtanh tile s
  | .vreq tile => Sys2Proof.Machine.execVreq tile s
  | .vcvt tile => Sys2Proof.Machine.execVcvt tile s
  | .vred tile => Sys2Proof.Machine.execVred tile s
  | .moveTile tile => Sys2Proof.Machine.execMoveTile tile s
  | .sendTile tile => Sys2Proof.Machine.execSendTile tile s
  | .tileSyncAdd tile => Sys2Proof.Machine.execTileSyncAdd tile s
  | .tileSyncWait tile => Sys2Proof.Machine.execTileSyncWait tile s
  | .tileSyncWaitMet tile => Sys2Proof.Machine.execTileSyncWaitMet tile s
  | .instructionComplete tile unit => Sys2Proof.Machine.execInstructionComplete tile unit s
  | .ibufFillDone tile block => Sys2Proof.Machine.execIbufFillDone tile block s
  | .tileHang tile => Sys2Proof.Machine.execTileHang tile s
  | .rillStrided tile rill => Sys2Proof.Machine.execRillStrided tile rill s
  | .rillGather tile rill => Sys2Proof.Machine.execRillGather tile rill s
  | .rillScatter tile rill => Sys2Proof.Machine.execRillScatter tile rill s
  | .rillCsr tile rill => Sys2Proof.Machine.execRillCsr tile rill s
  | .rillCsc tile rill => Sys2Proof.Machine.execRillCsc tile rill s
  | .rillHashProbe tile rill => Sys2Proof.Machine.execRillHashProbe tile rill s
  | .rillSetIntersect tile rill => Sys2Proof.Machine.execRillSetIntersect tile rill s
  | .rillNeighbour tile rill => Sys2Proof.Machine.execRillNeighbour tile rill s
  | .rillBucketNn tile rill => Sys2Proof.Machine.execRillBucketNn tile rill s
  | .rillResponse tile rill which => Sys2Proof.Machine.execRillResponse tile rill which s
  | .tileQueueRelease tile channel => Sys2Proof.Machine.execTileQueueRelease tile channel s
  | .rillDescriptorDone tile rill => Sys2Proof.Machine.execRillDescriptorDone tile rill s
  | .dceLfsrWrite master tag group engine value => Sys2Proof.Machine.execDceLfsrWrite master tag group engine value s
  | .convDesc group => Sys2Proof.Machine.execConvDesc group s
  | .maxpool group => Sys2Proof.Machine.execMaxpool group s
  | .avgpool group => Sys2Proof.Machine.execAvgpool group s
  | .nougatIn group => Sys2Proof.Machine.execNougatIn group s
  | .nougatOut group => Sys2Proof.Machine.execNougatOut group s
  | .cropResize group => Sys2Proof.Machine.execCropResize group s
  | .engineDescriptorDone group engine => Sys2Proof.Machine.execEngineDescriptorDone group engine s
  | .jobRun packet => Sys2Proof.Machine.execJobRun packet s
  | .pendingRelease packet => Sys2Proof.Machine.execPendingRelease packet s
  | .jobDispatch job => Sys2Proof.Machine.execJobDispatch job s
  | .jobEnd job => Sys2Proof.Machine.execJobEnd job s
  | .preemptSignal job => Sys2Proof.Machine.execPreemptSignal job s
  | .saveComplete job => Sys2Proof.Machine.execSaveComplete job s
  | .restoreComplete job => Sys2Proof.Machine.execRestoreComplete job s
  | .jobPreempt packet => Sys2Proof.Machine.execJobPreempt packet s
  | .preemptHoldExpiry job => Sys2Proof.Machine.execPreemptHoldExpiry job s
  | .jobAbort packet => Sys2Proof.Machine.execJobAbort packet s
  | .modelRegister packet => Sys2Proof.Machine.execModelRegister packet s
  | .modelPin packet => Sys2Proof.Machine.execModelPin packet s
  | .modelEvict packet => Sys2Proof.Machine.execModelEvict packet s
  | .modelVerify packet => Sys2Proof.Machine.execModelVerify packet s
  | .modelLoadDone model => Sys2Proof.Machine.execModelLoadDone model s
  | .triggerEnable tag trigger value => Sys2Proof.Machine.execTriggerEnable tag trigger value s
  | .triggerEdge trigger => Sys2Proof.Machine.execTriggerEdge trigger s
  | .fuseStreamOpen packet => Sys2Proof.Machine.execFuseStreamOpen packet s
  | .fuseStreamClose packet => Sys2Proof.Machine.execFuseStreamClose packet s
  | .fusePolicyContext packet => Sys2Proof.Machine.execFusePolicyContext packet s
  | .fusePolicyGrid packet => Sys2Proof.Machine.execFusePolicyGrid packet s
  | .fusePolicyTracker packet => Sys2Proof.Machine.execFusePolicyTracker packet s
  | .fusePolicyStream packet => Sys2Proof.Machine.execFusePolicyStream packet s
  | .fusePolicyRelease packet => Sys2Proof.Machine.execFusePolicyRelease packet s
  | .cameraRow stream row verdict data => Sys2Proof.Machine.execCameraRow stream row verdict data s
  | .cameraFrameEnd stream => Sys2Proof.Machine.execCameraFrameEnd stream s
  | .lidarPacket stream data => Sys2Proof.Machine.execLidarPacket stream data s
  | .imuSample stream data => Sys2Proof.Machine.execImuSample stream data s
  | .injectContribution stream => Sys2Proof.Machine.execInjectContribution stream s
  | .alignWaitExpiry context => Sys2Proof.Machine.execAlignWaitExpiry context s
  | .lateCutoff stream => Sys2Proof.Machine.execLateCutoff stream s
  | .l1Cycle grid => Sys2Proof.Machine.execL1Cycle grid s
  | .l2Cycle => Sys2Proof.Machine.execL2Cycle s
  | .lateRevision producer => Sys2Proof.Machine.execLateRevision producer s
  | .aleStep even odd => Sys2Proof.Machine.execAleStep even odd s
  | .divergence => Sys2Proof.Machine.execDivergence s
  | .aleLoad tag value => Sys2Proof.Machine.execAleLoad tag value s
  | .aleLoadTakeEffect => Sys2Proof.Machine.execAleLoadTakeEffect s
  | .aleEnable tag en => Sys2Proof.Machine.execAleEnable tag en s
  | .aleAdapt tag adapt => Sys2Proof.Machine.execAleAdapt tag adapt s
  | .alePortCfgWrite tag port value => Sys2Proof.Machine.execAlePortCfgWrite tag port value s
  | .audioRingEnable tag ring value => Sys2Proof.Machine.execAudioRingEnable tag ring value s
  | .captureBlock ring => Sys2Proof.Machine.execCaptureBlock ring s
  | .playbackFetch ring => Sys2Proof.Machine.execPlaybackFetch ring s
  | .playbackBlockStart ring => Sys2Proof.Machine.execPlaybackBlockStart ring s
  | .statusRecord => Sys2Proof.Machine.execStatusRecord s
  | .avtpFrame stream bits rate channels time samples => Sys2Proof.Machine.execAvtpFrame stream bits rate channels time samples s
  | .gfxPass packet => Sys2Proof.Machine.execGfxPass packet s
  | .passGeometry packet prims => Sys2Proof.Machine.execPassGeometry packet prims s
  | .partialFlush packet => Sys2Proof.Machine.execPartialFlush packet s
  | .passComplete packet cause list off tiles => Sys2Proof.Machine.execPassComplete packet cause list off tiles s
  | .passTakeover packet => Sys2Proof.Machine.execPassTakeover packet s
  | .gfxHang packet list off tiles => Sys2Proof.Machine.execGfxHang packet list off tiles s
  | .dspPipeEnable tag pipe value => Sys2Proof.Machine.execDspPipeEnable tag pipe value s
  | .dspCommit tag pipe value => Sys2Proof.Machine.execDspCommit tag pipe value s
  | .commitLoad pipe => Sys2Proof.Machine.execCommitLoad pipe s
  | .displayLinkTraining tag pipe value trained lanes rate => Sys2Proof.Machine.execDisplayLinkTraining tag pipe value trained lanes rate s
  | .displayLinkLoss pipe hotplug => Sys2Proof.Machine.execDisplayLinkLoss pipe hotplug s
  | .frameEndCrc pipe missed => Sys2Proof.Machine.execFrameEndCrc pipe missed s
  | .pipeStall pipe => Sys2Proof.Machine.execPipeStall pipe s
  | .outputSet packet => Sys2Proof.Machine.execOutputSet packet s
  | .outputDisarm packet => Sys2Proof.Machine.execOutputDisarm packet s
  | .groupRelease packet => Sys2Proof.Machine.execGroupRelease packet s
  | .groupForce packet => Sys2Proof.Machine.execGroupForce packet s
  | .messageSet packet => Sys2Proof.Machine.execMessageSet packet s
  | .telltaleSet packet => Sys2Proof.Machine.execTelltaleSet packet s
  | .jobRunDiverse packet => Sys2Proof.Machine.execJobRunDiverse packet s
  | .weirDecision => Sys2Proof.Machine.execWeirDecision s
  | .deadlineMiss output => Sys2Proof.Machine.execDeadlineMiss output s
  | .safeMessageRepeat => Sys2Proof.Machine.execSafeMessageRepeat s
  | .goldenScheduleSet packet => Sys2Proof.Machine.execGoldenScheduleSet packet s
  | .goldenScheduleClear packet => Sys2Proof.Machine.execGoldenScheduleClear packet s
  | .goldenScheduleRunNow packet => Sys2Proof.Machine.execGoldenScheduleRunNow packet s
  | .goldenRunDue group => Sys2Proof.Machine.execGoldenRunDue group s
  | .goldenRunEnd group => Sys2Proof.Machine.execGoldenRunEnd group s
  | .goldenOverdue group => Sys2Proof.Machine.execGoldenOverdue group s
  | .lockstepMismatch selftest => Sys2Proof.Machine.execLockstepMismatch selftest s
  | .selftestSliceStart tile => Sys2Proof.Machine.execSelftestSliceStart tile s
  | .selftestStep tile pass => Sys2Proof.Machine.execSelftestStep tile pass s
  | .selftestAbort tile => Sys2Proof.Machine.execSelftestAbort tile s
  | .selftestSliceEnd tile => Sys2Proof.Machine.execSelftestSliceEnd tile s
  | .checkerTest checker pass step us => Sys2Proof.Machine.execCheckerTest checker pass step us s
  | .selftestOverdue index => Sys2Proof.Machine.execSelftestOverdue index s
  | .selftestTile packet => Sys2Proof.Machine.execSelftestTile packet s
  | .selftestGroup packet => Sys2Proof.Machine.execSelftestGroup packet s
  | .selftestChecker packet => Sys2Proof.Machine.execSelftestChecker packet s
  | .selftestSchedule packet => Sys2Proof.Machine.execSelftestSchedule packet s
  | .errorRecord severity cause source unit master slice world target addr detail => Sys2Proof.Machine.execErrorRecord severity cause source unit master slice world target addr detail s
  | .errRingEnable tag value => Sys2Proof.Machine.execErrRingEnable tag value s
  | .errRingHeadWrite tag value => Sys2Proof.Machine.execErrRingHeadWrite tag value s
  | .gateFault hart mode word => Sys2Proof.Machine.execGateFault hart mode word s
  | .pageOwnerSet hart mode rd block len => Sys2Proof.Machine.execPageOwnerSet hart mode rd block len s
  | .pageOwnerSetApply => Sys2Proof.Machine.execPageOwnerSetApply s
  | .pageOwnerQuery hart mode rd block len => Sys2Proof.Machine.execPageOwnerQuery hart mode rd block len s
  | .rollbackCommit hart mode rd block len => Sys2Proof.Machine.execRollbackCommit hart mode rd block len s
  | .gateAttest hart mode rd block len => Sys2Proof.Machine.execGateAttest hart mode rd block len s
  | .gateRandom hart mode rd block len => Sys2Proof.Machine.execGateRandom hart mode rd block len s
  | .debugChallenge hart mode rd block len => Sys2Proof.Machine.execDebugChallenge hart mode rd block len s
  | .debugOpen hart mode rd block len => Sys2Proof.Machine.execDebugOpen hart mode rd block len s
  | .debugClose hart mode rd block len => Sys2Proof.Machine.execDebugClose hart mode rd block len s
  | .challengeLapse => Sys2Proof.Machine.execChallengeLapse s
  | .netkeyLoad hart mode rd block len => Sys2Proof.Machine.execNetkeyLoad hart mode rd block len s
  | .contentUnwrap hart mode rd block len => Sys2Proof.Machine.execContentUnwrap hart mode rd block len s
  | .vaultRead hart mode rd block len => Sys2Proof.Machine.execVaultRead hart mode rd block len s
  | .vaultWrite hart mode rd block len => Sys2Proof.Machine.execVaultWrite hart mode rd block len s
  | .claimRelease block => Sys2Proof.Machine.execClaimRelease block s
  | .claimExpiry block => Sys2Proof.Machine.execClaimExpiry block s
  | .wdtVehicleExpiry => Sys2Proof.Machine.execWdtVehicleExpiry s
  | .wdtCockpitExpiry => Sys2Proof.Machine.execWdtCockpitExpiry s
  | .ownerEntryRepair page => Sys2Proof.Machine.execOwnerEntryRepair page s
  | .dramRead id => Sys2Proof.Machine.execDramRead id s
  | .dramWrite id => Sys2Proof.Machine.execDramWrite id s
  | .zeroFillDone block => Sys2Proof.Machine.execZeroFillDone block s
  | .millraceWindow channel => Sys2Proof.Machine.execMillraceWindow channel s
  | .dramCalibration channel ok => Sys2Proof.Machine.execDramCalibration channel ok s
  | .arbiterGrant arbiter asks ended => Sys2Proof.Machine.execArbiterGrant arbiter asks ended s
  | .leakTick inst => Sys2Proof.Machine.execLeakTick inst s
  | .eccRegionWrite tag region limit value => Sys2Proof.Machine.execEccRegionWrite tag region limit value s
  | .tileCodeMapWrite tag tile value => Sys2Proof.Machine.execTileCodeMapWrite tag tile value s
  | .blockOff packet => Sys2Proof.Machine.execBlockOff packet s
  | .blockOn packet => Sys2Proof.Machine.execBlockOn packet s
  | .standby packet => Sys2Proof.Machine.execStandby packet s
  | .park packet => Sys2Proof.Machine.execPark packet s
  | .restart packet => Sys2Proof.Machine.execRestart packet s
  | .idleUntil packet => Sys2Proof.Machine.execIdleUntil packet s
  | .stateEntryHalt => Sys2Proof.Machine.execStateEntryHalt s
  | .warmReq tag => Sys2Proof.Machine.execWarmReq tag s
  | .profileSelect packet => Sys2Proof.Machine.execProfileSelect packet s
  | .wakeEvent source => Sys2Proof.Machine.execWakeEvent source s
  | .aonPowerUp => Sys2Proof.Machine.execAonPowerUp s
  | .pgoodRise => Sys2Proof.Machine.execPgoodRise s
  | .pgoodTimeout => Sys2Proof.Machine.execPgoodTimeout s
  | .pgoodFall => Sys2Proof.Machine.execPgoodFall s
  | .resetAssert => Sys2Proof.Machine.execResetAssert s
  | .resetRelease => Sys2Proof.Machine.execResetRelease s
  | .coldStart failAt => Sys2Proof.Machine.execColdStart failAt s
  | .warmStart failAt => Sys2Proof.Machine.execWarmStart failAt s
  | .startTimeout step => Sys2Proof.Machine.execStartTimeout step s
  | .recoveryBundle => Sys2Proof.Machine.execRecoveryBundle s
  | .recCtrlGo => Sys2Proof.Machine.execRecCtrlGo s
  | .groupWake group => Sys2Proof.Machine.execGroupWake group s
  | .groupRunning group => Sys2Proof.Machine.execGroupRunning group s
  | .groupSleep group => Sys2Proof.Machine.execGroupSleep group s
  | .sluiceRequest kind n units cls slice timeoutUs => Sys2Proof.Machine.execSluiceRequest kind n units cls slice timeoutUs s
  | .sluiceReturn kind n => Sys2Proof.Machine.execSluiceReturn kind n s
  | .sluiceTimeout => Sys2Proof.Machine.execSluiceTimeout s
  | .sluiceTick => Sys2Proof.Machine.execSluiceTick s
  | .thermalSample temps => Sys2Proof.Machine.execThermalSample temps s
  | .throttleLift => Sys2Proof.Machine.execThrottleLift s
  | .shutdownRestart => Sys2Proof.Machine.execShutdownRestart s
  | .thermalPiStep => Sys2Proof.Machine.execThermalPiStep s
  | .thermalEmergency zone => Sys2Proof.Machine.execThermalEmergency zone s
  | .kernelWatchdogExpiry core => Sys2Proof.Machine.execKernelWatchdogExpiry core s
  | .coreFault core sram info => Sys2Proof.Machine.execCoreFault core sram info s
  | .serviceRestart service => Sys2Proof.Machine.execServiceRestart service s
  | .coreRejoin core => Sys2Proof.Machine.execCoreRejoin core s
  | .logConfig packet => Sys2Proof.Machine.execLogConfig packet s
  | .logAppend core service level code arg0 arg1 => Sys2Proof.Machine.execLogAppend core service level code arg0 arg1 s
  | .traceRing packet => Sys2Proof.Machine.execTraceRing packet s
  | .traceMask packet => Sys2Proof.Machine.execTraceMask packet s
  | .traceOff packet => Sys2Proof.Machine.execTraceOff packet s
  | .traceAppend core point arg => Sys2Proof.Machine.execTraceAppend core point arg s
  | .mbxSubmitJob tag => Sys2Proof.Machine.execMbxSubmitJob tag s
  | .mbxPreempt tag => Sys2Proof.Machine.execMbxPreempt tag s
  | .mbxAbort tag => Sys2Proof.Machine.execMbxAbort tag s
  | .mbxHint tag => Sys2Proof.Machine.execMbxHint tag s
  | .mbxAttest tag => Sys2Proof.Machine.execMbxAttest tag s
  | .mbxRandom tag => Sys2Proof.Machine.execMbxRandom tag s
  | .mbxLoadModel tag => Sys2Proof.Machine.execMbxLoadModel tag s
  | .mbxUnloadModel tag => Sys2Proof.Machine.execMbxUnloadModel tag s
  | .mbxUnknownCommand tag mailbox => Sys2Proof.Machine.execMbxUnknownCommand tag mailbox s
  | .hostRequest port bar pasid off len write data => Sys2Proof.Machine.execHostRequest port bar pasid off len write data s
  | .msiWindowWrite master tag port vector => Sys2Proof.Machine.execMsiWindowWrite master tag port vector s
  | .twinLinkUp gbps => Sys2Proof.Machine.execTwinLinkUp gbps s
  | .twinHello twinId role nonce => Sys2Proof.Machine.execTwinHello twinId role nonce s
  | .twinReport report => Sys2Proof.Machine.execTwinReport report s
  | .twinPaired => Sys2Proof.Machine.execTwinPaired s
  | .pairFault cause => Sys2Proof.Machine.execPairFault cause s
  | .pairRetry => Sys2Proof.Machine.execPairRetry s
  | .heartbeatTick => Sys2Proof.Machine.execHeartbeatTick s
  | .heartbeatRx pin => Sys2Proof.Machine.execHeartbeatRx pin s
  | .heartbeatWindow => Sys2Proof.Machine.execHeartbeatWindow s
  | .checkpointTrigger channel => Sys2Proof.Machine.execCheckpointTrigger channel s
  | .ckptStart channel value dst data => Sys2Proof.Machine.execCkptStart channel value dst data s
  | .ckptAck channel status value => Sys2Proof.Machine.execCkptAck channel status value s
  | .detach tag => Sys2Proof.Machine.execDetach tag s
  | .detachReq => Sys2Proof.Machine.execDetachReq s
  | .detachAck => Sys2Proof.Machine.execDetachAck s
  | .carryEnd tag => Sys2Proof.Machine.execCarryEnd tag s
  | .recReq offset len => Sys2Proof.Machine.execRecReq offset len s
  | .recData offset data => Sys2Proof.Machine.execRecData offset data s
  | .recEnd len => Sys2Proof.Machine.execRecEnd len s
  | .bridgeWrite master tag addr ns data => Sys2Proof.Machine.execBridgeWrite master tag addr ns data s
  | .bridgeRead master tag addr len => Sys2Proof.Machine.execBridgeRead master tag addr len s
  | .bridgeReadFetched => Sys2Proof.Machine.execBridgeReadFetched s
  | .bridgeReadDiscard => Sys2Proof.Machine.execBridgeReadDiscard s
  | .announceTick => Sys2Proof.Machine.execAnnounceTick s
  | .announcement frame => Sys2Proof.Machine.execAnnouncement frame s
  | .refSilent => Sys2Proof.Machine.execRefSilent s
  | .domainStage packet => Sys2Proof.Machine.execDomainStage packet s
  | .domainSwitch packet => Sys2Proof.Machine.execDomainSwitch packet s
  | .domainSwitchCancel packet => Sys2Proof.Machine.execDomainSwitchCancel packet s
  | .domainSwitchTime => Sys2Proof.Machine.execDomainSwitchTime s
  | .ethFrameRx port data => Sys2Proof.Machine.execEthFrameRx port data s
  | .ethFrameTx port => Sys2Proof.Machine.execEthFrameTx port s
  | .gateInterval port => Sys2Proof.Machine.execGateInterval port s
  | .netDmaTail tag ring tail => Sys2Proof.Machine.execNetDmaTail tag ring tail s
  | .canFrameRx controller sof idw flags sdt vcid af data => Sys2Proof.Machine.execCanFrameRx controller sof idw flags sdt vcid af data s
  | .canTxTail tag controller offset => Sys2Proof.Machine.execCanTxTail tag controller offset s
  | .canArbitration controller won => Sys2Proof.Machine.execCanArbitration controller won s
  | .ptpSyncRx port rx seconds nanos corr => Sys2Proof.Machine.execPtpSyncRx port rx seconds nanos corr s
  | .ptpSyncTx port => Sys2Proof.Machine.execPtpSyncTx port s
  | .pdelayReq port rx seq peer => Sys2Proof.Machine.execPdelayReq port rx seq peer s
  | .gmLoss => Sys2Proof.Machine.execGmLoss s
  | .holdoverExpiry => Sys2Proof.Machine.execHoldoverExpiry s
  | .netTimeRead master tag => Sys2Proof.Machine.execNetTimeRead master tag s
  | .aonPowerLoss => Sys2Proof.Machine.execAonPowerLoss s
  | .linkDown port => Sys2Proof.Machine.execLinkDown port s
  | .ethLinkDown port => Sys2Proof.Machine.execEthLinkDown port s
  | .canBusOff controller tec rec => Sys2Proof.Machine.execCanBusOff controller tec rec s
  | .gptpAnnounce port present p1 cls acc var p2 gm steps => Sys2Proof.Machine.execGptpAnnounce port present p1 cls acc var p2 gm steps s
  | .pdelayResp port t1 t2 t3 t4 => Sys2Proof.Machine.execPdelayResp port t1 t2 t3 t4 s
  | .frerReset stream => Sys2Proof.Machine.execFrerReset stream s

end Sys2Proof.Machine
end

