-- ==== Sys2Proof/Safety.lean ====
section
/-!
DEFINITION. What a well-kept state of the part is: the terms in which the invariants are stated.
-/

namespace Sys2Proof

open Machine

/-- The memories stand in canonical form: rising addresses, and no entry that an unlisted address would read as. -/
def Machine.Chip.memOk (c : Chip) : Bool := Memory.wf c.mem

/-- Packet `p` has started with opcode `op`, has no outcome, and it is its turn: the moment its command acts (R67, R73). -/
abbrev Machine.Chip.startedAs (c : Chip) (p : Packet) (op : Nat) : Prop :=
  c.packet? p.id = some p ∧ p.op = op ∧ p.phase = .started ∧ c.firmwareTurn p = true

/-- The head `q` of a unit's queue in a running tile has the opcode, and R120 lets it issue. -/
abbrev Machine.Chip.headIs (c : Chip) (n unit op : Nat) (q : TileIns) (l : List TileIns) : Prop :=
  c.tileRuns n = true ∧ (c.tile n).queue unit = q :: l ∧ tiOp q.bytes = op ∧ c.mayIssue n q = .go

/-- A control instruction with bytes `b` stands at decode in a running tile, and none of its waits holds it. -/
abbrev Machine.Chip.controlIs (c : Chip) (n op : Nat) (b : List Byte) : Prop :=
  c.tileRuns n = true ∧ (c.tile n).ended = false ∧ (c.tile n).atDecode = .ready b ∧ tiOp b = op ∧
    (tiWaits b).all (fun w => (c.tile n).entry w.1 == sbReady) = true

/-- The next descriptor `b` of an idle, enabled Rill has been read, has no fault, and R130 lets it start; `c'` is the part
after the read. -/
abbrev Machine.Chip.rillNext (c : Chip) (n r mode : Nat) (b : List Byte) (c' : Chip) : Prop :=
  c.tileRuns n = true ∧ r < 4 ∧ (c.rill n r).en = true ∧ (c.rill n r).ended = false ∧ (c.rill n r).cur = none ∧
    (c.rill n r).base % 64 = 0 ∧ (c.rill n r).base + 64 * ((c.rill n r).desc + 1) ≤ tileMemSize ∧
    (tileRead n ((c.rill n r).base + 64 * (c.rill n r).desc) 64).run c = (.ok b, c') ∧
    rdFault b = none ∧ rdMode b = mode ∧ c'.rillMayStart n r b = true ∧
    (4 ≤ rdIdx b → rdIdx b - 4 < r ∧ c'.sourceConsumer n (rdIdx b - 4) = some (4 + r))

/-- R354, R356: every debug enable that stands has been counted as opened since the cold start. -/
def Machine.Sec.debugOk (s : Sec) : Bool := s.enables &&& s.ever == s.enables

/-- Commands that store nothing: no byte of the part's memory changes by them. -/
def Machine.storesNothing : Instr → Bool
  | .prewake .. | .sliceDestroy .. | .slicetagWrite .. | .predclrWrite ..
  | .memInvalidate .. | .dirtyLogDisable .. | .functionDisable .. | .functionEnable ..
  | .doorbellLowerHalfWrite .. | .ringDisable .. | .ringDrained .. | .packetStart .. | .nopPacket ..
  | .fencePacket .. | .fenceRelease .. | .syncSignal .. | .syncWait .. | .syncWaitRelease .. | .syncWindowWrite ..
  | .grpOppCapWrite .. | .tileHang .. | .pendingRelease ..
  | .preemptHoldExpiry .. | .triggerEnable .. | .fuseStreamOpen ..
  | .fuseStreamClose .. | .fusePolicyContext .. | .fusePolicyGrid .. | .fusePolicyStream .. | .fusePolicyRelease ..
  | .aleStep .. | .divergence .. | .aleLoadTakeEffect .. | .aleEnable .. | .aleAdapt .. | .alePortCfgWrite ..
  | .playbackBlockStart .. | .avtpFrame .. | .passTakeover .. | .dspPipeEnable .. | .dspCommit .. | .commitLoad ..
  | .outputDisarm .. | .messageSet .. | .telltaleSet .. | .safeMessageRepeat .. | .goldenScheduleClear ..
  | .goldenScheduleRunNow .. | .selftestSliceStart .. | .selftestStep .. | .selftestTile .. | .selftestGroup ..
  | .selftestChecker .. | .selftestSchedule .. | .challengeLapse .. | .millraceWindow .. | .leakTick ..
  | .blockOn .. | .idleUntil .. | .profileSelect .. | .wakeEvent .. | .pgoodRise .. | .resetRelease ..
  | .recCtrlGo .. | .groupWake .. | .groupRunning .. | .sluiceRequest .. | .sluiceReturn .. | .sluiceTick ..
  | .coreRejoin .. | .logConfig .. | .traceRing .. | .traceMask .. | .traceOff .. | .mbxUnknownCommand ..
  | .twinLinkUp .. | .twinHello .. | .pairRetry .. | .heartbeatTick .. | .heartbeatRx .. | .detach ..
  | .detachAck .. | .carryEnd .. | .recEnd .. | .bridgeReadFetched .. | .bridgeReadDiscard .. | .announceTick ..
  | .domainSwitch .. | .gateInterval .. | .canTxTail .. | .canArbitration .. | .ptpSyncTx .. | .pdelayReq ..
  | .pdelayResp .. | .frerReset .. => true
  | _ => false

/-- Commands that may change what only the security core reaches: its entries, the mailboxes and requests that reach its
registers, debug, the starts and resets of the part, the page-owner calls of making and ending a slice, the reset of a hart,
copies and fills, whose writes may reach registers, and frames that carry a call. -/
def Machine.reachesSecure : Instr → Bool
  | .meshRequest .. | .registerWrite .. | .rcRegisterRead .. | .gateFault .. | .pageOwnerSet ..
  | .pageOwnerSetApply .. | .pageOwnerQuery .. | .rollbackCommit .. | .gateAttest .. | .gateRandom ..
  | .debugChallenge .. | .debugOpen .. | .debugClose .. | .challengeLapse .. | .netkeyLoad .. | .contentUnwrap ..
  | .vaultRead .. | .vaultWrite .. | .claimRelease .. | .claimExpiry .. | .wdtVehicleExpiry ..
  | .wdtCockpitExpiry .. | .stateEntryHalt .. | .profileSelect .. | .wakeEvent .. | .aonPowerUp .. | .pgoodRise ..
  | .pgoodTimeout .. | .pgoodFall .. | .resetAssert .. | .resetRelease .. | .coldStart .. | .warmStart ..
  | .startTimeout .. | .recoveryBundle .. | .thermalSample .. | .shutdownRestart .. | .thermalEmergency ..
  | .kernelWatchdogExpiry .. | .coreFault .. | .mbxSubmitJob .. | .mbxPreempt .. | .mbxAbort .. | .mbxHint ..
  | .mbxAttest .. | .mbxRandom .. | .mbxLoadModel .. | .mbxUnloadModel .. | .mbxUnknownCommand .. | .hostRequest ..
  | .twinHello .. | .bridgeWrite .. | .bridgeRead .. | .domainStage .. | .ethFrameRx .. | .ethFrameTx ..
  | .aonPowerLoss .. | .sliceCreate .. | .functionDisableDrained .. | .memCopy .. | .memFill .. | .coreRejoin .. => true
  | _ => false

end Sys2Proof
end

