-- ==== Sys2Proof/Certificates/Slice0/Obligations.lean ====
section
/-!
DEFINITION. The statements for the provers.
A completion statement gives, for each command it names, the next state under hypotheses on the state and the operands
alone.  `settle` is the part's answer to a lost safety record (R333); where none was lost it changes nothing.
-/

open Sys2Proof Sys2Proof.Machine

/-- A started SLICE_CREATE whose payload has no BAD_PARAM and no NO_RESOURCE cause makes the slice it names, or
the lowest free number for 0xFF, and completes with that number as result word, its calls of entry 0x0010
counted, once no gateway entry runs and no request in flight touches its extents; until then it waits. A
payload with a BAD_PARAM cause, or else a NO_RESOURCE cause, completes so and changes nothing else. A started
SLICE_DESTROY of a live slice other than 0 with no armed output refuses all its functions from then on, goes
on running, and stands as a drain of all six functions with the timeout it gives; a second one for the same
slice joins the first; bad fields complete with BAD_PARAM. -/
def Obligations.SliceCreateMakesTheSlice : Prop :=
  (∀ (s : State) (p : Packet) (n : Nat),
      s.chip.startedAs p 0x800 →
      s.chip.createBad false (parseCreate (p.bytes.drop 32)) = false →
      s.chip.createShort false (parseCreate (p.bytes.drop 32)) = false →
      ((parseCreate (p.bytes.drop 32)).number ≠ 0xFF ∧ n = (parseCreate (p.bytes.drop 32)).number) ∨ ((parseCreate (p.bytes.drop 32)).number = 0xFF ∧ (List.range 64).find? (fun i => i != 0 && (s.chip.slice? i).isNone) = some n) →
      s.part.ownersFree (parseCreate (p.bytes.drop 32)).extents = true →
      exec (.sliceCreate p.id) s = .next (s.withPart ({ s.part with chip := ((s.chip.makeSlice n (p.bytes.drop 32) none (parseCreate (p.bytes.drop 32))).ownerCalled ((parseCreate (p.bytes.drop 32)).extents.flatMap ownerCalls).length).finish p.id stDone n }))) ∧
  (∀ (s : State) (p : Packet),
      s.chip.startedAs p 0x800 →
      s.chip.createBad false (parseCreate (p.bytes.drop 32)) = false →
      s.chip.createShort false (parseCreate (p.bytes.drop 32)) = false →
      s.part.ownersFree (parseCreate (p.bytes.drop 32)).extents = false →
      exec (.sliceCreate p.id) s = .next (s.withPart ({ s.part with chip := s.chip.take p.id }))) ∧
  (∀ (s : State) (p : Packet),
      s.chip.startedAs p 0x800 →
      s.chip.createBad false (parseCreate (p.bytes.drop 32)) = true →
      exec (.sliceCreate p.id) s = .next (s.withPart ({ s.part with chip := s.chip.finish p.id stBadParam }))) ∧
  (∀ (s : State) (p : Packet),
      s.chip.startedAs p 0x800 →
      s.chip.createBad false (parseCreate (p.bytes.drop 32)) = false →
      s.chip.createShort false (parseCreate (p.bytes.drop 32)) = true →
      exec (.sliceCreate p.id) s = .next (s.withPart ({ s.part with chip := s.chip.finish p.id stNoResource }))) ∧
  (∀ (s : State) (p : Packet),
      s.chip.startedAs p 0x801 →
      0 < p.u 32 1 →
      p.u 32 1 < 64 →
      p.u 33 1 ≤ 1 →
      p.u 34 2 = 0 →
      p.u 36 4 ≤ 1000000 →
      zeroIn p.bytes 40 64 = true →
      (s.chip.slice? (p.u 32 1)).isSome = true →
      s.chip.safe.outputs.any (fun o => o.2.slice == p.u 32 1 && o.2.armed) = false →
      s.chip.destroys.find? (fun d => d.slice == p.u 32 1) = none →
      let c := ((s.chip.refuseFunctions (p.u 32 1) 63).keepRunning p.id).stampReady
      exec (.sliceDestroy p.id) s = .next { s with chip := Chip.settle ({ c with
        drains := c.drains ++ [{ slice := p.u 32 1, mask := 63, own := 63 &&& (63 ^^^ (s.chip.draining (p.u 32 1) &&& 63)), deadline := c.now + drainUs (p.u 36 4) * 1000, packet := p.id }]
        destroys := c.destroys ++ [{ slice := p.u 32 1, packet := p.id, invalidate := bitOf (p.u 33 1) 0 }] }) }) ∧
  (∀ (s : State) (p : Packet) (d : Destroy),
      s.chip.startedAs p 0x801 →
      0 < p.u 32 1 →
      p.u 32 1 < 64 →
      p.u 33 1 ≤ 1 →
      p.u 34 2 = 0 →
      p.u 36 4 ≤ 1000000 →
      zeroIn p.bytes 40 64 = true →
      (s.chip.slice? (p.u 32 1)).isSome = true →
      s.chip.safe.outputs.any (fun o => o.2.slice == p.u 32 1 && o.2.armed) = false →
      s.chip.destroys.find? (fun d => d.slice == p.u 32 1) = some d →
      exec (.sliceDestroy p.id) s = .next { s with chip := Chip.settle ((s.chip.updDestroy (p.u 32 1) (fun e => { e with joined := e.joined ++ [p.id] })).keepRunning p.id) }) ∧
  (∀ (s : State) (p : Packet),
      s.chip.startedAs p 0x801 →
      64 ≤ p.u 32 1 ∨ p.u 32 1 = 0 ∨ 1 < p.u 33 1 ∨ p.u 34 2 ≠ 0 ∨ 1000000 < p.u 36 4 ∨ s.chip.slice? (p.u 32 1) = none ∨ s.chip.safe.outputs.any (fun o => o.2.slice == p.u 32 1 && o.2.armed) = true →
      exec (.sliceDestroy p.id) s = .next { s with chip := Chip.settle (s.chip.finish p.id stBadParam) })

/-- In M-mode, and in HS-mode on a hart below 16, a write of SLICETAG gives the hart the tag of bits 5:0 and,
where the tag changes, empties the hart's return-address stack; in any other mode the hart takes an
illegal-instruction or a virtual-instruction exception and nothing else changes. A write of PREDCLR by such a
mode of an application hart removes the hart's predictor entries with the tag and host bit written, and
empties its return-address stack. A control core with slice tag 0 gives ACC_PASID_MAP of a slice a PASID no
other valid entry holds; another master, or a PASID held, changes no register. The security core, and tag 0
outside targets 38 and 45, write windows, limits and entries of a target's table; any other master's write
changes no register. A write of these registers passes the check of R38 first: it is answered where it passes
and leaves its error record and answer where it does not, and a master that is not assigned issues none. -/
def Obligations.AccessCsrsAndTables : Prop :=
  (∀ (s : State) (hart mode : Nat) (v : W64),
      mode = 0 ∨ (mode = 1 ∧ hart < 16) →
      exec (.slicetagWrite hart mode v) s = .next { s with chip := Chip.settle ({ s.chip with
        returnStacks := if v.toNat % 64 = s.chip.hartTag hart then s.chip.returnStacks else s.chip.returnStacks.filter (· != hart)
        sliceTags := if v.toNat % 64 = 0 then AMap.del s.chip.sliceTags hart else AMap.set s.chip.sliceTags hart (BitVec.ofNat 64 (v.toNat % 64)) }) }) ∧
  (∀ (s : State) (hart mode : Nat) (v : W64),
      mode ≠ 0 →
      mode ≠ 1 ∨ 16 ≤ hart →
      exec (.slicetagWrite hart mode v) s = .next { s with chip := Chip.settle (s.chip.trap hart (if mode = 2 ∧ hart < 16 then 2 else 1)) }) ∧
  (∀ (s : State) (hart mode : Nat) (v : W64),
      hart < 16 →
      mode = 0 ∨ mode = 1 →
      exec (.predclrWrite hart mode v) s = .next { s with chip := Chip.settle ({ s.chip with
        predictors := s.chip.predictors.filter (fun e => !(e.1 == hart && e.2 == v.toNat % 256))
        returnStacks := s.chip.returnStacks.filter (· != hart) }) }) ∧
  (∀ (s : State) (master slice : Nat) (v : W32),
      0x50 ≤ master →
      master ≤ 0x53 →
      slice < 64 →
      bitOf v.toNat 31 = false ∨ (List.range 64).any (fun i => i != slice && s.chip.flag (ACC_PASID_MAP i) ACC_PASID_MAP.VALID && s.chip.fld (ACC_PASID_MAP i) ACC_PASID_MAP.PASID == bitsOf v.toNat 19 0) = false →
      ({ s.chip with nextReq := s.chip.nextReq + 1 } : Chip).check { master := master, tag := 0, addr := (ACC_PASID_MAP slice).addr, len := 4, write := true } = none →
      exec (.accPasidMapWrite master 0 slice v) s = .next { s with chip := Chip.settle ((({ s.chip with nextReq := s.chip.nextReq + 1 } : Chip).setReg (ACC_PASID_MAP slice) (b2n (bitOf v.toNat 31) * 2 ^ 31 + bitsOf v.toNat 19 0)).reply master s.chip.nextReq .value []) }) ∧
  (∀ (s : State) (master tag slice : Nat) (v : W32),
      listedMaster master = true →
      master < 0x50 ∨ 0x53 < master ∨ tag ≠ 0 ∨ (bitOf v.toNat 31 = true ∧ (List.range 64).any (fun i => i != slice && s.chip.flag (ACC_PASID_MAP i) ACC_PASID_MAP.VALID && s.chip.fld (ACC_PASID_MAP i) ACC_PASID_MAP.PASID == bitsOf v.toNat 19 0) = true) →
      ({ s.chip with nextReq := s.chip.nextReq + 1 } : Chip).check { master := master, tag := tag, addr := (ACC_PASID_MAP slice).addr, len := 4, write := true } = none →
      exec (.accPasidMapWrite master tag slice v) s = .next { s with chip := Chip.settle ((({ s.chip with nextReq := s.chip.nextReq + 1 } : Chip)).reply master s.chip.nextReq .value []) }) ∧
  (∀ (s : State) (master tag target off : Nat) (v : W64),
      target < 64 →
      listedMaster master = true →
      master = 0x4C ∨ (tag = 0 ∧ target ≠ 38 ∧ target ≠ 45) →
      off < 0x80 →
      off % 0x10 = 0 →
      ({ s.chip with nextReq := s.chip.nextReq + 1 } : Chip).check { master := master, tag := tag, addr := blockAddr 20 + target * 0x1000 + off, len := 8, write := true } = none →
      exec (.accTableWrite master tag target off v) s = .next { s with chip := Chip.settle ((({ s.chip with nextReq := s.chip.nextReq + 1 } : Chip).setReg (ACC_WIN_BASE target (off / 0x10)) (bitsOf v.toNat 47 12 * 4096 + v.toNat % 2)).reply master s.chip.nextReq .value []) }) ∧
  (∀ (s : State) (master tag target off : Nat) (v : W64),
      target < 64 →
      listedMaster master = true →
      master = 0x4C ∨ (tag = 0 ∧ target ≠ 38 ∧ target ≠ 45) →
      off < 0x80 →
      off % 0x10 = 8 →
      ({ s.chip with nextReq := s.chip.nextReq + 1 } : Chip).check { master := master, tag := tag, addr := blockAddr 20 + target * 0x1000 + off, len := 8, write := true } = none →
      exec (.accTableWrite master tag target off v) s = .next { s with chip := Chip.settle ((({ s.chip with nextReq := s.chip.nextReq + 1 } : Chip).setReg (ACC_WIN_LIMIT target (off / 0x10)) (bitsOf v.toNat 47 12 * 4096)).reply master s.chip.nextReq .value []) }) ∧
  (∀ (s : State) (master tag target off : Nat) (v : W64),
      target < 64 →
      listedMaster master = true →
      master = 0x4C ∨ (tag = 0 ∧ target ≠ 38 ∧ target ≠ 45) →
      0x200 ≤ off →
      off < 0x400 →
      off % 4 = 0 →
      ({ s.chip with nextReq := s.chip.nextReq + 1 } : Chip).check { master := master, tag := tag, addr := blockAddr 20 + target * 0x1000 + off, len := 4, write := true } = none →
      exec (.accTableWrite master tag target off v) s = .next { s with chip := Chip.settle ((({ s.chip with nextReq := s.chip.nextReq + 1 } : Chip).setReg (ACC_ENTRY target ((off - 0x200) / 4)) (v.toNat % 2 ^ 32)).reply master s.chip.nextReq .value []) }) ∧
  (∀ (s : State) (master tag target off : Nat) (v : W64),
      listedMaster master = true →
      master ≠ 0x4C →
      tag ≠ 0 ∨ target = 38 ∨ target = 45 →
      ({ s.chip with nextReq := s.chip.nextReq + 1 } : Chip).check { master := master, tag := tag, addr := blockAddr 20 + target * 0x1000 + off, len := if off < 0x200 then 8 else 4, write := true } = none →
      exec (.accTableWrite master tag target off v) s = .next { s with chip := Chip.settle ((({ s.chip with nextReq := s.chip.nextReq + 1 } : Chip)).reply master s.chip.nextReq .value []) }) ∧
  (∀ (s : State) (master tag target off slice : Nat) (v : W64) (w : W32) (d : Deny) (t : Nat),
      listedMaster master = true →
      ({ s.chip with nextReq := s.chip.nextReq + 1 } : Chip).check { master := master, tag := tag, addr := blockAddr 20 + target * 0x1000 + off, len := if off < 0x200 then 8 else 4, write := true } = some (d, t) →
      ({ s.chip with nextReq := s.chip.nextReq + 1 } : Chip).check { master := master, tag := tag, addr := (ACC_PASID_MAP slice).addr, len := 4, write := true } = some (d, t) →
      exec (.accTableWrite master tag target off v) s = .next { s with chip := Chip.settle ((({ s.chip with nextReq := s.chip.nextReq + 1 } : Chip).denied { master := master, tag := tag, addr := blockAddr 20 + target * 0x1000 + off, len := if off < 0x200 then 8 else 4, write := true } d t).failed { master := master, tag := tag, addr := blockAddr 20 + target * 0x1000 + off, len := if off < 0x200 then 8 else 4, write := true } s.chip.nextReq 1) } ∧
      exec (.accPasidMapWrite master tag slice w) s = .next { s with chip := Chip.settle ((({ s.chip with nextReq := s.chip.nextReq + 1 } : Chip).denied { master := master, tag := tag, addr := (ACC_PASID_MAP slice).addr, len := 4, write := true } d t).failed { master := master, tag := tag, addr := (ACC_PASID_MAP slice).addr, len := 4, write := true } s.chip.nextReq 1) }) ∧
  (∀ (s : State) (master tag target off slice : Nat) (v : W64) (w : W32),
      listedMaster master = false →
      exec (.accTableWrite master tag target off v) s = .next { s with chip := Chip.settle (({ s.chip with nextReq := s.chip.nextReq + 1 } : Chip)) } ∧
      exec (.accPasidMapWrite master tag slice w) s = .next { s with chip := Chip.settle (({ s.chip with nextReq := s.chip.nextReq + 1 } : Chip)) })

/-- A started MEM_INVALIDATE of an aligned range in one memory, all of it the slice's, goes on running; a range
that is misplaced or misaligned completes with BAD_PARAM, one that is not the slice's with NOT_OWNER, and
neither changes anything else. While it runs, once no accepted request to its range is outstanding, its valid
bits are cleared, the dirty log marks the whole range, and it completes DONE; a range of tile memory or model
cache has its lines cleared. SLICE_DIRTY_LOG DISABLE ends the logging of the slice and leaves memory alone;
ENABLE clears the bitmap and has the slice logged there; READ_CLEAR copies the bitmap to SNAPSHOT, clears it
and answers the number of bits that were set. -/
def Obligations.ClearingAndDirtyLog : Prop :=
  (∀ (s : State) (p : Packet) (pl : Nat),
      s.chip.startedAs p 0x102 →
      p.u 32 8 < 2 ^ 48 →
      p.u 40 8 < 2 ^ 48 →
      zeroIn p.bytes 48 64 = true →
      s.chip.invalidatePlace (p.u 32 8) (p.u 40 8) = some pl →
      s.chip.ownsRange p.slice pl (p.u 32 8) (p.u 40 8) = true →
      exec (.memInvalidate p.id) s = .next { s with chip := Chip.settle (s.chip.keepRunning p.id) }) ∧
  (∀ (s : State) (p : Packet) (pl : Nat),
      s.chip.startedAs p 0x102 →
      p.u 32 8 < 2 ^ 48 →
      p.u 40 8 < 2 ^ 48 →
      zeroIn p.bytes 48 64 = true →
      s.chip.invalidatePlace (p.u 32 8) (p.u 40 8) = some pl →
      s.chip.ownsRange p.slice pl (p.u 32 8) (p.u 40 8) = false →
      exec (.memInvalidate p.id) s = .next { s with chip := Chip.settle (s.chip.finish p.id stNotOwner) }) ∧
  (∀ (s : State) (p : Packet),
      s.chip.startedAs p 0x102 →
      2 ^ 48 ≤ p.u 32 8 ∨ 2 ^ 48 ≤ p.u 40 8 ∨ zeroIn p.bytes 48 64 = false ∨ s.chip.invalidatePlace (p.u 32 8) (p.u 40 8) = none →
      exec (.memInvalidate p.id) s = .next { s with chip := Chip.settle (s.chip.finish p.id stBadParam) }) ∧
  (∀ (s : State) (p : Packet),
      s.chip.packet? p.id = some p →
      p.op = 0x102 →
      p.phase = .running →
      p.u 32 8 < mcBase →
      s.chip.dramBusy (p.u 32 8 / pageSize) (p.u 40 8 / pageSize) = false →
      exec (.memInvalidateClear p.id) s = .next { s with chip := Chip.settle (((s.chip.clearBlocks (p.u 32 8 / pageSize) (p.u 40 8 / pageSize)).logRange p.slice (p.u 32 8) (p.u 40 8)).finish p.id stDone) }) ∧
  (∀ (s : State) (p : Packet),
      s.chip.packet? p.id = some p →
      p.op = 0x102 →
      p.phase = .running →
      mcBase ≤ p.u 32 8 →
      s.chip.rillBusy (p.u 32 8) (p.u 32 8 + p.u 40 8) = false →
      exec (.memInvalidateClear p.id) s = .next { s with chip := Chip.settle ((s.chip.clearLines (p.u 32 8) (p.u 40 8)).finish p.id stDone) }) ∧
  (∀ (s : State) (p : Packet),
      s.chip.startedAs p 0x802 →
      p.u 33 1 = 0 →
      s.chip.dirtyLogBad p false = false →
      exec (.dirtyLogDisable p.id) s = .next { s with chip := Chip.settle (Chip.finish { s.chip with dirtyLogs := AMap.del s.chip.dirtyLogs (p.u 32 1) } p.id stDone) }) ∧
  (∀ (s : State) (p : Packet),
      s.chip.startedAs p 0x802 →
      p.u 33 1 = 1 →
      s.chip.dirtyLogBad p false = false →
      exec (.dirtyLogEnable p.id) s = .next { s with chip := Chip.settle (Chip.finish { s.chip.store (p.u 40 8) (List.replicate (p.u 48 8) 0) with dirtyLogs := AMap.set (s.chip.store (p.u 40 8) (List.replicate (p.u 48 8) 0)).dirtyLogs (p.u 32 1) { bitmap := p.u 40 8, length := p.u 48 8 } } p.id stDone) }) ∧
  (∀ (s : State) (p : Packet),
      s.chip.startedAs p 0x802 →
      p.u 33 1 = 2 →
      s.chip.dirtyLogBad p true = false →
      exec (.dirtyLogReadClear p.id) s = .next { s with chip := Chip.settle (((s.chip.store (p.u 56 8) (s.chip.readBack (p.u 40 8) (p.u 48 8))).store (p.u 40 8) (List.replicate (p.u 48 8) 0)).finish p.id stDone (sumOf ((s.chip.readBack (p.u 40 8) (p.u 48 8)).map (fun x => popCount 8 x.toNat)))) })

/-- A started FUNCTION_DISABLE with legal fields refuses the functions of its mask from then on and goes on
running: where some of them are not draining yet, or the mask is empty, a drain stands with the timeout the
packet gives (5000 µs for 0); where all are, it joins every drain that names one. A FUNCTION_ENABLE of
functions none of which drains re-enables them at once and completes DONE; of functions that drain, it waits
for their drains and re-enables the others now. An illegal field completes BAD_PARAM and changes nothing else.
When a drain's time is up, and not before, what is in flight of its own functions is aborted with status
ABORTED_BY_DISABLE and counted. With nothing of its functions in flight and no other drain of them under way,
the drain ends: the event with mask and count of aborted items, the packets that joined it and wait on no
other drain, then DONE to the packet that started it; until then nothing changes. The drain of a SLICE_DESTROY
goes on with the destruction. -/
def Obligations.FunctionsDrainAndReturn : Prop :=
  (∀ (s : State) (p : Packet),
      s.chip.startedAs p 0x803 →
      p.u 32 1 < 64 →
      p.u 33 1 = 0 →
      p.u 34 2 < 64 →
      p.u 36 4 ≤ 1000000 →
      zeroIn p.bytes 40 64 = true →
      (s.chip.slice? (p.u 32 1)).isSome = true →
      p.u 34 2 = 0 ∨ p.u 34 2 &&& (63 ^^^ (s.chip.draining (p.u 32 1) &&& 63)) ≠ 0 →
      let c := ((s.chip.refuseFunctions (p.u 32 1) (p.u 34 2)).keepRunning p.id).stampReady
      exec (.functionDisable p.id) s = .next { s with chip := Chip.settle ({ c with drains := c.drains ++ [{ slice := p.u 32 1, mask := p.u 34 2, own := p.u 34 2 &&& (63 ^^^ (s.chip.draining (p.u 32 1) &&& 63)), deadline := c.now + drainUs (p.u 36 4) * 1000, packet := p.id }] }) }) ∧
  (∀ (s : State) (p : Packet),
      s.chip.startedAs p 0x803 →
      p.u 32 1 < 64 →
      p.u 33 1 = 0 →
      p.u 34 2 < 64 →
      p.u 36 4 ≤ 1000000 →
      zeroIn p.bytes 40 64 = true →
      (s.chip.slice? (p.u 32 1)).isSome = true →
      p.u 34 2 ≠ 0 →
      p.u 34 2 &&& (63 ^^^ (s.chip.draining (p.u 32 1) &&& 63)) = 0 →
      exec (.functionDisable p.id) s = .next { s with chip := Chip.settle ((((s.chip.refuseFunctions (p.u 32 1) (p.u 34 2)).keepRunning p.id).stampReady).updDrains (fun d => if d.slice = p.u 32 1 ∧ d.own &&& p.u 34 2 ≠ 0 then { d with joined := d.joined ++ [p.id] } else d)) }) ∧
  (∀ (s : State) (p : Packet),
      s.chip.startedAs p 0x803 →
      p.u 32 1 < 64 →
      p.u 33 1 = 1 →
      p.u 34 2 < 64 →
      p.u 36 4 ≤ 1000000 →
      zeroIn p.bytes 40 64 = true →
      (s.chip.slice? (p.u 32 1)).isSome = true →
      s.chip.draining (p.u 32 1) &&& p.u 34 2 ≠ 0 →
      exec (.functionEnable p.id) s = .next { s with chip := Chip.settle (((s.chip.updSlice (p.u 32 1) (fun x => { x with disabled := x.disabled &&& (0xFFFF ^^^ (p.u 34 2 &&& (0xFFFF ^^^ (s.chip.draining (p.u 32 1) &&& p.u 34 2)))) })).updDrains (fun d => if d.slice = p.u 32 1 ∧ d.own &&& p.u 34 2 ≠ 0 then { d with enables := d.enables ++ [(p.id, d.own &&& p.u 34 2)] } else d)).keepRunning p.id) }) ∧
  (∀ (s : State) (p : Packet),
      s.chip.startedAs p 0x803 →
      p.u 32 1 < 64 →
      p.u 33 1 = 1 →
      p.u 34 2 < 64 →
      p.u 36 4 ≤ 1000000 →
      zeroIn p.bytes 40 64 = true →
      (s.chip.slice? (p.u 32 1)).isSome = true →
      s.chip.draining (p.u 32 1) &&& p.u 34 2 = 0 →
      exec (.functionEnable p.id) s = .next { s with chip := Chip.settle ((s.chip.updSlice (p.u 32 1) (fun x => { x with disabled := x.disabled &&& (0xFFFF ^^^ (p.u 34 2 &&& 0xFFFF)) })).finish p.id stDone) }) ∧
  (∀ (s : State) (p : Packet),
      s.chip.startedAs p 0x803 →
      bitOf (p.u 33 1) 0 = false →
      64 ≤ p.u 32 1 ∨ 1 < p.u 33 1 ∨ 64 ≤ p.u 34 2 ∨ zeroIn p.bytes 40 64 = false ∨ 1000000 < p.u 36 4 ∨ s.chip.slice? (p.u 32 1) = none →
      exec (.functionDisable p.id) s = .next { s with chip := Chip.settle (s.chip.finish p.id stBadParam) }) ∧
  (∀ (s : State) (p : Packet),
      s.chip.startedAs p 0x803 →
      bitOf (p.u 33 1) 0 = true →
      64 ≤ p.u 32 1 ∨ 1 < p.u 33 1 ∨ 64 ≤ p.u 34 2 ∨ zeroIn p.bytes 40 64 = false ∨ 1000000 < p.u 36 4 ∨ s.chip.slice? (p.u 32 1) = none →
      exec (.functionEnable p.id) s = .next { s with chip := Chip.settle (s.chip.finish p.id stBadParam) }) ∧
  (∀ (s : State) (d : Drain),
      s.chip.drains.find? (fun e => e.packet == d.packet) = some d →
      d.timedOut = false →
      d.deadline ≤ s.chip.now →
      exec (.functionDisableTimeout d.packet) s = .next { s with chip := Chip.settle ((s.chip.abortFlying d.slice d.own stAbortedByDisable).2.updDrains (fun e => if e.packet = d.packet then { e with timedOut := true, aborted := e.aborted + (s.chip.abortFlying d.slice d.own stAbortedByDisable).1 } else e)) }) ∧
  (∀ (s : State) (d : Drain),
      s.chip.drains.find? (fun e => e.packet == d.packet) = some d →
      s.chip.now < d.deadline →
      exec (.functionDisableTimeout d.packet) s = .next { s with chip := Chip.settle (s.chip) }) ∧
  (∀ (s : State) (d : Drain),
      s.chip.drains.find? (fun e => e.packet == d.packet) = some d →
      d.joined = [] →
      d.enables = [] →
      s.chip.drainOver d = true →
      (s.chip.endDrain d).destroys.find? (fun x => x.packet == d.packet) = none →
      let c := s.chip.event d.slice 0x0004 0xFFFF (s.chip.seqOf d.packet) d.mask d.aborted
      exec (.functionDisableDrained d.packet) s = .next (s.withPart ({ s.part with chip := (Chip.updSlice { c with drains := c.drains.filter (fun e => e.packet != d.packet) } d.slice (fun x => { x with disabled := x.disabled &&& 0xFFFF })).finish d.packet stDone d.aborted }))) ∧
  (∀ (s : State) (d : Drain),
      s.chip.drains.find? (fun e => e.packet == d.packet) = some d →
      s.chip.drainOver d = true →
      (s.chip.endDrain d).destroys.find? (fun x => x.packet == d.packet) = none →
      exec (.functionDisableDrained d.packet) s = .next (s.withPart ({ s.part with chip := (s.chip.endDrain d).finish d.packet stDone d.aborted }))) ∧
  (∀ (s : State) (d : Drain) (x : Destroy),
      s.chip.drains.find? (fun e => e.packet == d.packet) = some d →
      s.chip.drainOver d = true →
      (s.chip.endDrain d).destroys.find? (fun x => x.packet == d.packet) = some x →
      exec (.functionDisableDrained d.packet) s = .next (s.withPart (Part.drainedDestroy { s.part with chip := s.chip.endDrain d } x))) ∧
  (∀ (s : State) (d : Drain),
      s.chip.drains.find? (fun e => e.packet == d.packet) = some d →
      s.chip.drainOver d = false →
      exec (.functionDisableDrained d.packet) s = .next (s.withPart (s.part)))

/-- A write of the lower half of a doorbell register is held and changes nothing else. A doorbell or sync-window
access of a bad size or alignment changes nothing, but that a write leaves one error record: cause 2 for a
register, cause 1 for the sync window. A write of the sync window at an index below SYNC_COUNT sets the object
to the larger of its count and bits 62:0 of the value; past SYNC_COUNT, and once the slice's rings are gone,
it changes nothing. A write of CQ_HEAD between head and tail moves the head; one past the tail or backwards
stops with cause 6 a ring that is not stopped already. A write of EQ_HEAD between head and tail moves the
head; any other is ignored. -/
def Obligations.DoorbellPageWrites : Prop :=
  (∀ (s : State) (i off : Nat) (v : W32),
      exec (.doorbellLowerHalfWrite i off v) s = .next { s with chip := Chip.settle ({ s.chip with staged := AMap.set s.chip.staged (dbPage i + off) v }) }) ∧
  (∀ (s : State) (m i off : Nat),
      exec (.doorbellBadAccess m i off true) s = .next { s with chip := Chip.settle (s.chip.error { severity := 0, cause := 2, source := 15, master := m, slice := i, target := 50, addr := dbPage i + off }) }) ∧
  (∀ (s : State) (m i off : Nat),
      exec (.syncWindowBadAccess m i off true) s = .next { s with chip := Chip.settle (s.chip.error { severity := 0, cause := 1, source := 15, master := m, slice := i, target := 50, addr := dbPage i + off }) }) ∧
  (∀ (s : State) (m i off : Nat),
      exec (.doorbellBadAccess m i off false) s = .next { s with chip := Chip.settle (s.chip) } ∧ exec (.syncWindowBadAccess m i off false) s = .next { s with chip := Chip.settle (s.chip) }) ∧
  (∀ (s : State) (i k : Nat) (v : W64) (sl : Slice),
      s.chip.slice? i = some sl →
      k < 4096 →
      k < sl.syncCount →
      sl.retired = false →
      exec (.syncWindowWrite i k v) s = .next { s with chip := Chip.settle ((s.chip.signal (sl.syncBase + k) (.setMax (v.toNat % 2 ^ 63))).stampReady) }) ∧
  (∀ (s : State) (i k : Nat) (v : W64) (sl : Slice),
      s.chip.slice? i = some sl →
      sl.syncCount ≤ k ∨ sl.retired = true →
      exec (.syncWindowWrite i k v) s = .next { s with chip := Chip.settle (s.chip) }) ∧
  (∀ (s : State) (i r : Nat) (v : W32),
      s.chip.hasRing i r = true →
      idxSub v.toNat (s.chip.reg (CQ_HEAD i r)) ≤ idxSub (s.chip.reg (CQ_TAIL i r)) (s.chip.reg (CQ_HEAD i r)) →
      exec (.cqHeadWrite i r v) s = .next { s with chip := Chip.settle ((s.chip.setReg (CQ_HEAD i r) v.toNat).stampReady) }) ∧
  (∀ (s : State) (i r : Nat) (v : W32),
      s.chip.hasRing i r = true →
      s.chip.ringKept i r ≠ rsStopped →
      idxSub (s.chip.reg (CQ_TAIL i r)) (s.chip.reg (CQ_HEAD i r)) < idxSub v.toNat (s.chip.reg (CQ_HEAD i r)) →
      exec (.cqHeadWrite i r v) s = .next { s with chip := Chip.settle (s.chip.stopRing i r 0x06 v.toNat) }) ∧
  (∀ (s : State) (i r : Nat) (v : W32),
      s.chip.hasRing i r = false ∨ (s.chip.ringKept i r = rsStopped ∧ idxSub (s.chip.reg (CQ_TAIL i r)) (s.chip.reg (CQ_HEAD i r)) < idxSub v.toNat (s.chip.reg (CQ_HEAD i r))) →
      exec (.cqHeadWrite i r v) s = .next { s with chip := Chip.settle (s.chip) }) ∧
  (∀ (s : State) (i : Nat) (v : W32),
      s.chip.hasEvents i = true →
      idxSub v.toNat (s.chip.reg (EQ_HEAD i)) ≤ idxSub (s.chip.reg (EQ_TAIL i)) (s.chip.reg (EQ_HEAD i)) →
      exec (.eqHeadWrite i v) s = .next { s with chip := Chip.settle ((s.chip.setReg (EQ_HEAD i) v.toNat).eventFlush i) }) ∧
  (∀ (s : State) (i : Nat) (v : W32),
      idxSub (s.chip.reg (EQ_TAIL i)) (s.chip.reg (EQ_HEAD i)) < idxSub v.toNat (s.chip.reg (EQ_HEAD i)) →
      exec (.eqHeadWrite i v) s = .next { s with chip := Chip.settle (s.chip) })

/-- ENABLE set on a DISABLED ring of the slice whose sizes lie in 4 to 16 and whose rings lie in the slice's pages
puts the three indices and the tail at 0 and the ring in IDLE; a bad size or place stops it with cause 8 or 3.
ENABLE cleared on a ring that is not DISABLED clears the bit, discards the packets that have not started with
their pending releases, and the ring stands in DRAINING; with no packet left it enters DISABLED, and no
sooner. An event ring enabled with a legal size and place has its indices at 0 and reports what was lost
before; a bad one leaves ENABLE clear and one record with source 15 and cause 3. -/
def Obligations.RingsEnableAndDrain : Prop :=
  (∀ (s : State) (i r : Nat) (n : Nat),
      s.chip.hasRing i r = true →
      s.chip.ringKept i r = rsDisabled →
      (s.chip.setReg (SQ_CTRL i r) (n % 32 + 2 ^ 31)).ringConfig i r = none →
      exec (.ringEnable i r n) s = .next { s with chip := Chip.settle ((s.chip.setReg (SQ_CTRL i r) (n % 32 + 2 ^ 31)).startRing i r) }) ∧
  (∀ (s : State) (i r : Nat) (n cause d : Nat),
      s.chip.hasRing i r = true →
      s.chip.ringKept i r = rsDisabled →
      (s.chip.setReg (SQ_CTRL i r) (n % 32 + 2 ^ 31)).ringConfig i r = some (cause, d) →
      exec (.ringEnable i r n) s = .next { s with chip := Chip.settle ((s.chip.setReg (SQ_CTRL i r) (n % 32 + 2 ^ 31)).stopRing i r cause d) }) ∧
  (∀ (s : State) (i r : Nat),
      s.chip.hasRing i r = true →
      s.chip.ringKept i r ≠ rsDisabled →
      exec (.ringDisable i r) s = .next { s with chip := Chip.settle (((s.chip.setFld (SQ_CTRL i r) SQ_CTRL.ENABLE 0).setFld (RING_STATUS i r) RING_STATUS.STATE rsDraining).discardUnstarted i r) }) ∧
  (∀ (s : State) (i r : Nat),
      s.chip.ringKept i r = rsDraining →
      (s.chip.ringPackets i r).isEmpty = true →
      exec (.ringDrained i r) s = .next { s with chip := Chip.settle (s.chip.setFld (RING_STATUS i r) RING_STATUS.STATE rsDisabled) }) ∧
  (∀ (s : State) (i r : Nat),
      s.chip.ringKept i r ≠ rsDraining ∨ (s.chip.ringPackets i r).isEmpty = false →
      exec (.ringDrained i r) s = .next { s with chip := Chip.settle (s.chip) }) ∧
  (∀ (s : State) (i n : Nat),
      s.chip.hasEvents i = true →
      s.chip.flag (EQ_CTRL i) EQ_CTRL.ENABLE = false →
      4 ≤ n →
      n ≤ 16 →
      s.chip.ringPlaced i (s.chip.fld (EQ_BASE i) EQ_BASE.BASE) n 32 = true →
      (s.chip.setReg (EQ_CTRL i) n).fld (EQ_BASE i) EQ_BASE.BASE = s.chip.fld (EQ_BASE i) EQ_BASE.BASE →
      exec (.eventRingEnable i n) s = .next { s with chip := Chip.settle (((((s.chip.setReg (EQ_CTRL i) n).setFld (EQ_CTRL i) EQ_CTRL.ENABLE 1).setReg (EQ_TAIL i) 0).setReg (EQ_HEAD i) 0).eventFlush i) }) ∧
  (∀ (s : State) (i n : Nat),
      s.chip.hasEvents i = true →
      s.chip.flag (EQ_CTRL i) EQ_CTRL.ENABLE = false →
      n < 4 ∨ (16 < n ∧ n < 32) →
      let c := s.chip.setReg (EQ_CTRL i) n
      exec (.eventRingEnable i n) s = .next { s with chip := Chip.settle (c.error { severity := 0, cause := 3, source := 15, slice := i, target := 50, addr := c.fld (EQ_BASE i) EQ_BASE.BASE * 4096 }) })

/-- A write of SQ_TAIL to a live ring that moves the tail forward by less than 2^31, within the ring's slots past
SQ_HEAD, is taken; backwards it stops the ring with cause 1, past the slots with cause 2. A fetch on a live
ring with no head, whose slots read without error and whose tail covers the packet, advances SQ_HEAD by the
slots of the packet and holds the packet at the head with its header checked. A start takes the ready head of
lowest class, round-robin within the class, and every 16th time the one that has been ready longest; with none
ready nothing starts. A failed read of a slot stops the ring with cause 4 where it was denied, else 5. A
packet whose outcome stands completes under R68, and its units and its pending release are given back. -/
def Obligations.RingsFetchStartComplete : Prop :=
  (∀ (s : State) (i r : Nat) (v : W32),
      s.chip.hasRing i r = true →
      s.chip.ringLive i r = true →
      0 < idxSub v.toNat (s.chip.ringTail i r) →
      idxSub v.toNat (s.chip.ringTail i r) < 2 ^ 31 →
      idxSub v.toNat (s.chip.reg (SQ_HEAD i r)) ≤ 2 ^ s.chip.fld (SQ_CTRL i r) SQ_CTRL.LOG2_SLOTS →
      exec (.sqTailWrite i r v) s = .next { s with chip := Chip.settle ({ s.chip with rings := AMap.upd s.chip.rings (ringKey i r) {} (fun g => { g with tail := v.toNat }) }) }) ∧
  (∀ (s : State) (i r : Nat) (v : W32),
      s.chip.hasRing i r = true →
      s.chip.ringLive i r = true →
      2 ^ 31 ≤ idxSub v.toNat (s.chip.ringTail i r) →
      exec (.sqTailWrite i r v) s = .next { s with chip := Chip.settle (s.chip.stopRing i r 0x01 v.toNat) }) ∧
  (∀ (s : State) (i r : Nat) (v : W32),
      s.chip.hasRing i r = true →
      s.chip.ringLive i r = true →
      0 < idxSub v.toNat (s.chip.ringTail i r) →
      idxSub v.toNat (s.chip.ringTail i r) < 2 ^ 31 →
      2 ^ s.chip.fld (SQ_CTRL i r) SQ_CTRL.LOG2_SLOTS < idxSub v.toNat (s.chip.reg (SQ_HEAD i r)) →
      exec (.sqTailWrite i r v) s = .next { s with chip := Chip.settle (s.chip.stopRing i r 0x02 v.toNat) }) ∧
  (∀ (s : State) (i r a a2 : Nat) (sl : Slice) (b b2 : List Byte) (c1 c2 : Chip),
      s.chip.slice? i = some sl →
      s.chip.hasRing i r = true →
      s.chip.ringLive i r = true →
      s.chip.headOf i r = none →
      s.chip.headHeld i r = none →
      0 < idxSub (s.chip.ringTail i r) (s.chip.reg (SQ_HEAD i r)) →
      s.chip.readSlots i r 1 (s.chip.reg (SQ_HEAD i r)) = (.ok, b, a, c1) →
      bitsOf (bytesU b 0 2) 13 12 + 1 ≤ idxSub (s.chip.ringTail i r) (s.chip.reg (SQ_HEAD i r)) →
      c1.readSlots i r (bitsOf (bytesU b 0 2) 13 12) (s.chip.reg (SQ_HEAD i r) + 1) = (.ok, b2, a2, c2) →
      exec (.packetFetch i r) s = .next { s with chip := Chip.settle ((c2.setReg (SQ_HEAD i r) (idxAdd (s.chip.reg (SQ_HEAD i r)) (bitsOf (bytesU b 0 2) 13 12 + 1))).holdPacket sl i r (b ++ b2)) }) ∧
  (∀ (s : State) (p : Packet),
      (if s.chip.stampReady.starts % 16 = 15 then longestReady (s.chip.stampReady.packets.filter s.chip.stampReady.ready) else s.chip.stampReady.bestReady (s.chip.stampReady.packets.filter s.chip.stampReady.ready)) = some p →
      exec (.packetStart) s = .next { s with chip := Chip.settle ((s.chip.stampReady.startPacket p).stampReady) }) ∧
  (∀ (s : State),
      s.chip.stampReady.packets.filter s.chip.stampReady.ready = [] →
      exec (.packetStart) s = .next { s with chip := Chip.settle (s.chip.stampReady) }) ∧
  (∀ (s : State) (i r a : Nat) (sl : Slice) (o : Served) (b : List Byte) (c1 : Chip),
      s.chip.slice? i = some sl →
      s.chip.hasRing i r = true →
      s.chip.ringLive i r = true →
      s.chip.headOf i r = none →
      s.chip.headHeld i r = none →
      0 < idxSub (s.chip.ringTail i r) (s.chip.reg (SQ_HEAD i r)) →
      s.chip.readSlots i r 1 (s.chip.reg (SQ_HEAD i r)) = (o, b, a, c1) →
      o ≠ .ok →
      exec (.packetFetch i r) s = .next { s with chip := Chip.settle (c1.ringError i r (if o = .denied then 0x04 else 0x05) a) }) ∧
  (∀ (s : State) (i r : Nat),
      s.chip.hasRing i r = false ∨ s.chip.ringLive i r = false ∨ (s.chip.headOf i r).isSome = true ∨ (s.chip.headHeld i r).isSome = true ∨ s.chip.ringTail i r % 2 ^ 32 = s.chip.reg (SQ_HEAD i r) % 2 ^ 32 →
      exec (.packetFetch i r) s = .next { s with chip := Chip.settle (s.chip) }) ∧
  (∀ (s : State) (p : Packet) (st : Nat) (res det : W64),
      s.chip.packet? p.id = some p →
      p.phase = .done st res det →
      exec (.packetComplete p.id) s = .next { s with chip := Chip.settle (((s.chip.complete p st res det).giveBack (.copy p.id)).dropPending p.id) })

/-- A started NOP completes DONE. A FENCE with legal bytes completes DONE where nothing of its set is in flight,
else goes on running, and completes DONE once every packet of its set has completed; a reserved bit or byte
completes BAD_PARAM. A SYNC_SIGNAL with legal entries applies them in index order and completes DONE; with one
bad entry it applies none and completes with that entry's status. A SYNC_WAIT that an object's error bit fails
completes DEPENDENCY_FAILED; one already met completes DONE with the mask of entries met; one not met goes on
running. One that an update has released completes DONE with the mask of that update, and one whose object
took the error bit completes DEPENDENCY_FAILED. -/
def Obligations.FencesAndWaits : Prop :=
  (∀ (s : State) (p : Packet),
      s.chip.startedAs p 0x010 →
      exec (.nopPacket p.id) s = .next { s with chip := Chip.settle (s.chip.finish p.id stDone) }) ∧
  (∀ (s : State) (p : Packet),
      s.chip.startedAs p 0x011 →
      bitsOf (p.u 32 1) 7 1 = 0 →
      zeroIn p.bytes 33 64 = true →
      p.waitsFor = [] →
      exec (.fencePacket p.id) s = .next { s with chip := Chip.settle (s.chip.finish p.id stDone) }) ∧
  (∀ (s : State) (p : Packet),
      s.chip.startedAs p 0x011 →
      bitsOf (p.u 32 1) 7 1 = 0 →
      zeroIn p.bytes 33 64 = true →
      p.waitsFor ≠ [] →
      exec (.fencePacket p.id) s = .next { s with chip := Chip.settle (s.chip.keepRunning p.id) }) ∧
  (∀ (s : State) (p : Packet),
      s.chip.startedAs p 0x011 →
      bitsOf (p.u 32 1) 7 1 ≠ 0 ∨ zeroIn p.bytes 33 64 = false →
      exec (.fencePacket p.id) s = .next { s with chip := Chip.settle (s.chip.finish p.id stBadParam) }) ∧
  (∀ (s : State) (p : Packet),
      s.chip.packet? p.id = some p →
      p.op = 0x011 →
      p.phase = .running →
      p.waitsFor = [] →
      exec (.fenceRelease p.id) s = .next { s with chip := Chip.settle ((s.chip.finish p.id stDone).stampReady) }) ∧
  (∀ (s : State) (p : Packet) (sl : Slice),
      s.chip.startedAs p 0x012 →
      s.chip.slice? p.slice = some sl →
      (signalEntries p).findSome? (entryFault sl 4) = none →
      exec (.syncSignal p.id) s = .next { s with chip := Chip.settle ((((signalEntries p).foldl (fun c e => c.signal e.1 (entrySignal e)) s.chip).finish p.id stDone).stampReady) }) ∧
  (∀ (s : State) (p : Packet) (sl : Slice) (st : Nat),
      s.chip.startedAs p 0x012 →
      s.chip.slice? p.slice = some sl →
      (signalEntries p).findSome? (entryFault sl 4) = some st →
      exec (.syncSignal p.id) s = .next { s with chip := Chip.settle (s.chip.finish p.id st) }) ∧
  (∀ (s : State) (p : Packet) (sl : Slice),
      s.chip.startedAs p 0x013 →
      s.chip.slice? p.slice = some sl →
      (signalEntries p).findSome? (entryFault sl 2) = none →
      p.waitTerms.any (fun e => syncErr (s.chip.sync e.2.1)) = true →
      exec (.syncWait p.id) s = .next { s with chip := Chip.settle ((s.chip.finish p.id stDependencyFailed).stampReady) }) ∧
  (∀ (s : State) (p : Packet) (sl : Slice),
      s.chip.startedAs p 0x013 →
      s.chip.slice? p.slice = some sl →
      (signalEntries p).findSome? (entryFault sl 2) = none →
      p.waitTerms.any (fun e => syncErr (s.chip.sync e.2.1)) = false →
      s.chip.waitHolds p = true →
      exec (.syncWait p.id) s = .next { s with chip := Chip.settle ((s.chip.finish p.id stDone (s.chip.waitMask p)).stampReady) }) ∧
  (∀ (s : State) (p : Packet) (sl : Slice),
      s.chip.startedAs p 0x013 →
      s.chip.slice? p.slice = some sl →
      (signalEntries p).findSome? (entryFault sl 2) = none →
      p.waitTerms.any (fun e => syncErr (s.chip.sync e.2.1)) = false →
      s.chip.waitHolds p = false →
      exec (.syncWait p.id) s = .next { s with chip := Chip.settle (s.chip.keepRunning p.id) }) ∧
  (∀ (s : State) (p : Packet) (m : W64),
      s.chip.packet? p.id = some p →
      p.op = 0x013 →
      p.phase = .running →
      p.dependency = false →
      p.released = some m →
      exec (.syncWaitRelease p.id) s = .next { s with chip := Chip.settle ((s.chip.finish p.id stDone m.toNat).stampReady) }) ∧
  (∀ (s : State) (p : Packet),
      s.chip.packet? p.id = some p →
      p.op = 0x013 →
      p.phase = .running →
      p.dependency = true →
      exec (.syncWaitRelease p.id) s = .next { s with chip := Chip.settle ((s.chip.finish p.id stDependencyFailed).stampReady) })

/-- A started MEM_COPY of fewer than 2^20 bytes with a legal length, addresses below 2^48 and ranges that do not
overlap reads its source and writes its destination piece by piece with the ring's own master and tag, and
completes with the status of the first access that failed and the count of leading bytes written as result
word. A MEM_FILL writes its range with the bytes of PATTERN, the byte at address a taking byte a mod 8, and
completes likewise; after a failed access free values say which later pieces were written (log 84). Writes
that reached registers take effect then. A zero length, an address out of range, a reserved byte or, for a
copy, an overlap completes BAD_PARAM and changes nothing else. A copy or fill of 2^20 bytes or more whose
units are granted does the same. -/
def Obligations.CopyAndFill : Prop :=
  (∀ (s c : State) (p : Packet) (o : Served) (k : Nat),
      s.chip.startedAs p 0x100 →
      p.u 32 8 < 2 ^ 48 →
      p.u 40 8 < 2 ^ 48 →
      0 < p.u 48 8 →
      p.u 48 8 < 2 ^ 40 →
      zeroIn p.bytes 56 64 = true →
      overlap (p.u 32 8) (p.u 40 8) (p.u 48 8) = false →
      p.u 48 8 < 2 ^ 20 ∨ s.chip.granted (.copy p.id) = true →
      s.chip.copyPieces p.slice (p.u 40 8) (pieces (p.u 32 8) (p.u 48 8)) = (o, k, c.chip) →
      exec (.memCopy p.id) s = .next (s.withPart (Part.deliver { s.part with chip := c.chip.finish p.id (servedStatus o) k }))) ∧
  (∀ (s : State) (p : Packet),
      s.chip.startedAs p 0x100 →
      2 ^ 48 ≤ p.u 32 8 ∨ 2 ^ 48 ≤ p.u 40 8 ∨ 2 ^ 40 ≤ p.u 48 8 ∨ zeroIn p.bytes 56 64 = false ∨ p.u 48 8 = 0 ∨ overlap (p.u 32 8) (p.u 40 8) (p.u 48 8) = true →
      exec (.memCopy p.id) s = .next (s.withPart (Part.deliver { s.part with chip := s.chip.finish p.id stBadParam }))) ∧
  (∀ (s c : State) (p : Packet) (o : Served) (k : Nat),
      s.chip.startedAs p 0x101 →
      p.u 32 8 < 2 ^ 48 →
      0 < p.u 40 8 →
      p.u 40 8 < 2 ^ 48 →
      zeroIn p.bytes 56 64 = true →
      p.u 40 8 < 2 ^ 20 ∨ s.chip.granted (.copy p.id) = true →
      s.chip.saveRange cpMaster p.slice (p.u 32 8) (fillBytes (p.u 48 8) (p.u 32 8) (p.u 40 8)) = (o, k, c.chip) →
      exec (.memFill p.id) s = .next (s.withPart (Part.deliver { s.part with chip := (if o = .ok then c.chip else c.chip.loosePieces p.slice (pieces (p.u 32 8 + k) (p.u 40 8 - k)) ((fillBytes (p.u 48 8) (p.u 32 8) (p.u 40 8)).drop k)).finish p.id (servedStatus o) k }))) ∧
  (∀ (s : State) (p : Packet),
      s.chip.startedAs p 0x101 →
      2 ^ 48 ≤ p.u 32 8 ∨ 2 ^ 48 ≤ p.u 40 8 ∨ p.u 40 8 = 0 ∨ zeroIn p.bytes 56 64 = false →
      exec (.memFill p.id) s = .next (s.withPart (Part.deliver { s.part with chip := s.chip.finish p.id stBadParam })))

/-- The head of a running tile's vector queue that R120 lets issue, with 1 to 4,096 elements: in BF16 and FP32
each element of the result is the sum, product, fused product and sum with one rounding, smaller or larger of
the elements of the sources, rounded to the format; in INT32 it is the exact integer result where that fits 32
bits. The results are written at the destination operand, the instruction issues, and decode goes on. This
holds for every operand form, given that its sources can be read and its destination written. -/
def Obligations.VectorArithmetic : Prop :=
  (∀ (s : State) (n cnt fmt : Nat) (q : TileIns) (l : List TileIns) (a b z : List Byte) (c1 c2 : Chip),
      s.chip.headIs n 2 0x20 q l →
      tiFmtA q.bytes = fmt →
      fmt = 0xA ∨ fmt = 0xC →
      tiImm q.bytes = cnt →
      1 ≤ cnt →
      cnt ≤ 4096 →
      (vecRead n 2 q ((s.chip.pop n 2 l).poolData n q) (packedLen fmt cnt)).run (s.chip.pop n 2 l) = (.ok (a, b, z), c1) →
      (operandWrite n q.dst [(0, packElems fmt ((List.range cnt).map (fun i => vecBits fmt (fadd (elemVal fmt (elemAt fmt a i)) (elemVal fmt (elemAt fmt b i))))))]).run c1 = (.ok (), c2) →
      exec (.vadd n) s = .next { s with chip := Chip.settle ((c2.issued n q).advance n) }) ∧
  (∀ (s : State) (n cnt fmt : Nat) (q : TileIns) (l : List TileIns) (a b z : List Byte) (c1 c2 : Chip),
      s.chip.headIs n 2 0x20 q l →
      tiFmtA q.bytes = fmt →
      fmt = 0xD →
      tiImm q.bytes = cnt →
      1 ≤ cnt →
      cnt ≤ 4096 →
      (vecRead n 2 q ((s.chip.pop n 2 l).poolData n q) (packedLen fmt cnt)).run (s.chip.pop n 2 l) = (.ok (a, b, z), c1) →
      (∀ i < cnt, -2147483648 ≤ sx 32 (elemAt fmt a i) + sx 32 (elemAt fmt b i) ∧ sx 32 (elemAt fmt a i) + sx 32 (elemAt fmt b i) ≤ 2147483647) →
      (operandWrite n q.dst [(0, packElems fmt ((List.range cnt).map (fun i => ux 32 (sx 32 (elemAt fmt a i) + sx 32 (elemAt fmt b i)))))]).run c1 = (.ok (), c2) →
      exec (.vadd n) s = .next { s with chip := Chip.settle ((c2.issued n q).advance n) }) ∧
  (∀ (s : State) (n cnt fmt : Nat) (q : TileIns) (l : List TileIns) (a b z : List Byte) (c1 c2 : Chip),
      s.chip.headIs n 2 0x21 q l →
      tiFmtA q.bytes = fmt →
      fmt = 0xA ∨ fmt = 0xC →
      tiImm q.bytes = cnt →
      1 ≤ cnt →
      cnt ≤ 4096 →
      (vecRead n 2 q ((s.chip.pop n 2 l).poolData n q) (packedLen fmt cnt)).run (s.chip.pop n 2 l) = (.ok (a, b, z), c1) →
      (operandWrite n q.dst [(0, packElems fmt ((List.range cnt).map (fun i => vecBits fmt (fmul (elemVal fmt (elemAt fmt a i)) (elemVal fmt (elemAt fmt b i))))))]).run c1 = (.ok (), c2) →
      exec (.vmul n) s = .next { s with chip := Chip.settle ((c2.issued n q).advance n) }) ∧
  (∀ (s : State) (n cnt fmt : Nat) (q : TileIns) (l : List TileIns) (a b z : List Byte) (c1 c2 : Chip),
      s.chip.headIs n 2 0x21 q l →
      tiFmtA q.bytes = fmt →
      fmt = 0xD →
      tiImm q.bytes = cnt →
      1 ≤ cnt →
      cnt ≤ 4096 →
      (vecRead n 2 q ((s.chip.pop n 2 l).poolData n q) (packedLen fmt cnt)).run (s.chip.pop n 2 l) = (.ok (a, b, z), c1) →
      (∀ i < cnt, -2147483648 ≤ sx 32 (elemAt fmt a i) * sx 32 (elemAt fmt b i) ∧ sx 32 (elemAt fmt a i) * sx 32 (elemAt fmt b i) ≤ 2147483647) →
      (operandWrite n q.dst [(0, packElems fmt ((List.range cnt).map (fun i => ux 32 (sx 32 (elemAt fmt a i) * sx 32 (elemAt fmt b i)))))]).run c1 = (.ok (), c2) →
      exec (.vmul n) s = .next { s with chip := Chip.settle ((c2.issued n q).advance n) }) ∧
  (∀ (s : State) (n cnt fmt : Nat) (q : TileIns) (l : List TileIns) (a b z : List Byte) (c1 c2 : Chip),
      s.chip.headIs n 2 0x22 q l →
      tiFmtA q.bytes = fmt →
      fmt = 0xA ∨ fmt = 0xC →
      tiImm q.bytes = cnt →
      1 ≤ cnt →
      cnt ≤ 4096 →
      (vecRead n 3 q ((s.chip.pop n 2 l).poolData n q) (packedLen fmt cnt)).run (s.chip.pop n 2 l) = (.ok (a, b, z), c1) →
      (operandWrite n q.dst [(0, packElems fmt ((List.range cnt).map (fun i => vecBits fmt (fadd (fmul (elemVal fmt (elemAt fmt a i)) (elemVal fmt (elemAt fmt b i))) (elemVal fmt (elemAt fmt z i))))))]).run c1 = (.ok (), c2) →
      exec (.vfma n) s = .next { s with chip := Chip.settle ((c2.issued n q).advance n) }) ∧
  (∀ (s : State) (n cnt fmt : Nat) (q : TileIns) (l : List TileIns) (a b z : List Byte) (c1 c2 : Chip),
      s.chip.headIs n 2 0x22 q l →
      tiFmtA q.bytes = fmt →
      fmt = 0xD →
      tiImm q.bytes = cnt →
      1 ≤ cnt →
      cnt ≤ 4096 →
      (vecRead n 3 q ((s.chip.pop n 2 l).poolData n q) (packedLen fmt cnt)).run (s.chip.pop n 2 l) = (.ok (a, b, z), c1) →
      (∀ i < cnt, -2147483648 ≤ sx 32 (elemAt fmt a i) * sx 32 (elemAt fmt b i) + sx 32 (elemAt fmt z i) ∧ sx 32 (elemAt fmt a i) * sx 32 (elemAt fmt b i) + sx 32 (elemAt fmt z i) ≤ 2147483647) →
      (operandWrite n q.dst [(0, packElems fmt ((List.range cnt).map (fun i => ux 32 (sx 32 (elemAt fmt a i) * sx 32 (elemAt fmt b i) + sx 32 (elemAt fmt z i)))))]).run c1 = (.ok (), c2) →
      exec (.vfma n) s = .next { s with chip := Chip.settle ((c2.issued n q).advance n) }) ∧
  (∀ (s : State) (n cnt fmt : Nat) (q : TileIns) (l : List TileIns) (a b z : List Byte) (c1 c2 : Chip),
      s.chip.headIs n 2 0x23 q l →
      tiFmtA q.bytes = fmt →
      fmt = 0xA ∨ fmt = 0xC →
      tiImm q.bytes = cnt →
      1 ≤ cnt →
      cnt ≤ 4096 →
      (vecRead n 2 q ((s.chip.pop n 2 l).poolData n q) (packedLen fmt cnt)).run (s.chip.pop n 2 l) = (.ok (a, b, z), c1) →
      (operandWrite n q.dst [(0, packElems fmt ((List.range cnt).map (fun i => vecBits fmt (fminmax false (elemVal fmt (elemAt fmt a i)) (elemVal fmt (elemAt fmt b i))))))]).run c1 = (.ok (), c2) →
      exec (.vmin n) s = .next { s with chip := Chip.settle ((c2.issued n q).advance n) }) ∧
  (∀ (s : State) (n cnt fmt : Nat) (q : TileIns) (l : List TileIns) (a b z : List Byte) (c1 c2 : Chip),
      s.chip.headIs n 2 0x23 q l →
      tiFmtA q.bytes = fmt →
      fmt = 0xD →
      tiImm q.bytes = cnt →
      1 ≤ cnt →
      cnt ≤ 4096 →
      (vecRead n 2 q ((s.chip.pop n 2 l).poolData n q) (packedLen fmt cnt)).run (s.chip.pop n 2 l) = (.ok (a, b, z), c1) →
      (∀ i < cnt, -2147483648 ≤ min (sx 32 (elemAt fmt a i)) (sx 32 (elemAt fmt b i)) ∧ min (sx 32 (elemAt fmt a i)) (sx 32 (elemAt fmt b i)) ≤ 2147483647) →
      (operandWrite n q.dst [(0, packElems fmt ((List.range cnt).map (fun i => ux 32 (min (sx 32 (elemAt fmt a i)) (sx 32 (elemAt fmt b i))))))]).run c1 = (.ok (), c2) →
      exec (.vmin n) s = .next { s with chip := Chip.settle ((c2.issued n q).advance n) }) ∧
  (∀ (s : State) (n cnt fmt : Nat) (q : TileIns) (l : List TileIns) (a b z : List Byte) (c1 c2 : Chip),
      s.chip.headIs n 2 0x24 q l →
      tiFmtA q.bytes = fmt →
      fmt = 0xA ∨ fmt = 0xC →
      tiImm q.bytes = cnt →
      1 ≤ cnt →
      cnt ≤ 4096 →
      (vecRead n 2 q ((s.chip.pop n 2 l).poolData n q) (packedLen fmt cnt)).run (s.chip.pop n 2 l) = (.ok (a, b, z), c1) →
      (operandWrite n q.dst [(0, packElems fmt ((List.range cnt).map (fun i => vecBits fmt (fminmax true (elemVal fmt (elemAt fmt a i)) (elemVal fmt (elemAt fmt b i))))))]).run c1 = (.ok (), c2) →
      exec (.vmax n) s = .next { s with chip := Chip.settle ((c2.issued n q).advance n) }) ∧
  (∀ (s : State) (n cnt fmt : Nat) (q : TileIns) (l : List TileIns) (a b z : List Byte) (c1 c2 : Chip),
      s.chip.headIs n 2 0x24 q l →
      tiFmtA q.bytes = fmt →
      fmt = 0xD →
      tiImm q.bytes = cnt →
      1 ≤ cnt →
      cnt ≤ 4096 →
      (vecRead n 2 q ((s.chip.pop n 2 l).poolData n q) (packedLen fmt cnt)).run (s.chip.pop n 2 l) = (.ok (a, b, z), c1) →
      (∀ i < cnt, -2147483648 ≤ max (sx 32 (elemAt fmt a i)) (sx 32 (elemAt fmt b i)) ∧ max (sx 32 (elemAt fmt a i)) (sx 32 (elemAt fmt b i)) ≤ 2147483647) →
      (operandWrite n q.dst [(0, packElems fmt ((List.range cnt).map (fun i => ux 32 (max (sx 32 (elemAt fmt a i)) (sx 32 (elemAt fmt b i))))))]).run c1 = (.ok (), c2) →
      exec (.vmax n) s = .next { s with chip := Chip.settle ((c2.issued n q).advance n) })

/-- As for the arithmetic operations: the head of the vector queue reads its sources and writes one result for
each of its 1 to 4,096 elements. VEXP, VRCP, VRSQ and VTANH write the function of R115 applied to the element,
where the accuracy bound leaves a choice a free value takes it, and round it once more to BF16 in that format.
The results of VCMP are free values of the element width, and VSEL takes each element from its first or its
second source as a free value says: the spec states neither the predicate nor the selector, so these two
clauses are the model's choice (log 21). One free value is drawn for each element. -/
def Obligations.VectorFunctions : Prop :=
  (∀ (s : State) (n cnt fmt : Nat) (q : TileIns) (l : List TileIns) (a b z : List Byte) (c1 c2 : Chip),
      s.chip.headIs n 2 0x25 q l →
      tiFmtA q.bytes = fmt →
      fmt = 0xA ∨ fmt = 0xC ∨ fmt = 0xD →
      tiImm q.bytes = cnt →
      1 ≤ cnt →
      cnt ≤ 4096 →
      (vecRead n 2 q ((s.chip.pop n 2 l).poolData n q) (packedLen fmt cnt)).run (s.chip.pop n 2 l) = (.ok (a, b, z), c1) →
      (operandWrite n q.dst [(0, packElems fmt ((List.range cnt).map (fun i => (Config.freeValue (c1.free + i)).toNat % 2 ^ elemBits fmt)))]).run { c1 with free := c1.free + cnt } = (.ok (), c2) →
      exec (.vcmp n) s = .next { s with chip := Chip.settle ((c2.issued n q).advance n) }) ∧
  (∀ (s : State) (n cnt fmt : Nat) (q : TileIns) (l : List TileIns) (a b z : List Byte) (c1 c2 : Chip),
      s.chip.headIs n 2 0x26 q l →
      tiFmtA q.bytes = fmt →
      fmt = 0xA ∨ fmt = 0xC ∨ fmt = 0xD →
      tiImm q.bytes = cnt →
      1 ≤ cnt →
      cnt ≤ 4096 →
      (vecRead n 3 q ((s.chip.pop n 2 l).poolData n q) (packedLen fmt cnt)).run (s.chip.pop n 2 l) = (.ok (a, b, z), c1) →
      (operandWrite n q.dst [(0, packElems fmt ((List.range cnt).map (fun i => if (Config.freeValue (c1.free + i)).toNat % 2 = 1 then elemAt fmt a i else elemAt fmt b i)))]).run { c1 with free := c1.free + cnt } = (.ok (), c2) →
      exec (.vsel n) s = .next { s with chip := Chip.settle ((c2.issued n q).advance n) }) ∧
  (∀ (s : State) (n cnt fmt : Nat) (q : TileIns) (l : List TileIns) (a b z : List Byte) (c1 c2 : Chip),
      s.chip.headIs n 2 0x28 q l →
      tiFmtA q.bytes = fmt →
      fmt = 0xA ∨ fmt = 0xC →
      tiImm q.bytes = cnt →
      1 ≤ cnt →
      cnt ≤ 4096 →
      (vecRead n 1 q ((s.chip.pop n 2 l).poolData n q) (packedLen fmt cnt)).run (s.chip.pop n 2 l) = (.ok (a, b, z), c1) →
      (operandWrite n q.dst [(0, packElems fmt ((List.range cnt).map (fun i => if fmt = 0xA then bf16.encode .rne false (fp32.decode (expF (elemVal fmt (elemAt fmt a i)) (Config.freeValue (c1.free + i)).toNat)) else expF (elemVal fmt (elemAt fmt a i)) (Config.freeValue (c1.free + i)).toNat)))]).run { c1 with free := c1.free + cnt } = (.ok (), c2) →
      exec (.vexp n) s = .next { s with chip := Chip.settle ((c2.issued n q).advance n) }) ∧
  (∀ (s : State) (n cnt fmt : Nat) (q : TileIns) (l : List TileIns) (a b z : List Byte) (c1 c2 : Chip),
      s.chip.headIs n 2 0x29 q l →
      tiFmtA q.bytes = fmt →
      fmt = 0xA ∨ fmt = 0xC →
      tiImm q.bytes = cnt →
      1 ≤ cnt →
      cnt ≤ 4096 →
      (vecRead n 1 q ((s.chip.pop n 2 l).poolData n q) (packedLen fmt cnt)).run (s.chip.pop n 2 l) = (.ok (a, b, z), c1) →
      (operandWrite n q.dst [(0, packElems fmt ((List.range cnt).map (fun i => if fmt = 0xA then bf16.encode .rne false (fp32.decode (rcpF (elemVal fmt (elemAt fmt a i)) (Config.freeValue (c1.free + i)).toNat)) else rcpF (elemVal fmt (elemAt fmt a i)) (Config.freeValue (c1.free + i)).toNat)))]).run { c1 with free := c1.free + cnt } = (.ok (), c2) →
      exec (.vrcp n) s = .next { s with chip := Chip.settle ((c2.issued n q).advance n) }) ∧
  (∀ (s : State) (n cnt fmt : Nat) (q : TileIns) (l : List TileIns) (a b z : List Byte) (c1 c2 : Chip),
      s.chip.headIs n 2 0x2A q l →
      tiFmtA q.bytes = fmt →
      fmt = 0xA ∨ fmt = 0xC →
      tiImm q.bytes = cnt →
      1 ≤ cnt →
      cnt ≤ 4096 →
      (vecRead n 1 q ((s.chip.pop n 2 l).poolData n q) (packedLen fmt cnt)).run (s.chip.pop n 2 l) = (.ok (a, b, z), c1) →
      (operandWrite n q.dst [(0, packElems fmt ((List.range cnt).map (fun i => if fmt = 0xA then bf16.encode .rne false (fp32.decode (rsqF (elemVal fmt (elemAt fmt a i)) (Config.freeValue (c1.free + i)).toNat)) else rsqF (elemVal fmt (elemAt fmt a i)) (Config.freeValue (c1.free + i)).toNat)))]).run { c1 with free := c1.free + cnt } = (.ok (), c2) →
      exec (.vrsq n) s = .next { s with chip := Chip.settle ((c2.issued n q).advance n) }) ∧
  (∀ (s : State) (n cnt fmt : Nat) (q : TileIns) (l : List TileIns) (a b z : List Byte) (c1 c2 : Chip),
      s.chip.headIs n 2 0x2B q l →
      tiFmtA q.bytes = fmt →
      fmt = 0xA ∨ fmt = 0xC →
      tiImm q.bytes = cnt →
      1 ≤ cnt →
      cnt ≤ 4096 →
      (vecRead n 1 q ((s.chip.pop n 2 l).poolData n q) (packedLen fmt cnt)).run (s.chip.pop n 2 l) = (.ok (a, b, z), c1) →
      (operandWrite n q.dst [(0, packElems fmt ((List.range cnt).map (fun i => if fmt = 0xA then bf16.encode .rne false (fp32.decode (tanhF (elemVal fmt (elemAt fmt a i)) (Config.freeValue (c1.free + i)).toNat)) else tanhF (elemVal fmt (elemAt fmt a i)) (Config.freeValue (c1.free + i)).toNat)))]).run { c1 with free := c1.free + cnt } = (.ok (), c2) →
      exec (.vtanh n) s = .next { s with chip := Chip.settle ((c2.issued n q).advance n) })

/-- The head of the vector queue with opcode VRED and 1 to 4,096 elements writes one element: for RED 0 in INT32
the exact sum, where it fits 32 bits; in BF16 and FP32 the sum, where every order of adding gives the same;
for RED 1 the largest and for RED 2 the smallest element. The order-dependent sum, which the spec leaves open,
is a free value and no part of this statement (log 21). -/
def Obligations.VectorReduction : Prop :=
  (∀ (s : State) (n cnt fmt r : Nat) (q : TileIns) (l : List TileIns) (b : List Byte) (c1 c2 : Chip),
      s.chip.headIs n 2 0x32 q l →
      tiFmtA q.bytes = fmt →
      fmt = 0xD →
      tiRed q.bytes = 0 →
      tiImm q.bytes = cnt →
      1 ≤ cnt →
      cnt ≤ 4096 →
      (operandRead n ((s.chip.pop n 2 l).poolData n q) q.a 0 (packedLen fmt cnt)).run (s.chip.pop n 2 l) = (.ok b, c1) →
      -2147483648 ≤ (((List.range cnt).map (elemAt fmt b)).map (sx 32)).foldl (· + ·) 0 ∧ (((List.range cnt).map (elemAt fmt b)).map (sx 32)).foldl (· + ·) 0 ≤ 2147483647 →
      (operandWrite n q.dst [(0, packElems fmt [ux 32 ((((List.range cnt).map (elemAt fmt b)).map (sx 32)).foldl (· + ·) 0)])]).run c1 = (.ok (), c2) →
      exec (.vred n) s = .next { s with chip := Chip.settle ((c2.issued n q).advance n) }) ∧
  (∀ (s : State) (n cnt fmt r : Nat) (q : TileIns) (l : List TileIns) (b : List Byte) (c1 c2 : Chip),
      s.chip.headIs n 2 0x32 q l →
      tiFmtA q.bytes = fmt →
      fmt = 0xA ∨ fmt = 0xC →
      tiRed q.bytes = 0 →
      tiImm q.bytes = cnt →
      1 ≤ cnt →
      cnt ≤ 4096 →
      (operandRead n ((s.chip.pop n 2 l).poolData n q) q.a 0 (packedLen fmt cnt)).run (s.chip.pop n 2 l) = (.ok b, c1) →
      (sumAnyOrder (((List.range cnt).map (elemAt fmt b)).map (elemVal fmt))).map (vecBits fmt) = some r →
      (operandWrite n q.dst [(0, packElems fmt [r])]).run c1 = (.ok (), c2) →
      exec (.vred n) s = .next { s with chip := Chip.settle ((c2.issued n q).advance n) }) ∧
  (∀ (s : State) (n cnt fmt r : Nat) (q : TileIns) (l : List TileIns) (b : List Byte) (c1 c2 : Chip),
      s.chip.headIs n 2 0x32 q l →
      tiFmtA q.bytes = fmt →
      fmt = 0xD →
      tiRed q.bytes = 1 →
      tiImm q.bytes = cnt →
      1 ≤ cnt →
      cnt ≤ 4096 →
      (operandRead n ((s.chip.pop n 2 l).poolData n q) q.a 0 (packedLen fmt cnt)).run (s.chip.pop n 2 l) = (.ok b, c1) →
      (operandWrite n q.dst [(0, packElems fmt [ux 32 ((((List.range cnt).map (elemAt fmt b)).map (sx 32)).foldl max ((((List.range cnt).map (elemAt fmt b)).map (sx 32)).headD 0))])]).run c1 = (.ok (), c2) →
      exec (.vred n) s = .next { s with chip := Chip.settle ((c2.issued n q).advance n) }) ∧
  (∀ (s : State) (n cnt fmt r : Nat) (q : TileIns) (l : List TileIns) (b : List Byte) (c1 c2 : Chip),
      s.chip.headIs n 2 0x32 q l →
      tiFmtA q.bytes = fmt →
      fmt = 0xD →
      tiRed q.bytes = 2 →
      tiImm q.bytes = cnt →
      1 ≤ cnt →
      cnt ≤ 4096 →
      (operandRead n ((s.chip.pop n 2 l).poolData n q) q.a 0 (packedLen fmt cnt)).run (s.chip.pop n 2 l) = (.ok b, c1) →
      (operandWrite n q.dst [(0, packElems fmt [ux 32 ((((List.range cnt).map (elemAt fmt b)).map (sx 32)).foldl min ((((List.range cnt).map (elemAt fmt b)).map (sx 32)).headD 0))])]).run c1 = (.ok (), c2) →
      exec (.vred n) s = .next { s with chip := Chip.settle ((c2.issued n q).advance n) }) ∧
  (∀ (s : State) (n cnt fmt r : Nat) (q : TileIns) (l : List TileIns) (b : List Byte) (c1 c2 : Chip),
      s.chip.headIs n 2 0x32 q l →
      tiFmtA q.bytes = fmt →
      fmt = 0xA ∨ fmt = 0xC →
      tiRed q.bytes = 1 →
      tiImm q.bytes = cnt →
      1 ≤ cnt →
      cnt ≤ 4096 →
      (operandRead n ((s.chip.pop n 2 l).poolData n q) q.a 0 (packedLen fmt cnt)).run (s.chip.pop n 2 l) = (.ok b, c1) →
      (operandWrite n q.dst [(0, packElems fmt [vecBits fmt ((((List.range cnt).map (elemAt fmt b)).map (elemVal fmt)).foldl (fminmax true) .nan)])]).run c1 = (.ok (), c2) →
      exec (.vred n) s = .next { s with chip := Chip.settle ((c2.issued n q).advance n) }) ∧
  (∀ (s : State) (n cnt fmt r : Nat) (q : TileIns) (l : List TileIns) (b : List Byte) (c1 c2 : Chip),
      s.chip.headIs n 2 0x32 q l →
      tiFmtA q.bytes = fmt →
      fmt = 0xA ∨ fmt = 0xC →
      tiRed q.bytes = 2 →
      tiImm q.bytes = cnt →
      1 ≤ cnt →
      cnt ≤ 4096 →
      (operandRead n ((s.chip.pop n 2 l).poolData n q) q.a 0 (packedLen fmt cnt)).run (s.chip.pop n 2 l) = (.ok b, c1) →
      (operandWrite n q.dst [(0, packElems fmt [vecBits fmt ((((List.range cnt).map (elemAt fmt b)).map (elemVal fmt)).foldl (fminmax false) .nan)])]).run c1 = (.ok (), c2) →
      exec (.vred n) s = .next { s with chip := Chip.settle ((c2.issued n q).advance n) })

/-- The head of a unit's queue that R120 lets issue. MMA with a pair of formats that R99 lists merges the chunk of
each array of its mask, in ascending order. ACC_ZERO clears the accumulators of the arrays of its mask and no
others. ACC_READ writes 256 bytes of each array of its mask, in ascending order and packed. ACC_LOAD loads
them. VREQ converts, for each channel, the input element times its scale plus its bias, rounded to FP32 at
each step, with the zero points of an integer output format and the clamp where MODE asks for it; VCVT
converts each element, its block scale applied where the input is a microscaled format. The instruction issues
and decode goes on. -/
def Obligations.ArrayAndConversion : Prop :=
  (∀ (s : State) (n : Nat) (q : TileIns) (l : List TileIns) (clocks : Nat) (int : Bool) (c2 : Chip),
      s.chip.headIs n 1 0x10 q l →
      pairInfo (tiFmtA q.bytes) (tiFmtB q.bytes) = some (clocks, int) →
      (mmaArrays n q ((s.chip.pop n 1 l).poolData n q) clocks int (tiArrays q.bytes)).run (s.chip.pop n 1 l) = (.ok (), c2) →
      exec (.mma n) s = .next { s with chip := Chip.settle ((c2.issued n q).advance n) }) ∧
  (∀ (s : State) (n : Nat) (q : TileIns) (l : List TileIns) ,
      s.chip.headIs n 1 0x11 q l →
      exec (.accZero n) s = .next { s with chip := Chip.settle ((((s.chip.pop n 1 l).updTile n (fun t => { t with accs := t.accs.filter (fun p => !(tiArrays q.bytes).contains (p.1 / 64)) })).issued n q).advance n) }) ∧
  (∀ (s : State) (n : Nat) (q : TileIns) (l : List TileIns) (c2 : Chip),
      s.chip.headIs n 1 0x12 q l →
      (operandWrite n q.dst [(0, (tiArrays q.bytes).flatMap (fun j => ((s.chip.pop n 1 l).tile n).accBytes (256 * j) 256))]).run (s.chip.pop n 1 l) = (.ok (), c2) →
      exec (.accRead n) s = .next { s with chip := Chip.settle ((c2.issued n q).advance n) }) ∧
  (∀ (s : State) (n : Nat) (q : TileIns) (l : List TileIns) (c2 : Chip),
      s.chip.headIs n 1 0x13 q l →
      (accLoadArrays n q ((s.chip.pop n 1 l).poolData n q) (tiArrays q.bytes) 0).run (s.chip.pop n 1 l) = (.ok (), c2) →
      exec (.accLoad n) s = .next { s with chip := Chip.settle ((c2.issued n q).advance n) }) ∧
  (∀ (s : State) (n : Nat) (q : TileIns) (l : List TileIns) (fi fo cnt : Nat) (x sb zt : List Byte) (c0 c1 c3 c2 : Chip),
      s.chip.headIs n 2 0x30 q l →
      tiFmtA q.bytes = fi →
      fi = 0xC ∨ fi = 0xD →
      tiFmtB q.bytes = fo →
      fmtOk fo = true →
      tiImm q.bytes % 2 ^ 16 = cnt →
      ((floatFmt fo).isNone && !isMx fo) = false →
      (operandRead n ((s.chip.pop n 2 l).poolData n q) q.a 0 (4 * cnt)).run (s.chip.pop n 2 l) = (.ok x, c0) →
      (operandRead n ((s.chip.pop n 2 l).poolData n q) q.c 0 (8 * cnt)).run c0 = (.ok sb, c1) →
      zt = [] ∧ c3 = c1 →
      (convertAll n q (if tiClamp q.bytes then some (sx 32 (tiExt q.bytes), sx 32 (tiExt q.bytes / 2 ^ 32)) else none) (fun i => sx 32 (bytesU zt (4 * i) 4)) ((List.range cnt).map (fun i => f32 (fadd (fmul (f32 (elemVal fi (elemAt fi x i))) (fp32.decode (bytesU sb (4 * i) 4))) (fp32.decode (bytesU sb (4 * cnt + 4 * i) 4)))))).run c3 = (.ok (), c2) →
      exec (.vreq n) s = .next { s with chip := Chip.settle ((c2.issued n q).advance n) }) ∧
  (∀ (s : State) (n : Nat) (q : TileIns) (l : List TileIns) (fi fo cnt : Nat) (x sb zt : List Byte) (c0 c1 c3 c2 : Chip),
      s.chip.headIs n 2 0x30 q l →
      tiFmtA q.bytes = fi →
      fi = 0xC ∨ fi = 0xD →
      tiFmtB q.bytes = fo →
      fmtOk fo = true →
      tiImm q.bytes % 2 ^ 16 = cnt →
      ((floatFmt fo).isNone && !isMx fo) = true →
      (operandRead n ((s.chip.pop n 2 l).poolData n q) q.a 0 (4 * cnt)).run (s.chip.pop n 2 l) = (.ok x, c0) →
      (operandRead n ((s.chip.pop n 2 l).poolData n q) q.c 0 (8 * cnt)).run c0 = (.ok sb, c1) →
      (operandRead n ((s.chip.pop n 2 l).poolData n q) q.c (8 * cnt) (4 * cnt)).run c1 = (.ok zt, c3) →
      (convertAll n q (if tiClamp q.bytes then some (sx 32 (tiExt q.bytes), sx 32 (tiExt q.bytes / 2 ^ 32)) else none) (fun i => sx 32 (bytesU zt (4 * i) 4)) ((List.range cnt).map (fun i => f32 (fadd (fmul (f32 (elemVal fi (elemAt fi x i))) (fp32.decode (bytesU sb (4 * i) 4))) (fp32.decode (bytesU sb (4 * cnt + 4 * i) 4)))))).run c3 = (.ok (), c2) →
      exec (.vreq n) s = .next { s with chip := Chip.settle ((c2.issued n q).advance n) }) ∧
  (∀ (s : State) (n : Nat) (q : TileIns) (l : List TileIns) (fi cnt : Nat) (x sc : List Byte) (c1 c3 c2 : Chip),
      s.chip.headIs n 2 0x31 q l →
      tiFmtA q.bytes = fi →
      fmtOk fi = true →
      fmtOk (tiFmtB q.bytes) = true →
      tiImm q.bytes = cnt →
      1 ≤ cnt →
      cnt ≤ 4096 →
      isMx fi = false →
      (operandRead n ((s.chip.pop n 2 l).poolData n q) q.a 0 (packedLen fi cnt)).run (s.chip.pop n 2 l) = (.ok x, c1) →
      sc = [] ∧ c3 = c1 →
      (convertAll n q none (fun _ => 0) ((List.range cnt).map (fun i =>
        let v := elemVal fi (elemAt fi x i)
        if isMx fi then
          match e8m0 (bytesU sc (i / 32) 1), v with
          | some k, .fin s m e => f32 (.fin s m (e + k - (if fi = 9 then 6 else 0)))
          | some _, v => v
          | none, _ => .nan
        else f32 v))).run c3 = (.ok (), c2) →
      exec (.vcvt n) s = .next { s with chip := Chip.settle ((c2.issued n q).advance n) }) ∧
  (∀ (s : State) (n : Nat) (q : TileIns) (l : List TileIns) (fi cnt : Nat) (x sc : List Byte) (c1 c3 c2 : Chip),
      s.chip.headIs n 2 0x31 q l →
      tiFmtA q.bytes = fi →
      fmtOk fi = true →
      fmtOk (tiFmtB q.bytes) = true →
      tiImm q.bytes = cnt →
      1 ≤ cnt →
      cnt ≤ 4096 →
      isMx fi = true →
      (operandRead n ((s.chip.pop n 2 l).poolData n q) q.a 0 (packedLen fi cnt)).run (s.chip.pop n 2 l) = (.ok x, c1) →
      (operandRead n ((s.chip.pop n 2 l).poolData n q) q.a (64 * bitsOf (tiExt q.bytes) 63 52) ((cnt + 31) / 32)).run c1 = (.ok sc, c3) →
      (convertAll n q none (fun _ => 0) ((List.range cnt).map (fun i =>
        let v := elemVal fi (elemAt fi x i)
        if isMx fi then
          match e8m0 (bytesU sc (i / 32) 1), v with
          | some k, .fin s m e => f32 (.fin s m (e + k - (if fi = 9 then 6 else 0)))
          | some _, v => v
          | none, _ => .nan
        else f32 v))).run c3 = (.ok (), c2) →
      exec (.vcvt n) s = .next { s with chip := Chip.settle ((c2.issued n q).advance n) })

/-- At decode of a running tile, with every tag the instruction waits for ready: NOP goes to the next instruction.
LOOP with fewer than four levels open and a count from 1 to 1,048,576 opens a level that starts at the next
instruction, with that count and the three increments of EXT; a fifth level faults with LOOP_DEPTH. ENDLOOP in
an iteration that is not the last goes back to the level's start for the next, in the last closes the level.
BRANCH goes to the target of IMM, and faults with IBUF_RANGE past the program. END with every queue empty and
the units idle ends the program and the tile stands idle; BARRIER then goes on; both wait otherwise. -/
def Obligations.TileControl : Prop :=
  (∀ (s : State) (n : Nat) (b : List Byte),
      s.chip.controlIs n 0 b →
      exec (.tileNop n) s = .next { s with chip := Chip.settle (s.chip.controlled n b { s.chip.tile n with pc := (s.chip.tile n).pc + 1, lastDecoded := (s.chip.tile n).pc }) }) ∧
  (∀ (s : State) (n : Nat) (b : List Byte),
      s.chip.controlIs n 1 b →
      (s.chip.tile n).loops.length < 4 →
      1 ≤ tiImm b →
      tiImm b ≤ 1048576 →
      exec (.tileLoop n) s = .next { s with chip := Chip.settle (s.chip.controlled n b { s.chip.tile n with pc := (s.chip.tile n).pc + 1, lastDecoded := (s.chip.tile n).pc, loops := (s.chip.tile n).loops ++ [{ start := (s.chip.tile n).pc + 1, count := tiImm b, incDst := sx 16 (tiExt b), incA := sx 16 (tiExt b / 2 ^ 16), incB := sx 16 (tiExt b / 2 ^ 32) }] }) }) ∧
  (∀ (s : State) (n : Nat) (b : List Byte),
      s.chip.controlIs n 1 b →
      4 ≤ (s.chip.tile n).loops.length →
      exec (.tileLoop n) s = .next { s with chip := Chip.settle (s.chip.tileFault n tfLoopDepth (s.chip.tile n).pc) }) ∧
  (∀ (s : State) (n : Nat) (b : List Byte) (v : LoopLevel),
      s.chip.controlIs n 2 b →
      (s.chip.tile n).loops.getLast? = some v →
      v.index + 1 < v.count →
      exec (.endLoop n) s = .next { s with chip := Chip.settle (s.chip.controlled n b { s.chip.tile n with pc := v.start, lastDecoded := (s.chip.tile n).pc, loops := (s.chip.tile n).loops.dropLast ++ [{ v with index := v.index + 1 }] }) }) ∧
  (∀ (s : State) (n : Nat) (b : List Byte) (v : LoopLevel),
      s.chip.controlIs n 2 b →
      (s.chip.tile n).loops.getLast? = some v →
      v.count ≤ v.index + 1 →
      exec (.endLoop n) s = .next { s with chip := Chip.settle (s.chip.controlled n b { s.chip.tile n with pc := (s.chip.tile n).pc + 1, lastDecoded := (s.chip.tile n).pc, loops := (s.chip.tile n).loops.dropLast }) }) ∧
  (∀ (s : State) (n : Nat) (b : List Byte),
      s.chip.controlIs n 3 b →
      tiImm b % 1024 < (s.chip.tile n).codeCount →
      exec (.tileBranch n) s = .next { s with chip := Chip.settle (s.chip.controlled n b { s.chip.tile n with pc := tiImm b % 1024, lastDecoded := (s.chip.tile n).pc }) }) ∧
  (∀ (s : State) (n : Nat) (b : List Byte),
      s.chip.controlIs n 3 b →
      (s.chip.tile n).codeCount ≤ tiImm b % 1024 →
      exec (.tileBranch n) s = .next { s with chip := Chip.settle (s.chip.tileFault n tfIbufRange (s.chip.tile n).pc) }) ∧
  (∀ (s : State) (n : Nat) (b : List Byte),
      s.chip.controlIs n 4 b →
      (s.chip.tile n).idle = true →
      ((s.chip.controlled n b { s.chip.tile n with pc := (s.chip.tile n).pc + 1, lastDecoded := (s.chip.tile n).pc, ended := true }).tile n).ended = true →
      exec (.tileEnd n) s = .next { s with chip := Chip.settle ((s.chip.controlled n b { s.chip.tile n with pc := (s.chip.tile n).pc + 1, lastDecoded := (s.chip.tile n).pc, ended := true }).setTileState n tsIdle) }) ∧
  (∀ (s : State) (n : Nat) (b : List Byte),
      s.chip.controlIs n 5 b →
      (s.chip.tile n).idle = true →
      exec (.tileBarrier n) s = .next { s with chip := Chip.settle (s.chip.controlled n b { s.chip.tile n with pc := (s.chip.tile n).pc + 1, lastDecoded := (s.chip.tile n).pc }) }) ∧
  (∀ (s : State) (n : Nat) (b : List Byte),
      s.chip.controlIs n 5 b →
      (s.chip.tile n).idle = false →
      exec (.tileBarrier n) s = .next { s with chip := Chip.settle (s.chip) })

/-- The head of the move queue that R120 lets issue: MOVE copies IMM bytes from its source to its destination;
SEND writes IMM bytes through the mesh with the group's master and the job's tag; SYNC_ADD adds IMM to the
object of EXT, which must lie in the slice's range; SYNC_WAIT on an object without the error bit makes the
wait, met at once where the count stands at its threshold. A met wait of a tile makes its tag READY, or faults
with DEPENDENCY on the error bit. The oldest executing instruction of a unit completes and its pending tag
becomes READY. A block that was asked for and read without error enters the instruction buffer; one whose read
fails faults with ACCESS or UNCORRECTABLE. A running tile that has made no progress for its limit faults with
HANG, and no sooner. -/
def Obligations.TileMovesAndSyncs : Prop :=
  (∀ (s : State) (n : Nat) (q : TileIns) (l : List TileIns) (x : List Byte) (c1 c2 : Chip),
      s.chip.headIs n 3 0x40 q l →
      (operandRead n ((s.chip.pop n 3 l).poolData n q) q.a 0 (tiImm q.bytes)).run (s.chip.pop n 3 l) = (.ok x, c1) →
      (operandWrite n q.dst [(0, x)]).run c1 = (.ok (), c2) →
      exec (.moveTile n) s = .next { s with chip := Chip.settle ((c2.issued n q).advance n) }) ∧
  (∀ (s : State) (n : Nat) (q : TileIns) (l : List TileIns) (x : List Byte) (k : Nat) (c1 c2 : Chip),
      s.chip.headIs n 3 0x41 q l →
      (operandRead n ((s.chip.pop n 3 l).poolData n q) q.a 0 (tiImm q.bytes)).run (s.chip.pop n 3 l) = (.ok x, c1) →
      c1.saveRange (groupMaster (n / 16)) (c1.tile n).slice (tiExt q.bytes % 2 ^ 48) x (c1.tile n).cls = (.ok, k, c2) →
      exec (.sendTile n) s = .next { s with chip := Chip.settle ((c2.issued n q).advance n) }) ∧
  (∀ (s : State) (n : Nat) (q : TileIns) (l : List TileIns) ,
      s.chip.headIs n 3 0x42 q l →
      s.chip.tileSync n (tiExt q.bytes % 2 ^ 16) = true →
      (s.chip.pop n 3 l).tileSync n (tiExt q.bytes % 2 ^ 16) = s.chip.tileSync n (tiExt q.bytes % 2 ^ 16) →
      exec (.tileSyncAdd n) s = .next { s with chip := Chip.settle ((((s.chip.pop n 3 l).unitSignal (tiExt q.bytes % 2 ^ 16) (.add (tiImm q.bytes)) true).issued n q).advance n) }) ∧
  (∀ (s : State) (n : Nat) (q : TileIns) (l : List TileIns) ,
      s.chip.headIs n 3 0x43 q l →
      (s.chip.pop n 3 l).tileSync n (tiExt q.bytes % 2 ^ 16) = true →
      syncErr (s.chip.sync (tiExt q.bytes % 2 ^ 16)) = false →
      let c := (s.chip.pop n 3 l).updTile n (fun t => { t with waits := t.waits ++ [{ obj := tiExt q.bytes % 2 ^ 16, threshold := tiExt q.bytes / 2 ^ 16, tag := tiSetTag q.bytes, pc := q.pc }] })
      exec (.tileSyncWait n) s = .next { s with chip := Chip.settle ((Chip.issued { c with unitWaits := c.unitWaits ++ [{ who := .tile n, obj := tiExt q.bytes % 2 ^ 16, threshold := tiExt q.bytes / 2 ^ 16, met := decide (tiExt q.bytes / 2 ^ 16 ≤ syncCount (c.sync (tiExt q.bytes % 2 ^ 16))) }] } n q).advance n) }) ∧
  (∀ (s : State) (n i k : Nat) (w : UnitWait) (x : TileWait),
      s.chip.tileRuns n = true →
      s.chip.unitWaits.findIdx? (fun w => w.who == Waiter.tile n && w.met) = some i →
      s.chip.unitWaits[i]? = some w →
      w.err = false →
      (s.chip.tile n).waits.findIdx? (fun y => y.obj == w.obj && y.threshold == w.threshold) = some k →
      (s.chip.tile n).waits[k]? = some x →
      let t := { s.chip.tile n with waits := (s.chip.tile n).waits.eraseIdx k, progress := s.chip.now }
      exec (.tileSyncWaitMet n) s = .next { s with chip := Chip.settle ((Chip.setTile { s.chip with unitWaits := s.chip.unitWaits.eraseIdx i } n (match x.tag with | some g => t.setEntry g sbReady | none => t)).advance n) }) ∧
  (∀ (s : State) (n i k : Nat) (w : UnitWait) (x : TileWait),
      s.chip.tileRuns n = true →
      s.chip.unitWaits.findIdx? (fun w => w.who == Waiter.tile n && w.met) = some i →
      s.chip.unitWaits[i]? = some w →
      w.err = true →
      (s.chip.tile n).waits.findIdx? (fun y => y.obj == w.obj && y.threshold == w.threshold) = some k →
      (s.chip.tile n).waits[k]? = some x →
      exec (.tileSyncWaitMet n) s = .next { s with chip := Chip.settle (Chip.tileFault { s.chip with unitWaits := s.chip.unitWaits.eraseIdx i } n tfDependency x.pc) }) ∧
  (∀ (s : State) (n u i : Nat) (tag : Option Nat),
      (s.chip.tile n).executing.findIdx? (fun e => e.1 == u) = some i →
      (s.chip.tile n).executing[i]? = some (u, tag) →
      let t := { s.chip.tile n with executing := (s.chip.tile n).executing.eraseIdx i, progress := s.chip.now }
      exec (.instructionComplete n u) s = .next { s with chip := Chip.settle (((s.chip.setTile n (match tag with | some k => if t.entry k = sbPending then t.setEntry k sbReady else t | none => t)).recordFault n).advance n) }) ∧
  (∀ (s : State) (n k : Nat) (m : Model) (x : List Byte) (c1 : Chip),
      s.chip.tileRuns n = true →
      (s.chip.tile n).wanted.contains k = true →
      AMap.get? s.chip.models (s.chip.tile n).model = some m →
      s.chip.imageRead m (groupMaster (n / 16)) (s.chip.tile n).slice ((s.chip.tile n).codeOfs + 4096 * k) (min 4096 (((s.chip.tile n).codeCount - 128 * k) * 32)) (s.chip.tile n).cls = (.ok, x, c1) →
      exec (.ibufFillDone n k) s = .next { s with chip := Chip.settle (((c1.tagPrefetch n (s.chip.tile n).slice).updTile n (fun t => { t with ibuf := AMap.set t.ibuf k x, wanted := t.wanted.filter (· != k) })).advance n) }) ∧
  (∀ (s : State) (n k : Nat) (m : Model) (x : List Byte) (c1 : Chip) (o : Served),
      s.chip.tileRuns n = true →
      (s.chip.tile n).wanted.contains k = true →
      AMap.get? s.chip.models (s.chip.tile n).model = some m →
      o ≠ .ok →
      s.chip.imageRead m (groupMaster (n / 16)) (s.chip.tile n).slice ((s.chip.tile n).codeOfs + 4096 * k) (min 4096 (((s.chip.tile n).codeCount - 128 * k) * 32)) (s.chip.tile n).cls = (o, x, c1) →
      exec (.ibufFillDone n k) s = .next { s with chip := Chip.settle (c1.tileFault n (if o = .denied then tfAccess else tfUncorrectable) (s.chip.tile n).pc) }) ∧
  (∀ (s : State) (n : Nat),
      s.chip.tileRuns n = true →
      s.chip.reg (TILE_HANG_LIMIT n) ≠ 0 →
      s.chip.reg (TILE_HANG_LIMIT n) * 1000 ≤ (s.chip.now - (s.chip.tile n).progress) * s.chip.groupMhz (n / 16) →
      exec (.tileHang n) s = .next { s with chip := Chip.settle (s.chip.tileFault n tfHang (s.chip.tile n).lastDecoded) }) ∧
  (∀ (s : State) (n : Nat),
      (s.chip.now - (s.chip.tile n).progress) * s.chip.groupMhz (n / 16) < s.chip.reg (TILE_HANG_LIMIT n) * 1000 →
      exec (.tileHang n) s = .next { s with chip := Chip.settle (s.chip) })

/-- An enabled Rill of a running tile that has no descriptor in progress and whose list has not ended, with the
next descriptor inside tile memory and read without error, of the row's mode, without fault, with its start
tag ready, its bound and done tags free or its own, and, when it takes its items from another Rill, with a
lower-numbered one that feeds it, starts that descriptor: it becomes the current one and is not done until its
requests have completed, its requests are made, and decode goes on. One clause for each of the nine modes. -/
def Obligations.RillModesStart : Prop :=
  (∀ (s : State) (n r : Nat) (b : List Byte) (c1 : Chip),
      s.chip.rillNext n r 0 b c1 →
      exec (.rillStrided n r) s = .next { s with chip := Chip.settle ((((c1.startDesc n r b).runRills n).showRill n r).advance n) }) ∧
  (∀ (s : State) (n r : Nat) (b : List Byte) (c1 : Chip),
      s.chip.rillNext n r 1 b c1 →
      exec (.rillGather n r) s = .next { s with chip := Chip.settle ((((c1.startDesc n r b).runRills n).showRill n r).advance n) }) ∧
  (∀ (s : State) (n r : Nat) (b : List Byte) (c1 : Chip),
      s.chip.rillNext n r 2 b c1 →
      exec (.rillScatter n r) s = .next { s with chip := Chip.settle ((((c1.startDesc n r b).runRills n).showRill n r).advance n) }) ∧
  (∀ (s : State) (n r : Nat) (b : List Byte) (c1 : Chip),
      s.chip.rillNext n r 3 b c1 →
      exec (.rillCsr n r) s = .next { s with chip := Chip.settle ((((c1.startDesc n r b).runRills n).showRill n r).advance n) }) ∧
  (∀ (s : State) (n r : Nat) (b : List Byte) (c1 : Chip),
      s.chip.rillNext n r 4 b c1 →
      exec (.rillCsc n r) s = .next { s with chip := Chip.settle ((((c1.startDesc n r b).runRills n).showRill n r).advance n) }) ∧
  (∀ (s : State) (n r : Nat) (b : List Byte) (c1 : Chip),
      s.chip.rillNext n r 5 b c1 →
      exec (.rillHashProbe n r) s = .next { s with chip := Chip.settle ((((c1.startDesc n r b).runRills n).showRill n r).advance n) }) ∧
  (∀ (s : State) (n r : Nat) (b : List Byte) (c1 : Chip),
      s.chip.rillNext n r 6 b c1 →
      exec (.rillSetIntersect n r) s = .next { s with chip := Chip.settle ((((c1.startDesc n r b).runRills n).showRill n r).advance n) }) ∧
  (∀ (s : State) (n r : Nat) (b : List Byte) (c1 : Chip),
      s.chip.rillNext n r 7 b c1 →
      exec (.rillNeighbour n r) s = .next { s with chip := Chip.settle ((((c1.startDesc n r b).runRills n).showRill n r).advance n) }) ∧
  (∀ (s : State) (n r : Nat) (b : List Byte) (c1 : Chip),
      s.chip.rillNext n r 8 b c1 →
      exec (.rillBucketNn n r) s = .next { s with chip := Chip.settle ((((c1.startDesc n r b).runRills n).showRill n r).advance n) })

/-- A response that names an issued read returns that line's bytes to the deliveries that asked for them; past the
reads, an issued write at the head of the Rill's writes is accepted by its target. The Rills then go on, and a
tile fault that waited for them is recorded. The tile queue issues, of the requests that wait for a channel
with a free slot, the one that has waited longest, and the Rills go on; with 256 requests at the channel, or
none waiting, nothing changes. A descriptor all of whose requests have been issued and have completed is done:
the result count is stored where the descriptor asks for it, and its done tag becomes READY. -/
def Obligations.RillResponses : Prop :=
  (∀ (s : State) (n r k i : Nat) (q : LineReq),
      (s.chip.rill n r).issuedReads[k]? = some i →
      (s.chip.rill n r).reqs[i]? = some q →
      exec (.rillResponse n r k) s = .next { s with chip := Chip.settle (((((rillReturn n r i q s.chip).runRills n).showRill n r).recordFault n).advance n) }) ∧
  (∀ (s : State) (n r k : Nat) (w : RillWrite) (l : List RillWrite),
      (s.chip.rill n r).issuedReads[k]? = none →
      (s.chip.rill n r).writes = w :: l →
      w.place = .issued →
      exec (.rillResponse n r k) s = .next { s with chip := Chip.settle (((((rillAccept n r w s.chip).runRills n).showRill n r).recordFault n).advance n) }) ∧
  (∀ (s : State) (n ch k : Nat) (l : List Nat),
      s.chip.channelLoad ch < 256 →
      s.chip.queuedFor n ch = k :: l →
      exec (.tileQueueRelease n ch) s = .next { s with chip := Chip.settle (((s.chip.issueTurn n ch (l.foldl min k)).showQueue n).runRills n) }) ∧
  (∀ (s : State) (n ch : Nat),
      256 ≤ s.chip.channelLoad ch ∨ s.chip.queuedFor n ch = [] →
      exec (.tileQueueRelease n ch) s = .next { s with chip := Chip.settle (s.chip) }) ∧
  (∀ (s : State) (n r : Nat) (d : RillDesc) (c1 : Chip),
      s.chip.tileRuns n = true →
      (s.chip.rill n r).finished = some d →
      d.writeCount n (s.chip.endDesc n r d.desc) = (.ok (), c1) →
      exec (.rillDescriptorDone n r) s = .next { s with chip := Chip.settle ((((d.markDone n c1).runRills n).showRill n r).advance n) })

/-- An active engine of a group that is neither busy nor stopped, whose current descriptor can be read, is of the
row's operation and is let go by its wait, stands RUNNING, carries the operation out, and is busy with the
descriptor; an empty output is remembered. One clause each for CONV_DESC, MAXPOOL, AVGPOOL, NOUGAT_IN,
NOUGAT_OUT and CROP_RESIZE. When a busy engine that is not stopped has carried out what is left of its
descriptor, the descriptor is done: the list goes on to the next, which DESC shows, or, at the last, ends and
the engine stands IDLE, and the descriptor's signal is added. A write of an engine's LFSR by slice tag 0 or
the tag of a slice with a tile in the group that passes the target's check loads it, 0 loading 1; one that
does not is recorded and answered so. -/
def Obligations.EnginesRunDescriptors : Prop :=
  (∀ (s : State) (g : Nat) (b : List Byte) (empty : Bool) (c1 c2 c3 : Chip),
      g < 12 →
      (s.chip.engine g 0).active = true →
      (s.chip.engine g 0).busy = false →
      s.chip.engState g 0 ≠ esStopped →
      (engDescriptor g 0).run s.chip = (.ok b, c1) →
      (engCheck 0 b).run c1 = (.ok (), c1) →
      wdOp b = 0 →
      (engWait g 0 (engSync 0 b)).run c1 = (.ok true, c2) →
      (engOp g 0 b).run (c2.engRunning g 0) = (.ok empty, c3) →
      exec (.convDesc g) s = .next { s with chip := Chip.settle (c3.engBusy g 0 b empty) }) ∧
  (∀ (s : State) (g : Nat) (b : List Byte) (empty : Bool) (c1 c2 c3 : Chip),
      g < 12 →
      (s.chip.engine g 0).active = true →
      (s.chip.engine g 0).busy = false →
      s.chip.engState g 0 ≠ esStopped →
      (engDescriptor g 0).run s.chip = (.ok b, c1) →
      (engCheck 0 b).run c1 = (.ok (), c1) →
      wdOp b = 1 →
      (engWait g 0 (engSync 0 b)).run c1 = (.ok true, c2) →
      (engOp g 0 b).run (c2.engRunning g 0) = (.ok empty, c3) →
      exec (.maxpool g) s = .next { s with chip := Chip.settle (c3.engBusy g 0 b empty) }) ∧
  (∀ (s : State) (g : Nat) (b : List Byte) (empty : Bool) (c1 c2 c3 : Chip),
      g < 12 →
      (s.chip.engine g 0).active = true →
      (s.chip.engine g 0).busy = false →
      s.chip.engState g 0 ≠ esStopped →
      (engDescriptor g 0).run s.chip = (.ok b, c1) →
      (engCheck 0 b).run c1 = (.ok (), c1) →
      wdOp b = 2 →
      (engWait g 0 (engSync 0 b)).run c1 = (.ok true, c2) →
      (engOp g 0 b).run (c2.engRunning g 0) = (.ok empty, c3) →
      exec (.avgpool g) s = .next { s with chip := Chip.settle (c3.engBusy g 0 b empty) }) ∧
  (∀ (s : State) (g : Nat) (b : List Byte) (empty : Bool) (c1 c2 c3 : Chip),
      g < 12 →
      (s.chip.engine g 1).active = true →
      (s.chip.engine g 1).busy = false →
      s.chip.engState g 1 ≠ esStopped →
      (engDescriptor g 1).run s.chip = (.ok b, c1) →
      (engCheck 1 b).run c1 = (.ok (), c1) →
      wdOp b = 3 →
      (engWait g 1 (engSync 1 b)).run c1 = (.ok true, c2) →
      (engOp g 1 b).run (c2.engRunning g 1) = (.ok empty, c3) →
      exec (.nougatIn g) s = .next { s with chip := Chip.settle (c3.engBusy g 1 b empty) }) ∧
  (∀ (s : State) (g : Nat) (b : List Byte) (empty : Bool) (c1 c2 c3 : Chip),
      g < 12 →
      (s.chip.engine g 1).active = true →
      (s.chip.engine g 1).busy = false →
      s.chip.engState g 1 ≠ esStopped →
      (engDescriptor g 1).run s.chip = (.ok b, c1) →
      (engCheck 1 b).run c1 = (.ok (), c1) →
      wdOp b = 4 →
      (engWait g 1 (engSync 1 b)).run c1 = (.ok true, c2) →
      (engOp g 1 b).run (c2.engRunning g 1) = (.ok empty, c3) →
      exec (.nougatOut g) s = .next { s with chip := Chip.settle (c3.engBusy g 1 b empty) }) ∧
  (∀ (s : State) (g : Nat) (b : List Byte) (empty : Bool) (c1 c2 c3 : Chip),
      g < 12 →
      (s.chip.engine g 2).active = true →
      (s.chip.engine g 2).busy = false →
      s.chip.engState g 2 ≠ esStopped →
      (engDescriptor g 2).run s.chip = (.ok b, c1) →
      (engCheck 2 b).run c1 = (.ok (), c1) →
      wdOp b = 5 →
      (engWait g 2 (engSync 2 b)).run c1 = (.ok true, c2) →
      (engOp g 2 b).run (c2.engRunning g 2) = (.ok empty, c3) →
      exec (.cropResize g) s = .next { s with chip := Chip.settle (c3.engBusy g 2 b empty) }) ∧
  (∀ (s : State) (g e : Nat) (c1 : Chip),
      (s.chip.engine g e).busy = true →
      s.chip.engState g e ≠ esStopped →
      (engGo g e ((s.chip.engine g e).left e)).run s.chip = (.ok (), c1) →
      (engSync e (s.chip.engine g e).bytes).signalEn = true →
      bitOf (bytesU ((c1.engDone g e (s.chip.engine g e)).engine g e).bytes 1 1) 0 = true →
      let x := s.chip.engine g e
      let c := c1.engDone g e x
      let y := c.engine g e
      exec (.engineDescriptorDone g e) s = .next { s with chip := Chip.settle (((c.setEngine g e { y with busy := false, bytes := [], void := false, row := 0, seg := 0, desc := y.desc + 1, active := false }).setEngState g e esIdle).unitSignal (engSync e x.bytes).signalObj (.add (engSync e x.bytes).add) true) }) ∧
  (∀ (s : State) (g e : Nat) (c1 : Chip),
      (s.chip.engine g e).busy = true →
      s.chip.engState g e ≠ esStopped →
      (engGo g e ((s.chip.engine g e).left e)).run s.chip = (.ok (), c1) →
      (engSync e (s.chip.engine g e).bytes).signalEn = true →
      bitOf (bytesU ((c1.engDone g e (s.chip.engine g e)).engine g e).bytes 1 1) 0 = false →
      let x := s.chip.engine g e
      let c := c1.engDone g e x
      let y := c.engine g e
      exec (.engineDescriptorDone g e) s = .next { s with chip := Chip.settle (((c.setEngine g e { y with busy := false, bytes := [], void := false, row := 0, seg := 0, desc := y.desc + 1, active := true }).showDesc g e).unitSignal (engSync e x.bytes).signalObj (.add (engSync e x.bytes).add) true) }) ∧
  (∀ (s : State) (g e : Nat) (c1 : Chip),
      (s.chip.engine g e).busy = true →
      s.chip.engState g e ≠ esStopped →
      (engGo g e ((s.chip.engine g e).left e)).run s.chip = (.ok (), c1) →
      (engSync e (s.chip.engine g e).bytes).signalEn = false →
      bitOf (bytesU ((c1.engDone g e (s.chip.engine g e)).engine g e).bytes 1 1) 0 = true →
      let x := s.chip.engine g e
      let c := c1.engDone g e x
      let y := c.engine g e
      exec (.engineDescriptorDone g e) s = .next { s with chip := Chip.settle ((c.setEngine g e { y with busy := false, bytes := [], void := false, row := 0, seg := 0, desc := y.desc + 1, active := false }).setEngState g e esIdle) }) ∧
  (∀ (s : State) (g e : Nat) (c1 : Chip),
      (s.chip.engine g e).busy = true →
      s.chip.engState g e ≠ esStopped →
      (engGo g e ((s.chip.engine g e).left e)).run s.chip = (.ok (), c1) →
      (engSync e (s.chip.engine g e).bytes).signalEn = false →
      bitOf (bytesU ((c1.engDone g e (s.chip.engine g e)).engine g e).bytes 1 1) 0 = false →
      let x := s.chip.engine g e
      let c := c1.engDone g e x
      let y := c.engine g e
      exec (.engineDescriptorDone g e) s = .next { s with chip := Chip.settle ((c.setEngine g e { y with busy := false, bytes := [], void := false, row := 0, seg := 0, desc := y.desc + 1, active := true }).showDesc g e) }) ∧
  (∀ (s : State) (m tag g e : Nat) (v : W32),
      tag = 0 ∨ (List.range 16).any (fun i => s.chip.tileSlice (16 * g + i) == some tag) = true →
      listedMaster m = true →
      ({ s.chip with nextReq := s.chip.nextReq + 1 } : Chip).check { master := m, tag := tag, addr := (engLfsr g e).addr, len := 4, write := true } = none →
      exec (.dceLfsrWrite m tag g e v) s = .next { s with chip := Chip.settle ((({ s.chip with nextReq := s.chip.nextReq + 1 } : Chip).setReg (engLfsr g e) (if v.toNat = 0 then 1 else v.toNat)).reply m s.chip.nextReq .value []) }) ∧
  (∀ (s : State) (m tag g e : Nat) (v : W32) (d : Deny) (t : Nat),
      listedMaster m = true →
      ({ s.chip with nextReq := s.chip.nextReq + 1 } : Chip).check { master := m, tag := tag, addr := (engLfsr g e).addr, len := 4, write := true } = some (d, t) →
      let q : Req := { master := m, tag := tag, addr := (engLfsr g e).addr, len := 4, write := true }
      exec (.dceLfsrWrite m tag g e v) s = .next { s with chip := Chip.settle ((({ s.chip with nextReq := s.chip.nextReq + 1 } : Chip).denied q d t).failed q s.chip.nextReq 1) }) ∧
  (∀ (s : State) (m tag g e : Nat) (v : W32),
      listedMaster m = false →
      exec (.dceLfsrWrite m tag g e v) s = .next { s with chip := Chip.settle (({ s.chip with nextReq := s.chip.nextReq + 1 } : Chip)) })

/-- Slice tag 0 gives a group's GRP_OPP_CAP bits 1:0 of the value written; another tag's write changes nothing.
Slice tag 0 and the tag of the tile's slice load TILE_LFSR, 0 loading 1, and write TILE_CNT_CTRL: FREEZE takes
bit 1, and bit 0 clears every counter of the tile and of its Rills; a write that the target's check refuses is
recorded and answered so, and a master that is not assigned writes nothing. -/
def Obligations.TileAndGroupRegisters : Prop :=
  (∀ (s : State) (g : Nat) (v : W32),
      exec (.grpOppCapWrite 0 g v) s = .next { s with chip := Chip.settle (s.chip.setFld (GRP_OPP_CAP g) GRP_OPP_CAP.CAP (v.toNat % 4)) }) ∧
  (∀ (s : State) (tag g : Nat) (v : W32),
      tag ≠ 0 →
      exec (.grpOppCapWrite tag g v) s = .next { s with chip := Chip.settle (s.chip) }) ∧
  (∀ (s : State) (m tag n : Nat) (v : W32),
      tag = 0 ∨ s.chip.tileSlice n = some tag →
      listedMaster m = true →
      ({ s.chip with nextReq := s.chip.nextReq + 1 } : Chip).check { master := m, tag := tag, addr := (TILE_LFSR n).addr, len := 4, write := true } = none →
      exec (.tileLfsrWrite m tag n v) s = .next { s with chip := Chip.settle ((({ s.chip with nextReq := s.chip.nextReq + 1 } : Chip).setReg (TILE_LFSR n) (if v.toNat = 0 then 1 else v.toNat)).reply m s.chip.nextReq .value []) }) ∧
  (∀ (s : State) (m tag n : Nat) (v : W32),
      tag = 0 ∨ s.chip.tileSlice n = some tag →
      bitOf v.toNat 0 = false →
      listedMaster m = true →
      ({ s.chip with nextReq := s.chip.nextReq + 1 } : Chip).check { master := m, tag := tag, addr := (TILE_CNT_CTRL n).addr, len := 4, write := true } = none →
      exec (.tileCounterClear m tag n v) s = .next { s with chip := Chip.settle ((({ s.chip with nextReq := s.chip.nextReq + 1 } : Chip).setFld (TILE_CNT_CTRL n) TILE_CNT_CTRL.FREEZE (bitsOf v.toNat 1 1)).reply m s.chip.nextReq .value []) }) ∧
  (∀ (s : State) (m tag n : Nat) (v : W32),
      tag = 0 ∨ s.chip.tileSlice n = some tag →
      bitOf v.toNat 0 = true →
      listedMaster m = true →
      ({ s.chip with nextReq := s.chip.nextReq + 1 } : Chip).check { master := m, tag := tag, addr := (TILE_CNT_CTRL n).addr, len := 4, write := true } = none →
      exec (.tileCounterClear m tag n v) s = .next { s with chip := Chip.settle (((({ s.chip with nextReq := s.chip.nextReq + 1 } : Chip).setFld (TILE_CNT_CTRL n) TILE_CNT_CTRL.FREEZE (bitsOf v.toNat 1 1)).clearTileCounters n).reply m s.chip.nextReq .value []) }) ∧
  (∀ (s : State) (m tag n : Nat) (v : W32) (d e : Deny) (t u : Nat),
      listedMaster m = true →
      ({ s.chip with nextReq := s.chip.nextReq + 1 } : Chip).check { master := m, tag := tag, addr := (TILE_LFSR n).addr, len := 4, write := true } = some (d, t) →
      ({ s.chip with nextReq := s.chip.nextReq + 1 } : Chip).check { master := m, tag := tag, addr := (TILE_CNT_CTRL n).addr, len := 4, write := true } = some (e, u) →
      let q : Req := { master := m, tag := tag, addr := (TILE_LFSR n).addr, len := 4, write := true }
      let q2 : Req := { master := m, tag := tag, addr := (TILE_CNT_CTRL n).addr, len := 4, write := true }
      exec (.tileLfsrWrite m tag n v) s = .next { s with chip := Chip.settle ((({ s.chip with nextReq := s.chip.nextReq + 1 } : Chip).denied q d t).failed q s.chip.nextReq 1) } ∧
      exec (.tileCounterClear m tag n v) s = .next { s with chip := Chip.settle ((({ s.chip with nextReq := s.chip.nextReq + 1 } : Chip).denied q2 e u).failed q2 s.chip.nextReq 1) }) ∧
  (∀ (s : State) (m tag n : Nat) (v : W32),
      listedMaster m = false →
      exec (.tileLfsrWrite m tag n v) s = .next { s with chip := Chip.settle (({ s.chip with nextReq := s.chip.nextReq + 1 } : Chip)) } ∧
      exec (.tileCounterClear m tag n v) s = .next { s with chip := Chip.settle (({ s.chip with nextReq := s.chip.nextReq + 1 } : Chip)) })

/-- A started JOB_RUN with legal fields whose placement passes checks 1 to 5 of R182, whose save area, outside
class 0, is aligned and the slice's own, whose release can be told, whose job record is valid where it
resumes, and with fewer than 256 jobs in the lead queue, puts the job it describes into that queue, with its
release time, and goes on running. A field that is illegal completes BAD_PARAM; a placement that fails
completes with the status of the first check; a full queue completes NO_RESOURCE; nothing is queued then. A
job packet at its ring's head, of release mode 1 to 3 that still waits on its header wait, is not refused and
has no pending release yet passes its release, tiles, engines and units to the scheduler. -/
def Obligations.JobsAreQueued : Prop :=
  (∀ (s : State) (p : Packet) (k : Chan) (rel : Nat) (c1 c2 : Chip),
      s.chip.startedAs p 0x210 →
      p.u 35 1 < 2 →
      p.u 40 8 < 2 ^ 48 →
      p.u 40 8 % 32 = 0 →
      p.u 48 1 ≤ 16 →
      p.u 49 1 < 4 →
      p.u 50 2 < 64 →
      bitOf (p.u 56 8) 63 = false →
      p.u 64 8 < 2 ^ 48 →
      zeroIn p.bytes 76 128 = true →
      s.chip.checkChan p.slice p.cls (p.u 32 2) (p.u 34 1) (p.u 40 8) (p.u 48 1) = (.ok k, c1) →
      p.cls = 0 ∨ (p.u 64 8 ≠ 0 ∧ p.u 64 8 % pageSize = 0 ∧ c1.ownsPages p.slice (p.u 64 8) (saveBytes k.tiles) = true) →
      c1.releaseTime p (p.u 49 1) (p.u 50 2) (p.u 52 4) (p.u 56 8) = some rel →
      (p.u 35 1 = 0 ∧ c2 = c1) ∨ (p.u 35 1 = 1 ∧ c1.recordValid p.slice (p.u 64 8) k.model p.cls = (true, c2)) →
      c2.queueDepth (k.first / 16) < 256 →
      exec (.jobRun p.id) s = .next { s with chip := Chip.settle (c2.queueJob p (p.runJob k rel c2.starts)) }) ∧
  (∀ (s : State) (p : Packet) (st : Nat) (c1 : Chip),
      s.chip.startedAs p 0x210 →
      p.u 35 1 < 2 →
      p.u 40 8 < 2 ^ 48 →
      p.u 40 8 % 32 = 0 →
      p.u 48 1 ≤ 16 →
      p.u 49 1 < 4 →
      p.u 50 2 < 64 →
      bitOf (p.u 56 8) 63 = false →
      p.u 64 8 < 2 ^ 48 →
      zeroIn p.bytes 76 128 = true →
      s.chip.checkChan p.slice p.cls (p.u 32 2) (p.u 34 1) (p.u 40 8) (p.u 48 1) = (.error st, c1) →
      exec (.jobRun p.id) s = .next { s with chip := Chip.settle (c1.finish p.id st) }) ∧
  (∀ (s : State) (p : Packet),
      s.chip.startedAs p 0x210 →
      2 ≤ p.u 35 1 ∨ 2 ^ 48 ≤ p.u 40 8 ∨ p.u 40 8 % 32 ≠ 0 ∨ 16 < p.u 48 1 ∨ 4 ≤ p.u 49 1 ∨ 64 ≤ p.u 50 2 ∨ bitOf (p.u 56 8) 63 = true ∨ 2 ^ 48 ≤ p.u 64 8 ∨ zeroIn p.bytes 76 128 = false →
      exec (.jobRun p.id) s = .next { s with chip := Chip.settle (s.chip.finish p.id stBadParam) }) ∧
  (∀ (s : State) (p : Packet) (t : Nat),
      s.chip.packet? p.id = some p →
      p.op = 0x210 ∨ p.op = 0x211 →
      s.chip.atHead p = true →
      s.chip.refusal p = none →
      s.chip.waitOver p = false →
      s.chip.pendingRels.any (fun r => r.packet == p.id) = false →
      s.chip.pendingTime p = some t →
      (s.chip.pendingChans p).isEmpty = false →
      exec (.pendingRelease p.id) s = .next { s with chip := Chip.settle ({ s.chip with pendingRels := s.chip.pendingRels ++ [s.chip.pendingOf p t] }) })

/-- A ready job whose tiles, engines and groups are free and running and whose grant Sluice has given is
dispatched; one that lacks only its grant asks for it and stands with delay cause 1; one whose tiles or
engines are not free stands with delay cause 0. A job outside class 0 that runs or loads, whose tiles have not
all ended, is pre-empted where a pre-emption was asked for with its cause, or where a class above it needs its
tiles with cause 0. JOB_PREEMPT of a job that waits completes DONE with result 0 and holds it for HOLD_US; of
a running job, asks for its pre-emption, and the packet waits for the save; of no job, completes with 0. A
hold ends at its time, and no sooner. JOB_ABORT ends the job it names with ABORTED and completes with result
1; with no such job it completes with 0. -/
def Obligations.JobsDispatchAndPreempt : Prop :=
  (∀ (s : State) (j : Job),
      s.chip.job? j.id = some j →
      s.chip.jobReady j = true →
      s.chip.dispatchable j = .ok () →
      (s.chip.askJob j).granted (.job j.id) = true →
      exec (.jobDispatch j.id) s = .next { s with chip := Chip.settle ((s.chip.askJob j).dispatch j) }) ∧
  (∀ (s : State) (j : Job),
      s.chip.job? j.id = some j →
      s.chip.jobReady j = true →
      s.chip.dispatchable j = .ok () →
      (s.chip.askJob j).granted (.job j.id) = false →
      exec (.jobDispatch j.id) s = .next { s with chip := Chip.settle ((s.chip.askJob j).updJob j.id (fun j => { j with delay := 1 })) }) ∧
  (∀ (s : State) (j : Job),
      s.chip.job? j.id = some j →
      s.chip.jobReady j = true →
      s.chip.dispatchable j = .error 0 →
      exec (.jobDispatch j.id) s = .next { s with chip := Chip.settle (s.chip.updJob j.id (fun j => { j with delay := 0 })) }) ∧
  (∀ (s : State) (j : Job) (k : Nat),
      s.chip.job? j.id = some j →
      j.cls ≠ 0 →
      j.isGolden = false →
      (j.phase = .running ∧ j.tiles.all (fun n => (s.chip.tile n).ended) = false) ∨ j.phase = .loading →
      j.wanted = some k ∨ (j.wanted = none ∧ s.chip.classPreempts j = true ∧ k = 0) →
      exec (.preemptSignal j.id) s = .next { s with chip := Chip.settle (s.chip.signalPreempt j k) }) ∧
  (∀ (s : State) (p : Packet) (j : Job),
      s.chip.startedAs p 0x212 →
      p.u 32 1 < 16 →
      zeroIn p.bytes 33 36 = true →
      p.u 40 4 ≤ 1000000 →
      zeroIn p.bytes 44 64 = true →
      s.chip.targetJob p.slice (p.u 32 1) (p.u 36 4) = some j →
      j.cls ≠ 0 →
      j.phase = .queued ∨ j.phase = .saved →
      exec (.jobPreempt p.id) s = .next { s with chip := Chip.settle ((if p.u 40 4 = 0 then s.chip else s.chip.updJob j.id (fun j => { j with hold := some (s.chip.now + p.u 40 4 * 1000) })).finish p.id stDone 0) }) ∧
  (∀ (s : State) (p : Packet) (j : Job),
      s.chip.startedAs p 0x212 →
      p.u 32 1 < 16 →
      zeroIn p.bytes 33 36 = true →
      p.u 40 4 ≤ 1000000 →
      zeroIn p.bytes 44 64 = true →
      s.chip.targetJob p.slice (p.u 32 1) (p.u 36 4) = some j →
      j.cls ≠ 0 →
      j.phase = .running →
      exec (.jobPreempt p.id) s = .next { s with chip := Chip.settle (((s.chip.updJob j.id (fun j => { j with wanted := some (j.wanted.getD 1) })).updJob j.id (fun j => { j with waiters := j.waiters ++ [(p.id, p.u 40 4)] })).keepRunning p.id) }) ∧
  (∀ (s : State) (p : Packet),
      s.chip.startedAs p 0x212 →
      p.u 32 1 < 16 →
      zeroIn p.bytes 33 36 = true →
      p.u 40 4 ≤ 1000000 →
      zeroIn p.bytes 44 64 = true →
      s.chip.targetJob p.slice (p.u 32 1) (p.u 36 4) = none →
      exec (.jobPreempt p.id) s = .next { s with chip := Chip.settle (s.chip.finish p.id stDone 0) }) ∧
  (∀ (s : State) (id : Nat),
      exec (.preemptHoldExpiry id) s = .next { s with chip := Chip.settle ({ s.chip with jobs := s.chip.jobs.map (fun j => if j.id = id ∧ (∃ t ∈ j.hold, t ≤ s.chip.now) then { j with hold := none } else j) }) }) ∧
  (∀ (s : State) (p : Packet) (j : Job),
      s.chip.startedAs p 0x213 →
      p.u 32 1 < 16 →
      zeroIn p.bytes 33 36 = true →
      zeroIn p.bytes 40 64 = true →
      s.chip.targetJob p.slice (p.u 32 1) (p.u 36 4) = some j →
      exec (.jobAbort p.id) s = .next { s with chip := Chip.settle ((s.chip.abortJob j stAborted).finish p.id stDone 1) }) ∧
  (∀ (s : State) (p : Packet),
      s.chip.startedAs p 0x213 →
      p.u 32 1 < 16 →
      zeroIn p.bytes 33 36 = true →
      zeroIn p.bytes 40 64 = true →
      s.chip.targetJob p.slice (p.u 32 1) (p.u 36 4) = none →
      exec (.jobAbort p.id) s = .next { s with chip := Chip.settle (s.chip.finish p.id stDone 0) })

/-- The end of a running JOB_RUN whose channel has come to its end completes the job with the status and detail of
that end; while it has not, nothing changes. A running Safety job with a failed channel ends with that
channel's failure; with both channels complete and a place in Weir's queue it gives its grant back and waits
for Weir. A saving job whose tiles and then its job record can be written is saved, its grant back, its tiles
free; where a write fails the job ends with the write's status. A restoring job whose record and tiles can be
read has its engines resumed and runs on; where a read fails it ends with the read's status. The end of a load
makes the model resident or, where its image could not be read, leaves its jobs streaming, and the jobs it
kept waiting begin. -/
def Obligations.JobsEndSaveAndRestore : Prop :=
  (∀ (s : State) (j : Job) (k : Chan) (l : List Chan) (st d : Nat),
      s.chip.job? j.id = some j →
      j.phase = .running →
      j.kind = .run →
      j.chans = k :: l →
      s.chip.chanEnd k = some (st, d) →
      exec (.jobEnd j.id) s = .next { s with chip := Chip.settle (s.chip.endJob j.id st d) }) ∧
  (∀ (s : State) (j : Job) (k : Chan) (l : List Chan),
      s.chip.job? j.id = some j →
      j.phase = .running →
      j.kind = .run →
      j.chans = k :: l →
      s.chip.chanEnd k = none →
      exec (.jobEnd j.id) s = .next { s with chip := Chip.settle (s.chip) }) ∧
  (∀ (s : State) (j : Job) (o v n i st d : Nat),
      s.chip.job? j.id = some j →
      j.phase = .running →
      j.kind = .diverse o v n →
      (s.chip.chanEnds j).findIdx? failedEnd = some i →
      (s.chip.chanEnds j)[i]? = some (some (st, d)) →
      exec (.jobEnd j.id) s = .next { s with chip := Chip.settle (s.chip.channelFailed j.id i st d {}) }) ∧
  (∀ (s : State) (j : Job) (o v n : Nat),
      s.chip.job? j.id = some j →
      j.phase = .running →
      j.kind = .diverse o v n →
      (s.chip.chanEnds j).findIdx? failedEnd = none →
      (s.chip.chanEnds j).all Option.isSome = true →
      s.chip.weir.length ≤ 16 →
      exec (.jobEnd j.id) s = .next { s with chip := Chip.settle (s.chip.toWeir j.id) }) ∧
  (∀ (s : State) (j : Job) (o v n : Nat),
      s.chip.job? j.id = some j →
      j.phase = .running →
      j.kind = .diverse o v n →
      (s.chip.chanEnds j).findIdx? failedEnd = none →
      (s.chip.chanEnds j).all Option.isSome = false →
      exec (.jobEnd j.id) s = .next { s with chip := Chip.settle (s.chip.closeChans j.id) }) ∧
  (∀ (s : State) (j : Job) (k : Chan) (l : List Chan) (n m : Nat) (c1 c2 : Chip),
      s.chip.job? j.id = some j →
      j.phase = .saving →
      j.chans = k :: l →
      s.chip.saveTiles k j.slice j.cls j.saveBase (k.placement.mapIdx (fun i n => (i, n))) 0 = (.ok, n, c1) →
      c1.saveWrites j.slice j.cls (c1.jobRecord j k) 0 = (.ok, m, c2) →
      exec (.saveComplete j.id) s = .next { s with chip := Chip.settle (c2.saved j k n) }) ∧
  (∀ (s : State) (j : Job) (k : Chan) (l : List Chan) (n : Nat) (o : Served) (c1 : Chip),
      s.chip.job? j.id = some j →
      j.phase = .saving →
      j.chans = k :: l →
      o ≠ .ok →
      s.chip.saveTiles k j.slice j.cls j.saveBase (k.placement.mapIdx (fun i n => (i, n))) 0 = (o, n, c1) →
      exec (.saveComplete j.id) s = .next { s with chip := Chip.settle (c1.endJob j.id (servedStatus o) 0) }) ∧
  (∀ (s : State) (j : Job) (k : Chan) (l : List Chan) (n m : Nat) (o : Served) (c1 c2 : Chip),
      s.chip.job? j.id = some j →
      j.phase = .saving →
      j.chans = k :: l →
      s.chip.saveTiles k j.slice j.cls j.saveBase (k.placement.mapIdx (fun i n => (i, n))) 0 = (.ok, n, c1) →
      o ≠ .ok →
      c1.saveWrites j.slice j.cls (c1.jobRecord j k) 0 = (o, m, c2) →
      exec (.saveComplete j.id) s = .next { s with chip := Chip.settle (c2.endJob j.id (servedStatus o) 0) }) ∧
  (∀ (s : State) (j : Job) (k : Chan) (l : List Chan) (m : Model) (v : Variant) (head : List Byte) (n : Nat) (c1 c2 : Chip),
      s.chip.job? j.id = some j →
      j.phase = .restoring →
      j.chans = k :: l →
      s.chip.model? k.model = some m →
      s.chip.variantOf k = some v →
      s.chip.saveRead j.slice j.cls j.saveBase 512 = (.ok, head, c1) →
      c1.restoreTiles j k m v (List.range k.tiles) 0 = (.ok, n, c2) →
      exec (.restoreComplete j.id) s = .next { s with chip := Chip.settle ((c2.resumeEngines j k m v head).restored j k head n) }) ∧
  (∀ (s : State) (j : Job) (k : Chan) (l : List Chan) (m : Model) (v : Variant) (head : List Byte) (o : Served) (c1 : Chip),
      s.chip.job? j.id = some j →
      j.phase = .restoring →
      j.chans = k :: l →
      s.chip.model? k.model = some m →
      s.chip.variantOf k = some v →
      o ≠ .ok →
      s.chip.saveRead j.slice j.cls j.saveBase 512 = (o, head, c1) →
      exec (.restoreComplete j.id) s = .next { s with chip := Chip.settle (c1.endJob j.id (servedStatus o) 0) }) ∧
  (∀ (s : State) (m : Nat) (x : Model) (c1 : Chip),
      s.chip.model? m = some x →
      x.loading = true →
      s.chip.endLoad m = (.ok, c1) →
      exec (.modelLoadDone m) s = .next { s with chip := Chip.settle ((c1.beginAfterLoad m).jobLeft m) }) ∧
  (∀ (s : State) (m : Nat) (x : Model) (o : Served) (c1 : Chip),
      s.chip.model? m = some x →
      x.loading = true →
      o ≠ .ok →
      s.chip.endLoad m = (o, c1) →
      exec (.modelLoadDone m) s = .next { s with chip := Chip.settle (((c1.streamFor m).beginAfterLoad m).jobLeft m) })

/-- A started MODEL_REGISTER that passes every check of R189, with a free index, and neither WARM nor PIN, or of a
model that will be streamed, enters the model and completes DONE with its number; with WARM or PIN and room it
takes segments and waits for the load. A bad image completes BAD_PARAM, a wrong length BAD_SIZE, pages or
tiles that are not the slice's NOT_OWNER, an image larger than the slice's memory or no free index
NO_RESOURCE, an image whose read fails with the read's status, and nothing is entered. MODEL_PIN 0 unpins;
MODEL_PIN 1 of a model that is no Safety model completes ACCESS_DENIED, of one already pinned and resident
DONE, of a resident one that fits pins it. MODEL_EVICT of a pinned model completes BAD_PARAM; with KEEP 0 a
model nobody holds is evicted and one held completes DEFERRED and is evicted later; to unregister, a model no
job uses goes and one in use completes DEFERRED. MODEL_VERIFY of a model whose image and copy carry their hash
stamps the time and completes DONE; otherwise it completes UNCORRECTABLE with what was bad, a bad copy of a
good image being loaded again. -/
def Obligations.ModelsAreRegisteredPinnedAndVerified : Prop :=
  (∀ (s : State) (p : Packet) (sl : Slice) (img : List Byte) (c1 : Chip) (m : Nat),
      s.chip.startedAs p 0x200 →
      s.chip.slice? p.slice = some sl →
      p.u 32 8 < 2 ^ 48 →
      p.u 32 8 % 64 = 0 →
      p.u 40 4 ≠ 0 →
      p.u 44 4 < 4 →
      p.u 48 2 < 1024 →
      zeroIn p.bytes 50 128 = true →
      s.chip.imageOwned p.slice (p.u 32 8) (p.u 40 4) = true →
      p.u 40 4 ≤ sumOf (sl.extents.map (·.2)) * pageSize →
      s.chip.loadRange cpMaster p.slice (p.u 32 8) (p.u 40 4) p.cls = (.ok, img, c1) →
      imageOk img = true →
      bytesU img 8 4 = p.u 40 4 →
      placementOk p.slice sl (newModel p.slice sl.segments.length (p.u 32 8) (p.u 40 4) img).variants = true →
      c1.freeModel (p.u 48 2) = some m →
      bitOf (p.u 44 4) 1 = false →
      bitOf (p.u 44 4) 0 = false ∨ (newModel p.slice sl.segments.length (p.u 32 8) (p.u 40 4) img).streaming = true →
      exec (.modelRegister p.id) s = .next { s with chip := Chip.settle ((c1.enterModel m sl.segments.length (newModel p.slice sl.segments.length (p.u 32 8) (p.u 40 4) img)).finish p.id stDone ((newModel p.slice sl.segments.length (p.u 32 8) (p.u 40 4) img).registered m)) }) ∧
  (∀ (s : State) (p : Packet) (sl : Slice) (img : List Byte) (c1 : Chip) (m : Nat) (c2 : Chip),
      s.chip.startedAs p 0x200 →
      s.chip.slice? p.slice = some sl →
      p.u 32 8 < 2 ^ 48 →
      p.u 32 8 % 64 = 0 →
      p.u 40 4 ≠ 0 →
      p.u 44 4 < 4 →
      p.u 48 2 < 1024 →
      zeroIn p.bytes 50 128 = true →
      s.chip.imageOwned p.slice (p.u 32 8) (p.u 40 4) = true →
      p.u 40 4 ≤ sumOf (sl.extents.map (·.2)) * pageSize →
      s.chip.loadRange cpMaster p.slice (p.u 32 8) (p.u 40 4) p.cls = (.ok, img, c1) →
      imageOk img = true →
      bytesU img 8 4 = p.u 40 4 →
      placementOk p.slice sl (newModel p.slice sl.segments.length (p.u 32 8) (p.u 40 4) img).variants = true →
      c1.freeModel (p.u 48 2) = some m →
      bitOf (p.u 44 4) 0 = true →
      bitOf (p.u 44 4) 1 = false →
      (newModel p.slice sl.segments.length (p.u 32 8) (p.u 40 4) img).streaming = false →
      (c1.enterModel m sl.segments.length (newModel p.slice sl.segments.length (p.u 32 8) (p.u 40 4) img)).takeRoom m (newModel p.slice sl.segments.length (p.u 32 8) (p.u 40 4) img).home = (true, c2) →
      exec (.modelRegister p.id) s = .next { s with chip := Chip.settle (((c2.updModel m (fun x => { x with pinned := false, loadFor := [p.id] })).mcRegs p.slice).keepRunning p.id) }) ∧
  (∀ (s : State) (p : Packet) (sl : Slice) (img : List Byte) (c1 : Chip) (m : Nat) (c2 : Chip),
      s.chip.startedAs p 0x200 →
      s.chip.slice? p.slice = some sl →
      p.u 32 8 < 2 ^ 48 →
      p.u 32 8 % 64 = 0 →
      p.u 40 4 ≠ 0 →
      p.u 44 4 < 4 →
      p.u 48 2 < 1024 →
      zeroIn p.bytes 50 128 = true →
      s.chip.imageOwned p.slice (p.u 32 8) (p.u 40 4) = true →
      p.u 40 4 ≤ sumOf (sl.extents.map (·.2)) * pageSize →
      s.chip.loadRange cpMaster p.slice (p.u 32 8) (p.u 40 4) p.cls = (.ok, img, c1) →
      imageOk img = true →
      bytesU img 8 4 = p.u 40 4 →
      placementOk p.slice sl (newModel p.slice sl.segments.length (p.u 32 8) (p.u 40 4) img).variants = true →
      c1.freeModel (p.u 48 2) = some m →
      bitOf (p.u 44 4) 1 = true →
      (newModel p.slice sl.segments.length (p.u 32 8) (p.u 40 4) img).safety = true →
      (newModel p.slice sl.segments.length (p.u 32 8) (p.u 40 4) img).need + c1.pinnedSegs p.slice ≤ sl.segments.length →
      (newModel p.slice sl.segments.length (p.u 32 8) (p.u 40 4) img).streaming = false →
      (c1.enterModel m sl.segments.length (newModel p.slice sl.segments.length (p.u 32 8) (p.u 40 4) img)).takeRoom m (newModel p.slice sl.segments.length (p.u 32 8) (p.u 40 4) img).home = (true, c2) →
      exec (.modelRegister p.id) s = .next { s with chip := Chip.settle (((c2.updModel m (fun x => { x with pinned := true, loadFor := [p.id] })).mcRegs p.slice).keepRunning p.id) }) ∧
  (∀ (s : State) (p : Packet) (sl : Slice) (o : Served) (b : List Byte) (c1 : Chip),
      s.chip.startedAs p 0x200 →
      s.chip.slice? p.slice = some sl →
      p.u 32 8 < 2 ^ 48 →
      p.u 32 8 % 64 = 0 →
      p.u 40 4 ≠ 0 →
      p.u 44 4 < 4 →
      p.u 48 2 < 1024 →
      zeroIn p.bytes 50 128 = true →
      s.chip.imageOwned p.slice (p.u 32 8) (p.u 40 4) = true →
      p.u 40 4 ≤ sumOf (sl.extents.map (·.2)) * pageSize →
      o ≠ .ok →
      s.chip.loadRange cpMaster p.slice (p.u 32 8) (p.u 40 4) p.cls = (o, b, c1) →
      exec (.modelRegister p.id) s = .next { s with chip := Chip.settle (c1.finish p.id (servedStatus o)) }) ∧
  (∀ (s : State) (p : Packet) (sl : Slice),
      s.chip.startedAs p 0x200 →
      s.chip.slice? p.slice = some sl →
      2 ^ 48 ≤ p.u 32 8 ∨ p.u 32 8 % 64 ≠ 0 ∨ p.u 40 4 = 0 ∨ 4 ≤ p.u 44 4 ∨ 1024 ≤ p.u 48 2 ∨ zeroIn p.bytes 50 128 = false →
      exec (.modelRegister p.id) s = .next { s with chip := Chip.settle (s.chip.finish p.id stBadParam) }) ∧
  (∀ (s : State) (p : Packet) (sl : Slice),
      s.chip.startedAs p 0x200 →
      s.chip.slice? p.slice = some sl →
      p.u 32 8 < 2 ^ 48 →
      p.u 32 8 % 64 = 0 →
      p.u 40 4 ≠ 0 →
      p.u 44 4 < 4 →
      p.u 48 2 < 1024 →
      zeroIn p.bytes 50 128 = true →
      s.chip.imageOwned p.slice (p.u 32 8) (p.u 40 4) = false →
      exec (.modelRegister p.id) s = .next { s with chip := Chip.settle (s.chip.finish p.id stNotOwner) }) ∧
  (∀ (s : State) (p : Packet) (sl : Slice),
      s.chip.startedAs p 0x200 →
      s.chip.slice? p.slice = some sl →
      p.u 32 8 < 2 ^ 48 →
      p.u 32 8 % 64 = 0 →
      p.u 40 4 ≠ 0 →
      p.u 44 4 < 4 →
      p.u 48 2 < 1024 →
      zeroIn p.bytes 50 128 = true →
      s.chip.imageOwned p.slice (p.u 32 8) (p.u 40 4) = true →
      sumOf (sl.extents.map (·.2)) * pageSize < p.u 40 4 →
      exec (.modelRegister p.id) s = .next { s with chip := Chip.settle (s.chip.finish p.id stNoResource) }) ∧
  (∀ (s : State) (p : Packet) (sl : Slice) (img : List Byte) (c1 : Chip),
      s.chip.startedAs p 0x200 →
      s.chip.slice? p.slice = some sl →
      p.u 32 8 < 2 ^ 48 →
      p.u 32 8 % 64 = 0 →
      p.u 40 4 ≠ 0 →
      p.u 44 4 < 4 →
      p.u 48 2 < 1024 →
      zeroIn p.bytes 50 128 = true →
      s.chip.imageOwned p.slice (p.u 32 8) (p.u 40 4) = true →
      p.u 40 4 ≤ sumOf (sl.extents.map (·.2)) * pageSize →
      s.chip.loadRange cpMaster p.slice (p.u 32 8) (p.u 40 4) p.cls = (.ok, img, c1) →
      imageOk img = false →
      exec (.modelRegister p.id) s = .next { s with chip := Chip.settle (c1.finish p.id stBadParam) }) ∧
  (∀ (s : State) (p : Packet) (sl : Slice) (img : List Byte) (c1 : Chip),
      s.chip.startedAs p 0x200 →
      s.chip.slice? p.slice = some sl →
      p.u 32 8 < 2 ^ 48 →
      p.u 32 8 % 64 = 0 →
      p.u 40 4 ≠ 0 →
      p.u 44 4 < 4 →
      p.u 48 2 < 1024 →
      zeroIn p.bytes 50 128 = true →
      s.chip.imageOwned p.slice (p.u 32 8) (p.u 40 4) = true →
      p.u 40 4 ≤ sumOf (sl.extents.map (·.2)) * pageSize →
      s.chip.loadRange cpMaster p.slice (p.u 32 8) (p.u 40 4) p.cls = (.ok, img, c1) →
      imageOk img = true →
      bytesU img 8 4 ≠ p.u 40 4 →
      exec (.modelRegister p.id) s = .next { s with chip := Chip.settle (c1.finish p.id stBadSize) }) ∧
  (∀ (s : State) (p : Packet) (sl : Slice) (img : List Byte) (c1 : Chip),
      s.chip.startedAs p 0x200 →
      s.chip.slice? p.slice = some sl →
      p.u 32 8 < 2 ^ 48 →
      p.u 32 8 % 64 = 0 →
      p.u 40 4 ≠ 0 →
      p.u 44 4 < 4 →
      p.u 48 2 < 1024 →
      zeroIn p.bytes 50 128 = true →
      s.chip.imageOwned p.slice (p.u 32 8) (p.u 40 4) = true →
      p.u 40 4 ≤ sumOf (sl.extents.map (·.2)) * pageSize →
      s.chip.loadRange cpMaster p.slice (p.u 32 8) (p.u 40 4) p.cls = (.ok, img, c1) →
      imageOk img = true →
      bytesU img 8 4 = p.u 40 4 →
      placementOk p.slice sl (newModel p.slice sl.segments.length (p.u 32 8) (p.u 40 4) img).variants = false →
      exec (.modelRegister p.id) s = .next { s with chip := Chip.settle (c1.finish p.id stNotOwner) }) ∧
  (∀ (s : State) (p : Packet) (sl : Slice) (img : List Byte) (c1 : Chip),
      s.chip.startedAs p 0x200 →
      s.chip.slice? p.slice = some sl →
      p.u 32 8 < 2 ^ 48 →
      p.u 32 8 % 64 = 0 →
      p.u 40 4 ≠ 0 →
      p.u 44 4 < 4 →
      p.u 48 2 < 1024 →
      zeroIn p.bytes 50 128 = true →
      s.chip.imageOwned p.slice (p.u 32 8) (p.u 40 4) = true →
      p.u 40 4 ≤ sumOf (sl.extents.map (·.2)) * pageSize →
      s.chip.loadRange cpMaster p.slice (p.u 32 8) (p.u 40 4) p.cls = (.ok, img, c1) →
      imageOk img = true →
      bytesU img 8 4 = p.u 40 4 →
      placementOk p.slice sl (newModel p.slice sl.segments.length (p.u 32 8) (p.u 40 4) img).variants = true →
      c1.freeModel (p.u 48 2) = none →
      exec (.modelRegister p.id) s = .next { s with chip := Chip.settle (c1.finish p.id stNoResource) }) ∧
  (∀ (s : State) (p : Packet) (m : Nat) (x : Model),
      s.chip.startedAs p 0x201 →
      p.u 34 1 ≤ 1 →
      zeroIn p.bytes 35 64 = true →
      s.chip.namedModel p = .ok (m, x) →
      p.u 34 1 = 0 →
      exec (.modelPin p.id) s = .next { s with chip := Chip.settle (((s.chip.updModel m (fun x => { x with pinned := false })).mcRegs x.slice).finish p.id stDone) }) ∧
  (∀ (s : State) (p : Packet) (m : Nat) (x : Model),
      s.chip.startedAs p 0x201 →
      p.u 34 1 ≤ 1 →
      zeroIn p.bytes 35 64 = true →
      s.chip.namedModel p = .ok (m, x) →
      p.u 34 1 = 1 →
      x.safety = false →
      exec (.modelPin p.id) s = .next { s with chip := Chip.settle (s.chip.finish p.id stAccessDenied) }) ∧
  (∀ (s : State) (p : Packet) (m : Nat) (x : Model),
      s.chip.startedAs p 0x201 →
      p.u 34 1 ≤ 1 →
      zeroIn p.bytes 35 64 = true →
      s.chip.namedModel p = .ok (m, x) →
      p.u 34 1 = 1 →
      x.safety = true →
      x.pinned = true →
      x.resident = true →
      exec (.modelPin p.id) s = .next { s with chip := Chip.settle (s.chip.finish p.id stDone) }) ∧
  (∀ (s : State) (p : Packet) (m : Nat) (x : Model) (sl : Slice),
      s.chip.startedAs p 0x201 →
      p.u 34 1 ≤ 1 →
      zeroIn p.bytes 35 64 = true →
      s.chip.namedModel p = .ok (m, x) →
      p.u 34 1 = 1 →
      x.safety = true →
      x.pinned = false →
      x.resident = true →
      x.streaming = false →
      s.chip.slice? p.slice = some sl →
      s.chip.pinnedSegs p.slice + x.need ≤ sl.segments.length →
      exec (.modelPin p.id) s = .next { s with chip := Chip.settle (((s.chip.updModel m (fun x => { x with pinned := true })).mcRegs x.slice).finish p.id stDone) }) ∧
  (∀ (s : State) (p : Packet) (m : Nat) (x : Model),
      s.chip.startedAs p 0x202 →
      p.u 34 1 ≤ 1 →
      zeroIn p.bytes 35 64 = true →
      s.chip.namedModel p = .ok (m, x) →
      x.pinned = true →
      exec (.modelEvict p.id) s = .next { s with chip := Chip.settle (s.chip.finish p.id stBadParam) }) ∧
  (∀ (s : State) (p : Packet) (m : Nat) (x : Model),
      s.chip.startedAs p 0x202 →
      p.u 34 1 ≤ 1 →
      zeroIn p.bytes 35 64 = true →
      s.chip.namedModel p = .ok (m, x) →
      x.pinned = false →
      p.u 34 1 = 0 →
      s.chip.modelHeld m = false →
      x.loading = false →
      exec (.modelEvict p.id) s = .next { s with chip := Chip.settle ((if x.resident = true then s.chip.evict m 1 else s.chip).finish p.id stDone) }) ∧
  (∀ (s : State) (p : Packet) (m : Nat) (x : Model),
      s.chip.startedAs p 0x202 →
      p.u 34 1 ≤ 1 →
      zeroIn p.bytes 35 64 = true →
      s.chip.namedModel p = .ok (m, x) →
      x.pinned = false →
      p.u 34 1 = 0 →
      s.chip.modelHeld m = true ∨ x.loading = true →
      exec (.modelEvict p.id) s = .next { s with chip := Chip.settle (((s.chip.updModel m (fun x => { x with evicting := true })).updModel m (fun x => { x with deferred := x.deferred ++ [(p.ring, p.seq)] })).finish p.id stDeferred) }) ∧
  (∀ (s : State) (p : Packet) (m : Nat) (x : Model),
      s.chip.startedAs p 0x202 →
      p.u 34 1 ≤ 1 →
      zeroIn p.bytes 35 64 = true →
      s.chip.namedModel p = .ok (m, x) →
      x.pinned = false →
      p.u 34 1 = 1 →
      s.chip.jobs.any (fun j => j.uses m) = false →
      x.loading = false →
      exec (.modelEvict p.id) s = .next { s with chip := Chip.settle (((s.chip.updModel m (fun x => { x with unregistering := true })).jobLeft m).finish p.id stDone) }) ∧
  (∀ (s : State) (p : Packet) (m : Nat) (x : Model),
      s.chip.startedAs p 0x202 →
      p.u 34 1 ≤ 1 →
      zeroIn p.bytes 35 64 = true →
      s.chip.namedModel p = .ok (m, x) →
      x.pinned = false →
      p.u 34 1 = 1 →
      s.chip.jobs.any (fun j => j.uses m) = true ∨ x.loading = true →
      exec (.modelEvict p.id) s = .next { s with chip := Chip.settle (((s.chip.updModel m (fun x => { x with unregistering := true })).updModel m (fun x => { x with deferred := x.deferred ++ [(p.ring, p.seq)] })).finish p.id stDeferred) }) ∧
  (∀ (s : State) (p : Packet) (m : Nat) (x : Model) (de re : Bool) (img copy : List Byte) (c1 c2 : Chip),
      s.chip.startedAs p 0x103 →
      zeroIn p.bytes 34 64 = true →
      s.chip.namedModel p = .ok (m, x) →
      s.chip.readThrough cpMaster x.slice (pieces x.image x.imageBytes) = (de, img, c1) →
      c1.readCopy x = (re, copy, c2) →
      badImage de img x.hash = false →
      (x.resident && badImage re (copy ++ img.drop x.hotBytes) x.hash) = false →
      exec (.modelVerify p.id) s = .next { s with chip := Chip.settle ((c2.updModel m (fun x => { x with verified := c2.now })).finish p.id stDone) }) ∧
  (∀ (s : State) (p : Packet) (m : Nat) (x : Model) (de re db cb : Bool) (img copy : List Byte) (c1 c2 : Chip),
      s.chip.startedAs p 0x103 →
      zeroIn p.bytes 34 64 = true →
      s.chip.namedModel p = .ok (m, x) →
      s.chip.readThrough cpMaster x.slice (pieces x.image x.imageBytes) = (de, img, c1) →
      c1.readCopy x = (re, copy, c2) →
      badImage de img x.hash = db →
      (x.resident && badImage re (copy ++ img.drop x.hotBytes) x.hash) = cb →
      (db || cb) = true →
      exec (.modelVerify p.id) s = .next { s with chip := Chip.settle ((if (cb && !db) = true then c2.reload m x img else c2).finish p.id stUncorrectable 0 (b2n db + 2 * b2n cb + 4 * b2n (de || re))) })

/-- Slice tag 0, and no other tag, writes CFL_TRIG_CTRL: OUT_EN is taken at once, POL only while EN is clear,
ARM_ERR is cleared by a 1, EN 0 disarms; EN 1 with PERIOD and WIDTH in range and a first edge within 2.147 s
arms that edge, and else sets ARM_ERR and leaves EN clear. An edge of an enabled trigger that is due counts,
arms the next, shows on the ball with OUT_EN, and begins a frame of each stream bound to the trigger; before
its time nothing happens. FUSE_STREAM_OPEN opens the stream that passes the checks of R220 with its counters
cleared and completes DONE, and else completes with the status of the first check. FUSE_STREAM_CLOSE of the
slice's own stream waits for a frame boundary, and closes the stream at once where no frame is in progress. A
ready inject stream takes its next descriptor: a bad one is counted with cause 2, a late one of a stream that
is not REVISABLE is dropped, one of kind 2 is published at L0 or dropped as stale, one of kind 0 or 1 goes to
its level. At its cut-off an unpublished frame is published INVALID, or as it stands where its data is
complete; a stream with a close asked for and no frame to come closes at its boundary. -/
def Obligations.StreamsOpenAndTriggersFire : Prop :=
  (∀ (s : State) (tag n : Nat) (v : W32),
      tag ≠ 0 →
      exec (.triggerEnable tag n v) s = .next { s with chip := Chip.settle (s.chip) }) ∧
  (∀ (s : State) (n : Nat) (v : W32),
      n < 16 →
      s.chip.flag (CFL_TRIG_CTRL n) CFL_TRIG_CTRL.EN = true →
      bitOf v.toNat 3 = false →
      bitOf v.toNat 0 = false →
      exec (.triggerEnable 0 n v) s = .next { s with chip := Chip.settle (Chip.setFld (s.chip.setFld (CFL_TRIG_CTRL n) CFL_TRIG_CTRL.OUT_EN (bitsOf v.toNat 1 1)) (CFL_TRIG_CTRL n) CFL_TRIG_CTRL.EN 0) }) ∧
  (∀ (s : State) (n : Nat) (v : W32),
      n < 16 →
      s.chip.flag (CFL_TRIG_CTRL n) CFL_TRIG_CTRL.EN = true →
      bitOf v.toNat 3 = true →
      bitOf v.toNat 0 = true →
      exec (.triggerEnable 0 n v) s = .next { s with chip := Chip.settle (Chip.setFld (s.chip.setFld (CFL_TRIG_CTRL n) CFL_TRIG_CTRL.OUT_EN (bitsOf v.toNat 1 1)) (CFL_TRIG_CTRL n) CFL_TRIG_CTRL.ARM_ERR 0) }) ∧
  (∀ (s : State) (n : Nat) (v : W32) (c : Chip),
      n < 16 →
      s.chip.flag (CFL_TRIG_CTRL n) CFL_TRIG_CTRL.EN = false →
      bitOf v.toNat 3 = false →
      bitOf v.toNat 0 = true →
      c = (s.chip.setFld (CFL_TRIG_CTRL n) CFL_TRIG_CTRL.POL (bitsOf v.toNat 2 2)).setFld (CFL_TRIG_CTRL n) CFL_TRIG_CTRL.OUT_EN (bitsOf v.toNat 1 1) →
      1000 ≤ c.reg (CFL_TRIG_PERIOD n) →
      c.reg (CFL_TRIG_PERIOD n) ≤ 2000000000 →
      100 ≤ c.reg (CFL_TRIG_WIDTH n) →
      c.reg (CFL_TRIG_WIDTH n) + 100 ≤ c.reg (CFL_TRIG_PERIOD n) →
      timeBefore (c.now + 2147000000) (c.firstEdge n) = false →
      exec (.triggerEnable 0 n v) s = .next { s with chip := Chip.settle ((Chip.setFld (c) (CFL_TRIG_CTRL n) CFL_TRIG_CTRL.EN 1).setReg (CFL_TRIG_NEXT n) (c.firstEdge n)) }) ∧
  (∀ (s : State) (n : Nat) (v : W32) (c : Chip),
      n < 16 →
      s.chip.flag (CFL_TRIG_CTRL n) CFL_TRIG_CTRL.EN = false →
      bitOf v.toNat 3 = false →
      bitOf v.toNat 0 = true →
      c = (s.chip.setFld (CFL_TRIG_CTRL n) CFL_TRIG_CTRL.POL (bitsOf v.toNat 2 2)).setFld (CFL_TRIG_CTRL n) CFL_TRIG_CTRL.OUT_EN (bitsOf v.toNat 1 1) →
      c.reg (CFL_TRIG_PERIOD n) < 1000 ∨ 2000000000 < c.reg (CFL_TRIG_PERIOD n) ∨ c.reg (CFL_TRIG_WIDTH n) < 100 ∨ c.reg (CFL_TRIG_PERIOD n) < c.reg (CFL_TRIG_WIDTH n) + 100 ∨ timeBefore (c.now + 2147000000) (c.firstEdge n) = true →
      exec (.triggerEnable 0 n v) s = .next { s with chip := Chip.settle (Chip.setFld (c) (CFL_TRIG_CTRL n) CFL_TRIG_CTRL.ARM_ERR 1) }) ∧
  (∀ (s : State) (n : Nat),
      n < 16 →
      s.chip.flag (CFL_TRIG_CTRL n) CFL_TRIG_CTRL.EN = true →
      edgeReached s.chip.now (s.chip.reg (CFL_TRIG_NEXT n)) = true →
      exec (.triggerEdge n) s = .next { s with chip := Chip.settle ((s.chip.countEdge n (s.chip.reg (CFL_TRIG_NEXT n))).edgeFrames n (s.chip.reg (CFL_TRIG_NEXT n))) }) ∧
  (∀ (s : State) (n : Nat),
      edgeReached s.chip.now (s.chip.reg (CFL_TRIG_NEXT n)) = false →
      exec (.triggerEdge n) s = .next { s with chip := Chip.settle (s.chip) }) ∧
  (∀ (s : State) (p : Packet) (sl : Slice),
      s.chip.startedAs p 0x300 →
      s.chip.slice? p.slice = some sl →
      s.chip.openStatus sl p = none →
      exec (.fuseStreamOpen p.id) s = .next { s with chip := Chip.settle ((s.chip.openStream p).finish p.id stDone) }) ∧
  (∀ (s : State) (p : Packet) (sl : Slice) (st : Nat),
      s.chip.startedAs p 0x300 →
      s.chip.slice? p.slice = some sl →
      s.chip.openStatus sl p = some st →
      exec (.fuseStreamOpen p.id) s = .next { s with chip := Chip.settle (s.chip.finish p.id st) }) ∧
  (∀ (s : State) (p : Packet) (x : FuseStream),
      s.chip.startedAs p 0x302 →
      p.u 32 1 < 64 →
      zeroIn p.bytes 33 64 = true →
      s.chip.stream? (p.u 32 1) = some x →
      x.slice = p.slice →
      exec (.fuseStreamClose p.id) s = .next { s with chip := Chip.settle (if x.frames.all (·.ended) = true then (s.chip.askClose (p.u 32 1) p.id).closeStream (p.u 32 1) else s.chip.askClose (p.u 32 1) p.id) }) ∧
  (∀ (s : State) (n : Nat) (x : FuseStream) (b : List Byte) (c : Chip),
      s.chip.stream? n = some x →
      s.chip.injectReady x = true →
      s.chip.injectHead n x = (b, c) →
      injectBad x b = true →
      exec (.injectContribution n) s = .next { s with chip := Chip.settle (c.streamBad n 2) }) ∧
  (∀ (s : State) (n : Nat) (x : FuseStream) (b : List Byte) (c : Chip),
      s.chip.stream? n = some x →
      s.chip.injectReady x = true →
      s.chip.injectHead n x = (b, c) →
      injectBad x b = false →
      bytesU b 28 1 = 2 →
      c.injectLate x (bytesU b 0 8) = true →
      x.revisable = false →
      exec (.injectContribution n) s = .next { s with chip := Chip.settle (c.lateDrop n (bytesU b 32 4) (bytesU b 0 8) (c.now - (x.injectCut (bytesU b 0 8)).getD c.now) 0) }) ∧
  (∀ (s : State) (n : Nat) (x : FuseStream) (b : List Byte) (c : Chip),
      s.chip.stream? n = some x →
      s.chip.injectReady x = true →
      s.chip.injectHead n x = (b, c) →
      injectBad x b = false →
      bytesU b 28 1 ≠ 2 →
      c.injectLate x (bytesU b 0 8) = true →
      x.revisable = false →
      exec (.injectContribution n) s = .next { s with chip := Chip.settle ((c.lateDrop n (bytesU b 32 4) (bytesU b 0 8) (c.now - (x.injectCut (bytesU b 0 8)).getD c.now) 0).levelMiss (c.injected n b)) }) ∧
  (∀ (s : State) (n : Nat) (x : FuseStream) (b : List Byte) (c : Chip),
      s.chip.stream? n = some x →
      s.chip.injectReady x = true →
      s.chip.injectHead n x = (b, c) →
      injectBad x b = false →
      bytesU b 28 1 = 2 →
      c.injectLate x (bytesU b 0 8) = false ∨ x.revisable = true →
      x.staleRevision (bytesU b 0 8) = none →
      exec (.injectContribution n) s = .next { s with chip := Chip.settle (c.injectPublish n x b (c.injectLate x (bytesU b 0 8))) }) ∧
  (∀ (s : State) (n : Nat) (x : FuseStream) (b : List Byte) (c : Chip) (k : Nat),
      s.chip.stream? n = some x →
      s.chip.injectReady x = true →
      s.chip.injectHead n x = (b, c) →
      injectBad x b = false →
      bytesU b 28 1 = 2 →
      c.injectLate x (bytesU b 0 8) = false ∨ x.revisable = true →
      x.staleRevision (bytesU b 0 8) = some k →
      exec (.injectContribution n) s = .next { s with chip := Chip.settle (c.lateDrop n (bytesU b 32 4) (bytesU b 0 8) (c.now - (x.injectCut (bytesU b 0 8)).getD c.now) k) }) ∧
  (∀ (s : State) (n : Nat) (x : FuseStream) (b : List Byte) (c : Chip),
      s.chip.stream? n = some x →
      s.chip.injectReady x = true →
      s.chip.injectHead n x = (b, c) →
      injectBad x b = false →
      bytesU b 28 1 ≠ 2 →
      c.injectLate x (bytesU b 0 8) = false ∨ x.revisable = true →
      exec (.injectContribution n) s = .next { s with chip := Chip.settle (c.contributeTo (c.injected n b)) }) ∧
  (∀ (s : State) (n : Nat) (x : FuseStream) (c : Chip) (y : FuseStream) (f : FuseFrame),
      s.chip.stream? n = some x →
      s.chip.beginMissed n x = c →
      c.stream? n = some y →
      c.cutFrame y = some f →
      f.ended = false →
      exec (.lateCutoff n) s = .next { s with chip := Chip.settle (if (c.publishCut n y f).boundaryPast x = true then (c.publishCut n y f).boundary n else c.publishCut n y f) }) ∧
  (∀ (s : State) (n : Nat) (x : FuseStream) (c : Chip) (y : FuseStream) (f : FuseFrame),
      s.chip.stream? n = some x →
      s.chip.beginMissed n x = c →
      c.stream? n = some y →
      c.cutFrame y = some f →
      f.ended = true →
      exec (.lateCutoff n) s = .next { s with chip := Chip.settle (if (c.publishEnded n).boundaryPast x = true then (c.publishEnded n).boundary n else c.publishEnded n) }) ∧
  (∀ (s : State) (n : Nat) (x : FuseStream) (c : Chip),
      s.chip.stream? n = some x →
      s.chip.missedFrame x = none →
      s.chip.cutFrame x = none →
      s.chip.boundaryPast x = true →
      exec (.lateCutoff n) s = .next { s with chip := Chip.settle (s.chip.boundary n) })

/-- A FUSE_POLICY whose POLICY is above 3 or whose RELEASE is above 1 completes BAD_PARAM. POLICY 0 with legal
fields, an index bound to no other slice, the slice's own pose ring and sync object binds the alignment
context; POLICY 1 and POLICY 2 that pass their checks bind the grid and the tracker, keeping what one bound
already holds; POLICY 3 of the slice's own stream sets its REVISABLE and LATE_LIMIT; each completes DONE.
RELEASE of an index the slice owns that no open stream names frees it; one that is named completes BAD_PARAM,
one bound elsewhere NOT_OWNER, one that is not bound BAD_PARAM, as is a non-zero reserved byte. -/
def Obligations.FusionPoliciesBind : Prop :=
  (∀ (s : State) (p : Packet),
      s.chip.startedAs p 0x301 →
      3 < p.u 32 1 ∨ 1 < p.u 34 1 →
      exec (.fusePolicyContext p.id) s = .next { s with chip := Chip.settle (s.chip.finish p.id stBadParam) }) ∧
  (∀ (s : State) (p : Packet),
      s.chip.startedAs p 0x301 →
      p.u 32 1 = 0 →
      p.u 34 1 = 0 →
      p.u 33 1 < 32 →
      zeroIn p.bytes 35 40 = true →
      p.alignCtx.base < 2 ^ 48 →
      4 ≤ p.alignCtx.log2 →
      p.alignCtx.log2 ≤ 12 →
      p.u 49 1 = 0 →
      zeroIn p.bytes 60 128 = true →
      boundElsewhere ((AMap.get? s.chip.cfl.contexts (p.u 33 1)).map (·.slice)) p.slice = false →
      s.chip.syncOf p.slice p.alignCtx.obj = true →
      s.chip.ownsPages p.slice p.alignCtx.base (64 * 2 ^ p.alignCtx.log2) = true →
      exec (.fusePolicyContext p.id) s = .next { s with chip := Chip.settle (Chip.finish { s.chip with cfl := { s.chip.cfl with contexts := AMap.set s.chip.cfl.contexts (p.u 33 1) p.alignCtx } } p.id stDone) }) ∧
  (∀ (s : State) (p : Packet),
      s.chip.startedAs p 0x301 →
      p.u 32 1 = 1 →
      p.u 34 1 = 0 →
      s.chip.gridStatus p = none →
      exec (.fusePolicyGrid p.id) s = .next { s with chip := Chip.settle ((s.chip.bindGrid (p.u 33 1) p.grid).finish p.id stDone) }) ∧
  (∀ (s : State) (p : Packet),
      s.chip.startedAs p 0x301 →
      p.u 32 1 = 2 →
      p.u 34 1 = 0 →
      s.chip.trackerStatus p = none →
      exec (.fusePolicyTracker p.id) s = .next { s with chip := Chip.settle ((s.chip.bindTracker p.tracker).finish p.id stDone) }) ∧
  (∀ (s : State) (p : Packet) (st : Nat),
      s.chip.startedAs p 0x301 →
      p.u 32 1 = 1 →
      p.u 34 1 = 0 →
      s.chip.gridStatus p = some st →
      exec (.fusePolicyGrid p.id) s = .next { s with chip := Chip.settle (s.chip.finish p.id st) }) ∧
  (∀ (s : State) (p : Packet) (st : Nat),
      s.chip.startedAs p 0x301 →
      p.u 32 1 = 2 →
      p.u 34 1 = 0 →
      s.chip.trackerStatus p = some st →
      exec (.fusePolicyTracker p.id) s = .next { s with chip := Chip.settle (s.chip.finish p.id st) }) ∧
  (∀ (s : State) (p : Packet) (x : FuseStream),
      s.chip.startedAs p 0x301 →
      p.u 32 1 = 3 →
      p.u 34 1 = 0 →
      p.u 33 1 < 64 →
      zeroIn p.bytes 35 40 = true →
      p.u 40 1 ≤ 1 →
      zeroIn p.bytes 41 44 = true →
      zeroIn p.bytes 48 128 = true →
      s.chip.stream? (p.u 33 1) = some x →
      x.slice = p.slice →
      exec (.fusePolicyStream p.id) s = .next { s with chip := Chip.settle ((s.chip.updStream (p.u 33 1) (fun s => s.setPolicy (p.u 40 1) (p.u 44 4))).finish p.id stDone) }) ∧
  (∀ (s : State) (p : Packet) (o : Nat),
      s.chip.startedAs p 0x301 →
      p.u 32 1 ≤ 3 →
      p.u 34 1 = 1 →
      p.policyReserved.any (fun r => !zeroIn p.bytes r.1 r.2) = false →
      s.chip.policyOwner (p.u 32 1) (p.u 33 1) = some o →
      o = p.slice →
      s.chip.policyNamed (p.u 32 1) (p.u 33 1) = false →
      exec (.fusePolicyRelease p.id) s = .next { s with chip := Chip.settle ((s.chip.unbindPolicy (p.u 32 1) (p.u 33 1)).finish p.id stDone) }) ∧
  (∀ (s : State) (p : Packet) (o : Nat),
      s.chip.startedAs p 0x301 →
      p.u 32 1 ≤ 3 →
      p.u 34 1 = 1 →
      p.policyReserved.any (fun r => !zeroIn p.bytes r.1 r.2) = false →
      s.chip.policyOwner (p.u 32 1) (p.u 33 1) = some o →
      o = p.slice →
      s.chip.policyNamed (p.u 32 1) (p.u 33 1) = true →
      exec (.fusePolicyRelease p.id) s = .next { s with chip := Chip.settle (s.chip.finish p.id stBadParam) }) ∧
  (∀ (s : State) (p : Packet),
      s.chip.startedAs p 0x301 →
      p.u 32 1 ≤ 3 →
      p.u 34 1 = 1 →
      p.policyReserved.any (fun r => !zeroIn p.bytes r.1 r.2) = true →
      exec (.fusePolicyRelease p.id) s = .next { s with chip := Chip.settle (s.chip.finish p.id stBadParam) }) ∧
  (∀ (s : State) (p : Packet) (o : Nat),
      s.chip.startedAs p 0x301 →
      p.u 32 1 ≤ 3 →
      p.u 34 1 = 1 →
      p.policyReserved.any (fun r => !zeroIn p.bytes r.1 r.2) = false →
      s.chip.policyOwner (p.u 32 1) (p.u 33 1) = some o →
      o ≠ p.slice →
      exec (.fusePolicyRelease p.id) s = .next { s with chip := Chip.settle (s.chip.finish p.id stNotOwner) }) ∧
  (∀ (s : State) (p : Packet),
      s.chip.startedAs p 0x301 →
      p.u 32 1 ≤ 3 →
      p.u 34 1 = 1 →
      p.policyReserved.any (fun r => !zeroIn p.bytes r.1 r.2) = false →
      s.chip.policyOwner (p.u 32 1) (p.u 33 1) = none →
      exec (.fusePolicyRelease p.id) s = .next { s with chip := Chip.settle (s.chip.finish p.id stBadParam) })

/-- For a camera stream with no frame to begin, a row whose CSI-2 header or CRC is bad, or whose number or length
is wrong, is counted with cause 0, 1 or 3; a good row of an open frame is timed and stored, or undistorted at
L0. The end of a camera frame completes it and publishes it as soon as its lidars are in, or drops the late
data of a frame already cut off. A lidar packet too short for its header is counted with cause 3; of one that
is long enough, with its sweep open, the points are taken into the sweep; those of a sweep published, or no
longer held, are stored, revise it or are dropped as late. An IMU sample that is due is read over SPI and
published with its contribution, or, its frame cut off, kept as late data. -/
def Obligations.SensorDataIsTaken : Prop :=
  (∀ (s : State) (n row k : Nat) (b : List Byte) (x : FuseStream) (c : Chip),
      s.chip.freeFrame n = c →
      c.stream? n = some x →
      x.kind = 0 →
      k = 1 ∨ k = 2 →
      exec (.cameraRow n row k b) s = .next { s with chip := Chip.settle (c.streamBad n (k - 1)) }) ∧
  (∀ (s : State) (n row : Nat) (b : List Byte) (x : FuseStream) (c : Chip),
      s.chip.freeFrame n = c →
      c.stream? n = some x →
      x.kind = 0 →
      x.height ≤ row ∨ b.length ≠ x.rowBytes →
      exec (.cameraRow n row 0 b) s = .next { s with chip := Chip.settle (c.streamBad n 3) }) ∧
  (∀ (s : State) (n row : Nat) (b : List Byte) (x : FuseStream) (f : FuseFrame) (c : Chip),
      s.chip.freeFrame n = c →
      c.stream? n = some x →
      x.kind = 0 →
      row < x.height →
      b.length = x.rowBytes →
      x.current c.now = some f →
      f.ended = false →
      f.cut = false ∨ x.revisable = true →
      exec (.cameraRow n row 0 b) s = .next { s with chip := Chip.settle (c.takeRow n x f row b) }) ∧
  (∀ (s : State) (n : Nat) (x : FuseStream) (f : FuseFrame),
      s.chip.stream? n = some x →
      x.current s.chip.now = some f →
      x.kind = 0 →
      f.ended = false →
      f.cut = false →
      exec (.cameraFrameEnd n) s = .next { s with chip := Chip.settle (((s.chip.updFrame n f.edge (fun f => { f with ended := true, oldest := none })).publishEnded n).boundary n) }) ∧
  (∀ (s : State) (n : Nat) (x : FuseStream) (f : FuseFrame),
      s.chip.stream? n = some x →
      x.current s.chip.now = some f →
      x.kind = 0 →
      f.ended = false →
      f.cut = true →
      exec (.cameraFrameEnd n) s = .next { s with chip := Chip.settle ((s.chip.lateOver n f true).boundary n) }) ∧
  (∀ (s : State) (n : Nat) (b : List Byte) (x : FuseStream),
      s.chip.stream? n = some x →
      x.kind = 1 →
      b.length < x.u 178 2 + x.width * x.pointBytes ∨ b.length < x.u 176 2 + 8 →
      exec (.lidarPacket n b) s = .next { s with chip := Chip.settle (s.chip.streamBad n 3) }) ∧
  (∀ (s : State) (n : Nat) (b : List Byte) (x y : FuseStream) (f : FuseFrame) (c : Chip),
      s.chip.stream? n = some x →
      x.kind = 1 →
      x.u 178 2 + x.width * x.pointBytes ≤ b.length →
      x.u 176 2 + 8 ≤ b.length →
      s.chip.openSweep n x (s.chip.sweepEdge x (x.packetValidity b)) = c →
      c.stream? n = some y →
      y.frames.find? (fun f => f.edge == s.chip.sweepEdge x (x.packetValidity b)) = some f →
      f.ended = false →
      f.cut = false ∨ y.revisable = true →
      exec (.lidarPacket n b) s = .next { s with chip := Chip.settle (c.takePoints n y f (x.packetValidity b) b) }) ∧
  (∀ (s : State) (n : Nat) (b : List Byte) (x y : FuseStream) (f : FuseFrame) (c : Chip),
      s.chip.stream? n = some x →
      x.kind = 1 →
      x.u 178 2 + x.width * x.pointBytes ≤ b.length →
      x.u 176 2 + 8 ≤ b.length →
      s.chip.openSweep n x (s.chip.sweepEdge x (x.packetValidity b)) = c →
      c.stream? n = some y →
      y.frames.find? (fun f => f.edge == s.chip.sweepEdge x (x.packetValidity b)) = some f →
      f.ended = true →
      exec (.lidarPacket n b) s = .next { s with chip := Chip.settle (c.endedPoints n y f (x.packetValidity b) b) }) ∧
  (∀ (s : State) (n : Nat) (b : List Byte) (x y : FuseStream) (c : Chip),
      s.chip.stream? n = some x →
      x.kind = 1 →
      x.u 178 2 + x.width * x.pointBytes ≤ b.length →
      x.u 176 2 + 8 ≤ b.length →
      s.chip.openSweep n x (s.chip.sweepEdge x (x.packetValidity b)) = c →
      c.stream? n = some y →
      y.frames.find? (fun f => f.edge == s.chip.sweepEdge x (x.packetValidity b)) = none →
      exec (.lidarPacket n b) s = .next { s with chip := Chip.settle (c.gonePoints n y (s.chip.sweepEdge x (x.packetValidity b)) (x.packetValidity b)) }) ∧
  (∀ (s : State) (n : Nat) (b : List Byte) (x : FuseStream) (f : FuseFrame) (c : Chip),
      s.chip.freeFrame n = c →
      c.stream? n = some x →
      c.dueSample x = some f →
      x.kind = 2 →
      f.cut = false →
      exec (.imuSample n b) s = .next { s with chip := Chip.settle ((c.spiRead x).publishSample n x f (b.take (x.u 181 1))) }) ∧
  (∀ (s : State) (n : Nat) (b : List Byte) (x : FuseStream) (f : FuseFrame) (c : Chip),
      s.chip.freeFrame n = c →
      c.stream? n = some x →
      c.dueSample x = some f →
      x.kind = 2 →
      f.cut = true →
      exec (.imuSample n b) s = .next { s with chip := Chip.settle ((((c.spiRead x).updFrame n f.edge (fun f => { f with raw := b.take (x.u 181 1) })).lateOver n f true).boundary n) })

/-- When ALIGN_WAIT has passed, the waiting contributions of the context are aligned with what poses there are,
and its camera frames are published where they can be. A grid whose anchor stream has a contribution waiting,
with every input of the cycle aligned, takes them, scatters them and publishes; so does the tracker; without
its anchor a level does nothing. A completed frame that was cut off publishes its record again with the next
revision; one older than the stream's last record is dropped with cause 1, one whose revision stands at 255
with cause 2. A late contribution for a cycle at or before the one before the latest is dropped with cause 1,
one beyond 255 revisions with cause 2; else, aligned, it goes into the buffer or the cycle of V, which is
published again. -/
def Obligations.FusionLevelsCycleAndRevise : Prop :=
  (∀ (s : State) (i : Nat),
      exec (.alignWaitExpiry i) s = .next { s with chip := Chip.settle ((s.chip.alignExpired i).publishWaiting i) }) ∧
  (∀ (s : State) (i : Nat) (g : Grid) (a : Contrib) (ps : List (Contrib × Pose)) (q : Contrib × Pose) (c : Chip),
      AMap.get? s.chip.cfl.grids i = some g →
      s.chip.gridAnchor i g = some a →
      s.chip.alignInputs (g.u 68 1) (cycleInputs a (s.chip.gridWaiting i)) = (some ps, c) →
      ps.getLast? = some q →
      exec (.l1Cycle i) s = .next { s with chip := Chip.settle (c.gridCycle i g a.validity (cycleInputs a (s.chip.gridWaiting i)) ps q.2) }) ∧
  (∀ (s : State) (i : Nat) (g : Grid),
      AMap.get? s.chip.cfl.grids i = some g →
      s.chip.gridAnchor i g = none →
      exec (.l1Cycle i) s = .next { s with chip := Chip.settle (s.chip) }) ∧
  (∀ (s : State) (t : Tracker) (a : Contrib) (ps : List (Contrib × Pose)) (q : Contrib × Pose) (c : Chip),
      s.chip.cfl.tracker = some t →
      s.chip.trackAnchor t = some a →
      s.chip.alignInputs (t.u 49 1) (cycleInputs a s.chip.trackWaiting) = (some ps, c) →
      ps.getLast? = some q →
      exec (.l2Cycle) s = .next { s with chip := Chip.settle (c.trackCycle t a.validity (cycleInputs a s.chip.trackWaiting) ps q.2) }) ∧
  (∀ (s : State) (t : Tracker),
      s.chip.cfl.tracker = some t →
      s.chip.trackAnchor t = none →
      exec (.l2Cycle) s = .next { s with chip := Chip.settle (s.chip) }) ∧
  (∀ (s : State) (n : Nat) (x : FuseStream) (f : FuseFrame) (v r : Nat) (fl q : Nat) (c : Chip),
      n < 64 →
      s.chip.stream? n = some x →
      x.frames.find? (fun f => f.cut && f.ended) = some f →
      x.last = some (v, r) →
      timeBefore f.validity v = false →
      r < 255 →
      s.chip.depthPlane n x f = (some (fl, q), c) →
      exec (.lateRevision (0x1000 + n)) s = .next { s with chip := Chip.settle ((c.republish n x f fl q (r + 1)).doneRevising n f) }) ∧
  (∀ (s : State) (n : Nat) (x : FuseStream) (f : FuseFrame) (v r : Nat),
      n < 64 →
      s.chip.stream? n = some x →
      x.frames.find? (fun f => f.cut && f.ended) = some f →
      x.last = some (v, r) →
      timeBefore f.validity v = true →
      exec (.lateRevision (0x1000 + n)) s = .next { s with chip := Chip.settle ((s.chip.dropLateFrame n x f 1).doneRevising n f) }) ∧
  (∀ (s : State) (n : Nat) (x : FuseStream) (f : FuseFrame) (v r : Nat),
      n < 64 →
      s.chip.stream? n = some x →
      x.frames.find? (fun f => f.cut && f.ended) = some f →
      x.last = some (v, r) →
      timeBefore f.validity v = false →
      255 ≤ r →
      exec (.lateRevision (0x1000 + n)) s = .next { s with chip := Chip.settle ((s.chip.dropLateFrame n x f 2).doneRevising n f) }) ∧
  (∀ (s : State) (i : Nat) (g : Grid) (k : Contrib) (cause : Nat),
      i < 4 →
      AMap.get? s.chip.cfl.grids i = some g →
      s.chip.cfl.late.find? (s.chip.feedsGrid i) = some k →
      g.cycle.stops k = some cause →
      exec (.lateRevision (0x1100 + i)) s = .next { s with chip := Chip.settle ((s.chip.lateTaken k).dropLevel k cause) }) ∧
  (∀ (s : State) (i : Nat) (g : Grid) (k : Contrib) (v : Nat) (p pv : Pose) (c1 c2 : Chip),
      i < 4 →
      AMap.get? s.chip.cfl.grids i = some g →
      s.chip.cfl.late.find? (s.chip.feedsGrid i) = some k →
      g.cycle.stops k = none →
      g.cycle.v = some v →
      (s.chip.lateTaken k).contribPose (g.u 68 1) k = (some p, c1) →
      c1.alignAt (g.u 68 1) v true = (some pv, c2) →
      exec (.lateRevision (0x1100 + i)) s = .next { s with chip := Chip.settle (c2.gridAgain i g k p pv v) }) ∧
  (∀ (s : State) (t : Tracker) (k : Contrib) (cause : Nat),
      s.chip.cfl.tracker = some t →
      s.chip.cfl.late.find? (·.l2) = some k →
      t.cycle.stops k = some cause →
      exec (.lateRevision 0x1200) s = .next { s with chip := Chip.settle ((s.chip.lateTaken k).dropLevel k cause) }) ∧
  (∀ (s : State) (t : Tracker) (k a : Contrib) (v : Nat) (ps : List (Contrib × Pose)) (q : Contrib × Pose) (c : Chip),
      s.chip.cfl.tracker = some t →
      s.chip.cfl.late.find? (·.l2) = some k →
      t.cycle.stops k = none →
      t.cycle.v = some v →
      t.cycle.inputs.getLast? = some a →
      (s.chip.lateTaken k).alignInputs (t.u 49 1) (cycleInputs a (k :: t.cycle.inputs.dropLast)) = (some ps, c) →
      ps.getLast? = some q →
      exec (.lateRevision 0x1200) s = .next { s with chip := Chip.settle (c.trackAgain t k (cycleInputs a (k :: t.cycle.inputs.dropLast)) ps q.2 v) })

/-- Tag 0 and the tag of the engine's slice, and no other, write ALE_CTRL.EN and ADAPT, ALE_LOAD and, while EN is
clear, ALE_PORT_CFG. A START while a load is busy sets LOAD_ERR 1; a block or its words that cannot be read
set 2 or 3; a block that fails a check sets that check's code; a good block is accepted with its words. An
accepted load takes effect at the first frame edge after it and not before. At each frame edge of an Active
part an enabled engine that does not run starts and runs its step, a running one runs it, one that is disabled
stops, and one whose function is off stops in state 2 until it is on; a second step at one edge does nothing.
A divergence freezes the loop at the edge after it, unless a load is taken there. A 1722 frame in a format it
takes is heard by each listener of its stream; in another its samples are counted as late at each; of no
listener it changes nothing. -/
def Obligations.AcousticLoopLoadsAndSteps : Prop :=
  (∀ (s : State) (tag : Nat) (b : Bool),
      s.chip.aleTag tag = true →
      exec (.aleEnable tag b) s = .next { s with chip := Chip.settle ((if b = true ∧ s.chip.flag ALE_CTRL ALE_CTRL.EN = false then s.chip.aleThaw else s.chip).setFld ALE_CTRL ALE_CTRL.EN (b2n b)) }) ∧
  (∀ (s : State) (tag : Nat) (b : Bool),
      s.chip.aleTag tag = false →
      exec (.aleEnable tag b) s = .next { s with chip := Chip.settle (s.chip) }) ∧
  (∀ (s : State) (tag : Nat) (b : Bool),
      s.chip.aleTag tag = true →
      exec (.aleAdapt tag b) s = .next { s with chip := Chip.settle (s.chip.setFld ALE_CTRL ALE_CTRL.ADAPT (b2n b)) }) ∧
  (∀ (s : State) (tag : Nat) (b : Bool),
      s.chip.aleTag tag = false →
      exec (.aleAdapt tag b) s = .next { s with chip := Chip.settle (s.chip) }) ∧
  (∀ (s : State) (tag n : Nat) (v : W32),
      s.chip.aleTag tag = true →
      n < 4 →
      s.chip.flag ALE_CTRL ALE_CTRL.EN = false →
      exec (.alePortCfgWrite tag n v) s = .next { s with chip := Chip.settle (s.chip.setReg (ALE_PORT_CFG n) (bitsOf v.toNat 7 3 * 8)) }) ∧
  (∀ (s : State) (tag n : Nat) (v : W32),
      s.chip.aleTag tag = false ∨ s.chip.flag ALE_CTRL ALE_CTRL.EN = true →
      exec (.alePortCfgWrite tag n v) s = .next { s with chip := Chip.settle (s.chip) }) ∧
  (∀ (s : State) (tag : Nat) (v : W64),
      s.chip.aleTag tag = true →
      bitOf v.toNat 0 = true →
      (s.chip.setFld ALE_LOAD ALE_LOAD.ADDR (bitsOf v.toNat 47 6)).flag ALE_STATUS ALE_STATUS.LOAD_BUSY = true →
      exec (.aleLoad tag v) s = .next { s with chip := Chip.settle ((s.chip.setFld ALE_LOAD ALE_LOAD.ADDR (bitsOf v.toNat 47 6)).aleErr 1) }) ∧
  (∀ (s : State) (tag : Nat) (v : W64) (p b : List Byte) (c1 c2 : Chip),
      s.chip.aleTag tag = true →
      bitOf v.toNat 0 = true →
      (s.chip.setFld ALE_LOAD ALE_LOAD.ADDR (bitsOf v.toNat 47 6)).flag ALE_STATUS ALE_STATUS.LOAD_BUSY = false →
      ((s.chip.setFld ALE_LOAD ALE_LOAD.ADDR (bitsOf v.toNat 47 6)).aleErr 0).loadRange aleMaster ((s.chip.setFld ALE_LOAD ALE_LOAD.ADDR (bitsOf v.toNat 47 6)).aleErr 0).aleSlice (bitsOf v.toNat 47 6 * 64) 256 = (.ok, p, c1) →
      c1.aleCheck p = none →
      c1.loadRange aleMaster c1.aleSlice ((bitsOf v.toNat 47 6 * 64) + 256) (apBytes p - 256) = (.ok, b, c2) →
      exec (.aleLoad tag v) s = .next { s with chip := Chip.settle (c2.aleAccept (aleBank p b (frameOf c2.now))) }) ∧
  (∀ (s : State) (tag : Nat) (v : W64) (p : List Byte) (c1 : Chip) (e : Nat),
      s.chip.aleTag tag = true →
      bitOf v.toNat 0 = true →
      (s.chip.setFld ALE_LOAD ALE_LOAD.ADDR (bitsOf v.toNat 47 6)).flag ALE_STATUS ALE_STATUS.LOAD_BUSY = false →
      ((s.chip.setFld ALE_LOAD ALE_LOAD.ADDR (bitsOf v.toNat 47 6)).aleErr 0).loadRange aleMaster ((s.chip.setFld ALE_LOAD ALE_LOAD.ADDR (bitsOf v.toNat 47 6)).aleErr 0).aleSlice (bitsOf v.toNat 47 6 * 64) 256 = (.ok, p, c1) →
      c1.aleCheck p = some e →
      exec (.aleLoad tag v) s = .next { s with chip := Chip.settle (c1.aleErr e) }) ∧
  (∀ (s : State) (tag : Nat) (v : W64) (o : Served) (p : List Byte) (c1 : Chip),
      s.chip.aleTag tag = true →
      bitOf v.toNat 0 = true →
      (s.chip.setFld ALE_LOAD ALE_LOAD.ADDR (bitsOf v.toNat 47 6)).flag ALE_STATUS ALE_STATUS.LOAD_BUSY = false →
      o ≠ .ok →
      ((s.chip.setFld ALE_LOAD ALE_LOAD.ADDR (bitsOf v.toNat 47 6)).aleErr 0).loadRange aleMaster ((s.chip.setFld ALE_LOAD ALE_LOAD.ADDR (bitsOf v.toNat 47 6)).aleErr 0).aleSlice (bitsOf v.toNat 47 6 * 64) 256 = (o, p, c1) →
      exec (.aleLoad tag v) s = .next { s with chip := Chip.settle (c1.aleErr (loadErr o)) }) ∧
  (∀ (s : State) (k : AleLoad),
      s.chip.ale.bank = some k →
      frameOf s.chip.now ≠ k.frame →
      exec (.aleLoadTakeEffect) s = .next { s with chip := Chip.settle (s.chip.aleTake k) }) ∧
  (∀ (s : State) (k : AleLoad),
      s.chip.ale.bank = some k →
      frameOf s.chip.now = k.frame →
      exec (.aleLoadTakeEffect) s = .next { s with chip := Chip.settle (s.chip) }) ∧
  (∀ (s : State) (e o : List (Nat × W32)) (c : Chip),
      s.chip.power.mode = PartMode.active →
      s.chip.stepDue = true →
      s.chip.atFrame (frameOf s.chip.now) = c →
      c.aleOff = false →
      c.flag ALE_CTRL ALE_CTRL.EN = true →
      c.fld ALE_STATUS ALE_STATUS.STATE ≠ 1 →
      exec (.aleStep e o) s = .next { s with chip := Chip.settle (c.aleStart.aleRun (frameOf s.chip.now) e o) }) ∧
  (∀ (s : State) (e o : List (Nat × W32)) (c : Chip),
      s.chip.power.mode = PartMode.active →
      s.chip.stepDue = true →
      s.chip.atFrame (frameOf s.chip.now) = c →
      c.aleOff = false →
      c.flag ALE_CTRL ALE_CTRL.EN = true →
      c.fld ALE_STATUS ALE_STATUS.STATE = 1 →
      exec (.aleStep e o) s = .next { s with chip := Chip.settle (c.aleRun (frameOf s.chip.now) e o) }) ∧
  (∀ (s : State) (e o : List (Nat × W32)) (c : Chip),
      s.chip.power.mode = PartMode.active →
      s.chip.stepDue = true →
      s.chip.atFrame (frameOf s.chip.now) = c →
      c.aleOff = false →
      c.flag ALE_CTRL ALE_CTRL.EN = false →
      c.fld ALE_STATUS ALE_STATUS.STATE ≠ 0 →
      exec (.aleStep e o) s = .next { s with chip := Chip.settle (c.aleStop 0) }) ∧
  (∀ (s : State) (e o : List (Nat × W32)) (c : Chip),
      s.chip.power.mode = PartMode.active →
      s.chip.stepDue = true →
      s.chip.atFrame (frameOf s.chip.now) = c →
      c.aleOff = true →
      c.fld ALE_STATUS ALE_STATUS.STATE ≠ 2 →
      exec (.aleStep e o) s = .next { s with chip := Chip.settle (c.aleStop 2) }) ∧
  (∀ (s : State) (e o : List (Nat × W32)) (c : Chip),
      s.chip.power.mode = PartMode.active →
      s.chip.stepDue = true →
      s.chip.atFrame (frameOf s.chip.now) = c →
      c.aleOff = true →
      c.fld ALE_STATUS ALE_STATUS.STATE = 2 →
      exec (.aleStep e o) s = .next { s with chip := Chip.settle (c) }) ∧
  (∀ (s : State) (e o : List (Nat × W32)),
      s.chip.power.mode ≠ PartMode.active ∨ s.chip.stepDue = false →
      exec (.aleStep e o) s = .next { s with chip := Chip.settle (s.chip) }) ∧
  (∀ (s : State) (f : Nat),
      s.chip.ale.diverged = some f →
      frameOf s.chip.now ≠ f →
      s.chip.ale.bank = none →
      exec (.divergence) s = .next { s with chip := Chip.settle (s.chip.aleFreeze) }) ∧
  (∀ (s : State) (f : Nat),
      s.chip.ale.diverged = some f →
      frameOf s.chip.now = f ∨ s.chip.ale.bank.isSome = true →
      exec (.divergence) s = .next { s with chip := Chip.settle (s.chip) }) ∧
  (∀ (s : State) (sid : W64) (b r k t : Nat) (x : List (List W32)),
      b = 24 ∨ b = 32 →
      r = 48000 →
      0 < k →
      k ≤ 8 →
      exec (.avtpFrame sid b r k t x) s = .next { s with chip := Chip.settle ((s.chip.listeners sid.toNat).foldl (fun c i => c.hear i k t x) s.chip) }) ∧
  (∀ (s : State) (sid : W64) (b r k t : Nat) (x : List (List W32)),
      (b ≠ 24 ∧ b ≠ 32) ∨ r ≠ 48000 ∨ k = 0 ∨ 8 < k →
      exec (.avtpFrame sid b r k t x) s = .next { s with chip := Chip.settle ((s.chip.listeners sid.toNat).foldl (fun c _ => c.count ALE_LATE_1722 ALE_LATE_1722.COUNT (x.length * k)) s.chip) }) ∧
  (∀ (s : State) (sid : W64) (b r k t : Nat) (x : List (List W32)),
      s.chip.listeners sid.toNat = [] →
      exec (.avtpFrame sid b r k t x) s = .next { s with chip := Chip.settle (s.chip) })

/-- ALE_RING_DESC takes ADDR; EN 0 stops the ring; EN 1 of a stopped ring reads its descriptor, and starts the
ring where it is legal, or sets LOAD_ERR 4 where it is not and 2 or 3 where it cannot be read. A capture block
whose last sample is in and whose frame edge has come is written with its record, and the ring goes on; before
that nothing changes. The next playback block is fetched once the producer has written it and the block before
has started; a block that is due plays what was fetched. A status record is written once STAT_BLOCK steps have
run, and not before. -/
def Obligations.AcousticRingsMove : Prop :=
  (∀ (s : State) (tag n : Nat) (v : W64),
      s.chip.aleTag tag = true →
      n < 8 →
      bitOf v.toNat 0 = false →
      exec (.audioRingEnable tag n v) s = .next { s with chip := Chip.settle ((s.chip.setFld (ALE_RING_DESC n) ALE_RING_DESC.ADDR (bitsOf v.toNat 47 6)).ringOff n) }) ∧
  (∀ (s : State) (tag n : Nat) (v : W64) (b : List Byte) (c : Chip),
      s.chip.aleTag tag = true →
      n < 8 →
      s.chip.flag (ALE_RING_DESC n) ALE_RING_DESC.EN = false →
      bitOf v.toNat 0 = true →
      (s.chip.setFld (ALE_RING_DESC n) ALE_RING_DESC.ADDR (bitsOf v.toNat 47 6)).loadRange aleMaster (s.chip.setFld (ALE_RING_DESC n) ALE_RING_DESC.ADDR (bitsOf v.toNat 47 6)).aleSlice (bitsOf v.toNat 47 6 * 64) 64 = (.ok, b, c) →
      c.ringDescOk b = true →
      exec (.audioRingEnable tag n v) s = .next { s with chip := Chip.settle (c.ringOn n b) }) ∧
  (∀ (s : State) (tag n : Nat) (v : W64) (b : List Byte) (c : Chip),
      s.chip.aleTag tag = true →
      n < 8 →
      s.chip.flag (ALE_RING_DESC n) ALE_RING_DESC.EN = false →
      bitOf v.toNat 0 = true →
      (s.chip.setFld (ALE_RING_DESC n) ALE_RING_DESC.ADDR (bitsOf v.toNat 47 6)).loadRange aleMaster (s.chip.setFld (ALE_RING_DESC n) ALE_RING_DESC.ADDR (bitsOf v.toNat 47 6)).aleSlice (bitsOf v.toNat 47 6 * 64) 64 = (.ok, b, c) →
      c.ringDescOk b = false →
      exec (.audioRingEnable tag n v) s = .next { s with chip := Chip.settle (c.aleErr 4) }) ∧
  (∀ (s : State) (tag n : Nat) (v : W64) (o : Served) (b : List Byte) (c : Chip),
      s.chip.aleTag tag = true →
      n < 8 →
      s.chip.flag (ALE_RING_DESC n) ALE_RING_DESC.EN = false →
      bitOf v.toNat 0 = true →
      o ≠ .ok →
      (s.chip.setFld (ALE_RING_DESC n) ALE_RING_DESC.ADDR (bitsOf v.toNat 47 6)).loadRange aleMaster (s.chip.setFld (ALE_RING_DESC n) ALE_RING_DESC.ADDR (bitsOf v.toNat 47 6)).aleSlice (bitsOf v.toNat 47 6 * 64) 64 = (o, b, c) →
      exec (.audioRingEnable tag n v) s = .next { s with chip := Chip.settle (c.aleErr (loadErr o)) }) ∧
  (∀ (s : State) (n : Nat) (r : AleRing),
      AMap.get? s.chip.ale.rings n = some r →
      s.chip.blockDone r = true →
      exec (.captureBlock n) s = .next { s with chip := Chip.settle (s.chip.endBlock n r) }) ∧
  (∀ (s : State) (n : Nat) (r : AleRing),
      AMap.get? s.chip.ale.rings n = some r →
      s.chip.blockDone r = false →
      exec (.captureBlock n) s = .next { s with chip := Chip.settle (s.chip) }) ∧
  (∀ (s : State) (n : Nat) (r : AleRing) (b : List Byte) (c : Chip),
      AMap.get? s.chip.ale.rings n = some r →
      arPlay r = true →
      r.fetched = none →
      r.block + 1 ≤ syncCount (s.chip.sync (arU r 12 2)) →
      s.chip.loadRange aleMaster s.chip.aleSlice (arBuf r r.block) (arBlockBytes r) = (.ok, b, c) →
      exec (.playbackFetch n) s = .next { s with chip := Chip.settle (c.updRing n (fun r => { r with fetched := some b })) }) ∧
  (∀ (s : State) (n : Nat) (r : AleRing),
      AMap.get? s.chip.ale.rings n = some r →
      arPlay r = true →
      s.chip.arFrame r r.block ≤ frameOf s.chip.now →
      exec (.playbackBlockStart n) s = .next { s with chip := Chip.settle (s.chip.startBlock n r) }) ∧
  (∀ (s : State),
      s.chip.ale.params.isEmpty = false →
      apU s.chip.ale.params 152 4 ≤ s.chip.ale.statSteps →
      exec (.statusRecord) s = .next { s with chip := Chip.settle (s.chip.putStatus) }) ∧
  (∀ (s : State),
      s.chip.ale.params.isEmpty = true ∨ s.chip.ale.statSteps < apU s.chip.ale.params 152 4 →
      exec (.statusRecord) s = .next { s with chip := Chip.settle (s.chip) })

/-- A started GFX_PASS that passes the checks of R265 hands its pass to Fondant and asks Sluice for its budget;
one that fails a check completes with that check's status. A ready pass with its budget and its turn runs its
vertex stage over the primitives that survive, and without them nothing happens. A pass paused for bin memory,
with nothing rendering, has its screen tiles flushed and binning resumes; a tile that cannot be loaded or
stored fails the pass, at a flush as at its end. The pass that renders stores its screen tiles and completes
DONE with its result word, or fails with the cause that stopped it after the tiles stored before. A ready pass
of a higher class takes the cores. A core over GFX_HANG_LIMIT fails the pass with cause 3; with the limit 0
nothing happens. -/
def Obligations.PassesRunThroughFondant : Prop :=
  (∀ (s : State) (q : Packet) (c1 : Chip),
      s.chip.startedAs q 0x400 →
      (q.pass s.chip.gfx.started).fieldsStatus = none →
      s.chip.passLists (q.pass s.chip.gfx.started) = (none, c1) →
      exec (.gfxPass q.id) s = .next { s with chip := Chip.settle (c1.handPass (q.pass s.chip.gfx.started)) }) ∧
  (∀ (s : State) (q : Packet) (st : Nat),
      s.chip.startedAs q 0x400 →
      (q.pass s.chip.gfx.started).fieldsStatus = some st →
      exec (.gfxPass q.id) s = .next { s with chip := Chip.settle (s.chip.finish q.id st) }) ∧
  (∀ (s : State) (q : Packet) (st : Nat) (c1 : Chip),
      s.chip.startedAs q 0x400 →
      (q.pass s.chip.gfx.started).fieldsStatus = none →
      s.chip.passLists (q.pass s.chip.gfx.started) = (some st, c1) →
      exec (.gfxPass q.id) s = .next { s with chip := Chip.settle (c1.finish q.id st) }) ∧
  (∀ (s : State) (p : Pass) (l : List (List Nat × Nat × List Nat)),
      s.chip.pass? p.id = some p →
      s.chip.passTurn p = true →
      exec (.passGeometry p.id l) s = .next { s with chip := Chip.settle (s.chip.afterBin (Pass.binAll { p with phase := .geometry, began := s.chip.now } (sortByKey (·.1) l))) }) ∧
  (∀ (s : State) (p : Pass) (l : List (List Nat × Nat × List Nat)),
      s.chip.pass? p.id = some p →
      s.chip.passTurn p = false →
      exec (.passGeometry p.id l) s = .next { s with chip := Chip.settle (s.chip) }) ∧
  (∀ (s : State) (p : Pass) (fr : List FragWord) (c1 : Chip),
      s.chip.pass? p.id = some p →
      p.phase = .geometry →
      p.rest.isEmpty = false →
      s.chip.gfx.rendering = none →
      s.chip.renderTiles p true (fr.map p.fragOf) (List.range p.tileCount) = (0, c1) →
      exec (.partialFlush ⟨p.id, fr⟩) s = .next { s with chip := Chip.settle (c1.flushed p) }) ∧
  (∀ (s : State) (p : Pass) (o : Nat) (fr : List FragWord) (c1 : Chip),
      s.chip.pass? p.id = some p →
      p.phase = .geometry →
      p.rest.isEmpty = false →
      s.chip.gfx.rendering = none →
      o ≠ 0 →
      s.chip.renderTiles p true (fr.map p.fragOf) (List.range p.tileCount) = (o, c1) →
      exec (.partialFlush ⟨p.id, fr⟩) s = .next { s with chip := Chip.settle (c1.failSomewhere p o) }) ∧
  (∀ (s : State) (p : Pass) (l : List Nat) (fr : List FragWord) (c1 : Chip),
      s.chip.pass? p.id = some p →
      p.phase = .render →
      s.chip.gfx.rendering = some p.id →
      s.chip.renderTiles p false (fr.map p.fragOf) (List.range p.tileCount) = (0, c1) →
      exec (.passComplete ⟨p.id, fr⟩ 0 0 0 l) s = .next { s with chip := Chip.settle ((c1.count GFX_PASSES GFX_PASSES.COUNT 1).endPass p stDone (p.result c1.now) 0) }) ∧
  (∀ (s : State) (p : Pass) (k a o : Nat) (l : List Nat) (fr : List FragWord) (c1 : Chip),
      s.chip.pass? p.id = some p →
      k = 1 ∨ k = 2 ∨ k = 4 ∨ k = 5 →
      p.phase = .render →
      s.chip.gfx.rendering = some p.id →
      s.chip.renderTiles p false (fr.map p.fragOf) (l.filter (fun t => decide (t < p.tileCount))) = (0, c1) →
      exec (.passComplete ⟨p.id, fr⟩ k a o l) s = .next { s with chip := Chip.settle (c1.failPass p k a o) }) ∧
  (∀ (s : State) (p : Pass) (k a o e : Nat) (l : List Nat) (fr : List FragWord) (c1 : Chip),
      s.chip.pass? p.id = some p →
      k = 0 ∨ k = 1 ∨ k = 2 ∨ k = 4 ∨ k = 5 →
      p.phase = .render →
      s.chip.gfx.rendering = some p.id →
      e ≠ 0 →
      s.chip.renderTiles p false (fr.map p.fragOf) (if k = 0 then List.range p.tileCount else l.filter (fun t => decide (t < p.tileCount))) = (e, c1) →
      exec (.passComplete ⟨p.id, fr⟩ k a o l) s = .next { s with chip := Chip.settle (c1.failPass p e a o) }) ∧
  (∀ (s : State) (p x : Pass),
      s.chip.pass? p.id = some p →
      s.chip.gfx.rendering.bind s.chip.pass? = some x →
      s.chip.mayTake p x = true →
      exec (.passTakeover p.id) s = .next { s with chip := Chip.settle (s.chip.takeCores p x) }) ∧
  (∀ (s : State) (p : Pass) (a o : Nat) (l : List Nat) (fr : List FragWord) (c1 : Chip),
      s.chip.pass? p.id = some p →
      s.chip.gfx.rendering = some p.id →
      s.chip.reg GFX_HANG_LIMIT ≠ 0 →
      s.chip.renderTiles p false (fr.map p.fragOf) (l.filter (fun t => decide (t < p.tileCount))) = (0, c1) →
      exec (.gfxHang ⟨p.id, fr⟩ a o l) s = .next { s with chip := Chip.settle (c1.failPass p 3 a o) }) ∧
  (∀ (s : State) (p : Pass) (a o : Nat) (l : List Nat) (fr : List FragWord),
      s.chip.pass? p.id = some p →
      s.chip.reg GFX_HANG_LIMIT = 0 →
      exec (.gfxHang ⟨p.id, fr⟩ a o l) s = .next { s with chip := Chip.settle (s.chip) })

/-- Tag 0 and the tag of the display slice, and no other, write the pipes' registers. DSP_PIPE_CTRL takes bits
1:0; EN of a pipe that does not scan starts it with its regions latched. DSP_COMMIT with GO loads the pending
copy at once into a stopped pipe with its timing, and waits for the vertical blank of a running one, where it
loads without the timing. DSP_OUT_CFG is written while the pipe is stopped; EN newly set, with the link
trained, shows TRAINED, the lanes and the rate and tells the slice. A lost link shows TRAINED 0 and tells the
slice. The end of a frame counts it, latches and compares its regions, and takes the regions of the next. A
pipe that ends no frame in two frame periods mismatches on every enabled region. -/
def Obligations.DisplayPipesScan : Prop :=
  (∀ (s : State) (tag n : Nat) (v : W32),
      s.chip.dspTag tag = true →
      n < 4 →
      bitOf v.toNat 0 = true →
      ((s.chip.setReg (DSP_PIPE_CTRL n) (v.toNat % 4)).pipe n).scanning = false →
      exec (.dspPipeEnable tag n v) s = .next { s with chip := Chip.settle ((s.chip.setReg (DSP_PIPE_CTRL n) (v.toNat % 4)).startPipe n) }) ∧
  (∀ (s : State) (tag n : Nat) (v : W32),
      s.chip.dspTag tag = true →
      n < 4 →
      bitOf v.toNat 0 = false →
      exec (.dspPipeEnable tag n v) s = .next { s with chip := Chip.settle (s.chip.setReg (DSP_PIPE_CTRL n) (v.toNat % 4)) }) ∧
  (∀ (s : State) (tag n : Nat) (v : W32),
      s.chip.dspTag tag = false →
      exec (.dspPipeEnable tag n v) s = .next { s with chip := Chip.settle (s.chip) } ∧ exec (.dspCommit tag n v) s = .next { s with chip := Chip.settle (s.chip) } ∧ (∀ t l r, exec (.displayLinkTraining tag n v t l r) s = .next { s with chip := Chip.settle (s.chip) })) ∧
  (∀ (s : State) (tag n : Nat) (v : W32),
      s.chip.dspTag tag = true →
      n < 4 →
      bitOf v.toNat 1 = false →
      bitOf v.toNat 0 = true →
      s.chip.flag (DSP_PIPE_CTRL n) DSP_PIPE_CTRL.EN = false →
      exec (.dspCommit tag n v) s = .next { s with chip := Chip.settle (s.chip.loadPipe n true) }) ∧
  (∀ (s : State) (tag n : Nat) (v : W32),
      s.chip.dspTag tag = true →
      n < 4 →
      bitOf v.toNat 1 = false →
      bitOf v.toNat 0 = true →
      s.chip.flag (DSP_PIPE_CTRL n) DSP_PIPE_CTRL.EN = true →
      exec (.dspCommit tag n v) s = .next { s with chip := Chip.settle (s.chip.setFld (DSP_COMMIT n) DSP_COMMIT.GO 1) }) ∧
  (∀ (s : State) (tag n : Nat) (v : W32),
      s.chip.dspTag tag = true →
      n < 4 →
      bitOf v.toNat 1 = true →
      bitOf v.toNat 0 = false →
      exec (.dspCommit tag n v) s = .next { s with chip := Chip.settle (s.chip.setFld (DSP_COMMIT n) DSP_COMMIT.REFUSED 0) }) ∧
  (∀ (s : State) (n : Nat),
      n < 4 →
      s.chip.flag (DSP_COMMIT n) DSP_COMMIT.GO = true →
      exec (.commitLoad n) s = .next { s with chip := Chip.settle (s.chip.loadPipe n false) }) ∧
  (∀ (s : State) (n : Nat),
      s.chip.flag (DSP_COMMIT n) DSP_COMMIT.GO = false →
      exec (.commitLoad n) s = .next { s with chip := Chip.settle (s.chip) }) ∧
  (∀ (s : State) (tag n : Nat) (v : W32) (l r : Nat),
      s.chip.dspTag tag = true →
      n < 4 →
      s.chip.flag (DSP_PIPE_CTRL n) DSP_PIPE_CTRL.EN = false →
      bitOf v.toNat 0 = true →
      s.chip.flag (DSP_OUT_CFG n) DSP_OUT_CFG.EN = false →
      exec (.displayLinkTraining tag n v true l r) s = .next { s with chip := Chip.settle ((s.chip.writeOut n v.toNat).linkTrained n l r) }) ∧
  (∀ (s : State) (tag n : Nat) (v : W32) (b : Bool) (l r : Nat),
      s.chip.dspTag tag = true →
      n < 4 →
      s.chip.flag (DSP_PIPE_CTRL n) DSP_PIPE_CTRL.EN = false →
      bitOf v.toNat 0 = false ∨ s.chip.flag (DSP_OUT_CFG n) DSP_OUT_CFG.EN = true ∨ b = false →
      exec (.displayLinkTraining tag n v b l r) s = .next { s with chip := Chip.settle (s.chip.writeOut n v.toNat) }) ∧
  (∀ (s : State) (n : Nat) (b : Bool),
      n < 4 →
      s.chip.flag (DSP_OUT_CFG n) DSP_OUT_CFG.EN = true →
      exec (.displayLinkLoss n b) s = .next { s with chip := Chip.settle ((s.chip.setFld (DSP_OUT_CFG n) DSP_OUT_CFG.TRAINED 0).event s.chip.dspSlice 0x0304 n 0 (b2n b) (s.chip.linkWord n)) }) ∧
  (∀ (s : State) (n u : Nat) (l : List (Nat × Nat)) (k : List Nat) (c1 : Chip),
      n < 4 →
      (s.chip.pipe n).scanning = true →
      s.chip.frameLines n l (List.range ((s.chip.pipe n).vTiming % 2 ^ 16)) (List.replicate 16 0xFFFFFFFF) 0 = (k, u, c1) →
      exec (.frameEndCrc n l) s = .next { s with chip := Chip.settle (c1.endFrame n (s.chip.pipe n) k u) }) ∧
  (∀ (s : State) (n : Nat),
      n < 4 →
      (s.chip.pipe n).scanning = true →
      (s.chip.pipe n).lastEnd + 2 * (s.chip.pipe n).period ≤ s.chip.now →
      exec (.pipeStall n) s = .next { s with chip := Chip.settle ((s.chip.setPipe n { s.chip.pipe n with lastEnd := s.chip.now }).regionFinding n ((List.range 16).filter (bitOf (s.chip.pipe n).crcEn))) })

/-- A SAFE_PROFILE_SET whose OP is above 5 completes BAD_PARAM. OP 0 with legal fields, an output that is not
armed, a first deadline far enough ahead, a profile in slice 0's pages that can be read and is good, and the
record ring and object of the output's slice configures the output with its copied profile and completes DONE;
otherwise it completes with the status of the first check. OP 1 clears an armed output's watch. OP 2 releases
a function group, OP 3 forces it into its safe state with cause FORCED, OP 4 takes the safe-state message and
OP 5 the telltale watch of a pipe; each completes DONE, and BAD_PARAM where its fields are not legal. -/
def Obligations.SafetyOutputsAreConfigured : Prop :=
  (∀ (s : State) (p : Packet),
      s.chip.startedAs p 0x500 →
      5 < p.u 32 1 →
      exec (.outputSet p.id) s = .next { s with chip := Chip.settle (s.chip.finish p.id stBadParam) }) ∧
  (∀ (s : State) (p : Packet) (sl : Slice) (b : List Byte) (c1 : Chip),
      s.chip.startedAs p 0x500 →
      p.u 32 1 = 0 →
      s.chip.outputMay false p = true →
      s.chip.slice? (p.u 34 1) = some sl →
      s.chip.armed? (p.u 33 1) = none →
      s.chip.loadProfile (p.u 48 8) = (.ok, b, c1) →
      profileOk b = true →
      sl.hasSync (p.u 66 2) = true →
      c1.ownsPages (p.u 34 1) (p.u 56 8) (64 * 2 ^ p.u 64 1) = true →
      exec (.outputSet p.id) s = .next { s with chip := Chip.settle ((c1.setOutput (p.u 33 1) (p.output b)).finish p.id stDone) }) ∧
  (∀ (s : State) (p : Packet) (sl : Slice) (b : List Byte) (c1 : Chip),
      s.chip.startedAs p 0x500 →
      p.u 32 1 = 0 →
      s.chip.outputMay false p = true →
      s.chip.slice? (p.u 34 1) = some sl →
      s.chip.loadProfile (p.u 48 8) = (.denied, b, c1) →
      exec (.outputSet p.id) s = .next { s with chip := Chip.settle (c1.finish p.id stBadParam) }) ∧
  (∀ (s : State) (p : Packet) (sl : Slice) (b : List Byte) (c1 : Chip),
      s.chip.startedAs p 0x500 →
      p.u 32 1 = 0 →
      s.chip.outputMay false p = true →
      s.chip.slice? (p.u 34 1) = some sl →
      s.chip.loadProfile (p.u 48 8) = (.ok, b, c1) →
      profileOk b = false →
      exec (.outputSet p.id) s = .next { s with chip := Chip.settle (c1.finish p.id stBadParam) }) ∧
  (∀ (s : State) (p : Packet) (sl : Slice) (b : List Byte) (c1 : Chip),
      s.chip.startedAs p 0x500 →
      p.u 32 1 = 0 →
      s.chip.outputMay false p = true →
      s.chip.slice? (p.u 34 1) = some sl →
      s.chip.loadProfile (p.u 48 8) = (.ok, b, c1) →
      profileOk b = true →
      sl.hasSync (p.u 66 2) = false ∨ c1.ownsPages (p.u 34 1) (p.u 56 8) (64 * 2 ^ p.u 64 1) = false →
      exec (.outputSet p.id) s = .next { s with chip := Chip.settle (c1.finish p.id stNotOwner) }) ∧
  (∀ (s : State) (p : Packet),
      s.chip.startedAs p 0x500 →
      p.u 32 1 = 0 →
      s.chip.outputMay false p = false →
      exec (.outputSet p.id) s = .next { s with chip := Chip.settle (s.chip.finish p.id stBadParam) }) ∧
  (∀ (s : State) (p : Packet) (o : Output),
      s.chip.startedAs p 0x500 →
      p.u 32 1 = 1 →
      p.u 33 1 < 32 →
      zeroIn p.bytes 34 128 = true →
      s.chip.output? (p.u 33 1) = some o →
      o.armed = true →
      exec (.outputDisarm p.id) s = .next { s with chip := Chip.settle ((s.chip.setOutput (p.u 33 1) { o with arm := false, armed := false, met := false }).finish p.id stDone) }) ∧
  (∀ (s : State) (p : Packet) (o : Output),
      s.chip.startedAs p 0x500 →
      p.u 32 1 = 1 →
      p.u 33 1 < 32 →
      zeroIn p.bytes 34 128 = true →
      s.chip.output? (p.u 33 1) = some o →
      o.armed = false →
      exec (.outputDisarm p.id) s = .next { s with chip := Chip.settle (s.chip.finish p.id stDone) }) ∧
  (∀ (s : State) (p : Packet),
      s.chip.startedAs p 0x500 →
      p.u 32 1 = 1 →
      p.u 33 1 < 32 →
      zeroIn p.bytes 34 128 = true →
      s.chip.output? (p.u 33 1) = none →
      exec (.outputDisarm p.id) s = .next { s with chip := Chip.settle (s.chip.finish p.id stDone) }) ∧
  (∀ (s : State) (p : Packet),
      s.chip.startedAs p 0x500 →
      p.u 32 1 = 2 →
      p.u 33 1 < 4 →
      zeroIn p.bytes 34 128 = true →
      exec (.groupRelease p.id) s = .next { s with chip := Chip.settle ((s.chip.releaseGroup (p.u 33 1)).finish p.id stDone) }) ∧
  (∀ (s : State) (p : Packet),
      s.chip.startedAs p 0x500 →
      p.u 32 1 = 3 →
      p.u 33 1 < 4 →
      zeroIn p.bytes 34 128 = true →
      exec (.groupForce p.id) s = .next { s with chip := Chip.settle ((s.chip.enterSafe (p.u 33 1) ssForced 0xFF 0).finish p.id stDone) }) ∧
  (∀ (s : State) (p : Packet),
      s.chip.startedAs p 0x500 →
      p.u 32 1 = 2 →
      4 ≤ p.u 33 1 ∨ zeroIn p.bytes 34 128 = false →
      exec (.groupRelease p.id) s = .next { s with chip := Chip.settle (s.chip.finish p.id stBadParam) }) ∧
  (∀ (s : State) (p : Packet),
      s.chip.startedAs p 0x500 →
      p.u 32 1 = 3 →
      4 ≤ p.u 33 1 ∨ zeroIn p.bytes 34 128 = false →
      exec (.groupForce p.id) s = .next { s with chip := Chip.settle (s.chip.finish p.id stBadParam) }) ∧
  (∀ (s : State) (p : Packet),
      s.chip.startedAs p 0x500 →
      p.u 32 1 = 4 →
      p.messageFields = true →
      exec (.messageSet p.id) s = .next { s with chip := Chip.settle (Chip.finish { s.chip with safe := { s.chip.safe with message := some p.message, nextRepeat := s.chip.now + p.message.repeatMs * 1000000 } } p.id stDone) }) ∧
  (∀ (s : State) (p : Packet),
      s.chip.startedAs p 0x500 →
      p.u 32 1 = 4 →
      p.messageFields = false →
      exec (.messageSet p.id) s = .next { s with chip := Chip.settle (s.chip.finish p.id stBadParam) }) ∧
  (∀ (s : State) (p : Packet),
      s.chip.startedAs p 0x500 →
      p.u 32 1 = 5 →
      p.u 33 1 < 4 →
      bitsOf (p.u 34 1) 6 2 = 0 →
      p.u 35 1 ≤ 8 →
      zeroIn p.bytes 36 128 = true →
      exec (.telltaleSet p.id) s = .next { s with chip := Chip.settle (Chip.finish { s.chip with safe := { s.chip.safe with telltales := AMap.set s.chip.safe.telltales (p.u 33 1) p.telltale } } p.id stDone) })

/-- A started JOB_RUN_DIVERSE with legal fields whose two channels pass R182, whose release can be told, with room
in both lead queues and an output that suits both, queues the Safety job; illegal fields complete BAD_PARAM.
Weir takes the job that has waited longest: where every tensor can be read and none disagrees, the record is
published and the job completes; at a disagreement the output's fault follows and the job ends
CHANNEL_DISAGREE; a tensor that cannot be read fails its channel; with no job nothing happens. The window of a
deadline that closes met opens the next; one that closes missed has the miss record, count, event and safe
state of R299; a watch that does not judge, or a window still open, changes nothing. While a group is in its
safe state the message of kind 1 is repeated at its time. -/
def Obligations.SafetyJobsAreJudged : Prop :=
  (∀ (s : State) (p : Packet) (ka kb : Chan) (rel : Nat) (c1 c2 : Chip),
      s.chip.startedAs p 0x211 →
      p.diverseBad = false →
      s.chip.checkChan p.slice p.cls (p.u 32 2) (p.u 34 1) (p.u 48 8) (p.u 46 2) = (.ok ka, c1) →
      c1.releaseTime p (p.u 39 1) (p.u 44 2) (p.u 64 4) (p.u 72 8) = some rel →
      c1.queueDepth (ka.first / 16) < 256 →
      c1.checkChan p.slice p.cls (p.u 36 2) (p.u 35 1) (p.u 56 8) (p.u 46 2) = (.ok kb, c2) →
      c2.queueDepth (kb.first / 16) < 256 →
      c2.diverseStatus p ka kb = none →
      exec (.jobRunDiverse p.id) s = .next { s with chip := Chip.settle (c2.queueJob p (p.diverseJob ka kb rel c2.starts)) }) ∧
  (∀ (s : State) (p : Packet),
      s.chip.startedAs p 0x211 →
      p.diverseBad = true →
      exec (.jobRunDiverse p.id) s = .next { s with chip := Chip.settle (s.chip.finish p.id stBadParam) }) ∧
  (∀ (s : State) (id : Nat) (rest : List Nat) (j : Job) (o v n : Nat) (ka kb : Chan) (l : List Chan) (x : Output) (c : Chip) (w : Verdict) (c1 : Chip),
      s.chip.weir = id :: rest →
      (s.chip.weirNext rest).job? id = some j →
      j.kind = .diverse o v n →
      j.chans = ka :: kb :: l →
      (s.chip.weirNext rest).output? o = some x →
      (s.chip.weirNext rest).count SAF_WEIR_COMPARES SAF_WEIR_COMPARES.COUNT 1 = c →
      c.weirTensors j.slice ka kb (ka.sat || kb.sat) (x.tensors.zipIdx.map (fun p => (p.2, p.1))) {} = (.ok (), w, c1) →
      w.bad = none →
      exec (.weirDecision) s = .next { s with chip := Chip.settle (c1.weirAgrees j x w (satFlag ka kb x.tensors)) }) ∧
  (∀ (s : State) (id : Nat) (rest : List Nat) (j : Job) (o v n : Nat) (ka kb : Chan) (l : List Chan) (x : Output) (c : Chip) (w : Verdict) (t : Nat) (i : Option Nat) (c1 : Chip),
      s.chip.weir = id :: rest →
      (s.chip.weirNext rest).job? id = some j →
      j.kind = .diverse o v n →
      j.chans = ka :: kb :: l →
      (s.chip.weirNext rest).output? o = some x →
      (s.chip.weirNext rest).count SAF_WEIR_COMPARES SAF_WEIR_COMPARES.COUNT 1 = c →
      c.weirTensors j.slice ka kb (ka.sat || kb.sat) (x.tensors.zipIdx.map (fun p => (p.2, p.1))) {} = (.ok (), w, c1) →
      w.bad = some (t, i) →
      exec (.weirDecision) s = .next { s with chip := Chip.settle (c1.weirDisagrees j o w (satFlag ka kb x.tensors) (disagreeDetail x.tensors t i)) }) ∧
  (∀ (s : State) (id : Nat) (rest : List Nat) (j : Job) (o v n : Nat) (ka kb : Chan) (l : List Chan) (x : Output) (c : Chip) (w : Verdict) (a st : Nat) (c1 : Chip),
      s.chip.weir = id :: rest →
      (s.chip.weirNext rest).job? id = some j →
      j.kind = .diverse o v n →
      j.chans = ka :: kb :: l →
      (s.chip.weirNext rest).output? o = some x →
      (s.chip.weirNext rest).count SAF_WEIR_COMPARES SAF_WEIR_COMPARES.COUNT 1 = c →
      c.weirTensors j.slice ka kb (ka.sat || kb.sat) (x.tensors.zipIdx.map (fun p => (p.2, p.1))) {} = (.error (a, st), w, c1) →
      exec (.weirDecision) s = .next { s with chip := Chip.settle (c1.channelFailed id a st 0 w) }) ∧
  (∀ (s : State),
      s.chip.weir = [] →
      exec (.weirDecision) s = .next { s with chip := Chip.settle (s.chip) }) ∧
  (∀ (s : State) (i : Nat) (o : Output),
      s.chip.output? i = some o →
      s.chip.watching o = true →
      timeBefore o.deadline s.chip.now = true →
      o.met = true →
      exec (.deadlineMiss i) s = .next { s with chip := Chip.settle (s.chip.setOutput i { o with k := o.k + 1, met := false }) }) ∧
  (∀ (s : State) (i : Nat) (o : Output),
      s.chip.output? i = some o →
      s.chip.watching o = true →
      timeBefore o.deadline s.chip.now = true →
      o.met = false →
      exec (.deadlineMiss i) s = .next { s with chip := Chip.settle (s.chip.missed i o) }) ∧
  (∀ (s : State) (i : Nat) (o : Output),
      s.chip.output? i = some o →
      s.chip.watching o = false ∨ timeBefore o.deadline s.chip.now = false →
      exec (.deadlineMiss i) s = .next { s with chip := Chip.settle (s.chip) }) ∧
  (∀ (s : State) (f : Nat) (m : MessageCfg),
      (List.range 4).find? s.chip.inSafe = some f →
      s.chip.safe.message = some m →
      s.chip.safe.nextRepeat ≤ s.chip.now →
      exec (.safeMessageRepeat) s = .next { s with chip := Chip.settle (s.chip.repeatMessage f m) }) ∧
  (∀ (s : State),
      (List.range 4).find? s.chip.inSafe = none ∨ s.chip.safe.message = none →
      exec (.safeMessageRepeat) s = .next { s with chip := Chip.settle (s.chip) })

/-- A GOLDEN_SCHEDULE of OP 0 whose entry is legal and whose descriptor can be read and keeps its table sets the
entry and spreads its groups over the interval; OP 1 removes the entry and its groups; OP 2 makes the frames
of the entry's groups due now, and is BAD_PARAM without an entry. A golden run that falls due with no golden
job on its group is started on the group where nothing makes it wait, put off where something does, and failed
where its descriptor does not pass R182; the next frame is one interval on. At the end of a golden run a
failed job, a range that cannot be read or another hash fails the group; the right hash passes it. DIAG_MS
without a pass makes the group untested and degraded, with the event and the safe state. -/
def Obligations.GoldenFramesRun : Prop :=
  (∀ (s : State) (p : Packet) (b : List Byte) (c1 : Chip),
      s.chip.startedAs p 0x502 →
      p.u 33 1 ≤ 2 ∧ p.u 32 1 < 8 ∧ p.u 34 2 < 2 ^ 12 ∧ zeroIn p.bytes 54 64 = true →
      p.u 33 1 = 0 →
      s.chip.goldenMay p = true →
      s.chip.loadRange islandMaster 0 (p.u 40 8) 128 = (.ok, b, c1) →
      goldenOk b = true →
      exec (.goldenScheduleSet p.id) s = .next { s with chip := Chip.settle ((c1.setGolden (p.u 32 1) (p.golden b)).finish p.id stDone) }) ∧
  (∀ (s : State) (p : Packet),
      s.chip.startedAs p 0x502 →
      p.u 33 1 ≤ 2 ∧ p.u 32 1 < 8 ∧ p.u 34 2 < 2 ^ 12 ∧ zeroIn p.bytes 54 64 = true →
      p.u 33 1 = 0 →
      s.chip.goldenMay p = false →
      exec (.goldenScheduleSet p.id) s = .next { s with chip := Chip.settle (s.chip.finish p.id stBadParam) }) ∧
  (∀ (s : State) (p : Packet),
      s.chip.startedAs p 0x502 →
      p.u 33 1 ≤ 2 ∧ p.u 32 1 < 8 ∧ p.u 34 2 < 2 ^ 12 ∧ zeroIn p.bytes 54 64 = true →
      p.u 33 1 = 1 →
      exec (.goldenScheduleClear p.id) s = .next { s with chip := Chip.settle ((s.chip.clearGolden (p.u 32 1)).finish p.id stDone) }) ∧
  (∀ (s : State) (p : Packet) (e : Golden),
      s.chip.startedAs p 0x502 →
      p.u 33 1 ≤ 2 ∧ p.u 32 1 < 8 ∧ p.u 34 2 < 2 ^ 12 ∧ zeroIn p.bytes 54 64 = true →
      p.u 33 1 = 2 →
      AMap.get? s.chip.selfTest.golden (p.u 32 1) = some e →
      exec (.goldenScheduleRunNow p.id) s = .next { s with chip := Chip.settle ((s.chip.goldenNow e).finish p.id stDone) }) ∧
  (∀ (s : State) (p : Packet),
      s.chip.startedAs p 0x502 →
      p.u 33 1 ≤ 2 ∧ p.u 32 1 < 8 ∧ p.u 34 2 < 2 ^ 12 ∧ zeroIn p.bytes 54 64 = true →
      p.u 33 1 = 2 →
      AMap.get? s.chip.selfTest.golden (p.u 32 1) = none →
      exec (.goldenScheduleRunNow p.id) s = .next { s with chip := Chip.settle (s.chip.finish p.id stBadParam) }) ∧
  (∀ (s : State) (g e : Nat) (x : Golden) (y : GoldenGroup) (k : Chan) (c1 : Chip),
      s.chip.goldenOf g = some (e, x) →
      AMap.get? s.chip.selfTest.goldenGroups g = some y →
      y.due ≤ s.chip.now →
      s.chip.jobs.any (fun j => j.goldenOn g) = false →
      s.chip.checkChan 0 1 (bytesU x.desc 4 2) (bytesU x.desc 6 1) (bytesU x.desc 8 6) (bytesU x.desc 16 1) = (.ok k, c1) →
      k.first % 16 + k.tiles ≤ 16 →
      c1.goldenWaits g (k.onto g) = false →
      exec (.goldenRunDue g) s = .next { s with chip := Chip.settle (((c1.pressLow (k.onto g)).goldenNext g x y).goldenStart e x g (k.onto g)) }) ∧
  (∀ (s : State) (g e : Nat) (x : Golden) (y : GoldenGroup) (k : Chan) (c1 : Chip),
      s.chip.goldenOf g = some (e, x) →
      AMap.get? s.chip.selfTest.goldenGroups g = some y →
      y.due ≤ s.chip.now →
      s.chip.jobs.any (fun j => j.goldenOn g) = false →
      s.chip.checkChan 0 1 (bytesU x.desc 4 2) (bytesU x.desc 6 1) (bytesU x.desc 8 6) (bytesU x.desc 16 1) = (.ok k, c1) →
      k.first % 16 + k.tiles ≤ 16 →
      c1.goldenWaits g (k.onto g) = true →
      exec (.goldenRunDue g) s = .next { s with chip := Chip.settle (c1.goldenDefer g x.defer y) }) ∧
  (∀ (s : State) (g e : Nat) (x : Golden) (y : GoldenGroup) (st : Nat) (c1 : Chip),
      s.chip.goldenOf g = some (e, x) →
      AMap.get? s.chip.selfTest.goldenGroups g = some y →
      y.due ≤ s.chip.now →
      s.chip.jobs.any (fun j => j.goldenOn g) = false →
      s.chip.checkChan 0 1 (bytesU x.desc 4 2) (bytesU x.desc 6 1) (bytesU x.desc 8 6) (bytesU x.desc 16 1) = (.error st, c1) →
      exec (.goldenRunDue g) s = .next { s with chip := Chip.settle ((c1.goldenNext g x y).goldenFail g st) }) ∧
  (∀ (s : State) (g e : Nat) (x : Golden) (j : Job) (k : Chan) (l : List Chan) (st d : Nat) (b : List Byte) (c1 : Chip),
      s.chip.goldenJob? g = some j →
      s.chip.goldenOf g = some (e, x) →
      j.chans = k :: l →
      s.chip.chanEnd k = some (st, d) →
      isSuccess st = true →
      (s.chip.removeJob j.id).loadRange islandMaster 0 (x.outAt k) (bytesU x.desc 24 4) = (.ok, b, c1) →
      exec (.goldenRunEnd g) s = .next { s with chip := Chip.settle (if (Config.sha384 b).toNat = bytesU x.desc 32 48 then c1.goldenPass g else c1.goldenFail g 0) }) ∧
  (∀ (s : State) (g e : Nat) (x : Golden) (j : Job) (k : Chan) (l : List Chan) (st d : Nat),
      s.chip.goldenJob? g = some j →
      s.chip.goldenOf g = some (e, x) →
      j.chans = k :: l →
      s.chip.chanEnd k = some (st, d) →
      isSuccess st = false →
      exec (.goldenRunEnd g) s = .next { s with chip := Chip.settle ((s.chip.removeJob j.id).goldenFail g st) }) ∧
  (∀ (s : State) (g e : Nat) (x : Golden) (y : GoldenGroup),
      s.chip.goldenOf g = some (e, x) →
      AMap.get? s.chip.selfTest.goldenGroups g = some y →
      y.since + x.diag * 1000000 ≤ s.chip.now →
      exec (.goldenOverdue g) s = .next { s with chip := Chip.settle (s.chip.goldenLate g y) }) ∧
  (∀ (s : State) (g e : Nat) (x : Golden) (y : GoldenGroup),
      s.chip.goldenOf g = some (e, x) →
      AMap.get? s.chip.selfTest.goldenGroups g = some y →
      s.chip.now < y.since + x.diag * 1000000 →
      exec (.goldenOverdue g) s = .next { s with chip := Chip.settle (s.chip) })

/-- A mismatch of a comparing pair loses lockstep, and holds the island at the third one or where the short
self-test fails. A slice that is admitted starts on an idle tile of a running group with its budget, asks for
the budget before it has it, and wakes a group that stands; a step that is done advances the slice and keeps
the first failing step; a slice with a cause of R326 is aborted, else it goes on; a finished slice passes or
fails its tile and moves the explicit runs on. A checker's test that is due passes or fails it and completes
the packets that asked. What has gone without a pass for its time is told overdue. SELFTEST_RUN queues a tile,
the tiles of a group or a checker, or sets the periods, which take effect at the next boundary; illegal fields
are BAD_PARAM. -/
def Obligations.IslandTestsItself : Prop :=
  (∀ (s : State) (b : Bool),
      s.chip.pairCompares = true →
      3 ≤ s.chip.lockstepLost.reg SAF_LOCKSTEP_MISMATCHES →
      exec (.lockstepMismatch b) s = .next { s with chip := Chip.settle (s.chip.lockstepLost.holdIsland) }) ∧
  (∀ (s : State),
      s.chip.pairCompares = true →
      s.chip.lockstepLost.reg SAF_LOCKSTEP_MISMATCHES < 3 →
      exec (.lockstepMismatch true) s = .next { s with chip := Chip.settle (s.chip.lockstepLost.setFld SAF_ISLAND_STATUS SAF_ISLAND_STATUS.STATE 2) } ∧ exec (.lockstepMismatch false) s = .next { s with chip := Chip.settle (s.chip.lockstepLost.holdIsland.errorOpen 3 8 0) }) ∧
  (∀ (s : State) (b : Bool),
      s.chip.pairCompares = false →
      exec (.lockstepMismatch b) s = .next { s with chip := Chip.settle (s.chip) }) ∧
  (∀ (s : State) (n : Nat),
      n < 192 →
      s.chip.flag SAF_ISLAND_STATUS SAF_ISLAND_STATUS.HELD = false →
      (s.chip.testPeriod.pressTile n).sliceAdmitted n = true →
      (s.chip.testPeriod.pressTile n).groupState (n / 16) = gsRunning →
      (s.chip.testPeriod.pressTile n).tileState n = tsIdle →
      ((s.chip.testPeriod.pressTile n).askTest n).granted (.test n) = true →
      exec (.selftestSliceStart n) s = .next { s with chip := Chip.settle (((s.chip.testPeriod.pressTile n).askTest n).beginSlice n) }) ∧
  (∀ (s : State) (n : Nat),
      n < 192 →
      s.chip.flag SAF_ISLAND_STATUS SAF_ISLAND_STATUS.HELD = false →
      (s.chip.testPeriod.pressTile n).sliceAdmitted n = true →
      (s.chip.testPeriod.pressTile n).groupState (n / 16) = gsRunning →
      (s.chip.testPeriod.pressTile n).tileState n = tsIdle →
      ((s.chip.testPeriod.pressTile n).askTest n).granted (.test n) = false →
      exec (.selftestSliceStart n) s = .next { s with chip := Chip.settle ((s.chip.testPeriod.pressTile n).askTest n) }) ∧
  (∀ (s : State) (n : Nat),
      n < 192 →
      s.chip.flag SAF_ISLAND_STATUS SAF_ISLAND_STATUS.HELD = false →
      (s.chip.testPeriod.pressTile n).sliceAdmitted n = true →
      (s.chip.testPeriod.pressTile n).groupState (n / 16) ≠ gsRunning →
      exec (.selftestSliceStart n) s = .next { s with chip := Chip.settle ((s.chip.testPeriod.pressTile n).wakeFor (n / 16)) }) ∧
  (∀ (s : State) (n : Nat),
      n < 192 →
      s.chip.flag SAF_ISLAND_STATUS SAF_ISLAND_STATUS.HELD = false →
      (s.chip.testPeriod.pressTile n).sliceAdmitted n = false →
      exec (.selftestSliceStart n) s = .next { s with chip := Chip.settle ((s.chip.testPeriod.pressTile n)) }) ∧
  (∀ (s : State) (n : Nat) (t : TileTest),
      n < 192 →
      s.chip.tileTest n = t →
      t.running = true →
      t.step < 90 →
      exec (.selftestStep n true) s = .next { s with chip := Chip.settle (s.chip.setTileTest n { t with step := t.step + 1 }) } ∧ exec (.selftestStep n false) s = .next { s with chip := Chip.settle (s.chip.setTileTest n { t with step := t.step + 1, firstFail := some (t.firstFail.getD t.step) }) }) ∧
  (∀ (s : State) (n : Nat) (k : Nat),
      n < 192 →
      (s.chip.tileTest n).running = true →
      (s.chip.tileTest n).step ≠ 90 →
      s.chip.abortCause n (s.chip.tileTest n) = some k →
      exec (.selftestAbort n) s = .next { s with chip := Chip.settle (s.chip.abortSlice n k) }) ∧
  (∀ (s : State) (n : Nat),
      s.chip.abortCause n (s.chip.tileTest n) = none →
      exec (.selftestAbort n) s = .next { s with chip := Chip.settle (s.chip) }) ∧
  (∀ (s : State) (n : Nat),
      n < 192 →
      (s.chip.tileTest n).running = true →
      90 ≤ (s.chip.tileTest n).step →
      (s.chip.tileTest n).firstFail = none →
      exec (.selftestSliceEnd n) s = .next { s with chip := Chip.settle (((s.chip.runsAt n).foldl (fun c r => c.advanceRun n (s.chip.tileTest n) r) ((s.chip.sliceOver n).tilePassed n (!(s.chip.runsAt n).isEmpty))).showQueued n) }) ∧
  (∀ (s : State) (n : Nat) (f : Nat),
      n < 192 →
      (s.chip.tileTest n).running = true →
      90 ≤ (s.chip.tileTest n).step →
      (s.chip.tileTest n).firstFail = some f →
      exec (.selftestSliceEnd n) s = .next { s with chip := Chip.settle (((s.chip.runsAt n).foldl (fun c r => c.advanceRun n (s.chip.tileTest n) r) ((s.chip.sliceOver n).tileFailed n f)).showQueued n) }) ∧
  (∀ (s : State) (k : Nat) (f us : Nat),
      k < 7 →
      s.chip.flag SAF_ISLAND_STATUS SAF_ISLAND_STATUS.HELD = false →
      s.chip.checkDue k = true →
      exec (.checkerTest k true f us) s = .next { s with chip := Chip.settle ((s.chip.selfTest.checks.filter (fun x => x.2 == k)).foldl (fun c x => c.finish x.1 stDone (testResult false none 0 us)) ((s.chip.checkTaken k).checkerPass k)) } ∧ exec (.checkerTest k false f us) s = .next { s with chip := Chip.settle ((s.chip.selfTest.checks.filter (fun x => x.2 == k)).foldl (fun c x => c.finish x.1 stDone (testResult true (some (f % 2 ^ 8)) 0 us)) ((s.chip.checkTaken k).checkerFail k f)) }) ∧
  (∀ (s : State) (k : Nat) (b : Bool) (f us : Nat),
      s.chip.checkDue k = false →
      exec (.checkerTest k b f us) s = .next { s with chip := Chip.settle (s.chip) }) ∧
  (∀ (s : State) (n : Nat),
      n < 192 →
      s.chip.tileOverdue n = true →
      exec (.selftestOverdue n) s = .next { s with chip := Chip.settle ((s.chip.setFld (SAF_ST_TILE n) SAF_ST_TILE.OVERDUE 1).event 0 0x0412 n 0 (s.chip.reg (SAF_ST_PASS n)) 0) }) ∧
  (∀ (s : State) (k : Nat),
      k < 7 →
      s.chip.checkOverdue k = true →
      exec (.selftestOverdue (0x100 + k)) s = .next { s with chip := Chip.settle (s.chip.checkLate k) }) ∧
  (∀ (s : State) (n : Nat),
      n < 192 →
      s.chip.tileOverdue n = false →
      exec (.selftestOverdue n) s = .next { s with chip := Chip.settle (s.chip) }) ∧
  (∀ (s : State) (p : Packet),
      s.chip.startedAs p 0x501 →
      p.testBad = false →
      p.u 32 1 = 0 →
      exec (.selftestTile p.id) s = .next { s with chip := Chip.settle (s.chip.queueTiles p [p.u 33 1] false) }) ∧
  (∀ (s : State) (p : Packet),
      s.chip.startedAs p 0x501 →
      p.testBad = false →
      p.u 32 1 = 1 →
      exec (.selftestGroup p.id) s = .next { s with chip := Chip.settle (s.chip.queueTiles p ((List.range 16).map (· + 16 * p.u 33 1)) true) }) ∧
  (∀ (s : State) (p : Packet),
      s.chip.startedAs p 0x501 →
      p.testBad = false →
      p.u 32 1 = 2 →
      exec (.selftestChecker p.id) s = .next { s with chip := Chip.settle ((s.chip.updTest (fun t => { t with checks := t.checks ++ [(p.id, p.u 33 1)] })).keepRunning p.id) }) ∧
  (∀ (s : State) (p : Packet),
      s.chip.startedAs p 0x501 →
      p.testBad = false →
      p.u 32 1 = 3 →
      exec (.selftestSchedule p.id) s = .next { s with chip := Chip.settle (if testTimesOk p.testTimes = true then (s.chip.updTest (fun t => { t with next := some p.testTimes })).finish p.id stDone else s.chip.finish p.id stBadParam) }) ∧
  (∀ (s : State) (p : Packet),
      s.chip.startedAs p 0x501 →
      p.testBad = true →
      exec (.selftestTile p.id) s = .next { s with chip := Chip.settle (s.chip.finish p.id stBadParam) } ∧ exec (.selftestGroup p.id) s = .next { s with chip := Chip.settle (s.chip.finish p.id stBadParam) } ∧ exec (.selftestChecker p.id) s = .next { s with chip := Chip.settle (s.chip.finish p.id stBadParam) } ∧ exec (.selftestSchedule p.id) s = .next { s with chip := Chip.settle (s.chip.finish p.id stBadParam) })

/-- For each of the twelve entries of R344: where no exception of R339 is due, the checks of R340 step 3 pass, the
mailbox is idle, the PARAM_IN bytes of the block can be read under the identity of the caller, and a cockpit
entry is not withdrawn, the command answers the part after the entry has run on the copy of the block with
room for PARAM_OUT: ended with the reply of R340, or still running. The call is counted in SEC_GATE_CALLS
before the read. -/
def Obligations.GateCallsRunTheirEntries : Prop :=
  (∀ (s : State) (hart mode rd block len : Nat) (g : GateEntry) (b : List Byte) (c : Chip),
      s.part.gateOpens g 0x0010 hart mode block len = true →
      s.sec.waiting = [] →
      s.sec.running = none →
      (s.chip.count SEC_GATE_CALLS SEC_GATE_CALLS.COUNT 1).loadRange (hartMaster hart) (s.chip.hartTag hart) block g.pin = (.ok, b, c) →
      (g.cls = 2 → c.flag SEC_STATUS SEC_STATUS.COCKPIT_WITHDRAWN = false) →
      exec (.pageOwnerSet hart mode rd block len) s = .next (s.withPart (Part.showSec (GateReq.ended (s.part.gateReq g 0x0010 hart rd block len) (g.copyOf b) (entryOwnerSet (s.part.gateReq g 0x0010 hart rd block len) (g.copyOf b) ⟨c, s.sec⟩))))) ∧
  (∀ (s : State) (hart mode rd block len : Nat) (g : GateEntry) (b : List Byte) (c : Chip),
      s.part.gateOpens g 0x0011 hart mode block len = true →
      s.sec.waiting = [] →
      s.sec.running = none →
      (s.chip.count SEC_GATE_CALLS SEC_GATE_CALLS.COUNT 1).loadRange (hartMaster hart) (s.chip.hartTag hart) block g.pin = (.ok, b, c) →
      (g.cls = 2 → c.flag SEC_STATUS SEC_STATUS.COCKPIT_WITHDRAWN = false) →
      exec (.pageOwnerQuery hart mode rd block len) s = .next (s.withPart (Part.showSec (GateReq.ended (s.part.gateReq g 0x0011 hart rd block len) (g.copyOf b) (entryOwnerQuery (s.part.gateReq g 0x0011 hart rd block len) (g.copyOf b) ⟨c, s.sec⟩))))) ∧
  (∀ (s : State) (hart mode rd block len : Nat) (g : GateEntry) (b : List Byte) (c : Chip),
      s.part.gateOpens g 0x0012 hart mode block len = true →
      s.sec.waiting = [] →
      s.sec.running = none →
      (s.chip.count SEC_GATE_CALLS SEC_GATE_CALLS.COUNT 1).loadRange (hartMaster hart) (s.chip.hartTag hart) block g.pin = (.ok, b, c) →
      (g.cls = 2 → c.flag SEC_STATUS SEC_STATUS.COCKPIT_WITHDRAWN = false) →
      exec (.rollbackCommit hart mode rd block len) s = .next (s.withPart (Part.showSec (GateReq.ended (s.part.gateReq g 0x0012 hart rd block len) (g.copyOf b) (entryRollback (s.part.gateReq g 0x0012 hart rd block len) (g.copyOf b) ⟨c, s.sec⟩))))) ∧
  (∀ (s : State) (hart mode rd block len : Nat) (g : GateEntry) (b : List Byte) (c : Chip),
      s.part.gateOpens g 0x0020 hart mode block len = true →
      s.sec.waiting = [] →
      s.sec.running = none →
      (s.chip.count SEC_GATE_CALLS SEC_GATE_CALLS.COUNT 1).loadRange (hartMaster hart) (s.chip.hartTag hart) block g.pin = (.ok, b, c) →
      (g.cls = 2 → c.flag SEC_STATUS SEC_STATUS.COCKPIT_WITHDRAWN = false) →
      exec (.gateAttest hart mode rd block len) s = .next (s.withPart (Part.showSec (GateReq.ended (s.part.gateReq g 0x0020 hart rd block len) (g.copyOf b) (entryAttest (s.part.gateReq g 0x0020 hart rd block len) (g.copyOf b) ⟨c, s.sec⟩))))) ∧
  (∀ (s : State) (hart mode rd block len : Nat) (g : GateEntry) (b : List Byte) (c : Chip),
      s.part.gateOpens g 0x0021 hart mode block len = true →
      s.sec.waiting = [] →
      s.sec.running = none →
      (s.chip.count SEC_GATE_CALLS SEC_GATE_CALLS.COUNT 1).loadRange (hartMaster hart) (s.chip.hartTag hart) block g.pin = (.ok, b, c) →
      (g.cls = 2 → c.flag SEC_STATUS SEC_STATUS.COCKPIT_WITHDRAWN = false) →
      exec (.gateRandom hart mode rd block len) s = .next (s.withPart (Part.showSec (GateReq.ended (s.part.gateReq g 0x0021 hart rd block len) (g.copyOf b) (entryRandom (s.part.gateReq g 0x0021 hart rd block len) (g.copyOf b) ⟨c, s.sec⟩))))) ∧
  (∀ (s : State) (hart mode rd block len : Nat) (g : GateEntry) (b : List Byte) (c : Chip),
      s.part.gateOpens g 0x0030 hart mode block len = true →
      s.sec.waiting = [] →
      s.sec.running = none →
      (s.chip.count SEC_GATE_CALLS SEC_GATE_CALLS.COUNT 1).loadRange (hartMaster hart) (s.chip.hartTag hart) block g.pin = (.ok, b, c) →
      (g.cls = 2 → c.flag SEC_STATUS SEC_STATUS.COCKPIT_WITHDRAWN = false) →
      exec (.debugChallenge hart mode rd block len) s = .next (s.withPart (Part.showSec (GateReq.ended (s.part.gateReq g 0x0030 hart rd block len) (g.copyOf b) (entryChallenge (s.part.gateReq g 0x0030 hart rd block len) (g.copyOf b) ⟨c, s.sec⟩))))) ∧
  (∀ (s : State) (hart mode rd block len : Nat) (g : GateEntry) (b : List Byte) (c : Chip),
      s.part.gateOpens g 0x0031 hart mode block len = true →
      s.sec.waiting = [] →
      s.sec.running = none →
      (s.chip.count SEC_GATE_CALLS SEC_GATE_CALLS.COUNT 1).loadRange (hartMaster hart) (s.chip.hartTag hart) block g.pin = (.ok, b, c) →
      (g.cls = 2 → c.flag SEC_STATUS SEC_STATUS.COCKPIT_WITHDRAWN = false) →
      exec (.debugOpen hart mode rd block len) s = .next (s.withPart (Part.showSec (GateReq.ended (s.part.gateReq g 0x0031 hart rd block len) (g.copyOf b) (entryDebugOpen (s.part.gateReq g 0x0031 hart rd block len) (g.copyOf b) ⟨c, s.sec⟩))))) ∧
  (∀ (s : State) (hart mode rd block len : Nat) (g : GateEntry) (b : List Byte) (c : Chip),
      s.part.gateOpens g 0x0032 hart mode block len = true →
      s.sec.waiting = [] →
      s.sec.running = none →
      (s.chip.count SEC_GATE_CALLS SEC_GATE_CALLS.COUNT 1).loadRange (hartMaster hart) (s.chip.hartTag hart) block g.pin = (.ok, b, c) →
      (g.cls = 2 → c.flag SEC_STATUS SEC_STATUS.COCKPIT_WITHDRAWN = false) →
      exec (.debugClose hart mode rd block len) s = .next (s.withPart (Part.showSec (GateReq.ended (s.part.gateReq g 0x0032 hart rd block len) (g.copyOf b) (entryDebugClose (s.part.gateReq g 0x0032 hart rd block len) (g.copyOf b) ⟨c, s.sec⟩))))) ∧
  (∀ (s : State) (hart mode rd block len : Nat) (g : GateEntry) (b : List Byte) (c : Chip),
      s.part.gateOpens g 0x0040 hart mode block len = true →
      s.sec.waiting = [] →
      s.sec.running = none →
      (s.chip.count SEC_GATE_CALLS SEC_GATE_CALLS.COUNT 1).loadRange (hartMaster hart) (s.chip.hartTag hart) block g.pin = (.ok, b, c) →
      (g.cls = 2 → c.flag SEC_STATUS SEC_STATUS.COCKPIT_WITHDRAWN = false) →
      exec (.netkeyLoad hart mode rd block len) s = .next (s.withPart (Part.showSec (GateReq.ended (s.part.gateReq g 0x0040 hart rd block len) (g.copyOf b) (entryNetKey (s.part.gateReq g 0x0040 hart rd block len) (g.copyOf b) ⟨c, s.sec⟩))))) ∧
  (∀ (s : State) (hart mode rd block len : Nat) (g : GateEntry) (b : List Byte) (c : Chip),
      s.part.gateOpens g 0x0050 hart mode block len = true →
      s.sec.waiting = [] →
      s.sec.running = none →
      (s.chip.count SEC_GATE_CALLS SEC_GATE_CALLS.COUNT 1).loadRange (hartMaster hart) (s.chip.hartTag hart) block g.pin = (.ok, b, c) →
      (g.cls = 2 → c.flag SEC_STATUS SEC_STATUS.COCKPIT_WITHDRAWN = false) →
      exec (.contentUnwrap hart mode rd block len) s = .next (s.withPart (Part.showSec (GateReq.ended (s.part.gateReq g 0x0050 hart rd block len) (g.copyOf b) (entryContent (s.part.gateReq g 0x0050 hart rd block len) (g.copyOf b) ⟨c, s.sec⟩))))) ∧
  (∀ (s : State) (hart mode rd block len : Nat) (g : GateEntry) (b : List Byte) (c : Chip),
      s.part.gateOpens g 0x0051 hart mode block len = true →
      s.sec.waiting = [] →
      s.sec.running = none →
      (s.chip.count SEC_GATE_CALLS SEC_GATE_CALLS.COUNT 1).loadRange (hartMaster hart) (s.chip.hartTag hart) block g.pin = (.ok, b, c) →
      (g.cls = 2 → c.flag SEC_STATUS SEC_STATUS.COCKPIT_WITHDRAWN = false) →
      exec (.vaultRead hart mode rd block len) s = .next (s.withPart (Part.showSec (GateReq.ended (s.part.gateReq g 0x0051 hart rd block len) (g.copyOf b) (entryVaultRead (s.part.gateReq g 0x0051 hart rd block len) (g.copyOf b) ⟨c, s.sec⟩))))) ∧
  (∀ (s : State) (hart mode rd block len : Nat) (g : GateEntry) (b : List Byte) (c : Chip),
      s.part.gateOpens g 0x0052 hart mode block len = true →
      s.sec.waiting = [] →
      s.sec.running = none →
      (s.chip.count SEC_GATE_CALLS SEC_GATE_CALLS.COUNT 1).loadRange (hartMaster hart) (s.chip.hartTag hart) block g.pin = (.ok, b, c) →
      (g.cls = 2 → c.flag SEC_STATUS SEC_STATUS.COCKPIT_WITHDRAWN = false) →
      exec (.vaultWrite hart mode rd block len) s = .next (s.withPart (Part.showSec (GateReq.ended (s.part.gateReq g 0x0052 hart rd block len) (g.copyOf b) (entryVaultWrite (s.part.gateReq g 0x0052 hart rd block len) (g.copyOf b) ⟨c, s.sec⟩)))))

/-- A GATE with another FUNCT traps with the illegal-instruction exception and its encoding; one whose entry does
not exist, or whose mode may not call it, traps with the exception of R339 and writes its notice. An owner set
that waits takes effect once no request is in flight on its pages, and its call ends DONE. A challenge lapses
60 s after its issue and stands before. The release of a claim by the service that runs under it ends that
service; a claim of 50 ms is released by the hardware with a record; before that nothing happens. The
vehicle-class watchdog writes its record where the ring has room and starts the part cold. The cockpit-class
watchdog withdraws the cockpit services, zeroises their keys and writes its record, once. A lost owner entry
is recorded and counts as 0x00, and is rewritten when no request is in flight on its page; a page outside the
memory is none. -/
def Obligations.MailboxFaultsClaimsAndWatchdogs : Prop :=
  (∀ (s : State) (hart mode : Nat) (w : W32),
      hart < 20 →
      bitsOf w.toNat 6 0 = 0x0B →
      bitsOf w.toNat 15 12 ≠ 0 →
      exec (.gateFault hart mode w) s = .next (s.withPart (⟨s.chip.gateTrap hart 1 w.toNat, s.sec⟩))) ∧
  (∀ (s : State) (hart mode k e : Nat) (w : W32),
      hart < 20 →
      bitsOf w.toNat 6 0 = 0x0B →
      bitsOf w.toNat 15 12 = 0 →
      s.sec.gateFault? (modeOf mode) (bitsOf w.toNat 31 16) = some (k, e) →
      exec (.gateFault hart mode w) s = .next (s.withPart (⟨(s.chip.draw.2.gateTrap hart e w.toNat).gateNotice hart w.toNat k s.chip.draw.1.toNat, s.sec⟩))) ∧
  (∀ (s : State) (q : GateReq) (f n x new : Nat) (inv ok : Bool),
      s.sec.running = some q →
      q.entry = 0x0010 →
      ownerArgs q.copy = (f, n, x, new, inv, ok) →
      s.chip.dramBusy f n = false →
      exec (.pageOwnerSetApply) s = .next (s.withPart ((s.chip.destroys.filter (·.drained)).foldl Part.finishDestroy (Part.gateFinish ⟨s.chip.giveOwners f n new inv, s.sec⟩ stDone)))) ∧
  (∀ (s : State) (r : List Byte) (t : Nat),
      s.sec.challenge = some (r, t) →
      t + 60000000000 ≤ s.chip.now →
      exec (.challengeLapse) s = .next (s.withPart (⟨s.chip, { s.sec with challenge := none }⟩))) ∧
  (∀ (s : State) (r : List Byte) (t : Nat),
      s.sec.challenge = some (r, t) →
      s.chip.now < t + 60000000000 →
      exec (.challengeLapse) s = .next (s.withPart (s.part))) ∧
  (∀ (s : State) (n : Nat) (q : GateReq),
      bitOf s.chip.claimed n = true →
      s.sec.running = some q →
      q.claimBit = some n →
      exec (.claimRelease n) s = .next (s.withPart ((let r := s.part.serviceDone q; Part.gateFinish ⟨r.2.chip.unclaim n, r.2.sec⟩ r.1)))) ∧
  (∀ (s : State) (n : Nat),
      bitOf s.chip.claimed n = true →
      (∀ q, s.sec.running = some q → q.claimBit ≠ some n) →
      exec (.claimRelease n) s = .next (s.withPart (⟨s.chip.unclaim n, s.sec⟩))) ∧
  (∀ (s : State) (n t : Nat),
      AMap.get? s.chip.power.claims n = some t →
      t + 50000000 ≤ s.chip.now →
      s.sec.running = none →
      exec (.claimExpiry n) s = .next (s.withPart (⟨s.chip.claimLate n, s.sec⟩))) ∧
  (∀ (s : State) (n t : Nat) (q : GateReq),
      AMap.get? s.chip.power.claims n = some t →
      t + 50000000 ≤ s.chip.now →
      s.sec.running = some q →
      q.claimBit = some n →
      exec (.claimExpiry n) s = .next (s.withPart (Part.gateFinish ⟨(s.chip.claimLate n).draw.2, s.sec⟩ ((s.chip.claimLate n).draw.1.toNat % 2 ^ 16)))) ∧
  (∀ (s : State) (n t : Nat),
      AMap.get? s.chip.power.claims n = some t →
      s.chip.now < t + 50000000 →
      exec (.claimExpiry n) s = .next (s.withPart (s.part))) ∧
  (∀ (s : State),
      exec (.wdtVehicleExpiry) s = .next (s.withPart (Part.beginCold ⟨s.chip.wdtRecord, s.sec⟩ 8))) ∧
  (∀ (s : State),
      s.chip.flag SEC_STATUS SEC_STATUS.COCKPIT_WITHDRAWN = false →
      exec (.wdtCockpitExpiry) s = .next (s.withPart (⟨(s.chip.setFld SEC_STATUS SEC_STATUS.COCKPIT_WITHDRAWN 1).secRecord 2 8 0xFF 0 0 none, { s.sec with contentKeys := [] }⟩))) ∧
  (∀ (s : State),
      s.chip.flag SEC_STATUS SEC_STATUS.COCKPIT_WITHDRAWN = true →
      exec (.wdtCockpitExpiry) s = .next (s.withPart (s.part))) ∧
  (∀ (s : State) (n : Nat),
      n * pageSize < s.chip.capacity →
      exec (.ownerEntryRepair n) s = .next { s with chip := Chip.settle (if (s.chip.ownerLost n).dramBusy n 1 = true then s.chip.ownerLost n else (s.chip.ownerLost n).ownerFixed n) }) ∧
  (∀ (s : State) (n : Nat),
      s.chip.capacity ≤ n * pageSize →
      exec (.ownerEntryRepair n) s = .next { s with chip := Chip.settle (s.chip) })

/-- A waiting read that meets no fill and no older write is served in its turn at its channel, and reads of its
sector with it, and waits before it; one whose last older write covers its whole sector takes the bytes of
that write; one of a block under a zero-fill waits for the fill. A waiting write with no older request in its
way is applied to valid blocks in its turn, a whole sector with the writes that merge into it; it starts the
zero-fills of the others and waits. The oldest fill of a channel takes its tokens and ends; a younger one does
not. A window hands out the reserve and the tokens of the shares. A calibration that fails writes its record,
and one that succeeds changes nothing. -/
def Obligations.MemoryServesItsQueue : Prop :=
  (∀ (s : State) (q : DramReq) (c : Chip),
      s.chip.dramQueue.find? (fun r => r.id == q.id && !r.write) = some q →
      s.chip.lookValid q.addr q.len = c →
      c.fillOf q = none →
      ((c.olderThan q).filter (fun w => w.write && w.touches q)).getLast? = none →
      c.blocked q = false →
      c.zeroRead q = true ∨ c.onTurn q = true →
      exec (.dramRead q.id) s = .next { s with chip := Chip.settle ((((c.unqueue q).serveRead q).mergeReads q).eccService) }) ∧
  (∀ (s : State) (q : DramReq) (c : Chip),
      s.chip.dramQueue.find? (fun r => r.id == q.id && !r.write) = some q →
      s.chip.lookValid q.addr q.len = c →
      c.fillOf q = none →
      ((c.olderThan q).filter (fun w => w.write && w.touches q)).getLast? = none →
      c.blocked q = true ∨ c.zeroRead q = false ∧ c.onTurn q = false →
      exec (.dramRead q.id) s = .next { s with chip := Chip.settle (c.eccService) }) ∧
  (∀ (s : State) (q w : DramReq) (c : Chip),
      s.chip.dramQueue.find? (fun r => r.id == q.id && !r.write) = some q →
      s.chip.lookValid q.addr q.len = c →
      c.fillOf q = none →
      ((c.olderThan q).filter (fun w => w.write && w.touches q)).getLast? = some w →
      w.whole = true →
      w.addr / 64 = q.addr / 64 →
      (q.addr + q.len - 1) / 64 = q.addr / 64 →
      exec (.dramRead q.id) s = .next { s with chip := Chip.settle ((((c.unqueue q).count (MRC_CH_COALESCED (channelOf q.addr)) MRC_CH_COALESCED.COUNT 1).answer q .value ((w.data.drop (q.addr % 64)).take q.len)).eccService) }) ∧
  (∀ (s : State) (q : DramReq) (c : Chip) (f : Fill),
      s.chip.dramQueue.find? (fun r => r.id == q.id && !r.write) = some q →
      s.chip.lookValid q.addr q.len = c →
      c.fillOf q = some f →
      exec (.dramRead q.id) s = .next { s with chip := Chip.settle (((c.unqueue q).waitFill f q).eccService) }) ∧
  (∀ (s : State) (q : DramReq) (c : Chip),
      s.chip.dramQueue.find? (fun r => r.id == q.id && r.write) = some q →
      s.chip.lookValid q.addr q.len = c →
      c.blocked q = false →
      c.fillOf q = none →
      (pagesOf q.addr q.len).all c.validBlocks.contains = true →
      c.onTurn q = true →
      exec (.dramWrite q.id) s = .next { s with chip := Chip.settle ((if q.whole = true then ((c.unqueue q).serveWrite q).mergeWrites q else (c.unqueue q).serveWrite q).eccService) }) ∧
  (∀ (s : State) (q : DramReq) (c : Chip),
      s.chip.dramQueue.find? (fun r => r.id == q.id && r.write) = some q →
      s.chip.lookValid q.addr q.len = c →
      c.blocked q = true →
      exec (.dramWrite q.id) s = .next { s with chip := Chip.settle (c.eccService) }) ∧
  (∀ (s : State) (q : DramReq) (c : Chip),
      s.chip.dramQueue.find? (fun r => r.id == q.id && r.write) = some q →
      s.chip.lookValid q.addr q.len = c →
      c.blocked q = false →
      c.fillOf q = none →
      (pagesOf q.addr q.len).all c.validBlocks.contains = true →
      c.onTurn q = false →
      exec (.dramWrite q.id) s = .next { s with chip := Chip.settle (c.eccService) }) ∧
  (∀ (s : State) (q : DramReq) (c : Chip),
      s.chip.dramQueue.find? (fun r => r.id == q.id && r.write) = some q →
      s.chip.lookValid q.addr q.len = c →
      c.blocked q = false →
      c.fillOf q = none →
      (pagesOf q.addr q.len).all c.validBlocks.contains = false →
      exec (.dramWrite q.id) s = .next { s with chip := Chip.settle (((c.unqueue q).startFills q).eccService) }) ∧
  (∀ (s : State) (q : DramReq) (c : Chip) (f : Fill),
      s.chip.dramQueue.find? (fun r => r.id == q.id && r.write) = some q →
      s.chip.lookValid q.addr q.len = c →
      c.blocked q = false →
      c.fillOf q = some f →
      exec (.dramWrite q.id) s = .next { s with chip := Chip.settle (((c.unqueue q).waitFill f q).eccService) }) ∧
  (∀ (s : State) (f : Fill),
      s.chip.fills.find? (fun g => channelOf (g.block * pageSize) == channelOf (f.block * pageSize)) = some f →
      exec (.zeroFillDone f.block) s = .next { s with chip := Chip.settle ((s.chip.fillRuns f).eccService) }) ∧
  (∀ (s : State) (n : Nat) (f : Fill),
      s.chip.fills.find? (fun g => channelOf (g.block * pageSize) == channelOf (n * pageSize)) = some f →
      f.block ≠ n →
      exec (.zeroFillDone n) s = .next { s with chip := Chip.settle (s.chip.eccService) }) ∧
  (∀ (s : State) (ch : Nat),
      ch < 16 →
      exec (.millraceWindow ch) s = .next { s with chip := Chip.settle (s.chip.setMrc ch { s.chip.mrc ch with reserve := s.chip.fld MRC_RESERVE MRC_RESERVE.SAFETY * 1024 / 100, tokens := s.chip.windowTokens }) }) ∧
  (∀ (s : State) (ch : Nat),
      ch < 16 →
      exec (.dramCalibration ch false) s = .next { s with chip := Chip.settle (s.chip.error { severity := 2, cause := 7, source := 1, unit := ch }) } ∧ exec (.dramCalibration ch true) s = .next { s with chip := Chip.settle (s.chip) })

/-- An arbiter drops requesters it does not have, records long waits, and decides: with no transfer in progress or
at the end of one the longest wait in its turn or the rank of R385, within one a request of a higher class
where the holder is unprotected; the selected counters show it. A leaky bucket falls by one, not below zero.
Tag 0 writes an ECC region: the write waits for requests to blocks whose code changes and then applies, and
other tags write nothing. Tag 0 writes the code map of a tile that holds no job. A unit's error reaches the
collector. Tag 0 enables the error ring over pages of slice 0 and moves its head, never backwards nor past the
tail. -/
def Obligations.ArbitersBucketsAndCodes : Prop :=
  (∀ (s : State) (n : Nat) (asks : List (Nat × Nat × Nat × Nat)) (b : Bool),
      exec (.arbiterGrant n asks b) s = .next { s with chip := Chip.settle (((s.chip.longWaits n (asks.filter (fun a => hasRequester n a.1))).setArb n ((s.chip.longWaits n (asks.filter (fun a => hasRequester n a.1))).arbDecide n (asks.filter (fun a => hasRequester n a.1)) (if b = true then none else ((s.chip.longWaits n (asks.filter (fun a => hasRequester n a.1))).arb n).running))).showArb) }) ∧
  (∀ (s : State) (n : Nat),
      n < 256 →
      exec (.leakTick n) s = .next { s with chip := Chip.settle (s.chip.setFld (MEM_LB n) MEM_LB.COUNT (s.chip.fld (MEM_LB n) MEM_LB.COUNT - 1)) }) ∧
  (∀ (s : State) (n : Nat) (b : Bool) (v : W64) (c : Chip),
      n < 16 →
      c = { s.chip with eccHeld := s.chip.eccHeld ++ [{ region := n, limit := b, value := v.toNat, mark := s.chip.accepted }] } →
      s.chip.eccHeld = [] →
      c.eccFree { region := n, limit := b, value := v.toNat, mark := s.chip.accepted } = true →
      exec (.eccRegionWrite 0 n b v) s = .next { s with chip := Chip.settle ({ c.eccApply (c.eccNew n b v.toNat) with eccHeld := [] }) }) ∧
  (∀ (s : State) (n : Nat) (b : Bool) (v : W64) (c : Chip),
      n < 16 →
      c = { s.chip with eccHeld := s.chip.eccHeld ++ [{ region := n, limit := b, value := v.toNat, mark := s.chip.accepted }] } →
      s.chip.eccHeld = [] →
      c.eccFree { region := n, limit := b, value := v.toNat, mark := s.chip.accepted } = false →
      exec (.eccRegionWrite 0 n b v) s = .next { s with chip := Chip.settle (c) }) ∧
  (∀ (s : State) (n : Nat) (b : Bool) (v : W64) (c : Chip) (w : EccWrite) (l : List EccWrite),
      n < 16 →
      c = { s.chip with eccHeld := s.chip.eccHeld ++ [{ region := n, limit := b, value := v.toNat, mark := s.chip.accepted }] } →
      s.chip.eccHeld = w :: l →
      c.eccFree w = false →
      exec (.eccRegionWrite 0 n b v) s = .next { s with chip := Chip.settle (c) }) ∧
  (∀ (s : State) (t n : Nat) (b : Bool) (v : W64) (w : W32),
      t ≠ 0 →
      exec (.eccRegionWrite t n b v) s = .next { s with chip := Chip.settle (s.chip) } ∧ exec (.tileCodeMapWrite t n w) s = .next { s with chip := Chip.settle (s.chip) } ∧ exec (.errRingEnable t w) s = .next { s with chip := Chip.settle (s.chip) } ∧ exec (.errRingHeadWrite t w) s = .next { s with chip := Chip.settle (s.chip) }) ∧
  (∀ (s : State) (n : Nat) (w : W32),
      n < 192 →
      s.chip.tileHeld n = false →
      exec (.tileCodeMapWrite 0 n w) s = .next { s with chip := Chip.settle (s.chip.codeMap n (w.toNat % 2 ^ 12)) }) ∧
  (∀ (s : State) (v k r u m t x a d e : Nat),
      exec (.errorRecord v k r u m t x e a d) s = .next { s with chip := Chip.settle (s.chip.error { severity := v, cause := k, source := r, unit := u, master := m, slice := t, world := x, target := e, addr := a, detail := d }) }) ∧
  (∀ (s : State) (w : W32),
      s.chip.flag ERR_RING_CTRL ERR_RING_CTRL.ENABLE = false →
      bitOf w.toNat 31 = true →
      6 ≤ w.toNat % 32 →
      w.toNat % 32 ≤ 16 →
      (s.chip.setFld ERR_RING_CTRL ERR_RING_CTRL.LOG2_SLOTS (w.toNat % 32)).ownsPages 0 ((s.chip.setFld ERR_RING_CTRL ERR_RING_CTRL.LOG2_SLOTS (w.toNat % 32)).fld ERR_RING_BASE ERR_RING_BASE.BASE * 4096) (32 * 2 ^ (w.toNat % 32)) = true →
      exec (.errRingEnable 0 w) s = .next { s with chip := Chip.settle (((s.chip.setFld ERR_RING_CTRL ERR_RING_CTRL.LOG2_SLOTS (w.toNat % 32)).setFld ERR_RING_CTRL ERR_RING_CTRL.ENABLE 1).errService) }) ∧
  (∀ (s : State) (w : W32),
      s.chip.flag ERR_RING_CTRL ERR_RING_CTRL.ENABLE = true →
      bitOf w.toNat 31 = false →
      exec (.errRingEnable 0 w) s = .next { s with chip := Chip.settle (s.chip.setFld ERR_RING_CTRL ERR_RING_CTRL.ENABLE 0) }) ∧
  (∀ (s : State) (w : W32),
      idxSub w.toNat (s.chip.reg ERR_RING_HEAD) ≤ idxSub (s.chip.reg ERR_RING_TAIL) (s.chip.reg ERR_RING_HEAD) →
      exec (.errRingHeadWrite 0 w) s = .next { s with chip := Chip.settle ((s.chip.setReg ERR_RING_HEAD w.toNat).errService) }) ∧
  (∀ (s : State) (w : W32),
      idxSub (s.chip.reg ERR_RING_TAIL) (s.chip.reg ERR_RING_HEAD) < idxSub w.toNat (s.chip.reg ERR_RING_HEAD) →
      exec (.errRingHeadWrite 0 w) s = .next { s with chip := Chip.settle (s.chip) })

/-- A hint on slice 0 with its reserved bytes zero: BLOCK_OFF over blocks that may be named stops them, DEFERRED
where one is claimed, and BLOCK_ON runs them; blocks that may not be named are BAD_PARAM. STANDBY and PARK try
to leave Active with no watch armed, RESTART also with one, but during a start it is counted and NO_RESOURCE.
An IDLE_UNTIL of a slice that has a tile in each named group sets their times, else NOT_OWNER. A hint of
operations 0 to 4 from another slice is ACCESS_DENIED. WARM_REQ of tag 0 leaves with an unlimited drain,
unless a start or an exit is under way. 100 µs after the reply, with every claim released, the part enters the
state; before that it does not. A pending release with no budget asked for asks for its wakes and its start
together. PROFILE_SELECT of a slot that verifies names it for the next warm start; one that fails says the
check. -/
def Obligations.PowerHintsAreTaken : Prop :=
  (∀ (s : State) (p : Packet),
      s.chip.startedAs p 0x600 →
      p.u 32 1 = 0 →
      p.slice = 0 →
      hintReserved p = true →
      s.chip.blocksOk (p.u 34 2) true = true →
      exec (.blockOff p.id) s = .next { s with chip := Chip.settle ((s.chip.stopBlocks p (p.u 34 2)).finish p.id (if s.chip.claimed &&& p.u 34 2 ≠ 0 then stDeferred else stDone)) }) ∧
  (∀ (s : State) (p : Packet),
      s.chip.startedAs p 0x600 →
      p.u 32 1 = 0 →
      p.slice = 0 →
      hintReserved p = true →
      s.chip.blocksOk (p.u 34 2) true = false →
      exec (.blockOff p.id) s = .next { s with chip := Chip.settle (s.chip.finish p.id stBadParam) }) ∧
  (∀ (s : State) (p : Packet),
      s.chip.startedAs p 0x600 →
      p.u 32 1 = 1 →
      p.slice = 0 →
      hintReserved p = true →
      s.chip.blocksOk (p.u 34 2) false = true →
      exec (.blockOn p.id) s = .next { s with chip := Chip.settle ((s.chip.startBlocks (p.u 34 2)).finish p.id stDone) }) ∧
  (∀ (s : State) (p : Packet),
      s.chip.startedAs p 0x600 →
      p.u 32 1 = 2 →
      p.slice = 0 →
      hintReserved p = true →
      exec (.standby p.id) s = .next { s with chip := Chip.settle (s.chip.tryLeave p true) }) ∧
  (∀ (s : State) (p : Packet),
      s.chip.startedAs p 0x600 →
      p.u 32 1 = 3 →
      p.slice = 0 →
      hintReserved p = true →
      exec (.park p.id) s = .next { s with chip := Chip.settle (s.chip.tryLeave p true) }) ∧
  (∀ (s : State) (p : Packet),
      s.chip.startedAs p 0x600 →
      p.u 32 1 = 4 →
      p.slice = 0 →
      hintReserved p = true →
      s.chip.flag AON_START_STATUS AON_START_STATUS.STARTING = false →
      exec (.restart p.id) s = .next { s with chip := Chip.settle (s.chip.tryLeave p false) }) ∧
  (∀ (s : State) (p : Packet),
      s.chip.startedAs p 0x600 →
      p.u 32 1 = 4 →
      p.slice = 0 →
      hintReserved p = true →
      s.chip.flag AON_START_STATUS AON_START_STATUS.STARTING = true →
      exec (.restart p.id) s = .next { s with chip := Chip.settle (s.chip.ignoreStart.finish p.id stNoResource) }) ∧
  (∀ (s : State) (p : Packet),
      s.chip.startedAs p 0x600 →
      p.u 32 1 = 5 →
      p.slice < 64 →
      hintReserved p = true →
      s.chip.ownsGroups p = true →
      exec (.idleUntil p.id) s = .next { s with chip := Chip.settle ((s.chip.setIdle p.idleGroups (p.u 40 8)).finish p.id stDone) }) ∧
  (∀ (s : State) (p : Packet),
      s.chip.startedAs p 0x600 →
      p.u 32 1 = 5 →
      p.slice < 64 →
      hintReserved p = true →
      s.chip.ownsGroups p = false →
      exec (.idleUntil p.id) s = .next { s with chip := Chip.settle (s.chip.finish p.id stNotOwner) }) ∧
  (∀ (s : State) (p : Packet),
      s.chip.startedAs p 0x600 →
      p.u 32 1 = 2 →
      p.slice ≠ 0 →
      exec (.standby p.id) s = .next { s with chip := Chip.settle (s.chip.finish p.id stAccessDenied) }) ∧
  (∀ (s : State),
      s.chip.flag AON_START_STATUS AON_START_STATUS.STARTING = false →
      s.chip.power.leaving = none →
      exec (.warmReq 0) s = .next { s with chip := Chip.settle ((s.chip.updPower (fun w => { w with leaving := some { op := 4, packet := none, slice := 0, ring := 0, deadline := none } })).leaveOn) }) ∧
  (∀ (s : State),
      s.chip.flag AON_START_STATUS AON_START_STATUS.STARTING = true →
      exec (.warmReq 0) s = .next { s with chip := Chip.settle (s.chip.ignoreStart) }) ∧
  (∀ (s : State) (l : Leaving) (t : Nat),
      s.chip.leaveOn.power.leaving = some l →
      l.replied = some t →
      t + 100000 ≤ s.chip.leaveOn.now →
      s.chip.leaveOn.claimed = 0 →
      exec (.stateEntryHalt) s = .next (s.withPart (Part.enterState ⟨s.chip.leaveOn, s.sec⟩ l))) ∧
  (∀ (s : State) (l : Leaving) (t : Nat),
      s.chip.leaveOn.power.leaving = some l →
      l.replied = some t →
      s.chip.leaveOn.now < t + 100000 →
      exec (.stateEntryHalt) s = .next (s.withPart (⟨s.chip.leaveOn, s.sec⟩))) ∧
  (∀ (s : State) (r : PendingRel),
      s.chip.pendingRels.find? (fun x => x.packet == r.packet) = some r →
      s.chip.granted (.job r.packet) = false →
      s.chip.asking (.job r.packet) = false →
      exec (.prewake r.packet) s = .next { s with chip := Chip.settle (s.chip.ask r.cls (s.chip.wakeParts (tileGroups r.tiles) r.cls ++ [{ who := .job r.packet, units := r.units, slice := some r.slice, cls := r.cls }]) r.timeoutUs) }) ∧
  (∀ (s : State) (p : Packet),
      s.chip.startedAs p 0x601 →
      p.u 32 1 < 4 →
      zeroIn p.bytes 33 64 = true →
      exec (.profileSelect p.id) s = .next (s.withPart (⟨match s.part.profileCheck (p.u 32 1) false with | some f => s.chip.finish p.id stBadParam 0 (5 + f * 256) | none => (s.chip.setFld AON_PROFILE AON_PROFILE.NEXT (p.u 32 1)).finish p.id stDone, s.sec⟩)))

/-- Always-on power comes and goes with everything but the straps and the security core's flash lost. PGOOD
releases reset once RAIL_EN_MAIN is up, and raises RAIL_EN_MAIN where the rails rise; 20 ms without it fail
the start at step 1; its fall drops both enables and resets the part. RESET_N resets the part, and its release
begins a start where the supplies are in range. A cold start under way reads the straps, ends in recovery
where BOOT_SRC says so, and else takes its checks and steps; a warm start under way takes its steps unless a
check fails, and then fails; both do nothing otherwise. 5 s after t0 a start fails at the step under way. An
enabled wake event starts the part that leaves nothing, and is latched while it leaves. A GO in recovery has
the staged bundle judged: written to the flash with a cold start, or rejected with its reason. -/
def Obligations.ThePartStartsAndStops : Prop :=
  (∀ (s : State),
      exec (.aonPowerUp) s = .next (s.withPart (⟨{ s.chip.noPower true with now := 0 }, s.sec.lost⟩))) ∧
  (∀ (s : State),
      exec (.aonPowerLoss) s = .next (s.withPart (⟨s.chip.noPower false, s.sec.lost⟩))) ∧
  (∀ (s : State),
      s.chip.power.pgood = false →
      s.chip.power.enMain = true →
      exec (.pgoodRise) s = .next (s.withPart (Part.release ⟨s.chip.updPower (fun w => { w with pgood := true }), s.sec⟩))) ∧
  (∀ (s : State),
      s.chip.power.pgood = false →
      s.chip.power.enMain = false →
      s.chip.railsRise = true →
      exec (.pgoodRise) s = .next (s.withPart (⟨s.chip.updPower (fun w => { w with enRet := true, enMain := true, pgood := false, rose := s.chip.now }), s.sec⟩))) ∧
  (∀ (s : State),
      s.chip.pgoodLate = true →
      exec (.pgoodTimeout) s = .next (s.withPart ({ s.part.startFailed 1 with chip := (s.part.startFailed 1).chip.updPower (fun w => { w with rose := s.chip.now }) }))) ∧
  (∀ (s : State),
      s.chip.pgoodLate = false →
      exec (.pgoodTimeout) s = .next (s.withPart (s.part))) ∧
  (∀ (s : State),
      s.chip.power.pgood = true →
      s.chip.power.enRet = true ∨ s.chip.power.enMain = true →
      exec (.pgoodFall) s = .next (s.withPart (⟨(s.chip.setFld AON_START_STATUS AON_START_STATUS.STARTING 0).resetDomains.updPower (fun w => { w with enRet := false, enMain := false, pgood := false, fell := some s.chip.now, cause := 1 }), s.sec.lost⟩))) ∧
  (∀ (s : State),
      exec (.resetAssert) s = .next (s.withPart (⟨((s.chip.setFld AON_START_STATUS AON_START_STATUS.STARTING 0).setFld AON_START_STATUS AON_START_STATUS.FAIL_COUNT 0).resetDomains.updPower (fun w => { w with resetN := true, cause := 1 }), s.sec.lost⟩)) ∧ exec (.resetRelease) s = .next (s.withPart (Part.release ⟨s.chip.updPower (fun w => { w with resetN := false }), s.sec⟩))) ∧
  (∀ (s : State) (n : Nat),
      s.part.release.chip.power.mode = .starting →
      s.part.release.chip.flag AON_START_STATUS AON_START_STATUS.WARM = false →
      s.part.release.chip.power.bootSrc % 4 = 3 →
      exec (.coldStart n) s = .next (s.withPart (Part.enterRecovery { s.part.release with chip := s.part.release.chip.readStraps }))) ∧
  (∀ (s : State) (n : Nat),
      s.part.release.chip.power.mode = .starting →
      s.part.release.chip.flag AON_START_STATUS AON_START_STATUS.WARM = false →
      s.part.release.chip.power.bootSrc % 4 ≠ 3 →
      exec (.coldStart n) s = .next (s.withPart (Part.coldChecks { s.part.release with chip := s.part.release.chip.readStraps } n (s.part.release.chip.power.profSel % 4)))) ∧
  (∀ (s : State) (n : Nat),
      s.chip.warmUnderWay = true →
      exec (.warmStart n) s = .next (s.withPart ((match s.part.startFault true n (s.chip.fld AON_PROFILE AON_PROFILE.NEXT) with | some f => s.part.stepFailed f | none => s.part.warmSteps (s.chip.fld AON_PROFILE AON_PROFILE.NEXT))))) ∧
  (∀ (s : State) (n : Nat),
      s.chip.warmUnderWay = false →
      exec (.warmStart n) s = .next (s.withPart (s.part))) ∧
  (∀ (s : State) (n : Nat),
      s.chip.power.mode = .starting →
      s.chip.power.t0 + 5000000000 ≤ s.chip.now →
      exec (.startTimeout n) s = .next (s.withPart (s.part.startFailed n))) ∧
  (∀ (s : State) (n : Nat),
      n < 5 →
      bitOf (s.chip.fld AON_WAKE_EN AON_WAKE_EN.EN) n = true →
      s.chip.power.leaving = none →
      exec (.wakeEvent n) s = .next (s.withPart (s.part.wakeFrom n))) ∧
  (∀ (s : State) (n : Nat),
      n < 5 →
      n ≠ 2 →
      bitOf (s.chip.fld AON_WAKE_EN AON_WAKE_EN.EN) n = true →
      s.chip.power.leaving.isSome = true →
      exec (.wakeEvent n) s = .next (s.withPart (⟨s.chip.updPower (fun w => { w with latched := putBits w.latched n n 1 }), s.sec⟩))) ∧
  (∀ (s : State),
      s.chip.power.mode = .recovery →
      s.chip.portMode 1 = pmRecovery →
      s.chip.fld REC_STATUS REC_STATUS.STATE ≠ 2 →
      exec (.recCtrlGo) s = .next { s with chip := Chip.settle (s.chip.setFld REC_STATUS REC_STATUS.STATE 2) }) ∧
  (∀ (s : State),
      s.chip.power.mode = .recovery →
      s.chip.fld REC_STATUS REC_STATUS.STATE = 2 →
      exec (.recoveryBundle) s = .next (s.withPart (s.part.bundleJudged s.part.staged)))

/-- A wake that may begin wakes its group, a waking group runs, and a group that may sleep goes Off or to
Retention; otherwise nothing happens. A request of Sluice asks once; an operation that is over withdraws and
returns its units; the requests whose time has run out are denied together; a microsecond passes for the
bucket. The 24 sensors are read and the zones follow: 130.0 °C shuts the part down, and otherwise throttle,
zones and the end of an emergency follow. 10 ms of cool sensors lift the throttle. 5 s after a shutdown the
part starts cold. A millisecond of the PI loops sets the effective budget. A zone hot for 10 ms is an
emergency that sheds its blocks, or resets the part where one of them is claimed. -/
def Obligations.GroupsSluiceAndHeatAreManaged : Prop :=
  (∀ (s : State) (g : Nat),
      s.chip.mayWake g = true →
      exec (.groupWake g) s = .next { s with chip := Chip.settle (s.chip.beginWake g) }) ∧
  (∀ (s : State) (g : Nat),
      s.chip.mayWake g = false →
      exec (.groupWake g) s = .next { s with chip := Chip.settle (s.chip) }) ∧
  (∀ (s : State) (g : Nat),
      g < 12 →
      s.chip.groupState g = gsWaking →
      exec (.groupRunning g) s = .next { s with chip := Chip.settle (s.chip.groupRuns g) }) ∧
  (∀ (s : State) (g : Nat),
      s.chip.groupState g ≠ gsWaking →
      exec (.groupRunning g) s = .next { s with chip := Chip.settle (s.chip) }) ∧
  (∀ (s : State) (g : Nat),
      s.chip.maySleep g = true →
      exec (.groupSleep g) s = .next { s with chip := Chip.settle (s.chip.sleepGroup g (s.chip.sleepsOff g)) }) ∧
  (∀ (s : State) (g : Nat),
      s.chip.maySleep g = false →
      exec (.groupSleep g) s = .next { s with chip := Chip.settle (s.chip) }) ∧
  (∀ (s : State) (k n u c x t : Nat),
      s.chip.granted (askerOf k n) = false →
      s.chip.asking (askerOf k n) = false →
      c < 4 →
      exec (.sluiceRequest k n u c x t) s = .next { s with chip := Chip.settle (s.chip.ask c [{ who := askerOf k n, units := u, slice := if x < 64 then some x else none, cls := c }] t) }) ∧
  (∀ (s : State) (k n u c x t : Nat),
      s.chip.granted (askerOf k n) = true ∨ s.chip.asking (askerOf k n) = true →
      exec (.sluiceRequest k n u c x t) s = .next { s with chip := Chip.settle (s.chip) }) ∧
  (∀ (s : State) (k n : Nat),
      s.chip.stillNeeds (askerOf k n) = false →
      exec (.sluiceReturn k n) s = .next { s with chip := Chip.settle ((s.chip.withdraw (askerOf k n)).giveBack (askerOf k n)) }) ∧
  (∀ (s : State) (k n : Nat),
      s.chip.stillNeeds (askerOf k n) = true →
      exec (.sluiceReturn k n) s = .next { s with chip := Chip.settle (s.chip) }) ∧
  (∀ (s : State),
      s.chip.lateAsks.isEmpty = false →
      exec (.sluiceTimeout) s = .next { s with chip := Chip.settle (s.chip.denyLate) }) ∧
  (∀ (s : State),
      s.chip.lateAsks.isEmpty = true →
      exec (.sluiceTimeout) s = .next { s with chip := Chip.settle (s.chip) }) ∧
  (∀ (s : State),
      exec (.sluiceTick) s = .next { s with chip := Chip.settle (Chip.sluiceServe { s.chip with sluice := { s.chip.sluice with bucket := s.chip.sluice.bucket + s.chip.total - s.chip.fld PWR_EFF PWR_EFF.SUST_EFF } }) }) ∧
  (∀ (s : State) (l : List Nat),
      (s.chip.sampled l).overheated = false →
      exec (.thermalSample l) s = .next (s.withPart (⟨(s.chip.sampled l).thermal, s.sec⟩))) ∧
  (∀ (s : State) (l : List Nat),
      (s.chip.sampled l).overheated = true →
      exec (.thermalSample l) s = .next (s.withPart (Part.shutdown ⟨s.chip.sampled l, s.sec⟩))) ∧
  (∀ (s : State),
      s.chip.throttleOver = true →
      exec (.throttleLift) s = .next { s with chip := Chip.settle (s.chip.liftThrottle) }) ∧
  (∀ (s : State),
      s.chip.throttleOver = false →
      exec (.throttleLift) s = .next { s with chip := Chip.settle (s.chip) }) ∧
  (∀ (s : State),
      s.chip.power.mode = .shutdown →
      s.chip.power.shutAt + 5000000000 ≤ s.chip.now →
      exec (.shutdownRestart) s = .next (s.withPart (s.part.beginCold 9))) ∧
  (∀ (s : State),
      s.chip.serviceDown 2 = false →
      exec (.thermalPiStep) s = .next { s with chip := Chip.settle (s.chip.piZones.1.setEff s.chip.piZones.2.1 (s.chip.piZones.1.sustEff s.chip.piZones.2.2)) }) ∧
  (∀ (s : State) (z : Nat),
      s.chip.emerges z = true →
      (s.chip.emergency z).claimed &&& (s.chip.budget.shed &&& 0x1FC) = 0 →
      exec (.thermalEmergency z) s = .next (s.withPart (⟨(s.chip.emergency z).shed, s.sec⟩))) ∧
  (∀ (s : State) (z : Nat),
      s.chip.emerges z = true →
      (s.chip.emergency z).claimed &&& (s.chip.budget.shed &&& 0x1FC) ≠ 0 →
      exec (.thermalEmergency z) s = .next (s.withPart (Part.beginCold ⟨s.chip.emergency z, s.sec⟩ 10))) ∧
  (∀ (s : State) (z : Nat),
      s.chip.emerges z = false →
      exec (.thermalEmergency z) s = .next (s.withPart (s.part)))

/-- A running core that fails, by its watchdog, by a fatal exception or by its SRAM, is lost with its record, and
with no core left or a service that fails too often the part starts warm. A service that was moved restarts:
what it had taken and not committed completes FW_RESTARTED. A failed core rejoins with no services; a held or
running one does not. LOG_CONFIG with legal fields over pages of slice 0 places or disables the log ring, and
a record that the ring takes is appended. TRACE_ENABLE places the trace ring, sets a mask where there is a
ring, and clears every mask; an enabled point appends its record, another appends nothing. Illegal fields are
BAD_PARAM, foreign pages NOT_OWNER. -/
def Obligations.FirmwareCoresFailAndRecord : Prop :=
  (∀ (s : State) (k : Nat),
      k < 4 →
      s.chip.draw.2.coreState k = 0 →
      exec (.kernelWatchdogExpiry k) s = .next (s.withPart ((if (s.chip.draw.2.coreLost k { severity := 2, cause := 1, source := 11, unit := k, detail := s.chip.draw.1.toNat }).stormy = true then Part.storm ⟨s.chip.draw.2.coreLost k { severity := 2, cause := 1, source := 11, unit := k, detail := s.chip.draw.1.toNat }, s.sec⟩ else ⟨s.chip.draw.2.coreLost k { severity := 2, cause := 1, source := 11, unit := k, detail := s.chip.draw.1.toNat }, s.sec⟩)))) ∧
  (∀ (s : State) (k : Nat) (w : W64),
      k < 4 →
      s.chip.coreState k = 0 →
      exec (.coreFault k false w) s = .next (s.withPart ((if (s.chip.coreLost k { severity := 2, cause := 2, source := 11, unit := k, detail := w.toNat }).stormy = true then Part.storm ⟨s.chip.coreLost k { severity := 2, cause := 2, source := 11, unit := k, detail := w.toNat }, s.sec⟩ else ⟨s.chip.coreLost k { severity := 2, cause := 2, source := 11, unit := k, detail := w.toNat }, s.sec⟩)))) ∧
  (∀ (s : State) (k : Nat) (w : W64),
      k < 4 →
      s.chip.draw.2.coreState k = 0 →
      exec (.coreFault k true w) s = .next (s.withPart ((if (s.chip.draw.2.coreLost k { severity := 2, cause := 3, source := 11, unit := k, addr := w.toNat, detail := s.chip.draw.1.toNat }).stormy = true then Part.storm ⟨s.chip.draw.2.coreLost k { severity := 2, cause := 3, source := 11, unit := k, addr := w.toNat, detail := s.chip.draw.1.toNat }, s.sec⟩ else ⟨s.chip.draw.2.coreLost k { severity := 2, cause := 3, source := 11, unit := k, addr := w.toNat, detail := s.chip.draw.1.toNat }, s.sec⟩)))) ∧
  (∀ (s : State) (v k : Nat),
      AMap.get? s.chip.fw.down v = some k →
      exec (.serviceRestart v) s = .next { s with chip := Chip.settle ((s.chip.restartService v k).announceOwed) }) ∧
  (∀ (s : State) (v : Nat),
      AMap.get? s.chip.fw.down v = none →
      exec (.serviceRestart v) s = .next { s with chip := Chip.settle (s.chip) }) ∧
  (∀ (s : State) (k : Nat),
      k < 4 →
      s.chip.coreState k = 3 →
      exec (.coreRejoin k) s = .next (s.withPart (⟨(s.chip.setCore k 0).showServices, s.sec.hartReset (16 + k)⟩))) ∧
  (∀ (s : State) (k : Nat),
      s.chip.coreState k ≠ 3 →
      exec (.coreRejoin k) s = .next (s.withPart (s.part))) ∧
  (∀ (s : State) (p : Packet),
      s.chip.startedAs p 0x700 →
      p.logBad = false →
      s.chip.ownsPages 0 (p.u 40 8) (2 ^ p.u 36 4 * 32) = true →
      exec (.logConfig p.id) s = .next { s with chip := Chip.settle ((s.chip.setLog p).finish p.id stDone) }) ∧
  (∀ (s : State) (p : Packet),
      s.chip.startedAs p 0x700 →
      p.logBad = true →
      exec (.logConfig p.id) s = .next { s with chip := Chip.settle (s.chip.finish p.id stBadParam) }) ∧
  (∀ (s : State) (p : Packet),
      s.chip.startedAs p 0x700 →
      p.logBad = false →
      s.chip.ownsPages 0 (p.u 40 8) (2 ^ p.u 36 4 * 32) = false →
      exec (.logConfig p.id) s = .next { s with chip := Chip.settle (s.chip.finish p.id stNotOwner) }) ∧
  (∀ (s : State) (k v l n : Nat) (x : W32) (y : W64) (r : LogRing),
      s.chip.fw.log = some r →
      s.chip.logTakes r k v l = true →
      exec (.logAppend k v l n x y) s = .next { s with chip := Chip.settle (s.chip.appendLog r k v l n x.toNat y.toNat) }) ∧
  (∀ (s : State) (k v l n : Nat) (x : W32) (y : W64) (r : LogRing),
      s.chip.fw.log = some r →
      s.chip.logTakes r k v l = false →
      exec (.logAppend k v l n x y) s = .next { s with chip := Chip.settle (s.chip) }) ∧
  (∀ (s : State) (p : Packet),
      s.chip.startedAs p 0x701 →
      p.u 32 1 = 0 →
      p.traceFields = true →
      p.traceRingOk = true →
      s.chip.ownsPages 0 (p.u 48 8) (2 ^ p.u 56 1 * 16) = true →
      exec (.traceRing p.id) s = .next { s with chip := Chip.settle ((s.chip.setTrace (p.u 48 8) (p.u 56 1)).finish p.id stDone) }) ∧
  (∀ (s : State) (p : Packet),
      s.chip.startedAs p 0x701 →
      p.u 32 1 = 1 →
      p.traceFields = true →
      s.chip.fw.trace.isNone = false →
      exec (.traceMask p.id) s = .next { s with chip := Chip.settle ((s.chip.setReg (CTL_TRACE_MASK (p.u 33 1)) (p.u 40 8)).finish p.id stDone) }) ∧
  (∀ (s : State) (p : Packet),
      s.chip.startedAs p 0x701 →
      p.u 32 1 = 1 →
      p.traceFields = true →
      s.chip.fw.trace.isNone = true →
      exec (.traceMask p.id) s = .next { s with chip := Chip.settle (s.chip.finish p.id stBadParam) }) ∧
  (∀ (s : State) (p : Packet),
      s.chip.startedAs p 0x701 →
      p.u 32 1 = 2 →
      p.traceFields = true →
      exec (.traceOff p.id) s = .next { s with chip := Chip.settle (s.chip.clearTraceMasks.finish p.id stDone) }) ∧
  (∀ (s : State) (p : Packet),
      s.chip.startedAs p 0x701 →
      2 < p.u 32 1 →
      exec (.traceRing p.id) s = .next { s with chip := Chip.settle (s.chip.finish p.id stBadParam) } ∧ exec (.traceMask p.id) s = .next { s with chip := Chip.settle (s.chip.finish p.id stBadParam) } ∧ exec (.traceOff p.id) s = .next { s with chip := Chip.settle (s.chip.finish p.id stBadParam) }) ∧
  (∀ (s : State) (k n : Nat) (x : W32) (r : Nat × Nat),
      s.chip.fw.trace = some r →
      s.chip.tracePoint k n = true →
      exec (.traceAppend k n x) s = .next { s with chip := Chip.settle (s.chip.appendTrace r.1 r.2 k n x.toNat) }) ∧
  (∀ (s : State) (k n : Nat) (x : W32),
      s.chip.tracePoint k n = false →
      exec (.traceAppend k n x) s = .next { s with chip := Chip.settle (s.chip) })

/-- With the forerunner personality enabled, its service up and the mailbox not BUSY, a write of GO with slice tag
0 makes the mailbox BUSY and runs its command: SUBMIT_JOB and LOAD_MODEL read their descriptor under the
identity of the service's core and run the packet it makes, or answer ACCESS_DENIED or UNCORRECTABLE where it
cannot be read; PREEMPT, ABORT, HINT and UNLOAD_MODEL run the packet of their arguments; ATTEST and RANDOM
call their gateway entry in M-mode; a command the mailbox does not list is BAD_OPCODE. A GO to a BUSY mailbox
is counted and ignored. Without the personality, from another slice, or while its service is down, nothing
happens. -/
def Obligations.MailboxCommandsRun : Prop :=
  (∀ (s : State),
      s.chip.mbxCmd 2 = 0x0101 →
      s.chip.forerunner = true →
      s.chip.serviceDown 7 = false →
      s.chip.flag (MBX_STATUS 2) MBX_STATUS.BUSY = false →
      exec (.mbxSubmitJob 0) s = .next (s.withPart (⟨mbxRun 2 0x210 jobRun ((s.chip.mbxBusy 2).mbxRead 2), s.sec⟩))) ∧
  (∀ (s : State),
      s.chip.mbxCmd 2 = 0x0102 →
      s.chip.forerunner = true →
      s.chip.serviceDown 7 = false →
      s.chip.flag (MBX_STATUS 2) MBX_STATUS.BUSY = false →
      exec (.mbxPreempt 0) s = .next (s.withPart (⟨(s.chip.mbxBusy 2).mbxPacket 2 0x212 1 (mbxTarget (s.chip.mbxBusy 2)) jobPreempt, s.sec⟩))) ∧
  (∀ (s : State),
      s.chip.mbxCmd 2 = 0x0103 →
      s.chip.forerunner = true →
      s.chip.serviceDown 7 = false →
      s.chip.flag (MBX_STATUS 2) MBX_STATUS.BUSY = false →
      exec (.mbxAbort 0) s = .next (s.withPart (⟨(s.chip.mbxBusy 2).mbxPacket 2 0x213 1 (mbxTarget (s.chip.mbxBusy 2)) jobAbort, s.sec⟩))) ∧
  (∀ (s : State),
      s.chip.mbxCmd 1 = 0x0201 →
      s.chip.forerunner = true →
      s.chip.serviceDown 7 = false →
      s.chip.flag (MBX_STATUS 1) MBX_STATUS.BUSY = false →
      exec (.mbxHint 0) s = .next (s.withPart (⟨(s.chip.mbxBusy 1).mbxPacket 1 0x600 1 (leBytes 2 ((s.chip.mbxBusy 1).mbxArg 1 0 % 256) ++ leBytes 2 ((s.chip.mbxBusy 1).mbxArg 1 1)) mbxHintRun, s.sec⟩))) ∧
  (∀ (s : State),
      s.chip.mbxCmd 3 = 0x0401 →
      s.chip.forerunner = true →
      s.chip.serviceDown 7 = false →
      s.chip.flag (MBX_STATUS 3) MBX_STATUS.BUSY = false →
      exec (.mbxLoadModel 0) s = .next (s.withPart (⟨mbxRun 3 0x200 modelRegister ((s.chip.mbxBusy 3).mbxRead 3), s.sec⟩))) ∧
  (∀ (s : State),
      s.chip.mbxCmd 3 = 0x0402 →
      s.chip.forerunner = true →
      s.chip.serviceDown 7 = false →
      s.chip.flag (MBX_STATUS 3) MBX_STATUS.BUSY = false →
      exec (.mbxUnloadModel 0) s = .next (s.withPart (⟨(s.chip.mbxBusy 3).mbxPacket 3 0x202 1 (leBytes 2 ((s.chip.mbxBusy 3).mbxArg 3 0) ++ leBytes 1 1) modelEvict, s.sec⟩))) ∧
  (∀ (s : State),
      s.chip.mbxCmd 0 = 0x0301 →
      s.chip.forerunner = true →
      s.chip.serviceDown 7 = false →
      s.chip.flag (MBX_STATUS 0) MBX_STATUS.BUSY = false →
      exec (.mbxAttest 0) s = .next (s.withPart (gateCall 0x0020 (16 + (s.chip.mbxBusy 0).foreCore) 0 32 ((s.chip.mbxBusy 0).mbxAddr 0) 40 ⟨(s.chip.mbxBusy 0), s.sec⟩))) ∧
  (∀ (s : State),
      s.chip.mbxCmd 0 = 0x0302 →
      s.chip.forerunner = true →
      s.chip.serviceDown 7 = false →
      s.chip.flag (MBX_STATUS 0) MBX_STATUS.BUSY = false →
      exec (.mbxRandom 0) s = .next (s.withPart (gateCall 0x0021 (16 + (s.chip.mbxBusy 0).foreCore) 0 32 ((s.chip.mbxBusy 0).mbxAddr 0) 64 ⟨(s.chip.mbxBusy 0), s.sec⟩))) ∧
  (∀ (s : State) (m : Nat),
      m < 4 →
      mailboxOf (s.chip.mbxCmd m) ≠ some m →
      s.chip.forerunner = true →
      s.chip.serviceDown 7 = false →
      s.chip.flag (MBX_STATUS m) MBX_STATUS.BUSY = false →
      exec (.mbxUnknownCommand 0 m) s = .next (s.withPart (⟨(s.chip.mbxBusy m).mailboxReply m stBadOpcode 0, s.sec⟩))) ∧
  (∀ (s : State),
      s.chip.mbxCmd 2 = 0x0101 →
      s.chip.forerunner = true →
      s.chip.serviceDown 7 = false →
      s.chip.flag (MBX_STATUS 2) MBX_STATUS.BUSY = true →
      exec (.mbxSubmitJob 0) s = .next (s.withPart (⟨s.chip.count (MBX_IGNORED 2) MBX_IGNORED.COUNT 1, s.sec⟩))) ∧
  (∀ (s : State),
      s.chip.mbxCmd 2 = 0x0102 →
      s.chip.forerunner = true →
      s.chip.serviceDown 7 = false →
      s.chip.flag (MBX_STATUS 2) MBX_STATUS.BUSY = true →
      exec (.mbxPreempt 0) s = .next (s.withPart (⟨s.chip.count (MBX_IGNORED 2) MBX_IGNORED.COUNT 1, s.sec⟩))) ∧
  (∀ (s : State),
      s.chip.mbxCmd 2 = 0x0103 →
      s.chip.forerunner = true →
      s.chip.serviceDown 7 = false →
      s.chip.flag (MBX_STATUS 2) MBX_STATUS.BUSY = true →
      exec (.mbxAbort 0) s = .next (s.withPart (⟨s.chip.count (MBX_IGNORED 2) MBX_IGNORED.COUNT 1, s.sec⟩))) ∧
  (∀ (s : State),
      s.chip.mbxCmd 1 = 0x0201 →
      s.chip.forerunner = true →
      s.chip.serviceDown 7 = false →
      s.chip.flag (MBX_STATUS 1) MBX_STATUS.BUSY = true →
      exec (.mbxHint 0) s = .next (s.withPart (⟨s.chip.count (MBX_IGNORED 1) MBX_IGNORED.COUNT 1, s.sec⟩))) ∧
  (∀ (s : State),
      s.chip.mbxCmd 3 = 0x0401 →
      s.chip.forerunner = true →
      s.chip.serviceDown 7 = false →
      s.chip.flag (MBX_STATUS 3) MBX_STATUS.BUSY = true →
      exec (.mbxLoadModel 0) s = .next (s.withPart (⟨s.chip.count (MBX_IGNORED 3) MBX_IGNORED.COUNT 1, s.sec⟩))) ∧
  (∀ (s : State),
      s.chip.mbxCmd 3 = 0x0402 →
      s.chip.forerunner = true →
      s.chip.serviceDown 7 = false →
      s.chip.flag (MBX_STATUS 3) MBX_STATUS.BUSY = true →
      exec (.mbxUnloadModel 0) s = .next (s.withPart (⟨s.chip.count (MBX_IGNORED 3) MBX_IGNORED.COUNT 1, s.sec⟩))) ∧
  (∀ (s : State),
      s.chip.mbxCmd 0 = 0x0301 →
      s.chip.forerunner = true →
      s.chip.serviceDown 7 = false →
      s.chip.flag (MBX_STATUS 0) MBX_STATUS.BUSY = true →
      exec (.mbxAttest 0) s = .next (s.withPart (⟨s.chip.count (MBX_IGNORED 0) MBX_IGNORED.COUNT 1, s.sec⟩))) ∧
  (∀ (s : State),
      s.chip.mbxCmd 0 = 0x0302 →
      s.chip.forerunner = true →
      s.chip.serviceDown 7 = false →
      s.chip.flag (MBX_STATUS 0) MBX_STATUS.BUSY = true →
      exec (.mbxRandom 0) s = .next (s.withPart (⟨s.chip.count (MBX_IGNORED 0) MBX_IGNORED.COUNT 1, s.sec⟩))) ∧
  (∀ (s : State) (t m : Nat),
      t ≠ 0 ∨ s.chip.forerunner = false ∨ s.chip.serviceDown 7 = true →
      exec (.mbxSubmitJob t) s = .next (s.withPart (s.part)) ∧ exec (.mbxPreempt t) s = .next (s.withPart (s.part)) ∧ exec (.mbxAbort t) s = .next (s.withPart (s.part)) ∧ exec (.mbxHint t) s = .next (s.withPart (s.part)) ∧ exec (.mbxLoadModel t) s = .next (s.withPart (s.part)) ∧ exec (.mbxUnloadModel t) s = .next (s.withPart (s.part)) ∧ exec (.mbxAttest t) s = .next (s.withPart (s.part)) ∧ exec (.mbxRandom t) s = .next (s.withPart (s.part)) ∧ exec (.mbxUnknownCommand t m) s = .next (s.withPart (s.part)))

/-- Every request takes the next number; one of a number that is no master has no other effect. A master's request
with bytes is served under the tag and class of its source, and a parity error ends it with its record. A
register write or read whose check passes, at a block that is not gated, writes or reads the registers and is
answered; a request to DRAM whose check passes is queued; one whose check fails leaves its record and has no
effect; one at a gated block fails with its record, and one at the slow domain crosses the bridge. A host
request through a port in ENDPOINT mode of an active part, or through the recovery function, is served;
otherwise nothing happens. A write to the MSI window whose check passes raises its vector. A write over the
bridge whose check passes is performed and answered, and a read of the slow domain is served; the bridge
fetches the next read and discards what has waited 1 ms. -/
def Obligations.RequestsReachTheirTargets : Prop :=
  (∀ (s : State) (m x k a : Nat) (w : Bool) (l : Nat) (wr : Bool) (d : List Byte),
      (s.chip.meshReq m x a w l wr d).len ≠ 0 →
      listedMaster m = true →
      exec (.meshRequest m x k a w false l wr d) s = .next (s.withPart (s.part.numbered.serve (s.chip.meshReq m x a w l wr d) (s.chip.sourceClass m (s.chip.meshReq m x a w l wr d).tag k) s.chip.nextReq d))) ∧
  (∀ (s : State) (m x k a : Nat) (w : Bool) (l : Nat) (wr : Bool) (d : List Byte),
      (s.chip.meshReq m x a w l wr d).len ≠ 0 →
      listedMaster m = true →
      exec (.meshRequest m x k a w true l wr d) s = .next (s.withPart ({ s.part.numbered with chip := s.part.numbered.chip.parityLost (s.chip.meshReq m x a w l wr d) s.chip.nextReq }))) ∧
  (∀ (s : State) (m x k a : Nat) (w : Bool) (l : Nat) (wr : Bool) (d : List Byte),
      (s.chip.meshReq m x a w l wr d).len ≠ 0 →
      listedMaster m = true →
      s.part.numbered.chip.check (s.chip.meshReq m x a w l wr d) = none →
      s.part.numbered.chip.target a = .ok 0 →
      s.part.numbered.chip.gatedTarget 0 = false →
      exec (.meshRequest m x k a w false l wr d) s = .next (s.withPart ({ s.part.numbered with chip := s.part.numbered.chip.queueDram (s.chip.meshReq m x a w l wr d) (s.chip.sourceClass m (s.chip.meshReq m x a w l wr d).tag k) s.chip.nextReq d }))) ∧
  (∀ (s : State) (m g a l t : Nat) (d : List Byte),
      regBase ≤ a →
      d ≠ [] →
      listedMaster m = true →
      s.part.numbered.chip.check { master := m, tag := g, addr := a, len := d.length, write := true } = none →
      s.part.numbered.chip.target a = .ok t →
      s.part.numbered.chip.gatedTarget t = false →
      25 ≤ t →
      t ≠ 44 →
      t ≠ 49 →
      t ≠ 50 →
      msiVector a = none →
      exec (.registerWrite m g a d) s = .next (s.withPart ((let r := s.part.numbered.writeRegs d.length m g a d; { r with chip := r.chip.reply m s.chip.nextReq .value [] })))) ∧
  (∀ (s : State) (m g a l t : Nat) (d : List Byte),
      regBase ≤ a →
      d ≠ [] →
      listedMaster m = true →
      s.part.numbered.chip.check { master := m, tag := g, addr := a, len := d.length, write := true } = some (.sliceTag, t) →
      exec (.registerWrite m g a d) s = .next (s.withPart ({ s.part.numbered with chip := (s.part.numbered.chip.denied { master := m, tag := g, addr := a, len := d.length, write := true } .sliceTag t).failed { master := m, tag := g, addr := a, len := d.length, write := true } s.chip.nextReq 1 }))) ∧
  (∀ (s : State) (m g a l t : Nat),
      regBase ≤ a →
      l ≠ 0 →
      listedMaster m = true →
      s.part.numbered.chip.check { master := m, tag := g, addr := a, len := l, write := false } = none →
      s.part.numbered.chip.target a = .ok t →
      s.part.numbered.chip.gatedTarget t = false →
      25 ≤ t →
      t ≠ 44 →
      t ≠ 49 →
      t ≠ 50 →
      exec (.rcRegisterRead m g a l) s = .next (s.withPart ({ s.part.numbered with chip := (s.part.numbered.chip.readRegs l a l).2.reply m s.chip.nextReq .value (s.part.numbered.chip.readRegs l a l).1 }))) ∧
  (∀ (s : State) (p b : Nat) (x : Option Nat) (o l : Nat) (d : List Byte),
      p < 2 →
      l ≠ 0 →
      s.chip.recovers p = false →
      s.chip.hostServed p = true →
      exec (.hostRequest p b x o l false d) s = .next (s.withPart ((s.part.hostSeen p).hostBar p b s.chip.nextReq x o l false d))) ∧
  (∀ (s : State) (p b : Nat) (x : Option Nat) (o l : Nat) (d : List Byte),
      p < 2 →
      d ≠ [] →
      s.chip.recovers p = false →
      s.chip.hostServed p = true →
      exec (.hostRequest p b x o l true d) s = .next (s.withPart ((s.part.hostSeen p).hostBar p b s.chip.nextReq x o d.length true d))) ∧
  (∀ (s : State) (p b : Nat) (x : Option Nat) (o l : Nat) (d : List Byte),
      p < 2 →
      l ≠ 0 →
      s.chip.recovers p = true →
      exec (.hostRequest p b x o l false d) s = .next (s.withPart ((s.part.hostSeen p).recoveryRequest s.chip.nextReq b o l false d))) ∧
  (∀ (s : State) (p b : Nat) (x : Option Nat) (o l : Nat) (w : Bool) (d : List Byte),
      s.chip.recovers p = false →
      s.chip.hostServed p = false →
      exec (.hostRequest p b x o l w d) s = .next (s.withPart (s.part))) ∧
  (∀ (s : State) (m g p v : Nat),
      v < 2048 →
      p < 2 →
      listedMaster m = true →
      (s.chip.unpost (msiReq m g p v)).check (msiReq m g p v) = none →
      exec (.msiWindowWrite m g p v) s = .next { s with chip := Chip.settle ((s.chip.unpost (msiReq m g p v)).msiRaise p v) }) ∧
  (∀ (s : State) (m g p v t : Nat) (e : Deny),
      v < 2048 →
      p < 2 →
      listedMaster m = true →
      (s.chip.unpost (msiReq m g p v)).check (msiReq m g p v) = some (e, t) →
      exec (.msiWindowWrite m g p v) s = .next { s with chip := Chip.settle ((s.chip.unpost (msiReq m g p v)).denied (msiReq m g p v) e t) }) ∧
  (∀ (s : State) (m g a n t : Nat) (d : List Byte),
      s.chip.bridged a = some t →
      d ≠ [] →
      listedMaster m = true →
      s.part.numbered.chip.check { master := m, tag := g, addr := a, len := d.length, write := true } = none →
      s.chip.gatedTarget t = false →
      exec (.bridgeWrite m g a n d) s = .next (s.withPart (s.part.numbered.crossWrite { master := m, tag := g, addr := a, len := d.length, write := true } s.chip.nextReq t n d))) ∧
  (∀ (s : State) (m g a l : Nat),
      (s.chip.bridged a).isSome = true →
      l ≠ 0 →
      listedMaster m = true →
      exec (.bridgeRead m g a l) s = .next (s.withPart (s.part.numbered.serve { master := m, tag := g, addr := a, len := l, write := false } (s.chip.sourceClass m g 3) s.chip.nextReq []))) ∧
  (∀ (s : State) (e : BridgeRead),
      nextFetch s.chip.link.bridge = some e →
      exec (.bridgeReadFetched) s = .next { s with chip := Chip.settle (s.chip.fetchRead e) }) ∧
  (∀ (s : State),
      nextFetch s.chip.link.bridge = none →
      exec (.bridgeReadFetched) s = .next { s with chip := Chip.settle (s.chip) }) ∧
  (∀ (s : State),
      exec (.bridgeReadDiscard) s = .next { s with chip := Chip.settle ((s.chip.updLink (fun l => { l with bridge := l.bridge.filter (fun e => !s.chip.staleRead e) })).count AON_BR_DISCARDS AON_BR_DISCARDS.COUNT (s.chip.link.bridge.filter s.chip.staleRead).length) }) ∧
  (∀ (s : State) (m g a l t : Nat) (d : List Byte),
      regBase ≤ a →
      d ≠ [] →
      listedMaster m = true →
      s.part.numbered.chip.check { master := m, tag := g, addr := a, len := d.length, write := true } = none →
      s.part.numbered.chip.target a = .ok t →
      s.part.numbered.chip.gatedTarget t = true →
      exec (.registerWrite m g a d) s = .next (s.withPart ({ s.part.numbered with chip := (s.part.numbered.chip.gatedError { master := m, tag := g, addr := a, len := d.length, write := true } t).failed { master := m, tag := g, addr := a, len := d.length, write := true } s.chip.nextReq 3 }))) ∧
  (∀ (s : State) (m g a l t : Nat) (d : List Byte),
      regBase ≤ a →
      d ≠ [] →
      listedMaster m = true →
      s.part.numbered.chip.check { master := m, tag := g, addr := a, len := d.length, write := true } = none →
      s.part.numbered.chip.target a = .ok t →
      s.part.numbered.chip.gatedTarget t = false →
      t = 49 ∨ t = 44 →
      exec (.registerWrite m g a d) s = .next (s.withPart (Part.crossWrite { s.part.numbered with chip := s.part.numbered.chip.draw.2 } { master := m, tag := g, addr := a, len := d.length, write := true } s.chip.nextReq t (s.part.numbered.chip.draw.1.toNat % 1001) d))) ∧
  (∀ (s : State) (m g a l x k : Nat) (w b wr : Bool) (d : List Byte),
      listedMaster m = false →
      exec (.registerWrite m g a d) s = .next (s.withPart (s.part.numbered)) ∧ exec (.rcRegisterRead m g a l) s = .next (s.withPart (s.part.numbered)) ∧ exec (.meshRequest m x k a w b l wr d) s = .next (s.withPart (s.part.numbered)))

/-- Port 0 coming up in TWIN mode with the vehicle services up says HELLO, in recovery it asks for the bundle, and
it shows its link. A HELLO is kept and answered with a report over its nonce; a report in a pairing is judged
and answered with PAIRED or its fault; PAIRED is kept and pairs once both sides have sent it; a refusal is a
pairing fault; 1 s after a fault a HELLO goes out again. Outside a pairing the messages do nothing. A beat
that is due toggles TWIN_ALIVE_OUT and sends HEARTBEAT; heartbeats and edges fill their window; a window that
is over is judged. A link that goes down ends its pairing and leaves its record. -/
def Obligations.TheTwinPairsAndBeats : Prop :=
  (∀ (s : State) (g : Nat),
      s.chip.power.mode ≠ .recovery →
      s.chip.twinPort = true →
      s.chip.twin ≠ twDetached →
      s.chip.vehicleUp = true →
      exec (.twinLinkUp g) s = .next { s with chip := Chip.settle ((s.chip.twinUp g).sayHello) }) ∧
  (∀ (s : State) (g : Nat),
      s.chip.power.mode = .recovery →
      s.chip.portMode 0 = pmRecovery →
      exec (.twinLinkUp g) s = .next { s with chip := Chip.settle ((s.chip.twinUp g).twinSend 0x40 0 (leBytes 4 0 ++ leBytes 4 recChunk)) }) ∧
  (∀ (s : State) (t r : Nat) (n : List Byte),
      s.chip.canPair = true →
      exec (.twinHello t r n) s = .next (s.withPart (Part.sendReport ⟨s.chip.heardHello t r n, s.sec⟩ n))) ∧
  (∀ (s : State) (t r : Nat) (n : List Byte),
      s.chip.canPair = false →
      exec (.twinHello t r n) s = .next (s.withPart (s.part))) ∧
  (∀ (s : State) (r : List Byte),
      s.chip.canPair = true →
      s.chip.twin = twPairing →
      s.chip.link.nonce.isNone = false →
      exec (.twinReport r) s = .next { s with chip := Chip.settle (s.chip.reportJudged r (s.chip.reportFault r)) }) ∧
  (∀ (s : State),
      s.chip.canPair = true →
      s.chip.twin = twPairing →
      exec (.twinPaired) s = .next { s with chip := Chip.settle ((s.chip.updLink (fun l => { l with gotPaired := true })).pairUp) } ∧ (∀ k, exec (.pairFault k) s = .next { s with chip := Chip.settle (s.chip.pairFault k) })) ∧
  (∀ (s : State) (k : Nat) (r : List Byte),
      s.chip.twin ≠ twPairing →
      exec (.twinPaired) s = .next { s with chip := Chip.settle (s.chip) } ∧ exec (.pairFault k) s = .next { s with chip := Chip.settle (s.chip) } ∧ exec (.twinReport r) s = .next { s with chip := Chip.settle (s.chip) }) ∧
  (∀ (s : State) (t : Nat),
      s.chip.link.faultAt = some t →
      s.chip.canPair = true →
      s.chip.twin = twFault →
      t + 1000000000 ≤ s.chip.now →
      exec (.pairRetry) s = .next { s with chip := Chip.settle (s.chip.sayHello) }) ∧
  (∀ (s : State) (t : Nat),
      s.chip.link.faultAt = some t →
      s.chip.now < t + 1000000000 →
      exec (.pairRetry) s = .next { s with chip := Chip.settle (s.chip) }) ∧
  (∀ (s : State),
      s.chip.beatDue = true →
      exec (.heartbeatTick) s = .next { s with chip := Chip.settle (s.chip.beat) }) ∧
  (∀ (s : State),
      s.chip.beatDue = false →
      exec (.heartbeatTick) s = .next { s with chip := Chip.settle (s.chip) }) ∧
  (∀ (s : State),
      exec (.heartbeatRx true) s = .next { s with chip := Chip.settle (s.chip.updLink (fun l => { l with seenPin := nsInsert l.seenPin (windowOf s.chip.now) })) }) ∧
  (∀ (s : State),
      s.chip.twinOn = true →
      exec (.heartbeatRx false) s = .next { s with chip := Chip.settle (s.chip.updLink (fun l => { l with seenPath := nsInsert l.seenPath (windowOf s.chip.now) })) }) ∧
  (∀ (s : State),
      s.chip.windowOver = true →
      exec (.heartbeatWindow) s = .next { s with chip := Chip.settle (s.chip.judgeWindow) }) ∧
  (∀ (s : State),
      s.chip.windowOver = false →
      exec (.heartbeatWindow) s = .next { s with chip := Chip.settle (s.chip) }) ∧
  (∀ (s : State) (p : Nat),
      p < 2 →
      s.chip.portUp p = true →
      exec (.linkDown p) s = .next { s with chip := Chip.settle ((s.chip.portDown p).linkRecord (if p = 0 ∧ s.chip.twin = twPaired then 2 else 0) 4 p none) }) ∧
  (∀ (s : State) (p : Nat),
      s.chip.portUp p = false →
      exec (.linkDown p) s = .next { s with chip := Chip.settle (s.chip) })

/-- A channel whose trigger has come sends its checkpoint over the paired link, and skips it for the error bit;
one whose trigger has not come, or without a pairing, does nothing. The partner's checkpoint is written, its
object signalled and DONE acknowledged, or the failure acknowledged; an acknowledgement of what was sent
counts it done or failed. DETACH of tag 0 asks the partner on a paired link, else it is refused; the partner's
DETACH is a partner loss and is answered; the answer detaches the part. CARRY_END of tag 0 ends carrying. A
part with RECOVERY_SERVE serves its bundle piece by piece and its end, and one without it serves nothing; in
recovery data are staged and the next piece asked for, and the end hands the bundle over. -/
def Obligations.CheckpointsDetachAndRecovery : Prop :=
  (∀ (s : State) (n : Nat) (w : UnitWait),
      s.chip.nextCkpt = some w →
      w.who = .checkpoint n →
      w.err = false →
      s.chip.paired = true →
      exec (.checkpointTrigger n) s = .next { s with chip := Chip.settle ((s.chip.ckptArm n).sendCkpt n (syncCount (s.chip.sync w.obj))) }) ∧
  (∀ (s : State) (n : Nat) (w : UnitWait),
      s.chip.nextCkpt = some w →
      w.who = .checkpoint n →
      w.err = true →
      exec (.checkpointTrigger n) s = .next { s with chip := Chip.settle ((s.chip.count (LNK_CKPT_SKIPPED n) LNK_CKPT_SKIPPED.COUNT 1).ckptArm n) }) ∧
  (∀ (s : State) (n : Nat),
      (∀ x, s.chip.nextCkpt = some x → x.who ≠ .checkpoint n) →
      exec (.checkpointTrigger n) s = .next { s with chip := Chip.settle (s.chip) }) ∧
  (∀ (s : State) (n : Nat) (v a : W64) (d : List Byte) (k : Nat) (c : Chip),
      s.chip.paired = true →
      n < 16 →
      s.chip.saveRange hostMaster0 s.chip.ckptTag (a.toNat % 2 ^ 48) d = (.ok, k, c) →
      exec (.ckptStart n v a d) s = .next { s with chip := Chip.settle ((c.ckptSignal n v.toNat).sendAck n v.toNat stDone) }) ∧
  (∀ (s : State) (n : Nat) (v a : W64) (d : List Byte) (k : Nat) (c : Chip),
      s.chip.paired = true →
      n < 16 →
      s.chip.saveRange hostMaster0 s.chip.ckptTag (a.toNat % 2 ^ 48) d = (.denied, k, c) →
      exec (.ckptStart n v a d) s = .next { s with chip := Chip.settle (c.sendAck n v.toNat stAccessDenied) }) ∧
  (∀ (s : State) (n st : Nat) (v : W64),
      s.chip.twinOn = true →
      s.chip.link.ckptSent.contains (n, v.toNat) = true →
      exec (.ckptAck n st v) s = .next { s with chip := Chip.settle ((let c := s.chip.updLink (fun l => { l with ckptSent := l.ckptSent.erase (n, v.toNat) }); if isSuccess st = true then c.count (LNK_CKPT_DONE n) LNK_CKPT_DONE.COUNT 1 else c.ckptFailed n v.toNat st)) }) ∧
  (∀ (s : State),
      s.chip.paired = true →
      exec (.detach 0) s = .next { s with chip := Chip.settle ((s.chip.updLink (fun l => { l with detaching := true })).twinSend 0x30 0 []) } ∧ exec (.detachReq) s = .next { s with chip := Chip.settle ((s.chip.partnerLost 1).twinSend 0x31 0 []) }) ∧
  (∀ (s : State),
      s.chip.paired = false →
      exec (.detach 0) s = .next { s with chip := Chip.settle (s.chip.setFld LNK_TWIN_STATUS LNK_TWIN_STATUS.DETACH_REFUSED 1) } ∧ exec (.detachReq) s = .next { s with chip := Chip.settle (s.chip) }) ∧
  (∀ (s : State),
      s.chip.link.detaching = true →
      s.chip.twinOn = true →
      exec (.detachAck) s = .next { s with chip := Chip.settle (s.chip.nowDetached) }) ∧
  (∀ (s : State),
      exec (.carryEnd 0) s = .next { s with chip := Chip.settle (s.chip.setFld LNK_TWIN_STATUS LNK_TWIN_STATUS.CARRYING 0) }) ∧
  (∀ (s : State) (t : Nat),
      t ≠ 0 →
      exec (.carryEnd t) s = .next { s with chip := Chip.settle (s.chip) } ∧ exec (.detach t) s = .next { s with chip := Chip.settle (s.chip) }) ∧
  (∀ (s : State) (o l : Nat),
      s.chip.twinOn = true →
      bitOf (s.chip.domU 17 1) 0 = true →
      exec (.recReq o l) s = .next { s with chip := Chip.settle (if s.chip.flash.bundleBytes.length ≤ o then s.chip.bundleServed else s.chip.servePiece o l) }) ∧
  (∀ (s : State) (o l : Nat),
      s.chip.twinOn = true →
      bitOf (s.chip.domU 17 1) 0 = false →
      exec (.recReq o l) s = .next { s with chip := Chip.settle (s.chip.twinSend 0x42 0 (leBytes 4 0)) }) ∧
  (∀ (s : State) (o : Nat) (d : List Byte),
      s.chip.recoveryOn = true →
      s.chip.fld REC_STATUS REC_STATUS.STATE ≠ 2 →
      o + d.length ≤ stageSize →
      exec (.recData o d) s = .next { s with chip := Chip.settle ((s.chip.store (stageBase + o) d).twinSend 0x40 0 (leBytes 4 (o + d.length) ++ leBytes 4 recChunk)) }) ∧
  (∀ (s : State) (l : Nat),
      s.chip.recoveryOn = true →
      s.chip.fld REC_STATUS REC_STATUS.STATE ≠ 2 →
      l ≠ 0 →
      exec (.recEnd l) s = .next { s with chip := Chip.settle ((s.chip.setReg REC_LENGTH l).setFld REC_STATUS REC_STATUS.STATE 2) }) ∧
  (∀ (s : State) (o l : Nat) (d : List Byte),
      s.chip.recoveryOn = false →
      exec (.recData o d) s = .next { s with chip := Chip.settle (s.chip) } ∧ exec (.recEnd l) s = .next { s with chip := Chip.settle (s.chip) })

/-- A member whose slot has come announces, once; with the DOMAIN service down it owes the announcement; otherwise
nothing is sent. A frame that is an announcement of a member, authentic and new, is accepted and compared with
the reference, and another is recorded; outside a domain neither. 350 ms without the reference are told once.
A DOMAIN_STAGE that fails a check completes with its status, one whose list cannot be read says so, and a list
that is read is judged. A DOMAIN_SWITCH of the staged epoch at least 200 ms ahead becomes pending and
DEFERRED, joins the pending switch of its time, and is BAD_PARAM otherwise; TIME 0 cancels a pending switch
and completes DONE. At its time a pending switch takes effect, not before. -/
def Obligations.DomainsAnnounceStageAndSwitch : Prop :=
  (∀ (s : State),
      exec (.announceTick) s = .next { s with chip := Chip.settle ((match s.chip.announceDue with | none => if s.chip.announceWaits = true then s.chip.updDomain (fun d => { d with owed := true }) else s.chip | some m => (s.chip.updDomain (fun d => { d with sentAt := some s.chip.now })).sendAnnouncement m)) }) ∧
  (∀ (s : State) (b : List Byte),
      exec (.announcement b) s = .next { s with chip := Chip.settle (if s.chip.inDomain = false then s.chip else if s.chip.announcementOk b = true then s.chip.acceptAnnouncement b else s.chip.linkRecord 0 7 0 (bytesU b 3 1)) }) ∧
  (∀ (s : State),
      exec (.refSilent) s = .next { s with chip := Chip.settle (if s.chip.refLost = true then (s.chip.updDomain (fun d => { d with silent := true })).event 0 0x060B 0xFFFF 0 s.chip.domain.refSent 0 else s.chip) }) ∧
  (∀ (s : State) (p : Packet) (st : Nat),
      s.chip.startedAs p 0x900 →
      s.chip.stageStatus p = some st →
      exec (.domainStage p.id) s = .next (s.withPart (⟨s.chip.finish p.id st, s.sec⟩))) ∧
  (∀ (s : State) (p : Packet) (b : List Byte) (c : Chip),
      s.chip.startedAs p 0x900 →
      s.chip.stageStatus p = none →
      s.chip.stageList p = (.ok, b, c) →
      exec (.domainStage p.id) s = .next (s.withPart (⟨Part.stageJudged ⟨c, s.sec⟩ p b, s.sec⟩))) ∧
  (∀ (s : State) (p : Packet) (b : List Byte) (c : Chip),
      s.chip.startedAs p 0x900 →
      s.chip.stageStatus p = none →
      s.chip.stageList p = (.denied, b, c) →
      exec (.domainStage p.id) s = .next (s.withPart (⟨c.finish p.id stAccessDenied, s.sec⟩))) ∧
  (∀ (s : State) (p : Packet),
      s.chip.startedAs p 0x901 →
      p.u 40 8 ≠ 0 →
      zeroIn p.bytes 48 64 = true →
      s.chip.domain.pending = none →
      s.chip.stagedIs p = true →
      timeBefore (p.u 40 8) (s.chip.now + 200000000) = false →
      exec (.domainSwitch p.id) s = .next { s with chip := Chip.settle (((s.chip.updDomain (fun d => { d with pending := some { time := p.u 40 8, packets := [p.named] } })).showDomain).finish p.id stDeferred) }) ∧
  (∀ (s : State) (p : Packet) (w : Switch),
      s.chip.startedAs p 0x901 →
      p.u 40 8 ≠ 0 →
      zeroIn p.bytes 48 64 = true →
      s.chip.domain.pending = some w →
      s.chip.stagedIs p = true →
      w.time = p.u 40 8 →
      exec (.domainSwitch p.id) s = .next { s with chip := Chip.settle ((s.chip.updDomain (fun d => { d with pending := some { w with packets := w.packets ++ [p.named] } })).finish p.id stDeferred) }) ∧
  (∀ (s : State) (p : Packet),
      s.chip.startedAs p 0x901 →
      p.u 40 8 ≠ 0 →
      zeroIn p.bytes 48 64 = true →
      s.chip.domain.pending = none →
      s.chip.stagedIs p = false ∨ timeBefore (p.u 40 8) (s.chip.now + 200000000) = true →
      exec (.domainSwitch p.id) s = .next { s with chip := Chip.settle (s.chip.finish p.id stBadParam) }) ∧
  (∀ (s : State) (p : Packet),
      s.chip.startedAs p 0x901 →
      p.u 40 8 = 0 →
      zeroIn p.bytes 48 64 = true →
      exec (.domainSwitchCancel p.id) s = .next { s with chip := Chip.settle (if s.chip.domain.pending.isNone = true then s.chip.finish p.id stDone else s.chip.cancelSwitch.finish p.id stDone) }) ∧
  (∀ (s : State) (w : Switch) (g : Staged),
      s.chip.domain.pending = some w →
      s.chip.domain.staged = some g →
      timeBefore s.chip.now w.time = false →
      s.chip.power.mode = .active →
      exec (.domainSwitchTime) s = .next { s with chip := Chip.settle (s.chip.switchNow w g) }) ∧
  (∀ (s : State) (w : Switch) (g : Staged),
      s.chip.domain.pending = some w →
      s.chip.domain.staged = some g →
      timeBefore s.chip.now w.time = true →
      exec (.domainSwitchTime) s = .next { s with chip := Chip.settle (s.chip) })

/-- With the part active and an image loaded, a frame at an external port is counted and taken into the switch, or
dropped for its length. A port that may send sends the frame its gates and shapers choose, and with none
nothing. A gate interval goes on to the next entry, and a new list starts at its time. A write of a ring's
tail by a tag that may takes the descriptors posted. A recovery stream past its time forgets its history. A
link that is up goes down with its record. A CAN frame a controller takes reaches the wheel streams of its
identifier and follows its route, or its ring where it is kept unmatched; a transmit tail by a tag that may is
written; an arbitration won sends the frame offered; and the error counts and the state of a controller, with
the record of a limit newly crossed, follow. -/
def Obligations.TheNetworkMovesFrames : Prop :=
  (∀ (s : State) (n : Nat) (d : List Byte),
      n < 8 →
      s.chip.switching = true →
      14 ≤ d.length →
      d.length + 4 ≤ 9216 →
      exec (.ethFrameRx n d) s = .next (s.withPart (⟨(s.chip.frameIn n).frameTaken s.sec.netKeys n d, s.sec⟩))) ∧
  (∀ (s : State) (n : Nat) (d : List Byte),
      n < 8 →
      s.chip.switching = true →
      d.length < 14 ∨ 9216 < d.length + 4 →
      exec (.ethFrameRx n d) s = .next (s.withPart (⟨(s.chip.frameIn n).netDrop n, s.sec⟩))) ∧
  (∀ (s : State) (n q : Nat) (f : EthFrame),
      s.chip.maySend n = true →
      s.chip.egressQueue n = some (q, f) →
      exec (.ethFrameTx n) s = .next (s.withPart (⟨s.chip.sendFrame s.sec.netKeys n q f, s.sec⟩))) ∧
  (∀ (s : State) (n : Nat),
      s.chip.maySend n = false ∨ s.chip.egressQueue n = none →
      exec (.ethFrameTx n) s = .next (s.withPart (s.part))) ∧
  (∀ (s : State) (n : Nat) (g : GateRun),
      AMap.get? s.chip.net.nextGates n = some g →
      g.since ≤ s.chip.now →
      exec (.gateInterval n) s = .next { s with chip := Chip.settle (s.chip.updNet (fun w => { w with gates := AMap.set w.gates n g, nextGates := AMap.del w.nextGates n })) }) ∧
  (∀ (s : State) (n : Nat) (g : GateRun),
      AMap.get? s.chip.net.nextGates n = none →
      AMap.get? s.chip.net.gates n = some g →
      exec (.gateInterval n) s = .next { s with chip := Chip.settle (s.chip.advanceGate n g) }) ∧
  (∀ (s : State) (t r : Nat) (v : W32),
      r < 8 →
      s.chip.netTagOk t = true →
      (s.chip.setReg (NET_DMA_TAIL r) v.toNat).flag (NET_DMA_RING r) NET_DMA_RING.EN = true →
      exec (.netDmaTail t r v) s = .next { s with chip := Chip.settle (Chip.takeTx r ((s.chip.setReg (NET_DMA_TAIL r) v.toNat).postedTx r v.toNat) (s.chip.setReg (NET_DMA_TAIL r) v.toNat)) }) ∧
  (∀ (s : State) (t r : Nat) (v : W32),
      r < 16 →
      8 ≤ r →
      s.chip.netTagOk t = true →
      exec (.netDmaTail t r v) s = .next { s with chip := Chip.settle (s.chip.setReg (NET_DMA_TAIL r) v.toNat) }) ∧
  (∀ (s : State) (t r : Nat) (v : W32),
      s.chip.netTagOk t = false →
      exec (.netDmaTail t r v) s = .next { s with chip := Chip.settle (s.chip) }) ∧
  (∀ (s : State) (n : Nat),
      s.chip.recoveryOld n = true →
      exec (.frerReset n) s = .next { s with chip := Chip.settle (s.chip.updNet (fun w => { w with recovery := AMap.del w.recovery (swKey (swEntry s.chip.net.image 4 n)) })) }) ∧
  (∀ (s : State) (n : Nat),
      s.chip.recoveryOld n = false →
      exec (.frerReset n) s = .next { s with chip := Chip.settle (s.chip) }) ∧
  (∀ (s : State) (n : Nat),
      n < 8 →
      s.chip.flag (NET_PORT_STATUS n) NET_PORT_STATUS.UP = true →
      exec (.ethLinkDown n) s = .next { s with chip := Chip.settle (((s.chip.setFld (NET_PORT_STATUS n) NET_PORT_STATUS.UP 0).setFld (NET_PORT_STATUS n) NET_PORT_STATUS.MBPS 0).netRecord 0 0x0A n none) }) ∧
  (∀ (s : State) (n : Nat) (sof : W64) (idw : W32) (fl sd vc : Nat) (af : W32) (d : List Byte) (e : List Byte) (c : Chip),
      s.chip.canOn n = true →
      s.chip.canTakes n { idw := idw.toNat % 2 ^ 31, flags := fl % 16, sdt := sd % 256, vcid := vc % 256, af := af.toNat, data := d } = true →
      s.chip.wheelFrames n (idw.toNat % 2 ^ 31) sof.toNat d = c →
      c.routeOf n { idw := idw.toNat % 2 ^ 31, flags := fl % 16, sdt := sd % 256, vcid := vc % 256, af := af.toNat, data := d } = some e →
      exec (.canFrameRx n sof idw fl sd vc af d) s = .next { s with chip := Chip.settle (c.canRoute n sof.toNat e { idw := idw.toNat % 2 ^ 31, flags := fl % 16, sdt := sd % 256, vcid := vc % 256, af := af.toNat, data := d }) }) ∧
  (∀ (s : State) (n : Nat) (sof : W64) (idw : W32) (fl sd vc : Nat) (af : W32) (d : List Byte) (c : Chip),
      s.chip.canOn n = true →
      s.chip.canTakes n { idw := idw.toNat % 2 ^ 31, flags := fl % 16, sdt := sd % 256, vcid := vc % 256, af := af.toNat, data := d } = true →
      s.chip.wheelFrames n (idw.toNat % 2 ^ 31) sof.toNat d = c →
      c.routeOf n { idw := idw.toNat % 2 ^ 31, flags := fl % 16, sdt := sd % 256, vcid := vc % 256, af := af.toNat, data := d } = none →
      exec (.canFrameRx n sof idw fl sd vc af d) s = .next { s with chip := Chip.settle (if c.flag (CAN_CTRL n) CAN_CTRL.RX_UNMATCHED = true then c.canRecord n (CanFrame.record { idw := idw.toNat % 2 ^ 31, flags := fl % 16, sdt := sd % 256, vcid := vc % 256, af := af.toNat, data := d } sof.toNat false) else c) }) ∧
  (∀ (s : State) (t n : Nat) (v : W32),
      n < 16 →
      t = 0 ∨ t = s.chip.canTag →
      exec (.canTxTail t n v) s = .next { s with chip := Chip.settle (s.chip.setReg (CAN_TX_TAIL n) v.toNat) }) ∧
  (∀ (s : State) (t n : Nat) (v : W32),
      t ≠ 0 →
      t ≠ s.chip.canTag →
      exec (.canTxTail t n v) s = .next { s with chip := Chip.settle (s.chip) }) ∧
  (∀ (s : State) (n : Nat) (r : CanFrame × Chip),
      s.chip.canOn n = true →
      s.chip.canOffer n = some r →
      exec (.canArbitration n true) s = .next { s with chip := Chip.settle (r.2.send (.can n r.1.id r.1.ide) (r.1.record 0 false)) }) ∧
  (∀ (s : State) (n : Nat) (b : Bool),
      b = false ∨ s.chip.canOffer n = none →
      exec (.canArbitration n b) s = .next { s with chip := Chip.settle (s.chip) }) ∧
  (∀ (s : State) (n t r : Nat),
      n < 16 →
      exec (.canBusOff n t r) s = .next { s with chip := Chip.settle ((let c := s.chip.setReg (CAN_STATUS n) (min t 255 * 2 ^ 24 + min r 255 * 2 ^ 16 + canStateOf t r); if canStateOf t r = 2 ∧ s.chip.fld (CAN_STATUS n) CAN_STATUS.STATE ≠ 2 then c.netRecord 2 6 (0x10 + n) none else if canStateOf t r = 1 ∧ s.chip.fld (CAN_STATUS n) CAN_STATUS.STATE = 0 then c.netRecord 1 5 (0x10 + n) none else c)) })

/-- A Sync on the slave port of an active part measures the rate and the offset, is kept for the master ports,
steps device time where it may, and is judged; on another port it does nothing. A master port sends its Sync
where it has one to send. A Pdelay_Req on a port that is up is answered, and a Pdelay_Resp sets the link
delay. Without a Sync for 3 intervals the part goes to holdover, and after HOLDOVER_MS it is unlocked with its
record; before that nothing happens. An Announce of another clock, where roles are chosen, is kept or dropped
and the choice made anew. A read of NET_TIME_NS with slice tag 0 answers device time and latches its fraction,
and with another tag it is denied. -/
def Obligations.DeviceTimeIsKept : Prop :=
  (∀ (s : State) (n x a b k : Nat),
      s.chip.ptpOn n = true →
      n = s.chip.slavePort →
      exec (.ptpSyncRx n x a b k) s = .next { s with chip := Chip.settle ((let o := s.chip.syncOffset n x a b k; let c := s.chip.syncMeasured n x a b k (o / 1000); (if 2 ≤ s.chip.fld NET_TIME_STATUS NET_TIME_STATUS.QUALITY ∧ c.ptpU 16 4 < (o / 1000).natAbs then c.stepTime n o else c).syncJudged (o / 1000))) }) ∧
  (∀ (s : State) (n x a b k : Nat),
      n ≠ s.chip.slavePort →
      exec (.ptpSyncRx n x a b k) s = .next { s with chip := Chip.settle (s.chip) }) ∧
  (∀ (s : State) (n k : Nat) (b : List Byte),
      s.chip.syncMaster n = true →
      s.chip.syncOut n = some (b, k) →
      exec (.ptpSyncTx n) s = .next { s with chip := Chip.settle (s.chip.syncDrawn.sendSync n b k) }) ∧
  (∀ (s : State) (n : Nat),
      s.chip.syncMaster n = false ∨ s.chip.syncOut n = none →
      exec (.ptpSyncTx n) s = .next { s with chip := Chip.settle (s.chip) }) ∧
  (∀ (s : State) (n x k : Nat) (b : List Byte),
      s.chip.ptpOn n = true →
      s.chip.flag (NET_PORT_STATUS n) NET_PORT_STATUS.UP = true →
      exec (.pdelayReq n x k b) s = .next { s with chip := Chip.settle (s.chip.answerDelay n x k b) }) ∧
  (∀ (s : State) (n a b c d : Nat),
      s.chip.ptpOn n = true →
      exec (.pdelayResp n a b c d) s = .next { s with chip := Chip.settle (s.chip.setReg (NET_PDELAY n) (ux 32 (s.chip.linkDelay n a b c d / 1000))) }) ∧
  (∀ (s : State) (n x k a b c d : Nat) (l : List Byte),
      s.chip.ptpOn n = false →
      exec (.pdelayReq n x k l) s = .next { s with chip := Chip.settle (s.chip) } ∧ exec (.pdelayResp n a b c d) s = .next { s with chip := Chip.settle (s.chip) }) ∧
  (∀ (s : State),
      s.chip.syncMissing = true →
      exec (.gmLoss) s = .next { s with chip := Chip.settle (s.chip.holdover) }) ∧
  (∀ (s : State),
      s.chip.syncMissing = false →
      exec (.gmLoss) s = .next { s with chip := Chip.settle (s.chip) }) ∧
  (∀ (s : State),
      s.chip.holdoverOver = true →
      exec (.holdoverExpiry) s = .next { s with chip := Chip.settle ((s.chip.setQuality 2).netRecord 1 8 (s.chip.slavePort % 16) none) }) ∧
  (∀ (s : State),
      s.chip.holdoverOver = false →
      exec (.holdoverExpiry) s = .next { s with chip := Chip.settle (s.chip) }) ∧
  (∀ (s : State) (n a b c d e k : Nat) (g : W64),
      s.chip.ptpOn n = true →
      s.chip.ptpU 0 1 = 0 →
      g.toNat ≠ Config.clockIdentity.toNat →
      exec (.gptpAnnounce n true a b c d e g k) s = .next { s with chip := Chip.settle ((s.chip.heard n (some { vector := [a, b, c, d, e, g.toNat, k], gm := g.toNat })).chooseMaster) } ∧ exec (.gptpAnnounce n false a b c d e g k) s = .next { s with chip := Chip.settle ((s.chip.heard n none).chooseMaster) }) ∧
  (∀ (s : State) (m : Nat),
      exec (.netTimeRead m 0) s = .next { s with chip := Chip.settle ((let c := Chip.setReg { s.chip with nextReq := s.chip.nextReq + 1 } NET_TIME_FRAC s.chip.net.frac; { c with replies := AMap.set c.replies m { id := s.chip.nextReq, status := .value, data := leBytes 8 c.now } })) }) ∧
  (∀ (s : State) (m t : Nat),
      t ≠ 0 →
      exec (.netTimeRead m t) s = .next { s with chip := Chip.settle ((let c := Chip.denied { s.chip with nextReq := s.chip.nextReq + 1 } (timeReq m t) .sliceTag 43; { c with replies := AMap.set c.replies m { id := s.chip.nextReq, status := .busError, data := List.replicate 8 0 } })) })

/-- Whatever command stands at the front of the queue, a step at that state is exec of that command at the state
with the queue's rest, so the statements about the commands reach every run. With no command waiting, posted
writes arrive, register writes that waited for requests are tried, and device time is one nanosecond later;
with neither waiting the time, and what settles with it, is all that changes: this last is the model's choice
(log 2). -/
def Obligations.StepRunsTheFrontCommand : Prop :=
  (∀ (i : Instr) (l : List Instr) (s : State),
      s.pending = i :: l →
      step s = exec i { s with pending := l }) ∧
  (∀ (s : State),
      s.pending = [] →
      step s = .next (idle s)) ∧
  (∀ (s : State),
      s.pending = [] →
      s.chip.posted = [] →
      s.chip.eccHeld = [] →
      step s = .next { s with chip := Chip.settle { s.chip with now := s.chip.now + 1 } })

/-- At the state after reset no command waits, every register reads as its reset value, every byte of memory reads
zero, no debug enable stands, and the memory is in its canonical form. Reset values that the spec does not
give, and zero as what memory without valid bits reads as, are the model's choices as its log says. -/
def Obligations.ResetIsWellKept : Prop :=
  ∀ (r : Reg) (a : Nat),
      State.reset.pending = [] ∧ State.reset.chip.reg r = r.reset ∧ memGet State.reset.chip.mem a = 0 ∧ State.reset.sec.enables = 0 ∧ State.reset.chip.memOk = true ∧ State.reset.sec.debugOk = true ∧ State.reset.chip.err.safetyDue = false

/-- For a request of at least one byte that reaches target t: where no enabled window of t contains both its first
and its last byte, so also where it crosses from one window into another, it is denied. Otherwise the
lowest-numbered such window decides: if the master's entry has that window's read bit (for a read) or write
bit (for a write), the request passes the table, and what the target's own rules say is the whole answer; if
not, it is denied. The cause is NO_WINDOW or PERMISSION, and for the MSI window SLICE_TAG. -/
def Obligations.AccessTablesDecide : Prop :=
  (∀ (c : Chip) (q : Req) (t t' : Nat),
      0 < q.len →
      c.target q.addr = .ok t →
      c.target (q.addr + q.len - 1) = .ok t' →
      (∀ w < 8, ¬ (c.fld (ACC_WIN_BASE t w) ACC_WIN_BASE.EN = 1 ∧ c.fld (ACC_WIN_BASE t w) ACC_WIN_BASE.BASE * 4096 ≤ q.addr ∧ q.addr + q.len ≤ (c.fld (ACC_WIN_LIMIT t w) ACC_WIN_LIMIT.LIMIT + 1) * 4096)) →
      c.check q = some (if (msiVector q.addr).isSome then .sliceTag else .noWindow, t)) ∧
  (∀ (c : Chip) (q : Req) (t t' w : Nat),
      0 < q.len →
      c.target q.addr = .ok t →
      c.target (q.addr + q.len - 1) = .ok t' →
      w < 8 →
      (c.fld (ACC_WIN_BASE t w) ACC_WIN_BASE.EN = 1 ∧ c.fld (ACC_WIN_BASE t w) ACC_WIN_BASE.BASE * 4096 ≤ q.addr ∧ q.addr + q.len ≤ (c.fld (ACC_WIN_LIMIT t w) ACC_WIN_LIMIT.LIMIT + 1) * 4096) →
      (∀ v < w, ¬ (c.fld (ACC_WIN_BASE t v) ACC_WIN_BASE.EN = 1 ∧ c.fld (ACC_WIN_BASE t v) ACC_WIN_BASE.BASE * 4096 ≤ q.addr ∧ q.addr + q.len ≤ (c.fld (ACC_WIN_LIMIT t v) ACC_WIN_LIMIT.LIMIT + 1) * 4096)) →
      (c.fld (ACC_ENTRY t (q.master / 2)) (if q.master % 2 = 1 then ACC_ENTRY.ENTRY_HI else ACC_ENTRY.ENTRY_LO)).testBit (2 * w + (if q.write then 1 else 0)) = true →
      c.check q = (c.checkTarget t q).map (fun d => (d, t))) ∧
  (∀ (c : Chip) (q : Req) (t t' w : Nat),
      0 < q.len →
      c.target q.addr = .ok t →
      c.target (q.addr + q.len - 1) = .ok t' →
      w < 8 →
      (c.fld (ACC_WIN_BASE t w) ACC_WIN_BASE.EN = 1 ∧ c.fld (ACC_WIN_BASE t w) ACC_WIN_BASE.BASE * 4096 ≤ q.addr ∧ q.addr + q.len ≤ (c.fld (ACC_WIN_LIMIT t w) ACC_WIN_LIMIT.LIMIT + 1) * 4096) →
      (∀ v < w, ¬ (c.fld (ACC_WIN_BASE t v) ACC_WIN_BASE.EN = 1 ∧ c.fld (ACC_WIN_BASE t v) ACC_WIN_BASE.BASE * 4096 ≤ q.addr ∧ q.addr + q.len ≤ (c.fld (ACC_WIN_LIMIT t v) ACC_WIN_LIMIT.LIMIT + 1) * 4096)) →
      (c.fld (ACC_ENTRY t (q.master / 2)) (if q.master % 2 = 1 then ACC_ENTRY.ENTRY_HI else ACC_ENTRY.ENTRY_LO)).testBit (2 * w + (if q.write then 1 else 0)) = false →
      c.check q = some (if (msiVector q.addr).isSome then .sliceTag else .permission, t))

/-- For a request that the access table of the TILE block passes, all of it in the registers of tile n: with slice
tag 0, or with the tag of the slice that holds tile n, it passes; with any other tag it is denied, for its
slice tag, at the target of the TILE block. -/
def Obligations.TileRegistersAdmitTheirSlice : Prop :=
  ∀ (c : Chip) (q : Req) (n : Nat),
      n < 192 →
      0 < q.len →
      blockAddr 3 + n * 0x10000 ≤ q.addr →
      q.addr + q.len ≤ blockAddr 3 + (n + 1) * 0x10000 →
      c.checkWindow 28 q = none →
      c.check q = if q.tag = 0 ∨ c.tileSlice n = some q.tag then none else some (.sliceTag, 28)

/-- Whatever stands in the memory, bytes written from an address up read back in place, and every other address
reads as before; so it is for a store of any master, whose check codes and valid bits change no other byte. A
range that is cleared reads zero, and every other address as before. Two memories in canonical form that read
alike at every address are the same data. -/
def Obligations.MemoryAnswersItsWrites : Prop :=
  (∀ (m : Memory) (a : Nat) (b : List Byte) (i : Nat),
      memGet (memWrite m a b) i = if a ≤ i ∧ i < a + b.length then b.getD (i - a) 0 else memGet m i) ∧
  (∀ (c : Chip) (a : Nat) (b : List Byte) (i : Nat),
      memGet (c.store a b).mem i = if a ≤ i ∧ i < a + b.length then b.getD (i - a) 0 else memGet c.mem i) ∧
  (∀ (m : Memory) (a b i : Nat),
      memGet (memClear m a b) i = if a ≤ i ∧ i < b then 0 else memGet m i) ∧
  (∀ (m k : Memory),
      Memory.wf m = true →
      Memory.wf k = true →
      (∀ a, memGet m a = memGet k a) →
      m = k)

/-- Applied to any object, SET_MAX and ADD leave its count no lower and never clear its error bit; the error bit
alone can be set, with the count kept; RESET gives the count it names and clears the error bit. Two SET_MAX
signals give the same value in either order, and so do two ADD signals; an ADD past the largest count leaves
the largest count and the error bit. -/
def Obligations.SignalsOnSyncObjects : Prop :=
  (∀ (x : W64) (v : Nat),
      v < 2 ^ 63 →
      syncCount ((Signal.setMax v).apply x) = max (syncCount x) v ∧ syncErr ((Signal.setMax v).apply x) = syncErr x ∧ syncCount ((Signal.reset v).apply x) = v ∧ syncErr ((Signal.reset v).apply x) = false ∧ syncCount (Signal.setError.apply x) = syncCount x ∧ syncErr (Signal.setError.apply x) = true) ∧
  (∀ (x : W64) (v : Nat),
      v < 2 ^ 63 →
      syncCount ((Signal.add v).apply x) = min (syncCount x + v) (2 ^ 63 - 1) ∧ syncErr ((Signal.add v).apply x) = (syncErr x || decide (2 ^ 63 ≤ syncCount x + v))) ∧
  (∀ (x : W64) (v w : Nat),
      v < 2 ^ 63 →
      w < 2 ^ 63 →
      (Signal.setMax v).apply ((Signal.setMax w).apply x) = (Signal.setMax w).apply ((Signal.setMax v).apply x) ∧ (Signal.add v).apply ((Signal.add w).apply x) = (Signal.add w).apply ((Signal.add v).apply x))

/-- When a command answers a next state, the commands that wait are as they were, whatever the command. For every
command but those of the security core, of debug, of the mailboxes, of starts and resets, and those that carry
a request or a frame to such a unit (the list of reachesSecure), everything the security core alone reaches is
unchanged: the debug enables and their record, the challenge, the anti-rollback counters, measurements, keys,
the vault and the mailbox of GATE. -/
def Obligations.CommandsLeaveQueueAndSecureWorld : Prop :=
  (∀ (i : Instr) (s t : State),
      exec i s = .next t →
      t.pending = s.pending) ∧
  (∀ (i : Instr) (s t : State),
      exec i s = .next t →
      reachesSecure i = false →
      t.sec = s.sec)

/-- For each of the commands listed in storesNothing (register writes of software, packet bookkeeping, fences and
waits, timers and levels of power, streams, self-tests, links and clocks, as the list names them): when no
safety record has been lost since the last command, so that no safe state is owed (R333), and the command
answers a next state, every address reads as before, and still no safe state is owed. -/
def Obligations.CommandsThatStoreNothing : Prop :=
  ∀ (i : Instr) (s t : State),
      storesNothing i = true →
      s.chip.err.safetyDue = false →
      exec i s = .next t →
      (∀ a, memGet t.chip.mem a = memGet s.chip.mem a) ∧ t.chip.err.safetyDue = false

/-- From every state whose memory lists rising addresses and no byte that an unlisted address would read as, a
step, of whatever command or of none, that answers a next state leaves the memory so. Equal memories therefore
stay equal data along every run. -/
def Obligations.StepKeepsTheMemoryForm : Prop :=
  ∀ (s t : State),
      s.chip.memOk = true →
      step s = .next t →
      t.chip.memOk = true

/-- From every state in which each debug enable that stands is among those opened since the cold start, a step
that answers a next state leaves it so: no command opens debug without its record, and none clears the record
while an enable stands. And from every state whatever, a step leaves the anti-rollback counter of every image
type at least as high as it was, over starts, resets and losses of power too. -/
def Obligations.StepKeepsTheSecureRecord : Prop :=
  (∀ (s t : State),
      s.sec.debugOk = true →
      step s = .next t →
      t.sec.debugOk = true) ∧
  (∀ (s t : State) (n : Nat),
      step s = .next t →
      AMap.getD s.sec.rollback n 0 ≤ AMap.getD t.sec.rollback n 0)
end

