-- ==== Sys2Proof/Laws/State.lean ====
section
/-!
SUPPORT. What each update of the part leaves as it was: one lemma for each field of the part and each shared update.
-/

namespace Sys2Proof.Machine

/-! A register write changes nothing but regs. -/

@[simp] theorem Chip.setReg_mem (c : Chip) (r : Reg) (v : Nat) : (c.setReg r v).mem = c.mem := rfl
@[simp] theorem Chip.setReg_now (c : Chip) (r : Reg) (v : Nat) : (c.setReg r v).now = c.now := rfl
@[simp] theorem Chip.setReg_free (c : Chip) (r : Reg) (v : Nat) : (c.setReg r v).free = c.free := rfl
@[simp] theorem Chip.setReg_capacity (c : Chip) (r : Reg) (v : Nat) : (c.setReg r v).capacity = c.capacity := rfl
@[simp] theorem Chip.setReg_owners (c : Chip) (r : Reg) (v : Nat) : (c.setReg r v).owners = c.owners := rfl
@[simp] theorem Chip.setReg_badOwners (c : Chip) (r : Reg) (v : Nat) : (c.setReg r v).badOwners = c.badOwners := rfl
@[simp] theorem Chip.setReg_carveOut (c : Chip) (r : Reg) (v : Nat) : (c.setReg r v).carveOut = c.carveOut := rfl
@[simp] theorem Chip.setReg_validBlocks (c : Chip) (r : Reg) (v : Nat) : (c.setReg r v).validBlocks = c.validBlocks := rfl
@[simp] theorem Chip.setReg_validLines (c : Chip) (r : Reg) (v : Nat) : (c.setReg r v).validLines = c.validLines := rfl
@[simp] theorem Chip.setReg_badWords (c : Chip) (r : Reg) (v : Nat) : (c.setReg r v).badWords = c.badWords := rfl
@[simp] theorem Chip.setReg_badValid (c : Chip) (r : Reg) (v : Nat) : (c.setReg r v).badValid = c.badValid := rfl
@[simp] theorem Chip.setReg_rawBlocks (c : Chip) (r : Reg) (v : Nat) : (c.setReg r v).rawBlocks = c.rawBlocks := rfl
@[simp] theorem Chip.setReg_eccHeld (c : Chip) (r : Reg) (v : Nat) : (c.setReg r v).eccHeld = c.eccHeld := rfl
@[simp] theorem Chip.setReg_cleanLines (c : Chip) (r : Reg) (v : Nat) : (c.setReg r v).cleanLines = c.cleanLines := rfl
@[simp] theorem Chip.setReg_tiles (c : Chip) (r : Reg) (v : Nat) : (c.setReg r v).tiles = c.tiles := rfl
@[simp] theorem Chip.setReg_models (c : Chip) (r : Reg) (v : Nat) : (c.setReg r v).models = c.models := rfl
@[simp] theorem Chip.setReg_engines (c : Chip) (r : Reg) (v : Nat) : (c.setReg r v).engines = c.engines := rfl
@[simp] theorem Chip.setReg_jobs (c : Chip) (r : Reg) (v : Nat) : (c.setReg r v).jobs = c.jobs := rfl
@[simp] theorem Chip.setReg_pendingRels (c : Chip) (r : Reg) (v : Nat) : (c.setReg r v).pendingRels = c.pendingRels := rfl
@[simp] theorem Chip.setReg_jobsPast (c : Chip) (r : Reg) (v : Nat) : (c.setReg r v).jobsPast = c.jobsPast := rfl
@[simp] theorem Chip.setReg_saves (c : Chip) (r : Reg) (v : Nat) : (c.setReg r v).saves = c.saves := rfl
@[simp] theorem Chip.setReg_faulted (c : Chip) (r : Reg) (v : Nat) : (c.setReg r v).faulted = c.faulted := rfl
@[simp] theorem Chip.setReg_weir (c : Chip) (r : Reg) (v : Nat) : (c.setReg r v).weir = c.weir := rfl
@[simp] theorem Chip.setReg_cfl (c : Chip) (r : Reg) (v : Nat) : (c.setReg r v).cfl = c.cfl := rfl
@[simp] theorem Chip.setReg_ale (c : Chip) (r : Reg) (v : Nat) : (c.setReg r v).ale = c.ale := rfl
@[simp] theorem Chip.setReg_gfx (c : Chip) (r : Reg) (v : Nat) : (c.setReg r v).gfx = c.gfx := rfl
@[simp] theorem Chip.setReg_pipes (c : Chip) (r : Reg) (v : Nat) : (c.setReg r v).pipes = c.pipes := rfl
@[simp] theorem Chip.setReg_fills (c : Chip) (r : Reg) (v : Nat) : (c.setReg r v).fills = c.fills := rfl
@[simp] theorem Chip.setReg_slices (c : Chip) (r : Reg) (v : Nat) : (c.setReg r v).slices = c.slices := rfl
@[simp] theorem Chip.setReg_drains (c : Chip) (r : Reg) (v : Nat) : (c.setReg r v).drains = c.drains := rfl
@[simp] theorem Chip.setReg_destroys (c : Chip) (r : Reg) (v : Nat) : (c.setReg r v).destroys = c.destroys := rfl
@[simp] theorem Chip.setReg_dirtyLogs (c : Chip) (r : Reg) (v : Nat) : (c.setReg r v).dirtyLogs = c.dirtyLogs := rfl
@[simp] theorem Chip.setReg_sliceTags (c : Chip) (r : Reg) (v : Nat) : (c.setReg r v).sliceTags = c.sliceTags := rfl
@[simp] theorem Chip.setReg_rings (c : Chip) (r : Reg) (v : Nat) : (c.setReg r v).rings = c.rings := rfl
@[simp] theorem Chip.setReg_packets (c : Chip) (r : Reg) (v : Nat) : (c.setReg r v).packets = c.packets := rfl
@[simp] theorem Chip.setReg_nextPacket (c : Chip) (r : Reg) (v : Nat) : (c.setReg r v).nextPacket = c.nextPacket := rfl
@[simp] theorem Chip.setReg_starts (c : Chip) (r : Reg) (v : Nat) : (c.setReg r v).starts = c.starts := rfl
@[simp] theorem Chip.setReg_lastRing (c : Chip) (r : Reg) (v : Nat) : (c.setReg r v).lastRing = c.lastRing := rfl
@[simp] theorem Chip.setReg_staged (c : Chip) (r : Reg) (v : Nat) : (c.setReg r v).staged = c.staged := rfl
@[simp] theorem Chip.setReg_syncs (c : Chip) (r : Reg) (v : Nat) : (c.setReg r v).syncs = c.syncs := rfl
@[simp] theorem Chip.setReg_unitWaits (c : Chip) (r : Reg) (v : Nat) : (c.setReg r v).unitWaits = c.unitWaits := rfl
@[simp] theorem Chip.setReg_dramQueue (c : Chip) (r : Reg) (v : Nat) : (c.setReg r v).dramQueue = c.dramQueue := rfl
@[simp] theorem Chip.setReg_linkQ (c : Chip) (r : Reg) (v : Nat) : (c.setReg r v).linkQ = c.linkQ := rfl
@[simp] theorem Chip.setReg_accepted (c : Chip) (r : Reg) (v : Nat) : (c.setReg r v).accepted = c.accepted := rfl
@[simp] theorem Chip.setReg_nextReq (c : Chip) (r : Reg) (v : Nat) : (c.setReg r v).nextReq = c.nextReq := rfl
@[simp] theorem Chip.setReg_millrace (c : Chip) (r : Reg) (v : Nat) : (c.setReg r v).millrace = c.millrace := rfl
@[simp] theorem Chip.setReg_arbiters (c : Chip) (r : Reg) (v : Nat) : (c.setReg r v).arbiters = c.arbiters := rfl
@[simp] theorem Chip.setReg_predictors (c : Chip) (r : Reg) (v : Nat) : (c.setReg r v).predictors = c.predictors := rfl
@[simp] theorem Chip.setReg_returnStacks (c : Chip) (r : Reg) (v : Nat) : (c.setReg r v).returnStacks = c.returnStacks := rfl
@[simp] theorem Chip.setReg_hartTraps (c : Chip) (r : Reg) (v : Nat) : (c.setReg r v).hartTraps = c.hartTraps := rfl
@[simp] theorem Chip.setReg_replies (c : Chip) (r : Reg) (v : Nat) : (c.setReg r v).replies = c.replies := rfl
@[simp] theorem Chip.setReg_posted (c : Chip) (r : Reg) (v : Nat) : (c.setReg r v).posted = c.posted := rfl
@[simp] theorem Chip.setReg_err (c : Chip) (r : Reg) (v : Nat) : (c.setReg r v).err = c.err := rfl
@[simp] theorem Chip.setReg_safe (c : Chip) (r : Reg) (v : Nat) : (c.setReg r v).safe = c.safe := rfl
@[simp] theorem Chip.setReg_selfTest (c : Chip) (r : Reg) (v : Nat) : (c.setReg r v).selfTest = c.selfTest := rfl
@[simp] theorem Chip.setReg_budget (c : Chip) (r : Reg) (v : Nat) : (c.setReg r v).budget = c.budget := rfl
@[simp] theorem Chip.setReg_sluice (c : Chip) (r : Reg) (v : Nat) : (c.setReg r v).sluice = c.sluice := rfl
@[simp] theorem Chip.setReg_sent (c : Chip) (r : Reg) (v : Nat) : (c.setReg r v).sent = c.sent := rfl
@[simp] theorem Chip.setReg_twinId (c : Chip) (r : Reg) (v : Nat) : (c.setReg r v).twinId = c.twinId := rfl
@[simp] theorem Chip.setReg_flash (c : Chip) (r : Reg) (v : Nat) : (c.setReg r v).flash = c.flash := rfl
@[simp] theorem Chip.setReg_power (c : Chip) (r : Reg) (v : Nat) : (c.setReg r v).power = c.power := rfl
@[simp] theorem Chip.setReg_fw (c : Chip) (r : Reg) (v : Nat) : (c.setReg r v).fw = c.fw := rfl
@[simp] theorem Chip.setReg_link (c : Chip) (r : Reg) (v : Nat) : (c.setReg r v).link = c.link := rfl
@[simp] theorem Chip.setReg_domain (c : Chip) (r : Reg) (v : Nat) : (c.setReg r v).domain = c.domain := rfl
@[simp] theorem Chip.setReg_net (c : Chip) (r : Reg) (v : Nat) : (c.setReg r v).net = c.net := rfl
@[simp] theorem Chip.setReg_hartRd (c : Chip) (r : Reg) (v : Nat) : (c.setReg r v).hartRd = c.hartRd := rfl
@[simp] theorem Chip.setReg_hartTval (c : Chip) (r : Reg) (v : Nat) : (c.setReg r v).hartTval = c.hartTval := rfl
@[simp] theorem Chip.setReg_vehicleUp (c : Chip) (r : Reg) (v : Nat) : (c.setReg r v).vehicleUp = c.vehicleUp := rfl

/-! A field write changes nothing but regs. -/

@[simp] theorem Chip.setFld_mem (c : Chip) (r : Reg) (f : Fld) (v : Nat) : (c.setFld r f v).mem = c.mem := rfl
@[simp] theorem Chip.setFld_now (c : Chip) (r : Reg) (f : Fld) (v : Nat) : (c.setFld r f v).now = c.now := rfl
@[simp] theorem Chip.setFld_free (c : Chip) (r : Reg) (f : Fld) (v : Nat) : (c.setFld r f v).free = c.free := rfl
@[simp] theorem Chip.setFld_capacity (c : Chip) (r : Reg) (f : Fld) (v : Nat) : (c.setFld r f v).capacity = c.capacity := rfl
@[simp] theorem Chip.setFld_owners (c : Chip) (r : Reg) (f : Fld) (v : Nat) : (c.setFld r f v).owners = c.owners := rfl
@[simp] theorem Chip.setFld_badOwners (c : Chip) (r : Reg) (f : Fld) (v : Nat) : (c.setFld r f v).badOwners = c.badOwners := rfl
@[simp] theorem Chip.setFld_carveOut (c : Chip) (r : Reg) (f : Fld) (v : Nat) : (c.setFld r f v).carveOut = c.carveOut := rfl
@[simp] theorem Chip.setFld_validBlocks (c : Chip) (r : Reg) (f : Fld) (v : Nat) : (c.setFld r f v).validBlocks = c.validBlocks := rfl
@[simp] theorem Chip.setFld_validLines (c : Chip) (r : Reg) (f : Fld) (v : Nat) : (c.setFld r f v).validLines = c.validLines := rfl
@[simp] theorem Chip.setFld_badWords (c : Chip) (r : Reg) (f : Fld) (v : Nat) : (c.setFld r f v).badWords = c.badWords := rfl
@[simp] theorem Chip.setFld_badValid (c : Chip) (r : Reg) (f : Fld) (v : Nat) : (c.setFld r f v).badValid = c.badValid := rfl
@[simp] theorem Chip.setFld_rawBlocks (c : Chip) (r : Reg) (f : Fld) (v : Nat) : (c.setFld r f v).rawBlocks = c.rawBlocks := rfl
@[simp] theorem Chip.setFld_eccHeld (c : Chip) (r : Reg) (f : Fld) (v : Nat) : (c.setFld r f v).eccHeld = c.eccHeld := rfl
@[simp] theorem Chip.setFld_cleanLines (c : Chip) (r : Reg) (f : Fld) (v : Nat) : (c.setFld r f v).cleanLines = c.cleanLines := rfl
@[simp] theorem Chip.setFld_tiles (c : Chip) (r : Reg) (f : Fld) (v : Nat) : (c.setFld r f v).tiles = c.tiles := rfl
@[simp] theorem Chip.setFld_models (c : Chip) (r : Reg) (f : Fld) (v : Nat) : (c.setFld r f v).models = c.models := rfl
@[simp] theorem Chip.setFld_engines (c : Chip) (r : Reg) (f : Fld) (v : Nat) : (c.setFld r f v).engines = c.engines := rfl
@[simp] theorem Chip.setFld_jobs (c : Chip) (r : Reg) (f : Fld) (v : Nat) : (c.setFld r f v).jobs = c.jobs := rfl
@[simp] theorem Chip.setFld_pendingRels (c : Chip) (r : Reg) (f : Fld) (v : Nat) : (c.setFld r f v).pendingRels = c.pendingRels := rfl
@[simp] theorem Chip.setFld_jobsPast (c : Chip) (r : Reg) (f : Fld) (v : Nat) : (c.setFld r f v).jobsPast = c.jobsPast := rfl
@[simp] theorem Chip.setFld_saves (c : Chip) (r : Reg) (f : Fld) (v : Nat) : (c.setFld r f v).saves = c.saves := rfl
@[simp] theorem Chip.setFld_faulted (c : Chip) (r : Reg) (f : Fld) (v : Nat) : (c.setFld r f v).faulted = c.faulted := rfl
@[simp] theorem Chip.setFld_weir (c : Chip) (r : Reg) (f : Fld) (v : Nat) : (c.setFld r f v).weir = c.weir := rfl
@[simp] theorem Chip.setFld_cfl (c : Chip) (r : Reg) (f : Fld) (v : Nat) : (c.setFld r f v).cfl = c.cfl := rfl
@[simp] theorem Chip.setFld_ale (c : Chip) (r : Reg) (f : Fld) (v : Nat) : (c.setFld r f v).ale = c.ale := rfl
@[simp] theorem Chip.setFld_gfx (c : Chip) (r : Reg) (f : Fld) (v : Nat) : (c.setFld r f v).gfx = c.gfx := rfl
@[simp] theorem Chip.setFld_pipes (c : Chip) (r : Reg) (f : Fld) (v : Nat) : (c.setFld r f v).pipes = c.pipes := rfl
@[simp] theorem Chip.setFld_fills (c : Chip) (r : Reg) (f : Fld) (v : Nat) : (c.setFld r f v).fills = c.fills := rfl
@[simp] theorem Chip.setFld_slices (c : Chip) (r : Reg) (f : Fld) (v : Nat) : (c.setFld r f v).slices = c.slices := rfl
@[simp] theorem Chip.setFld_drains (c : Chip) (r : Reg) (f : Fld) (v : Nat) : (c.setFld r f v).drains = c.drains := rfl
@[simp] theorem Chip.setFld_destroys (c : Chip) (r : Reg) (f : Fld) (v : Nat) : (c.setFld r f v).destroys = c.destroys := rfl
@[simp] theorem Chip.setFld_dirtyLogs (c : Chip) (r : Reg) (f : Fld) (v : Nat) : (c.setFld r f v).dirtyLogs = c.dirtyLogs := rfl
@[simp] theorem Chip.setFld_sliceTags (c : Chip) (r : Reg) (f : Fld) (v : Nat) : (c.setFld r f v).sliceTags = c.sliceTags := rfl
@[simp] theorem Chip.setFld_rings (c : Chip) (r : Reg) (f : Fld) (v : Nat) : (c.setFld r f v).rings = c.rings := rfl
@[simp] theorem Chip.setFld_packets (c : Chip) (r : Reg) (f : Fld) (v : Nat) : (c.setFld r f v).packets = c.packets := rfl
@[simp] theorem Chip.setFld_nextPacket (c : Chip) (r : Reg) (f : Fld) (v : Nat) : (c.setFld r f v).nextPacket = c.nextPacket := rfl
@[simp] theorem Chip.setFld_starts (c : Chip) (r : Reg) (f : Fld) (v : Nat) : (c.setFld r f v).starts = c.starts := rfl
@[simp] theorem Chip.setFld_lastRing (c : Chip) (r : Reg) (f : Fld) (v : Nat) : (c.setFld r f v).lastRing = c.lastRing := rfl
@[simp] theorem Chip.setFld_staged (c : Chip) (r : Reg) (f : Fld) (v : Nat) : (c.setFld r f v).staged = c.staged := rfl
@[simp] theorem Chip.setFld_syncs (c : Chip) (r : Reg) (f : Fld) (v : Nat) : (c.setFld r f v).syncs = c.syncs := rfl
@[simp] theorem Chip.setFld_unitWaits (c : Chip) (r : Reg) (f : Fld) (v : Nat) : (c.setFld r f v).unitWaits = c.unitWaits := rfl
@[simp] theorem Chip.setFld_dramQueue (c : Chip) (r : Reg) (f : Fld) (v : Nat) : (c.setFld r f v).dramQueue = c.dramQueue := rfl
@[simp] theorem Chip.setFld_linkQ (c : Chip) (r : Reg) (f : Fld) (v : Nat) : (c.setFld r f v).linkQ = c.linkQ := rfl
@[simp] theorem Chip.setFld_accepted (c : Chip) (r : Reg) (f : Fld) (v : Nat) : (c.setFld r f v).accepted = c.accepted := rfl
@[simp] theorem Chip.setFld_nextReq (c : Chip) (r : Reg) (f : Fld) (v : Nat) : (c.setFld r f v).nextReq = c.nextReq := rfl
@[simp] theorem Chip.setFld_millrace (c : Chip) (r : Reg) (f : Fld) (v : Nat) : (c.setFld r f v).millrace = c.millrace := rfl
@[simp] theorem Chip.setFld_arbiters (c : Chip) (r : Reg) (f : Fld) (v : Nat) : (c.setFld r f v).arbiters = c.arbiters := rfl
@[simp] theorem Chip.setFld_predictors (c : Chip) (r : Reg) (f : Fld) (v : Nat) : (c.setFld r f v).predictors = c.predictors := rfl
@[simp] theorem Chip.setFld_returnStacks (c : Chip) (r : Reg) (f : Fld) (v : Nat) : (c.setFld r f v).returnStacks = c.returnStacks := rfl
@[simp] theorem Chip.setFld_hartTraps (c : Chip) (r : Reg) (f : Fld) (v : Nat) : (c.setFld r f v).hartTraps = c.hartTraps := rfl
@[simp] theorem Chip.setFld_replies (c : Chip) (r : Reg) (f : Fld) (v : Nat) : (c.setFld r f v).replies = c.replies := rfl
@[simp] theorem Chip.setFld_posted (c : Chip) (r : Reg) (f : Fld) (v : Nat) : (c.setFld r f v).posted = c.posted := rfl
@[simp] theorem Chip.setFld_err (c : Chip) (r : Reg) (f : Fld) (v : Nat) : (c.setFld r f v).err = c.err := rfl
@[simp] theorem Chip.setFld_safe (c : Chip) (r : Reg) (f : Fld) (v : Nat) : (c.setFld r f v).safe = c.safe := rfl
@[simp] theorem Chip.setFld_selfTest (c : Chip) (r : Reg) (f : Fld) (v : Nat) : (c.setFld r f v).selfTest = c.selfTest := rfl
@[simp] theorem Chip.setFld_budget (c : Chip) (r : Reg) (f : Fld) (v : Nat) : (c.setFld r f v).budget = c.budget := rfl
@[simp] theorem Chip.setFld_sluice (c : Chip) (r : Reg) (f : Fld) (v : Nat) : (c.setFld r f v).sluice = c.sluice := rfl
@[simp] theorem Chip.setFld_sent (c : Chip) (r : Reg) (f : Fld) (v : Nat) : (c.setFld r f v).sent = c.sent := rfl
@[simp] theorem Chip.setFld_twinId (c : Chip) (r : Reg) (f : Fld) (v : Nat) : (c.setFld r f v).twinId = c.twinId := rfl
@[simp] theorem Chip.setFld_flash (c : Chip) (r : Reg) (f : Fld) (v : Nat) : (c.setFld r f v).flash = c.flash := rfl
@[simp] theorem Chip.setFld_power (c : Chip) (r : Reg) (f : Fld) (v : Nat) : (c.setFld r f v).power = c.power := rfl
@[simp] theorem Chip.setFld_fw (c : Chip) (r : Reg) (f : Fld) (v : Nat) : (c.setFld r f v).fw = c.fw := rfl
@[simp] theorem Chip.setFld_link (c : Chip) (r : Reg) (f : Fld) (v : Nat) : (c.setFld r f v).link = c.link := rfl
@[simp] theorem Chip.setFld_domain (c : Chip) (r : Reg) (f : Fld) (v : Nat) : (c.setFld r f v).domain = c.domain := rfl
@[simp] theorem Chip.setFld_net (c : Chip) (r : Reg) (f : Fld) (v : Nat) : (c.setFld r f v).net = c.net := rfl
@[simp] theorem Chip.setFld_hartRd (c : Chip) (r : Reg) (f : Fld) (v : Nat) : (c.setFld r f v).hartRd = c.hartRd := rfl
@[simp] theorem Chip.setFld_hartTval (c : Chip) (r : Reg) (f : Fld) (v : Nat) : (c.setFld r f v).hartTval = c.hartTval := rfl
@[simp] theorem Chip.setFld_vehicleUp (c : Chip) (r : Reg) (f : Fld) (v : Nat) : (c.setFld r f v).vehicleUp = c.vehicleUp := rfl

/-! A count changes nothing but regs. -/

@[simp] theorem Chip.count_mem (c : Chip) (r : Reg) (f : Fld) (n : Nat) : (c.count r f n).mem = c.mem := rfl
@[simp] theorem Chip.count_now (c : Chip) (r : Reg) (f : Fld) (n : Nat) : (c.count r f n).now = c.now := rfl
@[simp] theorem Chip.count_free (c : Chip) (r : Reg) (f : Fld) (n : Nat) : (c.count r f n).free = c.free := rfl
@[simp] theorem Chip.count_capacity (c : Chip) (r : Reg) (f : Fld) (n : Nat) : (c.count r f n).capacity = c.capacity := rfl
@[simp] theorem Chip.count_owners (c : Chip) (r : Reg) (f : Fld) (n : Nat) : (c.count r f n).owners = c.owners := rfl
@[simp] theorem Chip.count_badOwners (c : Chip) (r : Reg) (f : Fld) (n : Nat) : (c.count r f n).badOwners = c.badOwners := rfl
@[simp] theorem Chip.count_carveOut (c : Chip) (r : Reg) (f : Fld) (n : Nat) : (c.count r f n).carveOut = c.carveOut := rfl
@[simp] theorem Chip.count_validBlocks (c : Chip) (r : Reg) (f : Fld) (n : Nat) : (c.count r f n).validBlocks = c.validBlocks := rfl
@[simp] theorem Chip.count_validLines (c : Chip) (r : Reg) (f : Fld) (n : Nat) : (c.count r f n).validLines = c.validLines := rfl
@[simp] theorem Chip.count_badWords (c : Chip) (r : Reg) (f : Fld) (n : Nat) : (c.count r f n).badWords = c.badWords := rfl
@[simp] theorem Chip.count_badValid (c : Chip) (r : Reg) (f : Fld) (n : Nat) : (c.count r f n).badValid = c.badValid := rfl
@[simp] theorem Chip.count_rawBlocks (c : Chip) (r : Reg) (f : Fld) (n : Nat) : (c.count r f n).rawBlocks = c.rawBlocks := rfl
@[simp] theorem Chip.count_eccHeld (c : Chip) (r : Reg) (f : Fld) (n : Nat) : (c.count r f n).eccHeld = c.eccHeld := rfl
@[simp] theorem Chip.count_cleanLines (c : Chip) (r : Reg) (f : Fld) (n : Nat) : (c.count r f n).cleanLines = c.cleanLines := rfl
@[simp] theorem Chip.count_tiles (c : Chip) (r : Reg) (f : Fld) (n : Nat) : (c.count r f n).tiles = c.tiles := rfl
@[simp] theorem Chip.count_models (c : Chip) (r : Reg) (f : Fld) (n : Nat) : (c.count r f n).models = c.models := rfl
@[simp] theorem Chip.count_engines (c : Chip) (r : Reg) (f : Fld) (n : Nat) : (c.count r f n).engines = c.engines := rfl
@[simp] theorem Chip.count_jobs (c : Chip) (r : Reg) (f : Fld) (n : Nat) : (c.count r f n).jobs = c.jobs := rfl
@[simp] theorem Chip.count_pendingRels (c : Chip) (r : Reg) (f : Fld) (n : Nat) : (c.count r f n).pendingRels = c.pendingRels := rfl
@[simp] theorem Chip.count_jobsPast (c : Chip) (r : Reg) (f : Fld) (n : Nat) : (c.count r f n).jobsPast = c.jobsPast := rfl
@[simp] theorem Chip.count_saves (c : Chip) (r : Reg) (f : Fld) (n : Nat) : (c.count r f n).saves = c.saves := rfl
@[simp] theorem Chip.count_faulted (c : Chip) (r : Reg) (f : Fld) (n : Nat) : (c.count r f n).faulted = c.faulted := rfl
@[simp] theorem Chip.count_weir (c : Chip) (r : Reg) (f : Fld) (n : Nat) : (c.count r f n).weir = c.weir := rfl
@[simp] theorem Chip.count_cfl (c : Chip) (r : Reg) (f : Fld) (n : Nat) : (c.count r f n).cfl = c.cfl := rfl
@[simp] theorem Chip.count_ale (c : Chip) (r : Reg) (f : Fld) (n : Nat) : (c.count r f n).ale = c.ale := rfl
@[simp] theorem Chip.count_gfx (c : Chip) (r : Reg) (f : Fld) (n : Nat) : (c.count r f n).gfx = c.gfx := rfl
@[simp] theorem Chip.count_pipes (c : Chip) (r : Reg) (f : Fld) (n : Nat) : (c.count r f n).pipes = c.pipes := rfl
@[simp] theorem Chip.count_fills (c : Chip) (r : Reg) (f : Fld) (n : Nat) : (c.count r f n).fills = c.fills := rfl
@[simp] theorem Chip.count_slices (c : Chip) (r : Reg) (f : Fld) (n : Nat) : (c.count r f n).slices = c.slices := rfl
@[simp] theorem Chip.count_drains (c : Chip) (r : Reg) (f : Fld) (n : Nat) : (c.count r f n).drains = c.drains := rfl
@[simp] theorem Chip.count_destroys (c : Chip) (r : Reg) (f : Fld) (n : Nat) : (c.count r f n).destroys = c.destroys := rfl
@[simp] theorem Chip.count_dirtyLogs (c : Chip) (r : Reg) (f : Fld) (n : Nat) : (c.count r f n).dirtyLogs = c.dirtyLogs := rfl
@[simp] theorem Chip.count_sliceTags (c : Chip) (r : Reg) (f : Fld) (n : Nat) : (c.count r f n).sliceTags = c.sliceTags := rfl
@[simp] theorem Chip.count_rings (c : Chip) (r : Reg) (f : Fld) (n : Nat) : (c.count r f n).rings = c.rings := rfl
@[simp] theorem Chip.count_packets (c : Chip) (r : Reg) (f : Fld) (n : Nat) : (c.count r f n).packets = c.packets := rfl
@[simp] theorem Chip.count_nextPacket (c : Chip) (r : Reg) (f : Fld) (n : Nat) : (c.count r f n).nextPacket = c.nextPacket := rfl
@[simp] theorem Chip.count_starts (c : Chip) (r : Reg) (f : Fld) (n : Nat) : (c.count r f n).starts = c.starts := rfl
@[simp] theorem Chip.count_lastRing (c : Chip) (r : Reg) (f : Fld) (n : Nat) : (c.count r f n).lastRing = c.lastRing := rfl
@[simp] theorem Chip.count_staged (c : Chip) (r : Reg) (f : Fld) (n : Nat) : (c.count r f n).staged = c.staged := rfl
@[simp] theorem Chip.count_syncs (c : Chip) (r : Reg) (f : Fld) (n : Nat) : (c.count r f n).syncs = c.syncs := rfl
@[simp] theorem Chip.count_unitWaits (c : Chip) (r : Reg) (f : Fld) (n : Nat) : (c.count r f n).unitWaits = c.unitWaits := rfl
@[simp] theorem Chip.count_dramQueue (c : Chip) (r : Reg) (f : Fld) (n : Nat) : (c.count r f n).dramQueue = c.dramQueue := rfl
@[simp] theorem Chip.count_linkQ (c : Chip) (r : Reg) (f : Fld) (n : Nat) : (c.count r f n).linkQ = c.linkQ := rfl
@[simp] theorem Chip.count_accepted (c : Chip) (r : Reg) (f : Fld) (n : Nat) : (c.count r f n).accepted = c.accepted := rfl
@[simp] theorem Chip.count_nextReq (c : Chip) (r : Reg) (f : Fld) (n : Nat) : (c.count r f n).nextReq = c.nextReq := rfl
@[simp] theorem Chip.count_millrace (c : Chip) (r : Reg) (f : Fld) (n : Nat) : (c.count r f n).millrace = c.millrace := rfl
@[simp] theorem Chip.count_arbiters (c : Chip) (r : Reg) (f : Fld) (n : Nat) : (c.count r f n).arbiters = c.arbiters := rfl
@[simp] theorem Chip.count_predictors (c : Chip) (r : Reg) (f : Fld) (n : Nat) : (c.count r f n).predictors = c.predictors := rfl
@[simp] theorem Chip.count_returnStacks (c : Chip) (r : Reg) (f : Fld) (n : Nat) : (c.count r f n).returnStacks = c.returnStacks := rfl
@[simp] theorem Chip.count_hartTraps (c : Chip) (r : Reg) (f : Fld) (n : Nat) : (c.count r f n).hartTraps = c.hartTraps := rfl
@[simp] theorem Chip.count_replies (c : Chip) (r : Reg) (f : Fld) (n : Nat) : (c.count r f n).replies = c.replies := rfl
@[simp] theorem Chip.count_posted (c : Chip) (r : Reg) (f : Fld) (n : Nat) : (c.count r f n).posted = c.posted := rfl
@[simp] theorem Chip.count_err (c : Chip) (r : Reg) (f : Fld) (n : Nat) : (c.count r f n).err = c.err := rfl
@[simp] theorem Chip.count_safe (c : Chip) (r : Reg) (f : Fld) (n : Nat) : (c.count r f n).safe = c.safe := rfl
@[simp] theorem Chip.count_selfTest (c : Chip) (r : Reg) (f : Fld) (n : Nat) : (c.count r f n).selfTest = c.selfTest := rfl
@[simp] theorem Chip.count_budget (c : Chip) (r : Reg) (f : Fld) (n : Nat) : (c.count r f n).budget = c.budget := rfl
@[simp] theorem Chip.count_sluice (c : Chip) (r : Reg) (f : Fld) (n : Nat) : (c.count r f n).sluice = c.sluice := rfl
@[simp] theorem Chip.count_sent (c : Chip) (r : Reg) (f : Fld) (n : Nat) : (c.count r f n).sent = c.sent := rfl
@[simp] theorem Chip.count_twinId (c : Chip) (r : Reg) (f : Fld) (n : Nat) : (c.count r f n).twinId = c.twinId := rfl
@[simp] theorem Chip.count_flash (c : Chip) (r : Reg) (f : Fld) (n : Nat) : (c.count r f n).flash = c.flash := rfl
@[simp] theorem Chip.count_power (c : Chip) (r : Reg) (f : Fld) (n : Nat) : (c.count r f n).power = c.power := rfl
@[simp] theorem Chip.count_fw (c : Chip) (r : Reg) (f : Fld) (n : Nat) : (c.count r f n).fw = c.fw := rfl
@[simp] theorem Chip.count_link (c : Chip) (r : Reg) (f : Fld) (n : Nat) : (c.count r f n).link = c.link := rfl
@[simp] theorem Chip.count_domain (c : Chip) (r : Reg) (f : Fld) (n : Nat) : (c.count r f n).domain = c.domain := rfl
@[simp] theorem Chip.count_net (c : Chip) (r : Reg) (f : Fld) (n : Nat) : (c.count r f n).net = c.net := rfl
@[simp] theorem Chip.count_hartRd (c : Chip) (r : Reg) (f : Fld) (n : Nat) : (c.count r f n).hartRd = c.hartRd := rfl
@[simp] theorem Chip.count_hartTval (c : Chip) (r : Reg) (f : Fld) (n : Nat) : (c.count r f n).hartTval = c.hartTval := rfl
@[simp] theorem Chip.count_vehicleUp (c : Chip) (r : Reg) (f : Fld) (n : Nat) : (c.count r f n).vehicleUp = c.vehicleUp := rfl

/-! An index step changes nothing but regs. -/

@[simp] theorem Chip.next_mem (c : Chip) (r : Reg) (f : Fld) : (c.next r f).mem = c.mem := rfl
@[simp] theorem Chip.next_now (c : Chip) (r : Reg) (f : Fld) : (c.next r f).now = c.now := rfl
@[simp] theorem Chip.next_free (c : Chip) (r : Reg) (f : Fld) : (c.next r f).free = c.free := rfl
@[simp] theorem Chip.next_capacity (c : Chip) (r : Reg) (f : Fld) : (c.next r f).capacity = c.capacity := rfl
@[simp] theorem Chip.next_owners (c : Chip) (r : Reg) (f : Fld) : (c.next r f).owners = c.owners := rfl
@[simp] theorem Chip.next_badOwners (c : Chip) (r : Reg) (f : Fld) : (c.next r f).badOwners = c.badOwners := rfl
@[simp] theorem Chip.next_carveOut (c : Chip) (r : Reg) (f : Fld) : (c.next r f).carveOut = c.carveOut := rfl
@[simp] theorem Chip.next_validBlocks (c : Chip) (r : Reg) (f : Fld) : (c.next r f).validBlocks = c.validBlocks := rfl
@[simp] theorem Chip.next_validLines (c : Chip) (r : Reg) (f : Fld) : (c.next r f).validLines = c.validLines := rfl
@[simp] theorem Chip.next_badWords (c : Chip) (r : Reg) (f : Fld) : (c.next r f).badWords = c.badWords := rfl
@[simp] theorem Chip.next_badValid (c : Chip) (r : Reg) (f : Fld) : (c.next r f).badValid = c.badValid := rfl
@[simp] theorem Chip.next_rawBlocks (c : Chip) (r : Reg) (f : Fld) : (c.next r f).rawBlocks = c.rawBlocks := rfl
@[simp] theorem Chip.next_eccHeld (c : Chip) (r : Reg) (f : Fld) : (c.next r f).eccHeld = c.eccHeld := rfl
@[simp] theorem Chip.next_cleanLines (c : Chip) (r : Reg) (f : Fld) : (c.next r f).cleanLines = c.cleanLines := rfl
@[simp] theorem Chip.next_tiles (c : Chip) (r : Reg) (f : Fld) : (c.next r f).tiles = c.tiles := rfl
@[simp] theorem Chip.next_models (c : Chip) (r : Reg) (f : Fld) : (c.next r f).models = c.models := rfl
@[simp] theorem Chip.next_engines (c : Chip) (r : Reg) (f : Fld) : (c.next r f).engines = c.engines := rfl
@[simp] theorem Chip.next_jobs (c : Chip) (r : Reg) (f : Fld) : (c.next r f).jobs = c.jobs := rfl
@[simp] theorem Chip.next_pendingRels (c : Chip) (r : Reg) (f : Fld) : (c.next r f).pendingRels = c.pendingRels := rfl
@[simp] theorem Chip.next_jobsPast (c : Chip) (r : Reg) (f : Fld) : (c.next r f).jobsPast = c.jobsPast := rfl
@[simp] theorem Chip.next_saves (c : Chip) (r : Reg) (f : Fld) : (c.next r f).saves = c.saves := rfl
@[simp] theorem Chip.next_faulted (c : Chip) (r : Reg) (f : Fld) : (c.next r f).faulted = c.faulted := rfl
@[simp] theorem Chip.next_weir (c : Chip) (r : Reg) (f : Fld) : (c.next r f).weir = c.weir := rfl
@[simp] theorem Chip.next_cfl (c : Chip) (r : Reg) (f : Fld) : (c.next r f).cfl = c.cfl := rfl
@[simp] theorem Chip.next_ale (c : Chip) (r : Reg) (f : Fld) : (c.next r f).ale = c.ale := rfl
@[simp] theorem Chip.next_gfx (c : Chip) (r : Reg) (f : Fld) : (c.next r f).gfx = c.gfx := rfl
@[simp] theorem Chip.next_pipes (c : Chip) (r : Reg) (f : Fld) : (c.next r f).pipes = c.pipes := rfl
@[simp] theorem Chip.next_fills (c : Chip) (r : Reg) (f : Fld) : (c.next r f).fills = c.fills := rfl
@[simp] theorem Chip.next_slices (c : Chip) (r : Reg) (f : Fld) : (c.next r f).slices = c.slices := rfl
@[simp] theorem Chip.next_drains (c : Chip) (r : Reg) (f : Fld) : (c.next r f).drains = c.drains := rfl
@[simp] theorem Chip.next_destroys (c : Chip) (r : Reg) (f : Fld) : (c.next r f).destroys = c.destroys := rfl
@[simp] theorem Chip.next_dirtyLogs (c : Chip) (r : Reg) (f : Fld) : (c.next r f).dirtyLogs = c.dirtyLogs := rfl
@[simp] theorem Chip.next_sliceTags (c : Chip) (r : Reg) (f : Fld) : (c.next r f).sliceTags = c.sliceTags := rfl
@[simp] theorem Chip.next_rings (c : Chip) (r : Reg) (f : Fld) : (c.next r f).rings = c.rings := rfl
@[simp] theorem Chip.next_packets (c : Chip) (r : Reg) (f : Fld) : (c.next r f).packets = c.packets := rfl
@[simp] theorem Chip.next_nextPacket (c : Chip) (r : Reg) (f : Fld) : (c.next r f).nextPacket = c.nextPacket := rfl
@[simp] theorem Chip.next_starts (c : Chip) (r : Reg) (f : Fld) : (c.next r f).starts = c.starts := rfl
@[simp] theorem Chip.next_lastRing (c : Chip) (r : Reg) (f : Fld) : (c.next r f).lastRing = c.lastRing := rfl
@[simp] theorem Chip.next_staged (c : Chip) (r : Reg) (f : Fld) : (c.next r f).staged = c.staged := rfl
@[simp] theorem Chip.next_syncs (c : Chip) (r : Reg) (f : Fld) : (c.next r f).syncs = c.syncs := rfl
@[simp] theorem Chip.next_unitWaits (c : Chip) (r : Reg) (f : Fld) : (c.next r f).unitWaits = c.unitWaits := rfl
@[simp] theorem Chip.next_dramQueue (c : Chip) (r : Reg) (f : Fld) : (c.next r f).dramQueue = c.dramQueue := rfl
@[simp] theorem Chip.next_linkQ (c : Chip) (r : Reg) (f : Fld) : (c.next r f).linkQ = c.linkQ := rfl
@[simp] theorem Chip.next_accepted (c : Chip) (r : Reg) (f : Fld) : (c.next r f).accepted = c.accepted := rfl
@[simp] theorem Chip.next_nextReq (c : Chip) (r : Reg) (f : Fld) : (c.next r f).nextReq = c.nextReq := rfl
@[simp] theorem Chip.next_millrace (c : Chip) (r : Reg) (f : Fld) : (c.next r f).millrace = c.millrace := rfl
@[simp] theorem Chip.next_arbiters (c : Chip) (r : Reg) (f : Fld) : (c.next r f).arbiters = c.arbiters := rfl
@[simp] theorem Chip.next_predictors (c : Chip) (r : Reg) (f : Fld) : (c.next r f).predictors = c.predictors := rfl
@[simp] theorem Chip.next_returnStacks (c : Chip) (r : Reg) (f : Fld) : (c.next r f).returnStacks = c.returnStacks := rfl
@[simp] theorem Chip.next_hartTraps (c : Chip) (r : Reg) (f : Fld) : (c.next r f).hartTraps = c.hartTraps := rfl
@[simp] theorem Chip.next_replies (c : Chip) (r : Reg) (f : Fld) : (c.next r f).replies = c.replies := rfl
@[simp] theorem Chip.next_posted (c : Chip) (r : Reg) (f : Fld) : (c.next r f).posted = c.posted := rfl
@[simp] theorem Chip.next_err (c : Chip) (r : Reg) (f : Fld) : (c.next r f).err = c.err := rfl
@[simp] theorem Chip.next_safe (c : Chip) (r : Reg) (f : Fld) : (c.next r f).safe = c.safe := rfl
@[simp] theorem Chip.next_selfTest (c : Chip) (r : Reg) (f : Fld) : (c.next r f).selfTest = c.selfTest := rfl
@[simp] theorem Chip.next_budget (c : Chip) (r : Reg) (f : Fld) : (c.next r f).budget = c.budget := rfl
@[simp] theorem Chip.next_sluice (c : Chip) (r : Reg) (f : Fld) : (c.next r f).sluice = c.sluice := rfl
@[simp] theorem Chip.next_sent (c : Chip) (r : Reg) (f : Fld) : (c.next r f).sent = c.sent := rfl
@[simp] theorem Chip.next_twinId (c : Chip) (r : Reg) (f : Fld) : (c.next r f).twinId = c.twinId := rfl
@[simp] theorem Chip.next_flash (c : Chip) (r : Reg) (f : Fld) : (c.next r f).flash = c.flash := rfl
@[simp] theorem Chip.next_power (c : Chip) (r : Reg) (f : Fld) : (c.next r f).power = c.power := rfl
@[simp] theorem Chip.next_fw (c : Chip) (r : Reg) (f : Fld) : (c.next r f).fw = c.fw := rfl
@[simp] theorem Chip.next_link (c : Chip) (r : Reg) (f : Fld) : (c.next r f).link = c.link := rfl
@[simp] theorem Chip.next_domain (c : Chip) (r : Reg) (f : Fld) : (c.next r f).domain = c.domain := rfl
@[simp] theorem Chip.next_net (c : Chip) (r : Reg) (f : Fld) : (c.next r f).net = c.net := rfl
@[simp] theorem Chip.next_hartRd (c : Chip) (r : Reg) (f : Fld) : (c.next r f).hartRd = c.hartRd := rfl
@[simp] theorem Chip.next_hartTval (c : Chip) (r : Reg) (f : Fld) : (c.next r f).hartTval = c.hartTval := rfl
@[simp] theorem Chip.next_vehicleUp (c : Chip) (r : Reg) (f : Fld) : (c.next r f).vehicleUp = c.vehicleUp := rfl

/-! A packet update changes nothing but packets. -/

@[simp] theorem Chip.updPacket_regs (c : Chip) (id : Nat) (f : Packet → Packet) : (c.updPacket id f).regs = c.regs := rfl
@[simp] theorem Chip.updPacket_mem (c : Chip) (id : Nat) (f : Packet → Packet) : (c.updPacket id f).mem = c.mem := rfl
@[simp] theorem Chip.updPacket_now (c : Chip) (id : Nat) (f : Packet → Packet) : (c.updPacket id f).now = c.now := rfl
@[simp] theorem Chip.updPacket_free (c : Chip) (id : Nat) (f : Packet → Packet) : (c.updPacket id f).free = c.free := rfl
@[simp] theorem Chip.updPacket_capacity (c : Chip) (id : Nat) (f : Packet → Packet) : (c.updPacket id f).capacity = c.capacity := rfl
@[simp] theorem Chip.updPacket_owners (c : Chip) (id : Nat) (f : Packet → Packet) : (c.updPacket id f).owners = c.owners := rfl
@[simp] theorem Chip.updPacket_badOwners (c : Chip) (id : Nat) (f : Packet → Packet) : (c.updPacket id f).badOwners = c.badOwners := rfl
@[simp] theorem Chip.updPacket_carveOut (c : Chip) (id : Nat) (f : Packet → Packet) : (c.updPacket id f).carveOut = c.carveOut := rfl
@[simp] theorem Chip.updPacket_validBlocks (c : Chip) (id : Nat) (f : Packet → Packet) : (c.updPacket id f).validBlocks = c.validBlocks := rfl
@[simp] theorem Chip.updPacket_validLines (c : Chip) (id : Nat) (f : Packet → Packet) : (c.updPacket id f).validLines = c.validLines := rfl
@[simp] theorem Chip.updPacket_badWords (c : Chip) (id : Nat) (f : Packet → Packet) : (c.updPacket id f).badWords = c.badWords := rfl
@[simp] theorem Chip.updPacket_badValid (c : Chip) (id : Nat) (f : Packet → Packet) : (c.updPacket id f).badValid = c.badValid := rfl
@[simp] theorem Chip.updPacket_rawBlocks (c : Chip) (id : Nat) (f : Packet → Packet) : (c.updPacket id f).rawBlocks = c.rawBlocks := rfl
@[simp] theorem Chip.updPacket_eccHeld (c : Chip) (id : Nat) (f : Packet → Packet) : (c.updPacket id f).eccHeld = c.eccHeld := rfl
@[simp] theorem Chip.updPacket_cleanLines (c : Chip) (id : Nat) (f : Packet → Packet) : (c.updPacket id f).cleanLines = c.cleanLines := rfl
@[simp] theorem Chip.updPacket_tiles (c : Chip) (id : Nat) (f : Packet → Packet) : (c.updPacket id f).tiles = c.tiles := rfl
@[simp] theorem Chip.updPacket_models (c : Chip) (id : Nat) (f : Packet → Packet) : (c.updPacket id f).models = c.models := rfl
@[simp] theorem Chip.updPacket_engines (c : Chip) (id : Nat) (f : Packet → Packet) : (c.updPacket id f).engines = c.engines := rfl
@[simp] theorem Chip.updPacket_jobs (c : Chip) (id : Nat) (f : Packet → Packet) : (c.updPacket id f).jobs = c.jobs := rfl
@[simp] theorem Chip.updPacket_pendingRels (c : Chip) (id : Nat) (f : Packet → Packet) : (c.updPacket id f).pendingRels = c.pendingRels := rfl
@[simp] theorem Chip.updPacket_jobsPast (c : Chip) (id : Nat) (f : Packet → Packet) : (c.updPacket id f).jobsPast = c.jobsPast := rfl
@[simp] theorem Chip.updPacket_saves (c : Chip) (id : Nat) (f : Packet → Packet) : (c.updPacket id f).saves = c.saves := rfl
@[simp] theorem Chip.updPacket_faulted (c : Chip) (id : Nat) (f : Packet → Packet) : (c.updPacket id f).faulted = c.faulted := rfl
@[simp] theorem Chip.updPacket_weir (c : Chip) (id : Nat) (f : Packet → Packet) : (c.updPacket id f).weir = c.weir := rfl
@[simp] theorem Chip.updPacket_cfl (c : Chip) (id : Nat) (f : Packet → Packet) : (c.updPacket id f).cfl = c.cfl := rfl
@[simp] theorem Chip.updPacket_ale (c : Chip) (id : Nat) (f : Packet → Packet) : (c.updPacket id f).ale = c.ale := rfl
@[simp] theorem Chip.updPacket_gfx (c : Chip) (id : Nat) (f : Packet → Packet) : (c.updPacket id f).gfx = c.gfx := rfl
@[simp] theorem Chip.updPacket_pipes (c : Chip) (id : Nat) (f : Packet → Packet) : (c.updPacket id f).pipes = c.pipes := rfl
@[simp] theorem Chip.updPacket_fills (c : Chip) (id : Nat) (f : Packet → Packet) : (c.updPacket id f).fills = c.fills := rfl
@[simp] theorem Chip.updPacket_slices (c : Chip) (id : Nat) (f : Packet → Packet) : (c.updPacket id f).slices = c.slices := rfl
@[simp] theorem Chip.updPacket_drains (c : Chip) (id : Nat) (f : Packet → Packet) : (c.updPacket id f).drains = c.drains := rfl
@[simp] theorem Chip.updPacket_destroys (c : Chip) (id : Nat) (f : Packet → Packet) : (c.updPacket id f).destroys = c.destroys := rfl
@[simp] theorem Chip.updPacket_dirtyLogs (c : Chip) (id : Nat) (f : Packet → Packet) : (c.updPacket id f).dirtyLogs = c.dirtyLogs := rfl
@[simp] theorem Chip.updPacket_sliceTags (c : Chip) (id : Nat) (f : Packet → Packet) : (c.updPacket id f).sliceTags = c.sliceTags := rfl
@[simp] theorem Chip.updPacket_rings (c : Chip) (id : Nat) (f : Packet → Packet) : (c.updPacket id f).rings = c.rings := rfl
@[simp] theorem Chip.updPacket_nextPacket (c : Chip) (id : Nat) (f : Packet → Packet) : (c.updPacket id f).nextPacket = c.nextPacket := rfl
@[simp] theorem Chip.updPacket_starts (c : Chip) (id : Nat) (f : Packet → Packet) : (c.updPacket id f).starts = c.starts := rfl
@[simp] theorem Chip.updPacket_lastRing (c : Chip) (id : Nat) (f : Packet → Packet) : (c.updPacket id f).lastRing = c.lastRing := rfl
@[simp] theorem Chip.updPacket_staged (c : Chip) (id : Nat) (f : Packet → Packet) : (c.updPacket id f).staged = c.staged := rfl
@[simp] theorem Chip.updPacket_syncs (c : Chip) (id : Nat) (f : Packet → Packet) : (c.updPacket id f).syncs = c.syncs := rfl
@[simp] theorem Chip.updPacket_unitWaits (c : Chip) (id : Nat) (f : Packet → Packet) : (c.updPacket id f).unitWaits = c.unitWaits := rfl
@[simp] theorem Chip.updPacket_dramQueue (c : Chip) (id : Nat) (f : Packet → Packet) : (c.updPacket id f).dramQueue = c.dramQueue := rfl
@[simp] theorem Chip.updPacket_linkQ (c : Chip) (id : Nat) (f : Packet → Packet) : (c.updPacket id f).linkQ = c.linkQ := rfl
@[simp] theorem Chip.updPacket_accepted (c : Chip) (id : Nat) (f : Packet → Packet) : (c.updPacket id f).accepted = c.accepted := rfl
@[simp] theorem Chip.updPacket_nextReq (c : Chip) (id : Nat) (f : Packet → Packet) : (c.updPacket id f).nextReq = c.nextReq := rfl
@[simp] theorem Chip.updPacket_millrace (c : Chip) (id : Nat) (f : Packet → Packet) : (c.updPacket id f).millrace = c.millrace := rfl
@[simp] theorem Chip.updPacket_arbiters (c : Chip) (id : Nat) (f : Packet → Packet) : (c.updPacket id f).arbiters = c.arbiters := rfl
@[simp] theorem Chip.updPacket_predictors (c : Chip) (id : Nat) (f : Packet → Packet) : (c.updPacket id f).predictors = c.predictors := rfl
@[simp] theorem Chip.updPacket_returnStacks (c : Chip) (id : Nat) (f : Packet → Packet) : (c.updPacket id f).returnStacks = c.returnStacks := rfl
@[simp] theorem Chip.updPacket_hartTraps (c : Chip) (id : Nat) (f : Packet → Packet) : (c.updPacket id f).hartTraps = c.hartTraps := rfl
@[simp] theorem Chip.updPacket_replies (c : Chip) (id : Nat) (f : Packet → Packet) : (c.updPacket id f).replies = c.replies := rfl
@[simp] theorem Chip.updPacket_posted (c : Chip) (id : Nat) (f : Packet → Packet) : (c.updPacket id f).posted = c.posted := rfl
@[simp] theorem Chip.updPacket_err (c : Chip) (id : Nat) (f : Packet → Packet) : (c.updPacket id f).err = c.err := rfl
@[simp] theorem Chip.updPacket_safe (c : Chip) (id : Nat) (f : Packet → Packet) : (c.updPacket id f).safe = c.safe := rfl
@[simp] theorem Chip.updPacket_selfTest (c : Chip) (id : Nat) (f : Packet → Packet) : (c.updPacket id f).selfTest = c.selfTest := rfl
@[simp] theorem Chip.updPacket_budget (c : Chip) (id : Nat) (f : Packet → Packet) : (c.updPacket id f).budget = c.budget := rfl
@[simp] theorem Chip.updPacket_sluice (c : Chip) (id : Nat) (f : Packet → Packet) : (c.updPacket id f).sluice = c.sluice := rfl
@[simp] theorem Chip.updPacket_sent (c : Chip) (id : Nat) (f : Packet → Packet) : (c.updPacket id f).sent = c.sent := rfl
@[simp] theorem Chip.updPacket_twinId (c : Chip) (id : Nat) (f : Packet → Packet) : (c.updPacket id f).twinId = c.twinId := rfl
@[simp] theorem Chip.updPacket_flash (c : Chip) (id : Nat) (f : Packet → Packet) : (c.updPacket id f).flash = c.flash := rfl
@[simp] theorem Chip.updPacket_power (c : Chip) (id : Nat) (f : Packet → Packet) : (c.updPacket id f).power = c.power := rfl
@[simp] theorem Chip.updPacket_fw (c : Chip) (id : Nat) (f : Packet → Packet) : (c.updPacket id f).fw = c.fw := rfl
@[simp] theorem Chip.updPacket_link (c : Chip) (id : Nat) (f : Packet → Packet) : (c.updPacket id f).link = c.link := rfl
@[simp] theorem Chip.updPacket_domain (c : Chip) (id : Nat) (f : Packet → Packet) : (c.updPacket id f).domain = c.domain := rfl
@[simp] theorem Chip.updPacket_net (c : Chip) (id : Nat) (f : Packet → Packet) : (c.updPacket id f).net = c.net := rfl
@[simp] theorem Chip.updPacket_hartRd (c : Chip) (id : Nat) (f : Packet → Packet) : (c.updPacket id f).hartRd = c.hartRd := rfl
@[simp] theorem Chip.updPacket_hartTval (c : Chip) (id : Nat) (f : Packet → Packet) : (c.updPacket id f).hartTval = c.hartTval := rfl
@[simp] theorem Chip.updPacket_vehicleUp (c : Chip) (id : Nat) (f : Packet → Packet) : (c.updPacket id f).vehicleUp = c.vehicleUp := rfl

/-! The outcome of a packet changes nothing but packets. -/

@[simp] theorem Chip.finish_regs (c : Chip) (id st res det : Nat) : (c.finish id st res det).regs = c.regs := rfl
@[simp] theorem Chip.finish_mem (c : Chip) (id st res det : Nat) : (c.finish id st res det).mem = c.mem := rfl
@[simp] theorem Chip.finish_now (c : Chip) (id st res det : Nat) : (c.finish id st res det).now = c.now := rfl
@[simp] theorem Chip.finish_free (c : Chip) (id st res det : Nat) : (c.finish id st res det).free = c.free := rfl
@[simp] theorem Chip.finish_capacity (c : Chip) (id st res det : Nat) : (c.finish id st res det).capacity = c.capacity := rfl
@[simp] theorem Chip.finish_owners (c : Chip) (id st res det : Nat) : (c.finish id st res det).owners = c.owners := rfl
@[simp] theorem Chip.finish_badOwners (c : Chip) (id st res det : Nat) : (c.finish id st res det).badOwners = c.badOwners := rfl
@[simp] theorem Chip.finish_carveOut (c : Chip) (id st res det : Nat) : (c.finish id st res det).carveOut = c.carveOut := rfl
@[simp] theorem Chip.finish_validBlocks (c : Chip) (id st res det : Nat) : (c.finish id st res det).validBlocks = c.validBlocks := rfl
@[simp] theorem Chip.finish_validLines (c : Chip) (id st res det : Nat) : (c.finish id st res det).validLines = c.validLines := rfl
@[simp] theorem Chip.finish_badWords (c : Chip) (id st res det : Nat) : (c.finish id st res det).badWords = c.badWords := rfl
@[simp] theorem Chip.finish_badValid (c : Chip) (id st res det : Nat) : (c.finish id st res det).badValid = c.badValid := rfl
@[simp] theorem Chip.finish_rawBlocks (c : Chip) (id st res det : Nat) : (c.finish id st res det).rawBlocks = c.rawBlocks := rfl
@[simp] theorem Chip.finish_eccHeld (c : Chip) (id st res det : Nat) : (c.finish id st res det).eccHeld = c.eccHeld := rfl
@[simp] theorem Chip.finish_cleanLines (c : Chip) (id st res det : Nat) : (c.finish id st res det).cleanLines = c.cleanLines := rfl
@[simp] theorem Chip.finish_tiles (c : Chip) (id st res det : Nat) : (c.finish id st res det).tiles = c.tiles := rfl
@[simp] theorem Chip.finish_models (c : Chip) (id st res det : Nat) : (c.finish id st res det).models = c.models := rfl
@[simp] theorem Chip.finish_engines (c : Chip) (id st res det : Nat) : (c.finish id st res det).engines = c.engines := rfl
@[simp] theorem Chip.finish_jobs (c : Chip) (id st res det : Nat) : (c.finish id st res det).jobs = c.jobs := rfl
@[simp] theorem Chip.finish_pendingRels (c : Chip) (id st res det : Nat) : (c.finish id st res det).pendingRels = c.pendingRels := rfl
@[simp] theorem Chip.finish_jobsPast (c : Chip) (id st res det : Nat) : (c.finish id st res det).jobsPast = c.jobsPast := rfl
@[simp] theorem Chip.finish_saves (c : Chip) (id st res det : Nat) : (c.finish id st res det).saves = c.saves := rfl
@[simp] theorem Chip.finish_faulted (c : Chip) (id st res det : Nat) : (c.finish id st res det).faulted = c.faulted := rfl
@[simp] theorem Chip.finish_weir (c : Chip) (id st res det : Nat) : (c.finish id st res det).weir = c.weir := rfl
@[simp] theorem Chip.finish_cfl (c : Chip) (id st res det : Nat) : (c.finish id st res det).cfl = c.cfl := rfl
@[simp] theorem Chip.finish_ale (c : Chip) (id st res det : Nat) : (c.finish id st res det).ale = c.ale := rfl
@[simp] theorem Chip.finish_gfx (c : Chip) (id st res det : Nat) : (c.finish id st res det).gfx = c.gfx := rfl
@[simp] theorem Chip.finish_pipes (c : Chip) (id st res det : Nat) : (c.finish id st res det).pipes = c.pipes := rfl
@[simp] theorem Chip.finish_fills (c : Chip) (id st res det : Nat) : (c.finish id st res det).fills = c.fills := rfl
@[simp] theorem Chip.finish_slices (c : Chip) (id st res det : Nat) : (c.finish id st res det).slices = c.slices := rfl
@[simp] theorem Chip.finish_drains (c : Chip) (id st res det : Nat) : (c.finish id st res det).drains = c.drains := rfl
@[simp] theorem Chip.finish_destroys (c : Chip) (id st res det : Nat) : (c.finish id st res det).destroys = c.destroys := rfl
@[simp] theorem Chip.finish_dirtyLogs (c : Chip) (id st res det : Nat) : (c.finish id st res det).dirtyLogs = c.dirtyLogs := rfl
@[simp] theorem Chip.finish_sliceTags (c : Chip) (id st res det : Nat) : (c.finish id st res det).sliceTags = c.sliceTags := rfl
@[simp] theorem Chip.finish_rings (c : Chip) (id st res det : Nat) : (c.finish id st res det).rings = c.rings := rfl
@[simp] theorem Chip.finish_nextPacket (c : Chip) (id st res det : Nat) : (c.finish id st res det).nextPacket = c.nextPacket := rfl
@[simp] theorem Chip.finish_starts (c : Chip) (id st res det : Nat) : (c.finish id st res det).starts = c.starts := rfl
@[simp] theorem Chip.finish_lastRing (c : Chip) (id st res det : Nat) : (c.finish id st res det).lastRing = c.lastRing := rfl
@[simp] theorem Chip.finish_staged (c : Chip) (id st res det : Nat) : (c.finish id st res det).staged = c.staged := rfl
@[simp] theorem Chip.finish_syncs (c : Chip) (id st res det : Nat) : (c.finish id st res det).syncs = c.syncs := rfl
@[simp] theorem Chip.finish_unitWaits (c : Chip) (id st res det : Nat) : (c.finish id st res det).unitWaits = c.unitWaits := rfl
@[simp] theorem Chip.finish_dramQueue (c : Chip) (id st res det : Nat) : (c.finish id st res det).dramQueue = c.dramQueue := rfl
@[simp] theorem Chip.finish_linkQ (c : Chip) (id st res det : Nat) : (c.finish id st res det).linkQ = c.linkQ := rfl
@[simp] theorem Chip.finish_accepted (c : Chip) (id st res det : Nat) : (c.finish id st res det).accepted = c.accepted := rfl
@[simp] theorem Chip.finish_nextReq (c : Chip) (id st res det : Nat) : (c.finish id st res det).nextReq = c.nextReq := rfl
@[simp] theorem Chip.finish_millrace (c : Chip) (id st res det : Nat) : (c.finish id st res det).millrace = c.millrace := rfl
@[simp] theorem Chip.finish_arbiters (c : Chip) (id st res det : Nat) : (c.finish id st res det).arbiters = c.arbiters := rfl
@[simp] theorem Chip.finish_predictors (c : Chip) (id st res det : Nat) : (c.finish id st res det).predictors = c.predictors := rfl
@[simp] theorem Chip.finish_returnStacks (c : Chip) (id st res det : Nat) : (c.finish id st res det).returnStacks = c.returnStacks := rfl
@[simp] theorem Chip.finish_hartTraps (c : Chip) (id st res det : Nat) : (c.finish id st res det).hartTraps = c.hartTraps := rfl
@[simp] theorem Chip.finish_replies (c : Chip) (id st res det : Nat) : (c.finish id st res det).replies = c.replies := rfl
@[simp] theorem Chip.finish_posted (c : Chip) (id st res det : Nat) : (c.finish id st res det).posted = c.posted := rfl
@[simp] theorem Chip.finish_err (c : Chip) (id st res det : Nat) : (c.finish id st res det).err = c.err := rfl
@[simp] theorem Chip.finish_safe (c : Chip) (id st res det : Nat) : (c.finish id st res det).safe = c.safe := rfl
@[simp] theorem Chip.finish_selfTest (c : Chip) (id st res det : Nat) : (c.finish id st res det).selfTest = c.selfTest := rfl
@[simp] theorem Chip.finish_budget (c : Chip) (id st res det : Nat) : (c.finish id st res det).budget = c.budget := rfl
@[simp] theorem Chip.finish_sluice (c : Chip) (id st res det : Nat) : (c.finish id st res det).sluice = c.sluice := rfl
@[simp] theorem Chip.finish_sent (c : Chip) (id st res det : Nat) : (c.finish id st res det).sent = c.sent := rfl
@[simp] theorem Chip.finish_twinId (c : Chip) (id st res det : Nat) : (c.finish id st res det).twinId = c.twinId := rfl
@[simp] theorem Chip.finish_flash (c : Chip) (id st res det : Nat) : (c.finish id st res det).flash = c.flash := rfl
@[simp] theorem Chip.finish_power (c : Chip) (id st res det : Nat) : (c.finish id st res det).power = c.power := rfl
@[simp] theorem Chip.finish_fw (c : Chip) (id st res det : Nat) : (c.finish id st res det).fw = c.fw := rfl
@[simp] theorem Chip.finish_link (c : Chip) (id st res det : Nat) : (c.finish id st res det).link = c.link := rfl
@[simp] theorem Chip.finish_domain (c : Chip) (id st res det : Nat) : (c.finish id st res det).domain = c.domain := rfl
@[simp] theorem Chip.finish_net (c : Chip) (id st res det : Nat) : (c.finish id st res det).net = c.net := rfl
@[simp] theorem Chip.finish_hartRd (c : Chip) (id st res det : Nat) : (c.finish id st res det).hartRd = c.hartRd := rfl
@[simp] theorem Chip.finish_hartTval (c : Chip) (id st res det : Nat) : (c.finish id st res det).hartTval = c.hartTval := rfl
@[simp] theorem Chip.finish_vehicleUp (c : Chip) (id st res det : Nat) : (c.finish id st res det).vehicleUp = c.vehicleUp := rfl

/-! A packet that goes on changes nothing but packets. -/

@[simp] theorem Chip.keepRunning_regs (c : Chip) (id : Nat) : (c.keepRunning id).regs = c.regs := rfl
@[simp] theorem Chip.keepRunning_mem (c : Chip) (id : Nat) : (c.keepRunning id).mem = c.mem := rfl
@[simp] theorem Chip.keepRunning_now (c : Chip) (id : Nat) : (c.keepRunning id).now = c.now := rfl
@[simp] theorem Chip.keepRunning_free (c : Chip) (id : Nat) : (c.keepRunning id).free = c.free := rfl
@[simp] theorem Chip.keepRunning_capacity (c : Chip) (id : Nat) : (c.keepRunning id).capacity = c.capacity := rfl
@[simp] theorem Chip.keepRunning_owners (c : Chip) (id : Nat) : (c.keepRunning id).owners = c.owners := rfl
@[simp] theorem Chip.keepRunning_badOwners (c : Chip) (id : Nat) : (c.keepRunning id).badOwners = c.badOwners := rfl
@[simp] theorem Chip.keepRunning_carveOut (c : Chip) (id : Nat) : (c.keepRunning id).carveOut = c.carveOut := rfl
@[simp] theorem Chip.keepRunning_validBlocks (c : Chip) (id : Nat) : (c.keepRunning id).validBlocks = c.validBlocks := rfl
@[simp] theorem Chip.keepRunning_validLines (c : Chip) (id : Nat) : (c.keepRunning id).validLines = c.validLines := rfl
@[simp] theorem Chip.keepRunning_badWords (c : Chip) (id : Nat) : (c.keepRunning id).badWords = c.badWords := rfl
@[simp] theorem Chip.keepRunning_badValid (c : Chip) (id : Nat) : (c.keepRunning id).badValid = c.badValid := rfl
@[simp] theorem Chip.keepRunning_rawBlocks (c : Chip) (id : Nat) : (c.keepRunning id).rawBlocks = c.rawBlocks := rfl
@[simp] theorem Chip.keepRunning_eccHeld (c : Chip) (id : Nat) : (c.keepRunning id).eccHeld = c.eccHeld := rfl
@[simp] theorem Chip.keepRunning_cleanLines (c : Chip) (id : Nat) : (c.keepRunning id).cleanLines = c.cleanLines := rfl
@[simp] theorem Chip.keepRunning_tiles (c : Chip) (id : Nat) : (c.keepRunning id).tiles = c.tiles := rfl
@[simp] theorem Chip.keepRunning_models (c : Chip) (id : Nat) : (c.keepRunning id).models = c.models := rfl
@[simp] theorem Chip.keepRunning_engines (c : Chip) (id : Nat) : (c.keepRunning id).engines = c.engines := rfl
@[simp] theorem Chip.keepRunning_jobs (c : Chip) (id : Nat) : (c.keepRunning id).jobs = c.jobs := rfl
@[simp] theorem Chip.keepRunning_pendingRels (c : Chip) (id : Nat) : (c.keepRunning id).pendingRels = c.pendingRels := rfl
@[simp] theorem Chip.keepRunning_jobsPast (c : Chip) (id : Nat) : (c.keepRunning id).jobsPast = c.jobsPast := rfl
@[simp] theorem Chip.keepRunning_saves (c : Chip) (id : Nat) : (c.keepRunning id).saves = c.saves := rfl
@[simp] theorem Chip.keepRunning_faulted (c : Chip) (id : Nat) : (c.keepRunning id).faulted = c.faulted := rfl
@[simp] theorem Chip.keepRunning_weir (c : Chip) (id : Nat) : (c.keepRunning id).weir = c.weir := rfl
@[simp] theorem Chip.keepRunning_cfl (c : Chip) (id : Nat) : (c.keepRunning id).cfl = c.cfl := rfl
@[simp] theorem Chip.keepRunning_ale (c : Chip) (id : Nat) : (c.keepRunning id).ale = c.ale := rfl
@[simp] theorem Chip.keepRunning_gfx (c : Chip) (id : Nat) : (c.keepRunning id).gfx = c.gfx := rfl
@[simp] theorem Chip.keepRunning_pipes (c : Chip) (id : Nat) : (c.keepRunning id).pipes = c.pipes := rfl
@[simp] theorem Chip.keepRunning_fills (c : Chip) (id : Nat) : (c.keepRunning id).fills = c.fills := rfl
@[simp] theorem Chip.keepRunning_slices (c : Chip) (id : Nat) : (c.keepRunning id).slices = c.slices := rfl
@[simp] theorem Chip.keepRunning_drains (c : Chip) (id : Nat) : (c.keepRunning id).drains = c.drains := rfl
@[simp] theorem Chip.keepRunning_destroys (c : Chip) (id : Nat) : (c.keepRunning id).destroys = c.destroys := rfl
@[simp] theorem Chip.keepRunning_dirtyLogs (c : Chip) (id : Nat) : (c.keepRunning id).dirtyLogs = c.dirtyLogs := rfl
@[simp] theorem Chip.keepRunning_sliceTags (c : Chip) (id : Nat) : (c.keepRunning id).sliceTags = c.sliceTags := rfl
@[simp] theorem Chip.keepRunning_rings (c : Chip) (id : Nat) : (c.keepRunning id).rings = c.rings := rfl
@[simp] theorem Chip.keepRunning_nextPacket (c : Chip) (id : Nat) : (c.keepRunning id).nextPacket = c.nextPacket := rfl
@[simp] theorem Chip.keepRunning_starts (c : Chip) (id : Nat) : (c.keepRunning id).starts = c.starts := rfl
@[simp] theorem Chip.keepRunning_lastRing (c : Chip) (id : Nat) : (c.keepRunning id).lastRing = c.lastRing := rfl
@[simp] theorem Chip.keepRunning_staged (c : Chip) (id : Nat) : (c.keepRunning id).staged = c.staged := rfl
@[simp] theorem Chip.keepRunning_syncs (c : Chip) (id : Nat) : (c.keepRunning id).syncs = c.syncs := rfl
@[simp] theorem Chip.keepRunning_unitWaits (c : Chip) (id : Nat) : (c.keepRunning id).unitWaits = c.unitWaits := rfl
@[simp] theorem Chip.keepRunning_dramQueue (c : Chip) (id : Nat) : (c.keepRunning id).dramQueue = c.dramQueue := rfl
@[simp] theorem Chip.keepRunning_linkQ (c : Chip) (id : Nat) : (c.keepRunning id).linkQ = c.linkQ := rfl
@[simp] theorem Chip.keepRunning_accepted (c : Chip) (id : Nat) : (c.keepRunning id).accepted = c.accepted := rfl
@[simp] theorem Chip.keepRunning_nextReq (c : Chip) (id : Nat) : (c.keepRunning id).nextReq = c.nextReq := rfl
@[simp] theorem Chip.keepRunning_millrace (c : Chip) (id : Nat) : (c.keepRunning id).millrace = c.millrace := rfl
@[simp] theorem Chip.keepRunning_arbiters (c : Chip) (id : Nat) : (c.keepRunning id).arbiters = c.arbiters := rfl
@[simp] theorem Chip.keepRunning_predictors (c : Chip) (id : Nat) : (c.keepRunning id).predictors = c.predictors := rfl
@[simp] theorem Chip.keepRunning_returnStacks (c : Chip) (id : Nat) : (c.keepRunning id).returnStacks = c.returnStacks := rfl
@[simp] theorem Chip.keepRunning_hartTraps (c : Chip) (id : Nat) : (c.keepRunning id).hartTraps = c.hartTraps := rfl
@[simp] theorem Chip.keepRunning_replies (c : Chip) (id : Nat) : (c.keepRunning id).replies = c.replies := rfl
@[simp] theorem Chip.keepRunning_posted (c : Chip) (id : Nat) : (c.keepRunning id).posted = c.posted := rfl
@[simp] theorem Chip.keepRunning_err (c : Chip) (id : Nat) : (c.keepRunning id).err = c.err := rfl
@[simp] theorem Chip.keepRunning_safe (c : Chip) (id : Nat) : (c.keepRunning id).safe = c.safe := rfl
@[simp] theorem Chip.keepRunning_selfTest (c : Chip) (id : Nat) : (c.keepRunning id).selfTest = c.selfTest := rfl
@[simp] theorem Chip.keepRunning_budget (c : Chip) (id : Nat) : (c.keepRunning id).budget = c.budget := rfl
@[simp] theorem Chip.keepRunning_sluice (c : Chip) (id : Nat) : (c.keepRunning id).sluice = c.sluice := rfl
@[simp] theorem Chip.keepRunning_sent (c : Chip) (id : Nat) : (c.keepRunning id).sent = c.sent := rfl
@[simp] theorem Chip.keepRunning_twinId (c : Chip) (id : Nat) : (c.keepRunning id).twinId = c.twinId := rfl
@[simp] theorem Chip.keepRunning_flash (c : Chip) (id : Nat) : (c.keepRunning id).flash = c.flash := rfl
@[simp] theorem Chip.keepRunning_power (c : Chip) (id : Nat) : (c.keepRunning id).power = c.power := rfl
@[simp] theorem Chip.keepRunning_fw (c : Chip) (id : Nat) : (c.keepRunning id).fw = c.fw := rfl
@[simp] theorem Chip.keepRunning_link (c : Chip) (id : Nat) : (c.keepRunning id).link = c.link := rfl
@[simp] theorem Chip.keepRunning_domain (c : Chip) (id : Nat) : (c.keepRunning id).domain = c.domain := rfl
@[simp] theorem Chip.keepRunning_net (c : Chip) (id : Nat) : (c.keepRunning id).net = c.net := rfl
@[simp] theorem Chip.keepRunning_hartRd (c : Chip) (id : Nat) : (c.keepRunning id).hartRd = c.hartRd := rfl
@[simp] theorem Chip.keepRunning_hartTval (c : Chip) (id : Nat) : (c.keepRunning id).hartTval = c.hartTval := rfl
@[simp] theorem Chip.keepRunning_vehicleUp (c : Chip) (id : Nat) : (c.keepRunning id).vehicleUp = c.vehicleUp := rfl

/-! The stamp of ready heads changes nothing but packets. -/

@[simp] theorem Chip.stampReady_regs (c : Chip) : (c.stampReady).regs = c.regs := rfl
@[simp] theorem Chip.stampReady_mem (c : Chip) : (c.stampReady).mem = c.mem := rfl
@[simp] theorem Chip.stampReady_now (c : Chip) : (c.stampReady).now = c.now := rfl
@[simp] theorem Chip.stampReady_free (c : Chip) : (c.stampReady).free = c.free := rfl
@[simp] theorem Chip.stampReady_capacity (c : Chip) : (c.stampReady).capacity = c.capacity := rfl
@[simp] theorem Chip.stampReady_owners (c : Chip) : (c.stampReady).owners = c.owners := rfl
@[simp] theorem Chip.stampReady_badOwners (c : Chip) : (c.stampReady).badOwners = c.badOwners := rfl
@[simp] theorem Chip.stampReady_carveOut (c : Chip) : (c.stampReady).carveOut = c.carveOut := rfl
@[simp] theorem Chip.stampReady_validBlocks (c : Chip) : (c.stampReady).validBlocks = c.validBlocks := rfl
@[simp] theorem Chip.stampReady_validLines (c : Chip) : (c.stampReady).validLines = c.validLines := rfl
@[simp] theorem Chip.stampReady_badWords (c : Chip) : (c.stampReady).badWords = c.badWords := rfl
@[simp] theorem Chip.stampReady_badValid (c : Chip) : (c.stampReady).badValid = c.badValid := rfl
@[simp] theorem Chip.stampReady_rawBlocks (c : Chip) : (c.stampReady).rawBlocks = c.rawBlocks := rfl
@[simp] theorem Chip.stampReady_eccHeld (c : Chip) : (c.stampReady).eccHeld = c.eccHeld := rfl
@[simp] theorem Chip.stampReady_cleanLines (c : Chip) : (c.stampReady).cleanLines = c.cleanLines := rfl
@[simp] theorem Chip.stampReady_tiles (c : Chip) : (c.stampReady).tiles = c.tiles := rfl
@[simp] theorem Chip.stampReady_models (c : Chip) : (c.stampReady).models = c.models := rfl
@[simp] theorem Chip.stampReady_engines (c : Chip) : (c.stampReady).engines = c.engines := rfl
@[simp] theorem Chip.stampReady_jobs (c : Chip) : (c.stampReady).jobs = c.jobs := rfl
@[simp] theorem Chip.stampReady_pendingRels (c : Chip) : (c.stampReady).pendingRels = c.pendingRels := rfl
@[simp] theorem Chip.stampReady_jobsPast (c : Chip) : (c.stampReady).jobsPast = c.jobsPast := rfl
@[simp] theorem Chip.stampReady_saves (c : Chip) : (c.stampReady).saves = c.saves := rfl
@[simp] theorem Chip.stampReady_faulted (c : Chip) : (c.stampReady).faulted = c.faulted := rfl
@[simp] theorem Chip.stampReady_weir (c : Chip) : (c.stampReady).weir = c.weir := rfl
@[simp] theorem Chip.stampReady_cfl (c : Chip) : (c.stampReady).cfl = c.cfl := rfl
@[simp] theorem Chip.stampReady_ale (c : Chip) : (c.stampReady).ale = c.ale := rfl
@[simp] theorem Chip.stampReady_gfx (c : Chip) : (c.stampReady).gfx = c.gfx := rfl
@[simp] theorem Chip.stampReady_pipes (c : Chip) : (c.stampReady).pipes = c.pipes := rfl
@[simp] theorem Chip.stampReady_fills (c : Chip) : (c.stampReady).fills = c.fills := rfl
@[simp] theorem Chip.stampReady_slices (c : Chip) : (c.stampReady).slices = c.slices := rfl
@[simp] theorem Chip.stampReady_drains (c : Chip) : (c.stampReady).drains = c.drains := rfl
@[simp] theorem Chip.stampReady_destroys (c : Chip) : (c.stampReady).destroys = c.destroys := rfl
@[simp] theorem Chip.stampReady_dirtyLogs (c : Chip) : (c.stampReady).dirtyLogs = c.dirtyLogs := rfl
@[simp] theorem Chip.stampReady_sliceTags (c : Chip) : (c.stampReady).sliceTags = c.sliceTags := rfl
@[simp] theorem Chip.stampReady_rings (c : Chip) : (c.stampReady).rings = c.rings := rfl
@[simp] theorem Chip.stampReady_nextPacket (c : Chip) : (c.stampReady).nextPacket = c.nextPacket := rfl
@[simp] theorem Chip.stampReady_starts (c : Chip) : (c.stampReady).starts = c.starts := rfl
@[simp] theorem Chip.stampReady_lastRing (c : Chip) : (c.stampReady).lastRing = c.lastRing := rfl
@[simp] theorem Chip.stampReady_staged (c : Chip) : (c.stampReady).staged = c.staged := rfl
@[simp] theorem Chip.stampReady_syncs (c : Chip) : (c.stampReady).syncs = c.syncs := rfl
@[simp] theorem Chip.stampReady_unitWaits (c : Chip) : (c.stampReady).unitWaits = c.unitWaits := rfl
@[simp] theorem Chip.stampReady_dramQueue (c : Chip) : (c.stampReady).dramQueue = c.dramQueue := rfl
@[simp] theorem Chip.stampReady_linkQ (c : Chip) : (c.stampReady).linkQ = c.linkQ := rfl
@[simp] theorem Chip.stampReady_accepted (c : Chip) : (c.stampReady).accepted = c.accepted := rfl
@[simp] theorem Chip.stampReady_nextReq (c : Chip) : (c.stampReady).nextReq = c.nextReq := rfl
@[simp] theorem Chip.stampReady_millrace (c : Chip) : (c.stampReady).millrace = c.millrace := rfl
@[simp] theorem Chip.stampReady_arbiters (c : Chip) : (c.stampReady).arbiters = c.arbiters := rfl
@[simp] theorem Chip.stampReady_predictors (c : Chip) : (c.stampReady).predictors = c.predictors := rfl
@[simp] theorem Chip.stampReady_returnStacks (c : Chip) : (c.stampReady).returnStacks = c.returnStacks := rfl
@[simp] theorem Chip.stampReady_hartTraps (c : Chip) : (c.stampReady).hartTraps = c.hartTraps := rfl
@[simp] theorem Chip.stampReady_replies (c : Chip) : (c.stampReady).replies = c.replies := rfl
@[simp] theorem Chip.stampReady_posted (c : Chip) : (c.stampReady).posted = c.posted := rfl
@[simp] theorem Chip.stampReady_err (c : Chip) : (c.stampReady).err = c.err := rfl
@[simp] theorem Chip.stampReady_safe (c : Chip) : (c.stampReady).safe = c.safe := rfl
@[simp] theorem Chip.stampReady_selfTest (c : Chip) : (c.stampReady).selfTest = c.selfTest := rfl
@[simp] theorem Chip.stampReady_budget (c : Chip) : (c.stampReady).budget = c.budget := rfl
@[simp] theorem Chip.stampReady_sluice (c : Chip) : (c.stampReady).sluice = c.sluice := rfl
@[simp] theorem Chip.stampReady_sent (c : Chip) : (c.stampReady).sent = c.sent := rfl
@[simp] theorem Chip.stampReady_twinId (c : Chip) : (c.stampReady).twinId = c.twinId := rfl
@[simp] theorem Chip.stampReady_flash (c : Chip) : (c.stampReady).flash = c.flash := rfl
@[simp] theorem Chip.stampReady_power (c : Chip) : (c.stampReady).power = c.power := rfl
@[simp] theorem Chip.stampReady_fw (c : Chip) : (c.stampReady).fw = c.fw := rfl
@[simp] theorem Chip.stampReady_link (c : Chip) : (c.stampReady).link = c.link := rfl
@[simp] theorem Chip.stampReady_domain (c : Chip) : (c.stampReady).domain = c.domain := rfl
@[simp] theorem Chip.stampReady_net (c : Chip) : (c.stampReady).net = c.net := rfl
@[simp] theorem Chip.stampReady_hartRd (c : Chip) : (c.stampReady).hartRd = c.hartRd := rfl
@[simp] theorem Chip.stampReady_hartTval (c : Chip) : (c.stampReady).hartTval = c.hartTval := rfl
@[simp] theorem Chip.stampReady_vehicleUp (c : Chip) : (c.stampReady).vehicleUp = c.vehicleUp := rfl

/-! A wake-up of waiters changes nothing but packets and unitWaits. -/

@[simp] theorem Chip.wake_regs (c : Chip) (o : Nat) : (c.wake o).regs = c.regs := rfl
@[simp] theorem Chip.wake_mem (c : Chip) (o : Nat) : (c.wake o).mem = c.mem := rfl
@[simp] theorem Chip.wake_now (c : Chip) (o : Nat) : (c.wake o).now = c.now := rfl
@[simp] theorem Chip.wake_free (c : Chip) (o : Nat) : (c.wake o).free = c.free := rfl
@[simp] theorem Chip.wake_capacity (c : Chip) (o : Nat) : (c.wake o).capacity = c.capacity := rfl
@[simp] theorem Chip.wake_owners (c : Chip) (o : Nat) : (c.wake o).owners = c.owners := rfl
@[simp] theorem Chip.wake_badOwners (c : Chip) (o : Nat) : (c.wake o).badOwners = c.badOwners := rfl
@[simp] theorem Chip.wake_carveOut (c : Chip) (o : Nat) : (c.wake o).carveOut = c.carveOut := rfl
@[simp] theorem Chip.wake_validBlocks (c : Chip) (o : Nat) : (c.wake o).validBlocks = c.validBlocks := rfl
@[simp] theorem Chip.wake_validLines (c : Chip) (o : Nat) : (c.wake o).validLines = c.validLines := rfl
@[simp] theorem Chip.wake_badWords (c : Chip) (o : Nat) : (c.wake o).badWords = c.badWords := rfl
@[simp] theorem Chip.wake_badValid (c : Chip) (o : Nat) : (c.wake o).badValid = c.badValid := rfl
@[simp] theorem Chip.wake_rawBlocks (c : Chip) (o : Nat) : (c.wake o).rawBlocks = c.rawBlocks := rfl
@[simp] theorem Chip.wake_eccHeld (c : Chip) (o : Nat) : (c.wake o).eccHeld = c.eccHeld := rfl
@[simp] theorem Chip.wake_cleanLines (c : Chip) (o : Nat) : (c.wake o).cleanLines = c.cleanLines := rfl
@[simp] theorem Chip.wake_tiles (c : Chip) (o : Nat) : (c.wake o).tiles = c.tiles := rfl
@[simp] theorem Chip.wake_models (c : Chip) (o : Nat) : (c.wake o).models = c.models := rfl
@[simp] theorem Chip.wake_engines (c : Chip) (o : Nat) : (c.wake o).engines = c.engines := rfl
@[simp] theorem Chip.wake_jobs (c : Chip) (o : Nat) : (c.wake o).jobs = c.jobs := rfl
@[simp] theorem Chip.wake_pendingRels (c : Chip) (o : Nat) : (c.wake o).pendingRels = c.pendingRels := rfl
@[simp] theorem Chip.wake_jobsPast (c : Chip) (o : Nat) : (c.wake o).jobsPast = c.jobsPast := rfl
@[simp] theorem Chip.wake_saves (c : Chip) (o : Nat) : (c.wake o).saves = c.saves := rfl
@[simp] theorem Chip.wake_faulted (c : Chip) (o : Nat) : (c.wake o).faulted = c.faulted := rfl
@[simp] theorem Chip.wake_weir (c : Chip) (o : Nat) : (c.wake o).weir = c.weir := rfl
@[simp] theorem Chip.wake_cfl (c : Chip) (o : Nat) : (c.wake o).cfl = c.cfl := rfl
@[simp] theorem Chip.wake_ale (c : Chip) (o : Nat) : (c.wake o).ale = c.ale := rfl
@[simp] theorem Chip.wake_gfx (c : Chip) (o : Nat) : (c.wake o).gfx = c.gfx := rfl
@[simp] theorem Chip.wake_pipes (c : Chip) (o : Nat) : (c.wake o).pipes = c.pipes := rfl
@[simp] theorem Chip.wake_fills (c : Chip) (o : Nat) : (c.wake o).fills = c.fills := rfl
@[simp] theorem Chip.wake_slices (c : Chip) (o : Nat) : (c.wake o).slices = c.slices := rfl
@[simp] theorem Chip.wake_drains (c : Chip) (o : Nat) : (c.wake o).drains = c.drains := rfl
@[simp] theorem Chip.wake_destroys (c : Chip) (o : Nat) : (c.wake o).destroys = c.destroys := rfl
@[simp] theorem Chip.wake_dirtyLogs (c : Chip) (o : Nat) : (c.wake o).dirtyLogs = c.dirtyLogs := rfl
@[simp] theorem Chip.wake_sliceTags (c : Chip) (o : Nat) : (c.wake o).sliceTags = c.sliceTags := rfl
@[simp] theorem Chip.wake_rings (c : Chip) (o : Nat) : (c.wake o).rings = c.rings := rfl
@[simp] theorem Chip.wake_nextPacket (c : Chip) (o : Nat) : (c.wake o).nextPacket = c.nextPacket := rfl
@[simp] theorem Chip.wake_starts (c : Chip) (o : Nat) : (c.wake o).starts = c.starts := rfl
@[simp] theorem Chip.wake_lastRing (c : Chip) (o : Nat) : (c.wake o).lastRing = c.lastRing := rfl
@[simp] theorem Chip.wake_staged (c : Chip) (o : Nat) : (c.wake o).staged = c.staged := rfl
@[simp] theorem Chip.wake_syncs (c : Chip) (o : Nat) : (c.wake o).syncs = c.syncs := rfl
@[simp] theorem Chip.wake_dramQueue (c : Chip) (o : Nat) : (c.wake o).dramQueue = c.dramQueue := rfl
@[simp] theorem Chip.wake_linkQ (c : Chip) (o : Nat) : (c.wake o).linkQ = c.linkQ := rfl
@[simp] theorem Chip.wake_accepted (c : Chip) (o : Nat) : (c.wake o).accepted = c.accepted := rfl
@[simp] theorem Chip.wake_nextReq (c : Chip) (o : Nat) : (c.wake o).nextReq = c.nextReq := rfl
@[simp] theorem Chip.wake_millrace (c : Chip) (o : Nat) : (c.wake o).millrace = c.millrace := rfl
@[simp] theorem Chip.wake_arbiters (c : Chip) (o : Nat) : (c.wake o).arbiters = c.arbiters := rfl
@[simp] theorem Chip.wake_predictors (c : Chip) (o : Nat) : (c.wake o).predictors = c.predictors := rfl
@[simp] theorem Chip.wake_returnStacks (c : Chip) (o : Nat) : (c.wake o).returnStacks = c.returnStacks := rfl
@[simp] theorem Chip.wake_hartTraps (c : Chip) (o : Nat) : (c.wake o).hartTraps = c.hartTraps := rfl
@[simp] theorem Chip.wake_replies (c : Chip) (o : Nat) : (c.wake o).replies = c.replies := rfl
@[simp] theorem Chip.wake_posted (c : Chip) (o : Nat) : (c.wake o).posted = c.posted := rfl
@[simp] theorem Chip.wake_err (c : Chip) (o : Nat) : (c.wake o).err = c.err := rfl
@[simp] theorem Chip.wake_safe (c : Chip) (o : Nat) : (c.wake o).safe = c.safe := rfl
@[simp] theorem Chip.wake_selfTest (c : Chip) (o : Nat) : (c.wake o).selfTest = c.selfTest := rfl
@[simp] theorem Chip.wake_budget (c : Chip) (o : Nat) : (c.wake o).budget = c.budget := rfl
@[simp] theorem Chip.wake_sluice (c : Chip) (o : Nat) : (c.wake o).sluice = c.sluice := rfl
@[simp] theorem Chip.wake_sent (c : Chip) (o : Nat) : (c.wake o).sent = c.sent := rfl
@[simp] theorem Chip.wake_twinId (c : Chip) (o : Nat) : (c.wake o).twinId = c.twinId := rfl
@[simp] theorem Chip.wake_flash (c : Chip) (o : Nat) : (c.wake o).flash = c.flash := rfl
@[simp] theorem Chip.wake_power (c : Chip) (o : Nat) : (c.wake o).power = c.power := rfl
@[simp] theorem Chip.wake_fw (c : Chip) (o : Nat) : (c.wake o).fw = c.fw := rfl
@[simp] theorem Chip.wake_link (c : Chip) (o : Nat) : (c.wake o).link = c.link := rfl
@[simp] theorem Chip.wake_domain (c : Chip) (o : Nat) : (c.wake o).domain = c.domain := rfl
@[simp] theorem Chip.wake_net (c : Chip) (o : Nat) : (c.wake o).net = c.net := rfl
@[simp] theorem Chip.wake_hartRd (c : Chip) (o : Nat) : (c.wake o).hartRd = c.hartRd := rfl
@[simp] theorem Chip.wake_hartTval (c : Chip) (o : Nat) : (c.wake o).hartTval = c.hartTval := rfl
@[simp] theorem Chip.wake_vehicleUp (c : Chip) (o : Nat) : (c.wake o).vehicleUp = c.vehicleUp := rfl

/-! A signal changes nothing but packets and unitWaits and syncs. -/

@[simp] theorem Chip.signal_regs (c : Chip) (o : Nat) (g : Signal) : (c.signal o g).regs = c.regs := rfl
@[simp] theorem Chip.signal_mem (c : Chip) (o : Nat) (g : Signal) : (c.signal o g).mem = c.mem := rfl
@[simp] theorem Chip.signal_now (c : Chip) (o : Nat) (g : Signal) : (c.signal o g).now = c.now := rfl
@[simp] theorem Chip.signal_free (c : Chip) (o : Nat) (g : Signal) : (c.signal o g).free = c.free := rfl
@[simp] theorem Chip.signal_capacity (c : Chip) (o : Nat) (g : Signal) : (c.signal o g).capacity = c.capacity := rfl
@[simp] theorem Chip.signal_owners (c : Chip) (o : Nat) (g : Signal) : (c.signal o g).owners = c.owners := rfl
@[simp] theorem Chip.signal_badOwners (c : Chip) (o : Nat) (g : Signal) : (c.signal o g).badOwners = c.badOwners := rfl
@[simp] theorem Chip.signal_carveOut (c : Chip) (o : Nat) (g : Signal) : (c.signal o g).carveOut = c.carveOut := rfl
@[simp] theorem Chip.signal_validBlocks (c : Chip) (o : Nat) (g : Signal) : (c.signal o g).validBlocks = c.validBlocks := rfl
@[simp] theorem Chip.signal_validLines (c : Chip) (o : Nat) (g : Signal) : (c.signal o g).validLines = c.validLines := rfl
@[simp] theorem Chip.signal_badWords (c : Chip) (o : Nat) (g : Signal) : (c.signal o g).badWords = c.badWords := rfl
@[simp] theorem Chip.signal_badValid (c : Chip) (o : Nat) (g : Signal) : (c.signal o g).badValid = c.badValid := rfl
@[simp] theorem Chip.signal_rawBlocks (c : Chip) (o : Nat) (g : Signal) : (c.signal o g).rawBlocks = c.rawBlocks := rfl
@[simp] theorem Chip.signal_eccHeld (c : Chip) (o : Nat) (g : Signal) : (c.signal o g).eccHeld = c.eccHeld := rfl
@[simp] theorem Chip.signal_cleanLines (c : Chip) (o : Nat) (g : Signal) : (c.signal o g).cleanLines = c.cleanLines := rfl
@[simp] theorem Chip.signal_tiles (c : Chip) (o : Nat) (g : Signal) : (c.signal o g).tiles = c.tiles := rfl
@[simp] theorem Chip.signal_models (c : Chip) (o : Nat) (g : Signal) : (c.signal o g).models = c.models := rfl
@[simp] theorem Chip.signal_engines (c : Chip) (o : Nat) (g : Signal) : (c.signal o g).engines = c.engines := rfl
@[simp] theorem Chip.signal_jobs (c : Chip) (o : Nat) (g : Signal) : (c.signal o g).jobs = c.jobs := rfl
@[simp] theorem Chip.signal_pendingRels (c : Chip) (o : Nat) (g : Signal) : (c.signal o g).pendingRels = c.pendingRels := rfl
@[simp] theorem Chip.signal_jobsPast (c : Chip) (o : Nat) (g : Signal) : (c.signal o g).jobsPast = c.jobsPast := rfl
@[simp] theorem Chip.signal_saves (c : Chip) (o : Nat) (g : Signal) : (c.signal o g).saves = c.saves := rfl
@[simp] theorem Chip.signal_faulted (c : Chip) (o : Nat) (g : Signal) : (c.signal o g).faulted = c.faulted := rfl
@[simp] theorem Chip.signal_weir (c : Chip) (o : Nat) (g : Signal) : (c.signal o g).weir = c.weir := rfl
@[simp] theorem Chip.signal_cfl (c : Chip) (o : Nat) (g : Signal) : (c.signal o g).cfl = c.cfl := rfl
@[simp] theorem Chip.signal_ale (c : Chip) (o : Nat) (g : Signal) : (c.signal o g).ale = c.ale := rfl
@[simp] theorem Chip.signal_gfx (c : Chip) (o : Nat) (g : Signal) : (c.signal o g).gfx = c.gfx := rfl
@[simp] theorem Chip.signal_pipes (c : Chip) (o : Nat) (g : Signal) : (c.signal o g).pipes = c.pipes := rfl
@[simp] theorem Chip.signal_fills (c : Chip) (o : Nat) (g : Signal) : (c.signal o g).fills = c.fills := rfl
@[simp] theorem Chip.signal_slices (c : Chip) (o : Nat) (g : Signal) : (c.signal o g).slices = c.slices := rfl
@[simp] theorem Chip.signal_drains (c : Chip) (o : Nat) (g : Signal) : (c.signal o g).drains = c.drains := rfl
@[simp] theorem Chip.signal_destroys (c : Chip) (o : Nat) (g : Signal) : (c.signal o g).destroys = c.destroys := rfl
@[simp] theorem Chip.signal_dirtyLogs (c : Chip) (o : Nat) (g : Signal) : (c.signal o g).dirtyLogs = c.dirtyLogs := rfl
@[simp] theorem Chip.signal_sliceTags (c : Chip) (o : Nat) (g : Signal) : (c.signal o g).sliceTags = c.sliceTags := rfl
@[simp] theorem Chip.signal_rings (c : Chip) (o : Nat) (g : Signal) : (c.signal o g).rings = c.rings := rfl
@[simp] theorem Chip.signal_nextPacket (c : Chip) (o : Nat) (g : Signal) : (c.signal o g).nextPacket = c.nextPacket := rfl
@[simp] theorem Chip.signal_starts (c : Chip) (o : Nat) (g : Signal) : (c.signal o g).starts = c.starts := rfl
@[simp] theorem Chip.signal_lastRing (c : Chip) (o : Nat) (g : Signal) : (c.signal o g).lastRing = c.lastRing := rfl
@[simp] theorem Chip.signal_staged (c : Chip) (o : Nat) (g : Signal) : (c.signal o g).staged = c.staged := rfl
@[simp] theorem Chip.signal_dramQueue (c : Chip) (o : Nat) (g : Signal) : (c.signal o g).dramQueue = c.dramQueue := rfl
@[simp] theorem Chip.signal_linkQ (c : Chip) (o : Nat) (g : Signal) : (c.signal o g).linkQ = c.linkQ := rfl
@[simp] theorem Chip.signal_accepted (c : Chip) (o : Nat) (g : Signal) : (c.signal o g).accepted = c.accepted := rfl
@[simp] theorem Chip.signal_nextReq (c : Chip) (o : Nat) (g : Signal) : (c.signal o g).nextReq = c.nextReq := rfl
@[simp] theorem Chip.signal_millrace (c : Chip) (o : Nat) (g : Signal) : (c.signal o g).millrace = c.millrace := rfl
@[simp] theorem Chip.signal_arbiters (c : Chip) (o : Nat) (g : Signal) : (c.signal o g).arbiters = c.arbiters := rfl
@[simp] theorem Chip.signal_predictors (c : Chip) (o : Nat) (g : Signal) : (c.signal o g).predictors = c.predictors := rfl
@[simp] theorem Chip.signal_returnStacks (c : Chip) (o : Nat) (g : Signal) : (c.signal o g).returnStacks = c.returnStacks := rfl
@[simp] theorem Chip.signal_hartTraps (c : Chip) (o : Nat) (g : Signal) : (c.signal o g).hartTraps = c.hartTraps := rfl
@[simp] theorem Chip.signal_replies (c : Chip) (o : Nat) (g : Signal) : (c.signal o g).replies = c.replies := rfl
@[simp] theorem Chip.signal_posted (c : Chip) (o : Nat) (g : Signal) : (c.signal o g).posted = c.posted := rfl
@[simp] theorem Chip.signal_err (c : Chip) (o : Nat) (g : Signal) : (c.signal o g).err = c.err := rfl
@[simp] theorem Chip.signal_safe (c : Chip) (o : Nat) (g : Signal) : (c.signal o g).safe = c.safe := rfl
@[simp] theorem Chip.signal_selfTest (c : Chip) (o : Nat) (g : Signal) : (c.signal o g).selfTest = c.selfTest := rfl
@[simp] theorem Chip.signal_budget (c : Chip) (o : Nat) (g : Signal) : (c.signal o g).budget = c.budget := rfl
@[simp] theorem Chip.signal_sluice (c : Chip) (o : Nat) (g : Signal) : (c.signal o g).sluice = c.sluice := rfl
@[simp] theorem Chip.signal_sent (c : Chip) (o : Nat) (g : Signal) : (c.signal o g).sent = c.sent := rfl
@[simp] theorem Chip.signal_twinId (c : Chip) (o : Nat) (g : Signal) : (c.signal o g).twinId = c.twinId := rfl
@[simp] theorem Chip.signal_flash (c : Chip) (o : Nat) (g : Signal) : (c.signal o g).flash = c.flash := rfl
@[simp] theorem Chip.signal_power (c : Chip) (o : Nat) (g : Signal) : (c.signal o g).power = c.power := rfl
@[simp] theorem Chip.signal_fw (c : Chip) (o : Nat) (g : Signal) : (c.signal o g).fw = c.fw := rfl
@[simp] theorem Chip.signal_link (c : Chip) (o : Nat) (g : Signal) : (c.signal o g).link = c.link := rfl
@[simp] theorem Chip.signal_domain (c : Chip) (o : Nat) (g : Signal) : (c.signal o g).domain = c.domain := rfl
@[simp] theorem Chip.signal_net (c : Chip) (o : Nat) (g : Signal) : (c.signal o g).net = c.net := rfl
@[simp] theorem Chip.signal_hartRd (c : Chip) (o : Nat) (g : Signal) : (c.signal o g).hartRd = c.hartRd := rfl
@[simp] theorem Chip.signal_hartTval (c : Chip) (o : Nat) (g : Signal) : (c.signal o g).hartTval = c.hartTval := rfl
@[simp] theorem Chip.signal_vehicleUp (c : Chip) (o : Nat) (g : Signal) : (c.signal o g).vehicleUp = c.vehicleUp := rfl

/-! A failure signal changes nothing but packets and unitWaits and syncs. -/

@[simp] theorem Chip.signalFail_regs (c : Chip) (o : Nat) (g : Signal) : (c.signalFail o g).regs = c.regs := rfl
@[simp] theorem Chip.signalFail_mem (c : Chip) (o : Nat) (g : Signal) : (c.signalFail o g).mem = c.mem := rfl
@[simp] theorem Chip.signalFail_now (c : Chip) (o : Nat) (g : Signal) : (c.signalFail o g).now = c.now := rfl
@[simp] theorem Chip.signalFail_free (c : Chip) (o : Nat) (g : Signal) : (c.signalFail o g).free = c.free := rfl
@[simp] theorem Chip.signalFail_capacity (c : Chip) (o : Nat) (g : Signal) : (c.signalFail o g).capacity = c.capacity := rfl
@[simp] theorem Chip.signalFail_owners (c : Chip) (o : Nat) (g : Signal) : (c.signalFail o g).owners = c.owners := rfl
@[simp] theorem Chip.signalFail_badOwners (c : Chip) (o : Nat) (g : Signal) : (c.signalFail o g).badOwners = c.badOwners := rfl
@[simp] theorem Chip.signalFail_carveOut (c : Chip) (o : Nat) (g : Signal) : (c.signalFail o g).carveOut = c.carveOut := rfl
@[simp] theorem Chip.signalFail_validBlocks (c : Chip) (o : Nat) (g : Signal) : (c.signalFail o g).validBlocks = c.validBlocks := rfl
@[simp] theorem Chip.signalFail_validLines (c : Chip) (o : Nat) (g : Signal) : (c.signalFail o g).validLines = c.validLines := rfl
@[simp] theorem Chip.signalFail_badWords (c : Chip) (o : Nat) (g : Signal) : (c.signalFail o g).badWords = c.badWords := rfl
@[simp] theorem Chip.signalFail_badValid (c : Chip) (o : Nat) (g : Signal) : (c.signalFail o g).badValid = c.badValid := rfl
@[simp] theorem Chip.signalFail_rawBlocks (c : Chip) (o : Nat) (g : Signal) : (c.signalFail o g).rawBlocks = c.rawBlocks := rfl
@[simp] theorem Chip.signalFail_eccHeld (c : Chip) (o : Nat) (g : Signal) : (c.signalFail o g).eccHeld = c.eccHeld := rfl
@[simp] theorem Chip.signalFail_cleanLines (c : Chip) (o : Nat) (g : Signal) : (c.signalFail o g).cleanLines = c.cleanLines := rfl
@[simp] theorem Chip.signalFail_tiles (c : Chip) (o : Nat) (g : Signal) : (c.signalFail o g).tiles = c.tiles := rfl
@[simp] theorem Chip.signalFail_models (c : Chip) (o : Nat) (g : Signal) : (c.signalFail o g).models = c.models := rfl
@[simp] theorem Chip.signalFail_engines (c : Chip) (o : Nat) (g : Signal) : (c.signalFail o g).engines = c.engines := rfl
@[simp] theorem Chip.signalFail_jobs (c : Chip) (o : Nat) (g : Signal) : (c.signalFail o g).jobs = c.jobs := rfl
@[simp] theorem Chip.signalFail_pendingRels (c : Chip) (o : Nat) (g : Signal) : (c.signalFail o g).pendingRels = c.pendingRels := rfl
@[simp] theorem Chip.signalFail_jobsPast (c : Chip) (o : Nat) (g : Signal) : (c.signalFail o g).jobsPast = c.jobsPast := rfl
@[simp] theorem Chip.signalFail_saves (c : Chip) (o : Nat) (g : Signal) : (c.signalFail o g).saves = c.saves := rfl
@[simp] theorem Chip.signalFail_faulted (c : Chip) (o : Nat) (g : Signal) : (c.signalFail o g).faulted = c.faulted := rfl
@[simp] theorem Chip.signalFail_weir (c : Chip) (o : Nat) (g : Signal) : (c.signalFail o g).weir = c.weir := rfl
@[simp] theorem Chip.signalFail_cfl (c : Chip) (o : Nat) (g : Signal) : (c.signalFail o g).cfl = c.cfl := rfl
@[simp] theorem Chip.signalFail_ale (c : Chip) (o : Nat) (g : Signal) : (c.signalFail o g).ale = c.ale := rfl
@[simp] theorem Chip.signalFail_gfx (c : Chip) (o : Nat) (g : Signal) : (c.signalFail o g).gfx = c.gfx := rfl
@[simp] theorem Chip.signalFail_pipes (c : Chip) (o : Nat) (g : Signal) : (c.signalFail o g).pipes = c.pipes := rfl
@[simp] theorem Chip.signalFail_fills (c : Chip) (o : Nat) (g : Signal) : (c.signalFail o g).fills = c.fills := rfl
@[simp] theorem Chip.signalFail_slices (c : Chip) (o : Nat) (g : Signal) : (c.signalFail o g).slices = c.slices := rfl
@[simp] theorem Chip.signalFail_drains (c : Chip) (o : Nat) (g : Signal) : (c.signalFail o g).drains = c.drains := rfl
@[simp] theorem Chip.signalFail_destroys (c : Chip) (o : Nat) (g : Signal) : (c.signalFail o g).destroys = c.destroys := rfl
@[simp] theorem Chip.signalFail_dirtyLogs (c : Chip) (o : Nat) (g : Signal) : (c.signalFail o g).dirtyLogs = c.dirtyLogs := rfl
@[simp] theorem Chip.signalFail_sliceTags (c : Chip) (o : Nat) (g : Signal) : (c.signalFail o g).sliceTags = c.sliceTags := rfl
@[simp] theorem Chip.signalFail_rings (c : Chip) (o : Nat) (g : Signal) : (c.signalFail o g).rings = c.rings := rfl
@[simp] theorem Chip.signalFail_nextPacket (c : Chip) (o : Nat) (g : Signal) : (c.signalFail o g).nextPacket = c.nextPacket := rfl
@[simp] theorem Chip.signalFail_starts (c : Chip) (o : Nat) (g : Signal) : (c.signalFail o g).starts = c.starts := rfl
@[simp] theorem Chip.signalFail_lastRing (c : Chip) (o : Nat) (g : Signal) : (c.signalFail o g).lastRing = c.lastRing := rfl
@[simp] theorem Chip.signalFail_staged (c : Chip) (o : Nat) (g : Signal) : (c.signalFail o g).staged = c.staged := rfl
@[simp] theorem Chip.signalFail_dramQueue (c : Chip) (o : Nat) (g : Signal) : (c.signalFail o g).dramQueue = c.dramQueue := rfl
@[simp] theorem Chip.signalFail_linkQ (c : Chip) (o : Nat) (g : Signal) : (c.signalFail o g).linkQ = c.linkQ := rfl
@[simp] theorem Chip.signalFail_accepted (c : Chip) (o : Nat) (g : Signal) : (c.signalFail o g).accepted = c.accepted := rfl
@[simp] theorem Chip.signalFail_nextReq (c : Chip) (o : Nat) (g : Signal) : (c.signalFail o g).nextReq = c.nextReq := rfl
@[simp] theorem Chip.signalFail_millrace (c : Chip) (o : Nat) (g : Signal) : (c.signalFail o g).millrace = c.millrace := rfl
@[simp] theorem Chip.signalFail_arbiters (c : Chip) (o : Nat) (g : Signal) : (c.signalFail o g).arbiters = c.arbiters := rfl
@[simp] theorem Chip.signalFail_predictors (c : Chip) (o : Nat) (g : Signal) : (c.signalFail o g).predictors = c.predictors := rfl
@[simp] theorem Chip.signalFail_returnStacks (c : Chip) (o : Nat) (g : Signal) : (c.signalFail o g).returnStacks = c.returnStacks := rfl
@[simp] theorem Chip.signalFail_hartTraps (c : Chip) (o : Nat) (g : Signal) : (c.signalFail o g).hartTraps = c.hartTraps := rfl
@[simp] theorem Chip.signalFail_replies (c : Chip) (o : Nat) (g : Signal) : (c.signalFail o g).replies = c.replies := rfl
@[simp] theorem Chip.signalFail_posted (c : Chip) (o : Nat) (g : Signal) : (c.signalFail o g).posted = c.posted := rfl
@[simp] theorem Chip.signalFail_err (c : Chip) (o : Nat) (g : Signal) : (c.signalFail o g).err = c.err := rfl
@[simp] theorem Chip.signalFail_safe (c : Chip) (o : Nat) (g : Signal) : (c.signalFail o g).safe = c.safe := rfl
@[simp] theorem Chip.signalFail_selfTest (c : Chip) (o : Nat) (g : Signal) : (c.signalFail o g).selfTest = c.selfTest := rfl
@[simp] theorem Chip.signalFail_budget (c : Chip) (o : Nat) (g : Signal) : (c.signalFail o g).budget = c.budget := rfl
@[simp] theorem Chip.signalFail_sluice (c : Chip) (o : Nat) (g : Signal) : (c.signalFail o g).sluice = c.sluice := rfl
@[simp] theorem Chip.signalFail_sent (c : Chip) (o : Nat) (g : Signal) : (c.signalFail o g).sent = c.sent := rfl
@[simp] theorem Chip.signalFail_twinId (c : Chip) (o : Nat) (g : Signal) : (c.signalFail o g).twinId = c.twinId := rfl
@[simp] theorem Chip.signalFail_flash (c : Chip) (o : Nat) (g : Signal) : (c.signalFail o g).flash = c.flash := rfl
@[simp] theorem Chip.signalFail_power (c : Chip) (o : Nat) (g : Signal) : (c.signalFail o g).power = c.power := rfl
@[simp] theorem Chip.signalFail_fw (c : Chip) (o : Nat) (g : Signal) : (c.signalFail o g).fw = c.fw := rfl
@[simp] theorem Chip.signalFail_link (c : Chip) (o : Nat) (g : Signal) : (c.signalFail o g).link = c.link := rfl
@[simp] theorem Chip.signalFail_domain (c : Chip) (o : Nat) (g : Signal) : (c.signalFail o g).domain = c.domain := rfl
@[simp] theorem Chip.signalFail_net (c : Chip) (o : Nat) (g : Signal) : (c.signalFail o g).net = c.net := rfl
@[simp] theorem Chip.signalFail_hartRd (c : Chip) (o : Nat) (g : Signal) : (c.signalFail o g).hartRd = c.hartRd := rfl
@[simp] theorem Chip.signalFail_hartTval (c : Chip) (o : Nat) (g : Signal) : (c.signalFail o g).hartTval = c.hartTval := rfl
@[simp] theorem Chip.signalFail_vehicleUp (c : Chip) (o : Nat) (g : Signal) : (c.signalFail o g).vehicleUp = c.vehicleUp := rfl

/-! An exception of a hart changes nothing but hartTraps. -/

@[simp] theorem Chip.trap_regs (c : Chip) (hart kind : Nat) : (c.trap hart kind).regs = c.regs := rfl
@[simp] theorem Chip.trap_mem (c : Chip) (hart kind : Nat) : (c.trap hart kind).mem = c.mem := rfl
@[simp] theorem Chip.trap_now (c : Chip) (hart kind : Nat) : (c.trap hart kind).now = c.now := rfl
@[simp] theorem Chip.trap_free (c : Chip) (hart kind : Nat) : (c.trap hart kind).free = c.free := rfl
@[simp] theorem Chip.trap_capacity (c : Chip) (hart kind : Nat) : (c.trap hart kind).capacity = c.capacity := rfl
@[simp] theorem Chip.trap_owners (c : Chip) (hart kind : Nat) : (c.trap hart kind).owners = c.owners := rfl
@[simp] theorem Chip.trap_badOwners (c : Chip) (hart kind : Nat) : (c.trap hart kind).badOwners = c.badOwners := rfl
@[simp] theorem Chip.trap_carveOut (c : Chip) (hart kind : Nat) : (c.trap hart kind).carveOut = c.carveOut := rfl
@[simp] theorem Chip.trap_validBlocks (c : Chip) (hart kind : Nat) : (c.trap hart kind).validBlocks = c.validBlocks := rfl
@[simp] theorem Chip.trap_validLines (c : Chip) (hart kind : Nat) : (c.trap hart kind).validLines = c.validLines := rfl
@[simp] theorem Chip.trap_badWords (c : Chip) (hart kind : Nat) : (c.trap hart kind).badWords = c.badWords := rfl
@[simp] theorem Chip.trap_badValid (c : Chip) (hart kind : Nat) : (c.trap hart kind).badValid = c.badValid := rfl
@[simp] theorem Chip.trap_rawBlocks (c : Chip) (hart kind : Nat) : (c.trap hart kind).rawBlocks = c.rawBlocks := rfl
@[simp] theorem Chip.trap_eccHeld (c : Chip) (hart kind : Nat) : (c.trap hart kind).eccHeld = c.eccHeld := rfl
@[simp] theorem Chip.trap_cleanLines (c : Chip) (hart kind : Nat) : (c.trap hart kind).cleanLines = c.cleanLines := rfl
@[simp] theorem Chip.trap_tiles (c : Chip) (hart kind : Nat) : (c.trap hart kind).tiles = c.tiles := rfl
@[simp] theorem Chip.trap_models (c : Chip) (hart kind : Nat) : (c.trap hart kind).models = c.models := rfl
@[simp] theorem Chip.trap_engines (c : Chip) (hart kind : Nat) : (c.trap hart kind).engines = c.engines := rfl
@[simp] theorem Chip.trap_jobs (c : Chip) (hart kind : Nat) : (c.trap hart kind).jobs = c.jobs := rfl
@[simp] theorem Chip.trap_pendingRels (c : Chip) (hart kind : Nat) : (c.trap hart kind).pendingRels = c.pendingRels := rfl
@[simp] theorem Chip.trap_jobsPast (c : Chip) (hart kind : Nat) : (c.trap hart kind).jobsPast = c.jobsPast := rfl
@[simp] theorem Chip.trap_saves (c : Chip) (hart kind : Nat) : (c.trap hart kind).saves = c.saves := rfl
@[simp] theorem Chip.trap_faulted (c : Chip) (hart kind : Nat) : (c.trap hart kind).faulted = c.faulted := rfl
@[simp] theorem Chip.trap_weir (c : Chip) (hart kind : Nat) : (c.trap hart kind).weir = c.weir := rfl
@[simp] theorem Chip.trap_cfl (c : Chip) (hart kind : Nat) : (c.trap hart kind).cfl = c.cfl := rfl
@[simp] theorem Chip.trap_ale (c : Chip) (hart kind : Nat) : (c.trap hart kind).ale = c.ale := rfl
@[simp] theorem Chip.trap_gfx (c : Chip) (hart kind : Nat) : (c.trap hart kind).gfx = c.gfx := rfl
@[simp] theorem Chip.trap_pipes (c : Chip) (hart kind : Nat) : (c.trap hart kind).pipes = c.pipes := rfl
@[simp] theorem Chip.trap_fills (c : Chip) (hart kind : Nat) : (c.trap hart kind).fills = c.fills := rfl
@[simp] theorem Chip.trap_slices (c : Chip) (hart kind : Nat) : (c.trap hart kind).slices = c.slices := rfl
@[simp] theorem Chip.trap_drains (c : Chip) (hart kind : Nat) : (c.trap hart kind).drains = c.drains := rfl
@[simp] theorem Chip.trap_destroys (c : Chip) (hart kind : Nat) : (c.trap hart kind).destroys = c.destroys := rfl
@[simp] theorem Chip.trap_dirtyLogs (c : Chip) (hart kind : Nat) : (c.trap hart kind).dirtyLogs = c.dirtyLogs := rfl
@[simp] theorem Chip.trap_sliceTags (c : Chip) (hart kind : Nat) : (c.trap hart kind).sliceTags = c.sliceTags := rfl
@[simp] theorem Chip.trap_rings (c : Chip) (hart kind : Nat) : (c.trap hart kind).rings = c.rings := rfl
@[simp] theorem Chip.trap_packets (c : Chip) (hart kind : Nat) : (c.trap hart kind).packets = c.packets := rfl
@[simp] theorem Chip.trap_nextPacket (c : Chip) (hart kind : Nat) : (c.trap hart kind).nextPacket = c.nextPacket := rfl
@[simp] theorem Chip.trap_starts (c : Chip) (hart kind : Nat) : (c.trap hart kind).starts = c.starts := rfl
@[simp] theorem Chip.trap_lastRing (c : Chip) (hart kind : Nat) : (c.trap hart kind).lastRing = c.lastRing := rfl
@[simp] theorem Chip.trap_staged (c : Chip) (hart kind : Nat) : (c.trap hart kind).staged = c.staged := rfl
@[simp] theorem Chip.trap_syncs (c : Chip) (hart kind : Nat) : (c.trap hart kind).syncs = c.syncs := rfl
@[simp] theorem Chip.trap_unitWaits (c : Chip) (hart kind : Nat) : (c.trap hart kind).unitWaits = c.unitWaits := rfl
@[simp] theorem Chip.trap_dramQueue (c : Chip) (hart kind : Nat) : (c.trap hart kind).dramQueue = c.dramQueue := rfl
@[simp] theorem Chip.trap_linkQ (c : Chip) (hart kind : Nat) : (c.trap hart kind).linkQ = c.linkQ := rfl
@[simp] theorem Chip.trap_accepted (c : Chip) (hart kind : Nat) : (c.trap hart kind).accepted = c.accepted := rfl
@[simp] theorem Chip.trap_nextReq (c : Chip) (hart kind : Nat) : (c.trap hart kind).nextReq = c.nextReq := rfl
@[simp] theorem Chip.trap_millrace (c : Chip) (hart kind : Nat) : (c.trap hart kind).millrace = c.millrace := rfl
@[simp] theorem Chip.trap_arbiters (c : Chip) (hart kind : Nat) : (c.trap hart kind).arbiters = c.arbiters := rfl
@[simp] theorem Chip.trap_predictors (c : Chip) (hart kind : Nat) : (c.trap hart kind).predictors = c.predictors := rfl
@[simp] theorem Chip.trap_returnStacks (c : Chip) (hart kind : Nat) : (c.trap hart kind).returnStacks = c.returnStacks := rfl
@[simp] theorem Chip.trap_replies (c : Chip) (hart kind : Nat) : (c.trap hart kind).replies = c.replies := rfl
@[simp] theorem Chip.trap_posted (c : Chip) (hart kind : Nat) : (c.trap hart kind).posted = c.posted := rfl
@[simp] theorem Chip.trap_err (c : Chip) (hart kind : Nat) : (c.trap hart kind).err = c.err := rfl
@[simp] theorem Chip.trap_safe (c : Chip) (hart kind : Nat) : (c.trap hart kind).safe = c.safe := rfl
@[simp] theorem Chip.trap_selfTest (c : Chip) (hart kind : Nat) : (c.trap hart kind).selfTest = c.selfTest := rfl
@[simp] theorem Chip.trap_budget (c : Chip) (hart kind : Nat) : (c.trap hart kind).budget = c.budget := rfl
@[simp] theorem Chip.trap_sluice (c : Chip) (hart kind : Nat) : (c.trap hart kind).sluice = c.sluice := rfl
@[simp] theorem Chip.trap_sent (c : Chip) (hart kind : Nat) : (c.trap hart kind).sent = c.sent := rfl
@[simp] theorem Chip.trap_twinId (c : Chip) (hart kind : Nat) : (c.trap hart kind).twinId = c.twinId := rfl
@[simp] theorem Chip.trap_flash (c : Chip) (hart kind : Nat) : (c.trap hart kind).flash = c.flash := rfl
@[simp] theorem Chip.trap_power (c : Chip) (hart kind : Nat) : (c.trap hart kind).power = c.power := rfl
@[simp] theorem Chip.trap_fw (c : Chip) (hart kind : Nat) : (c.trap hart kind).fw = c.fw := rfl
@[simp] theorem Chip.trap_link (c : Chip) (hart kind : Nat) : (c.trap hart kind).link = c.link := rfl
@[simp] theorem Chip.trap_domain (c : Chip) (hart kind : Nat) : (c.trap hart kind).domain = c.domain := rfl
@[simp] theorem Chip.trap_net (c : Chip) (hart kind : Nat) : (c.trap hart kind).net = c.net := rfl
@[simp] theorem Chip.trap_hartRd (c : Chip) (hart kind : Nat) : (c.trap hart kind).hartRd = c.hartRd := rfl
@[simp] theorem Chip.trap_hartTval (c : Chip) (hart kind : Nat) : (c.trap hart kind).hartTval = c.hartTval := rfl
@[simp] theorem Chip.trap_vehicleUp (c : Chip) (hart kind : Nat) : (c.trap hart kind).vehicleUp = c.vehicleUp := rfl

/-! Something sent changes nothing but sent. -/

@[simp] theorem Chip.send_regs (c : Chip) (w : Wire) (b : List Byte) : (c.send w b).regs = c.regs := rfl
@[simp] theorem Chip.send_mem (c : Chip) (w : Wire) (b : List Byte) : (c.send w b).mem = c.mem := rfl
@[simp] theorem Chip.send_now (c : Chip) (w : Wire) (b : List Byte) : (c.send w b).now = c.now := rfl
@[simp] theorem Chip.send_free (c : Chip) (w : Wire) (b : List Byte) : (c.send w b).free = c.free := rfl
@[simp] theorem Chip.send_capacity (c : Chip) (w : Wire) (b : List Byte) : (c.send w b).capacity = c.capacity := rfl
@[simp] theorem Chip.send_owners (c : Chip) (w : Wire) (b : List Byte) : (c.send w b).owners = c.owners := rfl
@[simp] theorem Chip.send_badOwners (c : Chip) (w : Wire) (b : List Byte) : (c.send w b).badOwners = c.badOwners := rfl
@[simp] theorem Chip.send_carveOut (c : Chip) (w : Wire) (b : List Byte) : (c.send w b).carveOut = c.carveOut := rfl
@[simp] theorem Chip.send_validBlocks (c : Chip) (w : Wire) (b : List Byte) : (c.send w b).validBlocks = c.validBlocks := rfl
@[simp] theorem Chip.send_validLines (c : Chip) (w : Wire) (b : List Byte) : (c.send w b).validLines = c.validLines := rfl
@[simp] theorem Chip.send_badWords (c : Chip) (w : Wire) (b : List Byte) : (c.send w b).badWords = c.badWords := rfl
@[simp] theorem Chip.send_badValid (c : Chip) (w : Wire) (b : List Byte) : (c.send w b).badValid = c.badValid := rfl
@[simp] theorem Chip.send_rawBlocks (c : Chip) (w : Wire) (b : List Byte) : (c.send w b).rawBlocks = c.rawBlocks := rfl
@[simp] theorem Chip.send_eccHeld (c : Chip) (w : Wire) (b : List Byte) : (c.send w b).eccHeld = c.eccHeld := rfl
@[simp] theorem Chip.send_cleanLines (c : Chip) (w : Wire) (b : List Byte) : (c.send w b).cleanLines = c.cleanLines := rfl
@[simp] theorem Chip.send_tiles (c : Chip) (w : Wire) (b : List Byte) : (c.send w b).tiles = c.tiles := rfl
@[simp] theorem Chip.send_models (c : Chip) (w : Wire) (b : List Byte) : (c.send w b).models = c.models := rfl
@[simp] theorem Chip.send_engines (c : Chip) (w : Wire) (b : List Byte) : (c.send w b).engines = c.engines := rfl
@[simp] theorem Chip.send_jobs (c : Chip) (w : Wire) (b : List Byte) : (c.send w b).jobs = c.jobs := rfl
@[simp] theorem Chip.send_pendingRels (c : Chip) (w : Wire) (b : List Byte) : (c.send w b).pendingRels = c.pendingRels := rfl
@[simp] theorem Chip.send_jobsPast (c : Chip) (w : Wire) (b : List Byte) : (c.send w b).jobsPast = c.jobsPast := rfl
@[simp] theorem Chip.send_saves (c : Chip) (w : Wire) (b : List Byte) : (c.send w b).saves = c.saves := rfl
@[simp] theorem Chip.send_faulted (c : Chip) (w : Wire) (b : List Byte) : (c.send w b).faulted = c.faulted := rfl
@[simp] theorem Chip.send_weir (c : Chip) (w : Wire) (b : List Byte) : (c.send w b).weir = c.weir := rfl
@[simp] theorem Chip.send_cfl (c : Chip) (w : Wire) (b : List Byte) : (c.send w b).cfl = c.cfl := rfl
@[simp] theorem Chip.send_ale (c : Chip) (w : Wire) (b : List Byte) : (c.send w b).ale = c.ale := rfl
@[simp] theorem Chip.send_gfx (c : Chip) (w : Wire) (b : List Byte) : (c.send w b).gfx = c.gfx := rfl
@[simp] theorem Chip.send_pipes (c : Chip) (w : Wire) (b : List Byte) : (c.send w b).pipes = c.pipes := rfl
@[simp] theorem Chip.send_fills (c : Chip) (w : Wire) (b : List Byte) : (c.send w b).fills = c.fills := rfl
@[simp] theorem Chip.send_slices (c : Chip) (w : Wire) (b : List Byte) : (c.send w b).slices = c.slices := rfl
@[simp] theorem Chip.send_drains (c : Chip) (w : Wire) (b : List Byte) : (c.send w b).drains = c.drains := rfl
@[simp] theorem Chip.send_destroys (c : Chip) (w : Wire) (b : List Byte) : (c.send w b).destroys = c.destroys := rfl
@[simp] theorem Chip.send_dirtyLogs (c : Chip) (w : Wire) (b : List Byte) : (c.send w b).dirtyLogs = c.dirtyLogs := rfl
@[simp] theorem Chip.send_sliceTags (c : Chip) (w : Wire) (b : List Byte) : (c.send w b).sliceTags = c.sliceTags := rfl
@[simp] theorem Chip.send_rings (c : Chip) (w : Wire) (b : List Byte) : (c.send w b).rings = c.rings := rfl
@[simp] theorem Chip.send_packets (c : Chip) (w : Wire) (b : List Byte) : (c.send w b).packets = c.packets := rfl
@[simp] theorem Chip.send_nextPacket (c : Chip) (w : Wire) (b : List Byte) : (c.send w b).nextPacket = c.nextPacket := rfl
@[simp] theorem Chip.send_starts (c : Chip) (w : Wire) (b : List Byte) : (c.send w b).starts = c.starts := rfl
@[simp] theorem Chip.send_lastRing (c : Chip) (w : Wire) (b : List Byte) : (c.send w b).lastRing = c.lastRing := rfl
@[simp] theorem Chip.send_staged (c : Chip) (w : Wire) (b : List Byte) : (c.send w b).staged = c.staged := rfl
@[simp] theorem Chip.send_syncs (c : Chip) (w : Wire) (b : List Byte) : (c.send w b).syncs = c.syncs := rfl
@[simp] theorem Chip.send_unitWaits (c : Chip) (w : Wire) (b : List Byte) : (c.send w b).unitWaits = c.unitWaits := rfl
@[simp] theorem Chip.send_dramQueue (c : Chip) (w : Wire) (b : List Byte) : (c.send w b).dramQueue = c.dramQueue := rfl
@[simp] theorem Chip.send_linkQ (c : Chip) (w : Wire) (b : List Byte) : (c.send w b).linkQ = c.linkQ := rfl
@[simp] theorem Chip.send_accepted (c : Chip) (w : Wire) (b : List Byte) : (c.send w b).accepted = c.accepted := rfl
@[simp] theorem Chip.send_nextReq (c : Chip) (w : Wire) (b : List Byte) : (c.send w b).nextReq = c.nextReq := rfl
@[simp] theorem Chip.send_millrace (c : Chip) (w : Wire) (b : List Byte) : (c.send w b).millrace = c.millrace := rfl
@[simp] theorem Chip.send_arbiters (c : Chip) (w : Wire) (b : List Byte) : (c.send w b).arbiters = c.arbiters := rfl
@[simp] theorem Chip.send_predictors (c : Chip) (w : Wire) (b : List Byte) : (c.send w b).predictors = c.predictors := rfl
@[simp] theorem Chip.send_returnStacks (c : Chip) (w : Wire) (b : List Byte) : (c.send w b).returnStacks = c.returnStacks := rfl
@[simp] theorem Chip.send_hartTraps (c : Chip) (w : Wire) (b : List Byte) : (c.send w b).hartTraps = c.hartTraps := rfl
@[simp] theorem Chip.send_replies (c : Chip) (w : Wire) (b : List Byte) : (c.send w b).replies = c.replies := rfl
@[simp] theorem Chip.send_posted (c : Chip) (w : Wire) (b : List Byte) : (c.send w b).posted = c.posted := rfl
@[simp] theorem Chip.send_err (c : Chip) (w : Wire) (b : List Byte) : (c.send w b).err = c.err := rfl
@[simp] theorem Chip.send_safe (c : Chip) (w : Wire) (b : List Byte) : (c.send w b).safe = c.safe := rfl
@[simp] theorem Chip.send_selfTest (c : Chip) (w : Wire) (b : List Byte) : (c.send w b).selfTest = c.selfTest := rfl
@[simp] theorem Chip.send_budget (c : Chip) (w : Wire) (b : List Byte) : (c.send w b).budget = c.budget := rfl
@[simp] theorem Chip.send_sluice (c : Chip) (w : Wire) (b : List Byte) : (c.send w b).sluice = c.sluice := rfl
@[simp] theorem Chip.send_twinId (c : Chip) (w : Wire) (b : List Byte) : (c.send w b).twinId = c.twinId := rfl
@[simp] theorem Chip.send_flash (c : Chip) (w : Wire) (b : List Byte) : (c.send w b).flash = c.flash := rfl
@[simp] theorem Chip.send_power (c : Chip) (w : Wire) (b : List Byte) : (c.send w b).power = c.power := rfl
@[simp] theorem Chip.send_fw (c : Chip) (w : Wire) (b : List Byte) : (c.send w b).fw = c.fw := rfl
@[simp] theorem Chip.send_link (c : Chip) (w : Wire) (b : List Byte) : (c.send w b).link = c.link := rfl
@[simp] theorem Chip.send_domain (c : Chip) (w : Wire) (b : List Byte) : (c.send w b).domain = c.domain := rfl
@[simp] theorem Chip.send_net (c : Chip) (w : Wire) (b : List Byte) : (c.send w b).net = c.net := rfl
@[simp] theorem Chip.send_hartRd (c : Chip) (w : Wire) (b : List Byte) : (c.send w b).hartRd = c.hartRd := rfl
@[simp] theorem Chip.send_hartTval (c : Chip) (w : Wire) (b : List Byte) : (c.send w b).hartTval = c.hartTval := rfl
@[simp] theorem Chip.send_vehicleUp (c : Chip) (w : Wire) (b : List Byte) : (c.send w b).vehicleUp = c.vehicleUp := rfl

/-! A command's change of the part leaves the queue and, for `on`, the security core's own state. -/

theorem State.on_eq (s : State) (f : Chip → Chip) : s.on f = .next { s with chip := (f s.chip).settle } := rfl

/-- Where no safety record was lost, settling changes nothing (R333). -/
@[simp] theorem Chip.settle_of_not_due (c : Chip) (h : c.err.safetyDue = false) : c.settle = c := by
  simp [Chip.settle, h]

/-- A step of a waiting command is that command on the rest of the queue. -/
theorem step_cons (s : State) (i : Instr) (rest : List Instr) (h : s.pending = i :: rest) :
    step s = exec i { s with pending := rest } := by
  simp [step, h]

end Sys2Proof.Machine
end

