-- ==== Sys2Proof/Laws/Tile.lean ====
section
/-!
SUPPORT. How computations of a tile's units run, one part after another, and what the head of a unit's queue does.
-/

namespace Sys2Proof.Machine

/-- A part that ends well hands its value on. -/
theorem TileM.run_bind_ok {α β : Type} {m : TileM α} {g : α → TileM β} {c c' : Chip} {a : α} (h : m.run c = (.ok a, c')) :
    (m >>= g).run c = (g a).run c' := by
  have h' : m c = (.ok a, c') := h
  show (ExceptT.bind m g).run c = _
  simp only [ExceptT.bind, ExceptT.mk, ExceptT.run, bind, StateT.bind]
  rw [h']
  rfl

/-- A part that faults ends the whole. -/
theorem TileM.run_bind_error {α β : Type} {m : TileM α} {g : α → TileM β} {c c' : Chip} {e : Nat} (h : m.run c = (.error e, c')) :
    (m >>= g).run c = (.error e, c') := by
  have h' : m c = (.error e, c') := h
  show (ExceptT.bind m g).run c = _
  simp only [ExceptT.bind, ExceptT.mk, ExceptT.run, bind, StateT.bind]
  rw [h']
  rfl

@[simp] theorem TileM.run_pure {α : Type} (a : α) (c : Chip) : (pure a : TileM α).run c = (.ok a, c) := rfl
@[simp] theorem TileM.run_fault {α : Type} (e : Nat) (c : Chip) : (TileM.fault e : TileM α).run c = (.error e, c) := rfl
@[simp] theorem TileM.run_change (f : Chip → Chip) (c : Chip) : (TileM.change f).run c = (.ok (), f c) := rfl
@[simp] theorem TileM.run_chip (c : Chip) : TileM.chip.run c = (.ok c, c) := rfl
@[simp] theorem TileM.run_draw (c : Chip) : TileM.draw.run c = (.ok (Config.freeValue c.free).toNat, { c with free := c.free + 1 }) := rfl

/-- Elements computed without a draw. -/
theorem vecMap_pure {f : VecOp} {fmt : Nat} {a b z : List Byte} {r : Nat → Nat} :
    ∀ (l : List Nat) (c : Chip),
      (∀ i ∈ l, ∀ c, (f fmt (elemAt fmt a i) (elemAt fmt b i) (elemAt fmt z i)).run c = (.ok (r i), c)) →
      (vecMap f fmt a b z l).run c = (.ok (l.map r), c)
  | [], _, _ => rfl
  | i :: l, c, h => by
    show ((f fmt _ _ _ >>= fun x => vecMap f fmt a b z l >>= fun xs => pure (x :: xs)) : TileM (List Nat)).run c = _
    rw [TileM.run_bind_ok (h i (by simp) c), TileM.run_bind_ok (vecMap_pure l c (fun j hj => h j (by simp [hj])))]
    rfl

/-- Elements computed with one draw each. -/
theorem vecMap_draw {f : VecOp} {fmt : Nat} {a b z : List Byte} {r : Nat → Nat → Nat} :
    ∀ (l : List Nat) (c : Chip),
      (∀ i, ∀ c : Chip, (f fmt (elemAt fmt a i) (elemAt fmt b i) (elemAt fmt z i)).run c = (.ok (r i c.free), { c with free := c.free + 1 })) →
      (vecMap f fmt a b z l).run c = (.ok ((l.zip (List.range l.length)).map (fun p => r p.1 (c.free + p.2))), { c with free := c.free + l.length })
  | [], _, _ => rfl
  | i :: l, c, h => by
    show ((f fmt _ _ _ >>= fun x => vecMap f fmt a b z l >>= fun xs => pure (x :: xs)) : TileM (List Nat)).run c = _
    rw [TileM.run_bind_ok (h i c), TileM.run_bind_ok (vecMap_draw l _ h)]
    have e : c.free + 1 + l.length = c.free + (l.length + 1) := by omega
    have m : (l.zip (List.range l.length)).map (fun p => r p.1 (c.free + 1 + p.2)) =
        (l.zip (List.range l.length)).map ((fun p => r p.1 (c.free + p.2)) ∘ Prod.map id Nat.succ) := by
      apply List.map_congr_left
      intro p _
      simp [Nat.succ_eq_add_one, Nat.add_comm, Nat.add_left_comm]
    simp only [TileM.run_pure, List.length_cons, List.range_succ_eq_map, List.zip_cons_cons, List.map_cons, Nat.add_zero,
      List.zip_map_right, List.map_map, m, e]

/-- The first `n` elements computed with one draw each. -/
theorem vecMap_draw_range {f : VecOp} {fmt : Nat} {a b z : List Byte} {r : Nat → Nat → Nat} (n : Nat) (c : Chip)
    (h : ∀ i, ∀ c : Chip, (f fmt (elemAt fmt a i) (elemAt fmt b i) (elemAt fmt z i)).run c = (.ok (r i c.free), { c with free := c.free + 1 })) :
    (vecMap f fmt a b z (List.range n)).run c = (.ok ((List.range n).map (fun i => r i (c.free + i))), { c with free := c.free + n }) := by
  rw [vecMap_draw _ c h, List.length_range]
  congr 2
  apply List.ext_getElem
  · simp
  · intro i _ _; simp

/-- R120: the head of a unit's queue issues, runs to its end, and leaves its queue. -/
theorem issueHead_ok {c c' : Chip} {n unit op : Nat} {f : TileIns → Delivered → TileM Unit} {q : TileIns} {l : List TileIns}
    (h1 : c.tileRuns n = true) (h2 : (c.tile n).queue unit = q :: l) (h3 : tiOp q.bytes = op) (h4 : c.mayIssue n q = .go)
    (h5 : (f q ((c.pop n unit l).poolData n q)).run (c.pop n unit l) = (.ok (), c')) :
    c.issueHead n unit op f = (c'.issued n q).advance n := by
  simp only [Chip.issueHead, h1, h2, h3, h4, h5]
  simp

/-- R120, R122: the head of a unit's queue issues and faults. -/
theorem issueHead_fault {c c' : Chip} {n unit op e : Nat} {f : TileIns → Delivered → TileM Unit} {q : TileIns} {l : List TileIns}
    (h1 : c.tileRuns n = true) (h2 : (c.tile n).queue unit = q :: l) (h3 : tiOp q.bytes = op) (h4 : c.mayIssue n q = .go)
    (h5 : (f q ((c.pop n unit l).poolData n q)).run (c.pop n unit l) = (.error e, c')) :
    c.issueHead n unit op f = c'.tileFault n e q.pc := by
  simp only [Chip.issueHead, h1, h2, h3, h4, h5]
  simp

end Sys2Proof.Machine
end

