-- ==== Sys2Proof/Laws/Memory.lean ====
section
/-!
SUPPORT. Laws of tables and of memory, and what "every operation keeps it" means for a property of the memory: the
predicate `Chip.Holds`, how it passes through folds, choices and the computations of a tile's units, and the operations
that write the memory.  The operations that leave it alone are in the files Kept1 to Kept4.
-/

namespace Sys2Proof.Machine

/-! ### Tables -/

theorem AMap.get?_set_self {α : Type} (m : AMap α) (k : Nat) (v : α) : AMap.get? (AMap.set m k v) k = some v := by
  induction m with
  | nil => simp [AMap.set, AMap.get?]
  | cons p m ih =>
    obtain ⟨k', w⟩ := p
    simp only [AMap.set]
    split
    · simp [AMap.get?]
    · split
      · simp [AMap.get?]
      · rename_i h1 h2
        simp only [AMap.get?, if_neg (Ne.symm h2), ih]

theorem AMap.get?_set_ne {α : Type} (m : AMap α) (k j : Nat) (v : α) (h : j ≠ k) : AMap.get? (AMap.set m k v) j = AMap.get? m j := by
  induction m with
  | nil => simp [AMap.set, AMap.get?, Ne.symm h]
  | cons p m ih =>
    obtain ⟨k', w⟩ := p
    simp only [AMap.set]
    split
    · simp [AMap.get?, Ne.symm h]
    · split
      · rename_i h1 h2; subst h2; simp [AMap.get?, Ne.symm h]
      · simp only [AMap.get?, ih]

theorem AMap.get?_del_self {α : Type} (m : AMap α) (k : Nat) : AMap.get? (AMap.del m k) k = none := by
  induction m with
  | nil => rfl
  | cons p m ih =>
    obtain ⟨k', w⟩ := p
    simp only [AMap.del, List.filter_cons] at ih ⊢
    split
    · rename_i h; simp at h; simp only [AMap.get?, if_neg h, ih]
    · exact ih

theorem AMap.get?_del_ne {α : Type} (m : AMap α) (k j : Nat) (h : j ≠ k) : AMap.get? (AMap.del m k) j = AMap.get? m j := by
  induction m with
  | nil => rfl
  | cons p m ih =>
    obtain ⟨k', w⟩ := p
    simp only [AMap.del, List.filter_cons] at ih ⊢
    split
    · simp only [AMap.get?, ih]
    · rename_i g; simp at g; subst g; simp only [AMap.get?, if_neg (Ne.symm h), ih]

/-! ### One byte of memory -/

theorem memGet_memPut_self (m : Memory) (a : Nat) (b : Byte) : memGet (memPut m a b) a = b := by
  unfold memGet memPut AMap.getD
  split
  · rename_i h; rw [AMap.get?_del_self]; exact h.symm
  · rw [AMap.get?_set_self]; rfl

theorem memGet_memPut_ne (m : Memory) (a i : Nat) (b : Byte) (h : i ≠ a) : memGet (memPut m a b) i = memGet m i := by
  unfold memGet memPut AMap.getD
  split
  · rw [AMap.get?_del_ne _ _ _ h]
  · rw [AMap.get?_set_ne _ _ _ _ h]

/-! ### The canonical form -/

theorem sortedFrom_mono {m : Memory} {a b : Nat} (h : a ≤ b) (hm : sortedFrom b m = true) : sortedFrom a m = true := by
  cases m with
  | nil => rfl
  | cons p m => simp only [sortedFrom, Bool.and_eq_true, decide_eq_true_eq] at hm ⊢; exact ⟨⟨by omega, hm.1.2⟩, hm.2⟩

theorem sortedFrom_filter {m : Memory} {lo : Nat} (f : Nat × Byte → Bool) (h : sortedFrom lo m = true) : sortedFrom lo (m.filter f) = true := by
  induction m generalizing lo with
  | nil => rfl
  | cons p m ih =>
    simp only [sortedFrom, Bool.and_eq_true, decide_eq_true_eq] at h
    rw [List.filter_cons]
    split
    · simp only [sortedFrom, Bool.and_eq_true, decide_eq_true_eq]; exact ⟨h.1, ih h.2⟩
    · exact sortedFrom_mono (by omega) (ih h.2)

theorem sortedFrom_set {m : Memory} {lo a : Nat} {b : Byte} (h : sortedFrom lo m = true) (ha : lo ≤ a) (hb : b ≠ 0) :
    sortedFrom lo (AMap.set m a b) = true := by
  induction m generalizing lo with
  | nil => simp only [AMap.set, sortedFrom, Bool.and_eq_true, decide_eq_true_eq, and_true]; exact ⟨ha, by simpa using hb⟩
  | cons p m ih =>
    obtain ⟨k, w⟩ := p
    simp only [sortedFrom, Bool.and_eq_true, decide_eq_true_eq] at h
    simp only [AMap.set]
    split
    · rename_i g
      simp only [sortedFrom, Bool.and_eq_true, decide_eq_true_eq]
      exact ⟨⟨ha, by simpa using hb⟩, ⟨by omega, h.1.2⟩, h.2⟩
    · split
      · rename_i g; subst g
        simp only [sortedFrom, Bool.and_eq_true, decide_eq_true_eq]
        exact ⟨⟨ha, by simpa using hb⟩, h.2⟩
      · simp only [sortedFrom, Bool.and_eq_true, decide_eq_true_eq]
        exact ⟨h.1, ih h.2 (by omega)⟩

theorem Memory.wf_filter {m : Memory} (f : Nat × Byte → Bool) (h : Memory.wf m = true) : Memory.wf (m.filter f) = true := sortedFrom_filter f h

/-- Writing one byte keeps the canonical form. -/
theorem memPut_wf {m : Memory} (a : Nat) (b : Byte) (h : Memory.wf m = true) : Memory.wf (memPut m a b) = true := by
  unfold memPut
  split
  · exact sortedFrom_filter _ h
  · exact sortedFrom_set h (Nat.zero_le _) ‹_›

/-- Writing bytes keeps the canonical form. -/
theorem memWrite_wf {m : Memory} (a : Nat) (b : List Byte) (h : Memory.wf m = true) : Memory.wf (memWrite m a b) = true := by
  induction b generalizing m a with
  | nil => exact h
  | cons x b ih => exact ih _ (memPut_wf a x h)

/-- Clearing a range keeps the canonical form. -/
theorem memClear_wf {m : Memory} (a b : Nat) (h : Memory.wf m = true) : Memory.wf (memClear m a b) = true := sortedFrom_filter _ h

/-! ### A property of the memory, and of the mark of a lost safety record, that operations keep -/

/-- `P` holds of the memory, and `Q` of the mark that a safety record was lost (R333). -/
structure Chip.Holds (P : Memory → Prop) (Q : Bool → Prop) (c : Chip) : Prop where
  mem : P c.mem
  due : Q c.err.safetyDue

/-- A computation of a tile's unit or of an engine that keeps both. -/
def TileM.Keeps (P : Memory → Prop) (Q : Bool → Prop) {α : Type} (m : TileM α) : Prop := ∀ c, Chip.Holds P Q c → Chip.Holds P Q (m.run c).2

/-- The canonical form, as a property. -/
def memWf (m : Memory) : Prop := Memory.wf m = true

/-- Nothing asked of the mark. -/
def anyDue (_ : Bool) : Prop := True

open Chip (Holds)

variable {P : Memory → Prop} {Q : Bool → Prop}

theorem foldl_holds {α : Type} {f : Chip → α → Chip} {l : List α} {c : Chip} (h : ∀ c x, Holds P Q c → Holds P Q (f c x)) (hc : Holds P Q c) :
    Holds P Q (l.foldl f c) := by
  induction l generalizing c with
  | nil => exact hc
  | cons x l ih => exact ih (h c x hc)

theorem foldl_snd {α β : Type} {f : β × Chip → α → β × Chip} {l : List α} {r : β × Chip} (h : ∀ r x, Holds P Q r.2 → Holds P Q (f r x).2)
    (hc : Holds P Q r.2) : Holds P Q (l.foldl f r).2 := by
  induction l generalizing r with
  | nil => exact hc
  | cons x l ih => exact ih (h r x hc)

theorem foldl_fst {α β : Type} {f : Chip × β → α → Chip × β} {l : List α} {r : Chip × β} (h : ∀ r x, Holds P Q r.1 → Holds P Q (f r x).1)
    (hc : Holds P Q r.1) : Holds P Q (l.foldl f r).1 := by
  induction l generalizing r with
  | nil => exact hc
  | cons x l ih => exact ih (h r x hc)

theorem foldl_snd2 {α β γ : Type} {f : β × γ × Chip → α → β × γ × Chip} {l : List α} {r : β × γ × Chip}
    (h : ∀ r x, Holds P Q r.2.2 → Holds P Q (f r x).2.2) (hc : Holds P Q r.2.2) : Holds P Q (l.foldl f r).2.2 := by
  induction l generalizing r with
  | nil => exact hc
  | cons x l ih => exact ih (h r x hc)

theorem foldl_part {α : Type} {f : Part → α → Part} {l : List α} {p : Part} (h : ∀ p x, Holds P Q p.chip → Holds P Q (f p x).chip)
    (hc : Holds P Q p.chip) : Holds P Q (l.foldl f p).chip := by
  induction l generalizing p with
  | nil => exact hc
  | cons x l ih => exact ih (h p x hc)

theorem ite_holds {b : Prop} [Decidable b] {x y : Chip} (hx : Holds P Q x) (hy : Holds P Q y) : Holds P Q (if b then x else y) := by
  split <;> assumption
theorem ite_part {b : Prop} [Decidable b] {x y : Part} (hx : Holds P Q x.chip) (hy : Holds P Q y.chip) : Holds P Q (if b then x else y).chip := by
  split <;> assumption
theorem ite_snd {α : Type} {b : Prop} [Decidable b] {x y : α × Chip} (hx : Holds P Q x.2) (hy : Holds P Q y.2) : Holds P Q (if b then x else y).2 := by
  split <;> assumption
theorem ite_snd2 {α β : Type} {b : Prop} [Decidable b] {x y : α × β × Chip} (hx : Holds P Q x.2.2) (hy : Holds P Q y.2.2) :
    Holds P Q (if b then x else y).2.2 := by
  split <;> assumption

theorem has_snd {α : Type} {x : α × Chip} {a : α} {c : Chip} (e : x = (a, c)) (h : Holds P Q c) : Holds P Q x.2 := by rw [e]; exact h
theorem has_snd2 {α β : Type} {x : α × β × Chip} {a : α} {b : β} {c : Chip} (e : x = (a, b, c)) (h : Holds P Q c) : Holds P Q x.2.2 := by rw [e]; exact h
theorem has_snd3 {α β γ : Type} {x : α × β × γ × Chip} {a : α} {b : β} {d : γ} {c : Chip} (e : x = (a, b, d, c)) (h : Holds P Q c) :
    Holds P Q x.2.2.2 := by rw [e]; exact h
theorem has_snd4 {α β γ δ : Type} {x : α × β × γ × δ × Chip} {a : α} {b : β} {d : γ} {e' : δ} {c : Chip} (e : x = (a, b, d, e', c)) (h : Holds P Q c) :
    Holds P Q x.2.2.2.2 := by rw [e]; exact h
theorem has_fst {α : Type} {x : Chip × α} {a : α} {c : Chip} (e : x = (c, a)) (h : Holds P Q c) : Holds P Q x.1 := by rw [e]; exact h
theorem has_chip {p : Part} {c : Chip} {s : Sec} (e : p = Part.mk c s) (h : Holds P Q c) : Holds P Q p.chip := by rw [e]; exact h
theorem of_snd {α : Type} {r : α × Chip} {a : α} {c : Chip} (e : r = (a, c)) (h : Holds P Q r.2) : Holds P Q c := by rw [e] at h; exact h
theorem of_snd2 {α β : Type} {r : α × β × Chip} {a : α} {b : β} {c : Chip} (e : r = (a, b, c)) (h : Holds P Q r.2.2) : Holds P Q c := by
  rw [e] at h; exact h
theorem of_snd3 {α β γ : Type} {r : α × β × γ × Chip} {a : α} {b : β} {d : γ} {c : Chip} (e : r = (a, b, d, c)) (h : Holds P Q r.2.2.2) : Holds P Q c := by
  rw [e] at h; exact h
theorem of_snd4 {α β γ δ : Type} {r : α × β × γ × δ × Chip} {a : α} {b : β} {d : γ} {e' : δ} {c : Chip} (e : r = (a, b, d, e', c))
    (h : Holds P Q r.2.2.2.2) : Holds P Q c := by
  rw [e] at h; exact h
theorem of_fst {α : Type} {r : Chip × α} {a : α} {c : Chip} (e : r = (c, a)) (h : Holds P Q r.1) : Holds P Q c := by rw [e] at h; exact h
theorem of_part {α : Type} {r : α × Part} {a : α} {p : Part} (e : r = (a, p)) (h : Holds P Q r.2.chip) : Holds P Q p.chip := by rw [e] at h; exact h

/-! ### The computations of units -/

open TileM (Keeps)

theorem TileM.Keeps.run {α : Type} {m : TileM α} {c : Chip} (h : Keeps P Q m) (hc : Holds P Q c) : Holds P Q (m.run c).2 := h c hc
theorem TileM.Keeps.pure {α : Type} {a : α} : Keeps P Q (pure a : TileM α) := fun _ h => h
theorem TileM.Keeps.fn {α : Type} {f : Chip → Except Nat α × Chip} (h : ∀ c, Holds P Q c → Holds P Q (f c).2) : Keeps P Q (f : TileM α) := h
theorem TileM.Keeps.bind {α β : Type} {m : TileM α} {g : α → TileM β} (h : Keeps P Q m) (hg : ∀ a, Keeps P Q (g a)) : Keeps P Q (m >>= g) := by
  intro c hc
  have h1 := h c hc
  cases e : m.run c with
  | mk r c1 =>
    rw [e] at h1
    cases r with
    | ok a => rw [TileM.run_bind_ok e]; exact hg a c1 h1
    | error x => rw [TileM.run_bind_error e]; exact h1
theorem TileM.Keeps.forIn {α : Type} {l : List α} {f : α → PUnit → TileM (ForInStep PUnit)} (h : ∀ a u, Keeps P Q (f a u)) :
    Keeps P Q (forIn l PUnit.unit f) := by
  induction l with
  | nil => exact TileM.Keeps.pure
  | cons a l ih =>
    rw [List.forIn_cons]
    apply TileM.Keeps.bind (h a _)
    intro r
    cases r with
    | done b => exact TileM.Keeps.pure
    | yield b => exact ih
theorem TileM.chip_holds : Keeps P Q TileM.chip := fun _ h => h
theorem TileM.fault_holds {α : Type} {e : Nat} : Keeps P Q (TileM.fault e : TileM α) := fun _ h => h
theorem EngM.fault_holds {α : Type} {e : Nat} : Keeps P Q (EngM.fault e : TileM α) := fun _ h => h
theorem TileM.change_holds {f : Chip → Chip} (h : ∀ c, Holds P Q c → Holds P Q (f c)) : Keeps P Q (TileM.change f) := fun c hc => h c hc
theorem TileM.draw_holds : Keeps P Q TileM.draw := fun _ h => ⟨h.mem, h.due⟩
theorem vecMap_holds {f : VecOp} {fmt : Nat} {a b z : List Byte} {l : List Nat} (h : ∀ i j k m, Keeps P Q (f i j k m)) :
    Keeps P Q (vecMap f fmt a b z l) := by
  induction l with
  | nil => exact TileM.Keeps.pure
  | cons i l ih => exact TileM.Keeps.bind (h _ _ _ _) (fun _ => TileM.Keeps.bind ih (fun _ => TileM.Keeps.pure))
theorem int32Result_holds {i : Int} : Keeps P Q (int32Result i) := by
  unfold int32Result; split
  · exact TileM.Keeps.pure
  · exact TileM.Keeps.bind TileM.draw_holds (fun _ => TileM.Keeps.pure)
theorem vecOp_holds {f : Int → Int → Int → Int} {g : FVal → FVal → FVal → FVal} {i j k m : Nat} : Keeps P Q (vecOp f g i j k m) := by
  unfold vecOp; split
  · exact int32Result_holds
  · exact TileM.Keeps.pure
theorem vecFun_holds {f : FVal → Nat → Nat} {i j k m : Nat} : Keeps P Q (vecFun f i j k m) :=
  TileM.Keeps.bind TileM.draw_holds (fun _ => TileM.Keeps.pure)

/-! ### The operations that write the memory -/

theorem Chip.markValid_mem (c : Chip) (a n : Nat) : (c.markValid a n).mem = c.mem := by
  unfold Chip.markValid; split
  · rfl
  · split <;> rfl

/-- A store writes its bytes and nothing else of the memory. -/
theorem Chip.store_mem (c : Chip) (a : Nat) (b : List Byte) : (c.store a b).mem = memWrite c.mem a b := by
  unfold Chip.store
  dsimp only
  rw [Chip.markValid_mem]
  split <;> rfl

theorem Chip.store_holds (c : Chip) (a : Nat) (b : List Byte) (hc : Holds memWf anyDue c) : Holds memWf anyDue (c.store a b) :=
  ⟨by rw [Chip.store_mem]; exact memWrite_wf a b hc.mem, trivial⟩
theorem Chip.resetDomains_holds (c : Chip) (_hc : Holds memWf anyDue c) : Holds memWf anyDue c.resetDomains := ⟨rfl, trivial⟩
theorem Chip.retain_holds (c : Chip) (hc : Holds memWf anyDue c) : Holds memWf anyDue c.retain := ⟨Memory.wf_filter _ hc.mem, trivial⟩
theorem Chip.clearBlocks_holds (c : Chip) (a b : Nat) (hc : Holds memWf anyDue c) : Holds memWf anyDue (c.clearBlocks a b) :=
  ⟨memClear_wf _ _ hc.mem, trivial⟩
theorem Chip.clearLines_holds (c : Chip) (a b : Nat) (hc : Holds memWf anyDue c) : Holds memWf anyDue (c.clearLines a b) :=
  ⟨memClear_wf _ _ hc.mem, trivial⟩

end Sys2Proof.Machine
end

