-- ==== Sys2Proof/Laws/Kept1.lean ====
section
/-!
SUPPORT. What every operation of the part keeps, 1 of 4: one that stores nothing keeps any property `P` of the memory and
any `Q` of the mark of a lost safety record; one that may store keeps the canonical form of the memory.  Each is proved from
those of the operations it calls.
-/

namespace Sys2Proof.Machine

open Chip (Holds)

variable {P : Memory → Prop} {Q : Bool → Prop}

theorem Chip.setReg_holds (c : Chip) (a : Reg) (b : Nat) (hc : Holds P Q c) : Holds P Q (Chip.setReg c a b) := by
  conv in (Chip.setReg c a b) => (unfold Chip.setReg; try dsimp only)
  repeat' (first | with_reducible assumption | (refine ⟨?_, ?_⟩ <;> (dsimp only; first | exact trivial | with_reducible apply Chip.Holds.mem (Q := Q) | with_reducible apply Chip.Holds.due (P := P))))
theorem Chip.setFld_holds (c : Chip) (a : Reg) (b : Fld) (e : Nat) (hc : Holds P Q c) : Holds P Q (Chip.setFld c a b e) := by
  conv in (Chip.setFld c a b e) => (unfold Chip.setFld; try dsimp only)
  repeat' (first | with_reducible assumption | with_reducible apply Chip.setReg_holds)
theorem Chip.count_holds (c : Chip) (a : Reg) (b : Fld) (e : Nat) (hc : Holds P Q c) : Holds P Q (Chip.count c a b e) := by
  conv in (Chip.count c a b e) => (unfold Chip.count; try dsimp only)
  repeat' (first | with_reducible assumption | with_reducible apply Chip.setFld_holds)
theorem Chip.setEngState_holds (c : Chip) (a : Nat) (b : Nat) (e : Nat) (hc : Holds P Q c) : Holds P Q (Chip.setEngState c a b e) := by
  conv in (Chip.setEngState c a b e) => (unfold Chip.setEngState; try dsimp only)
  repeat' (first | with_reducible assumption | with_reducible apply Chip.setFld_holds)
theorem Chip.freeEngine_holds (c : Chip) (a : Nat × Nat × Nat) (hc : Holds P Q c) : Holds P Q (Chip.freeEngine c a) := by
  conv in (Chip.freeEngine c a) => (unfold Chip.freeEngine; try dsimp only)
  repeat' (first | with_reducible assumption | with_reducible apply Chip.setEngState_holds | (refine ⟨?_, ?_⟩ <;> (dsimp only; first | exact trivial | with_reducible apply Chip.Holds.mem (Q := Q) | with_reducible apply Chip.Holds.due (P := P))))
theorem Chip.rillIdle_holds (c : Chip) (a : Nat) (b : Nat) (hc : Holds P Q c) : Holds P Q (Chip.rillIdle c a b) := by
  conv in (Chip.rillIdle c a b) => (unfold Chip.rillIdle; try dsimp only)
  repeat' (first | with_reducible assumption | with_reducible apply Chip.setFld_holds | with_reducible apply Chip.setReg_holds | with_reducible refine ite_holds ?_ ?_)
theorem Chip.setBusy_holds (c : Chip) (a : Nat) (b : Bool) (hc : Holds P Q c) : Holds P Q (Chip.setBusy c a b) := by
  conv in (Chip.setBusy c a b) => (unfold Chip.setBusy; try dsimp only)
  repeat' (first | with_reducible assumption | with_reducible apply Chip.setFld_holds)
theorem Chip.setTileState_holds (c : Chip) (a : Nat) (b : Nat) (hc : Holds P Q c) : Holds P Q (Chip.setTileState c a b) := by
  conv in (Chip.setTileState c a b) => (unfold Chip.setTileState; try dsimp only)
  repeat' (first | with_reducible assumption | with_reducible apply Chip.setFld_holds)
theorem Chip.groupLost_holds (c : Chip) (g : Nat) (hc : Holds memWf anyDue c) : Holds memWf anyDue (c.groupLost g) := by
  unfold Chip.groupLost
  dsimp only
  exact foldl_holds (fun c x h => Chip.setTileState_holds _ _ _ (Chip.setReg_holds _ _ _ h)) ⟨memClear_wf _ _ hc.mem, trivial⟩
theorem Chip.showQueue_holds (c : Chip) (a : Nat) (hc : Holds P Q c) : Holds P Q (Chip.showQueue c a) := by
  conv in (Chip.showQueue c a) => (unfold Chip.showQueue; try dsimp only)
  repeat' (first | with_reducible assumption | with_reducible apply Chip.setReg_holds)
theorem Chip.freeTile_holds (c : Chip) (a : Nat) (hc : Holds P Q c) : Holds P Q (Chip.freeTile c a) := by
  conv in (Chip.freeTile c a) => (unfold Chip.freeTile; try dsimp only)
  repeat' (first | with_reducible assumption | with_reducible apply Chip.rillIdle_holds | with_reducible apply Chip.setBusy_holds | with_reducible apply Chip.setTileState_holds | with_reducible apply Chip.showQueue_holds | with_reducible apply foldl_holds | (refine ⟨?_, ?_⟩ <;> (dsimp only; first | exact trivial | with_reducible apply Chip.Holds.mem (Q := Q) | with_reducible apply Chip.Holds.due (P := P))) | with_reducible intro _)
theorem Chip.updJob_holds (c : Chip) (a : Nat) (b : Job → Job) (hc : Holds P Q c) : Holds P Q (Chip.updJob c a b) := by
  conv in (Chip.updJob c a b) => (unfold Chip.updJob; try dsimp only)
  repeat' (first | with_reducible assumption | (refine ⟨?_, ?_⟩ <;> (dsimp only; first | exact trivial | with_reducible apply Chip.Holds.mem (Q := Q) | with_reducible apply Chip.Holds.due (P := P))))
theorem Chip.freeChan_holds (c : Chip) (a : Nat) (b : Nat) (hc : Holds P Q c) : Holds P Q (Chip.freeChan c a b) := by
  conv in (Chip.freeChan c a b) => (unfold Chip.freeChan; try dsimp only)
  repeat' (first | with_reducible assumption | with_reducible apply Chip.freeEngine_holds | with_reducible apply Chip.freeTile_holds | with_reducible apply Chip.updJob_holds | with_reducible apply foldl_holds | with_reducible refine ite_holds ?_ ?_ | split)
theorem Chip.freeJob_holds (c : Chip) (a : Nat) (hc : Holds P Q c) : Holds P Q (Chip.freeJob c a) := by
  conv in (Chip.freeJob c a) => (unfold Chip.freeJob; try dsimp only)
  repeat' (first | with_reducible assumption | with_reducible apply Chip.freeChan_holds | with_reducible apply foldl_holds | split | with_reducible intro _)
theorem Chip.updPacket_holds (c : Chip) (a : Nat) (b : Packet → Packet) (hc : Holds P Q c) : Holds P Q (Chip.updPacket c a b) := by
  conv in (Chip.updPacket c a b) => (unfold Chip.updPacket; try dsimp only)
  repeat' (first | with_reducible assumption | (refine ⟨?_, ?_⟩ <;> (dsimp only; first | exact trivial | with_reducible apply Chip.Holds.mem (Q := Q) | with_reducible apply Chip.Holds.due (P := P))))
theorem Chip.finish_holds (c : Chip) (a : Nat) (b : Nat) (e : Nat) (f : Nat) (hc : Holds P Q c) : Holds P Q (Chip.finish c a b e f) := by
  conv in (Chip.finish c a b e f) => (unfold Chip.finish; try dsimp only)
  repeat' (first | with_reducible assumption | with_reducible apply Chip.updPacket_holds)
theorem Chip.jobPacket_holds (c : Chip) (a : Job) (b : Nat) (e : Nat) (f : Nat) (hc : Holds P Q c) : Holds P Q (Chip.jobPacket c a b e f) := by
  conv in (Chip.jobPacket c a b e f) => (unfold Chip.jobPacket; try dsimp only)
  repeat' (first | with_reducible assumption | with_reducible apply Chip.finish_holds | with_reducible refine ite_holds ?_ ?_)
theorem Chip.sluiceRegs_holds (c : Chip) (hc : Holds P Q c) : Holds P Q (Chip.sluiceRegs c) := by
  conv in (Chip.sluiceRegs c) => (unfold Chip.sluiceRegs; try dsimp only)
  repeat' (first | with_reducible assumption | with_reducible apply Chip.setFld_holds | with_reducible apply Chip.setReg_holds | with_reducible apply foldl_holds | with_reducible intro _)
theorem Chip.grantPart_holds (c : Chip) (a : Units) (hc : Holds P Q c) : Holds P Q (Chip.grantPart c a) := by
  conv in (Chip.grantPart c a) => (unfold Chip.grantPart; try dsimp only)
  repeat' (first | with_reducible assumption | (refine ⟨?_, ?_⟩ <;> (dsimp only; first | exact trivial | with_reducible apply Chip.Holds.mem (Q := Q) | with_reducible apply Chip.Holds.due (P := P))))
theorem Chip.grantReq_holds (c : Chip) (a : SluiceReq) (hc : Holds P Q c) : Holds P Q (Chip.grantReq c a) := by
  conv in (Chip.grantReq c a) => (unfold Chip.grantReq; try dsimp only)
  repeat' (first | with_reducible assumption | with_reducible apply Chip.count_holds | with_reducible apply Chip.grantPart_holds | with_reducible apply Chip.setReg_holds | with_reducible apply foldl_holds)
theorem Chip.takeWaiting_holds (a : List SluiceReq) (b : List SluiceReq) (c : Chip) (hc : Holds P Q c) : Holds P Q (Chip.takeWaiting a b c).2 := by
  induction a generalizing b c with
  | nil =>
    conv in Chip.takeWaiting _ _ _ => (unfold Chip.takeWaiting; try dsimp only)
    repeat' (first | with_reducible assumption | fail | with_reducible apply Chip.grantReq_holds | with_reducible refine ite_snd ?_ ?_)
  | cons x l ih =>
    conv in Chip.takeWaiting _ _ _ => (unfold Chip.takeWaiting; try dsimp only)
    repeat' (first | with_reducible assumption | with_reducible apply ih | with_reducible apply Chip.grantReq_holds | with_reducible refine ite_snd ?_ ?_)
theorem Chip.sluiceServe_holds (c : Chip) (hc : Holds P Q c) : Holds P Q (Chip.sluiceServe c) := by
  conv in (Chip.sluiceServe c) => (unfold Chip.sluiceServe; try dsimp only)
  repeat' (first | with_reducible assumption | with_reducible apply Chip.sluiceRegs_holds | with_reducible apply Chip.takeWaiting_holds | (refine ⟨?_, ?_⟩ <;> (dsimp only; first | exact trivial | with_reducible apply Chip.Holds.mem (Q := Q) | with_reducible apply Chip.Holds.due (P := P))))
theorem Chip.giveBack_holds (c : Chip) (a : Asker) (hc : Holds P Q c) : Holds P Q (Chip.giveBack c a) := by
  conv in (Chip.giveBack c a) => (unfold Chip.giveBack; try dsimp only)
  repeat' (first | with_reducible assumption | with_reducible apply Chip.sluiceServe_holds | with_reducible refine ite_holds ?_ ?_ | (refine ⟨?_, ?_⟩ <;> (dsimp only; first | exact trivial | with_reducible apply Chip.Holds.mem (Q := Q) | with_reducible apply Chip.Holds.due (P := P))))
theorem Chip.jobEnded_holds (c : Chip) (a : Nat) (b : Nat) (e : Nat) (f : Nat) (hc : Holds P Q c) : Holds P Q (Chip.jobEnded c a b e f) := by
  conv in (Chip.jobEnded c a b e f) => (unfold Chip.jobEnded; try dsimp only)
  repeat' (first | with_reducible assumption | (refine ⟨?_, ?_⟩ <;> (dsimp only; first | exact trivial | with_reducible apply Chip.Holds.mem (Q := Q) | with_reducible apply Chip.Holds.due (P := P))))
theorem Chip.eventLost_holds (c : Chip) (a : Nat) (hc : Holds P Q c) : Holds P Q (Chip.eventLost c a) := by
  conv in (Chip.eventLost c a) => (unfold Chip.eventLost; try dsimp only)
  repeat' (first | with_reducible assumption | with_reducible apply Chip.count_holds | with_reducible apply Chip.setReg_holds | with_reducible refine ite_holds ?_ ?_)
theorem Chip.errWrite_holds (c : Chip) (a : ErrRec) (hc : Holds memWf anyDue c) : Holds memWf anyDue (Chip.errWrite c a) := by
  conv in (Chip.errWrite c a) => (unfold Chip.errWrite; try dsimp only)
  repeat' (first | with_reducible assumption | with_reducible apply Chip.count_holds | with_reducible apply Chip.setReg_holds | with_reducible apply Chip.store_holds | with_reducible refine ite_holds ?_ ?_ | (refine ⟨?_, ?_⟩ <;> (dsimp only; first | exact trivial | with_reducible apply Chip.Holds.mem (Q := anyDue) | with_reducible apply Chip.Holds.due (P := memWf))) | split)
theorem Chip.errDrain_holds (a : List ErrRec) (c : Chip) (hc : Holds memWf anyDue c) : Holds memWf anyDue (Chip.errDrain a c) := by
  induction a generalizing c with
  | nil =>
    conv in Chip.errDrain _ _ => (unfold Chip.errDrain; try dsimp only)
    repeat' (first | with_reducible assumption | fail | with_reducible apply Chip.errWrite_holds | with_reducible refine ite_holds ?_ ?_ | (refine ⟨?_, ?_⟩ <;> (dsimp only; first | exact trivial | with_reducible apply Chip.Holds.mem (Q := anyDue) | with_reducible apply Chip.Holds.due (P := memWf))))
  | cons x l ih =>
    conv in Chip.errDrain _ _ => (unfold Chip.errDrain; try dsimp only)
    repeat' (first | with_reducible assumption | with_reducible apply ih | with_reducible apply Chip.errWrite_holds | with_reducible refine ite_holds ?_ ?_ | (refine ⟨?_, ?_⟩ <;> (dsimp only; first | exact trivial | with_reducible apply Chip.Holds.mem (Q := anyDue) | with_reducible apply Chip.Holds.due (P := memWf))))
theorem Chip.errOverflow_holds (c : Chip) (hc : Holds memWf anyDue c) : Holds memWf anyDue (Chip.errOverflow c) := by
  conv in (Chip.errOverflow c) => (unfold Chip.errOverflow; try dsimp only)
  repeat' (first | with_reducible assumption | with_reducible apply Chip.errWrite_holds | with_reducible apply Chip.setReg_holds | with_reducible apply foldl_holds | with_reducible refine ite_holds ?_ ?_ | (refine ⟨?_, ?_⟩ <;> (dsimp only; first | exact trivial | with_reducible apply Chip.Holds.mem (Q := anyDue) | with_reducible apply Chip.Holds.due (P := memWf))) | with_reducible intro _)
theorem Chip.errStatus_holds (c : Chip) (hc : Holds P Q c) : Holds P Q (Chip.errStatus c) := by
  conv in (Chip.errStatus c) => (unfold Chip.errStatus; try dsimp only)
  repeat' (first | with_reducible assumption | with_reducible apply Chip.setFld_holds)
theorem Chip.errService_holds (c : Chip) (hc : Holds memWf anyDue c) : Holds memWf anyDue (Chip.errService c) := by
  conv in (Chip.errService c) => (unfold Chip.errService; try dsimp only)
  repeat' (first | with_reducible assumption | with_reducible apply Chip.errDrain_holds | with_reducible apply Chip.errOverflow_holds | with_reducible apply Chip.errStatus_holds | with_reducible refine ite_holds ?_ ?_)
theorem Chip.error_holds (c : Chip) (a : ErrRec) (hc : Holds memWf anyDue c) : Holds memWf anyDue (Chip.error c a) := by
  conv in (Chip.error c a) => (unfold Chip.error; try dsimp only)
  repeat' (first | with_reducible assumption | with_reducible apply Chip.count_holds | with_reducible apply Chip.errService_holds | with_reducible apply Chip.errStatus_holds | with_reducible apply Chip.errWrite_holds | with_reducible apply Chip.setFld_holds | with_reducible refine ite_holds ?_ ?_ | (refine ⟨?_, ?_⟩ <;> (dsimp only; first | exact trivial | with_reducible apply Chip.Holds.mem (Q := anyDue) | with_reducible apply Chip.Holds.due (P := memWf))))
theorem Chip.denied_holds (c : Chip) (a : Req) (b : Deny) (e : Nat) (hc : Holds memWf anyDue c) : Holds memWf anyDue (Chip.denied c a b e) := by
  conv in (Chip.denied c a b e) => (unfold Chip.denied; try dsimp only)
  repeat' (first | with_reducible assumption | with_reducible apply Chip.count_holds | with_reducible apply Chip.error_holds | with_reducible refine ite_holds ?_ ?_)
theorem Chip.logRange_holds (c : Chip) (a : Nat) (b : Nat) (e : Nat) (hc : Holds memWf anyDue c) : Holds memWf anyDue (Chip.logRange c a b e) := by
  conv in (Chip.logRange c a b e) => (unfold Chip.logRange; try dsimp only)
  repeat' (first | with_reducible assumption | with_reducible apply Chip.store_holds | with_reducible apply foldl_holds | with_reducible refine ite_holds ?_ ?_ | split | with_reducible intro _)
theorem Chip.endFill_holds (c : Chip) (a : Nat) (hc : Holds memWf anyDue c) : Holds memWf anyDue (Chip.endFill c a) := by
  conv in (Chip.endFill c a) => (unfold Chip.endFill; try dsimp only)
  repeat' (first | with_reducible assumption | with_reducible apply Chip.count_holds | with_reducible apply Chip.logRange_holds | with_reducible apply Chip.store_holds | with_reducible apply foldl_holds | (refine ⟨?_, ?_⟩ <;> (dsimp only; first | exact trivial | with_reducible apply Chip.Holds.mem (Q := anyDue) | with_reducible apply Chip.Holds.due (P := memWf))) | split | with_reducible intro _)
theorem Chip.setMrc_holds (c : Chip) (a : Nat) (b : Millrace) (hc : Holds P Q c) : Holds P Q (Chip.setMrc c a b) := by
  conv in (Chip.setMrc c a b) => (unfold Chip.setMrc; try dsimp only)
  repeat' (first | with_reducible assumption | (refine ⟨?_, ?_⟩ <;> (dsimp only; first | exact trivial | with_reducible apply Chip.Holds.mem (Q := Q) | with_reducible apply Chip.Holds.due (P := P))))
theorem Chip.takeTokens_holds (c : Chip) (a : Nat) (b : Nat) (e : Nat) (f : Nat) (hc : Holds P Q c) : Holds P Q (Chip.takeTokens c a b e f) := by
  conv in (Chip.takeTokens c a b e f) => (unfold Chip.takeTokens; try dsimp only)
  repeat' (first | with_reducible assumption | with_reducible apply Chip.count_holds | with_reducible apply Chip.setMrc_holds | with_reducible refine ite_holds ?_ ?_)
theorem Chip.fillRuns_holds (c : Chip) (a : Fill) (hc : Holds memWf anyDue c) : Holds memWf anyDue (Chip.fillRuns c a) := by
  conv in (Chip.fillRuns c a) => (unfold Chip.fillRuns; try dsimp only)
  repeat' (first | with_reducible assumption | with_reducible apply Chip.count_holds | with_reducible apply Chip.endFill_holds | with_reducible apply Chip.takeTokens_holds)
theorem Chip.awaitFills_holds (c : Chip) (a : Nat) (b : Nat) (hc : Holds memWf anyDue c) : Holds memWf anyDue (Chip.awaitFills c a b) := by
  conv in (Chip.awaitFills c a b) => (unfold Chip.awaitFills; try dsimp only)
  repeat' (first | with_reducible assumption | with_reducible apply Chip.fillRuns_holds | with_reducible apply foldl_holds | with_reducible refine ite_holds ?_ ?_)
theorem Chip.fillFor_holds (c : Chip) (a : Nat) (b : Nat) (e : Nat) (f : Nat) (hc : Holds memWf anyDue c) : Holds memWf anyDue (Chip.fillFor c a b e f) := by
  conv in (Chip.fillFor c a b e f) => (unfold Chip.fillFor; try dsimp only)
  repeat' (first | with_reducible assumption | with_reducible apply Chip.fillRuns_holds | with_reducible apply foldl_holds | with_reducible refine ite_holds ?_ ?_ | (refine ⟨?_, ?_⟩ <;> (dsimp only; first | exact trivial | with_reducible apply Chip.Holds.mem (Q := anyDue) | with_reducible apply Chip.Holds.due (P := memWf))) | split | with_reducible intro _)
theorem Chip.validLost_holds (c : Chip) (a : Nat) (hc : Holds memWf anyDue c) : Holds memWf anyDue (Chip.validLost c a) := by
  conv in (Chip.validLost c a) => (unfold Chip.validLost; try dsimp only)
  repeat' (first | with_reducible assumption | with_reducible apply Chip.count_holds | with_reducible apply Chip.error_holds | (refine ⟨?_, ?_⟩ <;> (dsimp only; first | exact trivial | with_reducible apply Chip.Holds.mem (Q := anyDue) | with_reducible apply Chip.Holds.due (P := memWf))))
theorem Chip.lookValid_holds (c : Chip) (a : Nat) (b : Nat) (hc : Holds memWf anyDue c) : Holds memWf anyDue (Chip.lookValid c a b) := by
  conv in (Chip.lookValid c a b) => (unfold Chip.lookValid; try dsimp only)
  repeat' (first | with_reducible assumption | with_reducible apply Chip.validLost_holds | with_reducible apply foldl_holds | with_reducible refine ite_holds ?_ ?_)
theorem Chip.memRecord_holds (c : Chip) (a : Nat) (b : Nat) (e : Req) (hc : Holds memWf anyDue c) : Holds memWf anyDue (Chip.memRecord c a b e) := by
  conv in (Chip.memRecord c a b e) => (unfold Chip.memRecord; try dsimp only)
  repeat' (first | with_reducible assumption | with_reducible apply Chip.error_holds)
theorem Chip.bridgeError_holds (c : Chip) (a : Req) (b : Nat) (hc : Holds memWf anyDue c) : Holds memWf anyDue (Chip.bridgeError c a b) := by
  conv in (Chip.bridgeError c a b) => (unfold Chip.bridgeError; try dsimp only)
  repeat' (first | with_reducible assumption | with_reducible apply Chip.count_holds | with_reducible apply Chip.error_holds)
theorem Chip.gatedError_holds (c : Chip) (a : Req) (b : Nat) (hc : Holds memWf anyDue c) : Holds memWf anyDue (Chip.gatedError c a b) := by
  conv in (Chip.gatedError c a b) => (unfold Chip.gatedError; try dsimp only)
  repeat' (first | with_reducible assumption | with_reducible apply Chip.error_holds)
theorem Chip.saveRegs_holds (c : Chip) (a : Req) (b : Nat) (e : List Byte) (hc : Holds memWf anyDue c) : Holds memWf anyDue (Chip.saveRegs c a b e).2 := by
  conv in (Chip.saveRegs c a b e) => (unfold Chip.saveRegs; try dsimp only)
  repeat' (first | with_reducible assumption | with_reducible apply Chip.bridgeError_holds | with_reducible apply Chip.gatedError_holds | with_reducible refine ite_snd ?_ ?_ | (with_reducible refine has_snd rfl ?_; first | with_reducible assumption | with_reducible apply Chip.bridgeError_holds | with_reducible apply Chip.gatedError_holds | with_reducible refine ite_snd ?_ ?_ | (refine ⟨?_, ?_⟩ <;> (dsimp only; first | exact trivial | with_reducible apply Chip.Holds.mem (Q := anyDue) | with_reducible apply Chip.Holds.due (P := memWf)))) | (refine ⟨?_, ?_⟩ <;> (dsimp only; first | exact trivial | with_reducible apply Chip.Holds.mem (Q := anyDue) | with_reducible apply Chip.Holds.due (P := memWf))))
theorem Chip.sector_holds (c : Chip) (a : Nat) (b : Nat) (e : Nat) (hc : Holds P Q c) : Holds P Q (Chip.sector c a b e) := by
  conv in (Chip.sector c a b e) => (unfold Chip.sector; try dsimp only)
  repeat' (first | with_reducible assumption | with_reducible apply Chip.count_holds | with_reducible apply Chip.setMrc_holds | with_reducible apply Chip.takeTokens_holds | with_reducible refine ite_holds ?_ ?_)
theorem Chip.sectors_holds (c : Chip) (a : Nat) (b : Nat) (e : Nat) (f : Nat) (hc : Holds P Q c) : Holds P Q (Chip.sectors c a b e f) := by
  conv in (Chip.sectors c a b e f) => (unfold Chip.sectors; try dsimp only)
  repeat' (first | with_reducible assumption | with_reducible apply Chip.sector_holds | with_reducible apply foldl_holds | with_reducible intro _)
theorem Chip.writeSectors_holds (c : Chip) (a : Req) (hc : Holds P Q c) : Holds P Q (Chip.writeSectors c a) := by
  conv in (Chip.writeSectors c a) => (unfold Chip.writeSectors; try dsimp only)
  repeat' (first | with_reducible assumption | with_reducible apply Chip.sectors_holds | with_reducible refine ite_holds ?_ ?_)
theorem Chip.saveServed_holds (c : Chip) (a : Req) (b : List Byte) (hc : Holds memWf anyDue c) : Holds memWf anyDue (Chip.saveServed c a b).2 := by
  conv in (Chip.saveServed c a b) => (unfold Chip.saveServed; try dsimp only)
  repeat' (first | with_reducible assumption | with_reducible apply Chip.awaitFills_holds | with_reducible apply Chip.fillFor_holds | with_reducible apply Chip.logRange_holds | with_reducible apply Chip.lookValid_holds | with_reducible apply Chip.memRecord_holds | with_reducible apply Chip.saveRegs_holds | with_reducible apply Chip.store_holds | with_reducible apply Chip.writeSectors_holds | with_reducible refine ite_holds ?_ ?_ | with_reducible refine ite_snd ?_ ?_ | (with_reducible refine has_snd rfl ?_; first | with_reducible assumption | with_reducible apply Chip.awaitFills_holds | with_reducible apply Chip.fillFor_holds | with_reducible apply Chip.logRange_holds | with_reducible apply Chip.lookValid_holds | with_reducible apply Chip.memRecord_holds | with_reducible apply Chip.saveRegs_holds | with_reducible apply Chip.store_holds | with_reducible apply Chip.writeSectors_holds | with_reducible refine ite_holds ?_ ?_ | with_reducible refine ite_snd ?_ ?_) | split)
theorem Chip.save_holds (c : Chip) (a : Req) (b : List Byte) (hc : Holds memWf anyDue c) : Holds memWf anyDue (Chip.save c a b).2 := by
  conv in (Chip.save c a b) => (unfold Chip.save; try dsimp only)
  repeat' (first | with_reducible assumption | with_reducible apply Chip.denied_holds | with_reducible apply Chip.saveServed_holds | (with_reducible refine has_snd rfl ?_; first | with_reducible assumption | with_reducible apply Chip.denied_holds | with_reducible apply Chip.saveServed_holds) | split)
theorem Chip.msi_holds (c : Chip) (a : Nat) (b : Nat) (e : Nat) (hc : Holds memWf anyDue c) : Holds memWf anyDue (Chip.msi c a b e) := by
  conv in (Chip.msi c a b e) => (unfold Chip.msi; try dsimp only)
  repeat' (first | with_reducible assumption | with_reducible apply Chip.save_holds)
theorem Chip.eventPut_holds (c : Chip) (a : Nat) (b : Nat) (e : Nat) (f : Nat) (g : Nat) (i : Nat) (hc : Holds memWf anyDue c) : Holds memWf anyDue (Chip.eventPut c a b e f g i) := by
  conv in (Chip.eventPut c a b e f g i) => (unfold Chip.eventPut; try dsimp only)
  repeat' (first | with_reducible assumption | with_reducible apply Chip.eventLost_holds | with_reducible apply Chip.msi_holds | with_reducible apply Chip.save_holds | with_reducible apply Chip.setReg_holds | with_reducible refine of_snd (by assumption) ?_ | with_reducible refine ite_holds ?_ ?_ | split)
theorem Chip.event_holds (c : Chip) (a : Nat) (b : Nat) (e : Nat) (f : Nat) (g : Nat) (i : Nat) (hc : Holds memWf anyDue c) : Holds memWf anyDue (Chip.event c a b e f g i) := by
  conv in (Chip.event c a b e f g i) => (unfold Chip.event; try dsimp only)
  repeat' (first | with_reducible assumption | with_reducible apply Chip.eventLost_holds | with_reducible apply Chip.eventPut_holds | with_reducible refine ite_holds ?_ ?_)
theorem Chip.deferredDone_holds (c : Chip) (a : Nat) (b : List (Nat × Nat)) (hc : Holds memWf anyDue c) : Holds memWf anyDue (Chip.deferredDone c a b) := by
  conv in (Chip.deferredDone c a b) => (unfold Chip.deferredDone; try dsimp only)
  repeat' (first | with_reducible assumption | with_reducible apply Chip.event_holds | with_reducible apply foldl_holds | with_reducible intro _)
theorem Chip.mcRegs_holds (c : Chip) (a : Nat) (hc : Holds P Q c) : Holds P Q (Chip.mcRegs c a) := by
  conv in (Chip.mcRegs c a) => (unfold Chip.mcRegs; try dsimp only)
  repeat' (first | with_reducible assumption | with_reducible apply Chip.setReg_holds)
theorem Chip.updModel_holds (c : Chip) (a : Nat) (b : Model → Model) (hc : Holds P Q c) : Holds P Q (Chip.updModel c a b) := by
  conv in (Chip.updModel c a b) => (unfold Chip.updModel; try dsimp only)
  repeat' (first | with_reducible assumption | (refine ⟨?_, ?_⟩ <;> (dsimp only; first | exact trivial | with_reducible apply Chip.Holds.mem (Q := Q) | with_reducible apply Chip.Holds.due (P := P))) | split)
theorem Chip.evict_holds (c : Chip) (a : Nat) (b : Nat) (hc : Holds memWf anyDue c) : Holds memWf anyDue (Chip.evict c a b) := by
  conv in (Chip.evict c a b) => (unfold Chip.evict; try dsimp only)
  repeat' (first | with_reducible assumption | with_reducible apply Chip.count_holds | with_reducible apply Chip.event_holds | with_reducible apply Chip.mcRegs_holds | with_reducible apply Chip.updModel_holds | split)
theorem Chip.jobLeft_holds (c : Chip) (a : Nat) (hc : Holds memWf anyDue c) : Holds memWf anyDue (Chip.jobLeft c a) := by
  conv in (Chip.jobLeft c a) => (unfold Chip.jobLeft; try dsimp only)
  repeat' (first | with_reducible assumption | with_reducible apply Chip.deferredDone_holds | with_reducible apply Chip.evict_holds | with_reducible apply Chip.mcRegs_holds | with_reducible apply Chip.updModel_holds | with_reducible refine ite_holds ?_ ?_ | (refine ⟨?_, ?_⟩ <;> (dsimp only; first | exact trivial | with_reducible apply Chip.Holds.mem (Q := anyDue) | with_reducible apply Chip.Holds.due (P := memWf))) | split)
theorem Chip.showJobs_holds (c : Chip) (a : Nat) (hc : Holds P Q c) : Holds P Q (Chip.showJobs c a) := by
  conv in (Chip.showJobs c a) => (unfold Chip.showJobs; try dsimp only)
  repeat' (first | with_reducible assumption | with_reducible apply Chip.setFld_holds)
theorem Chip.withdraw_holds (c : Chip) (a : Asker) (hc : Holds P Q c) : Holds P Q (Chip.withdraw c a) := by
  conv in (Chip.withdraw c a) => (unfold Chip.withdraw; try dsimp only)
  repeat' (first | with_reducible assumption | with_reducible apply Chip.sluiceServe_holds | with_reducible refine ite_holds ?_ ?_ | (refine ⟨?_, ?_⟩ <;> (dsimp only; first | exact trivial | with_reducible apply Chip.Holds.mem (Q := Q) | with_reducible apply Chip.Holds.due (P := P))))
theorem Chip.removeJob_holds (c : Chip) (a : Nat) (hc : Holds memWf anyDue c) : Holds memWf anyDue (Chip.removeJob c a) := by
  conv in (Chip.removeJob c a) => (unfold Chip.removeJob; try dsimp only)
  repeat' (first | with_reducible assumption | with_reducible apply Chip.finish_holds | with_reducible apply Chip.freeJob_holds | with_reducible apply Chip.giveBack_holds | with_reducible apply Chip.jobEnded_holds | with_reducible apply Chip.jobLeft_holds | with_reducible apply Chip.showJobs_holds | with_reducible apply Chip.withdraw_holds | with_reducible apply foldl_holds | with_reducible refine ite_holds ?_ ?_ | (refine ⟨?_, ?_⟩ <;> (dsimp only; first | exact trivial | with_reducible apply Chip.Holds.mem (Q := anyDue) | with_reducible apply Chip.Holds.due (P := memWf))) | split | with_reducible intro _)
theorem Chip.endJob_holds (c : Chip) (a : Nat) (b : Nat) (e : Nat) (hc : Holds memWf anyDue c) : Holds memWf anyDue (Chip.endJob c a b e) := by
  conv in (Chip.endJob c a b e) => (unfold Chip.endJob; try dsimp only)
  repeat' (first | with_reducible assumption | with_reducible apply Chip.count_holds | with_reducible apply Chip.freeJob_holds | with_reducible apply Chip.jobPacket_holds | with_reducible apply Chip.removeJob_holds | with_reducible refine ite_holds ?_ ?_ | split)
theorem Chip.drawBytes_holds (c : Chip) (a : Nat) (hc : Holds P Q c) : Holds P Q (Chip.drawBytes c a).2 := by
  conv in (Chip.drawBytes c a) => (unfold Chip.drawBytes; try dsimp only)
  repeat' (first | with_reducible assumption | (with_reducible refine has_snd rfl ?_; first | with_reducible assumption | (refine ⟨?_, ?_⟩ <;> (dsimp only; first | exact trivial | with_reducible apply Chip.Holds.mem (Q := Q) | with_reducible apply Chip.Holds.due (P := P)))) | (refine ⟨?_, ?_⟩ <;> (dsimp only; first | exact trivial | with_reducible apply Chip.Holds.mem (Q := Q) | with_reducible apply Chip.Holds.due (P := P))))
theorem Chip.savePieces_holds (c : Chip) (a : Nat) (b : Nat) (e : Nat) (f : List (Nat × Nat)) (g : List Byte) (hc : Holds memWf anyDue c) : Holds memWf anyDue (Chip.savePieces c a b e f g).2.2 := by
  induction f generalizing c a b e g with
  | nil =>
    conv in Chip.savePieces _ _ _ _ _ _ => (unfold Chip.savePieces; try dsimp only)
    repeat' (first | with_reducible assumption | fail | with_reducible apply Chip.save_holds | with_reducible refine of_snd (by assumption) ?_ | (with_reducible refine has_snd2 rfl ?_; first | with_reducible assumption | fail | with_reducible apply Chip.save_holds | with_reducible refine of_snd (by assumption) ?_) | (with_reducible refine has_snd rfl ?_; first | with_reducible assumption | fail | with_reducible apply Chip.save_holds | with_reducible refine of_snd (by assumption) ?_) | split)
  | cons x l ih =>
    conv in Chip.savePieces _ _ _ _ _ _ => (unfold Chip.savePieces; try dsimp only)
    repeat' (first | with_reducible assumption | with_reducible apply ih | with_reducible apply Chip.save_holds | with_reducible refine of_snd (by assumption) ?_ | (with_reducible refine has_snd2 rfl ?_; first | with_reducible assumption | with_reducible apply ih | with_reducible apply Chip.save_holds | with_reducible refine of_snd (by assumption) ?_) | (with_reducible refine has_snd rfl ?_; first | with_reducible assumption | with_reducible apply ih | with_reducible apply Chip.save_holds | with_reducible refine of_snd (by assumption) ?_) | split)
theorem Chip.saveRange_holds (c : Chip) (a : Nat) (b : Nat) (e : Nat) (f : List Byte) (g : Nat) (hc : Holds memWf anyDue c) : Holds memWf anyDue (Chip.saveRange c a b e f g).2.2 := by
  conv in (Chip.saveRange c a b e f g) => (unfold Chip.saveRange; try dsimp only)
  repeat' (first | with_reducible assumption | with_reducible apply Chip.savePieces_holds)
theorem Chip.loseArea_holds (c : Chip) (a : Job) (b : Nat) (hc : Holds memWf anyDue c) : Holds memWf anyDue (Chip.loseArea c a b) := by
  conv in (Chip.loseArea c a b) => (unfold Chip.loseArea; try dsimp only)
  repeat' (first | with_reducible assumption | with_reducible apply Chip.drawBytes_holds | with_reducible apply Chip.saveRange_holds)
theorem Chip.draw_holds (c : Chip) (hc : Holds P Q c) : Holds P Q (Chip.draw c).2 := by
  conv in (Chip.draw c) => (unfold Chip.draw; try dsimp only)
  repeat' (first | with_reducible assumption | (with_reducible refine has_snd rfl ?_; first | with_reducible assumption | (refine ⟨?_, ?_⟩ <;> (dsimp only; first | exact trivial | with_reducible apply Chip.Holds.mem (Q := Q) | with_reducible apply Chip.Holds.due (P := P)))) | (refine ⟨?_, ?_⟩ <;> (dsimp only; first | exact trivial | with_reducible apply Chip.Holds.mem (Q := Q) | with_reducible apply Chip.Holds.due (P := P))))
theorem Chip.setEngine_holds (c : Chip) (a : Nat) (b : Nat) (e : Engine) (hc : Holds P Q c) : Holds P Q (Chip.setEngine c a b e) := by
  conv in (Chip.setEngine c a b e) => (unfold Chip.setEngine; try dsimp only)
  repeat' (first | with_reducible assumption | (refine ⟨?_, ?_⟩ <;> (dsimp only; first | exact trivial | with_reducible apply Chip.Holds.mem (Q := Q) | with_reducible apply Chip.Holds.due (P := P))))
theorem Chip.updEngine_holds (c : Chip) (a : Nat) (b : Nat) (e : Engine → Engine) (hc : Holds P Q c) : Holds P Q (Chip.updEngine c a b e) := by
  conv in (Chip.updEngine c a b e) => (unfold Chip.updEngine; try dsimp only)
  repeat' (first | with_reducible assumption | with_reducible apply Chip.setEngine_holds)
theorem Chip.engineFault_holds (c : Chip) (a : Nat) (b : Nat) (e : Nat) (hc : Holds P Q c) : Holds P Q (Chip.engineFault c a b e) := by
  conv in (Chip.engineFault c a b e) => (unfold Chip.engineFault; try dsimp only)
  repeat' (first | with_reducible assumption | with_reducible apply Chip.setEngState_holds | with_reducible apply Chip.setFld_holds | with_reducible apply Chip.updEngine_holds | (refine ⟨?_, ?_⟩ <;> (dsimp only; first | exact trivial | with_reducible apply Chip.Holds.mem (Q := Q) | with_reducible apply Chip.Holds.due (P := P))))
theorem Chip.engCount_holds (c : Chip) (a : Nat) (b : Nat) (e : Reg) (f : Nat) (hc : Holds P Q c) : Holds P Q (Chip.engCount c a b e f) := by
  conv in (Chip.engCount c a b e f) => (unfold Chip.engCount; try dsimp only)
  repeat' (first | with_reducible assumption | with_reducible apply Chip.count_holds | with_reducible refine ite_holds ?_ ?_)
theorem Chip.bucketFill_holds (c : Chip) (a : Nat) (b : Nat) (e : Nat) (hc : Holds memWf anyDue c) : Holds memWf anyDue (Chip.bucketFill c a b e) := by
  conv in (Chip.bucketFill c a b e) => (unfold Chip.bucketFill; try dsimp only)
  repeat' (first | with_reducible assumption | with_reducible apply Chip.count_holds | with_reducible apply Chip.error_holds | with_reducible apply Chip.setFld_holds | with_reducible refine ite_holds ?_ ?_)
theorem Chip.writeBack_holds (c : Chip) (a : Nat) (b : Nat) (hc : Holds P Q c) : Holds P Q (Chip.writeBack c a b) := by
  conv in (Chip.writeBack c a b) => (unfold Chip.writeBack; try dsimp only)
  repeat' (first | with_reducible assumption | with_reducible refine ite_holds ?_ ?_ | (refine ⟨?_, ?_⟩ <;> (dsimp only; first | exact trivial | with_reducible apply Chip.Holds.mem (Q := Q) | with_reducible apply Chip.Holds.due (P := P))) | split)
theorem Chip.checkWord_holds (c : Chip) (a : Req) (b : Nat) (hc : Holds memWf anyDue c) : Holds memWf anyDue (Chip.checkWord c a b).2 := by
  conv in (Chip.checkWord c a b) => (unfold Chip.checkWord; try dsimp only)
  repeat' (first | with_reducible assumption | with_reducible apply Chip.bucketFill_holds | with_reducible apply Chip.count_holds | with_reducible apply Chip.memRecord_holds | with_reducible apply Chip.writeBack_holds | with_reducible refine ite_holds ?_ ?_ | (with_reducible refine has_snd rfl ?_; first | with_reducible assumption | with_reducible apply Chip.bucketFill_holds | with_reducible apply Chip.count_holds | with_reducible apply Chip.memRecord_holds | with_reducible apply Chip.writeBack_holds | with_reducible refine ite_holds ?_ ?_) | split)
theorem Chip.checkWords_holds (c : Chip) (a : Req) (b : List (Nat × Bool)) (hc : Holds memWf anyDue c) : Holds memWf anyDue (Chip.checkWords c a b).2 := by
  induction b generalizing c a with
  | nil =>
    conv in Chip.checkWords _ _ _ => (unfold Chip.checkWords; try dsimp only)
    repeat' (first | with_reducible assumption | fail | with_reducible apply Chip.checkWord_holds)
  | cons x l ih =>
    conv in Chip.checkWords _ _ _ => (unfold Chip.checkWords; try dsimp only)
    repeat' (first | with_reducible assumption | with_reducible apply ih | with_reducible apply Chip.checkWord_holds)
theorem Chip.setArb_holds (c : Chip) (a : Nat) (b : Arbiter) (hc : Holds P Q c) : Holds P Q (Chip.setArb c a b) := by
  conv in (Chip.setArb c a b) => (unfold Chip.setArb; try dsimp only)
  repeat' (first | with_reducible assumption | (refine ⟨?_, ?_⟩ <;> (dsimp only; first | exact trivial | with_reducible apply Chip.Holds.mem (Q := Q) | with_reducible apply Chip.Holds.due (P := P))))
theorem Chip.readEffect_holds (c : Chip) (a : RegSpec) (b : Nat) (hc : Holds P Q c) : Holds P Q (Chip.readEffect c a b) := by
  conv in (Chip.readEffect c a b) => (unfold Chip.readEffect; try dsimp only)
  repeat' (first | with_reducible assumption | with_reducible apply Chip.setArb_holds | with_reducible apply Chip.setFld_holds | with_reducible apply Chip.setReg_holds | with_reducible apply foldl_holds | with_reducible refine ite_holds ?_ ?_ | (refine ⟨?_, ?_⟩ <;> (dsimp only; first | exact trivial | with_reducible apply Chip.Holds.mem (Q := Q) | with_reducible apply Chip.Holds.due (P := P))) | with_reducible intro _)
theorem Chip.readRegs_holds (a : Nat) (c : Chip) (b : Nat) (e : Nat) (hc : Holds P Q c) : Holds P Q (Chip.readRegs a c b e).2 := by
  induction a generalizing c b e with
  | zero =>
    conv in Chip.readRegs _ _ _ _ => (unfold Chip.readRegs; try dsimp only)
    repeat' (first | with_reducible assumption | fail | with_reducible apply Chip.readEffect_holds | with_reducible refine ite_snd ?_ ?_ | (with_reducible refine has_snd rfl ?_; first | with_reducible assumption | fail | with_reducible apply Chip.readEffect_holds | with_reducible refine ite_snd ?_ ?_) | split)
  | succ k ih =>
    conv in Chip.readRegs _ _ _ _ => (unfold Chip.readRegs; try dsimp only)
    repeat' (first | with_reducible assumption | with_reducible apply ih | with_reducible apply Chip.readEffect_holds | with_reducible refine ite_snd ?_ ?_ | (with_reducible refine has_snd rfl ?_; first | with_reducible assumption | with_reducible apply ih | with_reducible apply Chip.readEffect_holds | with_reducible refine ite_snd ?_ ?_) | split)
theorem Chip.doorbellRead_holds (c : Chip) (a : Req) (hc : Holds P Q c) : Holds P Q (Chip.doorbellRead c a).2 := by
  conv in (Chip.doorbellRead c a) => (unfold Chip.doorbellRead; try dsimp only)
  repeat' (first | with_reducible assumption | with_reducible apply Chip.readRegs_holds | with_reducible refine ite_snd ?_ ?_ | (with_reducible refine has_snd rfl ?_; first | with_reducible assumption | with_reducible apply Chip.readRegs_holds | with_reducible refine ite_snd ?_ ?_) | split)
theorem Chip.loadRegs_holds (c : Chip) (a : Req) (b : Nat) (hc : Holds memWf anyDue c) : Holds memWf anyDue (Chip.loadRegs c a b).2.2 := by
  conv in (Chip.loadRegs c a b) => (unfold Chip.loadRegs; try dsimp only)
  repeat' (first | with_reducible assumption | with_reducible apply Chip.bridgeError_holds | with_reducible apply Chip.count_holds | with_reducible apply Chip.doorbellRead_holds | with_reducible apply Chip.gatedError_holds | with_reducible apply Chip.readRegs_holds | with_reducible refine ite_holds ?_ ?_ | with_reducible refine ite_snd ?_ ?_ | with_reducible refine ite_snd2 ?_ ?_)
theorem Chip.readSectors_holds (c : Chip) (a : Req) (hc : Holds P Q c) : Holds P Q (Chip.readSectors c a) := by
  conv in (Chip.readSectors c a) => (unfold Chip.readSectors; try dsimp only)
  repeat' (first | with_reducible assumption | with_reducible apply Chip.count_holds | with_reducible apply Chip.sectors_holds | with_reducible refine ite_holds ?_ ?_)
theorem Chip.loadServed_holds (c : Chip) (a : Req) (hc : Holds memWf anyDue c) : Holds memWf anyDue (Chip.loadServed c a).2.2 := by
  conv in (Chip.loadServed c a) => (unfold Chip.loadServed; try dsimp only)
  repeat' (first | with_reducible assumption | with_reducible apply Chip.awaitFills_holds | with_reducible apply Chip.checkWords_holds | with_reducible apply Chip.loadRegs_holds | with_reducible apply Chip.lookValid_holds | with_reducible apply Chip.readSectors_holds | with_reducible refine ite_snd2 ?_ ?_)
theorem Chip.load_holds (c : Chip) (a : Req) (hc : Holds memWf anyDue c) : Holds memWf anyDue (Chip.load c a).2.2 := by
  conv in (Chip.load c a) => (unfold Chip.load; try dsimp only)
  repeat' (first | with_reducible assumption | with_reducible apply Chip.denied_holds | with_reducible apply Chip.loadServed_holds | (with_reducible refine has_snd2 rfl ?_; first | with_reducible assumption | with_reducible apply Chip.denied_holds | with_reducible apply Chip.loadServed_holds) | (with_reducible refine has_snd rfl ?_; first | with_reducible assumption | with_reducible apply Chip.denied_holds | with_reducible apply Chip.loadServed_holds) | split)
theorem Chip.loadPieces_holds (c : Chip) (a : Nat) (b : Nat) (e : Nat) (f : List (Nat × Nat)) (hc : Holds memWf anyDue c) : Holds memWf anyDue (Chip.loadPieces c a b e f).2.2 := by
  induction f generalizing c a b e with
  | nil =>
    conv in Chip.loadPieces _ _ _ _ _ => (unfold Chip.loadPieces; try dsimp only)
    repeat' (first | with_reducible assumption | fail | with_reducible apply Chip.load_holds | with_reducible refine of_snd2 (by assumption) ?_ | (with_reducible refine has_snd2 rfl ?_; first | with_reducible assumption | fail | with_reducible apply Chip.load_holds | with_reducible refine of_snd2 (by assumption) ?_) | (with_reducible refine has_snd rfl ?_; first | with_reducible assumption | fail | with_reducible apply Chip.load_holds | with_reducible refine of_snd2 (by assumption) ?_) | split)
  | cons x l ih =>
    conv in Chip.loadPieces _ _ _ _ _ => (unfold Chip.loadPieces; try dsimp only)
    repeat' (first | with_reducible assumption | with_reducible apply ih | with_reducible apply Chip.load_holds | with_reducible refine of_snd2 (by assumption) ?_ | (with_reducible refine has_snd2 rfl ?_; first | with_reducible assumption | with_reducible apply ih | with_reducible apply Chip.load_holds | with_reducible refine of_snd2 (by assumption) ?_) | (with_reducible refine has_snd rfl ?_; first | with_reducible assumption | with_reducible apply ih | with_reducible apply Chip.load_holds | with_reducible refine of_snd2 (by assumption) ?_) | split)
theorem Chip.loadRange_holds (c : Chip) (a : Nat) (b : Nat) (e : Nat) (f : Nat) (g : Nat) (hc : Holds memWf anyDue c) : Holds memWf anyDue (Chip.loadRange c a b e f g).2.2 := by
  conv in (Chip.loadRange c a b e f g) => (unfold Chip.loadRange; try dsimp only)
  repeat' (first | with_reducible assumption | with_reducible apply Chip.loadPieces_holds)
theorem engLoad_holds (a : Nat) (b : Nat) (e : Nat) (f : Nat)  : TileM.Keeps memWf anyDue (engLoad a b e f) := by
  conv in (engLoad a b e f) => (unfold engLoad; try dsimp only)
  repeat' (first | with_reducible assumption | with_reducible apply Chip.loadRange_holds | with_reducible refine of_snd2 (by assumption) ?_ | split | with_reducible intro _ | with_reducible refine TileM.Keeps.fn ?_)
theorem engLines_holds (a : Nat) (b : Nat) (e : Lines) (f : List Nat)  : TileM.Keeps memWf anyDue (engLines a b e f) := by
  induction f generalizing a b e with
  | nil =>
    conv in engLines _ _ _ _ => (unfold engLines; try dsimp only)
    repeat' (first | fail | with_reducible apply engLoad_holds | with_reducible apply TileM.Keeps.pure | with_reducible apply TileM.Keeps.bind | split | with_reducible intro _)
  | cons x l ih =>
    conv in engLines _ _ _ _ => (unfold engLines; try dsimp only)
    repeat' (first | with_reducible apply ih | with_reducible apply engLoad_holds | with_reducible apply TileM.Keeps.pure | with_reducible apply TileM.Keeps.bind | split | with_reducible intro _)
theorem engSave_holds (a : Nat) (b : Nat) (e : Nat) (f : List Byte)  : TileM.Keeps memWf anyDue (engSave a b e f) := by
  conv in (engSave a b e f) => (unfold engSave; try dsimp only)
  repeat' (first | with_reducible assumption | with_reducible apply Chip.saveRange_holds | with_reducible refine of_snd2 (by assumption) ?_ | split | with_reducible intro _ | with_reducible refine TileM.Keeps.fn ?_)
theorem engSaves_holds (a : Nat) (b : Nat) (e : List (Nat × List Byte))  : TileM.Keeps memWf anyDue (engSaves a b e) := by
  induction e generalizing a b with
  | nil =>
    conv in engSaves _ _ _ => (unfold engSaves; try dsimp only)
    repeat' (first | fail | with_reducible apply engSave_holds | with_reducible apply TileM.Keeps.pure | with_reducible apply TileM.Keeps.bind | with_reducible intro _)
  | cons x l ih =>
    conv in engSaves _ _ _ => (unfold engSaves; try dsimp only)
    repeat' (first | with_reducible apply ih | with_reducible apply engSave_holds | with_reducible apply TileM.Keeps.pure | with_reducible apply TileM.Keeps.bind | with_reducible intro _)
theorem cropBoxes_holds (a : Nat) (b : List Byte) (e : List Byte) (f : Nat) (g : Nat)  : TileM.Keeps memWf anyDue (cropBoxes a b e f g) := by
  induction f generalizing a b e g with
  | zero =>
    conv in cropBoxes _ _ _ _ _ => (unfold cropBoxes; try dsimp only)
    repeat' (first | with_reducible assumption | fail | with_reducible apply Chip.engCount_holds | with_reducible apply Chip.updEngine_holds | with_reducible apply TileM.change_holds | with_reducible apply engLines_holds | with_reducible apply engSaves_holds | with_reducible apply TileM.change_holds | with_reducible apply TileM.Keeps.pure | with_reducible apply TileM.Keeps.bind | with_reducible intro _)
  | succ k ih =>
    conv in cropBoxes _ _ _ _ _ => (unfold cropBoxes; try dsimp only)
    repeat' (first | with_reducible assumption | with_reducible apply ih | with_reducible apply Chip.engCount_holds | with_reducible apply Chip.updEngine_holds | with_reducible apply TileM.change_holds | with_reducible apply engLines_holds | with_reducible apply engSaves_holds | with_reducible apply TileM.change_holds | with_reducible apply TileM.Keeps.pure | with_reducible apply TileM.Keeps.bind | with_reducible intro _)
theorem cropGo_holds (a : Nat) (b : List Byte) (e : Nat)  : TileM.Keeps memWf anyDue (cropGo a b e) := by
  conv in (cropGo a b e) => (unfold cropGo; try dsimp only)
  repeat' (first | with_reducible apply cropBoxes_holds | with_reducible apply engLoad_holds | with_reducible apply TileM.chip_holds | with_reducible apply TileM.Keeps.bind | with_reducible intro _)
theorem Chip.windowCounts_holds (c : Chip) (a : Nat) (b : Nat) (e : List Byte) (f : Nat) (g : Nat) (i : Nat) (j : Nat) (k : Nat) (hc : Holds P Q c) : Holds P Q (Chip.windowCounts c a b e f g i j k) := by
  conv in (Chip.windowCounts c a b e f g i j k) => (unfold Chip.windowCounts; try dsimp only)
  repeat' (first | with_reducible assumption | with_reducible apply Chip.engCount_holds | with_reducible apply Chip.setReg_holds | with_reducible refine ite_holds ?_ ?_)
theorem windowUnit_holds (a : Nat) (b : Nat) (e : List Byte) (f : WindowRun) (g : List Byte) (i : List Byte) (j : Lines) (k : Nat) (l : Nat)  : TileM.Keeps memWf anyDue (windowUnit a b e f g i j k l) := by
  conv in (windowUnit a b e f g i j k l) => (unfold windowUnit; try dsimp only)
  repeat' (first | with_reducible apply Chip.windowCounts_holds | with_reducible apply TileM.change_holds | with_reducible apply engLines_holds | with_reducible apply engSaves_holds | with_reducible apply TileM.chip_holds | with_reducible apply TileM.change_holds | with_reducible apply TileM.Keeps.pure | with_reducible apply TileM.Keeps.bind | with_reducible intro _)
theorem windowUnits_holds (a : Nat) (b : Nat) (e : List Byte) (f : WindowRun) (g : List Byte) (i : List Byte) (j : Nat) (k : Lines) (l : Nat) (n : Nat)  : TileM.Keeps memWf anyDue (windowUnits a b e f g i j k l n) := by
  induction j generalizing a b e f g i k l n with
  | zero =>
    conv in windowUnits _ _ _ _ _ _ _ _ _ _ => (unfold windowUnits; try dsimp only)
    repeat' (first | fail | with_reducible apply Chip.updEngine_holds | with_reducible apply TileM.change_holds | with_reducible apply windowUnit_holds | with_reducible apply TileM.change_holds | with_reducible apply TileM.Keeps.pure | with_reducible apply TileM.Keeps.bind | split | with_reducible intro _)
  | succ k ih =>
    conv in windowUnits _ _ _ _ _ _ _ _ _ _ => (unfold windowUnits; try dsimp only)
    repeat' (first | with_reducible apply ih | with_reducible apply Chip.updEngine_holds | with_reducible apply TileM.change_holds | with_reducible apply windowUnit_holds | with_reducible apply TileM.change_holds | with_reducible apply TileM.Keeps.pure | with_reducible apply TileM.Keeps.bind | split | with_reducible intro _)
theorem windowGo_holds (a : Nat) (b : Nat) (e : List Byte) (f : Nat)  : TileM.Keeps memWf anyDue (windowGo a b e f) := by
  conv in (windowGo a b e f) => (unfold windowGo; try dsimp only)
  repeat' (first | with_reducible apply engLoad_holds | with_reducible apply windowUnits_holds | with_reducible apply TileM.chip_holds | with_reducible apply TileM.Keeps.bind | with_reducible intro _)
theorem engGo_holds (a : Nat) (b : Nat) (e : Nat)  : TileM.Keeps memWf anyDue (engGo a b e) := by
  conv in (engGo a b e) => (unfold engGo; try dsimp only)
  repeat' (first | with_reducible apply cropGo_holds | with_reducible apply windowGo_holds | with_reducible apply TileM.chip_holds | with_reducible apply TileM.Keeps.pure | with_reducible apply TileM.Keeps.bind | split | with_reducible intro _)
theorem Chip.stopEngine_holds (c : Chip) (a : Nat × Nat × Nat) (hc : Holds memWf anyDue c) : Holds memWf anyDue (Chip.stopEngine c a) := by
  conv in (Chip.stopEngine c a) => (unfold Chip.stopEngine; try dsimp only)
  repeat' (first | with_reducible assumption | with_reducible apply Chip.draw_holds | with_reducible apply Chip.engineFault_holds | with_reducible apply Chip.setEngState_holds | with_reducible apply Chip.setReg_holds | with_reducible apply engGo_holds | with_reducible apply TileM.Keeps.run | with_reducible refine of_snd (by assumption) ?_ | with_reducible refine ite_holds ?_ ?_ | (refine ⟨?_, ?_⟩ <;> (dsimp only; first | exact trivial | with_reducible apply Chip.Holds.mem (Q := anyDue) | with_reducible apply Chip.Holds.due (P := memWf))) | split)
theorem Chip.setTile_holds (c : Chip) (a : Nat) (b : Tile) (hc : Holds P Q c) : Holds P Q (Chip.setTile c a b) := by
  conv in (Chip.setTile c a b) => (unfold Chip.setTile; try dsimp only)
  repeat' (first | with_reducible assumption | (refine ⟨?_, ?_⟩ <;> (dsimp only; first | exact trivial | with_reducible apply Chip.Holds.mem (Q := Q) | with_reducible apply Chip.Holds.due (P := P))))
theorem Chip.recordFault_holds (c : Chip) (a : Nat) (hc : Holds P Q c) : Holds P Q (Chip.recordFault c a) := by
  conv in (Chip.recordFault c a) => (unfold Chip.recordFault; try dsimp only)
  repeat' (first | with_reducible assumption | with_reducible apply Chip.setFld_holds | with_reducible apply Chip.setReg_holds | with_reducible apply Chip.setTile_holds | with_reducible apply Chip.setTileState_holds | with_reducible refine ite_holds ?_ ?_ | (refine ⟨?_, ?_⟩ <;> (dsimp only; first | exact trivial | with_reducible apply Chip.Holds.mem (Q := Q) | with_reducible apply Chip.Holds.due (P := P))) | split)
theorem Chip.updTile_holds (c : Chip) (a : Nat) (b : Tile → Tile) (hc : Holds P Q c) : Holds P Q (Chip.updTile c a b) := by
  conv in (Chip.updTile c a b) => (unfold Chip.updTile; try dsimp only)
  repeat' (first | with_reducible assumption | with_reducible apply Chip.setTile_holds)
theorem Chip.setRill_holds (c : Chip) (a : Nat) (b : Nat) (e : Rill) (hc : Holds P Q c) : Holds P Q (Chip.setRill c a b e) := by
  conv in (Chip.setRill c a b e) => (unfold Chip.setRill; try dsimp only)
  repeat' (first | with_reducible assumption | with_reducible apply Chip.updTile_holds)
theorem Chip.updRill_holds (c : Chip) (a : Nat) (b : Nat) (e : Rill → Rill) (hc : Holds P Q c) : Holds P Q (Chip.updRill c a b e) := by
  conv in (Chip.updRill c a b e) => (unfold Chip.updRill; try dsimp only)
  repeat' (first | with_reducible assumption | with_reducible apply Chip.setRill_holds)
theorem Chip.showMrcQueue_holds (c : Chip) (a : Nat) (hc : Holds P Q c) : Holds P Q (Chip.showMrcQueue c a) := by
  conv in (Chip.showMrcQueue c a) => (unfold Chip.showMrcQueue; try dsimp only)
  repeat' (first | with_reducible assumption | with_reducible apply Chip.setFld_holds)
theorem Chip.acceptDram_holds (c : Chip) (a : DramReq) (hc : Holds P Q c) : Holds P Q (Chip.acceptDram c a) := by
  conv in (Chip.acceptDram c a) => (unfold Chip.acceptDram; try dsimp only)
  repeat' (first | with_reducible assumption | with_reducible apply Chip.showMrcQueue_holds | (refine ⟨?_, ?_⟩ <;> (dsimp only; first | exact trivial | with_reducible apply Chip.Holds.mem (Q := Q) | with_reducible apply Chip.Holds.due (P := P))))
theorem Chip.drainLink_holds (a : Nat) (c : Chip) (b : Nat) (hc : Holds P Q c) : Holds P Q (Chip.drainLink a c b) := by
  induction a generalizing c b with
  | zero =>
    conv in Chip.drainLink _ _ _ => (unfold Chip.drainLink; try dsimp only)
    repeat' (first | with_reducible assumption | fail | with_reducible apply Chip.acceptDram_holds | with_reducible refine ite_holds ?_ ?_ | (refine ⟨?_, ?_⟩ <;> (dsimp only; first | exact trivial | with_reducible apply Chip.Holds.mem (Q := Q) | with_reducible apply Chip.Holds.due (P := P))) | split)
  | succ k ih =>
    conv in Chip.drainLink _ _ _ => (unfold Chip.drainLink; try dsimp only)
    repeat' (first | with_reducible assumption | with_reducible apply ih | with_reducible apply Chip.acceptDram_holds | with_reducible refine ite_holds ?_ ?_ | (refine ⟨?_, ?_⟩ <;> (dsimp only; first | exact trivial | with_reducible apply Chip.Holds.mem (Q := Q) | with_reducible apply Chip.Holds.due (P := P))) | split)
theorem Chip.drainLinks_holds (c : Chip) (a : Nat) (hc : Holds P Q c) : Holds P Q (Chip.drainLinks c a) := by
  conv in (Chip.drainLinks c a) => (unfold Chip.drainLinks; try dsimp only)
  repeat' (first | with_reducible assumption | with_reducible apply Chip.drainLink_holds)
theorem Chip.channelChanged_holds (c : Chip) (a : Nat) (hc : Holds P Q c) : Holds P Q (Chip.channelChanged c a) := by
  conv in (Chip.channelChanged c a) => (unfold Chip.channelChanged; try dsimp only)
  repeat' (first | with_reducible assumption | with_reducible apply Chip.drainLinks_holds | with_reducible apply Chip.showMrcQueue_holds | with_reducible refine ite_holds ?_ ?_)
theorem Chip.showPool_holds (c : Chip) (a : Nat) (b : Nat) (hc : Holds P Q c) : Holds P Q (Chip.showPool c a b) := by
  conv in (Chip.showPool c a b) => (unfold Chip.showPool; try dsimp only)
  repeat' (first | with_reducible assumption | with_reducible apply Chip.setFld_holds)
theorem Chip.tileCount_holds (c : Chip) (a : Nat) (b : Reg) (e : Fld) (f : Nat) (hc : Holds P Q c) : Holds P Q (Chip.tileCount c a b e f) := by
  conv in (Chip.tileCount c a b e f) => (unfold Chip.tileCount; try dsimp only)
  repeat' (first | with_reducible assumption | with_reducible apply Chip.count_holds | with_reducible refine ite_holds ?_ ?_)
theorem Chip.drainDelivs_holds (c : Chip) (a : Nat) (b : Nat) (hc : Holds P Q c) : Holds P Q (Chip.drainDelivs c a b) := by
  conv in (Chip.drainDelivs c a b) => (unfold Chip.drainDelivs; try dsimp only)
  repeat' (first | with_reducible assumption | with_reducible apply Chip.showPool_holds | with_reducible apply Chip.tileCount_holds | with_reducible apply Chip.updRill_holds)
theorem Chip.tileFault_holds (c : Chip) (a : Nat) (b : Nat) (e : Nat) (hc : Holds P Q c) : Holds P Q (Chip.tileFault c a b e) := by
  conv in (Chip.tileFault c a b e) => (unfold Chip.tileFault; try dsimp only)
  repeat' (first | with_reducible assumption | with_reducible apply Chip.recordFault_holds | with_reducible apply Chip.setTile_holds | with_reducible refine ite_holds ?_ ?_ | (refine ⟨?_, ?_⟩ <;> (dsimp only; first | exact trivial | with_reducible apply Chip.Holds.mem (Q := Q) | with_reducible apply Chip.Holds.due (P := P))))
theorem Chip.rillFault_holds (c : Chip) (a : Nat) (b : Nat) (e : Nat) (hc : Holds P Q c) : Holds P Q (Chip.rillFault c a b e) := by
  conv in (Chip.rillFault c a b e) => (unfold Chip.rillFault; try dsimp only)
  repeat' (first | with_reducible assumption | with_reducible apply Chip.setFld_holds | with_reducible apply Chip.tileFault_holds | with_reducible apply Chip.updRill_holds)
theorem Chip.rillOld_holds (c : Chip) (a : Nat) (b : RillWrite) (hc : Holds memWf anyDue c) : Holds memWf anyDue (Chip.rillOld c a b).2.2 := by
  conv in (Chip.rillOld c a b) => (unfold Chip.rillOld; try dsimp only)
  repeat' (first | with_reducible assumption | with_reducible apply Chip.loadServed_holds | with_reducible refine ite_snd2 ?_ ?_)
theorem rillAccept_holds (a : Nat) (b : Nat) (e : RillWrite) (c : Chip) (hc : Holds memWf anyDue c) : Holds memWf anyDue (rillAccept a b e c) := by
  conv in (rillAccept a b e c) => (unfold rillAccept; try dsimp only)
  repeat' (first | with_reducible assumption | with_reducible apply Chip.channelChanged_holds | with_reducible apply Chip.drainDelivs_holds | with_reducible apply Chip.rillFault_holds | with_reducible apply Chip.rillOld_holds | with_reducible apply Chip.saveServed_holds | with_reducible apply Chip.updRill_holds | with_reducible refine ite_holds ?_ ?_)
theorem Chip.changeRill_holds (c : Chip) (a : Nat) (b : Nat) (e : Rill → Rill) (hc : Holds P Q c) : Holds P Q (Chip.changeRill c a b e) := by
  conv in (Chip.changeRill c a b e) => (unfold Chip.changeRill; try dsimp only)
  repeat' (first | with_reducible assumption | with_reducible apply Chip.updRill_holds | with_reducible apply Chip.updTile_holds)
theorem Chip.progressed_holds (c : Chip) (a : Nat) (hc : Holds P Q c) : Holds P Q (Chip.progressed c a) := by
  conv in (Chip.progressed c a) => (unfold Chip.progressed; try dsimp only)
  repeat' (first | with_reducible assumption | with_reducible apply Chip.updTile_holds)
theorem rillReturn_holds (a : Nat) (b : Nat) (e : Nat) (f : LineReq) (c : Chip) (hc : Holds memWf anyDue c) : Holds memWf anyDue (rillReturn a b e f c) := by
  conv in (rillReturn a b e f c) => (unfold rillReturn; try dsimp only)
  repeat' (first | with_reducible assumption | with_reducible apply Chip.changeRill_holds | with_reducible apply Chip.channelChanged_holds | with_reducible apply Chip.loadServed_holds | with_reducible apply Chip.progressed_holds | with_reducible apply Chip.rillFault_holds | with_reducible refine ite_holds ?_ ?_)
theorem Chip.settleRill_holds (c : Chip) (a : Nat) (b : Nat) (hc : Holds memWf anyDue c) : Holds memWf anyDue (Chip.settleRill c a b) := by
  conv in (Chip.settleRill c a b) => (unfold Chip.settleRill; try dsimp only)
  repeat' (first | with_reducible assumption | with_reducible apply Chip.updRill_holds | with_reducible apply rillAccept_holds | with_reducible apply rillReturn_holds | with_reducible apply foldl_holds | split | with_reducible intro _)
theorem Chip.showRill_holds (c : Chip) (a : Nat) (b : Nat) (hc : Holds P Q c) : Holds P Q (Chip.showRill c a b) := by
  conv in (Chip.showRill c a b) => (unfold Chip.showRill; try dsimp only)
  repeat' (first | with_reducible assumption | with_reducible apply Chip.setFld_holds | with_reducible apply Chip.setReg_holds | with_reducible apply Chip.showPool_holds)
theorem Chip.stopTile_holds (c : Chip) (a : Nat) (hc : Holds memWf anyDue c) : Holds memWf anyDue (Chip.stopTile c a) := by
  conv in (Chip.stopTile c a) => (unfold Chip.stopTile; try dsimp only)
  repeat' (first | with_reducible assumption | with_reducible apply Chip.recordFault_holds | with_reducible apply Chip.settleRill_holds | with_reducible apply Chip.showQueue_holds | with_reducible apply Chip.showRill_holds | with_reducible apply Chip.updTile_holds | with_reducible apply foldl_holds | (refine ⟨?_, ?_⟩ <;> (dsimp only; first | exact trivial | with_reducible apply Chip.Holds.mem (Q := anyDue) | with_reducible apply Chip.Holds.due (P := memWf))) | with_reducible intro _)
theorem Chip.abortJob_holds (c : Chip) (a : Job) (b : Nat) (hc : Holds memWf anyDue c) : Holds memWf anyDue (Chip.abortJob c a b) := by
  conv in (Chip.abortJob c a b) => (unfold Chip.abortJob; try dsimp only)
  repeat' (first | with_reducible assumption | with_reducible apply Chip.endJob_holds | with_reducible apply Chip.loseArea_holds | with_reducible apply Chip.stopEngine_holds | with_reducible apply Chip.stopTile_holds | with_reducible apply foldl_holds | with_reducible refine ite_holds ?_ ?_)
theorem Chip.unregister_holds (c : Chip) (a : Nat) (hc : Holds P Q c) : Holds P Q (Chip.unregister c a) := by
  conv in (Chip.unregister c a) => (unfold Chip.unregister; try dsimp only)
  repeat' (first | with_reducible assumption | with_reducible apply Chip.mcRegs_holds | with_reducible apply foldl_holds | with_reducible refine ite_holds ?_ ?_ | (refine ⟨?_, ?_⟩ <;> (dsimp only; first | exact trivial | with_reducible apply Chip.Holds.mem (Q := Q) | with_reducible apply Chip.Holds.due (P := P))) | with_reducible intro _)
theorem Chip.abortPacket_holds (c : Chip) (a : Nat) (b : Nat) (hc : Holds P Q c) : Holds P Q (Chip.abortPacket c a b) := by
  conv in (Chip.abortPacket c a b) => (unfold Chip.abortPacket; try dsimp only)
  repeat' (first | with_reducible assumption | with_reducible apply Chip.finish_holds | with_reducible apply Chip.giveBack_holds | with_reducible apply Chip.unregister_holds | with_reducible apply Chip.withdraw_holds | (refine ⟨?_, ?_⟩ <;> (dsimp only; first | exact trivial | with_reducible apply Chip.Holds.mem (Q := Q) | with_reducible apply Chip.Holds.due (P := P))))
theorem Chip.aleClear_holds (c : Chip) (hc : Holds P Q c) : Holds P Q (Chip.aleClear c) := by
  conv in (Chip.aleClear c) => (unfold Chip.aleClear; try dsimp only)
  repeat' (first | with_reducible assumption | (refine ⟨?_, ?_⟩ <;> (dsimp only; first | exact trivial | with_reducible apply Chip.Holds.mem (Q := Q) | with_reducible apply Chip.Holds.due (P := P))))
theorem Chip.aleStop_holds (c : Chip) (a : Nat) (hc : Holds P Q c) : Holds P Q (Chip.aleStop c a) := by
  conv in (Chip.aleStop c a) => (unfold Chip.aleStop; try dsimp only)
  repeat' (first | with_reducible assumption | with_reducible apply Chip.aleClear_holds | with_reducible apply Chip.setFld_holds | (refine ⟨?_, ?_⟩ <;> (dsimp only; first | exact trivial | with_reducible apply Chip.Holds.mem (Q := Q) | with_reducible apply Chip.Holds.due (P := P))))
theorem Chip.showGfx_holds (c : Chip) (hc : Holds P Q c) : Holds P Q (Chip.showGfx c) := by
  conv in (Chip.showGfx c) => (unfold Chip.showGfx; try dsimp only)
  repeat' (first | with_reducible assumption | with_reducible apply Chip.setFld_holds)
theorem Chip.nextRender_holds (c : Chip) (hc : Holds P Q c) : Holds P Q (Chip.nextRender c) := by
  conv in (Chip.nextRender c) => (unfold Chip.nextRender; try dsimp only)
  repeat' (first | with_reducible assumption | with_reducible apply Chip.showGfx_holds | with_reducible refine ite_holds ?_ ?_ | (refine ⟨?_, ?_⟩ <;> (dsimp only; first | exact trivial | with_reducible apply Chip.Holds.mem (Q := Q) | with_reducible apply Chip.Holds.due (P := P))) | split)
theorem Chip.endPass_holds (c : Chip) (a : Pass) (b : Nat) (e : Nat) (f : Nat) (hc : Holds P Q c) : Holds P Q (Chip.endPass c a b e f) := by
  conv in (Chip.endPass c a b e f) => (unfold Chip.endPass; try dsimp only)
  repeat' (first | with_reducible assumption | with_reducible apply Chip.finish_holds | with_reducible apply Chip.giveBack_holds | with_reducible apply Chip.nextRender_holds | (refine ⟨?_, ?_⟩ <;> (dsimp only; first | exact trivial | with_reducible apply Chip.Holds.mem (Q := Q) | with_reducible apply Chip.Holds.due (P := P))))
theorem Chip.updStream_holds (c : Chip) (a : Nat) (b : FuseStream → FuseStream) (hc : Holds P Q c) : Holds P Q (Chip.updStream c a b) := by
  conv in (Chip.updStream c a b) => (unfold Chip.updStream; try dsimp only)
  repeat' (first | with_reducible assumption | (refine ⟨?_, ?_⟩ <;> (dsimp only; first | exact trivial | with_reducible apply Chip.Holds.mem (Q := Q) | with_reducible apply Chip.Holds.due (P := P))) | split)
theorem Chip.abortFlying_holds (c : Chip) (a : Nat) (b : Nat) (e : Nat) (hc : Holds memWf anyDue c) : Holds memWf anyDue (Chip.abortFlying c a b e).2 := by
  conv in (Chip.abortFlying c a b e) => (unfold Chip.abortFlying; try dsimp only)
  repeat' (first | with_reducible assumption | with_reducible apply Chip.abortJob_holds | with_reducible apply Chip.abortPacket_holds | with_reducible apply Chip.aleStop_holds | with_reducible apply Chip.endPass_holds | with_reducible apply Chip.updStream_holds | with_reducible apply foldl_holds | with_reducible refine ite_holds ?_ ?_ | with_reducible intro _)
theorem Chip.leaveSlice_holds (c : Chip) (a : Nat) (hc : Holds P Q c) : Holds P Q (Chip.leaveSlice c a) := by
  conv in (Chip.leaveSlice c a) => (unfold Chip.leaveSlice; try dsimp only)
  repeat' (first | with_reducible assumption | with_reducible apply Chip.giveBack_holds | with_reducible apply Chip.setBusy_holds | with_reducible apply Chip.setTileState_holds)
theorem Chip.updTest_holds (c : Chip) (a : SelfTest → SelfTest) (hc : Holds P Q c) : Holds P Q (Chip.updTest c a) := by
  conv in (Chip.updTest c a) => (unfold Chip.updTest; try dsimp only)
  repeat' (first | with_reducible assumption | (refine ⟨?_, ?_⟩ <;> (dsimp only; first | exact trivial | with_reducible apply Chip.Holds.mem (Q := Q) | with_reducible apply Chip.Holds.due (P := P))))
theorem Chip.setTileTest_holds (c : Chip) (a : Nat) (b : TileTest) (hc : Holds P Q c) : Holds P Q (Chip.setTileTest c a b) := by
  conv in (Chip.setTileTest c a b) => (unfold Chip.setTileTest; try dsimp only)
  repeat' (first | with_reducible assumption | with_reducible apply Chip.setFld_holds | with_reducible apply Chip.updTest_holds)
theorem Chip.showQueued_holds (c : Chip) (a : Nat) (hc : Holds P Q c) : Holds P Q (Chip.showQueued c a) := by
  conv in (Chip.showQueued c a) => (unfold Chip.showQueued; try dsimp only)
  repeat' (first | with_reducible assumption | with_reducible apply Chip.setFld_holds)
theorem Chip.abortSlice_holds (c : Chip) (a : Nat) (b : Nat) (hc : Holds memWf anyDue c) : Holds memWf anyDue (Chip.abortSlice c a b) := by
  conv in (Chip.abortSlice c a b) => (unfold Chip.abortSlice; try dsimp only)
  repeat' (first | with_reducible assumption | with_reducible apply Chip.count_holds | with_reducible apply Chip.draw_holds | with_reducible apply Chip.event_holds | with_reducible apply Chip.leaveSlice_holds | with_reducible apply Chip.setTileTest_holds | with_reducible apply Chip.showQueued_holds)
theorem Chip.plainWrite_holds (c : Chip) (a : RegSpec) (b : Nat) (e : Nat) (hc : Holds P Q c) : Holds P Q (Chip.plainWrite c a b e) := by
  conv in (Chip.plainWrite c a b e) => (unfold Chip.plainWrite; try dsimp only)
  repeat' (first | with_reducible assumption | with_reducible apply Chip.setReg_holds)
theorem accTableWrite_holds (a : Nat) (b : Nat) (e : Nat) (f : Nat) (g : W64) (c : Chip) (hc : Holds P Q c) : Holds P Q (accTableWrite a b e f g c) := by
  conv in (accTableWrite a b e f g c) => (unfold accTableWrite; try dsimp only)
  repeat' (first | with_reducible assumption | with_reducible apply Chip.setReg_holds | with_reducible refine ite_holds ?_ ?_)
theorem pasidMapWrite_holds (a : Nat) (b : Nat) (e : Nat) (f : W32) (c : Chip) (hc : Holds P Q c) : Holds P Q (pasidMapWrite a b e f c) := by
  conv in (pasidMapWrite a b e f c) => (unfold pasidMapWrite; try dsimp only)
  repeat' (first | with_reducible assumption | with_reducible apply Chip.setReg_holds | with_reducible refine ite_holds ?_ ?_)
theorem Chip.accWrite_holds (c : Chip) (a : RegSpec) (b : Nat) (e : Nat) (f : Nat) (g : Nat) (hc : Holds P Q c) : Holds P Q (Chip.accWrite c a b e f g) := by
  conv in (Chip.accWrite c a b e f g) => (unfold Chip.accWrite; try dsimp only)
  repeat' (first | with_reducible assumption | with_reducible apply Chip.plainWrite_holds | with_reducible apply accTableWrite_holds | with_reducible apply pasidMapWrite_holds | with_reducible refine ite_holds ?_ ?_)
theorem Chip.updDomain_holds (c : Chip) (a : Domain → Domain) (hc : Holds P Q c) : Holds P Q (Chip.updDomain c a) := by
  conv in (Chip.updDomain c a) => (unfold Chip.updDomain; try dsimp only)
  repeat' (first | with_reducible assumption | (refine ⟨?_, ?_⟩ <;> (dsimp only; first | exact trivial | with_reducible apply Chip.Holds.mem (Q := Q) | with_reducible apply Chip.Holds.due (P := P))))
theorem Chip.compareRef_holds (c : Chip) (a : Nat) (b : Nat) (e : List Byte) (hc : Holds memWf anyDue c) : Holds memWf anyDue (Chip.compareRef c a b e) := by
  conv in (Chip.compareRef c a b e) => (unfold Chip.compareRef; try dsimp only)
  repeat' (first | with_reducible assumption | with_reducible apply Chip.event_holds | with_reducible apply Chip.setFld_holds | with_reducible apply Chip.updDomain_holds | with_reducible refine ite_holds ?_ ?_ | split)
theorem Chip.acceptAnnouncement_holds (c : Chip) (a : List Byte) (hc : Holds memWf anyDue c) : Holds memWf anyDue (Chip.acceptAnnouncement c a) := by
  conv in (Chip.acceptAnnouncement c a) => (unfold Chip.acceptAnnouncement; try dsimp only)
  repeat' (first | with_reducible assumption | with_reducible apply Chip.compareRef_holds | with_reducible apply Chip.count_holds | with_reducible apply Chip.updDomain_holds | with_reducible refine ite_holds ?_ ?_)
theorem Chip.placeRead_holds (c : Chip) (a : Nat) (b : Nat) (e : Nat) (f : LineReq) (g : ReqPlace) (hc : Holds P Q c) : Holds P Q (Chip.placeRead c a b e f g) := by
  conv in (Chip.placeRead c a b e f g) => (unfold Chip.placeRead; try dsimp only)
  repeat' (first | with_reducible assumption | with_reducible apply Chip.channelChanged_holds | with_reducible apply Chip.tileCount_holds | with_reducible apply Chip.updRill_holds | (refine ⟨?_, ?_⟩ <;> (dsimp only; first | exact trivial | with_reducible apply Chip.Holds.mem (Q := Q) | with_reducible apply Chip.Holds.due (P := P))))
theorem Chip.placeWrite_holds (c : Chip) (a : Nat) (b : Nat) (e : Nat) (f : RillWrite) (g : ReqPlace) (hc : Holds P Q c) : Holds P Q (Chip.placeWrite c a b e f g) := by
  conv in (Chip.placeWrite c a b e f g) => (unfold Chip.placeWrite; try dsimp only)
  repeat' (first | with_reducible assumption | with_reducible apply Chip.channelChanged_holds | with_reducible apply Chip.tileCount_holds | with_reducible apply Chip.updRill_holds | (refine ⟨?_, ?_⟩ <;> (dsimp only; first | exact trivial | with_reducible apply Chip.Holds.mem (Q := Q) | with_reducible apply Chip.Holds.due (P := P))))
theorem Chip.rillRefused_holds (c : Chip) (a : Nat) (b : Nat) (e : Req) (f : Deny × Nat) (hc : Holds memWf anyDue c) : Holds memWf anyDue (Chip.rillRefused c a b e f) := by
  conv in (Chip.rillRefused c a b e f) => (unfold Chip.rillRefused; try dsimp only)
  repeat' (first | with_reducible assumption | with_reducible apply Chip.denied_holds | with_reducible apply Chip.rillFault_holds)
theorem Chip.issueAs_holds (c d : Chip) (n r : Nat) (p : ReqPlace) (f : Option (Deny × Nat)) (q : Req) (placed : Chip) (hc : Holds memWf anyDue c) (hp : Holds memWf anyDue placed)
    (e : c.issueAs n r p f q placed = some d) : Holds memWf anyDue d := by
  unfold Chip.issueAs at e
  split at e
  · contradiction
  · cases e; exact Chip.rillRefused_holds _ _ _ _ _ hc
  · cases e; exact hp
theorem Chip.issueNext_holds (c d : Chip) (n r : Nat) (hc : Holds memWf anyDue c) (e : c.issueNext n r = some d) : Holds memWf anyDue d := by
  unfold Chip.issueNext at e
  split at e
  · unfold Chip.issueRead at e
    split at e
    · contradiction
    · exact Chip.issueAs_holds _ _ _ _ _ _ _ _ hc (Chip.placeRead_holds _ _ _ _ _ _ hc) e
  · split at e
    · contradiction
    · split at e
      · contradiction
      · unfold Chip.issueWrite at e
        split at e
        · contradiction
        · exact Chip.issueAs_holds _ _ _ _ _ _ _ _ hc (Chip.placeWrite_holds _ _ _ _ _ _ hc) e
theorem Chip.issueAll_holds (a : Nat) (c : Chip) (b : Nat) (e : Nat) (hc : Holds memWf anyDue c) : Holds memWf anyDue (Chip.issueAll a c b e) := by
  induction a generalizing c with
  | zero => exact hc
  | succ k ih =>
    rw [Chip.issueAll]
    split
    · exact hc
    · exact ih _ (Chip.issueNext_holds _ _ _ _ hc ‹_›)
theorem Chip.issueHeld_holds (c : Chip) (a : Nat) (b : Nat) (hc : Holds memWf anyDue c) : Holds memWf anyDue (Chip.issueHeld c a b) := by
  conv in (Chip.issueHeld c a b) => (unfold Chip.issueHeld; try dsimp only)
  repeat' (first | with_reducible assumption | with_reducible apply Chip.issueAll_holds | with_reducible apply Chip.showQueue_holds)
theorem Chip.accessLine_holds (c : Chip) (a : Nat) (b : Nat) (e : Nat) (f : Target) (hc : Holds memWf anyDue c) : Holds memWf anyDue (Chip.accessLine c a b e f) := by
  conv in (Chip.accessLine c a b e f) => (unfold Chip.accessLine; try dsimp only)
  repeat' (first | with_reducible assumption | with_reducible apply Chip.issueHeld_holds | with_reducible apply Chip.tileCount_holds | with_reducible apply Chip.updRill_holds | with_reducible refine ite_holds ?_ ?_ | split)
theorem Chip.updNet_holds (c : Chip) (a : Net → Net) (hc : Holds P Q c) : Holds P Q (Chip.updNet c a) := by
  conv in (Chip.updNet c a) => (unfold Chip.updNet; try dsimp only)
  repeat' (first | with_reducible assumption | (refine ⟨?_, ?_⟩ <;> (dsimp only; first | exact trivial | with_reducible apply Chip.Holds.mem (Q := Q) | with_reducible apply Chip.Holds.due (P := P))))
theorem Chip.enqueue_holds (c : Chip) (a : Nat) (b : Nat) (e : EthFrame) (hc : Holds P Q c) : Holds P Q (Chip.enqueue c a b e) := by
  conv in (Chip.enqueue c a b e) => (unfold Chip.enqueue; try dsimp only)
  repeat' (first | with_reducible assumption | with_reducible apply Chip.updNet_holds | with_reducible refine ite_holds ?_ ?_ | split)
theorem Chip.acfSend_holds (c : Chip) (a : Nat) (b : Nat) (e : Nat) (f : CanFrame) (hc : Holds P Q c) : Holds P Q (Chip.acfSend c a b e f) := by
  conv in (Chip.acfSend c a b e f) => (unfold Chip.acfSend; try dsimp only)
  repeat' (first | with_reducible assumption | with_reducible apply Chip.count_holds | with_reducible apply Chip.drawBytes_holds | with_reducible apply Chip.enqueue_holds | with_reducible apply Chip.updNet_holds | with_reducible apply foldl_holds | with_reducible refine ite_holds ?_ ?_ | with_reducible intro _)
theorem Chip.decodeAhead_holds (a : Nat) (b : Nat) (c : Chip) (hc : Holds P Q c) : Holds P Q (Chip.decodeAhead a b c) := by
  induction b generalizing a c with
  | zero =>
    conv in Chip.decodeAhead _ _ _ => (unfold Chip.decodeAhead; try dsimp only)
    repeat' (first | with_reducible assumption | fail | with_reducible apply Chip.setTile_holds | with_reducible apply Chip.tileFault_holds | with_reducible refine ite_holds ?_ ?_ | split)
  | succ k ih =>
    conv in Chip.decodeAhead _ _ _ => (unfold Chip.decodeAhead; try dsimp only)
    repeat' (first | with_reducible assumption | with_reducible apply ih | with_reducible apply Chip.setTile_holds | with_reducible apply Chip.tileFault_holds | with_reducible refine ite_holds ?_ ?_ | split)
theorem Chip.countDelivs_holds (c : Chip) (a : Nat) (b : Nat) (hc : Holds P Q c) : Holds P Q (Chip.countDelivs c a b) := by
  conv in (Chip.countDelivs c a b) => (unfold Chip.countDelivs; try dsimp only)
  repeat' (first | with_reducible assumption | with_reducible apply Chip.changeRill_holds | with_reducible apply Chip.tileCount_holds)
theorem Chip.assign_holds (c : Chip) (a : Nat) (b : Nat) (e : RillCur) (f : Seg) (g : List Seg) (hc : Holds memWf anyDue c) : Holds memWf anyDue (Chip.assign c a b e f g) := by
  conv in (Chip.assign c a b e f g) => (unfold Chip.assign; try dsimp only)
  repeat' (first | with_reducible assumption | with_reducible apply Chip.accessLine_holds | with_reducible apply Chip.updRill_holds | split)
theorem RillM.change_holds (a : Chip → Chip) (ha : ∀ (z0 : Chip), Holds P Q z0 → Holds P Q (a z0)) : TileM.Keeps P Q (RillM.change a) := by
  conv in (RillM.change a) => (unfold RillM.change; try dsimp only)
  repeat' (first | with_reducible assumption | with_reducible refine TileM.Keeps.fn ?_)
theorem Chip.consume_holds (c : Chip) (a : Nat) (b : Nat) (hc : Holds P Q c) : Holds P Q (Chip.consume c a b) := by
  conv in (Chip.consume c a b) => (unfold Chip.consume; try dsimp only)
  repeat' (first | with_reducible assumption | with_reducible apply Chip.changeRill_holds | with_reducible apply Chip.showPool_holds)
theorem RillM.count_holds (a : Nat) (b : Reg) (e : Fld) (f : Nat)  : TileM.Keeps P Q (RillM.count a b e f) := by
  conv in (RillM.count a b e f) => (unfold RillM.count; try dsimp only)
  repeat' (first | with_reducible apply Chip.tileCount_holds | with_reducible apply RillM.change_holds | with_reducible intro _)
theorem rillIssued_holds (a : Nat) (b : Nat) (e : RillCur)  : TileM.Keeps P Q (rillIssued a b e) := by
  conv in (rillIssued a b e) => (unfold rillIssued; try dsimp only)
  repeat' (first | with_reducible assumption | with_reducible apply Chip.changeRill_holds | with_reducible apply Chip.consume_holds | with_reducible apply RillM.change_holds | with_reducible apply RillM.count_holds | with_reducible apply TileM.Keeps.bind | split | with_reducible intro _)
theorem Chip.countItem_holds (c : Chip) (a : Nat) (b : Nat) (e : Item) (hc : Holds P Q c) : Holds P Q (Chip.countItem c a b e) := by
  conv in (Chip.countItem c a b e) => (unfold Chip.countItem; try dsimp only)
  repeat' (first | with_reducible assumption | with_reducible apply Chip.tileCount_holds)
theorem rillNext_holds (n r : Nat) (u : RillCur) : TileM.Keeps memWf anyDue (rillNext n r u) := by
  refine TileM.Keeps.fn (fun c hc => ?_)
  have h := Chip.loadServed_holds c (tileReq c n (bytesU u.bytes 16 4 + u.item * rdItemWidth u.bytes) (rdItemWidth u.bytes) false) hc
  conv in rillNext _ _ _ => (unfold rillNext; dsimp only)
  refine ite_snd (has_snd rfl hc) (ite_snd (has_snd rfl h) ?_)
  split
  · exact has_snd rfl hc
  · refine ite_snd (has_snd rfl hc) (has_snd rfl (ite_holds (Chip.consume_holds _ _ _ hc) (Chip.updRill_holds _ _ _ _ hc)))
theorem Chip.wantLine_holds (c : Chip) (a : Nat) (b : Nat) (e : Nat) (f : RillCur) (hc : Holds memWf anyDue c) : Holds memWf anyDue (Chip.wantLine c a b e f).2 := by
  conv in (Chip.wantLine c a b e f) => (unfold Chip.wantLine; try dsimp only)
  repeat' (first | with_reducible assumption | with_reducible apply Chip.issueHeld_holds | with_reducible apply Chip.tileCount_holds | with_reducible apply Chip.updRill_holds | with_reducible refine ite_snd ?_ ?_ | (with_reducible refine has_snd rfl ?_; first | with_reducible assumption | with_reducible apply Chip.issueHeld_holds | with_reducible apply Chip.tileCount_holds | with_reducible apply Chip.updRill_holds | with_reducible refine ite_snd ?_ ?_) | split)
theorem rillResolve_holds {α : Type} (a : Nat) (b : Nat) (e : RillCur) (f : Except Nat α) (g : α → RillCur) (i : α → Chip → Chip) (hi : ∀ (z0 : α) (z1 : Chip), Holds memWf anyDue z1 → Holds memWf anyDue (i z0 z1)) : TileM.Keeps memWf anyDue (rillResolve a b e f g i) := by
  conv in (rillResolve a b e f g i) => (unfold rillResolve; try dsimp only)
  repeat' (first | with_reducible assumption | with_reducible apply hi | with_reducible apply Chip.updRill_holds | with_reducible apply Chip.wantLine_holds | split | with_reducible intro _ | with_reducible refine TileM.Keeps.fn ?_)
theorem rillItem_holds (a : Nat) (b : Nat) (e : RillCur)  : TileM.Keeps memWf anyDue (rillItem a b e) := by
  conv in (rillItem a b e) => (unfold rillItem; try dsimp only)
  repeat' (first | with_reducible assumption | with_reducible apply Chip.countItem_holds | with_reducible apply Chip.updRill_holds | with_reducible apply RillM.change_holds | with_reducible apply rillNext_holds | with_reducible apply rillResolve_holds | with_reducible apply TileM.Keeps.pure | with_reducible apply TileM.Keeps.bind | split | with_reducible intro _)
theorem rillMergeRest_holds (a : Nat) (b : Nat) (e : RillCur)  : TileM.Keeps memWf anyDue (rillMergeRest a b e) := by
  conv in (rillMergeRest a b e) => (unfold rillMergeRest; try dsimp only)
  repeat' (first | with_reducible apply Chip.tileCount_holds | with_reducible apply rillResolve_holds | with_reducible intro _)
theorem rillReadStep_holds (a : Nat) (b : Nat) (e : RillCur)  : TileM.Keeps memWf anyDue (rillReadStep a b e) := by
  conv in (rillReadStep a b e) => (unfold rillReadStep; try dsimp only)
  repeat' (first | with_reducible apply Chip.assign_holds | with_reducible apply Chip.updRill_holds | with_reducible apply RillM.change_holds | with_reducible apply rillIssued_holds | with_reducible apply rillItem_holds | with_reducible apply rillMergeRest_holds | with_reducible apply TileM.chip_holds | with_reducible apply TileM.Keeps.pure | with_reducible apply TileM.Keeps.bind | split | with_reducible intro _)
theorem destOf_holds (a : Nat) (b : RillCur) (e : Nat)  : TileM.Keeps P Q (destOf a b e) := by
  conv in (destOf a b e) => (unfold destOf; try dsimp only)
  repeat' (first | with_reducible apply TileM.fault_holds | with_reducible apply TileM.fault_holds | with_reducible apply TileM.Keeps.pure | split)
theorem rillWriteItem_holds (a : Nat) (b : Nat) (e : RillCur)  : TileM.Keeps memWf anyDue (rillWriteItem a b e) := by
  conv in (rillWriteItem a b e) => (unfold rillWriteItem; try dsimp only)
  repeat' (first | with_reducible apply RillM.count_holds | with_reducible apply destOf_holds | with_reducible apply rillNext_holds | with_reducible apply TileM.Keeps.pure | with_reducible apply TileM.Keeps.bind | split | with_reducible intro _)
theorem rillWriteStep_holds (a : Nat) (b : Nat) (e : RillCur)  : TileM.Keeps memWf anyDue (rillWriteStep a b e) := by
  conv in (rillWriteStep a b e) => (unfold rillWriteStep; try dsimp only)
  repeat' (first | with_reducible assumption | with_reducible apply Chip.drainDelivs_holds | with_reducible apply Chip.issueHeld_holds | with_reducible apply Chip.updRill_holds | with_reducible apply RillM.change_holds | with_reducible apply rillIssued_holds | with_reducible apply rillWriteItem_holds | with_reducible apply TileM.chip_holds | with_reducible apply TileM.Keeps.pure | with_reducible apply TileM.Keeps.bind | split | with_reducible intro _)
theorem Chip.rillSteps_holds (a : Nat) (b : Nat) (e : Nat) (f : Bool) (c : Chip) (hc : Holds memWf anyDue c) : Holds memWf anyDue (Chip.rillSteps a b e f c).2 := by
  induction e generalizing a b f c with
  | zero =>
    conv in Chip.rillSteps _ _ _ _ _ => (unfold Chip.rillSteps; try dsimp only)
    repeat' (first | with_reducible assumption | fail | with_reducible apply Chip.rillFault_holds | with_reducible apply rillReadStep_holds | with_reducible apply rillWriteStep_holds | with_reducible apply TileM.Keeps.run | with_reducible refine of_snd (by assumption) ?_ | (with_reducible refine has_snd rfl ?_; first | with_reducible assumption | fail | with_reducible apply Chip.rillFault_holds | with_reducible apply rillReadStep_holds | with_reducible apply rillWriteStep_holds | with_reducible apply TileM.Keeps.run | with_reducible refine of_snd (by assumption) ?_) | split)
  | succ k ih =>
    conv in Chip.rillSteps _ _ _ _ _ => (unfold Chip.rillSteps; try dsimp only)
    repeat' (first | with_reducible assumption | with_reducible apply ih | with_reducible apply Chip.rillFault_holds | with_reducible apply rillReadStep_holds | with_reducible apply rillWriteStep_holds | with_reducible apply TileM.Keeps.run | with_reducible refine of_snd (by assumption) ?_ | (with_reducible refine has_snd rfl ?_; first | with_reducible assumption | with_reducible apply ih | with_reducible apply Chip.rillFault_holds | with_reducible apply rillReadStep_holds | with_reducible apply rillWriteStep_holds | with_reducible apply TileM.Keeps.run | with_reducible refine of_snd (by assumption) ?_) | split)
theorem Chip.rillPass_holds (a : Nat) (b : List Nat) (e : Bool) (c : Chip) (hc : Holds memWf anyDue c) : Holds memWf anyDue (Chip.rillPass a b e c).2 := by
  induction b generalizing a e c with
  | nil =>
    conv in Chip.rillPass _ _ _ _ => (unfold Chip.rillPass; try dsimp only)
    repeat' (first | with_reducible assumption | fail | with_reducible apply Chip.countDelivs_holds | with_reducible apply Chip.issueHeld_holds | with_reducible apply Chip.rillSteps_holds | with_reducible apply Chip.showRill_holds)
  | cons x l ih =>
    conv in Chip.rillPass _ _ _ _ => (unfold Chip.rillPass; try dsimp only)
    repeat' (first | with_reducible assumption | with_reducible apply ih | with_reducible apply Chip.countDelivs_holds | with_reducible apply Chip.issueHeld_holds | with_reducible apply Chip.rillSteps_holds | with_reducible apply Chip.showRill_holds)
theorem Chip.rillPasses_holds (a : Nat) (b : Nat) (c : Chip) (hc : Holds memWf anyDue c) : Holds memWf anyDue (Chip.rillPasses a b c) := by
  induction b generalizing a c with
  | zero =>
    conv in Chip.rillPasses _ _ _ => (unfold Chip.rillPasses; try dsimp only)
    repeat' (first | with_reducible assumption | fail | with_reducible apply Chip.rillPass_holds | with_reducible refine ite_holds ?_ ?_)
  | succ k ih =>
    conv in Chip.rillPasses _ _ _ => (unfold Chip.rillPasses; try dsimp only)
    repeat' (first | with_reducible assumption | with_reducible apply ih | with_reducible apply Chip.rillPass_holds | with_reducible refine ite_holds ?_ ?_)
theorem Chip.runRills_holds (c : Chip) (a : Nat) (hc : Holds memWf anyDue c) : Holds memWf anyDue (Chip.runRills c a) := by
  conv in (Chip.runRills c a) => (unfold Chip.runRills; try dsimp only)
  repeat' (first | with_reducible assumption | with_reducible apply Chip.rillPasses_holds | with_reducible apply Chip.showQueue_holds | with_reducible refine ite_holds ?_ ?_)
theorem Chip.advance_holds (c : Chip) (a : Nat) (hc : Holds memWf anyDue c) : Holds memWf anyDue (Chip.advance c a) := by
  conv in (Chip.advance c a) => (unfold Chip.advance; try dsimp only)
  repeat' (first | with_reducible assumption | with_reducible apply Chip.decodeAhead_holds | with_reducible apply Chip.runRills_holds)
theorem Chip.advanceGate_holds (c : Chip) (a : Nat) (b : GateRun) (hc : Holds P Q c) : Holds P Q (Chip.advanceGate c a b) := by
  conv in (Chip.advanceGate c a b) => (unfold Chip.advanceGate; try dsimp only)
  repeat' (first | with_reducible assumption | with_reducible apply Chip.updNet_holds | with_reducible refine ite_holds ?_ ?_)
theorem Chip.pressTile_holds (c : Chip) (a : Nat) (hc : Holds P Q c) : Holds P Q (Chip.pressTile c a) := by
  conv in (Chip.pressTile c a) => (unfold Chip.pressTile; try dsimp only)
  repeat' (first | with_reducible assumption | with_reducible apply Chip.setTileTest_holds | with_reducible refine ite_holds ?_ ?_ | (refine ⟨?_, ?_⟩ <;> (dsimp only; first | exact trivial | with_reducible apply Chip.Holds.mem (Q := Q) | with_reducible apply Chip.Holds.due (P := P))))
theorem Chip.advanceRun_holds (c : Chip) (a : Nat) (b : TileTest) (e : TileRun) (hc : Holds P Q c) : Holds P Q (Chip.advanceRun c a b e) := by
  conv in (Chip.advanceRun c a b e) => (unfold Chip.advanceRun; try dsimp only)
  repeat' (first | with_reducible assumption | with_reducible apply Chip.finish_holds | with_reducible apply Chip.pressTile_holds | with_reducible apply Chip.updTest_holds | with_reducible refine ite_holds ?_ ?_)
theorem Chip.failPass_holds (c : Chip) (a : Pass) (b : Nat) (e : Nat) (f : Nat) (hc : Holds P Q c) : Holds P Q (Chip.failPass c a b e f) := by
  conv in (Chip.failPass c a b e f) => (unfold Chip.failPass; try dsimp only)
  repeat' (first | with_reducible assumption | with_reducible apply Chip.endPass_holds)
theorem Chip.failSomewhere_holds (c : Chip) (a : Pass) (b : Nat) (hc : Holds P Q c) : Holds P Q (Chip.failSomewhere c a b) := by
  conv in (Chip.failSomewhere c a b) => (unfold Chip.failSomewhere; try dsimp only)
  repeat' (first | with_reducible assumption | with_reducible apply Chip.draw_holds | with_reducible apply Chip.failPass_holds)
theorem Chip.updPass_holds (c : Chip) (a : Nat) (b : Pass → Pass) (hc : Holds P Q c) : Holds P Q (Chip.updPass c a b) := by
  conv in (Chip.updPass c a b) => (unfold Chip.updPass; try dsimp only)
  repeat' (first | with_reducible assumption | (refine ⟨?_, ?_⟩ <;> (dsimp only; first | exact trivial | with_reducible apply Chip.Holds.mem (Q := Q) | with_reducible apply Chip.Holds.due (P := P))))
theorem Chip.afterBin_holds (c : Chip) (a : Pass) (hc : Holds memWf anyDue c) : Holds memWf anyDue (Chip.afterBin c a) := by
  conv in (Chip.afterBin c a) => (unfold Chip.afterBin; try dsimp only)
  repeat' (first | with_reducible assumption | with_reducible apply Chip.draw_holds | with_reducible apply Chip.drawBytes_holds | with_reducible apply Chip.failSomewhere_holds | with_reducible apply Chip.nextRender_holds | with_reducible apply Chip.saveRange_holds | with_reducible apply Chip.setReg_holds | with_reducible apply Chip.updPass_holds | with_reducible refine of_snd2 (by assumption) ?_ | split)
theorem Chip.aleAccept_holds (c : Chip) (a : AleLoad) (hc : Holds P Q c) : Holds P Q (Chip.aleAccept c a) := by
  conv in (Chip.aleAccept c a) => (unfold Chip.aleAccept; try dsimp only)
  repeat' (first | with_reducible assumption | with_reducible apply Chip.setFld_holds | (refine ⟨?_, ?_⟩ <;> (dsimp only; first | exact trivial | with_reducible apply Chip.Holds.mem (Q := Q) | with_reducible apply Chip.Holds.due (P := P))))
theorem Chip.aleErr_holds (c : Chip) (a : Nat) (hc : Holds P Q c) : Holds P Q (Chip.aleErr c a) := by
  conv in (Chip.aleErr c a) => (unfold Chip.aleErr; try dsimp only)
  repeat' (first | with_reducible assumption | with_reducible apply Chip.setFld_holds)
theorem Chip.aleFreeze_holds (c : Chip) (hc : Holds P Q c) : Holds P Q (Chip.aleFreeze c) := by
  conv in (Chip.aleFreeze c) => (unfold Chip.aleFreeze; try dsimp only)
  repeat' (first | with_reducible assumption | with_reducible apply Chip.setFld_holds | (refine ⟨?_, ?_⟩ <;> (dsimp only; first | exact trivial | with_reducible apply Chip.Holds.mem (Q := Q) | with_reducible apply Chip.Holds.due (P := P))) | split)
theorem Chip.capture_holds (c : Chip) (a : Nat) (b : List (Nat × W32)) (e : List (Nat × W32)) (f : List Int) (g : List Int) (hc : Holds P Q c) : Holds P Q (Chip.capture c a b e f g) := by
  conv in (Chip.capture c a b e f g) => (unfold Chip.capture; try dsimp only)
  repeat' (first | with_reducible assumption | with_reducible apply Chip.count_holds | (refine ⟨?_, ?_⟩ <;> (dsimp only; first | exact trivial | with_reducible apply Chip.Holds.mem (Q := Q) | with_reducible apply Chip.Holds.due (P := P))))
theorem Chip.loopStep_holds (c : Chip) (a : Nat) (b : List (Nat × W32)) (hc : Holds P Q c) : Holds P Q (Chip.loopStep c a b).2 := by
  conv in (Chip.loopStep c a b) => (unfold Chip.loopStep; try dsimp only)
  repeat' (first | with_reducible assumption | with_reducible apply Chip.count_holds | with_reducible apply Chip.setReg_holds | with_reducible apply foldl_holds | with_reducible refine ite_holds ?_ ?_ | with_reducible refine ite_snd ?_ ?_ | (with_reducible refine has_snd rfl ?_; first | with_reducible assumption | with_reducible apply Chip.count_holds | with_reducible apply Chip.setReg_holds | with_reducible apply foldl_holds | with_reducible refine ite_holds ?_ ?_ | with_reducible refine ite_snd ?_ ?_ | (refine ⟨?_, ?_⟩ <;> (dsimp only; first | exact trivial | with_reducible apply Chip.Holds.mem (Q := Q) | with_reducible apply Chip.Holds.due (P := P)))) | (refine ⟨?_, ?_⟩ <;> (dsimp only; first | exact trivial | with_reducible apply Chip.Holds.mem (Q := Q) | with_reducible apply Chip.Holds.due (P := P))) | with_reducible intro _)
theorem Chip.playback_holds (c : Chip) (a : Nat) (hc : Holds P Q c) : Holds P Q (Chip.playback c a).2 := by
  conv in (Chip.playback c a) => (unfold Chip.playback; try dsimp only)
  repeat' (first | with_reducible assumption | (with_reducible refine has_snd rfl ?_; first | with_reducible assumption | (refine ⟨?_, ?_⟩ <;> (dsimp only; first | exact trivial | with_reducible apply Chip.Holds.mem (Q := Q) | with_reducible apply Chip.Holds.due (P := P)))) | (refine ⟨?_, ?_⟩ <;> (dsimp only; first | exact trivial | with_reducible apply Chip.Holds.mem (Q := Q) | with_reducible apply Chip.Holds.due (P := P))))
theorem Chip.aleRun_holds (c : Chip) (a : Nat) (b : List (Nat × W32)) (e : List (Nat × W32)) (hc : Holds P Q c) : Holds P Q (Chip.aleRun c a b e) := by
  conv in (Chip.aleRun c a b e) => (unfold Chip.aleRun; try dsimp only)
  repeat' (first | with_reducible assumption | with_reducible apply Chip.capture_holds | with_reducible apply Chip.count_holds | with_reducible apply Chip.loopStep_holds | with_reducible apply Chip.playback_holds | (refine ⟨?_, ?_⟩ <;> (dsimp only; first | exact trivial | with_reducible apply Chip.Holds.mem (Q := Q) | with_reducible apply Chip.Holds.due (P := P))))
theorem Chip.aleStart_holds (c : Chip) (hc : Holds P Q c) : Holds P Q (Chip.aleStart c) := by
  conv in (Chip.aleStart c) => (unfold Chip.aleStart; try dsimp only)
  repeat' (first | with_reducible assumption | with_reducible apply Chip.aleClear_holds | with_reducible apply Chip.setFld_holds)
theorem Chip.aleThaw_holds (c : Chip) (hc : Holds P Q c) : Holds P Q (Chip.aleThaw c) := by
  conv in (Chip.aleThaw c) => (unfold Chip.aleThaw; try dsimp only)
  repeat' (first | with_reducible assumption | with_reducible apply Chip.setFld_holds | (refine ⟨?_, ?_⟩ <;> (dsimp only; first | exact trivial | with_reducible apply Chip.Holds.mem (Q := Q) | with_reducible apply Chip.Holds.due (P := P))))
theorem Chip.aleTake_holds (c : Chip) (a : AleLoad) (hc : Holds P Q c) : Holds P Q (Chip.aleTake c a) := by
  conv in (Chip.aleTake c a) => (unfold Chip.aleTake; try dsimp only)
  repeat' (first | with_reducible assumption | with_reducible apply Chip.aleClear_holds | with_reducible apply Chip.aleThaw_holds | with_reducible apply Chip.setFld_holds | with_reducible refine ite_holds ?_ ?_ | (refine ⟨?_, ?_⟩ <;> (dsimp only; first | exact trivial | with_reducible apply Chip.Holds.mem (Q := Q) | with_reducible apply Chip.Holds.due (P := P))))
theorem Chip.clearRegs_holds (c : Chip) (a : List Reg) (hc : Holds P Q c) : Holds P Q (Chip.clearRegs c a) := by
  conv in (Chip.clearRegs c a) => (unfold Chip.clearRegs; try dsimp only)
  repeat' (first | with_reducible assumption | with_reducible apply Chip.setReg_holds | with_reducible apply foldl_holds | with_reducible intro _)
theorem aleAdapt_holds (a : Nat) (b : Bool) (c : Chip) (hc : Holds P Q c) : Holds P Q (aleAdapt a b c) := by
  conv in (aleAdapt a b c) => (unfold aleAdapt; try dsimp only)
  repeat' (first | with_reducible assumption | with_reducible apply Chip.setFld_holds | with_reducible refine ite_holds ?_ ?_)
theorem aleEnable_holds (a : Nat) (b : Bool) (c : Chip) (hc : Holds P Q c) : Holds P Q (aleEnable a b c) := by
  conv in (aleEnable a b c) => (unfold aleEnable; try dsimp only)
  repeat' (first | with_reducible assumption | with_reducible apply Chip.aleThaw_holds | with_reducible apply Chip.setFld_holds | with_reducible refine ite_holds ?_ ?_)
theorem aleLoad_holds (a : Nat) (b : Nat) (c : Chip) (hc : Holds memWf anyDue c) : Holds memWf anyDue (aleLoad a b c) := by
  conv in (aleLoad a b c) => (unfold aleLoad; try dsimp only)
  repeat' (first | with_reducible assumption | with_reducible apply Chip.aleAccept_holds | with_reducible apply Chip.aleErr_holds | with_reducible apply Chip.loadRange_holds | with_reducible apply Chip.setFld_holds | with_reducible refine of_snd2 (by assumption) ?_ | with_reducible refine ite_holds ?_ ?_ | split)
theorem alePortCfgWrite_holds (a : Nat) (b : Nat) (e : Nat) (c : Chip) (hc : Holds P Q c) : Holds P Q (alePortCfgWrite a b e c) := by
  conv in (alePortCfgWrite a b e c) => (unfold alePortCfgWrite; try dsimp only)
  repeat' (first | with_reducible assumption | with_reducible apply Chip.setReg_holds | with_reducible refine ite_holds ?_ ?_)
theorem Chip.ringOff_holds (c : Chip) (a : Nat) (hc : Holds P Q c) : Holds P Q (Chip.ringOff c a) := by
  conv in (Chip.ringOff c a) => (unfold Chip.ringOff; try dsimp only)
  repeat' (first | with_reducible assumption | with_reducible apply Chip.setFld_holds | (refine ⟨?_, ?_⟩ <;> (dsimp only; first | exact trivial | with_reducible apply Chip.Holds.mem (Q := Q) | with_reducible apply Chip.Holds.due (P := P))))
theorem Chip.ringOn_holds (c : Chip) (a : Nat) (b : List Byte) (hc : Holds P Q c) : Holds P Q (Chip.ringOn c a b) := by
  conv in (Chip.ringOn c a b) => (unfold Chip.ringOn; try dsimp only)
  repeat' (first | with_reducible assumption | with_reducible apply Chip.setFld_holds | (refine ⟨?_, ?_⟩ <;> (dsimp only; first | exact trivial | with_reducible apply Chip.Holds.mem (Q := Q) | with_reducible apply Chip.Holds.due (P := P))))
theorem audioRingEnable_holds (a : Nat) (b : Nat) (e : Nat) (c : Chip) (hc : Holds memWf anyDue c) : Holds memWf anyDue (audioRingEnable a b e c) := by
  conv in (audioRingEnable a b e c) => (unfold audioRingEnable; try dsimp only)
  repeat' (first | with_reducible assumption | with_reducible apply Chip.aleErr_holds | with_reducible apply Chip.loadRange_holds | with_reducible apply Chip.ringOff_holds | with_reducible apply Chip.ringOn_holds | with_reducible apply Chip.setFld_holds | with_reducible refine of_snd2 (by assumption) ?_ | with_reducible refine ite_holds ?_ ?_ | split)
theorem Chip.aleWriteReg_holds (c : Chip) (a : RegSpec) (b : Nat) (e : Nat) (f : Nat) (hc : Holds memWf anyDue c) : Holds memWf anyDue (Chip.aleWriteReg c a b e f) := by
  conv in (Chip.aleWriteReg c a b e f) => (unfold Chip.aleWriteReg; try dsimp only)
  repeat' (first | with_reducible assumption | with_reducible apply Chip.clearRegs_holds | with_reducible apply Chip.plainWrite_holds | with_reducible apply aleAdapt_holds | with_reducible apply aleEnable_holds | with_reducible apply aleLoad_holds | with_reducible apply alePortCfgWrite_holds | with_reducible apply audioRingEnable_holds | with_reducible refine ite_holds ?_ ?_)
theorem Chip.cflRead_holds (c : Chip) (a : Nat) (b : Nat) (e : Nat) (hc : Holds memWf anyDue c) : Holds memWf anyDue (Chip.cflRead c a b e).2 := by
  conv in (Chip.cflRead c a b e) => (unfold Chip.cflRead; try dsimp only)
  repeat' (first | with_reducible assumption | with_reducible apply Chip.drawBytes_holds | with_reducible apply Chip.loadRange_holds | with_reducible refine of_snd2 (by assumption) ?_ | (with_reducible refine has_snd rfl ?_; first | with_reducible assumption | with_reducible apply Chip.drawBytes_holds | with_reducible apply Chip.loadRange_holds | with_reducible refine of_snd2 (by assumption) ?_) | split)
theorem Chip.poseFind_holds (c : Chip) (a : AlignCtx) (b : Nat) (e : Nat) (f : Nat) (g : Option (List Byte)) (hc : Holds memWf anyDue c) : Holds memWf anyDue (Chip.poseFind c a b e f g).2.2 := by
  induction e generalizing c a b f g with
  | zero =>
    conv in Chip.poseFind _ _ _ _ _ _ => (unfold Chip.poseFind; try dsimp only)
    repeat' (first | with_reducible assumption | fail | with_reducible apply Chip.cflRead_holds | with_reducible refine ite_snd2 ?_ ?_)
  | succ k ih =>
    conv in Chip.poseFind _ _ _ _ _ _ => (unfold Chip.poseFind; try dsimp only)
    repeat' (first | with_reducible assumption | with_reducible apply ih | with_reducible apply Chip.cflRead_holds | with_reducible refine ite_snd2 ?_ ?_)
theorem Chip.poseAt_holds (c : Chip) (a : AlignCtx) (b : Nat) (e : Bool) (hc : Holds memWf anyDue c) : Holds memWf anyDue (Chip.poseAt c a b e).2.2 := by
  conv in (Chip.poseAt c a b e) => (unfold Chip.poseAt; try dsimp only)
  repeat' (first | with_reducible assumption | with_reducible apply Chip.drawBytes_holds | with_reducible apply Chip.poseFind_holds | with_reducible refine of_snd2 (by assumption) ?_ | with_reducible refine ite_snd2 ?_ ?_ | (with_reducible refine has_snd2 rfl ?_; first | with_reducible assumption | with_reducible apply Chip.drawBytes_holds | with_reducible apply Chip.poseFind_holds | with_reducible refine of_snd2 (by assumption) ?_ | with_reducible refine ite_snd2 ?_ ?_) | (with_reducible refine has_snd rfl ?_; first | with_reducible assumption | with_reducible apply Chip.drawBytes_holds | with_reducible apply Chip.poseFind_holds | with_reducible refine of_snd2 (by assumption) ?_ | with_reducible refine ite_snd2 ?_ ?_) | split)
theorem Chip.alignAt_holds (c : Chip) (a : Nat) (b : Nat) (e : Bool) (hc : Holds memWf anyDue c) : Holds memWf anyDue (Chip.alignAt c a b e).2 := by
  conv in (Chip.alignAt c a b e) => (unfold Chip.alignAt; try dsimp only)
  repeat' (first | with_reducible assumption | with_reducible apply Chip.event_holds | with_reducible apply Chip.poseAt_holds | (with_reducible refine has_snd rfl ?_; first | with_reducible assumption | with_reducible apply Chip.event_holds | with_reducible apply Chip.poseAt_holds | (refine ⟨?_, ?_⟩ <;> (dsimp only; first | exact trivial | with_reducible apply Chip.Holds.mem (Q := anyDue) | with_reducible apply Chip.Holds.due (P := memWf)))) | (refine ⟨?_, ?_⟩ <;> (dsimp only; first | exact trivial | with_reducible apply Chip.Holds.mem (Q := anyDue) | with_reducible apply Chip.Holds.due (P := memWf))) | split)
theorem Chip.alignExpired_holds (c : Chip) (a : Nat) (hc : Holds memWf anyDue c) : Holds memWf anyDue (Chip.alignExpired c a) := by
  conv in (Chip.alignExpired c a) => (unfold Chip.alignExpired; try dsimp only)
  repeat' (first | with_reducible assumption | with_reducible apply Chip.alignAt_holds | with_reducible apply foldl_snd | (refine ⟨?_, ?_⟩ <;> (dsimp only; first | exact trivial | with_reducible apply Chip.Holds.mem (Q := anyDue) | with_reducible apply Chip.Holds.due (P := memWf))) | split | with_reducible intro _)
theorem Chip.contribPose_holds (c : Chip) (a : Nat) (b : Contrib) (hc : Holds memWf anyDue c) : Holds memWf anyDue (Chip.contribPose c a b).2 := by
  conv in (Chip.contribPose c a b) => (unfold Chip.contribPose; try dsimp only)
  repeat' (first | with_reducible assumption | with_reducible apply Chip.alignAt_holds | (with_reducible refine has_snd rfl ?_; first | with_reducible assumption | with_reducible apply Chip.alignAt_holds) | split)
theorem Chip.alignInputs_holds (c : Chip) (a : Nat) (b : List Contrib) (hc : Holds memWf anyDue c) : Holds memWf anyDue (Chip.alignInputs c a b).2 := by
  induction b generalizing c a with
  | nil =>
    conv in Chip.alignInputs _ _ _ => (unfold Chip.alignInputs; try dsimp only)
    repeat' (first | with_reducible assumption | fail | with_reducible apply Chip.contribPose_holds | with_reducible refine of_snd (by assumption) ?_ | (with_reducible refine has_snd rfl ?_; first | with_reducible assumption | fail | with_reducible apply Chip.contribPose_holds | with_reducible refine of_snd (by assumption) ?_) | split)
  | cons x l ih =>
    conv in Chip.alignInputs _ _ _ => (unfold Chip.alignInputs; try dsimp only)
    repeat' (first | with_reducible assumption | with_reducible apply ih | with_reducible apply Chip.contribPose_holds | with_reducible refine of_snd (by assumption) ?_ | (with_reducible refine has_snd rfl ?_; first | with_reducible assumption | with_reducible apply ih | with_reducible apply Chip.contribPose_holds | with_reducible refine of_snd (by assumption) ?_) | split)
theorem Chip.allDirty_holds (c : Chip) (a : Nat) (hc : Holds P Q c) : Holds P Q (Chip.allDirty c a) := by
  conv in (Chip.allDirty c a) => (unfold Chip.allDirty; try dsimp only)
  repeat' (first | with_reducible assumption | (refine ⟨?_, ?_⟩ <;> (dsimp only; first | exact trivial | with_reducible apply Chip.Holds.mem (Q := Q) | with_reducible apply Chip.Holds.due (P := P))))
theorem Chip.pushFirst_holds (c : Chip) (a : Nat) (b : EthFrame) (hc : Holds P Q c) : Holds P Q (Chip.pushFirst c a b) := by
  conv in (Chip.pushFirst c a b) => (unfold Chip.pushFirst; try dsimp only)
  repeat' (first | with_reducible assumption | (refine ⟨?_, ?_⟩ <;> (dsimp only; first | exact trivial | with_reducible apply Chip.Holds.mem (Q := Q) | with_reducible apply Chip.Holds.due (P := P))))
theorem Chip.sendAnnouncement_holds (c : Chip) (a : Nat) (hc : Holds P Q c) : Holds P Q (Chip.sendAnnouncement c a) := by
  conv in (Chip.sendAnnouncement c a) => (unfold Chip.sendAnnouncement; try dsimp only)
  repeat' (first | with_reducible assumption | with_reducible apply Chip.drawBytes_holds | with_reducible apply Chip.pushFirst_holds | with_reducible apply Chip.updDomain_holds | with_reducible apply foldl_holds | with_reducible intro _)
theorem Chip.announceAtStart_holds (c : Chip) (hc : Holds P Q c) : Holds P Q (Chip.announceAtStart c) := by
  conv in (Chip.announceAtStart c) => (unfold Chip.announceAtStart; try dsimp only)
  repeat' (first | with_reducible assumption | with_reducible apply Chip.sendAnnouncement_holds | with_reducible refine ite_holds ?_ ?_ | split)
theorem Chip.updPower_holds (c : Chip) (a : Power → Power) (hc : Holds P Q c) : Holds P Q (Chip.updPower c a) := by
  conv in (Chip.updPower c a) => (unfold Chip.updPower; try dsimp only)
  repeat' (first | with_reducible assumption | (refine ⟨?_, ?_⟩ <;> (dsimp only; first | exact trivial | with_reducible apply Chip.Holds.mem (Q := Q) | with_reducible apply Chip.Holds.due (P := P))))
theorem Chip.announceEff_holds (c : Chip) (a : Nat) (b : Nat) (hc : Holds memWf anyDue c) : Holds memWf anyDue (Chip.announceEff c a b) := by
  conv in (Chip.announceEff c a b) => (unfold Chip.announceEff; try dsimp only)
  repeat' (first | with_reducible assumption | with_reducible apply Chip.draw_holds | with_reducible apply Chip.event_holds | with_reducible apply Chip.updPower_holds | (with_reducible refine has_snd rfl ?_; first | with_reducible assumption | with_reducible apply Chip.draw_holds | with_reducible apply Chip.event_holds | with_reducible apply Chip.updPower_holds) | split)
theorem Chip.announceOwed_holds (c : Chip) (hc : Holds P Q c) : Holds P Q (Chip.announceOwed c) := by
  conv in (Chip.announceOwed c) => (unfold Chip.announceOwed; try dsimp only)
  repeat' (first | with_reducible assumption | with_reducible apply Chip.sendAnnouncement_holds | with_reducible apply Chip.updDomain_holds | with_reducible refine ite_holds ?_ ?_ | split)
theorem Chip.send_holds (c : Chip) (a : Wire) (b : List Byte) (hc : Holds P Q c) : Holds P Q (Chip.send c a b) := by
  conv in (Chip.send c a b) => (unfold Chip.send; try dsimp only)
  repeat' (first | with_reducible assumption | (refine ⟨?_, ?_⟩ <;> (dsimp only; first | exact trivial | with_reducible apply Chip.Holds.mem (Q := Q) | with_reducible apply Chip.Holds.due (P := P))))
theorem Chip.postedFail_holds (c : Chip) (a : Nat) (b : Req) (e : Nat) (hc : Holds memWf anyDue c) : Holds memWf anyDue (Chip.postedFail c a b e) := by
  conv in (Chip.postedFail c a b e) => (unfold Chip.postedFail; try dsimp only)
  repeat' (first | with_reducible assumption | with_reducible apply Chip.count_holds | with_reducible apply Chip.error_holds | with_reducible apply Chip.event_holds | with_reducible apply Chip.send_holds | with_reducible refine ite_holds ?_ ?_ | (refine ⟨?_, ?_⟩ <;> (dsimp only; first | exact trivial | with_reducible apply Chip.Holds.mem (Q := anyDue) | with_reducible apply Chip.Holds.due (P := memWf))))
theorem Chip.reply_holds (c : Chip) (a : Nat) (b : Nat) (e : ReplyStatus) (f : List Byte) (hc : Holds P Q c) : Holds P Q (Chip.reply c a b e f) := by
  conv in (Chip.reply c a b e f) => (unfold Chip.reply; try dsimp only)
  repeat' (first | with_reducible assumption | (refine ⟨?_, ?_⟩ <;> (dsimp only; first | exact trivial | with_reducible apply Chip.Holds.mem (Q := Q) | with_reducible apply Chip.Holds.due (P := P))))
theorem Chip.failed_holds (c : Chip) (a : Req) (b : Nat) (e : Nat) (hc : Holds memWf anyDue c) : Holds memWf anyDue (Chip.failed c a b e) := by
  conv in (Chip.failed c a b e) => (unfold Chip.failed; try dsimp only)
  repeat' (first | with_reducible assumption | with_reducible apply Chip.error_holds | with_reducible apply Chip.postedFail_holds | with_reducible apply Chip.reply_holds | with_reducible refine ite_holds ?_ ?_ | split)
theorem Chip.answer_holds (c : Chip) (a : DramReq) (b : ReplyStatus) (e : List Byte) (hc : Holds memWf anyDue c) : Holds memWf anyDue (Chip.answer c a b e) := by
  conv in (Chip.answer c a b e) => (unfold Chip.answer; try dsimp only)
  repeat' (first | with_reducible assumption | with_reducible apply Chip.failed_holds | with_reducible apply Chip.reply_holds | with_reducible refine ite_holds ?_ ?_)
theorem Chip.ptpSend_holds (c : Chip) (a : Nat) (b : List Byte) (hc : Holds P Q c) : Holds P Q (Chip.ptpSend c a b) := by
  conv in (Chip.ptpSend c a b) => (unfold Chip.ptpSend; try dsimp only)
  repeat' (first | with_reducible assumption | with_reducible apply Chip.count_holds | with_reducible apply Chip.drawBytes_holds | with_reducible apply Chip.send_holds)
theorem Chip.answerDelay_holds (c : Chip) (a : Nat) (b : Nat) (e : Nat) (f : List Byte) (hc : Holds P Q c) : Holds P Q (Chip.answerDelay c a b e f) := by
  conv in (Chip.answerDelay c a b e f) => (unfold Chip.answerDelay; try dsimp only)
  repeat' (first | with_reducible assumption | with_reducible apply Chip.ptpSend_holds)
theorem Chip.drivePins_holds (c : Chip) (a : Nat) (b : Nat) (hc : Holds P Q c) : Holds P Q (Chip.drivePins c a b) := by
  conv in (Chip.drivePins c a b) => (unfold Chip.drivePins; try dsimp only)
  repeat' (first | with_reducible assumption | with_reducible apply Chip.send_holds | with_reducible apply foldl_holds | split | with_reducible intro _)
theorem Chip.ignoreStart_holds (c : Chip) (hc : Holds P Q c) : Holds P Q (Chip.ignoreStart c) := by
  conv in (Chip.ignoreStart c) => (unfold Chip.ignoreStart; try dsimp only)
  repeat' (first | with_reducible assumption | with_reducible apply Chip.count_holds)
theorem Chip.leaveOn_holds (c : Chip) (hc : Holds memWf anyDue c) : Holds memWf anyDue (Chip.leaveOn c) := by
  conv in (Chip.leaveOn c) => (unfold Chip.leaveOn; try dsimp only)
  repeat' (first | with_reducible assumption | with_reducible apply Chip.abortFlying_holds | with_reducible apply Chip.finish_holds | with_reducible apply Chip.updPower_holds | with_reducible apply foldl_snd | with_reducible refine ite_holds ?_ ?_ | with_reducible refine ite_snd ?_ ?_ | split | with_reducible intro _)
theorem warmReq_holds (a : Nat) (c : Chip) (hc : Holds memWf anyDue c) : Holds memWf anyDue (warmReq a c) := by
  conv in (warmReq a c) => (unfold warmReq; try dsimp only)
  repeat' (first | with_reducible assumption | with_reducible apply Chip.ignoreStart_holds | with_reducible apply Chip.leaveOn_holds | with_reducible apply Chip.updPower_holds | with_reducible refine ite_holds ?_ ?_)
theorem Chip.aonWrite_holds (c : Chip) (a : RegSpec) (b : Nat) (e : Nat) (f : Nat) (hc : Holds memWf anyDue c) : Holds memWf anyDue (Chip.aonWrite c a b e f) := by
  conv in (Chip.aonWrite c a b e f) => (unfold Chip.aonWrite; try dsimp only)
  repeat' (first | with_reducible assumption | with_reducible apply Chip.drivePins_holds | with_reducible apply Chip.plainWrite_holds | with_reducible apply warmReq_holds | with_reducible refine ite_holds ?_ ?_)
theorem Chip.unitWrite_holds (c : Chip) (a : Nat) (b : Nat) (e : List Byte) (hc : Holds memWf anyDue c) : Holds memWf anyDue (Chip.unitWrite c a b e) := by
  conv in (Chip.unitWrite c a b e) => (unfold Chip.unitWrite; try dsimp only)
  repeat' (first | with_reducible assumption | with_reducible apply Chip.saveRange_holds)
theorem Chip.appendLog_holds (c : Chip) (a : LogRing) (b : Nat) (e : Nat) (f : Nat) (g : Nat) (i : Nat) (j : Nat) (hc : Holds memWf anyDue c) : Holds memWf anyDue (Chip.appendLog c a b e f g i j) := by
  conv in (Chip.appendLog c a b e f g i j) => (unfold Chip.appendLog; try dsimp only)
  repeat' (first | with_reducible assumption | with_reducible apply Chip.setReg_holds | with_reducible apply Chip.unitWrite_holds)
theorem Chip.appendTrace_holds (c : Chip) (a : Nat) (b : Nat) (e : Nat) (f : Nat) (g : Nat) (hc : Holds memWf anyDue c) : Holds memWf anyDue (Chip.appendTrace c a b e f g) := by
  conv in (Chip.appendTrace c a b e f g) => (unfold Chip.appendTrace; try dsimp only)
  repeat' (first | with_reducible assumption | with_reducible apply Chip.setReg_holds | with_reducible apply Chip.unitWrite_holds)
theorem Chip.messageSet_holds (c : Chip) (a : Packet) (hc : Holds P Q c) : Holds P Q (Chip.messageSet c a).2 := by
  conv in (Chip.messageSet c a) => (unfold Chip.messageSet; try dsimp only)
  repeat' (first | with_reducible assumption | with_reducible refine ite_snd ?_ ?_ | (with_reducible refine has_snd rfl ?_; first | with_reducible assumption | with_reducible refine ite_snd ?_ ?_ | (refine ⟨?_, ?_⟩ <;> (dsimp only; first | exact trivial | with_reducible apply Chip.Holds.mem (Q := Q) | with_reducible apply Chip.Holds.due (P := P)))) | (refine ⟨?_, ?_⟩ <;> (dsimp only; first | exact trivial | with_reducible apply Chip.Holds.mem (Q := Q) | with_reducible apply Chip.Holds.due (P := P))))
theorem Chip.showOutput_holds (c : Chip) (a : Nat) (hc : Holds P Q c) : Holds P Q (Chip.showOutput c a) := by
  conv in (Chip.showOutput c a) => (unfold Chip.showOutput; try dsimp only)
  repeat' (first | with_reducible assumption | with_reducible apply Chip.setReg_holds | split)
theorem Chip.setOutput_holds (c : Chip) (a : Nat) (b : Output) (hc : Holds P Q c) : Holds P Q (Chip.setOutput c a b) := by
  conv in (Chip.setOutput c a b) => (unfold Chip.setOutput; try dsimp only)
  repeat' (first | with_reducible assumption | with_reducible apply Chip.showOutput_holds | (refine ⟨?_, ?_⟩ <;> (dsimp only; first | exact trivial | with_reducible apply Chip.Holds.mem (Q := Q) | with_reducible apply Chip.Holds.due (P := P))))
theorem Chip.outputDisarm_holds (c : Chip) (a : Packet) (hc : Holds P Q c) : Holds P Q (Chip.outputDisarm c a).2 := by
  conv in (Chip.outputDisarm c a) => (unfold Chip.outputDisarm; try dsimp only)
  repeat' (first | with_reducible assumption | with_reducible apply Chip.setOutput_holds | with_reducible refine ite_holds ?_ ?_ | with_reducible refine ite_snd ?_ ?_ | (with_reducible refine has_snd rfl ?_; first | with_reducible assumption | with_reducible apply Chip.setOutput_holds | with_reducible refine ite_holds ?_ ?_ | with_reducible refine ite_snd ?_ ?_) | split)
theorem Chip.loadProfile_holds (c : Chip) (a : Nat) (hc : Holds memWf anyDue c) : Holds memWf anyDue (Chip.loadProfile c a).2.2 := by
  conv in (Chip.loadProfile c a) => (unfold Chip.loadProfile; try dsimp only)
  repeat' (first | with_reducible assumption | with_reducible apply Chip.loadRange_holds | with_reducible refine of_snd2 (by assumption) ?_ | (with_reducible refine has_snd2 rfl ?_; first | with_reducible assumption | with_reducible apply Chip.loadRange_holds | with_reducible refine of_snd2 (by assumption) ?_) | (with_reducible refine has_snd rfl ?_; first | with_reducible assumption | with_reducible apply Chip.loadRange_holds | with_reducible refine of_snd2 (by assumption) ?_) | split)
theorem Chip.outputSet_holds (c : Chip) (a : Bool) (b : Packet) (hc : Holds memWf anyDue c) : Holds memWf anyDue (Chip.outputSet c a b).2 := by
  conv in (Chip.outputSet c a b) => (unfold Chip.outputSet; try dsimp only)
  repeat' (first | with_reducible assumption | with_reducible apply Chip.loadProfile_holds | with_reducible apply Chip.setOutput_holds | with_reducible refine of_snd2 (by assumption) ?_ | with_reducible refine ite_snd ?_ ?_ | (with_reducible refine has_snd rfl ?_; first | with_reducible assumption | with_reducible apply Chip.loadProfile_holds | with_reducible apply Chip.setOutput_holds | with_reducible refine of_snd2 (by assumption) ?_ | with_reducible refine ite_snd ?_ ?_) | split)
theorem Chip.telltaleSet_holds (c : Chip) (a : Packet) (hc : Holds P Q c) : Holds P Q (Chip.telltaleSet c a).2 := by
  conv in (Chip.telltaleSet c a) => (unfold Chip.telltaleSet; try dsimp only)
  repeat' (first | with_reducible assumption | with_reducible refine ite_snd ?_ ?_ | (with_reducible refine has_snd rfl ?_; first | with_reducible assumption | with_reducible refine ite_snd ?_ ?_ | (refine ⟨?_, ?_⟩ <;> (dsimp only; first | exact trivial | with_reducible apply Chip.Holds.mem (Q := Q) | with_reducible apply Chip.Holds.due (P := P)))) | (refine ⟨?_, ?_⟩ <;> (dsimp only; first | exact trivial | with_reducible apply Chip.Holds.mem (Q := Q) | with_reducible apply Chip.Holds.due (P := P))))
theorem Chip.applySafety_holds (c : Chip) (a : Bool) (b : List Byte) (hc : Holds memWf anyDue c) : Holds memWf anyDue (Chip.applySafety c a b).2 := by
  conv in (Chip.applySafety c a b) => (unfold Chip.applySafety; try dsimp only)
  repeat' (first | with_reducible assumption | with_reducible apply Chip.messageSet_holds | with_reducible apply Chip.outputDisarm_holds | with_reducible apply Chip.outputSet_holds | with_reducible apply Chip.telltaleSet_holds | (with_reducible refine has_snd rfl ?_; first | with_reducible assumption | with_reducible apply Chip.messageSet_holds | with_reducible apply Chip.outputDisarm_holds | with_reducible apply Chip.outputSet_holds | with_reducible apply Chip.telltaleSet_holds) | split)
theorem Chip.ask_holds (c : Chip) (a : Nat) (b : List Units) (e : Nat) (hc : Holds P Q c) : Holds P Q (Chip.ask c a b e) := by
  conv in (Chip.ask c a b e) => (unfold Chip.ask; try dsimp only)
  repeat' (first | with_reducible assumption | with_reducible apply Chip.sluiceServe_holds | (refine ⟨?_, ?_⟩ <;> (dsimp only; first | exact trivial | with_reducible apply Chip.Holds.mem (Q := Q) | with_reducible apply Chip.Holds.due (P := P))))
theorem Chip.keepRunning_holds (c : Chip) (a : Nat) (hc : Holds P Q c) : Holds P Q (Chip.keepRunning c a) := by
  conv in (Chip.keepRunning c a) => (unfold Chip.keepRunning; try dsimp only)
  repeat' (first | with_reducible assumption | with_reducible apply Chip.updPacket_holds)
theorem Chip.askClose_holds (c : Chip) (a : Nat) (b : Nat) (hc : Holds P Q c) : Holds P Q (Chip.askClose c a b) := by
  conv in (Chip.askClose c a b) => (unfold Chip.askClose; try dsimp only)
  repeat' (first | with_reducible assumption | with_reducible apply Chip.keepRunning_holds | with_reducible apply Chip.setFld_holds | with_reducible apply Chip.updStream_holds)
theorem Chip.askJob_holds (c : Chip) (a : Job) (hc : Holds P Q c) : Holds P Q (Chip.askJob c a) := by
  conv in (Chip.askJob c a) => (unfold Chip.askJob; try dsimp only)
  repeat' (first | with_reducible assumption | with_reducible apply Chip.ask_holds | with_reducible refine ite_holds ?_ ?_)
theorem Chip.askTest_holds (c : Chip) (a : Nat) (hc : Holds P Q c) : Holds P Q (Chip.askTest c a) := by
  conv in (Chip.askTest c a) => (unfold Chip.askTest; try dsimp only)
  repeat' (first | with_reducible assumption | with_reducible apply Chip.ask_holds | with_reducible refine ite_holds ?_ ?_)
theorem Chip.atFrame_holds (c : Chip) (a : Nat) (hc : Holds P Q c) : Holds P Q (Chip.atFrame c a) := by
  conv in (Chip.atFrame c a) => (unfold Chip.atFrame; try dsimp only)
  repeat' (first | with_reducible assumption | (refine ⟨?_, ?_⟩ <;> (dsimp only; first | exact trivial | with_reducible apply Chip.Holds.mem (Q := Q) | with_reducible apply Chip.Holds.due (P := P))))
theorem Chip.hear_holds (c : Chip) (a : Nat) (b : Nat) (e : Nat) (f : List (List W32)) (hc : Holds P Q c) : Holds P Q (Chip.hear c a b e f) := by
  conv in (Chip.hear c a b e f) => (unfold Chip.hear; try dsimp only)
  repeat' (first | with_reducible assumption | (refine ⟨?_, ?_⟩ <;> (dsimp only; first | exact trivial | with_reducible apply Chip.Holds.mem (Q := Q) | with_reducible apply Chip.Holds.due (P := P))))
theorem Chip.avtpAt_holds (c : Chip) (a : Nat) (b : Nat) (e : Nat) (f : Nat) (g : Nat) (i : List (List W32)) (hc : Holds P Q c) : Holds P Q (Chip.avtpAt c a b e f g i) := by
  conv in (Chip.avtpAt c a b e f g i) => (unfold Chip.avtpAt; try dsimp only)
  repeat' (first | with_reducible assumption | with_reducible apply Chip.count_holds | with_reducible apply Chip.hear_holds | with_reducible refine ite_holds ?_ ?_)
theorem Chip.updLink_holds (c : Chip) (a : Links → Links) (hc : Holds P Q c) : Holds P Q (Chip.updLink c a) := by
  conv in (Chip.updLink c a) => (unfold Chip.updLink; try dsimp only)
  repeat' (first | with_reducible assumption | (refine ⟨?_, ?_⟩ <;> (dsimp only; first | exact trivial | with_reducible apply Chip.Holds.mem (Q := Q) | with_reducible apply Chip.Holds.due (P := P))))
theorem Chip.twinSend_holds (c : Chip) (a : Nat) (b : Nat) (e : List Byte) (f : (List Byte)) (hc : Holds P Q c) : Holds P Q (Chip.twinSend c a b e f) := by
  conv in (Chip.twinSend c a b e f) => (unfold Chip.twinSend; try dsimp only)
  repeat' (first | with_reducible assumption | with_reducible apply Chip.send_holds | with_reducible apply Chip.updLink_holds)
theorem Chip.beat_holds (c : Chip) (hc : Holds P Q c) : Holds P Q (Chip.beat c) := by
  conv in (Chip.beat c) => (unfold Chip.beat; try dsimp only)
  repeat' (first | with_reducible assumption | with_reducible apply Chip.twinSend_holds | with_reducible apply Chip.updLink_holds | with_reducible refine ite_holds ?_ ?_)
theorem Chip.releaseLate_holds (c : Chip) (a : Job) (hc : Holds memWf anyDue c) : Holds memWf anyDue (Chip.releaseLate c a) := by
  conv in (Chip.releaseLate c a) => (unfold Chip.releaseLate; try dsimp only)
  repeat' (first | with_reducible assumption | with_reducible apply Chip.count_holds | with_reducible apply Chip.event_holds | with_reducible apply Chip.updJob_holds | with_reducible refine ite_holds ?_ ?_)
theorem Chip.imageLines_holds (c : Chip) (a : Model) (b : Nat) (e : Nat) (f : Nat) (g : List (Nat × Nat)) (hc : Holds memWf anyDue c) : Holds memWf anyDue (Chip.imageLines c a b e f g).2.2 := by
  induction g generalizing c a b e f with
  | nil =>
    conv in Chip.imageLines _ _ _ _ _ _ => (unfold Chip.imageLines; try dsimp only)
    repeat' (first | with_reducible assumption | fail | with_reducible apply Chip.load_holds | with_reducible refine of_snd2 (by assumption) ?_ | (with_reducible refine has_snd2 rfl ?_; first | with_reducible assumption | fail | with_reducible apply Chip.load_holds | with_reducible refine of_snd2 (by assumption) ?_) | (with_reducible refine has_snd rfl ?_; first | with_reducible assumption | fail | with_reducible apply Chip.load_holds | with_reducible refine of_snd2 (by assumption) ?_) | split)
  | cons x l ih =>
    conv in Chip.imageLines _ _ _ _ _ _ => (unfold Chip.imageLines; try dsimp only)
    repeat' (first | with_reducible assumption | with_reducible apply ih | with_reducible apply Chip.load_holds | with_reducible refine of_snd2 (by assumption) ?_ | (with_reducible refine has_snd2 rfl ?_; first | with_reducible assumption | with_reducible apply ih | with_reducible apply Chip.load_holds | with_reducible refine of_snd2 (by assumption) ?_) | (with_reducible refine has_snd rfl ?_; first | with_reducible assumption | with_reducible apply ih | with_reducible apply Chip.load_holds | with_reducible refine of_snd2 (by assumption) ?_) | split)
theorem Chip.imageRead_holds (c : Chip) (a : Model) (b : Nat) (e : Nat) (f : Nat) (g : Nat) (i : Nat) (hc : Holds memWf anyDue c) : Holds memWf anyDue (Chip.imageRead c a b e f g i).2.2 := by
  conv in (Chip.imageRead c a b e f g i) => (unfold Chip.imageRead; try dsimp only)
  repeat' (first | with_reducible assumption | with_reducible apply Chip.imageLines_holds)
theorem Chip.relocList_holds (c : Chip) (a : Model) (b : Variant) (e : Nat) (f : Nat) (g : Nat) (hc : Holds memWf anyDue c) : Holds memWf anyDue (Chip.relocList c a b e f g).2 := by
  conv in (Chip.relocList c a b e f g) => (unfold Chip.relocList; try dsimp only)
  repeat' (first | with_reducible assumption | with_reducible apply Chip.imageRead_holds)
theorem Chip.startEngines_holds (c : Chip) (a : Job) (b : Chan) (e : List (Nat × Nat)) (hc : Holds P Q c) : Holds P Q (Chip.startEngines c a b e) := by
  conv in (Chip.startEngines c a b e) => (unfold Chip.startEngines; try dsimp only)
  repeat' (first | with_reducible assumption | with_reducible apply Chip.setEngine_holds | with_reducible apply Chip.setReg_holds | with_reducible apply foldl_holds | split | with_reducible intro _)
theorem Chip.preloadLine_holds (c : Chip) (a : Nat) (b : List Byte) (hc : Holds memWf anyDue c) : Holds memWf anyDue (Chip.preloadLine c a b) := by
  conv in (Chip.preloadLine c a b) => (unfold Chip.preloadLine; try dsimp only)
  repeat' (first | with_reducible assumption | with_reducible apply Chip.store_holds | (refine ⟨?_, ?_⟩ <;> (dsimp only; first | exact trivial | with_reducible apply Chip.Holds.mem (Q := anyDue) | with_reducible apply Chip.Holds.due (P := memWf))))
theorem Chip.preloadAll_holds (c : Chip) (a : Model) (b : Nat) (e : Nat) (f : Nat) (g : Option (List Nat)) (i : List (Nat × Nat)) (hc : Holds memWf anyDue c) : Holds memWf anyDue (Chip.preloadAll c a b e f g i).2 := by
  induction i generalizing c a b e f g with
  | nil =>
    conv in Chip.preloadAll _ _ _ _ _ _ _ => (unfold Chip.preloadAll; try dsimp only)
    repeat' (first | with_reducible assumption | fail | with_reducible apply Chip.imageRead_holds | with_reducible apply Chip.preloadLine_holds | with_reducible refine of_snd2 (by assumption) ?_ | with_reducible refine ite_snd ?_ ?_ | (with_reducible refine has_snd rfl ?_; first | with_reducible assumption | fail | with_reducible apply Chip.imageRead_holds | with_reducible apply Chip.preloadLine_holds | with_reducible refine of_snd2 (by assumption) ?_ | with_reducible refine ite_snd ?_ ?_) | split)
  | cons x l ih =>
    conv in Chip.preloadAll _ _ _ _ _ _ _ => (unfold Chip.preloadAll; try dsimp only)
    repeat' (first | with_reducible assumption | with_reducible apply ih | with_reducible apply Chip.imageRead_holds | with_reducible apply Chip.preloadLine_holds | with_reducible refine of_snd2 (by assumption) ?_ | with_reducible refine ite_snd ?_ ?_ | (with_reducible refine has_snd rfl ?_; first | with_reducible assumption | with_reducible apply ih | with_reducible apply Chip.imageRead_holds | with_reducible apply Chip.preloadLine_holds | with_reducible refine of_snd2 (by assumption) ?_ | with_reducible refine ite_snd ?_ ?_) | split)
theorem Chip.patchTile_holds (c : Chip) (a : Chan) (b : Nat) (e : Nat) (f : Nat × Nat) (hc : Holds memWf anyDue c) : Holds memWf anyDue (Chip.patchTile c a b e f) := by
  conv in (Chip.patchTile c a b e f) => (unfold Chip.patchTile; try dsimp only)
  repeat' (first | with_reducible assumption | with_reducible apply Chip.store_holds | with_reducible refine ite_holds ?_ ?_)
theorem Chip.rillClear_holds (c : Chip) (a : Nat) (b : Nat) (hc : Holds P Q c) : Holds P Q (Chip.rillClear c a b) := by
  conv in (Chip.rillClear c a b) => (unfold Chip.rillClear; try dsimp only)
  repeat' (first | with_reducible assumption | with_reducible apply Chip.setReg_holds)
theorem Chip.tileArmed_holds (c : Chip) (a : Chan) (b : List (Nat × Nat)) (e : Nat) (f : Nat) (g : Tile) (i : List Byte) (hc : Holds memWf anyDue c) : Holds memWf anyDue (Chip.tileArmed c a b e f g i) := by
  conv in (Chip.tileArmed c a b e f g i) => (unfold Chip.tileArmed; try dsimp only)
  repeat' (first | with_reducible assumption | with_reducible apply Chip.patchTile_holds | with_reducible apply Chip.rillClear_holds | with_reducible apply Chip.setReg_holds | with_reducible apply Chip.setTile_holds | with_reducible apply foldl_holds | split | with_reducible intro _)
theorem Chip.tileBegun_holds (c : Chip) (a : Job) (b : Chan) (e : Nat) (f : Nat) (g : Tile) (hc : Holds memWf anyDue c) : Holds memWf anyDue (Chip.tileBegun c a b e f g) := by
  conv in (Chip.tileBegun c a b e f g) => (unfold Chip.tileBegun; try dsimp only)
  repeat' (first | with_reducible assumption | with_reducible apply Chip.allDirty_holds | with_reducible apply Chip.setBusy_holds | with_reducible apply Chip.setReg_holds | with_reducible apply Chip.setTile_holds | with_reducible apply Chip.setTileState_holds | with_reducible apply Chip.store_holds)
theorem Chip.tileEntry_holds (c : Chip) (a : Model) (b : Variant) (e : Nat) (f : Nat) (g : Nat) (i : Nat) (hc : Holds memWf anyDue c) : Holds memWf anyDue (Chip.tileEntry c a b e f g i).2 := by
  conv in (Chip.tileEntry c a b e f g i) => (unfold Chip.tileEntry; try dsimp only)
  repeat' (first | with_reducible assumption | with_reducible apply Chip.imageRead_holds | with_reducible refine of_snd2 (by assumption) ?_ | (with_reducible refine has_snd rfl ?_; first | with_reducible assumption | with_reducible apply Chip.imageRead_holds | with_reducible refine of_snd2 (by assumption) ?_) | split)
theorem Chip.startTile_holds (c : Chip) (a : Job) (b : Chan) (e : Model) (f : Variant) (g : List (Nat × Nat)) (i : Nat) (hc : Holds memWf anyDue c) : Holds memWf anyDue (Chip.startTile c a b e f g i) := by
  conv in (Chip.startTile c a b e f g i) => (unfold Chip.startTile; try dsimp only)
  repeat' (first | with_reducible assumption | with_reducible apply Chip.preloadAll_holds | with_reducible apply Chip.tileArmed_holds | with_reducible apply Chip.tileBegun_holds | with_reducible apply Chip.tileEntry_holds | with_reducible apply Chip.tileFault_holds | with_reducible refine of_snd (by assumption) ?_ | split)
theorem Chip.startChan_holds (c : Chip) (a : Job) (b : Chan) (hc : Holds memWf anyDue c) : Holds memWf anyDue (Chip.startChan c a b) := by
  conv in (Chip.startChan c a b) => (unfold Chip.startChan; try dsimp only)
  repeat' (first | with_reducible assumption | with_reducible apply Chip.relocList_holds | with_reducible apply Chip.startEngines_holds | with_reducible apply Chip.startTile_holds | with_reducible apply foldl_holds | split | with_reducible intro _)
theorem Chip.beginJob_holds (c : Chip) (a : Nat) (hc : Holds memWf anyDue c) : Holds memWf anyDue (Chip.beginJob c a) := by
  conv in (Chip.beginJob c a) => (unfold Chip.beginJob; try dsimp only)
  repeat' (first | with_reducible assumption | with_reducible apply Chip.releaseLate_holds | with_reducible apply Chip.setBusy_holds | with_reducible apply Chip.setTileState_holds | with_reducible apply Chip.startChan_holds | with_reducible apply Chip.updJob_holds | with_reducible apply foldl_holds | with_reducible refine ite_holds ?_ ?_ | split | with_reducible intro _)
theorem Chip.beginAfterLoad_holds (c : Chip) (a : Nat) (hc : Holds memWf anyDue c) : Holds memWf anyDue (Chip.beginAfterLoad c a) := by
  conv in (Chip.beginAfterLoad c a) => (unfold Chip.beginAfterLoad; try dsimp only)
  repeat' (first | with_reducible assumption | with_reducible apply Chip.beginJob_holds | with_reducible apply foldl_holds | split | with_reducible intro _)
theorem Chip.forgetFrames_holds (c : Chip) (a : Nat) (hc : Holds P Q c) : Holds P Q (Chip.forgetFrames c a) := by
  conv in (Chip.forgetFrames c a) => (unfold Chip.forgetFrames; try dsimp only)
  repeat' (first | with_reducible assumption | with_reducible apply Chip.updStream_holds)
theorem Chip.streamEvent_holds (c : Chip) (a : Nat) (b : Nat) (e : Nat) (f : Nat) (g : Nat) (hc : Holds memWf anyDue c) : Holds memWf anyDue (Chip.streamEvent c a b e f g) := by
  conv in (Chip.streamEvent c a b e f g) => (unfold Chip.streamEvent; try dsimp only)
  repeat' (first | with_reducible assumption | with_reducible apply Chip.event_holds | split)
theorem Chip.lateDrop_holds (c : Chip) (a : Nat) (b : Nat) (e : Nat) (f : Nat) (g : Nat) (hc : Holds memWf anyDue c) : Holds memWf anyDue (Chip.lateDrop c a b e f g) := by
  conv in (Chip.lateDrop c a b e f g) => (unfold Chip.lateDrop; try dsimp only)
  repeat' (first | with_reducible assumption | with_reducible apply Chip.count_holds | with_reducible apply Chip.streamEvent_holds | with_reducible apply Chip.updStream_holds)
theorem Chip.updFrame_holds (c : Chip) (a : Nat) (b : Nat) (e : FuseFrame → FuseFrame) (hc : Holds P Q c) : Holds P Q (Chip.updFrame c a b e) := by
  conv in (Chip.updFrame c a b e) => (unfold Chip.updFrame; try dsimp only)
  repeat' (first | with_reducible assumption | with_reducible apply Chip.updStream_holds)
theorem Chip.lateOver_holds (c : Chip) (a : Nat) (b : FuseFrame) (e : Bool) (hc : Holds memWf anyDue c) : Holds memWf anyDue (Chip.lateOver c a b e) := by
  conv in (Chip.lateOver c a b e) => (unfold Chip.lateOver; try dsimp only)
  repeat' (first | with_reducible assumption | with_reducible apply Chip.forgetFrames_holds | with_reducible apply Chip.lateDrop_holds | with_reducible apply Chip.updFrame_holds | with_reducible refine ite_holds ?_ ?_ | split)
theorem Chip.boundaryDrops_holds (c : Chip) (a : Nat) (b : Nat) (hc : Holds memWf anyDue c) : Holds memWf anyDue (Chip.boundaryDrops c a b) := by
  conv in (Chip.boundaryDrops c a b) => (unfold Chip.boundaryDrops; try dsimp only)
  repeat' (first | with_reducible assumption | with_reducible apply Chip.lateOver_holds | with_reducible apply foldl_holds | split | with_reducible intro _)
theorem Chip.beginFrame_holds (c : Chip) (a : Nat) (b : Nat) (hc : Holds memWf anyDue c) : Holds memWf anyDue (Chip.beginFrame c a b) := by
  conv in (Chip.beginFrame c a b) => (unfold Chip.beginFrame; try dsimp only)
  repeat' (first | with_reducible assumption | with_reducible apply Chip.boundaryDrops_holds | with_reducible apply Chip.updStream_holds | with_reducible refine ite_holds ?_ ?_ | split)
theorem Chip.fillEdges_holds (c : Chip) (a : Nat) (b : Nat) (e : Nat) (f : Nat) (hc : Holds memWf anyDue c) : Holds memWf anyDue (Chip.fillEdges c a b e f) := by
  induction f generalizing c a b e with
  | zero =>
    conv in Chip.fillEdges _ _ _ _ _ => (unfold Chip.fillEdges; try dsimp only)
    repeat' (first | with_reducible assumption | fail | with_reducible apply Chip.beginFrame_holds)
  | succ k ih =>
    conv in Chip.fillEdges _ _ _ _ _ => (unfold Chip.fillEdges; try dsimp only)
    repeat' (first | with_reducible assumption | with_reducible apply ih | with_reducible apply Chip.beginFrame_holds)
theorem Chip.beginFrom_holds (c : Chip) (a : Nat) (b : Nat) (hc : Holds memWf anyDue c) : Holds memWf anyDue (Chip.beginFrom c a b) := by
  conv in (Chip.beginFrom c a b) => (unfold Chip.beginFrom; try dsimp only)
  repeat' (first | with_reducible assumption | with_reducible apply Chip.beginFrame_holds | with_reducible apply Chip.fillEdges_holds | with_reducible refine ite_holds ?_ ?_ | split)
theorem Chip.beginMissed_holds (c : Chip) (a : Nat) (b : FuseStream) (hc : Holds memWf anyDue c) : Holds memWf anyDue (Chip.beginMissed c a b) := by
  conv in (Chip.beginMissed c a b) => (unfold Chip.beginMissed; try dsimp only)
  repeat' (first | with_reducible assumption | with_reducible apply Chip.beginFrame_holds | split)
theorem Chip.beginSlice_holds (c : Chip) (a : Nat) (hc : Holds P Q c) : Holds P Q (Chip.beginSlice c a) := by
  conv in (Chip.beginSlice c a) => (unfold Chip.beginSlice; try dsimp only)
  repeat' (first | with_reducible assumption | with_reducible apply Chip.setBusy_holds | with_reducible apply Chip.setReg_holds | with_reducible apply Chip.setTileState_holds | with_reducible apply Chip.setTileTest_holds | with_reducible apply Chip.showQueued_holds | with_reducible apply Chip.updTest_holds | (refine ⟨?_, ?_⟩ <;> (dsimp only; first | exact trivial | with_reducible apply Chip.Holds.mem (Q := Q) | with_reducible apply Chip.Holds.due (P := P))))
theorem Chip.beginWake_holds (c : Chip) (a : Nat) (hc : Holds P Q c) : Holds P Q (Chip.beginWake c a) := by
  conv in (Chip.beginWake c a) => (unfold Chip.beginWake; try dsimp only)
  repeat' (first | with_reducible assumption | with_reducible apply Chip.setFld_holds | with_reducible apply Chip.updPower_holds)

end Sys2Proof.Machine
end

