-- ==== Sys2Proof/Laws/Kept2.lean ====
section
/-!
SUPPORT. What every operation of the part keeps, 2 of 4: one that stores nothing keeps any property `P` of the memory and
any `Q` of the mark of a lost safety record; one that may store keeps the canonical form of the memory.  Each is proved from
those of the operations it calls.
-/

namespace Sys2Proof.Machine

open Chip (Holds)

variable {P : Memory → Prop} {Q : Bool → Prop}

theorem Chip.bindGrid_holds (c : Chip) (a : Nat) (b : Grid) (hc : Holds P Q c) : Holds P Q (Chip.bindGrid c a b) := by
  conv in (Chip.bindGrid c a b) => (unfold Chip.bindGrid; try dsimp only)
  repeat' (first | with_reducible assumption | (refine ⟨?_, ?_⟩ <;> (dsimp only; first | exact trivial | with_reducible apply Chip.Holds.mem (Q := Q) | with_reducible apply Chip.Holds.due (P := P))))
theorem Chip.bindTracker_holds (c : Chip) (a : Tracker) (hc : Holds memWf anyDue c) : Holds memWf anyDue (Chip.bindTracker c a) := by
  conv in (Chip.bindTracker c a) => (unfold Chip.bindTracker; try dsimp only)
  repeat' (first | with_reducible assumption | with_reducible apply Chip.event_holds | with_reducible apply Chip.setReg_holds | with_reducible refine ite_holds ?_ ?_ | (refine ⟨?_, ?_⟩ <;> (dsimp only; first | exact trivial | with_reducible apply Chip.Holds.mem (Q := anyDue) | with_reducible apply Chip.Holds.due (P := memWf))))
theorem Chip.closeStream_holds (c : Chip) (a : Nat) (hc : Holds P Q c) : Holds P Q (Chip.closeStream c a) := by
  conv in (Chip.closeStream c a) => (unfold Chip.closeStream; try dsimp only)
  repeat' (first | with_reducible assumption | with_reducible apply Chip.finish_holds | with_reducible apply Chip.setReg_holds | with_reducible apply foldl_holds | (refine ⟨?_, ?_⟩ <;> (dsimp only; first | exact trivial | with_reducible apply Chip.Holds.mem (Q := Q) | with_reducible apply Chip.Holds.due (P := P))) | split | with_reducible intro _)
theorem Chip.boundary_holds (c : Chip) (a : Nat) (hc : Holds P Q c) : Holds P Q (Chip.boundary c a) := by
  conv in (Chip.boundary c a) => (unfold Chip.boundary; try dsimp only)
  repeat' (first | with_reducible assumption | with_reducible apply Chip.closeStream_holds | with_reducible refine ite_holds ?_ ?_ | split)
theorem Chip.breakLockstep_holds (c : Chip) (hc : Holds memWf anyDue c) : Holds memWf anyDue (Chip.breakLockstep c) := by
  conv in (Chip.breakLockstep c) => (unfold Chip.breakLockstep; try dsimp only)
  repeat' (first | with_reducible assumption | with_reducible apply Chip.event_holds | with_reducible apply Chip.setFld_holds | with_reducible refine ite_holds ?_ ?_)
theorem Chip.bridgeRefused_holds (c : Chip) (a : Req) (b : Nat) (e : Nat) (hc : Holds memWf anyDue c) : Holds memWf anyDue (Chip.bridgeRefused c a b e) := by
  conv in (Chip.bridgeRefused c a b e) => (unfold Chip.bridgeRefused; try dsimp only)
  repeat' (first | with_reducible assumption | with_reducible apply Chip.bridgeError_holds | with_reducible apply Chip.failed_holds)
theorem Chip.pushCan_holds (c : Chip) (a : Nat) (b : CanFrame) (hc : Holds P Q c) : Holds P Q (Chip.pushCan c a b) := by
  conv in (Chip.pushCan c a b) => (unfold Chip.pushCan; try dsimp only)
  repeat' (first | with_reducible assumption | (refine ⟨?_, ?_⟩ <;> (dsimp only; first | exact trivial | with_reducible apply Chip.Holds.mem (Q := Q) | with_reducible apply Chip.Holds.due (P := P))))
theorem Chip.safeMessage_holds (c : Chip) (a : Nat) (b : Nat) (e : Nat) (f : Nat) (g : Nat) (hc : Holds P Q c) : Holds P Q (Chip.safeMessage c a b e f g) := by
  conv in (Chip.safeMessage c a b e f g) => (unfold Chip.safeMessage; try dsimp only)
  repeat' (first | with_reducible assumption | with_reducible apply Chip.pushCan_holds | with_reducible apply Chip.pushFirst_holds | with_reducible apply Chip.setReg_holds | with_reducible apply foldl_holds | with_reducible refine ite_holds ?_ ?_ | (refine ⟨?_, ?_⟩ <;> (dsimp only; first | exact trivial | with_reducible apply Chip.Holds.mem (Q := Q) | with_reducible apply Chip.Holds.due (P := P))) | split | with_reducible intro _)
theorem Chip.setSafeN_holds (c : Chip) (a : Nat) (b : Bool) (hc : Holds P Q c) : Holds P Q (Chip.setSafeN c a b) := by
  conv in (Chip.setSafeN c a b) => (unfold Chip.setSafeN; try dsimp only)
  repeat' (first | with_reducible assumption | with_reducible apply Chip.setFld_holds | (refine ⟨?_, ?_⟩ <;> (dsimp only; first | exact trivial | with_reducible apply Chip.Holds.mem (Q := Q) | with_reducible apply Chip.Holds.due (P := P))))
theorem Chip.enterSafe_holds (c : Chip) (a : Nat) (b : Nat) (e : Nat) (f : Nat) (hc : Holds memWf anyDue c) : Holds memWf anyDue (Chip.enterSafe c a b e f) := by
  conv in (Chip.enterSafe c a b e f) => (unfold Chip.enterSafe; try dsimp only)
  repeat' (first | with_reducible assumption | with_reducible apply Chip.event_holds | with_reducible apply Chip.safeMessage_holds | with_reducible apply Chip.setFld_holds | with_reducible apply Chip.setReg_holds | with_reducible apply Chip.setSafeN_holds | with_reducible apply foldl_holds | with_reducible refine ite_holds ?_ ?_ | (refine ⟨?_, ?_⟩ <;> (dsimp only; first | exact trivial | with_reducible apply Chip.Holds.mem (Q := anyDue) | with_reducible apply Chip.Holds.due (P := memWf))) | split | with_reducible intro _)
theorem Chip.enterSafeMask_holds (c : Chip) (a : Nat) (b : Nat) (hc : Holds memWf anyDue c) : Holds memWf anyDue (Chip.enterSafeMask c a b) := by
  conv in (Chip.enterSafeMask c a b) => (unfold Chip.enterSafeMask; try dsimp only)
  repeat' (first | with_reducible assumption | with_reducible apply Chip.enterSafe_holds | with_reducible apply foldl_holds | split | with_reducible intro _)
theorem Chip.goldenFail_holds (c : Chip) (a : Nat) (b : Nat) (hc : Holds memWf anyDue c) : Holds memWf anyDue (Chip.goldenFail c a b) := by
  conv in (Chip.goldenFail c a b) => (unfold Chip.goldenFail; try dsimp only)
  repeat' (first | with_reducible assumption | with_reducible apply Chip.enterSafeMask_holds | with_reducible apply Chip.event_holds | with_reducible apply Chip.setFld_holds)
theorem Chip.budgetDenied_holds (c : Chip) (a : Asker) (hc : Holds memWf anyDue c) : Holds memWf anyDue (Chip.budgetDenied c a) := by
  conv in (Chip.budgetDenied c a) => (unfold Chip.budgetDenied; try dsimp only)
  repeat' (first | with_reducible assumption | with_reducible apply Chip.count_holds | with_reducible apply Chip.endJob_holds | with_reducible apply Chip.endPass_holds | with_reducible apply Chip.finish_holds | with_reducible apply Chip.goldenFail_holds | with_reducible apply Chip.removeJob_holds | split)
theorem Chip.bundleServed_holds (c : Chip) (hc : Holds memWf anyDue c) : Holds memWf anyDue (Chip.bundleServed c) := by
  conv in (Chip.bundleServed c) => (unfold Chip.bundleServed; try dsimp only)
  repeat' (first | with_reducible assumption | with_reducible apply Chip.event_holds | with_reducible apply Chip.twinSend_holds | with_reducible apply Chip.updLink_holds)
theorem Chip.canRecord_holds (c : Chip) (a : Nat) (b : List Byte) (hc : Holds memWf anyDue c) : Holds memWf anyDue (Chip.canRecord c a b) := by
  conv in (Chip.canRecord c a b) => (unfold Chip.canRecord; try dsimp only)
  repeat' (first | with_reducible assumption | with_reducible apply Chip.count_holds | with_reducible apply Chip.savePieces_holds | with_reducible apply Chip.setReg_holds | with_reducible refine ite_holds ?_ ?_)
theorem Chip.netRecord_holds (c : Chip) (a : Nat) (b : Nat) (e : Nat) (f : Option Nat) (hc : Holds memWf anyDue c) : Holds memWf anyDue (Chip.netRecord c a b e f) := by
  conv in (Chip.netRecord c a b e f) => (unfold Chip.netRecord; try dsimp only)
  repeat' (first | with_reducible assumption | with_reducible apply Chip.error_holds)
theorem Chip.gatewayPush_holds (c : Chip) (a : Nat) (b : CanFrame) (hc : Holds memWf anyDue c) : Holds memWf anyDue (Chip.gatewayPush c a b) := by
  conv in (Chip.gatewayPush c a b) => (unfold Chip.gatewayPush; try dsimp only)
  repeat' (first | with_reducible assumption | with_reducible apply Chip.count_holds | with_reducible apply Chip.netRecord_holds | with_reducible apply Chip.updNet_holds | with_reducible refine ite_holds ?_ ?_)
theorem Chip.gatewayAll_holds (c : Chip) (a : Nat) (b : CanFrame) (hc : Holds memWf anyDue c) : Holds memWf anyDue (Chip.gatewayAll c a b) := by
  conv in (Chip.gatewayAll c a b) => (unfold Chip.gatewayAll; try dsimp only)
  repeat' (first | with_reducible assumption | with_reducible apply Chip.gatewayPush_holds | with_reducible apply foldl_holds | with_reducible intro _)
theorem Chip.canRoute_holds (c : Chip) (a : Nat) (b : Nat) (e : List Byte) (f : CanFrame) (hc : Holds memWf anyDue c) : Holds memWf anyDue (Chip.canRoute c a b e f) := by
  conv in (Chip.canRoute c a b e f) => (unfold Chip.canRoute; try dsimp only)
  repeat' (first | with_reducible assumption | with_reducible apply Chip.acfSend_holds | with_reducible apply Chip.canRecord_holds | with_reducible apply Chip.gatewayAll_holds | with_reducible refine ite_holds ?_ ?_)
theorem canTxTail_holds (a : Nat) (b : Nat) (e : Nat) (c : Chip) (hc : Holds P Q c) : Holds P Q (canTxTail a b e c) := by
  conv in (canTxTail a b e c) => (unfold canTxTail; try dsimp only)
  repeat' (first | with_reducible assumption | with_reducible apply Chip.setReg_holds | with_reducible refine ite_holds ?_ ?_)
theorem Chip.canWrite_holds (c : Chip) (a : RegSpec) (b : Nat) (e : Nat) (f : Nat) (hc : Holds P Q c) : Holds P Q (Chip.canWrite c a b e f) := by
  conv in (Chip.canWrite c a b e f) => (unfold Chip.canWrite; try dsimp only)
  repeat' (first | with_reducible assumption | with_reducible apply Chip.plainWrite_holds | with_reducible apply canTxTail_holds | with_reducible refine ite_holds ?_ ?_)
theorem Chip.showDomain_holds (c : Chip) (hc : Holds P Q c) : Holds P Q (Chip.showDomain c) := by
  conv in (Chip.showDomain c) => (unfold Chip.showDomain; try dsimp only)
  repeat' (first | with_reducible assumption | with_reducible apply Chip.setReg_holds | with_reducible apply foldl_holds | with_reducible intro _)
theorem Chip.cancelSwitch_holds (c : Chip) (hc : Holds memWf anyDue c) : Holds memWf anyDue (Chip.cancelSwitch c) := by
  conv in (Chip.cancelSwitch c) => (unfold Chip.cancelSwitch; try dsimp only)
  repeat' (first | with_reducible assumption | with_reducible apply Chip.event_holds | with_reducible apply Chip.showDomain_holds | with_reducible apply Chip.updDomain_holds)
theorem Chip.cflWrite_holds (c : Chip) (a : Nat) (b : Nat) (e : List Byte) (hc : Holds memWf anyDue c) : Holds memWf anyDue (Chip.cflWrite c a b e) := by
  conv in (Chip.cflWrite c a b e) => (unfold Chip.cflWrite; try dsimp only)
  repeat' (first | with_reducible assumption | with_reducible apply Chip.saveRange_holds)
theorem triggerEnable_holds (a : Nat) (b : Nat) (e : Nat) (c : Chip) (hc : Holds P Q c) : Holds P Q (triggerEnable a b e c) := by
  conv in (triggerEnable a b e c) => (unfold triggerEnable; try dsimp only)
  repeat' (first | with_reducible assumption | with_reducible apply Chip.setFld_holds | with_reducible apply Chip.setReg_holds | with_reducible refine ite_holds ?_ ?_)
theorem Chip.cflWriteReg_holds (c : Chip) (a : RegSpec) (b : Nat) (e : Nat) (f : Nat) (hc : Holds P Q c) : Holds P Q (Chip.cflWriteReg c a b e f) := by
  conv in (Chip.cflWriteReg c a b e f) => (unfold Chip.cflWriteReg; try dsimp only)
  repeat' (first | with_reducible assumption | with_reducible apply Chip.plainWrite_holds | with_reducible apply triggerEnable_holds | with_reducible refine ite_holds ?_ ?_)
theorem Chip.endDiverse_holds (c : Chip) (a : Nat) (b : Nat) (e : Nat) (f : Nat) (hc : Holds memWf anyDue c) : Holds memWf anyDue (Chip.endDiverse c a b e f) := by
  conv in (Chip.endDiverse c a b e f) => (unfold Chip.endDiverse; try dsimp only)
  repeat' (first | with_reducible assumption | with_reducible apply Chip.count_holds | with_reducible apply Chip.jobPacket_holds | with_reducible apply Chip.removeJob_holds | with_reducible refine ite_holds ?_ ?_ | split)
theorem Chip.safeEvent_holds (c : Chip) (a : Nat) (b : Nat) (e : Nat) (f : Nat) (g : Nat) (i : Nat) (hc : Holds memWf anyDue c) : Holds memWf anyDue (Chip.safeEvent c a b e f g i) := by
  conv in (Chip.safeEvent c a b e f g i) => (unfold Chip.safeEvent; try dsimp only)
  repeat' (first | with_reducible assumption | with_reducible apply Chip.event_holds | with_reducible refine ite_holds ?_ ?_)
theorem Chip.outputFault_holds (c : Chip) (a : Nat) (b : Nat) (e : Nat) (f : Nat) (g : Nat) (hc : Holds memWf anyDue c) : Holds memWf anyDue (Chip.outputFault c a b e f g) := by
  conv in (Chip.outputFault c a b e f g) => (unfold Chip.outputFault; try dsimp only)
  repeat' (first | with_reducible assumption | with_reducible apply Chip.count_holds | with_reducible apply Chip.enterSafe_holds | with_reducible apply Chip.safeEvent_holds | with_reducible refine ite_holds ?_ ?_ | split)
theorem Chip.wake_holds (c : Chip) (a : Nat) (hc : Holds P Q c) : Holds P Q (Chip.wake c a) := by
  conv in (Chip.wake c a) => (unfold Chip.wake; try dsimp only)
  repeat' (first | with_reducible assumption | (refine ⟨?_, ?_⟩ <;> (dsimp only; first | exact trivial | with_reducible apply Chip.Holds.mem (Q := Q) | with_reducible apply Chip.Holds.due (P := P))))
theorem Chip.signal_holds (c : Chip) (a : Nat) (b : Signal) (hc : Holds P Q c) : Holds P Q (Chip.signal c a b) := by
  conv in (Chip.signal c a b) => (unfold Chip.signal; try dsimp only)
  repeat' (first | with_reducible assumption | with_reducible apply Chip.wake_holds | (refine ⟨?_, ?_⟩ <;> (dsimp only; first | exact trivial | with_reducible apply Chip.Holds.mem (Q := Q) | with_reducible apply Chip.Holds.due (P := P))))
theorem Chip.signalFail_holds (c : Chip) (a : Nat) (b : Signal) (hc : Holds P Q c) : Holds P Q (Chip.signalFail c a b) := by
  conv in (Chip.signalFail c a b) => (unfold Chip.signalFail; try dsimp only)
  repeat' (first | with_reducible assumption | with_reducible apply Chip.wake_holds | (refine ⟨?_, ?_⟩ <;> (dsimp only; first | exact trivial | with_reducible apply Chip.Holds.mem (Q := Q) | with_reducible apply Chip.Holds.due (P := P))))
theorem Chip.stampReady_holds (c : Chip) (hc : Holds P Q c) : Holds P Q (Chip.stampReady c) := by
  conv in (Chip.stampReady c) => (unfold Chip.stampReady; try dsimp only)
  repeat' (first | with_reducible assumption | (refine ⟨?_, ?_⟩ <;> (dsimp only; first | exact trivial | with_reducible apply Chip.Holds.mem (Q := Q) | with_reducible apply Chip.Holds.due (P := P))))
theorem Chip.unitSignal_holds (c : Chip) (a : Nat) (b : Signal) (e : Bool) (hc : Holds P Q c) : Holds P Q (Chip.unitSignal c a b e) := by
  conv in (Chip.unitSignal c a b e) => (unfold Chip.unitSignal; try dsimp only)
  repeat' (first | with_reducible assumption | with_reducible apply Chip.signal_holds | with_reducible apply Chip.signalFail_holds | with_reducible apply Chip.stampReady_holds | with_reducible refine ite_holds ?_ ?_)
theorem Chip.putRecord_holds (c : Chip) (a : Nat) (b : Nat) (e : Nat) (f : Nat) (g : Nat) (i : Nat) (j : List Byte) (hc : Holds memWf anyDue c) : Holds memWf anyDue (Chip.putRecord c a b e f g i j) := by
  conv in (Chip.putRecord c a b e f g i j) => (unfold Chip.putRecord; try dsimp only)
  repeat' (first | with_reducible assumption | with_reducible apply Chip.save_holds | with_reducible apply Chip.unitSignal_holds)
theorem Chip.publishOutput_holds (c : Chip) (a : Nat) (b : Nat) (e : Nat) (f : Nat) (g : Nat) (i : Bool) (j : List Byte) (hc : Holds memWf anyDue c) : Holds memWf anyDue (Chip.publishOutput c a b e f g i j) := by
  conv in (Chip.publishOutput c a b e f g i j) => (unfold Chip.publishOutput; try dsimp only)
  repeat' (first | with_reducible assumption | with_reducible apply Chip.putRecord_holds | with_reducible apply Chip.setOutput_holds | split)
theorem Chip.publishJob_holds (c : Chip) (a : Job) (b : Verdict) (e : Nat) (f : Bool) (hc : Holds memWf anyDue c) : Holds memWf anyDue (Chip.publishJob c a b e f) := by
  conv in (Chip.publishJob c a b e f) => (unfold Chip.publishJob; try dsimp only)
  repeat' (first | with_reducible assumption | with_reducible apply Chip.publishOutput_holds | split)
theorem Chip.channelFailed_holds (c : Chip) (a : Nat) (b : Nat) (e : Nat) (f : Nat) (g : Verdict) (hc : Holds memWf anyDue c) : Holds memWf anyDue (Chip.channelFailed c a b e f g) := by
  conv in (Chip.channelFailed c a b e f g) => (unfold Chip.channelFailed; try dsimp only)
  repeat' (first | with_reducible assumption | with_reducible apply Chip.endDiverse_holds | with_reducible apply Chip.freeJob_holds | with_reducible apply Chip.outputFault_holds | with_reducible apply Chip.publishJob_holds | with_reducible apply Chip.stopEngine_holds | with_reducible apply Chip.stopTile_holds | with_reducible apply foldl_holds | with_reducible refine ite_holds ?_ ?_ | split)
theorem Chip.checkChan_holds (c : Chip) (a : Nat) (b : Nat) (e : Nat) (f : Nat) (g : Nat) (i : Nat) (hc : Holds memWf anyDue c) : Holds memWf anyDue (Chip.checkChan c a b e f g i).2 := by
  conv in (Chip.checkChan c a b e f g i) => (unfold Chip.checkChan; try dsimp only)
  repeat' (first | with_reducible assumption | with_reducible apply Chip.loadRange_holds | with_reducible refine of_snd2 (by assumption) ?_ | with_reducible refine ite_snd ?_ ?_ | (with_reducible refine has_snd rfl ?_; first | with_reducible assumption | with_reducible apply Chip.loadRange_holds | with_reducible refine of_snd2 (by assumption) ?_ | with_reducible refine ite_snd ?_ ?_) | split)
theorem Chip.errorOpen_holds (c : Chip) (a : Nat) (b : Nat) (e : Nat) (hc : Holds memWf anyDue c) : Holds memWf anyDue (Chip.errorOpen c a b e) := by
  conv in (Chip.errorOpen c a b e) => (unfold Chip.errorOpen; try dsimp only)
  repeat' (first | with_reducible assumption | with_reducible apply Chip.draw_holds | with_reducible apply Chip.error_holds)
theorem Chip.checkerFail_holds (c : Chip) (a : Nat) (b : Nat) (hc : Holds memWf anyDue c) : Holds memWf anyDue (Chip.checkerFail c a b) := by
  conv in (Chip.checkerFail c a b) => (unfold Chip.checkerFail; try dsimp only)
  repeat' (first | with_reducible assumption | with_reducible apply Chip.count_holds | with_reducible apply Chip.enterSafeMask_holds | with_reducible apply Chip.errorOpen_holds | with_reducible apply Chip.event_holds | with_reducible apply Chip.setFld_holds)
theorem Chip.checkLate_holds (c : Chip) (a : Nat) (hc : Holds memWf anyDue c) : Holds memWf anyDue (Chip.checkLate c a) := by
  conv in (Chip.checkLate c a) => (unfold Chip.checkLate; try dsimp only)
  repeat' (first | with_reducible assumption | with_reducible apply Chip.checkerFail_holds | with_reducible apply Chip.draw_holds | with_reducible apply Chip.event_holds | with_reducible apply Chip.setFld_holds)
theorem Chip.checkTaken_holds (c : Chip) (a : Nat) (hc : Holds P Q c) : Holds P Q (Chip.checkTaken c a) := by
  conv in (Chip.checkTaken c a) => (unfold Chip.checkTaken; try dsimp only)
  repeat' (first | with_reducible assumption | with_reducible apply Chip.updTest_holds)
theorem Chip.checkedWrite_holds (c : Chip) (a : Nat) (b : Nat) (e : Nat) (f : Nat) (g : Chip → Chip) (hc : Holds memWf anyDue c) (hg : ∀ (z0 : Chip), Holds memWf anyDue z0 → Holds memWf anyDue (g z0)) : Holds memWf anyDue (Chip.checkedWrite c a b e f g) := by
  conv in (Chip.checkedWrite c a b e f g) => (unfold Chip.checkedWrite; try dsimp only)
  repeat' (first | with_reducible assumption | with_reducible apply hg | with_reducible apply Chip.denied_holds | with_reducible apply Chip.failed_holds | with_reducible apply Chip.reply_holds | with_reducible refine ite_holds ?_ ?_ | (refine ⟨?_, ?_⟩ <;> (dsimp only; first | exact trivial | with_reducible apply Chip.Holds.mem (Q := anyDue) | with_reducible apply Chip.Holds.due (P := memWf))) | split)
theorem Chip.checkerPass_holds (c : Chip) (a : Nat) (hc : Holds P Q c) : Holds P Q (Chip.checkerPass c a) := by
  conv in (Chip.checkerPass c a) => (unfold Chip.checkerPass; try dsimp only)
  repeat' (first | with_reducible assumption | with_reducible apply Chip.count_holds | with_reducible apply Chip.setFld_holds | with_reducible apply Chip.setReg_holds)
theorem Chip.setQuality_holds (c : Chip) (a : Nat) (hc : Holds P Q c) : Holds P Q (Chip.setQuality c a) := by
  conv in (Chip.setQuality c a) => (unfold Chip.setQuality; try dsimp only)
  repeat' (first | with_reducible assumption | with_reducible apply Chip.setFld_holds)
theorem Chip.holdover_holds (c : Chip) (hc : Holds memWf anyDue c) : Holds memWf anyDue (Chip.holdover c) := by
  conv in (Chip.holdover c) => (unfold Chip.holdover; try dsimp only)
  repeat' (first | with_reducible assumption | with_reducible apply Chip.netRecord_holds | with_reducible apply Chip.setQuality_holds | with_reducible apply Chip.updNet_holds | with_reducible refine ite_holds ?_ ?_)
theorem Chip.chooseMaster_holds (c : Chip) (hc : Holds memWf anyDue c) : Holds memWf anyDue (Chip.chooseMaster c) := by
  conv in (Chip.chooseMaster c) => (unfold Chip.chooseMaster; try dsimp only)
  repeat' (first | with_reducible assumption | with_reducible apply Chip.holdover_holds | with_reducible apply Chip.setFld_holds | with_reducible apply Chip.setQuality_holds | with_reducible apply Chip.setReg_holds | with_reducible apply Chip.updNet_holds | with_reducible apply foldl_holds | with_reducible refine ite_holds ?_ ?_ | split | with_reducible intro _)
theorem Chip.ckptArm_holds (c : Chip) (a : Nat) (hc : Holds P Q c) : Holds P Q (Chip.ckptArm c a) := by
  conv in (Chip.ckptArm c a) => (unfold Chip.ckptArm; try dsimp only)
  repeat' (first | with_reducible assumption | with_reducible apply Chip.updLink_holds | (refine ⟨?_, ?_⟩ <;> (dsimp only; first | exact trivial | with_reducible apply Chip.Holds.mem (Q := Q) | with_reducible apply Chip.Holds.due (P := P))))
theorem Chip.ckptDisarm_holds (c : Chip) (a : Nat) (hc : Holds P Q c) : Holds P Q (Chip.ckptDisarm c a) := by
  conv in (Chip.ckptDisarm c a) => (unfold Chip.ckptDisarm; try dsimp only)
  repeat' (first | with_reducible assumption | with_reducible apply Chip.updLink_holds | (refine ⟨?_, ?_⟩ <;> (dsimp only; first | exact trivial | with_reducible apply Chip.Holds.mem (Q := Q) | with_reducible apply Chip.Holds.due (P := P))))
theorem Chip.linkRecord_holds (c : Chip) (a : Nat) (b : Nat) (e : Nat) (f : Option Nat) (hc : Holds memWf anyDue c) : Holds memWf anyDue (Chip.linkRecord c a b e f) := by
  conv in (Chip.linkRecord c a b e f) => (unfold Chip.linkRecord; try dsimp only)
  repeat' (first | with_reducible assumption | with_reducible apply Chip.error_holds)
theorem Chip.ckptFailed_holds (c : Chip) (a : Nat) (b : Nat) (e : Nat) (hc : Holds memWf anyDue c) : Holds memWf anyDue (Chip.ckptFailed c a b e) := by
  conv in (Chip.ckptFailed c a b e) => (unfold Chip.ckptFailed; try dsimp only)
  repeat' (first | with_reducible assumption | with_reducible apply Chip.count_holds | with_reducible apply Chip.draw_holds | with_reducible apply Chip.event_holds | with_reducible apply Chip.linkRecord_holds | with_reducible refine ite_holds ?_ ?_)
theorem Chip.ckptSignal_holds (c : Chip) (a : Nat) (b : Nat) (hc : Holds P Q c) : Holds P Q (Chip.ckptSignal c a b) := by
  conv in (Chip.ckptSignal c a b) => (unfold Chip.ckptSignal; try dsimp only)
  repeat' (first | with_reducible assumption | with_reducible apply Chip.signal_holds | with_reducible refine ite_holds ?_ ?_ | split)
theorem Chip.claim_holds (c : Chip) (a : Nat) (hc : Holds P Q c) : Holds P Q (Chip.claim c a) := by
  conv in (Chip.claim c a) => (unfold Chip.claim; try dsimp only)
  repeat' (first | with_reducible assumption | with_reducible apply Chip.setFld_holds | (refine ⟨?_, ?_⟩ <;> (dsimp only; first | exact trivial | with_reducible apply Chip.Holds.mem (Q := Q) | with_reducible apply Chip.Holds.due (P := P))))
theorem Chip.showPending_holds (c : Chip) (hc : Holds P Q c) : Holds P Q (Chip.showPending c) := by
  conv in (Chip.showPending c) => (unfold Chip.showPending; try dsimp only)
  repeat' (first | with_reducible assumption | with_reducible apply Chip.setFld_holds)
theorem Chip.unclaim_holds (c : Chip) (a : Nat) (hc : Holds memWf anyDue c) : Holds memWf anyDue (Chip.unclaim c a) := by
  conv in (Chip.unclaim c a) => (unfold Chip.unclaim; try dsimp only)
  repeat' (first | with_reducible assumption | with_reducible apply Chip.event_holds | with_reducible apply Chip.setFld_holds | with_reducible apply Chip.showPending_holds | with_reducible apply Chip.updPower_holds | with_reducible apply foldl_holds | with_reducible refine ite_holds ?_ ?_ | split | with_reducible intro _)
theorem Chip.claimLate_holds (c : Chip) (a : Nat) (hc : Holds memWf anyDue c) : Holds memWf anyDue (Chip.claimLate c a) := by
  conv in (Chip.claimLate c a) => (unfold Chip.claimLate; try dsimp only)
  repeat' (first | with_reducible assumption | with_reducible apply Chip.draw_holds | with_reducible apply Chip.error_holds | with_reducible apply Chip.unclaim_holds)
theorem Chip.clearGolden_holds (c : Chip) (a : Nat) (hc : Holds P Q c) : Holds P Q (Chip.clearGolden c a) := by
  conv in (Chip.clearGolden c a) => (unfold Chip.clearGolden; try dsimp only)
  repeat' (first | with_reducible assumption | (refine ⟨?_, ?_⟩ <;> (dsimp only; first | exact trivial | with_reducible apply Chip.Holds.mem (Q := Q) | with_reducible apply Chip.Holds.due (P := P))))
theorem Chip.clearPredictors_holds (c : Chip) (a : Nat) (hc : Holds P Q c) : Holds P Q (Chip.clearPredictors c a) := by
  conv in (Chip.clearPredictors c a) => (unfold Chip.clearPredictors; try dsimp only)
  repeat' (first | with_reducible assumption | (refine ⟨?_, ?_⟩ <;> (dsimp only; first | exact trivial | with_reducible apply Chip.Holds.mem (Q := Q) | with_reducible apply Chip.Holds.due (P := P))))
theorem Chip.clearTileCounters_holds (c : Chip) (a : Nat) (hc : Holds P Q c) : Holds P Q (Chip.clearTileCounters c a) := by
  conv in (Chip.clearTileCounters c a) => (unfold Chip.clearTileCounters; try dsimp only)
  repeat' (first | with_reducible assumption | with_reducible apply Chip.setReg_holds | with_reducible apply foldl_holds | with_reducible intro _)
theorem Chip.clearTraceMasks_holds (c : Chip) (hc : Holds P Q c) : Holds P Q (Chip.clearTraceMasks c) := by
  conv in (Chip.clearTraceMasks c) => (unfold Chip.clearTraceMasks; try dsimp only)
  repeat' (first | with_reducible assumption | with_reducible apply Chip.setReg_holds | with_reducible apply foldl_holds | with_reducible intro _)
theorem Chip.closeChans_holds (c : Chip) (a : Nat) (hc : Holds P Q c) : Holds P Q (Chip.closeChans c a) := by
  conv in (Chip.closeChans c a) => (unfold Chip.closeChans; try dsimp only)
  repeat' (first | with_reducible assumption | with_reducible apply Chip.freeChan_holds | with_reducible apply Chip.updJob_holds | with_reducible apply foldl_holds | split | with_reducible intro _)
theorem Chip.cntCtrlWrite_holds (c : Chip) (a : Reg) (b : Nat) (e : List Reg) (hc : Holds P Q c) : Holds P Q (Chip.cntCtrlWrite c a b e) := by
  conv in (Chip.cntCtrlWrite c a b e) => (unfold Chip.cntCtrlWrite; try dsimp only)
  repeat' (first | with_reducible assumption | with_reducible apply Chip.clearRegs_holds | with_reducible apply Chip.setFld_holds | with_reducible refine ite_holds ?_ ?_)
theorem Chip.codeMap_holds (c : Chip) (a : Nat) (b : Nat) (hc : Holds memWf anyDue c) : Holds memWf anyDue (Chip.codeMap c a b) := by
  conv in (Chip.codeMap c a b) => (unfold Chip.codeMap; try dsimp only)
  repeat' (first | with_reducible assumption | with_reducible apply Chip.clearLines_holds | with_reducible apply Chip.setFld_holds | with_reducible apply foldl_holds | with_reducible intro _)
theorem Chip.dropPacket_holds (c : Chip) (a : Nat) (hc : Holds P Q c) : Holds P Q (Chip.dropPacket c a) := by
  conv in (Chip.dropPacket c a) => (unfold Chip.dropPacket; try dsimp only)
  repeat' (first | with_reducible assumption | (refine ⟨?_, ?_⟩ <;> (dsimp only; first | exact trivial | with_reducible apply Chip.Holds.mem (Q := Q) | with_reducible apply Chip.Holds.due (P := P))))
theorem Chip.headerSignal_holds (c : Chip) (a : Packet) (b : Nat) (hc : Holds P Q c) : Holds P Q (Chip.headerSignal c a b) := by
  conv in (Chip.headerSignal c a b) => (unfold Chip.headerSignal; try dsimp only)
  repeat' (first | with_reducible assumption | with_reducible apply Chip.signal_holds | with_reducible apply Chip.signalFail_holds | with_reducible refine ite_holds ?_ ?_ | split)
theorem Chip.mailboxReply_holds (c : Chip) (a : Nat) (b : Nat) (e : W64) (hc : Holds P Q c) : Holds P Q (Chip.mailboxReply c a b e) := by
  conv in (Chip.mailboxReply c a b e) => (unfold Chip.mailboxReply; try dsimp only)
  repeat' (first | with_reducible assumption | with_reducible apply Chip.setReg_holds)
theorem Chip.ringInterrupt_holds (c : Chip) (a : Nat) (b : Nat) (hc : Holds memWf anyDue c) : Holds memWf anyDue (Chip.ringInterrupt c a b) := by
  conv in (Chip.ringInterrupt c a b) => (unfold Chip.ringInterrupt; try dsimp only)
  repeat' (first | with_reducible assumption | with_reducible apply Chip.msi_holds | with_reducible refine ite_holds ?_ ?_)
theorem Chip.stopRing_holds (c : Chip) (a : Nat) (b : Nat) (e : Nat) (f : Nat) (g : Nat) (hc : Holds memWf anyDue c) : Holds memWf anyDue (Chip.stopRing c a b e f g) := by
  conv in (Chip.stopRing c a b e f g) => (unfold Chip.stopRing; try dsimp only)
  repeat' (first | with_reducible assumption | with_reducible apply Chip.event_holds | with_reducible apply Chip.ringInterrupt_holds | with_reducible apply Chip.setFld_holds)
theorem Chip.ringError_holds (c : Chip) (a : Nat) (b : Nat) (e : Nat) (f : Nat) (g : Nat) (hc : Holds memWf anyDue c) : Holds memWf anyDue (Chip.ringError c a b e f g) := by
  conv in (Chip.ringError c a b e f g) => (unfold Chip.ringError; try dsimp only)
  repeat' (first | with_reducible assumption | with_reducible apply Chip.stopRing_holds | with_reducible refine ite_holds ?_ ?_)
theorem Chip.writeReply_holds (c : Chip) (a : Packet) (b : Nat) (e : W64) (f : W64) (hc : Holds memWf anyDue c) : Holds memWf anyDue (Chip.writeReply c a b e f) := by
  conv in (Chip.writeReply c a b e f) => (unfold Chip.writeReply; try dsimp only)
  repeat' (first | with_reducible assumption | with_reducible apply Chip.ringError_holds | with_reducible apply Chip.save_holds | with_reducible apply Chip.setReg_holds | with_reducible refine of_snd (by assumption) ?_ | with_reducible refine ite_holds ?_ ?_ | split)
theorem Chip.complete_holds (c : Chip) (a : Packet) (b : Nat) (e : W64) (f : W64) (hc : Holds memWf anyDue c) : Holds memWf anyDue (Chip.complete c a b e f) := by
  conv in (Chip.complete c a b e f) => (unfold Chip.complete; try dsimp only)
  repeat' (first | with_reducible assumption | with_reducible apply Chip.dropPacket_holds | with_reducible apply Chip.headerSignal_holds | with_reducible apply Chip.jobEnded_holds | with_reducible apply Chip.mailboxReply_holds | with_reducible apply Chip.ringInterrupt_holds | with_reducible apply Chip.stampReady_holds | with_reducible apply Chip.writeReply_holds | with_reducible refine ite_holds ?_ ?_)
theorem Chip.levelMiss_holds (c : Chip) (a : Contrib) (hc : Holds P Q c) : Holds P Q (Chip.levelMiss c a) := by
  conv in (Chip.levelMiss c a) => (unfold Chip.levelMiss; try dsimp only)
  repeat' (first | with_reducible assumption | with_reducible refine ite_holds ?_ ?_ | (refine ⟨?_, ?_⟩ <;> (dsimp only; first | exact trivial | with_reducible apply Chip.Holds.mem (Q := Q) | with_reducible apply Chip.Holds.due (P := P))) | split)
theorem Chip.dropLevel_holds (c : Chip) (a : Contrib) (b : Nat) (hc : Holds memWf anyDue c) : Holds memWf anyDue (Chip.dropLevel c a b) := by
  conv in (Chip.dropLevel c a b) => (unfold Chip.dropLevel; try dsimp only)
  repeat' (first | with_reducible assumption | with_reducible apply Chip.draw_holds | with_reducible apply Chip.lateDrop_holds | with_reducible apply Chip.levelMiss_holds)
theorem Chip.enterLevel_holds (c : Chip) (a : FuseStream) (b : Contrib) (hc : Holds memWf anyDue c) : Holds memWf anyDue (Chip.enterLevel c a b) := by
  conv in (Chip.enterLevel c a b) => (unfold Chip.enterLevel; try dsimp only)
  repeat' (first | with_reducible assumption | with_reducible apply Chip.dropLevel_holds | with_reducible refine ite_holds ?_ ?_ | (refine ⟨?_, ?_⟩ <;> (dsimp only; first | exact trivial | with_reducible apply Chip.Holds.mem (Q := anyDue) | with_reducible apply Chip.Holds.due (P := memWf))))
theorem Chip.contribute_holds (c : Chip) (a : Contrib) (hc : Holds memWf anyDue c) : Holds memWf anyDue (Chip.contribute c a) := by
  conv in (Chip.contribute c a) => (unfold Chip.contribute; try dsimp only)
  repeat' (first | with_reducible assumption | with_reducible apply Chip.count_holds | with_reducible apply Chip.enterLevel_holds | with_reducible refine ite_holds ?_ ?_ | split)
theorem Chip.contributeTo_holds (c : Chip) (a : Contrib) (hc : Holds memWf anyDue c) : Holds memWf anyDue (Chip.contributeTo c a) := by
  conv in (Chip.contributeTo c a) => (unfold Chip.contributeTo; try dsimp only)
  repeat' (first | with_reducible assumption | with_reducible apply Chip.count_holds | with_reducible apply Chip.enterLevel_holds | split)
theorem Chip.releaseTag_holds (c : Chip) (a : Nat) (b : Nat) (e : List Nat) (hc : Holds P Q c) : Holds P Q (Chip.releaseTag c a b e) := by
  conv in (Chip.releaseTag c a b e) => (unfold Chip.releaseTag; try dsimp only)
  repeat' (first | with_reducible assumption | with_reducible apply Chip.consume_holds | with_reducible apply Chip.updTile_holds | with_reducible refine ite_holds ?_ ?_ | split)
theorem Chip.controlled_holds (c : Chip) (a : Nat) (b : List Byte) (e : Tile) (hc : Holds memWf anyDue c) : Holds memWf anyDue (Chip.controlled c a b e) := by
  conv in (Chip.controlled c a b e) => (unfold Chip.controlled; try dsimp only)
  repeat' (first | with_reducible assumption | with_reducible apply Chip.advance_holds | with_reducible apply Chip.releaseTag_holds | with_reducible apply Chip.setTile_holds | with_reducible apply Chip.updTile_holds | with_reducible apply foldl_holds | split | with_reducible intro _)
theorem Chip.control_holds (c : Chip) (a : Nat) (b : Nat) (e : Tile → Bool) (f : List Byte → Tile → Except Nat Tile) (hc : Holds memWf anyDue c) : Holds memWf anyDue (Chip.control c a b e f) := by
  conv in (Chip.control c a b e f) => (unfold Chip.control; try dsimp only)
  repeat' (first | with_reducible assumption | with_reducible apply Chip.controlled_holds | with_reducible apply Chip.tileFault_holds | with_reducible refine ite_holds ?_ ?_ | split)
theorem Chip.looseCopy_holds (c : Chip) (a : Nat) (b : Nat) (e : List (Nat × Nat)) (hc : Holds memWf anyDue c) : Holds memWf anyDue (Chip.looseCopy c a b e) := by
  induction e generalizing c a b with
  | nil =>
    conv in Chip.looseCopy _ _ _ _ => (unfold Chip.looseCopy; try dsimp only)
    repeat' (first | with_reducible assumption | fail | with_reducible apply Chip.draw_holds | with_reducible apply Chip.saveServed_holds | with_reducible refine ite_holds ?_ ?_)
  | cons x l ih =>
    conv in Chip.looseCopy _ _ _ _ => (unfold Chip.looseCopy; try dsimp only)
    repeat' (first | with_reducible assumption | with_reducible apply ih | with_reducible apply Chip.draw_holds | with_reducible apply Chip.saveServed_holds | with_reducible refine ite_holds ?_ ?_)
theorem Chip.loosePieces_holds (c : Chip) (a : Nat) (b : List (Nat × Nat)) (e : List Byte) (hc : Holds memWf anyDue c) : Holds memWf anyDue (Chip.loosePieces c a b e) := by
  induction b generalizing c a e with
  | nil =>
    conv in Chip.loosePieces _ _ _ _ => (unfold Chip.loosePieces; try dsimp only)
    repeat' (first | with_reducible assumption | fail | with_reducible apply Chip.draw_holds | with_reducible apply Chip.saveServed_holds | with_reducible refine ite_holds ?_ ?_)
  | cons x l ih =>
    conv in Chip.loosePieces _ _ _ _ => (unfold Chip.loosePieces; try dsimp only)
    repeat' (first | with_reducible assumption | with_reducible apply ih | with_reducible apply Chip.draw_holds | with_reducible apply Chip.saveServed_holds | with_reducible refine ite_holds ?_ ?_)
theorem Chip.copyPieces_holds (c : Chip) (a : Nat) (b : Nat) (e : List (Nat × Nat)) (hc : Holds memWf anyDue c) : Holds memWf anyDue (Chip.copyPieces c a b e).2.2 := by
  induction e generalizing c a b with
  | nil =>
    conv in Chip.copyPieces _ _ _ _ => (unfold Chip.copyPieces; try dsimp only)
    repeat' (first | with_reducible assumption | fail | with_reducible apply Chip.load_holds | with_reducible apply Chip.looseCopy_holds | with_reducible apply Chip.loosePieces_holds | with_reducible apply Chip.saveRange_holds | with_reducible refine of_snd2 (by assumption) ?_ | (with_reducible refine has_snd2 rfl ?_; first | with_reducible assumption | fail | with_reducible apply Chip.load_holds | with_reducible apply Chip.looseCopy_holds | with_reducible apply Chip.loosePieces_holds | with_reducible apply Chip.saveRange_holds | with_reducible refine of_snd2 (by assumption) ?_) | (with_reducible refine has_snd rfl ?_; first | with_reducible assumption | fail | with_reducible apply Chip.load_holds | with_reducible apply Chip.looseCopy_holds | with_reducible apply Chip.loosePieces_holds | with_reducible apply Chip.saveRange_holds | with_reducible refine of_snd2 (by assumption) ?_) | split)
  | cons x l ih =>
    conv in Chip.copyPieces _ _ _ _ => (unfold Chip.copyPieces; try dsimp only)
    repeat' (first | with_reducible assumption | with_reducible apply ih | with_reducible apply Chip.load_holds | with_reducible apply Chip.looseCopy_holds | with_reducible apply Chip.loosePieces_holds | with_reducible apply Chip.saveRange_holds | with_reducible refine of_snd2 (by assumption) ?_ | (with_reducible refine has_snd2 rfl ?_; first | with_reducible assumption | with_reducible apply ih | with_reducible apply Chip.load_holds | with_reducible apply Chip.looseCopy_holds | with_reducible apply Chip.loosePieces_holds | with_reducible apply Chip.saveRange_holds | with_reducible refine of_snd2 (by assumption) ?_) | (with_reducible refine has_snd rfl ?_; first | with_reducible assumption | with_reducible apply ih | with_reducible apply Chip.load_holds | with_reducible apply Chip.looseCopy_holds | with_reducible apply Chip.loosePieces_holds | with_reducible apply Chip.saveRange_holds | with_reducible refine of_snd2 (by assumption) ?_) | split)
theorem Chip.take_holds (c : Chip) (a : Nat) (hc : Holds P Q c) : Holds P Q (Chip.take c a) := by
  conv in (Chip.take c a) => (unfold Chip.take; try dsimp only)
  repeat' (first | with_reducible assumption | with_reducible apply Chip.updPacket_holds)
theorem Chip.heldAtLoss_holds (c : Chip) (a : Nat) (hc : Holds P Q c) : Holds P Q (Chip.heldAtLoss c a) := by
  conv in (Chip.heldAtLoss c a) => (unfold Chip.heldAtLoss; try dsimp only)
  repeat' (first | with_reducible assumption | with_reducible apply Chip.draw_holds | with_reducible apply Chip.take_holds | with_reducible apply foldl_holds | split | with_reducible intro _)
theorem Chip.updFw_holds (c : Chip) (a : Firmware → Firmware) (hc : Holds P Q c) : Holds P Q (Chip.updFw c a) := by
  conv in (Chip.updFw c a) => (unfold Chip.updFw; try dsimp only)
  repeat' (first | with_reducible assumption | (refine ⟨?_, ?_⟩ <;> (dsimp only; first | exact trivial | with_reducible apply Chip.Holds.mem (Q := Q) | with_reducible apply Chip.Holds.due (P := P))))
theorem Chip.moveService_holds (c : Chip) (a : Nat) (b : Nat) (hc : Holds P Q c) : Holds P Q (Chip.moveService c a b) := by
  conv in (Chip.moveService c a b) => (unfold Chip.moveService; try dsimp only)
  repeat' (first | with_reducible assumption | with_reducible apply Chip.updFw_holds | split)
theorem Chip.setCore_holds (c : Chip) (a : Nat) (b : Nat) (hc : Holds P Q c) : Holds P Q (Chip.setCore c a b) := by
  conv in (Chip.setCore c a b) => (unfold Chip.setCore; try dsimp only)
  repeat' (first | with_reducible assumption | with_reducible apply Chip.setFld_holds)
theorem Chip.showServices_holds (c : Chip) (hc : Holds P Q c) : Holds P Q (Chip.showServices c) := by
  conv in (Chip.showServices c) => (unfold Chip.showServices; try dsimp only)
  repeat' (first | with_reducible assumption | with_reducible apply Chip.setFld_holds | with_reducible apply foldl_holds | with_reducible intro _)
theorem Chip.coreLost_holds (c : Chip) (a : Nat) (b : ErrRec) (hc : Holds memWf anyDue c) : Holds memWf anyDue (Chip.coreLost c a b) := by
  conv in (Chip.coreLost c a b) => (unfold Chip.coreLost; try dsimp only)
  repeat' (first | with_reducible assumption | with_reducible apply Chip.count_holds | with_reducible apply Chip.draw_holds | with_reducible apply Chip.error_holds | with_reducible apply Chip.heldAtLoss_holds | with_reducible apply Chip.moveService_holds | with_reducible apply Chip.setCore_holds | with_reducible apply Chip.showServices_holds | with_reducible apply Chip.updFw_holds | with_reducible apply foldl_holds | with_reducible refine ite_holds ?_ ?_ | with_reducible intro _)
theorem Chip.countEdge_holds (c : Chip) (a : Nat) (b : Nat) (hc : Holds P Q c) : Holds P Q (Chip.countEdge c a b) := by
  conv in (Chip.countEdge c a b) => (unfold Chip.countEdge; try dsimp only)
  repeat' (first | with_reducible assumption | with_reducible apply Chip.count_holds | with_reducible apply Chip.send_holds | with_reducible apply Chip.setReg_holds | with_reducible refine ite_holds ?_ ?_)
theorem Chip.setOwner_holds (c : Chip) (a : Nat) (b : Nat) (hc : Holds P Q c) : Holds P Q (Chip.setOwner c a b) := by
  conv in (Chip.setOwner c a b) => (unfold Chip.setOwner; try dsimp only)
  repeat' (first | with_reducible assumption | (refine ⟨?_, ?_⟩ <;> (dsimp only; first | exact trivial | with_reducible apply Chip.Holds.mem (Q := Q) | with_reducible apply Chip.Holds.due (P := P))))
theorem Chip.giveOwners_holds (c : Chip) (a : Nat) (b : Nat) (e : Nat) (f : Bool) (hc : Holds memWf anyDue c) : Holds memWf anyDue (Chip.giveOwners c a b e f) := by
  conv in (Chip.giveOwners c a b e f) => (unfold Chip.giveOwners; try dsimp only)
  repeat' (first | with_reducible assumption | with_reducible apply Chip.clearBlocks_holds | with_reducible apply Chip.setOwner_holds | with_reducible apply foldl_holds | with_reducible refine ite_holds ?_ ?_ | with_reducible intro _)
theorem Chip.resetPage_holds (c : Chip) (a : Nat) (hc : Holds P Q c) : Holds P Q (Chip.resetPage c a) := by
  conv in (Chip.resetPage c a) => (unfold Chip.resetPage; try dsimp only)
  repeat' (first | with_reducible assumption | (refine ⟨?_, ?_⟩ <;> (dsimp only; first | exact trivial | with_reducible apply Chip.Holds.mem (Q := Q) | with_reducible apply Chip.Holds.due (P := P))))
theorem Chip.showTiles_holds (c : Chip) (a : List Nat) (hc : Holds P Q c) : Holds P Q (Chip.showTiles c a) := by
  conv in (Chip.showTiles c a) => (unfold Chip.showTiles; try dsimp only)
  repeat' (first | with_reducible assumption | with_reducible apply Chip.setFld_holds | with_reducible apply Chip.setReg_holds | with_reducible apply foldl_holds | split | with_reducible intro _)
theorem Chip.makeSlice_holds (c : Chip) (a : Nat) (b : List Byte) (e : Option Slice) (f : CreateArgs) (hc : Holds memWf anyDue c) : Holds memWf anyDue (Chip.makeSlice c a b e f) := by
  conv in (Chip.makeSlice c a b e f) => (unfold Chip.makeSlice; try dsimp only)
  repeat' (first | with_reducible assumption | with_reducible apply Chip.clearPredictors_holds | with_reducible apply Chip.giveOwners_holds | with_reducible apply Chip.resetPage_holds | with_reducible apply Chip.setReg_holds | with_reducible apply Chip.showTiles_holds | with_reducible apply pasidMapWrite_holds | with_reducible apply foldl_holds | (refine ⟨?_, ?_⟩ <;> (dsimp only; first | exact trivial | with_reducible apply Chip.Holds.mem (Q := anyDue) | with_reducible apply Chip.Holds.due (P := memWf))) | with_reducible intro _)
theorem Chip.createSlice_holds (c : Chip) (a : Bool) (b : Option Slice) (e : List Byte) (hc : Holds memWf anyDue c) : Holds memWf anyDue (Chip.createSlice c a b e).2.2 := by
  conv in (Chip.createSlice c a b e) => (unfold Chip.createSlice; try dsimp only)
  repeat' (first | with_reducible assumption | with_reducible apply Chip.makeSlice_holds | with_reducible refine ite_snd2 ?_ ?_)
theorem Chip.showBridge_holds (c : Chip) (hc : Holds P Q c) : Holds P Q (Chip.showBridge c) := by
  conv in (Chip.showBridge c) => (unfold Chip.showBridge; try dsimp only)
  repeat' (first | with_reducible assumption | with_reducible apply Chip.setFld_holds)
theorem Chip.crossRead_holds (c : Chip) (a : Req) (b : Nat) (e : Nat) (f : Nat) (hc : Holds memWf anyDue c) : Holds memWf anyDue (Chip.crossRead c a b e f) := by
  conv in (Chip.crossRead c a b e f) => (unfold Chip.crossRead; try dsimp only)
  repeat' (first | with_reducible assumption | with_reducible apply Chip.bridgeRefused_holds | with_reducible apply Chip.count_holds | with_reducible apply Chip.reply_holds | with_reducible apply Chip.showBridge_holds | with_reducible apply Chip.updLink_holds | with_reducible refine ite_holds ?_ ?_ | split)
theorem Chip.deniedTile_holds (c : Chip) (a : Nat) (b : Nat) (e : Nat) (hc : Holds memWf anyDue c) : Holds memWf anyDue (Chip.deniedTile c a b e) := by
  conv in (Chip.deniedTile c a b e) => (unfold Chip.deniedTile; try dsimp only)
  repeat' (first | with_reducible assumption | with_reducible apply Chip.denied_holds)
theorem Chip.denyLate_holds (c : Chip) (hc : Holds memWf anyDue c) : Holds memWf anyDue (Chip.denyLate c) := by
  conv in (Chip.denyLate c) => (unfold Chip.denyLate; try dsimp only)
  repeat' (first | with_reducible assumption | with_reducible apply Chip.budgetDenied_holds | with_reducible apply Chip.count_holds | with_reducible apply Chip.sluiceServe_holds | with_reducible apply foldl_holds | (refine ⟨?_, ?_⟩ <;> (dsimp only; first | exact trivial | with_reducible apply Chip.Holds.mem (Q := anyDue) | with_reducible apply Chip.Holds.due (P := memWf))))
theorem Chip.projectSet_holds (c : Chip) (a : FuseStream) (b : FuseStream) (e : Pose) (f : PointSet) (g : Depths) (hc : Holds memWf anyDue c) : Holds memWf anyDue (Chip.projectSet c a b e f g).2 := by
  conv in (Chip.projectSet c a b e f g) => (unfold Chip.projectSet; try dsimp only)
  repeat' (first | with_reducible assumption | with_reducible apply Chip.alignAt_holds | with_reducible refine of_snd (by assumption) ?_ | (with_reducible refine has_snd rfl ?_; first | with_reducible assumption | with_reducible apply Chip.alignAt_holds | with_reducible refine of_snd (by assumption) ?_) | split)
theorem Chip.projectAll_holds (c : Chip) (a : FuseStream) (b : Pose) (e : List (FuseStream × PointSet)) (f : Depths) (g : Bool) (i : Bool) (hc : Holds memWf anyDue c) : Holds memWf anyDue (Chip.projectAll c a b e f g i).2 := by
  induction e generalizing c a b f g i with
  | nil =>
    conv in Chip.projectAll _ _ _ _ _ _ _ => (unfold Chip.projectAll; try dsimp only)
    repeat' (first | with_reducible assumption | fail | with_reducible apply Chip.projectSet_holds | with_reducible refine of_snd (by assumption) ?_ | (with_reducible refine has_snd rfl ?_; first | with_reducible assumption | fail | with_reducible apply Chip.projectSet_holds | with_reducible refine of_snd (by assumption) ?_) | split)
  | cons x l ih =>
    conv in Chip.projectAll _ _ _ _ _ _ _ => (unfold Chip.projectAll; try dsimp only)
    repeat' (first | with_reducible assumption | with_reducible apply ih | with_reducible apply Chip.projectSet_holds | with_reducible refine of_snd (by assumption) ?_ | (with_reducible refine has_snd rfl ?_; first | with_reducible assumption | with_reducible apply ih | with_reducible apply Chip.projectSet_holds | with_reducible refine of_snd (by assumption) ?_) | split)
theorem Chip.writeDepths_holds (c : Chip) (a : FuseStream) (b : Nat) (e : Depths) (hc : Holds memWf anyDue c) : Holds memWf anyDue (Chip.writeDepths c a b e) := by
  conv in (Chip.writeDepths c a b e) => (unfold Chip.writeDepths; try dsimp only)
  repeat' (first | with_reducible assumption | with_reducible apply Chip.cflWrite_holds | with_reducible apply foldl_holds | with_reducible intro _)
theorem Chip.depthPlane_holds (c : Chip) (a : Nat) (b : FuseStream) (e : FuseFrame) (hc : Holds memWf anyDue c) : Holds memWf anyDue (Chip.depthPlane c a b e).2 := by
  conv in (Chip.depthPlane c a b e) => (unfold Chip.depthPlane; try dsimp only)
  repeat' (first | with_reducible assumption | with_reducible apply Chip.alignAt_holds | with_reducible apply Chip.projectAll_holds | with_reducible apply Chip.writeDepths_holds | with_reducible refine of_snd (by assumption) ?_ | with_reducible refine ite_snd ?_ ?_ | (with_reducible refine has_snd rfl ?_; first | with_reducible assumption | with_reducible apply Chip.alignAt_holds | with_reducible apply Chip.projectAll_holds | with_reducible apply Chip.writeDepths_holds | with_reducible refine of_snd (by assumption) ?_ | with_reducible refine ite_snd ?_ ?_) | split)
theorem Chip.gainObj_holds (c : Chip) (a : Nat) (b : Nat) (hc : Holds P Q c) : Holds P Q (Chip.gainObj c a b) := by
  conv in (Chip.gainObj c a b) => (unfold Chip.gainObj; try dsimp only)
  repeat' (first | with_reducible assumption | with_reducible apply Chip.signal_holds | with_reducible refine ite_holds ?_ ?_ | split)
theorem Chip.next_holds (c : Chip) (a : Reg) (b : Fld) (hc : Holds P Q c) : Holds P Q (Chip.next c a b) := by
  conv in (Chip.next c a b) => (unfold Chip.next; try dsimp only)
  repeat' (first | with_reducible assumption | with_reducible apply Chip.setFld_holds)
theorem Chip.descDone_holds (c : Chip) (a : Nat) (b : Nat) (e : Nat) (f : List Byte) (hc : Holds memWf anyDue c) : Holds memWf anyDue (Chip.descDone c a b e f) := by
  conv in (Chip.descDone c a b e f) => (unfold Chip.descDone; try dsimp only)
  repeat' (first | with_reducible assumption | with_reducible apply Chip.gainObj_holds | with_reducible apply Chip.next_holds | with_reducible apply Chip.saveRange_holds)
theorem Chip.onPacket_holds (c : Chip) (a : Nat) (b : Nat) (e : Packet → Chip → Chip) (hc : Holds P Q c) (he : ∀ (z0 : Packet) (z1 : Chip), Holds P Q z1 → Holds P Q (e z0 z1)) : Holds P Q (Chip.onPacket c a b e) := by
  conv in (Chip.onPacket c a b e) => (unfold Chip.onPacket; try dsimp only)
  repeat' (first | with_reducible assumption | with_reducible apply he | with_reducible refine ite_holds ?_ ?_ | split)
theorem Chip.dirtyLogOp_holds (c : Chip) (a : Nat) (b : Nat) (e : Packet → Chip → Chip) (hc : Holds P Q c) (he : ∀ (z0 : Packet) (z1 : Chip), Holds P Q z1 → Holds P Q (e z0 z1)) : Holds P Q (Chip.dirtyLogOp c a b e) := by
  conv in (Chip.dirtyLogOp c a b e) => (unfold Chip.dirtyLogOp; try dsimp only)
  repeat' (first | with_reducible assumption | with_reducible apply he | with_reducible apply Chip.finish_holds | with_reducible apply Chip.onPacket_holds | split | with_reducible intro _)
theorem Chip.dropPending_holds (c : Chip) (a : Nat) (hc : Holds P Q c) : Holds P Q (Chip.dropPending c a) := by
  conv in (Chip.dropPending c a) => (unfold Chip.dropPending; try dsimp only)
  repeat' (first | with_reducible assumption | with_reducible apply Chip.giveBack_holds | with_reducible apply Chip.withdraw_holds | (refine ⟨?_, ?_⟩ <;> (dsimp only; first | exact trivial | with_reducible apply Chip.Holds.mem (Q := Q) | with_reducible apply Chip.Holds.due (P := P))))
theorem Chip.discardUnstarted_holds (c : Chip) (a : Nat) (b : Nat) (hc : Holds P Q c) : Holds P Q (Chip.discardUnstarted c a b) := by
  conv in (Chip.discardUnstarted c a b) => (unfold Chip.discardUnstarted; try dsimp only)
  repeat' (first | with_reducible assumption | with_reducible apply Chip.dropPending_holds | with_reducible apply foldl_holds | (refine ⟨?_, ?_⟩ <;> (dsimp only; first | exact trivial | with_reducible apply Chip.Holds.mem (Q := Q) | with_reducible apply Chip.Holds.due (P := P))))
theorem Chip.evictFor_holds (c : Chip) (a : Nat) (b : Nat) (e : List (Nat × Model)) (hc : Holds memWf anyDue c) : Holds memWf anyDue (Chip.evictFor c a b e) := by
  induction e generalizing c a b with
  | nil =>
    conv in Chip.evictFor _ _ _ _ => (unfold Chip.evictFor; try dsimp only)
    repeat' (first | with_reducible assumption | fail | with_reducible apply Chip.evict_holds | with_reducible refine ite_holds ?_ ?_)
  | cons x l ih =>
    conv in Chip.evictFor _ _ _ _ => (unfold Chip.evictFor; try dsimp only)
    repeat' (first | with_reducible assumption | with_reducible apply ih | with_reducible apply Chip.evict_holds | with_reducible refine ite_holds ?_ ?_)
theorem Chip.takeRoom_holds (c : Chip) (a : Nat) (b : List Nat) (hc : Holds memWf anyDue c) : Holds memWf anyDue (Chip.takeRoom c a b).2 := by
  conv in (Chip.takeRoom c a b) => (unfold Chip.takeRoom; try dsimp only)
  repeat' (first | with_reducible assumption | with_reducible apply Chip.evictFor_holds | with_reducible apply Chip.mcRegs_holds | with_reducible apply Chip.updModel_holds | with_reducible refine ite_snd ?_ ?_ | (with_reducible refine has_snd rfl ?_; first | with_reducible assumption | with_reducible apply Chip.evictFor_holds | with_reducible apply Chip.mcRegs_holds | with_reducible apply Chip.updModel_holds | with_reducible refine ite_snd ?_ ?_) | split)
theorem Chip.placeModel_holds (c : Chip) (a : Nat) (b : Nat) (hc : Holds memWf anyDue c) : Holds memWf anyDue (Chip.placeModel c a b) := by
  conv in (Chip.placeModel c a b) => (unfold Chip.placeModel; try dsimp only)
  repeat' (first | with_reducible assumption | with_reducible apply Chip.takeRoom_holds | with_reducible apply Chip.updJob_holds | with_reducible refine of_snd (by assumption) ?_ | with_reducible refine ite_holds ?_ ?_ | split)
theorem Chip.dispatch_holds (c : Chip) (a : Job) (hc : Holds memWf anyDue c) : Holds memWf anyDue (Chip.dispatch c a) := by
  conv in (Chip.dispatch c a) => (unfold Chip.dispatch; try dsimp only)
  repeat' (first | with_reducible assumption | with_reducible apply Chip.beginJob_holds | with_reducible apply Chip.count_holds | with_reducible apply Chip.placeModel_holds | with_reducible apply Chip.setFld_holds | with_reducible apply Chip.showJobs_holds | with_reducible apply Chip.updJob_holds | with_reducible apply Chip.updModel_holds | with_reducible apply foldl_holds | with_reducible refine ite_holds ?_ ?_ | split | with_reducible intro _)
theorem Chip.dissolve_holds (c : Chip) (a : Nat) (hc : Holds P Q c) : Holds P Q (Chip.dissolve c a) := by
  conv in (Chip.dissolve c a) => (unfold Chip.dissolve; try dsimp only)
  repeat' (first | with_reducible assumption | with_reducible apply Chip.clearPredictors_holds | with_reducible apply Chip.closeStream_holds | with_reducible apply Chip.resetPage_holds | with_reducible apply Chip.setReg_holds | with_reducible apply Chip.showTiles_holds | with_reducible apply foldl_holds | (refine ⟨?_, ?_⟩ <;> (dsimp only; first | exact trivial | with_reducible apply Chip.Holds.mem (Q := Q) | with_reducible apply Chip.Holds.due (P := P))) | split | with_reducible intro _)
theorem Chip.showWeir_holds (c : Chip) (hc : Holds P Q c) : Holds P Q (Chip.showWeir c) := by
  conv in (Chip.showWeir c) => (unfold Chip.showWeir; try dsimp only)
  repeat' (first | with_reducible assumption | with_reducible apply Chip.setFld_holds)
theorem Chip.toWeir_holds (c : Chip) (a : Nat) (hc : Holds P Q c) : Holds P Q (Chip.toWeir c a) := by
  conv in (Chip.toWeir c a) => (unfold Chip.toWeir; try dsimp only)
  repeat' (first | with_reducible assumption | with_reducible apply Chip.closeChans_holds | with_reducible apply Chip.giveBack_holds | with_reducible apply Chip.showWeir_holds | with_reducible apply Chip.updJob_holds | (refine ⟨?_, ?_⟩ <;> (dsimp only; first | exact trivial | with_reducible apply Chip.Holds.mem (Q := Q) | with_reducible apply Chip.Holds.due (P := P))))
theorem Chip.diverseEnd_holds (c : Chip) (a : Job) (hc : Holds memWf anyDue c) : Holds memWf anyDue (Chip.diverseEnd c a) := by
  conv in (Chip.diverseEnd c a) => (unfold Chip.diverseEnd; try dsimp only)
  repeat' (first | with_reducible assumption | with_reducible apply Chip.channelFailed_holds | with_reducible apply Chip.closeChans_holds | with_reducible apply Chip.toWeir_holds | with_reducible refine ite_holds ?_ ?_ | split)
theorem Chip.doneRevising_holds (c : Chip) (a : Nat) (b : FuseFrame) (hc : Holds P Q c) : Holds P Q (Chip.doneRevising c a b) := by
  conv in (Chip.doneRevising c a b) => (unfold Chip.doneRevising; try dsimp only)
  repeat' (first | with_reducible assumption | with_reducible apply Chip.forgetFrames_holds | with_reducible apply Chip.updFrame_holds)
theorem Chip.eventFlush_holds (c : Chip) (a : Nat) (hc : Holds memWf anyDue c) : Holds memWf anyDue (Chip.eventFlush c a) := by
  conv in (Chip.eventFlush c a) => (unfold Chip.eventFlush; try dsimp only)
  repeat' (first | with_reducible assumption | with_reducible apply Chip.eventPut_holds | with_reducible apply Chip.setReg_holds | with_reducible refine ite_holds ?_ ?_)
theorem eventRingEnable_holds (a : Nat) (b : Nat) (c : Chip) (hc : Holds memWf anyDue c) : Holds memWf anyDue (eventRingEnable a b c) := by
  conv in (eventRingEnable a b c) => (unfold eventRingEnable; try dsimp only)
  repeat' (first | with_reducible assumption | with_reducible apply Chip.error_holds | with_reducible apply Chip.eventFlush_holds | with_reducible apply Chip.setFld_holds | with_reducible apply Chip.setReg_holds | with_reducible refine ite_holds ?_ ?_)
theorem Chip.eqCtrlWrite_holds (c : Chip) (a : Nat) (b : Nat) (hc : Holds memWf anyDue c) : Holds memWf anyDue (Chip.eqCtrlWrite c a b) := by
  conv in (Chip.eqCtrlWrite c a b) => (unfold Chip.eqCtrlWrite; try dsimp only)
  repeat' (first | with_reducible assumption | with_reducible apply Chip.setFld_holds | with_reducible apply Chip.setReg_holds | with_reducible apply eventRingEnable_holds | with_reducible refine ite_holds ?_ ?_)
theorem ringDisable_holds (a : Nat) (b : Nat) (c : Chip) (hc : Holds P Q c) : Holds P Q (ringDisable a b c) := by
  conv in (ringDisable a b c) => (unfold ringDisable; try dsimp only)
  repeat' (first | with_reducible assumption | with_reducible apply Chip.discardUnstarted_holds | with_reducible apply Chip.setFld_holds | with_reducible refine ite_holds ?_ ?_)
theorem Chip.startRing_holds (c : Chip) (a : Nat) (b : Nat) (hc : Holds P Q c) : Holds P Q (Chip.startRing c a b) := by
  conv in (Chip.startRing c a b) => (unfold Chip.startRing; try dsimp only)
  repeat' (first | with_reducible assumption | with_reducible apply Chip.setReg_holds | (refine ⟨?_, ?_⟩ <;> (dsimp only; first | exact trivial | with_reducible apply Chip.Holds.mem (Q := Q) | with_reducible apply Chip.Holds.due (P := P))))
theorem ringEnable_holds (a : Nat) (b : Nat) (e : Nat) (c : Chip) (hc : Holds memWf anyDue c) : Holds memWf anyDue (ringEnable a b e c) := by
  conv in (ringEnable a b e c) => (unfold ringEnable; try dsimp only)
  repeat' (first | with_reducible assumption | with_reducible apply Chip.setReg_holds | with_reducible apply Chip.startRing_holds | with_reducible apply Chip.stopRing_holds | with_reducible refine ite_holds ?_ ?_ | split)
theorem Chip.sqCtrlWrite_holds (c : Chip) (a : Nat) (b : Nat) (e : Nat) (hc : Holds memWf anyDue c) : Holds memWf anyDue (Chip.sqCtrlWrite c a b e) := by
  conv in (Chip.sqCtrlWrite c a b e) => (unfold Chip.sqCtrlWrite; try dsimp only)
  repeat' (first | with_reducible assumption | with_reducible apply Chip.setReg_holds | with_reducible apply ringDisable_holds | with_reducible apply ringEnable_holds | with_reducible refine ite_holds ?_ ?_)
theorem cqHeadWrite_holds (a : Nat) (b : Nat) (e : Nat) (c : Chip) (hc : Holds memWf anyDue c) : Holds memWf anyDue (cqHeadWrite a b e c) := by
  conv in (cqHeadWrite a b e c) => (unfold cqHeadWrite; try dsimp only)
  repeat' (first | with_reducible assumption | with_reducible apply Chip.ringError_holds | with_reducible apply Chip.setReg_holds | with_reducible apply Chip.stampReady_holds | with_reducible refine ite_holds ?_ ?_)
theorem eqHeadWrite_holds (a : Nat) (b : Nat) (c : Chip) (hc : Holds memWf anyDue c) : Holds memWf anyDue (eqHeadWrite a b c) := by
  conv in (eqHeadWrite a b c) => (unfold eqHeadWrite; try dsimp only)
  repeat' (first | with_reducible assumption | with_reducible apply Chip.eventFlush_holds | with_reducible apply Chip.setReg_holds | with_reducible refine ite_holds ?_ ?_)
theorem sqTailWrite_holds (a : Nat) (b : Nat) (e : Nat) (c : Chip) (hc : Holds memWf anyDue c) : Holds memWf anyDue (sqTailWrite a b e c) := by
  conv in (sqTailWrite a b e c) => (unfold sqTailWrite; try dsimp only)
  repeat' (first | with_reducible assumption | with_reducible apply Chip.stopRing_holds | with_reducible refine ite_holds ?_ ?_ | (refine ⟨?_, ?_⟩ <;> (dsimp only; first | exact trivial | with_reducible apply Chip.Holds.mem (Q := anyDue) | with_reducible apply Chip.Holds.due (P := memWf))))
theorem Chip.doorbellSet_holds (c : Chip) (a : RegSpec) (b : Nat) (e : Nat) (f : Nat) (hc : Holds memWf anyDue c) : Holds memWf anyDue (Chip.doorbellSet c a b e f) := by
  conv in (Chip.doorbellSet c a b e f) => (unfold Chip.doorbellSet; try dsimp only)
  repeat' (first | with_reducible assumption | with_reducible apply Chip.eqCtrlWrite_holds | with_reducible apply Chip.plainWrite_holds | with_reducible apply Chip.sqCtrlWrite_holds | with_reducible apply cqHeadWrite_holds | with_reducible apply eqHeadWrite_holds | with_reducible apply sqTailWrite_holds | with_reducible refine ite_holds ?_ ?_ | split)
theorem doorbellMisuse_holds (a : Nat) (b : Nat) (e : Nat) (f : Nat) (g : Bool) (c : Chip) (hc : Holds memWf anyDue c) : Holds memWf anyDue (doorbellMisuse a b e f g c) := by
  conv in (doorbellMisuse a b e f g c) => (unfold doorbellMisuse; try dsimp only)
  repeat' (first | with_reducible assumption | with_reducible apply Chip.error_holds | with_reducible refine ite_holds ?_ ?_)
theorem holdLowerHalf_holds (a : Nat) (b : Nat) (e : W32) (c : Chip) (hc : Holds P Q c) : Holds P Q (holdLowerHalf a b e c) := by
  conv in (holdLowerHalf a b e c) => (unfold holdLowerHalf; try dsimp only)
  repeat' (first | with_reducible assumption | (refine ⟨?_, ?_⟩ <;> (dsimp only; first | exact trivial | with_reducible apply Chip.Holds.mem (Q := Q) | with_reducible apply Chip.Holds.due (P := P))))
theorem syncWindowWrite_holds (a : Nat) (b : Nat) (e : W64) (c : Chip) (hc : Holds P Q c) : Holds P Q (syncWindowWrite a b e c) := by
  conv in (syncWindowWrite a b e c) => (unfold syncWindowWrite; try dsimp only)
  repeat' (first | with_reducible assumption | with_reducible apply Chip.signal_holds | with_reducible apply Chip.stampReady_holds | with_reducible refine ite_holds ?_ ?_ | split)
theorem Chip.doorbellWrite_holds (c : Chip) (a : Req) (b : List Byte) (hc : Holds memWf anyDue c) : Holds memWf anyDue (Chip.doorbellWrite c a b) := by
  conv in (Chip.doorbellWrite c a b) => (unfold Chip.doorbellWrite; try dsimp only)
  repeat' (first | with_reducible assumption | with_reducible apply Chip.doorbellSet_holds | with_reducible apply doorbellMisuse_holds | with_reducible apply holdLowerHalf_holds | with_reducible apply syncWindowWrite_holds | with_reducible refine ite_holds ?_ ?_ | (refine ⟨?_, ?_⟩ <;> (dsimp only; first | exact trivial | with_reducible apply Chip.Holds.mem (Q := anyDue) | with_reducible apply Chip.Holds.due (P := memWf))) | split)
theorem Chip.dropLateFrame_holds (c : Chip) (a : Nat) (b : FuseStream) (e : FuseFrame) (f : Nat) (hc : Holds memWf anyDue c) : Holds memWf anyDue (Chip.dropLateFrame c a b e f) := by
  conv in (Chip.dropLateFrame c a b e f) => (unfold Chip.dropLateFrame; try dsimp only)
  repeat' (first | with_reducible assumption | with_reducible apply Chip.lateDrop_holds)
theorem Chip.dropModels_holds (c : Chip) (a : Nat) (hc : Holds memWf anyDue c) : Holds memWf anyDue (Chip.dropModels c a) := by
  conv in (Chip.dropModels c a) => (unfold Chip.dropModels; try dsimp only)
  repeat' (first | with_reducible assumption | with_reducible apply Chip.evict_holds | with_reducible apply Chip.mcRegs_holds | with_reducible apply foldl_holds | (refine ⟨?_, ?_⟩ <;> (dsimp only; first | exact trivial | with_reducible apply Chip.Holds.mem (Q := anyDue) | with_reducible apply Chip.Holds.due (P := memWf))) | split | with_reducible intro _)
theorem Chip.dropPoints_holds (c : Chip) (a : Nat) (b : FuseStream) (e : Nat) (f : Nat) (g : Nat) (i : Nat) (j : Nat) (hc : Holds memWf anyDue c) : Holds memWf anyDue (Chip.dropPoints c a b e f g i j) := by
  conv in (Chip.dropPoints c a b e f g i j) => (unfold Chip.dropPoints; try dsimp only)
  repeat' (first | with_reducible assumption | with_reducible apply Chip.lateDrop_holds | with_reducible apply Chip.updStream_holds)
theorem Chip.dropSlices_holds (c : Chip) (a : List Nat) (hc : Holds P Q c) : Holds P Q (Chip.dropSlices c a) := by
  conv in (Chip.dropSlices c a) => (unfold Chip.dropSlices; try dsimp only)
  repeat' (first | with_reducible assumption | (refine ⟨?_, ?_⟩ <;> (dsimp only; first | exact trivial | with_reducible apply Chip.Holds.mem (Q := Q) | with_reducible apply Chip.Holds.due (P := P))))
theorem Chip.linkTrained_holds (c : Chip) (a : Nat) (b : Nat) (e : Nat) (hc : Holds memWf anyDue c) : Holds memWf anyDue (Chip.linkTrained c a b e) := by
  conv in (Chip.linkTrained c a b e) => (unfold Chip.linkTrained; try dsimp only)
  repeat' (first | with_reducible assumption | with_reducible apply Chip.event_holds | with_reducible apply Chip.setFld_holds)
theorem Chip.writeOut_holds (c : Chip) (a : Nat) (b : Nat) (hc : Holds P Q c) : Holds P Q (Chip.writeOut c a b) := by
  conv in (Chip.writeOut c a b) => (unfold Chip.writeOut; try dsimp only)
  repeat' (first | with_reducible assumption | with_reducible apply Chip.setReg_holds)
theorem displayLinkTraining_holds (a : Nat) (b : Nat) (e : Nat) (f : Bool) (g : Nat) (i : Nat) (c : Chip) (hc : Holds memWf anyDue c) : Holds memWf anyDue (displayLinkTraining a b e f g i c) := by
  conv in (displayLinkTraining a b e f g i c) => (unfold displayLinkTraining; try dsimp only)
  repeat' (first | with_reducible assumption | with_reducible apply Chip.linkTrained_holds | with_reducible apply Chip.writeOut_holds | with_reducible refine ite_holds ?_ ?_)
theorem Chip.setPipe_holds (c : Chip) (a : Nat) (b : Pipe) (hc : Holds P Q c) : Holds P Q (Chip.setPipe c a b) := by
  conv in (Chip.setPipe c a b) => (unfold Chip.setPipe; try dsimp only)
  repeat' (first | with_reducible assumption | (refine ⟨?_, ?_⟩ <;> (dsimp only; first | exact trivial | with_reducible apply Chip.Holds.mem (Q := Q) | with_reducible apply Chip.Holds.due (P := P))))
theorem Chip.loadPipe_holds (c : Chip) (a : Nat) (b : Bool) (hc : Holds P Q c) : Holds P Q (Chip.loadPipe c a b) := by
  conv in (Chip.loadPipe c a b) => (unfold Chip.loadPipe; try dsimp only)
  repeat' (first | with_reducible assumption | with_reducible apply Chip.setFld_holds | with_reducible apply Chip.setPipe_holds | with_reducible refine ite_holds ?_ ?_)
theorem dspCommit_holds (a : Nat) (b : Nat) (e : Nat) (c : Chip) (hc : Holds P Q c) : Holds P Q (dspCommit a b e c) := by
  conv in (dspCommit a b e c) => (unfold dspCommit; try dsimp only)
  repeat' (first | with_reducible assumption | with_reducible apply Chip.loadPipe_holds | with_reducible apply Chip.setFld_holds | with_reducible refine ite_holds ?_ ?_)
theorem Chip.latchRegions_holds (c : Chip) (a : Nat) (hc : Holds P Q c) : Holds P Q (Chip.latchRegions c a) := by
  conv in (Chip.latchRegions c a) => (unfold Chip.latchRegions; try dsimp only)
  repeat' (first | with_reducible assumption | with_reducible apply Chip.setPipe_holds)
theorem Chip.startPipe_holds (c : Chip) (a : Nat) (hc : Holds P Q c) : Holds P Q (Chip.startPipe c a) := by
  conv in (Chip.startPipe c a) => (unfold Chip.startPipe; try dsimp only)
  repeat' (first | with_reducible assumption | with_reducible apply Chip.latchRegions_holds | with_reducible apply Chip.setPipe_holds)
theorem dspPipeEnable_holds (a : Nat) (b : Nat) (e : Nat) (c : Chip) (hc : Holds P Q c) : Holds P Q (dspPipeEnable a b e c) := by
  conv in (dspPipeEnable a b e c) => (unfold dspPipeEnable; try dsimp only)
  repeat' (first | with_reducible assumption | with_reducible apply Chip.setReg_holds | with_reducible apply Chip.startPipe_holds | with_reducible refine ite_holds ?_ ?_)
theorem Chip.dspWrite_holds (c : Chip) (a : RegSpec) (b : Nat) (e : Nat) (f : Nat) (g : Nat) (hc : Holds memWf anyDue c) : Holds memWf anyDue (Chip.dspWrite c a b e f g) := by
  conv in (Chip.dspWrite c a b e f g) => (unfold Chip.dspWrite; try dsimp only)
  repeat' (first | with_reducible assumption | with_reducible apply Chip.draw_holds | with_reducible apply Chip.plainWrite_holds | with_reducible apply displayLinkTraining_holds | with_reducible apply dspCommit_holds | with_reducible apply dspPipeEnable_holds | with_reducible refine ite_holds ?_ ?_ | split)
theorem Chip.eccApply_holds (c : Chip) (c1 : Chip) (hc : Holds memWf anyDue c) (hc1 : Holds memWf anyDue c1) : Holds memWf anyDue (Chip.eccApply c c1) := by
  conv in (Chip.eccApply c c1) => (unfold Chip.eccApply; try dsimp only)
  repeat' (first | with_reducible assumption | with_reducible apply Chip.clearBlocks_holds | with_reducible apply foldl_holds | with_reducible intro _)
theorem Chip.eccNew_holds (c : Chip) (a : Nat) (b : Bool) (e : Nat) (hc : Holds P Q c) : Holds P Q (Chip.eccNew c a b e) := by
  conv in (Chip.eccNew c a b e) => (unfold Chip.eccNew; try dsimp only)
  repeat' (first | with_reducible assumption | with_reducible apply Chip.setReg_holds | with_reducible refine ite_holds ?_ ?_)
theorem Chip.eccServe_holds (a : List EccWrite) (c : Chip) (hc : Holds memWf anyDue c) : Holds memWf anyDue (Chip.eccServe a c) := by
  induction a generalizing c with
  | nil =>
    conv in Chip.eccServe _ _ => (unfold Chip.eccServe; try dsimp only)
    repeat' (first | with_reducible assumption | fail | with_reducible apply Chip.eccApply_holds | with_reducible apply Chip.eccNew_holds | with_reducible refine ite_holds ?_ ?_ | (refine ⟨?_, ?_⟩ <;> (dsimp only; first | exact trivial | with_reducible apply Chip.Holds.mem (Q := anyDue) | with_reducible apply Chip.Holds.due (P := memWf))))
  | cons x l ih =>
    conv in Chip.eccServe _ _ => (unfold Chip.eccServe; try dsimp only)
    repeat' (first | with_reducible assumption | with_reducible apply ih | with_reducible apply Chip.eccApply_holds | with_reducible apply Chip.eccNew_holds | with_reducible refine ite_holds ?_ ?_ | (refine ⟨?_, ?_⟩ <;> (dsimp only; first | exact trivial | with_reducible apply Chip.Holds.mem (Q := anyDue) | with_reducible apply Chip.Holds.due (P := memWf))))
theorem Chip.eccService_holds (c : Chip) (hc : Holds memWf anyDue c) : Holds memWf anyDue (Chip.eccService c) := by
  conv in (Chip.eccService c) => (unfold Chip.eccService; try dsimp only)
  repeat' (first | with_reducible assumption | with_reducible apply Chip.eccServe_holds | with_reducible refine ite_holds ?_ ?_)
theorem Chip.edgeFrames_holds (c : Chip) (a : Nat) (b : Nat) (hc : Holds memWf anyDue c) : Holds memWf anyDue (Chip.edgeFrames c a b) := by
  conv in (Chip.edgeFrames c a b) => (unfold Chip.edgeFrames; try dsimp only)
  repeat' (first | with_reducible assumption | with_reducible apply Chip.beginFrame_holds | with_reducible apply Chip.boundary_holds | with_reducible apply foldl_holds | split | with_reducible intro _)
theorem Chip.emergency_holds (c : Chip) (a : Nat) (hc : Holds memWf anyDue c) : Holds memWf anyDue (Chip.emergency c a) := by
  conv in (Chip.emergency c a) => (unfold Chip.emergency; try dsimp only)
  repeat' (first | with_reducible assumption | with_reducible apply Chip.error_holds | with_reducible apply Chip.event_holds | with_reducible apply Chip.setFld_holds)
theorem Chip.emergencyOver_holds (c : Chip) (hc : Holds memWf anyDue c) : Holds memWf anyDue (Chip.emergencyOver c) := by
  conv in (Chip.emergencyOver c) => (unfold Chip.emergencyOver; try dsimp only)
  repeat' (first | with_reducible assumption | with_reducible apply Chip.draw_holds | with_reducible apply Chip.event_holds | with_reducible apply Chip.setFld_holds | with_reducible apply Chip.sluiceServe_holds)
theorem Chip.updRing_holds (c : Chip) (a : Nat) (b : AleRing → AleRing) (hc : Holds P Q c) : Holds P Q (Chip.updRing c a b) := by
  conv in (Chip.updRing c a b) => (unfold Chip.updRing; try dsimp only)
  repeat' (first | with_reducible assumption | (refine ⟨?_, ?_⟩ <;> (dsimp only; first | exact trivial | with_reducible apply Chip.Holds.mem (Q := Q) | with_reducible apply Chip.Holds.due (P := P))) | split)
theorem Chip.endBlock_holds (c : Chip) (a : Nat) (b : AleRing) (hc : Holds memWf anyDue c) : Holds memWf anyDue (Chip.endBlock c a b) := by
  conv in (Chip.endBlock c a b) => (unfold Chip.endBlock; try dsimp only)
  repeat' (first | with_reducible assumption | with_reducible apply Chip.putRecord_holds | with_reducible apply Chip.saveRange_holds | with_reducible apply Chip.updRing_holds)
theorem Chip.endDesc_holds (c : Chip) (a : Nat) (b : Nat) (e : Nat) (hc : Holds P Q c) : Holds P Q (Chip.endDesc c a b e) := by
  conv in (Chip.endDesc c a b e) => (unfold Chip.endDesc; try dsimp only)
  repeat' (first | with_reducible assumption | with_reducible apply Chip.updRill_holds)
theorem Chip.updSlice_holds (c : Chip) (a : Nat) (b : Slice → Slice) (hc : Holds P Q c) : Holds P Q (Chip.updSlice c a b) := by
  conv in (Chip.updSlice c a b) => (unfold Chip.updSlice; try dsimp only)
  repeat' (first | with_reducible assumption | (refine ⟨?_, ?_⟩ <;> (dsimp only; first | exact trivial | with_reducible apply Chip.Holds.mem (Q := Q) | with_reducible apply Chip.Holds.due (P := P))) | split)
theorem Chip.endDrain_holds (c : Chip) (a : Drain) (hc : Holds memWf anyDue c) : Holds memWf anyDue (Chip.endDrain c a) := by
  conv in (Chip.endDrain c a) => (unfold Chip.endDrain; try dsimp only)
  repeat' (first | with_reducible assumption | with_reducible apply Chip.event_holds | with_reducible apply Chip.finish_holds | with_reducible apply Chip.updSlice_holds | with_reducible apply foldl_holds | (refine ⟨?_, ?_⟩ <;> (dsimp only; first | exact trivial | with_reducible apply Chip.Holds.mem (Q := anyDue) | with_reducible apply Chip.Holds.due (P := memWf))) | split | with_reducible intro _)
theorem Chip.telltaleFrame_holds (c : Chip) (a : Nat) (b : Bool) (hc : Holds memWf anyDue c) : Holds memWf anyDue (Chip.telltaleFrame c a b) := by
  conv in (Chip.telltaleFrame c a b) => (unfold Chip.telltaleFrame; try dsimp only)
  repeat' (first | with_reducible assumption | with_reducible apply Chip.enterSafe_holds | with_reducible refine ite_holds ?_ ?_ | (refine ⟨?_, ?_⟩ <;> (dsimp only; first | exact trivial | with_reducible apply Chip.Holds.mem (Q := anyDue) | with_reducible apply Chip.Holds.due (P := memWf))) | split)
theorem Chip.regionFinding_holds (c : Chip) (a : Nat) (b : List Nat) (hc : Holds memWf anyDue c) : Holds memWf anyDue (Chip.regionFinding c a b) := by
  conv in (Chip.regionFinding c a b) => (unfold Chip.regionFinding; try dsimp only)
  repeat' (first | with_reducible assumption | with_reducible apply Chip.count_holds | with_reducible apply Chip.event_holds | with_reducible apply Chip.setFld_holds | with_reducible apply Chip.telltaleFrame_holds | with_reducible refine ite_holds ?_ ?_)
theorem Chip.endFrame_holds (c : Chip) (a : Nat) (b : Pipe) (e : List Nat) (f : Nat) (hc : Holds memWf anyDue c) : Holds memWf anyDue (Chip.endFrame c a b e f) := by
  conv in (Chip.endFrame c a b e f) => (unfold Chip.endFrame; try dsimp only)
  repeat' (first | with_reducible assumption | with_reducible apply Chip.count_holds | with_reducible apply Chip.event_holds | with_reducible apply Chip.latchRegions_holds | with_reducible apply Chip.regionFinding_holds | with_reducible apply Chip.setPipe_holds | with_reducible apply Chip.setReg_holds | with_reducible apply foldl_holds | with_reducible refine ite_holds ?_ ?_ | split | with_reducible intro _)
theorem Chip.fillSegments_holds (c : Chip) (a : List Nat) (b : List Byte) (hc : Holds memWf anyDue c) : Holds memWf anyDue (Chip.fillSegments c a b) := by
  induction a generalizing c b with
  | nil =>
    conv in Chip.fillSegments _ _ _ => (unfold Chip.fillSegments; try dsimp only)
    repeat' (first | with_reducible assumption | fail | with_reducible apply Chip.store_holds | with_reducible refine ite_holds ?_ ?_)
  | cons x l ih =>
    conv in Chip.fillSegments _ _ _ => (unfold Chip.fillSegments; try dsimp only)
    repeat' (first | with_reducible assumption | with_reducible apply ih | with_reducible apply Chip.store_holds | with_reducible refine ite_holds ?_ ?_)
theorem Chip.loadedPacket_holds (c : Chip) (a : Nat) (b : Served) (e : Nat) (hc : Holds P Q c) : Holds P Q (Chip.loadedPacket c a b e) := by
  conv in (Chip.loadedPacket c a b e) => (unfold Chip.loadedPacket; try dsimp only)
  repeat' (first | with_reducible assumption | with_reducible apply Chip.finish_holds | with_reducible apply Chip.updModel_holds | with_reducible refine ite_holds ?_ ?_ | (refine ⟨?_, ?_⟩ <;> (dsimp only; first | exact trivial | with_reducible apply Chip.Holds.mem (Q := Q) | with_reducible apply Chip.Holds.due (P := P))) | split)
theorem Chip.endLoad_holds (c : Chip) (a : Nat) (hc : Holds memWf anyDue c) : Holds memWf anyDue (Chip.endLoad c a).2 := by
  conv in (Chip.endLoad c a) => (unfold Chip.endLoad; try dsimp only)
  repeat' (first | with_reducible assumption | with_reducible apply Chip.count_holds | with_reducible apply Chip.fillSegments_holds | with_reducible apply Chip.loadRange_holds | with_reducible apply Chip.loadedPacket_holds | with_reducible apply Chip.mcRegs_holds | with_reducible apply Chip.updModel_holds | with_reducible apply foldl_holds | with_reducible refine ite_holds ?_ ?_ | (with_reducible refine has_snd rfl ?_; first | with_reducible assumption | with_reducible apply Chip.count_holds | with_reducible apply Chip.fillSegments_holds | with_reducible apply Chip.loadRange_holds | with_reducible apply Chip.loadedPacket_holds | with_reducible apply Chip.mcRegs_holds | with_reducible apply Chip.updModel_holds | with_reducible apply foldl_holds | with_reducible refine ite_holds ?_ ?_) | split | with_reducible intro _)
theorem Chip.publishL0_holds (c : Chip) (a : Nat) (b : Nat) (e : Nat) (f : Nat) (g : Nat) (i : Nat) (j : Option (Nat × Nat)) (k : List Byte) (hc : Holds memWf anyDue c) : Holds memWf anyDue (Chip.publishL0 c a b e f g i j k) := by
  conv in (Chip.publishL0 c a b e f g i j k) => (unfold Chip.publishL0; try dsimp only)
  repeat' (first | with_reducible assumption | with_reducible apply Chip.putRecord_holds | with_reducible apply Chip.updStream_holds | split)
theorem Chip.publishFrame_holds (c : Chip) (a : Nat) (b : FuseFrame) (e : Nat) (hc : Holds memWf anyDue c) : Holds memWf anyDue (Chip.publishFrame c a b e) := by
  conv in (Chip.publishFrame c a b e) => (unfold Chip.publishFrame; try dsimp only)
  repeat' (first | with_reducible assumption | with_reducible apply Chip.contribute_holds | with_reducible apply Chip.publishL0_holds | with_reducible apply Chip.updFrame_holds | split)
theorem Chip.tryPublish_holds (c : Chip) (a : Nat) (b : Nat) (hc : Holds memWf anyDue c) : Holds memWf anyDue (Chip.tryPublish c a b) := by
  conv in (Chip.tryPublish c a b) => (unfold Chip.tryPublish; try dsimp only)
  repeat' (first | with_reducible assumption | with_reducible apply Chip.depthPlane_holds | with_reducible apply Chip.forgetFrames_holds | with_reducible apply Chip.publishFrame_holds | with_reducible refine of_snd (by assumption) ?_ | with_reducible refine ite_holds ?_ ?_ | split)
theorem Chip.publishEnded_holds (c : Chip) (a : Nat) (hc : Holds memWf anyDue c) : Holds memWf anyDue (Chip.publishEnded c a) := by
  conv in (Chip.publishEnded c a) => (unfold Chip.publishEnded; try dsimp only)
  repeat' (first | with_reducible assumption | with_reducible apply Chip.tryPublish_holds | with_reducible apply foldl_holds | split | with_reducible intro _)
theorem Chip.endSweeps_holds (c : Chip) (a : Nat) (b : Nat) (hc : Holds memWf anyDue c) : Holds memWf anyDue (Chip.endSweeps c a b) := by
  conv in (Chip.endSweeps c a b) => (unfold Chip.endSweeps; try dsimp only)
  repeat' (first | with_reducible assumption | with_reducible apply Chip.lateOver_holds | with_reducible apply Chip.publishEnded_holds | with_reducible apply Chip.updFrame_holds | with_reducible apply foldl_holds | split | with_reducible intro _)
theorem Chip.keepPoints_holds (c : Chip) (a : Nat) (b : FuseStream) (e : Nat) (f : Nat) (g : List Byte) (hc : Holds memWf anyDue c) : Holds memWf anyDue (Chip.keepPoints c a b e f g) := by
  conv in (Chip.keepPoints c a b e f g) => (unfold Chip.keepPoints; try dsimp only)
  repeat' (first | with_reducible assumption | with_reducible apply Chip.dropPoints_holds | with_reducible apply Chip.publishEnded_holds | with_reducible apply Chip.updFrame_holds | with_reducible apply Chip.updStream_holds | with_reducible apply foldl_holds | split | with_reducible intro _)
theorem Chip.takePoints_holds (c : Chip) (a : Nat) (b : FuseStream) (e : FuseFrame) (f : Nat) (g : List Byte) (hc : Holds memWf anyDue c) : Holds memWf anyDue (Chip.takePoints c a b e f g) := by
  conv in (Chip.takePoints c a b e f g) => (unfold Chip.takePoints; try dsimp only)
  repeat' (first | with_reducible assumption | with_reducible apply Chip.cflWrite_holds | with_reducible apply Chip.keepPoints_holds | with_reducible apply Chip.updFrame_holds | with_reducible refine ite_holds ?_ ?_)
theorem Chip.endedPoints_holds (c : Chip) (a : Nat) (b : FuseStream) (e : FuseFrame) (f : Nat) (g : List Byte) (hc : Holds memWf anyDue c) : Holds memWf anyDue (Chip.endedPoints c a b e f g) := by
  conv in (Chip.endedPoints c a b e f g) => (unfold Chip.endedPoints; try dsimp only)
  repeat' (first | with_reducible assumption | with_reducible apply Chip.lateDrop_holds | with_reducible apply Chip.takePoints_holds | with_reducible apply Chip.updFrame_holds | with_reducible refine ite_holds ?_ ?_)
theorem Chip.refill_holds (c : Chip) (a : Nat) (b : Nat) (e : Nat) (hc : Holds P Q c) : Holds P Q (Chip.refill c a b e) := by
  conv in (Chip.refill c a b e) => (unfold Chip.refill; try dsimp only)
  repeat' (first | with_reducible assumption | (refine ⟨?_, ?_⟩ <;> (dsimp only; first | exact trivial | with_reducible apply Chip.Holds.mem (Q := Q) | with_reducible apply Chip.Holds.due (P := P))))
theorem Chip.engBusy_holds (c : Chip) (a : Nat) (b : Nat) (e : List Byte) (f : Bool) (hc : Holds P Q c) : Holds P Q (Chip.engBusy c a b e f) := by
  conv in (Chip.engBusy c a b e f) => (unfold Chip.engBusy; try dsimp only)
  repeat' (first | with_reducible assumption | with_reducible apply Chip.refill_holds | with_reducible apply Chip.updEngine_holds)
theorem Chip.engDone_holds (c : Chip) (a : Nat) (b : Nat) (e : Engine) (hc : Holds P Q c) : Holds P Q (Chip.engDone c a b e) := by
  conv in (Chip.engDone c a b e) => (unfold Chip.engDone; try dsimp only)
  repeat' (first | with_reducible assumption | with_reducible apply Chip.engCount_holds | with_reducible refine ite_holds ?_ ?_)
theorem Chip.showDesc_holds (c : Chip) (a : Nat) (b : Nat) (hc : Holds P Q c) : Holds P Q (Chip.showDesc c a b) := by
  conv in (Chip.showDesc c a b) => (unfold Chip.showDesc; try dsimp only)
  repeat' (first | with_reducible assumption | with_reducible apply Chip.setFld_holds)
theorem Chip.engNext_holds (c : Chip) (a : Nat) (b : Nat) (hc : Holds P Q c) : Holds P Q (Chip.engNext c a b) := by
  conv in (Chip.engNext c a b) => (unfold Chip.engNext; try dsimp only)
  repeat' (first | with_reducible assumption | with_reducible apply Chip.setEngState_holds | with_reducible apply Chip.setEngine_holds | with_reducible apply Chip.showDesc_holds | with_reducible refine ite_holds ?_ ?_)
theorem Chip.engRunning_holds (c : Chip) (a : Nat) (b : Nat) (hc : Holds P Q c) : Holds P Q (Chip.engRunning c a b) := by
  conv in (Chip.engRunning c a b) => (unfold Chip.engRunning; try dsimp only)
  repeat' (first | with_reducible assumption | with_reducible apply Chip.setEngState_holds)
theorem Chip.enterModel_holds (c : Chip) (a : Nat) (b : Nat) (e : Model) (hc : Holds memWf anyDue c) : Holds memWf anyDue (Chip.enterModel c a b e) := by
  conv in (Chip.enterModel c a b e) => (unfold Chip.enterModel; try dsimp only)
  repeat' (first | with_reducible assumption | with_reducible apply Chip.event_holds | with_reducible refine ite_holds ?_ ?_ | (refine ⟨?_, ?_⟩ <;> (dsimp only; first | exact trivial | with_reducible apply Chip.Holds.mem (Q := anyDue) | with_reducible apply Chip.Holds.due (P := memWf))))
theorem errRingEnable_holds (a : Nat) (b : Nat) (c : Chip) (hc : Holds memWf anyDue c) : Holds memWf anyDue (errRingEnable a b c) := by
  conv in (errRingEnable a b c) => (unfold errRingEnable; try dsimp only)
  repeat' (first | with_reducible assumption | with_reducible apply Chip.errService_holds | with_reducible apply Chip.setFld_holds | with_reducible refine ite_holds ?_ ?_)
theorem errRingHeadWrite_holds (a : Nat) (b : Nat) (c : Chip) (hc : Holds memWf anyDue c) : Holds memWf anyDue (errRingHeadWrite a b c) := by
  conv in (errRingHeadWrite a b c) => (unfold errRingHeadWrite; try dsimp only)
  repeat' (first | with_reducible assumption | with_reducible apply Chip.errService_holds | with_reducible apply Chip.setReg_holds | with_reducible refine ite_holds ?_ ?_)
theorem Chip.errWriteReg_holds (c : Chip) (a : RegSpec) (b : Nat) (e : Nat) (f : Nat) (hc : Holds memWf anyDue c) : Holds memWf anyDue (Chip.errWriteReg c a b e f) := by
  conv in (Chip.errWriteReg c a b e f) => (unfold Chip.errWriteReg; try dsimp only)
  repeat' (first | with_reducible assumption | with_reducible apply Chip.plainWrite_holds | with_reducible apply errRingEnable_holds | with_reducible apply errRingHeadWrite_holds | with_reducible refine ite_holds ?_ ?_ | split)
theorem Chip.fetchFailed_holds (c : Chip) (a : Nat) (b : Nat) (e : Nat) (f : Served) (hc : Holds memWf anyDue c) : Holds memWf anyDue (Chip.fetchFailed c a b e f) := by
  conv in (Chip.fetchFailed c a b e f) => (unfold Chip.fetchFailed; try dsimp only)
  repeat' (first | with_reducible assumption | with_reducible apply Chip.ringError_holds | with_reducible refine ite_holds ?_ ?_)
theorem Chip.fetchRead_holds (c : Chip) (a : BridgeRead) (hc : Holds P Q c) : Holds P Q (Chip.fetchRead c a) := by
  conv in (Chip.fetchRead c a) => (unfold Chip.fetchRead; try dsimp only)
  repeat' (first | with_reducible assumption | with_reducible apply Chip.count_holds | with_reducible apply Chip.readRegs_holds | with_reducible apply Chip.showBridge_holds | with_reducible apply Chip.updLink_holds)
theorem Chip.flushed_holds (c : Chip) (a : Pass) (hc : Holds memWf anyDue c) : Holds memWf anyDue (Chip.flushed c a) := by
  conv in (Chip.flushed c a) => (unfold Chip.flushed; try dsimp only)
  repeat' (first | with_reducible assumption | with_reducible apply Chip.afterBin_holds | with_reducible apply Chip.count_holds | with_reducible apply Chip.event_holds)
theorem Chip.formPacket_holds (c : Chip) (a : Nat) (b : Nat) (e : Nat) (f : List Byte) (hc : Holds P Q c) : Holds P Q (Chip.formPacket c a b e f).2 := by
  conv in (Chip.formPacket c a b e f) => (unfold Chip.formPacket; try dsimp only)
  repeat' (first | with_reducible assumption | with_reducible apply Chip.draw_holds | (with_reducible refine has_snd rfl ?_; first | with_reducible assumption | with_reducible apply Chip.draw_holds | (refine ⟨?_, ?_⟩ <;> (dsimp only; first | exact trivial | with_reducible apply Chip.Holds.mem (Q := Q) | with_reducible apply Chip.Holds.due (P := P)))) | (refine ⟨?_, ?_⟩ <;> (dsimp only; first | exact trivial | with_reducible apply Chip.Holds.mem (Q := Q) | with_reducible apply Chip.Holds.due (P := P))))
theorem Chip.netDrop_holds (c : Chip) (a : Nat) (hc : Holds P Q c) : Holds P Q (Chip.netDrop c a) := by
  conv in (Chip.netDrop c a) => (unfold Chip.netDrop; try dsimp only)
  repeat' (first | with_reducible assumption | with_reducible apply Chip.count_holds | with_reducible refine ite_holds ?_ ?_)
theorem Chip.recover_holds (c : Chip) (a : EthFrame) (b : Nat) (hc : Holds P Q c) : Holds P Q (Chip.recover c a b).2 := by
  conv in (Chip.recover c a b) => (unfold Chip.recover; try dsimp only)
  repeat' (first | with_reducible assumption | with_reducible apply Chip.count_holds | with_reducible apply Chip.updNet_holds | with_reducible refine ite_snd ?_ ?_ | (with_reducible refine has_snd rfl ?_; first | with_reducible assumption | with_reducible apply Chip.count_holds | with_reducible apply Chip.updNet_holds | with_reducible refine ite_snd ?_ ?_) | split)
theorem Chip.txDone_holds (c : Chip) (a : Option (Nat × Nat)) (b : Option Nat) (hc : Holds memWf anyDue c) : Holds memWf anyDue (Chip.txDone c a b) := by
  conv in (Chip.txDone c a b) => (unfold Chip.txDone; try dsimp only)
  repeat' (first | with_reducible assumption | with_reducible apply Chip.descDone_holds | split)
theorem Chip.forward_holds (c : Chip) (a : EthFrame) (hc : Holds memWf anyDue c) : Holds memWf anyDue (Chip.forward c a) := by
  conv in (Chip.forward c a) => (unfold Chip.forward; try dsimp only)
  repeat' (first | with_reducible assumption | with_reducible apply Chip.enqueue_holds | with_reducible apply Chip.gatewayAll_holds | with_reducible apply Chip.netDrop_holds | with_reducible apply Chip.netRecord_holds | with_reducible apply Chip.recover_holds | with_reducible apply Chip.txDone_holds | with_reducible apply Chip.updNet_holds | with_reducible apply foldl_holds | with_reducible apply foldl_fst | with_reducible refine ite_holds ?_ ?_ | (with_reducible refine has_snd rfl ?_; first | with_reducible assumption | with_reducible apply Chip.enqueue_holds | with_reducible apply Chip.gatewayAll_holds | with_reducible apply Chip.netDrop_holds | with_reducible apply Chip.netRecord_holds | with_reducible apply Chip.recover_holds | with_reducible apply Chip.txDone_holds | with_reducible apply Chip.updNet_holds | with_reducible apply foldl_holds | with_reducible apply foldl_fst | with_reducible refine ite_holds ?_ ?_ | (refine ⟨?_, ?_⟩ <;> (dsimp only; first | exact trivial | with_reducible apply Chip.Holds.mem (Q := anyDue) | with_reducible apply Chip.Holds.due (P := memWf)))) | (refine ⟨?_, ?_⟩ <;> (dsimp only; first | exact trivial | with_reducible apply Chip.Holds.mem (Q := anyDue) | with_reducible apply Chip.Holds.due (P := memWf))) | split | with_reducible intro _)
theorem Chip.frameEnters_holds (c : Chip) (a : Nat) (b : List Byte) (e : Bool) (hc : Holds memWf anyDue c) : Holds memWf anyDue (Chip.frameEnters c a b e) := by
  conv in (Chip.frameEnters c a b e) => (unfold Chip.frameEnters; try dsimp only)
  repeat' (first | with_reducible assumption | with_reducible apply Chip.forward_holds)
theorem Chip.frameIn_holds (c : Chip) (a : Nat) (hc : Holds P Q c) : Holds P Q (Chip.frameIn c a) := by
  conv in (Chip.frameIn c a) => (unfold Chip.frameIn; try dsimp only)
  repeat' (first | with_reducible assumption | with_reducible apply Chip.count_holds | with_reducible apply Chip.setFld_holds | with_reducible refine ite_holds ?_ ?_)
theorem Chip.planeRow_holds (c : Chip) (a : PlaneCfg) (b : Nat) (hc : Holds memWf anyDue c) : Holds memWf anyDue (Chip.planeRow c a b).2 := by
  conv in (Chip.planeRow c a b) => (unfold Chip.planeRow; try dsimp only)
  repeat' (first | with_reducible assumption | with_reducible apply Chip.loadRange_holds | with_reducible refine of_snd2 (by assumption) ?_ | with_reducible refine ite_snd ?_ ?_ | (with_reducible refine has_snd rfl ?_; first | with_reducible assumption | with_reducible apply Chip.loadRange_holds | with_reducible refine of_snd2 (by assumption) ?_ | with_reducible refine ite_snd ?_ ?_) | split)
theorem Chip.lineRows_holds (c : Chip) (a : Nat) (b : List PlaneCfg) (hc : Holds memWf anyDue c) : Holds memWf anyDue (Chip.lineRows c a b).2 := by
  induction b generalizing c a with
  | nil =>
    conv in Chip.lineRows _ _ _ => (unfold Chip.lineRows; try dsimp only)
    repeat' (first | with_reducible assumption | fail | with_reducible apply Chip.planeRow_holds | with_reducible refine ite_snd ?_ ?_)
  | cons x l ih =>
    conv in Chip.lineRows _ _ _ => (unfold Chip.lineRows; try dsimp only)
    repeat' (first | with_reducible assumption | with_reducible apply ih | with_reducible apply Chip.planeRow_holds | with_reducible refine ite_snd ?_ ?_)
theorem Chip.linePixels_holds (c : Chip) (a : Nat) (b : Nat) (e : List (Nat × Nat)) (hc : Holds memWf anyDue c) : Holds memWf anyDue (Chip.linePixels c a b e).2.2 := by
  conv in (Chip.linePixels c a b e) => (unfold Chip.linePixels; try dsimp only)
  repeat' (first | with_reducible assumption | with_reducible apply Chip.lineRows_holds)
theorem Chip.frameLines_holds (c : Chip) (a : Nat) (b : List (Nat × Nat)) (e : List Nat) (f : List Nat) (g : Nat) (hc : Holds memWf anyDue c) : Holds memWf anyDue (Chip.frameLines c a b e f g).2.2 := by
  induction e generalizing c a b f g with
  | nil =>
    conv in Chip.frameLines _ _ _ _ _ _ => (unfold Chip.frameLines; try dsimp only)
    repeat' (first | with_reducible assumption | fail | with_reducible apply Chip.linePixels_holds)
  | cons x l ih =>
    conv in Chip.frameLines _ _ _ _ _ _ => (unfold Chip.frameLines; try dsimp only)
    repeat' (first | with_reducible assumption | with_reducible apply ih | with_reducible apply Chip.linePixels_holds)
theorem Chip.frameOut_holds (c : Chip) (a : AMap (List Byte)) (b : Nat) (e : Nat) (f : EthFrame) (hc : Holds memWf anyDue c) : Holds memWf anyDue (Chip.frameOut c a b e f) := by
  conv in (Chip.frameOut c a b e f) => (unfold Chip.frameOut; try dsimp only)
  repeat' (first | with_reducible assumption | with_reducible apply Chip.count_holds | with_reducible apply Chip.send_holds | with_reducible apply Chip.txDone_holds | with_reducible apply Chip.updNet_holds | (refine ⟨?_, ?_⟩ <;> (dsimp only; first | exact trivial | with_reducible apply Chip.Holds.mem (Q := anyDue) | with_reducible apply Chip.Holds.due (P := memWf))) | split)
theorem Chip.frameTaken_holds (c : Chip) (a : AMap (List Byte)) (b : Nat) (e : List Byte) (hc : Holds memWf anyDue c) : Holds memWf anyDue (Chip.frameTaken c a b e) := by
  conv in (Chip.frameTaken c a b e) => (unfold Chip.frameTaken; try dsimp only)
  repeat' (first | with_reducible assumption | with_reducible apply Chip.count_holds | with_reducible apply Chip.frameEnters_holds | with_reducible apply Chip.netRecord_holds | with_reducible refine ite_holds ?_ ?_ | split)
theorem Chip.freeFrame_holds (c : Chip) (a : Nat) (hc : Holds memWf anyDue c) : Holds memWf anyDue (Chip.freeFrame c a) := by
  conv in (Chip.freeFrame c a) => (unfold Chip.freeFrame; try dsimp only)
  repeat' (first | with_reducible assumption | with_reducible apply Chip.beginFrom_holds | with_reducible apply Chip.boundary_holds | with_reducible refine ite_holds ?_ ?_ | split)
theorem Chip.gateGoesOn_holds (c : Chip) (a : Nat) (hc : Holds P Q c) : Holds P Q (Chip.gateGoesOn c a) := by
  conv in (Chip.gateGoesOn c a) => (unfold Chip.gateGoesOn; try dsimp only)
  repeat' (first | with_reducible assumption | with_reducible apply Chip.advanceGate_holds | split)
theorem Chip.secRecord_holds (c : Chip) (a : Nat) (b : Nat) (e : Nat) (f : Nat) (g : Nat) (i : Option Nat) (hc : Holds memWf anyDue c) : Holds memWf anyDue (Chip.secRecord c a b e f g i) := by
  conv in (Chip.secRecord c a b e f g i) => (unfold Chip.secRecord; try dsimp only)
  repeat' (first | with_reducible assumption | with_reducible apply Chip.error_holds)
theorem Chip.gateNotice_holds (c : Chip) (a : Nat) (b : Nat) (e : Nat) (f : Nat) (hc : Holds memWf anyDue c) : Holds memWf anyDue (Chip.gateNotice c a b e f) := by
  conv in (Chip.gateNotice c a b e f) => (unfold Chip.gateNotice; try dsimp only)
  repeat' (first | with_reducible assumption | with_reducible apply Chip.count_holds | with_reducible apply Chip.secRecord_holds)
theorem Chip.trap_holds (c : Chip) (a : Nat) (b : Nat) (hc : Holds P Q c) : Holds P Q (Chip.trap c a b) := by
  conv in (Chip.trap c a b) => (unfold Chip.trap; try dsimp only)
  repeat' (first | with_reducible assumption | (refine ⟨?_, ?_⟩ <;> (dsimp only; first | exact trivial | with_reducible apply Chip.Holds.mem (Q := Q) | with_reducible apply Chip.Holds.due (P := P))))
theorem Chip.gateTrap_holds (c : Chip) (a : Nat) (b : Nat) (e : Nat) (hc : Holds P Q c) : Holds P Q (Chip.gateTrap c a b e) := by
  conv in (Chip.gateTrap c a b e) => (unfold Chip.gateTrap; try dsimp only)
  repeat' (first | with_reducible assumption | with_reducible apply Chip.trap_holds | (refine ⟨?_, ?_⟩ <;> (dsimp only; first | exact trivial | with_reducible apply Chip.Holds.mem (Q := Q) | with_reducible apply Chip.Holds.due (P := P))))
theorem Chip.gfxWrite_holds (c : Chip) (a : RegSpec) (b : Nat) (e : Nat) (hc : Holds P Q c) : Holds P Q (Chip.gfxWrite c a b e) := by
  conv in (Chip.gfxWrite c a b e) => (unfold Chip.gfxWrite; try dsimp only)
  repeat' (first | with_reducible assumption | with_reducible apply Chip.clearRegs_holds | with_reducible apply Chip.plainWrite_holds | with_reducible refine ite_holds ?_ ?_)
theorem Chip.setGoldenGroup_holds (c : Chip) (a : Nat) (b : GoldenGroup) (hc : Holds P Q c) : Holds P Q (Chip.setGoldenGroup c a b) := by
  conv in (Chip.setGoldenGroup c a b) => (unfold Chip.setGoldenGroup; try dsimp only)
  repeat' (first | with_reducible assumption | (refine ⟨?_, ?_⟩ <;> (dsimp only; first | exact trivial | with_reducible apply Chip.Holds.mem (Q := Q) | with_reducible apply Chip.Holds.due (P := P))))
theorem Chip.goldenDefer_holds (c : Chip) (a : Nat) (b : Nat) (e : GoldenGroup) (hc : Holds memWf anyDue c) : Holds memWf anyDue (Chip.goldenDefer c a b e) := by
  conv in (Chip.goldenDefer c a b e) => (unfold Chip.goldenDefer; try dsimp only)
  repeat' (first | with_reducible assumption | with_reducible apply Chip.count_holds | with_reducible apply Chip.event_holds | with_reducible apply Chip.setGoldenGroup_holds)
theorem Chip.goldenLate_holds (c : Chip) (a : Nat) (b : GoldenGroup) (hc : Holds memWf anyDue c) : Holds memWf anyDue (Chip.goldenLate c a b) := by
  conv in (Chip.goldenLate c a b) => (unfold Chip.goldenLate; try dsimp only)
  repeat' (first | with_reducible assumption | with_reducible apply Chip.enterSafeMask_holds | with_reducible apply Chip.event_holds | with_reducible apply Chip.setFld_holds | with_reducible apply Chip.setGoldenGroup_holds)
theorem Chip.goldenNext_holds (c : Chip) (a : Nat) (b : Golden) (e : GoldenGroup) (hc : Holds P Q c) : Holds P Q (Chip.goldenNext c a b e) := by
  conv in (Chip.goldenNext c a b e) => (unfold Chip.goldenNext; try dsimp only)
  repeat' (first | with_reducible assumption | with_reducible apply Chip.setGoldenGroup_holds)
theorem Chip.goldenNow_holds (c : Chip) (a : Golden) (hc : Holds P Q c) : Holds P Q (Chip.goldenNow c a) := by
  conv in (Chip.goldenNow c a) => (unfold Chip.goldenNow; try dsimp only)
  repeat' (first | with_reducible assumption | with_reducible apply Chip.setGoldenGroup_holds | with_reducible apply foldl_holds | split | with_reducible intro _)
theorem Chip.goldenPass_holds (c : Chip) (a : Nat) (hc : Holds P Q c) : Holds P Q (Chip.goldenPass c a) := by
  conv in (Chip.goldenPass c a) => (unfold Chip.goldenPass; try dsimp only)
  repeat' (first | with_reducible assumption | with_reducible apply Chip.setGoldenGroup_holds | with_reducible apply Chip.setReg_holds | split)
theorem Chip.goldenStart_holds (c : Chip) (a : Nat) (b : Golden) (e : Nat) (f : Chan) (hc : Holds P Q c) : Holds P Q (Chip.goldenStart c a b e f) := by
  conv in (Chip.goldenStart c a b e f) => (unfold Chip.goldenStart; try dsimp only)
  repeat' (first | with_reducible assumption | with_reducible apply Chip.showJobs_holds | (refine ⟨?_, ?_⟩ <;> (dsimp only; first | exact trivial | with_reducible apply Chip.Holds.mem (Q := Q) | with_reducible apply Chip.Holds.due (P := P))))
theorem Chip.gonePoints_holds (c : Chip) (a : Nat) (b : FuseStream) (e : Nat) (f : Nat) (hc : Holds memWf anyDue c) : Holds memWf anyDue (Chip.gonePoints c a b e f) := by
  conv in (Chip.gonePoints c a b e f) => (unfold Chip.gonePoints; try dsimp only)
  repeat' (first | with_reducible assumption | with_reducible apply Chip.lateDrop_holds | with_reducible refine ite_holds ?_ ?_)
theorem Chip.publishLevel_holds (c : Chip) (a : Nat) (b : Nat) (e : Nat) (f : Nat) (g : Nat) (i : Cycle) (j : Nat) (k : Nat) (l : Nat) (n : Nat) (o : Nat) (q : Nat) (r : Nat) (t : Nat) (u : Bool) (hc : Holds memWf anyDue c) : Holds memWf anyDue (Chip.publishLevel c a b e f g i j k l n o q r t u) := by
  conv in (Chip.publishLevel c a b e f g i j k l n o q r t u) => (unfold Chip.publishLevel; try dsimp only)
  repeat' (first | with_reducible assumption | with_reducible apply Chip.event_holds | with_reducible apply Chip.putRecord_holds | with_reducible refine ite_holds ?_ ?_)
theorem Chip.publishGrid_holds (c : Chip) (a : Nat) (b : Grid) (e : Nat) (f : Nat) (hc : Holds memWf anyDue c) : Holds memWf anyDue (Chip.publishGrid c a b e f) := by
  conv in (Chip.publishGrid c a b e f) => (unfold Chip.publishGrid; try dsimp only)
  repeat' (first | with_reducible assumption | with_reducible apply Chip.cflWrite_holds | with_reducible apply Chip.publishLevel_holds | (refine ⟨?_, ?_⟩ <;> (dsimp only; first | exact trivial | with_reducible apply Chip.Holds.mem (Q := anyDue) | with_reducible apply Chip.Holds.due (P := memWf))))
theorem Chip.revised_holds (c : Chip) (a : Nat) (b : Nat) (e : Nat) (f : Nat) (g : Nat) (i : Nat) (hc : Holds memWf anyDue c) : Holds memWf anyDue (Chip.revised c a b e f g i) := by
  conv in (Chip.revised c a b e f g i) => (unfold Chip.revised; try dsimp only)
  repeat' (first | with_reducible assumption | with_reducible apply Chip.count_holds | with_reducible apply Chip.event_holds)
theorem Chip.scatterAll_holds (c : Chip) (a : Nat) (b : Pose) (e : List (Contrib × Pose)) (f : Grid) (hc : Holds memWf anyDue c) : Holds memWf anyDue (Chip.scatterAll c a b e f).2 := by
  induction e generalizing c a b f with
  | nil =>
    conv in Chip.scatterAll _ _ _ _ _ => (unfold Chip.scatterAll; try dsimp only)
    repeat' (first | with_reducible assumption | fail | with_reducible apply Chip.cflRead_holds | with_reducible apply Chip.count_holds)
  | cons x l ih =>
    conv in Chip.scatterAll _ _ _ _ _ => (unfold Chip.scatterAll; try dsimp only)
    repeat' (first | with_reducible assumption | with_reducible apply ih | with_reducible apply Chip.cflRead_holds | with_reducible apply Chip.count_holds)
theorem Chip.gridAgain_holds (c : Chip) (a : Nat) (b : Grid) (e : Contrib) (f : Pose) (g : Pose) (i : Nat) (hc : Holds memWf anyDue c) : Holds memWf anyDue (Chip.gridAgain c a b e f g i) := by
  conv in (Chip.gridAgain c a b e f g i) => (unfold Chip.gridAgain; try dsimp only)
  repeat' (first | with_reducible assumption | with_reducible apply Chip.publishGrid_holds | with_reducible apply Chip.revised_holds | with_reducible apply Chip.scatterAll_holds)
theorem Chip.takeInputs_holds (c : Chip) (a : List Contrib) (hc : Holds P Q c) : Holds P Q (Chip.takeInputs c a) := by
  conv in (Chip.takeInputs c a) => (unfold Chip.takeInputs; try dsimp only)
  repeat' (first | with_reducible assumption | (refine ⟨?_, ?_⟩ <;> (dsimp only; first | exact trivial | with_reducible apply Chip.Holds.mem (Q := Q) | with_reducible apply Chip.Holds.due (P := P))))
theorem Chip.gridCycle_holds (c : Chip) (a : Nat) (b : Grid) (e : Nat) (f : List Contrib) (g : List (Contrib × Pose)) (i : Pose) (hc : Holds memWf anyDue c) : Holds memWf anyDue (Chip.gridCycle c a b e f g i) := by
  conv in (Chip.gridCycle c a b e f g i) => (unfold Chip.gridCycle; try dsimp only)
  repeat' (first | with_reducible assumption | with_reducible apply Chip.publishGrid_holds | with_reducible apply Chip.scatterAll_holds | with_reducible apply Chip.takeInputs_holds)
theorem Chip.groupRuns_holds (c : Chip) (a : Nat) (hc : Holds P Q c) : Holds P Q (Chip.groupRuns c a) := by
  conv in (Chip.groupRuns c a) => (unfold Chip.groupRuns; try dsimp only)
  repeat' (first | with_reducible assumption | with_reducible apply Chip.count_holds | with_reducible apply Chip.setFld_holds | with_reducible apply Chip.setTileState_holds | with_reducible apply Chip.updPower_holds | with_reducible apply foldl_holds | split | with_reducible intro _)
theorem grpOppCapWrite_holds (a : Nat) (b : Nat) (e : Nat) (c : Chip) (hc : Holds P Q c) : Holds P Q (grpOppCapWrite a b e c) := by
  conv in (grpOppCapWrite a b e c) => (unfold grpOppCapWrite; try dsimp only)
  repeat' (first | with_reducible assumption | with_reducible apply Chip.setFld_holds | with_reducible refine ite_holds ?_ ?_)
theorem Chip.grpWrite_holds (c : Chip) (a : Nat) (b : Nat) (e : Nat) (f : Nat) (hc : Holds P Q c) : Holds P Q (Chip.grpWrite c a b e f) := by
  conv in (Chip.grpWrite c a b e f) => (unfold Chip.grpWrite; try dsimp only)
  repeat' (first | with_reducible assumption | with_reducible apply Chip.clearRegs_holds | with_reducible apply Chip.cntCtrlWrite_holds | with_reducible apply Chip.setFld_holds | with_reducible apply grpOppCapWrite_holds | with_reducible refine ite_holds ?_ ?_ | split)
theorem Chip.handPass_holds (c : Chip) (a : Pass) (hc : Holds P Q c) : Holds P Q (Chip.handPass c a) := by
  conv in (Chip.handPass c a) => (unfold Chip.handPass; try dsimp only)
  repeat' (first | with_reducible assumption | with_reducible apply Chip.ask_holds | with_reducible apply Chip.keepRunning_holds | with_reducible apply Chip.updPacket_holds | (refine ⟨?_, ?_⟩ <;> (dsimp only; first | exact trivial | with_reducible apply Chip.Holds.mem (Q := Q) | with_reducible apply Chip.Holds.due (P := P))))
theorem Chip.heard_holds (c : Chip) (a : Nat) (b : Option PtpMaster) (hc : Holds P Q c) : Holds P Q (Chip.heard c a b) := by
  conv in (Chip.heard c a b) => (unfold Chip.heard; try dsimp only)
  repeat' (first | with_reducible assumption | with_reducible apply Chip.updNet_holds)
theorem Chip.setTwin_holds (c : Chip) (a : Nat) (hc : Holds P Q c) : Holds P Q (Chip.setTwin c a) := by
  conv in (Chip.setTwin c a) => (unfold Chip.setTwin; try dsimp only)
  repeat' (first | with_reducible assumption | with_reducible apply Chip.setFld_holds)
theorem Chip.sayHello_holds (c : Chip) (hc : Holds P Q c) : Holds P Q (Chip.sayHello c) := by
  conv in (Chip.sayHello c) => (unfold Chip.sayHello; try dsimp only)
  repeat' (first | with_reducible assumption | with_reducible apply Chip.drawBytes_holds | with_reducible apply Chip.setTwin_holds | with_reducible apply Chip.twinSend_holds | with_reducible apply Chip.updLink_holds)
theorem Chip.heardHello_holds (c : Chip) (a : Nat) (b : Nat) (e : List Byte) (hc : Holds P Q c) : Holds P Q (Chip.heardHello c a b e) := by
  conv in (Chip.heardHello c a b e) => (unfold Chip.heardHello; try dsimp only)
  repeat' (first | with_reducible assumption | with_reducible apply Chip.sayHello_holds | with_reducible apply Chip.updLink_holds | with_reducible refine ite_holds ?_ ?_)
theorem Chip.holdIsland_holds (c : Chip) (hc : Holds P Q c) : Holds P Q (Chip.holdIsland c) := by
  conv in (Chip.holdIsland c) => (unfold Chip.holdIsland; try dsimp only)
  repeat' (first | with_reducible assumption | with_reducible apply Chip.setFld_holds | with_reducible apply Chip.setSafeN_holds | with_reducible apply foldl_holds | with_reducible intro _)
theorem Chip.holdPacket_holds (c : Chip) (a : Slice) (b : Nat) (e : Nat) (f : List Byte) (hc : Holds P Q c) : Holds P Q (Chip.holdPacket c a b e f) := by
  conv in (Chip.holdPacket c a b e f) => (unfold Chip.holdPacket; try dsimp only)
  repeat' (first | with_reducible assumption | with_reducible apply Chip.stampReady_holds | (refine ⟨?_, ?_⟩ <;> (dsimp only; first | exact trivial | with_reducible apply Chip.Holds.mem (Q := Q) | with_reducible apply Chip.Holds.due (P := P))))
theorem Chip.hostDeliver_holds (c : Chip) (a : Nat) (b : EthFrame) (hc : Holds memWf anyDue c) : Holds memWf anyDue (Chip.hostDeliver c a b) := by
  conv in (Chip.hostDeliver c a b) => (unfold Chip.hostDeliver; try dsimp only)
  repeat' (first | with_reducible assumption | with_reducible apply Chip.descDone_holds | with_reducible apply Chip.loadRange_holds | with_reducible apply Chip.netDrop_holds | with_reducible apply Chip.netRecord_holds | with_reducible apply Chip.saveRange_holds | with_reducible refine ite_holds ?_ ?_)
theorem Chip.hostUp_holds (c : Chip) (a : Nat) (hc : Holds P Q c) : Holds P Q (Chip.hostUp c a) := by
  conv in (Chip.hostUp c a) => (unfold Chip.hostUp; try dsimp only)
  repeat' (first | with_reducible assumption | with_reducible apply Chip.draw_holds | with_reducible apply Chip.setFld_holds | with_reducible refine ite_holds ?_ ?_)
theorem Chip.injectHead_holds (c : Chip) (a : Nat) (b : FuseStream) (hc : Holds memWf anyDue c) : Holds memWf anyDue (Chip.injectHead c a b).2 := by
  conv in (Chip.injectHead c a b) => (unfold Chip.injectHead; try dsimp only)
  repeat' (first | with_reducible assumption | with_reducible apply Chip.cflRead_holds | with_reducible apply Chip.updStream_holds)
theorem Chip.injectPublish_holds (c : Chip) (a : Nat) (b : FuseStream) (e : List Byte) (f : Bool) (hc : Holds memWf anyDue c) : Holds memWf anyDue (Chip.injectPublish c a b e f) := by
  conv in (Chip.injectPublish c a b e f) => (unfold Chip.injectPublish; try dsimp only)
  repeat' (first | with_reducible assumption | with_reducible apply Chip.count_holds | with_reducible apply Chip.event_holds | with_reducible apply Chip.publishL0_holds | with_reducible refine ite_holds ?_ ?_)
theorem Chip.issued_holds (c : Chip) (a : Nat) (b : TileIns) (hc : Holds P Q c) : Holds P Q (Chip.issued c a b) := by
  conv in (Chip.issued c a b) => (unfold Chip.issued; try dsimp only)
  repeat' (first | with_reducible assumption | with_reducible apply Chip.consume_holds | with_reducible apply Chip.releaseTag_holds | with_reducible apply Chip.tileCount_holds | with_reducible apply Chip.updTile_holds | with_reducible apply foldl_holds | with_reducible refine ite_holds ?_ ?_ | split | with_reducible intro _)
theorem Chip.pop_holds (c : Chip) (a : Nat) (b : Nat) (e : List TileIns) (hc : Holds P Q c) : Holds P Q (Chip.pop c a b e) := by
  conv in (Chip.pop c a b e) => (unfold Chip.pop; try dsimp only)
  repeat' (first | with_reducible assumption | with_reducible apply Chip.setTile_holds)
theorem Chip.issueHead_holds (c : Chip) (a : Nat) (b : Nat) (e : Nat) (f : TileIns → Delivered → TileM Unit) (hc : Holds memWf anyDue c) (hf : ∀ (z0 : TileIns) (z1 : Delivered), TileM.Keeps memWf anyDue (f z0 z1)) : Holds memWf anyDue (Chip.issueHead c a b e f) := by
  conv in (Chip.issueHead c a b e f) => (unfold Chip.issueHead; try dsimp only)
  repeat' (first | with_reducible assumption | with_reducible apply hf | with_reducible apply Chip.advance_holds | with_reducible apply Chip.issued_holds | with_reducible apply Chip.pop_holds | with_reducible apply Chip.rillFault_holds | with_reducible apply Chip.tileFault_holds | with_reducible apply TileM.Keeps.run | with_reducible refine of_snd (by assumption) ?_ | with_reducible refine ite_holds ?_ ?_ | split)
theorem Chip.issueReq_holds (c : Chip) (a : Nat) (b : Nat) (e : Nat) (f : Req) (g : Option (Deny × Nat)) (hc : Holds memWf anyDue c) : Holds memWf anyDue (Chip.issueReq c a b e f g) := by
  conv in (Chip.issueReq c a b e f g) => (unfold Chip.issueReq; try dsimp only)
  repeat' (first | with_reducible assumption | with_reducible apply Chip.channelChanged_holds | with_reducible apply Chip.rillRefused_holds | with_reducible apply Chip.showRill_holds | with_reducible apply Chip.updRill_holds | split)
theorem Chip.issueRill_holds (c : Chip) (a : Nat) (b : Nat) (e : Nat) (hc : Holds memWf anyDue c) : Holds memWf anyDue (Chip.issueRill c a b e) := by
  conv in (Chip.issueRill c a b e) => (unfold Chip.issueRill; try dsimp only)
  repeat' (first | with_reducible assumption | with_reducible apply Chip.issueReq_holds | split)
theorem Chip.issueTurn_holds (c : Chip) (a : Nat) (b : Nat) (e : Nat) (hc : Holds memWf anyDue c) : Holds memWf anyDue (Chip.issueTurn c a b e) := by
  conv in (Chip.issueTurn c a b e) => (unfold Chip.issueTurn; try dsimp only)
  repeat' (first | with_reducible assumption | with_reducible apply Chip.issueRill_holds | with_reducible apply foldl_holds | split | with_reducible intro _)
theorem Chip.judgePath_holds (c : Chip) (a : Nat) (b : Nat) (e : Bool) (f : Bool) (g : Bool) (hc : Holds memWf anyDue c) : Holds memWf anyDue (Chip.judgePath c a b e f g).2.2 := by
  conv in (Chip.judgePath c a b e f g) => (unfold Chip.judgePath; try dsimp only)
  repeat' (first | with_reducible assumption | with_reducible apply Chip.event_holds | with_reducible refine ite_snd2 ?_ ?_)
theorem Chip.takeover_holds (c : Chip) (hc : Holds memWf anyDue c) : Holds memWf anyDue (Chip.takeover c) := by
  conv in (Chip.takeover c) => (unfold Chip.takeover; try dsimp only)
  repeat' (first | with_reducible assumption | with_reducible apply Chip.event_holds | with_reducible apply Chip.safeMessage_holds | with_reducible apply Chip.setOutput_holds | with_reducible apply foldl_holds | with_reducible intro _)
theorem Chip.partnerLost_holds (c : Chip) (a : Nat) (hc : Holds memWf anyDue c) : Holds memWf anyDue (Chip.partnerLost c a) := by
  conv in (Chip.partnerLost c a) => (unfold Chip.partnerLost; try dsimp only)
  repeat' (first | with_reducible assumption | with_reducible apply Chip.count_holds | with_reducible apply Chip.event_holds | with_reducible apply Chip.setFld_holds | with_reducible apply Chip.setTwin_holds | with_reducible apply Chip.takeover_holds | with_reducible apply Chip.updLink_holds)
theorem Chip.judgeWindow_holds (c : Chip) (hc : Holds memWf anyDue c) : Holds memWf anyDue (Chip.judgeWindow c) := by
  conv in (Chip.judgeWindow c) => (unfold Chip.judgeWindow; try dsimp only)
  repeat' (first | with_reducible assumption | with_reducible apply Chip.count_holds | with_reducible apply Chip.judgePath_holds | with_reducible apply Chip.partnerLost_holds | with_reducible apply Chip.setFld_holds | with_reducible apply Chip.updLink_holds | with_reducible refine ite_holds ?_ ?_)
theorem Chip.keepSave_holds (c : Chip) (a : Chan) (b : Nat) (e : List Byte) (f : List Byte) (hc : Holds P Q c) : Holds P Q (Chip.keepSave c a b e f) := by
  conv in (Chip.keepSave c a b e f) => (unfold Chip.keepSave; try dsimp only)
  repeat' (first | with_reducible assumption | (refine ⟨?_, ?_⟩ <;> (dsimp only; first | exact trivial | with_reducible apply Chip.Holds.mem (Q := Q) | with_reducible apply Chip.Holds.due (P := P))))
theorem Chip.lateTaken_holds (c : Chip) (a : Contrib) (hc : Holds P Q c) : Holds P Q (Chip.lateTaken c a) := by
  conv in (Chip.lateTaken c a) => (unfold Chip.lateTaken; try dsimp only)
  repeat' (first | with_reducible assumption | (refine ⟨?_, ?_⟩ <;> (dsimp only; first | exact trivial | with_reducible apply Chip.Holds.mem (Q := Q) | with_reducible apply Chip.Holds.due (P := P))))
theorem Chip.leave_holds (c : Chip) (a : Packet) (hc : Holds memWf anyDue c) : Holds memWf anyDue (Chip.leave c a) := by
  conv in (Chip.leave c a) => (unfold Chip.leave; try dsimp only)
  repeat' (first | with_reducible assumption | with_reducible apply Chip.keepRunning_holds | with_reducible apply Chip.leaveOn_holds | with_reducible apply Chip.updPower_holds)
theorem Chip.liftThrottle_holds (c : Chip) (hc : Holds memWf anyDue c) : Holds memWf anyDue (Chip.liftThrottle c) := by
  conv in (Chip.liftThrottle c) => (unfold Chip.liftThrottle; try dsimp only)
  repeat' (first | with_reducible assumption | with_reducible apply Chip.draw_holds | with_reducible apply Chip.event_holds | with_reducible apply Chip.setFld_holds)
theorem Chip.listHeads_holds (c : Chip) (a : Nat) (b : List Nat) (hc : Holds memWf anyDue c) : Holds memWf anyDue (Chip.listHeads c a b).2 := by
  induction b generalizing c a with
  | nil =>
    conv in Chip.listHeads _ _ _ => (unfold Chip.listHeads; try dsimp only)
    repeat' (first | with_reducible assumption | fail | with_reducible apply Chip.loadRange_holds | with_reducible refine of_snd (by assumption) ?_ | with_reducible refine of_snd2 (by assumption) ?_ | with_reducible refine ite_snd ?_ ?_ | (with_reducible refine has_snd rfl ?_; first | with_reducible assumption | fail | with_reducible apply Chip.loadRange_holds | with_reducible refine of_snd (by assumption) ?_ | with_reducible refine of_snd2 (by assumption) ?_ | with_reducible refine ite_snd ?_ ?_) | split)
  | cons x l ih =>
    conv in Chip.listHeads _ _ _ => (unfold Chip.listHeads; try dsimp only)
    repeat' (first | with_reducible assumption | with_reducible apply ih | with_reducible apply Chip.loadRange_holds | with_reducible refine of_snd (by assumption) ?_ | with_reducible refine of_snd2 (by assumption) ?_ | with_reducible refine ite_snd ?_ ?_ | (with_reducible refine has_snd rfl ?_; first | with_reducible assumption | with_reducible apply ih | with_reducible apply Chip.loadRange_holds | with_reducible refine of_snd (by assumption) ?_ | with_reducible refine of_snd2 (by assumption) ?_ | with_reducible refine ite_snd ?_ ?_) | split)
theorem carryEnd_holds (a : Nat) (c : Chip) (hc : Holds P Q c) : Holds P Q (carryEnd a c) := by
  conv in (carryEnd a c) => (unfold carryEnd; try dsimp only)
  repeat' (first | with_reducible assumption | with_reducible apply Chip.setFld_holds | with_reducible refine ite_holds ?_ ?_)
theorem detach_holds (a : Nat) (c : Chip) (hc : Holds P Q c) : Holds P Q (detach a c) := by
  conv in (detach a c) => (unfold detach; try dsimp only)
  repeat' (first | with_reducible assumption | with_reducible apply Chip.setFld_holds | with_reducible apply Chip.twinSend_holds | with_reducible apply Chip.updLink_holds | with_reducible refine ite_holds ?_ ?_)
theorem Chip.lnkWrite_holds (c : Chip) (a : RegSpec) (b : Nat) (e : Nat) (f : Nat) (hc : Holds P Q c) : Holds P Q (Chip.lnkWrite c a b e f) := by
  conv in (Chip.lnkWrite c a b e f) => (unfold Chip.lnkWrite; try dsimp only)
  repeat' (first | with_reducible assumption | with_reducible apply Chip.ckptArm_holds | with_reducible apply Chip.ckptDisarm_holds | with_reducible apply Chip.plainWrite_holds | with_reducible apply Chip.setFld_holds | with_reducible apply carryEnd_holds | with_reducible apply detach_holds | with_reducible refine ite_holds ?_ ?_)
theorem Chip.loadSwitch_holds (c : Chip) (a : List Byte) (hc : Holds P Q c) : Holds P Q (Chip.loadSwitch c a) := by
  conv in (Chip.loadSwitch c a) => (unfold Chip.loadSwitch; try dsimp only)
  repeat' (first | with_reducible assumption | with_reducible apply Chip.setReg_holds | with_reducible apply Chip.updNet_holds | with_reducible apply foldl_holds | split | with_reducible intro _)
theorem Chip.lockstepLost_holds (c : Chip) (hc : Holds memWf anyDue c) : Holds memWf anyDue (Chip.lockstepLost c) := by
  conv in (Chip.lockstepLost c) => (unfold Chip.lockstepLost; try dsimp only)
  repeat' (first | with_reducible assumption | with_reducible apply Chip.count_holds | with_reducible apply Chip.enterSafeMask_holds | with_reducible apply Chip.errorOpen_holds | with_reducible apply Chip.event_holds | with_reducible apply Chip.setFld_holds | with_reducible apply Chip.setReg_holds | with_reducible apply Chip.setSafeN_holds | with_reducible apply foldl_holds | with_reducible intro _)
theorem Chip.longWaits_holds (c : Chip) (a : Nat) (b : List Asks) (hc : Holds memWf anyDue c) : Holds memWf anyDue (Chip.longWaits c a b) := by
  conv in (Chip.longWaits c a b) => (unfold Chip.longWaits; try dsimp only)
  repeat' (first | with_reducible assumption | with_reducible apply Chip.error_holds | with_reducible apply Chip.setArb_holds | with_reducible apply foldl_holds | split | with_reducible intro _)
theorem Chip.markValid_holds (c : Chip) (a : Nat) (b : Nat) (hc : Holds P Q c) : Holds P Q (Chip.markValid c a b) := by
  conv in (Chip.markValid c a b) => (unfold Chip.markValid; try dsimp only)
  repeat' (first | with_reducible assumption | with_reducible refine ite_holds ?_ ?_ | (refine ⟨?_, ?_⟩ <;> (dsimp only; first | exact trivial | with_reducible apply Chip.Holds.mem (Q := Q) | with_reducible apply Chip.Holds.due (P := P))))
theorem Chip.throttle_holds (c : Chip) (a : Nat) (hc : Holds memWf anyDue c) : Holds memWf anyDue (Chip.throttle c a) := by
  conv in (Chip.throttle c a) => (unfold Chip.throttle; try dsimp only)
  repeat' (first | with_reducible assumption | with_reducible apply Chip.count_holds | with_reducible apply Chip.error_holds | with_reducible apply Chip.event_holds | with_reducible apply Chip.setFld_holds | with_reducible apply foldl_holds | split | with_reducible intro _)
theorem Chip.mayThrottle_holds (c : Chip) (hc : Holds memWf anyDue c) : Holds memWf anyDue (Chip.mayThrottle c) := by
  conv in (Chip.mayThrottle c) => (unfold Chip.mayThrottle; try dsimp only)
  repeat' (first | with_reducible assumption | with_reducible apply Chip.throttle_holds | with_reducible refine ite_holds ?_ ?_ | split)
theorem Chip.mbxBusy_holds (c : Chip) (a : Nat) (hc : Holds P Q c) : Holds P Q (Chip.mbxBusy c a) := by
  conv in (Chip.mbxBusy c a) => (unfold Chip.mbxBusy; try dsimp only)
  repeat' (first | with_reducible assumption | with_reducible apply Chip.setFld_holds | with_reducible apply Chip.updFw_holds)
theorem Chip.runFormed_holds (c : Chip) (a : Packet) (b : Nat → Chip → Chip) (hc : Holds memWf anyDue c) (hb : ∀ (z0 : Nat) (z1 : Chip), Holds memWf anyDue z1 → Holds memWf anyDue (b z0 z1)) : Holds memWf anyDue (Chip.runFormed c a b) := by
  conv in (Chip.runFormed c a b) => (unfold Chip.runFormed; try dsimp only)
  repeat' (first | with_reducible assumption | with_reducible apply hb | with_reducible apply Chip.complete_holds | with_reducible apply Chip.dropPending_holds | with_reducible apply Chip.finish_holds | split)
theorem Chip.mbxPacket_holds (c : Chip) (a : Nat) (b : Nat) (e : Nat) (f : List Byte) (g : Nat → Chip → Chip) (hc : Holds memWf anyDue c) (hg : ∀ (z0 : Nat) (z1 : Chip), Holds memWf anyDue z1 → Holds memWf anyDue (g z0 z1)) : Holds memWf anyDue (Chip.mbxPacket c a b e f g) := by
  conv in (Chip.mbxPacket c a b e f g) => (unfold Chip.mbxPacket; try dsimp only)
  repeat' (first | with_reducible assumption | with_reducible apply Chip.formPacket_holds | with_reducible apply Chip.runFormed_holds)
theorem Chip.mbxRead_holds (c : Chip) (a : Nat) (hc : Holds memWf anyDue c) : Holds memWf anyDue (Chip.mbxRead c a).2.2 := by
  conv in (Chip.mbxRead c a) => (unfold Chip.mbxRead; try dsimp only)
  repeat' (first | with_reducible assumption | with_reducible apply Chip.loadRange_holds)
theorem Chip.setWithin_holds (c : Chip) (a : Reg) (b : Fld) (e : Nat) (f : Nat) (g : Nat) (hc : Holds P Q c) : Holds P Q (Chip.setWithin c a b e f g) := by
  conv in (Chip.setWithin c a b e f g) => (unfold Chip.setWithin; try dsimp only)
  repeat' (first | with_reducible assumption | with_reducible apply Chip.setFld_holds | with_reducible refine ite_holds ?_ ?_)
theorem Chip.showArb_holds (c : Chip) (hc : Holds P Q c) : Holds P Q (Chip.showArb c) := by
  conv in (Chip.showArb c) => (unfold Chip.showArb; try dsimp only)
  repeat' (first | with_reducible assumption | with_reducible apply Chip.setReg_holds)
theorem eccRegionWrite_holds (a : Nat) (b : Nat) (e : Bool) (f : W64) (c : Chip) (hc : Holds memWf anyDue c) : Holds memWf anyDue (eccRegionWrite a b e f c) := by
  conv in (eccRegionWrite a b e f c) => (unfold eccRegionWrite; try dsimp only)
  repeat' (first | with_reducible assumption | with_reducible apply Chip.eccService_holds | with_reducible refine ite_holds ?_ ?_ | (refine ⟨?_, ?_⟩ <;> (dsimp only; first | exact trivial | with_reducible apply Chip.Holds.mem (Q := anyDue) | with_reducible apply Chip.Holds.due (P := memWf))))
theorem Chip.memWriteReg_holds (c : Chip) (a : RegSpec) (b : Nat) (e : Nat) (f : Nat) (hc : Holds memWf anyDue c) : Holds memWf anyDue (Chip.memWriteReg c a b e f) := by
  conv in (Chip.memWriteReg c a b e f) => (unfold Chip.memWriteReg; try dsimp only)
  repeat' (first | with_reducible assumption | with_reducible apply Chip.plainWrite_holds | with_reducible apply Chip.setWithin_holds | with_reducible apply Chip.showArb_holds | with_reducible apply eccRegionWrite_holds | with_reducible refine ite_holds ?_ ?_ | split)
theorem Chip.unqueue_holds (c : Chip) (a : DramReq) (hc : Holds P Q c) : Holds P Q (Chip.unqueue c a) := by
  conv in (Chip.unqueue c a) => (unfold Chip.unqueue; try dsimp only)
  repeat' (first | with_reducible assumption | with_reducible apply Chip.channelChanged_holds | (refine ⟨?_, ?_⟩ <;> (dsimp only; first | exact trivial | with_reducible apply Chip.Holds.mem (Q := Q) | with_reducible apply Chip.Holds.due (P := P))))
theorem Chip.mergeReads_holds (c : Chip) (a : DramReq) (hc : Holds memWf anyDue c) : Holds memWf anyDue (Chip.mergeReads c a) := by
  conv in (Chip.mergeReads c a) => (unfold Chip.mergeReads; try dsimp only)
  repeat' (first | with_reducible assumption | with_reducible apply Chip.answer_holds | with_reducible apply Chip.count_holds | with_reducible apply Chip.unqueue_holds | with_reducible apply foldl_holds | split | with_reducible intro _)
theorem Chip.mergeWrites_holds (c : Chip) (a : DramReq) (hc : Holds memWf anyDue c) : Holds memWf anyDue (Chip.mergeWrites c a) := by
  conv in (Chip.mergeWrites c a) => (unfold Chip.mergeWrites; try dsimp only)
  repeat' (first | with_reducible assumption | with_reducible apply Chip.answer_holds | with_reducible apply Chip.count_holds | with_reducible apply Chip.logRange_holds | with_reducible apply Chip.store_holds | with_reducible apply Chip.unqueue_holds | with_reducible apply foldl_holds | split | with_reducible intro _)
theorem Chip.missed_holds (c : Chip) (a : Nat) (b : Output) (hc : Holds memWf anyDue c) : Holds memWf anyDue (Chip.missed c a b) := by
  conv in (Chip.missed c a b) => (unfold Chip.missed; try dsimp only)
  repeat' (first | with_reducible assumption | with_reducible apply Chip.count_holds | with_reducible apply Chip.enterSafe_holds | with_reducible apply Chip.publishOutput_holds | with_reducible apply Chip.safeEvent_holds | with_reducible apply Chip.setOutput_holds | split)
theorem Chip.mrcWrite_holds (c : Chip) (a : RegSpec) (b : Nat) (e : Nat) (hc : Holds P Q c) : Holds P Q (Chip.mrcWrite c a b e) := by
  conv in (Chip.mrcWrite c a b e) => (unfold Chip.mrcWrite; try dsimp only)
  repeat' (first | with_reducible assumption | with_reducible apply Chip.clearRegs_holds | with_reducible apply Chip.plainWrite_holds | with_reducible apply Chip.setFld_holds | with_reducible apply Chip.setWithin_holds | with_reducible refine ite_holds ?_ ?_ | split)

end Sys2Proof.Machine
end

