-- ==== Sys2Proof/Laws/Kept3.lean ====
section
/-!
SUPPORT. What every operation of the part keeps, 3 of 4: one that stores nothing keeps any property `P` of the memory and
any `Q` of the mark of a lost safety record; one that may store keeps the canonical form of the memory.  Each is proved from
those of the operations it calls.
-/

namespace Sys2Proof.Machine

open Chip (Holds)

variable {P : Memory → Prop} {Q : Bool → Prop}

theorem Chip.msixSend_holds (c : Chip) (a : Nat) (b : Nat) (hc : Holds P Q c) : Holds P Q (Chip.msixSend c a b) := by
  conv in (Chip.msixSend c a b) => (unfold Chip.msixSend; try dsimp only)
  repeat' (first | with_reducible assumption | with_reducible apply Chip.send_holds)
theorem Chip.msiRaise_holds (c : Chip) (a : Nat) (b : Nat) (hc : Holds P Q c) : Holds P Q (Chip.msiRaise c a b) := by
  conv in (Chip.msiRaise c a b) => (unfold Chip.msiRaise; try dsimp only)
  repeat' (first | with_reducible assumption | with_reducible apply Chip.msixSend_holds | with_reducible apply Chip.updLink_holds | with_reducible refine ite_holds ?_ ?_)
theorem Chip.msixWrite_holds (c : Chip) (a : Nat) (b : Nat) (e : List Byte) (hc : Holds P Q c) : Holds P Q (Chip.msixWrite c a b e) := by
  conv in (Chip.msixWrite c a b e) => (unfold Chip.msixWrite; try dsimp only)
  repeat' (first | with_reducible assumption | with_reducible apply Chip.msixSend_holds | with_reducible apply Chip.updLink_holds | with_reducible apply foldl_holds | with_reducible refine ite_holds ?_ ?_ | split | with_reducible intro _)
theorem Chip.takeTx_holds (a : Nat) (b : Nat) (c : Chip) (hc : Holds memWf anyDue c) : Holds memWf anyDue (Chip.takeTx a b c) := by
  induction b generalizing a c with
  | zero =>
    conv in Chip.takeTx _ _ _ => (unfold Chip.takeTx; try dsimp only)
    repeat' (first | with_reducible assumption | fail | with_reducible apply Chip.forward_holds | with_reducible apply Chip.loadRange_holds | with_reducible apply Chip.txDone_holds | with_reducible apply Chip.updNet_holds | with_reducible refine ite_holds ?_ ?_ | with_reducible refine ite_snd2 ?_ ?_)
  | succ k ih =>
    conv in Chip.takeTx _ _ _ => (unfold Chip.takeTx; try dsimp only)
    repeat' (first | with_reducible assumption | with_reducible apply ih | with_reducible apply Chip.forward_holds | with_reducible apply Chip.loadRange_holds | with_reducible apply Chip.txDone_holds | with_reducible apply Chip.updNet_holds | with_reducible refine ite_holds ?_ ?_ | with_reducible refine ite_snd2 ?_ ?_)
theorem netDmaTail_holds (a : Nat) (b : Nat) (e : Nat) (c : Chip) (hc : Holds memWf anyDue c) : Holds memWf anyDue (netDmaTail a b e c) := by
  conv in (netDmaTail a b e c) => (unfold netDmaTail; try dsimp only)
  repeat' (first | with_reducible assumption | with_reducible apply Chip.setReg_holds | with_reducible apply Chip.takeTx_holds | with_reducible refine ite_holds ?_ ?_)
theorem Chip.netWrite_holds (c : Chip) (a : RegSpec) (b : Nat) (e : Nat) (f : Nat) (hc : Holds memWf anyDue c) : Holds memWf anyDue (Chip.netWrite c a b e f) := by
  conv in (Chip.netWrite c a b e f) => (unfold Chip.netWrite; try dsimp only)
  repeat' (first | with_reducible assumption | with_reducible apply Chip.plainWrite_holds | with_reducible apply netDmaTail_holds | with_reducible refine ite_holds ?_ ?_)
theorem Chip.nextSyncSeq_holds (c : Chip) (a : Nat) (hc : Holds P Q c) : Holds P Q (Chip.nextSyncSeq c a).2 := by
  conv in (Chip.nextSyncSeq c a) => (unfold Chip.nextSyncSeq; try dsimp only)
  repeat' (first | with_reducible assumption | with_reducible apply Chip.updNet_holds)
theorem Chip.noPower_holds (c : Chip) (a : Bool) (hc : Holds memWf anyDue c) : Holds memWf anyDue (Chip.noPower c a) := by
  conv in (Chip.noPower c a) => (unfold Chip.noPower; try dsimp only)
  repeat' (first | with_reducible assumption | with_reducible apply Chip.resetDomains_holds | (refine ⟨?_, ?_⟩ <;> (dsimp only; first | exact trivial | with_reducible apply Chip.Holds.mem (Q := anyDue) | with_reducible apply Chip.Holds.due (P := memWf))))
theorem Chip.noteFailure_holds (c : Chip) (a : Nat) (hc : Holds P Q c) : Holds P Q (Chip.noteFailure c a) := by
  conv in (Chip.noteFailure c a) => (unfold Chip.noteFailure; try dsimp only)
  repeat' (first | with_reducible assumption | with_reducible apply Chip.setFld_holds | with_reducible apply Chip.updPower_holds)
theorem Chip.nowDetached_holds (c : Chip) (hc : Holds P Q c) : Holds P Q (Chip.nowDetached c) := by
  conv in (Chip.nowDetached c) => (unfold Chip.nowDetached; try dsimp only)
  repeat' (first | with_reducible assumption | with_reducible apply Chip.setSafeN_holds | with_reducible apply Chip.setTwin_holds | with_reducible apply Chip.updLink_holds | with_reducible apply foldl_holds | with_reducible intro _)
theorem Chip.onGolden_holds (c : Chip) (a : Nat) (b : Nat) (e : Packet → Chip → Chip) (hc : Holds P Q c) (he : ∀ (z0 : Packet) (z1 : Chip), Holds P Q z1 → Holds P Q (e z0 z1)) : Holds P Q (Chip.onGolden c a b e) := by
  conv in (Chip.onGolden c a b e) => (unfold Chip.onGolden; try dsimp only)
  repeat' (first | with_reducible assumption | with_reducible apply he | with_reducible apply Chip.finish_holds | with_reducible apply Chip.onPacket_holds | split | with_reducible intro _)
theorem Chip.onHint_holds (c : Chip) (a : Nat) (b : Nat) (e : Packet → Chip → Chip) (hc : Holds P Q c) (he : ∀ (z0 : Packet) (z1 : Chip), Holds P Q z1 → Holds P Q (e z0 z1)) : Holds P Q (Chip.onHint c a b e) := by
  conv in (Chip.onHint c a b e) => (unfold Chip.onHint; try dsimp only)
  repeat' (first | with_reducible assumption | with_reducible apply he | with_reducible apply Chip.finish_holds | with_reducible apply Chip.onPacket_holds | split | with_reducible intro _)
theorem Chip.onPolicy_holds (c : Chip) (a : Nat) (b : Nat) (e : Bool) (f : Packet → Chip → Chip) (hc : Holds P Q c) (hf : ∀ (z0 : Packet) (z1 : Chip), Holds P Q z1 → Holds P Q (f z0 z1)) : Holds P Q (Chip.onPolicy c a b e f) := by
  conv in (Chip.onPolicy c a b e f) => (unfold Chip.onPolicy; try dsimp only)
  repeat' (first | with_reducible assumption | with_reducible apply hf | with_reducible apply Chip.finish_holds | with_reducible apply Chip.onPacket_holds | split | with_reducible intro _)
theorem Chip.onSafeOp_holds (c : Chip) (a : Nat) (b : Nat) (e : Packet → Chip → Chip) (hc : Holds P Q c) (he : ∀ (z0 : Packet) (z1 : Chip), Holds P Q z1 → Holds P Q (e z0 z1)) : Holds P Q (Chip.onSafeOp c a b e) := by
  conv in (Chip.onSafeOp c a b e) => (unfold Chip.onSafeOp; try dsimp only)
  repeat' (first | with_reducible assumption | with_reducible apply he | with_reducible apply Chip.finish_holds | with_reducible apply Chip.onPacket_holds | split | with_reducible intro _)
theorem Chip.onSelftest_holds (c : Chip) (a : Nat) (b : Nat) (e : Packet → Chip → Chip) (hc : Holds P Q c) (he : ∀ (z0 : Packet) (z1 : Chip), Holds P Q z1 → Holds P Q (e z0 z1)) : Holds P Q (Chip.onSelftest c a b e) := by
  conv in (Chip.onSelftest c a b e) => (unfold Chip.onSelftest; try dsimp only)
  repeat' (first | with_reducible assumption | with_reducible apply he | with_reducible apply Chip.finish_holds | with_reducible apply Chip.onPacket_holds | split | with_reducible intro _)
theorem Chip.onSwitch_holds (c : Chip) (a : Nat) (b : Bool) (e : Packet → Chip → Chip) (hc : Holds P Q c) (he : ∀ (z0 : Packet) (z1 : Chip), Holds P Q z1 → Holds P Q (e z0 z1)) : Holds P Q (Chip.onSwitch c a b e) := by
  conv in (Chip.onSwitch c a b e) => (unfold Chip.onSwitch; try dsimp only)
  repeat' (first | with_reducible assumption | with_reducible apply he | with_reducible apply Chip.finish_holds | with_reducible apply Chip.onPacket_holds | split | with_reducible intro _)
theorem Chip.onTrace_holds (c : Chip) (a : Nat) (b : Nat) (e : Packet → Chip → Chip) (hc : Holds P Q c) (he : ∀ (z0 : Packet) (z1 : Chip), Holds P Q z1 → Holds P Q (e z0 z1)) : Holds P Q (Chip.onTrace c a b e) := by
  conv in (Chip.onTrace c a b e) => (unfold Chip.onTrace; try dsimp only)
  repeat' (first | with_reducible assumption | with_reducible apply he | with_reducible apply Chip.finish_holds | with_reducible apply Chip.onPacket_holds | split | with_reducible intro _)
theorem Chip.openStream_holds (c : Chip) (a : Packet) (hc : Holds P Q c) : Holds P Q (Chip.openStream c a) := by
  conv in (Chip.openStream c a) => (unfold Chip.openStream; try dsimp only)
  repeat' (first | with_reducible assumption | with_reducible apply Chip.setReg_holds | (refine ⟨?_, ?_⟩ <;> (dsimp only; first | exact trivial | with_reducible apply Chip.Holds.mem (Q := Q) | with_reducible apply Chip.Holds.due (P := P))))
theorem Chip.openSweep_holds (c : Chip) (a : Nat) (b : FuseStream) (e : Nat) (hc : Holds memWf anyDue c) : Holds memWf anyDue (Chip.openSweep c a b e) := by
  conv in (Chip.openSweep c a b e) => (unfold Chip.openSweep; try dsimp only)
  repeat' (first | with_reducible assumption | with_reducible apply Chip.beginFrame_holds | with_reducible apply Chip.beginFrom_holds | with_reducible apply Chip.boundary_holds | with_reducible apply Chip.endSweeps_holds | with_reducible refine ite_holds ?_ ?_)
theorem Chip.ownerCalled_holds (c : Chip) (a : Nat) (hc : Holds P Q c) : Holds P Q (Chip.ownerCalled c a) := by
  conv in (Chip.ownerCalled c a) => (unfold Chip.ownerCalled; try dsimp only)
  repeat' (first | with_reducible assumption | with_reducible apply Chip.count_holds)
theorem Chip.ownerFixed_holds (c : Chip) (a : Nat) (hc : Holds memWf anyDue c) : Holds memWf anyDue (Chip.ownerFixed c a) := by
  conv in (Chip.ownerFixed c a) => (unfold Chip.ownerFixed; try dsimp only)
  repeat' (first | with_reducible assumption | with_reducible apply Chip.giveOwners_holds | with_reducible apply Chip.setOwner_holds | with_reducible refine ite_holds ?_ ?_ | (refine ⟨?_, ?_⟩ <;> (dsimp only; first | exact trivial | with_reducible apply Chip.Holds.mem (Q := anyDue) | with_reducible apply Chip.Holds.due (P := memWf))))
theorem Chip.ownerLost_holds (c : Chip) (a : Nat) (hc : Holds memWf anyDue c) : Holds memWf anyDue (Chip.ownerLost c a) := by
  conv in (Chip.ownerLost c a) => (unfold Chip.ownerLost; try dsimp only)
  repeat' (first | with_reducible assumption | with_reducible apply Chip.count_holds | with_reducible apply Chip.error_holds | with_reducible apply Chip.setOwner_holds | with_reducible refine ite_holds ?_ ?_ | (refine ⟨?_, ?_⟩ <;> (dsimp only; first | exact trivial | with_reducible apply Chip.Holds.mem (Q := anyDue) | with_reducible apply Chip.Holds.due (P := memWf))))
theorem Chip.pairFault_holds (c : Chip) (a : Nat) (hc : Holds memWf anyDue c) : Holds memWf anyDue (Chip.pairFault c a) := by
  conv in (Chip.pairFault c a) => (unfold Chip.pairFault; try dsimp only)
  repeat' (first | with_reducible assumption | with_reducible apply Chip.event_holds | with_reducible apply Chip.linkRecord_holds | with_reducible apply Chip.setTwin_holds | with_reducible apply Chip.updLink_holds)
theorem Chip.pairUp_holds (c : Chip) (hc : Holds memWf anyDue c) : Holds memWf anyDue (Chip.pairUp c) := by
  conv in (Chip.pairUp c) => (unfold Chip.pairUp; try dsimp only)
  repeat' (first | with_reducible assumption | with_reducible apply Chip.event_holds | with_reducible apply Chip.setFld_holds | with_reducible apply Chip.setTwin_holds | with_reducible apply Chip.updLink_holds | with_reducible refine ite_holds ?_ ?_)
theorem Chip.parityLost_holds (c : Chip) (a : Req) (b : Nat) (hc : Holds memWf anyDue c) : Holds memWf anyDue (Chip.parityLost c a b) := by
  conv in (Chip.parityLost c a b) => (unfold Chip.parityLost; try dsimp only)
  repeat' (first | with_reducible assumption | with_reducible apply Chip.draw_holds | with_reducible apply Chip.error_holds | with_reducible apply Chip.failed_holds)
theorem Chip.passLists_holds (c : Chip) (a : Pass) (hc : Holds memWf anyDue c) : Holds memWf anyDue (Chip.passLists c a).2 := by
  conv in (Chip.passLists c a) => (unfold Chip.passLists; try dsimp only)
  repeat' (first | with_reducible assumption | with_reducible apply Chip.listHeads_holds | with_reducible apply Chip.loadRange_holds | with_reducible refine of_snd (by assumption) ?_ | with_reducible refine of_snd2 (by assumption) ?_ | with_reducible refine ite_snd ?_ ?_ | (with_reducible refine has_snd rfl ?_; first | with_reducible assumption | with_reducible apply Chip.listHeads_holds | with_reducible apply Chip.loadRange_holds | with_reducible refine of_snd (by assumption) ?_ | with_reducible refine of_snd2 (by assumption) ?_ | with_reducible refine ite_snd ?_ ?_) | split)
theorem Chip.piZone_holds (c : Chip) (a : Nat) (hc : Holds P Q c) : Holds P Q (Chip.piZone c a).1 := by
  conv in (Chip.piZone c a) => (unfold Chip.piZone; try dsimp only)
  repeat' (first | with_reducible assumption | with_reducible apply Chip.setFld_holds | with_reducible apply Chip.updPower_holds | (with_reducible refine has_fst rfl ?_; first | with_reducible assumption | with_reducible apply Chip.setFld_holds | with_reducible apply Chip.updPower_holds) | split)
theorem Chip.piZones_holds (c : Chip) (hc : Holds P Q c) : Holds P Q (Chip.piZones c).1 := by
  conv in (Chip.piZones c) => (unfold Chip.piZones; try dsimp only)
  repeat' (first | with_reducible assumption | with_reducible apply Chip.piZone_holds | with_reducible apply foldl_fst | with_reducible intro _)
theorem Chip.saveRead_holds (c : Chip) (a : Nat) (b : Nat) (e : Nat) (f : Nat) (hc : Holds memWf anyDue c) : Holds memWf anyDue (Chip.saveRead c a b e f).2.2 := by
  conv in (Chip.saveRead c a b e f) => (unfold Chip.saveRead; try dsimp only)
  repeat' (first | with_reducible assumption | with_reducible apply Chip.loadRange_holds)
theorem Chip.poolRead_holds (c : Chip) (a : Nat) (b : Nat) (e : Nat) (f : List Nat) (hc : Holds memWf anyDue c) : Holds memWf anyDue (Chip.poolRead c a b e f).2.2 := by
  induction f generalizing c a b e with
  | nil =>
    conv in Chip.poolRead _ _ _ _ _ => (unfold Chip.poolRead; try dsimp only)
    repeat' (first | with_reducible assumption | fail | with_reducible apply Chip.saveRead_holds | with_reducible refine ite_snd2 ?_ ?_)
  | cons x l ih =>
    conv in Chip.poolRead _ _ _ _ _ => (unfold Chip.poolRead; try dsimp only)
    repeat' (first | with_reducible assumption | with_reducible apply ih | with_reducible apply Chip.saveRead_holds | with_reducible refine ite_snd2 ?_ ?_)
theorem Chip.portDown_holds (c : Chip) (a : Nat) (hc : Holds P Q c) : Holds P Q (Chip.portDown c a) := by
  conv in (Chip.portDown c a) => (unfold Chip.portDown; try dsimp only)
  repeat' (first | with_reducible assumption | with_reducible apply Chip.setFld_holds | with_reducible apply Chip.setTwin_holds | with_reducible apply Chip.updLink_holds | with_reducible refine ite_holds ?_ ?_)
theorem Chip.stopRestore_holds (c : Chip) (a : Nat) (hc : Holds memWf anyDue c) : Holds memWf anyDue (Chip.stopRestore c a) := by
  conv in (Chip.stopRestore c a) => (unfold Chip.stopRestore; try dsimp only)
  repeat' (first | with_reducible assumption | with_reducible apply Chip.freeJob_holds | with_reducible apply Chip.giveBack_holds | with_reducible apply Chip.jobLeft_holds | with_reducible apply Chip.showJobs_holds | with_reducible apply Chip.updJob_holds | with_reducible apply foldl_holds | split | with_reducible intro _)
theorem Chip.preemptTarget_holds (c : Chip) (a : Option Job) (b : Nat) (e : Chip → Nat → Chip) (f : Chip → Nat → Chip) (hc : Holds memWf anyDue c) (he : ∀ (z0 : Chip) (z1 : Nat), Holds memWf anyDue z0 → Holds memWf anyDue (e z0 z1)) (hf : ∀ (z0 : Chip) (z1 : Nat), Holds memWf anyDue z0 → Holds memWf anyDue (f z0 z1)) : Holds memWf anyDue (Chip.preemptTarget c a b e f) := by
  conv in (Chip.preemptTarget c a b e f) => (unfold Chip.preemptTarget; try dsimp only)
  repeat' (first | with_reducible assumption | with_reducible apply he | with_reducible apply hf | with_reducible apply Chip.stopRestore_holds | with_reducible apply Chip.updJob_holds | with_reducible refine ite_holds ?_ ?_ | split)
theorem Chip.pressLow_holds (c : Chip) (a : Chan) (hc : Holds P Q c) : Holds P Q (Chip.pressLow c a) := by
  conv in (Chip.pressLow c a) => (unfold Chip.pressLow; try dsimp only)
  repeat' (first | with_reducible assumption | with_reducible apply Chip.updJob_holds | with_reducible apply foldl_holds | with_reducible intro _)
theorem Chip.ptpStart_holds (c : Chip) (hc : Holds memWf anyDue c) : Holds memWf anyDue (Chip.ptpStart c) := by
  conv in (Chip.ptpStart c) => (unfold Chip.ptpStart; try dsimp only)
  repeat' (first | with_reducible assumption | with_reducible apply Chip.chooseMaster_holds | with_reducible apply Chip.setFld_holds | with_reducible apply Chip.setQuality_holds | with_reducible apply Chip.setReg_holds | with_reducible apply Chip.updNet_holds | with_reducible apply foldl_holds | with_reducible refine ite_holds ?_ ?_ | with_reducible intro _)
theorem Chip.publishCut_holds (c : Chip) (a : Nat) (b : FuseStream) (e : FuseFrame) (hc : Holds memWf anyDue c) : Holds memWf anyDue (Chip.publishCut c a b e) := by
  conv in (Chip.publishCut c a b e) => (unfold Chip.publishCut; try dsimp only)
  repeat' (first | with_reducible assumption | with_reducible apply Chip.publishEnded_holds | with_reducible apply Chip.publishL0_holds | with_reducible apply Chip.updFrame_holds)
theorem Chip.publishSample_holds (c : Chip) (a : Nat) (b : FuseStream) (e : FuseFrame) (f : List Byte) (hc : Holds memWf anyDue c) : Holds memWf anyDue (Chip.publishSample c a b e f) := by
  conv in (Chip.publishSample c a b e f) => (unfold Chip.publishSample; try dsimp only)
  repeat' (first | with_reducible assumption | with_reducible apply Chip.boundary_holds | with_reducible apply Chip.contribute_holds | with_reducible apply Chip.forgetFrames_holds | with_reducible apply Chip.publishL0_holds | with_reducible apply Chip.updFrame_holds)
theorem Chip.publishWaiting_holds (c : Chip) (a : Nat) (hc : Holds memWf anyDue c) : Holds memWf anyDue (Chip.publishWaiting c a) := by
  conv in (Chip.publishWaiting c a) => (unfold Chip.publishWaiting; try dsimp only)
  repeat' (first | with_reducible assumption | with_reducible apply Chip.publishEnded_holds | with_reducible apply foldl_holds | split | with_reducible intro _)
theorem Chip.putStatus_holds (c : Chip) (hc : Holds memWf anyDue c) : Holds memWf anyDue (Chip.putStatus c) := by
  conv in (Chip.putStatus c) => (unfold Chip.putStatus; try dsimp only)
  repeat' (first | with_reducible assumption | with_reducible apply Chip.putRecord_holds | (refine ⟨?_, ?_⟩ <;> (dsimp only; first | exact trivial | with_reducible apply Chip.Holds.mem (Q := anyDue) | with_reducible apply Chip.Holds.due (P := memWf))))
theorem Chip.queueDram_holds (c : Chip) (a : Req) (b : Nat) (e : Nat) (f : List Byte) (hc : Holds P Q c) : Holds P Q (Chip.queueDram c a b e f) := by
  conv in (Chip.queueDram c a b e f) => (unfold Chip.queueDram; try dsimp only)
  repeat' (first | with_reducible assumption | with_reducible apply Chip.acceptDram_holds | with_reducible refine ite_holds ?_ ?_ | (refine ⟨?_, ?_⟩ <;> (dsimp only; first | exact trivial | with_reducible apply Chip.Holds.mem (Q := Q) | with_reducible apply Chip.Holds.due (P := P))))
theorem Chip.queueJob_holds (c : Chip) (a : Packet) (b : Job) (hc : Holds P Q c) : Holds P Q (Chip.queueJob c a b) := by
  conv in (Chip.queueJob c a b) => (unfold Chip.queueJob; try dsimp only)
  repeat' (first | with_reducible assumption | with_reducible apply Chip.keepRunning_holds | with_reducible apply Chip.showJobs_holds | (refine ⟨?_, ?_⟩ <;> (dsimp only; first | exact trivial | with_reducible apply Chip.Holds.mem (Q := Q) | with_reducible apply Chip.Holds.due (P := P))))
theorem Chip.queueTiles_holds (c : Chip) (a : Packet) (b : List Nat) (e : Bool) (hc : Holds P Q c) : Holds P Q (Chip.queueTiles c a b e) := by
  conv in (Chip.queueTiles c a b e) => (unfold Chip.queueTiles; try dsimp only)
  repeat' (first | with_reducible assumption | with_reducible apply Chip.keepRunning_holds | with_reducible apply Chip.pressTile_holds | with_reducible apply Chip.showQueued_holds | with_reducible apply Chip.updTest_holds | with_reducible apply foldl_holds)
theorem Chip.readThrough_holds (c : Chip) (a : Nat) (b : Nat) (e : List (Nat × Nat)) (hc : Holds memWf anyDue c) : Holds memWf anyDue (Chip.readThrough c a b e).2.2 := by
  induction e generalizing c a b with
  | nil =>
    conv in Chip.readThrough _ _ _ _ => (unfold Chip.readThrough; try dsimp only)
    repeat' (first | with_reducible assumption | fail | with_reducible apply Chip.load_holds)
  | cons x l ih =>
    conv in Chip.readThrough _ _ _ _ => (unfold Chip.readThrough; try dsimp only)
    repeat' (first | with_reducible assumption | with_reducible apply ih | with_reducible apply Chip.load_holds)
theorem Chip.readCopy_holds (c : Chip) (a : Model) (hc : Holds memWf anyDue c) : Holds memWf anyDue (Chip.readCopy c a).2.2 := by
  conv in (Chip.readCopy c a) => (unfold Chip.readCopy; try dsimp only)
  repeat' (first | with_reducible assumption | with_reducible apply Chip.readThrough_holds | with_reducible refine ite_snd2 ?_ ?_)
theorem Chip.readSlots_holds (c : Chip) (a : Nat) (b : Nat) (e : Nat) (f : Nat) (hc : Holds memWf anyDue c) : Holds memWf anyDue (Chip.readSlots c a b e f).2.2.2 := by
  induction e generalizing c a b f with
  | zero =>
    conv in Chip.readSlots _ _ _ _ _ => (unfold Chip.readSlots; try dsimp only)
    repeat' (first | with_reducible assumption | fail | with_reducible apply Chip.load_holds | with_reducible refine of_snd2 (by assumption) ?_ | (with_reducible refine has_snd3 rfl ?_; first | with_reducible assumption | fail | with_reducible apply Chip.load_holds | with_reducible refine of_snd2 (by assumption) ?_) | (with_reducible refine has_snd2 rfl ?_; first | with_reducible assumption | fail | with_reducible apply Chip.load_holds | with_reducible refine of_snd2 (by assumption) ?_) | (with_reducible refine has_snd rfl ?_; first | with_reducible assumption | fail | with_reducible apply Chip.load_holds | with_reducible refine of_snd2 (by assumption) ?_) | split)
  | succ k ih =>
    conv in Chip.readSlots _ _ _ _ _ => (unfold Chip.readSlots; try dsimp only)
    repeat' (first | with_reducible assumption | with_reducible apply ih | with_reducible apply Chip.load_holds | with_reducible refine of_snd2 (by assumption) ?_ | (with_reducible refine has_snd3 rfl ?_; first | with_reducible assumption | with_reducible apply ih | with_reducible apply Chip.load_holds | with_reducible refine of_snd2 (by assumption) ?_) | (with_reducible refine has_snd2 rfl ?_; first | with_reducible assumption | with_reducible apply ih | with_reducible apply Chip.load_holds | with_reducible refine of_snd2 (by assumption) ?_) | (with_reducible refine has_snd rfl ?_; first | with_reducible assumption | with_reducible apply ih | with_reducible apply Chip.load_holds | with_reducible refine of_snd2 (by assumption) ?_) | split)
theorem Chip.readStraps_holds (c : Chip) (hc : Holds P Q c) : Holds P Q (Chip.readStraps c) := by
  conv in (Chip.readStraps c) => (unfold Chip.readStraps; try dsimp only)
  repeat' (first | with_reducible assumption | with_reducible apply Chip.setFld_holds)
theorem Chip.readTexel_holds (c : Chip) (a : Nat) (b : Nat) (e : Nat) (f : TexLevel) (g : Int) (i : Int) (hc : Holds memWf anyDue c) : Holds memWf anyDue (Chip.readTexel c a b e f g i).2.2.2.2 := by
  conv in (Chip.readTexel c a b e f g i) => (unfold Chip.readTexel; try dsimp only)
  repeat' (first | with_reducible assumption | with_reducible apply Chip.loadRange_holds)
theorem Chip.readTaps_holds (c : Chip) (a : Nat) (b : Nat) (e : Nat) (f : List (TexLevel × Nat × Int × Int)) (hc : Holds memWf anyDue c) : Holds memWf anyDue (Chip.readTaps c a b e f).2.2 := by
  induction f generalizing c a b e with
  | nil =>
    conv in Chip.readTaps _ _ _ _ _ => (unfold Chip.readTaps; try dsimp only)
    repeat' (first | with_reducible assumption | fail | with_reducible apply Chip.readTexel_holds | with_reducible refine of_snd4 (by assumption) ?_ | (with_reducible refine has_snd2 rfl ?_; first | with_reducible assumption | fail | with_reducible apply Chip.readTexel_holds | with_reducible refine of_snd4 (by assumption) ?_) | (with_reducible refine has_snd rfl ?_; first | with_reducible assumption | fail | with_reducible apply Chip.readTexel_holds | with_reducible refine of_snd4 (by assumption) ?_) | split)
  | cons x l ih =>
    conv in Chip.readTaps _ _ _ _ _ => (unfold Chip.readTaps; try dsimp only)
    repeat' (first | with_reducible assumption | with_reducible apply ih | with_reducible apply Chip.readTexel_holds | with_reducible refine of_snd4 (by assumption) ?_ | (with_reducible refine has_snd2 rfl ?_; first | with_reducible assumption | with_reducible apply ih | with_reducible apply Chip.readTexel_holds | with_reducible refine of_snd4 (by assumption) ?_) | (with_reducible refine has_snd rfl ?_; first | with_reducible assumption | with_reducible apply ih | with_reducible apply Chip.readTexel_holds | with_reducible refine of_snd4 (by assumption) ?_) | split)
theorem Chip.recordValid_holds (c : Chip) (a : Nat) (b : Nat) (e : Nat) (f : Nat) (hc : Holds memWf anyDue c) : Holds memWf anyDue (Chip.recordValid c a b e f).2 := by
  conv in (Chip.recordValid c a b e f) => (unfold Chip.recordValid; try dsimp only)
  repeat' (first | with_reducible assumption | with_reducible apply Chip.loadRange_holds | with_reducible refine of_snd2 (by assumption) ?_ | (with_reducible refine has_snd rfl ?_; first | with_reducible assumption | with_reducible apply Chip.loadRange_holds | with_reducible refine of_snd2 (by assumption) ?_) | split)
theorem Chip.refuseFunctions_holds (c : Chip) (a : Nat) (b : Nat) (hc : Holds P Q c) : Holds P Q (Chip.refuseFunctions c a b) := by
  conv in (Chip.refuseFunctions c a b) => (unfold Chip.refuseFunctions; try dsimp only)
  repeat' (first | with_reducible assumption | with_reducible apply Chip.updSlice_holds)
theorem Chip.releaseGroup_holds (c : Chip) (a : Nat) (hc : Holds memWf anyDue c) : Holds memWf anyDue (Chip.releaseGroup c a) := by
  conv in (Chip.releaseGroup c a) => (unfold Chip.releaseGroup; try dsimp only)
  repeat' (first | with_reducible assumption | with_reducible apply Chip.event_holds | with_reducible apply Chip.safeMessage_holds | with_reducible apply Chip.setFld_holds | with_reducible apply Chip.setOutput_holds | with_reducible apply Chip.setSafeN_holds | with_reducible apply foldl_holds | with_reducible refine ite_holds ?_ ?_ | with_reducible intro _)
theorem Chip.reload_holds (c : Chip) (a : Nat) (b : Model) (e : List Byte) (hc : Holds memWf anyDue c) : Holds memWf anyDue (Chip.reload c a b e) := by
  conv in (Chip.reload c a b e) => (unfold Chip.reload; try dsimp only)
  repeat' (first | with_reducible assumption | with_reducible apply Chip.count_holds | with_reducible apply Chip.evict_holds | with_reducible apply Chip.fillSegments_holds | with_reducible apply Chip.mcRegs_holds | with_reducible apply Chip.updModel_holds)
theorem Chip.sampleTex_holds (c : Chip) (a : Nat) (b : Nat) (e : Tex) (hc : Holds memWf anyDue c) : Holds memWf anyDue (Chip.sampleTex c a b e).2.2 := by
  conv in (Chip.sampleTex c a b e) => (unfold Chip.sampleTex; try dsimp only)
  repeat' (first | with_reducible assumption | with_reducible apply Chip.readTaps_holds | with_reducible refine of_snd2 (by assumption) ?_ | (with_reducible refine has_snd2 rfl ?_; first | with_reducible assumption | with_reducible apply Chip.readTaps_holds | with_reducible refine of_snd2 (by assumption) ?_) | (with_reducible refine has_snd rfl ?_; first | with_reducible assumption | with_reducible apply Chip.readTaps_holds | with_reducible refine of_snd2 (by assumption) ?_) | split)
theorem Chip.sampleAll_holds (c : Chip) (a : Nat) (b : Nat) (e : List Tex) (hc : Holds memWf anyDue c) : Holds memWf anyDue (Chip.sampleAll c a b e).2.2 := by
  induction e generalizing c a b with
  | nil =>
    conv in Chip.sampleAll _ _ _ _ => (unfold Chip.sampleAll; try dsimp only)
    repeat' (first | with_reducible assumption | fail | with_reducible apply Chip.sampleTex_holds | with_reducible refine of_snd2 (by assumption) ?_ | (with_reducible refine has_snd2 rfl ?_; first | with_reducible assumption | fail | with_reducible apply Chip.sampleTex_holds | with_reducible refine of_snd2 (by assumption) ?_) | (with_reducible refine has_snd rfl ?_; first | with_reducible assumption | fail | with_reducible apply Chip.sampleTex_holds | with_reducible refine of_snd2 (by assumption) ?_) | split)
  | cons x l ih =>
    conv in Chip.sampleAll _ _ _ _ => (unfold Chip.sampleAll; try dsimp only)
    repeat' (first | with_reducible assumption | with_reducible apply ih | with_reducible apply Chip.sampleTex_holds | with_reducible refine of_snd2 (by assumption) ?_ | (with_reducible refine has_snd2 rfl ?_; first | with_reducible assumption | with_reducible apply ih | with_reducible apply Chip.sampleTex_holds | with_reducible refine of_snd2 (by assumption) ?_) | (with_reducible refine has_snd rfl ?_; first | with_reducible assumption | with_reducible apply ih | with_reducible apply Chip.sampleTex_holds | with_reducible refine of_snd2 (by assumption) ?_) | split)
theorem Chip.shade_holds (c : Chip) (a : Nat) (b : Nat) (e : List Frag) (hc : Holds memWf anyDue c) : Holds memWf anyDue (Chip.shade c a b e).2.2 := by
  induction e generalizing c a b with
  | nil =>
    conv in Chip.shade _ _ _ _ => (unfold Chip.shade; try dsimp only)
    repeat' (first | with_reducible assumption | fail | with_reducible apply Chip.sampleAll_holds | with_reducible refine of_snd2 (by assumption) ?_ | with_reducible refine ite_snd2 ?_ ?_ | (with_reducible refine has_snd2 rfl ?_; first | with_reducible assumption | fail | with_reducible apply Chip.sampleAll_holds | with_reducible refine of_snd2 (by assumption) ?_ | with_reducible refine ite_snd2 ?_ ?_) | (with_reducible refine has_snd rfl ?_; first | with_reducible assumption | fail | with_reducible apply Chip.sampleAll_holds | with_reducible refine of_snd2 (by assumption) ?_ | with_reducible refine ite_snd2 ?_ ?_) | split)
  | cons x l ih =>
    conv in Chip.shade _ _ _ _ => (unfold Chip.shade; try dsimp only)
    repeat' (first | with_reducible assumption | with_reducible apply ih | with_reducible apply Chip.sampleAll_holds | with_reducible refine of_snd2 (by assumption) ?_ | with_reducible refine ite_snd2 ?_ ?_ | (with_reducible refine has_snd2 rfl ?_; first | with_reducible assumption | with_reducible apply ih | with_reducible apply Chip.sampleAll_holds | with_reducible refine of_snd2 (by assumption) ?_ | with_reducible refine ite_snd2 ?_ ?_) | (with_reducible refine has_snd rfl ?_; first | with_reducible assumption | with_reducible apply ih | with_reducible apply Chip.sampleAll_holds | with_reducible refine of_snd2 (by assumption) ?_ | with_reducible refine ite_snd2 ?_ ?_) | split)
theorem Chip.storeRows_holds (c : Chip) (a : Nat) (b : Nat) (e : List ((Nat × Nat) × List Byte)) (hc : Holds memWf anyDue c) : Holds memWf anyDue (Chip.storeRows c a b e).2 := by
  induction e generalizing c a b with
  | nil =>
    conv in Chip.storeRows _ _ _ _ => (unfold Chip.storeRows; try dsimp only)
    repeat' (first | with_reducible assumption | fail | with_reducible apply Chip.saveRange_holds | with_reducible refine of_snd2 (by assumption) ?_ | (with_reducible refine has_snd rfl ?_; first | with_reducible assumption | fail | with_reducible apply Chip.saveRange_holds | with_reducible refine of_snd2 (by assumption) ?_) | split)
  | cons x l ih =>
    conv in Chip.storeRows _ _ _ _ => (unfold Chip.storeRows; try dsimp only)
    repeat' (first | with_reducible assumption | with_reducible apply ih | with_reducible apply Chip.saveRange_holds | with_reducible refine of_snd2 (by assumption) ?_ | (with_reducible refine has_snd rfl ?_; first | with_reducible assumption | with_reducible apply ih | with_reducible apply Chip.saveRange_holds | with_reducible refine of_snd2 (by assumption) ?_) | split)
theorem Chip.startRows_holds (c : Chip) (a : Nat) (b : Nat) (e : List PlanePart) (f : Bool) (g : Nat) (i : List (Nat × Nat)) (hc : Holds memWf anyDue c) : Holds memWf anyDue (Chip.startRows c a b e f g i).2.2 := by
  induction i generalizing c a b e f g with
  | nil =>
    conv in Chip.startRows _ _ _ _ _ _ _ => (unfold Chip.startRows; try dsimp only)
    repeat' (first | with_reducible assumption | fail | with_reducible apply Chip.drawBytes_holds | with_reducible apply Chip.loadRange_holds | with_reducible refine of_snd2 (by assumption) ?_ | with_reducible refine ite_snd2 ?_ ?_ | (with_reducible refine has_snd2 rfl ?_; first | with_reducible assumption | fail | with_reducible apply Chip.drawBytes_holds | with_reducible apply Chip.loadRange_holds | with_reducible refine of_snd2 (by assumption) ?_ | with_reducible refine ite_snd2 ?_ ?_) | (with_reducible refine has_snd rfl ?_; first | with_reducible assumption | fail | with_reducible apply Chip.drawBytes_holds | with_reducible apply Chip.loadRange_holds | with_reducible refine of_snd2 (by assumption) ?_ | with_reducible refine ite_snd2 ?_ ?_) | split)
  | cons x l ih =>
    conv in Chip.startRows _ _ _ _ _ _ _ => (unfold Chip.startRows; try dsimp only)
    repeat' (first | with_reducible assumption | with_reducible apply ih | with_reducible apply Chip.drawBytes_holds | with_reducible apply Chip.loadRange_holds | with_reducible refine of_snd2 (by assumption) ?_ | with_reducible refine ite_snd2 ?_ ?_ | (with_reducible refine has_snd2 rfl ?_; first | with_reducible assumption | with_reducible apply ih | with_reducible apply Chip.drawBytes_holds | with_reducible apply Chip.loadRange_holds | with_reducible refine of_snd2 (by assumption) ?_ | with_reducible refine ite_snd2 ?_ ?_) | (with_reducible refine has_snd rfl ?_; first | with_reducible assumption | with_reducible apply ih | with_reducible apply Chip.drawBytes_holds | with_reducible apply Chip.loadRange_holds | with_reducible refine of_snd2 (by assumption) ?_ | with_reducible refine ite_snd2 ?_ ?_) | split)
theorem Chip.tileBegin_holds (c : Chip) (a : Nat) (b : Pass) (e : Nat) (f : List Plane) (hc : Holds memWf anyDue c) : Holds memWf anyDue (Chip.tileBegin c a b e f).2.2 := by
  induction f generalizing c a b e with
  | nil =>
    conv in Chip.tileBegin _ _ _ _ _ => (unfold Chip.tileBegin; try dsimp only)
    repeat' (first | with_reducible assumption | fail | with_reducible apply Chip.startRows_holds | with_reducible refine of_snd2 (by assumption) ?_ | (with_reducible refine has_snd2 rfl ?_; first | with_reducible assumption | fail | with_reducible apply Chip.startRows_holds | with_reducible refine of_snd2 (by assumption) ?_) | (with_reducible refine has_snd rfl ?_; first | with_reducible assumption | fail | with_reducible apply Chip.startRows_holds | with_reducible refine of_snd2 (by assumption) ?_) | split)
  | cons x l ih =>
    conv in Chip.tileBegin _ _ _ _ _ => (unfold Chip.tileBegin; try dsimp only)
    repeat' (first | with_reducible assumption | with_reducible apply ih | with_reducible apply Chip.startRows_holds | with_reducible refine of_snd2 (by assumption) ?_ | (with_reducible refine has_snd2 rfl ?_; first | with_reducible assumption | with_reducible apply ih | with_reducible apply Chip.startRows_holds | with_reducible refine of_snd2 (by assumption) ?_) | (with_reducible refine has_snd rfl ?_; first | with_reducible assumption | with_reducible apply ih | with_reducible apply Chip.startRows_holds | with_reducible refine of_snd2 (by assumption) ?_) | split)
theorem Chip.tileCore_holds (c : Chip) (a : List Frag) (hc : Holds P Q c) : Holds P Q (Chip.tileCore c a).2 := by
  conv in (Chip.tileCore c a) => (unfold Chip.tileCore; try dsimp only)
  repeat' (first | with_reducible assumption | with_reducible apply Chip.count_holds | with_reducible apply Chip.draw_holds | with_reducible refine ite_holds ?_ ?_)
theorem Chip.renderTile_holds (c : Chip) (a : Pass) (b : Bool) (e : List Frag) (f : Nat) (hc : Holds memWf anyDue c) : Holds memWf anyDue (Chip.renderTile c a b e f).2 := by
  conv in (Chip.renderTile c a b e f) => (unfold Chip.renderTile; try dsimp only)
  repeat' (first | with_reducible assumption | with_reducible apply Chip.count_holds | with_reducible apply Chip.shade_holds | with_reducible apply Chip.storeRows_holds | with_reducible apply Chip.tileBegin_holds | with_reducible apply Chip.tileCore_holds | with_reducible refine of_snd (by assumption) ?_ | with_reducible refine of_snd2 (by assumption) ?_ | (with_reducible refine has_snd rfl ?_; first | with_reducible assumption | with_reducible apply Chip.count_holds | with_reducible apply Chip.shade_holds | with_reducible apply Chip.storeRows_holds | with_reducible apply Chip.tileBegin_holds | with_reducible apply Chip.tileCore_holds | with_reducible refine of_snd (by assumption) ?_ | with_reducible refine of_snd2 (by assumption) ?_) | split)
theorem Chip.renderTiles_holds (c : Chip) (a : Pass) (b : Bool) (e : List Frag) (f : List Nat) (hc : Holds memWf anyDue c) : Holds memWf anyDue (Chip.renderTiles c a b e f).2 := by
  induction f generalizing c a b e with
  | nil =>
    conv in Chip.renderTiles _ _ _ _ _ => (unfold Chip.renderTiles; try dsimp only)
    repeat' (first | with_reducible assumption | fail | with_reducible apply Chip.renderTile_holds | with_reducible refine of_snd (by assumption) ?_ | (with_reducible refine has_snd rfl ?_; first | with_reducible assumption | fail | with_reducible apply Chip.renderTile_holds | with_reducible refine of_snd (by assumption) ?_) | split)
  | cons x l ih =>
    conv in Chip.renderTiles _ _ _ _ _ => (unfold Chip.renderTiles; try dsimp only)
    repeat' (first | with_reducible assumption | with_reducible apply ih | with_reducible apply Chip.renderTile_holds | with_reducible refine of_snd (by assumption) ?_ | (with_reducible refine has_snd rfl ?_; first | with_reducible assumption | with_reducible apply ih | with_reducible apply Chip.renderTile_holds | with_reducible refine of_snd (by assumption) ?_) | split)
theorem Chip.repeatMessage_holds (c : Chip) (a : Nat) (b : MessageCfg) (hc : Holds P Q c) : Holds P Q (Chip.repeatMessage c a b) := by
  conv in (Chip.repeatMessage c a b) => (unfold Chip.repeatMessage; try dsimp only)
  repeat' (first | with_reducible assumption | with_reducible apply Chip.safeMessage_holds | (refine ⟨?_, ?_⟩ <;> (dsimp only; first | exact trivial | with_reducible apply Chip.Holds.mem (Q := Q) | with_reducible apply Chip.Holds.due (P := P))))
theorem Chip.reportJudged_holds (c : Chip) (a : List Byte) (b : Option Nat) (hc : Holds memWf anyDue c) : Holds memWf anyDue (Chip.reportJudged c a b) := by
  conv in (Chip.reportJudged c a b) => (unfold Chip.reportJudged; try dsimp only)
  repeat' (first | with_reducible assumption | with_reducible apply Chip.pairFault_holds | with_reducible apply Chip.pairUp_holds | with_reducible apply Chip.twinSend_holds | with_reducible apply Chip.updLink_holds | split)
theorem Chip.republish_holds (c : Chip) (a : Nat) (b : FuseStream) (e : FuseFrame) (f : Nat) (g : Nat) (i : Nat) (hc : Holds memWf anyDue c) : Holds memWf anyDue (Chip.republish c a b e f g i) := by
  conv in (Chip.republish c a b e f g i) => (unfold Chip.republish; try dsimp only)
  repeat' (first | with_reducible assumption | with_reducible apply Chip.publishL0_holds | with_reducible apply Chip.revised_holds | with_reducible apply Chip.updFrame_holds)
theorem Chip.restartService_holds (c : Chip) (a : Nat) (b : Nat) (hc : Holds memWf anyDue c) : Holds memWf anyDue (Chip.restartService c a b) := by
  conv in (Chip.restartService c a b) => (unfold Chip.restartService; try dsimp only)
  repeat' (first | with_reducible assumption | with_reducible apply Chip.event_holds | with_reducible apply Chip.finish_holds | with_reducible apply Chip.updFw_holds | with_reducible apply Chip.updPacket_holds | with_reducible apply foldl_holds | with_reducible intro _)
theorem Chip.restoreLines_holds (c : Chip) (a : Nat) (b : Nat) (e : Nat) (f : Nat) (g : List Nat) (i : Nat) (hc : Holds memWf anyDue c) : Holds memWf anyDue (Chip.restoreLines c a b e f g i).2.2 := by
  induction g generalizing c a b e f i with
  | nil =>
    conv in Chip.restoreLines _ _ _ _ _ _ _ => (unfold Chip.restoreLines; try dsimp only)
    repeat' (first | with_reducible assumption | fail | with_reducible apply Chip.saveRead_holds | with_reducible apply Chip.store_holds | with_reducible refine of_snd2 (by assumption) ?_ | (with_reducible refine has_snd2 rfl ?_; first | with_reducible assumption | fail | with_reducible apply Chip.saveRead_holds | with_reducible apply Chip.store_holds | with_reducible refine of_snd2 (by assumption) ?_) | (with_reducible refine has_snd rfl ?_; first | with_reducible assumption | fail | with_reducible apply Chip.saveRead_holds | with_reducible apply Chip.store_holds | with_reducible refine of_snd2 (by assumption) ?_) | split)
  | cons x l ih =>
    conv in Chip.restoreLines _ _ _ _ _ _ _ => (unfold Chip.restoreLines; try dsimp only)
    repeat' (first | with_reducible assumption | with_reducible apply ih | with_reducible apply Chip.saveRead_holds | with_reducible apply Chip.store_holds | with_reducible refine of_snd2 (by assumption) ?_ | (with_reducible refine has_snd2 rfl ?_; first | with_reducible assumption | with_reducible apply ih | with_reducible apply Chip.saveRead_holds | with_reducible apply Chip.store_holds | with_reducible refine of_snd2 (by assumption) ?_) | (with_reducible refine has_snd rfl ?_; first | with_reducible assumption | with_reducible apply ih | with_reducible apply Chip.saveRead_holds | with_reducible apply Chip.store_holds | with_reducible refine of_snd2 (by assumption) ?_) | split)
theorem Chip.restoreRegs_holds (c : Chip) (a : Nat) (b : SaveTile) (hc : Holds P Q c) : Holds P Q (Chip.restoreRegs c a b) := by
  conv in (Chip.restoreRegs c a b) => (unfold Chip.restoreRegs; try dsimp only)
  repeat' (first | with_reducible assumption | with_reducible apply Chip.setEngine_holds | with_reducible apply Chip.setFld_holds | with_reducible apply Chip.setReg_holds | with_reducible apply foldl_holds | split | with_reducible intro _)
theorem Chip.rewait_holds (c : Chip) (a : Nat) (b : Tile) (hc : Holds P Q c) : Holds P Q (Chip.rewait c a b) := by
  conv in (Chip.rewait c a b) => (unfold Chip.rewait; try dsimp only)
  repeat' (first | with_reducible assumption | (refine ⟨?_, ?_⟩ <;> (dsimp only; first | exact trivial | with_reducible apply Chip.Holds.mem (Q := Q) | with_reducible apply Chip.Holds.due (P := P))))
theorem Chip.restoreFiles_holds (c : Chip) (a : Job) (b : Chan) (e : Model) (f : SaveTile) (g : Nat) (i : Nat) (j : Nat) (k : List Byte) (l : List Nat) (n : List Byte) (o : List (Nat × Nat × Nat)) (q : AMap Rill) (hc : Holds memWf anyDue c) : Holds memWf anyDue (Chip.restoreFiles c a b e f g i j k l n o q).2.2 := by
  conv in (Chip.restoreFiles c a b e f g i j k l n o q) => (unfold Chip.restoreFiles; try dsimp only)
  repeat' (first | with_reducible assumption | with_reducible apply Chip.preloadAll_holds | with_reducible apply Chip.restoreRegs_holds | with_reducible apply Chip.rewait_holds | with_reducible apply Chip.rillClear_holds | with_reducible apply Chip.setTile_holds | with_reducible apply Chip.setTileState_holds | with_reducible apply Chip.showQueue_holds | with_reducible apply Chip.showRill_holds | with_reducible apply Chip.tileFault_holds | with_reducible apply foldl_holds | (with_reducible refine has_snd2 rfl ?_; first | with_reducible assumption | with_reducible apply Chip.preloadAll_holds | with_reducible apply Chip.restoreRegs_holds | with_reducible apply Chip.rewait_holds | with_reducible apply Chip.rillClear_holds | with_reducible apply Chip.setTile_holds | with_reducible apply Chip.setTileState_holds | with_reducible apply Chip.showQueue_holds | with_reducible apply Chip.showRill_holds | with_reducible apply Chip.tileFault_holds | with_reducible apply foldl_holds) | (with_reducible refine has_snd rfl ?_; first | with_reducible assumption | with_reducible apply Chip.preloadAll_holds | with_reducible apply Chip.restoreRegs_holds | with_reducible apply Chip.rewait_holds | with_reducible apply Chip.rillClear_holds | with_reducible apply Chip.setTile_holds | with_reducible apply Chip.setTileState_holds | with_reducible apply Chip.showQueue_holds | with_reducible apply Chip.showRill_holds | with_reducible apply Chip.tileFault_holds | with_reducible apply foldl_holds) | split | with_reducible intro _)
theorem Chip.restorePools_holds (c : Chip) (a b e : Nat) (l : AMap Rill) (k : Nat) (hc : Holds memWf anyDue c) : Holds memWf anyDue (Chip.restorePools c a b e l k).2.2.2 := by
  induction l generalizing c k with
  | nil => exact hc
  | cons x l ih =>
    obtain ⟨r, x⟩ := x
    have h := Chip.poolRead_holds c a b (e + 0xC000 + 0x2000 * r) ((poolLines x).map (·.1)) hc
    rw [Chip.restorePools]
    dsimp only
    generalize c.poolRead a b (e + 0xC000 + 0x2000 * r) ((poolLines x).map (·.1)) = p at h ⊢
    split
    · exact ih _ _ h
    · exact h
theorem Chip.restoreLoaded_holds (c : Chip) (a : Job) (b : Chan) (e : Model) (f : Variant) (g : Nat) (i : Nat) (j : List Byte) (k : List Nat) (hc : Holds memWf anyDue c) : Holds memWf anyDue (Chip.restoreLoaded c a b e f g i j k).2.2 := by
  conv in (Chip.restoreLoaded c a b e f g i j k) => (unfold Chip.restoreLoaded; try dsimp only)
  repeat' (first | with_reducible assumption | with_reducible apply Chip.restoreFiles_holds | with_reducible apply Chip.restorePools_holds | with_reducible apply Chip.store_holds | with_reducible apply Chip.tileEntry_holds | with_reducible refine of_snd (by assumption) ?_ | with_reducible refine ite_snd2 ?_ ?_ | (with_reducible refine has_snd2 rfl ?_; first | with_reducible assumption | with_reducible apply Chip.restoreFiles_holds | with_reducible apply Chip.restorePools_holds | with_reducible apply Chip.store_holds | with_reducible apply Chip.tileEntry_holds | with_reducible refine of_snd (by assumption) ?_ | with_reducible refine ite_snd2 ?_ ?_) | (with_reducible refine has_snd rfl ?_; first | with_reducible assumption | with_reducible apply Chip.restoreFiles_holds | with_reducible apply Chip.restorePools_holds | with_reducible apply Chip.store_holds | with_reducible apply Chip.tileEntry_holds | with_reducible refine of_snd (by assumption) ?_ | with_reducible refine ite_snd2 ?_ ?_) | split)
theorem Chip.restoreHeld_holds (c : Chip) (a : Job) (b : Chan) (e : Model) (f : Variant) (g : Nat) (i : Nat) (j : List Byte) (hc : Holds memWf anyDue c) : Holds memWf anyDue (Chip.restoreHeld c a b e f g i j).2.2 := by
  conv in (Chip.restoreHeld c a b e f g i j) => (unfold Chip.restoreHeld; try dsimp only)
  repeat' (first | with_reducible assumption | with_reducible apply Chip.allDirty_holds | with_reducible apply Chip.clearLines_holds | with_reducible apply Chip.restoreLines_holds | with_reducible apply Chip.restoreLoaded_holds | with_reducible refine ite_snd2 ?_ ?_)
theorem Chip.restoreBlock_holds (c : Chip) (a : Job) (b : Chan) (e : Model) (f : Variant) (g : Nat) (i : Nat) (hc : Holds memWf anyDue c) : Holds memWf anyDue (Chip.restoreBlock c a b e f g i).2.2 := by
  conv in (Chip.restoreBlock c a b e f g i) => (unfold Chip.restoreBlock; try dsimp only)
  repeat' (first | with_reducible assumption | with_reducible apply Chip.restoreHeld_holds | with_reducible apply Chip.saveRead_holds | with_reducible refine ite_snd2 ?_ ?_)
theorem Chip.restoreTile_holds (c : Chip) (a : Job) (b : Chan) (e : Model) (f : Variant) (g : Nat) (hc : Holds memWf anyDue c) : Holds memWf anyDue (Chip.restoreTile c a b e f g).2.2 := by
  conv in (Chip.restoreTile c a b e f g) => (unfold Chip.restoreTile; try dsimp only)
  repeat' (first | with_reducible assumption | with_reducible apply Chip.restoreBlock_holds)
theorem Chip.restoreTiles_holds (c : Chip) (a : Job) (b : Chan) (e : Model) (f : Variant) (g : List Nat) (i : Nat) (hc : Holds memWf anyDue c) : Holds memWf anyDue (Chip.restoreTiles c a b e f g i).2.2 := by
  induction g generalizing c a b e f i with
  | nil =>
    conv in Chip.restoreTiles _ _ _ _ _ _ _ => (unfold Chip.restoreTiles; try dsimp only)
    repeat' (first | with_reducible assumption | fail | with_reducible apply Chip.count_holds | with_reducible apply Chip.restoreTile_holds | with_reducible refine ite_snd2 ?_ ?_)
  | cons x l ih =>
    conv in Chip.restoreTiles _ _ _ _ _ _ _ => (unfold Chip.restoreTiles; try dsimp only)
    repeat' (first | with_reducible assumption | with_reducible apply ih | with_reducible apply Chip.count_holds | with_reducible apply Chip.restoreTile_holds | with_reducible refine ite_snd2 ?_ ?_)
theorem Chip.restored_holds (c : Chip) (a : Job) (b : Chan) (e : List Byte) (f : Nat) (hc : Holds memWf anyDue c) : Holds memWf anyDue (Chip.restored c a b e f) := by
  conv in (Chip.restored c a b e f) => (unfold Chip.restored; try dsimp only)
  repeat' (first | with_reducible assumption | with_reducible apply Chip.advance_holds | with_reducible apply Chip.event_holds | with_reducible apply Chip.saveRange_holds | with_reducible apply Chip.updJob_holds | with_reducible apply foldl_holds)
theorem Chip.resumeEngines_holds (c : Chip) (a : Job) (b : Chan) (e : Model) (f : Variant) (g : List Byte) (hc : Holds memWf anyDue c) : Holds memWf anyDue (Chip.resumeEngines c a b e f g) := by
  conv in (Chip.resumeEngines c a b e f g) => (unfold Chip.resumeEngines; try dsimp only)
  repeat' (first | with_reducible assumption | with_reducible apply Chip.relocList_holds | with_reducible apply Chip.setReg_holds | with_reducible apply Chip.showDesc_holds | with_reducible apply Chip.startEngines_holds | with_reducible apply Chip.updEngine_holds | with_reducible apply foldl_holds | split | with_reducible intro _)
theorem Chip.retainedFixed_holds (c : Chip) (hc : Holds memWf anyDue c) : Holds memWf anyDue (Chip.retainedFixed c) := by
  conv in (Chip.retainedFixed c) => (unfold Chip.retainedFixed; try dsimp only)
  repeat' (first | with_reducible assumption | with_reducible apply Chip.checkWord_holds | with_reducible apply foldl_holds | with_reducible intro _)
theorem Chip.retireRings_holds (c : Chip) (a : Nat) (b : Nat) (hc : Holds memWf anyDue c) : Holds memWf anyDue (Chip.retireRings c a b) := by
  conv in (Chip.retireRings c a b) => (unfold Chip.retireRings; try dsimp only)
  repeat' (first | with_reducible assumption | with_reducible apply Chip.dropPending_holds | with_reducible apply Chip.event_holds | with_reducible apply Chip.updSlice_holds | with_reducible apply foldl_holds | (refine ⟨?_, ?_⟩ <;> (dsimp only; first | exact trivial | with_reducible apply Chip.Holds.mem (Q := anyDue) | with_reducible apply Chip.Holds.due (P := memWf))))
theorem Chip.returnCall_holds (c : Chip) (a : Nat) (b : Bool) (e : Nat × Nat) (hc : Holds memWf anyDue c) : Holds memWf anyDue (Chip.returnCall c a b e).2.2 := by
  conv in (Chip.returnCall c a b e) => (unfold Chip.returnCall; try dsimp only)
  repeat' (first | with_reducible assumption | with_reducible apply Chip.giveOwners_holds | with_reducible apply foldl_holds | with_reducible refine ite_snd2 ?_ ?_ | with_reducible intro _)
theorem Chip.returnPages_holds (c : Chip) (a : Nat) (b : Bool) (e : List (Nat × Nat)) (hc : Holds memWf anyDue c) : Holds memWf anyDue (Chip.returnPages c a b e).2.2 := by
  conv in (Chip.returnPages c a b e) => (unfold Chip.returnPages; try dsimp only)
  repeat' (first | with_reducible assumption | with_reducible apply Chip.returnCall_holds | with_reducible apply foldl_snd2 | with_reducible intro _)
theorem Chip.reviseGrid_holds (c : Chip) (a : Nat) (hc : Holds memWf anyDue c) : Holds memWf anyDue (Chip.reviseGrid c a) := by
  conv in (Chip.reviseGrid c a) => (unfold Chip.reviseGrid; try dsimp only)
  repeat' (first | with_reducible assumption | with_reducible apply Chip.alignAt_holds | with_reducible apply Chip.contribPose_holds | with_reducible apply Chip.dropLevel_holds | with_reducible apply Chip.gridAgain_holds | with_reducible apply Chip.lateTaken_holds | with_reducible refine of_snd (by assumption) ?_ | split)
theorem Chip.reviseStream_holds (c : Chip) (a : Nat) (hc : Holds memWf anyDue c) : Holds memWf anyDue (Chip.reviseStream c a) := by
  conv in (Chip.reviseStream c a) => (unfold Chip.reviseStream; try dsimp only)
  repeat' (first | with_reducible assumption | with_reducible apply Chip.depthPlane_holds | with_reducible apply Chip.doneRevising_holds | with_reducible apply Chip.dropLateFrame_holds | with_reducible apply Chip.republish_holds | with_reducible refine of_snd (by assumption) ?_ | with_reducible refine ite_holds ?_ ?_ | split)
theorem Chip.trackContrib_holds (c : Chip) (a : Tracker) (b : Contrib) (e : Pose) (f : L2Run) (hc : Holds memWf anyDue c) : Holds memWf anyDue (Chip.trackContrib c a b e f).2 := by
  conv in (Chip.trackContrib c a b e f) => (unfold Chip.trackContrib; try dsimp only)
  repeat' (first | with_reducible assumption | with_reducible apply Chip.cflRead_holds)
theorem Chip.runTracker_holds (c : Chip) (a : Tracker) (b : List (Contrib × Pose)) (e : Nat) (f : Nat) (g : Pose) (hc : Holds memWf anyDue c) : Holds memWf anyDue (Chip.runTracker c a b e f g) := by
  conv in (Chip.runTracker c a b e f g) => (unfold Chip.runTracker; try dsimp only)
  repeat' (first | with_reducible assumption | with_reducible apply Chip.cflWrite_holds | with_reducible apply Chip.count_holds | with_reducible apply Chip.event_holds | with_reducible apply Chip.publishLevel_holds | with_reducible apply Chip.setReg_holds | with_reducible apply Chip.trackContrib_holds | with_reducible apply foldl_snd | with_reducible refine ite_holds ?_ ?_ | (refine ⟨?_, ?_⟩ <;> (dsimp only; first | exact trivial | with_reducible apply Chip.Holds.mem (Q := anyDue) | with_reducible apply Chip.Holds.due (P := memWf))) | with_reducible intro _)
theorem Chip.trackAgain_holds (c : Chip) (a : Tracker) (b : Contrib) (e : List Contrib) (f : List (Contrib × Pose)) (g : Pose) (i : Nat) (hc : Holds memWf anyDue c) : Holds memWf anyDue (Chip.trackAgain c a b e f g i) := by
  conv in (Chip.trackAgain c a b e f g i) => (unfold Chip.trackAgain; try dsimp only)
  repeat' (first | with_reducible assumption | with_reducible apply Chip.revised_holds | with_reducible apply Chip.runTracker_holds)
theorem Chip.trackLate_holds (c : Chip) (c1 : Chip) (a : Tracker) (b : Contrib) (e : List Contrib) (f : Nat) (hc : Holds memWf anyDue c) (hc1 : Holds memWf anyDue c1) : Holds memWf anyDue (Chip.trackLate c c1 a b e f) := by
  conv in (Chip.trackLate c c1 a b e f) => (unfold Chip.trackLate; try dsimp only)
  repeat' (first | with_reducible assumption | with_reducible apply Chip.alignInputs_holds | with_reducible apply Chip.trackAgain_holds | with_reducible refine of_snd (by assumption) ?_ | split)
theorem Chip.reviseTracker_holds (c : Chip) (hc : Holds memWf anyDue c) : Holds memWf anyDue (Chip.reviseTracker c) := by
  conv in (Chip.reviseTracker c) => (unfold Chip.reviseTracker; try dsimp only)
  repeat' (first | with_reducible assumption | with_reducible apply Chip.dropLevel_holds | with_reducible apply Chip.lateTaken_holds | with_reducible apply Chip.trackLate_holds | split)
theorem Chip.rewarm_holds (c : Chip) (hc : Holds memWf anyDue c) : Holds memWf anyDue (Chip.rewarm c) := by
  conv in (Chip.rewarm c) => (unfold Chip.rewarm; try dsimp only)
  repeat' (first | with_reducible assumption | with_reducible apply Chip.takeRoom_holds | with_reducible apply foldl_holds | with_reducible intro _)
theorem Chip.takeReading_holds (c : Chip) (a : Nat) (b : Nat) (hc : Holds memWf anyDue c) : Holds memWf anyDue (Chip.takeReading c a b) := by
  conv in (Chip.takeReading c a b) => (unfold Chip.takeReading; try dsimp only)
  repeat' (first | with_reducible assumption | with_reducible apply Chip.error_holds | with_reducible apply Chip.setFld_holds | with_reducible apply Chip.setReg_holds | with_reducible apply Chip.updPower_holds | with_reducible refine ite_holds ?_ ?_)
theorem Chip.sampled_holds (c : Chip) (a : List Nat) (hc : Holds memWf anyDue c) : Holds memWf anyDue (Chip.sampled c a) := by
  conv in (Chip.sampled c a) => (unfold Chip.sampled; try dsimp only)
  repeat' (first | with_reducible assumption | with_reducible apply Chip.setFld_holds | with_reducible apply Chip.takeReading_holds | with_reducible apply foldl_holds | split | with_reducible intro _)
theorem Chip.saveWrite_holds (c : Chip) (a : Nat) (b : Nat) (e : Nat) (f : List Byte) (g : Nat) (hc : Holds memWf anyDue c) : Holds memWf anyDue (Chip.saveWrite c a b e f g).2.2 := by
  conv in (Chip.saveWrite c a b e f g) => (unfold Chip.saveWrite; try dsimp only)
  repeat' (first | with_reducible assumption | with_reducible apply Chip.saveRange_holds)
theorem Chip.saveWrites_holds (c : Chip) (a : Nat) (b : Nat) (e : List (Nat × List Byte)) (f : Nat) (hc : Holds memWf anyDue c) : Holds memWf anyDue (Chip.saveWrites c a b e f).2.2 := by
  induction e generalizing c a b f with
  | nil =>
    conv in Chip.saveWrites _ _ _ _ _ => (unfold Chip.saveWrites; try dsimp only)
    repeat' (first | with_reducible assumption | fail | with_reducible apply Chip.saveWrite_holds | with_reducible refine of_snd2 (by assumption) ?_ | (with_reducible refine has_snd2 rfl ?_; first | with_reducible assumption | fail | with_reducible apply Chip.saveWrite_holds | with_reducible refine of_snd2 (by assumption) ?_) | (with_reducible refine has_snd rfl ?_; first | with_reducible assumption | fail | with_reducible apply Chip.saveWrite_holds | with_reducible refine of_snd2 (by assumption) ?_) | split)
  | cons x l ih =>
    conv in Chip.saveWrites _ _ _ _ _ => (unfold Chip.saveWrites; try dsimp only)
    repeat' (first | with_reducible assumption | with_reducible apply ih | with_reducible apply Chip.saveWrite_holds | with_reducible refine of_snd2 (by assumption) ?_ | (with_reducible refine has_snd2 rfl ?_; first | with_reducible assumption | with_reducible apply ih | with_reducible apply Chip.saveWrite_holds | with_reducible refine of_snd2 (by assumption) ?_) | (with_reducible refine has_snd rfl ?_; first | with_reducible assumption | with_reducible apply ih | with_reducible apply Chip.saveWrite_holds | with_reducible refine of_snd2 (by assumption) ?_) | split)
theorem Chip.saveBlock_holds (c : Chip) (a : Chan) (b : Nat) (e : Nat) (f : Nat) (g : Nat) (i : List Byte) (j : List Byte) (hc : Holds memWf anyDue c) : Holds memWf anyDue (Chip.saveBlock c a b e f g i j).2.2 := by
  conv in (Chip.saveBlock c a b e f g i j) => (unfold Chip.saveBlock; try dsimp only)
  repeat' (first | with_reducible assumption | with_reducible apply Chip.count_holds | with_reducible apply Chip.keepSave_holds | with_reducible apply Chip.saveWrites_holds | with_reducible refine ite_holds ?_ ?_)
theorem Chip.saveTile_holds (c : Chip) (a : Chan) (b : Nat) (e : Nat) (f : Nat) (g : Nat) (hc : Holds memWf anyDue c) : Holds memWf anyDue (Chip.saveTile c a b e f g).2.2 := by
  conv in (Chip.saveTile c a b e f g) => (unfold Chip.saveTile; try dsimp only)
  repeat' (first | with_reducible assumption | with_reducible apply Chip.drawBytes_holds | with_reducible apply Chip.saveBlock_holds)
theorem Chip.saveTiles_holds (c : Chip) (a : Chan) (b d g : Nat) (e : List (Nat × Nat)) (f : Nat) (hc : Holds memWf anyDue c) : Holds memWf anyDue (Chip.saveTiles c a b d g e f).2.2 := by
  induction e generalizing c f with
  | nil => exact hc
  | cons x l ih =>
    obtain ⟨i, t⟩ := x
    have h := Chip.saveTile_holds c a b d (g + 0x10000 + i * 0xD0000) t hc
    conv in Chip.saveTiles _ _ _ _ _ _ _ => (rw [Chip.saveTiles]; dsimp only)
    exact ite_snd2 (ih _ _ h) (has_snd2 rfl h)
theorem Chip.saved_holds (c : Chip) (a : Job) (b : Chan) (e : Nat) (hc : Holds memWf anyDue c) : Holds memWf anyDue (Chip.saved c a b e) := by
  conv in (Chip.saved c a b e) => (unfold Chip.saved; try dsimp only)
  repeat' (first | with_reducible assumption | with_reducible apply Chip.count_holds | with_reducible apply Chip.event_holds | with_reducible apply Chip.finish_holds | with_reducible apply Chip.freeJob_holds | with_reducible apply Chip.giveBack_holds | with_reducible apply Chip.jobLeft_holds | with_reducible apply Chip.setFld_holds | with_reducible apply Chip.showJobs_holds | with_reducible apply Chip.updJob_holds | with_reducible apply foldl_holds | with_reducible intro _)
theorem Chip.sendAck_holds (c : Chip) (a : Nat) (b : Nat) (e : Nat) (hc : Holds P Q c) : Holds P Q (Chip.sendAck c a b e) := by
  conv in (Chip.sendAck c a b e) => (unfold Chip.sendAck; try dsimp only)
  repeat' (first | with_reducible assumption | with_reducible apply Chip.twinSend_holds)
theorem Chip.sendCkpt_holds (c : Chip) (a : Nat) (b : Nat) (hc : Holds memWf anyDue c) : Holds memWf anyDue (Chip.sendCkpt c a b) := by
  conv in (Chip.sendCkpt c a b) => (unfold Chip.sendCkpt; try dsimp only)
  repeat' (first | with_reducible assumption | with_reducible apply Chip.ckptFailed_holds | with_reducible apply Chip.loadRange_holds | with_reducible apply Chip.twinSend_holds | with_reducible apply Chip.updLink_holds | with_reducible refine of_snd2 (by assumption) ?_ | split)
theorem Chip.sendFrame_holds (c : Chip) (a : AMap (List Byte)) (b : Nat) (e : Nat) (f : EthFrame) (hc : Holds memWf anyDue c) : Holds memWf anyDue (Chip.sendFrame c a b e f) := by
  conv in (Chip.sendFrame c a b e f) => (unfold Chip.sendFrame; try dsimp only)
  repeat' (first | with_reducible assumption | with_reducible apply Chip.frameOut_holds | with_reducible apply Chip.hostDeliver_holds | with_reducible apply Chip.send_holds | with_reducible apply Chip.txDone_holds | with_reducible apply Chip.updNet_holds | with_reducible refine ite_holds ?_ ?_)
theorem Chip.sendSync_holds (c : Chip) (a : Nat) (b : List Byte) (e : Nat) (hc : Holds P Q c) : Holds P Q (Chip.sendSync c a b e) := by
  conv in (Chip.sendSync c a b e) => (unfold Chip.sendSync; try dsimp only)
  repeat' (first | with_reducible assumption | with_reducible apply Chip.drawBytes_holds | with_reducible apply Chip.nextSyncSeq_holds | with_reducible apply Chip.ptpSend_holds)
theorem Chip.servePiece_holds (c : Chip) (a : Nat) (b : Nat) (hc : Holds P Q c) : Holds P Q (Chip.servePiece c a b) := by
  conv in (Chip.servePiece c a b) => (unfold Chip.servePiece; try dsimp only)
  repeat' (first | with_reducible assumption | with_reducible apply Chip.twinSend_holds | with_reducible apply Chip.updLink_holds)
theorem Chip.serveRead_holds (c : Chip) (a : DramReq) (hc : Holds memWf anyDue c) : Holds memWf anyDue (Chip.serveRead c a) := by
  conv in (Chip.serveRead c a) => (unfold Chip.serveRead; try dsimp only)
  repeat' (first | with_reducible assumption | with_reducible apply Chip.answer_holds | with_reducible apply Chip.checkWords_holds | with_reducible apply Chip.count_holds | with_reducible apply Chip.sectors_holds | with_reducible refine ite_holds ?_ ?_)
theorem Chip.serveSram_holds (c : Chip) (a : Req) (b : Nat) (e : List Byte) (hc : Holds memWf anyDue c) : Holds memWf anyDue (Chip.serveSram c a b e) := by
  conv in (Chip.serveSram c a b e) => (unfold Chip.serveSram; try dsimp only)
  repeat' (first | with_reducible assumption | with_reducible apply Chip.failed_holds | with_reducible apply Chip.loadServed_holds | with_reducible apply Chip.reply_holds | with_reducible apply Chip.saveServed_holds | with_reducible refine of_snd (by assumption) ?_ | with_reducible refine of_snd2 (by assumption) ?_ | with_reducible refine ite_holds ?_ ?_ | split)
theorem Chip.serveWrite_holds (c : Chip) (a : DramReq) (hc : Holds memWf anyDue c) : Holds memWf anyDue (Chip.serveWrite c a) := by
  conv in (Chip.serveWrite c a) => (unfold Chip.serveWrite; try dsimp only)
  repeat' (first | with_reducible assumption | with_reducible apply Chip.answer_holds | with_reducible apply Chip.logRange_holds | with_reducible apply Chip.memRecord_holds | with_reducible apply Chip.sectors_holds | with_reducible apply Chip.store_holds | with_reducible refine ite_holds ?_ ?_ | split)
theorem Chip.setConfig_holds (c : Chip) (a : Nat) (b : List Byte) (e : List Nat) (hc : Holds P Q c) : Holds P Q (Chip.setConfig c a b e) := by
  conv in (Chip.setConfig c a b e) => (unfold Chip.setConfig; try dsimp only)
  repeat' (first | with_reducible assumption | with_reducible apply Chip.showDomain_holds | with_reducible apply Chip.updDomain_holds)
theorem Chip.setEff_holds (c : Chip) (a : Nat) (b : Nat) (hc : Holds memWf anyDue c) : Holds memWf anyDue (Chip.setEff c a b) := by
  conv in (Chip.setEff c a b) => (unfold Chip.setEff; try dsimp only)
  repeat' (first | with_reducible assumption | with_reducible apply Chip.announceEff_holds | with_reducible apply Chip.setFld_holds | with_reducible apply Chip.sluiceServe_holds | with_reducible refine ite_holds ?_ ?_)
theorem Chip.setGolden_holds (c : Chip) (a : Nat) (b : Golden) (hc : Holds P Q c) : Holds P Q (Chip.setGolden c a b) := by
  conv in (Chip.setGolden c a b) => (unfold Chip.setGolden; try dsimp only)
  repeat' (first | with_reducible assumption | with_reducible apply Chip.setGoldenGroup_holds | with_reducible apply foldl_holds | (refine ⟨?_, ?_⟩ <;> (dsimp only; first | exact trivial | with_reducible apply Chip.Holds.mem (Q := Q) | with_reducible apply Chip.Holds.due (P := P))) | with_reducible intro _)
theorem Chip.setIdle_holds (c : Chip) (a : List Nat) (b : Nat) (hc : Holds P Q c) : Holds P Q (Chip.setIdle c a b) := by
  conv in (Chip.setIdle c a b) => (unfold Chip.setIdle; try dsimp only)
  repeat' (first | with_reducible assumption | with_reducible apply Chip.updPower_holds | with_reducible apply foldl_holds | split | with_reducible intro _)
theorem Chip.setLog_holds (c : Chip) (a : Packet) (hc : Holds P Q c) : Holds P Q (Chip.setLog c a) := by
  conv in (Chip.setLog c a) => (unfold Chip.setLog; try dsimp only)
  repeat' (first | with_reducible assumption | with_reducible apply Chip.setReg_holds | with_reducible apply Chip.updFw_holds | with_reducible refine ite_holds ?_ ?_)
theorem Chip.setTrace_holds (c : Chip) (a : Nat) (b : Nat) (hc : Holds P Q c) : Holds P Q (Chip.setTrace c a b) := by
  conv in (Chip.setTrace c a b) => (unfold Chip.setTrace; try dsimp only)
  repeat' (first | with_reducible assumption | with_reducible apply Chip.setReg_holds | with_reducible apply Chip.updFw_holds)
theorem Chip.settle_holds (c : Chip) (hc : Holds memWf anyDue c) : Holds memWf anyDue (Chip.settle c) := by
  conv in (Chip.settle c) => (unfold Chip.settle; try dsimp only)
  repeat' (first | with_reducible assumption | with_reducible apply Chip.enterSafe_holds | with_reducible apply Chip.event_holds | with_reducible apply foldl_holds | with_reducible refine ite_holds ?_ ?_ | (refine ⟨?_, ?_⟩ <;> (dsimp only; first | exact trivial | with_reducible apply Chip.Holds.mem (Q := anyDue) | with_reducible apply Chip.Holds.due (P := memWf))) | with_reducible intro _)
theorem Chip.shed_holds (c : Chip) (hc : Holds P Q c) : Holds P Q (Chip.shed c) := by
  conv in (Chip.shed c) => (unfold Chip.shed; try dsimp only)
  repeat' (first | with_reducible assumption | with_reducible apply Chip.draw_holds | with_reducible apply Chip.updPower_holds | (refine ⟨?_, ?_⟩ <;> (dsimp only; first | exact trivial | with_reducible apply Chip.Holds.mem (Q := Q) | with_reducible apply Chip.Holds.due (P := P))))
theorem Chip.signalPreempt_holds (c : Chip) (a : Job) (b : Nat) (hc : Holds memWf anyDue c) : Holds memWf anyDue (Chip.signalPreempt c a b) := by
  conv in (Chip.signalPreempt c a b) => (unfold Chip.signalPreempt; try dsimp only)
  repeat' (first | with_reducible assumption | with_reducible apply Chip.finish_holds | with_reducible apply Chip.freeJob_holds | with_reducible apply Chip.giveBack_holds | with_reducible apply Chip.setTileState_holds | with_reducible apply Chip.showJobs_holds | with_reducible apply Chip.stopEngine_holds | with_reducible apply Chip.stopTile_holds | with_reducible apply Chip.updJob_holds | with_reducible apply foldl_holds | with_reducible refine ite_holds ?_ ?_ | split | with_reducible intro _)
theorem Chip.sleepGroup_holds (c : Chip) (a : Nat) (b : Bool) (hc : Holds memWf anyDue c) : Holds memWf anyDue (Chip.sleepGroup c a b) := by
  conv in (Chip.sleepGroup c a b) => (unfold Chip.sleepGroup; try dsimp only)
  repeat' (first | with_reducible assumption | with_reducible apply Chip.giveBack_holds | with_reducible apply Chip.groupLost_holds | with_reducible apply Chip.setFld_holds | with_reducible apply Chip.updPower_holds | with_reducible refine ite_holds ?_ ?_)
theorem Chip.sliceOver_holds (c : Chip) (a : Nat) (hc : Holds P Q c) : Holds P Q (Chip.sliceOver c a) := by
  conv in (Chip.sliceOver c a) => (unfold Chip.sliceOver; try dsimp only)
  repeat' (first | with_reducible assumption | with_reducible apply Chip.leaveSlice_holds | with_reducible apply Chip.setFld_holds | with_reducible apply Chip.updTest_holds)
theorem Chip.spiRead_holds (c : Chip) (a : FuseStream) (hc : Holds P Q c) : Holds P Q (Chip.spiRead c a) := by
  conv in (Chip.spiRead c a) => (unfold Chip.spiRead; try dsimp only)
  repeat' (first | with_reducible assumption | with_reducible apply Chip.send_holds)
theorem Chip.stageList_holds (c : Chip) (a : Packet) (hc : Holds memWf anyDue c) : Holds memWf anyDue (Chip.stageList c a).2.2 := by
  conv in (Chip.stageList c a) => (unfold Chip.stageList; try dsimp only)
  repeat' (first | with_reducible assumption | with_reducible apply Chip.loadRange_holds)
theorem Chip.startBlock_holds (c : Chip) (a : Nat) (b : AleRing) (hc : Holds P Q c) : Holds P Q (Chip.startBlock c a b) := by
  conv in (Chip.startBlock c a b) => (unfold Chip.startBlock; try dsimp only)
  repeat' (first | with_reducible assumption | with_reducible apply Chip.count_holds | with_reducible apply Chip.updRing_holds | with_reducible refine ite_holds ?_ ?_)
theorem Chip.startBlocks_holds (c : Chip) (a : Nat) (hc : Holds P Q c) : Holds P Q (Chip.startBlocks c a) := by
  conv in (Chip.startBlocks c a) => (unfold Chip.startBlocks; try dsimp only)
  repeat' (first | with_reducible assumption | with_reducible apply Chip.showPending_holds | with_reducible apply Chip.updPower_holds)
theorem Chip.startDesc_holds (c : Chip) (a : Nat) (b : Nat) (e : List Byte) (hc : Holds P Q c) : Holds P Q (Chip.startDesc c a b e) := by
  conv in (Chip.startDesc c a b e) => (unfold Chip.startDesc; try dsimp only)
  repeat' (first | with_reducible assumption | with_reducible apply Chip.changeRill_holds | with_reducible apply Chip.updTile_holds | split)
theorem Chip.startFills_holds (c : Chip) (a : DramReq) (hc : Holds P Q c) : Holds P Q (Chip.startFills c a) := by
  conv in (Chip.startFills c a) => (unfold Chip.startFills; try dsimp only)
  repeat' (first | with_reducible assumption | (refine ⟨?_, ?_⟩ <;> (dsimp only; first | exact trivial | with_reducible apply Chip.Holds.mem (Q := Q) | with_reducible apply Chip.Holds.due (P := P))) | split)
theorem Chip.startNet_holds (c : Chip) (hc : Holds memWf anyDue c) : Holds memWf anyDue (Chip.startNet c) := by
  conv in (Chip.startNet c) => (unfold Chip.startNet; try dsimp only)
  repeat' (first | with_reducible assumption | with_reducible apply Chip.loadSwitch_holds | with_reducible apply Chip.ptpStart_holds | with_reducible apply Chip.setFld_holds | with_reducible apply foldl_holds | with_reducible intro _)
theorem Chip.startPacket_holds (c : Chip) (a : Packet) (hc : Holds P Q c) : Holds P Q (Chip.startPacket c a) := by
  conv in (Chip.startPacket c a) => (unfold Chip.startPacket; try dsimp only)
  repeat' (first | with_reducible assumption | (refine ⟨?_, ?_⟩ <;> (dsimp only; first | exact trivial | with_reducible apply Chip.Holds.mem (Q := Q) | with_reducible apply Chip.Holds.due (P := P))))
theorem Chip.startPins_holds (c : Chip) (hc : Holds P Q c) : Holds P Q (Chip.startPins c) := by
  conv in (Chip.startPins c) => (unfold Chip.startPins; try dsimp only)
  repeat' (first | with_reducible assumption | with_reducible apply Chip.setReg_holds)
theorem Chip.startPorts_holds (c : Chip) (hc : Holds P Q c) : Holds P Q (Chip.startPorts c) := by
  conv in (Chip.startPorts c) => (unfold Chip.startPorts; try dsimp only)
  repeat' (first | with_reducible assumption | with_reducible apply Chip.setFld_holds)
theorem Chip.startSafety_holds (c : Chip) (hc : Holds memWf anyDue c) : Holds memWf anyDue (Chip.startSafety c) := by
  conv in (Chip.startSafety c) => (unfold Chip.startSafety; try dsimp only)
  repeat' (first | with_reducible assumption | with_reducible apply Chip.applySafety_holds | with_reducible apply foldl_holds | with_reducible intro _)
theorem Chip.startServices_holds (c : Chip) (hc : Holds P Q c) : Holds P Q (Chip.startServices c) := by
  conv in (Chip.startServices c) => (unfold Chip.startServices; try dsimp only)
  repeat' (first | with_reducible assumption | with_reducible apply Chip.showServices_holds | with_reducible apply Chip.updFw_holds)
theorem Chip.startSlices_holds (c : Chip) (hc : Holds memWf anyDue c) : Holds memWf anyDue (Chip.startSlices c).1 := by
  conv in (Chip.startSlices c) => (unfold Chip.startSlices; try dsimp only)
  repeat' (first | with_reducible assumption | with_reducible apply Chip.createSlice_holds | with_reducible apply Chip.dropSlices_holds | with_reducible apply Chip.mcRegs_holds | with_reducible apply foldl_holds | with_reducible apply foldl_fst | split | with_reducible intro _)
theorem Chip.startSluice_holds (c : Chip) (hc : Holds P Q c) : Holds P Q (Chip.startSluice c) := by
  conv in (Chip.startSluice c) => (unfold Chip.startSluice; try dsimp only)
  repeat' (first | with_reducible assumption | with_reducible apply Chip.setFld_holds | with_reducible apply Chip.sluiceRegs_holds | with_reducible apply Chip.updPower_holds | (refine ⟨?_, ?_⟩ <;> (dsimp only; first | exact trivial | with_reducible apply Chip.Holds.mem (Q := Q) | with_reducible apply Chip.Holds.due (P := P))))
theorem Chip.startStep1_holds (c : Chip) (a : Nat) (b : Bool) (hc : Holds P Q c) : Holds P Q (Chip.startStep1 c a b) := by
  conv in (Chip.startStep1 c a b) => (unfold Chip.startStep1; try dsimp only)
  repeat' (first | with_reducible assumption | with_reducible apply Chip.setFld_holds | with_reducible apply Chip.updPower_holds)
theorem Chip.startTables_holds (c : Chip) (hc : Holds P Q c) : Holds P Q (Chip.startTables c) := by
  conv in (Chip.startTables c) => (unfold Chip.startTables; try dsimp only)
  repeat' (first | with_reducible assumption | with_reducible apply accTableWrite_holds | with_reducible apply foldl_holds | with_reducible intro _)
theorem Chip.startStep11_holds (c : Chip) (hc : Holds memWf anyDue c) : Holds memWf anyDue (Chip.startStep11 c).1 := by
  conv in (Chip.startStep11 c) => (unfold Chip.startStep11; try dsimp only)
  repeat' (first | with_reducible assumption | with_reducible apply Chip.drainLinks_holds | with_reducible apply Chip.setFld_holds | with_reducible apply Chip.setReg_holds | with_reducible apply Chip.startNet_holds | with_reducible apply Chip.startPins_holds | with_reducible apply Chip.startPorts_holds | with_reducible apply Chip.startSafety_holds | with_reducible apply Chip.startServices_holds | with_reducible apply Chip.startSlices_holds | with_reducible apply Chip.startSluice_holds | with_reducible apply Chip.startTables_holds | with_reducible apply foldl_holds)
theorem Chip.startStep16_holds (c : Chip) (a : Bool) (b : Bool) (hc : Holds memWf anyDue c) : Holds memWf anyDue (Chip.startStep16 c a b) := by
  conv in (Chip.startStep16 c a b) => (unfold Chip.startStep16; try dsimp only)
  repeat' (first | with_reducible assumption | with_reducible apply Chip.error_holds | with_reducible apply Chip.event_holds | with_reducible apply Chip.setFld_holds | with_reducible apply Chip.updPower_holds | with_reducible apply foldl_holds | with_reducible intro _)
theorem Chip.stepTime_holds (c : Chip) (a : Nat) (b : Int) (hc : Holds memWf anyDue c) : Holds memWf anyDue (Chip.stepTime c a b) := by
  conv in (Chip.stepTime c a b) => (unfold Chip.stepTime; try dsimp only)
  repeat' (first | with_reducible assumption | with_reducible apply Chip.netRecord_holds | with_reducible apply Chip.setFld_holds | with_reducible apply Chip.setOutput_holds | with_reducible apply Chip.setReg_holds | with_reducible apply Chip.updNet_holds | with_reducible apply foldl_holds | with_reducible refine ite_holds ?_ ?_ | (refine ⟨?_, ?_⟩ <;> (dsimp only; first | exact trivial | with_reducible apply Chip.Holds.mem (Q := anyDue) | with_reducible apply Chip.Holds.due (P := memWf))) | split | with_reducible intro _)
theorem Chip.stopBlock_holds (c : Chip) (a : Packet) (b : Nat) (hc : Holds memWf anyDue c) : Holds memWf anyDue (Chip.stopBlock c a b) := by
  conv in (Chip.stopBlock c a b) => (unfold Chip.stopBlock; try dsimp only)
  repeat' (first | with_reducible assumption | with_reducible apply Chip.error_holds | with_reducible apply Chip.setFld_holds | with_reducible apply Chip.updPower_holds | with_reducible refine ite_holds ?_ ?_)
theorem Chip.stopBlocks_holds (c : Chip) (a : Packet) (b : Nat) (hc : Holds memWf anyDue c) : Holds memWf anyDue (Chip.stopBlocks c a b) := by
  conv in (Chip.stopBlocks c a b) => (unfold Chip.stopBlocks; try dsimp only)
  repeat' (first | with_reducible assumption | with_reducible apply Chip.stopBlock_holds | with_reducible apply foldl_holds | with_reducible intro _)
theorem Chip.streamBad_holds (c : Chip) (a : Nat) (b : Nat) (hc : Holds memWf anyDue c) : Holds memWf anyDue (Chip.streamBad c a b) := by
  conv in (Chip.streamBad c a b) => (unfold Chip.streamBad; try dsimp only)
  repeat' (first | with_reducible assumption | with_reducible apply Chip.count_holds | with_reducible apply Chip.streamEvent_holds)
theorem Chip.streamFor_holds (c : Chip) (a : Nat) (hc : Holds P Q c) : Holds P Q (Chip.streamFor c a) := by
  conv in (Chip.streamFor c a) => (unfold Chip.streamFor; try dsimp only)
  repeat' (first | with_reducible assumption | (refine ⟨?_, ?_⟩ <;> (dsimp only; first | exact trivial | with_reducible apply Chip.Holds.mem (Q := Q) | with_reducible apply Chip.Holds.due (P := P))))
theorem Chip.switchImage_holds (c : Chip) (a : Option (List Byte)) (hc : Holds memWf anyDue c) : Holds memWf anyDue (Chip.switchImage c a) := by
  conv in (Chip.switchImage c a) => (unfold Chip.switchImage; try dsimp only)
  repeat' (first | with_reducible assumption | with_reducible apply Chip.loadSwitch_holds | with_reducible apply Chip.ptpStart_holds | with_reducible refine ite_holds ?_ ?_ | split)
theorem Chip.switchNow_holds (c : Chip) (a : Switch) (b : Staged) (hc : Holds memWf anyDue c) : Holds memWf anyDue (Chip.switchNow c a b) := by
  conv in (Chip.switchNow c a b) => (unfold Chip.switchNow; try dsimp only)
  repeat' (first | with_reducible assumption | with_reducible apply Chip.applySafety_holds | with_reducible apply Chip.event_holds | with_reducible apply Chip.setConfig_holds | with_reducible apply Chip.showDomain_holds | with_reducible apply Chip.switchImage_holds | with_reducible apply Chip.updDomain_holds | with_reducible apply foldl_holds | with_reducible refine ite_holds ?_ ?_ | with_reducible intro _)
theorem Chip.syncDrawn_holds (c : Chip) (hc : Holds P Q c) : Holds P Q (Chip.syncDrawn c) := by
  conv in (Chip.syncDrawn c) => (unfold Chip.syncDrawn; try dsimp only)
  repeat' (first | with_reducible assumption | with_reducible apply Chip.draw_holds | with_reducible refine ite_holds ?_ ?_)
theorem Chip.syncJudged_holds (c : Chip) (a : Int) (hc : Holds P Q c) : Holds P Q (Chip.syncJudged c a) := by
  conv in (Chip.syncJudged c a) => (unfold Chip.syncJudged; try dsimp only)
  repeat' (first | with_reducible assumption | with_reducible apply Chip.setQuality_holds | with_reducible apply Chip.updNet_holds | with_reducible refine ite_holds ?_ ?_)
theorem Chip.syncMeasured_holds (c : Chip) (a : Nat) (b : Nat) (e : Nat) (f : Nat) (g : Nat) (i : Int) (hc : Holds P Q c) : Holds P Q (Chip.syncMeasured c a b e f g i) := by
  conv in (Chip.syncMeasured c a b e f g i) => (unfold Chip.syncMeasured; try dsimp only)
  repeat' (first | with_reducible assumption | with_reducible apply Chip.draw_holds | with_reducible apply Chip.setReg_holds | with_reducible apply Chip.updNet_holds)
theorem Chip.tagPrefetch_holds (c : Chip) (a : Nat) (b : Nat) (hc : Holds P Q c) : Holds P Q (Chip.tagPrefetch c a b) := by
  conv in (Chip.tagPrefetch c a b) => (unfold Chip.tagPrefetch; try dsimp only)
  repeat' (first | with_reducible assumption | with_reducible refine ite_holds ?_ ?_ | (refine ⟨?_, ?_⟩ <;> (dsimp only; first | exact trivial | with_reducible apply Chip.Holds.mem (Q := Q) | with_reducible apply Chip.Holds.due (P := P))))
theorem Chip.takeCores_holds (c : Chip) (a : Pass) (b : Pass) (hc : Holds P Q c) : Holds P Q (Chip.takeCores c a b) := by
  conv in (Chip.takeCores c a b) => (unfold Chip.takeCores; try dsimp only)
  repeat' (first | with_reducible assumption | with_reducible apply Chip.count_holds | with_reducible apply Chip.showGfx_holds | with_reducible apply Chip.updPass_holds | (refine ⟨?_, ?_⟩ <;> (dsimp only; first | exact trivial | with_reducible apply Chip.Holds.mem (Q := Q) | with_reducible apply Chip.Holds.due (P := P))))
theorem Chip.undistort_holds (c : Chip) (a : FuseStream) (b : FuseFrame) (hc : Holds memWf anyDue c) : Holds memWf anyDue (Chip.undistort c a b) := by
  conv in (Chip.undistort c a b) => (unfold Chip.undistort; try dsimp only)
  repeat' (first | with_reducible assumption | with_reducible apply Chip.cflRead_holds | with_reducible apply Chip.cflWrite_holds | with_reducible apply foldl_holds | split | with_reducible intro _)
theorem Chip.takeRow_holds (c : Chip) (a : Nat) (b : FuseStream) (e : FuseFrame) (f : Nat) (g : List Byte) (hc : Holds memWf anyDue c) : Holds memWf anyDue (Chip.takeRow c a b e f g) := by
  conv in (Chip.takeRow c a b e f g) => (unfold Chip.takeRow; try dsimp only)
  repeat' (first | with_reducible assumption | with_reducible apply Chip.cflWrite_holds | with_reducible apply Chip.undistort_holds | with_reducible apply Chip.updFrame_holds | with_reducible refine ite_holds ?_ ?_)
theorem Chip.testPeriod_holds (c : Chip) (hc : Holds P Q c) : Holds P Q (Chip.testPeriod c) := by
  conv in (Chip.testPeriod c) => (unfold Chip.testPeriod; try dsimp only)
  repeat' (first | with_reducible assumption | with_reducible apply Chip.setFld_holds | with_reducible apply Chip.setReg_holds | with_reducible apply Chip.updTest_holds | with_reducible apply foldl_holds | with_reducible refine ite_holds ?_ ?_ | split | with_reducible intro _)
theorem Chip.thermal_holds (c : Chip) (hc : Holds memWf anyDue c) : Holds memWf anyDue (Chip.thermal c) := by
  conv in (Chip.thermal c) => (unfold Chip.thermal; try dsimp only)
  repeat' (first | with_reducible assumption | with_reducible apply Chip.emergencyOver_holds | with_reducible apply Chip.mayThrottle_holds | with_reducible apply Chip.setFld_holds | with_reducible apply Chip.updPower_holds | with_reducible refine ite_holds ?_ ?_)
theorem Chip.tileFailed_holds (c : Chip) (a : Nat) (b : Nat) (hc : Holds memWf anyDue c) : Holds memWf anyDue (Chip.tileFailed c a b) := by
  conv in (Chip.tileFailed c a b) => (unfold Chip.tileFailed; try dsimp only)
  repeat' (first | with_reducible assumption | with_reducible apply Chip.count_holds | with_reducible apply Chip.enterSafeMask_holds | with_reducible apply Chip.errorOpen_holds | with_reducible apply Chip.event_holds | with_reducible apply Chip.setFld_holds)
theorem Chip.tileNan_holds (c : Chip) (a : Nat) (b : Bool) (hc : Holds P Q c) : Holds P Q (Chip.tileNan c a b) := by
  conv in (Chip.tileNan c a b) => (unfold Chip.tileNan; try dsimp only)
  repeat' (first | with_reducible assumption | with_reducible apply Chip.setFld_holds | with_reducible refine ite_holds ?_ ?_)
theorem Chip.tilePassed_holds (c : Chip) (a : Nat) (b : Bool) (hc : Holds P Q c) : Holds P Q (Chip.tilePassed c a b) := by
  conv in (Chip.tilePassed c a b) => (unfold Chip.tilePassed; try dsimp only)
  repeat' (first | with_reducible assumption | with_reducible apply Chip.count_holds | with_reducible apply Chip.setFld_holds | with_reducible apply Chip.setReg_holds | with_reducible refine ite_holds ?_ ?_)
theorem Chip.tileSat_holds (c : Chip) (a : Nat) (b : Nat) (hc : Holds P Q c) : Holds P Q (Chip.tileSat c a b) := by
  conv in (Chip.tileSat c a b) => (unfold Chip.tileSat; try dsimp only)
  repeat' (first | with_reducible assumption | with_reducible apply Chip.setFld_holds | with_reducible apply Chip.tileCount_holds | with_reducible refine ite_holds ?_ ?_)
theorem Chip.trackCycle_holds (c : Chip) (a : Tracker) (b : Nat) (e : List Contrib) (f : List (Contrib × Pose)) (g : Pose) (hc : Holds memWf anyDue c) : Holds memWf anyDue (Chip.trackCycle c a b e f g) := by
  conv in (Chip.trackCycle c a b e f g) => (unfold Chip.trackCycle; try dsimp only)
  repeat' (first | with_reducible assumption | with_reducible apply Chip.runTracker_holds | with_reducible apply Chip.takeInputs_holds)
theorem Chip.tryLeave_holds (c : Chip) (a : Packet) (b : Bool) (hc : Holds memWf anyDue c) : Holds memWf anyDue (Chip.tryLeave c a b) := by
  conv in (Chip.tryLeave c a b) => (unfold Chip.tryLeave; try dsimp only)
  repeat' (first | with_reducible assumption | with_reducible apply Chip.finish_holds | with_reducible apply Chip.leave_holds | with_reducible refine ite_holds ?_ ?_)
theorem Chip.twinUp_holds (c : Chip) (a : Nat) (hc : Holds P Q c) : Holds P Q (Chip.twinUp c a) := by
  conv in (Chip.twinUp c a) => (unfold Chip.twinUp; try dsimp only)
  repeat' (first | with_reducible assumption | with_reducible apply Chip.setFld_holds)
theorem Chip.unbindPolicy_holds (c : Chip) (a : Nat) (b : Nat) (hc : Holds P Q c) : Holds P Q (Chip.unbindPolicy c a b) := by
  conv in (Chip.unbindPolicy c a b) => (unfold Chip.unbindPolicy; try dsimp only)
  repeat' (first | with_reducible assumption | with_reducible apply Chip.setReg_holds | (refine ⟨?_, ?_⟩ <;> (dsimp only; first | exact trivial | with_reducible apply Chip.Holds.mem (Q := Q) | with_reducible apply Chip.Holds.due (P := P))) | split)
theorem Chip.unpost_holds (c : Chip) (a : Req) (hc : Holds P Q c) : Holds P Q (Chip.unpost c a) := by
  conv in (Chip.unpost c a) => (unfold Chip.unpost; try dsimp only)
  repeat' (first | with_reducible assumption | (refine ⟨?_, ?_⟩ <;> (dsimp only; first | exact trivial | with_reducible apply Chip.Holds.mem (Q := Q) | with_reducible apply Chip.Holds.due (P := P))))
theorem Chip.updDestroy_holds (c : Chip) (a : Nat) (b : Destroy → Destroy) (hc : Holds P Q c) : Holds P Q (Chip.updDestroy c a b) := by
  conv in (Chip.updDestroy c a b) => (unfold Chip.updDestroy; try dsimp only)
  repeat' (first | with_reducible assumption | (refine ⟨?_, ?_⟩ <;> (dsimp only; first | exact trivial | with_reducible apply Chip.Holds.mem (Q := Q) | with_reducible apply Chip.Holds.due (P := P))))
theorem Chip.updDrains_holds (c : Chip) (a : Drain → Drain) (hc : Holds P Q c) : Holds P Q (Chip.updDrains c a) := by
  conv in (Chip.updDrains c a) => (unfold Chip.updDrains; try dsimp only)
  repeat' (first | with_reducible assumption | (refine ⟨?_, ?_⟩ <;> (dsimp only; first | exact trivial | with_reducible apply Chip.Holds.mem (Q := Q) | with_reducible apply Chip.Holds.due (P := P))))
theorem Chip.waitFill_holds (c : Chip) (a : Fill) (b : DramReq) (hc : Holds P Q c) : Holds P Q (Chip.waitFill c a b) := by
  conv in (Chip.waitFill c a b) => (unfold Chip.waitFill; try dsimp only)
  repeat' (first | with_reducible assumption | (refine ⟨?_, ?_⟩ <;> (dsimp only; first | exact trivial | with_reducible apply Chip.Holds.mem (Q := Q) | with_reducible apply Chip.Holds.due (P := P))))
theorem Chip.wakeFor_holds (c : Chip) (a : Nat) (hc : Holds P Q c) : Holds P Q (Chip.wakeFor c a) := by
  conv in (Chip.wakeFor c a) => (unfold Chip.wakeFor; try dsimp only)
  repeat' (first | with_reducible assumption | with_reducible apply Chip.ask_holds | with_reducible refine ite_holds ?_ ?_)
theorem Chip.wdtRecord_holds (c : Chip) (hc : Holds memWf anyDue c) : Holds memWf anyDue (Chip.wdtRecord c) := by
  conv in (Chip.wdtRecord c) => (unfold Chip.wdtRecord; try dsimp only)
  repeat' (first | with_reducible assumption | with_reducible apply Chip.secRecord_holds | with_reducible refine ite_holds ?_ ?_)
theorem Chip.weirAgrees_holds (c : Chip) (a : Job) (b : Output) (e : Verdict) (f : Nat) (hc : Holds memWf anyDue c) : Holds memWf anyDue (Chip.weirAgrees c a b e f) := by
  conv in (Chip.weirAgrees c a b e f) => (unfold Chip.weirAgrees; try dsimp only)
  repeat' (first | with_reducible assumption | with_reducible apply Chip.endDiverse_holds | with_reducible apply Chip.publishJob_holds)
theorem Chip.weirDisagrees_holds (c : Chip) (a : Job) (b : Nat) (e : Verdict) (f : Nat) (g : Nat) (hc : Holds memWf anyDue c) : Holds memWf anyDue (Chip.weirDisagrees c a b e f g) := by
  conv in (Chip.weirDisagrees c a b e f g) => (unfold Chip.weirDisagrees; try dsimp only)
  repeat' (first | with_reducible assumption | with_reducible apply Chip.endDiverse_holds | with_reducible apply Chip.outputFault_holds | with_reducible apply Chip.publishJob_holds)
theorem Chip.weirNext_holds (c : Chip) (a : List Nat) (hc : Holds P Q c) : Holds P Q (Chip.weirNext c a) := by
  conv in (Chip.weirNext c a) => (unfold Chip.weirNext; try dsimp only)
  repeat' (first | with_reducible assumption | with_reducible apply Chip.showWeir_holds | (refine ⟨?_, ?_⟩ <;> (dsimp only; first | exact trivial | with_reducible apply Chip.Holds.mem (Q := Q) | with_reducible apply Chip.Holds.due (P := P))))
theorem Chip.weirTensors_holds (c : Chip) (a : Nat) (b : Chan) (e : Chan) (f : Bool) (g : List (Nat × List Byte)) (i : Verdict) (hc : Holds memWf anyDue c) : Holds memWf anyDue (Chip.weirTensors c a b e f g i).2.2 := by
  induction g generalizing c a b e f i with
  | nil =>
    conv in Chip.weirTensors _ _ _ _ _ _ _ => (unfold Chip.weirTensors; try dsimp only)
    repeat' (first | with_reducible assumption | fail | with_reducible apply Chip.count_holds | with_reducible apply Chip.loadRange_holds | with_reducible refine of_snd2 (by assumption) ?_ | with_reducible refine ite_snd2 ?_ ?_ | (with_reducible refine has_snd2 rfl ?_; first | with_reducible assumption | fail | with_reducible apply Chip.count_holds | with_reducible apply Chip.loadRange_holds | with_reducible refine of_snd2 (by assumption) ?_ | with_reducible refine ite_snd2 ?_ ?_) | (with_reducible refine has_snd rfl ?_; first | with_reducible assumption | fail | with_reducible apply Chip.count_holds | with_reducible apply Chip.loadRange_holds | with_reducible refine of_snd2 (by assumption) ?_ | with_reducible refine ite_snd2 ?_ ?_) | split)
  | cons x l ih =>
    conv in Chip.weirTensors _ _ _ _ _ _ _ => (unfold Chip.weirTensors; try dsimp only)
    repeat' (first | with_reducible assumption | with_reducible apply ih | with_reducible apply Chip.count_holds | with_reducible apply Chip.loadRange_holds | with_reducible refine of_snd2 (by assumption) ?_ | with_reducible refine ite_snd2 ?_ ?_ | (with_reducible refine has_snd2 rfl ?_; first | with_reducible assumption | with_reducible apply ih | with_reducible apply Chip.count_holds | with_reducible apply Chip.loadRange_holds | with_reducible refine of_snd2 (by assumption) ?_ | with_reducible refine ite_snd2 ?_ ?_) | (with_reducible refine has_snd rfl ?_; first | with_reducible assumption | with_reducible apply ih | with_reducible apply Chip.count_holds | with_reducible apply Chip.loadRange_holds | with_reducible refine of_snd2 (by assumption) ?_ | with_reducible refine ite_snd2 ?_ ?_) | split)
theorem Chip.wheelFrame_holds (c : Chip) (a : Nat) (b : Nat) (e : List Byte) (hc : Holds memWf anyDue c) : Holds memWf anyDue (Chip.wheelFrame c a b e) := by
  conv in (Chip.wheelFrame c a b e) => (unfold Chip.wheelFrame; try dsimp only)
  repeat' (first | with_reducible assumption | with_reducible apply Chip.contribute_holds | with_reducible apply Chip.publishL0_holds | with_reducible refine ite_holds ?_ ?_ | split)
theorem Chip.wheelFrames_holds (c : Chip) (a : Nat) (b : Nat) (e : Nat) (f : List Byte) (hc : Holds memWf anyDue c) : Holds memWf anyDue (Chip.wheelFrames c a b e f) := by
  conv in (Chip.wheelFrames c a b e f) => (unfold Chip.wheelFrames; try dsimp only)
  repeat' (first | with_reducible assumption | with_reducible apply Chip.wheelFrame_holds | with_reducible apply foldl_holds | with_reducible intro _)
theorem Chip.withCopyUnits_holds (c : Chip) (a : Packet) (b : Nat) (e : Chip → Chip) (hc : Holds P Q c) (he : ∀ (z0 : Chip), Holds P Q z0 → Holds P Q (e z0)) : Holds P Q (Chip.withCopyUnits c a b e) := by
  conv in (Chip.withCopyUnits c a b e) => (unfold Chip.withCopyUnits; try dsimp only)
  repeat' (first | with_reducible assumption | with_reducible apply he | with_reducible apply Chip.ask_holds | with_reducible refine ite_holds ?_ ?_)
theorem EngM.need_holds (a : Bool) (b : Nat)  : TileM.Keeps P Q (EngM.need a b) := by
  conv in (EngM.need a b) => (unfold EngM.need; try dsimp only)
  repeat' (first | with_reducible apply EngM.fault_holds | with_reducible apply EngM.fault_holds | with_reducible apply TileM.Keeps.pure | split)
theorem Part.gateStatus_holds (p : Part) (a : Nat) (b : Nat) (e : Nat) (hp : Holds P Q p.chip) : Holds P Q (Part.gateStatus p a b e).chip := by
  conv in (Part.gateStatus p a b e) => (unfold Part.gateStatus; try dsimp only)
  repeat' (first | with_reducible assumption | with_reducible apply Chip.mailboxReply_holds | with_reducible refine ite_part ?_ ?_ | (with_reducible refine has_chip rfl ?_; first | with_reducible assumption | with_reducible apply Chip.mailboxReply_holds | with_reducible refine ite_part ?_ ?_ | (refine ⟨?_, ?_⟩ <;> (dsimp only; first | exact trivial | with_reducible apply Chip.Holds.mem (Q := Q) | with_reducible apply Chip.Holds.due (P := P)))) | (refine ⟨?_, ?_⟩ <;> (dsimp only; first | exact trivial | with_reducible apply Chip.Holds.mem (Q := Q) | with_reducible apply Chip.Holds.due (P := P))))
theorem Part.gateReply_holds (p : Part) (a : GateReq) (b : Nat) (hp : Holds P Q p.chip) : Holds P Q (Part.gateReply p a b).chip := by
  conv in (Part.gateReply p a b) => (unfold Part.gateReply; try dsimp only)
  repeat' (first | with_reducible assumption | with_reducible apply Part.gateStatus_holds | with_reducible refine ite_part ?_ ?_)
theorem Part.paramDenied_holds (p : Part) (a : GateReq) (b : Nat) (hp : Holds memWf anyDue p.chip) : Holds memWf anyDue (Part.paramDenied p a b).chip := by
  conv in (Part.paramDenied p a b) => (unfold Part.paramDenied; try dsimp only)
  repeat' (first | with_reducible assumption | with_reducible apply Chip.secRecord_holds)
theorem servedGate_holds (p : Part) (a : GateReq) (b : Nat) (e : Served) (hp : Holds memWf anyDue p.chip) : Holds memWf anyDue (servedGate p a b e).2.chip := by
  conv in (servedGate p a b e) => (unfold servedGate; try dsimp only)
  repeat' (first | with_reducible assumption | with_reducible apply Part.paramDenied_holds | (with_reducible refine has_chip rfl ?_; first | with_reducible assumption | with_reducible apply Part.paramDenied_holds) | split)
theorem Part.gateDone_holds (p : Part) (a : GateReq) (b : List Byte) (e : Nat) (hp : Holds memWf anyDue p.chip) : Holds memWf anyDue (Part.gateDone p a b e).chip := by
  conv in (Part.gateDone p a b e) => (unfold Part.gateDone; try dsimp only)
  repeat' (first | with_reducible assumption | with_reducible apply Chip.saveRange_holds | with_reducible apply Part.gateReply_holds | with_reducible apply servedGate_holds | (with_reducible refine has_chip rfl ?_; first | with_reducible assumption | with_reducible apply Chip.saveRange_holds | with_reducible apply Part.gateReply_holds | with_reducible apply servedGate_holds) | split)
theorem GateReq.ended_holds (a : GateReq) (b : List Byte) (e : GateEnd × Part) (he : Holds memWf anyDue e.2.chip) : Holds memWf anyDue (GateReq.ended a b e).chip := by
  conv in (GateReq.ended a b e) => (unfold GateReq.ended; try dsimp only)
  repeat' (first | with_reducible assumption | with_reducible apply Part.gateDone_holds | (with_reducible refine has_chip rfl ?_; first | with_reducible assumption | with_reducible apply Part.gateDone_holds) | split)
theorem dceLfsrWrite_holds (a : Nat) (b : Nat) (e : Nat) (f : Nat) (g : Nat) (c : Chip) (hc : Holds memWf anyDue c) : Holds memWf anyDue (dceLfsrWrite a b e f g c) := by
  conv in (dceLfsrWrite a b e f g c) => (unfold dceLfsrWrite; try dsimp only)
  repeat' (first | with_reducible assumption | with_reducible apply Chip.denied_holds | with_reducible apply Chip.setReg_holds | with_reducible refine ite_holds ?_ ?_)
theorem jobAbort_holds (a : Nat) (c : Chip) (hc : Holds memWf anyDue c) : Holds memWf anyDue (jobAbort a c) := by
  conv in (jobAbort a c) => (unfold jobAbort; try dsimp only)
  repeat' (first | with_reducible assumption | with_reducible apply Chip.abortJob_holds | with_reducible apply Chip.finish_holds | with_reducible apply Chip.onPacket_holds | split | with_reducible intro _)
theorem Part.mbxGo_holds (p : Part) (a : Nat) (b : Nat) (e : Part → Part) (hp : Holds P Q p.chip) (he : ∀ (z0 : Part), Holds P Q z0.chip → Holds P Q (e z0).chip) : Holds P Q (Part.mbxGo p a b e).chip := by
  conv in (Part.mbxGo p a b e) => (unfold Part.mbxGo; try dsimp only)
  repeat' (first | with_reducible assumption | with_reducible apply he | with_reducible apply Chip.count_holds | with_reducible apply Chip.mbxBusy_holds | with_reducible refine ite_part ?_ ?_)
theorem mbxArgs_holds (a : Nat) (b : Nat) (e : Nat) (f : Nat) (g : Chip → List Byte) (i : Nat → Chip → Chip) (p : Part) (hi : ∀ (z0 : Nat) (z1 : Chip), Holds memWf anyDue z1 → Holds memWf anyDue (i z0 z1)) (hp : Holds memWf anyDue p.chip) : Holds memWf anyDue (mbxArgs a b e f g i p).chip := by
  conv in (mbxArgs a b e f g i p) => (unfold mbxArgs; try dsimp only)
  repeat' (first | with_reducible assumption | with_reducible apply Chip.mbxPacket_holds | with_reducible apply Part.mbxGo_holds | with_reducible refine ite_part ?_ ?_ | with_reducible intro _)
theorem mbxAbort_holds (a : Nat) (p : Part) (hp : Holds memWf anyDue p.chip) : Holds memWf anyDue (mbxAbort a p).chip := by
  conv in (mbxAbort a p) => (unfold mbxAbort; try dsimp only)
  repeat' (first | with_reducible assumption | with_reducible apply jobAbort_holds | with_reducible apply mbxArgs_holds)
theorem Part.signedReport_holds (p : Part) (a : List Byte) (hp : Holds P Q p.chip) : Holds P Q (Part.signedReport p a).2.chip := by
  conv in (Part.signedReport p a) => (unfold Part.signedReport; try dsimp only)
  repeat' (first | with_reducible assumption | (with_reducible refine has_chip rfl ?_; first | with_reducible assumption | (refine ⟨?_, ?_⟩ <;> (dsimp only; first | exact trivial | with_reducible apply Chip.Holds.mem (Q := Q) | with_reducible apply Chip.Holds.due (P := P)))) | (refine ⟨?_, ?_⟩ <;> (dsimp only; first | exact trivial | with_reducible apply Chip.Holds.mem (Q := Q) | with_reducible apply Chip.Holds.due (P := P))))
theorem entryAttest_holds (a : GateReq) (b : List Byte) (p : Part) (hp : Holds memWf anyDue p.chip) : Holds memWf anyDue (entryAttest a b p).2.chip := by
  conv in (entryAttest a b p) => (unfold entryAttest; try dsimp only)
  repeat' (first | with_reducible assumption | with_reducible apply Chip.saveRange_holds | with_reducible apply Part.signedReport_holds | with_reducible apply servedGate_holds)
theorem entryChallenge_holds (a : GateReq) (b : List Byte) (p : Part) (hp : Holds P Q p.chip) : Holds P Q (entryChallenge a b p).2.chip := by
  conv in (entryChallenge a b p) => (unfold entryChallenge; try dsimp only)
  repeat' (first | with_reducible assumption | with_reducible apply Chip.drawBytes_holds)
theorem entryContent_holds (a : GateReq) (b : List Byte) (p : Part) (hp : Holds P Q p.chip) : Holds P Q (entryContent a b p).2.chip := by
  conv in (entryContent a b p) => (unfold entryContent; try dsimp only)
  repeat' (first | with_reducible assumption | with_reducible apply Chip.draw_holds | (with_reducible refine has_chip rfl ?_; first | with_reducible assumption | with_reducible apply Chip.draw_holds) | split)
theorem Part.showSec_holds (p : Part) (hp : Holds P Q p.chip) : Holds P Q (Part.showSec p).chip := by
  conv in (Part.showSec p) => (unfold Part.showSec; try dsimp only)
  repeat' (first | with_reducible assumption | with_reducible apply Chip.setFld_holds | with_reducible apply Chip.setReg_holds)
theorem entryDebugClose_holds (a : GateReq) (b : List Byte) (p : Part) (hp : Holds P Q p.chip) : Holds P Q (entryDebugClose a b p).2.chip := by
  conv in (entryDebugClose a b p) => (unfold entryDebugClose; try dsimp only)
  repeat' (first | with_reducible assumption | with_reducible apply Part.showSec_holds | (with_reducible refine has_chip rfl ?_; first | with_reducible assumption | with_reducible apply Part.showSec_holds) | split)
theorem Part.openDebug_holds (p : Part) (a : GateReq) (b : Nat) (e : Nat) (f : Nat) (hp : Holds memWf anyDue p.chip) : Holds memWf anyDue (Part.openDebug p a b e f).chip := by
  conv in (Part.openDebug p a b e f) => (unfold Part.openDebug; try dsimp only)
  repeat' (first | with_reducible assumption | with_reducible apply Chip.breakLockstep_holds | with_reducible apply Chip.secRecord_holds | with_reducible apply Part.showSec_holds | with_reducible refine ite_holds ?_ ?_)
theorem entryDebugOpen_holds (a : GateReq) (b : List Byte) (p : Part) (hp : Holds memWf anyDue p.chip) : Holds memWf anyDue (entryDebugOpen a b p).2.chip := by
  conv in (entryDebugOpen a b p) => (unfold entryDebugOpen; try dsimp only)
  repeat' (first | with_reducible assumption | with_reducible apply Chip.loadRange_holds | with_reducible apply Chip.secRecord_holds | with_reducible apply Part.openDebug_holds | with_reducible apply servedGate_holds | (with_reducible refine has_chip rfl ?_; first | with_reducible assumption | with_reducible apply Chip.loadRange_holds | with_reducible apply Chip.secRecord_holds | with_reducible apply Part.openDebug_holds | with_reducible apply servedGate_holds) | split)
theorem entryNetKey_holds (a : GateReq) (b : List Byte) (p : Part) (hp : Holds P Q p.chip) : Holds P Q (entryNetKey a b p).2.chip := by
  conv in (entryNetKey a b p) => (unfold entryNetKey; try dsimp only)
  repeat' (first | with_reducible assumption | with_reducible apply Chip.claim_holds | (with_reducible refine has_chip rfl ?_; first | with_reducible assumption | with_reducible apply Chip.claim_holds) | split)
theorem entryOwnerQuery_holds (a : GateReq) (b : List Byte) (p : Part) (hp : Holds P Q p.chip) : Holds P Q (entryOwnerQuery a b p).2.chip := by
  conv in (entryOwnerQuery a b p) => (unfold entryOwnerQuery; try dsimp only)
  repeat' (first | with_reducible assumption | (with_reducible refine has_chip rfl ?_; first | with_reducible assumption) | split)
theorem entryOwnerSet_holds (a : GateReq) (b : List Byte) (p : Part) (hp : Holds memWf anyDue p.chip) : Holds memWf anyDue (entryOwnerSet a b p).2.chip := by
  conv in (entryOwnerSet a b p) => (unfold entryOwnerSet; try dsimp only)
  repeat' (first | with_reducible assumption | with_reducible apply Chip.giveOwners_holds | (with_reducible refine has_chip rfl ?_; first | with_reducible assumption | with_reducible apply Chip.giveOwners_holds) | split)
theorem entryRandom_holds (a : GateReq) (b : List Byte) (p : Part) (hp : Holds P Q p.chip) : Holds P Q (entryRandom a b p).2.chip := by
  conv in (entryRandom a b p) => (unfold entryRandom; try dsimp only)
  repeat' (first | with_reducible assumption | with_reducible apply Chip.drawBytes_holds | (with_reducible refine has_chip rfl ?_; first | with_reducible assumption | with_reducible apply Chip.drawBytes_holds) | split)
theorem entryRollback_holds (a : GateReq) (b : List Byte) (p : Part) (hp : Holds P Q p.chip) : Holds P Q (entryRollback a b p).2.chip := by
  conv in (entryRollback a b p) => (unfold entryRollback; try dsimp only)
  repeat' (first | with_reducible assumption | with_reducible apply Chip.claim_holds | (with_reducible refine has_chip rfl ?_; first | with_reducible assumption | with_reducible apply Chip.claim_holds) | split)
theorem entryVaultRead_holds (a : GateReq) (b : List Byte) (p : Part) (hp : Holds P Q p.chip) : Holds P Q (entryVaultRead a b p).2.chip := by
  conv in (entryVaultRead a b p) => (unfold entryVaultRead; try dsimp only)
  repeat' with_reducible assumption
theorem entryVaultWrite_holds (a : GateReq) (b : List Byte) (p : Part) (hp : Holds P Q p.chip) : Holds P Q (entryVaultWrite a b p).2.chip := by
  conv in (entryVaultWrite a b p) => (unfold entryVaultWrite; try dsimp only)
  repeat' with_reducible assumption
theorem gateEntry_holds (a : GateReq) (b : List Byte) (p : Part) (hp : Holds memWf anyDue p.chip) : Holds memWf anyDue (gateEntry a b p).2.chip := by
  conv in (gateEntry a b p) => (unfold gateEntry; try dsimp only)
  repeat' (first | with_reducible assumption | with_reducible apply Chip.draw_holds | with_reducible apply entryAttest_holds | with_reducible apply entryChallenge_holds | with_reducible apply entryContent_holds | with_reducible apply entryDebugClose_holds | with_reducible apply entryDebugOpen_holds | with_reducible apply entryNetKey_holds | with_reducible apply entryOwnerQuery_holds | with_reducible apply entryOwnerSet_holds | with_reducible apply entryRandom_holds | with_reducible apply entryRollback_holds | with_reducible apply entryVaultRead_holds | with_reducible apply entryVaultWrite_holds | (with_reducible refine has_chip rfl ?_; first | with_reducible assumption | with_reducible apply Chip.draw_holds | with_reducible apply entryAttest_holds | with_reducible apply entryChallenge_holds | with_reducible apply entryContent_holds | with_reducible apply entryDebugClose_holds | with_reducible apply entryDebugOpen_holds | with_reducible apply entryNetKey_holds | with_reducible apply entryOwnerQuery_holds | with_reducible apply entryOwnerSet_holds | with_reducible apply entryRandom_holds | with_reducible apply entryRollback_holds | with_reducible apply entryVaultRead_holds | with_reducible apply entryVaultWrite_holds) | split)
theorem Part.gateTake_holds (p : Part) (a : GateReq) (hp : Holds memWf anyDue p.chip) : Holds memWf anyDue (Part.gateTake p a).chip := by
  conv in (Part.gateTake p a) => (unfold Part.gateTake; try dsimp only)
  repeat' (first | with_reducible assumption | with_reducible apply Chip.count_holds | with_reducible apply Chip.loadRange_holds | with_reducible apply GateReq.ended_holds | with_reducible apply Part.gateReply_holds | with_reducible apply gateEntry_holds | with_reducible apply servedGate_holds | with_reducible refine ite_part ?_ ?_ | (with_reducible refine has_chip rfl ?_; first | with_reducible assumption | with_reducible apply Chip.count_holds | with_reducible apply Chip.loadRange_holds | with_reducible apply GateReq.ended_holds | with_reducible apply Part.gateReply_holds | with_reducible apply gateEntry_holds | with_reducible apply servedGate_holds | with_reducible refine ite_part ?_ ?_) | split)
theorem Part.gateServe_holds (a : Nat) (p : Part) (hp : Holds memWf anyDue p.chip) : Holds memWf anyDue (Part.gateServe a p).chip := by
  induction a generalizing p with
  | zero =>
    conv in Part.gateServe _ _ => (unfold Part.gateServe; try dsimp only)
    repeat' (first | with_reducible assumption | fail | with_reducible apply Part.gateTake_holds | with_reducible refine ite_part ?_ ?_ | (with_reducible refine has_chip rfl ?_; first | with_reducible assumption | fail | with_reducible apply Part.gateTake_holds | with_reducible refine ite_part ?_ ?_) | split)
  | succ k ih =>
    conv in Part.gateServe _ _ => (unfold Part.gateServe; try dsimp only)
    repeat' (first | with_reducible assumption | with_reducible apply ih | with_reducible apply Part.gateTake_holds | with_reducible refine ite_part ?_ ?_ | (with_reducible refine has_chip rfl ?_; first | with_reducible assumption | with_reducible apply ih | with_reducible apply Part.gateTake_holds | with_reducible refine ite_part ?_ ?_) | split)
theorem Part.gateRun_holds (p : Part) (hp : Holds memWf anyDue p.chip) : Holds memWf anyDue (Part.gateRun p).chip := by
  conv in (Part.gateRun p) => (unfold Part.gateRun; try dsimp only)
  repeat' (first | with_reducible assumption | with_reducible apply Part.gateServe_holds | with_reducible apply Part.showSec_holds)
theorem gateCall_holds (a : Nat) (b : Nat) (e : Nat) (f : Nat) (g : Nat) (i : Nat) (p : Part) (hp : Holds memWf anyDue p.chip) : Holds memWf anyDue (gateCall a b e f g i p).chip := by
  conv in (gateCall a b e f g i p) => (unfold gateCall; try dsimp only)
  repeat' (first | with_reducible assumption | with_reducible apply Chip.gateNotice_holds | with_reducible apply Chip.gateTrap_holds | with_reducible apply Part.gateRun_holds | with_reducible apply Part.gateStatus_holds | with_reducible refine ite_part ?_ ?_ | (with_reducible refine has_chip rfl ?_; first | with_reducible assumption | with_reducible apply Chip.gateNotice_holds | with_reducible apply Chip.gateTrap_holds | with_reducible apply Part.gateRun_holds | with_reducible apply Part.gateStatus_holds | with_reducible refine ite_part ?_ ?_) | split)
theorem mbxGate_holds (a : Nat) (b : Nat) (e : Nat) (f : Nat) (p : Part) (hp : Holds memWf anyDue p.chip) : Holds memWf anyDue (mbxGate a b e f p).chip := by
  conv in (mbxGate a b e f p) => (unfold mbxGate; try dsimp only)
  repeat' (first | with_reducible assumption | with_reducible apply Part.mbxGo_holds | with_reducible apply gateCall_holds | with_reducible refine ite_part ?_ ?_ | with_reducible intro _)
theorem mbxAttest_holds (a : Nat) (p : Part) (hp : Holds memWf anyDue p.chip) : Holds memWf anyDue (mbxAttest a p).chip := by
  conv in (mbxAttest a p) => (unfold mbxAttest; try dsimp only)
  repeat' (first | with_reducible assumption | with_reducible apply mbxGate_holds)
theorem blockOff_holds (a : Nat) (c : Chip) (hc : Holds memWf anyDue c) : Holds memWf anyDue (blockOff a c) := by
  conv in (blockOff a c) => (unfold blockOff; try dsimp only)
  repeat' (first | with_reducible assumption | with_reducible apply Chip.finish_holds | with_reducible apply Chip.onHint_holds | with_reducible apply Chip.stopBlocks_holds | split | with_reducible intro _)
theorem blockOn_holds (a : Nat) (c : Chip) (hc : Holds P Q c) : Holds P Q (blockOn a c) := by
  conv in (blockOn a c) => (unfold blockOn; try dsimp only)
  repeat' (first | with_reducible assumption | with_reducible apply Chip.finish_holds | with_reducible apply Chip.onHint_holds | with_reducible apply Chip.startBlocks_holds | split | with_reducible intro _)
theorem idleUntil_holds (a : Nat) (c : Chip) (hc : Holds P Q c) : Holds P Q (idleUntil a c) := by
  conv in (idleUntil a c) => (unfold idleUntil; try dsimp only)
  repeat' (first | with_reducible assumption | with_reducible apply Chip.finish_holds | with_reducible apply Chip.onHint_holds | with_reducible apply Chip.setIdle_holds | split | with_reducible intro _)
theorem park_holds (a : Nat) (c : Chip) (hc : Holds memWf anyDue c) : Holds memWf anyDue (park a c) := by
  conv in (park a c) => (unfold park; try dsimp only)
  repeat' (first | with_reducible assumption | with_reducible apply Chip.onHint_holds | with_reducible apply Chip.tryLeave_holds | with_reducible intro _)
theorem restart_holds (a : Nat) (c : Chip) (hc : Holds memWf anyDue c) : Holds memWf anyDue (restart a c) := by
  conv in (restart a c) => (unfold restart; try dsimp only)
  repeat' (first | with_reducible assumption | with_reducible apply Chip.finish_holds | with_reducible apply Chip.ignoreStart_holds | with_reducible apply Chip.onHint_holds | with_reducible apply Chip.tryLeave_holds | split | with_reducible intro _)
theorem standby_holds (a : Nat) (c : Chip) (hc : Holds memWf anyDue c) : Holds memWf anyDue (standby a c) := by
  conv in (standby a c) => (unfold standby; try dsimp only)
  repeat' (first | with_reducible assumption | with_reducible apply Chip.onHint_holds | with_reducible apply Chip.tryLeave_holds | with_reducible intro _)
theorem mbxHintRun_holds (a : Nat) (c : Chip) (hc : Holds memWf anyDue c) : Holds memWf anyDue (mbxHintRun a c) := by
  conv in (mbxHintRun a c) => (unfold mbxHintRun; try dsimp only)
  repeat' (first | with_reducible assumption | with_reducible apply blockOff_holds | with_reducible apply blockOn_holds | with_reducible apply idleUntil_holds | with_reducible apply park_holds | with_reducible apply restart_holds | with_reducible apply standby_holds | split)
theorem mbxHint_holds (a : Nat) (p : Part) (hp : Holds memWf anyDue p.chip) : Holds memWf anyDue (mbxHint a p).chip := by
  conv in (mbxHint a p) => (unfold mbxHint; try dsimp only)
  repeat' (first | with_reducible assumption | with_reducible apply mbxArgs_holds | with_reducible apply mbxHintRun_holds)
theorem mbxRun_holds (a : Nat) (b : Nat) (e : Nat → Chip → Chip) (f : Served × List Byte × Chip) (he : ∀ (z0 : Nat) (z1 : Chip), Holds memWf anyDue z1 → Holds memWf anyDue (e z0 z1)) (hf : Holds memWf anyDue f.2.2) : Holds memWf anyDue (mbxRun a b e f) := by
  conv in (mbxRun a b e f) => (unfold mbxRun; try dsimp only)
  repeat' (first | with_reducible assumption | with_reducible apply Chip.mailboxReply_holds | with_reducible apply Chip.mbxPacket_holds | split)
theorem mbxDescriptor_holds (a : Nat) (b : Nat) (e : Nat) (f : Nat) (g : Nat → Chip → Chip) (p : Part) (hg : ∀ (z0 : Nat) (z1 : Chip), Holds memWf anyDue z1 → Holds memWf anyDue (g z0 z1)) (hp : Holds memWf anyDue p.chip) : Holds memWf anyDue (mbxDescriptor a b e f g p).chip := by
  conv in (mbxDescriptor a b e f g p) => (unfold mbxDescriptor; try dsimp only)
  repeat' (first | with_reducible assumption | with_reducible apply Chip.mbxRead_holds | with_reducible apply Part.mbxGo_holds | with_reducible apply mbxRun_holds | with_reducible refine ite_part ?_ ?_ | with_reducible intro _)
theorem modelRegister_holds (a : Nat) (c : Chip) (hc : Holds memWf anyDue c) : Holds memWf anyDue (modelRegister a c) := by
  conv in (modelRegister a c) => (unfold modelRegister; try dsimp only)
  repeat' (first | with_reducible assumption | with_reducible apply Chip.enterModel_holds | with_reducible apply Chip.finish_holds | with_reducible apply Chip.keepRunning_holds | with_reducible apply Chip.loadRange_holds | with_reducible apply Chip.mcRegs_holds | with_reducible apply Chip.onPacket_holds | with_reducible apply Chip.takeRoom_holds | with_reducible apply Chip.updModel_holds | with_reducible refine of_snd (by assumption) ?_ | with_reducible refine of_snd2 (by assumption) ?_ | with_reducible refine ite_holds ?_ ?_ | split | with_reducible intro _)
theorem mbxLoadModel_holds (a : Nat) (p : Part) (hp : Holds memWf anyDue p.chip) : Holds memWf anyDue (mbxLoadModel a p).chip := by
  conv in (mbxLoadModel a p) => (unfold mbxLoadModel; try dsimp only)
  repeat' (first | with_reducible assumption | with_reducible apply mbxDescriptor_holds | with_reducible apply modelRegister_holds)
theorem jobPreempt_holds (a : Nat) (c : Chip) (hc : Holds memWf anyDue c) : Holds memWf anyDue (jobPreempt a c) := by
  conv in (jobPreempt a c) => (unfold jobPreempt; try dsimp only)
  repeat' (first | with_reducible assumption | with_reducible apply Chip.finish_holds | with_reducible apply Chip.keepRunning_holds | with_reducible apply Chip.onPacket_holds | with_reducible apply Chip.preemptTarget_holds | with_reducible apply Chip.updJob_holds | split | with_reducible intro _)
theorem mbxPreempt_holds (a : Nat) (p : Part) (hp : Holds memWf anyDue p.chip) : Holds memWf anyDue (mbxPreempt a p).chip := by
  conv in (mbxPreempt a p) => (unfold mbxPreempt; try dsimp only)
  repeat' (first | with_reducible assumption | with_reducible apply jobPreempt_holds | with_reducible apply mbxArgs_holds)
theorem mbxRandom_holds (a : Nat) (p : Part) (hp : Holds memWf anyDue p.chip) : Holds memWf anyDue (mbxRandom a p).chip := by
  conv in (mbxRandom a p) => (unfold mbxRandom; try dsimp only)
  repeat' (first | with_reducible assumption | with_reducible apply mbxGate_holds)
theorem jobRunBody_holds (a : Packet) (c : Chip) (hc : Holds memWf anyDue c) : Holds memWf anyDue (jobRunBody a c) := by
  conv in (jobRunBody a c) => (unfold jobRunBody; try dsimp only)
  repeat' (first | with_reducible assumption | with_reducible apply Chip.checkChan_holds | with_reducible apply Chip.finish_holds | with_reducible apply Chip.queueJob_holds | with_reducible apply Chip.recordValid_holds | with_reducible refine of_snd (by assumption) ?_ | with_reducible refine ite_holds ?_ ?_ | with_reducible refine ite_snd ?_ ?_ | split)
theorem jobRun_holds (a : Nat) (c : Chip) (hc : Holds memWf anyDue c) : Holds memWf anyDue (jobRun a c) := by
  conv in (jobRun a c) => (unfold jobRun; try dsimp only)
  repeat' (first | with_reducible assumption | with_reducible apply Chip.onPacket_holds | with_reducible apply jobRunBody_holds)
theorem mbxSubmitJob_holds (a : Nat) (p : Part) (hp : Holds memWf anyDue p.chip) : Holds memWf anyDue (mbxSubmitJob a p).chip := by
  conv in (mbxSubmitJob a p) => (unfold mbxSubmitJob; try dsimp only)
  repeat' (first | with_reducible assumption | with_reducible apply jobRun_holds | with_reducible apply mbxDescriptor_holds)
theorem mbxUnknown_holds (a : Nat) (b : Nat) (p : Part) (hp : Holds P Q p.chip) : Holds P Q (mbxUnknown a b p).chip := by
  conv in (mbxUnknown a b p) => (unfold mbxUnknown; try dsimp only)
  repeat' (first | with_reducible assumption | with_reducible apply Chip.mailboxReply_holds | with_reducible apply Part.mbxGo_holds | with_reducible refine ite_part ?_ ?_ | with_reducible intro _)
theorem modelEvict_holds (a : Nat) (c : Chip) (hc : Holds memWf anyDue c) : Holds memWf anyDue (modelEvict a c) := by
  conv in (modelEvict a c) => (unfold modelEvict; try dsimp only)
  repeat' (first | with_reducible assumption | with_reducible apply Chip.evict_holds | with_reducible apply Chip.finish_holds | with_reducible apply Chip.jobLeft_holds | with_reducible apply Chip.onPacket_holds | with_reducible apply Chip.updModel_holds | split | with_reducible intro _)
theorem mbxUnloadModel_holds (a : Nat) (p : Part) (hp : Holds memWf anyDue p.chip) : Holds memWf anyDue (mbxUnloadModel a p).chip := by
  conv in (mbxUnloadModel a p) => (unfold mbxUnloadModel; try dsimp only)
  repeat' (first | with_reducible assumption | with_reducible apply mbxArgs_holds | with_reducible apply modelEvict_holds)
theorem mbxDoorbell_holds (a : Nat) (b : Nat) (p : Part) (hp : Holds memWf anyDue p.chip) : Holds memWf anyDue (mbxDoorbell a b p).chip := by
  conv in (mbxDoorbell a b p) => (unfold mbxDoorbell; try dsimp only)
  repeat' (first | with_reducible assumption | with_reducible apply mbxAbort_holds | with_reducible apply mbxAttest_holds | with_reducible apply mbxHint_holds | with_reducible apply mbxLoadModel_holds | with_reducible apply mbxPreempt_holds | with_reducible apply mbxRandom_holds | with_reducible apply mbxSubmitJob_holds | with_reducible apply mbxUnknown_holds | with_reducible apply mbxUnloadModel_holds | with_reducible refine ite_part ?_ ?_ | (with_reducible refine has_chip rfl ?_; first | with_reducible assumption | with_reducible apply mbxAbort_holds | with_reducible apply mbxAttest_holds | with_reducible apply mbxHint_holds | with_reducible apply mbxLoadModel_holds | with_reducible apply mbxPreempt_holds | with_reducible apply mbxRandom_holds | with_reducible apply mbxSubmitJob_holds | with_reducible apply mbxUnknown_holds | with_reducible apply mbxUnloadModel_holds | with_reducible refine ite_part ?_ ?_) | split)
theorem tileCodeMapWrite_holds (a : Nat) (b : Nat) (e : W32) (c : Chip) (hc : Holds memWf anyDue c) : Holds memWf anyDue (tileCodeMapWrite a b e c) := by
  conv in (tileCodeMapWrite a b e c) => (unfold tileCodeMapWrite; try dsimp only)
  repeat' (first | with_reducible assumption | with_reducible apply Chip.codeMap_holds | with_reducible refine ite_holds ?_ ?_)
theorem tileCounterClear_holds (a : Nat) (b : Nat) (e : Nat) (f : Nat) (c : Chip) (hc : Holds memWf anyDue c) : Holds memWf anyDue (tileCounterClear a b e f c) := by
  conv in (tileCounterClear a b e f c) => (unfold tileCounterClear; try dsimp only)
  repeat' (first | with_reducible assumption | with_reducible apply Chip.clearTileCounters_holds | with_reducible apply Chip.deniedTile_holds | with_reducible apply Chip.setFld_holds | with_reducible refine ite_holds ?_ ?_)
theorem tileLfsrWrite_holds (a : Nat) (b : Nat) (e : Nat) (f : Nat) (c : Chip) (hc : Holds memWf anyDue c) : Holds memWf anyDue (tileLfsrWrite a b e f c) := by
  conv in (tileLfsrWrite a b e f c) => (unfold tileLfsrWrite; try dsimp only)
  repeat' (first | with_reducible assumption | with_reducible apply Chip.deniedTile_holds | with_reducible apply Chip.setReg_holds | with_reducible refine ite_holds ?_ ?_)
theorem Part.writeReg_holds (p : Part) (a : Nat) (b : Nat) (e : RegSpec) (f : Nat) (g : Nat) (hp : Holds memWf anyDue p.chip) : Holds memWf anyDue (Part.writeReg p a b e f g).chip := by
  conv in (Part.writeReg p a b e f g) => (unfold Part.writeReg; try dsimp only)
  repeat' (first | with_reducible assumption | with_reducible apply Chip.accWrite_holds | with_reducible apply Chip.aleWriteReg_holds | with_reducible apply Chip.aonWrite_holds | with_reducible apply Chip.canWrite_holds | with_reducible apply Chip.cflWriteReg_holds | with_reducible apply Chip.cntCtrlWrite_holds | with_reducible apply Chip.dspWrite_holds | with_reducible apply Chip.errWriteReg_holds | with_reducible apply Chip.gfxWrite_holds | with_reducible apply Chip.grpWrite_holds | with_reducible apply Chip.lnkWrite_holds | with_reducible apply Chip.memWriteReg_holds | with_reducible apply Chip.mrcWrite_holds | with_reducible apply Chip.netWrite_holds | with_reducible apply Chip.plainWrite_holds | with_reducible apply dceLfsrWrite_holds | with_reducible apply mbxDoorbell_holds | with_reducible apply tileCodeMapWrite_holds | with_reducible apply tileCounterClear_holds | with_reducible apply tileLfsrWrite_holds | with_reducible refine ite_part ?_ ?_ | (with_reducible refine has_chip rfl ?_; first | with_reducible assumption | with_reducible apply Chip.accWrite_holds | with_reducible apply Chip.aleWriteReg_holds | with_reducible apply Chip.aonWrite_holds | with_reducible apply Chip.canWrite_holds | with_reducible apply Chip.cflWriteReg_holds | with_reducible apply Chip.cntCtrlWrite_holds | with_reducible apply Chip.dspWrite_holds | with_reducible apply Chip.errWriteReg_holds | with_reducible apply Chip.gfxWrite_holds | with_reducible apply Chip.grpWrite_holds | with_reducible apply Chip.lnkWrite_holds | with_reducible apply Chip.memWriteReg_holds | with_reducible apply Chip.mrcWrite_holds | with_reducible apply Chip.netWrite_holds | with_reducible apply Chip.plainWrite_holds | with_reducible apply dceLfsrWrite_holds | with_reducible apply mbxDoorbell_holds | with_reducible apply tileCodeMapWrite_holds | with_reducible apply tileCounterClear_holds | with_reducible apply tileLfsrWrite_holds | with_reducible refine ite_part ?_ ?_ | (refine ⟨?_, ?_⟩ <;> (dsimp only; first | exact trivial | with_reducible apply Chip.Holds.mem (Q := anyDue) | with_reducible apply Chip.Holds.due (P := memWf)))) | (refine ⟨?_, ?_⟩ <;> (dsimp only; first | exact trivial | with_reducible apply Chip.Holds.mem (Q := anyDue) | with_reducible apply Chip.Holds.due (P := memWf))) | split)
theorem Part.writeRegs_holds (a : Nat) (p : Part) (b : Nat) (e : Nat) (f : Nat) (g : List Byte) (hp : Holds memWf anyDue p.chip) : Holds memWf anyDue (Part.writeRegs a p b e f g).chip := by
  induction a generalizing p b e f g with
  | zero =>
    conv in Part.writeRegs _ _ _ _ _ _ => (unfold Part.writeRegs; try dsimp only)
    repeat' (first | with_reducible assumption | fail | with_reducible apply Chip.updNet_holds | with_reducible apply Part.writeReg_holds | (with_reducible refine has_chip rfl ?_; first | with_reducible assumption | fail | with_reducible apply Chip.updNet_holds | with_reducible apply Part.writeReg_holds | (refine ⟨?_, ?_⟩ <;> (dsimp only; first | exact trivial | with_reducible apply Chip.Holds.mem (Q := anyDue) | with_reducible apply Chip.Holds.due (P := memWf)))) | (refine ⟨?_, ?_⟩ <;> (dsimp only; first | exact trivial | with_reducible apply Chip.Holds.mem (Q := anyDue) | with_reducible apply Chip.Holds.due (P := memWf))) | split)
  | succ k ih =>
    conv in Part.writeRegs _ _ _ _ _ _ => (unfold Part.writeRegs; try dsimp only)
    repeat' (first | with_reducible assumption | with_reducible apply ih | with_reducible apply Chip.updNet_holds | with_reducible apply Part.writeReg_holds | (with_reducible refine has_chip rfl ?_; first | with_reducible assumption | with_reducible apply ih | with_reducible apply Chip.updNet_holds | with_reducible apply Part.writeReg_holds | (refine ⟨?_, ?_⟩ <;> (dsimp only; first | exact trivial | with_reducible apply Chip.Holds.mem (Q := anyDue) | with_reducible apply Chip.Holds.due (P := memWf)))) | (refine ⟨?_, ?_⟩ <;> (dsimp only; first | exact trivial | with_reducible apply Chip.Holds.mem (Q := anyDue) | with_reducible apply Chip.Holds.due (P := memWf))) | split)
theorem Part.farWrite_holds (p : Part) (a : Nat) (b : Nat) (e : Nat) (f : Nat) (g : List Byte) (hp : Holds memWf anyDue p.chip) : Holds memWf anyDue (Part.farWrite p a b e f g).chip := by
  conv in (Part.farWrite p a b e f g) => (unfold Part.farWrite; try dsimp only)
  repeat' (first | with_reducible assumption | with_reducible apply Chip.setReg_holds | with_reducible apply Part.writeRegs_holds)
theorem Part.arrive_holds (p : Part) (a : Posted) (hp : Holds memWf anyDue p.chip) : Holds memWf anyDue (Part.arrive p a).chip := by
  conv in (Part.arrive p a) => (unfold Part.arrive; try dsimp only)
  repeat' (first | with_reducible assumption | with_reducible apply Chip.doorbellWrite_holds | with_reducible apply Chip.draw_holds | with_reducible apply Chip.msiRaise_holds | with_reducible apply Part.farWrite_holds | with_reducible apply Part.writeRegs_holds | with_reducible refine ite_holds ?_ ?_ | with_reducible refine ite_part ?_ ?_ | (with_reducible refine has_chip rfl ?_; first | with_reducible assumption | with_reducible apply Chip.doorbellWrite_holds | with_reducible apply Chip.draw_holds | with_reducible apply Chip.msiRaise_holds | with_reducible apply Part.farWrite_holds | with_reducible apply Part.writeRegs_holds | with_reducible refine ite_holds ?_ ?_ | with_reducible refine ite_part ?_ ?_) | split)
theorem Part.beginCold_holds (p : Part) (a : Nat) (hp : Holds memWf anyDue p.chip) : Holds memWf anyDue (Part.beginCold p a).chip := by
  conv in (Part.beginCold p a) => (unfold Part.beginCold; try dsimp only)
  repeat' (first | with_reducible assumption | with_reducible apply Chip.resetDomains_holds | with_reducible apply Chip.startStep1_holds | with_reducible apply Chip.updPower_holds | with_reducible refine ite_holds ?_ ?_)
theorem Part.beginWarm_holds (p : Part) (a : Nat) (hp : Holds P Q p.chip) : Holds P Q (Part.beginWarm p a).chip := by
  conv in (Part.beginWarm p a) => (unfold Part.beginWarm; try dsimp only)
  repeat' (first | with_reducible assumption | with_reducible apply Chip.startStep1_holds | with_reducible apply Chip.updPower_holds)
theorem Part.bundleJudged_holds (p : Part) (a : Except Nat (AMap (List Byte))) (hp : Holds memWf anyDue p.chip) : Holds memWf anyDue (Part.bundleJudged p a).chip := by
  conv in (Part.bundleJudged p a) => (unfold Part.bundleJudged; try dsimp only)
  repeat' (first | with_reducible assumption | with_reducible apply Chip.setFld_holds | with_reducible apply Part.beginCold_holds | (with_reducible refine has_chip rfl ?_; first | with_reducible assumption | with_reducible apply Chip.setFld_holds | with_reducible apply Part.beginCold_holds | (refine ⟨?_, ?_⟩ <;> (dsimp only; first | exact trivial | with_reducible apply Chip.Holds.mem (Q := anyDue) | with_reducible apply Chip.Holds.due (P := memWf)))) | (refine ⟨?_, ?_⟩ <;> (dsimp only; first | exact trivial | with_reducible apply Chip.Holds.mem (Q := anyDue) | with_reducible apply Chip.Holds.due (P := memWf))) | split)
theorem Part.countCycle_holds (p : Part) (hp : Holds P Q p.chip) : Holds P Q (Part.countCycle p).chip := by
  conv in (Part.countCycle p) => (unfold Part.countCycle; try dsimp only)
  repeat' (first | with_reducible assumption | with_reducible apply Chip.setFld_holds | with_reducible apply Chip.updPower_holds | with_reducible refine ite_part ?_ ?_)
theorem Part.measure_holds (p : Part) (a : Nat) (hp : Holds P Q p.chip) : Holds P Q (Part.measure p a).chip := by
  conv in (Part.measure p a) => (unfold Part.measure; try dsimp only)
  repeat' (first | with_reducible assumption | with_reducible apply Chip.setFld_holds | with_reducible apply Chip.setReg_holds | with_reducible apply Chip.updPower_holds | with_reducible apply foldl_holds | with_reducible intro _)
theorem Part.startDomain_holds (p : Part) (a : Bool) (hp : Holds memWf anyDue p.chip) : Holds memWf anyDue (Part.startDomain p a) := by
  conv in (Part.startDomain p a) => (unfold Part.startDomain; try dsimp only)
  repeat' (first | with_reducible assumption | with_reducible apply Chip.event_holds | with_reducible apply Chip.setConfig_holds | with_reducible apply Chip.setFld_holds | with_reducible apply Chip.updDomain_holds | with_reducible refine ite_holds ?_ ?_)
theorem Part.coldSteps_holds (p : Part) (a : Nat) (hp : Holds memWf anyDue p.chip) : Holds memWf anyDue (Part.coldSteps p a).chip := by
  conv in (Part.coldSteps p a) => (unfold Part.coldSteps; try dsimp only)
  repeat' (first | with_reducible assumption | with_reducible apply Chip.announceAtStart_holds | with_reducible apply Chip.giveOwners_holds | with_reducible apply Chip.setFld_holds | with_reducible apply Chip.startStep11_holds | with_reducible apply Chip.startStep16_holds | with_reducible apply Chip.updPower_holds | with_reducible apply Part.countCycle_holds | with_reducible apply Part.measure_holds | with_reducible apply Part.startDomain_holds)
theorem Part.enterRecovery_holds (p : Part) (hp : Holds memWf anyDue p.chip) : Holds memWf anyDue (Part.enterRecovery p).chip := by
  conv in (Part.enterRecovery p) => (unfold Part.enterRecovery; try dsimp only)
  repeat' (first | with_reducible assumption | with_reducible apply Chip.resetDomains_holds | with_reducible apply Chip.setFld_holds | with_reducible apply Chip.updPower_holds | with_reducible apply foldl_holds | with_reducible intro _)
theorem Part.startFailed_holds (p : Part) (a : Nat) (hp : Holds memWf anyDue p.chip) : Holds memWf anyDue (Part.startFailed p a).chip := by
  conv in (Part.startFailed p a) => (unfold Part.startFailed; try dsimp only)
  repeat' (first | with_reducible assumption | with_reducible apply Chip.noteFailure_holds | with_reducible apply Chip.setFld_holds | with_reducible apply Part.beginCold_holds | with_reducible apply Part.enterRecovery_holds | with_reducible refine ite_part ?_ ?_)
theorem Part.stepFailed_holds (p : Part) (a : StepFail) (hp : Holds memWf anyDue p.chip) : Holds memWf anyDue (Part.stepFailed p a).chip := by
  conv in (Part.stepFailed p a) => (unfold Part.stepFailed; try dsimp only)
  repeat' (first | with_reducible assumption | with_reducible apply Chip.draw_holds | with_reducible apply Chip.updPower_holds | with_reducible apply Part.startFailed_holds | with_reducible refine ite_holds ?_ ?_ | (with_reducible refine has_chip rfl ?_; first | with_reducible assumption | with_reducible apply Chip.draw_holds | with_reducible apply Chip.updPower_holds | with_reducible apply Part.startFailed_holds | with_reducible refine ite_holds ?_ ?_ | (refine ⟨?_, ?_⟩ <;> (dsimp only; first | exact trivial | with_reducible apply Chip.Holds.mem (Q := anyDue) | with_reducible apply Chip.Holds.due (P := memWf)))) | (refine ⟨?_, ?_⟩ <;> (dsimp only; first | exact trivial | with_reducible apply Chip.Holds.mem (Q := anyDue) | with_reducible apply Chip.Holds.due (P := memWf))) | split)
theorem Part.wrongPopulation_holds (p : Part) (hp : Holds memWf anyDue p.chip) : Holds memWf anyDue (Part.wrongPopulation p).chip := by
  conv in (Part.wrongPopulation p) => (unfold Part.wrongPopulation; try dsimp only)
  repeat' (first | with_reducible assumption | with_reducible apply Chip.noteFailure_holds | with_reducible apply Chip.setFld_holds | with_reducible apply Part.enterRecovery_holds)
theorem Part.coldChecks_holds (p : Part) (a : Nat) (b : Nat) (hp : Holds memWf anyDue p.chip) : Holds memWf anyDue (Part.coldChecks p a b).chip := by
  conv in (Part.coldChecks p a b) => (unfold Part.coldChecks; try dsimp only)
  repeat' (first | with_reducible assumption | with_reducible apply Part.coldSteps_holds | with_reducible apply Part.stepFailed_holds | with_reducible apply Part.wrongPopulation_holds | with_reducible refine ite_part ?_ ?_ | (with_reducible refine has_chip rfl ?_; first | with_reducible assumption | with_reducible apply Part.coldSteps_holds | with_reducible apply Part.stepFailed_holds | with_reducible apply Part.wrongPopulation_holds | with_reducible refine ite_part ?_ ?_) | split)
theorem Part.deliver_holds (p : Part) (hp : Holds memWf anyDue p.chip) : Holds memWf anyDue (Part.deliver p).chip := by
  conv in (Part.deliver p) => (unfold Part.deliver; try dsimp only)
  repeat' (first | with_reducible assumption | with_reducible apply Part.arrive_holds | with_reducible apply foldl_part | (with_reducible refine has_chip rfl ?_; first | with_reducible assumption | with_reducible apply Part.arrive_holds | with_reducible apply foldl_part | (refine ⟨?_, ?_⟩ <;> (dsimp only; first | exact trivial | with_reducible apply Chip.Holds.mem (Q := anyDue) | with_reducible apply Chip.Holds.due (P := memWf)))) | (refine ⟨?_, ?_⟩ <;> (dsimp only; first | exact trivial | with_reducible apply Chip.Holds.mem (Q := anyDue) | with_reducible apply Chip.Holds.due (P := memWf))))
theorem memCopy_holds (a : Nat) (c : Chip) (hc : Holds memWf anyDue c) : Holds memWf anyDue (memCopy a c) := by
  conv in (memCopy a c) => (unfold memCopy; try dsimp only)
  repeat' (first | with_reducible assumption | with_reducible apply Chip.copyPieces_holds | with_reducible apply Chip.finish_holds | with_reducible apply Chip.onPacket_holds | with_reducible apply Chip.withCopyUnits_holds | split | with_reducible intro _)
theorem Part.copyMem_holds (a : Nat) (p : Part) (hp : Holds memWf anyDue p.chip) : Holds memWf anyDue (Part.copyMem a p).chip := by
  conv in (Part.copyMem a p) => (unfold Part.copyMem; try dsimp only)
  repeat' (first | with_reducible assumption | with_reducible apply Part.deliver_holds | with_reducible apply memCopy_holds)
theorem Part.crossWrite_holds (p : Part) (a : Req) (b : Nat) (e : Nat) (f : Nat) (g : List Byte) (hp : Holds memWf anyDue p.chip) : Holds memWf anyDue (Part.crossWrite p a b e f g).chip := by
  conv in (Part.crossWrite p a b e f g) => (unfold Part.crossWrite; try dsimp only)
  repeat' (first | with_reducible assumption | with_reducible apply Chip.bridgeRefused_holds | with_reducible apply Chip.reply_holds | with_reducible apply Part.farWrite_holds | with_reducible refine ite_part ?_ ?_)
theorem Part.finishDestroy_holds (p : Part) (a : Destroy) (hp : Holds memWf anyDue p.chip) : Holds memWf anyDue (Part.finishDestroy p a).chip := by
  conv in (Part.finishDestroy p a) => (unfold Part.finishDestroy; try dsimp only)
  repeat' (first | with_reducible assumption | with_reducible apply Chip.dissolve_holds | with_reducible apply Chip.finish_holds | with_reducible apply Chip.ownerCalled_holds | with_reducible apply Chip.returnPages_holds | with_reducible apply foldl_holds | with_reducible refine ite_part ?_ ?_ | (with_reducible refine has_chip rfl ?_; first | with_reducible assumption | with_reducible apply Chip.dissolve_holds | with_reducible apply Chip.finish_holds | with_reducible apply Chip.ownerCalled_holds | with_reducible apply Chip.returnPages_holds | with_reducible apply foldl_holds | with_reducible refine ite_part ?_ ?_ | (refine ⟨?_, ?_⟩ <;> (dsimp only; first | exact trivial | with_reducible apply Chip.Holds.mem (Q := anyDue) | with_reducible apply Chip.Holds.due (P := memWf)))) | (refine ⟨?_, ?_⟩ <;> (dsimp only; first | exact trivial | with_reducible apply Chip.Holds.mem (Q := anyDue) | with_reducible apply Chip.Holds.due (P := memWf))) | split | with_reducible intro _)
theorem Part.drainedDestroy_holds (p : Part) (a : Destroy) (hp : Holds memWf anyDue p.chip) : Holds memWf anyDue (Part.drainedDestroy p a).chip := by
  conv in (Part.drainedDestroy p a) => (unfold Part.drainedDestroy; try dsimp only)
  repeat' (first | with_reducible assumption | with_reducible apply Chip.dropModels_holds | with_reducible apply Chip.retireRings_holds | with_reducible apply Chip.updDestroy_holds | with_reducible apply Part.finishDestroy_holds)
theorem Part.enterState_holds (p : Part) (a : Leaving) (hp : Holds memWf anyDue p.chip) : Holds memWf anyDue (Part.enterState p a).chip := by
  conv in (Part.enterState p a) => (unfold Part.enterState; try dsimp only)
  repeat' (first | with_reducible assumption | with_reducible apply Chip.resetDomains_holds | with_reducible apply Chip.retain_holds | with_reducible apply Chip.setReg_holds | with_reducible apply Chip.updPower_holds | with_reducible apply Part.beginWarm_holds | with_reducible refine ite_part ?_ ?_)
theorem memFill_holds (a : Nat) (c : Chip) (hc : Holds memWf anyDue c) : Holds memWf anyDue (memFill a c) := by
  conv in (memFill a c) => (unfold memFill; try dsimp only)
  repeat' (first | with_reducible assumption | with_reducible apply Chip.finish_holds | with_reducible apply Chip.loosePieces_holds | with_reducible apply Chip.onPacket_holds | with_reducible apply Chip.saveRange_holds | with_reducible apply Chip.withCopyUnits_holds | split | with_reducible intro _)
theorem Part.fillMem_holds (a : Nat) (p : Part) (hp : Holds memWf anyDue p.chip) : Holds memWf anyDue (Part.fillMem a p).chip := by
  conv in (Part.fillMem a p) => (unfold Part.fillMem; try dsimp only)
  repeat' (first | with_reducible assumption | with_reducible apply Part.deliver_holds | with_reducible apply memFill_holds)
theorem Part.gateFinish_holds (p : Part) (a : Nat) (hp : Holds memWf anyDue p.chip) : Holds memWf anyDue (Part.gateFinish p a).chip := by
  conv in (Part.gateFinish p a) => (unfold Part.gateFinish; try dsimp only)
  repeat' (first | with_reducible assumption | with_reducible apply Part.gateDone_holds | with_reducible apply Part.gateRun_holds | (with_reducible refine has_chip rfl ?_; first | with_reducible assumption | with_reducible apply Part.gateDone_holds | with_reducible apply Part.gateRun_holds) | split)
theorem Part.serveRegs_holds (p : Part) (a : Req) (b : Nat) (e : Nat) (f : List Byte) (hp : Holds memWf anyDue p.chip) : Holds memWf anyDue (Part.serveRegs p a b e f).chip := by
  conv in (Part.serveRegs p a b e f) => (unfold Part.serveRegs; try dsimp only)
  repeat' (first | with_reducible assumption | with_reducible apply Chip.doorbellRead_holds | with_reducible apply Chip.doorbellWrite_holds | with_reducible apply Chip.msiRaise_holds | with_reducible apply Chip.readRegs_holds | with_reducible apply Chip.reply_holds | with_reducible apply Part.writeRegs_holds | with_reducible refine ite_holds ?_ ?_ | with_reducible refine ite_part ?_ ?_ | (with_reducible refine has_chip rfl ?_; first | with_reducible assumption | with_reducible apply Chip.doorbellRead_holds | with_reducible apply Chip.doorbellWrite_holds | with_reducible apply Chip.msiRaise_holds | with_reducible apply Chip.readRegs_holds | with_reducible apply Chip.reply_holds | with_reducible apply Part.writeRegs_holds | with_reducible refine ite_holds ?_ ?_ | with_reducible refine ite_part ?_ ?_) | split)
theorem Part.serve_holds (p : Part) (a : Req) (b : Nat) (e : Nat) (f : List Byte) (hp : Holds memWf anyDue p.chip) : Holds memWf anyDue (Part.serve p a b e f).chip := by
  conv in (Part.serve p a b e f) => (unfold Part.serve; try dsimp only)
  repeat' (first | with_reducible assumption | with_reducible apply Chip.crossRead_holds | with_reducible apply Chip.denied_holds | with_reducible apply Chip.draw_holds | with_reducible apply Chip.failed_holds | with_reducible apply Chip.gatedError_holds | with_reducible apply Chip.queueDram_holds | with_reducible apply Chip.serveSram_holds | with_reducible apply Part.crossWrite_holds | with_reducible apply Part.serveRegs_holds | with_reducible refine ite_part ?_ ?_ | (with_reducible refine has_chip rfl ?_; first | with_reducible assumption | with_reducible apply Chip.crossRead_holds | with_reducible apply Chip.denied_holds | with_reducible apply Chip.draw_holds | with_reducible apply Chip.failed_holds | with_reducible apply Chip.gatedError_holds | with_reducible apply Chip.queueDram_holds | with_reducible apply Chip.serveSram_holds | with_reducible apply Part.crossWrite_holds | with_reducible apply Part.serveRegs_holds | with_reducible refine ite_part ?_ ?_) | split)
theorem Part.hostMesh_holds (p : Part) (a : Nat) (b : Nat) (e : Option Nat) (f : Nat) (g : Nat) (i : Bool) (j : List Byte) (hp : Holds memWf anyDue p.chip) : Holds memWf anyDue (Part.hostMesh p a b e f g i j).chip := by
  conv in (Part.hostMesh p a b e f g i j) => (unfold Part.hostMesh; try dsimp only)
  repeat' (first | with_reducible assumption | with_reducible apply Chip.denied_holds | with_reducible apply Chip.failed_holds | with_reducible apply Part.serve_holds | (with_reducible refine has_chip rfl ?_; first | with_reducible assumption | with_reducible apply Chip.denied_holds | with_reducible apply Chip.failed_holds | with_reducible apply Part.serve_holds) | split)
theorem Part.hostBar_holds (p : Part) (a : Nat) (b : Nat) (e : Nat) (f : Option Nat) (g : Nat) (i : Nat) (j : Bool) (k : List Byte) (hp : Holds memWf anyDue p.chip) : Holds memWf anyDue (Part.hostBar p a b e f g i j k).chip := by
  conv in (Part.hostBar p a b e f g i j k) => (unfold Part.hostBar; try dsimp only)
  repeat' (first | with_reducible assumption | with_reducible apply Chip.msixWrite_holds | with_reducible apply Chip.reply_holds | with_reducible apply Part.hostMesh_holds | with_reducible refine ite_part ?_ ?_)
theorem Part.numbered_holds (p : Part) (hp : Holds P Q p.chip) : Holds P Q (Part.numbered p).chip := by
  conv in (Part.numbered p) => (unfold Part.numbered; try dsimp only)
  repeat' (first | with_reducible assumption | (with_reducible refine has_chip rfl ?_; first | with_reducible assumption | (refine ⟨?_, ?_⟩ <;> (dsimp only; first | exact trivial | with_reducible apply Chip.Holds.mem (Q := Q) | with_reducible apply Chip.Holds.due (P := P)))) | (refine ⟨?_, ?_⟩ <;> (dsimp only; first | exact trivial | with_reducible apply Chip.Holds.mem (Q := Q) | with_reducible apply Chip.Holds.due (P := P))))
theorem Part.hostSeen_holds (p : Part) (a : Nat) (hp : Holds P Q p.chip) : Holds P Q (Part.hostSeen p a).chip := by
  conv in (Part.hostSeen p a) => (unfold Part.hostSeen; try dsimp only)
  repeat' (first | with_reducible assumption | with_reducible apply Chip.hostUp_holds | with_reducible apply Part.numbered_holds)
theorem recCtrlGo_holds (c : Chip) (hc : Holds P Q c) : Holds P Q (recCtrlGo c) := by
  conv in (recCtrlGo c) => (unfold recCtrlGo; try dsimp only)
  repeat' (first | with_reducible assumption | with_reducible apply Chip.setFld_holds | with_reducible refine ite_holds ?_ ?_)
theorem Part.recoveryRequest_holds (p : Part) (a : Nat) (b : Nat) (e : Nat) (f : Nat) (g : Bool) (i : List Byte) (hp : Holds memWf anyDue p.chip) : Holds memWf anyDue (Part.recoveryRequest p a b e f g i).chip := by
  conv in (Part.recoveryRequest p a b e f g i) => (unfold Part.recoveryRequest; try dsimp only)
  repeat' (first | with_reducible assumption | with_reducible apply Chip.plainWrite_holds | with_reducible apply Chip.readRegs_holds | with_reducible apply Chip.reply_holds | with_reducible apply Chip.store_holds | with_reducible apply recCtrlGo_holds | with_reducible refine ite_holds ?_ ?_ | with_reducible refine ite_part ?_ ?_ | (with_reducible refine has_chip rfl ?_; first | with_reducible assumption | with_reducible apply Chip.plainWrite_holds | with_reducible apply Chip.readRegs_holds | with_reducible apply Chip.reply_holds | with_reducible apply Chip.store_holds | with_reducible apply recCtrlGo_holds | with_reducible refine ite_holds ?_ ?_ | with_reducible refine ite_part ?_ ?_) | split)
theorem Part.release_holds (p : Part) (hp : Holds P Q p.chip) : Holds P Q (Part.release p).chip := by
  conv in (Part.release p) => (unfold Part.release; try dsimp only)
  repeat' (first | with_reducible assumption | with_reducible apply Chip.startStep1_holds | with_reducible refine ite_part ?_ ?_)
theorem Part.sendReport_holds (p : Part) (a : List Byte) (hp : Holds P Q p.chip) : Holds P Q (Part.sendReport p a).chip := by
  conv in (Part.sendReport p a) => (unfold Part.sendReport; try dsimp only)
  repeat' (first | with_reducible assumption | with_reducible apply Chip.twinSend_holds | with_reducible apply Part.signedReport_holds)
theorem Part.serviceDone_holds (p : Part) (a : GateReq) (hp : Holds P Q p.chip) : Holds P Q (Part.serviceDone p a).2.chip := by
  conv in (Part.serviceDone p a) => (unfold Part.serviceDone; try dsimp only)
  repeat' (first | with_reducible assumption | with_reducible apply Chip.draw_holds | with_reducible apply Chip.setFld_holds | (with_reducible refine has_chip rfl ?_; first | with_reducible assumption | with_reducible apply Chip.draw_holds | with_reducible apply Chip.setFld_holds | (refine ⟨?_, ?_⟩ <;> (dsimp only; first | exact trivial | with_reducible apply Chip.Holds.mem (Q := Q) | with_reducible apply Chip.Holds.due (P := P)))) | (refine ⟨?_, ?_⟩ <;> (dsimp only; first | exact trivial | with_reducible apply Chip.Holds.mem (Q := Q) | with_reducible apply Chip.Holds.due (P := P))) | split)
theorem Part.shutdown_holds (p : Part) (hp : Holds memWf anyDue p.chip) : Holds memWf anyDue (Part.shutdown p).chip := by
  conv in (Part.shutdown p) => (unfold Part.shutdown; try dsimp only)
  repeat' (first | with_reducible assumption | with_reducible apply Chip.draw_holds | with_reducible apply Chip.resetDomains_holds | with_reducible apply Chip.updPower_holds)
theorem Part.stageJudged_holds (p : Part) (a : Packet) (b : List Byte) (hp : Holds memWf anyDue p.chip) : Holds memWf anyDue (Part.stageJudged p a b) := by
  conv in (Part.stageJudged p a b) => (unfold Part.stageJudged; try dsimp only)
  repeat' (first | with_reducible assumption | with_reducible apply Chip.finish_holds | with_reducible apply Chip.updDomain_holds | with_reducible refine ite_holds ?_ ?_ | split)
theorem Part.storm_holds (p : Part) (hp : Holds memWf anyDue p.chip) : Holds memWf anyDue (Part.storm p).chip := by
  conv in (Part.storm p) => (unfold Part.storm; try dsimp only)
  repeat' (first | with_reducible assumption | with_reducible apply Chip.draw_holds | with_reducible apply Chip.retain_holds | with_reducible apply Chip.updPower_holds | with_reducible apply Part.beginWarm_holds)
theorem Part.wakeFrom_holds (p : Part) (a : Nat) (hp : Holds P Q p.chip) : Holds P Q (Part.wakeFrom p a).chip := by
  conv in (Part.wakeFrom p a) => (unfold Part.wakeFrom; try dsimp only)
  repeat' (first | with_reducible assumption | with_reducible apply Chip.ignoreStart_holds | with_reducible apply Chip.setReg_holds | with_reducible apply Chip.updPower_holds | with_reducible apply Part.beginWarm_holds | with_reducible refine ite_part ?_ ?_ | (with_reducible refine has_chip rfl ?_; first | with_reducible assumption | with_reducible apply Chip.ignoreStart_holds | with_reducible apply Chip.setReg_holds | with_reducible apply Chip.updPower_holds | with_reducible apply Part.beginWarm_holds | with_reducible refine ite_part ?_ ?_) | split)
theorem Part.warmSteps_holds (p : Part) (a : Nat) (hp : Holds memWf anyDue p.chip) : Holds memWf anyDue (Part.warmSteps p a).chip := by
  conv in (Part.warmSteps p a) => (unfold Part.warmSteps; try dsimp only)
  repeat' (first | with_reducible assumption | with_reducible apply Chip.retainedFixed_holds | with_reducible apply Chip.rewarm_holds | with_reducible apply Chip.setFld_holds | with_reducible apply Chip.startStep11_holds | with_reducible apply Chip.startStep16_holds | with_reducible apply Part.countCycle_holds | with_reducible apply Part.measure_holds | with_reducible apply Part.startDomain_holds)
theorem RillDesc.markDone_holds (a : RillDesc) (b : Nat) (c : Chip) (hc : Holds P Q c) : Holds P Q (RillDesc.markDone a b c) := by
  conv in (RillDesc.markDone a b c) => (unfold RillDesc.markDone; try dsimp only)
  repeat' (first | with_reducible assumption | with_reducible apply Chip.updTile_holds | split)
theorem tileWrite_holds (a b : Nat) (e : List Byte) : TileM.Keeps memWf anyDue (tileWrite a b e) := by
  intro c hc
  show Holds memWf anyDue (tileWrite a b e c).2
  unfold tileWrite
  generalize tileReq c a b e.length true = q
  have h := Chip.saveServed_holds c q e hc
  split
  · exact hc
  · generalize c.saveServed q e = r at h ⊢
    obtain ⟨o, c1⟩ := r
    cases o <;> exact h
theorem RillDesc.writeCount_holds (a : RillDesc) (b : Nat) (c : Chip) (hc : Holds memWf anyDue c) : Holds memWf anyDue (RillDesc.writeCount a b c).2 := by
  conv in (RillDesc.writeCount a b c) => (unfold RillDesc.writeCount; try dsimp only)
  repeat' (first | with_reducible assumption | with_reducible apply tileWrite_holds | with_reducible apply TileM.Keeps.run | (with_reducible refine has_snd rfl ?_; first | with_reducible assumption | with_reducible apply tileWrite_holds | with_reducible apply TileM.Keeps.run) | split)

end Sys2Proof.Machine
end

