-- ==== Sys2Proof/Laws/Kept4.lean ====
section
/-!
SUPPORT. What every operation of the part keeps, 4 of 4: one that stores nothing keeps any property `P` of the memory and
any `Q` of the mark of a lost safety record; one that may store keeps the canonical form of the memory.  Each is proved from
those of the operations it calls.
-/

namespace Sys2Proof.Machine

open Chip (Holds)

variable {P : Memory → Prop} {Q : Bool → Prop}

theorem operandAddr_holds (a : Operand) (b : Int) (e : Nat)  : TileM.Keeps P Q (operandAddr a b e) := by
  conv in (operandAddr a b e) => (unfold operandAddr; try dsimp only)
  repeat' (first | with_reducible apply TileM.fault_holds | with_reducible apply TileM.fault_holds | with_reducible apply TileM.Keeps.pure | split)
theorem tileRead_holds (a b e : Nat) : TileM.Keeps memWf anyDue (tileRead a b e) := by
  intro c hc
  show Holds memWf anyDue (tileRead a b e c).2
  unfold tileRead
  generalize tileReq c a b e false = q
  have h := Chip.loadServed_holds c q hc
  split
  · exact hc
  · generalize c.loadServed q = r at h ⊢
    obtain ⟨o, l, c1⟩ := r
    cases o <;> exact h
theorem operandRead_holds (a : Nat) (b : Delivered) (e : Operand) (f : Nat) (g : Nat)  : TileM.Keeps memWf anyDue (operandRead a b e f g) := by
  conv in (operandRead a b e f g) => (unfold operandRead; try dsimp only)
  repeat' (first | with_reducible apply TileM.fault_holds | with_reducible apply operandAddr_holds | with_reducible apply tileRead_holds | with_reducible apply TileM.chip_holds | with_reducible apply TileM.fault_holds | with_reducible apply TileM.Keeps.pure | with_reducible apply TileM.Keeps.bind | split | with_reducible intro _)
theorem accLoadArrays_holds (a : Nat) (b : TileIns) (e : Delivered) (f : List Nat) (g : Nat)  : TileM.Keeps memWf anyDue (accLoadArrays a b e f g) := by
  induction f generalizing a b e g with
  | nil =>
    conv in accLoadArrays _ _ _ _ _ => (unfold accLoadArrays; try dsimp only)
    repeat' (first | fail | with_reducible apply Chip.updTile_holds | with_reducible apply TileM.change_holds | with_reducible apply operandRead_holds | with_reducible apply TileM.change_holds | with_reducible apply TileM.Keeps.pure | with_reducible apply TileM.Keeps.bind | with_reducible intro _)
  | cons x l ih =>
    conv in accLoadArrays _ _ _ _ _ => (unfold accLoadArrays; try dsimp only)
    repeat' (first | with_reducible apply ih | with_reducible apply Chip.updTile_holds | with_reducible apply TileM.change_holds | with_reducible apply operandRead_holds | with_reducible apply TileM.change_holds | with_reducible apply TileM.Keeps.pure | with_reducible apply TileM.Keeps.bind | with_reducible intro _)
theorem accLoad_holds (a : Nat) (c : Chip) (hc : Holds memWf anyDue c) : Holds memWf anyDue (accLoad a c) := by
  conv in (accLoad a c) => (unfold accLoad; try dsimp only)
  repeat' (first | with_reducible assumption | with_reducible apply Chip.issueHead_holds | with_reducible apply accLoadArrays_holds | with_reducible intro _)
theorem accPasidMapCommand_holds (a : Nat) (b : Nat) (e : Nat) (f : W32) (c : Chip) (hc : Holds memWf anyDue c) : Holds memWf anyDue (accPasidMapCommand a b e f c) := by
  conv in (accPasidMapCommand a b e f c) => (unfold accPasidMapCommand; try dsimp only)
  repeat' (first | with_reducible assumption | with_reducible apply Chip.checkedWrite_holds | with_reducible apply pasidMapWrite_holds)
theorem freshDelivery_holds (c : Chip) (a : Nat) (b : List (Nat × List Byte)) (hc : Holds P Q c) : Holds P Q (freshDelivery c a b).2 := by
  conv in (freshDelivery c a b) => (unfold freshDelivery; try dsimp only)
  repeat' (first | with_reducible assumption | with_reducible apply Chip.drawBytes_holds)
theorem poolWrite_holds (a : Nat) (b : Nat) (e : List (Nat × List Byte))  : TileM.Keeps P Q (poolWrite a b e) := by
  conv in (poolWrite a b e) => (unfold poolWrite; try dsimp only)
  repeat' (first | with_reducible assumption | with_reducible apply Chip.showPool_holds | with_reducible apply Chip.updRill_holds | with_reducible apply freshDelivery_holds | split | with_reducible intro _ | with_reducible refine TileM.Keeps.fn ?_)
theorem operandWrite_holds (a : Nat) (b : Operand) (e : List (Nat × List Byte))  : TileM.Keeps memWf anyDue (operandWrite a b e) := by
  conv in (operandWrite a b e) => (unfold operandWrite; try dsimp only)
  repeat' (first | with_reducible apply Chip.updTile_holds | with_reducible apply TileM.change_holds | with_reducible apply operandAddr_holds | with_reducible apply poolWrite_holds | with_reducible apply tileWrite_holds | with_reducible apply TileM.change_holds | with_reducible apply TileM.Keeps.forIn | with_reducible apply TileM.Keeps.pure | with_reducible apply TileM.Keeps.bind | split | with_reducible intro _)
theorem accRead_holds (a : Nat) (c : Chip) (hc : Holds memWf anyDue c) : Holds memWf anyDue (accRead a c) := by
  conv in (accRead a c) => (unfold accRead; try dsimp only)
  repeat' (first | with_reducible assumption | with_reducible apply Chip.issueHead_holds | with_reducible apply operandWrite_holds | with_reducible apply TileM.chip_holds | with_reducible apply TileM.Keeps.bind | with_reducible intro _)
theorem accTableCommand_holds (a : Nat) (b : Nat) (e : Nat) (f : Nat) (g : W64) (c : Chip) (hc : Holds memWf anyDue c) : Holds memWf anyDue (accTableCommand a b e f g c) := by
  conv in (accTableCommand a b e f g c) => (unfold accTableCommand; try dsimp only)
  repeat' (first | with_reducible assumption | with_reducible apply Chip.checkedWrite_holds | with_reducible apply accTableWrite_holds)
theorem accZero_holds (a : Nat) (c : Chip) (hc : Holds memWf anyDue c) : Holds memWf anyDue (accZero a c) := by
  conv in (accZero a c) => (unfold accZero; try dsimp only)
  repeat' (first | with_reducible assumption | with_reducible apply Chip.issueHead_holds | with_reducible apply Chip.updTile_holds | with_reducible apply TileM.change_holds | with_reducible apply TileM.change_holds | with_reducible intro _)
theorem aleLoadTakeEffect_holds (c : Chip) (hc : Holds P Q c) : Holds P Q (aleLoadTakeEffect c) := by
  conv in (aleLoadTakeEffect c) => (unfold aleLoadTakeEffect; try dsimp only)
  repeat' (first | with_reducible assumption | with_reducible apply Chip.aleTake_holds | with_reducible refine ite_holds ?_ ?_ | split)
theorem aleStep_holds (a : List (Nat × W32)) (b : List (Nat × W32)) (c : Chip) (hc : Holds P Q c) : Holds P Q (aleStep a b c) := by
  conv in (aleStep a b c) => (unfold aleStep; try dsimp only)
  repeat' (first | with_reducible assumption | with_reducible apply Chip.aleRun_holds | with_reducible apply Chip.aleStart_holds | with_reducible apply Chip.aleStop_holds | with_reducible apply Chip.atFrame_holds | with_reducible refine ite_holds ?_ ?_)
theorem alignWaitExpiry_holds (a : Nat) (c : Chip) (hc : Holds memWf anyDue c) : Holds memWf anyDue (alignWaitExpiry a c) := by
  conv in (alignWaitExpiry a c) => (unfold alignWaitExpiry; try dsimp only)
  repeat' (first | with_reducible assumption | with_reducible apply Chip.alignExpired_holds | with_reducible apply Chip.publishWaiting_holds)
theorem announceTick_holds (c : Chip) (hc : Holds P Q c) : Holds P Q (announceTick c) := by
  conv in (announceTick c) => (unfold announceTick; try dsimp only)
  repeat' (first | with_reducible assumption | with_reducible apply Chip.sendAnnouncement_holds | with_reducible apply Chip.updDomain_holds | with_reducible refine ite_holds ?_ ?_ | split)
theorem announcement_holds (a : List Byte) (c : Chip) (hc : Holds memWf anyDue c) : Holds memWf anyDue (announcement a c) := by
  conv in (announcement a c) => (unfold announcement; try dsimp only)
  repeat' (first | with_reducible assumption | with_reducible apply Chip.acceptAnnouncement_holds | with_reducible apply Chip.linkRecord_holds | with_reducible refine ite_holds ?_ ?_)
theorem aonPowerLoss_holds (p : Part) (hp : Holds memWf anyDue p.chip) : Holds memWf anyDue (aonPowerLoss p).chip := by
  conv in (aonPowerLoss p) => (unfold aonPowerLoss; try dsimp only)
  repeat' (first | with_reducible assumption | with_reducible apply Chip.noPower_holds)
theorem aonPowerUp_holds (p : Part) (hp : Holds memWf anyDue p.chip) : Holds memWf anyDue (aonPowerUp p).chip := by
  conv in (aonPowerUp p) => (unfold aonPowerUp; try dsimp only)
  repeat' (first | with_reducible assumption | with_reducible apply Chip.noPower_holds | (with_reducible refine has_chip rfl ?_; first | with_reducible assumption | with_reducible apply Chip.noPower_holds | (refine ⟨?_, ?_⟩ <;> (dsimp only; first | exact trivial | with_reducible apply Chip.Holds.mem (Q := anyDue) | with_reducible apply Chip.Holds.due (P := memWf)))) | (refine ⟨?_, ?_⟩ <;> (dsimp only; first | exact trivial | with_reducible apply Chip.Holds.mem (Q := anyDue) | with_reducible apply Chip.Holds.due (P := memWf))))
theorem arbiterGrant_holds (a : Nat) (b : List (Nat × Nat × Nat × Nat)) (e : Bool) (c : Chip) (hc : Holds memWf anyDue c) : Holds memWf anyDue (arbiterGrant a b e c) := by
  conv in (arbiterGrant a b e c) => (unfold arbiterGrant; try dsimp only)
  repeat' (first | with_reducible assumption | with_reducible apply Chip.longWaits_holds | with_reducible apply Chip.setArb_holds | with_reducible apply Chip.showArb_holds)
theorem avtpFrame_holds (a : Nat) (b : Nat) (e : Nat) (f : Nat) (g : Nat) (i : List (List W32)) (c : Chip) (hc : Holds P Q c) : Holds P Q (avtpFrame a b e f g i c) := by
  conv in (avtpFrame a b e f g i c) => (unfold avtpFrame; try dsimp only)
  repeat' (first | with_reducible assumption | with_reducible apply Chip.avtpAt_holds | with_reducible apply foldl_holds | with_reducible intro _)
theorem bridgeRead_holds (a : Nat) (b : Nat) (e : Nat) (f : Nat) (p : Part) (hp : Holds memWf anyDue p.chip) : Holds memWf anyDue (bridgeRead a b e f p).chip := by
  conv in (bridgeRead a b e f p) => (unfold bridgeRead; try dsimp only)
  repeat' (first | with_reducible assumption | with_reducible apply Part.numbered_holds | with_reducible apply Part.serve_holds | with_reducible refine ite_part ?_ ?_)
theorem bridgeReadDiscard_holds (c : Chip) (hc : Holds P Q c) : Holds P Q (bridgeReadDiscard c) := by
  conv in (bridgeReadDiscard c) => (unfold bridgeReadDiscard; try dsimp only)
  repeat' (first | with_reducible assumption | with_reducible apply Chip.count_holds | with_reducible apply Chip.updLink_holds)
theorem bridgeReadFetched_holds (c : Chip) (hc : Holds P Q c) : Holds P Q (bridgeReadFetched c) := by
  conv in (bridgeReadFetched c) => (unfold bridgeReadFetched; try dsimp only)
  repeat' (first | with_reducible assumption | with_reducible apply Chip.fetchRead_holds | split)
theorem bridgeWrite_holds (a : Nat) (b : Nat) (e : Nat) (f : Nat) (g : List Byte) (p : Part) (hp : Holds memWf anyDue p.chip) : Holds memWf anyDue (bridgeWrite a b e f g p).chip := by
  conv in (bridgeWrite a b e f g p) => (unfold bridgeWrite; try dsimp only)
  repeat' (first | with_reducible assumption | with_reducible apply Chip.denied_holds | with_reducible apply Chip.failed_holds | with_reducible apply Part.crossWrite_holds | with_reducible apply Part.numbered_holds | with_reducible apply Part.serve_holds | with_reducible refine ite_part ?_ ?_ | (with_reducible refine has_chip rfl ?_; first | with_reducible assumption | with_reducible apply Chip.denied_holds | with_reducible apply Chip.failed_holds | with_reducible apply Part.crossWrite_holds | with_reducible apply Part.numbered_holds | with_reducible apply Part.serve_holds | with_reducible refine ite_part ?_ ?_) | split)
theorem cameraFrameEnd_holds (a : Nat) (c : Chip) (hc : Holds memWf anyDue c) : Holds memWf anyDue (cameraFrameEnd a c) := by
  conv in (cameraFrameEnd a c) => (unfold cameraFrameEnd; try dsimp only)
  repeat' (first | with_reducible assumption | with_reducible apply Chip.boundary_holds | with_reducible apply Chip.lateOver_holds | with_reducible apply Chip.publishEnded_holds | with_reducible apply Chip.updFrame_holds | with_reducible refine ite_holds ?_ ?_ | split)
theorem cameraRow_holds (a : Nat) (b : Nat) (e : Nat) (f : List Byte) (c : Chip) (hc : Holds memWf anyDue c) : Holds memWf anyDue (cameraRow a b e f c) := by
  conv in (cameraRow a b e f c) => (unfold cameraRow; try dsimp only)
  repeat' (first | with_reducible assumption | with_reducible apply Chip.freeFrame_holds | with_reducible apply Chip.streamBad_holds | with_reducible apply Chip.takeRow_holds | with_reducible refine ite_holds ?_ ?_ | split)
theorem canArbitration_holds (a : Nat) (b : Bool) (c : Chip) (hc : Holds P Q c) : Holds P Q (canArbitration a b c) := by
  have h : ∀ r, c.canOffer a = some r → Holds P Q r.2 := by
    intro r e
    unfold Chip.canOffer at e
    dsimp only at e
    repeat' (first | contradiction | (cases e) | split at e | with_reducible apply Chip.updNet_holds | with_reducible apply Chip.setReg_holds | with_reducible assumption)
  unfold canArbitration
  split
  · exact hc
  · split
    · exact hc
    · rename_i e; exact Chip.send_holds _ _ _ (h _ e)
theorem canBusOff_holds (a : Nat) (b : Nat) (e : Nat) (c : Chip) (hc : Holds memWf anyDue c) : Holds memWf anyDue (canBusOff a b e c) := by
  conv in (canBusOff a b e c) => (unfold canBusOff; try dsimp only)
  repeat' (first | with_reducible assumption | with_reducible apply Chip.netRecord_holds | with_reducible apply Chip.setReg_holds | with_reducible refine ite_holds ?_ ?_)
theorem canFrameRx_holds (a : Nat) (b : Nat) (e : CanFrame) (c : Chip) (hc : Holds memWf anyDue c) : Holds memWf anyDue (canFrameRx a b e c) := by
  conv in (canFrameRx a b e c) => (unfold canFrameRx; try dsimp only)
  repeat' (first | with_reducible assumption | with_reducible apply Chip.canRecord_holds | with_reducible apply Chip.canRoute_holds | with_reducible apply Chip.wheelFrames_holds | with_reducible refine ite_holds ?_ ?_ | split)
theorem captureBlock_holds (a : Nat) (c : Chip) (hc : Holds memWf anyDue c) : Holds memWf anyDue (captureBlock a c) := by
  conv in (captureBlock a c) => (unfold captureBlock; try dsimp only)
  repeat' (first | with_reducible assumption | with_reducible apply Chip.endBlock_holds | with_reducible refine ite_holds ?_ ?_ | split)
theorem challengeLapse_holds (p : Part) (hp : Holds P Q p.chip) : Holds P Q (challengeLapse p).chip := by
  conv in (challengeLapse p) => (unfold challengeLapse; try dsimp only)
  repeat' (first | with_reducible assumption | with_reducible refine ite_part ?_ ?_ | (with_reducible refine has_chip rfl ?_; first | with_reducible assumption | with_reducible refine ite_part ?_ ?_) | split)
theorem checkerTest_holds (a : Nat) (b : Bool) (e : Nat) (f : Nat) (c : Chip) (hc : Holds memWf anyDue c) : Holds memWf anyDue (checkerTest a b e f c) := by
  conv in (checkerTest a b e f c) => (unfold checkerTest; try dsimp only)
  repeat' (first | with_reducible assumption | with_reducible apply Chip.checkTaken_holds | with_reducible apply Chip.checkerFail_holds | with_reducible apply Chip.checkerPass_holds | with_reducible apply Chip.finish_holds | with_reducible apply foldl_holds | with_reducible refine ite_holds ?_ ?_ | split | with_reducible intro _)
theorem checkpointTrigger_holds (a : Nat) (c : Chip) (hc : Holds memWf anyDue c) : Holds memWf anyDue (checkpointTrigger a c) := by
  conv in (checkpointTrigger a c) => (unfold checkpointTrigger; try dsimp only)
  repeat' (first | with_reducible assumption | with_reducible apply Chip.ckptArm_holds | with_reducible apply Chip.count_holds | with_reducible apply Chip.sendCkpt_holds | with_reducible refine ite_holds ?_ ?_ | split)
theorem chunkRead_holds (a : Nat) (b : Delivered) (e : Operand) (f : Nat) (g : Nat) (i : Nat)  : TileM.Keeps memWf anyDue (chunkRead a b e f g i) := by
  conv in (chunkRead a b e f g i) => (unfold chunkRead; try dsimp only)
  repeat' (first | with_reducible apply TileM.fault_holds | with_reducible apply operandRead_holds | with_reducible apply TileM.fault_holds | with_reducible apply TileM.Keeps.pure | with_reducible apply TileM.Keeps.bind | split | with_reducible intro _)
theorem ckptAck_holds (a : Nat) (b : Nat) (e : Nat) (c : Chip) (hc : Holds memWf anyDue c) : Holds memWf anyDue (ckptAck a b e c) := by
  conv in (ckptAck a b e c) => (unfold ckptAck; try dsimp only)
  repeat' (first | with_reducible assumption | with_reducible apply Chip.ckptFailed_holds | with_reducible apply Chip.count_holds | with_reducible apply Chip.updLink_holds | with_reducible refine ite_holds ?_ ?_)
theorem ckptStart_holds (a : Nat) (b : Nat) (e : Nat) (f : List Byte) (c : Chip) (hc : Holds memWf anyDue c) : Holds memWf anyDue (ckptStart a b e f c) := by
  conv in (ckptStart a b e f c) => (unfold ckptStart; try dsimp only)
  repeat' (first | with_reducible assumption | with_reducible apply Chip.ckptSignal_holds | with_reducible apply Chip.saveRange_holds | with_reducible apply Chip.sendAck_holds | with_reducible refine of_snd2 (by assumption) ?_ | with_reducible refine ite_holds ?_ ?_ | split)
theorem claimExpiry_holds (a : Nat) (p : Part) (hp : Holds memWf anyDue p.chip) : Holds memWf anyDue (claimExpiry a p).chip := by
  conv in (claimExpiry a p) => (unfold claimExpiry; try dsimp only)
  repeat' (first | with_reducible assumption | with_reducible apply Chip.claimLate_holds | with_reducible apply Chip.draw_holds | with_reducible apply Part.gateFinish_holds | with_reducible refine ite_part ?_ ?_ | (with_reducible refine has_chip rfl ?_; first | with_reducible assumption | with_reducible apply Chip.claimLate_holds | with_reducible apply Chip.draw_holds | with_reducible apply Part.gateFinish_holds | with_reducible refine ite_part ?_ ?_) | split)
theorem claimRelease_holds (a : Nat) (p : Part) (hp : Holds memWf anyDue p.chip) : Holds memWf anyDue (claimRelease a p).chip := by
  conv in (claimRelease a p) => (unfold claimRelease; try dsimp only)
  repeat' (first | with_reducible assumption | with_reducible apply Chip.unclaim_holds | with_reducible apply Part.gateFinish_holds | with_reducible apply Part.serviceDone_holds | with_reducible refine ite_part ?_ ?_ | (with_reducible refine has_chip rfl ?_; first | with_reducible assumption | with_reducible apply Chip.unclaim_holds | with_reducible apply Part.gateFinish_holds | with_reducible apply Part.serviceDone_holds | with_reducible refine ite_part ?_ ?_) | split)
theorem coldStart_holds (a : Nat) (p : Part) (hp : Holds memWf anyDue p.chip) : Holds memWf anyDue (coldStart a p).chip := by
  conv in (coldStart a p) => (unfold coldStart; try dsimp only)
  repeat' (first | with_reducible assumption | with_reducible apply Chip.readStraps_holds | with_reducible apply Part.coldChecks_holds | with_reducible apply Part.enterRecovery_holds | with_reducible apply Part.release_holds | with_reducible refine ite_part ?_ ?_)
theorem commitLoad_holds (a : Nat) (c : Chip) (hc : Holds P Q c) : Holds P Q (commitLoad a c) := by
  conv in (commitLoad a c) => (unfold commitLoad; try dsimp only)
  repeat' (first | with_reducible assumption | with_reducible apply Chip.loadPipe_holds | with_reducible refine ite_holds ?_ ?_)
theorem convLanes_holds (a : Nat) (b : TileIns)  : TileM.Keeps P Q (convLanes a b) := by
  conv in (convLanes a b) => (unfold convLanes; try dsimp only)
  repeat' (first | with_reducible apply Chip.setReg_holds | split | with_reducible intro _ | with_reducible refine TileM.Keeps.fn ?_)
theorem convWrite_holds (a : Nat) (b : TileIns) (e : List Conv) (f : List Nat)  : TileM.Keeps memWf anyDue (convWrite a b e f) := by
  conv in (convWrite a b e f) => (unfold convWrite; try dsimp only)
  repeat' (first | with_reducible assumption | with_reducible apply Chip.tileNan_holds | with_reducible apply Chip.tileSat_holds | with_reducible apply TileM.change_holds | with_reducible apply operandWrite_holds | with_reducible apply TileM.change_holds | with_reducible apply TileM.Keeps.bind | with_reducible intro _)
theorem convertAll_holds (a : Nat) (b : TileIns) (e : Option (Int × Int)) (f : Nat → Int) (g : List FVal)  : TileM.Keeps memWf anyDue (convertAll a b e f g) := by
  conv in (convertAll a b e f g) => (unfold convertAll; try dsimp only)
  repeat' (first | with_reducible apply convLanes_holds | with_reducible apply convWrite_holds | with_reducible apply TileM.Keeps.bind | split | with_reducible intro _)
theorem coreFail_holds (a : Nat) (b : ErrRec) (p : Part) (hp : Holds memWf anyDue p.chip) : Holds memWf anyDue (coreFail a b p).chip := by
  conv in (coreFail a b p) => (unfold coreFail; try dsimp only)
  repeat' (first | with_reducible assumption | with_reducible apply Chip.coreLost_holds | with_reducible apply Part.storm_holds | with_reducible refine ite_part ?_ ?_)
theorem coreFault_holds (a : Nat) (b : Bool) (e : W64) (p : Part) (hp : Holds memWf anyDue p.chip) : Holds memWf anyDue (coreFault a b e p).chip := by
  conv in (coreFault a b e p) => (unfold coreFault; try dsimp only)
  repeat' (first | with_reducible assumption | with_reducible apply Chip.draw_holds | with_reducible apply coreFail_holds | with_reducible refine ite_part ?_ ?_)
theorem coreRejoin_holds (a : Nat) (p : Part) (hp : Holds P Q p.chip) : Holds P Q (coreRejoin a p).chip := by
  conv in (coreRejoin a p) => (unfold coreRejoin; try dsimp only)
  repeat' (first | with_reducible assumption | with_reducible apply Chip.setCore_holds | with_reducible apply Chip.showServices_holds | with_reducible refine ite_part ?_ ?_)
theorem crCheck_holds (a : List Byte)  : TileM.Keeps P Q (crCheck a) := by
  conv in (crCheck a) => (unfold crCheck; try dsimp only)
  repeat' (first | with_reducible apply EngM.need_holds | with_reducible apply TileM.Keeps.bind | with_reducible intro _)
theorem crCount_holds (a : Nat) (b : List Byte)  : TileM.Keeps memWf anyDue (crCount a b) := by
  conv in (crCount a b) => (unfold crCount; try dsimp only)
  repeat' (first | with_reducible apply engLoad_holds | with_reducible apply TileM.Keeps.pure | with_reducible apply TileM.Keeps.bind | split | with_reducible intro _)
theorem cropOp_holds (a : Nat) (b : List Byte)  : TileM.Keeps memWf anyDue (cropOp a b) := by
  conv in (cropOp a b) => (unfold cropOp; try dsimp only)
  repeat' (first | with_reducible apply Chip.updEngine_holds | with_reducible apply EngM.need_holds | with_reducible apply TileM.change_holds | with_reducible apply crCheck_holds | with_reducible apply crCount_holds | with_reducible apply TileM.chip_holds | with_reducible apply TileM.change_holds | with_reducible apply TileM.Keeps.pure | with_reducible apply TileM.Keeps.bind | split | with_reducible intro _)
theorem dceLfsrCommand_holds (a : Nat) (b : Nat) (e : Nat) (f : Nat) (g : W32) (c : Chip) (hc : Holds memWf anyDue c) : Holds memWf anyDue (dceLfsrCommand a b e f g c) := by
  conv in (dceLfsrCommand a b e f g c) => (unfold dceLfsrCommand; try dsimp only)
  repeat' (first | with_reducible assumption | with_reducible apply Chip.checkedWrite_holds | with_reducible apply dceLfsrWrite_holds)
theorem deadlineMiss_holds (a : Nat) (c : Chip) (hc : Holds memWf anyDue c) : Holds memWf anyDue (deadlineMiss a c) := by
  conv in (deadlineMiss a c) => (unfold deadlineMiss; try dsimp only)
  repeat' (first | with_reducible assumption | with_reducible apply Chip.missed_holds | with_reducible apply Chip.setOutput_holds | with_reducible refine ite_holds ?_ ?_ | split)
theorem detachAck_holds (c : Chip) (hc : Holds P Q c) : Holds P Q (detachAck c) := by
  conv in (detachAck c) => (unfold detachAck; try dsimp only)
  repeat' (first | with_reducible assumption | with_reducible apply Chip.nowDetached_holds | with_reducible refine ite_holds ?_ ?_)
theorem detachReq_holds (c : Chip) (hc : Holds memWf anyDue c) : Holds memWf anyDue (detachReq c) := by
  conv in (detachReq c) => (unfold detachReq; try dsimp only)
  repeat' (first | with_reducible assumption | with_reducible apply Chip.partnerLost_holds | with_reducible apply Chip.twinSend_holds | with_reducible refine ite_holds ?_ ?_)
theorem dirtyLogDisable_holds (a : Nat) (c : Chip) (hc : Holds P Q c) : Holds P Q (dirtyLogDisable a c) := by
  conv in (dirtyLogDisable a c) => (unfold dirtyLogDisable; try dsimp only)
  repeat' (first | with_reducible assumption | with_reducible apply Chip.dirtyLogOp_holds | with_reducible apply Chip.finish_holds | (refine ⟨?_, ?_⟩ <;> (dsimp only; first | exact trivial | with_reducible apply Chip.Holds.mem (Q := Q) | with_reducible apply Chip.Holds.due (P := P))) | with_reducible intro _)
theorem dirtyLogEnable_holds (a : Nat) (c : Chip) (hc : Holds memWf anyDue c) : Holds memWf anyDue (dirtyLogEnable a c) := by
  conv in (dirtyLogEnable a c) => (unfold dirtyLogEnable; try dsimp only)
  repeat' (first | with_reducible assumption | with_reducible apply Chip.dirtyLogOp_holds | with_reducible apply Chip.finish_holds | with_reducible apply Chip.store_holds | (refine ⟨?_, ?_⟩ <;> (dsimp only; first | exact trivial | with_reducible apply Chip.Holds.mem (Q := anyDue) | with_reducible apply Chip.Holds.due (P := memWf))) | with_reducible intro _)
theorem dirtyLogReadClear_holds (a : Nat) (c : Chip) (hc : Holds memWf anyDue c) : Holds memWf anyDue (dirtyLogReadClear a c) := by
  conv in (dirtyLogReadClear a c) => (unfold dirtyLogReadClear; try dsimp only)
  repeat' (first | with_reducible assumption | with_reducible apply Chip.dirtyLogOp_holds | with_reducible apply Chip.finish_holds | with_reducible apply Chip.store_holds | with_reducible intro _)
theorem displayLinkLoss_holds (a : Nat) (b : Bool) (c : Chip) (hc : Holds memWf anyDue c) : Holds memWf anyDue (displayLinkLoss a b c) := by
  conv in (displayLinkLoss a b c) => (unfold displayLinkLoss; try dsimp only)
  repeat' (first | with_reducible assumption | with_reducible apply Chip.event_holds | with_reducible apply Chip.setFld_holds | with_reducible refine ite_holds ?_ ?_)
theorem divergence_holds (c : Chip) (hc : Holds P Q c) : Holds P Q (divergence c) := by
  conv in (divergence c) => (unfold divergence; try dsimp only)
  repeat' (first | with_reducible assumption | with_reducible apply Chip.aleFreeze_holds | with_reducible refine ite_holds ?_ ?_ | split)
theorem domainStage_holds (a : Nat) (p : Part) (hp : Holds memWf anyDue p.chip) : Holds memWf anyDue (domainStage a p).chip := by
  conv in (domainStage a p) => (unfold domainStage; try dsimp only)
  repeat' (first | with_reducible assumption | with_reducible apply Chip.finish_holds | with_reducible apply Chip.onPacket_holds | with_reducible apply Chip.stageList_holds | with_reducible apply Part.stageJudged_holds | with_reducible refine of_snd2 (by assumption) ?_ | split | with_reducible intro _)
theorem domainSwitch_holds (a : Nat) (c : Chip) (hc : Holds P Q c) : Holds P Q (domainSwitch a c) := by
  conv in (domainSwitch a c) => (unfold domainSwitch; try dsimp only)
  repeat' (first | with_reducible assumption | with_reducible apply Chip.finish_holds | with_reducible apply Chip.onSwitch_holds | with_reducible apply Chip.showDomain_holds | with_reducible apply Chip.updDomain_holds | split | with_reducible intro _)
theorem domainSwitchCancel_holds (a : Nat) (c : Chip) (hc : Holds memWf anyDue c) : Holds memWf anyDue (domainSwitchCancel a c) := by
  conv in (domainSwitchCancel a c) => (unfold domainSwitchCancel; try dsimp only)
  repeat' (first | with_reducible assumption | with_reducible apply Chip.cancelSwitch_holds | with_reducible apply Chip.finish_holds | with_reducible apply Chip.onSwitch_holds | split | with_reducible intro _)
theorem domainSwitchTime_holds (c : Chip) (hc : Holds memWf anyDue c) : Holds memWf anyDue (domainSwitchTime c) := by
  conv in (domainSwitchTime c) => (unfold domainSwitchTime; try dsimp only)
  repeat' (first | with_reducible assumption | with_reducible apply Chip.switchNow_holds | with_reducible refine ite_holds ?_ ?_ | split)
theorem dramCalibration_holds (a : Nat) (b : Bool) (c : Chip) (hc : Holds memWf anyDue c) : Holds memWf anyDue (dramCalibration a b c) := by
  conv in (dramCalibration a b c) => (unfold dramCalibration; try dsimp only)
  repeat' (first | with_reducible assumption | with_reducible apply Chip.error_holds | with_reducible refine ite_holds ?_ ?_)
theorem dramRead_holds (a : Nat) (c : Chip) (hc : Holds memWf anyDue c) : Holds memWf anyDue (dramRead a c) := by
  conv in (dramRead a c) => (unfold dramRead; try dsimp only)
  repeat' (first | with_reducible assumption | with_reducible apply Chip.answer_holds | with_reducible apply Chip.count_holds | with_reducible apply Chip.lookValid_holds | with_reducible apply Chip.mergeReads_holds | with_reducible apply Chip.serveRead_holds | with_reducible apply Chip.unqueue_holds | with_reducible apply Chip.waitFill_holds | with_reducible refine ite_holds ?_ ?_ | split)
theorem dramWrite_holds (a : Nat) (c : Chip) (hc : Holds memWf anyDue c) : Holds memWf anyDue (dramWrite a c) := by
  conv in (dramWrite a c) => (unfold dramWrite; try dsimp only)
  repeat' (first | with_reducible assumption | with_reducible apply Chip.lookValid_holds | with_reducible apply Chip.mergeWrites_holds | with_reducible apply Chip.serveWrite_holds | with_reducible apply Chip.startFills_holds | with_reducible apply Chip.unqueue_holds | with_reducible apply Chip.waitFill_holds | with_reducible refine ite_holds ?_ ?_ | split)
theorem endLoop_holds (a : Nat) (c : Chip) (hc : Holds memWf anyDue c) : Holds memWf anyDue (endLoop a c) := by
  conv in (endLoop a c) => (unfold endLoop; try dsimp only)
  repeat' (first | with_reducible assumption | with_reducible apply Chip.control_holds)
theorem wdCheck_holds (a : Nat) (b : List Byte)  : TileM.Keeps P Q (wdCheck a b) := by
  conv in (wdCheck a b) => (unfold wdCheck; try dsimp only)
  repeat' (first | with_reducible apply EngM.fault_holds | with_reducible apply EngM.need_holds | with_reducible apply EngM.fault_holds | with_reducible apply TileM.Keeps.pure | with_reducible apply TileM.Keeps.bind | split | with_reducible intro _)
theorem engCheck_holds (a : Nat) (b : List Byte)  : TileM.Keeps P Q (engCheck a b) := by
  conv in (engCheck a b) => (unfold engCheck; try dsimp only)
  repeat' (first | with_reducible apply EngM.need_holds | with_reducible apply crCheck_holds | with_reducible apply wdCheck_holds | with_reducible apply TileM.Keeps.pure | with_reducible apply TileM.Keeps.bind | split | with_reducible intro _)
theorem engDescriptor_holds (a : Nat) (b : Nat)  : TileM.Keeps memWf anyDue (engDescriptor a b) := by
  conv in (engDescriptor a b) => (unfold engDescriptor; try dsimp only)
  repeat' (first | with_reducible assumption | with_reducible apply Chip.imageRead_holds | with_reducible refine of_snd2 (by assumption) ?_ | split | with_reducible intro _ | with_reducible refine TileM.Keeps.fn ?_)
theorem wdShape_holds (a : Nat) (b : Nat) (e : List Byte)  : TileM.Keeps memWf anyDue (wdShape a b e) := by
  conv in (wdShape a b e) => (unfold wdShape; try dsimp only)
  repeat' (first | with_reducible apply engLoad_holds | with_reducible apply TileM.Keeps.pure | with_reducible apply TileM.Keeps.bind | split | with_reducible intro _)
theorem windowOp_holds (a : Nat) (b : Nat) (e : List Byte)  : TileM.Keeps memWf anyDue (windowOp a b e) := by
  conv in (windowOp a b e) => (unfold windowOp; try dsimp only)
  repeat' (first | with_reducible apply Chip.updEngine_holds | with_reducible apply EngM.need_holds | with_reducible apply TileM.change_holds | with_reducible apply wdCheck_holds | with_reducible apply wdShape_holds | with_reducible apply TileM.chip_holds | with_reducible apply TileM.change_holds | with_reducible apply TileM.Keeps.pure | with_reducible apply TileM.Keeps.bind | split | with_reducible intro _)
theorem engOp_holds (a : Nat) (b : Nat) (e : List Byte)  : TileM.Keeps memWf anyDue (engOp a b e) := by
  conv in (engOp a b e) => (unfold engOp; try dsimp only)
  repeat' (first | with_reducible apply cropOp_holds | with_reducible apply windowOp_holds | split)
theorem engWait_holds (a : Nat) (b : Nat) (e : EngSync)  : TileM.Keeps P Q (engWait a b e) := by
  conv in (engWait a b e) => (unfold engWait; try dsimp only)
  repeat' (first | with_reducible assumption | with_reducible apply Chip.setEngState_holds | with_reducible apply EngM.fault_holds | with_reducible apply EngM.need_holds | with_reducible apply TileM.change_holds | with_reducible apply TileM.chip_holds | with_reducible apply EngM.fault_holds | with_reducible apply TileM.change_holds | with_reducible apply TileM.Keeps.pure | with_reducible apply TileM.Keeps.bind | (refine ⟨?_, ?_⟩ <;> (dsimp only; first | exact trivial | with_reducible apply Chip.Holds.mem (Q := Q) | with_reducible apply Chip.Holds.due (P := P))) | split | with_reducible intro _)
theorem engStart_holds (a : Nat) (b : Nat) (e : Nat)  : TileM.Keeps memWf anyDue (engStart a b e) := by
  conv in (engStart a b e) => (unfold engStart; try dsimp only)
  repeat' (first | with_reducible apply Chip.engBusy_holds | with_reducible apply Chip.engRunning_holds | with_reducible apply TileM.change_holds | with_reducible apply engCheck_holds | with_reducible apply engDescriptor_holds | with_reducible apply engOp_holds | with_reducible apply engWait_holds | with_reducible apply TileM.change_holds | with_reducible apply TileM.Keeps.pure | with_reducible apply TileM.Keeps.bind | split | with_reducible intro _)
theorem engineDescriptorDone_holds (a : Nat) (b : Nat) (c : Chip) (hc : Holds memWf anyDue c) : Holds memWf anyDue (engineDescriptorDone a b c) := by
  conv in (engineDescriptorDone a b c) => (unfold engineDescriptorDone; try dsimp only)
  repeat' (first | with_reducible assumption | with_reducible apply Chip.engDone_holds | with_reducible apply Chip.engNext_holds | with_reducible apply Chip.engineFault_holds | with_reducible apply Chip.unitSignal_holds | with_reducible apply engGo_holds | with_reducible apply TileM.Keeps.run | with_reducible refine of_snd (by assumption) ?_ | with_reducible refine ite_holds ?_ ?_ | split)
theorem engineRow_holds (a : Nat) (b : Nat) (e : Nat) (c : Chip) (hc : Holds memWf anyDue c) : Holds memWf anyDue (engineRow a b e c) := by
  conv in (engineRow a b e c) => (unfold engineRow; try dsimp only)
  repeat' (first | with_reducible assumption | with_reducible apply Chip.engineFault_holds | with_reducible apply engStart_holds | with_reducible apply TileM.Keeps.run | with_reducible refine of_snd (by assumption) ?_ | with_reducible refine ite_holds ?_ ?_ | split)
theorem ethFrameRx_holds (a : Nat) (b : List Byte) (p : Part) (hp : Holds memWf anyDue p.chip) : Holds memWf anyDue (ethFrameRx a b p).chip := by
  conv in (ethFrameRx a b p) => (unfold ethFrameRx; try dsimp only)
  repeat' (first | with_reducible assumption | with_reducible apply Chip.frameIn_holds | with_reducible apply Chip.frameTaken_holds | with_reducible apply Chip.netDrop_holds | with_reducible refine ite_part ?_ ?_)
theorem ethFrameTx_holds (a : Nat) (p : Part) (hp : Holds memWf anyDue p.chip) : Holds memWf anyDue (ethFrameTx a p).chip := by
  conv in (ethFrameTx a p) => (unfold ethFrameTx; try dsimp only)
  repeat' (first | with_reducible assumption | with_reducible apply Chip.sendFrame_holds | with_reducible refine ite_part ?_ ?_ | (with_reducible refine has_chip rfl ?_; first | with_reducible assumption | with_reducible apply Chip.sendFrame_holds | with_reducible refine ite_part ?_ ?_) | split)
theorem ethLinkDown_holds (a : Nat) (c : Chip) (hc : Holds memWf anyDue c) : Holds memWf anyDue (ethLinkDown a c) := by
  conv in (ethLinkDown a c) => (unfold ethLinkDown; try dsimp only)
  repeat' (first | with_reducible assumption | with_reducible apply Chip.netRecord_holds | with_reducible apply Chip.setFld_holds | with_reducible refine ite_holds ?_ ?_)
theorem fencePacket_holds (a : Nat) (c : Chip) (hc : Holds P Q c) : Holds P Q (fencePacket a c) := by
  conv in (fencePacket a c) => (unfold fencePacket; try dsimp only)
  repeat' (first | with_reducible assumption | with_reducible apply Chip.finish_holds | with_reducible apply Chip.keepRunning_holds | with_reducible apply Chip.onPacket_holds | split | with_reducible intro _)
theorem fenceRelease_holds (a : Nat) (c : Chip) (hc : Holds P Q c) : Holds P Q (fenceRelease a c) := by
  conv in (fenceRelease a c) => (unfold fenceRelease; try dsimp only)
  repeat' (first | with_reducible assumption | with_reducible apply Chip.finish_holds | with_reducible apply Chip.stampReady_holds | with_reducible refine ite_holds ?_ ?_ | split)
theorem frameEndCrc_holds (a : Nat) (b : List (Nat × Nat)) (c : Chip) (hc : Holds memWf anyDue c) : Holds memWf anyDue (frameEndCrc a b c) := by
  conv in (frameEndCrc a b c) => (unfold frameEndCrc; try dsimp only)
  repeat' (first | with_reducible assumption | with_reducible apply Chip.endFrame_holds | with_reducible apply Chip.frameLines_holds | with_reducible refine ite_holds ?_ ?_)
theorem frerReset_holds (a : Nat) (c : Chip) (hc : Holds P Q c) : Holds P Q (frerReset a c) := by
  conv in (frerReset a c) => (unfold frerReset; try dsimp only)
  repeat' (first | with_reducible assumption | with_reducible apply Chip.updNet_holds | with_reducible refine ite_holds ?_ ?_)
theorem functionDisable_holds (a : Nat) (c : Chip) (hc : Holds P Q c) : Holds P Q (functionDisable a c) := by
  conv in (functionDisable a c) => (unfold functionDisable; try dsimp only)
  repeat' (first | with_reducible assumption | with_reducible apply Chip.finish_holds | with_reducible apply Chip.keepRunning_holds | with_reducible apply Chip.onPacket_holds | with_reducible apply Chip.refuseFunctions_holds | with_reducible apply Chip.stampReady_holds | with_reducible apply Chip.updDrains_holds | (refine ⟨?_, ?_⟩ <;> (dsimp only; first | exact trivial | with_reducible apply Chip.Holds.mem (Q := Q) | with_reducible apply Chip.Holds.due (P := P))) | split | with_reducible intro _)
theorem functionDisableDrained_holds (a : Nat) (p : Part) (hp : Holds memWf anyDue p.chip) : Holds memWf anyDue (functionDisableDrained a p).chip := by
  conv in (functionDisableDrained a p) => (unfold functionDisableDrained; try dsimp only)
  repeat' (first | with_reducible assumption | with_reducible apply Chip.endDrain_holds | with_reducible apply Chip.finish_holds | with_reducible apply Part.drainedDestroy_holds | with_reducible refine ite_part ?_ ?_ | (with_reducible refine has_chip rfl ?_; first | with_reducible assumption | with_reducible apply Chip.endDrain_holds | with_reducible apply Chip.finish_holds | with_reducible apply Part.drainedDestroy_holds | with_reducible refine ite_part ?_ ?_) | split)
theorem functionDisableTimeout_holds (a : Nat) (c : Chip) (hc : Holds memWf anyDue c) : Holds memWf anyDue (functionDisableTimeout a c) := by
  conv in (functionDisableTimeout a c) => (unfold functionDisableTimeout; try dsimp only)
  repeat' (first | with_reducible assumption | with_reducible apply Chip.abortFlying_holds | with_reducible apply Chip.updDrains_holds | with_reducible refine ite_holds ?_ ?_ | split)
theorem functionEnable_holds (a : Nat) (c : Chip) (hc : Holds P Q c) : Holds P Q (functionEnable a c) := by
  conv in (functionEnable a c) => (unfold functionEnable; try dsimp only)
  repeat' (first | with_reducible assumption | with_reducible apply Chip.finish_holds | with_reducible apply Chip.keepRunning_holds | with_reducible apply Chip.onPacket_holds | with_reducible apply Chip.updDrains_holds | with_reducible apply Chip.updSlice_holds | split | with_reducible intro _)
theorem fusePolicyContext_holds (a : Nat) (c : Chip) (hc : Holds P Q c) : Holds P Q (fusePolicyContext a c) := by
  conv in (fusePolicyContext a c) => (unfold fusePolicyContext; try dsimp only)
  repeat' (first | with_reducible assumption | with_reducible apply Chip.finish_holds | with_reducible apply Chip.onPolicy_holds | (refine ⟨?_, ?_⟩ <;> (dsimp only; first | exact trivial | with_reducible apply Chip.Holds.mem (Q := Q) | with_reducible apply Chip.Holds.due (P := P))) | split | with_reducible intro _)
theorem fusePolicyGrid_holds (a : Nat) (c : Chip) (hc : Holds P Q c) : Holds P Q (fusePolicyGrid a c) := by
  conv in (fusePolicyGrid a c) => (unfold fusePolicyGrid; try dsimp only)
  repeat' (first | with_reducible assumption | with_reducible apply Chip.bindGrid_holds | with_reducible apply Chip.finish_holds | with_reducible apply Chip.onPolicy_holds | split | with_reducible intro _)
theorem fusePolicyRelease_holds (a : Nat) (c : Chip) (hc : Holds P Q c) : Holds P Q (fusePolicyRelease a c) := by
  conv in (fusePolicyRelease a c) => (unfold fusePolicyRelease; try dsimp only)
  repeat' (first | with_reducible assumption | with_reducible apply Chip.finish_holds | with_reducible apply Chip.onPolicy_holds | with_reducible apply Chip.unbindPolicy_holds | split | with_reducible intro _)
theorem fusePolicyStream_holds (a : Nat) (c : Chip) (hc : Holds P Q c) : Holds P Q (fusePolicyStream a c) := by
  conv in (fusePolicyStream a c) => (unfold fusePolicyStream; try dsimp only)
  repeat' (first | with_reducible assumption | with_reducible apply Chip.finish_holds | with_reducible apply Chip.onPolicy_holds | with_reducible apply Chip.updStream_holds | split | with_reducible intro _)
theorem fusePolicyTracker_holds (a : Nat) (c : Chip) (hc : Holds memWf anyDue c) : Holds memWf anyDue (fusePolicyTracker a c) := by
  conv in (fusePolicyTracker a c) => (unfold fusePolicyTracker; try dsimp only)
  repeat' (first | with_reducible assumption | with_reducible apply Chip.bindTracker_holds | with_reducible apply Chip.finish_holds | with_reducible apply Chip.onPolicy_holds | split | with_reducible intro _)
theorem fuseStreamClose_holds (a : Nat) (c : Chip) (hc : Holds P Q c) : Holds P Q (fuseStreamClose a c) := by
  conv in (fuseStreamClose a c) => (unfold fuseStreamClose; try dsimp only)
  repeat' (first | with_reducible assumption | with_reducible apply Chip.askClose_holds | with_reducible apply Chip.closeStream_holds | with_reducible apply Chip.finish_holds | with_reducible apply Chip.onPacket_holds | split | with_reducible intro _)
theorem fuseStreamOpen_holds (a : Nat) (c : Chip) (hc : Holds P Q c) : Holds P Q (fuseStreamOpen a c) := by
  conv in (fuseStreamOpen a c) => (unfold fuseStreamOpen; try dsimp only)
  repeat' (first | with_reducible assumption | with_reducible apply Chip.finish_holds | with_reducible apply Chip.onPacket_holds | with_reducible apply Chip.openStream_holds | split | with_reducible intro _)
theorem gateFault_holds (a : Nat) (b : Nat) (e : W32) (p : Part) (hp : Holds memWf anyDue p.chip) : Holds memWf anyDue (gateFault a b e p).chip := by
  conv in (gateFault a b e p) => (unfold gateFault; try dsimp only)
  repeat' (first | with_reducible assumption | with_reducible apply Chip.draw_holds | with_reducible apply Chip.gateNotice_holds | with_reducible apply Chip.gateTrap_holds | with_reducible refine ite_part ?_ ?_ | (with_reducible refine has_chip rfl ?_; first | with_reducible assumption | with_reducible apply Chip.draw_holds | with_reducible apply Chip.gateNotice_holds | with_reducible apply Chip.gateTrap_holds | with_reducible refine ite_part ?_ ?_) | split)
theorem gateInterval_holds (a : Nat) (c : Chip) (hc : Holds P Q c) : Holds P Q (gateInterval a c) := by
  conv in (gateInterval a c) => (unfold gateInterval; try dsimp only)
  repeat' (first | with_reducible assumption | with_reducible apply Chip.gateGoesOn_holds | with_reducible apply Chip.updNet_holds | with_reducible refine ite_holds ?_ ?_ | split)
theorem gfxHang_holds (a : Nat) (b : Nat) (e : Nat) (f : List Nat) (g : List FragWord) (c : Chip) (hc : Holds memWf anyDue c) : Holds memWf anyDue (gfxHang a b e f g c) := by
  conv in (gfxHang a b e f g c) => (unfold gfxHang; try dsimp only)
  repeat' (first | with_reducible assumption | with_reducible apply Chip.failPass_holds | with_reducible apply Chip.renderTiles_holds | with_reducible refine of_snd (by assumption) ?_ | with_reducible refine ite_holds ?_ ?_ | split)
theorem gfxPass_holds (a : Nat) (c : Chip) (hc : Holds memWf anyDue c) : Holds memWf anyDue (gfxPass a c) := by
  conv in (gfxPass a c) => (unfold gfxPass; try dsimp only)
  repeat' (first | with_reducible assumption | with_reducible apply Chip.finish_holds | with_reducible apply Chip.handPass_holds | with_reducible apply Chip.onPacket_holds | with_reducible apply Chip.passLists_holds | with_reducible refine of_snd (by assumption) ?_ | split | with_reducible intro _)
theorem gmLoss_holds (c : Chip) (hc : Holds memWf anyDue c) : Holds memWf anyDue (gmLoss c) := by
  conv in (gmLoss c) => (unfold gmLoss; try dsimp only)
  repeat' (first | with_reducible assumption | with_reducible apply Chip.holdover_holds | with_reducible refine ite_holds ?_ ?_)
theorem goldenOverdue_holds (a : Nat) (c : Chip) (hc : Holds memWf anyDue c) : Holds memWf anyDue (goldenOverdue a c) := by
  conv in (goldenOverdue a c) => (unfold goldenOverdue; try dsimp only)
  repeat' (first | with_reducible assumption | with_reducible apply Chip.goldenLate_holds | with_reducible refine ite_holds ?_ ?_ | split)
theorem goldenRunDue_holds (a : Nat) (c : Chip) (hc : Holds memWf anyDue c) : Holds memWf anyDue (goldenRunDue a c) := by
  conv in (goldenRunDue a c) => (unfold goldenRunDue; try dsimp only)
  repeat' (first | with_reducible assumption | with_reducible apply Chip.checkChan_holds | with_reducible apply Chip.goldenDefer_holds | with_reducible apply Chip.goldenFail_holds | with_reducible apply Chip.goldenNext_holds | with_reducible apply Chip.goldenStart_holds | with_reducible apply Chip.pressLow_holds | with_reducible refine of_snd (by assumption) ?_ | with_reducible refine ite_holds ?_ ?_ | split)
theorem goldenRunEnd_holds (a : Nat) (c : Chip) (hc : Holds memWf anyDue c) : Holds memWf anyDue (goldenRunEnd a c) := by
  conv in (goldenRunEnd a c) => (unfold goldenRunEnd; try dsimp only)
  repeat' (first | with_reducible assumption | with_reducible apply Chip.goldenFail_holds | with_reducible apply Chip.goldenPass_holds | with_reducible apply Chip.loadRange_holds | with_reducible apply Chip.removeJob_holds | with_reducible refine of_snd2 (by assumption) ?_ | with_reducible refine ite_holds ?_ ?_ | split)
theorem goldenScheduleClear_holds (a : Nat) (c : Chip) (hc : Holds P Q c) : Holds P Q (goldenScheduleClear a c) := by
  conv in (goldenScheduleClear a c) => (unfold goldenScheduleClear; try dsimp only)
  repeat' (first | with_reducible assumption | with_reducible apply Chip.clearGolden_holds | with_reducible apply Chip.finish_holds | with_reducible apply Chip.onGolden_holds | with_reducible intro _)
theorem goldenScheduleRunNow_holds (a : Nat) (c : Chip) (hc : Holds P Q c) : Holds P Q (goldenScheduleRunNow a c) := by
  conv in (goldenScheduleRunNow a c) => (unfold goldenScheduleRunNow; try dsimp only)
  repeat' (first | with_reducible assumption | with_reducible apply Chip.finish_holds | with_reducible apply Chip.goldenNow_holds | with_reducible apply Chip.onGolden_holds | split | with_reducible intro _)
theorem goldenScheduleSet_holds (a : Nat) (c : Chip) (hc : Holds memWf anyDue c) : Holds memWf anyDue (goldenScheduleSet a c) := by
  conv in (goldenScheduleSet a c) => (unfold goldenScheduleSet; try dsimp only)
  repeat' (first | with_reducible assumption | with_reducible apply Chip.finish_holds | with_reducible apply Chip.loadRange_holds | with_reducible apply Chip.onGolden_holds | with_reducible apply Chip.setGolden_holds | with_reducible refine of_snd2 (by assumption) ?_ | split | with_reducible intro _)
theorem gptpAnnounce_holds (a : Nat) (b : Bool) (e : Nat) (f : Nat) (g : Nat) (i : Nat) (j : Nat) (k : Nat) (l : Nat) (c : Chip) (hc : Holds memWf anyDue c) : Holds memWf anyDue (gptpAnnounce a b e f g i j k l c) := by
  conv in (gptpAnnounce a b e f g i j k l c) => (unfold gptpAnnounce; try dsimp only)
  repeat' (first | with_reducible assumption | with_reducible apply Chip.chooseMaster_holds | with_reducible apply Chip.heard_holds | with_reducible refine ite_holds ?_ ?_)
theorem groupForce_holds (a : Nat) (c : Chip) (hc : Holds memWf anyDue c) : Holds memWf anyDue (groupForce a c) := by
  conv in (groupForce a c) => (unfold groupForce; try dsimp only)
  repeat' (first | with_reducible assumption | with_reducible apply Chip.enterSafe_holds | with_reducible apply Chip.finish_holds | with_reducible apply Chip.onSafeOp_holds | split | with_reducible intro _)
theorem groupRelease_holds (a : Nat) (c : Chip) (hc : Holds memWf anyDue c) : Holds memWf anyDue (groupRelease a c) := by
  conv in (groupRelease a c) => (unfold groupRelease; try dsimp only)
  repeat' (first | with_reducible assumption | with_reducible apply Chip.finish_holds | with_reducible apply Chip.onSafeOp_holds | with_reducible apply Chip.releaseGroup_holds | split | with_reducible intro _)
theorem groupRunning_holds (a : Nat) (c : Chip) (hc : Holds P Q c) : Holds P Q (groupRunning a c) := by
  conv in (groupRunning a c) => (unfold groupRunning; try dsimp only)
  repeat' (first | with_reducible assumption | with_reducible apply Chip.groupRuns_holds | with_reducible refine ite_holds ?_ ?_)
theorem groupSleep_holds (a : Nat) (c : Chip) (hc : Holds memWf anyDue c) : Holds memWf anyDue (groupSleep a c) := by
  conv in (groupSleep a c) => (unfold groupSleep; try dsimp only)
  repeat' (first | with_reducible assumption | with_reducible apply Chip.sleepGroup_holds | with_reducible refine ite_holds ?_ ?_)
theorem groupWake_holds (a : Nat) (c : Chip) (hc : Holds P Q c) : Holds P Q (groupWake a c) := by
  conv in (groupWake a c) => (unfold groupWake; try dsimp only)
  repeat' (first | with_reducible assumption | with_reducible apply Chip.beginWake_holds | with_reducible refine ite_holds ?_ ?_)
theorem heartbeatRx_holds (a : Bool) (c : Chip) (hc : Holds P Q c) : Holds P Q (heartbeatRx a c) := by
  conv in (heartbeatRx a c) => (unfold heartbeatRx; try dsimp only)
  repeat' (first | with_reducible assumption | with_reducible apply Chip.updLink_holds | with_reducible refine ite_holds ?_ ?_)
theorem heartbeatTick_holds (c : Chip) (hc : Holds P Q c) : Holds P Q (heartbeatTick c) := by
  conv in (heartbeatTick c) => (unfold heartbeatTick; try dsimp only)
  repeat' (first | with_reducible assumption | with_reducible apply Chip.beat_holds | with_reducible refine ite_holds ?_ ?_)
theorem heartbeatWindow_holds (c : Chip) (hc : Holds memWf anyDue c) : Holds memWf anyDue (heartbeatWindow c) := by
  conv in (heartbeatWindow c) => (unfold heartbeatWindow; try dsimp only)
  repeat' (first | with_reducible assumption | with_reducible apply Chip.judgeWindow_holds | with_reducible refine ite_holds ?_ ?_)
theorem holdoverExpiry_holds (c : Chip) (hc : Holds memWf anyDue c) : Holds memWf anyDue (holdoverExpiry c) := by
  conv in (holdoverExpiry c) => (unfold holdoverExpiry; try dsimp only)
  repeat' (first | with_reducible assumption | with_reducible apply Chip.netRecord_holds | with_reducible apply Chip.setQuality_holds | with_reducible refine ite_holds ?_ ?_)
theorem hostRequest_holds (a : Nat) (b : Nat) (e : Option Nat) (f : Nat) (g : Nat) (i : Bool) (j : List Byte) (p : Part) (hp : Holds memWf anyDue p.chip) : Holds memWf anyDue (hostRequest a b e f g i j p).chip := by
  conv in (hostRequest a b e f g i j p) => (unfold hostRequest; try dsimp only)
  repeat' (first | with_reducible assumption | with_reducible apply Part.hostBar_holds | with_reducible apply Part.hostSeen_holds | with_reducible apply Part.recoveryRequest_holds | with_reducible refine ite_part ?_ ?_)
theorem ibufFillDone_holds (a : Nat) (b : Nat) (c : Chip) (hc : Holds memWf anyDue c) : Holds memWf anyDue (ibufFillDone a b c) := by
  conv in (ibufFillDone a b c) => (unfold ibufFillDone; try dsimp only)
  repeat' (first | with_reducible assumption | with_reducible apply Chip.advance_holds | with_reducible apply Chip.imageRead_holds | with_reducible apply Chip.tagPrefetch_holds | with_reducible apply Chip.tileFault_holds | with_reducible apply Chip.updTile_holds | with_reducible refine of_snd2 (by assumption) ?_ | with_reducible refine ite_holds ?_ ?_ | split)
theorem imuSample_holds (a : Nat) (b : List Byte) (c : Chip) (hc : Holds memWf anyDue c) : Holds memWf anyDue (imuSample a b c) := by
  conv in (imuSample a b c) => (unfold imuSample; try dsimp only)
  repeat' (first | with_reducible assumption | with_reducible apply Chip.boundary_holds | with_reducible apply Chip.freeFrame_holds | with_reducible apply Chip.lateOver_holds | with_reducible apply Chip.publishSample_holds | with_reducible apply Chip.spiRead_holds | with_reducible apply Chip.updFrame_holds | with_reducible refine ite_holds ?_ ?_ | split)
theorem injectContribution_holds (a : Nat) (c : Chip) (hc : Holds memWf anyDue c) : Holds memWf anyDue (injectContribution a c) := by
  conv in (injectContribution a c) => (unfold injectContribution; try dsimp only)
  repeat' (first | with_reducible assumption | with_reducible apply Chip.contributeTo_holds | with_reducible apply Chip.injectHead_holds | with_reducible apply Chip.injectPublish_holds | with_reducible apply Chip.lateDrop_holds | with_reducible apply Chip.levelMiss_holds | with_reducible apply Chip.streamBad_holds | with_reducible refine ite_holds ?_ ?_ | split)
theorem instructionComplete_holds (a : Nat) (b : Nat) (c : Chip) (hc : Holds memWf anyDue c) : Holds memWf anyDue (instructionComplete a b c) := by
  conv in (instructionComplete a b c) => (unfold instructionComplete; try dsimp only)
  repeat' (first | with_reducible assumption | with_reducible apply Chip.advance_holds | with_reducible apply Chip.recordFault_holds | with_reducible apply Chip.setTile_holds | split)
theorem jobDispatch_holds (a : Nat) (c : Chip) (hc : Holds memWf anyDue c) : Holds memWf anyDue (jobDispatch a c) := by
  conv in (jobDispatch a c) => (unfold jobDispatch; try dsimp only)
  repeat' (first | with_reducible assumption | with_reducible apply Chip.askJob_holds | with_reducible apply Chip.dispatch_holds | with_reducible apply Chip.updJob_holds | with_reducible refine ite_holds ?_ ?_ | split)
theorem jobDiverseBody_holds (a : Packet) (c : Chip) (hc : Holds memWf anyDue c) : Holds memWf anyDue (jobDiverseBody a c) := by
  conv in (jobDiverseBody a c) => (unfold jobDiverseBody; try dsimp only)
  repeat' (first | with_reducible assumption | with_reducible apply Chip.checkChan_holds | with_reducible apply Chip.finish_holds | with_reducible apply Chip.queueJob_holds | with_reducible refine of_snd (by assumption) ?_ | with_reducible refine ite_holds ?_ ?_ | split)
theorem jobEnd_holds (a : Nat) (c : Chip) (hc : Holds memWf anyDue c) : Holds memWf anyDue (jobEnd a c) := by
  conv in (jobEnd a c) => (unfold jobEnd; try dsimp only)
  repeat' (first | with_reducible assumption | with_reducible apply Chip.diverseEnd_holds | with_reducible apply Chip.endJob_holds | with_reducible refine ite_holds ?_ ?_ | split)
theorem jobRunDiverse_holds (a : Nat) (c : Chip) (hc : Holds memWf anyDue c) : Holds memWf anyDue (jobRunDiverse a c) := by
  conv in (jobRunDiverse a c) => (unfold jobRunDiverse; try dsimp only)
  repeat' (first | with_reducible assumption | with_reducible apply Chip.onPacket_holds | with_reducible apply jobDiverseBody_holds)
theorem kernelWatchdogExpiry_holds (a : Nat) (p : Part) (hp : Holds memWf anyDue p.chip) : Holds memWf anyDue (kernelWatchdogExpiry a p).chip := by
  conv in (kernelWatchdogExpiry a p) => (unfold kernelWatchdogExpiry; try dsimp only)
  repeat' (first | with_reducible assumption | with_reducible apply Chip.draw_holds | with_reducible apply coreFail_holds)
theorem l1Cycle_holds (a : Nat) (c : Chip) (hc : Holds memWf anyDue c) : Holds memWf anyDue (l1Cycle a c) := by
  conv in (l1Cycle a c) => (unfold l1Cycle; try dsimp only)
  repeat' (first | with_reducible assumption | with_reducible apply Chip.alignInputs_holds | with_reducible apply Chip.gridCycle_holds | with_reducible refine of_snd (by assumption) ?_ | split)
theorem l2Cycle_holds (c : Chip) (hc : Holds memWf anyDue c) : Holds memWf anyDue (l2Cycle c) := by
  conv in (l2Cycle c) => (unfold l2Cycle; try dsimp only)
  repeat' (first | with_reducible assumption | with_reducible apply Chip.alignInputs_holds | with_reducible apply Chip.trackCycle_holds | with_reducible refine of_snd (by assumption) ?_ | split)
theorem lateCutoff_holds (a : Nat) (c : Chip) (hc : Holds memWf anyDue c) : Holds memWf anyDue (lateCutoff a c) := by
  conv in (lateCutoff a c) => (unfold lateCutoff; try dsimp only)
  repeat' (first | with_reducible assumption | with_reducible apply Chip.beginMissed_holds | with_reducible apply Chip.boundary_holds | with_reducible apply Chip.publishCut_holds | with_reducible apply Chip.publishEnded_holds | with_reducible refine ite_holds ?_ ?_ | split)
theorem lateRevision_holds (a : Nat) (c : Chip) (hc : Holds memWf anyDue c) : Holds memWf anyDue (lateRevision a c) := by
  conv in (lateRevision a c) => (unfold lateRevision; try dsimp only)
  repeat' (first | with_reducible assumption | with_reducible apply Chip.reviseGrid_holds | with_reducible apply Chip.reviseStream_holds | with_reducible apply Chip.reviseTracker_holds | with_reducible refine ite_holds ?_ ?_)
theorem leakTick_holds (a : Nat) (c : Chip) (hc : Holds P Q c) : Holds P Q (leakTick a c) := by
  conv in (leakTick a c) => (unfold leakTick; try dsimp only)
  repeat' (first | with_reducible assumption | with_reducible apply Chip.setFld_holds | with_reducible refine ite_holds ?_ ?_)
theorem lidarPacket_holds (a : Nat) (b : List Byte) (c : Chip) (hc : Holds memWf anyDue c) : Holds memWf anyDue (lidarPacket a b c) := by
  conv in (lidarPacket a b c) => (unfold lidarPacket; try dsimp only)
  repeat' (first | with_reducible assumption | with_reducible apply Chip.endedPoints_holds | with_reducible apply Chip.gonePoints_holds | with_reducible apply Chip.openSweep_holds | with_reducible apply Chip.streamBad_holds | with_reducible apply Chip.takePoints_holds | with_reducible refine ite_holds ?_ ?_ | split)
theorem linkDown_holds (a : Nat) (c : Chip) (hc : Holds memWf anyDue c) : Holds memWf anyDue (linkDown a c) := by
  conv in (linkDown a c) => (unfold linkDown; try dsimp only)
  repeat' (first | with_reducible assumption | with_reducible apply Chip.linkRecord_holds | with_reducible apply Chip.portDown_holds | with_reducible refine ite_holds ?_ ?_)
theorem lockstepMismatch_holds (a : Bool) (c : Chip) (hc : Holds memWf anyDue c) : Holds memWf anyDue (lockstepMismatch a c) := by
  conv in (lockstepMismatch a c) => (unfold lockstepMismatch; try dsimp only)
  repeat' (first | with_reducible assumption | with_reducible apply Chip.errorOpen_holds | with_reducible apply Chip.holdIsland_holds | with_reducible apply Chip.lockstepLost_holds | with_reducible apply Chip.setFld_holds | with_reducible refine ite_holds ?_ ?_)
theorem logAppend_holds (a : Nat) (b : Nat) (e : Nat) (f : Nat) (g : W32) (i : W64) (c : Chip) (hc : Holds memWf anyDue c) : Holds memWf anyDue (logAppend a b e f g i c) := by
  conv in (logAppend a b e f g i c) => (unfold logAppend; try dsimp only)
  repeat' (first | with_reducible assumption | with_reducible apply Chip.appendLog_holds | with_reducible refine ite_holds ?_ ?_ | split)
theorem logConfig_holds (a : Nat) (c : Chip) (hc : Holds P Q c) : Holds P Q (logConfig a c) := by
  conv in (logConfig a c) => (unfold logConfig; try dsimp only)
  repeat' (first | with_reducible assumption | with_reducible apply Chip.finish_holds | with_reducible apply Chip.onPacket_holds | with_reducible apply Chip.setLog_holds | split | with_reducible intro _)
theorem memInvalidate_holds (a : Nat) (c : Chip) (hc : Holds P Q c) : Holds P Q (memInvalidate a c) := by
  conv in (memInvalidate a c) => (unfold memInvalidate; try dsimp only)
  repeat' (first | with_reducible assumption | with_reducible apply Chip.finish_holds | with_reducible apply Chip.keepRunning_holds | with_reducible apply Chip.onPacket_holds | split | with_reducible intro _)
theorem memInvalidateClear_holds (a : Nat) (c : Chip) (hc : Holds memWf anyDue c) : Holds memWf anyDue (memInvalidateClear a c) := by
  conv in (memInvalidateClear a c) => (unfold memInvalidateClear; try dsimp only)
  repeat' (first | with_reducible assumption | with_reducible apply Chip.clearBlocks_holds | with_reducible apply Chip.clearLines_holds | with_reducible apply Chip.finish_holds | with_reducible apply Chip.logRange_holds | with_reducible refine ite_holds ?_ ?_ | split)
theorem meshRequest_holds (a : Nat) (b : Nat) (e : Nat) (f : Nat) (g : Bool) (i : Bool) (j : Nat) (k : Bool) (l : List Byte) (p : Part) (hp : Holds memWf anyDue p.chip) : Holds memWf anyDue (meshRequest a b e f g i j k l p).chip := by
  conv in (meshRequest a b e f g i j k l p) => (unfold meshRequest; try dsimp only)
  repeat' (first | with_reducible assumption | with_reducible apply Chip.parityLost_holds | with_reducible apply Part.numbered_holds | with_reducible apply Part.serve_holds | with_reducible refine ite_part ?_ ?_)
theorem messageSet_holds (a : Nat) (c : Chip) (hc : Holds P Q c) : Holds P Q (messageSet a c) := by
  conv in (messageSet a c) => (unfold messageSet; try dsimp only)
  repeat' (first | with_reducible assumption | with_reducible apply Chip.finish_holds | with_reducible apply Chip.messageSet_holds | with_reducible apply Chip.onSafeOp_holds | with_reducible intro _)
theorem millraceWindow_holds (a : Nat) (c : Chip) (hc : Holds P Q c) : Holds P Q (millraceWindow a c) := by
  conv in (millraceWindow a c) => (unfold millraceWindow; try dsimp only)
  repeat' (first | with_reducible assumption | with_reducible apply Chip.setMrc_holds | with_reducible refine ite_holds ?_ ?_)
theorem mmaMerge_holds (a : Nat) (b : Nat) (e : Nat) (f : Bool) (g : Nat) (i : List FVal) (j : List FVal) (k : List Nat) (l : List Nat) (c : Chip) (hc : Holds P Q c) : Holds P Q (mmaMerge a b e f g i j k l c) := by
  conv in (mmaMerge a b e f g i j k l c) => (unfold mmaMerge; try dsimp only)
  repeat' (first | with_reducible assumption | with_reducible apply Chip.setTile_holds | with_reducible apply Chip.tileCount_holds | with_reducible apply Chip.tileNan_holds | with_reducible apply Chip.tileSat_holds)
theorem mmaArray_holds (a : Nat) (b : TileIns) (e : Delivered) (f : Nat) (g : Bool) (i : Nat)  : TileM.Keeps memWf anyDue (mmaArray a b e f g i) := by
  conv in (mmaArray a b e f g i) => (unfold mmaArray; try dsimp only)
  repeat' (first | with_reducible apply TileM.change_holds | with_reducible apply chunkRead_holds | with_reducible apply mmaMerge_holds | with_reducible apply TileM.change_holds | with_reducible apply TileM.Keeps.bind | with_reducible intro _)
theorem mmaArrays_holds (a : Nat) (b : TileIns) (e : Delivered) (f : Nat) (g : Bool) (i : List Nat)  : TileM.Keeps memWf anyDue (mmaArrays a b e f g i) := by
  induction i generalizing a b e f g with
  | nil =>
    conv in mmaArrays _ _ _ _ _ _ => (unfold mmaArrays; try dsimp only)
    repeat' (first | fail | with_reducible apply mmaArray_holds | with_reducible apply TileM.Keeps.pure | with_reducible apply TileM.Keeps.bind | with_reducible intro _)
  | cons x l ih =>
    conv in mmaArrays _ _ _ _ _ _ => (unfold mmaArrays; try dsimp only)
    repeat' (first | with_reducible apply ih | with_reducible apply mmaArray_holds | with_reducible apply TileM.Keeps.pure | with_reducible apply TileM.Keeps.bind | with_reducible intro _)
theorem mma_holds (a : Nat) (c : Chip) (hc : Holds memWf anyDue c) : Holds memWf anyDue (mma a c) := by
  conv in (mma a c) => (unfold mma; try dsimp only)
  repeat' (first | with_reducible assumption | with_reducible apply Chip.issueHead_holds | with_reducible apply TileM.fault_holds | with_reducible apply mmaArrays_holds | with_reducible apply TileM.fault_holds | split | with_reducible intro _)
theorem modelLoadDone_holds (a : Nat) (c : Chip) (hc : Holds memWf anyDue c) : Holds memWf anyDue (modelLoadDone a c) := by
  conv in (modelLoadDone a c) => (unfold modelLoadDone; try dsimp only)
  repeat' (first | with_reducible assumption | with_reducible apply Chip.beginAfterLoad_holds | with_reducible apply Chip.endLoad_holds | with_reducible apply Chip.jobLeft_holds | with_reducible apply Chip.streamFor_holds | with_reducible refine ite_holds ?_ ?_ | split)
theorem modelPin_holds (a : Nat) (c : Chip) (hc : Holds memWf anyDue c) : Holds memWf anyDue (modelPin a c) := by
  conv in (modelPin a c) => (unfold modelPin; try dsimp only)
  repeat' (first | with_reducible assumption | with_reducible apply Chip.finish_holds | with_reducible apply Chip.keepRunning_holds | with_reducible apply Chip.mcRegs_holds | with_reducible apply Chip.onPacket_holds | with_reducible apply Chip.takeRoom_holds | with_reducible apply Chip.updModel_holds | with_reducible refine of_snd (by assumption) ?_ | split | with_reducible intro _)
theorem modelVerify_holds (a : Nat) (c : Chip) (hc : Holds memWf anyDue c) : Holds memWf anyDue (modelVerify a c) := by
  conv in (modelVerify a c) => (unfold modelVerify; try dsimp only)
  repeat' (first | with_reducible assumption | with_reducible apply Chip.finish_holds | with_reducible apply Chip.onPacket_holds | with_reducible apply Chip.readCopy_holds | with_reducible apply Chip.readThrough_holds | with_reducible apply Chip.reload_holds | with_reducible apply Chip.updModel_holds | split | with_reducible intro _)
theorem moveTile_holds (a : Nat) (c : Chip) (hc : Holds memWf anyDue c) : Holds memWf anyDue (moveTile a c) := by
  conv in (moveTile a c) => (unfold moveTile; try dsimp only)
  repeat' (first | with_reducible assumption | with_reducible apply Chip.issueHead_holds | with_reducible apply operandRead_holds | with_reducible apply operandWrite_holds | with_reducible apply TileM.Keeps.bind | with_reducible intro _)
theorem msiWindowWrite_holds (a : Nat) (b : Nat) (e : Nat) (f : Nat) (c : Chip) (hc : Holds memWf anyDue c) : Holds memWf anyDue (msiWindowWrite a b e f c) := by
  conv in (msiWindowWrite a b e f c) => (unfold msiWindowWrite; try dsimp only)
  repeat' (first | with_reducible assumption | with_reducible apply Chip.denied_holds | with_reducible apply Chip.msiRaise_holds | with_reducible apply Chip.unpost_holds | with_reducible refine ite_holds ?_ ?_ | split)
theorem netTimeRead_holds (a : Nat) (b : Nat) (c : Chip) (hc : Holds memWf anyDue c) : Holds memWf anyDue (netTimeRead a b c) := by
  conv in (netTimeRead a b c) => (unfold netTimeRead; try dsimp only)
  repeat' (first | with_reducible assumption | with_reducible apply Chip.denied_holds | with_reducible apply Chip.setReg_holds | with_reducible refine ite_holds ?_ ?_ | (refine ⟨?_, ?_⟩ <;> (dsimp only; first | exact trivial | with_reducible apply Chip.Holds.mem (Q := anyDue) | with_reducible apply Chip.Holds.due (P := memWf))))
theorem nopPacket_holds (a : Nat) (c : Chip) (hc : Holds P Q c) : Holds P Q (nopPacket a c) := by
  conv in (nopPacket a c) => (unfold nopPacket; try dsimp only)
  repeat' (first | with_reducible assumption | with_reducible apply Chip.finish_holds | with_reducible apply Chip.onPacket_holds | with_reducible intro _)
theorem outputDisarm_holds (a : Nat) (c : Chip) (hc : Holds P Q c) : Holds P Q (outputDisarm a c) := by
  conv in (outputDisarm a c) => (unfold outputDisarm; try dsimp only)
  repeat' (first | with_reducible assumption | with_reducible apply Chip.finish_holds | with_reducible apply Chip.onSafeOp_holds | with_reducible apply Chip.outputDisarm_holds | with_reducible intro _)
theorem outputSet_holds (a : Nat) (c : Chip) (hc : Holds memWf anyDue c) : Holds memWf anyDue (outputSet a c) := by
  conv in (outputSet a c) => (unfold outputSet; try dsimp only)
  repeat' (first | with_reducible assumption | with_reducible apply Chip.finish_holds | with_reducible apply Chip.onSafeOp_holds | with_reducible apply Chip.outputSet_holds | with_reducible intro _)
theorem ownerEntryRepair_holds (a : Nat) (c : Chip) (hc : Holds memWf anyDue c) : Holds memWf anyDue (ownerEntryRepair a c) := by
  conv in (ownerEntryRepair a c) => (unfold ownerEntryRepair; try dsimp only)
  repeat' (first | with_reducible assumption | with_reducible apply Chip.ownerFixed_holds | with_reducible apply Chip.ownerLost_holds | with_reducible refine ite_holds ?_ ?_)
theorem ownerSetServe_holds (p : Part) (hp : Holds memWf anyDue p.chip) : Holds memWf anyDue (ownerSetServe p).chip := by
  conv in (ownerSetServe p) => (unfold ownerSetServe; try dsimp only)
  repeat' (first | with_reducible assumption | with_reducible apply Chip.giveOwners_holds | with_reducible apply Part.gateFinish_holds | with_reducible refine ite_part ?_ ?_ | (with_reducible refine has_chip rfl ?_; first | with_reducible assumption | with_reducible apply Chip.giveOwners_holds | with_reducible apply Part.gateFinish_holds | with_reducible refine ite_part ?_ ?_) | split)
theorem packetComplete_holds (a : Nat) (c : Chip) (hc : Holds memWf anyDue c) : Holds memWf anyDue (packetComplete a c) := by
  conv in (packetComplete a c) => (unfold packetComplete; try dsimp only)
  repeat' (first | with_reducible assumption | with_reducible apply Chip.complete_holds | with_reducible apply Chip.dropPending_holds | with_reducible apply Chip.giveBack_holds | split)
theorem packetFetch_holds (a : Nat) (b : Nat) (c : Chip) (hc : Holds memWf anyDue c) : Holds memWf anyDue (packetFetch a b c) := by
  conv in (packetFetch a b c) => (unfold packetFetch; try dsimp only)
  repeat' (first | with_reducible assumption | with_reducible apply Chip.fetchFailed_holds | with_reducible apply Chip.holdPacket_holds | with_reducible apply Chip.readSlots_holds | with_reducible apply Chip.setReg_holds | with_reducible refine of_snd3 (by assumption) ?_ | with_reducible refine ite_holds ?_ ?_ | split)
theorem packetStart_holds (c : Chip) (hc : Holds P Q c) : Holds P Q (packetStart c) := by
  conv in (packetStart c) => (unfold packetStart; try dsimp only)
  repeat' (first | with_reducible assumption | with_reducible apply Chip.stampReady_holds | with_reducible apply Chip.startPacket_holds | split)
theorem pageOwnerSetApply_holds (p : Part) (hp : Holds memWf anyDue p.chip) : Holds memWf anyDue (pageOwnerSetApply p).chip := by
  conv in (pageOwnerSetApply p) => (unfold pageOwnerSetApply; try dsimp only)
  repeat' (first | with_reducible assumption | with_reducible apply Part.finishDestroy_holds | with_reducible apply ownerSetServe_holds | with_reducible apply foldl_part)
theorem pairFault_holds (a : Nat) (c : Chip) (hc : Holds memWf anyDue c) : Holds memWf anyDue (pairFault a c) := by
  conv in (pairFault a c) => (unfold pairFault; try dsimp only)
  repeat' (first | with_reducible assumption | with_reducible apply Chip.pairFault_holds | with_reducible refine ite_holds ?_ ?_)
theorem pairRetry_holds (c : Chip) (hc : Holds P Q c) : Holds P Q (pairRetry c) := by
  conv in (pairRetry c) => (unfold pairRetry; try dsimp only)
  repeat' (first | with_reducible assumption | with_reducible apply Chip.sayHello_holds | with_reducible refine ite_holds ?_ ?_ | split)
theorem partialFlush_holds (a : Nat) (b : List FragWord) (c : Chip) (hc : Holds memWf anyDue c) : Holds memWf anyDue (partialFlush a b c) := by
  conv in (partialFlush a b c) => (unfold partialFlush; try dsimp only)
  repeat' (first | with_reducible assumption | with_reducible apply Chip.failSomewhere_holds | with_reducible apply Chip.flushed_holds | with_reducible apply Chip.renderTiles_holds | with_reducible refine of_snd (by assumption) ?_ | with_reducible refine ite_holds ?_ ?_ | split)
theorem passComplete_holds (a : Nat) (b : Nat) (e : Nat) (f : Nat) (g : List Nat) (i : List FragWord) (c : Chip) (hc : Holds memWf anyDue c) : Holds memWf anyDue (passComplete a b e f g i c) := by
  conv in (passComplete a b e f g i c) => (unfold passComplete; try dsimp only)
  repeat' (first | with_reducible assumption | with_reducible apply Chip.count_holds | with_reducible apply Chip.endPass_holds | with_reducible apply Chip.failPass_holds | with_reducible apply Chip.renderTiles_holds | with_reducible refine of_snd (by assumption) ?_ | with_reducible refine ite_holds ?_ ?_ | split)
theorem passGeometry_holds (a : Nat) (b : List (List Nat × Nat × List Nat)) (c : Chip) (hc : Holds memWf anyDue c) : Holds memWf anyDue (passGeometry a b c) := by
  conv in (passGeometry a b c) => (unfold passGeometry; try dsimp only)
  repeat' (first | with_reducible assumption | with_reducible apply Chip.afterBin_holds | with_reducible refine ite_holds ?_ ?_ | split)
theorem passTakeover_holds (a : Nat) (c : Chip) (hc : Holds P Q c) : Holds P Q (passTakeover a c) := by
  conv in (passTakeover a c) => (unfold passTakeover; try dsimp only)
  repeat' (first | with_reducible assumption | with_reducible apply Chip.takeCores_holds | with_reducible refine ite_holds ?_ ?_ | split)
theorem pdelayReq_holds (a : Nat) (b : Nat) (e : Nat) (f : List Byte) (c : Chip) (hc : Holds P Q c) : Holds P Q (pdelayReq a b e f c) := by
  conv in (pdelayReq a b e f c) => (unfold pdelayReq; try dsimp only)
  repeat' (first | with_reducible assumption | with_reducible apply Chip.answerDelay_holds | with_reducible refine ite_holds ?_ ?_)
theorem pdelayResp_holds (a : Nat) (b : Nat) (e : Nat) (f : Nat) (g : Nat) (c : Chip) (hc : Holds P Q c) : Holds P Q (pdelayResp a b e f g c) := by
  conv in (pdelayResp a b e f g c) => (unfold pdelayResp; try dsimp only)
  repeat' (first | with_reducible assumption | with_reducible apply Chip.setReg_holds | with_reducible refine ite_holds ?_ ?_)
theorem pendingRelease_holds (a : Nat) (c : Chip) (hc : Holds P Q c) : Holds P Q (pendingRelease a c) := by
  conv in (pendingRelease a c) => (unfold pendingRelease; try dsimp only)
  repeat' (first | with_reducible assumption | with_reducible refine ite_holds ?_ ?_ | (refine ⟨?_, ?_⟩ <;> (dsimp only; first | exact trivial | with_reducible apply Chip.Holds.mem (Q := Q) | with_reducible apply Chip.Holds.due (P := P))) | split)
theorem pgoodFall_holds (p : Part) (hp : Holds memWf anyDue p.chip) : Holds memWf anyDue (pgoodFall p).chip := by
  conv in (pgoodFall p) => (unfold pgoodFall; try dsimp only)
  repeat' (first | with_reducible assumption | with_reducible apply Chip.resetDomains_holds | with_reducible apply Chip.setFld_holds | with_reducible apply Chip.updPower_holds | with_reducible refine ite_part ?_ ?_)
theorem pgoodRise_holds (p : Part) (hp : Holds P Q p.chip) : Holds P Q (pgoodRise p).chip := by
  conv in (pgoodRise p) => (unfold pgoodRise; try dsimp only)
  repeat' (first | with_reducible assumption | with_reducible apply Chip.updPower_holds | with_reducible apply Part.release_holds | with_reducible refine ite_part ?_ ?_)
theorem pgoodTimeout_holds (p : Part) (hp : Holds memWf anyDue p.chip) : Holds memWf anyDue (pgoodTimeout p).chip := by
  conv in (pgoodTimeout p) => (unfold pgoodTimeout; try dsimp only)
  repeat' (first | with_reducible assumption | with_reducible apply Chip.updPower_holds | with_reducible apply Part.startFailed_holds | with_reducible refine ite_part ?_ ?_)
theorem pipeStall_holds (a : Nat) (c : Chip) (hc : Holds memWf anyDue c) : Holds memWf anyDue (pipeStall a c) := by
  conv in (pipeStall a c) => (unfold pipeStall; try dsimp only)
  repeat' (first | with_reducible assumption | with_reducible apply Chip.regionFinding_holds | with_reducible apply Chip.setPipe_holds | with_reducible refine ite_holds ?_ ?_)
theorem playbackBlockStart_holds (a : Nat) (c : Chip) (hc : Holds P Q c) : Holds P Q (playbackBlockStart a c) := by
  conv in (playbackBlockStart a c) => (unfold playbackBlockStart; try dsimp only)
  repeat' (first | with_reducible assumption | with_reducible apply Chip.startBlock_holds | with_reducible refine ite_holds ?_ ?_ | split)
theorem playbackFetch_holds (a : Nat) (c : Chip) (hc : Holds memWf anyDue c) : Holds memWf anyDue (playbackFetch a c) := by
  conv in (playbackFetch a c) => (unfold playbackFetch; try dsimp only)
  repeat' (first | with_reducible assumption | with_reducible apply Chip.loadRange_holds | with_reducible apply Chip.updRing_holds | with_reducible refine of_snd2 (by assumption) ?_ | with_reducible refine ite_holds ?_ ?_ | split)
theorem predclrWrite_holds (a : Nat) (b : Mode) (e : W64) (c : Chip) (hc : Holds P Q c) : Holds P Q (predclrWrite a b e c) := by
  conv in (predclrWrite a b e c) => (unfold predclrWrite; try dsimp only)
  repeat' (first | with_reducible assumption | with_reducible apply Chip.trap_holds | with_reducible refine ite_holds ?_ ?_ | (refine ⟨?_, ?_⟩ <;> (dsimp only; first | exact trivial | with_reducible apply Chip.Holds.mem (Q := Q) | with_reducible apply Chip.Holds.due (P := P))) | split)
theorem preemptHoldExpiry_holds (a : Nat) (c : Chip) (hc : Holds P Q c) : Holds P Q (preemptHoldExpiry a c) := by
  conv in (preemptHoldExpiry a c) => (unfold preemptHoldExpiry; try dsimp only)
  repeat' (first | with_reducible assumption | with_reducible apply Chip.updJob_holds)
theorem preemptSignal_holds (a : Nat) (c : Chip) (hc : Holds memWf anyDue c) : Holds memWf anyDue (preemptSignal a c) := by
  conv in (preemptSignal a c) => (unfold preemptSignal; try dsimp only)
  repeat' (first | with_reducible assumption | with_reducible apply Chip.signalPreempt_holds | with_reducible refine ite_holds ?_ ?_ | split)
theorem prewake_holds (a : Nat) (c : Chip) (hc : Holds P Q c) : Holds P Q (prewake a c) := by
  conv in (prewake a c) => (unfold prewake; try dsimp only)
  repeat' (first | with_reducible assumption | with_reducible apply Chip.ask_holds | with_reducible refine ite_holds ?_ ?_ | split)
theorem profileSelect_holds (a : Nat) (p : Part) (hp : Holds P Q p.chip) : Holds P Q (profileSelect a p).chip := by
  conv in (profileSelect a p) => (unfold profileSelect; try dsimp only)
  repeat' (first | with_reducible assumption | with_reducible apply Chip.finish_holds | with_reducible apply Chip.onPacket_holds | with_reducible apply Chip.setFld_holds | split | with_reducible intro _)
theorem ptpSyncRx_holds (a : Nat) (b : Nat) (e : Nat) (f : Nat) (g : Nat) (c : Chip) (hc : Holds memWf anyDue c) : Holds memWf anyDue (ptpSyncRx a b e f g c) := by
  conv in (ptpSyncRx a b e f g c) => (unfold ptpSyncRx; try dsimp only)
  repeat' (first | with_reducible assumption | with_reducible apply Chip.stepTime_holds | with_reducible apply Chip.syncJudged_holds | with_reducible apply Chip.syncMeasured_holds | with_reducible refine ite_holds ?_ ?_)
theorem ptpSyncTx_holds (a : Nat) (c : Chip) (hc : Holds P Q c) : Holds P Q (ptpSyncTx a c) := by
  conv in (ptpSyncTx a c) => (unfold ptpSyncTx; try dsimp only)
  repeat' (first | with_reducible assumption | with_reducible apply Chip.sendSync_holds | with_reducible apply Chip.syncDrawn_holds | with_reducible refine ite_holds ?_ ?_ | split)
theorem rcRegisterRead_holds (a : Nat) (b : Nat) (e : Nat) (f : Nat) (p : Part) (hp : Holds memWf anyDue p.chip) : Holds memWf anyDue (rcRegisterRead a b e f p).chip := by
  conv in (rcRegisterRead a b e f p) => (unfold rcRegisterRead; try dsimp only)
  repeat' (first | with_reducible assumption | with_reducible apply Part.numbered_holds | with_reducible apply Part.serve_holds | with_reducible refine ite_part ?_ ?_)
theorem recData_holds (a : Nat) (b : List Byte) (c : Chip) (hc : Holds memWf anyDue c) : Holds memWf anyDue (recData a b c) := by
  conv in (recData a b c) => (unfold recData; try dsimp only)
  repeat' (first | with_reducible assumption | with_reducible apply Chip.store_holds | with_reducible apply Chip.twinSend_holds | with_reducible refine ite_holds ?_ ?_)
theorem recEnd_holds (a : Nat) (c : Chip) (hc : Holds P Q c) : Holds P Q (recEnd a c) := by
  conv in (recEnd a c) => (unfold recEnd; try dsimp only)
  repeat' (first | with_reducible assumption | with_reducible apply Chip.setFld_holds | with_reducible apply Chip.setReg_holds | with_reducible refine ite_holds ?_ ?_)
theorem recReq_holds (a : Nat) (b : Nat) (c : Chip) (hc : Holds memWf anyDue c) : Holds memWf anyDue (recReq a b c) := by
  conv in (recReq a b c) => (unfold recReq; try dsimp only)
  repeat' (first | with_reducible assumption | with_reducible apply Chip.bundleServed_holds | with_reducible apply Chip.servePiece_holds | with_reducible apply Chip.twinSend_holds | with_reducible refine ite_holds ?_ ?_)
theorem recoveryBundle_holds (p : Part) (hp : Holds memWf anyDue p.chip) : Holds memWf anyDue (recoveryBundle p).chip := by
  conv in (recoveryBundle p) => (unfold recoveryBundle; try dsimp only)
  repeat' (first | with_reducible assumption | with_reducible apply Part.bundleJudged_holds | with_reducible refine ite_part ?_ ?_)
theorem refSilent_holds (c : Chip) (hc : Holds memWf anyDue c) : Holds memWf anyDue (refSilent c) := by
  conv in (refSilent c) => (unfold refSilent; try dsimp only)
  repeat' (first | with_reducible assumption | with_reducible apply Chip.event_holds | with_reducible apply Chip.updDomain_holds | with_reducible refine ite_holds ?_ ?_)
theorem registerWrite_holds (a : Nat) (b : Nat) (e : Nat) (f : List Byte) (p : Part) (hp : Holds memWf anyDue p.chip) : Holds memWf anyDue (registerWrite a b e f p).chip := by
  conv in (registerWrite a b e f p) => (unfold registerWrite; try dsimp only)
  repeat' (first | with_reducible assumption | with_reducible apply Part.numbered_holds | with_reducible apply Part.serve_holds | with_reducible refine ite_part ?_ ?_)
theorem resetAssert_holds (p : Part) (hp : Holds memWf anyDue p.chip) : Holds memWf anyDue (resetAssert p).chip := by
  conv in (resetAssert p) => (unfold resetAssert; try dsimp only)
  repeat' (first | with_reducible assumption | with_reducible apply Chip.resetDomains_holds | with_reducible apply Chip.setFld_holds | with_reducible apply Chip.updPower_holds)
theorem resetRelease_holds (p : Part) (hp : Holds P Q p.chip) : Holds P Q (resetRelease p).chip := by
  conv in (resetRelease p) => (unfold resetRelease; try dsimp only)
  repeat' (first | with_reducible assumption | with_reducible apply Chip.updPower_holds | with_reducible apply Part.release_holds)
theorem restoreComplete_holds (a : Nat) (c : Chip) (hc : Holds memWf anyDue c) : Holds memWf anyDue (restoreComplete a c) := by
  conv in (restoreComplete a c) => (unfold restoreComplete; try dsimp only)
  repeat' (first | with_reducible assumption | with_reducible apply Chip.endJob_holds | with_reducible apply Chip.restoreTiles_holds | with_reducible apply Chip.restored_holds | with_reducible apply Chip.resumeEngines_holds | with_reducible apply Chip.saveRead_holds | with_reducible refine of_snd2 (by assumption) ?_ | with_reducible refine ite_holds ?_ ?_ | split)
theorem rillDescriptorDone_holds (a : Nat) (b : Nat) (c : Chip) (hc : Holds memWf anyDue c) : Holds memWf anyDue (rillDescriptorDone a b c) := by
  conv in (rillDescriptorDone a b c) => (unfold rillDescriptorDone; try dsimp only)
  repeat' (first | with_reducible assumption | with_reducible apply Chip.endDesc_holds | with_reducible apply Chip.rillFault_holds | with_reducible apply Chip.runRills_holds | with_reducible apply Chip.showRill_holds | with_reducible apply RillDesc.markDone_holds | with_reducible apply RillDesc.writeCount_holds | with_reducible refine of_snd (by assumption) ?_ | with_reducible refine ite_holds ?_ ?_ | split)
theorem rillResponse_holds (a : Nat) (b : Nat) (e : Nat) (c : Chip) (hc : Holds memWf anyDue c) : Holds memWf anyDue (rillResponse a b e c) := by
  conv in (rillResponse a b e c) => (unfold rillResponse; try dsimp only)
  repeat' (first | with_reducible assumption | with_reducible apply Chip.recordFault_holds | with_reducible apply Chip.runRills_holds | with_reducible apply Chip.showRill_holds | with_reducible apply rillAccept_holds | with_reducible apply rillReturn_holds | with_reducible refine ite_holds ?_ ?_ | split)
theorem rillStart_holds (a : Nat) (b : Nat) (e : Nat) (c : Chip) (hc : Holds memWf anyDue c) : Holds memWf anyDue (rillStart a b e c) := by
  conv in (rillStart a b e c) => (unfold rillStart; try dsimp only)
  repeat' (first | with_reducible assumption | with_reducible apply Chip.rillFault_holds | with_reducible apply Chip.runRills_holds | with_reducible apply Chip.showRill_holds | with_reducible apply Chip.startDesc_holds | with_reducible apply tileRead_holds | with_reducible apply TileM.Keeps.run | with_reducible refine of_snd (by assumption) ?_ | with_reducible refine ite_holds ?_ ?_ | split)
theorem rillRow_holds (a : Nat) (b : Nat) (e : Nat) (c : Chip) (hc : Holds memWf anyDue c) : Holds memWf anyDue (rillRow a b e c) := by
  conv in (rillRow a b e c) => (unfold rillRow; try dsimp only)
  repeat' (first | with_reducible assumption | with_reducible apply Chip.advance_holds | with_reducible apply rillStart_holds)
theorem ringDrained_holds (a : Nat) (b : Nat) (c : Chip) (hc : Holds P Q c) : Holds P Q (ringDrained a b c) := by
  conv in (ringDrained a b c) => (unfold ringDrained; try dsimp only)
  repeat' (first | with_reducible assumption | with_reducible apply Chip.setFld_holds | with_reducible refine ite_holds ?_ ?_)
theorem safeMessageRepeat_holds (c : Chip) (hc : Holds P Q c) : Holds P Q (safeMessageRepeat c) := by
  conv in (safeMessageRepeat c) => (unfold safeMessageRepeat; try dsimp only)
  repeat' (first | with_reducible assumption | with_reducible apply Chip.repeatMessage_holds | with_reducible refine ite_holds ?_ ?_ | split)
theorem saveComplete_holds (a : Nat) (c : Chip) (hc : Holds memWf anyDue c) : Holds memWf anyDue (saveComplete a c) := by
  conv in (saveComplete a c) => (unfold saveComplete; try dsimp only)
  repeat' (first | with_reducible assumption | with_reducible apply Chip.endJob_holds | with_reducible apply Chip.saveTiles_holds | with_reducible apply Chip.saveWrites_holds | with_reducible apply Chip.saved_holds | with_reducible refine of_snd2 (by assumption) ?_ | with_reducible refine ite_holds ?_ ?_ | split)
theorem selftestAbort_holds (a : Nat) (c : Chip) (hc : Holds memWf anyDue c) : Holds memWf anyDue (selftestAbort a c) := by
  conv in (selftestAbort a c) => (unfold selftestAbort; try dsimp only)
  repeat' (first | with_reducible assumption | with_reducible apply Chip.abortSlice_holds | with_reducible refine ite_holds ?_ ?_ | split)
theorem selftestChecker_holds (a : Nat) (c : Chip) (hc : Holds P Q c) : Holds P Q (selftestChecker a c) := by
  conv in (selftestChecker a c) => (unfold selftestChecker; try dsimp only)
  repeat' (first | with_reducible assumption | with_reducible apply Chip.keepRunning_holds | with_reducible apply Chip.onSelftest_holds | with_reducible apply Chip.updTest_holds | with_reducible intro _)
theorem selftestGroup_holds (a : Nat) (c : Chip) (hc : Holds P Q c) : Holds P Q (selftestGroup a c) := by
  conv in (selftestGroup a c) => (unfold selftestGroup; try dsimp only)
  repeat' (first | with_reducible assumption | with_reducible apply Chip.onSelftest_holds | with_reducible apply Chip.queueTiles_holds | with_reducible intro _)
theorem selftestOverdue_holds (a : Nat) (c : Chip) (hc : Holds memWf anyDue c) : Holds memWf anyDue (selftestOverdue a c) := by
  conv in (selftestOverdue a c) => (unfold selftestOverdue; try dsimp only)
  repeat' (first | with_reducible assumption | with_reducible apply Chip.checkLate_holds | with_reducible apply Chip.event_holds | with_reducible apply Chip.setFld_holds | with_reducible refine ite_holds ?_ ?_)
theorem selftestSchedule_holds (a : Nat) (c : Chip) (hc : Holds P Q c) : Holds P Q (selftestSchedule a c) := by
  conv in (selftestSchedule a c) => (unfold selftestSchedule; try dsimp only)
  repeat' (first | with_reducible assumption | with_reducible apply Chip.finish_holds | with_reducible apply Chip.onSelftest_holds | with_reducible apply Chip.updTest_holds | split | with_reducible intro _)
theorem selftestSliceEnd_holds (a : Nat) (c : Chip) (hc : Holds memWf anyDue c) : Holds memWf anyDue (selftestSliceEnd a c) := by
  conv in (selftestSliceEnd a c) => (unfold selftestSliceEnd; try dsimp only)
  repeat' (first | with_reducible assumption | with_reducible apply Chip.advanceRun_holds | with_reducible apply Chip.showQueued_holds | with_reducible apply Chip.sliceOver_holds | with_reducible apply Chip.tileFailed_holds | with_reducible apply Chip.tilePassed_holds | with_reducible apply foldl_holds | with_reducible refine ite_holds ?_ ?_ | split | with_reducible intro _)
theorem selftestSliceStart_holds (a : Nat) (c : Chip) (hc : Holds P Q c) : Holds P Q (selftestSliceStart a c) := by
  conv in (selftestSliceStart a c) => (unfold selftestSliceStart; try dsimp only)
  repeat' (first | with_reducible assumption | with_reducible apply Chip.askTest_holds | with_reducible apply Chip.beginSlice_holds | with_reducible apply Chip.pressTile_holds | with_reducible apply Chip.testPeriod_holds | with_reducible apply Chip.wakeFor_holds | with_reducible refine ite_holds ?_ ?_)
theorem selftestStep_holds (a : Nat) (b : Bool) (c : Chip) (hc : Holds P Q c) : Holds P Q (selftestStep a b c) := by
  conv in (selftestStep a b c) => (unfold selftestStep; try dsimp only)
  repeat' (first | with_reducible assumption | with_reducible apply Chip.setTileTest_holds | with_reducible refine ite_holds ?_ ?_)
theorem selftestTile_holds (a : Nat) (c : Chip) (hc : Holds P Q c) : Holds P Q (selftestTile a c) := by
  conv in (selftestTile a c) => (unfold selftestTile; try dsimp only)
  repeat' (first | with_reducible assumption | with_reducible apply Chip.onSelftest_holds | with_reducible apply Chip.queueTiles_holds | with_reducible intro _)
theorem tileSave_holds (a : Nat) (b : Nat) (e : List Byte)  : TileM.Keeps memWf anyDue (tileSave a b e) := by
  conv in (tileSave a b e) => (unfold tileSave; try dsimp only)
  repeat' (first | with_reducible assumption | with_reducible apply Chip.saveRange_holds | with_reducible refine of_snd2 (by assumption) ?_ | split | with_reducible intro _ | with_reducible refine TileM.Keeps.fn ?_)
theorem sendTile_holds (a : Nat) (c : Chip) (hc : Holds memWf anyDue c) : Holds memWf anyDue (sendTile a c) := by
  conv in (sendTile a c) => (unfold sendTile; try dsimp only)
  repeat' (first | with_reducible assumption | with_reducible apply Chip.issueHead_holds | with_reducible apply operandRead_holds | with_reducible apply tileSave_holds | with_reducible apply TileM.Keeps.bind | with_reducible intro _)
theorem serviceRestart_holds (a : Nat) (c : Chip) (hc : Holds memWf anyDue c) : Holds memWf anyDue (serviceRestart a c) := by
  conv in (serviceRestart a c) => (unfold serviceRestart; try dsimp only)
  repeat' (first | with_reducible assumption | with_reducible apply Chip.announceOwed_holds | with_reducible apply Chip.restartService_holds | split)
theorem shutdownRestart_holds (p : Part) (hp : Holds memWf anyDue p.chip) : Holds memWf anyDue (shutdownRestart p).chip := by
  conv in (shutdownRestart p) => (unfold shutdownRestart; try dsimp only)
  repeat' (first | with_reducible assumption | with_reducible apply Part.beginCold_holds | with_reducible refine ite_part ?_ ?_)
theorem sliceCreate_holds (a : Nat) (p : Part) (hp : Holds memWf anyDue p.chip) : Holds memWf anyDue (sliceCreate a p).chip := by
  conv in (sliceCreate a p) => (unfold sliceCreate; try dsimp only)
  repeat' (first | with_reducible assumption | with_reducible apply Chip.createSlice_holds | with_reducible apply Chip.finish_holds | with_reducible apply Chip.onPacket_holds | with_reducible apply Chip.ownerCalled_holds | with_reducible apply Chip.take_holds | (with_reducible refine has_chip rfl ?_; first | with_reducible assumption | with_reducible apply Chip.createSlice_holds | with_reducible apply Chip.finish_holds | with_reducible apply Chip.onPacket_holds | with_reducible apply Chip.ownerCalled_holds | with_reducible apply Chip.take_holds) | split | with_reducible intro _)
theorem sliceDestroy_holds (a : Nat) (c : Chip) (hc : Holds P Q c) : Holds P Q (sliceDestroy a c) := by
  conv in (sliceDestroy a c) => (unfold sliceDestroy; try dsimp only)
  repeat' (first | with_reducible assumption | with_reducible apply Chip.finish_holds | with_reducible apply Chip.keepRunning_holds | with_reducible apply Chip.onPacket_holds | with_reducible apply Chip.refuseFunctions_holds | with_reducible apply Chip.stampReady_holds | with_reducible apply Chip.updDestroy_holds | (refine ⟨?_, ?_⟩ <;> (dsimp only; first | exact trivial | with_reducible apply Chip.Holds.mem (Q := Q) | with_reducible apply Chip.Holds.due (P := P))) | split | with_reducible intro _)
theorem slicetagWrite_holds (a : Nat) (b : Mode) (e : W64) (c : Chip) (hc : Holds P Q c) : Holds P Q (slicetagWrite a b e c) := by
  conv in (slicetagWrite a b e c) => (unfold slicetagWrite; try dsimp only)
  repeat' (first | with_reducible assumption | with_reducible apply Chip.trap_holds | with_reducible refine ite_holds ?_ ?_ | (refine ⟨?_, ?_⟩ <;> (dsimp only; first | exact trivial | with_reducible apply Chip.Holds.mem (Q := Q) | with_reducible apply Chip.Holds.due (P := P))) | split)
theorem sluiceRequest_holds (a : Nat) (b : Nat) (e : Nat) (f : Nat) (g : Nat) (i : Nat) (c : Chip) (hc : Holds P Q c) : Holds P Q (sluiceRequest a b e f g i c) := by
  conv in (sluiceRequest a b e f g i c) => (unfold sluiceRequest; try dsimp only)
  repeat' (first | with_reducible assumption | with_reducible apply Chip.ask_holds | with_reducible refine ite_holds ?_ ?_)
theorem sluiceReturn_holds (a : Nat) (b : Nat) (c : Chip) (hc : Holds P Q c) : Holds P Q (sluiceReturn a b c) := by
  conv in (sluiceReturn a b c) => (unfold sluiceReturn; try dsimp only)
  repeat' (first | with_reducible assumption | with_reducible apply Chip.giveBack_holds | with_reducible apply Chip.withdraw_holds | with_reducible refine ite_holds ?_ ?_)
theorem sluiceTick_holds (c : Chip) (hc : Holds P Q c) : Holds P Q (sluiceTick c) := by
  conv in (sluiceTick c) => (unfold sluiceTick; try dsimp only)
  repeat' (first | with_reducible assumption | with_reducible apply Chip.sluiceServe_holds | (refine ⟨?_, ?_⟩ <;> (dsimp only; first | exact trivial | with_reducible apply Chip.Holds.mem (Q := Q) | with_reducible apply Chip.Holds.due (P := P))))
theorem sluiceTimeout_holds (c : Chip) (hc : Holds memWf anyDue c) : Holds memWf anyDue (sluiceTimeout c) := by
  conv in (sluiceTimeout c) => (unfold sluiceTimeout; try dsimp only)
  repeat' (first | with_reducible assumption | with_reducible apply Chip.denyLate_holds | with_reducible refine ite_holds ?_ ?_)
theorem startTimeout_holds (a : Nat) (p : Part) (hp : Holds memWf anyDue p.chip) : Holds memWf anyDue (startTimeout a p).chip := by
  conv in (startTimeout a p) => (unfold startTimeout; try dsimp only)
  repeat' (first | with_reducible assumption | with_reducible apply Part.startFailed_holds | with_reducible refine ite_part ?_ ?_)
theorem stateEntryHalt_holds (p : Part) (hp : Holds memWf anyDue p.chip) : Holds memWf anyDue (stateEntryHalt p).chip := by
  conv in (stateEntryHalt p) => (unfold stateEntryHalt; try dsimp only)
  repeat' (first | with_reducible assumption | with_reducible apply Chip.leaveOn_holds | with_reducible apply Part.enterState_holds | with_reducible refine ite_part ?_ ?_ | (with_reducible refine has_chip rfl ?_; first | with_reducible assumption | with_reducible apply Chip.leaveOn_holds | with_reducible apply Part.enterState_holds | with_reducible refine ite_part ?_ ?_) | split)
theorem statusRecord_holds (c : Chip) (hc : Holds memWf anyDue c) : Holds memWf anyDue (statusRecord c) := by
  conv in (statusRecord c) => (unfold statusRecord; try dsimp only)
  repeat' (first | with_reducible assumption | with_reducible apply Chip.putStatus_holds | with_reducible refine ite_holds ?_ ?_)
theorem syncSignal_holds (a : Nat) (c : Chip) (hc : Holds P Q c) : Holds P Q (syncSignal a c) := by
  conv in (syncSignal a c) => (unfold syncSignal; try dsimp only)
  repeat' (first | with_reducible assumption | with_reducible apply Chip.finish_holds | with_reducible apply Chip.onPacket_holds | with_reducible apply Chip.signal_holds | with_reducible apply Chip.stampReady_holds | with_reducible apply foldl_holds | split | with_reducible intro _)
theorem syncWait_holds (a : Nat) (c : Chip) (hc : Holds P Q c) : Holds P Q (syncWait a c) := by
  conv in (syncWait a c) => (unfold syncWait; try dsimp only)
  repeat' (first | with_reducible assumption | with_reducible apply Chip.finish_holds | with_reducible apply Chip.keepRunning_holds | with_reducible apply Chip.onPacket_holds | with_reducible apply Chip.stampReady_holds | split | with_reducible intro _)
theorem syncWaitRelease_holds (a : Nat) (c : Chip) (hc : Holds P Q c) : Holds P Q (syncWaitRelease a c) := by
  conv in (syncWaitRelease a c) => (unfold syncWaitRelease; try dsimp only)
  repeat' (first | with_reducible assumption | with_reducible apply Chip.finish_holds | with_reducible apply Chip.stampReady_holds | with_reducible refine ite_holds ?_ ?_ | split)
theorem telltaleSet_holds (a : Nat) (c : Chip) (hc : Holds P Q c) : Holds P Q (telltaleSet a c) := by
  conv in (telltaleSet a c) => (unfold telltaleSet; try dsimp only)
  repeat' (first | with_reducible assumption | with_reducible apply Chip.finish_holds | with_reducible apply Chip.onSafeOp_holds | with_reducible apply Chip.telltaleSet_holds | with_reducible intro _)
theorem thermalEmergency_holds (a : Nat) (p : Part) (hp : Holds memWf anyDue p.chip) : Holds memWf anyDue (thermalEmergency a p).chip := by
  conv in (thermalEmergency a p) => (unfold thermalEmergency; try dsimp only)
  repeat' (first | with_reducible assumption | with_reducible apply Chip.emergency_holds | with_reducible apply Chip.shed_holds | with_reducible apply Part.beginCold_holds | with_reducible refine ite_part ?_ ?_)
theorem thermalPiStep_holds (c : Chip) (hc : Holds memWf anyDue c) : Holds memWf anyDue (thermalPiStep c) := by
  conv in (thermalPiStep c) => (unfold thermalPiStep; try dsimp only)
  repeat' (first | with_reducible assumption | with_reducible apply Chip.piZones_holds | with_reducible apply Chip.setEff_holds | with_reducible refine ite_holds ?_ ?_)
theorem thermalSample_holds (a : List Nat) (p : Part) (hp : Holds memWf anyDue p.chip) : Holds memWf anyDue (thermalSample a p).chip := by
  conv in (thermalSample a p) => (unfold thermalSample; try dsimp only)
  repeat' (first | with_reducible assumption | with_reducible apply Chip.sampled_holds | with_reducible apply Chip.thermal_holds | with_reducible apply Part.shutdown_holds | with_reducible refine ite_part ?_ ?_)
theorem throttleLift_holds (c : Chip) (hc : Holds memWf anyDue c) : Holds memWf anyDue (throttleLift c) := by
  conv in (throttleLift c) => (unfold throttleLift; try dsimp only)
  repeat' (first | with_reducible assumption | with_reducible apply Chip.liftThrottle_holds | with_reducible refine ite_holds ?_ ?_)
theorem tileBarrier_holds (a : Nat) (c : Chip) (hc : Holds memWf anyDue c) : Holds memWf anyDue (tileBarrier a c) := by
  conv in (tileBarrier a c) => (unfold tileBarrier; try dsimp only)
  repeat' (first | with_reducible assumption | with_reducible apply Chip.control_holds)
theorem tileBranch_holds (a : Nat) (c : Chip) (hc : Holds memWf anyDue c) : Holds memWf anyDue (tileBranch a c) := by
  conv in (tileBranch a c) => (unfold tileBranch; try dsimp only)
  repeat' (first | with_reducible assumption | with_reducible apply Chip.control_holds)
theorem tileCounterCommand_holds (a : Nat) (b : Nat) (e : Nat) (f : W32) (c : Chip) (hc : Holds memWf anyDue c) : Holds memWf anyDue (tileCounterCommand a b e f c) := by
  conv in (tileCounterCommand a b e f c) => (unfold tileCounterCommand; try dsimp only)
  repeat' (first | with_reducible assumption | with_reducible apply Chip.checkedWrite_holds | with_reducible apply tileCounterClear_holds)
theorem tileEnd_holds (a : Nat) (c : Chip) (hc : Holds memWf anyDue c) : Holds memWf anyDue (tileEnd a c) := by
  conv in (tileEnd a c) => (unfold tileEnd; try dsimp only)
  repeat' (first | with_reducible assumption | with_reducible apply Chip.control_holds | with_reducible apply Chip.setTileState_holds | with_reducible refine ite_holds ?_ ?_)
theorem tileHang_holds (a : Nat) (c : Chip) (hc : Holds P Q c) : Holds P Q (tileHang a c) := by
  conv in (tileHang a c) => (unfold tileHang; try dsimp only)
  repeat' (first | with_reducible assumption | with_reducible apply Chip.tileFault_holds | with_reducible refine ite_holds ?_ ?_)
theorem tileLfsrCommand_holds (a : Nat) (b : Nat) (e : Nat) (f : W32) (c : Chip) (hc : Holds memWf anyDue c) : Holds memWf anyDue (tileLfsrCommand a b e f c) := by
  conv in (tileLfsrCommand a b e f c) => (unfold tileLfsrCommand; try dsimp only)
  repeat' (first | with_reducible assumption | with_reducible apply Chip.checkedWrite_holds | with_reducible apply tileLfsrWrite_holds)
theorem tileLoop_holds (a : Nat) (c : Chip) (hc : Holds memWf anyDue c) : Holds memWf anyDue (tileLoop a c) := by
  conv in (tileLoop a c) => (unfold tileLoop; try dsimp only)
  repeat' (first | with_reducible assumption | with_reducible apply Chip.control_holds)
theorem tileNop_holds (a : Nat) (c : Chip) (hc : Holds memWf anyDue c) : Holds memWf anyDue (tileNop a c) := by
  conv in (tileNop a c) => (unfold tileNop; try dsimp only)
  repeat' (first | with_reducible assumption | with_reducible apply Chip.control_holds)
theorem tileQueueRelease_holds (a : Nat) (b : Nat) (c : Chip) (hc : Holds memWf anyDue c) : Holds memWf anyDue (tileQueueRelease a b c) := by
  conv in (tileQueueRelease a b c) => (unfold tileQueueRelease; try dsimp only)
  repeat' (first | with_reducible assumption | with_reducible apply Chip.issueTurn_holds | with_reducible apply Chip.runRills_holds | with_reducible apply Chip.showQueue_holds | with_reducible refine ite_holds ?_ ?_ | split)
theorem tileSyncAdd_holds (a : Nat) (c : Chip) (hc : Holds memWf anyDue c) : Holds memWf anyDue (tileSyncAdd a c) := by
  conv in (tileSyncAdd a c) => (unfold tileSyncAdd; try dsimp only)
  repeat' (first | with_reducible assumption | with_reducible apply Chip.issueHead_holds | with_reducible apply Chip.unitSignal_holds | with_reducible apply TileM.change_holds | with_reducible apply TileM.fault_holds | with_reducible apply TileM.chip_holds | with_reducible apply TileM.fault_holds | with_reducible apply TileM.change_holds | with_reducible apply TileM.Keeps.bind | split | with_reducible intro _)
theorem tileSyncWait_holds (a : Nat) (c : Chip) (hc : Holds memWf anyDue c) : Holds memWf anyDue (tileSyncWait a c) := by
  conv in (tileSyncWait a c) => (unfold tileSyncWait; try dsimp only)
  repeat' (first | with_reducible assumption | with_reducible apply Chip.issueHead_holds | with_reducible apply Chip.updTile_holds | with_reducible apply TileM.change_holds | with_reducible apply TileM.fault_holds | with_reducible apply TileM.chip_holds | with_reducible apply TileM.fault_holds | with_reducible apply TileM.change_holds | with_reducible apply TileM.Keeps.bind | (refine ⟨?_, ?_⟩ <;> (dsimp only; first | exact trivial | with_reducible apply Chip.Holds.mem (Q := anyDue) | with_reducible apply Chip.Holds.due (P := memWf))) | split | with_reducible intro _)
theorem tileSyncWaitMet_holds (a : Nat) (c : Chip) (hc : Holds memWf anyDue c) : Holds memWf anyDue (tileSyncWaitMet a c) := by
  conv in (tileSyncWaitMet a c) => (unfold tileSyncWaitMet; try dsimp only)
  repeat' (first | with_reducible assumption | with_reducible apply Chip.advance_holds | with_reducible apply Chip.setTile_holds | with_reducible apply Chip.tileFault_holds | with_reducible refine ite_holds ?_ ?_ | (refine ⟨?_, ?_⟩ <;> (dsimp only; first | exact trivial | with_reducible apply Chip.Holds.mem (Q := anyDue) | with_reducible apply Chip.Holds.due (P := memWf))) | split)
theorem traceAppend_holds (a : Nat) (b : Nat) (e : W32) (c : Chip) (hc : Holds memWf anyDue c) : Holds memWf anyDue (traceAppend a b e c) := by
  conv in (traceAppend a b e c) => (unfold traceAppend; try dsimp only)
  repeat' (first | with_reducible assumption | with_reducible apply Chip.appendTrace_holds | with_reducible refine ite_holds ?_ ?_ | split)
theorem traceMask_holds (a : Nat) (c : Chip) (hc : Holds P Q c) : Holds P Q (traceMask a c) := by
  conv in (traceMask a c) => (unfold traceMask; try dsimp only)
  repeat' (first | with_reducible assumption | with_reducible apply Chip.finish_holds | with_reducible apply Chip.onTrace_holds | with_reducible apply Chip.setReg_holds | split | with_reducible intro _)
theorem traceOff_holds (a : Nat) (c : Chip) (hc : Holds P Q c) : Holds P Q (traceOff a c) := by
  conv in (traceOff a c) => (unfold traceOff; try dsimp only)
  repeat' (first | with_reducible assumption | with_reducible apply Chip.clearTraceMasks_holds | with_reducible apply Chip.finish_holds | with_reducible apply Chip.onTrace_holds | with_reducible intro _)
theorem traceRing_holds (a : Nat) (c : Chip) (hc : Holds P Q c) : Holds P Q (traceRing a c) := by
  conv in (traceRing a c) => (unfold traceRing; try dsimp only)
  repeat' (first | with_reducible assumption | with_reducible apply Chip.finish_holds | with_reducible apply Chip.onTrace_holds | with_reducible apply Chip.setTrace_holds | split | with_reducible intro _)
theorem triggerEdge_holds (a : Nat) (c : Chip) (hc : Holds memWf anyDue c) : Holds memWf anyDue (triggerEdge a c) := by
  conv in (triggerEdge a c) => (unfold triggerEdge; try dsimp only)
  repeat' (first | with_reducible assumption | with_reducible apply Chip.countEdge_holds | with_reducible apply Chip.edgeFrames_holds | with_reducible refine ite_holds ?_ ?_)
theorem twinHello_holds (a : Nat) (b : Nat) (e : List Byte) (p : Part) (hp : Holds P Q p.chip) : Holds P Q (twinHello a b e p).chip := by
  conv in (twinHello a b e p) => (unfold twinHello; try dsimp only)
  repeat' (first | with_reducible assumption | with_reducible apply Chip.heardHello_holds | with_reducible apply Part.sendReport_holds | with_reducible refine ite_part ?_ ?_)
theorem twinLinkUp_holds (a : Nat) (c : Chip) (hc : Holds P Q c) : Holds P Q (twinLinkUp a c) := by
  conv in (twinLinkUp a c) => (unfold twinLinkUp; try dsimp only)
  repeat' (first | with_reducible assumption | with_reducible apply Chip.sayHello_holds | with_reducible apply Chip.twinSend_holds | with_reducible apply Chip.twinUp_holds | with_reducible refine ite_holds ?_ ?_)
theorem twinPaired_holds (c : Chip) (hc : Holds memWf anyDue c) : Holds memWf anyDue (twinPaired c) := by
  conv in (twinPaired c) => (unfold twinPaired; try dsimp only)
  repeat' (first | with_reducible assumption | with_reducible apply Chip.pairUp_holds | with_reducible apply Chip.updLink_holds | with_reducible refine ite_holds ?_ ?_)
theorem twinReport_holds (a : List Byte) (c : Chip) (hc : Holds memWf anyDue c) : Holds memWf anyDue (twinReport a c) := by
  conv in (twinReport a c) => (unfold twinReport; try dsimp only)
  repeat' (first | with_reducible assumption | with_reducible apply Chip.reportJudged_holds | with_reducible refine ite_holds ?_ ?_)
theorem vecCount_holds (a : TileIns)  : TileM.Keeps P Q (vecCount a) := by
  conv in (vecCount a) => (unfold vecCount; try dsimp only)
  repeat' (first | with_reducible apply TileM.fault_holds | with_reducible apply TileM.fault_holds | with_reducible apply TileM.Keeps.pure | split)
theorem vecRead_holds (a : Nat) (b : Nat) (e : TileIns) (f : Delivered) (g : Nat)  : TileM.Keeps memWf anyDue (vecRead a b e f g) := by
  conv in (vecRead a b e f g) => (unfold vecRead; try dsimp only)
  repeat' (first | with_reducible apply operandRead_holds | with_reducible apply TileM.Keeps.pure | with_reducible apply TileM.Keeps.bind | split | with_reducible intro _)
theorem vecEach_holds (a : Nat) (b : Nat) (e : Nat) (f : List Nat) (g : VecOp) (c : Chip) (hg : ∀ i1 i2 i3 i4, TileM.Keeps memWf anyDue (g i1 i2 i3 i4)) (hc : Holds memWf anyDue c) : Holds memWf anyDue (vecEach a b e f g c) := by
  conv in (vecEach a b e f g c) => (unfold vecEach; try dsimp only)
  repeat' (first | with_reducible assumption | with_reducible apply Chip.issueHead_holds | with_reducible apply TileM.fault_holds | with_reducible apply operandWrite_holds | with_reducible apply vecCount_holds | with_reducible apply vecMap_holds | with_reducible apply vecRead_holds | with_reducible apply TileM.fault_holds | with_reducible apply vecMap_holds | with_reducible apply TileM.Keeps.bind | split | with_reducible intro _)
theorem vadd_holds (a : Nat) (c : Chip) (hc : Holds memWf anyDue c) : Holds memWf anyDue (vadd a c) := by
  conv in (vadd a c) => (unfold vadd; try dsimp only)
  repeat' (first | with_reducible assumption | with_reducible apply vecEach_holds | with_reducible apply vecOp_holds)
theorem vcmp_holds (a : Nat) (c : Chip) (hc : Holds memWf anyDue c) : Holds memWf anyDue (vcmp a c) := by
  conv in (vcmp a c) => (unfold vcmp; try dsimp only)
  repeat' (first | with_reducible assumption | with_reducible apply TileM.draw_holds | with_reducible apply vecEach_holds | with_reducible apply TileM.draw_holds | with_reducible apply TileM.Keeps.pure | with_reducible apply TileM.Keeps.bind | with_reducible intro _)
theorem vcvt_holds (a : Nat) (c : Chip) (hc : Holds memWf anyDue c) : Holds memWf anyDue (vcvt a c) := by
  conv in (vcvt a c) => (unfold vcvt; try dsimp only)
  repeat' (first | with_reducible assumption | with_reducible apply Chip.issueHead_holds | with_reducible apply TileM.fault_holds | with_reducible apply convertAll_holds | with_reducible apply operandRead_holds | with_reducible apply vecCount_holds | with_reducible apply TileM.fault_holds | with_reducible apply TileM.Keeps.pure | with_reducible apply TileM.Keeps.bind | split | with_reducible intro _)
theorem vexp_holds (a : Nat) (c : Chip) (hc : Holds memWf anyDue c) : Holds memWf anyDue (vexp a c) := by
  conv in (vexp a c) => (unfold vexp; try dsimp only)
  repeat' (first | with_reducible assumption | with_reducible apply vecEach_holds | with_reducible apply vecFun_holds)
theorem vfma_holds (a : Nat) (c : Chip) (hc : Holds memWf anyDue c) : Holds memWf anyDue (vfma a c) := by
  conv in (vfma a c) => (unfold vfma; try dsimp only)
  repeat' (first | with_reducible assumption | with_reducible apply vecEach_holds | with_reducible apply vecOp_holds)
theorem vmax_holds (a : Nat) (c : Chip) (hc : Holds memWf anyDue c) : Holds memWf anyDue (vmax a c) := by
  conv in (vmax a c) => (unfold vmax; try dsimp only)
  repeat' (first | with_reducible assumption | with_reducible apply vecEach_holds | with_reducible apply vecOp_holds)
theorem vmin_holds (a : Nat) (c : Chip) (hc : Holds memWf anyDue c) : Holds memWf anyDue (vmin a c) := by
  conv in (vmin a c) => (unfold vmin; try dsimp only)
  repeat' (first | with_reducible assumption | with_reducible apply vecEach_holds | with_reducible apply vecOp_holds)
theorem vmul_holds (a : Nat) (c : Chip) (hc : Holds memWf anyDue c) : Holds memWf anyDue (vmul a c) := by
  conv in (vmul a c) => (unfold vmul; try dsimp only)
  repeat' (first | with_reducible assumption | with_reducible apply vecEach_holds | with_reducible apply vecOp_holds)
theorem vrcp_holds (a : Nat) (c : Chip) (hc : Holds memWf anyDue c) : Holds memWf anyDue (vrcp a c) := by
  conv in (vrcp a c) => (unfold vrcp; try dsimp only)
  repeat' (first | with_reducible assumption | with_reducible apply vecEach_holds | with_reducible apply vecFun_holds)
theorem vredValue_holds (a : Nat) (b : Nat) (e : List Nat)  : TileM.Keeps P Q (vredValue a b e) := by
  conv in (vredValue a b e) => (unfold vredValue; try dsimp only)
  repeat' (first | with_reducible apply TileM.draw_holds | with_reducible apply int32Result_holds | with_reducible apply TileM.draw_holds | with_reducible apply TileM.Keeps.pure | with_reducible apply TileM.Keeps.bind | split | with_reducible intro _)
theorem vred_holds (a : Nat) (c : Chip) (hc : Holds memWf anyDue c) : Holds memWf anyDue (vred a c) := by
  conv in (vred a c) => (unfold vred; try dsimp only)
  repeat' (first | with_reducible assumption | with_reducible apply Chip.issueHead_holds | with_reducible apply TileM.fault_holds | with_reducible apply operandRead_holds | with_reducible apply operandWrite_holds | with_reducible apply vecCount_holds | with_reducible apply vredValue_holds | with_reducible apply TileM.fault_holds | with_reducible apply TileM.Keeps.bind | split | with_reducible intro _)
theorem vreq_holds (a : Nat) (c : Chip) (hc : Holds memWf anyDue c) : Holds memWf anyDue (vreq a c) := by
  conv in (vreq a c) => (unfold vreq; try dsimp only)
  repeat' (first | with_reducible assumption | with_reducible apply Chip.issueHead_holds | with_reducible apply TileM.fault_holds | with_reducible apply convertAll_holds | with_reducible apply operandRead_holds | with_reducible apply TileM.fault_holds | with_reducible apply TileM.Keeps.pure | with_reducible apply TileM.Keeps.bind | split | with_reducible intro _)
theorem vrsq_holds (a : Nat) (c : Chip) (hc : Holds memWf anyDue c) : Holds memWf anyDue (vrsq a c) := by
  conv in (vrsq a c) => (unfold vrsq; try dsimp only)
  repeat' (first | with_reducible assumption | with_reducible apply vecEach_holds | with_reducible apply vecFun_holds)
theorem vsel_holds (a : Nat) (c : Chip) (hc : Holds memWf anyDue c) : Holds memWf anyDue (vsel a c) := by
  conv in (vsel a c) => (unfold vsel; try dsimp only)
  repeat' (first | with_reducible assumption | with_reducible apply TileM.draw_holds | with_reducible apply vecEach_holds | with_reducible apply TileM.draw_holds | with_reducible apply TileM.Keeps.pure | with_reducible apply TileM.Keeps.bind | with_reducible intro _)
theorem vtanh_holds (a : Nat) (c : Chip) (hc : Holds memWf anyDue c) : Holds memWf anyDue (vtanh a c) := by
  conv in (vtanh a c) => (unfold vtanh; try dsimp only)
  repeat' (first | with_reducible assumption | with_reducible apply vecEach_holds | with_reducible apply vecFun_holds)
theorem wakeEvent_holds (a : Nat) (p : Part) (hp : Holds P Q p.chip) : Holds P Q (wakeEvent a p).chip := by
  conv in (wakeEvent a p) => (unfold wakeEvent; try dsimp only)
  repeat' (first | with_reducible assumption | with_reducible apply Chip.updPower_holds | with_reducible apply Part.wakeFrom_holds | with_reducible refine ite_part ?_ ?_)
theorem warmStart_holds (a : Nat) (p : Part) (hp : Holds memWf anyDue p.chip) : Holds memWf anyDue (warmStart a p).chip := by
  conv in (warmStart a p) => (unfold warmStart; try dsimp only)
  repeat' (first | with_reducible assumption | with_reducible apply Part.stepFailed_holds | with_reducible apply Part.warmSteps_holds | with_reducible refine ite_part ?_ ?_ | (with_reducible refine has_chip rfl ?_; first | with_reducible assumption | with_reducible apply Part.stepFailed_holds | with_reducible apply Part.warmSteps_holds | with_reducible refine ite_part ?_ ?_) | split)
theorem wdtCockpitExpiry_holds (p : Part) (hp : Holds memWf anyDue p.chip) : Holds memWf anyDue (wdtCockpitExpiry p).chip := by
  conv in (wdtCockpitExpiry p) => (unfold wdtCockpitExpiry; try dsimp only)
  repeat' (first | with_reducible assumption | with_reducible apply Chip.secRecord_holds | with_reducible apply Chip.setFld_holds | with_reducible refine ite_part ?_ ?_)
theorem wdtVehicleExpiry_holds (p : Part) (hp : Holds memWf anyDue p.chip) : Holds memWf anyDue (wdtVehicleExpiry p).chip := by
  conv in (wdtVehicleExpiry p) => (unfold wdtVehicleExpiry; try dsimp only)
  repeat' (first | with_reducible assumption | with_reducible apply Chip.wdtRecord_holds | with_reducible apply Part.beginCold_holds)
theorem weirDecision_holds (c : Chip) (hc : Holds memWf anyDue c) : Holds memWf anyDue (weirDecision c) := by
  conv in (weirDecision c) => (unfold weirDecision; try dsimp only)
  repeat' (first | with_reducible assumption | with_reducible apply Chip.channelFailed_holds | with_reducible apply Chip.count_holds | with_reducible apply Chip.weirAgrees_holds | with_reducible apply Chip.weirDisagrees_holds | with_reducible apply Chip.weirNext_holds | with_reducible apply Chip.weirTensors_holds | with_reducible refine of_snd2 (by assumption) ?_ | split)
theorem zeroFillDone_holds (a : Nat) (c : Chip) (hc : Holds memWf anyDue c) : Holds memWf anyDue (zeroFillDone a c) := by
  conv in (zeroFillDone a c) => (unfold zeroFillDone; try dsimp only)
  repeat' (first | with_reducible assumption | with_reducible apply Chip.fillRuns_holds | with_reducible refine ite_holds ?_ ?_ | split)

end Sys2Proof.Machine
end

