-- ==== Sys2Proof/Laws/Exec.lean ====
section
/-!
SUPPORT. What a command's meaning may touch at all: it acts on the part, or on the part and the security core's own
state, and then what the part owes is settled.
-/

namespace Sys2Proof.Machine

theorem State.on_next {s t : State} {f : Chip → Chip} (h : s.on f = .next t) : t = { s with chip := (f s.chip).settle } := by
  cases h; rfl
theorem State.onPart_next {s t : State} {f : Part → Part} (h : s.onPart f = .next t) :
    t = { s with chip := (f s.part).chip.settle, sec := (f s.part).sec } := by
  cases h; rfl

/-- With no safety record lost, nothing is owed. -/
theorem Chip.settle_quiet {c : Chip} (h : c.err.safetyDue = false) : c.settle = c := by
  unfold Chip.settle; rw [if_neg (by rw [h]; decide)]

/-- A command keeps the memory's canonical form where its operation does. -/
theorem State.on_keeps {s t : State} {f : Chip → Chip} (e : s.on f = .next t) (h : Chip.Holds memWf anyDue (f s.chip)) :
    Chip.Holds memWf anyDue t.chip := by
  rw [State.on_next e]; exact Chip.settle_holds _ h
theorem State.onPart_keeps {s t : State} {f : Part → Part} (e : s.onPart f = .next t) (h : Chip.Holds memWf anyDue (f s.part).chip) :
    Chip.Holds memWf anyDue t.chip := by
  rw [State.onPart_next e]; exact Chip.settle_holds _ h

/-- Every command is an operation of the part, or of the part with its security core. -/
theorem exec_form (s : State) (i : Instr) : (∃ f, exec i s = s.on f) ∨ (∃ f, exec i s = s.onPart f) :=
  match i with
  | .meshRequest master serves cls addr world parity len write data => .inr ⟨(meshRequest master serves cls addr world parity len write data), rfl⟩
  | .prewake packet => .inl ⟨(prewake packet), rfl⟩
  | .sliceCreate packet => .inr ⟨(sliceCreate packet), rfl⟩
  | .sliceDestroy packet => .inl ⟨(sliceDestroy packet), rfl⟩
  | .slicetagWrite hart mode value => .inl ⟨(slicetagWrite hart (match mode with | 0 => .m | 1 => .hs | 2 => .vs | 3 => .u | _ => .vu) value), rfl⟩
  | .predclrWrite hart mode value => .inl ⟨(predclrWrite hart (match mode with | 0 => .m | 1 => .hs | 2 => .vs | 3 => .u | _ => .vu) value), rfl⟩
  | .accPasidMapWrite master tag slice value => .inl ⟨(accPasidMapCommand master tag slice value), rfl⟩
  | .accTableWrite master tag target off value => .inl ⟨(accTableCommand master tag target off value), rfl⟩
  | .registerWrite master tag addr data => .inr ⟨(registerWrite master tag addr data), rfl⟩
  | .rcRegisterRead master tag addr len => .inr ⟨(rcRegisterRead master tag addr len), rfl⟩
  | .memInvalidate packet => .inl ⟨(memInvalidate packet), rfl⟩
  | .memInvalidateClear packet => .inl ⟨(memInvalidateClear packet), rfl⟩
  | .dirtyLogDisable packet => .inl ⟨(dirtyLogDisable packet), rfl⟩
  | .dirtyLogEnable packet => .inl ⟨(dirtyLogEnable packet), rfl⟩
  | .dirtyLogReadClear packet => .inl ⟨(dirtyLogReadClear packet), rfl⟩
  | .functionDisable packet => .inl ⟨(functionDisable packet), rfl⟩
  | .functionEnable packet => .inl ⟨(functionEnable packet), rfl⟩
  | .functionDisableTimeout packet => .inl ⟨(functionDisableTimeout packet), rfl⟩
  | .functionDisableDrained packet => .inr ⟨(functionDisableDrained packet), rfl⟩
  | .doorbellLowerHalfWrite slice off v => .inl ⟨(holdLowerHalf slice off v), rfl⟩
  | .doorbellBadAccess master slice off write => .inl ⟨(doorbellMisuse 2 master slice off write), rfl⟩
  | .ringEnable slice ring log2 => .inl ⟨(ringEnable slice ring log2), rfl⟩
  | .ringDisable slice ring => .inl ⟨(ringDisable slice ring), rfl⟩
  | .ringDrained slice ring => .inl ⟨(ringDrained slice ring), rfl⟩
  | .eventRingEnable slice log2 => .inl ⟨(eventRingEnable slice log2), rfl⟩
  | .sqTailWrite slice ring tail => .inl ⟨(sqTailWrite slice ring tail.toNat), rfl⟩
  | .packetFetch slice ring => .inl ⟨(packetFetch slice ring), rfl⟩
  | .packetStart  => .inl ⟨packetStart, rfl⟩
  | .packetComplete id => .inl ⟨(packetComplete id), rfl⟩
  | .cqHeadWrite slice ring head => .inl ⟨(cqHeadWrite slice ring head.toNat), rfl⟩
  | .eqHeadWrite slice head => .inl ⟨(eqHeadWrite slice head.toNat), rfl⟩
  | .nopPacket id => .inl ⟨(nopPacket id), rfl⟩
  | .fencePacket id => .inl ⟨(fencePacket id), rfl⟩
  | .fenceRelease id => .inl ⟨(fenceRelease id), rfl⟩
  | .syncSignal id => .inl ⟨(syncSignal id), rfl⟩
  | .syncWait id => .inl ⟨(syncWait id), rfl⟩
  | .syncWaitRelease id => .inl ⟨(syncWaitRelease id), rfl⟩
  | .memCopy packet => .inr ⟨(Part.copyMem packet), rfl⟩
  | .memFill packet => .inr ⟨(Part.fillMem packet), rfl⟩
  | .syncWindowWrite slice i v => .inl ⟨(syncWindowWrite slice i v), rfl⟩
  | .syncWindowBadAccess master slice off write => .inl ⟨(doorbellMisuse 1 master slice off write), rfl⟩
  | .grpOppCapWrite tag group value => .inl ⟨(grpOppCapWrite tag group value.toNat), rfl⟩
  | .tileLfsrWrite master tag tile value => .inl ⟨(tileLfsrCommand master tag tile value), rfl⟩
  | .tileCounterClear master tag tile value => .inl ⟨(tileCounterCommand master tag tile value), rfl⟩
  | .tileNop tile => .inl ⟨(tileNop tile), rfl⟩
  | .tileLoop tile => .inl ⟨(tileLoop tile), rfl⟩
  | .endLoop tile => .inl ⟨(endLoop tile), rfl⟩
  | .tileBranch tile => .inl ⟨(tileBranch tile), rfl⟩
  | .tileEnd tile => .inl ⟨(tileEnd tile), rfl⟩
  | .tileBarrier tile => .inl ⟨(tileBarrier tile), rfl⟩
  | .mma tile => .inl ⟨(mma tile), rfl⟩
  | .accZero tile => .inl ⟨(accZero tile), rfl⟩
  | .accRead tile => .inl ⟨(accRead tile), rfl⟩
  | .accLoad tile => .inl ⟨(accLoad tile), rfl⟩
  | .vadd tile => .inl ⟨(vadd tile), rfl⟩
  | .vmul tile => .inl ⟨(vmul tile), rfl⟩
  | .vfma tile => .inl ⟨(vfma tile), rfl⟩
  | .vmin tile => .inl ⟨(vmin tile), rfl⟩
  | .vmax tile => .inl ⟨(vmax tile), rfl⟩
  | .vcmp tile => .inl ⟨(vcmp tile), rfl⟩
  | .vsel tile => .inl ⟨(vsel tile), rfl⟩
  | .vexp tile => .inl ⟨(vexp tile), rfl⟩
  | .vrcp tile => .inl ⟨(vrcp tile), rfl⟩
  | .vrsq tile => .inl ⟨(vrsq tile), rfl⟩
  | .vtanh tile => .inl ⟨(vtanh tile), rfl⟩
  | .vreq tile => .inl ⟨(vreq tile), rfl⟩
  | .vcvt tile => .inl ⟨(vcvt tile), rfl⟩
  | .vred tile => .inl ⟨(vred tile), rfl⟩
  | .moveTile tile => .inl ⟨(moveTile tile), rfl⟩
  | .sendTile tile => .inl ⟨(sendTile tile), rfl⟩
  | .tileSyncAdd tile => .inl ⟨(tileSyncAdd tile), rfl⟩
  | .tileSyncWait tile => .inl ⟨(tileSyncWait tile), rfl⟩
  | .tileSyncWaitMet tile => .inl ⟨(tileSyncWaitMet tile), rfl⟩
  | .instructionComplete tile unit => .inl ⟨(instructionComplete tile unit), rfl⟩
  | .ibufFillDone tile block => .inl ⟨(ibufFillDone tile block), rfl⟩
  | .tileHang tile => .inl ⟨(tileHang tile), rfl⟩
  | .rillStrided tile rill => .inl ⟨(rillRow 0 tile rill), rfl⟩
  | .rillGather tile rill => .inl ⟨(rillRow 1 tile rill), rfl⟩
  | .rillScatter tile rill => .inl ⟨(rillRow 2 tile rill), rfl⟩
  | .rillCsr tile rill => .inl ⟨(rillRow 3 tile rill), rfl⟩
  | .rillCsc tile rill => .inl ⟨(rillRow 4 tile rill), rfl⟩
  | .rillHashProbe tile rill => .inl ⟨(rillRow 5 tile rill), rfl⟩
  | .rillSetIntersect tile rill => .inl ⟨(rillRow 6 tile rill), rfl⟩
  | .rillNeighbour tile rill => .inl ⟨(rillRow 7 tile rill), rfl⟩
  | .rillBucketNn tile rill => .inl ⟨(rillRow 8 tile rill), rfl⟩
  | .rillResponse tile rill which => .inl ⟨(fun c => (rillResponse tile rill which c).advance tile), rfl⟩
  | .tileQueueRelease tile channel => .inl ⟨(tileQueueRelease tile channel), rfl⟩
  | .rillDescriptorDone tile rill => .inl ⟨(fun c => (rillDescriptorDone tile rill c).advance tile), rfl⟩
  | .dceLfsrWrite master tag group engine value => .inl ⟨(dceLfsrCommand master tag group engine value), rfl⟩
  | .convDesc group => .inl ⟨(engineRow group 0 0), rfl⟩
  | .maxpool group => .inl ⟨(engineRow group 0 1), rfl⟩
  | .avgpool group => .inl ⟨(engineRow group 0 2), rfl⟩
  | .nougatIn group => .inl ⟨(engineRow group 1 3), rfl⟩
  | .nougatOut group => .inl ⟨(engineRow group 1 4), rfl⟩
  | .cropResize group => .inl ⟨(engineRow group 2 5), rfl⟩
  | .engineDescriptorDone group engine => .inl ⟨(engineDescriptorDone group engine), rfl⟩
  | .jobRun packet => .inl ⟨(jobRun packet), rfl⟩
  | .pendingRelease packet => .inl ⟨(pendingRelease packet), rfl⟩
  | .jobDispatch job => .inl ⟨(jobDispatch job), rfl⟩
  | .jobEnd job => .inl ⟨(jobEnd job), rfl⟩
  | .preemptSignal job => .inl ⟨(preemptSignal job), rfl⟩
  | .saveComplete job => .inl ⟨(saveComplete job), rfl⟩
  | .restoreComplete job => .inl ⟨(restoreComplete job), rfl⟩
  | .jobPreempt packet => .inl ⟨(jobPreempt packet), rfl⟩
  | .preemptHoldExpiry job => .inl ⟨(preemptHoldExpiry job), rfl⟩
  | .jobAbort packet => .inl ⟨(jobAbort packet), rfl⟩
  | .modelRegister packet => .inl ⟨(modelRegister packet), rfl⟩
  | .modelPin packet => .inl ⟨(modelPin packet), rfl⟩
  | .modelEvict packet => .inl ⟨(modelEvict packet), rfl⟩
  | .modelVerify packet => .inl ⟨(modelVerify packet), rfl⟩
  | .modelLoadDone model => .inl ⟨(modelLoadDone model), rfl⟩
  | .triggerEnable tag trigger value => .inl ⟨(triggerEnable tag trigger value.toNat), rfl⟩
  | .triggerEdge trigger => .inl ⟨(triggerEdge trigger), rfl⟩
  | .fuseStreamOpen packet => .inl ⟨(fuseStreamOpen packet), rfl⟩
  | .fuseStreamClose packet => .inl ⟨(fuseStreamClose packet), rfl⟩
  | .fusePolicyContext packet => .inl ⟨(fusePolicyContext packet), rfl⟩
  | .fusePolicyGrid packet => .inl ⟨(fusePolicyGrid packet), rfl⟩
  | .fusePolicyTracker packet => .inl ⟨(fusePolicyTracker packet), rfl⟩
  | .fusePolicyStream packet => .inl ⟨(fusePolicyStream packet), rfl⟩
  | .fusePolicyRelease packet => .inl ⟨(fusePolicyRelease packet), rfl⟩
  | .cameraRow stream row verdict data => .inl ⟨(cameraRow stream row verdict data), rfl⟩
  | .cameraFrameEnd stream => .inl ⟨(cameraFrameEnd stream), rfl⟩
  | .lidarPacket stream data => .inl ⟨(lidarPacket stream data), rfl⟩
  | .imuSample stream data => .inl ⟨(imuSample stream data), rfl⟩
  | .injectContribution stream => .inl ⟨(injectContribution stream), rfl⟩
  | .alignWaitExpiry context => .inl ⟨(alignWaitExpiry context), rfl⟩
  | .lateCutoff stream => .inl ⟨(lateCutoff stream), rfl⟩
  | .l1Cycle grid => .inl ⟨(l1Cycle grid), rfl⟩
  | .l2Cycle  => .inl ⟨l2Cycle, rfl⟩
  | .lateRevision producer => .inl ⟨(lateRevision producer), rfl⟩
  | .aleStep even odd => .inl ⟨(aleStep even odd), rfl⟩
  | .divergence  => .inl ⟨divergence, rfl⟩
  | .aleLoad tag value => .inl ⟨(aleLoad tag value.toNat), rfl⟩
  | .aleLoadTakeEffect  => .inl ⟨aleLoadTakeEffect, rfl⟩
  | .aleEnable tag en => .inl ⟨(aleEnable tag en), rfl⟩
  | .aleAdapt tag adapt => .inl ⟨(aleAdapt tag adapt), rfl⟩
  | .alePortCfgWrite tag port value => .inl ⟨(alePortCfgWrite tag port value.toNat), rfl⟩
  | .audioRingEnable tag ring value => .inl ⟨(audioRingEnable tag ring value.toNat), rfl⟩
  | .captureBlock ring => .inl ⟨(captureBlock ring), rfl⟩
  | .playbackFetch ring => .inl ⟨(playbackFetch ring), rfl⟩
  | .playbackBlockStart ring => .inl ⟨(playbackBlockStart ring), rfl⟩
  | .statusRecord  => .inl ⟨statusRecord, rfl⟩
  | .avtpFrame stream bits rate channels time samples => .inl ⟨(avtpFrame stream.toNat bits rate channels time samples), rfl⟩
  | .gfxPass packet => .inl ⟨(gfxPass packet), rfl⟩
  | .passGeometry packet prims => .inl ⟨(passGeometry packet prims), rfl⟩
  | .partialFlush packet => .inl ⟨(partialFlush packet.packet packet.frags), rfl⟩
  | .passComplete packet cause list off tiles => .inl ⟨(passComplete packet.packet cause list off tiles packet.frags), rfl⟩
  | .passTakeover packet => .inl ⟨(passTakeover packet), rfl⟩
  | .gfxHang packet list off tiles => .inl ⟨(gfxHang packet.packet list off tiles packet.frags), rfl⟩
  | .dspPipeEnable tag pipe value => .inl ⟨(dspPipeEnable tag pipe value.toNat), rfl⟩
  | .dspCommit tag pipe value => .inl ⟨(dspCommit tag pipe value.toNat), rfl⟩
  | .commitLoad pipe => .inl ⟨(commitLoad pipe), rfl⟩
  | .displayLinkTraining tag pipe value trained lanes rate => .inl ⟨(displayLinkTraining tag pipe value.toNat trained lanes rate), rfl⟩
  | .displayLinkLoss pipe hotplug => .inl ⟨(displayLinkLoss pipe hotplug), rfl⟩
  | .frameEndCrc pipe missed => .inl ⟨(frameEndCrc pipe missed), rfl⟩
  | .pipeStall pipe => .inl ⟨(pipeStall pipe), rfl⟩
  | .outputSet packet => .inl ⟨(outputSet packet), rfl⟩
  | .outputDisarm packet => .inl ⟨(outputDisarm packet), rfl⟩
  | .groupRelease packet => .inl ⟨(groupRelease packet), rfl⟩
  | .groupForce packet => .inl ⟨(groupForce packet), rfl⟩
  | .messageSet packet => .inl ⟨(messageSet packet), rfl⟩
  | .telltaleSet packet => .inl ⟨(telltaleSet packet), rfl⟩
  | .jobRunDiverse packet => .inl ⟨(jobRunDiverse packet), rfl⟩
  | .weirDecision  => .inl ⟨weirDecision, rfl⟩
  | .deadlineMiss output => .inl ⟨(deadlineMiss output), rfl⟩
  | .safeMessageRepeat  => .inl ⟨safeMessageRepeat, rfl⟩
  | .goldenScheduleSet packet => .inl ⟨(goldenScheduleSet packet), rfl⟩
  | .goldenScheduleClear packet => .inl ⟨(goldenScheduleClear packet), rfl⟩
  | .goldenScheduleRunNow packet => .inl ⟨(goldenScheduleRunNow packet), rfl⟩
  | .goldenRunDue group => .inl ⟨(goldenRunDue group), rfl⟩
  | .goldenRunEnd group => .inl ⟨(goldenRunEnd group), rfl⟩
  | .goldenOverdue group => .inl ⟨(goldenOverdue group), rfl⟩
  | .lockstepMismatch selftest => .inl ⟨(lockstepMismatch selftest), rfl⟩
  | .selftestSliceStart tile => .inl ⟨(selftestSliceStart tile), rfl⟩
  | .selftestStep tile pass => .inl ⟨(selftestStep tile pass), rfl⟩
  | .selftestAbort tile => .inl ⟨(selftestAbort tile), rfl⟩
  | .selftestSliceEnd tile => .inl ⟨(selftestSliceEnd tile), rfl⟩
  | .checkerTest checker pass step us => .inl ⟨(checkerTest checker pass step us), rfl⟩
  | .selftestOverdue index => .inl ⟨(selftestOverdue index), rfl⟩
  | .selftestTile packet => .inl ⟨(selftestTile packet), rfl⟩
  | .selftestGroup packet => .inl ⟨(selftestGroup packet), rfl⟩
  | .selftestChecker packet => .inl ⟨(selftestChecker packet), rfl⟩
  | .selftestSchedule packet => .inl ⟨(selftestSchedule packet), rfl⟩
  | .errorRecord severity cause source unit master slice world target addr detail => .inl ⟨(fun c => c.error { severity := severity, cause := cause, source := source, unit := unit, master := master, slice := slice, world := world, target := target, addr := addr, detail := some detail }), rfl⟩
  | .errRingEnable tag value => .inl ⟨(errRingEnable tag value.toNat), rfl⟩
  | .errRingHeadWrite tag value => .inl ⟨(errRingHeadWrite tag value.toNat), rfl⟩
  | .gateFault hart mode word => .inr ⟨(gateFault hart mode word), rfl⟩
  | .pageOwnerSet hart mode rd block len => .inr ⟨(gateCall 0x0010 hart mode rd block len), rfl⟩
  | .pageOwnerSetApply  => .inr ⟨pageOwnerSetApply, rfl⟩
  | .pageOwnerQuery hart mode rd block len => .inr ⟨(gateCall 0x0011 hart mode rd block len), rfl⟩
  | .rollbackCommit hart mode rd block len => .inr ⟨(gateCall 0x0012 hart mode rd block len), rfl⟩
  | .gateAttest hart mode rd block len => .inr ⟨(gateCall 0x0020 hart mode rd block len), rfl⟩
  | .gateRandom hart mode rd block len => .inr ⟨(gateCall 0x0021 hart mode rd block len), rfl⟩
  | .debugChallenge hart mode rd block len => .inr ⟨(gateCall 0x0030 hart mode rd block len), rfl⟩
  | .debugOpen hart mode rd block len => .inr ⟨(gateCall 0x0031 hart mode rd block len), rfl⟩
  | .debugClose hart mode rd block len => .inr ⟨(gateCall 0x0032 hart mode rd block len), rfl⟩
  | .challengeLapse  => .inr ⟨challengeLapse, rfl⟩
  | .netkeyLoad hart mode rd block len => .inr ⟨(gateCall 0x0040 hart mode rd block len), rfl⟩
  | .contentUnwrap hart mode rd block len => .inr ⟨(gateCall 0x0050 hart mode rd block len), rfl⟩
  | .vaultRead hart mode rd block len => .inr ⟨(gateCall 0x0051 hart mode rd block len), rfl⟩
  | .vaultWrite hart mode rd block len => .inr ⟨(gateCall 0x0052 hart mode rd block len), rfl⟩
  | .claimRelease block => .inr ⟨(claimRelease block), rfl⟩
  | .claimExpiry block => .inr ⟨(claimExpiry block), rfl⟩
  | .wdtVehicleExpiry  => .inr ⟨wdtVehicleExpiry, rfl⟩
  | .wdtCockpitExpiry  => .inr ⟨wdtCockpitExpiry, rfl⟩
  | .ownerEntryRepair page => .inl ⟨(ownerEntryRepair page), rfl⟩
  | .dramRead id => .inl ⟨(fun c => (dramRead id c).eccService), rfl⟩
  | .dramWrite id => .inl ⟨(fun c => (dramWrite id c).eccService), rfl⟩
  | .zeroFillDone block => .inl ⟨(fun c => (zeroFillDone block c).eccService), rfl⟩
  | .millraceWindow channel => .inl ⟨(millraceWindow channel), rfl⟩
  | .dramCalibration channel ok => .inl ⟨(dramCalibration channel ok), rfl⟩
  | .arbiterGrant arbiter asks ended => .inl ⟨(arbiterGrant arbiter asks ended), rfl⟩
  | .leakTick inst => .inl ⟨(leakTick inst), rfl⟩
  | .eccRegionWrite tag region limit value => .inl ⟨(eccRegionWrite tag region limit value), rfl⟩
  | .tileCodeMapWrite tag tile value => .inl ⟨(tileCodeMapWrite tag tile value), rfl⟩
  | .blockOff packet => .inl ⟨(blockOff packet), rfl⟩
  | .blockOn packet => .inl ⟨(blockOn packet), rfl⟩
  | .standby packet => .inl ⟨(standby packet), rfl⟩
  | .park packet => .inl ⟨(park packet), rfl⟩
  | .restart packet => .inl ⟨(restart packet), rfl⟩
  | .idleUntil packet => .inl ⟨(idleUntil packet), rfl⟩
  | .stateEntryHalt  => .inr ⟨stateEntryHalt, rfl⟩
  | .warmReq tag => .inl ⟨(warmReq tag), rfl⟩
  | .profileSelect packet => .inr ⟨(profileSelect packet), rfl⟩
  | .wakeEvent source => .inr ⟨(wakeEvent source), rfl⟩
  | .aonPowerUp  => .inr ⟨aonPowerUp, rfl⟩
  | .pgoodRise  => .inr ⟨pgoodRise, rfl⟩
  | .pgoodTimeout  => .inr ⟨pgoodTimeout, rfl⟩
  | .pgoodFall  => .inr ⟨pgoodFall, rfl⟩
  | .resetAssert  => .inr ⟨resetAssert, rfl⟩
  | .resetRelease  => .inr ⟨resetRelease, rfl⟩
  | .coldStart failAt => .inr ⟨(coldStart failAt), rfl⟩
  | .warmStart failAt => .inr ⟨(warmStart failAt), rfl⟩
  | .startTimeout step => .inr ⟨(startTimeout step), rfl⟩
  | .recoveryBundle  => .inr ⟨recoveryBundle, rfl⟩
  | .recCtrlGo  => .inl ⟨recCtrlGo, rfl⟩
  | .groupWake group => .inl ⟨(groupWake group), rfl⟩
  | .groupRunning group => .inl ⟨(groupRunning group), rfl⟩
  | .groupSleep group => .inl ⟨(groupSleep group), rfl⟩
  | .sluiceRequest kind n units cls slice timeoutUs => .inl ⟨(sluiceRequest kind n units cls slice timeoutUs), rfl⟩
  | .sluiceReturn kind n => .inl ⟨(sluiceReturn kind n), rfl⟩
  | .sluiceTimeout  => .inl ⟨sluiceTimeout, rfl⟩
  | .sluiceTick  => .inl ⟨sluiceTick, rfl⟩
  | .thermalSample temps => .inr ⟨(thermalSample temps), rfl⟩
  | .throttleLift  => .inl ⟨throttleLift, rfl⟩
  | .shutdownRestart  => .inr ⟨shutdownRestart, rfl⟩
  | .thermalPiStep  => .inl ⟨thermalPiStep, rfl⟩
  | .thermalEmergency zone => .inr ⟨(thermalEmergency zone), rfl⟩
  | .kernelWatchdogExpiry core => .inr ⟨(kernelWatchdogExpiry core), rfl⟩
  | .coreFault core sram info => .inr ⟨(coreFault core sram info), rfl⟩
  | .serviceRestart service => .inl ⟨(serviceRestart service), rfl⟩
  | .coreRejoin core => .inr ⟨(coreRejoin core), rfl⟩
  | .logConfig packet => .inl ⟨(logConfig packet), rfl⟩
  | .logAppend core service level code arg0 arg1 => .inl ⟨(logAppend core service level code arg0 arg1), rfl⟩
  | .traceRing packet => .inl ⟨(traceRing packet), rfl⟩
  | .traceMask packet => .inl ⟨(traceMask packet), rfl⟩
  | .traceOff packet => .inl ⟨(traceOff packet), rfl⟩
  | .traceAppend core point arg => .inl ⟨(traceAppend core point arg), rfl⟩
  | .mbxSubmitJob tag => .inr ⟨(mbxSubmitJob tag), rfl⟩
  | .mbxPreempt tag => .inr ⟨(mbxPreempt tag), rfl⟩
  | .mbxAbort tag => .inr ⟨(mbxAbort tag), rfl⟩
  | .mbxHint tag => .inr ⟨(mbxHint tag), rfl⟩
  | .mbxAttest tag => .inr ⟨(mbxAttest tag), rfl⟩
  | .mbxRandom tag => .inr ⟨(mbxRandom tag), rfl⟩
  | .mbxLoadModel tag => .inr ⟨(mbxLoadModel tag), rfl⟩
  | .mbxUnloadModel tag => .inr ⟨(mbxUnloadModel tag), rfl⟩
  | .mbxUnknownCommand tag mailbox => .inr ⟨(mbxUnknown tag mailbox), rfl⟩
  | .hostRequest port bar pasid off len write data => .inr ⟨(hostRequest port bar pasid off len write data), rfl⟩
  | .msiWindowWrite master tag port vector => .inl ⟨(msiWindowWrite master tag port vector), rfl⟩
  | .twinLinkUp gbps => .inl ⟨(twinLinkUp gbps), rfl⟩
  | .twinHello twinId role nonce => .inr ⟨(twinHello twinId role nonce), rfl⟩
  | .twinReport report => .inl ⟨(twinReport report), rfl⟩
  | .twinPaired  => .inl ⟨twinPaired, rfl⟩
  | .pairFault cause => .inl ⟨(pairFault cause), rfl⟩
  | .pairRetry  => .inl ⟨pairRetry, rfl⟩
  | .heartbeatTick  => .inl ⟨heartbeatTick, rfl⟩
  | .heartbeatRx pin => .inl ⟨(heartbeatRx pin), rfl⟩
  | .heartbeatWindow  => .inl ⟨heartbeatWindow, rfl⟩
  | .checkpointTrigger channel => .inl ⟨(checkpointTrigger channel), rfl⟩
  | .ckptStart channel value dst data => .inl ⟨(ckptStart channel value.toNat (dst.toNat % 2 ^ 48) data), rfl⟩
  | .ckptAck channel status value => .inl ⟨(ckptAck channel status value.toNat), rfl⟩
  | .detach tag => .inl ⟨(detach tag), rfl⟩
  | .detachReq  => .inl ⟨detachReq, rfl⟩
  | .detachAck  => .inl ⟨detachAck, rfl⟩
  | .carryEnd tag => .inl ⟨(carryEnd tag), rfl⟩
  | .recReq offset len => .inl ⟨(recReq offset len), rfl⟩
  | .recData offset data => .inl ⟨(recData offset data), rfl⟩
  | .recEnd len => .inl ⟨(recEnd len), rfl⟩
  | .bridgeWrite master tag addr ns data => .inr ⟨(bridgeWrite master tag addr ns data), rfl⟩
  | .bridgeRead master tag addr len => .inr ⟨(bridgeRead master tag addr len), rfl⟩
  | .bridgeReadFetched  => .inl ⟨bridgeReadFetched, rfl⟩
  | .bridgeReadDiscard  => .inl ⟨bridgeReadDiscard, rfl⟩
  | .announceTick  => .inl ⟨announceTick, rfl⟩
  | .announcement frame => .inl ⟨(announcement frame), rfl⟩
  | .refSilent  => .inl ⟨refSilent, rfl⟩
  | .domainStage packet => .inr ⟨(domainStage packet), rfl⟩
  | .domainSwitch packet => .inl ⟨(domainSwitch packet), rfl⟩
  | .domainSwitchCancel packet => .inl ⟨(domainSwitchCancel packet), rfl⟩
  | .domainSwitchTime  => .inl ⟨domainSwitchTime, rfl⟩
  | .ethFrameRx port data => .inr ⟨(ethFrameRx port data), rfl⟩
  | .ethFrameTx port => .inr ⟨(ethFrameTx port), rfl⟩
  | .gateInterval port => .inl ⟨(gateInterval port), rfl⟩
  | .netDmaTail tag ring tail => .inl ⟨(netDmaTail tag ring tail.toNat), rfl⟩
  | .canFrameRx controller sof idw flags sdt vcid af data => .inl ⟨(canFrameRx controller sof.toNat { idw := idw.toNat % 2 ^ 31, flags := flags % 16, sdt := sdt % 256, vcid := vcid % 256, af := af.toNat, data := data }), rfl⟩
  | .canTxTail tag controller offset => .inl ⟨(canTxTail tag controller offset.toNat), rfl⟩
  | .canArbitration controller won => .inl ⟨(canArbitration controller won), rfl⟩
  | .ptpSyncRx port rx seconds nanos corr => .inl ⟨(ptpSyncRx port rx seconds nanos corr), rfl⟩
  | .ptpSyncTx port => .inl ⟨(ptpSyncTx port), rfl⟩
  | .pdelayReq port rx seq peer => .inl ⟨(pdelayReq port rx seq peer), rfl⟩
  | .gmLoss  => .inl ⟨gmLoss, rfl⟩
  | .holdoverExpiry  => .inl ⟨holdoverExpiry, rfl⟩
  | .netTimeRead master tag => .inl ⟨(netTimeRead master tag), rfl⟩
  | .aonPowerLoss  => .inr ⟨aonPowerLoss, rfl⟩
  | .linkDown port => .inl ⟨(linkDown port), rfl⟩
  | .ethLinkDown port => .inl ⟨(ethLinkDown port), rfl⟩
  | .canBusOff controller tec rec => .inl ⟨(canBusOff controller tec rec), rfl⟩
  | .gptpAnnounce port present p1 cls acc var p2 gm steps => .inl ⟨(gptpAnnounce port present p1 cls acc var p2 gm.toNat steps), rfl⟩
  | .pdelayResp port t1 t2 t3 t4 => .inl ⟨(pdelayResp port t1 t2 t3 t4), rfl⟩
  | .frerReset stream => .inl ⟨(frerReset stream), rfl⟩

/-- Only the commands that may reach the security core's own state act on it. -/
theorem exec_on (s : State) (i : Instr) : reachesSecure i = false → ∃ f, exec i s = s.on f :=
  match i with
  | .meshRequest .. => fun h => nomatch h
  | .prewake packet => fun _ => ⟨(prewake packet), rfl⟩
  | .sliceCreate .. => fun h => nomatch h
  | .sliceDestroy packet => fun _ => ⟨(sliceDestroy packet), rfl⟩
  | .slicetagWrite .. => fun _ => ⟨_, rfl⟩
  | .predclrWrite .. => fun _ => ⟨_, rfl⟩
  | .accPasidMapWrite master tag slice value => fun _ => ⟨(accPasidMapCommand master tag slice value), rfl⟩
  | .accTableWrite master tag target off value => fun _ => ⟨(accTableCommand master tag target off value), rfl⟩
  | .registerWrite .. => fun h => nomatch h
  | .rcRegisterRead .. => fun h => nomatch h
  | .memInvalidate packet => fun _ => ⟨(memInvalidate packet), rfl⟩
  | .memInvalidateClear packet => fun _ => ⟨(memInvalidateClear packet), rfl⟩
  | .dirtyLogDisable packet => fun _ => ⟨(dirtyLogDisable packet), rfl⟩
  | .dirtyLogEnable packet => fun _ => ⟨(dirtyLogEnable packet), rfl⟩
  | .dirtyLogReadClear packet => fun _ => ⟨(dirtyLogReadClear packet), rfl⟩
  | .functionDisable packet => fun _ => ⟨(functionDisable packet), rfl⟩
  | .functionEnable packet => fun _ => ⟨(functionEnable packet), rfl⟩
  | .functionDisableTimeout packet => fun _ => ⟨(functionDisableTimeout packet), rfl⟩
  | .functionDisableDrained .. => fun h => nomatch h
  | .doorbellLowerHalfWrite slice off v => fun _ => ⟨(holdLowerHalf slice off v), rfl⟩
  | .doorbellBadAccess master slice off write => fun _ => ⟨(doorbellMisuse 2 master slice off write), rfl⟩
  | .ringEnable slice ring log2 => fun _ => ⟨(ringEnable slice ring log2), rfl⟩
  | .ringDisable slice ring => fun _ => ⟨(ringDisable slice ring), rfl⟩
  | .ringDrained slice ring => fun _ => ⟨(ringDrained slice ring), rfl⟩
  | .eventRingEnable slice log2 => fun _ => ⟨(eventRingEnable slice log2), rfl⟩
  | .sqTailWrite slice ring tail => fun _ => ⟨(sqTailWrite slice ring tail.toNat), rfl⟩
  | .packetFetch slice ring => fun _ => ⟨(packetFetch slice ring), rfl⟩
  | .packetStart  => fun _ => ⟨packetStart, rfl⟩
  | .packetComplete id => fun _ => ⟨(packetComplete id), rfl⟩
  | .cqHeadWrite slice ring head => fun _ => ⟨(cqHeadWrite slice ring head.toNat), rfl⟩
  | .eqHeadWrite slice head => fun _ => ⟨(eqHeadWrite slice head.toNat), rfl⟩
  | .nopPacket id => fun _ => ⟨(nopPacket id), rfl⟩
  | .fencePacket id => fun _ => ⟨(fencePacket id), rfl⟩
  | .fenceRelease id => fun _ => ⟨(fenceRelease id), rfl⟩
  | .syncSignal id => fun _ => ⟨(syncSignal id), rfl⟩
  | .syncWait id => fun _ => ⟨(syncWait id), rfl⟩
  | .syncWaitRelease id => fun _ => ⟨(syncWaitRelease id), rfl⟩
  | .memCopy .. => fun h => nomatch h
  | .memFill .. => fun h => nomatch h
  | .syncWindowWrite slice i v => fun _ => ⟨(syncWindowWrite slice i v), rfl⟩
  | .syncWindowBadAccess master slice off write => fun _ => ⟨(doorbellMisuse 1 master slice off write), rfl⟩
  | .grpOppCapWrite tag group value => fun _ => ⟨(grpOppCapWrite tag group value.toNat), rfl⟩
  | .tileLfsrWrite master tag tile value => fun _ => ⟨(tileLfsrCommand master tag tile value), rfl⟩
  | .tileCounterClear master tag tile value => fun _ => ⟨(tileCounterCommand master tag tile value), rfl⟩
  | .tileNop tile => fun _ => ⟨(tileNop tile), rfl⟩
  | .tileLoop tile => fun _ => ⟨(tileLoop tile), rfl⟩
  | .endLoop tile => fun _ => ⟨(endLoop tile), rfl⟩
  | .tileBranch tile => fun _ => ⟨(tileBranch tile), rfl⟩
  | .tileEnd tile => fun _ => ⟨(tileEnd tile), rfl⟩
  | .tileBarrier tile => fun _ => ⟨(tileBarrier tile), rfl⟩
  | .mma tile => fun _ => ⟨(mma tile), rfl⟩
  | .accZero tile => fun _ => ⟨(accZero tile), rfl⟩
  | .accRead tile => fun _ => ⟨(accRead tile), rfl⟩
  | .accLoad tile => fun _ => ⟨(accLoad tile), rfl⟩
  | .vadd tile => fun _ => ⟨(vadd tile), rfl⟩
  | .vmul tile => fun _ => ⟨(vmul tile), rfl⟩
  | .vfma tile => fun _ => ⟨(vfma tile), rfl⟩
  | .vmin tile => fun _ => ⟨(vmin tile), rfl⟩
  | .vmax tile => fun _ => ⟨(vmax tile), rfl⟩
  | .vcmp tile => fun _ => ⟨(vcmp tile), rfl⟩
  | .vsel tile => fun _ => ⟨(vsel tile), rfl⟩
  | .vexp tile => fun _ => ⟨(vexp tile), rfl⟩
  | .vrcp tile => fun _ => ⟨(vrcp tile), rfl⟩
  | .vrsq tile => fun _ => ⟨(vrsq tile), rfl⟩
  | .vtanh tile => fun _ => ⟨(vtanh tile), rfl⟩
  | .vreq tile => fun _ => ⟨(vreq tile), rfl⟩
  | .vcvt tile => fun _ => ⟨(vcvt tile), rfl⟩
  | .vred tile => fun _ => ⟨(vred tile), rfl⟩
  | .moveTile tile => fun _ => ⟨(moveTile tile), rfl⟩
  | .sendTile tile => fun _ => ⟨(sendTile tile), rfl⟩
  | .tileSyncAdd tile => fun _ => ⟨(tileSyncAdd tile), rfl⟩
  | .tileSyncWait tile => fun _ => ⟨(tileSyncWait tile), rfl⟩
  | .tileSyncWaitMet tile => fun _ => ⟨(tileSyncWaitMet tile), rfl⟩
  | .instructionComplete tile unit => fun _ => ⟨(instructionComplete tile unit), rfl⟩
  | .ibufFillDone tile block => fun _ => ⟨(ibufFillDone tile block), rfl⟩
  | .tileHang tile => fun _ => ⟨(tileHang tile), rfl⟩
  | .rillStrided tile rill => fun _ => ⟨(rillRow 0 tile rill), rfl⟩
  | .rillGather tile rill => fun _ => ⟨(rillRow 1 tile rill), rfl⟩
  | .rillScatter tile rill => fun _ => ⟨(rillRow 2 tile rill), rfl⟩
  | .rillCsr tile rill => fun _ => ⟨(rillRow 3 tile rill), rfl⟩
  | .rillCsc tile rill => fun _ => ⟨(rillRow 4 tile rill), rfl⟩
  | .rillHashProbe tile rill => fun _ => ⟨(rillRow 5 tile rill), rfl⟩
  | .rillSetIntersect tile rill => fun _ => ⟨(rillRow 6 tile rill), rfl⟩
  | .rillNeighbour tile rill => fun _ => ⟨(rillRow 7 tile rill), rfl⟩
  | .rillBucketNn tile rill => fun _ => ⟨(rillRow 8 tile rill), rfl⟩
  | .rillResponse tile rill which => fun _ => ⟨(fun c => (rillResponse tile rill which c).advance tile), rfl⟩
  | .tileQueueRelease tile channel => fun _ => ⟨(tileQueueRelease tile channel), rfl⟩
  | .rillDescriptorDone tile rill => fun _ => ⟨(fun c => (rillDescriptorDone tile rill c).advance tile), rfl⟩
  | .dceLfsrWrite master tag group engine value => fun _ => ⟨(dceLfsrCommand master tag group engine value), rfl⟩
  | .convDesc group => fun _ => ⟨(engineRow group 0 0), rfl⟩
  | .maxpool group => fun _ => ⟨(engineRow group 0 1), rfl⟩
  | .avgpool group => fun _ => ⟨(engineRow group 0 2), rfl⟩
  | .nougatIn group => fun _ => ⟨(engineRow group 1 3), rfl⟩
  | .nougatOut group => fun _ => ⟨(engineRow group 1 4), rfl⟩
  | .cropResize group => fun _ => ⟨(engineRow group 2 5), rfl⟩
  | .engineDescriptorDone group engine => fun _ => ⟨(engineDescriptorDone group engine), rfl⟩
  | .jobRun packet => fun _ => ⟨(jobRun packet), rfl⟩
  | .pendingRelease packet => fun _ => ⟨(pendingRelease packet), rfl⟩
  | .jobDispatch job => fun _ => ⟨(jobDispatch job), rfl⟩
  | .jobEnd job => fun _ => ⟨(jobEnd job), rfl⟩
  | .preemptSignal job => fun _ => ⟨(preemptSignal job), rfl⟩
  | .saveComplete job => fun _ => ⟨(saveComplete job), rfl⟩
  | .restoreComplete job => fun _ => ⟨(restoreComplete job), rfl⟩
  | .jobPreempt packet => fun _ => ⟨(jobPreempt packet), rfl⟩
  | .preemptHoldExpiry job => fun _ => ⟨(preemptHoldExpiry job), rfl⟩
  | .jobAbort packet => fun _ => ⟨(jobAbort packet), rfl⟩
  | .modelRegister packet => fun _ => ⟨(modelRegister packet), rfl⟩
  | .modelPin packet => fun _ => ⟨(modelPin packet), rfl⟩
  | .modelEvict packet => fun _ => ⟨(modelEvict packet), rfl⟩
  | .modelVerify packet => fun _ => ⟨(modelVerify packet), rfl⟩
  | .modelLoadDone model => fun _ => ⟨(modelLoadDone model), rfl⟩
  | .triggerEnable tag trigger value => fun _ => ⟨(triggerEnable tag trigger value.toNat), rfl⟩
  | .triggerEdge trigger => fun _ => ⟨(triggerEdge trigger), rfl⟩
  | .fuseStreamOpen packet => fun _ => ⟨(fuseStreamOpen packet), rfl⟩
  | .fuseStreamClose packet => fun _ => ⟨(fuseStreamClose packet), rfl⟩
  | .fusePolicyContext packet => fun _ => ⟨(fusePolicyContext packet), rfl⟩
  | .fusePolicyGrid packet => fun _ => ⟨(fusePolicyGrid packet), rfl⟩
  | .fusePolicyTracker packet => fun _ => ⟨(fusePolicyTracker packet), rfl⟩
  | .fusePolicyStream packet => fun _ => ⟨(fusePolicyStream packet), rfl⟩
  | .fusePolicyRelease packet => fun _ => ⟨(fusePolicyRelease packet), rfl⟩
  | .cameraRow stream row verdict data => fun _ => ⟨(cameraRow stream row verdict data), rfl⟩
  | .cameraFrameEnd stream => fun _ => ⟨(cameraFrameEnd stream), rfl⟩
  | .lidarPacket stream data => fun _ => ⟨(lidarPacket stream data), rfl⟩
  | .imuSample stream data => fun _ => ⟨(imuSample stream data), rfl⟩
  | .injectContribution stream => fun _ => ⟨(injectContribution stream), rfl⟩
  | .alignWaitExpiry context => fun _ => ⟨(alignWaitExpiry context), rfl⟩
  | .lateCutoff stream => fun _ => ⟨(lateCutoff stream), rfl⟩
  | .l1Cycle grid => fun _ => ⟨(l1Cycle grid), rfl⟩
  | .l2Cycle  => fun _ => ⟨l2Cycle, rfl⟩
  | .lateRevision producer => fun _ => ⟨(lateRevision producer), rfl⟩
  | .aleStep even odd => fun _ => ⟨(aleStep even odd), rfl⟩
  | .divergence  => fun _ => ⟨divergence, rfl⟩
  | .aleLoad tag value => fun _ => ⟨(aleLoad tag value.toNat), rfl⟩
  | .aleLoadTakeEffect  => fun _ => ⟨aleLoadTakeEffect, rfl⟩
  | .aleEnable tag en => fun _ => ⟨(aleEnable tag en), rfl⟩
  | .aleAdapt tag adapt => fun _ => ⟨(aleAdapt tag adapt), rfl⟩
  | .alePortCfgWrite tag port value => fun _ => ⟨(alePortCfgWrite tag port value.toNat), rfl⟩
  | .audioRingEnable tag ring value => fun _ => ⟨(audioRingEnable tag ring value.toNat), rfl⟩
  | .captureBlock ring => fun _ => ⟨(captureBlock ring), rfl⟩
  | .playbackFetch ring => fun _ => ⟨(playbackFetch ring), rfl⟩
  | .playbackBlockStart ring => fun _ => ⟨(playbackBlockStart ring), rfl⟩
  | .statusRecord  => fun _ => ⟨statusRecord, rfl⟩
  | .avtpFrame stream bits rate channels time samples => fun _ => ⟨(avtpFrame stream.toNat bits rate channels time samples), rfl⟩
  | .gfxPass packet => fun _ => ⟨(gfxPass packet), rfl⟩
  | .passGeometry packet prims => fun _ => ⟨(passGeometry packet prims), rfl⟩
  | .partialFlush packet => fun _ => ⟨(partialFlush packet.packet packet.frags), rfl⟩
  | .passComplete packet cause list off tiles => fun _ => ⟨(passComplete packet.packet cause list off tiles packet.frags), rfl⟩
  | .passTakeover packet => fun _ => ⟨(passTakeover packet), rfl⟩
  | .gfxHang packet list off tiles => fun _ => ⟨(gfxHang packet.packet list off tiles packet.frags), rfl⟩
  | .dspPipeEnable tag pipe value => fun _ => ⟨(dspPipeEnable tag pipe value.toNat), rfl⟩
  | .dspCommit tag pipe value => fun _ => ⟨(dspCommit tag pipe value.toNat), rfl⟩
  | .commitLoad pipe => fun _ => ⟨(commitLoad pipe), rfl⟩
  | .displayLinkTraining tag pipe value trained lanes rate => fun _ => ⟨(displayLinkTraining tag pipe value.toNat trained lanes rate), rfl⟩
  | .displayLinkLoss pipe hotplug => fun _ => ⟨(displayLinkLoss pipe hotplug), rfl⟩
  | .frameEndCrc pipe missed => fun _ => ⟨(frameEndCrc pipe missed), rfl⟩
  | .pipeStall pipe => fun _ => ⟨(pipeStall pipe), rfl⟩
  | .outputSet packet => fun _ => ⟨(outputSet packet), rfl⟩
  | .outputDisarm packet => fun _ => ⟨(outputDisarm packet), rfl⟩
  | .groupRelease packet => fun _ => ⟨(groupRelease packet), rfl⟩
  | .groupForce packet => fun _ => ⟨(groupForce packet), rfl⟩
  | .messageSet packet => fun _ => ⟨(messageSet packet), rfl⟩
  | .telltaleSet packet => fun _ => ⟨(telltaleSet packet), rfl⟩
  | .jobRunDiverse packet => fun _ => ⟨(jobRunDiverse packet), rfl⟩
  | .weirDecision  => fun _ => ⟨weirDecision, rfl⟩
  | .deadlineMiss output => fun _ => ⟨(deadlineMiss output), rfl⟩
  | .safeMessageRepeat  => fun _ => ⟨safeMessageRepeat, rfl⟩
  | .goldenScheduleSet packet => fun _ => ⟨(goldenScheduleSet packet), rfl⟩
  | .goldenScheduleClear packet => fun _ => ⟨(goldenScheduleClear packet), rfl⟩
  | .goldenScheduleRunNow packet => fun _ => ⟨(goldenScheduleRunNow packet), rfl⟩
  | .goldenRunDue group => fun _ => ⟨(goldenRunDue group), rfl⟩
  | .goldenRunEnd group => fun _ => ⟨(goldenRunEnd group), rfl⟩
  | .goldenOverdue group => fun _ => ⟨(goldenOverdue group), rfl⟩
  | .lockstepMismatch .. => fun _ => ⟨_, rfl⟩
  | .selftestSliceStart tile => fun _ => ⟨(selftestSliceStart tile), rfl⟩
  | .selftestStep tile pass => fun _ => ⟨(selftestStep tile pass), rfl⟩
  | .selftestAbort tile => fun _ => ⟨(selftestAbort tile), rfl⟩
  | .selftestSliceEnd tile => fun _ => ⟨(selftestSliceEnd tile), rfl⟩
  | .checkerTest checker pass step us => fun _ => ⟨(checkerTest checker pass step us), rfl⟩
  | .selftestOverdue index => fun _ => ⟨(selftestOverdue index), rfl⟩
  | .selftestTile packet => fun _ => ⟨(selftestTile packet), rfl⟩
  | .selftestGroup packet => fun _ => ⟨(selftestGroup packet), rfl⟩
  | .selftestChecker packet => fun _ => ⟨(selftestChecker packet), rfl⟩
  | .selftestSchedule packet => fun _ => ⟨(selftestSchedule packet), rfl⟩
  | .errorRecord severity cause source unit master slice world target addr detail => fun _ => ⟨(fun c => c.error { severity := severity, cause := cause, source := source, unit := unit, master := master, slice := slice, world := world, target := target, addr := addr, detail := some detail }), rfl⟩
  | .errRingEnable tag value => fun _ => ⟨(errRingEnable tag value.toNat), rfl⟩
  | .errRingHeadWrite tag value => fun _ => ⟨(errRingHeadWrite tag value.toNat), rfl⟩
  | .gateFault .. => fun h => nomatch h
  | .pageOwnerSet .. => fun h => nomatch h
  | .pageOwnerSetApply .. => fun h => nomatch h
  | .pageOwnerQuery .. => fun h => nomatch h
  | .rollbackCommit .. => fun h => nomatch h
  | .gateAttest .. => fun h => nomatch h
  | .gateRandom .. => fun h => nomatch h
  | .debugChallenge .. => fun h => nomatch h
  | .debugOpen .. => fun h => nomatch h
  | .debugClose .. => fun h => nomatch h
  | .challengeLapse .. => fun h => nomatch h
  | .netkeyLoad .. => fun h => nomatch h
  | .contentUnwrap .. => fun h => nomatch h
  | .vaultRead .. => fun h => nomatch h
  | .vaultWrite .. => fun h => nomatch h
  | .claimRelease .. => fun h => nomatch h
  | .claimExpiry .. => fun h => nomatch h
  | .wdtVehicleExpiry .. => fun h => nomatch h
  | .wdtCockpitExpiry .. => fun h => nomatch h
  | .ownerEntryRepair page => fun _ => ⟨(ownerEntryRepair page), rfl⟩
  | .dramRead id => fun _ => ⟨(fun c => (dramRead id c).eccService), rfl⟩
  | .dramWrite id => fun _ => ⟨(fun c => (dramWrite id c).eccService), rfl⟩
  | .zeroFillDone block => fun _ => ⟨(fun c => (zeroFillDone block c).eccService), rfl⟩
  | .millraceWindow channel => fun _ => ⟨(millraceWindow channel), rfl⟩
  | .dramCalibration channel ok => fun _ => ⟨(dramCalibration channel ok), rfl⟩
  | .arbiterGrant arbiter asks ended => fun _ => ⟨(arbiterGrant arbiter asks ended), rfl⟩
  | .leakTick inst => fun _ => ⟨(leakTick inst), rfl⟩
  | .eccRegionWrite tag region limit value => fun _ => ⟨(eccRegionWrite tag region limit value), rfl⟩
  | .tileCodeMapWrite tag tile value => fun _ => ⟨(tileCodeMapWrite tag tile value), rfl⟩
  | .blockOff packet => fun _ => ⟨(blockOff packet), rfl⟩
  | .blockOn packet => fun _ => ⟨(blockOn packet), rfl⟩
  | .standby packet => fun _ => ⟨(standby packet), rfl⟩
  | .park packet => fun _ => ⟨(park packet), rfl⟩
  | .restart packet => fun _ => ⟨(restart packet), rfl⟩
  | .idleUntil packet => fun _ => ⟨(idleUntil packet), rfl⟩
  | .stateEntryHalt .. => fun h => nomatch h
  | .warmReq tag => fun _ => ⟨(warmReq tag), rfl⟩
  | .profileSelect .. => fun h => nomatch h
  | .wakeEvent .. => fun h => nomatch h
  | .aonPowerUp .. => fun h => nomatch h
  | .pgoodRise .. => fun h => nomatch h
  | .pgoodTimeout .. => fun h => nomatch h
  | .pgoodFall .. => fun h => nomatch h
  | .resetAssert .. => fun h => nomatch h
  | .resetRelease .. => fun h => nomatch h
  | .coldStart .. => fun h => nomatch h
  | .warmStart .. => fun h => nomatch h
  | .startTimeout .. => fun h => nomatch h
  | .recoveryBundle .. => fun h => nomatch h
  | .recCtrlGo  => fun _ => ⟨recCtrlGo, rfl⟩
  | .groupWake group => fun _ => ⟨(groupWake group), rfl⟩
  | .groupRunning group => fun _ => ⟨(groupRunning group), rfl⟩
  | .groupSleep group => fun _ => ⟨(groupSleep group), rfl⟩
  | .sluiceRequest kind n units cls slice timeoutUs => fun _ => ⟨(sluiceRequest kind n units cls slice timeoutUs), rfl⟩
  | .sluiceReturn kind n => fun _ => ⟨(sluiceReturn kind n), rfl⟩
  | .sluiceTimeout  => fun _ => ⟨sluiceTimeout, rfl⟩
  | .sluiceTick  => fun _ => ⟨sluiceTick, rfl⟩
  | .thermalSample .. => fun h => nomatch h
  | .throttleLift  => fun _ => ⟨throttleLift, rfl⟩
  | .shutdownRestart .. => fun h => nomatch h
  | .thermalPiStep  => fun _ => ⟨thermalPiStep, rfl⟩
  | .thermalEmergency .. => fun h => nomatch h
  | .kernelWatchdogExpiry .. => fun h => nomatch h
  | .coreFault .. => fun h => nomatch h
  | .serviceRestart service => fun _ => ⟨(serviceRestart service), rfl⟩
  | .coreRejoin .. => fun h => nomatch h
  | .logConfig packet => fun _ => ⟨(logConfig packet), rfl⟩
  | .logAppend core service level code arg0 arg1 => fun _ => ⟨(logAppend core service level code arg0 arg1), rfl⟩
  | .traceRing packet => fun _ => ⟨(traceRing packet), rfl⟩
  | .traceMask packet => fun _ => ⟨(traceMask packet), rfl⟩
  | .traceOff packet => fun _ => ⟨(traceOff packet), rfl⟩
  | .traceAppend core point arg => fun _ => ⟨(traceAppend core point arg), rfl⟩
  | .mbxSubmitJob .. => fun h => nomatch h
  | .mbxPreempt .. => fun h => nomatch h
  | .mbxAbort .. => fun h => nomatch h
  | .mbxHint .. => fun h => nomatch h
  | .mbxAttest .. => fun h => nomatch h
  | .mbxRandom .. => fun h => nomatch h
  | .mbxLoadModel .. => fun h => nomatch h
  | .mbxUnloadModel .. => fun h => nomatch h
  | .mbxUnknownCommand .. => fun h => nomatch h
  | .hostRequest .. => fun h => nomatch h
  | .msiWindowWrite master tag port vector => fun _ => ⟨(msiWindowWrite master tag port vector), rfl⟩
  | .twinLinkUp gbps => fun _ => ⟨(twinLinkUp gbps), rfl⟩
  | .twinHello .. => fun h => nomatch h
  | .twinReport report => fun _ => ⟨(twinReport report), rfl⟩
  | .twinPaired  => fun _ => ⟨twinPaired, rfl⟩
  | .pairFault cause => fun _ => ⟨(pairFault cause), rfl⟩
  | .pairRetry  => fun _ => ⟨pairRetry, rfl⟩
  | .heartbeatTick  => fun _ => ⟨heartbeatTick, rfl⟩
  | .heartbeatRx pin => fun _ => ⟨(heartbeatRx pin), rfl⟩
  | .heartbeatWindow  => fun _ => ⟨heartbeatWindow, rfl⟩
  | .checkpointTrigger channel => fun _ => ⟨(checkpointTrigger channel), rfl⟩
  | .ckptStart channel value dst data => fun _ => ⟨(ckptStart channel value.toNat (dst.toNat % 2 ^ 48) data), rfl⟩
  | .ckptAck channel status value => fun _ => ⟨(ckptAck channel status value.toNat), rfl⟩
  | .detach tag => fun _ => ⟨(detach tag), rfl⟩
  | .detachReq  => fun _ => ⟨detachReq, rfl⟩
  | .detachAck  => fun _ => ⟨detachAck, rfl⟩
  | .carryEnd tag => fun _ => ⟨(carryEnd tag), rfl⟩
  | .recReq offset len => fun _ => ⟨(recReq offset len), rfl⟩
  | .recData offset data => fun _ => ⟨(recData offset data), rfl⟩
  | .recEnd len => fun _ => ⟨(recEnd len), rfl⟩
  | .bridgeWrite .. => fun h => nomatch h
  | .bridgeRead .. => fun h => nomatch h
  | .bridgeReadFetched  => fun _ => ⟨bridgeReadFetched, rfl⟩
  | .bridgeReadDiscard  => fun _ => ⟨bridgeReadDiscard, rfl⟩
  | .announceTick  => fun _ => ⟨announceTick, rfl⟩
  | .announcement frame => fun _ => ⟨(announcement frame), rfl⟩
  | .refSilent  => fun _ => ⟨refSilent, rfl⟩
  | .domainStage .. => fun h => nomatch h
  | .domainSwitch packet => fun _ => ⟨(domainSwitch packet), rfl⟩
  | .domainSwitchCancel packet => fun _ => ⟨(domainSwitchCancel packet), rfl⟩
  | .domainSwitchTime  => fun _ => ⟨domainSwitchTime, rfl⟩
  | .ethFrameRx .. => fun h => nomatch h
  | .ethFrameTx .. => fun h => nomatch h
  | .gateInterval port => fun _ => ⟨(gateInterval port), rfl⟩
  | .netDmaTail tag ring tail => fun _ => ⟨(netDmaTail tag ring tail.toNat), rfl⟩
  | .canFrameRx controller sof idw flags sdt vcid af data => fun _ => ⟨(canFrameRx controller sof.toNat { idw := idw.toNat % 2 ^ 31, flags := flags % 16, sdt := sdt % 256, vcid := vcid % 256, af := af.toNat, data := data }), rfl⟩
  | .canTxTail tag controller offset => fun _ => ⟨(canTxTail tag controller offset.toNat), rfl⟩
  | .canArbitration controller won => fun _ => ⟨(canArbitration controller won), rfl⟩
  | .ptpSyncRx port rx seconds nanos corr => fun _ => ⟨(ptpSyncRx port rx seconds nanos corr), rfl⟩
  | .ptpSyncTx port => fun _ => ⟨(ptpSyncTx port), rfl⟩
  | .pdelayReq port rx seq peer => fun _ => ⟨(pdelayReq port rx seq peer), rfl⟩
  | .gmLoss  => fun _ => ⟨gmLoss, rfl⟩
  | .holdoverExpiry  => fun _ => ⟨holdoverExpiry, rfl⟩
  | .netTimeRead master tag => fun _ => ⟨(netTimeRead master tag), rfl⟩
  | .aonPowerLoss .. => fun h => nomatch h
  | .linkDown port => fun _ => ⟨(linkDown port), rfl⟩
  | .ethLinkDown port => fun _ => ⟨(ethLinkDown port), rfl⟩
  | .canBusOff controller tec rec => fun _ => ⟨(canBusOff controller tec rec), rfl⟩
  | .gptpAnnounce port present p1 cls acc var p2 gm steps => fun _ => ⟨(gptpAnnounce port present p1 cls acc var p2 gm.toNat steps), rfl⟩
  | .pdelayResp port t1 t2 t3 t4 => fun _ => ⟨(pdelayResp port t1 t2 t3 t4), rfl⟩
  | .frerReset stream => fun _ => ⟨(frerReset stream), rfl⟩

end Sys2Proof.Machine
end

