-- ==== Sys2Proof/Laws/Frames.lean ====
section
/-!
SUPPORT. What the shared operations leave as it stood.
-/

namespace Sys2Proof.Machine

@[simp] theorem Chip.updModel_jobs (c : Chip) (m : Nat) (f : Model → Model) : (c.updModel m f).jobs = c.jobs := by
  unfold Chip.updModel; split <;> rfl

end Sys2Proof.Machine
end

