-- ==== Sys2Proof/Laws/Gate.lean ====
section
/-!
SUPPORT. What a call through the mailbox does (13 R340 to R342).
-/

namespace Sys2Proof.Machine

theorem Part.gateStatus_sec (p : Part) (h rd st : Nat) : (p.gateStatus h rd st).sec = p.sec := by
  unfold Part.gateStatus; split <;> (try split) <;> rfl

theorem Part.gateReply_sec (p : Part) (q : GateReq) (st : Nat) : (p.gateReply q st).sec = p.sec := by
  unfold Part.gateReply; split
  · rfl
  · exact p.gateStatus_sec ..

theorem servedGate_sec (p : Part) (q : GateReq) (a : Nat) (r : Served) : (servedGate p q a r).2.sec = p.sec := by
  cases r <;> rfl

theorem Part.gateDone_sec (p : Part) (q : GateReq) (b : List Byte) (st : Nat) : (p.gateDone q b st).sec = p.sec := by
  unfold Part.gateDone
  split
  · exact p.gateReply_sec ..
  · simp only [Part.gateReply_sec, servedGate_sec]

theorem Part.openDebug_mail (p : Part) (q : GateReq) (a en sc : Nat) :
    (p.openDebug q a en sc).sec.waiting = p.sec.waiting ∧ (p.openDebug q a en sc).sec.running = p.sec.running := by
  constructor <;> rfl

/-- An entry leaves the mailbox as it stood. -/
theorem gateEntry_mail (q : GateReq) (b : List Byte) (p : Part) :
    (gateEntry q b p).2.sec.waiting = p.sec.waiting ∧ (gateEntry q b p).2.sec.running = p.sec.running := by
  unfold gateEntry
  split
  · unfold entryOwnerSet; dsimp only; repeat' split
    all_goals exact ⟨rfl, rfl⟩
  · unfold entryOwnerQuery; split <;> exact ⟨rfl, rfl⟩
  · unfold entryRollback; split <;> exact ⟨rfl, rfl⟩
  · unfold entryAttest; dsimp only; constructor <;> simp only [servedGate_sec] <;> rfl
  · unfold entryRandom; dsimp only; split <;> exact ⟨rfl, rfl⟩
  · exact ⟨rfl, rfl⟩
  · unfold entryDebugOpen
    split
    · exact ⟨rfl, rfl⟩
    · dsimp only; split
      · constructor <;> simp only [servedGate_sec] <;> rfl
      · split
        · exact ⟨rfl, rfl⟩
        · exact ⟨(Part.openDebug_mail ..).1, (Part.openDebug_mail ..).2⟩
  · unfold entryDebugClose; dsimp only; split <;> exact ⟨rfl, rfl⟩
  · unfold entryNetKey; split
    · exact ⟨rfl, rfl⟩
    · split <;> exact ⟨rfl, rfl⟩
  · unfold entryContent; split <;> exact ⟨rfl, rfl⟩
  · exact ⟨rfl, rfl⟩
  · exact ⟨rfl, rfl⟩
  · exact ⟨rfl, rfl⟩

theorem GateReq.ended_waiting (q : GateReq) (b : List Byte) (r : GateEnd × Part) : (q.ended b r).sec.waiting = r.2.sec.waiting := by
  obtain ⟨e, p⟩ := r
  cases e with
  | done st copy => simp only [GateReq.ended, Part.gateDone_sec]
  | runs => rfl

/-- A request taken leaves the waiting requests as they stood. -/
theorem Part.gateTake_waiting (p : Part) (q : GateReq) : (p.gateTake q).sec.waiting = p.sec.waiting := by
  unfold Part.gateTake
  dsimp only
  split
  · rfl
  · split
    · simp only [Part.gateReply_sec, servedGate_sec]
    · split
      · simp only [Part.gateReply_sec]
      · rw [GateReq.ended_waiting]; exact (gateEntry_mail ..).1

theorem Part.gateServe_empty (n : Nat) (p : Part) (h : p.sec.waiting = []) : Part.gateServe n p = p := by
  cases n with
  | zero => rfl
  | succ n => simp [Part.gateServe, gateNext, h]

/-- A request that finds the mailbox empty is taken at once. -/
theorem Part.gateRun_idle (p : Part) (q : GateReq) (hr : p.sec.running = none) :
    Part.gateRun { p with sec := { p.sec with waiting := [q] } } = (Part.gateTake { p with sec := { p.sec with waiting := [] } } q).showSec := by
  have h : gateNext [q] = some q := by
    unfold gateNext
    by_cases h1 : q.cls = 1 <;> by_cases h0 : q.cls = 0 <;> simp [List.find?, h1, h0, beq_eq_false_iff_ne.2]
  have e : [q].filter (fun r => r.hart != q.hart) = [] := by simp
  unfold Part.gateRun Part.gateServe
  simp only [hr, Option.isSome_none, Bool.false_eq_true, if_false, h, e]
  rw [Part.gateServe_empty _ _ (Part.gateTake_waiting ..)]

theorem gateCall_idle (entry hart mode rd block len : Nat) (g : GateEntry) (p : Part) (h : p.gateOpens g entry hart mode block len = true)
    (hw : p.sec.waiting = []) (hr : p.sec.running = none) :
    gateCall entry hart mode rd block len p = (p.gateTake (p.gateReq g entry hart rd block len)).showSec := by
  simp only [Part.gateOpens, Bool.and_eq_true, decide_eq_true_eq, Option.isNone_iff_eq_none, beq_iff_eq] at h
  obtain ⟨⟨⟨⟨h1, h2⟩, h3⟩, h4⟩, h5⟩ := h
  have e : (p : Part) = { p with sec := { p.sec with waiting := [] } } := by rw [← hw]
  simp only [gateCall, if_neg (Nat.not_le.2 h1), h2, h3, h4, h5]
  simp only [hw, List.nil_append]
  rw [Part.gateRun_idle _ _ hr, ← e]

/-- A call on an idle mailbox whose block can be read runs its entry at once. -/
theorem gateCall_taken {entry hart mode rd block len : Nat} {g : GateEntry} {p : Part} {b : List Byte} {c1 : Chip}
    (h : p.gateOpens g entry hart mode block len = true) (hw : p.sec.waiting = []) (hr : p.sec.running = none)
    (hl : (p.chip.count SEC_GATE_CALLS SEC_GATE_CALLS.COUNT 1).loadRange (hartMaster hart) (p.chip.hartTag hart) block g.pin = (.ok, b, c1))
    (hc : g.cls = 2 → c1.flag SEC_STATUS SEC_STATUS.COCKPIT_WITHDRAWN = false) :
    gateCall entry hart mode rd block len p = (GateReq.ended (p.gateReq g entry hart rd block len) (g.copyOf b)
      (gateEntry (p.gateReq g entry hart rd block len) (g.copyOf b) ⟨c1, p.sec⟩)).showSec := by
  rw [gateCall_idle entry hart mode rd block len g p h hw hr]
  simp only [Part.gateOpens, Bool.and_eq_true, decide_eq_true_eq, Option.isNone_iff_eq_none, beq_iff_eq] at h
  have he : p.sec.entry? (p.gateReq g entry hart rd block len).entry = some g := h.1.1.2
  have hl' : (p.chip.count SEC_GATE_CALLS SEC_GATE_CALLS.COUNT 1).loadRange (hartMaster (p.gateReq g entry hart rd block len).hart)
      (p.gateReq g entry hart rd block len).tag (p.gateReq g entry hart rd block len).block g.pin = (.ok, b, c1) := hl
  have hn : ¬ (g.cls = 2 ∧ c1.flag SEC_STATUS SEC_STATUS.COCKPIT_WITHDRAWN = true) := by
    intro ⟨a, b⟩; rw [hc a] at b; exact absurd b (by decide)
  simp only [Part.gateTake, he, hl', ne_eq, not_true_eq_false, if_false, hn]

end Sys2Proof.Machine
end

