-- ==== Sys2Proof/Laws/Secure.lean ====
section
/-!
SUPPORT. What every operation leaves of the security core's record: an open debug enable keeps its record, and no
anti-rollback counter falls. Each is proved from those of the operations it calls.
-/

namespace Sys2Proof.Machine

/-- Of what the security core holds, `t` keeps of `s` the record of every open debug enable, and no counter fell. -/
structure Sec.Keeps (s t : Sec) : Prop where
  debug : s.debugOk = true → t.debugOk = true
  rollback : ∀ n, AMap.getD s.rollback n 0 ≤ AMap.getD t.rollback n 0

theorem Sec.Keeps.refl (s : Sec) : s.Keeps s := ⟨id, fun _ => Nat.le_refl _⟩
theorem Sec.Keeps.same {s t u : Sec} (h : s.Keeps t) (h1 : u.enables = t.enables) (h2 : u.ever = t.ever) (h3 : u.rollback = t.rollback) : s.Keeps u :=
  ⟨fun d => by have := h.debug d; unfold Sec.debugOk at this ⊢; rw [h1, h2]; exact this, fun n => by rw [h3]; exact h.rollback n⟩
/-- Enables that are gone need no record. -/
theorem Sec.Keeps.closed {s t u : Sec} (h : s.Keeps t) (h1 : u.enables = 0) (h3 : u.rollback = t.rollback) : s.Keeps u :=
  ⟨fun _ => by unfold Sec.debugOk; rw [h1]; simp, fun n => by rw [h3]; exact h.rollback n⟩
theorem Sec.Keeps.lost {s t : Sec} (h : s.Keeps t) : s.Keeps t.lost := h.closed rfl rfl
theorem Sec.Keeps.keptWarm {s t : Sec} (h : s.Keeps t) : s.Keeps t.keptWarm := h.closed rfl rfl

variable {s : Sec}
theorem has_sec {α : Type} {x : α × Part} {a : α} {p : Part} (e : x = (a, p)) (h : s.Keeps p.sec) : s.Keeps x.2.sec := by rw [e]; exact h
theorem of_sec {α : Type} {r : α × Part} {a : α} {p : Part} (e : r = (a, p)) (h : s.Keeps r.2.sec) : s.Keeps p.sec := by rw [e] at h; exact h
theorem ite_sec {b : Prop} [Decidable b] {x y : Part} (hx : s.Keeps x.sec) (hy : s.Keeps y.sec) : s.Keeps (if b then x else y).sec := by
  split <;> assumption
theorem ite_sec2 {α : Type} {b : Prop} [Decidable b] {x y : α × Part} (hx : s.Keeps x.2.sec) (hy : s.Keeps y.2.sec) : s.Keeps (if b then x else y).2.sec := by
  split <;> assumption
theorem foldl_sec {α : Type} {f : Part → α → Part} {l : List α} {p : Part} (h : ∀ p x, s.Keeps p.sec → s.Keeps (f p x).sec) (hp : s.Keeps p.sec) :
    s.Keeps (l.foldl f p).sec := by
  induction l generalizing p with
  | nil => exact hp
  | cons x l ih => exact ih (h p x hp)
theorem showSec_keeps (p : Part) (hp : s.Keeps p.sec) : s.Keeps p.showSec.sec := hp
/-- A counter raised from what it was. -/
theorem Sec.Keeps.raised {t : Sec} (h : s.Keeps t) (k v : Nat) : s.Keeps { t with rollback := AMap.set t.rollback k (max (AMap.getD t.rollback k 0) v) } := by
  refine ⟨h.debug, fun n => Nat.le_trans (h.rollback n) ?_⟩
  by_cases g : n = k
  · subst g
    simp only [AMap.getD]
    rw [AMap.get?_set_self, Option.getD_some]
    exact Nat.le_max_left _ _
  · simp only [AMap.getD]
    exact Nat.le_of_eq (congrArg (Option.getD · 0) (AMap.get?_set_ne _ _ _ _ g).symm)
theorem Sec.Keeps.opened {t : Sec} (h : s.Keeps t) (e : BitVec 4) (x : BitVec 6) :
    s.Keeps { t with enables := t.enables ||| e, ever := t.ever ||| e, scope := x } := by
  refine ⟨fun d => ?_, h.rollback⟩
  have := h.debug d
  simp only [Sec.debugOk, beq_iff_eq] at this ⊢
  apply BitVec.eq_of_getLsbD_eq
  intro i _
  have b := congrArg (fun z => z.getLsbD i) this
  simp only [BitVec.getLsbD_and, BitVec.getLsbD_or] at b ⊢
  revert b
  cases t.enables.getLsbD i <;> cases t.ever.getLsbD i <;> cases e.getLsbD i <;> decide
theorem Sec.Keeps.shut {t : Sec} (h : s.Keeps t) (e : BitVec 4) (x : BitVec 6) : s.Keeps { t with enables := t.enables &&& e, scope := x } := by
  refine ⟨fun d => ?_, h.rollback⟩
  have := h.debug d
  simp only [Sec.debugOk, beq_iff_eq] at this ⊢
  rw [BitVec.and_assoc, BitVec.and_comm e, ← BitVec.and_assoc, this]

theorem Part.gateStatus_keeps (s : Sec) (p : Part) (a : Nat) (b : Nat) (e : Nat) (hp : s.Keeps p.sec) : s.Keeps (Part.gateStatus p a b e).sec := by
  conv in (Part.gateStatus p a b e) => (unfold Part.gateStatus; try dsimp only)
  repeat' (first | with_reducible assumption | with_reducible refine ite_sec ?_ ?_)
theorem Part.gateReply_keeps (s : Sec) (p : Part) (a : GateReq) (b : Nat) (hp : s.Keeps p.sec) : s.Keeps (Part.gateReply p a b).sec := by
  conv in (Part.gateReply p a b) => (unfold Part.gateReply; try dsimp only)
  repeat' (first | with_reducible assumption | with_reducible apply Part.gateStatus_keeps | with_reducible refine ite_sec ?_ ?_)
theorem Part.paramDenied_keeps (s : Sec) (p : Part) (a : GateReq) (b : Nat) (hp : s.Keeps p.sec) : s.Keeps (Part.paramDenied p a b).sec := by
  conv in (Part.paramDenied p a b) => (unfold Part.paramDenied; try dsimp only)
  repeat' (first | with_reducible assumption)
theorem servedGate_keeps (s : Sec) (p : Part) (a : GateReq) (b : Nat) (e : Served) (hp : s.Keeps p.sec) : s.Keeps (servedGate p a b e).2.sec := by
  conv in (servedGate p a b e) => (unfold servedGate; try dsimp only)
  repeat' (first | with_reducible assumption | with_reducible apply Part.paramDenied_keeps | split)
theorem Part.gateDone_keeps (s : Sec) (p : Part) (a : GateReq) (b : List Byte) (e : Nat) (hp : s.Keeps p.sec) : s.Keeps (Part.gateDone p a b e).sec := by
  conv in (Part.gateDone p a b e) => (unfold Part.gateDone; try dsimp only)
  repeat' (first | with_reducible assumption | with_reducible apply Part.gateReply_keeps | with_reducible apply servedGate_keeps | split)
theorem GateReq.ended_keeps (s : Sec) (a : GateReq) (b : List Byte) (e : GateEnd × Part) (he : s.Keeps e.2.sec) : s.Keeps (GateReq.ended a b e).sec := by
  conv in (GateReq.ended a b e) => (unfold GateReq.ended; try dsimp only)
  repeat' (first | with_reducible assumption | with_reducible apply Part.gateDone_keeps | (refine Sec.Keeps.same (by assumption) ?_ ?_ ?_ <;> rfl) | split)
theorem Part.mbxGo_keeps (s : Sec) (p : Part) (a : Nat) (b : Nat) (e : Part → Part) (hp : s.Keeps p.sec) (he : ∀ (z0 : Part), s.Keeps z0.sec → s.Keeps (e z0).sec) : s.Keeps (Part.mbxGo p a b e).sec := by
  conv in (Part.mbxGo p a b e) => (unfold Part.mbxGo; try dsimp only)
  repeat' (first | with_reducible assumption | with_reducible apply he | with_reducible refine ite_sec ?_ ?_)
theorem mbxArgs_keeps (s : Sec) (a : Nat) (b : Nat) (e : Nat) (f : Nat) (g : Chip → List Byte) (i : Nat → Chip → Chip) (p : Part) (hp : s.Keeps p.sec) : s.Keeps (mbxArgs a b e f g i p).sec := by
  conv in (mbxArgs a b e f g i p) => (unfold mbxArgs; try dsimp only)
  repeat' (first | with_reducible assumption | with_reducible apply Part.mbxGo_keeps | with_reducible refine ite_sec ?_ ?_ | with_reducible intro _)
theorem mbxAbort_keeps (s : Sec) (a : Nat) (p : Part) (hp : s.Keeps p.sec) : s.Keeps (mbxAbort a p).sec := by
  conv in (mbxAbort a p) => (unfold mbxAbort; try dsimp only)
  repeat' (first | with_reducible assumption | with_reducible apply mbxArgs_keeps)
theorem Part.signedReport_keeps (s : Sec) (p : Part) (a : List Byte) (hp : s.Keeps p.sec) : s.Keeps (Part.signedReport p a).2.sec := by
  conv in (Part.signedReport p a) => (unfold Part.signedReport; try dsimp only)
  repeat' (first | with_reducible assumption)
theorem entryAttest_keeps (s : Sec) (a : GateReq) (b : List Byte) (p : Part) (hp : s.Keeps p.sec) : s.Keeps (entryAttest a b p).2.sec := by
  conv in (entryAttest a b p) => (unfold entryAttest; try dsimp only)
  repeat' (first | with_reducible assumption | with_reducible apply Part.signedReport_keeps | with_reducible apply servedGate_keeps)
theorem entryChallenge_keeps (s : Sec) (a : GateReq) (b : List Byte) (p : Part) (hp : s.Keeps p.sec) : s.Keeps (entryChallenge a b p).2.sec := by
  conv in (entryChallenge a b p) => (unfold entryChallenge; try dsimp only)
  repeat' (first | (refine Sec.Keeps.same (by assumption) ?_ ?_ ?_ <;> rfl))
theorem entryContent_keeps (s : Sec) (a : GateReq) (b : List Byte) (p : Part) (hp : s.Keeps p.sec) : s.Keeps (entryContent a b p).2.sec := by
  conv in (entryContent a b p) => (unfold entryContent; try dsimp only)
  repeat' (first | with_reducible assumption | (refine Sec.Keeps.same (by assumption) ?_ ?_ ?_ <;> rfl) | split)
theorem Part.showSec_keeps (s : Sec) (p : Part) (hp : s.Keeps p.sec) : s.Keeps (Part.showSec p).sec := by
  conv in (Part.showSec p) => (unfold Part.showSec; try dsimp only)
  repeat' (first | with_reducible assumption)
theorem entryDebugClose_keeps (s : Sec) (q : GateReq) (b : List Byte) (p : Part) (hp : s.Keeps p.sec) : s.Keeps (entryDebugClose q b p).2.sec := by
  conv in (entryDebugClose q b p) => (unfold entryDebugClose; dsimp only)
  exact ite_sec2 hp (hp.shut _ _)
theorem Part.openDebug_keeps (s : Sec) (p : Part) (q : GateReq) (a en sc : Nat) (hp : s.Keeps p.sec) : s.Keeps (p.openDebug q a en sc).sec :=
  hp.opened _ _
theorem entryDebugOpen_keeps (s : Sec) (a : GateReq) (b : List Byte) (p : Part) (hp : s.Keeps p.sec) : s.Keeps (entryDebugOpen a b p).2.sec := by
  conv in (entryDebugOpen a b p) => (unfold entryDebugOpen; try dsimp only)
  repeat' (first | with_reducible apply Part.openDebug_keeps | with_reducible apply servedGate_keeps | (refine Sec.Keeps.same (by assumption) ?_ ?_ ?_ <;> rfl) | with_reducible refine ite_sec2 ?_ ?_ | split)
theorem entryNetKey_keeps (s : Sec) (a : GateReq) (b : List Byte) (p : Part) (hp : s.Keeps p.sec) : s.Keeps (entryNetKey a b p).2.sec := by
  conv in (entryNetKey a b p) => (unfold entryNetKey; try dsimp only)
  repeat' (first | with_reducible assumption | with_reducible refine ite_sec2 ?_ ?_ | split)
theorem entryOwnerQuery_keeps (s : Sec) (a : GateReq) (b : List Byte) (p : Part) (hp : s.Keeps p.sec) : s.Keeps (entryOwnerQuery a b p).2.sec := by
  conv in (entryOwnerQuery a b p) => (unfold entryOwnerQuery; try dsimp only)
  repeat' (first | with_reducible assumption | with_reducible refine ite_sec2 ?_ ?_)
theorem entryOwnerSet_keeps (s : Sec) (a : GateReq) (b : List Byte) (p : Part) (hp : s.Keeps p.sec) : s.Keeps (entryOwnerSet a b p).2.sec := by
  conv in (entryOwnerSet a b p) => (unfold entryOwnerSet; try dsimp only)
  repeat' (first | with_reducible assumption | with_reducible refine ite_sec2 ?_ ?_)
theorem entryRandom_keeps (s : Sec) (a : GateReq) (b : List Byte) (p : Part) (hp : s.Keeps p.sec) : s.Keeps (entryRandom a b p).2.sec := by
  conv in (entryRandom a b p) => (unfold entryRandom; try dsimp only)
  repeat' (first | with_reducible assumption | with_reducible refine ite_sec2 ?_ ?_)
theorem entryRollback_keeps (s : Sec) (a : GateReq) (b : List Byte) (p : Part) (hp : s.Keeps p.sec) : s.Keeps (entryRollback a b p).2.sec := by
  conv in (entryRollback a b p) => (unfold entryRollback; try dsimp only)
  repeat' (first | with_reducible assumption | with_reducible refine ite_sec2 ?_ ?_)
theorem entryVaultRead_keeps (s : Sec) (a : GateReq) (b : List Byte) (p : Part) (hp : s.Keeps p.sec) : s.Keeps (entryVaultRead a b p).2.sec := by
  conv in (entryVaultRead a b p) => (unfold entryVaultRead; try dsimp only)
  repeat' (first | with_reducible assumption)
theorem entryVaultWrite_keeps (s : Sec) (a : GateReq) (b : List Byte) (p : Part) (hp : s.Keeps p.sec) : s.Keeps (entryVaultWrite a b p).2.sec := by
  conv in (entryVaultWrite a b p) => (unfold entryVaultWrite; try dsimp only)
  repeat' (first | (refine Sec.Keeps.same (by assumption) ?_ ?_ ?_ <;> rfl))
theorem gateEntry_keeps (s : Sec) (a : GateReq) (b : List Byte) (p : Part) (hp : s.Keeps p.sec) : s.Keeps (gateEntry a b p).2.sec := by
  conv in (gateEntry a b p) => (unfold gateEntry; try dsimp only)
  repeat' (first | with_reducible assumption | with_reducible apply entryAttest_keeps | with_reducible apply entryChallenge_keeps | with_reducible apply entryContent_keeps | with_reducible apply entryDebugClose_keeps | with_reducible apply entryDebugOpen_keeps | with_reducible apply entryNetKey_keeps | with_reducible apply entryOwnerQuery_keeps | with_reducible apply entryOwnerSet_keeps | with_reducible apply entryRandom_keeps | with_reducible apply entryRollback_keeps | with_reducible apply entryVaultRead_keeps | with_reducible apply entryVaultWrite_keeps | split)
theorem Part.gateTake_keeps (s : Sec) (p : Part) (a : GateReq) (hp : s.Keeps p.sec) : s.Keeps (Part.gateTake p a).sec := by
  conv in (Part.gateTake p a) => (unfold Part.gateTake; try dsimp only)
  repeat' (first | with_reducible assumption | with_reducible apply GateReq.ended_keeps | with_reducible apply Part.gateReply_keeps | with_reducible apply gateEntry_keeps | with_reducible apply servedGate_keeps | with_reducible refine ite_sec ?_ ?_ | split)
theorem Part.gateServe_keeps (s : Sec) (a : Nat) (p : Part) (hp : s.Keeps p.sec) : s.Keeps (Part.gateServe a p).sec := by
  induction a generalizing p with
  | zero =>
    conv in Part.gateServe _ _ => (unfold Part.gateServe; try dsimp only)
    repeat' (first | with_reducible assumption | with_reducible apply Part.gateTake_keeps | (refine Sec.Keeps.same (by assumption) ?_ ?_ ?_ <;> rfl) | with_reducible refine ite_sec ?_ ?_ | split)
  | succ k ih =>
    conv in Part.gateServe _ _ => (unfold Part.gateServe; try dsimp only)
    repeat' (first | with_reducible assumption | with_reducible apply ih | with_reducible apply Part.gateTake_keeps | (refine Sec.Keeps.same (by assumption) ?_ ?_ ?_ <;> rfl) | with_reducible refine ite_sec ?_ ?_ | split)
theorem Part.gateRun_keeps (s : Sec) (p : Part) (hp : s.Keeps p.sec) : s.Keeps (Part.gateRun p).sec := by
  conv in (Part.gateRun p) => (unfold Part.gateRun; try dsimp only)
  repeat' (first | with_reducible assumption | with_reducible apply Part.gateServe_keeps | with_reducible apply Part.showSec_keeps)
theorem gateCall_keeps (s : Sec) (a : Nat) (b : Nat) (e : Nat) (f : Nat) (g : Nat) (i : Nat) (p : Part) (hp : s.Keeps p.sec) : s.Keeps (gateCall a b e f g i p).sec := by
  conv in (gateCall a b e f g i p) => (unfold gateCall; try dsimp only)
  repeat' (first | with_reducible assumption | with_reducible apply Part.gateRun_keeps | with_reducible apply Part.gateStatus_keeps | (refine Sec.Keeps.same (by assumption) ?_ ?_ ?_ <;> rfl) | with_reducible refine ite_sec ?_ ?_ | split)
theorem mbxGate_keeps (s : Sec) (a : Nat) (b : Nat) (e : Nat) (f : Nat) (p : Part) (hp : s.Keeps p.sec) : s.Keeps (mbxGate a b e f p).sec := by
  conv in (mbxGate a b e f p) => (unfold mbxGate; try dsimp only)
  repeat' (first | with_reducible assumption | with_reducible apply Part.mbxGo_keeps | with_reducible apply gateCall_keeps | with_reducible refine ite_sec ?_ ?_ | with_reducible intro _)
theorem mbxAttest_keeps (s : Sec) (a : Nat) (p : Part) (hp : s.Keeps p.sec) : s.Keeps (mbxAttest a p).sec := by
  conv in (mbxAttest a p) => (unfold mbxAttest; try dsimp only)
  repeat' (first | with_reducible assumption | with_reducible apply mbxGate_keeps)
theorem mbxHint_keeps (s : Sec) (a : Nat) (p : Part) (hp : s.Keeps p.sec) : s.Keeps (mbxHint a p).sec := by
  conv in (mbxHint a p) => (unfold mbxHint; try dsimp only)
  repeat' (first | with_reducible assumption | with_reducible apply mbxArgs_keeps)
theorem mbxDescriptor_keeps (s : Sec) (a : Nat) (b : Nat) (e : Nat) (f : Nat) (g : Nat → Chip → Chip) (p : Part) (hp : s.Keeps p.sec) : s.Keeps (mbxDescriptor a b e f g p).sec := by
  conv in (mbxDescriptor a b e f g p) => (unfold mbxDescriptor; try dsimp only)
  repeat' (first | with_reducible assumption | with_reducible apply Part.mbxGo_keeps | with_reducible refine ite_sec ?_ ?_ | with_reducible intro _)
theorem mbxLoadModel_keeps (s : Sec) (a : Nat) (p : Part) (hp : s.Keeps p.sec) : s.Keeps (mbxLoadModel a p).sec := by
  conv in (mbxLoadModel a p) => (unfold mbxLoadModel; try dsimp only)
  repeat' (first | with_reducible assumption | with_reducible apply mbxDescriptor_keeps)
theorem mbxPreempt_keeps (s : Sec) (a : Nat) (p : Part) (hp : s.Keeps p.sec) : s.Keeps (mbxPreempt a p).sec := by
  conv in (mbxPreempt a p) => (unfold mbxPreempt; try dsimp only)
  repeat' (first | with_reducible assumption | with_reducible apply mbxArgs_keeps)
theorem mbxRandom_keeps (s : Sec) (a : Nat) (p : Part) (hp : s.Keeps p.sec) : s.Keeps (mbxRandom a p).sec := by
  conv in (mbxRandom a p) => (unfold mbxRandom; try dsimp only)
  repeat' (first | with_reducible assumption | with_reducible apply mbxGate_keeps)
theorem mbxSubmitJob_keeps (s : Sec) (a : Nat) (p : Part) (hp : s.Keeps p.sec) : s.Keeps (mbxSubmitJob a p).sec := by
  conv in (mbxSubmitJob a p) => (unfold mbxSubmitJob; try dsimp only)
  repeat' (first | with_reducible assumption | with_reducible apply mbxDescriptor_keeps)
theorem mbxUnknown_keeps (s : Sec) (a : Nat) (b : Nat) (p : Part) (hp : s.Keeps p.sec) : s.Keeps (mbxUnknown a b p).sec := by
  conv in (mbxUnknown a b p) => (unfold mbxUnknown; try dsimp only)
  repeat' (first | with_reducible assumption | with_reducible apply Part.mbxGo_keeps | with_reducible refine ite_sec ?_ ?_ | with_reducible intro _)
theorem mbxUnloadModel_keeps (s : Sec) (a : Nat) (p : Part) (hp : s.Keeps p.sec) : s.Keeps (mbxUnloadModel a p).sec := by
  conv in (mbxUnloadModel a p) => (unfold mbxUnloadModel; try dsimp only)
  repeat' (first | with_reducible assumption | with_reducible apply mbxArgs_keeps)
theorem mbxDoorbell_keeps (s : Sec) (a : Nat) (b : Nat) (p : Part) (hp : s.Keeps p.sec) : s.Keeps (mbxDoorbell a b p).sec := by
  conv in (mbxDoorbell a b p) => (unfold mbxDoorbell; try dsimp only)
  repeat' (first | with_reducible assumption | with_reducible apply mbxAbort_keeps | with_reducible apply mbxAttest_keeps | with_reducible apply mbxHint_keeps | with_reducible apply mbxLoadModel_keeps | with_reducible apply mbxPreempt_keeps | with_reducible apply mbxRandom_keeps | with_reducible apply mbxSubmitJob_keeps | with_reducible apply mbxUnknown_keeps | with_reducible apply mbxUnloadModel_keeps | with_reducible refine ite_sec ?_ ?_ | split)
theorem Part.writeReg_keeps (s : Sec) (p : Part) (a : Nat) (b : Nat) (e : RegSpec) (f : Nat) (g : Nat) (hp : s.Keeps p.sec) : s.Keeps (Part.writeReg p a b e f g).sec := by
  conv in (Part.writeReg p a b e f g) => (unfold Part.writeReg; try dsimp only)
  repeat' (first | with_reducible assumption | with_reducible apply mbxDoorbell_keeps | with_reducible refine ite_sec ?_ ?_ | split)
theorem Part.writeRegs_keeps (s : Sec) (a : Nat) (p : Part) (b : Nat) (e : Nat) (f : Nat) (g : List Byte) (hp : s.Keeps p.sec) : s.Keeps (Part.writeRegs a p b e f g).sec := by
  induction a generalizing p b e f g with
  | zero =>
    conv in Part.writeRegs _ _ _ _ _ _ => (unfold Part.writeRegs; try dsimp only)
    repeat' (first | with_reducible assumption | with_reducible apply Part.writeReg_keeps | split)
  | succ k ih =>
    conv in Part.writeRegs _ _ _ _ _ _ => (unfold Part.writeRegs; try dsimp only)
    repeat' (first | with_reducible assumption | with_reducible apply ih | with_reducible apply Part.writeReg_keeps | split)
theorem Part.farWrite_keeps (s : Sec) (p : Part) (a : Nat) (b : Nat) (e : Nat) (f : Nat) (g : List Byte) (hp : s.Keeps p.sec) : s.Keeps (Part.farWrite p a b e f g).sec := by
  conv in (Part.farWrite p a b e f g) => (unfold Part.farWrite; try dsimp only)
  repeat' (first | with_reducible assumption | with_reducible apply Part.writeRegs_keeps)
theorem Part.arrive_keeps (s : Sec) (p : Part) (a : Posted) (hp : s.Keeps p.sec) : s.Keeps (Part.arrive p a).sec := by
  conv in (Part.arrive p a) => (unfold Part.arrive; try dsimp only)
  repeat' (first | with_reducible assumption | with_reducible apply Part.farWrite_keeps | with_reducible apply Part.writeRegs_keeps | with_reducible refine ite_sec ?_ ?_ | split)
theorem Part.beginCold_keeps (s : Sec) (p : Part) (a : Nat) (hp : s.Keeps p.sec) : s.Keeps (Part.beginCold p a).sec := by
  conv in (Part.beginCold p a) => (unfold Part.beginCold; try dsimp only)
  repeat' (first | with_reducible assumption | (dsimp only; with_reducible apply Sec.Keeps.lost))
theorem Part.beginWarm_keeps (s : Sec) (p : Part) (a : Nat) (hp : s.Keeps p.sec) : s.Keeps (Part.beginWarm p a).sec := by
  conv in (Part.beginWarm p a) => (unfold Part.beginWarm; try dsimp only)
  repeat' (first | with_reducible assumption)
theorem Part.bundleJudged_keeps (s : Sec) (p : Part) (a : Except Nat (AMap (List Byte))) (hp : s.Keeps p.sec) : s.Keeps (Part.bundleJudged p a).sec := by
  conv in (Part.bundleJudged p a) => (unfold Part.bundleJudged; try dsimp only)
  repeat' (first | with_reducible assumption | with_reducible apply Part.beginCold_keeps | split)
theorem Part.countCycle_keeps (s : Sec) (p : Part) (hp : s.Keeps p.sec) : s.Keeps (Part.countCycle p).sec := by
  conv in (Part.countCycle p) => (unfold Part.countCycle; try dsimp only)
  repeat' (first | with_reducible assumption | (refine Sec.Keeps.same (by assumption) ?_ ?_ ?_ <;> rfl) | with_reducible refine ite_sec ?_ ?_)
theorem Part.measure_keeps (s : Sec) (p : Part) (a : Nat) (hp : s.Keeps p.sec) : s.Keeps (Part.measure p a).sec := by
  conv in (Part.measure p a) => (unfold Part.measure; try dsimp only)
  repeat' (first | (refine Sec.Keeps.same (by assumption) ?_ ?_ ?_ <;> rfl))
theorem Part.coldSteps_keeps (s : Sec) (p : Part) (a : Nat) (hp : s.Keeps p.sec) : s.Keeps (Part.coldSteps p a).sec := by
  conv in (Part.coldSteps p a) => (unfold Part.coldSteps; try dsimp only)
  repeat' (first | with_reducible assumption | with_reducible apply Part.countCycle_keeps | with_reducible apply Part.measure_keeps)
theorem Part.enterRecovery_keeps (s : Sec) (p : Part) (hp : s.Keeps p.sec) : s.Keeps (Part.enterRecovery p).sec := by
  conv in (Part.enterRecovery p) => (unfold Part.enterRecovery; try dsimp only)
  repeat' (first | with_reducible assumption | (dsimp only; with_reducible apply Sec.Keeps.lost))
theorem Part.startFailed_keeps (s : Sec) (p : Part) (a : Nat) (hp : s.Keeps p.sec) : s.Keeps (Part.startFailed p a).sec := by
  conv in (Part.startFailed p a) => (unfold Part.startFailed; try dsimp only)
  repeat' (first | with_reducible assumption | with_reducible apply Part.beginCold_keeps | with_reducible apply Part.enterRecovery_keeps | with_reducible refine ite_sec ?_ ?_)
theorem Part.stepFailed_keeps (s : Sec) (p : Part) (a : StepFail) (hp : s.Keeps p.sec) : s.Keeps (Part.stepFailed p a).sec := by
  conv in (Part.stepFailed p a) => (unfold Part.stepFailed; try dsimp only)
  repeat' (first | with_reducible assumption | with_reducible apply Part.startFailed_keeps)
theorem Part.wrongPopulation_keeps (s : Sec) (p : Part) (hp : s.Keeps p.sec) : s.Keeps (Part.wrongPopulation p).sec := by
  conv in (Part.wrongPopulation p) => (unfold Part.wrongPopulation; try dsimp only)
  repeat' (first | with_reducible assumption | with_reducible apply Part.enterRecovery_keeps)
theorem Part.coldChecks_keeps (s : Sec) (p : Part) (a : Nat) (b : Nat) (hp : s.Keeps p.sec) : s.Keeps (Part.coldChecks p a b).sec := by
  conv in (Part.coldChecks p a b) => (unfold Part.coldChecks; try dsimp only)
  repeat' (first | with_reducible assumption | with_reducible apply Part.coldSteps_keeps | with_reducible apply Part.stepFailed_keeps | with_reducible apply Part.wrongPopulation_keeps | with_reducible refine ite_sec ?_ ?_ | split)
theorem Part.deliver_keeps (s : Sec) (p : Part) (hp : s.Keeps p.sec) : s.Keeps (Part.deliver p).sec := by
  conv in (Part.deliver p) => (unfold Part.deliver; try dsimp only)
  repeat' (first | with_reducible assumption | with_reducible apply Part.arrive_keeps | with_reducible apply foldl_sec)
theorem Part.copyMem_keeps (s : Sec) (a : Nat) (p : Part) (hp : s.Keeps p.sec) : s.Keeps (Part.copyMem a p).sec := by
  conv in (Part.copyMem a p) => (unfold Part.copyMem; try dsimp only)
  repeat' (first | with_reducible assumption | with_reducible apply Part.deliver_keeps)
theorem Part.crossWrite_keeps (s : Sec) (p : Part) (a : Req) (b : Nat) (e : Nat) (f : Nat) (g : List Byte) (hp : s.Keeps p.sec) : s.Keeps (Part.crossWrite p a b e f g).sec := by
  conv in (Part.crossWrite p a b e f g) => (unfold Part.crossWrite; try dsimp only)
  repeat' (first | with_reducible assumption | with_reducible apply Part.farWrite_keeps | with_reducible refine ite_sec ?_ ?_)
theorem Part.finishDestroy_keeps (s : Sec) (p : Part) (a : Destroy) (hp : s.Keeps p.sec) : s.Keeps (Part.finishDestroy p a).sec := by
  conv in (Part.finishDestroy p a) => (unfold Part.finishDestroy; try dsimp only)
  repeat' (first | with_reducible assumption | with_reducible refine ite_sec ?_ ?_ | split)
theorem Part.drainedDestroy_keeps (s : Sec) (p : Part) (a : Destroy) (hp : s.Keeps p.sec) : s.Keeps (Part.drainedDestroy p a).sec := by
  conv in (Part.drainedDestroy p a) => (unfold Part.drainedDestroy; try dsimp only)
  repeat' (first | with_reducible assumption | with_reducible apply Part.finishDestroy_keeps)
theorem Part.enterState_keeps (s : Sec) (p : Part) (a : Leaving) (hp : s.Keeps p.sec) : s.Keeps (Part.enterState p a).sec := by
  conv in (Part.enterState p a) => (unfold Part.enterState; try dsimp only)
  repeat' (first | with_reducible assumption | with_reducible apply Part.beginWarm_keeps | (dsimp only; with_reducible apply Sec.Keeps.lost) | (dsimp only; with_reducible apply Sec.Keeps.keptWarm) | with_reducible refine ite_sec ?_ ?_)
theorem Part.fillMem_keeps (s : Sec) (a : Nat) (p : Part) (hp : s.Keeps p.sec) : s.Keeps (Part.fillMem a p).sec := by
  conv in (Part.fillMem a p) => (unfold Part.fillMem; try dsimp only)
  repeat' (first | with_reducible assumption | with_reducible apply Part.deliver_keeps)
theorem Part.gateFinish_keeps (s : Sec) (p : Part) (a : Nat) (hp : s.Keeps p.sec) : s.Keeps (Part.gateFinish p a).sec := by
  conv in (Part.gateFinish p a) => (unfold Part.gateFinish; try dsimp only)
  repeat' (first | with_reducible assumption | with_reducible apply Part.gateDone_keeps | with_reducible apply Part.gateRun_keeps | (refine Sec.Keeps.same (by assumption) ?_ ?_ ?_ <;> rfl) | split)
theorem Part.serveRegs_keeps (s : Sec) (p : Part) (a : Req) (b : Nat) (e : Nat) (f : List Byte) (hp : s.Keeps p.sec) : s.Keeps (Part.serveRegs p a b e f).sec := by
  conv in (Part.serveRegs p a b e f) => (unfold Part.serveRegs; try dsimp only)
  repeat' (first | with_reducible assumption | with_reducible apply Part.writeRegs_keeps | with_reducible refine ite_sec ?_ ?_ | split)
theorem Part.serve_keeps (s : Sec) (p : Part) (a : Req) (b : Nat) (e : Nat) (f : List Byte) (hp : s.Keeps p.sec) : s.Keeps (Part.serve p a b e f).sec := by
  conv in (Part.serve p a b e f) => (unfold Part.serve; try dsimp only)
  repeat' (first | with_reducible assumption | with_reducible apply Part.crossWrite_keeps | with_reducible apply Part.serveRegs_keeps | with_reducible refine ite_sec ?_ ?_ | split)
theorem Part.hostMesh_keeps (s : Sec) (p : Part) (a : Nat) (b : Nat) (e : Option Nat) (f : Nat) (g : Nat) (i : Bool) (j : List Byte) (hp : s.Keeps p.sec) : s.Keeps (Part.hostMesh p a b e f g i j).sec := by
  conv in (Part.hostMesh p a b e f g i j) => (unfold Part.hostMesh; try dsimp only)
  repeat' (first | with_reducible assumption | with_reducible apply Part.serve_keeps | split)
theorem Part.hostBar_keeps (s : Sec) (p : Part) (a : Nat) (b : Nat) (e : Nat) (f : Option Nat) (g : Nat) (i : Nat) (j : Bool) (k : List Byte) (hp : s.Keeps p.sec) : s.Keeps (Part.hostBar p a b e f g i j k).sec := by
  conv in (Part.hostBar p a b e f g i j k) => (unfold Part.hostBar; try dsimp only)
  repeat' (first | with_reducible assumption | with_reducible apply Part.hostMesh_keeps | with_reducible refine ite_sec ?_ ?_)
theorem Part.numbered_keeps (s : Sec) (p : Part) (hp : s.Keeps p.sec) : s.Keeps (Part.numbered p).sec := by
  conv in (Part.numbered p) => (unfold Part.numbered; try dsimp only)
  repeat' (first | with_reducible assumption)
theorem Part.hostSeen_keeps (s : Sec) (p : Part) (a : Nat) (hp : s.Keeps p.sec) : s.Keeps (Part.hostSeen p a).sec := by
  conv in (Part.hostSeen p a) => (unfold Part.hostSeen; try dsimp only)
  repeat' (first | with_reducible assumption | with_reducible apply Part.numbered_keeps)
theorem Part.recoveryRequest_keeps (s : Sec) (p : Part) (a : Nat) (b : Nat) (e : Nat) (f : Nat) (g : Bool) (i : List Byte) (hp : s.Keeps p.sec) : s.Keeps (Part.recoveryRequest p a b e f g i).sec := by
  conv in (Part.recoveryRequest p a b e f g i) => (unfold Part.recoveryRequest; try dsimp only)
  repeat' (first | with_reducible assumption | with_reducible refine ite_sec ?_ ?_ | split)
theorem Part.release_keeps (s : Sec) (p : Part) (hp : s.Keeps p.sec) : s.Keeps (Part.release p).sec := by
  conv in (Part.release p) => (unfold Part.release; try dsimp only)
  repeat' (first | with_reducible assumption | with_reducible refine ite_sec ?_ ?_)
theorem Part.sendReport_keeps (s : Sec) (p : Part) (a : List Byte) (hp : s.Keeps p.sec) : s.Keeps (Part.sendReport p a).sec := by
  conv in (Part.sendReport p a) => (unfold Part.sendReport; try dsimp only)
  repeat' (first | with_reducible assumption | with_reducible apply Part.signedReport_keeps)
theorem Part.serviceDone_keeps (s : Sec) (p : Part) (q : GateReq) (hp : s.Keeps p.sec) : s.Keeps (p.serviceDone q).2.sec := by
  conv in (p.serviceDone q) => (unfold Part.serviceDone; dsimp only)
  refine ite_sec2 (hp.raised _ _) ?_
  split
  · exact Sec.Keeps.same hp rfl rfl rfl
  · exact hp
theorem Part.shutdown_keeps (s : Sec) (p : Part) (hp : s.Keeps p.sec) : s.Keeps (Part.shutdown p).sec := by
  conv in (Part.shutdown p) => (unfold Part.shutdown; try dsimp only)
  repeat' (first | with_reducible assumption | (dsimp only; with_reducible apply Sec.Keeps.lost))
theorem Part.storm_keeps (s : Sec) (p : Part) (hp : s.Keeps p.sec) : s.Keeps (Part.storm p).sec := by
  conv in (Part.storm p) => (unfold Part.storm; try dsimp only)
  repeat' (first | with_reducible assumption | with_reducible apply Part.beginWarm_keeps | (dsimp only; with_reducible apply Sec.Keeps.keptWarm))
theorem Part.wakeFrom_keeps (s : Sec) (p : Part) (a : Nat) (hp : s.Keeps p.sec) : s.Keeps (Part.wakeFrom p a).sec := by
  conv in (Part.wakeFrom p a) => (unfold Part.wakeFrom; try dsimp only)
  repeat' (first | with_reducible assumption | with_reducible apply Part.beginWarm_keeps | with_reducible refine ite_sec ?_ ?_ | split)
theorem Part.warmSteps_keeps (s : Sec) (p : Part) (a : Nat) (hp : s.Keeps p.sec) : s.Keeps (Part.warmSteps p a).sec := by
  conv in (Part.warmSteps p a) => (unfold Part.warmSteps; try dsimp only)
  repeat' (first | with_reducible assumption | with_reducible apply Part.countCycle_keeps | with_reducible apply Part.measure_keeps)
theorem aonPowerLoss_keeps (s : Sec) (p : Part) (hp : s.Keeps p.sec) : s.Keeps (aonPowerLoss p).sec := by
  conv in (aonPowerLoss p) => (unfold aonPowerLoss; try dsimp only)
  repeat' (first | with_reducible assumption | (dsimp only; with_reducible apply Sec.Keeps.lost))
theorem aonPowerUp_keeps (s : Sec) (p : Part) (hp : s.Keeps p.sec) : s.Keeps (aonPowerUp p).sec := by
  conv in (aonPowerUp p) => (unfold aonPowerUp; try dsimp only)
  repeat' (first | with_reducible assumption | (dsimp only; with_reducible apply Sec.Keeps.lost))
theorem bridgeRead_keeps (s : Sec) (a : Nat) (b : Nat) (e : Nat) (f : Nat) (p : Part) (hp : s.Keeps p.sec) : s.Keeps (bridgeRead a b e f p).sec := by
  conv in (bridgeRead a b e f p) => (unfold bridgeRead; try dsimp only)
  repeat' (first | with_reducible assumption | with_reducible apply Part.numbered_keeps | with_reducible apply Part.serve_keeps | with_reducible refine ite_sec ?_ ?_)
theorem bridgeWrite_keeps (s : Sec) (a : Nat) (b : Nat) (e : Nat) (f : Nat) (g : List Byte) (p : Part) (hp : s.Keeps p.sec) : s.Keeps (bridgeWrite a b e f g p).sec := by
  conv in (bridgeWrite a b e f g p) => (unfold bridgeWrite; try dsimp only)
  repeat' (first | with_reducible assumption | with_reducible apply Part.crossWrite_keeps | with_reducible apply Part.numbered_keeps | with_reducible apply Part.serve_keeps | with_reducible refine ite_sec ?_ ?_ | split)
theorem challengeLapse_keeps (s : Sec) (p : Part) (hp : s.Keeps p.sec) : s.Keeps (challengeLapse p).sec := by
  conv in (challengeLapse p) => (unfold challengeLapse; try dsimp only)
  repeat' (first | with_reducible assumption | (refine Sec.Keeps.same (by assumption) ?_ ?_ ?_ <;> rfl) | with_reducible refine ite_sec ?_ ?_ | split)
theorem claimExpiry_keeps (s : Sec) (a : Nat) (p : Part) (hp : s.Keeps p.sec) : s.Keeps (claimExpiry a p).sec := by
  conv in (claimExpiry a p) => (unfold claimExpiry; try dsimp only)
  repeat' (first | with_reducible assumption | with_reducible apply Part.gateFinish_keeps | with_reducible refine ite_sec ?_ ?_ | split)
theorem claimRelease_keeps (s : Sec) (a : Nat) (p : Part) (hp : s.Keeps p.sec) : s.Keeps (claimRelease a p).sec := by
  conv in (claimRelease a p) => (unfold claimRelease; try dsimp only)
  repeat' (first | with_reducible assumption | with_reducible apply Part.gateFinish_keeps | with_reducible apply Part.serviceDone_keeps | with_reducible refine ite_sec ?_ ?_ | split)
theorem coldStart_keeps (s : Sec) (a : Nat) (p : Part) (hp : s.Keeps p.sec) : s.Keeps (coldStart a p).sec := by
  conv in (coldStart a p) => (unfold coldStart; try dsimp only)
  repeat' (first | with_reducible assumption | with_reducible apply Part.coldChecks_keeps | with_reducible apply Part.enterRecovery_keeps | with_reducible apply Part.release_keeps | with_reducible refine ite_sec ?_ ?_)
theorem coreFail_keeps (s : Sec) (a : Nat) (b : ErrRec) (p : Part) (hp : s.Keeps p.sec) : s.Keeps (coreFail a b p).sec := by
  conv in (coreFail a b p) => (unfold coreFail; try dsimp only)
  repeat' (first | with_reducible assumption | with_reducible apply Part.storm_keeps | with_reducible refine ite_sec ?_ ?_)
theorem coreFault_keeps (s : Sec) (a : Nat) (b : Bool) (e : W64) (p : Part) (hp : s.Keeps p.sec) : s.Keeps (coreFault a b e p).sec := by
  conv in (coreFault a b e p) => (unfold coreFault; try dsimp only)
  repeat' (first | with_reducible assumption | with_reducible apply coreFail_keeps | with_reducible refine ite_sec ?_ ?_)
theorem coreRejoin_keeps (s : Sec) (a : Nat) (p : Part) (hp : s.Keeps p.sec) : s.Keeps (coreRejoin a p).sec := by
  conv in (coreRejoin a p) => (unfold coreRejoin; try dsimp only)
  repeat' (first | with_reducible assumption | (refine Sec.Keeps.same (by assumption) ?_ ?_ ?_ <;> rfl) | with_reducible refine ite_sec ?_ ?_)
theorem domainStage_keeps (s : Sec) (a : Nat) (p : Part) (hp : s.Keeps p.sec) : s.Keeps (domainStage a p).sec := by
  conv in (domainStage a p) => (unfold domainStage; try dsimp only)
  repeat' (first | with_reducible assumption)
theorem ethFrameRx_keeps (s : Sec) (a : Nat) (b : List Byte) (p : Part) (hp : s.Keeps p.sec) : s.Keeps (ethFrameRx a b p).sec := by
  conv in (ethFrameRx a b p) => (unfold ethFrameRx; try dsimp only)
  repeat' (first | with_reducible assumption | with_reducible refine ite_sec ?_ ?_)
theorem ethFrameTx_keeps (s : Sec) (a : Nat) (p : Part) (hp : s.Keeps p.sec) : s.Keeps (ethFrameTx a p).sec := by
  conv in (ethFrameTx a p) => (unfold ethFrameTx; try dsimp only)
  repeat' (first | with_reducible assumption | with_reducible refine ite_sec ?_ ?_ | split)
theorem functionDisableDrained_keeps (s : Sec) (a : Nat) (p : Part) (hp : s.Keeps p.sec) : s.Keeps (functionDisableDrained a p).sec := by
  conv in (functionDisableDrained a p) => (unfold functionDisableDrained; try dsimp only)
  repeat' (first | with_reducible assumption | with_reducible apply Part.drainedDestroy_keeps | with_reducible refine ite_sec ?_ ?_ | split)
theorem gateFault_keeps (s : Sec) (a : Nat) (b : Nat) (e : W32) (p : Part) (hp : s.Keeps p.sec) : s.Keeps (gateFault a b e p).sec := by
  conv in (gateFault a b e p) => (unfold gateFault; try dsimp only)
  repeat' (first | with_reducible assumption | with_reducible refine ite_sec ?_ ?_ | split)
theorem hostRequest_keeps (s : Sec) (a : Nat) (b : Nat) (e : Option Nat) (f : Nat) (g : Nat) (i : Bool) (j : List Byte) (p : Part) (hp : s.Keeps p.sec) : s.Keeps (hostRequest a b e f g i j p).sec := by
  conv in (hostRequest a b e f g i j p) => (unfold hostRequest; try dsimp only)
  repeat' (first | with_reducible assumption | with_reducible apply Part.hostBar_keeps | with_reducible apply Part.hostSeen_keeps | with_reducible apply Part.recoveryRequest_keeps | with_reducible refine ite_sec ?_ ?_)
theorem kernelWatchdogExpiry_keeps (s : Sec) (a : Nat) (p : Part) (hp : s.Keeps p.sec) : s.Keeps (kernelWatchdogExpiry a p).sec := by
  conv in (kernelWatchdogExpiry a p) => (unfold kernelWatchdogExpiry; try dsimp only)
  repeat' (first | with_reducible assumption | with_reducible apply coreFail_keeps)
theorem meshRequest_keeps (s : Sec) (a : Nat) (b : Nat) (e : Nat) (f : Nat) (g : Bool) (i : Bool) (j : Nat) (k : Bool) (l : List Byte) (p : Part) (hp : s.Keeps p.sec) : s.Keeps (meshRequest a b e f g i j k l p).sec := by
  conv in (meshRequest a b e f g i j k l p) => (unfold meshRequest; try dsimp only)
  repeat' (first | with_reducible assumption | with_reducible apply Part.numbered_keeps | with_reducible apply Part.serve_keeps | with_reducible refine ite_sec ?_ ?_)
theorem ownerSetServe_keeps (s : Sec) (p : Part) (hp : s.Keeps p.sec) : s.Keeps (ownerSetServe p).sec := by
  conv in (ownerSetServe p) => (unfold ownerSetServe; try dsimp only)
  repeat' (first | with_reducible assumption | with_reducible apply Part.gateFinish_keeps | with_reducible refine ite_sec ?_ ?_ | split)
theorem pageOwnerSetApply_keeps (s : Sec) (p : Part) (hp : s.Keeps p.sec) : s.Keeps (pageOwnerSetApply p).sec := by
  conv in (pageOwnerSetApply p) => (unfold pageOwnerSetApply; try dsimp only)
  repeat' (first | with_reducible assumption | with_reducible apply Part.finishDestroy_keeps | with_reducible apply ownerSetServe_keeps | with_reducible apply foldl_sec)
theorem pgoodFall_keeps (s : Sec) (p : Part) (hp : s.Keeps p.sec) : s.Keeps (pgoodFall p).sec := by
  conv in (pgoodFall p) => (unfold pgoodFall; try dsimp only)
  repeat' (first | with_reducible assumption | (dsimp only; with_reducible apply Sec.Keeps.lost) | with_reducible refine ite_sec ?_ ?_)
theorem pgoodRise_keeps (s : Sec) (p : Part) (hp : s.Keeps p.sec) : s.Keeps (pgoodRise p).sec := by
  conv in (pgoodRise p) => (unfold pgoodRise; try dsimp only)
  repeat' (first | with_reducible assumption | with_reducible apply Part.release_keeps | with_reducible refine ite_sec ?_ ?_)
theorem pgoodTimeout_keeps (s : Sec) (p : Part) (hp : s.Keeps p.sec) : s.Keeps (pgoodTimeout p).sec := by
  conv in (pgoodTimeout p) => (unfold pgoodTimeout; try dsimp only)
  repeat' (first | with_reducible assumption | with_reducible apply Part.startFailed_keeps | with_reducible refine ite_sec ?_ ?_)
theorem profileSelect_keeps (s : Sec) (a : Nat) (p : Part) (hp : s.Keeps p.sec) : s.Keeps (profileSelect a p).sec := by
  conv in (profileSelect a p) => (unfold profileSelect; try dsimp only)
  repeat' (first | with_reducible assumption)
theorem rcRegisterRead_keeps (s : Sec) (a : Nat) (b : Nat) (e : Nat) (f : Nat) (p : Part) (hp : s.Keeps p.sec) : s.Keeps (rcRegisterRead a b e f p).sec := by
  conv in (rcRegisterRead a b e f p) => (unfold rcRegisterRead; try dsimp only)
  repeat' (first | with_reducible assumption | with_reducible apply Part.numbered_keeps | with_reducible apply Part.serve_keeps | with_reducible refine ite_sec ?_ ?_)
theorem recoveryBundle_keeps (s : Sec) (p : Part) (hp : s.Keeps p.sec) : s.Keeps (recoveryBundle p).sec := by
  conv in (recoveryBundle p) => (unfold recoveryBundle; try dsimp only)
  repeat' (first | with_reducible assumption | with_reducible apply Part.bundleJudged_keeps | with_reducible refine ite_sec ?_ ?_)
theorem registerWrite_keeps (s : Sec) (a : Nat) (b : Nat) (e : Nat) (f : List Byte) (p : Part) (hp : s.Keeps p.sec) : s.Keeps (registerWrite a b e f p).sec := by
  conv in (registerWrite a b e f p) => (unfold registerWrite; try dsimp only)
  repeat' (first | with_reducible assumption | with_reducible apply Part.numbered_keeps | with_reducible apply Part.serve_keeps | with_reducible refine ite_sec ?_ ?_)
theorem resetAssert_keeps (s : Sec) (p : Part) (hp : s.Keeps p.sec) : s.Keeps (resetAssert p).sec := by
  conv in (resetAssert p) => (unfold resetAssert; try dsimp only)
  repeat' (first | with_reducible assumption | (dsimp only; with_reducible apply Sec.Keeps.lost))
theorem resetRelease_keeps (s : Sec) (p : Part) (hp : s.Keeps p.sec) : s.Keeps (resetRelease p).sec := by
  conv in (resetRelease p) => (unfold resetRelease; try dsimp only)
  repeat' (first | with_reducible assumption | with_reducible apply Part.release_keeps)
theorem shutdownRestart_keeps (s : Sec) (p : Part) (hp : s.Keeps p.sec) : s.Keeps (shutdownRestart p).sec := by
  conv in (shutdownRestart p) => (unfold shutdownRestart; try dsimp only)
  repeat' (first | with_reducible assumption | with_reducible apply Part.beginCold_keeps | with_reducible refine ite_sec ?_ ?_)
theorem sliceCreate_keeps (s : Sec) (a : Nat) (p : Part) (hp : s.Keeps p.sec) : s.Keeps (sliceCreate a p).sec := by
  conv in (sliceCreate a p) => (unfold sliceCreate; try dsimp only)
  repeat' (first | with_reducible assumption | split)
theorem startTimeout_keeps (s : Sec) (a : Nat) (p : Part) (hp : s.Keeps p.sec) : s.Keeps (startTimeout a p).sec := by
  conv in (startTimeout a p) => (unfold startTimeout; try dsimp only)
  repeat' (first | with_reducible assumption | with_reducible apply Part.startFailed_keeps | with_reducible refine ite_sec ?_ ?_)
theorem stateEntryHalt_keeps (s : Sec) (p : Part) (hp : s.Keeps p.sec) : s.Keeps (stateEntryHalt p).sec := by
  conv in (stateEntryHalt p) => (unfold stateEntryHalt; try dsimp only)
  repeat' (first | with_reducible assumption | with_reducible apply Part.enterState_keeps | with_reducible refine ite_sec ?_ ?_ | split)
theorem thermalEmergency_keeps (s : Sec) (a : Nat) (p : Part) (hp : s.Keeps p.sec) : s.Keeps (thermalEmergency a p).sec := by
  conv in (thermalEmergency a p) => (unfold thermalEmergency; try dsimp only)
  repeat' (first | with_reducible assumption | with_reducible apply Part.beginCold_keeps | with_reducible refine ite_sec ?_ ?_)
theorem thermalSample_keeps (s : Sec) (temps : List Nat) (p : Part) (hp : s.Keeps p.sec) : s.Keeps (thermalSample temps p).sec := by
  conv in (thermalSample temps p) => (unfold thermalSample; dsimp only)
  exact ite_sec (Part.shutdown_keeps _ _ hp) hp
theorem twinHello_keeps (s : Sec) (a : Nat) (b : Nat) (e : List Byte) (p : Part) (hp : s.Keeps p.sec) : s.Keeps (twinHello a b e p).sec := by
  conv in (twinHello a b e p) => (unfold twinHello; try dsimp only)
  repeat' (first | with_reducible assumption | with_reducible apply Part.sendReport_keeps | with_reducible refine ite_sec ?_ ?_)
theorem wakeEvent_keeps (s : Sec) (a : Nat) (p : Part) (hp : s.Keeps p.sec) : s.Keeps (wakeEvent a p).sec := by
  conv in (wakeEvent a p) => (unfold wakeEvent; try dsimp only)
  repeat' (first | with_reducible assumption | with_reducible apply Part.wakeFrom_keeps | with_reducible refine ite_sec ?_ ?_)
theorem warmStart_keeps (s : Sec) (a : Nat) (p : Part) (hp : s.Keeps p.sec) : s.Keeps (warmStart a p).sec := by
  conv in (warmStart a p) => (unfold warmStart; try dsimp only)
  repeat' (first | with_reducible assumption | with_reducible apply Part.stepFailed_keeps | with_reducible apply Part.warmSteps_keeps | with_reducible refine ite_sec ?_ ?_ | split)
theorem wdtCockpitExpiry_keeps (s : Sec) (p : Part) (hp : s.Keeps p.sec) : s.Keeps (wdtCockpitExpiry p).sec := by
  conv in (wdtCockpitExpiry p) => (unfold wdtCockpitExpiry; try dsimp only)
  repeat' (first | with_reducible assumption | (refine Sec.Keeps.same (by assumption) ?_ ?_ ?_ <;> rfl) | with_reducible refine ite_sec ?_ ?_)
theorem wdtVehicleExpiry_keeps (s : Sec) (p : Part) (hp : s.Keeps p.sec) : s.Keeps (wdtVehicleExpiry p).sec := by
  conv in (wdtVehicleExpiry p) => (unfold wdtVehicleExpiry; try dsimp only)
  repeat' (first | with_reducible assumption | with_reducible apply Part.beginCold_keeps)
end Sys2Proof.Machine
end

