-- ==== Sys2Proof/Machine/Package.lean ====
section
/-!
DEFINITION. The package: the names of its balls, what each ball carries, and the supply rails with their groups (19 R499 to
R506, R514).
-/

namespace Sys2Proof.Machine

/-! ### Ball names (R499) -/

/-- The letters of rows 1 to 19, in order. -/
def ballLetters : List Char := ['A', 'B', 'C', 'D', 'E', 'F', 'G', 'H', 'J', 'K', 'L', 'M', 'N', 'P', 'T', 'U', 'V', 'W', 'Y']

/-- Table — Ball row letters: the letters of row index `r`, 1 to 59. -/
def rowLetters (r : Nat) : List Char :=
  let l := fun (k : Nat) => (ballLetters[k - 1]?).toList
  if r < 20 then l r else if r < 39 then 'A' :: l (r - 19) else if r < 58 then 'B' :: l (r - 38) else 'C' :: l (r - 57)

/-- The row index that letters name; none where no row has them. -/
def rowNamed (name : List Char) : Option Nat := ((List.range 59).map (· + 1)).find? (fun r => rowLetters r == name)

/-! ### Rails (R505, R506) -/

/-- The groups of supplies: always powered, switched with RAIL_EN_RET, switched with RAIL_EN_MAIN. -/
inductive RailGroup where
  | aon | ret | main
  deriving DecidableEq, Repr

/-- The rails of Table — Supply rails, and the ground net. -/
inductive Rail where
  | vddAon | vddioAon | vddSoc | vddDdr | vddqDdr | vddFab | vddApc | vddGfx | vddSer | vdda | vddio | vss
  deriving DecidableEq, Repr

/-- The group a rail belongs to; none for ground. -/
def Rail.group : Rail → Option RailGroup
  | .vddAon | .vddioAon => some .aon
  | .vddSoc | .vddDdr | .vddqDdr => some .ret
  | .vddFab | .vddApc | .vddGfx | .vddSer | .vdda | .vddio => some .main
  | .vss => none

/-- Nominal voltage in mV, tolerance in percent, and largest current in mA. -/
def Rail.rating : Rail → Nat × Nat × Nat
  | .vddAon => (750, 5, 60)
  | .vddioAon => (1800, 5, 30)
  | .vddSoc => (750, 3, 45000)
  | .vddDdr => (1050, 3, 3000)
  | .vddqDdr => (500, 3, 8000)
  | .vddFab => (720, 3, 125000)
  | .vddApc => (800, 3, 32000)
  | .vddGfx => (800, 3, 14000)
  | .vddSer => (850, 3, 6000)
  | .vdda => (1800, 3, 500)
  | .vddio => (1800, 5, 800)
  | .vss => (0, 0, 0)

/-- A rail is asked for by the enables as the part drives them (R506). -/
def Chip.railOn (c : Chip) (x : Rail) : Bool :=
  match x.group with
  | some .aon => true
  | some .ret => c.power.enRet
  | some .main => c.power.enMain
  | none => false

/-- R506: the step of group MAIN in which a rail comes up. -/
def Rail.mainStep : Rail → Option Nat
  | .vdda | .vddio => some 1
  | .vddFab | .vddApc | .vddGfx | .vddSer => some 2
  | _ => none

/-- R514: what a state that is not Active draws, in mW: group AON, group RET of the part, and the LPDDR6 devices. -/
def statePower : PartMode → Option (Nat × Nat × Nat)
  | .parked => some (4, 0, 0)
  | .standby => some (4, 76, 170)
  | _ => none

/-! ### Balls (R500 to R504) -/

/-- The balls of an LPDDR6 channel; `sub` is the sub-channel, A 0 and B 1. -/
inductive LpBall where
  | dq (sub bit : Nat) | wckT (sub : Nat) | wckC (sub : Nat) | rdqsT (sub : Nat) | rdqsC (sub : Nat) | ca (sub bit : Nat) | cs (sub : Nat)
  | ckT | ckC | zq | drstN | vss | vddq
  deriving DecidableEq, Repr

/-- Signals with a ball of their own (R502). -/
inductive Pin where
  | resetN | pgood | railEnMain | railEnRet | thermN | xtalIn | xtalOut | profSel (n : Nat) | twinId | bootSrc (n : Nat) | safeN (n : Nat)
  | twinAliveIn | twinAliveOut | ethMdc | ethMdio | ethPhyIntN | audMclk | trigOut (n : Nat) | refclkP | refclkN
  | xspiCk | xspiDqs | xspiCsN | xspiRstN | xspiDq (n : Nat) | dbgTck | dbgTms | dbgTdi | dbgTdo
  deriving DecidableEq, Repr

/-- What a ball carries: a ball of an instance of a repeated interface, numbered along its block, a signal, or a supply. -/
inductive Ball where
  | lpddr (channel : Nat) (x : LpBall)
  | csi (port b : Nat)
  | usb4 (port k : Nat)
  | display (output k : Nat)
  | ethernet (port k : Nat)
  | can (controller k : Nat)
  | tdm (port k : Nat)
  | fp (n : Nat)
  | signal (p : Pin)
  | supply (x : Rail)
  deriving DecidableEq, Repr

/-- Table — LPDDR6 channel block. -/
def lpBlock (row col : Nat) : LpBall :=
  match row with
  | 0 => if col < 12 then .dq 0 col else if col = 12 then .wckT 0 else .wckC 0
  | 1 => [LpBall.rdqsT 0, .rdqsC 0, .ca 0 0, .ca 0 1, .ca 0 2, .ca 0 3, .cs 0, .vss, .vddq, .vss, .vddq, .vss, .ckT, .ckC].getD col .vss
  | 2 => [LpBall.rdqsT 1, .rdqsC 1, .ca 1 0, .ca 1 1, .ca 1 2, .ca 1 3, .cs 1, .vddq, .vss, .vddq, .vss, .vddq, .zq, .drstN].getD col .vss
  | _ => if col < 12 then .dq 1 col else if col = 12 then .wckT 1 else .wckC 1

/-- A ball of a channel block as it stands in the package. -/
def lpddrBall (channel : Nat) : LpBall → Ball
  | .vss => .supply .vss
  | .vddq => .supply .vddqDdr
  | x => .lpddr channel x

/-- Table — Control ball grid: rows BB to BN, columns 1 to 6. -/
def controlGrid : List (List Ball) :=
  [[.signal .resetN, .signal .pgood, .signal .railEnMain, .signal .railEnRet, .signal .thermN, .supply .vddioAon],
   [.signal .xtalIn, .signal .xtalOut, .supply .vddAon, .supply .vddAon, .supply .vddioAon, .supply .vddioAon],
   [.signal (.profSel 0), .signal (.profSel 1), .signal .twinId, .signal (.bootSrc 0), .signal (.bootSrc 1), .supply .vddioAon],
   [.signal (.safeN 0), .signal (.safeN 1), .signal (.safeN 2), .signal (.safeN 3), .signal .twinAliveIn, .signal .twinAliveOut],
   [.signal .ethMdc, .signal .ethMdio, .signal .ethPhyIntN, .signal .audMclk, .supply .vddAon, .supply .vddAon],
   (List.range 6).map (fun i => .signal (.trigOut i)),
   (List.range 6).map (fun i => .signal (.trigOut (6 + i))),
   [.signal (.trigOut 12), .signal (.trigOut 13), .signal (.trigOut 14), .signal (.trigOut 15), .signal .refclkP, .signal .refclkN],
   [.signal .xspiCk, .signal .xspiDqs, .signal .xspiCsN, .signal .xspiRstN, .signal (.xspiDq 0), .signal (.xspiDq 1)],
   (List.range 6).map (fun i => .signal (.xspiDq (2 + i))),
   [.signal .dbgTck, .signal .dbgTms, .signal .dbgTdi, .signal .dbgTdo, .supply .vdda, .supply .vdda],
   List.replicate 6 (.supply .vdda)]

/-- R504: the rail of a ball that no interface and no signal takes. -/
def supplyBall (r c : Nat) : Rail :=
  if (r + c) % 2 = 0 then .vss
  else if r ≤ 9 ∨ 51 ≤ r then .vddDdr
  else if c ≤ 6 ∨ 52 ≤ c then (if 10 ≤ r ∧ r ≤ 39 then .vddSer else .vddio)
  else if c ≤ 18 then (if r ≤ 30 then .vddApc else .vddGfx)
  else if r % 5 = 0 then .vddSoc else .vddFab

/-- What the ball at row index `r` and column `c`, each 1 to 59, carries (R500, R502, R504). -/
def ballAt (r c : Nat) : Ball :=
  let lp := fun (band row : Nat) => lpddrBall (4 * band + (c - 2) / 14) (lpBlock row ((c - 2) % 14))
  if (r ≤ 8 ∨ 52 ≤ r) ∧ 2 ≤ c ∧ c ≤ 57 then
    if r ≤ 4 then lp 0 (r - 1) else if r ≤ 8 then lp 1 (r - 5) else if r ≤ 55 then lp 2 (r - 52) else lp 3 (r - 56)
  else if 10 ≤ r ∧ r ≤ 33 ∧ 55 ≤ c then .csi ((r - 10) / 2) ((r - 10) % 2 * 5 + (c - 55))
  else if 35 ≤ r ∧ r ≤ 38 ∧ 55 ≤ c then .usb4 ((r - 35) / 2) ((r - 35) % 2 * 5 + (c - 55))
  else if 10 ≤ r ∧ r ≤ 17 ∧ c ≤ 6 then
    if (r - 10) % 2 = 1 ∧ c = 6 then .supply .vss else .display ((r - 10) / 2) ((r - 10) % 2 * 6 + (c - 1))
  else if 39 ≤ r ∧ r ≤ 42 ∧ 52 ≤ c then .ethernet (2 * (r - 39) + (c - 52) / 4) ((c - 52) % 4)
  else if 20 ≤ r ∧ r ≤ 35 ∧ c ≤ 2 then .can (r - 20) (c - 1)
  else if 36 ≤ r ∧ r ≤ 39 ∧ c ≤ 4 then .tdm (r - 36) (c - 1)
  else if 43 ≤ r ∧ r ≤ 48 ∧ 52 ≤ c then .fp (8 * (r - 43) + (c - 52))
  else if 40 ≤ r ∧ r ≤ 51 ∧ c ≤ 6 then (controlGrid.getD (r - 40) []).getD (c - 1) (.supply .vss)
  else .supply (supplyBall r c)

/-- R501: a ball of a CSI-2 port in its two uses. -/
inductive CsiUse where
  | dataP (lane : Nat) | dataN (lane : Nat) | clockP | clockN
  | trioA (trio : Nat) | trioB (trio : Nat) | trioC (trio : Nat) | unused
  deriving DecidableEq, Repr

/-- Table — CSI-2 ball use, for D-PHY and for C-PHY. -/
def csiUse (cphy : Bool) (b : Nat) : CsiUse :=
  if cphy then
    if 9 ≤ b then .unused else match b % 3 with
      | 0 => .trioA (b / 3)
      | 1 => .trioB (b / 3)
      | _ => .trioC (b / 3)
  else [CsiUse.dataP 0, .dataN 0, .dataP 1, .dataN 1, .clockP, .clockN, .dataP 2, .dataN 2, .dataP 3, .dataN 3].getD b .unused

end Sys2Proof.Machine
end

