-- ==== Sys2Proof/WellFormed.lean ====
section
/-!
DEFINITION. Which commands a sender can form: every index within the number of its kind that the spec
gives the part.  Nothing outside these ranges is ever sent, and the meanings ignore it if it is.
-/

namespace Sys2Proof

/-- The operands lie in the ranges the spec gives their kinds. -/
def Instr.wf (i : Instr) : Bool :=
  match i with
  | .meshRequest master serves cls addr _ _ _ _ _ => Machine.listedMaster master && decide (serves < 64) && decide (cls < 4) && decide (addr < 2 ^ 48)
  | .prewake _ => true
  | .sliceCreate _ => true
  | .sliceDestroy _ => true
  | .slicetagWrite hart mode _ => decide (hart < 20) && decide (mode < 5)
  | .predclrWrite hart mode _ => decide (hart < 20) && decide (mode < 5)
  | .accPasidMapWrite master tag slice _ => Machine.listedMaster master && decide (tag < 64) && decide (slice < 64)
  | .accTableWrite master tag target off _ => Machine.listedMaster master && decide (tag < 64) && decide (target < 64) && decide (off < 0x1000)
  | .registerWrite master tag addr _ => Machine.listedMaster master && decide (tag < 64) && decide (addr < 2 ^ 48)
  | .rcRegisterRead master tag addr _ => Machine.listedMaster master && decide (tag < 64) && decide (addr < 2 ^ 48)
  | .memInvalidate _ => true
  | .memInvalidateClear _ => true
  | .dirtyLogDisable _ => true
  | .dirtyLogEnable _ => true
  | .dirtyLogReadClear _ => true
  | .functionDisable _ => true
  | .functionEnable _ => true
  | .functionDisableTimeout _ => true
  | .functionDisableDrained _ => true
  | .doorbellLowerHalfWrite slice off _ => decide (slice < 64) && decide (off < 0x5000)
  | .doorbellBadAccess master slice off _ => Machine.listedMaster master && decide (slice < 64) && decide (off < 0x10000)
  | .ringEnable slice ring log2 => decide (slice < 64) && decide (ring < 16) && decide (log2 < 32)
  | .ringDisable slice ring => decide (slice < 64) && decide (ring < 16)
  | .ringDrained slice ring => decide (slice < 64) && decide (ring < 16)
  | .eventRingEnable slice log2 => decide (slice < 64) && decide (log2 < 32)
  | .sqTailWrite slice ring _ => decide (slice < 64) && decide (ring < 16)
  | .packetFetch slice ring => decide (slice < 64) && decide (ring < 16)
  | .packetStart => true
  | .packetComplete _ => true
  | .cqHeadWrite slice ring _ => decide (slice < 64) && decide (ring < 16)
  | .eqHeadWrite slice _ => decide (slice < 64)
  | .nopPacket _ => true
  | .fencePacket _ => true
  | .fenceRelease _ => true
  | .syncSignal _ => true
  | .syncWait _ => true
  | .syncWaitRelease _ => true
  | .memCopy _ => true
  | .memFill _ => true
  | .syncWindowWrite slice index _ => decide (slice < 64) && decide (index < 4096)
  | .syncWindowBadAccess master slice off _ => Machine.listedMaster master && decide (slice < 64) && decide (off < 0x10000)
  | .grpOppCapWrite tag group _ => decide (tag < 64) && decide (group < 12)
  | .tileLfsrWrite master tag tile _ => Machine.listedMaster master && decide (tag < 64) && decide (tile < 192)
  | .tileCounterClear master tag tile _ => Machine.listedMaster master && decide (tag < 64) && decide (tile < 192)
  | .tileNop tile => decide (tile < 192)
  | .tileLoop tile => decide (tile < 192)
  | .endLoop tile => decide (tile < 192)
  | .tileBranch tile => decide (tile < 192)
  | .tileEnd tile => decide (tile < 192)
  | .tileBarrier tile => decide (tile < 192)
  | .mma tile => decide (tile < 192)
  | .accZero tile => decide (tile < 192)
  | .accRead tile => decide (tile < 192)
  | .accLoad tile => decide (tile < 192)
  | .vadd tile => decide (tile < 192)
  | .vmul tile => decide (tile < 192)
  | .vfma tile => decide (tile < 192)
  | .vmin tile => decide (tile < 192)
  | .vmax tile => decide (tile < 192)
  | .vcmp tile => decide (tile < 192)
  | .vsel tile => decide (tile < 192)
  | .vexp tile => decide (tile < 192)
  | .vrcp tile => decide (tile < 192)
  | .vrsq tile => decide (tile < 192)
  | .vtanh tile => decide (tile < 192)
  | .vreq tile => decide (tile < 192)
  | .vcvt tile => decide (tile < 192)
  | .vred tile => decide (tile < 192)
  | .moveTile tile => decide (tile < 192)
  | .sendTile tile => decide (tile < 192)
  | .tileSyncAdd tile => decide (tile < 192)
  | .tileSyncWait tile => decide (tile < 192)
  | .tileSyncWaitMet tile => decide (tile < 192)
  | .instructionComplete tile unit => decide (tile < 192) && decide (unit < 4)
  | .ibufFillDone tile block => decide (tile < 192) && decide (block < 8)
  | .tileHang tile => decide (tile < 192)
  | .rillStrided tile rill => decide (tile < 192) && decide (rill < 4)
  | .rillGather tile rill => decide (tile < 192) && decide (rill < 4)
  | .rillScatter tile rill => decide (tile < 192) && decide (rill < 4)
  | .rillCsr tile rill => decide (tile < 192) && decide (rill < 4)
  | .rillCsc tile rill => decide (tile < 192) && decide (rill < 4)
  | .rillHashProbe tile rill => decide (tile < 192) && decide (rill < 4)
  | .rillSetIntersect tile rill => decide (tile < 192) && decide (rill < 4)
  | .rillNeighbour tile rill => decide (tile < 192) && decide (rill < 4)
  | .rillBucketNn tile rill => decide (tile < 192) && decide (rill < 4)
  | .rillResponse tile rill _ => decide (tile < 192) && decide (rill < 4)
  | .tileQueueRelease tile channel => decide (tile < 192) && decide (channel < 16)
  | .rillDescriptorDone tile rill => decide (tile < 192) && decide (rill < 4)
  | .dceLfsrWrite master tag group engine _ => Machine.listedMaster master && decide (tag < 64) && decide (group < 12) && decide (engine < 2)
  | .convDesc group => decide (group < 12)
  | .maxpool group => decide (group < 12)
  | .avgpool group => decide (group < 12)
  | .nougatIn group => decide (group < 12)
  | .nougatOut group => decide (group < 12)
  | .cropResize group => decide (group < 12)
  | .engineDescriptorDone group engine => decide (group < 12) && decide (engine < 3)
  | .jobRun _ => true
  | .pendingRelease _ => true
  | .jobDispatch _ => true
  | .jobEnd _ => true
  | .preemptSignal _ => true
  | .saveComplete _ => true
  | .restoreComplete _ => true
  | .jobPreempt _ => true
  | .preemptHoldExpiry _ => true
  | .jobAbort _ => true
  | .modelRegister _ => true
  | .modelPin _ => true
  | .modelEvict _ => true
  | .modelVerify _ => true
  | .modelLoadDone model => decide (model < 1024)
  | .triggerEnable tag trigger _ => decide (tag < 64) && decide (trigger < 16)
  | .triggerEdge trigger => decide (trigger < 16)
  | .fuseStreamOpen _ => true
  | .fuseStreamClose _ => true
  | .fusePolicyContext _ => true
  | .fusePolicyGrid _ => true
  | .fusePolicyTracker _ => true
  | .fusePolicyStream _ => true
  | .fusePolicyRelease _ => true
  | .cameraRow stream row verdict _ => decide (stream < 64) && decide (row < 65536) && decide (verdict < 3)
  | .cameraFrameEnd stream => decide (stream < 64)
  | .lidarPacket stream _ => decide (stream < 64)
  | .imuSample stream _ => decide (stream < 64)
  | .injectContribution stream => decide (stream < 64)
  | .alignWaitExpiry context => decide (context < 32)
  | .lateCutoff stream => decide (stream < 64)
  | .l1Cycle grid => decide (grid < 4)
  | .l2Cycle => true
  | .lateRevision producer => decide (producer < 65536)
  | .aleStep _ _ => true
  | .divergence => true
  | .aleLoad tag _ => decide (tag < 64)
  | .aleLoadTakeEffect => true
  | .aleEnable tag _ => decide (tag < 64)
  | .aleAdapt tag _ => decide (tag < 64)
  | .alePortCfgWrite tag port _ => decide (tag < 64) && decide (port < 4)
  | .audioRingEnable tag ring _ => decide (tag < 64) && decide (ring < 8)
  | .captureBlock ring => decide (ring < 8)
  | .playbackFetch ring => decide (ring < 8)
  | .playbackBlockStart ring => decide (ring < 8)
  | .statusRecord => true
  | .avtpFrame _ _ _ _ _ _ => true
  | .gfxPass _ => true
  | .passGeometry _ _ => true
  | .partialFlush _ => true
  | .passComplete _ cause list _ _ => decide (cause < 6) && decide (list < 8)
  | .passTakeover _ => true
  | .gfxHang _ list _ _ => decide (list < 8)
  | .dspPipeEnable tag pipe _ => decide (tag < 64) && decide (pipe < 4)
  | .dspCommit tag pipe _ => decide (tag < 64) && decide (pipe < 4)
  | .commitLoad pipe => decide (pipe < 4)
  | .displayLinkTraining tag pipe _ _ lanes rate => decide (tag < 64) && decide (pipe < 4) && decide (lanes < 3) && decide (rate < 5)
  | .displayLinkLoss pipe _ => decide (pipe < 4)
  | .frameEndCrc pipe _ => decide (pipe < 4)
  | .pipeStall pipe => decide (pipe < 4)
  | .outputSet _ => true
  | .outputDisarm _ => true
  | .groupRelease _ => true
  | .groupForce _ => true
  | .messageSet _ => true
  | .telltaleSet _ => true
  | .jobRunDiverse _ => true
  | .weirDecision => true
  | .deadlineMiss output => decide (output < 32)
  | .safeMessageRepeat => true
  | .goldenScheduleSet _ => true
  | .goldenScheduleClear _ => true
  | .goldenScheduleRunNow _ => true
  | .goldenRunDue group => decide (group < 12)
  | .goldenRunEnd group => decide (group < 12)
  | .goldenOverdue group => decide (group < 12)
  | .lockstepMismatch _ => true
  | .selftestSliceStart tile => decide (tile < 192)
  | .selftestStep tile _ => decide (tile < 192)
  | .selftestAbort tile => decide (tile < 192)
  | .selftestSliceEnd tile => decide (tile < 192)
  | .checkerTest checker _ step _ => decide (checker < 7) && decide (step < 256)
  | .selftestOverdue index => decide (index < 192) || (decide (256 ≤ index) && decide (index < 263))
  | .selftestTile _ => true
  | .selftestGroup _ => true
  | .selftestChecker _ => true
  | .selftestSchedule _ => true
  | .errorRecord severity cause source unit master slice world target _ _ => decide (severity < 4) && decide (cause < 256) && decide (source < 16) && decide (unit < 4096) && decide (master < 256) && decide (slice < 64) && decide (world < 2) && decide (target < 64)
  | .errRingEnable tag _ => decide (tag < 64)
  | .errRingHeadWrite tag _ => decide (tag < 64)
  | .gateFault hart mode _ => decide (hart < 20) && decide (mode < 5)
  | .pageOwnerSet hart mode rd block len => decide (hart < 20) && decide (mode < 5) && decide (rd < 32) && decide (block < 2 ^ 64) && decide (len < 2 ^ 64)
  | .pageOwnerSetApply => true
  | .pageOwnerQuery hart mode rd block len => decide (hart < 20) && decide (mode < 5) && decide (rd < 32) && decide (block < 2 ^ 64) && decide (len < 2 ^ 64)
  | .rollbackCommit hart mode rd block len => decide (hart < 20) && decide (mode < 5) && decide (rd < 32) && decide (block < 2 ^ 64) && decide (len < 2 ^ 64)
  | .gateAttest hart mode rd block len => decide (hart < 20) && decide (mode < 5) && decide (rd < 32) && decide (block < 2 ^ 64) && decide (len < 2 ^ 64)
  | .gateRandom hart mode rd block len => decide (hart < 20) && decide (mode < 5) && decide (rd < 32) && decide (block < 2 ^ 64) && decide (len < 2 ^ 64)
  | .debugChallenge hart mode rd block len => decide (hart < 20) && decide (mode < 5) && decide (rd < 32) && decide (block < 2 ^ 64) && decide (len < 2 ^ 64)
  | .debugOpen hart mode rd block len => decide (hart < 20) && decide (mode < 5) && decide (rd < 32) && decide (block < 2 ^ 64) && decide (len < 2 ^ 64)
  | .debugClose hart mode rd block len => decide (hart < 20) && decide (mode < 5) && decide (rd < 32) && decide (block < 2 ^ 64) && decide (len < 2 ^ 64)
  | .challengeLapse => true
  | .netkeyLoad hart mode rd block len => decide (hart < 20) && decide (mode < 5) && decide (rd < 32) && decide (block < 2 ^ 64) && decide (len < 2 ^ 64)
  | .contentUnwrap hart mode rd block len => decide (hart < 20) && decide (mode < 5) && decide (rd < 32) && decide (block < 2 ^ 64) && decide (len < 2 ^ 64)
  | .vaultRead hart mode rd block len => decide (hart < 20) && decide (mode < 5) && decide (rd < 32) && decide (block < 2 ^ 64) && decide (len < 2 ^ 64)
  | .vaultWrite hart mode rd block len => decide (hart < 20) && decide (mode < 5) && decide (rd < 32) && decide (block < 2 ^ 64) && decide (len < 2 ^ 64)
  | .claimRelease block => decide (block < 9)
  | .claimExpiry block => decide (block < 9)
  | .wdtVehicleExpiry => true
  | .wdtCockpitExpiry => true
  | .ownerEntryRepair page => decide (page < 2 ^ 21)
  | .dramRead _ => true
  | .dramWrite _ => true
  | .zeroFillDone block => decide (block < 2 ^ 21)
  | .millraceWindow channel => decide (channel < 16)
  | .dramCalibration channel _ => decide (channel < 16)
  | .arbiterGrant arbiter _ _ => decide (arbiter < 2 ^ 9)
  | .leakTick inst => decide (inst < 256)
  | .eccRegionWrite tag region _ _ => decide (tag < 64) && decide (region < 16)
  | .tileCodeMapWrite tag tile _ => decide (tag < 64) && decide (tile < 192)
  | .blockOff _ => true
  | .blockOn _ => true
  | .standby _ => true
  | .park _ => true
  | .restart _ => true
  | .idleUntil _ => true
  | .stateEntryHalt => true
  | .warmReq tag => decide (tag < 64)
  | .profileSelect _ => true
  | .wakeEvent source => decide (source < 5)
  | .aonPowerUp => true
  | .pgoodRise => true
  | .pgoodTimeout => true
  | .pgoodFall => true
  | .resetAssert => true
  | .resetRelease => true
  | .coldStart failAt => decide (failAt ≤ 16)
  | .warmStart failAt => decide (failAt ≤ 16)
  | .startTimeout step => decide (1 ≤ step) && decide (step ≤ 16)
  | .recoveryBundle => true
  | .recCtrlGo => true
  | .groupWake group => decide (group < 12)
  | .groupRunning group => decide (group < 12)
  | .groupSleep group => decide (group < 12)
  | .sluiceRequest kind _ _ cls slice _ => decide (kind < 6) && decide (cls < 4) && decide (slice < 65)
  | .sluiceReturn kind _ => decide (kind < 6)
  | .sluiceTimeout => true
  | .sluiceTick => true
  | .thermalSample temps => decide (temps.length = 24)
  | .throttleLift => true
  | .shutdownRestart => true
  | .thermalPiStep => true
  | .thermalEmergency zone => decide (zone < 8)
  | .kernelWatchdogExpiry core => decide (core < 4)
  | .coreFault core _ _ => decide (core < 4)
  | .serviceRestart service => decide (service < 8)
  | .coreRejoin core => decide (core < 4)
  | .logConfig _ => true
  | .logAppend core service level _ _ _ => decide (core < 4) && decide (service < 8) && decide (level < 4)
  | .traceRing _ => true
  | .traceMask _ => true
  | .traceOff _ => true
  | .traceAppend core point _ => decide (core < 4) && decide (point < 1024)
  | .mbxSubmitJob tag => decide (tag < 64)
  | .mbxPreempt tag => decide (tag < 64)
  | .mbxAbort tag => decide (tag < 64)
  | .mbxHint tag => decide (tag < 64)
  | .mbxAttest tag => decide (tag < 64)
  | .mbxRandom tag => decide (tag < 64)
  | .mbxLoadModel tag => decide (tag < 64)
  | .mbxUnloadModel tag => decide (tag < 64)
  | .mbxUnknownCommand tag mailbox => decide (tag < 64) && decide (mailbox < 4)
  | .hostRequest port bar pasid off _ _ _ => decide (port < 2) && decide (bar < 6) && pasid.all (fun x => decide (x < 2 ^ 20)) && decide (off < 2 ^ 64)
  | .msiWindowWrite master tag port vector => Machine.listedMaster master && decide (tag < 64) && decide (port < 2) && decide (vector < 2048)
  | .twinLinkUp gbps => decide (gbps < 65536)
  | .twinHello twinId role nonce => decide (twinId < 256) && decide (role < 256) && decide (nonce.length = 32)
  | .twinReport report => decide (report.length = 672)
  | .twinPaired => true
  | .pairFault cause => decide (cause < 256)
  | .pairRetry => true
  | .heartbeatTick => true
  | .heartbeatRx _ => true
  | .heartbeatWindow => true
  | .checkpointTrigger channel => decide (channel < 16)
  | .ckptStart channel _ _ data => decide (channel < 16) && decide (data.length ≤ 0x4000000)
  | .ckptAck channel status _ => decide (channel < 16) && decide (status < 65536)
  | .detach tag => decide (tag < 64)
  | .detachReq => true
  | .detachAck => true
  | .carryEnd tag => decide (tag < 64)
  | .recReq offset len => decide (offset < 2 ^ 32) && decide (len < 2 ^ 32)
  | .recData offset data => decide (offset < 2 ^ 32) && decide (data.length < 2 ^ 32)
  | .recEnd len => decide (len < 2 ^ 32)
  | .bridgeWrite master tag addr ns _ => Machine.listedMaster master && decide (tag < 64) && decide (addr < 2 ^ 48) && decide (ns < 2 ^ 32)
  | .bridgeRead master tag addr _ => Machine.listedMaster master && decide (tag < 64) && decide (addr < 2 ^ 48)
  | .bridgeReadFetched => true
  | .bridgeReadDiscard => true
  | .announceTick => true
  | .announcement _ => true
  | .refSilent => true
  | .domainStage _ => true
  | .domainSwitch _ => true
  | .domainSwitchCancel _ => true
  | .domainSwitchTime => true
  | .ethFrameRx port _ => decide (port < 8)
  | .ethFrameTx port => decide (port < 11)
  | .gateInterval port => decide (port < 8)
  | .netDmaTail tag ring _ => decide (tag < 64) && decide (ring < 16)
  | .canFrameRx controller _ _ flags sdt vcid _ data => decide (controller < 16) && decide (flags < 16) && decide (sdt < 256) && decide (vcid < 256) && decide (data.length ≤ 2048)
  | .canTxTail tag controller _ => decide (tag < 64) && decide (controller < 16)
  | .canArbitration controller _ => decide (controller < 16)
  | .ptpSyncRx port _ seconds nanos corr => decide (port < 8) && decide (seconds < 2 ^ 48) && decide (nanos < 1000000000) && decide (corr < 2 ^ 63)
  | .ptpSyncTx port => decide (port < 8)
  | .pdelayReq port _ seq peer => decide (port < 8) && decide (seq < 65536) && decide (peer.length = 10)
  | .gmLoss => true
  | .holdoverExpiry => true
  | .netTimeRead master tag => Machine.listedMaster master && decide (tag < 64)
  | .aonPowerLoss => true
  | .linkDown port => decide (port < 2)
  | .ethLinkDown port => decide (port < 8)
  | .canBusOff controller _ _ => decide (controller < 16)
  | .gptpAnnounce port _ p1 cls acc var p2 _ steps => decide (port < 8) && decide (p1 < 256) && decide (cls < 256) && decide (acc < 256) && decide (var < 65536) && decide (p2 < 256) && decide (steps < 65536)
  | .pdelayResp port _ _ _ _ => decide (port < 8)
  | .frerReset stream => decide (stream < 64)

end Sys2Proof
end

