-- ==== Sys2Proof/Tests/Slice0.lean ====
section
/-!
SUPPORT. The package's own tests: ill-formed commands, one small step where it shows most, and states that meet the
hypotheses of the statements.
-/

namespace Sys2Proof.Tests

open Machine

set_option maxRecDepth 100000

/-- Slice 1 of the tests: tiles 0 and 1, one model-cache segment, sync objects 0 to 15, two rings, DRAM pages 16 to 31. -/
def tSlice : Slice := { ceiling := 0, pasid := 5, tiles := [0, 1], segments := [0], syncBase := 0, syncCount := 16, rings := 2, bwShare := 10, sust := 10, peak := 20, extents := [(16, 16)] }

/-- A started packet of slice `s` with opcode, slots and payload from byte 32 on. -/
def tPacket (s op slots : Nat) (payload : List Byte) : Packet :=
  { id := 0, slice := s, ring := 0, bytes := (leBytes 2 (op + (slots - 1) * 4096) ++ List.replicate 30 0 ++ payload ++ List.replicate (64 * slots - 32 - payload.length) 0), phase := .started }

/-- The part with slices 0 and 1 and one packet. -/
def tChip (p : Packet) : Chip := { packets := [p], slices := [(0, { tSlice with tiles := [2, 3], pasid := 1, syncBase := 16, segments := [256], extents := [(0, 16)] }), (1, tSlice)], owners := (List.range 32).map (fun i => (i, if i < 16 then 1 else 2)) }

def tState (c : Chip) : State := { chip := c }

/-- SLICE_CREATE of slice 2: tile 4, sync objects 32 to 39, one ring, no memory. -/
def tCreate : Packet := tPacket 0 0x800 3 ([2, 1, 0, 0] ++ leBytes 4 9 ++ leBytes 8 16 ++ List.replicate 40 0 ++ leBytes 2 32 ++ leBytes 2 8 ++ [1, 10, 0, 0] ++ leBytes 2 4 ++ leBytes 2 8)

/-- Slice 1's ring 0 is live with 16 slots, its tail past one NOP that stands in memory. -/
def tFetch : Chip :=
  let c : Chip := { slices := [(1, tSlice)], owners := (List.range 32).map (fun i => (i, 2)), mem := [(0x100000, 0x10)], validBlocks := [16], rings := [(16, { tail := 1 })] }
  let c := ((c.setReg (SQ_CTRL 1 0) (2 ^ 31 + 4)).setReg (RING_STATUS 1 0) 1).setReg (SQ_BASE 1 0) 0x100000
  ((c.setReg (ACC_WIN_BASE 0 0) 1).setReg (ACC_WIN_LIMIT 0 0) 0x100000000).setReg (ACC_ENTRY 0 0x30) 0x30000

/-- MEM_FILL of 64 bytes of slice 1. -/
def tFill : Packet := tPacket 1 0x101 1 (leBytes 8 0x100000 ++ leBytes 8 64 ++ leBytes 8 7)

/-- A tile instruction: opcode, unit, mode, operands, IMM, EXT; no waits and no tag. -/
def tIns (op unit mode dst a b c imm ext : Nat) : List Byte :=
  leBytes 1 op ++ leBytes 1 unit ++ leBytes 4 0 ++ leBytes 2 mode ++ leBytes 3 dst ++ leBytes 3 a ++ leBytes 3 b ++ leBytes 3 c ++ leBytes 4 imm ++ leBytes 8 ext

/-- It at the head of its queue. -/
def tQueued (b : List Byte) : TileIns := tiQueued {} b

/-- Tile 0 runs a program for slice 1. -/
def tTile (t : Tile) : Chip := Chip.setFld { tiles := [(0, { t with slice := 1, codeCount := 8 })], slices := [(1, tSlice)] } (TILE_STATUS 0) TILE_STATUS.STATE 1

/-- Operand descriptors: vector register `k`, accumulator `k`, tile memory at 64 × `k`. -/
def tV (k : Nat) : Nat := 2 * 2 ^ 22 + k
def tA (k : Nat) : Nat := 3 * 2 ^ 22 + k

def tVec (op mode imm : Nat) : TileIns := tQueued (tIns op 2 mode (tV 3) (tV 0) (tV 1) (tV 2) imm 0)
def tArr (op mode dst a imm ext : Nat) : TileIns := tQueued (tIns op 1 mode dst a (tV 1) (tV 2) imm ext)
def tMove (op dst a imm ext : Nat) : TileIns := tQueued (tIns op 3 0 dst a 0 0 imm ext)
def tCtl (op imm ext : Nat) : List Byte := tIns op 0 0 0 0 0 0 imm ext

/-- The chip after a computation of a unit. -/
def tAfter {α : Type} (m : TileM α) (c : Chip) : Chip := (m.run c).2
def tZ4 : List Byte := [0, 0, 0, 0]

/-- The windows of DRAM open to every master of group 0 and to the command processor. -/
def tOpen (c : Chip) : Chip :=
  let c := { c with owners := (List.range 32).map (fun i => (i, 2)) }
  ((((c.setReg (ACC_WIN_BASE 0 0) 1).setReg (ACC_WIN_LIMIT 0 0) 0x100000000).setReg (ACC_ENTRY 0 0x30) 0x30000).setReg (ACC_ENTRY 0 8) 0x30003)

/-- A SEND of four bytes at the head of tile 0's move queue. -/
def tSend : Chip := tOpen (tTile { moveQ := [tMove 0x41 0 (tV 0) 4 0x110000] })

/-- A model of slice 1, not resident, its image at 1 MiB. -/
def tModel : Model := { slice := 1, image := 0x100000, need := 1, imageBytes := 4096, hotBytes := 4096, hash := [] }

/-- Tile 0 asks for block 0 of its program. -/
def tFill0 : Chip := { tOpen (tTile { wanted := [0] }) with models := [(0, tModel)] }

/-- A Rill descriptor of mode `m` with COUNT 0. -/
def tRd (m : Nat) : List Byte :=
  let z := putAt (putAt (List.replicate 64 0) 0 [BitVec.ofNat 8 (m + if m = 2 then 16 else 0)]) 3 [1]
  match m with
  | 0 => putAt z 32 [1, 0, 0, 0, 1, 0, 1, 0, 1, 0, 1, 0]
  | 1 => putAt (putAt z 6 [1]) 36 [1]
  | 2 => putAt (putAt z 6 [1]) 36 [1]
  | 5 => putAt (putAt z 6 [1]) 32 [4, 0, 1]
  | 6 => z
  | 7 => putAt z 50 [1]
  | 8 => putAt (putAt z 6 [1]) 52 [0, 0, 0x80, 0x3F, 1, 0, 1, 0, 1, 1]
  | _ => putAt z 48 [1, 1, 1]

/-- Tile 0 with Rill 0 enabled on a list that begins with that descriptor. -/
def tRill (m : Nat) : Chip := { tTile { rills := [(0, { en := true })] } with mem := memWrite [] (tileAddr 0) (tRd m), validLines := [tileAddr 0 / 64] }
/-- Rill 0 of tile 0 with a descriptor whose requests have all completed. -/
def tDone : Chip := tTile { rills := [(0, { undone := [{ desc := 0, write := false, doneTag := some 2, countDst := some 64, count := 3, issued := true }] })] }

/-- A descriptor of an engine whose output is empty. -/
def tDesc (op : Nat) : List Byte :=
  let z : List Byte := List.replicate 128 0
  if op = 5 then putAt z 0 ([5, 0, 0, 0, 1, 0, 1, 0, 1, 0, 1, 1])
  else
    let f : List Byte := if op = 3 then [0, 0] else [0x22, 2]
    putAt (putAt z 0 ([BitVec.ofNat 8 op, 0] ++ f ++ [0, 0x11, 1, 1, 1, 1])) 16 [1, 0, 1, 0, if op = 0 then 1 else 0]

/-- Engine `e` of group 0 has a list whose first descriptor is that one. -/
def tEngine (e op : Nat) : Chip :=
  { tOpen (tTile {}) with models := [(0, tModel)], engines := [(e, { active := true, slice := 1 })], mem := memWrite [] 0x100000 (tDesc op), validBlocks := [16] }

/-- An image of one variant of one tile: a header, one variant, a program entry, an instruction. -/
def tImage : List Byte :=
  putAt (putAt (putAt (putAt (List.replicate 576 0) 0 ([0x54, 0x4C, 0x54, 0x4D, 1, 0, 1, 0] ++ leBytes 4 576 ++ leBytes 4 576)) 128 ([1, 0] ++ leBytes 2 4 ++ leBytes 4 7 ++ leBytes 4 512)) 512 (leBytes 4 544 ++ leBytes 2 1)) 544 [0]

def tVariant : Variant := parseVariant tImage 0
def tRunModel : Model := { tModel with imageBytes := 576, hotBytes := 576, variants := [tVariant] }

/-- The part with a model's image at 1 MiB and a packet. -/
def tModels (p : Packet) (ms : AMap Model) : Chip :=
  { tOpen (tTile {}) with packets := [p], models := ms, slices := [(1, { tSlice with extents := [(0, 32)] })], mem := memWrite [] 0x100000 tImage, validBlocks := [16] }

/-- JOB_RUN of model 0 on one tile, class 0 of a Safety model. -/
def tJobRun : Packet := tPacket 1 0x210 2 (leBytes 2 1024 ++ [1, 0] ++ leBytes 4 0 ++ leBytes 8 0x110000)
def tChan : Chan := { model := 0, variant := 0, first := 0, tiles := 1, units := 4, ioTable := 0x110000 }
def tJob : Job := { id := 0, kind := .run, slice := 1, ring := 0, seq := 0, cls := 1, seed := 0, ioCount := 0, release := some 0, arrival := 0, chans := [tChan], saveBase := 0x180000 }
def tJobs (j : Job) : Chip := { tModels tJobRun [(0, tRunModel)] with jobs := [j], capacity := 64 * 2 ^ 30 }
def tRegister (flags want : Nat) : Packet := tPacket 1 0x200 2 (leBytes 8 0x100000 ++ leBytes 4 576 ++ leBytes 4 flags ++ leBytes 2 want)
def tNamed (op k : Nat) : Packet := tPacket 1 op 1 (leBytes 2 1024 ++ [BitVec.ofNat 8 k])
/-- A JOB_RUN at its ring's head that waits on its header wait, with release 5. -/
def tPend : Packet := { tJobRun with phase := .fetched, bytes := putAt (putAt tJobRun.bytes 2 [1]) 49 [1, 0, 0, 0, 0, 0, 0, 5] }
def tSavingJob : Job := { tJob with phase := .saving, chans := [{ tChan with tiles := 0 }] }
def tSaving : State := tState (Chip.setReg { tJobs tSavingJob with validBlocks := [16, 24] } (ACC_ENTRY 0 0x30) 0x30003)
def tRestoringJob : Job := { tJob with phase := .restoring, chans := [{ tChan with tiles := 0 }] }
def tRestoring : State := tState (Chip.setReg { tJobs tRestoringJob with validBlocks := [16, 24] } (ACC_ENTRY 0 0x30) 0x30003)
theorem tRan {α β : Type} {x : α × β} {a : α} (h : x.1 = a) : x = (a, x.2) := Prod.ext h rfl
theorem tPair {α β γ : Type} (x : α × β × γ) : x = (x.1, x.2.1, x.2.2) := rfl
def tSafeImage : List Byte := putAt tImage 16 [1]
def tSafeReg : Chip := { tModels (tRegister 2 0x3FF) [] with mem := memWrite [] 0x100000 tSafeImage }
def tUnread : Chip := { tModels (tRegister 0 0x3FF) [] with regs := [] }
def tHashed : Model := { tRunModel with hash := leBytes 48 (Config.sha384 tImage).toNat }
theorem tHashed_good : badImage false tImage tHashed.hash = false := by simp [badImage, tHashed]
/-- A packet with the policy payload of FUSE_POLICY: POLICY, INDEX, RELEASE and the rest from byte 35 on. -/
def tPolicy (policy index release : Nat) (rest : List Byte) : Packet := tPacket 1 0x301 2 ([BitVec.ofNat 8 policy, BitVec.ofNat 8 index, BitVec.ofNat 8 release] ++ rest)
/-- FUSE_STREAM_OPEN of an inject stream 3 of slice 1, context 0. -/
def tOpenP : Packet := tPacket 1 0x300 4 (putAt (putAt (putAt (putAt (List.replicate 224 0) 0 [3, 4]) 40 (leBytes 8 0x110000 ++ leBytes 4 64 ++ [2])) 56 (leBytes 8 0x120000 ++ [4])) 144 (leBytes 8 0x130000 ++ [4]))
/-- A stream of that kind: stream 3. -/
def tStream : FuseStream := { slice := 1, desc := tOpenP.bytes, opened := 0 }
def tCtx : AlignCtx := { slice := 1, base := 0x140000, log2 := 4, obj := 1, extrap := 0, wait := 0 }
def tCfl (p : Packet) (k : FuseStream) : Chip :=
  { (tOpen (tTile {})).setReg (ACC_ENTRY 0 0x18) 3 with packets := [p], slices := [(1, { tSlice with extents := [(0, 32)] })], validBlocks := [16, 17, 19], cfl := { streams := [(3, k)], contexts := [(0, tCtx)] } }
/-- Trigger 2 enabled with an edge due. -/
def tTrig : Chip := ((Chip.setFld { now := 100 } (CFL_TRIG_CTRL 2) CFL_TRIG_CTRL.EN 1).setReg (CFL_TRIG_NEXT 2) 50).setReg (CFL_TRIG_PERIOD 2) 1000
/-- A camera stream of 4 by 2 RAW8 pixels with a frame open. -/
def tCam : FuseStream := { tStream with desc := putAt (putAt tOpenP.bytes 33 [0]) 64 [4, 0, 2, 0, 0x2A], frames := [{ edge := 0, validity := 10, buf := 0 }] }
def tLidar : FuseStream := { tStream with desc := putAt (putAt tOpenP.bytes 33 [1]) 64 [1, 0, 1, 0], frames := [{ edge := 0, validity := 10, buf := 0 }] }
def tImu : FuseStream := { tStream with desc := putAt (putAt tOpenP.bytes 33 [2]) 176 (List.replicate 12 0), frames := [{ edge := 0, validity := 10, buf := 0 }] }
/-- POLICY 1: grid 0, one cell of one FP32 feature, in two buffers. -/
def tGridP : Packet := tPolicy 1 0 0 (List.replicate 5 0 ++ leBytes 8 0x110000 ++ [2, 0, 1, 0xC, 1, 0, 1, 0] ++ leBytes 4 0x3F800000 ++ List.replicate 8 0 ++ [0, 0, 0, 0] ++ leBytes 4 0 ++ [1, 0, 0, 0] ++ leBytes 8 0x120000 ++ [4])
/-- POLICY 2: a tracker of one track. -/
def tTrackP : Packet := tPolicy 2 0 0 (List.replicate 5 0 ++ leBytes 8 0x110000 ++ [2, 0, 0, 1] ++ List.replicate 16 0 ++ [1, 0, 1, 0] ++ leBytes 8 0x120000 ++ [4, 1])
/-- A grid of slice 1 anchored on stream 3, with a contribution of that stream waiting. -/
def tGrid : Grid := { slice := 1, policy := putAt (tGridP.bytes.drop 32) 37 [3] }
def tFeed : FuseStream := { tStream with desc := putAt tOpenP.bytes 36 [128, 1] }
def tPose : Pose := { v := [0, 0, 0, 0, 0, 0] }
def tContrib (l2 : Bool) : Contrib := { stream := 3, validity := 5, oldest := 5, seq := 0, data := 0x120000, items := 0, l2 := l2, arrived := 0, quality := 0, pose := some tPose }
def tTracker : Tracker := { slice := 1, policy := putAt (tTrackP.bytes.drop 32) 18 [3] }
def tLevel : Chip := { tCfl tOpenP tFeed with cfl := { streams := [(3, tFeed)], contexts := [(0, tCtx)], grids := [(0, tGrid)], tracker := some tTracker, waiting := [tContrib false, tContrib true] } }
/-- The same, with a late contribution for a cycle before it. -/
def tStale : Chip := { tLevel with cfl := { tLevel.cfl with grids := [(0, { tGrid with cycle := { v := some 9, before := some 7 } })], tracker := some { tTracker with cycle := { v := some 9, before := some 7 } }, late := [tContrib false, tContrib true] } }
def tLateG : Chip := { tLevel with cfl := { tLevel.cfl with grids := [(0, { tGrid with cycle := { v := some 9, inputs := [tContrib false] } })], tracker := some { tTracker with cycle := { v := some 9, inputs := [tContrib true] } }, late := [tContrib false, tContrib true] }, now := 1000, syncs := [(1, 1)] }
def tCutCam (last : Option (Nat × Nat)) : FuseStream := { tCam with last := last, frames := [{ edge := 0, validity := 10, buf := 0, cut := true, ended := true }] }
/-- An ALE parameter block: one reference, microphone and speaker on port 0, 16 taps each, control filters from zero. -/
def tAle : List Byte :=
  putAt (putAt (putAt (putAt (putAt (putAt (putAt (putAt (List.replicate 256 0) 0 (leBytes 4 0x414C4550 ++ [1, 1, 1, 1] ++ leBytes 2 16 ++ leBytes 2 16 ++ [5])) 28 (leBytes 4 1 ++ leBytes 4 0 ++ leBytes 4 1))
    40 ([0, 0] ++ List.replicate 30 0xFF)) 72 ([1, 0] ++ List.replicate 14 0xFF)) 88 ([0, 0] ++ List.replicate 14 0xFF)) 105 [16]) 108 (List.replicate 32 0xFF)) 140 (leBytes 8 0x120000 ++ [4, 0, 1, 0] ++ leBytes 4 480)
/-- A capture ring of slot 0 of port 0 with 48-sample blocks, its buffers at 1.0625 MiB. -/
def tRingD (play : Bool) : List Byte :=
  putAt (putAt (List.replicate 64 0xFF) 0 (leBytes 8 0x110000 ++ [2, 1] ++ leBytes 2 48 ++ leBytes 2 1 ++ [4, if play then 1 else 0] ++ leBytes 8 0x120000 ++ leBytes 8 0)) 32 [0, 0]
/-- The engine of slice 1 with a block and a descriptor in memory. -/
def tSound (b : List Byte) : Chip :=
  let c : Chip := { tOpen (tTile {}) with slices := [(1, { tSlice with extents := [(0, 32)] })], validBlocks := [16, 17, 18], mem := memWrite [] 0x100000 b }
  let c := (c.setReg (ACC_ENTRY 0 0x1A) 3).setFld (ACC_MST_CTX aleMaster) ACC_MST_CTX.SLICE_TAG 1
  c.setFld (ALE_PORT_CFG 0) ALE_PORT_CFG.EN 1
/-- The part Active, with slice 0, whose engine it then is. -/
def tSoundOn (c : Chip) : Chip := { c with power := { mode := .active }, slices := [(0, tSlice)] }
/-- A part that drains for a restart. -/
def tLeave : Leaving := { op := 4, packet := none, slice := 0, ring := 0, deadline := none }
def tRing (play : Bool) : AleRing := { desc := tRingD play, first := 0 }
def tRings (r : AleRing) : Chip := { tSound [] with now := 1000000000, ale := { rings := [(0, r)] } }
/-- GFX_PASS of one list and no attachment, 32 by 32 pixels, class 1, bins from 0 on. -/
def tGfx : Packet := tPacket 1 0x4400 4 (putAt (List.replicate 224 0) 0 (leBytes 8 0x100000 ++ [1, 0, 0, 0, 32, 0, 32, 0] ++ leBytes 8 0 ++ leBytes 4 0x200000 ++ [1, 0]))
def tLists : List Byte := putAt (List.replicate 128 0) 0 (leBytes 8 0x100040 ++ List.replicate 56 0 ++ leBytes 4 0x4C444E46 ++ [3, 0, 0, 0] ++ leBytes 4 16)
def tGfxC (p : Packet) : Chip := { tOpen (tTile {}) with packets := [p], slices := [(1, { tSlice with extents := [(0, 32)] })], mem := memWrite [] 0x100000 tLists, validBlocks := [16] }
def tPass : Pass := tGfx.pass 0
def tPasses (l : List Pass) (r : Option Nat) : Chip :=
  { tGfxC tGfx with gfx := { passes := l, rendering := r, started := 2 }, sluice := { grants := [{ who := .pass 0, units := 1, slice := some 1, cls := 1 }] } }
def tPassR : Pass := { tPass with phase := .render }
def tPassB : Pass := { tPass with id := 1, order := 1, phase := .render, cls := 2 }
/-- A paused pass with a primitive in tile 0, and a fragment of it with a texture sample of no format. -/
def tFlushBad : Pass := { tPass with phase := .geometry, rest := [([1], 0, [])], held := [([0], [0])] }
def tFragBad : List FragWord := [⟨0, 0, [0], 0, [[]]⟩]
/-- A Weir profile of one FP32 tensor of one element, of the given mode. -/
def tProf (mode : Nat) : List Byte := putAt (List.replicate 544 0) 0 (leBytes 4 0x57454952 ++ [1] ++ List.replicate 27 0 ++ [BitVec.ofNat 8 mode, 0, 0xC, 0] ++ leBytes 4 0 ++ leBytes 4 1)
/-- SAFE_PROFILE_SET with an operation and what follows it. -/
def tSafeP (l : List Byte) : Packet := tPacket 0 0x500 2 l
/-- OUTPUT_SET of output 0, slice 1, group 1, armed; its profile at 64 KiB, its records at 1 MiB. -/
def tOutP : Packet := tSafeP ([0, 0, 1, 9] ++ leBytes 4 1000000 ++ leBytes 8 1000000 ++ leBytes 8 0x10000 ++ leBytes 8 0x100000 ++ [4, 0, 1, 0])
def tIsland (p : Packet) : Chip := { (tOpen (tTile {})).setReg (ACC_ENTRY 0 0x24) 3 with packets := [p], slices := (tChip p).slices, owners := (tChip p).owners, mem := memWrite [] 0x10000 (tProf 1), validBlocks := [1, 16] }
def tOutput (mode : Nat) : Output := { slice := 1, group := 1, shadow := false, arm := true, armed := true, period := 1000000, first := 0, profile := tProf mode, recBase := 0x100000, recLog2 := 4, signalObj := 1 }
def tOut (mode : Nat) : Chip := { tIsland tOutP with safe := { outputs := [(0, tOutput mode)] } }
def tDivJob : Job := { tJob with kind := .diverse 0 0 0, cls := 0, phase := .weir, chans := [{ tChan with bindings := [(0x100100, 4)] }, { tChan with bindings := [(0x100140, 4)] }] }
/-- A Safety job before Weir whose channels hold 1.0 and 2.0. -/
def tWeir (mode : Nat) : Chip := { tOut mode with jobs := [tDivJob], weir := [0], mem := memWrite (memWrite [] 0x100100 (leBytes 4 0x3F800000)) 0x100140 (leBytes 4 0x40000000) }
/-- JOB_RUN_DIVERSE of model 0 on group 0 and model 1 on group 1 for output 0. -/
def tDivP : Packet := tPacket 1 0x211 2 (leBytes 2 1024 ++ [1, 1] ++ leBytes 2 1025 ++ [0, 0] ++ leBytes 4 0 ++ leBytes 4 0 ++ leBytes 8 0x110000 ++ leBytes 8 0x110000)
def tDiv : Chip := { tModels tDivP [(0, { tRunModel with safety := true }), (1, { tRunModel with safety := true, variants := [{ tVariant with first := 16 }] })] with safe := { outputs := [(0, { tOutput 0 with profile := [] })] } }
/-- A group in its safe state. -/
def tSafe (f : Nat) (c : Chip) : Chip := c.setFld SAF_GROUP_STATE SAF_GROUP_STATE.SAFE (2 ^ f)
/-- GOLDEN_SCHEDULE with an operation: entry 0 on group 0, its descriptor at 64 KiB. -/
def tGoldP (op : Nat) : Packet := tPacket 0 0x502 2 (putAt (List.replicate 96 0) 0 ([0, BitVec.ofNat 8 op] ++ leBytes 2 1 ++ leBytes 4 0 ++ leBytes 8 0x10000))
def tGoldD : List Byte := putAt (List.replicate 128 0) 0 (leBytes 4 0x474C4446 ++ [0, 0, 1, 0])
def tGoldE : Golden := { groups := 1, interval := 1000, diag := 3000, defer := 100, desc := tGoldD }
def tGolden (op : Nat) : Chip := { tIsland (tGoldP op) with mem := memWrite [] 0x10000 tGoldD, selfTest := { golden := [(0, tGoldE)], goldenGroups := [(0, { due := 0, since := 0 })] } }
def tGoldC (js : List Job) : Chip := { tGolden 0 with models := [(0, { tRunModel with slice := 0 })], jobs := js }
def tGoldJob (end_ : Option (Nat × Nat)) : Job := { tJob with kind := .golden 0 0, slice := 0, phase := .running, chans := [{ tChan with ended := end_, tiles := 0, holding := true, bindings := [(0x10000, 64)] }] }
def tStP (op index : Nat) : Packet := tPacket 0 0x501 1 [BitVec.ofNat 8 op, BitVec.ofNat 8 index]
def tStC (op index : Nat) : Chip := tIsland (tStP op index)
/-- A slice of tile 0 under way, at a step. -/
def tSt (step : Nat) (fail : Option Nat) : Chip := { tTile {} with selfTest := { tests := [(0, { step := step, running := true, firstFail := fail })] } }
/-- Hart 0 in M-mode with a parameter block of zeros at 1 MiB, slice 0; the open gateway entries as the firmware gives them. -/
def tGate : State :=
  { chip := { ((tOpen (tTile {})).setReg (ACC_ENTRY 0 0) 3) with slices := (tChip tFill).slices, owners := (List.range 32).map (fun i => (i, 1)), mem := [], validBlocks := [16], capacity := 64 * 2 ^ 30 },
    sec := { entries := [0x40, 0x50, 0x51, 0x52].map (fun e => { entry := e, cls := e / 16 - 3, modes := 0b1111, callers := 0b111, pin := 8, pout := 8 }) } }
def tG (e : Nat) : GateEntry := (tGate.sec.entry? e).getD { entry := e, cls := 0, modes := 0, callers := 0, pin := 0, pout := 0 }
/-- A read or a write of a sector of block 16 that waits in its channel. -/
def tReq (id : Nat) (write : Bool) : DramReq := { id := id, seq := id, master := 0, tag := 1, world := 0, cls := 1, addr := 0x100000, len := 64, write := write, data := List.replicate 64 1 }
def tMem (l : List DramReq) (blocks : List Nat) : Chip := { dramQueue := l, validBlocks := blocks }
def tFillQ : Fill := { block := 16, slice := 1, cls := 1, waiting := [tReq 0 true] }
/-- POWER_HINT: an operation, a block mask, a drain in µs, a time, a group mask. -/
def tHint (op mask us t groups : Nat) : Packet := tPacket 0 0x600 1 ([BitVec.ofNat 8 op, 0] ++ leBytes 2 mask ++ leBytes 4 us ++ leBytes 8 t ++ leBytes 2 groups)
def tPower (op mask us t groups : Nat) : Chip := tChip (tHint op mask us t groups)
def tPw (w : Power) : State := { chip := { now := 10 ^ 10, power := w } }
def tCold (w : Power) : State := { chip := Chip.setFld { now := 10 ^ 10, power := w } AON_START_STATUS AON_START_STATUS.WARM 0 }
def tLogP (b : List Byte) : Packet := tPacket 0 0x700 1 b
def tTraceP (b : List Byte) : Packet := tPacket 0 0x701 1 b
/-- Mailbox m holds a command, the forerunner personality is on, and the descriptor at address 0 of slice 0 can be read. -/
def tMbx (m cmd : Nat) : State :=
  tState (Chip.setFld { (tOpen (tTile {})).setReg (ACC_ENTRY 0 0x29) 0x30000 with slices := (tChip tFill).slices, owners := (List.range 32).map (fun i => (i, 1)), power := { profile := List.replicate 7 0 ++ [2] } } (MBX_CMD m) MBX_CMD.CMD cmd)
/-- Hart 0 and host port 0 may reach DRAM, the NET block and the always-on window; an access entry of slice 0. -/
def tMesh : State :=
  let c : Chip := { (tOpen (tTile {})) with slices := (tChip tFill).slices, owners := (List.range 32).map (fun i => (i, 1)), validBlocks := [16], capacity := 64 * 2 ^ 30, power := { mode := .active } }
  tState ([0, 28, 42, 49].foldl (fun c t => ((((c.setReg (ACC_WIN_BASE t 0) 1).setReg (ACC_WIN_LIMIT t 0) 0x7FFFFFFF0000).setReg (ACC_ENTRY t 0) 0x30003).setReg (ACC_ENTRY t 44) 0x30003)) c)
def tMq (a : Nat) (w : Bool) : Req := { master := 0, tag := 0, addr := a, len := 4, write := w }
/-- An active part whose profile gives it the twin role 1, port 0 up, its pairing in a state. -/
def tTwin (st : Nat) : Chip :=
  let c : Chip := { tOpen (tTile {}) with power := { mode := .active, profile := List.replicate 7 0 ++ [4] } }
  ((c.setFld (LNK_PORT_STATUS 0) LNK_PORT_STATUS.MODE pmTwin).setFld (LNK_PORT_STATUS 0) LNK_PORT_STATUS.UP 1).setTwin st
def tRecover : Chip := ((Chip.setFld { power := { mode := .recovery } } (LNK_PORT_STATUS 0) LNK_PORT_STATUS.MODE pmRecovery).setFld (LNK_PORT_STATUS 0) LNK_PORT_STATUS.UP 1).setFld REC_STATUS REC_STATUS.STATE 0
/-- A switch image of eight plain ports, with an FDB of none and gPTP on every port, its entry PTP of 200 on. -/
def tSwitch : List Byte := putAt (putAt (putAt (List.replicate 232 0) 8 (leBytes 4 72 ++ leBytes 4 8)) 64 (leBytes 4 200 ++ leBytes 4 1)) 206 [0xFF]
def tNet : Chip := Chip.setFld { tOpen (tTile {}) with power := { mode := .active }, net := { image := tSwitch } } (NET_PORT_STATUS 0) NET_PORT_STATUS.UP 1
def tFrame : EthFrame := { head := List.replicate 12 0, vid := 1, pcp := 0, body := [0x08, 0, 1] }
def tSlave : Chip := tNet.setFld NET_TIME_STATUS NET_TIME_STATUS.SLAVE_PORT 0
def tMaster : Chip := (((tNet.setFld NET_TIME_STATUS NET_TIME_STATUS.SLAVE_PORT 0xFF).setFld NET_TIME_STATUS NET_TIME_STATUS.GRANDMASTER 1).setFld (NET_PORT_STATUS 0) NET_PORT_STATUS.PTP_STATE 1)
def tCan : Chip := (tNet.setFld (CAN_CTRL 0) CAN_CTRL.EN 1).setFld (CAN_STATUS 0) CAN_STATUS.STATE 0
def tCanF : CanFrame := { idw := 5, flags := 0, data := [1] }
/-- A clock identity that is not the part's. -/
def tGm : W64 := Config.clockIdentity + 1
theorem tGm_other : tGm.toNat ≠ Config.clockIdentity.toNat := by
  intro h; have e := BitVec.eq_of_toNat_eq h; unfold tGm at e; exact absurd e (by bv_omega)
def tStage (epoch : Nat) : Packet := tPacket 0 0x900 2 (leBytes 8 epoch ++ leBytes 8 0x10000 ++ leBytes 4 8)
def tDom (p : Packet) : Chip := { tIsland p with power := { mode := .active } }
def tSw (epoch time : Nat) : Packet := tPacket 0 0x901 1 (leBytes 8 epoch ++ leBytes 8 time)
def tStaged : Staged := { epoch := 5, models := [], payloads := [], image := none, digest := [] }
/-- The part with 64 KiB of DRAM and window 0 of target 0 off, window 1 over its first two pages; master 0x4C may read through it. -/
def tWinChip : Chip := (((({ capacity := 65536 } : Chip).setReg (ACC_WIN_BASE 0 1) 1).setReg (ACC_WIN_LIMIT 0 1) 0x1000).setReg (ACC_ENTRY 0 0x26) 4)
/-- Tile 2 of slice 5; the TILE block open to master 0x4C through window 0. -/
def tTileRegs : Chip :=
  let c : Chip := { tiles := [(2, { slice := 5 })], slices := [(5, { tSlice with tiles := [2] })] }
  (((c.setReg (ACC_WIN_BASE 28 0) 1).setReg (ACC_WIN_LIMIT 28 0) 0x7FFFFFFF0000).setReg (ACC_ENTRY 28 0x26) 3)

/-- Target `t` open to masters `m` and `m + 1`, `m` even, over the whole address space. -/
def tReach (t m : Nat) (c : Chip) : Chip :=
  ((c.setReg (ACC_WIN_BASE t 0) 1).setReg (ACC_WIN_LIMIT t 0) 0x7FFFFFFF0000).setReg (ACC_ENTRY t (m / 2)) 0x30003

/-- The access registers open to the control cores and to the security core. -/
def tAcc : Chip := tReach 45 0x4C (tReach 45 0x50 (tReach 45 0x52 {}))

/-- Tile 2 of slice 5, and target `t` open to masters 0x4C and 0x4D. -/
def tRegs (t : Nat) : Chip := tReach t 0x4C { tiles := [(2, { slice := 5 })], slices := [(5, { tSlice with tiles := [2] })] }


/-- States and operands that meet the hypotheses of SliceCreateMakesTheSlice. -/
theorem test_SliceCreateMakesTheSlice_meets :
    (∃ (s : State) (p : Packet) (n : Nat), (s.chip.startedAs p 0x800) ∧ (s.chip.createBad false (parseCreate (p.bytes.drop 32)) = false) ∧ (s.chip.createShort false (parseCreate (p.bytes.drop 32)) = false) ∧ (((parseCreate (p.bytes.drop 32)).number ≠ 0xFF ∧ n = (parseCreate (p.bytes.drop 32)).number) ∨ ((parseCreate (p.bytes.drop 32)).number = 0xFF ∧ (List.range 64).find? (fun i => i != 0 && (s.chip.slice? i).isNone) = some n)) ∧ (s.part.ownersFree (parseCreate (p.bytes.drop 32)).extents = true)) ∧
    (∃ (s : State) (p : Packet), (s.chip.startedAs p 0x800) ∧ (s.chip.createBad false (parseCreate (p.bytes.drop 32)) = false) ∧ (s.chip.createShort false (parseCreate (p.bytes.drop 32)) = false) ∧ (s.part.ownersFree (parseCreate (p.bytes.drop 32)).extents = false)) ∧
    (∃ (s : State) (p : Packet), (s.chip.startedAs p 0x800) ∧ (s.chip.createBad false (parseCreate (p.bytes.drop 32)) = true)) ∧
    (∃ (s : State) (p : Packet), (s.chip.startedAs p 0x800) ∧ (s.chip.createBad false (parseCreate (p.bytes.drop 32)) = false) ∧ (s.chip.createShort false (parseCreate (p.bytes.drop 32)) = true)) ∧
    (∃ (s : State) (p : Packet), (s.chip.startedAs p 0x801) ∧ (0 < p.u 32 1) ∧ (p.u 32 1 < 64) ∧ (p.u 33 1 ≤ 1) ∧ (p.u 34 2 = 0) ∧ (p.u 36 4 ≤ 1000000) ∧ (zeroIn p.bytes 40 64 = true) ∧ ((s.chip.slice? (p.u 32 1)).isSome = true) ∧ (s.chip.safe.outputs.any (fun o => o.2.slice == p.u 32 1 && o.2.armed) = false) ∧ (s.chip.destroys.find? (fun d => d.slice == p.u 32 1) = none)) ∧
    (∃ (s : State) (p : Packet) (d : Destroy), (s.chip.startedAs p 0x801) ∧ (0 < p.u 32 1) ∧ (p.u 32 1 < 64) ∧ (p.u 33 1 ≤ 1) ∧ (p.u 34 2 = 0) ∧ (p.u 36 4 ≤ 1000000) ∧ (zeroIn p.bytes 40 64 = true) ∧ ((s.chip.slice? (p.u 32 1)).isSome = true) ∧ (s.chip.safe.outputs.any (fun o => o.2.slice == p.u 32 1 && o.2.armed) = false) ∧ (s.chip.destroys.find? (fun d => d.slice == p.u 32 1) = some d)) ∧
    (∃ (s : State) (p : Packet), (s.chip.startedAs p 0x801) ∧ (64 ≤ p.u 32 1 ∨ p.u 32 1 = 0 ∨ 1 < p.u 33 1 ∨ p.u 34 2 ≠ 0 ∨ 1000000 < p.u 36 4 ∨ s.chip.slice? (p.u 32 1) = none ∨ s.chip.safe.outputs.any (fun o => o.2.slice == p.u 32 1 && o.2.armed) = true)) :=
  ⟨⟨tState (tChip tCreate), tCreate, 2, by decide⟩,
    ⟨{ chip := tChip tCreate, sec := { running := some { entry := 0x10, hart := 16, tag := 0, cls := 0, rd := 0, block := 0, len := 0 } } }, tCreate, by decide⟩,
    ⟨tState (tChip (tPacket 0 0x800 3 [])), tPacket 0 0x800 3 [], by decide⟩,
    ⟨tState (tChip { tCreate with bytes := putAt tCreate.bytes 40 [1] }), { tCreate with bytes := putAt tCreate.bytes 40 [1] }, by decide⟩,
    ⟨tState (tChip (tPacket 1 0x801 1 [1])), tPacket 1 0x801 1 [1], by decide⟩,
    ⟨tState { tChip (tPacket 1 0x801 1 [1]) with destroys := [{ slice := 1, packet := 7, invalidate := true }] }, tPacket 1 0x801 1 [1], { slice := 1, packet := 7, invalidate := true }, by decide⟩,
    ⟨tState (tChip (tPacket 1 0x801 1 [9])), tPacket 1 0x801 1 [9], by decide⟩⟩

/-- States and operands that meet the hypotheses of AccessCsrsAndTables, part 1 of 2. -/
theorem test_AccessCsrsAndTables_meets_1 :
    (∃ (hart : Nat) (mode : Nat), (mode = 0 ∨ (mode = 1 ∧ hart < 16))) ∧
    (∃ (hart : Nat) (mode : Nat), (mode ≠ 0) ∧ (mode ≠ 1 ∨ 16 ≤ hart)) ∧
    (∃ (hart : Nat) (mode : Nat), (hart < 16) ∧ (mode = 0 ∨ mode = 1)) ∧
    (∃ (s : State) (master : Nat) (slice : Nat) (v : W32), (0x50 ≤ master) ∧ (master ≤ 0x53) ∧ (slice < 64) ∧ (bitOf v.toNat 31 = false ∨ (List.range 64).any (fun i => i != slice && s.chip.flag (ACC_PASID_MAP i) ACC_PASID_MAP.VALID && s.chip.fld (ACC_PASID_MAP i) ACC_PASID_MAP.PASID == bitsOf v.toNat 19 0) = false) ∧ (({ s.chip with nextReq := s.chip.nextReq + 1 } : Chip).check { master := master, tag := 0, addr := (ACC_PASID_MAP slice).addr, len := 4, write := true } = none)) ∧
    (∃ (s : State) (master : Nat) (tag : Nat) (slice : Nat) (v : W32), (listedMaster master = true) ∧ (master < 0x50 ∨ 0x53 < master ∨ tag ≠ 0 ∨ (bitOf v.toNat 31 = true ∧ (List.range 64).any (fun i => i != slice && s.chip.flag (ACC_PASID_MAP i) ACC_PASID_MAP.VALID && s.chip.fld (ACC_PASID_MAP i) ACC_PASID_MAP.PASID == bitsOf v.toNat 19 0) = true)) ∧ (({ s.chip with nextReq := s.chip.nextReq + 1 } : Chip).check { master := master, tag := tag, addr := (ACC_PASID_MAP slice).addr, len := 4, write := true } = none)) ∧
    (∃ (s : State) (master : Nat) (tag : Nat) (target : Nat) (off : Nat), (target < 64) ∧ (listedMaster master = true) ∧ (master = 0x4C ∨ (tag = 0 ∧ target ≠ 38 ∧ target ≠ 45)) ∧ (off < 0x80) ∧ (off % 0x10 = 0) ∧ (({ s.chip with nextReq := s.chip.nextReq + 1 } : Chip).check { master := master, tag := tag, addr := blockAddr 20 + target * 0x1000 + off, len := 8, write := true } = none)) ∧
    (∃ (s : State) (master : Nat) (tag : Nat) (target : Nat) (off : Nat), (target < 64) ∧ (listedMaster master = true) ∧ (master = 0x4C ∨ (tag = 0 ∧ target ≠ 38 ∧ target ≠ 45)) ∧ (off < 0x80) ∧ (off % 0x10 = 8) ∧ (({ s.chip with nextReq := s.chip.nextReq + 1 } : Chip).check { master := master, tag := tag, addr := blockAddr 20 + target * 0x1000 + off, len := 8, write := true } = none)) ∧
    (∃ (s : State) (master : Nat) (tag : Nat) (target : Nat) (off : Nat), (target < 64) ∧ (listedMaster master = true) ∧ (master = 0x4C ∨ (tag = 0 ∧ target ≠ 38 ∧ target ≠ 45)) ∧ (0x200 ≤ off) ∧ (off < 0x400) ∧ (off % 4 = 0) ∧ (({ s.chip with nextReq := s.chip.nextReq + 1 } : Chip).check { master := master, tag := tag, addr := blockAddr 20 + target * 0x1000 + off, len := 4, write := true } = none)) :=
  ⟨⟨3, 1, by decide⟩,
    ⟨3, 2, by decide⟩,
    ⟨3, 1, by decide⟩,
    ⟨tState tAcc, 0x50, 1, 0x80000007, by decide⟩,
    ⟨tState tAcc, 0x4C, 0, 1, 7, by decide⟩,
    ⟨tState tAcc, 0x50, 0, 0, 16, by decide⟩,
    ⟨tState tAcc, 0x4C, 0, 38, 24, by decide⟩,
    ⟨tState tAcc, 0x4C, 0, 38, 0x204, by decide⟩⟩

/-- States and operands that meet the hypotheses of AccessCsrsAndTables, part 2 of 2. -/
theorem test_AccessCsrsAndTables_meets_2 :
    (∃ (s : State) (master : Nat) (tag : Nat) (target : Nat) (off : Nat), (listedMaster master = true) ∧ (master ≠ 0x4C) ∧ (tag ≠ 0 ∨ target = 38 ∨ target = 45) ∧ (({ s.chip with nextReq := s.chip.nextReq + 1 } : Chip).check { master := master, tag := tag, addr := blockAddr 20 + target * 0x1000 + off, len := if off < 0x200 then 8 else 4, write := true } = none)) ∧
    (∃ (s : State) (master : Nat) (tag : Nat) (target : Nat) (off : Nat) (slice : Nat) (d : Deny) (t : Nat), (listedMaster master = true) ∧ (({ s.chip with nextReq := s.chip.nextReq + 1 } : Chip).check { master := master, tag := tag, addr := blockAddr 20 + target * 0x1000 + off, len := if off < 0x200 then 8 else 4, write := true } = some (d, t)) ∧ (({ s.chip with nextReq := s.chip.nextReq + 1 } : Chip).check { master := master, tag := tag, addr := (ACC_PASID_MAP slice).addr, len := 4, write := true } = some (d, t))) ∧
    (∃ (master : Nat), (listedMaster master = false)) :=
  ⟨⟨tState tAcc, 0x50, 0, 38, 0, by decide⟩,
    ⟨tState {}, 0x50, 3, 1, 0, 1, .noWindow, 45, by decide⟩,
    ⟨0x20, by decide⟩⟩

/-- States and operands that meet the hypotheses of ClearingAndDirtyLog. -/
theorem test_ClearingAndDirtyLog_meets :
    (∃ (s : State) (p : Packet) (pl : Nat), (s.chip.startedAs p 0x102) ∧ (p.u 32 8 < 2 ^ 48) ∧ (p.u 40 8 < 2 ^ 48) ∧ (zeroIn p.bytes 48 64 = true) ∧ (s.chip.invalidatePlace (p.u 32 8) (p.u 40 8) = some pl) ∧ (s.chip.ownsRange p.slice pl (p.u 32 8) (p.u 40 8) = true)) ∧
    (∃ (s : State) (p : Packet) (pl : Nat), (s.chip.startedAs p 0x102) ∧ (p.u 32 8 < 2 ^ 48) ∧ (p.u 40 8 < 2 ^ 48) ∧ (zeroIn p.bytes 48 64 = true) ∧ (s.chip.invalidatePlace (p.u 32 8) (p.u 40 8) = some pl) ∧ (s.chip.ownsRange p.slice pl (p.u 32 8) (p.u 40 8) = false)) ∧
    (∃ (s : State) (p : Packet), (s.chip.startedAs p 0x102) ∧ (2 ^ 48 ≤ p.u 32 8 ∨ 2 ^ 48 ≤ p.u 40 8 ∨ zeroIn p.bytes 48 64 = false ∨ s.chip.invalidatePlace (p.u 32 8) (p.u 40 8) = none)) ∧
    (∃ (s : State) (p : Packet), (s.chip.packet? p.id = some p) ∧ (p.op = 0x102) ∧ (p.phase = .running) ∧ (p.u 32 8 < mcBase) ∧ (s.chip.dramBusy (p.u 32 8 / pageSize) (p.u 40 8 / pageSize) = false)) ∧
    (∃ (s : State) (p : Packet), (s.chip.packet? p.id = some p) ∧ (p.op = 0x102) ∧ (p.phase = .running) ∧ (mcBase ≤ p.u 32 8) ∧ (s.chip.rillBusy (p.u 32 8) (p.u 32 8 + p.u 40 8) = false)) ∧
    (∃ (s : State) (p : Packet), (s.chip.startedAs p 0x802) ∧ (p.u 33 1 = 0) ∧ (s.chip.dirtyLogBad p false = false)) ∧
    (∃ (s : State) (p : Packet), (s.chip.startedAs p 0x802) ∧ (p.u 33 1 = 1) ∧ (s.chip.dirtyLogBad p false = false)) ∧
    (∃ (s : State) (p : Packet), (s.chip.startedAs p 0x802) ∧ (p.u 33 1 = 2) ∧ (s.chip.dirtyLogBad p true = false)) :=
  ⟨⟨tState (tChip (tPacket 1 0x102 1 (leBytes 8 0x100000 ++ leBytes 8 0x10000))), tPacket 1 0x102 1 (leBytes 8 0x100000 ++ leBytes 8 0x10000), 0, by decide⟩,
    ⟨tState (tChip (tPacket 1 0x102 1 (leBytes 8 0x200000 ++ leBytes 8 0x10000))), tPacket 1 0x102 1 (leBytes 8 0x200000 ++ leBytes 8 0x10000), 0, by decide⟩,
    ⟨tState (tChip (tPacket 1 0x102 1 (leBytes 8 0x200001 ++ leBytes 8 0x10000))), tPacket 1 0x102 1 (leBytes 8 0x200001 ++ leBytes 8 0x10000), by decide⟩,
    ⟨tState (tChip { tPacket 1 0x102 1 (leBytes 8 0x200000 ++ leBytes 8 0x10000) with phase := .running }), { tPacket 1 0x102 1 (leBytes 8 0x200000 ++ leBytes 8 0x10000) with phase := .running }, by decide⟩,
    ⟨tState (tChip { tPacket 1 0x102 1 (leBytes 8 0x4000000000 ++ leBytes 8 64) with phase := .running }), { tPacket 1 0x102 1 (leBytes 8 0x4000000000 ++ leBytes 8 64) with phase := .running }, by decide⟩,
    ⟨tState (tChip (tPacket 0 0x802 2 ([1, 0, 0, 0, 0, 0, 0, 0] ++ leBytes 8 0x10000 ++ leBytes 8 32 ++ leBytes 8 0x20000))), tPacket 0 0x802 2 ([1, 0, 0, 0, 0, 0, 0, 0] ++ leBytes 8 0x10000 ++ leBytes 8 32 ++ leBytes 8 0x20000), by decide⟩,
    ⟨tState (tChip (tPacket 0 0x802 2 ([1, 1, 0, 0, 0, 0, 0, 0] ++ leBytes 8 0x10000 ++ leBytes 8 32 ++ leBytes 8 0x20000))), tPacket 0 0x802 2 ([1, 1, 0, 0, 0, 0, 0, 0] ++ leBytes 8 0x10000 ++ leBytes 8 32 ++ leBytes 8 0x20000), by decide⟩,
    ⟨tState (tChip (tPacket 0 0x802 2 ([1, 2, 0, 0, 0, 0, 0, 0] ++ leBytes 8 0x10000 ++ leBytes 8 32 ++ leBytes 8 0x20000))), tPacket 0 0x802 2 ([1, 2, 0, 0, 0, 0, 0, 0] ++ leBytes 8 0x10000 ++ leBytes 8 32 ++ leBytes 8 0x20000), by decide⟩⟩

/-- States and operands that meet the hypotheses of FunctionsDrainAndReturn, part 1 of 2. -/
theorem test_FunctionsDrainAndReturn_meets_1 :
    (∃ (s : State) (p : Packet), (s.chip.startedAs p 0x803) ∧ (p.u 32 1 < 64) ∧ (p.u 33 1 = 0) ∧ (p.u 34 2 < 64) ∧ (p.u 36 4 ≤ 1000000) ∧ (zeroIn p.bytes 40 64 = true) ∧ ((s.chip.slice? (p.u 32 1)).isSome = true) ∧ (p.u 34 2 = 0 ∨ p.u 34 2 &&& (63 ^^^ (s.chip.draining (p.u 32 1) &&& 63)) ≠ 0)) ∧
    (∃ (s : State) (p : Packet), (s.chip.startedAs p 0x803) ∧ (p.u 32 1 < 64) ∧ (p.u 33 1 = 0) ∧ (p.u 34 2 < 64) ∧ (p.u 36 4 ≤ 1000000) ∧ (zeroIn p.bytes 40 64 = true) ∧ ((s.chip.slice? (p.u 32 1)).isSome = true) ∧ (p.u 34 2 ≠ 0) ∧ (p.u 34 2 &&& (63 ^^^ (s.chip.draining (p.u 32 1) &&& 63)) = 0)) ∧
    (∃ (s : State) (p : Packet), (s.chip.startedAs p 0x803) ∧ (p.u 32 1 < 64) ∧ (p.u 33 1 = 1) ∧ (p.u 34 2 < 64) ∧ (p.u 36 4 ≤ 1000000) ∧ (zeroIn p.bytes 40 64 = true) ∧ ((s.chip.slice? (p.u 32 1)).isSome = true) ∧ (s.chip.draining (p.u 32 1) &&& p.u 34 2 ≠ 0)) ∧
    (∃ (s : State) (p : Packet), (s.chip.startedAs p 0x803) ∧ (p.u 32 1 < 64) ∧ (p.u 33 1 = 1) ∧ (p.u 34 2 < 64) ∧ (p.u 36 4 ≤ 1000000) ∧ (zeroIn p.bytes 40 64 = true) ∧ ((s.chip.slice? (p.u 32 1)).isSome = true) ∧ (s.chip.draining (p.u 32 1) &&& p.u 34 2 = 0)) ∧
    (∃ (s : State) (p : Packet), (s.chip.startedAs p 0x803) ∧ (bitOf (p.u 33 1) 0 = false) ∧ (64 ≤ p.u 32 1 ∨ 1 < p.u 33 1 ∨ 64 ≤ p.u 34 2 ∨ zeroIn p.bytes 40 64 = false ∨ 1000000 < p.u 36 4 ∨ s.chip.slice? (p.u 32 1) = none)) ∧
    (∃ (s : State) (p : Packet), (s.chip.startedAs p 0x803) ∧ (bitOf (p.u 33 1) 0 = true) ∧ (64 ≤ p.u 32 1 ∨ 1 < p.u 33 1 ∨ 64 ≤ p.u 34 2 ∨ zeroIn p.bytes 40 64 = false ∨ 1000000 < p.u 36 4 ∨ s.chip.slice? (p.u 32 1) = none)) ∧
    (∃ (s : State) (d : Drain), (s.chip.drains.find? (fun e => e.packet == d.packet) = some d) ∧ (d.timedOut = false) ∧ (d.deadline ≤ s.chip.now)) ∧
    (∃ (s : State) (d : Drain), (s.chip.drains.find? (fun e => e.packet == d.packet) = some d) ∧ (s.chip.now < d.deadline)) :=
  ⟨⟨tState (tChip (tPacket 0 0x803 1 [1, 0, 3])), tPacket 0 0x803 1 [1, 0, 3], by decide⟩,
    ⟨tState ({ tChip (tPacket 0 0x803 1 [1, 0, 3]) with drains := [{ slice := 1, mask := 3, own := 3, deadline := 5, packet := 9 }] }), tPacket 0 0x803 1 [1, 0, 3], by decide⟩,
    ⟨tState ({ tChip (tPacket 0 0x803 1 [1, 1, 3]) with drains := [{ slice := 1, mask := 3, own := 3, deadline := 5, packet := 9 }] }), tPacket 0 0x803 1 [1, 1, 3], by decide⟩,
    ⟨tState (tChip (tPacket 0 0x803 1 [1, 1, 3])), tPacket 0 0x803 1 [1, 1, 3], by decide⟩,
    ⟨tState (tChip (tPacket 0 0x803 1 [1, 0, 64])), tPacket 0 0x803 1 [1, 0, 64], by decide⟩,
    ⟨tState (tChip (tPacket 0 0x803 1 [1, 3, 1])), tPacket 0 0x803 1 [1, 3, 1], by decide⟩,
    ⟨tState ({ now := 5, drains := [{ slice := 1, mask := 3, own := 3, deadline := 5, packet := 9 }] }), { slice := 1, mask := 3, own := 3, deadline := 5, packet := 9 }, by decide⟩,
    ⟨tState ({ now := 4, drains := [{ slice := 1, mask := 3, own := 3, deadline := 5, packet := 9 }] }), { slice := 1, mask := 3, own := 3, deadline := 5, packet := 9 }, by decide⟩⟩

/-- States and operands that meet the hypotheses of FunctionsDrainAndReturn, part 2 of 2. -/
theorem test_FunctionsDrainAndReturn_meets_2 :
    (∃ (s : State) (d : Drain), (s.chip.drains.find? (fun e => e.packet == d.packet) = some d) ∧ (d.joined = []) ∧ (d.enables = []) ∧ (s.chip.drainOver d = true) ∧ ((s.chip.endDrain d).destroys.find? (fun x => x.packet == d.packet) = none)) ∧
    (∃ (s : State) (d : Drain), (s.chip.drains.find? (fun e => e.packet == d.packet) = some d) ∧ (s.chip.drainOver d = true) ∧ ((s.chip.endDrain d).destroys.find? (fun x => x.packet == d.packet) = none)) ∧
    (∃ (s : State) (d : Drain) (x : Destroy), (s.chip.drains.find? (fun e => e.packet == d.packet) = some d) ∧ (s.chip.drainOver d = true) ∧ ((s.chip.endDrain d).destroys.find? (fun x => x.packet == d.packet) = some x)) ∧
    (∃ (s : State) (d : Drain), (s.chip.drains.find? (fun e => e.packet == d.packet) = some d) ∧ (s.chip.drainOver d = false)) :=
  ⟨⟨tState ({ now := 5, drains := [{ slice := 1, mask := 3, own := 3, deadline := 5, packet := 9 }] }), { slice := 1, mask := 3, own := 3, deadline := 5, packet := 9 }, by decide⟩,
    ⟨tState ({ now := 5, drains := [{ slice := 1, mask := 3, own := 3, deadline := 5, packet := 9, joined := [4] }] }), { slice := 1, mask := 3, own := 3, deadline := 5, packet := 9, joined := [4] }, by decide⟩,
    ⟨tState ({ now := 5, drains := [{ slice := 1, mask := 63, own := 63, deadline := 5, packet := 9 }], destroys := [{ slice := 1, packet := 9, invalidate := false }] }), { slice := 1, mask := 63, own := 63, deadline := 5, packet := 9 }, { slice := 1, packet := 9, invalidate := false }, by decide⟩,
    ⟨tState ({ packets := [{ tPacket 1 0x101 1 [] with phase := .running }], slices := [(1, tSlice)], drains := [{ slice := 1, mask := 63, own := 63, deadline := 5, packet := 9 }] }), { slice := 1, mask := 63, own := 63, deadline := 5, packet := 9 }, by decide⟩⟩

/-- States and operands that meet the hypotheses of DoorbellPageWrites. -/
theorem test_DoorbellPageWrites_meets :
    (∃ (s : State) (i : Nat) (k : Nat) (sl : Slice), (s.chip.slice? i = some sl) ∧ (k < 4096) ∧ (k < sl.syncCount) ∧ (sl.retired = false)) ∧
    (∃ (s : State) (i : Nat) (k : Nat) (sl : Slice), (s.chip.slice? i = some sl) ∧ (sl.syncCount ≤ k ∨ sl.retired = true)) ∧
    (∃ (s : State) (i : Nat) (r : Nat) (v : W32), (s.chip.hasRing i r = true) ∧ (idxSub v.toNat (s.chip.reg (CQ_HEAD i r)) ≤ idxSub (s.chip.reg (CQ_TAIL i r)) (s.chip.reg (CQ_HEAD i r)))) ∧
    (∃ (s : State) (i : Nat) (r : Nat) (v : W32), (s.chip.hasRing i r = true) ∧ (s.chip.ringKept i r ≠ rsStopped) ∧ (idxSub (s.chip.reg (CQ_TAIL i r)) (s.chip.reg (CQ_HEAD i r)) < idxSub v.toNat (s.chip.reg (CQ_HEAD i r)))) ∧
    (∃ (s : State) (i : Nat) (r : Nat) (v : W32), (s.chip.hasRing i r = false ∨ (s.chip.ringKept i r = rsStopped ∧ idxSub (s.chip.reg (CQ_TAIL i r)) (s.chip.reg (CQ_HEAD i r)) < idxSub v.toNat (s.chip.reg (CQ_HEAD i r))))) ∧
    (∃ (s : State) (i : Nat) (v : W32), (s.chip.hasEvents i = true) ∧ (idxSub v.toNat (s.chip.reg (EQ_HEAD i)) ≤ idxSub (s.chip.reg (EQ_TAIL i)) (s.chip.reg (EQ_HEAD i)))) ∧
    (∃ (s : State) (i : Nat) (v : W32), (idxSub (s.chip.reg (EQ_TAIL i)) (s.chip.reg (EQ_HEAD i)) < idxSub v.toNat (s.chip.reg (EQ_HEAD i)))) :=
  ⟨⟨tState (tChip tCreate), 1, 15, tSlice, by decide⟩,
    ⟨tState (tChip tCreate), 1, 16, tSlice, by decide⟩,
    ⟨tState (Chip.setReg (Chip.setReg (Chip.setReg (Chip.setReg (Chip.setReg (Chip.setReg { slices := [(1, tSlice)], owners := (List.range 32).map (fun i => (i, 2)) } (SQ_CTRL 1 0) (2 ^ 31 + 4)) (CQ_CTRL 1 0) 4) (RING_STATUS 1 0) 1) (SQ_BASE 1 0) 0x10000) (CQ_BASE 1 0) 0x11000) (CQ_TAIL 1 0) 3), 1, 0, 3, by decide⟩,
    ⟨tState (Chip.setReg (Chip.setReg (Chip.setReg (Chip.setReg (Chip.setReg (Chip.setReg { slices := [(1, tSlice)], owners := (List.range 32).map (fun i => (i, 2)) } (SQ_CTRL 1 0) (2 ^ 31 + 4)) (CQ_CTRL 1 0) 4) (RING_STATUS 1 0) 1) (SQ_BASE 1 0) 0x10000) (CQ_BASE 1 0) 0x11000) (CQ_TAIL 1 0) 3), 1, 0, 4, by decide⟩,
    ⟨tState (Chip.setReg (Chip.setReg (Chip.setReg (Chip.setReg (Chip.setReg (Chip.setReg (Chip.setReg { slices := [(1, tSlice)], owners := (List.range 32).map (fun i => (i, 2)) } (SQ_CTRL 1 0) (2 ^ 31 + 4)) (CQ_CTRL 1 0) 4) (RING_STATUS 1 0) 1) (SQ_BASE 1 0) 0x10000) (CQ_BASE 1 0) 0x11000) (CQ_TAIL 1 0) 3) (RING_STATUS 1 0) rsStopped), 1, 0, 4, .inr (by decide)⟩,
    ⟨tState (Chip.setReg (Chip.setReg (Chip.setReg (Chip.setReg (Chip.setReg (Chip.setReg { slices := [(1, tSlice)], owners := (List.range 32).map (fun i => (i, 2)) } (SQ_CTRL 1 0) (2 ^ 31 + 4)) (CQ_CTRL 1 0) 4) (RING_STATUS 1 0) 1) (SQ_BASE 1 0) 0x10000) (CQ_BASE 1 0) 0x11000) (EQ_TAIL 1) 3), 1, 3, by decide⟩,
    ⟨tState (Chip.setReg (Chip.setReg (Chip.setReg (Chip.setReg (Chip.setReg (Chip.setReg { slices := [(1, tSlice)], owners := (List.range 32).map (fun i => (i, 2)) } (SQ_CTRL 1 0) (2 ^ 31 + 4)) (CQ_CTRL 1 0) 4) (RING_STATUS 1 0) 1) (SQ_BASE 1 0) 0x10000) (CQ_BASE 1 0) 0x11000) (EQ_TAIL 1) 3), 1, 4, by decide⟩⟩

/-- States and operands that meet the hypotheses of RingsEnableAndDrain. -/
theorem test_RingsEnableAndDrain_meets :
    (∃ (s : State) (i : Nat) (r : Nat) (n : Nat), (s.chip.hasRing i r = true) ∧ (s.chip.ringKept i r = rsDisabled) ∧ ((s.chip.setReg (SQ_CTRL i r) (n % 32 + 2 ^ 31)).ringConfig i r = none)) ∧
    (∃ (s : State) (i : Nat) (r : Nat) (n : Nat) (cause : Nat) (d : Nat), (s.chip.hasRing i r = true) ∧ (s.chip.ringKept i r = rsDisabled) ∧ ((s.chip.setReg (SQ_CTRL i r) (n % 32 + 2 ^ 31)).ringConfig i r = some (cause, d))) ∧
    (∃ (s : State) (i : Nat) (r : Nat), (s.chip.hasRing i r = true) ∧ (s.chip.ringKept i r ≠ rsDisabled)) ∧
    (∃ (s : State) (i : Nat) (r : Nat), (s.chip.ringKept i r = rsDraining) ∧ ((s.chip.ringPackets i r).isEmpty = true)) ∧
    (∃ (s : State) (i : Nat) (r : Nat), (s.chip.ringKept i r ≠ rsDraining ∨ (s.chip.ringPackets i r).isEmpty = false)) ∧
    (∃ (s : State) (i : Nat) (n : Nat), (s.chip.hasEvents i = true) ∧ (s.chip.flag (EQ_CTRL i) EQ_CTRL.ENABLE = false) ∧ (4 ≤ n) ∧ (n ≤ 16) ∧ (s.chip.ringPlaced i (s.chip.fld (EQ_BASE i) EQ_BASE.BASE) n 32 = true) ∧ ((s.chip.setReg (EQ_CTRL i) n).fld (EQ_BASE i) EQ_BASE.BASE = s.chip.fld (EQ_BASE i) EQ_BASE.BASE)) ∧
    (∃ (s : State) (i : Nat) (n : Nat), (s.chip.hasEvents i = true) ∧ (s.chip.flag (EQ_CTRL i) EQ_CTRL.ENABLE = false) ∧ (n < 4 ∨ (16 < n ∧ n < 32))) :=
  ⟨⟨tState (Chip.setReg (Chip.setReg (Chip.setReg (Chip.setReg (Chip.setReg (Chip.setReg { slices := [(1, tSlice)], owners := (List.range 32).map (fun i => (i, 2)) } (SQ_CTRL 1 0) (2 ^ 31 + 4)) (CQ_CTRL 1 0) 4) (RING_STATUS 1 0) 1) (SQ_BASE 1 0) 0x10000) (CQ_BASE 1 0) 0x11000) (RING_STATUS 1 0) 0), 1, 0, 4, by decide⟩,
    ⟨tState (Chip.setReg (Chip.setReg (Chip.setReg (Chip.setReg (Chip.setReg (Chip.setReg { slices := [(1, tSlice)], owners := (List.range 32).map (fun i => (i, 2)) } (SQ_CTRL 1 0) (2 ^ 31 + 4)) (CQ_CTRL 1 0) 4) (RING_STATUS 1 0) 1) (SQ_BASE 1 0) 0x10000) (CQ_BASE 1 0) 0x11000) (RING_STATUS 1 0) 0), 1, 0, 3, 8, 3, by decide⟩,
    ⟨tState ((Chip.setReg (Chip.setReg (Chip.setReg (Chip.setReg (Chip.setReg { slices := [(1, tSlice)], owners := (List.range 32).map (fun i => (i, 2)) } (SQ_CTRL 1 0) (2 ^ 31 + 4)) (CQ_CTRL 1 0) 4) (RING_STATUS 1 0) 1) (SQ_BASE 1 0) 0x10000) (CQ_BASE 1 0) 0x11000)), 1, 0, by decide⟩,
    ⟨tState (Chip.setReg (Chip.setReg (Chip.setReg (Chip.setReg (Chip.setReg (Chip.setReg { slices := [(1, tSlice)], owners := (List.range 32).map (fun i => (i, 2)) } (SQ_CTRL 1 0) (2 ^ 31 + 4)) (CQ_CTRL 1 0) 4) (RING_STATUS 1 0) 1) (SQ_BASE 1 0) 0x10000) (CQ_BASE 1 0) 0x11000) (RING_STATUS 1 0) 4), 1, 0, by decide⟩,
    ⟨tState ((Chip.setReg (Chip.setReg (Chip.setReg (Chip.setReg (Chip.setReg { slices := [(1, tSlice)], owners := (List.range 32).map (fun i => (i, 2)) } (SQ_CTRL 1 0) (2 ^ 31 + 4)) (CQ_CTRL 1 0) 4) (RING_STATUS 1 0) 1) (SQ_BASE 1 0) 0x10000) (CQ_BASE 1 0) 0x11000)), 1, 0, by decide⟩,
    ⟨tState (Chip.setReg (Chip.setReg (Chip.setReg (Chip.setReg (Chip.setReg (Chip.setReg { slices := [(1, tSlice)], owners := (List.range 32).map (fun i => (i, 2)) } (SQ_CTRL 1 0) (2 ^ 31 + 4)) (CQ_CTRL 1 0) 4) (RING_STATUS 1 0) 1) (SQ_BASE 1 0) 0x10000) (CQ_BASE 1 0) 0x11000) (EQ_BASE 1) 0x12000), 1, 15, by decide⟩,
    ⟨tState ((Chip.setReg (Chip.setReg (Chip.setReg (Chip.setReg (Chip.setReg { slices := [(1, tSlice)], owners := (List.range 32).map (fun i => (i, 2)) } (SQ_CTRL 1 0) (2 ^ 31 + 4)) (CQ_CTRL 1 0) 4) (RING_STATUS 1 0) 1) (SQ_BASE 1 0) 0x10000) (CQ_BASE 1 0) 0x11000)), 1, 17, by decide⟩⟩

/-- States and operands that meet the hypotheses of RingsFetchStartComplete, part 1 of 2. -/
theorem test_RingsFetchStartComplete_meets_1 :
    (∃ (s : State) (i : Nat) (r : Nat) (v : W32), (s.chip.hasRing i r = true) ∧ (s.chip.ringLive i r = true) ∧ (0 < idxSub v.toNat (s.chip.ringTail i r)) ∧ (idxSub v.toNat (s.chip.ringTail i r) < 2 ^ 31) ∧ (idxSub v.toNat (s.chip.reg (SQ_HEAD i r)) ≤ 2 ^ s.chip.fld (SQ_CTRL i r) SQ_CTRL.LOG2_SLOTS)) ∧
    (∃ (s : State) (i : Nat) (r : Nat) (v : W32), (s.chip.hasRing i r = true) ∧ (s.chip.ringLive i r = true) ∧ (2 ^ 31 ≤ idxSub v.toNat (s.chip.ringTail i r))) ∧
    (∃ (s : State) (i : Nat) (r : Nat) (v : W32), (s.chip.hasRing i r = true) ∧ (s.chip.ringLive i r = true) ∧ (0 < idxSub v.toNat (s.chip.ringTail i r)) ∧ (idxSub v.toNat (s.chip.ringTail i r) < 2 ^ 31) ∧ (2 ^ s.chip.fld (SQ_CTRL i r) SQ_CTRL.LOG2_SLOTS < idxSub v.toNat (s.chip.reg (SQ_HEAD i r)))) ∧
    (∃ (s : State) (i : Nat) (r : Nat) (a : Nat) (a2 : Nat) (sl : Slice) (b : List Byte) (b2 : List Byte) (c1 : Chip) (c2 : Chip), (s.chip.slice? i = some sl) ∧ (s.chip.hasRing i r = true) ∧ (s.chip.ringLive i r = true) ∧ (s.chip.headOf i r = none) ∧ (s.chip.headHeld i r = none) ∧ (0 < idxSub (s.chip.ringTail i r) (s.chip.reg (SQ_HEAD i r))) ∧ (s.chip.readSlots i r 1 (s.chip.reg (SQ_HEAD i r)) = (.ok, b, a, c1)) ∧ (bitsOf (bytesU b 0 2) 13 12 + 1 ≤ idxSub (s.chip.ringTail i r) (s.chip.reg (SQ_HEAD i r))) ∧ (c1.readSlots i r (bitsOf (bytesU b 0 2) 13 12) (s.chip.reg (SQ_HEAD i r) + 1) = (.ok, b2, a2, c2))) ∧
    (∃ (s : State) (p : Packet), ((if s.chip.stampReady.starts % 16 = 15 then longestReady (s.chip.stampReady.packets.filter s.chip.stampReady.ready) else s.chip.stampReady.bestReady (s.chip.stampReady.packets.filter s.chip.stampReady.ready)) = some p)) ∧
    (∃ (s : State), (s.chip.stampReady.packets.filter s.chip.stampReady.ready = [])) ∧
    (∃ (s : State) (i : Nat) (r : Nat) (a : Nat) (sl : Slice) (o : Served) (b : List Byte) (c1 : Chip), (s.chip.slice? i = some sl) ∧ (s.chip.hasRing i r = true) ∧ (s.chip.ringLive i r = true) ∧ (s.chip.headOf i r = none) ∧ (s.chip.headHeld i r = none) ∧ (0 < idxSub (s.chip.ringTail i r) (s.chip.reg (SQ_HEAD i r))) ∧ (s.chip.readSlots i r 1 (s.chip.reg (SQ_HEAD i r)) = (o, b, a, c1)) ∧ (o ≠ .ok)) ∧
    (∃ (s : State) (i : Nat) (r : Nat), (s.chip.hasRing i r = false ∨ s.chip.ringLive i r = false ∨ (s.chip.headOf i r).isSome = true ∨ (s.chip.headHeld i r).isSome = true ∨ s.chip.ringTail i r % 2 ^ 32 = s.chip.reg (SQ_HEAD i r) % 2 ^ 32)) :=
  ⟨⟨tState ((Chip.setReg (Chip.setReg (Chip.setReg (Chip.setReg (Chip.setReg { slices := [(1, tSlice)], owners := (List.range 32).map (fun i => (i, 2)) } (SQ_CTRL 1 0) (2 ^ 31 + 4)) (CQ_CTRL 1 0) 4) (RING_STATUS 1 0) 1) (SQ_BASE 1 0) 0x10000) (CQ_BASE 1 0) 0x11000)), 1, 0, 16, by decide⟩,
    ⟨tState ((Chip.setReg (Chip.setReg (Chip.setReg (Chip.setReg (Chip.setReg { slices := [(1, tSlice)], owners := (List.range 32).map (fun i => (i, 2)) } (SQ_CTRL 1 0) (2 ^ 31 + 4)) (CQ_CTRL 1 0) 4) (RING_STATUS 1 0) 1) (SQ_BASE 1 0) 0x10000) (CQ_BASE 1 0) 0x11000)), 1, 0, 0xFFFFFFFF, by decide⟩,
    ⟨tState ((Chip.setReg (Chip.setReg (Chip.setReg (Chip.setReg (Chip.setReg { slices := [(1, tSlice)], owners := (List.range 32).map (fun i => (i, 2)) } (SQ_CTRL 1 0) (2 ^ 31 + 4)) (CQ_CTRL 1 0) 4) (RING_STATUS 1 0) 1) (SQ_BASE 1 0) 0x10000) (CQ_BASE 1 0) 0x11000)), 1, 0, 17, by decide⟩,
    ⟨tState tFetch, 1, 0, 0, 0, tSlice, (tFetch.readSlots 1 0 1 0).2.1, [], (tFetch.readSlots 1 0 1 0).2.2.2, (tFetch.readSlots 1 0 1 0).2.2.2, by decide⟩,
    ⟨tState ({ (Chip.setReg (Chip.setReg (Chip.setReg (Chip.setReg (Chip.setReg { slices := [(1, tSlice)], owners := (List.range 32).map (fun i => (i, 2)) } (SQ_CTRL 1 0) (2 ^ 31 + 4)) (CQ_CTRL 1 0) 4) (RING_STATUS 1 0) 1) (SQ_BASE 1 0) 0x10000) (CQ_BASE 1 0) 0x11000) with packets := [{ tPacket 1 0x010 1 [] with phase := .fetched }] }), { tPacket 1 0x010 1 [] with phase := .fetched, readySince := some 0 }, by decide⟩,
    ⟨tState ((Chip.setReg (Chip.setReg (Chip.setReg (Chip.setReg (Chip.setReg { slices := [(1, tSlice)], owners := (List.range 32).map (fun i => (i, 2)) } (SQ_CTRL 1 0) (2 ^ 31 + 4)) (CQ_CTRL 1 0) 4) (RING_STATUS 1 0) 1) (SQ_BASE 1 0) 0x10000) (CQ_BASE 1 0) 0x11000)), by decide⟩,
    ⟨tState { tFetch with owners := [] }, 1, 0, 0x100000, tSlice, .denied, [], (Chip.readSlots { tFetch with owners := [] } 1 0 1 0).2.2.2, by decide⟩,
    ⟨tState ((Chip.setReg (Chip.setReg (Chip.setReg (Chip.setReg (Chip.setReg { slices := [(1, tSlice)], owners := (List.range 32).map (fun i => (i, 2)) } (SQ_CTRL 1 0) (2 ^ 31 + 4)) (CQ_CTRL 1 0) 4) (RING_STATUS 1 0) 1) (SQ_BASE 1 0) 0x10000) (CQ_BASE 1 0) 0x11000)), 1, 0, by decide⟩⟩

/-- States and operands that meet the hypotheses of RingsFetchStartComplete, part 2 of 2. -/
theorem test_RingsFetchStartComplete_meets_2 :
    ∃ (s : State) (p : Packet) (st : Nat) (res : W64) (det : W64), (s.chip.packet? p.id = some p) ∧ (p.phase = .done st res det) :=
  ⟨tState (tChip { tPacket 1 0x010 1 [] with phase := .done 0 0 0 }), { tPacket 1 0x010 1 [] with phase := .done 0 0 0 }, 0, 0, 0, by decide⟩

/-- States and operands that meet the hypotheses of FencesAndWaits, part 1 of 2. -/
theorem test_FencesAndWaits_meets_1 :
    (∃ (s : State) (p : Packet), (s.chip.startedAs p 0x010)) ∧
    (∃ (s : State) (p : Packet), (s.chip.startedAs p 0x011) ∧ (bitsOf (p.u 32 1) 7 1 = 0) ∧ (zeroIn p.bytes 33 64 = true) ∧ (p.waitsFor = [])) ∧
    (∃ (s : State) (p : Packet), (s.chip.startedAs p 0x011) ∧ (bitsOf (p.u 32 1) 7 1 = 0) ∧ (zeroIn p.bytes 33 64 = true) ∧ (p.waitsFor ≠ [])) ∧
    (∃ (s : State) (p : Packet), (s.chip.startedAs p 0x011) ∧ (bitsOf (p.u 32 1) 7 1 ≠ 0 ∨ zeroIn p.bytes 33 64 = false)) ∧
    (∃ (s : State) (p : Packet), (s.chip.packet? p.id = some p) ∧ (p.op = 0x011) ∧ (p.phase = .running) ∧ (p.waitsFor = [])) ∧
    (∃ (s : State) (p : Packet) (sl : Slice), (s.chip.startedAs p 0x012) ∧ (s.chip.slice? p.slice = some sl) ∧ ((signalEntries p).findSome? (entryFault sl 4) = none)) ∧
    (∃ (s : State) (p : Packet) (sl : Slice) (st : Nat), (s.chip.startedAs p 0x012) ∧ (s.chip.slice? p.slice = some sl) ∧ ((signalEntries p).findSome? (entryFault sl 4) = some st)) ∧
    (∃ (s : State) (p : Packet) (sl : Slice), (s.chip.startedAs p 0x013) ∧ (s.chip.slice? p.slice = some sl) ∧ ((signalEntries p).findSome? (entryFault sl 2) = none) ∧ (p.waitTerms.any (fun e => syncErr (s.chip.sync e.2.1)) = true)) :=
  ⟨⟨tState (tChip (tPacket 1 0x010 1 [])), tPacket 1 0x010 1 [], by decide⟩,
    ⟨tState (tChip (tPacket 1 0x011 1 [])), tPacket 1 0x011 1 [], by decide⟩,
    ⟨tState (tChip { tPacket 1 0x011 1 [] with waitsFor := [4] }), { tPacket 1 0x011 1 [] with waitsFor := [4] }, by decide⟩,
    ⟨tState (tChip (tPacket 1 0x011 1 [2])), tPacket 1 0x011 1 [2], by decide⟩,
    ⟨tState (tChip { tPacket 1 0x011 1 [] with phase := .running }), { tPacket 1 0x011 1 [] with phase := .running }, by decide⟩,
    ⟨tState (tChip (tPacket 1 0x012 1 [3, 0, 2, 0, 0, 0, 0, 0, 5])), tPacket 1 0x012 1 [3, 0, 2, 0, 0, 0, 0, 0, 5], tSlice, by decide⟩,
    ⟨tState (tChip (tPacket 1 0x012 1 [16, 0, 2, 0, 0, 0, 0, 0, 5])), tPacket 1 0x012 1 [16, 0, 2, 0, 0, 0, 0, 0, 5], tSlice, 0x201, by decide⟩,
    ⟨tState ({ tChip (tPacket 1 0x013 1 [3, 0, 1, 0, 0, 0, 0, 0, 5]) with syncs := [(3, 0x8000000000000000)] }), tPacket 1 0x013 1 [3, 0, 1, 0, 0, 0, 0, 0, 5], tSlice, by decide⟩⟩

/-- States and operands that meet the hypotheses of FencesAndWaits, part 2 of 2. -/
theorem test_FencesAndWaits_meets_2 :
    (∃ (s : State) (p : Packet) (sl : Slice), (s.chip.startedAs p 0x013) ∧ (s.chip.slice? p.slice = some sl) ∧ ((signalEntries p).findSome? (entryFault sl 2) = none) ∧ (p.waitTerms.any (fun e => syncErr (s.chip.sync e.2.1)) = false) ∧ (s.chip.waitHolds p = true)) ∧
    (∃ (s : State) (p : Packet) (sl : Slice), (s.chip.startedAs p 0x013) ∧ (s.chip.slice? p.slice = some sl) ∧ ((signalEntries p).findSome? (entryFault sl 2) = none) ∧ (p.waitTerms.any (fun e => syncErr (s.chip.sync e.2.1)) = false) ∧ (s.chip.waitHolds p = false)) ∧
    (∃ (s : State) (p : Packet) (m : W64), (s.chip.packet? p.id = some p) ∧ (p.op = 0x013) ∧ (p.phase = .running) ∧ (p.dependency = false) ∧ (p.released = some m)) ∧
    (∃ (s : State) (p : Packet), (s.chip.packet? p.id = some p) ∧ (p.op = 0x013) ∧ (p.phase = .running) ∧ (p.dependency = true)) :=
  ⟨⟨tState ({ tChip (tPacket 1 0x013 1 [3, 0, 1, 0, 0, 0, 0, 0, 5]) with syncs := [(3, 5)] }), tPacket 1 0x013 1 [3, 0, 1, 0, 0, 0, 0, 0, 5], tSlice, by decide⟩,
    ⟨tState ({ tChip (tPacket 1 0x013 1 [3, 0, 1, 0, 0, 0, 0, 0, 5]) with syncs := [(3, 4)] }), tPacket 1 0x013 1 [3, 0, 1, 0, 0, 0, 0, 0, 5], tSlice, by decide⟩,
    ⟨tState (tChip { tPacket 1 0x013 1 [] with phase := .running, released := some 1 }), { tPacket 1 0x013 1 [] with phase := .running, released := some 1 }, 1, by decide⟩,
    ⟨tState (tChip { tPacket 1 0x013 1 [] with phase := .running, dependency := true }), { tPacket 1 0x013 1 [] with phase := .running, dependency := true }, by decide⟩⟩

/-- States and operands that meet the hypotheses of CopyAndFill. -/
theorem test_CopyAndFill_meets :
    (∃ (s : State) (c : State) (p : Packet) (o : Served) (k : Nat), (s.chip.startedAs p 0x100) ∧ (p.u 32 8 < 2 ^ 48) ∧ (p.u 40 8 < 2 ^ 48) ∧ (0 < p.u 48 8) ∧ (p.u 48 8 < 2 ^ 40) ∧ (zeroIn p.bytes 56 64 = true) ∧ (overlap (p.u 32 8) (p.u 40 8) (p.u 48 8) = false) ∧ (p.u 48 8 < 2 ^ 20 ∨ s.chip.granted (.copy p.id) = true) ∧ (s.chip.copyPieces p.slice (p.u 40 8) (pieces (p.u 32 8) (p.u 48 8)) = (o, k, c.chip))) ∧
    (∃ (s : State) (p : Packet), (s.chip.startedAs p 0x100) ∧ (2 ^ 48 ≤ p.u 32 8 ∨ 2 ^ 48 ≤ p.u 40 8 ∨ 2 ^ 40 ≤ p.u 48 8 ∨ zeroIn p.bytes 56 64 = false ∨ p.u 48 8 = 0 ∨ overlap (p.u 32 8) (p.u 40 8) (p.u 48 8) = true)) ∧
    (∃ (s : State) (c : State) (p : Packet) (o : Served) (k : Nat), (s.chip.startedAs p 0x101) ∧ (p.u 32 8 < 2 ^ 48) ∧ (0 < p.u 40 8) ∧ (p.u 40 8 < 2 ^ 48) ∧ (zeroIn p.bytes 56 64 = true) ∧ (p.u 40 8 < 2 ^ 20 ∨ s.chip.granted (.copy p.id) = true) ∧ (s.chip.saveRange cpMaster p.slice (p.u 32 8) (fillBytes (p.u 48 8) (p.u 32 8) (p.u 40 8)) = (o, k, c.chip))) ∧
    (∃ (s : State) (p : Packet), (s.chip.startedAs p 0x101) ∧ (2 ^ 48 ≤ p.u 32 8 ∨ 2 ^ 48 ≤ p.u 40 8 ∨ p.u 40 8 = 0 ∨ zeroIn p.bytes 56 64 = false)) :=
  ⟨⟨tState (tChip (tPacket 1 0x100 1 (leBytes 8 0x100000 ++ leBytes 8 0x110000 ++ leBytes 8 64))), tState ((tChip (tPacket 1 0x100 1 (leBytes 8 0x100000 ++ leBytes 8 0x110000 ++ leBytes 8 64))).copyPieces 1 0x110000 (pieces 0x100000 64)).2.2, tPacket 1 0x100 1 (leBytes 8 0x100000 ++ leBytes 8 0x110000 ++ leBytes 8 64), .denied, 0, by decide⟩,
    ⟨tState (tChip (tPacket 1 0x100 1 [])), tPacket 1 0x100 1 [], by decide⟩,
    ⟨tState { tFetch with packets := [tFill] }, tState (Chip.saveRange { tFetch with packets := [tFill] } cpMaster 1 0x100000 (fillBytes 7 0x100000 64)).2.2, tFill, .ok, 64, by decide⟩,
    ⟨tState (tChip (tPacket 1 0x101 1 [])), tPacket 1 0x101 1 [], by decide⟩⟩

/-- States and operands that meet the hypotheses of VectorArithmetic, part 1 of 2. -/
theorem test_VectorArithmetic_meets_1 :
    (∃ (s : State) (n : Nat) (cnt : Nat) (fmt : Nat) (q : TileIns) (l : List TileIns) (a : List Byte) (b : List Byte) (z : List Byte) (c1 : Chip) (c2 : Chip), (s.chip.headIs n 2 0x20 q l) ∧ (tiFmtA q.bytes = fmt) ∧ (fmt = 0xA ∨ fmt = 0xC) ∧ (tiImm q.bytes = cnt) ∧ (1 ≤ cnt) ∧ (cnt ≤ 4096) ∧ ((vecRead n 2 q ((s.chip.pop n 2 l).poolData n q) (packedLen fmt cnt)).run (s.chip.pop n 2 l) = (.ok (a, b, z), c1)) ∧ ((operandWrite n q.dst [(0, packElems fmt ((List.range cnt).map (fun i => vecBits fmt (fadd (elemVal fmt (elemAt fmt a i)) (elemVal fmt (elemAt fmt b i))))))]).run c1 = (.ok (), c2))) ∧
    (∃ (s : State) (n : Nat) (cnt : Nat) (fmt : Nat) (q : TileIns) (l : List TileIns) (a : List Byte) (b : List Byte) (z : List Byte) (c1 : Chip) (c2 : Chip), (s.chip.headIs n 2 0x20 q l) ∧ (tiFmtA q.bytes = fmt) ∧ (fmt = 0xD) ∧ (tiImm q.bytes = cnt) ∧ (1 ≤ cnt) ∧ (cnt ≤ 4096) ∧ ((vecRead n 2 q ((s.chip.pop n 2 l).poolData n q) (packedLen fmt cnt)).run (s.chip.pop n 2 l) = (.ok (a, b, z), c1)) ∧ (∀ i < cnt, -2147483648 ≤ sx 32 (elemAt fmt a i) + sx 32 (elemAt fmt b i) ∧ sx 32 (elemAt fmt a i) + sx 32 (elemAt fmt b i) ≤ 2147483647) ∧ ((operandWrite n q.dst [(0, packElems fmt ((List.range cnt).map (fun i => ux 32 (sx 32 (elemAt fmt a i) + sx 32 (elemAt fmt b i)))))]).run c1 = (.ok (), c2))) ∧
    (∃ (s : State) (n : Nat) (cnt : Nat) (fmt : Nat) (q : TileIns) (l : List TileIns) (a : List Byte) (b : List Byte) (z : List Byte) (c1 : Chip) (c2 : Chip), (s.chip.headIs n 2 0x21 q l) ∧ (tiFmtA q.bytes = fmt) ∧ (fmt = 0xA ∨ fmt = 0xC) ∧ (tiImm q.bytes = cnt) ∧ (1 ≤ cnt) ∧ (cnt ≤ 4096) ∧ ((vecRead n 2 q ((s.chip.pop n 2 l).poolData n q) (packedLen fmt cnt)).run (s.chip.pop n 2 l) = (.ok (a, b, z), c1)) ∧ ((operandWrite n q.dst [(0, packElems fmt ((List.range cnt).map (fun i => vecBits fmt (fmul (elemVal fmt (elemAt fmt a i)) (elemVal fmt (elemAt fmt b i))))))]).run c1 = (.ok (), c2))) ∧
    (∃ (s : State) (n : Nat) (cnt : Nat) (fmt : Nat) (q : TileIns) (l : List TileIns) (a : List Byte) (b : List Byte) (z : List Byte) (c1 : Chip) (c2 : Chip), (s.chip.headIs n 2 0x21 q l) ∧ (tiFmtA q.bytes = fmt) ∧ (fmt = 0xD) ∧ (tiImm q.bytes = cnt) ∧ (1 ≤ cnt) ∧ (cnt ≤ 4096) ∧ ((vecRead n 2 q ((s.chip.pop n 2 l).poolData n q) (packedLen fmt cnt)).run (s.chip.pop n 2 l) = (.ok (a, b, z), c1)) ∧ (∀ i < cnt, -2147483648 ≤ sx 32 (elemAt fmt a i) * sx 32 (elemAt fmt b i) ∧ sx 32 (elemAt fmt a i) * sx 32 (elemAt fmt b i) ≤ 2147483647) ∧ ((operandWrite n q.dst [(0, packElems fmt ((List.range cnt).map (fun i => ux 32 (sx 32 (elemAt fmt a i) * sx 32 (elemAt fmt b i)))))]).run c1 = (.ok (), c2))) ∧
    (∃ (s : State) (n : Nat) (cnt : Nat) (fmt : Nat) (q : TileIns) (l : List TileIns) (a : List Byte) (b : List Byte) (z : List Byte) (c1 : Chip) (c2 : Chip), (s.chip.headIs n 2 0x22 q l) ∧ (tiFmtA q.bytes = fmt) ∧ (fmt = 0xA ∨ fmt = 0xC) ∧ (tiImm q.bytes = cnt) ∧ (1 ≤ cnt) ∧ (cnt ≤ 4096) ∧ ((vecRead n 3 q ((s.chip.pop n 2 l).poolData n q) (packedLen fmt cnt)).run (s.chip.pop n 2 l) = (.ok (a, b, z), c1)) ∧ ((operandWrite n q.dst [(0, packElems fmt ((List.range cnt).map (fun i => vecBits fmt (fadd (fmul (elemVal fmt (elemAt fmt a i)) (elemVal fmt (elemAt fmt b i))) (elemVal fmt (elemAt fmt z i))))))]).run c1 = (.ok (), c2))) ∧
    (∃ (s : State) (n : Nat) (cnt : Nat) (fmt : Nat) (q : TileIns) (l : List TileIns) (a : List Byte) (b : List Byte) (z : List Byte) (c1 : Chip) (c2 : Chip), (s.chip.headIs n 2 0x22 q l) ∧ (tiFmtA q.bytes = fmt) ∧ (fmt = 0xD) ∧ (tiImm q.bytes = cnt) ∧ (1 ≤ cnt) ∧ (cnt ≤ 4096) ∧ ((vecRead n 3 q ((s.chip.pop n 2 l).poolData n q) (packedLen fmt cnt)).run (s.chip.pop n 2 l) = (.ok (a, b, z), c1)) ∧ (∀ i < cnt, -2147483648 ≤ sx 32 (elemAt fmt a i) * sx 32 (elemAt fmt b i) + sx 32 (elemAt fmt z i) ∧ sx 32 (elemAt fmt a i) * sx 32 (elemAt fmt b i) + sx 32 (elemAt fmt z i) ≤ 2147483647) ∧ ((operandWrite n q.dst [(0, packElems fmt ((List.range cnt).map (fun i => ux 32 (sx 32 (elemAt fmt a i) * sx 32 (elemAt fmt b i) + sx 32 (elemAt fmt z i)))))]).run c1 = (.ok (), c2))) ∧
    (∃ (s : State) (n : Nat) (cnt : Nat) (fmt : Nat) (q : TileIns) (l : List TileIns) (a : List Byte) (b : List Byte) (z : List Byte) (c1 : Chip) (c2 : Chip), (s.chip.headIs n 2 0x23 q l) ∧ (tiFmtA q.bytes = fmt) ∧ (fmt = 0xA ∨ fmt = 0xC) ∧ (tiImm q.bytes = cnt) ∧ (1 ≤ cnt) ∧ (cnt ≤ 4096) ∧ ((vecRead n 2 q ((s.chip.pop n 2 l).poolData n q) (packedLen fmt cnt)).run (s.chip.pop n 2 l) = (.ok (a, b, z), c1)) ∧ ((operandWrite n q.dst [(0, packElems fmt ((List.range cnt).map (fun i => vecBits fmt (fminmax false (elemVal fmt (elemAt fmt a i)) (elemVal fmt (elemAt fmt b i))))))]).run c1 = (.ok (), c2))) ∧
    (∃ (s : State) (n : Nat) (cnt : Nat) (fmt : Nat) (q : TileIns) (l : List TileIns) (a : List Byte) (b : List Byte) (z : List Byte) (c1 : Chip) (c2 : Chip), (s.chip.headIs n 2 0x23 q l) ∧ (tiFmtA q.bytes = fmt) ∧ (fmt = 0xD) ∧ (tiImm q.bytes = cnt) ∧ (1 ≤ cnt) ∧ (cnt ≤ 4096) ∧ ((vecRead n 2 q ((s.chip.pop n 2 l).poolData n q) (packedLen fmt cnt)).run (s.chip.pop n 2 l) = (.ok (a, b, z), c1)) ∧ (∀ i < cnt, -2147483648 ≤ min (sx 32 (elemAt fmt a i)) (sx 32 (elemAt fmt b i)) ∧ min (sx 32 (elemAt fmt a i)) (sx 32 (elemAt fmt b i)) ≤ 2147483647) ∧ ((operandWrite n q.dst [(0, packElems fmt ((List.range cnt).map (fun i => ux 32 (min (sx 32 (elemAt fmt a i)) (sx 32 (elemAt fmt b i))))))]).run c1 = (.ok (), c2))) :=
  ⟨⟨tState (tTile { vectorQ := [(tVec 0x20 0xC 1)] }), 0, 1, 0xC, (tVec 0x20 0xC 1), [], tZ4, tZ4, [], (tAfter (vecRead 0 2 (tVec 0x20 0xC 1) [] (packedLen 0xC 1)) ((tTile { vectorQ := [(tVec 0x20 0xC 1)] }).pop 0 2 [])), (tAfter (operandWrite 0 (tVec 0x20 0xC 1).dst [(0, packElems 0xC ((List.range 1).map (fun i => vecBits 0xC (fadd (elemVal 0xC (elemAt 0xC tZ4 i)) (elemVal 0xC (elemAt 0xC tZ4 i))))))]) (tAfter (vecRead 0 2 (tVec 0x20 0xC 1) [] (packedLen 0xC 1)) ((tTile { vectorQ := [(tVec 0x20 0xC 1)] }).pop 0 2 []))), ⟨by decide, rfl, by decide, rfl, by decide, by decide, rfl, rfl⟩⟩,
    ⟨tState (tTile { vectorQ := [(tVec 0x20 0xD 1)] }), 0, 1, 0xD, (tVec 0x20 0xD 1), [], tZ4, tZ4, [], (tAfter (vecRead 0 2 (tVec 0x20 0xD 1) [] (packedLen 0xD 1)) ((tTile { vectorQ := [(tVec 0x20 0xD 1)] }).pop 0 2 [])), (tAfter (operandWrite 0 (tVec 0x20 0xD 1).dst [(0, packElems 0xD ((List.range 1).map (fun i => ux 32 (sx 32 (elemAt 0xD tZ4 i) + sx 32 (elemAt 0xD tZ4 i)))))]) (tAfter (vecRead 0 2 (tVec 0x20 0xD 1) [] (packedLen 0xD 1)) ((tTile { vectorQ := [(tVec 0x20 0xD 1)] }).pop 0 2 []))), ⟨by decide, rfl, by decide, rfl, by decide, by decide, rfl, by decide, rfl⟩⟩,
    ⟨tState (tTile { vectorQ := [(tVec 0x21 0xC 1)] }), 0, 1, 0xC, (tVec 0x21 0xC 1), [], tZ4, tZ4, [], (tAfter (vecRead 0 2 (tVec 0x21 0xC 1) [] (packedLen 0xC 1)) ((tTile { vectorQ := [(tVec 0x21 0xC 1)] }).pop 0 2 [])), (tAfter (operandWrite 0 (tVec 0x21 0xC 1).dst [(0, packElems 0xC ((List.range 1).map (fun i => vecBits 0xC (fmul (elemVal 0xC (elemAt 0xC tZ4 i)) (elemVal 0xC (elemAt 0xC tZ4 i))))))]) (tAfter (vecRead 0 2 (tVec 0x21 0xC 1) [] (packedLen 0xC 1)) ((tTile { vectorQ := [(tVec 0x21 0xC 1)] }).pop 0 2 []))), ⟨by decide, rfl, by decide, rfl, by decide, by decide, rfl, rfl⟩⟩,
    ⟨tState (tTile { vectorQ := [(tVec 0x21 0xD 1)] }), 0, 1, 0xD, (tVec 0x21 0xD 1), [], tZ4, tZ4, [], (tAfter (vecRead 0 2 (tVec 0x21 0xD 1) [] (packedLen 0xD 1)) ((tTile { vectorQ := [(tVec 0x21 0xD 1)] }).pop 0 2 [])), (tAfter (operandWrite 0 (tVec 0x21 0xD 1).dst [(0, packElems 0xD ((List.range 1).map (fun i => ux 32 (sx 32 (elemAt 0xD tZ4 i) * sx 32 (elemAt 0xD tZ4 i)))))]) (tAfter (vecRead 0 2 (tVec 0x21 0xD 1) [] (packedLen 0xD 1)) ((tTile { vectorQ := [(tVec 0x21 0xD 1)] }).pop 0 2 []))), ⟨by decide, rfl, by decide, rfl, by decide, by decide, rfl, by decide, rfl⟩⟩,
    ⟨tState (tTile { vectorQ := [(tVec 0x22 0xC 1)] }), 0, 1, 0xC, (tVec 0x22 0xC 1), [], tZ4, tZ4, tZ4, (tAfter (vecRead 0 3 (tVec 0x22 0xC 1) [] (packedLen 0xC 1)) ((tTile { vectorQ := [(tVec 0x22 0xC 1)] }).pop 0 2 [])), (tAfter (operandWrite 0 (tVec 0x22 0xC 1).dst [(0, packElems 0xC ((List.range 1).map (fun i => vecBits 0xC (fadd (fmul (elemVal 0xC (elemAt 0xC tZ4 i)) (elemVal 0xC (elemAt 0xC tZ4 i))) (elemVal 0xC (elemAt 0xC tZ4 i))))))]) (tAfter (vecRead 0 3 (tVec 0x22 0xC 1) [] (packedLen 0xC 1)) ((tTile { vectorQ := [(tVec 0x22 0xC 1)] }).pop 0 2 []))), ⟨by decide, rfl, by decide, rfl, by decide, by decide, rfl, rfl⟩⟩,
    ⟨tState (tTile { vectorQ := [(tVec 0x22 0xD 1)] }), 0, 1, 0xD, (tVec 0x22 0xD 1), [], tZ4, tZ4, tZ4, (tAfter (vecRead 0 3 (tVec 0x22 0xD 1) [] (packedLen 0xD 1)) ((tTile { vectorQ := [(tVec 0x22 0xD 1)] }).pop 0 2 [])), (tAfter (operandWrite 0 (tVec 0x22 0xD 1).dst [(0, packElems 0xD ((List.range 1).map (fun i => ux 32 (sx 32 (elemAt 0xD tZ4 i) * sx 32 (elemAt 0xD tZ4 i) + sx 32 (elemAt 0xD tZ4 i)))))]) (tAfter (vecRead 0 3 (tVec 0x22 0xD 1) [] (packedLen 0xD 1)) ((tTile { vectorQ := [(tVec 0x22 0xD 1)] }).pop 0 2 []))), ⟨by decide, rfl, by decide, rfl, by decide, by decide, rfl, by decide, rfl⟩⟩,
    ⟨tState (tTile { vectorQ := [(tVec 0x23 0xC 1)] }), 0, 1, 0xC, (tVec 0x23 0xC 1), [], tZ4, tZ4, [], (tAfter (vecRead 0 2 (tVec 0x23 0xC 1) [] (packedLen 0xC 1)) ((tTile { vectorQ := [(tVec 0x23 0xC 1)] }).pop 0 2 [])), (tAfter (operandWrite 0 (tVec 0x23 0xC 1).dst [(0, packElems 0xC ((List.range 1).map (fun i => vecBits 0xC (fminmax false (elemVal 0xC (elemAt 0xC tZ4 i)) (elemVal 0xC (elemAt 0xC tZ4 i))))))]) (tAfter (vecRead 0 2 (tVec 0x23 0xC 1) [] (packedLen 0xC 1)) ((tTile { vectorQ := [(tVec 0x23 0xC 1)] }).pop 0 2 []))), ⟨by decide, rfl, by decide, rfl, by decide, by decide, rfl, rfl⟩⟩,
    ⟨tState (tTile { vectorQ := [(tVec 0x23 0xD 1)] }), 0, 1, 0xD, (tVec 0x23 0xD 1), [], tZ4, tZ4, [], (tAfter (vecRead 0 2 (tVec 0x23 0xD 1) [] (packedLen 0xD 1)) ((tTile { vectorQ := [(tVec 0x23 0xD 1)] }).pop 0 2 [])), (tAfter (operandWrite 0 (tVec 0x23 0xD 1).dst [(0, packElems 0xD ((List.range 1).map (fun i => ux 32 (min (sx 32 (elemAt 0xD tZ4 i)) (sx 32 (elemAt 0xD tZ4 i))))))]) (tAfter (vecRead 0 2 (tVec 0x23 0xD 1) [] (packedLen 0xD 1)) ((tTile { vectorQ := [(tVec 0x23 0xD 1)] }).pop 0 2 []))), ⟨by decide, rfl, by decide, rfl, by decide, by decide, rfl, by decide, rfl⟩⟩⟩

/-- States and operands that meet the hypotheses of VectorArithmetic, part 2 of 2. -/
theorem test_VectorArithmetic_meets_2 :
    (∃ (s : State) (n : Nat) (cnt : Nat) (fmt : Nat) (q : TileIns) (l : List TileIns) (a : List Byte) (b : List Byte) (z : List Byte) (c1 : Chip) (c2 : Chip), (s.chip.headIs n 2 0x24 q l) ∧ (tiFmtA q.bytes = fmt) ∧ (fmt = 0xA ∨ fmt = 0xC) ∧ (tiImm q.bytes = cnt) ∧ (1 ≤ cnt) ∧ (cnt ≤ 4096) ∧ ((vecRead n 2 q ((s.chip.pop n 2 l).poolData n q) (packedLen fmt cnt)).run (s.chip.pop n 2 l) = (.ok (a, b, z), c1)) ∧ ((operandWrite n q.dst [(0, packElems fmt ((List.range cnt).map (fun i => vecBits fmt (fminmax true (elemVal fmt (elemAt fmt a i)) (elemVal fmt (elemAt fmt b i))))))]).run c1 = (.ok (), c2))) ∧
    (∃ (s : State) (n : Nat) (cnt : Nat) (fmt : Nat) (q : TileIns) (l : List TileIns) (a : List Byte) (b : List Byte) (z : List Byte) (c1 : Chip) (c2 : Chip), (s.chip.headIs n 2 0x24 q l) ∧ (tiFmtA q.bytes = fmt) ∧ (fmt = 0xD) ∧ (tiImm q.bytes = cnt) ∧ (1 ≤ cnt) ∧ (cnt ≤ 4096) ∧ ((vecRead n 2 q ((s.chip.pop n 2 l).poolData n q) (packedLen fmt cnt)).run (s.chip.pop n 2 l) = (.ok (a, b, z), c1)) ∧ (∀ i < cnt, -2147483648 ≤ max (sx 32 (elemAt fmt a i)) (sx 32 (elemAt fmt b i)) ∧ max (sx 32 (elemAt fmt a i)) (sx 32 (elemAt fmt b i)) ≤ 2147483647) ∧ ((operandWrite n q.dst [(0, packElems fmt ((List.range cnt).map (fun i => ux 32 (max (sx 32 (elemAt fmt a i)) (sx 32 (elemAt fmt b i))))))]).run c1 = (.ok (), c2))) :=
  ⟨⟨tState (tTile { vectorQ := [(tVec 0x24 0xC 1)] }), 0, 1, 0xC, (tVec 0x24 0xC 1), [], tZ4, tZ4, [], (tAfter (vecRead 0 2 (tVec 0x24 0xC 1) [] (packedLen 0xC 1)) ((tTile { vectorQ := [(tVec 0x24 0xC 1)] }).pop 0 2 [])), (tAfter (operandWrite 0 (tVec 0x24 0xC 1).dst [(0, packElems 0xC ((List.range 1).map (fun i => vecBits 0xC (fminmax true (elemVal 0xC (elemAt 0xC tZ4 i)) (elemVal 0xC (elemAt 0xC tZ4 i))))))]) (tAfter (vecRead 0 2 (tVec 0x24 0xC 1) [] (packedLen 0xC 1)) ((tTile { vectorQ := [(tVec 0x24 0xC 1)] }).pop 0 2 []))), ⟨by decide, rfl, by decide, rfl, by decide, by decide, rfl, rfl⟩⟩,
    ⟨tState (tTile { vectorQ := [(tVec 0x24 0xD 1)] }), 0, 1, 0xD, (tVec 0x24 0xD 1), [], tZ4, tZ4, [], (tAfter (vecRead 0 2 (tVec 0x24 0xD 1) [] (packedLen 0xD 1)) ((tTile { vectorQ := [(tVec 0x24 0xD 1)] }).pop 0 2 [])), (tAfter (operandWrite 0 (tVec 0x24 0xD 1).dst [(0, packElems 0xD ((List.range 1).map (fun i => ux 32 (max (sx 32 (elemAt 0xD tZ4 i)) (sx 32 (elemAt 0xD tZ4 i))))))]) (tAfter (vecRead 0 2 (tVec 0x24 0xD 1) [] (packedLen 0xD 1)) ((tTile { vectorQ := [(tVec 0x24 0xD 1)] }).pop 0 2 []))), ⟨by decide, rfl, by decide, rfl, by decide, by decide, rfl, by decide, rfl⟩⟩⟩

/-- States and operands that meet the hypotheses of VectorFunctions. -/
theorem test_VectorFunctions_meets :
    (∃ (s : State) (n : Nat) (cnt : Nat) (fmt : Nat) (q : TileIns) (l : List TileIns) (a : List Byte) (b : List Byte) (z : List Byte) (c1 : Chip) (c2 : Chip), (s.chip.headIs n 2 0x25 q l) ∧ (tiFmtA q.bytes = fmt) ∧ (fmt = 0xA ∨ fmt = 0xC ∨ fmt = 0xD) ∧ (tiImm q.bytes = cnt) ∧ (1 ≤ cnt) ∧ (cnt ≤ 4096) ∧ ((vecRead n 2 q ((s.chip.pop n 2 l).poolData n q) (packedLen fmt cnt)).run (s.chip.pop n 2 l) = (.ok (a, b, z), c1)) ∧ ((operandWrite n q.dst [(0, packElems fmt ((List.range cnt).map (fun i => (Config.freeValue (c1.free + i)).toNat % 2 ^ elemBits fmt)))]).run { c1 with free := c1.free + cnt } = (.ok (), c2))) ∧
    (∃ (s : State) (n : Nat) (cnt : Nat) (fmt : Nat) (q : TileIns) (l : List TileIns) (a : List Byte) (b : List Byte) (z : List Byte) (c1 : Chip) (c2 : Chip), (s.chip.headIs n 2 0x26 q l) ∧ (tiFmtA q.bytes = fmt) ∧ (fmt = 0xA ∨ fmt = 0xC ∨ fmt = 0xD) ∧ (tiImm q.bytes = cnt) ∧ (1 ≤ cnt) ∧ (cnt ≤ 4096) ∧ ((vecRead n 3 q ((s.chip.pop n 2 l).poolData n q) (packedLen fmt cnt)).run (s.chip.pop n 2 l) = (.ok (a, b, z), c1)) ∧ ((operandWrite n q.dst [(0, packElems fmt ((List.range cnt).map (fun i => if (Config.freeValue (c1.free + i)).toNat % 2 = 1 then elemAt fmt a i else elemAt fmt b i)))]).run { c1 with free := c1.free + cnt } = (.ok (), c2))) ∧
    (∃ (s : State) (n : Nat) (cnt : Nat) (fmt : Nat) (q : TileIns) (l : List TileIns) (a : List Byte) (b : List Byte) (z : List Byte) (c1 : Chip) (c2 : Chip), (s.chip.headIs n 2 0x28 q l) ∧ (tiFmtA q.bytes = fmt) ∧ (fmt = 0xA ∨ fmt = 0xC) ∧ (tiImm q.bytes = cnt) ∧ (1 ≤ cnt) ∧ (cnt ≤ 4096) ∧ ((vecRead n 1 q ((s.chip.pop n 2 l).poolData n q) (packedLen fmt cnt)).run (s.chip.pop n 2 l) = (.ok (a, b, z), c1)) ∧ ((operandWrite n q.dst [(0, packElems fmt ((List.range cnt).map (fun i => if fmt = 0xA then bf16.encode .rne false (fp32.decode (expF (elemVal fmt (elemAt fmt a i)) (Config.freeValue (c1.free + i)).toNat)) else expF (elemVal fmt (elemAt fmt a i)) (Config.freeValue (c1.free + i)).toNat)))]).run { c1 with free := c1.free + cnt } = (.ok (), c2))) ∧
    (∃ (s : State) (n : Nat) (cnt : Nat) (fmt : Nat) (q : TileIns) (l : List TileIns) (a : List Byte) (b : List Byte) (z : List Byte) (c1 : Chip) (c2 : Chip), (s.chip.headIs n 2 0x29 q l) ∧ (tiFmtA q.bytes = fmt) ∧ (fmt = 0xA ∨ fmt = 0xC) ∧ (tiImm q.bytes = cnt) ∧ (1 ≤ cnt) ∧ (cnt ≤ 4096) ∧ ((vecRead n 1 q ((s.chip.pop n 2 l).poolData n q) (packedLen fmt cnt)).run (s.chip.pop n 2 l) = (.ok (a, b, z), c1)) ∧ ((operandWrite n q.dst [(0, packElems fmt ((List.range cnt).map (fun i => if fmt = 0xA then bf16.encode .rne false (fp32.decode (rcpF (elemVal fmt (elemAt fmt a i)) (Config.freeValue (c1.free + i)).toNat)) else rcpF (elemVal fmt (elemAt fmt a i)) (Config.freeValue (c1.free + i)).toNat)))]).run { c1 with free := c1.free + cnt } = (.ok (), c2))) ∧
    (∃ (s : State) (n : Nat) (cnt : Nat) (fmt : Nat) (q : TileIns) (l : List TileIns) (a : List Byte) (b : List Byte) (z : List Byte) (c1 : Chip) (c2 : Chip), (s.chip.headIs n 2 0x2A q l) ∧ (tiFmtA q.bytes = fmt) ∧ (fmt = 0xA ∨ fmt = 0xC) ∧ (tiImm q.bytes = cnt) ∧ (1 ≤ cnt) ∧ (cnt ≤ 4096) ∧ ((vecRead n 1 q ((s.chip.pop n 2 l).poolData n q) (packedLen fmt cnt)).run (s.chip.pop n 2 l) = (.ok (a, b, z), c1)) ∧ ((operandWrite n q.dst [(0, packElems fmt ((List.range cnt).map (fun i => if fmt = 0xA then bf16.encode .rne false (fp32.decode (rsqF (elemVal fmt (elemAt fmt a i)) (Config.freeValue (c1.free + i)).toNat)) else rsqF (elemVal fmt (elemAt fmt a i)) (Config.freeValue (c1.free + i)).toNat)))]).run { c1 with free := c1.free + cnt } = (.ok (), c2))) ∧
    (∃ (s : State) (n : Nat) (cnt : Nat) (fmt : Nat) (q : TileIns) (l : List TileIns) (a : List Byte) (b : List Byte) (z : List Byte) (c1 : Chip) (c2 : Chip), (s.chip.headIs n 2 0x2B q l) ∧ (tiFmtA q.bytes = fmt) ∧ (fmt = 0xA ∨ fmt = 0xC) ∧ (tiImm q.bytes = cnt) ∧ (1 ≤ cnt) ∧ (cnt ≤ 4096) ∧ ((vecRead n 1 q ((s.chip.pop n 2 l).poolData n q) (packedLen fmt cnt)).run (s.chip.pop n 2 l) = (.ok (a, b, z), c1)) ∧ ((operandWrite n q.dst [(0, packElems fmt ((List.range cnt).map (fun i => if fmt = 0xA then bf16.encode .rne false (fp32.decode (tanhF (elemVal fmt (elemAt fmt a i)) (Config.freeValue (c1.free + i)).toNat)) else tanhF (elemVal fmt (elemAt fmt a i)) (Config.freeValue (c1.free + i)).toNat)))]).run { c1 with free := c1.free + cnt } = (.ok (), c2))) :=
  ⟨⟨tState (tTile { vectorQ := [(tVec 0x25 0xC 1)] }), 0, 1, 0xC, (tVec 0x25 0xC 1), [], tZ4, tZ4, [], (tAfter (vecRead 0 2 (tVec 0x25 0xC 1) [] (packedLen 0xC 1)) ((tTile { vectorQ := [(tVec 0x25 0xC 1)] }).pop 0 2 [])), (tAfter (operandWrite 0 (tVec 0x25 0xC 1).dst [(0, packElems 0xC ((List.range 1).map (fun i => (Config.freeValue ((tAfter (vecRead 0 2 (tVec 0x25 0xC 1) [] (packedLen 0xC 1)) ((tTile { vectorQ := [(tVec 0x25 0xC 1)] }).pop 0 2 [])).free + i)).toNat % 2 ^ elemBits 0xC)))]) { (tAfter (vecRead 0 2 (tVec 0x25 0xC 1) [] (packedLen 0xC 1)) ((tTile { vectorQ := [(tVec 0x25 0xC 1)] }).pop 0 2 [])) with free := (tAfter (vecRead 0 2 (tVec 0x25 0xC 1) [] (packedLen 0xC 1)) ((tTile { vectorQ := [(tVec 0x25 0xC 1)] }).pop 0 2 [])).free + 1 }), ⟨by decide, rfl, by decide, rfl, by decide, by decide, rfl, rfl⟩⟩,
    ⟨tState (tTile { vectorQ := [(tVec 0x26 0xC 1)] }), 0, 1, 0xC, (tVec 0x26 0xC 1), [], tZ4, tZ4, tZ4, (tAfter (vecRead 0 3 (tVec 0x26 0xC 1) [] (packedLen 0xC 1)) ((tTile { vectorQ := [(tVec 0x26 0xC 1)] }).pop 0 2 [])), (tAfter (operandWrite 0 (tVec 0x26 0xC 1).dst [(0, packElems 0xC ((List.range 1).map (fun i => if (Config.freeValue ((tAfter (vecRead 0 3 (tVec 0x26 0xC 1) [] (packedLen 0xC 1)) ((tTile { vectorQ := [(tVec 0x26 0xC 1)] }).pop 0 2 [])).free + i)).toNat % 2 = 1 then elemAt 0xC tZ4 i else elemAt 0xC tZ4 i)))]) { (tAfter (vecRead 0 3 (tVec 0x26 0xC 1) [] (packedLen 0xC 1)) ((tTile { vectorQ := [(tVec 0x26 0xC 1)] }).pop 0 2 [])) with free := (tAfter (vecRead 0 3 (tVec 0x26 0xC 1) [] (packedLen 0xC 1)) ((tTile { vectorQ := [(tVec 0x26 0xC 1)] }).pop 0 2 [])).free + 1 }), ⟨by decide, rfl, by decide, rfl, by decide, by decide, rfl, rfl⟩⟩,
    ⟨tState (tTile { vectorQ := [(tVec 0x28 0xC 1)] }), 0, 1, 0xC, (tVec 0x28 0xC 1), [], tZ4, [], [], (tAfter (vecRead 0 1 (tVec 0x28 0xC 1) [] (packedLen 0xC 1)) ((tTile { vectorQ := [(tVec 0x28 0xC 1)] }).pop 0 2 [])), (tAfter (operandWrite 0 (tVec 0x28 0xC 1).dst [(0, packElems 0xC ((List.range 1).map (fun i => if 0xC = 0xA then bf16.encode .rne false (fp32.decode (expF (elemVal 0xC (elemAt 0xC tZ4 i)) (Config.freeValue ((tAfter (vecRead 0 1 (tVec 0x28 0xC 1) [] (packedLen 0xC 1)) ((tTile { vectorQ := [(tVec 0x28 0xC 1)] }).pop 0 2 [])).free + i)).toNat)) else expF (elemVal 0xC (elemAt 0xC tZ4 i)) (Config.freeValue ((tAfter (vecRead 0 1 (tVec 0x28 0xC 1) [] (packedLen 0xC 1)) ((tTile { vectorQ := [(tVec 0x28 0xC 1)] }).pop 0 2 [])).free + i)).toNat)))]) { (tAfter (vecRead 0 1 (tVec 0x28 0xC 1) [] (packedLen 0xC 1)) ((tTile { vectorQ := [(tVec 0x28 0xC 1)] }).pop 0 2 [])) with free := (tAfter (vecRead 0 1 (tVec 0x28 0xC 1) [] (packedLen 0xC 1)) ((tTile { vectorQ := [(tVec 0x28 0xC 1)] }).pop 0 2 [])).free + 1 }), ⟨by decide, rfl, by decide, rfl, by decide, by decide, rfl, rfl⟩⟩,
    ⟨tState (tTile { vectorQ := [(tVec 0x29 0xC 1)] }), 0, 1, 0xC, (tVec 0x29 0xC 1), [], tZ4, [], [], (tAfter (vecRead 0 1 (tVec 0x29 0xC 1) [] (packedLen 0xC 1)) ((tTile { vectorQ := [(tVec 0x29 0xC 1)] }).pop 0 2 [])), (tAfter (operandWrite 0 (tVec 0x29 0xC 1).dst [(0, packElems 0xC ((List.range 1).map (fun i => if 0xC = 0xA then bf16.encode .rne false (fp32.decode (rcpF (elemVal 0xC (elemAt 0xC tZ4 i)) (Config.freeValue ((tAfter (vecRead 0 1 (tVec 0x29 0xC 1) [] (packedLen 0xC 1)) ((tTile { vectorQ := [(tVec 0x29 0xC 1)] }).pop 0 2 [])).free + i)).toNat)) else rcpF (elemVal 0xC (elemAt 0xC tZ4 i)) (Config.freeValue ((tAfter (vecRead 0 1 (tVec 0x29 0xC 1) [] (packedLen 0xC 1)) ((tTile { vectorQ := [(tVec 0x29 0xC 1)] }).pop 0 2 [])).free + i)).toNat)))]) { (tAfter (vecRead 0 1 (tVec 0x29 0xC 1) [] (packedLen 0xC 1)) ((tTile { vectorQ := [(tVec 0x29 0xC 1)] }).pop 0 2 [])) with free := (tAfter (vecRead 0 1 (tVec 0x29 0xC 1) [] (packedLen 0xC 1)) ((tTile { vectorQ := [(tVec 0x29 0xC 1)] }).pop 0 2 [])).free + 1 }), ⟨by decide, rfl, by decide, rfl, by decide, by decide, rfl, rfl⟩⟩,
    ⟨tState (tTile { vectorQ := [(tVec 0x2A 0xC 1)] }), 0, 1, 0xC, (tVec 0x2A 0xC 1), [], tZ4, [], [], (tAfter (vecRead 0 1 (tVec 0x2A 0xC 1) [] (packedLen 0xC 1)) ((tTile { vectorQ := [(tVec 0x2A 0xC 1)] }).pop 0 2 [])), (tAfter (operandWrite 0 (tVec 0x2A 0xC 1).dst [(0, packElems 0xC ((List.range 1).map (fun i => if 0xC = 0xA then bf16.encode .rne false (fp32.decode (rsqF (elemVal 0xC (elemAt 0xC tZ4 i)) (Config.freeValue ((tAfter (vecRead 0 1 (tVec 0x2A 0xC 1) [] (packedLen 0xC 1)) ((tTile { vectorQ := [(tVec 0x2A 0xC 1)] }).pop 0 2 [])).free + i)).toNat)) else rsqF (elemVal 0xC (elemAt 0xC tZ4 i)) (Config.freeValue ((tAfter (vecRead 0 1 (tVec 0x2A 0xC 1) [] (packedLen 0xC 1)) ((tTile { vectorQ := [(tVec 0x2A 0xC 1)] }).pop 0 2 [])).free + i)).toNat)))]) { (tAfter (vecRead 0 1 (tVec 0x2A 0xC 1) [] (packedLen 0xC 1)) ((tTile { vectorQ := [(tVec 0x2A 0xC 1)] }).pop 0 2 [])) with free := (tAfter (vecRead 0 1 (tVec 0x2A 0xC 1) [] (packedLen 0xC 1)) ((tTile { vectorQ := [(tVec 0x2A 0xC 1)] }).pop 0 2 [])).free + 1 }), ⟨by decide, rfl, by decide, rfl, by decide, by decide, rfl, rfl⟩⟩,
    ⟨tState (tTile { vectorQ := [(tVec 0x2B 0xC 1)] }), 0, 1, 0xC, (tVec 0x2B 0xC 1), [], tZ4, [], [], (tAfter (vecRead 0 1 (tVec 0x2B 0xC 1) [] (packedLen 0xC 1)) ((tTile { vectorQ := [(tVec 0x2B 0xC 1)] }).pop 0 2 [])), (tAfter (operandWrite 0 (tVec 0x2B 0xC 1).dst [(0, packElems 0xC ((List.range 1).map (fun i => if 0xC = 0xA then bf16.encode .rne false (fp32.decode (tanhF (elemVal 0xC (elemAt 0xC tZ4 i)) (Config.freeValue ((tAfter (vecRead 0 1 (tVec 0x2B 0xC 1) [] (packedLen 0xC 1)) ((tTile { vectorQ := [(tVec 0x2B 0xC 1)] }).pop 0 2 [])).free + i)).toNat)) else tanhF (elemVal 0xC (elemAt 0xC tZ4 i)) (Config.freeValue ((tAfter (vecRead 0 1 (tVec 0x2B 0xC 1) [] (packedLen 0xC 1)) ((tTile { vectorQ := [(tVec 0x2B 0xC 1)] }).pop 0 2 [])).free + i)).toNat)))]) { (tAfter (vecRead 0 1 (tVec 0x2B 0xC 1) [] (packedLen 0xC 1)) ((tTile { vectorQ := [(tVec 0x2B 0xC 1)] }).pop 0 2 [])) with free := (tAfter (vecRead 0 1 (tVec 0x2B 0xC 1) [] (packedLen 0xC 1)) ((tTile { vectorQ := [(tVec 0x2B 0xC 1)] }).pop 0 2 [])).free + 1 }), ⟨by decide, rfl, by decide, rfl, by decide, by decide, rfl, rfl⟩⟩⟩

/-- States and operands that meet the hypotheses of VectorReduction. -/
theorem test_VectorReduction_meets :
    (∃ (s : State) (n : Nat) (cnt : Nat) (fmt : Nat) (q : TileIns) (l : List TileIns) (b : List Byte) (c1 : Chip) (c2 : Chip), (s.chip.headIs n 2 0x32 q l) ∧ (tiFmtA q.bytes = fmt) ∧ (fmt = 0xD) ∧ (tiRed q.bytes = 0) ∧ (tiImm q.bytes = cnt) ∧ (1 ≤ cnt) ∧ (cnt ≤ 4096) ∧ ((operandRead n ((s.chip.pop n 2 l).poolData n q) q.a 0 (packedLen fmt cnt)).run (s.chip.pop n 2 l) = (.ok b, c1)) ∧ (-2147483648 ≤ (((List.range cnt).map (elemAt fmt b)).map (sx 32)).foldl (· + ·) 0 ∧ (((List.range cnt).map (elemAt fmt b)).map (sx 32)).foldl (· + ·) 0 ≤ 2147483647) ∧ ((operandWrite n q.dst [(0, packElems fmt [ux 32 ((((List.range cnt).map (elemAt fmt b)).map (sx 32)).foldl (· + ·) 0)])]).run c1 = (.ok (), c2))) ∧
    (∃ (s : State) (n : Nat) (cnt : Nat) (fmt : Nat) (r : Nat) (q : TileIns) (l : List TileIns) (b : List Byte) (c1 : Chip) (c2 : Chip), (s.chip.headIs n 2 0x32 q l) ∧ (tiFmtA q.bytes = fmt) ∧ (fmt = 0xA ∨ fmt = 0xC) ∧ (tiRed q.bytes = 0) ∧ (tiImm q.bytes = cnt) ∧ (1 ≤ cnt) ∧ (cnt ≤ 4096) ∧ ((operandRead n ((s.chip.pop n 2 l).poolData n q) q.a 0 (packedLen fmt cnt)).run (s.chip.pop n 2 l) = (.ok b, c1)) ∧ ((sumAnyOrder (((List.range cnt).map (elemAt fmt b)).map (elemVal fmt))).map (vecBits fmt) = some r) ∧ ((operandWrite n q.dst [(0, packElems fmt [r])]).run c1 = (.ok (), c2))) ∧
    (∃ (s : State) (n : Nat) (cnt : Nat) (fmt : Nat) (q : TileIns) (l : List TileIns) (b : List Byte) (c1 : Chip) (c2 : Chip), (s.chip.headIs n 2 0x32 q l) ∧ (tiFmtA q.bytes = fmt) ∧ (fmt = 0xD) ∧ (tiRed q.bytes = 1) ∧ (tiImm q.bytes = cnt) ∧ (1 ≤ cnt) ∧ (cnt ≤ 4096) ∧ ((operandRead n ((s.chip.pop n 2 l).poolData n q) q.a 0 (packedLen fmt cnt)).run (s.chip.pop n 2 l) = (.ok b, c1)) ∧ ((operandWrite n q.dst [(0, packElems fmt [ux 32 ((((List.range cnt).map (elemAt fmt b)).map (sx 32)).foldl max ((((List.range cnt).map (elemAt fmt b)).map (sx 32)).headD 0))])]).run c1 = (.ok (), c2))) ∧
    (∃ (s : State) (n : Nat) (cnt : Nat) (fmt : Nat) (q : TileIns) (l : List TileIns) (b : List Byte) (c1 : Chip) (c2 : Chip), (s.chip.headIs n 2 0x32 q l) ∧ (tiFmtA q.bytes = fmt) ∧ (fmt = 0xD) ∧ (tiRed q.bytes = 2) ∧ (tiImm q.bytes = cnt) ∧ (1 ≤ cnt) ∧ (cnt ≤ 4096) ∧ ((operandRead n ((s.chip.pop n 2 l).poolData n q) q.a 0 (packedLen fmt cnt)).run (s.chip.pop n 2 l) = (.ok b, c1)) ∧ ((operandWrite n q.dst [(0, packElems fmt [ux 32 ((((List.range cnt).map (elemAt fmt b)).map (sx 32)).foldl min ((((List.range cnt).map (elemAt fmt b)).map (sx 32)).headD 0))])]).run c1 = (.ok (), c2))) ∧
    (∃ (s : State) (n : Nat) (cnt : Nat) (fmt : Nat) (q : TileIns) (l : List TileIns) (b : List Byte) (c1 : Chip) (c2 : Chip), (s.chip.headIs n 2 0x32 q l) ∧ (tiFmtA q.bytes = fmt) ∧ (fmt = 0xA ∨ fmt = 0xC) ∧ (tiRed q.bytes = 1) ∧ (tiImm q.bytes = cnt) ∧ (1 ≤ cnt) ∧ (cnt ≤ 4096) ∧ ((operandRead n ((s.chip.pop n 2 l).poolData n q) q.a 0 (packedLen fmt cnt)).run (s.chip.pop n 2 l) = (.ok b, c1)) ∧ ((operandWrite n q.dst [(0, packElems fmt [vecBits fmt ((((List.range cnt).map (elemAt fmt b)).map (elemVal fmt)).foldl (fminmax true) .nan)])]).run c1 = (.ok (), c2))) ∧
    (∃ (s : State) (n : Nat) (cnt : Nat) (fmt : Nat) (q : TileIns) (l : List TileIns) (b : List Byte) (c1 : Chip) (c2 : Chip), (s.chip.headIs n 2 0x32 q l) ∧ (tiFmtA q.bytes = fmt) ∧ (fmt = 0xA ∨ fmt = 0xC) ∧ (tiRed q.bytes = 2) ∧ (tiImm q.bytes = cnt) ∧ (1 ≤ cnt) ∧ (cnt ≤ 4096) ∧ ((operandRead n ((s.chip.pop n 2 l).poolData n q) q.a 0 (packedLen fmt cnt)).run (s.chip.pop n 2 l) = (.ok b, c1)) ∧ ((operandWrite n q.dst [(0, packElems fmt [vecBits fmt ((((List.range cnt).map (elemAt fmt b)).map (elemVal fmt)).foldl (fminmax false) .nan)])]).run c1 = (.ok (), c2))) :=
  ⟨⟨tState (tTile { vectorQ := [(tVec 0x32 (0xD + 0 * 2048) 1)] }), 0, 1, 0xD, (tVec 0x32 (0xD + 0 * 2048) 1), [], tZ4, (tAfter (operandRead 0 [] (tVec 0x32 (0xD + 0 * 2048) 1).a 0 (packedLen 0xD 1)) ((tTile { vectorQ := [(tVec 0x32 (0xD + 0 * 2048) 1)] }).pop 0 2 [])), (tAfter (operandWrite 0 (tVec 0x32 (0xD + 0 * 2048) 1).dst [(0, packElems 0xD [ux 32 ((((List.range 1).map (elemAt 0xD tZ4)).map (sx 32)).foldl (· + ·) 0)])]) (tAfter (operandRead 0 [] (tVec 0x32 (0xD + 0 * 2048) 1).a 0 (packedLen 0xD 1)) ((tTile { vectorQ := [(tVec 0x32 (0xD + 0 * 2048) 1)] }).pop 0 2 []))), ⟨by decide, rfl, by decide, by decide, rfl, by decide, by decide, rfl, by decide, rfl⟩⟩,
    ⟨tState (tTile { vectorQ := [(tVec 0x32 (0xC + 0 * 2048) 1)] }), 0, 1, 0xC, 0, (tVec 0x32 (0xC + 0 * 2048) 1), [], tZ4, (tAfter (operandRead 0 [] (tVec 0x32 (0xC + 0 * 2048) 1).a 0 (packedLen 0xC 1)) ((tTile { vectorQ := [(tVec 0x32 (0xC + 0 * 2048) 1)] }).pop 0 2 [])), (tAfter (operandWrite 0 (tVec 0x32 (0xC + 0 * 2048) 1).dst [(0, packElems 0xC [0])]) (tAfter (operandRead 0 [] (tVec 0x32 (0xC + 0 * 2048) 1).a 0 (packedLen 0xC 1)) ((tTile { vectorQ := [(tVec 0x32 (0xC + 0 * 2048) 1)] }).pop 0 2 []))), ⟨by decide, rfl, by decide, by decide, rfl, by decide, by decide, rfl, by decide, rfl⟩⟩,
    ⟨tState (tTile { vectorQ := [(tVec 0x32 (0xD + 1 * 2048) 1)] }), 0, 1, 0xD, (tVec 0x32 (0xD + 1 * 2048) 1), [], tZ4, (tAfter (operandRead 0 [] (tVec 0x32 (0xD + 1 * 2048) 1).a 0 (packedLen 0xD 1)) ((tTile { vectorQ := [(tVec 0x32 (0xD + 1 * 2048) 1)] }).pop 0 2 [])), (tAfter (operandWrite 0 (tVec 0x32 (0xD + 1 * 2048) 1).dst [(0, packElems 0xD [ux 32 ((((List.range 1).map (elemAt 0xD tZ4)).map (sx 32)).foldl max ((((List.range 1).map (elemAt 0xD tZ4)).map (sx 32)).headD 0))])]) (tAfter (operandRead 0 [] (tVec 0x32 (0xD + 1 * 2048) 1).a 0 (packedLen 0xD 1)) ((tTile { vectorQ := [(tVec 0x32 (0xD + 1 * 2048) 1)] }).pop 0 2 []))), ⟨by decide, rfl, by decide, by decide, rfl, by decide, by decide, rfl, rfl⟩⟩,
    ⟨tState (tTile { vectorQ := [(tVec 0x32 (0xD + 2 * 2048) 1)] }), 0, 1, 0xD, (tVec 0x32 (0xD + 2 * 2048) 1), [], tZ4, (tAfter (operandRead 0 [] (tVec 0x32 (0xD + 2 * 2048) 1).a 0 (packedLen 0xD 1)) ((tTile { vectorQ := [(tVec 0x32 (0xD + 2 * 2048) 1)] }).pop 0 2 [])), (tAfter (operandWrite 0 (tVec 0x32 (0xD + 2 * 2048) 1).dst [(0, packElems 0xD [ux 32 ((((List.range 1).map (elemAt 0xD tZ4)).map (sx 32)).foldl min ((((List.range 1).map (elemAt 0xD tZ4)).map (sx 32)).headD 0))])]) (tAfter (operandRead 0 [] (tVec 0x32 (0xD + 2 * 2048) 1).a 0 (packedLen 0xD 1)) ((tTile { vectorQ := [(tVec 0x32 (0xD + 2 * 2048) 1)] }).pop 0 2 []))), ⟨by decide, rfl, by decide, by decide, rfl, by decide, by decide, rfl, rfl⟩⟩,
    ⟨tState (tTile { vectorQ := [(tVec 0x32 (0xC + 1 * 2048) 1)] }), 0, 1, 0xC, (tVec 0x32 (0xC + 1 * 2048) 1), [], tZ4, (tAfter (operandRead 0 [] (tVec 0x32 (0xC + 1 * 2048) 1).a 0 (packedLen 0xC 1)) ((tTile { vectorQ := [(tVec 0x32 (0xC + 1 * 2048) 1)] }).pop 0 2 [])), (tAfter (operandWrite 0 (tVec 0x32 (0xC + 1 * 2048) 1).dst [(0, packElems 0xC [vecBits 0xC ((((List.range 1).map (elemAt 0xC tZ4)).map (elemVal 0xC)).foldl (fminmax true) .nan)])]) (tAfter (operandRead 0 [] (tVec 0x32 (0xC + 1 * 2048) 1).a 0 (packedLen 0xC 1)) ((tTile { vectorQ := [(tVec 0x32 (0xC + 1 * 2048) 1)] }).pop 0 2 []))), ⟨by decide, rfl, by decide, by decide, rfl, by decide, by decide, rfl, rfl⟩⟩,
    ⟨tState (tTile { vectorQ := [(tVec 0x32 (0xC + 2 * 2048) 1)] }), 0, 1, 0xC, (tVec 0x32 (0xC + 2 * 2048) 1), [], tZ4, (tAfter (operandRead 0 [] (tVec 0x32 (0xC + 2 * 2048) 1).a 0 (packedLen 0xC 1)) ((tTile { vectorQ := [(tVec 0x32 (0xC + 2 * 2048) 1)] }).pop 0 2 [])), (tAfter (operandWrite 0 (tVec 0x32 (0xC + 2 * 2048) 1).dst [(0, packElems 0xC [vecBits 0xC ((((List.range 1).map (elemAt 0xC tZ4)).map (elemVal 0xC)).foldl (fminmax false) .nan)])]) (tAfter (operandRead 0 [] (tVec 0x32 (0xC + 2 * 2048) 1).a 0 (packedLen 0xC 1)) ((tTile { vectorQ := [(tVec 0x32 (0xC + 2 * 2048) 1)] }).pop 0 2 []))), ⟨by decide, rfl, by decide, by decide, rfl, by decide, by decide, rfl, rfl⟩⟩⟩

/-- States and operands that meet the hypotheses of ArrayAndConversion. -/
theorem test_ArrayAndConversion_meets :
    (∃ (s : State) (n : Nat) (q : TileIns) (l : List TileIns) (clocks : Nat) (int : Bool) (c2 : Chip), (s.chip.headIs n 1 0x10 q l) ∧ (pairInfo (tiFmtA q.bytes) (tiFmtB q.bytes) = some (clocks, int)) ∧ ((mmaArrays n q ((s.chip.pop n 1 l).poolData n q) clocks int (tiArrays q.bytes)).run (s.chip.pop n 1 l) = (.ok (), c2))) ∧
    (∃ (s : State) (n : Nat) (q : TileIns) (l : List TileIns), (s.chip.headIs n 1 0x11 q l)) ∧
    (∃ (s : State) (n : Nat) (q : TileIns) (l : List TileIns) (c2 : Chip), (s.chip.headIs n 1 0x12 q l) ∧ ((operandWrite n q.dst [(0, (tiArrays q.bytes).flatMap (fun j => ((s.chip.pop n 1 l).tile n).accBytes (256 * j) 256))]).run (s.chip.pop n 1 l) = (.ok (), c2))) ∧
    (∃ (s : State) (n : Nat) (q : TileIns) (l : List TileIns) (c2 : Chip), (s.chip.headIs n 1 0x13 q l) ∧ ((accLoadArrays n q ((s.chip.pop n 1 l).poolData n q) (tiArrays q.bytes) 0).run (s.chip.pop n 1 l) = (.ok (), c2))) ∧
    (∃ (s : State) (n : Nat) (q : TileIns) (l : List TileIns) (fi : Nat) (fo : Nat) (cnt : Nat) (x : List Byte) (sb : List Byte) (zt : List Byte) (c0 : Chip) (c1 : Chip) (c3 : Chip) (c2 : Chip), (s.chip.headIs n 2 0x30 q l) ∧ (tiFmtA q.bytes = fi) ∧ (fi = 0xC ∨ fi = 0xD) ∧ (tiFmtB q.bytes = fo) ∧ (fmtOk fo = true) ∧ (tiImm q.bytes % 2 ^ 16 = cnt) ∧ (((floatFmt fo).isNone && !isMx fo) = false) ∧ ((operandRead n ((s.chip.pop n 2 l).poolData n q) q.a 0 (4 * cnt)).run (s.chip.pop n 2 l) = (.ok x, c0)) ∧ ((operandRead n ((s.chip.pop n 2 l).poolData n q) q.c 0 (8 * cnt)).run c0 = (.ok sb, c1)) ∧ (zt = [] ∧ c3 = c1) ∧ ((convertAll n q (if tiClamp q.bytes then some (sx 32 (tiExt q.bytes), sx 32 (tiExt q.bytes / 2 ^ 32)) else none) (fun i => sx 32 (bytesU zt (4 * i) 4)) ((List.range cnt).map (fun i => f32 (fadd (fmul (f32 (elemVal fi (elemAt fi x i))) (fp32.decode (bytesU sb (4 * i) 4))) (fp32.decode (bytesU sb (4 * cnt + 4 * i) 4)))))).run c3 = (.ok (), c2))) ∧
    (∃ (s : State) (n : Nat) (q : TileIns) (l : List TileIns) (fi : Nat) (fo : Nat) (cnt : Nat) (x : List Byte) (sb : List Byte) (zt : List Byte) (c0 : Chip) (c1 : Chip) (c3 : Chip) (c2 : Chip), (s.chip.headIs n 2 0x30 q l) ∧ (tiFmtA q.bytes = fi) ∧ (fi = 0xC ∨ fi = 0xD) ∧ (tiFmtB q.bytes = fo) ∧ (fmtOk fo = true) ∧ (tiImm q.bytes % 2 ^ 16 = cnt) ∧ (((floatFmt fo).isNone && !isMx fo) = true) ∧ ((operandRead n ((s.chip.pop n 2 l).poolData n q) q.a 0 (4 * cnt)).run (s.chip.pop n 2 l) = (.ok x, c0)) ∧ ((operandRead n ((s.chip.pop n 2 l).poolData n q) q.c 0 (8 * cnt)).run c0 = (.ok sb, c1)) ∧ ((operandRead n ((s.chip.pop n 2 l).poolData n q) q.c (8 * cnt) (4 * cnt)).run c1 = (.ok zt, c3)) ∧ ((convertAll n q (if tiClamp q.bytes then some (sx 32 (tiExt q.bytes), sx 32 (tiExt q.bytes / 2 ^ 32)) else none) (fun i => sx 32 (bytesU zt (4 * i) 4)) ((List.range cnt).map (fun i => f32 (fadd (fmul (f32 (elemVal fi (elemAt fi x i))) (fp32.decode (bytesU sb (4 * i) 4))) (fp32.decode (bytesU sb (4 * cnt + 4 * i) 4)))))).run c3 = (.ok (), c2))) ∧
    (∃ (s : State) (n : Nat) (q : TileIns) (l : List TileIns) (fi : Nat) (cnt : Nat) (x : List Byte) (sc : List Byte) (c1 : Chip) (c3 : Chip) (c2 : Chip), (s.chip.headIs n 2 0x31 q l) ∧ (tiFmtA q.bytes = fi) ∧ (fmtOk fi = true) ∧ (fmtOk (tiFmtB q.bytes) = true) ∧ (tiImm q.bytes = cnt) ∧ (1 ≤ cnt) ∧ (cnt ≤ 4096) ∧ (isMx fi = false) ∧ ((operandRead n ((s.chip.pop n 2 l).poolData n q) q.a 0 (packedLen fi cnt)).run (s.chip.pop n 2 l) = (.ok x, c1)) ∧ (sc = [] ∧ c3 = c1) ∧ ((convertAll n q none (fun _ => 0) ((List.range cnt).map (fun i =>
        let v := elemVal fi (elemAt fi x i)
        if isMx fi then
          match e8m0 (bytesU sc (i / 32) 1), v with
          | some k, .fin s m e => f32 (.fin s m (e + k - (if fi = 9 then 6 else 0)))
          | some _, v => v
          | none, _ => .nan
        else f32 v))).run c3 = (.ok (), c2))) ∧
    (∃ (s : State) (n : Nat) (q : TileIns) (l : List TileIns) (fi : Nat) (cnt : Nat) (x : List Byte) (sc : List Byte) (c1 : Chip) (c3 : Chip) (c2 : Chip), (s.chip.headIs n 2 0x31 q l) ∧ (tiFmtA q.bytes = fi) ∧ (fmtOk fi = true) ∧ (fmtOk (tiFmtB q.bytes) = true) ∧ (tiImm q.bytes = cnt) ∧ (1 ≤ cnt) ∧ (cnt ≤ 4096) ∧ (isMx fi = true) ∧ ((operandRead n ((s.chip.pop n 2 l).poolData n q) q.a 0 (packedLen fi cnt)).run (s.chip.pop n 2 l) = (.ok x, c1)) ∧ ((operandRead n ((s.chip.pop n 2 l).poolData n q) q.a (64 * bitsOf (tiExt q.bytes) 63 52) ((cnt + 31) / 32)).run c1 = (.ok sc, c3)) ∧ ((convertAll n q none (fun _ => 0) ((List.range cnt).map (fun i =>
        let v := elemVal fi (elemAt fi x i)
        if isMx fi then
          match e8m0 (bytesU sc (i / 32) 1), v with
          | some k, .fin s m e => f32 (.fin s m (e + k - (if fi = 9 then 6 else 0)))
          | some _, v => v
          | none, _ => .nan
        else f32 v))).run c3 = (.ok (), c2))) :=
  ⟨⟨tState (tTile { arrayQ := [(tQueued (tIns 0x10 1 0x22 0 (tV 8) (tV 16) 0 0 1))] }), 0, (tQueued (tIns 0x10 1 0x22 0 (tV 8) (tV 16) 0 0 1)), [], ((pairInfo 2 2).getD (0, true)).1, ((pairInfo 2 2).getD (0, true)).2, _, ⟨by decide, by decide, tRan rfl⟩⟩,
    ⟨tState (tTile { arrayQ := [(tQueued (tIns 0x11 1 0 0 0 0 0 0 5))] }), 0, (tQueued (tIns 0x11 1 0 0 0 0 0 0 5)), [], by decide⟩,
    ⟨tState (tTile { arrayQ := [(tQueued (tIns 0x12 1 0 (tV 8) 0 0 0 0 1))] }), 0, (tQueued (tIns 0x12 1 0 (tV 8) 0 0 0 0 1)), [], _, ⟨by decide, tRan rfl⟩⟩,
    ⟨tState (tTile { arrayQ := [(tQueued (tIns 0x13 1 0 0 (tV 8) 0 0 0 1))] }), 0, (tQueued (tIns 0x13 1 0 0 (tV 8) 0 0 0 1)), [], _, ⟨by decide, tRan rfl⟩⟩,
    ⟨tState (tTile { vectorQ := [(tQueued (tIns 0x30 2 0xAC (tV 3) (tV 0) (tV 1) (tV 2) 1 0))] }), 0, (tQueued (tIns 0x30 2 0xAC (tV 3) (tV 0) (tV 1) (tV 2) 1 0)), [], 0xC, 0xA, 1, tZ4, (tZ4 ++ tZ4), [], ((tTile { vectorQ := [(tQueued (tIns 0x30 2 0xAC (tV 3) (tV 0) (tV 1) (tV 2) 1 0))] }).pop 0 2 []), ((tTile { vectorQ := [(tQueued (tIns 0x30 2 0xAC (tV 3) (tV 0) (tV 1) (tV 2) 1 0))] }).pop 0 2 []), ((tTile { vectorQ := [(tQueued (tIns 0x30 2 0xAC (tV 3) (tV 0) (tV 1) (tV 2) 1 0))] }).pop 0 2 []), _, ⟨by decide, rfl, by decide, rfl, by decide, rfl, by decide, rfl, rfl, ⟨rfl, rfl⟩, tRan rfl⟩⟩,
    ⟨tState (tTile { vectorQ := [(tQueued (tIns 0x30 2 0x2D (tV 3) (tV 0) (tV 1) (tV 2) 1 0))] }), 0, (tQueued (tIns 0x30 2 0x2D (tV 3) (tV 0) (tV 1) (tV 2) 1 0)), [], 0xD, 2, 1, tZ4, (tZ4 ++ tZ4), tZ4, ((tTile { vectorQ := [(tQueued (tIns 0x30 2 0x2D (tV 3) (tV 0) (tV 1) (tV 2) 1 0))] }).pop 0 2 []), ((tTile { vectorQ := [(tQueued (tIns 0x30 2 0x2D (tV 3) (tV 0) (tV 1) (tV 2) 1 0))] }).pop 0 2 []), ((tTile { vectorQ := [(tQueued (tIns 0x30 2 0x2D (tV 3) (tV 0) (tV 1) (tV 2) 1 0))] }).pop 0 2 []), _, ⟨by decide, rfl, by decide, rfl, by decide, rfl, by decide, rfl, rfl, rfl, tRan rfl⟩⟩,
    ⟨tState (tTile { vectorQ := [(tQueued (tIns 0x31 2 (0xA0 + 0xC) (tV 3) (tV 0) (tV 1) (tV 2) 1 0))] }), 0, (tQueued (tIns 0x31 2 (0xA0 + 0xC) (tV 3) (tV 0) (tV 1) (tV 2) 1 0)), [], 0xC, 1, (List.replicate (packedLen 0xC 1) 0), [], ((tTile { vectorQ := [(tQueued (tIns 0x31 2 (0xA0 + 0xC) (tV 3) (tV 0) (tV 1) (tV 2) 1 0))] }).pop 0 2 []), ((tTile { vectorQ := [(tQueued (tIns 0x31 2 (0xA0 + 0xC) (tV 3) (tV 0) (tV 1) (tV 2) 1 0))] }).pop 0 2 []), _, ⟨by decide, rfl, by decide, by decide, rfl, by decide, by decide, by decide, rfl, ⟨rfl, rfl⟩, tRan rfl⟩⟩,
    ⟨tState (tTile { vectorQ := [(tQueued (tIns 0x31 2 (0xA0 + 6) (tV 3) (tV 0) (tV 1) (tV 2) 1 0))] }), 0, (tQueued (tIns 0x31 2 (0xA0 + 6) (tV 3) (tV 0) (tV 1) (tV 2) 1 0)), [], 6, 1, (List.replicate (packedLen 6 1) 0), [0], ((tTile { vectorQ := [(tQueued (tIns 0x31 2 (0xA0 + 6) (tV 3) (tV 0) (tV 1) (tV 2) 1 0))] }).pop 0 2 []), ((tTile { vectorQ := [(tQueued (tIns 0x31 2 (0xA0 + 6) (tV 3) (tV 0) (tV 1) (tV 2) 1 0))] }).pop 0 2 []), _, ⟨by decide, rfl, by decide, by decide, rfl, by decide, by decide, by decide, rfl, rfl, tRan rfl⟩⟩⟩

/-- States and operands that meet the hypotheses of TileControl, part 1 of 2. -/
theorem test_TileControl_meets_1 :
    (∃ (s : State) (n : Nat) (b : List Byte), (s.chip.controlIs n 0 b)) ∧
    (∃ (s : State) (n : Nat) (b : List Byte), (s.chip.controlIs n 1 b) ∧ ((s.chip.tile n).loops.length < 4) ∧ (1 ≤ tiImm b) ∧ (tiImm b ≤ 1048576)) ∧
    (∃ (s : State) (n : Nat) (b : List Byte), (s.chip.controlIs n 1 b) ∧ (4 ≤ (s.chip.tile n).loops.length)) ∧
    (∃ (s : State) (n : Nat) (b : List Byte) (v : LoopLevel), (s.chip.controlIs n 2 b) ∧ ((s.chip.tile n).loops.getLast? = some v) ∧ (v.index + 1 < v.count)) ∧
    (∃ (s : State) (n : Nat) (b : List Byte) (v : LoopLevel), (s.chip.controlIs n 2 b) ∧ ((s.chip.tile n).loops.getLast? = some v) ∧ (v.count ≤ v.index + 1)) ∧
    (∃ (s : State) (n : Nat) (b : List Byte), (s.chip.controlIs n 3 b) ∧ (tiImm b % 1024 < (s.chip.tile n).codeCount)) ∧
    (∃ (s : State) (n : Nat) (b : List Byte), (s.chip.controlIs n 3 b) ∧ ((s.chip.tile n).codeCount ≤ tiImm b % 1024)) ∧
    (∃ (s : State) (n : Nat) (b : List Byte), (s.chip.controlIs n 4 b) ∧ ((s.chip.tile n).idle = true) ∧ (((s.chip.controlled n b { s.chip.tile n with pc := (s.chip.tile n).pc + 1, lastDecoded := (s.chip.tile n).pc, ended := true }).tile n).ended = true)) :=
  ⟨⟨tState (tTile { ibuf := [(0, tCtl 0 0 0)] }), 0, tCtl 0 0 0, by decide⟩,
    ⟨tState (tTile { ibuf := [(0, tCtl 1 1048576 0)] }), 0, tCtl 1 1048576 0, by decide⟩,
    ⟨tState (tTile { ibuf := [(0, tCtl 1 5 0)], loops := List.replicate 4 { start := 0, count := 1, incDst := 0, incA := 0, incB := 0 } }), 0, tCtl 1 5 0, by decide⟩,
    ⟨tState (tTile { ibuf := [(0, tCtl 2 0 0)], loops := [{ start := 0, count := 2, incDst := 0, incA := 0, incB := 0 }] }), 0, tCtl 2 0 0, { start := 0, count := 2, incDst := 0, incA := 0, incB := 0 }, by decide⟩,
    ⟨tState (tTile { ibuf := [(0, tCtl 2 0 0)], loops := [{ start := 0, count := 2, index := 1, incDst := 0, incA := 0, incB := 0 }] }), 0, tCtl 2 0 0, { start := 0, count := 2, index := 1, incDst := 0, incA := 0, incB := 0 }, by decide⟩,
    ⟨tState (tTile { ibuf := [(0, tCtl 3 7 0)] }), 0, tCtl 3 7 0, by decide⟩,
    ⟨tState (tTile { ibuf := [(0, tCtl 3 8 0)] }), 0, tCtl 3 8 0, by decide⟩,
    ⟨tState (tTile { ibuf := [(0, tCtl 4 0 0)] }), 0, tCtl 4 0 0, by decide⟩⟩

/-- States and operands that meet the hypotheses of TileControl, part 2 of 2. -/
theorem test_TileControl_meets_2 :
    (∃ (s : State) (n : Nat) (b : List Byte), (s.chip.controlIs n 5 b) ∧ ((s.chip.tile n).idle = true)) ∧
    (∃ (s : State) (n : Nat) (b : List Byte), (s.chip.controlIs n 5 b) ∧ ((s.chip.tile n).idle = false)) :=
  ⟨⟨tState (tTile { ibuf := [(0, tCtl 5 0 0)] }), 0, tCtl 5 0 0, by decide⟩,
    ⟨tState (tTile { ibuf := [(0, tCtl 5 0 0)], executing := [(1, none)] }), 0, tCtl 5 0 0, by decide⟩⟩

/-- States and operands that meet the hypotheses of TileMovesAndSyncs, part 1 of 2. -/
theorem test_TileMovesAndSyncs_meets_1 :
    (∃ (s : State) (n : Nat) (q : TileIns) (l : List TileIns) (x : List Byte) (c1 : Chip) (c2 : Chip), (s.chip.headIs n 3 0x40 q l) ∧ ((operandRead n ((s.chip.pop n 3 l).poolData n q) q.a 0 (tiImm q.bytes)).run (s.chip.pop n 3 l) = (.ok x, c1)) ∧ ((operandWrite n q.dst [(0, x)]).run c1 = (.ok (), c2))) ∧
    (∃ (s : State) (n : Nat) (q : TileIns) (l : List TileIns) (x : List Byte) (k : Nat) (c1 : Chip) (c2 : Chip), (s.chip.headIs n 3 0x41 q l) ∧ ((operandRead n ((s.chip.pop n 3 l).poolData n q) q.a 0 (tiImm q.bytes)).run (s.chip.pop n 3 l) = (.ok x, c1)) ∧ (c1.saveRange (groupMaster (n / 16)) (c1.tile n).slice (tiExt q.bytes % 2 ^ 48) x (c1.tile n).cls = (.ok, k, c2))) ∧
    (∃ (s : State) (n : Nat) (q : TileIns) (l : List TileIns), (s.chip.headIs n 3 0x42 q l) ∧ (s.chip.tileSync n (tiExt q.bytes % 2 ^ 16) = true) ∧ ((s.chip.pop n 3 l).tileSync n (tiExt q.bytes % 2 ^ 16) = s.chip.tileSync n (tiExt q.bytes % 2 ^ 16))) ∧
    (∃ (s : State) (n : Nat) (q : TileIns) (l : List TileIns), (s.chip.headIs n 3 0x43 q l) ∧ ((s.chip.pop n 3 l).tileSync n (tiExt q.bytes % 2 ^ 16) = true) ∧ (syncErr (s.chip.sync (tiExt q.bytes % 2 ^ 16)) = false)) ∧
    (∃ (s : State) (n : Nat) (i : Nat) (k : Nat) (w : UnitWait) (x : TileWait), (s.chip.tileRuns n = true) ∧ (s.chip.unitWaits.findIdx? (fun w => w.who == Waiter.tile n && w.met) = some i) ∧ (s.chip.unitWaits[i]? = some w) ∧ (w.err = false) ∧ ((s.chip.tile n).waits.findIdx? (fun y => y.obj == w.obj && y.threshold == w.threshold) = some k) ∧ ((s.chip.tile n).waits[k]? = some x)) ∧
    (∃ (s : State) (n : Nat) (i : Nat) (k : Nat) (w : UnitWait) (x : TileWait), (s.chip.tileRuns n = true) ∧ (s.chip.unitWaits.findIdx? (fun w => w.who == Waiter.tile n && w.met) = some i) ∧ (s.chip.unitWaits[i]? = some w) ∧ (w.err = true) ∧ ((s.chip.tile n).waits.findIdx? (fun y => y.obj == w.obj && y.threshold == w.threshold) = some k) ∧ ((s.chip.tile n).waits[k]? = some x)) ∧
    (∃ (s : State) (n : Nat) (u : Nat) (i : Nat) (tag : Option Nat), ((s.chip.tile n).executing.findIdx? (fun e => e.1 == u) = some i) ∧ ((s.chip.tile n).executing[i]? = some (u, tag))) ∧
    (∃ (s : State) (n : Nat) (k : Nat) (m : Model) (x : List Byte) (c1 : Chip), (s.chip.tileRuns n = true) ∧ ((s.chip.tile n).wanted.contains k = true) ∧ (AMap.get? s.chip.models (s.chip.tile n).model = some m) ∧ (s.chip.imageRead m (groupMaster (n / 16)) (s.chip.tile n).slice ((s.chip.tile n).codeOfs + 4096 * k) (min 4096 (((s.chip.tile n).codeCount - 128 * k) * 32)) (s.chip.tile n).cls = (.ok, x, c1))) :=
  ⟨⟨tState (tTile { moveQ := [(tMove 0x40 (tV 3) (tV 0) 4 0)] }), 0, (tMove 0x40 (tV 3) (tV 0) 4 0), [], tZ4, ((tTile { moveQ := [(tMove 0x40 (tV 3) (tV 0) 4 0)] }).pop 0 3 []), (tAfter (operandWrite 0 (tMove 0x40 (tV 3) (tV 0) 4 0).dst [(0, tZ4)]) ((tTile { moveQ := [(tMove 0x40 (tV 3) (tV 0) 4 0)] }).pop 0 3 [])), ⟨by decide, rfl, rfl⟩⟩,
    ⟨tState (tSend), 0, (tMove 0x41 0 (tV 0) 4 0x110000), [], tZ4, 4, (tSend.pop 0 3 []), ((tSend.pop 0 3 []).saveRange (groupMaster (0 / 16)) ((tSend.pop 0 3 []).tile 0).slice (tiExt (tMove 0x41 0 (tV 0) 4 0x110000).bytes % 2 ^ 48) tZ4 ((tSend.pop 0 3 []).tile 0).cls).2.2, ⟨by decide, rfl, Prod.ext (by decide) (Prod.ext (by decide) rfl)⟩⟩,
    ⟨tState (tTile { moveQ := [(tMove 0x42 0 0 5 3)] }), 0, (tMove 0x42 0 0 5 3), [], by decide⟩,
    ⟨tState (tTile { moveQ := [(tMove 0x43 0 0 0 (3 + 1 * 65536))] }), 0, (tMove 0x43 0 0 0 (3 + 1 * 65536)), [], by decide⟩,
    ⟨tState ({ tTile { waits := [{ obj := 3, threshold := 1, tag := some 2, pc := 0 }] } with unitWaits := [{ who := .tile 0, obj := 3, threshold := 1, met := true }] }), 0, 0, 0, { who := .tile 0, obj := 3, threshold := 1, met := true }, { obj := 3, threshold := 1, tag := some 2, pc := 0 }, by decide⟩,
    ⟨tState ({ tTile { waits := [{ obj := 3, threshold := 1, tag := some 2, pc := 0 }] } with unitWaits := [{ who := .tile 0, obj := 3, threshold := 1, met := true, err := true }] }), 0, 0, 0, { who := .tile 0, obj := 3, threshold := 1, met := true, err := true }, { obj := 3, threshold := 1, tag := some 2, pc := 0 }, by decide⟩,
    ⟨tState (tTile { executing := [(2, some 7)], board := [(7, 1)] }), 0, 2, 0, (some 7), by decide⟩,
    ⟨tState (tFill0), 0, 0, tModel, (List.replicate 256 0), (tFill0.imageRead tModel 0x10 1 0 256 (tFill0.tile 0).cls).2.2, by decide⟩⟩

/-- States and operands that meet the hypotheses of TileMovesAndSyncs, part 2 of 2. -/
theorem test_TileMovesAndSyncs_meets_2 :
    (∃ (s : State) (n : Nat) (k : Nat) (m : Model) (x : List Byte) (c1 : Chip) (o : Served), (s.chip.tileRuns n = true) ∧ ((s.chip.tile n).wanted.contains k = true) ∧ (AMap.get? s.chip.models (s.chip.tile n).model = some m) ∧ (o ≠ .ok) ∧ (s.chip.imageRead m (groupMaster (n / 16)) (s.chip.tile n).slice ((s.chip.tile n).codeOfs + 4096 * k) (min 4096 (((s.chip.tile n).codeCount - 128 * k) * 32)) (s.chip.tile n).cls = (o, x, c1))) ∧
    (∃ (s : State) (n : Nat), (s.chip.tileRuns n = true) ∧ (s.chip.reg (TILE_HANG_LIMIT n) ≠ 0) ∧ (s.chip.reg (TILE_HANG_LIMIT n) * 1000 ≤ (s.chip.now - (s.chip.tile n).progress) * s.chip.groupMhz (n / 16))) ∧
    (∃ (s : State) (n : Nat), ((s.chip.now - (s.chip.tile n).progress) * s.chip.groupMhz (n / 16) < s.chip.reg (TILE_HANG_LIMIT n) * 1000)) :=
  ⟨⟨tState { tFill0 with owners := [] }, 0, 0, tModel, (List.replicate 64 0), (Chip.imageRead { tFill0 with owners := [] } tModel 0x10 1 0 256 (tFill0.tile 0).cls).2.2, .denied, by decide⟩,
    ⟨tState ({ tTile {} with now := 100000000000 }), 0, by decide⟩,
    ⟨tState (tTile {}), 0, by decide⟩⟩

/-- States and operands that meet the hypotheses of RillModesStart, part 1 of 2. -/
theorem test_RillModesStart_meets_1 :
    (∃ (s : State) (n : Nat) (r : Nat) (b : List Byte) (c1 : Chip), (s.chip.rillNext n r 0 b c1)) ∧
    (∃ (s : State) (n : Nat) (r : Nat) (b : List Byte) (c1 : Chip), (s.chip.rillNext n r 1 b c1)) ∧
    (∃ (s : State) (n : Nat) (r : Nat) (b : List Byte) (c1 : Chip), (s.chip.rillNext n r 2 b c1)) ∧
    (∃ (s : State) (n : Nat) (r : Nat) (b : List Byte) (c1 : Chip), (s.chip.rillNext n r 3 b c1)) ∧
    (∃ (s : State) (n : Nat) (r : Nat) (b : List Byte) (c1 : Chip), (s.chip.rillNext n r 4 b c1)) ∧
    (∃ (s : State) (n : Nat) (r : Nat) (b : List Byte) (c1 : Chip), (s.chip.rillNext n r 5 b c1)) ∧
    (∃ (s : State) (n : Nat) (r : Nat) (b : List Byte) (c1 : Chip), (s.chip.rillNext n r 6 b c1)) ∧
    (∃ (s : State) (n : Nat) (r : Nat) (b : List Byte) (c1 : Chip), (s.chip.rillNext n r 7 b c1)) :=
  ⟨⟨tState (tRill 0), 0, 0, (tRd 0), ((tRill 0).loadServed (tileReq (tRill 0) 0 0 64 false)).2.2, ⟨by decide, by decide, by decide, by decide, by decide, by decide, by decide, rfl, by decide, by decide, by decide, by decide⟩⟩,
    ⟨tState (tRill 1), 0, 0, (tRd 1), ((tRill 1).loadServed (tileReq (tRill 1) 0 0 64 false)).2.2, ⟨by decide, by decide, by decide, by decide, by decide, by decide, by decide, rfl, by decide, by decide, by decide, by decide⟩⟩,
    ⟨tState (tRill 2), 0, 0, (tRd 2), ((tRill 2).loadServed (tileReq (tRill 2) 0 0 64 false)).2.2, ⟨by decide, by decide, by decide, by decide, by decide, by decide, by decide, rfl, by decide, by decide, by decide, by decide⟩⟩,
    ⟨tState (tRill 3), 0, 0, (tRd 3), ((tRill 3).loadServed (tileReq (tRill 3) 0 0 64 false)).2.2, ⟨by decide, by decide, by decide, by decide, by decide, by decide, by decide, rfl, by decide, by decide, by decide, by decide⟩⟩,
    ⟨tState (tRill 4), 0, 0, (tRd 4), ((tRill 4).loadServed (tileReq (tRill 4) 0 0 64 false)).2.2, ⟨by decide, by decide, by decide, by decide, by decide, by decide, by decide, rfl, by decide, by decide, by decide, by decide⟩⟩,
    ⟨tState (tRill 5), 0, 0, (tRd 5), ((tRill 5).loadServed (tileReq (tRill 5) 0 0 64 false)).2.2, ⟨by decide, by decide, by decide, by decide, by decide, by decide, by decide, rfl, by decide, by decide, by decide, by decide⟩⟩,
    ⟨tState (tRill 6), 0, 0, (tRd 6), ((tRill 6).loadServed (tileReq (tRill 6) 0 0 64 false)).2.2, ⟨by decide, by decide, by decide, by decide, by decide, by decide, by decide, rfl, by decide, by decide, by decide, by decide⟩⟩,
    ⟨tState (tRill 7), 0, 0, (tRd 7), ((tRill 7).loadServed (tileReq (tRill 7) 0 0 64 false)).2.2, ⟨by decide, by decide, by decide, by decide, by decide, by decide, by decide, rfl, by decide, by decide, by decide, by decide⟩⟩⟩

/-- States and operands that meet the hypotheses of RillModesStart, part 2 of 2. -/
theorem test_RillModesStart_meets_2 :
    ∃ (s : State) (n : Nat) (r : Nat) (b : List Byte) (c1 : Chip), (s.chip.rillNext n r 8 b c1) :=
  ⟨tState (tRill 8), 0, 0, (tRd 8), ((tRill 8).loadServed (tileReq (tRill 8) 0 0 64 false)).2.2, ⟨by decide, by decide, by decide, by decide, by decide, by decide, by decide, rfl, by decide, by decide, by decide, by decide⟩⟩

/-- States and operands that meet the hypotheses of RillResponses. -/
theorem test_RillResponses_meets :
    (∃ (s : State) (n : Nat) (r : Nat) (k : Nat) (i : Nat) (q : LineReq), ((s.chip.rill n r).issuedReads[k]? = some i) ∧ ((s.chip.rill n r).reqs[i]? = some q)) ∧
    (∃ (s : State) (n : Nat) (r : Nat) (k : Nat) (w : RillWrite) (l : List RillWrite), ((s.chip.rill n r).issuedReads[k]? = none) ∧ ((s.chip.rill n r).writes = w :: l) ∧ (w.place = .issued)) ∧
    (∃ (s : State) (n : Nat) (ch : Nat) (k : Nat) (l : List Nat), (s.chip.channelLoad ch < 256) ∧ (s.chip.queuedFor n ch = k :: l)) ∧
    (∃ (s : State) (n : Nat) (ch : Nat), (256 ≤ s.chip.channelLoad ch ∨ s.chip.queuedFor n ch = [])) ∧
    (∃ (s : State) (n : Nat) (r : Nat) (d : RillDesc) (c1 : Chip), (s.chip.tileRuns n = true) ∧ ((s.chip.rill n r).finished = some d) ∧ (d.writeCount n (s.chip.endDesc n r d.desc) = (.ok (), c1))) :=
  ⟨⟨tState (tTile { rills := [(0, { reqs := [{ line := 5, targets := [], place := .queued, desc := 0 }, { line := 6, targets := [], place := .issued, desc := 0 }] })] }), 0, 0, 0, 1, { line := 6, targets := [], place := .issued, desc := 0 }, by decide⟩,
    ⟨tState (tTile { rills := [(0, { writes := [{ addr := 5, data := [], op := 0, deliv := 0, place := .issued, desc := 0 }] })] }), 0, 0, 0, { addr := 5, data := [], op := 0, deliv := 0, place := .issued, desc := 0 }, [], by decide⟩,
    ⟨tState (tTile { rills := [(0, { reqs := [{ line := 5, targets := [], place := .queued, desc := 0, stamp := 9 }, { line := 6, targets := [], place := .queued, desc := 0, stamp := 3 }] })] }), 0, 0, 9, [3], by decide⟩,
    ⟨tState (tTile {}), 0, 0, by decide⟩,
    ⟨tState (tDone), 0, 0, { desc := 0, write := false, doneTag := some 2, countDst := some 64, count := 3, issued := true }, (tAfter (tileWrite 0 64 (leBytes 4 3)) (tDone.updRill 0 0 (fun x => { x with undone := [] }))), ⟨by decide, by decide, rfl⟩⟩⟩

/-- States and operands that meet the hypotheses of EnginesRunDescriptors, part 1 of 2. -/
theorem test_EnginesRunDescriptors_meets_1 :
    (∃ (s : State) (g : Nat) (b : List Byte) (empty : Bool) (c1 : Chip) (c2 : Chip) (c3 : Chip), (g < 12) ∧ ((s.chip.engine g 0).active = true) ∧ ((s.chip.engine g 0).busy = false) ∧ (s.chip.engState g 0 ≠ esStopped) ∧ ((engDescriptor g 0).run s.chip = (.ok b, c1)) ∧ ((engCheck 0 b).run c1 = (.ok (), c1)) ∧ (wdOp b = 0) ∧ ((engWait g 0 (engSync 0 b)).run c1 = (.ok true, c2)) ∧ ((engOp g 0 b).run (c2.engRunning g 0) = (.ok empty, c3))) ∧
    (∃ (s : State) (g : Nat) (b : List Byte) (empty : Bool) (c1 : Chip) (c2 : Chip) (c3 : Chip), (g < 12) ∧ ((s.chip.engine g 0).active = true) ∧ ((s.chip.engine g 0).busy = false) ∧ (s.chip.engState g 0 ≠ esStopped) ∧ ((engDescriptor g 0).run s.chip = (.ok b, c1)) ∧ ((engCheck 0 b).run c1 = (.ok (), c1)) ∧ (wdOp b = 1) ∧ ((engWait g 0 (engSync 0 b)).run c1 = (.ok true, c2)) ∧ ((engOp g 0 b).run (c2.engRunning g 0) = (.ok empty, c3))) ∧
    (∃ (s : State) (g : Nat) (b : List Byte) (empty : Bool) (c1 : Chip) (c2 : Chip) (c3 : Chip), (g < 12) ∧ ((s.chip.engine g 0).active = true) ∧ ((s.chip.engine g 0).busy = false) ∧ (s.chip.engState g 0 ≠ esStopped) ∧ ((engDescriptor g 0).run s.chip = (.ok b, c1)) ∧ ((engCheck 0 b).run c1 = (.ok (), c1)) ∧ (wdOp b = 2) ∧ ((engWait g 0 (engSync 0 b)).run c1 = (.ok true, c2)) ∧ ((engOp g 0 b).run (c2.engRunning g 0) = (.ok empty, c3))) ∧
    (∃ (s : State) (g : Nat) (b : List Byte) (empty : Bool) (c1 : Chip) (c2 : Chip) (c3 : Chip), (g < 12) ∧ ((s.chip.engine g 1).active = true) ∧ ((s.chip.engine g 1).busy = false) ∧ (s.chip.engState g 1 ≠ esStopped) ∧ ((engDescriptor g 1).run s.chip = (.ok b, c1)) ∧ ((engCheck 1 b).run c1 = (.ok (), c1)) ∧ (wdOp b = 3) ∧ ((engWait g 1 (engSync 1 b)).run c1 = (.ok true, c2)) ∧ ((engOp g 1 b).run (c2.engRunning g 1) = (.ok empty, c3))) ∧
    (∃ (s : State) (g : Nat) (b : List Byte) (empty : Bool) (c1 : Chip) (c2 : Chip) (c3 : Chip), (g < 12) ∧ ((s.chip.engine g 1).active = true) ∧ ((s.chip.engine g 1).busy = false) ∧ (s.chip.engState g 1 ≠ esStopped) ∧ ((engDescriptor g 1).run s.chip = (.ok b, c1)) ∧ ((engCheck 1 b).run c1 = (.ok (), c1)) ∧ (wdOp b = 4) ∧ ((engWait g 1 (engSync 1 b)).run c1 = (.ok true, c2)) ∧ ((engOp g 1 b).run (c2.engRunning g 1) = (.ok empty, c3))) ∧
    (∃ (s : State) (g : Nat) (b : List Byte) (empty : Bool) (c1 : Chip) (c2 : Chip) (c3 : Chip), (g < 12) ∧ ((s.chip.engine g 2).active = true) ∧ ((s.chip.engine g 2).busy = false) ∧ (s.chip.engState g 2 ≠ esStopped) ∧ ((engDescriptor g 2).run s.chip = (.ok b, c1)) ∧ ((engCheck 2 b).run c1 = (.ok (), c1)) ∧ (wdOp b = 5) ∧ ((engWait g 2 (engSync 2 b)).run c1 = (.ok true, c2)) ∧ ((engOp g 2 b).run (c2.engRunning g 2) = (.ok empty, c3))) ∧
    (∃ (s : State) (g : Nat) (e : Nat) (c1 : Chip), ((s.chip.engine g e).busy = true) ∧ (s.chip.engState g e ≠ esStopped) ∧ ((engGo g e ((s.chip.engine g e).left e)).run s.chip = (.ok (), c1)) ∧ ((engSync e (s.chip.engine g e).bytes).signalEn = true) ∧ (bitOf (bytesU ((c1.engDone g e (s.chip.engine g e)).engine g e).bytes 1 1) 0 = true)) ∧
    (∃ (s : State) (g : Nat) (e : Nat) (c1 : Chip), ((s.chip.engine g e).busy = true) ∧ (s.chip.engState g e ≠ esStopped) ∧ ((engGo g e ((s.chip.engine g e).left e)).run s.chip = (.ok (), c1)) ∧ ((engSync e (s.chip.engine g e).bytes).signalEn = true) ∧ (bitOf (bytesU ((c1.engDone g e (s.chip.engine g e)).engine g e).bytes 1 1) 0 = false)) :=
  ⟨⟨tState (tEngine 0 0), 0, (tDesc 0), true, (tAfter (engDescriptor 0 0) (tEngine 0 0)), (tAfter (engDescriptor 0 0) (tEngine 0 0)), (tAfter (engOp 0 0 (tDesc 0)) ((tAfter (engDescriptor 0 0) (tEngine 0 0)).engRunning 0 0)), ⟨by decide, by decide, by decide, by decide, rfl, rfl, by decide, rfl, rfl⟩⟩,
    ⟨tState (tEngine 0 1), 0, (tDesc 1), true, (tAfter (engDescriptor 0 0) (tEngine 0 1)), (tAfter (engDescriptor 0 0) (tEngine 0 1)), (tAfter (engOp 0 0 (tDesc 1)) ((tAfter (engDescriptor 0 0) (tEngine 0 1)).engRunning 0 0)), ⟨by decide, by decide, by decide, by decide, rfl, rfl, by decide, rfl, rfl⟩⟩,
    ⟨tState (tEngine 0 2), 0, (tDesc 2), true, (tAfter (engDescriptor 0 0) (tEngine 0 2)), (tAfter (engDescriptor 0 0) (tEngine 0 2)), (tAfter (engOp 0 0 (tDesc 2)) ((tAfter (engDescriptor 0 0) (tEngine 0 2)).engRunning 0 0)), ⟨by decide, by decide, by decide, by decide, rfl, rfl, by decide, rfl, rfl⟩⟩,
    ⟨tState (tEngine 1 3), 0, (tDesc 3), true, (tAfter (engDescriptor 0 1) (tEngine 1 3)), (tAfter (engDescriptor 0 1) (tEngine 1 3)), (tAfter (engOp 0 1 (tDesc 3)) ((tAfter (engDescriptor 0 1) (tEngine 1 3)).engRunning 0 1)), ⟨by decide, by decide, by decide, by decide, rfl, rfl, by decide, rfl, rfl⟩⟩,
    ⟨tState (tEngine 1 4), 0, (tDesc 4), true, (tAfter (engDescriptor 0 1) (tEngine 1 4)), (tAfter (engDescriptor 0 1) (tEngine 1 4)), (tAfter (engOp 0 1 (tDesc 4)) ((tAfter (engDescriptor 0 1) (tEngine 1 4)).engRunning 0 1)), ⟨by decide, by decide, by decide, by decide, rfl, rfl, by decide, rfl, rfl⟩⟩,
    ⟨tState (tEngine 2 5), 0, (tDesc 5), true, (tAfter (engDescriptor 0 2) (tEngine 2 5)), (tAfter (engDescriptor 0 2) (tEngine 2 5)), (tAfter (engOp 0 2 (tDesc 5)) ((tAfter (engDescriptor 0 2) (tEngine 2 5)).engRunning 0 2)), ⟨by decide, by decide, by decide, by decide, rfl, rfl, by decide, rfl, rfl⟩⟩,
    ⟨tState ({ engines := [(0, { active := true, busy := true, void := true, bytes := putAt (putAt (List.replicate 128 0) 120 [2]) 1 [1] })] }), 0, 0, { engines := [(0, { active := true, busy := true, void := true, bytes := putAt (putAt (List.replicate 128 0) 120 [2]) 1 [1] })] }, ⟨by decide, by decide, rfl, by decide, by decide⟩⟩,
    ⟨tState ({ engines := [(0, { active := true, busy := true, void := true, bytes := putAt (putAt (List.replicate 128 0) 120 [2]) 1 [0] })] }), 0, 0, { engines := [(0, { active := true, busy := true, void := true, bytes := putAt (putAt (List.replicate 128 0) 120 [2]) 1 [0] })] }, ⟨by decide, by decide, rfl, by decide, by decide⟩⟩⟩

/-- States and operands that meet the hypotheses of EnginesRunDescriptors, part 2 of 2. -/
theorem test_EnginesRunDescriptors_meets_2 :
    (∃ (s : State) (g : Nat) (e : Nat) (c1 : Chip), ((s.chip.engine g e).busy = true) ∧ (s.chip.engState g e ≠ esStopped) ∧ ((engGo g e ((s.chip.engine g e).left e)).run s.chip = (.ok (), c1)) ∧ ((engSync e (s.chip.engine g e).bytes).signalEn = false) ∧ (bitOf (bytesU ((c1.engDone g e (s.chip.engine g e)).engine g e).bytes 1 1) 0 = true)) ∧
    (∃ (s : State) (g : Nat) (e : Nat) (c1 : Chip), ((s.chip.engine g e).busy = true) ∧ (s.chip.engState g e ≠ esStopped) ∧ ((engGo g e ((s.chip.engine g e).left e)).run s.chip = (.ok (), c1)) ∧ ((engSync e (s.chip.engine g e).bytes).signalEn = false) ∧ (bitOf (bytesU ((c1.engDone g e (s.chip.engine g e)).engine g e).bytes 1 1) 0 = false)) ∧
    (∃ (s : State) (m : Nat) (tag : Nat) (g : Nat) (e : Nat), (tag = 0 ∨ (List.range 16).any (fun i => s.chip.tileSlice (16 * g + i) == some tag) = true) ∧ (listedMaster m = true) ∧ (({ s.chip with nextReq := s.chip.nextReq + 1 } : Chip).check { master := m, tag := tag, addr := (engLfsr g e).addr, len := 4, write := true } = none)) ∧
    (∃ (s : State) (m : Nat) (tag : Nat) (g : Nat) (e : Nat) (d : Deny) (t : Nat), (listedMaster m = true) ∧ (({ s.chip with nextReq := s.chip.nextReq + 1 } : Chip).check { master := m, tag := tag, addr := (engLfsr g e).addr, len := 4, write := true } = some (d, t))) ∧
    (∃ (m : Nat), (listedMaster m = false)) :=
  ⟨⟨tState ({ engines := [(0, { active := true, busy := true, void := true, bytes := putAt (putAt (List.replicate 128 0) 120 [0]) 1 [1] })] }), 0, 0, { engines := [(0, { active := true, busy := true, void := true, bytes := putAt (putAt (List.replicate 128 0) 120 [0]) 1 [1] })] }, ⟨by decide, by decide, rfl, by decide, by decide⟩⟩,
    ⟨tState ({ engines := [(0, { active := true, busy := true, void := true, bytes := putAt (putAt (List.replicate 128 0) 120 [0]) 1 [0] })] }), 0, 0, { engines := [(0, { active := true, busy := true, void := true, bytes := putAt (putAt (List.replicate 128 0) 120 [0]) 1 [0] })] }, ⟨by decide, by decide, rfl, by decide, by decide⟩⟩,
    ⟨tState (tRegs 31), 0x4C, 5, 0, 0, by decide⟩,
    ⟨tState (tRegs 31), 0x4C, 2, 0, 0, .sliceTag, 31, by decide⟩,
    ⟨0x20, by decide⟩⟩

/-- States and operands that meet the hypotheses of TileAndGroupRegisters. -/
theorem test_TileAndGroupRegisters_meets :
    (∃ (tag : Nat), (tag ≠ 0)) ∧
    (∃ (s : State) (m : Nat) (tag : Nat) (n : Nat), (tag = 0 ∨ s.chip.tileSlice n = some tag) ∧ (listedMaster m = true) ∧ (({ s.chip with nextReq := s.chip.nextReq + 1 } : Chip).check { master := m, tag := tag, addr := (TILE_LFSR n).addr, len := 4, write := true } = none)) ∧
    (∃ (s : State) (m : Nat) (tag : Nat) (n : Nat) (v : W32), (tag = 0 ∨ s.chip.tileSlice n = some tag) ∧ (bitOf v.toNat 0 = false) ∧ (listedMaster m = true) ∧ (({ s.chip with nextReq := s.chip.nextReq + 1 } : Chip).check { master := m, tag := tag, addr := (TILE_CNT_CTRL n).addr, len := 4, write := true } = none)) ∧
    (∃ (s : State) (m : Nat) (tag : Nat) (n : Nat) (v : W32), (tag = 0 ∨ s.chip.tileSlice n = some tag) ∧ (bitOf v.toNat 0 = true) ∧ (listedMaster m = true) ∧ (({ s.chip with nextReq := s.chip.nextReq + 1 } : Chip).check { master := m, tag := tag, addr := (TILE_CNT_CTRL n).addr, len := 4, write := true } = none)) ∧
    (∃ (s : State) (m : Nat) (tag : Nat) (n : Nat) (d : Deny) (e : Deny) (t : Nat) (u : Nat), (listedMaster m = true) ∧ (({ s.chip with nextReq := s.chip.nextReq + 1 } : Chip).check { master := m, tag := tag, addr := (TILE_LFSR n).addr, len := 4, write := true } = some (d, t)) ∧ (({ s.chip with nextReq := s.chip.nextReq + 1 } : Chip).check { master := m, tag := tag, addr := (TILE_CNT_CTRL n).addr, len := 4, write := true } = some (e, u))) ∧
    (∃ (m : Nat), (listedMaster m = false)) :=
  ⟨⟨1, by decide⟩,
    ⟨tState (tRegs 28), 0x4C, 5, 2, by decide⟩,
    ⟨tState (tRegs 28), 0x4C, 5, 2, 2, by decide⟩,
    ⟨tState (tRegs 28), 0x4C, 5, 2, 3, by decide⟩,
    ⟨tState (tRegs 28), 0x4C, 2, 2, .sliceTag, .sliceTag, 28, 28, by decide⟩,
    ⟨0x20, by decide⟩⟩

/-- States and operands that meet the hypotheses of JobsAreQueued. -/
theorem test_JobsAreQueued_meets :
    (∃ (s : State) (p : Packet) (k : Chan) (rel : Nat) (c1 : Chip) (c2 : Chip), (s.chip.startedAs p 0x210) ∧ (p.u 35 1 < 2) ∧ (p.u 40 8 < 2 ^ 48) ∧ (p.u 40 8 % 32 = 0) ∧ (p.u 48 1 ≤ 16) ∧ (p.u 49 1 < 4) ∧ (p.u 50 2 < 64) ∧ (bitOf (p.u 56 8) 63 = false) ∧ (p.u 64 8 < 2 ^ 48) ∧ (zeroIn p.bytes 76 128 = true) ∧ (s.chip.checkChan p.slice p.cls (p.u 32 2) (p.u 34 1) (p.u 40 8) (p.u 48 1) = (.ok k, c1)) ∧ (p.cls = 0 ∨ (p.u 64 8 ≠ 0 ∧ p.u 64 8 % pageSize = 0 ∧ c1.ownsPages p.slice (p.u 64 8) (saveBytes k.tiles) = true)) ∧ (c1.releaseTime p (p.u 49 1) (p.u 50 2) (p.u 52 4) (p.u 56 8) = some rel) ∧ ((p.u 35 1 = 0 ∧ c2 = c1) ∨ (p.u 35 1 = 1 ∧ c1.recordValid p.slice (p.u 64 8) k.model p.cls = (true, c2))) ∧ (c2.queueDepth (k.first / 16) < 256)) ∧
    (∃ (s : State) (p : Packet) (st : Nat) (c1 : Chip), (s.chip.startedAs p 0x210) ∧ (p.u 35 1 < 2) ∧ (p.u 40 8 < 2 ^ 48) ∧ (p.u 40 8 % 32 = 0) ∧ (p.u 48 1 ≤ 16) ∧ (p.u 49 1 < 4) ∧ (p.u 50 2 < 64) ∧ (bitOf (p.u 56 8) 63 = false) ∧ (p.u 64 8 < 2 ^ 48) ∧ (zeroIn p.bytes 76 128 = true) ∧ (s.chip.checkChan p.slice p.cls (p.u 32 2) (p.u 34 1) (p.u 40 8) (p.u 48 1) = (.error st, c1))) ∧
    (∃ (s : State) (p : Packet), (s.chip.startedAs p 0x210) ∧ (2 ≤ p.u 35 1 ∨ 2 ^ 48 ≤ p.u 40 8 ∨ p.u 40 8 % 32 ≠ 0 ∨ 16 < p.u 48 1 ∨ 4 ≤ p.u 49 1 ∨ 64 ≤ p.u 50 2 ∨ bitOf (p.u 56 8) 63 = true ∨ 2 ^ 48 ≤ p.u 64 8 ∨ zeroIn p.bytes 76 128 = false)) ∧
    (∃ (s : State) (p : Packet) (t : Nat), (s.chip.packet? p.id = some p) ∧ (p.op = 0x210 ∨ p.op = 0x211) ∧ (s.chip.atHead p = true) ∧ (s.chip.refusal p = none) ∧ (s.chip.waitOver p = false) ∧ (s.chip.pendingRels.any (fun r => r.packet == p.id) = false) ∧ (s.chip.pendingTime p = some t) ∧ ((s.chip.pendingChans p).isEmpty = false)) :=
  ⟨⟨tState (tModels tJobRun [(0, { tRunModel with safety := true })]), tJobRun, tChan, 0, (tModels tJobRun [(0, { tRunModel with safety := true })]), (tModels tJobRun [(0, { tRunModel with safety := true })]), ⟨by decide, by decide, by decide, by decide, by decide, by decide, by decide, by decide, by decide, by decide, rfl, by decide, by decide, Or.inl ⟨by decide, rfl⟩, by decide⟩⟩,
    ⟨tState (tModels tJobRun []), tJobRun, stBadParam, (tModels tJobRun []), ⟨by decide, by decide, by decide, by decide, by decide, by decide, by decide, by decide, by decide, by decide, rfl⟩⟩,
    ⟨tState (tChip (tPacket 1 0x210 2 [0, 0, 0, 2])), tPacket 1 0x210 2 [0, 0, 0, 2], by decide⟩,
    ⟨tState ((tModels tPend [(0, tRunModel)]).setReg (RING_STATUS 1 0) 1), tPend, 5, by decide⟩⟩

/-- States and operands that meet the hypotheses of JobsDispatchAndPreempt, part 1 of 2. -/
theorem test_JobsDispatchAndPreempt_meets_1 :
    (∃ (s : State) (j : Job), (s.chip.job? j.id = some j) ∧ (s.chip.jobReady j = true) ∧ (s.chip.dispatchable j = .ok ()) ∧ ((s.chip.askJob j).granted (.job j.id) = true)) ∧
    (∃ (s : State) (j : Job), (s.chip.job? j.id = some j) ∧ (s.chip.jobReady j = true) ∧ (s.chip.dispatchable j = .ok ()) ∧ ((s.chip.askJob j).granted (.job j.id) = false)) ∧
    (∃ (s : State) (j : Job), (s.chip.job? j.id = some j) ∧ (s.chip.jobReady j = true) ∧ (s.chip.dispatchable j = .error 0)) ∧
    (∃ (s : State) (j : Job) (k : Nat), (s.chip.job? j.id = some j) ∧ (j.cls ≠ 0) ∧ (j.isGolden = false) ∧ ((j.phase = .running ∧ j.tiles.all (fun n => (s.chip.tile n).ended) = false) ∨ j.phase = .loading) ∧ (j.wanted = some k ∨ (j.wanted = none ∧ s.chip.classPreempts j = true ∧ k = 0))) ∧
    (∃ (s : State) (p : Packet) (j : Job), (s.chip.startedAs p 0x212) ∧ (p.u 32 1 < 16) ∧ (zeroIn p.bytes 33 36 = true) ∧ (p.u 40 4 ≤ 1000000) ∧ (zeroIn p.bytes 44 64 = true) ∧ (s.chip.targetJob p.slice (p.u 32 1) (p.u 36 4) = some j) ∧ (j.cls ≠ 0) ∧ (j.phase = .queued ∨ j.phase = .saved)) ∧
    (∃ (s : State) (p : Packet) (j : Job), (s.chip.startedAs p 0x212) ∧ (p.u 32 1 < 16) ∧ (zeroIn p.bytes 33 36 = true) ∧ (p.u 40 4 ≤ 1000000) ∧ (zeroIn p.bytes 44 64 = true) ∧ (s.chip.targetJob p.slice (p.u 32 1) (p.u 36 4) = some j) ∧ (j.cls ≠ 0) ∧ (j.phase = .running)) ∧
    (∃ (s : State) (p : Packet), (s.chip.startedAs p 0x212) ∧ (p.u 32 1 < 16) ∧ (zeroIn p.bytes 33 36 = true) ∧ (p.u 40 4 ≤ 1000000) ∧ (zeroIn p.bytes 44 64 = true) ∧ (s.chip.targetJob p.slice (p.u 32 1) (p.u 36 4) = none)) ∧
    (∃ (s : State) (p : Packet) (j : Job), (s.chip.startedAs p 0x213) ∧ (p.u 32 1 < 16) ∧ (zeroIn p.bytes 33 36 = true) ∧ (zeroIn p.bytes 40 64 = true) ∧ (s.chip.targetJob p.slice (p.u 32 1) (p.u 36 4) = some j)) :=
  ⟨⟨tState (Chip.setFld { tJobs tJob with sluice := { grants := [{ who := .job 0, units := 4, slice := some 1, cls := 1 }] } } (GRP_STATE 0) GRP_STATE.PSTATE 3 |>.setTileState 0 tsIdle), tJob, ⟨by decide, by decide, rfl, by decide⟩⟩,
    ⟨tState (Chip.setFld { tJobs tJob with sluice := { waiting := [{ id := 0, cls := 1, parts := [{ who := .job 0, units := 4, slice := some 1, cls := 1 }], since := 0, deadline := 5 }] } } (GRP_STATE 0) GRP_STATE.PSTATE 3 |>.setTileState 0 tsIdle), tJob, ⟨by decide, by decide, rfl, by decide⟩⟩,
    ⟨tState (Chip.setFld (tJobs tJob) (GRP_STATE 0) GRP_STATE.PSTATE 3), tJob, ⟨by decide, by decide, rfl⟩⟩,
    ⟨tState (tJobs { tJob with phase := .running, wanted := some 1 }), { tJob with phase := .running, wanted := some 1 }, 1, by decide⟩,
    ⟨tState ({ tChip (tPacket 1 0x212 1 []) with jobs := [tJob] }), tPacket 1 0x212 1 [], tJob, by decide⟩,
    ⟨tState ({ tChip (tPacket 1 0x212 1 []) with jobs := [{ tJob with phase := .running }] }), tPacket 1 0x212 1 [], { tJob with phase := .running }, by decide⟩,
    ⟨tState (tChip (tPacket 1 0x212 1 [])), tPacket 1 0x212 1 [], by decide⟩,
    ⟨tState ({ tChip (tPacket 1 0x213 1 []) with jobs := [tJob] }), tPacket 1 0x213 1 [], tJob, by decide⟩⟩

/-- States and operands that meet the hypotheses of JobsDispatchAndPreempt, part 2 of 2. -/
theorem test_JobsDispatchAndPreempt_meets_2 :
    ∃ (s : State) (p : Packet), (s.chip.startedAs p 0x213) ∧ (p.u 32 1 < 16) ∧ (zeroIn p.bytes 33 36 = true) ∧ (zeroIn p.bytes 40 64 = true) ∧ (s.chip.targetJob p.slice (p.u 32 1) (p.u 36 4) = none) :=
  ⟨tState (tChip (tPacket 1 0x213 1 [])), tPacket 1 0x213 1 [], by decide⟩

/-- States and operands that meet the hypotheses of JobsEndSaveAndRestore, part 1 of 2. -/
theorem test_JobsEndSaveAndRestore_meets_1 :
    (∃ (s : State) (j : Job) (k : Chan) (l : List Chan) (st : Nat) (d : Nat), (s.chip.job? j.id = some j) ∧ (j.phase = .running) ∧ (j.kind = .run) ∧ (j.chans = k :: l) ∧ (s.chip.chanEnd k = some (st, d))) ∧
    (∃ (s : State) (j : Job) (k : Chan) (l : List Chan), (s.chip.job? j.id = some j) ∧ (j.phase = .running) ∧ (j.kind = .run) ∧ (j.chans = k :: l) ∧ (s.chip.chanEnd k = none)) ∧
    (∃ (s : State) (j : Job) (o : Nat) (v : Nat) (n : Nat) (i : Nat) (st : Nat) (d : Nat), (s.chip.job? j.id = some j) ∧ (j.phase = .running) ∧ (j.kind = .diverse o v n) ∧ ((s.chip.chanEnds j).findIdx? failedEnd = some i) ∧ ((s.chip.chanEnds j)[i]? = some (some (st, d)))) ∧
    (∃ (s : State) (j : Job) (o : Nat) (v : Nat) (n : Nat), (s.chip.job? j.id = some j) ∧ (j.phase = .running) ∧ (j.kind = .diverse o v n) ∧ ((s.chip.chanEnds j).findIdx? failedEnd = none) ∧ ((s.chip.chanEnds j).all Option.isSome = true) ∧ (s.chip.weir.length ≤ 16)) ∧
    (∃ (s : State) (j : Job) (o : Nat) (v : Nat) (n : Nat), (s.chip.job? j.id = some j) ∧ (j.phase = .running) ∧ (j.kind = .diverse o v n) ∧ ((s.chip.chanEnds j).findIdx? failedEnd = none) ∧ ((s.chip.chanEnds j).all Option.isSome = false)) ∧
    (∃ (s : State) (j : Job) (k : Chan) (l : List Chan) (n : Nat) (m : Nat) (c1 : Chip) (c2 : Chip), (s.chip.job? j.id = some j) ∧ (j.phase = .saving) ∧ (j.chans = k :: l) ∧ (s.chip.saveTiles k j.slice j.cls j.saveBase (k.placement.mapIdx (fun i n => (i, n))) 0 = (.ok, n, c1)) ∧ (c1.saveWrites j.slice j.cls (c1.jobRecord j k) 0 = (.ok, m, c2))) ∧
    (∃ (s : State) (j : Job) (k : Chan) (l : List Chan) (n : Nat) (o : Served) (c1 : Chip), (s.chip.job? j.id = some j) ∧ (j.phase = .saving) ∧ (j.chans = k :: l) ∧ (o ≠ .ok) ∧ (s.chip.saveTiles k j.slice j.cls j.saveBase (k.placement.mapIdx (fun i n => (i, n))) 0 = (o, n, c1))) ∧
    (∃ (s : State) (j : Job) (k : Chan) (l : List Chan) (n : Nat) (m : Nat) (o : Served) (c1 : Chip) (c2 : Chip), (s.chip.job? j.id = some j) ∧ (j.phase = .saving) ∧ (j.chans = k :: l) ∧ (s.chip.saveTiles k j.slice j.cls j.saveBase (k.placement.mapIdx (fun i n => (i, n))) 0 = (.ok, n, c1)) ∧ (o ≠ .ok) ∧ (c1.saveWrites j.slice j.cls (c1.jobRecord j k) 0 = (o, m, c2))) :=
  ⟨⟨tState ({ (tJobs { tJob with phase := .running }) with faulted := [0] }), { tJob with phase := .running }, tChan, [], faultStatus 0, faultDetail 0 0 0 0 0, ⟨by decide, rfl, rfl, rfl, by decide⟩⟩,
    ⟨tState (tJobs { tJob with phase := .running }), { tJob with phase := .running }, tChan, [], ⟨by decide, rfl, rfl, rfl, by decide⟩⟩,
    ⟨tState (tJobs ({ tJob with kind := .diverse 0 0 0, phase := .running, chans := [{ tChan with ended := some (stDone, 0) }, { tChan with ended := some (stAborted, 5) }] })), { tJob with kind := .diverse 0 0 0, phase := .running, chans := [{ tChan with ended := some (stDone, 0) }, { tChan with ended := some (stAborted, 5) }] }, 0, 0, 0, 1, stAborted, 5, ⟨by decide, rfl, rfl, by decide, by decide⟩⟩,
    ⟨tState (tJobs ({ tJob with kind := .diverse 0 0 0, phase := .running, chans := [{ tChan with ended := some (stDone, 0) }, { tChan with ended := some (stDone, 0) }] })), { tJob with kind := .diverse 0 0 0, phase := .running, chans := [{ tChan with ended := some (stDone, 0) }, { tChan with ended := some (stDone, 0) }] }, 0, 0, 0, ⟨by decide, rfl, rfl, by decide, by decide, by decide⟩⟩,
    ⟨tState (tJobs ({ tJob with kind := .diverse 0 0 0, phase := .running, chans := [{ tChan with ended := some (stDone, 0) }, { tChan with ended := none }] })), { tJob with kind := .diverse 0 0 0, phase := .running, chans := [{ tChan with ended := some (stDone, 0) }, { tChan with ended := none }] }, 0, 0, 0, ⟨by decide, rfl, rfl, by decide, by decide⟩⟩,
    ⟨tSaving, tSavingJob, { tChan with tiles := 0 }, [], 0, _, tSaving.chip, _, ⟨by decide, rfl, rfl, rfl, Prod.ext (by decide) (Prod.ext rfl rfl)⟩⟩,
    ⟨tState ({ jobs := [{ tJob with phase := .saving }] }), { tJob with phase := .saving }, tChan, [], _, _, _, ⟨by decide, rfl, rfl, by decide, tPair _⟩⟩,
    ⟨tState { tSaving.chip with owners := [] }, tSavingJob, { tChan with tiles := 0 }, [], 0, _, _, _, _, ⟨by decide, rfl, rfl, rfl, by decide, tPair _⟩⟩⟩

/-- States and operands that meet the hypotheses of JobsEndSaveAndRestore, part 2 of 2. -/
theorem test_JobsEndSaveAndRestore_meets_2 :
    (∃ (s : State) (j : Job) (k : Chan) (l : List Chan) (m : Model) (v : Variant) (head : List Byte) (n : Nat) (c1 : Chip) (c2 : Chip), (s.chip.job? j.id = some j) ∧ (j.phase = .restoring) ∧ (j.chans = k :: l) ∧ (s.chip.model? k.model = some m) ∧ (s.chip.variantOf k = some v) ∧ (s.chip.saveRead j.slice j.cls j.saveBase 512 = (.ok, head, c1)) ∧ (c1.restoreTiles j k m v (List.range k.tiles) 0 = (.ok, n, c2))) ∧
    (∃ (s : State) (j : Job) (k : Chan) (l : List Chan) (m : Model) (v : Variant) (head : List Byte) (o : Served) (c1 : Chip), (s.chip.job? j.id = some j) ∧ (j.phase = .restoring) ∧ (j.chans = k :: l) ∧ (s.chip.model? k.model = some m) ∧ (s.chip.variantOf k = some v) ∧ (o ≠ .ok) ∧ (s.chip.saveRead j.slice j.cls j.saveBase 512 = (o, head, c1))) ∧
    (∃ (s : State) (m : Nat) (x : Model) (c1 : Chip), (s.chip.model? m = some x) ∧ (x.loading = true) ∧ (s.chip.endLoad m = (.ok, c1))) ∧
    (∃ (s : State) (m : Nat) (x : Model) (o : Served) (c1 : Chip), (s.chip.model? m = some x) ∧ (x.loading = true) ∧ (o ≠ .ok) ∧ (s.chip.endLoad m = (o, c1))) :=
  ⟨⟨tRestoring, tRestoringJob, { tChan with tiles := 0 }, [], tRunModel, tVariant, _, 0, _, _, ⟨by decide, rfl, rfl, by decide, by decide, Prod.ext (by decide) (Prod.ext rfl rfl), rfl⟩⟩,
    ⟨tState { tRestoring.chip with owners := [] }, tRestoringJob, { tChan with tiles := 0 }, [], tRunModel, tVariant, _, _, _, ⟨by decide, rfl, rfl, by decide, by decide, by decide, tPair _⟩⟩,
    ⟨tState (tModels tJobRun [(0, { tRunModel with loading := true })]), 0, { tRunModel with loading := true }, ((tModels tJobRun [(0, { tRunModel with loading := true })]).endLoad 0).2, ⟨by decide, rfl, rfl⟩⟩,
    ⟨tState ({ models := [(0, { tRunModel with loading := true })] }), 0, { tRunModel with loading := true }, (Chip.endLoad { models := [(0, { tRunModel with loading := true })] } 0).1, (Chip.endLoad { models := [(0, { tRunModel with loading := true })] } 0).2, ⟨by decide, rfl, by decide, rfl⟩⟩⟩

/-- States and operands that meet the hypotheses of ModelsAreRegisteredPinnedAndVerified, part 1 of 6. -/
theorem test_ModelsAreRegisteredPinnedAndVerified_meets_1 :
    (∃ (s : State) (p : Packet) (sl : Slice) (img : List Byte) (c1 : Chip) (m : Nat), (s.chip.startedAs p 0x200) ∧ (s.chip.slice? p.slice = some sl) ∧ (p.u 32 8 < 2 ^ 48) ∧ (p.u 32 8 % 64 = 0) ∧ (p.u 40 4 ≠ 0) ∧ (p.u 44 4 < 4) ∧ (p.u 48 2 < 1024) ∧ (zeroIn p.bytes 50 128 = true) ∧ (s.chip.imageOwned p.slice (p.u 32 8) (p.u 40 4) = true) ∧ (p.u 40 4 ≤ sumOf (sl.extents.map (·.2)) * pageSize) ∧ (s.chip.loadRange cpMaster p.slice (p.u 32 8) (p.u 40 4) p.cls = (.ok, img, c1)) ∧ (imageOk img = true) ∧ (bytesU img 8 4 = p.u 40 4) ∧ (placementOk p.slice sl (newModel p.slice sl.segments.length (p.u 32 8) (p.u 40 4) img).variants = true) ∧ (c1.freeModel (p.u 48 2) = some m) ∧ (bitOf (p.u 44 4) 1 = false) ∧ (bitOf (p.u 44 4) 0 = false ∨ (newModel p.slice sl.segments.length (p.u 32 8) (p.u 40 4) img).streaming = true)) ∧
    (∃ (s : State) (p : Packet) (sl : Slice) (img : List Byte) (c1 : Chip) (m : Nat) (c2 : Chip), (s.chip.startedAs p 0x200) ∧ (s.chip.slice? p.slice = some sl) ∧ (p.u 32 8 < 2 ^ 48) ∧ (p.u 32 8 % 64 = 0) ∧ (p.u 40 4 ≠ 0) ∧ (p.u 44 4 < 4) ∧ (p.u 48 2 < 1024) ∧ (zeroIn p.bytes 50 128 = true) ∧ (s.chip.imageOwned p.slice (p.u 32 8) (p.u 40 4) = true) ∧ (p.u 40 4 ≤ sumOf (sl.extents.map (·.2)) * pageSize) ∧ (s.chip.loadRange cpMaster p.slice (p.u 32 8) (p.u 40 4) p.cls = (.ok, img, c1)) ∧ (imageOk img = true) ∧ (bytesU img 8 4 = p.u 40 4) ∧ (placementOk p.slice sl (newModel p.slice sl.segments.length (p.u 32 8) (p.u 40 4) img).variants = true) ∧ (c1.freeModel (p.u 48 2) = some m) ∧ (bitOf (p.u 44 4) 0 = true) ∧ (bitOf (p.u 44 4) 1 = false) ∧ ((newModel p.slice sl.segments.length (p.u 32 8) (p.u 40 4) img).streaming = false) ∧ ((c1.enterModel m sl.segments.length (newModel p.slice sl.segments.length (p.u 32 8) (p.u 40 4) img)).takeRoom m (newModel p.slice sl.segments.length (p.u 32 8) (p.u 40 4) img).home = (true, c2))) ∧
    (∃ (s : State) (p : Packet) (sl : Slice) (img : List Byte) (c1 : Chip) (m : Nat) (c2 : Chip), (s.chip.startedAs p 0x200) ∧ (s.chip.slice? p.slice = some sl) ∧ (p.u 32 8 < 2 ^ 48) ∧ (p.u 32 8 % 64 = 0) ∧ (p.u 40 4 ≠ 0) ∧ (p.u 44 4 < 4) ∧ (p.u 48 2 < 1024) ∧ (zeroIn p.bytes 50 128 = true) ∧ (s.chip.imageOwned p.slice (p.u 32 8) (p.u 40 4) = true) ∧ (p.u 40 4 ≤ sumOf (sl.extents.map (·.2)) * pageSize) ∧ (s.chip.loadRange cpMaster p.slice (p.u 32 8) (p.u 40 4) p.cls = (.ok, img, c1)) ∧ (imageOk img = true) ∧ (bytesU img 8 4 = p.u 40 4) ∧ (placementOk p.slice sl (newModel p.slice sl.segments.length (p.u 32 8) (p.u 40 4) img).variants = true) ∧ (c1.freeModel (p.u 48 2) = some m) ∧ (bitOf (p.u 44 4) 1 = true) ∧ ((newModel p.slice sl.segments.length (p.u 32 8) (p.u 40 4) img).safety = true) ∧ ((newModel p.slice sl.segments.length (p.u 32 8) (p.u 40 4) img).need + c1.pinnedSegs p.slice ≤ sl.segments.length) ∧ ((newModel p.slice sl.segments.length (p.u 32 8) (p.u 40 4) img).streaming = false) ∧ ((c1.enterModel m sl.segments.length (newModel p.slice sl.segments.length (p.u 32 8) (p.u 40 4) img)).takeRoom m (newModel p.slice sl.segments.length (p.u 32 8) (p.u 40 4) img).home = (true, c2))) ∧
    (∃ (s : State) (p : Packet) (sl : Slice) (o : Served) (b : List Byte) (c1 : Chip), (s.chip.startedAs p 0x200) ∧ (s.chip.slice? p.slice = some sl) ∧ (p.u 32 8 < 2 ^ 48) ∧ (p.u 32 8 % 64 = 0) ∧ (p.u 40 4 ≠ 0) ∧ (p.u 44 4 < 4) ∧ (p.u 48 2 < 1024) ∧ (zeroIn p.bytes 50 128 = true) ∧ (s.chip.imageOwned p.slice (p.u 32 8) (p.u 40 4) = true) ∧ (p.u 40 4 ≤ sumOf (sl.extents.map (·.2)) * pageSize) ∧ (o ≠ .ok) ∧ (s.chip.loadRange cpMaster p.slice (p.u 32 8) (p.u 40 4) p.cls = (o, b, c1))) :=
  ⟨⟨tState (tModels (tRegister 0 1023) []), (tRegister 0 0x3FF), { tSlice with extents := [(0, 32)] }, tImage, _, 0, ⟨by decide, by decide, by decide, by decide, by decide, by decide, by decide, by decide, by decide, by decide, Prod.ext (by decide) (Prod.ext (by decide) rfl), by decide, by decide, by decide, by decide, by decide, by decide⟩⟩,
    ⟨tState (tModels (tRegister 1 1023) []), (tRegister 1 0x3FF), { tSlice with extents := [(0, 32)] }, tImage, _, 0, _, ⟨by decide, by decide, by decide, by decide, by decide, by decide, by decide, by decide, by decide, by decide, Prod.ext (by decide) (Prod.ext (by decide) rfl), by decide, by decide, by decide, by decide, by decide, by decide, by decide, rfl⟩⟩,
    ⟨tState (tSafeReg), (tRegister 2 0x3FF), { tSlice with extents := [(0, 32)] }, tSafeImage, _, 0, _, ⟨by decide, by decide, by decide, by decide, by decide, by decide, by decide, by decide, by decide, by decide, Prod.ext (by decide) (Prod.ext (by decide) rfl), by decide, by decide, by decide, by decide, by decide, by decide, by decide, by decide, rfl⟩⟩,
    ⟨tState (tUnread), (tRegister 0 0x3FF), { tSlice with extents := [(0, 32)] }, _, _, _, ⟨by decide, by decide, by decide, by decide, by decide, by decide, by decide, by decide, by decide, by decide, by decide, tPair _⟩⟩⟩

/-- States and operands that meet the hypotheses of ModelsAreRegisteredPinnedAndVerified, part 2 of 6. -/
theorem test_ModelsAreRegisteredPinnedAndVerified_meets_2 :
    (∃ (s : State) (p : Packet) (sl : Slice), (s.chip.startedAs p 0x200) ∧ (s.chip.slice? p.slice = some sl) ∧ (2 ^ 48 ≤ p.u 32 8 ∨ p.u 32 8 % 64 ≠ 0 ∨ p.u 40 4 = 0 ∨ 4 ≤ p.u 44 4 ∨ 1024 ≤ p.u 48 2 ∨ zeroIn p.bytes 50 128 = false)) ∧
    (∃ (s : State) (p : Packet) (sl : Slice), (s.chip.startedAs p 0x200) ∧ (s.chip.slice? p.slice = some sl) ∧ (p.u 32 8 < 2 ^ 48) ∧ (p.u 32 8 % 64 = 0) ∧ (p.u 40 4 ≠ 0) ∧ (p.u 44 4 < 4) ∧ (p.u 48 2 < 1024) ∧ (zeroIn p.bytes 50 128 = true) ∧ (s.chip.imageOwned p.slice (p.u 32 8) (p.u 40 4) = false)) ∧
    (∃ (s : State) (p : Packet) (sl : Slice), (s.chip.startedAs p 0x200) ∧ (s.chip.slice? p.slice = some sl) ∧ (p.u 32 8 < 2 ^ 48) ∧ (p.u 32 8 % 64 = 0) ∧ (p.u 40 4 ≠ 0) ∧ (p.u 44 4 < 4) ∧ (p.u 48 2 < 1024) ∧ (zeroIn p.bytes 50 128 = true) ∧ (s.chip.imageOwned p.slice (p.u 32 8) (p.u 40 4) = true) ∧ (sumOf (sl.extents.map (·.2)) * pageSize < p.u 40 4)) ∧
    (∃ (s : State) (p : Packet) (sl : Slice) (img : List Byte) (c1 : Chip), (s.chip.startedAs p 0x200) ∧ (s.chip.slice? p.slice = some sl) ∧ (p.u 32 8 < 2 ^ 48) ∧ (p.u 32 8 % 64 = 0) ∧ (p.u 40 4 ≠ 0) ∧ (p.u 44 4 < 4) ∧ (p.u 48 2 < 1024) ∧ (zeroIn p.bytes 50 128 = true) ∧ (s.chip.imageOwned p.slice (p.u 32 8) (p.u 40 4) = true) ∧ (p.u 40 4 ≤ sumOf (sl.extents.map (·.2)) * pageSize) ∧ (s.chip.loadRange cpMaster p.slice (p.u 32 8) (p.u 40 4) p.cls = (.ok, img, c1)) ∧ (imageOk img = false)) :=
  ⟨⟨tState (tModels (tRegister 4 1023) []), (tRegister 4 0x3FF), { tSlice with extents := [(0, 32)] }, by decide⟩,
    ⟨tState ({ tModels (tRegister 0 1023) [] with owners := [] }), (tRegister 0 0x3FF), { tSlice with extents := [(0, 32)] }, by decide⟩,
    ⟨tState ({ tModels (tRegister 0 1023) [] with slices := [(1, { tSlice with extents := [] })] }), (tRegister 0 0x3FF), { tSlice with extents := [] }, by decide⟩,
    ⟨tState ({ tModels (tRegister 0 1023) [] with mem := [] }), (tRegister 0 0x3FF), { tSlice with extents := [(0, 32)] }, _, _, ⟨by decide, by decide, by decide, by decide, by decide, by decide, by decide, by decide, by decide, by decide, Prod.ext (by decide) rfl, by decide⟩⟩⟩

/-- States and operands that meet the hypotheses of ModelsAreRegisteredPinnedAndVerified, part 3 of 6. -/
theorem test_ModelsAreRegisteredPinnedAndVerified_meets_3 :
    (∃ (s : State) (p : Packet) (sl : Slice) (img : List Byte) (c1 : Chip), (s.chip.startedAs p 0x200) ∧ (s.chip.slice? p.slice = some sl) ∧ (p.u 32 8 < 2 ^ 48) ∧ (p.u 32 8 % 64 = 0) ∧ (p.u 40 4 ≠ 0) ∧ (p.u 44 4 < 4) ∧ (p.u 48 2 < 1024) ∧ (zeroIn p.bytes 50 128 = true) ∧ (s.chip.imageOwned p.slice (p.u 32 8) (p.u 40 4) = true) ∧ (p.u 40 4 ≤ sumOf (sl.extents.map (·.2)) * pageSize) ∧ (s.chip.loadRange cpMaster p.slice (p.u 32 8) (p.u 40 4) p.cls = (.ok, img, c1)) ∧ (imageOk img = true) ∧ (bytesU img 8 4 ≠ p.u 40 4)) ∧
    (∃ (s : State) (p : Packet) (sl : Slice) (img : List Byte) (c1 : Chip), (s.chip.startedAs p 0x200) ∧ (s.chip.slice? p.slice = some sl) ∧ (p.u 32 8 < 2 ^ 48) ∧ (p.u 32 8 % 64 = 0) ∧ (p.u 40 4 ≠ 0) ∧ (p.u 44 4 < 4) ∧ (p.u 48 2 < 1024) ∧ (zeroIn p.bytes 50 128 = true) ∧ (s.chip.imageOwned p.slice (p.u 32 8) (p.u 40 4) = true) ∧ (p.u 40 4 ≤ sumOf (sl.extents.map (·.2)) * pageSize) ∧ (s.chip.loadRange cpMaster p.slice (p.u 32 8) (p.u 40 4) p.cls = (.ok, img, c1)) ∧ (imageOk img = true) ∧ (bytesU img 8 4 = p.u 40 4) ∧ (placementOk p.slice sl (newModel p.slice sl.segments.length (p.u 32 8) (p.u 40 4) img).variants = false)) ∧
    (∃ (s : State) (p : Packet) (sl : Slice) (img : List Byte) (c1 : Chip), (s.chip.startedAs p 0x200) ∧ (s.chip.slice? p.slice = some sl) ∧ (p.u 32 8 < 2 ^ 48) ∧ (p.u 32 8 % 64 = 0) ∧ (p.u 40 4 ≠ 0) ∧ (p.u 44 4 < 4) ∧ (p.u 48 2 < 1024) ∧ (zeroIn p.bytes 50 128 = true) ∧ (s.chip.imageOwned p.slice (p.u 32 8) (p.u 40 4) = true) ∧ (p.u 40 4 ≤ sumOf (sl.extents.map (·.2)) * pageSize) ∧ (s.chip.loadRange cpMaster p.slice (p.u 32 8) (p.u 40 4) p.cls = (.ok, img, c1)) ∧ (imageOk img = true) ∧ (bytesU img 8 4 = p.u 40 4) ∧ (placementOk p.slice sl (newModel p.slice sl.segments.length (p.u 32 8) (p.u 40 4) img).variants = true) ∧ (c1.freeModel (p.u 48 2) = none)) ∧
    (∃ (s : State) (p : Packet) (m : Nat) (x : Model), (s.chip.startedAs p 0x201) ∧ (p.u 34 1 ≤ 1) ∧ (zeroIn p.bytes 35 64 = true) ∧ (s.chip.namedModel p = .ok (m, x)) ∧ (p.u 34 1 = 0)) :=
  ⟨⟨tState ({ tModels (tRegister 0 1023) [] with mem := memWrite [] 0x100000 (putAt tImage 8 (leBytes 4 640 ++ leBytes 4 576)) }), (tRegister 0 0x3FF), { tSlice with extents := [(0, 32)] }, _, _, ⟨by decide, by decide, by decide, by decide, by decide, by decide, by decide, by decide, by decide, by decide, Prod.ext (by decide) rfl, by decide, by decide⟩⟩,
    ⟨tState ({ tModels (tRegister 0 1023) [] with slices := [(1, { tSlice with extents := [(0, 32)], tiles := [] })] }), (tRegister 0 0x3FF), { tSlice with extents := [(0, 32)], tiles := [] }, _, _, ⟨by decide, by decide, by decide, by decide, by decide, by decide, by decide, by decide, by decide, by decide, Prod.ext (by decide) rfl, by decide, by decide, by decide⟩⟩,
    ⟨tState (tModels (tRegister 0 0) [(0, tModel)]), (tRegister 0 0), { tSlice with extents := [(0, 32)] }, _, _, ⟨by decide, by decide, by decide, by decide, by decide, by decide, by decide, by decide, by decide, by decide, Prod.ext (by decide) rfl, by decide, by decide, by decide, by decide⟩⟩,
    ⟨tState (tModels (tNamed 0x201 0) [(0, { tRunModel with safety := true })]), (tNamed 0x201 0), 0, { tRunModel with safety := true }, ⟨by decide, by decide, by decide, rfl, by decide⟩⟩⟩

/-- States and operands that meet the hypotheses of ModelsAreRegisteredPinnedAndVerified, part 4 of 6. -/
theorem test_ModelsAreRegisteredPinnedAndVerified_meets_4 :
    (∃ (s : State) (p : Packet) (m : Nat) (x : Model), (s.chip.startedAs p 0x201) ∧ (p.u 34 1 ≤ 1) ∧ (zeroIn p.bytes 35 64 = true) ∧ (s.chip.namedModel p = .ok (m, x)) ∧ (p.u 34 1 = 1) ∧ (x.safety = false)) ∧
    (∃ (s : State) (p : Packet) (m : Nat) (x : Model), (s.chip.startedAs p 0x201) ∧ (p.u 34 1 ≤ 1) ∧ (zeroIn p.bytes 35 64 = true) ∧ (s.chip.namedModel p = .ok (m, x)) ∧ (p.u 34 1 = 1) ∧ (x.safety = true) ∧ (x.pinned = true) ∧ (x.resident = true)) ∧
    (∃ (s : State) (p : Packet) (m : Nat) (x : Model) (sl : Slice), (s.chip.startedAs p 0x201) ∧ (p.u 34 1 ≤ 1) ∧ (zeroIn p.bytes 35 64 = true) ∧ (s.chip.namedModel p = .ok (m, x)) ∧ (p.u 34 1 = 1) ∧ (x.safety = true) ∧ (x.pinned = false) ∧ (x.resident = true) ∧ (x.streaming = false) ∧ (s.chip.slice? p.slice = some sl) ∧ (s.chip.pinnedSegs p.slice + x.need ≤ sl.segments.length)) ∧
    (∃ (s : State) (p : Packet) (m : Nat) (x : Model), (s.chip.startedAs p 0x202) ∧ (p.u 34 1 ≤ 1) ∧ (zeroIn p.bytes 35 64 = true) ∧ (s.chip.namedModel p = .ok (m, x)) ∧ (x.pinned = true)) :=
  ⟨⟨tState (tModels (tNamed 0x201 1) [(0, tRunModel)]), (tNamed 0x201 1), 0, tRunModel, ⟨by decide, by decide, by decide, rfl, by decide, by decide⟩⟩,
    ⟨tState (tModels (tNamed 0x201 1) [(0, { tRunModel with safety := true, pinned := true, resident := true })]), (tNamed 0x201 1), 0, { tRunModel with safety := true, pinned := true, resident := true }, ⟨by decide, by decide, by decide, rfl, by decide, by decide, by decide, by decide⟩⟩,
    ⟨tState (tModels (tNamed 0x201 1) [(0, { tRunModel with safety := true, resident := true })]), (tNamed 0x201 1), 0, { tRunModel with safety := true, resident := true }, { tSlice with extents := [(0, 32)] }, ⟨by decide, by decide, by decide, rfl, by decide, by decide, by decide, by decide, by decide, rfl, by decide⟩⟩,
    ⟨tState (tModels (tNamed 0x202 0) [(0, { tRunModel with pinned := true })]), (tNamed 0x202 0), 0, { tRunModel with pinned := true }, ⟨by decide, by decide, by decide, rfl, by decide⟩⟩⟩

/-- States and operands that meet the hypotheses of ModelsAreRegisteredPinnedAndVerified, part 5 of 6. -/
theorem test_ModelsAreRegisteredPinnedAndVerified_meets_5 :
    (∃ (s : State) (p : Packet) (m : Nat) (x : Model), (s.chip.startedAs p 0x202) ∧ (p.u 34 1 ≤ 1) ∧ (zeroIn p.bytes 35 64 = true) ∧ (s.chip.namedModel p = .ok (m, x)) ∧ (x.pinned = false) ∧ (p.u 34 1 = 0) ∧ (s.chip.modelHeld m = false) ∧ (x.loading = false)) ∧
    (∃ (s : State) (p : Packet) (m : Nat) (x : Model), (s.chip.startedAs p 0x202) ∧ (p.u 34 1 ≤ 1) ∧ (zeroIn p.bytes 35 64 = true) ∧ (s.chip.namedModel p = .ok (m, x)) ∧ (x.pinned = false) ∧ (p.u 34 1 = 0) ∧ (s.chip.modelHeld m = true ∨ x.loading = true)) ∧
    (∃ (s : State) (p : Packet) (m : Nat) (x : Model), (s.chip.startedAs p 0x202) ∧ (p.u 34 1 ≤ 1) ∧ (zeroIn p.bytes 35 64 = true) ∧ (s.chip.namedModel p = .ok (m, x)) ∧ (x.pinned = false) ∧ (p.u 34 1 = 1) ∧ (s.chip.jobs.any (fun j => j.uses m) = false) ∧ (x.loading = false)) ∧
    (∃ (s : State) (p : Packet) (m : Nat) (x : Model), (s.chip.startedAs p 0x202) ∧ (p.u 34 1 ≤ 1) ∧ (zeroIn p.bytes 35 64 = true) ∧ (s.chip.namedModel p = .ok (m, x)) ∧ (x.pinned = false) ∧ (p.u 34 1 = 1) ∧ (s.chip.jobs.any (fun j => j.uses m) = true ∨ x.loading = true)) :=
  ⟨⟨tState (tModels (tNamed 0x202 0) [(0, tRunModel)]), (tNamed 0x202 0), 0, tRunModel, ⟨by decide, by decide, by decide, rfl, by decide, by decide, by decide, by decide⟩⟩,
    ⟨tState (tModels (tNamed 0x202 0) [(0, { tRunModel with loading := true })]), (tNamed 0x202 0), 0, { tRunModel with loading := true }, ⟨by decide, by decide, by decide, rfl, by decide, by decide, by decide⟩⟩,
    ⟨tState (tModels (tNamed 0x202 1) [(0, tRunModel)]), (tNamed 0x202 1), 0, tRunModel, ⟨by decide, by decide, by decide, rfl, by decide, by decide, by decide, by decide⟩⟩,
    ⟨tState (tModels (tNamed 0x202 1) [(0, { tRunModel with loading := true })]), (tNamed 0x202 1), 0, { tRunModel with loading := true }, ⟨by decide, by decide, by decide, rfl, by decide, by decide, by decide⟩⟩⟩

/-- States and operands that meet the hypotheses of ModelsAreRegisteredPinnedAndVerified, part 6 of 6. -/
theorem test_ModelsAreRegisteredPinnedAndVerified_meets_6 :
    (∃ (s : State) (p : Packet) (m : Nat) (x : Model) (de : Bool) (re : Bool) (img : List Byte) (copy : List Byte) (c1 : Chip) (c2 : Chip), (s.chip.startedAs p 0x103) ∧ (zeroIn p.bytes 34 64 = true) ∧ (s.chip.namedModel p = .ok (m, x)) ∧ (s.chip.readThrough cpMaster x.slice (pieces x.image x.imageBytes) = (de, img, c1)) ∧ (c1.readCopy x = (re, copy, c2)) ∧ (badImage de img x.hash = false) ∧ ((x.resident && badImage re (copy ++ img.drop x.hotBytes) x.hash) = false)) ∧
    (∃ (s : State) (p : Packet) (m : Nat) (x : Model) (de : Bool) (re : Bool) (db : Bool) (cb : Bool) (img : List Byte) (copy : List Byte) (c1 : Chip) (c2 : Chip), (s.chip.startedAs p 0x103) ∧ (zeroIn p.bytes 34 64 = true) ∧ (s.chip.namedModel p = .ok (m, x)) ∧ (s.chip.readThrough cpMaster x.slice (pieces x.image x.imageBytes) = (de, img, c1)) ∧ (c1.readCopy x = (re, copy, c2)) ∧ (badImage de img x.hash = db) ∧ ((x.resident && badImage re (copy ++ img.drop x.hotBytes) x.hash) = cb) ∧ ((db || cb) = true)) :=
  ⟨⟨tState (tModels (tNamed 0x103 0) [(0, tHashed)]), (tNamed 0x103 0), 0, tHashed, false, false, tImage, [], _, _, ⟨by decide, by decide, rfl, rfl, rfl, tHashed_good, rfl⟩⟩,
    ⟨tState ({ tModels (tNamed 0x103 0) [(0, tRunModel)] with regs := [] }), (tNamed 0x103 0), 0, tRunModel, true, _, true, _, _, [], _, _, ⟨by decide, by decide, rfl, rfl, rfl, rfl, rfl, rfl⟩⟩⟩

/-- States and operands that meet the hypotheses of StreamsOpenAndTriggersFire, part 1 of 3. -/
theorem test_StreamsOpenAndTriggersFire_meets_1 :
    (∃ (tag : Nat), (tag ≠ 0)) ∧
    (∃ (s : State) (n : Nat) (v : W32), (n < 16) ∧ (s.chip.flag (CFL_TRIG_CTRL n) CFL_TRIG_CTRL.EN = true) ∧ (bitOf v.toNat 3 = false) ∧ (bitOf v.toNat 0 = false)) ∧
    (∃ (s : State) (n : Nat) (v : W32), (n < 16) ∧ (s.chip.flag (CFL_TRIG_CTRL n) CFL_TRIG_CTRL.EN = true) ∧ (bitOf v.toNat 3 = true) ∧ (bitOf v.toNat 0 = true)) ∧
    (∃ (s : State) (n : Nat) (v : W32) (c : Chip), (n < 16) ∧ (s.chip.flag (CFL_TRIG_CTRL n) CFL_TRIG_CTRL.EN = false) ∧ (bitOf v.toNat 3 = false) ∧ (bitOf v.toNat 0 = true) ∧ (c = (s.chip.setFld (CFL_TRIG_CTRL n) CFL_TRIG_CTRL.POL (bitsOf v.toNat 2 2)).setFld (CFL_TRIG_CTRL n) CFL_TRIG_CTRL.OUT_EN (bitsOf v.toNat 1 1)) ∧ (1000 ≤ c.reg (CFL_TRIG_PERIOD n)) ∧ (c.reg (CFL_TRIG_PERIOD n) ≤ 2000000000) ∧ (100 ≤ c.reg (CFL_TRIG_WIDTH n)) ∧ (c.reg (CFL_TRIG_WIDTH n) + 100 ≤ c.reg (CFL_TRIG_PERIOD n)) ∧ (timeBefore (c.now + 2147000000) (c.firstEdge n) = false)) ∧
    (∃ (s : State) (n : Nat) (v : W32) (c : Chip), (n < 16) ∧ (s.chip.flag (CFL_TRIG_CTRL n) CFL_TRIG_CTRL.EN = false) ∧ (bitOf v.toNat 3 = false) ∧ (bitOf v.toNat 0 = true) ∧ (c = (s.chip.setFld (CFL_TRIG_CTRL n) CFL_TRIG_CTRL.POL (bitsOf v.toNat 2 2)).setFld (CFL_TRIG_CTRL n) CFL_TRIG_CTRL.OUT_EN (bitsOf v.toNat 1 1)) ∧ (c.reg (CFL_TRIG_PERIOD n) < 1000 ∨ 2000000000 < c.reg (CFL_TRIG_PERIOD n) ∨ c.reg (CFL_TRIG_WIDTH n) < 100 ∨ c.reg (CFL_TRIG_PERIOD n) < c.reg (CFL_TRIG_WIDTH n) + 100 ∨ timeBefore (c.now + 2147000000) (c.firstEdge n) = true)) ∧
    (∃ (s : State) (n : Nat), (n < 16) ∧ (s.chip.flag (CFL_TRIG_CTRL n) CFL_TRIG_CTRL.EN = true) ∧ (edgeReached s.chip.now (s.chip.reg (CFL_TRIG_NEXT n)) = true)) ∧
    (∃ (s : State) (n : Nat), (edgeReached s.chip.now (s.chip.reg (CFL_TRIG_NEXT n)) = false)) ∧
    (∃ (s : State) (p : Packet) (sl : Slice), (s.chip.startedAs p 0x300) ∧ (s.chip.slice? p.slice = some sl) ∧ (s.chip.openStatus sl p = none)) :=
  ⟨⟨1, by decide⟩,
    ⟨tState (tTrig), 2, 0, by decide⟩,
    ⟨tState (tTrig), 2, 9, by decide⟩,
    ⟨tState (((Chip.setReg {} (CFL_TRIG_PERIOD 2) 1000).setReg (CFL_TRIG_WIDTH 2) 100)), 2, 1, _, ⟨by decide, by decide, by decide, by decide, rfl, by decide, by decide, by decide, by decide, by decide⟩⟩,
    ⟨tState {}, 2, 1, _, ⟨by decide, by decide, by decide, by decide, rfl, by decide⟩⟩,
    ⟨tState (tTrig), 2, by decide⟩,
    ⟨tState ({ tTrig with now := 0 }), 2, by decide⟩,
    ⟨tState ({ tCfl tOpenP tStream with cfl := { contexts := [(0, tCtx)] } }), tOpenP, { tSlice with extents := [(0, 32)] }, by decide⟩⟩

/-- States and operands that meet the hypotheses of StreamsOpenAndTriggersFire, part 2 of 3. -/
theorem test_StreamsOpenAndTriggersFire_meets_2 :
    (∃ (s : State) (p : Packet) (sl : Slice) (st : Nat), (s.chip.startedAs p 0x300) ∧ (s.chip.slice? p.slice = some sl) ∧ (s.chip.openStatus sl p = some st)) ∧
    (∃ (s : State) (p : Packet) (x : FuseStream), (s.chip.startedAs p 0x302) ∧ (p.u 32 1 < 64) ∧ (zeroIn p.bytes 33 64 = true) ∧ (s.chip.stream? (p.u 32 1) = some x) ∧ (x.slice = p.slice)) ∧
    (∃ (s : State) (n : Nat) (x : FuseStream) (b : List Byte) (c : Chip), (s.chip.stream? n = some x) ∧ (s.chip.injectReady x = true) ∧ (s.chip.injectHead n x = (b, c)) ∧ (injectBad x b = true)) ∧
    (∃ (s : State) (n : Nat) (x : FuseStream) (b : List Byte) (c : Chip), (s.chip.stream? n = some x) ∧ (s.chip.injectReady x = true) ∧ (s.chip.injectHead n x = (b, c)) ∧ (injectBad x b = false) ∧ (bytesU b 28 1 = 2) ∧ (c.injectLate x (bytesU b 0 8) = true) ∧ (x.revisable = false)) ∧
    (∃ (s : State) (n : Nat) (x : FuseStream) (b : List Byte) (c : Chip), (s.chip.stream? n = some x) ∧ (s.chip.injectReady x = true) ∧ (s.chip.injectHead n x = (b, c)) ∧ (injectBad x b = false) ∧ (bytesU b 28 1 ≠ 2) ∧ (c.injectLate x (bytesU b 0 8) = true) ∧ (x.revisable = false)) ∧
    (∃ (s : State) (n : Nat) (x : FuseStream) (b : List Byte) (c : Chip), (s.chip.stream? n = some x) ∧ (s.chip.injectReady x = true) ∧ (s.chip.injectHead n x = (b, c)) ∧ (injectBad x b = false) ∧ (bytesU b 28 1 = 2) ∧ (c.injectLate x (bytesU b 0 8) = false ∨ x.revisable = true) ∧ (x.staleRevision (bytesU b 0 8) = none)) ∧
    (∃ (s : State) (n : Nat) (x : FuseStream) (b : List Byte) (c : Chip) (k : Nat), (s.chip.stream? n = some x) ∧ (s.chip.injectReady x = true) ∧ (s.chip.injectHead n x = (b, c)) ∧ (injectBad x b = false) ∧ (bytesU b 28 1 = 2) ∧ (c.injectLate x (bytesU b 0 8) = false ∨ x.revisable = true) ∧ (x.staleRevision (bytesU b 0 8) = some k)) ∧
    (∃ (s : State) (n : Nat) (x : FuseStream) (b : List Byte) (c : Chip), (s.chip.stream? n = some x) ∧ (s.chip.injectReady x = true) ∧ (s.chip.injectHead n x = (b, c)) ∧ (injectBad x b = false) ∧ (bytesU b 28 1 ≠ 2) ∧ (c.injectLate x (bytesU b 0 8) = false ∨ x.revisable = true)) :=
  ⟨⟨tState (tCfl tOpenP tStream), tOpenP, { tSlice with extents := [(0, 32)] }, stNoResource, by decide⟩,
    ⟨tState (tCfl (tPacket 1 0x302 1 [3]) tStream), tPacket 1 0x302 1 [3], tStream, by decide⟩,
    ⟨tState ({ tCfl tOpenP tStream with syncs := [(0, 1)], mem := memWrite [] 0x130000 [1] }), 3, tStream, [1, 0, 0, 0, 0, 0, 0, 0, 0, 0, 0, 0, 0, 0, 0, 0, 0, 0, 0, 0, 0, 0, 0, 0, 0, 0, 0, 0, 0, 0, 0, 0, 0, 0, 0, 0, 0, 0, 0, 0, 0, 0, 0, 0, 0, 0, 0, 0, 0, 0, 0, 0, 0, 0, 0, 0, 0, 0, 0, 0, 0, 0, 0, 0], _, ⟨by decide, by decide, rfl, by decide⟩⟩,
    ⟨tState ({ tCfl tOpenP tStream with now := 9, syncs := [(0, 1)], mem := memWrite [] 0x13001C [2] }), 3, tStream, putAt (List.replicate 64 0) 28 [2], _, ⟨by decide, by decide, rfl, by decide, by decide, by decide, by decide⟩⟩,
    ⟨tState ({ tCfl tOpenP { tStream with desc := putAt tOpenP.bytes 36 [128] } with now := 9, syncs := [(0, 1)] }), 3, { tStream with desc := putAt tOpenP.bytes 36 [128] }, List.replicate 64 0, _, ⟨by decide, by decide, rfl, by decide, by decide, by decide, by decide⟩⟩,
    ⟨tState ({ tCfl tOpenP tStream with syncs := [(0, 1)], mem := memWrite [] 0x13001C [2] }), 3, tStream, putAt (List.replicate 64 0) 28 [2], _, ⟨by decide, by decide, rfl, by decide, by decide, by decide⟩⟩,
    ⟨tState ({ tCfl tOpenP { tStream with last := some (5, 255) } with syncs := [(0, 1)], mem := memWrite [] 0x13001C [2] }), 3, { tStream with last := some (5, 255) }, putAt (List.replicate 64 0) 28 [2], _, 1, ⟨by decide, by decide, rfl, by decide, by decide, by decide⟩⟩,
    ⟨tState ({ tCfl tOpenP { tStream with desc := putAt tOpenP.bytes 36 [128] } with syncs := [(0, 1)] }), 3, { tStream with desc := putAt tOpenP.bytes 36 [128] }, List.replicate 64 0, _, ⟨by decide, by decide, rfl, by decide, by decide⟩⟩⟩

/-- States and operands that meet the hypotheses of StreamsOpenAndTriggersFire, part 3 of 3. -/
theorem test_StreamsOpenAndTriggersFire_meets_3 :
    (∃ (s : State) (n : Nat) (x : FuseStream) (c : Chip) (y : FuseStream) (f : FuseFrame), (s.chip.stream? n = some x) ∧ (s.chip.beginMissed n x = c) ∧ (c.stream? n = some y) ∧ (c.cutFrame y = some f) ∧ (f.ended = false)) ∧
    (∃ (s : State) (n : Nat) (x : FuseStream) (c : Chip) (y : FuseStream) (f : FuseFrame), (s.chip.stream? n = some x) ∧ (s.chip.beginMissed n x = c) ∧ (c.stream? n = some y) ∧ (c.cutFrame y = some f) ∧ (f.ended = true)) ∧
    (∃ (s : State) (n : Nat) (x : FuseStream), (s.chip.stream? n = some x) ∧ (s.chip.missedFrame x = none) ∧ (s.chip.cutFrame x = none) ∧ (s.chip.boundaryPast x = true)) :=
  ⟨⟨tState ({ tCfl tOpenP tCam with now := 100 }), 3, tCam, _, _, _, ⟨by decide, rfl, rfl, rfl, by decide⟩⟩,
    ⟨tState ({ tCfl tOpenP { tCam with frames := [{ edge := 0, validity := 10, buf := 0, ended := true }] } with now := 100 }), 3, { tCam with frames := [{ edge := 0, validity := 10, buf := 0, ended := true }] }, _, _, _, ⟨by decide, rfl, rfl, rfl, by decide⟩⟩,
    ⟨tState ({ tCfl tOpenP { tCam with frames := [] } with now := 100 }), 3, { tCam with frames := [] }, by decide⟩⟩

/-- States and operands that meet the hypotheses of FusionPoliciesBind, part 1 of 2. -/
theorem test_FusionPoliciesBind_meets_1 :
    (∃ (s : State) (p : Packet), (s.chip.startedAs p 0x301) ∧ (3 < p.u 32 1 ∨ 1 < p.u 34 1)) ∧
    (∃ (s : State) (p : Packet), (s.chip.startedAs p 0x301) ∧ (p.u 32 1 = 0) ∧ (p.u 34 1 = 0) ∧ (p.u 33 1 < 32) ∧ (zeroIn p.bytes 35 40 = true) ∧ (p.alignCtx.base < 2 ^ 48) ∧ (4 ≤ p.alignCtx.log2) ∧ (p.alignCtx.log2 ≤ 12) ∧ (p.u 49 1 = 0) ∧ (zeroIn p.bytes 60 128 = true) ∧ (boundElsewhere ((AMap.get? s.chip.cfl.contexts (p.u 33 1)).map (·.slice)) p.slice = false) ∧ (s.chip.syncOf p.slice p.alignCtx.obj = true) ∧ (s.chip.ownsPages p.slice p.alignCtx.base (64 * 2 ^ p.alignCtx.log2) = true)) ∧
    (∃ (s : State) (p : Packet), (s.chip.startedAs p 0x301) ∧ (p.u 32 1 = 1) ∧ (p.u 34 1 = 0) ∧ (s.chip.gridStatus p = none)) ∧
    (∃ (s : State) (p : Packet), (s.chip.startedAs p 0x301) ∧ (p.u 32 1 = 2) ∧ (p.u 34 1 = 0) ∧ (s.chip.trackerStatus p = none)) ∧
    (∃ (s : State) (p : Packet) (st : Nat), (s.chip.startedAs p 0x301) ∧ (p.u 32 1 = 1) ∧ (p.u 34 1 = 0) ∧ (s.chip.gridStatus p = some st)) ∧
    (∃ (s : State) (p : Packet) (st : Nat), (s.chip.startedAs p 0x301) ∧ (p.u 32 1 = 2) ∧ (p.u 34 1 = 0) ∧ (s.chip.trackerStatus p = some st)) ∧
    (∃ (s : State) (p : Packet) (x : FuseStream), (s.chip.startedAs p 0x301) ∧ (p.u 32 1 = 3) ∧ (p.u 34 1 = 0) ∧ (p.u 33 1 < 64) ∧ (zeroIn p.bytes 35 40 = true) ∧ (p.u 40 1 ≤ 1) ∧ (zeroIn p.bytes 41 44 = true) ∧ (zeroIn p.bytes 48 128 = true) ∧ (s.chip.stream? (p.u 33 1) = some x) ∧ (x.slice = p.slice)) ∧
    (∃ (s : State) (p : Packet) (o : Nat), (s.chip.startedAs p 0x301) ∧ (p.u 32 1 ≤ 3) ∧ (p.u 34 1 = 1) ∧ (p.policyReserved.any (fun r => !zeroIn p.bytes r.1 r.2) = false) ∧ (s.chip.policyOwner (p.u 32 1) (p.u 33 1) = some o) ∧ (o = p.slice) ∧ (s.chip.policyNamed (p.u 32 1) (p.u 33 1) = false)) :=
  ⟨⟨tState (tCfl (tPolicy 4 0 0 []) tStream), tPolicy 4 0 0 [], by decide⟩,
    ⟨tState (tCfl (tPolicy 0 1 0 (List.replicate 5 0 ++ leBytes 8 0x140000 ++ [4, 0, 1, 0])) tStream), tPolicy 0 1 0 (List.replicate 5 0 ++ leBytes 8 0x140000 ++ [4, 0, 1, 0]), by decide⟩,
    ⟨tState (tCfl tGridP tStream), tGridP, by decide⟩,
    ⟨tState (tCfl tTrackP tStream), tTrackP, by decide⟩,
    ⟨tState (tCfl (tPolicy 1 0 0 []) tStream), tPolicy 1 0 0 [], stBadParam, by decide⟩,
    ⟨tState (tCfl (tPolicy 2 0 0 []) tStream), tPolicy 2 0 0 [], stBadParam, by decide⟩,
    ⟨tState (tCfl (tPolicy 3 3 0 []) tStream), tPolicy 3 3 0 [], tStream, by decide⟩,
    ⟨tState ({ tCfl (tPolicy 0 0 1 []) tStream with cfl := { contexts := [(0, tCtx)] } }), tPolicy 0 0 1 [], 1, by decide⟩⟩

/-- States and operands that meet the hypotheses of FusionPoliciesBind, part 2 of 2. -/
theorem test_FusionPoliciesBind_meets_2 :
    (∃ (s : State) (p : Packet) (o : Nat), (s.chip.startedAs p 0x301) ∧ (p.u 32 1 ≤ 3) ∧ (p.u 34 1 = 1) ∧ (p.policyReserved.any (fun r => !zeroIn p.bytes r.1 r.2) = false) ∧ (s.chip.policyOwner (p.u 32 1) (p.u 33 1) = some o) ∧ (o = p.slice) ∧ (s.chip.policyNamed (p.u 32 1) (p.u 33 1) = true)) ∧
    (∃ (s : State) (p : Packet), (s.chip.startedAs p 0x301) ∧ (p.u 32 1 ≤ 3) ∧ (p.u 34 1 = 1) ∧ (p.policyReserved.any (fun r => !zeroIn p.bytes r.1 r.2) = true)) ∧
    (∃ (s : State) (p : Packet) (o : Nat), (s.chip.startedAs p 0x301) ∧ (p.u 32 1 ≤ 3) ∧ (p.u 34 1 = 1) ∧ (p.policyReserved.any (fun r => !zeroIn p.bytes r.1 r.2) = false) ∧ (s.chip.policyOwner (p.u 32 1) (p.u 33 1) = some o) ∧ (o ≠ p.slice)) ∧
    (∃ (s : State) (p : Packet), (s.chip.startedAs p 0x301) ∧ (p.u 32 1 ≤ 3) ∧ (p.u 34 1 = 1) ∧ (p.policyReserved.any (fun r => !zeroIn p.bytes r.1 r.2) = false) ∧ (s.chip.policyOwner (p.u 32 1) (p.u 33 1) = none)) :=
  ⟨⟨tState (tCfl (tPolicy 0 0 1 []) tStream), tPolicy 0 0 1 [], 1, by decide⟩,
    ⟨tState (tCfl (tPolicy 0 0 1 (List.replicate 30 1)) tStream), tPolicy 0 0 1 (List.replicate 30 1), by decide⟩,
    ⟨tState ({ tCfl (tPolicy 0 0 1 []) tStream with cfl := { contexts := [(0, { tCtx with slice := 2 })] } }), tPolicy 0 0 1 [], 2, by decide⟩,
    ⟨tState (tCfl (tPolicy 0 9 1 []) tStream), tPolicy 0 9 1 [], by decide⟩⟩

/-- States and operands that meet the hypotheses of SensorDataIsTaken, part 1 of 2. -/
theorem test_SensorDataIsTaken_meets_1 :
    (∃ (s : State) (n : Nat) (k : Nat) (x : FuseStream) (c : Chip), (s.chip.freeFrame n = c) ∧ (c.stream? n = some x) ∧ (x.kind = 0) ∧ (k = 1 ∨ k = 2)) ∧
    (∃ (s : State) (n : Nat) (row : Nat) (b : List Byte) (x : FuseStream) (c : Chip), (s.chip.freeFrame n = c) ∧ (c.stream? n = some x) ∧ (x.kind = 0) ∧ (x.height ≤ row ∨ b.length ≠ x.rowBytes)) ∧
    (∃ (s : State) (n : Nat) (row : Nat) (b : List Byte) (x : FuseStream) (f : FuseFrame) (c : Chip), (s.chip.freeFrame n = c) ∧ (c.stream? n = some x) ∧ (x.kind = 0) ∧ (row < x.height) ∧ (b.length = x.rowBytes) ∧ (x.current c.now = some f) ∧ (f.ended = false) ∧ (f.cut = false ∨ x.revisable = true)) ∧
    (∃ (s : State) (n : Nat) (x : FuseStream) (f : FuseFrame), (s.chip.stream? n = some x) ∧ (x.current s.chip.now = some f) ∧ (x.kind = 0) ∧ (f.ended = false) ∧ (f.cut = false)) ∧
    (∃ (s : State) (n : Nat) (x : FuseStream) (f : FuseFrame), (s.chip.stream? n = some x) ∧ (x.current s.chip.now = some f) ∧ (x.kind = 0) ∧ (f.ended = false) ∧ (f.cut = true)) ∧
    (∃ (s : State) (n : Nat) (b : List Byte) (x : FuseStream), (s.chip.stream? n = some x) ∧ (x.kind = 1) ∧ (b.length < x.u 178 2 + x.width * x.pointBytes ∨ b.length < x.u 176 2 + 8)) ∧
    (∃ (s : State) (n : Nat) (b : List Byte) (x : FuseStream) (y : FuseStream) (f : FuseFrame) (c : Chip), (s.chip.stream? n = some x) ∧ (x.kind = 1) ∧ (x.u 178 2 + x.width * x.pointBytes ≤ b.length) ∧ (x.u 176 2 + 8 ≤ b.length) ∧ (s.chip.openSweep n x (s.chip.sweepEdge x (x.packetValidity b)) = c) ∧ (c.stream? n = some y) ∧ (y.frames.find? (fun f => f.edge == s.chip.sweepEdge x (x.packetValidity b)) = some f) ∧ (f.ended = false) ∧ (f.cut = false ∨ y.revisable = true)) ∧
    (∃ (s : State) (n : Nat) (b : List Byte) (x : FuseStream) (y : FuseStream) (f : FuseFrame) (c : Chip), (s.chip.stream? n = some x) ∧ (x.kind = 1) ∧ (x.u 178 2 + x.width * x.pointBytes ≤ b.length) ∧ (x.u 176 2 + 8 ≤ b.length) ∧ (s.chip.openSweep n x (s.chip.sweepEdge x (x.packetValidity b)) = c) ∧ (c.stream? n = some y) ∧ (y.frames.find? (fun f => f.edge == s.chip.sweepEdge x (x.packetValidity b)) = some f) ∧ (f.ended = true)) :=
  ⟨⟨tState (tCfl tOpenP tCam), 3, 1, tCam, _, ⟨rfl, by decide, by decide, by decide⟩⟩,
    ⟨tState (tCfl tOpenP tCam), 3, 2, [], tCam, _, ⟨rfl, by decide, by decide, by decide⟩⟩,
    ⟨tState (tCfl tOpenP tCam), 3, 1, [1, 2, 3, 4], tCam, { edge := 0, validity := 10, buf := 0 }, _, ⟨rfl, by decide, by decide, by decide, by decide, by decide, by decide, by decide⟩⟩,
    ⟨tState (tCfl tOpenP tCam), 3, tCam, { edge := 0, validity := 10, buf := 0 }, by decide⟩,
    ⟨tState (tCfl tOpenP { tCam with frames := [{ edge := 0, validity := 10, buf := 0, cut := true }] }), 3, { tCam with frames := [{ edge := 0, validity := 10, buf := 0, cut := true }] }, { edge := 0, validity := 10, buf := 0, cut := true }, by decide⟩,
    ⟨tState (tCfl tOpenP tLidar), 3, [], tLidar, by decide⟩,
    ⟨tState (tCfl tOpenP tLidar), 3, List.replicate 40 0, tLidar, _, _, _, ⟨by decide, by decide, by decide, by decide, rfl, rfl, rfl, by decide, by decide⟩⟩,
    ⟨tState (tCfl tOpenP { tLidar with frames := tLidar.frames.map (fun f => { f with ended := true }) }), 3, List.replicate 40 0, { tLidar with frames := tLidar.frames.map (fun f => { f with ended := true }) }, _, _, _, ⟨by decide, by decide, by decide, by decide, rfl, rfl, rfl, by decide⟩⟩⟩

/-- States and operands that meet the hypotheses of SensorDataIsTaken, part 2 of 2. -/
theorem test_SensorDataIsTaken_meets_2 :
    (∃ (s : State) (n : Nat) (b : List Byte) (x : FuseStream) (y : FuseStream) (c : Chip), (s.chip.stream? n = some x) ∧ (x.kind = 1) ∧ (x.u 178 2 + x.width * x.pointBytes ≤ b.length) ∧ (x.u 176 2 + 8 ≤ b.length) ∧ (s.chip.openSweep n x (s.chip.sweepEdge x (x.packetValidity b)) = c) ∧ (c.stream? n = some y) ∧ (y.frames.find? (fun f => f.edge == s.chip.sweepEdge x (x.packetValidity b)) = none)) ∧
    (∃ (s : State) (n : Nat) (x : FuseStream) (f : FuseFrame) (c : Chip), (s.chip.freeFrame n = c) ∧ (c.stream? n = some x) ∧ (c.dueSample x = some f) ∧ (x.kind = 2) ∧ (f.cut = false)) ∧
    (∃ (s : State) (n : Nat) (x : FuseStream) (f : FuseFrame) (c : Chip), (s.chip.freeFrame n = c) ∧ (c.stream? n = some x) ∧ (c.dueSample x = some f) ∧ (x.kind = 2) ∧ (f.cut = true)) :=
  ⟨⟨tState ({ tCfl tOpenP { tLidar with opened := 1, frames := [] } with now := 900 }), 3, List.replicate 40 0, { tLidar with opened := 1, frames := [] }, _, _, ⟨by decide, by decide, by decide, by decide, rfl, rfl, by decide⟩⟩,
    ⟨tState (tCfl tOpenP tImu), 3, tImu, { edge := 0, validity := 10, buf := 0 }, _, ⟨rfl, by decide, by decide, by decide, by decide⟩⟩,
    ⟨tState (tCfl tOpenP { tImu with frames := tImu.frames.map (fun f => { f with cut := true }) }), 3, { tImu with frames := tImu.frames.map (fun f => { f with cut := true }) }, _, _, ⟨rfl, by decide, rfl, by decide, by decide⟩⟩⟩

/-- States and operands that meet the hypotheses of FusionLevelsCycleAndRevise, part 1 of 2. -/
theorem test_FusionLevelsCycleAndRevise_meets_1 :
    (∃ (s : State) (i : Nat) (g : Grid) (a : Contrib) (ps : List (Contrib × Pose)) (q : Contrib × Pose) (c : Chip), (AMap.get? s.chip.cfl.grids i = some g) ∧ (s.chip.gridAnchor i g = some a) ∧ (s.chip.alignInputs (g.u 68 1) (cycleInputs a (s.chip.gridWaiting i)) = (some ps, c)) ∧ (ps.getLast? = some q)) ∧
    (∃ (s : State) (i : Nat) (g : Grid), (AMap.get? s.chip.cfl.grids i = some g) ∧ (s.chip.gridAnchor i g = none)) ∧
    (∃ (s : State) (t : Tracker) (a : Contrib) (ps : List (Contrib × Pose)) (q : Contrib × Pose) (c : Chip), (s.chip.cfl.tracker = some t) ∧ (s.chip.trackAnchor t = some a) ∧ (s.chip.alignInputs (t.u 49 1) (cycleInputs a s.chip.trackWaiting) = (some ps, c)) ∧ (ps.getLast? = some q)) ∧
    (∃ (s : State) (t : Tracker), (s.chip.cfl.tracker = some t) ∧ (s.chip.trackAnchor t = none)) ∧
    (∃ (s : State) (n : Nat) (x : FuseStream) (f : FuseFrame) (v : Nat) (r : Nat) (fl : Nat) (q : Nat) (c : Chip), (n < 64) ∧ (s.chip.stream? n = some x) ∧ (x.frames.find? (fun f => f.cut && f.ended) = some f) ∧ (x.last = some (v, r)) ∧ (timeBefore f.validity v = false) ∧ (r < 255) ∧ (s.chip.depthPlane n x f = (some (fl, q), c))) ∧
    (∃ (s : State) (n : Nat) (x : FuseStream) (f : FuseFrame) (v : Nat) (r : Nat), (n < 64) ∧ (s.chip.stream? n = some x) ∧ (x.frames.find? (fun f => f.cut && f.ended) = some f) ∧ (x.last = some (v, r)) ∧ (timeBefore f.validity v = true)) ∧
    (∃ (s : State) (n : Nat) (x : FuseStream) (f : FuseFrame) (v : Nat) (r : Nat), (n < 64) ∧ (s.chip.stream? n = some x) ∧ (x.frames.find? (fun f => f.cut && f.ended) = some f) ∧ (x.last = some (v, r)) ∧ (timeBefore f.validity v = false) ∧ (255 ≤ r)) ∧
    (∃ (s : State) (i : Nat) (g : Grid) (k : Contrib) (cause : Nat), (i < 4) ∧ (AMap.get? s.chip.cfl.grids i = some g) ∧ (s.chip.cfl.late.find? (s.chip.feedsGrid i) = some k) ∧ (g.cycle.stops k = some cause)) :=
  ⟨⟨tState (tLevel), 0, tGrid, tContrib false, [(tContrib false, tPose)], (tContrib false, tPose), _, ⟨by decide, by decide, rfl, by decide⟩⟩,
    ⟨tState ({ tLevel with cfl := { tLevel.cfl with waiting := [] } }), 0, tGrid, by decide⟩,
    ⟨tState (tLevel), tTracker, tContrib true, [(tContrib true, tPose)], (tContrib true, tPose), _, ⟨by decide, by decide, rfl, by decide⟩⟩,
    ⟨tState ({ tLevel with cfl := { tLevel.cfl with waiting := [] } }), tTracker, by decide⟩,
    ⟨tState (tCfl tOpenP (tCutCam (some (10, 0)))), 3, tCutCam (some (10, 0)), { edge := 0, validity := 10, buf := 0, cut := true, ended := true }, 10, 0, 0, 0, _, ⟨by decide, by decide, by decide, by decide, by decide, by decide, rfl⟩⟩,
    ⟨tState (tCfl tOpenP (tCutCam (some (11, 0)))), 3, tCutCam (some (11, 0)), { edge := 0, validity := 10, buf := 0, cut := true, ended := true }, 11, 0, by decide⟩,
    ⟨tState (tCfl tOpenP (tCutCam (some (10, 255)))), 3, tCutCam (some (10, 255)), { edge := 0, validity := 10, buf := 0, cut := true, ended := true }, 10, 255, by decide⟩,
    ⟨tState (tStale), 0, { tGrid with cycle := { v := some 9, before := some 7 } }, tContrib false, 1, by decide⟩⟩

/-- States and operands that meet the hypotheses of FusionLevelsCycleAndRevise, part 2 of 2. -/
theorem test_FusionLevelsCycleAndRevise_meets_2 :
    (∃ (s : State) (i : Nat) (g : Grid) (k : Contrib) (v : Nat) (p : Pose) (pv : Pose) (c1 : Chip) (c2 : Chip), (i < 4) ∧ (AMap.get? s.chip.cfl.grids i = some g) ∧ (s.chip.cfl.late.find? (s.chip.feedsGrid i) = some k) ∧ (g.cycle.stops k = none) ∧ (g.cycle.v = some v) ∧ ((s.chip.lateTaken k).contribPose (g.u 68 1) k = (some p, c1)) ∧ (c1.alignAt (g.u 68 1) v true = (some pv, c2))) ∧
    (∃ (s : State) (t : Tracker) (k : Contrib) (cause : Nat), (s.chip.cfl.tracker = some t) ∧ (s.chip.cfl.late.find? (·.l2) = some k) ∧ (t.cycle.stops k = some cause)) ∧
    (∃ (s : State) (t : Tracker) (k : Contrib) (a : Contrib) (v : Nat) (ps : List (Contrib × Pose)) (q : Contrib × Pose) (c : Chip), (s.chip.cfl.tracker = some t) ∧ (s.chip.cfl.late.find? (·.l2) = some k) ∧ (t.cycle.stops k = none) ∧ (t.cycle.v = some v) ∧ (t.cycle.inputs.getLast? = some a) ∧ ((s.chip.lateTaken k).alignInputs (t.u 49 1) (cycleInputs a (k :: t.cycle.inputs.dropLast)) = (some ps, c)) ∧ (ps.getLast? = some q)) :=
  ⟨⟨tState (tLateG), 0, { tGrid with cycle := { v := some 9, inputs := [tContrib false] } }, tContrib false, 9, tPose, _, _, _, ⟨by decide, by decide, by decide, by decide, by decide, rfl, rfl⟩⟩,
    ⟨tState (tStale), { tTracker with cycle := { v := some 9, before := some 7 } }, tContrib true, 1, by decide⟩,
    ⟨tState (tLateG), { tTracker with cycle := { v := some 9, inputs := [tContrib true] } }, tContrib true, tContrib true, 9, [(tContrib true, tPose)], (tContrib true, tPose), _, ⟨by decide, by decide, by decide, by decide, by decide, rfl, by decide⟩⟩⟩

/-- States and operands that meet the hypotheses of AcousticLoopLoadsAndSteps, part 1 of 3. -/
theorem test_AcousticLoopLoadsAndSteps_meets_1 :
    (∃ (s : State) (tag : Nat), (s.chip.aleTag tag = true)) ∧
    (∃ (s : State) (tag : Nat), (s.chip.aleTag tag = false)) ∧
    (∃ (s : State) (tag : Nat), (s.chip.aleTag tag = true)) ∧
    (∃ (s : State) (tag : Nat), (s.chip.aleTag tag = false)) ∧
    (∃ (s : State) (tag : Nat) (n : Nat), (s.chip.aleTag tag = true) ∧ (n < 4) ∧ (s.chip.flag ALE_CTRL ALE_CTRL.EN = false)) ∧
    (∃ (s : State) (tag : Nat), (s.chip.aleTag tag = false ∨ s.chip.flag ALE_CTRL ALE_CTRL.EN = true)) ∧
    (∃ (s : State) (tag : Nat) (v : W64), (s.chip.aleTag tag = true) ∧ (bitOf v.toNat 0 = true) ∧ ((s.chip.setFld ALE_LOAD ALE_LOAD.ADDR (bitsOf v.toNat 47 6)).flag ALE_STATUS ALE_STATUS.LOAD_BUSY = true)) ∧
    (∃ (s : State) (tag : Nat) (v : W64) (p : List Byte) (b : List Byte) (c1 : Chip) (c2 : Chip), (s.chip.aleTag tag = true) ∧ (bitOf v.toNat 0 = true) ∧ ((s.chip.setFld ALE_LOAD ALE_LOAD.ADDR (bitsOf v.toNat 47 6)).flag ALE_STATUS ALE_STATUS.LOAD_BUSY = false) ∧ (((s.chip.setFld ALE_LOAD ALE_LOAD.ADDR (bitsOf v.toNat 47 6)).aleErr 0).loadRange aleMaster ((s.chip.setFld ALE_LOAD ALE_LOAD.ADDR (bitsOf v.toNat 47 6)).aleErr 0).aleSlice (bitsOf v.toNat 47 6 * 64) 256 = (.ok, p, c1)) ∧ (c1.aleCheck p = none) ∧ (c1.loadRange aleMaster c1.aleSlice ((bitsOf v.toNat 47 6 * 64) + 256) (apBytes p - 256) = (.ok, b, c2))) :=
  ⟨⟨tState {}, 0, by decide⟩,
    ⟨tState {}, 1, by decide⟩,
    ⟨tState {}, 0, by decide⟩,
    ⟨tState {}, 1, by decide⟩,
    ⟨tState {}, 0, 3, by decide⟩,
    ⟨tState {}, 1, by decide⟩,
    ⟨tState (Chip.setFld ({}) ALE_STATUS ALE_STATUS.LOAD_BUSY 1), 0, 1, by decide⟩,
    ⟨tState (tSound tAle), 1, 0x100001, tAle, _, _, _, ⟨by decide, by decide, by decide, rfl, by decide, rfl⟩⟩⟩

/-- States and operands that meet the hypotheses of AcousticLoopLoadsAndSteps, part 2 of 3. -/
theorem test_AcousticLoopLoadsAndSteps_meets_2 :
    (∃ (s : State) (tag : Nat) (v : W64) (p : List Byte) (c1 : Chip) (e : Nat), (s.chip.aleTag tag = true) ∧ (bitOf v.toNat 0 = true) ∧ ((s.chip.setFld ALE_LOAD ALE_LOAD.ADDR (bitsOf v.toNat 47 6)).flag ALE_STATUS ALE_STATUS.LOAD_BUSY = false) ∧ (((s.chip.setFld ALE_LOAD ALE_LOAD.ADDR (bitsOf v.toNat 47 6)).aleErr 0).loadRange aleMaster ((s.chip.setFld ALE_LOAD ALE_LOAD.ADDR (bitsOf v.toNat 47 6)).aleErr 0).aleSlice (bitsOf v.toNat 47 6 * 64) 256 = (.ok, p, c1)) ∧ (c1.aleCheck p = some e)) ∧
    (∃ (s : State) (tag : Nat) (v : W64) (o : Served) (p : List Byte) (c1 : Chip), (s.chip.aleTag tag = true) ∧ (bitOf v.toNat 0 = true) ∧ ((s.chip.setFld ALE_LOAD ALE_LOAD.ADDR (bitsOf v.toNat 47 6)).flag ALE_STATUS ALE_STATUS.LOAD_BUSY = false) ∧ (o ≠ .ok) ∧ (((s.chip.setFld ALE_LOAD ALE_LOAD.ADDR (bitsOf v.toNat 47 6)).aleErr 0).loadRange aleMaster ((s.chip.setFld ALE_LOAD ALE_LOAD.ADDR (bitsOf v.toNat 47 6)).aleErr 0).aleSlice (bitsOf v.toNat 47 6 * 64) 256 = (o, p, c1))) ∧
    (∃ (s : State) (k : AleLoad), (s.chip.ale.bank = some k) ∧ (frameOf s.chip.now ≠ k.frame)) ∧
    (∃ (s : State) (k : AleLoad), (s.chip.ale.bank = some k) ∧ (frameOf s.chip.now = k.frame)) ∧
    (∃ (s : State) (c : Chip), (s.chip.power.mode = PartMode.active) ∧ (s.chip.stepDue = true) ∧ (s.chip.atFrame (frameOf s.chip.now) = c) ∧ (c.aleOff = false) ∧ (c.flag ALE_CTRL ALE_CTRL.EN = true) ∧ (c.fld ALE_STATUS ALE_STATUS.STATE ≠ 1)) ∧
    (∃ (s : State) (c : Chip), (s.chip.power.mode = PartMode.active) ∧ (s.chip.stepDue = true) ∧ (s.chip.atFrame (frameOf s.chip.now) = c) ∧ (c.aleOff = false) ∧ (c.flag ALE_CTRL ALE_CTRL.EN = true) ∧ (c.fld ALE_STATUS ALE_STATUS.STATE = 1)) ∧
    (∃ (s : State) (c : Chip), (s.chip.power.mode = PartMode.active) ∧ (s.chip.stepDue = true) ∧ (s.chip.atFrame (frameOf s.chip.now) = c) ∧ (c.aleOff = false) ∧ (c.flag ALE_CTRL ALE_CTRL.EN = false) ∧ (c.fld ALE_STATUS ALE_STATUS.STATE ≠ 0)) ∧
    (∃ (s : State) (c : Chip), (s.chip.power.mode = PartMode.active) ∧ (s.chip.stepDue = true) ∧ (s.chip.atFrame (frameOf s.chip.now) = c) ∧ (c.aleOff = true) ∧ (c.fld ALE_STATUS ALE_STATUS.STATE ≠ 2)) :=
  ⟨⟨tState (tSound []), 1, 0x100001, _, _, 4, ⟨by decide, by decide, by decide, rfl, by decide⟩⟩,
    ⟨tState {}, 0, 0x100001, _, _, _, ⟨by decide, by decide, by decide, by decide, tPair _⟩⟩,
    ⟨tState ({ now := 1000000000, ale := { bank := some (aleBank tAle [] 0) } }), aleBank tAle [] 0, by decide⟩,
    ⟨tState ({ ale := { bank := some (aleBank tAle [] 0) } }), aleBank tAle [] 0, by decide⟩,
    ⟨tState (tSoundOn (Chip.setFld ({}) ALE_CTRL ALE_CTRL.EN 1)), _, ⟨by decide, by decide, rfl, by decide, by decide, by decide⟩⟩,
    ⟨tState (tSoundOn (Chip.setFld (Chip.setFld ({}) ALE_CTRL ALE_CTRL.EN 1) ALE_STATUS ALE_STATUS.STATE 1)), _, ⟨by decide, by decide, rfl, by decide, by decide, by decide⟩⟩,
    ⟨tState (tSoundOn (Chip.setFld ({}) ALE_STATUS ALE_STATUS.STATE 1)), _, ⟨by decide, by decide, rfl, by decide, by decide, by decide⟩⟩,
    ⟨tState ({ tSoundOn {} with power := { mode := .active, leaving := some tLeave } }), _, ⟨by decide, by decide, rfl, by decide, by decide⟩⟩⟩

/-- States and operands that meet the hypotheses of AcousticLoopLoadsAndSteps, part 3 of 3. -/
theorem test_AcousticLoopLoadsAndSteps_meets_3 :
    (∃ (s : State) (c : Chip), (s.chip.power.mode = PartMode.active) ∧ (s.chip.stepDue = true) ∧ (s.chip.atFrame (frameOf s.chip.now) = c) ∧ (c.aleOff = true) ∧ (c.fld ALE_STATUS ALE_STATUS.STATE = 2)) ∧
    (∃ (s : State), (s.chip.power.mode ≠ PartMode.active ∨ s.chip.stepDue = false)) ∧
    (∃ (s : State) (f : Nat), (s.chip.ale.diverged = some f) ∧ (frameOf s.chip.now ≠ f) ∧ (s.chip.ale.bank = none)) ∧
    (∃ (s : State) (f : Nat), (s.chip.ale.diverged = some f) ∧ (frameOf s.chip.now = f ∨ s.chip.ale.bank.isSome = true)) ∧
    (∃ (b : Nat) (r : Nat) (k : Nat), (b = 24 ∨ b = 32) ∧ (r = 48000) ∧ (0 < k) ∧ (k ≤ 8)) ∧
    (∃ (b : Nat) (r : Nat) (k : Nat), ((b ≠ 24 ∧ b ≠ 32) ∨ r ≠ 48000 ∨ k = 0 ∨ 8 < k)) ∧
    (∃ (s : State) (sid : W64), (s.chip.listeners sid.toNat = [])) :=
  ⟨⟨tState ({ tSoundOn (Chip.setFld ({}) ALE_STATUS ALE_STATUS.STATE 2) with power := { mode := .active, leaving := some tLeave } }), _, ⟨by decide, by decide, rfl, by decide, by decide⟩⟩,
    ⟨tState (tSoundOn { ale := { frame := some 0 } }), by decide⟩,
    ⟨tState ({ now := 1000000000, ale := { diverged := some 0 } }), 0, by decide⟩,
    ⟨tState ({ ale := { diverged := some 0 } }), 0, by decide⟩,
    ⟨24, 48000, 1, by decide⟩,
    ⟨16, 48000, 1, by decide⟩,
    ⟨tState {}, 0, by decide⟩⟩

/-- States and operands that meet the hypotheses of AcousticRingsMove, part 1 of 2. -/
theorem test_AcousticRingsMove_meets_1 :
    (∃ (s : State) (tag : Nat) (n : Nat) (v : W64), (s.chip.aleTag tag = true) ∧ (n < 8) ∧ (bitOf v.toNat 0 = false)) ∧
    (∃ (s : State) (tag : Nat) (n : Nat) (v : W64) (b : List Byte) (c : Chip), (s.chip.aleTag tag = true) ∧ (n < 8) ∧ (s.chip.flag (ALE_RING_DESC n) ALE_RING_DESC.EN = false) ∧ (bitOf v.toNat 0 = true) ∧ ((s.chip.setFld (ALE_RING_DESC n) ALE_RING_DESC.ADDR (bitsOf v.toNat 47 6)).loadRange aleMaster (s.chip.setFld (ALE_RING_DESC n) ALE_RING_DESC.ADDR (bitsOf v.toNat 47 6)).aleSlice (bitsOf v.toNat 47 6 * 64) 64 = (.ok, b, c)) ∧ (c.ringDescOk b = true)) ∧
    (∃ (s : State) (tag : Nat) (n : Nat) (v : W64) (b : List Byte) (c : Chip), (s.chip.aleTag tag = true) ∧ (n < 8) ∧ (s.chip.flag (ALE_RING_DESC n) ALE_RING_DESC.EN = false) ∧ (bitOf v.toNat 0 = true) ∧ ((s.chip.setFld (ALE_RING_DESC n) ALE_RING_DESC.ADDR (bitsOf v.toNat 47 6)).loadRange aleMaster (s.chip.setFld (ALE_RING_DESC n) ALE_RING_DESC.ADDR (bitsOf v.toNat 47 6)).aleSlice (bitsOf v.toNat 47 6 * 64) 64 = (.ok, b, c)) ∧ (c.ringDescOk b = false)) ∧
    (∃ (s : State) (tag : Nat) (n : Nat) (v : W64) (o : Served) (b : List Byte) (c : Chip), (s.chip.aleTag tag = true) ∧ (n < 8) ∧ (s.chip.flag (ALE_RING_DESC n) ALE_RING_DESC.EN = false) ∧ (bitOf v.toNat 0 = true) ∧ (o ≠ .ok) ∧ ((s.chip.setFld (ALE_RING_DESC n) ALE_RING_DESC.ADDR (bitsOf v.toNat 47 6)).loadRange aleMaster (s.chip.setFld (ALE_RING_DESC n) ALE_RING_DESC.ADDR (bitsOf v.toNat 47 6)).aleSlice (bitsOf v.toNat 47 6 * 64) 64 = (o, b, c))) ∧
    (∃ (s : State) (n : Nat) (r : AleRing), (AMap.get? s.chip.ale.rings n = some r) ∧ (s.chip.blockDone r = true)) ∧
    (∃ (s : State) (n : Nat) (r : AleRing), (AMap.get? s.chip.ale.rings n = some r) ∧ (s.chip.blockDone r = false)) ∧
    (∃ (s : State) (n : Nat) (r : AleRing) (b : List Byte) (c : Chip), (AMap.get? s.chip.ale.rings n = some r) ∧ (arPlay r = true) ∧ (r.fetched = none) ∧ (r.block + 1 ≤ syncCount (s.chip.sync (arU r 12 2))) ∧ (s.chip.loadRange aleMaster s.chip.aleSlice (arBuf r r.block) (arBlockBytes r) = (.ok, b, c))) ∧
    (∃ (s : State) (n : Nat) (r : AleRing), (AMap.get? s.chip.ale.rings n = some r) ∧ (arPlay r = true) ∧ (s.chip.arFrame r r.block ≤ frameOf s.chip.now)) :=
  ⟨⟨tState {}, 0, 1, 0, by decide⟩,
    ⟨tState (tSound (tRingD false)), 1, 0, 0x100001, _, _, ⟨by decide, by decide, by decide, by decide, rfl, by decide⟩⟩,
    ⟨tState (tSound []), 1, 0, 0x100001, _, _, ⟨by decide, by decide, by decide, by decide, rfl, by decide⟩⟩,
    ⟨tState {}, 0, 0, 0x100001, _, _, _, ⟨by decide, by decide, by decide, by decide, by decide, tPair _⟩⟩,
    ⟨tState (tRings { tRing false with marks := List.replicate 48 { frame := 9, missing := false, diverged := false, quality := 0 } }), 0, { tRing false with marks := List.replicate 48 { frame := 9, missing := false, diverged := false, quality := 0 } }, by decide⟩,
    ⟨tState (tRings (tRing false)), 0, tRing false, by decide⟩,
    ⟨tState ({ tRings (tRing true) with syncs := [(1, 1)] }), 0, tRing true, _, _, ⟨by decide, by decide, by decide, by decide, rfl⟩⟩,
    ⟨tState (tRings (tRing true)), 0, tRing true, by decide⟩⟩

/-- States and operands that meet the hypotheses of AcousticRingsMove, part 2 of 2. -/
theorem test_AcousticRingsMove_meets_2 :
    (∃ (s : State), (s.chip.ale.params.isEmpty = false) ∧ (apU s.chip.ale.params 152 4 ≤ s.chip.ale.statSteps)) ∧
    (∃ (s : State), (s.chip.ale.params.isEmpty = true ∨ s.chip.ale.statSteps < apU s.chip.ale.params 152 4)) :=
  ⟨⟨tState ({ ale := { params := tAle, statSteps := 480 } }), by decide⟩,
    ⟨tState {}, by decide⟩⟩

/-- States and operands that meet the hypotheses of PassesRunThroughFondant, part 1 of 2. -/
theorem test_PassesRunThroughFondant_meets_1 :
    (∃ (s : State) (q : Packet) (c1 : Chip), (s.chip.startedAs q 0x400) ∧ ((q.pass s.chip.gfx.started).fieldsStatus = none) ∧ (s.chip.passLists (q.pass s.chip.gfx.started) = (none, c1))) ∧
    (∃ (s : State) (q : Packet) (st : Nat), (s.chip.startedAs q 0x400) ∧ ((q.pass s.chip.gfx.started).fieldsStatus = some st)) ∧
    (∃ (s : State) (q : Packet) (st : Nat) (c1 : Chip), (s.chip.startedAs q 0x400) ∧ ((q.pass s.chip.gfx.started).fieldsStatus = none) ∧ (s.chip.passLists (q.pass s.chip.gfx.started) = (some st, c1))) ∧
    (∃ (s : State) (p : Pass), (s.chip.pass? p.id = some p) ∧ (s.chip.passTurn p = true)) ∧
    (∃ (s : State) (p : Pass), (s.chip.pass? p.id = some p) ∧ (s.chip.passTurn p = false)) ∧
    (∃ (s : State) (p : Pass) (fr : List FragWord) (c1 : Chip), (s.chip.pass? p.id = some p) ∧ (p.phase = .geometry) ∧ (p.rest.isEmpty = false) ∧ (s.chip.gfx.rendering = none) ∧ (s.chip.renderTiles p true (fr.map p.fragOf) (List.range p.tileCount) = (0, c1))) ∧
    (∃ (s : State) (p : Pass) (o : Nat) (fr : List FragWord) (c1 : Chip), (s.chip.pass? p.id = some p) ∧ (p.phase = .geometry) ∧ (p.rest.isEmpty = false) ∧ (s.chip.gfx.rendering = none) ∧ (o ≠ 0) ∧ (s.chip.renderTiles p true (fr.map p.fragOf) (List.range p.tileCount) = (o, c1))) ∧
    (∃ (s : State) (p : Pass) (fr : List FragWord) (c1 : Chip), (s.chip.pass? p.id = some p) ∧ (p.phase = .render) ∧ (s.chip.gfx.rendering = some p.id) ∧ (s.chip.renderTiles p false (fr.map p.fragOf) (List.range p.tileCount) = (0, c1))) :=
  ⟨⟨tState (tGfxC tGfx), tGfx, _, ⟨by decide, by decide, rfl⟩⟩,
    ⟨tState (tGfxC (tPacket 1 0x400 4 [])), tPacket 1 0x400 4 [], stBadParam, by decide⟩,
    ⟨tState ({ tGfxC tGfx with owners := [] }), tGfx, stNotOwner, _, ⟨by decide, by decide, rfl⟩⟩,
    ⟨tState (tPasses [tPass] none), tPass, by decide⟩,
    ⟨tState (tPasses [tPassR] none), tPassR, by decide⟩,
    ⟨tState (tPasses [{ tPass with phase := .geometry, rest := [([0], 0, [])] }] none), { tPass with phase := .geometry, rest := [([0], 0, [])] }, [], _, ⟨by decide, by decide, by decide, by decide, rfl⟩⟩,
    ⟨tState (tPasses [tFlushBad] none), tFlushBad, 2, tFragBad, _, ⟨by decide, by decide, by decide, by decide, by decide, Prod.ext (by decide) rfl⟩⟩,
    ⟨tState (tPasses [tPassR] (some 0)), tPassR, [], _, ⟨by decide, by decide, by decide, rfl⟩⟩⟩

/-- States and operands that meet the hypotheses of PassesRunThroughFondant, part 2 of 2. -/
theorem test_PassesRunThroughFondant_meets_2 :
    (∃ (s : State) (p : Pass) (k : Nat) (l : List Nat) (fr : List FragWord) (c1 : Chip), (s.chip.pass? p.id = some p) ∧ (k = 1 ∨ k = 2 ∨ k = 4 ∨ k = 5) ∧ (p.phase = .render) ∧ (s.chip.gfx.rendering = some p.id) ∧ (s.chip.renderTiles p false (fr.map p.fragOf) (l.filter (fun t => decide (t < p.tileCount))) = (0, c1))) ∧
    (∃ (s : State) (p : Pass) (k : Nat) (e : Nat) (l : List Nat) (fr : List FragWord) (c1 : Chip), (s.chip.pass? p.id = some p) ∧ (k = 0 ∨ k = 1 ∨ k = 2 ∨ k = 4 ∨ k = 5) ∧ (p.phase = .render) ∧ (s.chip.gfx.rendering = some p.id) ∧ (e ≠ 0) ∧ (s.chip.renderTiles p false (fr.map p.fragOf) (if k = 0 then List.range p.tileCount else l.filter (fun t => decide (t < p.tileCount))) = (e, c1))) ∧
    (∃ (s : State) (p : Pass) (x : Pass), (s.chip.pass? p.id = some p) ∧ (s.chip.gfx.rendering.bind s.chip.pass? = some x) ∧ (s.chip.mayTake p x = true)) ∧
    (∃ (s : State) (p : Pass) (l : List Nat) (fr : List FragWord) (c1 : Chip), (s.chip.pass? p.id = some p) ∧ (s.chip.gfx.rendering = some p.id) ∧ (s.chip.reg GFX_HANG_LIMIT ≠ 0) ∧ (s.chip.renderTiles p false (fr.map p.fragOf) (l.filter (fun t => decide (t < p.tileCount))) = (0, c1))) ∧
    (∃ (s : State) (p : Pass), (s.chip.pass? p.id = some p) ∧ (s.chip.reg GFX_HANG_LIMIT = 0)) :=
  ⟨⟨tState (tPasses [tPassR] (some 0)), tPassR, 1, [], [], _, ⟨by decide, by decide, by decide, by decide, rfl⟩⟩,
    ⟨tState (tPasses [{ tFlushBad with phase := .render }] (some 0)), { tFlushBad with phase := .render }, 0, 2, [], tFragBad, _, ⟨by decide, by decide, by decide, by decide, by decide, Prod.ext (by decide) rfl⟩⟩,
    ⟨tState (tPasses [tPassR, tPassB] (some 1)), tPassR, tPassB, by decide⟩,
    ⟨tState ((tPasses [tPassR] (some 0)).setReg GFX_HANG_LIMIT 5), tPassR, [], [], _, ⟨by decide, by decide, by decide, rfl⟩⟩,
    ⟨tState ((tPasses [tPassR] (some 0)).setReg GFX_HANG_LIMIT 0), tPassR, by decide⟩⟩

/-- States and operands that meet the hypotheses of DisplayPipesScan, part 1 of 2. -/
theorem test_DisplayPipesScan_meets_1 :
    (∃ (s : State) (tag : Nat) (n : Nat) (v : W32), (s.chip.dspTag tag = true) ∧ (n < 4) ∧ (bitOf v.toNat 0 = true) ∧ (((s.chip.setReg (DSP_PIPE_CTRL n) (v.toNat % 4)).pipe n).scanning = false)) ∧
    (∃ (s : State) (tag : Nat) (n : Nat) (v : W32), (s.chip.dspTag tag = true) ∧ (n < 4) ∧ (bitOf v.toNat 0 = false)) ∧
    (∃ (s : State) (tag : Nat), (s.chip.dspTag tag = false)) ∧
    (∃ (s : State) (tag : Nat) (n : Nat) (v : W32), (s.chip.dspTag tag = true) ∧ (n < 4) ∧ (bitOf v.toNat 1 = false) ∧ (bitOf v.toNat 0 = true) ∧ (s.chip.flag (DSP_PIPE_CTRL n) DSP_PIPE_CTRL.EN = false)) ∧
    (∃ (s : State) (tag : Nat) (n : Nat) (v : W32), (s.chip.dspTag tag = true) ∧ (n < 4) ∧ (bitOf v.toNat 1 = false) ∧ (bitOf v.toNat 0 = true) ∧ (s.chip.flag (DSP_PIPE_CTRL n) DSP_PIPE_CTRL.EN = true)) ∧
    (∃ (s : State) (tag : Nat) (n : Nat) (v : W32), (s.chip.dspTag tag = true) ∧ (n < 4) ∧ (bitOf v.toNat 1 = true) ∧ (bitOf v.toNat 0 = false)) ∧
    (∃ (s : State) (n : Nat), (n < 4) ∧ (s.chip.flag (DSP_COMMIT n) DSP_COMMIT.GO = true)) ∧
    (∃ (s : State) (n : Nat), (s.chip.flag (DSP_COMMIT n) DSP_COMMIT.GO = false)) :=
  ⟨⟨tState {}, 0, 0, 1, by decide⟩,
    ⟨tState {}, 0, 0, 2, by decide⟩,
    ⟨tState {}, 3, by decide⟩,
    ⟨tState {}, 0, 0, 1, by decide⟩,
    ⟨tState (Chip.setFld {} (DSP_PIPE_CTRL 0) DSP_PIPE_CTRL.EN 1), 0, 0, 1, by decide⟩,
    ⟨tState {}, 0, 0, 2, by decide⟩,
    ⟨tState (Chip.setFld {} (DSP_COMMIT 0) DSP_COMMIT.GO 1), 0, by decide⟩,
    ⟨tState {}, 0, by decide⟩⟩

/-- States and operands that meet the hypotheses of DisplayPipesScan, part 2 of 2. -/
theorem test_DisplayPipesScan_meets_2 :
    (∃ (s : State) (tag : Nat) (n : Nat) (v : W32), (s.chip.dspTag tag = true) ∧ (n < 4) ∧ (s.chip.flag (DSP_PIPE_CTRL n) DSP_PIPE_CTRL.EN = false) ∧ (bitOf v.toNat 0 = true) ∧ (s.chip.flag (DSP_OUT_CFG n) DSP_OUT_CFG.EN = false)) ∧
    (∃ (s : State) (tag : Nat) (n : Nat) (v : W32) (b : Bool), (s.chip.dspTag tag = true) ∧ (n < 4) ∧ (s.chip.flag (DSP_PIPE_CTRL n) DSP_PIPE_CTRL.EN = false) ∧ (bitOf v.toNat 0 = false ∨ s.chip.flag (DSP_OUT_CFG n) DSP_OUT_CFG.EN = true ∨ b = false)) ∧
    (∃ (s : State) (n : Nat), (n < 4) ∧ (s.chip.flag (DSP_OUT_CFG n) DSP_OUT_CFG.EN = true)) ∧
    (∃ (s : State) (n : Nat) (u : Nat) (l : List (Nat × Nat)) (k : List Nat) (c1 : Chip), (n < 4) ∧ ((s.chip.pipe n).scanning = true) ∧ (s.chip.frameLines n l (List.range ((s.chip.pipe n).vTiming % 2 ^ 16)) (List.replicate 16 0xFFFFFFFF) 0 = (k, u, c1))) ∧
    (∃ (s : State) (n : Nat), (n < 4) ∧ ((s.chip.pipe n).scanning = true) ∧ ((s.chip.pipe n).lastEnd + 2 * (s.chip.pipe n).period ≤ s.chip.now)) :=
  ⟨⟨tState {}, 0, 0, 1, by decide⟩,
    ⟨tState {}, 0, 0, 1, false, by decide⟩,
    ⟨tState (Chip.setFld {} (DSP_OUT_CFG 0) DSP_OUT_CFG.EN 1), 0, by decide⟩,
    ⟨tState (Chip.setPipe {} 0 { scanning := true }), 0, _, [], _, _, ⟨by decide, by decide, rfl⟩⟩,
    ⟨tState (Chip.setPipe {} 0 { scanning := true }), 0, by decide⟩⟩

/-- States and operands that meet the hypotheses of SafetyOutputsAreConfigured, part 1 of 2. -/
theorem test_SafetyOutputsAreConfigured_meets_1 :
    (∃ (s : State) (p : Packet), (s.chip.startedAs p 0x500) ∧ (5 < p.u 32 1)) ∧
    (∃ (s : State) (p : Packet) (sl : Slice) (b : List Byte) (c1 : Chip), (s.chip.startedAs p 0x500) ∧ (p.u 32 1 = 0) ∧ (s.chip.outputMay false p = true) ∧ (s.chip.slice? (p.u 34 1) = some sl) ∧ (s.chip.armed? (p.u 33 1) = none) ∧ (s.chip.loadProfile (p.u 48 8) = (.ok, b, c1)) ∧ (profileOk b = true) ∧ (sl.hasSync (p.u 66 2) = true) ∧ (c1.ownsPages (p.u 34 1) (p.u 56 8) (64 * 2 ^ p.u 64 1) = true)) ∧
    (∃ (s : State) (p : Packet) (sl : Slice) (b : List Byte) (c1 : Chip), (s.chip.startedAs p 0x500) ∧ (p.u 32 1 = 0) ∧ (s.chip.outputMay false p = true) ∧ (s.chip.slice? (p.u 34 1) = some sl) ∧ (s.chip.loadProfile (p.u 48 8) = (.denied, b, c1))) ∧
    (∃ (s : State) (p : Packet) (sl : Slice) (b : List Byte) (c1 : Chip), (s.chip.startedAs p 0x500) ∧ (p.u 32 1 = 0) ∧ (s.chip.outputMay false p = true) ∧ (s.chip.slice? (p.u 34 1) = some sl) ∧ (s.chip.loadProfile (p.u 48 8) = (.ok, b, c1)) ∧ (profileOk b = false)) ∧
    (∃ (s : State) (p : Packet) (sl : Slice) (b : List Byte) (c1 : Chip), (s.chip.startedAs p 0x500) ∧ (p.u 32 1 = 0) ∧ (s.chip.outputMay false p = true) ∧ (s.chip.slice? (p.u 34 1) = some sl) ∧ (s.chip.loadProfile (p.u 48 8) = (.ok, b, c1)) ∧ (profileOk b = true) ∧ (sl.hasSync (p.u 66 2) = false ∨ c1.ownsPages (p.u 34 1) (p.u 56 8) (64 * 2 ^ p.u 64 1) = false)) ∧
    (∃ (s : State) (p : Packet), (s.chip.startedAs p 0x500) ∧ (p.u 32 1 = 0) ∧ (s.chip.outputMay false p = false)) ∧
    (∃ (s : State) (p : Packet) (o : Output), (s.chip.startedAs p 0x500) ∧ (p.u 32 1 = 1) ∧ (p.u 33 1 < 32) ∧ (zeroIn p.bytes 34 128 = true) ∧ (s.chip.output? (p.u 33 1) = some o) ∧ (o.armed = true)) ∧
    (∃ (s : State) (p : Packet) (o : Output), (s.chip.startedAs p 0x500) ∧ (p.u 32 1 = 1) ∧ (p.u 33 1 < 32) ∧ (zeroIn p.bytes 34 128 = true) ∧ (s.chip.output? (p.u 33 1) = some o) ∧ (o.armed = false)) :=
  ⟨⟨tState (tIsland (tSafeP [6])), tSafeP [6], by decide⟩,
    ⟨tState (tIsland tOutP), tOutP, { tSlice with tiles := [0, 1] }, _, _, ⟨by decide, by decide, by decide, by decide, by decide, Prod.ext (by decide) rfl, by decide, by decide, by decide⟩⟩,
    ⟨tState ({ tIsland tOutP with regs := [] }), tOutP, { tSlice with tiles := [0, 1] }, _, _, ⟨by decide, by decide, by decide, by decide, Prod.ext (by decide) rfl⟩⟩,
    ⟨tState ({ tIsland tOutP with mem := [] }), tOutP, { tSlice with tiles := [0, 1] }, _, _, ⟨by decide, by decide, by decide, by decide, Prod.ext (by decide) rfl, by decide⟩⟩,
    ⟨tState ({ tIsland tOutP with slices := [(0, { tSlice with syncCount := 0 }), (1, { tSlice with syncCount := 0 })] }), tOutP, { tSlice with syncCount := 0 }, _, _, ⟨by decide, by decide, by decide, by decide, Prod.ext (by decide) rfl, by decide, by decide⟩⟩,
    ⟨tState (tIsland (tSafeP [0])), tSafeP [0], by decide⟩,
    ⟨tState ({ tOut 1 with packets := [tSafeP [1]] }), tSafeP [1], tOutput 1, by decide⟩,
    ⟨tState ({ tOut 1 with safe := { outputs := [(1, { tOutput 1 with armed := false })] }, packets := [tSafeP [1, 1]] }), tSafeP [1, 1], { tOutput 1 with armed := false }, by decide⟩⟩

/-- States and operands that meet the hypotheses of SafetyOutputsAreConfigured, part 2 of 2. -/
theorem test_SafetyOutputsAreConfigured_meets_2 :
    (∃ (s : State) (p : Packet), (s.chip.startedAs p 0x500) ∧ (p.u 32 1 = 1) ∧ (p.u 33 1 < 32) ∧ (zeroIn p.bytes 34 128 = true) ∧ (s.chip.output? (p.u 33 1) = none)) ∧
    (∃ (s : State) (p : Packet), (s.chip.startedAs p 0x500) ∧ (p.u 32 1 = 2) ∧ (p.u 33 1 < 4) ∧ (zeroIn p.bytes 34 128 = true)) ∧
    (∃ (s : State) (p : Packet), (s.chip.startedAs p 0x500) ∧ (p.u 32 1 = 3) ∧ (p.u 33 1 < 4) ∧ (zeroIn p.bytes 34 128 = true)) ∧
    (∃ (s : State) (p : Packet), (s.chip.startedAs p 0x500) ∧ (p.u 32 1 = 2) ∧ (4 ≤ p.u 33 1 ∨ zeroIn p.bytes 34 128 = false)) ∧
    (∃ (s : State) (p : Packet), (s.chip.startedAs p 0x500) ∧ (p.u 32 1 = 3) ∧ (4 ≤ p.u 33 1 ∨ zeroIn p.bytes 34 128 = false)) ∧
    (∃ (s : State) (p : Packet), (s.chip.startedAs p 0x500) ∧ (p.u 32 1 = 4) ∧ (p.messageFields = true)) ∧
    (∃ (s : State) (p : Packet), (s.chip.startedAs p 0x500) ∧ (p.u 32 1 = 4) ∧ (p.messageFields = false)) ∧
    (∃ (s : State) (p : Packet), (s.chip.startedAs p 0x500) ∧ (p.u 32 1 = 5) ∧ (p.u 33 1 < 4) ∧ (bitsOf (p.u 34 1) 6 2 = 0) ∧ (p.u 35 1 ≤ 8) ∧ (zeroIn p.bytes 36 128 = true)) :=
  ⟨⟨tState (tIsland (tSafeP [1])), tSafeP [1], by decide⟩,
    ⟨tState (tIsland (tSafeP [2, 1])), tSafeP [2, 1], by decide⟩,
    ⟨tState (tIsland (tSafeP [3, 1])), tSafeP [3, 1], by decide⟩,
    ⟨tState (tIsland (tSafeP [2, 4])), tSafeP [2, 4], by decide⟩,
    ⟨tState (tIsland (tSafeP [3, 4])), tSafeP [3, 4], by decide⟩,
    ⟨tState (tIsland (tSafeP [4])), tSafeP [4], by decide⟩,
    ⟨tState (tIsland (tSafeP [4, 1])), tSafeP [4, 1], by decide⟩,
    ⟨tState (tIsland (tSafeP [5, 0, 130, 3])), tSafeP [5, 0, 130, 3], by decide⟩⟩

/-- States and operands that meet the hypotheses of SafetyJobsAreJudged, part 1 of 2. -/
theorem test_SafetyJobsAreJudged_meets_1 :
    (∃ (s : State) (p : Packet) (ka : Chan) (kb : Chan) (rel : Nat) (c1 : Chip) (c2 : Chip), (s.chip.startedAs p 0x211) ∧ (p.diverseBad = false) ∧ (s.chip.checkChan p.slice p.cls (p.u 32 2) (p.u 34 1) (p.u 48 8) (p.u 46 2) = (.ok ka, c1)) ∧ (c1.releaseTime p (p.u 39 1) (p.u 44 2) (p.u 64 4) (p.u 72 8) = some rel) ∧ (c1.queueDepth (ka.first / 16) < 256) ∧ (c1.checkChan p.slice p.cls (p.u 36 2) (p.u 35 1) (p.u 56 8) (p.u 46 2) = (.ok kb, c2)) ∧ (c2.queueDepth (kb.first / 16) < 256) ∧ (c2.diverseStatus p ka kb = none)) ∧
    (∃ (s : State) (p : Packet), (s.chip.startedAs p 0x211) ∧ (p.diverseBad = true)) ∧
    (∃ (s : State) (id : Nat) (rest : List Nat) (j : Job) (o : Nat) (v : Nat) (n : Nat) (ka : Chan) (kb : Chan) (l : List Chan) (x : Output) (c : Chip) (w : Verdict) (c1 : Chip), (s.chip.weir = id :: rest) ∧ ((s.chip.weirNext rest).job? id = some j) ∧ (j.kind = .diverse o v n) ∧ (j.chans = ka :: kb :: l) ∧ ((s.chip.weirNext rest).output? o = some x) ∧ ((s.chip.weirNext rest).count SAF_WEIR_COMPARES SAF_WEIR_COMPARES.COUNT 1 = c) ∧ (c.weirTensors j.slice ka kb (ka.sat || kb.sat) (x.tensors.zipIdx.map (fun p => (p.2, p.1))) {} = (.ok (), w, c1)) ∧ (w.bad = none)) ∧
    (∃ (s : State) (id : Nat) (rest : List Nat) (j : Job) (o : Nat) (v : Nat) (n : Nat) (ka : Chan) (kb : Chan) (l : List Chan) (x : Output) (c : Chip) (w : Verdict) (t : Nat) (i : Option Nat) (c1 : Chip), (s.chip.weir = id :: rest) ∧ ((s.chip.weirNext rest).job? id = some j) ∧ (j.kind = .diverse o v n) ∧ (j.chans = ka :: kb :: l) ∧ ((s.chip.weirNext rest).output? o = some x) ∧ ((s.chip.weirNext rest).count SAF_WEIR_COMPARES SAF_WEIR_COMPARES.COUNT 1 = c) ∧ (c.weirTensors j.slice ka kb (ka.sat || kb.sat) (x.tensors.zipIdx.map (fun p => (p.2, p.1))) {} = (.ok (), w, c1)) ∧ (w.bad = some (t, i))) ∧
    (∃ (s : State) (id : Nat) (rest : List Nat) (j : Job) (o : Nat) (v : Nat) (n : Nat) (ka : Chan) (kb : Chan) (l : List Chan) (x : Output) (c : Chip) (w : Verdict) (a : Nat) (st : Nat) (c1 : Chip), (s.chip.weir = id :: rest) ∧ ((s.chip.weirNext rest).job? id = some j) ∧ (j.kind = .diverse o v n) ∧ (j.chans = ka :: kb :: l) ∧ ((s.chip.weirNext rest).output? o = some x) ∧ ((s.chip.weirNext rest).count SAF_WEIR_COMPARES SAF_WEIR_COMPARES.COUNT 1 = c) ∧ (c.weirTensors j.slice ka kb (ka.sat || kb.sat) (x.tensors.zipIdx.map (fun p => (p.2, p.1))) {} = (.error (a, st), w, c1))) ∧
    (∃ (s : State), (s.chip.weir = [])) ∧
    (∃ (s : State) (i : Nat) (o : Output), (s.chip.output? i = some o) ∧ (s.chip.watching o = true) ∧ (timeBefore o.deadline s.chip.now = true) ∧ (o.met = true)) ∧
    (∃ (s : State) (i : Nat) (o : Output), (s.chip.output? i = some o) ∧ (s.chip.watching o = true) ∧ (timeBefore o.deadline s.chip.now = true) ∧ (o.met = false)) :=
  ⟨⟨tState (tDiv), tDivP, _, _, _, _, _, ⟨by decide, by decide, rfl, rfl, by decide, rfl, by decide, by decide⟩⟩,
    ⟨tState (tChip (tPacket 1 0x211 2 (List.replicate 7 255))), tPacket 1 0x211 2 (List.replicate 7 255), by decide⟩,
    ⟨tState (tWeir 0), 0, [], tDivJob, 0, 0, 0, { tChan with bindings := [(0x100100, 4)] }, { tChan with bindings := [(0x100140, 4)] }, [], tOutput 0, _, _, _, ⟨by decide, by decide, by decide, by decide, by decide, rfl, rfl, by decide⟩⟩,
    ⟨tState (tWeir 1), 0, [], tDivJob, 0, 0, 0, { tChan with bindings := [(0x100100, 4)] }, { tChan with bindings := [(0x100140, 4)] }, [], tOutput 1, _, { compared := 1, bad := some (0, some 0), violations := 1, first := some 0 }, 0, some 0, _, ⟨by decide, by decide, by decide, by decide, by decide, rfl, rfl, by decide⟩⟩,
    ⟨tState ({ tWeir 1 with regs := [] }), 0, [], tDivJob, 0, 0, 0, { tChan with bindings := [(0x100100, 4)] }, { tChan with bindings := [(0x100140, 4)] }, [], tOutput 1, _, _, _, _, _, ⟨by decide, by decide, by decide, by decide, by decide, rfl, rfl⟩⟩,
    ⟨tState {}, by decide⟩,
    ⟨tState (Chip.setFld { now := 5, safe := { outputs := [(0, { tOutput 1 with met := true })] } } SAF_GROUP_STATE SAF_GROUP_STATE.SAFE 0), 0, { tOutput 1 with met := true }, by decide⟩,
    ⟨tState (Chip.setFld { now := 5, safe := { outputs := [(0, tOutput 1)] } } SAF_GROUP_STATE SAF_GROUP_STATE.SAFE 0), 0, tOutput 1, by decide⟩⟩

/-- States and operands that meet the hypotheses of SafetyJobsAreJudged, part 2 of 2. -/
theorem test_SafetyJobsAreJudged_meets_2 :
    (∃ (s : State) (i : Nat) (o : Output), (s.chip.output? i = some o) ∧ (s.chip.watching o = false ∨ timeBefore o.deadline s.chip.now = false)) ∧
    (∃ (s : State) (f : Nat) (m : MessageCfg), ((List.range 4).find? s.chip.inSafe = some f) ∧ (s.chip.safe.message = some m) ∧ (s.chip.safe.nextRepeat ≤ s.chip.now)) ∧
    (∃ (s : State), ((List.range 4).find? s.chip.inSafe = none ∨ s.chip.safe.message = none)) :=
  ⟨⟨tState ({ safe := { outputs := [(0, tOutput 1)] } }), 0, tOutput 1, by decide⟩,
    ⟨tState (tSafe 1 { safe := { message := some (tSafeP [4]).message } }), 1, (tSafeP [4]).message, by decide⟩,
    ⟨tState {}, by decide⟩⟩

/-- States and operands that meet the hypotheses of GoldenFramesRun, part 1 of 2. -/
theorem test_GoldenFramesRun_meets_1 :
    (∃ (s : State) (p : Packet) (b : List Byte) (c1 : Chip), (s.chip.startedAs p 0x502) ∧ (p.u 33 1 ≤ 2 ∧ p.u 32 1 < 8 ∧ p.u 34 2 < 2 ^ 12 ∧ zeroIn p.bytes 54 64 = true) ∧ (p.u 33 1 = 0) ∧ (s.chip.goldenMay p = true) ∧ (s.chip.loadRange islandMaster 0 (p.u 40 8) 128 = (.ok, b, c1)) ∧ (goldenOk b = true)) ∧
    (∃ (s : State) (p : Packet), (s.chip.startedAs p 0x502) ∧ (p.u 33 1 ≤ 2 ∧ p.u 32 1 < 8 ∧ p.u 34 2 < 2 ^ 12 ∧ zeroIn p.bytes 54 64 = true) ∧ (p.u 33 1 = 0) ∧ (s.chip.goldenMay p = false)) ∧
    (∃ (s : State) (p : Packet), (s.chip.startedAs p 0x502) ∧ (p.u 33 1 ≤ 2 ∧ p.u 32 1 < 8 ∧ p.u 34 2 < 2 ^ 12 ∧ zeroIn p.bytes 54 64 = true) ∧ (p.u 33 1 = 1)) ∧
    (∃ (s : State) (p : Packet) (e : Golden), (s.chip.startedAs p 0x502) ∧ (p.u 33 1 ≤ 2 ∧ p.u 32 1 < 8 ∧ p.u 34 2 < 2 ^ 12 ∧ zeroIn p.bytes 54 64 = true) ∧ (p.u 33 1 = 2) ∧ (AMap.get? s.chip.selfTest.golden (p.u 32 1) = some e)) ∧
    (∃ (s : State) (p : Packet), (s.chip.startedAs p 0x502) ∧ (p.u 33 1 ≤ 2 ∧ p.u 32 1 < 8 ∧ p.u 34 2 < 2 ^ 12 ∧ zeroIn p.bytes 54 64 = true) ∧ (p.u 33 1 = 2) ∧ (AMap.get? s.chip.selfTest.golden (p.u 32 1) = none)) ∧
    (∃ (s : State) (g : Nat) (e : Nat) (x : Golden) (y : GoldenGroup) (k : Chan) (c1 : Chip), (s.chip.goldenOf g = some (e, x)) ∧ (AMap.get? s.chip.selfTest.goldenGroups g = some y) ∧ (y.due ≤ s.chip.now) ∧ (s.chip.jobs.any (fun j => j.goldenOn g) = false) ∧ (s.chip.checkChan 0 1 (bytesU x.desc 4 2) (bytesU x.desc 6 1) (bytesU x.desc 8 6) (bytesU x.desc 16 1) = (.ok k, c1)) ∧ (k.first % 16 + k.tiles ≤ 16) ∧ (c1.goldenWaits g (k.onto g) = false)) ∧
    (∃ (s : State) (g : Nat) (e : Nat) (x : Golden) (y : GoldenGroup) (k : Chan) (c1 : Chip), (s.chip.goldenOf g = some (e, x)) ∧ (AMap.get? s.chip.selfTest.goldenGroups g = some y) ∧ (y.due ≤ s.chip.now) ∧ (s.chip.jobs.any (fun j => j.goldenOn g) = false) ∧ (s.chip.checkChan 0 1 (bytesU x.desc 4 2) (bytesU x.desc 6 1) (bytesU x.desc 8 6) (bytesU x.desc 16 1) = (.ok k, c1)) ∧ (k.first % 16 + k.tiles ≤ 16) ∧ (c1.goldenWaits g (k.onto g) = true)) ∧
    (∃ (s : State) (g : Nat) (e : Nat) (x : Golden) (y : GoldenGroup) (st : Nat) (c1 : Chip), (s.chip.goldenOf g = some (e, x)) ∧ (AMap.get? s.chip.selfTest.goldenGroups g = some y) ∧ (y.due ≤ s.chip.now) ∧ (s.chip.jobs.any (fun j => j.goldenOn g) = false) ∧ (s.chip.checkChan 0 1 (bytesU x.desc 4 2) (bytesU x.desc 6 1) (bytesU x.desc 8 6) (bytesU x.desc 16 1) = (.error st, c1))) :=
  ⟨⟨tState (tGolden 0), tGoldP 0, tGoldD, _, ⟨by decide, by decide, by decide, by decide, rfl, by decide⟩⟩,
    ⟨tState ({ tGolden 0 with owners := [] }), tGoldP 0, by decide⟩,
    ⟨tState (tGolden 1), tGoldP 1, by decide⟩,
    ⟨tState (tGolden 2), tGoldP 2, tGoldE, by decide⟩,
    ⟨tState (tIsland (tGoldP 2)), tGoldP 2, by decide⟩,
    ⟨tState (tGoldC []), 0, 0, tGoldE, { due := 0, since := 0 }, _, _, ⟨by decide, by decide, by decide, by decide, rfl, by decide, by decide⟩⟩,
    ⟨tState (tGoldC [{ tJob with chans := [{ tChan with holding := true }] }]), 0, 0, tGoldE, { due := 0, since := 0 }, _, _, ⟨by decide, by decide, by decide, by decide, rfl, by decide, by decide⟩⟩,
    ⟨tState (tGolden 0), 0, 0, tGoldE, { due := 0, since := 0 }, _, _, ⟨by decide, by decide, by decide, by decide, rfl⟩⟩⟩

/-- States and operands that meet the hypotheses of GoldenFramesRun, part 2 of 2. -/
theorem test_GoldenFramesRun_meets_2 :
    (∃ (s : State) (g : Nat) (e : Nat) (x : Golden) (j : Job) (k : Chan) (l : List Chan) (st : Nat) (d : Nat) (b : List Byte) (c1 : Chip), (s.chip.goldenJob? g = some j) ∧ (s.chip.goldenOf g = some (e, x)) ∧ (j.chans = k :: l) ∧ (s.chip.chanEnd k = some (st, d)) ∧ (isSuccess st = true) ∧ ((s.chip.removeJob j.id).loadRange islandMaster 0 (x.outAt k) (bytesU x.desc 24 4) = (.ok, b, c1))) ∧
    (∃ (s : State) (g : Nat) (e : Nat) (x : Golden) (j : Job) (k : Chan) (l : List Chan) (st : Nat) (d : Nat), (s.chip.goldenJob? g = some j) ∧ (s.chip.goldenOf g = some (e, x)) ∧ (j.chans = k :: l) ∧ (s.chip.chanEnd k = some (st, d)) ∧ (isSuccess st = false)) ∧
    (∃ (s : State) (g : Nat) (e : Nat) (x : Golden) (y : GoldenGroup), (s.chip.goldenOf g = some (e, x)) ∧ (AMap.get? s.chip.selfTest.goldenGroups g = some y) ∧ (y.since + x.diag * 1000000 ≤ s.chip.now)) ∧
    (∃ (s : State) (g : Nat) (e : Nat) (x : Golden) (y : GoldenGroup), (s.chip.goldenOf g = some (e, x)) ∧ (AMap.get? s.chip.selfTest.goldenGroups g = some y) ∧ (s.chip.now < y.since + x.diag * 1000000)) :=
  ⟨⟨tState (tGoldC [tGoldJob none]), 0, 0, tGoldE, _, _, [], _, _, _, _, ⟨rfl, by decide, rfl, rfl, by decide, rfl⟩⟩,
    ⟨tState ({ Chip.setFld (tGoldC [{ tGoldJob none with chans := [tChan] }]) (TILE_STATUS 0) TILE_STATUS.STATE 4 with faulted := [0] }), 0, 0, tGoldE, _, _, [], _, _, ⟨rfl, by decide, rfl, rfl, by decide⟩⟩,
    ⟨tState ({ tGolden 0 with now := 3000000000 }), 0, 0, tGoldE, { due := 0, since := 0 }, by decide⟩,
    ⟨tState (tGoldC []), 0, 0, tGoldE, { due := 0, since := 0 }, by decide⟩⟩

/-- States and operands that meet the hypotheses of IslandTestsItself, part 1 of 3. -/
theorem test_IslandTestsItself_meets_1 :
    (∃ (s : State), (s.chip.pairCompares = true) ∧ (3 ≤ s.chip.lockstepLost.reg SAF_LOCKSTEP_MISMATCHES)) ∧
    (∃ (s : State), (s.chip.pairCompares = true) ∧ (s.chip.lockstepLost.reg SAF_LOCKSTEP_MISMATCHES < 3)) ∧
    (∃ (s : State), (s.chip.pairCompares = false)) ∧
    (∃ (s : State) (n : Nat), (n < 192) ∧ (s.chip.flag SAF_ISLAND_STATUS SAF_ISLAND_STATUS.HELD = false) ∧ ((s.chip.testPeriod.pressTile n).sliceAdmitted n = true) ∧ ((s.chip.testPeriod.pressTile n).groupState (n / 16) = gsRunning) ∧ ((s.chip.testPeriod.pressTile n).tileState n = tsIdle) ∧ (((s.chip.testPeriod.pressTile n).askTest n).granted (.test n) = true)) ∧
    (∃ (s : State) (n : Nat), (n < 192) ∧ (s.chip.flag SAF_ISLAND_STATUS SAF_ISLAND_STATUS.HELD = false) ∧ ((s.chip.testPeriod.pressTile n).sliceAdmitted n = true) ∧ ((s.chip.testPeriod.pressTile n).groupState (n / 16) = gsRunning) ∧ ((s.chip.testPeriod.pressTile n).tileState n = tsIdle) ∧ (((s.chip.testPeriod.pressTile n).askTest n).granted (.test n) = false)) ∧
    (∃ (s : State) (n : Nat), (n < 192) ∧ (s.chip.flag SAF_ISLAND_STATUS SAF_ISLAND_STATUS.HELD = false) ∧ ((s.chip.testPeriod.pressTile n).sliceAdmitted n = true) ∧ ((s.chip.testPeriod.pressTile n).groupState (n / 16) ≠ gsRunning)) ∧
    (∃ (s : State) (n : Nat), (n < 192) ∧ (s.chip.flag SAF_ISLAND_STATUS SAF_ISLAND_STATUS.HELD = false) ∧ ((s.chip.testPeriod.pressTile n).sliceAdmitted n = false)) ∧
    (∃ (s : State) (n : Nat) (t : TileTest), (n < 192) ∧ (s.chip.tileTest n = t) ∧ (t.running = true) ∧ (t.step < 90)) :=
  ⟨⟨tState ((Chip.setReg {} SAF_LOCKSTEP_MISMATCHES 2)), by decide⟩,
    ⟨tState {}, by decide⟩,
    ⟨tState (Chip.setFld {} SAF_ISLAND_STATUS SAF_ISLAND_STATUS.SPLIT 1), by decide⟩,
    ⟨tState (Chip.setFld { sluice := { grants := [{ who := .test 0, units := 2, slice := none, cls := 0 }] } } (GRP_STATE 0) GRP_STATE.PSTATE gsRunning |>.setTileState 0 tsIdle), 0, by decide⟩,
    ⟨tState (Chip.setFld { sluice := { grants := [{ who := .job 9, units := 5000, slice := none, cls := 0 }] } } (GRP_STATE 0) GRP_STATE.PSTATE gsRunning |>.setTileState 0 tsIdle), 0, by decide⟩,
    ⟨tState {}, 0, by decide⟩,
    ⟨tState ({ selfTest := { tested := [0] } }), 0, by decide⟩,
    ⟨tState (tSt 3 none), 0, _, ⟨by decide, rfl, by decide, by decide⟩⟩⟩

/-- States and operands that meet the hypotheses of IslandTestsItself, part 2 of 3. -/
theorem test_IslandTestsItself_meets_2 :
    (∃ (s : State) (n : Nat) (k : Nat), (n < 192) ∧ ((s.chip.tileTest n).running = true) ∧ ((s.chip.tileTest n).step ≠ 90) ∧ (s.chip.abortCause n (s.chip.tileTest n) = some k)) ∧
    (∃ (s : State) (n : Nat), (s.chip.abortCause n (s.chip.tileTest n) = none)) ∧
    (∃ (s : State) (n : Nat), (n < 192) ∧ ((s.chip.tileTest n).running = true) ∧ (90 ≤ (s.chip.tileTest n).step) ∧ ((s.chip.tileTest n).firstFail = none)) ∧
    (∃ (s : State) (n : Nat) (f : Nat), (n < 192) ∧ ((s.chip.tileTest n).running = true) ∧ (90 ≤ (s.chip.tileTest n).step) ∧ ((s.chip.tileTest n).firstFail = some f)) ∧
    (∃ (s : State) (k : Nat), (k < 7) ∧ (s.chip.flag SAF_ISLAND_STATUS SAF_ISLAND_STATUS.HELD = false) ∧ (s.chip.checkDue k = true)) ∧
    (∃ (s : State) (k : Nat), (s.chip.checkDue k = false)) ∧
    (∃ (s : State) (n : Nat), (n < 192) ∧ (s.chip.tileOverdue n = true)) ∧
    (∃ (s : State) (k : Nat), (k < 7) ∧ (s.chip.checkOverdue k = true)) :=
  ⟨⟨tState ({ tSt 3 none with pendingRels := [{ packet := 0, slice := 1, cls := 0, release := 5, tiles := [0], engines := [], units := 0, timeoutUs := 0 }] }), 0, 2, by decide⟩,
    ⟨tState (tSt 3 none), 0, by decide⟩,
    ⟨tState (tSt 90 none), 0, by decide⟩,
    ⟨tState (tSt 90 (some 7)), 0, 7, by decide⟩,
    ⟨tState {}, 1, by decide⟩,
    ⟨tState ({ selfTest := { checkDue := [(1, 5)] } }), 1, by decide⟩,
    ⟨tState ({ now := 10 ^ 12 }), 0, by decide⟩,
    ⟨tState ({ now := 10 ^ 12 }), 0, by decide⟩⟩

/-- States and operands that meet the hypotheses of IslandTestsItself, part 3 of 3. -/
theorem test_IslandTestsItself_meets_3 :
    (∃ (s : State) (n : Nat), (n < 192) ∧ (s.chip.tileOverdue n = false)) ∧
    (∃ (s : State) (p : Packet), (s.chip.startedAs p 0x501) ∧ (p.testBad = false) ∧ (p.u 32 1 = 0)) ∧
    (∃ (s : State) (p : Packet), (s.chip.startedAs p 0x501) ∧ (p.testBad = false) ∧ (p.u 32 1 = 1)) ∧
    (∃ (s : State) (p : Packet), (s.chip.startedAs p 0x501) ∧ (p.testBad = false) ∧ (p.u 32 1 = 2)) ∧
    (∃ (s : State) (p : Packet), (s.chip.startedAs p 0x501) ∧ (p.testBad = false) ∧ (p.u 32 1 = 3)) ∧
    (∃ (s : State) (p : Packet), (s.chip.startedAs p 0x501) ∧ (p.testBad = true)) :=
  ⟨⟨tState {}, 0, by decide⟩,
    ⟨tState (tStC 0 5), tStP 0 5, by decide⟩,
    ⟨tState (tStC 1 11), tStP 1 11, by decide⟩,
    ⟨tState (tStC 2 6), tStP 2 6, by decide⟩,
    ⟨tState (tStC 3 0), tStP 3 0, by decide⟩,
    ⟨tState (tStC 0 192), tStP 0 192, by decide⟩⟩

/-- States and operands that meet the hypotheses of GateCallsRunTheirEntries, part 1 of 2. -/
theorem test_GateCallsRunTheirEntries_meets_1 :
    (∃ (s : State) (hart : Nat) (mode : Nat) (block : Nat) (len : Nat) (g : GateEntry) (b : List Byte) (c : Chip), (s.part.gateOpens g 0x0010 hart mode block len = true) ∧ (s.sec.waiting = []) ∧ (s.sec.running = none) ∧ ((s.chip.count SEC_GATE_CALLS SEC_GATE_CALLS.COUNT 1).loadRange (hartMaster hart) (s.chip.hartTag hart) block g.pin = (.ok, b, c)) ∧ (g.cls = 2 → c.flag SEC_STATUS SEC_STATUS.COCKPIT_WITHDRAWN = false)) ∧
    (∃ (s : State) (hart : Nat) (mode : Nat) (block : Nat) (len : Nat) (g : GateEntry) (b : List Byte) (c : Chip), (s.part.gateOpens g 0x0011 hart mode block len = true) ∧ (s.sec.waiting = []) ∧ (s.sec.running = none) ∧ ((s.chip.count SEC_GATE_CALLS SEC_GATE_CALLS.COUNT 1).loadRange (hartMaster hart) (s.chip.hartTag hart) block g.pin = (.ok, b, c)) ∧ (g.cls = 2 → c.flag SEC_STATUS SEC_STATUS.COCKPIT_WITHDRAWN = false)) ∧
    (∃ (s : State) (hart : Nat) (mode : Nat) (block : Nat) (len : Nat) (g : GateEntry) (b : List Byte) (c : Chip), (s.part.gateOpens g 0x0012 hart mode block len = true) ∧ (s.sec.waiting = []) ∧ (s.sec.running = none) ∧ ((s.chip.count SEC_GATE_CALLS SEC_GATE_CALLS.COUNT 1).loadRange (hartMaster hart) (s.chip.hartTag hart) block g.pin = (.ok, b, c)) ∧ (g.cls = 2 → c.flag SEC_STATUS SEC_STATUS.COCKPIT_WITHDRAWN = false)) ∧
    (∃ (s : State) (hart : Nat) (mode : Nat) (block : Nat) (len : Nat) (g : GateEntry) (b : List Byte) (c : Chip), (s.part.gateOpens g 0x0020 hart mode block len = true) ∧ (s.sec.waiting = []) ∧ (s.sec.running = none) ∧ ((s.chip.count SEC_GATE_CALLS SEC_GATE_CALLS.COUNT 1).loadRange (hartMaster hart) (s.chip.hartTag hart) block g.pin = (.ok, b, c)) ∧ (g.cls = 2 → c.flag SEC_STATUS SEC_STATUS.COCKPIT_WITHDRAWN = false)) ∧
    (∃ (s : State) (hart : Nat) (mode : Nat) (block : Nat) (len : Nat) (g : GateEntry) (b : List Byte) (c : Chip), (s.part.gateOpens g 0x0021 hart mode block len = true) ∧ (s.sec.waiting = []) ∧ (s.sec.running = none) ∧ ((s.chip.count SEC_GATE_CALLS SEC_GATE_CALLS.COUNT 1).loadRange (hartMaster hart) (s.chip.hartTag hart) block g.pin = (.ok, b, c)) ∧ (g.cls = 2 → c.flag SEC_STATUS SEC_STATUS.COCKPIT_WITHDRAWN = false)) ∧
    (∃ (s : State) (hart : Nat) (mode : Nat) (block : Nat) (len : Nat) (g : GateEntry) (b : List Byte) (c : Chip), (s.part.gateOpens g 0x0030 hart mode block len = true) ∧ (s.sec.waiting = []) ∧ (s.sec.running = none) ∧ ((s.chip.count SEC_GATE_CALLS SEC_GATE_CALLS.COUNT 1).loadRange (hartMaster hart) (s.chip.hartTag hart) block g.pin = (.ok, b, c)) ∧ (g.cls = 2 → c.flag SEC_STATUS SEC_STATUS.COCKPIT_WITHDRAWN = false)) ∧
    (∃ (s : State) (hart : Nat) (mode : Nat) (block : Nat) (len : Nat) (g : GateEntry) (b : List Byte) (c : Chip), (s.part.gateOpens g 0x0031 hart mode block len = true) ∧ (s.sec.waiting = []) ∧ (s.sec.running = none) ∧ ((s.chip.count SEC_GATE_CALLS SEC_GATE_CALLS.COUNT 1).loadRange (hartMaster hart) (s.chip.hartTag hart) block g.pin = (.ok, b, c)) ∧ (g.cls = 2 → c.flag SEC_STATUS SEC_STATUS.COCKPIT_WITHDRAWN = false)) ∧
    (∃ (s : State) (hart : Nat) (mode : Nat) (block : Nat) (len : Nat) (g : GateEntry) (b : List Byte) (c : Chip), (s.part.gateOpens g 0x0032 hart mode block len = true) ∧ (s.sec.waiting = []) ∧ (s.sec.running = none) ∧ ((s.chip.count SEC_GATE_CALLS SEC_GATE_CALLS.COUNT 1).loadRange (hartMaster hart) (s.chip.hartTag hart) block g.pin = (.ok, b, c)) ∧ (g.cls = 2 → c.flag SEC_STATUS SEC_STATUS.COCKPIT_WITHDRAWN = false)) :=
  ⟨⟨tGate, 0, 0, 0x100000, 64, tG 0x0010, _, _, ⟨by decide, by decide, by decide, rfl, by decide⟩⟩,
    ⟨tGate, 0, 0, 0x100000, 64, tG 0x0011, _, _, ⟨by decide, by decide, by decide, rfl, by decide⟩⟩,
    ⟨tGate, 0, 0, 0x100000, 64, tG 0x0012, _, _, ⟨by decide, by decide, by decide, rfl, by decide⟩⟩,
    ⟨tGate, 0, 0, 0x100000, 64, tG 0x0020, _, _, ⟨by decide, by decide, by decide, rfl, by decide⟩⟩,
    ⟨tGate, 0, 0, 0x100000, 64, tG 0x0021, _, _, ⟨by decide, by decide, by decide, rfl, by decide⟩⟩,
    ⟨tGate, 0, 0, 0x100000, 64, tG 0x0030, _, _, ⟨by decide, by decide, by decide, rfl, by decide⟩⟩,
    ⟨tGate, 0, 0, 0x100000, 64, tG 0x0031, _, _, ⟨by decide, by decide, by decide, rfl, by decide⟩⟩,
    ⟨tGate, 0, 0, 0x100000, 64, tG 0x0032, _, _, ⟨by decide, by decide, by decide, rfl, by decide⟩⟩⟩

/-- States and operands that meet the hypotheses of GateCallsRunTheirEntries, part 2 of 2. -/
theorem test_GateCallsRunTheirEntries_meets_2 :
    (∃ (s : State) (hart : Nat) (mode : Nat) (block : Nat) (len : Nat) (g : GateEntry) (b : List Byte) (c : Chip), (s.part.gateOpens g 0x0040 hart mode block len = true) ∧ (s.sec.waiting = []) ∧ (s.sec.running = none) ∧ ((s.chip.count SEC_GATE_CALLS SEC_GATE_CALLS.COUNT 1).loadRange (hartMaster hart) (s.chip.hartTag hart) block g.pin = (.ok, b, c)) ∧ (g.cls = 2 → c.flag SEC_STATUS SEC_STATUS.COCKPIT_WITHDRAWN = false)) ∧
    (∃ (s : State) (hart : Nat) (mode : Nat) (block : Nat) (len : Nat) (g : GateEntry) (b : List Byte) (c : Chip), (s.part.gateOpens g 0x0050 hart mode block len = true) ∧ (s.sec.waiting = []) ∧ (s.sec.running = none) ∧ ((s.chip.count SEC_GATE_CALLS SEC_GATE_CALLS.COUNT 1).loadRange (hartMaster hart) (s.chip.hartTag hart) block g.pin = (.ok, b, c)) ∧ (g.cls = 2 → c.flag SEC_STATUS SEC_STATUS.COCKPIT_WITHDRAWN = false)) ∧
    (∃ (s : State) (hart : Nat) (mode : Nat) (block : Nat) (len : Nat) (g : GateEntry) (b : List Byte) (c : Chip), (s.part.gateOpens g 0x0051 hart mode block len = true) ∧ (s.sec.waiting = []) ∧ (s.sec.running = none) ∧ ((s.chip.count SEC_GATE_CALLS SEC_GATE_CALLS.COUNT 1).loadRange (hartMaster hart) (s.chip.hartTag hart) block g.pin = (.ok, b, c)) ∧ (g.cls = 2 → c.flag SEC_STATUS SEC_STATUS.COCKPIT_WITHDRAWN = false)) ∧
    (∃ (s : State) (hart : Nat) (mode : Nat) (block : Nat) (len : Nat) (g : GateEntry) (b : List Byte) (c : Chip), (s.part.gateOpens g 0x0052 hart mode block len = true) ∧ (s.sec.waiting = []) ∧ (s.sec.running = none) ∧ ((s.chip.count SEC_GATE_CALLS SEC_GATE_CALLS.COUNT 1).loadRange (hartMaster hart) (s.chip.hartTag hart) block g.pin = (.ok, b, c)) ∧ (g.cls = 2 → c.flag SEC_STATUS SEC_STATUS.COCKPIT_WITHDRAWN = false)) :=
  ⟨⟨tGate, 0, 0, 0x100000, 64, tG 0x0040, _, _, ⟨by decide, by decide, by decide, rfl, by decide⟩⟩,
    ⟨tGate, 0, 0, 0x100000, 64, tG 0x0050, _, _, ⟨by decide, by decide, by decide, rfl, by decide⟩⟩,
    ⟨tGate, 0, 0, 0x100000, 64, tG 0x0051, _, _, ⟨by decide, by decide, by decide, rfl, by decide⟩⟩,
    ⟨tGate, 0, 0, 0x100000, 64, tG 0x0052, _, _, ⟨by decide, by decide, by decide, rfl, by decide⟩⟩⟩

/-- States and operands that meet the hypotheses of MailboxFaultsClaimsAndWatchdogs, part 1 of 2. -/
theorem test_MailboxFaultsClaimsAndWatchdogs_meets_1 :
    (∃ (hart : Nat) (w : W32), (hart < 20) ∧ (bitsOf w.toNat 6 0 = 0x0B) ∧ (bitsOf w.toNat 15 12 ≠ 0)) ∧
    (∃ (s : State) (hart : Nat) (mode : Nat) (k : Nat) (e : Nat) (w : W32), (hart < 20) ∧ (bitsOf w.toNat 6 0 = 0x0B) ∧ (bitsOf w.toNat 15 12 = 0) ∧ (s.sec.gateFault? (modeOf mode) (bitsOf w.toNat 31 16) = some (k, e))) ∧
    (∃ (s : State) (q : GateReq) (f : Nat) (n : Nat) (x : Nat) (new : Nat) (inv : Bool) (ok : Bool), (s.sec.running = some q) ∧ (q.entry = 0x0010) ∧ (ownerArgs q.copy = (f, n, x, new, inv, ok)) ∧ (s.chip.dramBusy f n = false)) ∧
    (∃ (s : State) (r : List Byte) (t : Nat), (s.sec.challenge = some (r, t)) ∧ (t + 60000000000 ≤ s.chip.now)) ∧
    (∃ (s : State) (r : List Byte) (t : Nat), (s.sec.challenge = some (r, t)) ∧ (s.chip.now < t + 60000000000)) ∧
    (∃ (s : State) (n : Nat) (q : GateReq), (bitOf s.chip.claimed n = true) ∧ (s.sec.running = some q) ∧ (q.claimBit = some n)) ∧
    (∃ (s : State) (n : Nat), (bitOf s.chip.claimed n = true) ∧ (∀ q, s.sec.running = some q → q.claimBit ≠ some n)) ∧
    (∃ (s : State) (n : Nat) (t : Nat), (AMap.get? s.chip.power.claims n = some t) ∧ (t + 50000000 ≤ s.chip.now) ∧ (s.sec.running = none)) :=
  ⟨⟨0, 0x0000100B, by decide⟩,
    ⟨tState {}, 0, 3, 2, 1, 0x0010000B, by decide⟩,
    ⟨{ tGate with sec := { running := some { hart := 0, entry := 0x10, rd := 0, block := 0, len := 0, tag := 0, cls := 0 } } }, _, _, _, _, _, _, _, ⟨rfl, by decide, rfl, by decide⟩⟩,
    ⟨{ chip := { now := 60000000000 }, sec := { challenge := some ([], 0) } }, [], 0, by decide⟩,
    ⟨{ chip := {}, sec := { challenge := some ([], 0) } }, [], 0, by decide⟩,
    ⟨{ chip := Chip.claim {} 6, sec := { running := some { hart := 0, entry := 0x12, rd := 0, block := 0, len := 0, tag := 0, cls := 0 } } }, 6, _, ⟨by decide, rfl, by decide⟩⟩,
    ⟨{ chip := Chip.claim {} 6 }, 6, ⟨by decide, by simp⟩⟩,
    ⟨{ chip := { Chip.claim {} 4 with now := 50000000 } }, 4, 0, by decide⟩⟩

/-- States and operands that meet the hypotheses of MailboxFaultsClaimsAndWatchdogs, part 2 of 2. -/
theorem test_MailboxFaultsClaimsAndWatchdogs_meets_2 :
    (∃ (s : State) (n : Nat) (t : Nat) (q : GateReq), (AMap.get? s.chip.power.claims n = some t) ∧ (t + 50000000 ≤ s.chip.now) ∧ (s.sec.running = some q) ∧ (q.claimBit = some n)) ∧
    (∃ (s : State) (n : Nat) (t : Nat), (AMap.get? s.chip.power.claims n = some t) ∧ (s.chip.now < t + 50000000)) ∧
    (∃ (s : State), (s.chip.flag SEC_STATUS SEC_STATUS.COCKPIT_WITHDRAWN = false)) ∧
    (∃ (s : State), (s.chip.flag SEC_STATUS SEC_STATUS.COCKPIT_WITHDRAWN = true)) ∧
    (∃ (s : State) (n : Nat), (n * pageSize < s.chip.capacity)) ∧
    (∃ (s : State) (n : Nat), (s.chip.capacity ≤ n * pageSize)) :=
  ⟨⟨{ chip := { Chip.claim {} 6 with now := 50000000 }, sec := { running := some { hart := 0, entry := 0x12, rd := 0, block := 0, len := 0, tag := 0, cls := 0 } } }, 6, 0, _, ⟨by decide, by decide, rfl, by decide⟩⟩,
    ⟨{ chip := Chip.claim {} 4 }, 4, 0, by decide⟩,
    ⟨tState {}, by decide⟩,
    ⟨tState (Chip.setFld {} SEC_STATUS SEC_STATUS.COCKPIT_WITHDRAWN 1), by decide⟩,
    ⟨tGate, 16, by decide⟩,
    ⟨tGate, 2 ^ 21, by decide⟩⟩

/-- States and operands that meet the hypotheses of MemoryServesItsQueue, part 1 of 2. -/
theorem test_MemoryServesItsQueue_meets_1 :
    (∃ (s : State) (q : DramReq) (c : Chip), (s.chip.dramQueue.find? (fun r => r.id == q.id && !r.write) = some q) ∧ (s.chip.lookValid q.addr q.len = c) ∧ (c.fillOf q = none) ∧ (((c.olderThan q).filter (fun w => w.write && w.touches q)).getLast? = none) ∧ (c.blocked q = false) ∧ (c.zeroRead q = true ∨ c.onTurn q = true)) ∧
    (∃ (s : State) (q : DramReq) (c : Chip), (s.chip.dramQueue.find? (fun r => r.id == q.id && !r.write) = some q) ∧ (s.chip.lookValid q.addr q.len = c) ∧ (c.fillOf q = none) ∧ (((c.olderThan q).filter (fun w => w.write && w.touches q)).getLast? = none) ∧ (c.blocked q = true ∨ c.zeroRead q = false ∧ c.onTurn q = false)) ∧
    (∃ (s : State) (q : DramReq) (w : DramReq) (c : Chip), (s.chip.dramQueue.find? (fun r => r.id == q.id && !r.write) = some q) ∧ (s.chip.lookValid q.addr q.len = c) ∧ (c.fillOf q = none) ∧ (((c.olderThan q).filter (fun w => w.write && w.touches q)).getLast? = some w) ∧ (w.whole = true) ∧ (w.addr / 64 = q.addr / 64) ∧ ((q.addr + q.len - 1) / 64 = q.addr / 64)) ∧
    (∃ (s : State) (q : DramReq) (c : Chip) (f : Fill), (s.chip.dramQueue.find? (fun r => r.id == q.id && !r.write) = some q) ∧ (s.chip.lookValid q.addr q.len = c) ∧ (c.fillOf q = some f)) ∧
    (∃ (s : State) (q : DramReq) (c : Chip), (s.chip.dramQueue.find? (fun r => r.id == q.id && r.write) = some q) ∧ (s.chip.lookValid q.addr q.len = c) ∧ (c.blocked q = false) ∧ (c.fillOf q = none) ∧ ((pagesOf q.addr q.len).all c.validBlocks.contains = true) ∧ (c.onTurn q = true)) ∧
    (∃ (s : State) (q : DramReq) (c : Chip), (s.chip.dramQueue.find? (fun r => r.id == q.id && r.write) = some q) ∧ (s.chip.lookValid q.addr q.len = c) ∧ (c.blocked q = true)) ∧
    (∃ (s : State) (q : DramReq) (c : Chip), (s.chip.dramQueue.find? (fun r => r.id == q.id && r.write) = some q) ∧ (s.chip.lookValid q.addr q.len = c) ∧ (c.blocked q = false) ∧ (c.fillOf q = none) ∧ ((pagesOf q.addr q.len).all c.validBlocks.contains = true) ∧ (c.onTurn q = false)) ∧
    (∃ (s : State) (q : DramReq) (c : Chip), (s.chip.dramQueue.find? (fun r => r.id == q.id && r.write) = some q) ∧ (s.chip.lookValid q.addr q.len = c) ∧ (c.blocked q = false) ∧ (c.fillOf q = none) ∧ ((pagesOf q.addr q.len).all c.validBlocks.contains = false)) :=
  ⟨⟨tState (tMem [tReq 0 false] [16]), tReq 0 false, _, ⟨by decide, rfl, by decide, by decide, by decide, by decide⟩⟩,
    ⟨tState (tMem [{ tReq 3 false with cls := 2 }, { tReq 4 false with addr := 0x108000, cls := 1 }] [16]), { tReq 3 false with cls := 2 }, _, ⟨by decide, rfl, by decide, by decide, by decide⟩⟩,
    ⟨tState (tMem [tReq 0 true, tReq 1 false] [16]), tReq 1 false, tReq 0 true, _, ⟨by decide, rfl, by decide, by decide, by decide, by decide, by decide⟩⟩,
    ⟨tState ({ tMem [tReq 1 false] [] with fills := [tFillQ] }), tReq 1 false, _, tFillQ, ⟨by decide, rfl, by decide⟩⟩,
    ⟨tState (tMem [tReq 0 true] [16]), tReq 0 true, _, ⟨by decide, rfl, by decide, by decide, by decide, by decide⟩⟩,
    ⟨tState (tMem [tReq 0 true, tReq 1 true] [16]), tReq 1 true, _, ⟨by decide, rfl, by decide⟩⟩,
    ⟨tState (tMem [{ tReq 3 true with cls := 2 }, { tReq 4 true with addr := 0x108000, cls := 1 }] [16]), { tReq 3 true with cls := 2 }, _, ⟨by decide, rfl, by decide, by decide, by decide, by decide⟩⟩,
    ⟨tState (tMem [tReq 0 true] []), tReq 0 true, _, ⟨by decide, rfl, by decide, by decide, by decide⟩⟩⟩

/-- States and operands that meet the hypotheses of MemoryServesItsQueue, part 2 of 2. -/
theorem test_MemoryServesItsQueue_meets_2 :
    (∃ (s : State) (q : DramReq) (c : Chip) (f : Fill), (s.chip.dramQueue.find? (fun r => r.id == q.id && r.write) = some q) ∧ (s.chip.lookValid q.addr q.len = c) ∧ (c.blocked q = false) ∧ (c.fillOf q = some f)) ∧
    (∃ (s : State) (f : Fill), (s.chip.fills.find? (fun g => channelOf (g.block * pageSize) == channelOf (f.block * pageSize)) = some f)) ∧
    (∃ (s : State) (n : Nat) (f : Fill), (s.chip.fills.find? (fun g => channelOf (g.block * pageSize) == channelOf (n * pageSize)) = some f) ∧ (f.block ≠ n)) ∧
    (∃ (ch : Nat), (ch < 16)) ∧
    (∃ (ch : Nat), (ch < 16)) :=
  ⟨⟨tState ({ tMem [tReq 1 true] [] with fills := [tFillQ] }), tReq 1 true, _, tFillQ, ⟨by decide, rfl, by decide, by decide⟩⟩,
    ⟨tState ({ fills := [tFillQ] }), tFillQ, by decide⟩,
    ⟨tState ({ fills := [tFillQ] }), 35, tFillQ, by decide⟩,
    ⟨15, by decide⟩,
    ⟨15, by decide⟩⟩

/-- States and operands that meet the hypotheses of ArbitersBucketsAndCodes, part 1 of 2. -/
theorem test_ArbitersBucketsAndCodes_meets_1 :
    (∃ (n : Nat), (n < 256)) ∧
    (∃ (s : State) (n : Nat) (b : Bool) (v : W64) (c : Chip), (n < 16) ∧ (c = { s.chip with eccHeld := s.chip.eccHeld ++ [{ region := n, limit := b, value := v.toNat, mark := s.chip.accepted }] }) ∧ (s.chip.eccHeld = []) ∧ (c.eccFree { region := n, limit := b, value := v.toNat, mark := s.chip.accepted } = true)) ∧
    (∃ (s : State) (n : Nat) (b : Bool) (v : W64) (c : Chip), (n < 16) ∧ (c = { s.chip with eccHeld := s.chip.eccHeld ++ [{ region := n, limit := b, value := v.toNat, mark := s.chip.accepted }] }) ∧ (s.chip.eccHeld = []) ∧ (c.eccFree { region := n, limit := b, value := v.toNat, mark := s.chip.accepted } = false)) ∧
    (∃ (s : State) (n : Nat) (b : Bool) (v : W64) (c : Chip) (w : EccWrite) (l : List EccWrite), (n < 16) ∧ (c = { s.chip with eccHeld := s.chip.eccHeld ++ [{ region := n, limit := b, value := v.toNat, mark := s.chip.accepted }] }) ∧ (s.chip.eccHeld = w :: l) ∧ (c.eccFree w = false)) ∧
    (∃ (t : Nat), (t ≠ 0)) ∧
    (∃ (s : State) (n : Nat), (n < 192) ∧ (s.chip.tileHeld n = false)) ∧
    (∃ (s : State) (w : W32), (s.chip.flag ERR_RING_CTRL ERR_RING_CTRL.ENABLE = false) ∧ (bitOf w.toNat 31 = true) ∧ (6 ≤ w.toNat % 32) ∧ (w.toNat % 32 ≤ 16) ∧ ((s.chip.setFld ERR_RING_CTRL ERR_RING_CTRL.LOG2_SLOTS (w.toNat % 32)).ownsPages 0 ((s.chip.setFld ERR_RING_CTRL ERR_RING_CTRL.LOG2_SLOTS (w.toNat % 32)).fld ERR_RING_BASE ERR_RING_BASE.BASE * 4096) (32 * 2 ^ (w.toNat % 32)) = true)) ∧
    (∃ (s : State) (w : W32), (s.chip.flag ERR_RING_CTRL ERR_RING_CTRL.ENABLE = true) ∧ (bitOf w.toNat 31 = false)) :=
  ⟨⟨255, by decide⟩,
    ⟨tState {}, 15, true, 0, _, ⟨by decide, rfl, by decide, by decide⟩⟩,
    ⟨tState (Chip.setReg { fills := [{ tFillQ with waiting := [] }] } (MEM_ECC_BASE 0) 3), 0, true, 0x200000, _, ⟨by decide, rfl, by decide, by decide⟩⟩,
    ⟨tState ({ Chip.setReg { fills := [{ tFillQ with waiting := [] }] } (MEM_ECC_BASE 0) 3 with eccHeld := [{ region := 0, limit := true, value := 0x200000, mark := 0 }] }), 0, true, 0, _, _, _, ⟨by decide, rfl, rfl, by decide⟩⟩,
    ⟨1, by decide⟩,
    ⟨tState {}, 191, by decide⟩,
    ⟨tGate, 0x80000006, by decide⟩,
    ⟨tState (Chip.setFld {} ERR_RING_CTRL ERR_RING_CTRL.ENABLE 1), 6, by decide⟩⟩

/-- States and operands that meet the hypotheses of ArbitersBucketsAndCodes, part 2 of 2. -/
theorem test_ArbitersBucketsAndCodes_meets_2 :
    (∃ (s : State) (w : W32), (idxSub w.toNat (s.chip.reg ERR_RING_HEAD) ≤ idxSub (s.chip.reg ERR_RING_TAIL) (s.chip.reg ERR_RING_HEAD))) ∧
    (∃ (s : State) (w : W32), (idxSub (s.chip.reg ERR_RING_TAIL) (s.chip.reg ERR_RING_HEAD) < idxSub w.toNat (s.chip.reg ERR_RING_HEAD))) :=
  ⟨⟨tState (Chip.setReg {} ERR_RING_TAIL 3), 2, by decide⟩,
    ⟨tState {}, 2, by decide⟩⟩

/-- States and operands that meet the hypotheses of PowerHintsAreTaken, part 1 of 2. -/
theorem test_PowerHintsAreTaken_meets_1 :
    (∃ (s : State) (p : Packet), (s.chip.startedAs p 0x600) ∧ (p.u 32 1 = 0) ∧ (p.slice = 0) ∧ (hintReserved p = true) ∧ (s.chip.blocksOk (p.u 34 2) true = true)) ∧
    (∃ (s : State) (p : Packet), (s.chip.startedAs p 0x600) ∧ (p.u 32 1 = 0) ∧ (p.slice = 0) ∧ (hintReserved p = true) ∧ (s.chip.blocksOk (p.u 34 2) true = false)) ∧
    (∃ (s : State) (p : Packet), (s.chip.startedAs p 0x600) ∧ (p.u 32 1 = 1) ∧ (p.slice = 0) ∧ (hintReserved p = true) ∧ (s.chip.blocksOk (p.u 34 2) false = true)) ∧
    (∃ (s : State) (p : Packet), (s.chip.startedAs p 0x600) ∧ (p.u 32 1 = 2) ∧ (p.slice = 0) ∧ (hintReserved p = true)) ∧
    (∃ (s : State) (p : Packet), (s.chip.startedAs p 0x600) ∧ (p.u 32 1 = 3) ∧ (p.slice = 0) ∧ (hintReserved p = true)) ∧
    (∃ (s : State) (p : Packet), (s.chip.startedAs p 0x600) ∧ (p.u 32 1 = 4) ∧ (p.slice = 0) ∧ (hintReserved p = true) ∧ (s.chip.flag AON_START_STATUS AON_START_STATUS.STARTING = false)) ∧
    (∃ (s : State) (p : Packet), (s.chip.startedAs p 0x600) ∧ (p.u 32 1 = 4) ∧ (p.slice = 0) ∧ (hintReserved p = true) ∧ (s.chip.flag AON_START_STATUS AON_START_STATUS.STARTING = true)) ∧
    (∃ (s : State) (p : Packet), (s.chip.startedAs p 0x600) ∧ (p.u 32 1 = 5) ∧ (p.slice < 64) ∧ (hintReserved p = true) ∧ (s.chip.ownsGroups p = true)) :=
  ⟨⟨tState (tPower 0 0x14 0 0 0), tHint 0 0x14 0 0 0, by decide⟩,
    ⟨tState (tPower 0 1 0 0 0), tHint 0 1 0 0 0, by decide⟩,
    ⟨tState (tPower 1 0x14 0 0 0), tHint 1 0x14 0 0 0, by decide⟩,
    ⟨tState (tPower 2 0 0 0 0), tHint 2 0 0 0 0, by decide⟩,
    ⟨tState (tPower 3 0 0 0 0), tHint 3 0 0 0 0, by decide⟩,
    ⟨tState (tPower 4 0 0 0 0), tHint 4 0 0 0 0, by decide⟩,
    ⟨tState ((tPower 4 0 0 0 0).setFld AON_START_STATUS AON_START_STATUS.STARTING 1), tHint 4 0 0 0 0, by decide⟩,
    ⟨tState (tPower 5 0 0 9 1), tHint 5 0 0 9 1, by decide⟩⟩

/-- States and operands that meet the hypotheses of PowerHintsAreTaken, part 2 of 2. -/
theorem test_PowerHintsAreTaken_meets_2 :
    (∃ (s : State) (p : Packet), (s.chip.startedAs p 0x600) ∧ (p.u 32 1 = 5) ∧ (p.slice < 64) ∧ (hintReserved p = true) ∧ (s.chip.ownsGroups p = false)) ∧
    (∃ (s : State) (p : Packet), (s.chip.startedAs p 0x600) ∧ (p.u 32 1 = 2) ∧ (p.slice ≠ 0)) ∧
    (∃ (s : State), (s.chip.flag AON_START_STATUS AON_START_STATUS.STARTING = false) ∧ (s.chip.power.leaving = none)) ∧
    (∃ (s : State), (s.chip.flag AON_START_STATUS AON_START_STATUS.STARTING = true)) ∧
    (∃ (s : State) (l : Leaving) (t : Nat), (s.chip.leaveOn.power.leaving = some l) ∧ (l.replied = some t) ∧ (t + 100000 ≤ s.chip.leaveOn.now) ∧ (s.chip.leaveOn.claimed = 0)) ∧
    (∃ (s : State) (l : Leaving) (t : Nat), (s.chip.leaveOn.power.leaving = some l) ∧ (l.replied = some t) ∧ (s.chip.leaveOn.now < t + 100000)) ∧
    (∃ (s : State) (r : PendingRel), (s.chip.pendingRels.find? (fun x => x.packet == r.packet) = some r) ∧ (s.chip.granted (.job r.packet) = false) ∧ (s.chip.asking (.job r.packet) = false)) ∧
    (∃ (s : State) (p : Packet), (s.chip.startedAs p 0x601) ∧ (p.u 32 1 < 4) ∧ (zeroIn p.bytes 33 64 = true)) :=
  ⟨⟨tState (tPower 5 0 0 9 2), tHint 5 0 0 9 2, by decide⟩,
    ⟨tState (tChip (tPacket 1 0x600 1 [2])), tPacket 1 0x600 1 [2], by decide⟩,
    ⟨tState {}, by decide⟩,
    ⟨tState (Chip.setFld {} AON_START_STATUS AON_START_STATUS.STARTING 1), by decide⟩,
    ⟨tPw { leaving := some { op := 2, packet := none, slice := 0, ring := 0, deadline := none, replied := some 0 } }, _, 0, ⟨rfl, rfl, by decide, by decide⟩⟩,
    ⟨tPw { leaving := some { op := 2, packet := none, slice := 0, ring := 0, deadline := none, replied := some (10 ^ 10) } }, _, 10 ^ 10, ⟨rfl, rfl, by decide⟩⟩,
    ⟨tState ({ pendingRels := [{ packet := 0, slice := 1, cls := 0, release := 5, tiles := [0], engines := [], units := 0, timeoutUs := 0 }] }), { packet := 0, slice := 1, cls := 0, release := 5, tiles := [0], engines := [], units := 0, timeoutUs := 0 }, by decide⟩,
    ⟨tState (tChip (tPacket 0 0x601 1 [3])), tPacket 0 0x601 1 [3], by decide⟩⟩

/-- States and operands that meet the hypotheses of ThePartStartsAndStops, part 1 of 2. -/
theorem test_ThePartStartsAndStops_meets_1 :
    (∃ (s : State), (s.chip.power.pgood = false) ∧ (s.chip.power.enMain = true)) ∧
    (∃ (s : State), (s.chip.power.pgood = false) ∧ (s.chip.power.enMain = false) ∧ (s.chip.railsRise = true)) ∧
    (∃ (s : State), (s.chip.pgoodLate = true)) ∧
    (∃ (s : State), (s.chip.pgoodLate = false)) ∧
    (∃ (s : State), (s.chip.power.pgood = true) ∧ (s.chip.power.enRet = true ∨ s.chip.power.enMain = true)) ∧
    (∃ (s : State), (s.part.release.chip.power.mode = .starting) ∧ (s.part.release.chip.flag AON_START_STATUS AON_START_STATUS.WARM = false) ∧ (s.part.release.chip.power.bootSrc % 4 = 3)) ∧
    (∃ (s : State), (s.part.release.chip.power.mode = .starting) ∧ (s.part.release.chip.flag AON_START_STATUS AON_START_STATUS.WARM = false) ∧ (s.part.release.chip.power.bootSrc % 4 ≠ 3)) ∧
    (∃ (s : State), (s.chip.warmUnderWay = true)) :=
  ⟨⟨tPw { pgood := false }, by decide⟩,
    ⟨tPw { pgood := false, enMain := false }, by decide⟩,
    ⟨tPw { pgood := false }, by decide⟩,
    ⟨tPw {}, by decide⟩,
    ⟨tPw {}, by decide⟩,
    ⟨tCold { bootSrc := 3 }, by decide⟩,
    ⟨tCold {}, by decide⟩,
    ⟨{ chip := Chip.setFld { power := { mode := .starting } } AON_START_STATUS AON_START_STATUS.WARM 1 }, by decide⟩⟩

/-- States and operands that meet the hypotheses of ThePartStartsAndStops, part 2 of 2. -/
theorem test_ThePartStartsAndStops_meets_2 :
    (∃ (s : State), (s.chip.warmUnderWay = false)) ∧
    (∃ (s : State), (s.chip.power.mode = .starting) ∧ (s.chip.power.t0 + 5000000000 ≤ s.chip.now)) ∧
    (∃ (s : State) (n : Nat), (n < 5) ∧ (bitOf (s.chip.fld AON_WAKE_EN AON_WAKE_EN.EN) n = true) ∧ (s.chip.power.leaving = none)) ∧
    (∃ (s : State) (n : Nat), (n < 5) ∧ (n ≠ 2) ∧ (bitOf (s.chip.fld AON_WAKE_EN AON_WAKE_EN.EN) n = true) ∧ (s.chip.power.leaving.isSome = true)) ∧
    (∃ (s : State), (s.chip.power.mode = .recovery) ∧ (s.chip.portMode 1 = pmRecovery) ∧ (s.chip.fld REC_STATUS REC_STATUS.STATE ≠ 2)) ∧
    (∃ (s : State), (s.chip.power.mode = .recovery) ∧ (s.chip.fld REC_STATUS REC_STATUS.STATE = 2)) :=
  ⟨⟨tState {}, by decide⟩,
    ⟨tPw { mode := .starting }, by decide⟩,
    ⟨{ chip := Chip.setFld { power := { mode := .standby } } AON_WAKE_EN AON_WAKE_EN.EN 31 }, 0, by decide⟩,
    ⟨{ chip := Chip.setFld { power := { leaving := some { op := 2, packet := none, slice := 0, ring := 0, deadline := none } } } AON_WAKE_EN AON_WAKE_EN.EN 31 }, 4, by decide⟩,
    ⟨{ chip := Chip.setFld { power := { mode := .recovery } } (LNK_PORT_STATUS 1) LNK_PORT_STATUS.MODE pmRecovery }, by decide⟩,
    ⟨{ chip := Chip.setFld { power := { mode := .recovery } } REC_STATUS REC_STATUS.STATE 2 }, by decide⟩⟩

/-- States and operands that meet the hypotheses of GroupsSluiceAndHeatAreManaged, part 1 of 3. -/
theorem test_GroupsSluiceAndHeatAreManaged_meets_1 :
    (∃ (s : State) (g : Nat), (s.chip.mayWake g = true)) ∧
    (∃ (s : State) (g : Nat), (s.chip.mayWake g = false)) ∧
    (∃ (s : State) (g : Nat), (g < 12) ∧ (s.chip.groupState g = gsWaking)) ∧
    (∃ (s : State) (g : Nat), (s.chip.groupState g ≠ gsWaking)) ∧
    (∃ (s : State) (g : Nat), (s.chip.maySleep g = true)) ∧
    (∃ (s : State) (g : Nat), (s.chip.maySleep g = false)) ∧
    (∃ (s : State) (k : Nat) (n : Nat) (c : Nat), (s.chip.granted (askerOf k n) = false) ∧ (s.chip.asking (askerOf k n) = false) ∧ (c < 4)) ∧
    (∃ (s : State) (k : Nat) (n : Nat), (s.chip.granted (askerOf k n) = true ∨ s.chip.asking (askerOf k n) = true)) :=
  ⟨⟨tState (Chip.setFld { sluice := { grants := [{ who := .wake 0, units := 2, slice := none, cls := 0 }] } } (GRP_STATE 0) GRP_STATE.PSTATE gsOff), 0, by decide⟩,
    ⟨tState {}, 0, by decide⟩,
    ⟨tState (Chip.setFld {} (GRP_STATE 0) GRP_STATE.PSTATE gsWaking), 0, by decide⟩,
    ⟨tState {}, 0, by decide⟩,
    ⟨tState (Chip.setFld {} (GRP_STATE 0) GRP_STATE.PSTATE gsRunning), 0, by decide⟩,
    ⟨tState {}, 12, by decide⟩,
    ⟨tState {}, 1, 0, 0, by decide⟩,
    ⟨tState ({ sluice := { grants := [{ who := .wake 0, units := 2, slice := none, cls := 0 }] } }), 0, 0, by decide⟩⟩

/-- States and operands that meet the hypotheses of GroupsSluiceAndHeatAreManaged, part 2 of 3. -/
theorem test_GroupsSluiceAndHeatAreManaged_meets_2 :
    (∃ (s : State) (k : Nat) (n : Nat), (s.chip.stillNeeds (askerOf k n) = false)) ∧
    (∃ (s : State) (k : Nat) (n : Nat), (s.chip.stillNeeds (askerOf k n) = true)) ∧
    (∃ (s : State), (s.chip.lateAsks.isEmpty = false)) ∧
    (∃ (s : State), (s.chip.lateAsks.isEmpty = true)) ∧
    (∃ (s : State) (l : List Nat), ((s.chip.sampled l).overheated = false)) ∧
    (∃ (s : State) (l : List Nat), ((s.chip.sampled l).overheated = true)) ∧
    (∃ (s : State), (s.chip.throttleOver = true)) ∧
    (∃ (s : State), (s.chip.throttleOver = false)) :=
  ⟨⟨tState {}, 1, 0, by decide⟩,
    ⟨tState ({ jobs := [tJob] }), 1, 0, by decide⟩,
    ⟨tState ({ now := 5, sluice := { waiting := [{ id := 0, cls := 0, parts := [], since := 0, deadline := 5 }] } }), by decide⟩,
    ⟨tState {}, by decide⟩,
    ⟨tState {}, [], by decide⟩,
    ⟨tState {}, [2080], by decide⟩,
    ⟨tState (Chip.setFld { now := 10000000, power := { coolSince := some 0 } } PWR_THERM_STATUS PWR_THERM_STATUS.THROTTLE 1), by decide⟩,
    ⟨tState {}, by decide⟩⟩

/-- States and operands that meet the hypotheses of GroupsSluiceAndHeatAreManaged, part 3 of 3. -/
theorem test_GroupsSluiceAndHeatAreManaged_meets_3 :
    (∃ (s : State), (s.chip.power.mode = .shutdown) ∧ (s.chip.power.shutAt + 5000000000 ≤ s.chip.now)) ∧
    (∃ (s : State), (s.chip.serviceDown 2 = false)) ∧
    (∃ (s : State) (z : Nat), (s.chip.emerges z = true) ∧ ((s.chip.emergency z).claimed &&& (s.chip.budget.shed &&& 0x1FC) = 0)) ∧
    (∃ (s : State) (z : Nat), (s.chip.emerges z = true) ∧ ((s.chip.emergency z).claimed &&& (s.chip.budget.shed &&& 0x1FC) ≠ 0)) ∧
    (∃ (s : State) (z : Nat), (s.chip.emerges z = false)) :=
  ⟨⟨tPw { mode := .shutdown }, by decide⟩,
    ⟨tState {}, by decide⟩,
    ⟨tPw { hotSince := [(0, 0)] }, 0, by decide⟩,
    ⟨{ chip := Chip.setFld { now := 10 ^ 10, budget := { ({} : Chip).budget with shed := 0x1FC }, power := { hotSince := [(0, 0)] } } SEC_CLAIM SEC_CLAIM.CLAIM 0x10 }, 0, by decide⟩,
    ⟨tState {}, 0, by decide⟩⟩

/-- States and operands that meet the hypotheses of FirmwareCoresFailAndRecord, part 1 of 3. -/
theorem test_FirmwareCoresFailAndRecord_meets_1 :
    (∃ (s : State) (k : Nat), (k < 4) ∧ (s.chip.draw.2.coreState k = 0)) ∧
    (∃ (s : State) (k : Nat), (k < 4) ∧ (s.chip.coreState k = 0)) ∧
    (∃ (s : State) (k : Nat), (k < 4) ∧ (s.chip.draw.2.coreState k = 0)) ∧
    (∃ (s : State) (v : Nat) (k : Nat), (AMap.get? s.chip.fw.down v = some k)) ∧
    (∃ (s : State) (v : Nat), (AMap.get? s.chip.fw.down v = none)) ∧
    (∃ (s : State) (k : Nat), (k < 4) ∧ (s.chip.coreState k = 3)) ∧
    (∃ (s : State) (k : Nat), (s.chip.coreState k ≠ 3)) ∧
    (∃ (s : State) (p : Packet), (s.chip.startedAs p 0x700) ∧ (p.logBad = false) ∧ (s.chip.ownsPages 0 (p.u 40 8) (2 ^ p.u 36 4 * 32) = true)) :=
  ⟨⟨tState {}, 3, by decide⟩,
    ⟨tState {}, 3, by decide⟩,
    ⟨tState {}, 3, by decide⟩,
    ⟨tState ({ fw := { down := [(2, 1)] } }), 2, 1, by decide⟩,
    ⟨tState {}, 2, by decide⟩,
    ⟨tState (Chip.setCore {} 2 3), 2, by decide⟩,
    ⟨tState {}, 2, by decide⟩,
    ⟨tState (tChip (tLogP ([1, 3, 255, 255] ++ leBytes 4 4 ++ leBytes 8 0x10000))), tLogP ([1, 3, 255, 255] ++ leBytes 4 4 ++ leBytes 8 0x10000), by decide⟩⟩

/-- States and operands that meet the hypotheses of FirmwareCoresFailAndRecord, part 2 of 3. -/
theorem test_FirmwareCoresFailAndRecord_meets_2 :
    (∃ (s : State) (p : Packet), (s.chip.startedAs p 0x700) ∧ (p.logBad = true)) ∧
    (∃ (s : State) (p : Packet), (s.chip.startedAs p 0x700) ∧ (p.logBad = false) ∧ (s.chip.ownsPages 0 (p.u 40 8) (2 ^ p.u 36 4 * 32) = false)) ∧
    (∃ (s : State) (k : Nat) (v : Nat) (l : Nat) (r : LogRing), (s.chip.fw.log = some r) ∧ (s.chip.logTakes r k v l = true)) ∧
    (∃ (s : State) (k : Nat) (v : Nat) (l : Nat) (r : LogRing), (s.chip.fw.log = some r) ∧ (s.chip.logTakes r k v l = false)) ∧
    (∃ (s : State) (p : Packet), (s.chip.startedAs p 0x701) ∧ (p.u 32 1 = 0) ∧ (p.traceFields = true) ∧ (p.traceRingOk = true) ∧ (s.chip.ownsPages 0 (p.u 48 8) (2 ^ p.u 56 1 * 16) = true)) ∧
    (∃ (s : State) (p : Packet), (s.chip.startedAs p 0x701) ∧ (p.u 32 1 = 1) ∧ (p.traceFields = true) ∧ (s.chip.fw.trace.isNone = false)) ∧
    (∃ (s : State) (p : Packet), (s.chip.startedAs p 0x701) ∧ (p.u 32 1 = 1) ∧ (p.traceFields = true) ∧ (s.chip.fw.trace.isNone = true)) ∧
    (∃ (s : State) (p : Packet), (s.chip.startedAs p 0x701) ∧ (p.u 32 1 = 2) ∧ (p.traceFields = true)) :=
  ⟨⟨tState (tChip (tLogP [2])), tLogP [2], by decide⟩,
    ⟨tState (tChip (tLogP ([1, 3, 255, 255] ++ leBytes 4 4 ++ leBytes 8 0x100000))), tLogP ([1, 3, 255, 255] ++ leBytes 4 4 ++ leBytes 8 0x100000), by decide⟩,
    ⟨tState ({ fw := { log := some { base := 0x10000, log2 := 4, level := 1, services := 2 } } }), 0, 1, 1, _, ⟨rfl, by decide⟩⟩,
    ⟨tState ({ fw := { log := some { base := 0x10000, log2 := 4, level := 1, services := 2 } } }), 0, 1, 2, _, ⟨rfl, by decide⟩⟩,
    ⟨tState (tChip (tTraceP (List.replicate 16 0 ++ leBytes 8 0x10000 ++ [8]))), tTraceP (List.replicate 16 0 ++ leBytes 8 0x10000 ++ [8]), by decide⟩,
    ⟨tState ({ tChip (tTraceP [1, 15]) with fw := { trace := some (0x10000, 8) } }), tTraceP [1, 15], by decide⟩,
    ⟨tState (tChip (tTraceP [1, 15])), tTraceP [1, 15], by decide⟩,
    ⟨tState (tChip (tTraceP [2])), tTraceP [2], by decide⟩⟩

/-- States and operands that meet the hypotheses of FirmwareCoresFailAndRecord, part 3 of 3. -/
theorem test_FirmwareCoresFailAndRecord_meets_3 :
    (∃ (s : State) (p : Packet), (s.chip.startedAs p 0x701) ∧ (2 < p.u 32 1)) ∧
    (∃ (s : State) (k : Nat) (n : Nat) (r : Nat × Nat), (s.chip.fw.trace = some r) ∧ (s.chip.tracePoint k n = true)) ∧
    (∃ (s : State) (k : Nat) (n : Nat), (s.chip.tracePoint k n = false)) :=
  ⟨⟨tState (tChip (tTraceP [3])), tTraceP [3], by decide⟩,
    ⟨tState (Chip.setReg { fw := { trace := some (0x10000, 8) } } (CTL_TRACE_MASK 0) 2), 0, 1, _, ⟨rfl, by decide⟩⟩,
    ⟨tState {}, 0, 1, by decide⟩⟩

/-- States and operands that meet the hypotheses of MailboxCommandsRun, part 1 of 3. -/
theorem test_MailboxCommandsRun_meets_1 :
    (∃ (s : State), (s.chip.mbxCmd 2 = 0x0101) ∧ (s.chip.forerunner = true) ∧ (s.chip.serviceDown 7 = false) ∧ (s.chip.flag (MBX_STATUS 2) MBX_STATUS.BUSY = false)) ∧
    (∃ (s : State), (s.chip.mbxCmd 2 = 0x0102) ∧ (s.chip.forerunner = true) ∧ (s.chip.serviceDown 7 = false) ∧ (s.chip.flag (MBX_STATUS 2) MBX_STATUS.BUSY = false)) ∧
    (∃ (s : State), (s.chip.mbxCmd 2 = 0x0103) ∧ (s.chip.forerunner = true) ∧ (s.chip.serviceDown 7 = false) ∧ (s.chip.flag (MBX_STATUS 2) MBX_STATUS.BUSY = false)) ∧
    (∃ (s : State), (s.chip.mbxCmd 1 = 0x0201) ∧ (s.chip.forerunner = true) ∧ (s.chip.serviceDown 7 = false) ∧ (s.chip.flag (MBX_STATUS 1) MBX_STATUS.BUSY = false)) ∧
    (∃ (s : State), (s.chip.mbxCmd 3 = 0x0401) ∧ (s.chip.forerunner = true) ∧ (s.chip.serviceDown 7 = false) ∧ (s.chip.flag (MBX_STATUS 3) MBX_STATUS.BUSY = false)) ∧
    (∃ (s : State), (s.chip.mbxCmd 3 = 0x0402) ∧ (s.chip.forerunner = true) ∧ (s.chip.serviceDown 7 = false) ∧ (s.chip.flag (MBX_STATUS 3) MBX_STATUS.BUSY = false)) ∧
    (∃ (s : State), (s.chip.mbxCmd 0 = 0x0301) ∧ (s.chip.forerunner = true) ∧ (s.chip.serviceDown 7 = false) ∧ (s.chip.flag (MBX_STATUS 0) MBX_STATUS.BUSY = false)) ∧
    (∃ (s : State), (s.chip.mbxCmd 0 = 0x0302) ∧ (s.chip.forerunner = true) ∧ (s.chip.serviceDown 7 = false) ∧ (s.chip.flag (MBX_STATUS 0) MBX_STATUS.BUSY = false)) :=
  ⟨⟨tMbx 2 0x0101, by decide⟩,
    ⟨tMbx 2 0x0102, by decide⟩,
    ⟨tMbx 2 0x0103, by decide⟩,
    ⟨tMbx 1 0x0201, by decide⟩,
    ⟨tMbx 3 0x0401, by decide⟩,
    ⟨tMbx 3 0x0402, by decide⟩,
    ⟨tMbx 0 0x0301, by decide⟩,
    ⟨tMbx 0 0x0302, by decide⟩⟩

/-- States and operands that meet the hypotheses of MailboxCommandsRun, part 2 of 3. -/
theorem test_MailboxCommandsRun_meets_2 :
    (∃ (s : State) (m : Nat), (m < 4) ∧ (mailboxOf (s.chip.mbxCmd m) ≠ some m) ∧ (s.chip.forerunner = true) ∧ (s.chip.serviceDown 7 = false) ∧ (s.chip.flag (MBX_STATUS m) MBX_STATUS.BUSY = false)) ∧
    (∃ (s : State), (s.chip.mbxCmd 2 = 0x0101) ∧ (s.chip.forerunner = true) ∧ (s.chip.serviceDown 7 = false) ∧ (s.chip.flag (MBX_STATUS 2) MBX_STATUS.BUSY = true)) ∧
    (∃ (s : State), (s.chip.mbxCmd 2 = 0x0102) ∧ (s.chip.forerunner = true) ∧ (s.chip.serviceDown 7 = false) ∧ (s.chip.flag (MBX_STATUS 2) MBX_STATUS.BUSY = true)) ∧
    (∃ (s : State), (s.chip.mbxCmd 2 = 0x0103) ∧ (s.chip.forerunner = true) ∧ (s.chip.serviceDown 7 = false) ∧ (s.chip.flag (MBX_STATUS 2) MBX_STATUS.BUSY = true)) ∧
    (∃ (s : State), (s.chip.mbxCmd 1 = 0x0201) ∧ (s.chip.forerunner = true) ∧ (s.chip.serviceDown 7 = false) ∧ (s.chip.flag (MBX_STATUS 1) MBX_STATUS.BUSY = true)) ∧
    (∃ (s : State), (s.chip.mbxCmd 3 = 0x0401) ∧ (s.chip.forerunner = true) ∧ (s.chip.serviceDown 7 = false) ∧ (s.chip.flag (MBX_STATUS 3) MBX_STATUS.BUSY = true)) ∧
    (∃ (s : State), (s.chip.mbxCmd 3 = 0x0402) ∧ (s.chip.forerunner = true) ∧ (s.chip.serviceDown 7 = false) ∧ (s.chip.flag (MBX_STATUS 3) MBX_STATUS.BUSY = true)) ∧
    (∃ (s : State), (s.chip.mbxCmd 0 = 0x0301) ∧ (s.chip.forerunner = true) ∧ (s.chip.serviceDown 7 = false) ∧ (s.chip.flag (MBX_STATUS 0) MBX_STATUS.BUSY = true)) :=
  ⟨⟨tMbx 1 0x0101, 1, by decide⟩,
    ⟨{ chip := (tMbx 2 0x0101).chip.setFld (MBX_STATUS 2) MBX_STATUS.BUSY 1 }, by decide⟩,
    ⟨{ chip := (tMbx 2 0x0102).chip.setFld (MBX_STATUS 2) MBX_STATUS.BUSY 1 }, by decide⟩,
    ⟨{ chip := (tMbx 2 0x0103).chip.setFld (MBX_STATUS 2) MBX_STATUS.BUSY 1 }, by decide⟩,
    ⟨{ chip := (tMbx 1 0x0201).chip.setFld (MBX_STATUS 1) MBX_STATUS.BUSY 1 }, by decide⟩,
    ⟨{ chip := (tMbx 3 0x0401).chip.setFld (MBX_STATUS 3) MBX_STATUS.BUSY 1 }, by decide⟩,
    ⟨{ chip := (tMbx 3 0x0402).chip.setFld (MBX_STATUS 3) MBX_STATUS.BUSY 1 }, by decide⟩,
    ⟨{ chip := (tMbx 0 0x0301).chip.setFld (MBX_STATUS 0) MBX_STATUS.BUSY 1 }, by decide⟩⟩

/-- States and operands that meet the hypotheses of MailboxCommandsRun, part 3 of 3. -/
theorem test_MailboxCommandsRun_meets_3 :
    (∃ (s : State), (s.chip.mbxCmd 0 = 0x0302) ∧ (s.chip.forerunner = true) ∧ (s.chip.serviceDown 7 = false) ∧ (s.chip.flag (MBX_STATUS 0) MBX_STATUS.BUSY = true)) ∧
    (∃ (s : State) (t : Nat), (t ≠ 0 ∨ s.chip.forerunner = false ∨ s.chip.serviceDown 7 = true)) :=
  ⟨⟨{ chip := (tMbx 0 0x0302).chip.setFld (MBX_STATUS 0) MBX_STATUS.BUSY 1 }, by decide⟩,
    ⟨tMbx 2 0x0101, 1, by decide⟩⟩

/-- States and operands that meet the hypotheses of RequestsReachTheirTargets, part 1 of 3. -/
theorem test_RequestsReachTheirTargets_meets_1 :
    (∃ (s : State) (m : Nat) (x : Nat) (a : Nat) (w : Bool) (l : Nat) (wr : Bool) (d : List Byte), ((s.chip.meshReq m x a w l wr d).len ≠ 0) ∧ (listedMaster m = true)) ∧
    (∃ (s : State) (m : Nat) (x : Nat) (a : Nat) (w : Bool) (l : Nat) (wr : Bool) (d : List Byte), ((s.chip.meshReq m x a w l wr d).len ≠ 0) ∧ (listedMaster m = true)) ∧
    (∃ (s : State) (m : Nat) (x : Nat) (a : Nat) (w : Bool) (l : Nat) (wr : Bool) (d : List Byte), ((s.chip.meshReq m x a w l wr d).len ≠ 0) ∧ (listedMaster m = true) ∧ (s.part.numbered.chip.check (s.chip.meshReq m x a w l wr d) = none) ∧ (s.part.numbered.chip.target a = .ok 0) ∧ (s.part.numbered.chip.gatedTarget 0 = false)) ∧
    (∃ (s : State) (m : Nat) (g : Nat) (a : Nat) (t : Nat) (d : List Byte), (regBase ≤ a) ∧ (d ≠ []) ∧ (listedMaster m = true) ∧ (s.part.numbered.chip.check { master := m, tag := g, addr := a, len := d.length, write := true } = none) ∧ (s.part.numbered.chip.target a = .ok t) ∧ (s.part.numbered.chip.gatedTarget t = false) ∧ (25 ≤ t) ∧ (t ≠ 44) ∧ (t ≠ 49) ∧ (t ≠ 50) ∧ (msiVector a = none)) ∧
    (∃ (s : State) (m : Nat) (g : Nat) (a : Nat) (t : Nat) (d : List Byte), (regBase ≤ a) ∧ (d ≠ []) ∧ (listedMaster m = true) ∧ (s.part.numbered.chip.check { master := m, tag := g, addr := a, len := d.length, write := true } = some (.sliceTag, t))) ∧
    (∃ (s : State) (m : Nat) (g : Nat) (a : Nat) (l : Nat) (t : Nat), (regBase ≤ a) ∧ (l ≠ 0) ∧ (listedMaster m = true) ∧ (s.part.numbered.chip.check { master := m, tag := g, addr := a, len := l, write := false } = none) ∧ (s.part.numbered.chip.target a = .ok t) ∧ (s.part.numbered.chip.gatedTarget t = false) ∧ (25 ≤ t) ∧ (t ≠ 44) ∧ (t ≠ 49) ∧ (t ≠ 50)) ∧
    (∃ (s : State) (p : Nat) (l : Nat), (p < 2) ∧ (l ≠ 0) ∧ (s.chip.recovers p = false) ∧ (s.chip.hostServed p = true)) ∧
    (∃ (s : State) (p : Nat) (d : List Byte), (p < 2) ∧ (d ≠ []) ∧ (s.chip.recovers p = false) ∧ (s.chip.hostServed p = true)) :=
  ⟨⟨tMesh, 0, 0, 0x100000, false, 4, false, [], by decide⟩,
    ⟨tMesh, 0, 0, 0x100000, false, 4, false, [], by decide⟩,
    ⟨tMesh, 0, 0, 0x100000, false, 4, false, [], ⟨by decide, by decide, by decide, rfl, by decide⟩⟩,
    ⟨tMesh, 0, 0, blockAddr 3, 28, [0], ⟨by decide, by decide, by decide, by decide, rfl, by decide, by decide, by decide, by decide, by decide, by decide⟩⟩,
    ⟨tMesh, 0, 5, aonBase, 49, [0], by decide⟩,
    ⟨tMesh, 0, 0, blockAddr 3, 4, 28, ⟨by decide, by decide, by decide, by decide, rfl, by decide, by decide, by decide, by decide, by decide⟩⟩,
    ⟨{ tMesh with chip := tMesh.chip.setFld (LNK_PORT_STATUS 0) LNK_PORT_STATUS.MODE pmEndpoint }, 0, 4, by decide⟩,
    ⟨{ tMesh with chip := tMesh.chip.setFld (LNK_PORT_STATUS 0) LNK_PORT_STATUS.MODE pmEndpoint }, 0, [0], by decide⟩⟩

/-- States and operands that meet the hypotheses of RequestsReachTheirTargets, part 2 of 3. -/
theorem test_RequestsReachTheirTargets_meets_2 :
    (∃ (s : State) (p : Nat) (l : Nat), (p < 2) ∧ (l ≠ 0) ∧ (s.chip.recovers p = true)) ∧
    (∃ (s : State) (p : Nat), (s.chip.recovers p = false) ∧ (s.chip.hostServed p = false)) ∧
    (∃ (s : State) (m : Nat) (g : Nat) (p : Nat) (v : Nat), (v < 2048) ∧ (p < 2) ∧ (listedMaster m = true) ∧ ((s.chip.unpost (msiReq m g p v)).check (msiReq m g p v) = none)) ∧
    (∃ (s : State) (m : Nat) (g : Nat) (p : Nat) (v : Nat) (t : Nat) (e : Deny), (v < 2048) ∧ (p < 2) ∧ (listedMaster m = true) ∧ ((s.chip.unpost (msiReq m g p v)).check (msiReq m g p v) = some (e, t))) ∧
    (∃ (s : State) (m : Nat) (g : Nat) (a : Nat) (t : Nat) (d : List Byte), (s.chip.bridged a = some t) ∧ (d ≠ []) ∧ (listedMaster m = true) ∧ (s.part.numbered.chip.check { master := m, tag := g, addr := a, len := d.length, write := true } = none) ∧ (s.chip.gatedTarget t = false)) ∧
    (∃ (s : State) (m : Nat) (a : Nat) (l : Nat), ((s.chip.bridged a).isSome = true) ∧ (l ≠ 0) ∧ (listedMaster m = true)) ∧
    (∃ (s : State) (e : BridgeRead), (nextFetch s.chip.link.bridge = some e)) ∧
    (∃ (s : State), (nextFetch s.chip.link.bridge = none)) :=
  ⟨⟨{ chip := Chip.setFld { power := { mode := .recovery } } (LNK_PORT_STATUS 1) LNK_PORT_STATUS.MODE pmRecovery }, 1, 4, by decide⟩,
    ⟨tState {}, 0, by decide⟩,
    ⟨tMesh, 0, 0, 0, 31, by decide⟩,
    ⟨tMesh, 0, 0, 0, 32, 42, .sliceTag, by decide⟩,
    ⟨tMesh, 0, 0, aonBase, 49, [0], by decide⟩,
    ⟨tMesh, 0, aonBase, 4, by decide⟩,
    ⟨tState ({ link := { bridge := [{ master := 0, tag := 0, addr := aonBase, len := 4, cls := 0 }] } }), _, rfl⟩,
    ⟨tState {}, by decide⟩⟩

/-- States and operands that meet the hypotheses of RequestsReachTheirTargets, part 3 of 3. -/
theorem test_RequestsReachTheirTargets_meets_3 :
    (∃ (s : State) (m : Nat) (g : Nat) (a : Nat) (t : Nat) (d : List Byte), (regBase ≤ a) ∧ (d ≠ []) ∧ (listedMaster m = true) ∧ (s.part.numbered.chip.check { master := m, tag := g, addr := a, len := d.length, write := true } = none) ∧ (s.part.numbered.chip.target a = .ok t) ∧ (s.part.numbered.chip.gatedTarget t = true)) ∧
    (∃ (s : State) (m : Nat) (g : Nat) (a : Nat) (t : Nat) (d : List Byte), (regBase ≤ a) ∧ (d ≠ []) ∧ (listedMaster m = true) ∧ (s.part.numbered.chip.check { master := m, tag := g, addr := a, len := d.length, write := true } = none) ∧ (s.part.numbered.chip.target a = .ok t) ∧ (s.part.numbered.chip.gatedTarget t = false) ∧ (t = 49 ∨ t = 44)) ∧
    (∃ (m : Nat), (listedMaster m = false)) :=
  ⟨⟨{ tMesh with chip := { tMesh.chip with power := { tMesh.chip.power with gated := 2 ^ 8 } } }, 0, 0, aonBase, 49, [0], ⟨by decide, by decide, by decide, by decide, rfl, by decide⟩⟩,
    ⟨tMesh, 0, 0, aonBase, 49, [0], ⟨by decide, by decide, by decide, by decide, rfl, by decide, by decide⟩⟩,
    ⟨0x20, by decide⟩⟩

/-- States and operands that meet the hypotheses of TheTwinPairsAndBeats, part 1 of 2. -/
theorem test_TheTwinPairsAndBeats_meets_1 :
    (∃ (s : State), (s.chip.power.mode ≠ .recovery) ∧ (s.chip.twinPort = true) ∧ (s.chip.twin ≠ twDetached) ∧ (s.chip.vehicleUp = true)) ∧
    (∃ (s : State), (s.chip.power.mode = .recovery) ∧ (s.chip.portMode 0 = pmRecovery)) ∧
    (∃ (s : State), (s.chip.canPair = true)) ∧
    (∃ (s : State), (s.chip.canPair = false)) ∧
    (∃ (s : State), (s.chip.canPair = true) ∧ (s.chip.twin = twPairing) ∧ (s.chip.link.nonce.isNone = false)) ∧
    (∃ (s : State), (s.chip.canPair = true) ∧ (s.chip.twin = twPairing)) ∧
    (∃ (s : State), (s.chip.twin ≠ twPairing)) ∧
    (∃ (s : State) (t : Nat), (s.chip.link.faultAt = some t) ∧ (s.chip.canPair = true) ∧ (s.chip.twin = twFault) ∧ (t + 1000000000 ≤ s.chip.now)) :=
  ⟨⟨tState (tTwin 0), by decide⟩,
    ⟨tState (tRecover), by decide⟩,
    ⟨tState (tTwin 1), by decide⟩,
    ⟨tState {}, by decide⟩,
    ⟨tState ({ tTwin 1 with link := { nonce := some [] } }), by decide⟩,
    ⟨tState (tTwin 1), by decide⟩,
    ⟨tState (tTwin 2), by decide⟩,
    ⟨tState ({ tTwin 5 with now := 10 ^ 9, link := { faultAt := some 0 } }), 0, by decide⟩⟩

/-- States and operands that meet the hypotheses of TheTwinPairsAndBeats, part 2 of 2. -/
theorem test_TheTwinPairsAndBeats_meets_2 :
    (∃ (s : State) (t : Nat), (s.chip.link.faultAt = some t) ∧ (s.chip.now < t + 1000000000)) ∧
    (∃ (s : State), (s.chip.beatDue = true)) ∧
    (∃ (s : State), (s.chip.beatDue = false)) ∧
    (∃ (s : State), (s.chip.twinOn = true)) ∧
    (∃ (s : State), (s.chip.windowOver = true)) ∧
    (∃ (s : State), (s.chip.windowOver = false)) ∧
    (∃ (s : State) (p : Nat), (p < 2) ∧ (s.chip.portUp p = true)) ∧
    (∃ (s : State) (p : Nat), (s.chip.portUp p = false)) :=
  ⟨⟨tState ({ tTwin 5 with link := { faultAt := some 0 } }), 0, by decide⟩,
    ⟨tState (tTwin 2), by decide⟩,
    ⟨tState (tTwin 4), by decide⟩,
    ⟨tState (tTwin 2), by decide⟩,
    ⟨tState ({ tTwin 2 with now := 500000 }), by decide⟩,
    ⟨tState (tTwin 4), by decide⟩,
    ⟨tState (tTwin 2), 0, by decide⟩,
    ⟨tState {}, 1, by decide⟩⟩

/-- States and operands that meet the hypotheses of CheckpointsDetachAndRecovery, part 1 of 2. -/
theorem test_CheckpointsDetachAndRecovery_meets_1 :
    (∃ (s : State) (n : Nat) (w : UnitWait), (s.chip.nextCkpt = some w) ∧ (w.who = .checkpoint n) ∧ (w.err = false) ∧ (s.chip.paired = true)) ∧
    (∃ (s : State) (n : Nat) (w : UnitWait), (s.chip.nextCkpt = some w) ∧ (w.who = .checkpoint n) ∧ (w.err = true)) ∧
    (∃ (s : State) (n : Nat), (∀ x, s.chip.nextCkpt = some x → x.who ≠ .checkpoint n)) ∧
    (∃ (s : State) (n : Nat) (a : W64) (d : List Byte) (k : Nat) (c : Chip), (s.chip.paired = true) ∧ (n < 16) ∧ (s.chip.saveRange hostMaster0 s.chip.ckptTag (a.toNat % 2 ^ 48) d = (.ok, k, c))) ∧
    (∃ (s : State) (n : Nat) (a : W64) (d : List Byte) (k : Nat) (c : Chip), (s.chip.paired = true) ∧ (n < 16) ∧ (s.chip.saveRange hostMaster0 s.chip.ckptTag (a.toNat % 2 ^ 48) d = (.denied, k, c))) ∧
    (∃ (s : State) (n : Nat) (v : W64), (s.chip.twinOn = true) ∧ (s.chip.link.ckptSent.contains (n, v.toNat) = true)) ∧
    (∃ (s : State), (s.chip.paired = true)) ∧
    (∃ (s : State), (s.chip.paired = false)) :=
  ⟨⟨tState ({ tTwin 2 with unitWaits := [{ who := .checkpoint 0, obj := 0, threshold := 0, met := true, err := false }] }), 0, { who := .checkpoint 0, obj := 0, threshold := 0, met := true, err := false }, by decide⟩,
    ⟨tState ({ tTwin 2 with unitWaits := [{ who := .checkpoint 0, obj := 0, threshold := 0, met := true, err := true }] }), 0, { who := .checkpoint 0, obj := 0, threshold := 0, met := true, err := true }, by decide⟩,
    ⟨tState ({ unitWaits := [{ who := .checkpoint 0, obj := 0, threshold := 0 }] }), 0, fun x h => by simp [Chip.nextCkpt, tState] at h⟩,
    ⟨tState ({ (tTwin 2).setReg (ACC_ENTRY 0 44) 3 with owners := (List.range 32).map (fun i => (i, 1)) }), 15, 0x100000, [0], _, _, ⟨by decide, by decide, rfl⟩⟩,
    ⟨tState (tTwin 2), 15, 0x100000, [0], _, _, ⟨by decide, by decide, rfl⟩⟩,
    ⟨tState ({ tTwin 2 with link := { ckptSent := [(0, 7)] } }), 0, 7, by decide⟩,
    ⟨tState (tTwin 2), by decide⟩,
    ⟨tState (tTwin 1), by decide⟩⟩

/-- States and operands that meet the hypotheses of CheckpointsDetachAndRecovery, part 2 of 2. -/
theorem test_CheckpointsDetachAndRecovery_meets_2 :
    (∃ (s : State), (s.chip.link.detaching = true) ∧ (s.chip.twinOn = true)) ∧
    (∃ (t : Nat), (t ≠ 0)) ∧
    (∃ (s : State), (s.chip.twinOn = true) ∧ (bitOf (s.chip.domU 17 1) 0 = true)) ∧
    (∃ (s : State), (s.chip.twinOn = true) ∧ (bitOf (s.chip.domU 17 1) 0 = false)) ∧
    (∃ (s : State) (o : Nat) (d : List Byte), (s.chip.recoveryOn = true) ∧ (s.chip.fld REC_STATUS REC_STATUS.STATE ≠ 2) ∧ (o + d.length ≤ stageSize)) ∧
    (∃ (s : State) (l : Nat), (s.chip.recoveryOn = true) ∧ (s.chip.fld REC_STATUS REC_STATUS.STATE ≠ 2) ∧ (l ≠ 0)) ∧
    (∃ (s : State), (s.chip.recoveryOn = false)) :=
  ⟨⟨tState ({ tTwin 2 with link := { detaching := true } }), by decide⟩,
    ⟨1, by decide⟩,
    ⟨tState ({ tTwin 2 with power := { mode := .active, profile := putAt (List.replicate 96 0) 0 (List.replicate 7 0 ++ [4] ++ List.replicate 24 0 ++ leBytes 4 40 ++ List.replicate 4 0 ++ leBytes 4 0x444F4D4E ++ List.replicate 13 0 ++ [1]) } }), by decide⟩,
    ⟨tState (tTwin 2), by decide⟩,
    ⟨tState (tRecover), 0, [0], by decide⟩,
    ⟨tState (tRecover), 4, by decide⟩,
    ⟨tState {}, by decide⟩⟩

/-- States and operands that meet the hypotheses of DomainsAnnounceStageAndSwitch, part 1 of 2. -/
theorem test_DomainsAnnounceStageAndSwitch_meets_1 :
    (∃ (s : State) (p : Packet) (st : Nat), (s.chip.startedAs p 0x900) ∧ (s.chip.stageStatus p = some st)) ∧
    (∃ (s : State) (p : Packet) (b : List Byte) (c : Chip), (s.chip.startedAs p 0x900) ∧ (s.chip.stageStatus p = none) ∧ (s.chip.stageList p = (.ok, b, c))) ∧
    (∃ (s : State) (p : Packet) (b : List Byte) (c : Chip), (s.chip.startedAs p 0x900) ∧ (s.chip.stageStatus p = none) ∧ (s.chip.stageList p = (.denied, b, c))) ∧
    (∃ (s : State) (p : Packet), (s.chip.startedAs p 0x901) ∧ (p.u 40 8 ≠ 0) ∧ (zeroIn p.bytes 48 64 = true) ∧ (s.chip.domain.pending = none) ∧ (s.chip.stagedIs p = true) ∧ (timeBefore (p.u 40 8) (s.chip.now + 200000000) = false)) ∧
    (∃ (s : State) (p : Packet) (w : Switch), (s.chip.startedAs p 0x901) ∧ (p.u 40 8 ≠ 0) ∧ (zeroIn p.bytes 48 64 = true) ∧ (s.chip.domain.pending = some w) ∧ (s.chip.stagedIs p = true) ∧ (w.time = p.u 40 8)) ∧
    (∃ (s : State) (p : Packet), (s.chip.startedAs p 0x901) ∧ (p.u 40 8 ≠ 0) ∧ (zeroIn p.bytes 48 64 = true) ∧ (s.chip.domain.pending = none) ∧ (s.chip.stagedIs p = false ∨ timeBefore (p.u 40 8) (s.chip.now + 200000000) = true)) ∧
    (∃ (s : State) (p : Packet), (s.chip.startedAs p 0x901) ∧ (p.u 40 8 = 0) ∧ (zeroIn p.bytes 48 64 = true)) ∧
    (∃ (s : State) (w : Switch) (g : Staged), (s.chip.domain.pending = some w) ∧ (s.chip.domain.staged = some g) ∧ (timeBefore s.chip.now w.time = false) ∧ (s.chip.power.mode = .active)) :=
  ⟨⟨tState (tDom (tStage 0)), tStage 0, stBadParam, by decide⟩,
    ⟨tState ((tDom (tStage 5)).setReg (ACC_ENTRY 0 0x29) 3), tStage 5, _, _, ⟨by decide, by decide, rfl⟩⟩,
    ⟨tState ((tDom (tStage 5)).setReg (ACC_ENTRY 0 0x29) 0), tStage 5, _, _, ⟨by decide, by decide, rfl⟩⟩,
    ⟨tState ({ tDom (tSw 5 (10 ^ 9)) with domain := { staged := some tStaged } }), tSw 5 (10 ^ 9), by decide⟩,
    ⟨tState ({ tDom (tSw 5 (10 ^ 9)) with domain := { staged := some tStaged, pending := some { time := 10 ^ 9, packets := [] } } }), tSw 5 (10 ^ 9), _, ⟨by decide, by decide, by decide, rfl, by decide, by decide⟩⟩,
    ⟨tState (tDom (tSw 5 (10 ^ 9))), tSw 5 (10 ^ 9), by decide⟩,
    ⟨tState (tDom (tSw 5 0)), tSw 5 0, by decide⟩,
    ⟨tState ({ power := { mode := .active }, now := 9, domain := { staged := some tStaged, pending := some { time := 9, packets := [] } } }), _, _, ⟨rfl, rfl, by decide, by decide⟩⟩⟩

/-- States and operands that meet the hypotheses of DomainsAnnounceStageAndSwitch, part 2 of 2. -/
theorem test_DomainsAnnounceStageAndSwitch_meets_2 :
    ∃ (s : State) (w : Switch) (g : Staged), (s.chip.domain.pending = some w) ∧ (s.chip.domain.staged = some g) ∧ (timeBefore s.chip.now w.time = true) :=
  ⟨tState ({ power := { mode := .active }, domain := { staged := some tStaged, pending := some { time := 9, packets := [] } } }), _, _, ⟨rfl, rfl, by decide⟩⟩

/-- States and operands that meet the hypotheses of TheNetworkMovesFrames, part 1 of 3. -/
theorem test_TheNetworkMovesFrames_meets_1 :
    (∃ (s : State) (n : Nat) (d : List Byte), (n < 8) ∧ (s.chip.switching = true) ∧ (14 ≤ d.length) ∧ (d.length + 4 ≤ 9216)) ∧
    (∃ (s : State) (n : Nat) (d : List Byte), (n < 8) ∧ (s.chip.switching = true) ∧ (d.length < 14 ∨ 9216 < d.length + 4)) ∧
    (∃ (s : State) (n : Nat) (q : Nat) (f : EthFrame), (s.chip.maySend n = true) ∧ (s.chip.egressQueue n = some (q, f))) ∧
    (∃ (s : State) (n : Nat), (s.chip.maySend n = false ∨ s.chip.egressQueue n = none)) ∧
    (∃ (s : State) (n : Nat) (g : GateRun), (AMap.get? s.chip.net.nextGates n = some g) ∧ (g.since ≤ s.chip.now)) ∧
    (∃ (s : State) (n : Nat) (g : GateRun), (AMap.get? s.chip.net.nextGates n = none) ∧ (AMap.get? s.chip.net.gates n = some g)) ∧
    (∃ (s : State) (t : Nat) (r : Nat) (v : W32), (r < 8) ∧ (s.chip.netTagOk t = true) ∧ ((s.chip.setReg (NET_DMA_TAIL r) v.toNat).flag (NET_DMA_RING r) NET_DMA_RING.EN = true)) ∧
    (∃ (s : State) (t : Nat) (r : Nat), (r < 16) ∧ (8 ≤ r) ∧ (s.chip.netTagOk t = true)) :=
  ⟨⟨tState (tNet), 0, List.replicate 14 0, by decide⟩,
    ⟨tState (tNet), 0, [], by decide⟩,
    ⟨tState ({ tNet with net := { image := tSwitch, queues := [(0, [tFrame])] } }), 0, _, _, ⟨by decide, rfl⟩⟩,
    ⟨tState {}, 0, by decide⟩,
    ⟨tState ({ net := { nextGates := [(0, { entries := [(1, 9)], index := 0, since := 0 })] } }), 0, _, ⟨rfl, by decide⟩⟩,
    ⟨tState ({ net := { gates := [(0, { entries := [(1, 9)], index := 0, since := 0 })] } }), 0, _, ⟨by decide, rfl⟩⟩,
    ⟨tState (tNet.setFld (NET_DMA_RING 0) NET_DMA_RING.EN 1), 0, 0, 1, by decide⟩,
    ⟨tState (tNet), 0, 15, by decide⟩⟩

/-- States and operands that meet the hypotheses of TheNetworkMovesFrames, part 2 of 3. -/
theorem test_TheNetworkMovesFrames_meets_2 :
    (∃ (s : State) (t : Nat), (s.chip.netTagOk t = false)) ∧
    (∃ (s : State) (n : Nat), (s.chip.recoveryOld n = true)) ∧
    (∃ (s : State) (n : Nat), (s.chip.recoveryOld n = false)) ∧
    (∃ (s : State) (n : Nat), (n < 8) ∧ (s.chip.flag (NET_PORT_STATUS n) NET_PORT_STATUS.UP = true)) ∧
    (∃ (s : State) (n : Nat) (sof : W64) (idw : W32) (fl : Nat) (sd : Nat) (vc : Nat) (af : W32) (d : List Byte) (e : List Byte) (c : Chip), (s.chip.canOn n = true) ∧ (s.chip.canTakes n { idw := idw.toNat % 2 ^ 31, flags := fl % 16, sdt := sd % 256, vcid := vc % 256, af := af.toNat, data := d } = true) ∧ (s.chip.wheelFrames n (idw.toNat % 2 ^ 31) sof.toNat d = c) ∧ (c.routeOf n { idw := idw.toNat % 2 ^ 31, flags := fl % 16, sdt := sd % 256, vcid := vc % 256, af := af.toNat, data := d } = some e)) ∧
    (∃ (s : State) (n : Nat) (sof : W64) (idw : W32) (fl : Nat) (sd : Nat) (vc : Nat) (af : W32) (d : List Byte) (c : Chip), (s.chip.canOn n = true) ∧ (s.chip.canTakes n { idw := idw.toNat % 2 ^ 31, flags := fl % 16, sdt := sd % 256, vcid := vc % 256, af := af.toNat, data := d } = true) ∧ (s.chip.wheelFrames n (idw.toNat % 2 ^ 31) sof.toNat d = c) ∧ (c.routeOf n { idw := idw.toNat % 2 ^ 31, flags := fl % 16, sdt := sd % 256, vcid := vc % 256, af := af.toNat, data := d } = none)) ∧
    (∃ (s : State) (t : Nat) (n : Nat), (n < 16) ∧ (t = 0 ∨ t = s.chip.canTag)) ∧
    (∃ (s : State) (t : Nat), (t ≠ 0) ∧ (t ≠ s.chip.canTag)) :=
  ⟨⟨tState (tNet), 9, by decide⟩,
    ⟨tState ({ net := { image := putAt (putAt tSwitch 40 (leBytes 4 72 ++ leBytes 4 1)) 80 [1], recovery := [(0, { seq := 0, seen := [], last := 0 })] } }), 0, by decide⟩,
    ⟨tState (tNet), 0, by decide⟩,
    ⟨tState (tNet), 0, by decide⟩,
    ⟨tState ({ tCan with net := { image := putAt (putAt tSwitch 48 (leBytes 4 72 ++ leBytes 4 1)) 80 [31] } }), 0, 0, 0, 0, 0, 0, 0, [1], _, _, ⟨by decide, by decide, rfl, rfl⟩⟩,
    ⟨tState (tCan), 0, 0, 0, 0, 0, 0, 0, [1], _, ⟨by decide, by decide, rfl, by decide⟩⟩,
    ⟨tState {}, 0, 15, by decide⟩,
    ⟨tState {}, 9, by decide⟩⟩

/-- States and operands that meet the hypotheses of TheNetworkMovesFrames, part 3 of 3. -/
theorem test_TheNetworkMovesFrames_meets_3 :
    (∃ (s : State) (n : Nat) (r : CanFrame × Chip), (s.chip.canOn n = true) ∧ (s.chip.canOffer n = some r)) ∧
    (∃ (s : State) (n : Nat) (b : Bool), (b = false ∨ s.chip.canOffer n = none)) ∧
    (∃ (n : Nat), (n < 16)) :=
  ⟨⟨tState ({ tCan with net := { gateway := [(0, [tCanF])] } }), 0, _, ⟨by decide, rfl⟩⟩,
    ⟨tState {}, 0, false, by decide⟩,
    ⟨15, by decide⟩⟩

/-- States and operands that meet the hypotheses of DeviceTimeIsKept, part 1 of 2. -/
theorem test_DeviceTimeIsKept_meets_1 :
    (∃ (s : State) (n : Nat), (s.chip.ptpOn n = true) ∧ (n = s.chip.slavePort)) ∧
    (∃ (s : State) (n : Nat), (n ≠ s.chip.slavePort)) ∧
    (∃ (s : State) (n : Nat) (k : Nat) (b : List Byte), (s.chip.syncMaster n = true) ∧ (s.chip.syncOut n = some (b, k))) ∧
    (∃ (s : State) (n : Nat), (s.chip.syncMaster n = false ∨ s.chip.syncOut n = none)) ∧
    (∃ (s : State) (n : Nat), (s.chip.ptpOn n = true) ∧ (s.chip.flag (NET_PORT_STATUS n) NET_PORT_STATUS.UP = true)) ∧
    (∃ (s : State) (n : Nat), (s.chip.ptpOn n = true)) ∧
    (∃ (s : State) (n : Nat), (s.chip.ptpOn n = false)) ∧
    (∃ (s : State), (s.chip.syncMissing = true)) :=
  ⟨⟨tState (tSlave), 0, by decide⟩,
    ⟨tState (tSlave), 1, by decide⟩,
    ⟨tState (tMaster), 0, _, _, ⟨by decide, rfl⟩⟩,
    ⟨tState {}, 0, by decide⟩,
    ⟨tState (tNet), 0, by decide⟩,
    ⟨tState (tNet), 0, by decide⟩,
    ⟨tState {}, 0, by decide⟩,
    ⟨tState ({ tSlave with now := 3 * 10 ^ 9 }), by decide⟩⟩

/-- States and operands that meet the hypotheses of DeviceTimeIsKept, part 2 of 2. -/
theorem test_DeviceTimeIsKept_meets_2 :
    (∃ (s : State), (s.chip.syncMissing = false)) ∧
    (∃ (s : State), (s.chip.holdoverOver = true)) ∧
    (∃ (s : State), (s.chip.holdoverOver = false)) ∧
    (∃ (s : State) (n : Nat) (g : W64), (s.chip.ptpOn n = true) ∧ (s.chip.ptpU 0 1 = 0) ∧ (g.toNat ≠ Config.clockIdentity.toNat)) ∧
    (∃ (t : Nat), (t ≠ 0)) :=
  ⟨⟨tState {}, by decide⟩,
    ⟨tState ({ (tSlave.setQuality 1) with net := { image := tSwitch, heldSince := some 0 } }), by decide⟩,
    ⟨tState {}, by decide⟩,
    ⟨tState (tNet), 0, tGm, ⟨by decide, by decide, tGm_other⟩⟩,
    ⟨1, by decide⟩⟩

/-- States and operands that meet the hypotheses of StepRunsTheFrontCommand. -/
theorem test_StepRunsTheFrontCommand_meets :
    (∃ (i : Instr) (l : List Instr) (s : State), (s.pending = i :: l)) ∧
    (∃ (s : State), (s.pending = [])) ∧
    (∃ (s : State), (s.pending = []) ∧ (s.chip.posted = []) ∧ (s.chip.eccHeld = [])) :=
  ⟨⟨.pgoodRise, [], { State.reset with pending := [.pgoodRise] }, by decide⟩,
    ⟨State.reset, by decide⟩,
    ⟨State.reset, by decide⟩⟩

/-- States and operands that meet the hypotheses of AccessTablesDecide. -/
theorem test_AccessTablesDecide_meets :
    (∃ (c : Chip) (q : Req) (t : Nat) (t' : Nat), (0 < q.len) ∧ (c.target q.addr = .ok t) ∧ (c.target (q.addr + q.len - 1) = .ok t') ∧ (∀ w < 8, ¬ (c.fld (ACC_WIN_BASE t w) ACC_WIN_BASE.EN = 1 ∧ c.fld (ACC_WIN_BASE t w) ACC_WIN_BASE.BASE * 4096 ≤ q.addr ∧ q.addr + q.len ≤ (c.fld (ACC_WIN_LIMIT t w) ACC_WIN_LIMIT.LIMIT + 1) * 4096))) ∧
    (∃ (c : Chip) (q : Req) (t : Nat) (t' : Nat) (w : Nat), (0 < q.len) ∧ (c.target q.addr = .ok t) ∧ (c.target (q.addr + q.len - 1) = .ok t') ∧ (w < 8) ∧ ((c.fld (ACC_WIN_BASE t w) ACC_WIN_BASE.EN = 1 ∧ c.fld (ACC_WIN_BASE t w) ACC_WIN_BASE.BASE * 4096 ≤ q.addr ∧ q.addr + q.len ≤ (c.fld (ACC_WIN_LIMIT t w) ACC_WIN_LIMIT.LIMIT + 1) * 4096)) ∧ (∀ v < w, ¬ (c.fld (ACC_WIN_BASE t v) ACC_WIN_BASE.EN = 1 ∧ c.fld (ACC_WIN_BASE t v) ACC_WIN_BASE.BASE * 4096 ≤ q.addr ∧ q.addr + q.len ≤ (c.fld (ACC_WIN_LIMIT t v) ACC_WIN_LIMIT.LIMIT + 1) * 4096)) ∧ ((c.fld (ACC_ENTRY t (q.master / 2)) (if q.master % 2 = 1 then ACC_ENTRY.ENTRY_HI else ACC_ENTRY.ENTRY_LO)).testBit (2 * w + (if q.write then 1 else 0)) = true)) ∧
    (∃ (c : Chip) (q : Req) (t : Nat) (t' : Nat) (w : Nat), (0 < q.len) ∧ (c.target q.addr = .ok t) ∧ (c.target (q.addr + q.len - 1) = .ok t') ∧ (w < 8) ∧ ((c.fld (ACC_WIN_BASE t w) ACC_WIN_BASE.EN = 1 ∧ c.fld (ACC_WIN_BASE t w) ACC_WIN_BASE.BASE * 4096 ≤ q.addr ∧ q.addr + q.len ≤ (c.fld (ACC_WIN_LIMIT t w) ACC_WIN_LIMIT.LIMIT + 1) * 4096)) ∧ (∀ v < w, ¬ (c.fld (ACC_WIN_BASE t v) ACC_WIN_BASE.EN = 1 ∧ c.fld (ACC_WIN_BASE t v) ACC_WIN_BASE.BASE * 4096 ≤ q.addr ∧ q.addr + q.len ≤ (c.fld (ACC_WIN_LIMIT t v) ACC_WIN_LIMIT.LIMIT + 1) * 4096)) ∧ ((c.fld (ACC_ENTRY t (q.master / 2)) (if q.master % 2 = 1 then ACC_ENTRY.ENTRY_HI else ACC_ENTRY.ENTRY_LO)).testBit (2 * w + (if q.write then 1 else 0)) = false)) :=
  ⟨⟨{ capacity := 65536 }, { master := 0, tag := 0, addr := 0, len := 1, write := false }, 0, 0, ⟨by decide, rfl, rfl, by decide⟩⟩,
    ⟨tWinChip, { master := 0x4C, tag := 0, addr := 0, len := 1, write := false }, 0, 0, 1, ⟨by decide, rfl, rfl, by decide, by decide, by decide, by decide⟩⟩,
    ⟨tWinChip, { master := 0x4C, tag := 0, addr := 0, len := 1, write := true }, 0, 0, 1, ⟨by decide, rfl, rfl, by decide, by decide, by decide, by decide⟩⟩⟩

/-- States and operands that meet the hypotheses of TileRegistersAdmitTheirSlice. -/
theorem test_TileRegistersAdmitTheirSlice_meets :
    ∃ (c : Chip) (q : Req) (n : Nat), (n < 192) ∧ (0 < q.len) ∧ (blockAddr 3 + n * 0x10000 ≤ q.addr) ∧ (q.addr + q.len ≤ blockAddr 3 + (n + 1) * 0x10000) ∧ (c.checkWindow 28 q = none) :=
  ⟨tTileRegs, { master := 0x4C, tag := 5, addr := blockAddr 3 + 2 * 0x10000, len := 4, write := false }, 2, by decide⟩

/-- States and operands that meet the hypotheses of MemoryAnswersItsWrites. -/
theorem test_MemoryAnswersItsWrites_meets :
    ∃ (m : Memory) (k : Memory), (Memory.wf m = true) ∧ (Memory.wf k = true) ∧ (∀ a, memGet m a = memGet k a) :=
  ⟨[(4, 7)], [(4, 7)], ⟨by decide, by decide, fun _ => rfl⟩⟩

/-- States and operands that meet the hypotheses of SignalsOnSyncObjects. -/
theorem test_SignalsOnSyncObjects_meets :
    (∃ (v : Nat), (v < 2 ^ 63)) ∧
    (∃ (v : Nat), (v < 2 ^ 63)) ∧
    (∃ (v : Nat) (w : Nat), (v < 2 ^ 63) ∧ (w < 2 ^ 63)) :=
  ⟨⟨9223372036854775807, by decide⟩,
    ⟨9223372036854775807, by decide⟩,
    ⟨9223372036854775807, 3, by decide⟩⟩

/-- States and operands that meet the hypotheses of CommandsLeaveQueueAndSecureWorld. -/
theorem test_CommandsLeaveQueueAndSecureWorld_meets :
    (∃ (i : Instr) (s : State) (t : State), (exec i s = .next t)) ∧
    (∃ (i : Instr) (s : State) (t : State), (exec i s = .next t) ∧ (reachesSecure i = false)) :=
  ⟨⟨.pgoodRise, { State.reset with pending := [.pgoodRise] }, _, rfl⟩,
    ⟨.leakTick 0, State.reset, _, ⟨rfl, rfl⟩⟩⟩

/-- States and operands that meet the hypotheses of CommandsThatStoreNothing. -/
theorem test_CommandsThatStoreNothing_meets :
    ∃ (i : Instr) (s : State) (t : State), (storesNothing i = true) ∧ (s.chip.err.safetyDue = false) ∧ (exec i s = .next t) :=
  ⟨.leakTick 0, State.reset, _, ⟨rfl, rfl, rfl⟩⟩

/-- States and operands that meet the hypotheses of StepKeepsTheMemoryForm. -/
theorem test_StepKeepsTheMemoryForm_meets :
    ∃ (s : State) (t : State), (s.chip.memOk = true) ∧ (step s = .next t) :=
  ⟨State.reset, _, ⟨by decide, rfl⟩⟩

/-- States and operands that meet the hypotheses of StepKeepsTheSecureRecord. -/
theorem test_StepKeepsTheSecureRecord_meets :
    (∃ (s : State) (t : State), (s.sec.debugOk = true) ∧ (step s = .next t)) ∧
    (∃ (s : State) (t : State), (step s = .next t)) :=
  ⟨⟨State.reset, _, ⟨by decide, rfl⟩⟩,
    ⟨State.reset, _, rfl⟩⟩

/-- An ill-formed command for each check of the operands, part 1: an index just past its range. -/
theorem test_ill_formed_1 : ([
    .meshRequest 0 64 0 0 false false 0 false [], .meshRequest 0 0 4 0 false false 0 false [],
    .meshRequest 0 0 0 (2 ^ 48) false false 0 false [], .slicetagWrite 20 0 0, .slicetagWrite 0 5 0,
    .accPasidMapWrite 0 64 0 0, .accPasidMapWrite 0 0 64 0, .accTableWrite 0 0 64 0 0,
    .accTableWrite 0 0 0 0x1000 0, .doorbellLowerHalfWrite 0 0x5000 0, .doorbellBadAccess 0 0 0x10000 false,
    .ringEnable 0 16 0, .ringEnable 0 0 32, .syncWindowWrite 0 4096 0, .grpOppCapWrite 0 12 0,
    .tileLfsrWrite 0 0 192 0, .instructionComplete 0 4, .ibufFillDone 0 8, .rillStrided 0 4,
    .tileQueueRelease 0 16, .dceLfsrWrite 0 0 0 2 0, .engineDescriptorDone 0 3, .modelLoadDone 1024,
    .triggerEnable 0 16 0, .cameraRow 64 0 0 [], .cameraRow 0 65536 0 [], .cameraRow 0 0 3 [],
    .alignWaitExpiry 32, .l1Cycle 4, .lateRevision 65536 ] : List Instr).all (fun i => !i.wf) = true := by decide

/-- An ill-formed command for each check of the operands, part 2: an index just past its range. -/
theorem test_ill_formed_2 : ([
    .alePortCfgWrite 0 4 0, .audioRingEnable 0 8 0, .passComplete ⟨0, []⟩ 6 0 0 [], .passComplete ⟨0, []⟩ 0 8 0 [],
    .dspPipeEnable 0 4 0, .displayLinkTraining 0 0 0 false 3 0, .displayLinkTraining 0 0 0 false 0 5,
    .deadlineMiss 32, .checkerTest 7 false 0 0, .checkerTest 0 false 256 0, .selftestOverdue 263,
    .errorRecord 4 0 0 0 0 0 0 0 0 0, .errorRecord 0 256 0 0 0 0 0 0 0 0, .errorRecord 0 0 16 0 0 0 0 0 0 0,
    .errorRecord 0 0 0 4096 0 0 0 0 0 0, .errorRecord 0 0 0 0 256 0 0 0 0 0, .errorRecord 0 0 0 0 0 0 2 0 0 0,
    .pageOwnerSet 0 0 32 0 0, .pageOwnerSet 0 0 0 (2 ^ 64) 0, .pageOwnerSet 0 0 0 0 (2 ^ 64), .claimRelease 9,
    .ownerEntryRepair (2 ^ 21), .zeroFillDone (2 ^ 21), .arbiterGrant (2 ^ 9) [] false, .leakTick 256,
    .eccRegionWrite 0 16 false 0, .wakeEvent 5, .sluiceRequest 6 0 0 0 0 0, .sluiceRequest 0 0 0 0 65 0,
    .thermalEmergency 8 ] : List Instr).all (fun i => !i.wf) = true := by decide

/-- An ill-formed command for each check of the operands, part 3: an index just past its range. -/
theorem test_ill_formed_3 : ([
    .kernelWatchdogExpiry 4, .serviceRestart 8, .logAppend 0 0 4 0 0 0, .traceAppend 0 1024 0,
    .mbxUnknownCommand 0 4, .hostRequest 2 0 none 0 0 false [], .hostRequest 0 6 none 0 0 false [],
    .hostRequest 0 0 none (2 ^ 64) 0 false [], .msiWindowWrite 0 0 0 2048, .twinLinkUp 65536,
    .twinHello 256 0 (List.replicate 32 0), .twinHello 0 256 (List.replicate 32 0), .ckptAck 0 65536 0,
    .recReq (2 ^ 32) 0, .recReq 0 (2 ^ 32), .bridgeWrite 0 0 0 (2 ^ 32) [], .ethFrameRx 8 [], .ethFrameTx 11,
    .canFrameRx 16 0 0 0 0 0 0 [], .canFrameRx 0 0 0 16 0 0 0 [], .canFrameRx 0 0 0 0 256 0 0 [],
    .canFrameRx 0 0 0 0 0 256 0 [], .ptpSyncRx 0 0 (2 ^ 48) 0 0, .ptpSyncRx 0 0 0 1000000000 0,
    .ptpSyncRx 0 0 0 0 (2 ^ 63), .pdelayReq 0 0 65536 (List.replicate 10 0),
    .gptpAnnounce 0 false 256 0 0 0 0 0 0, .gptpAnnounce 0 false 0 256 0 0 0 0 0,
    .gptpAnnounce 0 false 0 0 256 0 0 0 0, .gptpAnnounce 0 false 0 0 0 65536 0 0 0 ] : List Instr).all (fun i => !i.wf) = true := by decide

/-- An ill-formed command for each check of the operands, part 4: an index just past its range. -/
theorem test_ill_formed_4 : ([
    .gptpAnnounce 0 false 0 0 0 0 256 0 0, .gptpAnnounce 0 false 0 0 0 0 0 0 65536,
    .meshRequest 0x20 0 0 0 false false 0 false [], .accPasidMapWrite 0x20 0 0 0, .accTableWrite 0x20 0 0 0 0,
    .registerWrite 0x20 0 0 [], .rcRegisterRead 0x20 0 0 0, .doorbellBadAccess 0x20 0 0 false,
    .syncWindowBadAccess 0x20 0 0 false, .tileLfsrWrite 0x20 0 0 0, .tileCounterClear 0x20 0 0 0,
    .dceLfsrWrite 0x20 0 0 0 0, .msiWindowWrite 0x20 0 0 0, .bridgeWrite 0x20 0 0 0 [], .bridgeRead 0x20 0 0 0,
    .netTimeRead 0x20 0, .selftestOverdue 192, .coldStart 17, .warmStart 17, .startTimeout 0, .startTimeout 17,
    .thermalSample (List.replicate 23 0), .hostRequest 0 0 (some (2 ^ 20)) 0 0 false [],
    .twinHello 0 0 (List.replicate 31 0), .twinReport (List.replicate 671 0),
    .canFrameRx 0 0 0 0 0 0 0 (List.replicate 2049 0), .pdelayReq 0 0 0 (List.replicate 9 0) ] : List Instr).all (fun i => !i.wf) = true := by decide

/-- A checkpoint segment past its size, and recovery data past its field. -/
theorem test_ill_formed_long (n : Nat) (v d : W64) (b : List Byte) :
    (0x4000000 < b.length → Instr.wf (.ckptStart n v d b) = false) ∧ (2 ^ 32 ≤ b.length → Instr.wf (.recData n b) = false) := by
  constructor <;> intro h
  · change (decide (n < 16) && decide (b.length ≤ 0x4000000)) = false
    rw [show decide (b.length ≤ 0x4000000) = false from decide_eq_false (by omega), Bool.and_false]
  · change (decide (n < 2 ^ 32) && decide (b.length < 2 ^ 32)) = false
    rw [show decide (b.length < 2 ^ 32) = false from decide_eq_false (by omega), Bool.and_false]

/-- A well-formed command is not refused. -/
theorem test_well_formed : ([.meshRequest 0x4C 0 0 0x5000000000 true false 4 false [], .tileNop 191, .coldStart 0] : List Instr).all Instr.wf = true := by decide

/-- The largest values of the small formats and 1.0 in FP32, from their field widths and biases: 448, 57,344, 6 and 1. -/
theorem test_formats : e4m3.decode 0x7E = .fin false 14 5 ∧ e5m2.decode 0x7B = .fin false 7 13 ∧ e2m1.decode 7 = .fin false 3 1 ∧
    (fp32.decode 0x3F800000).dy.le (.ofInt 1) = true ∧ (Dy.ofInt 1).le (fp32.decode 0x3F800000).dy = true := by decide

/-- Halfway cases go to the even BF16 value. -/
theorem test_rounds_to_even : bf16.encode .rne false (fp32.decode 0x3F808000) = 0x3F80 ∧ bf16.encode .rne false (fp32.decode 0x3F818000) = 0x3F82 := by decide

/-- The always-on window, a doorbell page, the last register block, an address of no target. -/
theorem test_targets : State.reset.chip.target 0x0050F0000000 = .ok 49 ∧ State.reset.chip.target (blockAddr 23) = .ok 48 ∧
    State.reset.chip.target 0x7FFFFFFFFFFF = .error 0x3F := ⟨rfl, rfl, rfl⟩

/-- The examples of the package: H23, AF56, T30, AB30 and AB31. -/
theorem test_balls : rowLetters 8 = ['H'] ∧ ballAt 8 23 = .lpddr 5 (.dq 1 7) ∧ rowNamed ['A', 'F'] = some 25 ∧ ballAt 25 56 = .csi 7 6 ∧
    rowNamed ['T'] = some 15 ∧ ballAt 15 30 = .supply .vddSoc ∧ rowNamed ['A', 'B'] = some 21 ∧ ballAt 21 30 = .supply .vddFab ∧
    ballAt 21 31 = .supply .vss := by decide

/-- R15: from group 5 (column 1, row 1) to N0 a request goes along its row and then its column; the response back goes along
the row of N0's group first. -/
theorem test_routes : requestRoute 5 12 = [5, 4, 0, 12] ∧ responseRoute 5 12 = [12, 0, 1, 5] := by decide

/-- R275: the largest 8-bit value is 1.0, and a nearest sample takes one slot where a trilinear 4 × one takes eight. -/
theorem test_texels : unorm 8 255 = 0x3F800000 ∧ (texOf [1, 0, 1]).slots = 1 ∧ (texOf [1, 2, 4]).slots = 8 := by decide

/-- R489: times compare as signed differences: the last of the 64-bit times comes before 5. -/
theorem test_times : timeBefore (2 ^ 64 - 1) 5 = true ∧ timeBefore 5 (2 ^ 64 - 1) = false ∧ timeBefore 5 5 = false := by decide

/-- R82: an ADD past the largest count. -/
theorem test_add_saturates : (Signal.add 2).apply 0x7FFFFFFFFFFFFFFE#64 = 0xFFFFFFFFFFFFFFFF#64 := by decide

end Sys2Proof.Tests
end

/-!
PROOFS. What becomes of a request: one rule for each answer of its target (R38 to R42, R410), one for each way a
command issues it (R12, R33, R442 to R445, R458 to R461), and the obligation over them.
-/

namespace Sys2Proof.Machine

/-! ### A command's outcome from its change of the part -/

theorem State.onPart_of_eq {s : State} {f : Part → Part} {p : Part} (h : f s.part = p) : s.onPart f = .next (s.withPart p) := by
  rw [State.onPart, h]

theorem State.on_of_eq {s : State} {f : Chip → Chip} {c : Chip} (h : f s.chip = c) : s.on f = .next { s with chip := c.settle } := by
  rw [State.on_eq, h]

/-! ### A request at its target -/

section Serve
variable {p : Part} {q : Req} {cls id t : Nat} {data : List Byte}

/-- R40: a denied request leaves its record and ends without its effect. -/
theorem Part.serve_of_denied {d : Deny} (hc : p.chip.check q = some (d, t)) :
    p.serve q cls id data = { p with chip := (p.chip.denied q d t).failed q id 1 } := by
  simp only [Part.serve, hc]

/-- R410: a request at a gated block leaves its record and ends without its effect. -/
theorem Part.serve_of_gated (hc : p.chip.check q = none) (ht : p.chip.target q.addr = .ok t) (hg : p.chip.gatedTarget t = true) :
    p.serve q cls id data = { p with chip := (p.chip.gatedError q t).failed q id 3 } := by
  simp only [Part.serve, hc, ht, hg, if_true]

theorem Part.serve_of_dram (hc : p.chip.check q = none) (ht : p.chip.target q.addr = .ok 0) (hg : p.chip.gatedTarget 0 = false) :
    p.serve q cls id data = { p with chip := p.chip.queueDram q cls id data } := by
  simp only [Part.serve, hc, ht, hg, Bool.false_eq_true, if_false, if_true]

/-- R460: a write at the slow domain crosses the bridge, in a drawn time of at most 1 µs. -/
theorem Part.serve_of_slow_write (hc : p.chip.check q = none) (ht : p.chip.target q.addr = .ok t) (hg : p.chip.gatedTarget t = false)
    (hs : t = 49 ∨ t = 44) (hw : q.write = true) :
    p.serve q cls id data = Part.crossWrite { p with chip := p.chip.draw.2 } q id t (p.chip.draw.1.toNat % 1001) data := by
  have hslow : slowTarget t = true := by simpa [slowTarget] using hs
  have h0 : t ≠ 0 := by omega
  have h25 : ¬ t < 25 := by omega
  simp only [Part.serve, hc, ht, hg, hslow, h0, h25, hw, Bool.false_eq_true, if_false, if_true]

theorem Part.serve_of_regs (hc : p.chip.check q = none) (ht : p.chip.target q.addr = .ok t) (hg : p.chip.gatedTarget t = false)
    (h25 : 25 ≤ t) (h44 : t ≠ 44) (h49 : t ≠ 49) :
    p.serve q cls id data = p.serveRegs q id t data := by
  have hslow : slowTarget t = false := by simp [slowTarget, h44, h49]
  have h0 : t ≠ 0 := by omega
  simp only [Part.serve, hc, ht, hg, hslow, h0, Nat.not_lt.2 h25, Bool.false_eq_true, if_false]

/-- A register write is performed and answered. -/
theorem Part.serveRegs_of_write (h50 : t ≠ 50) (hw : q.write = true) (hv : msiVector q.addr = none) :
    p.serveRegs q id t data =
      { p.writeRegs q.len q.master q.tag q.addr data with
        chip := (p.writeRegs q.len q.master q.tag q.addr data).chip.reply q.master id .value [] } := by
  simp only [Part.serveRegs, h50, hw, hv, if_false, if_true]

/-- A register read is answered with what it reads. -/
theorem Part.serveRegs_of_read (h50 : t ≠ 50) (hw : q.write = false) :
    p.serveRegs q id t data =
      { p with chip := (p.chip.readRegs q.len q.addr q.len).2.reply q.master id .value (p.chip.readRegs q.len q.addr q.len).1 } := by
  simp only [Part.serveRegs, h50, hw, Bool.false_eq_true, if_false]

end Serve

/-! ### Requests of masters and of the control cores (R12, R15, R33) -/

section Masters
variable {p : Part} {m g x k a l : Nat} {w b wr : Bool} {d : List Byte}

/-- Log 122: a request of a number that is no master takes a number and does nothing else. -/
theorem meshRequest_of_unlisted (hm : listedMaster m = false) : meshRequest m x k a w b l wr d p = p.numbered :=
  if_pos (.inr hm)

theorem registerWrite_of_unlisted (hm : listedMaster m = false) : registerWrite m g a d p = p.numbered :=
  if_pos (.inr (.inr hm))

theorem rcRegisterRead_of_unlisted (hm : listedMaster m = false) : rcRegisterRead m g a l p = p.numbered :=
  if_pos (.inr (.inr hm))

/-- R388: a parity error on its route ends a master's request. -/
theorem meshRequest_of_parity (hn : (p.chip.meshReq m x a w l wr d).len ≠ 0) (hm : listedMaster m = true) :
    meshRequest m x k a w true l wr d p =
      { p.numbered with chip := p.numbered.chip.parityLost (p.chip.meshReq m x a w l wr d) p.chip.nextReq } := by
  simp only [meshRequest, hn, hm, Bool.true_eq_false, or_self, if_false, if_true]

theorem meshRequest_served (hn : (p.chip.meshReq m x a w l wr d).len ≠ 0) (hm : listedMaster m = true) :
    meshRequest m x k a w false l wr d p =
      p.numbered.serve (p.chip.meshReq m x a w l wr d) (p.chip.sourceClass m (p.chip.meshReq m x a w l wr d).tag k) p.chip.nextReq d := by
  simp only [meshRequest, hn, hm, Bool.true_eq_false, Bool.false_eq_true, or_self, if_false]

theorem registerWrite_served (ha : regBase ≤ a) (hd : d ≠ []) (hm : listedMaster m = true) :
    registerWrite m g a d p =
      p.numbered.serve { master := m, tag := g, addr := a, len := d.length, write := true } (p.chip.sourceClass m g 3) p.chip.nextReq d := by
  simp only [registerWrite, Nat.not_lt.2 ha, hd, hm, Bool.true_eq_false, or_self, if_false]

theorem rcRegisterRead_served (ha : regBase ≤ a) (hl : l ≠ 0) (hm : listedMaster m = true) :
    rcRegisterRead m g a l p =
      p.numbered.serve { master := m, tag := g, addr := a, len := l, write := false } (p.chip.sourceClass m g 3) p.chip.nextReq [] := by
  simp only [rcRegisterRead, Nat.not_lt.2 ha, hl, hm, Bool.true_eq_false, or_self, if_false]

end Masters

/-! ### Requests of hosts (R442 to R445, R456) -/

section Hosts
variable {p : Part} {port bar off len : Nat} {pasid : Option Nat} {w : Bool} {d : List Byte}

/-- R456: port 1 in recovery answers from the recovery function. -/
theorem hostRequest_recovers (hp : port < 2) (hn : (if w then d.length else len) ≠ 0) (hr : p.chip.recovers port = true) :
    hostRequest port bar pasid off len w d p =
      (p.hostSeen port).recoveryRequest p.chip.nextReq bar off (if w then d.length else len) w d := by
  simp only [hostRequest, Nat.not_le.2 hp, hn, hr, or_self, if_false, if_true]

theorem hostRequest_served (hp : port < 2) (hn : (if w then d.length else len) ≠ 0) (hr : p.chip.recovers port = false)
    (hs : p.chip.hostServed port = true) :
    hostRequest port bar pasid off len w d p =
      (p.hostSeen port).hostBar port bar p.chip.nextReq pasid off (if w then d.length else len) w d := by
  simp only [hostRequest, Nat.not_le.2 hp, hn, hr, hs, Bool.false_eq_true, or_self, if_false, if_true]

/-- A port that serves no host takes no request. -/
theorem hostRequest_of_unserved (hr : p.chip.recovers port = false) (hs : p.chip.hostServed port = false) :
    hostRequest port bar pasid off len w d p = p := by
  simp only [hostRequest, hr, hs, Bool.false_eq_true, if_false, ite_self]

end Hosts

/-! ### The MSI window (R444) -/

section Msi
variable {c : Chip} {m g port v : Nat}

theorem msiWindowWrite_of_passed (hv : v < 2048) (hp : port < 2) (hm : listedMaster m = true)
    (hc : (c.unpost (msiReq m g port v)).check (msiReq m g port v) = none) :
    msiWindowWrite m g port v c = (c.unpost (msiReq m g port v)).msiRaise port v := by
  simp only [msiWindowWrite, Nat.not_le.2 hv, Nat.not_le.2 hp, hm, hc, Bool.true_eq_false, or_self, if_false]

theorem msiWindowWrite_of_denied {e : Deny} {t : Nat} (hv : v < 2048) (hp : port < 2) (hm : listedMaster m = true)
    (hc : (c.unpost (msiReq m g port v)).check (msiReq m g port v) = some (e, t)) :
    msiWindowWrite m g port v c = (c.unpost (msiReq m g port v)).denied (msiReq m g port v) e t := by
  simp only [msiWindowWrite, Nat.not_le.2 hv, Nat.not_le.2 hp, hm, hc, Bool.true_eq_false, or_self, if_false]

end Msi

/-! ### The always-on bridge (R458 to R461) -/

section Bridge
variable {p : Part} {m g a n l t : Nat} {d : List Byte}

theorem bridgeWrite_crosses (hb : p.chip.bridged a = some t) (hd : d ≠ []) (hm : listedMaster m = true)
    (hc : p.numbered.chip.check { master := m, tag := g, addr := a, len := d.length, write := true } = none)
    (hg : p.chip.gatedTarget t = false) :
    bridgeWrite m g a n d p =
      p.numbered.crossWrite { master := m, tag := g, addr := a, len := d.length, write := true } p.chip.nextReq t n d := by
  simp only [bridgeWrite, hb, hd, hm, hc, hg, Bool.true_eq_false, Bool.false_eq_true, or_self, if_false]

theorem bridgeRead_served (hb : (p.chip.bridged a).isSome = true) (hl : l ≠ 0) (hm : listedMaster m = true) :
    bridgeRead m g a l p =
      p.numbered.serve { master := m, tag := g, addr := a, len := l, write := false } (p.chip.sourceClass m g 3) p.chip.nextReq [] := by
  have hb' : (p.chip.bridged a).isNone = false := by simpa using hb
  simp only [bridgeRead, hb', hl, hm, Bool.true_eq_false, Bool.false_eq_true, or_self, if_false]

theorem bridgeReadFetched_of_some {c : Chip} {e : BridgeRead} (h : nextFetch c.link.bridge = some e) : bridgeReadFetched c = c.fetchRead e := by
  simp only [bridgeReadFetched, h]

theorem bridgeReadFetched_of_none {c : Chip} (h : nextFetch c.link.bridge = none) : bridgeReadFetched c = c := by
  simp only [bridgeReadFetched, h]

end Bridge

/-! ### The obligation -/

/-- Settles O45: each clause is the way its command issues the request, and then what the request's target answers. -/
theorem requestsReachTheirTargets : Obligations.RequestsReachTheirTargets := by
  unfold Obligations.RequestsReachTheirTargets
  refine ⟨?mesh, ?meshParity, ?meshDram, ?regWrite, ?regWriteDenied, ?regRead, ?hostRead, ?hostWrite, ?hostRecovery, ?hostUnserved,
    ?msi, ?msiDenied, ?bridgeWrite, ?bridgeRead, ?fetch, ?fetchNone, ?discard, ?regWriteGated, ?regWriteSlow, ?unlisted⟩
  case mesh =>
    intro s m x k a w l wr d hn hm
    exact State.onPart_of_eq (meshRequest_served hn hm)
  case meshParity =>
    intro s m x k a w l wr d hn hm
    exact State.onPart_of_eq (meshRequest_of_parity hn hm)
  case meshDram =>
    intro s m x k a w l wr d hn hm hc ht hg
    exact State.onPart_of_eq ((meshRequest_served hn hm).trans (Part.serve_of_dram hc ht hg))
  case regWrite =>
    intro s m g a l t d ha hd hm hc ht hg h25 h44 h49 h50 hv
    exact State.onPart_of_eq ((registerWrite_served ha hd hm).trans
      ((Part.serve_of_regs hc ht hg h25 h44 h49).trans (Part.serveRegs_of_write h50 rfl hv)))
  case regWriteDenied =>
    intro s m g a l t d ha hd hm hc
    exact State.onPart_of_eq ((registerWrite_served ha hd hm).trans (Part.serve_of_denied hc))
  case regRead =>
    intro s m g a l t ha hl hm hc ht hg h25 h44 h49 h50
    exact State.onPart_of_eq ((rcRegisterRead_served ha hl hm).trans
      ((Part.serve_of_regs hc ht hg h25 h44 h49).trans (Part.serveRegs_of_read h50 rfl)))
  case hostRead =>
    intro s p b x o l d hp hl hr hs
    exact State.onPart_of_eq (hostRequest_served hp hl hr hs)
  case hostWrite =>
    intro s p b x o l d hp hd hr hs
    exact State.onPart_of_eq (hostRequest_served hp (mt List.length_eq_zero_iff.1 hd) hr hs)
  case hostRecovery =>
    intro s p b x o l d hp hl hr
    exact State.onPart_of_eq (hostRequest_recovers hp hl hr)
  case hostUnserved =>
    intro s p b x o l w d hr hs
    exact State.onPart_of_eq (hostRequest_of_unserved hr hs)
  case msi =>
    intro s m g p v hv hp hm hc
    exact State.on_of_eq (msiWindowWrite_of_passed hv hp hm hc)
  case msiDenied =>
    intro s m g p v t e hv hp hm hc
    exact State.on_of_eq (msiWindowWrite_of_denied hv hp hm hc)
  case bridgeWrite =>
    intro s m g a n t d hb hd hm hc hg
    exact State.onPart_of_eq (bridgeWrite_crosses hb hd hm hc hg)
  case bridgeRead =>
    intro s m g a l hb hl hm
    exact State.onPart_of_eq (bridgeRead_served hb hl hm)
  case fetch =>
    intro s e h
    exact State.on_of_eq (bridgeReadFetched_of_some h)
  case fetchNone =>
    intro s h
    exact State.on_of_eq (bridgeReadFetched_of_none h)
  case discard =>
    intro s
    exact State.on_eq s bridgeReadDiscard
  case regWriteGated =>
    intro s m g a l t d ha hd hm hc ht hg
    exact State.onPart_of_eq ((registerWrite_served ha hd hm).trans (Part.serve_of_gated hc ht hg))
  case regWriteSlow =>
    intro s m g a l t d ha hd hm hc ht hg hs
    exact State.onPart_of_eq ((registerWrite_served ha hd hm).trans (Part.serve_of_slow_write hc ht hg hs rfl))
  case unlisted =>
    intro s m g a l x k w b wr d hm
    exact ⟨State.onPart_of_eq (registerWrite_of_unlisted hm), State.onPart_of_eq (rcRegisterRead_of_unlisted hm),
      State.onPart_of_eq (meshRequest_of_unlisted hm)⟩

end Sys2Proof.Machine

/-!
PROOFS. Slices and who may touch what (R30 to R56): what each command of the family does, one rule for each of its
outcomes, and the four obligations over them.
-/

namespace Sys2Proof.Machine

/-- A packet in its turn is given its command's meaning (R67, R73). -/
theorem Chip.onPacket_of_startedAs {c : Chip} {p : Packet} {op : Nat} {f : Packet → Chip → Chip} (h : c.startedAs p op) :
    c.onPacket p.id op f = f p c := by
  obtain ⟨hp, hop, hph, ht⟩ := h
  simp only [Chip.onPacket, hp, hop, hph, ht, and_self, if_true]

/-! ### SLICE_CREATE (R30 to R32, R44) -/

section SliceCreate
variable {c : Chip} {template : Bool} {back : Option Slice} {b : List Byte} {n : Nat}

theorem Chip.createSlice_of_bad (hb : c.createBad template (parseCreate b) = true) :
    c.createSlice template back b = (stBadParam, 0, c) := by
  simp only [Chip.createSlice, hb, if_true]

theorem Chip.createSlice_of_short (hb : c.createBad template (parseCreate b) = false)
    (hs : c.createShort back.isSome (parseCreate b) = true) :
    c.createSlice template back b = (stNoResource, 0, c) := by
  simp only [Chip.createSlice, hb, hs, Bool.false_eq_true, if_false, if_true]

/-- The number is the one the payload gives, or the lowest free one for 0xFF. -/
theorem Chip.createSlice_of_good (hb : c.createBad template (parseCreate b) = false)
    (hs : c.createShort back.isSome (parseCreate b) = false)
    (hn : ((parseCreate b).number ≠ 0xFF ∧ n = (parseCreate b).number) ∨
      ((parseCreate b).number = 0xFF ∧ (List.range 64).find? (fun i => i != 0 && (c.slice? i).isNone) = some n)) :
    c.createSlice template back b = (stDone, n, c.makeSlice n b back (parseCreate b)) := by
  obtain ⟨hne, rfl⟩ | ⟨heq, hf⟩ := hn
  · simp only [Chip.createSlice, hb, hs, hne, Bool.false_eq_true, if_false]
  · simp only [Chip.createSlice, hb, hs, heq, hf, Bool.false_eq_true, if_false, if_true, Option.getD_some]

/-- A payload without a cause against it answers DONE, whichever number is free. -/
theorem Chip.createSlice_done (hb : c.createBad template (parseCreate b) = false)
    (hs : c.createShort back.isSome (parseCreate b) = false) : (c.createSlice template back b).1 = stDone := by
  simp only [Chip.createSlice, hb, hs, Bool.false_eq_true, if_false]

variable {p : Part} {k : Packet}

/-- A started SLICE_CREATE answers a failed check at once; else it waits for the page-owner calls of its extents. -/
theorem sliceCreate_of_startedAs (h : p.chip.startedAs k 0x800) :
    sliceCreate k.id p =
      let r := p.chip.createSlice false none (k.bytes.drop 32)
      let l := (parseCreate (k.bytes.drop 32)).extents
      { p with chip := (
          if r.1 ≠ stDone then p.chip.finish k.id r.1
          else if p.ownersFree l then (r.2.2.ownerCalled (l.flatMap ownerCalls).length).finish k.id r.1 r.2.1
          else p.chip.take k.id) } := by
  have hk : p.chip.packet? k.id = some k := h.1
  simp only [sliceCreate, hk, Chip.onPacket_of_startedAs h]

theorem sliceCreate_refused {st : Nat} (h : p.chip.startedAs k 0x800)
    (hr : p.chip.createSlice false none (k.bytes.drop 32) = (st, 0, p.chip)) (hst : st ≠ stDone) :
    sliceCreate k.id p = { p with chip := p.chip.finish k.id st } := by
  simp only [sliceCreate_of_startedAs h, hr, if_pos hst]

theorem sliceCreate_waits (h : p.chip.startedAs k 0x800)
    (hr : (p.chip.createSlice false none (k.bytes.drop 32)).1 = stDone)
    (hf : p.ownersFree (parseCreate (k.bytes.drop 32)).extents = false) :
    sliceCreate k.id p = { p with chip := p.chip.take k.id } := by
  simp only [sliceCreate_of_startedAs h, hr, hf, ne_eq, not_true_eq_false, Bool.false_eq_true, if_false]

theorem sliceCreate_makes {d : Chip} (h : p.chip.startedAs k 0x800)
    (hr : p.chip.createSlice false none (k.bytes.drop 32) = (stDone, n, d))
    (hf : p.ownersFree (parseCreate (k.bytes.drop 32)).extents = true) :
    sliceCreate k.id p = { p with chip :=
      (d.ownerCalled ((parseCreate (k.bytes.drop 32)).extents.flatMap ownerCalls).length).finish k.id stDone n } := by
  simp only [sliceCreate_of_startedAs h, hr, hf, ne_eq, not_true_eq_false, if_false, if_true]

end SliceCreate

/-! ### SLICE_DESTROY (R56) -/

section SliceDestroy
variable {c : Chip} {p : Packet}

/-- R56: the causes of BAD_PARAM of a SLICE_DESTROY. -/
abbrev Chip.destroyBad (c : Chip) (p : Packet) : Prop :=
  64 ≤ p.u 32 1 ∨ p.u 32 1 = 0 ∨ 1 < p.u 33 1 ∨ p.u 34 2 ≠ 0 ∨ !zeroIn p.bytes 40 64 ∨ 1000000 < p.u 36 4 ∨
    (c.slice? (p.u 32 1)).isNone ∨ c.safe.outputs.any (fun o => o.2.slice == p.u 32 1 && o.2.armed) = true

/-- The drain of all six functions that a SLICE_DESTROY starts, and the destruction it stands for. -/
def Chip.startDestroy (c : Chip) (p : Packet) : Chip :=
  let d := ((c.refuseFunctions (p.u 32 1) 63).keepRunning p.id).stampReady
  { d with
    drains := d.drains ++ [{ slice := p.u 32 1, mask := 63, own := 63 &&& (63 ^^^ (c.draining (p.u 32 1) &&& 63)), deadline := d.now + drainUs (p.u 36 4) * 1000, packet := p.id }]
    destroys := d.destroys ++ [{ slice := p.u 32 1, packet := p.id, invalidate := bitOf (p.u 33 1) 0 }] }

theorem Chip.not_destroyBad (h0 : 0 < p.u 32 1) (h64 : p.u 32 1 < 64) (hi : p.u 33 1 ≤ 1) (hr : p.u 34 2 = 0)
    (ht : p.u 36 4 ≤ 1000000) (hz : zeroIn p.bytes 40 64 = true) (hs : (c.slice? (p.u 32 1)).isSome = true)
    (ho : c.safe.outputs.any (fun o => o.2.slice == p.u 32 1 && o.2.armed) = false) : ¬ c.destroyBad p := by
  have hs' : (c.slice? (p.u 32 1)).isNone = false := Option.isNone_eq_false_iff.2 hs
  simp only [Chip.destroyBad, hr, hz, hs', ho, Nat.not_le.2 h64, Nat.pos_iff_ne_zero.1 h0, Nat.not_lt.2 hi, Nat.not_lt.2 ht]
  decide

variable (h : c.startedAs p 0x801)
include h

theorem sliceDestroy_of_bad (hb : c.destroyBad p) : sliceDestroy p.id c = c.finish p.id stBadParam :=
  (Chip.onPacket_of_startedAs h).trans (if_pos hb)

theorem sliceDestroy_starts (hb : ¬ c.destroyBad p) (hd : c.destroys.find? (fun d => d.slice == p.u 32 1) = none) :
    sliceDestroy p.id c = c.startDestroy p := by
  refine (Chip.onPacket_of_startedAs h).trans ((if_neg hb).trans ?_)
  simp only [hd, Chip.startDestroy]

theorem sliceDestroy_joins {d : Destroy} (hb : ¬ c.destroyBad p)
    (hd : c.destroys.find? (fun d => d.slice == p.u 32 1) = some d) :
    sliceDestroy p.id c =
      (c.updDestroy (p.u 32 1) (fun e => { e with joined := e.joined ++ [p.id] })).keepRunning p.id := by
  refine (Chip.onPacket_of_startedAs h).trans ((if_neg hb).trans ?_)
  simp only [hd]

end SliceDestroy

/-- Settles O1: a creation by what its checks answer, a destruction by its fields and by whether one stands already. -/
theorem sliceCreateMakesTheSlice : Obligations.SliceCreateMakesTheSlice := by
  unfold Obligations.SliceCreateMakesTheSlice
  refine ⟨?makes, ?waits, ?badParam, ?noResource, ?destroyStarts, ?destroyJoins, ?destroyBad⟩
  case makes =>
    intro s p n h hb hs hn hf
    exact State.onPart_of_eq (sliceCreate_makes h (Chip.createSlice_of_good hb hs hn) hf)
  case waits =>
    intro s p h hb hs hf
    exact State.onPart_of_eq (sliceCreate_waits h (Chip.createSlice_done hb hs) hf)
  case badParam =>
    intro s p h hb
    exact State.onPart_of_eq (sliceCreate_refused h (Chip.createSlice_of_bad hb) (by decide))
  case noResource =>
    intro s p h hb hs
    exact State.onPart_of_eq (sliceCreate_refused h (Chip.createSlice_of_short hb hs) (by decide))
  case destroyStarts =>
    intro s p h h0 h64 hi hr ht hz hs ho hd
    exact State.on_of_eq (sliceDestroy_starts h (Chip.not_destroyBad h0 h64 hi hr ht hz hs ho) hd)
  case destroyJoins =>
    intro s p d h h0 h64 hi hr ht hz hs ho hd
    exact State.on_of_eq (sliceDestroy_joins h (Chip.not_destroyBad h0 h64 hi hr ht hz hs ho) hd)
  case destroyBad =>
    intro s p h hb
    rw [← Option.isNone_iff_eq_none] at hb
    exact State.on_of_eq (sliceDestroy_of_bad h (hb.imp_right (Or.imp_right (Or.imp_right (Or.imp_right Or.inr)))))

/-! ### CSRs of the cores (R35, R347, R349) -/

section Csrs
variable {c : Chip} {hart k : Nat} {mode : Mode} {v : W64}

/-- The mode that a command's number stands for. -/
def csrMode : Nat → Mode
  | 0 => .m
  | 1 => .hs
  | 2 => .vs
  | 3 => .u
  | _ => .vu

theorem exec_slicetagWrite (s : State) (hart mode : Nat) (v : W64) :
    exec (.slicetagWrite hart mode v) s = s.on (slicetagWrite hart (csrMode mode) v) := rfl

theorem exec_predclrWrite (s : State) (hart mode : Nat) (v : W64) :
    exec (.predclrWrite hart mode v) s = s.on (predclrWrite hart (csrMode mode) v) := rfl

/-- R35: M-mode everywhere and HS-mode of an application core have the register. -/
theorem csrTrap_of_allowed {mode : Nat} (h : mode = 0 ∨ (mode = 1 ∧ hart < 16)) : csrTrap hart (csrMode mode) = none := by
  obtain rfl | ⟨rfl, h16⟩ := h
  · rfl
  · simp only [csrMode, csrTrap, h16, if_true]

/-- R35, log 9: VS-mode of an application core takes a virtual-instruction exception, any other an illegal-instruction one. -/
theorem csrTrap_of_refused {mode : Nat} (h0 : mode ≠ 0) (h1 : mode ≠ 1 ∨ 16 ≤ hart) :
    csrTrap hart (csrMode mode) = some (if mode = 2 ∧ hart < 16 then 2 else 1) := by
  match mode with
  | 0 => exact absurd rfl h0
  | 1 =>
    have h16 : ¬ hart < 16 := by omega
    simp [csrMode, csrTrap, h16]
  | 2 => by_cases h16 : hart < 16 <;> simp [csrMode, csrTrap, h16]
  | 3 => simp [csrMode, csrTrap]
  | n + 4 => simp [csrMode, csrTrap]

theorem slicetagWrite_of_trap (h : csrTrap hart mode = some k) : slicetagWrite hart mode v c = c.trap hart k := by
  simp only [slicetagWrite, h]

theorem slicetagWrite_of_allowed (h : csrTrap hart mode = none) :
    slicetagWrite hart mode v c = { c with
      returnStacks := if v.toNat % 64 = c.hartTag hart then c.returnStacks else c.returnStacks.filter (· != hart)
      sliceTags := if v.toNat % 64 = 0 then AMap.del c.sliceTags hart else AMap.set c.sliceTags hart (BitVec.ofNat 64 (v.toNat % 64)) } := by
  simp only [slicetagWrite, h]
  by_cases ht : v.toNat % 64 = c.hartTag hart
  · simp only [ht, if_true]
  · simp only [ht, if_false]

theorem predclrWrite_of_allowed (h16 : hart < 16) (h : csrTrap hart mode = none) :
    predclrWrite hart mode v c = { c with
      predictors := c.predictors.filter (fun e => !(e.1 == hart && e.2 == v.toNat % 256))
      returnStacks := c.returnStacks.filter (· != hart) } := by
  simp only [predclrWrite, Nat.not_le.2 h16, h, if_false]

end Csrs

/-! ### Writes of one register (R12, R38 to R41) -/

section CheckedWrite
variable {c : Chip} {master tag addr n : Nat} {f : Chip → Chip}

/-- Log 122: a number that is no master takes a request number and does nothing else. -/
theorem Chip.checkedWrite_of_unlisted (hm : listedMaster master = false) :
    c.checkedWrite master tag addr n f = { c with nextReq := c.nextReq + 1 } := by
  simp only [Chip.checkedWrite, hm, if_true]

theorem Chip.checkedWrite_of_denied {d : Deny} {t : Nat} (hm : listedMaster master = true)
    (hc : ({ c with nextReq := c.nextReq + 1 } : Chip).check { master := master, tag := tag, addr := addr, len := n, write := true } = some (d, t)) :
    c.checkedWrite master tag addr n f =
      (({ c with nextReq := c.nextReq + 1 } : Chip).denied { master := master, tag := tag, addr := addr, len := n, write := true } d t).failed
        { master := master, tag := tag, addr := addr, len := n, write := true } c.nextReq 1 := by
  simp only [Chip.checkedWrite, hm, hc, Bool.true_eq_false, if_false]

theorem Chip.checkedWrite_of_passed (hm : listedMaster master = true)
    (hc : ({ c with nextReq := c.nextReq + 1 } : Chip).check { master := master, tag := tag, addr := addr, len := n, write := true } = none) :
    c.checkedWrite master tag addr n f = (f { c with nextReq := c.nextReq + 1 }).reply master c.nextReq .value [] := by
  simp only [Chip.checkedWrite, hm, hc, Bool.true_eq_false, if_false]

end CheckedWrite

/-! ### Access registers (R36, R39) -/

section AccessRegisters
variable {c : Chip} {master tag slice target off n : Nat}

/-- The numbers of the four control cores are masters (R17). -/
theorem listedMaster_of_controlCore (h0 : 0x50 ≤ master) (h1 : master ≤ 0x53) : listedMaster master = true := by
  simp [listedMaster, h0, h1]

/-- R36: another valid entry holds a PASID. -/
abbrev Chip.pasidHeld (c : Chip) (slice pasid : Nat) : Bool :=
  (List.range 64).any (fun i => i != slice && c.flag (ACC_PASID_MAP i) ACC_PASID_MAP.VALID &&
    c.fld (ACC_PASID_MAP i) ACC_PASID_MAP.PASID == pasid)

theorem pasidMapWrite_of_accepted {v : W32} (h0 : 0x50 ≤ master) (h1 : master ≤ 0x53) (hs : slice < 64)
    (hv : bitOf v.toNat 31 = false ∨ c.pasidHeld slice (bitsOf v.toNat 19 0) = false) :
    pasidMapWrite master 0 slice v c =
      c.setReg (ACC_PASID_MAP slice) (b2n (bitOf v.toNat 31) * 2 ^ 31 + bitsOf v.toNat 19 0) := by
  have hwriter : ¬ (master < 0x50 ∨ 0x53 < master ∨ (0 : Nat) ≠ 0 ∨ 64 ≤ slice) := by omega
  have hfree : (bitOf v.toNat 31 && c.pasidHeld slice (bitsOf v.toNat 19 0)) = false := Bool.and_eq_false_iff.2 hv
  exact (if_neg hwriter).trans (if_neg (Bool.eq_false_iff.1 hfree))

theorem pasidMapWrite_of_ignored {v : W32}
    (h : master < 0x50 ∨ 0x53 < master ∨ tag ≠ 0 ∨ (bitOf v.toNat 31 = true ∧ c.pasidHeld slice (bitsOf v.toNat 19 0) = true)) :
    pasidMapWrite master tag slice v c = c := by
  by_cases hw : master < 0x50 ∨ 0x53 < master ∨ tag ≠ 0 ∨ 64 ≤ slice
  · exact if_pos hw
  · obtain ⟨h0, h1, ht, -⟩ : ¬ master < 0x50 ∧ ¬ 0x53 < master ∧ ¬ tag ≠ 0 ∧ ¬ 64 ≤ slice := by simpa only [not_or] using hw
    have hheld := ((h.resolve_left h0).resolve_left h1).resolve_left ht
    exact (if_neg hw).trans (if_pos (Bool.and_eq_true_iff.2 hheld))

variable {v : W64}

/-- R39: a master that may not write a target's table changes nothing. -/
theorem accTableWrite_of_ignored (hm : master ≠ 0x4C) (ht : tag ≠ 0 ∨ target = 38 ∨ target = 45) :
    accTableWrite master tag target off v c = c := by
  have hw : ¬ (master = 0x4C ∨ (tag = 0 ∧ ¬ (target = 38 ∨ target = 45))) := by omega
  simp only [accTableWrite, hw, if_false, ite_self]

section Writer
variable (ht : target < 64) (hw : master = 0x4C ∨ (tag = 0 ∧ target ≠ 38 ∧ target ≠ 45))
include ht hw

/-- R39: what a master that may write a target's table writes there. -/
theorem accTableWrite_of_writer :
    accTableWrite master tag target off v c =
      if off < 0x80 then
        if off % 0x10 = 0 then c.setReg (ACC_WIN_BASE target (off / 0x10)) (bitsOf v.toNat 47 12 * 4096 + v.toNat % 2)
        else if off % 0x10 = 8 then c.setReg (ACC_WIN_LIMIT target (off / 0x10)) (bitsOf v.toNat 47 12 * 4096)
        else c
      else if 0x200 ≤ off ∧ off < 0x400 ∧ off % 4 = 0 then c.setReg (ACC_ENTRY target ((off - 0x200) / 4)) (v.toNat % 2 ^ 32)
      else c := by
  have hw' : master = 0x4C ∨ (tag = 0 ∧ ¬ (target = 38 ∨ target = 45)) := by omega
  simp only [accTableWrite, Nat.not_le.2 ht, hw', if_true, if_false]

theorem accTableWrite_base (ho : off < 0x80) (hm : off % 0x10 = 0) :
    accTableWrite master tag target off v c =
      c.setReg (ACC_WIN_BASE target (off / 0x10)) (bitsOf v.toNat 47 12 * 4096 + v.toNat % 2) := by
  rw [accTableWrite_of_writer ht hw, if_pos ho, if_pos hm]

theorem accTableWrite_limit (ho : off < 0x80) (hm : off % 0x10 = 8) :
    accTableWrite master tag target off v c = c.setReg (ACC_WIN_LIMIT target (off / 0x10)) (bitsOf v.toNat 47 12 * 4096) := by
  rw [accTableWrite_of_writer ht hw, if_pos ho, if_neg (by omega), if_pos hm]

theorem accTableWrite_entry (h0 : 0x200 ≤ off) (h1 : off < 0x400) (hm : off % 4 = 0) :
    accTableWrite master tag target off v c = c.setReg (ACC_ENTRY target ((off - 0x200) / 4)) (v.toNat % 2 ^ 32) := by
  rw [accTableWrite_of_writer ht hw, if_neg (by omega), if_pos ⟨h0, h1, hm⟩]

end Writer

/-- A table write of `n` bytes that passes the check is made and answered. -/
theorem accTableCommand_of_passed (hn : (if off < 0x200 then 8 else 4) = n) (hm : listedMaster master = true)
    (hc : ({ c with nextReq := c.nextReq + 1 } : Chip).check { master := master, tag := tag, addr := blockAddr 20 + target * 0x1000 + off, len := n, write := true } = none) :
    accTableCommand master tag target off v c =
      (accTableWrite master tag target off v { c with nextReq := c.nextReq + 1 }).reply master c.nextReq .value [] := by
  subst hn
  exact Chip.checkedWrite_of_passed hm hc

end AccessRegisters

/-- Settles O2: the CSRs by what R35 has for the mode, the registers by the check of R38 and then by who writes. -/
theorem accessCsrsAndTables : Obligations.AccessCsrsAndTables := by
  unfold Obligations.AccessCsrsAndTables
  refine ⟨?tag, ?tagTrap, ?predclr, ?pasid, ?pasidIgnored, ?base, ?limit, ?entry, ?tableIgnored, ?denied, ?unlisted⟩
  case tag =>
    intro s hart mode v h
    exact (exec_slicetagWrite s hart mode v).trans (State.on_of_eq (slicetagWrite_of_allowed (csrTrap_of_allowed h)))
  case tagTrap =>
    intro s hart mode v h0 h1
    exact (exec_slicetagWrite s hart mode v).trans (State.on_of_eq (slicetagWrite_of_trap (csrTrap_of_refused h0 h1)))
  case predclr =>
    intro s hart mode v h16 h
    have hm : csrTrap hart (csrMode mode) = none := csrTrap_of_allowed (h.imp_right fun h1 => ⟨h1, h16⟩)
    exact (exec_predclrWrite s hart mode v).trans (State.on_of_eq (predclrWrite_of_allowed h16 hm))
  case pasid =>
    intro s master slice v h0 h1 hs hv hc
    exact State.on_of_eq ((Chip.checkedWrite_of_passed (listedMaster_of_controlCore h0 h1) hc).trans
      (congrArg (Chip.reply · master s.chip.nextReq .value []) (pasidMapWrite_of_accepted h0 h1 hs hv)))
  case pasidIgnored =>
    intro s master tag slice v hm h hc
    exact State.on_of_eq ((Chip.checkedWrite_of_passed hm hc).trans
      (congrArg (Chip.reply · master s.chip.nextReq .value []) (pasidMapWrite_of_ignored h)))
  case base =>
    intro s master tag target off v ht hm hw ho hoff hc
    refine State.on_of_eq ((accTableCommand_of_passed (if_pos (by omega)) hm hc).trans ?_)
    rw [accTableWrite_base ht hw ho hoff]
  case limit =>
    intro s master tag target off v ht hm hw ho hoff hc
    refine State.on_of_eq ((accTableCommand_of_passed (if_pos (by omega)) hm hc).trans ?_)
    rw [accTableWrite_limit ht hw ho hoff]
  case entry =>
    intro s master tag target off v ht hm hw h0 h1 hoff hc
    refine State.on_of_eq ((accTableCommand_of_passed (if_neg (by omega)) hm hc).trans ?_)
    rw [accTableWrite_entry ht hw h0 h1 hoff]
  case tableIgnored =>
    intro s master tag target off v hm hne ht hc
    refine State.on_of_eq ((accTableCommand_of_passed rfl hm hc).trans ?_)
    rw [accTableWrite_of_ignored hne ht]
  case denied =>
    intro s master tag target off slice v w d t hm hct hcp
    exact ⟨State.on_of_eq (Chip.checkedWrite_of_denied hm hct), State.on_of_eq (Chip.checkedWrite_of_denied hm hcp)⟩
  case unlisted =>
    intro s master tag target off slice v w hm
    exact ⟨State.on_of_eq (Chip.checkedWrite_of_unlisted hm), State.on_of_eq (Chip.checkedWrite_of_unlisted hm)⟩

/-! ### MEM_INVALIDATE (R48, R50) -/

section MemInvalidate
variable {c : Chip} {p : Packet} {pl : Nat}

/-- R48: the fields of a MEM_INVALIDATE that are not those of a range in one memory. -/
abbrev Chip.invalidateBad (c : Chip) (p : Packet) : Prop :=
  2 ^ 48 ≤ p.u 32 8 ∨ 2 ^ 48 ≤ p.u 40 8 ∨ zeroIn p.bytes 48 64 = false ∨ c.invalidatePlace (p.u 32 8) (p.u 40 8) = none

section Started
variable (h : c.startedAs p 0x102)
include h

theorem memInvalidate_of_bad (hb : c.invalidateBad p) : memInvalidate p.id c = c.finish p.id stBadParam := by
  refine (Chip.onPacket_of_startedAs h).trans ?_
  by_cases hf : p.u 32 8 ≥ 2 ^ 48 ∨ p.u 40 8 ≥ 2 ^ 48 ∨ !zeroIn p.bytes 48 64
  · exact if_pos hf
  · obtain ⟨ha, hn, hz⟩ : ¬ 2 ^ 48 ≤ p.u 32 8 ∧ ¬ 2 ^ 48 ≤ p.u 40 8 ∧ ¬ zeroIn p.bytes 48 64 = false := by
      simpa only [ge_iff_le, Bool.not_eq_true', not_or] using hf
    have hpl := ((hb.resolve_left ha).resolve_left hn).resolve_left hz
    refine (if_neg hf).trans ?_
    simp only [hpl]

/-- A range in one memory goes on where the slice owns all of it (R48). -/
theorem memInvalidate_of_place (ha : p.u 32 8 < 2 ^ 48) (hn : p.u 40 8 < 2 ^ 48) (hz : zeroIn p.bytes 48 64 = true)
    (hpl : c.invalidatePlace (p.u 32 8) (p.u 40 8) = some pl) :
    memInvalidate p.id c =
      if c.ownsRange p.slice pl (p.u 32 8) (p.u 40 8) then c.keepRunning p.id else c.finish p.id stNotOwner := by
  have hf : ¬ (p.u 32 8 ≥ 2 ^ 48 ∨ p.u 40 8 ≥ 2 ^ 48 ∨ !zeroIn p.bytes 48 64) := by
    simp only [hz, ge_iff_le, Nat.not_le.2 ha, Nat.not_le.2 hn]
    decide
  refine (Chip.onPacket_of_startedAs h).trans ((if_neg hf).trans ?_)
  simp only [hpl]

end Started

section Running
variable (hp : c.packet? p.id = some p) (hop : p.op = 0x102) (hph : p.phase = .running)
include hp hop hph

theorem memInvalidateClear_dram (ha : p.u 32 8 < mcBase) (hb : c.dramBusy (p.u 32 8 / pageSize) (p.u 40 8 / pageSize) = false) :
    memInvalidateClear p.id c =
      ((c.clearBlocks (p.u 32 8 / pageSize) (p.u 40 8 / pageSize)).logRange p.slice (p.u 32 8) (p.u 40 8)).finish p.id stDone := by
  simp only [memInvalidateClear, hp, hop, hph, ha, hb, and_self, Bool.false_eq_true, if_true, if_false]

theorem memInvalidateClear_lines (ha : mcBase ≤ p.u 32 8) (hb : c.rillBusy (p.u 32 8) (p.u 32 8 + p.u 40 8) = false) :
    memInvalidateClear p.id c = (c.clearLines (p.u 32 8) (p.u 40 8)).finish p.id stDone := by
  simp only [memInvalidateClear, hp, hop, hph, Nat.not_lt.2 ha, hb, and_self, Bool.false_eq_true, if_true, if_false]

end Running

end MemInvalidate

/-- R49: a started SLICE_DIRTY_LOG whose fields are legal does what its OP says. -/
theorem Chip.dirtyLogOp_of_legal {c : Chip} {p : Packet} {op : Nat} {f : Packet → Chip → Chip} (h : c.startedAs p 0x802)
    (hop : p.u 33 1 = op) (hle : op ≤ 2) (hb : c.dirtyLogBad p (op = 2) = false) : c.dirtyLogOp p.id op f = f p c := by
  refine (Chip.onPacket_of_startedAs h).trans ?_
  simp only [hop, gt_iff_lt, Nat.not_lt.2 hle, hb, ne_eq, not_true_eq_false, Bool.false_eq_true, if_false]

/-- Settles O3: MEM_INVALIDATE by its range and by what is outstanding there, SLICE_DIRTY_LOG by its OP. -/
theorem clearingAndDirtyLog : Obligations.ClearingAndDirtyLog := by
  unfold Obligations.ClearingAndDirtyLog
  refine ⟨?goesOn, ?notOwner, ?badParam, ?clearDram, ?clearLines, ?disable, ?enable, ?readClear⟩
  case goesOn =>
    intro s p pl h ha hn hz hpl ho
    exact State.on_of_eq ((memInvalidate_of_place h ha hn hz hpl).trans (if_pos ho))
  case notOwner =>
    intro s p pl h ha hn hz hpl ho
    exact State.on_of_eq ((memInvalidate_of_place h ha hn hz hpl).trans (if_neg (Bool.eq_false_iff.1 ho)))
  case badParam =>
    intro s p h hb
    exact State.on_of_eq (memInvalidate_of_bad h hb)
  case clearDram =>
    intro s p hp hop hph ha hb
    exact State.on_of_eq (memInvalidateClear_dram hp hop hph ha hb)
  case clearLines =>
    intro s p hp hop hph ha hb
    exact State.on_of_eq (memInvalidateClear_lines hp hop hph ha hb)
  case disable =>
    intro s p h hop hb
    exact State.on_of_eq (Chip.dirtyLogOp_of_legal h hop (by decide) hb)
  case enable =>
    intro s p h hop hb
    exact State.on_of_eq (Chip.dirtyLogOp_of_legal h hop (by decide) hb)
  case readClear =>
    intro s p h hop hb
    exact State.on_of_eq (Chip.dirtyLogOp_of_legal h hop (by decide) hb)

/-! ### FUNCTION_DISABLE and FUNCTION_ENABLE (R52 to R54) -/

section Functions
variable {c : Chip} {p : Packet}

/-- R52: the causes of BAD_PARAM of a FUNCTION_DISABLE packet, whichever its OP. -/
abbrev Chip.functionBad (c : Chip) (p : Packet) : Prop :=
  64 ≤ p.u 32 1 ∨ 1 < p.u 33 1 ∨ 64 ≤ p.u 34 2 ∨ !zeroIn p.bytes 40 64 ∨ 1000000 < p.u 36 4 ∨ (c.slice? (p.u 32 1)).isNone

theorem Chip.functionBad_iff : c.functionBad p ↔
    64 ≤ p.u 32 1 ∨ 1 < p.u 33 1 ∨ 64 ≤ p.u 34 2 ∨ zeroIn p.bytes 40 64 = false ∨ 1000000 < p.u 36 4 ∨ c.slice? (p.u 32 1) = none := by
  simp only [Chip.functionBad, Bool.not_eq_true', Option.isNone_iff_eq_none]

theorem Chip.not_functionBad (h64 : p.u 32 1 < 64) (hop : p.u 33 1 ≤ 1) (hm : p.u 34 2 < 64) (ht : p.u 36 4 ≤ 1000000)
    (hz : zeroIn p.bytes 40 64 = true) (hs : (c.slice? (p.u 32 1)).isSome = true) : ¬ c.functionBad p := by
  have hs' : (c.slice? (p.u 32 1)).isNone = false := Option.isNone_eq_false_iff.2 hs
  simp only [Chip.functionBad, hz, hs', Nat.not_le.2 h64, Nat.not_lt.2 hop, Nat.not_le.2 hm, Nat.not_lt.2 ht]
  decide

/-- The functions of the packet's mask that no drain of the slice covers yet. -/
abbrev Chip.newlyDrained (c : Chip) (p : Packet) : Nat := p.u 34 2 &&& (63 ^^^ (c.draining (p.u 32 1) &&& 63))

/-- R53 step 1: the functions of the mask are refused, and the packet goes on running. -/
abbrev Chip.refusedBy (c : Chip) (p : Packet) : Chip :=
  ((c.refuseFunctions (p.u 32 1) (p.u 34 2)).keepRunning p.id).stampReady

variable (h : c.startedAs p 0x803)
include h

theorem functionDisable_of_bad (hop : bitOf (p.u 33 1) 0 = false) (hb : c.functionBad p) :
    functionDisable p.id c = c.finish p.id stBadParam :=
  (Chip.onPacket_of_startedAs h).trans ((if_neg (Bool.eq_false_iff.1 hop)).trans (if_pos hb))

theorem functionDisable_starts (hop : bitOf (p.u 33 1) 0 = false) (hb : ¬ c.functionBad p)
    (hm : p.u 34 2 = 0 ∨ c.newlyDrained p ≠ 0) :
    functionDisable p.id c = { c.refusedBy p with
      drains := (c.refusedBy p).drains ++ [{ slice := p.u 32 1, mask := p.u 34 2, own := c.newlyDrained p, deadline := (c.refusedBy p).now + drainUs (p.u 36 4) * 1000, packet := p.id }] } := by
  have hj : ¬ (p.u 34 2 ≠ 0 ∧ c.newlyDrained p = 0) := fun ⟨h0, hn⟩ => hm.elim h0 (· hn)
  exact (Chip.onPacket_of_startedAs h).trans ((if_neg (Bool.eq_false_iff.1 hop)).trans ((if_neg hb).trans (if_neg hj)))

theorem functionDisable_joins (hop : bitOf (p.u 33 1) 0 = false) (hb : ¬ c.functionBad p) (hm : p.u 34 2 ≠ 0)
    (hn : c.newlyDrained p = 0) :
    functionDisable p.id c = (c.refusedBy p).updDrains
      (fun d => if d.slice = p.u 32 1 ∧ d.own &&& p.u 34 2 ≠ 0 then { d with joined := d.joined ++ [p.id] } else d) :=
  (Chip.onPacket_of_startedAs h).trans ((if_neg (Bool.eq_false_iff.1 hop)).trans ((if_neg hb).trans (if_pos ⟨hm, hn⟩)))

theorem functionEnable_of_bad (hop : bitOf (p.u 33 1) 0 = true) (hb : c.functionBad p) :
    functionEnable p.id c = c.finish p.id stBadParam :=
  (Chip.onPacket_of_startedAs h).trans ((if_neg (by rw [hop]; decide)).trans (if_pos hb))

theorem functionEnable_waits (hop : bitOf (p.u 33 1) 0 = true) (hb : ¬ c.functionBad p)
    (hd : c.draining (p.u 32 1) &&& p.u 34 2 ≠ 0) :
    functionEnable p.id c =
      ((c.updSlice (p.u 32 1) (fun x => { x with disabled := x.disabled &&& (0xFFFF ^^^ (p.u 34 2 &&& (0xFFFF ^^^ (c.draining (p.u 32 1) &&& p.u 34 2)))) })).updDrains
        (fun d => if d.slice = p.u 32 1 ∧ d.own &&& p.u 34 2 ≠ 0 then { d with enables := d.enables ++ [(p.id, d.own &&& p.u 34 2)] } else d)).keepRunning p.id :=
  (Chip.onPacket_of_startedAs h).trans ((if_neg (by rw [hop]; decide)).trans ((if_neg hb).trans (if_neg hd)))

theorem functionEnable_at_once (hop : bitOf (p.u 33 1) 0 = true) (hb : ¬ c.functionBad p)
    (hd : c.draining (p.u 32 1) &&& p.u 34 2 = 0) :
    functionEnable p.id c =
      (c.updSlice (p.u 32 1) (fun x => { x with disabled := x.disabled &&& (0xFFFF ^^^ (p.u 34 2 &&& 0xFFFF)) })).finish p.id stDone := by
  refine (Chip.onPacket_of_startedAs h).trans ((if_neg (by rw [hop]; decide)).trans ((if_neg hb).trans ((if_pos hd).trans ?_)))
  simp only [hd, Nat.xor_zero]

end Functions

/-! ### Drains (R53, R54, R56) -/

section Drains
variable {c : Chip} {p : Part} {d : Drain}

section Timeout
variable (hd : c.drains.find? (fun e => e.packet == d.packet) = some d)
include hd

theorem functionDisableTimeout_before (ht : c.now < d.deadline) : functionDisableTimeout d.packet c = c := by
  simp only [functionDisableTimeout, hd, ht, or_true, if_true]

theorem functionDisableTimeout_aborts (hto : d.timedOut = false) (ht : d.deadline ≤ c.now) :
    functionDisableTimeout d.packet c = (c.abortFlying d.slice d.own stAbortedByDisable).2.updDrains (fun e =>
      if e.packet = d.packet then { e with timedOut := true, aborted := e.aborted + (c.abortFlying d.slice d.own stAbortedByDisable).1 } else e) := by
  simp only [functionDisableTimeout, hd, hto, Nat.not_lt.2 ht, Bool.false_eq_true, or_self, if_false]

end Timeout

/-- A drain that no other packet joined and no ENABLE waits for ends with its event alone. -/
theorem Chip.endDrain_of_alone (hj : d.joined = []) (he : d.enables = []) :
    c.endDrain d =
      let e := c.event d.slice 0x0004 0xFFFF (c.seqOf d.packet) d.mask d.aborted
      Chip.updSlice { e with drains := e.drains.filter (fun g => g.packet != d.packet) } d.slice
        (fun x => { x with disabled := x.disabled &&& 0xFFFF }) := by
  simp only [Chip.endDrain, hj, he, List.filter_nil, List.foldl_nil, Nat.xor_zero]

section Drained
variable (hd : p.chip.drains.find? (fun e => e.packet == d.packet) = some d)
include hd

theorem functionDisableDrained_under_way (ho : p.chip.drainOver d = false) : functionDisableDrained d.packet p = p := by
  simp only [functionDisableDrained, hd, ho, Bool.false_eq_true, if_false]

theorem functionDisableDrained_answers (ho : p.chip.drainOver d = true)
    (hx : (p.chip.endDrain d).destroys.find? (fun x => x.packet == d.packet) = none) :
    functionDisableDrained d.packet p = { p with chip := (p.chip.endDrain d).finish d.packet stDone d.aborted } := by
  simp only [functionDisableDrained, hd, ho, hx, if_true]

theorem functionDisableDrained_answers_alone (hj : d.joined = []) (he : d.enables = []) (ho : p.chip.drainOver d = true)
    (hx : (p.chip.endDrain d).destroys.find? (fun x => x.packet == d.packet) = none) :
    functionDisableDrained d.packet p =
      let e := p.chip.event d.slice 0x0004 0xFFFF (p.chip.seqOf d.packet) d.mask d.aborted
      { p with chip := (Chip.updSlice { e with drains := e.drains.filter (fun g => g.packet != d.packet) } d.slice
        (fun x => { x with disabled := x.disabled &&& 0xFFFF })).finish d.packet stDone d.aborted } := by
  rw [functionDisableDrained_answers hd ho hx, Chip.endDrain_of_alone hj he]

/-- R56: the drain of a SLICE_DESTROY goes on with the destruction. -/
theorem functionDisableDrained_destroys {x : Destroy} (ho : p.chip.drainOver d = true)
    (hx : (p.chip.endDrain d).destroys.find? (fun x => x.packet == d.packet) = some x) :
    functionDisableDrained d.packet p = Part.drainedDestroy { p with chip := p.chip.endDrain d } x := by
  simp only [functionDisableDrained, hd, ho, hx, if_true]

end Drained

end Drains

/-- Settles O4: packets by their fields and by the drains that stand, drains by their time and by what is in flight. -/
theorem functionsDrainAndReturn : Obligations.FunctionsDrainAndReturn := by
  unfold Obligations.FunctionsDrainAndReturn
  refine ⟨?starts, ?joins, ?waits, ?atOnce, ?disableBad, ?enableBad, ?timeout, ?before, ?endsAlone, ?ends, ?destroys, ?underWay⟩
  case starts =>
    intro s p h h64 hop hm ht hz hs hn
    exact State.on_of_eq (functionDisable_starts h (by rw [hop]; rfl) (Chip.not_functionBad h64 (by omega) hm ht hz hs) hn)
  case joins =>
    intro s p h h64 hop hm ht hz hs h0 hn
    exact State.on_of_eq (functionDisable_joins h (by rw [hop]; rfl) (Chip.not_functionBad h64 (by omega) hm ht hz hs) h0 hn)
  case waits =>
    intro s p h h64 hop hm ht hz hs hd
    exact State.on_of_eq (functionEnable_waits h (by rw [hop]; rfl) (Chip.not_functionBad h64 (by omega) hm ht hz hs) hd)
  case atOnce =>
    intro s p h h64 hop hm ht hz hs hd
    exact State.on_of_eq (functionEnable_at_once h (by rw [hop]; rfl) (Chip.not_functionBad h64 (by omega) hm ht hz hs) hd)
  case disableBad =>
    intro s p h hop hb
    exact State.on_of_eq (functionDisable_of_bad h hop (Chip.functionBad_iff.2 hb))
  case enableBad =>
    intro s p h hop hb
    exact State.on_of_eq (functionEnable_of_bad h hop (Chip.functionBad_iff.2 hb))
  case timeout =>
    intro s d hd hto ht
    exact State.on_of_eq (functionDisableTimeout_aborts hd hto ht)
  case before =>
    intro s d hd ht
    exact State.on_of_eq (functionDisableTimeout_before hd ht)
  case endsAlone =>
    intro s d hd hj he ho hx c
    exact State.onPart_of_eq (functionDisableDrained_answers_alone hd hj he ho hx)
  case ends =>
    intro s d hd ho hx
    exact State.onPart_of_eq (functionDisableDrained_answers hd ho hx)
  case destroys =>
    intro s d x hd ho hx
    exact State.onPart_of_eq (functionDisableDrained_destroys hd ho hx)
  case underWay =>
    intro s d hd ho
    exact State.onPart_of_eq (functionDisableDrained_under_way hd ho)

end Sys2Proof.Machine

/-!
PROOFS. ABMOR's command rings (R57 to R85): what a signal does to a sync object, one rule for each outcome of a doorbell
page's write, of a ring's and an event ring's steps and of a generic packet, and the six obligations over them.
-/

namespace Sys2Proof.Machine

/-! ### Sync objects (R78, R82) -/

section SyncObjects
variable {x y : W64} {v w n : Nat} {e : Bool}

theorem syncCount_lt (x : W64) : syncCount x < 2 ^ 63 := Nat.mod_lt _ (by decide)

theorem mkSync_toNat (n : Nat) (e : Bool) : (mkSync n e).toNat = n % 2 ^ 63 + if e then 2 ^ 63 else 0 := by
  rw [mkSync, BitVec.toNat_ofNat, Nat.mod_eq_of_lt]
  split <;> omega

theorem syncCount_mkSync (hn : n < 2 ^ 63) : syncCount (mkSync n e) = n := by
  rw [syncCount, mkSync_toNat]
  split <;> omega

@[simp] theorem syncErr_mkSync : syncErr (mkSync n e) = e := by
  rw [syncErr, mkSync_toNat]
  cases e
  · simpa using Nat.mod_lt n (by decide)
  · simp

/-- An object is its count and its error bit. -/
theorem sync_ext (hc : syncCount x = syncCount y) (he : syncErr x = syncErr y) : x = y := by
  have hx := x.isLt
  have hy := y.isLt
  simp only [syncErr, decide_eq_decide] at he
  simp only [syncCount] at hc
  exact BitVec.eq_of_toNat_eq (by omega)

theorem syncCount_setMax (hv : v < 2 ^ 63) : syncCount ((Signal.setMax v).apply x) = max (syncCount x) v :=
  syncCount_mkSync (Nat.max_lt.2 ⟨syncCount_lt x, hv⟩)

theorem syncErr_setMax : syncErr ((Signal.setMax v).apply x) = syncErr x := syncErr_mkSync

theorem syncCount_reset (hv : v < 2 ^ 63) : syncCount ((Signal.reset v).apply x) = v := syncCount_mkSync hv

theorem syncErr_reset : syncErr ((Signal.reset v).apply x) = false := syncErr_mkSync

theorem syncCount_setError : syncCount (Signal.setError.apply x) = syncCount x := syncCount_mkSync (syncCount_lt x)

theorem syncErr_setError : syncErr (Signal.setError.apply x) = true := syncErr_mkSync

theorem Signal.apply_add_of_fits (h : syncCount x + v < 2 ^ 63) : (Signal.add v).apply x = mkSync (syncCount x + v) (syncErr x) :=
  if_neg (Nat.not_le.2 h)

theorem Signal.apply_add_of_past (h : 2 ^ 63 ≤ syncCount x + v) : (Signal.add v).apply x = mkSync (2 ^ 63 - 1) true :=
  if_pos h

/-- R82: an ADD saturates. -/
theorem syncCount_add : syncCount ((Signal.add v).apply x) = min (syncCount x + v) (2 ^ 63 - 1) := by
  obtain h | h := Nat.lt_or_ge (syncCount x + v) (2 ^ 63)
  · rw [Signal.apply_add_of_fits h, syncCount_mkSync h]
    omega
  · rw [Signal.apply_add_of_past h, syncCount_mkSync (by decide)]
    omega

/-- R82: an ADD past the largest count sets the error bit. -/
theorem syncErr_add : syncErr ((Signal.add v).apply x) = (syncErr x || decide (2 ^ 63 ≤ syncCount x + v)) := by
  obtain h | h := Nat.lt_or_ge (syncCount x + v) (2 ^ 63)
  · rw [Signal.apply_add_of_fits h, syncErr_mkSync, decide_eq_false (Nat.not_le.2 h), Bool.or_false]
  · rw [Signal.apply_add_of_past h, syncErr_mkSync, decide_eq_true h, Bool.or_true]

theorem Signal.apply_setMax_comm (hv : v < 2 ^ 63) (hw : w < 2 ^ 63) :
    (Signal.setMax v).apply ((Signal.setMax w).apply x) = (Signal.setMax w).apply ((Signal.setMax v).apply x) := by
  apply sync_ext
  · simp only [syncCount_setMax hv, syncCount_setMax hw]
    omega
  · simp only [syncErr_setMax]

/-- Two ADD signals reach the largest count together or not at all, whichever is first. -/
theorem syncErr_add_add : syncErr ((Signal.add v).apply ((Signal.add w).apply x)) =
    (syncErr x || decide (2 ^ 63 ≤ syncCount x + w + v)) := by
  have hsum : 2 ^ 63 ≤ syncCount x + w ∨ 2 ^ 63 ≤ min (syncCount x + w) (2 ^ 63 - 1) + v ↔ 2 ^ 63 ≤ syncCount x + w + v := by
    omega
  rw [syncErr_add, syncErr_add, syncCount_add, Bool.or_assoc, ← Bool.decide_or, decide_eq_decide.2 hsum]

theorem Signal.apply_add_comm :
    (Signal.add v).apply ((Signal.add w).apply x) = (Signal.add w).apply ((Signal.add v).apply x) := by
  apply sync_ext
  · simp only [syncCount_add]
    omega
  · rw [syncErr_add_add, syncErr_add_add, Nat.add_right_comm]

end SyncObjects

/-- Settles O56: each signal by the count and the error bit it leaves, and two of a kind by those of the pair. -/
theorem signalsOnSyncObjects : Obligations.SignalsOnSyncObjects := by
  unfold Obligations.SignalsOnSyncObjects
  refine ⟨?_, ?_, ?_⟩
  · intro x v hv
    exact ⟨syncCount_setMax hv, syncErr_setMax, syncCount_reset hv, syncErr_reset, syncCount_setError, syncErr_setError⟩
  · intro x v _
    exact ⟨syncCount_add, syncErr_add⟩
  · intro x v w hv hw
    exact ⟨Signal.apply_setMax_comm hv hw, Signal.apply_add_comm⟩

/-! ### Doorbell pages (R59, R61, R69, R85) -/

theorem doorbellMisuse_write (cause m i off : Nat) (c : Chip) : doorbellMisuse cause m i off true c =
    c.error { severity := 0, cause := cause, source := 15, master := m, slice := i, target := 50, addr := dbPage i + off } :=
  if_pos rfl

theorem doorbellMisuse_read (cause m i off : Nat) (c : Chip) : doorbellMisuse cause m i off false c = c :=
  if_neg Bool.false_ne_true

section Doorbell
variable {c : Chip} {i r k v : Nat}

section SyncWindow
variable {sl : Slice} {v : W64} (hs : c.slice? i = some sl)
include hs

theorem syncWindowWrite_within (hk : k < 4096) (hc : k < sl.syncCount) (hr : sl.retired = false) :
    syncWindowWrite i k v c = (c.signal (sl.syncBase + k) (.setMax (v.toNat % 2 ^ 63))).stampReady := by
  simp only [syncWindowWrite, hs, hk, hc, hr, and_self, if_true]

/-- R85: an offset past SYNC_COUNT is ignored, and every offset once the slice's rings are gone (R56). -/
theorem syncWindowWrite_ignored (h : sl.syncCount ≤ k ∨ sl.retired = true) : syncWindowWrite i k v c = c := by
  have hn : ¬ (k < 4096 ∧ k < sl.syncCount ∧ sl.retired = false) := by
    rintro ⟨_, hc, hr⟩
    exact h.elim (Nat.not_le.2 hc) (by rw [hr]; exact Bool.false_ne_true)
  simp only [syncWindowWrite, hs, if_neg hn]

end SyncWindow

theorem headBad_eq_false {h t v : Nat} (hle : idxSub v h ≤ idxSub t h) : headBad h t v = false :=
  decide_eq_false (Nat.not_lt.2 hle)

theorem headBad_eq_true {h t v : Nat} (hlt : idxSub t h < idxSub v h) : headBad h t v = true := decide_eq_true hlt

theorem Chip.ringError_of_stopped {cause d seq : Nat} (hk : c.ringKept i r = rsStopped) : c.ringError i r cause d seq = c :=
  if_pos hk

theorem Chip.ringError_of_running {cause d seq : Nat} (hk : c.ringKept i r ≠ rsStopped) :
    c.ringError i r cause d seq = c.stopRing i r cause d seq :=
  if_neg hk

theorem cqHeadWrite_without_ring (hr : c.hasRing i r = false) : cqHeadWrite i r v c = c := by
  simp only [cqHeadWrite, hr, Bool.not_false, if_true]

section CqHead
variable (hv : v < 2 ^ 32)
include hv

theorem cqHeadWrite_moves (hr : c.hasRing i r = true)
    (hle : idxSub v (c.reg (CQ_HEAD i r)) ≤ idxSub (c.reg (CQ_TAIL i r)) (c.reg (CQ_HEAD i r))) :
    cqHeadWrite i r v c = (c.setReg (CQ_HEAD i r) v).stampReady := by
  simp only [cqHeadWrite, Nat.mod_eq_of_lt hv, hr, headBad_eq_false hle, Bool.not_true, Bool.false_eq_true, if_false]

/-- R69: a head past the tail or moved backwards is a ring error. -/
theorem cqHeadWrite_of_bad (hr : c.hasRing i r = true)
    (hlt : idxSub (c.reg (CQ_TAIL i r)) (c.reg (CQ_HEAD i r)) < idxSub v (c.reg (CQ_HEAD i r))) :
    cqHeadWrite i r v c = c.ringError i r 0x06 v := by
  simp only [cqHeadWrite, Nat.mod_eq_of_lt hv, hr, headBad_eq_true hlt, Bool.not_true, Bool.false_eq_true, if_false, if_true]

end CqHead

theorem eqHeadWrite_moves (hv : v < 2 ^ 32) (he : c.hasEvents i = true)
    (hle : idxSub v (c.reg (EQ_HEAD i)) ≤ idxSub (c.reg (EQ_TAIL i)) (c.reg (EQ_HEAD i))) :
    eqHeadWrite i v c = (c.setReg (EQ_HEAD i) v).eventFlush i := by
  simp only [eqHeadWrite, Nat.mod_eq_of_lt hv, he, headBad_eq_false hle, Bool.not_true, Bool.or_self, Bool.false_eq_true, if_false]

/-- R61: a head past the tail or moved backwards is ignored. -/
theorem eqHeadWrite_ignored (hv : v < 2 ^ 32)
    (hlt : idxSub (c.reg (EQ_TAIL i)) (c.reg (EQ_HEAD i)) < idxSub v (c.reg (EQ_HEAD i))) : eqHeadWrite i v c = c := by
  simp only [eqHeadWrite, Nat.mod_eq_of_lt hv, headBad_eq_true hlt, Bool.or_true, if_true]

end Doorbell

/-- Settles O5: each write of a doorbell page by its size, by its index and by where it would put the head. -/
theorem doorbellPageWrites : Obligations.DoorbellPageWrites := by
  unfold Obligations.DoorbellPageWrites
  refine ⟨?lowerHalf, ?badWrite, ?badSyncWrite, ?badRead, ?syncWithin, ?syncIgnored, ?cqMoves, ?cqStops, ?cqIgnored, ?eqMoves,
    ?eqIgnored⟩
  case lowerHalf =>
    intro s i off v
    exact State.on_eq s (holdLowerHalf i off v)
  case badWrite =>
    intro s m i off
    exact State.on_of_eq (doorbellMisuse_write 2 m i off s.chip)
  case badSyncWrite =>
    intro s m i off
    exact State.on_of_eq (doorbellMisuse_write 1 m i off s.chip)
  case badRead =>
    intro s m i off
    exact ⟨State.on_of_eq (doorbellMisuse_read 2 m i off s.chip), State.on_of_eq (doorbellMisuse_read 1 m i off s.chip)⟩
  case syncWithin =>
    intro s i k v sl hs hk hc hr
    exact State.on_of_eq (syncWindowWrite_within hs hk hc hr)
  case syncIgnored =>
    intro s i k v sl hs h
    exact State.on_of_eq (syncWindowWrite_ignored hs h)
  case cqMoves =>
    intro s i r v hr hle
    exact State.on_of_eq (cqHeadWrite_moves v.isLt hr hle)
  case cqStops =>
    intro s i r v hr hk hlt
    exact State.on_of_eq ((cqHeadWrite_of_bad v.isLt hr hlt).trans (Chip.ringError_of_running hk))
  case cqIgnored =>
    intro s i r v h
    cases hr : s.chip.hasRing i r with
    | false => exact State.on_of_eq (cqHeadWrite_without_ring hr)
    | true =>
      obtain ⟨hk, hlt⟩ := h.resolve_left (by rw [hr]; decide)
      exact State.on_of_eq ((cqHeadWrite_of_bad v.isLt hr hlt).trans (Chip.ringError_of_stopped hk))
  case eqMoves =>
    intro s i v he hle
    exact State.on_of_eq (eqHeadWrite_moves v.isLt he hle)
  case eqIgnored =>
    intro s i v hlt
    exact State.on_of_eq (eqHeadWrite_ignored v.isLt hlt)


/-! ### Rings and event rings enabled, disabled and drained (R57, R58, R63, R86) -/

section Rings
variable {c : Chip} {i r n : Nat}

section Enable
variable (hr : c.hasRing i r = true) (hk : c.ringKept i r = rsDisabled)
include hr hk

theorem ringEnable_starts (hc : (c.setReg (SQ_CTRL i r) (n % 32 + 2 ^ 31)).ringConfig i r = none) :
    ringEnable i r n c = (c.setReg (SQ_CTRL i r) (n % 32 + 2 ^ 31)).startRing i r := by
  simp only [ringEnable, hr, hk, hc, ne_eq, not_true_eq_false, decide_false, Bool.not_true, Bool.or_self, Bool.false_eq_true, if_false]

/-- R63, R69: a ring whose size or place is not legal is stopped. -/
theorem ringEnable_stops {cause d : Nat}
    (hc : (c.setReg (SQ_CTRL i r) (n % 32 + 2 ^ 31)).ringConfig i r = some (cause, d)) :
    ringEnable i r n c = (c.setReg (SQ_CTRL i r) (n % 32 + 2 ^ 31)).stopRing i r cause d := by
  simp only [ringEnable, hr, hk, hc, ne_eq, not_true_eq_false, decide_false, Bool.not_true, Bool.or_self, Bool.false_eq_true, if_false]

end Enable

theorem ringDisable_drains (hr : c.hasRing i r = true) (hk : c.ringKept i r ≠ rsDisabled) :
    ringDisable i r c =
      ((c.setFld (SQ_CTRL i r) SQ_CTRL.ENABLE 0).setFld (RING_STATUS i r) RING_STATUS.STATE rsDraining).discardUnstarted i r := by
  simp only [ringDisable, hr, hk, decide_false, Bool.not_true, Bool.or_self, Bool.false_eq_true, if_false]

theorem ringDrained_disables (hk : c.ringKept i r = rsDraining) (hp : (c.ringPackets i r).isEmpty = true) :
    ringDrained i r c = c.setFld (RING_STATUS i r) RING_STATUS.STATE rsDisabled :=
  if_pos ⟨hk, hp⟩

theorem ringDrained_before (h : c.ringKept i r ≠ rsDraining ∨ (c.ringPackets i r).isEmpty = false) : ringDrained i r c = c :=
  if_neg fun ⟨hk, hp⟩ => h.elim (· hk) fun he => Bool.false_ne_true (he.symm.trans hp)

/-- R58: whose the pages are does not depend on the registers. -/
@[simp] theorem Chip.ringPlaced_setReg (c : Chip) (g : Reg) (v s base log2 entry : Nat) :
    (c.setReg g v).ringPlaced s base log2 entry = c.ringPlaced s base log2 entry := rfl

section EventRing
variable (he : c.hasEvents i = true) (hf : c.flag (EQ_CTRL i) EQ_CTRL.ENABLE = false)
include he hf

theorem eventRingEnable_starts (h4 : 4 ≤ n) (h16 : n ≤ 16)
    (hp : c.ringPlaced i ((c.setReg (EQ_CTRL i) n).fld (EQ_BASE i) EQ_BASE.BASE) n 32 = true) :
    eventRingEnable i n c =
      ((((c.setReg (EQ_CTRL i) n).setFld (EQ_CTRL i) EQ_CTRL.ENABLE 1).setReg (EQ_TAIL i) 0).setReg (EQ_HEAD i) 0).eventFlush i := by
  have hn : n % 32 = n := Nat.mod_eq_of_lt (by omega)
  simp only [eventRingEnable, he, hf, hn, hp, Chip.ringPlaced_setReg, Nat.not_lt.2 h4, Nat.not_lt.2 h16, Bool.not_true, Bool.or_self,
    Bool.false_eq_true, or_self, if_false]

/-- R86: an event ring of a size that is not legal stays disabled, and a record says so. -/
theorem eventRingEnable_of_bad_size (hn : n < 4 ∨ (16 < n ∧ n < 32)) :
    eventRingEnable i n c = (c.setReg (EQ_CTRL i) n).error
      { severity := 0, cause := 3, source := 15, slice := i, target := 50, addr := (c.setReg (EQ_CTRL i) n).fld (EQ_BASE i) EQ_BASE.BASE * 4096 } := by
  have hm : n % 32 = n := Nat.mod_eq_of_lt (by omega)
  have hb : n < 4 ∨ 16 < n := hn.imp_right And.left
  simp only [eventRingEnable, he, hf, hm, ← or_assoc, hb, Bool.not_true, Bool.or_self, Bool.false_eq_true, true_or, if_false, if_true]

end EventRing

end Rings

/-- Settles O6: ENABLE by the ring's state and by what its checks answer, a drain by the packets left, an event ring by its size. -/
theorem ringsEnableAndDrain : Obligations.RingsEnableAndDrain := by
  unfold Obligations.RingsEnableAndDrain
  refine ⟨?starts, ?stops, ?drains, ?drained, ?draining, ?eventsStart, ?eventsBad⟩
  case starts =>
    intro s i r n hr hk hc
    exact State.on_of_eq (ringEnable_starts hr hk hc)
  case stops =>
    intro s i r n cause d hr hk hc
    exact State.on_of_eq (ringEnable_stops hr hk hc)
  case drains =>
    intro s i r hr hk
    exact State.on_of_eq (ringDisable_drains hr hk)
  case drained =>
    intro s i r hk hp
    exact State.on_of_eq (ringDrained_disables hk hp)
  case draining =>
    intro s i r h
    exact State.on_of_eq (ringDrained_before h)
  case eventsStart =>
    intro s i n he hf h4 h16 hp hbase
    exact State.on_of_eq (eventRingEnable_starts he hf h4 h16 (by rw [hbase]; exact hp))
  case eventsBad =>
    intro s i n he hf hn c
    exact State.on_of_eq (eventRingEnable_of_bad_size he hf hn)

/-! ### Tails, fetching, starting and completing (R64 to R69) -/

section Tail
variable {c : Chip} {i r v : Nat} (hv : v < 2 ^ 32) (hr : c.hasRing i r = true) (hl : c.ringLive i r = true)
include hv hr hl

/-- R65: a tail moved back by less than 2^31 is a ring error. -/
theorem sqTailWrite_backwards (hd : 2 ^ 31 ≤ idxSub v (c.ringTail i r)) : sqTailWrite i r v c = c.stopRing i r 0x01 v := by
  have h0 : idxSub v (c.ringTail i r) ≠ 0 := by omega
  simp only [sqTailWrite, Nat.mod_eq_of_lt hv, hr, hl, h0, ge_iff_le, hd, Bool.not_true, Bool.or_self, Bool.false_eq_true, if_false,
    if_true]

/-- A tail moved forward is judged by the slots it covers past the head (R65). -/
theorem sqTailWrite_forward (h0 : 0 < idxSub v (c.ringTail i r)) (hd : idxSub v (c.ringTail i r) < 2 ^ 31) :
    sqTailWrite i r v c =
      if 2 ^ c.fld (SQ_CTRL i r) SQ_CTRL.LOG2_SLOTS < idxSub v (c.reg (SQ_HEAD i r)) then c.stopRing i r 0x02 v
      else { c with rings := AMap.upd c.rings (ringKey i r) {} (fun g => { g with tail := v }) } := by
  simp only [sqTailWrite, Nat.mod_eq_of_lt hv, hr, hl, Nat.pos_iff_ne_zero.1 h0, ge_iff_le, Nat.not_le.2 hd, gt_iff_lt, Bool.not_true,
    Bool.or_self, Bool.false_eq_true, if_false]

end Tail

theorem idxSub_eq_zero {a b : Nat} (h : a % 2 ^ 32 = b % 2 ^ 32) : idxSub a b = 0 := by
  rw [idxSub]
  omega

section Fetch
variable {c : Chip} {i r a : Nat}

/-- R69: a slot read that failed stops a ring that is not stopped already. -/
theorem Chip.fetchFailed_eq (c : Chip) (i r a : Nat) (o : Served) :
    c.fetchFailed i r a o = c.ringError i r (if o = .denied then 0x04 else 0x05) a := by
  by_cases ho : o = .denied
  · simp only [Chip.fetchFailed, ho, if_true]
  · simp only [Chip.fetchFailed, ho, if_false]

/-- A ring without a slot to fetch, or with a packet at its head, fetches nothing (R64, R77, R79). -/
theorem packetFetch_idle (h : c.hasRing i r = false ∨ c.ringLive i r = false ∨ (c.headOf i r).isSome = true ∨
    (c.headHeld i r).isSome = true ∨ idxSub (c.ringTail i r) (c.reg (SQ_HEAD i r)) = 0) : packetFetch i r c = c := by
  cases hs : c.slice? i with
  | none => simp only [packetFetch, hs]
  | some sl =>
    obtain h | h | h | h | h := h <;>
      simp only [packetFetch, hs, h, decide_true, Bool.not_false, Bool.true_or, Bool.or_true, if_true]

variable {sl : Slice} (hs : c.slice? i = some sl) (hr : c.hasRing i r = true) (hl : c.ringLive i r = true)
  (ho : c.headOf i r = none) (hh : c.headHeld i r = none) (hf : 0 < idxSub (c.ringTail i r) (c.reg (SQ_HEAD i r)))
include hs hr hl ho hh hf

theorem packetFetch_fetches {a2 : Nat} {b b2 : List Byte} {c1 c2 : Chip}
    (h1 : c.readSlots i r 1 (c.reg (SQ_HEAD i r)) = (.ok, b, a, c1))
    (hn : bitsOf (bytesU b 0 2) 13 12 + 1 ≤ idxSub (c.ringTail i r) (c.reg (SQ_HEAD i r)))
    (h2 : c1.readSlots i r (bitsOf (bytesU b 0 2) 13 12) (c.reg (SQ_HEAD i r) + 1) = (.ok, b2, a2, c2)) :
    packetFetch i r c =
      (c2.setReg (SQ_HEAD i r) (idxAdd (c.reg (SQ_HEAD i r)) (bitsOf (bytesU b 0 2) 13 12 + 1))).holdPacket sl i r (b ++ b2) := by
  simp only [packetFetch, hs, hr, hl, ho, hh, Nat.pos_iff_ne_zero.1 hf, h1, Nat.not_lt.2 hn, Nat.add_sub_cancel, h2, Option.isSome_none,
    decide_false, Bool.not_true, Bool.or_self, Bool.false_eq_true, if_false]

theorem packetFetch_of_failed {o : Served} {b : List Byte} {c1 : Chip}
    (h1 : c.readSlots i r 1 (c.reg (SQ_HEAD i r)) = (o, b, a, c1)) (hok : o ≠ .ok) :
    packetFetch i r c = c1.fetchFailed i r a o := by
  cases o with
  | ok => exact absurd rfl hok
  | _ =>
    simp only [packetFetch, hs, hr, hl, ho, hh, Nat.pos_iff_ne_zero.1 hf, h1, Option.isSome_none, decide_false, Bool.not_true,
      Bool.or_self, Bool.false_eq_true, if_false]

end Fetch

section StartAndComplete
variable {c : Chip} {p : Packet}

theorem packetStart_starts
    (h : (if c.stampReady.starts % 16 = 15 then longestReady (c.stampReady.packets.filter c.stampReady.ready)
      else c.stampReady.bestReady (c.stampReady.packets.filter c.stampReady.ready)) = some p) :
    packetStart c = (c.stampReady.startPacket p).stampReady := by
  simp only [packetStart, h]

theorem packetStart_of_none_ready (h : c.stampReady.packets.filter c.stampReady.ready = []) : packetStart c = c.stampReady := by
  simp only [packetStart, h, longestReady, Chip.bestReady, ite_self]

theorem packetComplete_of_done {st : Nat} {res det : W64} (hp : c.packet? p.id = some p) (hd : p.phase = .done st res det) :
    packetComplete p.id c = ((c.complete p st res det).giveBack (.copy p.id)).dropPending p.id := by
  simp only [packetComplete, hp, hd]

end StartAndComplete

/-- Settles O7: a tail by how far it moves, a fetch by what its reads answer, a start by the heads that are ready. -/
theorem ringsFetchStartComplete : Obligations.RingsFetchStartComplete := by
  unfold Obligations.RingsFetchStartComplete
  refine ⟨?tailTaken, ?tailBack, ?tailPast, ?fetches, ?starts, ?noneReady, ?readFails, ?idle, ?completes⟩
  case tailTaken =>
    intro s i r v hr hl h0 hd hle
    exact State.on_of_eq ((sqTailWrite_forward v.isLt hr hl h0 hd).trans (if_neg (Nat.not_lt.2 hle)))
  case tailBack =>
    intro s i r v hr hl hd
    exact State.on_of_eq (sqTailWrite_backwards v.isLt hr hl hd)
  case tailPast =>
    intro s i r v hr hl h0 hd hlt
    exact State.on_of_eq ((sqTailWrite_forward v.isLt hr hl h0 hd).trans (if_pos hlt))
  case fetches =>
    intro s i r a a2 sl b b2 c1 c2 hs hr hl ho hh hf h1 hn h2
    exact State.on_of_eq (packetFetch_fetches hs hr hl ho hh hf h1 hn h2)
  case starts =>
    intro s p h
    exact State.on_of_eq (packetStart_starts h)
  case noneReady =>
    intro s h
    exact State.on_of_eq (packetStart_of_none_ready h)
  case readFails =>
    intro s i r a sl o b c1 hs hr hl hn hh hf h1 hok
    exact State.on_of_eq ((packetFetch_of_failed hs hr hl hn hh hf h1 hok).trans (Chip.fetchFailed_eq c1 i r a o))
  case idle =>
    intro s i r h
    exact State.on_of_eq (packetFetch_idle (h.imp_right (Or.imp_right (Or.imp_right (Or.imp_right idxSub_eq_zero)))))
  case completes =>
    intro s p st res det hp hd
    exact State.on_of_eq (packetComplete_of_done hp hd)

/-! ### NOP and FENCE (R76, R77) -/

section Fence
variable {c : Chip} {p : Packet}

theorem nopPacket_done (h : c.startedAs p 0x010) : nopPacket p.id c = c.finish p.id stDone := Chip.onPacket_of_startedAs h

section Started
variable (h : c.startedAs p 0x011)
include h

theorem fencePacket_of_bad (hb : bitsOf (p.u 32 1) 7 1 ≠ 0 ∨ zeroIn p.bytes 33 64 = false) :
    fencePacket p.id c = c.finish p.id stBadParam :=
  (Chip.onPacket_of_startedAs h).trans (if_pos (hb.imp_right (congrArg not)))

/-- A FENCE with legal bytes goes on running while a packet of its set is in flight (R77). -/
theorem fencePacket_of_legal (h0 : bitsOf (p.u 32 1) 7 1 = 0) (hz : zeroIn p.bytes 33 64 = true) :
    fencePacket p.id c = if p.waitsFor = [] then c.finish p.id stDone else c.keepRunning p.id := by
  refine (Chip.onPacket_of_startedAs h).trans ?_
  simp only [h0, hz, List.isEmpty_iff, ne_eq, not_true_eq_false, Bool.not_true, Bool.false_eq_true, or_self, if_false]

end Started

theorem fenceRelease_done (hp : c.packet? p.id = some p) (hop : p.op = 0x011) (hph : p.phase = .running) (hw : p.waitsFor = []) :
    fenceRelease p.id c = (c.finish p.id stDone).stampReady := by
  simp only [fenceRelease, hp, hop, hph, hw, and_self, if_true]

end Fence

/-! ### SYNC_SIGNAL and SYNC_WAIT (R78, R79, R84) -/

section Sync
variable {c : Chip} {p : Packet} {sl : Slice}

section Signal
variable (h : c.startedAs p 0x012) (hs : c.slice? p.slice = some sl)
include h hs

theorem syncSignal_applies (hf : (signalEntries p).findSome? (entryFault sl 4) = none) :
    syncSignal p.id c =
      (((signalEntries p).foldl (fun c e => c.signal e.1 (entrySignal e)) c).finish p.id stDone).stampReady := by
  refine (Chip.onPacket_of_startedAs h).trans ?_
  simp only [hs, hf]

theorem syncSignal_of_bad {st : Nat} (hf : (signalEntries p).findSome? (entryFault sl 4) = some st) :
    syncSignal p.id c = c.finish p.id st := by
  refine (Chip.onPacket_of_startedAs h).trans ?_
  simp only [hs, hf]

end Signal

/-- A SYNC_WAIT with legal entries fails, is met already, or goes on running (R79, R84). -/
theorem syncWait_of_legal (h : c.startedAs p 0x013) (hs : c.slice? p.slice = some sl)
    (hf : (signalEntries p).findSome? (entryFault sl 2) = none) :
    syncWait p.id c =
      if p.waitTerms.any (fun e => syncErr (c.sync e.2.1)) then (c.finish p.id stDependencyFailed).stampReady
      else if c.waitHolds p then (c.finish p.id stDone (c.waitMask p)).stampReady
      else c.keepRunning p.id := by
  refine (Chip.onPacket_of_startedAs h).trans ?_
  simp only [hs, hf]

section Release
variable (hp : c.packet? p.id = some p) (hop : p.op = 0x013) (hph : p.phase = .running)
include hp hop hph

theorem syncWaitRelease_of_met {m : W64} (hd : p.dependency = false) (hm : p.released = some m) :
    syncWaitRelease p.id c = (c.finish p.id stDone m.toNat).stampReady := by
  simp only [syncWaitRelease, hp, hop, hph, hd, hm, and_self, Bool.false_eq_true, if_true, if_false]

theorem syncWaitRelease_of_failed (hd : p.dependency = true) :
    syncWaitRelease p.id c = (c.finish p.id stDependencyFailed).stampReady := by
  simp only [syncWaitRelease, hp, hop, hph, hd, and_self, if_true]

end Release

end Sync

/-- Settles O8: each packet by its fields and by what of its set, or of the objects it names, stands. -/
theorem fencesAndWaits : Obligations.FencesAndWaits := by
  unfold Obligations.FencesAndWaits
  refine ⟨?nop, ?fenceDone, ?fenceWaits, ?fenceBad, ?fenceReleased, ?signals, ?signalBad, ?waitFails, ?waitMet, ?waits, ?released,
    ?releasedFailed⟩
  case nop =>
    intro s p h
    exact State.on_of_eq (nopPacket_done h)
  case fenceDone =>
    intro s p h h0 hz hw
    exact State.on_of_eq ((fencePacket_of_legal h h0 hz).trans (if_pos hw))
  case fenceWaits =>
    intro s p h h0 hz hw
    exact State.on_of_eq ((fencePacket_of_legal h h0 hz).trans (if_neg hw))
  case fenceBad =>
    intro s p h hb
    exact State.on_of_eq (fencePacket_of_bad h hb)
  case fenceReleased =>
    intro s p hp hop hph hw
    exact State.on_of_eq (fenceRelease_done hp hop hph hw)
  case signals =>
    intro s p sl h hs hf
    exact State.on_of_eq (syncSignal_applies h hs hf)
  case signalBad =>
    intro s p sl st h hs hf
    exact State.on_of_eq (syncSignal_of_bad h hs hf)
  case waitFails =>
    intro s p sl h hs hf he
    exact State.on_of_eq ((syncWait_of_legal h hs hf).trans (if_pos he))
  case waitMet =>
    intro s p sl h hs hf he hm
    exact State.on_of_eq ((syncWait_of_legal h hs hf).trans ((if_neg (Bool.eq_false_iff.1 he)).trans (if_pos hm)))
  case waits =>
    intro s p sl h hs hf he hm
    exact State.on_of_eq ((syncWait_of_legal h hs hf).trans
      ((if_neg (Bool.eq_false_iff.1 he)).trans (if_neg (Bool.eq_false_iff.1 hm))))
  case released =>
    intro s p m hp hop hph hd hm
    exact State.on_of_eq (syncWaitRelease_of_met hp hop hph hd hm)
  case releasedFailed =>
    intro s p hp hop hph hd
    exact State.on_of_eq (syncWaitRelease_of_failed hp hop hph hd)

/-! ### MEM_COPY and MEM_FILL (R80, R81, R400) -/

section CopyAndFill
variable {c : Chip} {p : Packet} {o : Served} {k : Nat}

/-- R400: below 1 MiB, and with its units granted, a copy or fill goes on at once. -/
theorem Chip.withCopyUnits_of_granted {n : Nat} (hg : n < 2 ^ 20 ∨ c.granted (.copy p.id) = true) (f : Chip → Chip) :
    c.withCopyUnits p n f = f c := by
  by_cases hn : n < 2 ^ 20
  · exact if_pos hn
  · have hg := hg.resolve_left hn
    simp only [Chip.withCopyUnits, hn, hg, Bool.true_or, if_true, if_false]

/-- R80: the causes of BAD_PARAM of a MEM_COPY. -/
abbrev copyBad (p : Packet) : Prop :=
  2 ^ 48 ≤ p.u 32 8 ∨ 2 ^ 48 ≤ p.u 40 8 ∨ 2 ^ 40 ≤ p.u 48 8 ∨ zeroIn p.bytes 56 64 = false ∨ p.u 48 8 = 0 ∨
    overlap (p.u 32 8) (p.u 40 8) (p.u 48 8) = true

/-- R81: the causes of BAD_PARAM of a MEM_FILL. -/
abbrev fillBad (p : Packet) : Prop :=
  2 ^ 48 ≤ p.u 32 8 ∨ 2 ^ 48 ≤ p.u 40 8 ∨ p.u 40 8 = 0 ∨ zeroIn p.bytes 56 64 = false

section Copy
variable (h : c.startedAs p 0x100)
include h

theorem memCopy_of_bad (hb : copyBad p) : memCopy p.id c = c.finish p.id stBadParam := by
  refine (Chip.onPacket_of_startedAs h).trans (if_pos ?_)
  simpa only [ge_iff_le, Bool.not_eq_true'] using hb

theorem memCopy_moves {d : Chip} (hb : ¬ copyBad p) (hg : p.u 48 8 < 2 ^ 20 ∨ c.granted (.copy p.id) = true)
    (hm : c.copyPieces p.slice (p.u 40 8) (pieces (p.u 32 8) (p.u 48 8)) = (o, k, d)) :
    memCopy p.id c = d.finish p.id (servedStatus o) k := by
  refine (Chip.onPacket_of_startedAs h).trans ((if_neg ?_).trans ((Chip.withCopyUnits_of_granted hg _).trans ?_))
  · simpa only [ge_iff_le, Bool.not_eq_true'] using hb
  · simp only [hm]

end Copy

section Fill
variable (h : c.startedAs p 0x101)
include h

theorem memFill_of_bad (hb : fillBad p) : memFill p.id c = c.finish p.id stBadParam := by
  refine (Chip.onPacket_of_startedAs h).trans (if_pos ?_)
  simpa only [ge_iff_le, Bool.not_eq_true'] using hb

theorem memFill_writes {d : Chip} (hb : ¬ fillBad p) (hg : p.u 40 8 < 2 ^ 20 ∨ c.granted (.copy p.id) = true)
    (hm : c.saveRange cpMaster p.slice (p.u 32 8) (fillBytes (p.u 48 8) (p.u 32 8) (p.u 40 8)) = (o, k, d)) :
    memFill p.id c =
      (if o = .ok then d
        else d.loosePieces p.slice (pieces (p.u 32 8 + k) (p.u 40 8 - k)) ((fillBytes (p.u 48 8) (p.u 32 8) (p.u 40 8)).drop k)).finish
        p.id (servedStatus o) k := by
  refine (Chip.onPacket_of_startedAs h).trans ((if_neg ?_).trans ((Chip.withCopyUnits_of_granted hg _).trans ?_))
  · simpa only [ge_iff_le, Bool.not_eq_true'] using hb
  · simp only [hm]

end Fill

/-- Writes that reached registers arrive before the packet's outcome is seen (log 89). -/
theorem Part.copyMem_of_eq {p : Part} {id : Nat} (h : memCopy id p.chip = c) : p.copyMem id = Part.deliver { p with chip := c } := by
  rw [Part.copyMem, h]

theorem Part.fillMem_of_eq {p : Part} {id : Nat} (h : memFill id p.chip = c) : p.fillMem id = Part.deliver { p with chip := c } := by
  rw [Part.fillMem, h]

end CopyAndFill

/-- Settles O9: a copy and a fill by their fields and by what their accesses answer. -/
theorem copyAndFill : Obligations.CopyAndFill := by
  unfold Obligations.CopyAndFill
  refine ⟨?copies, ?copyBad, ?fills, ?fillBad⟩
  case copies =>
    intro s c p o k h hsrc hdst h0 hn hz hv hg hm
    have hb : ¬ copyBad p := by
      simp only [copyBad, hz, hv, Nat.not_le.2 hsrc, Nat.not_le.2 hdst, Nat.not_le.2 hn, Nat.pos_iff_ne_zero.1 h0]
      decide
    exact State.onPart_of_eq (Part.copyMem_of_eq (memCopy_moves h hb hg hm))
  case copyBad =>
    intro s p h hb
    exact State.onPart_of_eq (Part.copyMem_of_eq (memCopy_of_bad h hb))
  case fills =>
    intro s c p o k h hdst h0 hn hz hg hm
    have hb : ¬ fillBad p := by
      simp only [fillBad, hz, Nat.not_le.2 hdst, Nat.not_le.2 hn, Nat.pos_iff_ne_zero.1 h0]
      decide
    exact State.onPart_of_eq (Part.fillMem_of_eq (memFill_writes h hb hg hm))
  case fillBad =>
    intro s p h hb
    exact State.onPart_of_eq (Part.fillMem_of_eq (memFill_of_bad h hb))

end Sys2Proof.Machine

/-!
PROOFS. Tiles and arithmetic (R95 to R123): who reaches a tile's registers, what the head of each unit's queue does,
one rule for each kind of instruction and each outcome, and the seven obligations over them.
-/

namespace Sys2Proof.Machine

/-! ### Requests within the registers of one tile (R97) -/

section TileRegisters
variable {c : Chip} {a n : Nat}

/-- An address in the registers of tile `n`: 64 KiB of register block 3. -/
abbrev inTileRegs (n a : Nat) : Prop := blockAddr 3 + n * 0x10000 ≤ a ∧ a < blockAddr 3 + (n + 1) * 0x10000

theorem Chip.target_of_inTileRegs (hn : n < 192) (ha : inTileRegs n a) : c.target a = .ok 28 := by
  obtain ⟨hlo, hhi⟩ := ha
  simp only [blockAddr, regBase] at hlo hhi
  have hdram : ¬ a < 0x002000000000 := by omega
  have hcache : ¬ (mcBase ≤ a ∧ a < mcBase + mcSize) := by simp only [mcBase, mcSize]; omega
  have htiles : ¬ (tileBase ≤ a ∧ a < tileBase + 192 * 2 ^ 20) := by simp only [tileBase]; omega
  have hregs : regBase ≤ a ∧ a < regBase + 24 * 2 ^ 24 := by simp only [regBase]; omega
  have hblock : 25 + (a - regBase) / 2 ^ 24 = 28 := by simp only [regBase]; omega
  simp only [Chip.target, hdram, hcache, htiles, hregs, hblock, and_self, if_true, if_false]

/-- The MSI window lies in a later register block (R444). -/
theorem msiVector_of_inTileRegs (hn : n < 192) (ha : inTileRegs n a) : msiVector a = none := by
  obtain ⟨-, hhi⟩ := ha
  refine if_pos ?_
  simp only [blockAddr, regBase] at hhi ⊢
  omega

theorem Chip.regAdmits_of_inTileRegs {q : Req} (hn : n < 192) (ha : inTileRegs n q.addr) :
    c.regAdmits 3 q = c.mayReachTile q.tag n := by
  obtain ⟨hlo, hhi⟩ := ha
  simp only [blockAddr, regBase] at hlo hhi
  have htile : q.addr % 2 ^ 24 / 2 ^ 16 = n := by omega
  simp only [Chip.regAdmits, Chip.mayReachTile, htile, Nat.not_le.2 hn, decide_false, Bool.false_or]

theorem mul_le_of_mem_unitsOf {len z w : Nat} (h : w ∈ unitsOf a len z) : z * w ≤ a + len - 1 := by
  by_cases hl : len = 0
  · simp [unitsOf, hl] at h
  · simp only [unitsOf, hl, if_false, List.mem_map, List.mem_range] at h
    obtain ⟨i, hi, rfl⟩ := h
    have hle : a / z ≤ (a + len - 1) / z := Nat.div_le_div_right (by omega)
    calc z * (i + a / z) ≤ z * ((a + len - 1) / z) := Nat.mul_le_mul_left z (by omega)
      _ ≤ a + len - 1 := Nat.mul_div_le _ _

theorem unitsOf_ne_nil {len z : Nat} (h : 0 < len) : unitsOf a len z ≠ [] := by
  simp [unitsOf, Nat.pos_iff_ne_zero.1 h]

end TileRegisters

/-- R97: the tag decides alike at each word of a request within the registers of one tile. -/
theorem Chip.checkTarget_of_inTileRegs {c : Chip} {q : Req} {n : Nat} (hn : n < 192) (hl : 0 < q.len) (ha : inTileRegs n q.addr)
    (hb : inTileRegs n (q.addr + q.len - 1)) :
    c.checkTarget 28 q = if c.mayReachTile q.tag n then none else some .sliceTag := by
  have hword : ∀ w ∈ unitsOf q.addr q.len 4, c.regAdmits (28 - 25) { q with addr := max q.addr (4 * w) } = c.mayReachTile q.tag n := by
    intro w hw
    have hle := mul_le_of_mem_unitsOf hw
    exact Chip.regAdmits_of_inTileRegs (q := { q with addr := max q.addr (4 * w) }) hn
      ⟨Nat.le_trans ha.1 (Nat.le_max_left _ _), Nat.max_lt.2 ⟨ha.2, Nat.lt_of_le_of_lt hle hb.2⟩⟩
  have hall : (unitsOf q.addr q.len 4).all (fun w => c.regAdmits (28 - 25) { q with addr := max q.addr (4 * w) }) =
      c.mayReachTile q.tag n := by
    rw [Bool.eq_iff_iff, List.all_eq_true]
    constructor
    · intro h
      obtain ⟨w, hw⟩ := List.exists_mem_of_ne_nil _ (unitsOf_ne_nil hl)
      exact (hword w hw).symm.trans (h w hw)
    · intro h w hw
      exact (hword w hw).trans h
  have hmsi := msiVector_of_inTileRegs hn ha
  simp only [Chip.checkTarget, hmsi, hall]
  rfl

theorem Chip.mayReachTile_iff {c : Chip} {tag n : Nat} : c.mayReachTile tag n = true ↔ tag = 0 ∨ c.tileSlice n = some tag := by
  simp [Chip.mayReachTile]

/-- Settles O54: both ends of the request lead to the TILE block, whose rule is R97's. -/
theorem tileRegistersAdmitTheirSlice : Obligations.TileRegistersAdmitTheirSlice := by
  unfold Obligations.TileRegistersAdmitTheirSlice
  intro c q n hn hl hlo hhi hw
  have ha : inTileRegs n q.addr := ⟨hlo, by omega⟩
  have hb : inTileRegs n (q.addr + q.len - 1) := ⟨by omega, by omega⟩
  simp only [Chip.check, Chip.target_of_inTileRegs hn ha, Chip.target_of_inTileRegs hn hb, hw,
    Chip.checkTarget_of_inTileRegs hn hl ha hb, Chip.mayReachTile_iff, apply_ite (Option.map _), Option.map_none, Option.map_some]

/-! ### Writes of tile and group registers (R95, R96, R98) -/

section RegisterWrites
variable {c : Chip} {master tag n : Nat}

/-- R95: another tag than 0 does not write GRP_OPP_CAP. -/
theorem grpOppCapWrite_of_tagged {g v : Nat} (h : tag ≠ 0) : grpOppCapWrite tag g v c = c := if_neg h

theorem tileLfsrWrite_of_reached {v : W32} (h : tag = 0 ∨ c.tileSlice n = some tag) :
    tileLfsrWrite master tag n v.toNat c = c.setReg (TILE_LFSR n) (if v.toNat = 0 then 1 else v.toNat) := by
  rw [tileLfsrWrite, if_pos (Chip.mayReachTile_iff.2 h), Nat.mod_eq_of_lt v.isLt]

/-- R98: without bit 0 the write changes FREEZE only. -/
theorem tileCounterClear_of_freeze {v : Nat} (h : tag = 0 ∨ c.tileSlice n = some tag) (hv : bitOf v 0 = false) :
    tileCounterClear master tag n v c = c.setFld (TILE_CNT_CTRL n) TILE_CNT_CTRL.FREEZE (bitsOf v 1 1) := by
  simp only [tileCounterClear, Chip.mayReachTile_iff.2 h, hv, Bool.false_eq_true, if_true, if_false]

theorem tileCounterClear_of_clear {v : Nat} (h : tag = 0 ∨ c.tileSlice n = some tag) (hv : bitOf v 0 = true) :
    tileCounterClear master tag n v c =
      (c.setFld (TILE_CNT_CTRL n) TILE_CNT_CTRL.FREEZE (bitsOf v 1 1)).clearTileCounters n := by
  simp only [tileCounterClear, Chip.mayReachTile_iff.2 h, hv, if_true]

/-- A write that passes the check has its effect and is answered. -/
theorem Chip.checkedWrite_of_effect {d : Chip} {addr len : Nat} {f : Chip → Chip} (hm : listedMaster master = true)
    (hc : ({ c with nextReq := c.nextReq + 1 } : Chip).check { master := master, tag := tag, addr := addr, len := len, write := true } = none)
    (hf : f { c with nextReq := c.nextReq + 1 } = d) :
    c.checkedWrite master tag addr len f = d.reply master c.nextReq .value [] := by
  rw [Chip.checkedWrite_of_passed hm hc, hf]

end RegisterWrites

/-- Settles O19: each write by the tag that carries it and by what the target's check answers. -/
theorem tileAndGroupRegisters : Obligations.TileAndGroupRegisters := by
  unfold Obligations.TileAndGroupRegisters
  refine ⟨?cap, ?capTagged, ?lfsr, ?freeze, ?clear, ?denied, ?unlisted⟩
  case cap =>
    intro s g v
    exact State.on_eq s (grpOppCapWrite 0 g v.toNat)
  case capTagged =>
    intro s tag g v h
    exact State.on_of_eq (grpOppCapWrite_of_tagged h)
  case lfsr =>
    intro s m tag n v ht hm hc
    exact State.on_of_eq (Chip.checkedWrite_of_effect hm hc (tileLfsrWrite_of_reached ht))
  case freeze =>
    intro s m tag n v ht hv hm hc
    exact State.on_of_eq (Chip.checkedWrite_of_effect hm hc (tileCounterClear_of_freeze ht hv))
  case clear =>
    intro s m tag n v ht hv hm hc
    exact State.on_of_eq (Chip.checkedWrite_of_effect hm hc (tileCounterClear_of_clear ht hv))
  case denied =>
    intro s m tag n v d e t u hm hlfsr hcnt
    exact ⟨State.on_of_eq (Chip.checkedWrite_of_denied hm hlfsr), State.on_of_eq (Chip.checkedWrite_of_denied hm hcnt)⟩
  case unlisted =>
    intro s m tag n v hm
    exact ⟨State.on_of_eq (Chip.checkedWrite_of_unlisted hm), State.on_of_eq (Chip.checkedWrite_of_unlisted hm)⟩

/-! ### The head of a unit's queue (R120) -/

/-- R120: a head that may issue and whose computation ends well issues, and decode goes on. -/
theorem Chip.issueHead_of_headIs {c d : Chip} {n unit op : Nat} {f : TileIns → Delivered → TileM Unit} {q : TileIns}
    {l : List TileIns} (h : c.headIs n unit op q l) (hf : (f q ((c.pop n unit l).poolData n q)).run (c.pop n unit l) = (.ok (), d)) :
    c.issueHead n unit op f = (d.issued n q).advance n := by
  obtain ⟨hrun, hq, hop, hgo⟩ := h
  exact issueHead_ok hrun hq hop hgo hf

/-- A part that is one of two, and ends well, hands its value on. -/
theorem TileM.run_ite_bind_ok {α β : Type} {p : Prop} [Decidable p] {m m' : TileM α} {g : α → TileM β} {c c' : Chip} {a : α}
    (h : (if p then m else m').run c = (.ok a, c')) : (if p then m >>= g else m' >>= g).run c = (g a).run c' := by
  by_cases hp : p
  · rw [if_pos hp] at h ⊢
    exact TileM.run_bind_ok h
  · rw [if_neg hp] at h ⊢
    exact TileM.run_bind_ok h

/-! ### Element-wise instructions of the vector unit (R114, R115) -/

/-- The head of the vector queue, an instruction over `k` sources with `cnt` elements in format `fmt`, has read them. -/
abbrev Chip.vecStarts (c : Chip) (n op k cnt fmt : Nat) (q : TileIns) (l : List TileIns) (a b z : List Byte) (d : Chip) : Prop :=
  c.headIs n 2 op q l ∧ tiFmtA q.bytes = fmt ∧ tiImm q.bytes = cnt ∧ 1 ≤ cnt ∧ cnt ≤ 4096 ∧
    (vecRead n k q ((c.pop n 2 l).poolData n q) (packedLen fmt cnt)).run (c.pop n 2 l) = (.ok (a, b, z), d)

theorem vecCount_run {q : TileIns} {c : Chip} (h1 : 1 ≤ tiImm q.bytes) (h2 : tiImm q.bytes ≤ 4096) :
    (vecCount q).run c = (.ok (tiImm q.bytes), c) := by
  have h : ¬ (tiImm q.bytes = 0 ∨ 4096 < tiImm q.bytes) := by omega
  rw [vecCount, if_neg h, TileM.run_pure]

theorem mem_vecFmts {fmt : Nat} (h : fmt = 0xA ∨ fmt = 0xC ∨ fmt = 0xD) : vecFmts.contains fmt = true := by
  simpa [vecFmts] using h

theorem mem_floatVecFmts {fmt : Nat} (h : fmt = 0xA ∨ fmt = 0xC) : floatVecFmts.contains fmt = true := by
  simpa [floatVecFmts] using h

section Elements
variable {c d : Chip} {n op k cnt fmt : Nat} {q : TileIns} {l : List TileIns} {a b z : List Byte}
variable (h : c.vecStarts n op k cnt fmt q l a b z d)

section Results
variable {ok : List Nat} {f : VecOp} {e : Chip}
include h

/-- The results of the elements are packed and written. -/
theorem vecEach_of_results {d' : Chip} {rs : List Nat} (hok : ok.contains fmt = true)
    (hm : (vecMap f fmt a b z (List.range cnt)).run d = (.ok rs, d'))
    (hw : (operandWrite n q.dst [(0, packElems fmt rs)]).run d' = (.ok (), e)) :
    vecEach n op k ok f c = (e.issued n q).advance n := by
  obtain ⟨hhead, rfl, rfl, h1, h2, hr⟩ := h
  refine Chip.issueHead_of_headIs hhead ?_
  simp only [hok, Bool.not_true, Bool.false_eq_true, if_false]
  rw [TileM.run_bind_ok (vecCount_run h1 h2), TileM.run_bind_ok hr, TileM.run_bind_ok hm]
  exact hw

/-- An operation that draws nothing. -/
theorem vecEach_of_pure {r : Nat → Nat} (hok : ok.contains fmt = true)
    (hf : ∀ i < cnt, ∀ c, (f fmt (elemAt fmt a i) (elemAt fmt b i) (elemAt fmt z i)).run c = (.ok (r i), c))
    (hw : (operandWrite n q.dst [(0, packElems fmt ((List.range cnt).map r))]).run d = (.ok (), e)) :
    vecEach n op k ok f c = (e.issued n q).advance n :=
  vecEach_of_results h hok (vecMap_pure _ d fun i hi => hf i (List.mem_range.1 hi)) hw

/-- An operation that draws one free value for each element. -/
theorem vecEach_of_draw {r : Nat → Nat → Nat} (hok : ok.contains fmt = true)
    (hf : ∀ i, ∀ c : Chip,
      (f fmt (elemAt fmt a i) (elemAt fmt b i) (elemAt fmt z i)).run c = (.ok (r i c.free), { c with free := c.free + 1 }))
    (hw : (operandWrite n q.dst [(0, packElems fmt ((List.range cnt).map fun i => r i (d.free + i)))]).run
      { d with free := d.free + cnt } = (.ok (), e)) :
    vecEach n op k ok f c = (e.issued n q).advance n :=
  vecEach_of_results h hok (vecMap_draw_range cnt d hf) hw

end Results

section Arithmetic
variable {int : Int → Int → Int → Int} {flt : FVal → FVal → FVal → FVal} {e : Chip}

theorem int32Result_run {i : Int} (hi : -2147483648 ≤ i ∧ i ≤ 2147483647) (c : Chip) : (int32Result i).run c = (.ok (ux 32 i), c) := by
  rw [int32Result, if_pos hi, TileM.run_pure]

theorem vecOp_run_float (hf : fmt = 0xA ∨ fmt = 0xC) (x y w : Nat) (c : Chip) :
    (vecOp int flt fmt x y w).run c = (.ok (vecBits fmt (flt (elemVal fmt x) (elemVal fmt y) (elemVal fmt w))), c) := by
  have hn : fmt ≠ 0xD := by omega
  rw [vecOp, if_neg hn, TileM.run_pure]

theorem vecOp_run_int {x y w : Nat} (hi : -2147483648 ≤ int (sx 32 x) (sx 32 y) (sx 32 w) ∧ int (sx 32 x) (sx 32 y) (sx 32 w) ≤ 2147483647)
    (c : Chip) : (vecOp int flt 0xD x y w).run c = (.ok (ux 32 (int (sx 32 x) (sx 32 y) (sx 32 w))), c) := by
  rw [vecOp, if_pos rfl, int32Result_run hi]

include h

/-- R114 in BF16 and FP32. -/
theorem vecOp_floats (hf : fmt = 0xA ∨ fmt = 0xC)
    (hw : (operandWrite n q.dst [(0, packElems fmt ((List.range cnt).map fun i =>
      vecBits fmt (flt (elemVal fmt (elemAt fmt a i)) (elemVal fmt (elemAt fmt b i)) (elemVal fmt (elemAt fmt z i)))))]).run d = (.ok (), e)) :
    vecEach n op k vecFmts (vecOp int flt) c = (e.issued n q).advance n :=
  vecEach_of_pure h (mem_vecFmts (by omega)) (fun _ _ => vecOp_run_float hf _ _ _) hw

/-- R114 in INT32, where every result fits. -/
theorem vecOp_ints (hf : fmt = 0xD)
    (hi : ∀ i < cnt, -2147483648 ≤ int (sx 32 (elemAt fmt a i)) (sx 32 (elemAt fmt b i)) (sx 32 (elemAt fmt z i)) ∧
      int (sx 32 (elemAt fmt a i)) (sx 32 (elemAt fmt b i)) (sx 32 (elemAt fmt z i)) ≤ 2147483647)
    (hw : (operandWrite n q.dst [(0, packElems fmt ((List.range cnt).map fun i =>
      ux 32 (int (sx 32 (elemAt fmt a i)) (sx 32 (elemAt fmt b i)) (sx 32 (elemAt fmt z i)))))]).run d = (.ok (), e)) :
    vecEach n op k vecFmts (vecOp int flt) c = (e.issued n q).advance n := by
  subst hf
  exact vecEach_of_pure h (mem_vecFmts (by omega)) (fun i hc => vecOp_run_int (hi i hc)) hw

end Arithmetic

/-- R115: a function of one source, rounded once more to BF16 in that format. -/
theorem vecFun_floats {g : FVal → Nat → Nat} {e : Chip} (h : c.vecStarts n op k cnt fmt q l a b z d) (hf : fmt = 0xA ∨ fmt = 0xC)
    (hw : (operandWrite n q.dst [(0, packElems fmt ((List.range cnt).map fun i =>
      if fmt = 0xA then bf16.encode .rne false (fp32.decode (g (elemVal fmt (elemAt fmt a i)) (Config.freeValue (d.free + i)).toNat))
      else g (elemVal fmt (elemAt fmt a i)) (Config.freeValue (d.free + i)).toNat))]).run { d with free := d.free + cnt } = (.ok (), e)) :
    vecEach n op k floatVecFmts (vecFun g) c = (e.issued n q).advance n :=
  vecEach_of_draw h (mem_floatVecFmts hf)
    (r := fun i j => if fmt = 0xA then bf16.encode .rne false (fp32.decode (g (elemVal fmt (elemAt fmt a i)) (Config.freeValue j).toNat))
      else g (elemVal fmt (elemAt fmt a i)) (Config.freeValue j).toNat)
    (fun _ _ => rfl) hw

end Elements

/-- Settles O10: each operation in the floating formats, and in INT32 where its results fit. -/
theorem vectorArithmetic : Obligations.VectorArithmetic := by
  unfold Obligations.VectorArithmetic
  refine ⟨?addF, ?addI, ?mulF, ?mulI, ?fmaF, ?fmaI, ?minF, ?minI, ?maxF, ?maxI⟩
  case addF | mulF | fmaF | minF | maxF =>
    intro s n cnt fmt q l a b z c1 c2 h hfmt hf hi h1 h2 hr hw
    exact State.on_of_eq (vecOp_floats ⟨h, hfmt, hi, h1, h2, hr⟩ hf hw)
  case addI | mulI | fmaI | minI | maxI =>
    intro s n cnt fmt q l a b z c1 c2 h hfmt hf hi h1 h2 hr hfit hw
    exact State.on_of_eq (vecOp_ints ⟨h, hfmt, hi, h1, h2, hr⟩ hf hfit hw)

/-- Settles O11: each operation draws one free value for each element. -/
theorem vectorFunctions : Obligations.VectorFunctions := by
  unfold Obligations.VectorFunctions
  refine ⟨?cmp, ?sel, ?exp, ?rcp, ?rsq, ?tanh⟩
  case cmp =>
    intro s n cnt fmt q l a b z c1 c2 h hfmt hf hi h1 h2 hr hw
    exact State.on_of_eq (vecEach_of_draw ⟨h, hfmt, hi, h1, h2, hr⟩ (mem_vecFmts hf)
      (r := fun _ j => (Config.freeValue j).toNat % 2 ^ elemBits fmt) (fun _ _ => rfl) hw)
  case sel =>
    intro s n cnt fmt q l a b z c1 c2 h hfmt hf hi h1 h2 hr hw
    exact State.on_of_eq (vecEach_of_draw ⟨h, hfmt, hi, h1, h2, hr⟩ (mem_vecFmts hf)
      (r := fun i j => if (Config.freeValue j).toNat % 2 = 1 then elemAt fmt a i else elemAt fmt b i) (fun _ _ => rfl) hw)
  case exp | rcp | rsq | tanh =>
    intro s n cnt fmt q l a b z c1 c2 h hfmt hf hi h1 h2 hr hw
    exact State.on_of_eq (vecFun_floats ⟨h, hfmt, hi, h1, h2, hr⟩ hf hw)

/-! ### VRED (R114, R119) -/

section Reduction
variable {es : List Nat} {fmt : Nat} {c : Chip}

/-- The elements of an INT32 source. -/
abbrev intElems (es : List Nat) : List Int := es.map (sx 32)

theorem vredValue_int_sum (hs : -2147483648 ≤ (intElems es).foldl (· + ·) 0 ∧ (intElems es).foldl (· + ·) 0 ≤ 2147483647) :
    (vredValue 0 0xD es).run c = (.ok (ux 32 ((intElems es).foldl (· + ·) 0)), c) := by
  simp only [vredValue, if_true, int32Result_run hs]

theorem vredValue_int_max : (vredValue 1 0xD es).run c = (.ok (ux 32 ((intElems es).foldl max ((intElems es).headD 0))), c) := by
  simp only [vredValue, if_true, TileM.run_pure]

theorem vredValue_int_min : (vredValue 2 0xD es).run c = (.ok (ux 32 ((intElems es).foldl min ((intElems es).headD 0))), c) := by
  simp only [vredValue, if_true, TileM.run_pure]

section Floats
variable (hf : fmt = 0xA ∨ fmt = 0xC)
include hf

/-- The sum where the order of adding does not matter (log 21). -/
theorem vredValue_float_sum {r : Nat} (hs : (sumAnyOrder (es.map (elemVal fmt))).map (vecBits fmt) = some r) :
    (vredValue 0 fmt es).run c = (.ok r, c) := by
  have hn : fmt ≠ 0xD := by omega
  obtain ⟨v, hv, rfl⟩ := Option.map_eq_some_iff.1 hs
  simp only [vredValue, hn, hv, if_false, TileM.run_pure]

theorem vredValue_float_max :
    (vredValue 1 fmt es).run c = (.ok (vecBits fmt ((es.map (elemVal fmt)).foldl (fminmax true) .nan)), c) := by
  have hn : fmt ≠ 0xD := by omega
  simp only [vredValue, hn, if_false, TileM.run_pure]

theorem vredValue_float_min :
    (vredValue 2 fmt es).run c = (.ok (vecBits fmt ((es.map (elemVal fmt)).foldl (fminmax false) .nan)), c) := by
  have hn : fmt ≠ 0xD := by omega
  simp only [vredValue, hn, if_false, TileM.run_pure]

end Floats

/-- The head of the vector queue, a reduction `red` of `cnt` elements in format `fmt`, has read its source. -/
abbrev Chip.redStarts (c : Chip) (n cnt fmt red : Nat) (q : TileIns) (l : List TileIns) (b : List Byte) (d : Chip) : Prop :=
  c.headIs n 2 0x32 q l ∧ tiFmtA q.bytes = fmt ∧ tiRed q.bytes = red ∧ tiImm q.bytes = cnt ∧ 1 ≤ cnt ∧ cnt ≤ 4096 ∧
    (operandRead n ((c.pop n 2 l).poolData n q) q.a 0 (packedLen fmt cnt)).run (c.pop n 2 l) = (.ok b, d)

theorem vred_of_value {n cnt red r : Nat} {q : TileIns} {l : List TileIns} {b : List Byte} {d d' e : Chip}
    (h : c.redStarts n cnt fmt red q l b d) (hf : fmt = 0xA ∨ fmt = 0xC ∨ fmt = 0xD)
    (hv : (vredValue red fmt ((List.range cnt).map (elemAt fmt b))).run d = (.ok r, d'))
    (hw : (operandWrite n q.dst [(0, packElems fmt [r])]).run d' = (.ok (), e)) :
    vred n c = (e.issued n q).advance n := by
  obtain ⟨hhead, rfl, rfl, rfl, h1, h2, hr⟩ := h
  refine Chip.issueHead_of_headIs hhead ?_
  simp only [mem_vecFmts hf, Bool.not_true, Bool.false_eq_true, if_false]
  rw [TileM.run_bind_ok (vecCount_run h1 h2), TileM.run_bind_ok hr, TileM.run_bind_ok hv]
  exact hw

end Reduction

/-- Settles O12: each reduction by the one value it gives. -/
theorem vectorReduction : Obligations.VectorReduction := by
  unfold Obligations.VectorReduction
  refine ⟨?sumI, ?sumF, ?maxI, ?minI, ?maxF, ?minF⟩
  case sumI =>
    intro s n cnt fmt r q l b c1 c2 h hfmt hf hred hi h1 h2 hr hfit hw
    subst hf
    exact State.on_of_eq (vred_of_value ⟨h, hfmt, hred, hi, h1, h2, hr⟩ (.inr (.inr rfl)) (vredValue_int_sum hfit) hw)
  case sumF =>
    intro s n cnt fmt r q l b c1 c2 h hfmt hf hred hi h1 h2 hr hsum hw
    exact State.on_of_eq (vred_of_value ⟨h, hfmt, hred, hi, h1, h2, hr⟩ (by omega) (vredValue_float_sum hf hsum) hw)
  case maxI =>
    intro s n cnt fmt r q l b c1 c2 h hfmt hf hred hi h1 h2 hr hw
    subst hf
    exact State.on_of_eq (vred_of_value ⟨h, hfmt, hred, hi, h1, h2, hr⟩ (.inr (.inr rfl)) vredValue_int_max hw)
  case minI =>
    intro s n cnt fmt r q l b c1 c2 h hfmt hf hred hi h1 h2 hr hw
    subst hf
    exact State.on_of_eq (vred_of_value ⟨h, hfmt, hred, hi, h1, h2, hr⟩ (.inr (.inr rfl)) vredValue_int_min hw)
  case maxF =>
    intro s n cnt fmt r q l b c1 c2 h hfmt hf hred hi h1 h2 hr hw
    exact State.on_of_eq (vred_of_value ⟨h, hfmt, hred, hi, h1, h2, hr⟩ (by omega) (vredValue_float_max hf) hw)
  case minF =>
    intro s n cnt fmt r q l b c1 c2 h hfmt hf hred hi h1 h2 hr hw
    exact State.on_of_eq (vred_of_value ⟨h, hfmt, hred, hi, h1, h2, hr⟩ (by omega) (vredValue_float_min hf) hw)

/-! ### The array unit (R99 to R105) -/

section ArrayUnit
variable {c d : Chip} {n : Nat} {q : TileIns} {l : List TileIns}

theorem mma_of_pair {clocks : Nat} {int : Bool} (h : c.headIs n 1 0x10 q l)
    (hp : pairInfo (tiFmtA q.bytes) (tiFmtB q.bytes) = some (clocks, int))
    (hm : (mmaArrays n q ((c.pop n 1 l).poolData n q) clocks int (tiArrays q.bytes)).run (c.pop n 1 l) = (.ok (), d)) :
    mma n c = (d.issued n q).advance n :=
  Chip.issueHead_of_headIs h (by simpa only [hp] using hm)

theorem accZero_clears (h : c.headIs n 1 0x11 q l) :
    accZero n c = (((c.pop n 1 l).updTile n (fun t =>
      { t with accs := t.accs.filter (fun p => !(tiArrays q.bytes).contains (p.1 / 64)) })).issued n q).advance n :=
  Chip.issueHead_of_headIs h (TileM.run_change _ _)

theorem accRead_writes (h : c.headIs n 1 0x12 q l)
    (hw : (operandWrite n q.dst [(0, (tiArrays q.bytes).flatMap (fun j => ((c.pop n 1 l).tile n).accBytes (256 * j) 256))]).run
      (c.pop n 1 l) = (.ok (), d)) :
    accRead n c = (d.issued n q).advance n :=
  Chip.issueHead_of_headIs h ((TileM.run_bind_ok (TileM.run_chip _)).trans hw)

theorem accLoad_loads (h : c.headIs n 1 0x13 q l)
    (hl : (accLoadArrays n q ((c.pop n 1 l).poolData n q) (tiArrays q.bytes) 0).run (c.pop n 1 l) = (.ok (), d)) :
    accLoad n c = (d.issued n q).advance n :=
  Chip.issueHead_of_headIs h hl

end ArrayUnit

/-! ### Conversions of the vector unit (R111 to R113) -/

section Conversions
variable {c c0 c1 c3 d : Chip} {n fi fo cnt : Nat} {q : TileIns} {l : List TileIns} {x sb zt sc : List Byte}

/-- R111 step 1: each channel's element times its scale plus its bias, each step rounded to FP32. -/
def vreqValues (fi cnt : Nat) (x sb : List Byte) : List FVal :=
  (List.range cnt).map fun i =>
    f32 (fadd (fmul (f32 (elemVal fi (elemAt fi x i))) (fp32.decode (bytesU sb (4 * i) 4))) (fp32.decode (bytesU sb (4 * cnt + 4 * i) 4)))

/-- The clamp that MODE asks for. -/
def vreqClamp (q : TileIns) : Option (Int × Int) :=
  if tiClamp q.bytes then some (sx 32 (tiExt q.bytes), sx 32 (tiExt q.bytes / 2 ^ 32)) else none

/-- Zero points are read where the output format is an integer one. -/
theorem vreq_converts (h : c.headIs n 2 0x30 q l) (ha : tiFmtA q.bytes = fi) (hfi : fi = 0xC ∨ fi = 0xD) (hb : tiFmtB q.bytes = fo)
    (hfo : fmtOk fo = true) (hi : tiImm q.bytes % 2 ^ 16 = cnt)
    (hx : (operandRead n ((c.pop n 2 l).poolData n q) q.a 0 (4 * cnt)).run (c.pop n 2 l) = (.ok x, c0))
    (hsb : (operandRead n ((c.pop n 2 l).poolData n q) q.c 0 (8 * cnt)).run c0 = (.ok sb, c1))
    (hz : (if (floatFmt fo).isNone && !isMx fo then operandRead n ((c.pop n 2 l).poolData n q) q.c (8 * cnt) (4 * cnt)
      else pure [] : TileM (List Byte)).run c1 = (.ok zt, c3))
    (hw : (convertAll n q (vreqClamp q) (fun i => sx 32 (bytesU zt (4 * i) 4)) (vreqValues fi cnt x sb)).run c3 = (.ok (), d)) :
    vreq n c = (d.issued n q).advance n := by
  subst ha hb hi
  have hpair : ¬ ((tiFmtA q.bytes ≠ 0xC ∧ tiFmtA q.bytes ≠ 0xD) ∨ (!fmtOk (tiFmtB q.bytes)) = true) := by
    rw [hfo]
    rintro (⟨hc, hd⟩ | hno)
    · exact hfi.elim hc hd
    · exact Bool.false_ne_true hno
  refine Chip.issueHead_of_headIs h ?_
  simp only [hpair, if_false]
  rw [TileM.run_bind_ok hx, TileM.run_bind_ok hsb]
  exact (TileM.run_ite_bind_ok hz).trans hw

/-- R111, R113: each element, a microscaled one times its block's scale. -/
def vcvtValues (fi cnt : Nat) (x sc : List Byte) : List FVal :=
  (List.range cnt).map fun i =>
    let v := elemVal fi (elemAt fi x i)
    if isMx fi then
      match e8m0 (bytesU sc (i / 32) 1), v with
      | some k, .fin s m e => f32 (.fin s m (e + k - (if fi = 9 then 6 else 0)))
      | some _, v => v
      | none, _ => .nan
    else f32 v

/-- Block scales are read where the input format is microscaled (log 20). -/
theorem vcvt_converts (h : c.headIs n 2 0x31 q l) (ha : tiFmtA q.bytes = fi) (hfi : fmtOk fi = true)
    (hfo : fmtOk (tiFmtB q.bytes) = true) (hi : tiImm q.bytes = cnt) (h1 : 1 ≤ cnt) (h2 : cnt ≤ 4096)
    (hx : (operandRead n ((c.pop n 2 l).poolData n q) q.a 0 (packedLen fi cnt)).run (c.pop n 2 l) = (.ok x, c1))
    (hs : (if isMx fi then operandRead n ((c.pop n 2 l).poolData n q) q.a (64 * bitsOf (tiExt q.bytes) 63 52) ((cnt + 31) / 32)
      else pure [] : TileM (List Byte)).run c1 = (.ok sc, c3))
    (hw : (convertAll n q none (fun _ => 0) (vcvtValues fi cnt x sc)).run c3 = (.ok (), d)) :
    vcvt n c = (d.issued n q).advance n := by
  subst ha hi
  refine Chip.issueHead_of_headIs h ?_
  simp only [hfi, hfo, Bool.not_true, Bool.false_eq_true, or_self, if_false]
  rw [TileM.run_bind_ok (vecCount_run h1 h2), TileM.run_bind_ok hx]
  exact (TileM.run_ite_bind_ok hs).trans hw

end Conversions

/-- Settles O13: each instruction by what its computation reads and writes. -/
theorem arrayAndConversion : Obligations.ArrayAndConversion := by
  unfold Obligations.ArrayAndConversion
  refine ⟨?mma, ?accZero, ?accRead, ?accLoad, ?vreq, ?vreqInt, ?vcvt, ?vcvtMx⟩
  case mma =>
    intro s n q l clocks int c2 h hp hm
    exact State.on_of_eq (mma_of_pair h hp hm)
  case accZero =>
    intro s n q l h
    exact State.on_of_eq (accZero_clears h)
  case accRead =>
    intro s n q l c2 h hw
    exact State.on_of_eq (accRead_writes h hw)
  case accLoad =>
    intro s n q l c2 h hl
    exact State.on_of_eq (accLoad_loads h hl)
  case vreq =>
    intro s n q l fi fo cnt x sb zt c0 c1 c3 c2 h ha hfi hb hfo hi hint hx hsb hz hw
    obtain ⟨rfl, rfl⟩ := hz
    exact State.on_of_eq (vreq_converts h ha hfi hb hfo hi hx hsb (by rw [hint]; rfl) hw)
  case vreqInt =>
    intro s n q l fi fo cnt x sb zt c0 c1 c3 c2 h ha hfi hb hfo hi hint hx hsb hz hw
    exact State.on_of_eq (vreq_converts h ha hfi hb hfo hi hx hsb (by rw [hint]; exact hz) hw)
  case vcvt =>
    intro s n q l fi cnt x sc c1 c3 c2 h ha hfi hfo hi h1 h2 hmx hx hs hw
    obtain ⟨rfl, rfl⟩ := hs
    exact State.on_of_eq (vcvt_converts h ha hfi hfo hi h1 h2 hx (by rw [hmx]; rfl) hw)
  case vcvtMx =>
    intro s n q l fi cnt x sc c1 c3 c2 h ha hfi hfo hi h1 h2 hmx hx hs hw
    exact State.on_of_eq (vcvt_converts h ha hfi hfo hi h1 h2 hx (by rw [hmx]; exact hs) hw)

/-! ### The move unit (R119, R125) -/

section MoveUnit
variable {c c1 d : Chip} {n : Nat} {q : TileIns} {l : List TileIns} {x : List Byte}

theorem moveTile_copies (h : c.headIs n 3 0x40 q l)
    (hr : (operandRead n ((c.pop n 3 l).poolData n q) q.a 0 (tiImm q.bytes)).run (c.pop n 3 l) = (.ok x, c1))
    (hw : (operandWrite n q.dst [(0, x)]).run c1 = (.ok (), d)) :
    moveTile n c = (d.issued n q).advance n :=
  Chip.issueHead_of_headIs h ((TileM.run_bind_ok hr).trans hw)

theorem tileSave_run {a k : Nat}
    (h : c.saveRange (groupMaster (n / 16)) (c.tile n).slice a x (c.tile n).cls = (.ok, k, d)) : (tileSave n a x).run c = (.ok (), d) := by
  show tileSave n a x c = _
  simp only [tileSave, h]

theorem sendTile_writes {k : Nat} (h : c.headIs n 3 0x41 q l)
    (hr : (operandRead n ((c.pop n 3 l).poolData n q) q.a 0 (tiImm q.bytes)).run (c.pop n 3 l) = (.ok x, c1))
    (hw : c1.saveRange (groupMaster (n / 16)) (c1.tile n).slice (tiExt q.bytes % 2 ^ 48) x (c1.tile n).cls = (.ok, k, d)) :
    sendTile n c = (d.issued n q).advance n :=
  Chip.issueHead_of_headIs h ((TileM.run_bind_ok hr).trans (tileSave_run hw))

theorem tileSyncAdd_signals (h : c.headIs n 3 0x42 q l) (hs : (c.pop n 3 l).tileSync n (tiExt q.bytes % 2 ^ 16) = true) :
    tileSyncAdd n c = (((c.pop n 3 l).unitSignal (tiExt q.bytes % 2 ^ 16) (.add (tiImm q.bytes)) true).issued n q).advance n := by
  refine Chip.issueHead_of_headIs h ((TileM.run_bind_ok (TileM.run_chip _)).trans ?_)
  simp only [hs, Bool.not_true, Bool.false_eq_true, if_false, TileM.run_change]

/-- The wait of a tile's SYNC_WAIT `q`, with the tile it belongs to (R83, R119). -/
def Chip.makeWait (c : Chip) (n : Nat) (q : TileIns) : Chip :=
  let o := tiExt q.bytes % 2 ^ 16
  let thr := tiExt q.bytes / 2 ^ 16
  let c := c.updTile n (fun t => { t with waits := t.waits ++ [{ obj := o, threshold := thr, tag := tiSetTag q.bytes, pc := q.pc }] })
  { c with unitWaits := c.unitWaits ++ [{ who := .tile n, obj := o, threshold := thr, met := decide (thr ≤ syncCount (c.sync o)) }] }

theorem tileSyncWait_makes (h : c.headIs n 3 0x43 q l) (hs : (c.pop n 3 l).tileSync n (tiExt q.bytes % 2 ^ 16) = true)
    (he : syncErr (c.sync (tiExt q.bytes % 2 ^ 16)) = false) :
    tileSyncWait n c = (((c.pop n 3 l).makeWait n q).issued n q).advance n := by
  have hsync : (c.pop n 3 l).sync (tiExt q.bytes % 2 ^ 16) = c.sync (tiExt q.bytes % 2 ^ 16) := rfl
  refine Chip.issueHead_of_headIs h ((TileM.run_bind_ok (TileM.run_chip _)).trans ?_)
  simp only [hs, hsync, he, Bool.not_true, Bool.false_eq_true, if_false, TileM.run_change]
  rfl

end MoveUnit

/-! ### Waits met and instructions completed (R83, R120) -/

section Met
variable {c : Chip} {n i k : Nat} {w : UnitWait} {x : TileWait}

/-- The first met wait of a running tile is `w` at `i`, and the tile's own record of it is `x` at `k`. -/
abbrev Chip.waitMet (c : Chip) (n i k : Nat) (w : UnitWait) (x : TileWait) : Prop :=
  c.tileRuns n = true ∧ c.unitWaits.findIdx? (fun w => w.who == Waiter.tile n && w.met) = some i ∧ c.unitWaits[i]? = some w ∧
    (c.tile n).waits.findIdx? (fun y => y.obj == w.obj && y.threshold == w.threshold) = some k ∧ (c.tile n).waits[k]? = some x

/-- The tile at time `now` once its wait at `k` is met: the wait's tag becomes READY. -/
def Tile.meetWait (t : Tile) (k now : Nat) (tag : Option Nat) : Tile :=
  let t := { t with waits := t.waits.eraseIdx k, progress := now }
  match tag with
  | some g => t.setEntry g sbReady
  | none => t

theorem tileSyncWaitMet_of_waitMet (h : c.waitMet n i k w x) :
    tileSyncWaitMet n c =
      if w.err then Chip.tileFault { c with unitWaits := c.unitWaits.eraseIdx i } n tfDependency x.pc
      else (Chip.setTile { c with unitWaits := c.unitWaits.eraseIdx i } n ((c.tile n).meetWait k c.now x.tag)).advance n := by
  obtain ⟨hrun, hi, hw, hk, hx⟩ := h
  have htile : Chip.tile { c with unitWaits := c.unitWaits.eraseIdx i } n = c.tile n := rfl
  simp only [tileSyncWaitMet, hrun, hi, hw, htile, hk, hx, Bool.not_true, Bool.false_eq_true, if_false]
  rfl

/-- The tile at time `now` once its executing instruction at `i` completes: the instruction's tag, while pending, becomes
READY. -/
def Tile.complete (t : Tile) (i now : Nat) (tag : Option Nat) : Tile :=
  let t := { t with executing := t.executing.eraseIdx i, progress := now }
  match tag with
  | some k => if t.entry k = sbPending then t.setEntry k sbReady else t
  | none => t

theorem instructionComplete_of_oldest {u : Nat} {tag : Option Nat} (hi : (c.tile n).executing.findIdx? (fun e => e.1 == u) = some i)
    (he : (c.tile n).executing[i]? = some (u, tag)) :
    instructionComplete n u c = ((c.setTile n ((c.tile n).complete i c.now tag)).recordFault n).advance n := by
  simp only [instructionComplete, hi, he]
  rfl

end Met

/-! ### The instruction buffer's fills and the hang (R116, R123) -/

section Fills
variable {c d : Chip} {n k : Nat} {m : Model} {x : List Byte}

/-- Block `k` of a running tile's program was asked for, and reading it from its model `m` has the outcome `r`. -/
abbrev Chip.fillRead (c : Chip) (n k : Nat) (m : Model) (r : Served × List Byte × Chip) : Prop :=
  c.tileRuns n = true ∧ (c.tile n).wanted.contains k = true ∧ AMap.get? c.models (c.tile n).model = some m ∧
    c.imageRead m (groupMaster (n / 16)) (c.tile n).slice ((c.tile n).codeOfs + 4096 * k)
      (min 4096 (((c.tile n).codeCount - 128 * k) * 32)) (c.tile n).cls = r

theorem ibufFillDone_of_ok (h : c.fillRead n k m (.ok, x, d)) :
    ibufFillDone n k c = ((d.tagPrefetch n (c.tile n).slice).updTile n (fun t =>
      { t with ibuf := AMap.set t.ibuf k x, wanted := t.wanted.filter (· != k) })).advance n := by
  obtain ⟨hrun, hwant, hm, hr⟩ := h
  simp only [ibufFillDone, hrun, hwant, hm, hr, Bool.not_true, Bool.or_self, Bool.false_eq_true, if_false]

theorem ibufFillDone_of_failed {o : Served} (ho : o ≠ .ok) (h : c.fillRead n k m (o, x, d)) :
    ibufFillDone n k c = d.tileFault n (if o = .denied then tfAccess else tfUncorrectable) (c.tile n).pc := by
  obtain ⟨hrun, hwant, hm, hr⟩ := h
  cases o with
  | ok => exact absurd rfl ho
  | denied => simp only [ibufFillDone, hrun, hwant, hm, hr, Bool.not_true, Bool.or_self, Bool.false_eq_true, if_true, if_false]
  | uncorrectable =>
    simp only [ibufFillDone, hrun, hwant, hm, hr, Bool.not_true, Bool.or_self, Bool.false_eq_true, if_false, reduceCtorEq]

end Fills

section Hang
variable {c : Chip} {n : Nat}

theorem tileHang_faults (hr : c.tileRuns n = true) (h0 : c.reg (TILE_HANG_LIMIT n) ≠ 0)
    (hp : c.reg (TILE_HANG_LIMIT n) * 1000 ≤ (c.now - (c.tile n).progress) * c.groupMhz (n / 16)) :
    tileHang n c = c.tileFault n tfHang (c.tile n).lastDecoded := by
  refine if_pos ?_
  simp only [hr, h0, hp, ne_eq, not_false_eq_true, decide_true, Bool.and_self]

theorem tileHang_of_progress
    (hp : (c.now - (c.tile n).progress) * c.groupMhz (n / 16) < c.reg (TILE_HANG_LIMIT n) * 1000) : tileHang n c = c := by
  refine if_neg ?_
  simp only [Nat.not_le.2 hp, decide_false, Bool.and_false, Bool.false_eq_true, not_false_eq_true]

end Hang

/-- Settles O15: the move queue's heads, then the waits, completions, fills and the hang of a tile. -/
theorem tileMovesAndSyncs : Obligations.TileMovesAndSyncs := by
  unfold Obligations.TileMovesAndSyncs
  refine ⟨?move, ?send, ?syncAdd, ?syncWait, ?met, ?metErr, ?complete, ?fill, ?fillFailed, ?hang, ?noHang⟩
  case move =>
    intro s n q l x c1 c2 h hr hw
    exact State.on_of_eq (moveTile_copies h hr hw)
  case send =>
    intro s n q l x k c1 c2 h hr hw
    exact State.on_of_eq (sendTile_writes h hr hw)
  case syncAdd =>
    intro s n q l h hs hpop
    exact State.on_of_eq (tileSyncAdd_signals h (hpop.trans hs))
  case syncWait =>
    intro s n q l h hs he
    exact State.on_of_eq (tileSyncWait_makes h hs he)
  case met =>
    intro s n i k w x hrun hi hw he hk hx
    exact State.on_of_eq ((tileSyncWaitMet_of_waitMet ⟨hrun, hi, hw, hk, hx⟩).trans (if_neg (Bool.eq_false_iff.1 he)))
  case metErr =>
    intro s n i k w x hrun hi hw he hk hx
    exact State.on_of_eq ((tileSyncWaitMet_of_waitMet ⟨hrun, hi, hw, hk, hx⟩).trans (if_pos he))
  case complete =>
    intro s n u i tag hi he
    exact State.on_of_eq (instructionComplete_of_oldest hi he)
  case fill =>
    intro s n k m x c1 hrun hwant hm hr
    exact State.on_of_eq (ibufFillDone_of_ok ⟨hrun, hwant, hm, hr⟩)
  case fillFailed =>
    intro s n k m x c1 o hrun hwant hm ho hr
    exact State.on_of_eq (ibufFillDone_of_failed ho ⟨hrun, hwant, hm, hr⟩)
  case hang =>
    intro s n hr h0 hp
    exact State.on_of_eq (tileHang_faults hr h0 hp)
  case noHang =>
    intro s n hp
    exact State.on_of_eq (tileHang_of_progress hp)

end Sys2Proof.Machine

/-!
PROOFS. The Rill stream engines (R124 to R150): when a descriptor starts, what a response, the tile queue and the end of
a descriptor do, and the two obligations over them.
-/

namespace Sys2Proof.Machine

/-- A Rill command whose change of the part ends with the tile's decode going on. -/
theorem State.on_advance_of_eq {s : State} {f : Chip → Chip} {c : Chip} {n : Nat} (h : f s.chip = c) :
    s.on (fun c => (f c).advance n) = .next { s with chip := (c.advance n).settle } :=
  State.on_of_eq (by rw [h])

/-! ### A descriptor's start (R126 to R130) -/

section Starts
variable {c d : Chip} {n r mode : Nat} {b : List Byte}

/-- R136: a descriptor that `rillNext` admits takes its items from no Rill that would make it BAD_CHAIN. -/
theorem Chip.not_badChain_of_rillNext (h : c.rillNext n r mode b d) :
    ¬ (4 ≤ rdIdx b ∧ (r ≤ rdIdx b - 4 ∨ d.sourceConsumer n (rdIdx b - 4) ≠ some (4 + r))) := by
  obtain ⟨-, -, -, -, -, -, -, -, -, -, -, hchain⟩ := h
  rintro ⟨h4, hlate | hother⟩
  · exact Nat.not_lt.2 hlate (hchain h4).1
  · exact hother (hchain h4).2

theorem rillStart_of_rillNext (h : c.rillNext n r mode b d) :
    rillStart mode n r c = ((d.startDesc n r b).runRills n).showRill n r := by
  have hchain := Chip.not_badChain_of_rillNext h
  obtain ⟨hrun, hr, hen, hend, hcur, halign, hfits, hread, hsound, hmode, hmay, -⟩ := h
  have hidle : (!c.tileRuns n || decide (4 ≤ r) || !(c.rill n r).en || (c.rill n r).ended || (c.rill n r).cur.isSome) = false := by
    simp only [hrun, Nat.not_le.2 hr, hen, hend, hcur, decide_false, Bool.not_true, Option.isSome_none, Bool.or_self]
  have hlist : ¬ ((c.rill n r).base % 64 ≠ 0 ∨ tileMemSize < (c.rill n r).base + 64 * ((c.rill n r).desc + 1)) := by
    rintro (hodd | hpast)
    · exact hodd halign
    · exact Nat.not_lt.2 hfits hpast
  have hready : ¬ (rdMode b ≠ mode ∨ (!d.rillMayStart n r b) = true) := by
    simp only [hmode, hmay, ne_eq, not_true_eq_false, Bool.not_true, Bool.false_eq_true, or_self, not_false_eq_true]
  simp only [rillStart, hidle, hread, hsound, Bool.false_eq_true, if_false, if_neg hlist, if_neg hready, if_neg hchain]

end Starts

/-- Settles O16: each row by the start of a descriptor of its mode. -/
theorem rillModesStart : Obligations.RillModesStart := by
  unfold Obligations.RillModesStart
  refine ⟨?strided, ?gather, ?scatter, ?csr, ?csc, ?hashProbe, ?setIntersect, ?neighbour, ?bucketNn⟩
  all_goals
    intro s n r b c1 h
    exact State.on_advance_of_eq (rillStart_of_rillNext h)

/-! ### Responses and accepted writes (R135, R139) -/

section Responses
variable {c : Chip} {n r k : Nat}

theorem rillResponse_of_read {i : Nat} {q : LineReq} (hi : (c.rill n r).issuedReads[k]? = some i)
    (hq : (c.rill n r).reqs[i]? = some q) :
    rillResponse n r k c = (((rillReturn n r i q c).runRills n).showRill n r).recordFault n := by
  simp only [rillResponse, hi, hq]

theorem rillResponse_of_write {w : RillWrite} {l : List RillWrite} (hi : (c.rill n r).issuedReads[k]? = none)
    (hw : (c.rill n r).writes = w :: l) (hp : w.place = .issued) :
    rillResponse n r k c = (((rillAccept n r w c).runRills n).showRill n r).recordFault n := by
  simp only [rillResponse, hi, hw, hp, if_true]

end Responses

/-! ### The tile queue (R145) -/

section TileQueue
variable {c : Chip} {n ch k : Nat} {l : List Nat}

theorem tileQueueRelease_issues (hfree : c.channelLoad ch < 256) (hq : c.queuedFor n ch = k :: l) :
    tileQueueRelease n ch c = ((c.issueTurn n ch (l.foldl min k)).showQueue n).runRills n := by
  simp only [tileQueueRelease, if_neg (Nat.not_le.2 hfree), hq]

theorem tileQueueRelease_unchanged (h : 256 ≤ c.channelLoad ch ∨ c.queuedFor n ch = []) : tileQueueRelease n ch c = c := by
  rcases h with hfull | hnone
  · exact if_pos hfull
  · simp only [tileQueueRelease, hnone, ite_self]

end TileQueue

/-! ### A descriptor's end (R129, R130) -/

theorem rillDescriptorDone_of_counted {c d : Chip} {n r : Nat} {e : RillDesc} (hrun : c.tileRuns n = true)
    (he : (c.rill n r).finished = some e) (hw : e.writeCount n (c.endDesc n r e.desc) = (.ok (), d)) :
    rillDescriptorDone n r c = ((e.markDone n d).runRills n).showRill n r := by
  simp only [rillDescriptorDone, he, hrun, hw, Bool.not_true, Bool.false_eq_true, if_false]

/-- Settles O17: a response by what it names, the tile queue by whether a request can issue, the end by its count's write. -/
theorem rillResponses : Obligations.RillResponses := by
  unfold Obligations.RillResponses
  refine ⟨?read, ?write, ?issues, ?unchanged, ?done⟩
  case read =>
    intro s n r k i q hi hq
    exact State.on_advance_of_eq (rillResponse_of_read hi hq)
  case write =>
    intro s n r k w l hi hw hp
    exact State.on_advance_of_eq (rillResponse_of_write hi hw hp)
  case issues =>
    intro s n ch k l hfree hq
    exact State.on_of_eq (tileQueueRelease_issues hfree hq)
  case unchanged =>
    intro s n ch h
    exact State.on_of_eq (tileQueueRelease_unchanged h)
  case done =>
    intro s n r d c1 hrun hd hw
    exact State.on_advance_of_eq (rillDescriptorDone_of_counted hrun hd hw)

end Sys2Proof.Machine

/-!
PROOFS. Convolution and windows (R151 to R177): when an engine starts its descriptor, what the end of one does, who loads
an engine's LFSR, and the obligation over them.
-/

namespace Sys2Proof.Machine

/-! ### A descriptor's start (R155, R160, R163) -/

section Starts
variable {c c1 c2 c3 : Chip} {g e op : Nat} {b : List Byte} {empty : Bool}

/-- R160, R163: a descriptor of the row's operation whose wait is met has its operation carried out by a RUNNING engine. -/
theorem engStart_of_met (hread : (engDescriptor g e).run c = (.ok b, c1)) (hcheck : (engCheck e b).run c1 = (.ok (), c1))
    (hop : wdOp b = op) (hwait : (engWait g e (engSync e b)).run c1 = (.ok true, c2))
    (hdo : (engOp g e b).run (c2.engRunning g e) = (.ok empty, c3)) :
    (engStart g e op).run c = (.ok (), c3.engBusy g e b empty) := by
  have hrow : ¬ wdOp b ≠ op := fun hne => hne hop
  rw [engStart, TileM.run_bind_ok hread, TileM.run_bind_ok hcheck, if_neg hrow, TileM.run_bind_ok hwait, if_pos rfl,
    TileM.run_bind_ok (TileM.run_change _ _), TileM.run_bind_ok hdo, TileM.run_change]

theorem engineRow_of_started {d : Chip} (hg : g < 12) (hactive : (c.engine g e).active = true) (hbusy : (c.engine g e).busy = false)
    (hstate : c.engState g e ≠ esStopped) (hstart : (engStart g e op).run c = (.ok (), d)) : engineRow g e op c = d := by
  simp only [engineRow, Nat.not_le.2 hg, hactive, hbusy, hstate, hstart, Bool.not_true, Bool.false_eq_true, or_self, if_false]

end Starts

/-! ### A descriptor's end (R160, R163, R176) -/

section Ends
variable {c d : Chip} {g e : Nat}

/-- R160: after its last descriptor the list ends, and the engine stands IDLE. -/
theorem Chip.engNext_of_last (h : bitOf (bytesU (c.engine g e).bytes 1 1) 0 = true) :
    c.engNext g e =
      (c.setEngine g e { c.engine g e with
        busy := false, bytes := [], void := false, row := 0, seg := 0, desc := (c.engine g e).desc + 1, active := false }).setEngState g e esIdle := by
  simp only [Chip.engNext, h, Bool.not_true, if_true]

/-- R160, R176: before its last descriptor the list goes on to the next one, which DESC shows. -/
theorem Chip.engNext_of_more (h : bitOf (bytesU (c.engine g e).bytes 1 1) 0 = false) :
    c.engNext g e =
      (c.setEngine g e { c.engine g e with
        busy := false, bytes := [], void := false, row := 0, seg := 0, desc := (c.engine g e).desc + 1, active := true }).showDesc g e := by
  simp only [Chip.engNext, h, Bool.not_false, Bool.false_eq_true, if_false]

section CarriedOut
variable (hbusy : (c.engine g e).busy = true) (hstate : c.engState g e ≠ esStopped)
  (hgo : (engGo g e ((c.engine g e).left e)).run c = (.ok (), d))
include hbusy hstate hgo

/-- R163: a descriptor with SIGNAL_EN adds its signal at its end. -/
theorem engineDescriptorDone_of_signal (hsig : (engSync e (c.engine g e).bytes).signalEn = true) :
    engineDescriptorDone g e c =
      ((d.engDone g e (c.engine g e)).engNext g e).unitSignal (engSync e (c.engine g e).bytes).signalObj
        (.add (engSync e (c.engine g e).bytes).add) true := by
  simp only [engineDescriptorDone, hbusy, beq_eq_false_iff_ne.2 hstate, hgo, hsig, Bool.not_true, Bool.or_self, Bool.false_eq_true,
    if_true, if_false]

theorem engineDescriptorDone_of_noSignal (hsig : (engSync e (c.engine g e).bytes).signalEn = false) :
    engineDescriptorDone g e c = (d.engDone g e (c.engine g e)).engNext g e := by
  simp only [engineDescriptorDone, hbusy, beq_eq_false_iff_ne.2 hstate, hgo, hsig, Bool.not_true, Bool.or_self, Bool.false_eq_true,
    if_false]

end CarriedOut

end Ends

/-! ### Writes of an engine's LFSR (R176) -/

/-- R176: slice tag 0, or the tag of a slice with a tile in the group, loads the LFSR, and 0 loads 1. -/
theorem dceLfsrWrite_of_reached {c : Chip} {master tag g e : Nat} {v : W32}
    (h : tag = 0 ∨ (List.range 16).any (fun i => c.tileSlice (16 * g + i) == some tag) = true) :
    dceLfsrWrite master tag g e v.toNat c = c.setReg (engLfsr g e) (if v.toNat = 0 then 1 else v.toNat) := by
  rw [dceLfsrWrite, if_pos h, Nat.mod_eq_of_lt v.isLt]

/-- Settles O18: each row by the start of a descriptor of its operation, the end by the signal and by whether the list goes on,
a write of the LFSR by its master (log 122) and by what the target's check answers. -/
theorem enginesRunDescriptors : Obligations.EnginesRunDescriptors := by
  unfold Obligations.EnginesRunDescriptors
  refine ⟨?conv, ?maxpool, ?avgpool, ?nougatIn, ?nougatOut, ?crop, ?lastSignal, ?moreSignal, ?last, ?more,
    ?lfsr, ?denied, ?unlisted⟩
  case conv | maxpool | avgpool | nougatIn | nougatOut | crop =>
    intro s g b empty c1 c2 c3 hg hactive hbusy hstate hread hcheck hop hwait hdo
    exact State.on_of_eq (engineRow_of_started hg hactive hbusy hstate (engStart_of_met hread hcheck hop hwait hdo))
  case lastSignal =>
    intro s g e c1 hbusy hstate hgo hsig hlast
    exact State.on_of_eq (by rw [engineDescriptorDone_of_signal hbusy hstate hgo hsig, Chip.engNext_of_last hlast])
  case moreSignal =>
    intro s g e c1 hbusy hstate hgo hsig hmore
    exact State.on_of_eq (by rw [engineDescriptorDone_of_signal hbusy hstate hgo hsig, Chip.engNext_of_more hmore])
  case last =>
    intro s g e c1 hbusy hstate hgo hsig hlast
    exact State.on_of_eq ((engineDescriptorDone_of_noSignal hbusy hstate hgo hsig).trans (Chip.engNext_of_last hlast))
  case more =>
    intro s g e c1 hbusy hstate hgo hsig hmore
    exact State.on_of_eq ((engineDescriptorDone_of_noSignal hbusy hstate hgo hsig).trans (Chip.engNext_of_more hmore))
  case lfsr =>
    intro s m tag g e v ht hm hc
    exact State.on_of_eq (Chip.checkedWrite_of_effect hm hc (dceLfsrWrite_of_reached ht))
  case denied =>
    intro s m tag g e v d t hm hc
    exact State.on_of_eq (Chip.checkedWrite_of_denied hm hc)
  case unlisted =>
    intro s m tag g e v hm
    exact State.on_of_eq (Chip.checkedWrite_of_unlisted hm)

end Sys2Proof.Machine

/-!
PROOFS. Jobs (R179 to R213, R290 to R293): when a job is dispatched, pre-empted, held or aborted, how its run, its save and its
restore end and what the end of a model's load lets go on, and the two obligations over them.
-/

namespace Sys2Proof.Machine

/-! ### Dispatch (R198, R200, R202) -/

section Dispatch
variable {c : Chip} {j : Job} (hj : c.job? j.id = some j) (hready : c.jobReady j = true)
include hj hready

/-- R202: a job with its tiles, engines and groups asks for its grant; it starts with it, and stands with cause 1 without. -/
theorem jobDispatch_of_dispatchable (hd : c.dispatchable j = .ok ()) :
    jobDispatch j.id c =
      if (c.askJob j).granted (.job j.id) = true then (c.askJob j).dispatch j
      else (c.askJob j).updJob j.id (fun j => { j with delay := 1 }) := by
  simp only [jobDispatch, hj, hready, hd, Bool.not_true, Bool.false_eq_true, if_false]

theorem jobDispatch_of_occupied (hd : c.dispatchable j = .error 0) :
    jobDispatch j.id c = c.updJob j.id (fun j => { j with delay := 0 }) := by
  have hwake : decide ((0 : Nat) = 2) = false := rfl
  simp only [jobDispatch, hj, hready, hd, hwake, Bool.not_true, Bool.false_and, Bool.false_eq_true, if_false]

end Dispatch

/-! ### The signal of a pre-emption (R203 to R205, R212) -/

theorem preemptSignal_signals {c : Chip} {j : Job} {k : Nat} (hj : c.job? j.id = some j) (hcls : j.cls ≠ 0) (hgold : j.isGolden = false)
    (hlive : (j.phase = .running ∧ j.tiles.all (fun n => (c.tile n).ended) = false) ∨ j.phase = .loading)
    (hwant : j.wanted = some k ∨ (j.wanted = none ∧ c.classPreempts j = true ∧ k = 0)) :
    preemptSignal j.id c = c.signalPreempt j k := by
  have hmay : ¬ (j.cls = 0 ∨ j.isGolden = true ∨ (j.phase ≠ .running ∧ j.phase ≠ .loading)) := by
    rcases hlive with ⟨hrun, -⟩ | hload
    · simp only [hcls, hgold, hrun, ne_eq, not_true_eq_false, Bool.false_eq_true, false_and, or_self, not_false_eq_true]
    · simp only [hcls, hgold, hload, ne_eq, not_true_eq_false, Bool.false_eq_true, and_false, or_self, not_false_eq_true]
  have hgoes : ¬ (j.phase = .running ∧ j.tiles.all (fun n => (c.tile n).ended) = true) := by
    rintro ⟨hrun, hended⟩
    rcases hlive with ⟨-, hmore⟩ | hload
    · exact Bool.false_ne_true (hmore.symm.trans hended)
    · exact JobPhase.noConfusion (hrun.symm.trans hload)
  rcases hwant with hasked | ⟨hnone, hclass, rfl⟩
  · simp only [preemptSignal, hj, if_neg hmay, if_neg hgoes, hasked]
  · simp only [preemptSignal, hj, if_neg hmay, if_neg hgoes, hnone, hclass, if_true]

/-! ### JOB_PREEMPT, its hold, and JOB_ABORT (R210, R211) -/

section Target
variable {c : Chip} {j : Job} {hold : Nat} {told wait : Chip → Nat → Chip}

/-- R210 (log 92): a target that waits is held, and the asker hears 0 at once. -/
theorem Chip.preemptTarget_of_waiting (hw : j.phase = .queued ∨ j.phase = .saved) :
    c.preemptTarget (some j) hold told wait =
      told (if hold = 0 then c else c.updJob j.id (fun j => { j with hold := some (c.now + hold * 1000) })) 0 := by
  rcases hw with hq | hs
  · simp only [Chip.preemptTarget, hq]
  · simp only [Chip.preemptTarget, hs]

/-- R210: the pre-emption of a running target is asked for, with cause 1 unless one is asked for already, and the asker waits. -/
theorem Chip.preemptTarget_of_running (hr : j.phase = .running) :
    c.preemptTarget (some j) hold told wait = wait (c.updJob j.id (fun j => { j with wanted := some (j.wanted.getD 1) })) j.id := by
  simp only [Chip.preemptTarget, hr]

end Target

/-- R210: the fields of a JOB_PREEMPT are legal. -/
abbrev preemptLegal (p : Packet) : Prop :=
  p.u 32 1 < 16 ∧ zeroIn p.bytes 33 36 = true ∧ p.u 40 4 ≤ 1000000 ∧ zeroIn p.bytes 44 64 = true

theorem jobPreempt_of_legal {c : Chip} {p : Packet} {t : Option Job} (h : c.startedAs p 0x212) (hp : preemptLegal p)
    (ht : c.targetJob p.slice (p.u 32 1) (p.u 36 4) = t) (hcls : t.any (fun j => j.cls == 0) = false) :
    jobPreempt p.id c =
      c.preemptTarget t (p.u 40 4) (fun c r => c.finish p.id stDone r)
        (fun c j => (c.updJob j (fun j => { j with waiters := j.waiters ++ [(p.id, p.u 40 4)] })).keepRunning p.id) := by
  obtain ⟨hring, hzero, hhold, hrest⟩ := hp
  refine (Chip.onPacket_of_startedAs h).trans ?_
  simp only [ht, hcls, Nat.not_le.2 hring, hzero, Nat.not_lt.2 hhold, hrest, Bool.not_true, Bool.false_eq_true, or_self, if_false]

/-- R210: a hold ends at its time, and no sooner. -/
theorem preemptHoldExpiry_eq (c : Chip) (id : Nat) :
    preemptHoldExpiry id c =
      { c with jobs := c.jobs.map (fun j => if j.id = id ∧ (∃ t ∈ j.hold, t ≤ c.now) then { j with hold := none } else j) } := by
  refine congrArg (fun l => { c with jobs := l }) (List.map_congr_left fun j _ => ?_)
  by_cases hid : j.id = id
  · cases ht : j.hold with
    | none => simp only [hid, ht, Option.not_mem_none, false_and, exists_false, and_false, if_true, if_false]
    | some t => simp only [hid, ht, Option.mem_some, exists_eq_left', true_and, if_true]
  · simp only [hid, false_and, if_false]

section Abort
variable {c : Chip} {p : Packet} (h : c.startedAs p 0x213) (hring : p.u 32 1 < 16) (hzero : zeroIn p.bytes 33 36 = true)
  (hrest : zeroIn p.bytes 40 64 = true)
include h hring hzero hrest

theorem jobAbort_ends {j : Job} (ht : c.targetJob p.slice (p.u 32 1) (p.u 36 4) = some j) :
    jobAbort p.id c = (c.abortJob j stAborted).finish p.id stDone 1 := by
  refine (Chip.onPacket_of_startedAs h).trans ?_
  simp only [ht, Nat.not_le.2 hring, hzero, hrest, Bool.not_true, Bool.false_eq_true, or_self, if_false]

theorem jobAbort_of_none (ht : c.targetJob p.slice (p.u 32 1) (p.u 36 4) = none) : jobAbort p.id c = c.finish p.id stDone 0 := by
  refine (Chip.onPacket_of_startedAs h).trans ?_
  simp only [ht, Nat.not_le.2 hring, hzero, hrest, Bool.not_true, Bool.false_eq_true, or_self, if_false]

end Abort

/-- Settles O21: a dispatch by what the job still lacks, a pre-emption by who asks for it, the packets by their target. -/
theorem jobsDispatchAndPreempt : Obligations.JobsDispatchAndPreempt := by
  unfold Obligations.JobsDispatchAndPreempt
  refine ⟨?dispatched, ?asks, ?occupied, ?signals, ?held, ?asked, ?noTarget, ?holdEnds, ?aborts, ?noAbort⟩
  case dispatched =>
    intro s j hj hready hd hg
    exact State.on_of_eq ((jobDispatch_of_dispatchable hj hready hd).trans (if_pos hg))
  case asks =>
    intro s j hj hready hd hg
    exact State.on_of_eq ((jobDispatch_of_dispatchable hj hready hd).trans (if_neg (Bool.eq_false_iff.1 hg)))
  case occupied =>
    intro s j hj hready hd
    exact State.on_of_eq (jobDispatch_of_occupied hj hready hd)
  case signals =>
    intro s j k hj hcls hgold hlive hwant
    exact State.on_of_eq (preemptSignal_signals hj hcls hgold hlive hwant)
  case held =>
    intro s p j h hring hzero hhold hrest ht hcls hw
    exact State.on_of_eq ((jobPreempt_of_legal h ⟨hring, hzero, hhold, hrest⟩ ht (beq_eq_false_iff_ne.2 hcls)).trans
      (Chip.preemptTarget_of_waiting hw))
  case asked =>
    intro s p j h hring hzero hhold hrest ht hcls hr
    exact State.on_of_eq ((jobPreempt_of_legal h ⟨hring, hzero, hhold, hrest⟩ ht (beq_eq_false_iff_ne.2 hcls)).trans
      (Chip.preemptTarget_of_running hr))
  case noTarget =>
    intro s p h hring hzero hhold hrest ht
    exact State.on_of_eq (jobPreempt_of_legal h ⟨hring, hzero, hhold, hrest⟩ ht rfl)
  case holdEnds =>
    intro s id
    exact State.on_of_eq (preemptHoldExpiry_eq s.chip id)
  case aborts =>
    intro s p j h hring hzero hrest ht
    exact State.on_of_eq (jobAbort_ends h hring hzero hrest ht)
  case noAbort =>
    intro s p h hring hzero hrest ht
    exact State.on_of_eq (jobAbort_of_none h hring hzero hrest ht)

/-! ### The end of a run (R183, R290, R291) -/

section Runs
variable {c : Chip} {j : Job} (hj : c.job? j.id = some j) (hrun : j.phase = .running)
include hj hrun

section OneChannel
variable {k : Chan} {l : List Chan} (hkind : j.kind = .run) (hk : j.chans = k :: l)
include hkind hk

theorem jobEnd_ends {st d : Nat} (he : c.chanEnd k = some (st, d)) : jobEnd j.id c = c.endJob j.id st d := by
  simp only [jobEnd, hj, hrun, hkind, hk, he, ne_eq, not_true_eq_false, if_false]

theorem jobEnd_unchanged (he : c.chanEnd k = none) : jobEnd j.id c = c := by
  simp only [jobEnd, hj, hrun, hkind, hk, he, ite_self]

end OneChannel

theorem jobEnd_of_diverse {o v n : Nat} (hkind : j.kind = .diverse o v n) : jobEnd j.id c = c.diverseEnd j := by
  simp only [jobEnd, hj, hrun, hkind, ne_eq, not_true_eq_false, if_false]

end Runs

section Diverse
variable {c : Chip} {j : Job}

theorem Chip.diverseEnd_of_failed {i st d : Nat} (hi : (c.chanEnds j).findIdx? failedEnd = some i)
    (he : (c.chanEnds j)[i]? = some (some (st, d))) : c.diverseEnd j = c.channelFailed j.id i st d {} := by
  simp only [Chip.diverseEnd, hi, he, Option.join_some]

/-- R290, R293 (log 93): with both channels complete the job goes to Weir where that has a place; until then the channel that
has come to its end is let go. -/
theorem Chip.diverseEnd_of_none_failed (hn : (c.chanEnds j).findIdx? failedEnd = none) :
    c.diverseEnd j =
      if (c.chanEnds j).all Option.isSome = true then (if 17 ≤ c.weir.length then c else c.toWeir j.id) else c.closeChans j.id := by
  simp only [Chip.diverseEnd, hn]

end Diverse

/-! ### The end of a save (R207, R208, R212) -/

section Saves
variable {c c1 c2 : Chip} {j : Job} {k : Chan} {l : List Chan} {n m : Nat} {o : Served}
  (hj : c.job? j.id = some j) (hsave : j.phase = .saving) (hk : j.chans = k :: l)
include hj hsave hk

theorem saveComplete_of_failed_tiles (ho : o ≠ .ok)
    (ht : c.saveTiles k j.slice j.cls j.saveBase (k.placement.mapIdx (fun i n => (i, n))) 0 = (o, n, c1)) :
    saveComplete j.id c = c1.endJob j.id (servedStatus o) 0 := by
  cases o with
  | ok => exact absurd rfl ho
  | denied | uncorrectable => simp only [saveComplete, hj, hk, hsave, ht, ne_eq, not_true_eq_false, if_false]

section TilesWritten
variable (ht : c.saveTiles k j.slice j.cls j.saveBase (k.placement.mapIdx (fun i n => (i, n))) 0 = (.ok, n, c1))
include ht

theorem saveComplete_saves (hw : c1.saveWrites j.slice j.cls (c1.jobRecord j k) 0 = (.ok, m, c2)) :
    saveComplete j.id c = c2.saved j k n := by
  simp only [saveComplete, hj, hk, hsave, ht, hw, ne_eq, not_true_eq_false, if_false]

theorem saveComplete_of_failed_record (ho : o ≠ .ok) (hw : c1.saveWrites j.slice j.cls (c1.jobRecord j k) 0 = (o, m, c2)) :
    saveComplete j.id c = c2.endJob j.id (servedStatus o) 0 := by
  cases o with
  | ok => exact absurd rfl ho
  | denied | uncorrectable => simp only [saveComplete, hj, hk, hsave, ht, hw, ne_eq, not_true_eq_false, if_false]

end TilesWritten

end Saves

/-! ### The end of a restore (R209, R212) -/

section Restores
variable {c c1 : Chip} {j : Job} {k : Chan} {l : List Chan} {m : Model} {v : Variant} {head : List Byte}
  (hj : c.job? j.id = some j) (hrest : j.phase = .restoring) (hk : j.chans = k :: l) (hm : c.model? k.model = some m)
  (hv : c.variantOf k = some v)
include hj hrest hk hm hv

theorem restoreComplete_runs {c2 : Chip} {n : Nat} (hh : c.saveRead j.slice j.cls j.saveBase 512 = (.ok, head, c1))
    (ht : c1.restoreTiles j k m v (List.range k.tiles) 0 = (.ok, n, c2)) :
    restoreComplete j.id c = (c2.resumeEngines j k m v head).restored j k head n := by
  simp only [restoreComplete, hj, hk, hm, hv, hrest, hh, ht, ne_eq, not_true_eq_false, if_false]

theorem restoreComplete_of_failed {o : Served} (ho : o ≠ .ok) (hh : c.saveRead j.slice j.cls j.saveBase 512 = (o, head, c1)) :
    restoreComplete j.id c = c1.endJob j.id (servedStatus o) 0 := by
  cases o with
  | ok => exact absurd rfl ho
  | denied | uncorrectable => simp only [restoreComplete, hj, hk, hm, hv, hrest, hh, ne_eq, not_true_eq_false, if_false]

end Restores

/-! ### The end of a load (R192) -/

/-- R192 (log 92): what waited for a load goes on after it; a load that could not be read leaves its jobs streaming. -/
theorem modelLoadDone_of_loading {c c1 : Chip} {m : Nat} {x : Model} {o : Served} (hx : c.model? m = some x) (hl : x.loading = true)
    (he : c.endLoad m = (o, c1)) :
    modelLoadDone m c = ((if o = .ok then c1 else c1.streamFor m).beginAfterLoad m).jobLeft m := by
  simp only [modelLoadDone, hx, hl, he, Bool.not_true, Bool.false_eq_true, if_false]

/-- Settles O22: the end of a run by its channels' ends (R183, R290; log 93), a save and a restore by what their writes and reads
answer (R212), a load by whether its image could be read (log 92). -/
theorem jobsEndSaveAndRestore : Obligations.JobsEndSaveAndRestore := by
  unfold Obligations.JobsEndSaveAndRestore
  refine ⟨?ends, ?goesOn, ?channelFails, ?toWeir, ?channelsOpen, ?saves, ?saveFails, ?recordFails, ?restores, ?restoreFails,
    ?loaded, ?loadFails⟩
  case ends =>
    intro s j k l st d hj hrun hkind hk he
    exact State.on_of_eq (jobEnd_ends hj hrun hkind hk he)
  case goesOn =>
    intro s j k l hj hrun hkind hk he
    exact State.on_of_eq (jobEnd_unchanged hj hrun hkind hk he)
  case channelFails =>
    intro s j o v n i st d hj hrun hkind hi he
    exact State.on_of_eq ((jobEnd_of_diverse hj hrun hkind).trans (Chip.diverseEnd_of_failed hi he))
  case toWeir =>
    intro s j o v n hj hrun hkind hn hall hplace
    have hfree : ¬ 17 ≤ s.chip.weir.length := Nat.not_le.2 (Nat.lt_succ_of_le hplace)
    exact State.on_of_eq (((jobEnd_of_diverse hj hrun hkind).trans (Chip.diverseEnd_of_none_failed hn)).trans
      ((if_pos hall).trans (if_neg hfree)))
  case channelsOpen =>
    intro s j o v n hj hrun hkind hn hall
    exact State.on_of_eq (((jobEnd_of_diverse hj hrun hkind).trans (Chip.diverseEnd_of_none_failed hn)).trans
      (if_neg (Bool.eq_false_iff.1 hall)))
  case saves =>
    intro s j k l n m c1 c2 hj hsave hk ht hw
    exact State.on_of_eq (saveComplete_saves hj hsave hk ht hw)
  case saveFails =>
    intro s j k l n o c1 hj hsave hk ho ht
    exact State.on_of_eq (saveComplete_of_failed_tiles hj hsave hk ho ht)
  case recordFails =>
    intro s j k l n m o c1 c2 hj hsave hk ht ho hw
    exact State.on_of_eq (saveComplete_of_failed_record hj hsave hk ht ho hw)
  case restores =>
    intro s j k l m v head n c1 c2 hj hrest hk hm hv hh ht
    exact State.on_of_eq (restoreComplete_runs hj hrest hk hm hv hh ht)
  case restoreFails =>
    intro s j k l m v head o c1 hj hrest hk hm hv ho hh
    exact State.on_of_eq (restoreComplete_of_failed hj hrest hk hm hv ho hh)
  case loaded =>
    intro s m x c1 hx hl he
    exact State.on_of_eq (modelLoadDone_of_loading hx hl he)
  case loadFails =>
    intro s m x o c1 hx hl ho he
    exact State.on_of_eq ((modelLoadDone_of_loading hx hl he).trans (by rw [if_neg ho]))

end Sys2Proof.Machine

/-!
PROOFS. Confluence (R216 to R239): what its triggers and its packets do, what becomes of what a sensor or an inject ring sends,
what a cut-off finds, how the levels cycle and how their records are revised, and the four obligations over them.
-/

namespace Sys2Proof.Machine

/-! ### Triggers (R216) -/

section Triggers
variable {c d : Chip} {n v : Nat}

theorem triggerEnable_of_tag {tag : Nat} (h : tag ≠ 0) : triggerEnable tag n v c = c := if_pos (.inl h)

/-- While EN is set POL holds; OUT_EN is taken, ARM_ERR cleared by a 1, and EN cleared by a 0. -/
theorem triggerEnable_of_on (hn : n < 16) (hon : c.flag (CFL_TRIG_CTRL n) CFL_TRIG_CTRL.EN = true)
    (hd : c.setFld (CFL_TRIG_CTRL n) CFL_TRIG_CTRL.OUT_EN (bitsOf v 1 1) = d) :
    triggerEnable 0 n v c =
      let e := if bitOf v 3 = true then d.setFld (CFL_TRIG_CTRL n) CFL_TRIG_CTRL.ARM_ERR 0 else d
      if bitOf v 0 = true then e else e.setFld (CFL_TRIG_CTRL n) CFL_TRIG_CTRL.EN 0 := by
  have htag : ¬ ((0 : Nat) ≠ 0 ∨ 16 ≤ n) := by omega
  simp only [triggerEnable, if_neg htag, hon, hd, if_true]
  cases bitOf v 0 <;> rfl

/-- R216: the period, the width or the first edge keeps a trigger from being armed. -/
abbrev Chip.armRefused (c : Chip) (n : Nat) : Prop :=
  c.reg (CFL_TRIG_PERIOD n) < 1000 ∨ 2000000000 < c.reg (CFL_TRIG_PERIOD n) ∨ c.reg (CFL_TRIG_WIDTH n) < 100 ∨
    c.reg (CFL_TRIG_PERIOD n) < c.reg (CFL_TRIG_WIDTH n) + 100 ∨ timeBefore (c.now + 2147000000) (c.firstEdge n) = true

/-- A clear EN that is set arms the first edge, or is refused with ARM_ERR. -/
theorem triggerEnable_of_off (hn : n < 16) (hoff : c.flag (CFL_TRIG_CTRL n) CFL_TRIG_CTRL.EN = false) (h3 : bitOf v 3 = false)
    (h0 : bitOf v 0 = true)
    (hd : d = (c.setFld (CFL_TRIG_CTRL n) CFL_TRIG_CTRL.POL (bitsOf v 2 2)).setFld (CFL_TRIG_CTRL n) CFL_TRIG_CTRL.OUT_EN (bitsOf v 1 1)) :
    triggerEnable 0 n v c =
      if d.armRefused n then d.setFld (CFL_TRIG_CTRL n) CFL_TRIG_CTRL.ARM_ERR 1
      else (d.setFld (CFL_TRIG_CTRL n) CFL_TRIG_CTRL.EN 1).setReg (CFL_TRIG_NEXT n) (d.firstEdge n) := by
  have htag : ¬ ((0 : Nat) ≠ 0 ∨ 16 ≤ n) := by omega
  simp only [triggerEnable, if_neg htag, hoff, h3, h0, ← hd, Bool.not_true, Bool.false_eq_true, if_false]

theorem triggerEdge_of_due (hn : n < 16) (hon : c.flag (CFL_TRIG_CTRL n) CFL_TRIG_CTRL.EN = true)
    (he : edgeReached c.now (c.reg (CFL_TRIG_NEXT n)) = true) :
    triggerEdge n c = (c.countEdge n (c.reg (CFL_TRIG_NEXT n))).edgeFrames n (c.reg (CFL_TRIG_NEXT n)) := by
  simp only [triggerEdge, Nat.not_le.2 hn, hon, he, Bool.not_true, Bool.false_eq_true, or_self, if_false]

theorem triggerEdge_of_early (he : edgeReached c.now (c.reg (CFL_TRIG_NEXT n)) = false) : triggerEdge n c = c :=
  if_pos (.inr (.inr (congrArg not he)))

end Triggers

/-! ### FUSE_STREAM_OPEN and FUSE_STREAM_CLOSE (R219 to R222) -/

section OpenAndClose
variable {c : Chip} {p : Packet}

section Open
variable {sl : Slice} (h : c.startedAs p 0x300) (hs : c.slice? p.slice = some sl)
include h hs

theorem fuseStreamOpen_opens (hst : c.openStatus sl p = none) : fuseStreamOpen p.id c = (c.openStream p).finish p.id stDone := by
  refine (Chip.onPacket_of_startedAs h).trans ?_
  simp only [hs, hst]

theorem fuseStreamOpen_of_failed {st : Nat} (hst : c.openStatus sl p = some st) : fuseStreamOpen p.id c = c.finish p.id st := by
  refine (Chip.onPacket_of_startedAs h).trans ?_
  simp only [hs, hst]

end Open

/-- R222: a stream's own slice asks it to close, and one with no frame in progress stands at a boundary. -/
theorem fuseStreamClose_of_own {x : FuseStream} (h : c.startedAs p 0x302) (hn : p.u 32 1 < 64) (hz : zeroIn p.bytes 33 64 = true)
    (hx : c.stream? (p.u 32 1) = some x) (hown : x.slice = p.slice) :
    fuseStreamClose p.id c =
      if x.frames.all (·.ended) = true then (c.askClose (p.u 32 1) p.id).closeStream (p.u 32 1) else c.askClose (p.u 32 1) p.id := by
  refine (Chip.onPacket_of_startedAs h).trans ?_
  simp only [Nat.not_le.2 hn, hz, hx, hown, ne_eq, not_true_eq_false, Bool.not_true, Bool.false_eq_true, or_self, if_false]

end OpenAndClose

/-! ### Injected contributions (R221, R232) -/

section Inject
variable {c d : Chip} {n : Nat} {x : FuseStream} {b : List Byte}

/-- The drop of a descriptor for a cause, with how late it came. -/
abbrev Chip.injectDrop (d : Chip) (n : Nat) (x : FuseStream) (b : List Byte) (cause : Nat) : Chip :=
  d.lateDrop n (bytesU b 32 4) (bytesU b 0 8) (d.now - (x.injectCut (bytesU b 0 8)).getD d.now) cause

/-- A descriptor in time, and a late one of a REVISABLE stream, is taken (R232). -/
theorem Chip.not_late_of_taken {v : Nat} (h : d.injectLate x v = false ∨ x.revisable = true) :
    (d.injectLate x v && !x.revisable) = false := by
  rcases h with hintime | hrev
  · rw [hintime, Bool.false_and]
  · rw [hrev, Bool.not_true, Bool.and_false]

section Read
variable (hx : c.stream? n = some x) (hready : c.injectReady x = true) (hhead : c.injectHead n x = (b, d))
include hx hready hhead

theorem injectContribution_of_bad (hbad : injectBad x b = true) : injectContribution n c = d.streamBad n 2 := by
  simp only [injectContribution, hx, hready, hhead, hbad, Bool.not_true, Bool.false_eq_true, if_false, if_true]

section Good
variable (hgood : injectBad x b = false)
include hgood

section Late
variable (hlate : d.injectLate x (bytesU b 0 8) = true) (hrev : x.revisable = false)
include hlate hrev

theorem injectContribution_of_late_l0 (hkind : bytesU b 28 1 = 2) : injectContribution n c = d.injectDrop n x b 0 := by
  simp only [injectContribution, hx, hready, hhead, hgood, hkind, hlate, hrev, Bool.not_true, Bool.not_false, Bool.and_self,
    Bool.false_eq_true, if_false, if_true]

/-- R233: the level that a late descriptor was for misses it. -/
theorem injectContribution_of_late_level (hkind : bytesU b 28 1 ≠ 2) :
    injectContribution n c = (d.injectDrop n x b 0).levelMiss (d.injected n b) := by
  simp only [injectContribution, hx, hready, hhead, hgood, hkind, hlate, hrev, Bool.not_true, Bool.not_false, Bool.and_self,
    Bool.false_eq_true, if_false, if_true]

end Late

section Taken
variable (htaken : d.injectLate x (bytesU b 0 8) = false ∨ x.revisable = true)
include htaken

section L0
variable (hkind : bytesU b 28 1 = 2)
include hkind

theorem injectContribution_publishes (hstale : x.staleRevision (bytesU b 0 8) = none) :
    injectContribution n c = d.injectPublish n x b (d.injectLate x (bytesU b 0 8)) := by
  simp only [injectContribution, hx, hready, hhead, hgood, hkind, Chip.not_late_of_taken htaken, hstale, Bool.not_true,
    Bool.false_eq_true, if_false, if_true]

/-- R229, R234 (log 114): a republication that is older than the last record, or beyond its revisions, is dropped. -/
theorem injectContribution_of_stale {k : Nat} (hstale : x.staleRevision (bytesU b 0 8) = some k) :
    injectContribution n c = d.injectDrop n x b k := by
  simp only [injectContribution, hx, hready, hhead, hgood, hkind, Chip.not_late_of_taken htaken, hstale, Bool.not_true,
    Bool.false_eq_true, if_false, if_true]

end L0

theorem injectContribution_of_taken_level (hkind : bytesU b 28 1 ≠ 2) : injectContribution n c = d.contributeTo (d.injected n b) := by
  simp only [injectContribution, hx, hready, hhead, hgood, hkind, Chip.not_late_of_taken htaken, Bool.not_true, Bool.false_eq_true,
    if_false]

end Taken

end Good

end Read

end Inject

/-! ### The cut-off (R222, R232, R233) -/

section Cutoff
variable {c d : Chip} {n : Nat} {x y : FuseStream} {f : FuseFrame}

/-- A closing stream whose next boundary has passed is closed. -/
abbrev Chip.closePast (c : Chip) (n : Nat) (x : FuseStream) : Chip := if c.boundaryPast x = true then c.boundary n else c

theorem lateCutoff_of_cut (hx : c.stream? n = some x) (hd : c.beginMissed n x = d) (hy : d.stream? n = some y)
    (hf : d.cutFrame y = some f) :
    lateCutoff n c = (if f.ended = true then d.publishEnded n else d.publishCut n y f).closePast n x := by
  simp only [lateCutoff, hx, hd, hy, hf]

theorem lateCutoff_of_none (hx : c.stream? n = some x) (hmiss : c.missedFrame x = none) (hcut : c.cutFrame x = none) :
    lateCutoff n c = c.closePast n x := by
  have hd : c.beginMissed n x = c := by rw [Chip.beginMissed, hmiss]
  simp only [lateCutoff, hx, hd, hcut]

end Cutoff

/-- Settles O24: a write of a trigger by its EN, a packet by its checks, a descriptor by its kind and its time (log 114), a
cut-off by the frame it finds (log 27), an edge by its time (log 93). -/
theorem streamsOpenAndTriggersFire : Obligations.StreamsOpenAndTriggersFire := by
  unfold Obligations.StreamsOpenAndTriggersFire
  refine ⟨?otherTag, ?disarm, ?clearError, ?arms, ?armRefused, ?edge, ?noEdge, ?opens, ?openFails, ?closes, ?bad, ?lateL0, ?lateLevel,
    ?publishes, ?stale, ?toLevel, ?cutOpen, ?cutEnded, ?boundary⟩
  case otherTag =>
    intro s tag n v ht
    exact State.on_of_eq (triggerEnable_of_tag ht)
  case disarm =>
    intro s n v hn hon h3 h0
    exact State.on_of_eq ((triggerEnable_of_on hn hon rfl).trans (by simp only [h3, h0, Bool.false_eq_true, if_false]))
  case clearError =>
    intro s n v hn hon h3 h0
    exact State.on_of_eq ((triggerEnable_of_on hn hon rfl).trans (by simp only [h3, h0, if_true]))
  case arms =>
    intro s n v c hn hoff h3 h0 hc hmin hmax hwidth hgap hfirst
    have hok : ¬ c.armRefused n := by
      simp only [Chip.armRefused, hfirst, Bool.false_eq_true, or_false]
      omega
    exact State.on_of_eq ((triggerEnable_of_off hn hoff h3 h0 hc).trans (if_neg hok))
  case armRefused =>
    intro s n v c hn hoff h3 h0 hc hbad
    exact State.on_of_eq ((triggerEnable_of_off hn hoff h3 h0 hc).trans (if_pos hbad))
  case edge =>
    intro s n hn hon he
    exact State.on_of_eq (triggerEdge_of_due hn hon he)
  case noEdge =>
    intro s n he
    exact State.on_of_eq (triggerEdge_of_early he)
  case opens =>
    intro s p sl h hs hst
    exact State.on_of_eq (fuseStreamOpen_opens h hs hst)
  case openFails =>
    intro s p sl st h hs hst
    exact State.on_of_eq (fuseStreamOpen_of_failed h hs hst)
  case closes =>
    intro s p x h hn hz hx hown
    exact State.on_of_eq (fuseStreamClose_of_own h hn hz hx hown)
  case bad =>
    intro s n x b c hx hready hhead hbad
    exact State.on_of_eq (injectContribution_of_bad hx hready hhead hbad)
  case lateL0 =>
    intro s n x b c hx hready hhead hgood hkind hlate hrev
    exact State.on_of_eq (injectContribution_of_late_l0 hx hready hhead hgood hlate hrev hkind)
  case lateLevel =>
    intro s n x b c hx hready hhead hgood hkind hlate hrev
    exact State.on_of_eq (injectContribution_of_late_level hx hready hhead hgood hlate hrev hkind)
  case publishes =>
    intro s n x b c hx hready hhead hgood hkind htaken hstale
    exact State.on_of_eq (injectContribution_publishes hx hready hhead hgood htaken hkind hstale)
  case stale =>
    intro s n x b c k hx hready hhead hgood hkind htaken hstale
    exact State.on_of_eq (injectContribution_of_stale hx hready hhead hgood htaken hkind hstale)
  case toLevel =>
    intro s n x b c hx hready hhead hgood hkind htaken
    exact State.on_of_eq (injectContribution_of_taken_level hx hready hhead hgood htaken hkind)
  case cutOpen =>
    intro s n x c y f hx hc hy hf hopen
    exact State.on_of_eq ((lateCutoff_of_cut hx hc hy hf).trans (by rw [if_neg (Bool.eq_false_iff.1 hopen)]))
  case cutEnded =>
    intro s n x c y f hx hc hy hf hended
    exact State.on_of_eq ((lateCutoff_of_cut hx hc hy hf).trans (by rw [if_pos hended]))
  case boundary =>
    intro s n x _ hx hmiss hcut hpast
    exact State.on_of_eq ((lateCutoff_of_none hx hmiss hcut).trans (if_pos hpast))

/-! ### FUSE_POLICY (R223, R226, R227) -/

/-- R223, R224: the fields of an alignment context are legal. -/
abbrev Packet.contextLegal (p : Packet) : Prop :=
  p.u 33 1 < 32 ∧ zeroIn p.bytes 35 40 = true ∧ p.alignCtx.base < 2 ^ 48 ∧ 4 ≤ p.alignCtx.log2 ∧ p.alignCtx.log2 ≤ 12 ∧
    p.u 49 1 = 0 ∧ zeroIn p.bytes 60 128 = true

/-- R223: the fields of a stream's policy are legal. -/
abbrev Packet.streamPolicyLegal (p : Packet) : Prop :=
  p.u 33 1 < 64 ∧ zeroIn p.bytes 35 40 = true ∧ p.u 40 1 ≤ 1 ∧ zeroIn p.bytes 41 44 = true ∧ zeroIn p.bytes 48 128 = true

section Policies
variable {c : Chip} {p : Packet} (h : c.startedAs p 0x301)
include h

theorem Chip.onPolicy_of_bad {policy : Nat} {release : Bool} {f : Packet → Chip → Chip} (hb : 3 < p.u 32 1 ∨ 1 < p.u 34 1) :
    c.onPolicy p.id policy release f = c.finish p.id stBadParam :=
  (Chip.onPacket_of_startedAs h).trans (if_pos hb)

theorem Chip.onPolicy_of_released {f : Packet → Chip → Chip} (hle : p.u 32 1 ≤ 3) (hrel : p.u 34 1 = 1) :
    c.onPolicy p.id 0 true f = f p c := by
  refine (Chip.onPacket_of_startedAs h).trans ?_
  simp only [hrel, Nat.not_lt.2 hle, Nat.lt_irrefl, b2n, true_or, and_self, or_self, if_false, if_true]

section Bind
variable (hbind : p.u 34 1 = 0)
include hbind

theorem Chip.onPolicy_of_bound {policy : Nat} {f : Packet → Chip → Chip} (hp : p.u 32 1 = policy) (hle : policy ≤ 3) :
    c.onPolicy p.id policy false f = f p c := by
  refine (Chip.onPacket_of_startedAs h).trans ?_
  simp only [hbind, hp, Nat.not_lt.2 hle, Nat.not_lt_zero, b2n, Bool.false_eq_true, or_true, and_self, or_self, if_false, if_true]

theorem fusePolicyContext_binds (hp : p.u 32 1 = 0) (hlegal : p.contextLegal)
    (hfree : boundElsewhere ((AMap.get? c.cfl.contexts (p.u 33 1)).map (·.slice)) p.slice = false)
    (hsync : c.syncOf p.slice p.alignCtx.obj = true) (hring : c.ownsPages p.slice p.alignCtx.base (64 * 2 ^ p.alignCtx.log2) = true) :
    fusePolicyContext p.id c =
      Chip.finish { c with cfl := { c.cfl with contexts := AMap.set c.cfl.contexts (p.u 33 1) p.alignCtx } } p.id stDone := by
  obtain ⟨hi, hzero, hbase, hmin, hmax, hbyte, hrest⟩ := hlegal
  refine (Chip.onPolicy_of_bound h hbind hp (Nat.zero_le 3)).trans ?_
  simp only [Nat.not_le.2 hi, hzero, Nat.not_le.2 hbase, Nat.not_lt.2 hmin, Nat.not_lt.2 hmax, hbyte, hrest, hfree, hsync, hring, ne_eq,
    not_true_eq_false, Bool.not_true, Bool.false_eq_true, or_self, if_false]

section Grids
variable (hp : p.u 32 1 = 1)
include hp

theorem fusePolicyGrid_binds (hst : c.gridStatus p = none) :
    fusePolicyGrid p.id c = (c.bindGrid (p.u 33 1) p.grid).finish p.id stDone := by
  refine (Chip.onPolicy_of_bound h hbind hp (by decide)).trans ?_
  simp only [hst]

theorem fusePolicyGrid_of_failed {st : Nat} (hst : c.gridStatus p = some st) : fusePolicyGrid p.id c = c.finish p.id st := by
  refine (Chip.onPolicy_of_bound h hbind hp (by decide)).trans ?_
  simp only [hst]

end Grids

section Trackers
variable (hp : p.u 32 1 = 2)
include hp

theorem fusePolicyTracker_binds (hst : c.trackerStatus p = none) :
    fusePolicyTracker p.id c = (c.bindTracker p.tracker).finish p.id stDone := by
  refine (Chip.onPolicy_of_bound h hbind hp (by decide)).trans ?_
  simp only [hst]

theorem fusePolicyTracker_of_failed {st : Nat} (hst : c.trackerStatus p = some st) :
    fusePolicyTracker p.id c = c.finish p.id st := by
  refine (Chip.onPolicy_of_bound h hbind hp (by decide)).trans ?_
  simp only [hst]

end Trackers

theorem fusePolicyStream_sets {x : FuseStream} (hp : p.u 32 1 = 3) (hlegal : p.streamPolicyLegal)
    (hx : c.stream? (p.u 33 1) = some x) (hown : x.slice = p.slice) :
    fusePolicyStream p.id c = (c.updStream (p.u 33 1) (fun s => s.setPolicy (p.u 40 1) (p.u 44 4))).finish p.id stDone := by
  obtain ⟨hn, hzero, hrev, hbytes, hrest⟩ := hlegal
  refine (Chip.onPolicy_of_bound h hbind hp (Nat.le_refl 3)).trans ?_
  simp only [Nat.not_le.2 hn, hzero, Nat.not_lt.2 hrev, hbytes, hrest, hx, hown, ne_eq, not_true_eq_false, Bool.not_true,
    Bool.false_eq_true, or_self, if_false]

end Bind

section Release
variable (hle : p.u 32 1 ≤ 3) (hrel : p.u 34 1 = 1)
include hle hrel

theorem fusePolicyRelease_of_reserved (hres : p.policyReserved.any (fun r => !zeroIn p.bytes r.1 r.2) = true) :
    fusePolicyRelease p.id c = c.finish p.id stBadParam :=
  (Chip.onPolicy_of_released h hle hrel).trans (if_pos hres)

section Legal
variable (hres : p.policyReserved.any (fun r => !zeroIn p.bytes r.1 r.2) = false)
include hres

theorem fusePolicyRelease_of_unbound (ho : c.policyOwner (p.u 32 1) (p.u 33 1) = none) :
    fusePolicyRelease p.id c = c.finish p.id stBadParam := by
  refine (Chip.onPolicy_of_released h hle hrel).trans ?_
  simp only [hres, ho, Bool.false_eq_true, if_false]

variable {o : Nat} (ho : c.policyOwner (p.u 32 1) (p.u 33 1) = some o)
include ho

theorem fusePolicyRelease_of_foreign (hne : o ≠ p.slice) : fusePolicyRelease p.id c = c.finish p.id stNotOwner := by
  refine (Chip.onPolicy_of_released h hle hrel).trans ?_
  simp only [hres, ho, hne, ne_eq, not_false_eq_true, Bool.false_eq_true, if_false, if_true]

/-- R223: an index of the slice's own is freed unless an open stream names it. -/
theorem fusePolicyRelease_of_own (hown : o = p.slice) :
    fusePolicyRelease p.id c =
      if c.policyNamed (p.u 32 1) (p.u 33 1) = true then c.finish p.id stBadParam
      else (c.unbindPolicy (p.u 32 1) (p.u 33 1)).finish p.id stDone := by
  refine (Chip.onPolicy_of_released h hle hrel).trans ?_
  simp only [hres, ho, hown, ne_eq, not_true_eq_false, Bool.false_eq_true, if_false]

end Legal

end Release

end Policies

/-- Settles O25: a policy by its checks, a RELEASE by its reserved bytes (log 27) and by who holds the index it names; that one not
bound is BAD_PARAM, and that a grid or tracker bound again keeps what it holds, is the model's choice. -/
theorem fusionPoliciesBind : Obligations.FusionPoliciesBind := by
  unfold Obligations.FusionPoliciesBind
  refine ⟨?bad, ?context, ?grid, ?tracker, ?gridFails, ?trackerFails, ?stream, ?releases, ?named, ?reserved, ?foreign, ?unbound⟩
  case bad =>
    intro s p h hb
    exact State.on_of_eq (Chip.onPolicy_of_bad h hb)
  case context =>
    intro s p h hp hbind hi hzero hbase hmin hmax hbyte hrest hfree hsync hring
    exact State.on_of_eq (fusePolicyContext_binds h hbind hp ⟨hi, hzero, hbase, hmin, hmax, hbyte, hrest⟩ hfree hsync hring)
  case grid =>
    intro s p h hp hbind hst
    exact State.on_of_eq (fusePolicyGrid_binds h hbind hp hst)
  case tracker =>
    intro s p h hp hbind hst
    exact State.on_of_eq (fusePolicyTracker_binds h hbind hp hst)
  case gridFails =>
    intro s p st h hp hbind hst
    exact State.on_of_eq (fusePolicyGrid_of_failed h hbind hp hst)
  case trackerFails =>
    intro s p st h hp hbind hst
    exact State.on_of_eq (fusePolicyTracker_of_failed h hbind hp hst)
  case stream =>
    intro s p x h hp hbind hn hzero hrev hbytes hrest hx hown
    exact State.on_of_eq (fusePolicyStream_sets h hbind hp ⟨hn, hzero, hrev, hbytes, hrest⟩ hx hown)
  case releases =>
    intro s p o h hle hrel hres ho hown hnamed
    exact State.on_of_eq ((fusePolicyRelease_of_own h hle hrel hres ho hown).trans (if_neg (Bool.eq_false_iff.1 hnamed)))
  case named =>
    intro s p o h hle hrel hres ho hown hnamed
    exact State.on_of_eq ((fusePolicyRelease_of_own h hle hrel hres ho hown).trans (if_pos hnamed))
  case reserved =>
    intro s p h hle hrel hres
    exact State.on_of_eq (fusePolicyRelease_of_reserved h hle hrel hres)
  case foreign =>
    intro s p o h hle hrel hres ho hne
    exact State.on_of_eq (fusePolicyRelease_of_foreign h hle hrel hres ho hne)
  case unbound =>
    intro s p h hle hrel hres ho
    exact State.on_of_eq (fusePolicyRelease_of_unbound h hle hrel hres ho)

/-! ### Cameras (R225, R233) -/

/-- R233: late data is lost only where its frame is cut off and its stream is not REVISABLE. -/
theorem FuseFrame.not_lost_of_kept {f : FuseFrame} {x : FuseStream} (h : f.cut = false ∨ x.revisable = true) :
    ¬ (f.cut = true ∧ (!x.revisable) = true) := by
  rintro ⟨hcut, hlost⟩
  rcases h with hin | hrev
  · exact Bool.false_ne_true (hin.symm.trans hcut)
  · exact Bool.false_ne_true ((congrArg not hrev).symm.trans hlost)

section Camera
variable {c d : Chip} {n row : Nat} {x : FuseStream} {f : FuseFrame} {b : List Byte}

section Rows
variable (hd : c.freeFrame n = d) (hx : d.stream? n = some x) (hkind : x.kind = 0)
include hd hx hkind

/-- R225: a row with a bad header or a bad CRC is counted with the cause of its verdict. -/
theorem cameraRow_of_verdict {k : Nat} (hk : k = 1 ∨ k = 2) : cameraRow n row k b c = d.streamBad n (k - 1) := by
  rcases hk with rfl | rfl
  · simp only [cameraRow, hd, hx, hkind, ne_eq, not_true_eq_false, if_false, if_true]
  · simp only [cameraRow, hd, hx, hkind, ne_eq, not_true_eq_false, Nat.reduceEqDiff, if_false, if_true]

theorem cameraRow_of_misplaced (hbad : x.height ≤ row ∨ b.length ≠ x.rowBytes) : cameraRow n row 0 b c = d.streamBad n 3 := by
  simp only [cameraRow, hd, hx, hkind, if_pos hbad, ne_eq, not_true_eq_false, Nat.reduceEqDiff, if_false]

theorem cameraRow_takes (hrow : row < x.height) (hlen : b.length = x.rowBytes) (hf : x.current d.now = some f)
    (hopen : f.ended = false) (hkeeps : f.cut = false ∨ x.revisable = true) :
    cameraRow n row 0 b c = d.takeRow n x f row b := by
  have hgoes : ¬ (f.ended = true ∨ f.cut = true ∧ (!x.revisable) = true) :=
    not_or.2 ⟨Bool.eq_false_iff.1 hopen, FuseFrame.not_lost_of_kept hkeeps⟩
  simp only [cameraRow, hd, hx, hkind, Nat.not_le.2 hrow, hlen, hf, if_neg hgoes, ne_eq, not_true_eq_false, Nat.reduceEqDiff,
    or_self, if_false]

end Rows

/-- R225, R233: the end of a camera frame is its completion, or, after its cut-off, that of its late data. -/
theorem cameraFrameEnd_of_open (hx : c.stream? n = some x) (hf : x.current c.now = some f) (hkind : x.kind = 0) (hopen : f.ended = false) :
    cameraFrameEnd n c =
      (if f.cut = true then c.lateOver n f true
        else (c.updFrame n f.edge (fun f => { f with ended := true, oldest := none })).publishEnded n).boundary n := by
  simp only [cameraFrameEnd, hx, hf, hkind, hopen, ne_eq, not_true_eq_false, Bool.false_eq_true, or_self, if_false]

end Camera

/-! ### Lidars (R218, R225, R232) -/

section Lidar
variable {c d : Chip} {n : Nat} {b : List Byte} {x y : FuseStream} {f : FuseFrame} (hx : c.stream? n = some x) (hkind : x.kind = 1)
include hx hkind

theorem lidarPacket_of_short (hs : b.length < x.u 178 2 + x.width * x.pointBytes ∨ b.length < x.u 176 2 + 8) :
    lidarPacket n b c = c.streamBad n 3 := by
  simp only [lidarPacket, hx, hkind, if_pos hs, ne_eq, not_true_eq_false, if_false]

section Sweeps
variable (hpts : x.u 178 2 + x.width * x.pointBytes ≤ b.length) (htime : x.u 176 2 + 8 ≤ b.length)
  (hd : c.openSweep n x (c.sweepEdge x (x.packetValidity b)) = d) (hy : d.stream? n = some y)
include hpts htime hd hy

theorem lidarPacket_of_gone (hf : y.frames.find? (fun f => f.edge == c.sweepEdge x (x.packetValidity b)) = none) :
    lidarPacket n b c = d.gonePoints n y (c.sweepEdge x (x.packetValidity b)) (x.packetValidity b) := by
  simp only [lidarPacket, hx, hkind, Nat.not_lt.2 hpts, Nat.not_lt.2 htime, hd, hy, hf, ne_eq, not_true_eq_false, or_self, if_false]

/-- The points of a sweep that is held are taken into it, unless it is published or cut off for good. -/
theorem lidarPacket_of_held (hf : y.frames.find? (fun f => f.edge == c.sweepEdge x (x.packetValidity b)) = some f) :
    lidarPacket n b c =
      if f.ended = true then d.endedPoints n y f (x.packetValidity b) b
      else if f.cut = true ∧ (!y.revisable) = true then d
      else d.takePoints n y f (x.packetValidity b) b := by
  simp only [lidarPacket, hx, hkind, Nat.not_lt.2 hpts, Nat.not_lt.2 htime, hd, hy, hf, ne_eq, not_true_eq_false, or_self, if_false]

end Sweeps

end Lidar

/-! ### IMU samples (R217) -/

/-- R217, R233: a sample that is due is read and published, or, its frame cut off, kept as late data. -/
theorem imuSample_of_due {c d : Chip} {n : Nat} {b : List Byte} {x : FuseStream} {f : FuseFrame} (hd : c.freeFrame n = d)
    (hx : d.stream? n = some x) (hf : d.dueSample x = some f) (hkind : x.kind = 2) :
    imuSample n b c =
      if f.cut = true then (((d.spiRead x).updFrame n f.edge (fun f => { f with raw := b.take (x.u 181 1) })).lateOver n f true).boundary n
      else (d.spiRead x).publishSample n x f (b.take (x.u 181 1)) := by
  simp only [imuSample, hd, hx, hf, hkind, ne_eq, not_true_eq_false, if_false]

/-- Settles O26: a row by its verdict, its place and its frame, a frame's end by its cut-off, a packet by its sweep (log 27), a
sample by its frame. -/
theorem sensorDataIsTaken : Obligations.SensorDataIsTaken := by
  unfold Obligations.SensorDataIsTaken
  refine ⟨?badRow, ?misplaced, ?row, ?frameEnds, ?lateEnds, ?short, ?points, ?published, ?gone, ?sample, ?lateSample⟩
  case badRow =>
    intro s n row k b x c hc hx hkind hk
    exact State.on_of_eq (cameraRow_of_verdict hc hx hkind hk)
  case misplaced =>
    intro s n row b x c hc hx hkind hbad
    exact State.on_of_eq (cameraRow_of_misplaced hc hx hkind hbad)
  case row =>
    intro s n row b x f c hc hx hkind hrow hlen hf hopen hkeeps
    exact State.on_of_eq (cameraRow_takes hc hx hkind hrow hlen hf hopen hkeeps)
  case frameEnds =>
    intro s n x f hx hf hkind hopen hcut
    exact State.on_of_eq ((cameraFrameEnd_of_open hx hf hkind hopen).trans (by rw [if_neg (Bool.eq_false_iff.1 hcut)]))
  case lateEnds =>
    intro s n x f hx hf hkind hopen hcut
    exact State.on_of_eq ((cameraFrameEnd_of_open hx hf hkind hopen).trans (by rw [if_pos hcut]))
  case short =>
    intro s n b x hx hkind hs
    exact State.on_of_eq (lidarPacket_of_short hx hkind hs)
  case points =>
    intro s n b x y f c hx hkind hpts htime hc hy hf hopen hkeeps
    exact State.on_of_eq ((lidarPacket_of_held hx hkind hpts htime hc hy hf).trans
      ((if_neg (Bool.eq_false_iff.1 hopen)).trans (if_neg (FuseFrame.not_lost_of_kept hkeeps))))
  case published =>
    intro s n b x y f c hx hkind hpts htime hc hy hf hended
    exact State.on_of_eq ((lidarPacket_of_held hx hkind hpts htime hc hy hf).trans (if_pos hended))
  case gone =>
    intro s n b x y c hx hkind hpts htime hc hy hf
    exact State.on_of_eq (lidarPacket_of_gone hx hkind hpts htime hc hy hf)
  case sample =>
    intro s n b x f c hc hx hf hkind hcut
    exact State.on_of_eq ((imuSample_of_due hc hx hf hkind).trans (if_neg (Bool.eq_false_iff.1 hcut)))
  case lateSample =>
    intro s n b x f c hc hx hf hkind hcut
    exact State.on_of_eq ((imuSample_of_due hc hx hf hkind).trans (if_pos hcut))

/-! ### Cycles of L1 and L2 (R226 to R228) -/

section Cycles
variable {c d : Chip} {a : Contrib} {ps : List (Contrib × Pose)} {q : Contrib × Pose}

section Grids
variable {i : Nat} {g : Grid} (hg : AMap.get? c.cfl.grids i = some g)
include hg

theorem l1Cycle_of_anchor (ha : c.gridAnchor i g = some a)
    (hps : c.alignInputs (g.u 68 1) (cycleInputs a (c.gridWaiting i)) = (some ps, d)) (hq : ps.getLast? = some q) :
    l1Cycle i c = d.gridCycle i g a.validity (cycleInputs a (c.gridWaiting i)) ps q.2 := by
  simp only [l1Cycle, hg, ha, hps, hq]

theorem l1Cycle_of_no_anchor (ha : c.gridAnchor i g = none) : l1Cycle i c = c := by
  simp only [l1Cycle, hg, ha]

end Grids

section Trackers
variable {t : Tracker} (ht : c.cfl.tracker = some t)
include ht

theorem l2Cycle_of_anchor (ha : c.trackAnchor t = some a)
    (hps : c.alignInputs (t.u 49 1) (cycleInputs a c.trackWaiting) = (some ps, d)) (hq : ps.getLast? = some q) :
    l2Cycle c = d.trackCycle t a.validity (cycleInputs a c.trackWaiting) ps q.2 := by
  simp only [l2Cycle, ht, ha, hps, hq]

theorem l2Cycle_of_no_anchor (ha : c.trackAnchor t = none) : l2Cycle c = c := by
  simp only [l2Cycle, ht, ha]

end Trackers

end Cycles

/-! ### Late revisions (R234) -/

section Producers
variable (c : Chip)

theorem lateRevision_stream {n : Nat} (hn : n < 64) : lateRevision (0x1000 + n) c = c.reviseStream n := by
  have hid : 0x1000 ≤ 0x1000 + n ∧ 0x1000 + n < 0x1040 := by omega
  rw [lateRevision, if_pos hid, Nat.add_sub_cancel_left]

theorem lateRevision_grid {i : Nat} (hi : i < 4) : lateRevision (0x1100 + i) c = c.reviseGrid i := by
  have hno : ¬ (0x1000 ≤ 0x1100 + i ∧ 0x1100 + i < 0x1040) := by omega
  have hid : 0x1100 ≤ 0x1100 + i ∧ 0x1100 + i < 0x1104 := by omega
  rw [lateRevision, if_neg hno, if_pos hid, Nat.add_sub_cancel_left]

theorem lateRevision_tracker : lateRevision 0x1200 c = c.reviseTracker := rfl

end Producers

section Revisions
variable {c d : Chip}

section Streams
variable {n v r : Nat} {x : FuseStream} {f : FuseFrame} (hx : c.stream? n = some x)
  (hf : x.frames.find? (fun f => f.cut && f.ended) = some f) (hlast : x.last = some (v, r))
include hx hf hlast

theorem Chip.reviseStream_of_older (hold : timeBefore f.validity v = true) :
    c.reviseStream n = (c.dropLateFrame n x f 1).doneRevising n f := by
  simp only [Chip.reviseStream, hx, hf, hlast, hold, if_true]

variable (hnew : timeBefore f.validity v = false)
include hnew

theorem Chip.reviseStream_of_limit (hr : 255 ≤ r) : c.reviseStream n = (c.dropLateFrame n x f 2).doneRevising n f := by
  simp only [Chip.reviseStream, hx, hf, hlast, hnew, hr, Bool.false_eq_true, if_false, if_true]

theorem Chip.reviseStream_republishes {fl q : Nat} (hr : r < 255) (hp : c.depthPlane n x f = (some (fl, q), d)) :
    c.reviseStream n = (d.republish n x f fl q (r + 1)).doneRevising n f := by
  simp only [Chip.reviseStream, hx, hf, hlast, hnew, Nat.not_le.2 hr, hp, Bool.false_eq_true, if_false]

end Streams

section Grids
variable {i : Nat} {g : Grid} {k : Contrib} (hg : AMap.get? c.cfl.grids i = some g) (hk : c.cfl.late.find? (c.feedsGrid i) = some k)
include hg hk

theorem Chip.reviseGrid_of_stopped {cause : Nat} (hs : g.cycle.stops k = some cause) :
    c.reviseGrid i = (c.lateTaken k).dropLevel k cause := by
  simp only [Chip.reviseGrid, hg, hk, hs]

theorem Chip.reviseGrid_again {e : Chip} {v : Nat} {p pv : Pose} (hs : g.cycle.stops k = none) (hv : g.cycle.v = some v)
    (hp : (c.lateTaken k).contribPose (g.u 68 1) k = (some p, d)) (hpv : d.alignAt (g.u 68 1) v true = (some pv, e)) :
    c.reviseGrid i = e.gridAgain i g k p pv v := by
  simp only [Chip.reviseGrid, hg, hk, hs, hv, hp, hpv]

end Grids

/-- R227, R234: with a pose for every input, the cycle of V is taken again. -/
theorem Chip.trackLate_of_aligned {old : Chip} {t : Tracker} {k : Contrib} {ins : List Contrib} {v : Nat} {ps : List (Contrib × Pose)}
    {q : Contrib × Pose} (hps : c.alignInputs (t.u 49 1) ins = (some ps, d)) (hq : ps.getLast? = some q) :
    c.trackLate old t k ins v = d.trackAgain t k ins ps q.2 v := by
  simp only [Chip.trackLate, hps, hq]

section Trackers
variable {t : Tracker} {k : Contrib} (ht : c.cfl.tracker = some t) (hk : c.cfl.late.find? (·.l2) = some k)
include ht hk

theorem Chip.reviseTracker_of_stopped {cause : Nat} (hs : t.cycle.stops k = some cause) :
    c.reviseTracker = (c.lateTaken k).dropLevel k cause := by
  simp only [Chip.reviseTracker, ht, hk, hs]

theorem Chip.reviseTracker_again {v : Nat} {a : Contrib} {ps : List (Contrib × Pose)} {q : Contrib × Pose}
    (hs : t.cycle.stops k = none) (hv : t.cycle.v = some v) (ha : t.cycle.inputs.getLast? = some a)
    (hps : (c.lateTaken k).alignInputs (t.u 49 1) (cycleInputs a (k :: t.cycle.inputs.dropLast)) = (some ps, d))
    (hq : ps.getLast? = some q) :
    c.reviseTracker = d.trackAgain t k (cycleInputs a (k :: t.cycle.inputs.dropLast)) ps q.2 v := by
  simp only [Chip.reviseTracker, ht, hk, hs, hv, ha, Chip.trackLate_of_aligned hps hq]

end Trackers

end Revisions

/-- Settles O27: a cycle by its anchor, a late revision by its producer and by what stops it. -/
theorem fusionLevelsCycleAndRevise : Obligations.FusionLevelsCycleAndRevise := by
  unfold Obligations.FusionLevelsCycleAndRevise
  refine ⟨?alignWait, ?l1, ?l1Idle, ?l2, ?l2Idle, ?frameAgain, ?frameOlder, ?frameLimit, ?gridStops, ?gridAgain, ?trackStops,
    ?trackAgain⟩
  case alignWait =>
    intro s i
    exact State.on_eq s (alignWaitExpiry i)
  case l1 =>
    intro s i g a ps q c hg ha hps hq
    exact State.on_of_eq (l1Cycle_of_anchor hg ha hps hq)
  case l1Idle =>
    intro s i g hg ha
    exact State.on_of_eq (l1Cycle_of_no_anchor hg ha)
  case l2 =>
    intro s t a ps q c ht ha hps hq
    exact State.on_of_eq (l2Cycle_of_anchor ht ha hps hq)
  case l2Idle =>
    intro s t ht ha
    exact State.on_of_eq (l2Cycle_of_no_anchor ht ha)
  case frameAgain =>
    intro s n x f v r fl q c hn hx hf hlast hnew hr hp
    exact State.on_of_eq ((lateRevision_stream s.chip hn).trans (Chip.reviseStream_republishes hx hf hlast hnew hr hp))
  case frameOlder =>
    intro s n x f v r hn hx hf hlast hold
    exact State.on_of_eq ((lateRevision_stream s.chip hn).trans (Chip.reviseStream_of_older hx hf hlast hold))
  case frameLimit =>
    intro s n x f v r hn hx hf hlast hnew hr
    exact State.on_of_eq ((lateRevision_stream s.chip hn).trans (Chip.reviseStream_of_limit hx hf hlast hnew hr))
  case gridStops =>
    intro s i g k cause hi hg hk hs
    exact State.on_of_eq ((lateRevision_grid s.chip hi).trans (Chip.reviseGrid_of_stopped hg hk hs))
  case gridAgain =>
    intro s i g k v p pv c1 c2 hi hg hk hs hv hp hpv
    exact State.on_of_eq ((lateRevision_grid s.chip hi).trans (Chip.reviseGrid_again hg hk hs hv hp hpv))
  case trackStops =>
    intro s t k cause ht hk hs
    exact State.on_of_eq ((lateRevision_tracker s.chip).trans (Chip.reviseTracker_of_stopped ht hk hs))
  case trackAgain =>
    intro s t k a v ps q c ht hk hs hv ha hps hq
    exact State.on_of_eq ((lateRevision_tracker s.chip).trans (Chip.reviseTracker_again ht hk hs hv ha hps hq))

end Sys2Proof.Machine

/-!
PROOFS. Cabin acoustics (R240 to R260): who writes the engine's registers, what a load answers and when it takes effect, what an
engine does at a frame edge, who hears a 1722 frame, how audio rings and the status record move, and the two obligations over them.
-/

namespace Sys2Proof.Machine

/-! ### Registers of the engine (R240, R247, R252) -/

section Registers
variable {c : Chip} {tag : Nat} {b : Bool}

/-- R240, R248: EN is taken from the tags of the engine, and setting a clear EN ends a divergence. -/
theorem aleEnable_of_own (h : c.aleTag tag = true) :
    aleEnable tag b c =
      (if b = true ∧ c.flag ALE_CTRL ALE_CTRL.EN = false then c.aleThaw else c).setFld ALE_CTRL ALE_CTRL.EN (b2n b) := by
  simp only [aleEnable, h, Bool.not_true, Bool.false_eq_true, if_false, Bool.and_eq_true, Bool.not_eq_true']

theorem aleEnable_of_foreign (h : c.aleTag tag = false) : aleEnable tag b c = c := if_pos (congrArg not h)

theorem aleAdapt_of_own (h : c.aleTag tag = true) : aleAdapt tag b c = c.setFld ALE_CTRL ALE_CTRL.ADAPT (b2n b) := if_pos h

theorem aleAdapt_of_foreign (h : c.aleTag tag = false) : aleAdapt tag b c = c := if_neg (Bool.eq_false_iff.1 h)

/-- R252: a port is configured while the engine is disabled. -/
theorem alePortCfgWrite_of_disabled {n v : Nat} (h : c.aleTag tag = true) (hn : n < 4) (hen : c.flag ALE_CTRL ALE_CTRL.EN = false) :
    alePortCfgWrite tag n v c = c.setReg (ALE_PORT_CFG n) (bitsOf v 7 3 * 8) := by
  simp only [alePortCfgWrite, h, Nat.not_le.2 hn, hen, Bool.not_true, Bool.false_eq_true, or_self, if_false]

theorem alePortCfgWrite_ignored {n v : Nat} (h : c.aleTag tag = false ∨ c.flag ALE_CTRL ALE_CTRL.EN = true) :
    alePortCfgWrite tag n v c = c :=
  if_pos (h.imp (congrArg not) Or.inr)

end Registers

/-! ### Loads (R250) -/

section Loads
variable {c d c1 : Chip} {tag v : Nat} {p : List Byte} (h : c.aleTag tag = true) (hstart : bitOf v 0 = true)
  (hd : c.setFld ALE_LOAD ALE_LOAD.ADDR (bitsOf v 47 6) = d)
include h hstart hd

theorem aleLoad_of_busy (hbusy : d.flag ALE_STATUS ALE_STATUS.LOAD_BUSY = true) : aleLoad tag v c = d.aleErr 1 := by
  simp only [aleLoad, h, hstart, hd, hbusy, Bool.not_true, Bool.false_eq_true, if_false, if_true]

section Idle
variable (hidle : d.flag ALE_STATUS ALE_STATUS.LOAD_BUSY = false)
include hidle

/-- R250: a block that cannot be read is an error of its own. -/
theorem aleLoad_of_failed {o : Served} (ho : o ≠ .ok)
    (hp : (d.aleErr 0).loadRange aleMaster (d.aleErr 0).aleSlice (bitsOf v 47 6 * 64) 256 = (o, p, c1)) :
    aleLoad tag v c = c1.aleErr (loadErr o) := by
  cases o with
  | ok => exact absurd rfl ho
  | denied | uncorrectable => simp only [aleLoad, h, hstart, hd, hidle, hp, Bool.not_true, Bool.false_eq_true, if_false]

section BlockRead
variable (hp : (d.aleErr 0).loadRange aleMaster (d.aleErr 0).aleSlice (bitsOf v 47 6 * 64) 256 = (.ok, p, c1))
include hp

theorem aleLoad_of_bad {e : Nat} (hcheck : c1.aleCheck p = some e) : aleLoad tag v c = c1.aleErr e := by
  simp only [aleLoad, h, hstart, hd, hidle, hp, hcheck, Bool.not_true, Bool.false_eq_true, if_false]

theorem aleLoad_accepts {c2 : Chip} {b : List Byte} (hcheck : c1.aleCheck p = none)
    (hwords : c1.loadRange aleMaster c1.aleSlice (bitsOf v 47 6 * 64 + 256) (apBytes p - 256) = (.ok, b, c2)) :
    aleLoad tag v c = c2.aleAccept (aleBank p b (frameOf c2.now)) := by
  simp only [aleLoad, h, hstart, hd, hidle, hp, hcheck, hwords, Bool.not_true, Bool.false_eq_true, if_false]

end BlockRead

end Idle

end Loads

/-- R250: an accepted load waits for the first frame edge after it. -/
theorem aleLoadTakeEffect_of_bank {c : Chip} {k : AleLoad} (hk : c.ale.bank = some k) :
    aleLoadTakeEffect c = if frameOf c.now = k.frame then c else c.aleTake k := by
  simp only [aleLoadTakeEffect, hk]

/-! ### The step at a frame edge (R242, R248, R260) -/

section Steps
variable {c d : Chip} {e o : List (Nat × W32)}

/-- R242: nothing happens outside Active (R241), or at an edge whose step has been. -/
theorem aleStep_of_not_due (h : c.power.mode ≠ PartMode.active ∨ c.stepDue = false) : aleStep e o c = c :=
  if_pos (h.imp_right (congrArg not))

section Due
variable (hmode : c.power.mode = PartMode.active) (hdue : c.stepDue = true) (hd : c.atFrame (frameOf c.now) = d)
include hmode hdue hd

/-- R260: an engine whose function is off stops in state 2, once. -/
theorem aleStep_of_off (hoff : d.aleOff = true) :
    aleStep e o c = if d.fld ALE_STATUS ALE_STATUS.STATE = 2 then d else d.aleStop 2 := by
  simp only [aleStep, hmode, hdue, hd, hoff, ne_eq, not_true_eq_false, Bool.not_true, Bool.false_eq_true, or_self, if_false, if_true]

variable (hon : d.aleOff = false)
include hon

theorem aleStep_of_disabled (hen : d.flag ALE_CTRL ALE_CTRL.EN = false) :
    aleStep e o c = if d.fld ALE_STATUS ALE_STATUS.STATE = 0 then d else d.aleStop 0 := by
  simp only [aleStep, hmode, hdue, hd, hon, hen, ne_eq, not_true_eq_false, Bool.not_true, Bool.not_false, Bool.false_eq_true, or_self,
    if_false, if_true]

theorem aleStep_of_enabled (hen : d.flag ALE_CTRL ALE_CTRL.EN = true) :
    aleStep e o c = (if d.fld ALE_STATUS ALE_STATUS.STATE = 1 then d else d.aleStart).aleRun (frameOf c.now) e o := by
  simp only [aleStep, hmode, hdue, hd, hon, hen, ne_eq, not_true_eq_false, Bool.not_true, Bool.false_eq_true, or_self, if_false]

end Due

/-- R248: the action of a divergence waits for the next edge, and gives way to a load. -/
theorem divergence_of_diverged {f : Nat} (h : c.ale.diverged = some f) :
    divergence c = if frameOf c.now = f ∨ c.ale.bank.isSome = true then c else c.aleFreeze := by
  simp only [divergence, h]

end Steps

/-! ### IEEE 1722 (R257) -/

section Listeners
variable {bits rate channels : Nat} (c : Chip) (stream time : Nat) (samples : List (List W32))

theorem avtpFrame_heard (hb : bits = 24 ∨ bits = 32) (hr : rate = 48000) (hpos : 0 < channels) (hle : channels ≤ 8) :
    avtpFrame stream bits rate channels time samples c =
      (c.listeners stream).foldl (fun c i => c.hear i channels time samples) c := by
  have hformat : ¬ ((bits ≠ 24 ∧ bits ≠ 32) ∨ rate ≠ 48000 ∨ channels = 0 ∨ 8 < channels) := by omega
  simp only [avtpFrame, Chip.avtpAt, if_neg hformat]

/-- R257: samples in another format are late at each listener. -/
theorem avtpFrame_late (hformat : (bits ≠ 24 ∧ bits ≠ 32) ∨ rate ≠ 48000 ∨ channels = 0 ∨ 8 < channels) :
    avtpFrame stream bits rate channels time samples c =
      (c.listeners stream).foldl (fun c _ => c.count ALE_LATE_1722 ALE_LATE_1722.COUNT (samples.length * channels)) c := by
  simp only [avtpFrame, Chip.avtpAt, if_pos hformat]

theorem avtpFrame_unheard (hno : c.listeners stream = []) : avtpFrame stream bits rate channels time samples c = c := by
  simp only [avtpFrame, hno, List.foldl_nil]

end Listeners

/-- Settles O28: the registers by the tag that writes them (log 81), a load by what its reads and its checks answer (log 29), a step
by what the engine is and should be, a divergence by the edge, a 1722 frame by its format. -/
theorem acousticLoopLoadsAndSteps : Obligations.AcousticLoopLoadsAndSteps := by
  unfold Obligations.AcousticLoopLoadsAndSteps
  refine ⟨?enable, ?enableForeign, ?adapt, ?adaptForeign, ?port, ?portIgnored, ?loadBusy, ?loadAccepted, ?loadBad, ?loadFailed,
    ?takes, ?waits, ?starts, ?runs, ?disabled, ?off, ?staysOff, ?notDue, ?freezes, ?noFreeze, ?heard, ?late, ?unheard⟩
  case enable =>
    intro s tag b h
    exact State.on_of_eq (aleEnable_of_own h)
  case enableForeign =>
    intro s tag b h
    exact State.on_of_eq (aleEnable_of_foreign h)
  case adapt =>
    intro s tag b h
    exact State.on_of_eq (aleAdapt_of_own h)
  case adaptForeign =>
    intro s tag b h
    exact State.on_of_eq (aleAdapt_of_foreign h)
  case port =>
    intro s tag n v h hn hen
    exact State.on_of_eq (alePortCfgWrite_of_disabled h hn hen)
  case portIgnored =>
    intro s tag n v h
    exact State.on_of_eq (alePortCfgWrite_ignored h)
  case loadBusy =>
    intro s tag v h hstart hbusy
    exact State.on_of_eq (aleLoad_of_busy h hstart rfl hbusy)
  case loadAccepted =>
    intro s tag v p b c1 c2 h hstart hidle hp hcheck hwords
    exact State.on_of_eq (aleLoad_accepts h hstart rfl hidle hp hcheck hwords)
  case loadBad =>
    intro s tag v p c1 e h hstart hidle hp hcheck
    exact State.on_of_eq (aleLoad_of_bad h hstart rfl hidle hp hcheck)
  case loadFailed =>
    intro s tag v o p c1 h hstart hidle ho hp
    exact State.on_of_eq (aleLoad_of_failed h hstart rfl hidle ho hp)
  case takes =>
    intro s k hk hlater
    exact State.on_of_eq ((aleLoadTakeEffect_of_bank hk).trans (if_neg hlater))
  case waits =>
    intro s k hk hsame
    exact State.on_of_eq ((aleLoadTakeEffect_of_bank hk).trans (if_pos hsame))
  case starts =>
    intro s e o c hmode hdue hc hon hen hst
    exact State.on_of_eq ((aleStep_of_enabled hmode hdue hc hon hen).trans (by rw [if_neg hst]))
  case runs =>
    intro s e o c hmode hdue hc hon hen hst
    exact State.on_of_eq ((aleStep_of_enabled hmode hdue hc hon hen).trans (by rw [if_pos hst]))
  case disabled =>
    intro s e o c hmode hdue hc hon hen hst
    exact State.on_of_eq ((aleStep_of_disabled hmode hdue hc hon hen).trans (if_neg hst))
  case off =>
    intro s e o c hmode hdue hc hoff hst
    exact State.on_of_eq ((aleStep_of_off hmode hdue hc hoff).trans (if_neg hst))
  case staysOff =>
    intro s e o c hmode hdue hc hoff hst
    exact State.on_of_eq ((aleStep_of_off hmode hdue hc hoff).trans (if_pos hst))
  case notDue =>
    intro s e o h
    exact State.on_of_eq (aleStep_of_not_due h)
  case freezes =>
    intro s f hf hlater hno
    have hgo : ¬ (frameOf s.chip.now = f ∨ s.chip.ale.bank.isSome = true) := not_or.2 ⟨hlater, by simp [hno]⟩
    exact State.on_of_eq ((divergence_of_diverged hf).trans (if_neg hgo))
  case noFreeze =>
    intro s f hf hstays
    exact State.on_of_eq ((divergence_of_diverged hf).trans (if_pos hstays))
  case heard =>
    intro s sid b r k t x hb hr hpos hle
    exact State.on_of_eq (avtpFrame_heard s.chip sid.toNat t x hb hr hpos hle)
  case late =>
    intro s sid b r k t x hformat
    exact State.on_of_eq (avtpFrame_late s.chip sid.toNat t x hformat)
  case unheard =>
    intro s sid b r k t x hno
    exact State.on_of_eq (avtpFrame_unheard s.chip sid.toNat t x hno)

/-! ### Audio rings (R253 to R255) -/

section RingWrites
variable {c d e : Chip} {tag n v : Nat} {b : List Byte} (h : c.aleTag tag = true) (hn : n < 8)
  (hd : c.setFld (ALE_RING_DESC n) ALE_RING_DESC.ADDR (bitsOf v 47 6) = d)
include h hn hd

theorem audioRingEnable_stops (hoff : bitOf v 0 = false) : audioRingEnable tag n v c = d.ringOff n := by
  simp only [audioRingEnable, h, Nat.not_le.2 hn, hd, hoff, Bool.not_true, Bool.not_false, Bool.false_eq_true, or_self, if_false, if_true]

section Start
variable (hstopped : c.flag (ALE_RING_DESC n) ALE_RING_DESC.EN = false) (hon : bitOf v 0 = true)
include hstopped hon

/-- R253: the ring starts on a descriptor that keeps its table. -/
theorem audioRingEnable_of_read (hb : d.loadRange aleMaster d.aleSlice (bitsOf v 47 6 * 64) 64 = (.ok, b, e)) :
    audioRingEnable tag n v c = if e.ringDescOk b = true then e.ringOn n b else e.aleErr 4 := by
  simp only [audioRingEnable, h, Nat.not_le.2 hn, hd, hstopped, hon, hb, Bool.not_true, Bool.false_eq_true, or_self, if_false]

theorem audioRingEnable_of_failed {o : Served} (ho : o ≠ .ok)
    (hb : d.loadRange aleMaster d.aleSlice (bitsOf v 47 6 * 64) 64 = (o, b, e)) :
    audioRingEnable tag n v c = e.aleErr (loadErr o) := by
  cases o with
  | ok => exact absurd rfl ho
  | denied | uncorrectable =>
    simp only [audioRingEnable, h, Nat.not_le.2 hn, hd, hstopped, hon, hb, Bool.not_true, Bool.false_eq_true, or_self, if_false]

end Start

end RingWrites

section Blocks
variable {c : Chip} {n : Nat} {r : AleRing} (hr : AMap.get? c.ale.rings n = some r)
include hr

/-- R254: a capture block is written once it is done. -/
theorem captureBlock_of_ring : captureBlock n c = if c.blockDone r = true then c.endBlock n r else c := by
  simp only [captureBlock, hr]

/-- R255: a block that the producer has written is fetched once none is held. -/
theorem playbackFetch_fetches {d : Chip} {b : List Byte} (hplay : arPlay r = true) (hnone : r.fetched = none)
    (hwritten : r.block + 1 ≤ syncCount (c.sync (arU r 12 2)))
    (hb : c.loadRange aleMaster c.aleSlice (arBuf r r.block) (arBlockBytes r) = (.ok, b, d)) :
    playbackFetch n c = d.updRing n (fun r => { r with fetched := some b }) := by
  simp only [playbackFetch, hr, hplay, hnone, Nat.not_lt.2 hwritten, hb, Bool.not_true, Option.isSome_none, Bool.false_eq_true,
    or_self, if_false]

theorem playbackBlockStart_of_due (hplay : arPlay r = true) (hdue : c.arFrame r r.block ≤ frameOf c.now) :
    playbackBlockStart n c = c.startBlock n r := by
  simp only [playbackBlockStart, hr, hplay, Nat.not_lt.2 hdue, Bool.not_true, Bool.false_eq_true, or_self, if_false]

end Blocks

/-! ### Status records (R256) -/

section Status
variable {c : Chip}

theorem statusRecord_of_early (h : c.ale.params.isEmpty = true ∨ c.ale.statSteps < apU c.ale.params 152 4) : statusRecord c = c :=
  if_pos h

theorem statusRecord_of_due (hp : c.ale.params.isEmpty = false) (hsteps : apU c.ale.params 152 4 ≤ c.ale.statSteps) :
    statusRecord c = c.putStatus :=
  if_neg (not_or.2 ⟨Bool.eq_false_iff.1 hp, Nat.not_lt.2 hsteps⟩)

end Status

/-- Settles O29: a write of a ring by its EN and by what the descriptor's read answers (log 29), a block by whether it is done or due,
a status record by the steps of its block. -/
theorem acousticRingsMove : Obligations.AcousticRingsMove := by
  unfold Obligations.AcousticRingsMove
  refine ⟨?stops, ?starts, ?badDesc, ?descFails, ?captured, ?capturing, ?fetches, ?plays, ?status, ?statusEarly⟩
  case stops =>
    intro s tag n v h hn hoff
    exact State.on_of_eq (audioRingEnable_stops h hn rfl hoff)
  case starts =>
    intro s tag n v b c h hn hstopped hon hb hok
    exact State.on_of_eq ((audioRingEnable_of_read h hn rfl hstopped hon hb).trans (if_pos hok))
  case badDesc =>
    intro s tag n v b c h hn hstopped hon hb hbad
    exact State.on_of_eq ((audioRingEnable_of_read h hn rfl hstopped hon hb).trans (if_neg (Bool.eq_false_iff.1 hbad)))
  case descFails =>
    intro s tag n v o b c h hn hstopped hon ho hb
    exact State.on_of_eq (audioRingEnable_of_failed h hn rfl hstopped hon ho hb)
  case captured =>
    intro s n r hr hdone
    exact State.on_of_eq ((captureBlock_of_ring hr).trans (if_pos hdone))
  case capturing =>
    intro s n r hr hopen
    exact State.on_of_eq ((captureBlock_of_ring hr).trans (if_neg (Bool.eq_false_iff.1 hopen)))
  case fetches =>
    intro s n r b c hr hplay hnone hwritten hb
    exact State.on_of_eq (playbackFetch_fetches hr hplay hnone hwritten hb)
  case plays =>
    intro s n r hr hplay hdue
    exact State.on_of_eq (playbackBlockStart_of_due hr hplay hdue)
  case status =>
    intro s hp hsteps
    exact State.on_of_eq (statusRecord_of_due hp hsteps)
  case statusEarly =>
    intro s h
    exact State.on_of_eq (statusRecord_of_early h)

end Sys2Proof.Machine

/-!
PROOFS. Fondant and the display pipes (R265 to R281): what the checks of a GFX_PASS answer, who runs its vertex stage, what its
screen tiles bring at a flush, at its end and at a hang, who takes the cores, what a write of a pipe's registers does, how its link
and its frames end, and the two obligations over them.
-/

namespace Sys2Proof.Machine

/-! ### GFX_PASS (R265) -/

section Accept
variable {c c1 : Chip} {q : Packet} {st : Nat} (h : c.startedAs q 0x400)
include h

theorem gfxPass_of_badFields (hf : (q.pass c.gfx.started).fieldsStatus = some st) : gfxPass q.id c = c.finish q.id st := by
  refine (Chip.onPacket_of_startedAs h).trans ?_
  simp only [hf]

section Fields
variable (hf : (q.pass c.gfx.started).fieldsStatus = none)
include hf

theorem gfxPass_of_badLists (hl : c.passLists (q.pass c.gfx.started) = (some st, c1)) : gfxPass q.id c = c1.finish q.id st := by
  refine (Chip.onPacket_of_startedAs h).trans ?_
  simp only [hf, hl]

theorem gfxPass_accepts (hl : c.passLists (q.pass c.gfx.started) = (none, c1)) :
    gfxPass q.id c = c1.handPass (q.pass c.gfx.started) := by
  refine (Chip.onPacket_of_startedAs h).trans ?_
  simp only [hf, hl]

end Fields

end Accept

/-! ### Phases of a pass (R266, R268, R269, R273) -/

section Phases
variable {c c1 : Chip} {p : Pass} (hp : c.pass? p.id = some p)
include hp

/-- R266: a pass runs its vertex stage when it is its turn. -/
theorem passGeometry_of_pass (prims : List (List Nat × Nat × List Nat)) :
    passGeometry p.id prims c =
      if c.passTurn p then c.afterBin (Pass.binAll { p with phase := .geometry, began := c.now } (sortByKey (·.1) prims)) else c := by
  simp only [passGeometry, hp]

/-- R269: a pass of a higher class that is ready to render takes the cores. -/
theorem passTakeover_takes {x : Pass} (hx : c.gfx.rendering.bind c.pass? = some x) (hmay : c.mayTake p x = true) :
    passTakeover p.id c = c.takeCores p x := by
  simp only [passTakeover, hp, hx, hmay, if_true]

section Flush
variable {fr : List FragWord} (hph : p.phase = .geometry) (hrest : p.rest.isEmpty = false) (hidle : c.gfx.rendering = none)
include hph hrest hidle

/-- R273: every screen tile of a paused pass is stored at a flush. -/
theorem partialFlush_of_stored (hr : c.renderTiles p true (fr.map p.fragOf) (List.range p.tileCount) = (0, c1)) :
    partialFlush p.id fr c = c1.flushed p := by
  simp only [partialFlush, hp, hph, hrest, hidle, hr, ne_eq, not_true_eq_false, Option.isSome_none, Bool.false_eq_true, or_self, if_false]

theorem partialFlush_of_tileFailed {e : Nat} (he : e ≠ 0)
    (hr : c.renderTiles p true (fr.map p.fragOf) (List.range p.tileCount) = (e, c1)) :
    partialFlush p.id fr c = c1.failSomewhere p e := by
  obtain ⟨n, rfl⟩ := Nat.exists_eq_succ_of_ne_zero he
  simp only [partialFlush, hp, hph, hrest, hidle, hr, ne_eq, not_true_eq_false, Option.isSome_none, Bool.false_eq_true, or_self, if_false]

end Flush

section Render
variable {fr : List FragWord} {tiles : List Nat} (hren : c.gfx.rendering = some p.id)
include hren

section Complete
variable {cause : Nat} (hcause : cause ∈ [0, 1, 2, 4, 5]) (hph : p.phase = .render)
include hcause hph

/-- R266, R268: with its screen tiles stored, the rendering pass ends as its command's cause says. -/
theorem passComplete_of_stored (list off : Nat)
    (hr : c.renderTiles p false (fr.map p.fragOf)
      (if cause = 0 then List.range p.tileCount else tiles.filter (fun t => decide (t < p.tileCount))) = (0, c1)) :
    passComplete p.id cause list off tiles fr c =
      if cause = 0 then (c1.count GFX_PASSES GFX_PASSES.COUNT 1).endPass p stDone (p.result c1.now) 0
      else c1.failPass p cause list off := by
  simp only [passComplete, hp, hcause, hph, hren, hr, not_true_eq_false, reduceCtorEq, ne_eq, or_self, if_false]

/-- R268: a tile that cannot be loaded, shaded or stored fails the pass with its own cause. -/
theorem passComplete_of_tileFailed (list off : Nat) {e : Nat} (he : e ≠ 0)
    (hr : c.renderTiles p false (fr.map p.fragOf)
      (if cause = 0 then List.range p.tileCount else tiles.filter (fun t => decide (t < p.tileCount))) = (e, c1)) :
    passComplete p.id cause list off tiles fr c = c1.failPass p e list off := by
  obtain ⟨n, rfl⟩ := Nat.exists_eq_succ_of_ne_zero he
  simp only [passComplete, hp, hcause, hph, hren, hr, not_true_eq_false, reduceCtorEq, ne_eq, or_self, if_false]

end Complete

theorem gfxHang_fails (list off : Nat) (hlimit : c.reg GFX_HANG_LIMIT ≠ 0)
    (hr : c.renderTiles p false (fr.map p.fragOf) (tiles.filter (fun t => decide (t < p.tileCount))) = (0, c1)) :
    gfxHang p.id list off tiles fr c = c1.failPass p 3 list off := by
  simp only [gfxHang, hp, hren, hlimit, hr, ne_eq, not_true_eq_false, or_self, if_false]

end Render

theorem gfxHang_of_noLimit {list off : Nat} {tiles : List Nat} {fr : List FragWord} (hlimit : c.reg GFX_HANG_LIMIT = 0) :
    gfxHang p.id list off tiles fr c = c := by
  simp only [gfxHang, hp, hlimit, or_true, if_true]

end Phases

/-- Settles O30: a started packet by what its checks answer, a ready pass by its turn, a paused and a rendering pass by what its
screen tiles answer (log 32) and by the cause that comes with the command (log 31). -/
theorem passesRunThroughFondant : Obligations.PassesRunThroughFondant := by
  unfold Obligations.PassesRunThroughFondant
  refine ⟨?accepted, ?badFields, ?badLists, ?turn, ?noTurn, ?flushed, ?flushFailed, ?done, ?failed, ?tileFailed, ?takeover, ?hang, ?noLimit⟩
  case accepted =>
    intro s q c1 h hf hl
    exact State.on_of_eq (gfxPass_accepts h hf hl)
  case badFields =>
    intro s q st h hf
    exact State.on_of_eq (gfxPass_of_badFields h hf)
  case badLists =>
    intro s q st c1 h hf hl
    exact State.on_of_eq (gfxPass_of_badLists h hf hl)
  case turn =>
    intro s p l hp hturn
    exact State.on_of_eq ((passGeometry_of_pass hp l).trans (if_pos hturn))
  case noTurn =>
    intro s p l hp hturn
    exact State.on_of_eq ((passGeometry_of_pass hp l).trans (if_neg (Bool.eq_false_iff.1 hturn)))
  case flushed =>
    intro s p fr c1 hp hph hrest hidle hr
    exact State.on_of_eq (partialFlush_of_stored hp hph hrest hidle hr)
  case flushFailed =>
    intro s p o fr c1 hp hph hrest hidle ho hr
    exact State.on_of_eq (partialFlush_of_tileFailed hp hph hrest hidle ho hr)
  case done =>
    intro s p l fr c1 hp hph hren hr
    exact State.on_of_eq ((passComplete_of_stored (tiles := l) hp hren (by decide) hph 0 0 hr).trans (if_pos rfl))
  case failed =>
    intro s p k a o l fr c1 hp hk hph hren hr
    have hcause : k ∈ [0, 1, 2, 4, 5] := by simpa using Or.inr hk
    have hk0 : k ≠ 0 := by omega
    exact State.on_of_eq ((passComplete_of_stored hp hren hcause hph a o (by rwa [if_neg hk0])).trans (if_neg hk0))
  case tileFailed =>
    intro s p k a o e l fr c1 hp hk hph hren he hr
    have hcause : k ∈ [0, 1, 2, 4, 5] := by simpa using hk
    exact State.on_of_eq (passComplete_of_tileFailed hp hren hcause hph a o he hr)
  case takeover =>
    intro s p x hp hx hmay
    exact State.on_of_eq (passTakeover_takes hp hx hmay)
  case hang =>
    intro s p a o l fr c1 hp hren hlimit hr
    exact State.on_of_eq (gfxHang_fails hp hren a o hlimit hr)
  case noLimit =>
    intro s p a o l fr hp hlimit
    exact State.on_of_eq (gfxHang_of_noLimit hp hlimit)

/-! ### Registers of a pipe (R276 to R278, R284) -/

section Foreign
variable {c : Chip} {tag n v : Nat} (h : c.dspTag tag = false)
include h

theorem dspPipeEnable_of_foreign : dspPipeEnable tag n v c = c := if_pos (.inl (congrArg not h))

theorem dspCommit_of_foreign : dspCommit tag n v c = c := if_pos (.inl (congrArg not h))

theorem displayLinkTraining_of_foreign (trained : Bool) (lanes rate : Nat) : displayLinkTraining tag n v trained lanes rate c = c :=
  if_pos (.inl (congrArg not h))

end Foreign

section PipeWrites
variable {c : Chip} {tag n v : Nat} (h : c.dspTag tag = true) (hn : n < 4)
include h hn

/-- A tag that may write the pipes' registers, at a pipe that exists. -/
theorem Chip.dspWrite_allowed : ¬ ((!c.dspTag tag) = true ∨ 4 ≤ n) := by
  simp only [h, Nat.not_le.2 hn, Bool.not_true, Bool.false_eq_true, or_self, not_false_eq_true]

/-- R276: bits 1:0 are taken, and EN starts a pipe that does not scan. -/
theorem dspPipeEnable_of_own :
    dspPipeEnable tag n v c =
      if bitOf v 0 && !((c.setReg (DSP_PIPE_CTRL n) (v % 4)).pipe n).scanning then (c.setReg (DSP_PIPE_CTRL n) (v % 4)).startPipe n
      else c.setReg (DSP_PIPE_CTRL n) (v % 4) :=
  if_neg (Chip.dspWrite_allowed h hn)

/-- R277: GO loads a stopped pipe at once, and waits for the vertical blank of a running one. -/
theorem dspCommit_of_go (h1 : bitOf v 1 = false) (h0 : bitOf v 0 = true) :
    dspCommit tag n v c =
      if c.flag (DSP_PIPE_CTRL n) DSP_PIPE_CTRL.EN then c.setFld (DSP_COMMIT n) DSP_COMMIT.GO 1 else c.loadPipe n true := by
  refine (if_neg (Chip.dspWrite_allowed h hn)).trans ?_
  simp only [h1, h0, Bool.not_true, Bool.false_eq_true, if_false]

theorem dspCommit_clears (h1 : bitOf v 1 = true) (h0 : bitOf v 0 = false) :
    dspCommit tag n v c = c.setFld (DSP_COMMIT n) DSP_COMMIT.REFUSED 0 := by
  refine (if_neg (Chip.dspWrite_allowed h hn)).trans ?_
  simp only [h1, h0, Bool.not_false, if_true]

/-- R278: DSP_OUT_CFG is written while the pipe is stopped; EN newly set trains the link. -/
theorem displayLinkTraining_of_stopped (hstopped : c.flag (DSP_PIPE_CTRL n) DSP_PIPE_CTRL.EN = false) (trained : Bool) (lanes rate : Nat) :
    displayLinkTraining tag n v trained lanes rate c =
      if bitOf v 0 && !c.flag (DSP_OUT_CFG n) DSP_OUT_CFG.EN && trained then (c.writeOut n v).linkTrained n lanes rate
      else c.writeOut n v := by
  simp only [displayLinkTraining, h, Nat.not_le.2 hn, hstopped, Bool.not_true, Bool.false_eq_true, or_self, if_false]

end PipeWrites

/-! ### A pipe's commit, link and frames (R277 to R281) -/

section Scan
variable {c c1 : Chip} {n : Nat}

theorem commitLoad_of_waiting (hn : n < 4) (hgo : c.flag (DSP_COMMIT n) DSP_COMMIT.GO = true) : commitLoad n c = c.loadPipe n false :=
  if_pos ⟨hn, hgo⟩

theorem commitLoad_of_none (hgo : c.flag (DSP_COMMIT n) DSP_COMMIT.GO = false) : commitLoad n c = c :=
  if_neg fun hboth => Bool.eq_false_iff.1 hgo hboth.2

variable (hn : n < 4)
include hn

theorem displayLinkLoss_of_enabled {hotplug : Bool} (hen : c.flag (DSP_OUT_CFG n) DSP_OUT_CFG.EN = true) :
    displayLinkLoss n hotplug c =
      (c.setFld (DSP_OUT_CFG n) DSP_OUT_CFG.TRAINED 0).event c.dspSlice 0x0304 n 0 (b2n hotplug) (c.linkWord n) := by
  simp only [displayLinkLoss, Nat.not_le.2 hn, hen, Bool.not_true, Bool.false_eq_true, or_self, if_false]

variable (hscan : (c.pipe n).scanning = true)
include hscan

theorem frameEndCrc_of_scanning {missed : List (Nat × Nat)} {crcs : List Nat} {under : Nat}
    (hf : c.frameLines n missed (List.range ((c.pipe n).vTiming % 2 ^ 16)) (List.replicate 16 0xFFFFFFFF) 0 = (crcs, under, c1)) :
    frameEndCrc n missed c = c1.endFrame n (c.pipe n) crcs under := by
  simp only [frameEndCrc, Nat.not_le.2 hn, hscan, hf, Bool.not_true, Bool.false_eq_true, or_self, if_false]

/-- R281: two frame periods without the end of a frame are a finding on every enabled region. -/
theorem pipeStall_of_overdue (hlate : (c.pipe n).lastEnd + 2 * (c.pipe n).period ≤ c.now) :
    pipeStall n c =
      (c.setPipe n { c.pipe n with lastEnd := c.now }).regionFinding n ((List.range 16).filter (bitOf (c.pipe n).crcEn)) := by
  simp only [pipeStall, Nat.not_le.2 hn, hscan, Nat.not_lt.2 hlate, Bool.not_true, Bool.false_eq_true, or_self, if_false]

end Scan

/-- Settles O31: a write by its tag (log 81), its bits and whether the pipe runs, a waiting commit by GO, a lost link by EN (log 32),
a frame by what its lines answer, a stall by the time since the last frame. -/
theorem displayPipesScan : Obligations.DisplayPipesScan := by
  unfold Obligations.DisplayPipesScan
  refine ⟨?starts, ?stops, ?foreign, ?commitStopped, ?commitRunning, ?clears, ?blank, ?noBlank, ?trains, ?untrained, ?lost, ?frame, ?stall⟩
  case starts =>
    intro s tag n v h hn h0 hscan
    have hgo : (bitOf v.toNat 0 && !((s.chip.setReg (DSP_PIPE_CTRL n) (v.toNat % 4)).pipe n).scanning) = true := by simp [h0, hscan]
    exact State.on_of_eq ((dspPipeEnable_of_own h hn).trans (if_pos hgo))
  case stops =>
    intro s tag n v h hn h0
    have hstay : ¬ (bitOf v.toNat 0 && !((s.chip.setReg (DSP_PIPE_CTRL n) (v.toNat % 4)).pipe n).scanning) = true := by simp [h0]
    exact State.on_of_eq ((dspPipeEnable_of_own h hn).trans (if_neg hstay))
  case foreign =>
    intro s tag n v h
    exact ⟨State.on_of_eq (dspPipeEnable_of_foreign h), State.on_of_eq (dspCommit_of_foreign h),
      fun t l r => State.on_of_eq (displayLinkTraining_of_foreign h t l r)⟩
  case commitStopped =>
    intro s tag n v h hn h1 h0 hstopped
    exact State.on_of_eq ((dspCommit_of_go h hn h1 h0).trans (if_neg (Bool.eq_false_iff.1 hstopped)))
  case commitRunning =>
    intro s tag n v h hn h1 h0 hruns
    exact State.on_of_eq ((dspCommit_of_go h hn h1 h0).trans (if_pos hruns))
  case clears =>
    intro s tag n v h hn h1 h0
    exact State.on_of_eq (dspCommit_clears h hn h1 h0)
  case blank =>
    intro s n hn hgo
    exact State.on_of_eq (commitLoad_of_waiting hn hgo)
  case noBlank =>
    intro s n hgo
    exact State.on_of_eq (commitLoad_of_none hgo)
  case trains =>
    intro s tag n v l r h hn hstopped h0 hoff
    have hnew : (bitOf v.toNat 0 && !s.chip.flag (DSP_OUT_CFG n) DSP_OUT_CFG.EN && true) = true := by simp [h0, hoff]
    exact State.on_of_eq ((displayLinkTraining_of_stopped h hn hstopped true l r).trans (if_pos hnew))
  case untrained =>
    intro s tag n v b l r h hn hstopped hnone
    have hno : ¬ (bitOf v.toNat 0 && !s.chip.flag (DSP_OUT_CFG n) DSP_OUT_CFG.EN && b) = true := by
      rcases hnone with h0 | hon | hb
      · simp [h0]
      · simp [hon]
      · simp [hb]
    exact State.on_of_eq ((displayLinkTraining_of_stopped h hn hstopped b l r).trans (if_neg hno))
  case lost =>
    intro s n b hn hen
    exact State.on_of_eq (displayLinkLoss_of_enabled hn hen)
  case frame =>
    intro s n u l k c1 hn hscan hf
    exact State.on_of_eq (frameEndCrc_of_scanning hn hscan hf)
  case stall =>
    intro s n hn hscan hlate
    exact State.on_of_eq (pipeStall_of_overdue hn hscan hlate)

end Sys2Proof.Machine

/-!
PROOFS. Diverse channels and the safe state (R288 to R314): what the checks of a JOB_RUN_DIVERSE answer, what Weir makes of the job
that has waited longest, how a deadline's window closes, when the message repeats, who changes the golden schedule, when a golden run
starts and what its end says of the group, and the two obligations over them.
-/

namespace Sys2Proof.Machine

/-! ### JOB_RUN_DIVERSE (R288, R289) -/

section JobRunDiverse
variable {c : Chip} {p : Packet} (h : c.startedAs p 0x211)
include h

theorem jobRunDiverse_of_bad (hbad : p.diverseBad = true) : jobRunDiverse p.id c = c.finish p.id stBadParam :=
  (Chip.onPacket_of_startedAs h).trans (if_pos hbad)

/-- R289: both channels pass, each lead queue has room, and the output suits them: the Safety job is queued. -/
theorem jobRunDiverse_queues {c1 c2 : Chip} {ka kb : Chan} {rel : Nat} (hgood : p.diverseBad = false)
    (ha : c.checkChan p.slice p.cls (p.u 32 2) (p.u 34 1) (p.u 48 8) (p.u 46 2) = (.ok ka, c1))
    (hrel : c1.releaseTime p (p.u 39 1) (p.u 44 2) (p.u 64 4) (p.u 72 8) = some rel)
    (hrooma : c1.queueDepth (ka.first / 16) < 256)
    (hb : c1.checkChan p.slice p.cls (p.u 36 2) (p.u 35 1) (p.u 56 8) (p.u 46 2) = (.ok kb, c2))
    (hroomb : c2.queueDepth (kb.first / 16) < 256) (hsuits : c2.diverseStatus p ka kb = none) :
    jobRunDiverse p.id c = c2.queueJob p (p.diverseJob ka kb rel c2.starts) := by
  refine (Chip.onPacket_of_startedAs h).trans ((if_neg (Bool.eq_false_iff.1 hgood)).trans ?_)
  simp only [ha, hrel, if_neg (Nat.not_le.2 hrooma), hb, if_neg (Nat.not_le.2 hroomb), hsuits]

end JobRunDiverse

/-! ### Weir (R293, R295) -/

theorem weirDecision_of_empty {c : Chip} (h : c.weir = []) : weirDecision c = c := by
  simp only [weirDecision, h]

section Weir
variable {c d c1 : Chip} {id o v n : Nat} {rest : List Nat} {j : Job} {ka kb : Chan} {l : List Chan} {x : Output} {w : Verdict}
  (hweir : c.weir = id :: rest) (hj : (c.weirNext rest).job? id = some j) (hkind : j.kind = .diverse o v n)
  (hchans : j.chans = ka :: kb :: l) (hx : (c.weirNext rest).output? o = some x)
  (hd : (c.weirNext rest).count SAF_WEIR_COMPARES SAF_WEIR_COMPARES.COUNT 1 = d)
include hweir hj hkind hchans hx hd

/-- R291: a tensor that cannot be read fails the channel it was to be read from. -/
theorem weirDecision_of_unread {a st : Nat}
    (hread : d.weirTensors j.slice ka kb (ka.sat || kb.sat) (x.tensors.zipIdx.map (fun p => (p.2, p.1))) {} = (.error (a, st), w, c1)) :
    weirDecision c = c1.channelFailed id a st 0 w := by
  simp only [weirDecision, hweir, hj, hkind, hchans, hx, hd, hread]

section TensorsRead
variable (hread : d.weirTensors j.slice ka kb (ka.sat || kb.sat) (x.tensors.zipIdx.map (fun p => (p.2, p.1))) {} = (.ok (), w, c1))
include hread

theorem weirDecision_agrees (hbad : w.bad = none) : weirDecision c = c1.weirAgrees j x w (satFlag ka kb x.tensors) := by
  simp only [weirDecision, hweir, hj, hkind, hchans, hx, hd, hread, hbad]

theorem weirDecision_disagrees {t : Nat} {i : Option Nat} (hbad : w.bad = some (t, i)) :
    weirDecision c = c1.weirDisagrees j o w (satFlag ka kb x.tensors) (disagreeDetail x.tensors t i) := by
  simp only [weirDecision, hweir, hj, hkind, hchans, hx, hd, hread, hbad]

end TensorsRead

end Weir

/-! ### Deadlines (R298, R299) -/

section Deadline
variable {c : Chip} {i : Nat} {o : Output} (ho : c.output? i = some o)
include ho

theorem deadlineMiss_of_closed (hwatch : c.watching o = true) (hpast : timeBefore o.deadline c.now = true) :
    deadlineMiss i c = if o.met = true then c.setOutput i { o with k := o.k + 1, met := false } else c.missed i o := by
  simp only [deadlineMiss, ho, hwatch, hpast, Bool.not_true, Bool.or_self, Bool.false_eq_true, if_false]

/-- R298: a suspended watch judges nothing, and a window that is still open is not judged yet. -/
theorem deadlineMiss_unchanged (h : c.watching o = false ∨ timeBefore o.deadline c.now = false) : deadlineMiss i c = c := by
  have hquiet : (!c.watching o || !timeBefore o.deadline c.now) = true := by
    simpa only [Bool.or_eq_true, Bool.not_eq_true'] using h
  simp only [deadlineMiss, ho, hquiet, if_true]

end Deadline

/-! ### The repeated message (R303) -/

theorem safeMessageRepeat_of_due {c : Chip} {f : Nat} {m : MessageCfg} (hf : (List.range 4).find? c.inSafe = some f)
    (hm : c.safe.message = some m) (hdue : c.safe.nextRepeat ≤ c.now) : safeMessageRepeat c = c.repeatMessage f m := by
  simp only [safeMessageRepeat, hf, hm, if_neg (Nat.not_lt.2 hdue)]

theorem safeMessageRepeat_of_none {c : Chip} (h : (List.range 4).find? c.inSafe = none ∨ c.safe.message = none) :
    safeMessageRepeat c = c := by
  rcases h with hsafe | hmessage
  · simp only [safeMessageRepeat, hsafe]
  · cases hf : (List.range 4).find? c.inSafe with
    | none => simp only [safeMessageRepeat, hf]
    | some f => simp only [safeMessageRepeat, hf, hmessage]

/-- Settles O33: a JOB_RUN_DIVERSE by its checks, Weir by what the tensors show, a deadline by its watch and its window, the message
by its time. That channel A is checked before B, that the message is the lowest group's in safe state, and that a miss takes the time of
the command that reports it is log 93. -/
theorem safetyJobsAreJudged : Obligations.SafetyJobsAreJudged := by
  unfold Obligations.SafetyJobsAreJudged
  refine ⟨?queued, ?illegal, ?agree, ?disagree, ?unread, ?noJob, ?met, ?missed, ?unjudged, ?message, ?noMessage⟩
  case queued =>
    intro s p ka kb rel c1 c2 h hgood ha hrel hrooma hb hroomb hsuits
    exact State.on_of_eq (jobRunDiverse_queues h hgood ha hrel hrooma hb hroomb hsuits)
  case illegal =>
    intro s p h hbad
    exact State.on_of_eq (jobRunDiverse_of_bad h hbad)
  case agree =>
    intro s id rest j o v n ka kb l x c w c1 hweir hj hkind hchans hx hd hread hbad
    exact State.on_of_eq (weirDecision_agrees hweir hj hkind hchans hx hd hread hbad)
  case disagree =>
    intro s id rest j o v n ka kb l x c w t i c1 hweir hj hkind hchans hx hd hread hbad
    exact State.on_of_eq (weirDecision_disagrees hweir hj hkind hchans hx hd hread hbad)
  case unread =>
    intro s id rest j o v n ka kb l x c w a st c1 hweir hj hkind hchans hx hd hread
    exact State.on_of_eq (weirDecision_of_unread hweir hj hkind hchans hx hd hread)
  case noJob =>
    intro s h
    exact State.on_of_eq (weirDecision_of_empty h)
  case met =>
    intro s i o ho hwatch hpast hmet
    exact State.on_of_eq ((deadlineMiss_of_closed ho hwatch hpast).trans (if_pos hmet))
  case missed =>
    intro s i o ho hwatch hpast hmet
    exact State.on_of_eq ((deadlineMiss_of_closed ho hwatch hpast).trans (if_neg (Bool.eq_false_iff.1 hmet)))
  case unjudged =>
    intro s i o ho h
    exact State.on_of_eq (deadlineMiss_unchanged ho h)
  case message =>
    intro s f m hf hm hdue
    exact State.on_of_eq (safeMessageRepeat_of_due hf hm hdue)
  case noMessage =>
    intro s h
    exact State.on_of_eq (safeMessageRepeat_of_none h)

/-! ### GOLDEN_SCHEDULE (R309, R310) -/

/-- R309: the fields that every OP of a GOLDEN_SCHEDULE checks are legal. -/
abbrev goldenLegal (p : Packet) : Prop :=
  p.u 33 1 ≤ 2 ∧ p.u 32 1 < 8 ∧ p.u 34 2 < 2 ^ 12 ∧ zeroIn p.bytes 54 64 = true

section Schedule
variable {c : Chip} {p : Packet} (h : c.startedAs p 0x502) (hp : goldenLegal p)
include h hp

theorem Chip.onGolden_of_legal {op : Nat} {f : Packet → Chip → Chip} (hop : p.u 33 1 = op) : c.onGolden p.id op f = f p c := by
  obtain ⟨hkind, hentry, hgroups, hzero⟩ := hp
  refine (Chip.onPacket_of_startedAs h).trans ((if_neg ?_).trans (if_pos hop))
  simp only [Nat.not_lt.2 hkind, Nat.not_le.2 hentry, Nat.not_le.2 hgroups, hzero, Bool.not_true, Bool.false_eq_true, or_self,
    not_false_eq_true]

theorem goldenScheduleSet_sets {b : List Byte} {c1 : Chip} (hop : p.u 33 1 = 0) (hmay : c.goldenMay p = true)
    (hread : c.loadRange islandMaster 0 (p.u 40 8) 128 = (.ok, b, c1)) (hb : goldenOk b = true) :
    goldenScheduleSet p.id c = (c1.setGolden (p.u 32 1) (p.golden b)).finish p.id stDone := by
  refine (Chip.onGolden_of_legal h hp hop).trans ?_
  simp only [hmay, hread, hb, Bool.not_true, Bool.false_eq_true, if_false, if_true]

theorem goldenScheduleSet_of_bad (hop : p.u 33 1 = 0) (hmay : c.goldenMay p = false) :
    goldenScheduleSet p.id c = c.finish p.id stBadParam :=
  (Chip.onGolden_of_legal h hp hop).trans (if_pos (congrArg not hmay))

theorem goldenScheduleClear_clears (hop : p.u 33 1 = 1) :
    goldenScheduleClear p.id c = (c.clearGolden (p.u 32 1)).finish p.id stDone :=
  Chip.onGolden_of_legal h hp hop

theorem goldenScheduleRunNow_of_entry {e : Golden} (hop : p.u 33 1 = 2) (he : AMap.get? c.selfTest.golden (p.u 32 1) = some e) :
    goldenScheduleRunNow p.id c = (c.goldenNow e).finish p.id stDone := by
  refine (Chip.onGolden_of_legal h hp hop).trans ?_
  simp only [he]

theorem goldenScheduleRunNow_of_none (hop : p.u 33 1 = 2) (he : AMap.get? c.selfTest.golden (p.u 32 1) = none) :
    goldenScheduleRunNow p.id c = c.finish p.id stBadParam := by
  refine (Chip.onGolden_of_legal h hp hop).trans ?_
  simp only [he]

end Schedule

/-! ### A golden run falls due (R311, R312) -/

section GoldenDue
variable {c c1 : Chip} {g e : Nat} {x : Golden} {y : GoldenGroup} (hx : c.goldenOf g = some (e, x))
  (hy : AMap.get? c.selfTest.goldenGroups g = some y) (hdue : y.due ≤ c.now) (hfree : c.jobs.any (fun j => j.goldenOn g) = false)
include hx hy hdue hfree

/-- R312: a placement that fits its group starts there, unless something makes the run wait. -/
theorem goldenRunDue_of_fitting {k : Chan}
    (hk : c.checkChan 0 1 (bytesU x.desc 4 2) (bytesU x.desc 6 1) (bytesU x.desc 8 6) (bytesU x.desc 16 1) = (.ok k, c1))
    (hfits : k.first % 16 + k.tiles ≤ 16) :
    goldenRunDue g c =
      if c1.goldenWaits g (k.onto g) = true then c1.goldenDefer g x.defer y
      else ((c1.pressLow (k.onto g)).goldenNext g x y).goldenStart e x g (k.onto g) := by
  simp only [goldenRunDue, hx, hy, hk, hfree, Nat.not_lt.2 hdue, Nat.not_lt.2 hfits, Bool.false_eq_true, or_self, if_false]

theorem goldenRunDue_of_rejected {st : Nat}
    (hk : c.checkChan 0 1 (bytesU x.desc 4 2) (bytesU x.desc 6 1) (bytesU x.desc 8 6) (bytesU x.desc 16 1) = (.error st, c1)) :
    goldenRunDue g c = (c1.goldenNext g x y).goldenFail g st := by
  simp only [goldenRunDue, hx, hy, hk, hfree, Nat.not_lt.2 hdue, Bool.false_eq_true, or_self, if_false]

end GoldenDue

/-! ### The end of a golden run (R311, R314) -/

section GoldenEnd
variable {c : Chip} {g e st d : Nat} {x : Golden} {j : Job} {k : Chan} {l : List Chan} (hj : c.goldenJob? g = some j)
  (hx : c.goldenOf g = some (e, x)) (hk : j.chans = k :: l) (he : c.chanEnd k = some (st, d))
include hj hx hk he

theorem goldenRunEnd_of_failed (hst : isSuccess st = false) : goldenRunEnd g c = (c.removeJob j.id).goldenFail g st := by
  simp only [goldenRunEnd, hj, hx, hk, he, hst, Bool.not_false, if_true]

/-- R311: the hash of the output decides. -/
theorem goldenRunEnd_of_read {b : List Byte} {c1 : Chip} (hst : isSuccess st = true)
    (hread : (c.removeJob j.id).loadRange islandMaster 0 (x.outAt k) (bytesU x.desc 24 4) = (.ok, b, c1)) :
    goldenRunEnd g c = if (Config.sha384 b).toNat = bytesU x.desc 32 48 then c1.goldenPass g else c1.goldenFail g 0 := by
  simp only [goldenRunEnd, hj, hx, hk, he, hst, hread, Bool.not_true, Bool.false_eq_true, if_false]

end GoldenEnd

/-! ### DIAG_MS (R313) -/

theorem goldenOverdue_eq {c : Chip} {g e : Nat} {x : Golden} {y : GoldenGroup} (hx : c.goldenOf g = some (e, x))
    (hy : AMap.get? c.selfTest.goldenGroups g = some y) :
    goldenOverdue g c = if c.now < y.since + x.diag * 1000000 then c else c.goldenLate g y := by
  simp only [goldenOverdue, hx, hy]

/-- Settles O34: a GOLDEN_SCHEDULE by its OP, a run that is due by its placement and what makes it wait, its end by its job and its
hash, an overdue group by its time. The spread of the first frames, the completion of OP 2, the mark of a run that fails R182 and the
repeat of the overdue finding are those of log 33. -/
theorem goldenFramesRun : Obligations.GoldenFramesRun := by
  unfold Obligations.GoldenFramesRun
  refine ⟨?set, ?illegal, ?clear, ?runNow, ?noEntry, ?starts, ?waits, ?rejected, ?hashed, ?failed, ?overdue, ?inTime⟩
  case set =>
    intro s p b c1 h hp hop hmay hread hb
    exact State.on_of_eq (goldenScheduleSet_sets h hp hop hmay hread hb)
  case illegal =>
    intro s p h hp hop hmay
    exact State.on_of_eq (goldenScheduleSet_of_bad h hp hop hmay)
  case clear =>
    intro s p h hp hop
    exact State.on_of_eq (goldenScheduleClear_clears h hp hop)
  case runNow =>
    intro s p e h hp hop he
    exact State.on_of_eq (goldenScheduleRunNow_of_entry h hp hop he)
  case noEntry =>
    intro s p h hp hop he
    exact State.on_of_eq (goldenScheduleRunNow_of_none h hp hop he)
  case starts =>
    intro s g e x y k c1 hx hy hdue hfree hk hfits hgo
    exact State.on_of_eq ((goldenRunDue_of_fitting hx hy hdue hfree hk hfits).trans (if_neg (Bool.eq_false_iff.1 hgo)))
  case waits =>
    intro s g e x y k c1 hx hy hdue hfree hk hfits hwait
    exact State.on_of_eq ((goldenRunDue_of_fitting hx hy hdue hfree hk hfits).trans (if_pos hwait))
  case rejected =>
    intro s g e x y st c1 hx hy hdue hfree hk
    exact State.on_of_eq (goldenRunDue_of_rejected hx hy hdue hfree hk)
  case hashed =>
    intro s g e x j k l st d b c1 hj hx hk he hst hread
    exact State.on_of_eq (goldenRunEnd_of_read hj hx hk he hst hread)
  case failed =>
    intro s g e x j k l st d hj hx hk he hst
    exact State.on_of_eq (goldenRunEnd_of_failed hj hx hk he hst)
  case overdue =>
    intro s g e x y hx hy hlate
    exact State.on_of_eq ((goldenOverdue_eq hx hy).trans (if_neg (Nat.not_lt.2 hlate)))
  case inTime =>
    intro s g e x y hx hy hearly
    exact State.on_of_eq ((goldenOverdue_eq hx hy).trans (if_pos hearly))

end Sys2Proof.Machine

/-!
PROOFS. What every command leaves of the memory and of the security core's record: one table over the commands, and the
obligations about every step that follow from it.
-/

namespace Sys2Proof.Machine

open Chip (Holds)

/-- The part `d` keeps of `c` whatever is asked of its memory and of the mark of a lost safety record; or, for a command
that may store, the canonical form of the memory. -/
def Chip.MemoryKept (quiet : Bool) (c d : Chip) : Prop :=
  match quiet with
  | true => ∀ P Q, Holds P Q c → Holds P Q d
  | false => Holds memWf anyDue c → Holds memWf anyDue d

theorem Chip.MemoryKept.form {quiet : Bool} {c d : Chip} (h : Chip.MemoryKept quiet c d) (hc : Holds memWf anyDue c) :
    Holds memWf anyDue d := by
  cases quiet with
  | true => exact h _ _ hc
  | false => exact h hc

/-- What each command makes of the part and of the security core, and what that keeps. -/
theorem exec_kept (s : State) (i : Instr) :
    ∃ p : Part, exec i s = .next (s.withPart p) ∧ s.chip.MemoryKept (storesNothing i) p.chip ∧ s.sec.Keeps p.sec :=
  match i with
  | .meshRequest master serves cls addr world parity len write data => ⟨meshRequest master serves cls addr world parity len write data s.part, rfl, meshRequest_holds master serves cls addr world parity len write data s.part, meshRequest_keeps _ master serves cls addr world parity len write data s.part (.refl _)⟩
  | .prewake packet => ⟨⟨prewake packet s.chip, s.sec⟩, rfl, fun _ _ => prewake_holds packet s.chip, .refl _⟩
  | .sliceCreate packet => ⟨sliceCreate packet s.part, rfl, sliceCreate_holds packet s.part, sliceCreate_keeps _ packet s.part (.refl _)⟩
  | .sliceDestroy packet => ⟨⟨sliceDestroy packet s.chip, s.sec⟩, rfl, fun _ _ => sliceDestroy_holds packet s.chip, .refl _⟩
  | .slicetagWrite hart mode value => ⟨⟨slicetagWrite hart (csrMode mode) value s.chip, s.sec⟩, exec_slicetagWrite s hart mode value, fun _ _ => slicetagWrite_holds hart (csrMode mode) value s.chip, .refl _⟩
  | .predclrWrite hart mode value => ⟨⟨predclrWrite hart (csrMode mode) value s.chip, s.sec⟩, exec_predclrWrite s hart mode value, fun _ _ => predclrWrite_holds hart (csrMode mode) value s.chip, .refl _⟩
  | .accPasidMapWrite master tag slice value => ⟨⟨accPasidMapCommand master tag slice value s.chip, s.sec⟩, rfl, accPasidMapCommand_holds master tag slice value s.chip, .refl _⟩
  | .accTableWrite master tag target off value => ⟨⟨accTableCommand master tag target off value s.chip, s.sec⟩, rfl, accTableCommand_holds master tag target off value s.chip, .refl _⟩
  | .registerWrite master tag addr data => ⟨registerWrite master tag addr data s.part, rfl, registerWrite_holds master tag addr data s.part, registerWrite_keeps _ master tag addr data s.part (.refl _)⟩
  | .rcRegisterRead master tag addr len => ⟨rcRegisterRead master tag addr len s.part, rfl, rcRegisterRead_holds master tag addr len s.part, rcRegisterRead_keeps _ master tag addr len s.part (.refl _)⟩
  | .memInvalidate packet => ⟨⟨memInvalidate packet s.chip, s.sec⟩, rfl, fun _ _ => memInvalidate_holds packet s.chip, .refl _⟩
  | .memInvalidateClear packet => ⟨⟨memInvalidateClear packet s.chip, s.sec⟩, rfl, memInvalidateClear_holds packet s.chip, .refl _⟩
  | .dirtyLogDisable packet => ⟨⟨dirtyLogDisable packet s.chip, s.sec⟩, rfl, fun _ _ => dirtyLogDisable_holds packet s.chip, .refl _⟩
  | .dirtyLogEnable packet => ⟨⟨dirtyLogEnable packet s.chip, s.sec⟩, rfl, dirtyLogEnable_holds packet s.chip, .refl _⟩
  | .dirtyLogReadClear packet => ⟨⟨dirtyLogReadClear packet s.chip, s.sec⟩, rfl, dirtyLogReadClear_holds packet s.chip, .refl _⟩
  | .functionDisable packet => ⟨⟨functionDisable packet s.chip, s.sec⟩, rfl, fun _ _ => functionDisable_holds packet s.chip, .refl _⟩
  | .functionEnable packet => ⟨⟨functionEnable packet s.chip, s.sec⟩, rfl, fun _ _ => functionEnable_holds packet s.chip, .refl _⟩
  | .functionDisableTimeout packet => ⟨⟨functionDisableTimeout packet s.chip, s.sec⟩, rfl, functionDisableTimeout_holds packet s.chip, .refl _⟩
  | .functionDisableDrained packet => ⟨functionDisableDrained packet s.part, rfl, functionDisableDrained_holds packet s.part, functionDisableDrained_keeps _ packet s.part (.refl _)⟩
  | .doorbellLowerHalfWrite slice off v => ⟨⟨holdLowerHalf slice off v s.chip, s.sec⟩, rfl, fun _ _ => holdLowerHalf_holds slice off v s.chip, .refl _⟩
  | .doorbellBadAccess master slice off write => ⟨⟨doorbellMisuse 2 master slice off write s.chip, s.sec⟩, rfl, doorbellMisuse_holds 2 master slice off write s.chip, .refl _⟩
  | .ringEnable slice ring log2 => ⟨⟨ringEnable slice ring log2 s.chip, s.sec⟩, rfl, ringEnable_holds slice ring log2 s.chip, .refl _⟩
  | .ringDisable slice ring => ⟨⟨ringDisable slice ring s.chip, s.sec⟩, rfl, fun _ _ => ringDisable_holds slice ring s.chip, .refl _⟩
  | .ringDrained slice ring => ⟨⟨ringDrained slice ring s.chip, s.sec⟩, rfl, fun _ _ => ringDrained_holds slice ring s.chip, .refl _⟩
  | .eventRingEnable slice log2 => ⟨⟨eventRingEnable slice log2 s.chip, s.sec⟩, rfl, eventRingEnable_holds slice log2 s.chip, .refl _⟩
  | .sqTailWrite slice ring tail => ⟨⟨sqTailWrite slice ring tail.toNat s.chip, s.sec⟩, rfl, sqTailWrite_holds slice ring tail.toNat s.chip, .refl _⟩
  | .packetFetch slice ring => ⟨⟨packetFetch slice ring s.chip, s.sec⟩, rfl, packetFetch_holds slice ring s.chip, .refl _⟩
  | .packetStart => ⟨⟨packetStart s.chip, s.sec⟩, rfl, fun _ _ => packetStart_holds s.chip, .refl _⟩
  | .packetComplete id => ⟨⟨packetComplete id s.chip, s.sec⟩, rfl, packetComplete_holds id s.chip, .refl _⟩
  | .cqHeadWrite slice ring head => ⟨⟨cqHeadWrite slice ring head.toNat s.chip, s.sec⟩, rfl, cqHeadWrite_holds slice ring head.toNat s.chip, .refl _⟩
  | .eqHeadWrite slice head => ⟨⟨eqHeadWrite slice head.toNat s.chip, s.sec⟩, rfl, eqHeadWrite_holds slice head.toNat s.chip, .refl _⟩
  | .nopPacket id => ⟨⟨nopPacket id s.chip, s.sec⟩, rfl, fun _ _ => nopPacket_holds id s.chip, .refl _⟩
  | .fencePacket id => ⟨⟨fencePacket id s.chip, s.sec⟩, rfl, fun _ _ => fencePacket_holds id s.chip, .refl _⟩
  | .fenceRelease id => ⟨⟨fenceRelease id s.chip, s.sec⟩, rfl, fun _ _ => fenceRelease_holds id s.chip, .refl _⟩
  | .syncSignal id => ⟨⟨syncSignal id s.chip, s.sec⟩, rfl, fun _ _ => syncSignal_holds id s.chip, .refl _⟩
  | .syncWait id => ⟨⟨syncWait id s.chip, s.sec⟩, rfl, fun _ _ => syncWait_holds id s.chip, .refl _⟩
  | .syncWaitRelease id => ⟨⟨syncWaitRelease id s.chip, s.sec⟩, rfl, fun _ _ => syncWaitRelease_holds id s.chip, .refl _⟩
  | .memCopy packet => ⟨Part.copyMem packet s.part, rfl, Part.copyMem_holds packet s.part, Part.copyMem_keeps _ packet s.part (.refl _)⟩
  | .memFill packet => ⟨Part.fillMem packet s.part, rfl, Part.fillMem_holds packet s.part, Part.fillMem_keeps _ packet s.part (.refl _)⟩
  | .syncWindowWrite slice i v => ⟨⟨syncWindowWrite slice i v s.chip, s.sec⟩, rfl, fun _ _ => syncWindowWrite_holds slice i v s.chip, .refl _⟩
  | .syncWindowBadAccess master slice off write => ⟨⟨doorbellMisuse 1 master slice off write s.chip, s.sec⟩, rfl, doorbellMisuse_holds 1 master slice off write s.chip, .refl _⟩
  | .grpOppCapWrite tag group value => ⟨⟨grpOppCapWrite tag group value.toNat s.chip, s.sec⟩, rfl, fun _ _ => grpOppCapWrite_holds tag group value.toNat s.chip, .refl _⟩
  | .tileLfsrWrite master tag tile value => ⟨⟨tileLfsrCommand master tag tile value s.chip, s.sec⟩, rfl, tileLfsrCommand_holds master tag tile value s.chip, .refl _⟩
  | .tileCounterClear master tag tile value => ⟨⟨tileCounterCommand master tag tile value s.chip, s.sec⟩, rfl, tileCounterCommand_holds master tag tile value s.chip, .refl _⟩
  | .tileNop tile => ⟨⟨tileNop tile s.chip, s.sec⟩, rfl, tileNop_holds tile s.chip, .refl _⟩
  | .tileLoop tile => ⟨⟨tileLoop tile s.chip, s.sec⟩, rfl, tileLoop_holds tile s.chip, .refl _⟩
  | .endLoop tile => ⟨⟨endLoop tile s.chip, s.sec⟩, rfl, endLoop_holds tile s.chip, .refl _⟩
  | .tileBranch tile => ⟨⟨tileBranch tile s.chip, s.sec⟩, rfl, tileBranch_holds tile s.chip, .refl _⟩
  | .tileEnd tile => ⟨⟨tileEnd tile s.chip, s.sec⟩, rfl, tileEnd_holds tile s.chip, .refl _⟩
  | .tileBarrier tile => ⟨⟨tileBarrier tile s.chip, s.sec⟩, rfl, tileBarrier_holds tile s.chip, .refl _⟩
  | .mma tile => ⟨⟨mma tile s.chip, s.sec⟩, rfl, mma_holds tile s.chip, .refl _⟩
  | .accZero tile => ⟨⟨accZero tile s.chip, s.sec⟩, rfl, accZero_holds tile s.chip, .refl _⟩
  | .accRead tile => ⟨⟨accRead tile s.chip, s.sec⟩, rfl, accRead_holds tile s.chip, .refl _⟩
  | .accLoad tile => ⟨⟨accLoad tile s.chip, s.sec⟩, rfl, accLoad_holds tile s.chip, .refl _⟩
  | .vadd tile => ⟨⟨vadd tile s.chip, s.sec⟩, rfl, vadd_holds tile s.chip, .refl _⟩
  | .vmul tile => ⟨⟨vmul tile s.chip, s.sec⟩, rfl, vmul_holds tile s.chip, .refl _⟩
  | .vfma tile => ⟨⟨vfma tile s.chip, s.sec⟩, rfl, vfma_holds tile s.chip, .refl _⟩
  | .vmin tile => ⟨⟨vmin tile s.chip, s.sec⟩, rfl, vmin_holds tile s.chip, .refl _⟩
  | .vmax tile => ⟨⟨vmax tile s.chip, s.sec⟩, rfl, vmax_holds tile s.chip, .refl _⟩
  | .vcmp tile => ⟨⟨vcmp tile s.chip, s.sec⟩, rfl, vcmp_holds tile s.chip, .refl _⟩
  | .vsel tile => ⟨⟨vsel tile s.chip, s.sec⟩, rfl, vsel_holds tile s.chip, .refl _⟩
  | .vexp tile => ⟨⟨vexp tile s.chip, s.sec⟩, rfl, vexp_holds tile s.chip, .refl _⟩
  | .vrcp tile => ⟨⟨vrcp tile s.chip, s.sec⟩, rfl, vrcp_holds tile s.chip, .refl _⟩
  | .vrsq tile => ⟨⟨vrsq tile s.chip, s.sec⟩, rfl, vrsq_holds tile s.chip, .refl _⟩
  | .vtanh tile => ⟨⟨vtanh tile s.chip, s.sec⟩, rfl, vtanh_holds tile s.chip, .refl _⟩
  | .vreq tile => ⟨⟨vreq tile s.chip, s.sec⟩, rfl, vreq_holds tile s.chip, .refl _⟩
  | .vcvt tile => ⟨⟨vcvt tile s.chip, s.sec⟩, rfl, vcvt_holds tile s.chip, .refl _⟩
  | .vred tile => ⟨⟨vred tile s.chip, s.sec⟩, rfl, vred_holds tile s.chip, .refl _⟩
  | .moveTile tile => ⟨⟨moveTile tile s.chip, s.sec⟩, rfl, moveTile_holds tile s.chip, .refl _⟩
  | .sendTile tile => ⟨⟨sendTile tile s.chip, s.sec⟩, rfl, sendTile_holds tile s.chip, .refl _⟩
  | .tileSyncAdd tile => ⟨⟨tileSyncAdd tile s.chip, s.sec⟩, rfl, tileSyncAdd_holds tile s.chip, .refl _⟩
  | .tileSyncWait tile => ⟨⟨tileSyncWait tile s.chip, s.sec⟩, rfl, tileSyncWait_holds tile s.chip, .refl _⟩
  | .tileSyncWaitMet tile => ⟨⟨tileSyncWaitMet tile s.chip, s.sec⟩, rfl, tileSyncWaitMet_holds tile s.chip, .refl _⟩
  | .instructionComplete tile unit => ⟨⟨instructionComplete tile unit s.chip, s.sec⟩, rfl, instructionComplete_holds tile unit s.chip, .refl _⟩
  | .ibufFillDone tile block => ⟨⟨ibufFillDone tile block s.chip, s.sec⟩, rfl, ibufFillDone_holds tile block s.chip, .refl _⟩
  | .tileHang tile => ⟨⟨tileHang tile s.chip, s.sec⟩, rfl, fun _ _ => tileHang_holds tile s.chip, .refl _⟩
  | .rillStrided tile rill => ⟨⟨rillRow 0 tile rill s.chip, s.sec⟩, rfl, rillRow_holds 0 tile rill s.chip, .refl _⟩
  | .rillGather tile rill => ⟨⟨rillRow 1 tile rill s.chip, s.sec⟩, rfl, rillRow_holds 1 tile rill s.chip, .refl _⟩
  | .rillScatter tile rill => ⟨⟨rillRow 2 tile rill s.chip, s.sec⟩, rfl, rillRow_holds 2 tile rill s.chip, .refl _⟩
  | .rillCsr tile rill => ⟨⟨rillRow 3 tile rill s.chip, s.sec⟩, rfl, rillRow_holds 3 tile rill s.chip, .refl _⟩
  | .rillCsc tile rill => ⟨⟨rillRow 4 tile rill s.chip, s.sec⟩, rfl, rillRow_holds 4 tile rill s.chip, .refl _⟩
  | .rillHashProbe tile rill => ⟨⟨rillRow 5 tile rill s.chip, s.sec⟩, rfl, rillRow_holds 5 tile rill s.chip, .refl _⟩
  | .rillSetIntersect tile rill => ⟨⟨rillRow 6 tile rill s.chip, s.sec⟩, rfl, rillRow_holds 6 tile rill s.chip, .refl _⟩
  | .rillNeighbour tile rill => ⟨⟨rillRow 7 tile rill s.chip, s.sec⟩, rfl, rillRow_holds 7 tile rill s.chip, .refl _⟩
  | .rillBucketNn tile rill => ⟨⟨rillRow 8 tile rill s.chip, s.sec⟩, rfl, rillRow_holds 8 tile rill s.chip, .refl _⟩
  | .rillResponse tile rill which => ⟨⟨(rillResponse tile rill which s.chip).advance tile, s.sec⟩, rfl, fun h => Chip.advance_holds (rillResponse tile rill which s.chip) tile (rillResponse_holds tile rill which s.chip h), .refl _⟩
  | .tileQueueRelease tile channel => ⟨⟨tileQueueRelease tile channel s.chip, s.sec⟩, rfl, tileQueueRelease_holds tile channel s.chip, .refl _⟩
  | .rillDescriptorDone tile rill => ⟨⟨(rillDescriptorDone tile rill s.chip).advance tile, s.sec⟩, rfl, fun h => Chip.advance_holds (rillDescriptorDone tile rill s.chip) tile (rillDescriptorDone_holds tile rill s.chip h), .refl _⟩
  | .dceLfsrWrite master tag group engine value => ⟨⟨dceLfsrCommand master tag group engine value s.chip, s.sec⟩, rfl, dceLfsrCommand_holds master tag group engine value s.chip, .refl _⟩
  | .convDesc group => ⟨⟨engineRow group 0 0 s.chip, s.sec⟩, rfl, engineRow_holds group 0 0 s.chip, .refl _⟩
  | .maxpool group => ⟨⟨engineRow group 0 1 s.chip, s.sec⟩, rfl, engineRow_holds group 0 1 s.chip, .refl _⟩
  | .avgpool group => ⟨⟨engineRow group 0 2 s.chip, s.sec⟩, rfl, engineRow_holds group 0 2 s.chip, .refl _⟩
  | .nougatIn group => ⟨⟨engineRow group 1 3 s.chip, s.sec⟩, rfl, engineRow_holds group 1 3 s.chip, .refl _⟩
  | .nougatOut group => ⟨⟨engineRow group 1 4 s.chip, s.sec⟩, rfl, engineRow_holds group 1 4 s.chip, .refl _⟩
  | .cropResize group => ⟨⟨engineRow group 2 5 s.chip, s.sec⟩, rfl, engineRow_holds group 2 5 s.chip, .refl _⟩
  | .engineDescriptorDone group engine => ⟨⟨engineDescriptorDone group engine s.chip, s.sec⟩, rfl, engineDescriptorDone_holds group engine s.chip, .refl _⟩
  | .jobRun packet => ⟨⟨jobRun packet s.chip, s.sec⟩, rfl, jobRun_holds packet s.chip, .refl _⟩
  | .pendingRelease packet => ⟨⟨pendingRelease packet s.chip, s.sec⟩, rfl, fun _ _ => pendingRelease_holds packet s.chip, .refl _⟩
  | .jobDispatch job => ⟨⟨jobDispatch job s.chip, s.sec⟩, rfl, jobDispatch_holds job s.chip, .refl _⟩
  | .jobEnd job => ⟨⟨jobEnd job s.chip, s.sec⟩, rfl, jobEnd_holds job s.chip, .refl _⟩
  | .preemptSignal job => ⟨⟨preemptSignal job s.chip, s.sec⟩, rfl, preemptSignal_holds job s.chip, .refl _⟩
  | .saveComplete job => ⟨⟨saveComplete job s.chip, s.sec⟩, rfl, saveComplete_holds job s.chip, .refl _⟩
  | .restoreComplete job => ⟨⟨restoreComplete job s.chip, s.sec⟩, rfl, restoreComplete_holds job s.chip, .refl _⟩
  | .jobPreempt packet => ⟨⟨jobPreempt packet s.chip, s.sec⟩, rfl, jobPreempt_holds packet s.chip, .refl _⟩
  | .preemptHoldExpiry job => ⟨⟨preemptHoldExpiry job s.chip, s.sec⟩, rfl, fun _ _ => preemptHoldExpiry_holds job s.chip, .refl _⟩
  | .jobAbort packet => ⟨⟨jobAbort packet s.chip, s.sec⟩, rfl, jobAbort_holds packet s.chip, .refl _⟩
  | .modelRegister packet => ⟨⟨modelRegister packet s.chip, s.sec⟩, rfl, modelRegister_holds packet s.chip, .refl _⟩
  | .modelPin packet => ⟨⟨modelPin packet s.chip, s.sec⟩, rfl, modelPin_holds packet s.chip, .refl _⟩
  | .modelEvict packet => ⟨⟨modelEvict packet s.chip, s.sec⟩, rfl, modelEvict_holds packet s.chip, .refl _⟩
  | .modelVerify packet => ⟨⟨modelVerify packet s.chip, s.sec⟩, rfl, modelVerify_holds packet s.chip, .refl _⟩
  | .modelLoadDone model => ⟨⟨modelLoadDone model s.chip, s.sec⟩, rfl, modelLoadDone_holds model s.chip, .refl _⟩
  | .triggerEnable tag trigger value => ⟨⟨triggerEnable tag trigger value.toNat s.chip, s.sec⟩, rfl, fun _ _ => triggerEnable_holds tag trigger value.toNat s.chip, .refl _⟩
  | .triggerEdge trigger => ⟨⟨triggerEdge trigger s.chip, s.sec⟩, rfl, triggerEdge_holds trigger s.chip, .refl _⟩
  | .fuseStreamOpen packet => ⟨⟨fuseStreamOpen packet s.chip, s.sec⟩, rfl, fun _ _ => fuseStreamOpen_holds packet s.chip, .refl _⟩
  | .fuseStreamClose packet => ⟨⟨fuseStreamClose packet s.chip, s.sec⟩, rfl, fun _ _ => fuseStreamClose_holds packet s.chip, .refl _⟩
  | .fusePolicyContext packet => ⟨⟨fusePolicyContext packet s.chip, s.sec⟩, rfl, fun _ _ => fusePolicyContext_holds packet s.chip, .refl _⟩
  | .fusePolicyGrid packet => ⟨⟨fusePolicyGrid packet s.chip, s.sec⟩, rfl, fun _ _ => fusePolicyGrid_holds packet s.chip, .refl _⟩
  | .fusePolicyTracker packet => ⟨⟨fusePolicyTracker packet s.chip, s.sec⟩, rfl, fusePolicyTracker_holds packet s.chip, .refl _⟩
  | .fusePolicyStream packet => ⟨⟨fusePolicyStream packet s.chip, s.sec⟩, rfl, fun _ _ => fusePolicyStream_holds packet s.chip, .refl _⟩
  | .fusePolicyRelease packet => ⟨⟨fusePolicyRelease packet s.chip, s.sec⟩, rfl, fun _ _ => fusePolicyRelease_holds packet s.chip, .refl _⟩
  | .cameraRow stream row verdict data => ⟨⟨cameraRow stream row verdict data s.chip, s.sec⟩, rfl, cameraRow_holds stream row verdict data s.chip, .refl _⟩
  | .cameraFrameEnd stream => ⟨⟨cameraFrameEnd stream s.chip, s.sec⟩, rfl, cameraFrameEnd_holds stream s.chip, .refl _⟩
  | .lidarPacket stream data => ⟨⟨lidarPacket stream data s.chip, s.sec⟩, rfl, lidarPacket_holds stream data s.chip, .refl _⟩
  | .imuSample stream data => ⟨⟨imuSample stream data s.chip, s.sec⟩, rfl, imuSample_holds stream data s.chip, .refl _⟩
  | .injectContribution stream => ⟨⟨injectContribution stream s.chip, s.sec⟩, rfl, injectContribution_holds stream s.chip, .refl _⟩
  | .alignWaitExpiry context => ⟨⟨alignWaitExpiry context s.chip, s.sec⟩, rfl, alignWaitExpiry_holds context s.chip, .refl _⟩
  | .lateCutoff stream => ⟨⟨lateCutoff stream s.chip, s.sec⟩, rfl, lateCutoff_holds stream s.chip, .refl _⟩
  | .l1Cycle grid => ⟨⟨l1Cycle grid s.chip, s.sec⟩, rfl, l1Cycle_holds grid s.chip, .refl _⟩
  | .l2Cycle => ⟨⟨l2Cycle s.chip, s.sec⟩, rfl, l2Cycle_holds s.chip, .refl _⟩
  | .lateRevision producer => ⟨⟨lateRevision producer s.chip, s.sec⟩, rfl, lateRevision_holds producer s.chip, .refl _⟩
  | .aleStep even odd => ⟨⟨aleStep even odd s.chip, s.sec⟩, rfl, fun _ _ => aleStep_holds even odd s.chip, .refl _⟩
  | .divergence => ⟨⟨divergence s.chip, s.sec⟩, rfl, fun _ _ => divergence_holds s.chip, .refl _⟩
  | .aleLoad tag value => ⟨⟨aleLoad tag value.toNat s.chip, s.sec⟩, rfl, aleLoad_holds tag value.toNat s.chip, .refl _⟩
  | .aleLoadTakeEffect => ⟨⟨aleLoadTakeEffect s.chip, s.sec⟩, rfl, fun _ _ => aleLoadTakeEffect_holds s.chip, .refl _⟩
  | .aleEnable tag en => ⟨⟨aleEnable tag en s.chip, s.sec⟩, rfl, fun _ _ => aleEnable_holds tag en s.chip, .refl _⟩
  | .aleAdapt tag adapt => ⟨⟨aleAdapt tag adapt s.chip, s.sec⟩, rfl, fun _ _ => aleAdapt_holds tag adapt s.chip, .refl _⟩
  | .alePortCfgWrite tag port value => ⟨⟨alePortCfgWrite tag port value.toNat s.chip, s.sec⟩, rfl, fun _ _ => alePortCfgWrite_holds tag port value.toNat s.chip, .refl _⟩
  | .audioRingEnable tag ring value => ⟨⟨audioRingEnable tag ring value.toNat s.chip, s.sec⟩, rfl, audioRingEnable_holds tag ring value.toNat s.chip, .refl _⟩
  | .captureBlock ring => ⟨⟨captureBlock ring s.chip, s.sec⟩, rfl, captureBlock_holds ring s.chip, .refl _⟩
  | .playbackFetch ring => ⟨⟨playbackFetch ring s.chip, s.sec⟩, rfl, playbackFetch_holds ring s.chip, .refl _⟩
  | .playbackBlockStart ring => ⟨⟨playbackBlockStart ring s.chip, s.sec⟩, rfl, fun _ _ => playbackBlockStart_holds ring s.chip, .refl _⟩
  | .statusRecord => ⟨⟨statusRecord s.chip, s.sec⟩, rfl, statusRecord_holds s.chip, .refl _⟩
  | .avtpFrame stream bits rate channels time samples => ⟨⟨avtpFrame stream.toNat bits rate channels time samples s.chip, s.sec⟩, rfl, fun _ _ => avtpFrame_holds stream.toNat bits rate channels time samples s.chip, .refl _⟩
  | .gfxPass packet => ⟨⟨gfxPass packet s.chip, s.sec⟩, rfl, gfxPass_holds packet s.chip, .refl _⟩
  | .passGeometry packet prims => ⟨⟨passGeometry packet prims s.chip, s.sec⟩, rfl, passGeometry_holds packet prims s.chip, .refl _⟩
  | .partialFlush packet => ⟨⟨partialFlush packet.packet packet.frags s.chip, s.sec⟩, rfl, partialFlush_holds packet.packet packet.frags s.chip, .refl _⟩
  | .passComplete packet cause list off tiles => ⟨⟨passComplete packet.packet cause list off tiles packet.frags s.chip, s.sec⟩, rfl, passComplete_holds packet.packet cause list off tiles packet.frags s.chip, .refl _⟩
  | .passTakeover packet => ⟨⟨passTakeover packet s.chip, s.sec⟩, rfl, fun _ _ => passTakeover_holds packet s.chip, .refl _⟩
  | .gfxHang packet list off tiles => ⟨⟨gfxHang packet.packet list off tiles packet.frags s.chip, s.sec⟩, rfl, gfxHang_holds packet.packet list off tiles packet.frags s.chip, .refl _⟩
  | .dspPipeEnable tag pipe value => ⟨⟨dspPipeEnable tag pipe value.toNat s.chip, s.sec⟩, rfl, fun _ _ => dspPipeEnable_holds tag pipe value.toNat s.chip, .refl _⟩
  | .dspCommit tag pipe value => ⟨⟨dspCommit tag pipe value.toNat s.chip, s.sec⟩, rfl, fun _ _ => dspCommit_holds tag pipe value.toNat s.chip, .refl _⟩
  | .commitLoad pipe => ⟨⟨commitLoad pipe s.chip, s.sec⟩, rfl, fun _ _ => commitLoad_holds pipe s.chip, .refl _⟩
  | .displayLinkTraining tag pipe value trained lanes rate => ⟨⟨displayLinkTraining tag pipe value.toNat trained lanes rate s.chip, s.sec⟩, rfl, displayLinkTraining_holds tag pipe value.toNat trained lanes rate s.chip, .refl _⟩
  | .displayLinkLoss pipe hotplug => ⟨⟨displayLinkLoss pipe hotplug s.chip, s.sec⟩, rfl, displayLinkLoss_holds pipe hotplug s.chip, .refl _⟩
  | .frameEndCrc pipe missed => ⟨⟨frameEndCrc pipe missed s.chip, s.sec⟩, rfl, frameEndCrc_holds pipe missed s.chip, .refl _⟩
  | .pipeStall pipe => ⟨⟨pipeStall pipe s.chip, s.sec⟩, rfl, pipeStall_holds pipe s.chip, .refl _⟩
  | .outputSet packet => ⟨⟨outputSet packet s.chip, s.sec⟩, rfl, outputSet_holds packet s.chip, .refl _⟩
  | .outputDisarm packet => ⟨⟨outputDisarm packet s.chip, s.sec⟩, rfl, fun _ _ => outputDisarm_holds packet s.chip, .refl _⟩
  | .groupRelease packet => ⟨⟨groupRelease packet s.chip, s.sec⟩, rfl, groupRelease_holds packet s.chip, .refl _⟩
  | .groupForce packet => ⟨⟨groupForce packet s.chip, s.sec⟩, rfl, groupForce_holds packet s.chip, .refl _⟩
  | .messageSet packet => ⟨⟨messageSet packet s.chip, s.sec⟩, rfl, fun _ _ => messageSet_holds packet s.chip, .refl _⟩
  | .telltaleSet packet => ⟨⟨telltaleSet packet s.chip, s.sec⟩, rfl, fun _ _ => telltaleSet_holds packet s.chip, .refl _⟩
  | .jobRunDiverse packet => ⟨⟨jobRunDiverse packet s.chip, s.sec⟩, rfl, jobRunDiverse_holds packet s.chip, .refl _⟩
  | .weirDecision => ⟨⟨weirDecision s.chip, s.sec⟩, rfl, weirDecision_holds s.chip, .refl _⟩
  | .deadlineMiss output => ⟨⟨deadlineMiss output s.chip, s.sec⟩, rfl, deadlineMiss_holds output s.chip, .refl _⟩
  | .safeMessageRepeat => ⟨⟨safeMessageRepeat s.chip, s.sec⟩, rfl, fun _ _ => safeMessageRepeat_holds s.chip, .refl _⟩
  | .goldenScheduleSet packet => ⟨⟨goldenScheduleSet packet s.chip, s.sec⟩, rfl, goldenScheduleSet_holds packet s.chip, .refl _⟩
  | .goldenScheduleClear packet => ⟨⟨goldenScheduleClear packet s.chip, s.sec⟩, rfl, fun _ _ => goldenScheduleClear_holds packet s.chip, .refl _⟩
  | .goldenScheduleRunNow packet => ⟨⟨goldenScheduleRunNow packet s.chip, s.sec⟩, rfl, fun _ _ => goldenScheduleRunNow_holds packet s.chip, .refl _⟩
  | .goldenRunDue group => ⟨⟨goldenRunDue group s.chip, s.sec⟩, rfl, goldenRunDue_holds group s.chip, .refl _⟩
  | .goldenRunEnd group => ⟨⟨goldenRunEnd group s.chip, s.sec⟩, rfl, goldenRunEnd_holds group s.chip, .refl _⟩
  | .goldenOverdue group => ⟨⟨goldenOverdue group s.chip, s.sec⟩, rfl, goldenOverdue_holds group s.chip, .refl _⟩
  | .lockstepMismatch selftest => ⟨⟨lockstepMismatch selftest s.chip, s.sec⟩, rfl, lockstepMismatch_holds selftest s.chip, .refl _⟩
  | .selftestSliceStart tile => ⟨⟨selftestSliceStart tile s.chip, s.sec⟩, rfl, fun _ _ => selftestSliceStart_holds tile s.chip, .refl _⟩
  | .selftestStep tile pass => ⟨⟨selftestStep tile pass s.chip, s.sec⟩, rfl, fun _ _ => selftestStep_holds tile pass s.chip, .refl _⟩
  | .selftestAbort tile => ⟨⟨selftestAbort tile s.chip, s.sec⟩, rfl, selftestAbort_holds tile s.chip, .refl _⟩
  | .selftestSliceEnd tile => ⟨⟨selftestSliceEnd tile s.chip, s.sec⟩, rfl, selftestSliceEnd_holds tile s.chip, .refl _⟩
  | .checkerTest checker pass step us => ⟨⟨checkerTest checker pass step us s.chip, s.sec⟩, rfl, checkerTest_holds checker pass step us s.chip, .refl _⟩
  | .selftestOverdue index => ⟨⟨selftestOverdue index s.chip, s.sec⟩, rfl, selftestOverdue_holds index s.chip, .refl _⟩
  | .selftestTile packet => ⟨⟨selftestTile packet s.chip, s.sec⟩, rfl, fun _ _ => selftestTile_holds packet s.chip, .refl _⟩
  | .selftestGroup packet => ⟨⟨selftestGroup packet s.chip, s.sec⟩, rfl, fun _ _ => selftestGroup_holds packet s.chip, .refl _⟩
  | .selftestChecker packet => ⟨⟨selftestChecker packet s.chip, s.sec⟩, rfl, fun _ _ => selftestChecker_holds packet s.chip, .refl _⟩
  | .selftestSchedule packet => ⟨⟨selftestSchedule packet s.chip, s.sec⟩, rfl, fun _ _ => selftestSchedule_holds packet s.chip, .refl _⟩
  | .errorRecord severity cause source unit master slice world target addr detail =>
    ⟨⟨s.chip.error { severity := severity, cause := cause, source := source, unit := unit, master := master, slice := slice, world := world, target := target, addr := addr, detail := some detail }, s.sec⟩, rfl,
      Chip.error_holds s.chip _, .refl _⟩
  | .errRingEnable tag value => ⟨⟨errRingEnable tag value.toNat s.chip, s.sec⟩, rfl, errRingEnable_holds tag value.toNat s.chip, .refl _⟩
  | .errRingHeadWrite tag value => ⟨⟨errRingHeadWrite tag value.toNat s.chip, s.sec⟩, rfl, errRingHeadWrite_holds tag value.toNat s.chip, .refl _⟩
  | .gateFault hart mode word => ⟨gateFault hart mode word s.part, rfl, gateFault_holds hart mode word s.part, gateFault_keeps _ hart mode word s.part (.refl _)⟩
  | .pageOwnerSet hart mode rd block len => ⟨gateCall 0x0010 hart mode rd block len s.part, rfl, gateCall_holds 0x0010 hart mode rd block len s.part, gateCall_keeps _ 0x0010 hart mode rd block len s.part (.refl _)⟩
  | .pageOwnerSetApply => ⟨pageOwnerSetApply s.part, rfl, pageOwnerSetApply_holds s.part, pageOwnerSetApply_keeps _ s.part (.refl _)⟩
  | .pageOwnerQuery hart mode rd block len => ⟨gateCall 0x0011 hart mode rd block len s.part, rfl, gateCall_holds 0x0011 hart mode rd block len s.part, gateCall_keeps _ 0x0011 hart mode rd block len s.part (.refl _)⟩
  | .rollbackCommit hart mode rd block len => ⟨gateCall 0x0012 hart mode rd block len s.part, rfl, gateCall_holds 0x0012 hart mode rd block len s.part, gateCall_keeps _ 0x0012 hart mode rd block len s.part (.refl _)⟩
  | .gateAttest hart mode rd block len => ⟨gateCall 0x0020 hart mode rd block len s.part, rfl, gateCall_holds 0x0020 hart mode rd block len s.part, gateCall_keeps _ 0x0020 hart mode rd block len s.part (.refl _)⟩
  | .gateRandom hart mode rd block len => ⟨gateCall 0x0021 hart mode rd block len s.part, rfl, gateCall_holds 0x0021 hart mode rd block len s.part, gateCall_keeps _ 0x0021 hart mode rd block len s.part (.refl _)⟩
  | .debugChallenge hart mode rd block len => ⟨gateCall 0x0030 hart mode rd block len s.part, rfl, gateCall_holds 0x0030 hart mode rd block len s.part, gateCall_keeps _ 0x0030 hart mode rd block len s.part (.refl _)⟩
  | .debugOpen hart mode rd block len => ⟨gateCall 0x0031 hart mode rd block len s.part, rfl, gateCall_holds 0x0031 hart mode rd block len s.part, gateCall_keeps _ 0x0031 hart mode rd block len s.part (.refl _)⟩
  | .debugClose hart mode rd block len => ⟨gateCall 0x0032 hart mode rd block len s.part, rfl, gateCall_holds 0x0032 hart mode rd block len s.part, gateCall_keeps _ 0x0032 hart mode rd block len s.part (.refl _)⟩
  | .challengeLapse => ⟨challengeLapse s.part, rfl, fun _ _ => challengeLapse_holds s.part, challengeLapse_keeps _ s.part (.refl _)⟩
  | .netkeyLoad hart mode rd block len => ⟨gateCall 0x0040 hart mode rd block len s.part, rfl, gateCall_holds 0x0040 hart mode rd block len s.part, gateCall_keeps _ 0x0040 hart mode rd block len s.part (.refl _)⟩
  | .contentUnwrap hart mode rd block len => ⟨gateCall 0x0050 hart mode rd block len s.part, rfl, gateCall_holds 0x0050 hart mode rd block len s.part, gateCall_keeps _ 0x0050 hart mode rd block len s.part (.refl _)⟩
  | .vaultRead hart mode rd block len => ⟨gateCall 0x0051 hart mode rd block len s.part, rfl, gateCall_holds 0x0051 hart mode rd block len s.part, gateCall_keeps _ 0x0051 hart mode rd block len s.part (.refl _)⟩
  | .vaultWrite hart mode rd block len => ⟨gateCall 0x0052 hart mode rd block len s.part, rfl, gateCall_holds 0x0052 hart mode rd block len s.part, gateCall_keeps _ 0x0052 hart mode rd block len s.part (.refl _)⟩
  | .claimRelease block => ⟨claimRelease block s.part, rfl, claimRelease_holds block s.part, claimRelease_keeps _ block s.part (.refl _)⟩
  | .claimExpiry block => ⟨claimExpiry block s.part, rfl, claimExpiry_holds block s.part, claimExpiry_keeps _ block s.part (.refl _)⟩
  | .wdtVehicleExpiry => ⟨wdtVehicleExpiry s.part, rfl, wdtVehicleExpiry_holds s.part, wdtVehicleExpiry_keeps _ s.part (.refl _)⟩
  | .wdtCockpitExpiry => ⟨wdtCockpitExpiry s.part, rfl, wdtCockpitExpiry_holds s.part, wdtCockpitExpiry_keeps _ s.part (.refl _)⟩
  | .ownerEntryRepair page => ⟨⟨ownerEntryRepair page s.chip, s.sec⟩, rfl, ownerEntryRepair_holds page s.chip, .refl _⟩
  | .dramRead id => ⟨⟨(dramRead id s.chip).eccService, s.sec⟩, rfl, fun h => Chip.eccService_holds (dramRead id s.chip) (dramRead_holds id s.chip h), .refl _⟩
  | .dramWrite id => ⟨⟨(dramWrite id s.chip).eccService, s.sec⟩, rfl, fun h => Chip.eccService_holds (dramWrite id s.chip) (dramWrite_holds id s.chip h), .refl _⟩
  | .zeroFillDone block => ⟨⟨(zeroFillDone block s.chip).eccService, s.sec⟩, rfl, fun h => Chip.eccService_holds (zeroFillDone block s.chip) (zeroFillDone_holds block s.chip h), .refl _⟩
  | .millraceWindow channel => ⟨⟨millraceWindow channel s.chip, s.sec⟩, rfl, fun _ _ => millraceWindow_holds channel s.chip, .refl _⟩
  | .dramCalibration channel ok => ⟨⟨dramCalibration channel ok s.chip, s.sec⟩, rfl, dramCalibration_holds channel ok s.chip, .refl _⟩
  | .arbiterGrant arbiter asks ended => ⟨⟨arbiterGrant arbiter asks ended s.chip, s.sec⟩, rfl, arbiterGrant_holds arbiter asks ended s.chip, .refl _⟩
  | .leakTick inst => ⟨⟨leakTick inst s.chip, s.sec⟩, rfl, fun _ _ => leakTick_holds inst s.chip, .refl _⟩
  | .eccRegionWrite tag region limit value => ⟨⟨eccRegionWrite tag region limit value s.chip, s.sec⟩, rfl, eccRegionWrite_holds tag region limit value s.chip, .refl _⟩
  | .tileCodeMapWrite tag tile value => ⟨⟨tileCodeMapWrite tag tile value s.chip, s.sec⟩, rfl, tileCodeMapWrite_holds tag tile value s.chip, .refl _⟩
  | .blockOff packet => ⟨⟨blockOff packet s.chip, s.sec⟩, rfl, blockOff_holds packet s.chip, .refl _⟩
  | .blockOn packet => ⟨⟨blockOn packet s.chip, s.sec⟩, rfl, fun _ _ => blockOn_holds packet s.chip, .refl _⟩
  | .standby packet => ⟨⟨standby packet s.chip, s.sec⟩, rfl, standby_holds packet s.chip, .refl _⟩
  | .park packet => ⟨⟨park packet s.chip, s.sec⟩, rfl, park_holds packet s.chip, .refl _⟩
  | .restart packet => ⟨⟨restart packet s.chip, s.sec⟩, rfl, restart_holds packet s.chip, .refl _⟩
  | .idleUntil packet => ⟨⟨idleUntil packet s.chip, s.sec⟩, rfl, fun _ _ => idleUntil_holds packet s.chip, .refl _⟩
  | .stateEntryHalt => ⟨stateEntryHalt s.part, rfl, stateEntryHalt_holds s.part, stateEntryHalt_keeps _ s.part (.refl _)⟩
  | .warmReq tag => ⟨⟨warmReq tag s.chip, s.sec⟩, rfl, warmReq_holds tag s.chip, .refl _⟩
  | .profileSelect packet => ⟨profileSelect packet s.part, rfl, fun _ _ => profileSelect_holds packet s.part, profileSelect_keeps _ packet s.part (.refl _)⟩
  | .wakeEvent source => ⟨wakeEvent source s.part, rfl, fun _ _ => wakeEvent_holds source s.part, wakeEvent_keeps _ source s.part (.refl _)⟩
  | .aonPowerUp => ⟨aonPowerUp s.part, rfl, aonPowerUp_holds s.part, aonPowerUp_keeps _ s.part (.refl _)⟩
  | .pgoodRise => ⟨pgoodRise s.part, rfl, fun _ _ => pgoodRise_holds s.part, pgoodRise_keeps _ s.part (.refl _)⟩
  | .pgoodTimeout => ⟨pgoodTimeout s.part, rfl, pgoodTimeout_holds s.part, pgoodTimeout_keeps _ s.part (.refl _)⟩
  | .pgoodFall => ⟨pgoodFall s.part, rfl, pgoodFall_holds s.part, pgoodFall_keeps _ s.part (.refl _)⟩
  | .resetAssert => ⟨resetAssert s.part, rfl, resetAssert_holds s.part, resetAssert_keeps _ s.part (.refl _)⟩
  | .resetRelease => ⟨resetRelease s.part, rfl, fun _ _ => resetRelease_holds s.part, resetRelease_keeps _ s.part (.refl _)⟩
  | .coldStart failAt => ⟨coldStart failAt s.part, rfl, coldStart_holds failAt s.part, coldStart_keeps _ failAt s.part (.refl _)⟩
  | .warmStart failAt => ⟨warmStart failAt s.part, rfl, warmStart_holds failAt s.part, warmStart_keeps _ failAt s.part (.refl _)⟩
  | .startTimeout step => ⟨startTimeout step s.part, rfl, startTimeout_holds step s.part, startTimeout_keeps _ step s.part (.refl _)⟩
  | .recoveryBundle => ⟨recoveryBundle s.part, rfl, recoveryBundle_holds s.part, recoveryBundle_keeps _ s.part (.refl _)⟩
  | .recCtrlGo => ⟨⟨recCtrlGo s.chip, s.sec⟩, rfl, fun _ _ => recCtrlGo_holds s.chip, .refl _⟩
  | .groupWake group => ⟨⟨groupWake group s.chip, s.sec⟩, rfl, fun _ _ => groupWake_holds group s.chip, .refl _⟩
  | .groupRunning group => ⟨⟨groupRunning group s.chip, s.sec⟩, rfl, fun _ _ => groupRunning_holds group s.chip, .refl _⟩
  | .groupSleep group => ⟨⟨groupSleep group s.chip, s.sec⟩, rfl, groupSleep_holds group s.chip, .refl _⟩
  | .sluiceRequest kind n units cls slice timeoutUs => ⟨⟨sluiceRequest kind n units cls slice timeoutUs s.chip, s.sec⟩, rfl, fun _ _ => sluiceRequest_holds kind n units cls slice timeoutUs s.chip, .refl _⟩
  | .sluiceReturn kind n => ⟨⟨sluiceReturn kind n s.chip, s.sec⟩, rfl, fun _ _ => sluiceReturn_holds kind n s.chip, .refl _⟩
  | .sluiceTimeout => ⟨⟨sluiceTimeout s.chip, s.sec⟩, rfl, sluiceTimeout_holds s.chip, .refl _⟩
  | .sluiceTick => ⟨⟨sluiceTick s.chip, s.sec⟩, rfl, fun _ _ => sluiceTick_holds s.chip, .refl _⟩
  | .thermalSample temps => ⟨thermalSample temps s.part, rfl, thermalSample_holds temps s.part, thermalSample_keeps _ temps s.part (.refl _)⟩
  | .throttleLift => ⟨⟨throttleLift s.chip, s.sec⟩, rfl, throttleLift_holds s.chip, .refl _⟩
  | .shutdownRestart => ⟨shutdownRestart s.part, rfl, shutdownRestart_holds s.part, shutdownRestart_keeps _ s.part (.refl _)⟩
  | .thermalPiStep => ⟨⟨thermalPiStep s.chip, s.sec⟩, rfl, thermalPiStep_holds s.chip, .refl _⟩
  | .thermalEmergency zone => ⟨thermalEmergency zone s.part, rfl, thermalEmergency_holds zone s.part, thermalEmergency_keeps _ zone s.part (.refl _)⟩
  | .kernelWatchdogExpiry core => ⟨kernelWatchdogExpiry core s.part, rfl, kernelWatchdogExpiry_holds core s.part, kernelWatchdogExpiry_keeps _ core s.part (.refl _)⟩
  | .coreFault core sram info => ⟨coreFault core sram info s.part, rfl, coreFault_holds core sram info s.part, coreFault_keeps _ core sram info s.part (.refl _)⟩
  | .serviceRestart service => ⟨⟨serviceRestart service s.chip, s.sec⟩, rfl, serviceRestart_holds service s.chip, .refl _⟩
  | .coreRejoin core => ⟨coreRejoin core s.part, rfl, fun _ _ => coreRejoin_holds core s.part, coreRejoin_keeps _ core s.part (.refl _)⟩
  | .logConfig packet => ⟨⟨logConfig packet s.chip, s.sec⟩, rfl, fun _ _ => logConfig_holds packet s.chip, .refl _⟩
  | .logAppend core service level code arg0 arg1 => ⟨⟨logAppend core service level code arg0 arg1 s.chip, s.sec⟩, rfl, logAppend_holds core service level code arg0 arg1 s.chip, .refl _⟩
  | .traceRing packet => ⟨⟨traceRing packet s.chip, s.sec⟩, rfl, fun _ _ => traceRing_holds packet s.chip, .refl _⟩
  | .traceMask packet => ⟨⟨traceMask packet s.chip, s.sec⟩, rfl, fun _ _ => traceMask_holds packet s.chip, .refl _⟩
  | .traceOff packet => ⟨⟨traceOff packet s.chip, s.sec⟩, rfl, fun _ _ => traceOff_holds packet s.chip, .refl _⟩
  | .traceAppend core point arg => ⟨⟨traceAppend core point arg s.chip, s.sec⟩, rfl, traceAppend_holds core point arg s.chip, .refl _⟩
  | .mbxSubmitJob tag => ⟨mbxSubmitJob tag s.part, rfl, mbxSubmitJob_holds tag s.part, mbxSubmitJob_keeps _ tag s.part (.refl _)⟩
  | .mbxPreempt tag => ⟨mbxPreempt tag s.part, rfl, mbxPreempt_holds tag s.part, mbxPreempt_keeps _ tag s.part (.refl _)⟩
  | .mbxAbort tag => ⟨mbxAbort tag s.part, rfl, mbxAbort_holds tag s.part, mbxAbort_keeps _ tag s.part (.refl _)⟩
  | .mbxHint tag => ⟨mbxHint tag s.part, rfl, mbxHint_holds tag s.part, mbxHint_keeps _ tag s.part (.refl _)⟩
  | .mbxAttest tag => ⟨mbxAttest tag s.part, rfl, mbxAttest_holds tag s.part, mbxAttest_keeps _ tag s.part (.refl _)⟩
  | .mbxRandom tag => ⟨mbxRandom tag s.part, rfl, mbxRandom_holds tag s.part, mbxRandom_keeps _ tag s.part (.refl _)⟩
  | .mbxLoadModel tag => ⟨mbxLoadModel tag s.part, rfl, mbxLoadModel_holds tag s.part, mbxLoadModel_keeps _ tag s.part (.refl _)⟩
  | .mbxUnloadModel tag => ⟨mbxUnloadModel tag s.part, rfl, mbxUnloadModel_holds tag s.part, mbxUnloadModel_keeps _ tag s.part (.refl _)⟩
  | .mbxUnknownCommand tag mailbox => ⟨mbxUnknown tag mailbox s.part, rfl, fun _ _ => mbxUnknown_holds tag mailbox s.part, mbxUnknown_keeps _ tag mailbox s.part (.refl _)⟩
  | .hostRequest port bar pasid off len write data => ⟨hostRequest port bar pasid off len write data s.part, rfl, hostRequest_holds port bar pasid off len write data s.part, hostRequest_keeps _ port bar pasid off len write data s.part (.refl _)⟩
  | .msiWindowWrite master tag port vector => ⟨⟨msiWindowWrite master tag port vector s.chip, s.sec⟩, rfl, msiWindowWrite_holds master tag port vector s.chip, .refl _⟩
  | .twinLinkUp gbps => ⟨⟨twinLinkUp gbps s.chip, s.sec⟩, rfl, fun _ _ => twinLinkUp_holds gbps s.chip, .refl _⟩
  | .twinHello twinId role nonce => ⟨twinHello twinId role nonce s.part, rfl, fun _ _ => twinHello_holds twinId role nonce s.part, twinHello_keeps _ twinId role nonce s.part (.refl _)⟩
  | .twinReport report => ⟨⟨twinReport report s.chip, s.sec⟩, rfl, twinReport_holds report s.chip, .refl _⟩
  | .twinPaired => ⟨⟨twinPaired s.chip, s.sec⟩, rfl, twinPaired_holds s.chip, .refl _⟩
  | .pairFault cause => ⟨⟨pairFault cause s.chip, s.sec⟩, rfl, pairFault_holds cause s.chip, .refl _⟩
  | .pairRetry => ⟨⟨pairRetry s.chip, s.sec⟩, rfl, fun _ _ => pairRetry_holds s.chip, .refl _⟩
  | .heartbeatTick => ⟨⟨heartbeatTick s.chip, s.sec⟩, rfl, fun _ _ => heartbeatTick_holds s.chip, .refl _⟩
  | .heartbeatRx pin => ⟨⟨heartbeatRx pin s.chip, s.sec⟩, rfl, fun _ _ => heartbeatRx_holds pin s.chip, .refl _⟩
  | .heartbeatWindow => ⟨⟨heartbeatWindow s.chip, s.sec⟩, rfl, heartbeatWindow_holds s.chip, .refl _⟩
  | .checkpointTrigger channel => ⟨⟨checkpointTrigger channel s.chip, s.sec⟩, rfl, checkpointTrigger_holds channel s.chip, .refl _⟩
  | .ckptStart channel value dst data => ⟨⟨ckptStart channel value.toNat (dst.toNat % 2 ^ 48) data s.chip, s.sec⟩, rfl, ckptStart_holds channel value.toNat (dst.toNat % 2 ^ 48) data s.chip, .refl _⟩
  | .ckptAck channel status value => ⟨⟨ckptAck channel status value.toNat s.chip, s.sec⟩, rfl, ckptAck_holds channel status value.toNat s.chip, .refl _⟩
  | .detach tag => ⟨⟨detach tag s.chip, s.sec⟩, rfl, fun _ _ => detach_holds tag s.chip, .refl _⟩
  | .detachReq => ⟨⟨detachReq s.chip, s.sec⟩, rfl, detachReq_holds s.chip, .refl _⟩
  | .detachAck => ⟨⟨detachAck s.chip, s.sec⟩, rfl, fun _ _ => detachAck_holds s.chip, .refl _⟩
  | .carryEnd tag => ⟨⟨carryEnd tag s.chip, s.sec⟩, rfl, fun _ _ => carryEnd_holds tag s.chip, .refl _⟩
  | .recReq offset len => ⟨⟨recReq offset len s.chip, s.sec⟩, rfl, recReq_holds offset len s.chip, .refl _⟩
  | .recData offset data => ⟨⟨recData offset data s.chip, s.sec⟩, rfl, recData_holds offset data s.chip, .refl _⟩
  | .recEnd len => ⟨⟨recEnd len s.chip, s.sec⟩, rfl, fun _ _ => recEnd_holds len s.chip, .refl _⟩
  | .bridgeWrite master tag addr ns data => ⟨bridgeWrite master tag addr ns data s.part, rfl, bridgeWrite_holds master tag addr ns data s.part, bridgeWrite_keeps _ master tag addr ns data s.part (.refl _)⟩
  | .bridgeRead master tag addr len => ⟨bridgeRead master tag addr len s.part, rfl, bridgeRead_holds master tag addr len s.part, bridgeRead_keeps _ master tag addr len s.part (.refl _)⟩
  | .bridgeReadFetched => ⟨⟨bridgeReadFetched s.chip, s.sec⟩, rfl, fun _ _ => bridgeReadFetched_holds s.chip, .refl _⟩
  | .bridgeReadDiscard => ⟨⟨bridgeReadDiscard s.chip, s.sec⟩, rfl, fun _ _ => bridgeReadDiscard_holds s.chip, .refl _⟩
  | .announceTick => ⟨⟨announceTick s.chip, s.sec⟩, rfl, fun _ _ => announceTick_holds s.chip, .refl _⟩
  | .announcement frame => ⟨⟨announcement frame s.chip, s.sec⟩, rfl, announcement_holds frame s.chip, .refl _⟩
  | .refSilent => ⟨⟨refSilent s.chip, s.sec⟩, rfl, refSilent_holds s.chip, .refl _⟩
  | .domainStage packet => ⟨domainStage packet s.part, rfl, domainStage_holds packet s.part, domainStage_keeps _ packet s.part (.refl _)⟩
  | .domainSwitch packet => ⟨⟨domainSwitch packet s.chip, s.sec⟩, rfl, fun _ _ => domainSwitch_holds packet s.chip, .refl _⟩
  | .domainSwitchCancel packet => ⟨⟨domainSwitchCancel packet s.chip, s.sec⟩, rfl, domainSwitchCancel_holds packet s.chip, .refl _⟩
  | .domainSwitchTime => ⟨⟨domainSwitchTime s.chip, s.sec⟩, rfl, domainSwitchTime_holds s.chip, .refl _⟩
  | .ethFrameRx port data => ⟨ethFrameRx port data s.part, rfl, ethFrameRx_holds port data s.part, ethFrameRx_keeps _ port data s.part (.refl _)⟩
  | .ethFrameTx port => ⟨ethFrameTx port s.part, rfl, ethFrameTx_holds port s.part, ethFrameTx_keeps _ port s.part (.refl _)⟩
  | .gateInterval port => ⟨⟨gateInterval port s.chip, s.sec⟩, rfl, fun _ _ => gateInterval_holds port s.chip, .refl _⟩
  | .netDmaTail tag ring tail => ⟨⟨netDmaTail tag ring tail.toNat s.chip, s.sec⟩, rfl, netDmaTail_holds tag ring tail.toNat s.chip, .refl _⟩
  | .canFrameRx controller sof idw flags sdt vcid af data => ⟨⟨canFrameRx controller sof.toNat { idw := idw.toNat % 2 ^ 31, flags := flags % 16, sdt := sdt % 256, vcid := vcid % 256, af := af.toNat, data := data } s.chip, s.sec⟩, rfl, canFrameRx_holds controller sof.toNat _ s.chip, .refl _⟩
  | .canTxTail tag controller offset => ⟨⟨canTxTail tag controller offset.toNat s.chip, s.sec⟩, rfl, fun _ _ => canTxTail_holds tag controller offset.toNat s.chip, .refl _⟩
  | .canArbitration controller won => ⟨⟨canArbitration controller won s.chip, s.sec⟩, rfl, fun _ _ => canArbitration_holds controller won s.chip, .refl _⟩
  | .ptpSyncRx port rx seconds nanos corr => ⟨⟨ptpSyncRx port rx seconds nanos corr s.chip, s.sec⟩, rfl, ptpSyncRx_holds port rx seconds nanos corr s.chip, .refl _⟩
  | .ptpSyncTx port => ⟨⟨ptpSyncTx port s.chip, s.sec⟩, rfl, fun _ _ => ptpSyncTx_holds port s.chip, .refl _⟩
  | .pdelayReq port rx seq peer => ⟨⟨pdelayReq port rx seq peer s.chip, s.sec⟩, rfl, fun _ _ => pdelayReq_holds port rx seq peer s.chip, .refl _⟩
  | .gmLoss => ⟨⟨gmLoss s.chip, s.sec⟩, rfl, gmLoss_holds s.chip, .refl _⟩
  | .holdoverExpiry => ⟨⟨holdoverExpiry s.chip, s.sec⟩, rfl, holdoverExpiry_holds s.chip, .refl _⟩
  | .netTimeRead master tag => ⟨⟨netTimeRead master tag s.chip, s.sec⟩, rfl, netTimeRead_holds master tag s.chip, .refl _⟩
  | .aonPowerLoss => ⟨aonPowerLoss s.part, rfl, aonPowerLoss_holds s.part, aonPowerLoss_keeps _ s.part (.refl _)⟩
  | .linkDown port => ⟨⟨linkDown port s.chip, s.sec⟩, rfl, linkDown_holds port s.chip, .refl _⟩
  | .ethLinkDown port => ⟨⟨ethLinkDown port s.chip, s.sec⟩, rfl, ethLinkDown_holds port s.chip, .refl _⟩
  | .canBusOff controller tec rec => ⟨⟨canBusOff controller tec rec s.chip, s.sec⟩, rfl, canBusOff_holds controller tec rec s.chip, .refl _⟩
  | .gptpAnnounce port present p1 cls acc var p2 gm steps => ⟨⟨gptpAnnounce port present p1 cls acc var p2 gm.toNat steps s.chip, s.sec⟩, rfl, gptpAnnounce_holds port present p1 cls acc var p2 gm.toNat steps s.chip, .refl _⟩
  | .pdelayResp port t1 t2 t3 t4 => ⟨⟨pdelayResp port t1 t2 t3 t4 s.chip, s.sec⟩, rfl, fun _ _ => pdelayResp_holds port t1 t2 t3 t4 s.chip, .refl _⟩
  | .frerReset stream => ⟨⟨frerReset stream s.chip, s.sec⟩, rfl, fun _ _ => frerReset_holds stream s.chip, .refl _⟩
/-- What the security core holds is out of reach of the commands that act on the part alone. -/
theorem exec_leaves_sec {i : Instr} {s t : State} (h : exec i s = .next t) (hi : reachesSecure i = false) : t.sec = s.sec := by
  obtain ⟨f, hf⟩ := exec_on s i hi
  rw [State.on_next (hf.symm.trans h)]

theorem exec_leaves_pending {i : Instr} {s t : State} (h : exec i s = .next t) : t.pending = s.pending := by
  obtain ⟨p, hp, _⟩ := exec_kept s i
  cases hp.symm.trans h
  rfl

/-- Settles O57: every command is an operation of the part, with or without its security core, and neither holds the queue. -/
theorem commandsLeaveQueueAndSecureWorld : Obligations.CommandsLeaveQueueAndSecureWorld := by
  unfold Obligations.CommandsLeaveQueueAndSecureWorld
  exact ⟨fun _ _ _ h => exec_leaves_pending h, fun _ _ _ h hi => exec_leaves_sec h hi⟩

/-! ### Every command and the idle step (R354, R371) -/

theorem State.withPart_form {s : State} {p : Part} (h : Holds memWf anyDue p.chip) : (s.withPart p).chip.memOk = true :=
  (Chip.settle_holds p.chip h).mem

theorem Chip.holds_of_memOk {c : Chip} (h : c.memOk = true) : Holds memWf anyDue c := ⟨h, trivial⟩

theorem exec_keeps_form {i : Instr} {s t : State} (hs : s.chip.memOk = true) (h : exec i s = .next t) : t.chip.memOk = true := by
  obtain ⟨p, hp, hmem, _⟩ := exec_kept s i
  cases hp.symm.trans h
  exact State.withPart_form (hmem.form (Chip.holds_of_memOk hs))

theorem exec_keeps_sec {i : Instr} {s t : State} (h : exec i s = .next t) : s.sec.Keeps t.sec := by
  obtain ⟨p, hp, _, hsec⟩ := exec_kept s i
  cases hp.symm.trans h
  exact hsec

theorem idle_keeps_form {s : State} (hs : s.chip.memOk = true) : (idle s).chip.memOk = true := by
  obtain ⟨hmem, _⟩ := Chip.eccService_holds _ (Part.deliver_holds s.part (Chip.holds_of_memOk hs))
  exact State.withPart_form ⟨hmem, trivial⟩

theorem idle_keeps_sec (s : State) : s.sec.Keeps (idle s).sec := Part.deliver_keeps s.sec s.part (.refl s.sec)

theorem step_of_waiting {i : Instr} {l : List Instr} {s : State} (h : s.pending = i :: l) : step s = exec i { s with pending := l } := by
  simp only [step, h]

theorem step_of_idle {s : State} (h : s.pending = []) : step s = .next (idle s) := by
  simp only [step, h]

/-- A step keeps what every command and the idle step keep. -/
theorem step_keeps {R : State → State → Prop} {s t : State} (hidle : R s (idle s))
    (hexec : ∀ i l, exec i { s with pending := l } = .next t → R s t) (h : step s = .next t) : R s t := by
  cases hp : s.pending with
  | nil =>
    cases (step_of_idle hp).symm.trans h
    exact hidle
  | cons i l => exact hexec i l ((step_of_waiting hp).symm.trans h)

theorem step_keeps_sec {s t : State} (h : step s = .next t) : s.sec.Keeps t.sec :=
  step_keeps (R := fun s t => s.sec.Keeps t.sec) (idle_keeps_sec s) (fun _ l he => exec_keeps_sec (s := { s with pending := l }) he) h

/-- Settles O59: no command and no idle step leaves the canonical form. -/
theorem stepKeepsTheMemoryForm : Obligations.StepKeepsTheMemoryForm := by
  unfold Obligations.StepKeepsTheMemoryForm
  intro s t hs h
  exact step_keeps (R := fun _ t => t.chip.memOk = true) (idle_keeps_form hs) 
    (fun _ l he => exec_keeps_form (s := { s with pending := l }) hs he) h

/-- Settles O60: of the security core's record every step keeps both parts. -/
theorem stepKeepsTheSecureRecord : Obligations.StepKeepsTheSecureRecord := by
  unfold Obligations.StepKeepsTheSecureRecord
  exact ⟨fun _ _ hs h => (step_keeps_sec h).debug hs, fun _ _ n h => (step_keeps_sec h).rollback n⟩

/-! ### The commands that store nothing (R333, R371) -/

/-- Where nothing is owed, a command that stores nothing leaves the memory as it was, and nothing owed. -/
theorem exec_of_storesNothing {i : Instr} {s t : State} (hi : storesNothing i = true) (hs : s.chip.err.safetyDue = false)
    (h : exec i s = .next t) : Holds (· = s.chip.mem) (· = false) t.chip := by
  obtain ⟨p, hp, hmem, _⟩ := exec_kept s i
  cases hp.symm.trans h
  rw [hi] at hmem
  have hkept : Holds (· = s.chip.mem) (· = false) p.chip := hmem _ _ ⟨rfl, hs⟩
  rw [State.withPart, Chip.settle_quiet hkept.due]
  exact hkept

/-- Settles O58: the operations of the commands that store nothing keep any property of the memory, so also that it is the
memory from before. -/
theorem commandsThatStoreNothing : Obligations.CommandsThatStoreNothing := by
  unfold Obligations.CommandsThatStoreNothing
  intro i s t hi hs h
  obtain ⟨hmem, hdue⟩ := exec_of_storesNothing hi hs h
  exact ⟨fun a => congrArg (memGet · a) hmem, hdue⟩

/-! ### The step and the state after reset (R371, R488) -/

theorem Part.deliver_of_none {p : Part} (h : p.chip.posted = []) : p.deliver = p := by
  have hchip : { p.chip with posted := [] } = p.chip := by rw [← h]
  simp only [Part.deliver, h, List.foldl_nil, hchip]

theorem Chip.eccService_of_none {c : Chip} (h : c.eccHeld = []) : c.eccService = c := if_pos (by rw [h]; rfl)

/-- Log 2: with nothing on its way and nothing held, only the time goes on. -/
theorem idle_of_none {s : State} (hposted : s.chip.posted = []) (hheld : s.chip.eccHeld = []) :
    idle s = { s with chip := Chip.settle { s.chip with now := s.chip.now + 1 } } := by
  simp only [idle, Part.deliver_of_none (p := s.part) hposted, Chip.eccService_of_none (c := s.part.chip) hheld]
  rfl

/-- Settles O51: a step is the front command at the rest of the queue, or the idle step, which log 2 chooses. -/
theorem stepRunsTheFrontCommand : Obligations.StepRunsTheFrontCommand := by
  unfold Obligations.StepRunsTheFrontCommand
  refine ⟨fun i l s h => step_of_waiting h, fun s h => step_of_idle h, ?_⟩
  intro s h hposted hheld
  rw [step_of_idle h, idle_of_none hposted hheld]

/-- Settles O52: nothing is listed in the queue, in the register file or in the memory, whose defaults are then read; the
values are those of logs 1 and 4. -/
theorem resetIsWellKept : Obligations.ResetIsWellKept := by
  unfold Obligations.ResetIsWellKept
  exact fun _ _ => ⟨rfl, rfl, rfl, rfl, rfl, rfl, rfl⟩

/-! ### Readings of the memory (R361, R371, R374) -/

theorem memGet_memWrite (m : Memory) (a : Nat) (b : List Byte) (i : Nat) :
    memGet (memWrite m a b) i = if a ≤ i ∧ i < a + b.length then b.getD (i - a) 0 else memGet m i := by
  induction b generalizing m a with
  | nil => rw [if_neg (by simp)]; rfl
  | cons x b ih =>
    rw [memWrite, ih]
    rcases Nat.lt_trichotomy i a with hlt | rfl | hgt
    · rw [if_neg (by omega), if_neg (by omega), memGet_memPut_ne _ _ _ _ (by omega)]
    · rw [if_neg (by omega), if_pos (by simp), memGet_memPut_self, Nat.sub_self]; rfl
    · have hsub : i - a = i - (a + 1) + 1 := by omega
      rw [memGet_memPut_ne _ _ _ _ (by omega), hsub, List.getD_cons_succ]
      exact if_congr (by rw [List.length_cons]; omega) rfl rfl

theorem AMap.get?_filter {α : Type} (m : AMap α) (f : Nat → Bool) (k : Nat) :
    AMap.get? (m.filter (fun p => f p.1)) k = if f k = true then AMap.get? m k else none := by
  induction m with
  | nil => exact (ite_self none).symm
  | cons p m ih =>
    obtain ⟨k', v⟩ := p
    rw [List.filter_cons]
    by_cases hk : k' = k
    · subst hk
      cases hkept : f k' with
      | true => simp only [AMap.get?, if_true]
      | false => rw [if_neg Bool.false_ne_true, if_neg Bool.false_ne_true, ih, hkept, if_neg Bool.false_ne_true]
    · cases hkept : f k' with
      | true => simp only [AMap.get?, if_true, if_neg hk, ih]
      | false => rw [if_neg Bool.false_ne_true, ih, AMap.get?, if_neg hk]

theorem memGet_memClear (m : Memory) (a b i : Nat) : memGet (memClear m a b) i = if a ≤ i ∧ i < b then 0 else memGet m i := by
  have hget : AMap.get? (memClear m a b) i = _ := AMap.get?_filter m (fun k => k < a || b ≤ k) i
  have hkept : ((decide (i < a) || decide (b ≤ i)) = true) ↔ ¬ (a ≤ i ∧ i < b) := by
    rw [Bool.or_eq_true, decide_eq_true_eq, decide_eq_true_eq]; omega
  simp only [memGet, AMap.getD, hget, hkept]
  by_cases h : a ≤ i ∧ i < b
  · rw [if_pos h, if_neg (not_not.2 h)]; rfl
  · rw [if_neg h, if_pos h]

theorem sortedFrom_cons {lo a : Nat} {b : Byte} {m : Memory} :
    sortedFrom lo ((a, b) :: m) = true ↔ lo ≤ a ∧ b ≠ 0 ∧ sortedFrom (a + 1) m = true := by
  simp only [sortedFrom, Bool.and_eq_true, bne_iff_ne, decide_eq_true_eq, and_assoc]

theorem memGet_cons_self (m : Memory) (a : Nat) (b : Byte) : memGet ((a, b) :: m) a = b := by
  simp only [memGet, AMap.getD, AMap.get?, if_true, Option.getD_some]

theorem memGet_cons_ne {m : Memory} {a i : Nat} {b : Byte} (h : a ≠ i) : memGet ((a, b) :: m) i = memGet m i := by
  simp only [memGet, AMap.getD, AMap.get?, if_neg h]

theorem memGet_below {m : Memory} {lo i : Nat} (h : sortedFrom lo m = true) (hi : i < lo) : memGet m i = 0 := by
  induction m generalizing lo with
  | nil => rfl
  | cons p m ih =>
    obtain ⟨hlo, _, hrest⟩ := sortedFrom_cons.1 h
    rw [memGet_cons_ne (by omega)]
    exact ih hrest (by omega)

/-- The first byte that a memory lists reads as in no memory that lists only bytes above it. -/
theorem memGet_ne_of_first {m k : Memory} {lo a : Nat} {b : Byte} (hm : sortedFrom lo ((a, b) :: m) = true)
    (hk : sortedFrom (a + 1) k = true) : memGet ((a, b) :: m) a ≠ memGet k a := by
  obtain ⟨_, hb, _⟩ := sortedFrom_cons.1 hm
  rw [memGet_cons_self, memGet_below hk (Nat.lt_succ_self a)]
  exact hb

/-- Two canonical memories that read alike list the same first byte, and so do the rest of them. -/
theorem memory_ext {m k : Memory} {lo : Nat} (hm : sortedFrom lo m = true) (hk : sortedFrom lo k = true)
    (h : ∀ i, memGet m i = memGet k i) : m = k := by
  induction m generalizing lo k with
  | nil =>
    cases k with
    | nil => rfl
    | cons q k => exact absurd (h q.1).symm (memGet_ne_of_first hk rfl)
  | cons p m ih =>
    obtain ⟨a, b⟩ := p
    cases k with
    | nil => exact absurd (h a) (memGet_ne_of_first hm rfl)
    | cons q k =>
      obtain ⟨a', b'⟩ := q
      obtain ⟨_, hb, hmrest⟩ := sortedFrom_cons.1 hm
      obtain ⟨_, hb', hkrest⟩ := sortedFrom_cons.1 hk
      rcases Nat.lt_trichotomy a a' with hlt | rfl | hgt
      · exact absurd (h a) (memGet_ne_of_first hm (sortedFrom_cons.2 ⟨hlt, hb', hkrest⟩))
      · have hbyte : b = b' := by simpa only [memGet_cons_self] using h a
        have hrest : ∀ i, memGet m i = memGet k i := by
          intro i
          by_cases hi : a = i
          · rw [memGet_below hmrest (by omega), memGet_below hkrest (by omega)]
          · simpa only [memGet_cons_ne hi] using h i
        rw [hbyte, ih hmrest hkrest hrest]
      · exact absurd (h a').symm (memGet_ne_of_first hk (sortedFrom_cons.2 ⟨hgt, hb, hmrest⟩))

/-- Settles O55: a write and a store by the bytes they put, a clear by the addresses it filters, two canonical memories by
their first bytes. -/
theorem memoryAnswersItsWrites : Obligations.MemoryAnswersItsWrites := by
  unfold Obligations.MemoryAnswersItsWrites
  refine ⟨memGet_memWrite, ?store, memGet_memClear, fun m k hm hk h => memory_ext hm hk h⟩
  case store =>
    intro c a b i
    rw [Chip.store_mem, memGet_memWrite]

end Sys2Proof.Machine

/-!
PROOFS. The safety island (R318 to R336): the lockstep pair, rotating and explicit self-tests, what is overdue, and the
obligation over them.
-/

namespace Sys2Proof.Machine

/-! ### The lockstep pair (R318, R322) -/

section Lockstep
variable {c : Chip} (hpair : c.pairCompares = true)
include hpair

theorem lockstepMismatch_of_third (b : Bool) (h3 : 3 ≤ c.lockstepLost.reg SAF_LOCKSTEP_MISMATCHES) :
    lockstepMismatch b c = c.lockstepLost.holdIsland := by
  simp only [lockstepMismatch, hpair, h3, Bool.not_true, Bool.false_eq_true, if_false, if_true]

/-- R318: before the third mismatch the short self-test decides. -/
theorem lockstepMismatch_of_early (b : Bool) (h3 : c.lockstepLost.reg SAF_LOCKSTEP_MISMATCHES < 3) :
    lockstepMismatch b c = if b = true then c.lockstepLost.setFld SAF_ISLAND_STATUS SAF_ISLAND_STATUS.STATE 2
      else c.lockstepLost.holdIsland.errorOpen 3 8 0 := by
  simp only [lockstepMismatch, hpair, Nat.not_le.2 h3, Bool.not_true, Bool.false_eq_true, if_false]

end Lockstep

theorem lockstepMismatch_of_apart {c : Chip} (b : Bool) (hpair : c.pairCompares = false) : lockstepMismatch b c = c :=
  if_pos (congrArg not hpair)

/-! ### A slice of a tile (R324 to R326, R329, R400) -/

section SliceStart
variable {c d : Chip} {n : Nat} (hn : n < 192) (hheld : c.flag SAF_ISLAND_STATUS SAF_ISLAND_STATUS.HELD = false)
  (hd : c.testPeriod.pressTile n = d)
include hn hheld hd

theorem selftestSliceStart_of_kept (hslice : d.sliceAdmitted n = false) : selftestSliceStart n c = d := by
  simp only [selftestSliceStart, Nat.not_le.2 hn, hheld, hd, hslice, Bool.false_eq_true, or_self, if_false, Bool.not_false, if_true]

theorem selftestSliceStart_of_standing (hslice : d.sliceAdmitted n = true) (hgroup : d.groupState (n / 16) ≠ gsRunning) :
    selftestSliceStart n c = d.wakeFor (n / 16) := by
  simp only [selftestSliceStart, Nat.not_le.2 hn, hheld, hd, hslice, hgroup, Bool.false_eq_true, or_self, if_false, Bool.not_true,
    ne_eq, not_false_eq_true, if_true]

/-- R325: on an idle tile of a running group the slice begins once it has its budget. -/
theorem selftestSliceStart_of_idle (hslice : d.sliceAdmitted n = true) (hgroup : d.groupState (n / 16) = gsRunning)
    (htile : d.tileState n = tsIdle) :
    selftestSliceStart n c = if (d.askTest n).granted (.test n) = true then (d.askTest n).beginSlice n else d.askTest n := by
  simp only [selftestSliceStart, Nat.not_le.2 hn, hheld, hd, hslice, hgroup, htile, Bool.false_eq_true, or_self, if_false, Bool.not_true,
    ne_eq, not_true_eq_false]

end SliceStart

section RunningSlice
variable {c : Chip} {n : Nat} {t : TileTest} (hn : n < 192) (ht : c.tileTest n = t) (hrun : t.running = true)
include hn ht hrun

theorem selftestStep_advances (b : Bool) (hstep : t.step < 90) :
    selftestStep n b c = c.setTileTest n { t with step := t.step + 1, firstFail := if b = true then t.firstFail else some (t.firstFail.getD t.step) } := by
  simp only [selftestStep, ht, Nat.not_le.2 hn, Nat.not_le.2 hstep, hrun, Bool.not_true, Bool.false_eq_true, or_self, if_false]

theorem selftestAbort_of_cause {k : Nat} (hstep : t.step ≠ 90) (hk : c.abortCause n t = some k) : selftestAbort n c = c.abortSlice n k := by
  simp only [selftestAbort, ht, Nat.not_le.2 hn, hstep, hrun, hk, Bool.not_true, Bool.false_eq_true, or_self, if_false]

theorem selftestSliceEnd_passes (hstep : 90 ≤ t.step) (hfail : t.firstFail = none) :
    selftestSliceEnd n c = ((c.runsAt n).foldl (fun c r => c.advanceRun n t r) ((c.sliceOver n).tilePassed n (!(c.runsAt n).isEmpty))).showQueued n := by
  simp only [selftestSliceEnd, ht, Nat.not_le.2 hn, Nat.not_lt.2 hstep, hrun, hfail, Bool.not_true, Bool.false_eq_true, or_self, if_false]

theorem selftestSliceEnd_fails {f : Nat} (hstep : 90 ≤ t.step) (hfail : t.firstFail = some f) :
    selftestSliceEnd n c = ((c.runsAt n).foldl (fun c r => c.advanceRun n t r) ((c.sliceOver n).tileFailed n f)).showQueued n := by
  simp only [selftestSliceEnd, ht, Nat.not_le.2 hn, Nat.not_lt.2 hstep, hrun, hfail, Bool.not_true, Bool.false_eq_true, or_self, if_false]

end RunningSlice

theorem selftestAbort_of_none {c : Chip} {n : Nat} (h : c.abortCause n (c.tileTest n) = none) : selftestAbort n c = c := by
  simp only [selftestAbort, h, ite_self]

/-! ### Checkers and what is overdue (R326, R329, R330) -/

theorem checkerTest_of_due {c : Chip} {k : Nat} (b : Bool) (f us : Nat) (hk : k < 7)
    (hheld : c.flag SAF_ISLAND_STATUS SAF_ISLAND_STATUS.HELD = false) (hdue : c.checkDue k = true) :
    checkerTest k b f us c = (c.selfTest.checks.filter (fun x => x.2 == k)).foldl
      (fun c x => c.finish x.1 stDone (testResult (!b) (if b = true then none else some (f % 2 ^ 8)) 0 us))
      (if b = true then (c.checkTaken k).checkerPass k else (c.checkTaken k).checkerFail k f) := by
  simp only [checkerTest, Nat.not_le.2 hk, hheld, hdue, Bool.not_true, Bool.false_eq_true, or_self, if_false]

theorem checkerTest_of_early {c : Chip} {k : Nat} (b : Bool) (f us : Nat) (hdue : c.checkDue k = false) : checkerTest k b f us c = c :=
  if_pos (.inr (.inr (congrArg not hdue)))

theorem selftestOverdue_tile {c : Chip} {n : Nat} (hn : n < 192) :
    selftestOverdue n c = if c.tileOverdue n = true then
      (c.setFld (SAF_ST_TILE n) SAF_ST_TILE.OVERDUE 1).event 0 0x0412 n 0 (c.reg (SAF_ST_PASS n)) 0 else c :=
  if_pos hn

theorem selftestOverdue_checker {c : Chip} {k : Nat} (hk : k < 7) (hlate : c.checkOverdue k = true) :
    selftestOverdue (0x100 + k) c = c.checkLate k := by
  have htile : ¬ 0x100 + k < 192 := by omega
  have hrange : 0x100 ≤ 0x100 + k ∧ 0x100 + k < 0x107 := by omega
  simp only [selftestOverdue, htile, hrange, Nat.add_sub_cancel_left, hlate, and_self, if_false, if_true]

/-! ### SELFTEST_RUN (R327, R328) -/

section SelftestRun
variable {c : Chip} {p : Packet} (h : c.startedAs p 0x501)
include h

theorem Chip.onSelftest_of_bad (op : Nat) (f : Packet → Chip → Chip) (hbad : p.testBad = true) :
    c.onSelftest p.id op f = c.finish p.id stBadParam :=
  (Chip.onPacket_of_startedAs h).trans (if_pos hbad)

theorem Chip.onSelftest_of_legal {op : Nat} {f : Packet → Chip → Chip} (hbad : p.testBad = false) (hop : p.u 32 1 = op) :
    c.onSelftest p.id op f = f p c :=
  (Chip.onPacket_of_startedAs h).trans ((if_neg (Bool.eq_false_iff.1 hbad)).trans (if_pos hop))

end SelftestRun

/-- Settles O35: the pair by its count and its short test, a slice by what admits, advances, aborts and ends it, a checker by its
turn, a SELFTEST_RUN by its operation. That outcomes come with the command and that an overdue checker fails is log 34. -/
theorem islandTestsItself : Obligations.IslandTestsItself := by
  unfold Obligations.IslandTestsItself
  refine ⟨?third, ?early, ?apart, ?begins, ?asks, ?wakes, ?kept, ?step, ?abort, ?goesOn, ?passes, ?fails, ?checker, ?checkerEarly,
    ?tileLate, ?checkerLate, ?tileInTime, ?tile, ?group, ?check, ?schedule, ?illegal⟩
  case third =>
    intro s b hpair h3
    exact State.on_of_eq (lockstepMismatch_of_third hpair b h3)
  case early =>
    intro s hpair h3
    exact ⟨State.on_of_eq (lockstepMismatch_of_early hpair true h3), State.on_of_eq (lockstepMismatch_of_early hpair false h3)⟩
  case apart =>
    intro s b hpair
    exact State.on_of_eq (lockstepMismatch_of_apart b hpair)
  case begins =>
    intro s n hn hheld hslice hgroup htile hgranted
    exact State.on_of_eq ((selftestSliceStart_of_idle hn hheld rfl hslice hgroup htile).trans (if_pos hgranted))
  case asks =>
    intro s n hn hheld hslice hgroup htile hgranted
    exact State.on_of_eq ((selftestSliceStart_of_idle hn hheld rfl hslice hgroup htile).trans (if_neg (Bool.eq_false_iff.1 hgranted)))
  case wakes =>
    intro s n hn hheld hslice hgroup
    exact State.on_of_eq (selftestSliceStart_of_standing hn hheld rfl hslice hgroup)
  case kept =>
    intro s n hn hheld hslice
    exact State.on_of_eq (selftestSliceStart_of_kept hn hheld rfl hslice)
  case step =>
    intro s n t hn ht hrun hstep
    exact ⟨State.on_of_eq (selftestStep_advances hn ht hrun true hstep), State.on_of_eq (selftestStep_advances hn ht hrun false hstep)⟩
  case abort =>
    intro s n k hn hrun hstep hk
    exact State.on_of_eq (selftestAbort_of_cause hn rfl hrun hstep hk)
  case goesOn =>
    intro s n h
    exact State.on_of_eq (selftestAbort_of_none h)
  case passes =>
    intro s n hn hrun hstep hfail
    exact State.on_of_eq (selftestSliceEnd_passes hn rfl hrun hstep hfail)
  case fails =>
    intro s n f hn hrun hstep hfail
    exact State.on_of_eq (selftestSliceEnd_fails hn rfl hrun hstep hfail)
  case checker =>
    intro s k f us hk hheld hdue
    exact ⟨State.on_of_eq (checkerTest_of_due true f us hk hheld hdue), State.on_of_eq (checkerTest_of_due false f us hk hheld hdue)⟩
  case checkerEarly =>
    intro s k b f us hdue
    exact State.on_of_eq (checkerTest_of_early b f us hdue)
  case tileLate =>
    intro s n hn hlate
    exact State.on_of_eq ((selftestOverdue_tile hn).trans (if_pos hlate))
  case checkerLate =>
    intro s k hk hlate
    exact State.on_of_eq (selftestOverdue_checker hk hlate)
  case tileInTime =>
    intro s n hn hlate
    exact State.on_of_eq ((selftestOverdue_tile hn).trans (if_neg (Bool.eq_false_iff.1 hlate)))
  case tile =>
    intro s p h hbad hop
    exact State.on_of_eq (Chip.onSelftest_of_legal h hbad hop)
  case group =>
    intro s p h hbad hop
    exact State.on_of_eq (Chip.onSelftest_of_legal h hbad hop)
  case check =>
    intro s p h hbad hop
    exact State.on_of_eq (Chip.onSelftest_of_legal h hbad hop)
  case schedule =>
    intro s p h hbad hop
    exact State.on_of_eq (Chip.onSelftest_of_legal h hbad hop)
  case illegal =>
    intro s p h hbad
    exact ⟨State.on_of_eq (Chip.onSelftest_of_bad h 0 _ hbad), State.on_of_eq (Chip.onSelftest_of_bad h 1 _ hbad),
      State.on_of_eq (Chip.onSelftest_of_bad h 2 _ hbad), State.on_of_eq (Chip.onSelftest_of_bad h 3 _ hbad)⟩

end Sys2Proof.Machine

/-!
PROOFS. The security core (R338 to R358, R375): calls of the mailbox's entries, faults of GATE, claims, watchdogs and lost
owner entries, and the two obligations over them.
-/

namespace Sys2Proof.Machine

/-! ### Calls (R339 to R344) -/

/-- A call that the mailbox takes at once answers what its entry makes of the copied block. -/
theorem State.onPart_gateCall (entry : Nat) (s : State) (hart mode rd block len : Nat) (g : GateEntry) (b : List Byte) (c : Chip)
    (hopens : s.part.gateOpens g entry hart mode block len = true) (hwaiting : s.sec.waiting = []) (hrunning : s.sec.running = none)
    (hread : (s.chip.count SEC_GATE_CALLS SEC_GATE_CALLS.COUNT 1).loadRange (hartMaster hart) (s.chip.hartTag hart) block g.pin = (.ok, b, c))
    (hcockpit : g.cls = 2 → c.flag SEC_STATUS SEC_STATUS.COCKPIT_WITHDRAWN = false) :
    s.onPart (gateCall entry hart mode rd block len) =
      .next (s.withPart (Part.showSec (GateReq.ended (s.part.gateReq g entry hart rd block len) (g.copyOf b)
        (gateEntry (s.part.gateReq g entry hart rd block len) (g.copyOf b) ⟨c, s.sec⟩)))) :=
  State.onPart_of_eq (gateCall_taken hopens hwaiting hrunning hread hcockpit)

/-- Settles O36: a call on an idle mailbox runs the entry of its number. That the copy is extended with zeros to PARAM_OUT is
log 41. -/
theorem gateCallsRunTheirEntries : Obligations.GateCallsRunTheirEntries := by
  unfold Obligations.GateCallsRunTheirEntries
  refine ⟨?ownerSet, ?ownerQuery, ?rollback, ?attest, ?random, ?challenge, ?debugOpen, ?debugClose, ?netKey, ?content, ?vaultRead,
    ?vaultWrite⟩
  case ownerSet => exact State.onPart_gateCall 0x0010
  case ownerQuery => exact State.onPart_gateCall 0x0011
  case rollback => exact State.onPart_gateCall 0x0012
  case attest => exact State.onPart_gateCall 0x0020
  case random => exact State.onPart_gateCall 0x0021
  case challenge => exact State.onPart_gateCall 0x0030
  case debugOpen => exact State.onPart_gateCall 0x0031
  case debugClose => exact State.onPart_gateCall 0x0032
  case netKey => exact State.onPart_gateCall 0x0040
  case content => exact State.onPart_gateCall 0x0050
  case vaultRead => exact State.onPart_gateCall 0x0051
  case vaultWrite => exact State.onPart_gateCall 0x0052

/-! ### Faults of GATE (R338, R339) -/

section GateFault
variable {p : Part} {hart mode : Nat} {w : W32} (hhart : hart < 20) (hcode : bitsOf w.toNat 6 0 = 0x0B)
include hhart hcode

theorem gateFault_of_funct (hfunct : bitsOf w.toNat 15 12 ≠ 0) : gateFault hart mode w p = { p with chip := p.chip.gateTrap hart 1 w.toNat } := by
  simp only [gateFault, Nat.not_le.2 hhart, hcode, hfunct, ne_eq, not_true_eq_false, not_false_eq_true, or_self, if_false, if_true]

theorem gateFault_of_entry {k e : Nat} (hfunct : bitsOf w.toNat 15 12 = 0)
    (hfault : p.sec.gateFault? (modeOf mode) (bitsOf w.toNat 31 16) = some (k, e)) :
    gateFault hart mode w p =
      { p with chip := (p.chip.draw.2.gateTrap hart e w.toNat).gateNotice hart w.toNat k p.chip.draw.1.toNat } := by
  simp only [gateFault, Nat.not_le.2 hhart, hcode, hfunct, hfault, ne_eq, not_true_eq_false, or_self, if_false]

end GateFault

/-! ### The owner set that waits, and the challenge (R46, R355) -/

theorem ownerSetServe_ends {p : Part} {q : GateReq} {f n x new : Nat} {inv ok : Bool} (hq : p.sec.running = some q)
    (hentry : q.entry = 0x0010) (hargs : ownerArgs q.copy = (f, n, x, new, inv, ok)) (hfree : p.chip.dramBusy f n = false) :
    ownerSetServe p = Part.gateFinish { p with chip := p.chip.giveOwners f n new inv } stDone := by
  simp only [ownerSetServe, hq, hentry, hargs, hfree, Bool.false_eq_true, if_false, if_true]

theorem challengeLapse_of_open {p : Part} {r : List Byte} {t : Nat} (h : p.sec.challenge = some (r, t)) :
    challengeLapse p = if t + 60000000000 ≤ p.chip.now then { p with sec := { p.sec with challenge := none } } else p := by
  simp only [challengeLapse, h]

/-! ### Claims (R345, R346) -/

section Release
variable {p : Part} {n : Nat} (hclaim : bitOf p.chip.claimed n = true)
include hclaim

theorem claimRelease_ends_service {q : GateReq} (hq : p.sec.running = some q) (hbit : q.claimBit = some n) :
    claimRelease n p = Part.gateFinish { (p.serviceDone q).2 with chip := (p.serviceDone q).2.chip.unclaim n } (p.serviceDone q).1 := by
  simp only [claimRelease, hclaim, hq, hbit, Bool.true_eq_false, if_false, if_true]

theorem claimRelease_of_others (hother : ∀ q, p.sec.running = some q → q.claimBit ≠ some n) :
    claimRelease n p = { p with chip := p.chip.unclaim n } := by
  cases hq : p.sec.running with
  | none => simp only [claimRelease, hclaim, hq, Bool.true_eq_false, if_false]
  | some q => simp only [claimRelease, hclaim, hq, hother q hq, Bool.true_eq_false, if_false]

end Release

section Expiry
variable {p : Part} {n t : Nat} (ht : AMap.get? p.chip.power.claims n = some t)
include ht

theorem claimExpiry_of_early (hearly : p.chip.now < t + 50000000) : claimExpiry n p = p := by
  simp only [claimExpiry, ht, hearly, if_true]

theorem claimExpiry_of_none (hlate : t + 50000000 ≤ p.chip.now) (hq : p.sec.running = none) :
    claimExpiry n p = { p with chip := p.chip.claimLate n } := by
  simp only [claimExpiry, ht, Nat.not_lt.2 hlate, hq, if_false]

theorem claimExpiry_ends_service {q : GateReq} (hlate : t + 50000000 ≤ p.chip.now) (hq : p.sec.running = some q)
    (hbit : q.claimBit = some n) :
    claimExpiry n p = Part.gateFinish { p with chip := (p.chip.claimLate n).draw.2 } ((p.chip.claimLate n).draw.1.toNat % 2 ^ 16) := by
  simp only [claimExpiry, ht, Nat.not_lt.2 hlate, hq, hbit, if_false, if_true]

end Expiry

/-! ### The cockpit-class watchdog, lost owner entries (R357, R358, R375) -/

theorem wdtCockpitExpiry_eq (p : Part) :
    wdtCockpitExpiry p = if p.chip.flag SEC_STATUS SEC_STATUS.COCKPIT_WITHDRAWN = true then p
      else ⟨(p.chip.setFld SEC_STATUS SEC_STATUS.COCKPIT_WITHDRAWN 1).secRecord 2 8 0xFF 0 0 none, { p.sec with contentKeys := [] }⟩ := rfl

theorem ownerEntryRepair_of_page {c : Chip} {n : Nat} (h : n * pageSize < c.capacity) :
    ownerEntryRepair n c = if (c.ownerLost n).dramBusy n 1 = true then c.ownerLost n else (c.ownerLost n).ownerFixed n :=
  if_neg (Nat.not_le.2 h)

theorem ownerEntryRepair_of_outside {c : Chip} {n : Nat} (h : c.capacity ≤ n * pageSize) : ownerEntryRepair n c = c := if_pos h

/-- Settles O37: a fault of GATE by its FUNCT (R338) and its entry, an owner set that waits (R46) by the requests on its pages, a
claim by the service under it and its time. The free status of a service that its claim's expiry ends is log 44. -/
theorem mailboxFaultsClaimsAndWatchdogs : Obligations.MailboxFaultsClaimsAndWatchdogs := by
  unfold Obligations.MailboxFaultsClaimsAndWatchdogs
  refine ⟨?funct, ?fault, ?ownerSet, ?lapses, ?stands, ?ends, ?released, ?expires, ?expiresUnder, ?claimStands, ?vehicle, ?cockpit,
    ?withdrawn, ?repair, ?noPage⟩
  case funct =>
    intro s hart mode w hhart hcode hfunct
    exact State.onPart_of_eq (gateFault_of_funct (p := s.part) hhart hcode hfunct)
  case fault =>
    intro s hart mode k e w hhart hcode hfunct hfault
    exact State.onPart_of_eq (gateFault_of_entry (p := s.part) hhart hcode hfunct hfault)
  case ownerSet =>
    intro s q f n x new inv ok hq hentry hargs hfree
    exact State.onPart_of_eq (congrArg (List.foldl Part.finishDestroy · _) (ownerSetServe_ends (p := s.part) hq hentry hargs hfree))
  case lapses =>
    intro s r t h hlate
    exact State.onPart_of_eq ((challengeLapse_of_open (p := s.part) h).trans (if_pos hlate))
  case stands =>
    intro s r t h hearly
    exact State.onPart_of_eq ((challengeLapse_of_open (p := s.part) h).trans (if_neg (Nat.not_le.2 hearly)))
  case ends =>
    intro s n q hclaim hq hbit
    exact State.onPart_of_eq (claimRelease_ends_service (p := s.part) hclaim hq hbit)
  case released =>
    intro s n hclaim hother
    exact State.onPart_of_eq (claimRelease_of_others (p := s.part) hclaim hother)
  case expires =>
    intro s n t ht hlate hq
    exact State.onPart_of_eq (claimExpiry_of_none (p := s.part) ht hlate hq)
  case expiresUnder =>
    intro s n t q ht hlate hq hbit
    exact State.onPart_of_eq (claimExpiry_ends_service (p := s.part) ht hlate hq hbit)
  case claimStands =>
    intro s n t ht hearly
    exact State.onPart_of_eq (claimExpiry_of_early (p := s.part) ht hearly)
  case vehicle =>
    intro s
    exact State.onPart_of_eq rfl
  case cockpit =>
    intro s h
    exact State.onPart_of_eq ((wdtCockpitExpiry_eq s.part).trans (if_neg (Bool.eq_false_iff.1 h)))
  case withdrawn =>
    intro s h
    exact State.onPart_of_eq ((wdtCockpitExpiry_eq s.part).trans (if_pos h))
  case repair =>
    intro s n h
    exact State.on_of_eq (ownerEntryRepair_of_page h)
  case noPage =>
    intro s n h
    exact State.on_of_eq (ownerEntryRepair_of_outside h)

end Sys2Proof.Machine

/-!
PROOFS. The memory system (R332, R336, R361 to R388): the channels' queues, zero-fills, check codes, arbiters, leaky buckets and
the error ring's registers, and the two obligations over them.
-/

namespace Sys2Proof.Machine

/-! ### Reads of the queue (R367, R371 to R373, R378 to R382) -/

section Read
variable {c d : Chip} {q : DramReq} (hq : c.dramQueue.find? (fun r => r.id == q.id && !r.write) = some q) (hd : c.lookValid q.addr q.len = d)
include hq hd

theorem dramRead_of_fill {f : Fill} (hfill : d.fillOf q = some f) : dramRead q.id c = (d.unqueue q).waitFill f q := by
  simp only [dramRead, hq, hd, hfill]

section NoFill
variable (hfill : d.fillOf q = none)
include hfill

/-- R378: a read whose last older write covers its whole sector takes that write's bytes. -/
theorem dramRead_forwards {w : DramReq} (hw : ((d.olderThan q).filter (fun w => w.write && w.touches q)).getLast? = some w)
    (hwhole : w.whole = true) (hsector : w.addr / 64 = q.addr / 64) (hwithin : (q.addr + q.len - 1) / 64 = q.addr / 64) :
    dramRead q.id c = ((d.unqueue q).count (MRC_CH_COALESCED (channelOf q.addr)) MRC_CH_COALESCED.COUNT 1).answer q .value
      ((w.data.drop (q.addr % 64)).take q.len) := by
  simp only [dramRead, hq, hd, hfill, hw, hwhole, hsector, hwithin, decide_true, Bool.and_self, if_true]

variable (hw : ((d.olderThan q).filter (fun w => w.write && w.touches q)).getLast? = none)
include hw

theorem dramRead_of_turn (hfree : d.blocked q = false) (hturn : d.zeroRead q = true ∨ d.onTurn q = true) :
    dramRead q.id c = ((d.unqueue q).serveRead q).mergeReads q := by
  have hgo : (!d.zeroRead q && !d.onTurn q) = false := by
    simpa only [Bool.and_eq_false_iff, Bool.not_eq_false'] using hturn
  simp only [dramRead, hq, hd, hfill, hw, hfree, hgo, Bool.false_eq_true, if_false]

theorem dramRead_waits (hwait : d.blocked q = true ∨ d.zeroRead q = false ∧ d.onTurn q = false) : dramRead q.id c = d := by
  rcases hwait with hblocked | ⟨hzero, hturn⟩
  · simp only [dramRead, hq, hd, hfill, hw, hblocked, if_true]
  · simp only [dramRead, hq, hd, hfill, hw, hzero, hturn, Bool.not_false, Bool.and_self, if_true, ite_self]

end NoFill
end Read

/-! ### Writes of the queue (R368, R372, R373, R378 to R382) -/

section Write
variable {c d : Chip} {q : DramReq} (hq : c.dramQueue.find? (fun r => r.id == q.id && r.write) = some q) (hd : c.lookValid q.addr q.len = d)
include hq hd

theorem dramWrite_of_blocked (hblocked : d.blocked q = true) : dramWrite q.id c = d := by
  simp only [dramWrite, hq, hd, hblocked, if_true]

section Free
variable (hfree : d.blocked q = false)
include hfree

theorem dramWrite_of_fill {f : Fill} (hfill : d.fillOf q = some f) : dramWrite q.id c = (d.unqueue q).waitFill f q := by
  simp only [dramWrite, hq, hd, hfree, hfill, Bool.false_eq_true, if_false]

variable (hfill : d.fillOf q = none)
include hfill

/-- R368, R380: valid blocks take the write in its turn. -/
theorem dramWrite_of_valid (hvalid : (pagesOf q.addr q.len).all d.validBlocks.contains = true) :
    dramWrite q.id c = if d.onTurn q = true then
      (if q.whole = true then ((d.unqueue q).serveWrite q).mergeWrites q else (d.unqueue q).serveWrite q) else d := by
  simp only [dramWrite, hq, hd, hfree, hfill, hvalid, Bool.false_eq_true, if_false, if_true]

theorem dramWrite_of_unwritten (hvalid : (pagesOf q.addr q.len).all d.validBlocks.contains = false) :
    dramWrite q.id c = (d.unqueue q).startFills q := by
  simp only [dramWrite, hq, hd, hfree, hfill, hvalid, Bool.false_eq_true, if_false]

end Free
end Write

/-! ### Fills, windows and calibrations (R372, R380, R381) -/

theorem zeroFillDone_of_oldest {c : Chip} {n : Nat} {f : Fill}
    (hf : c.fills.find? (fun g => channelOf (g.block * pageSize) == channelOf (n * pageSize)) = some f) :
    zeroFillDone n c = if f.block = n then c.fillRuns f else c := by
  simp only [zeroFillDone, hf]

theorem millraceWindow_of_channel {c : Chip} {ch : Nat} (hch : ch < 16) :
    millraceWindow ch c = c.setMrc ch { c.mrc ch with reserve := c.fld MRC_RESERVE MRC_RESERVE.SAFETY * 1024 / 100, tokens := c.windowTokens } :=
  if_neg (Nat.not_le.2 hch)

theorem dramCalibration_of_failed {c : Chip} {ch : Nat} (hch : ch < 16) :
    dramCalibration ch false c = c.error { severity := 2, cause := 7, source := 1, unit := ch } :=
  if_neg (by simpa using hch)

theorem dramCalibration_of_ok (c : Chip) (ch : Nat) : dramCalibration ch true c = c := if_pos (.inr rfl)

/-- R365: a command of the queue leaves requests fewer, so the register writes that wait for them are tried. -/
theorem State.on_served {s : State} {f : Chip → Chip} {c : Chip} (h : f s.chip = c) :
    s.on (fun d => (f d).eccService) = .next { s with chip := c.eccService.settle } :=
  State.on_of_eq (congrArg Chip.eccService h)

/-- Settles O38: a read and a write by the fill, the older requests and the turn that they meet, a fill by its place on its
channel. That reads of zeros and forwarded reads do not wait for the turn of R382 is log 56. -/
theorem memoryServesItsQueue : Obligations.MemoryServesItsQueue := by
  unfold Obligations.MemoryServesItsQueue
  refine ⟨?read, ?readWaits, ?forwards, ?readFill, ?write, ?writeBlocked, ?writeWaits, ?startsFills, ?writeFill, ?fillEnds, ?fillYounger,
    ?window, ?calibration⟩
  case read =>
    intro s q c hq hc hfill hw hfree hturn
    exact State.on_served (dramRead_of_turn hq hc hfill hw hfree hturn)
  case readWaits =>
    intro s q c hq hc hfill hw hwait
    exact State.on_served (dramRead_waits hq hc hfill hw hwait)
  case forwards =>
    intro s q w c hq hc hfill hw hwhole hsector hwithin
    exact State.on_served (dramRead_forwards hq hc hfill hw hwhole hsector hwithin)
  case readFill =>
    intro s q c f hq hc hfill
    exact State.on_served (dramRead_of_fill hq hc hfill)
  case write =>
    intro s q c hq hc hfree hfill hvalid hturn
    exact State.on_served ((dramWrite_of_valid hq hc hfree hfill hvalid).trans (if_pos hturn))
  case writeBlocked =>
    intro s q c hq hc hblocked
    exact State.on_served (dramWrite_of_blocked hq hc hblocked)
  case writeWaits =>
    intro s q c hq hc hfree hfill hvalid hturn
    exact State.on_served ((dramWrite_of_valid hq hc hfree hfill hvalid).trans (if_neg (Bool.eq_false_iff.1 hturn)))
  case startsFills =>
    intro s q c hq hc hfree hfill hvalid
    exact State.on_served (dramWrite_of_unwritten hq hc hfree hfill hvalid)
  case writeFill =>
    intro s q c f hq hc hfree hfill
    exact State.on_served (dramWrite_of_fill hq hc hfree hfill)
  case fillEnds =>
    intro s f hf
    exact State.on_served ((zeroFillDone_of_oldest hf).trans (if_pos rfl))
  case fillYounger =>
    intro s n f hf hne
    exact State.on_served ((zeroFillDone_of_oldest hf).trans (if_neg hne))
  case window =>
    intro s ch hch
    exact State.on_of_eq (millraceWindow_of_channel hch)
  case calibration =>
    intro s ch hch
    exact ⟨State.on_of_eq (dramCalibration_of_failed hch), State.on_of_eq (dramCalibration_of_ok s.chip ch)⟩

/-! ### Check codes (R364 to R366) -/

theorem Chip.eccService_of_free {c : Chip} {w : EccWrite} (h : c.eccHeld = [w]) (hfree : c.eccFree w = true) :
    c.eccService = { c.eccApply (c.eccNew w.region w.limit w.value) with eccHeld := [] } := by
  simp only [Chip.eccService, h, List.isEmpty_cons, Bool.false_eq_true, if_false, Chip.eccServe, hfree, if_true]

/-- R365: the oldest write that waits holds the others. -/
theorem Chip.eccService_of_waiting {c : Chip} {w : EccWrite} {l : List EccWrite} (h : c.eccHeld = w :: l) (hfree : c.eccFree w = false) :
    c.eccService = c := by
  simp only [Chip.eccService, h, List.isEmpty_cons, Bool.false_eq_true, if_false, Chip.eccServe, hfree]
  rw [← h]

theorem eccRegionWrite_held {c : Chip} {n : Nat} (b : Bool) (v : W64) (hn : n < 16) :
    eccRegionWrite 0 n b v c =
      Chip.eccService { c with eccHeld := c.eccHeld ++ [{ region := n, limit := b, value := v.toNat, mark := c.accepted }] } := by
  simp only [eccRegionWrite, Nat.not_le.2 hn, ne_eq, not_true_eq_false, or_self, if_false]

theorem eccRegionWrite_of_foreign {c : Chip} {t : Nat} (n : Nat) (b : Bool) (v : W64) (ht : t ≠ 0) : eccRegionWrite t n b v c = c :=
  if_pos (.inl ht)

theorem tileCodeMapWrite_of_free {c : Chip} {n : Nat} (w : W32) (hn : n < 192) (hfree : c.tileHeld n = false) :
    tileCodeMapWrite 0 n w c = c.codeMap n (w.toNat % 2 ^ 12) := by
  simp only [tileCodeMapWrite, Nat.not_le.2 hn, hfree, ne_eq, not_true_eq_false, Bool.false_eq_true, or_self, if_false]

theorem tileCodeMapWrite_of_foreign {c : Chip} {t : Nat} (n : Nat) (w : W32) (ht : t ≠ 0) : tileCodeMapWrite t n w c = c :=
  if_pos (.inl ht)

/-! ### Leaky buckets and the error ring's registers (R336, R377) -/

theorem leakTick_of_bucket {c : Chip} {n : Nat} (hn : n < 256) :
    leakTick n c = c.setFld (MEM_LB n) MEM_LB.COUNT (c.fld (MEM_LB n) MEM_LB.COUNT - 1) :=
  if_neg (Nat.not_le.2 hn)

theorem errRingEnable_of_foreign {c : Chip} {t : Nat} (v : Nat) (ht : t ≠ 0) : errRingEnable t v c = c := if_pos ht

theorem errRingHeadWrite_of_foreign {c : Chip} {t : Nat} (v : Nat) (ht : t ≠ 0) : errRingHeadWrite t v c = c := if_pos (.inl ht)

theorem errRingEnable_starts {c d : Chip} {v : Nat} (hoff : c.flag ERR_RING_CTRL ERR_RING_CTRL.ENABLE = false)
    (hd : c.setFld ERR_RING_CTRL ERR_RING_CTRL.LOG2_SLOTS (v % 32) = d) (hbit : bitOf v 31 = true) (h6 : 6 ≤ v % 32) (h16 : v % 32 ≤ 16)
    (hown : d.ownsPages 0 (d.fld ERR_RING_BASE ERR_RING_BASE.BASE * 4096) (32 * 2 ^ (v % 32)) = true) :
    errRingEnable 0 v c = (d.setFld ERR_RING_CTRL ERR_RING_CTRL.ENABLE 1).errService := by
  have hsize : (decide (v % 32 < 6) || decide (16 < v % 32)) = false := by
    rw [decide_eq_false (Nat.not_lt.2 h6), decide_eq_false (Nat.not_lt.2 h16)]; rfl
  simp only [errRingEnable, hoff, hd, hbit, hsize, hown, ne_eq, not_true_eq_false, Bool.not_true, Bool.false_or, Bool.or_false,
    Bool.false_eq_true, if_false]

theorem errRingEnable_stops {c : Chip} {v : Nat} (hon : c.flag ERR_RING_CTRL ERR_RING_CTRL.ENABLE = true) (hbit : bitOf v 31 = false) :
    errRingEnable 0 v c = c.setFld ERR_RING_CTRL ERR_RING_CTRL.ENABLE 0 := by
  simp only [errRingEnable, hon, hbit, ne_eq, not_true_eq_false, Bool.false_eq_true, if_false, if_true]

theorem errRingHeadWrite_moves {c : Chip} {v : Nat}
    (hle : idxSub v (c.reg ERR_RING_HEAD) ≤ idxSub (c.reg ERR_RING_TAIL) (c.reg ERR_RING_HEAD)) :
    errRingHeadWrite 0 v c = (c.setReg ERR_RING_HEAD v).errService := by
  simp only [errRingHeadWrite, Nat.not_lt.2 hle, ne_eq, not_true_eq_false, or_self, if_false]

theorem errRingHeadWrite_of_bad {c : Chip} {v : Nat}
    (hlt : idxSub (c.reg ERR_RING_TAIL) (c.reg ERR_RING_HEAD) < idxSub v (c.reg ERR_RING_HEAD)) : errRingHeadWrite 0 v c = c :=
  if_pos (.inr hlt)

/-- Settles O39: an arbiter decides in its command; a write of an ECC region by what it waits for, a write of the error ring's
registers by its fields. That another tag changes nothing is log 81, that requesters come with the command log 59. -/
theorem arbitersBucketsAndCodes : Obligations.ArbitersBucketsAndCodes := by
  unfold Obligations.ArbitersBucketsAndCodes
  refine ⟨?arbiter, ?leak, ?eccApplies, ?eccWaits, ?eccBehind, ?foreign, ?codeMap, ?record, ?ringStarts, ?ringStops, ?headMoves, ?headBad⟩
  case arbiter =>
    intro s n asks b
    exact State.on_eq s (arbiterGrant n asks b)
  case leak =>
    intro s n hn
    exact State.on_of_eq (leakTick_of_bucket hn)
  case eccApplies =>
    rintro s n b v c hn rfl hheld hfree
    exact State.on_of_eq ((eccRegionWrite_held b v hn).trans (Chip.eccService_of_free (congrArg (· ++ _) hheld) hfree))
  case eccWaits =>
    rintro s n b v c hn rfl hheld hfree
    exact State.on_of_eq ((eccRegionWrite_held b v hn).trans (Chip.eccService_of_waiting (congrArg (· ++ _) hheld) hfree))
  case eccBehind =>
    rintro s n b v c w l hn rfl hheld hfree
    exact State.on_of_eq ((eccRegionWrite_held b v hn).trans (Chip.eccService_of_waiting (congrArg (· ++ _) hheld) hfree))
  case foreign =>
    intro s t n b v w ht
    exact ⟨State.on_of_eq (eccRegionWrite_of_foreign n b v ht), State.on_of_eq (tileCodeMapWrite_of_foreign n w ht),
      State.on_of_eq (errRingEnable_of_foreign w.toNat ht), State.on_of_eq (errRingHeadWrite_of_foreign w.toNat ht)⟩
  case codeMap =>
    intro s n w hn hfree
    exact State.on_of_eq (tileCodeMapWrite_of_free w hn hfree)
  case record =>
    intro s v k r u m t x a d e
    rfl
  case ringStarts =>
    intro s w hoff hbit h6 h16 hown
    exact State.on_of_eq (errRingEnable_starts hoff rfl hbit h6 h16 hown)
  case ringStops =>
    intro s w hon hbit
    exact State.on_of_eq (errRingEnable_stops hon hbit)
  case headMoves =>
    intro s w hle
    exact State.on_of_eq (errRingHeadWrite_moves hle)
  case headBad =>
    intro s w hlt
    exact State.on_of_eq (errRingHeadWrite_of_bad hlt)

end Sys2Proof.Machine

/-!
PROOFS. Power and heat (R95, R397 to R408): tile groups that wake and sleep, Sluice, the sensors and the thermal loops, and the
obligation over them.
-/

namespace Sys2Proof.Machine

/-! ### Tile groups (R95, R397, R398) -/

section Groups
variable {c : Chip} {g : Nat}

theorem groupWake_of_may (h : c.mayWake g = true) : groupWake g c = c.beginWake g := if_pos h

theorem groupWake_of_mayNot (h : c.mayWake g = false) : groupWake g c = c := if_neg (Bool.eq_false_iff.1 h)

theorem groupRunning_of_waking (hg : g < 12) (h : c.groupState g = gsWaking) : groupRunning g c = c.groupRuns g := by
  simp only [groupRunning, Nat.not_le.2 hg, h, ne_eq, not_true_eq_false, or_self, if_false]

theorem groupRunning_of_other (h : c.groupState g ≠ gsWaking) : groupRunning g c = c := if_pos (.inr h)

theorem groupSleep_of_may (h : c.maySleep g = true) : groupSleep g c = c.sleepGroup g (c.sleepsOff g) := if_pos h

theorem groupSleep_of_mayNot (h : c.maySleep g = false) : groupSleep g c = c := if_neg (Bool.eq_false_iff.1 h)

end Groups

/-! ### Sluice (R400 to R403) -/

section Sluice
variable {c : Chip} {k n : Nat}

theorem sluiceRequest_asks {u cls x t : Nat} (hgranted : c.granted (askerOf k n) = false) (hasking : c.asking (askerOf k n) = false)
    (hcls : cls < 4) :
    sluiceRequest k n u cls x t c =
      c.ask cls [{ who := askerOf k n, units := u, slice := if x < 64 then some x else none, cls := cls }] t := by
  simp only [sluiceRequest, hgranted, hasking, Nat.not_le.2 hcls, Bool.false_eq_true, or_self, if_false]

/-- R400: an operation that holds its grant, or asks for it, asks for nothing more. -/
theorem sluiceRequest_of_served {u cls x t : Nat} (h : c.granted (askerOf k n) = true ∨ c.asking (askerOf k n) = true) :
    sluiceRequest k n u cls x t c = c :=
  if_pos (h.imp_right .inl)

theorem sluiceReturn_of_over (h : c.stillNeeds (askerOf k n) = false) :
    sluiceReturn k n c = (c.withdraw (askerOf k n)).giveBack (askerOf k n) :=
  if_neg (Bool.eq_false_iff.1 h)

theorem sluiceReturn_of_needed (h : c.stillNeeds (askerOf k n) = true) : sluiceReturn k n c = c := if_pos h

theorem sluiceTimeout_of_late (h : c.lateAsks.isEmpty = false) : sluiceTimeout c = c.denyLate := if_neg (Bool.eq_false_iff.1 h)

theorem sluiceTimeout_of_none (h : c.lateAsks.isEmpty = true) : sluiceTimeout c = c := if_pos h

end Sluice

/-! ### Sensors and the throttle (R404, R406, R407) -/

section Sensors
variable {p : Part} {l : List Nat}

theorem thermalSample_of_cooler (h : (p.chip.sampled l).overheated = false) :
    thermalSample l p = { p with chip := (p.chip.sampled l).thermal } := by
  simp only [thermalSample, h, Bool.false_eq_true, if_false]

theorem thermalSample_of_overheated (h : (p.chip.sampled l).overheated = true) :
    thermalSample l p = Part.shutdown { p with chip := p.chip.sampled l } := by
  simp only [thermalSample, h, if_true]

theorem shutdownRestart_of_due (hmode : p.chip.power.mode = .shutdown) (hdue : p.chip.power.shutAt + 5000000000 ≤ p.chip.now) :
    shutdownRestart p = p.beginCold 9 :=
  if_pos ⟨hmode, hdue⟩

theorem throttleLift_of_over {c : Chip} (h : c.throttleOver = true) : throttleLift c = c.liftThrottle := if_pos h

theorem throttleLift_of_hot {c : Chip} (h : c.throttleOver = false) : throttleLift c = c := if_neg (Bool.eq_false_iff.1 h)

end Sensors

/-! ### The PI loops and emergencies (R405, R408) -/

theorem thermalPiStep_of_up {c : Chip} (h : c.serviceDown 2 = false) :
    thermalPiStep c = c.piZones.1.setEff c.piZones.2.1 (c.piZones.1.sustEff c.piZones.2.2) := by
  simp only [thermalPiStep, h, Bool.false_eq_true, if_false]

section Emergency
variable {p : Part} {z : Nat}

theorem thermalEmergency_of_none (h : p.chip.emerges z = false) : thermalEmergency z p = p := if_pos (congrArg not h)

/-- R408: the blocks of SHED stop, unless one of them is claimed. -/
theorem thermalEmergency_of_emerging (h : p.chip.emerges z = true) :
    thermalEmergency z p =
      if (p.chip.emergency z).claimed &&& (p.chip.budget.shed &&& 0x1FC) ≠ 0 then Part.beginCold { p with chip := p.chip.emergency z } 10
      else { p with chip := (p.chip.emergency z).shed } := by
  simp only [thermalEmergency, h, Bool.not_true, Bool.false_eq_true, if_false]

end Emergency

/-- Settles O42: groups, Sluice, throttle and emergency each by the condition of their rule, and nothing where it does not hold.
That the loops compute exactly is log 47; that blocks of SHED stay gated until BLOCK_ON, and the free values of events, log 48. -/
theorem groupsSluiceAndHeatAreManaged : Obligations.GroupsSluiceAndHeatAreManaged := by
  unfold Obligations.GroupsSluiceAndHeatAreManaged
  refine ⟨?wakes, ?noWake, ?runs, ?notWaking, ?sleeps, ?noSleep, ?asks, ?asked, ?returns, ?needed, ?late, ?inTime, ?tick, ?sample,
    ?overheated, ?lifts, ?throttled, ?restarts, ?piStep, ?sheds, ?claimed, ?calm⟩
  case wakes =>
    intro s g h
    exact State.on_of_eq (groupWake_of_may h)
  case noWake =>
    intro s g h
    exact State.on_of_eq (groupWake_of_mayNot h)
  case runs =>
    intro s g hg h
    exact State.on_of_eq (groupRunning_of_waking hg h)
  case notWaking =>
    intro s g h
    exact State.on_of_eq (groupRunning_of_other h)
  case sleeps =>
    intro s g h
    exact State.on_of_eq (groupSleep_of_may h)
  case noSleep =>
    intro s g h
    exact State.on_of_eq (groupSleep_of_mayNot h)
  case asks =>
    intro s k n u c x t hgranted hasking hcls
    exact State.on_of_eq (sluiceRequest_asks hgranted hasking hcls)
  case asked =>
    intro s k n u c x t h
    exact State.on_of_eq (sluiceRequest_of_served h)
  case returns =>
    intro s k n h
    exact State.on_of_eq (sluiceReturn_of_over h)
  case needed =>
    intro s k n h
    exact State.on_of_eq (sluiceReturn_of_needed h)
  case late =>
    intro s h
    exact State.on_of_eq (sluiceTimeout_of_late h)
  case inTime =>
    intro s h
    exact State.on_of_eq (sluiceTimeout_of_none h)
  case tick =>
    intro s
    exact State.on_eq s sluiceTick
  case sample =>
    intro s l h
    exact State.onPart_of_eq (thermalSample_of_cooler (p := s.part) h)
  case overheated =>
    intro s l h
    exact State.onPart_of_eq (thermalSample_of_overheated (p := s.part) h)
  case lifts =>
    intro s h
    exact State.on_of_eq (throttleLift_of_over h)
  case throttled =>
    intro s h
    exact State.on_of_eq (throttleLift_of_hot h)
  case restarts =>
    intro s hmode hdue
    exact State.onPart_of_eq (shutdownRestart_of_due (p := s.part) hmode hdue)
  case piStep =>
    intro s h
    exact State.on_of_eq (thermalPiStep_of_up h)
  case sheds =>
    intro s z h hclaimed
    exact State.onPart_of_eq ((thermalEmergency_of_emerging (p := s.part) h).trans (if_neg (not_not.2 hclaimed)))
  case claimed =>
    intro s z h hclaimed
    exact State.onPart_of_eq ((thermalEmergency_of_emerging (p := s.part) h).trans (if_pos hclaimed))
  case calm =>
    intro s z h
    exact State.onPart_of_eq (thermalEmergency_of_none (p := s.part) h)

end Sys2Proof.Machine

/-!
PROOFS. The forerunner mailboxes (R435, R436): what a write of GO comes to, and the obligation over the commands.
-/

namespace Sys2Proof.Machine

/-! ### A write of GO (R435) -/

section Go
variable {p : Part} {m : Nat} {f : Part → Part}

theorem Part.mbxGo_of_refused {t : Nat} (h : t ≠ 0 ∨ p.chip.forerunner = false ∨ p.chip.serviceDown 7 = true) : p.mbxGo t m f = p :=
  if_pos h

variable (hfore : p.chip.forerunner = true) (hup : p.chip.serviceDown 7 = false)
include hfore hup

theorem Part.mbxGo_of_ready (hfree : p.chip.flag (MBX_STATUS m) MBX_STATUS.BUSY = false) :
    p.mbxGo 0 m f = f { p with chip := p.chip.mbxBusy m } := by
  simp only [Part.mbxGo, hfore, hup, hfree, ne_eq, not_true_eq_false, Bool.true_eq_false, Bool.false_eq_true, or_self, if_false]

theorem Part.mbxGo_of_busy (hbusy : p.chip.flag (MBX_STATUS m) MBX_STATUS.BUSY = true) :
    p.mbxGo 0 m f = { p with chip := p.chip.count (MBX_IGNORED m) MBX_IGNORED.COUNT 1 } := by
  simp only [Part.mbxGo, hfore, hup, hbusy, ne_eq, not_true_eq_false, Bool.true_eq_false, Bool.false_eq_true, or_self, if_false, if_true]

end Go

/-! ### The commands of the mailboxes (R436) -/

section Commands
variable {p : Part} {t m cmd op : Nat} {pay : Chip → List Byte} {f : Nat → Chip → Chip}

theorem mbxArgs_of_cmd (h : p.chip.mbxCmd m = cmd) :
    mbxArgs t m cmd op pay f p = p.mbxGo t m (fun p => { p with chip := p.chip.mbxPacket m op 1 (pay p.chip) f }) :=
  if_neg (not_not.2 h)

theorem mbxDescriptor_of_cmd (h : p.chip.mbxCmd m = cmd) :
    mbxDescriptor t m cmd op f p = p.mbxGo t m (fun p => { p with chip := mbxRun m op f (p.chip.mbxRead m) }) :=
  if_neg (not_not.2 h)

theorem mbxGate_of_cmd {entry len : Nat} (h : p.chip.mbxCmd 0 = cmd) :
    mbxGate t cmd entry len p = p.mbxGo t 0 (fun p => gateCall entry (16 + p.chip.foreCore) 0 32 (p.chip.mbxAddr 0) len p) :=
  if_neg (not_not.2 h)

theorem mbxUnknown_of_foreign (hm : m < 4) (h : mailboxOf (p.chip.mbxCmd m) ≠ some m) :
    mbxUnknown t m p = p.mbxGo t m (fun p => { p with chip := p.chip.mailboxReply m stBadOpcode 0 }) := by
  simp only [mbxUnknown, Nat.not_le.2 hm, h, or_self, if_false]

variable (h : t ≠ 0 ∨ p.chip.forerunner = false ∨ p.chip.serviceDown 7 = true)
include h

theorem mbxArgs_of_refused : mbxArgs t m cmd op pay f p = p := by
  simp only [mbxArgs, Part.mbxGo_of_refused h, ite_self]

theorem mbxDescriptor_of_refused : mbxDescriptor t m cmd op f p = p := by
  simp only [mbxDescriptor, Part.mbxGo_of_refused h, ite_self]

theorem mbxGate_of_refused {entry len : Nat} : mbxGate t cmd entry len p = p := by
  simp only [mbxGate, Part.mbxGo_of_refused h, ite_self]

theorem mbxUnknown_of_refused : mbxUnknown t m p = p := by
  simp only [mbxUnknown, Part.mbxGo_of_refused h, ite_self]

end Commands

/-- Settles O44: each command by its write of GO, which a free mailbox carries out and a BUSY one counts. That a security command
is called from the core of the service in M-mode, and that a command of another mailbox is BAD_OPCODE, is log 64. -/
theorem mailboxCommandsRun : Obligations.MailboxCommandsRun := by
  unfold Obligations.MailboxCommandsRun
  refine ⟨?submit, ?preempt, ?abort, ?hint, ?load, ?unload, ?attest, ?random, ?unknown, ?submitBusy, ?preemptBusy, ?abortBusy, ?hintBusy,
    ?loadBusy, ?unloadBusy, ?attestBusy, ?randomBusy, ?refused⟩
  case submit | load =>
    intro s hcmd hfore hup hfree
    exact State.onPart_of_eq ((mbxDescriptor_of_cmd (p := s.part) hcmd).trans (Part.mbxGo_of_ready hfore hup hfree))
  case preempt | abort | hint | unload =>
    intro s hcmd hfore hup hfree
    exact State.onPart_of_eq ((mbxArgs_of_cmd (p := s.part) hcmd).trans (Part.mbxGo_of_ready hfore hup hfree))
  case attest | random =>
    intro s hcmd hfore hup hfree
    exact State.onPart_of_eq ((mbxGate_of_cmd (p := s.part) hcmd).trans (Part.mbxGo_of_ready hfore hup hfree))
  case unknown =>
    intro s m hm hcmd hfore hup hfree
    exact State.onPart_of_eq ((mbxUnknown_of_foreign (p := s.part) hm hcmd).trans (Part.mbxGo_of_ready hfore hup hfree))
  case submitBusy | loadBusy =>
    intro s hcmd hfore hup hbusy
    exact State.onPart_of_eq ((mbxDescriptor_of_cmd (p := s.part) hcmd).trans (Part.mbxGo_of_busy hfore hup hbusy))
  case preemptBusy | abortBusy | hintBusy | unloadBusy =>
    intro s hcmd hfore hup hbusy
    exact State.onPart_of_eq ((mbxArgs_of_cmd (p := s.part) hcmd).trans (Part.mbxGo_of_busy hfore hup hbusy))
  case attestBusy | randomBusy =>
    intro s hcmd hfore hup hbusy
    exact State.onPart_of_eq ((mbxGate_of_cmd (p := s.part) hcmd).trans (Part.mbxGo_of_busy hfore hup hbusy))
  case refused =>
    intro s t m h
    have hargs {m cmd op : Nat} {pay : Chip → List Byte} {f : Nat → Chip → Chip} :=
      State.onPart_of_eq (mbxArgs_of_refused (p := s.part) (m := m) (cmd := cmd) (op := op) (pay := pay) (f := f) h)
    have hdescriptor {m cmd op : Nat} {f : Nat → Chip → Chip} :=
      State.onPart_of_eq (mbxDescriptor_of_refused (p := s.part) (m := m) (cmd := cmd) (op := op) (f := f) h)
    have hgate {cmd entry len : Nat} := State.onPart_of_eq (mbxGate_of_refused (p := s.part) (cmd := cmd) (entry := entry) (len := len) h)
    exact ⟨hdescriptor, hargs, hargs, hargs, hdescriptor, hargs, hgate, hgate, State.onPart_of_eq (mbxUnknown_of_refused (p := s.part) h)⟩

end Sys2Proof.Machine

/-!
PROOFS. The twin link (R446 to R450, R471): the link that comes up and goes down, pairing, heartbeats and their windows, and the
obligation over them.
-/

namespace Sys2Proof.Machine

/-! ### The link comes up and goes down (R446, R456, R471) -/

section Link
variable {c : Chip} {g n : Nat}

theorem twinLinkUp_in_recovery (hmode : c.power.mode = .recovery) (hport : c.portMode 0 = pmRecovery) :
    twinLinkUp g c = (c.twinUp g).twinSend 0x40 0 (leBytes 4 0 ++ leBytes 4 recChunk) :=
  if_pos ⟨hmode, hport⟩

theorem twinLinkUp_says_hello (hmode : c.power.mode ≠ .recovery) (hport : c.twinPort = true) (htwin : c.twin ≠ twDetached)
    (hup : c.vehicleUp = true) : twinLinkUp g c = (c.twinUp g).sayHello := by
  simp only [twinLinkUp, hmode, hport, htwin, hup, false_and, Bool.true_eq_false, or_self, if_false, if_true]

theorem linkDown_of_up (hn : n < 2) (hup : c.portUp n = true) :
    linkDown n c = (c.portDown n).linkRecord (if n = 0 ∧ c.twin = twPaired then 2 else 0) 4 n none := by
  simp only [linkDown, Nat.not_le.2 hn, hup, Bool.true_eq_false, or_self, if_false]

theorem linkDown_of_down (hup : c.portUp n = false) : linkDown n c = c := if_pos (.inr hup)

end Link

/-! ### Pairing (R446) -/

theorem twinHello_of_pairing {p : Part} {t r : Nat} {n : List Byte} (h : p.chip.canPair = true) :
    twinHello t r n p = Part.sendReport { p with chip := p.chip.heardHello t r n } n := by
  simp only [twinHello, h, Bool.true_eq_false, if_false]

theorem twinHello_of_unable {p : Part} {t r : Nat} {n : List Byte} (h : p.chip.canPair = false) : twinHello t r n p = p := if_pos h

section Pairing
variable {c : Chip} {r : List Byte} {k : Nat}

theorem twinReport_of_pairing (hcan : c.canPair = true) (htwin : c.twin = twPairing) (hnonce : c.link.nonce.isNone = false) :
    twinReport r c = c.reportJudged r (c.reportFault r) := by
  simp only [twinReport, hcan, htwin, hnonce, ne_eq, not_true_eq_false, Bool.true_eq_false, Bool.false_eq_true, or_self, if_false]

theorem twinPaired_of_pairing (hcan : c.canPair = true) (htwin : c.twin = twPairing) :
    twinPaired c = (c.updLink (fun l => { l with gotPaired := true })).pairUp := by
  simp only [twinPaired, hcan, htwin, ne_eq, not_true_eq_false, Bool.true_eq_false, or_self, if_false]

theorem pairFault_of_pairing (hcan : c.canPair = true) (htwin : c.twin = twPairing) : pairFault k c = c.pairFault k := by
  simp only [pairFault, hcan, htwin, ne_eq, not_true_eq_false, Bool.true_eq_false, or_self, if_false]

theorem twinReport_of_other (htwin : c.twin ≠ twPairing) : twinReport r c = c := if_pos (.inr (.inl htwin))

theorem twinPaired_of_other (htwin : c.twin ≠ twPairing) : twinPaired c = c := if_pos (.inr htwin)

theorem pairFault_of_other (htwin : c.twin ≠ twPairing) : pairFault k c = c := if_pos (.inr htwin)

end Pairing

section Retry
variable {c : Chip} {t : Nat} (ht : c.link.faultAt = some t)
include ht

theorem pairRetry_of_due (hcan : c.canPair = true) (htwin : c.twin = twFault) (hdue : t + 1000000000 ≤ c.now) : pairRetry c = c.sayHello := by
  simp only [pairRetry, ht, hcan, htwin, Nat.not_lt.2 hdue, ne_eq, not_true_eq_false, Bool.true_eq_false, or_self, if_false]

theorem pairRetry_of_early (hearly : c.now < t + 1000000000) : pairRetry c = c := by
  simp only [pairRetry, ht, hearly, or_true, if_true]

end Retry

/-! ### Heartbeats and their windows (R448, R449) -/

section Beats
variable {c : Chip}

theorem heartbeatTick_of_due (h : c.beatDue = true) : heartbeatTick c = c.beat := if_pos h

theorem heartbeatTick_of_early (h : c.beatDue = false) : heartbeatTick c = c := if_neg (Bool.eq_false_iff.1 h)

theorem heartbeatRx_of_message (h : c.twinOn = true) :
    heartbeatRx false c = c.updLink (fun l => { l with seenPath := nsInsert l.seenPath (windowOf c.now) }) :=
  if_pos h

theorem heartbeatWindow_of_over (h : c.windowOver = true) : heartbeatWindow c = c.judgeWindow := if_pos h

theorem heartbeatWindow_of_open (h : c.windowOver = false) : heartbeatWindow c = c := if_neg (Bool.eq_false_iff.1 h)

end Beats

/-- Settles O46: each message by the state of the pairing, a beat and a window by their times. That a HELLO outside a pairing
begins one is log 71. -/
theorem theTwinPairsAndBeats : Obligations.TheTwinPairsAndBeats := by
  unfold Obligations.TheTwinPairsAndBeats
  refine ⟨?hello, ?recovery, ?heard, ?unheard, ?report, ?paired, ?outside, ?retry, ?noRetry, ?beat, ?noBeat, ?edge, ?heartbeat, ?window,
    ?openWindow, ?down, ?isDown⟩
  case hello =>
    intro s g hmode hport htwin hup
    exact State.on_of_eq (twinLinkUp_says_hello hmode hport htwin hup)
  case recovery =>
    intro s g hmode hport
    exact State.on_of_eq (twinLinkUp_in_recovery hmode hport)
  case heard =>
    intro s t r n h
    exact State.onPart_of_eq (twinHello_of_pairing (p := s.part) h)
  case unheard =>
    intro s t r n h
    exact State.onPart_of_eq (twinHello_of_unable (p := s.part) h)
  case report =>
    intro s r hcan htwin hnonce
    exact State.on_of_eq (twinReport_of_pairing hcan htwin hnonce)
  case paired =>
    intro s hcan htwin
    exact ⟨State.on_of_eq (twinPaired_of_pairing hcan htwin), fun k => State.on_of_eq (pairFault_of_pairing hcan htwin)⟩
  case outside =>
    intro s k r htwin
    exact ⟨State.on_of_eq (twinPaired_of_other htwin), State.on_of_eq (pairFault_of_other htwin), State.on_of_eq (twinReport_of_other htwin)⟩
  case retry =>
    intro s t ht hcan htwin hdue
    exact State.on_of_eq (pairRetry_of_due ht hcan htwin hdue)
  case noRetry =>
    intro s t ht hearly
    exact State.on_of_eq (pairRetry_of_early ht hearly)
  case beat =>
    intro s h
    exact State.on_of_eq (heartbeatTick_of_due h)
  case noBeat =>
    intro s h
    exact State.on_of_eq (heartbeatTick_of_early h)
  case edge =>
    intro s
    exact State.on_eq s (heartbeatRx true)
  case heartbeat =>
    intro s h
    exact State.on_of_eq (heartbeatRx_of_message h)
  case window =>
    intro s h
    exact State.on_of_eq (heartbeatWindow_of_over h)
  case openWindow =>
    intro s h
    exact State.on_of_eq (heartbeatWindow_of_open h)
  case down =>
    intro s p hp hup
    exact State.on_of_eq (linkDown_of_up hp hup)
  case isDown =>
    intro s p hup
    exact State.on_of_eq (linkDown_of_down hup)

end Sys2Proof.Machine

/-!
PROOFS. The vehicle network (R473 to R487, R495): the Ethernet switch and its gate lists, the host rings, FRER and CAN, and the
obligation over them.
-/

namespace Sys2Proof.Machine

/-! ### Frames of the switch (R473, R474) -/

section Ethernet
variable {p : Part} {n : Nat} {d : List Byte}

theorem ethFrameRx_takes (hn : n < 8) (hon : p.chip.switching = true) (h14 : 14 ≤ d.length) (hmax : d.length + 4 ≤ 9216) :
    ethFrameRx n d p = { p with chip := (p.chip.frameIn n).frameTaken p.sec.netKeys n d } := by
  simp only [ethFrameRx, Nat.not_le.2 hn, hon, Nat.not_lt.2 h14, Nat.not_lt.2 hmax, Bool.true_eq_false, or_self, if_false]

theorem ethFrameRx_drops (hn : n < 8) (hon : p.chip.switching = true) (hlen : d.length < 14 ∨ 9216 < d.length + 4) :
    ethFrameRx n d p = { p with chip := (p.chip.frameIn n).netDrop n } := by
  simp only [ethFrameRx, Nat.not_le.2 hn, hon, hlen, Bool.true_eq_false, or_self, if_false, if_true]

theorem ethFrameTx_sends {q : Nat} {f : EthFrame} (hmay : p.chip.maySend n = true) (hq : p.chip.egressQueue n = some (q, f)) :
    ethFrameTx n p = { p with chip := p.chip.sendFrame p.sec.netKeys n q f } := by
  simp only [ethFrameTx, hmay, hq, Bool.not_true, Bool.false_eq_true, if_false]

theorem ethFrameTx_of_none (h : p.chip.maySend n = false ∨ p.chip.egressQueue n = none) : ethFrameTx n p = p := by
  rcases h with hmay | hq
  · simp only [ethFrameTx, hmay, Bool.not_false, if_true]
  · simp only [ethFrameTx, hq, ite_self]

end Ethernet

/-! ### Gate lists, host rings, FRER and links (R476, R477, R482, R495) -/

section Switch
variable {c : Chip} {n : Nat}

theorem gateInterval_starts {g : GateRun} (hnext : AMap.get? c.net.nextGates n = some g) (hdue : g.since ≤ c.now) :
    gateInterval n c = c.updNet (fun w => { w with gates := AMap.set w.gates n g, nextGates := AMap.del w.nextGates n }) := by
  simp only [gateInterval, hnext, hdue, if_true]

theorem gateInterval_advances {g : GateRun} (hnext : AMap.get? c.net.nextGates n = none) (hg : AMap.get? c.net.gates n = some g) :
    gateInterval n c = c.advanceGate n g := by
  simp only [gateInterval, hnext, Chip.gateGoesOn, hg]

theorem netDmaTail_of_foreign {t v : Nat} (htag : c.netTagOk t = false) : netDmaTail t n v c = c := if_pos (.inr htag)

/-- R482: a transmit ring that is enabled takes what the tail posts; a receive ring keeps its tail. -/
theorem netDmaTail_of_own {t v : Nat} (hn : n < 16) (htag : c.netTagOk t = true) :
    netDmaTail t n v c =
      if 8 ≤ n ∨ (c.setReg (NET_DMA_TAIL n) v).flag (NET_DMA_RING n) NET_DMA_RING.EN = false then c.setReg (NET_DMA_TAIL n) v
      else Chip.takeTx n ((c.setReg (NET_DMA_TAIL n) v).postedTx n v) (c.setReg (NET_DMA_TAIL n) v) := by
  simp only [netDmaTail, Nat.not_le.2 hn, htag, Bool.true_eq_false, or_self, if_false]

theorem frerReset_of_old (h : c.recoveryOld n = true) :
    frerReset n c = c.updNet (fun w => { w with recovery := AMap.del w.recovery (swKey (swEntry c.net.image 4 n)) }) := if_pos h

theorem frerReset_of_fresh (h : c.recoveryOld n = false) : frerReset n c = c := if_neg (Bool.eq_false_iff.1 h)

theorem ethLinkDown_of_up (hn : n < 8) (hup : c.flag (NET_PORT_STATUS n) NET_PORT_STATUS.UP = true) :
    ethLinkDown n c =
      ((c.setFld (NET_PORT_STATUS n) NET_PORT_STATUS.UP 0).setFld (NET_PORT_STATUS n) NET_PORT_STATUS.MBPS 0).netRecord 0 0x0A n none := by
  simp only [ethLinkDown, Nat.not_le.2 hn, hup, Bool.true_eq_false, or_self, if_false]

end Switch

/-! ### CAN (R483 to R486, R495) -/

section CanRx
variable {c d : Chip} {n sof : Nat} {f : CanFrame} (hon : c.canOn n = true) (htakes : c.canTakes n f = true)
  (hwheel : c.wheelFrames n f.idw sof f.data = d)
include hon htakes hwheel

theorem canFrameRx_routed {e : List Byte} (hroute : d.routeOf n f = some e) : canFrameRx n sof f c = d.canRoute n sof e f := by
  simp only [canFrameRx, hon, htakes, hwheel, hroute, Bool.not_true, Bool.or_self, Bool.false_eq_true, if_false]

theorem canFrameRx_unmatched (hroute : d.routeOf n f = none) :
    canFrameRx n sof f c = if d.flag (CAN_CTRL n) CAN_CTRL.RX_UNMATCHED = true then d.canRecord n (f.record sof false) else d := by
  simp only [canFrameRx, hon, htakes, hwheel, hroute, Bool.not_true, Bool.or_self, Bool.false_eq_true, if_false]

end CanRx

section CanTx
variable {c : Chip} {n : Nat}

theorem canTxTail_of_own {t v : Nat} (hn : n < 16) (ht : t = 0 ∨ t = c.canTag) : canTxTail t n v c = c.setReg (CAN_TX_TAIL n) v := by
  have hown : ¬ (t ≠ 0 ∧ t ≠ c.canTag) := by tauto
  simp only [canTxTail, Nat.not_le.2 hn, hown, or_self, if_false]

theorem canTxTail_of_foreign {t v : Nat} (h0 : t ≠ 0) (htag : t ≠ c.canTag) : canTxTail t n v c = c := if_pos (.inr ⟨h0, htag⟩)

theorem canArbitration_sends {r : CanFrame × Chip} (hon : c.canOn n = true) (hr : c.canOffer n = some r) :
    canArbitration n true c = r.2.send (.can n r.1.id r.1.ide) (r.1.record 0 false) := by
  simp only [canArbitration, hon, hr, Bool.not_true, Bool.or_self, Bool.false_eq_true, if_false]

theorem canArbitration_of_none {b : Bool} (h : b = false ∨ c.canOffer n = none) : canArbitration n b c = c := by
  rcases h with rfl | hoffer
  · simp only [canArbitration, Bool.not_false, Bool.or_true, if_true]
  · simp only [canArbitration, hoffer, ite_self]

/-- R495: the counts and the state follow, and a limit newly crossed leaves its record. -/
theorem canBusOff_counts (t r : Nat) (hn : n < 16) :
    canBusOff n t r c =
      (let d := c.setReg (CAN_STATUS n) (min t 255 * 2 ^ 24 + min r 255 * 2 ^ 16 + canStateOf t r)
       if canStateOf t r = 2 ∧ c.fld (CAN_STATUS n) CAN_STATUS.STATE ≠ 2 then d.netRecord 2 6 (0x10 + n) none
       else if canStateOf t r = 1 ∧ c.fld (CAN_STATUS n) CAN_STATUS.STATE = 0 then d.netRecord 1 5 (0x10 + n) none
       else d) :=
  if_neg (Nat.not_le.2 hn)

end CanTx

/-- Settles O49: a frame by its port and length, a tail by its tag, a CAN frame by its route, a controller by its counts, whose
limits are those of log 68. That a tail of a tag that may not write changes nothing is log 81. -/
theorem theNetworkMovesFrames : Obligations.TheNetworkMovesFrames := by
  unfold Obligations.TheNetworkMovesFrames
  refine ⟨?takes, ?drops, ?sends, ?sendsNone, ?gateStarts, ?gateAdvances, ?txTail, ?rxTail, ?foreignTail, ?frer, ?frerFresh, ?linkDown,
    ?canRouted, ?canUnmatched, ?canTail, ?canForeign, ?canSends, ?canNone, ?canCounts⟩
  case takes =>
    intro s n d hn hon h14 hmax
    exact State.onPart_of_eq (ethFrameRx_takes (p := s.part) hn hon h14 hmax)
  case drops =>
    intro s n d hn hon hlen
    exact State.onPart_of_eq (ethFrameRx_drops (p := s.part) hn hon hlen)
  case sends =>
    intro s n q f hmay hq
    exact State.onPart_of_eq (ethFrameTx_sends (p := s.part) hmay hq)
  case sendsNone =>
    intro s n h
    exact State.onPart_of_eq (ethFrameTx_of_none (p := s.part) h)
  case gateStarts =>
    intro s n g hnext hdue
    exact State.on_of_eq (gateInterval_starts hnext hdue)
  case gateAdvances =>
    intro s n g hnext hg
    exact State.on_of_eq (gateInterval_advances hnext hg)
  case txTail =>
    intro s t r v hr htag hen
    have hlive : ¬ (8 ≤ r ∨ (s.chip.setReg (NET_DMA_TAIL r) v.toNat).flag (NET_DMA_RING r) NET_DMA_RING.EN = false) := by
      simp only [hen, Nat.not_le.2 hr, Bool.true_eq_false, or_self, not_false_eq_true]
    exact State.on_of_eq ((netDmaTail_of_own (by omega) htag).trans (if_neg hlive))
  case rxTail =>
    intro s t r v hr h8 htag
    exact State.on_of_eq ((netDmaTail_of_own hr htag).trans (if_pos (.inl h8)))
  case foreignTail =>
    intro s t r v htag
    exact State.on_of_eq (netDmaTail_of_foreign htag)
  case frer =>
    intro s n h
    exact State.on_of_eq (frerReset_of_old h)
  case frerFresh =>
    intro s n h
    exact State.on_of_eq (frerReset_of_fresh h)
  case linkDown =>
    intro s n hn hup
    exact State.on_of_eq (ethLinkDown_of_up hn hup)
  case canRouted =>
    intro s n sof idw fl sd vc af d e c hon htakes hwheel hroute
    exact State.on_of_eq (canFrameRx_routed hon htakes hwheel hroute)
  case canUnmatched =>
    intro s n sof idw fl sd vc af d c hon htakes hwheel hroute
    exact State.on_of_eq (canFrameRx_unmatched hon htakes hwheel hroute)
  case canTail =>
    intro s t n v hn ht
    exact State.on_of_eq (canTxTail_of_own hn ht)
  case canForeign =>
    intro s t n v h0 htag
    exact State.on_of_eq (canTxTail_of_foreign h0 htag)
  case canSends =>
    intro s n r hon hr
    exact State.on_of_eq (canArbitration_sends hon hr)
  case canNone =>
    intro s n b h
    exact State.on_of_eq (canArbitration_of_none h)
  case canCounts =>
    intro s n t r hn
    exact State.on_of_eq (canBusOff_counts t r hn)

end Sys2Proof.Machine
